-- ==== Sys2Proof/Word.lean ====
section
/-!
DEFINITION. The byte and byte-string types, and the sparse map in one canonical form on which every table of the
state is built (keys strictly rising).
-/

namespace Sys2Proof

abbrev Byte := BitVec 8

/-- A byte string, byte 0 first. -/
abbrev Bytes := List Byte

/-- A sparse map from addresses, offsets or numbers to values: a list of pairs whose keys strictly rise. -/
abbrev AMap (α : Type) := List (Nat × α)

/-- The value at a key, if the map lists one. -/
def AMap.get? {α : Type} : AMap α → Nat → Option α
  | [], _ => none
  | (k, v) :: m, i => if i = k then some v else AMap.get? m i

/-- The value at a key, or the default that an unlisted key stands for. -/
def AMap.getD {α : Type} (m : AMap α) (i : Nat) (d : α) : α := (AMap.get? m i).getD d

/-- Write a value at a key, keeping the keys rising. -/
def AMap.set {α : Type} : AMap α → Nat → α → AMap α
  | [], i, v => [(i, v)]
  | (k, w) :: m, i, v =>
    if i < k then (i, v) :: (k, w) :: m
    else if i = k then (i, v) :: m
    else (k, w) :: AMap.set m i v

/-- Remove a key. -/
def AMap.erase {α : Type} : AMap α → Nat → AMap α
  | [], _ => []
  | (k, w) :: m, i => if i = k then m else (k, w) :: AMap.erase m i

/-- The canonical form: keys strictly rising. -/
def AMap.wf {α : Type} (m : AMap α) : Bool := decide ((m.map Prod.fst).Pairwise (· < ·))

end Sys2Proof
end

