-- ==== Sys2Proof/Syntax.lean ====
section
/-!
DEFINITION. The commands of the block: one constructor per row of spec/opcode_table.json, and the operand types. What a
row takes from outside the device (host memory that the device reads, what the tape, the NAND, the endpoints or the
fabric return) is an operand; everything else comes from the state.
-/

namespace Sys2Proof

/-- PCIe port (R29). -/
inductive Port where | a | b
  deriving DecidableEq, Repr, Inhabited

/-- PCIe physical function (R30). -/
inductive Fn where | pf0 | pf1
  deriving DecidableEq, Repr, Inhabited

/-- What a configuration request asks of a function (R29, R30): to read an item of its identity, capabilities or link, or
to set one that software controls. -/
inductive CfgReq where
  | vendorId | deviceId | classCode | msixVectors | linkSpeed | linkWidth
  /-- bytes of BAR0 or BAR2 -/
  | barSize (bar : Nat)
  | maxPayload (bytes : Nat)
  | maxReadRequest (bytes : Nat)
  | power (d3hot : Bool)
  | aspmL1 (on : Bool)
  deriving DecidableEq, Repr, Inhabited

/-- A scatter list element (R41). -/
structure ScatterElem where
  addr : Nat
  len : Nat
  deriving DecidableEq, Repr, Inhabited

/-- A place on tape: Tape Clock value and wrap. -/
structure TapePlace where
  clock : Nat
  wrap : Nat
  deriving DecidableEq, Repr, Inhabited

/-- What reading the tape for LOAD finds (R167): directory copies, then data sets forward from end of data. -/
inductive ScanItem where
  /-- a directory slot of a partition: copy B or A, and the user area, or none when it cannot be read -/
  | directory (part : Nat) (copyB : Bool) (user : Option Bytes)
  /-- a data set of a partition: its DSIT, where it begins, and its user area for an open Loft -/
  | dataSet (part : Nat) (dsit : Bytes) (clock : Nat) (user : Bytes)
  deriving DecidableEq, Repr, Inhabited

/-- A row of the certify pass as the trailing module read it: where it lies (1/256 frame), C1 symbols read and corrected (R151). -/
structure RowSurvey where
  start : Nat
  stop : Nat
  symbolsRead : Nat
  symbolsCorrected : Nat
  deriving DecidableEq, Repr, Inhabited

/-- What the certify pass measures of one wrap (R151, R153): its rows, C1 failures (channel, position in 1/256 frame) and
stretches without sync (channel, start, end). -/
structure WrapSurvey where
  wrap : Nat
  rows : List RowSurvey
  fails : List (Nat × Nat)
  syncLost : List (Nat × Nat × Nat)
  deriving DecidableEq, Repr, Inhabited

/-- A request to the Stable Keeper (R82). -/
structure StallReq where
  req : Nat
  stable : Nat
  count : Nat
  deriving DecidableEq, Repr, Inhabited

/-- A presenter's requester ID and the handle it presents (R86). -/
structure StallOp where
  req : Nat
  stall : Nat
  gen : Nat
  deriving DecidableEq, Repr, Inhabited

/-- What goes wrong inside a compression engine during a job (R106). -/
inductive EngineFault where
  | none | verifyMismatch | inputEcc | outputEcc
  deriving DecidableEq, Repr, Inhabited

/-- What the verifier sees of one row copy (R209). A codeword that decodes gives its corrected errors and its erasures. -/
structure VerdictObs where
  part : Nat
  ds : Nat
  sds : Nat
  row : Nat
  chan : Nat
  slot : Nat
  copy : Nat
  syncFound : Bool
  crcOk : Bool
  headerEq : Bool
  cw0 : Option (Nat × Nat)
  cw1 : Option (Nat × Nat)
  deriving DecidableEq, Repr, Inhabited

/-- The patterns that sync search looks for (R238). -/
inductive SyncKind where | forward | mid | split
  deriving DecidableEq, Repr, Inhabited

/-- What a read channel finds in a sync window (R238-R241): which pattern, its place relative to the prediction in
channel bits, its bits in error, whether the mid resync is elsewhere than forward + 2,070, the Tape Clock position of the
pattern, and the interpolator's samples, one for each channel bit since the channel's sync before and ten more on each side,
in units of 1/16. -/
structure SyncObs where
  kind : SyncKind
  offset : Int
  errors : Nat
  conflict : Bool
  pos : Nat
  xs : List Int
  deriving DecidableEq, Repr, Inhabited

/-- Where a row copy stands on its channel: a position of the data set, or a slot of a reserve or ahead of a data set
(R148, R194). -/
inductive RowSlot where
  | pos (n : Nat)
  | other
  deriving DecidableEq, Repr, Inhabited

/-- A split row (R193): the channel bits before the split point, and where among the bits read the split point stands and the
row goes on: after the split resync or, missed, after the place that the span end predicts for it (R240). -/
structure RowSplit where
  before : Nat
  cut : Nat
  resume : Nat
  deriving DecidableEq, Repr, Inhabited

/-- What a read channel gives of one row copy: the equaliser outputs, in units of 1/16, over the row and the bits about it,
and the indexes among them at which its forward sync and mid resync begin, when they are found, and at which the row is
predicted to begin (R238, R240). -/
structure RowRead where
  chan : Nat
  slot : RowSlot
  ys : List Int
  fwd : Option Nat
  mid : Option Nat
  pred : Nat
  split : Option RowSplit
  deriving DecidableEq, Repr, Inhabited

/-- What a decoder is given of a data set (R243): the rows read and, at rung 4, those of the other members of its Loft that
read staging does not hold (R249). -/
structure DecodeRes where
  decoder : Nat
  part : Nat
  ds : Nat
  rows : List RowRead
  others : List (Nat × List RowRead)
  deriving DecidableEq, Repr, Inhabited

/-- One servo reader's crossings of a frame (R263), in 1/64 sample, ordered by burst in the direction of frame
numbering: A 0-3, B 0-3, C 0-2, D 0-2; none when not all 14 are found. -/
structure ServoObs where
  readers : List (Option (List Int))
  /-- time between successive A-stripe-0 crossings, in 1/64 sample (R270) -/
  period : Nat
  /-- frames, counted by burst A, by which each reader has moved on since its previous frame -/
  advance : List Nat
  /-- the direction in which the tape moved over the frame -/
  reverse : Bool
  deriving DecidableEq, Repr, Inhabited

/-- A monitor's sample and its mean over `sample_period` (R431). -/
structure MonSample where
  monitor : Nat
  sample : Int
  mean : Int
  deriving DecidableEq, Repr, Inhabited

/-- The clock inputs of R457. -/
inductive ClockIn where | pcieA | pcieB | fabric | afe | sys
  deriving DecidableEq, Repr, Inhabited

/-- What begins Dusk (R338). -/
inductive DuskCause where | pfail | reset
  deriving DecidableEq, Repr, Inhabited

/-- The fuses (R407): signer hashes, revoked bits, thermometer code, nonce prefix, device secret, CRC-32. -/
structure Fuses where
  signers : List Bytes
  revoked : Nat
  thermometer : Nat
  noncePrefix : Nat
  secret : Bytes
  crc : Nat
  deriving DecidableEq, Repr, Inhabited

/-- One DDR5 channel as training finds it (R467, R468). -/
structure DdrFit where
  trained : Bool
  capacity : Nat
  ranks : Nat
  width : Nat
  rate : Nat
  deriving DecidableEq, Repr, Inhabited

/-- What stage D3 finds (R398): the DDR channels, the NAND (R303, R304), write lanes and rails, receive links, and Shed
units that can be neither read nor rebuilt (R334). -/
structure D3Res where
  ddr : List DdrFit
  dies : Nat
  blocksPerPlane : Nat
  ppbCode : Nat
  nandUniform : Bool
  lanes : List Bool
  railsGood : Bool
  linksUp : List Bool
  unreadable : List Nat
  deriving DecidableEq, Repr, Inhabited

/-- What stage D4 finds: whether segment 0x05 still matches its hash (R403) and the calibrated taps by channel and
class (R235). -/
structure D4Res where
  hashOk : Bool
  taps : List (Nat × Nat × List Nat)
  deriving DecidableEq, Repr, Inhabited

/-- A Yard message (R377): the header fields and the payload. -/
structure YMsg where
  type : Nat
  seg : Nat
  epoch : Nat
  yard : Nat
  stripe : Nat
  src : Nat
  dst : Nat
  role : Nat
  slot : Nat
  payload : Bytes
  deriving DecidableEq, Repr, Inhabited

/-- A lane frame about to be sent (R200-R202): when it begins a row slot, its launch count and fraction, and how far in nm the first
channel bit that they launch falls from the slot's scheduled place. -/
structure LaneObs where
  launch : Nat
  fraction : Nat
  off : Int
  deriving DecidableEq, Repr, Inhabited

set_option maxRecDepth 4000 in
/-- The commands, in the order of the table. -/
inductive Instr where
  /-- SQ_TAIL_DOORBELL (R33): `ring` 0-31 is the doorbell page, 32 the management doorbell registers; `value` is the 32-bit word written -/
  | sqTailDoorbell (p : Port) (ring : Nat) (value : Nat)
  /-- CQ_HEAD_DOORBELL (R34): `ring` 0-31 is the doorbell page, 32 the management doorbell registers; `value` is the 32-bit word written -/
  | cqHeadDoorbell (p : Port) (ring : Nat) (value : Nat)
  /-- RING_ENABLE (R471) -/
  | ringEnable (p : Port) (ring : Nat)
  /-- RING_DISABLE (R471) -/
  | ringDisable (p : Port) (ring : Nat)
  /-- QUEUE_RESET (R71) -/
  | queueReset (p : Port) (ring : Nat)
  /-- QUEUE_RESET_DONE (R71) -/
  | queueResetDone (p : Port) (ring : Nat)
  /-- FETCH_TURN (R36): `entries` are the 64-byte submission entries the device reads from host memory, in ring order from the fetch pointer of the ring the turn goes to -/
  | fetchTurn (entries : List Bytes)
  /-- COMPLETION_WRITE (R34): `seq` names the completing command -/
  | completionWrite (seq : Nat)
  /-- COALESCE_TIME_EXPIRY (R35) -/
  | coalesceTimeExpiry (p : Port) (ring : Nat)
  /-- FLR_PF0 (R72) -/
  | flrPf0 (p : Port)
  /-- FLR_PF1 (R72) -/
  | flrPf1 (p : Port)
  /-- LINK_DOWN (R72) -/
  | linkDown (p : Port)
  /-- PERST_ASSERT (R447) -/
  | perstAssert (p : Port)
  /-- PERST_DEASSERT (R447) -/
  | perstDeassert (p : Port)
  /-- PCIE_CONFIG_REQUEST (R399) -/
  | pcieConfigRequest (p : Port) (f : Fn) (req : CfgReq)
  /-- HOST_DMA_COMPLETE (R103): packet `idx` of the write accepted as `seq`, the ingress Stall it fills and its host bytes -/
  | hostDmaComplete (seq idx stall : Nat) (data : Bytes)
  /-- GATE_LOCK_GRANT (R63) -/
  | gateLockGrant
  /-- COPIES_SETTLED (R62) -/
  | copiesSettled (seq : Nat)
  /-- WRITE_RECORDS (R46): `seq` is the acceptance sequence of the fetched command; the rest is what it reads from host memory: scatter list, 64-bit length list words, header slots -/
  | writeRecords (seq : Nat) (sgl : Bytes) (lens : List Nat) (hdrs : List Bytes)
  /-- READ_RECORDS (R48) -/
  | readRecords (seq : Nat) (sgl : Bytes)
  /-- SYNC (R60) -/
  | sync (seq : Nat)
  /-- SYNC_LEVEL_REACHED (R60) -/
  | syncLevelReached (seq : Nat)
  /-- LOCATE (R168): `found` is none when the command is admitted and the place found once the tape has been read forward to it -/
  | locate (seq : Nat) (found : Option TapePlace)
  /-- WRITE_MARK (R99) -/
  | writeMark (seq : Nat)
  /-- READ_POSITION (R49) -/
  | readPosition (seq : Nat)
  /-- LOAD (R288): `scan` is what reading the tape finds once the Tape Clock is locked: directory copies, then data sets forward from end of data -/
  | load (seq : Nat) (scan : List ScanItem)
  /-- UNLOAD (R51) -/
  | unload (seq : Nat)
  /-- UNLOAD_PROCEED (R51) -/
  | unloadProceed (seq : Nat)
  /-- FORMAT_PARTITIONS (R50): `table` holds the 64-bit partition table words; `certify` what the certify pass measures of each wrap -/
  | formatPartitions (seq : Nat) (table : List Nat) (certify : List WrapSurvey)
  /-- ABORT (R70) -/
  | abort (seq : Nat)
  /-- WRITE_LANDING (R57) -/
  | writeLanding (seq : Nat) (sgl : Bytes) (blocks : List Bytes)
  /-- READ_LANDING (R57) -/
  | readLanding (seq : Nat) (sgl : Bytes)
  /-- DISCARD_LANDING (R322) -/
  | discardLanding (seq : Nat)
  /-- LAY_LANDING (R57) -/
  | layLanding (seq : Nat)
  /-- GET_LOG (R52) -/
  | getLog (seq : Nat) (sgl : Bytes)
  /-- SET_FEATURE (R53) -/
  | setFeature (seq : Nat)
  /-- GET_FEATURE (R53) -/
  | getFeature (seq : Nat)
  /-- KEY_INJECT (R126) -/
  | keyInject (seq : Nat) (sgl : Bytes) (block : Bytes)
  /-- KEY_ERASE (R132) -/
  | keyErase (seq : Nat)
  /-- KEY_ERASE_NOR_DONE (R132) -/
  | keyEraseNorDone (slot : Nat)
  /-- RETIRING_GENERATION_END (R132) -/
  | retiringGenerationEnd (slot : Nat)
  /-- KEY_QUERY (R124) -/
  | keyQuery (seq : Nat)
  /-- GET_TRANSPORT_KEY (R124) -/
  | getTransportKey (seq : Nat) (sgl : Bytes)
  /-- CFG_STAGE (R418): `data` is the bytes the scatter list names -/
  | cfgStage (seq : Nat) (sgl : Bytes) (data : Bytes)
  /-- CFG_CHECK (R415) -/
  | cfgCheck (seq : Nat)
  /-- CFG_COMMIT (R412) -/
  | cfgCommit (seq : Nat)
  /-- CFG_DISCARD (R411) -/
  | cfgDiscard (seq : Nat)
  /-- IMAGE_WRITE (R418): `data` is the bytes the scatter list names -/
  | imageWrite (seq : Nat) (sgl : Bytes) (data : Bytes)
  /-- IMAGE_QUERY (R418) -/
  | imageQuery (seq : Nat) (sgl : Bytes)
  /-- FUSE_ADVANCE (R408) -/
  | fuseAdvance (seq : Nat)
  /-- FUSE_REVOKE (R408) -/
  | fuseRevoke (seq : Nat)
  /-- FW_ACTIVATE (R429) -/
  | fwActivate (seq : Nat)
  /-- ACTIVATION_NIGHT_READY (R429): `ok` is clear when the heartbeat of the restarted Night core is missed -/
  | activationNightReady (ok : Bool)
  /-- ACTIVATION_HOLD_EXPIRY (R429) -/
  | activationHoldExpiry (seq : Nat)
  /-- ATTEST (R437): `us` is microseconds since Dawn -/
  | attest (seq : Nat) (sgl : Bytes) (challenge : Bytes) (us : Nat)
  /-- GET_IDENTITY (R436) -/
  | getIdentity (seq : Nat) (sgl : Bytes)
  /-- IDENTITY_SET_CERT (R436): `data` is the bytes the scatter list names -/
  | identitySetCert (seq : Nat) (sgl : Bytes) (data : Bytes)
  /-- SHED_DROP_PENDING (R336): `data` is the bytes the scatter list names -/
  | shedDropPending (seq : Nat) (sgl : Bytes) (data : Bytes)
  /-- CHANNEL_RETIRE (R439) -/
  | channelRetire (seq : Nat)
  /-- YARD_ENROL (R347): `data` is the bytes the scatter list names -/
  | yardEnrol (seq : Nat) (sgl : Bytes) (data : Bytes)
  /-- YARD_DECLARE_LOST (R367) -/
  | yardDeclareLost (seq : Nat)
  /-- YARD_REPLACE (R370) -/
  | yardReplace (seq : Nat)
  /-- YARD_RESHAPE (R374): `data` is the bytes the scatter list names -/
  | yardReshape (seq : Nat) (sgl : Bytes) (data : Bytes)
  /-- YARD_QUERY (R380) -/
  | yardQuery (seq : Nat) (sgl : Bytes)
  /-- VIOLATION (R19): an access of `width` bits at `offset` of the BAR0 of function `f`, with the value written -/
  | violation (p : Port) (f : Fn) (offset width : Nat) (write : Bool) (data : Nat)
  /-- REGISTER_WRITE (R19): an aligned 32-bit write through PF1 -/
  | registerWrite (p : Port) (offset value : Nat)
  /-- ENGINE_FAULT_CLEAR (R107): `value` is the word written to CMP_ENGINE_STATUS -/
  | engineFaultClear (value : Nat)
  /-- STK_PROBE_SEL (R92): `value` is the word written -/
  | stkProbeSel (value : Nat)
  /-- CIP_SLOT_SEL (R139): `value` is the word written -/
  | cipSlotSel (value : Nat)
  /-- SRV_SCHED_SEL (R300): `value` is the word written -/
  | srvSchedSel (value : Nat)
  /-- FAB_ROUTE_SEL (R397): `value` is the word written -/
  | fabRouteSel (value : Nat)
  /-- YRD_MEMBER_SEL (R381): `value` is the word written -/
  | yrdMemberSel (value : Nat)
  /-- MGT_MON_SEL (R441): `value` is the word written -/
  | mgtMonSel (value : Nat)
  /-- TAPE_CLOCK_READ_LATCH (R300) -/
  | tapeClockReadLatch
  /-- STALL_REQUEST (R82): the requests presented in one datapath cycle -/
  | stallRequest (reqs : List StallReq)
  /-- STALL_FREE (R87): the frees presented in one datapath cycle -/
  | stallFree (frees : List StallOp)
  /-- STALL_CHAIN_FREE (R88) -/
  | stallChainFree (op : StallOp)
  /-- STALL_TRANSFER (R87) -/
  | stallTransfer (op : StallOp) (dest : Nat)
  /-- STALL_LINK (R87) -/
  | stallLink (op : StallOp) (next : Nat)
  /-- STALL_PIN (R87) -/
  | stallPin (stall gen : Nat)
  /-- STALL_UNPIN (R87) -/
  | stallUnpin (stall : Nat)
  /-- STALL_WAIT_GRANT (R83) -/
  | stallWaitGrant (stable : Nat)
  /-- FREE_CACHE_REFILL (R81) -/
  | freeCacheRefill (stable : Nat)
  /-- FREE_CACHE_WRITEBACK (R81) -/
  | freeCacheWriteback (stable : Nat)
  /-- ENGINE_DISPATCH (R103) -/
  | engineDispatch
  /-- COMPRESSION_DONE (R106): `fault` says what went wrong inside the engine, if anything -/
  | compressionDone (engine : Nat) (fault : EngineFault)
  /-- ENGINE_LEAVE_SERVICE (R107) -/
  | engineLeaveService (engine : Nat)
  /-- READ_DLZ_DISPATCH (R105) -/
  | readDlzDispatch
  /-- DECOMPRESSION_DONE (R115) -/
  | decompressionDone (engine : Nat)
  /-- CIPHER_TAKE_PACKET (R104) -/
  | cipherTakePacket
  /-- READ_DECRYPT (R137) -/
  | readDecrypt (seq : Nat)
  /-- DATA_SET_ENCODED (R174) -/
  | dataSetEncoded (part : Nat)
  /-- DATA_SET_BOUNDARY (R219): how long the pitch that ends took -/
  | dataSetBoundary (durationNs : Nat)
  /-- LOFT_EARLY_CLOSE (R178) -/
  | loftEarlyClose (part : Nat)
  /-- VERIFY_VERDICT (R210) -/
  | verifyVerdict (obs : VerdictObs)
  /-- WRITE_STOPPED (R215) -/
  | writeStopped (part ds : Nat)
  /-- BACKLOG_RESTART (R222) -/
  | backlogRestart (part : Nat)
  /-- COMMIT (R412): `idx` is the index of the position scheduler entry that fires -/
  | commit (idx : Nat)
  /-- DENSITY (R149): `idx` is the index of the position scheduler entry that fires -/
  | density (idx : Nat)
  /-- WINDOW_CLOSE (R221): `idx` is the index of the position scheduler entry that fires -/
  | windowClose (idx : Nat)
  /-- TURNAROUND (R287): `idx` is the index of the position scheduler entry that fires -/
  | turnaround (idx : Nat)
  /-- WINDOW_OPEN (R221): `idx` is the index of the position scheduler entry that fires -/
  | windowOpen (idx : Nat)
  /-- SPLIT (R153): `idx` is the index of the position scheduler entry that fires -/
  | split (idx : Nat)
  /-- REWRITE_AREA (R210): `idx` is the index of the position scheduler entry that fires -/
  | rewriteArea (idx : Nat)
  /-- READ_WINDOW (R238): `idx` is the index of the position scheduler entry that fires -/
  | readWindow (idx : Nat)
  /-- SETTLED (R289): `idx` is the index of the position scheduler entry that fires -/
  | settled (idx : Nat)
  /-- SERVO_FRAME (R270) -/
  | servoFrame (frame : ServoObs)
  /-- LPOS_WORD_ACCEPTED (R266): the 36 bits in the order they arrive -/
  | lposWordAccepted (reader : Nat) (bits : List Bool)
  /-- CLOCK_FLYWHEEL_EXPIRY (R274) -/
  | clockFlywheelExpiry
  /-- PES_RESUME (R207) -/
  | pesResume
  /-- STANDSTILL_TICK (R279): reel-derived motion since the previous tick, in 1/256 frame, signed -/
  | standstillTick (travel : Int)
  /-- TENSION_TICK (R279) -/
  | tensionTick
  /-- THREAD_TICK (R279) -/
  | threadTick
  /-- FOLLOWING_ERROR_EXPIRY (R286) -/
  | followingErrorExpiry (loop : Nat)
  /-- SPEED_SETTLED (R289) -/
  | speedSettled
  /-- THREAD_COMPLETE (R288) -/
  | threadComplete
  /-- ACT_FRAME_SEND (R295) -/
  | actFrameSend (link : Nat)
  /-- ACT_STATUS_RECEIVE (R298): the 74 bytes that return after K28.5 -/
  | actStatusReceive (link : Nat) (frame : Bytes)
  /-- ENDPOINT_FAULT (R298) -/
  | endpointFault (endpoint : Nat)
  /-- SPEED_TARGET (R299): the source and the 64-bit argument of the mailbox entry taken -/
  | speedTarget (src arg : Nat)
  /-- STOP_AND_PARK (R289): the source and the 64-bit argument of the mailbox entry taken -/
  | stopAndPark (src arg : Nat)
  /-- REPOSITION (R289): the source and the 64-bit argument of the mailbox entry taken -/
  | reposition (src arg : Nat)
  /-- LATERAL_OFFSET (R299): the source and the 64-bit argument of the mailbox entry taken -/
  | lateralOffset (src arg : Nat)
  /-- WRAP_SELECT (R299): the source and the 64-bit argument of the mailbox entry taken -/
  | wrapSelect (src arg : Nat)
  /-- THREAD (R288): the source and the 64-bit argument of the mailbox entry taken -/
  | thread (src arg : Nat)
  /-- UNTHREAD (R288): the source and the 64-bit argument of the mailbox entry taken -/
  | unthread (src arg : Nat)
  /-- SPEED_CEILING (R299): the source and the 64-bit argument of the mailbox entry taken -/
  | speedCeiling (src arg : Nat)
  /-- LOOP_MODE (R283): the source and the 64-bit argument of the mailbox entry taken -/
  | loopMode (src arg : Nat)
  /-- CLEAR_FAULTS (R283): the source and the 64-bit argument of the mailbox entry taken -/
  | clearFaults (src arg : Nat)
  /-- ORDERLY_STOP (R290): the source and the 64-bit argument of the mailbox entry taken -/
  | orderlyStop (src arg : Nat)
  /-- BRIDLE_UNKNOWN_EVENT (R299) -/
  | bridleUnknownEvent (src code arg : Nat)
  /-- PES_INHIBIT (R205): the source and the 64-bit argument of the mailbox entry taken -/
  | pesInhibit (src arg : Nat)
  /-- SHOCK_INHIBIT (R205): the source and the 64-bit argument of the mailbox entry taken -/
  | shockInhibit (src arg : Nat)
  /-- LOOP_FAULT_INHIBIT (R205): the source and the 64-bit argument of the mailbox entry taken -/
  | loopFaultInhibit (src arg : Nat)
  /-- MANAGEMENT_INHIBIT (R205): the source and the 64-bit argument of the mailbox entry taken -/
  | managementInhibit (src arg : Nat)
  /-- PES_CAUSE_CLEARED (R207): the source and the 64-bit argument of the mailbox entry taken -/
  | pesCauseCleared (src arg : Nat)
  /-- SHOCK_CAUSE_CLEARED (R207): the source and the 64-bit argument of the mailbox entry taken -/
  | shockCauseCleared (src arg : Nat)
  /-- LOOP_CAUSE_CLEARED (R207): the source and the 64-bit argument of the mailbox entry taken -/
  | loopCauseCleared (src arg : Nat)
  /-- MANAGEMENT_CAUSE_CLEARED (R207): the source and the 64-bit argument of the mailbox entry taken -/
  | managementCauseCleared (src arg : Nat)
  /-- WRV_UNKNOWN_EVENT (R223) -/
  | wrvUnknownEvent (src code arg : Nat)
  /-- EARLY_CLOSE_REQUEST (R197): the source and the 64-bit argument of the mailbox entry taken -/
  | earlyCloseRequest (src arg : Nat)
  /-- SHED_RETURN_READY (R318): the source and the 64-bit argument of the mailbox entry taken -/
  | shedReturnReady (src arg : Nat)
  /-- REALLOCATE_WEAK (R257): the source and the 64-bit argument of the mailbox entry taken -/
  | reallocateWeak (src arg : Nat)
  /-- REBUILT_DS_READY (R371): the source and the 64-bit argument of the mailbox entry taken -/
  | rebuiltDsReady (src arg : Nat)
  /-- YARD_PARITY_READY (R358): the source and the 64-bit argument of the mailbox entry taken -/
  | yardParityReady (src arg : Nat)
  /-- CONTROLLED_STOP_BEGUN (R197): the source and the 64-bit argument of the mailbox entry taken -/
  | controlledStopBegun (src arg : Nat)
  /-- FMT_UNKNOWN_EVENT (R197) -/
  | fmtUnknownEvent (src code arg : Nat)
  /-- UNIT_ASSEMBLY_BEGUN (R349): the source and the 64-bit argument of the mailbox entry taken -/
  | unitAssemblyBegun (src arg : Nat)
  /-- UNIT_COMPLETE (R352): the source and the 64-bit argument of the mailbox entry taken -/
  | unitComplete (src arg : Nat)
  /-- YARD_PARITY_LAID (R358): the source and the 64-bit argument of the mailbox entry taken -/
  | yardParityLaid (src arg : Nat)
  /-- RECONSTRUCT_FOR_READ (R369): the source and the 64-bit argument of the mailbox entry taken -/
  | reconstructForRead (src arg : Nat)
  /-- REBUILD_START (R371): the source and the 64-bit argument of the mailbox entry taken -/
  | rebuildStart (src arg : Nat)
  /-- RESHAPE_START (R375): the source and the 64-bit argument of the mailbox entry taken -/
  | reshapeStart (src arg : Nat)
  /-- REACHABILITY_CHANGED (R379): the source and the 64-bit argument of the mailbox entry taken -/
  | reachabilityChanged (src arg : Nat)
  /-- YARD_UNKNOWN_EVENT (R379) -/
  | yardUnknownEvent (src code arg : Nat)
  /-- MGT_EVENT_CONSUME (R425): `us` is microseconds since the Dawn began -/
  | mgtEventConsume (us : Nat)
  /-- CHANNEL_RETIRE_AUTO (R439) -/
  | channelRetireAuto (chan : Nat)
  /-- SYNC_FOUND (R232) -/
  | syncFound (chan : Nat) (obs : SyncObs)
  /-- LOCK_LOSS (R232) -/
  | lockLoss (chan : Nat)
  /-- RESIDUAL_LIMIT (R231) -/
  | residualLimit (chan : Nat)
  /-- SEPARATOR_DETECTED (R242) -/
  | separatorDetected (chan : Nat)
  /-- DATA_SET_DECODED (R246) -/
  | dataSetDecoded (res : DecodeRes)
  /-- LADDER_PASS_RESULT (R252) -/
  | ladderPassResult (res : DecodeRes)
  /-- YARD_WAIT_EXPIRY (R251) -/
  | yardWaitExpiry
  /-- YARD_RECONSTRUCT_RETURN (R251): the data stream returned, or none when the stripe is lost -/
  | yardReconstructReturn (data : Option Bytes)
  /-- READ_AHEAD_START (R325) -/
  | readAheadStart (part : Nat)
  /-- RX_LANE_FAIL (R228): the lane, and the consecutive multiblocks with CRC-12 errors, 0 when sync header lock is lost -/
  | rxLaneFail (lane crc : Nat)
  /-- JESD_LINK_RESTART (R228): a start at a SYSREF edge and whether it succeeds -/
  | jesdLinkRestart (link : Nat) (ok : Bool)
  /-- SHED_PACKET_COPY (R315) -/
  | shedPacketCopy (part : Nat)
  /-- UNIT_PROGRAM_DONE (R316) -/
  | unitProgramDone (u : Nat)
  /-- ROW_HOLD_EXPIRY (R309) -/
  | rowHoldExpiry (stream group : Nat)
  /-- JOURNAL_RECORDS_PENDING (R326) -/
  | journalRecordsPending
  /-- JOURNAL_FLUSH_EXPIRY (R326) -/
  | journalFlushExpiry
  /-- JOURNAL_UNIT_DURABLE (R316) -/
  | journalUnitDurable
  /-- SPILL_LOW (R317) -/
  | spillLow
  /-- SHED_RETURN_READ (R318) -/
  | shedReturnRead (part : Nat)
  /-- SPILL_RELEASE (R319) -/
  | spillRelease (seq : Nat)
  /-- CHECKPOINT_BYTES (R329) -/
  | checkpointBytes
  /-- CHECKPOINT_INTERVAL (R329) -/
  | checkpointInterval
  /-- CHECKPOINT_DURABLE (R329) -/
  | checkpointDurable
  /-- GC_START (R331) -/
  | gcStart (die : Nat)
  /-- GC_STOP (R331) -/
  | gcStop (die : Nat)
  /-- READ_VERIFY_RESULT (R330): `bits` is the most corrected bits per KiB of any unit page; `readable` is clear when a page is uncorrectable -/
  | readVerifyResult (block bits : Nat) (readable : Bool)
  /-- NAND_PROGRAM_FAILURE (R332) -/
  | nandProgramFailure (u : Nat)
  /-- NAND_ERASE_FAILURE (R330) -/
  | nandEraseFailure (block : Nat)
  /-- SHED_UNIT_LOST (R333) -/
  | shedUnitLost (u : Nat)
  /-- SHOCK_ASSERT (R205) -/
  | shockAssert
  /-- SHOCK_RELEASE (R207) -/
  | shockRelease
  /-- CART_PRESENT_CHANGE (R461): the debounced level and, for a cartridge now present, its cartridge memory -/
  | cartPresentChange (level : Bool) (cm : Bytes)
  /-- CLOCK_INPUT_LOST (R458) -/
  | clockInputLost (clk : ClockIn)
  /-- DUSK_BEGIN (R338) -/
  | duskBegin (cause : DuskCause)
  /-- DUSK_DOMAINS_OFF (R338) -/
  | duskDomainsOff
  /-- DUSK_COMPLETE (R338) -/
  | duskComplete
  /-- PFAIL_DEASSERT (R338) -/
  | pfailDeassert
  /-- COLD_START (R398): `fuses` is what was fused at manufacture; it counts only at the first power-up of the device -/
  | coldStart (fuses : Fuses)
  /-- DAWN_D0_DONE (R398) -/
  | dawnD0Done
  /-- DAWN_D1_DONE (R404) -/
  | dawnD1Done
  /-- DAWN_D2_DONE (R398): key records of the NOR whose key-wrap check fails -/
  | dawnD2Done (badKeys : List Nat)
  /-- DAWN_D3_DONE (R398) -/
  | dawnD3Done (res : D3Res)
  /-- DAWN_D4_DONE (R398) -/
  | dawnD4Done (res : D4Res)
  /-- DAWN_D5 (R398): milliseconds spent in D3 and from D0 to D5 -/
  | dawnD5 (d3ms totalMs : Nat)
  /-- SF_SIGNAL_DETECT (R383): `lanes` has bit l set for a lane with signal -/
  | sfSignalDetect (port lanes : Nat)
  /-- SF_LANE_TRAINED (R383) -/
  | sfLaneTrained (port lane : Nat)
  /-- SF_TRAINING_TIMEOUT (R383) -/
  | sfTrainingTimeout (port : Nat)
  /-- HELLO_SEND_TIMER (R383) -/
  | helloSendTimer (port : Nat)
  /-- FLIT_HELLO (R385): the 256 bytes received on port SF*port* -/
  | flitHello (port : Nat) (flit : Bytes)
  /-- HELLO_LOSS_TIMEOUT (R383) -/
  | helloLossTimeout (port : Nat)
  /-- SF_LANE_LOSS (R383) -/
  | sfLaneLoss (port lane : Nat)
  /-- FLIT_DATA (R387): the 256 bytes received on port SF*port* -/
  | flitData (port : Nat) (flit : Bytes)
  /-- FLIT_NAK (R388): the 256 bytes received on port SF*port* -/
  | flitNak (port : Nat) (flit : Bytes)
  /-- FLIT_NULL (R385): the 256 bytes received on port SF*port* -/
  | flitNull (port : Nat) (flit : Bytes)
  /-- FLIT_LSA (R393): the 256 bytes received on port SF*port* -/
  | flitLsa (port : Nat) (flit : Bytes)
  /-- REPLAY_TIMEOUT (R388) -/
  | replayTimeout (port : Nat)
  /-- REPLAY_LIMIT (R388) -/
  | replayLimit (port : Nat)
  /-- FEC_UNCORR_LIMIT (R395) -/
  | fecUncorrLimit (port lane : Nat)
  /-- LANE_REJOIN (R395) -/
  | laneRejoin (port lane : Nat)
  /-- LANE_RETRAIN_RETRY (R395) -/
  | laneRetrainRetry (port lane : Nat)
  /-- LSA_REFRESH_TIMER (R393) -/
  | lsaRefreshTimer
  /-- LSA_AGE_OUT (R393) -/
  | lsaAgeOut (origin : Nat)
  /-- ROUTE_INSTALL (R394) -/
  | routeInstall
  /-- TRANSIT_WAIT_EXPIRY (R390) -/
  | transitWaitExpiry (port vc : Nat)
  /-- CLAIM (R357) -/
  | claim (m : YMsg)
  /-- CLAIM_ACK (R349) -/
  | claimAck (m : YMsg)
  /-- WITHDRAW (R357) -/
  | withdraw (m : YMsg)
  /-- CONTRIB (R353) -/
  | contrib (m : YMsg)
  /-- CONTRIB_DONE (R357) -/
  | contribDone (m : YMsg)
  /-- NULL_REQ (R357) -/
  | nullReq (m : YMsg)
  /-- NULL_OK (R357) -/
  | nullOk (m : YMsg)
  /-- CLAIMED (R357) -/
  | claimed (m : YMsg)
  /-- SEAL (R358) -/
  | sealStripe (m : YMsg)
  /-- PARITY_LAID (R357) -/
  | parityLaid (m : YMsg)
  /-- STRIPE_SAFE (R359) -/
  | stripeSafe (m : YMsg)
  /-- SAFE_ACK (R357) -/
  | safeAck (m : YMsg)
  /-- JOURNAL (R356) -/
  | journal (m : YMsg)
  /-- JOURNAL_ACK (R356) -/
  | journalAck (m : YMsg)
  /-- NACK (R360) -/
  | nack (m : YMsg)
  /-- STATE_QUERY (R361) -/
  | stateQuery (m : YMsg)
  /-- STATE_REPLY (R361) -/
  | stateReply (m : YMsg)
  /-- EPOCH_PROPOSE (R361) -/
  | epochPropose (m : YMsg)
  /-- ADOPT (R361) -/
  | adopt (m : YMsg)
  /-- EPOCH_COMMIT (R361) -/
  | epochCommit (m : YMsg)
  /-- EPOCH_REQ (R360) -/
  | epochReq (m : YMsg)
  /-- JOIN (R365) -/
  | join (m : YMsg)
  /-- DESC_REQ (R346) -/
  | descReq (m : YMsg)
  /-- DESC_PART (R346) -/
  | descPart (m : YMsg)
  /-- LEDGER (R373) -/
  | ledger (m : YMsg)
  /-- REBUILD_REQ (R368) -/
  | rebuildReq (m : YMsg)
  /-- REBUILD_PART (R368) -/
  | rebuildPart (m : YMsg)
  /-- REBUILD_FAIL (R368) -/
  | rebuildFail (m : YMsg)
  /-- YARD_BAD_MESSAGE (R377) -/
  | yardBadMessage (raw : Bytes)
  /-- CONTRIBUTION_TIMEOUT (R357) -/
  | contributionTimeout (stripe : Nat)
  /-- YARD_REPEAT_TIMER (R378) -/
  | yardRepeatTimer
  /-- MEMBER_DEAD (R361) -/
  | memberDead (member : Nat)
  /-- STATE_QUERY_DEADLINE (R361) -/
  | stateQueryDeadline
  /-- EPOCH_PROPOSAL_TIMEOUT (R361) -/
  | epochProposalTimeout
  /-- EPOCH_HOLD_EXPIRY (R360) -/
  | epochHoldExpiry
  /-- PARITY_HOLDER_IDLE (R358) -/
  | parityHolderIdle (part stripe : Nat)
  /-- RETAIN_LOW (R352) -/
  | retainLow
  /-- RESHAPE_CHECKPOINT (R376) -/
  | reshapeCheckpoint
  /-- NIGHT_HEARTBEAT_TIMEOUT (R422) -/
  | nightHeartbeatTimeout
  /-- DAY_HEARTBEAT_TIMEOUT (R422) -/
  | dayHeartbeatTimeout
  /-- BOTH_HEARTBEATS_TIMEOUT (R422) -/
  | bothHeartbeatsTimeout
  /-- MONITOR_SAMPLE (R431): the samples and means of one sampling instant -/
  | monitorSample (samples : List MonSample)
  /-- VOLTAGE_FAULT (R434) -/
  | voltageFault (monitor : Nat)
  /-- THROTTLE_STEP (R433) -/
  | throttleStep
  /-- CRITICAL_HOLD_RELEASE (R433) -/
  | criticalHoldRelease
  /-- CEILING_RAISE (R433) -/
  | ceilingRaise
  /-- TELEMETRY_REPORT (R435): seconds since Dawn -/
  | telemetryReport (secs : Nat)
  /-- ENTDAA (R435) -/
  | entdaa (addr : Nat)
  /-- SETDASA (R435) -/
  | setdasa (addr : Nat)
  /-- RSTDAA (R435) -/
  | rstdaa
  /-- ENEC (R435) -/
  | enec (events : Nat)
  /-- DISEC (R435) -/
  | disec (events : Nat)
  /-- GETPID (R435) -/
  | getpid
  /-- GETBCR (R435) -/
  | getbcr
  /-- GETDCR (R435) -/
  | getdcr
  /-- GETSTATUS (R435) -/
  | getstatus
  /-- GETMWL (R435) -/
  | getmwl
  /-- GETMRL (R435) -/
  | getmrl
  /-- I3C_PRIVATE_READ (R435) -/
  | i3cPrivateRead
  /-- I3C_PRIVATE_WRITE (R435) -/
  | i3cPrivateWrite (data : Bytes)
  /-- BUFFER_ECC_ERROR (R438) -/
  | bufferEccError (stall chan device : Nat) (uncorrectable : Bool)
  /-- PATROL_SCRUB (R467) -/
  | patrolScrub
  /-- LANE_FRAME (R200) -/
  | laneFrame (obs : LaneObs)
  /-- SYNC_MISSED (R240): `span` is set when a split resync was missed in the row as well -/
  | syncMissed (chan : Nat) (span : Bool)
  /-- POWER_LOSS (R452) -/
  | powerLoss
  /-- PCIE_LINK_UP (R399): the link speed, 1 to 5, and width at which the link has trained (R29) -/
  | pcieLinkUp (p : Port) (speed width : Nat)
  /-- BLOCK_ERASED (R330) -/
  | blockErased (block stream : Nat)
  /-- UNIT_READ_DONE (R331) -/
  | unitReadDone (u : Nat)
  /-- FLIT_BAD (R385): the 256 bytes received on port SF*port* -/
  | flitBad (port : Nat) (flit : Bytes)
  /-- NIGHT_CORE_READY (R422) -/
  | nightCoreReady
  /-- GPIO_PERIODIC (R462) -/
  | gpioPeriodic (ball : Nat)
  /-- TRACE_FLUSH (R410) -/
  | traceFlush
  deriving DecidableEq, Repr

end Sys2Proof
end

