-- ==== Sys2Proof/Config.lean ====
section
/-!
DEFINITION. What the spec names but defines elsewhere, and what it leaves open: constants without a body, so that no
proof can lean on a value. The free values are drawn with the counter `State.freeCtr`.
-/

namespace Sys2Proof.Config

/-- A free value: the n-th value that the spec leaves open, as a number (log entry 3). -/
opaque freeNat : Nat → Nat

/-- The direction in which a value is rounded where the spec gives the value but not its rounding: numerator and
denominator of the exact value (log entry 3). -/
opaque roundUp : Int → Nat → Bool

/-- The nonce that the SEC draws for an ECDSA signature: seed of the key, hash, and which try (log entry 38). -/
opaque ecdsaNonce : Bytes → Bytes → Nat → Nat

/-- The storage key that the SEC derives from the fused device secret (R123); the derivation is not given. -/
opaque storageKey : Bytes → Bytes

/-- The seed of the identity key that the SEC derives from the fused device secret (R436). -/
opaque identitySeed : Bytes → Bytes

/-- The seed of the transport key pair that the SEC generates at the first Dawn (R124). -/
opaque transportSeed : Bytes → Bytes

/-- Microsteps from the head's park position to the servo position of wrap 0 (R288): the spec names the move and gives no
length. -/
opaque parkSteps : Int

/-- Delausen's PCI-SIG vendor ID (R30): named, not given. -/
opaque vendorId : Nat

/-- The I3C provisioned ID, bus and device characteristics, status, and maximum lengths: named by R435, not given. -/
opaque i3cPid : Nat
opaque i3cBcr : Nat
opaque i3cDcr : Nat
opaque i3cStatus : Nat
opaque i3cMwl : Nat
opaque i3cMrl : Nat

end Sys2Proof.Config
end

