-- ==== Sys2Proof/Machine/State.lean ====
section
/-!
DEFINITION. The state of the EVF9128 as plain data, block by block, the machine right after reset, and the reasons a
step can stop. Register fields whose value is a block's own status stand as named fields; counters stand in `ctrs` under
their Control Space offset; fields that reflect the committed configuration are read from its records (R410).
-/

namespace Sys2Proof.Machine

/-- A Stall's handle (R86): Stall number and generation. -/
abbrev Handle := Nat × Nat

/-! ## Host ports and command rings (02) -/

/-- A submission entry, by field (R40). -/
structure SqEntry where
  opcode : Nat := 0
  flags : Nat := 0
  tag : Nat := 0
  partition : Nat := 0
  keySlot : Nat := 0
  headerLen : Nat := 0
  position : Nat := 0
  count : Nat := 0
  length : Nat := 0
  dataAddr : Nat := 0
  auxAddr : Nat := 0
  headerAddr : Nat := 0
  listCount : Nat := 0
  param : Nat := 0
  hostLabel : Nat := 0
  deriving DecidableEq, Repr, Inhabited

/-- The lifecycle of a command (R64). `fetched` is the part of the first row between the stamp of the acceptance
sequence and the command's own checks; DONE and dropped commands leave the table. -/
inductive CmdSt where | fetched | admitted | gated | running | completing
  deriving DecidableEq, Repr, Inhabited

/-- A deferred error (R66, R67). -/
structure DeferErr where
  first : Nat
  count : Nat
  cause : Nat
  part : Nat
  version : Nat
  clock : Nat
  /-- acceptance sequence at which it was recorded: only later commands carry it -/
  recorded : Nat
  /-- places in the deferred error log of the errors it stands for: its own, and those merged into it -/
  ords : List Nat
  deriving DecidableEq, Repr, Inhabited

/-- An entry of the deferred error log (R67). -/
structure DeferLog where
  err : DeferErr
  carried : Bool
  deriving DecidableEq, Repr, Inhabited

/-- The packet of a read that the cipher has opened: its expanded bytes if known, the DLZ payload otherwise (R105, R119). -/
structure HoldPkt where
  dlz : Bool
  hostLen : Nat
  payload : Bytes
  engine : Option Nat
  /-- records that begin in it: number, offset, length, header data -/
  starts : List (Nat × Nat × Nat × Bytes)
  deriving DecidableEq, Repr, Inhabited

/-- A command of a port's command table (R36, R64). -/
structure Cmd where
  port : Port
  ring : Nat
  seq : Nat
  sqHead : Nat
  e : SqEntry
  st : CmdSt := .fetched
  status : Nat := 0
  result : Nat := 0
  caught : Bool := false
  markHit : Bool := false
  eodHit : Bool := false
  cascade : Bool := false
  /-- the scatter list read at admission -/
  sgl : List ScatterElem := []
  /-- reads: next record, and the accepted end they see (R54, R68) -/
  next : Nat := 0
  endSeen : Nat := 0
  /-- reads: bytes and entries delivered, bytes already delivered of the record in progress, its next packet -/
  delivered : Nat := 0
  entries : Nat := 0
  part : Bytes := []
  pkt : Nat := 0
  curLen : Nat := 0
  curHdr : Bytes := []
  hold : Option HoldPkt := none
  /-- SYNC: coverage end by partition (R60) -/
  covers : List (Nat × Nat) := []
  /-- writes: the generation bound at acceptance (R131) -/
  gen : Nat := 0
  /-- an ABORT: the caught command whose completion goes before its own (R70) -/
  waitFor : Option Nat := none
  /-- reads: writes whose buffer copy this read takes as gone, since a pin of it was refused (R87) -/
  gone : List Nat := []
  deriving DecidableEq, Repr, Inhabited

/-- One ring pair: its window registers and its live indices (R31-R35, R75, R471). -/
structure Ring where
  sqLo : Nat := 0
  sqHi : Nat := 0
  cqLo : Nat := 0
  cqHi : Nat := 0
  vector : Nat := 0
  size : Nat := 0
  enable : Bool := false
  resetting : Bool := false
  resetDone : Bool := false
  enableFailed : Bool := false
  coalCount : Nat := 0
  coalTime : Nat := 0
  /-- base and size read at the 0-to-1 transition of enable -/
  liveSize : Nat := 0
  sqBase : Nat := 0
  cqBase : Nat := 0
  tail : Nat := 0
  sqHead : Nat := 0
  cqHead : Nat := 0
  cqTail : Nat := 0
  phase : Bool := false
  unsignalled : Nat := 0
  deriving DecidableEq, Repr, Inhabited

/-- What software sets in a PCIe function (R29): payload and read request sizes, D0 or D3hot, ASPM L1. The sizes at reset are
those of the PCIe standard (PRESUMED, log entry 112). -/
structure PcieFn where
  maxPayload : Nat := 128
  maxReadRequest : Nat := 512
  d3hot : Bool := false
  aspmL1 : Bool := false
  deriving DecidableEq, Repr, Inhabited

/-- A PCIe port (R29, R30, R36, R399, R447). -/
structure PciePort where
  fetchEnable : Bool := false
  /-- the ring that had the port's previous turn -/
  lastRing : Nat := 32
  perst : Bool := false
  training : Bool := false
  linkUp : Bool := false
  functionsOn : Bool := false
  /-- the answer to the last configuration request: retry status or normal, and what it read -/
  cfgRetry : Option Bool := none
  cfgAnswer : Option Nat := none
  /-- link speed, 1 to 5 for 2.5 to 32.0 GT/s, and width as trained; 0 with no link -/
  linkSpeed : Nat := 0
  linkWidth : Nat := 0
  pf0 : PcieFn := {}
  pf1 : PcieFn := {}
  /-- what the last read of the port's BAR0 returned, where a row of the table makes the read -/
  readData : Option Nat := none
  deriving DecidableEq, Repr, Inhabited

/-- A record or mark of a write, with its place among the packets (R42, R91, R93). -/
structure Rec where
  len : Nat
  header : Bytes
  pkt : Nat
  off : Nat
  deriving DecidableEq, Repr, Inhabited

/-- Where a packet of a write is on its way to the packet Stable (R21, R103, R104). -/
inductive PktSt where
  | dma | ready | inEngine (e : Nat) | finished (e : Nat) | stored
  deriving DecidableEq, Repr, Inhabited

/-- A packet of a write: its host bytes, its payload after the engine, its stored form after the cipher (R96). -/
structure Pkt where
  hostLen : Nat
  recStarts : Nat
  firstRec : Nat
  st : PktSt := .dma
  data : Bytes := []
  ingress : Option Handle := none
  dlz : Bool := false
  payload : Bytes := []
  /-- spill offset of its stored bytes, once copied (R315) -/
  spillOff : Nat := 0
  /-- descriptors and header data, packet header, ciphertext and tag, in stored order -/
  stored : Bytes := []
  /-- bytes of descriptors and header data ahead of the packet header -/
  lead : Nat := 0
  deriving DecidableEq, Repr, Inhabited

inductive WriteKind where | records | marks | landing
  deriving DecidableEq, Repr, Inhabited

/-- The Buffer Record Index entry of an admitted write (R89), with its record table (R91) and its packets. -/
structure Write where
  seq : Nat
  port : Port
  part : Nat
  first : Nat
  kind : WriteKind
  truncating : Bool
  keySlot : Nat
  gen : Nat
  hostLabel : Nat
  counter : Nat
  key : Bytes
  recs : List Rec
  pkts : List Pkt
  /-- the derived key is bound and the counters are reserved (R47, R131); the record table has its granules (R91) -/
  bound : Bool := false
  placed : Bool := false
  taken : Bool := false
  /-- packets whose buffer copy is freed; copied to the Shed; Sheltered; taken by the formatter; Laid; Yard-safe -/
  freed : Nat := 0
  copied : Nat := 0
  sheltered : Nat := 0
  formatted : Nat := 0
  laid : Nat := 0
  safe : Nat := 0
  /-- record index of the first superseded record (R89) -/
  superFrom : Option Nat := none
  /-- the Stall chain of the packet Stable and the byte offset in its head Stall (R90) -/
  chain : List Handle := []
  headOff : Nat := 0
  chainBytes : Nat := 0
  /-- data set and user byte offset of packet 0's header (R100), and of the first byte stored -/
  tapeDs : Nat := 0
  tapeOff : Nat := 0
  firstDs : Nat := 0
  firstOff : Nat := 0
  /-- last data set that carries bytes of the write -/
  lastDs : Nat := 0
  /-- spill ring and offset of the stored bytes -/
  ring : Option Nat := none
  spillOff : Nat := 0
  /-- management Stall and first granule of the record table -/
  recStall : Nat := 0
  granule : Nat := 0
  deriving DecidableEq, Repr, Inhabited

/-- A Gate table lock (R62, R63): the command that holds it, the write whose version it waits for, its range, and the
Stalls it has pinned. -/
structure Gate where
  seq : Nat
  write : Nat
  part : Nat
  first : Nat
  count : Nat
  pins : List Handle
  deriving DecidableEq, Repr, Inhabited

structure Hq where
  rings : AMap Ring := []
  portA : PciePort := {}
  portB : PciePort := {}
  nextPort : Port := .a
  acceptSeq : Nat := 0
  /-- the command tables of both ports, in acceptance order -/
  cmds : List Cmd := []
  /-- the Buffer Record Index, in acceptance order -/
  writes : List Write := []
  briPeak : Nat := 0
  gates : List Gate := []
  /-- MSI-X messages raised, by port, function and vector -/
  msix : AMap Nat := []
  deferLog : List DeferLog := []
  stopFetch : Bool := false
  deriving DecidableEq, Repr, Inhabited

/-! ## Partitions, tape directory, cartridge (02, 06) -/

/-- A segment, a Loft map entry and a relocation of the tape directory (R164). -/
structure Seg where
  first : Nat
  ds : Nat
  off : Nat
  truncating : Bool
  deriving DecidableEq, Repr, Inhabited

structure LoftEnt where
  ds : Nat
  wrap : Nat
  frame : Nat
  first : Nat
  deriving DecidableEq, Repr, Inhabited

structure Reloc where
  ds : Nat
  wrap : Nat
  frame : Nat
  cause : Nat
  deriving DecidableEq, Repr, Inhabited

structure Directory where
  seq : Nat := 0
  segs : List Seg := []
  lofts : List LoftEnt := []
  relocs : List Reloc := []
  deriving DecidableEq, Repr, Inhabited

/-- A formatted data set: its user area and DSIT, and what the write lanes need (R169, R181). -/
structure Image where
  part : Nat
  ds : Nat
  kind : Nat
  loftIdx : Nat
  user : Bytes
  used : Nat
  padded : Bool
  firstUnit : Nat
  firstRec : Nat
  /-- descriptors that begin here, the entries of their index, and the offsets of the truncating ones (R181, R182) -/
  descCount : Nat
  descIdx : List Nat
  truncOffs : List Nat
  truncRecs : List Nat := []
  copy : Nat := 0
  loftCount : Nat := 0
  shortLoft : Bool := false
  stripe : Nat := 0xFFFFFFFF
  role : Nat := 0
  epoch : Nat := 0
  /-- its Stalls in the assembly Stable (R21) -/
  stalls : List Handle := []
  /-- placements made so far (R215) -/
  tries : Nat := 0
  deriving DecidableEq, Repr, Inhabited

/-- A placement of a data set on tape and the state of its rows (R210-R217). Rows are numbered 192 · sds + row. -/
structure Placement where
  img : Image
  wrap : Nat
  start : Nat
  cls : Nat
  /-- carry-over slots ahead of position 0 (R211) -/
  carry : Nat
  /-- the channel map in force -/
  chanMap : List Nat
  /-- the rewrite threshold in force when its copies were written (R209) -/
  threshold : Nat
  passed : AMap Unit := []
  /-- copies of a row beyond the first -/
  copies : AMap Nat := []
  /-- rewrites in its reserve and carry-overs ahead of it, by 396 · channel + slot: data set and row -/
  slots : AMap (Nat × Nat) := []
  /-- the failed copy behind each rewrite: its row slot and the channel that wrote it (R210) -/
  claims : AMap (Nat × Nat) := []
  /-- Stalls of the rewrite Stable that hold rewrite copies, by row (R218) -/
  stalls : AMap Handle := []
  /-- copies judged, by 396 · channel + slot -/
  judged : AMap Unit := []
  complete : Bool := false
  abandoned : Bool := false
  deriving DecidableEq, Repr, Inhabited

structure Part where
  acceptedEnd : Nat := 0
  takenMark : Nat := 0
  shelteredMark : Nat := 0
  laidMark : Nat := 0
  safeMark : Nat := 0
  /-- stored bytes Taken for the partition since LOAD (R219) -/
  takenBytes : Nat := 0
  /-- pending deferred errors, oldest first (R67), and every one since LOAD, which SYNC looks at (R60) -/
  defers : List DeferErr := []
  fails : List DeferErr := []
  ewReserve : Nat := 256
  writeStopped : Bool := false
  /-- the hard reserve is consumed, and reported (R158) -/
  outOfTape : Bool := false
  /-- the data set at which writing stopped -/
  stopDs : Nat := 0
  firstWrap : Nat := 0
  wraps : Nat := 0
  yardMember : Bool := false
  originYard : Nat := 0
  originSerial : Bytes := []
  /-- Record Number next under the head (R49, log entry 91) -/
  current : Nat := 0
  /-- the partition's data set positions and the next free one (R157, R158) -/
  positions : Nat := 0
  nextPos : Nat := 0
  /-- data set being assembled, its user area so far, and what begins in it -/
  nextDs : Nat := 0
  user : Bytes := []
  /-- descriptors that begin in it (offset, Record Number, truncating), packet headers, and the record after the last -/
  descs : List (Nat × Nat × Bool) := []
  heads : List Nat := []
  nextRec : Nat := 0
  assembling : Bool := false
  /-- data sets from elsewhere that wait for the formatter: reallocated, rebuilt, Yard parity (R197) -/
  extra : List Image := []
  /-- the C3 accumulator of the open Loft (R179, R218) and the data sets it covers -/
  loftOpen : Bool := false
  c3p : Bytes := []
  c3q : Bytes := []
  /-- the Stalls of the two accumulators in the assembly Stable (R79) -/
  c3Stalls : List Handle := []
  loftData : Nat := 0
  /-- an early close asked for through MB_FMT (R178) -/
  closeAsked : Bool := false
  /-- data sets complete on tape in Lofts not yet closed, with their kind (R217) -/
  done : AMap Nat := []
  /-- data sets that the parity of a Loft covers, by Loft; Lofts closed on tape since LOAD -/
  loftN : AMap Nat := []
  closed : AMap Unit := []
  /-- data sets whose stripe is safe (R24) -/
  safeDs : AMap Unit := []
  dir : Directory := {}
  /-- end of data: data set number next to be written, wrap and Tape Clock (R162) -/
  eodDs : Nat := 0
  eodWrap : Nat := 0
  eodClock : Nat := 0
  /-- two tape reads in ascending order (R325) -/
  lastTapeRead : Option Nat := none
  ascending : Nat := 0
  deriving DecidableEq, Repr, Inhabited

inductive LoadSt where | empty | threading | ready | unloading | unthreading
  deriving DecidableEq, Repr, Inhabited

/-- The cartridge (06): the pin, the 64 KiB cartridge memory, and how far LOAD has come. -/
structure Cart where
  present : Bool := false
  st : LoadSt := .empty
  serial : Bytes := []
  writePass : Nat := 0
  /-- the in-use copy of the control block: sequence, copy B or A -/
  cbSeq : Nat := 0
  cbCopyB : Bool := false
  formatState : Nat := 0
  formatCount : Nat := 0
  loadCount : Nat := 0
  clean : Bool := false
  dirBNewer : Bool := false
  /-- Zone Table: by wrap, class, certified, excluded, error rate, positions (R163) -/
  zone : AMap (Nat × Bool × Bool × Nat × Nat) := []
  /-- keep-out spans by band: start frame, length, skip (R153, R163) -/
  spans : AMap (List (Nat × Nat × Bool)) := []
  /-- enrol mask waiting for the next FORMAT_PARTITIONS (R347) -/
  enrolMask : Nat := 0
  /-- directory copies to be written, partition and copy B; tries of the first; whether one has failed (R161, R216) -/
  dirTodo : List (Nat × Bool) := []
  dirTries : Nat := 0
  dirFailed : Bool := false
  /-- the weak data sets of an UNLOAD have been posted (R257) -/
  weakPosted : Bool := false
  deriving DecidableEq, Repr, Inhabited

/-! ## Stable Keeper (03) -/

inductive StallSt where | free | held | releasing
  deriving DecidableEq, Repr, Inhabited

/-- A Stall table entry (R85). -/
structure Stall where
  next : Nat := 0
  stable : Nat := 0
  owner : Nat := 0
  gen : Nat := 0
  st : StallSt := .free
  pins : Nat := 0
  deriving DecidableEq, Repr, Inhabited

/-- A Stable (R78-R84): its range of `span` Stalls from `base` on; the Stalls it still has after quarantine; its free
Stalls in cache (most recent first) and ring, whose head part is the Stalls `freshLo` to `freshHi` - 1 still in the
ascending order of D3 and whose rest is `ring`, head first; its FIFO and the requests waiting outside it, each requester
and count; its rotating pointer. -/
structure Stable where
  base : Nat := 0
  span : Nat := 0
  size : Nat := 0
  cache : List Nat := []
  freshLo : Nat := 0
  freshHi : Nat := 0
  ring : List Nat := []
  fifo : List (Nat × Nat) := []
  outside : List (Nat × Nat) := []
  pointer : Nat := 0
  low : Nat := 0xFFFFF
  waits : Nat := 0
  deriving DecidableEq, Repr, Inhabited

structure Stk where
  ready : Bool := false
  total : Nat := 0
  stalls : AMap Stall := []
  stables : AMap Stable := []
  /-- requesters whose outstanding request was made by the block itself, and the Stalls granted to such requests that the
  block has not yet taken over (log entry 84) -/
  asking : AMap Unit := []
  granted : AMap (List Handle) := []
  badKind : Nat := 0
  badReq : Nat := 0
  badStall : Nat := 0
  probeSel : Nat := 0
  probeLo : Nat := 0
  probeHi : Nat := 0
  /-- Stalls marked for quarantine and corrected errors by Stall (R438) -/
  quarantine : AMap Unit := []
  corrected : AMap Nat := []
  /-- record tables (R91): by management Stall, its generation and a bit map of its granules in use -/
  granules : AMap (Nat × Nat) := []
  /-- DDR controllers (R468) -/
  ddr : AMap DdrFit := []
  ddrDeviceFailed : AMap Unit := []
  ddrErr : AMap (Nat × Nat × Bool) := []
  scrubActive : Bool := false
  deriving DecidableEq, Repr, Inhabited

/-! ## Compression (04) -/

inductive EngineJob where
  | idle
  | write (seq idx : Nat) (second : Bool)
  | done (seq idx : Nat)
  | read (seq : Nat)
  deriving DecidableEq, Repr, Inhabited

structure Engine where
  fault : Bool := false
  job : EngineJob := .idle
  /-- the packet in its input buffer -/
  input : Bytes := []
  mismatches : Nat := 0
  /-- host bytes and DLZ bytes not yet counted as a whole MiB -/
  inBytes : Nat := 0
  outBytes : Nat := 0
  deriving DecidableEq, Repr, Inhabited

structure Cmp where
  engines : AMap Engine := []
  /-- the kind the dispatcher gives at its next alternation (R105): write first -/
  readNext : Bool := false
  malKind : Nat := 0
  malEngine : Nat := 0
  malOffset : Nat := 0
  deriving DecidableEq, Repr, Inhabited

/-! ## Encryption (05) -/

structure KeySlot where
  loaded : Bool := false
  gen : Nat := 0
  key : Bytes := []
  /-- the retiring generation and the acceptance value at its switch instant -/
  retiring : Option (Nat × Bytes × Nat) := none
  retired : List Bytes := []
  exhausted : Bool := false
  /-- the KEY_ERASE whose old NOR records are still to be erased -/
  erasing : Option Nat := none
  /-- the next acceptance value at the switch instant of the last erase, and the generations it destroyed -/
  erasedAt : Nat := 0
  erasedGens : List Nat := []
  deriving DecidableEq, Repr, Inhabited

/-- A derived-key cache entry (R130). -/
structure CacheEnt where
  slot : Nat
  gen : Nat
  label : Bytes
  key : Bytes
  issue : Nat
  nextIdx : Nat
  pins : List Nat
  retired : Bool
  deriving DecidableEq, Repr, Inhabited

/-- A record of the NOR key area (R123, R132, R134). -/
inductive KeyRec where
  | slot (n gen : Nat) (wrapped : Bytes)
  | tombstone (n gen : Nat)
  | retiredKey (n gen : Nat) (print : Bytes)
  | issueBlock (block : Nat)
  | transport
  deriving DecidableEq, Repr, Inhabited

structure Cip where
  ready : Bool := false
  noncePrefix : Nat := 0
  nextIssue : Nat := 0
  slots : AMap KeySlot := []
  /-- most recently used first -/
  cache : List CacheEnt := []
  keyArea : List KeyRec := []
  /-- the packet that the cipher holds under R27: acceptance sequence and index -/
  held : Option (Nat × Nat) := none
  cert : Option Bytes := none
  sel : Nat := 0
  selRetired : Nat := 0
  selExhausted : Bool := false
  selRetiring : Bool := false
  selLoaded : Bool := false
  selGen : Nat := 0
  deriving DecidableEq, Repr, Inhabited

/-! ## Write lanes, verify, speed matching (08) -/

structure Lane where
  trained : Bool := false
  gateOffSent : Bool := false
  gated : Nat := 0
  /-- the last blocks sent: whether a data block, payload, payload as scrambled -/
  blocks : List (Bool × Nat × Nat) := []
  /-- the 58-bit state of the self-synchronising scrambler (R199) -/
  scrambler : Nat := 0
  deriving DecidableEq, Repr, Inhabited

structure Wrv where
  windowOpen : Bool := false
  /-- class of the channel bit rate, and whether keep-out fill is being written (R149, R153) -/
  cls : Nat := 1
  inSpan : Bool := false
  windowPart : Nat := 0
  /-- a window has opened since the formatter last had no image left, or a reposition under R222 is pending (R278) -/
  begun : Bool := false
  pes : Bool := false
  shock : Bool := false
  loop : Bool := false
  overspeed : Bool := false
  mgmt : Bool := false
  /-- resumption waits for the next row slot boundary (R207) -/
  resuming : Bool := false
  lastClock : Nat := 0
  lastCause : Nat := 0
  setPoint : Nat := 0
  parked : Bool := false
  /-- bytes taken over, and duration in ns of, the last 16 data set pitches, latest last; bytes taken at the last boundary (R219) -/
  pitches : List (Nat × Nat) := []
  takenAt : Nat := 0
  lanes : AMap Lane := []
  retired : AMap Unit := []
  /-- encoded images waiting for the write lanes, oldest first -/
  images : List Image := []
  placements : List Placement := []
  /-- channel bits still to be sent in the row in progress, by physical channel -/
  bits : AMap (List Bool) := []
  /-- channel bits of the row slot still to be sent; time not yet used up by whole bits, and the next launch instant, in 2^-16 ns
  (R200, R201); the magnetisation last written by each element (R189) -/
  left : Nat := 0
  acc : Nat := 0
  launchAt : Nat := 0
  flux : AMap Bool := []
  /-- row slot in progress of the placement being written; whether its rows are lost (R208); place in the keep-out fill -/
  slot : Nat := 0
  slotLost : Bool := false
  slotLoaded : Bool := false
  fillPhase : Nat := 0
  rowCopies : Nat := 0
  /-- carry-over rows ahead of the next data set: partition, data set, row, channel -/
  carry : List (Nat × Nat × Nat × Nat) := []
  /-- failed verdicts by physical channel over the last 64 data sets, and the data sets counted (R439) -/
  fails : AMap Nat := []
  failDs : Nat := 0
  deriving DecidableEq, Repr, Inhabited

/-! ## Read channels and recovery (09) -/

inductive Lock where | acquiring | locked | flywheel
  deriving DecidableEq, Repr, Inhabited

structure Chan where
  lock : Lock := .acquiring
  missed : Nat := 0
  /-- the forward sync of the row in progress is found and its mid resync still to come (R240) -/
  fwd : Bool := false
  /-- log2 of the pre-decimator ratio (R229) -/
  dec : Nat := 0
  phase : Nat := 0
  residual : Int := 0
  mse : Nat := 0
  /-- squares of the last 4,096 differences between equaliser output and target, latest last (R260) -/
  errs : List Nat := []
  fwdMissed : Nat := 0
  midMissed : Nat := 0
  splitMissed : Nat := 0
  reframes : Nat := 0
  acquires : Nat := 0
  mc33 : Nat := 0
  c1Failed : Nat := 0
  /-- adapted taps, Q2.14, and calibrated taps by class (R233, R235) -/
  taps : List Nat := []
  initial : AMap (List Nat) := []
  deriving DecidableEq, Repr, Inhabited

/-- A JESD204C receive link (R228, R261); `tries` are the starts since it failed. -/
structure RxLink where
  up : Bool := false
  failed : Bool := false
  aligned : Bool := false
  lanesLocked : Nat := 0
  starts : Nat := 0
  tries : Nat := 0
  crcErrors : Nat := 0
  deriving DecidableEq, Repr, Inhabited

inductive LadderSt where | reread | slow | placements | loft | yard
  deriving DecidableEq, Repr, Inhabited

/-- What the row pool holds of a Sub Data Set: C1 codewords decoded, with the symbols corrected, at key 2 · row + codeword, and
byte columns decoded. -/
structure SdsPool where
  cws : AMap (Bytes × Nat) := []
  cols : AMap Bytes := []
  deriving DecidableEq, Repr, Inhabited

/-- The recovery ladder at work on a data set (R247, R252), with its row pool by Sub Data Set. -/
structure Ladder where
  part : Nat
  ds : Nat
  st : LadderSt
  /-- rereads made at rung 1, passes made at rung 2 -/
  done : Nat
  pool : AMap SdsPool := []
  deriving DecidableEq, Repr, Inhabited

/-- An entry of the weak list (R256). -/
structure Weak where
  slot : Nat
  serial : Bytes
  writePass : Nat
  part : Nat
  ds : Nat
  rung : Nat
  stream : Bytes
  posted : Bool
  deriving DecidableEq, Repr, Inhabited

/-- A decoded data stream held in read staging (R249), with the Stalls it fills. -/
structure Staged where
  part : Nat
  ds : Nat
  stream : Bytes
  /-- its Stalls, and the decoder that holds them -/
  stalls : List Handle
  decoder : Nat := 0
  deriving DecidableEq, Repr, Inhabited

structure Rch where
  ready : Bool := false
  chans : AMap Chan := []
  /-- ensemble correction in units of 2^-16 ppm (R230) -/
  delta : Int := 0
  links : AMap RxLink := []
  /-- decoders that hold a data set -/
  busy : AMap Unit := []
  ladder : Option Ladder := none
  weak : List Weak := []
  staging : List Staged := []
  /-- the data set that the tape is being moved to or read from: partition, data set -/
  seek : Option (Nat × Nat) := none
  /-- the data set last decoded from tape: partition, data set -/
  lastRead : Option (Nat × Nat) := none
  /-- the ladder that last ended with its data set decoded, until that is decoded at rung 0 again: a packet of it that fails
  R114 takes the ladder up from there -/
  laddered : Option Ladder := none
  readAhead : Bool := false
  raPart : Nat := 0
  /-- decoded data streams in the read-ahead ring, oldest first (R325) -/
  raRing : List (Nat × Nat × Bytes) := []
  /-- the class whose taps are loaded -/
  cls : Nat := 1
  /-- the wrap whose start the channels last took (R230, R235) -/
  wrap : Option Nat := none
  deriving DecidableEq, Repr, Inhabited

/-! ## Servo, Tape Clock, scheduler, Bridle (10) -/

/-- A position scheduler entry (R275); `ord` is its posting order. -/
structure SchedEnt where
  pos : Nat
  dir : Bool
  kind : Nat
  owner : Nat
  recipient : Nat
  arg : Nat
  ord : Nat
  /-- already passed when it was written or while the clock was invalid (R12, R277) -/
  late : Bool
  deriving DecidableEq, Repr, Inhabited

structure Reader where
  valid : Bool := false
  pes : Int := 0
  y : Int := 0
  /-- band number of the last accepted word (R269) -/
  band : Option Nat := none
  /-- frame under the reader, counted by burst A (R266) -/
  frame : Nat := 0
  lastLpos : Option Nat := none
  /-- an accepted word that disagreed with the count, awaiting a second (R266) -/
  rogue : Option Nat := none
  /-- consecutive valid samples within `pes_resume` (R207) -/
  good : Nat := 0
  deriving DecidableEq, Repr, Inhabited

structure Srv where
  clock : Nat := 0
  valid : Bool := false
  lposLocked : Bool := false
  reverse : Bool := false
  /-- measured speed, 2^-16 m/s, positive forward -/
  speed : Int := 0
  wrap : Nat := 0
  readers : AMap Reader := []
  /-- consecutive frames without a valid sample, and frames still to be taken so after a clock jump (R205, R266) -/
  invalidRun : Nat := 0
  mute : Nat := 0
  /-- travel since the last valid crossing, and travel below 0.10 m/s, in 1/256 frame (R274) -/
  flywheel : Nat := 0
  slowTravel : Nat := 0
  span : Int := 0
  spanValid : Bool := false
  /-- nrad -/
  azimuth : Int := 0
  azValid : Bool := false
  lateral : Int := 0
  latValid : Bool := false
  sched : AMap SchedEnt := []
  schedOrd : Nat := 0
  schedPeak : Nat := 0
  selEntry : Nat := 0
  selWords : List Nat := [0, 0, 0, 0]
  clockHi : Nat := 0
  /-- SHOCK_N asserted (R205) -/
  shockPin : Bool := false
  deriving DecidableEq, Repr, Inhabited

inductive Mode where | off | manual | hold | auto | fault
  deriving DecidableEq, Repr, Inhabited

/-- A Bridle loop (R279-R286). Signals are exact integers in the loop's LSB; stores of the two biquads. -/
structure Loop where
  mode : Mode := .off
  target : Int := 0
  ramp : Int := 0
  meas : Int := 0
  measValid : Bool := false
  out : Int := 0
  manual : Int := 0
  integ : Int := 0
  efPrev : Int := 0
  rPrev : Int := 0
  x1 : List Int := [0, 0]
  z1 : List Int := [0, 0]
  x2 : List Int := [0, 0]
  z2 : List Int := [0, 0]
  fe : Nat := 0
  /-- a target has arrived since the last tick -/
  newTarget : Bool := false
  /-- an auto request waits for a valid measurement -/
  wantAuto : Bool := false
  deriving DecidableEq, Repr, Inhabited

inductive Motion where
  | unthreaded | threading | stopped | running | turnaround | stopping | repositioning | unthreading
  deriving DecidableEq, Repr, Inhabited

/-- A reposition in progress (R289): 1 stopping, 2 travelling away, 3 stopping again, 4 accelerating. -/
structure Repos where
  pos : Nat
  reverse : Bool
  /-- 1/64 m/s, m/s² -/
  speed : Nat
  slew : Nat
  step : Nat
  requester : Nat
  deriving DecidableEq, Repr, Inhabited

inductive StopKind where | faultReels | faultOther | orderly
  deriving DecidableEq, Repr, Inhabited

/-- A controlled stop (R290): its kind, the Tape Clock at which writing ends, whether SPEED already ramps to 0. -/
structure CtlStop where
  kind : StopKind
  endClock : Nat
  ramping : Bool
  deriving DecidableEq, Repr, Inhabited

/-- An actuator endpoint: what its statuses show (R293, R298) and the command its next slot carries. -/
structure Endpoint where
  status : Nat := 0
  faultCode : Nat := 0
  temperature : Nat := 0
  position : Int := 0
  /-- change of position between the last two valid statuses, and the frames between them -/
  delta : Int := 0
  gap : Nat := 1
  current : Int := 0
  aux : Nat := 0
  /-- consecutive frames without a valid status -/
  missing : Nat := 0
  seen : Bool := false
  fault : Bool := false
  /-- 0 NOP, 1 DRIVE, 2 BRAKE, 3 ENABLE, 4 DISABLE -/
  cmd : Nat := 0
  deriving DecidableEq, Repr, Inhabited

structure ActLink where
  seq : Nat := 0
  lastFrame : Bytes := []
  /-- slots that return valid status, by bit -/
  ok : Nat := 0
  crcErrors : Nat := 0
  lost : Nat := 0
  deriving DecidableEq, Repr, Inhabited

structure Brd where
  ready : Bool := false
  motion : Motion := .unthreaded
  loops : AMap Loop := []
  /-- a loop has been enabled since D3 (R297) -/
  ran : Bool := false
  /-- SPEED measures from the servo (R271) -/
  servoSpeed : Bool := false
  /-- slew of SPEED in force, m/s² (R285) -/
  slew : Nat := 4
  settledCount : Nat := 0
  /-- direction in which the tape runs, or will after a turnaround -/
  runReverse : Bool := false
  /-- how far a turnaround or an unthreading has come -/
  phase : Nat := 0
  repos : Option Repos := none
  /-- a reposition, or none for stop-and-park, held while a write window is open (R299) -/
  heldRepos : Option (Option Repos) := none
  stop : Option CtlStop := none
  /-- latest speed target, kept for the next run, 1/64 m/s (R290) -/
  kept : Nat := 0
  ceiling : Nat := 512
  nextWrap : Nat := 0
  latOffset : Int := 0
  trim : Int := 0
  /-- reel radii, cartridge and machine, in µm (R282) -/
  radius0 : Int := 0
  radius1 : Int := 0
  torque0 : Int := 0
  torque1 : Int := 0
  /-- the head stands, or is being moved to, its park position (R288) -/
  parked : Bool := true
  /-- an open-loop move of the head that waits for the tape to come to rest, in microsteps (R287) -/
  stepMove : Option Int := none
  /-- the microstep count that the stepper is being moved to (R287, R288) -/
  stepTo : Option Int := none
  /-- the stepper's microstep count at the park position -/
  parkCount : Int := 0
  endpoints : AMap Endpoint := []
  links : AMap ActLink := []
  coefLoop : Nat := 0
  coefIndex : Nat := 0
  deriving DecidableEq, Repr, Inhabited

/-! ## The Shed (11) -/

/-- A journal record (R327). -/
inductive JRec where
  | ring (r part : Nat) (assigned : Bool) (pass : Nat) (serial : Bytes)
  | shelter (r part firstPkt count version off len first : Nat) (last : Bool)
  | release (r tail : Nat)
  | unmap (first count : Nat)
  | gcMove (logical src dst : Nat)
  | erased (block count stream : Nat)
  | retire (block cause : Nat)
  | weak (enter : Bool) (slot ds part rung pass : Nat) (serial : Bytes)
  | dir (set part kind : Nat) (entry : Bytes)
  | dusk (cause clock : Nat)
  deriving DecidableEq, Repr, Inhabited

/-- A programmed NAND unit page: its out-of-band header (R310), field by field and as the 96 bytes in each page's spare, and its
data. -/
structure NUnit where
  role : Nat
  stream : Nat
  row : Nat
  pageSeq : Nat
  logical : Nat
  stripeSeq : Nat
  /-- spill: ring, partition, spill offset; landing: landing header and tag -/
  region : Bytes
  data : Bytes
  oob : Bytes
  deriving DecidableEq, Repr, Inhabited

/-- A Loss Log entry (R373). -/
structure Loss where
  yard : Nat
  stripe : Nat
  member : Nat
  part : Nat
  cause : Nat
  ds : Nat
  count : Nat
  first : Nat
  epoch : Nat
  erasures : Nat
  serial : Bytes
  deriving DecidableEq, Repr, Inhabited

inductive BlkSt where | free | erasing | opened | closed | verified | victim | releasing | retired | anchor
  deriving DecidableEq, Repr, Inhabited

/-- A Shed block (R330): its state, erase count, stream, the stripe_seq of the stripe it belongs to, and the page_seq of
the last program or journal unit that invalidated a unit of it (`invalPending` while the record is not yet in a unit). -/
structure Blk where
  st : BlkSt := .free
  erases : Nat := 0
  stream : Nat := 0
  stripe : Nat := 0
  lastInval : Nat := 0
  invalPending : Bool := false
  deriving DecidableEq, Repr, Inhabited

/-- A spill ring (R315): `head` is the spill offset of the next byte, `issued` the offset up to which units are issued,
`buf` the bytes of the unit that is not full yet. -/
structure Spill where
  assigned : Bool := false
  part : Nat := 0
  pass : Nat := 0
  serial : Bytes := []
  head : Nat := 0
  tail : Nat := 0
  issued : Nat := 0
  buf : Bytes := []
  full : Bool := false
  deriving DecidableEq, Repr, Inhabited

/-- A packet copied into a ring and not yet covered by a SHELTER record (R316). -/
structure Copied where
  ring : Nat
  seq : Nat
  pkt : Nat
  off : Nat
  len : Nat
  deriving DecidableEq, Repr, Inhabited

/-- An open stripe (R308): stream, die group, its 16 blocks by die of the group, the next row, its stripe_seq. -/
structure Stripe where
  stream : Nat
  group : Nat
  blocks : List Nat
  row : Nat
  stripeSeq : Nat
  deriving DecidableEq, Repr, Inhabited

/-- A stripe row whose units are not all programmed (R309): the units issued, those not yet programmed. -/
structure OpenRow where
  stream : Nat
  group : Nat
  row : Nat
  stripeSeq : Nat
  blocks : List Nat
  issued : List Nat
  left : List Nat
  complete : Bool
  deriving DecidableEq, Repr, Inhabited

/-- What a data unit does when its row is protected, beside what its region says. -/
inductive Owed where
  | none
  | landing (seq : Nat)
  | gc (logical src : Nat)
  deriving DecidableEq, Repr, Inhabited

/-- A data unit waiting to be issued: its stream, logical unit, region data, bytes. -/
structure QUnit where
  stream : Nat
  logical : Nat
  region : Bytes
  data : Bytes
  owed : Owed
  deriving DecidableEq, Repr, Inhabited

/-- A partition's end of data as its entry holds it (R162): Record Number, data set number, wrap, frame. -/
structure Eod where
  record : Nat
  ds : Nat
  wrap : Nat
  frame : Nat
  deriving DecidableEq, Repr, Inhabited

/-- A directory set (R324), and the ordinal of its latest load. -/
structure DirSet where
  serial : Bytes := []
  pass : Nat := 0
  dirs : AMap Directory := []
  eods : AMap Eod := []
  loadedAt : Nat := 0
  deriving DecidableEq, Repr, Inhabited

/-- Packets lo up to hi of a write that were returned from the Shed, and the chain of Stalls that holds them (R318). -/
structure Returned where
  seq : Nat
  lo : Nat
  hi : Nat
  stalls : List Handle
  deriving DecidableEq, Repr, Inhabited

/-- A checkpoint: what its tables hold (R329). `shelters` are the SHELTER records of unreleased ring bytes. -/
structure Ckpt where
  gen : Nat
  horizon : Nat
  shedId : Nat
  map : AMap Nat
  blocks : AMap Blk
  spills : AMap Spill
  shelters : List JRec
  weak : List Weak
  dirs : List DirSet
  health : List Nat
  /-- units issued below the horizon and not yet programmed, journal units issued below it and not yet durable, when the
  tables were written (log entry 60) -/
  issued : List Nat
  inFlight : List Nat
  deriving DecidableEq, Repr, Inhabited

structure Shd where
  ready : Bool := false
  replaying : Bool := false
  quotaReduced : Bool := false
  duskIncomplete : Bool := false
  foreign : Bool := false
  dies : Nat := 0
  blocksPerPlane : Nat := 0
  ppbCode : Nat := 0
  /-- spill_quota in force, GiB, after R312 -/
  spillQuota : Nat := 0
  spills : AMap Spill := []
  copied : List Copied := []
  /-- SHELTER records of ring bytes not yet released, in ring order -/
  shelters : List JRec := []
  /-- logical unit to physical unit (R313) -/
  map : AMap Nat := []
  /-- map pages in the map cache, most recently used first, and whether dirty; map pages stored in NAND (R314) -/
  mapCache : List (Nat × Bool) := []
  pagesStored : AMap Unit := []
  blocks : AMap Blk := []
  /-- NAND contents by physical unit -/
  units : AMap NUnit := []
  pageSeq : Nat := 0
  stripes : List Stripe := []
  rows : List OpenRow := []
  /-- the die group that each stream fills (R308) -/
  group : AMap Nat := []
  queue : List QUnit := []
  owed : AMap Owed := []
  /-- units issued on each die since the last reset, and those of them in stream 2 (R320) -/
  dieUnits : AMap Nat := []
  dieMoves : AMap Nat := []
  pendingRecs : List JRec := []
  /-- journal units issued and not yet durable, oldest first, and those durable: page_seq and records -/
  journals : List (Nat × List JRec) := []
  jlog : List (Nat × List JRec) := []
  /-- units programmed since the last checkpoint began -/
  sinceCkpt : Nat := 0
  ckptActive : Bool := false
  ckptAgain : Bool := false
  ckptSnap : Option Ckpt := none
  ckpt : Option Ckpt := none
  /-- dies on which garbage collection runs, and the victim of each -/
  gc : AMap Unit := []
  victims : AMap Nat := []
  dirs : List DirSet := []
  lossLog : List Loss := []
  /-- landing blocks lost and not written since (R333) -/
  lostLanding : AMap Unit := []
  /-- packets returned from the Shed and announced to the formatter, by write -/
  returned : AMap Nat := []
  /-- the Shed transfer Stalls that hold packets returned (R318) -/
  retChains : List Returned := []
  /-- the management Stalls of the map cache (R79, R314) -/
  cacheStalls : List Handle := []
  /-- the journal unit last programmed in both stream 3 blocks, four pages (R326) -/
  journalUnit : Bytes := []
  /-- health counts over the life of the Shed (R341), and the counts of programmed units since the last reset -/
  hostUnits : Nat := 0
  nandUnits : Nat := 0
  hostUp : Nat := 0
  nandUp : Nat := 0
  correctedBits : Nat := 0
  uncorrectable : Nat := 0
  programFails : Nat := 0
  eraseFails : Nat := 0
  verifyFails : Nat := 0
  lostUnits : Nat := 0
  dusks : Nat := 0
  dusksIncomplete : Nat := 0
  hist : List Nat := List.replicate 16 0
  hottest : Int := 0
  /-- partitions whose loss at a cut is to be reported at the next LOAD: serial, pass, partition -/
  cutLoss : List (Bytes × Nat × Nat) := []
  deriving DecidableEq, Repr, Inhabited

/-! ## The Yard (12) -/

/-- The Yard descriptor (R343). -/
structure Desc where
  n : Nat
  k : Nat
  m : Nat
  yard : Nat
  gen : Nat
  contribTimeout : Nat
  memberDead : Nat
  /-- by member: origin serial, parity partition, wrap counts -/
  members : List (Bytes × Nat × List Nat)
  /-- rows of member indexes by slot -/
  rows : List (List Nat)
  raw : Bytes
  deriving DecidableEq, Repr, Inhabited

inductive MemberSt where | present | absent | lost | notMember
  deriving DecidableEq, Repr, Inhabited

inductive StripeSt where | free | opened | held | sealed | safe
  deriving DecidableEq, Repr, Inhabited

/-- A journal entry (R355). -/
structure JEntry where
  stripe : Nat
  epoch : Nat
  st : StripeSt := .opened
  k : Nat
  m : Nat
  gen : Nat
  /-- 0 unclaimed, 1 claimed, 2 null, by slot -/
  slots : AMap Nat := []
  /-- done bits, 32 · (role − 1) + slot -/
  done : AMap Unit := []
  laid : AMap Unit := []
  acks : AMap Unit := []
  ms : Nat := 0
  /-- role holders by role; a role at a stand-in -/
  holders : AMap Nat := []
  standIns : AMap Unit := []
  /-- partition and data set number of a claim, by slot -/
  claims : AMap (Nat × Nat) := []
  /-- replicas whose JOURNAL_ACK is awaited, the messages that wait for them, and those of later changes -/
  awaiting : AMap Unit := []
  reveal : List YMsg := []
  later : List YMsg := []
  /-- the entry has changed since the JOURNAL in flight -/
  dirty : Bool := false
  /-- a stripe whose parity is reworked (R375) -/
  rework : Bool := false
  deriving DecidableEq, Repr, Inhabited

/-- A claim of this member: stripe, slot, data set, how far it is (R349). -/
structure Claim where
  stripe : Nat
  slot : Nat
  part : Nat
  ds : Nat
  acked : Bool := false
  epoch : Nat := 0
  /-- contributions sent -/
  sent : Bool := false
  deriving DecidableEq, Repr, Inhabited

/-- A retention copy (R352), in Stalls or in a Yard region slot. -/
structure Retain where
  part : Nat
  ds : Nat
  stripe : Nat
  user : Bytes
  stalls : List Handle := []
  slot : Option Nat := none
  deriving DecidableEq, Repr, Inhabited

/-- A parity accumulator (R353): stripe, role, bytes, received map by 300 · slot + segment, and its data set once
formatted. -/
structure Accum where
  stripe : Nat
  role : Nat
  bytes : Bytes
  seen : AMap Unit := []
  isSealed : Bool := false
  part : Nat := 0
  ds : Option Nat := none
  stalls : List Handle := []
  deriving DecidableEq, Repr, Inhabited

/-- An epoch record (the Epochs section of 12): the map gives each member's state code and host Node ID. -/
structure EpochRec where
  epoch : Nat
  boundary : Nat
  gen : Nat
  leader : Nat
  map : AMap (Nat × Nat)
  deriving DecidableEq, Repr, Inhabited

/-- A change of the member map that an epoch is to bring, with the command it completes (R361, R367). -/
structure Want where
  member : Nat
  state : Nat
  host : Nat
  cmd : Option Nat := none
  deriving DecidableEq, Repr, Inhabited

/-- An epoch change that this member leads (R361): querying, or proposed. -/
structure Change where
  highest : Option Nat := none
  wants : List Want
  proposed : Option EpochRec := none
  adopts : AMap Unit := []
  deriving DecidableEq, Repr, Inhabited

/-- Where a unit or a Yard parity data set of this member lies: stripe, place in the stripe (slot, or k + role − 1),
partition, data set. -/
structure YUnit where
  stripe : Nat
  place : Nat
  part : Nat
  ds : Nat
  deriving DecidableEq, Repr, Inhabited

inductive ReconFor where | read | rebuild
  deriving DecidableEq, Repr, Inhabited

/-- A reconstruction in progress (R368): the place wanted, survivors as place, member, coefficient; places erased; the sum
so far and the segments received, by 300 · place + segment. -/
structure Recon where
  stripe : Nat
  place : Nat
  part : Nat
  ds : Nat
  use : ReconFor
  survivors : List (Nat × Nat × Nat) := []
  erased : List Nat := []
  bytes : Bytes := []
  seen : AMap Unit := []
  deriving DecidableEq, Repr, Inhabited

structure Yrd where
  desc : Option Desc := none
  /-- descriptors of earlier generations and the boundary below which their data slots hold (R374) -/
  oldDescs : List (Nat × Desc) := []
  nextDesc : Option Desc := none
  yardId : Nat := 0
  enrolled : Bool := false
  member : Nat := 0
  parityPart : Nat := 0
  replacing : Bool := false
  declaredLost : Bool := false
  pageSeq : Nat := 0
  descMismatch : Bool := false
  descParts : AMap Bytes := []
  wantGen : Nat := 0
  wantDigest : Bytes := []
  epoch : Nat := 0
  boundary : Nat := 0
  /-- member map: state code and host Node ID (R345); unlisted is not a member -/
  map : AMap (Nat × Nat) := []
  history : List EpochRec := []
  /-- stand-in list: stripe, role, stand-in (R364) -/
  standIns : List (Nat × Nat × Nat) := []
  /-- Node IDs that the fabric reaches -/
  reachable : AMap Unit := []
  /-- the proposal last adopted: epoch and leader -/
  adopted : Option (Nat × Nat) := none
  wants : List Want := []
  change : Option Change := none
  claims : List Claim := []
  /-- the highest stripe claimed so far; stripes skipped after NULL_OK -/
  highClaim : Option Nat := none
  skipped : AMap Unit := []
  unstriped : List (Nat × Nat) := []
  units : List YUnit := []
  journal : AMap JEntry := []
  replicas : AMap JEntry := []
  accums : List Accum := []
  retains : List Retain := []
  recons : List Recon := []
  /-- what rung 5 is answered with, once known (R369) -/
  answer : Option (Option Bytes) := none
  /-- units read from tape for a rebuilder: partition, data set, whether its ladder has failed -/
  serve : List (Nat × Nat × Bool) := []
  rebuildActive : Bool := false
  rebuildMember : Nat := 0
  rebuildPos : Nat := 0
  rebuildTodo : List (Nat × Nat) := []
  reshapeActive : Bool := false
  /-- boundary of the epoch that committed the reshape; last checkpoint; R -/
  reshapeBound : Nat := 0
  reshapePos : Nat := 0
  reshapeR : Nat := 0
  /-- the stripe for which this member's unit was last sent (R375) -/
  reshapeSent : Option Nat := none
  /-- null slots of a stripe as SEAL told them -/
  nulls : AMap Nat := []
  heldMsgs : List YMsg := []
  awaitReply : List YMsg := []
  /-- contribution segments that were NACKed: stripe, role, segment -/
  nacked : List (Nat × Nat × Nat) := []
  /-- reconstructed units of a replacement, by 2^32 · partition + data set -/
  rebuilt : AMap Bytes := []
  sel : Nat := 0
  selState : Nat := 3
  selHost : Nat := 0
  deriving DecidableEq, Repr, Inhabited

/-! ## Stotodric Fabric (13) -/

inductive FPort where | down | training | hello | up
  deriving DecidableEq, Repr, Inhabited

/-- A sequenced flit waiting at an output: virtual channel, where it came from (port 0-3, or 4 for this node). -/
structure QFlit where
  vc : Nat
  input : Nat
  flit : Bytes
  deriving DecidableEq, Repr, Inhabited

/-- A fabric port: link state (R383), its sender (R386, R388, R389) and its receiver (R387). -/
structure FabPort where
  st : FPort := .down
  /-- lanes with signal, and lanes in service, by bit; lanes removed and waiting to rejoin (R395) -/
  signal : Nat := 0
  lanes : Nat := 0
  removed : Nat := 0
  neighbour : Nat := 0
  /-- sequence of the last flit sent, of the last one accepted, and whether a NAK is out for the next -/
  txSeq : Nat := 0
  rxSeq : Nat := 0
  nakSent : Bool := false
  /-- credits held, and credits to be returned, by virtual channel -/
  credits : List Nat := [0, 0, 0, 0]
  owed : List Nat := [0, 0, 0, 0]
  /-- unacknowledged flits, oldest first, and replays begun since the acknowledgement last moved -/
  replay : List Bytes := []
  replays : Nat := 0
  /-- flits waiting for this output -/
  queue : List QFlit := []
  /-- by virtual channel: input of the last flit taken, and whether its message goes on -/
  turns : AMap (Nat × Bool) := []
  /-- contribution flits sent since the last bulk flit -/
  contribs : Nat := 0
  /-- flits sent on the lanes, oldest first -/
  sent : List Bytes := []
  /-- sequenced flits sent and accepted, modulo 1,024 -/
  txCount : Nat := 0
  rxCount : Nat := 0
  /-- accepted flits that wait in the receive buffer for a Stall -/
  waiting : List Bytes := []
  /-- messages being discarded as they arrive: source, virtual channel (R390) -/
  dropping : List (Nat × Nat) := []
  deriving DecidableEq, Repr, Inhabited

/-- A link-state advertisement (R393); its links are neighbour, local port, lanes in service, cost. -/
structure Lsa where
  noncePrefix : Nat
  seq : Nat
  withdrawn : Bool
  links : List (Nat × Nat × Nat × Nat)
  deriving DecidableEq, Repr, Inhabited

structure Route where
  port : Nat
  hops : Nat
  cost : Nat
  nextHop : Nat
  deriving DecidableEq, Repr, Inhabited

/-- A message being reassembled (R391): source, virtual channel, tag, next index, bytes so far, its Stall. -/
structure Partial where
  src : Nat
  vc : Nat
  tag : Nat
  next : Nat
  bytes : Bytes
  /-- the requester that holds its Stall, and the Stall -/
  stall : Nat × Handle
  deriving DecidableEq, Repr, Inhabited

/-- A complete message for the Yard engine and its Stall; one from this node itself fills none. -/
structure Delivery where
  bytes : Bytes
  /-- the requester that holds its Stall, and the Stall -/
  stall : Option (Nat × Handle)
  deriving DecidableEq, Repr, Inhabited

structure Fab where
  ready : Bool := false
  ports : AMap FabPort := []
  lsdb : AMap Lsa := []
  lsaSeq : Nat := 0
  routes : AMap Route := []
  /-- nodes that the table last installed reaches -/
  reach : AMap Unit := []
  routeBusy : Bool := false
  conflict : Bool := false
  partials : List Partial := []
  delivered : List Delivery := []
  /-- next message tag by virtual channel -/
  tags : AMap Nat := []
  sel : Nat := 0
  selRoute : Option Route := none
  deriving DecidableEq, Repr, Inhabited

/-! ## Mailboxes, management, configuration, Dawn (01, 14, 15, 16) -/

/-- An event mailbox entry (R14). -/
structure Mail where
  clock : Nat
  src : Nat
  code : Nat
  arg : Nat
  deriving DecidableEq, Repr, Inhabited

/-- The event mailboxes (R13). -/
inductive Box where | mgt | bridle | wrv | fmt | yard
  deriving DecidableEq, Repr, Inhabited

structure Boxes where
  mgt : List Mail := []
  bridle : List Mail := []
  wrv : List Mail := []
  fmt : List Mail := []
  yard : List Mail := []
  /-- entries that producers keep until one of their own reserved slots is free, oldest first (log entry 87) -/
  held : List (Box × Mail) := []
  deriving DecidableEq, Repr, Inhabited

/-- An event log entry (R426): microseconds and the mailbox entry. -/
structure LogEnt where
  us : Nat
  mail : Mail
  deriving DecidableEq, Repr, Inhabited

structure Monitor where
  value : Int := 0
  band : Nat := 0
  /-- consecutive samples more than 6 % from nominal -/
  beyond : Nat := 0
  deriving DecidableEq, Repr, Inhabited

inductive ActStep where | nightStarting | holding | scheduled
  deriving DecidableEq, Repr, Inhabited

/-- A firmware activation in progress (R429). -/
structure Activation where
  seq : Nat
  slot : Nat
  step : ActStep
  deriving DecidableEq, Repr, Inhabited

structure Mgt where
  dayCore : Nat := 0
  nightReady : Bool := false
  takeover : Bool := false
  activation : Option Activation := none
  nightAge : Nat := 0
  dayAge : Nat := 0
  /-- the last post of a management core failed for want of a slot (R13) -/
  postBusy : Bool := false
  noSpare : Bool := false
  criticalHold : Bool := false
  throttled : Bool := false
  ceiling : Nat := 512
  hotTemp : Int := 0
  hotSensor : Nat := 0
  /-- thresholds crossed upwards and not yet downwards: bit 0 Warning, 1 Throttle, 2 Critical (R432) -/
  hotBand : Nat := 0
  monitors : AMap Monitor := []
  monSel : Nat := 0
  monBand : Nat := 0
  monValue : Int := 0
  retireFailures : Nat := 0x400
  retireWindow : Nat := 0x40
  /-- bit d − 1 set while domain d is on -/
  domains : Nat := 1
  monOff : Bool := false
  log : AMap LogEnt := []
  logSeq : Nat := 0
  gpio : AMap Bool := []
  traceFlushed : Nat := 0
  /-- I3C target: dynamic address, IBIs enabled, latest report, an IBI raised, the last answer -/
  i3cAddr : Option Nat := none
  ibiOn : Bool := false
  ibi : Bool := false
  report : Bytes := []
  i3cAnswer : Bytes := []
  i3cNack : Bool := false
  deriving DecidableEq, Repr, Inhabited

/-- A configuration record (R409): its value as 32-bit words. -/
structure CfgRec where
  type : Nat
  inst : Nat
  critical : Bool
  len : Nat
  words : List Nat
  deriving DecidableEq, Repr, Inhabited

/-- What a scheduled set carries besides its records (R411, R422, R429). -/
inductive SetKind where
  | plain | takeover | activation (slot : Nat) | retire (chan : Nat) (clear : List Nat)
  deriving DecidableEq, Repr, Inhabited

structure CfgSet where
  recs : List CfgRec
  kind : SetKind
  /-- the command to complete when it takes effect, and the scheduler entry -/
  cmd : Option Nat
  entry : Option Nat
  deriving DecidableEq, Repr, Inhabited

inductive DawnSt where
  | reset | d0 | d1 | d2 | d3 | d4 | d5 | service | faulted | hold
  deriving DecidableEq, Repr, Inhabited

/-- Dusk in progress (R338). -/
structure Dusk where
  cause : DuskCause
  domainsOff : Bool := false
  deriving DecidableEq, Repr, Inhabited

structure Cfg where
  st : DawnSt := .reset
  /-- the last stage entered, 0-5 -/
  stage : Nat := 0
  dusk : Option Dusk := none
  /-- PFAIL_N asserted -/
  pfail : Bool := false
  fuses : Option Fuses := none
  serviceArea : List CfgRec := []
  bootSlot : Nat := 0
  slotA : Nat := 0
  slotB : Nat := 0
  failedD2 : List Nat := []
  imageVersion : Nat := 0
  imageSvn : Nat := 0
  signer : Nat := 0
  bootSeq : Nat := 0
  records : List CfgRec := []
  openSet : Option (Port × List CfgRec) := none
  scheduled : List CfgSet := []
  conflictA : Nat := 0
  conflictB : Nat := 0
  commitClock : Nat := 0
  d3ms : Nat := 0
  totalMs : Nat := 0
  dawnLog : List LogEnt := []
  deriving DecidableEq, Repr, Inhabited

structure Glb where
  violations : Nat := 0
  kind : Nat := 0
  port : Nat := 0
  fn : Nat := 0
  offset : Nat := 0
  deriving DecidableEq, Repr, Inhabited

/-- The whole machine. -/
structure State where
  glb : Glb := {}
  hq : Hq := {}
  parts : AMap Part := []
  cart : Cart := {}
  stk : Stk := {}
  cmp : Cmp := {}
  cip : Cip := {}
  wrv : Wrv := {}
  rch : Rch := {}
  srv : Srv := {}
  brd : Brd := {}
  shd : Shd := {}
  yrd : Yrd := {}
  fab : Fab := {}
  boxes : Boxes := {}
  mgt : Mgt := {}
  cfg : Cfg := {}
  /-- counters by Control Space offset; unlisted counters are 0 -/
  ctrs : AMap Nat := []
  /-- host memory as the device has written it, by byte address; unlisted bytes were not written by the device -/
  hostMem : AMap Byte := []
  /-- cartridge memory (R162); unlisted bytes read zero -/
  cartMem : AMap Byte := []
  /-- the octal NOR's image slots: bytes from offset 0 of slot A; unlisted bytes read 0xFF -/
  norMem : AMap Byte := []
  /-- free values drawn so far (the model's own field) -/
  freeCtr : Nat := 0
  /-- commands waiting, first in first out -/
  pending : List Instr := []
  deriving DecidableEq, Repr, Inhabited

/-- Why a step faults. No meaning of this model raises one: the spec gives every row an effect. -/
inductive Fault where
  /-- raised by nothing; safe -/
  | unreachable
  deriving DecidableEq, Repr, Inhabited

/-- Why a command is refused. -/
inductive Refusal where
  /-- raised by `exec` for a row that has no meaning yet; safe -/
  | notModelled (mnemonic : String)
  deriving DecidableEq, Repr, Inhabited

/-- The machine right after reset: every field at the value the spec gives, or at the value that a log entry names. -/
def State.reset : State := {}

end Sys2Proof.Machine
end

