-- ==== Sys2Proof/Machine/Flags.lean ====
section
/-!
DEFINITION. Bit fields, byte orders (R6), saturation, checks over GF(2), and the status codes (R74): the small
computations that every block shares.
-/

namespace Sys2Proof.Machine

/-- What a command answers. -/
abbrev Out := Host.Outcome State Fault Refusal

/-! ## Bit fields and byte orders -/

/-- Bits [hi:lo] of a number (R5). -/
def bits (v hi lo : Nat) : Nat := v / 2 ^ lo % 2 ^ (hi + 1 - lo)

/-- Bit i of a number. -/
def bit (v i : Nat) : Bool := v / 2 ^ i % 2 == 1

/-- A one-bit field. -/
def b2n (b : Bool) : Nat := if b then 1 else 0

/-- The n bytes of v, least significant first (R6). -/
def le : Nat → Nat → Bytes
  | 0, _ => []
  | n + 1, v => BitVec.ofNat 8 v :: le n (v / 256)

/-- The n bytes of v, most significant first (R6). -/
def be (n v : Nat) : Bytes := (le n v).reverse

/-- The value of bytes stored least significant first. -/
def leVal : Bytes → Nat
  | [] => 0
  | b :: bs => b.toNat + 256 * leVal bs

/-- The value of bytes stored most significant first. -/
def beVal (bs : Bytes) : Nat := leVal bs.reverse

/-- n bytes from offset i, short when the string is short. -/
def slice (bs : Bytes) (i n : Nat) : Bytes := (bs.drop i).take n

/-- Little-endian field of n bytes at offset i. -/
def leAt (bs : Bytes) (i n : Nat) : Nat := leVal (slice bs i n)

/-- Big-endian field of n bytes at offset i. -/
def beAt (bs : Bytes) (i n : Nat) : Nat := beVal (slice bs i n)

/-- n bytes of zero. -/
def zeros (n : Nat) : Bytes := List.replicate n 0#8

/-- A string cut or padded with zeros to n bytes. -/
def fit (bs : Bytes) (n : Nat) : Bytes := bs.take n ++ zeros (n - bs.length)

/-- ⌈a ÷ b⌉ -/
def ceilDiv (a b : Nat) : Nat := a / b + (if a % b = 0 then 0 else 1)

/-- A signed value as an n-bit two's complement field. -/
def toField (n : Nat) (x : Int) : Nat := (BitVec.ofInt n x).toNat

/-- The signed value of an n-bit two's complement field. -/
def ofField (n : Nat) (v : Nat) : Int := (BitVec.ofNat n v).toInt

/-- A value limited to a range. -/
def clamp (lo hi x : Int) : Int := max lo (min hi x)

/-- An n-bit field of a register write laid into an old value. -/
def setBits (old hi lo v : Nat) : Nat :=
  old - bits old hi lo * 2 ^ lo + (v % 2 ^ (hi + 1 - lo)) * 2 ^ lo

/-- A counter register's next value: counters saturate at 0xFFFF_FFFF. -/
def satAdd (n k : Nat) : Nat := min (n + k) 0xFFFFFFFF

/-- Rounding half away from zero of a ratio; where the spec gives this rounding it is cited at the use. -/
def divRoundAway (a : Int) (b : Nat) : Int :=
  if 0 ≤ a then (2 * a + b) / (2 * b) else -((2 * (-a) + b) / (2 * b))

/-- Rounding toward minus infinity of a ratio. -/
def divFloor (a : Int) (b : Nat) : Int := a.fdiv b

/-! ## Cyclic redundancy checks -/

/-- The bits of a byte, most significant first. -/
def msbBits (b : Byte) : List Bool := (List.range 8).map fun i => b.getLsbD (7 - i)

/-- The bits of a byte, least significant first. -/
def lsbBits (b : Byte) : List Bool := (List.range 8).map fun i => b.getLsbD i

/-- One bit into a w-bit check that shifts towards its most significant bit. -/
def crcBit {w : Nat} (poly : BitVec w) (crc : BitVec w) (b : Bool) : BitVec w :=
  if (crc.getLsbD (w - 1)) != b then (crc <<< 1) ^^^ poly else crc <<< 1

/-- A w-bit check over bits in the order given. -/
def crcBits {w : Nat} (poly init : BitVec w) (bs : List Bool) : BitVec w := bs.foldl (crcBit poly) init

/-- Bits of a word reversed. -/
def bitRev {w : Nat} (x : BitVec w) : BitVec w :=
  (List.range w).foldl (fun a i => if x.getLsbD i then a ||| (BitVec.ofNat w 1 <<< (w - 1 - i)) else a) 0

/-! ## Status codes (R74) -/

namespace Status
def ok : Nat := 0x0000
def invalidOpcode : Nat := 0x0101
def invalidField : Nat := 0x0102
def lengthLimit : Nat := 0x0201
def keyErased : Nat := 0x0202
def keyExhausted : Nat := 0x0203
def authFail : Nat := 0x0204
def keySlotEmpty : Nat := 0x0205
def abortedByHost : Nat := 0x0301
def abortedByReset : Nat := 0x0302
def abortUnavailable : Nat := 0x0303
def readError : Nat := 0x0401
def recordLost : Nat := 0x0402
def writeFailed : Nat := 0x0403
def deferredWriteError : Nat := 0x0404
def mediaFull : Nat := 0x0405
def truncateRequired : Nat := 0x0406
def busyRetry : Nat := 0x0501
def notReady : Nat := 0x0502
def configConflict : Nat := 0x0601
def configInvalid : Nat := 0x0602
/-- Engine level only; never returned to a host. -/
def notSmaller : Nat := 0x0701
end Status

end Sys2Proof.Machine
end

