-- ==== Sys2Proof/Machine/Ops.lean ====
section
/-!
DEFINITION. The shared operations over the state: counters, event mailboxes (R13 to R15), the committed configuration
(R410, R413), host memory, free values, power domains.
-/

namespace Sys2Proof.Machine

/-! ## Counters, free values -/

/-- A counter register's value. -/
def ctr (s : State) (off : Nat) : Nat := AMap.getD s.ctrs off 0

/-- Count n more at a counter register; it saturates. -/
def addCtr (off n : Nat) (s : State) : State := { s with ctrs := AMap.set s.ctrs off (satAdd (ctr s off) n) }

/-- Count one more at a counter register. -/
def inc (off : Nat) (s : State) : State := addCtr off 1 s

/-- The next free value (log entry 3). -/
def drawn (s : State) : Nat := Config.freeNat s.freeCtr

/-- The n-th free value from here on. -/
def freeAt (s : State) (n : Nat) : Nat := Config.freeNat (s.freeCtr + n)

def drawMany (n : Nat) (s : State) : State := { s with freeCtr := s.freeCtr + n }

/-- A free value has been drawn. -/
def drawNext (s : State) : State := { s with freeCtr := s.freeCtr + 1 }

/-! ## Small tables -/

/-- Change the entry of a table, from a default when it is not listed. -/
def modAt {α : Type} (m : AMap α) (i : Nat) (d : α) (f : α → α) : AMap α := AMap.set m i (f (AMap.getD m i d))

/-- Change the first element that a test picks. -/
def modFirst {α : Type} (p : α → Bool) (f : α → α) : List α → List α
  | [] => []
  | x :: xs => if p x then f x :: xs else x :: modFirst p f xs

/-- Remove the first element that a test picks. -/
def dropFirst {α : Type} (p : α → Bool) : List α → List α
  | [] => []
  | x :: xs => if p x then xs else x :: dropFirst p xs

/-- Insert in ascending order of a key. -/
def insertBy {α : Type} (key : α → Nat) (x : α) : List α → List α
  | [] => [x]
  | y :: ys => if key x < key y then x :: y :: ys else y :: insertBy key x ys

/-- Sort in ascending order of a key, equal keys in the order given. -/
def sortBy {α : Type} (key : α → Nat) (xs : List α) : List α := xs.foldl (fun a x => insertBy key x a) []

/-- Apply an operation to each element in turn. -/
def each {α σ : Type} (f : α → σ → σ) (xs : List α) (s : σ) : σ := xs.foldl (fun s x => f x s) s

/-- A set of numbers as a table without values. -/
def mem? (m : AMap Unit) (i : Nat) : Bool := (AMap.get? m i).isSome

/-! ## Power domains (R10, R453) -/

def domOn (s : State) (d : Nat) : Bool := bit s.mgt.domains (d - 1)

/-- Switch the listed domains on or off. -/
def setDoms (ds : List Nat) (on : Bool) (s : State) : State :=
  { s with mgt := { s.mgt with domains := ds.foldl (fun w d => setBits w (d - 1) (d - 1) (b2n on)) s.mgt.domains } }

/-! ## The committed configuration (R409, R410) -/

/-- The committed record of an identifier. -/
def findRec (rs : List CfgRec) (type inst : Nat) : Option CfgRec := rs.find? fun r => r.type == type && r.inst == inst

/-- Word i of a record of a set, or the value that the register has without one. -/
def recWordIn (rs : List CfgRec) (type inst i reset : Nat) : Nat :=
  match findRec rs type inst with
  | some r => r.words.getD i reset
  | none => reset

/-- Word i of a committed record, or the reset value of the register that reflects it. -/
def recWord (s : State) (type inst i reset : Nat) : Nat := recWordIn s.cfg.records type inst i reset

namespace Cfgw
/-! The words of each record in the order R410 gives; each default is the register reset value. -/
def dramGiB (s : State) : Nat := recWord s 0x0001 0 0 0
def holdUp (s : State) : Nat := recWord s 0x0001 0 1 0
def shedRaw (s : State) : Nat := recWord s 0x0001 0 2 0
/-- the exposure limit, 384 MiB by default (R27) -/
def exposureMiB (s : State) : Nat := recWord s 0x0003 0 0 384
/-- Size of a Stable; 0 in an image without a STABLE_SIZES record (DESIGN CHOICE, log entry 110). -/
def stableSize (s : State) (i : Nat) : Nat := recWord s 0x0002 0 i 0
def shedWord (s : State) (i : Nat) : Nat := recWord s 0x0004 0 i ([0, 0, 0, 0x07D00064, 0x01000400, 0x00022010, 0x0BB82823].getD i 0)
def spillQuota (s : State) : Nat := bits (shedWord s 0) 15 0
def landingBlocks (s : State) : Nat := bits (shedWord s 1) 25 0
def weakSlots (s : State) : Nat := bits (shedWord s 2) 28 16
def yardQuota (s : State) : Nat := bits (shedWord s 2) 15 8
def readaheadQuota (s : State) : Nat := bits (shedWord s 2) 7 0
def returnAhead (s : State) : Nat := bits (shedWord s 4) 31 16
def spillLow (s : State) : Nat := bits (shedWord s 4) 15 0
def gcCritical (s : State) : Nat := bits (shedWord s 5) 23 16
def gcHigh (s : State) : Nat := bits (shedWord s 5) 15 8
def gcLow (s : State) : Nat := bits (shedWord s 5) 7 0
def ratedPe (s : State) : Nat := bits (shedWord s 6) 31 16
def verifyLimit (s : State) : Nat := bits (shedWord s 6) 15 8
def yardMember (s : State) : Nat := recWord s 0x0007 0 0 0
def retainCfg (s : State) : Nat := recWord s 0x0007 0 1 0x168
def retainLow (s : State) : Nat := bits (retainCfg s) 19 0
def afeRx (s : State) : Nat := recWord s 0x0010 0 0 0
def chanDrive (s : State) (p : Nat) : Nat := recWord s 0x0011 p 0 0
/-- physical channel of a logical channel; the identity map of R145 stands where no record maps the channel -/
def chanMap (s : State) (l : Nat) : Nat := recWord s 0x0012 l 0 l
/-- the words of the target taps (R233, R259) -/
def targetLo (s : State) : Nat := recWord s 0x0005 0 0 0xE0002010
def targetHi (s : State) : Nat := recWord s 0x0005 0 1 0xF0
def cmpCtrl (s : State) : Nat := recWord s 0x0013 0 0 0
def rawOnly (s : State) : Bool := bit (cmpCtrl s) 8
def engineEnable (s : State) (e : Nat) : Bool := bit (bits (cmpCtrl s) 5 0) e
def mismatchLimit (s : State) : Nat := bits (recWord s 0x0013 0 1 4) 7 0
def closeCfg (s : State) : Nat := recWord s 0x0014 0 0 0
def wrvWord (s : State) (i : Nat) : Nat := recWord s 0x0015 0 i ([0x343, 0x10101C2A, 0x0C810200, 0x08001000].getD i 0)
def dsCopyLimit (s : State) : Nat := bits (wrvWord s 0) 11 8
def carryLimit (s : State) : Nat := bits (wrvWord s 0) 7 4
def rewriteThreshold (s : State) : Nat := bits (wrvWord s 0) 2 0
def resumeFrames (s : State) : Nat := bits (wrvWord s 1) 23 16
def pesResume (s : State) : Nat := bits (wrvWord s 1) 15 8
def pesLimit (s : State) : Nat := bits (wrvWord s 1) 7 0
def tFill (s : State) : Nat := bits (wrvWord s 2) 31 20
def vMin (s : State) : Nat := bits (wrvWord s 2) 19 10
def vMax (s : State) : Nat := bits (wrvWord s 2) 9 0
def bRestart (s : State) : Nat := bits (wrvWord s 3) 31 16
def bTarget (s : State) : Nat := bits (wrvWord s 3) 15 0
def rchWord (s : State) (i : Nat) : Nat :=
  recWord s 0x0016 0 i ([0x10C643E8, 0x10A, 0x4238200C, 0x00638503, 0xFCA14402, 0x1090].getD i 0)
def srvCfg (s : State) : Nat := recWord s 0x0017 0 0 0x400F
def flywheelFrames (s : State) : Nat := bits (srvCfg s) 15 8
def readersEnable (s : State) : Nat := bits (srvCfg s) 3 0
def slewCfg (s : State) : Nat := recWord s 0x0018 0 0 0x2284
def stopSlew (s : State) : Nat := bits (slewCfg s) 14 10
def turnSlew (s : State) : Nat := bits (slewCfg s) 9 5
def speedSlew (s : State) : Nat := bits (slewCfg s) 4 0
def stopCfg (s : State) : Nat := recWord s 0x0018 0 1 0x10000258
def holdSpeed (s : State) : Nat := bits (stopCfg s) 31 24
def stopGrace (s : State) : Nat := bits (stopCfg s) 15 0
def tensionCfg (s : State) : Nat := recWord s 0x0018 0 2 0x0FA2BC0A
def tensionTrim (s : State) : Nat := bits (tensionCfg s) 31 20
def tensionNominal (s : State) : Nat := bits (tensionCfg s) 19 8
def spanShift (s : State) : Nat := bits (tensionCfg s) 7 0
def nodeId (s : State) : Nat := bits (recWord s 0x001A 0 0 0) 15 0
def fabCfg (s : State) : Nat := recWord s 0x001A 0 1 0x640A100F
def portEnable (s : State) (p : Nat) : Bool := bit (bits (fabCfg s) 3 0) p
def gpio (s : State) (b : Nat) : Nat := recWord s 0x0020 b 0 0
def trace (s : State) : Nat := recWord s 0x0021 0 0 0
def monCfg (s : State) : Nat := recWord s 0x0022 0 0 1
def telemetry (s : State) : Nat := recWord s 0x0023 0 0 0
end Cfgw

/-! ## Event mailboxes (R13, R14, R15) -/

/-! Posting blocks are numbered by their power domain (R14). -/
namespace Src
def aon : Nat := 1
def mgtDay : Nat := 3
def bridle : Nat := 5
def servo : Nat := 6
/-- the first of the channel domains 7 to 12, for all four links (log entry 21) -/
def chan : Nat := 7
def fmt : Nat := 13
def dec : Nat := 14
def wrv : Nat := 15
/-- the compression engines: 0 to 2 in domain 16, 3 to 5 in domain 17 (R453) -/
def cmp (e : Nat) : Nat := if e < 3 then 16 else 17
def cip : Nat := 18
def stk : Nat := 19
/-- the fabric ports: SF0 and SF1 in domain 24, SF2 and SF3 in domain 25; what belongs to no port is posted by the first (log entry
21) -/
def fab (p : Nat) : Nat := if p < 2 then 24 else 25
def shed : Nat := 26
def yard : Nat := 27
def hostq : Nat := 28
def act : Nat := 29
end Src

def boxOf (s : State) : Box → List Mail
  | .mgt => s.boxes.mgt
  | .bridle => s.boxes.bridle
  | .wrv => s.boxes.wrv
  | .fmt => s.boxes.fmt
  | .yard => s.boxes.yard

def setBox (b : Box) (ms : List Mail) (s : State) : State :=
  { s with boxes := match b with
    | .mgt => { s.boxes with mgt := ms }
    | .bridle => { s.boxes with bridle := ms }
    | .wrv => { s.boxes with wrv := ms }
    | .fmt => { s.boxes with fmt := ms }
    | .yard => { s.boxes with yard := ms } }

/-- Entries of a mailbox (R13). -/
def boxSize : Box → Nat
  | .mgt => 1024
  | .bridle => 64
  | .wrv => 32
  | .fmt => 256
  | .yard => 256

/-- Slots of a mailbox that its reserved producers hold (R13). -/
def boxReserved : Box → Nat
  | .mgt => 0
  | .bridle => 24
  | .wrv => 16
  | .fmt => 104
  | .yard => 128

def isPriority (m : Mail) : Bool := 0x8000 ≤ m.code

/-- The entry that the consumer takes next: priority entries before all others, then posting order (R15). -/
def boxHead (ms : List Mail) : Option Mail := (ms.find? isPriority).or ms.head?

def mail (src code arg : Nat) (s : State) : Mail := ⟨s.srv.clock, src, code, arg⟩

/-- The producers that share reserved slots of a mailbox with a source, and how many they hold (R13): the read recovery posts
through the formatter's slots, as do the write lanes for the formatter; SHOCK_N comes through the Actuator Links of the
Bridle. The management cores hold none. -/
def slotOwners (b : Box) (src : Nat) : Option (List Nat × Nat) :=
  let among := fun (l : List (List Nat × Nat)) => l.find? fun g => g.1.contains src
  match b with
  | .mgt => none
  | .bridle => among [([Src.shed], 8), ([Src.fmt, Src.dec, Src.wrv], 8), ([Src.aon], 8)]
  | .wrv => among [([Src.servo], 8), ([Src.bridle, Src.act], 8)]
  | .fmt => among [([Src.yard], 32), ([Src.shed], 32), ([Src.dec], 32), ([Src.bridle], 8)]
  | .yard => among [([Src.fmt, Src.dec], 64), ([24, 25], 64)]

/-- Slots of a mailbox that the entries of some sources fill. -/
def slotsUsed (b : Box) (srcs : List Nat) (s : State) : Nat := ((boxOf s b).filter fun m => srcs.contains m.src).length

/-- Whether a producer finds a slot of its own; a management core, one that is not reserved (R13). -/
def slotFree (b : Box) (src : Nat) (s : State) : Bool :=
  match slotOwners b src with
  | some (g, n) => decide (slotsUsed b g s < n)
  | none => decide (((boxOf s b).filter fun m => (slotOwners b m.src).isNone).length < boxSize b - boxReserved b)

/-- Append an entry to a mailbox. -/
def pushBox (b : Box) (m : Mail) (s : State) : State := setBox b (boxOf s b ++ [m]) s

/-- A post to MB_MGT, which drops the entry when it is full and counts it (R13). -/
def pushMgt (m : Mail) (s : State) : State := if boxSize .mgt ≤ (boxOf s .mgt).length then inc 0x110020 s else pushBox .mgt m s

/-- A post (R13, R14). A producer with reserved slots, all in use,
keeps the entry until one of them is free (log entry 87); a core with no slot gets busy status. -/
def post (b : Box) (src code arg : Nat) (s : State) : State :=
  let m := mail src code arg s
  if b = .mgt then pushMgt m s
  else if slotFree b src s then pushBox b m s
  else if (slotOwners b src).isSome then { s with boxes := { s.boxes with held := s.boxes.held ++ [(b, m)] } }
  else { s with mgt := { s.mgt with postBusy := true } }

/-- A slot of a mailbox has come free: the first entry kept for it by a producer that now has a slot enters. -/
def refillBox (b : Box) (s : State) : State :=
  match s.boxes.held.find? fun x => x.1 == b && slotFree b x.2.src s with
  | some x => pushBox b x.2 { s with boxes := { s.boxes with held := s.boxes.held.erase x } }
  | none => s

/-- Whether a post from a management core finds a slot (R13). -/
def mgtSlotFree (b : Box) (s : State) : Bool := slotFree b Src.mgtDay s

/-- A post from a management core; with no slot free it fails with busy status to the posting core. -/
def postMgt (b : Box) (code arg : Nat) (s : State) : State :=
  post b Src.mgtDay code arg { s with mgt := { s.mgt with postBusy := false } }

/-- The entries posted to a mailbox and not yet taken, with those that its producers keep. -/
def postedTo (s : State) (b : Box) : List Mail := boxOf s b ++ (s.boxes.held.filter fun x => x.1 == b).map Prod.snd

/-- An MB_MGT event of a block (R425): block number, event, priority. -/
def postEvent (src block ev : Nat) (prio : Bool) (arg : Nat) (s : State) : State :=
  pushMgt (mail src (b2n prio * 0x8000 + block * 256 + ev) arg s) s

def sameMail (src code arg : Nat) (m : Mail) : Bool := m.src == src && m.code == code && m.arg == arg

/-- The consumer takes the entry (src, code, arg): it must be the one R15 puts first. An entry that is not in the mailbox
is posted by its producer now, and taken at once if R15 puts it first (log entry 6). -/
def boxTake (b : Box) (src code arg : Nat) (act : State → State) (s : State) : State :=
  let ms := boxOf s b
  if ms.any (sameMail src code arg) then
    if (boxHead ms).any (sameMail src code arg) then act (refillBox b (setBox b (dropFirst (sameMail src code arg) ms) s)) else s
  else if slotOwners b src = none ∧ slotFree b src s = false then { s with mgt := { s.mgt with postBusy := true } }
  else if ms = [] ∨ (0x8000 ≤ code ∧ ms.all fun m => !isPriority m) then act s
  else post b src code arg s

/-- Entries that producers post to one mailbox in the same cycle stand in the order of their source numbers (R15): of what an
operation has appended, the lower source first. -/
def sameCycle (b : Box) (act : State → State) (s : State) : State :=
  let t := act s
  let n := (boxOf s b).length
  setBox b ((boxOf t b).take n ++ sortBy Mail.src ((boxOf t b).drop n)) t

/-! ## Host memory: what the device writes -/

/-- Write bytes to host memory from an address on. -/
def hostWrite (addr : Nat) (bs : Bytes) (s : State) : State :=
  { s with hostMem := (bs.zipIdx).foldl (fun m (b, i) => AMap.set m (addr + i) b) s.hostMem }

/-- A byte of host memory as the device has written it. -/
def hostByte (s : State) (a : Nat) : Option Byte := AMap.get? s.hostMem a

/-- The scatter list that a command names, read from its 16-byte elements (R41): address in [63:0], length in [95:64],
[127:96] ignored; as many elements as `data_list_count`. -/
def sglOf (e : SqEntry) (b : Bytes) : List ScatterElem :=
  (List.range e.listCount).map fun i => ⟨leAt b (16 * i) 8, leAt b (16 * i + 8) 4⟩

/-- Bytes into a scatter list from byte `skip` of it on (R41). -/
def sglWrite : List ScatterElem → Nat → Bytes → State → State
  | [], _, _, s => s
  | e :: es, skip, bs, s =>
    if e.len ≤ skip then sglWrite es (skip - e.len) bs s
    else sglWrite es 0 (bs.drop (e.len - skip)) (hostWrite (e.addr + skip) (bs.take (e.len - skip)) s)

/-! ## Speed and place of the tape -/

/-- Measured speed in 1/64 m/s without its sign, rounded down (R433). -/
def speed64 (s : State) : Nat := s.srv.speed.natAbs / 1024

/-- Whether the device is writing (R16): a write window is open. -/
def writing (s : State) : Bool := s.wrv.windowOpen

/-- A command that answers a next state. -/
def go (s : State) : Out := .next s

end Sys2Proof.Machine
end

