-- ==== Sys2Proof/Machine/Crypto.lean ====
section
/-!
DEFINITION. The cryptographic primitives that the spec names by their standards: AES-256 (FIPS 197), its modes GCM (SP 800-38D,
R117), CMAC (SP 800-38B, R129) and KW (SP 800-38F, R123, R125), SHA-384 (FIPS 180-4), and ECDH and ECDSA on brainpoolP384r1
(RFC 5639; R124, R125, R402), as those standards define them (PRESUMED, log entry 116). Keys and nonces that the SEC draws have no
body (Config).
-/

namespace Sys2Proof.Machine

/-! ## Byte strings -/

/-- Exclusive-or of two strings, cut to the shorter. -/
def xorBytes (a b : Bytes) : Bytes := a.zipWith (· ^^^ ·) b

/-- A string cut into blocks of n bytes, the last one filled up with zeros. -/
def blocksOf (n : Nat) (b : Bytes) : List Bytes := (List.range (ceilDiv b.length n)).map fun i => fit (b.drop (n * i) |>.take n) n

/-! ## AES-256 (FIPS 197) -/

/-- Multiplication by x modulo x^8 + x^4 + x^3 + x + 1. -/
def aesDouble (b : Byte) : Byte := (b <<< 1) ^^^ (if b.msb then 0x1B#8 else 0#8)

/-- Product in the field of AES. -/
def aesMul (a b : Byte) : Byte :=
  ((List.range 8).foldl (fun (x : Byte × Byte) i => ((if b.getLsbD i then x.1 ^^^ x.2 else x.1), aesDouble x.2)) (0#8, a)).1

/-- Multiplicative inverse, 0 for 0: the 254th power, as the product of the powers 2, 4, …, 128. -/
def aesInv (b : Byte) : Byte :=
  ((List.range 7).foldl (fun (x : Byte × Byte) _ => let q := aesMul x.2 x.2; (aesMul x.1 q, q)) (1#8, b)).1

def aesSbox (b : Byte) : Byte :=
  let x := aesInv b
  x ^^^ x.rotateLeft 1 ^^^ x.rotateLeft 2 ^^^ x.rotateLeft 3 ^^^ x.rotateLeft 4 ^^^ 0x63#8

def aesSboxInv (b : Byte) : Byte := aesInv (b.rotateLeft 1 ^^^ b.rotateLeft 3 ^^^ b.rotateLeft 6 ^^^ 0x05#8)

/-- Row r of the state moves r columns: to the left with `k` 1, to the right with `k` 3. -/
def aesShift (k : Nat) (s : Bytes) : Bytes := (List.range 16).map fun i => s.getD ((i + 4 * k * (i % 4)) % 16) 0#8

/-- Every column times the circulant matrix of a row of coefficients. -/
def aesMix (m : List Byte) (s : Bytes) : Bytes :=
  (List.range 16).map fun i => (List.range 4).foldl (fun a j => a ^^^ aesMul (m.getD j 0#8) (s.getD (i / 4 * 4 + (i + j) % 4) 0#8)) 0#8

/-- The next word of the key schedule from the words so far. -/
def aesKeyWord (ws : List Bytes) (i : Nat) : Bytes :=
  let t := ws.getD (i - 1) []
  let u :=
    if i % 8 = 0 then xorBytes ((t.drop 1 ++ t.take 1).map aesSbox) [BitVec.ofNat 8 (2 ^ (i / 8 - 1)), 0#8, 0#8, 0#8]
    else if i % 8 = 4 then t.map aesSbox
    else t
  xorBytes (ws.getD (i - 8) []) u

/-- The fifteen round keys of a 32-byte key. -/
def aesKeys (key : Bytes) : List Bytes :=
  let ws := ((List.range 52).map (· + 8)).foldl (fun ws i => ws ++ [aesKeyWord ws i]) (blocksOf 4 (fit key 32))
  (List.range 15).map fun r => (ws.drop (4 * r)).take 4 |>.flatten

/-- One block under the round keys. -/
def aesEncryptWith (ks : List Bytes) (b : Bytes) : Bytes :=
  let k := fun r => ks.getD r []
  let mid := (List.range 13).foldl (fun s r => xorBytes (aesMix [2#8, 3#8, 1#8, 1#8] (aesShift 1 (s.map aesSbox))) (k (r + 1))) (xorBytes b (k 0))
  xorBytes (aesShift 1 (mid.map aesSbox)) (k 14)

/-- The inverse cipher. -/
def aesDecryptWith (ks : List Bytes) (b : Bytes) : Bytes :=
  let k := fun r => ks.getD r []
  let mid := (List.range 13).foldl (fun s r =>
    aesMix [14#8, 11#8, 13#8, 9#8] (xorBytes ((aesShift 3 s).map aesSboxInv) (k (13 - r)))) (xorBytes b (k 14))
  xorBytes ((aesShift 3 mid).map aesSboxInv) (k 0)

def aesEncrypt (key b : Bytes) : Bytes := aesEncryptWith (aesKeys key) b

/-! ## GCM (SP 800-38D) -/

/-- A string as a number, the first byte the most significant. -/
def bytesNat (b : Bytes) : Nat := b.foldl (fun n x => n * 256 + x.toNat) 0

/-- Product of two blocks in GF(2^128), the first bit the coefficient of x^0. -/
def ghashMul (x y : BitVec 128) : BitVec 128 :=
  ((List.range 128).foldl (fun (s : BitVec 128 × BitVec 128) i =>
    ((if x.getMsbD i then s.1 ^^^ s.2 else s.1), (s.2 >>> 1) ^^^ (if s.2.getLsbD 0 then 0xE1#128 <<< 120 else 0#128))) (0#128, y)).1

/-- GHASH of a string of whole blocks. -/
def ghash (h : BitVec 128) (b : Bytes) : BitVec 128 :=
  (blocksOf 16 b).foldl (fun y x => ghashMul (y ^^^ BitVec.ofNat 128 (bytesNat x)) h) 0#128

/-- The key stream for n bytes: counters from 2 on behind the 96-bit IV. -/
def gcmStream (ks : List Bytes) (iv : Bytes) (n : Nat) : Bytes :=
  ((List.range (ceilDiv n 16)).flatMap fun i => aesEncryptWith ks (fit iv 12 ++ be 4 (i + 2))).take n

/-- The 16-byte tag of additional data and ciphertext. -/
def gcmTag (ks : List Bytes) (iv aad ct : Bytes) : Bytes :=
  let h := BitVec.ofNat 128 (bytesNat (aesEncryptWith ks (zeros 16)))
  let whole := fun (b : Bytes) => fit b (16 * ceilDiv b.length 16)
  let s := ghash h (whole aad ++ whole ct ++ be 8 (8 * aad.length) ++ be 8 (8 * ct.length))
  xorBytes (aesEncryptWith ks (fit iv 12 ++ be 4 1)) (be 16 s.toNat)

/-- AES-256-GCM encryption (R117): key, IV, additional authenticated data, plaintext; ciphertext and tag. -/
@[irreducible] def gcmEncrypt (key iv aad pt : Bytes) : Bytes × Bytes :=
  let ks := aesKeys key
  let ct := xorBytes pt (gcmStream ks iv pt.length)
  (ct, gcmTag ks iv aad ct)

/-- AES-256-GCM decryption (R117, R119): the plaintext when the tag matches. -/
@[irreducible] def gcmDecrypt (key iv aad ct tag : Bytes) : Option Bytes :=
  let ks := aesKeys key
  if gcmTag ks iv aad ct = tag then some (xorBytes ct (gcmStream ks iv ct.length)) else none

/-! ## CMAC (SP 800-38B) and key wrap (SP 800-38F) -/

/-- Multiplication by x in GF(2^128), the first bit the most significant. -/
def cmacDouble (x : BitVec 128) : BitVec 128 := (x <<< 1) ^^^ (if x.msb then 0x87#128 else 0#128)

/-- CMAC-AES-256 (R129): key, message; 16 bytes. -/
@[irreducible] def cmac (key m : Bytes) : Bytes :=
  let ks := aesKeys key
  let k1 := cmacDouble (BitVec.ofNat 128 (bytesNat (aesEncryptWith ks (zeros 16))))
  let n := max 1 (ceilDiv m.length 16)
  let last := m.drop (16 * (n - 1))
  let tail := if last.length = 16 then xorBytes last (be 16 k1.toNat)
    else xorBytes (fit (last ++ [0x80#8]) 16) (be 16 (cmacDouble k1).toNat)
  (blocksOf 16 (m.take (16 * (n - 1))) ++ [tail]).foldl (fun c b => aesEncryptWith ks (xorBytes c b)) (zeros 16)

/-- The integrity check value of KW. -/
def kwIv : Bytes := List.replicate 8 0xA6#8

/-- Step t of the wrapping function: the register and the semiblocks, of which the first is the next to be taken. -/
def kwStep (ks : List Bytes) (x : Bytes × List Bytes) (t : Nat) : Bytes × List Bytes :=
  let b := aesEncryptWith ks (x.1 ++ x.2.headD [])
  (xorBytes (b.take 8) (be 8 t), x.2.drop 1 ++ [b.drop 8])

/-- Its inverse. -/
def kwUnstep (ks : List Bytes) (x : Bytes × List Bytes) (t : Nat) : Bytes × List Bytes :=
  let b := aesDecryptWith ks (xorBytes x.1 (be 8 t) ++ x.2.getLastD [])
  (b.take 8, b.drop 8 :: x.2.dropLast)

/-- AES key wrap, SP 800-38F KW (R123, R125): key-encryption key, key. -/
@[irreducible] def keyWrap (kek key : Bytes) : Bytes :=
  let rs := blocksOf 8 key
  let r := ((List.range (6 * rs.length)).map (· + 1)).foldl (kwStep (aesKeys kek)) (kwIv, rs)
  r.1 ++ r.2.flatten

/-- AES key unwrap (R125, R126): the key when the integrity check holds. -/
@[irreducible] def keyUnwrap (kek wrapped : Bytes) : Option Bytes :=
  let rs := blocksOf 8 (wrapped.drop 8)
  let r := ((List.range (6 * rs.length)).map (· + 1)).reverse.foldl (kwUnstep (aesKeys kek)) (wrapped.take 8, rs)
  if r.1 = kwIv then some r.2.flatten else none

/-! ## SHA-384 (FIPS 180-4) -/

/-- The largest x below 2^(n + 1) whose k-th power is at most v. -/
def rootUpTo (k v n : Nat) : Nat := ((List.range (n + 1)).reverse).foldl (fun x i => if (x + 2 ^ i) ^ k ≤ v then x + 2 ^ i else x) 0

/-- The first eighty primes. -/
def shaPrimes : List Nat := (List.range 410).filter fun n => decide (2 ≤ n) && (List.range n).all fun d => decide (d < 2) || n % d != 0

/-- The 80 constants: 64 bits of the fractional parts of the cube roots of the first eighty primes. -/
def shaK : List (BitVec 64) := shaPrimes.map fun p => BitVec.ofNat 64 (rootUpTo 3 (p * 2 ^ 192) 68)

/-- The initial hash value: 64 bits of the fractional parts of the square roots of the ninth to sixteenth primes. -/
def shaInit : List (BitVec 64) := ((shaPrimes.drop 8).take 8).map fun p => BitVec.ofNat 64 (rootUpTo 2 (p * 2 ^ 128) 68)

/-- The next word of the message schedule. -/
def shaWord (ws : List (BitVec 64)) (i : Nat) : BitVec 64 :=
  let w := fun k => ws.getD (i - k) 0#64
  let s0 := (w 15).rotateRight 1 ^^^ (w 15).rotateRight 8 ^^^ (w 15 >>> 7)
  let s1 := (w 2).rotateRight 19 ^^^ (w 2).rotateRight 61 ^^^ (w 2 >>> 6)
  s1 + w 7 + s0 + w 16

/-- One round on the eight working variables. -/
def shaRound (v : List (BitVec 64)) (x : BitVec 64 × BitVec 64) : List (BitVec 64) :=
  match v with
  | [a, b, c, d, e, f, g, h] =>
    let t1 := h + (e.rotateRight 14 ^^^ e.rotateRight 18 ^^^ e.rotateRight 41) + ((e &&& f) ^^^ (~~~e &&& g)) + x.1 + x.2
    let t2 := (a.rotateRight 28 ^^^ a.rotateRight 34 ^^^ a.rotateRight 39) + ((a &&& b) ^^^ (a &&& c) ^^^ (b &&& c))
    [t1 + t2, a, b, c, d + t1, e, f, g]
  | _ => v

/-- The hash value after a block of 128 bytes. -/
def shaBlock (h : List (BitVec 64)) (b : Bytes) : List (BitVec 64) :=
  let m := (blocksOf 8 b).map fun x => BitVec.ofNat 64 (bytesNat x)
  let ws := ((List.range 64).map (· + 16)).foldl (fun ws i => ws ++ [shaWord ws i]) m
  (h.zip ((shaK.zip ws).foldl shaRound h)).map fun (x, y) => x + y

/-- SHA-384 (R125, R134, R343, R402, R437). -/
@[irreducible] def sha384 (m : Bytes) : Bytes :=
  let n := 128 * ceilDiv (m.length + 17) 128
  let padded := fit (m ++ [0x80#8]) (n - 16) ++ be 16 (8 * m.length)
  (((blocksOf 128 padded).foldl shaBlock shaInit).take 6).flatMap fun w => be 8 w.toNat

/-! ## brainpoolP384r1 (RFC 5639) -/

namespace Curve
def p : Nat := 0x8CB91E82A3386D280F5D6F7E50E641DF152F7109ED5456B412B1DA197FB71123ACD3A729901D1A71874700133107EC53
def a : Nat := 0x7BC382C63D8C150C3C72080ACE05AFA0C2BEA28E4FB22787139165EFBA91F90F8AA5814A503AD4EB04A8C7DD22CE2826
def b : Nat := 0x04A8C7DD22CE28268B39B55416F0447C2FB77DE107DCD2A62E880EA53EEB62D57CB4390295DBC9943AB78696FA504C11
/-- the base point and its order -/
def g : Nat × Nat :=
  (0x1D1C64F068CF45FFA2A63A81B7C13F6B8847A3E77EF14FE3DB7FCAFE0CBD10E8E826E03436D646AAEF87B2E247D4AF1E,
   0x8ABE1D7520F9C2A45CB1EB8E95CFD55262B70B29FEEC5864E19C054FF99129280E4646217791811142820341263C5315)
def q : Nat := 0x8CB91E82A3386D280F5D6F7E50E641DF152F7109ED5456B31F166E6CAC0425A7CF3AB6AF6B7FC3103B883202E9046565
end Curve

/-- b^e modulo m, over the low 384 bits of e. -/
def powMod (m b e : Nat) : Nat := ((List.range 384).reverse).foldl (fun x i => if e.testBit i then x * x % m * b % m else x * x % m) 1

/-- The inverse modulo a prime. -/
def invMod (m x : Nat) : Nat := powMod m (x % m) (m - 2)

/-- Difference modulo m of numbers below it. -/
def subMod (m x y : Nat) : Nat := (x + m - y) % m

/-- A point: coordinates, or the point at infinity. -/
abbrev Point := Option (Nat × Nat)

/-- The line of a slope through a point meets the curve again in the sum's reflection. -/
def chord (l : Nat) (u v : Nat × Nat) : Point :=
  let x := subMod Curve.p (l * l % Curve.p) ((u.1 + v.1) % Curve.p)
  some (x, subMod Curve.p (l * subMod Curve.p u.1 x % Curve.p) u.2)

def pointAdd : Point → Point → Point
  | none, v => v
  | u, none => u
  | some u, some v =>
    if u.1 = v.1 then
      if (u.2 + v.2) % Curve.p = 0 then none
      else chord ((3 * u.1 * u.1 + Curve.a) % Curve.p * invMod Curve.p (2 * u.2) % Curve.p) u v
    else chord (subMod Curve.p v.2 u.2 * invMod Curve.p (subMod Curve.p v.1 u.1) % Curve.p) u v

/-- A multiple of a point. -/
def pointMul (k : Nat) (u : Point) : Point :=
  ((List.range 384).reverse).foldl (fun w i => let d := pointAdd w w; if k.testBit i then pointAdd d u else d) none

/-- The uncompressed form, 97 bytes: 0x04, X, Y (R124). -/
def pointBytes : Point → Bytes
  | some u => be 1 4 ++ be 48 u.1 ++ be 48 u.2
  | none => zeros 97

/-- The coordinates of an uncompressed form. -/
def pointOf (b : Bytes) : Nat × Nat := (beAt b 1 48, beAt b 49 48)

/-- Whether a string is an uncompressed point on brainpoolP384r1 (R125, R126). -/
@[irreducible] def onCurve (b : Bytes) : Bool :=
  let u := pointOf b
  b.length == 97 && beAt b 0 1 == 4
    && decide (u.1 < Curve.p ∧ u.2 < Curve.p ∧ u.2 * u.2 % Curve.p = (u.1 * u.1 * u.1 + Curve.a * u.1 + Curve.b) % Curve.p)

/-- The private key that the SEC holds for a seed of its own, from 1 to the order less 1 (log entry 38). -/
def privateKey (seed : Bytes) : Nat := 1 + bytesNat seed % (Curve.q - 1)

/-- The public point of the private key of a seed (R124, R436). -/
@[irreducible] def publicPoint (seed : Bytes) : Bytes := pointBytes (pointMul (privateKey seed) (some Curve.g))

/-- ECDH with the private key of a seed: seed, peer point; the 48-byte shared secret (R125). -/
@[irreducible] def ecdh (seed peer : Bytes) : Bytes := be 48 (((pointMul (privateKey seed) (some (pointOf peer))).map Prod.fst).getD 0)

/-- The signature of a hash with a private key and a nonce; none where a part of it would be 0. -/
def ecdsaWith (d k : Nat) (hash : Bytes) : Option Bytes :=
  let r := ((pointMul k (some Curve.g)).map Prod.fst).getD 0 % Curve.q
  let s := invMod Curve.q k * (bytesNat hash + r * d) % Curve.q
  if r = 0 ∨ s = 0 then none else some (be 48 r ++ be 48 s)

/-- ECDSA (R124, R437): seed of the private key, 48-byte hash; r and s, 96 bytes. The nonce is one that the SEC draws. -/
@[irreducible] def ecdsaSign (seed hash : Bytes) : Bytes :=
  let nonce := fun i => 1 + Config.ecdsaNonce seed hash i % (Curve.q - 1)
  ((List.range 16).findSome? fun i => ecdsaWith (privateKey seed) (nonce i) hash).getD (zeros 96)

/-- ECDSA verification: public point, 48-byte hash, signature (R402, R403). -/
@[irreducible] def ecdsaVerify (point hash sig : Bytes) : Bool :=
  let r := beAt sig 0 48
  let s := beAt sig 48 48
  let w := invMod Curve.q s
  let u := pointAdd (pointMul (bytesNat hash * w % Curve.q) (some Curve.g)) (pointMul (r * w % Curve.q) (some (pointOf point)))
  onCurve point && decide (0 < r ∧ r < Curve.q ∧ 0 < s ∧ s < Curve.q) && (match u with | some v => v.1 % Curve.q == r | none => false)

end Sys2Proof.Machine
end

