-- ==== Sys2Proof/Machine/Codec.lean ====
section
/-!
DEFINITION. The byte layouts of packets, descriptors, landing headers and key labels, and the DLZ format (04, 05).
-/

namespace Sys2Proof.Machine

/-! ## CRC-32 (R98) -/

/-- CRC-32, polynomial 0x04C1_1DB7, reflected, initial value and final exclusive-or 0xFFFF_FFFF. -/
def crc32 (bs : Bytes) : Nat :=
  ((bitRev (crcBits (0x04C11DB7#32) 0xFFFFFFFF#32 (bs.flatMap lsbBits))) ^^^ 0xFFFFFFFF#32).toNat

/-! ## Cutting records into packets (R93) -/

/-- A cut in progress: closed packets (newest first), the open packet's host bytes, records begun and first record, and
where each record begins (newest first). -/
structure Cut where
  closed : List (Nat × Nat × Nat) := []
  isOpen : Option (Nat × Nat × Nat) := none
  places : List (Nat × Nat) := []
  deriving DecidableEq, Repr

/-- Close the open packet. -/
def Cut.close (c : Cut) : Cut :=
  match c.isOpen with
  | none => c
  | some p => { c with closed := p :: c.closed, isOpen := none }

/-- Packets of a large record after its first: n host bytes left, record r. -/
def largeRest : Nat → Nat → Nat → List (Nat × Nat × Nat)
  | 0, _, _ => []
  | f + 1, n, r => if n = 0 then [] else (min n 262144, 0, r) :: largeRest f (n - 262144) r

/-- Cut one record of `len` bytes, number r of its command. -/
def Cut.record (c : Cut) (r len : Nat) : Cut :=
  if 65536 ≤ len then
    let d := c.close
    { d with closed := (largeRest 64 (len - 262144) r).reverse ++ (min len 262144, 1, r) :: d.closed,
             places := (d.closed.length, 0) :: d.places }
  else
    match c.isOpen with
    | some (n, k, f) =>
      if n + len ≤ 262144 ∧ k < 64 then
        { c with isOpen := some (n + len, k + 1, f), places := (c.closed.length, n) :: c.places }
      else
        { c with closed := (n, k, f) :: c.closed, isOpen := some (len, 1, r), places := (c.closed.length + 1, 0) :: c.places }
    | none => { c with isOpen := some (len, 1, r), places := (c.closed.length, 0) :: c.places }

/-- The packets of a command (host bytes, records begun, first record) and, for each record, its packet and offset. -/
def cutRecords (lens : List Nat) : List (Nat × Nat × Nat) × List (Nat × Nat) :=
  let c := (lens.zipIdx.foldl (fun (c : Cut) (n, r) => c.record r n) {}).close
  (c.closed.reverse, c.places.reverse)

/-! ## Packet header and record descriptor (R97, R98, R99) -/

/-- The fields of a packet header. -/
structure PktHeader where
  dlz : Bool
  first : Bool
  last : Bool
  part : Nat
  landing : Bool
  recStarts : Nat
  payloadLen : Nat
  hostLen : Nat
  counter : Nat
  deriving DecidableEq, Repr

/-- The 16 bytes of a packet header (R97). -/
def PktHeader.bytes (h : PktHeader) : Bytes :=
  be 1 0x11 ++ be 7 (b2n h.dlz * 2 ^ 55 + b2n h.first * 2 ^ 54 + b2n h.last * 2 ^ 53 + h.part % 4 * 2 ^ 51
    + b2n h.landing * 2 ^ 50 + h.recStarts % 128 * 2 ^ 43 + h.payloadLen % 2 ^ 19 * 2 ^ 19 + h.hostLen % 2 ^ 19)
  ++ be 8 h.counter

/-- A packet header read back; none when kind, layout or the relation of R97 fails (R114). -/
def PktHeader.parse (b : Bytes) : Option PktHeader :=
  let v := beAt b 1 7
  let h : PktHeader :=
    { dlz := bit v 55, first := bit v 54, last := bit v 53, part := bits v 52 51, landing := bit v 50,
      recStarts := bits v 49 43, payloadLen := bits v 37 19, hostLen := bits v 18 0, counter := beAt b 8 8 }
  if b.length < 16 ∨ beAt b 0 1 ≠ 0x11 ∨ h.payloadLen = 0 ∨ h.hostLen = 0 ∨ 262144 < h.hostLen ∨ 64 < h.recStarts then none
  else if h.dlz then (if h.payloadLen < h.hostLen then some h else none)
  else if h.payloadLen = h.hostLen then some h else none

/-- The fields of a record descriptor. -/
structure Desc48 where
  mark : Bool := false
  part : Nat := 0
  truncating : Bool := false
  number : Nat := 0
  length : Nat := 0
  headerLen : Nat := 0
  keySlot : Nat := 0
  keyGen : Nat := 0
  prefix_ : Nat := 0
  hostLabel : Nat := 0
  start : Nat := 0
  firstCounter : Nat := 0
  deriving DecidableEq, Repr

/-- Bytes 0 to 43 of a record descriptor (R98). -/
def Desc48.body (d : Desc48) : Bytes :=
  be 1 0x21 ++ be 1 (b2n d.mark * 128 + d.part % 4 * 32 + b2n d.truncating * 16) ++ be 6 d.number ++ be 4 d.length
  ++ be 2 d.headerLen ++ be 1 d.keySlot ++ be 1 0 ++ be 4 d.keyGen ++ be 4 d.prefix_ ++ be 8 d.hostLabel ++ be 4 d.start
  ++ be 8 d.firstCounter

/-- The 48 bytes of a record descriptor, desc_crc last (R98). -/
def Desc48.bytes (d : Desc48) : Bytes := d.body ++ be 4 (crc32 d.body)

/-- A record descriptor read back; none when kind, layout or desc_crc fails (R114). -/
def Desc48.parse (b : Bytes) : Option Desc48 :=
  if b.length < 48 ∨ beAt b 0 1 ≠ 0x21 ∨ beAt b 44 4 ≠ crc32 (b.take 44) then none
  else
    let f := beAt b 1 1
    some { mark := bit f 7, part := bits f 6 5, truncating := bit f 4, number := beAt b 2 6, length := bits (beAt b 8 4) 24 0,
           headerLen := bits (beAt b 12 2) 8 0, keySlot := bits (beAt b 14 1) 6 0, keyGen := beAt b 16 4, prefix_ := beAt b 20 4,
           hostLabel := beAt b 24 8, start := bits (beAt b 32 4) 17 0, firstCounter := beAt b 36 8 }

/-- The descriptor of a mark (R99). -/
def markDesc (part number : Nat) (truncating : Bool) : Desc48 :=
  { mark := true, part := part, truncating := truncating, number := number }

/-! ## Landing header (R138) -/

/-- The 32 bytes of a landing header. -/
def landingHeader (slot gen label counter prefix_ block : Nat) : Bytes :=
  be 1 0x31 ++ be 1 (slot % 128) ++ be 2 0 ++ be 4 gen ++ be 8 label ++ be 8 counter ++ be 4 prefix_ ++ be 4 block

/-! ## Labels and derivation (R128, R129) -/

/-- The 64-byte context label of a packet key. -/
def packetLabel (yard : Nat) (serial : Bytes) (part gen label : Nat) : Bytes :=
  be 1 1 ++ be 1 1 ++ be 2 0 ++ be 8 yard ++ fit serial 20 ++ be 1 part ++ zeros 3 ++ be 4 gen ++ be 8 label ++ zeros 16

/-- The 64-byte context label of a landing key. -/
def landingLabel (gen label : Nat) : Bytes :=
  be 1 1 ++ be 1 2 ++ be 2 0 ++ be 8 0 ++ zeros 20 ++ be 1 0xFF ++ zeros 3 ++ be 4 gen ++ be 8 label ++ zeros 16

/-- ASCII text as bytes. -/
def ascii (s : String) : Bytes := s.toList.map fun c => BitVec.ofNat 8 c.toNat

/-- One CMAC input of the key derivation (R129). -/
def kdfInput (i : Nat) (label : Bytes) : Bytes := be 4 i ++ ascii "DLSNPKEY" ++ [0] ++ label ++ be 4 0x100

/-- The derived key of a root key and a label (R129). -/
def deriveKey (root label : Bytes) : Bytes := cmac root (kdfInput 1 label) ++ cmac root (kdfInput 2 label)

/-- FixedInfo of a KEY_INJECT (R125). -/
def fixedInfo (slot gen : Nat) (point : Bytes) : Bytes := ascii "DLSNWRAP" ++ be 1 slot ++ be 4 gen ++ point

/-- The key-encryption key of a KEY_INJECT (R125). -/
def injectKek (z : Bytes) (slot gen : Nat) (point : Bytes) : Bytes :=
  (sha384 (be 4 1 ++ z ++ fixedInfo slot gen point)).take 32

/-- A derived key's fingerprint: the first 16 bytes of SHA-384 over slot, generation and label (R134). The widths of slot
and generation there are one and four bytes, big-endian (log entry 30). -/
def fingerprint (slot gen : Nat) (label : Bytes) : Bytes := (sha384 (be 1 slot ++ be 4 gen ++ label)).take 16

/-- The IV of a packet (R117). -/
def ivOf (prefix_ counter : Nat) : Bytes := be 4 prefix_ ++ be 8 counter

/-! ## DLZ: decoding (R111, R112) -/

/-- A failed condition of R112: its kind of `CMP_MALFORMED_LAST` and the stream offset (R116). -/
structure DlzBad where
  kind : Nat
  offset : Nat
  deriving DecidableEq, Repr

/-- A token's parts after its tag: bytes used by tag, extension, length and offset, length, and for a match its offset. -/
structure DlzTok where
  used : Nat
  len : Nat
  dist : Option Nat
  reservedBits : Bool := false
  deriving DecidableEq, Repr

/-- The token that begins a stream; none for the reserved literal code. Bytes past the end read as zero: the caller checks
`used` first (R110). -/
def dlzToken (s : Bytes) : Option DlzTok :=
  let t := beAt s 0 1
  let v := fun i => beAt s i 1
  if t < 128 then
    if t ≤ 124 then some ⟨1, t + 1, none, false⟩
    else if t = 125 then some ⟨2, 126 + v 1, none, false⟩
    else if t = 126 then some ⟨3, 382 + v 1 * 256 + v 2, none, false⟩
    else none
  else if t < 192 then some ⟨2, bits t 5 2 + 4, some (bits t 1 0 * 256 + v 1 + 1), false⟩
  else if t < 224 then some ⟨3, bits t 4 0 + 4, some (v 1 * 256 + v 2 + 1), false⟩
  else
    let o := v 2 * 65536 + v 3 * 256 + v 4
    some ⟨5, bits t 4 0 * 256 + v 1 + 4, some (o % 262144 + 1), decide (262144 ≤ o)⟩

/-- Copy n bytes from d back, one at a time; the output stands newest first. -/
def dlzCopy (d : Nat) : Nat → Bytes → Bytes
  | 0, out => out
  | n + 1, out => dlzCopy d n (out.getD (d - 1) 0#8 :: out)

/-- Token by token from stream position i, the output newest first and o bytes long (R112). -/
def dlzRun (hostLen : Nat) : Nat → Bytes → Nat → Nat → Bytes → Except DlzBad Bytes
  | 0, _, i, _, _ => .error ⟨3, i⟩
  | f + 1, s, i, o, out =>
    if o = hostLen then (if s = [] then .ok out.reverse else .error ⟨4, i⟩)
    else if s = [] then .error ⟨3, i⟩
    else
      match dlzToken s with
      | none => .error ⟨8, i⟩
      | some t =>
        if s.length < t.used then .error ⟨3, i⟩
        else if t.reservedBits then .error ⟨5, i⟩
        else
          match t.dist with
          | some d =>
            if o < d then .error ⟨1, i⟩
            else if hostLen < o + t.len then .error ⟨2, i⟩
            else dlzRun hostLen f (s.drop t.used) (i + t.used) (o + t.len) (dlzCopy d t.len out)
          | none =>
            if hostLen < o + t.len then .error ⟨2, i⟩
            else if s.length < t.used + t.len then .error ⟨6, i⟩
            else dlzRun hostLen f (s.drop (t.used + t.len)) (i + t.used + t.len) (o + t.len)
                   ((slice s t.used t.len).reverse ++ out)

/-- Expand a DLZ stream to hostLen bytes, or the first condition of R112 that fails. -/
def dlzDecode (hostLen : Nat) (s : Bytes) : Except DlzBad Bytes :=
  if hostLen ≤ s.length then .error ⟨7, 0⟩ else dlzRun hostLen (s.length + 1) s 0 0 []

/-! ## DLZ: encoding (R113) -/

/-- Literal runs of at most 65,917 bytes, each in its shortest form (R110, R113). -/
def dlzLiterals : Nat → Bytes → Bytes
  | 0, _ => []
  | f + 1, l =>
    if l = [] then []
    else
      let n := min l.length 65917
      let tag := if n ≤ 125 then be 1 (n - 1) else if n ≤ 381 then be 1 125 ++ be 1 (n - 126) else be 1 126 ++ be 2 (n - 382)
      tag ++ l.take n ++ dlzLiterals f (l.drop n)

/-- A match token in its shortest form (R113). -/
def dlzMatch (len dist : Nat) : Bytes :=
  if len ≤ 19 ∧ dist ≤ 1024 then be 1 (0x80 + (len - 4) * 4 + (dist - 1) / 256) ++ be 1 (dist - 1)
  else if len ≤ 35 ∧ dist ≤ 65536 then be 1 (0xC0 + (len - 4)) ++ be 2 (dist - 1)
  else be 1 (0xE0 + (len - 4) / 256) ++ be 1 (len - 4) ++ be 3 (dist - 1)

/-- Equal bytes of two strings from their starts, up to a limit. -/
def commonPrefix : Nat → Bytes → Bytes → Nat
  | 0, _, _ => 0
  | n + 1, a :: as, b :: bs => if a = b then commonPrefix n as bs + 1 else 0
  | _, _, _ => 0

/-- The hash row of the four bytes at the start of a string (R113). -/
def dlzHash (l : Bytes) : Nat := bits (beAt l 0 4 * 0x9E3779B1 % 2 ^ 32) 31 18

/-- The longest match of at least 4 bytes among the candidates, most recent first, the smaller offset between equals. -/
def dlzBest (all rest : Bytes) (p : Nat) : List Nat → Nat × Nat → Nat × Nat
  | [], best => best
  | c :: cs, best =>
    let n := commonPrefix 8195 (all.drop c) rest
    dlzBest all rest p cs (if best.1 < n then (n, p - c) else best)

/-- Position by position: `rows` holds the four most recent positions by hash; `skip` positions still lie inside a match;
`lits` are the literals not yet written, newest first; `out` the stream so far, newest first. -/
def dlzLoop (all : Bytes) : Bytes → Nat → AMap (List Nat) → Nat → Bytes → Bytes → Bytes
  | [], _, _, _, lits, out => out.reverse ++ dlzLiterals (lits.length + 1) lits.reverse
  | b :: rest, p, rows, skip, lits, out =>
    let here := b :: rest
    let searched := decide (p + 4 ≤ all.length)
    let row := if searched then AMap.getD rows (dlzHash here) [] else []
    let rows' := if searched then AMap.set rows (dlzHash here) ((p :: row).take 4) else rows
    match skip with
    | k + 1 => dlzLoop all rest (p + 1) rows' k lits out
    | 0 =>
      let best := dlzBest all here p row (0, 0)
      if 4 ≤ best.1 then
        dlzLoop all rest (p + 1) rows' (best.1 - 1) []
          ((dlzMatch best.1 best.2).reverse ++ (dlzLiterals (lits.length + 1) lits.reverse).reverse ++ out)
      else dlzLoop all rest (p + 1) rows' 0 (b :: lits) out

/-- The encoder's stream for a packet (R113). -/
def dlzEncode (l : Bytes) : Bytes := dlzLoop l l 0 [] 0 [] []

end Sys2Proof.Machine
end

