-- ==== Sys2Proof/Machine/Ecc.lean ====
section
/-!
DEFINITION. Data sets, bit by bit (07): the Reed-Solomon codes, the DSIT, the Codeword Row header, rows on channels,
scrambling, MC33 and the framing of a row.
-/

namespace Sys2Proof.Machine

/-! ## Sizes (R169) -/

def userArea : Nat := 19608576
def dsitSize : Nat := 3072
def streamSize : Nat := 19611648

/-! ## GF(2^8) and the codes (R171, R172, R173) -/

/-- Multiplication by α in GF(2^8) of 0x11D. -/
def gfDouble (a : Byte) : Byte := if a.getLsbD 7 then (a <<< 1) ^^^ 0x1D#8 else a <<< 1

/-- Product in GF(2^8), bit by bit from the top of the second factor. -/
def gfMul (a b : Byte) : Byte :=
  (msbBits b).foldl (fun acc t => if t then gfDouble acc ^^^ a else gfDouble acc) 0#8

/-- α^i. -/
def gfPow : Nat → Byte
  | 0 => 1#8
  | n + 1 => gfDouble (gfPow n)

/-- A polynomial, highest power first, times (x + a). -/
def polyTimes (p : List Byte) (a : Byte) : List Byte :=
  (p ++ [0#8]).zipWith (· ^^^ ·) (0#8 :: p.map (gfMul a))

/-- ∏ (x + α^i) for i below n, highest power first. -/
def generator (n : Nat) : List Byte := (List.range n).foldl (fun p i => polyTimes p (gfPow i)) [1#8]

/-- One data symbol into the remainder register of a generator without its leading coefficient. -/
def rsShift (g : List Byte) (reg : List Byte) (u : Byte) : List Byte :=
  let fb := u ^^^ reg.headD 0#8
  (reg.drop 1 ++ [0#8]).zipWith (fun r c => r ^^^ gfMul fb c) g

/-- Parity symbols of a systematic code with n parity symbols, highest power first (R173). -/
def rsParity (n : Nat) (data : List Byte) : List Byte :=
  data.foldl (rsShift (generator n).tail) (List.replicate n 0#8)

/-! ## The data stream and its rows (R170, R174, R180) -/

/-- The data stream index of byte j of data row r of SDS s. -/
def streamIndex (s r j : Nat) : Nat := (r * 456 + j) * 256 + s

/-- Data bytes of data row r of SDS s. -/
def dataRow (stream : Nat → Byte) (s r : Nat) : Bytes := (List.range 456).map fun j => stream (streamIndex s r j)

/-- C2 parity of a byte column of an SDS: rows 168 to 191. -/
def c2Column (stream : Nat → Byte) (s j : Nat) : Bytes :=
  rsParity 24 ((List.range 168).map fun r => stream (streamIndex s r j))

/-- The first 456 bytes of any row: a data row, or a C2 parity row. -/
def rowData (stream : Nat → Byte) (s r : Nat) : Bytes :=
  if r < 168 then dataRow stream s r else (List.range 456).map fun j => (c2Column stream s j).getD (r - 168) 0#8

/-- Every other byte from the first on. -/
def everyOther : Bytes → Bytes
  | [] => []
  | [a] => [a]
  | a :: _ :: t => a :: everyOther t

/-- Two strings byte by byte in turn. -/
def interleave : Bytes → Bytes → Bytes
  | a :: as, b :: bs => a :: b :: interleave as bs
  | _, _ => []

/-- A Codeword Row: its data bytes and the parity of its two C1 codewords (R170). -/
def codewordRow (d : Bytes) : Bytes := d ++ interleave (rsParity 12 (everyOther d)) (rsParity 12 (everyOther (d.drop 1)))

/-! ## C3 (R175) -/

/-- x^n mod g3, as the coefficients of x and 1. -/
def c3Power : Nat → Byte × Byte
  | 0 => (0#8, 1#8)
  | n + 1 =>
    let p := c3Power n
    (p.2 ^^^ gfMul 3#8 p.1, gfMul 2#8 p.1)

/-- What a symbol at Loft index t adds to the parity symbols at indexes 30 and 31. -/
def c3Coef (t : Nat) : Byte × Byte := c3Power (31 - t)

/-- Byte-wise sum of two areas, the shorter one padded with zeros. -/
def areaAdd : Bytes → Bytes → Bytes
  | [], b => b
  | a, [] => a
  | x :: a, y :: b => (x ^^^ y) :: areaAdd a b

/-- Add a user area at Loft index t to the two C3 accumulators. -/
def c3Add (t : Nat) (user : Bytes) (p q : Bytes) : Bytes × Bytes :=
  (areaAdd p (user.map (gfMul (c3Coef t).1)), areaAdd q (user.map (gfMul (c3Coef t).2)))

/-! ## The DSIT (R181, R182, R183) -/

/-- The fields of a DSIT. -/
structure Dsit where
  kind : Nat := 1
  writePass : Nat := 0
  number : Nat := 0
  loftIdx : Nat := 0
  part : Nat := 0
  wrap : Nat := 0
  cls : Nat := 1
  copy : Nat := 0
  padded : Bool := false
  shortLoft : Bool := false
  startFrame : Nat := 0
  loftData : Nat := 0
  used : Nat := 0
  firstUnit : Nat := 0xFFFFFFFF
  firstRec : Nat := 0
  descCount : Nat := 0
  descIdx : List Nat := []
  truncOffs : List Nat := []
  chanMap : List Nat := []
  yard : Nat := 0
  stripe : Nat := 0
  member : Nat := 0
  role : Nat := 0
  epoch : Nat := 0
  deriving DecidableEq, Repr

/-- index_stride (R182). -/
def indexStride (count : Nat) : Nat := max 1 (ceilDiv count 632)

/-- The entries of the descriptor index: every index_stride-th offset of the descriptors that begin in a data set (R182). -/
def descIndex (offs : List Nat) : List Nat :=
  let n := indexStride offs.length
  (List.range (ceilDiv offs.length n)).map fun i => offs.getD (i * n) 0xFFFFFFFF

/-- Bytes 0 to 3,067 of a DSIT; in a kind other than user data the fields from first_unit to truncation_offset are zero
but for first_unit, which is 0xFFFF_FFFF (R183). -/
def Dsit.body (d : Dsit) : Bytes :=
  let user := d.kind == 1
  be 1 0x41 ++ be 1 d.kind ++ be 2 d.writePass ++ be 4 d.number ++ be 1 d.loftIdx ++ be 1 d.part ++ be 1 d.wrap
  ++ be 1 (d.cls % 4 * 64 + d.copy % 4 * 16 + b2n d.padded * 8 + b2n d.shortLoft * 4) ++ be 3 d.startFrame ++ be 1 d.loftData
  ++ be 4 d.used ++ be 4 (if user then d.firstUnit else 0xFFFFFFFF) ++ be 6 (if user then d.firstRec else 0) ++ be 2 0
  ++ be 4 (if user then d.descCount else 0) ++ be 2 (if user then d.truncOffs.length else 0)
  ++ be 2 (if user then indexStride d.descCount else 0)
  ++ (List.range 8).flatMap (fun i => be 4 (if user then d.truncOffs.getD i 0xFFFFFFFF else 0)) ++ zeros 56
  ++ fit (d.chanMap.map (BitVec.ofNat 8)) 128 ++ be 8 d.yard ++ be 4 d.stripe ++ be 1 d.member ++ be 1 d.role ++ be 4 d.epoch
  ++ zeros 238 ++ (List.range 632).flatMap (fun i => be 4 (if user then d.descIdx.getD i 0xFFFFFFFF else 0xFFFFFFFF)) ++ zeros 28

/-- The 3,072 bytes of a DSIT. -/
def Dsit.bytes (d : Dsit) : Bytes := d.body ++ be 4 (crc32 d.body)

/-- Whether a DSIT holds: dsit_crc, byte 0 and ds_kind (R181, R472). -/
def dsitHolds (b : Bytes) : Bool :=
  b.length == 3072 && beAt b 3068 4 == crc32 (b.take 3068) && beAt b 0 1 == 0x41 && decide (1 ≤ beAt b 1 1 ∧ beAt b 1 1 ≤ 5)

/-- The fields of a DSIT that holds. -/
def Dsit.parse (b : Bytes) : Option Dsit :=
  if dsitHolds b then
    let f := beAt b 11 1
    some { kind := beAt b 1 1, writePass := beAt b 2 2, number := beAt b 4 4, loftIdx := beAt b 8 1, part := beAt b 9 1,
           wrap := beAt b 10 1, cls := bits f 7 6, copy := bits f 5 4, padded := bit f 3, shortLoft := bit f 2,
           startFrame := beAt b 12 3, loftData := beAt b 15 1, used := bits (beAt b 16 4) 24 0, firstUnit := beAt b 20 4,
           firstRec := beAt b 24 6,
           descCount := beAt b 32 4,
           descIdx := (List.range (min 632 (ceilDiv (beAt b 32 4) (max 1 (beAt b 38 2))))).map fun i => beAt b (512 + 4 * i) 4,
           truncOffs := (List.range (min 8 (beAt b 36 2))).map fun i => beAt b (40 + 4 * i) 4,
           chanMap := (slice b 128 128).map BitVec.toNat, yard := beAt b 256 8, stripe := beAt b 264 4, member := beAt b 268 1,
           role := beAt b 269 1, epoch := beAt b 270 4 }
  else none

/-! ## The Codeword Row header (R184) -/

/-- CRC-16, polynomial 0x1021, initial value 0xFFFF, not reflected, no final exclusive-or. -/
def crc16 (bs : Bytes) : Nat := (crcBits (0x1021#16) 0xFFFF#16 (bs.flatMap msbBits)).toNat

/-- The 12 bytes of a Codeword Row header. -/
def cwrHeader (sds row number writePass loftIdx copy : Nat) (isSplit : Bool) (cls : Nat) : Bytes :=
  let b := be 1 sds ++ be 1 row ++ be 4 number ++ be 2 writePass ++ be 1 loftIdx
    ++ be 1 (copy % 4 * 64 + b2n isSplit * 32 + cls % 4 * 8)
  b ++ be 2 (crc16 b)

/-! ## Rows on channels (R185, R187) -/

/-- The logical channel of a row. -/
def logicalOf (s r : Nat) : Nat := (r + 37 * s) % 128

/-- Its position on that channel. -/
def positionOf (s r : Nat) : Nat := 2 * r + s / 128

/-- The row at position n of logical channel l: SDS and row. -/
def rowAt (l n : Nat) : Nat × Nat :=
  let r := n / 2
  ((45 * ((l + 128 * 2 - r % 128) % 128)) % 128 + 128 * (n % 2), r)

/-- The channel that a failed row copy on physical channel p is rewritten on: the first one in service from p + 64 on. -/
def rewriteChannel (retired : Nat → Bool) (p : Nat) : Nat :=
  let start := (p + 64) % 132
  (((List.range 132).map fun i => (start + i) % 132).find? fun c => !retired c).getD start

/-! ## Scrambling (R188) -/

/-- One bit through the row scrambler. -/
def scrambleBit (x : BitVec 16) (d : Bool) : Bool × BitVec 16 :=
  let f := (x.getLsbD 15) ^^ (x.getLsbD 13) ^^ (x.getLsbD 12) ^^ (x.getLsbD 10)
  (d ^^ x.getLsbD 15, (x <<< 1) ||| BitVec.ofNat 16 (b2n f))

/-- Bits through the row scrambler from a state. -/
def scramble : BitVec 16 → List Bool → List Bool
  | _, [] => []
  | x, d :: ds =>
    let r := scrambleBit x d
    r.1 :: scramble r.2 ds

/-- The seed of a physical channel. -/
def scrambleSeed (p : Nat) : BitVec 16 := 0xACE1#16 ^^^ BitVec.ofNat 16 (p * 0x0101)

/-! ## MC33 (R189) -/

/-- The bits of v, n of them, most significant first. -/
def bitsOf (n v : Nat) : List Bool := (List.range n).map fun i => bit v (n - 1 - i)

/-- The least index from which 14 bits are all zero. -/
def zeroRun (d : List Bool) : Option Nat :=
  (List.range (d.length + 1 - 14)).find? fun i => ((d.drop i).take 14).all (! ·) && decide (i + 14 ≤ d.length)

/-- Remove runs of 14 zeros: their indexes in order, and the bits left. -/
def removeRuns : Nat → List Bool → List Nat × List Bool
  | 0, d => ([], d)
  | f + 1, d =>
    match zeroRun d with
    | none => ([], d)
    | some i =>
      let r := removeRuns f (d.take i ++ d.drop (i + 14))
      (i :: r.1, r.2)

/-- A pointer to a removed run. -/
def mcPointer (i : Nat) (more : Bool) : List Bool :=
  [true, bit i 4, true, bit i 3, true, bit i 2, true, bit i 1, true, bit i 0, true, more, true, true]

/-- The pointers, `more` clear in the last. -/
def mcPointers : List Nat → List Bool
  | [] => []
  | [i] => mcPointer i false
  | i :: is => mcPointer i true ++ mcPointers is

/-- m bits to m + 1 channel bits. -/
def mcEncode (d : List Bool) : List Bool :=
  match removeRuns 3 d with
  | ([], _) => true :: d
  | (ps, rest) => false :: mcPointers ps ++ rest

/-- Read pointers until `more` is clear: their indexes and the bits that follow. -/
def mcReadPointers : Nat → List Bool → List Nat × List Bool
  | 0, c => ([], c)
  | f + 1, c =>
    let g := fun k => c.getD k false
    let i := b2n (g 1) * 16 + b2n (g 3) * 8 + b2n (g 5) * 4 + b2n (g 7) * 2 + b2n (g 9)
    if g 11 then
      let r := mcReadPointers f (c.drop 14)
      (i :: r.1, r.2)
    else ([i], c.drop 14)

/-- m + 1 channel bits to m bits. -/
def mcDecode (c : List Bool) : List Bool :=
  match c with
  | [] => []
  | true :: d => d
  | false :: t =>
    let r := mcReadPointers 3 t
    r.1.reverse.foldl (fun d i => d.take i ++ List.replicate 14 false ++ d.drop i) r.2

/-- A codeword is valid when encoding its decoded word gives it back (R189). -/
def mcValid (c : List Bool) : Bool := mcEncode (mcDecode c) == c

/-! ## Framing (R191, R192) -/

def forwardSync : List Bool := bitsOf 40 0xA80004B35B
def midResync : List Bool := bitsOf 24 0x8000B5
def splitResync : List Bool := bitsOf 64 0x80002D36A5CB69B7

/-- A half of the scrambled row block: 61 words and a tail. -/
def mcHalf : Nat → List Bool → List Bool
  | 0, d => mcEncode d
  | n + 1, d => mcEncode (d.take 32) ++ mcHalf n (d.drop 32)

/-- The 4,128 channel bits of a row on physical channel p: header, then row bytes. -/
def channelRow (p : Nat) (header row : Bytes) : List Bool :=
  let s := scramble (scrambleSeed p) ((header ++ row).flatMap msbBits)
  forwardSync ++ mcHalf 61 (s.take 1968) ++ midResync ++ mcHalf 61 (s.drop 1968) ++ [true, false, false, true]

end Sys2Proof.Machine
end

