-- ==== Sys2Proof/Machine/Rs.lean ====
section
/-!
DEFINITION. Reed-Solomon decoding with errors and erasures (07, R173), and the solution of a C3 codeword (R249). A decoder
answers only codewords: what it computes on the way need not be trusted.
-/

namespace Sys2Proof.Machine

/-! ## Field and polynomials; a polynomial stands lowest power first unless it is a codeword -/

/-- a^n in GF(2^8). -/
def gfPowOf (a : Byte) : Nat → Byte
  | 0 => 1#8
  | n + 1 => gfMul (gfPowOf a n) a

/-- The inverse of a field element; of 0, 0. -/
def gfInv (a : Byte) : Byte := gfPowOf a 254

/-- The value at x of a codeword, its first symbol the coefficient of the highest power (R173). -/
def wordEval (w : Bytes) (x : Byte) : Byte := w.foldl (fun acc c => gfMul acc x ^^^ c) 0#8

/-- The d syndromes of a received word: its values at 1, α, …, α^(d−1) (R172). -/
def syndromes (d : Nat) (w : Bytes) : Bytes := (List.range d).map fun i => wordEval w (gfPow i)

/-- Whether a word is a codeword of the code with d parity symbols. -/
def isCodeword (d : Nat) (w : Bytes) : Bool := (syndromes d w).all (· == 0#8)

/-- Sum of two polynomials. -/
def polyAdd : Bytes → Bytes → Bytes
  | [], q => q
  | p, [] => p
  | a :: p, b :: q => (a ^^^ b) :: polyAdd p q

/-- Product of two polynomials. -/
def polyMul : Bytes → Bytes → Bytes
  | [], _ => []
  | a :: p, q => polyAdd (q.map (gfMul a)) (0#8 :: polyMul p q)

/-- The value of a polynomial at x. -/
def polyEval (p : Bytes) (x : Byte) : Byte := wordEval p.reverse x

/-- The formal derivative: in characteristic 2 the odd powers, each one lower. -/
def polyDeriv (p : Bytes) : Bytes := p.tail.zipIdx.map fun (a, i) => if i % 2 = 0 then a else 0#8

/-- The field element that locates symbol t of a word of n symbols: α^(n−1−t). -/
def locatorOf (n t : Nat) : Byte := gfPow (n - 1 - t)

/-- The locator polynomial of given symbols: ∏ (1 + X·x). -/
def locator (n : Nat) (ts : List Nat) : Bytes := ts.foldl (fun p t => polyMul p [1#8, locatorOf n t]) [1#8]

/-- What the search for a shortest register holds: register, the one before its last change, its length, the shift and the
discrepancy since then. -/
structure Lfsr where
  c : Bytes := [1#8]
  b : Bytes := [1#8]
  len : Nat := 0
  shift : Nat := 1
  disc : Byte := 1#8

/-- One symbol of the sequence: the register is corrected when it does not foretell it. -/
def Lfsr.next (t : Bytes) (r : Lfsr) (n : Nat) : Lfsr :=
  let δ := (List.range (r.len + 1)).foldl (fun a i => a ^^^ gfMul (r.c.getD i 0#8) (t.getD (n - i) 0#8)) 0#8
  let better := polyAdd r.c (List.replicate r.shift 0#8 ++ r.b.map (gfMul (gfMul δ (gfInv r.disc))))
  if δ = 0#8 then { r with shift := r.shift + 1 }
  else if 2 * r.len ≤ n then { c := better, b := r.c, len := n + 1 - r.len, shift := 1, disc := δ }
  else { r with c := better, shift := r.shift + 1 }

/-- The error locator of a sequence of modified syndromes. -/
def errorLocator (t : Bytes) : Bytes := ((List.range t.length).foldl (Lfsr.next t) {}).c

/-- A word with its presumed errors and erasures put right: the errata locator and evaluator give each place its value. -/
def putRight (d : Nat) (erased : List Nat) (w : Bytes) : Bytes :=
  let n := w.length
  let s := syndromes d w
  let Γ := locator n erased
  let Ψ := polyMul (errorLocator (((polyMul s Γ).take d).drop erased.length)) Γ
  let Ω := (polyMul s Ψ).take d
  let Ψ' := polyDeriv Ψ
  w.zipIdx.map fun (v, t) =>
    let x := gfInv (locatorOf n t)
    if polyEval Ψ x = 0#8 then v ^^^ gfMul (locatorOf n t) (gfMul (polyEval Ω x) (gfInv (polyEval Ψ' x))) else v

/-- Symbols that differ between two words of the same code. -/
def changed (v w : Bytes) : List Nat := ((v.zip w).zipIdx.filter fun x => x.1.1 != x.1.2).map Prod.snd

/-- Errors of a correction: the symbols it changes that are no erasures. -/
def errorsIn (erased : List Nat) (v w : Bytes) : Nat := ((changed v w).filter fun t => !erased.contains t).length

/-- The decoder of a code with d parity symbols (R173): the codeword with 2e + f ≤ d, and e. -/
def rsDecode (d : Nat) (erased : List Nat) (w : Bytes) : Option (Bytes × Nat) :=
  if d < erased.length then none
  else
    let v := putRight d erased w
    let e := errorsIn erased w v
    if isCodeword d v = true ∧ 2 * e + erased.length ≤ d then some (v, e) else none

/-! ## C3 (R175, R249) -/

/-- What becomes of a C3 codeword: corrected, a failed check, or more erasures than it corrects. -/
inductive C3Res where
  | ok (w : Bytes)
  | checkFail
  | tooMany
  deriving DecidableEq, Repr

/-- The C3 codeword with these symbols, Loft index 0 first; none is an erasure (R249). One erasure is corrected from the
first check and verified with the second; none at all is verified with both. -/
def c3Solve (w : List (Option Byte)) : C3Res :=
  let v := w.map fun x => x.getD 0#8
  let s0 := wordEval v 1#8
  let s1 := wordEval v (gfPow 1)
  let at_ := fun t => locatorOf w.length t
  match (w.zipIdx.filter fun x => x.1.isNone).map Prod.snd with
  | [] => if s0 = 0#8 ∧ s1 = 0#8 then .ok v else .checkFail
  | [t] => if gfMul s0 (at_ t) = s1 then .ok (v.set t s0) else .checkFail
  | [t, u] =>
    let y := gfMul (s1 ^^^ gfMul s0 (at_ u)) (gfInv (at_ t ^^^ at_ u))
    .ok ((v.set t y).set u (s0 ^^^ y))
  | _ => .tooMany

end Sys2Proof.Machine
end

