-- ==== Sys2Proof/Machine/Detect.lean ====
section
/-!
DEFINITION. From equaliser outputs to row blocks (07, 09): the sequence detector and its reliabilities, NRZI, the framing
of a row, MC33 decoding and descrambling.
-/

namespace Sys2Proof.Machine

/-! ## The receive links (R225) -/

/-- Octet of a frame, lane 0 first, that holds sample t of converter m: three one-octet samples for each converter. -/
def sampleOctet (m t : Nat) : Nat := 3 * m + t

/-- Lane of a link and octet of its 34 that hold a sample. -/
def samplePlace (m t : Nat) : Nat × Nat := (sampleOctet m t / 34, sampleOctet m t % 34)

/-- The physical channel whose samples converter m of link k carries: EVA9034 channel m, channel 32 being the spare (R200);
converter 33 carries the servo reader. -/
def converterChan (k m : Nat) : Option Nat := if m < 32 then some (32 * k + m) else if m = 32 then some (128 + k) else none

/-- Physical channels that a link carries. -/
def linkChannels (k : Nat) : List Nat := (List.range 34).filterMap (converterChan k)

/-! ## The target (R233) -/

/-- The five target taps, Q3.4, as committed at D2. -/
def targetTaps (s : State) : List Int :=
  let lo := Cfgw.targetLo s
  [lo, lo / 256, lo / 65536, lo / 16777216, Cfgw.targetHi s].map fun v => ofField 8 (v % 256)

/-- The target's response to a stretch of magnetisation, latest bit first: Σ g_i · a_(n−i), a being +1 or −1. -/
def targetOf (g : List Int) (a : List Bool) : Int := (g.zipWith (fun x b => if b then x else -x) a).foldl (· + ·) 0

/-! ## The detector (R236, R237) -/

/-- A surviving path: its metric, and its decisions with their least merge difference so far, latest first. -/
structure Survivor where
  metric : Nat
  past : List (Bool × Option Nat)
  deriving DecidableEq, Repr

/-- The magnetisation bits a_(n−1) to a_(n−4) of a state, a_(n−1) its top bit. -/
def stateBits (st : Nat) : List Bool := [bit st 3, bit st 2, bit st 1, bit st 0]

/-- The smaller of a recorded difference and a new one. -/
def lessOf (r : Option Nat) (d : Nat) : Option Nat := some (match r with | some x => min x d | none => d)

/-- Two paths meet: that of the smaller metric survives, and each of its decisions that the other disagrees with takes the
difference of the metrics if that is smaller (R237). Between equal metrics the first survives (log entry 94). -/
def meet (x y : Survivor) : Survivor :=
  let w := if y.metric < x.metric then y else x
  let l := if y.metric < x.metric then x else y
  { w with past := w.past.zipWith (fun a b => if a.1 = b.1 then a else (a.1, lessOf a.2 (l.metric - w.metric))) l.past }

/-- A path goes on from a state with magnetisation bit a, the equaliser giving y: the branch metric is (y − d)² (R236). -/
def extend (g : List Int) (y : Int) (a : Bool) (st : Nat) (p : Survivor) : Survivor :=
  let d := targetOf g (a :: stateBits st)
  { metric := p.metric + (y - d).natAbs * (y - d).natAbs, past := ((a, none) :: p.past).take 49 }

/-- One bit through the 16 states: state (a_n … a_(n−3)) is reached from the two states that differ in a_(n−4). -/
def detectBit (g : List Int) (ps : List Survivor) (y : Int) : List Survivor :=
  (List.range 16).map fun st =>
    let a := bit st 3
    let from_ := fun t => extend g y a (st % 8 * 2 + t) (ps.getD (st % 8 * 2 + t) ⟨0, []⟩)
    meet (from_ 0) (from_ 1)

/-- The path of the least metric, the lowest state between equals (log entry 94). -/
def bestPath (ps : List Survivor) : Survivor :=
  (ps.tail.foldl (fun b p => if p.metric < b.metric then p else b) (ps.headD ⟨0, []⟩))

/-- The bit's reliability: min(15, Δ div 2^rel_shift); with no merge against it, 15 (R237). -/
def reliability (shift : Nat) (d : Option Nat) : Nat := match d with | some x => min 15 (x / 2 ^ shift) | none => 15

/-- Every state stands open, with no past, as detection begins (log entry 94). -/
def detectStart : List Survivor := List.replicate 16 ⟨0, []⟩

/-- Decisions a given number of bits behind the equaliser while bits come in; those still behind at the end come from the path
that is best then. -/
def decisions (g : List Int) (behind : Nat) : List Survivor → List Int → List (Bool × Option Nat)
  | ps, [] => ((bestPath ps).past.take behind).reverse
  | ps, y :: ys =>
    let qs := detectBit g ps y
    match (bestPath qs).past[behind]? with
    | some d => d :: decisions g behind qs ys
    | none => decisions g behind qs ys

/-- Final decisions, 48 bits behind, each with its reliability (R236, R237). -/
def finalDecisions (g : List Int) (relShift : Nat) (ys : List Int) : List (Bool × Nat) :=
  (decisions g 48 detectStart ys).map fun x => (x.1, reliability relShift x.2)

/-- NRZI: a channel bit is 1 where the magnetisation changes; it has the reliability of its own decision (log entry 95). -/
def nrziBits : Bool → List (Bool × Nat) → List (Bool × Nat)
  | _, [] => []
  | a, (b, r) :: t => (a != b, r) :: nrziBits b t

/-- The magnetisation that channel bits write, from the magnetisation before them: a 1 is a transition (R189). -/
def fluxOf : Bool → List Bool → List Bool
  | _, [] => []
  | a, c :: t => (a != c) :: fluxOf (a != c) t

/-- The channel bits that a channel detects. -/
def channelBits (g : List Int) (relShift : Nat) (ys : List Int) : List (Bool × Nat) :=
  let d := finalDecisions g relShift ys
  nrziBits ((d.head?.map Prod.fst).getD false) d

/-! ## MC33 and the row block (R188, R189, R191, R195) -/

/-- A decoded byte, whether it is an erasure, and its reliability. -/
structure SoftByte where
  val : Byte
  erased : Bool
  rel : Nat
  deriving DecidableEq, Repr

/-- One codeword decoded: exactly `m` bits, whether it is valid, and the least reliability of its channel bits (R237). -/
structure SoftWord where
  data : List Bool
  valid : Bool
  rel : Nat
  deriving DecidableEq, Repr

/-- Decode a codeword of m + 1 channel bits. -/
def softWord (m : Nat) (c : List (Bool × Nat)) : SoftWord :=
  let b := c.map Prod.fst
  { data := (mcDecode b).take m ++ List.replicate (m - (mcDecode b).length) false
    valid := b.length == m + 1 && mcValid b
    rel := (c.map Prod.snd).foldl min 15 }

/-- A half of a row: 61 words and a tail. -/
def softHalf : Nat → List (Bool × Nat) → List SoftWord
  | 0, c => [softWord 16 (c.take 17)]
  | n + 1, c => softWord 32 (c.take 33) :: softHalf n (c.drop 33)

/-- The value of up to 8 bits, most significant first. -/
def byteOf (b : List Bool) : Byte := BitVec.ofNat 8 (b.foldl (fun n t => 2 * n + b2n t) 0)

/-- The bytes of n times eight bits. -/
def bytesOf : Nat → List Bool → Bytes
  | 0, _ => []
  | n + 1, b => byteOf (b.take 8) :: bytesOf n (b.drop 8)

/-- Every byte that a codeword carries has its validity and its reliability: four of a word, two of a tail (R195, R237). -/
def markBytes (w : SoftWord) : List (Bool × Nat) := List.replicate (w.data.length / 8) (!w.valid, w.rel)

/-- The 492 bytes of a row block read on physical channel p, descrambled with its seed (R188). -/
def rowBlock (p : Nat) (ws : List SoftWord) : List SoftByte :=
  let clear := scramble (scrambleSeed p) (ws.flatMap SoftWord.data)
  (bytesOf 492 clear).zipWith (fun b m => ⟨b, m.1, m.2⟩) (ws.flatMap markBytes)

/-! ## Framing (R240, R241; where a split row goes on, log entry 115) -/

/-- Where channel bit k of a row stands among the detected bits when bit r of it stands at y; a split row stands in two
stretches. -/
def bitAt (split : Option RowSplit) (r y k : Nat) : Nat :=
  match split with
  | none => y + k - r
  | some x =>
    if decide (k < x.before) = decide (r < x.before) then y + k - r
    else if k < x.before then x.cut + k - x.before
    else x.resume + (k - x.before)

/-- Channel bits k to k + n − 1 of a row. -/
def stretch (bs : List (Bool × Nat)) (split : Option RowSplit) (r y k n : Nat) : List (Bool × Nat) :=
  (List.range n).map fun i => bs.getD (bitAt split r y (k + i)) (false, 0)

/-- The first half of a row whose bit r stands at y. -/
def firstHalf (bs : List (Bool × Nat)) (split : Option RowSplit) (r y : Nat) : List SoftWord :=
  softHalf 61 (stretch bs split r y 40 2030)

/-- The second half of a row whose bit r stands at y. -/
def secondHalf (bs : List (Bool × Nat)) (split : Option RowSplit) (r y : Nat) : List SoftWord :=
  softHalf 61 (stretch bs split r y 2094 2030)

/-- Invalid codewords of a half. -/
def invalidIn (ws : List SoftWord) : Nat := (ws.filter fun w => !w.valid).length

/-- The 12 header bytes of a block, when their three words are valid and hdr_crc holds (R184, R195). -/
def headerBytes (block : List SoftByte) : Option Bytes :=
  let h := block.take 12
  let b := h.map SoftByte.val
  if h.length = 12 ∧ h.all (fun x => !x.erased) = true ∧ beAt b 10 2 = crc16 (b.take 10) then some b else none

/-- Whether a first half read on channel p holds a header. -/
def headerHolds (p : Nat) (ws : List SoftWord) : Bool := (headerBytes (rowBlock p ws)).isSome

/-- The framing of a first half (R240, R241): at the forward sync, at the mid resync less 2,070, or at the prediction; where
the two syncs conflict, the one whose header holds, then the one with fewer invalid codewords, then the mid resync. -/
def frameFirst (p : Nat) (bs : List (Bool × Nat)) (x : RowRead) : List SoftWord :=
  match x.fwd, x.mid with
  | some f, none => firstHalf bs x.split 0 f
  | none, some m => firstHalf bs x.split 2070 m
  | none, none => firstHalf bs x.split 0 x.pred
  | some f, some m =>
    if bitAt x.split 0 f 2070 = m then firstHalf bs x.split 0 f
    else
      let a := firstHalf bs x.split 0 f
      let b := firstHalf bs x.split 2070 m
      if headerHolds p a && !headerHolds p b then a
      else if headerHolds p b && !headerHolds p a then b
      else if invalidIn a < invalidIn b then a else b

/-- The framing of a second half (R240, R241): between conflicting syncs the one with fewer invalid codewords, then the mid
resync. -/
def frameSecond (bs : List (Bool × Nat)) (x : RowRead) : List SoftWord :=
  match x.fwd, x.mid with
  | some f, none => secondHalf bs x.split 0 f
  | none, some m => secondHalf bs x.split 2070 m
  | none, none => secondHalf bs x.split 0 x.pred
  | some f, some m =>
    let a := secondHalf bs x.split 0 f
    let b := secondHalf bs x.split 2070 m
    if bitAt x.split 0 f 2070 = m then b else if invalidIn a < invalidIn b then a else b

/-- A row read: its block, and its invalid codewords. -/
structure RowBlock where
  chan : Nat
  slot : RowSlot
  block : List SoftByte
  invalid : Nat
  deriving DecidableEq, Repr

/-- A row through detection, framing, MC33 and the descrambler. -/
def readRow (g : List Int) (relShift : Nat) (x : RowRead) : RowBlock :=
  let bs := channelBits g relShift x.ys
  let ws := frameFirst x.chan bs x ++ frameSecond bs x
  { chan := x.chan, slot := x.slot, block := rowBlock x.chan ws, invalid := invalidIn ws }

end Sys2Proof.Machine
end

