-- ==== Sys2Proof/Machine/Cip.lean ====
section
/-!
DEFINITION. Keys, nonces and the derived-key cache (05).
-/

namespace Sys2Proof.Machine

def slotAt (s : State) (n : Nat) : KeySlot := AMap.getD s.cip.slots n {}

def setSlot (n : Nat) (x : KeySlot) (s : State) : State := { s with cip := { s.cip with slots := AMap.set s.cip.slots n x } }

/-! ## Issues (R121, R122) -/

/-- Whether an issue is left: usable issues are 0x0000_0001 to 0xFFFF_FFFF. -/
def issueLeft (s : State) : Bool := decide (s.cip.nextIssue < 2 ^ 32)

/-- Whether the issue log names a block of 256. -/
def blockLogged (s : State) (b : Nat) : Bool := s.cip.keyArea.contains (.issueBlock b)

/-- Hand out the next issue; an issue of a new block is logged first. -/
def takeIssue (s : State) : Nat × State :=
  let i := s.cip.nextIssue
  let area := if blockLogged s (i / 256) then s.cip.keyArea else s.cip.keyArea ++ [.issueBlock (i / 256)]
  (i, { s with cip := { s.cip with nextIssue := i + 1, keyArea := area } })

/-- The issue at which the counter resumes at D2: the start of the block after the highest one logged; 1 when none is. -/
def resumeIssue (area : List KeyRec) : Nat :=
  let tops := area.filterMap fun r => match r with | .issueBlock b => some (b + 1) | _ => none
  match tops with
  | [] => 1
  | t :: ts => ts.foldl max t * 256

/-! ## The derived-key cache (R130, R131, R134) -/

def cacheFind (s : State) (slot gen : Nat) (label : Bytes) : Option CacheEnt :=
  s.cip.cache.find? fun e => e.slot == slot && e.gen == gen && e.label == label

/-- Put an entry first, as the most recently used, in place of the one with its slot, generation and label. -/
def cachePut (e : CacheEnt) (s : State) : State :=
  { s with cip := { s.cip with
    cache := e :: s.cip.cache.filter fun x => !(x.slot == e.slot && x.gen == e.gen && x.label == e.label) } }

/-- Make room for a new entry: the least recently used entry that is unpinned and not retired goes. -/
def cacheRoom (s : State) : Option State :=
  if s.cip.cache.length < 256 then some s
  else if s.cip.cache.any fun e => e.pins.isEmpty && !e.retired then
    some { s with cip := { s.cip with
      cache := (dropFirst (fun e => e.pins.isEmpty && !e.retired) s.cip.cache.reverse).reverse } }
  else none

/-- A derived key whose fingerprint stands in the slot's retired list (R134). -/
def keyRetired (s : State) (slot gen : Nat) (label : Bytes) : Bool :=
  ((slotAt s slot).gen == gen && ((slotAt s slot).exhausted || (slotAt s slot).retired.contains (fingerprint slot gen label)))
    || (cacheFind s slot gen label).any CacheEnt.retired

/-- What binding a derived key at acceptance answers. -/
inductive Bind where
  | bound (counter : Nat) (key : Bytes) (s : State)
  | exhausted (s : State)
  /-- every cache entry is pinned or retired: the command stays ADMITTED -/
  | wait
  deriving DecidableEq, Repr

/-- Retire a derived key (R134): its fingerprint enters the slot's retired list in the NOR; a seventeenth exhausts the
generation. -/
def retireKey (e : CacheEnt) (s : State) : State :=
  let x := slotAt s e.slot
  let f := fingerprint e.slot e.gen e.label
  let y := if 16 ≤ x.retired.length then { x with exhausted := true } else { x with retired := x.retired ++ [f] }
  inc 0x040030 (setSlot e.slot y (cachePut { e with retired := true }
    { s with cip := { s.cip with keyArea := s.cip.keyArea ++ [.retiredKey e.slot e.gen f] } }))

/-- The root key of the generation that a write bound at acceptance: the slot's, or its retiring one (R131, R132). -/
def boundRoot (s : State) (slot gen seq : Nat) : Option Bytes :=
  let x := slotAt s slot
  match x.retiring with
  | some (g, k, sw) => if g = gen ∧ seq < sw then some k else if x.loaded ∧ x.gen = gen then some x.key else none
  | none => if x.loaded ∧ x.gen = gen then some x.key else none

/-- Bind a generation of a slot under a label and reserve n counters for the command `seq` (R47, R121, R131). With no issue
left every write is refused (R122). -/
def bindKey (slot gen : Nat) (root label : Bytes) (seq n : Nat) (s : State) : Bind :=
  if keyRetired s slot gen label ∨ issueLeft s = false then .exhausted s
  else
    match cacheFind s slot gen label with
    | some e =>
      if e.issue = 0 then
        let r := takeIssue s
        .bound (r.1 * 2 ^ 32) e.key (cachePut { e with issue := r.1, nextIdx := n, pins := seq :: e.pins } r.2)
      else if 2 ^ 32 < e.nextIdx + n then .exhausted (retireKey e s)
      else .bound (e.issue * 2 ^ 32 + e.nextIdx) e.key (cachePut { e with nextIdx := e.nextIdx + n, pins := seq :: e.pins } s)
    | none =>
      match cacheRoom s with
      | none => .wait
      | some s1 =>
        let r := takeIssue s1
        let key := deriveKey root label
        .bound (r.1 * 2 ^ 32) key
          (inc 0x04002C (cachePut { slot := slot, gen := gen, label := label, key := key, issue := r.1, nextIdx := n,
                                    pins := [seq], retired := false } r.2))

/-- A command that ends releases the derived key it bound (R131). -/
def unpinKey (seq : Nat) (s : State) : State :=
  { s with cip := { s.cip with cache := s.cip.cache.map fun e => { e with pins := e.pins.filter (· != seq) } } }

/-! ## Keys for reading (R130, R136) -/

/-- The root key of a generation for a read accepted as `seq`: the descriptor's slot, current or, for a read accepted
before its switch instant, retiring; otherwise the lowest-numbered other slot whose current generation equals it. -/
def rootFor (s : State) (slot gen seq : Nat) : Option (Nat × Bytes) :=
  let x := slotAt s slot
  if x.loaded ∧ x.gen = gen then some (slot, x.key)
  else
    match x.retiring with
    | some (g, k, sw) => if g = gen ∧ seq < sw then some (slot, k) else other
    | none => other
where
  other : Option (Nat × Bytes) :=
    (s.cip.slots.find? fun (n, y) => n != slot && y.loaded && y.gen == gen).map fun (n, y) => (n, y.key)

/-- The key of a packet for a read: from the cache, or derived; a derivation enters the cache when an entry can be
replaced (R130). An entry made for a read takes its issue at its first write (R121). -/
def readKey (slot gen : Nat) (root label : Bytes) (s : State) : Bytes × State :=
  match cacheFind s slot gen label with
  | some e => (e.key, if e.retired then s else cachePut e s)
  | none =>
    let key := deriveKey root label
    match cacheRoom s with
    | some s1 => (key, inc 0x04002C (cachePut { slot := slot, gen := gen, label := label, key := key, issue := 0, nextIdx := 0,
                                                pins := [], retired := false } s1))
    | none => (key, inc 0x04002C s)

/-! ## Slots (R123, R126, R132) -/

/-- A record of a slot that holds its key or its end, with the generation; what the record leaves. -/
def slotRecord (secret : Bytes) (n : Nat) : KeyRec → Option KeySlot
  | .slot m g w => if m = n then (keyUnwrap (Config.storageKey secret) w).map fun k => { loaded := true, gen := g, key := k } else none
  | .tombstone m g => if m = n then some { gen := g } else none
  | _ => none

/-- The newest record of a slot whose integrity holds restores it at D2: its key-wrap check succeeds, and it is not among the
key-area records `bad` that the NOR gives back damaged (R123). The retired list comes back from the records that followed it
under the same generation (R134). -/
def restoreSlot (area : List KeyRec) (bad : List Nat) (secret : Bytes) (n : Nat) : KeySlot :=
  let good := area.zipIdx.filter fun x => !bad.contains x.2
  match (good.filterMap fun x => (slotRecord secret n x.1).map fun k => (k, x.2)).getLast? with
  | none => {}
  | some (k, at_) =>
    if k.loaded then
      let prints := good.filterMap fun x => match x.1 with
        | .retiredKey m h f => if m = n ∧ h = k.gen ∧ at_ < x.2 then some f else none
        | _ => none
      { k with retired := prints.take 16, exhausted := decide (16 < prints.length) }
    else k

/-- KEY_INJECT switches the slot after its record is in the NOR (R126, R132). -/
def injectKey (slot gen : Nat) (key : Bytes) (s : State) : State :=
  let x := slotAt s slot
  let secret := (s.cfg.fuses.map Fuses.secret).getD []
  let s1 := { s with cip := { s.cip with
    keyArea := s.cip.keyArea ++ [.slot slot gen (keyWrap (Config.storageKey secret) key)] } }
  setSlot slot { x with loaded := true, gen := gen, key := key, retired := [], exhausted := false,
                        retiring := if x.loaded then some (x.gen, x.key, s.hq.acceptSeq) else none } s1

/-- KEY_ERASE appends a tombstone, zeroises the slot's keys and its cache entries, and keeps the generation (R132). -/
def eraseKey (slot seq : Nat) (s : State) : State :=
  let x := slotAt s slot
  setSlot slot { gen := x.gen, erasing := some seq, erasedAt := s.hq.acceptSeq,
                 erasedGens := x.gen :: (match x.retiring with | some (g, _, _) => [g] | none => []) }
    { s with cip := { s.cip with
        keyArea := s.cip.keyArea ++ [.tombstone slot x.gen],
        cache := s.cip.cache.filter fun e => e.slot != slot } }

/-- The old records of a slot are physically erased; its newest tombstone stays. -/
def eraseOldRecords (slot : Nat) (s : State) : State :=
  { s with cip := { s.cip with
    keyArea := s.cip.keyArea.filter fun r => match r with
      | .slot m _ _ => m != slot
      | .retiredKey m _ _ => m != slot
      | _ => true } }

/-- The retiring key of a slot and the unpinned cache entries of its generation are zeroised (R132). -/
def endRetiring (slot : Nat) (s : State) : State :=
  let x := slotAt s slot
  match x.retiring with
  | none => s
  | some (g, _, _) =>
    setSlot slot { x with retiring := none }
      { s with cip := { s.cip with cache := s.cip.cache.filter fun e => !(e.slot == slot && e.gen == g && e.pins.isEmpty) } }

/-- CIP_SLOT_SEL (R139): the slot's state and generation are sampled at the write. -/
def slotSel (value : Nat) (s : State) : State :=
  let n := bits value 6 0
  let x := slotAt s n
  { s with cip := { s.cip with sel := n, selRetired := x.retired.length, selExhausted := x.exhausted,
                                  selRetiring := x.retiring.isSome, selLoaded := x.loaded, selGen := x.gen } }

/-- CIP_SLOT_SEL, as the row of the register. -/
def execCipSlotSel (value : Nat) (s : State) : Out := go (slotSel value s)

end Sys2Proof.Machine
end

