-- ==== Sys2Proof/Machine/Stk.lean ====
section
/-!
DEFINITION. The Stable Keeper (03): Stall table, free rings and caches, waiting requests, ownership, chains.
-/

namespace Sys2Proof.Machine

/-! ## The Stall table and the Stables -/

def stallAt (s : State) (n : Nat) : Stall := AMap.getD s.stk.stalls n {}

def setStall (n : Nat) (x : Stall) (s : State) : State := { s with stk := { s.stk with stalls := AMap.set s.stk.stalls n x } }

def stableAt (s : State) (b : Nat) : Stable := AMap.getD s.stk.stables b {}

def setStable (b : Nat) (x : Stable) (s : State) : State :=
  { s with stk := { s.stk with stables := AMap.set s.stk.stables b x } }

/-- Stalls 0 to 1,023 are reserved (R77); the rest, up to the last fitted, are allocatable (R76). -/
def allocatable (s : State) (n : Nat) : Bool := decide (1024 ≤ n ∧ n < s.stk.total)

/-- The Stable whose range holds a Stall: its range is that of D3, whatever quarantine has withheld (R80, R438). -/
def stableOf (s : State) (n : Nat) : Nat :=
  match s.stk.stables.find? fun (_, x) => decide (x.base ≤ n ∧ n < x.base + x.span) with
  | some (b, _) => b
  | none => 1

/-- Free count: cache plus ring (R83). -/
def freeCount (x : Stable) : Nat := x.cache.length + (x.freshHi - x.freshLo) + x.ring.length

/-- The Stables that a requester class allocates from (R78). -/
def mayAllocate (req b : Nat) : Bool :=
  match req / 4 with
  | 0 | 1 => b == 0
  | 2 => b == 1
  | 3 | 4 => b == 2
  | 5 => b == 3
  | 6 | 7 => b == 4
  | 8 | 9 | 10 => b == 5
  | 11 => b == 6
  | 12 => b == 0 || b == 6
  | _ => b == 7

/-- Instances of a requester class (R78). -/
def instances (cls : Nat) : Nat := if cls == 6 || cls == 9 || cls == 10 then 4 else 1

/-- The requester IDs of the table of R78. -/
def knownReq (req : Nat) : Bool := decide (req < 64 ∧ req % 4 < instances (req / 4))

/-- Fetch k entries from the ring head into the cache, in ring order, the last one most recent (R81). -/
def refill (k : Nat) (x : Stable) : Stable :=
  let a := min k (x.freshHi - x.freshLo)
  let taken := (List.range a).map (x.freshLo + ·) ++ x.ring.take (k - a)
  { x with cache := taken.reverse ++ x.cache, freshLo := x.freshLo + a, ring := x.ring.drop (k - a) }

/-- Write the 32 oldest cache entries to the ring tail, oldest first (R81). -/
def writeback (x : Stable) : Stable :=
  { x with cache := x.cache.take (x.cache.length - 32), ring := x.ring ++ (x.cache.drop (x.cache.length - 32)).reverse }

/-- 32 entries come from the ring head when the cache is at its low watermark of 16 or below (R81). -/
def lowFetch (x : Stable) : Stable := if x.cache.length ≤ 16 then refill 32 x else x

/-- The most recent cache entry; a cache that falls to its low watermark is filled from the ring (R81). The cache is empty
after D3, and the first allocation fills it. -/
def takeFree (x : Stable) : Option (Nat × Stable) :=
  let y := if x.cache = [] then refill 32 x else x
  match y.cache with
  | [] => none
  | n :: c => some (n, lowFetch { y with cache := c })

/-- Grant one Stall (R87): the next generation, held by the requester. -/
def grantOne (req b : Nat) (s : State) : Option (Handle × State) :=
  match takeFree (stableAt s b) with
  | none => none
  | some (n, x) =>
    let old := stallAt s n
    some ((n, (old.gen + 1) % 256), setStall n { next := 0, stable := b, owner := req, gen := (old.gen + 1) % 256, st := .held, pins := 0 }
      (setStable b { x with low := min x.low (freeCount x) } s))

/-- Grant a request of `count` Stalls; their handles in the order granted. -/
def grant (req b : Nat) : Nat → State → List Handle × State
  | 0, s => ([], s)
  | c + 1, s =>
    match grantOne req b s with
    | none => ([], s)
    | some (n, s') =>
      let r := grant req b c s'
      (n :: r.1, r.2)

/-! ## Bad frees (R88) -/

/-- `STK_BAD_FREE_LAST` as loaded. -/
def badFreeWord (kind req stall : Nat) : Nat := kind * 2 ^ 29 + req * 2 ^ 19 + min stall 0x7FFFF

/-- A bad free is counted, recorded and posted. -/
def badFree (kind req stall : Nat) (s : State) : State :=
  postEvent Src.stk 0x02 0x01 false (badFreeWord kind req stall)
    (inc 0x020008 { s with stk := { s.stk with badKind := kind, badReq := req, badStall := min stall 0x7FFFF } })

/-- The first way in which an operation on a held Stall fails, in the order of R88; none when it matches. -/
def opFault (s : State) (o : StallOp) (checkGen : Bool) : Option Nat :=
  let x := stallAt s o.stall
  if allocatable s o.stall = false then some 4
  else if x.st ≠ .held then some 3
  else if x.owner ≠ o.req then some 1
  else if checkGen ∧ x.gen ≠ o.gen then some 2
  else none

/-! ## Frees, transfers, links, pins -/

/-- The packet Stable's minimum for an exposure limit in MiB (R79). -/
def packetMinimum (exposureMiB : Nat) : Nat := exposureMiB * 4 + 512

/-- A Stall whose holder has freed it and which no lock covers goes back to its Stable; a quarantined Stall is withheld
and its Stable shrinks by one, the packet Stable not below its minimum (R438). A free that raises the cache to its high
watermark of 56 entries writes the 32 oldest back (R81). -/
def release (n : Nat) (s : State) : State :=
  let x := stallAt s n
  let b := x.stable
  let t := stableAt s b
  let s1 := setStall n { x with st := .free, pins := 0 } s
  if mem? s.stk.quarantine n ∧ ¬(b = 1 ∧ t.size ≤ packetMinimum (Cfgw.exposureMiB s)) then setStable b { t with size := t.size - 1 } s1
  else
    let y := { t with cache := n :: t.cache }
    setStable b (if 56 ≤ y.cache.length then writeback y else y) s1

/-- A free that matches: back to the Stable, or RELEASING while pins cover it (R87). -/
def freeHeld (n : Nat) (s : State) : State :=
  let x := stallAt s n
  if x.pins = 0 then release n s else setStall n { x with st := .releasing } s

/-- One free by handle (R87, R88). -/
def freeOne (o : StallOp) (s : State) : State :=
  match opFault s o true with
  | some k => badFree k o.req o.stall s
  | none => freeHeld o.stall s

/-- The rest of a chain free: each Stall is checked against the owner and its own generation (R88). -/
def freeChain : Nat → Nat → Nat → State → State
  | 0, _, _, s => s
  | f + 1, req, n, s =>
    if n = 0 then s
    else
      match opFault s ⟨req, n, 0⟩ false with
      | some k => badFree k req n s
      | none => freeChain f req (stallAt s n).next (freeHeld n s)

/-- A block frees a Stall that it holds: it presents its requester ID and the handle it was granted (R86). -/
def giveBack (req : Nat) (h : Handle) (s : State) : State := freeOne ⟨req, h.1, h.2⟩ s

/-- Whether the Gate table's pin is taken: the Stall is HELD or RELEASING and the handle's generation is its own (R87). -/
def pinTaken (s : State) (h : Handle) : Bool := (stallAt s h.1).st != .free && (stallAt s h.1).gen == h.2

/-- A pin by the Gate table; a refused one changes nothing (R87). -/
def pin (n gen : Nat) (s : State) : State :=
  let x := stallAt s n
  if pinTaken s (n, gen) then setStall n { x with pins := x.pins + 1 } s else s

/-- An unpin by the Gate table (R87). -/
def unpin (n : Nat) (s : State) : State :=
  let x := stallAt s n
  if x.st = .free ∨ x.pins = 0 then s
  else if x.st = .releasing ∧ x.pins = 1 then release n s
  else setStall n { x with pins := x.pins - 1 } s

/-! ## Waiting (R83, R84) -/

/-- A waiting request takes its class's FIFO slot, or waits outside while the class holds one. -/
def enqueue (r : StallReq) (x : Stable) : Stable :=
  let y := { x with waits := min (x.waits + 1) 0xFFFF }
  if x.fifo.any fun (q, _) => q / 4 == r.req / 4 then { y with outside := y.outside ++ [(r.req, r.count)] }
  else { y with fifo := y.fifo ++ [(r.req, r.count)] }

/-- The next waiting instance of a class after the one just granted, counted upwards and wrapping. -/
def nextInstance (req : Nat) (ws : List (Nat × Nat)) : Option (Nat × Nat) :=
  let cls := req / 4
  ([1, 2, 3, 4].map fun i => cls * 4 + (req + i) % 4).findSome? fun q => ws.find? fun (r, _) => r == q

/-- Stalls granted to a request: a block that asked by itself takes them over when it next looks (log entry 84); a request
of the STALL_REQUEST row leaves them with the requester that the row stands for. -/
def handOver (req : Nat) (hs : List Handle) (s : State) : State :=
  if mem? s.stk.asking req then
    { s with stk := { s.stk with asking := AMap.erase s.stk.asking req,
                                 granted := AMap.set s.stk.granted req (AMap.getD s.stk.granted req [] ++ hs) } }
  else s

/-- Grant a request and hand its Stalls over. -/
def serve (req b count : Nat) (s : State) : State :=
  let r := grant req b count s
  handOver req r.1 r.2

/-- The head request of a FIFO is granted when the free count covers it. -/
def grantHead (b : Nat) (s : State) : State :=
  let x := stableAt s b
  match x.fifo with
  | [] => s
  | (req, count) :: rest =>
    if freeCount x < count then s
    else
      let y := match nextInstance req x.outside with
        | none => { x with fifo := rest }
        | some w => { x with fifo := rest ++ [w], outside := x.outside.erase w }
      serve req b count (setStable b y s)

/-- Grant new requests in order while the free count covers them; the rest enter the FIFO. Answers the last request
granted and whether one waits. -/
def takeRequests (b : Nat) : List StallReq → Option Nat → State → Option Nat × List StallReq × State
  | [], last, s => (last, [], s)
  | r :: rs, last, s =>
    if (stableAt s b).fifo = [] ∧ r.count ≤ freeCount (stableAt s b) then
      takeRequests b rs (some r.req) (serve r.req b r.count s)
    else (last, r :: rs, setStable b ((r :: rs).foldl (fun x r => enqueue r x) (stableAt s b)) s)

/-- The new requests of one cycle for one Stable, in rotating priority order (R84). Answers whether one entered a FIFO. -/
def requestsFor (b : Nat) (reqs : List StallReq) (s : State) : Bool × State :=
  let x := stableAt s b
  let order := sortBy (fun r => (r.req + 64 - x.pointer) % 64) (reqs.filter fun r => r.stable == b)
  let (last, waited, s1) := takeRequests b order none s
  match waited with
  | [] => (false, s1)
  | w :: _ =>
    let y := stableAt s1 b
    if y.fifo.length = x.fifo.length then (false, s1)
    else (true, setStable b { y with pointer := (last.getD w.req + 1) % 64 } s1)

/-- Whether a requester already has a request outstanding (R82). -/
def outstandingReq (s : State) (req : Nat) : Bool :=
  s.stk.stables.any fun (_, x) => (x.fifo ++ x.outside).any fun (q, _) => q == req

/-- Whether a request's count is out of range (R82). -/
def badCount (r : StallReq) : Bool := r.count == 0 || decide (128 < r.count)

/-- The requests of a cycle that stand: in the order of the row, those of a requester with none outstanding and none
before it in the row (R82). A second request of a requester is ignored (DESIGN CHOICE, log entry 85). -/
def firstRequests (s : State) (rs : List StallReq) : List StallReq :=
  rs.foldl (fun acc r => if outstandingReq s r.req || acc.any (fun q => q.req == r.req) then acc else acc ++ [r]) []

/-- The new requests of one cycle, all Stables in ascending order; a cycle in which one entered a FIFO is counted (R84). -/
def newRequests (good : List StallReq) (s : State) : State :=
  let (w, s1) := (List.range 8).foldl (fun (w, s) b =>
    let r := requestsFor b good s
    (w || r.1, r.2)) (false, s)
  if w then inc 0x02001C s1 else s1

/-- STALL_REQUEST (R82, R83, R84): the new requests of one cycle. A request out of range is a bad request whatever else it
names (R88), in ascending requester ID before the others of its cycle (DESIGN CHOICE, log entry 85). Before
`STK_CTRL.ready`, and from an ID that R78 does not list or for a Stable not listed against its requester, a request is
ignored and not counted (DESIGN CHOICE, log entry 85). -/
def execStallRequest (reqs : List StallReq) (s : State) : Out :=
  if s.stk.ready = false then go s
  else
    let bad := sortBy StallReq.req (reqs.filter fun r => decide (r.req < 64) && badCount r)
    let good := firstRequests s (reqs.filter fun r => knownReq r.req && mayAllocate r.req r.stable && !badCount r)
    go (newRequests good (each (fun r s => badFree 5 r.req r.count s) bad s))

/-! ## Requests of the blocks themselves -/

/-- What a block asks for: the Stalls already granted to it, and requests of at most `most` until it has n (R82). A request
that the free count does not cover waits in the Stable's FIFO (R83), and the block asks again when its row next runs;
Stalls beyond those it now needs go back (log entry 84). -/
def acquireFrom (most req b n : Nat) : Nat → State → Option (List Handle) × State
  | 0, s => (none, s)
  | f + 1, s =>
    let hs := AMap.getD s.stk.granted req []
    if n ≤ hs.length then
      (some (hs.take n), each (giveBack req) (hs.drop n) { s with stk := { s.stk with granted := AMap.erase s.stk.granted req } })
    else if outstandingReq s req then (none, s)
    else
      acquireFrom most req b n f
        (newRequests [⟨req, b, min most (n - hs.length)⟩] { s with stk := { s.stk with asking := AMap.set s.stk.asking req () } })

/-- A block asks for n Stalls of a Stable, at most 256. -/
def acquire (req b n : Nat) (s : State) : Option (List Handle) × State := acquireFrom 128 req b n 3 s

/-- A block asks for one Stall. -/
def acquireOne (req b : Nat) (s : State) : Option Handle × State :=
  match acquire req b 1 s with
  | (some (h :: _), s1) => (some h, s1)
  | (_, s1) => (none, s1)

/-- STALL_FREE (R84, R87, R88): the frees of one cycle, in ascending requester ID. -/
def execStallFree (frees : List StallOp) (s : State) : Out :=
  go (each freeOne (sortBy StallOp.req frees) s)

/-- STALL_CHAIN_FREE (R88). -/
def execStallChainFree (o : StallOp) (s : State) : Out :=
  match opFault s o true with
  | some k => go (badFree k o.req o.stall s)
  | none => go (freeChain (s.stk.stalls.length + 1) o.req (stallAt s o.stall).next (freeHeld o.stall s))

/-- STALL_TRANSFER (R87): the owner becomes the receiving requester. -/
def execStallTransfer (o : StallOp) (dest : Nat) (s : State) : Out :=
  match opFault s o true with
  | some k => go (badFree k o.req o.stall s)
  | none => go (setStall o.stall { stallAt s o.stall with owner := dest % 64 } s)

/-- Why a link fails: its own Stall does not match, or the Stall it names is one that is never chained, reserved or beyond
the DRAM fitted (R77); that is an out-of-range Stall number of R88 (DEDUCED, log entry 86). `next` 0 ends the chain. -/
def linkFault (s : State) (o : StallOp) (next : Nat) : Option (Nat × Nat) :=
  match opFault s o true with
  | some k => some (k, o.stall)
  | none => if next ≠ 0 ∧ allocatable s next = false then some (4, next) else none

/-- A link: `next` becomes the named Stall. -/
def linkStall (o : StallOp) (next : Nat) (s : State) : State :=
  match linkFault s o next with
  | some (k, n) => badFree k o.req n s
  | none => setStall o.stall { stallAt s o.stall with next := next % 2 ^ 19 } s

/-- STALL_LINK (R77, R87). -/
def execStallLink (o : StallOp) (next : Nat) (s : State) : Out := go (linkStall o next s)

/-- STALL_PIN (R87). -/
def execStallPin (stall gen : Nat) (s : State) : Out := go (pin stall gen s)

/-- STALL_UNPIN (R87). -/
def execStallUnpin (stall : Nat) (s : State) : Out := go (unpin stall s)

/-- STALL_WAIT_GRANT (R83): the request at the head of the FIFO, once its count is covered. -/
def execStallWaitGrant (stable : Nat) (s : State) : Out := go (grantHead stable s)

/-- FREE_CACHE_REFILL (R81): at 16 entries or fewer, 32 entries come from the ring head. -/
def execFreeCacheRefill (stable : Nat) (s : State) : Out :=
  let x := stableAt s stable
  if x.cache.length ≤ 16 ∧ x.cache.length < freeCount x then go (setStable stable (refill 32 x) s) else go s

/-- FREE_CACHE_WRITEBACK (R81): at 56 entries or more, the 32 oldest go to the ring tail. -/
def execFreeCacheWriteback (stable : Nat) (s : State) : Out :=
  let x := stableAt s stable
  if 56 ≤ x.cache.length then go (setStable stable (writeback x) s) else go s

/-! ## Probe and Dawn -/

/-- The Stall table entry as R85 lays it out. -/
def stallWord (x : Stall) : Nat :=
  let st := match x.st with | .free => 0 | .held => 1 | .releasing => 2
  x.next % 2 ^ 19 * 2 ^ 45 + x.stable * 2 ^ 42 + x.owner * 2 ^ 36 + x.gen * 2 ^ 28 + st * 2 ^ 26 + x.pins * 2 ^ 15

/-- The entry of a Stall that the probe shows; one never granted belongs to the Stable of its range. -/
def probeWord (s : State) (n : Nat) : Nat := stallWord { stallAt s n with stable := stableOf s n }

/-- STK_PROBE_SEL (R85, R92): the entry is sampled at the write; reserved and absent Stalls read zero. -/
def probeSel (value : Nat) (s : State) : State :=
  let n := bits value 18 0
  let w := if allocatable s n then probeWord s n else 0
  { s with stk := { s.stk with probeSel := n, probeLo := bits w 31 0, probeHi := bits w 63 32 } }

/-- STK_PROBE_SEL, as the row of the register (R92). -/
def execStkProbeSel (value : Nat) (s : State) : Out := go (probeSel value s)

/-- Stalls fitted (R76): of the DRAM that D3 finds. -/
def stallsFitted (s : State) : Nat := 4096 * s.stk.ddr.foldl (fun n x => n + x.2.capacity) 0

/-- The sizes of the Stables: the packet Stable takes what the other seven leave (R80). -/
def stableSizes (s : State) : List Nat :=
  let fixed := (List.range 8).map fun i => if i == 1 then 0 else Cfgw.stableSize s i
  let rest := stallsFitted s - 1024 - fixed.foldl (· + ·) 0
  fixed.set 1 rest

/-- Stage D3 (R80, R81): consecutive ranges in the order 0, 2, 3, 4, 5, 6, 7, then the packet Stable; every allocatable
Stall in its ring, ascending. -/
def buildStables (s : State) : State :=
  let sizes := stableSizes s
  let place := [0, 2, 3, 4, 5, 6, 7, 1].foldl (fun (acc : AMap Stable × Nat) b =>
    let n := sizes.getD b 0
    (AMap.set acc.1 b { base := acc.2, span := n, size := n, freshLo := acc.2, freshHi := acc.2 + n, low := n }, acc.2 + n)) ([], 1024)
  { s with stk := { s.stk with ready := true, total := stallsFitted s, stables := place.1, asking := [], granted := [] } }

end Sys2Proof.Machine
end

