-- ==== Sys2Proof/Machine/Tape.lean ====
section
/-!
DEFINITION. The cartridge (06): places along a wrap, capacity, cartridge memory, the tape directory.
Lengths along the tape are exact, in units of 1/1,310,400 nm, in which every channel bit length is whole.
-/

namespace Sys2Proof.Machine

/-! ## Lengths (R141, R148) -/

/-- Length units per nm. -/
def unitNm : Nat := 1310400

/-- One servo frame, 100 µm. -/
def frameU : Nat := 100000 * unitNm

/-- The 1.0 mm separator. -/
def sepU : Nat := 1000000 * unitNm

/-- Linear density of a class in kilobits per inch. -/
def density : Nat → Nat
  | 0 => 960
  | 1 => 900
  | 2 => 840
  | _ => 780

/-- A channel bit of a class: 25.4 mm over the density. -/
def bitU (cls : Nat) : Nat := 25400 * (unitNm / density cls)

/-- A Codeword Row. -/
def rowU (cls : Nat) : Nat := 4128 * bitU cls

/-- The data set pitch: 384 rows, 12 reserve rows, the separator. -/
def pitchU (cls : Nat) : Nat := 396 * rowU cls + sepU

/-- The data region, frames 100,000 to 11,899,999. -/
def regionU : Nat := 11800000 * frameU

/-! ## Wraps (R142) -/

def bandOf (wrap : Nat) : Nat := wrap / 48

/-- Wraps with an odd index in their band run in reverse. -/
def reverseWrap (wrap : Nat) : Bool := wrap % 48 % 2 == 1

/-- The spans of a wrap's band as stretches measured in the direction of travel: begin, end, skip. -/
def spansOf (s : State) (wrap : Nat) : List (Nat × Nat × Bool) :=
  let sp := (AMap.getD s.cart.spans (bandOf wrap) []).map fun (start, len, skip) =>
    if reverseWrap wrap then ((11900000 - (start + len)) * frameU, (11900000 - start) * frameU, skip)
    else ((start - 100000) * frameU, (start + len - 100000) * frameU, skip)
  if reverseWrap wrap then sp.reverse else sp

/-! ## Placing data sets (R150, R153, R154) -/

/-- The last boundary between units of R191 at or before channel bit b of a row. -/
def unitBoundary (b : Nat) : Nat :=
  if b < 40 then 0
  else if b < 2053 then 40 + (b - 40) / 33 * 33
  else if b < 2070 then 2053
  else if b < 2094 then 2070
  else if b < 4107 then 2094 + (b - 2094) / 33 * 33
  else if b < 4124 then 4107
  else 4124

/-- Growth of a data set begun at pos from a split span: from the last codeword boundary at or before the span to the
span's end, and the split resync; `grown` is the growth from the spans before it. -/
def spanGrowth (cls pos grown a e : Nat) : Nat :=
  let off := (a - pos - grown) / bitU cls
  (e - a) + ((a - pos - grown) - (off / 4128 * 4128 + unitBoundary (off % 4128)) * bitU cls) + 64 * bitU cls

/-- Length of a data set at pos, and the skip span that keeps it from standing there, if one does. -/
def dataSetLen (cls pos : Nat) : List (Nat × Nat × Bool) → Nat → Nat → Nat × Option Nat
  | [], _, len => (len, none)
  | (a, e, skip) :: sp, n, len =>
    if e ≤ pos then dataSetLen cls pos sp n len
    else if pos + len ≤ a then (len, none)
    else if skip ∨ (4 ≤ n ∧ a < pos + len - sepU) then (len, some e)
    else if a < pos ∨ pos + len - sepU ≤ a then dataSetLen cls pos sp n len
    else dataSetLen cls pos sp (n + 1) (len + spanGrowth cls pos (len - pitchU cls) a e)

/-- The next data set position at or after pos: its start and length; none when the wrap is full. -/
def placeAt (cls : Nat) (sp : List (Nat × Nat × Bool)) : Nat → Nat → Option (Nat × Nat)
  | 0, _ => none
  | f + 1, pos =>
    match dataSetLen cls pos sp 0 (pitchU cls) with
    | (_, some e) => placeAt cls sp f e
    | (len, none) => if regionU < pos + len then none else some (pos, len)

/-- Where the position after one that ends at `pos` begins: past a split span that covers it (R150, R153). -/
def afterEnd (sp : List (Nat × Nat × Bool)) (pos : Nat) : Nat :=
  match sp.find? fun (a, e, _) => decide (a < pos ∧ pos < e) with
  | some (_, e, _) => e
  | none => pos

/-- The i-th position of a wrap from `pos` on: start and length. -/
def nthPos (cls : Nat) (sp : List (Nat × Nat × Bool)) : Nat → Nat → Option (Nat × Nat)
  | 0, pos => placeAt cls sp (sp.length + 1) pos
  | i + 1, pos =>
    match placeAt cls sp (sp.length + 1) pos with
    | none => none
    | some (p, len) => nthPos cls sp i (afterEnd sp (p + len))

/-- Where the data sets of a wrap begin: after the two directory slots on a partition's first wrap (R161). -/
def wrapBegin (sp : List (Nat × Nat × Bool)) (first : Bool) : Nat :=
  if first then
    match nthPos 3 sp 1 0 with
    | some (p, len) => afterEnd sp (p + len)
    | none => regionU
  else 0

/-- Data set positions of a wrap (R150). -/
def countPos (cls : Nat) (sp : List (Nat × Nat × Bool)) : Nat → Nat → Nat
  | 0, _ => 0
  | f + 1, pos =>
    match placeAt cls sp (sp.length + 1) pos with
    | none => 0
    | some (p, len) => countPos cls sp f (afterEnd sp (p + len)) + 1

/-- A distance in the direction of travel as a Tape Clock value: 1/256 frame, a part of it rounded up in that direction
(R418's worked example rounds the end of a data set so; DEDUCED, log entry 20). -/
def clockOf (wrap dist : Nat) : Nat :=
  let t := ceilDiv (dist * 256) frameU
  if reverseWrap wrap then 11900000 * 256 - t else 100000 * 256 + t

/-- The frame at which something begins, rounded down in frame numbers. -/
def frameOf (clock : Nat) : Nat := clock / 256

/-! ## Zones and partitions (R156, R157, R158, R163) -/

/-- Zone Table entry of a wrap: class, certified, excluded, error rate, positions. -/
def zoneOf (s : State) (wrap : Nat) : Nat × Bool × Bool × Nat × Nat := AMap.getD s.cart.zone wrap (1, false, false, 0, 0)

def wrapClass (s : State) (wrap : Nat) : Nat := (zoneOf s wrap).1
def wrapExcluded (s : State) (wrap : Nat) : Bool := (zoneOf s wrap).2.2.1
def wrapPositions (s : State) (wrap : Nat) : Nat := if wrapExcluded s wrap then 0 else (zoneOf s wrap).2.2.2.2

def partAt (s : State) (p : Nat) : Part := AMap.getD s.parts p {}

def setPart (p : Nat) (x : Part) (s : State) : State := { s with parts := AMap.set s.parts p x }

def updPart (p : Nat) (f : Part → Part) (s : State) : State := setPart p (f (partAt s p)) s

/-- The partitions of a cartridge that takes the place of the last; the early-warning reserve is a feature of the device and
stays (R53). -/
def newParts (ps : AMap Part) (s : State) : State :=
  { s with parts := (List.range 4).map fun p => (p, { AMap.getD ps p {} with ewReserve := (partAt s p).ewReserve }) }

/-- Whether a partition is on the loaded cartridge (R162). -/
def partPresent (s : State) (p : Nat) : Bool := decide (0 < (partAt s p).wraps)

/-- Whether a cartridge is loaded: LOAD has made it ready (R167). -/
def loaded (s : State) : Bool := s.cart.st == .ready || s.cart.st == .unloading

/-- Data commands find the cartridge: a LOAD has completed and no UNLOAD has begun to write the directory. -/
def serving (s : State) : Bool := s.cart.st == .ready

/-- Wrap and index on it of a partition's i-th data set position. -/
def posPlace (s : State) : Nat → Nat → Nat → Option (Nat × Nat)
  | 0, _, _ => none
  | n + 1, wrap, i => if i < wrapPositions s wrap then some (wrap, i) else posPlace s n (wrap + 1) (i - wrapPositions s wrap)

/-- Where a partition's i-th data set position lies: wrap, start and length in the direction of travel. -/
def positionAt (s : State) (p i : Nat) : Option (Nat × Nat × Nat) :=
  let x := partAt s p
  match posPlace s x.wraps x.firstWrap i with
  | none => none
  | some (w, k) =>
    (nthPos (wrapClass s w) (spansOf s w) k (wrapBegin (spansOf s w) (w == x.firstWrap))).map fun (a, len) => (w, a, len)

/-- Encoded images of a partition that wait for the write lanes. -/
def imagesOf (s : State) (p : Nat) : Nat := (s.wrv.images.filter fun i => i.part == p).length

/-- Data sets of the open Loft still to be formatted, parity included: after an early close only the parity is left (R178). -/
def loftLeft (x : Part) : Nat := if x.loftOpen then 32 - x.nextDs % 32 else 0

/-- Positions that remain before the hard reserve (R158). -/
def positionsLeft (s : State) (p : Nat) : Nat := (partAt s p).positions - 64 - (partAt s p).nextPos - imagesOf s p

/-- Remaining capacity in bytes: user area of the usable Lofts not begun, and what is unfilled in the open Loft (R158). -/
def remainingCapacity (s : State) (p : Nat) : Nat :=
  let x := partAt s p
  ((positionsLeft s p - loftLeft x) / 32 * 30 + if x.loftOpen then 30 - x.nextDs % 32 else 0) * userArea - x.user.length

/-- Inside the early-warning reserve (R56, R158). -/
def earlyWarning (s : State) (p : Nat) : Bool := decide (positionsLeft s p < (partAt s p).ewReserve)

/-- Split points of a placement: where all channels end their row, and where the span ends. -/
def splitPoints (cls pos : Nat) : List (Nat × Nat × Bool) → Nat → List (Nat × Nat)
  | [], _ => []
  | (a, e, _) :: sp, g =>
    if e ≤ pos ∨ a < pos then splitPoints cls pos sp g
    else
      let sep := pos + 396 * rowU cls + g
      if sep + sepU ≤ a then []
      else if sep ≤ a then (a, e) :: splitPoints cls pos sp g
      else
        let off := (a - pos - g) / bitU cls
        (pos + g + (off / 4128 * 4128 + unitBoundary (off % 4128)) * bitU cls, e) :: splitPoints cls pos sp (g + spanGrowth cls pos g a e)

/-- The distance in the direction of travel of a Tape Clock value. -/
def distOf (wrap clock : Nat) : Nat :=
  (if reverseWrap wrap then 11900000 * 256 - clock else clock - 100000 * 256) * frameU / 256

/-- Where the data set position begins that covers a distance of a wrap. -/
def setStartAt (s : State) (wrap d : Nat) : Option Nat :=
  let first := s.parts.any fun x => x.2.firstWrap == wrap && decide (0 < x.2.wraps)
  (List.range (wrapPositions s wrap)).findSome? fun k =>
    (nthPos (wrapClass s wrap) (spansOf s wrap) k (wrapBegin (spansOf s wrap) first)).bind fun (a, len) => if a ≤ d ∧ d < a + len then some a else none

/-- The split points of the data set position that covers a distance of a wrap, each with its span's end (R193). -/
def splitsAt (s : State) (wrap d : Nat) : List (Nat × Nat) :=
  match setStartAt s wrap d with
  | some a => splitPoints (wrapClass s wrap) a (spansOf s wrap) 0
  | none => []

/-! ## Cartridge memory (R162) -/

def cmByte (s : State) (a : Nat) : Byte := AMap.getD s.cartMem a 0#8

def cmRead (s : State) (off n : Nat) : Bytes := (List.range n).map fun i => cmByte s (off + i)

/-- Write bytes to cartridge memory; a byte of zero is what an unlisted address reads as. -/
def cmWrite (off : Nat) (bs : Bytes) (s : State) : State :=
  { s with cartMem := bs.zipIdx.foldl (fun m (b, i) => if b = 0#8 then AMap.erase m (off + i) else AMap.set m (off + i) b) s.cartMem }

/-- A Zone Table entry (R163). -/
def zoneEntry (z : Nat × Bool × Bool × Nat × Nat) : Bytes :=
  be 8 (z.1 % 4 * 2 ^ 62 + b2n z.2.1 * 2 ^ 61 + b2n z.2.2.1 * 2 ^ 60 + min z.2.2.2.1 65535 * 2 ^ 32 + z.2.2.2.2 % 2 ^ 32)

def zoneParse (b : Bytes) : Nat × Bool × Bool × Nat × Nat :=
  let v := beAt b 0 8
  (bits v 63 62, bit v 61, bit v 60, bits v 47 32, bits v 31 0)

/-- A keep-out entry (R163). -/
def spanEntry (x : Nat × Nat × Bool) : Bytes := be 8 (x.1 % 2 ^ 24 * 2 ^ 40 + x.2.1 % 2 ^ 18 * 2 ^ 22 + b2n x.2.2 * 2 ^ 21)

def spanParse (b : Bytes) : Nat × Nat × Bool :=
  let v := beAt b 0 8
  (bits v 63 40, bits v 39 22, bit v 21)

def zoneTable (s : State) : Bytes := (List.range 192).flatMap fun w => zoneEntry (zoneOf s w)

def keepOutLists (s : State) : Bytes :=
  (List.range 4).flatMap fun b => fit ((AMap.getD s.cart.spans b []).flatMap spanEntry) 8192

/-- Bytes 0 to 49 of a partition entry (R162), padded to its 128 bytes. -/
def partEntry (x : Part) : Bytes :=
  fit (be 1 x.firstWrap ++ be 1 x.wraps ++ be 1 (b2n x.yardMember) ++ be 1 0 ++ be 8 x.originYard ++ fit x.originSerial 20
    ++ be 6 x.laidMark ++ be 4 x.eodDs ++ be 1 x.eodWrap ++ be 3 (frameOf x.eodClock) ++ be 4 x.nextPos) 128

def partEntries (s : State) : Bytes := (List.range 4).flatMap fun p => partEntry (partAt s p)

/-- A partition from its entry. -/
def partParse (b : Bytes) : Part :=
  { firstWrap := beAt b 0 1, wraps := beAt b 1 1, yardMember := bit (beAt b 2 1) 0, originYard := beAt b 4 8,
    originSerial := slice b 12 20, acceptedEnd := beAt b 32 6, takenMark := beAt b 32 6, shelteredMark := beAt b 32 6,
    laidMark := beAt b 32 6, safeMark := beAt b 32 6, current := beAt b 32 6, nextDs := beAt b 38 4, eodDs := beAt b 38 4, eodWrap := beAt b 42 1,
    eodClock := beAt b 43 3 * 256, nextPos := beAt b 46 4 }

/-- A control block (R162). -/
def controlBlock (s : State) (seq : Nat) (clean : Bool) : Bytes :=
  let spans := (List.range 4).flatMap fun b => be 2 (AMap.getD s.cart.spans b []).length
  let body := be 4 seq ++ be 1 s.cart.formatState ++ be 1 (b2n clean + 2 * b2n s.cart.dirBNewer) ++ be 2 s.cart.writePass
    ++ be 4 s.cart.loadCount ++ be 4 s.cart.formatCount ++ spans ++ be 4 (crc32 (zoneTable s)) ++ be 4 (crc32 (keepOutLists s))
    ++ zeros 224 ++ (partEntries s).take 508
  body ++ be 4 (crc32 body)

/-- Write the control block to the copy not in use, which is in use from then on. -/
def writeControl (clean : Bool) (s : State) : State :=
  let s1 := { s with cart := { s.cart with cbSeq := s.cart.cbSeq + 1, cbCopyB := !s.cart.cbCopyB, clean := clean } }
  cmWrite (if s1.cart.cbCopyB then 0x0400 else 0x0100) (controlBlock s1 s1.cart.cbSeq clean) s1

/-- A control block whose CRC holds. -/
def controlValid (b : Bytes) : Bool := beAt b 764 4 == crc32 (b.take 764)

/-- The copy that LOAD uses: the one whose CRC holds and whose sequence is higher; whether it is copy B. -/
def controlInUse (s : State) : Option (Bool × Bytes) :=
  let a := cmRead s 0x0100 768
  let b := cmRead s 0x0400 768
  match controlValid a, controlValid b with
  | true, true => if beAt a 0 4 < beAt b 0 4 then some (true, b) else some (false, a)
  | true, false => some (false, a)
  | false, true => some (true, b)
  | false, false => none

/-- Every page that FORMAT_PARTITIONS writes: Zone Table, keep-out lists, control block with clean set (R166). -/
def writeAllPages (s : State) : State := writeControl true (cmWrite 0x4000 (keepOutLists s) (cmWrite 0x0800 (zoneTable s) s))

/-! ## The tape directory (R164) -/

def segBytes (g : Seg) : Bytes := be 6 g.first ++ be 4 g.ds ++ be 4 g.off ++ be 1 (b2n g.truncating) ++ be 1 0
def loftBytes (l : LoftEnt) : Bytes := be 4 l.ds ++ be 1 l.wrap ++ be 3 l.frame ++ be 6 l.first ++ be 2 0
def relocBytes (r : Reloc) : Bytes := be 4 r.ds ++ be 1 r.wrap ++ be 3 r.frame ++ be 1 r.cause ++ zeros 7
def segParse (e : Bytes) : Seg := ⟨beAt e 0 6, beAt e 6 4, bits (beAt e 10 4) 24 0, bit (beAt e 14 1) 0⟩
def loftParse (e : Bytes) : LoftEnt := ⟨beAt e 0 4, beAt e 4 1, beAt e 5 3, beAt e 8 6⟩
def relocParse (e : Bytes) : Reloc := ⟨beAt e 0 4, beAt e 4 1, beAt e 5 3, beAt e 8 1⟩

/-- The user area of a partition's directory data set, up to its CRC. -/
def directoryBytes (s : State) (p : Nat) : Bytes :=
  let x := partAt s p
  let d := x.dir
  let body := be 4 d.seq ++ be 2 s.cart.writePass ++ be 1 p ++ be 1 0 ++ be 4 d.segs.length ++ be 4 d.lofts.length
    ++ be 4 d.relocs.length ++ fit (slice (partEntry x) 32 18) 44 ++ partEntries s ++ zoneTable s ++ keepOutLists s
    ++ d.segs.flatMap segBytes ++ d.lofts.flatMap loftBytes ++ d.relocs.flatMap relocBytes
  body ++ be 4 (crc32 body)

/-- n entries of a size from an offset. -/
def entries {α : Type} (b : Bytes) (off size n : Nat) (f : Bytes → α) : List α :=
  (List.range n).map fun i => f (slice b (off + size * i) size)

/-- What a directory user area holds: the directory, the partition entry fields of its header, the pages; none when its
CRC or write pass fails. -/
structure DirRead where
  dir : Directory
  writePass : Nat
  part : Nat
  table : List Part
  zone : AMap (Nat × Bool × Bool × Nat × Nat)
  spans : AMap (List (Nat × Nat × Bool))
  eod : Bytes
  deriving DecidableEq, Repr

def parseSpans (b : Bytes) : AMap (List (Nat × Nat × Bool)) :=
  (List.range 4).map fun i => (i, ((entries b (8192 * i) 8 1024 spanParse).filter fun x => decide (0 < x.2.1)))

def parseZone (b : Bytes) : AMap (Nat × Bool × Bool × Nat × Nat) := (List.range 192).map fun w => (w, zoneParse (slice b (8 * w) 8))

def directoryParse (b : Bytes) : Option DirRead :=
  let n := beAt b 8 4
  let m := beAt b 12 4
  let k := beAt b 16 4
  let base := 64 + 512 + 1536 + 32768
  let stop := base + 16 * (n + m + k)
  if 65536 < n ∨ 65536 < k ∨ b.length < stop + 4 ∨ beAt b stop 4 ≠ crc32 (b.take stop) then none
  else
    some {
      dir := {
        seq := beAt b 0 4
        segs := entries b base 16 n segParse
        lofts := entries b (base + 16 * n) 16 m loftParse
        relocs := entries b (base + 16 * (n + m)) 16 k relocParse }
      writePass := beAt b 4 2
      part := beAt b 6 1
      table := entries b 64 128 4 partParse
      zone := parseZone (slice b 576 1536)
      spans := parseSpans (slice b 2112 32768)
      eod := slice b 20 18 }

/-- The user data set number after one, as Lofts fill (R157, R176). -/
def nextUserNo (ds : Nat) : Nat := if ds % 32 < 29 then ds + 1 else 32 * (ds / 32 + 1)

/-- The latest segment whose first Record Number is at most n (R165). -/
def segmentOf (d : Directory) (n : Nat) : Option Seg := (d.segs.filter fun g => decide (g.first ≤ n)).getLast?

end Sys2Proof.Machine
end

