-- ==== Sys2Proof/Machine/Bri.lean ====
section
/-!
DEFINITION. The Buffer Record Index and what rests on it (02, 03): admitted writes and their packets, durability levels
and watermarks, the exposure, commands that end, Gate locks, deferred errors.
-/

namespace Sys2Proof.Machine

/-! ## Commands -/

def setCmds (cs : List Cmd) (s : State) : State := { s with hq := { s.hq with cmds := cs } }

def findCmd (s : State) (seq : Nat) : Option Cmd := s.hq.cmds.find? fun c => c.seq == seq

/-- Change the command of an acceptance sequence. -/
def updCmd (seq : Nat) (f : Cmd → Cmd) (s : State) : State := setCmds (modFirst (fun c => c.seq == seq) f s.hq.cmds) s

/-- Commands that end with KEY_ERASED or KEY_EXHAUSTED are counted (R139). -/
def countKey (status : Nat) (s : State) : State :=
  if status = Status.keyErased then inc 0x040028 s else if status = Status.keyExhausted then inc 0x040024 s else s

/-- A command reaches COMPLETING with a status and a result (R64). -/
def complete (seq status result : Nat) (s : State) : State :=
  countKey status (updCmd seq (fun c => { c with st := .completing, status := status, result := result }) s)

/-- Opcodes of the writes (R54). -/
def isWriteOp (op : Nat) : Bool := op == 0x01 || op == 0x05 || op == 0x0E

/-! ## Writes -/

def setWrites (ws : List Write) (s : State) : State := { s with hq := { s.hq with writes := ws } }

def findWrite (s : State) (seq : Nat) : Option Write := s.hq.writes.find? fun w => w.seq == seq

def updWrite (seq : Nat) (f : Write → Write) (s : State) : State := setWrites (modFirst (fun w => w.seq == seq) f s.hq.writes) s

/-- Records of a write still live: those before the first superseded one (R89). -/
def Write.live (w : Write) : Nat := w.superFrom.getD w.recs.length

/-- Index of the last packet of a record. -/
def Rec.lastPkt (r : Rec) : Nat := if 65536 ≤ r.len then r.pkt + (ceilDiv r.len 262144 - 1) else r.pkt

/-- Packets that a live record begins in or crosses (R55). -/
def Write.livePkts (w : Write) : Nat :=
  match w.recs[w.live - 1]? with
  | some r => if w.live = 0 then 0 else r.lastPkt + 1
  | none => 0

/-- Bytes that packets a to b - 1 fill in the packet Stable, each with the descriptors ahead of its header (R96). -/
def Write.placedSum (w : Write) (a b : Nat) : Nat := ((w.pkts.take b).drop a).foldl (fun n p => n + p.stored.length) 0

/-- The stored length of packet i (R100): from its header to the next packet's header; the last one's without descriptors. -/
def Write.storedLen (w : Write) (i : Nat) : Nat :=
  match w.pkts[i]? with
  | some k => k.stored.length - k.lead + ((w.pkts[i + 1]?).map Pkt.lead).getD 0
  | none => 0

/-- Stored lengths of packets a to b - 1 (R90). -/
def Write.storedSum (w : Write) (a b : Nat) : Nat := ((List.range b).drop a).foldl (fun n i => n + w.storedLen i) 0

/-- The data set and user byte offset n bytes on from a place, user data sets only (R90, R157). -/
def placeOn : Nat → Nat → Nat → Nat × Nat
  | 0, ds, n => (ds, n)
  | f + 1, ds, n => if n < userArea then (ds, n) else placeOn f (nextUserNo ds) (n - userArea)

/-- Where the header of packet i lies on tape (R90, R100); data set 0, byte 0 before the write is formatted (DESIGN CHOICE,
log entry 92). -/
def Write.tapePlace (w : Write) (i : Nat) : Nat × Nat := placeOn 600 w.tapeDs (w.tapeOff + w.storedSum 0 i)

/-- Every packet has passed the cipher. -/
def Write.passed (w : Write) : Bool := w.pkts.all fun k => k.st == .stored

/-- Data sets that hold bytes of packet i of a write, from its first descriptor to its tag. -/
def pktSets (w : Write) (i : Nat) : Nat × Nat :=
  let a := w.firstOff + w.placedSum 0 i
  ((placeOn 600 w.firstDs a).1, (placeOn 600 w.firstDs (a + w.placedSum i (i + 1) - 1)).1)

/-- A data set of a partition is complete on tape, its Loft closed or still open. -/
def setOnTape (x : Part) (ds : Nat) : Bool := mem? x.closed (ds / 32) || (AMap.get? x.done ds).isSome

/-- Whether a packet is in flight (R90): its copy into the Shed is under way, or it is on its way to tape, taken by the
formatter and in a data set that is not yet complete there (DEDUCED, log entry 93). -/
def inFlight (s : State) (w : Write) (i : Nat) : Bool :=
  decide (w.sheltered ≤ i ∧ i < w.copied)
    || (decide (w.laid ≤ i ∧ i < w.formatted)
        && let r := pktSets w i; !(setOnTape (partAt s w.part) r.1 && setOnTape (partAt s w.part) r.2))

/-- Whether a packet has a copy to read: in the buffer unless that copy is taken as gone, in the Shed, or on tape (R90). -/
def Write.hasCopy (w : Write) (gone : Bool) (i : Nat) : Bool :=
  (!gone && decide (w.freed ≤ i)) || decide (i < w.sheltered) || decide (i < w.laid)

/-- Requester ID of a port's host queues (R78). -/
def portReq : Port → Nat
  | .a => 0x00
  | .b => 0x04

/-- Who holds a write's ingress Stalls: its port's host queues, or the Shed controller's landing for a LAY_LANDING (R78). -/
def Write.ingressReq (w : Write) : Nat := if w.kind = .landing then 0x30 else portReq w.port

/-- A write enters the Buffer Record Index; the highest occupancy is kept (R75). -/
def indexWrite (w : Write) (s : State) : State :=
  { s with hq := { s.hq with writes := s.hq.writes ++ [w], briPeak := max s.hq.briPeak (s.hq.writes.length + 1) } }

/-- Change packet i of a write. -/
def Write.updPkt (w : Write) (i : Nat) (f : Pkt → Pkt) : Write := { w with pkts := w.pkts.modify i f }

/-- The number of the k-th write that a LOAD restores from the Shed: no acceptance sequence has it (R37, R336). -/
def restoredSeq (k : Nat) : Nat := 2 ^ 64 + k

/-- Acceptance order of two writes or commands; restored writes come before every accepted command (R37, R61). -/
def seqBefore (a b : Nat) : Bool := if 2 ^ 64 ≤ a then decide (b < 2 ^ 64 ∨ a < b) else decide (b < 2 ^ 64 ∧ a < b)

/-- The newest indexed version of a record that a command of an acceptance sequence sees (R61). -/
def versionFor (s : State) (part seq r : Nat) : Option Write :=
  (s.hq.writes.filter fun w => w.part == part && seqBefore w.seq seq && decide (w.first ≤ r ∧ r < w.first + w.recs.length)).getLast?

/-! ## Levels (R24) and watermarks (R49, R59) -/

inductive Level where | taken | sheltered | laid | safe
  deriving DecidableEq, Repr

/-- Packets of a write at a level; none is Taken before all are (R65). -/
def Write.atLevel (w : Write) : Level → Nat
  | .taken => if w.taken then w.pkts.length else 0
  | .sheltered => if w.taken then w.sheltered else 0
  | .laid => w.laid
  | .safe => w.safe

def Part.mark (x : Part) : Level → Nat
  | .taken => x.takenMark
  | .sheltered => x.shelteredMark
  | .laid => x.laidMark
  | .safe => x.safeMark

/-- Records of a write from its first on whose packets are all below k. -/
def recsBelow (k : Nat) : List Rec → Nat
  | [] => 0
  | r :: rs => if r.lastPkt < k then recsBelow k rs + 1 else 0

/-- How far a mark moves: through each live write that holds it, while its packets are at the level. -/
def advance (ws : List Write) (l : Level) : Nat → Nat → Nat
  | 0, m => m
  | f + 1, m =>
    match ws.find? fun w => decide (w.first ≤ m ∧ m < w.first + w.live) with
    | none => m
    | some w =>
      let r := min (recsBelow (w.atLevel l) w.recs) w.live
      if w.first + r ≤ m then m
      else if r < w.live then w.first + r
      else advance ws l f (w.first + r)

/-- Bring the marks of a partition up to date. -/
def refreshMarks (p : Nat) (s : State) : State :=
  let ws := s.hq.writes.filter fun w => w.part == p
  let f := ws.length + 1
  updPart p (fun x => { x with
    takenMark := advance ws .taken f x.takenMark
    shelteredMark := advance ws .sheltered f x.shelteredMark
    laidMark := advance ws .laid f x.laidMark
    safeMark := advance ws .safe f x.safeMark }) s

/-! ## The exposure (R27) -/

/-- Stored bytes that the cipher has placed in the packet Stable and that are not yet Sheltered. -/
def exposure (s : State) : Nat := s.hq.writes.foldl (fun n w => n + w.placedSum w.sheltered w.pkts.length) 0

def exposureLimit (s : State) : Nat := Cfgw.exposureMiB s * 1048576

/-- Stored bytes of a partition's Taken data not yet formatted into a data set (R56). -/
def unformatted (s : State) (p : Nat) : Nat :=
  s.hq.writes.foldl (fun n w => if w.part == p && w.taken then n + w.placedSum w.formatted w.livePkts else n) 0

/-! ## Record table granules (R91) -/

/-- Granules of a write's record table: one for each 512 records, and a Stall's 64 at most (log entry 12). -/
def granulesFor (records : Nat) : Nat := min 64 (ceilDiv records 512)

def granMask (i n : Nat) : Nat := (2 ^ n - 1) * 2 ^ i

/-- n consecutive free granules of a Stall's 64. -/
def freeGranule (map n : Nat) : Option Nat := (List.range (65 - n)).find? fun i => (map &&& granMask i n) == 0

/-- The granules of a management Stall in use, with its generation. -/
def setGranules (st gen m : Nat) (s : State) : State :=
  { s with stk := { s.stk with granules := AMap.set s.stk.granules st (gen, m) } }

/-- Place a record table: in a management Stall in use with room, or in a new one (log entry 10), which is waited for as any
other (R83). -/
def takeGranules (n : Nat) (s : State) : Option (Nat × Nat) × State :=
  match s.stk.granules.findSome? fun (st, g, m) => (freeGranule m n).map fun i => (st, g, i, m) with
  | some (st, g, i, m) => (some (st, i), setGranules st g (m ||| granMask i n) s)
  | none =>
    match acquireOne 0x34 7 s with
    | (none, s1) => (none, s1)
    | (some (st, g), s1) => (some (st, 0), setGranules st g (granMask 0 n) s1)

/-- Release a record table; the Stall is freed with its last granule. -/
def dropGranules (st i n : Nat) (s : State) : State :=
  match AMap.get? s.stk.granules st with
  | none => s
  | some (g, m) =>
    let left := m - (m &&& granMask i n)
    if left = 0 then giveBack 0x34 (st, g) { s with stk := { s.stk with granules := AMap.erase s.stk.granules st } }
    else setGranules st g left s

/-! ## Packet Stalls (R90) -/

/-- Free whole Stalls from the chain head while no packet still needed begins in them. -/
def freeChainHead : Nat → Write → State → Write × State
  | 0, w, s => (w, s)
  | f + 1, w, s =>
    match w.chain with
    | [] => (w, s)
    | h :: rest =>
      if 262144 ≤ w.headOff ∨ w.freed = w.pkts.length then
        freeChainHead f { w with chain := rest, headOff := w.headOff - 262144 } (giveBack 0x08 h s)
      else (w, s)

/-- The buffer copies of a write's packets below k are freed. -/
def freePackets (seq k : Nat) (s : State) : State :=
  match findWrite s seq with
  | none => s
  | some w =>
    if k ≤ w.freed then s
    else
      let r := freeChainHead (w.chain.length + 1) { w with freed := k, headOff := w.headOff + w.placedSum w.freed k } s
      updWrite seq (fun _ => r.1) r.2

/-- Retire an entry (R61): its granules and what buffer it still holds are released. -/
def retire (seq : Nat) (s : State) : State :=
  match findWrite s seq with
  | none => s
  | some w =>
    let s1 := each (giveBack 0x08) w.chain s
    let s2 := if w.placed then dropGranules w.recStall w.granule (granulesFor w.recs.length) s1 else s1
    setWrites (s2.hq.writes.filter fun x => x.seq != seq) s2

/-! ## Gate locks (R62, R63) -/

/-- A lock for a read on record r of a write; it pins the Stalls of the write's buffer copy. When a pin is refused the Gate
table takes that copy as gone, and the read decides again (R87). -/
def lockFor (seq r : Nat) (w : Write) (s : State) : State :=
  let pins := w.chain.filter (pinTaken s)
  let s1 := { s with hq := { s.hq with gates := s.hq.gates ++ [⟨seq, w.seq, w.part, r, 1, pins⟩] } }
  let s2 := each (fun (h : Handle) s => pin h.1 h.2 s) pins s1
  if pins.length = w.chain.length then s2
  else updCmd seq (fun c => { c with gone := w.seq :: c.gone }) s2

/-- Release the locks that a test picks; an unpin follows each pin that was taken. -/
def unlock (p : Gate → Bool) (s : State) : State :=
  let out := s.hq.gates.filter p
  each (fun g s => each (fun h s => unpin h.1 s) g.pins s) out
    { s with hq := { s.hq with gates := s.hq.gates.filter fun g => !p g } }

def gateFree (s : State) : Bool := decide (s.hq.gates.length < 1024)

/-! ## Ending writes (R64, R65, R68) -/

/-- What a write's packets hold before the cipher is given up: ingress Stalls, and engines that had finished them; an
engine still at work discards its packet when it finishes (R109). -/
def dropPackets (w : Write) (s : State) : State :=
  let s1 := each (fun (p : Pkt) s => match p.ingress with | some h => giveBack w.ingressReq h s | none => s) w.pkts s
  { s1 with cmp := { s1.cmp with engines := s1.cmp.engines.map fun (i, e) =>
      match e.job with
      | .done q _ => (i, if q == w.seq then { e with job := .idle, input := [] } else e)
      | _ => (i, e) } }

/-- The Shed's copies of a write that are not Sheltered yet are forgotten. -/
def forgetCopied (seq : Nat) (s : State) : State :=
  { s with shd := { s.shd with copied := s.shd.copied.filter fun c => c.seq != seq } }

/-- So is its packet that the cipher holds. -/
def forgetHeld (seq : Nat) (s : State) : State := { s with cip := { s.cip with held := s.cip.held.filter fun h => h.1 != seq } }

/-- One write ends without being Taken: Stalls freed, entry retired, accepted end back at its first record. -/
def rollback (w : Write) (s : State) : State :=
  let s1 := forgetHeld w.seq (forgetCopied w.seq (retire w.seq (dropPackets w (unpinKey w.seq s))))
  let s2 := updPart w.part (fun x => { x with acceptedEnd := min x.acceptedEnd w.first }) s1
  setCmds (s2.hq.cmds.map fun c =>
    if c.seq > w.seq ∧ c.e.partition = w.part then
      { c with endSeen := min c.endSeen w.first,
               covers := c.covers.map fun (p, e) => if p == w.part then (p, min e w.first) else (p, e) }
    else { c with covers := c.covers.map fun (p, e) => if p == w.part then (p, min e w.first) else (p, e) }) s2

/-- The command that a write's end completes, if it is still in its table. -/
def endCmd (seq status : Nat) (cascade : Bool) (result : Nat) (s : State) : State :=
  countKey status (updCmd seq (fun c => { c with st := .completing, status := status, cascade := cascade, result := result }) s)

/-- Every later write of a partition that is not yet Taken ends with the write `seq` (R68): those in the index, and those
accepted and still to be checked. -/
def cascade (p seq first status : Nat) (s : State) : State :=
  let later := s.hq.writes.filter fun x => x.part == p && x.seq > seq && !x.taken
  let queued := (s.hq.cmds.filter fun c => c.seq > seq && c.ring != 32 && c.st == .fetched && isWriteOp c.e.opcode && c.e.partition == p).map Cmd.seq
  let s1 := each (fun (x : Write) s => endCmd x.seq status true first (rollback x s)) later s
  refreshMarks p (each (fun q s => endCmd q status true first s) queued s1)

/-- A write ends without being Taken with a status; every later untaken write of its partition ends with it (R68). -/
def endWrite (seq status : Nat) (s : State) : State :=
  match findWrite s seq with
  | none => s
  | some w => if w.taken then s else cascade w.part seq w.first status (endCmd seq status false 0 (rollback w s))

/-- A write command ends before it is Taken, whether or not it has its index entry yet (R64, R68). -/
def endWriteCmd (c : Cmd) (status : Nat) (s : State) : State :=
  if (findWrite s c.seq).isSome then endWrite c.seq status s
  else if c.st = .fetched then cascade c.e.partition c.seq c.e.position status (endCmd c.seq status false 0 s)
  else s

/-- A write of a data ring. -/
def Cmd.isWrite (c : Cmd) : Bool := c.ring != 32 && isWriteOp c.e.opcode

/-! ## Deferred errors (R66, R67) -/

/-- Add an error to a pending list of at most 16; a further one is merged into the newest, which keeps its cause. -/
def pushDefer (e : DeferErr) (l : List DeferErr) : List DeferErr :=
  if l.length < 16 then l ++ [e]
  else
    match l.getLast? with
    | none => [e]
    | some n =>
      let lo := min n.first e.first
      l.dropLast ++ [{ n with first := lo, count := max (n.first + n.count) (e.first + e.count) - lo, ords := n.ords ++ e.ords }]

/-- A deferred error: logged, pending for its partition, posted to MB_MGT. -/
def deferError (p first count cause version : Nat) (s : State) : State :=
  let e : DeferErr := ⟨first, count, cause, p, version, s.srv.clock, s.hq.acceptSeq, [s.hq.deferLog.length]⟩
  let s1 := updPart p (fun x => { x with defers := pushDefer e x.defers, fails := x.fails ++ [e] }) s
  let s2 := { s1 with hq := { s1.hq with deferLog := s1.hq.deferLog ++ [⟨e, false⟩] } }
  postEvent Src.hostq 0x01 0x02 false (first % 2 ^ 48 + p % 4 * 2 ^ 48) s2

/-- The log entries of a carried error, its own and those merged into it, become carried (R67). -/
def markCarried (e : DeferErr) (l : List DeferLog) : List DeferLog :=
  l.zipIdx.map fun (x, i) => if e.ords.contains i then { x with carried := true } else x

/-- Opcodes whose completions carry a partition's deferred errors (R66). -/
def carriesDefers (op : Nat) : Bool := [0x01, 0x02, 0x03, 0x04, 0x05, 0x06, 0x0E].contains op

/-- A command whose completion carries the deferred errors of a partition. -/
def Cmd.carries (c : Cmd) (p : Nat) : Bool := c.ring != 32 && carriesDefers c.e.opcode && c.e.partition == p

/-- Which pending error each carrying command takes (R66): commands in acceptance order, each the oldest error not yet taken
that was recorded before it was accepted. -/
def assignDefers : List Cmd → List DeferErr → List (Nat × DeferErr)
  | [], _ => []
  | c :: cs, es =>
    match es with
    | [] => []
    | e :: es' => if e.recorded ≤ c.seq then (c.seq, e) :: assignDefers cs es' else assignDefers cs (e :: es')

end Sys2Proof.Machine
end

