-- ==== Sys2Proof/Machine/HostQ.lean ====
section
/-!
DEFINITION. Host ports, rings, doorbells, fetch, completion and the resets over queued commands (02).
-/

namespace Sys2Proof.Machine

/-! ## Rings (R31 to R35, R471) -/

def portIdx : Port → Nat
  | .a => 0
  | .b => 1

def ringKey (p : Port) (n : Nat) : Nat := portIdx p * 64 + n

def ringAt (s : State) (p : Port) (n : Nat) : Ring := AMap.getD s.hq.rings (ringKey p n) {}

def setRing (p : Port) (n : Nat) (x : Ring) (s : State) : State :=
  { s with hq := { s.hq with rings := AMap.set s.hq.rings (ringKey p n) x } }

def updRing (p : Port) (n : Nat) (f : Ring → Ring) (s : State) : State := setRing p n (f (ringAt s p n)) s

def portOf (s : State) : Port → PciePort
  | .a => s.hq.portA
  | .b => s.hq.portB

def setPort (p : Port) (x : PciePort) (s : State) : State :=
  match p with
  | .a => { s with hq := { s.hq with portA := x } }
  | .b => { s with hq := { s.hq with portB := x } }

/-- A command fetched from the ring pair has not yet had its completion written (R471). -/
def outstanding (s : State) (p : Port) (n : Nat) : Bool := s.hq.cmds.any fun c => c.port == p && c.ring == n

/-- Size of the ring while it runs: the size read at its enable. -/
def runSize (x : Ring) : Nat := x.liveSize

/-- New entries between the fetch pointer and the tail. -/
def newEntries (x : Ring) : Nat := if runSize x = 0 then 0 else (x.tail + runSize x - x.sqHead) % runSize x

/-- Written completion entries not yet released. -/
def unreleased (x : Ring) : Nat := if runSize x = 0 then 0 else (x.cqTail + runSize x - x.cqHead) % runSize x

/-- A completion ring keeps one slot unwritten (R34). -/
def cqFull (x : Ring) : Bool := decide (runSize x ≤ unreleased x + 1)

/-- A doorbell write is rejected: counted and posted (R33, R425). -/
def rejectDoorbell (p : Port) (n : Nat) (s : State) : State :=
  postEvent Src.hostq 0x01 0x01 false (n % 64 + portIdx p * 256) (inc 0x010004 s)

/-- In service: after D5 (R398). -/
def inService (s : State) : Bool := s.cfg.st == .service

/-- A submission tail doorbell (R33): of an enabled ring, its index below the ring size. A tail equal to the fetch pointer has
no effect. -/
def sqTail (p : Port) (ring value : Nat) (s : State) : State :=
  let x := ringAt s p ring
  let i := bits value 9 0
  if x.enable = false ∨ runSize x ≤ i then rejectDoorbell p ring s
  else if i = x.sqHead then s
  else setRing p ring { x with tail := i } s

/-- A completion head doorbell (R33, R34): releases slots up to the written head; taken also for a disabled ring whose
`outstanding` bit is set. -/
def cqHead (p : Port) (ring value : Nat) (s : State) : State :=
  let x := ringAt s p ring
  let i := bits value 9 0
  if (x.enable = false ∧ outstanding s p ring = false) ∨ runSize x ≤ i then rejectDoorbell p ring s
  else setRing p ring { x with cqHead := i } s

/-- A submission tail doorbell of a port whose functions are on (R33). -/
def ringTail (p : Port) (ring value : Nat) (s : State) : State :=
  if (portOf s p).functionsOn = false ∨ 32 < ring then s else sqTail p ring value s

/-- A completion head doorbell of a port whose functions are on (R34). -/
def ringHead (p : Port) (ring value : Nat) (s : State) : State :=
  if (portOf s p).functionsOn = false ∨ 32 < ring then s else cqHead p ring value s

/-- SQ_TAIL_DOORBELL (R33): on the doorbell page for a data ring, in the HQ block for ring 32 (R32). -/
def execSqTailDoorbell (p : Port) (ring value : Nat) (s : State) : Out :=
  go (ringTail p ring value s)

/-- CQ_HEAD_DOORBELL (R33, R34). -/
def execCqHeadDoorbell (p : Port) (ring value : Nat) (s : State) : Out :=
  go (ringHead p ring value s)

/-- The doorbell at an offset of a port's PF0 page (R32): its ring, and whether it is the completion head. -/
def doorbellAt (off : Nat) : Option (Nat × Bool) := if off < 256 ∧ off % 4 = 0 then some (off / 8, off % 8 == 4) else none

/-- A 32-bit write to the doorbell page. -/
def ringDoorbell (p : Port) (off value : Nat) (s : State) : State :=
  match doorbellAt off with
  | some (n, true) => cqHead p n value s
  | some (n, false) => sqTail p n value s
  | none => s

/-- Why an enable is refused (R75): size, base, commands outstanding, or data rings not yet permitted. -/
def enableRefused (p : Port) (n : Nat) (s : State) : Bool :=
  let x := ringAt s p n
  decide (x.size < 2) || decide ((if n = 32 then 256 else 1024) < x.size) || decide (x.sqLo % 4096 ≠ 0) || decide (x.cqLo % 4096 ≠ 0)
    || outstanding s p n || (decide (n < 32) && !inService s)

/-- The 0-to-1 transition of `enable`: the ring pair starts afresh, or `enable_failed` sets (R471). -/
def enableRing (p : Port) (n : Nat) (s : State) : State :=
  let x := ringAt s p n
  if x.enable then s
  else if enableRefused p n s then setRing p n { x with enableFailed := true } s
  else setRing p n { x with enable := true, liveSize := x.size, sqBase := x.sqHi * 2 ^ 32 + x.sqLo,
                            cqBase := x.cqHi * 2 ^ 32 + x.cqLo, tail := 0, sqHead := 0, cqHead := 0, cqTail := 0,
                            phase := true, unsignalled := 0, resetting := false } s

/-- Clearing `enable` stops fetching and does nothing else (R471). -/
def disableRing (p : Port) (n : Nat) (s : State) : State := updRing p n (fun x => { x with enable := false }) s

/-- RING_ENABLE (R471). -/
def execRingEnable (p : Port) (ring : Nat) (s : State) : Out :=
  if (portOf s p).functionsOn = false ∨ 32 < ring then go s else go (enableRing p ring s)

/-- RING_DISABLE (R471). -/
def execRingDisable (p : Port) (ring : Nat) (s : State) : Out :=
  if (portOf s p).functionsOn = false ∨ 32 < ring then go s else go (disableRing p ring s)

/-! ## Interrupts (R35) -/

/-- Raise a function's MSI-X vector. -/
def raise (p : Port) (f vector : Nat) (s : State) : State :=
  { s with hq := { s.hq with msix := modAt s.hq.msix (portIdx p * 64 + f * 32 + vector) 0 (· + 1) } }

/-- The vector of a completion ring. -/
def raiseRing (p : Port) (n : Nat) (s : State) : State :=
  if n = 32 then raise p 1 0 s else raise p 0 (ringAt s p n).vector s

/-- PF1 vector 1: a new entry in the event log; on both ports (log entry 11). -/
def raiseLog (s : State) : State := raise .b 1 1 (raise .a 1 1 s)

/-- COALESCE_TIME_EXPIRY (R35): only with a time other than 0 and an unsignalled entry. -/
def execCoalesceTimeExpiry (p : Port) (ring : Nat) (s : State) : Out :=
  let x := ringAt s p ring
  if x.coalTime = 0 ∨ x.unsignalled = 0 then go s
  else go (raiseRing p ring (setRing p ring { x with unsignalled := 0 } s))

/-! ## Fetch (R36, R37, R39, R470) -/

/-- A submission entry read from its 64 bytes (R40). -/
def parseEntry (b : Bytes) : SqEntry :=
  { opcode := leAt b 0 1, flags := leAt b 1 1, tag := leAt b 2 2, partition := bits (leAt b 4 1) 1 0,
    keySlot := bits (leAt b 5 1) 6 0, headerLen := bits (leAt b 6 2) 8 0, position := leAt b 8 6, count := leAt b 16 4,
    length := leAt b 20 4, dataAddr := leAt b 24 8, auxAddr := leAt b 32 8, headerAddr := leAt b 40 8,
    listCount := leAt b 48 2, param := leAt b 52 4, hostLabel := leAt b 56 8 }

/-- Opcodes that a ring accepts (R44). -/
def accepts (ring op : Nat) : Bool :=
  if ring = 32 then
    [0x0A, 0x10, 0x11, 0x12, 0x80, 0x81, 0x82, 0x83, 0x84, 0x85, 0x86, 0x87, 0x88, 0x90, 0x91, 0x92, 0x93, 0x98, 0x99, 0x9A,
     0xA0, 0xA8, 0xB0, 0xB1, 0xB2, 0xB3, 0xB4].contains op
  else [0x01, 0x02, 0x03, 0x04, 0x05, 0x06, 0x07, 0x08, 0x09, 0x0A, 0x0B, 0x0C, 0x0D, 0x0E, 0x10, 0x11, 0x12].contains op

/-- Commands of a port's table of one kind: data or management. -/
def tableOf (s : State) (p : Port) (mgmt : Bool) : List Cmd := s.hq.cmds.filter fun c => c.port == p && (c.ring == 32) == mgmt

/-- Slots of a port's command table of one kind (R36). -/
def tableSize (mgmt : Bool) : Nat := if mgmt then 64 else 2048

/-- Whether the device state admits a command (R470 step 2, R400, R405); the status it completes with otherwise. -/
def stateRefuses (s : State) (e : SqEntry) : Option Nat :=
  let log1 := e.opcode == 0x10 && bits e.param 7 0 == 1
  match s.cfg.st with
  | .service => none
  | .hold => if e.opcode == 0x84 || e.opcode == 0x85 || log1 then none else some Status.notReady
  | .faulted => if [0x84, 0x85, 0x98, 0x99].contains e.opcode || log1 then none else some Status.notReady
  | _ => if e.opcode = 0x0A then some Status.abortUnavailable else some Status.notReady

/-- The Day core is saturated (R423). -/
def saturated (s : State) : Bool := decide (768 < s.boxes.mgt.length)

/-- The hint of a saturated Day core: 1,000 µs for each eight commands executing or queued, at least 100 µs (R423). -/
def busyHint (q : Nat) : Nat := if q = 0 then 100 else min (1000 * ceilDiv q 8) 65535

/-- Management commands executing or queued. -/
def mgmtQueued (s : State) : Nat := (s.hq.cmds.filter fun c => c.ring == 32 && c.st != .completing).length

/-- Accept one fetched entry: the acceptance sequence, then the checks of R470 up to the command's own, and R423. -/
def accept (p : Port) (n : Nat) (e : SqEntry) (s : State) : State :=
  let x := ringAt s p n
  let head := (x.sqHead + 1) % runSize x
  let dup := (tableOf s p (n == 32)).any fun c => c.e.tag == e.tag
  let c : Cmd := { port := p, ring := n, seq := s.hq.acceptSeq, sqHead := head, e := e }
  let d : Cmd × Bool :=
    if accepts n e.opcode = false then ({ c with st := .completing, status := Status.invalidOpcode }, false)
    else
      match stateRefuses s e with
      | some st => ({ c with st := .completing, status := st }, false)
      | none =>
        if dup then ({ c with st := .completing, status := Status.invalidField }, false)
        else if n = 32 ∧ saturated s = true ∧ ¬(e.opcode = 0x0A ∨ e.opcode = 0x10 ∨ e.opcode = 0x92) then
          ({ c with st := .completing, status := Status.busyRetry, result := busyHint (mgmtQueued s) }, true)
        else (c, false)
  let s1 := setRing p n { x with sqHead := head }
    { s with hq := { s.hq with acceptSeq := s.hq.acceptSeq + 1, cmds := s.hq.cmds ++ [d.1] } }
  if d.2 then inc 0x110108 s1 else s1

/-- Buffer Record Index entries in use or promised to fetched writes: a write is not fetched without one (R63). -/
def briClaims (s : State) : Nat :=
  s.hq.writes.length + (s.hq.cmds.filter fun c => c.st == .fetched && isWriteOp c.e.opcode).length

/-- Fetch entries in ring order while the table has a slot and a write has an index entry. -/
def fetchFrom (p : Port) (n : Nat) : Nat → List Bytes → State → State
  | 0, _, s => s
  | _, [], s => s
  | k + 1, b :: bs, s =>
    let e := parseEntry b
    if newEntries (ringAt s p n) = 0 ∨ tableSize (n == 32) ≤ (tableOf s p (n == 32)).length
        ∨ (isWriteOp e.opcode = true ∧ n ≠ 32 ∧ 32768 ≤ briClaims s) then s
    else fetchFrom p n k bs (accept p n e s)

/-- Whether a ring meets the conditions of R36 for a turn. -/
def ringReady (s : State) (p : Port) (n : Nat) : Bool :=
  let x := ringAt s p n
  x.enable && !x.resetting && decide (0 < newEntries x) && decide ((tableOf s p (n == 32)).length < tableSize (n == 32))

/-- The first ring of a port's rotation after its previous turn that is ready. -/
def turnRing (s : State) (p : Port) : Option Nat :=
  if (portOf s p).fetchEnable ∧ (portOf s p).functionsOn then
    ((List.range 33).map fun i => ((portOf s p).lastRing + 1 + i) % 33).find? fun n => ringReady s p n
  else none

def otherPort : Port → Port
  | .a => .b
  | .b => .a

/-- FETCH_TURN (R36, R37): the port whose turn it is, or the other when it has no ready ring. -/
def execFetchTurn (entries : List Bytes) (s : State) : Out :=
  if s.hq.stopFetch then go s
  else
    let p := s.hq.nextPort
    match turnRing s p with
    | some n => go (turn p n)
    | none =>
      match turnRing s (otherPort p) with
      | some n => go (turn (otherPort p) n)
      | none => go s
where
  turn (p : Port) (n : Nat) : State :=
    let s1 := fetchFrom p n 8 entries s
    let s2 := setPort p { portOf s1 p with lastRing := n } s1
    { s2 with hq := { s2.hq with nextPort := otherPort p } }

/-! ## Completion (R34, R43, R66, R67) -/

/-- Every deferred error not yet carried is dropped. -/
def dropDefers (s : State) : State := { s with parts := s.parts.map fun (p, x) => (p, { x with defers := [] }) }

/-- The pending deferred error that a command's completion carries, whether more are pending, and the state with it taken.
The completion of the next command to the partition accepted after an error was recorded carries the oldest (R66); UNLOAD
carries the oldest of any partition, after which the lists are emptied (R67). -/
def takeDefer (c : Cmd) (s : State) : Option DeferErr × Bool × State :=
  let p := c.e.partition
  let carry := fun (e : DeferErr) (s : State) => { s with hq := { s.hq with deferLog := markCarried e s.hq.deferLog } }
  if c.carries p then
    let es := (partAt s p).defers
    match (assignDefers (s.hq.cmds.filter fun d => d.carries p) es).find? fun x => x.1 == c.seq with
    | none => (none, false, s)
    | some (_, e) => (some e, decide (1 < es.length), carry e (updPart p (fun x => { x with defers := x.defers.erase e }) s))
  else if c.e.opcode = 0x08 ∧ c.ring ≠ 32 then
    match sortBy (fun e => e.ords.headD 0) (s.parts.flatMap fun (_, x) => x.defers) with
    | [] => (none, false, s)
    | e :: es => (some e, !es.isEmpty, carry e (dropDefers s))
  else (none, false, s)

/-- The 32 bytes of a completion entry (R43). -/
def completionBytes (c : Cmd) (d : Option DeferErr) (more early phase : Bool) : Bytes :=
  let flags := b2n d.isSome + 2 * b2n more + 4 * b2n c.caught + 8 * b2n c.markHit + 16 * b2n c.eodHit + 32 * b2n early
    + 64 * b2n c.cascade
  le 2 c.e.tag ++ le 2 c.status ++ le 2 (c.sqHead % 1024) ++ le 1 c.ring ++ le 1 flags ++ le 8 c.result
  ++ (match d with
      | some e => le 6 e.first ++ le 2 0 ++ le 4 e.count ++ le 2 e.cause
      | none => zeros 14)
  ++ le 1 0 ++ le 1 (b2n phase)

/-- One more entry written to a completion ring: index and phase move on, and the vector is raised as R35 says. -/
def afterEntry (p : Port) (n : Nat) (s : State) : State :=
  let x := ringAt s p n
  let t := (x.cqTail + 1) % runSize x
  let u := x.unsignalled + 1
  let signal := decide (x.coalCount ≤ u)
  let s1 := setRing p n { x with cqTail := t, phase := if t = 0 then !x.phase else x.phase,
                                 unsignalled := if signal then 0 else u } s
  if signal then raiseRing p n s1 else s1

/-- The commands that an activation held run before its completion is posted (R429 step 7): `endSeen` is the next
acceptance sequence at the swap. -/
def heldAhead (s : State) (c : Cmd) : Bool :=
  c.ring == 32 && c.e.opcode == 0x88 && s.hq.cmds.any fun d => d.ring == 32 && d.st == .fetched && decide (d.seq < c.endSeen)

/-- An ABORT completes after the command that it caught (R70). -/
def targetAhead (s : State) (c : Cmd) : Bool := c.waitFor.any fun q => (findCmd s q).isSome

/-- COMPLETION_WRITE (R34): a completing command whose completion ring has a released slot. -/
def execCompletionWrite (seq : Nat) (s : State) : Out :=
  match findCmd s seq with
  | none => go s
  | some c =>
    let x := ringAt s c.port c.ring
    if c.st ≠ .completing ∨ cqFull x = true ∨ s.cfg.dusk.isSome ∨ heldAhead s c = true ∨ targetAhead s c = true then go s
    else
      let r := takeDefer c s
      let early := isWriteOp c.e.opcode && c.ring != 32 && loaded s && earlyWarning s c.e.partition
      let s1 := hostWrite (x.cqBase + 32 * x.cqTail) (completionBytes c r.1 r.2.1 early x.phase) r.2.2
      go (afterEntry c.port c.ring (setCmds (s1.hq.cmds.filter fun y => y.seq != seq) s1))

/-! ## Resets over queued commands (R71, R72, R416) -/

/-- An open set goes when its owner's management ring is reset (R416). -/
def dropOpenSet (p : Port) (s : State) : State :=
  match s.cfg.openSet with
  | some (q, _) => if q = p then { s with cfg := { s.cfg with openSet := none } } else s
  | none => s

/-- A command of a ring that resets ends, unless the end of another has already completed it (R68, R71). -/
def abortOne (c : Cmd) (s : State) : State :=
  let s1 := unlock (fun g => g.seq == c.seq) s
  if (findCmd s1 c.seq).any fun d => d.st == .completing then s1
  else if c.isWrite then endWriteCmd c Status.abortedByReset s1 else complete c.seq Status.abortedByReset 0 s1

/-- Waiting commands of a ring complete with ABORTED_BY_RESET, and their locks go; a waiting write ends under R64 and R68, and
one that has ended with an earlier write has its completion already. -/
def abortWaiting (p : Port) (n : Nat) (s : State) : State :=
  each abortOne
    (s.hq.cmds.filter fun c => c.port == p && c.ring == n && (c.st == .fetched || c.st == .admitted || c.st == .gated)) s

/-- Setting `reset` in HQ_RING_CTRL (R71). -/
def resetRing (p : Port) (n : Nat) (s : State) : State :=
  let s1 := updRing p n (fun x => { x with resetting := true }) s
  let s2 := abortWaiting p n s1
  if n = 32 then dropOpenSet p s2 else s2

/-- QUEUE_RESET (R71). -/
def execQueueReset (p : Port) (ring : Nat) (s : State) : Out :=
  if (portOf s p).functionsOn = false ∨ 32 < ring then go s else go (resetRing p ring s)

/-- QUEUE_RESET_DONE (R71): the last command of the ring has posted; indices and phase return to their enabled state. -/
def execQueueResetDone (p : Port) (ring : Nat) (s : State) : Out :=
  let x := ringAt s p ring
  if x.resetting = false ∨ outstanding s p ring = true then go s
  else go (setRing p ring { x with resetting := false, resetDone := true, tail := 0, sqHead := 0, cqHead := 0, cqTail := 0,
                                   phase := true, unsignalled := 0 } s)

/-- Commands that a test picks leave the table without completion: writes end under R65 and R68 with ABORTED_BY_RESET, locks
and key pins go, an engine's read packet is given up. R72 names what becomes of waiting commands, writes and reads; a LOAD,
UNLOAD, FORMAT_PARTITIONS, LOCATE, SYNC or WRITE_LANDING that runs leaves the table in the same way, and what it has begun
on tape and in the Shed goes on (DESIGN CHOICE, log entry 88). -/
def dropCmds (pick : Cmd → Bool) (s : State) : State :=
  let out := s.hq.cmds.filter pick
  let seqs := out.map Cmd.seq
  let s1 := setCmds (s.hq.cmds.filter fun c => !pick c) s
  let s2 := each (fun (c : Cmd) s => if c.isWrite then endWriteCmd c Status.abortedByReset s else unpinKey c.seq s) out s1
  let s3 := unlock (fun g => seqs.contains g.seq) s2
  { s3 with cmp := { s3.cmp with engines := s3.cmp.engines.map fun (i, e) =>
      match e.job with
      | .read q => (i, if seqs.contains q then { e with job := .idle } else e)
      | _ => (i, e) } }

/-- Reset of a PCIe function's own settings. -/
def resetFn (p : Port) (f : Fn) (s : State) : State :=
  match f with
  | .pf0 => setPort p { portOf s p with pf0 := {} } s
  | .pf1 => setPort p { portOf s p with pf1 := {} } s

/-- FLR of PF0 (R72). -/
def flr0 (p : Port) (s : State) : State :=
  each (fun n s => updRing p n (fun x => { x with enable := false, resetting := false }) s) (List.range 32)
    (resetFn p .pf0 (dropCmds (fun c => c.port == p && c.ring != 32) s))

/-- FLR of PF1 (R72, R416). -/
def flr1 (p : Port) (s : State) : State :=
  dropOpenSet p (updRing p 32 (fun x => { x with enable := false, resetting := false })
    (resetFn p .pf1 (dropCmds (fun c => c.port == p && c.ring == 32) s)))

/-- Link down on a port: as FLR of both functions (R72). -/
def linkDownOf (p : Port) (s : State) : State :=
  let s1 := flr1 p (flr0 p s)
  setPort p { portOf s1 p with linkUp := false, linkSpeed := 0, linkWidth := 0 } s1

/-- FLR_PF0 (R72). -/
def execFlrPf0 (p : Port) (s : State) : Out := go (flr0 p s)

/-- FLR_PF1 (R72). -/
def execFlrPf1 (p : Port) (s : State) : Out := go (flr1 p s)

/-- LINK_DOWN (R72): the port trains its link again (R399). -/
def execLinkDown (p : Port) (s : State) : Out :=
  let s1 := linkDownOf p s
  go (setPort p { portOf s1 p with training := domOn s1 (22 + portIdx p) } s1)

/-- PERST_ASSERT (R447): as a link down, and no link while it lasts. -/
def execPerstAssert (p : Port) (s : State) : Out :=
  let s1 := linkDownOf p s
  go (setPort p { portOf s1 p with perst := true, training := false } s1)

/-- PERST_DEASSERT (R447): the port retrains under R399, which begins at the end of D0. -/
def execPerstDeassert (p : Port) (s : State) : Out :=
  let x := portOf s p
  if x.perst then go (setPort p { x with perst := false, training := domOn s (22 + portIdx p) && s.cfg.st != .reset && s.cfg.st != .d0 } s)
  else go s

/-- The committed PCIE record of a port (R410): bit 0 enable, [3:1] largest speed, bit 5 ASPM L1 permitted. -/
def pcieRec (s : State) (p : Port) : Option Nat := (findRec s.cfg.records 0x0006 (portIdx p)).bind fun r => r.words.head?

/-- The largest link speed that the committed configuration allows. -/
def maxSpeed (s : State) (p : Port) : Nat := match pcieRec s p with | some v => bits v 3 1 | none => 5

/-- PCIE_LINK_UP (R399): a training link comes up at a speed and width of R29. -/
def execPcieLinkUp (p : Port) (speed width : Nat) (s : State) : Out :=
  let x := portOf s p
  if x.training ∧ x.perst = false then
    go (setPort p { x with training := false, linkUp := true, linkSpeed := min speed (maxSpeed s p), linkWidth := width } s)
  else go s

/-- Device ID and class code of a function, and its MSI-X vectors (R30). -/
def fnDevice : Fn → Nat
  | .pf0 => 0x9128
  | .pf1 => 0x9129
def fnClass : Fn → Nat
  | .pf0 => 0x018000
  | .pf1 => 0x088000
def fnVectors : Fn → Nat
  | .pf0 => 32
  | .pf1 => 2

/-- Bytes of a function's BARs (R30); the others are not implemented. -/
def barBytes (f : Fn) (bar : Nat) : Nat :=
  if bar = 0 then (match f with | .pf0 => 0x10000 | .pf1 => 0x1000000) else if bar = 2 then 0x4000 else 0

/-- What a configuration request reads (R29, R30). -/
def cfgRead (x : PciePort) (f : Fn) : CfgReq → Option Nat
  | .vendorId => some (Config.vendorId % 65536)
  | .deviceId => some (fnDevice f)
  | .classCode => some (fnClass f)
  | .msixVectors => some (fnVectors f)
  | .linkSpeed => some x.linkSpeed
  | .linkWidth => some x.linkWidth
  | .barSize n => some (barBytes f n)
  | .maxPayload _ | .maxReadRequest _ | .power _ | .aspmL1 _ => none

/-- What a configuration request sets in a function: values that R29 does not list, and ASPM L1 where the configuration does
not permit it (R410), are not taken. -/
def cfgSet (permitted : Bool) (x : PcieFn) : CfgReq → PcieFn
  | .maxPayload n => if [128, 256, 512].contains n then { x with maxPayload := n } else x
  | .maxReadRequest n => if [128, 256, 512, 1024, 2048, 4096].contains n then { x with maxReadRequest := n } else x
  | .power d => { x with d3hot := d }
  | .aspmL1 on => { x with aspmL1 := on && permitted }
  | _ => x

/-- PCIE_CONFIG_REQUEST (R29, R30, R399): Retry Status until the functions are enabled, normally afterwards. -/
def execPcieConfigRequest (p : Port) (f : Fn) (req : CfgReq) (s : State) : Out :=
  let x := portOf s p
  if x.linkUp = false then go s
  else if x.functionsOn = false then go (setPort p { x with cfgRetry := some true, cfgAnswer := none } s)
  else
    let ok := match pcieRec s p with | some v => bit v 5 | none => false
    let y := { x with cfgRetry := some false, cfgAnswer := cfgRead x f req }
    go (setPort p (match f with
      | .pf0 => { y with pf0 := cfgSet ok x.pf0 req }
      | .pf1 => { y with pf1 := cfgSet ok x.pf1 req }) s)

end Sys2Proof.Machine
end

