-- ==== Sys2Proof/Machine/Sched.lean ====
section
/-!
DEFINITION. The position scheduler (R12, R275 to R277) and where row slots and data sets end on the Tape Clock.
-/

namespace Sys2Proof.Machine

/-- A ratio rounded to an integer where the spec does not say how (log entry 3). -/
def roundTo (num : Int) (den : Nat) : Int :=
  num.fdiv den + if num % (den : Int) = 0 then 0 else (b2n (Config.roundUp num den) : Int)

def updSrv (f : Srv → Srv) (s : State) : State := { s with srv := f s.srv }

/-! ## The scheduler -/

namespace Kind
def commit : Nat := 1
def density : Nat := 2
def windowClose : Nat := 3
def turnaround : Nat := 4
def windowOpen : Nat := 5
def split : Nat := 6
def rewriteArea : Nat := 7
def readWindow : Nat := 8
def settled : Nat := 9
end Kind

/-- Entries that each owner may hold (R276): sequencer, write and verify, read channels, Bridle, formatter, configuration
staging. -/
def schedShare (owner : Nat) : Nat := [1536, 768, 1024, 512, 240, 16].getD owner 0

def ownedBy (s : State) (owner : Nat) : Nat := (s.srv.sched.filter fun x => x.2.owner == owner).length

/-- Whether the Tape Clock, travelling in the entry's direction, has reached its position. -/
def reached (s : State) (pos : Nat) (dir : Bool) : Bool :=
  dir == s.srv.reverse && (if dir then decide (s.srv.clock ≤ pos) else decide (pos ≤ s.srv.clock))

/-- The lowest table index not in use. -/
def freeEntry (s : State) : Nat := ((List.range 4096).find? fun i => (AMap.get? s.srv.sched i).isNone).getD 0

/-- Post an entry; beyond the owner's share it is refused and counted (R276). Answers its index. -/
def postSched (kind owner pos : Nat) (dir : Bool) (recipient arg : Nat) (s : State) : Option Nat × State :=
  if schedShare owner ≤ ownedBy s owner then (none, inc 0x0C0110 s)
  else
    let i := freeEntry s
    let e : SchedEnt := ⟨pos, dir, kind, owner, recipient, arg, s.srv.schedOrd, s.srv.valid && reached s pos dir⟩
    let tab := AMap.set s.srv.sched i e
    (some i, updSrv (fun v => { v with sched := tab, schedOrd := v.schedOrd + 1, schedPeak := max v.schedPeak tab.length }) s)

/-- Post an entry whose index nobody keeps. -/
def schedule (kind owner pos : Nat) (dir : Bool) (arg : Nat) (s : State) : State := (postSched kind owner pos dir 0 arg s).2

def cancelSched (i : Nat) (s : State) : State := updSrv (fun v => { v with sched := AMap.erase v.sched i }) s

/-- Cancel every entry of a kind and owner. -/
def cancelKind (kind owner : Nat) (s : State) : State :=
  updSrv (fun v => { v with sched := v.sched.filter fun x => !(x.2.kind == kind && x.2.owner == owner) }) s

/-- Entry a is delivered before entry b on one clock update (R277). -/
def firesBefore (reverse : Bool) (a b : SchedEnt) : Bool :=
  if a.pos ≠ b.pos then (if reverse then decide (b.pos < a.pos) else decide (a.pos < b.pos))
  else if a.kind ≠ b.kind then decide (a.kind < b.kind)
  else if a.owner ≠ b.owner then decide (a.owner < b.owner)
  else decide (a.ord < b.ord)

/-- An entry that fires on the next delivery: its position is reached while the clock is valid. -/
def dueEntry (s : State) (e : SchedEnt) : Bool := s.srv.valid && reached s e.pos e.dir

/-- Whether entry i is the next to be delivered. -/
def firesNow (s : State) (i : Nat) : Option SchedEnt :=
  match AMap.get? s.srv.sched i with
  | none => none
  | some e => if dueEntry s e ∧ !(s.srv.sched.any fun x => dueEntry s x.2 && firesBefore s.srv.reverse x.2 e) then some e else none

/-- Entry i of a kind fires: it leaves the table, an entry fired at once is counted, and its effect follows. -/
def fire (kind i : Nat) (act : SchedEnt → State → State) (s : State) : State :=
  match firesNow s i with
  | none => s
  | some e =>
    if e.kind ≠ kind then s
    else
      let s1 := cancelSched i s
      act e (if e.late then inc 0x0C010C s1 else s1)

/-- The Tape Clock becomes valid: entries it has passed fire at once (R277). -/
def clockValid (s : State) : State :=
  if s.srv.valid then s
  else
    updSrv (fun v => { v with
      valid := true
      sched := v.sched.map fun (i, e) => (i, if reached s e.pos e.dir then { e with late := true } else e) }) s

/-! ## Places on a data set position (R148, R150, R153) -/

/-- The distance at which row slot k of a data set begun at pos begins; k = 396 is where its separator begins. -/
def slotPos (cls pos k : Nat) : List (Nat × Nat × Bool) → Nat → Nat
  | [], g => pos + k * rowU cls + g
  | (a, e, _) :: sp, g =>
    if e ≤ pos then slotPos cls pos k sp g
    else if pos + k * rowU cls + g ≤ a then pos + k * rowU cls + g
    else slotPos cls pos k sp (g + spanGrowth cls pos g a e)

/-- The data set position in progress. -/
def inProgress (s : State) : Option Placement := if s.wrv.windowOpen then s.wrv.placements.getLast? else none

/-- Where a placement's separator ends, as a Tape Clock value. -/
def placementEnd (s : State) (p : Placement) : Nat :=
  clockOf p.wrap (p.start + (dataSetLen p.cls p.start (spansOf s p.wrap) 0 (pitchU p.cls)).1)

/-- Whether a Tape Clock value lies ahead in the direction of travel. -/
def ahead (s : State) (c : Nat) : Bool := if s.srv.reverse then decide (c < s.srv.clock) else decide (s.srv.clock < c)

/-- Distance between two Tape Clock values. -/
def clockDist (a b : Nat) : Nat := (a - b) + (b - a)

/-- The next row slot boundary of a placement, its separator's beginning included. -/
def nextSlotClock (s : State) (p : Placement) : Nat :=
  let cs := (List.range 397).map fun k => clockOf p.wrap (slotPos p.cls p.start k (spansOf s p.wrap) 0)
  (cs.find? fun c => ahead s c).getD (placementEnd s p)

/-- A command or read recovery needs the tape: the write window closes at the end of the data set in progress (R221,
R253). -/
def needTape (s : State) : State :=
  match inProgress s with
  | none => s
  | some p =>
    if s.srv.sched.any fun x => x.2.kind == Kind.windowClose && x.2.owner == 0 then s
    else schedule Kind.windowClose 0 (placementEnd s p) s.srv.reverse 0 s

/-! ## Registers (R300) -/

/-- An entry as its four 32-bit words (R275). -/
def entryWords (e : SchedEnt) : List Nat :=
  [bits e.pos 31 0,
   bits e.pos 39 32 + b2n e.dir * 2 ^ 8 + e.kind % 32 * 2 ^ 9 + e.owner % 8 * 2 ^ 16 + e.recipient % 256 * 2 ^ 24,
   bits e.arg 31 0, bits e.arg 63 32]

/-- SRV_SCHED_SEL (R300): the entry is sampled at the write. -/
def schedSel (value : Nat) (s : State) : State :=
  let i := bits value 11 0
  let w := match AMap.get? s.srv.sched i with | some e => entryWords e | none => [0, 0, 0, 0]
  updSrv (fun v => { v with selEntry := i, selWords := w }) s

/-- SRV_SCHED_SEL, as the row of the register (R300). -/
def execSrvSchedSel (value : Nat) (s : State) : Out := go (schedSel value s)

/-- TAPE_CLOCK_READ_LATCH (R300): a read of `SRV_CLOCK_LO` latches bits [39:32]. -/
def execTapeClockReadLatch (s : State) : Out := go (updSrv (fun v => { v with clockHi := bits v.clock 39 32 }) s)

end Sys2Proof.Machine
end

