-- ==== Sys2Proof/Machine/Rch.lean ====
section
/-!
DEFINITION. Read channels and receive links (09): lock states, ensemble correction, equaliser taps, decimation, sync
windows, timing loop, equaliser and adaptation, link failures.
-/

namespace Sys2Proof.Machine

def updRch (f : Rch → Rch) (s : State) : State := { s with rch := f s.rch }

def chanAt (s : State) (p : Nat) : Chan := AMap.getD s.rch.chans p {}

def updChan (p : Nat) (f : Chan → Chan) (s : State) : State := updRch (fun r => { r with chans := modAt r.chans p {} f }) s

def rxAt (s : State) (k : Nat) : RxLink := AMap.getD s.rch.links k {}

def updRx (k : Nat) (f : RxLink → RxLink) (s : State) : State := updRch (fun r => { r with links := modAt r.links k {} f }) s

/-! ## Committed fields (R259) -/

def ensMin (s : State) : Nat := bits (Cfgw.rchWord s 0) 31 24
def keShift (s : State) : Nat := bits (Cfgw.rchWord s 0) 15 12
def resLimit (s : State) : Nat := bits (Cfgw.rchWord s 0) 11 0
def adaptEnable (s : State) : Bool := bit (Cfgw.rchWord s 1) 8
def tolSplit (s : State) : Nat := bits (Cfgw.rchWord s 2) 31 28
def tolMid (s : State) : Nat := bits (Cfgw.rchWord s 2) 27 24
def tolFwd (s : State) : Nat := bits (Cfgw.rchWord s 2) 23 20
def lockLossRows (s : State) : Nat := bits (Cfgw.rchWord s 2) 19 14
def acqWindow (s : State) : Nat := bits (Cfgw.rchWord s 2) 13 5
def syncWindow (s : State) : Nat := bits (Cfgw.rchWord s 2) 4 0
def yardEnable (s : State) : Bool := bit (Cfgw.rchWord s 4) 31
def loftEnable (s : State) : Bool := bit (Cfgw.rchWord s 4) 30
def recoverySlew (s : State) : Nat := bits (Cfgw.rchWord s 4) 23 19
def offsetNm (s : State) : Nat := bits (Cfgw.rchWord s 4) 18 11
def slowSpeed (s : State) : Nat := bits (Cfgw.rchWord s 4) 10 3
def rereadCount (s : State) : Nat := bits (Cfgw.rchWord s 4) 2 0
def reallocUnload (s : State) : Nat := bits (Cfgw.rchWord s 5) 15 8
def reallocWindow (s : State) : Nat := bits (Cfgw.rchWord s 5) 7 5
def weakC2 (s : State) : Nat := bits (Cfgw.rchWord s 5) 4 0

/-! ## Lock states (R232) -/

/-- Saturation of a 16-bit counter. -/
def sat16 (n : Nat) : Nat := min n 0xFFFF

/-- A channel enters ACQUIRING; entries are counted. -/
def toAcquiring (p : Nat) (s : State) : State :=
  updChan p (fun c => if c.lock = .acquiring then c else { c with lock := .acquiring, fwd := false, acquires := satAdd c.acquires 1 }) s

/-- Every channel enters ACQUIRING, as the tape is repositioned. -/
def allAcquiring (s : State) : State := each toAcquiring (List.range 132) s

/-- The receive link that carries a physical channel (R225). -/
def linkOf (p : Nat) : Nat := if p < 128 then p / 32 else p - 128

/-- Tolerance of a pattern in bits (R238). -/
def tolerance (s : State) : SyncKind → Nat
  | .forward => tolFwd s
  | .mid => tolMid s
  | .split => tolSplit s

/-- Half-width of a pattern's window; none when it is unbounded. -/
def windowOf (s : State) (c : Chan) : SyncKind → Option Nat
  | .split => some 256
  | _ =>
    match c.lock with
    | .locked => some (syncWindow s)
    | .flywheel => some (min (syncWindow s + 2 * c.missed) (acqWindow s))
    | .acquiring => if s.srv.valid then some (acqWindow s) else none

/-- Channel bits n of the class in force, in units of length. -/
def bitsU (s : State) (n : Nat) : Nat := n * bitU s.rch.cls

/-- Where search is made for a pattern (R193, R238): a split resync only within 256 channel bits of the end of a span of the
keep-out list; a forward sync or mid resync not from a split point to the end of its split resync. -/
def searchedAt (s : State) (o : SyncObs) : Bool :=
  let d := distOf s.srv.wrap o.pos
  let sp := splitsAt s s.srv.wrap d
  match o.kind with
  | .split => sp.any fun x => decide (x.2 ≤ d + bitsU s 256 ∧ d ≤ x.2 + bitsU s 256)
  | _ => !(sp.any fun x => decide (x.1 ≤ d ∧ d < x.2 + bitsU s 64))

/-- A pattern that search takes: where it is sought, in its window, within its tolerance (R238, R239). -/
def syncTaken (s : State) (c : Chan) (o : SyncObs) : Bool :=
  searchedAt s o && decide (o.errors ≤ tolerance s o.kind) &&
    match windowOf s c o.kind with
    | some w => decide (o.offset.natAbs ≤ w)
    | none => true

/-- Samples per bit times 25 · unitNm · speed, and that factor (R229, R230): the pre-decimator ratio follows it. -/
def decimationStep (s : State) (d : Nat) : Nat :=
  let v := s.srv.speed.natAbs
  let rho := 8 * bitU s.rch.cls * 65536 * (65536000000 + s.rch.delta).toNat
  let one := 25 * unitNm * v * 65536000000
  if v = 0 then d
  else if d < 3 ∧ one * 2 ^ d * 22 ≤ rho * 10 then d + 1
  else if 0 < d ∧ rho < one * 2 ^ d then d - 1
  else d

/-- Mean of the squared differences over the last 4,096 bits (R260). -/
def meanError (errs : List Nat) : Nat := if errs = [] then 0 else min 65535 (errs.foldl (· + ·) 0 / errs.length)

/-! ## Equaliser, timing loop and adaptation (R231, R233, R234; units in log entry 118) -/

/-- Shifts, residual limit, gain, and the reliability from which taps adapt (none while adaptation is frozen) of one stretch of
bits. -/
structure LoopCfg where
  target : List Int
  kp : Nat
  ki : Nat
  mu : Nat
  relShift : Nat
  limit : Nat
  gain : Int
  adaptFrom : Option Nat
  deriving DecidableEq, Repr

/-- A channel's loops between two bits: taps, paths of the detector, the latest equaliser outputs and tentative
decisions, latest first, timing errors taken so far in 1/256, residual in ppm · 256 · 2^ki, and the squared errors, latest first. -/
structure LoopSt where
  taps : List Int
  paths : List Survivor
  outs : List Int
  decided : List Bool
  drift : Int
  residual : Int
  errs : List Nat
  deriving DecidableEq, Repr

/-- Samples under the taps 0 to 20 at bit n: x_(n+10) down to x_(n−10), the list beginning at x_(−10). -/
def tapped (xs : List Int) (n : Nat) : List Int := ((xs.drop n).take 21).reverse

/-- The equaliser's output: Σ w_i · x_(n+10−i) (R233). -/
def equalise (w : List Int) (x : List Int) : Int := roundTo ((w.zipWith (· * ·) x).foldl (· + ·) 0) 16384

/-- A signed 16-bit value in Q2.14. -/
def clampTap (x : Int) : Int := clamp (-32768) 32767 x

/-- The taps after one step of the least-mean-squares rule: w_i + (d − y) · x_(n+10−i) · 2^−mu (R234). -/
def adaptTaps (mu : Nat) (err : Int) (w : List Int) (x : List Int) : List Int :=
  w.zipWith (fun a b => clampTap (a + roundTo (64 * err * b) (2 ^ mu))) x

/-- The target values of the latest decision and of the one before it; the magnetisation before the first decision counts as the
first. -/
def targetsOf (g : List Int) (as : List Bool) : Int × Int :=
  let ext := as ++ List.replicate 5 (as.getLastD false)
  (targetOf g (ext.take 5), targetOf g ((ext.drop 1).take 5))

/-- The timing error y_n · d_(n−1) − y_(n−1) · d_n (R231). -/
def timingError (y0 y1 d0 d1 : Int) : Int := y0 * d1 - y1 * d0

/-- The residual after a timing error: f + e · 2^−ki, limited (R231). -/
def residualStep (k : LoopCfg) (f e : Int) : Int :=
  let lim : Int := k.limit * 256 * 2 ^ k.ki
  clamp (-lim) lim (f + k.gain * e * 1000000)

/-- One bit: the equaliser and the detector take it, and the loops take the bit 12 behind, once the detector has decided it
(R231, R234, R236). -/
def loopBit (k : LoopCfg) (xs : List Int) (n : Nat) (l : LoopSt) : LoopSt :=
  let y := equalise l.taps (tapped xs n)
  let paths := detectBit k.target l.paths y
  let outs := y :: l.outs
  match (bestPath paths).past[12]? with
  | none => { l with paths := paths, outs := outs }
  | some a =>
    let as := a.1 :: l.decided
    let d := targetsOf k.target as
    let y0 := outs.getD 12 0
    let e := if l.decided = [] then 0 else timingError y0 (outs.getD 13 0) d.1 d.2
    let err := d.1 - y0
    { taps := match k.adaptFrom with
        | some r => if r ≤ reliability k.relShift a.2 then adaptTaps k.mu err l.taps (tapped xs (n - 12)) else l.taps
        | none => l.taps
      paths := paths
      outs := outs.take 14
      decided := as.take 5
      drift := l.drift + k.gain * e
      residual := residualStep k l.residual e
      errs := err.natAbs * err.natAbs :: l.errs }

/-- Every bit of a stretch of samples that has its 21 samples. -/
def runBits (k : LoopCfg) (xs : List Int) (l : LoopSt) : LoopSt := (List.range (xs.length - 20)).foldl (fun a n => loopBit k xs n a) l

def kiShift (s : State) : Nat := bits (Cfgw.rchWord s 0) 23 20
def kpShift (s : State) : Nat := bits (Cfgw.rchWord s 0) 19 16
def muShift (s : State) : Nat := bits (Cfgw.rchWord s 1) 4 0
def relShift (s : State) : Nat := bits (Cfgw.rchWord s 3) 23 20
def eraseLevel (s : State) : Nat := bits (Cfgw.rchWord s 3) 19 16

/-- What the loops of a channel run with over the stretch of a pattern found: a channel still in ACQUIRING has eight times the
gain (R231), and only one in LOCKED adapts its taps, over no split resync (R234). -/
def loopCfg (s : State) (lock : Lock) (kind : SyncKind) : LoopCfg :=
  { target := targetTaps s, kp := kpShift s, ki := kiShift s, mu := muShift s, relShift := relShift s, limit := resLimit s
    gain := if lock = .acquiring then 8 else 1
    adaptFrom := if adaptEnable s = true ∧ lock = .locked ∧ kind ≠ .split then some (eraseLevel s) else none }

/-- A channel's loops as a stretch of bits begins. -/
def loopOf (k : LoopCfg) (c : Chan) : LoopSt :=
  { taps := (List.range 21).map fun i => ofField 16 (c.taps.getD i 0), paths := detectStart, outs := [], decided := [], drift := 0
    residual := c.residual * 256 * 2 ^ k.ki, errs := [] }

/-- Sampling phase, in 1/64 bit, after n bits at a residual (R231). -/
def advancePhase (phase : Nat) (n : Nat) (residual : Int) : Nat := ((phase + roundTo (64 * n * residual) 1000000) % 64).toNat

/-- What a stretch of bits leaves in a channel: phase, residual, error against the target of the tentative decisions (R231,
R260) and, where it adapts, taps (R234). -/
def runChannel (k : LoopCfg) (xs : List Int) (c : Chan) : Chan :=
  let l := runBits k xs (loopOf k c)
  let lim : Int := k.limit
  let errs := (c.errs ++ l.errs.reverse).drop (c.errs.length + l.errs.length - 4096)
  { c with
    phase := ((advancePhase c.phase (xs.length - 20) c.residual + roundTo (64 * l.drift) (256 * 2 ^ k.kp)) % 64).toNat
    residual := clamp (-lim) lim (roundTo l.residual (256 * 2 ^ k.ki))
    errs := errs
    mse := meanError errs
    taps := if k.adaptFrom = none then c.taps else l.taps.map (toField 16) }

/-- What a sync found says of the row's other one (R240, R241). Decimation is chosen anew at the row pad, which a forward sync
follows, or a mid resync whose forward sync was missed (R229). -/
def foundSync (s : State) (o : SyncObs) (c : Chan) : Chan :=
  let known := c.lock != .acquiring
  let held : Chan := { c with lock := .locked, missed := 0 }
  match o.kind with
  | .forward => { held with fwd := true, midMissed := sat16 (c.midMissed + b2n (known && c.fwd)), dec := decimationStep s c.dec }
  | .mid =>
    { held with fwd := false, fwdMissed := sat16 (c.fwdMissed + b2n (known && !c.fwd)), reframes := sat16 (c.reframes + b2n o.conflict),
                dec := if c.fwd then c.dec else decimationStep s c.dec }
  | .split => held

/-- SYNC_FOUND (R232, R238 to R241). -/
def execSyncFound (chan : Nat) (o : SyncObs) (s : State) : Out :=
  if 132 ≤ chan ∨ s.rch.ready = false ∨ (rxAt s (linkOf chan)).up = false ∨ syncTaken s (chanAt s chan) o = false then go s
  else go (updChan chan (fun c => runChannel (loopCfg s c.lock o.kind) o.xs (foundSync s o c)) s)

/-- SYNC_MISSED (R232, R240): neither sync of a row is found. -/
def execSyncMissed (chan : Nat) (span : Bool) (s : State) : Out :=
  if 132 ≤ chan ∨ (chanAt s chan).lock = .acquiring then go s
  else
    go (updChan chan (fun c => { c with
      lock := .flywheel
      missed := min (c.missed + 1) 255
      fwd := false
      dec := decimationStep s c.dec
      phase := advancePhase c.phase 4128 c.residual
      fwdMissed := sat16 (c.fwdMissed + 1)
      midMissed := sat16 (c.midMissed + 1 + b2n c.fwd)
      splitMissed := sat16 (c.splitMissed + b2n span) }) s)

/-- LOCK_LOSS (R232). -/
def execLockLoss (chan : Nat) (s : State) : Out :=
  if chan < 132 ∧ (chanAt s chan).lock ≠ .acquiring ∧ lockLossRows s ≤ (chanAt s chan).missed then go (toAcquiring chan s) else go s

/-- RESIDUAL_LIMIT (R231). -/
def execResidualLimit (chan : Nat) (s : State) : Out :=
  if chan < 132 ∧ (chanAt s chan).residual.natAbs = resLimit s then go (toAcquiring chan s) else go s

/-- SEPARATOR_DETECTED (R242): acquisition begins again at the next transition. -/
def execSeparatorDetected (chan : Nat) (s : State) : Out :=
  if chan < 132 ∧ s.rch.ready = true then go (toAcquiring chan s) else go s

/-! ## Ensemble and taps (R230, R235) -/

/-- The ensemble update of a servo frame. -/
def ensembleUpdate (s : State) : State :=
  let locked := s.rch.chans.filter fun x => x.2.lock == .locked
  let n := locked.length
  if n < ensMin s ∨ n = 0 then s
  else
    let sum := locked.foldl (fun (a : Int) x => a + x.2.residual) 0
    let step := roundTo (sum * 65536) (n * 2 ^ keShift s)
    let back := roundTo sum (n * 2 ^ keShift s)
    let lim : Int := resLimit s
    updRch (fun r => { r with
      delta := clamp (-(20000 * 65536)) (20000 * 65536) (r.delta + step)
      chans := r.chans.map fun (p, c) => (p, if c.lock = .locked then { c with residual := clamp (-lim) lim (c.residual - back) } else c) }) s

/-- Every channel loads its calibrated taps for a class. -/
def loadTaps (cls : Nat) (s : State) : State :=
  updRch (fun r => { r with
    cls := cls
    chans := r.chans.map fun (p, c) => (p, { c with taps := AMap.getD c.initial cls c.taps }) }) s

/-- The argument of a DENSITY entry: class and wrap (log entry 75). -/
def densityArg (cls wrap : Nat) : Nat := cls % 4 + wrap % 256 * 256

/-! ## Receive links (R228, R261) -/

/-- A link fails: its channels go to ACQUIRING, its restarts begin anew, and the failure is posted. -/
def failLink (k : Nat) (s : State) : State :=
  postEvent Src.chan 0x13 0x01 false k
    (each toAcquiring (linkChannels k) (updRx k (fun x => { x with up := false, aligned := false, tries := 0 }) s))

/-- RX_LANE_FAIL (R228): the lane loses sync header lock (`crc` 0), or CRC-12 errors occur in `crc` consecutive multiblocks, and
four of them fail it; each is counted. -/
def execRxLaneFail (lane crc : Nat) (s : State) : Out :=
  let k := lane / 3
  if 12 ≤ lane ∨ (rxAt s k).up = false then go s
  else
    let s1 := updRx k (fun x => { x with crcErrors := sat16 (x.crcErrors + crc) }) s
    if crc = 0 then go (failLink k (updRx k (fun x => { x with lanesLocked := setBits x.lanesLocked (lane % 3) (lane % 3) 0 }) s1))
    else if 4 ≤ crc then go (failLink k s1)
    else go s1

/-- JESD_LINK_RESTART (R228): at once, then at each of the next seven SYSREF edges; after eight failed starts the link
stays down. -/
def execJesdLinkRestart (link : Nat) (ok : Bool) (s : State) : Out :=
  let x := rxAt s link
  if 4 ≤ link ∨ x.up ∨ x.failed ∨ domOn s 7 = false then go s
  else if ok then
    go (updRx link (fun x => { x with up := true, aligned := true, lanesLocked := 7, tries := 0, starts := min (x.starts + 1) 255 }) s)
  else
    go (updRx link (fun x => { x with starts := min (x.starts + 1) 255, tries := x.tries + 1, failed := decide (8 ≤ x.tries + 1) }) s)

/-! ## Entries of the read channels and the sequencer -/

/-- The class in argument [1:0] takes over in the read channels on the wrap in [15:8]: at the start of a wrap and at a change of
class the channels load their calibrated taps (R235), and at the start of a wrap the correction returns to 0 (R230). -/
def takeDensity (cls wrap : Nat) (s : State) : State :=
  let begins := s.rch.wrap != some wrap
  let s1 := if begins || s.rch.cls != cls then loadTaps cls s else s
  updRch (fun r => { r with wrap := some wrap, delta := if begins then 0 else r.delta }) s1

/-- DENSITY (R149): in the sequencer, or in the read channels. -/
def densityFires (e : SchedEnt) (s : State) : State :=
  if e.owner = 0 then { s with wrv := { s.wrv with cls := bits e.arg 1 0 } } else takeDensity (bits e.arg 1 0) (bits e.arg 15 8) s

/-- DENSITY (R149). -/
def execDensity (idx : Nat) (s : State) : Out := go (fire Kind.density idx densityFires s)

end Sys2Proof.Machine
end

