-- ==== Sys2Proof/Machine/Brd.lean ====
section
/-!
DEFINITION. The Bridle (10): loops, mixer, modes and supervision, motion sequences, Actuator Links, MB_BRIDLE events.
Loops are numbered as R279 does: 0 SPEED, 1 TENSION, 2 LATERAL_FINE, 3 LATERAL_COARSE, 4 SKEW, 5 THREAD.
-/

namespace Sys2Proof.Machine

def updBrd (f : Brd → Brd) (s : State) : State := { s with brd := f s.brd }

def loopAt (s : State) (n : Nat) : Loop := AMap.getD s.brd.loops n {}

def setLoop (n : Nat) (x : Loop) (s : State) : State := updBrd (fun b => { b with loops := AMap.set b.loops n x }) s

def updLoop (n : Nat) (f : Loop → Loop) (s : State) : State := setLoop n (f (loopAt s n)) s

def epAt (s : State) (e : Nat) : Endpoint := AMap.getD s.brd.endpoints e {}

def updEp (e : Nat) (f : Endpoint → Endpoint) (s : State) : State :=
  updBrd (fun b => { b with endpoints := AMap.set b.endpoints e (f (AMap.getD b.endpoints e {})) }) s

/-! ## Committed loop configuration (R286, R301, R410) -/

def feDefault : Nat → Nat
  | 0 => 32 * 65536 + 128
  | 1 => 200 * 65536 + 150
  | 2 => 16 * 65536 + 250
  | 3 => 4096 * 65536 + (roundTo (9 * 32768) 10).toNat
  | 4 => 64 * 65536 + 40000
  | _ => 1000 * 65536 + 400

def loopWord (s : State) (n i : Nat) : Nat :=
  recWord s 0x0019 n i (if i = 0 then feDefault n else if i = 1 then 0x7FFF8000 else if i = 2 then 0x01000064 else 0)

def feTime (s : State) (n : Nat) : Nat := bits (loopWord s n 0) 31 16
/-- In loop units; SPEED's is given in 2^-10 m/s. -/
def feLimit (s : State) (n : Nat) : Int := bits (loopWord s n 0) 15 0 * (if n = 0 then 64 else 1)
def uMax (s : State) (n : Nat) : Int := ofField 16 (bits (loopWord s n 1) 31 16)
def uMin (s : State) (n : Nat) : Int := ofField 16 (bits (loopWord s n 1) 15 0)
def outputSlew (s : State) (n : Nat) : Int := bits (loopWord s n 2) 31 16
def loopSlew (s : State) (n : Nat) : Nat := bits (loopWord s n 2) 15 0

/-- A coefficient by its index in `BRD_COEF_SEL`. -/
def coefWord (s : State) (n i : Nat) : Nat := if i < 10 then loopWord s n (3 + i) else loopWord s n (13 + (i - 16))

def coef (s : State) (n i : Nat) : Int := ofField 32 (coefWord s n i)

/-! ## The loop computation (R280, R281) -/

/-- Signed saturation to w bits. -/
def sat (w : Nat) (x : Int) : Int := clamp (-(2 ^ (w - 1))) (2 ^ (w - 1) - 1) x

/-- A product rounded to nearest at bit 24; the direction of a tie is not given (log entry 3). -/
def round24 (x : Int) : Int :=
  let f := x.fdiv (2 ^ 24)
  let r := x - f * 2 ^ 24
  if 2 * r < 2 ^ 24 then f else if 2 * r = 2 ^ 24 then f + (b2n (Config.roundUp x (2 ^ 24)) : Int) else f + 1

def mulQ (a c : Int) : Int := round24 (a * c)

/-- Sum in a saturating 48-bit accumulator. -/
def acc48 (xs : List Int) : Int := xs.foldl (fun a x => sat 48 (a + x)) 0

/-- One biquad: coefficients from index k on, input, its stores; the output, saturated to 32 bits. -/
def biquad (s : State) (n k : Nat) (x : Int) (xs zs : List Int) : Int :=
  sat 32 (acc48 [mulQ x (coef s n k), mulQ (xs.getD 0 0) (coef s n (k + 1)), mulQ (xs.getD 1 0) (coef s n (k + 2)),
    -(mulQ (zs.getD 0 0) (coef s n (k + 3))), -(mulQ (zs.getD 1 0) (coef s n (k + 4)))])

/-- Speed breakpoint of a schedule point, in 2^-16 m/s. -/
def breakpoint (s : State) (n k : Nat) : Int := coef s n (16 + 6 * k) * 1024

/-- The last point whose breakpoint is at or below a speed. -/
def gainPoint (s : State) (n : Nat) (v : Int) : Nat :=
  (((List.range 16).filter fun k => decide (breakpoint s n k ≤ v)).getLast?).getD 0

/-- Gain c (1 kp to 5 kf1) of a loop at a speed magnitude in 2^-16 m/s. -/
def gain (s : State) (n c : Nat) (v : Int) : Int :=
  let k := gainPoint s n v
  let g := coef s n (16 + 6 * k + c)
  let span := (breakpoint s n (k + 1) - breakpoint s n k).toNat
  if v < breakpoint s n 0 then coef s n (16 + c)
  else if k = 15 ∨ span = 0 then g
  else g + roundTo ((coef s n (16 + 6 * (k + 1) + c) - g) * (v - breakpoint s n k)) span

/-- The ramped set-point of a tick (R285): the measurement at the first tick after a target, then a step towards it. -/
def rampNext (x : Loop) (meas : Int) (valid : Bool) (step : Int) : Int :=
  if x.newTarget then (if valid then meas else x.ramp)
  else x.ramp + clamp (-step) step (x.target - x.ramp)

/-- Loops that go to HOLD below `hold_speed` (R283). -/
def holdsSlow (n : Nat) : Bool := n == 2 || n == 3 || n == 4

def belowHold (s : State) (n : Nat) : Bool := holdsSlow n && decide (s.srv.speed.natAbs < Cfgw.holdSpeed s * 1024)

/-- Following-error count of a tick (R286). -/
def feNext (s : State) (n : Nat) (x : Loop) (r y : Int) (valid : Bool) : Nat :=
  if x.mode ≠ .auto ∨ valid = false then x.fe else if feLimit s n < ((r - y).natAbs : Int) then min (x.fe + 1) 0xFFFF else 0

/-- An open-loop move of the head waits or is under way (R287). -/
def headMoving (s : State) : Bool := s.brd.stepMove.isSome || s.brd.stepTo.isSome

/-- A loop's next mode and output (R279), from its state `x`: `base` is that state with the tick's measurement and filters, `preset`
the same as AUTO takes it over without a bump, `pdf` the proportional, derivative and feedforward terms, `di` the integral's step. -/
def loopNext (x base preset : Loop) (valid slow moves : Bool) (lo hi slew : Int) (pdf : Int × Int × Int) (di : Int) : Loop :=
  match x.mode with
  | .off => { base with out := 0 }
  | .fault => { base with out := 0 }
  | .manual =>
    if x.wantAuto ∧ valid ∧ slow = false then preset
    else { base with out := x.out + clamp (-slew) slew (x.manual - x.out) }
  | .hold => if valid ∧ slow = false ∧ moves = false then preset else { base with out := x.manual }
  | .auto =>
    if valid = false ∨ slow = true then { base with mode := .hold, manual := x.out }
    else
      let i := sat 48 (x.integ + di)
      let u := pdf.1 + i + pdf.2.1 + pdf.2.2
      let keep := decide (lo ≤ u ∧ u ≤ hi) || decide (hi < u ∧ i < x.integ) || decide (u < lo ∧ x.integ < i)
      let i' := if keep then i else x.integ
      { base with integ := i', out := sat 16 (clamp lo hi (pdf.1 + i' + pdf.2.1 + pdf.2.2)) }

/-- The measured, filtered and derived values of a loop's tick (R280, R281, R282): its state with them, the proportional, derivative
and feedforward terms, and the integral's step. -/
def loopTerms (n : Nat) (measured : Int) (valid : Bool) (step : Int) (s : State) : Loop × (Int × Int × Int) × Int :=
  let x := loopAt s n
  let y := if valid then sat 32 measured else x.meas
  let r := sat 32 (rampNext x y valid step)
  let e := sat 32 (r - y)
  let z1 := biquad s n 0 e x.x1 x.z1
  let ef := biquad s n 5 z1 x.x2 x.z2
  let v : Int := s.srv.speed.natAbs
  let f := acc48 [mulQ (gain s n 4 v) r, mulQ (gain s n 5 v) (r - x.rPrev)]
  ({ x with
      meas := y, measValid := valid, ramp := r, newTarget := false, efPrev := ef, rPrev := r,
      x1 := [e, x.x1.getD 0 0], z1 := [z1, x.z1.getD 0 0], x2 := [z1, x.x2.getD 0 0], z2 := [ef, x.z2.getD 0 0],
      fe := feNext s n x r y valid },
   (mulQ (gain s n 1 v) ef, mulQ (gain s n 3 v) (ef - x.efPrev), f), mulQ (gain s n 2 v) ef)

/-- AUTO takes over without a bump (R281): the integral is what gives the present output. -/
def loopPreset (x : Loop) (t : Loop × (Int × Int × Int) × Int) : Loop :=
  { t.1 with mode := .auto, wantAuto := false, integ := sat 48 (x.out - t.2.1.1 - t.2.1.2.1 - t.2.1.2.2), fe := 0 }

/-- One tick of loop n: measurement, whether it is valid, and the most by which the ramp moves (R280, R283, R284). -/
def runLoop (n : Nat) (measured : Int) (valid : Bool) (step : Int) (s : State) : State :=
  let x := loopAt s n
  let t := loopTerms n measured valid step s
  setLoop n (loopNext x t.1 (loopPreset x t) valid (belowHold s n) (holdsSlow n && headMoving s) (uMin s n) (uMax s n) (outputSlew s n)
    t.2.1 t.2.2) s

/-- A new target for a loop; the soft-start ramp restarts (R285). -/
def setTarget (n : Nat) (t : Int) (s : State) : State := updLoop n (fun x => { x with target := t, newTarget := true }) s

/-- Enable a loop that is OFF (R283): it stands in MANUAL at the endpoint's safe value. -/
def enableLoop (n : Nat) (s : State) : State :=
  if (loopAt s n).mode = .off then updBrd (fun b => { b with ran := true }) (updLoop n (fun x => { x with mode := .manual, out := 0, manual := 0 }) s)
  else s

/-- Ask for AUTO; it is taken at the first tick with a valid measurement. -/
def autoLoop (n : Nat) (s : State) : State :=
  updLoop n (fun x => { x with wantAuto := x.mode == .manual }) (enableLoop n s)

def disableLoop (n : Nat) (s : State) : State :=
  if (loopAt s n).mode = .fault then s else updLoop n (fun x => { x with mode := .off, out := 0, wantAuto := false }) s

/-! ## Speeds (R271, R282, R299) -/

/-- The endpoint of the take-up reel: the machine reel forward, the cartridge reel in reverse. -/
def takeUpReel (s : State) : Nat := if s.srv.reverse then 0 else 1

def radiusOf (s : State) (e : Nat) : Int := if e = 0 then s.brd.radius0 else s.brd.radius1

/-- Speed from the take-up reel's rate and radius, 2^-16 m/s: radius in µm, Δ in 1/65,536 turn over `gap` frames of
12.5 µs. -/
def reelSpeed (s : State) : Int :=
  let e := takeUpReel s
  let x := epAt s e
  let v := roundTo (2 * 3141592653589793 * radiusOf s e * x.delta.natAbs * 2) (25 * 10 ^ 15 * x.gap)
  if s.srv.reverse then -v else v

/-- A reel's radius from the tape speed and its rate, in µm. -/
def reelRadius (s : State) (e : Nat) : Int :=
  let x := epAt s e
  if x.delta = 0 then radiusOf s e
  else roundTo (s.srv.speed.natAbs * (25 * 10 ^ 15 * x.gap)) (2 * 2 * 3141592653589793 * x.delta.natAbs)

/-- Keep the reel radii up to date at a servo tick at 0.50 m/s and above. -/
def estimateRadii (s : State) : State :=
  if s.srv.speed.natAbs < 32768 then s
  else updBrd (fun b => { b with radius0 := reelRadius s 0, radius1 := reelRadius s 1 }) s

/-- Winding torques of both reels, µN·m, from the latest SPEED and TENSION outputs. -/
def mix (s : State) : State :=
  let fs := (loopAt s 0).out
  let ft := (loopAt s 1).out
  let take := takeUpReel s
  let torque := fun e => sat 32 (roundTo (radiusOf s e * (2 * ft + if e = take then fs else -fs)) 2000)
  updBrd (fun b => { b with torque0 := torque 0, torque1 := torque 1 }) s

/-- A speed in 1/64 m/s as a SPEED target. -/
def speedUnits (v : Nat) (reverse : Bool) : Int := if reverse then -(v * 1024 : Int) else v * 1024

/-- Send SPEED to a target at a slew. -/
def rampSpeed (v : Nat) (reverse : Bool) (slew : Nat) (s : State) : State :=
  setTarget 0 (speedUnits v reverse) (updBrd (fun b => { b with slew := slew }) s)

/-- The speed in force for a run: the kept target under the ceiling. -/
def runSpeed (s : State) : Nat := min s.brd.kept s.brd.ceiling

/-- Servo target of a wrap in nm (R268). -/
def servoTarget (wrap : Nat) : Int := (2 * (wrap % 48 : Nat) - 47) * 210

/-- LATERAL_FINE takes a wrap's servo target. -/
def takeWrap (w : Nat) (s : State) : State :=
  setTarget 2 (servoTarget w + s.brd.latOffset) (updSrv (fun v => { v with wrap := w }) s)

/-! ## The head's open-loop moves (R287, R288) -/

/-- Distance of a wrap's tracks from those of wrap 0, in nm away from the reference edge (R142). -/
def wrapHeight (w : Nat) : Int := bandOf w * 2851120 + w % 48 * 420

/-- Microsteps of 0.15625 µm between two wraps. -/
def stepsBetween (a b : Nat) : Int := roundTo ((wrapHeight b - wrapHeight a) * 100) 15625

/-- The stepper starts to move the head by a number of microsteps. -/
def moveHead (steps : Int) (s : State) : State :=
  updBrd (fun b => { b with stepMove := none, stepTo := some ((AMap.getD b.endpoints 4 {}).position + steps) }) s

/-- A move that waited for the tape to come to rest starts. -/
def startHead (s : State) : State :=
  match s.brd.stepMove with
  | some k => moveHead k s
  | none => s

/-- The stepper has come to its count. -/
def headArrives (s : State) : State :=
  if s.brd.stepTo = some (epAt s 4).position then updBrd (fun b => { b with stepTo := none }) s else s

/-- Rate of an open-loop move, in microsteps per second, up to 64,000 (R279): at most what is left within one status time of 50 µs
(log entry 105). -/
def stepRate (s : State) (goal : Int) : Int := clamp (-64000) 64000 ((goal - (epAt s 4).position) * 20000)

/-! ## Controlled stops and faults (R283, R290) -/

def stopCode : StopKind → Nat
  | .faultReels => 0
  | .faultOther => 1
  | .orderly => 2

/-- The posts and the state of a controlled stop whose writing ends at a Tape Clock value. The window is closed there. -/
def beginStop (kind : StopKind) (endClock : Nat) (s : State) : State :=
  let fresh := s.brd.stop.isNone
  let s1 := post .fmt Src.bridle 0x8001 (endClock % 2 ^ 40) (if fresh then inc 0x0D0084 s else s)
  let s2 := postEvent Src.bridle 0x0D 0x02 true (endClock % 2 ^ 40 + stopCode kind * 2 ^ 40) s1
  let s3 := if s2.wrv.windowOpen then schedule Kind.windowClose 0 endClock s2.srv.reverse 0 (cancelKind Kind.windowClose 0 s2) else s2
  updBrd (fun b => { b with stop := some ⟨kind, endClock, false⟩, motion := if b.motion = .unthreaded then b.motion else .stopping,
                            repos := none, heldRepos := none }) s3

/-- SPEED ramps to 0 for a stop. -/
def rampStop (slew : Nat) (s : State) : State := rampSpeed 0 s.srv.reverse slew s

def reelLoop (n : Nat) : Bool := n == 0 || n == 1

/-- The endpoints that a loop drives. -/
def loopEndpoints (n : Nat) : List Nat := if reelLoop n then [0, 1] else if n = 2 then [3] else if n = 3 then [4] else if n = 4 then [5] else [2]

/-- A loop faults: MB_WRV 0x8003, MB_MGT, and the fault stop of its kind. `byEndpoint` is 0xFF for a following error. -/
def faultLoop (n byEndpoint : Nat) (s : State) : State :=
  let s1 := updLoop n (fun x => { x with mode := .fault, out := 0, wantAuto := false }) s
  let s2 := postEvent Src.bridle 0x0D 0x01 true (n + byEndpoint * 256) (post .wrv Src.bridle 0x8003 n s1)
  let s3 := each (fun e s => updEp e (fun x => { x with cmd := 2 }) s) (loopEndpoints n) s2
  let already := match s.brd.stop with
    | some c => c.kind == StopKind.faultReels || (c.kind == StopKind.faultOther && !reelLoop n)
    | none => false
  if already then s3
  else if reelLoop n then beginStop .faultReels s3.srv.clock s3
  else
    let s4 := rampStop (Cfgw.stopSlew s3) (beginStop .faultOther s3.srv.clock s3)
    updBrd (fun b => { b with stop := b.stop.map fun (c : CtlStop) => { c with ramping := true } }) s4

/-- FOLLOWING_ERROR_EXPIRY (R286). -/
def execFollowingErrorExpiry (loop : Nat) (s : State) : Out :=
  let x := loopAt s loop
  if loop < 6 ∧ x.mode = .auto ∧ 0 < x.fe ∧ feTime s loop ≤ x.fe then go (faultLoop loop 0xFF (inc 0x0D0080 s)) else go s

/-- ENDPOINT_FAULT (R298): three frames without a valid status, or a status with `fault` set. -/
def execEndpointFault (endpoint : Nat) (s : State) : Out :=
  let x := epAt s endpoint
  if 6 ≤ endpoint ∨ x.fault ∨ ¬(3 ≤ x.missing ∨ bit x.status 2 = true) then go s
  else
    let ns := (List.range 6).filter fun n => (loopEndpoints n).contains endpoint
    let s1 := updEp endpoint (fun x => { x with fault := true }) s
    go (each (fun n s => match (loopAt s n).mode with
      | .manual | .hold | .auto => faultLoop n endpoint s
      | _ => s) ns s1)

/-! ## Motion (R287 to R290) -/

/-- Run-up distance of a reposition in 1/256 frame: v² ÷ (2s) + 0.1 m. -/
def runUp (v slew : Nat) : Nat := (roundTo (v * v * 625) (2 * slew)).toNat + 256000

/-- The tape lies the run-up distance or more before the reposition's position. -/
def farEnough (s : State) (r : Repos) : Bool :=
  if r.reverse then decide (r.pos + runUp r.speed r.slew ≤ s.srv.clock) else decide (s.srv.clock + runUp r.speed r.slew ≤ r.pos)

/-- Start an attempt at a reposition: it stops first. -/
def startRepos (r : Repos) (s : State) : State :=
  let s1 := updBrd (fun b => { b with motion := .repositioning, repos := some { r with step := 1 }, settledCount := 0 })
    (inc 0x0D008C (cancelKind Kind.turnaround 3 (allAcquiring s)))
  rampStop r.slew s1

/-- Stop at `speed_slew` and park (R289). -/
def startPark (s : State) : State := rampStop (Cfgw.speedSlew s) (updBrd (fun b => { b with motion := .stopping, repos := none }) s)

/-- A reposition or stop-and-park, held while a write window is open (R299). -/
def requestMove (r : Option Repos) (s : State) : State :=
  if s.wrv.windowOpen then updBrd (fun b => { b with heldRepos := some r }) s
  else match s.brd.motion, r with
    | .unthreaded, _ | .threading, _ | .unthreading, _ => s
    | _, some r => if s.brd.stop.isSome then s else startRepos r s
    | _, none => if s.brd.stop.isSome then s else startPark s

/-- What was held starts when WINDOW_CLOSE fires. -/
def releaseHeld (s : State) : State :=
  match s.brd.heldRepos with
  | none => s
  | some r => requestMove r (updBrd (fun b => { b with heldRepos := none }) s)

/-- The head takes the next wrap. At a band change the lateral loops go to HOLD, and stay there while the stepper moves the head by
the distance between the wraps, once the tape is at rest (R287). -/
def changeWrap (s : State) : State :=
  let w := s.brd.nextWrap
  if bandOf w = bandOf s.srv.wrap then takeWrap w s
  else
    let k := stepsBetween s.srv.wrap w
    each (fun n s => updLoop n (fun x => if x.mode = .auto then { x with mode := .hold, manual := x.out } else x) s) [2, 3, 4]
      (takeWrap w (updBrd (fun b => { b with stepMove := some k }) s))

def setPhase (p : Nat) (s : State) : State := updBrd (fun b => { b with phase := p }) s

/-- The turnaround's steps at a tick (R287). -/
def turnStep (rest : Bool) (s : State) : State :=
  match s.brd.phase with
  | 0 => if s.srv.speed.natAbs < 131072 then setPhase 1 (changeWrap s) else s
  | 1 =>
    if rest ∧ s.brd.stepMove.isSome then startHead s
    else if rest ∧ s.brd.stepTo = none then
      let rev := reverseWrap s.brd.nextWrap
      setPhase 2 (rampSpeed (runSpeed s) rev (Cfgw.turnSlew s) (updBrd (fun b => { b with runReverse := rev }) s))
    else s
  | _ =>
    if (s.srv.speed - (loopAt s 0).target).natAbs ≤ 4096 then updBrd (fun b => { b with motion := .running, phase := 0 }) s else s

/-- The reposition's steps at a tick (R289). -/
def reposStep (rest : Bool) (r : Repos) (s : State) : State :=
  let at_ := fun k => updBrd (fun b => { b with repos := some { r with step := k }, settledCount := 0 })
  let runIn := fun s => at_ 4 (rampSpeed r.speed r.reverse r.slew (updBrd (fun b => { b with runReverse := r.reverse }) s))
  match r.step with
  | 1 =>
    if rest ∧ headMoving s then startHead s
    else if rest then
      let s1 := if s.srv.wrap = s.brd.nextWrap then s else startHead (changeWrap s)
      if headMoving s1 then s1
      else if farEnough s1 r then runIn s1 else at_ 2 (rampSpeed (min 512 s1.brd.ceiling) (!r.reverse) r.slew s1)
    else s
  | 2 => if farEnough s r then at_ 3 (rampStop r.slew s) else s
  | 3 => if rest then runIn s else s
  | _ =>
    if s.srv.valid ∧ reached s r.pos r.reverse ∧ s.brd.settledCount < 64 then startRepos r s else s

/-- The unthreading's steps at a tick (R288): rewind to frame 20,000, then tension to 300 mN and the pin back. -/
def unthreadStep (rest : Bool) (s : State) : State :=
  match s.brd.phase with
  | 0 =>
    if s.srv.valid ∧ s.srv.clock ≤ 20000 * 256 ∧ (loopAt s 0).target ≠ 0 then rampStop (Cfgw.speedSlew s) s
    else if rest ∧ (loopAt s 0).target = 0 then setPhase 1 (autoLoop 5 (setTarget 1 300 s))
    else s
  | _ => s

/-- A stop's steps at a tick (R290): an orderly stop holds speed until writing ends. -/
def stopStep (rest : Bool) (s : State) : State :=
  match s.brd.stop with
  | some c =>
    let ended := decide (s.wrv.windowOpen = false) || (s.srv.valid && reached s c.endClock s.srv.reverse)
    if c.kind = .orderly ∧ c.ramping = false ∧ ended then
      updBrd (fun b => { b with stop := some { c with ramping := true } }) (rampStop (Cfgw.stopSlew s) s)
    else if rest then updBrd (fun b => { b with motion := .stopped, stop := none }) s
    else s
  | none => if rest then updBrd (fun b => { b with motion := .stopped }) s else s

/-- What motion does at a servo tick; `rest` says that the tape has not moved since the tick before. -/
def motionStep (rest : Bool) (s0 : State) : State :=
  let s := headArrives s0
  match s.brd.motion with
  | .turnaround => turnStep rest s
  | .repositioning => match s.brd.repos with | some r => reposStep rest r s | none => s
  | .unthreading => unthreadStep rest s
  | .stopping => stopStep rest s
  | _ => s

/-- TURNAROUND (R287): deceleration begins. -/
def turnaroundFires (_e : SchedEnt) (s : State) : State :=
  if s.brd.motion ≠ .running then s
  else rampStop (Cfgw.turnSlew s) (updBrd (fun b => { b with motion := .turnaround, phase := 0 }) (inc 0x0D0088 s))

/-- TURNAROUND (R287). -/
def execTurnaround (idx : Nat) (s : State) : Out := go (fire Kind.turnaround idx turnaroundFires s)

/-- SPEED_SETTLED (R289): step 4 of a reposition posts its SETTLED entry at the current Tape Clock. -/
def execSpeedSettled (s : State) : Out :=
  match s.brd.repos with
  | some r =>
    if s.brd.motion = .repositioning ∧ r.step = 4 ∧ 64 ≤ s.brd.settledCount then
      go (postSched Kind.settled 3 s.srv.clock s.srv.reverse r.requester 0
        (updBrd (fun b => { b with motion := .running, repos := none }) s)).2
    else go s
  | none => go s

/-- THREAD_COMPLETE (R288): the pin is in the machine reel, or back in the cartridge. -/
def execThreadComplete (s : State) : Out :=
  match s.brd.motion with
  | .threading =>
    let s1 := each (fun e s => updEp e (fun x => { x with cmd := 3 }) s) [0, 1] (disableLoop 5 s)
    let s2 := autoLoop 0 (autoLoop 1 (setTarget 1 (Cfgw.tensionNominal s : Int) s1))
    let s3 := autoLoop 4 (autoLoop 3 (autoLoop 2 (takeWrap 0 (moveHead Config.parkSteps (updBrd (fun b => { b with parkCount := (epAt s2 4).position }) s2)))))
    go (rampSpeed 128 false (Cfgw.speedSlew s) (updBrd (fun b => { b with motion := .running, runReverse := false, parked := false }) s3))
  | .unthreading =>
    if s.brd.phase = 0 then go s
    else
      let s1 := each disableLoop [0, 1, 2, 3, 4, 5] s
      let s2 := each (fun e s => updEp e (fun x => { x with cmd := 4 }) s) [0, 1] s1
      go (updBrd (fun b => { b with motion := .unthreaded, phase := 0, parked := true, stepMove := none, stepTo := some b.parkCount }) s2)
  | _ => go s

/-! ## Ticks of TENSION and THREAD (R279) -/

/-- TENSION_TICK (R279): every 50 µs; its output is mixed with the latest SPEED output. -/
def execTensionTick (s : State) : Out :=
  if s.brd.ready = false then go s
  else
    let e := epAt s 0
    go (mix (runLoop 1 e.aux e.seen (roundTo (loopSlew s 1) 20) s))

/-- THREAD_TICK (R279): every 100 µs; the threading profile is not given, so its set-point is a free value while the pin
moves (log entry 3). -/
def execThreadTick (s : State) : Out :=
  if s.brd.ready = false then go s
  else
    let moving := s.brd.motion == .threading || (s.brd.motion == .unthreading && s.brd.phase == 1)
    let t := ofField 32 (drawn s)
    let s1 := if moving then drawNext (updLoop 5 (fun x => { x with target := t, ramp := t }) s) else s
    go (runLoop 5 (epAt s 2).position (epAt s 2).seen (if moving then 0 else roundTo (loopSlew s 5) 10) s1)

/-! ## Actuator Links (R291 to R298) -/

/-- Endpoint types by slot of each link (R293). -/
def epType (e : Nat) : Nat := [1, 1, 2, 3, 4, 5].getD e 0

/-- The DRIVE value of an endpoint. -/
def driveValue (s : State) (e : Nat) : Int :=
  match e with
  | 0 => s.brd.torque0
  | 1 => s.brd.torque1
  | 2 => (loopAt s 5).out
  | 3 => (loopAt s 2).out
  | 4 => (s.brd.stepTo.map (stepRate s)).getD (loopAt s 3).out
  | _ => (loopAt s 4).out

/-- An endpoint's command: what is asked for once, BRAKE while it stands, DRIVE while a loop drives it. -/
def epCommand (s : State) (e : Nat) : Nat :=
  let c := (epAt s e).cmd
  if c ≠ 0 then c
  else if e = 4 ∧ s.brd.stepTo.isSome then 1
  else if (List.range 6).any fun n => (loopEndpoints n).contains e && decide ((loopAt s n).mode ≠ .off ∧ (loopAt s n).mode ≠ .fault) then 1 else 0

/-- A command slot (R293). -/
def slotBytes (s : State) (e : Nat) : Bytes :=
  let c := epCommand s e
  be 1 (epType e * 16) ++ be 1 c ++ be 4 (if c = 1 then toField 32 (driveValue s e) else 0) ++ zeros 10

/-- A frame without its K28.5 (R292). -/
def actFrame (s : State) (link : Nat) : Bytes :=
  let x := AMap.getD s.brd.links link {}
  let body := be 1 ((if s.brd.ran then 1 else 2) * 16 + 1) ++ be 1 x.seq ++ zeros 6
    ++ (List.range 3).flatMap (fun k => slotBytes s (link * 3 + k)) ++ zeros 16
  body ++ be 2 (crc16 body)

/-- Frames are sent from stage D3 on (R297), and in Dawn hold (R405). -/
def linksSend (s : State) : Bool := s.brd.ready || s.cfg.st == .hold

/-- ACT_FRAME_SEND (R295, R297). -/
def execActFrameSend (link : Nat) (s : State) : Out :=
  if 2 ≤ link ∨ linksSend s = false ∨ domOn s 29 = false then go s
  else
    let f := actFrame s link
    let once := fun (e : Nat) (s : State) => updEp e (fun x => { x with cmd := if x.cmd = 3 ∨ x.cmd = 4 then 0 else x.cmd }) s
    let s1 := updBrd (fun b => { b with links := modAt b.links link {} fun x => { x with seq := (x.seq + 1) % 256, lastFrame := f } }) s
    go (each once [link * 3, link * 3 + 1, link * 3 + 2] s1)

/-- A status slot that is a valid status of its endpoint. -/
def statusValid (e : Nat) (b : Bytes) : Bool := beAt b 0 1 == epType e * 16 + 15

/-- Take a slot's status, or note that it is missing. -/
def takeStatus (link k : Nat) (good : Bool) (b : Bytes) (s : State) : State :=
  let e := link * 3 + k
  let x := epAt s e
  if good ∧ statusValid e b then
    let pos := ofField 32 (beAt b 2 4)
    let y := { x with
      status := bits (beAt b 1 1) 4 0, position := pos, delta := if x.seen then ofField 32 (toField 32 (pos - x.position)) else 0,
      gap := x.missing + 1, current := ofField 16 (beAt b 6 2), aux := beAt b 8 2, temperature := beAt b 10 1,
      faultCode := beAt b 12 2, missing := 0, seen := true, fault := x.fault && bit (beAt b 1 1) 2 }
    updBrd (fun b => { b with endpoints := AMap.set b.endpoints e y
                              links := modAt b.links link {} fun l => { l with ok := setBits l.ok k k 1 } }) s
  else
    updBrd (fun b => { b with endpoints := AMap.set b.endpoints e { x with missing := x.missing + 1 }
                              links := modAt b.links link {} fun l => { l with ok := setBits l.ok k k 0, lost := min (l.lost + 1) 0xFF } }) s

/-- ACT_STATUS_RECEIVE (R298): a frame whose CRC fails is counted, and no status from it is used. -/
def execActStatusReceive (link : Nat) (frame : Bytes) (s : State) : Out :=
  if 2 ≤ link ∨ s.brd.ready = false then go s
  else
    let good := frame.length == 74 && beAt frame 72 2 == crc16 (frame.take 72)
    let s1 := if good then s
      else updBrd (fun b => { b with links := modAt b.links link {} fun l => { l with crcErrors := min (l.crcErrors + 1) 0xFFFF } }) s
    go (each (fun k s => takeStatus link k good (slice frame (8 + 16 * k) 16) s) [0, 1, 2] s1)

/-! ## MB_BRIDLE (R299) -/

/-- The speed of a run follows its latest target under the ceiling in force. -/
def applySpeed (s : State) : State :=
  if s.brd.motion = .running then rampSpeed (runSpeed s) s.brd.runReverse (Cfgw.speedSlew s) s
  else if s.brd.motion = .turnaround ∧ s.brd.phase = 2 then rampSpeed (runSpeed s) s.brd.runReverse (Cfgw.turnSlew s) s
  else s

/-- SPEED_TARGET (R299): kept while the tape does not run; in a turnaround it becomes the run-up speed (R290). -/
def execSpeedTarget (src arg : Nat) (s : State) : Out :=
  go (boxTake .bridle src 0x0001 arg (fun s => applySpeed (updBrd (fun b => { b with kept := bits arg 9 0 }) s)) s)

/-- STOP_AND_PARK (R289). -/
def execStopAndPark (src arg : Nat) (s : State) : Out := go (boxTake .bridle src 0x0002 arg (requestMove none) s)

/-- The requester whose SETTLED entry a reposition posts: read recovery posts through the formatter's slots and is told
apart by the decoders' source (R276, R299). -/
def requesterOf (src : Nat) : Nat := if src = Src.dec then 2 else 1

/-- REPOSITION (R289). -/
def execReposition (src arg : Nat) (s : State) : Out :=
  let act := fun (s : State) =>
    let slew := bits arg 55 51
    requestMove (some ⟨bits arg 39 0, bit arg 40, min (bits arg 50 41) s.brd.ceiling, if slew = 0 then Cfgw.speedSlew s else slew, 1, requesterOf src⟩) s
  go (boxTake .bridle src 0x0003 arg act s)

/-- LATERAL_OFFSET (R299). -/
def execLateralOffset (src arg : Nat) (s : State) : Out :=
  let act := fun (s : State) =>
    let o := ofField 16 (bits arg 15 0)
    setTarget 2 (servoTarget s.srv.wrap + o) (updBrd (fun b => { b with latOffset := o }) s)
  go (boxTake .bridle src 0x0004 arg act s)

/-- WRAP_SELECT (R299): the Bridle then knows its next turnaround, and posts its entry 0.1 m beyond the data region
(R287). -/
def execWrapSelect (src arg : Nat) (s : State) : Out :=
  let act := fun (s : State) =>
    let w := bits arg 7 0
    let s1 := cancelKind Kind.turnaround 3 (updBrd (fun b => { b with nextWrap := w }) s)
    if s.brd.motion = .running ∧ w ≠ s.srv.wrap then
      schedule Kind.turnaround 3 ((if s.brd.runReverse then 99000 else 11901000) * 256) s.brd.runReverse 0 s1
    else s1
  go (boxTake .bridle src 0x0005 arg act s)

/-- THREAD (R288): the threader loop carries the pin; the stepper moves the head to wrap 0; the trim is reset (R284). -/
def execThread (src arg : Nat) (s : State) : Out :=
  let act := fun (s : State) =>
    if s.brd.motion ≠ .unthreaded then s
    else autoLoop 5 (updSrv (fun v => { v with wrap := 0 }) (updBrd (fun b => { b with motion := .threading, trim := 0, nextWrap := 0, latOffset := 0, phase := 0 }) s))
  go (boxTake .bridle src 0x0006 arg act s)

/-- UNTHREAD (R288): rewind at up to 8.00 m/s. -/
def execUnthread (src arg : Nat) (s : State) : Out :=
  let act := fun (s : State) =>
    match s.brd.motion with
    | .unthreaded | .threading | .unthreading => s
    | _ =>
      rampSpeed (min 512 s.brd.ceiling) true (Cfgw.speedSlew s)
        (updBrd (fun b => { b with motion := .unthreading, phase := 0, repos := none, heldRepos := none, runReverse := true }) (cancelKind Kind.turnaround 3 s))
  go (boxTake .bridle src 0x0007 arg act s)

/-- SPEED_CEILING (R299): 512 removes the ceiling; the target in force is limited at once. -/
def execSpeedCeiling (src arg : Nat) (s : State) : Out :=
  go (boxTake .bridle src 0x0008 arg (fun s => applySpeed (updBrd (fun b => { b with ceiling := bits arg 9 0 }) s)) s)

/-- LOOP_MODE (R283). -/
def execLoopMode (src arg : Nat) (s : State) : Out :=
  let act := fun (s : State) =>
    let n := bits arg 2 0
    let m := bits arg 4 3
    if 6 ≤ n ∨ (loopAt s n).mode = .fault then s
    else if m = 0 then disableLoop n s
    else if m = 1 then
      updLoop n (fun x =>
        { x with mode := .manual, wantAuto := false, manual := ofField 16 (bits arg 31 16) }) (enableLoop n s)
    else if m = 2 then autoLoop n s
    else s
  go (boxTake .bridle src 0x0009 arg act s)

/-- The tape is at rest. -/
def tapeAtRest (s : State) : Bool := s.brd.motion == .stopped || s.brd.motion == .unthreaded || s.srv.speed == 0

/-- CLEAR_FAULTS (R283): faulted loops go OFF, and the Bridle clears the loop cause (R207). -/
def execClearFaults (src arg : Nat) (s : State) : Out :=
  let act := fun (s : State) =>
    let ns := (List.range 6).filter fun n => (loopAt s n).mode == .fault
    if tapeAtRest s = false ∨ ns = [] then s
    else
      let s1 := each (fun n s => each (fun e s => updEp e (fun x => { x with cmd := 0 }) s) (loopEndpoints n)
        (updLoop n (fun x => { x with mode := .off, out := 0, fe := 0 }) s)) ns s
      post .wrv Src.bridle 0x0003 0 (updBrd (fun b => { b with stop := none, motion := if b.motion = .stopping then .stopped else b.motion }) s1)
  go (boxTake .bridle src 0x000A arg act s)

/-- Where writing ends in an orderly stop (R290). -/
def orderlyEnd (urgent : Bool) (s : State) : Nat :=
  match inProgress s with
  | none => s.srv.clock
  | some p =>
    let slot := nextSlotClock s p
    if urgent then
      if clockDist slot s.srv.clock * 100000 * 65536 ≤ s.srv.speed.natAbs * 20000 * 256 then slot else s.srv.clock
    else if clockDist (placementEnd s p) s.srv.clock ≤ Cfgw.stopGrace s * 256 then placementEnd s p
    else slot

/-- An orderly stop begins; a second request during a stop has no effect (R290). -/
def orderly (urgent : Bool) (s : State) : State := if s.brd.stop.isSome then s else beginStop .orderly (orderlyEnd urgent s) s

/-- ORDERLY_STOP (R290). -/
def execOrderlyStop (src arg : Nat) (s : State) : Out := go (boxTake .bridle src 0x8001 arg (orderly (bit arg 0)) s)

/-- Codes that the Bridle knows. -/
def bridleKnows (code : Nat) : Bool := decide (1 ≤ code ∧ code ≤ 0x000A) || code == 0x8001

/-- BRIDLE_UNKNOWN_EVENT (R299). -/
def execBridleUnknownEvent (src code arg : Nat) (s : State) : Out :=
  if bridleKnows code then go s else go (boxTake .bridle src code arg (inc 0x0D0090) s)

/-! ## SHOCK_N (R205, R207) -/

/-- SHOCK_ASSERT (R205): held asserted for `shock_filter`; the motor I/O posts MB_WRV 0x8002. -/
def execShockAssert (s : State) : Out :=
  if s.srv.shockPin then go s else go (post .wrv Src.act 0x8002 0 (updSrv (fun v => { v with shockPin := true }) s))

/-- SHOCK_RELEASE (R207): deasserted for `resume_frames` servo frames. -/
def execShockRelease (s : State) : Out :=
  if s.srv.shockPin then go (post .wrv Src.act 0x0002 0 (updSrv (fun v => { v with shockPin := false }) s)) else go s

end Sys2Proof.Machine
end

