-- ==== Sys2Proof/Machine/Shed.lean ====
section
/-!
DEFINITION. The Shed (11): blocks, stripes and rows, units and their protection, the journal, spill rings, checkpoints,
garbage collection, lost units.
-/

namespace Sys2Proof.Machine

def updShd (f : Shd → Shd) (s : State) : State := { s with shd := f s.shd }

/-! ## Geometry (R304, R307, R313) -/

def ppb (s : State) : Nat := 256 * 2 ^ s.shd.ppbCode
def dieOfBlock (s : State) (b : Nat) : Nat := b / s.shd.blocksPerPlane
def blockOfUnit (s : State) (u : Nat) : Nat := u / ppb s
def dieGroups (s : State) : Nat := s.shd.dies / 16

def blkAt (s : State) (b : Nat) : Blk := AMap.getD s.shd.blocks b {}
def setBlk (b : Nat) (x : Blk) (s : State) : State := updShd (fun d => { d with blocks := AMap.set d.blocks b x }) s

/-- FREE blocks of a die. -/
def freeBlocks (s : State) (die : Nat) : Nat :=
  s.shd.blocksPerPlane - (s.shd.blocks.filter fun (b, x) => dieOfBlock s b == die && x.st != .free).length

/-- The lowest number from `lo` on that a table does not list. -/
def firstGap (lo : Nat) : AMap Blk → Nat
  | [] => lo
  | (k, _) :: m => if k < lo then firstGap lo m else if k = lo then firstGap (lo + 1) m else lo

/-- The FREE block of a die with the lowest erase count, the lowest block number on ties (R330). -/
def leastWorn (s : State) (die : Nat) : Option Nat :=
  let lo := die * s.shd.blocksPerPlane
  let gap := firstGap lo s.shd.blocks
  let listed := sortBy (fun x => x.2.erases) (s.shd.blocks.filter fun (b, x) => dieOfBlock s b == die && x.st == .free)
  let fresh := if gap < lo + s.shd.blocksPerPlane then some gap else none
  match listed, fresh with
  | [], f => f
  | (b, x) :: _, some f => if x.erases = 0 ∧ b < f then some b else some f
  | (b, _) :: _, none => some b

/-! ## The map (R313, R314) -/

/-- Start the checkpoint that R314 or R329 calls for, or note that one must follow the one that runs. -/
def startCheckpoint (s : State) : State :=
  let d := s.shd
  if s.cfg.dusk.isSome ∨ d.ready = false then s
  else if d.ckptActive then updShd (fun d => { d with ckptAgain := true }) s
  else
    updShd (fun d => { d with
      ckptActive := true
      ckptAgain := false
      sinceCkpt := 0
      mapCache := d.mapCache.map fun (p, _) => (p, false)
      pagesStored := d.mapCache.foldl (fun m (p, _) => AMap.set m p ()) d.pagesStored
      ckptSnap := some {
        gen := (d.ckpt.map Ckpt.gen).getD 0 + 1, horizon := d.pageSeq, shedId := s.cip.noncePrefix, map := d.map, blocks := d.blocks,
        spills := d.spills, shelters := d.shelters, weak := s.rch.weak.filter Weak.posted, dirs := d.dirs,
        health := [d.hostUnits, d.nandUnits, d.correctedBits, d.uncorrectable, d.programFails, d.eraseFails, d.verifyFails,
                   d.lostUnits, d.dusks, d.dusksIncomplete]
        issued := d.rows.flatMap OpenRow.left, inFlight := d.journals.map Prod.fst } }) s

/-- Bring the map page of a logical unit into the map cache; a page replaces the least recently used clean one, and with
none clean a checkpoint starts at once (R314). -/
def touchPage (logical : Nat) (write : Bool) (s : State) : State :=
  let page := logical / 4096
  let c := s.shd.mapCache
  match c.find? fun x => x.1 == page with
  | some x => updShd (fun d => { d with mapCache := (page, x.2 || write) :: d.mapCache.filter fun y => y.1 != page }) s
  | none =>
    if write = false ∧ mem? s.shd.pagesStored page = false then s
    else
      let s1 := if mem? s.shd.pagesStored page then inc 0x0E0120 s else s
      let s2 := if 16384 ≤ c.length ∧ (c.all fun x => x.2) then startCheckpoint s1 else s1
      let room := if 16384 ≤ s2.shd.mapCache.length then (dropFirst (fun x => !x.2) s2.shd.mapCache.reverse).reverse else s2.shd.mapCache
      updShd (fun d => { d with mapCache := (page, write) :: room }) s2

def mapOf (s : State) (logical : Nat) : Option Nat := AMap.get? s.shd.map logical

/-- Mapped units of a block. -/
def mappedIn (s : State) (b : Nat) : List (Nat × Nat) := s.shd.map.filter fun (_, u) => blockOfUnit s u == b

/-- Blocks of a block's stripe that are not yet VERIFIED keep its parity units valid (R309). -/
def parityValid (s : State) (x : Blk) : Bool :=
  s.shd.blocks.any fun (_, y) => y.stripe == x.stripe && y.stream == x.stream && (y.st == .opened || y.st == .closed)

/-- Valid units of a block. -/
def validUnits (s : State) (b : Nat) : Nat :=
  (mappedIn s b).length
    + if parityValid s (blkAt s b) then (s.shd.units.filter fun (u, x) => blockOfUnit s u == b && x.role == 1).length else 0

/-- VERIFIED and VICTIM blocks whose valid units have reached 0 are RELEASING (R330). -/
def settleBlocks (s : State) : State :=
  let done := s.shd.blocks.filter fun (b, x) => (x.st == .verified || x.st == .victim) && validUnits s b == 0
  each (fun (b, _) s => setBlk b { blkAt s b with st := .releasing } s) done s

/-- A unit of a block is invalidated by a program of the given page_seq, or by a record not yet in a journal unit. -/
def invalidate (u : Nat) (seq : Option Nat) (s : State) : State :=
  let b := blockOfUnit s u
  let x := blkAt s b
  match seq with
  | some q => setBlk b { x with lastInval := max x.lastInval q } s
  | none => setBlk b { x with invalPending := true } s

/-- Map a logical unit to a physical one; the unit mapped before becomes invalid. -/
def mapUnit (logical u : Nat) (seq : Option Nat) (s : State) : State :=
  let s0 := touchPage logical true s
  let s1 := match mapOf s0 logical with
    | some old => invalidate old seq s0
    | none => s0
  updShd (fun d => { d with map := AMap.set d.map logical u }) s1

/-- Unmap n logical units from one on, by a record. -/
def unmapRange (first n : Nat) (s : State) : State :=
  let gone := s.shd.map.filter fun (l, _) => decide (first ≤ l ∧ l < first + n)
  each (fun (l, u) s => invalidate u none (updShd (fun d => { d with map := AMap.erase d.map l }) (touchPage l true s))) gone s

/-! ## The journal (R326, R327) -/

def journalRec (r : JRec) (s : State) : State := updShd (fun d => { d with pendingRecs := d.pendingRecs ++ [r] }) s

/-- A journal record's 32 bytes; unused ones are zero (R327). -/
def JRec.bytes (r : JRec) : Bytes :=
  fit (match r with
    | .ring k p on pass serial => be 1 1 ++ be 1 k ++ be 1 p ++ be 1 (b2n on) ++ be 2 pass ++ fit serial 20
    | .shelter k p pkt n version off len first last =>
      be 1 2 ++ be 1 (k % 8 * 16 + p % 4) ++ be 2 pkt ++ be 2 n ++ be 8 version ++ be 6 off ++ be 4 len ++ be 6 first ++ be 1 (b2n last)
    | .release k tail => be 1 3 ++ be 1 k ++ be 6 tail
    | .unmap first n => be 1 4 ++ be 4 first ++ be 4 n
    | .gcMove l src dst => be 1 5 ++ be 4 l ++ be 4 src ++ be 4 dst
    | .erased b n stream => be 1 6 ++ be 4 b ++ be 4 n ++ be 1 stream
    | .retire b cause => be 1 7 ++ be 4 b ++ be 1 cause
    | .weak enter slot ds part rung pass serial =>
      be 1 8 ++ be 1 (b2n enter) ++ be 2 slot ++ be 4 ds ++ be 1 part ++ be 1 rung ++ be 2 pass ++ fit serial 20
    | .dir set part kind e => be 1 9 ++ be 1 set ++ be 1 part ++ be 1 kind ++ fit e 16
    | .dusk cause clock => be 1 10 ++ be 1 cause ++ be 5 clock) 32

/-- A journal page of at most 511 records (R326). -/
def journalPage (seq : Nat) (recs : List JRec) : Bytes :=
  let head := be 1 0x71 ++ zeros 1 ++ be 2 recs.length ++ be 8 seq ++ zeros 16
  let body := fit (recs.flatMap JRec.bytes) 16352
  head ++ be 4 (crc32 (head ++ body)) ++ body

/-- The four pages of a journal unit. The page sequence is four times the unit's page_seq, and on (DEDUCED, log entry 119). -/
def journalPages (seq : Nat) (recs : List JRec) : Bytes :=
  (List.range 4).flatMap fun i => journalPage (4 * seq + i) ((recs.drop (511 * i)).take 511)

/-- Program a journal unit with the next 2,044 records. -/
def programJournal (s : State) : State :=
  let q := s.shd.pageSeq
  let recs := s.shd.pendingRecs.take 2044
  updShd (fun d => { d with
    pageSeq := q + 1, pendingRecs := d.pendingRecs.drop 2044, journals := d.journals ++ [(q, recs)], journalUnit := journalPages q recs
    blocks := d.blocks.map fun (b, x) => (b, if x.invalPending then { x with lastInval := max x.lastInval q, invalPending := false } else x)
    nandUnits := d.nandUnits + 2, nandUp := d.nandUp + 2, sinceCkpt := d.sinceCkpt + 2 }) s

/-! ## Stripes and rows (R308, R309) -/

/-- Die group a stream fills. -/
def groupOf (s : State) (stream : Nat) : Nat := AMap.getD s.shd.group stream 0

def stripeOf (s : State) (stream group : Nat) : Option Stripe :=
  s.shd.stripes.find? fun x => x.stream == stream && x.group == group

/-- A stream's block of a die that is erased or being erased for it and stands in no open stripe. -/
def waitingBlock (s : State) (stream die : Nat) : Option (Nat × Blk) :=
  s.shd.blocks.find? fun (b, x) => dieOfBlock s b == die && x.stream == stream && (x.st == .opened || x.st == .erasing)
    && !(s.shd.stripes.any fun t => t.stream == stream && t.blocks.contains b)

/-- Take the next FREE block of a die for a stream; its erase begins. -/
def takeBlock (stream die : Nat) (s : State) : State :=
  match leastWorn s die with
  | none => s
  | some b => setBlk b { blkAt s b with st := .erasing, stream := stream } s

/-- A stream asks for a block on each die of a group where it has none coming. -/
def wantBlocks (stream group : Nat) (s : State) : State :=
  (List.range 16).foldl (fun s i => if (waitingBlock s stream (group * 16 + i)).isSome then s else takeBlock stream (group * 16 + i) s) s

/-- Open a stripe when the 16 blocks of the group are open; otherwise ask for the missing blocks. -/
def openStripe (stream group : Nat) (s : State) : Option Stripe × State :=
  let got := (List.range 16).filterMap fun i => (waitingBlock s stream (group * 16 + i)).bind fun (b, x) => if x.st = .opened then some b else none
  if got.length = 16 then
    let t : Stripe := ⟨stream, group, got, 0, s.shd.pageSeq⟩
    (some t, updShd (fun d => { d with
      stripes := d.stripes ++ [t]
      blocks := d.blocks.map fun (b, x) => (b, if got.contains b then { x with stripe := t.stripeSeq } else x) }) s)
  else (none, wantBlocks stream group s)

/-- The row being filled of a stream and group. -/
def rowFilling (s : State) (stream group : Nat) : Option OpenRow :=
  s.shd.rows.find? fun r => r.stream == stream && r.group == group && !r.complete

/-- The row that takes a stream's next data unit, opening a row, and before it a stripe, when there is none. -/
def rowFor (stream : Nat) (s : State) : Option OpenRow × State :=
  let g := groupOf s stream
  match rowFilling s stream g with
  | some r => (some r, s)
  | none =>
    let (t, s1) := match stripeOf s stream g with
      | some t => (some t, s)
      | none => openStripe stream g s
    match t with
    | none => (none, s1)
    | some t =>
      if (t.blocks.any fun b => (blkAt s1 b).st != .opened) then (none, s1) else
      let r : OpenRow := ⟨stream, g, t.row, t.stripeSeq, t.blocks, [], [], false⟩
      (some r, updShd (fun d => { d with rows := d.rows ++ [r] }) s1)

def updRow (r : OpenRow) (f : OpenRow → OpenRow) (s : State) : State :=
  updShd (fun d => { d with rows := modFirst (fun x => x.stream == r.stream && x.group == r.group && x.row == r.row && x.stripeSeq == r.stripeSeq) f d.rows }) s

/-- One more in a table of counts. -/
def tally (k : Nat) (m : AMap Nat) : AMap Nat := AMap.set m k (AMap.getD m k 0 + 1)

/-- The 96-byte out-of-band header of a unit's pages (R310). -/
def oobHeader (role stream row shedId pageSeq logical stripeSeq erases gen : Nat) (region : Bytes) : Bytes :=
  let b := be 1 0x61 ++ be 1 (role % 16 * 16 + stream % 16) ++ be 2 row ++ be 4 shedId ++ be 8 pageSeq ++ be 4 (logical % 2 ^ 27)
    ++ be 8 stripeSeq ++ be 4 erases ++ be 8 gen ++ fit region 48 ++ zeros 4
  b ++ be 4 (crc32 b)

/-- Issue one unit of a row on die i of its group. -/
def issueOn (r : OpenRow) (i role logical : Nat) (region data : Bytes) (owed : Owed) (s : State) : State :=
  let u := r.blocks.getD i 0 * ppb s + r.row
  let x : NUnit := ⟨role, r.stream, r.row, s.shd.pageSeq, logical, r.stripeSeq, region, data,
    oobHeader role r.stream r.row s.cip.noncePrefix s.shd.pageSeq logical r.stripeSeq (blkAt s (blockOfUnit s u)).erases
      ((s.shd.ckpt.map Ckpt.gen).getD 0) region⟩
  updRow r (fun r => { r with issued := r.issued ++ [u], left := r.left ++ [u] })
    (updShd (fun d => { d with
      pageSeq := d.pageSeq + 1, units := AMap.set d.units u x, owed := if owed = .none then d.owed else AMap.set d.owed u owed
      dieUnits := tally (dieOfBlock s (blockOfUnit s u)) d.dieUnits
      dieMoves := if r.stream = 2 then tally (dieOfBlock s (blockOfUnit s u)) d.dieMoves else d.dieMoves }) s)

/-- Dies of a row's group that carry data, in ascending order: all but k mod 16. -/
def dataDies (row : Nat) : List Nat := (List.range 16).filter fun i => i != row % 16

/-- The bytewise sum of a row's data units. -/
def parityOf (s : State) (r : OpenRow) : Bytes :=
  r.issued.foldl (fun a u => ((AMap.get? s.shd.units u).map fun x => x.data.zipWith (· ^^^ ·) a).getD a) (zeros 65536)

/-- Issue the row's parity unit; the stream moves to the next die group, and the stripe to its next row or its end. -/
def closeRow (stream group : Nat) (s : State) : State :=
  match rowFilling s stream group with
  | none => s
  | some r =>
    let s1 := issueOn r (r.row % 16) 1 0x7FFFFFF [] (parityOf s r) .none s
    let s2 := updRow r (fun r => { r with complete := true }) s1
    updShd (fun d => { d with
      group := AMap.set d.group stream ((group + 1) % dieGroups s)
      stripes := if r.row + 1 = ppb s then d.stripes.filter fun t => !(t.stream == stream && t.group == group)
                 else d.stripes.map fun t => if t.stream == stream && t.group == group then { t with row := r.row + 1 } else t }) s2

/-- Issue a data unit in its stream; false when the stream has no open stripe. -/
def issueUnit (q : QUnit) (s : State) : Bool × State :=
  let (r, s1) := rowFor q.stream s
  match r with
  | none => (false, s1)
  | some r =>
    let n := r.issued.length
    let s2 := issueOn r ((dataDies r.row).getD n 0) 0 q.logical q.region (fit q.data 65536) q.owed s1
    (true, if n = 14 then closeRow q.stream r.group s2 else s2)

/-- The place of a waiting unit in the order of R320: Dusk sheltering, garbage collection of a die whose FREE blocks are below
`gc_critical`, sheltering and landing writes, other garbage collection, other resident writes. Reads wait in no queue, and checkpoint
and journal units are programmed when their command comes. -/
def workClass (s : State) (q : QUnit) : Nat :=
  match q.owed with
  | .gc _ src => if freeBlocks s (dieOfBlock s (blockOfUnit s src)) < Cfgw.gcCritical s then 2 else 8
  | _ =>
    if q.stream = 0 then (if s.cfg.dusk.isSome then 1 else 5)
    else if q.stream = 1 ∧ 0x4000000 ≤ q.logical ∧ q.logical < 0x6000000 then 5
    else if q.stream = 2 then 8
    else 9

/-- The die that takes a stream's next data unit. -/
def nextDie (s : State) (stream : Nat) : Nat :=
  let g := groupOf s stream
  match rowFilling s stream g with
  | some r => g * 16 + (dataDies r.row).getD r.issued.length 0
  | none => g * 16 + (dataDies (((stripeOf s stream g).map Stripe.row).getD 0)).getD 0 0

/-- Whether one more garbage collection copy would pass a quarter of a die's programs; they are counted from the last reset (log entry
107). -/
def shareSpent (s : State) (die : Nat) : Bool :=
  decide (AMap.getD s.shd.dieUnits die 0 + 1 < 4 * (AMap.getD s.shd.dieMoves die 0 + 1))

/-- Issue a waiting data unit if its stream has an open stripe and its share is not spent. -/
def pumpUnit (q : QUnit) (s : State) : State :=
  if workClass s q = 8 ∧ shareSpent s (nextDie s q.stream) = true then s
  else
    let r := issueUnit q s
    if r.1 then updShd (fun d => { d with queue := dropFirst (· == q) d.queue }) r.2 else r.2

/-- Issue the waiting data units in their order (R320). -/
def pumpAll (s : State) : State := each pumpUnit (sortBy (workClass s) s.shd.queue) s

def queueUnit (q : QUnit) (s : State) : State := updShd (fun d => { d with queue := d.queue ++ [q] }) s

/-- Complete a row with padding units and its parity (R309). -/
def padRow (stream group : Nat) (s : State) : State :=
  match rowFilling s stream group with
  | none => s
  | some r =>
    let dies := (dataDies r.row).drop r.issued.length
    let s1 := each (fun i s => issueOn r i 2 0x7FFFFFF [] (zeros 65536) .none s) dies s
    inc 0x0E0124 (closeRow stream group s1)

/-- Cut a byte string into the units of a resident item and queue them (R321 to R324). -/
def storeUnits : Nat → Nat → Bytes → State → State
  | 0, _, _, s => s
  | f + 1, logical, bs, s =>
    if bs = [] then s
    else storeUnits f (logical + 1) (bs.drop 65536) (queueUnit ⟨1, logical, [], bs.take 65536, .none⟩ s)

/-! ## Spill rings (R315) -/

def spillAt (s : State) (r : Nat) : Spill := AMap.getD s.shd.spills r {}

def setSpill (r : Nat) (x : Spill) (s : State) : State := updShd (fun d => { d with spills := AMap.set d.spills r x }) s

/-- A ring that belongs to a cartridge not loaded (R336). -/
def ringPending (s : State) (x : Spill) : Bool :=
  x.assigned && !(loaded s && x.serial == s.cart.serial && x.pass == s.cart.writePass)

/-- The ring assigned to a partition of the loaded cartridge. -/
def partRing (s : State) (p : Nat) : Option Nat :=
  (s.shd.spills.find? fun (_, x) => x.assigned && !ringPending s x && x.part == p).map Prod.fst

def freeRing (s : State) : Option Nat := (List.range 8).find? fun r => !(spillAt s r).assigned

/-- Assign a free ring to a partition, journaled in a RING record. -/
def assignRing (p : Nat) (s : State) : State :=
  match freeRing s with
  | none => s
  | some r =>
    journalRec (.ring r p true s.cart.writePass s.cart.serial)
      (setSpill r { assigned := true, part := p, pass := s.cart.writePass, serial := s.cart.serial } s)

/-- An empty ring is freed after UNLOAD, journaled. -/
def freeEmptyRing (r : Nat) (s : State) : State :=
  let x := spillAt s r
  if x.assigned ∧ x.head = x.tail then journalRec (.ring r x.part false x.pass x.serial) (setSpill r {} s) else s

/-- Logical unit of a spill offset. -/
def spillLogical (r off : Nat) : Nat := r * 0x800000 + off / 65536 % 0x800000

/-- Region data of a spill unit's header: ring, partition, spill offset (R310). -/
def spillRegion (r part off : Nat) : Bytes := be 1 r ++ be 1 part ++ zeros 6 ++ be 6 off

/-- Append bytes to a ring; each unit that fills is queued. -/
def spillAppend : Nat → Nat → Bytes → State → State
  | 0, _, _, s => s
  | f + 1, r, bs, s =>
    let x := spillAt s r
    let n := 65536 - x.buf.length
    if bs.length < n then setSpill r { x with buf := x.buf ++ bs, head := x.head + bs.length } s
    else
      spillAppend f r (bs.drop n)
        (queueUnit ⟨0, spillLogical r x.issued, spillRegion r x.part x.issued, x.buf ++ bs.take n, .none⟩
          (setSpill r { x with buf := [], head := x.head + n, issued := x.issued + 65536 } s))

/-- A ring's unit that is not full is issued as it is; its unused bytes are left behind (R315). -/
def forceUnit (r : Nat) (s : State) : State :=
  let x := spillAt s r
  if x.buf = [] then s
  else queueUnit ⟨0, spillLogical r x.issued, spillRegion r x.part x.issued, x.buf, .none⟩
    (setSpill r { x with buf := [], head := x.issued + 65536, issued := x.issued + 65536 } s)

/-- Unreleased bytes of all rings. -/
def ringsUsed (s : State) : Nat := s.shd.spills.foldl (fun n (_, x) => n + (x.head - x.tail)) 0

/-- Whether either limit of R315 stops n more bytes from being copied. -/
def spillBlocked (s : State) (r n : Nat) : Bool :=
  decide ((spillAt s r).head - (spillAt s r).tail + n > 0x800000 * 65536 ∨ ringsUsed s + n > s.shd.spillQuota * 2 ^ 30)

/-- The write of a partition whose packets are copied next: the earliest-accepted one with a packet not copied or
superseded; during Dusk, the earliest-accepted Taken one (R338). -/
def copyNext (s : State) (p : Nat) : Option Write :=
  s.hq.writes.find? fun w => w.part == p && decide (w.copied < w.pkts.length) && (s.cfg.dusk.isNone || w.taken)

/-- Copy the next stored packet of a partition into its ring; none when nothing is to be copied or a limit stops it. -/
def copyPacket (p : Nat) (s : State) : Option State :=
  match copyNext s p, partRing s p with
  | some w, some r =>
    match w.pkts[w.copied]? with
    | none => none
    | some k =>
      if k.st ≠ .stored then none
      else if spillBlocked s r k.stored.length then some (setSpill r { spillAt s r with full := true } s)
      else
        let off := (spillAt s r).head
        let s1 := setSpill r { spillAt s r with full := false } s
        let s2 := spillAppend 16 r k.stored s1
        let s3 := updWrite w.seq (fun w => { w.updPkt w.copied (fun k => { k with spillOff := off }) with
          copied := w.copied + 1, ring := some r, spillOff := if w.copied = 0 then off else w.spillOff }) s2
        some (updShd (fun d => { d with copied := d.copied ++ [⟨r, w.seq, w.copied, off, k.stored.length⟩] }) s3)
  | _, _ => none

/-- Whether a SYNC at Sheltered or higher waits on a partition (R309). -/
def syncWaits (s : State) (p : Nat) : Bool :=
  s.hq.cmds.any fun c => c.ring != 32 && c.e.opcode == 0x03 && c.st == .running && decide (1 ≤ bits c.e.flags 1 0)
    && c.covers.any fun (q, e) => q == p && decide ((partAt s p).shelteredMark < e)

/-- Issue partly filled units and complete the stream's rows with padding. -/
def padStream (stream : Nat) (s : State) : State :=
  let s1 := if stream = 0 then pumpAll ((List.range 8).foldl (fun s r => forceUnit r s) s) else pumpAll s
  (List.range (dieGroups s)).foldl (fun s g => padRow stream g s) s1

/-- Every partition's copies that Dusk makes are issued: what is left of a row is padded (R309). -/
def duskCopied (s : State) : Bool := [0, 1, 2, 3].all fun p => (copyNext s p).isNone

/-- SHED_PACKET_COPY (R315, R338). -/
def execShedPacketCopy (part : Nat) (s : State) : Out :=
  if s.shd.ready = false then go s
  else
    match copyPacket part s with
    | none => go (if s.cfg.dusk.isSome ∧ duskCopied s = true then padStream 0 s else pumpAll s)
    | some s1 =>
      let s2 := pumpAll s1
      go (if (syncWaits s2 part ∧ copyNext s2 part = none) ∨ (s2.cfg.dusk.isSome ∧ duskCopied s2 = true) then padStream 0 s2 else s2)

/-! ## Protection: packets become Sheltered (R316), residents settle -/

/-- Whether bytes [off, off + len) of a ring lie in units that are programmed and whose rows are protected. -/
def rangeProtected (s : State) (r off len : Nat) : Bool :=
  decide (off + len ≤ (spillAt s r).issued) &&
  !(s.shd.queue.any fun q => touches q.stream q.region) &&
  !(s.shd.rows.any fun row => row.issued.any fun u => ((AMap.get? s.shd.units u).map fun x => touches x.stream x.region).getD false)
where
  touches (stream : Nat) (region : Bytes) : Bool :=
    stream == 0 && region.length == 14 && beAt region 0 1 == r && decide (beAt region 8 6 < off + len ∧ off < beAt region 8 6 + 65536)

/-- The longest run of copied packets of one write, contiguous in the ring, from the front. -/
def shelterRun : Copied → List Copied → List Copied
  | _, [] => []
  | c, d :: ds => if d.ring = c.ring ∧ d.seq = c.seq ∧ d.off = c.off + c.len then d :: shelterRun d ds else []

/-- Journal SHELTER records for a ring's copied packets whose units are protected, in ring order. -/
def journalShelters : Nat → Nat → State → State
  | 0, _, s => s
  | f + 1, r, s =>
    let mine := s.shd.copied.filter fun c => c.ring == r
    let ready := mine.takeWhile fun c => rangeProtected s r c.off c.len
    match ready with
    | [] => s
    | c :: cs =>
      let run := c :: shelterRun c cs
      let w := findWrite s c.seq
      let last := (w.map fun w => decide (c.pkt + run.length = w.pkts.length)).getD false
      let r1 : JRec := .shelter r (spillAt s r).part c.pkt run.length c.seq c.off (run.foldl (fun n c => n + c.len) 0)
        ((w.map Write.first).getD 0) last
      journalShelters f r (journalRec r1 (updShd (fun d => { d with copied := d.copied.filter fun x => !run.contains x }) s))

/-- GC_MOVE of a protected copy: only while the map still names the source (R331). -/
def gcMove (logical src u : Nat) (s : State) : State :=
  if mapOf s logical = some src then
    journalRec (.gcMove logical src u) (mapUnit logical u none s)
  else s

/-- A landing command's blocks are all programmed with their row parity: it completes (R57, R321). -/
def landingDone (seq : Nat) (s : State) : State :=
  if s.shd.owed.any (fun (_, o) => o == .landing seq) ∨ s.shd.queue.any (fun q => q.owed == .landing seq) then s
  else match findCmd s seq with
    | some c => if c.st = .running then complete seq Status.ok 0 (unpinKey seq s) else s
    | none => s

/-- Weak slots whose 300 units are all protected and whose entry is not journaled yet. -/
def weakSettled (s : State) (w : Weak) : Bool :=
  let lo := 0x6000000 + 300 * w.slot
  let inSlot := fun l => decide (lo ≤ l ∧ l < lo + 300)
  !w.posted && !(s.shd.queue.any fun q => inSlot q.logical)
    && !(s.shd.rows.any fun row => row.issued.any fun u => ((AMap.get? s.shd.units u).map fun x => inSlot x.logical).getD false)
    && !(s.shd.pendingRecs ++ s.shd.journals.flatMap Prod.snd).any fun r =>
      match r with
      | .weak true slot _ _ _ _ _ => slot == w.slot
      | _ => false

/-- A row whose units are all programmed: its data units are protected. -/
def protectRow (r : OpenRow) (s : State) : State :=
  let s1 := updShd (fun d => { d with rows := d.rows.filter fun x => !(x == r) }) s
  let s2 := each (fun u s =>
    let o := AMap.getD s.shd.owed u .none
    let s' := updShd (fun d => { d with owed := AMap.erase d.owed u }) s
    match o with
    | .none => s'
    | .landing seq => landingDone seq s'
    | .gc logical src => gcMove logical src u s') r.issued s1
  let s3 := (List.range 8).foldl (fun s k => journalShelters (s.shd.copied.length + 1) k s) s2
  each (fun (w : Weak) s => if weakSettled s w then journalRec (.weak true w.slot w.ds w.part w.rung w.writePass w.serial) s else s)
    s3.rch.weak s3

/-- A unit page is programmed: counts, the map (R313, R334 step 4), the block's end, the row's protection. -/
def unitProgrammed (u : Nat) (s : State) : State :=
  match s.shd.rows.find? fun r => r.left.contains u, AMap.get? s.shd.units u with
  | some r, some x =>
    let s1 := updRow r (fun r => { r with left := r.left.erase u }) s
    let host := b2n (x.role == 0 && (x.stream == 0 || (x.stream == 1 && decide (0x4000000 ≤ x.logical ∧ x.logical < 0x6000000))))
    let s2 := updShd (fun d => { d with nandUnits := d.nandUnits + 1, nandUp := d.nandUp + 1, sinceCkpt := d.sinceCkpt + 1,
                                        hostUnits := d.hostUnits + host, hostUp := d.hostUp + host }) s1
    let s3 := if x.role = 0 ∧ x.stream ≠ 2 then mapUnit x.logical u (some x.pageSeq) s2 else s2
    let b := blockOfUnit s u
    let s4 := if u % ppb s + 1 = ppb s then setBlk b { blkAt s3 b with st := .closed } s3 else s3
    let s5 := match s4.shd.rows.find? fun y => y.issued.contains u with
      | some y => if y.complete ∧ y.left = [] then protectRow y s4 else s4
      | none => s4
    settleBlocks s5
  | _, _ => s

/-- UNIT_PROGRAM_DONE (R316). -/
def execUnitProgramDone (u : Nat) (s : State) : Out := go (unitProgrammed u s)

/-- ROW_HOLD_EXPIRY (R309): a row that holds a data unit is completed with padding, partly filled spill units with it. -/
def execRowHoldExpiry (stream group : Nat) (s : State) : Out :=
  match rowFilling s stream group with
  | none => go s
  | some r =>
    if r.issued = [] then go s
    else
      let s1 := if stream = 0 then pumpAll ((List.range 8).foldl (fun s r => forceUnit r s) s) else s
      go (padRow stream group s1)

/-! ## Journal rows -/

/-- JOURNAL_RECORDS_PENDING (R326). -/
def execJournalRecordsPending (s : State) : Out := if 2044 ≤ s.shd.pendingRecs.length then go (programJournal s) else go s

/-- JOURNAL_FLUSH_EXPIRY (R326). -/
def execJournalFlushExpiry (s : State) : Out := if s.shd.pendingRecs = [] then go s else go (programJournal s)

/-- What a record does when its journal unit is durable: SHELTER advances the write's count, ERASED opens the block, WEAK
lists the entry. -/
def recDurable (r : JRec) (s : State) : State :=
  match r with
  | .shelter _ part first count version _ _ _ _ =>
    refreshMarks part (updWrite version (fun w => { w with sheltered := max w.sheltered (first + count) })
      (updShd (fun d => { d with shelters := d.shelters ++ [r] }) s))
  | .erased b _ _ => if (blkAt s b).st = .erasing then setBlk b { blkAt s b with st := .opened } s else s
  | .weak true slot _ _ _ _ _ =>
    { s with rch := { s.rch with weak := s.rch.weak.map fun w => if w.slot = slot then { w with posted := true } else w } }
  | _ => s

/-- The oldest journal unit is durable in both copies. -/
def journalDurable (s : State) : State :=
  match s.shd.journals with
  | [] => s
  | j :: js =>
    pumpAll (each recDurable j.2 (updShd (fun d => { d with journals := js, jlog := d.jlog ++ [j] }) s))

/-- JOURNAL_UNIT_DURABLE (R316). -/
def execJournalUnitDurable (s : State) : Out := go (journalDurable s)

/-- BLOCK_ERASED (R330): one more erase, and an ERASED record. -/
def blockErased (b stream : Nat) (s : State) : State :=
  let x := blkAt s b
  if x.st = .erasing ∧ x.stream = stream then
    journalRec (.erased b (x.erases + 1) stream)
      (updShd (fun d => { d with units := d.units.filter fun (u, _) => blockOfUnit s u != b })
        (setBlk b { x with erases := x.erases + 1, lastInval := 0, invalPending := false } s))
  else s

def execBlockErased (block stream : Nat) (s : State) : Out := go (blockErased block stream s)

/-- Retire a block, journaled with its cause (R327). -/
def retireBlock (b cause : Nat) (s : State) : State := journalRec (.retire b cause) (setBlk b { blkAt s b with st := .retired } s)

/-- The stripe that a retired block stood in goes on with the die's next FREE block from the row after `row`; with none it
closes at that row, and the stream opens a new one (R332). -/
def replaceBlock (b row : Nat) (s : State) : State :=
  match s.shd.stripes.find? fun t => t.blocks.contains b with
  | none => s
  | some t =>
    let next := leastWorn s (dieOfBlock s b)
    let here := fun (x : Stripe) => x.stream == t.stream && x.group == t.group
    match next with
    | some n =>
      setBlk n { blkAt s n with st := .erasing, stream := t.stream, stripe := t.stripeSeq }
        (updShd (fun d =>
          let go_ := fun (x : Stripe) =>
            if here x then { x with row := max x.row row, blocks := x.blocks.map fun c => if c = b then n else c } else x
          { d with stripes := d.stripes.map go_ }) s)
    | none =>
      each (fun c s => if c = b then s else setBlk c { blkAt s c with st := .closed } s) t.blocks
        (updShd (fun d => { d with stripes := d.stripes.filter fun x => !here x }) s)

/-- NAND_ERASE_FAILURE (R330): the block is retired and the die's next FREE block is taken. -/
def execNandEraseFailure (block : Nat) (s : State) : Out :=
  let x := blkAt s block
  if x.st ≠ .erasing then go s
  else
    let s1 := retireBlock block 2 (updShd (fun d => { d with eraseFails := d.eraseFails + 1 }) (inc 0x0E0114 s))
    if (s.shd.stripes.any fun t => t.blocks.contains block) then go (replaceBlock block 0 s1)
    else go (takeBlock x.stream (dieOfBlock s block) s1)

/-! ## Spill and return (R317, R318, R319) -/

/-- Packets of a write that the formatter has begun to fetch are never freed from the buffer before it. -/
def freeable (w : Write) : Nat := if w.taken then w.sheltered else 0

/-- Free buffer copies of Sheltered packets, writes newest-accepted first, until the free count is reached. -/
def freeNewest (target : Nat) : List Write → State → State
  | [], s => s
  | w :: ws, s => if target ≤ freeCount (stableAt s 1) then s else freeNewest target ws (freeUpTo (freeable w) w.seq s)
where
  /-- packet by packet from packet 0, and no further than the target -/
  freeUpTo : Nat → Nat → State → State
    | 0, _, s => s
    | k + 1, seq, s =>
      let s1 := freeUpTo k seq s
      if target ≤ freeCount (stableAt s1 1) then s1 else freePackets seq (k + 1) s1

/-- SPILL_LOW (R317). -/
def execSpillLow (s : State) : Out :=
  let low := Cfgw.spillLow s
  if low ≤ freeCount (stableAt s 1) then go s else go (freeNewest (low + 1024) s.hq.writes.reverse s)

/-- Packets of a write that the formatter needs, whose buffer copy is freed, and that are not returned yet. -/
def toReturn (s : State) (w : Write) : Nat :=
  let have_ := max w.formatted (AMap.getD s.shd.returned w.seq 0)
  if w.taken then min w.freed w.livePkts - have_ else 0

/-- Stored bytes of returned packets that the formatter has not taken. -/
def returnedBytes (s : State) : Nat :=
  s.hq.writes.foldl (fun n w => n + w.storedSum w.formatted (AMap.getD s.shd.returned w.seq 0)) 0

/-- Shed transfer Stalls for returned packets of a write (R318); none while the Stable does not grant them (R83). -/
def returnStalls (n : Nat) (s : State) : Option (List Handle) × State := acquireFrom 128 0x2C 6 n (n / 128 + 3) s

/-- Whether the formatter has taken every packet of a returned chain, or its write is gone. -/
def chainTaken (s : State) (c : Returned) : Bool :=
  match findWrite s c.seq with
  | some w => decide (c.hi ≤ w.formatted)
  | none => true

/-- Chains whose packets the formatter has taken go back to the Shed transfer Stable (log entry 120). -/
def freeReturned (s : State) : State :=
  each (giveBack 0x2C) ((s.shd.retChains.filter (chainTaken s)).flatMap Returned.stalls)
    (updShd (fun d => { d with retChains := d.retChains.filter fun c => !chainTaken s c }) s)

/-- Return the next packets of a partition in formatter order, up to 1,024 and within `return_ahead`, into chains of Shed transfer
Stalls. -/
def returnBatch (p : Nat) : Nat → Nat → List Write → State → Nat × State
  | _, n, [], s => (n, s)
  | 0, n, _, s => (n, s)
  | f + 1, n, w :: ws, s =>
    if w.part ≠ p then returnBatch p f n ws s
    else
      let k := min (toReturn s w) (1024 - n)
      let have_ := max w.formatted (AMap.getD s.shd.returned w.seq 0)
      if k = 0 then returnBatch p f n ws s
      else if Cfgw.returnAhead s * 2 ^ 20 < returnedBytes s + w.storedSum have_ (have_ + k) then (n, s)
      else
        match returnStalls (ceilDiv (w.storedSum have_ (have_ + k)) 262144) s with
        | (none, s1) => (n, s1)
        | (some hs, s1) =>
          returnBatch p f (n + k) ws (updShd (fun d => { d with
            returned := AMap.set d.returned w.seq (have_ + k), retChains := d.retChains ++ [⟨w.seq, have_, have_ + k, hs⟩] }) s1)

/-- SHED_RETURN_READ (R318): a batch is returned and announced by MB_FMT 0x0002. -/
def execShedReturnRead (part : Nat) (s : State) : Out :=
  if s.cfg.dusk.isSome then go s
  else
    let (n, s1) := returnBatch part (s.hq.writes.length + 1) 0 s.hq.writes s
    go (if n = 0 then s1 else post .fmt Src.shed 0x0002 (n + part % 4 * 2 ^ 32) s1)

/-- A read accepted before the write that superseded records of this one still needs them (R61). -/
def readNeeds (s : State) (w : Write) : Bool :=
  s.hq.cmds.any fun c => c.ring != 32 && c.e.opcode == 0x02 && c.st != .completing && c.e.partition == w.part &&
    (List.range (w.recs.length - w.live)).any fun i =>
      let r := w.first + w.live + i
      decide (c.next ≤ r ∧ r < c.e.position + c.e.count ∧ r < c.endSeen) && (versionFor s w.part c.seq r).any fun v => v.seq == w.seq

/-- Whether a write's stored bytes are released (R319). -/
def released (s : State) (w : Write) : Bool :=
  w.taken && decide (w.livePkts ≤ w.safe ∨ w.live = 0) && !readNeeds s w && !(s.hq.gates.any fun g => g.part == w.part && g.first == w.first)

/-- A ring's tail after its released prefix: the first byte that an indexed write or a pending SHELTER still needs. -/
def newTail (s : State) (r : Nat) : Nat :=
  let offs := s.hq.writes.filterMap fun w => if w.ring = some r then some w.spillOff else none
  offs.foldl min (spillAt s r).head

/-- Advance a ring's tail: a RELEASE record, and the units wholly below it are unmapped. -/
def advanceTail (r tail : Nat) (s : State) : State :=
  let x := spillAt s r
  if tail ≤ x.tail then s
  else
    let s1 := setSpill r { x with tail := tail, full := false } s
    let s2 := each (fun i s => unmapRange (spillLogical r ((x.tail / 65536 + i) * 65536)) 1 s) (List.range (tail / 65536 - x.tail / 65536)) s1
    settleBlocks (journalRec (.release r tail) (updShd (fun d => { d with
      shelters := d.shelters.filter fun j => match j with
        | .shelter q _ _ _ _ off len _ _ => !(q == r && decide (off + len ≤ tail))
        | _ => true }) s2))

/-- SPILL_RELEASE (R319): the entry is retired and the tail advances over the longest released prefix. -/
def execSpillRelease (seq : Nat) (s : State) : Out :=
  match findWrite s seq with
  | none => go s
  | some w =>
    if released s w = false then go s
    else
      let s1 := freeReturned (updShd (fun d => { d with returned := AMap.erase d.returned seq }) (retire seq s))
      match w.ring with
      | none => go s1
      | some r => go (advanceTail r (newTail s1 r) s1)

/-! ## Checkpoints (R329) -/

/-- CHECKPOINT_BYTES (R329): 1 GiB, 16,384 units, programmed since the last one began. -/
def execCheckpointBytes (s : State) : Out := if 16384 ≤ s.shd.sinceCkpt then go (startCheckpoint s) else go s

/-- CHECKPOINT_INTERVAL (R329). -/
def execCheckpointInterval (s : State) : Out := go (startCheckpoint s)

/-- A checkpoint is durable: RELEASING blocks whose every invalidation lies before its horizon become FREE (R330). -/
def checkpointDurable (s : State) : State :=
  match s.shd.ckptSnap with
  | none => s
  | some c =>
    let freed := s.shd.blocks.filter fun (_, x) => x.st == .releasing && !x.invalPending && decide (x.lastInval < c.horizon)
    let s1 := addCtr 0x0E010C (freed.filter fun (_, x) => decide (x.stream < 3)).length (inc 0x0E0108 (updShd (fun d => { d with
      ckpt := some c, ckptSnap := none, ckptActive := false
      jlog := d.jlog.filter fun j => decide (c.horizon ≤ j.1) || c.inFlight.contains j.1
      blocks := d.blocks.map fun (b, x) => (b, if freed.any fun y => y.1 == b then { x with st := .free } else x) }) s))
    if s1.shd.ckptAgain then startCheckpoint s1 else s1

/-- CHECKPOINT_DURABLE (R329). -/
def execCheckpointDurable (s : State) : Out := if s.shd.ckptActive then go (checkpointDurable s) else go s

/-! ## Garbage collection (R331) -/

/-- The VERIFIED block of a die with the fewest valid units, the lowest erase count on ties. -/
def victimOf (s : State) (die : Nat) : Option Nat :=
  match sortBy (fun (b, x) => validUnits s b * 2 ^ 40 + x.erases) (s.shd.blocks.filter fun (b, x) => dieOfBlock s b == die && x.st == .verified) with
  | [] => none
  | (b, _) :: _ => some b

/-- Choose a die's next victim. -/
def chooseVictim (die : Nat) (s : State) : State :=
  match victimOf s die with
  | none => s
  | some b => settleBlocks (updShd (fun d => { d with victims := AMap.set d.victims die b }) (setBlk b { blkAt s b with st := .victim } s))

/-- GC_START (R331). -/
def execGcStart (die : Nat) (s : State) : Out :=
  if s.shd.ready = false ∨ s.cfg.dusk.isSome ∨ s.shd.dies ≤ die ∨ mem? s.shd.gc die ∨ Cfgw.gcLow s ≤ freeBlocks s die then go s
  else go (chooseVictim die (updShd (fun d => { d with gc := AMap.set d.gc die () }) s))

/-- GC_STOP (R331). -/
def execGcStop (die : Nat) (s : State) : Out :=
  if mem? s.shd.gc die ∧ Cfgw.gcHigh s ≤ freeBlocks s die then
    go (updShd (fun d => { d with gc := AMap.erase d.gc die, victims := AMap.erase d.victims die }) s)
  else go s

/-- Whether a garbage collection copy of a unit is under way. -/
def copying (s : State) (u : Nat) : Bool :=
  (s.shd.queue.any fun q => match q.owed with | .gc _ src => src == u | _ => false)
    || s.shd.owed.any fun (_, o) => match o with | .gc _ src => src == u | _ => false

/-- UNIT_READ_DONE (R331): a valid unit of a victim is copied through stream 2; when a victim has none left, the next is
chosen while collection runs. Other waiting reads take their data as part of the rows that need it. -/
def execUnitReadDone (u : Nat) (s : State) : Out :=
  let b := blockOfUnit s u
  let die := dieOfBlock s b
  let s0 := if AMap.get? s.shd.victims die = some b ∨ mem? s.shd.gc die = false ∨ (s.shd.blocks.any fun (c, x) => dieOfBlock s c == die && x.st == .victim)
    then s else chooseVictim die s
  if (blkAt s0 b).st ≠ .victim ∨ copying s0 u ∨ s0.cfg.dusk.isSome then go s0
  else
    match s0.shd.map.find? fun (_, v) => v == u, AMap.get? s0.shd.units u with
    | some (l, _), some x => go (pumpAll (queueUnit ⟨2, l, [], x.data, .gc l u⟩ s0))
    | _, _ => go s0

/-! ## Verify and program failures (R330, R332) -/

/-- The valid data units of a block are written again in their stream. -/
def rewriteUnits (b : Nat) (keep : Nat → Bool) (s : State) : State :=
  each (fun (l, u) s =>
    match AMap.get? s.shd.units u with
    | some x => if keep u then queueUnit ⟨x.stream, l, x.region, x.data, if x.stream = 2 then .gc l u else .none⟩ s else s
    | none => s) (mappedIn s b) s

/-- READ_VERIFY_RESULT (R330). -/
def execReadVerifyResult (block nbits : Nat) (readable : Bool) (s : State) : Out :=
  let x := blkAt s block
  if x.st ≠ .closed ∨ s.cfg.dusk.isSome then go s
  else
    let s0 := updShd (fun d => { d with correctedBits := d.correctedBits + nbits, uncorrectable := d.uncorrectable + b2n (!readable) }) s
    if readable ∧ nbits ≤ Cfgw.verifyLimit s then go (settleBlocks (setBlk block { x with st := .verified } s0))
    else
      let s1 := updShd (fun d => { d with verifyFails := d.verifyFails + 1 }) (inc 0x0E0118 s0)
      go (pumpAll (retireBlock block 3 (rewriteUnits block (fun _ => true) s1)))

/-- NAND_PROGRAM_FAILURE (R332): the block is retired; the failed row's data units and every unit already in the block are
written again in the same stream; the stripe continues on the next least-worn FREE block of the die, or closes. -/
def programFailure (u : Nat) (s : State) : State :=
  match s.shd.rows.find? fun r => r.left.contains u with
  | none => s
  | some r =>
    let b := blockOfUnit s u
    let s1 := updShd (fun d => { d with programFails := d.programFails + 1 }) (inc 0x0E0110 s)
    -- data units of the failed row, with what they owe
    let again := r.issued.filterMap fun v =>
      match AMap.get? s.shd.units v with
      | some x => if x.role = 0 then some (⟨x.stream, x.logical, x.region, x.data, AMap.getD s.shd.owed v .none⟩ : QUnit) else none
      | none => none
    let s2 := updShd (fun d => { d with
      rows := d.rows.filter fun x => !(x == r)
      owed := r.issued.foldl (fun m v => AMap.erase m v) d.owed
      queue := again ++ d.queue }) s1
    let s3 := rewriteUnits b (fun v => !r.issued.contains v) s2
    pumpAll (replaceBlock b (r.row + 1) (retireBlock b 1 s3))

/-- NAND_PROGRAM_FAILURE (R332). -/
def execNandProgramFailure (u : Nat) (s : State) : Out := go (programFailure u s)

/-! ## Lost units (R333) -/

/-- A Loss Log entry that no Yard gives rise to (R373). -/
def ownLoss (s : State) (part cause ds count first : Nat) : Loss :=
  { yard := 0, stripe := 0, member := 0, part := part, cause := cause, ds := ds, count := count, first := first, epoch := 0, erasures := 0,
    serial := s.cart.serial }

/-- Append to the Loss Log; the entry is posted to MB_MGT (R17). R425 gives it no event: code and argument are free values (log entry
106). -/
def appendLoss (src : Nat) (l : Loss) (s : State) : State :=
  post .mgt src (freeAt s 0 % 0x8000) (freeAt s 1) (drawMany 2 (updShd (fun d => { d with lossLog := d.lossLog ++ [l] }) s))

/-- Zero the bytes of a packet that lie in [lo, hi) of its ring. -/
def zeroBytes (off lo hi : Nat) (bs : Bytes) : Bytes :=
  bs.zipIdx.map fun (b, i) => if lo ≤ off + i ∧ off + i < hi then 0#8 else b

/-- Records of a write with any byte in the packets that a test picks: index of the first and how many to the last. -/
def recordsIn (w : Write) (hit : Nat → Bool) : Option (Nat × Nat) :=
  let idx := (List.range w.live).filter fun i =>
    match w.recs[i]? with
    | some r => (List.range (r.lastPkt + 1 - r.pkt)).any fun k => hit (r.pkt + k)
    | none => false
  match idx with
  | [] => none
  | i :: _ => some (i, (idx.getLast?.getD i) + 1 - i)

/-- A spill unit is lost: packets with a buffer copy are written again from it; of the others the bytes become zeros and
their records enter the Loss Log and are reported as deferred RECORD_LOST. -/
def spillLost (u logical : Nat) (x : NUnit) (s : State) : State :=
  let r := beAt x.region 0 1
  let lo := beAt x.region 8 6
  let ws := s.hq.writes.filter fun w => w.ring == some r
  let inUnit := fun (k : Pkt) => decide (k.spillOff < lo + 65536 ∧ lo < k.spillOff + k.stored.length)
  let bad := fun (w : Write) i => decide (w.copied > i) && decide (i < w.freed) && ((w.pkts[i]?).map inUnit).getD false
  let held := ws.all fun w => (List.range w.pkts.length).all fun i => !bad w i
  if held then
    pumpAll (queueUnit ⟨0, logical, x.region, x.data, .none⟩ s)
  else
    let s1 := each (fun (w : Write) s =>
      match recordsIn w (bad w) with
      | none => s
      | some (i, n) =>
        let blank := fun (x : Pkt × Nat) =>
          if bad w x.2 then { x.1 with stored := zeroBytes x.1.spillOff lo (lo + 65536) x.1.stored } else x.1
        let s' := updWrite w.seq (fun w => { w with pkts := w.pkts.zipIdx.map blank }) s
        deferError w.part (w.first + i) n Status.recordLost w.seq
          (appendLoss Src.shed (ownLoss s w.part 3 w.tapeDs n (w.first + i)) s')) ws s
    updShd (fun d => { d with map := AMap.erase d.map logical, units := AMap.erase d.units u }) s1

/-- SHED_UNIT_LOST (R333): the outcome by the region of the unit. -/
def execShedUnitLost (u : Nat) (s : State) : Out :=
  match s.shd.map.find? fun (_, v) => v == u, AMap.get? s.shd.units u with
  | some (l, _), some x =>
    let s1 := updShd (fun d => { d with lostUnits := d.lostUnits + 1 }) (inc 0x0E011C s)
    let unmapIt := fun (s : State) => settleBlocks (journalRec (.unmap l 1) (unmapRange l 1 s))
    if l < 0x4000000 then go (spillLost u l x s1)
    else if l < 0x6000000 then
      go (unmapIt (updShd (fun d => { d with units := AMap.erase d.units u, lostLanding := AMap.set d.lostLanding (l - 0x4000000) () }) s1))
    else if l < 0x612C000 then
      let slot := (l - 0x6000000) / 300
      let s2 := each (fun (w : Weak) s => if w.slot = slot then journalRec (.weak false slot w.ds w.part w.rung w.writePass w.serial) s else s) s1.rch.weak s1
      go (unmapIt { s2 with rch := { s2.rch with weak := s2.rch.weak.filter fun w => w.slot != slot } })
    else if 0x6800000 ≤ l ∧ l < 0x6804B00 then
      let e := (l - 0x6800000) / 1200
      go (unmapIt (updShd (fun d => { d with dirs := d.dirs.modify e fun _ => {} }) s1))
    else go (unmapIt s1)
  | _, _ => go s

end Sys2Proof.Machine
end

