-- ==== Sys2Proof/Machine/HostW.lean ====
section
/-!
DEFINITION. Host commands at acceptance (02, R470 step 4) and the ones that need no tape: writes and marks, SYNC,
READ_POSITION, ABORT, GET_LOG, GET_FEATURE.
-/

namespace Sys2Proof.Machine

/-! ## Whose turn it is -/

/-- Own checks of data ring commands run in acceptance order: the earliest one fetched and not yet checked. -/
def dataTurn (s : State) (seq : Nat) : Bool :=
  !(s.hq.cmds.any fun c => c.ring != 32 && c.st == .fetched && decide (c.seq < seq))

/-- A FORMAT_PARTITIONS accepted earlier waits to begin: data commands after it wait behind it, ABORT excepted (DEDUCED, log entry
27). -/
def formatWaits (s : State) (seq : Nat) : Bool :=
  s.hq.cmds.any fun c => c.ring != 32 && c.st == .admitted && c.e.opcode == 0x09 && decide (c.seq < seq)

/-- A management command that has begun and must finish before the next one begins (R64, R127, R418): not ABORT, not a
set or a retirement that waits for its commit point, not an activation, which holds later commands only from its step 4 (R429). -/
def blocksMgmt (c : Cmd) : Bool :=
  c.ring == 32 && c.e.opcode != 0x0A &&
    (c.st == .fetched || (c.st == .running && !(c.e.opcode == 0x82 || c.e.opcode == 0x11 || c.e.opcode == 0x88 || c.e.opcode == 0xA8)))

/-- An activation from its step 4 on, or a takeover that waits for its commit point, holds management commands (R422,
R429). -/
def mgmtHeld (s : State) : Bool :=
  s.mgt.takeover ||
    match s.mgt.activation with
    | some a => a.step != .nightStarting
    | none => false

/-- Management commands execute one at a time, in acceptance order across both ports; ABORT does not wait. -/
def mgmtTurn (s : State) (c : Cmd) : Bool :=
  c.e.opcode == 0x0A || (!mgmtHeld s && !(s.hq.cmds.any fun d => blocksMgmt d && decide (d.seq < c.seq)))

/-- The fetched command of an acceptance sequence and opcode, when its checks are due. -/
def due (s : State) (seq op : Nat) : Option Cmd :=
  match findCmd s seq with
  | none => none
  | some c =>
    if c.st = .fetched ∧ c.e.opcode = op ∧ (if c.ring = 32 then mgmtTurn s c = true else op = 0x0A ∨ dataTurn s seq = true ∧ formatWaits s seq = false)
    then some c else none

/-- A command that runs. -/
def runningCmd (s : State) (seq op : Nat) : Option Cmd :=
  match findCmd s seq with
  | none => none
  | some c => if c.st = .running ∧ c.e.opcode = op then some c else none

def setSt (seq : Nat) (st : CmdSt) (s : State) : State := updCmd seq (fun c => { c with st := st }) s

/-! ## Field checks -/

/-- The scatter list rules of R41 for a total of n bytes: the list of `data_list_count` elements as it stands in memory. -/
def sglOk (e : SqEntry) (list : Bytes) (n : Nat) : Bool :=
  decide (e.dataAddr % 16 = 0) && decide (0 < e.listCount) && ((sglOf e list).all fun x => decide (0 < x.len ∧ x.len ≤ 2 ^ 30))
    && decide ((sglOf e list).foldl (fun a x => a + x.len) 0 = n)

/-- The wrap count of a command's partition is 0 on the loaded cartridge (R162). -/
def noPart (s : State) (p : Nat) : Bool := decide ((partAt s p).wraps = 0)

/-- Record and header lengths of a WRITE_RECORDS (R42). -/
def recLens (e : SqEntry) (lens : List Nat) : List (Nat × Nat) :=
  if e.count = 1 then [(e.length, e.headerLen)] else (lens.take e.count).map fun v => (bits v 24 0, bits v 40 32)

/-- The first failing check of R470 step 4 that looks at the command alone (checks 1 to 3), for lengths `ls` that total
`total` host bytes. -/
def writeFieldCheck (e : SqEntry) (ls : List (Nat × Nat)) (maxCount total : Nat) (otherBad : Bool) : Option Nat :=
  if e.count = 0 ∨ maxCount < e.count then some Status.invalidField
  else if (ls.any fun x => decide (x.1 = 0 ∨ 16777216 < x.1)) ∨ 2 ^ 30 < total then some Status.lengthLimit
  else if otherBad ∨ 2 ^ 48 - 2 < e.position + e.count - 1 then some Status.invalidField
  else none

/-- Checks 7 of R470 (R54). -/
def acceptedEndCheck (s : State) (e : SqEntry) : Option Nat :=
  let a := (partAt s e.partition).acceptedEnd
  if a < e.position then some Status.invalidField
  else if e.position < a ∧ bit e.flags 0 = false then some Status.truncateRequired
  else none

/-- The measure of a write in stored bytes, as if no packet compressed (R56). -/
def writeMeasure (host packets : Nat) (ls : List (Nat × Nat)) : Nat :=
  host + 32 * packets + ls.foldl (fun a x => a + 48 + x.2) 0

/-- Segments of a partition's directory, with those that truncating writes still bring to it (R159). -/
def segmentsDue (s : State) (p : Nat) : Nat :=
  let d := (partAt s p).dir
  let entered := fun (w : Write) => decide (0 < w.formatted) && d.segs.any fun g => (g.ds, g.off) == placeOn 2 w.firstDs w.firstOff
  d.segs.length + (s.hq.writes.filter fun w => w.part == p && w.truncating && !entered w).length

/-- The capacity that a write is measured against (R56, R158), and the segment entries that a truncation needs (R159). -/
def capacityLacks (s : State) (e : SqEntry) (measure : Nat) : Bool :=
  decide (remainingCapacity s e.partition < unformatted s e.partition + measure)
    || (decide (e.position < (partAt s e.partition).acceptedEnd) && decide (65536 ≤ segmentsDue s e.partition))

/-- Whether a reservation of n counters is refused (R470 check 9: R122, R134). -/
def keyRefused (s : State) (slot : Nat) (label : Bytes) (n : Nat) : Bool :=
  let x := slotAt s slot
  keyRetired s slot x.gen label || !issueLeft s ||
    match cacheFind s slot x.gen label with
    | some e => e.issue != 0 && decide (2 ^ 32 < e.nextIdx + n)
    | none => false

/-- The context label of a packet key of a partition of the loaded cartridge under a generation (R128). -/
def labelOf (s : State) (p gen hostLabel : Nat) : Bytes :=
  packetLabel (partAt s p).originYard (partAt s p).originSerial p gen hostLabel

/-- The generation that a command binds: its slot's current one at acceptance (R131). -/
def genOf (s : State) (e : SqEntry) : Nat := (slotAt s e.keySlot).gen

/-! ## Admission of a write (R46, R54, R89, R91, R131) -/

/-- The superseded records of a write when one is admitted below the accepted end (R54, R89). -/
def supersede (part first : Nat) (w : Write) : Write :=
  if w.part = part ∧ first < w.first + w.live then { w with superFrom := some (first - w.first) } else w

/-- The accepted end moves; below it, later records are superseded, and the marks and the coverage of SYNCs come down. -/
def moveEnd (part first count : Nat) (s : State) : State :=
  let stop := first + count
  if first < (partAt s part).acceptedEnd then
    let s1 := setWrites (s.hq.writes.map (supersede part first)) s
    let s2 := updPart part (fun x => { x with
      acceptedEnd := stop, takenMark := min x.takenMark first, shelteredMark := min x.shelteredMark first,
      laidMark := min x.laidMark first, safeMark := min x.safeMark first }) s1
    setCmds (s2.hq.cmds.map fun c => { c with covers := c.covers.map fun (p, e) => if p = part then (p, min e stop) else (p, e) }) s2
  else updPart part (fun x => { x with acceptedEnd := stop }) s

/-- The entry of a write: its records, and the packets that R93 cuts them into. -/
def newWrite (c : Cmd) (kind : WriteKind) (trunc : Bool) (ls : List (Nat × Nat)) (hdrs : List Bytes) (gen : Nat) : Write :=
  let cut := cutRecords (ls.map Prod.fst)
  { seq := c.seq, port := c.port, part := c.e.partition, first := c.e.position, kind := kind, truncating := trunc,
    keySlot := c.e.keySlot, gen := gen, hostLabel := c.e.hostLabel, counter := 0, key := [],
    recs := (ls.zip cut.2).zipIdx.map fun x => ⟨x.1.1.1, fit (hdrs.getD x.2 []) x.1.1.2, x.1.2.1, x.1.2.2⟩,
    pkts := cut.1.map fun (n, k, f) => { hostLen := n, recStarts := k, firstRec := f } }

/-- The entry of a WRITE_MARK: its descriptors form one packet (R99). -/
def newMarks (c : Cmd) (trunc : Bool) : Write :=
  { seq := c.seq, port := c.port, part := c.e.partition, first := c.e.position, kind := .marks, truncating := trunc,
    keySlot := 0, gen := 0, hostLabel := 0, counter := 0, key := [],
    recs := List.replicate c.e.count ⟨0, [], 0, 0⟩, bound := true,
    pkts := [{ hostLen := 0, recStarts := c.e.count, firstRec := 0, st := .ready }] }

/-- Give a write its record table (R91) and begin it; while no granule is to be had it stays ADMITTED. -/
def placeTable (seq records : Nat) (s : State) : State :=
  match takeGranules (granulesFor records) s with
  | (none, s1) => setSt seq .admitted s1
  | (some (st, g), s1) => setSt seq .running (updWrite seq (fun w => { w with recStall := st, granule := g, placed := true }) s1)

/-- Begin an admitted write. Unless it writes marks it binds the derived key of the generation it was accepted under and
reserves its counters (R47, R121, R131), at acceptance except while every cache entry is pinned or retired (R130); then it
takes its record table. -/
def beginWrite (seq : Nat) (s : State) : State :=
  match findWrite s seq with
  | none => s
  | some w =>
    if w.bound then placeTable seq w.recs.length s
    else
      match boundRoot s w.keySlot w.gen seq with
      | none => endWrite seq Status.keyErased s
      | some root =>
        match bindKey w.keySlot w.gen root (labelOf s w.part w.gen w.hostLabel) seq w.pkts.length s with
        | .wait => setSt seq .admitted s
        | .exhausted s2 => endWrite seq Status.keyExhausted s2
        | .bound ctr key s2 =>
          placeTable seq w.recs.length (updCmd seq (fun c => { c with gen := w.gen, result := ctr })
            (updWrite seq (fun w => { w with counter := ctr, key := key, bound := true }) s2))

/-- A write passes its checks: ring (R315), accepted end, entry in the Buffer Record Index. -/
def admitWrite (c : Cmd) (mk : Bool → Write) (s : State) : State :=
  let s0 := if (partRing s c.e.partition).isSome then s else assignRing c.e.partition s
  let trunc := decide (c.e.position < (partAt s c.e.partition).acceptedEnd)
  let s1 := moveEnd c.e.partition c.e.position c.e.count s0
  beginWrite c.seq (indexWrite (mk trunc) s1)

/-- Checks 4 to 10 of R470 for a write; `measure` is R56's, `packets` the counters it reserves. -/
def admissionCheck (s : State) (e : SqEntry) (marks : Bool) (measure packets : Nat) : Option Nat :=
  if serving s = false then some Status.notReady
  else if noPart s e.partition then some Status.invalidField
  else if marks = false ∧ (slotAt s e.keySlot).loaded = false then some Status.keySlotEmpty
  else match acceptedEndCheck s e with
    | some st => some st
    | none =>
      if (partAt s e.partition).writeStopped ∨ capacityLacks s e measure then some Status.mediaFull
      else if marks = false ∧ keyRefused s e.keySlot (labelOf s e.partition (genOf s e) e.hostLabel) packets = true then some Status.keyExhausted
      else if partRing s e.partition = none ∧ freeRing s = none then some Status.notReady
      else none

/-- A write that fails at acceptance completes without executing; a refused reservation retires the key (R134) and a
missing ring is posted (R315). -/
def refuseWrite (c : Cmd) (st packets : Nat) (s : State) : State :=
  if st = Status.keyExhausted then
    match bindKey c.e.keySlot (genOf s c.e) (slotAt s c.e.keySlot).key (labelOf s c.e.partition (genOf s c.e) c.e.hostLabel) c.seq packets s with
    | .exhausted s1 => complete c.seq st 0 s1
    | _ => complete c.seq st 0 s
  else if st = Status.notReady ∧ serving s = true then complete c.seq st 0 (postEvent Src.shed 0x0E 0x04 false 0 s)
  else complete c.seq st 0 s

/-- WRITE_RECORDS (R46, R470): checked and admitted, or begun again once what it waited for is free. -/
def execWriteRecords (seq : Nat) (sgl : Bytes) (lens : List Nat) (hdrs : List Bytes) (s : State) : Out :=
  match findCmd s seq with
  | some c =>
    if c.st = .admitted ∧ c.e.opcode = 0x01 then go (beginWrite seq s)
    else
      match due s seq 0x01 with
      | none => go s
      | some c =>
        let e := c.e
        let ls := recLens e lens
        let total := ls.foldl (fun a x => a + x.1) 0
        let bad := decide (256 < e.headerLen) || (ls.any fun x => decide (e.headerLen < x.2)) || decide (total ≠ e.length) || !sglOk e sgl e.length
        let packets := (cutRecords (ls.map Prod.fst)).1.length
        match writeFieldCheck e ls 4096 total bad with
        | some st => go (complete seq st 0 s)
        | none =>
          match admissionCheck s e false (writeMeasure total packets ls) packets with
          | some st => go (refuseWrite c st packets s)
          | none => go (admitWrite c (fun t => newWrite c .records t ls hdrs (genOf s e)) (updCmd seq (fun c => { c with sgl := sglOf e sgl }) s))
  | none => go s

/-- WRITE_MARK (R99, R470). -/
def execWriteMark (seq : Nat) (s : State) : Out :=
  match findCmd s seq with
  | some c =>
    if c.st = .admitted ∧ c.e.opcode = 0x05 then go (beginWrite seq s)
    else
      match due s seq 0x05 with
      | none => go s
      | some c =>
        match writeFieldCheck c.e [] 65535 0 false with
        | some st => go (complete seq st 0 s)
        | none =>
          match admissionCheck s c.e true (48 * c.e.count) 0 with
          | some st => go (refuseWrite c st 0 s)
          | none => go (admitWrite c (fun t => newMarks c t) s)
  | none => go s

/-! ## SYNC (R60) -/

/-- The mark of a level, by the flag value. -/
def markOf (x : Part) : Nat → Nat
  | 0 => x.takenMark
  | 1 => x.shelteredMark
  | 2 => x.laidMark
  | _ => x.safeMark

/-- An error whose cause means that its records never reach a level: WRITE_FAILED and MEDIA_FULL from Laid on,
RECORD_LOST at every level. -/
def stopsLevel (cause level : Nat) : Bool :=
  if cause = Status.recordLost then decide (0 < level) else decide (2 ≤ level)

/-- A deferred error on a covered record that has not reached the level and that no later write supersedes. -/
def blocksSync (s : State) (p stop level : Nat) : Bool :=
  let m := markOf (partAt s p) level
  (partAt s p).fails.any fun e =>
    stopsLevel e.cause level && decide (max e.first m < min (e.first + e.count) stop)
      && !(s.hq.writes.any fun w => w.part == p && seqBefore e.version w.seq && decide (w.first ≤ max e.first m ∧ max e.first m < w.first + w.live))

/-- Complete a running SYNC whose coverage is at the level or blocked. -/
def trySync (seq : Nat) (s : State) : State :=
  match runningCmd s seq 0x03 with
  | none => s
  | some c =>
    let level := bits c.e.flags 1 0
    match c.covers.find? fun (p, e) => blocksSync s p e level with
    | some (p, _) => complete seq Status.deferredWriteError (markOf (partAt s p) level % 2 ^ 48 + p * 2 ^ 48) s
    | none =>
      if c.covers.all fun (p, e) => decide (e ≤ markOf (partAt s p) level) then
        let stop := ((c.covers.find? fun (p, _) => p == c.e.partition).map Prod.snd).getD 0
        complete seq Status.ok (stop % 2 ^ 48 + c.e.partition * 2 ^ 48) s
      else s

/-- SYNC (R60, R470): its coverage is taken at acceptance. -/
def execSync (seq : Nat) (s : State) : Out :=
  match due s seq 0x03 with
  | none => go s
  | some c =>
    let all := bit c.e.flags 2
    if loaded s = false then go (complete seq Status.ok 0 s)
    else if all = false ∧ noPart s c.e.partition = true then go (complete seq Status.invalidField 0 s)
    else
      let ps := if all then (List.range 4).filter fun p => partPresent s p else [c.e.partition]
      let s1 := updCmd seq (fun c => { c with st := .running, covers := ps.map fun p => (p, (partAt s p).acceptedEnd) }) s
      let s2 := trySync seq s1
      -- a SYNC at Sheltered or higher does not leave units waiting for a row to fill (R309)
      go (if 1 ≤ bits c.e.flags 1 0 ∧ (runningCmd s2 seq 0x03).isSome ∧ s2.shd.ready then padStream 0 s2 else s2)

/-- SYNC_LEVEL_REACHED (R60). -/
def execSyncLevelReached (seq : Nat) (s : State) : Out := go (trySync seq s)

/-! ## READ_POSITION (R49) -/

/-- The position page of a partition; without a cartridge every field is 0. -/
def positionPage (s : State) (p : Nat) : Bytes :=
  if loaded s = false then zeros 64
  else
    let x := partAt s p
    le 8 x.current ++ le 8 x.acceptedEnd ++ le 8 x.takenMark ++ le 8 x.shelteredMark ++ le 8 x.laidMark ++ le 8 x.safeMark
      ++ le 5 s.srv.clock ++ le 1 s.srv.wrap ++ le 1 p ++ le 1 (1 + 2 * b2n (earlyWarning s p) + 4 * b2n (!x.defers.isEmpty))
      ++ zeros 8

/-- READ_POSITION (R49, R470). -/
def execReadPosition (seq : Nat) (s : State) : Out :=
  match due s seq 0x06 with
  | none => go s
  | some c =>
    if c.e.auxAddr % 64 ≠ 0 ∨ (loaded s = true ∧ noPart s c.e.partition = true) then go (complete seq Status.invalidField 0 s)
    else
      let cur := if loaded s then (partAt s c.e.partition).current else 0
      go (complete seq Status.ok cur (hostWrite c.e.auxAddr (positionPage s c.e.partition) s))

/-! ## ABORT (R69, R70, R416, R430) -/

/-- Yard recovery: rung 5 of the ladder waits for the Yard (R251), or a rebuild or reshape runs (R380). -/
def yardRecovery (s : State) : Bool := (s.rch.ladder.any fun l => l.st == .yard) || s.yrd.rebuildActive || s.yrd.reshapeActive

/-- No packet of a write has entered the cipher. -/
def beforeCipher (s : State) (seq : Nat) : Bool :=
  match findWrite s seq with
  | some w => w.pkts.all fun k => k.st != .stored
  | none => true

/-- A WRITE_LANDING with no block programmed: each of its units still waits to be issued, or is issued and not programmed. -/
def landingWaiting (s : State) (c : Cmd) : Bool :=
  let waits := fun (u : Nat) => s.shd.rows.any fun r => r.left.contains u
  decide ((s.shd.queue.filter fun q => q.owed == .landing c.seq).length
    + (s.shd.owed.filter fun x => x.2 == .landing c.seq && waits x.1).length = c.e.count)

/-- Whether a target is caught (R70). The table does not list READ_POSITION: it is caught until it begins, as a LOCATE is
(DESIGN CHOICE, log entry 89). -/
def catchable (s : State) (c : Cmd) : Bool :=
  if c.st = .completing then false
  else if c.ring = 32 ∧ ¬(c.e.opcode = 0x10 ∨ c.e.opcode = 0x12) then
    if c.e.opcode = 0x88 then !(s.mgt.activation.any fun a => a.seq == c.seq && a.step == .scheduled)
    else c.st == .fetched
  else if isWriteOp c.e.opcode then beforeCipher s c.seq
  else if [0x02, 0x0C, 0x10, 0x12, 0x03].contains c.e.opcode then true
  else if c.e.opcode = 0x0B then c.st != .running || landingWaiting s c
  else c.st != .running

/-- The activation of a command is given up. -/
def dropActivation (seq : Nat) (s : State) : State :=
  { s with mgt := { s.mgt with activation := if s.mgt.activation.any fun a => a.seq == seq then none else s.mgt.activation } }

/-- Landing units of a command that are not yet programmed are given up; what is issued goes out as padding (R70, R133). -/
def cancelLanding (seq : Nat) (s : State) : State :=
  let mine := (s.shd.owed.filter fun x => x.2 == .landing seq).map Prod.fst
  let waits := fun (u : Nat) => s.shd.rows.any fun r => r.left.contains u
  updShd (fun d => { d with
    queue := d.queue.filter fun q => q.owed != .landing seq
    owed := mine.foldl (fun m u => AMap.erase m u) d.owed
    units := d.units.map fun (u, x) => (u, if mine.contains u && waits u then { x with role := 2, logical := 0x7FFFFFF, region := [] } else x) }) s

/-- End a caught command with ABORTED_BY_HOST; what it holds goes. -/
def catchCmd (c : Cmd) (s : State) : State :=
  let s1 := unlock (fun g => g.seq == c.seq) s
  if c.isWrite then endWriteCmd c Status.abortedByHost s1
  else
    let s2 := cancelLanding c.seq (dropActivation c.seq s1)
    let s3 := { s2 with cmp := { s2.cmp with
      engines := s2.cmp.engines.map fun (i, e) => (i, if e.job = .read c.seq then { e with job := .idle } else e) } }
    complete c.seq Status.abortedByHost 0 (unpinKey c.seq s3)

/-- ABORT (R69, R70): the target of the tag on the same port and ring type. -/
def execAbort (seq : Nat) (s : State) : Out :=
  match due s seq 0x0A with
  | none => go s
  | some c =>
    if yardRecovery s then go (complete seq Status.abortUnavailable 0 s)
    else
      let target := s.hq.cmds.find? fun d => d.port == c.port && (d.ring == 32) == (c.ring == 32) && d.e.tag == bits c.e.param 15 0
        && d.seq != seq && d.e.opcode != 0x0A
      match target with
      | none => go (complete seq Status.ok 0 s)
      | some d =>
        if catchable s d then go (complete seq Status.ok 0 (updCmd seq (fun c => { c with caught := true, waitFor := some d.seq }) (catchCmd d s)))
        else go (complete seq Status.ok 0 s)

/-! ## Logs (R52, R67, R341, R373, R427) -/

/-- A mailbox entry's 16 bytes (R14): Tape Clock, source, code, argument. -/
def mailBytes (m : Mail) : Bytes := le 5 m.clock ++ le 1 m.src ++ le 2 m.code ++ le 8 m.arg

/-- An event log entry (R426). -/
def logBytes (seq : Nat) (l : LogEnt) : Bytes := le 8 seq ++ le 8 l.us ++ mailBytes l.mail

/-- A deferred error log entry (R67). -/
def deferBytes (l : DeferLog) : Bytes :=
  le 8 l.err.first ++ le 4 l.err.count ++ le 2 l.err.cause ++ le 1 l.err.part ++ le 1 (b2n l.carried) ++ le 8 l.err.version
    ++ le 5 l.err.clock ++ zeros 3

/-- A Loss Log entry (R373). -/
def lossBytes (l : Loss) : Bytes :=
  le 8 l.yard ++ le 4 l.stripe ++ le 1 l.member ++ le 1 l.part ++ le 1 l.cause ++ le 1 0 ++ le 4 l.ds ++ le 4 l.count ++ le 8 l.first
    ++ le 4 l.epoch ++ le 4 l.erasures ++ fit l.serial 20 ++ zeros 4

/-- Shed blocks of the fitted NAND. -/
def shedBlocks (s : State) : Nat := s.shd.dies * s.shd.blocksPerPlane
def blocksRetired (s : State) : Nat := (s.shd.blocks.filter fun (_, x) => x.st == .retired).length
def blocksFree (s : State) : Nat := shedBlocks s - (s.shd.blocks.filter fun (_, x) => x.st != .free).length

/-- Units that the regions take at their quotas (R312). -/
def regionUnits (s : State) : Nat :=
  s.shd.spillQuota * 16384 + Cfgw.landingBlocks s + Cfgw.weakSlots s * 300 + 19200 + 64 + (Cfgw.yardQuota s + Cfgw.readaheadQuota s) * 262144

/-- Spare blocks: neither retired nor needed to hold every region at its quota (R341). -/
def blocksSpare (s : State) : Nat := shedBlocks s - blocksRetired s - ceilDiv (regionUnits s) (ppb s)

/-- Bytes pending for cartridges not loaded. -/
def pendingOther (s : State) : Nat := s.shd.spills.foldl (fun n (_, x) => if ringPending s x then n + (x.head - x.tail) else n) 0

/-- The Shed health log (R341). -/
def healthLog (s : State) : Bytes :=
  let d := s.shd
  let total := d.blocks.foldl (fun n (_, x) => n + x.erases) 0
  let worst := d.blocks.foldl (fun n (_, x) => max n x.erases) 0
  let pe := Cfgw.ratedPe s
  let wear := fun n k => if pe = 0 ∨ k = 0 then 0 else min 65535 (n * 100 / (k * pe))
  fit (le 4 1 ++ le 4 (shedBlocks s - blocksRetired s) ++ le 4 (blocksSpare s) ++ le 4 (blocksRetired s)
    ++ le 2 (wear total (shedBlocks s)) ++ le 2 (wear worst 1) ++ le 4 pe ++ le 8 d.hostUnits ++ le 8 d.nandUnits ++ le 8 d.correctedBits
    ++ le 8 d.uncorrectable ++ le 4 d.programFails ++ le 4 d.eraseFails ++ le 4 d.verifyFails ++ le 4 d.lostUnits ++ le 4 d.dusks
    ++ le 4 d.dusksIncomplete ++ le 8 (pendingOther s) ++ d.hist.flatMap (le 4) ++ le 2 (toField 16 d.hottest)) 256

/-- Bytes [off, off + n) of a log whose entries are 32 bytes and of which only those from `lo` to `hi` - 1 still stand. -/
def ringLog (entry : Nat → Bytes) (lo hi off n : Nat) : Bytes :=
  (List.range (min n (32 * hi - off))).map fun i =>
    let a := off + i
    if a / 32 < lo then 0#8 else (entry (a / 32)).getD (a % 32) 0#8

/-- Every DDR channel has trained. -/
def dramTrained (s : State) : Bool := (List.range 4).all fun c => (AMap.get? s.stk.ddr c).any DdrFit.trained

/-- The Dawn log stands in for the event log: in Dawn hold, and in FAULTED without DRAM (R400, R406). -/
def dawnLogged (s : State) : Bool := s.cfg.st == .hold || (s.cfg.st == .faulted && !dramTrained s)

/-- An entry of the Dawn log (R406): its time, source and code are free values, its argument says what it records (log
entry 54). -/
def dawnNote (arg : Nat) (s : State) : State :=
  let s1 := drawNext s
  let e : LogEnt := ⟨drawn s, ⟨0, drawn s1 % 256, drawn s1 / 256 % 65536, arg⟩⟩
  drawNext { s1 with cfg := { s1.cfg with dawnLog := s1.cfg.dawnLog ++ [e] } }

/-- A management command executed while the Dawn log is kept, by its opcode. -/
def noteCmd (op : Nat) (s : State) : State := if dawnLogged s then dawnNote op s else s

/-- The bytes of a log from an offset on, at most n (R52). -/
def logRead (s : State) (log off n : Nat) : Bytes :=
  if log = 1 then
    if dawnLogged s then
      ringLog (fun q => match s.cfg.dawnLog[q]? with | some l => logBytes q l | none => zeros 32)
        (s.cfg.dawnLog.length - 4096) s.cfg.dawnLog.length off n
    else ringLog (fun q => match AMap.get? s.mgt.log q with | some l => logBytes q l | none => zeros 32) (s.mgt.logSeq - 1048576) s.mgt.logSeq off n
  else if log = 2 then slice (s.hq.deferLog.flatMap deferBytes) off n
  else if log = 3 then slice (s.shd.lossLog.flatMap lossBytes) off n
  else slice (healthLog s) off n

/-- What the dies have measured since the health log was last asked for: minutes in each bin, and a temperature (R341).
The dies' readings over time are no rows of the table: free values (log entry 79). -/
def readDies (s : State) : State :=
  let t := ofField 16 (freeAt s 16)
  drawMany 17 (updShd (fun d => { d with
    hist := d.hist.zipIdx.map fun (n, i) => n + freeAt s i
    hottest := if d.hist.all (· == 0) then t else max d.hottest t }) s)

/-- GET_LOG (R52). -/
def execGetLog (seq : Nat) (sgl : Bytes) (s : State) : Out :=
  match due s seq 0x10 with
  | none => go s
  | some c =>
    let log := bits c.e.param 7 0
    if log = 0 ∨ 4 < log ∨ sglOk c.e sgl c.e.length = false then go (complete seq Status.invalidField 0 s)
    else
      let s1 := if log = 4 then readDies s else s
      let out := logRead s1 log c.e.position c.e.length
      go (noteCmd 0x10 (complete seq Status.ok out.length (sglWrite (sglOf c.e sgl) 0 out s1)))

/-! ## Features (R53) -/

/-- The value of a feature; none for an unknown one. -/
def featureValue (s : State) (c : Cmd) : Option Nat :=
  match bits c.e.param 7 0 with
  | 1 => let x := ringAt s c.port (bits c.e.param 12 8)
         some (x.coalCount + x.coalTime * 65536)
  | 2 => some (partAt s c.e.partition).ewReserve
  | 3 => some (Cfgw.exposureMiB s)
  | _ => none

/-- GET_FEATURE (R53). -/
def execGetFeature (seq : Nat) (s : State) : Out :=
  match due s seq 0x12 with
  | none => go s
  | some c =>
    match featureValue s c with
    | none => go (complete seq Status.invalidField 0 s)
    | some v => go (complete seq Status.ok v s)

end Sys2Proof.Machine
end

