-- ==== Sys2Proof/Machine/Cmp.lean ====
section
/-!
DEFINITION. Writes on their way to the packet Stable (04, 05): host DMA, the dispatcher, the compression engines, the
cipher.
-/

namespace Sys2Proof.Machine

def engineAt (s : State) (e : Nat) : Engine := AMap.getD s.cmp.engines e {}

def setEngine (e : Nat) (x : Engine) (s : State) : State := { s with cmp := { s.cmp with engines := AMap.set s.cmp.engines e x } }

/-- Whether an engine is in service: enabled by the committed configuration, powered, and not out under R107. -/
def engineIn (s : State) (e : Nat) : Bool :=
  decide (e < 6) && Cfgw.engineEnable s e && domOn s (if e < 3 then 16 else 17) && !(engineAt s e).fault

/-- The lowest-numbered engine that is in service and idle. -/
def idleEngine (s : State) : Option Nat := (List.range 6).find? fun e => engineIn s e && (engineAt s e).job == .idle

/-- Packets pass to the cipher raw: `raw_only`, or no engine in service (R108). -/
def rawPath (s : State) : Bool := Cfgw.rawOnly s || !((List.range 6).any fun e => engineIn s e)

/-- Counter k of engine e (R116). -/
def engCtr (e k : Nat) : Nat := 0x030100 + 0x20 * e + 4 * k

/-! ## Host DMA (R94, R103) -/

/-- An ingress Stall that already holds a packet. -/
def stallBusy (s : State) (n : Nat) : Bool :=
  s.hq.writes.any fun w => w.pkts.any fun k => match k.ingress with | some (m, _) => m == n | none => false

/-- HOST_DMA_COMPLETE (R103): the packet's host bytes lie in a Stall of the ingress Stable that the port holds. -/
def execHostDmaComplete (seq idx stall : Nat) (data : Bytes) (s : State) : Out :=
  match runningCmd s seq 0x01, findWrite s seq with
  | some _, some w =>
    match w.pkts[idx]? with
    | none => go s
    | some k =>
      let x := stallAt s stall
      if k.st ≠ .dma ∨ data.length ≠ k.hostLen ∨ x.st ≠ .held ∨ x.owner ≠ portReq w.port ∨ x.stable ≠ 0 ∨ stallBusy s stall then go s
      else go (updWrite seq (fun w => w.updPkt idx fun k => { k with st := .ready, data := data, ingress := some (stall, x.gen) }) s)
  | _, _ => go s

/-! ## The dispatcher (R103, R105) -/

/-- A packet waits for an engine: it is ready, and the cipher does not hold it as a raw one (R27, R104). -/
def waitsEngine (s : State) (w : Write) (i : Nat) (k : Pkt) : Bool :=
  w.kind != .marks && k.st == .ready && s.cip.held != some (w.seq, i)

/-- The first packet in acceptance order, then packet order, that waits for an engine. -/
def readyPacket (s : State) : Option (Nat × Nat) :=
  s.hq.writes.findSome? fun w => (w.pkts.zipIdx.find? fun (k, i) => waitsEngine s w i k).map fun (_, i) => (w.seq, i)

/-- The read that waits for a decompressor: of several, the earliest accepted (DESIGN CHOICE, log entry 90). -/
def dlzWaiting (s : State) : Option Cmd :=
  s.hq.cmds.find? fun c => match c.hold with | some h => h.dlz && h.engine == none && c.st == .running | none => false

/-- ENGINE_DISPATCH (R103): the next ready write packet goes to the lowest-numbered idle engine, unless a read packet
waits too and it is the read's turn (R105). -/
def execEngineDispatch (s : State) : Out :=
  if Cfgw.rawOnly s then go s
  else
    match readyPacket s, idleEngine s with
    | some (q, i), some e =>
      let contested := (dlzWaiting s).isSome
      if contested ∧ s.cmp.readNext = true then go s
      else
        let data := (((findWrite s q).bind fun w => w.pkts[i]?).map Pkt.data).getD []
        let s1 := setEngine e { engineAt s e with job := .write q i false, input := data } (updWrite q (fun w => w.updPkt i fun k => { k with st := .inEngine e }) s)
        go (if contested then { s1 with cmp := { s1.cmp with readNext := true } } else s1)
    | _, _ => go s

/-- READ_DLZ_DISPATCH (R105). -/
def execReadDlzDispatch (s : State) : Out :=
  match dlzWaiting s, idleEngine s with
  | some c, some e =>
    let contested := (readyPacket s).isSome && !Cfgw.rawOnly s
    if contested ∧ s.cmp.readNext = false then go s
    else
      let s1 := setEngine e { engineAt s e with job := .read c.seq }
        (updCmd c.seq (fun c => { c with hold := c.hold.map fun h => { h with engine := some e } }) s)
      go (if contested then { s1 with cmp := { s1.cmp with readNext := false } } else s1)
  | _, _ => go s

/-! ## The engines (R106, R107, R109) -/

/-- An engine leaves service, posted to MB_MGT: [2:0] engine, [8] engine fault (R425). -/
def leaveService (e : Nat) (byFault : Bool) (s : State) : State :=
  postEvent (Src.cmp e) 0x03 0x02 false (e % 8 + 256 * b2n byFault) (setEngine e { engineAt s e with fault := true, mismatches := 0 } s)

/-- Count host or DLZ bytes in whole MiB. -/
def countMiB (off n have_ : Nat) (s : State) : Nat × State := ((have_ + n) % 1048576, addCtr off ((have_ + n) / 1048576) s)

/-- The engines that have entered service since `old` count their verify mismatches afresh (R107). -/
def enterService (old : State) (s : State) : State :=
  (List.range 6).foldl (fun s e => if engineIn s e ∧ engineIn old e = false then setEngine e { engineAt s e with mismatches := 0 } s else s) s

/-- An engine ends its job with a payload; the packet waits in it for the cipher. A packet whose write has ended is discarded,
and the engine becomes idle (R109). -/
def jobEnds (e q i : Nat) (dlz : Bool) (payload : Bytes) (s : State) : State :=
  let x := engineAt s e
  let (bIn, s1) := countMiB (engCtr e 2) x.input.length x.inBytes (inc (engCtr e 0) s)
  let (bOut, s2) := if dlz then countMiB (engCtr e 3) payload.length x.outBytes s1 else (x.outBytes, s1)
  setEngine e { engineAt s2 e with job := if (findWrite s q).isSome then .done q i else .idle, input := [], inBytes := bIn, outBytes := bOut }
    (updWrite q (fun w => w.updPkt i fun k => { k with st := .finished e, dlz := dlz, payload := payload }) s2)

/-- COMPRESSION_DONE (R106, R109, R113): a job runs to its end and is counted whether or not its write still stands. -/
def execCompressionDone (engine : Nat) (fault : EngineFault) (s : State) : Out :=
  let x := engineAt s engine
  match x.job with
  | .write q i second =>
    match fault, second with
    | .inputEcc, false => go (setEngine engine { x with job := .write q i true } (inc (engCtr engine 6) s))
    | .inputEcc, true | .outputEcc, _ =>
      let s1 := inc (engCtr engine 6) (updWrite q (fun w => w.updPkt i fun k => { k with st := .ready }) s)
      go (leaveService engine true (setEngine engine { engineAt s1 engine with job := .idle, input := [] } s1))
    | f, _ =>
      let z := dlzEncode x.input
      if x.input.length ≤ z.length then go (inc (engCtr engine 1) (jobEnds engine q i false x.input s))
      else if f = .verifyMismatch then
        let s1 := inc (engCtr engine 4) (jobEnds engine q i false x.input s)
        let s2 := setEngine engine { engineAt s1 engine with mismatches := (engineAt s1 engine).mismatches + 1 } s1
        go (postEvent (Src.cmp engine) 0x03 0x01 false (engine % 8) s2)
      else go (jobEnds engine q i true z s)
  | _ => go s

/-- ENGINE_LEAVE_SERVICE (R107): `mismatch_limit` verify mismatches since it entered service. -/
def execEngineLeaveService (engine : Nat) (s : State) : Out :=
  let x := engineAt s engine
  if engineIn s engine ∧ 0 < x.mismatches ∧ Cfgw.mismatchLimit s ≤ x.mismatches then go (leaveService engine false s) else go s

/-- Clear engine faults as `CMP_ENGINE_STATUS` is written (R107). -/
def clearEngineFaults (value : Nat) (s : State) : State :=
  (List.range 6).foldl (fun s e => if bit value (24 + e) ∧ (engineAt s e).fault then setEngine e { engineAt s e with fault := false, mismatches := 0 } s else s) s

/-- ENGINE_FAULT_CLEAR (R107). -/
def execEngineFaultClear (value : Nat) (s : State) : Out := go (clearEngineFaults value s)

/-! ## The cipher (R27, R96, R104, R117) -/

/-- A write's next packet for the cipher: its index, when it is finished or passes raw. -/
def nextForCipher (s : State) (w : Write) : Option Nat :=
  match w.pkts.zipIdx.find? fun (k, _) => k.st != .stored with
  | none => none
  | some (k, i) =>
    match k.st with
    | .finished _ => some i
    | .ready => if w.kind = .marks ∨ rawPath s = true then some i else none
    | _ => none

/-- The packet that the cipher takes next: the held one, and no other while it is held (R27); otherwise the eligible one of
the lowest acceptance sequence (R104). -/
def cipherNext (s : State) : Option (Write × Nat) :=
  match s.cip.held with
  | some (q, i) => (findWrite s q).map fun w => (w, i)
  | none => s.hq.writes.findSome? fun w => (nextForCipher s w).map fun i => (w, i)

/-- The descriptor of record j of a write (R98). -/
def descOf (s : State) (w : Write) (j : Nat) (r : Rec) : Desc48 :=
  { part := w.part, truncating := w.truncating && j == 0, number := w.first + j, length := r.len, headerLen := r.header.length,
    keySlot := w.keySlot, keyGen := w.gen, prefix_ := s.cip.noncePrefix, hostLabel := w.hostLabel, start := r.off,
    firstCounter := w.counter + r.pkt }

/-- Descriptors, each with its header data, of the records that begin in packet i. -/
def descsIn (s : State) (w : Write) (i : Nat) : Bytes :=
  w.recs.zipIdx.flatMap fun (r, j) => if r.pkt = i then (descOf s w j r).bytes ++ r.header else []

/-- The header of packet i (R97). -/
def headerOf (w : Write) (i : Nat) (k : Pkt) (dlz : Bool) (payload : Bytes) : PktHeader :=
  { dlz := dlz, first := i == 0, last := i + 1 == w.pkts.length, part := w.part, landing := w.kind == .landing,
    recStarts := k.recStarts, payloadLen := payload.length, hostLen := k.hostLen, counter := w.counter + i }

/-- The stored form of packet i (R96, R117), or the mark descriptors of a WRITE_MARK (R99). -/
def storedForm (s : State) (w : Write) (i : Nat) (k : Pkt) : Bytes :=
  if w.kind = .marks then (w.recs.zipIdx.map fun (_, j) => (markDesc w.part (w.first + j) (w.truncating && j == 0)).bytes).flatten
  else
    let dlz := k.dlz && k.st != .ready
    let payload := if k.st = .ready then k.data else k.payload
    let aad := descsIn s w i ++ (headerOf w i k dlz payload).bytes
    let ct := gcmEncrypt w.key (ivOf s.cip.noncePrefix (w.counter + i)) aad payload
    aad ++ fit ct.1 payload.length ++ fit ct.2 16

/-- Stalls that n more bytes need beyond a write's chain. -/
def chainNeed (w : Write) (n : Nat) : Nat :=
  ceilDiv (w.headOff + w.placedSum w.freed w.pkts.length + n) 262144 - w.chain.length

/-- Link Stalls to the end of a chain in the order given (R90). -/
def linkChain (last : Option Handle) : List Handle → State → State
  | [], s => s
  | h :: hs, s => linkChain (some h) hs (match last with | some t => linkStall ⟨0x08, t.1, t.2⟩ h.1 s | none => s)

/-- Make room for n bytes at the end of a write's chain in the packet Stable; a request that the Stable cannot cover waits in
its FIFO (R83). -/
def extendChain (w : Write) (n : Nat) (s : State) : Option Write × State :=
  let need := chainNeed w n
  if need = 0 then (some w, s)
  else
    match acquire 0x08 1 need s with
    | (none, s1) => (none, s1)
    | (some hs, s1) => (some { w with chain := w.chain ++ hs }, linkChain w.chain.getLast? hs s1)

/-- The last packet of a write has passed the cipher and every earlier write of its partition is Taken: Taken, and its
command completes (R59, R64). -/
def takeWrite (w : Write) (s : State) : State :=
  let s1 := updPart w.part (fun x => { x with takenBytes := x.takenBytes + w.placedSum 0 w.pkts.length })
    (unpinKey w.seq (updWrite w.seq (fun w => { w with taken := true }) s))
  refreshMarks w.part (complete w.seq Status.ok (if w.kind = .marks then 0 else w.counter) s1)

/-- The writes of a partition become Taken in acceptance order, each once its last packet has passed (R58, R59). -/
def takeUp (p : Nat) : Nat → State → State
  | 0, s => s
  | f + 1, s =>
    match s.hq.writes.find? fun w => w.part == p && !w.taken with
    | some w => if w.passed then takeUp p f (takeWrite w s) else s
    | none => s

/-- What a packet held on its way to the cipher is free: its ingress Stall, and its engine. -/
def releasePacket (w : Write) (k : Pkt) (s : State) : State :=
  let s1 := match k.ingress with
    | some h => giveBack w.ingressReq h s
    | none => s
  match k.st with
  | .finished e => setEngine e { engineAt s1 e with job := .idle } s1
  | _ => s1

/-- The cipher takes packet i of a write: ciphertext into the packet Stable, ingress Stall freed, engine idle. `lead` bytes of
descriptors stand ahead of the packet header. -/
def takePacket (w : Write) (i : Nat) (k : Pkt) (lead : Nat) (bs : Bytes) (s : State) : State :=
  match extendChain w bs.length s with
  | (none, s1) => s1
  | (some w1, s1) =>
    let w2 := w1.updPkt i fun k => { k with st := .stored, stored := bs, lead := lead, data := [], payload := [], ingress := none }
    let s2 := releasePacket w k (updWrite w.seq (fun _ => w2) s1)
    takeUp w.part s2.hq.writes.length { s2 with cip := { s2.cip with held := none } }

/-- CIPHER_TAKE_PACKET (R104): a packet that would carry the exposure past its limit is held, and nothing else is taken
(R27); in Dusk the cipher takes no new packet (R338). -/
def execCipherTakePacket (s : State) : Out :=
  if s.cfg.dusk.isSome then go s
  else
    match cipherNext s with
    | none => go s
    | some (w, i) =>
      match w.pkts[i]? with
      | none => go s
      | some k =>
        let bs := storedForm s w i k
        if exposureLimit s < exposure s + bs.length then go { s with cip := { s.cip with held := some (w.seq, i) } }
        else go (takePacket w i k (if w.kind = .marks then 0 else (descsIn s w i).length) bs s)

end Sys2Proof.Machine
end

