-- ==== Sys2Proof/Machine/Srv.lean ====
section
/-!
DEFINITION. The servo decoder and the Tape Clock (10): reader samples, PES, derived quantities, LPOS words, the clock, and
the servo ticks of the Bridle that a servo frame brings.
-/

namespace Sys2Proof.Machine

def readerAt (s : State) (r : Nat) : Reader := AMap.getD s.srv.readers r {}

def updReader (r : Nat) (f : Reader → Reader) (s : State) : State := updSrv (fun v => { v with readers := modAt v.readers r {} f }) s

/-- Readers 0 and 1 are on RF, 6 frames above the Tape Clock; 2 and 3 on RR, 6 frames below (R267, R272). -/
def onRear (r : Nat) : Bool := 2 ≤ r

/-- The Tape Clock position in 1/256 frame of a reader over a frame. -/
def clockUnder (r frame : Nat) : Nat := if onRear r then (frame + 6) * 256 else (frame - 6) * 256

/-- The frame under a reader at a Tape Clock frame. -/
def frameUnder (r frame : Nat) : Nat := if onRear r then frame - 6 else frame + 6

/-- The servo band a reader is expected over (R267). -/
def expectedBand (s : State) (r : Nat) : Nat := bandOf s.srv.wrap + r % 2

def readerEnabled (s : State) (r : Nat) : Bool := bit (Cfgw.readersEnable s) r

/-! ## Samples (R263, R269, R270) -/

/-- y of 14 crossings as a ratio in nm: numerator and denominator; none when the C bursts do not stand 50 µm on. -/
def lateralRatio (x : List Int) : Option (Int × Nat) :=
  let sum := fun i n => ((x.drop i).take n).foldl (· + ·) 0
  let p := 3 * (sum 4 4 - sum 0 4) + 4 * (sum 11 3 - sum 8 3)
  let q := sum 8 3 - sum 0 3
  if x.length ≠ 14 ∨ q = 0 then none
  else
    let n := (50000 * p - 200000 * q) * 1000000
    let d := 8 * q * 174977
    if 0 < d then some (n, d.toNat) else some (-n, (-d).toNat)

/-- What a frame gives for reader r: its crossings, y and PES when they can be computed, and whether the sample is valid. -/
def sampleReader (s : State) (r : Nat) (x : Option (List Int)) (steps : Nat) : Reader :=
  let o := readerAt s r
  let frame := if s.srv.reverse then o.frame - steps else o.frame + steps
  let seen := if (rxAt s r).up then x.bind lateralRatio else none
  match seen with
  | none => { o with valid := false, frame := frame, good := 0 }
  | some (n, d) =>
    let y := roundTo n d
    let pes := clamp (-32767) 32767 (y - (loopAt s 2).ramp)
    let ok := decide (n.natAbs ≤ 60000 * d) && readerEnabled s r && o.band == some (expectedBand s r)
    { o with valid := ok, y := y, pes := pes, frame := frame,
             good := if ok ∧ pes.natAbs ≤ Cfgw.pesResume s then min (o.good + 1) 255 else 0 }

/-- Mean of integers where there is one. -/
def meanOf (xs : List Int) : Option Int := if xs = [] then none else some (roundTo (xs.foldl (· + ·) 0) xs.length)

/-- The derived quantities of a frame from its samples (R270). -/
def derive (ok : List (Nat × Reader)) (s : State) : State :=
  let pesOf := fun (sel : Nat → Bool) => (ok.filter fun x => sel x.1).map fun x => x.2.pes
  let lat := meanOf (ok.map fun x => x.2.y)
  let rf := pesOf fun r => !onRear r
  let rr := pesOf onRear
  let azNum := rr.foldl (· + ·) 0 * (rf.length : Int) - rf.foldl (· + ·) 0 * (rr.length : Int)
  let az := if rf = [] ∨ rr = [] then none else some (roundTo (azNum * 2500) (3 * rf.length * rr.length))
  let both := [(0, 1), (2, 3)].filterMap fun (a, b) =>
    match ok.find? fun x => x.1 == a, ok.find? fun x => x.1 == b with
    | some x, some y => some (y.2.pes - x.2.pes)
    | _, _ => none
  let sp := meanOf both
  updSrv (fun v => { v with
    lateral := lat.getD v.lateral, latValid := lat.isSome, azimuth := az.getD v.azimuth, azValid := az.isSome,
    span := sp.getD v.span, spanValid := sp.isSome }) s

/-! ## Write inhibit by PES (R205, R207) -/

/-- Whether a PES entry is already waiting or active. -/
def pesPosted (s : State) : Bool := s.wrv.pes || (postedTo s .wrv).any fun m => m.src == Src.servo && m.code == 0x8001

/-- A reader in use whose valid sample lies beyond `pes_limit`. -/
def pesBeyond (s : State) (ok : List (Nat × Reader)) : Option (Nat × Reader) :=
  ok.find? fun x => decide (Cfgw.pesLimit s < x.2.pes.natAbs)

/-- Post the PES inhibit. With no valid sample the argument names no sample the spec defines: it is a free value. -/
def checkPes (ok : List (Nat × Reader)) (s : State) : State :=
  if pesPosted s then s
  else
    match pesBeyond s ok with
    | some (r, x) => post .wrv Src.servo 0x8001 (r + toField 16 x.pes * 65536) s
    | none =>
      if 2 ≤ s.srv.invalidRun then
        let a := drawn s
        drawNext (post .wrv Src.servo 0x8001 (a % 4 + a / 4 % 65536 * 65536) s)
      else s

/-- PES_RESUME (R207): every reader in use has given `resume_frames` valid samples within `pes_resume`. -/
def execPesResume (s : State) : Out :=
  let use := (List.range 4).filter fun r => readerEnabled s r
  let clear := (postedTo s .wrv).any fun m => m.src == Src.servo && m.code == 0x0001
  if s.wrv.pes ∧ clear = false ∧ (use.all fun r => decide (Cfgw.resumeFrames s ≤ (readerAt s r).good)) then
    go (post .wrv Src.servo 0x0001 0 s)
  else go s

/-- The tape speed limit of overspeed (R205), 2^-16 m/s times 100. -/
def speedLimit (s : State) : Nat := if wrapClass s s.srv.wrap = 0 then 845 * 65536 else 890 * 65536

/-- The Bridle posts overspeed, and clears the loop cause when neither it nor a faulted loop remains. -/
def checkOverspeed (s : State) : State :=
  let waits := fun code => (postedTo s .wrv).any fun m => m.src == Src.bridle && m.code == code
  let tooFast := decide (speedLimit s < s.srv.speed.natAbs * 100)
  if tooFast ∧ s.wrv.overspeed = false ∧ waits 0x8003 = false then post .wrv Src.bridle 0x8003 8 s
  else if tooFast = false ∧ s.wrv.overspeed ∧ waits 0x0003 = false ∧ (s.brd.loops.all fun x => x.2.mode != .fault) then post .wrv Src.bridle 0x0003 0 s
  else s

/-! ## The Tape Clock (R273, R274) -/

/-- Move the clock towards a position, never against the direction of travel. -/
def moveClock (pos : Nat) (s : State) : State :=
  updSrv (fun v => { v with clock := if v.reverse then min v.clock pos else max v.clock pos }) s

/-- Advance the clock by a distance in the direction of travel. -/
def advanceClock (d : Nat) (s : State) : State :=
  updSrv (fun v => { v with clock := if v.reverse then v.clock - d else min (v.clock + d) (2 ^ 40 - 1) }) s

/-- The clock flywheels over a distance at the last measured speed, within `flywheel_frames`. -/
def flywheelBy (d : Nat) (s : State) : State :=
  if s.srv.valid = false then s
  else
    let s1 := if s.srv.flywheel = 0 then inc 0x0C0108 s else s
    let total := s1.srv.flywheel + d
    let s2 := updSrv (fun v => { v with flywheel := total }) s1
    if total ≤ Cfgw.flywheelFrames s * 256 then advanceClock d s2 else s2

/-- The clock at a frame: checked against the mean position of the valid readers, or flywheeling. -/
def clockFrame (ok : List (Nat × Reader)) (s : State) : State :=
  match meanOf (ok.map fun x => (clockUnder x.1 x.2.frame : Int)) with
  | none => flywheelBy 256 s
  | some c =>
    let s1 := updSrv (fun v => { v with flywheel := 0, slowTravel := 0 }) s
    if s.srv.valid ∧ s.srv.lposLocked then moveClock c.toNat s1 else s1

/-- CLOCK_FLYWHEEL_EXPIRY (R274): beyond `flywheel_frames`, or 10 mm of travel below 0.10 m/s. -/
def execClockFlywheelExpiry (s : State) : Out :=
  if s.srv.valid ∧ (Cfgw.flywheelFrames s * 256 < s.srv.flywheel ∨ 25600 ≤ s.srv.slowTravel) then
    go (updSrv (fun v => { v with valid := false, lposLocked := false }) s)
  else go s

/-! ## Servo ticks -/

/-- Frames of 100 µm: a period of `t` in 1/64 sample of 320 Msps. Decoded at 0.10 to 9.00 m/s (R271). -/
def decodes (t : Nat) : Bool := decide (t ≤ 20480000 ∧ 2048000 ≤ 9 * t)

/-- The SPEED measurement and the source that gives it: the servo from 0.50 m/s on, and down to 0.45 m/s (R271). -/
def speedSource (s : State) : State :=
  let v := s.srv.speed.natAbs
  updBrd (fun b => { b with servoSpeed := if b.servoSpeed then decide (29492 ≤ v) else decide (32768 ≤ v) }) s

/-- The tension trim follows a valid span error (R284). -/
def updateTrim (s : State) : State :=
  if s.srv.spanValid then
    let t : Int := Cfgw.tensionTrim s
    let x := clamp (-t) t (s.brd.trim + roundTo s.srv.span (2 ^ Cfgw.spanShift s))
    updLoop 1 (fun l => if l.mode = .off ∨ s.brd.motion = .unthreading then l else { l with target := Cfgw.tensionNominal s + x })
      (updBrd (fun b => { b with trim := x }) s)
  else s

/-- Speed within 1/16 m/s of its target, servo frame by servo frame. -/
def countSettled (s : State) : State :=
  let near := decide ((s.srv.speed - (loopAt s 0).target).natAbs ≤ 4096)
  updBrd (fun b => { b with settledCount := if near then min (b.settledCount + 1) 64 else 0 }) s

/-- The servo-ticked loops; `num` ÷ `den` is the tick period in seconds, `seen` whether the frame gave a valid sample. -/
def servoTick (num den : Nat) (seen : Bool) (s : State) : State :=
  let s0 := speedSource s
  let y := if s0.brd.servoSpeed then s0.srv.speed else reelSpeed s0
  let ok := if s0.brd.servoSpeed then seen else (epAt s0 (takeUpReel s0)).seen
  let ms := fun n => roundTo (loopSlew s0 n * 1000 * num) den
  let s1 := mix (runLoop 0 y ok (roundTo (s0.brd.slew * 65536 * num) den) s0)
  let s2 := runLoop 2 s1.srv.lateral (seen && s1.srv.latValid) (ms 2) s1
  let s3 := runLoop 3 (loopAt s2 2).out ((loopAt s2 2).mode != .off) (ms 3) s2
  runLoop 4 s3.srv.azimuth (seen && s3.srv.azValid) (ms 4) s3

/-- SERVO_FRAME (R270): samples, inhibit checks, derived quantities, the clock, the loops and the ensemble. -/
def execServoFrame (f : ServoObs) (s : State) : Out :=
  if domOn s 6 = false ∨ decodes f.period = false then go s
  else
    let rs := (List.range 4).map fun r => (r, sampleReader s r (f.readers.getD r none) (f.advance.getD r 0))
    let good := rs.filter fun x => x.2.valid
    let bad := ((List.range 4).filter fun r => readerEnabled s r && !(rs.any fun x => x.1 == r && x.2.valid)).length
    -- the two frames after a clock jump yield no valid sample for R205
    let none_ := good.isEmpty || decide (0 < s.srv.mute)
    let speed := roundTo (2048000 * 65536) f.period
    let s1 := updSrv (fun v => { v with
      readers := rs
      reverse := if good.isEmpty then v.reverse else f.reverse
      speed := if good.isEmpty then v.speed else if f.reverse then -speed else speed
      invalidRun := if none_ then min (v.invalidRun + 1) 2 else 0
      mute := v.mute - 1 }) (addCtr 0x0C0114 bad s)
    let s2 := sameCycle .wrv (fun t => checkOverspeed (checkPes (if 0 < s.srv.mute then [] else good) t)) (clockFrame good (derive good s1))
    if s2.brd.ready = false then go (ensembleUpdate s2)
    else
      let s3 := countSettled (servoTick f.period 20480000000 (!good.isEmpty) (estimateRadii (updateTrim s2)))
      go (ensembleUpdate (motionStep false s3))

/-- STANDSTILL_TICK (R274, R279): 100 µs without a servo frame. Below 0.10 m/s the clock follows the reels. -/
def execStandstillTick (travel : Int) (s : State) : Out :=
  if s.brd.ready = false then go s
  else
    let slow := decide (travel.natAbs * 10 < 256)
    let s1 :=
      if slow then
        let t := updSrv (fun v => { v with
          reverse := if travel = 0 then v.reverse else decide (travel < 0)
          speed := travel * 256
          latValid := false, azValid := false, spanValid := false
          readers := v.readers.map fun (r, x) => (r, { x with valid := false }) }) s
        if t.srv.valid then updSrv (fun v => { v with slowTravel := v.slowTravel + travel.natAbs }) (advanceClock travel.natAbs t) else t
      else flywheelBy (s.srv.speed.natAbs / 256) s
    go (motionStep (travel == 0) (servoTick 1 10000 false s1))

/-! ## LPOS words (R265, R266) -/

/-- CRC-8, polynomial x^8 + x^2 + x + 1, initial value 0. -/
def crc8 (b : List Bool) : Nat := (crcBits (0x07#8) 0x00#8 b).toNat

/-- A number from bits, most significant first. -/
def ofBits (b : List Bool) : Nat := b.foldl (fun n x => 2 * n + b2n x) 0

/-- LPOS and band number of a word in frame order, when its CRC holds. -/
def lposParse (b : List Bool) : Option (Nat × Nat) :=
  if b.length = 36 ∧ crc8 (b.take 28) = ofBits (b.drop 28) then some (ofBits (b.take 24), ofBits ((b.drop 24).take 3)) else none

/-- The frame under a reader when word n ends: its last frame forward, its first in reverse. -/
def wordEnd (s : State) (n : Nat) : Nat := if s.srv.reverse then 36 * n else 36 * n + 35

/-- The word that follows word n in the direction of travel. -/
def wordAfter (s : State) (n : Nat) : Nat := if s.srv.reverse then n - 1 else n + 1

/-- Set the clock, and every reader's count, from a reader's frame. -/
def resetCount (r frame : Nat) (s : State) : State :=
  let c := clockUnder r frame
  updSrv (fun v => { v with
    clock := c % 2 ^ 40
    readers := v.readers.map fun (q, x) => (q, { x with frame := frameUnder q (c / 256) }) }) s

/-- LPOS_WORD_ACCEPTED (R266). -/
def execLposWordAccepted (r : Nat) (word : List Bool) (s : State) : Out :=
  match lposParse (if s.srv.reverse then word.reverse else word) with
  | none => go s
  | some (n, band) =>
    if 4 ≤ r ∨ domOn s 6 = false ∨ band ≠ expectedBand s r then go s
    else
      let x := readerAt s r
      let s1 := updReader r (fun x => { x with band := some band, lastLpos := some n }) s
      if s.srv.lposLocked = false then
        if (x.lastLpos.map (wordAfter s)) = some n then
          go (clockValid (updSrv (fun v => { v with lposLocked := true, flywheel := 0, slowTravel := 0 }) (resetCount r (wordEnd s n) s1)))
        else go s1
      else if x.frame = wordEnd s n then go (updReader r (fun x => { x with rogue := none }) s1)
      else
        let s2 := inc 0x0C0100 s1
        if (x.rogue.map (wordAfter s)) = some n then
          let s3 := resetCount r (wordEnd s n) (inc 0x0C0104 (updReader r (fun x => { x with rogue := none }) s2))
          go (postEvent Src.servo 0x0C 0x01 false s3.srv.clock (updSrv (fun v => { v with mute := 2 }) s3))
        else go (updReader r (fun x => { x with rogue := some n }) s2)

end Sys2Proof.Machine
end

