-- ==== Sys2Proof/Machine/Read.lean ====
section
/-!
DEFINITION. Reading (02, 04, 05, 06): the source of each record, Gate locks, packets parsed back from buffer or tape,
decryption, expansion, delivery; what the tape is asked for.
-/

namespace Sys2Proof.Machine

/-! ## Packets read back (R96 to R99, R114) -/

/-- A packet as it lies in stored order: descriptors with header data, header, authenticated data, ciphertext, tag. -/
structure RawPkt where
  descs : List (Desc48 × Bytes)
  hdr : PktHeader
  aad : Bytes
  ct : Bytes
  tag : Bytes
  deriving DecidableEq, Repr

/-- What begins at a unit boundary of stored bytes. -/
inductive UnitAt where
  /-- the unit goes on past the bytes given -/
  | short
  /-- a check of R114 fails -/
  | bad
  | mark (d : Desc48)
  | packet (p : RawPkt) (used : Nat)
  deriving DecidableEq, Repr

/-- Descriptors and header of a unit; `all` is the unit from its first byte, `off` how far it is parsed. -/
def parseUnit : Nat → Bytes → Nat → List (Desc48 × Bytes) → UnitAt
  | 0, _, _, _ => .bad
  | f + 1, all, off, ds =>
    let b := all.drop off
    if b = [] then .short
    else if beAt b 0 1 = 0x21 then
      if b.length < 48 then .short
      else
        match Desc48.parse b with
        | none => .bad
        | some d =>
          if d.mark then (if ds = [] then .mark d else .bad)
          else if b.length < 48 + d.headerLen then .short
          else parseUnit f all (off + 48 + d.headerLen) (ds ++ [(d, slice b 48 d.headerLen)])
    else if beAt b 0 1 = 0x11 then
      if b.length < 16 then .short
      else
        match PktHeader.parse b with
        | none => .bad
        | some h =>
          if h.recStarts ≠ ds.length then .bad
          else if b.length < 32 + h.payloadLen then .short
          else .packet ⟨ds, h, all.take (off + 16), slice b 16 h.payloadLen, slice b (16 + h.payloadLen) 16⟩ (off + 32 + h.payloadLen)
    else .bad

/-- The unit at the start of a string: at most 64 descriptors precede a packet header. -/
def unitAt (b : Bytes) : UnitAt := parseUnit 66 b 0 []

/-! ## The tape copy (R164, R165, R168, R182, R256, R325) -/

/-- A decoded data stream of the loaded cartridge, from read staging, the weak list or the read-ahead ring. -/
def tapeSet (s : State) (p ds : Nat) : Option Bytes :=
  let weak := s.rch.weak.find? fun w => w.serial == s.cart.serial && w.writePass == s.cart.writePass && w.part == p && w.ds == ds
  match weak with
  | some w => some w.stream
  | none =>
    match s.rch.staging.find? fun x => x.part == p && x.ds == ds with
    | some x => some x.stream
    | none => (s.rch.raRing.find? fun x => x.1 == p && x.2.1 == ds).map fun x => x.2.2

def dsitOf (stream : Bytes) : Option Dsit := Dsit.parse (slice stream userArea dsitSize)

/-- User bytes of a user data set. -/
def usedBytes (stream : Bytes) : Bytes := stream.take (((dsitOf stream).map Dsit.used).getD 0)

/-- The user data set after one in number: the next, or the first of the next Loft after index 29, or after the last of a
Loft closed early. -/
def nextUser (s : State) (p ds : Nat) (short : Bool) : Nat :=
  if 29 ≤ ds % 32 then 32 * (ds / 32 + 1)
  else if short ∧ (tapeSet s p (ds + 1)).isNone ∧ (tapeSet s p (32 * (ds / 32) + 30)).isSome then 32 * (ds / 32 + 1)
  else ds + 1

/-- Stored bytes from a data set's offset on through the data sets that follow it, and the first one that is not at hand;
with each data set, where its bytes begin in the string. -/
def tapeRun (s : State) (p : Nat) : Nat → Nat → Nat → Nat → List (Nat × Nat) × Bytes × Nat
  | 0, ds, _, _ => ([], [], ds)
  | f + 1, ds, off, at_ =>
    match tapeSet s p ds with
    | none => ([], [], ds)
    | some st =>
      let b := (usedBytes st).drop off
      let r := tapeRun s p f (nextUser s p ds (((dsitOf st).map Dsit.shortLoft).getD false)) 0 (at_ + b.length)
      ((ds, at_) :: r.1, b ++ r.2.1, r.2.2)

/-- The data set that holds byte i of a run. -/
def runSet (r : List (Nat × Nat)) (i : Nat) : Nat × Nat :=
  match (r.filter fun x => decide (x.2 ≤ i)).getLast? with
  | some (d, a) => (d, i - a)
  | none => (0, 0)

/-- What a walk finds: packet `k` of record n, the descriptor that governs its key, and where the unit begins. -/
inductive Walk where
  | short
  | bad (at_ : Nat)
  | mark
  | packet (p : RawPkt) (d : Desc48) (at_ : Nat)
  deriving DecidableEq, Repr

/-- Walk unit by unit to record n, and k packets on. -/
def walk (n : Nat) : Nat → Bytes → Nat → Option Nat → Option Desc48 → Walk
  | 0, _, _, _, _ => .short
  | f + 1, b, at_, left, last =>
    match unitAt b with
    | .short => .short
    | .bad => .bad at_
    | .mark d => if left = none ∧ d.number = n then .mark else walk n f (b.drop 48) (at_ + 48) left last
    | .packet p used =>
      let here := p.descs.find? fun x => x.1.number == n
      match left, here with
      | some 0, _ => match last with | some d => .packet p d at_ | none => .bad at_
      | some (k + 1), _ => walk n f (b.drop used) (at_ + used) (some k) last
      | none, some x => .packet p x.1 at_
      | none, none => walk n f (b.drop used) (at_ + used) none ((p.descs.getLast?.map Prod.fst).or last)

/-- Walk to packet k of record n. -/
def walkTo (n k : Nat) (b : Bytes) : Walk :=
  match walk n (b.length + 1) b 0 none none with
  | .packet p d at_ =>
    if k = 0 then .packet p d at_
    else
      match unitAt (b.drop at_) with
      | .packet _ used => walk n (b.length + 1) (b.drop (at_ + used)) (at_ + used) (some (k - 1)) (some d)
      | _ => .bad at_
  | w => w

/-- Where a walk for record n begins in a data set: at the nearest entry of the descriptor index whose record is at most n and
begins its packet (R182), no earlier than `base`, or at `base`. With a truncation in the data set its Record Numbers do not
follow the index. -/
def indexStart (d : Dsit) (user : Bytes) (n base : Nat) : Nat :=
  if d.truncOffs ≠ [] ∨ n < d.firstRec then base
  else
    ((List.range ((n - d.firstRec) / indexStride d.descCount + 1)).filterMap fun i =>
      (d.descIdx[i]?).bind fun o =>
        match Desc48.parse (user.drop o) with
        | some x => if base ≤ o ∧ x.number ≤ n ∧ (x.mark = true ∨ x.start = 0) then some o else none
        | none => none).getLast?.getD base

/-- The data set at which to begin a walk for record n, and the offset in it: the last one at hand whose first record is
at most n, no earlier than the segment's first descriptor. -/
def walkStart (s : State) (p n : Nat) (g : Seg) : Option (Nat × Nat) :=
  let has := fun (ds : Nat) (st : Bytes) => match dsitOf st with
    | some d => if d.kind = 1 ∧ d.part = p ∧ d.writePass = s.cart.writePass ∧ g.ds ≤ ds ∧ d.firstRec ≤ n ∧ d.firstUnit ≠ 0xFFFFFFFF
        then some (ds, indexStart d (usedBytes st) n (if ds = g.ds then max g.off d.firstUnit else d.firstUnit)) else none
    | none => none
  let nums := (s.rch.staging.filter fun x => x.part == p).map Staged.ds ++ (s.rch.raRing.filter fun x => x.1 == p).map (fun x => x.2.1)
    ++ (s.rch.weak.filter fun w => w.part == p).map Weak.ds
  (sortBy Prod.fst (nums.filterMap fun d => (tapeSet s p d).bind (has d))).getLast?

/-- The first data set of the Loft in which record n of a segment is looked for (R168 step 2). -/
def loftStart (s : State) (p n : Nat) (g : Seg) : Nat :=
  match ((partAt s p).dir.lofts.filter fun l => decide (l.first ≤ n ∧ g.ds ≤ l.ds)).getLast? with
  | some l => max l.ds g.ds
  | none => g.ds

/-- What the tape copy of record n, packet k, gives: with a packet, the data set and user byte offset of its header. -/
inductive TapeAns where
  | none_
  | need (ds : Nat)
  | bad (ds : Nat)
  | mark
  | packet (p : RawPkt) (d : Desc48) (ds off : Nat)
  deriving DecidableEq, Repr

def fromTape (s : State) (p n k : Nat) : TapeAns :=
  match segmentOf (partAt s p).dir n with
  | none => .none_
  | some g =>
    match walkStart s p n g with
    | none => .need (loftStart s p n g)
    | some (ds, off) =>
      let r := tapeRun s p (s.rch.staging.length + s.rch.raRing.length + s.rch.weak.length + 1) ds off 0
      match walkTo n k r.2.1 with
      | .short => .need r.2.2
      | .bad i => .bad (runSet r.1 i).1
      | .mark => .mark
      | .packet q d i =>
        let x := runSet r.1 (i + q.aad.length - 16)
        .packet q d x.1 (if x.1 = ds then x.2 + off else x.2)

/-! ## Asking for the tape (R168, R248, R253) -/

/-- Where a data set is looked for: its latest relocation, or its Loft's start. -/
def dsPlace (s : State) (p ds : Nat) : Option (Nat × Nat) :=
  let d := (partAt s p).dir
  match (d.relocs.filter fun r => r.ds == ds).getLast? with
  | some r => some (r.wrap, r.frame)
  | none => ((d.lofts.filter fun l => decide (l.ds ≤ ds)).getLast?).map fun l => (l.wrap, l.frame)

/-- The argument of a reposition (R299). -/
def reposArg (pos : Nat) (reverse : Bool) (speed slew : Nat) : Nat :=
  pos % 2 ^ 40 + b2n reverse * 2 ^ 40 + speed % 1024 * 2 ^ 41 + slew % 32 * 2 ^ 51

/-- The read speed in force: the top speed that management and configuration allow. -/
def readSpeed (s : State) : Nat := min (Cfgw.vMax s) s.brd.ceiling

/-- Send the tape to 100 frames before a place. `src` is the formatter, or the decoders for read recovery. -/
def sendTape (src wrap frame speed slew : Nat) (s : State) : State :=
  let rev := reverseWrap wrap
  let pos := if rev then (frame + 100) * 256 else (frame - 100) * 256
  post .bridle src 0x0003 (reposArg pos rev speed slew) (post .bridle src 0x0005 wrap s)

/-- The tape is asked for a data set: nothing when it is on its way, or when the tape already runs on into it. -/
def wantTape (p ds : Nat) (s : State) : State :=
  if s.rch.ladder.isSome ∨ s.rch.seek = some (p, ds) then s
  else
    let streaming := s.brd.motion == .running && s.wrv.windowOpen == false
      && match s.rch.lastRead with | some (q, d) => q == p && decide (d < ds ∧ ds ≤ d + 3) | none => false
    let s1 := updRch (fun r => { r with seek := some (p, ds) }) (needTape s)
    if streaming then s1
    else
      match dsPlace s p ds with
      | none => s1
      | some (w, f) => sendTape Src.dec w f (readSpeed s) 0 s1

/-! ## Delivery (R48, R115) -/

def updRead (seq : Nat) (f : Cmd → Cmd) (s : State) : State := updCmd seq f s

/-- A read stops: its locks go, its result says what was delivered. -/
def stopRead (seq status : Nat) (s : State) : State :=
  match findCmd s seq with
  | none => s
  | some c => complete seq status (c.delivered % 2 ^ 40 + c.entries % 2 ^ 24 * 2 ^ 40) (unlock (fun g => g.seq == seq) (updCmd seq (fun c => { c with hold := none }) s))

/-- The entry of the length list for a read (R42). -/
def lengthEntry (len hdr : Nat) (mark : Bool) : Nat := len % 2 ^ 25 + hdr % 512 * 2 ^ 32 + b2n mark * 2 ^ 63

def writeEntry (c : Cmd) (v : Nat) (s : State) : State := hostWrite (c.e.auxAddr + 8 * c.entries) (le 8 v) s

/-- One whole record reaches host memory; the command then ends if it was its last. The position page's `current` follows the
records and marks delivered and LOCATE, whichever copy they came from, and tape writes leave it (DESIGN CHOICE, log entry
91). -/
def putRecord (seq : Nat) (hdr data : Bytes) (s : State) : State :=
  match findCmd s seq with
  | none => s
  | some c =>
    let s1 := writeEntry c (lengthEntry data.length hdr.length false) (sglWrite c.sgl c.delivered data s)
    let s2 := if c.e.headerLen = 0 then s1 else hostWrite (c.e.headerAddr + c.entries * c.e.headerLen) (hdr.take c.e.headerLen) s1
    let s3 := updCmd seq (fun c => { c with
      next := c.next + 1, delivered := c.delivered + data.length, entries := c.entries + 1, part := [], pkt := 0 }) s2
    let s4 := updPart c.e.partition (fun x => { x with current := c.next + 1 }) s3
    if c.e.count ≤ c.entries + 1 then stopRead seq Status.ok s4 else s4

/-- A mark is reached. -/
def putMark (seq : Nat) (s : State) : State :=
  match findCmd s seq with
  | none => s
  | some c =>
    let s1 := updCmd seq (fun c => { c with next := c.next + 1, entries := c.entries + 1, markHit := true })
      (writeEntry c (lengthEntry 0 0 true) s)
    stopRead seq Status.ok (updPart c.e.partition (fun x => { x with current := c.next + 1 }) s1)

/-- End of data is reached. -/
def putEnd (seq : Nat) (s : State) : State := stopRead seq Status.ok (updCmd seq (fun c => { c with eodHit := true }) s)

/-- The read still runs and wants record n next. -/
def wants (s : State) (seq n : Nat) : Bool :=
  match runningCmd s seq 0x02 with
  | some c => c.next == n && decide (n < c.endSeen)
  | none => false

/-- One record that begins in an opened packet: number, offset, length, header data. -/
def deliverStart (seq : Nat) (data : Bytes) (x : Nat × Nat × Nat × Bytes) (s : State) : State :=
  let (n, off, len, hdr) := x
  if wants s seq n = false then s
  else
    match findCmd s seq with
    | none => s
    | some c =>
      if c.pkt ≠ 0 then s
      else if c.e.length < c.delivered + len then stopRead seq Status.lengthLimit (writeEntry c (lengthEntry len hdr.length false) s)
      else
        let got := slice data off len
        if got.length = len then putRecord seq hdr got s
        else updCmd seq (fun c => { c with part := got, pkt := 1, curLen := len, curHdr := hdr }) s

/-- An opened packet is delivered: to the large record in progress, or record by record. -/
def deliver (seq : Nat) (data : Bytes) (starts : List (Nat × Nat × Nat × Bytes)) (s : State) : State :=
  match findCmd s seq with
  | none => s
  | some c =>
    if c.pkt = 0 then each (deliverStart seq data) starts s
    else
      let all := c.part ++ data
      if c.curLen ≤ all.length then putRecord seq c.curHdr (all.take c.curLen) s
      else updCmd seq (fun c => { c with part := all, pkt := c.pkt + 1 }) s

/-! ## Opening a packet (R119, R130, R136, R137) -/

/-- Why no root key is found: a slot that held the generation was erased after the command was accepted, be it the
descriptor's or the one that served it (R133, R136), or no slot holds it. -/
def noKeyStatus (s : State) (gen seq : Nat) : Nat :=
  if s.cip.slots.any fun x => x.2.erasedGens.contains gen && decide (seq < x.2.erasedAt) then Status.keyErased else Status.keySlotEmpty

/-- The cipher has two hold buffers (R119): a packet keeps one until it goes to a decompressor. -/
def holdFree (s : State) : Bool :=
  decide ((s.hq.cmds.filter fun c => c.hold.any fun h => h.engine == none).length < 2)

/-- The packet is decrypted into the hold buffer and its tag checked; a raw packet is delivered at once, a DLZ packet waits
for a decompressor. `ds`, `off` place the packet header on tape
for the event of a tag mismatch (R137, R425). -/
def openPacket (seq p : Nat) (q : RawPkt) (d : Desc48) (starts : List (Nat × Nat × Nat × Bytes)) (ds off : Nat) (s : State) : State :=
  match rootFor s d.keySlot d.keyGen seq with
  | none => stopRead seq (noKeyStatus s d.keyGen seq) s
  | some (slot, root) =>
    let x := partAt s p
    let r := readKey slot d.keyGen root (packetLabel x.originYard x.originSerial p d.keyGen d.hostLabel) s
    match gcmDecrypt r.1 (ivOf d.prefix_ q.hdr.counter) q.aad q.ct q.tag with
    | none =>
      stopRead seq Status.authFail (postEvent Src.cip 0x04 0x01 false (ds % 2 ^ 32 + off % 2 ^ 25 * 2 ^ 32) (inc 0x040020 r.2))
    | some plain =>
      let pl := fit plain q.hdr.payloadLen
      if q.hdr.dlz then
        updCmd seq (fun c => { c with hold := some { dlz := true, hostLen := q.hdr.hostLen, payload := pl, engine := none, starts := starts } }) r.2
      else deliver seq pl starts r.2

/-- A descriptor as a record that begins in its packet. -/
def startOf (x : Desc48 × Bytes) : Nat × Nat × Nat × Bytes := (x.1.number, x.1.start, x.1.length, x.2)

/-! ## The per-record decision (R61, R62, R254) -/

/-- Whether the Loss Log lists a record of the loaded cartridge. -/
def lossListed (s : State) (p n : Nat) : Bool :=
  s.shd.lossLog.any fun l => l.part == p && l.serial == s.cart.serial && decide (l.first ≤ n ∧ n < l.first + l.count)

/-- The packet of a write that a read wants next: of the record's packets, the one after those already taken. -/
def wantedPkt (w : Write) (c : Cmd) : Nat := ((w.recs[c.next - w.first]?).map Rec.pkt).getD 0 + c.pkt

/-- The packets of record n of a write. -/
def recPkts (w : Write) (n : Nat) : List Nat :=
  match w.recs[n - w.first]? with
  | some r => (List.range (r.lastPkt + 1)).drop r.pkt
  | none => []

/-- Whether a packet of record n is in flight, so that its copies are unsettled (R61, R62, R90); a read that takes the
buffer copy of the write as gone looks at the copies that stand (R87). -/
def unsettled (s : State) (w : Write) (c : Cmd) (n : Nat) : Bool := !c.gone.contains w.seq && (recPkts w n).any (inFlight s w)

/-- Take a Gate lock on the next record of a read, or wait GATED for one. -/
def gateRead (seq n : Nat) (w : Write) (s : State) : State :=
  if s.hq.gates.any fun g => g.seq == seq && g.write == w.seq && g.first == n then s
  else if gateFree s then lockFor seq n w (setSt seq .running s)
  else setSt seq .gated s

/-- Count reads from tape in ascending order, as a read takes its first record from tape or elsewhere (R325). -/
def noteSource (c : Cmd) (tape : Bool) (s : State) : State :=
  if c.entries ≠ 0 ∨ c.pkt ≠ 0 then s
  else
    updPart c.e.partition (fun x =>
      if tape = false then { x with ascending := 0, lastTapeRead := none }
      else
        let up := match x.lastTapeRead with | some q => decide (q ≤ c.e.position) | none => false
        { x with ascending := if up then x.ascending + 1 else 1, lastTapeRead := some c.e.position }) s

/-- A read looks at its next record: it waits under a lock, or takes the next packet of the record's version. Answers the
data set that must go up the ladder when a packet from tape fails R114. -/
def readStep (seq : Nat) (s : State) : Option (Nat × Nat) × State :=
  match runningCmd s seq 0x02 with
  | none => (none, s)
  | some c =>
    let p := c.e.partition
    if c.hold.isSome then (none, s)
    else if c.endSeen ≤ c.next then (none, putEnd seq s)
    else
      match versionFor s p c.seq c.next with
      | some w =>
        if w.taken = false ∨ unsettled s w c c.next = true then (none, gateRead seq c.next w s)
        else if w.kind = .marks then (none, putMark seq (noteSource c false s))
        else
          let i := wantedPkt w c
          let lost := if lossListed s p c.next then Status.recordLost else Status.readError
          match w.pkts[i]? with
          | none => (none, stopRead seq Status.readError s)
          | some k =>
            if w.hasCopy (c.gone.contains w.seq) i = false then (none, stopRead seq lost s)
            else
              match unitAt k.stored with
              | .packet q _ =>
                let seen := fun (x : Desc48 × Bytes) => (versionFor s p c.seq x.1.number).any fun v => v.seq == w.seq
                let d := (q.descs.head?.map Prod.fst).getD (descOf s w 0 (w.recs.headD ⟨0, [], 0, 0⟩))
                let at_ := w.tapePlace i
                (none, if holdFree s then openPacket seq p q d ((q.descs.filter seen).map startOf) at_.1 at_.2 (noteSource c false s) else s)
              | _ => (none, stopRead seq lost s)
      | none =>
        if loaded s = false then (none, stopRead seq Status.notReady s)
        else if lossListed s p c.next then (none, stopRead seq Status.recordLost s)
        else
          match fromTape s p c.next c.pkt with
          | .none_ => (none, stopRead seq Status.readError s)
          | .need ds => (none, wantTape p ds s)
          | .bad ds => (some (p, ds), s)
          | .mark => (none, putMark seq (noteSource c true s))
          | .packet q d ds off => (none, if holdFree s then openPacket seq p q d (q.descs.map startOf) ds off (noteSource c true s) else s)

/-! ## READ_RECORDS (R48, R470) and what moves it on -/

/-- The lock that a read needs at once: on a version not yet taken, or with a packet of its first record unsettled. -/
def firstLock (s : State) (c : Cmd) : Option Write :=
  match versionFor s c.e.partition c.seq c.next with
  | some w => if w.taken = false ∨ unsettled s w c c.next = true then some w else none
  | none => none

/-- READ_RECORDS (R48, R61 to R64, R470). -/
def execReadRecords (seq : Nat) (sgl : Bytes) (s : State) : Out :=
  match due s seq 0x02 with
  | none => go s
  | some c =>
    let e := c.e
    if e.count = 0 ∨ 4096 < e.count ∨ 256 < e.headerLen ∨ sglOk e sgl e.length = false then go (complete seq Status.invalidField 0 s)
    else if serving s = false then go (complete seq Status.notReady 0 s)
    else if noPart s e.partition then go (complete seq Status.invalidField 0 s)
    else
      let c1 := { c with st := .running, sgl := sglOf e sgl, next := e.position, endSeen := (partAt s e.partition).acceptedEnd }
      let s1 := updCmd seq (fun _ => c1) s
      match firstLock s1 c1 with
      | some w => go (gateRead seq c1.next w s1)
      | none => go s1

/-- GATE_LOCK_GRANT (R63): the waiting command earliest in acceptance order. -/
def execGateLockGrant (s : State) : Out :=
  if gateFree s = false then go s
  else
    match s.hq.cmds.find? fun c => c.st == .gated with
    | none => go s
    | some c =>
      match versionFor s c.e.partition c.seq c.next with
      | some w => go (gateRead c.seq c.next w s)
      | none => go (setSt c.seq .running s)

/-- A Gate lock has done its part: the write it names is Taken and no packet of the record is in flight, or it is gone. -/
def gateDone (s : State) (g : Gate) : Bool :=
  match findWrite s g.write with
  | some w => w.taken && !(recPkts w g.first).any (inFlight s w)
  | none => true

/-- COPIES_SETTLED (R62): the locks of a read that have done their part go. -/
def execCopiesSettled (seq : Nat) (s : State) : Out := go (unlock (fun g => g.seq == seq && gateDone s g) s)

end Sys2Proof.Machine
end

