-- ==== Sys2Proof/Machine/Rows.lean ====
section
/-!
DEFINITION. Decoding a data set from rows read (07, 09): placing rows, C1 and C2 in passes, the row pool, and C3 across a
Loft.
-/

namespace Sys2Proof.Machine

/-! ## Committed fields of the decoders (R259) -/

def c2MaxErrors (s : State) : Nat := bits (Cfgw.rchWord s 3) 15 12
def c1MaxErrors (s : State) : Nat := bits (Cfgw.rchWord s 3) 11 8
def decodePasses (s : State) : Nat := bits (Cfgw.rchWord s 3) 1 0

/-! ## Placing rows (R194) -/

/-- Where a row read belongs. -/
inductive RowPlace where
  | at (ds sds row : Nat)
  | stale
  | dropped
  deriving DecidableEq, Repr

/-- The channel map under which a data set's rows are placed: that of a decoded data set of its Loft, or else the committed
one (log entry 96). -/
def mapNear (s : State) (p ds : Nat) : List Nat :=
  ((((s.rch.staging.filter fun x => x.part == p && x.ds / 32 == ds / 32).filterMap fun x => dsitOf x.stream).head?).map Dsit.chanMap).getD
    ((List.range 128).map (Cfgw.chanMap s))

/-- A row is placed by its header; without one, by its channel and position; a header of another write pass makes it stale
(R194). -/
def placeRow (writePass ds : Nat) (cmap : List Nat) (x : RowBlock) : RowPlace :=
  match headerBytes x.block with
  | some h => if beAt h 6 2 ≠ writePass then .stale else if 192 ≤ beAt h 1 1 then .dropped else .at (beAt h 2 4) (beAt h 0 1) (beAt h 1 1)
  | none =>
    match x.slot, cmap.findIdx? (· == x.chan) with
    | .pos n, some l => if n < 384 then .at ds (rowAt l n).1 (rowAt l n).2 else .dropped
    | _, _ => .dropped

/-- A copy of a row of the data set that is decoded: Sub Data Set, row, and its 480 bytes. -/
structure RowCopy where
  sds : Nat
  row : Nat
  chan : Nat
  sym : List SoftByte
  deriving DecidableEq, Repr

/-- Channels of a link that is down find no sync (R228). -/
def rowsHeard (s : State) (xs : List RowRead) : List RowRead := xs.filter fun x => decide (x.chan < 132) && (rxAt s (linkOf x.chan)).up

/-- The rows that the channels give of what they read. -/
def rowBlocks (s : State) (xs : List RowRead) : List RowBlock := (rowsHeard s xs).map (readRow (targetTaps s) (relShift s))

/-- The copies of rows of a data set among rows read. -/
def copiesOf (s : State) (p ds : Nat) (bs : List RowBlock) : List RowCopy :=
  bs.filterMap fun b =>
    match placeRow s.cart.writePass ds (mapNear s p ds) b with
    | .at d sds row => if d = ds then some ⟨sds, row, b.chan, b.block.drop 12⟩ else none
    | _ => none

/-! ## C1 (R244) -/

/-- What the decoders are configured with. -/
structure DecCfg where
  c1Max : Nat
  c2Max : Nat
  level : Nat
  passes : Nat
  deriving DecidableEq, Repr

def decCfg (s : State) : DecCfg := ⟨c1MaxErrors s, c2MaxErrors s, eraseLevel s, decodePasses s⟩

/-- The symbols of codeword e of a row: every other byte (R170). -/
def softCw (e : Nat) (sym : List SoftByte) : List SoftByte := (List.range 240).map fun t => sym.getD (2 * t + e) ⟨0#8, true, 0⟩

/-- One attempt at a C1 codeword: accepted within R173's bound and `c1_max_errors`, and when no fixed symbol would change. -/
def c1Attempt (cfg : DecCfg) (fixed : List (Nat × Byte)) (erased : List Nat) (w : Bytes) : Option (Bytes × Nat) :=
  match rsDecode 12 erased w with
  | some (v, e) =>
    if e ≤ cfg.c1Max ∧ fixed.all (fun x => v.getD x.1 0#8 == x.2) = true then some (v, (changed w v).length) else none
  | none => none

/-- A C1 codeword in attempts A and B (R244): the bytes of invalid channel codewords are erasures; for B also the least
reliable bytes below `erase_level`, up to ten erasures. Symbols of decoded columns are fixed and are no erasures (R245). -/
def c1Decode (cfg : DecCfg) (fixed : List (Nat × Byte)) (cw : List SoftByte) : Option (Bytes × Nat) :=
  let isFixed := fun t => fixed.any fun x => x.1 == t
  let w := fixed.foldl (fun w x => w.set x.1 x.2) (cw.map SoftByte.val)
  let erased := (List.range 240).filter fun t => (cw.getD t ⟨0#8, true, 0⟩).erased && !isFixed t
  let weak := (List.range 240).filter fun t =>
    let b := cw.getD t ⟨0#8, true, 0⟩
    !b.erased && !isFixed t && decide (b.rel < cfg.level)
  match c1Attempt cfg fixed erased w with
  | some r => some r
  | none => c1Attempt cfg fixed (erased ++ (sortBy (fun t => (cw.getD t ⟨0#8, true, 0⟩).rel) weak).take (10 - erased.length)) w

/-! ## One Sub Data Set (R245, R246) -/

/-- A Sub Data Set on its way: what is decoded, the rows whose copies conflict, the last pass in which a column decoded, the
most erasures that a column needed, and the symbols that C2 corrected. -/
structure SdsDec where
  pool : SdsPool := {}
  conflicts : List Nat := []
  lastPass : Nat := 0
  maxEra : Nat := 0
  c2Corrected : Nat := 0
  deriving DecidableEq, Repr

/-- Symbols of a codeword that lie in decoded columns. -/
def fixedOf (d : SdsDec) (row e : Nat) : List (Nat × Byte) :=
  (List.range 240).filterMap fun t => (AMap.get? d.pool.cols (2 * t + e)).map fun c => (t, c.getD row 0#8)

/-- Of codewords decoded from copies of a row, that with the fewest corrected symbols, the first between equals (R196). -/
def fewest : List (Bytes × Nat) → Option (Bytes × Nat)
  | [] => none
  | x :: xs => match fewest xs with | some y => if y.2 < x.2 then some y else some x | none => some x

/-- Two decoded copies of a codeword differ. -/
def disagree (xs : List (Bytes × Nat)) : Bool := xs.any fun x => xs.any fun y => x.1 != y.1

/-- C1 on a row: each copy of a codeword not yet decoded, the pool's among them in the first pass. A row of which two
decoded copies differ is erased in every column (R196). -/
def c1Row (cfg : DecCfg) (first : Bool) (copies : List RowCopy) (d : SdsDec) (row : Nat) : SdsDec :=
  if d.conflicts.contains row then d
  else
    let mine := copies.filter fun c => c.row == row
    let found := fun e =>
      match AMap.get? d.pool.cws (2 * row + e), first with
      | some x, false => [x]
      | old, _ => old.toList ++ ((if mine = [] then [⟨0, row, 0, []⟩] else mine).filterMap fun c => c1Decode cfg (fixedOf d row e) (softCw e c.sym))
    if disagree (found 0) ∨ disagree (found 1) then
      { d with conflicts := d.conflicts ++ [row], pool := { d.pool with cws := AMap.erase (AMap.erase d.pool.cws (2 * row)) (2 * row + 1) } }
    else
      let put := fun e (m : AMap (Bytes × Nat)) => match fewest (found e) with | some x => AMap.set m (2 * row + e) x | none => m
      { d with pool := { d.pool with cws := put 1 (put 0 d.pool.cws) } }

/-- The symbol of a row and column before C2: that of the decoded codeword, or that of the first copy. -/
def symbolAt (copies : List RowCopy) (d : SdsDec) (row j : Nat) : Byte :=
  match AMap.get? d.pool.cws (2 * row + j % 2) with
  | some x => x.1.getD (j / 2) 0#8
  | none => (((copies.find? fun c => c.row == row).bind fun c => c.sym[j]?).map SoftByte.val).getD 0#8

/-- Rows whose codeword for a column has failed. -/
def failedRows (d : SdsDec) (j : Nat) : List Nat := (List.range 192).filter fun r => (AMap.get? d.pool.cws (2 * r + j % 2)).isNone

/-- C2 on a column (R245): failed codewords are its erasures. -/
def c2Column? (cfg : DecCfg) (pass : Nat) (copies : List RowCopy) (d : SdsDec) (j : Nat) : SdsDec :=
  if (AMap.get? d.pool.cols j).isSome then d
  else
    let w := (List.range 192).map fun r => symbolAt copies d r j
    let erased := failedRows d j
    match rsDecode 24 erased w with
    | some (v, e) =>
      if e ≤ cfg.c2Max then
        { d with pool := { d.pool with cols := AMap.set d.pool.cols j v }, lastPass := pass, maxEra := max d.maxEra erased.length,
                 c2Corrected := d.c2Corrected + (changed w v).length }
      else d
    | none => d

/-- One pass: C1 on every codeword, then C2 on every column. -/
def onePass (cfg : DecCfg) (pass : Nat) (copies : List RowCopy) (d : SdsDec) : SdsDec :=
  (List.range 480).foldl (c2Column? cfg pass copies) ((List.range 192).foldl (c1Row cfg (pass == 1) copies) d)

/-- Passes until every column is decoded or nothing has changed (R245). -/
def passes (cfg : DecCfg) (copies : List RowCopy) : Nat → Nat → SdsDec → SdsDec
  | 0, _, d => d
  | f + 1, pass, d =>
    let d1 := onePass cfg pass copies d
    if d1.pool.cols.length = 480 ∨ (d1.pool = d.pool ∧ d1.conflicts = d.conflicts) then d1 else passes cfg copies f (pass + 1) d1

/-- A byte of a Sub Data Set that its C2 column or its C1 codeword has recovered (R246). -/
def SdsPool.byte (x : SdsPool) (row j : Nat) : Option Byte :=
  match AMap.get? x.cols j with
  | some col => col[row]?
  | none => (AMap.get? x.cws (2 * row + j % 2)).bind fun w => w.1[j / 2]?

/-- C2 has changed the symbol of a row and column: it differs from the decoded codeword's, or that had failed. -/
def c2Changed (x : SdsPool) (row j : Nat) : Bool :=
  match AMap.get? x.cols j, AMap.get? x.cws (2 * row + j % 2) with
  | some c, some w => c.getD row 0#8 != w.1.getD (j / 2) 0#8
  | some _, none => true
  | none, _ => false

/-- A codeword that C2 changed, whose symbols are all decided, is no C1 codeword (R246, log entry 97). -/
def cwBroken (x : SdsPool) (row e : Nat) : Bool :=
  let w := (List.range 240).map fun t => x.byte row (2 * t + e)
  (List.range 240).any (fun t => c2Changed x row (2 * t + e)) && w.all Option.isSome && !isCodeword 12 (w.map fun b => b.getD 0#8)

/-- After the last pass: with a broken codeword, every column that C2 changed is undecoded again (R246). -/
def checkSds (d : SdsDec) : SdsDec :=
  if (List.range 192).any fun r => cwBroken d.pool r 0 || cwBroken d.pool r 1 then
    { d with pool := { d.pool with cols := d.pool.cols.filter fun c => !((List.range 192).any fun r => c2Changed d.pool r c.1) } }
  else d

/-- A Sub Data Set decoded from copies of its rows, on top of what the pool holds. -/
def decodeSds (cfg : DecCfg) (pool : SdsPool) (copies : List RowCopy) : SdsDec := checkSds (passes cfg copies cfg.passes 1 { pool := pool })

/-! ## A data set -/

/-- A data set on its way through a decoder: its 256 Sub Data Sets. -/
abbrev DsDec := List SdsDec

/-- Every Sub Data Set of a data set. -/
def decodeSet (cfg : DecCfg) (pool : AMap SdsPool) (copies : List RowCopy) : DsDec :=
  (List.range 256).map fun k => decodeSds cfg (AMap.getD pool k {}) (copies.filter fun c => c.sds == k)

/-- The row pool that a decoding attempt leaves. -/
def poolOf (d : DsDec) : AMap SdsPool := d.zipIdx.map fun (x, k) => (k, x.pool)

/-- Byte k of the data stream, when it is recovered (R170, R246). -/
def poolByte (pool : AMap SdsPool) (k : Nat) : Option Byte := (AMap.getD pool (k % 256) {}).byte (k / 256 / 456) (k / 256 % 456)

/-- Bytes of the data stream from one place on, when all of them are recovered. -/
def poolBytes (pool : AMap SdsPool) (from_ : Nat) : Nat → Option Bytes
  | 0 => some []
  | n + 1 =>
    match poolByte pool from_ with
    | none => none
    | some b => (poolBytes pool (from_ + 1) n).map (b :: ·)

/-- The whole data stream, when every byte of it is recovered (R246). -/
@[irreducible] def poolStream (pool : AMap SdsPool) : Option Bytes := poolBytes pool 0 streamSize

/-! ## What is counted (R198, R260) -/

/-- Codewords of the rows read that no attempt of the first pass decodes, by the channel that read them. -/
def c1Failures (cfg : DecCfg) (copies : List RowCopy) : List Nat :=
  copies.flatMap fun c => ([0, 1].filter fun e => (c1Decode cfg [] (softCw e c.sym)).isNone).map fun _ => c.chan

/-- Symbols that C1 corrected in codewords that the pool did not hold before. -/
def c1CorrectedIn (pool : AMap SdsPool) (d : DsDec) : Nat :=
  (d.zipIdx.map fun (x, k) =>
    ((x.pool.cws.filter fun y => (AMap.get? (AMap.getD pool k {}).cws y.1).isNone).map fun y => y.2.2).foldl (· + ·) 0).foldl (· + ·) 0

def sumOf (f : SdsDec → Nat) (d : DsDec) : Nat := (d.map f).foldl (· + ·) 0

/-- Count at every channel that a list names. -/
def countChans (f : Chan → Chan) (cs : List Nat) (s : State) : State := each (fun p s => updChan p f s) cs s

/-- What the channels counted over rows read: invalid codewords, headers that fail, stale rows (R195, R198, R260). -/
def countRows (bs : List RowBlock) (s : State) : State :=
  let s1 := addCtr 0x050120 ((bs.map RowBlock.invalid).foldl (· + ·) 0)
    (addCtr 0x050124 (bs.filter fun b => (headerBytes b.block).isNone).length
      (addCtr 0x050130 (bs.filter fun b => (headerBytes b.block).any fun h => beAt h 6 2 != s.cart.writePass).length s))
  each (fun (b : RowBlock) s => updChan b.chan (fun c => { c with mc33 := satAdd c.mc33 b.invalid }) s) bs s1

/-- What a decoder counted (R198, R260; log entry 98). -/
def countDecode (cfg : DecCfg) (pool : AMap SdsPool) (copies : List RowCopy) (d : DsDec) (s : State) : State :=
  let failed := c1Failures cfg copies
  countChans (fun c => { c with c1Failed := satAdd c.c1Failed 1 }) failed
    (addCtr 0x05010C (c1CorrectedIn pool d) (addCtr 0x050110 failed.length (addCtr 0x050114 (sumOf SdsDec.c2Corrected d)
      (addCtr 0x050118 (sumOf (fun x => 480 - x.pool.cols.length) d) (addCtr 0x05012C (sumOf (fun x => x.conflicts.length) d) s)))))

/-- Rows read are decoded on top of a row pool (R243 to R246): the result, and what was counted on the way. Rung 3 takes rows 0
to 166 alone (R247). -/
@[irreducible] def decodeRows (p ds : Nat) (others : Bool) (pool : AMap SdsPool) (xs : List RowRead) (s : State) : DsDec × State :=
  let bs := rowBlocks s xs
  let copies := (copiesOf s p ds bs).filter fun c => !others || decide (c.row ≤ 166)
  let d := decodeSet (decCfg s) pool copies
  (d, countDecode (decCfg s) pool copies d (countRows bs s))

/-! ## C3 across a Loft (R249) -/

/-- The bytes of a Loft member: of its stream, from a pool, or known zeros. -/
inductive Member where
  | known (b : Bytes)
  | pool (p : AMap SdsPool)
  | absent
  deriving DecidableEq, Repr

def Member.byte (m : Member) (k : Nat) : Option Byte :=
  match m with
  | .known b => some (b.getD k 0#8)
  | .pool p => poolByte p k
  | .absent => some 0#8

/-- What rung 4 comes to: the user area of one member, a failed check, or no result. -/
inductive LoftRes where
  | user (b : Bytes)
  | checkFail
  | none
  deriving DecidableEq, Repr

/-- One C3 codeword after another from the last position on: byte k of the member at index t is put in front. -/
def c3Area (ms : List Member) (t : Nat) : Nat → Bytes → LoftRes
  | 0, acc => .user acc
  | k + 1, acc =>
    match c3Solve (ms.map fun m => m.byte k) with
    | .ok w => c3Area ms t k (w.getD t 0#8 :: acc)
    | .checkFail => .checkFail
    | .tooMany => .none

/-- The user area of the member at index t of a Loft, by C3 over all 32. -/
@[irreducible] def loftSolve (ms : List Member) (t : Nat) : LoftRes := c3Area ms t userArea []

end Sys2Proof.Machine
end

