-- ==== Sys2Proof/Machine/Ladder.lean ====
section
/-!
DEFINITION. Decoded data sets, the weak list and the recovery ladder (09), read-ahead (11), and the reads that go on with
them.
-/

namespace Sys2Proof.Machine

/-! ## Read staging (R249) -/

/-- The Stalls of a staged data set go back to its decoder's Stable. -/
def freeStaged (x : Staged) (s : State) : State := each (giveBack (0x18 + x.decoder)) x.stalls s

/-- Drop the oldest staged data sets until `n` Stalls of read staging are free. -/
def stageRoom (n : Nat) : Nat → State → State
  | 0, s => s
  | f + 1, s =>
    if n ≤ freeCount (stableAt s 4) then s
    else
      match s.rch.staging with
      | [] => s
      | x :: xs => stageRoom n f (freeStaged x (updRch (fun r => { r with staging := xs }) s))

/-- Whether a staged entry is a data set. -/
def isSet (p ds : Nat) (x : Staged) : Bool := x.part == p && x.ds == ds

/-- A staged data set is given up. -/
def unstage (p ds : Nat) (s : State) : State :=
  each freeStaged (s.rch.staging.filter (isSet p ds)) (updRch (fun r => { r with staging := r.staging.filter (fun x => !isSet p ds x) }) s)

/-- A decoded data stream enters read staging: 75 Stalls for decoder `d`, the oldest data sets giving way. -/
def stage (d p ds : Nat) (stream : Bytes) (s : State) : State :=
  let s1 := unstage p ds s
  let s2 := stageRoom 75 (s1.rch.staging.length + 1) s1
  let g := if 75 ≤ freeCount (stableAt s2 4) ∧ (stableAt s2 4).fifo = [] then acquire (0x18 + d % 4) 4 75 s2 else (none, s2)
  updRch (fun r => { r with staging := r.staging ++ [{ part := p, ds := ds, stream := stream, stalls := g.1.getD [], decoder := d % 4 }] }) g.2

/-! ## The weak list (R255, R256, R323) -/

/-- Whether a weak entry is of the loaded cartridge. -/
def weakHere (s : State) (w : Weak) : Bool := w.serial == s.cart.serial && w.writePass == s.cart.writePass

def weakListed (s : State) (p ds : Nat) : Bool := s.rch.weak.any fun w => weakHere s w && w.part == p && w.ds == ds

/-- The lowest free slot of the pool. -/
def weakSlot (s : State) : Option Nat :=
  (List.range (min (Cfgw.weakSlots s) 4096)).find? fun k => !(s.rch.weak.any fun w => w.slot == k)

/-- A weak entry leaves the list: its units are unmapped and its WEAK record journaled. -/
def releaseWeak (w : Weak) (s : State) : State :=
  settleBlocks (journalRec (.weak false w.slot w.ds w.part w.rung w.writePass w.serial)
    (unmapRange (0x6000000 + 300 * w.slot) 300 (updRch (fun r => { r with weak := r.weak.filter fun x => x.slot != w.slot }) s)))

/-- A slot for a new entry of the loaded cartridge: a free one, or the oldest of a cartridge not loaded. -/
def takeWeakSlot (s : State) : Option (Nat × State) :=
  if 4096 ≤ (s.rch.weak.filter (weakHere s)).length then none
  else
    match weakSlot s with
    | some k => some (k, s)
    | none => (s.rch.weak.find? fun w => !weakHere s w).map fun w => (w.slot, releaseWeak w s)

/-- Enter a weak data set; it is listed once its units are protected and its record is durable. -/
def enterWeak (p ds rung : Nat) (stream : Bytes) (s : State) : State :=
  if weakListed s p ds then s
  else
    match takeWeakSlot s with
    | none => inc 0x0B0128 s
    | some (k, s1) =>
      let w : Weak := { slot := k, serial := s1.cart.serial, writePass := s1.cart.writePass, part := p, ds := ds, rung := rung,
                        stream := stream, posted := false }
      pumpAll (storeUnits 300 (0x6000000 + 300 * k) stream (inc 0x0B0124 (updRch (fun r => { r with weak := r.weak ++ [w] }) s1)))

/-! ## Rebuilding a DSIT (R250) -/

/-- Descriptors that begin in stored bytes walked from a unit boundary, with their offsets, and where the bytes of units
end. A descriptor cut off by the end of the bytes is known by its place alone. -/
def scanUnits : Nat → Bytes → Nat → Nat → List (Nat × Desc48) × Nat
  | 0, _, at_, _ => ([], at_)
  | f + 1, b, at_, next =>
    if b = [] then ([], at_)
    else if beAt b 0 1 = 0x21 then
      if b.length < 48 then ([(at_, { number := next })], at_ + b.length)
      else
        match Desc48.parse b with
        | none => ([], at_)
        | some d =>
          let n := min b.length (48 + if d.mark then 0 else d.headerLen)
          let r := scanUnits f (b.drop n) (at_ + n) (d.number + 1)
          ((at_, d) :: r.1, r.2)
    else if beAt b 0 1 = 0x11 then
      if b.length < 16 then ([], at_ + b.length)
      else
        match PktHeader.parse b with
        | none => ([], at_)
        | some h =>
          let n := min b.length (32 + h.payloadLen)
          scanUnits f (b.drop n) (at_ + n) next
    else ([], at_)

/-- Offset of the first unit at or after `base` that begins in the bytes walked. -/
def firstUnitFrom (base : Nat) : Nat → Bytes → Nat → Option Nat
  | 0, _, _ => none
  | f + 1, b, at_ =>
    if b = [] then none
    else if base ≤ at_ ∧ (beAt b 0 1 = 0x21 ∨ beAt b 0 1 = 0x11) then some (at_ - base)
    else if beAt b 0 1 = 0x21 then
      match Desc48.parse b with
      | none => none
      | some d => let n := 48 + if d.mark then 0 else d.headerLen
                  firstUnitFrom base f (b.drop n) (at_ + n)
    else if beAt b 0 1 = 0x11 then
      match PktHeader.parse b with
      | none => none
      | some h => firstUnitFrom base f (b.drop (32 + h.payloadLen)) (at_ + 32 + h.payloadLen)
    else none

/-- The data set at hand of the highest number below one, among user data. -/
def prevSet (s : State) (p ds : Nat) : Option (Nat × Bytes) :=
  let nums := (s.rch.staging.filter fun x => x.part == p && decide (x.ds < ds) && decide (x.ds % 32 < 30)).map Staged.ds
  match (sortBy id nums).getLast? with
  | some d => (tapeSet s p d).map fun b => (d, b)
  | none => none

/-- Index of the position of a partition that begins at a frame of a wrap. -/
def positionIndex (s : State) (p wrap frame : Nat) : Option Nat :=
  (List.range (partAt s p).positions).find? fun i =>
    match positionAt s p i with
    | some (w, a, _) => w == wrap && frameOf (clockOf w a) == frame
    | none => false

/-- Wrap and start frame of a data set's latest placement, and its copy field. -/
def latestPlace (s : State) (p ds : Nat) : Nat × Nat × Nat :=
  let d := (partAt s p).dir
  match (d.relocs.filter fun r => r.ds == ds).getLast? with
  | some r => (r.wrap, r.frame, r.cause)
  | none =>
    match (d.lofts.filter fun l => decide (l.ds ≤ ds)).getLast? with
    | none => (0, 0, 0)
    | some l =>
      match (positionIndex s p l.wrap l.frame).bind fun i => positionAt s p (i + (ds - l.ds)) with
      | some (w, a, _) => (w, frameOf (clockOf w a), 0)
      | none => (l.wrap, l.frame, 0)

/-- Content fields of a rebuilt DSIT. With no earlier data set at hand to walk from they are free values (log entry 3). -/
def rebuiltContent (s : State) (p ds : Nat) (user : Bytes) (d : Dsit) : Dsit :=
  let finish := fun (base : Nat) (b : Bytes) =>
    let r := scanUnits (b.length + 1) b 0 0
    let here := r.1.filter fun x => decide (base ≤ x.1)
    { d with
      used := min (r.2 - base) userArea
      padded := decide (r.2 - base < userArea)
      firstUnit := (firstUnitFrom base (b.length + 1) b 0).getD 0xFFFFFFFF
      firstRec := (here.head?.map fun x => x.2.number).getD (((r.1.getLast?).map fun x => x.2.number + 1).getD 0)
      descCount := here.length
      descIdx := descIndex (here.map fun x => x.1 - base)
      truncOffs := (here.filter fun x => x.2.truncating).map fun x => x.1 - base }
  if 30 ≤ ds % 32 then { d with kind := 2, loftData := 30, used := userArea }
  else if ds = 0 then finish 0 user
  else
    match prevSet s p ds with
    | some (_, st) =>
      let u := usedBytes st
      let from_ := ((dsitOf st).map Dsit.firstUnit).getD 0
      finish (u.length - from_) (u.drop from_ ++ user)
    | none =>
      { d with used := freeAt s 0 % (userArea + 1), padded := freeAt s 1 % 2 == 1, firstUnit := freeAt s 2 % 2 ^ 32,
               firstRec := freeAt s 3 % 2 ^ 48 }

/-- The DSIT of a data set rebuilt from the directory, the user area and a neighbour. -/
def rebuildDsit (s : State) (p ds : Nat) (user : Bytes) : Bytes :=
  let pl := latestPlace s p ds
  let near := ((s.rch.staging.filter fun x => x.part == p && x.ds / 32 == ds / 32).filterMap fun x => dsitOf x.stream).head?
  let base : Dsit := {
    kind := 1, writePass := s.cart.writePass, number := ds, loftIdx := ds % 32, part := p, wrap := pl.1,
    cls := wrapClass s pl.1, copy := pl.2.2, startFrame := pl.2.1,
    shortLoft := (near.map Dsit.shortLoft).getD false,
    chanMap := (near.map Dsit.chanMap).getD ((List.range 128).map (Cfgw.chanMap s)),
    yard := (near.map Dsit.yard).getD 0, stripe := (near.map Dsit.stripe).getD 0, member := (near.map Dsit.member).getD 0,
    role := (near.map Dsit.role).getD 0, epoch := (near.map Dsit.epoch).getD 0 }
  (rebuiltContent s p ds user base).bytes

/-- The data stream of a user area whose DSIT bytes were not recovered: the DSIT is rebuilt and counted (R250). -/
def withDsit (p ds : Nat) (user : Bytes) (s : State) : Bytes × State :=
  (fit user userArea ++ rebuildDsit s p ds (user.take userArea), inc 0x0B0120 (drawMany 4 s))

/-! ## The ladder (R247 to R254) -/

/-- A data set's Loft is closed on tape as far as the directory and the formatter know (R249). -/
def loftClosed (s : State) (p ds : Nat) : Bool :=
  let x := partAt s p
  (x.dir.lofts.any fun l => l.ds / 32 == ds / 32) && !(x.loftOpen && x.nextDs / 32 == ds / 32)

/-- Other placements of a data set number stand on tape. -/
def otherPlacements (s : State) (p ds : Nat) : Bool := (partAt s p).dir.relocs.any fun r => r.ds == ds

/-- A read whose next packet is looked for in a data set. -/
def readNeeds_ (s : State) (p ds : Nat) (c : Cmd) : Bool :=
  c.ring != 32 && c.e.opcode == 0x02 && c.st == .running && c.e.partition == p && c.hold.isNone
    && decide (c.next < c.endSeen) && (versionFor s p c.seq c.next).isNone && !lossListed s p c.next
    && match fromTape s p c.next c.pkt with
       | .need d => d == ds
       | .bad d => d == ds
       | _ => false

/-- LOCATE of the partition, or LOAD, reads the tape. -/
def tapeCmd (p : Nat) (c : Cmd) : Bool :=
  c.ring != 32 && c.st == .running && ((c.e.opcode == 0x04 && c.e.partition == p) || c.e.opcode == 0x07)

/-- The commands that wait for a data set. -/
def needers (s : State) (p ds : Nat) : List Cmd := s.hq.cmds.filter fun c => readNeeds_ s p ds c || tapeCmd p c

def setLadder (l : Option Ladder) (s : State) : State := updRch (fun r => { r with ladder := l }) s

/-- The tape goes back to a data set for a pass at a speed. -/
def passOver (p ds speed : Nat) (s : State) : State :=
  match dsPlace s p ds with
  | some (w, f) => sendTape Src.dec w f speed (recoverySlew s) s
  | none => s

/-- Lateral offset of the next pass, in nm. -/
def sendOffset (nm : Int) (s : State) : State := post .bridle Src.dec 0x0004 (toField 16 nm) s

/-- The read speed returns to its value. -/
def restoreSpeed (s : State) : State := post .bridle Src.dec 0x0001 (readSpeed s) s

/-- The Yard engine waits for a data set to serve a rebuilder (R368). -/
def served (s : State) (p ds : Nat) : Bool := s.yrd.serve.any fun x => x == (p, ds, false)

/-- A data set read for a rebuilder has failed its ladder up to rung 4. -/
def serveFails (p ds : Nat) (s : State) : State :=
  { s with yrd := { s.yrd with serve := s.yrd.serve.map fun x => if x = (p, ds, false) then (p, ds, true) else x } }

/-- The ladder has failed: the waiting commands stop, posted to MB_MGT. -/
def ladderFailed (l : Ladder) (s0 : State) : State :=
  let s := serveFails l.part l.ds s0
  let ws := needers s l.part l.ds
  let s1 := postEvent Src.dec 0x05 0x02 true (l.ds % 2 ^ 32 + l.part * 2 ^ 32) (inc 0x0B0118 (setLadder none s))
  each (fun (c : Cmd) s => if c.e.opcode = 0x02 then stopRead c.seq Status.readError s else complete c.seq Status.readError 0 s) ws
    (updRch (fun r => { r with seek := none }) s1)

/-- Rung 5, when it applies (R251). -/
def toYard (l : Ladder) (s0 : State) : State :=
  let s := serveFails l.part l.ds s0
  if needers s l.part l.ds = [] then updRch (fun r => { r with seek := none }) (setLadder none s)
  else if yardEnable s ∧ (partAt s l.part).yardMember then
    let a := l.ds % 2 ^ 32 + l.part * 2 ^ 32
    postEvent Src.dec 0x05 0x03 false a (post .yard Src.fmt 0x0004 a (setLadder (some { l with st := .yard, done := 0 }) s))
  else ladderFailed l s

/-- Rung 4, when it applies (R249): the members that staging does not hold are read once. -/
def toLoft (l : Ladder) (s : State) : State :=
  if loftEnable s ∧ loftClosed s l.part l.ds then
    passOver l.part (32 * (l.ds / 32)) (readSpeed s) (setLadder (some { l with st := .loft, done := 0 }) s)
  else toYard l s

/-- Rung 3, when it applies. -/
def toPlacements (l : Ladder) (s : State) : State :=
  if otherPlacements s l.part l.ds then
    passOver l.part l.ds (readSpeed s) (setLadder (some { l with st := .placements, done := 0 }) s)
  else toLoft l s

/-- Pass k of rung 2: offset 0, then +, then −; each starts from the calibrated taps. -/
def slowPass (l : Ladder) (k : Nat) (s : State) : State :=
  let nm : Int := offsetNm s
  let off : Int := if k = 0 then 0 else if k = 1 then nm else -nm
  passOver l.part l.ds (slowSpeed s) (sendOffset off (loadTaps s.rch.cls (setLadder (some { l with st := .slow, done := k }) s)))

/-- A reread of rung 1. -/
def rereadPass (l : Ladder) (k : Nat) (s : State) : State :=
  passOver l.part l.ds (readSpeed s) (setLadder (some { l with st := .reread, done := k }) s)

/-- A data set fails at rung 0 and goes up the ladder with the row pool it has, posted to MB_MGT. -/
def startLadder (p ds : Nat) (pool : AMap SdsPool) (s : State) : State :=
  if s.rch.ladder.isSome then s
  else
    let l : Ladder := { part := p, ds := ds, st := .reread, done := 0, pool := pool }
    let s1 := postEvent Src.dec 0x05 0x01 false (ds % 2 ^ 32 + p * 2 ^ 32)
      (unstage p ds (updRch (fun r => { r with readAhead := false, raRing := r.raRing.filter fun x => !(x.1 == p && x.2.1 == ds) }) s))
    if rereadCount s = 0 then slowPass l 0 s1 else rereadPass l 0 s1

/-- Rung of a state. -/
def rungOf : LadderSt → Nat
  | .reread => 1
  | .slow => 2
  | .placements => 3
  | .loft => 4
  | .yard => 5

/-- The tape's speed and offset come back as a rung ends. -/
def leaveRung (st : LadderSt) (s : State) : State :=
  match st with
  | .reread => restoreSpeed s
  | .slow => restoreSpeed (sendOffset 0 s)
  | _ => s

/-- The ladder has decoded its data set: it is weak, staged, and the waiting commands go on. -/
def ladderDone (l : Ladder) (decoder : Nat) (stream : Bytes) (s : State) : State :=
  let s1 := inc (0x0B0100 + 4 * rungOf l.st) (leaveRung l.st (setLadder none s))
  let s2 := if l.st = .loft then inc 0x05011C s1 else s1
  let s3 := enterWeak l.part l.ds (rungOf l.st) stream (stage decoder l.part l.ds stream s2)
  updRch (fun r => { r with seek := none, lastRead := some (l.part, l.ds), laddered := some l }) s3

/-- A pass of the ladder has failed. -/
def ladderNext (l : Ladder) (s : State) : State :=
  match l.st with
  | .reread => if l.done + 1 < rereadCount s then rereadPass l (l.done + 1) s else slowPass l 0 s
  | .slow => if l.done < 2 then slowPass l (l.done + 1) s else toPlacements l (leaveRung .slow s)
  | .placements => toLoft l s
  | .loft => toYard l s
  | .yard => ladderFailed l s

/-- Every command that needed the data set has ended: the pool is discarded. -/
def ladderIdle (l : Ladder) (s : State) : State := updRch (fun r => { r with seek := none }) (leaveRung l.st (setLadder none s))

/-! ## Decoder results (R246, R255, R261) -/

/-- The DSIT of a data stream holds, and its number, partition and write pass are those expected (R246, R472). -/
def streamExpected (s : State) (p ds : Nat) (b : Bytes) : Bool :=
  match dsitOf b with
  | some d => b.length == streamSize && d.number == ds && d.part == p && d.writePass == s.cart.writePass
  | none => false

/-- What a decoding attempt comes to: a data stream, every byte of it recovered and its DSIT as expected; without one, the row
pool that the next attempt draws on. A miscorrection leaves no pool (log entry 99). -/
@[irreducible] def attempt (p ds : Nat) (pool : AMap SdsPool) (s : State) : Option Bytes × AMap SdsPool × State :=
  match poolStream pool with
  | none => (none, pool, s)
  | some b =>
    if streamExpected s p ds b then (some b, pool, s)
    else (none, [], if (dsitOf b).isNone then inc 0x050128 s else s)

/-- A decoded data set is weak at rung 0 (R255): a column needed more than `weak_c2` erasures, or C2 needed pass 3. -/
def weakAtRung0 (s : State) (d : DsDec) : Bool := d.any fun x => decide (weakC2 s < x.maxEra) || decide (3 ≤ x.lastPass)

/-- Data streams that the read-ahead ring holds. -/
def readAheadSlots (s : State) : Nat := Cfgw.readaheadQuota s * 262144 / 300

/-- Read-ahead keeps a data set, overwriting the oldest. -/
def keepAhead (p ds : Nat) (b : Bytes) (s : State) : State :=
  updRch (fun r =>
    let l := r.raRing ++ [(p, ds, b)]
    { r with raRing := l.drop (l.length - readAheadSlots s) }) s

/-- A data set decoded at rung 0. -/
def decodedOk (decoder p ds : Nat) (weak : Bool) (b : Bytes) (s : State) : State :=
  let ahead_ := s.rch.readAhead && s.rch.raPart == p && s.rch.seek != some (p, ds)
  let s1 := inc 0x0B0100 s
  let s2 := if ahead_ then keepAhead p ds b s1 else stage decoder p ds b s1
  let s3 := if weak then enterWeak p ds 0 b s2 else s2
  updRch (fun x => { x with
    lastRead := some (p, ds)
    seek := if x.seek = some (p, ds) then none else x.seek
    laddered := x.laddered.filter fun l => !(l.part == p && l.ds == ds) }) s3

/-- A decoder has let its data set go. -/
def freeDecoder (d : Nat) (s : State) : State := updRch (fun r => { r with busy := AMap.erase r.busy d }) s

/-- A read, LOCATE or LOAD needs the data set. -/
def setWanted (s : State) (p ds : Nat) : Bool := s.rch.seek == some (p, ds) || s.hq.cmds.any fun c => tapeCmd p c

/-- DATA_SET_DECODED (R243 to R246): the rows read are decoded; a data set that is needed and not decoded goes up the ladder
with its row pool. -/
def execDataSetDecoded (res : DecodeRes) (s : State) : Out :=
  if 4 ≤ res.part ∨ mem? s.rch.busy res.decoder = false then go s
  else
    let r := decodeRows res.part res.ds false [] res.rows (freeDecoder res.decoder s)
    match attempt res.part res.ds (poolOf r.1) r.2 with
    | (some b, _, s1) => go (decodedOk res.decoder res.part res.ds (weakAtRung0 s r.1) b s1)
    | (none, pool, s1) => if setWanted s res.part res.ds then go (startLadder res.part res.ds pool s1) else go s1

/-- The members of a Loft that were read at rung 4, each decoded at rung 0 alone, and what was counted (R249). -/
def readMembers (p l : Nat) : List (Nat × List RowRead) → State → List (Nat × AMap SdsPool) × State
  | [], s => ([], s)
  | (ds, rows) :: xs, s =>
    if ds / 32 ≠ l then readMembers p l xs s
    else
      let r := decodeRows p ds false [] rows s
      let t := readMembers p l xs (if (attempt p ds (poolOf r.1) s).1.isSome then inc 0x0B0100 r.2 else r.2)
      ((ds % 32, poolOf r.1) :: t.1, t.2)

/-- Data sets that a Loft's parity covers, from either parity data set at hand; 30 when neither is (R178, R181). -/
def loftCovers (s : State) (p l : Nat) (read : List (Nat × AMap SdsPool)) : Nat :=
  let streams := [30, 31].filterMap fun t => (tapeSet s p (32 * l + t)).or ((AMap.get? read t).bind poolStream)
  ((streams.filterMap dsitOf).head?.map Dsit.loftData).getD 30

/-- The 32 members of a data set's Loft as rung 4 has them: its own row pool, decoded data sets at hand, members read, known
zeros, or nothing (R249). -/
def loftMembers (s : State) (l : Ladder) (read : List (Nat × AMap SdsPool)) : List Member :=
  let n := loftCovers s l.part (l.ds / 32) read
  (List.range 32).map fun t =>
    if t = l.ds % 32 then .pool l.pool
    else if n ≤ t ∧ t < 30 then .absent
    else
      match tapeSet s l.part (32 * (l.ds / 32) + t) with
      | some b => .known b
      | none => .pool ((AMap.get? read t).getD [])

/-- Rung 4 (R249, R250, R472): C3 gives the user area; DSIT bytes not recovered are rebuilt, and recovered ones must hold. -/
def loftRung (l : Ladder) (decoder : Nat) (others : List (Nat × List RowRead)) (s : State) : State :=
  let r := readMembers l.part (l.ds / 32) others s
  match loftSolve (loftMembers r.2 l r.1) (l.ds % 32) with
  | .checkFail => ladderNext l (inc 0x0B011C r.2)
  | .none => ladderNext l r.2
  | .user u =>
    match poolBytes l.pool userArea dsitSize with
    | none => let x := withDsit l.part l.ds u r.2; ladderDone l decoder x.1 x.2
    | some d =>
      if streamExpected r.2 l.part l.ds (u ++ d) then ladderDone l decoder (u ++ d) r.2
      else ladderNext l (if (dsitOf (u ++ d)).isNone then inc 0x050128 r.2 else r.2)

/-- After an attempt at a data set on the ladder: its data stream, or the row pool to go on with. -/
def afterAttempt (l : Ladder) (decoder : Nat) (stream : Option Bytes) (pool : AMap SdsPool) (s : State) : State :=
  match stream with
  | some b => ladderDone l decoder b s
  | none => ladderNext { l with pool := pool } s

/-- LADDER_PASS_RESULT (R247, R249, R252): a pass of the rung in progress ends, decoded on top of the row pool. -/
def execLadderPassResult (res : DecodeRes) (s : State) : Out :=
  match s.rch.ladder with
  | none => go s
  | some l =>
    if l.part ≠ res.part ∨ l.ds ≠ res.ds ∨ l.st = .yard then go s
    else
      let s0 := freeDecoder res.decoder s
      if needers s0 l.part l.ds = [] ∧ served s0 l.part l.ds = false then go (ladderIdle l s0)
      else if l.st = .loft then go (loftRung l res.decoder res.others s0)
      else
        let r := decodeRows l.part l.ds (l.st == .placements) l.pool res.rows s0
        let x := attempt l.part l.ds (poolOf r.1) r.2
        go (afterAttempt l res.decoder x.1 x.2.1 x.2.2)

/-- YARD_WAIT_EXPIRY (R251): no data stream within `yard_wait` seconds. -/
def execYardWaitExpiry (s : State) : Out :=
  match s.rch.ladder with
  | some l => if l.st = .yard then go (ladderFailed l s) else go s
  | none => go s

/-- What the Yard engine answers a waiting rung 5 with: the data stream, or none when the stripe is lost. A stream that came
without its DSIT has it rebuilt; one that came with a DSIT must hold (R250, R252, R472). -/
def yardAnswers (data : Option Bytes) (s : State) : State :=
  match s.rch.ladder with
  | some l =>
    if l.st ≠ .yard then s
    else
      match data with
      | none => ladderFailed l s
      | some b =>
        if b.length ≤ userArea then let x := withDsit l.part l.ds b s; ladderDone l 0 x.1 x.2
        else if streamExpected s l.part l.ds b then ladderDone l 0 b s
        else ladderFailed l (if (dsitOf b).isNone then inc 0x050128 s else s)
  | none => s

/-- READ_AHEAD_START (R325). -/
def execReadAheadStart (part : Nat) (s : State) : Out :=
  let free := !s.wrv.windowOpen && s.rch.ladder.isNone && s.rch.seek.isNone && s.brd.motion == .running
    && !(s.hq.cmds.any fun c => c.ring != 32 && c.st == .running && [0x04, 0x07, 0x08, 0x09].contains c.e.opcode)
  if 2 ≤ (partAt s part).ascending ∧ free = true ∧ s.rch.readAhead = false ∧ s.shd.ready = true then
    go (updRch (fun r => { r with readAhead := true, raPart := part }) s)
  else go s

/-! ## Reads go on (R105, R115, R137) -/

/-- A weak entry whose stored data stream fails R114 is no corrected data stream: it leaves the list. -/
def dropWeak (p ds : Nat) (s : State) : State :=
  match s.rch.weak.find? fun w => weakHere s w && w.part == p && w.ds == ds with
  | some w => releaseWeak w s
  | none => s

/-- A packet of a data set fails R114: a miscorrection, which starts the ladder, or takes the one that had decoded it up from
where it ended; a ladder that ends so fails the reads. -/
def miscorrected (p ds : Nat) (s : State) : State :=
  if s.rch.ladder.isSome then s
  else
    let s1 := dropWeak p ds s
    match s.rch.laddered with
    | some l => if l.part = p ∧ l.ds = ds then ladderNext { l with pool := [] } (unstage p ds s1) else startLadder p ds [] s1
    | none => startLadder p ds [] s1

/-- READ_DECRYPT (R137): a read takes its next packet; one from tape that fails R114 sends its data set up the ladder. -/
def execReadDecrypt (seq : Nat) (s : State) : Out :=
  match readStep seq s with
  | (some (p, ds), s1) => go (miscorrected p ds s1)
  | (none, s1) => go s1

/-- `CMP_MALFORMED_LAST` as loaded (R116). -/
def malformedWord (kind engine off : Nat) : Nat := kind * 2 ^ 28 + engine % 8 * 2 ^ 25 + off % 2 ^ 19

/-- DECOMPRESSION_DONE (R105, R115): an engine in service has expanded the packet, which is delivered; a malformed stream stops
the read with READ_ERROR. -/
def execDecompressionDone (engine : Nat) (s : State) : Out :=
  match (engineAt s engine).job, engineIn s engine with
  | .read seq, true =>
    let s0 := setEngine engine { engineAt s engine with job := .idle } s
    match (runningCmd s seq 0x02).bind Cmd.hold with
    | none => go s0
    | some h =>
      let s1 := updCmd seq (fun c => { c with hold := none }) s0
      match dlzDecode h.hostLen h.payload with
      | .ok data => go (deliver seq data h.starts (inc (engCtr engine 5) s1))
      | .error b =>
        let s2 := { s1 with cmp := { s1.cmp with malKind := b.kind, malEngine := engine, malOffset := b.offset } }
        go (stopRead seq Status.readError
          (postEvent (Src.cmp engine) 0x03 0x03 false (malformedWord b.kind engine b.offset) (inc (engCtr engine 7) s2)))
  | _, _ => go s

end Sys2Proof.Machine
end

