-- ==== Sys2Proof/Machine/Landing.lean ====
section
/-!
DEFINITION. Landing blocks (02, 05, 11) and key management (05).
-/

namespace Sys2Proof.Machine

/-! ## Landing blocks (R57, R138, R321, R322) -/

/-- Logical unit of a landing block. -/
def landingUnit (n : Nat) : Nat := 0x4000000 + n

/-- Checks of a block command on its fields alone. -/
def landingFieldsBad (s : State) (e : SqEntry) : Bool :=
  decide (e.count = 0 ∨ 16384 < e.count ∨ Cfgw.landingBlocks s < e.position + e.count)

/-- n free bytes (log entry 3). -/
def freeBytes (s : State) (n : Nat) : Bytes := (List.range n).map fun i => BitVec.ofNat 8 (freeAt s i)

/-- What a landing block holds for a command accepted as `seq`. -/
inductive BlockAns where
  | unmapped
  | fails (status : Nat) (s : State)
  | plain (b : Bytes) (s : State)
  deriving DecidableEq, Repr

/-- Read and decrypt a landing block with the slot and generation of its own header. -/
def landingBlock (seq n : Nat) (s : State) : BlockAns :=
  match (mapOf s (landingUnit n)).bind fun u => AMap.get? s.shd.units u with
  | none => if mem? s.shd.lostLanding n then .fails Status.readError s else .unmapped
  | some x =>
    let h := x.region.take 32
    let slot := bits (beAt h 1 1) 6 0
    let gen := beAt h 4 4
    match rootFor s slot gen seq with
    | none => .fails (noKeyStatus s gen seq) s
    | some (k, root) =>
      let r := readKey k gen root (landingLabel gen (beAt h 8 8)) s
      match gcmDecrypt r.1 (ivOf (beAt h 24 4) (beAt h 16 8)) h x.data (slice x.region 32 16) with
      | none => .fails Status.authFail (inc 0x040020 r.2)
      | some p => .plain (fit p 65536) r.2

/-- Encrypt and queue the blocks of a WRITE_LANDING from block n on, under counters from `c` on. -/
def landingUnits (seq slot gen label : Nat) (key : Bytes) : Nat → Nat → List Bytes → State → State
  | _, _, [], s => s
  | n, c, b :: bs, s =>
    let h := landingHeader slot gen label c s.cip.noncePrefix n
    let ct := gcmEncrypt key (ivOf s.cip.noncePrefix c) h (fit b 65536)
    landingUnits seq slot gen label key (n + 1) (c + 1) bs
      (queueUnit ⟨1, landingUnit n, h ++ fit ct.2 16, fit ct.1 65536, .landing seq⟩ s)

/-- Begin a WRITE_LANDING under the generation that it bound at acceptance; with no cache entry to be had it stays ADMITTED
(R131). -/
def beginLanding (c : Cmd) (blocks : List Bytes) (s : State) : State :=
  match boundRoot s c.e.keySlot c.gen c.seq with
  | none => complete c.seq Status.keyErased 0 s
  | some root =>
    match bindKey c.e.keySlot c.gen root (landingLabel c.gen c.e.hostLabel) c.seq c.e.count s with
    | .wait => setSt c.seq .admitted s
    | .exhausted s1 => complete c.seq Status.keyExhausted 0 s1
    | .bound ctr key s1 =>
      let bs := (List.range c.e.count).map fun i => blocks.getD i []
      pumpAll (landingUnits c.seq c.e.keySlot c.gen c.e.hostLabel key c.e.position ctr bs (setSt c.seq .running s1))

/-- WRITE_LANDING (R57). -/
def execWriteLanding (seq : Nat) (sgl : Bytes) (blocks : List Bytes) (s : State) : Out :=
  match findCmd s seq with
  | none => go s
  | some c =>
    if c.st = .admitted ∧ c.e.opcode = 0x0B then go (beginLanding c blocks s)
    else
      match due s seq 0x0B with
      | none => go s
      | some c =>
        if landingFieldsBad s c.e ∨ sglOk c.e sgl (c.e.count * 65536) = false then go (complete seq Status.invalidField 0 s)
        else if (slotAt s c.e.keySlot).loaded = false then go (complete seq Status.keySlotEmpty 0 s)
        else
          let c1 := { c with gen := genOf s c.e }
          go (beginLanding c1 blocks (updCmd seq (fun _ => c1) s))

/-- Blocks to host memory until one fails; an unmapped block gives zeros (R322). -/
def readBlocks (c : Cmd) (sgl : List ScatterElem) : Nat → Nat → State → State
  | 0, _, s => complete c.seq Status.ok 0 s
  | n + 1, i, s =>
    match landingBlock c.seq (c.e.position + i) s with
    | .unmapped => readBlocks c sgl n (i + 1) (sglWrite sgl (i * 65536) (zeros 65536) s)
    | .plain b s1 => readBlocks c sgl n (i + 1) (sglWrite sgl (i * 65536) b s1)
    | .fails st s1 => complete c.seq st 0 s1

/-- READ_LANDING (R57). -/
def execReadLanding (seq : Nat) (sgl : Bytes) (s : State) : Out :=
  match due s seq 0x0C with
  | none => go s
  | some c =>
    if landingFieldsBad s c.e ∨ sglOk c.e sgl (c.e.count * 65536) = false then go (complete seq Status.invalidField 0 s)
    else go (readBlocks c (sglOf c.e sgl) c.e.count 0 s)

/-- DISCARD_LANDING (R322): unmapped at once, by one UNMAP record. -/
def execDiscardLanding (seq : Nat) (s : State) : Out :=
  match due s seq 0x0D with
  | none => go s
  | some c =>
    if landingFieldsBad s c.e then go (complete seq Status.invalidField 0 s)
    else
      let lo := c.e.position
      let s1 := unmapRange (landingUnit lo) c.e.count s
      let s2 := updShd (fun d => { d with lostLanding := d.lostLanding.filter fun x => !(decide (lo ≤ x.1 ∧ x.1 < lo + c.e.count)) }) s1
      go (complete seq Status.ok 0 (settleBlocks (journalRec (.unmap (landingUnit lo) c.e.count) s2)))

/-! ## LAY_LANDING (R57) -/

/-- Landing blocks that a record of a length occupies. -/
def blocksPer (len : Nat) : Nat := ceilDiv len 65536

/-- Host bytes [a, a + n) of record j of a LAY_LANDING whose blocks begin at `first`. -/
def layRecord (seq first per : Nat) (j a : Nat) : Nat → State → Except (Nat × State) (Bytes × State)
  | 0, s => .ok ([], s)
  | k + 1, s =>
    let n := first + j * per + a / 65536
    let rest := fun (b : Bytes) (s : State) =>
      match layRecord seq first per j (a + 65536) k s with
      | .ok (bs, s1) => .ok (b ++ bs, s1)
      | .error e => .error e
    match landingBlock seq n s with
    | .unmapped => rest (freeBytes s 65536) (drawMany 65536 s)
    | .plain b s1 => rest b s1
    | .fails st s1 => .error (st, s1)

/-- Bytes of record j in its first packet. -/
def firstLen (recs : List Rec) (j : Nat) : Nat := min (((recs[j]?).map Rec.len).getD 0) 262144

/-- Host bytes of the records that begin in a packet, from record j on. -/
def layRecords (seq first per : Nat) (recs : List Rec) : Nat → Nat → State → Except (Nat × State) (Bytes × State)
  | _, 0, s => .ok ([], s)
  | j, n + 1, s =>
    match layRecord seq first per j 0 (blocksPer (firstLen recs j)) s with
    | .error e => .error e
    | .ok (b, s1) =>
      match layRecords seq first per recs (j + 1) n s1 with
      | .error e => .error e
      | .ok (bs, s2) => .ok (b.take (firstLen recs j) ++ bs, s2)

/-- Host bytes of packet i of a LAY_LANDING. -/
def layPacket (w : Write) (first : Nat) (i : Nat) (k : Pkt) (s : State) : Except (Nat × State) (Bytes × State) :=
  let per := blocksPer (((w.recs[0]?).map Rec.len).getD 0)
  if k.recStarts = 0 then
    let a := (i - ((w.recs[k.firstRec]?).map Rec.pkt).getD 0) * 262144
    match layRecord w.seq first per k.firstRec a (blocksPer k.hostLen) s with
    | .ok (b, s1) => .ok (b.take k.hostLen, s1)
    | .error e => .error e
  else layRecords w.seq first per w.recs k.firstRec k.recStarts s

/-- Decrypt packets in order into Stalls of the ingress Stable as it grants them; a block that fails ends the write. -/
def layFill (first : Nat) : Nat → Nat → State → State
  | 0, _, s => s
  | f + 1, seq, s =>
    match (findWrite s seq).bind fun w => (w.pkts.zipIdx.find? fun x => x.1.st == .dma).map fun x => (w, x) with
    | none => s
    | some (w, k, i) =>
      match acquireOne 0x30 0 s with
      | (none, s1) => s1
      | (some h, s1) =>
        match layPacket w first i k s1 with
        | .error (st, s2) => endWrite seq st (giveBack 0x30 h s2)
        | .ok (b, s2) =>
          layFill first f seq (updWrite seq (fun w => w.updPkt i fun k => { k with st := .ready, data := fit b k.hostLen, ingress := some h }) s2)

/-- Go on filling a LAY_LANDING that runs. -/
def layGoOn (seq first : Nat) (s : State) : State :=
  match runningCmd s seq 0x0E, findWrite s seq with
  | some _, some w => layFill first (w.pkts.length + 1) seq s
  | _, _ => s

/-- LAY_LANDING (R57, R470): admitted like a WRITE_RECORDS; its packets are decrypted as ingress Stalls are free. -/
def execLayLanding (seq : Nat) (s : State) : Out :=
  match findCmd s seq with
  | none => go s
  | some c =>
    let first := bits c.e.auxAddr 47 0
    if c.e.opcode ≠ 0x0E ∨ c.ring = 32 then go s
    else if c.st = .admitted then go (layGoOn seq first (beginWrite seq s))
    else if c.st = .running then go (layGoOn seq first s)
    else
      match due s seq 0x0E with
      | none => go s
      | some c =>
        let e := c.e
        let ls := List.replicate (min e.count 4097) (e.length, 0)
        let total := e.count * e.length
        let bad := decide (Cfgw.landingBlocks s < first + e.count * blocksPer e.length)
        let packets := (cutRecords (ls.map Prod.fst)).1.length
        match writeFieldCheck e ls 4096 total bad with
        | some st => go (complete seq st 0 s)
        | none =>
          match admissionCheck s e false (writeMeasure total packets ls) packets with
          | some st => go (refuseWrite c st packets s)
          | none => go (layGoOn seq first (admitWrite c (fun t => newWrite c .landing t ls [] (genOf s e)) s))

/-! ## Key management (R123 to R127, R132, R133) -/

/-- Every command accepted so far that names a key slot for writing has been through its own checks, so that it saw the old slot
before the switch instant; one that is accepted meanwhile is waited for as well (R132; DEDUCED, log entry 113). -/
def earlierChecked (s : State) : Bool :=
  !(s.hq.cmds.any fun c => c.ring != 32 && c.st == .fetched && [0x01, 0x0B, 0x0E].contains c.e.opcode)

/-- The fused device secret. -/
def secretOf (s : State) : Bytes := (s.cfg.fuses.map Fuses.secret).getD []

/-- KEY_INJECT (R125, R126, R132). -/
def execKeyInject (seq : Nat) (sgl : Bytes) (block : Bytes) (s : State) : Out :=
  match due s seq 0x90 with
  | none => go s
  | some c =>
    let x := slotAt s c.e.keySlot
    let gen := c.e.param
    let point := block.take 97
    if earlierChecked s = false then go s
    else if c.e.length ≠ 144 ∨ sglOk c.e sgl 144 = false ∨ block.length ≠ 144 ∨ gen = 0 ∨ (x.loaded = true ∧ x.gen = gen)
        ∨ onCurve point = false then go (complete seq Status.invalidField 0 s)
    else if x.retiring.isSome then go (complete seq Status.busyRetry 1000 s)
    else
      let z := ecdh (Config.transportSeed (secretOf s)) point
      match keyUnwrap (injectKek z c.e.keySlot gen point) (slice block 100 40) with
      | none => go (complete seq Status.authFail 0 s)
      | some key => go (complete seq Status.ok 0 (injectKey c.e.keySlot gen key s))

/-- Writes and landing writes that still need the erased key end (R133). -/
def endErased (slot : Nat) (s : State) : State :=
  let ws := s.hq.writes.filter fun w => w.keySlot == slot && w.kind != .marks && !w.passed
  let ls := s.hq.cmds.filter fun c => c.ring != 32 && c.e.opcode == 0x0B && c.e.keySlot == slot && (c.st == .running || c.st == .admitted)
  let s1 := each (fun (w : Write) s => endWrite w.seq Status.keyErased s) ws s
  each (fun (c : Cmd) s => complete c.seq Status.keyErased 0 (unpinKey c.seq (cancelLanding c.seq s))) ls s1

/-- KEY_ERASE (R132, R133): of an EMPTY slot it changes nothing and completes at once. -/
def execKeyErase (seq : Nat) (s : State) : Out :=
  match due s seq 0x91 with
  | none => go s
  | some c =>
    if earlierChecked s = false then go s
    else if (slotAt s c.e.keySlot).loaded = false then go (complete seq Status.ok 0 s)
    else go (endErased c.e.keySlot (eraseKey c.e.keySlot seq (setSt seq .running s)))

/-- KEY_ERASE_NOR_DONE (R132): the old records are physically erased and the KEY_ERASE completes. -/
def execKeyEraseNorDone (slot : Nat) (s : State) : Out :=
  match (slotAt s slot).erasing with
  | none => go s
  | some seq =>
    let s1 := setSlot slot { slotAt s slot with erasing := none } (eraseOldRecords slot s)
    go (if (runningCmd s seq 0x91).isSome then complete seq Status.ok 0 s1 else s1)

/-- A command accepted before the switch instant that may still use a retiring generation. -/
def retiringUsed (s : State) (slot gen sw : Nat) : Bool :=
  (s.hq.writes.any fun w => w.keySlot == slot && w.gen == gen && w.kind != .marks && !w.taken && decide (w.seq < sw))
    || s.hq.cmds.any fun c => c.ring != 32 && c.st != .completing && decide (c.seq < sw)
         && ([0x02, 0x0C, 0x0E].contains c.e.opcode || (c.e.opcode == 0x0B && c.e.keySlot == slot && c.gen == gen && c.st == .running))

/-- RETIRING_GENERATION_END (R132). -/
def execRetiringGenerationEnd (slot : Nat) (s : State) : Out :=
  match (slotAt s slot).retiring with
  | none => go s
  | some (g, _, sw) => if retiringUsed s slot g sw then go s else go (endRetiring slot s)

/-- KEY_QUERY (R124). -/
def execKeyQuery (seq : Nat) (s : State) : Out :=
  match due s seq 0x92 with
  | none => go s
  | some c =>
    let x := slotAt s c.e.keySlot
    go (complete seq Status.ok (x.gen + b2n x.loaded * 2 ^ 32 + b2n x.retiring.isSome * 2 ^ 33 + b2n x.exhausted * 2 ^ 34) s)

/-- GET_TRANSPORT_KEY (R124, R469). -/
def execGetTransportKey (seq : Nat) (sgl : Bytes) (s : State) : Out :=
  match due s seq 0x93 with
  | none => go s
  | some c =>
    if c.e.length < 193 then go (complete seq Status.lengthLimit 0 s)
    else if sglOk c.e sgl c.e.length = false then go (complete seq Status.invalidField 0 s)
    else
      let point := fit (publicPoint (Config.transportSeed (secretOf s))) 97
      let sig := fit (ecdsaSign (Config.identitySeed (secretOf s)) (sha384 point)) 96
      go (complete seq Status.ok 193 (sglWrite (sglOf c.e sgl) 0 (point ++ sig) s))

end Sys2Proof.Machine
end

