-- ==== Sys2Proof/Machine/Fmt.lean ====
section
/-!
DEFINITION. The formatter (07): packets packed into data sets, padding, Lofts and their parity, images for the write lanes,
what a closed Loft makes Laid, the MB_FMT events.
-/

namespace Sys2Proof.Machine

/-! ## What waits for the formatter (R176, R318) -/

/-- A packet of a write is at hand: its buffer copy, or a copy returned from the Shed. -/
def atHand (s : State) (w : Write) (i : Nat) : Bool := decide (w.freed ≤ i) || decide (i < AMap.getD s.shd.returned w.seq 0)

/-- The next packet in formatter order: acceptance order, packet order; a write not yet Taken holds back the later ones. -/
def fmtNext (s : State) (p : Nat) : Option (Write × Nat) :=
  match s.hq.writes.find? fun w => w.part == p && (!w.taken || decide (w.formatted < w.livePkts)) with
  | some w => if w.taken then some (w, w.formatted) else none
  | none => none

/-- Offset of the packet header in a packet's stored bytes, and of each descriptor before it with its record. -/
def unitPlaces (w : Write) (i : Nat) : List (Nat × Nat × Bool) × Nat :=
  (w.recs.zipIdx.filter fun x => x.1.pkt == i).foldl (fun (l, off) (r, j) =>
    (l ++ [(off, w.first + j, w.truncating && j == 0)], off + 48 + r.header.length)) ([], 0)

/-- Truncating descriptors that begin in the data set being assembled. -/
def truncations (x : Part) : Nat := (x.descs.filter fun d => d.2.2 && decide (d.1 < userArea)).length

/-- A packet's bytes are appended to the user area; its write learns where its first byte and the header of packet 0 lie
(R100). -/
def appendPacket (p : Nat) (w : Write) (i : Nat) (k : Pkt) (s : State) : State :=
  let x := partAt s p
  let at_ := x.user.length
  let u := unitPlaces w i
  let head := placeOn 2 x.nextDs (at_ + k.lead)
  let y := { x with
    user := x.user ++ k.stored
    descs := x.descs ++ u.1.map fun (o, n, t) => (at_ + o, n, t)
    heads := if w.kind = .marks then x.heads else x.heads ++ [at_ + u.2]
    nextRec := (u.1.getLast?.map fun d => d.2.1 + 1).getD x.nextRec }
  updWrite w.seq (fun w => { w with
    formatted := i + 1
    tapeDs := if i = 0 then head.1 else w.tapeDs
    tapeOff := if i = 0 then head.2 else w.tapeOff
    firstDs := if i = 0 then x.nextDs else w.firstDs
    firstOff := if i = 0 then at_ else w.firstOff
    lastDs := if at_ + k.stored.length ≤ userArea then x.nextDs else nextUserNo x.nextDs }) (setPart p y s)

/-! ## Lofts (R175, R178, R218) -/

/-- A Loft opens: its two accumulators take 90 Stalls each of the assembly Stable; none while the Stable or the partition has no
room. A final partial Loft is never started (R158). -/
def openLoft (p : Nat) (s : State) : Bool × State :=
  if positionsLeft s p < 32 then (false, s)
  else
    match acquireFrom 90 0x10 2 180 3 s with
    | (none, s1) => (false, s1)
    | (some hs, s1) => (true, updPart p (fun x => { x with loftOpen := true, loftData := 0, c3p := [], c3q := [], c3Stalls := hs, closeAsked := false }) s1)

/-- Whether a Loft that can take the next data set is open, opened now if need be. -/
def loftReady (p : Nat) (s : State) : Bool × State :=
  let x := partAt s p
  if 30 ≤ x.nextDs % 32 then (false, s)
  else if x.loftOpen then (true, s)
  else openLoft p s

/-- Assembly of a data set has begun: in a Yard member partition the Yard engine is told (R349). -/
def beginDs (p : Nat) (s : State) : State :=
  let x := partAt s p
  if x.assembling ∨ x.user = [] ∨ x.loftOpen = false ∨ 30 ≤ x.nextDs % 32 then s
  else
    let s1 := updPart p (fun x => { x with assembling := true }) s
    if x.yardMember then post .yard Src.fmt 0x0001 (x.nextDs % 2 ^ 32 + p * 2 ^ 32) s1 else s1

/-- Fill the user area of a partition's data set, giving back the Shed transfer Stalls that this empties (R318); whether it must be padded before a ninth truncating descriptor (R177). -/
def fillUser (p : Nat) : Nat → State → Bool × State
  | 0, s => (false, s)
  | f + 1, s =>
    if userArea ≤ (partAt s p).user.length then (false, s)
    else
      match fmtNext s p with
      | none => (false, s)
      | some (w, i) =>
        if atHand s w i = false then (false, s)
        else if i = 0 ∧ w.truncating ∧ 8 ≤ truncations (partAt s p) then (true, s)
        else
          match w.pkts[i]?, loftReady p s with
          | some k, (true, s1) => fillUser p f (beginDs p (freeReturned (appendPacket p w i k s1)))
          | _, (_, s1) => (false, s1)

/-! ## Images (R174, R181, R182, R217) -/

/-- The stripe of a unit's DSIT (R349): an acknowledged claim, or 0xFFFF_FFFF; its epoch. -/
def unitStripe (s : State) (p ds : Nat) : Nat × Nat :=
  match s.yrd.claims.find? fun c => c.part == p && c.ds == ds && c.acked with
  | some c => (c.stripe, c.epoch)
  | none => (0xFFFFFFFF, s.yrd.epoch)

/-- Queue an image for the write lanes in its 90 Stalls. A data set of an open Loft whose completion a LOAD found is not
written again (R218). -/
def queueImage (img : Image) (hs : List Handle) (s : State) : State :=
  if img.copy = 0 ∧ (AMap.get? (partAt s img.part).done img.ds).isSome then each (giveBack 0x0C) hs s
  else inc 0x050100 { s with wrv := { s.wrv with images := s.wrv.images ++ [{ img with stalls := hs }] } }

/-- What needs an image's 90 Stalls of the assembly Stable: done with them, or left until the Stable grants them (R83). -/
def withStalls (f : List Handle → State → State) (s : State) : State :=
  match acquire 0x0C 2 90 s with
  | (some hs, s1) => f hs s1
  | (none, s1) => s1

/-- A handle as a 27-bit word (R86). -/
def handleWord (h : Handle) : Nat := h.1 % 2 ^ 19 + h.2 % 256 * 2 ^ 19

/-- The image of the user data set being assembled. -/
def userImage (s : State) (p : Nat) (padded short : Bool) : Image :=
  let x := partAt s p
  let here := x.descs.filter fun d => decide (d.1 < userArea)
  let units := (here.map fun d => d.1) ++ x.heads.filter fun h => decide (h < userArea)
  let tr := here.filter fun d => d.2.2
  let st := if x.yardMember then unitStripe s p x.nextDs else (0, 0)
  { part := p, ds := x.nextDs, kind := 1, loftIdx := x.nextDs % 32, user := fit (x.user.take userArea) userArea,
    used := min x.user.length userArea, padded := padded,
    firstUnit := match units with | [] => 0xFFFFFFFF | u :: us => us.foldl min u
    firstRec := (here.head?.map fun d => d.2.1).getD x.nextRec
    descCount := here.length, descIdx := descIndex (here.map fun d => d.1),
    truncOffs := tr.map fun d => d.1, truncRecs := tr.map fun d => d.2.1, shortLoft := short, stripe := st.1, epoch := st.2 }

/-- A data set at the Loft index being assembled joins the C3 accumulators and takes its number. -/
def joinLoft (p : Nat) (img : Image) (s : State) : State :=
  updPart p (fun x =>
    let c := c3Add (x.nextDs % 32) img.user x.c3p x.c3q
    { x with c3p := c.1, c3q := c.2, loftData := x.loftData + 1, nextDs := x.nextDs + 1 }) s

/-- Encode the user data set being assembled; bytes beyond its user area begin the next one. -/
def encodeUser (p : Nat) (padded short : Bool) (hs : List Handle) (s : State) : State :=
  let img := userImage s p padded short
  let s1 := queueImage img hs (joinLoft p img (if padded then inc 0x050104 s else s))
  let s2 := updPart p (fun x => { x with
    user := x.user.drop userArea
    descs := (x.descs.filter fun d => decide (userArea ≤ d.1)).map fun d => (d.1 - userArea, d.2)
    heads := (x.heads.filter fun h => decide (userArea ≤ h)).map fun h => h - userArea
    assembling := false }) s1
  beginDs p (if (partAt s p).yardMember then post .yard Src.fmt 0x0002 (handleWord (hs.headD (0, 0)) + img.ds % 2 ^ 32 * 2 ^ 27) s2 else s2)

/-- Encode a parity data set; after the second, the Loft is closed for the formatter. -/
def encodeParity (p : Nat) (hs : List Handle) (s : State) : State :=
  let x := partAt s p
  let q := decide (x.nextDs % 32 = 31)
  let img : Image := {
    part := p, ds := x.nextDs, kind := 2, loftIdx := x.nextDs % 32, user := fit (if q then x.c3q else x.c3p) userArea,
    used := userArea, padded := false, firstUnit := 0xFFFFFFFF, firstRec := 0, descCount := 0, descIdx := [], truncOffs := [],
    loftCount := x.loftData, shortLoft := decide (x.loftData < 30), stripe := if x.yardMember then 0xFFFFFFFF else 0,
    epoch := if x.yardMember then s.yrd.epoch else 0 }
  let s1 := updPart p (fun x => { x with nextDs := x.nextDs + 1 }) (queueImage img hs s)
  if q then
    let s2 := each (giveBack 0x10) x.c3Stalls s1
    let s3 := updPart p (fun y => { y with loftOpen := false, c3Stalls := [], c3p := [], c3q := [], loftData := 0,
                                           loftN := AMap.set y.loftN (x.nextDs / 32) x.loftData }) s2
    -- bytes that wait for the next Loft open it
    if (partAt s3 p).user = [] then s3 else beginDs p (openLoft p s3).2
  else s1

/-- Encode a data set that came from elsewhere: a reallocated one keeps its number, a Yard parity or rebuilt one takes its
place in the Loft. -/
def encodeExtra (p : Nat) (img : Image) (hs : List Handle) (s : State) : State :=
  let drop := fun (s : State) => updPart p (fun x => { x with extra := x.extra.drop 1 }) s
  if img.copy ≠ 0 then queueImage img hs (drop s)
  else
    match loftReady p s with
    | (false, s1) => each (giveBack 0x0C) hs s1
    | (true, s1) =>
      let n := (partAt s1 p).nextDs
      let img1 := { img with ds := n, loftIdx := n % 32 }
      let mark := fun (a : Accum) => if img.kind = 4 ∧ a.stripe = img.stripe ∧ a.role = img.role then { a with part := p, ds := some n } else a
      let s2 := { s1 with yrd := { s1.yrd with accums := s1.yrd.accums.map mark } }
      queueImage img1 hs (joinLoft p img1 (drop s2))

/-- A data set from elsewhere can be encoded now: a copy needs a position before the hard reserve, one that takes a place in the
Loft waits for the user data set in progress. -/
def extraReady (s : State) (p : Nat) (img : Image) : Bool :=
  if img.copy ≠ 0 then decide (0 < positionsLeft s p) else (partAt s p).user == []

/-- The next image of a partition, if one can be completed. -/
def encodeNext (p : Nat) (s : State) : State :=
  let x := partAt s p
  if loaded s = false ∨ x.wraps = 0 ∨ x.writeStopped ∨ x.positions ≤ x.nextPos + imagesOf s p then s
  else if x.loftOpen ∧ 30 ≤ x.nextDs % 32 then withStalls (encodeParity p) s
  else
    let r := fillUser p (s.hq.writes.foldl (fun n w => n + w.pkts.length) 1) s
    let y := partAt r.2 p
    if userArea ≤ y.user.length ∨ r.1 = true then withStalls (encodeUser p (decide (y.user.length < userArea)) false) r.2
    else
      match y.extra with
      | img :: _ => if extraReady r.2 p img then withStalls (encodeExtra p img) r.2 else r.2
      | [] => r.2

/-- DATA_SET_ENCODED (R174). -/
def execDataSetEncoded (part : Nat) (s : State) : Out := if part < 4 then go (encodeNext part s) else go s

/-! ## Early close (R178) -/

/-- A SYNC at Laid or Yard-safe covers a record in the open Loft. -/
def syncWantsLoft (s : State) (p : Nat) : Bool :=
  s.hq.cmds.any fun c => c.ring != 32 && c.e.opcode == 0x03 && c.st == .running && decide (2 ≤ bits c.e.flags 1 0)
    && c.covers.any fun (q, e) => q == p &&
      s.hq.writes.any fun w => w.part == p && decide (0 < w.formatted ∧ w.first < e ∧ w.lastDs / 32 = (partAt s p).nextDs / 32)

/-- An UNLOAD runs. -/
def unloadPending (s : State) : Bool := s.hq.cmds.any fun c => c.ring != 32 && c.e.opcode == 0x08 && c.st == .running

/-- Both conditions of an early close. -/
def earlyClose (s : State) (p : Nat) : Bool :=
  let x := partAt s p
  x.loftOpen && decide (x.nextDs % 32 < 30) && decide (0 < x.loftData ∨ x.user ≠ []) && decide (x.user.length < userArea)
    && unformatted s p == 0
    && (syncWantsLoft s p || unloadPending s || x.closeAsked || decide (positionsLeft s p = 0))

/-- The parity data sets come next, as 32L + 30 and 32L + 31; an early close, of fewer than 30 data sets, is counted. -/
def shutLoft (p : Nat) (s : State) : State :=
  let x := partAt s p
  let s1 := setPart p { x with nextDs := 32 * (x.nextDs / 32) + 30 } s
  if x.loftData < 30 then inc 0x050108 s1 else s1

/-- LOFT_EARLY_CLOSE (R178): the data set in progress is padded; the parity data sets follow. Padded at Loft index 29, it closes
the Loft full. -/
def execLoftEarlyClose (part : Nat) (s : State) : Out :=
  let x := partAt s part
  if 4 ≤ part ∨ earlyClose s part = false then go s
  else if x.user = [] then go (shutLoft part s)
  else go (withStalls (fun hs s => shutLoft part (encodeUser part true (decide (x.loftData + 1 < 30)) hs s)) s)

/-! ## Laid and Yard-safe (R24, R25, R217) -/

/-- Packets of a write, from the first on, whose data sets all pass a test. -/
def prefixPkts (w : Write) (ok : Nat → Bool) : Nat :=
  ((List.range w.formatted).takeWhile fun i => let r := pktSets w i; ok r.1 && ok r.2).length

/-- Laid and Yard-safe counts of a partition's writes, and its marks, follow the closed Lofts and safe stripes. -/
def refreshLaid (p : Nat) (s : State) : State :=
  let x := partAt s p
  let shut := fun ds => mem? x.closed (ds / 32)
  refreshMarks p (setWrites (s.hq.writes.map fun w =>
    if w.part = p then
      let l := max w.laid (prefixPkts w shut)
      { w with laid := l, safe := if x.yardMember then max w.safe (min l (prefixPkts w fun ds => mem? x.safeDs ds)) else l }
    else w) s)

/-- A Loft both of whose parity data sets and every data set that they cover are complete on tape closes: its packets are
Laid, and the Yard engine is told of each Yard parity data set in it (R358). -/
def closeLoft (p l : Nat) (s : State) : State :=
  let x := partAt s p
  let has := fun i => (AMap.get? x.done (32 * l + i)).isSome
  match AMap.get? x.loftN l with
  | none => s
  | some n =>
    if has 30 && has 31 && (List.range n).all has then
      let parity := x.done.filter fun d => d.1 / 32 == l && d.2 == 4
      let s1 := updPart p (fun x => { x with closed := AMap.set x.closed l (), done := x.done.filter fun d => d.1 / 32 != l,
                                             loftN := AMap.erase x.loftN l }) s
      refreshLaid p (each (fun (d : Nat × Nat) s => post .yard Src.fmt 0x0003 (d.1 % 2 ^ 32 + p * 2 ^ 32) s) parity s1)
    else s

/-! ## MB_FMT (R197) -/

/-- EARLY_CLOSE_REQUEST (R197). -/
def execEarlyCloseRequest (src arg : Nat) (s : State) : Out :=
  go (boxTake .fmt src 0x0001 arg (updPart (bits arg 1 0) fun x => { x with closeAsked := x.loftOpen }) s)

/-- SHED_RETURN_READY (R318): the packets returned are at hand, and the formatter goes on with them. -/
def execShedReturnReady (src arg : Nat) (s : State) : Out :=
  let act := fun (s : State) =>
    let p := bits arg 33 32
    if loaded s = false ∨ (partAt s p).writeStopped ∨ 30 ≤ (partAt s p).nextDs % 32 then s
    else (fillUser p (bits arg 31 0 + 1) s).2
  go (boxTake .fmt src 0x0002 arg act s)

/-- An image of a data set whose user area is at hand, to be written again at the next free position with a copy field. -/
def imageAgain (p ds copy : Nat) (stream : Bytes) (stripe epoch : Nat) : Image :=
  let d := (dsitOf stream).getD {}
  { part := p, ds := ds, kind := d.kind, loftIdx := ds % 32, user := fit (stream.take userArea) userArea, used := d.used,
    padded := d.padded, firstUnit := d.firstUnit, firstRec := d.firstRec, descCount := d.descCount, descIdx := d.descIdx,
    truncOffs := d.truncOffs,
    copy := copy, loftCount := d.loftData, shortLoft := d.shortLoft, stripe := stripe, role := d.role, epoch := epoch }

/-- REALLOCATE_WEAK (R257): the data set is encoded from the stored data stream, as copy 2. -/
def execReallocateWeak (src arg : Nat) (s : State) : Out :=
  let act := fun (s : State) =>
    let ds := bits arg 31 0
    let p := bits arg 33 32
    match s.rch.weak.find? fun w => weakHere s w && w.part == p && w.ds == ds with
    | none => s
    | some w =>
      let d := (dsitOf w.stream).getD {}
      if (partAt s p).extra.any fun i => i.ds == ds && i.copy == 2 then s
      else updPart p (fun x => { x with extra := x.extra ++ [imageAgain p ds 2 w.stream d.stripe d.epoch] }) s
  go (boxTake .fmt src 0x0003 arg act s)

/-- The content fields of a unit, read from its user area from the first unit that begins in it, at `base` (R167, R250, R371). -/
def rebuiltImage (s : State) (p ds base : Nat) (user : Bytes) : Image :=
  let r := scanUnits (user.length + 1) (user.drop base) base (partAt s p).nextRec
  let tr := r.1.filter fun x => x.2.truncating
  let st := unitStripe s p ds
  { part := p, ds := ds, kind := 1, loftIdx := ds % 32, user := fit user userArea, used := min r.2 userArea,
    padded := decide (r.2 < userArea), firstUnit := if base < user.length then base else 0xFFFFFFFF,
    firstRec := (r.1.head?.map fun x => x.2.number).getD (partAt s p).nextRec,
    descCount := r.1.length, descIdx := descIndex (r.1.map fun x => x.1),
    truncOffs := tr.map fun x => x.1, truncRecs := tr.map fun x => x.2.number, stripe := st.1, epoch := st.2 }

/-- Where the first unit of a rebuilt data set begins: found by walking on from the data set before it, when that is at hand
(R250). -/
def rebuiltBase (s : State) (p ds : Nat) (user : Bytes) : Nat :=
  match prevSet s p ds with
  | some (_, st) =>
    let u := usedBytes st
    let from_ := ((dsitOf st).map Dsit.firstUnit).getD 0
    (firstUnitFrom (u.length - from_) (u.length + user.length + 1) (u.drop from_ ++ user) 0).getD 0xFFFFFFFF
  | none => 0

/-- REBUILT_DS_READY (R350, R371): an unstriped unit is written again as copy 1; a unit rebuilt for a replacement is
written in its place. -/
def execRebuiltDsReady (src arg : Nat) (s : State) : Out :=
  let act := fun (s : State) =>
    let ds := bits arg 58 27
    match s.yrd.retains.find? fun r => r.ds == ds && (s.yrd.unstriped.contains (r.part, ds)) with
    | some r =>
      let img := { rebuiltImage s r.part ds (rebuiltBase s r.part ds r.user) r.user with copy := 1 }
      { updPart r.part (fun x => { x with extra := x.extra ++ [img] }) s with
          yrd := { s.yrd with unstriped := s.yrd.unstriped.filter fun u => u != (r.part, ds) } }
    | none =>
      match s.yrd.rebuilt.find? fun b => b.1 % 2 ^ 32 == ds with
      | none => s
      | some (k, user) =>
        let p := k / 2 ^ 32
        { updPart p (fun x => { x with extra := x.extra ++ [rebuiltImage s p ds (rebuiltBase s p ds user) user] }) s with
            yrd := { s.yrd with rebuilt := AMap.erase s.yrd.rebuilt k } }
  go (boxTake .fmt src 0x0004 arg act s)

/-- YARD_PARITY_READY (R358): the accumulator of a sealed stripe becomes a data set of kind 4 in the parity partition. -/
def execYardParityReady (src arg : Nat) (s : State) : Out :=
  let act := fun (s : State) =>
    let stripe := bits arg 58 27
    match s.yrd.accums.find? fun a => a.stripe == stripe && a.isSealed && a.ds.isNone with
    | none => s
    | some a =>
      let p := s.yrd.parityPart
      let img : Image := {
        part := p, ds := 0, kind := 4, loftIdx := 0, user := fit a.bytes userArea, used := userArea, padded := false,
        firstUnit := 0xFFFFFFFF, firstRec := 0, descCount := 0, descIdx := [], truncOffs := [], stripe := stripe, role := a.role,
        epoch := s.yrd.epoch }
      updPart p (fun x => { x with extra := x.extra ++ [img] }) s
  go (boxTake .fmt src 0x0005 arg act s)

/-- Codes that the formatter knows. -/
def fmtKnows (code : Nat) : Bool := decide (1 ≤ code ∧ code ≤ 5) || code == 0x8001

/-- FMT_UNKNOWN_EVENT (R197). -/
def execFmtUnknownEvent (src code arg : Nat) (s : State) : Out :=
  if fmtKnows code then go s else go (boxTake .fmt src code arg (inc 0x050134) s)

end Sys2Proof.Machine
end

