-- ==== Sys2Proof/Machine/Wrv.lean ====
section
/-!
DEFINITION. The write lanes, read-after-write verify and speed matching (08): lane blocks, inhibit, placements and their
rows, rewrites, carry-overs, data sets written again, write windows.
-/

namespace Sys2Proof.Machine

def updWrv (f : Wrv → Wrv) (s : State) : State := { s with wrv := f s.wrv }

def laneAt (s : State) (k : Nat) : Lane := AMap.getD s.wrv.lanes k {}

def updLane (k : Nat) (f : Lane → Lane) (s : State) : State := updWrv (fun w => { w with lanes := modAt w.lanes k {} f }) s

/-! ## Lane blocks (R199 to R204) -/

/-- 64 bits through the self-synchronising scrambler x^58 + x^39 + 1, bit 63 first (the order is not given: DEDUCED from
the order of row blocks, log entry 22): the scrambled payload and the next state. -/
def laneScramble (st payload : Nat) : Nat × Nat :=
  (bitsOf 64 payload).foldl (fun (o, x) b =>
    let y := b ^^ bit x 38 ^^ bit x 57
    (2 * o + b2n y, (2 * x + b2n y) % 2 ^ 58)) (0, st)

/-- The blocks that leave on a lane, each scrambled in turn. -/
def sendBlocks (k : Nat) (bs : List (Bool × Nat)) (s : State) : State :=
  updLane k (fun l =>
    let r := bs.foldl (fun (acc : List (Bool × Nat × Nat) × Nat) b =>
      let e := laneScramble acc.2 b.2
      (acc.1 ++ [(b.1, b.2, e.1)], e.2)) ([], l.scrambler)
    { l with blocks := r.1, scrambler := r.2 }) s

/-- A control block: type and body. -/
def control (type body : Nat) : Bool × Nat := (false, type * 2 ^ 56 + body % 2 ^ 56)

/-- A data block. -/
def dataBlock (count : Nat) (gate : Bool) (bs : List Bool) : Bool × Nat :=
  (true, count % 64 * 2 ^ 58 + b2n gate * 2 ^ 57 + (bs.foldl (fun n b => 2 * n + b2n b) 0) * 2 ^ (56 - min 56 bs.length))

/-- A channel is retired (R146). -/
def isRetired (s : State) (p : Nat) : Bool := mem? s.wrv.retired p

/-- DRIVE block of a physical channel (R204). -/
def driveBlock (s : State) (p : Nat) : Bool × Nat :=
  let d := Cfgw.chanDrive s p
  control 0x4B ((if p < 128 then p % 32 else 32) * 2 ^ 48 + bits d 7 0 * 2 ^ 40 + bits d 15 8 * 2 ^ 32)

/-- DRIVE blocks for a list of channels, on their lanes. -/
def sendDrive (ps : List Nat) (s : State) : State :=
  each (fun k s =>
    let mine := (linkChannels k).filter ps.contains
    if mine = [] then s else sendBlocks k (mine.map (driveBlock s)) s) [0, 1, 2, 3] s

/-! ## Inhibit (R205 to R208) -/

/-- Any cause is active. -/
def inhibited (s : State) : Bool := s.wrv.pes || s.wrv.shock || s.wrv.loop || s.wrv.overspeed || s.wrv.mgmt

/-- The active causes, as `inhibit_cause` of WRV_STATUS. -/
def causeBits (s : State) : Nat :=
  b2n s.wrv.pes + 2 * b2n s.wrv.shock + 4 * b2n s.wrv.loop + 8 * b2n s.wrv.overspeed + 16 * b2n s.wrv.mgmt

/-- Data blocks leave with `gate` set. -/
def gateOpen (s : State) : Bool := s.wrv.windowOpen && !inhibited s && !s.wrv.resuming

/-- GATE_OFF on all four lanes, recorded and counted; the row being written is lost. -/
def gateOff (s : State) : State :=
  let c := causeBits s
  let s1 := each (fun k v => updLane k (fun l => { l with gateOffSent := true, gated := 0 })
    (sendBlocks k [control 0x2D (c * 2 ^ 48 + s.srv.clock % 2 ^ 40)] v)) [0, 1, 2, 3] s
  inc 0x060114 (updWrv (fun w => { w with lastClock := s.srv.clock, lastCause := c, slotLost := w.slotLost || (w.windowOpen && decide (w.slot < 396)) }) s1)

/-- A cause becomes active. -/
def startCause (f : Wrv → Wrv) (s : State) : State := gateOff (updWrv f s)

/-- A cause is cleared; with none left, writing resumes at the next row slot boundary of the data set in progress. After its last
slot it is the next data set position that comes first (R207). -/
def clearCause (f : Wrv → Wrv) (s : State) : State :=
  let s1 := updWrv f s
  if inhibited s ∧ inhibited s1 = false then updWrv (fun w => { w with resuming := w.windowOpen && decide (w.slot < 396) }) s1 else s1

/-- The sequencer takes an entry that clears a cause: it clears it only when its own producer posted it (R223). -/
def takeClear (producer src code arg : Nat) (f : Wrv → Wrv) (s : State) : State :=
  boxTake .wrv src code arg (fun s => if src = producer then clearCause f s else s) s

/-- PES_INHIBIT (R205). -/
def execPesInhibit (src arg : Nat) (s : State) : Out :=
  go (boxTake .wrv src 0x8001 arg (startCause fun w => { w with pes := true }) s)

/-- SHOCK_INHIBIT (R205). -/
def execShockInhibit (src arg : Nat) (s : State) : Out :=
  go (boxTake .wrv src 0x8002 arg (startCause fun w => { w with shock := true }) s)

/-- LOOP_FAULT_INHIBIT (R205): a loop fault, or overspeed. -/
def execLoopFaultInhibit (src arg : Nat) (s : State) : Out :=
  go (boxTake .wrv src 0x8003 arg (startCause fun w => if bit arg 3 then { w with overspeed := true } else { w with loop := true }) s)

/-- MANAGEMENT_INHIBIT (R205). -/
def execManagementInhibit (src arg : Nat) (s : State) : Out :=
  go (boxTake .wrv src 0x8004 arg (startCause fun w => { w with mgmt := true }) s)

/-- PES_CAUSE_CLEARED (R207). -/
def execPesCauseCleared (src arg : Nat) (s : State) : Out :=
  go (takeClear Src.servo src 0x0001 arg (fun w => { w with pes := false }) s)

/-- SHOCK_CAUSE_CLEARED (R207). -/
def execShockCauseCleared (src arg : Nat) (s : State) : Out :=
  go (takeClear Src.act src 0x0002 arg (fun w => { w with shock := false }) s)

/-- LOOP_CAUSE_CLEARED (R207). -/
def execLoopCauseCleared (src arg : Nat) (s : State) : Out :=
  go (takeClear Src.bridle src 0x0003 arg (fun w => { w with loop := false, overspeed := false }) s)

/-- MANAGEMENT_CAUSE_CLEARED (R207). -/
def execManagementCauseCleared (src arg : Nat) (s : State) : Out :=
  go (takeClear Src.mgtDay src 0x0004 arg (fun w => { w with mgmt := false }) s)

/-- Codes that the sequencer knows. -/
def wrvKnows (code : Nat) : Bool := decide (1 ≤ code ∧ code ≤ 4) || decide (0x8001 ≤ code ∧ code ≤ 0x8004)

/-- WRV_UNKNOWN_EVENT (R223). -/
def execWrvUnknownEvent (src code arg : Nat) (s : State) : Out :=
  if wrvKnows code then go s else go (boxTake .wrv src code arg (inc 0x060120) s)

/-! ## Placements (R148, R210, R211, R214) -/

/-- Change placement i of the list. -/
def updPlace (i : Nat) (f : Placement → Placement) (s : State) : State :=
  updWrv (fun w => { w with placements := w.placements.modify i f }) s

/-- A copy's place within a placement. -/
def copyKey (chan slot : Nat) : Nat := 396 * chan + slot

/-- A row's number. -/
def rowNo (sds row : Nat) : Nat := 192 * sds + row

/-- Index of the last element that a test picks. -/
def lastIdx {α : Type} (f : α → Bool) (l : List α) : Option Nat :=
  ((l.zipIdx.filter fun x => f x.1).getLast?).map Prod.snd

/-- The placement of a data set that counts. -/
def ownPlace (s : State) (p ds : Nat) : Option Nat :=
  lastIdx (fun (x : Placement) => x.img.part == p && x.img.ds == ds && !x.abandoned) s.wrv.placements

/-- The DSIT of a placement (R181, R183, R214). -/
def placeDsit (s : State) (x : Placement) : Dsit :=
  let i := x.img
  let inYard := i.kind != 3 && ((partAt s i.part).yardMember || i.kind == 4)
  { kind := i.kind, writePass := s.cart.writePass, number := i.ds, loftIdx := i.loftIdx, part := i.part, wrap := x.wrap,
    cls := x.cls, copy := i.copy, padded := i.padded, shortLoft := i.shortLoft, startFrame := frameOf (clockOf x.wrap x.start),
    loftData := i.loftCount, used := i.used, firstUnit := i.firstUnit, firstRec := i.firstRec, descCount := i.descCount,
    descIdx := i.descIdx, truncOffs := i.truncOffs, chanMap := x.chanMap,
    yard := if inYard then (s.yrd.desc.map Desc.yard).getD 0 else 0, stripe := if inYard then i.stripe else 0,
    member := if inYard then s.yrd.member else 0, role := if inYard then i.role else 0, epoch := if inYard then i.epoch else 0 }

/-- Byte of a placement's data stream. -/
def placeByte (s : State) (x : Placement) : Nat → Byte :=
  let d := (placeDsit s x).bytes
  fun i => if i < userArea then x.img.user.getD i 0#8 else d.getD (i - userArea) 0#8

/-- The split in row slot k of a placement, if one falls there: channel bits of the row before the split point, and of keep-out fill
from there to the span's end (R153, R193). -/
def slotCut (s : State) (x : Placement) (k : Nat) : Option (Nat × Nat) :=
  let sp := spansOf s x.wrap
  let a := slotPos x.cls x.start k sp 0
  if 396 ≤ k then none
  else
    ((splitPoints x.cls x.start sp 0).find? fun c => decide (a ≤ c.1 ∧ c.1 < slotPos x.cls x.start (k + 1) sp 0)).map fun c =>
      ((c.1 - a) / bitU x.cls, ceilDiv (c.2 - c.1) (bitU x.cls))

/-- Channel bits of a row slot: a row, and what a split adds. -/
def slotLen (s : State) (x : Placement) (k : Nat) : Nat := match slotCut s x k with | some c => 4128 + c.2 + 64 | none => 4128

/-- Whether a row slot of a placement is lengthened by a split span. -/
def slotSplit (s : State) (x : Placement) (k : Nat) : Bool := (slotCut s x k).isSome

/-- The channel bits of a row copy on a physical channel. -/
def rowBits (s : State) (own phys : Placement) (row copy chan slot : Nat) : List Bool :=
  let h := cwrHeader (row / 192) (row % 192) own.img.ds s.cart.writePass own.img.loftIdx copy (slotSplit s phys slot) phys.cls
  channelRow chan h (codewordRow (rowData (placeByte s own) (row / 192) (row % 192)))

/-- n bits of keep-out fill from a place in its pattern (R153). -/
def fillBits (phase n : Nat) : List Bool := (List.range n).map fun i => decide (4 ≤ (phase + i) % 8)

/-- What a channel writes in a row slot whose row bits are given: at a split the row ends at its last codeword boundary, keep-out
fill and the split resync follow, then the rest of the row (R153). -/
def slotStream (s : State) (x : Placement) (k : Nat) (row : List Bool) : List Bool :=
  match slotCut s x k with
  | some (b, n) => row.take b ++ fillBits 0 n ++ splitResync ++ row.drop b
  | none => row

/-- The row first written on a physical channel in slot k of a placement. -/
def firstRow (x : Placement) (chan k : Nat) : Option Nat :=
  if k < x.carry ∨ 384 ≤ k - x.carry then none
  else
    match x.chanMap.zipIdx.find? fun (c, _) => c == chan with
    | some (_, l) => let r := rowAt l (k - x.carry)
                     some (rowNo r.1 r.2)
    | none => none

/-! ## Positions and the end of tape (R157, R158) -/

/-- The hard reserve is consumed: the records of the open Loft not yet Laid are reported once as deferred MEDIA_FULL. -/
def noPosition (p : Nat) (s : State) : State :=
  let x := partAt s p
  if x.outOfTape then s
  else
    let lo := x.laidMark
    let n := x.nextRec - lo
    let s1 := updPart p (fun x => { x with outOfTape := true }) s
    if n = 0 then s1 else deferError p lo n Status.mediaFull s.hq.acceptSeq s1

/-- Pending carry-overs of a partition with their slots, in verdict order. -/
def carrySlots (cs : List (Nat × Nat × Nat × Nat)) : List (Nat × Nat × Nat × Nat) :=
  cs.foldl (fun l (_, ds, row, chan) => l ++ [(ds, row, chan, (l.filter fun x => x.2.2.1 == chan).length)]) []

/-- The carry-over slots that a partition's next data set needs (R211). -/
def carryNeed (s : State) (p : Nat) : Nat :=
  (carrySlots (s.wrv.carry.filter fun c => c.1 == p)).foldl (fun n x => max n (x.2.2.2 + 1)) 0

/-- The channel map in force. -/
def mapNow (s : State) : List Nat := (List.range 128).map (Cfgw.chanMap s)

/-- The entries that a placement needs: keep-out splits and carry-over slots. -/
def placeEntries (x : Placement) (s : State) : State :=
  let rev := reverseWrap x.wrap
  let s1 := each (fun (c : Nat × Nat) s => schedule Kind.split 0 (clockOf x.wrap c.2) rev 0 (schedule Kind.split 0 (clockOf x.wrap c.1) rev 1 s))
    (splitPoints x.cls x.start (spansOf s x.wrap) 0) s
  each (fun k s => schedule Kind.rewriteArea 1 (clockOf x.wrap (slotPos x.cls x.start k (spansOf s x.wrap) 0)) rev k s) (List.range x.carry) s1

/-- Begin a placement: its predecessors that are no longer needed leave the list. -/
def addPlacement (x : Placement) (s : State) : State :=
  let old := s.wrv.placements
  let keep := (old.zipIdx.filter fun (y, i) => !(y.complete || y.abandoned) || decide (old.length ≤ i + 3)).map Prod.fst
  placeEntries x (updWrv (fun w => { w with
    placements := keep ++ [x], slot := 0, slotLost := false, slotLoaded := false, resuming := false, bits := [] }) s)

/-- Whether an image can be placed. -/
def placeable (s : State) (i : Image) : Bool := decide (i.tries < Cfgw.dsCopyLimit s)

/-- The partition's next image. -/
def nextImage (s : State) (p : Nat) : Option Image := s.wrv.images.find? fun i => i.part == p

/-- An image is ready for the next position, or can be assembled in time (R221). -/
def moreToWrite (s : State) (p : Nat) : Bool :=
  !(partAt s p).writeStopped &&
    match nextImage s p with
    | some i => placeable s i
    | none => decide (userArea ≤ unformatted s p) || earlyClose s p || ((partAt s p).loftOpen && decide (30 ≤ (partAt s p).nextDs % 32))

/-- What follows the data set just begun: the window stays open, or closes at its end for want of data (argument 1) or at
the end of the wrap (argument 2). -/
def planEnd (p : Nat) (x : Placement) (s : State) : State :=
  let close := fun (a : Nat) (s : State) => schedule Kind.windowClose 0 (placementEnd s x) (reverseWrap x.wrap) a s
  if moreToWrite s p = false then close 1 s
  else
    match positionAt s p (partAt s p).nextPos with
    | none => close 1 s
    | some (w, _, _) => if w = x.wrap then s else post .bridle Src.fmt 0x0005 (x.wrap + 1) (close 2 s)

/-- The next image of a partition begins at its next position; none when there is no image or no position. -/
def placeNext (p : Nat) (s : State) : Option State :=
  match nextImage s p with
  | none => none
  | some img =>
    if (partAt s p).writeStopped ∨ placeable s img = false then none
    else
      match positionAt s p (partAt s p).nextPos with
      | none => none
      | some (w, a, len) =>
        let cs := carrySlots (s.wrv.carry.filter fun c => c.1 == p)
        let x : Placement := {
          img := { img with tries := img.tries + 1 }, wrap := w, start := a, cls := wrapClass s w, carry := carryNeed s p,
          chanMap := mapNow s, threshold := Cfgw.rewriteThreshold s,
          slots := cs.foldl (fun m (ds, row, chan, k) => AMap.set m (copyKey chan k) (ds, row)) [] }
        let s1 := updWrv (fun v => { v with images := dropFirst (fun i => i.part == p) v.images, carry := v.carry.filter fun c => c.1 != p }) s
        let s2 := updPart p (fun y => { y with
          nextPos := y.nextPos + 1, eodWrap := w, eodClock := clockOf w (a + len),
          eodDs := if img.copy = 0 then max y.eodDs (img.ds + 1) else y.eodDs }) s1
        some (planEnd p x (addPlacement x s2))

/-! ## Complete on tape, written again, write-stopped (R213 to R217, R257, R258) -/

/-- Add a Loft map entry in data set number order. -/
def addLoft (e : LoftEnt) (l : List LoftEnt) : List LoftEnt := sortBy LoftEnt.ds (l.filter (fun x => x.ds != e.ds) ++ [e])

/-- The segments that a data set brings: the partition start at the first descriptor of Record Number 0, and one for each truncating
descriptor (R165). Writing it again brings none twice. -/
def segsOf (i : Image) (segs : List Seg) : List Seg :=
  let off := i.descIdx.headD 0
  let first := if i.firstRec = 0 ∧ 0 < i.descCount ∧ i.truncOffs.contains off = false ∧ (segs.any fun g => !g.truncating) = false
    then [⟨0, i.ds, off, false⟩] else []
  first ++ ((i.truncOffs.zip i.truncRecs).filter fun t => !(segs.any fun g => g.ds == i.ds && g.off == t.1)).map fun (o, n) => ⟨n, i.ds, o, true⟩

/-- A relocation enters the list; of 65,536 it finds no room (R164, log entry 101). -/
def addReloc (r : Reloc) (l : List Reloc) : List Reloc := if 65536 ≤ l.length then l else l ++ [r]

/-- The directory entries of a data set complete on tape at a wrap and frame: its segments, the Loft map entry of the Loft that it
begins, and a relocation when it is a copy (R164, R165). -/
def enterAt (i : Image) (wrap frame : Nat) (d : Directory) : Directory :=
  let segs := if i.kind ≠ 1 then d.segs else d.segs ++ segsOf i d.segs
  { d with
    segs := sortBy (fun g => g.ds * 2 ^ 25 + g.off) segs
    lofts := if i.ds % 32 = 0 ∧ (i.copy = 0 ∨ (d.lofts.any fun l => l.ds == i.ds) = false) then addLoft ⟨i.ds, wrap, frame, i.firstRec⟩ d.lofts else d.lofts
    relocs := if i.copy = 0 then d.relocs else addReloc ⟨i.ds, wrap, frame, i.copy⟩ d.relocs }

/-- The directory entries of a placement complete on tape. -/
def enterDirectory (x : Placement) (d : Directory) : Directory := enterAt x.img x.wrap (frameOf (clockOf x.wrap x.start)) d

/-- The Shed's directory set of the loaded cartridge (R324). -/
def dirSetOf (s : State) : Option Nat :=
  (s.shd.dirs.zipIdx.find? fun d => d.1.serial == s.cart.serial && d.1.pass == s.cart.writePass).map Prod.snd

/-- The end of data of a partition: its Laid records, and where tape is written up to. -/
def eodOf (x : Part) : Eod := ⟨x.laidMark, x.eodDs, x.eodWrap, frameOf x.eodClock⟩

/-- Bytes 32 to 45 of a partition entry: an end-of-data entry of a DIR record (log entry 48). -/
def eodBytes (e : Eod) : Bytes := be 6 e.record ++ be 4 e.ds ++ be 1 e.wrap ++ be 3 e.frame

/-- A partition's directory has changed from `old`: each entry added is journaled as a DIR record, with the end of data
(R324, R327). -/
def saveDirectory (p : Nat) (old : Directory) (s : State) : State :=
  match dirSetOf s with
  | none => s
  | some k =>
    let d := (partAt s p).dir
    let e := eodOf (partAt s p)
    let recs := ((d.segs.filter fun x => !old.segs.contains x).map fun x => JRec.dir k p 1 (segBytes x))
      ++ ((d.lofts.filter fun x => !old.lofts.contains x).map fun x => JRec.dir k p 2 (loftBytes x))
      ++ ((d.relocs.drop old.relocs.length).map fun x => JRec.dir k p 3 (relocBytes x)) ++ [JRec.dir k p 4 (eodBytes e)]
    each journalRec recs (updShd (fun h => { h with
      dirs := h.dirs.modify k fun x => { x with dirs := AMap.set x.dirs p d, eods := AMap.set x.eods p e } }) s)

/-- The base image of the loaded cartridge's directory set is written, 300 units for each partition (R324). -/
def saveImages (s : State) : State :=
  match dirSetOf s with
  | none => s
  | some k =>
    pumpAll (each (fun p s => if partPresent s p then storeUnits 300 (0x6800000 + 1200 * k + 300 * p) (directoryBytes s p) s else s) [0, 1, 2, 3] s)

/-- A reallocated data set is complete: its entry leaves the weak list (R258). -/
def reallocated (p ds : Nat) (s : State) : State :=
  each releaseWeak (s.rch.weak.filter fun w => weakHere s w && w.part == p && w.ds == ds) (inc 0x0B012C s)

/-- A placement is complete on tape: its image is freed, the directory knows it, and its Loft may close. -/
def placementComplete (i : Nat) (s : State) : State :=
  match s.wrv.placements[i]? with
  | none => s
  | some x =>
    let p := x.img.part
    let s1 := each (giveBack 0x0C) x.img.stalls (updPlace i (fun y => { y with complete := true, img := { y.img with stalls := [] } }) s)
    if x.img.kind = 3 then s1
    else
      let s2 := updPart p (fun y => { y with dir := enterDirectory x y.dir,
                                             done := if mem? y.closed (x.img.ds / 32) then y.done else AMap.set y.done x.img.ds x.img.kind }) s1
      saveDirectory p (partAt s p).dir (closeLoft p (x.img.ds / 32) (if x.img.copy = 2 then reallocated p x.img.ds s2 else s2))

/-- A rewrite copy's Stall of the rewrite Stable is freed as its verdict passes (R218). -/
def freeRewrite (i row : Nat) (s : State) : State :=
  match (s.wrv.placements[i]?).bind fun x => AMap.get? x.stalls row with
  | some h => giveBack 0x14 h (updPlace i (fun x => { x with stalls := AMap.erase x.stalls row }) s)
  | none => s

/-- A row copy passes. -/
def rowPasses (i row : Nat) (s : State) : State :=
  let s1 := freeRewrite i row (updPlace i (fun x => { x with passed := AMap.set x.passed row () }) s)
  match s1.wrv.placements[i]? with
  | some x => if x.passed.length = 49152 ∧ x.complete = false then placementComplete i s1 else s1
  | none => s1

/-- A directory copy has failed: it is written over its own slot again, up to three times; then the clean flag stays 0 and
management is told (R216). -/
def directoryFails (x : Placement) (s : State) : State :=
  let b := x.img.ds == 0xFFFFFFFF
  if s.cart.dirTries < 3 then { s with cart := { s.cart with dirTries := s.cart.dirTries + 1 } }
  else
    postEvent Src.wrv 0x06 0x02 false (x.img.part % 4 + 4 * b2n b)
      { s with cart := { s.cart with dirTodo := s.cart.dirTodo.drop 1, dirTries := 0, dirFailed := true } }

/-- A placement is abandoned and its data set written again whole, encoded anew (R213, R214); a directory copy follows R216. -/
def writtenAgain (i : Nat) (s : State) : State :=
  match s.wrv.placements[i]? with
  | none => s
  | some x =>
    if x.complete ∨ x.abandoned then s
    else
      let s1 := each (giveBack 0x14) (x.stalls.map Prod.snd)
        (updPlace i (fun y => { y with abandoned := true, stalls := [], img := { y.img with stalls := [] } }) s)
      if x.img.kind = 3 then directoryFails x (each (giveBack 0x0C) x.img.stalls s1)
      else
        inc 0x06010C (inc 0x050100 (updWrv (fun w => { w with
          carry := w.carry.filter fun c => !(c.1 == x.img.part && c.2.1 == x.img.ds)
          images := { x.img with copy := if x.img.copy = 2 then 2 else 1 } :: w.images }) s1))

/-- What an early-close condition of R178 has pending beside a SYNC and an UNLOAD: a close asked for through MB_FMT, or the
positions before the hard reserve exhausted. -/
def closeWanted (s : State) (p : Nat) : Bool := (partAt s p).closeAsked || decide (positionsLeft s p = 0)

/-- A SYNC at Laid or Yard-safe, or an UNLOAD, waits for a partition's records. -/
def laidWanted (s : State) (p : Nat) : Bool :=
  unloadPending s || s.hq.cmds.any fun c => c.ring != 32 && c.e.opcode == 0x03 && c.st == .running && decide (2 ≤ bits c.e.flags 1 0)
    && c.covers.any fun (q, e) => q == p && decide ((partAt s p).laidMark < e)

/-- Carry-overs that no further data set will take: their data sets are written again (R213 case 4). -/
def settleCarry (p : Nat) (s : State) : State :=
  let x := partAt s p
  let more := (s.wrv.images.any fun i => i.part == p) || decide (0 < unformatted s p ∨ x.user ≠ []) || x.extra != []
    || (x.loftOpen && decide (30 ≤ x.nextDs % 32))
  if s.wrv.windowOpen ∨ more ∨ !(laidWanted s p || closeWanted s p) then s
  else each (fun (c : Nat × Nat × Nat × Nat) s => match ownPlace s p c.2.1 with | some i => writtenAgain i s | none => s)
    (s.wrv.carry.filter fun c => c.1 == p) s

/-- WRITE_STOPPED (R215): `ds_copy_limit` placements were made and none is complete. -/
def execWriteStopped (part ds : Nat) (s : State) : Out :=
  match s.wrv.images.find? fun i => i.part == part && i.ds == ds with
  | some i =>
    if placeable s i ∨ (partAt s part).writeStopped then go s
    else
      go (postEvent Src.wrv 0x06 0x01 true (ds % 2 ^ 32 + part % 4 * 2 ^ 32)
        (inc 0x06011C (updPart part (fun x => { x with writeStopped := true, stopDs := ds }) s)))
  | none => go s

/-! ## Verdicts (R209 to R212) -/

/-- Whether a copy whose trailing edge passed in slot `edge`, written by a channel, takes a slot from another that claims it: the
earlier edge, then the lower channel (R210). -/
def claimYields (edge chan : Nat) (held : Nat × Nat) : Bool := decide (edge < held.1) || (edge == held.1 && decide (chan < held.2))

/-- The earliest reserve slot of a channel from a slot on that is free, or that a later copy claims. -/
def reserveSlot (x : Placement) (target earliest edge chan : Nat) : Option Nat :=
  ((List.range 396).drop (max earliest (384 + x.carry))).find? fun k =>
    (AMap.get? x.slots (copyKey target k)).isNone || (AMap.get? x.claims (copyKey target k)).any (claimYields edge chan)

/-- The first row slot of the placement being written whose start reaches the write element at least 2 µs from now; 396 when none
does, or when writing has gone on from the placement (R210). -/
def earliestSlot (s : State) (phys : Nat) : Nat :=
  match inProgress s, s.wrv.placements[phys]? with
  | some _, some y =>
    if phys + 1 ≠ s.wrv.placements.length then 396
    else
      let d := distOf y.wrap s.srv.clock + ceilDiv (2000 * unitNm * s.srv.speed.natAbs) 65536
      ((List.range 396).find? fun k => decide (d ≤ slotPos y.cls y.start k (spansOf s y.wrap) 0)).getD 396
  | _, _ => 396

/-- A rewrite copy of a row takes a Stall of the rewrite Stable, one that the row does not hold yet (R218, log entry 102). -/
def holdRewrite (own row : Nat) (s : State) : State :=
  if (s.wrv.placements[own]?).any fun x => (AMap.get? x.stalls row).isSome then s
  else
    match acquireOne 0x14 3 s with
    | (some h, s1) => updPlace own (fun x => { x with stalls := AMap.set x.stalls row h }) s1
    | (none, s1) => s1

/-- A rewrite of a row of placement `own` is placed: in the earliest reserve slot of its target channel in placement `phys`, a
later copy that claimed the slot moving on; without one it is a carry-over, or the data set is written again (R210, R211,
R213). -/
def placeCopy : Nat → Nat → Nat → Nat → Nat → Nat → Nat → Nat → State → State
  | 0, _, _, _, _, _, _, _, s => s
  | f + 1, own, phys, row, target, edge, chan, earliest, s =>
    match s.wrv.placements[own]?, s.wrv.placements[phys]? with
    | some x, some y =>
      match reserveSlot y target earliest edge chan with
      | some k =>
        let key := copyKey target k
        let s1 := updPlace phys (fun y => { y with slots := AMap.set y.slots key (x.img.ds, row), claims := AMap.set y.claims key (edge, chan) }) s
        match AMap.get? y.slots key with
        | none =>
          let fresh := y.slots.all fun e => e.1 % 396 != k
          let s2 := inc 0x060104 s1
          if fresh then schedule Kind.rewriteArea 1 (clockOf y.wrap (slotPos y.cls y.start k (spansOf s y.wrap) 0)) (reverseWrap y.wrap) k s2 else s2
        | some (ds, r) =>
          let held := AMap.getD y.claims key (0, 0)
          match ownPlace s1 y.img.part ds with
          | some o => placeCopy f o phys r target held.1 held.2 (k + 1) s1
          | none => s1
      | none =>
        let used := (s.wrv.carry.filter fun c => c.1 == x.img.part && c.2.2.2 == target).length
        if x.img.kind = 3 ∨ Cfgw.carryLimit s ≤ used then writtenAgain own s
        else inc 0x060108 (updWrv (fun w => { w with carry := w.carry ++ [(x.img.part, x.img.ds, row, target)] }) s)
    | _, _ => s

/-- A failed copy of a row of placement `own`, which lay in slot `edge` of placement `phys` on a channel: it is rewritten from slot
`earliest` on, unless a copy has passed; the third copy's failure writes the data set again. -/
def copyFails (own phys row chan edge earliest : Nat) (s : State) : State :=
  match s.wrv.placements[own]? with
  | some x =>
    let n := AMap.getD x.copies row 0
    if x.abandoned ∨ mem? x.passed row then s
    else if 2 ≤ n then writtenAgain own s
    else
      placeCopy 13 own phys row (rewriteChannel (isRetired s) chan) edge chan earliest
        (holdRewrite own row (updPlace own (fun x => { x with copies := AMap.set x.copies row (n + 1) }) s))
  | none => s

/-- The placement in which a judged copy lies. -/
def physPlace (s : State) (own : Nat) (o : VerdictObs) : Option Nat :=
  let row := rowNo o.sds o.row
  let first := (s.wrv.placements[own]?).any fun x => firstRow x o.chan o.slot == some row
  if first then some own
  else lastIdx (fun (x : Placement) => x.img.part == o.part && AMap.get? x.slots (copyKey o.chan o.slot) == some (o.ds, row)) s.wrv.placements

/-- The verdict is pass (R209); on a failed receive link every verdict fails (R228). -/
def verdictPass (s : State) (threshold : Nat) (o : VerdictObs) : Bool :=
  let ok := fun (c : Option (Nat × Nat)) => c.any fun (e, f) => decide (e + f ≤ threshold)
  (rxAt s (linkOf o.chan)).up && o.syncFound && o.crcOk && o.headerEq && ok o.cw0 && ok o.cw1

/-- VERIFY_VERDICT (R209, R210). -/
def execVerifyVerdict (o : VerdictObs) (s : State) : Out :=
  match ownPlace s o.part o.ds with
  | none => go s
  | some own =>
    match physPlace s own o with
    | none => go s
    | some phys =>
      match s.wrv.placements[phys]? with
      | none => go s
      | some y =>
        if 256 ≤ o.sds ∨ 192 ≤ o.row ∨ 132 ≤ o.chan ∨ 396 ≤ o.slot ∨ mem? y.judged (copyKey o.chan o.slot) then go s
        else
          let s1 := updPlace phys (fun y => { y with judged := AMap.set y.judged (copyKey o.chan o.slot) () }) s
          if verdictPass s y.threshold o then go (rowPasses own (rowNo o.sds o.row) s1)
          else
            let s2 := inc (0x061400 + 4 * o.chan) (updWrv (fun w => { w with fails := modAt w.fails o.chan 0 (· + 1) }) s1)
            go (copyFails own phys (rowNo o.sds o.row) o.chan o.slot (earliestSlot s2 phys) s2)

/-! ## Lane frames (R200 to R204, R208) -/

/-- The channel bits of the row slot in progress on a channel that has none loaded: its row, or keep-out fill. Rewrites
and carry-overs are loaded by their REWRITE_AREA entry. -/
def slotBits (s : State) (x : Placement) (chan : Nat) : List Bool :=
  slotStream s x s.wrv.slot (match firstRow x chan s.wrv.slot with
    | some row => rowBits s x x row 0 chan s.wrv.slot
    | none => fillBits 0 4128)

/-- Load every channel of the row slot in progress. -/
def loadSlot (s : State) : State :=
  match inProgress s with
  | none => s
  | some x =>
    if s.wrv.slotLoaded ∨ 396 ≤ s.wrv.slot then s
    else
      updWrv (fun w => { w with
        slotLoaded := true
        left := slotLen s x w.slot
        bits := (List.range 132).foldl (fun m p => if isRetired s p || (AMap.get? m p).isSome then m else AMap.set m p (slotBits s x p)) w.bits }) s

/-- REWRITE_AREA (R210, R211): the rewrites or carry-overs of the slot that begins are loaded. -/
def rewriteAreaFires (e : SchedEnt) (s : State) : State :=
  match inProgress s with
  | none => s
  | some x =>
    let here := x.slots.filter fun c => c.1 % 396 == e.arg
    each (fun (c : Nat × (Nat × Nat)) s =>
      match (ownPlace s x.img.part c.2.1).bind fun i => s.wrv.placements[i]? with
      | none => s
      | some own =>
        let b := rowBits s own x c.2.2 (if e.arg < x.carry then 2 else 1) (c.1 / 396) e.arg
        updWrv (fun w => { w with bits := AMap.set w.bits (c.1 / 396) (slotStream s x e.arg b) }) s) here s

/-- REWRITE_AREA (R210). -/
def execRewriteArea (idx : Nat) (s : State) : Out := go (fire Kind.rewriteArea idx rewriteAreaFires s)

/-- SPLIT (R153): the channels are over a span from a split point (argument [0] set) to the span's end. The row slot's bits hold the
split at its codeword boundary already. -/
def splitFires (e : SchedEnt) (s : State) : State :=
  if e.owner ≠ 0 then s else updWrv (fun w => { w with inSpan := bit e.arg 0, fillPhase := 0 }) s

/-- SPLIT (R153). -/
def execSplit (idx : Nat) (s : State) : Out := go (fire Kind.split idx splitFires s)

/-- bit_period in units of 2^-16 ns: the channel bit over the measured speed; its rounding is not given (log entry 3). -/
def bitPeriod (s : State) (cls : Nat) : Nat := (roundTo (bitU cls * 2 ^ 32) (unitNm * s.srv.speed.natAbs)).toNat % 2 ^ 32

/-- The channel bits of a channel in a frame of n bits: of its row slot; over the separator, fill where a span lies. -/
def frameBits (s : State) (n p : Nat) : List Bool :=
  if s.wrv.inSpan ∧ 396 ≤ s.wrv.slot then fillBits s.wrv.fillPhase n
  else
    let q := (AMap.getD s.wrv.bits p []).take n
    q ++ List.replicate (n - q.length) false

/-- Whether a channel is sent with `gate` set: a retired one never is (R204). -/
def gatedChan (s : State) (p : Nat) : Bool := gateOpen s && !isRetired s p

/-- The data block of a channel in a frame of n channel bits. -/
def channelBlock (s : State) (n p : Nat) : Bool × Nat :=
  dataBlock n (gatedChan s p) (if isRetired s p then List.replicate n false else frameBits s n p)

/-- Rows of the slot that ends are lost: handled as failed verdicts now; a lost reserve slot is no longer free (R208). -/
def loseSlot (s : State) : State :=
  match lastIdx (fun (_ : Placement) => true) s.wrv.placements with
  | none => s
  | some i =>
    match s.wrv.placements[i]? with
    | none => s
    | some x =>
      let k := s.wrv.slot
      each (fun p s =>
        if isRetired s p then s
        else
          let row := firstRow x p k
          let re := AMap.get? x.slots (copyKey p k)
          let s0 := updPlace i (fun y => { y with judged := AMap.set y.judged (copyKey p k) () }) s
          match row, re with
          | some r, _ => copyFails i i r p k (k + 2) (inc 0x060110 s0)
          | none, some (ds, r) =>
            match ownPlace s0 x.img.part ds with
            | some own => copyFails own i r p k (k + 2) (inc 0x060110 s0)
            | none => s0
          | none, none => if 384 + x.carry ≤ k then updPlace i (fun y => { y with slots := AMap.set y.slots (copyKey p k) (0, 49152) }) s0 else s0)
        (List.range 132) s

/-- A row slot ends: its copies are counted or lost, and writing that waits to resume does so. -/
def endSlot (s : State) : State :=
  if 396 ≤ s.wrv.slot then s
  else
    let x := inProgress s
    let rows := match x with
      | some x => ((List.range 132).filter fun p => !isRetired s p && ((firstRow x p s.wrv.slot).isSome || (AMap.get? x.slots (copyKey p s.wrv.slot)).isSome)).length
      | none => 0
    let lost := s.wrv.slotLost || !gateOpen s
    let s1 := if lost then loseSlot s
      else
        let n := s.wrv.rowCopies + rows
        updWrv (fun w => { w with rowCopies := n % 1024 }) (addCtr 0x060100 (n / 1024) s)
    updWrv (fun w => { w with slot := w.slot + 1, slotLoaded := false, left := 0, bits := [], resuming := false, slotLost := false }) s1

/-- A lane frame's 175.3125 ns in units of 2^-16 ns (R200). -/
def frameTime : Nat := 11489280

/-- Units of 2^-16 ns in a cycle of the 320 MHz device clock, and in 1/256 of it (R201). -/
def deviceCycle : Nat := 204800
def launchStep : Nat := 800

/-- Channel bits in the next frame: as many whole bit periods as its time and what was left over hold, at most 56, and no more than
the row slot has left (R200, log entry 103). -/
def frameCount (s : State) (period : Nat) : Nat :=
  let n := min 56 ((s.wrv.acc + frameTime) / period)
  if s.wrv.slot < 396 then min n s.wrv.left else n

/-- The magnetisation that a frame leaves under each gated element: channel bits are written NRZI (R189). -/
def fluxAfter (s : State) (n : Nat) : AMap Bool :=
  (List.range 132).foldl (fun m p =>
    if gatedChan s p then AMap.set m p ((fluxOf (AMap.getD m p false) (frameBits s n p)).getLast?.getD (AMap.getD m p false)) else m) s.wrv.flux

/-- A frame leaves on the four lanes: its FRAME block and 33 data blocks of n channel bits, the first launched at `t`. -/
def sendFrame (period t n : Nat) (s : State) : State :=
  let frame := control 0x1E (period * 2 ^ 24 + t / deviceCycle % 2 ^ 16 * 2 ^ 8 + t % deviceCycle / launchStep)
  let s1 := each (fun k v =>
    updLane k (fun l => { l with gated := ((linkChannels k).filter (gatedChan s)).length })
      (sendBlocks k (frame :: (linkChannels k).map (channelBlock s n)) v)) [0, 1, 2, 3] s
  updWrv (fun w => { w with
    flux := fluxAfter s n
    acc := w.acc + frameTime - n * period
    launchAt := (t + n * period) % (deviceCycle * 65536)
    fillPhase := if w.inSpan then (w.fillPhase + n) % 8 else w.fillPhase
    left := w.left - n
    bits := w.bits.map fun (p, b) => (p, b.drop n) }) s1

/-- LANE_FRAME (R200 to R202): a FRAME block and 33 data blocks on each lane. A frame that begins a row slot is launched within 0.5 µm
of the slot's scheduled place; each later one a whole number of bit periods after the one before. The slot ends with its last
channel bit. -/
def execLaneFrame (o : LaneObs) (s : State) : Out :=
  match inProgress s with
  | none => go s
  | some x =>
    let period := bitPeriod s x.cls
    let begins := !s.wrv.slotLoaded && decide (s.wrv.slot < 396)
    if domOn s 15 = false ∨ period = 0 ∨ (begins = true ∧ 500 < o.off.natAbs) then go s
    else
      let s1 := loadSlot s
      let s2 := sendFrame period (if begins then o.launch % 2 ^ 16 * deviceCycle + o.fraction % 256 * launchStep else s.wrv.launchAt) (frameCount s1 period) s1
      go (if s2.wrv.slot < 396 ∧ s2.wrv.left = 0 then endSlot s2 else s2)

/-! ## Speed matching (R219) -/

/-- The set-point that R219 gives, in 1/64 m/s, from the stored bytes taken over the last 16 data set pitches and their duration. -/
def speedPoint (s : State) : Nat :=
  let t := Cfgw.tFill s
  let taken : Nat := (s.wrv.pitches.map Prod.fst).foldl (· + ·) 0
  let dur : Nat := max 1 ((s.wrv.pitches.map Prod.snd).foldl (· + ·) 0)
  let back : Int := (unformatted s s.wrv.windowPart : Int) - Cfgw.bTarget s * 1048576
  let num : Int := 64 * ((taken : Int) * 10 ^ 9 * t + back * 100 * dur) * (pitchU (wrapClass s s.srv.wrap) : Int) * 32
  let den : Nat := dur * t * userArea * 30 * 10 ^ 9 * unitNm
  let v := divFloor num den
  min (clamp (Cfgw.vMin s) (max (readSpeed s : Int) (Cfgw.vMin s)) v).toNat (readSpeed s)

/-- A data set boundary: what the partition has taken since the last one joins the last 16 pitches. -/
def notePitch (dur : Nat) (s : State) : State :=
  let now := (partAt s s.wrv.windowPart).takenBytes
  updWrv (fun w =>
    let l := w.pitches ++ [(now - w.takenAt, dur)]
    { w with pitches := l.drop (l.length - 16), takenAt := now }) s

/-- Post a set-point that moves by 1/16 m/s or stands at a limit. -/
def postSpeed (v : Nat) (s : State) : State :=
  if 4 ≤ clockDist v s.wrv.setPoint ∨ v = Cfgw.vMin s ∨ v = readSpeed s then
    updWrv (fun w => { w with setPoint := v }) (post .bridle Src.wrv 0x0001 v s)
  else s

/-! ## Write windows (R221, R222) -/

/-- Everything is gated off on the lanes. -/
def sendIdle (s : State) : State := each (fun k s => updLane k (fun l => { l with gated := 0 }) (sendBlocks k [control 0x33 0] s)) [0, 1, 2, 3] s

/-- A class takes over on a wrap from a place on, in the sequencer and in the read channels (R149, R276). -/
def scheduleDensity (cls wrap c : Nat) (s : State) : State :=
  schedule Kind.density 0 c (reverseWrap wrap) (densityArg cls wrap) (schedule Kind.density 2 c (reverseWrap wrap) (densityArg cls wrap) s)

/-- Schedule a partition's next write window: its density and its opening, at the next data set position. -/
def scheduleOpen (p : Nat) (s : State) : State :=
  match positionAt s p (partAt s p).nextPos with
  | none => noPosition p s
  | some (w, a, _) => schedule Kind.windowOpen 0 (clockOf w a) (reverseWrap w) p (scheduleDensity (wrapClass s w) w (clockOf w a) s)

/-- Where a wrap's data region ends in its direction of travel (R287). -/
def regionEnd (w : Nat) : Nat := (if reverseWrap w then 100000 else 11900000) * 256

/-- After the end of wrap w, whose turnaround leads to wrap w + 1: the partition's next window is scheduled where it lies on that
wrap; a wrap without positions is traversed without writing, and followed to its end (R152). -/
def afterWrap (p w : Nat) (s : State) : State :=
  match positionAt s p (partAt s p).nextPos with
  | some (w', _, _) =>
    if w' ≤ w + 1 then scheduleOpen p s
    else schedule Kind.windowClose 0 (regionEnd (w + 1)) (reverseWrap (w + 1)) (4 + 256 * (w + 1) + 65536 * p) s
  | none => noPosition p s

/-- The end of a wrap traversed without writing (R152). -/
def traversed (e : SchedEnt) (s : State) : State :=
  let w := bits e.arg 15 8
  afterWrap (bits e.arg 17 16) w (post .bridle Src.fmt 0x0005 (w + 1) s)

/-- A traverse is under way. -/
def traversing (s : State) : Bool := s.srv.sched.any fun e => e.2.kind == Kind.windowClose && e.2.owner == 0 && bits e.2.arg 3 0 == 4

/-- Schedule the writing of a directory copy in its slot, at class D (R161, R183). -/
def scheduleDirectory (p : Nat) (b : Bool) (s : State) : State :=
  let w := (partAt s p).firstWrap
  match nthPos 3 (spansOf s w) (b2n b) 0 with
  | some (a, _) => schedule Kind.windowOpen 0 (clockOf w a) (reverseWrap w) (p + 256 + 512 * b2n b) (scheduleDensity 3 w (clockOf w a) s)
  | none => s

/-- The window ends with a placement whose last slots are not written: rows of other data sets that waited in them are carried over
to a later data set (R211, R212). -/
def requeueCarry (x : Placement) (slot : Nat) (s : State) : State :=
  let left := x.slots.filter fun c => decide (slot ≤ c.1 % 396 ∧ c.2.2 < 49152) && c.2.1 != x.img.ds
  updWrv (fun w => { w with carry := w.carry ++ left.map fun c => (x.img.part, c.2.1, c.2.2, c.1 / 396) }) s

/-- The window ends: a data set that is not written to its last slot is written again (R213 case 3); `why` is 1 for want of
data, 2 at the end of a wrap. -/
def endWindow (why : Nat) (s : State) : State :=
  let cut := decide (s.wrv.slot < 396)
  let last := lastIdx (fun (_ : Placement) => true) s.wrv.placements
  let p := s.wrv.windowPart
  let s1 := sendIdle (updWrv (fun w => { w with windowOpen := false, inSpan := false, resuming := false, slotLost := false, left := 0, bits := [],
                                                slotLoaded := false }) s)
  let s2 := if cut then
      (match last.bind fun i => (s.wrv.placements[i]?).map fun x => (i, x) with
       | some (i, x) => writtenAgain i (requeueCarry x s.wrv.slot s1)
       | none => s1)
    else s1
  let s3 := if why = 1 then updWrv (fun w => { w with parked := true }) (post .bridle Src.fmt 0x0002 0 s2)
    else if why = 2 then
      -- each wrap turnaround while writing brings the end of data in cartridge memory up to date (R166)
      afterWrap p s2.srv.wrap (saveImages (writeControl s2.cart.clean s2))
    else s2
  releaseHeld (updWrv (fun w => { w with begun := w.begun && (nextImage s3 p).isSome }) s3)

/-- WINDOW_CLOSE (R221). -/
def execWindowClose (idx : Nat) (s : State) : Out :=
  go (fire Kind.windowClose idx (fun e s =>
    if bits e.arg 3 0 = 4 then traversed e s else if s.wrv.windowOpen then endWindow (bits e.arg 3 0) s else releaseHeld s) s)

/-- Listed data sets are posted for reallocation, oldest first, up to a limit (R257). -/
def postWeak (p limit : Nat) (s : State) : State :=
  if (partAt s p).writeStopped ∨ positionsLeft s p = 0 then s
  else
    let ws := (s.rch.weak.filter fun w => weakHere s w && w.part == p && w.posted
      && !((partAt s p).extra ++ s.wrv.images).any fun i => i.part == p && i.ds == w.ds && i.copy == 2).take limit
    each (fun (w : Weak) s => post .fmt Src.dec 0x0003 (w.ds % 2 ^ 32 + p * 2 ^ 32) s) ws s

/-- A directory copy begins in its slot (R161, R183). -/
def placeDirectory (p : Nat) (copyB : Bool) (s : State) : State :=
  let w := (partAt s p).firstWrap
  match nthPos 3 (spansOf s w) (b2n copyB) 0 with
  | none => s
  | some (a, _) =>
    let s0 := updPart p (fun x => { x with dir := { x.dir with seq := x.dir.seq + 1 } }) s
    let body := directoryBytes s0 p
    let img : Image := {
      part := p, ds := if copyB then 0xFFFFFFFF else 0xFFFFFFFE, kind := 3, loftIdx := 0xFF, user := fit body userArea,
      used := body.length, padded := false, firstUnit := 0xFFFFFFFF, firstRec := 0, descCount := 0, descIdx := [], truncOffs := [] }
    let x : Placement := {
      img := img, wrap := w, start := a, cls := 3, carry := 0, chanMap := (List.range 132).filter (fun c => !isRetired s c) |>.take 128,
      threshold := Cfgw.rewriteThreshold s }
    let s1 := addPlacement x (inc 0x050100 s0)
    schedule Kind.windowClose 0 (placementEnd s1 x) (reverseWrap w) 3 s1

/-- WINDOW_OPEN (R221): argument [1:0] partition, [8] a directory copy, [9] copy B. No window opens while a read needs the
tape (R253). -/
def windowOpenFires (e : SchedEnt) (s : State) : State :=
  let p := bits e.arg 1 0
  if s.wrv.windowOpen ∨ loaded s = false ∨ s.rch.ladder.isSome ∨ s.brd.stop.isSome then s
  else
    let same := s.wrv.windowPart == p
    let open_ := updWrv fun w => { w with
      windowOpen := true, windowPart := p, parked := false, slot := 396, begun := w.begun || !bit e.arg 8
      pitches := if same then w.pitches else [], takenAt := if same then w.takenAt else (partAt s p).takenBytes }
    let s0 := updRch (fun r => { r with readAhead := false }) s
    if bit e.arg 8 then placeDirectory p (bit e.arg 9) (open_ s0)
    else
      let s1 := if s0.cart.clean then writeControl false s0 else s0
      let s2 := postWeak p (reallocWindow s1) s1
      match placeNext p (open_ s2) with
      | some s3 => s3
      | none => updWrv (fun w => { w with parked := true }) s2

/-- WINDOW_OPEN (R221). -/
def execWindowOpen (idx : Nat) (s : State) : Out := go (fire Kind.windowOpen idx windowOpenFires s)

/-- The write window has reached the end of its data set's separator. -/
def atBoundary (s : State) : Bool :=
  match inProgress s with
  | none => false
  | some x => s.srv.valid && reached s (placementEnd s x) s.srv.reverse

/-- The window closes at the place reached. -/
def closesHere (s : State) : Bool := s.srv.sched.any fun e => e.2.kind == Kind.windowClose && e.2.owner == 0 && dueEntry s e.2

/-- A data set boundary (R219, R221): the speed matcher computes a set-point, and the next data set begins unless the window closes
here. -/
def boundary (durationNs : Nat) (s : State) : State :=
  if atBoundary s = false ∨ durationNs = 0 ∨ Cfgw.tFill s = 0 then s
  else
    let s0 := notePitch durationNs s
    let s1 := updWrv (fun w => { w with failDs := w.failDs + 1 }) (postSpeed (speedPoint s0) s0)
    if closesHere s1 then s1
    else
      match placeNext s1.wrv.windowPart s1 with
      | some s2 => s2
      | none => endWindow 1 s1

/-- DATA_SET_BOUNDARY (R219, R221). -/
def execDataSetBoundary (durationNs : Nat) (s : State) : Out := go (sameCycle .bridle (boundary durationNs) s)

/-- Why the window of a partition is to be opened: after a window closed for want of data, the three conditions of R222. Where no
window has opened yet, or one closed because something else needed the tape, also an image that waits, or parity that is due
(log entry 100). -/
def restartDue (s : State) (p : Nat) : Bool :=
  decide (Cfgw.bRestart s * 1048576 ≤ unformatted s p) || earlyClose s p || unloadPending s
    || (!s.wrv.parked && ((nextImage s p).any (fun i => placeable s i) || ((partAt s p).loftOpen && decide (30 ≤ (partAt s p).nextDs % 32))))

/-- Some command or read recovery holds the tape. -/
def tapeHeld (s : State) : Bool :=
  s.wrv.windowOpen || s.rch.ladder.isSome || s.rch.seek.isSome || s.brd.stop.isSome
    || s.hq.cmds.any fun c => c.ring != 32 && c.st == .running && [0x04, 0x07, 0x09].contains c.e.opcode

/-- BACKLOG_RESTART (R222): the device repositions before the partition's next position at the restart speed. -/
def execBacklogRestart (part : Nat) (s0 : State) : Out :=
  let s := settleCarry part s0
  let x := partAt s part
  if 4 ≤ part ∨ serving s = false ∨ x.wraps = 0 ∨ x.writeStopped ∨ tapeHeld s ∨ restartDue s part = false
      ∨ (s.brd.repos.isSome ∨ traversing s = true ∨ s.srv.sched.any fun e => e.2.kind == Kind.windowOpen) then go s
  else
    match positionAt s part x.nextPos with
    | none => go (noPosition part s)
    | some (w, a, _) =>
      let s0 := updWrv (fun y => { y with windowPart := part, begun := y.begun || y.parked }) (if s.wrv.parked then inc 0x060118 s else s)
      let v := max (min (speedPoint s0) (readSpeed s)) (min (Cfgw.vMin s) (readSpeed s))
      let s2 := updWrv (fun y => { y with setPoint := v }) s0
      go (post .bridle Src.fmt 0x0003 (reposArg (clockOf w a) (reverseWrap w) v 0) (post .bridle Src.fmt 0x0005 w s2))

/-! ## SETTLED (R289) and the read windows it leads to (R238) -/

/-- The data set positions of a wrap, as Tape Clock values. -/
def startsOf (s : State) (w : Nat) : List Nat :=
  let first := (List.range 4).any fun p => (partAt s p).firstWrap == w && decide (0 < (partAt s p).wraps)
  (List.range (wrapPositions s w)).filterMap fun i =>
    (nthPos (wrapClass s w) (spansOf s w) i (wrapBegin (spansOf s w) first)).map fun (a, _) => clockOf w a

/-- The first data set position of the current wrap that lies ahead. -/
def nextStart (s : State) : Option Nat := (startsOf s s.srv.wrap).find? fun c => ahead s c

/-- The tape is being read. -/
def readingTape (s : State) : Bool := s.rch.seek.isSome || s.rch.ladder.isSome || s.rch.readAhead
  || s.hq.cmds.any fun c => c.ring != 32 && c.st == .running && [0x04, 0x07].contains c.e.opcode

/-- The next data set start is watched for: on this wrap, or after its last one on the wrap that the turnaround leads to, where the
class and taps of that wrap take over at its first data set (R149, R235). -/
def watchNext (s : State) : State :=
  match nextStart s with
  | some c => schedule Kind.readWindow 2 c s.srv.reverse 1 s
  | none =>
    let w := s.brd.nextWrap
    match startsOf s w with
    | c :: _ =>
      if w = s.srv.wrap then s
      else schedule Kind.readWindow 2 c (reverseWrap w) 1 (schedule Kind.density 2 c (reverseWrap w) (densityArg (wrapClass s w) w) s)
    | [] => s

/-- Reading begins on a wrap: the class and the wrap take over in the read channels where the tape stands (R149, R235). A LOAD
reads the directory slots first, at class D. -/
def watchFrom (s : State) : State :=
  let w := s.srv.wrap
  let at_ := fun c cls s => schedule Kind.density 2 c s.srv.reverse (densityArg cls w) s
  let now := at_ s.srv.clock (wrapClass s w) s
  watchNext (if s.hq.cmds.any fun c => c.st == .running && c.e.opcode == 0x07 then
      (match nextStart s with
       | some c => at_ c (wrapClass s w) (at_ s.srv.clock 3 s)
       | none => at_ s.srv.clock 3 s)
    else now)

/-- READ_WINDOW (R238): at a predicted data set start a free decoder takes the data set, and the next start is watched for
while the tape is read. -/
def readWindowFires (e : SchedEnt) (s : State) : State :=
  if bit e.arg 0 then
    let s1 := match (List.range 4).find? fun d => !mem? s.rch.busy d with
      | some d => updRch (fun r => { r with busy := AMap.set r.busy d () }) s
      | none => s
    if readingTape s1 then watchNext s1 else s1
  else s

/-- READ_WINDOW (R238). -/
def execReadWindow (idx : Nat) (s : State) : Out := go (fire Kind.readWindow idx readWindowFires s)

/-- SETTLED (R289): the formatter schedules the window it repositioned for; read recovery begins to read. -/
def settledFires (e : SchedEnt) (s : State) : State :=
  if e.recipient = 2 then watchFrom (cancelKind Kind.readWindow 2 s)
  else
    match s.cart.dirTodo with
    | (p, b) :: _ => scheduleDirectory p b s
    | [] => scheduleOpen s.wrv.windowPart s

/-- SETTLED (R289). -/
def execSettled (idx : Nat) (s : State) : Out := go (fire Kind.settled idx settledFires s)

/-- CONTROLLED_STOP_BEGUN (R197): the data set in progress is finished when its window remains to its end; otherwise the
window ends at the stop's Tape Clock and the data set is held to be written again (R213 case 3). -/
def execControlledStopBegun (src arg : Nat) (s : State) : Out :=
  let act := fun (s : State) =>
    match inProgress s with
    | none => s
    | some x =>
      let c := bits arg 39 0
      if clockDist (placementEnd s x) s.srv.clock ≤ clockDist c s.srv.clock then s
      else if s.srv.sched.any fun e => e.2.kind == Kind.windowClose && e.2.owner == 0 && e.2.pos == c then s
      else schedule Kind.windowClose 0 c s.srv.reverse 0 (cancelKind Kind.windowClose 0 s)
  go (boxTake .fmt src 0x8001 arg act s)

end Sys2Proof.Machine
end

