-- ==== Sys2Proof/Machine/Fab.lean ====
section
/-!
DEFINITION. The Stotodric Fabric (13): ports and lanes, flits, credits and replay, messages, Node IDs, link-state routing.
-/

namespace Sys2Proof.Machine

def updFab (f : Fab → Fab) (s : State) : State := { s with fab := f s.fab }

def portAt (s : State) (p : Nat) : FabPort := AMap.getD s.fab.ports p {}

def updPort (p : Nat) (f : FabPort → FabPort) (s : State) : State := updFab (fun b => { b with ports := modAt b.ports p {} f }) s

def nodeId (s : State) : Nat := Cfgw.nodeId s

/-- Counter register of a port's window. -/
def fabCtr (p off : Nat) : Nat := 0x100100 + 0x40 * p + off

/-! ## Flits (R384) -/

/-- The fields of a flit. -/
structure Flit where
  type : Nat
  vc : Nat := 0
  first : Bool := false
  last : Bool := false
  seq : Nat := 0
  ack : Nat := 0
  credits : List Nat := [0, 0, 0, 0]
  dest : Nat := 0
  src : Nat := 0
  tag : Nat := 0
  hops : Nat := 0
  index : Nat := 0
  payload : Bytes := []
  deriving DecidableEq, Repr

def Flit.body (f : Flit) : Bytes :=
  be 1 (f.type % 16 * 16 + f.vc % 4 * 4 + b2n f.first * 2 + b2n f.last) ++ be 1 f.payload.length ++ be 3 (f.seq % 4096 * 4096 + f.ack % 4096)
    ++ f.credits.flatMap (be 1) ++ be 2 f.dest ++ be 2 f.src ++ be 1 f.tag ++ be 2 (f.hops % 32 * 2048 + f.index % 1024)
    ++ fit f.payload 236

/-- The 256 bytes of a flit. -/
def Flit.bytes (f : Flit) : Bytes := f.body ++ be 4 (crc32 f.body)

/-- The fields of a flit's bytes. -/
def Flit.read (b : Bytes) : Flit :=
  let h := beAt b 0 1
  let sa := beAt b 2 3
  let hi := beAt b 14 2
  { type := h / 16, vc := bits h 3 2, first := bit h 1, last := bit h 0, seq := bits sa 23 12, ack := bits sa 11 0,
    credits := [beAt b 5 1, beAt b 6 1, beAt b 7 1, beAt b 8 1], dest := beAt b 9 2, src := beAt b 11 2, tag := beAt b 13 1,
    hops := bits hi 15 11, index := bits hi 9 0, payload := slice b 16 (min (beAt b 1 1) 236) }

/-- A flit whose CRC holds. -/
def flitIntact (b : Bytes) : Bool := b.length == 256 && beAt b 252 4 == crc32 (b.take 252)

/-- Sequenced types: DATA and LSA (R385). -/
def sequenced (type : Nat) : Bool := type == 1 || type == 4

/-! ## Sending (R386, R388, R389) -/

/-- Credits held at the start of UP (R386). -/
def fullCredits : List Nat := [32, 128, 640, 224]

def addAt (l : List Nat) (i n : Nat) : List Nat := l.modify i (· + n)

/-- A credit of a virtual channel is owed to the neighbour of a port; flits of this node itself owe none. -/
def owe (p vc : Nat) (s : State) : State := if p < 4 then updPort p (fun x => { x with owed := addAt x.owed vc 1 }) s else s

/-- The ack and credits fields of a flit about to leave, and the port with those credits returned. -/
def withLink (x : FabPort) (f : Flit) : Flit × FabPort :=
  ({ f with ack := x.rxSeq, credits := x.owed.map (min 255) }, { x with owed := x.owed.map fun n => n - min 255 n })

/-- An unsequenced flit leaves at once. -/
def sendPlain (p : Nat) (f : Flit) (s : State) : State :=
  let r := withLink (portAt s p) f
  updPort p (fun _ => { r.2 with sent := r.2.sent ++ [r.1.bytes] }) s

/-- The input whose flit a virtual channel takes next: the one whose message goes on, or the next in rotation. -/
def nextInput (x : FabPort) (vc : Nat) : Option Nat :=
  let has := fun i => x.queue.any fun q => q.vc == vc && q.input == i
  match AMap.getD x.turns vc (4, false) with
  | (i, true) => if has i then some i else none
  | (i, false) => ((List.range 5).map fun k => (i + 1 + k) % 5).find? has

/-- A virtual channel has a credit and a flit. -/
def vcReady (x : FabPort) (vc : Nat) : Bool := decide (0 < x.credits.getD vc 0) && (nextInput x vc).isSome

/-- The virtual channel that an output serves next (R389). -/
def nextVc (x : FabPort) : Option Nat :=
  if vcReady x 0 then some 0
  else if vcReady x 1 then some 1
  else if vcReady x 2 ∧ (x.contribs < 3 ∨ vcReady x 3 = false) then some 2
  else if vcReady x 3 then some 3
  else none

/-- Take a flit of a virtual channel from an output's queue and send it with the next link sequence. -/
def sendNext (p vc i : Nat) (q : QFlit) (s : State) : State :=
  let x := portAt s p
  let f := Flit.read q.flit
  let seq := (x.txSeq + 1) % 4096
  let r := withLink x { f with seq := seq }
  let n := x.txCount + 1
  let s1 := updPort p (fun _ => { r.2 with
    txSeq := seq
    credits := r.2.credits.modify vc (· - 1)
    replay := r.2.replay ++ [r.1.bytes]
    queue := dropFirst (fun y => y.vc == vc && y.input == i) r.2.queue
    turns := AMap.set r.2.turns vc (i, !f.last)
    contribs := if vc = 2 then r.2.contribs + 1 else if vc = 3 then 0 else r.2.contribs
    sent := r.2.sent ++ [r.1.bytes]
    txCount := n % 1024 }) s
  owe i vc (addCtr (fabCtr p 0x08) (n / 1024) s1)

/-- An output sends while it has a flit, a credit and room in its replay buffer of 512. -/
def pumpPort (p : Nat) : Nat → State → State
  | 0, s => s
  | f + 1, s =>
    let x := portAt s p
    if x.st ≠ .up ∨ 512 ≤ x.replay.length then s
    else
      match nextVc x with
      | none => s
      | some vc =>
        match nextInput x vc with
        | none => s
        | some i =>
          match x.queue.find? fun q => q.vc == vc && q.input == i with
          | none => s
          | some q => pumpPort p f (sendNext p vc i q s)

def pump (p : Nat) (s : State) : State := pumpPort p ((portAt s p).queue.length + 1) s

def pumpPorts (s : State) : State := each pump [0, 1, 2, 3] s

/-- Queue a flit at an output. -/
def enqueueFlit (p vc input : Nat) (f : Flit) (s : State) : State :=
  updPort p (fun x => { x with queue := x.queue ++ [⟨vc, input, f.bytes⟩] }) s

/-- Send every unacknowledged flit again, in order, as it was (R388). -/
def replayPort (p : Nat) (s : State) : State :=
  if (portAt s p).replay = [] then s
  else inc (fabCtr p 0x14) (updPort p (fun x => { x with sent := x.sent ++ x.replay, replays := x.replays + 1 }) s)

/-- The ack and credits fields of a flit received while UP. Credits held do not rise above those of R386 (log entry 40). -/
def takeLink (p : Nat) (f : Flit) (s : State) : State :=
  let x := portAt s p
  let left := x.replay.dropWhile fun b => decide ((f.ack + 4096 - (Flit.read b).seq) % 4096 < 2048)
  updPort p (fun x => { x with
    replay := left
    replays := if left.length < x.replay.length then 0 else x.replays
    credits := (x.credits.zip (f.credits.zip fullCredits)).map fun (c, r, m) => min (c + r) m }) s

/-! ## Link states (R383, R392, R393) -/

/-- Ports that are UP. -/
def upPorts (s : State) : List Nat := (List.range 4).filter fun p => (portAt s p).st == .up

/-- Lanes in service of a port. -/
def laneCount (lanes : Nat) : Nat := b2n (bit lanes 0) + b2n (bit lanes 1)

/-- Link cost by lanes in service. -/
def laneCost (n : Nat) : Nat := if n = 2 then 1 else 2

/-- The payload of an LSA (R393). -/
def lsaBytes (origin : Nat) (l : Lsa) : Bytes :=
  be 2 origin ++ be 4 l.noncePrefix ++ be 4 l.seq ++ be 1 (b2n l.withdrawn) ++ be 1 l.links.length
    ++ fit (l.links.flatMap fun (n, p, k, c) => be 2 n ++ be 1 p ++ be 1 k ++ be 1 c) 20

def lsaRead (b : Bytes) : Nat × Lsa :=
  (beAt b 0 2,
   { noncePrefix := beAt b 2 4, seq := beAt b 6 4, withdrawn := bit (beAt b 10 1) 0,
     links := (List.range (min 4 (beAt b 11 1))).map fun i =>
       let e := slice b (12 + 5 * i) 5
       (beAt e 0 2, beAt e 2 1, beAt e 3 1, beAt e 4 1) })

/-- The flit of an LSA: link-local, on virtual channel 0. -/
def lsaFlit (s : State) (origin : Nat) (l : Lsa) : Flit := { type := 4, first := true, last := true, src := nodeId s, hops := 31, payload := lsaBytes origin l }

/-- Send an LSA on a list of ports. -/
def flood (origin : Nat) (l : Lsa) (ps : List Nat) (s : State) : State :=
  each (fun p s => pump p (enqueueFlit p 0 4 (lsaFlit s origin l) s)) ps s

/-- A change of the database starts a recomputation (R394). -/
def storeLsa (origin : Nat) (l : Lsa) (s : State) : State :=
  updFab (fun b => { b with lsdb := AMap.set b.lsdb origin l, routeBusy := true }) s

/-- This node's links: its ports in UP. -/
def ownLinks (s : State) : List (Nat × Nat × Nat × Nat) :=
  (upPorts s).map fun p => let x := portAt s p; (x.neighbour, p, laneCount x.lanes, laneCost (laneCount x.lanes))

/-- Originate an LSA. -/
def originate (s : State) : State :=
  let l : Lsa := ⟨s.cip.noncePrefix, s.fab.lsaSeq + 1, s.fab.conflict, ownLinks s⟩
  flood (nodeId s) l (upPorts s) (storeLsa (nodeId s) l (updFab (fun b => { b with lsaSeq := l.seq }) s))

/-- Flits waiting at an output that goes down have no route left: they are discarded, and their credits returned. -/
def dropQueue (p : Nat) (s : State) : State :=
  let q := (portAt s p).queue
  each (fun (y : QFlit) s => owe y.input y.vc s) q
    (addCtr 0x100200 (q.filter fun y => (Flit.read y.flit).type == 1).length (updPort p (fun x => { x with queue := [] }) s))

/-- A port leaves UP, or gives up before it: buffers are discarded and the routes over it become invalid (R383, R394). -/
def portDown (p : Nat) (s : State) : State :=
  let was := (portAt s p).st == .up
  let s1 := updPort p (fun x => { signal := x.signal, sent := x.sent, txCount := x.txCount, rxCount := x.rxCount }) (dropQueue p s)
  let s2 := updFab (fun b => { b with routes := b.routes.filter fun r => r.2.port != p }) s1
  if was then originate (inc (fabCtr p 0x24) s2) else s2

/-- A node finds its Node ID with another nonce prefix: the one with the higher prefix yields (R392). -/
def idConflict (p prefix_ : Nat) (s : State) : State :=
  let yields := decide (prefix_ < s.cip.noncePrefix)
  let s1 := postEvent (Src.fab p) 0x10 0x02 false (nodeId s + 65536 * b2n yields) (inc 0x100210 s)
  if yields = true ∧ s.fab.conflict = false then
    let s2 := originate (updFab (fun b => { b with conflict := true }) s1)
    each (fun p s => if (portAt s p).st = .up then
        updPort p (fun x => { signal := x.signal, lanes := x.lanes, removed := x.removed, sent := x.sent, st := .hello, txCount := x.txCount, rxCount := x.rxCount })
          (dropQueue p s)
      else s) [0, 1, 2, 3] (updFab (fun b => { b with routes := [] }) s2)
  else s1

/-! ## Messages (R391) -/

/-- The flits of a message. -/
def messageFlits (s : State) (dest vc tag : Nat) (b : Bytes) : List Flit :=
  let n := ceilDiv b.length 236
  (List.range n).map fun i =>
    { type := 1, vc := vc, first := i == 0, last := i + 1 == n, dest := dest, src := nodeId s, tag := tag, hops := 31, index := i,
      payload := slice b (236 * i) 236 }

/-- Send a message to a node: to this node itself it is delivered at once; without a route its flits are discarded. -/
def fabSend (dest vc : Nat) (b : Bytes) (s : State) : State :=
  if dest = nodeId s then updFab (fun f => { f with delivered := f.delivered ++ [⟨b, none⟩] }) s
  else
    let tag := AMap.getD s.fab.tags vc 0
    let fs := messageFlits s dest vc tag b
    let s1 := updFab (fun f => { f with tags := AMap.set f.tags vc ((tag + 1) % 256) }) s
    match AMap.get? s.fab.routes dest with
    | none => addCtr 0x100200 fs.length s1
    | some r => pump r.port (each (fun f s => enqueueFlit r.port vc 4 f s) fs s1)

/-- The partial message of a source and virtual channel is given up. -/
def dropPartial (src vc : Nat) (s : State) : State :=
  let p := fun (m : Partial) => m.src == src && m.vc == vc
  each (fun (m : Partial) s => giveBack m.stall.1 m.stall.2 s) (s.fab.partials.filter p)
    (updFab (fun b => { b with partials := b.partials.filter fun m => !p m }) s)

/-- A message flit for this node from port p joins its message; false while no Stall is free for a new one. -/
def reassemble (p : Nat) (f : Flit) (s : State) : Bool × State :=
  match s.fab.partials.find? fun m => m.src == f.src && m.vc == f.vc with
  | some m =>
    if m.tag = f.tag ∧ m.next = f.index ∧ f.first = false then
      let s1 := updFab (fun b => { b with partials := b.partials.filter fun y => !(y.src == f.src && y.vc == f.vc) }) s
      if f.last then (true, updFab (fun b => { b with delivered := b.delivered ++ [⟨m.bytes ++ f.payload, some m.stall⟩] }) s1)
      else (true, updFab (fun b => { b with partials := b.partials ++ [{ m with next := m.next + 1, bytes := m.bytes ++ f.payload }] }) s1)
    else start (inc 0x10020C (dropPartial f.src f.vc s))
  | none => start s
where
  /-- The flit begins a message, if it is a first one; otherwise it is discarded with it. -/
  start (s : State) : Bool × State :=
    if f.first = false then (true, s)
    else
      match acquireOne (0x28 + p) 5 s with
      | (none, s1) => (false, s1)
      | (some h, s1) =>
        let st := (0x28 + p, h)
        if f.last then (true, updFab (fun b => { b with delivered := b.delivered ++ [⟨f.payload, some st⟩] }) s1)
        else (true, updFab (fun b => { b with partials := b.partials ++ [⟨f.src, f.vc, f.tag, f.index + 1, f.payload, st⟩] }) s1)

/-- An accepted DATA flit is delivered, forwarded or discarded; false while it must wait in the receive buffer. -/
def placeFlit (p : Nat) (f : Flit) (s : State) : Bool × State :=
  let gone := fun (s : State) => (true, owe p f.vc s)
  if (portAt s p).dropping.contains (f.src, f.vc) then
    gone (if f.last then updPort p (fun x => { x with dropping := x.dropping.filter fun d => d != (f.src, f.vc) }) s else s)
  else if f.dest = nodeId s then
    match reassemble p f s with
    | (true, s1) => gone s1
    | (false, s1) => (false, s1)
  else if f.hops = 0 then gone (inc 0x100204 s)
  else
    match AMap.get? s.fab.routes f.dest with
    | none => gone (inc 0x100200 s)
    | some r => (true, pump r.port (enqueueFlit r.port f.vc p { f with hops := f.hops - 1 } s))

/-- Flits that waited in a port's receive buffer are placed, in order, while they can be. -/
def placeWaiting (p : Nat) : Nat → State → State
  | 0, s => s
  | n + 1, s =>
    match (portAt s p).waiting with
    | [] => s
    | b :: bs =>
      match placeFlit p (Flit.read b) s with
      | (true, s1) => placeWaiting p n (updPort p (fun x => { x with waiting := bs }) s1)
      | (false, s1) => s1

/-! ## Receiving (R385, R387) -/

/-- One NAK until the expected sequence arrives. -/
def sendNak (p : Nat) (s : State) : State :=
  if (portAt s p).nakSent then s
  else sendPlain p { type := 2, src := nodeId s } (updPort p (fun x => { x with nakSent := true }) s)

/-- Within 1 µs an accepted flit is acknowledged and owed credits return: by a NULL when no other flit has left (R387). -/
def acknowledge (p : Nat) (before : Nat) (s : State) : State :=
  if (portAt s p).st = .up ∧ (portAt s p).sent.length = before then sendPlain p { type := 0, src := nodeId s } s else s

/-- A sequenced flit is checked against the sequence; `use` handles one that is accepted. -/
def sequencedFlit (p : Nat) (f : Flit) (use : State → State) (s : State) : State :=
  let x := portAt s p
  let d := (f.seq + 4096 - x.rxSeq) % 4096
  if d = 1 then
    let n := x.rxCount + 1
    let s1 := addCtr (fabCtr p 0x0C) (n / 1024) (updPort p (fun x => { x with rxSeq := f.seq, nakSent := false, rxCount := n % 1024 }) s)
    acknowledge p x.sent.length (use s1)
  else if d = 0 ∨ 2048 ≤ d then acknowledge p x.sent.length (owe p f.vc s)
  else sendNak p s

/-- A flit of a type received intact on a port that is UP: its link fields are taken, then what it carries. -/
def onUp (p type : Nat) (b : Bytes) (act : Flit → State → State) (s : State) : State :=
  let f := Flit.read b
  if 4 ≤ p ∨ flitIntact b = false ∨ f.type ≠ type ∨ (portAt s p).st ≠ .up then s
  else pump p (act f (placeWaiting p (portAt s p).waiting.length (takeLink p f s)))

/-- FLIT_DATA (R387, R391). -/
def execFlitData (port : Nat) (flit : Bytes) (s : State) : Out :=
  let use := fun (f : Flit) (s : State) =>
    if (portAt s port).waiting ≠ [] then updPort port (fun x => { x with waiting := x.waiting ++ [f.bytes] }) s
    else
      match placeFlit port f s with
      | (true, s1) => s1
      | (false, s1) => updPort port (fun x => { x with waiting := x.waiting ++ [f.bytes] }) s1
  go (onUp port 1 flit (fun f => sequencedFlit port f (use f)) s)

/-- FLIT_NAK (R388): every unacknowledged flit from ack + 1 is sent again. -/
def execFlitNak (port : Nat) (flit : Bytes) (s : State) : Out := go (onUp port 2 flit (fun _ => replayPort port) s)

/-- FLIT_NULL (R385): acknowledgement and credits. -/
def execFlitNull (port : Nat) (flit : Bytes) (s : State) : Out := go (onUp port 0 flit (fun _ s => s) s)

/-- LSA a is to be kept rather than b: the lower nonce prefix (R392), then the higher sequence. -/
def newerLsa (a b : Lsa) : Bool := if a.noncePrefix = b.noncePrefix then decide (b.seq < a.seq) else decide (a.noncePrefix < b.noncePrefix)

/-- An accepted LSA: this node's own, newer, equal or older (R393). -/
def takeLsa (p : Nat) (f : Flit) (s : State) : State :=
  let (o, l) := lsaRead f.payload
  let s0 := owe p 0 s
  if o = nodeId s then
    if l.noncePrefix ≠ s.cip.noncePrefix then idConflict p l.noncePrefix s0
    else if s.fab.lsaSeq < l.seq then originate (updFab (fun b => { b with lsaSeq := l.seq }) s0)
    else s0
  else
    match AMap.get? s.fab.lsdb o with
    | none => if 4095 ≤ s.fab.lsdb.length then s0 else flood o l ((upPorts s0).filter (· != p)) (storeLsa o l s0)
    | some k =>
      if l = k then s0
      else if newerLsa l k then flood o l ((upPorts s0).filter (· != p)) (storeLsa o l s0)
      else if newerLsa k l then flood o k [p] s0
      else s0

/-- FLIT_LSA (R393). -/
def execFlitLsa (port : Nat) (flit : Bytes) (s : State) : Out :=
  go (onUp port 4 flit (fun f => sequencedFlit port f (takeLsa port f)) s)

/-- FLIT_BAD (R385, R387): a CRC failure, counted, with one NAK for what reads as a sequenced flit; or an unknown type. -/
def execFlitBad (port : Nat) (flit : Bytes) (s : State) : Out :=
  if 4 ≤ port ∨ (portAt s port).st = .down then go s
  else if flitIntact flit = false then
    let s1 := inc (fabCtr port 0x10) s
    go (if (portAt s port).st = .up ∧ sequenced (Flit.read flit).type = true then sendNak port s1 else s1)
  else if 4 < (Flit.read flit).type then go (inc 0x100218 s)
  else go s

/-- The HELLO flit of a port (R385). -/
def helloFlit (s : State) (p : Nat) : Flit :=
  let x := portAt s p
  { type := 3, src := nodeId s,
    payload := be 2 (nodeId s) ++ be 4 s.cip.noncePrefix ++ be 1 p ++ be 1 (laneCount x.lanes) ++ be 2 x.neighbour ++ be 1 (b2n s.fab.conflict) }

/-- HELLO_SEND_TIMER (R383). -/
def execHelloSendTimer (port : Nat) (s : State) : Out :=
  let x := portAt s port
  if port < 4 ∧ (x.st = .hello ∨ x.st = .up) then go (sendPlain port (helloFlit s port) s) else go s

/-- A port comes UP: sequence, replay and credit state start afresh (R383, R386); the first sequence is 1 (log entry 41). -/
def portUp (p : Nat) (s : State) : State :=
  originate (updPort p (fun x => { x with
    st := .up, txSeq := 0, rxSeq := 0, nakSent := false, credits := fullCredits, owed := [0, 0, 0, 0], replay := [], replays := 0,
    waiting := [], dropping := [], turns := [], contribs := 0 }) s)

/-- FLIT_HELLO (R383, R385, R392). -/
def execFlitHello (port : Nat) (flit : Bytes) (s : State) : Out :=
  let f := Flit.read flit
  let x := portAt s port
  if 4 ≤ port ∨ flitIntact flit = false ∨ f.type ≠ 3 ∨ ¬(x.st = .hello ∨ x.st = .up) then go s
  else
    let id := beAt f.payload 0 2
    let pre := beAt f.payload 2 4
    let heard := beAt f.payload 8 2
    let other := bit (beAt f.payload 10 1) 0
    if id = nodeId s ∧ pre ≠ s.cip.noncePrefix then go (idConflict port pre s)
    else
      let s1 := updPort port (fun x => { x with neighbour := id }) (if x.st = .up then takeLink port f s else s)
      if x.st = .hello ∧ heard = nodeId s ∧ s.fab.conflict = false ∧ other = false ∧ id ≠ 0 then go (portUp port s1)
      else go (pump port s1)

/-! ## Lanes (R383, R395) -/

/-- SF_SIGNAL_DETECT (R383): an enabled port that is DOWN trains every lane with signal. -/
def execSfSignalDetect (port lanes : Nat) (s : State) : Out :=
  let x := portAt s port
  if 4 ≤ port ∨ s.fab.ready = false ∨ domOn s (24 + port / 2) = false then go s
  else if x.st = .down ∧ Cfgw.portEnable s port = true ∧ lanes % 4 ≠ 0 then
    go (updPort port (fun x => { x with signal := lanes % 4, st := .training }) s)
  else go (updPort port (fun x => { x with signal := lanes % 4 }) s)

/-- SF_LANE_TRAINED (R383). -/
def execSfLaneTrained (port lane : Nat) (s : State) : Out :=
  let x := portAt s port
  if 4 ≤ port ∨ 2 ≤ lane ∨ x.st = .down ∨ bit x.removed lane = true ∨ bit x.lanes lane = true then go s
  else
    let s1 := updPort port (fun x => { x with lanes := setBits x.lanes lane lane 1, st := if x.st = .training then .hello else x.st }) s
    go (if x.st = .up then originate s1 else s1)

/-- SF_TRAINING_TIMEOUT (R383): training restarts. -/
def execSfTrainingTimeout (port : Nat) (s : State) : Out :=
  if (portAt s port).st = .training then go (updPort port (fun x => { x with lanes := 0 }) s) else go s

/-- HELLO_LOSS_TIMEOUT (R383). -/
def execHelloLossTimeout (port : Nat) (s : State) : Out := if (portAt s port).st = .up then go (portDown port s) else go s

/-- A lane is removed from its port; with no lane left the port goes DOWN. -/
def removeLane (p lane : Nat) (s : State) : State :=
  let x := portAt s p
  if bit x.lanes lane = false then s
  else
    let s1 := inc (fabCtr p 0x20) (updPort p (fun x => { x with lanes := setBits x.lanes lane lane 0, removed := setBits x.removed lane lane 1 }) s)
    if (portAt s1 p).lanes = 0 then portDown p s1
    else if x.st = .up then originate (replayPort p s1)
    else s1

/-- SF_LANE_LOSS (R383, R395). -/
def execSfLaneLoss (port lane : Nat) (s : State) : Out := if 4 ≤ port ∨ 2 ≤ lane then go s else go (removeLane port lane s)

/-- FEC_UNCORR_LIMIT (R395). How far beyond the limit the count went is not carried by the row (log entry 3). -/
def execFecUncorrLimit (port lane : Nat) (s : State) : Out :=
  if 4 ≤ port ∨ 2 ≤ lane ∨ bit (portAt s port).lanes lane = false then go s
  else go (removeLane port lane (addCtr (fabCtr port 0x1C) (bits (Cfgw.fabCfg s) 15 8 + 1 + drawn s) (drawNext s)))

/-- LANE_REJOIN (R395). -/
def execLaneRejoin (port lane : Nat) (s : State) : Out :=
  let x := portAt s port
  if 4 ≤ port ∨ 2 ≤ lane ∨ bit x.removed lane = false ∨ x.st = .down then go s
  else
    let s1 := updPort port (fun x => { x with lanes := setBits x.lanes lane lane 1, removed := setBits x.removed lane lane 0 }) s
    go (if x.st = .up then originate s1 else s1)

/-- LANE_RETRAIN_RETRY (R395): a removed lane trains again; it stays removed until it rejoins. -/
def execLaneRetrainRetry (_port _lane : Nat) (s : State) : Out := go s

/-! ## Replay timers (R388) -/

/-- REPLAY_TIMEOUT (R388). -/
def execReplayTimeout (port : Nat) (s : State) : Out := if (portAt s port).st = .up then go (replayPort port s) else go s

/-- REPLAY_LIMIT (R388): eight replays from one sequence take the port DOWN. -/
def execReplayLimit (port : Nat) (s : State) : Out :=
  if (portAt s port).st = .up ∧ 8 ≤ (portAt s port).replays then go (postEvent (Src.fab (port % 4)) 0x10 0x01 false (port % 4) (portDown port s)) else go s

/-- TRANSIT_WAIT_EXPIRY (R390): the transit flit at the front of a virtual channel without a credit is discarded, with the
rest of its message. -/
def execTransitWaitExpiry (port vc : Nat) (s : State) : Out :=
  let x := portAt s port
  if x.st ≠ .up ∨ 4 ≤ vc ∨ 0 < x.credits.getD vc 0 then go s
  else
    match nextInput x vc with
    | none => go s
    | some i =>
      match x.queue.find? fun q => q.vc == vc && q.input == i with
      | none => go s
      | some q =>
        if 4 ≤ i then go s
        else
          let f := Flit.read q.flit
          let same := fun (y : QFlit) => y.vc == vc && y.input == i && (Flit.read y.flit).src == f.src && (Flit.read y.flit).tag == f.tag
          let out := x.queue.filter same
          let ended := out.any fun y => (Flit.read y.flit).last
          let s1 := updPort port (fun x => { x with queue := x.queue.filter (fun y => !same y), turns := AMap.set x.turns vc (i, false) }) s
          let s2 := each (fun (_ : QFlit) s => owe i vc s) out (addCtr 0x100208 out.length s1)
          go (if ended then s2 else updPort i (fun x => { x with dropping := x.dropping ++ [(f.src, vc)] }) s2)

/-! ## Routing (R393, R394) -/

/-- LSA_REFRESH_TIMER (R393). -/
def execLsaRefreshTimer (s : State) : Out := if s.fab.ready then go (originate s) else go s

/-- LSA_AGE_OUT (R393): another origin's LSA, not refreshed for 4 s, is removed. -/
def execLsaAgeOut (origin : Nat) (s : State) : Out :=
  if origin = nodeId s ∨ (AMap.get? s.fab.lsdb origin).isNone then go s
  else go (updFab (fun b => { b with lsdb := AMap.erase b.lsdb origin, routeBusy := true }) s)

/-- Usable links of a node: both ends list each other, and neither is withdrawn. -/
def usable (db : AMap Lsa) (a : Nat) : List (Nat × Nat × Nat) :=
  match AMap.get? db a with
  | none => []
  | some l =>
    if l.withdrawn then []
    else (l.links.filter fun (n, _, _, _) => match AMap.get? db n with
      | some m => !m.withdrawn && m.links.any fun k => k.1 == a
      | none => false).map fun (n, p, _, c) => (n, p, c)

/-- A path is better: lower cost, then the lower next hop, then fewer hops, then the lower port. -/
def betterRoute (a b : Route) : Bool :=
  if a.cost ≠ b.cost then decide (a.cost < b.cost)
  else if a.nextHop ≠ b.nextHop then decide (a.nextHop < b.nextHop)
  else if a.hops ≠ b.hops then decide (a.hops < b.hops)
  else decide (a.port < b.port)

def offerRoute (me dest : Nat) (r : Route) (t : AMap Route) : AMap Route :=
  if dest = me then t
  else match AMap.get? t dest with
    | some k => if betterRoute r k then AMap.set t dest r else t
    | none => AMap.set t dest r

/-- One round: every link from a reached node is offered. -/
def relax (db : AMap Lsa) (me : Nat) (t : AMap Route) : AMap Route :=
  t.foldl (fun u (a, r) => (usable db a).foldl (fun u (n, _, c) => offerRoute me n { r with cost := r.cost + c, hops := r.hops + 1 } u) u) t

def relaxAll (db : AMap Lsa) (me : Nat) : Nat → AMap Route → AMap Route
  | 0, t => t
  | n + 1, t => relaxAll db me n (relax db me t)

/-- The routing table: paths of least cost over at most 31 hops; none while this node is in conflict. -/
def routeTable (s : State) : AMap Route :=
  if s.fab.conflict then []
  else
    let me := nodeId s
    let start := (usable s.fab.lsdb me).foldl (fun t (n, p, c) => offerRoute me n ⟨p, 1, c, n⟩ t) []
    (relaxAll s.fab.lsdb me s.fab.lsdb.length start).filter fun r => decide (r.2.hops ≤ 31)

/-- Host Node IDs of the Yard engine's member map, ascending. -/
def memberHosts (s : State) : List Nat := (s.yrd.map.foldl (fun m (_, _, h) => if h = 0 then m else AMap.set m h ()) ([] : AMap Unit)).map Prod.fst

/-- ROUTE_INSTALL (R394): the new table, then MB_YARD 0x8001 for each member host whose reachability changed. -/
def execRouteInstall (s : State) : Out :=
  if s.fab.routeBusy = false then go s
  else
    let t := routeTable s
    let now := t.map fun r => (r.1, ())
    let s1 := inc 0x100214 (updFab (fun b => { b with routes := t, reach := now, routeBusy := false }) s)
    let changed := (memberHosts s).filter fun h => mem? s.fab.reach h != mem? now h
    go (each (fun h s => post .yard (Src.fab 0) 0x8001 (h + 65536 * b2n (mem? now h)) s) changed s1)

/-! ## Registers and the commit (R392, R397) -/

/-- FAB_ROUTE_SEL (R397): the entry is sampled at the write. -/
def routeSel (value : Nat) (s : State) : State :=
  let n := bits value 11 0
  updFab (fun b => { b with sel := n, selRoute := AMap.get? b.routes n }) s

/-- FAB_ROUTE_SEL, as the row of the register (R397). -/
def execFabRouteSel (value : Nat) (s : State) : Out := go (routeSel value s)

/-- What a commit does to the ports: a new Node ID takes every port DOWN and ends a conflict; a disabled port goes DOWN. -/
def fabCommit (oldNode : Nat) (s : State) : State :=
  if nodeId s ≠ oldNode then
    each (fun p s => if (portAt s p).st = .down then s else portDown p s) [0, 1, 2, 3]
      (each (fun (m : Partial) s => giveBack m.stall.1 m.stall.2 s) s.fab.partials
        (updFab (fun b => { b with conflict := false, lsdb := [], routes := [], partials := [], lsaSeq := b.lsaSeq, routeBusy := true }) s))
  else each (fun p s => if Cfgw.portEnable s p ∨ (portAt s p).st = .down then s else portDown p s) [0, 1, 2, 3] s

end Sys2Proof.Machine
end

