-- ==== Sys2Proof/Machine/Yard.lean ====
section
/-!
DEFINITION. The Yard (12), first part: descriptor, Yard page, messages, stripes and claims, partial products, the
coordinator and its journal.
-/

namespace Sys2Proof.Machine

def updYrd (f : Yrd → Yrd) (s : State) : State := { s with yrd := f s.yrd }

/-! ## The descriptor (R343, R344) -/

def descBytes : Nat := 133376

/-- A descriptor from its bytes. -/
def Desc.parse (b : Bytes) : Desc :=
  { n := beAt b 1 1, k := beAt b 2 1, m := beAt b 3 1, yard := beAt b 4 8, gen := beAt b 12 4, contribTimeout := beAt b 16 4,
    memberDead := beAt b 20 4,
    members := (List.range 64).map fun i => let e := slice b (256 + 32 * i) 32
      (slice e 0 20, beAt e 20 1, (List.range 4).map fun p => beAt e (21 + p) 1)
    rows := (List.range 4096).map fun q => (slice b (2304 + 32 * q) 32).map BitVec.toNat
    raw := b }

/-- A row's member indexes of its slots. -/
def Desc.row (d : Desc) (stripe : Nat) : List Nat := (d.rows.getD (stripe % 4096) []).take (d.k + d.m)

/-- How often each member below n stands in a part of the rows: the most and the least differ by at most 1. -/
def evenly (n : Nat) (parts : List (List Nat)) : Bool :=
  let counts := parts.foldl (fun m r => r.foldl (fun m i => modAt m i 0 (· + 1)) m) ([] : AMap Nat)
  let cs := (List.range n).map fun i => AMap.getD counts i 0
  decide (cs.foldl max 0 ≤ cs.foldl min (cs.headD 0) + 1)

/-- The checks of R344, with the kind, the CRC and yard_id of R343. -/
def Desc.accepted (d : Desc) : Bool :=
  d.raw.length == descBytes && beAt d.raw 0 1 == 0xA1 && beAt d.raw 252 4 == crc32 (d.raw.take 252) && d.yard != 0
    && decide (4 ≤ d.n ∧ d.n ≤ 64 ∧ 2 ≤ d.k ∧ d.k ≤ 30 ∧ 1 ≤ d.m ∧ d.m ≤ 4 ∧ d.k + d.m ≤ min d.n 32)
    && decide (100 ≤ d.contribTimeout ∧ d.contribTimeout ≤ 60000 ∧ 1000 ≤ d.memberDead ∧ d.memberDead ≤ 60000)
    && (d.rows.all fun r => let x := r.take (d.k + d.m); (x.all fun i => decide (i < d.n)) && decide x.Nodup)
    && evenly d.n (d.rows.map fun r => r.take d.k) && evenly d.n (d.rows.map fun r => (r.drop d.k).take d.m)
    && ((d.members.take d.n).all fun (_, pp, ws) => decide (pp < 4) && decide (0 < ws.getD pp 0))

/-- The descriptor whose data slots a stripe has: that of an earlier generation below its boundary (R374). -/
def descFor (s : State) (stripe : Nat) : Option Desc :=
  match s.yrd.oldDescs.find? fun x => decide (stripe < x.1) with
  | some (_, d) => some d
  | none => s.yrd.desc

/-! ## The member map (R345, R354, R364) -/

def memberState (s : State) (i : Nat) : Nat := ((AMap.get? s.yrd.map i).map Prod.fst).getD 3
def memberHost (s : State) (i : Nat) : Nat := ((AMap.get? s.yrd.map i).map Prod.snd).getD 0
def isPresent (s : State) (i : Nat) : Bool := memberState s i == 0
def isSelf (s : State) (i : Nat) : Bool := i == s.yrd.member

/-- The members of a stripe's row in layout order: parity slots, then data slots. -/
def layoutOrder (d : Desc) (stripe : Nat) : List Nat := let r := d.row stripe; r.drop d.k ++ r.take d.k

/-- The data slot that a member holds in a stripe. -/
def dataSlot (s : State) (stripe member : Nat) : Option Nat :=
  match descFor s stripe with
  | none => none
  | some d => (List.range d.k).find? fun t => (d.row stripe)[t]? == some member

/-- The member of a data slot. -/
def slotMember (s : State) (stripe slot : Nat) : Nat := ((descFor s stripe).bind fun d => (d.row stripe)[slot]?).getD 0xFF

/-- Role holders of an old stripe under the new generation (R375). -/
def reworkHolders (s : State) (stripe : Nat) : List Nat :=
  match s.yrd.desc, descFor s stripe with
  | some d, some o =>
    let data := (o.row stripe).take o.k
    let row := d.row stripe
    (row.drop d.k).foldl (fun hs h =>
      if data.contains h ∨ hs.contains h then
        let i := (layoutOrder d stripe).idxOf h
        let rest := (layoutOrder d stripe).drop (i + 1) ++ (layoutOrder d stripe).take i
        let ok := fun x => !data.contains x && !hs.contains x
        match rest.find? ok with
        | some x => hs ++ [x]
        | none => hs ++ [((List.range d.n).find? fun x => ok x && isPresent s x).getD h]
      else hs ++ [h]) []
  | _, _ => []

/-- Parity roles of a stripe, and the holder that the row gives each; `rework` is under the new generation. -/
def rowHolders (s : State) (rework : Bool) (stripe : Nat) : List Nat :=
  if rework then reworkHolders s stripe
  else match descFor s stripe with
    | none => []
    | some d => (d.row stripe).drop d.k

/-- The stand-in for a holder (R364): the first PRESENT member counting up from it that holds no slot in the row. -/
def standIn (s : State) (stripe holder : Nat) : Option Nat :=
  match descFor s stripe with
  | none => none
  | some d => ((List.range d.n).map fun i => (holder + 1 + i) % d.n).find? fun i => isPresent s i && !(d.row stripe).contains i

/-- The current holder of role j of a stripe. -/
def roleHolder (s : State) (rework : Bool) (stripe j : Nat) : Nat :=
  match (rowHolders s rework stripe)[j - 1]? with
  | none => 0xFF
  | some h => if isPresent s h then h else (standIn s stripe h).getD h

def rolesOf (s : State) (rework : Bool) (stripe : Nat) : List Nat := (List.range (rowHolders s rework stripe).length).map (· + 1)

/-- Members reachable over the fabric; this one reaches itself. -/
def memberReachable (s : State) (i : Nat) : Bool := isSelf s i || (memberHost s i != 0 && (mem? s.yrd.reachable (memberHost s i) || memberHost s i == nodeId s))

/-- More than half of the members not LOST are reached. -/
def reachesHalf (s : State) : Bool :=
  let ms := s.yrd.map.filter fun x => x.2.1 < 2
  decide (ms.length < 2 * (ms.filter fun x => memberReachable s x.1).length)

/-- A quorum is reachable (R361). -/
def hasQuorum (s : State) : Bool := s.yrd.enrolled && reachesHalf s

/-- The leader as this member sees it: the lowest-indexed PRESENT member that it reaches. -/
def leaderOf (s : State) : Option Nat := (s.yrd.map.find? fun x => x.2.1 == 0 && memberReachable s x.1).map Prod.fst

def isLeader (s : State) : Bool := hasQuorum s && leaderOf s == some s.yrd.member

/-- The coordinator of a stripe and its replicas (R354); the leader coordinates a stripe that is reworked (R375). -/
def walkOf (s : State) (stripe : Nat) : List Nat :=
  match descFor s stripe with
  | none => []
  | some d => (layoutOrder d stripe).filter (isPresent s)

def reworking (s : State) (stripe : Nat) : Bool := s.yrd.reshapeActive && decide (s.yrd.reshapePos ≤ stripe ∧ stripe < s.yrd.reshapeBound)

def coordinator (s : State) (stripe : Nat) : Option Nat := if reworking s stripe then leaderOf s else (walkOf s stripe).head?

def replicasOf (s : State) (stripe : Nat) : List Nat :=
  match coordinator s stripe with
  | none => []
  | some c => ((walkOf s stripe).filter (· != c)).take 2

/-! ## The Yard page (R345) -/

/-- A copy of the Yard page. -/
def yardPage (s : State) : Bytes :=
  let y := s.yrd
  let body := be 1 0xB1 ++ be 1 y.member ++ be 1 y.parityPart ++ be 1 (b2n y.enrolled + 2 * b2n y.replacing + 4 * b2n y.declaredLost)
    ++ be 4 y.pageSeq ++ be 8 y.yardId ++ be 4 y.wantGen ++ fit y.wantDigest 48 ++ be 4 y.epoch ++ be 4 y.boundary
    ++ be 4 y.reshapePos ++ be 4 ((y.nextDesc.map Desc.gen).getD 0) ++ fit ((y.nextDesc.map fun d => sha384 d.raw).getD []) 48
    ++ be 4 y.rebuildPos
    ++ (List.range 64).flatMap (fun i => be 4 (memberState s i * 2 ^ 30 + memberHost s i % 65536)) ++ zeros 1652
  body ++ be 4 (crc32 body)

/-- Write the Yard page to the copy not in use: copies alternate with the sequence. -/
def writeYardPage (s : State) : State :=
  let s1 := updYrd (fun y => { y with pageSeq := y.pageSeq + 1 }) s
  cmWrite (0x1000 + 0x800 * (s1.yrd.pageSeq % 2)) (yardPage s1) s1

/-- The page that LOAD uses: a copy whose CRC holds, the higher sequence of two. -/
def yardPageInUse (s : State) : Option Bytes :=
  let ok := fun (b : Bytes) => beAt b 2044 4 == crc32 (b.take 2044) && beAt b 0 1 == 0xB1
  let a := cmRead s 0x1000 2048
  let b := cmRead s 0x1800 2048
  match ok a, ok b with
  | true, true => some (if beAt a 4 4 < beAt b 4 4 then b else a)
  | true, false => some a
  | false, true => some b
  | false, false => none

/-! ## Messages (R377, R378) -/

def msgHead (m : YMsg) : Bytes :=
  be 1 0x91 ++ be 1 m.type ++ be 2 m.seg ++ be 4 m.epoch ++ be 8 m.yard ++ be 4 m.stripe ++ be 1 m.src ++ be 1 m.dst ++ be 1 m.role
    ++ be 1 m.slot ++ be 4 (if m.payload = [] then 0 else crc32 m.payload)

/-- A message as it travels. -/
def msgBytes (m : YMsg) : Bytes := msgHead m ++ be 4 (crc32 (msgHead m)) ++ m.payload

/-- A message whose CRCs hold. -/
def msgParse (b : Bytes) : Option YMsg :=
  let pay := b.drop 32
  if b.length < 32 ∨ beAt b 28 4 ≠ crc32 (b.take 28) ∨ beAt b 24 4 ≠ (if pay = [] then 0 else crc32 pay) ∨ beAt b 0 1 ≠ 0x91 then none
  else
    some { type := beAt b 1 1, seg := beAt b 2 2, epoch := beAt b 4 4, yard := beAt b 8 8, stripe := beAt b 16 4, src := beAt b 20 1,
           dst := beAt b 21 1, role := beAt b 22 1, slot := beAt b 23 1, payload := pay }

namespace YT
def claim : Nat := 0x10
def claimAck : Nat := 0x11
def withdraw : Nat := 0x12
def contrib : Nat := 0x13
def contribDone : Nat := 0x14
def nullReq : Nat := 0x15
def nullOk : Nat := 0x16
def claimed : Nat := 0x17
def sealStripe : Nat := 0x18
def parityLaid : Nat := 0x19
def stripeSafe : Nat := 0x1A
def safeAck : Nat := 0x1B
def journal : Nat := 0x1C
def journalAck : Nat := 0x1D
def nack : Nat := 0x1E
def stateQuery : Nat := 0x20
def stateReply : Nat := 0x21
def epochPropose : Nat := 0x22
def adopt : Nat := 0x23
def epochCommit : Nat := 0x24
def epochReq : Nat := 0x25
def join : Nat := 0x26
def descReq : Nat := 0x27
def descPart : Nat := 0x28
def ledger : Nat := 0x29
def rebuildReq : Nat := 0x30
def rebuildPart : Nat := 0x31
def rebuildFail : Nat := 0x32
end YT

/-- The known types. -/
def msgKnown (t : Nat) : Bool := decide (0x10 ≤ t ∧ t ≤ 0x1E ∨ 0x20 ≤ t ∧ t ≤ 0x29 ∨ 0x30 ≤ t ∧ t ≤ 0x32)

/-- Virtual channel of a type. -/
def channelOf (t : Nat) : Nat :=
  if t = YT.contrib then 2 else if t < 0x1E then 1 else if t = 0x27 ∨ t = 0x28 ∨ 0x30 ≤ t then 3 else 0

/-- Types that are repeated until their reply arrives (R378, log entry 42). -/
def expectsReply (t : Nat) : Bool := t == YT.claim || t == YT.nullReq || t == YT.stripeSafe || t == YT.journal

def yMsg (s : State) (type stripe dst role slot : Nat) (payload : Bytes) : YMsg :=
  { type := type, seg := 0, epoch := s.yrd.epoch, yard := s.yrd.yardId, stripe := stripe, src := s.yrd.member, dst := dst, role := role,
    slot := slot, payload := payload }

/-- Send a message to a member's host; one without a host is not reached. -/
def sendOnce (m : YMsg) (s : State) : State :=
  let host := if isSelf s m.dst then nodeId s else memberHost s m.dst
  if host = 0 ∧ isSelf s m.dst = false then s else fabSend host (channelOf m.type) (msgBytes m) s

/-- Send a message, to be repeated if it expects a reply. -/
def sendMsg (m : YMsg) (s : State) : State :=
  let s1 := sendOnce m s
  if expectsReply m.type then updYrd (fun y => { y with awaitReply := y.awaitReply.filter (· != m) ++ [m] }) s1 else s1

/-- The reply to a message has arrived. -/
def replied (type stripe peer : Nat) (s : State) : State :=
  updYrd (fun y => { y with awaitReply := y.awaitReply.filter fun m => !(m.type == type && m.stripe == stripe && m.dst == peer) }) s

/-- A message leaves the fabric's deliveries, and its Stall is freed. -/
def takeDelivered (m : YMsg) (s : State) : State :=
  let b := msgBytes m
  match s.fab.delivered.find? fun d => d.bytes == b with
  | none => s
  | some d =>
    let s1 := updFab (fun f => { f with delivered := dropFirst (fun d => d.bytes == b) f.delivered }) s
    match d.stall with | some (q, h) => giveBack q h s1 | none => s1

/-- Types that are taken whatever their epoch: they carry or ask for the epoch itself (R360, R365, log entry 43). -/
def anyEpoch (t : Nat) : Bool := [YT.nack, YT.epochCommit, YT.epochPropose, YT.epochReq, YT.join, YT.descReq, YT.descPart].contains t

/-- A message of a type arrives (R360, R377): foreign ones are discarded, stale ones NACKed, newer ones held. -/
def receive (type : Nat) (m : YMsg) (act : State → State) (s : State) : Out :=
  if m.type ≠ type then go s
  else
    let s1 := takeDelivered m s
    if s.yrd.enrolled = false ∨ m.yard ≠ s.yrd.yardId then go (inc 0x0F0128 s1)
    else if anyEpoch type ∨ m.epoch = s.yrd.epoch then go (act s1)
    else if m.epoch < s.yrd.epoch then
      go (sendMsg { yMsg s YT.nack m.stripe m.src m.role m.slot (be 1 type ++ be 4 s.yrd.epoch) with seg := m.seg } (inc 0x0F010C s1))
    else
      go (sendMsg (yMsg s YT.epochReq 0xFFFFFFFF m.src 0 0xFF []) (updYrd (fun y => { y with heldMsgs := y.heldMsgs ++ [m] }) s1))

/-! ## Coefficients (R351) -/

/-- c(j, i) of a stripe with m roles. -/
def yardCoef (m j i : Nat) : Byte := gfInv (BitVec.ofNat 8 (j - 1) ^^^ BitVec.ofNat 8 (m + i))

def scaleBytes (c : Byte) (b : Bytes) : Bytes := if c = 0#8 then zeros b.length else b.map (gfMul c)

/-- The 300 segments of a unit: 65,536 bytes each, the last 13,312 (R352). -/
def segment (b : Bytes) (i : Nat) : Bytes := slice b (65536 * i) 65536

/-- Add a segment into an accumulator's bytes. -/
def addSegment (bytes : Bytes) (i : Nat) (seg : Bytes) : Bytes :=
  bytes.take (65536 * i) ++ areaAdd (slice bytes (65536 * i) seg.length) seg ++ bytes.drop (65536 * i + seg.length)

/-- Send a unit's segments of a list to the holder of a role. -/
def sendSegments (rework : Bool) (stripe slot role m : Nat) (user : Bytes) (segs : List Nat) (s : State) : State :=
  let p := scaleBytes (yardCoef m role slot) user
  let dst := roleHolder s rework stripe role
  each (fun i s => sendMsg { yMsg s YT.contrib stripe dst role slot (segment p i) with seg := i } s) segs s

/-- Send every partial product of a unit (R352). -/
def sendPartials (rework : Bool) (stripe slot : Nat) (user : Bytes) (s : State) : State :=
  let m := (rolesOf s rework stripe).length
  each (fun j s => sendSegments rework stripe slot j m user (List.range 300) s) (rolesOf s rework stripe) s

/-! ## Retention copies (R352) -/

/-- Yard region slots. -/
def yardSlots (s : State) : Nat := min (Cfgw.yardQuota s * 262144 / 300) 24466

/-- The lowest Yard region slot that holds no copy. -/
def freeYardSlot (s : State) : Option Nat := (List.range (yardSlots s)).find? fun k => !(s.yrd.retains.any fun r => r.slot == some k)

/-- A copy moves to the Shed. -/
def retainToShed (part ds : Nat) (s : State) : State :=
  match s.yrd.retains.find? fun r => r.part == part && r.ds == ds && r.slot.isNone, freeYardSlot s with
  | some r, some k =>
    let s1 := each (giveBack 0x20) r.stalls (updYrd (fun y => { y with
      retains := y.retains.map fun x => if x.part = part ∧ x.ds = ds then { x with stalls := [], slot := some k } else x }) s)
    pumpAll (storeUnits 300 (0x7000000 + 300 * k) r.user s1)
  | _, _ => s

/-- Keep a unit's user area. -/
def retain (part ds stripe : Nat) (user : Bytes) (s : State) : State :=
  if s.yrd.retains.any fun r => r.part == part && r.ds == ds then s
  else
    let g := if 75 ≤ freeCount (stableAt s 5) ∧ (stableAt s 5).fifo = [] then acquire 0x20 5 75 s else (none, s)
    let hs := g.1.getD []
    let s1 := updYrd (fun y => { y with retains := y.retains ++ [{ part := part, ds := ds, stripe := stripe, user := user, stalls := hs }] }) g.2
    if hs = [] then retainToShed part ds s1 else s1

/-- A copy is freed. -/
def dropRetain (part ds : Nat) (s : State) : State :=
  each (fun (r : Retain) s =>
    let s1 := each (giveBack 0x20) r.stalls s
    match r.slot with
    | some k => settleBlocks (unmapRange (0x7000000 + 300 * k) 300 s1)
    | none => s1) (s.yrd.retains.filter fun r => r.part == part && r.ds == ds)
    (updYrd (fun y => { y with retains := y.retains.filter fun r => !(r.part == part && r.ds == ds) }) s)

/-- A unit's user area at hand: a retention copy, or read staging (R368). -/
def unitAtHand (s : State) (part ds : Nat) : Option Bytes :=
  match s.yrd.retains.find? fun r => r.part == part && r.ds == ds with
  | some r => some r.user
  | none => (tapeSet s part ds).map fun b => fit (b.take userArea) userArea

/-- RETAIN_LOW (R352): the oldest copies move to Yard region slots. -/
def execRetainLow (s : State) : Out :=
  let step := fun (s : State) =>
    if Cfgw.retainLow s ≤ freeCount (stableAt s 5) then s
    else match s.yrd.retains.find? fun r => r.slot.isNone with
      | some r => retainToShed r.part r.ds s
      | none => s
  go ((List.range s.yrd.retains.length).foldl (fun s _ => step s) s)

/-! ## Claims (R349, R350) -/

/-- The lowest stripe from `lo` on in which this member holds a data slot and which it has not skipped. -/
def nextStripe (s : State) : Nat → Nat → Option (Nat × Nat)
  | 0, _ => none
  | f + 1, lo =>
    match dataSlot s lo s.yrd.member with
    | some t => if mem? s.yrd.skipped lo then nextStripe s f (lo + 1) else some (lo, t)
    | none => nextStripe s f (lo + 1)

/-- Claims whose contributions are not finished. -/
def openClaims (s : State) : Nat := (s.yrd.claims.filter fun c => !c.sent).length

/-- Claim a slot for a unit, unless two claims are unfinished, no descriptor is held or this member is not PRESENT. -/
def claimSlot (part ds : Nat) (s : State) : State :=
  if 2 ≤ openClaims s ∨ s.yrd.desc.isNone ∨ isPresent s s.yrd.member = false ∨ (s.yrd.claims.any fun c => c.part == part && c.ds == ds) then s
  else
    let lo := max s.yrd.boundary (match s.yrd.highClaim with | some h => h + 1 | none => 0)
    match nextStripe s 8192 lo with
    | none => s
    | some (stripe, slot) =>
      match coordinator s stripe with
      | none => s
      | some c =>
        let s1 := updYrd (fun y => { y with
          claims := y.claims ++ [{ stripe := stripe, slot := slot, part := part, ds := ds }], highClaim := some stripe }) s
        sendMsg (yMsg s1 YT.claim stripe c 0 slot (be 1 part ++ be 4 ds)) s1

/-- Unstriped units claim again as claims become free. -/
def claimUnstriped (s : State) : State := each (fun u s => claimSlot u.1 u.2 s) s.yrd.unstriped s

/-- UNIT_ASSEMBLY_BEGUN (R349). -/
def execUnitAssemblyBegun (src arg : Nat) (s : State) : Out :=
  go (boxTake .yard src 0x0001 arg (claimSlot (bits arg 33 32) (bits arg 31 0)) s)

/-- The handle of the first Stall of a retention copy, in Stalls or none. -/
def copyHandle (stalls : List Handle) : Nat := (stalls.head?.map handleWord).getD 0

/-- A claim's contributions leave (R352), once its unit's user area is complete. -/
def contribute (part ds : Nat) (s : State) : State :=
  match s.yrd.claims.find? fun c => c.part == part && c.ds == ds && c.acked && !c.sent, s.yrd.retains.find? fun r => r.part == part && r.ds == ds with
  | some c, some r =>
    let s1 := updYrd (fun y => { y with
      claims := y.claims.map (fun (x : Claim) => if x.part = part ∧ x.ds = ds then { x with sent := true } else x)
      retains := y.retains.map (fun (x : Retain) => if x.part = part ∧ x.ds = ds then { x with stripe := c.stripe } else x)
      units := y.units.filter (fun u => !(u.part == part && u.ds == ds)) ++ [⟨c.stripe, c.slot, part, ds⟩] }) s
    sendPartials false c.stripe c.slot r.user s1
  | _, _ => s

/-- The claim of a unit that was encoded without it is withdrawn (R349). -/
def withdrawClaim (part ds : Nat) (s : State) : State :=
  match s.yrd.claims.find? fun c => c.part == part && c.ds == ds with
  | none => s
  | some c =>
    let s1 := updYrd (fun y => { y with
      claims := y.claims.filter fun x => !(x.part == part && x.ds == ds)
      awaitReply := y.awaitReply.filter fun m => !(m.type == YT.claim && m.stripe == c.stripe) }) s
    match coordinator s1 c.stripe with
    | some d => sendMsg (yMsg s1 YT.withdraw c.stripe d 0 c.slot []) s1
    | none => s1

/-- UNIT_COMPLETE (R350, R352): the unit's partial products are sent and its user area retained; a unit whose DSIT carries
no stripe is unstriped, and claims again. -/
def execUnitComplete (src arg : Nat) (s : State) : Out :=
  let act := fun (s : State) =>
    let ds := bits arg 58 27
    let here := (s.wrv.images ++ s.wrv.placements.map Placement.img).filter fun i => i.kind == 1 && i.ds == ds && (partAt s i.part).yardMember
    match here.find? (fun i => i.stalls.head?.any fun h => handleWord h == bits arg 26 0) |>.or here.head? with
    | none => s
    | some i =>
      if i.stripe = 0xFFFFFFFF then
        let s1 := inc 0x0F0108 (retain i.part ds i.stripe i.user (withdrawClaim i.part ds s))
        claimUnstriped (updYrd (fun y => { y with unstriped := y.unstriped ++ [(i.part, ds)] }) s1)
      else claimUnstriped (contribute i.part ds (retain i.part ds i.stripe i.user s))
  go (boxTake .yard src 0x0002 arg act s)

/-- CLAIM_ACK (R349, R350): an accepted claim counts from its epoch; that of an unstriped unit sends the unit to the
formatter again. A busy answer leaves the claim to be repeated. -/
def execClaimAck (m : YMsg) (s : State) : Out :=
  let act := fun (s : State) =>
    match s.yrd.claims.find? fun c => c.stripe == m.stripe && c.slot == m.slot && !c.acked with
    | none => s
    | some c =>
      if beAt m.payload 0 1 ≠ 0 then s
      else
        let s1 := replied YT.claim m.stripe m.src (updYrd (fun y => { y with
          claims := y.claims.map fun (x : Claim) => if x.stripe = c.stripe then { x with acked := true, epoch := m.epoch } else x }) s)
        if s1.yrd.unstriped.contains (c.part, c.ds) then
          match s1.yrd.retains.find? fun r => r.part == c.part && r.ds == c.ds with
          | some r => contribute c.part c.ds (post .fmt Src.yard 0x0004 (copyHandle r.stalls + c.ds % 2 ^ 32 * 2 ^ 27) s1)
          | none => s1
        else contribute c.part c.ds s1
  receive YT.claimAck m act s

/-- NULL_REQ (R357): a claim held for the slot is answered CLAIMED; otherwise the stripe is skipped from then on. -/
def execNullReq (m : YMsg) (s : State) : Out :=
  let act := fun (s : State) =>
    let held := (s.yrd.claims.find? fun c => c.stripe == m.stripe).map fun c => (c.part, c.ds)
    let unit := (s.yrd.units.find? fun u => u.stripe == m.stripe && u.place == m.slot).map fun u => (u.part, u.ds)
    match held.or (if reworking s m.stripe then unit else none) with
    | some (p, ds) => sendMsg (yMsg s YT.claimed m.stripe m.src 0 m.slot (be 1 p ++ be 4 ds)) s
    | none =>
      sendMsg (yMsg s YT.nullOk m.stripe m.src 0 m.slot [])
        (inc 0x0F0104 (updYrd (fun y => { y with skipped := AMap.set y.skipped m.stripe () }) s))
  receive YT.nullReq m act s

/-! ## Role holders (R353, R358) -/

def accumOf (s : State) (stripe role : Nat) : Option Accum := s.yrd.accums.find? fun a => a.stripe == stripe && a.role == role

def updAccum (stripe role : Nat) (f : Accum → Accum) (s : State) : State :=
  updYrd (fun y => { y with accums := modFirst (fun a => a.stripe == stripe && a.role == role) f y.accums }) s

/-- The requester of a role's accumulator (R78). -/
def accumReq (role : Nat) : Nat := 0x24 + (role - 1) % 4

/-- An accumulator's Stalls are freed. -/
def freeAccum (a : Accum) (s : State) : State := each (giveBack (accumReq a.role)) a.stalls s

/-- The accumulator of a stripe and role, with 75 Stalls of its own; none while they are not granted. -/
def openAccum (stripe role : Nat) (s : State) : Bool × State :=
  if (accumOf s stripe role).isSome then (true, s)
  else
    match acquire (accumReq role) 5 75 s with
    | (some hs, s1) => (true, updYrd (fun y => { y with accums := y.accums ++ [{ stripe := stripe, role := role, bytes := zeros userArea, stalls := hs }] }) s1)
    | (none, s1) => (false, s1)

/-- All 300 segments of a slot are marked. -/
def slotDone (a : Accum) (slot : Nat) : Bool := decide ((a.seen.filter fun x => x.1 / 300 == slot).length = 300)

/-- Send a message to a stripe's coordinator. -/
def toCoordinator (type stripe role slot : Nat) (payload : Bytes) (s : State) : State :=
  match coordinator s stripe with
  | some c => sendMsg (yMsg s type stripe c role slot payload) s
  | none => s

/-- CONTRIB (R353). Without room for an accumulator the message waits where it is. -/
def execContrib (m : YMsg) (s : State) : Out :=
  let key := 300 * m.slot + m.seg
  let act := fun (s : State) =>
    match accumOf s m.stripe m.role with
    | none => s
    | some a =>
      if mem? a.seen key ∨ a.isSealed then inc 0x0F0114 s
      else
        let b : Accum := { a with bytes := addSegment a.bytes m.seg m.payload, seen := AMap.set a.seen key () }
        let s1 := updAccum m.stripe m.role (fun _ => b) s
        if slotDone b m.slot then toCoordinator YT.contribDone m.stripe m.role m.slot [] s1 else s1
  if m.type ≠ YT.contrib ∨ 300 ≤ m.seg ∨ 32 ≤ m.slot ∨ m.role = 0 ∨ 4 < m.role then go s
  else if m.epoch ≠ s.yrd.epoch ∨ m.yard ≠ s.yrd.yardId ∨ s.yrd.enrolled = false then receive YT.contrib m act s
  else match openAccum m.stripe m.role s with
    | (false, s1) => go s1
    | (true, s1) => receive YT.contrib m act s1

/-- SEAL (R358): the accumulator goes to the formatter. -/
def execSealStripe (m : YMsg) (s : State) : Out :=
  let act := fun (s0 : State) =>
    let s := updYrd (fun y => { y with nulls := AMap.set y.nulls m.stripe (beAt m.payload 0 4) }) s0
    match openAccum m.stripe m.role s with
    | (false, s1) => s1
    | (true, s1) =>
      match accumOf s1 m.stripe m.role with
      | none => s1
      | some a =>
        if a.isSealed then s1
        else post .fmt Src.yard 0x0005 (copyHandle a.stalls + m.stripe % 2 ^ 32 * 2 ^ 27) (updAccum m.stripe m.role (fun a => { a with isSealed := true }) s1)
  receive YT.sealStripe m act s

/-- YARD_PARITY_LAID (R358): PARITY_LAID goes to the coordinator; the accumulator has done its work. -/
def execYardParityLaid (src arg : Nat) (s : State) : Out :=
  let act := fun (s : State) =>
    let ds := bits arg 31 0
    let p := bits arg 33 32
    match s.yrd.accums.find? fun a => a.part == p && a.ds == some ds with
    | none => s
    | some a =>
      let k := ((descFor s a.stripe).map Desc.k).getD 0
      let s1 := freeAccum a (updYrd (fun y => { y with
        accums := y.accums.filter (fun b => !(b.stripe == a.stripe && b.role == a.role))
        units := y.units.filter (fun u => !(u.part == p && u.ds == ds)) ++ [⟨a.stripe, k + a.role - 1, p, ds⟩] }) s)
      toCoordinator YT.parityLaid a.stripe a.role 0xFF (be 1 p ++ be 4 ds) s1
  go (boxTake .yard src 0x0003 arg act s)

/-- PARITY_HOLDER_IDLE (R358): the Yard engine asks for the early close of the parity partition's Loft. -/
def execParityHolderIdle (part stripe : Nat) (s : State) : Out :=
  if part = s.yrd.parityPart ∧ s.yrd.enrolled = true ∧ (s.yrd.accums.any fun a => a.stripe == stripe && a.isSealed) = true then
    go (postEvent Src.yard 0x0F 0x01 false (stripe % 2 ^ 32) (post .fmt Src.yard 0x0001 (part % 4) s))
  else go s

/-! ## The coordinator and its journal (R355 to R357) -/

def stateCode : StripeSt → Nat
  | .free => 0
  | .opened => 1
  | .held => 2
  | .sealed => 3
  | .safe => 4

def stateOf : Nat → StripeSt
  | 1 => .opened
  | 2 => .held
  | 3 => .sealed
  | 4 => .safe
  | _ => .free

/-- The 128 bytes of a journal entry (R355). -/
def entryBytes (e : JEntry) : Bytes :=
  let two := e.slots.foldl (fun n (t, v) => n + v % 4 * 4 ^ t) 0
  let body := be 4 e.stripe ++ be 4 e.epoch ++ be 1 (stateCode e.st) ++ be 1 e.k ++ be 1 e.m ++ be 1 (b2n (e.standIns != [])) ++ be 4 e.gen
    ++ be 8 two ++ (List.range 4).flatMap (fun r => be 4 (e.done.foldl (fun n (i, _) => if i / 32 = r then n + 2 ^ (i % 32) else n) 0))
    ++ be 4 (e.laid.foldl (fun n (j, _) => n + 2 ^ (j - 1)) 0) ++ be 4 (e.acks.foldl (fun n (t, _) => n + 2 ^ t) 0) ++ be 4 e.ms
    ++ fit ((List.range 4).flatMap fun r => be 2 (AMap.getD e.holders (r + 1) 0)) 72
  body ++ be 4 (crc32 body)

/-- Numbers of the bits set in a word of n bits. -/
def bitSet (n v : Nat) : AMap Unit := ((List.range n).filter (bit v)).map fun i => (i, ())

/-- A journal entry from its bytes, when its CRC holds. -/
def entryParse (b : Bytes) : Option JEntry :=
  if b.length ≠ 128 ∨ beAt b 124 4 ≠ crc32 (b.take 124) then none
  else
    let two := beAt b 16 8
    let m := beAt b 10 1
    let hs := (List.range (min m 4)).map fun r => (r + 1, beAt b (52 + 2 * r) 2)
    some { stripe := beAt b 0 4, epoch := beAt b 4 4, st := stateOf (beAt b 8 1), k := beAt b 9 1, m := m, gen := beAt b 12 4,
           slots := ((List.range 32).map fun t => (t, two / 4 ^ t % 4)).filter fun x => x.2 != 0
           done := (List.range 4).flatMap fun r => ((bitSet 32 (beAt b (24 + 4 * r) 4)).map fun x => (32 * r + x.1, ()))
           laid := (bitSet 4 (beAt b 40 4)).map fun x => (x.1 + 1, ()), acks := bitSet 32 (beAt b 44 4), ms := beAt b 48 4
           holders := hs, standIns := if bit (beAt b 11 1) 0 then [(0, ())] else [] }

def setEntry (e : JEntry) (s : State) : State := updYrd (fun y => { y with journal := AMap.set y.journal e.stripe e }) s

def updEntry (stripe : Nat) (f : JEntry → JEntry) (s : State) : State :=
  match AMap.get? s.yrd.journal stripe with
  | some e => setEntry (f e) s
  | none => s

/-- Send the entry to its replicas; with none, what it reveals is sent at once. -/
def journalOut (stripe : Nat) (s : State) : State :=
  match AMap.get? s.yrd.journal stripe with
  | none => s
  | some e =>
    let rs := (replicasOf s stripe).filter fun r => !isSelf s r
    if rs = [] then each sendMsg (e.reveal ++ e.later) (setEntry { e with reveal := [], later := [], dirty := false, awaiting := [] } s)
    else
      let e1 : JEntry := { e with awaiting := rs.foldl (fun m r => AMap.set m r ()) [], reveal := e.reveal ++ e.later, later := [], dirty := false }
      each (fun r s => sendMsg (yMsg s YT.journal stripe r 0 0xFF (entryBytes e1)) s) rs (setEntry e1 s)

/-- An entry has changed: it is replicated before the messages that reveal the change (R356). The time since OPEN that it
records is not part of the model's state (log entry 3). -/
def replicate (stripe : Nat) (msgs : List YMsg) (s : State) : State :=
  let s1 := updEntry stripe (fun e => { e with later := e.later ++ msgs, dirty := true, epoch := s.yrd.epoch, ms := drawn s % 2 ^ 32 }) (drawNext s)
  match AMap.get? s1.yrd.journal stripe with
  | some e => if e.awaiting = [] then journalOut stripe s1 else s1
  | none => s1

/-- Slots of a stripe are null or done for every role. -/
def allDone (e : JEntry) : Bool :=
  (List.range e.k).all fun t =>
    AMap.getD e.slots t 0 == 2 || (AMap.getD e.slots t 0 == 1 && (List.range e.m).all fun r => mem? e.done (32 * r + t))

/-- The null slots of an entry as a map. -/
def nullMap (e : JEntry) : Nat := e.slots.foldl (fun n (t, v) => if v = 2 then n + 2 ^ t else n) 0

/-- Seal the stripe when every slot is null or done for every role. -/
def trySeal (stripe : Nat) (s : State) : State :=
  match AMap.get? s.yrd.journal stripe with
  | none => s
  | some e =>
    if e.st = .opened ∧ allDone e = true then
      let msgs := (List.range e.m).map fun r => yMsg s YT.sealStripe stripe (AMap.getD e.holders (r + 1) 0xFF) (r + 1) 0xFF (be 4 (nullMap e))
      replicate stripe msgs (setEntry { e with st := .sealed } s)
    else s

/-- Entries that this member coordinates (R355). -/
def coordinated (s : State) : Nat := s.yrd.journal.length

/-- A new OPEN entry; slots of members that are not PRESENT are null from the start in stripes from the boundary on
(R363). -/
def newEntry (s : State) (stripe : Nat) (rework : Bool) : JEntry :=
  let d := descFor s stripe
  let k := (d.map Desc.k).getD 0
  let js := rolesOf s rework stripe
  let gone := (List.range k).filter fun t => !isPresent s (slotMember s stripe t)
  { stripe := stripe, epoch := s.yrd.epoch, k := k, m := js.length, gen := (if rework then s.yrd.desc else d).elim 0 Desc.gen,
    slots := if s.yrd.boundary ≤ stripe then gone.map fun t => (t, 2) else [],
    holders := js.map fun j => (j, roleHolder s rework stripe j),
    standIns := (js.filter fun j => (rowHolders s rework stripe)[j - 1]? != some (roleHolder s rework stripe j)).map fun j => (j, ()), rework := rework }

/-- A stripe takes new slot states in OPEN, and while HELD (log entry 44). -/
def takesSlots (e : JEntry) : Bool := e.st == .opened || e.st == .held

/-- CLAIM (R355 to R357). -/
def execClaim (m : YMsg) (s : State) : Out :=
  let act := fun (s : State) =>
    let answer := fun (v : Nat) => yMsg s YT.claimAck m.stripe m.src 0 m.slot (be 1 v)
    if coordinator s m.stripe ≠ some s.yrd.member ∨ slotMember s m.stripe m.slot ≠ m.src then s
    else
      match AMap.get? s.yrd.journal m.stripe with
      | none =>
        if 2048 ≤ coordinated s then sendMsg (answer 1) s
        else
          let e := newEntry s m.stripe false
          let e1 : JEntry := { e with slots := AMap.set e.slots m.slot 1, claims := AMap.set e.claims m.slot (beAt m.payload 0 1, beAt m.payload 1 4) }
          replicate m.stripe [answer 0] (setEntry { e1 with st := .opened } s)
      | some e =>
        if takesSlots e = false ∨ AMap.getD e.slots m.slot 0 = 2 then s
        else if AMap.getD e.slots m.slot 0 = 1 then replicate m.stripe [answer 0] s
        else
          replicate m.stripe [answer 0] (setEntry
            { e with slots := AMap.set e.slots m.slot 1, claims := AMap.set e.claims m.slot (beAt m.payload 0 1, beAt m.payload 1 4) } s)
  receive YT.claim m act s

/-- A slot becomes null. -/
def nullSlot (stripe slot : Nat) (s : State) : State :=
  trySeal stripe (replicate stripe [] (updEntry stripe (fun e => { e with slots := AMap.set e.slots slot 2 }) s))

/-- WITHDRAW (R357). -/
def execWithdraw (m : YMsg) (s : State) : Out :=
  let act := fun (s : State) =>
    match AMap.get? s.yrd.journal m.stripe with
    | some e => if takesSlots e then nullSlot m.stripe m.slot s else s
    | none => s
  receive YT.withdraw m act s

/-- NULL_OK (R357). -/
def execNullOk (m : YMsg) (s : State) : Out :=
  let act := fun (s : State) =>
    match AMap.get? s.yrd.journal m.stripe with
    | some e =>
      let s1 := replied YT.nullReq m.stripe m.src s
      if takesSlots e ∧ AMap.getD e.slots m.slot 0 = 0 then nullSlot m.stripe m.slot s1 else s1
    | none => s
  receive YT.nullOk m act s

/-- CLAIMED (R357). -/
def execClaimed (m : YMsg) (s : State) : Out :=
  let act := fun (s : State) =>
    let s1 := replied YT.nullReq m.stripe m.src s
    updEntry m.stripe (fun e => if takesSlots e ∧ AMap.getD e.slots m.slot 0 = 0 then
      { e with slots := AMap.set e.slots m.slot 1, claims := AMap.set e.claims m.slot (beAt m.payload 0 1, beAt m.payload 1 4) } else e) s1
  receive YT.claimed m act s

/-- CONTRIB_DONE (R357). -/
def execContribDone (m : YMsg) (s : State) : Out :=
  let act := fun (s : State) =>
    match AMap.get? s.yrd.journal m.stripe with
    | some e =>
      if takesSlots e ∧ AMap.getD e.holders m.role 0xFF = m.src ∧ 0 < m.role then
        trySeal m.stripe (setEntry { e with done := AMap.set e.done (32 * (m.role - 1) + m.slot) () } s)
      else s
    | none => s
  receive YT.contribDone m act s

/-- Members that STRIPE_SAFE goes to: those of every data slot that are PRESENT. -/
def safeMembers (s : State) (e : JEntry) : List (Nat × Nat) :=
  ((List.range e.k).map fun t => (t, slotMember s e.stripe t)).filter fun x => isPresent s x.2

/-- PARITY_LAID (R357, R364): with every role Laid the stripe is SAFE, and stand-ins enter the ledger's list. -/
def execParityLaid (m : YMsg) (s : State) : Out :=
  let act := fun (s : State) =>
    match AMap.get? s.yrd.journal m.stripe with
    | some e =>
      if e.st ≠ .sealed ∨ AMap.getD e.holders m.role 0xFF ≠ m.src then s
      else
        let e1 : JEntry := { e with laid := AMap.set e.laid m.role () }
        if (List.range e.m).all fun r => mem? e1.laid (r + 1) then
          let msgs := (safeMembers s e1).map fun (t, i) => yMsg s YT.stripeSafe m.stripe i 0 t []
          let s1 := updYrd (fun y => { y with
            standIns := y.standIns ++ (e1.standIns.filter fun j => j.1 != 0).map fun j => (m.stripe, j.1, AMap.getD e1.holders j.1 0xFF) }) s
          replicate m.stripe msgs (inc 0x0F0100 (setEntry { e1 with st := .safe } s1))
        else setEntry e1 s
    | none => s
  receive YT.parityLaid m act s

/-- JOURNAL (R356, R362): a replica stores the entries; the coordinator that a handover names takes them as its own. -/
def execJournal (m : YMsg) (s : State) : Out :=
  let act := fun (s : State) =>
    let es := (List.range (m.payload.length / 128)).filterMap fun i => entryParse (slice m.payload (128 * i) 128)
    let put := fun (e : JEntry) (s : State) =>
      if coordinator s e.stripe = some s.yrd.member ∧ isSelf s m.src = false then
        if (AMap.get? s.yrd.journal e.stripe).isSome then s else setEntry e s
      else updYrd (fun y => { y with replicas := if e.st = .free then AMap.erase y.replicas e.stripe else AMap.set y.replicas e.stripe e }) s
    sendMsg (yMsg s YT.journalAck m.stripe m.src 0 0xFF []) (each put es s)
  receive YT.journal m act s

/-- JOURNAL_ACK (R356): with every replica's acknowledgement what the change reveals is sent. -/
def execJournalAck (m : YMsg) (s : State) : Out :=
  let act := fun (s : State) =>
    match AMap.get? s.yrd.journal m.stripe with
    | some e =>
      let s1 := replied YT.journal m.stripe m.src s
      let left := AMap.erase e.awaiting m.src
      if e.awaiting = [] then s1
      else if left ≠ [] then setEntry { e with awaiting := left } s1
      else
        let s2 := each sendMsg e.reveal (setEntry { e with awaiting := [], reveal := [] } s1)
        if e.dirty then journalOut m.stripe s2 else s2
    | none => replied YT.journal m.stripe m.src s
  receive YT.journalAck m act s

/-- CONTRIBUTION_TIMEOUT (R357): NULL_REQ to the member of every unclaimed slot. -/
def execContributionTimeout (stripe : Nat) (s : State) : Out :=
  match AMap.get? s.yrd.journal stripe with
  | some e =>
    if e.st ≠ .opened then go s
    else
      let ts := (List.range e.k).filter fun t => AMap.getD e.slots t 0 == 0
      go (each (fun t s => sendMsg (yMsg s YT.nullReq stripe (slotMember s stripe t) 0 t []) s) ts s)
  | none => go s

/-- YARD_BAD_MESSAGE (R377, R378): a CRC that fails, a foreign yard_id or an unknown type. -/
def execYardBadMessage (raw : Bytes) (s : State) : Out :=
  let bad := match msgParse raw with
    | none => true
    | some m => m.yard != s.yrd.yardId || !msgKnown m.type
  if bad then
    let d := s.fab.delivered.find? fun d => d.bytes == raw
    let s1 := updFab (fun f => { f with delivered := dropFirst (fun d => d.bytes == raw) f.delivered }) s
    go (inc 0x0F0128 (match d.bind Delivery.stall with | some (q, h) => giveBack q h s1 | none => s1))
  else go s

/-- YARD_UNKNOWN_EVENT (R379). -/
def execYardUnknownEvent (src code arg : Nat) (s : State) : Out :=
  if decide (1 ≤ code ∧ code ≤ 6) || code == 0x8001 then go s else go (boxTake .yard src code arg (inc 0x0F012C) s)

/-- YRD_MEMBER_SEL (R381): the member's map entry is sampled at the write. -/
def memberSel (value : Nat) (s : State) : State :=
  let i := bits value 5 0
  updYrd (fun y => { y with sel := i, selState := memberState s i, selHost := memberHost s i }) s

/-- YRD_MEMBER_SEL, as the row of the register (R381). -/
def execYrdMemberSel (value : Nat) (s : State) : Out := go (memberSel value s)

end Sys2Proof.Machine
end

