-- ==== Sys2Proof/Machine/YardRecon.lean ====
section
/-!
DEFINITION. The Yard (12), second part: lost units, reconstruction, rebuilds onto a replacement, parity that is reworked in
a reshape.
-/

namespace Sys2Proof.Machine

/-! ## Loss Log (R373) -/

/-- A Loss Log entry as a LEDGER message carries it: the layout of R373 in the byte order of Yard messages (R6). -/
def lossMsg (l : Loss) : Bytes :=
  be 8 l.yard ++ be 4 l.stripe ++ be 1 l.member ++ be 1 l.part ++ be 1 l.cause ++ be 1 0 ++ be 4 l.ds ++ be 4 l.count ++ be 8 l.first
    ++ be 4 l.epoch ++ be 4 l.erasures ++ fit l.serial 20 ++ zeros 4

/-- An entry for a unit that cannot be recovered, sent to every PRESENT member. The record numbers of a unit that nobody
can read are not known: free values (log entry 3). -/
def logLoss (stripe member part cause ds erasures : Nat) (s : State) : State :=
  let serial := ((s.yrd.desc.bind fun d => d.members[member]?).map Prod.fst).getD []
  let l : Loss := { yard := s.yrd.yardId, stripe := stripe, member := member, part := part, cause := cause, ds := ds,
                    count := freeAt s 0 % 2 ^ 32, first := freeAt s 1 % 2 ^ 48, epoch := s.yrd.epoch, erasures := erasures, serial := serial }
  let s1 := appendLoss Src.yard l (drawMany 2 s)
  let s2 := each (fun (x : Nat × (Nat × Nat)) s =>
    if x.2.1 = 0 ∧ isSelf s x.1 = false then sendMsg (yMsg s YT.ledger 0xFFFFFFFF x.1 0 0xFF (be 1 0 ++ lossMsg l)) s else s) s1.yrd.map s1
  if isSelf s2 member ∧ part < 4 then deferError part l.first l.count Status.recordLost s2.hq.acceptSeq s2 else s2

/-! ## Survivors and coefficients (R351, R368) -/

/-- One column of a Gauss-Jordan elimination over the field. -/
def gaussColumn (col : Nat) (rows : List (List Byte)) : List (List Byte) :=
  match (List.range rows.length).find? fun i => decide (col ≤ i) && (rows.getD i []).getD col 0 != 0#8 with
  | none => rows
  | some i =>
    let p := rows.getD i []
    let inv := gfInv (p.getD col 0)
    let piv := p.map (gfMul inv)
    let swapped := (rows.set i (rows.getD col [])).set col piv
    swapped.zipIdx.map fun (r, j) => if j = col then r else (r.zip piv).map fun (a, b) => a ^^^ gfMul (r.getD col 0) b

/-- The inverse of a square matrix. -/
def gfInverse (m : List (List Byte)) : List (List Byte) :=
  let n := m.length
  let aug := m.zipIdx.map fun (r, i) => r ++ (List.range n).map fun j => if i = j then 1#8 else 0#8
  ((List.range n).foldl (fun a c => gaussColumn c a) aug).map fun r => r.drop n

def gfSum (xs : List Byte) : Byte := xs.foldl (· ^^^ ·) 0

/-- Whether a stripe's parity is that of the new generation: it lies below the last reshape checkpoint (R376). -/
def reworked (s : State) (stripe : Nat) : Bool := decide (stripe < s.yrd.reshapePos ∧ stripe < s.yrd.reshapeBound)

def stripeK (s : State) (stripe : Nat) : Nat := ((descFor s stripe).map Desc.k).getD 0

/-- The member that holds a place of a stripe: a data slot, or a parity role at its stand-in or holder (R364). -/
def placeMember (s : State) (stripe place : Nat) : Nat :=
  let k := stripeK s stripe
  if place < k then slotMember s stripe place
  else
    let j := place - k + 1
    match s.yrd.standIns.find? fun x => x.1 == stripe && x.2.1 == j with
    | some x => x.2.2
    | none => ((rowHolders s (reworked s stripe) stripe)[j - 1]?).getD 0xFF

/-- Slots of a stripe that are known to be null. -/
def nullSlots (s : State) (stripe : Nat) : Nat :=
  match AMap.get? s.yrd.journal stripe, AMap.get? s.yrd.replicas stripe with
  | some e, _ => nullMap e
  | none, some e => nullMap e
  | none, none => AMap.getD s.yrd.nulls stripe 0

/-- Survivors for a place: the first available units in slot order, then parity roles, each with its coefficient; none
when the stripe is lost. -/
def survivorsFor (s : State) (stripe place : Nat) (erased : List Nat) : Option (List (Nat × Nat × Nat)) :=
  let k := stripeK s stripe
  let m := (rowHolders s (reworked s stripe) stripe).length
  let can := fun p => p != place && !erased.contains p && isPresent s (placeMember s stripe p)
  let data := (List.range k).filter fun t => !bit (nullSlots s stripe) t
  let have_ := data.filter can
  let miss := data.filter fun t => !can t
  let js := (((List.range m).map fun r => r + 1).filter fun j => can (k + j - 1)).take miss.length
  if js.length < miss.length then none
  else
    let w := gfInverse (js.map fun j => miss.map fun e => yardCoef m j e)
    -- w has a row for each missing slot, a column for each role taken
    let t := place - k + 1
    let v := js.zipIdx.map fun (_, c) =>
      if place < k then (w.getD (miss.idxOf place) []).getD c 0
      else gfSum (miss.zipIdx.map fun (e, r) => gfMul (yardCoef m t e) ((w.getD r []).getD c 0))
    let base := fun i => if place < k then 0#8 else yardCoef m t i
    let coef := fun i => base i ^^^ gfSum ((js.zip v).map fun (j, x) => gfMul x (yardCoef m j i))
    some ((have_.map fun i => (i, placeMember s stripe i, (coef i).toNat)) ++ (js.zip v).map fun (j, x) => (k + j - 1, placeMember s stripe (k + j - 1), x.toNat))

/-! ## Reconstruction (R368, R369, R372) -/

def setRecon (r : Recon) (s : State) : State :=
  updYrd (fun y => { y with recons := y.recons.filter (fun x => x.stripe != r.stripe) ++ [r] }) s

def dropRecon (stripe : Nat) (s : State) : State := updYrd (fun y => { y with recons := y.recons.filter fun x => x.stripe != stripe }) s

/-- A rebuilt unit is staged and announced to the formatter (R371); a parity unit goes to it as an accumulator does. -/
def stageRebuilt (r : Recon) (bytes : Bytes) (s : State) : State :=
  let k := stripeK s r.stripe
  if r.place < k then
    post .fmt Src.yard 0x0004 (r.ds % 2 ^ 32 * 2 ^ 27) (updYrd (fun y => { y with
      rebuilt := AMap.set y.rebuilt (r.part * 2 ^ 32 + r.ds) bytes
      units := y.units.filter (fun u => !(u.part == r.part && u.ds == r.ds)) ++ [⟨r.stripe, r.place, r.part, r.ds⟩] }) s)
  else
    post .fmt Src.yard 0x0005 (r.stripe % 2 ^ 32 * 2 ^ 27) (updYrd (fun y => { y with
      accums := y.accums ++ [{ stripe := r.stripe, role := r.place - k + 1, bytes := bytes, isSealed := true }] }) s)

/-- A reconstruction is complete. -/
def reconDone (r : Recon) (s : State) : State :=
  let s1 := inc 0x0F011C (dropRecon r.stripe s)
  match r.use with
  | .read => updYrd (fun y => { y with answer := some (some r.bytes) }) s1
  | .rebuild => stageRebuilt r r.bytes s1

/-- A stripe is lost (R368, R372, R373). -/
def reconLost (r : Recon) (s : State) : State :=
  let s1 := logLoss r.stripe (placeMember s r.stripe r.place) r.part 1 r.ds (r.erased.length + 1) (inc 0x0F0124 (dropRecon r.stripe s))
  match r.use with
  | .read => updYrd (fun y => { y with answer := some none }) s1
  | .rebuild => if r.place < stripeK s r.stripe then stageRebuilt r (zeros userArea) s1 else s1

/-- Choose survivors and ask them. -/
def startRecon (r : Recon) (s : State) : State :=
  match survivorsFor s r.stripe r.place r.erased with
  | none => reconLost r s
  | some sv =>
    let r1 : Recon := { r with survivors := sv, bytes := zeros userArea, seen := [] }
    if sv = [] then reconDone r1 (setRecon r1 s)
    else
      let k := stripeK s r.stripe
      let target := if r.place < k then r.place else r.place - k + 1
      each (fun (x : Nat × Nat × Nat) s =>
        let role := if x.1 < k then 0 else x.1 - k + 1
        sendMsg (yMsg s YT.rebuildReq r.stripe x.2.1 role (if x.1 < k then x.1 else 0xFF) (be 1 x.2.2 ++ be 1 target)) s) sv (setRecon r1 s)

/-- Reconstructions that lost a survivor start again with a new choice. -/
def restartRecons (s : State) : State :=
  each (fun (r : Recon) s => if r.survivors.all fun x => isPresent s x.2.1 then s else startRecon r (dropRecon r.stripe s)) s.yrd.recons s

/-- RECONSTRUCT_FOR_READ (R369): the member rebuilds its own unit; an unstriped unit or a stripe that is not SAFE fails the
rung at once. -/
def execReconstructForRead (src arg : Nat) (s : State) : Out :=
  let act := fun (s : State) =>
    let ds := bits arg 31 0
    let p := bits arg 33 32
    match s.yrd.units.find? fun u => u.part == p && u.ds == ds with
    | some u =>
      if mem? (partAt s p).safeDs ds then startRecon { stripe := u.stripe, place := u.place, part := p, ds := ds, use := .read } (updYrd (fun y => { y with answer := none }) s)
      else yardAnswers none s
    | none => yardAnswers none s
  go (boxTake .yard src 0x0004 arg act s)

/-- YARD_RECONSTRUCT_RETURN (R251): the answer of this member's own reconstruction, or what the row brings when the Yard
engine has none under way. -/
def execYardReconstructReturn (data : Option Bytes) (s : State) : Out :=
  match s.yrd.answer with
  | some a => go (yardAnswers a (updYrd (fun y => { y with answer := none }) s))
  | none => if s.yrd.recons.any fun r => r.use == .read then go s else go (yardAnswers data s)

/-- This member's unit at a place of a stripe: at hand, to be read from tape, or not to be had. -/
inductive Serve where
  | unit (b : Bytes)
  | wait (part ds : Nat)
  | fail
  deriving DecidableEq, Repr

def serveUnit (s : State) (stripe place : Nat) : Serve :=
  match s.yrd.units.find? fun u => u.stripe == stripe && u.place == place with
  | some u =>
    match unitAtHand s u.part u.ds with
    | some b => .unit b
    | none => if s.yrd.serve.contains (u.part, u.ds, true) then .fail else .wait u.part u.ds
  | none =>
    -- a null slot is an all-zero unit
    if place < stripeK s stripe ∧ mem? s.yrd.skipped stripe = true then .unit (zeros userArea) else .fail

/-- REBUILD_REQ (R368): coefficient · unit as 300 segments, or REBUILD_FAIL. While the unit is being read from tape the
request waits. -/
def execRebuildReq (m : YMsg) (s : State) : Out :=
  let place := if m.role = 0 then m.slot else stripeK s m.stripe + m.role - 1
  let clear := fun (s : State) => match s.yrd.units.find? fun u => u.stripe == m.stripe && u.place == place with
    | some u => updYrd (fun y => { y with serve := y.serve.filter fun x => !(x.1 == u.part && x.2.1 == u.ds) }) s
    | none => s
  let act := fun (s : State) =>
    match serveUnit s m.stripe place with
    | .unit b =>
      let p := scaleBytes (BitVec.ofNat 8 (beAt m.payload 0 1)) b
      each (fun i s => sendMsg { yMsg s YT.rebuildPart m.stripe m.src m.role m.slot (segment p i) with seg := i } s) (List.range 300) (clear s)
    | .wait _ _ => s
    | .fail => sendMsg (yMsg s YT.rebuildFail m.stripe m.src m.role m.slot []) (clear s)
  match serveUnit s m.stripe place with
  | .wait p ds =>
    if m.type ≠ YT.rebuildReq ∨ s.yrd.enrolled = false ∨ m.epoch ≠ s.yrd.epoch ∨ m.yard ≠ s.yrd.yardId then receive YT.rebuildReq m act s
    else if s.yrd.serve.contains (p, ds, false) then go s
    else go (wantTape p ds (updYrd (fun y => { y with serve := y.serve ++ [(p, ds, false)] }) s))
  | _ => receive YT.rebuildReq m act s

/-- Places that a message about a reconstruction names. -/
def msgPlace (s : State) (m : YMsg) : Nat := if m.role = 0 then m.slot else stripeK s m.stripe + m.role - 1

/-! ## Rebuild onto a replacement (R370 to R372) -/

/-- Erasures of a stripe: members of its places that are not PRESENT. -/
def exposureOf (s : State) (stripe : Nat) : Nat :=
  ((List.range (stripeK s stripe + (rowHolders s (reworked s stripe) stripe).length)).filter fun p => !isPresent s (placeMember s stripe p)).length

/-- The stripe of the queue to be reconstructed next: most erasures first, then the lowest index. -/
def nextExposed (s : State) : Option (Nat × Nat) :=
  s.yrd.rebuildTodo.foldl (fun best x =>
    match best with
    | none => some x
    | some b => if exposureOf s b.1 < exposureOf s x.1 ∨ (exposureOf s b.1 = exposureOf s x.1 ∧ x.1 < b.1) then some x else best) none

/-- Data set number of the i-th unit of a partition (R157, R176). -/
def unitNumber (i : Nat) : Nat := 32 * (i / 30) + i % 30

/-- The partition and data set of a lost member's unit: its units are numbered in stripe order in its lowest Yard-member
partition (log entry 47). -/
def rebuiltPlace (s : State) (stripe : Nat) : Nat × Nat :=
  let mine := (List.range stripe).filter fun st =>
    match dataSlot s st s.yrd.member with
    | some t => !bit (nullSlots s st) t
    | none => false
  (((List.range 4).find? fun p => (partAt s p).yardMember).getD 0, unitNumber mine.length)

/-- Go on with the rebuild while Yard region slots are free. -/
def rebuildStep (s : State) : State :=
  if s.yrd.rebuildActive = false ∨ (s.yrd.recons.any fun r => r.use == .rebuild) = true ∨ yardSlots s ≤ s.yrd.rebuilt.length + s.yrd.retains.length then s
  else
    match nextExposed s with
    | none => writeYardPage (updYrd (fun y => { y with rebuildActive := false, replacing := false }) s)
    | some (stripe, place) =>
      let s1 := updYrd (fun y => { y with rebuildTodo := y.rebuildTodo.filter (fun x => x != (stripe, place)), rebuildPos := stripe }) s
      let pd := if place < stripeK s stripe then rebuiltPlace s stripe else (s.yrd.parityPart, 0)
      startRecon { stripe := stripe, place := place, part := pd.1, ds := pd.2, use := .rebuild } s1

/-- REBUILD_START (R371): on the replacement of the member named; every unit and Yard parity data set of it in a stripe
below the boundary that is not still under way. -/
def execRebuildStart (src arg : Nat) (s : State) : Out :=
  let act := fun (s : State) =>
    let i := bits arg 5 0
    if s.yrd.replacing = false ∨ i ≠ s.yrd.member then s
    else
      let todo := (List.range s.yrd.boundary).filterMap fun st =>
        if (AMap.get? s.yrd.journal st).any fun e => e.st != .safe then none
        else ((List.range (stripeK s st + (rowHolders s (reworked s st) st).length)).find? fun p => placeMember s st p == i && !(decide (p < stripeK s st) && bit (nullSlots s st) p)).map fun p => (st, p)
      rebuildStep (updYrd (fun y => { y with rebuildActive := true, rebuildMember := i, rebuildTodo := todo }) s)
  go (boxTake .yard src 0x0005 arg act s)

/-- REBUILD_PART (R368). -/
def execRebuildPart (m : YMsg) (s : State) : Out :=
  let act := fun (s : State) =>
    match s.yrd.recons.find? fun r => r.stripe == m.stripe with
    | none => s
    | some r =>
      let p := msgPlace s m
      let key := 300 * p + m.seg
      if (r.survivors.any fun x => x.1 == p) = false ∨ 300 ≤ m.seg then s
      else if mem? r.seen key then inc 0x0F0114 s
      else
        let r1 : Recon := { r with bytes := addSegment r.bytes m.seg m.payload, seen := AMap.set r.seen key () }
        if r1.seen.length = 300 * r1.survivors.length then rebuildStep (reconDone r1 (setRecon r1 s)) else setRecon r1 s
  receive YT.rebuildPart m act s

/-- REBUILD_FAIL (R368). -/
def execRebuildFail (m : YMsg) (s : State) : Out :=
  let act := fun (s : State) =>
    match s.yrd.recons.find? fun r => r.stripe == m.stripe with
    | none => inc 0x0F0120 s
    | some r =>
      rebuildStep (startRecon { r with erased := r.erased ++ [msgPlace s m] } (dropRecon r.stripe (inc 0x0F0120 s)))
  receive YT.rebuildFail m act s

/-! ## Reshape (R375, R376) -/

/-- Parity of the stripe at R is reworked: the leader opens it, and this member sends its unit under the new coefficients, or
says that its slot is null. -/
def reshapeStep (s : State) : State :=
  if s.yrd.reshapeActive = false then s
  else if s.yrd.reshapeBound ≤ s.yrd.reshapeR then updYrd (fun y => { y with reshapeActive := false }) s
  else
    let r := s.yrd.reshapeR
    let s1 := if coordinator s r = some s.yrd.member ∧ (AMap.get? s.yrd.journal r).isNone then replicate r [] (setEntry (newEntry s r true) s) else s
    if s1.yrd.reshapeSent = some r then s1
    else
      match dataSlot s1 r s1.yrd.member with
      | none => updYrd (fun y => { y with reshapeSent := some r }) s1
      | some t =>
        match s1.yrd.units.find? fun u => u.stripe == r && u.place == t with
        | none => toCoordinator YT.nullOk r 0 t [] (updYrd (fun y => { y with reshapeSent := some r }) s1)
        | some u =>
          match unitAtHand s1 u.part u.ds with
          | none => wantTape u.part u.ds s1
          | some b =>
            sendPartials true r t b (toCoordinator YT.claimed r 0 t (be 1 u.part ++ be 4 u.ds) (updYrd (fun y => { y with reshapeSent := some r }) s1))

/-- RESHAPE_START (R375, R376): work begins, or resumes at the last checkpoint. -/
def execReshapeStart (src arg : Nat) (s : State) : Out :=
  let act := fun (s : State) =>
    if (s.yrd.desc.any fun d => d.gen == bits arg 31 0) && decide (s.yrd.reshapePos < s.yrd.reshapeBound) then
      reshapeStep (updYrd (fun y => { y with reshapeActive := true, reshapeR := y.reshapePos, reshapeSent := none }) s)
    else s
  go (boxTake .yard src 0x0006 arg act s)

/-- RESHAPE_CHECKPOINT (R376): after 64 more stripes the leader records R and sends it to every member. -/
def execReshapeCheckpoint (s : State) : Out :=
  if isLeader s = false ∨ s.yrd.reshapeR < s.yrd.reshapePos + 64 then go s
  else
    let s1 := writeYardPage (updYrd (fun y => { y with reshapePos := y.reshapeR }) s)
    go (each (fun (x : Nat × (Nat × Nat)) s =>
      if x.2.1 = 0 ∧ isSelf s x.1 = false then sendMsg (yMsg s YT.ledger 0xFFFFFFFF x.1 0 0xFF (be 1 2 ++ be 4 s.yrd.reshapeR)) s else s) s1.yrd.map s1)

/-! ## Stripes that become safe (R357, R359) and the repeat timer (R378) -/

/-- STRIPE_SAFE (R359): the retention copy is freed, SAFE_ACK sent, and the partition's Yard-safe level follows. -/
def execStripeSafe (m : YMsg) (s : State) : Out :=
  let act := fun (s : State) =>
    let mine := s.yrd.units.filter fun u => u.stripe == m.stripe && dataSlot s m.stripe s.yrd.member == some u.place
    let free := fun (u : YUnit) (s : State) =>
      refreshLaid u.part (updPart u.part (fun x => { x with safeDs := AMap.set x.safeDs u.ds () }) (dropRetain u.part u.ds s))
    let s1 := each free mine (updYrd (fun y => { y with claims := y.claims.filter fun c => c.stripe != m.stripe }) s)
    let s2 := if reworking s1 m.stripe then updYrd (fun y => { y with reshapeR := max y.reshapeR (m.stripe + 1) }) s1 else s1
    reshapeStep (claimUnstriped (sendMsg (yMsg s2 YT.safeAck m.stripe m.src 0 ((dataSlot s2 m.stripe s2.yrd.member).getD 0xFF) []) s2))
  receive YT.stripeSafe m act s

/-- SAFE_ACK (R357): with every PRESENT data member's acknowledgement the entry is retired. -/
def execSafeAck (m : YMsg) (s : State) : Out :=
  let act := fun (s : State) =>
    match AMap.get? s.yrd.journal m.stripe with
    | some e =>
      let s1 := replied YT.stripeSafe m.stripe m.src s
      if e.st ≠ .safe then s1
      else
        let e1 : JEntry := { e with acks := AMap.set e.acks m.slot () }
        if (safeMembers s1 e1).all fun x => mem? e1.acks x.1 then
          let s2 := updYrd (fun y => { y with journal := AMap.erase y.journal m.stripe, reshapeR := if e.rework then max y.reshapeR (m.stripe + 1) else y.reshapeR }) s1
          reshapeStep (each (fun r s => sendOnce (yMsg s YT.journal m.stripe r 0 0xFF (entryBytes { e1 with st := .free })) s)
            ((replicasOf s2 m.stripe).filter fun r => !isSelf s2 r) s2)
        else setEntry e1 s1
    | none => s
  receive YT.safeAck m act s

/-- YARD_REPEAT_TIMER (R349, R378): messages still awaiting their reply are sent again. -/
def execYardRepeatTimer (s : State) : Out := go (reshapeStep (rebuildStep (claimUnstriped (each sendOnce s.yrd.awaitReply s))))

end Sys2Proof.Machine
end

