-- ==== Sys2Proof/Machine/YardEpoch.lean ====
section
/-!
DEFINITION. The Yard (12), third part: epochs, their proposal and adoption, what a new epoch does to stripes, members that
join and leave, the ledger and the descriptor's copies.
-/

namespace Sys2Proof.Machine

/-! ## Epoch records (R361, R378) -/

/-- An epoch record as EPOCH_PROPOSE and EPOCH_COMMIT carry it. -/
def recBytes (r : EpochRec) : Bytes :=
  be 4 r.epoch ++ be 4 r.boundary ++ be 4 r.gen
    ++ (List.range 64).flatMap fun i => let x := (AMap.get? r.map i).getD (3, 0); be 4 (x.1 * 2 ^ 30 + x.2 % 65536)

def recParse (leader : Nat) (b : Bytes) : EpochRec :=
  { epoch := beAt b 0 4, boundary := beAt b 4 4, gen := beAt b 8 4, leader := leader,
    map := ((List.range 64).map fun i => let v := beAt b (12 + 4 * i) 4; (i, bits v 31 30, bits v 15 0)).filter fun x => x.2.1 != 3 }

/-- The current epoch's record. -/
def currentRec (s : State) : EpochRec :=
  s.yrd.history.getLast?.getD ⟨s.yrd.epoch, s.yrd.boundary, (s.yrd.desc.map Desc.gen).getD 0, s.yrd.member, s.yrd.map⟩

/-- The highest stripe that this member has claimed or whose journal it knows. -/
def highestKnown (s : State) : Option Nat :=
  let js := (s.yrd.journal.map Prod.fst) ++ (s.yrd.replicas.map Prod.fst)
  js.foldl (fun m x => some (match m with | some y => max x y | none => x)) s.yrd.highClaim

/-! ## Starting a change (R361) -/

/-- The member map after the changes wanted. -/
def wantedMap (m : AMap (Nat × Nat)) (ws : List Want) : AMap (Nat × Nat) := ws.foldl (fun m w => AMap.set m w.member (w.state, w.host)) m

/-- Step 1: STATE_QUERY to every reachable member. -/
def startChange (s : State) : State :=
  if s.yrd.change.isSome ∨ s.yrd.wants = [] ∨ hasQuorum s = false then s
  else
    let s1 := updYrd (fun y => { y with change := some { highest := highestKnown s, wants := y.wants } }) s
    each (fun (x : Nat × (Nat × Nat)) s =>
      if memberReachable s x.1 ∧ isSelf s x.1 = false ∧ x.2.1 < 2 then sendMsg (yMsg s YT.stateQuery 0xFFFFFFFF x.1 0 0xFF []) s else s) s1.yrd.map s1

/-- A change of one member is wanted. -/
def want (w : Want) (s : State) : State := startChange (updYrd (fun y => { y with wants := y.wants ++ [w] }) s)

/-! ## What a new epoch does (R362 to R366, R372) -/

/-- A slot of a stripe that is claimed and not done for every role. -/
def unfinished (e : JEntry) (t : Nat) : Bool := AMap.getD e.slots t 0 == 1 && !((List.range e.m).all fun r => mem? e.done (32 * r + t))

/-- Role j of an entry passes to a holder; its done map and laid bit are cleared. -/
def reassign (s : State) (j : Nat) (e : JEntry) : JEntry :=
  let h := roleHolder s e.rework e.stripe j
  { e with
    holders := AMap.set e.holders j h
    done := e.done.filter fun x => x.1 / 32 != j - 1
    laid := AMap.erase e.laid j
    standIns := if (rowHolders s e.rework e.stripe)[j - 1]? = some h then AMap.erase e.standIns j else AMap.set e.standIns j ()
    st := if e.st = .sealed then .opened else e.st }

/-- An entry under a new member map. -/
def reassess (stripe : Nat) (s : State) : State :=
  match AMap.get? s.yrd.journal stripe with
  | none => s
  | some e =>
    if e.st = .safe ∨ e.st = .free then s
    else
      let gone := fun j => if e.st = .sealed then !isPresent s (AMap.getD e.holders j 0xFF)
        else AMap.getD e.holders j 0xFF != roleHolder s e.rework stripe j
      let e1 := ((List.range e.m).filter fun r => gone (r + 1)).foldl (fun e r => reassign s (r + 1) e) e
      let stOf := fun t => memberState s (slotMember s stripe t)
      let ts := List.range e.k
      let lost := ts.filter fun t => stOf t == 2 && AMap.getD e1.slots t 0 != 2 && (AMap.getD e1.slots t 0 == 0 || unfinished e1 t)
      let nulls := lost ++ ts.filter fun t => stOf t != 0 && AMap.getD e1.slots t 0 == 0 && decide (s.yrd.boundary ≤ stripe)
      let e2 : JEntry := { e1 with slots := nulls.foldl (fun m t => AMap.set m t 2) e1.slots }
      let held := ts.any fun t => stOf t == 1 && unfinished e2 t
      let e3 : JEntry := { e2 with st := if e2.st = .sealed then .sealed else if held then .held else .opened }
      let s1 := each (fun t s =>
        if unfinished e1 t then
          let c := AMap.getD e1.claims t (0, 0)
          logLoss stripe (slotMember s stripe t) c.1 2 c.2 0 s
        else s) lost s
      trySeal stripe (replicate stripe [] (setEntry { e3 with awaiting := [] } s1))

/-- An entry goes to the member that coordinates its stripe from now on (R362). -/
def journalHandOver (stripe : Nat) (s : State) : State :=
  match AMap.get? s.yrd.journal stripe, coordinator s stripe with
  | some e, some c =>
    if isSelf s c then s
    else
      let s1 := updYrd (fun y => { y with
        journal := AMap.erase y.journal stripe
        replicas := if (replicasOf s stripe).contains s.yrd.member then AMap.set y.replicas stripe e else y.replicas }) s
      sendMsg (yMsg s1 YT.journal stripe c 0 0xFF (entryBytes e)) s1
  | _, _ => s

/-- A replica becomes coordinator and carries on from its copy (R366). -/
def takeOver (stripe : Nat) (s : State) : State :=
  match AMap.get? s.yrd.replicas stripe, coordinator s stripe with
  | some e, some c =>
    if isSelf s c ∧ (AMap.get? s.yrd.journal stripe).isNone then
      setEntry { e with awaiting := [], reveal := [], later := [] } (updYrd (fun y => { y with replicas := AMap.erase y.replicas stripe }) s)
    else s
  | _, _ => s

/-- The slot state of this member in a stripe: claimed, or null once skipped, withdrawn or passed over. -/
def ownSlotState (s : State) (stripe : Nat) : Nat :=
  if (s.yrd.claims.any fun c => c.stripe == stripe) || (s.yrd.units.any fun u => u.stripe == stripe) then 1
  else if mem? s.yrd.skipped stripe || s.yrd.highClaim.any (fun h => decide (stripe ≤ h)) then 2
  else 0

/-- Coordinator and replicas of a stripe are lost: the new coordinator opens it again and asks its row (R366). -/
def rebuildEntry (stripe : Nat) (s : State) : State :=
  match descFor s stripe with
  | none => s
  | some d =>
    let e0 := newEntry s stripe false
    let e : JEntry := match dataSlot s stripe s.yrd.member with
      | some t => { e0 with slots := AMap.set e0.slots t (ownSlotState s stripe) }
      | none => e0
    let s1 := updYrd (fun y => { y with accums := y.accums.filter fun a => a.stripe != stripe || a.isSealed }) (setEntry e s)
    each (fun i s => if isSelf s i then s else sendMsg (yMsg s YT.stateQuery stripe i 0 0xFF []) s) ((d.row stripe).filter (isPresent s)) s1

/-- Stripes of this member that it now coordinates without an entry, all journal holders of the last epoch being gone. -/
def orphanStripes (old s : State) : List Nat :=
  ((s.yrd.claims.map Claim.stripe) ++ (s.yrd.accums.map Accum.stripe)).eraseDups.filter fun st =>
    coordinator s st == some s.yrd.member && (AMap.get? s.yrd.journal st).isNone
      && !((coordinator old st).toList ++ replicasOf old st).any (isPresent s)

/-- The member's own claims under the new roles (R360): unacknowledged claims are sent again; partial products go to
holders that have changed in full, and to the others where they were NACKed. -/
def resend (old : State) (c : Claim) (s : State) : State :=
  if c.acked = false then
    match coordinator s c.stripe with
    | some d => sendMsg (yMsg s YT.claim c.stripe d 0 c.slot (be 1 c.part ++ be 4 c.ds)) s
    | none => s
  else if c.sent = false then s
  else
    match s.yrd.retains.find? fun r => r.part == c.part && r.ds == c.ds with
    | none => s
    | some r =>
      let js := rolesOf s false c.stripe
      each (fun j s =>
        let segs := if roleHolder old false c.stripe j ≠ roleHolder s false c.stripe j then List.range 300
          else (s.yrd.nacked.filter fun n => n.1 == c.stripe && n.2.1 == j).map fun n => n.2.2
        sendSegments false c.stripe c.slot j js.length r.user segs (addCtr 0x0F0110 segs.length s)) js s

/-- This member returns: a claim whose unit it can no longer give is void (R363). -/
def voidClaims (old : State) (s : State) : State :=
  if isPresent old s.yrd.member ∨ isPresent s s.yrd.member = false then s
  else
    let bad := s.yrd.claims.filter fun c => (unitAtHand s c.part c.ds).isNone
      && !((s.wrv.images ++ s.wrv.placements.map Placement.img).any fun i => i.part == c.part && i.ds == c.ds)
    each (fun (c : Claim) s => withdrawClaim c.part c.ds s) bad s

/-- Commands whose change the new map holds complete with the new epoch (R380). -/
def finishWants (r : EpochRec) (s : State) : State :=
  let met := fun (w : Want) => if w.member = 0xFF then w.state == r.gen else AMap.get? r.map w.member == some (w.state, w.host)
  let cmds := (s.yrd.wants.filter met).filterMap Want.cmd
  each (fun q s => complete q Status.ok r.epoch s) cmds (updYrd (fun y => { y with wants := y.wants.filter fun w => !met w }) s)

/-- The reshape that a committed record brings: the new generation from its boundary on (R374). -/
def takeGeneration (r : EpochRec) (s : State) : State :=
  match s.yrd.nextDesc, s.yrd.desc with
  | some d, some o =>
    if d.gen = r.gen ∧ o.gen < r.gen then
      updYrd (fun y => { y with
        desc := some d, nextDesc := none, oldDescs := y.oldDescs ++ [(r.boundary, o)], wantGen := d.gen, wantDigest := sha384 d.raw,
        reshapeBound := r.boundary, reshapePos := 0, reshapeR := 0, reshapeSent := none }) s
    else s
  | _, _ => s

/-- Members act on a commit: ledger, Yard page, then the new roles. -/
def adoptEpoch (r : EpochRec) (s : State) : State :=
  if r.epoch ≤ s.yrd.epoch then s
  else
    let s1 := updYrd (fun y => { y with
      epoch := r.epoch, boundary := r.boundary, map := r.map, history := y.history ++ [r], adopted := none, change := none, awaitReply := [] }) s
    let s2 := writeYardPage (inc 0x0F0118 (takeGeneration r s1))
    let s3 := each journalHandOver (s2.yrd.journal.map Prod.fst) s2
    let s4 := each takeOver (s3.yrd.replicas.map Prod.fst) s3
    let s5 := each reassess (s4.yrd.journal.map Prod.fst) s4
    let s6 := each rebuildEntry (orphanStripes s s5) s5
    let keep := fun (a : Accum) => a.isSealed || roleHolder s6 (reworking s6 a.stripe) a.stripe a.role == s6.yrd.member
    let s7 := each freeAccum (s6.yrd.accums.filter fun a => !keep a) (updYrd (fun y => { y with accums := y.accums.filter keep }) s6)
    let s8 := updYrd (fun y => { y with nacked := [] }) (each (resend s) s7.yrd.claims s7)
    let held := s8.yrd.heldMsgs
    let s9 := updFab (fun f => { f with delivered := f.delivered ++ (held.filter fun m => decide (m.epoch ≤ r.epoch)).map fun m => ⟨msgBytes m, none⟩ })
      (updYrd (fun y => { y with heldMsgs := held.filter fun m => decide (r.epoch < m.epoch) }) s8)
    startChange (finishWants r (restartRecons (voidClaims s s9)))

/-! ## The change's messages (R361) -/

/-- STATE_QUERY (R361, R366): the highest claim; for a stripe, this member's slot state, and the stripe starts over here:
accumulators are discarded and partial products sent again. -/
def execStateQuery (m : YMsg) (s : State) : Out :=
  let act := fun (s : State) =>
    if m.stripe = 0xFFFFFFFF then
      sendMsg (yMsg s YT.stateReply 0xFFFFFFFF m.src 0 0xFF (be 4 (s.yrd.highClaim.getD 0xFFFFFFFF))) s
    else
      let t := dataSlot s m.stripe s.yrd.member
      let word := match t with | some t => ownSlotState s m.stripe * 4 ^ t | none => 0
      let s1 := sendMsg (yMsg s YT.stateReply m.stripe m.src 0 (t.getD 0xFF) (be 8 word)) s
      let s2 := each freeAccum (s1.yrd.accums.filter fun a => a.stripe == m.stripe && !a.isSealed)
        (updYrd (fun y => { y with accums := y.accums.filter fun a => a.stripe != m.stripe || a.isSealed }) s1)
      match s2.yrd.claims.find? fun c => c.stripe == m.stripe && c.sent with
      | some c =>
        match s2.yrd.retains.find? fun r => r.part == c.part && r.ds == c.ds with
        | some r => sendPartials false c.stripe c.slot r.user (addCtr 0x0F0110 (300 * (rolesOf s2 false c.stripe).length) s2)
        | none => s2
      | none => s2
  receive YT.stateQuery m act s

/-- STATE_REPLY (R361, R366). -/
def execStateReply (m : YMsg) (s : State) : Out :=
  let act := fun (s : State) =>
    if m.stripe = 0xFFFFFFFF then
      let h := beAt m.payload 0 4
      updYrd (fun y => { y with change := y.change.map fun c =>
        if c.proposed.isSome ∨ h = 0xFFFFFFFF then c else { c with highest := some (match c.highest with | some x => max x h | none => h) } }) s
    else
      match AMap.get? s.yrd.journal m.stripe with
      | none => s
      | some e =>
        if takesSlots e = false ∨ 32 ≤ m.slot then s
        else
          let v := beAt m.payload 0 8 / 4 ^ m.slot % 4
          trySeal m.stripe (replicate m.stripe [] (setEntry { e with slots := AMap.set e.slots m.slot v } s))
  receive YT.stateReply m act s

/-- Members that a proposal or commit goes to. -/
def audience (s : State) (r : EpochRec) : List Nat :=
  let s1 := updYrd (fun y => { y with map := wantedMap y.map (r.map.map fun x => ⟨x.1, x.2.1, x.2.2, none⟩) }) s
  (s1.yrd.map.filter fun x => memberReachable s1 x.1 && !isSelf s1 x.1 && decide (x.2.1 < 2)).map Prod.fst

/-- Send a record to its audience by the hosts that it names. -/
def announce (type : Nat) (r : EpochRec) (s : State) : State :=
  each (fun i s =>
    let host := ((AMap.get? r.map i).map Prod.snd).getD (memberHost s i)
    if host = 0 then s else fabSend host (channelOf type) (msgBytes (yMsg s type 0xFFFFFFFF i 0 0xFF (recBytes r))) s) (audience s r) s

/-- Adoptions make a quorum: more than half of the members not LOST. -/
def adopted (s : State) (c : Change) : Bool := decide ((s.yrd.map.filter fun x => x.2.1 < 2).length < 2 * c.adopts.length)

/-- Step 4: EPOCH_COMMIT once ADOPTs reach a quorum. -/
def tryCommit (s : State) : State :=
  match s.yrd.change with
  | none => s
  | some c =>
    match c.proposed with
    | none => s
    | some r => if adopted s c then adoptEpoch r (announce YT.epochCommit r s) else s

/-- STATE_QUERY_DEADLINE (R361): step 2, the proposal. -/
def execStateQueryDeadline (s : State) : Out :=
  match s.yrd.change with
  | none => go s
  | some c =>
    if c.proposed.isSome then go s
    else
      let b := max s.yrd.boundary (match c.highest, highestKnown s with
        | some x, some y => max x y + 1
        | some x, none => x + 1
        | none, some y => y + 1
        | none, none => 0)
      let g := ((if c.wants.any fun w => w.member = 0xFF then s.yrd.nextDesc else s.yrd.desc).map Desc.gen).getD 0
      let r : EpochRec := ⟨s.yrd.epoch + 1, b, g, s.yrd.member, wantedMap s.yrd.map (c.wants.filter fun w => w.member != 0xFF)⟩
      let s1 := updYrd (fun y => { y with
        change := some { c with proposed := some r, adopts := [(y.member, ())] }, adopted := some (r.epoch, y.member) }) s
      go (tryCommit (announce YT.epochPropose r s1))

/-- EPOCH_PROPOSE (R361). -/
def execEpochPropose (m : YMsg) (s : State) : Out :=
  let act := fun (s : State) =>
    let r := recParse m.src m.payload
    let refused := s.yrd.adopted.any fun (e, l) => e == r.epoch && decide (l < m.src)
    if r.epoch ≠ s.yrd.epoch + 1 ∨ refused = true then s
    else sendMsg (yMsg s YT.adopt 0xFFFFFFFF m.src 0 0xFF []) (updYrd (fun y => { y with adopted := some (r.epoch, m.src) }) s)
  receive YT.epochPropose m act s

/-- ADOPT (R361). -/
def execAdopt (m : YMsg) (s : State) : Out :=
  let act := fun (s : State) =>
    match s.yrd.change with
    | some c =>
      if c.proposed.isSome then tryCommit (updYrd (fun y => { y with change := some { c with adopts := AMap.set c.adopts m.src () } }) s) else s
    | none => s
  receive YT.adopt m act s

/-- EPOCH_COMMIT (R361). -/
def execEpochCommit (m : YMsg) (s : State) : Out := receive YT.epochCommit m (adoptEpoch (recParse m.src m.payload)) s

/-- EPOCH_PROPOSAL_TIMEOUT (R361): the proposal is abandoned; its commands find no quorum (R380). -/
def execEpochProposalTimeout (s : State) : Out :=
  match s.yrd.change with
  | none => go s
  | some c =>
    if c.proposed.isNone then go s
    else
      let s1 := updYrd (fun y => { y with change := none, wants := y.wants.filter fun w => w.cmd.isNone }) s
      go (each (fun q s => complete q Status.notReady 0 s) (s.yrd.wants.filterMap Want.cmd) s1)

/-- EPOCH_REQ (R360). -/
def execEpochReq (m : YMsg) (s : State) : Out :=
  receive YT.epochReq m (fun s => if s.yrd.epoch = 0 then s else sendMsg (yMsg s YT.epochCommit 0xFFFFFFFF m.src 0 0xFF (recBytes (currentRec s))) s) s

/-- NACK (R360): the newer epoch is fetched; a contribution segment that was rejected is sent again after it. -/
def execNack (m : YMsg) (s : State) : Out :=
  let act := fun (s : State) =>
    let t := beAt m.payload 0 1
    let e := beAt m.payload 1 4
    let s1 := if t = YT.contrib then updYrd (fun y => { y with nacked := y.nacked ++ [(m.stripe, m.role, m.seg)] }) s else s
    if s.yrd.epoch < e then sendMsg (yMsg s1 YT.epochReq 0xFFFFFFFF m.src 0 0xFF []) s1
    else
      match s1.yrd.claims.find? fun c => c.stripe == m.stripe with
      | some c => updYrd (fun y => { y with nacked := [] }) (resend s1 c s1)
      | none => s1
  receive YT.nack m act s

/-- EPOCH_HOLD_EXPIRY (R360): the message held longest is discarded. -/
def execEpochHoldExpiry (s : State) : Out := go (updYrd (fun y => { y with heldMsgs := y.heldMsgs.drop 1 }) s)

/-! ## Members that come and go (R363, R365, R367) -/

/-- REACHABILITY_CHANGED (R379). -/
def execReachabilityChanged (src arg : Nat) (s : State) : Out :=
  let n := bits arg 15 0
  let act := updYrd fun y => { y with reachable := if bit arg 16 then AMap.set y.reachable n () else AMap.erase y.reachable n }
  go (boxTake .yard src 0x8001 arg act s)

/-- MEMBER_DEAD (R361). -/
def execMemberDead (member : Nat) (s : State) : Out :=
  if isLeader s ∧ isPresent s member = true ∧ memberReachable s member = false then go (want { member := member, state := 1, host := memberHost s member } s)
  else go s

/-- JOIN (R363, R365, R367): a member of the descriptor that is not LOST is restored as PRESENT by the leader. -/
def execJoin (m : YMsg) (s : State) : Out :=
  let act := fun (s : State) =>
    let serial := slice m.payload 0 20
    let host := beAt m.payload 20 4 % 65536
    match s.yrd.desc.bind fun d => (List.range d.n).find? fun i => (d.members[i]?).any fun x => x.1 == serial with
    | none => s
    | some i => if isLeader s ∧ memberState s i ≠ 2 ∧ isSelf s i = false then want { member := i, state := 0, host := host } s else s
  receive YT.join m act s

/-- JOIN goes to the leader; while none is known, to every node that the fabric reaches (log entry 45). -/
def sendJoin (s : State) : State :=
  let pay := fit s.cart.serial 20 ++ be 4 (nodeId s)
  let other := (s.yrd.map.find? fun x => x.2.1 == 0 && !isSelf s x.1 && memberReachable s x.1).map Prod.fst
  match other with
  | some l => sendMsg (yMsg s YT.join 0xFFFFFFFF l 0 0xFF pay) s
  | none => each (fun (x : Nat × Unit) s => fabSend x.1 0 (msgBytes (yMsg s YT.join 0xFFFFFFFF 0xFF 0 0xFF pay)) s) s.fab.reach s

/-- A member cartridge is loaded (R345, R346, R365): its page is read, its descriptor checked or asked for, its host told. -/
def yardLoad (s : State) : State :=
  match yardPageInUse s with
  | none => updYrd (fun y => { y with enrolled := false }) s
  | some b =>
    if bit (beAt b 3 1) 0 = false then updYrd (fun y => { y with enrolled := false }) s
    else
      let digest := slice b 20 48
      let gen := beAt b 16 4
      let have_ := s.yrd.desc.any fun d => d.gen == gen && sha384 d.raw == digest
      let map := ((List.range 64).map fun i => let v := beAt b (136 + 4 * i) 4; (i, bits v 31 30, bits v 15 0)).filter fun x => x.2.1 != 3
      let newer := decide (s.yrd.yardId = beAt b 8 8 ∧ beAt b 68 4 < s.yrd.epoch)
      let s1 := updYrd (fun y => { y with
        enrolled := true, member := beAt b 1 1, parityPart := beAt b 2 1, replacing := bit (beAt b 3 1) 1, declaredLost := bit (beAt b 3 1) 2,
        pageSeq := beAt b 4 4, yardId := beAt b 8 8, wantGen := gen, wantDigest := digest, desc := if have_ then y.desc else none,
        descMismatch := y.descMismatch || !have_, epoch := if newer then y.epoch else beAt b 68 4, boundary := if newer then y.boundary else beAt b 72 4,
        map := if newer then y.map else map, reshapePos := beAt b 76 4, rebuildPos := beAt b 132 4 }) s
      let s2 := if have_ then s1
        else match (s1.yrd.map.find? fun x => x.2.1 == 0 && !isSelf s1 x.1).map Prod.fst with
          | some i => sendMsg (yMsg s1 YT.descReq 0xFFFFFFFF i 0 0xFF []) s1
          | none => s1
      if AMap.get? s2.yrd.map s2.yrd.member = some (0, nodeId s2) then s2 else sendJoin s2

/-- A member cartridge is unloaded (R367): it becomes ABSENT with host 0 through the next epoch. -/
def yardUnload (s : State) : State :=
  if s.yrd.enrolled then want { member := s.yrd.member, state := 1, host := 0 } s else s

/-! ## Descriptor and ledger (R346, R373, R376) -/

/-- DESC_REQ (R346). -/
def execDescReq (m : YMsg) (s : State) : Out :=
  let act := fun (s : State) =>
    match s.yrd.desc with
    | none => s
    | some d => each (fun i s => sendMsg { yMsg s YT.descPart 0xFFFFFFFF m.src 0 0xFF (segment d.raw i) with seg := i } s) [0, 1, 2] s
  receive YT.descReq m act s

/-- DESC_PART (R346): once whole, the descriptor is held if its digest is that of the Yard page. -/
def execDescPart (m : YMsg) (s : State) : Out :=
  let act := fun (s : State) =>
    let parts := AMap.set s.yrd.descParts m.seg m.payload
    match AMap.get? parts 0, AMap.get? parts 1, AMap.get? parts 2 with
    | some a, some b, some c =>
      let raw := a ++ b ++ c
      let d := Desc.parse raw
      let ok := sha384 raw == s.yrd.wantDigest && d.gen == s.yrd.wantGen && raw.length == descBytes
      updYrd (fun y => { y with descParts := [], desc := if ok then some d else y.desc }) s
    | _, _, _ => updYrd (fun y => { y with descParts := parts }) s
  receive YT.descPart m act s

/-- A Loss Log entry from its 64 bytes in a Yard message, the most significant byte of each field first (R6, R373). -/
def lossParse (b : Bytes) : Loss :=
  { yard := beAt b 0 8, stripe := beAt b 8 4, member := beAt b 12 1, part := beAt b 13 1, cause := beAt b 14 1, ds := beAt b 16 4,
    count := beAt b 20 4, first := beAt b 24 8, epoch := beAt b 32 4, erasures := beAt b 36 4, serial := slice b 40 20 }

/-- LEDGER (R373, R376). The payload's layout is not given: byte 0 is 0 for Loss Log entries, 1 for stand-ins of 6 bytes, 2
for a reshape checkpoint (log entry 46). -/
def execLedger (m : YMsg) (s : State) : Out :=
  let act := fun (s : State) =>
    let b := m.payload.drop 1
    match beAt m.payload 0 1 with
    | 0 =>
      each (fun i s =>
        let l := lossParse (slice b (64 * i) 64)
        if s.shd.lossLog.contains l then s
        else
          let s1 := appendLoss Src.yard l s
          if l.member = s.yrd.member ∧ l.part < 4 then deferError l.part l.first l.count Status.recordLost s1.hq.acceptSeq s1 else s1)
        (List.range (b.length / 64)) s
    | 1 =>
      updYrd (fun y => { y with standIns := y.standIns ++ ((List.range (b.length / 6)).map fun i =>
        (beAt b (6 * i) 4, beAt b (6 * i + 4) 1, beAt b (6 * i + 5) 1)).filter fun x => !y.standIns.contains x }) s
    | _ => writeYardPage (updYrd (fun y => { y with reshapePos := beAt b 0 4, reshapeR := max y.reshapeR (beAt b 0 4) }) s)
  receive YT.ledger m act s

end Sys2Proof.Machine
end

