-- ==== Sys2Proof/Machine/Load.lean ====
section
/-!
DEFINITION. LOAD (06, 11): cartridge memory and tape directory rebuilt, the scan forward from end of data, the open Loft,
Sheltered packets of the cartridge put back ahead of new writes.
-/

namespace Sys2Proof.Machine

def updCart (f : Cart → Cart) (s : State) : State := { s with cart := f s.cart }

/-! ## Cartridge memory (R156, R162, R163, R167) -/

/-- Data set positions of a wrap (R150). -/
def positionsOf (cls : Nat) (sp : List (Nat × Nat × Bool)) (first : Bool) : Nat :=
  let b := wrapBegin sp first
  if sp = [] then (regionU - b) / pitchU cls else countPos cls sp (regionU / pitchU 0 + 1) b

/-- Whether a wrap is the first of a partition of a table of first wraps and counts. -/
def isFirstWrap (table : List (Nat × Nat)) (w : Nat) : Bool := table.any fun t => t.1 == w && decide (0 < t.2)

/-- A Zone Table at class B. -/
def plainZone (table : List (Nat × Nat)) : AMap (Nat × Bool × Bool × Nat × Nat) :=
  (List.range 192).map fun w => (w, 1, false, false, 0, positionsOf 1 [] (isFirstWrap table w))

/-- Positions of a partition: the sum over its wraps (R158). -/
def sumPositions (s : State) (x : Part) : Nat := (List.range x.wraps).foldl (fun n i => n + wrapPositions s (x.firstWrap + i)) 0

def countPositions (s : State) : State := each (fun p s => updPart p (fun x => { x with positions := sumPositions s x }) s) [0, 1, 2, 3] s

/-- A cartridge never formatted is one partition of 192 wraps at class B (R156). -/
def blankCart (s : State) : State :=
  let s1 := updCart (fun c => { c with zone := plainZone [(0, 192)], spans := [], formatState := 0 }) s
  countPositions (newParts [(0, { wraps := 192, originSerial := s.cart.serial })] s1)

/-- Take the fields of a control block. -/
def takeControl (copyB : Bool) (b : Bytes) (s : State) : State :=
  updCart (fun c => { c with
    cbSeq := beAt b 0 4, cbCopyB := copyB, formatState := beAt b 4 1, clean := bit (beAt b 5 1) 0, dirBNewer := bit (beAt b 5 1) 1,
    writePass := beAt b 6 2, loadCount := beAt b 8 4 + 1, formatCount := beAt b 12 4 }) s

/-- Zone Table and keep-out lists of cartridge memory, each where its CRC holds. -/
def memZone (s : State) (b : Bytes) : Option (AMap (Nat × Bool × Bool × Nat × Nat)) :=
  let z := cmRead s 0x0800 1536
  if crc32 z = beAt b 24 4 then some (parseZone z) else none

def memSpans (s : State) (b : Bytes) : Option (AMap (List (Nat × Nat × Bool))) :=
  let k := cmRead s 0x4000 32768
  if crc32 k = beAt b 28 4 then some (parseSpans k) else none

/-- The newer directory copy of a partition that can be read and is of a write pass. -/
def tapeDirectory (scan : List ScanItem) (p pass : Nat) : Option DirRead :=
  let found := scan.filterMap fun
    | .directory q _ (some b) => if q = p then (directoryParse b).bind fun d => if d.part = p ∧ (pass = 0 ∨ d.writePass = pass) then some d else none else none
    | _ => none
  (sortBy (fun d => d.dir.seq) found).getLast?

/-- Cartridge memory and, where a page of it fails, the directory of partition 0. -/
def readCart (scan : List ScanItem) (s0 : State) : State :=
  let s := updCart (fun c => { c with serial := cmRead s0 0 20 }) s0
  let dir := tapeDirectory scan 0 0
  match controlInUse s with
  | some (copyB, b) =>
    let s1 := takeControl copyB b s
    if s1.cart.formatState = 0 then blankCart s1
    else
      let table := (List.range 4).map fun i => partParse (slice b (256 + 128 * i) 128)
      let plain := plainZone (table.map fun x => (x.firstWrap, x.wraps))
      let s2 := updCart (fun c => { c with
        zone := ((memZone s b).or (dir.map DirRead.zone)).getD plain
        spans := ((memSpans s b).or (dir.map DirRead.spans)).getD [] }) s1
      countPositions (newParts (table.zipIdx.map fun (x, i) => (i, x)) s2)
  | none =>
    match dir with
    | some d =>
      let s1 := updCart (fun c => { c with zone := d.zone, spans := d.spans, writePass := d.writePass, formatState := 1, clean := false, loadCount := 1 }) s
      countPositions (newParts (d.table.zipIdx.map fun (x, i) => (i, x)) s1)
    | none => blankCart s

/-! ## The directory at LOAD (R167) -/

/-- A place along a partition, so that a later one is greater. -/
def placeRank (wrap frame : Nat) : Nat := wrap * 2 ^ 32 + if reverseWrap wrap then 11900000 - frame else frame

/-- Positions of a partition up to a place. -/
def positionsTo (s : State) (p wrap frame : Nat) : Nat :=
  let x := partAt s p
  let before := (List.range (wrap - x.firstWrap)).foldl (fun n i => n + wrapPositions s (x.firstWrap + i)) 0
  let sp := spansOf s wrap
  let begun := (List.range (wrapPositions s wrap)).takeWhile fun i =>
    (nthPos (wrapClass s wrap) sp i (wrapBegin sp (wrap == x.firstWrap))).any fun (a, len) =>
      decide (placeRank wrap (frameOf (clockOf wrap (a + len))) ≤ placeRank wrap frame)
  before + begun.length

/-- A partition takes a later end of data. -/
def takeEod (p : Nat) (e : Eod) (s : State) : State :=
  let x := partAt s p
  if placeRank e.wrap e.frame ≤ placeRank x.eodWrap (frameOf x.eodClock) then s
  else
    updPart p (fun x => { x with
      eodDs := max x.eodDs e.ds, nextDs := max x.nextDs e.ds, eodWrap := e.wrap, eodClock := e.frame * 256,
      laidMark := max x.laidMark e.record, nextPos := max x.nextPos (positionsTo s p e.wrap e.frame) }) s

/-- The end of data in a directory's header. -/
def headerEod (b : Bytes) : Eod := ⟨beAt b 0 6, beAt b 6 4, beAt b 10 1, beAt b 11 3⟩

/-- The directory of a partition: with clean set the tape copy; otherwise the Shed's, or else the tape copy. -/
def takeDirectory (scan : List ScanItem) (p : Nat) (s : State) : State :=
  let tape := tapeDirectory scan p s.cart.writePass
  let shed := (dirSetOf s).bind fun k => (s.shd.dirs[k]?).bind fun d => (AMap.get? d.dirs p).map fun x => (x, AMap.get? d.eods p)
  match (if s.cart.clean then none else shed), tape with
  | some (d, e), _ =>
    let s1 := updPart p (fun x => { x with dir := d }) s
    match e with
    | some e => takeEod p e s1
    | none => s1
  | none, some t => takeEod p (headerEod t.eod) (updPart p (fun x => { x with dir := t.dir }) s)
  | none, none => s

/-! ## The scan forward (R167 steps 4 and 5) -/

/-- A data set that the scan found, of the current write pass and a partition. -/
structure Found where
  dsit : Dsit
  clock : Nat
  user : Bytes
  deriving DecidableEq, Repr

/-- The data sets of a partition in the order read, up to the first that is not of the current write pass. -/
def foundSets (s : State) (scan : List ScanItem) (p : Nat) : List Found :=
  let all := scan.filterMap fun
    | .dataSet q b c u => if q = p then some ((Dsit.parse b).map fun d => (⟨d, c, u⟩ : Found)) else none
    | _ => none
  (all.takeWhile fun f => f.any fun f => f.dsit.writePass == s.cart.writePass && f.dsit.part == p && f.dsit.kind != 3).filterMap id

/-- A found data set beyond the end of data enters the directory and moves it. -/
def enterFound (p : Nat) (f : Found) (s : State) : State :=
  let x := partAt s p
  let d := f.dsit
  if placeRank d.wrap (frameOf f.clock) < placeRank x.eodWrap (frameOf x.eodClock) then s
  else
    let img := { rebuiltImage s p d.number d.firstUnit f.user with
      kind := d.kind, copy := d.copy, firstRec := d.firstRec, descCount := d.descCount, descIdx := d.descIdx, truncOffs := d.truncOffs }
    let i := positionsTo s p d.wrap (frameOf f.clock)
    match positionAt s p i with
    | none => s
    | some (w, a, len) =>
      updPart p (fun x => { x with
        dir := enterAt img d.wrap (frameOf f.clock) x.dir, nextPos := i + 1, eodWrap := w, eodClock := clockOf w (a + len),
        eodDs := max x.eodDs (d.number + 1), nextDs := max x.nextDs (d.number + 1) }) s

/-- Record Numbers below this one are whole in stored bytes walked unit by unit from a unit boundary: `left` packets of
record `fin` are still to come. -/
def wholeTo : Nat → Bytes → Nat → Nat → Nat
  | 0, _, _, fin => fin
  | f + 1, b, left, fin =>
    match unitAt b with
    | .mark d => wholeTo f (b.drop 48) 0 (d.number + 1)
    | .packet p used =>
      match p.descs.getLast? with
      | none => if left ≤ 1 then wholeTo f (b.drop used) 0 (fin + b2n (left == 1)) else wholeTo f (b.drop used) (left - 1) fin
      | some (d, _) =>
        let n := if d.length < 65536 then 1 else ceilDiv d.length 262144
        if n = 1 then wholeTo f (b.drop used) 0 (d.number + 1) else wholeTo f (b.drop used) (n - 1) d.number
    | _ => fin

/-- Stored bytes of found user data sets in number order, from the first unit that begins in them. -/
def foundBytes (fs : List Found) : Bytes :=
  let us := sortBy (fun f => f.dsit.number) (fs.filter fun f => f.dsit.kind == 1)
  let b := us.flatMap fun f => f.user.take f.dsit.used
  match us with
  | f :: _ => b.drop f.dsit.firstUnit
  | [] => []

/-! ## The open Loft (R167 step 6, R218) -/

/-- The valid copy of a data set: the last one found (R157). -/
def foundOf (fs : List Found) (n : Nat) : Option Found := (fs.filter fun f => f.dsit.number == n).getLast?

/-- The Loft that end of data stands in: the data sets of it found on tape go into the C3 accumulators up to the first whose
completion is not known, which is formatted next. -/
def reopenLoft (p : Nat) (fs : List Found) (s : State) : State :=
  let hi := (partAt s p).nextDs
  let l := hi / 32
  let at_ := fun i => foundOf fs (32 * l + i)
  if hi % 32 = 0 then s
  else
    let n := ((at_ 30).map fun f => f.dsit.loftData).getD 0
    let whole := decide (0 < n) && (List.range n).all fun i => (at_ i).isSome
    if whole ∧ (at_ 31).isSome then updPart p (fun x => { x with nextDs := 32 * (l + 1), closed := AMap.set x.closed l () }) s
    else
      let m := if whole then n else ((List.range 30).find? fun i => (at_ i).isNone).getD 30
      let sets := (List.range m).filterMap at_
      let c3 := sets.foldl (fun (c : Bytes × Bytes) f => c3Add (f.dsit.number % 32) (fit f.user userArea) c.1 c.2) ([], [])
      let found := ((List.range 32).filterMap at_).filter fun f => whole || f.dsit.kind != 2
      let a := acquireFrom 90 0x10 2 180 3 s
      updPart p (fun x => { x with
        nextDs := 32 * l + (if whole then 31 else m), loftOpen := true, c3p := c3.1, c3q := c3.2, c3Stalls := a.1.getD [], loftData := m
        done := found.foldl (fun d f => AMap.set d f.dsit.number f.dsit.kind) x.done }) a.2

/-- Lofts before the one that end of data stands in are closed on tape. -/
def closeEarlier (p : Nat) (s : State) : State :=
  updPart p (fun x => { x with closed := (x.dir.lofts.filter fun e => decide (e.ds / 32 < x.nextDs / 32)).foldl (fun m e => AMap.set m (e.ds / 32) ()) x.closed }) s

/-- A partition after its directory is known: the scan, the open Loft, its Laid records. With clean clear, records of
complete data sets that no spill ring of the cartridge holds count as Laid (log entry 49). -/
def rebuildPart (scan : List ScanItem) (p : Nat) (s : State) : State :=
  let fs := foundSets s scan p
  let s1 := each (enterFound p) fs (takeDirectory scan p s)
  let s2 := closeEarlier p (reopenLoft p fs s1)
  let x := partAt s2 p
  let inRing := (partRing s2 p).isSome
  let shut := fs.filter fun f => !inRing || mem? x.closed (f.dsit.number / 32)
  let fin := if s.cart.clean then x.laidMark else max x.laidMark (wholeTo ((foundBytes shut).length + 1) (foundBytes shut) 0 x.laidMark)
  updPart p (fun x => { x with acceptedEnd := fin, takenMark := fin, shelteredMark := fin, laidMark := fin, safeMark := fin,
                               current := 0, nextRec := fin }) s2

/-! ## Sheltered packets of the cartridge (R336, R218) -/

/-- Bytes of a spill ring, from the units that the map names. -/
def ringBytes (s : State) (r off len : Nat) : Bytes :=
  let a := off / 65536
  let n := ceilDiv (off + len) 65536 - a
  let all := (List.range n).flatMap fun i =>
    match (mapOf s (spillLogical r ((a + i) * 65536))).bind fun u => AMap.get? s.shd.units u with
    | some x => fit x.data 65536
    | none => zeros 65536
  slice all (off - a * 65536) len

/-- Stored packets cut out of a string: stored bytes, host bytes, records begun, the first record's index, descriptors. -/
def cutStored : Nat → Bytes → Nat → List (Pkt × List (Desc48 × Bytes))
  | 0, _, _ => []
  | f + 1, b, n =>
    match unitAt b with
    | .packet p used =>
      ({ hostLen := p.hdr.hostLen, recStarts := p.descs.length, firstRec := n, st := .stored, dlz := p.hdr.dlz, stored := b.take used }, p.descs)
        :: cutStored f (b.drop used) (n + p.descs.length)
    | _ => []

/-- Marks cut out of the one packet of a WRITE_MARK. -/
def cutMarks : Nat → Bytes → List Desc48
  | 0, _ => []
  | f + 1, b => match unitAt b with
    | .mark d => d :: cutMarks f (b.drop 48)
    | _ => []

/-- The last packet of a version is covered by a SHELTER record of a ring. -/
def lastCovered (s : State) (r v : Nat) : Bool :=
  s.shd.shelters.any fun j => match j with
    | .shelter q _ _ _ w _ _ _ last => q == r && w == v && last
    | _ => false

/-- The versions of a ring in ring order: version, first Record Number, offset and length of the stored bytes. A version
whose last packet is not covered was not Taken whole as far as the records tell, and ends with no record (R65, R340, log
entry 61). -/
def ringVersions (s : State) (r : Nat) : List (Nat × Nat × Nat × Nat) :=
  s.shd.shelters.foldl (fun l j =>
    match j with
    | .shelter q _ _ _ v off len first _ =>
      if q ≠ r ∨ lastCovered s r v = false then l
      else if l.any fun x => x.1 == v then l.map fun x => if x.1 = v then (x.1, x.2.1, x.2.2.1, off + len - x.2.2.1) else x
      else l ++ [(v, first, off, len)]
    | _ => l) []

/-- The Buffer Record Index entry of a version, which precedes every command accepted since: its number is beyond the acceptance
sequences (log entry 50). -/
def storedWrite (s : State) (r p first off len : Nat) : Write :=
  let b := ringBytes s r off len
  let marks := cutMarks (b.length + 1) b
  let cut := cutStored (b.length + 1) b 0
  let descs := cut.flatMap Prod.snd
  let d := (descs.head?.map Prod.fst).getD {}
  let trunc := ((marks.head?.or (descs.head?.map Prod.fst)).map Desc48.truncating).getD false
  let recs := if marks = [] then cut.zipIdx.flatMap fun (x, i) => x.2.map fun (d, h) => (⟨d.length, h, i, d.start⟩ : Rec)
    else marks.map fun _ => ⟨0, [], 0, 0⟩
  let pkts := if marks = [] then cut.map Prod.fst else [{ hostLen := 0, recStarts := marks.length, firstRec := 0, st := .stored, stored := b }]
  let offs := pkts.foldl (fun (acc : List Pkt × Nat) k => (acc.1 ++ [{ k with spillOff := acc.2 }], acc.2 + k.stored.length)) ([], off)
  { seq := restoredSeq s.hq.writes.length, port := .a, part := p, first := first, kind := if marks = [] then .records else .marks, truncating := trunc,
    keySlot := d.keySlot, gen := d.keyGen, hostLabel := d.hostLabel, counter := d.firstCounter, key := [], recs := recs, pkts := offs.1,
    taken := true, freed := pkts.length, copied := pkts.length, sheltered := pkts.length, ring := some r, spillOff := off }

/-- A version enters the Buffer Record Index unless every record of it is Laid and stands. -/
def restoreWrite (r p : Nat) (v : Nat × Nat × Nat × Nat) (s : State) : State :=
  let w := storedWrite s r p v.2.1 v.2.2.1 v.2.2.2
  let n := w.recs.length
  let x := partAt s p
  if n = 0 ∨ (w.truncating = false ∧ w.first + n ≤ x.laidMark) then s
  else
    match takeGranules (granulesFor n) s with
    | (none, s1) => s1
    | (some (st, g), s1) =>
      let s2 := if w.truncating then moveEnd p w.first n s1 else updPart p (fun x => { x with acceptedEnd := max x.acceptedEnd (w.first + n) }) s1
      indexWrite { w with recStall := st, granule := g, bound := true, placed := true } s2

/-- Bytes at the end of a data set's user area from its last unit boundary on: the part of a packet that runs on. -/
def runningOn : Nat → Bytes → Bytes
  | 0, b => b
  | f + 1, b =>
    match unitAt b with
    | .mark _ => if b.length = 48 then b else runningOn f (b.drop 48)
    | .packet _ used => if b.length = used then b else runningOn f (b.drop used)
    | _ => b

/-- The packets of a partition's restored writes, in order, by write and index. -/
def restoredPkts (s : State) (p : Nat) : List (Nat × Nat × Bytes) :=
  (s.hq.writes.filter fun w => w.part == p).flatMap fun w => w.pkts.zipIdx.map fun (k, i) => (w.seq, i, k.stored)

/-- Where the formatter goes on: the packet whose bytes end the data set before the next one, and how many of them do. -/
def resumeAt (s : State) (p : Nat) (prev : Found) : Option (Nat × Nat) :=
  let tail := runningOn (prev.user.length + 1) ((prev.user.take prev.dsit.used).drop prev.dsit.firstUnit)
  if tail = [] then none
  else ((restoredPkts s p).zipIdx.find? fun x => x.1.2.2.take tail.length == tail).map fun x => (x.2, tail.length)

/-- Stored byte number of a place in the order of user data sets. -/
def userByte (ds off : Nat) : Nat := (30 * (ds / 32) + ds % 32) * userArea + off

/-- The inverse: the data set and offset of a stored byte number. -/
def userPlace (n : Nat) : Nat × Nat := let k := n / userArea; (32 * (k / 30) + k % 30, n % userArea)

/-- Packets already on tape count as formatted; the rest of the packet that runs on begins the next data set. -/
def resumeWrites (p : Nat) (fs : List Found) (s : State) : State :=
  let x := partAt s p
  let before := (fs.filter fun f => f.dsit.kind == 1 && decide (f.dsit.number < x.nextDs)).map fun f => f.dsit.number
  match ((sortBy id before).getLast?).bind (foundOf fs) with
  | none => s
  | some prev =>
    match resumeAt s p prev with
    | none => s
    | some (n, k) =>
      let pk := restoredPkts s p
      let done := pk.take (n + 1)
      let start := userByte prev.dsit.number (prev.dsit.used - k)
      let left := ((pk[n]?).map fun x => x.2.2.drop k).getD []
      let place := fun (w : Write) =>
        let mine := (done.filter fun x => x.1 == w.seq).length
        if mine = 0 then w
        else
          let before := (done.dropLast.filter fun x => decide (w.seq ≤ x.1)).foldl (fun a x => a + x.2.2.length) 0
          let at_ := userPlace (start - before)
          { w with formatted := mine, tapeDs := at_.1, tapeOff := at_.2, lastDs := if left = [] then prev.dsit.number else x.nextDs }
      refreshLaid p (updPart p (fun y => { y with user := left })
        (setWrites (s.hq.writes.map fun w => if w.part = p then place w else w) s))

/-- The Sheltered packets of a partition of this cartridge are appended ahead of any new write (R336). -/
def restorePart (scan : List ScanItem) (p : Nat) (s : State) : State :=
  match partRing s p with
  | none => s
  | some r =>
    let s1 := each (restoreWrite r p) (ringVersions s r) s
    let s2 := resumeWrites p (foundSets s scan p) (refreshMarks p s1)
    advanceTail r (newTail s2 r) s2

/-! ## What a cut lost (R340) -/

/-- Records Taken before a cut that no Dusk saved: a Loss Log entry and a deferred error for each partition. -/
def reportCut (s : State) : State :=
  let mine := s.shd.cutLoss.filter fun c => c.1 == s.cart.serial && c.2.1 == s.cart.writePass
  each (fun (c : Bytes × Nat × Nat) s =>
    let first := (partAt s c.2.2).shelteredMark
    deferError c.2.2 first 0xFFFFFFFF Status.recordLost s.hq.acceptSeq
      (appendLoss Src.shed (ownLoss s c.2.2 4 0 0xFFFFFFFF first) s)) mine
    (updShd (fun d => { d with cutLoss := d.cutLoss.filter fun c => !mine.contains c }) s)

/-! ## The directory set (R324) -/

/-- The set of this serial and write pass, or else the least recently loaded one, taken over. -/
def chooseSet (s : State) : State :=
  let now := (s.shd.dirs.foldl (fun n d => max n d.loadedAt) 0) + 1
  match dirSetOf s with
  | some k => updShd (fun h => { h with dirs := h.dirs.modify k fun d => { d with loadedAt := now } }) s
  | none =>
    let fresh : DirSet := { serial := s.cart.serial, pass := s.cart.writePass, loadedAt := now }
    if s.shd.dirs.length < 16 then updShd (fun h => { h with dirs := h.dirs ++ [fresh] }) s
    else
      let old := ((sortBy (fun d => d.1.loadedAt) s.shd.dirs.zipIdx).head?.map Prod.snd).getD 0
      -- the records of the set taken over name it no more (log entry 56)
      let keep := fun (l : List JRec) => l.filter fun r => match r with
        | .dir k _ _ _ => k != old
        | _ => true
      updShd (fun h => { h with
        dirs := h.dirs.modify old fun _ => fresh
        pendingRecs := keep h.pendingRecs
        journals := h.journals.map fun j => (j.1, keep j.2)
        jlog := h.jlog.map fun j => (j.1, keep j.2) }) s

/-! ## LOAD (R51, R156, R167, R288) -/

/-- Everything that LOAD rebuilds once the Tape Clock is valid. -/
def rebuild (scan : List ScanItem) (s : State) : State :=
  let s1 := readCart scan s
  let ps := (List.range 4).filter fun p => partPresent s1 p
  let s2 := each (rebuildPart scan) ps s1
  let s3 := chooseSet s2
  let s4 := each (fun p s => saveDirectory p {} s) ps s3
  let s5 := updCart (fun c => { c with st := .ready, dirTodo := [], dirTries := 0, dirFailed := false, weakPosted := false }) s4
  yardLoad (reportCut (each (restorePart scan) ps s5))

/-- Partitions on the loaded cartridge: the result of LOAD. -/
def partitions (s : State) : Nat := ((List.range 4).filter fun p => partPresent s p).length

/-- How a LOAD goes on. -/
def loadStep (seq : Nat) (scan : List ScanItem) (s : State) : State :=
  if s.cart.present = false then complete seq Status.notReady 0 s
  else
    match s.cart.st with
    | .ready => complete seq Status.ok (partitions s) s
    | .empty =>
      if s.brd.motion = .unthreaded then post .bridle Src.fmt 0x0006 0 (updCart (fun c => { c with st := .threading }) s) else s
    | .threading =>
      if s.brd.motion = .running ∧ s.srv.valid = true then
        let s1 := rebuild scan s
        complete seq Status.ok (partitions s1) s1
      else s
    | .unloading | .unthreading => s

/-- LOAD (R167, R288). -/
def execLoad (seq : Nat) (scan : List ScanItem) (s : State) : Out :=
  match due s seq 0x07 with
  | some _ => go (loadStep seq scan (setSt seq .running s))
  | none =>
    match runningCmd s seq 0x07 with
    | some _ => go (loadStep seq scan s)
    | none => go s

end Sys2Proof.Machine
end

