-- ==== Sys2Proof/Machine/Cart.lean ====
section
/-!
DEFINITION. The other commands of the cartridge (02, 06): the tape directory written at UNLOAD and FORMAT_PARTITIONS, the
certify pass, LOCATE, and the cartridge pin.
-/

namespace Sys2Proof.Machine

/-! ## Directory copies (R161, R166, R216) -/

/-- The last placement of a partition's directory copy. -/
def dirPlace (s : State) (p : Nat) (copyB : Bool) : Option Placement :=
  (s.wrv.placements.filter fun x => x.img.kind == 3 && x.img.part == p && (x.img.ds == 0xFFFFFFFF) == copyB).getLast?

/-- The tape is on its way to a window, or one is open. -/
def tapeMoving (s : State) : Bool :=
  s.wrv.windowOpen || s.brd.repos.isSome || s.brd.heldRepos.isSome || s.rch.ladder.isSome || s.brd.stop.isSome
    || (s.boxes.bridle.any fun m => m.code == 0x0003) || s.srv.sched.any fun e => e.2.kind == Kind.windowOpen || e.2.kind == Kind.settled

/-- The directory copies to be written, none of them written yet. -/
def beginDirectories (todo : List (Nat × Bool)) (s : State) : State :=
  updCart (fun c => { c with dirTodo := todo, dirTries := 0, dirFailed := false })
    (updWrv (fun w => { w with placements := w.placements.filter fun x => x.img.kind != 3 }) s)

/-- The first copy to be written: done once it is complete on tape; otherwise the tape is sent to its slot. -/
def dirStep (s : State) : State :=
  match s.cart.dirTodo with
  | [] => s
  | (p, b) :: rest =>
    let w := (partAt s p).firstWrap
    let send := match nthPos 3 (spansOf s w) (b2n b) 0 with
      | some (a, _) => sendTape Src.fmt w (frameOf (clockOf w a)) (readSpeed s) 0 s
      | none => s
    match dirPlace s p b with
    | some x =>
      if x.complete then updCart (fun c => { c with dirTodo := rest, dirTries := 0 }) s
      else if x.abandoned = false ∨ tapeMoving s = true then s
      else send
    | none => if tapeMoving s then s else send

/-- Stalls of images, placements and accumulators are freed and nothing remains to be written. -/
def clearTape (s : State) : State :=
  let s1 := each (giveBack 0x0C) (s.wrv.images.flatMap Image.stalls ++ s.wrv.placements.flatMap (fun x => x.img.stalls))
    (each (giveBack 0x10) (s.parts.flatMap fun x => x.2.c3Stalls)
      (each (giveBack 0x14) (s.wrv.placements.flatMap fun x => x.stalls.map Prod.snd) s))
  updRch (fun r => { r with seek := none, ladder := none, lastRead := none, readAhead := false, raRing := [] })
    (updWrv (fun w => { w with images := [], placements := [], carry := [] }) s1)

/-- Every entry of the Buffer Record Index is retired, and no Gate lock remains (R51). -/
def retireAll (s : State) : State := freeReturned (each (fun (w : Write) s => retire w.seq s) s.hq.writes (unlock (fun _ => true) s))

/-! ## UNLOAD (R51, R215, R257) -/

/-- A partition's records are Laid, or Yard-safe when the command asks for it. -/
def laidAll (s : State) (yardSafe : Bool) (p : Nat) : Bool :=
  let x := partAt s p
  x.writeStopped || decide (x.acceptedEnd ≤ if yardSafe then x.safeMark else x.laidMark)

/-- Both conditions of R51. -/
def unloadReady (s : State) (c : Cmd) : Bool :=
  ((List.range 4).all fun p => !partPresent s p || laidAll s (bit c.e.flags 0) p)
    && !(s.hq.cmds.any fun d => d.ring != 32 && d.e.opcode == 0x02 && d.st != .completing && decide (d.seq < c.seq))

/-- A partition still has data sets to write that are not its records: weak ones being reallocated. -/
def stillWriting (s : State) (p : Nat) : Bool :=
  !(partAt s p).writeStopped &&
    ((partAt s p).extra != [] || (s.wrv.images.any fun i => i.part == p)
      || (s.wrv.placements.any fun x => x.img.part == p && x.img.kind != 3 && !x.complete && !x.abandoned)
      || ((postedTo s .fmt).any fun m => m.code == 0x0003 && bits m.arg 33 32 == p))

/-- Records of a write-stopped partition not Laid: one deferred WRITE_FAILED (R215). -/
def reportStopped (p : Nat) (s : State) : State :=
  let x := partAt s p
  if x.writeStopped ∧ x.laidMark < x.acceptedEnd then deferError p x.laidMark (x.acceptedEnd - x.laidMark) Status.writeFailed s.hq.acceptSeq s else s

/-- Writes of a write-stopped partition not yet Taken end with the failure. -/
def endUntaken (s : State) : State :=
  each (fun (w : Write) s => endWrite w.seq Status.writeFailed s) (s.hq.writes.filter fun w => !w.taken && (partAt s w.part).writeStopped) s

/-- The cartridge is back in its place: what belongs to it leaves the device. -/
def finishUnload (s : State) : State :=
  let s1 := yardUnload (clearTape (retireAll s))
  let s2 := newParts (s1.parts.map fun (p, x) => (p, { defers := x.defers })) s1
  each freeEmptyRing (List.range 8) (updCart (fun c => { c with st := .empty, dirTodo := [], zone := [], spans := [], serial := [], writePass := 0 }) s2)

/-- The load record in the usage log of the cartridge memory (R162). What a record holds, its place in the ring and the
moment at which it is written are not given: free bytes at a free place, at the end of the load (log entry 29). -/
def noteLoad (s : State) : State :=
  drawMany 65 (cmWrite (0x2000 + 64 * (freeAt s 64 % 128)) ((List.range 64).map fun i => BitVec.ofNat 8 (freeAt s i)) s)

/-- How an UNLOAD goes on. -/
def unloadStep (c : Cmd) (s : State) : State :=
  let ps := (List.range 4).filter fun p => partPresent s p
  match s.cart.st with
  | .ready =>
    if unloadReady s c = false then s
    else if s.cart.weakPosted = false then
      each (fun p s => postWeak p (reallocUnload s) s) ps (updCart (fun c => { c with weakPosted := true }) s)
    else if (ps.any fun p => stillWriting s p) ∨ s.wrv.windowOpen then s
    else
      let s1 := each reportStopped ps (endUntaken s)
      dirStep (beginDirectories (ps.map fun p => (p, !s.cart.dirBNewer)) (updCart (fun c => { c with st := .unloading }) s1))
  | .unloading =>
    let s1 := dirStep s
    if s1.cart.dirTodo ≠ [] ∨ s1.wrv.windowOpen then s1
    else
      let good := !s1.cart.dirFailed
      let s2 := updCart (fun c => { c with dirBNewer := if good then !c.dirBNewer else c.dirBNewer, st := .unthreading }) (saveImages s1)
      post .bridle Src.fmt 0x0007 0 (noteLoad (writeControl good s2))
  | .unthreading => if s.brd.motion = .unthreaded then complete c.seq Status.ok 0 (finishUnload s) else s
  | _ => s

/-- UNLOAD (R51): it waits from its admission on. -/
def execUnload (seq : Nat) (s : State) : Out :=
  match due s seq 0x08 with
  | none => go s
  | some _ =>
    if serving s = false then go (complete seq Status.notReady 0 s)
    else go (updCart (fun c => { c with weakPosted := false }) (setSt seq .running s))

/-- UNLOAD_PROCEED (R51, R166, R288). -/
def execUnloadProceed (seq : Nat) (s : State) : Out :=
  match runningCmd s seq 0x08 with
  | none => go s
  | some c => go (unloadStep c s)

/-! ## The certify pass (R151, R153, R154, R155) -/

/-- Defective stretches of one wrap, in 1/256 frame: 4 or more channels with a C1 failure within 2 mm, and losses of sync of
0.5 mm or more. -/
def defects (x : WrapSurvey) : List (Nat × Nat) :=
  let fs := sortBy Prod.snd x.fails
  let near := fs.filterMap fun (_, a) =>
    let g := fs.filter fun (_, b) => decide (a ≤ b ∧ b < a + 5120)
    if 4 ≤ (g.map Prod.fst).eraseDups.length then some (a, ((g.getLast?).map Prod.snd).getD a) else none
  near ++ (x.syncLost.filter fun (_, a, b) => decide (a + 1280 ≤ b)).map fun (_, a, b) => (a, b)

/-- Merge stretches in ascending order that are closer than 2 mm. -/
def mergeNear : List (Nat × Nat) → List (Nat × Nat) → List (Nat × Nat)
  | acc, [] => acc.reverse
  | [], x :: xs => mergeNear [x] xs
  | (a, b) :: acc, (c, d) :: xs => if c < b + 5120 then mergeNear ((a, max b d) :: acc) xs else mergeNear ((c, d) :: (a, b) :: acc) xs

/-- The gaps between adjacent spans. -/
def gaps : List (Nat × Nat) → List Nat
  | (_, b) :: (c, d) :: xs => (c - b) :: gaps ((c, d) :: xs)
  | _ => []

/-- Merge spans i and i + 1. -/
def mergeAt (i : Nat) (l : List (Nat × Nat)) : List (Nat × Nat) :=
  match l[i]?, l[i + 1]? with
  | some (a, _), some (_, d) => l.take i ++ (a, d) :: l.drop (i + 2)
  | _, _ => l

/-- Merge across the smallest gap until 1,024 spans remain (R155). -/
def mergeDown : Nat → List (Nat × Nat) → List (Nat × Nat)
  | 0, l => l
  | f + 1, l =>
    if l.length ≤ 1024 then l
    else
      let g := gaps l
      let m := g.foldl min (g.headD 0)
      mergeDown f (mergeAt (g.findIdx fun x => x == m) l)

/-- A span as entries: at most 262,143 frames each; a skip span when longer than 200 frames. -/
def spanEntries : Nat → Nat → Nat → Bool → List (Nat × Nat × Bool)
  | 0, _, _, _ => []
  | f + 1, a, n, skip => if n = 0 then [] else (a, min n 262143, skip) :: spanEntries f (a + min n 262143) (n - min n 262143) skip

/-- The keep-out spans of a band. -/
def bandSpans (xs : List WrapSurvey) : List (Nat × Nat × Bool) :=
  let st := mergeNear [] (sortBy Prod.fst (xs.flatMap defects))
  let fr := st.map fun (a, b) => ((a - 512) / 256, ceilDiv (b + 512) 256)
  (mergeDown fr.length fr).flatMap fun (a, b) => spanEntries 50 a (b - a) (decide (200 < b - a))

/-- C1 symbols corrected and read of a wrap, without the rows that overlap a span of its band (R151); spans are in frames. -/
def symbolsOf (spans : List (Nat × Nat × Bool)) (x : WrapSurvey) : Nat × Nat :=
  let rows := x.rows.filter fun r => !(spans.any fun p => decide (r.start < (p.1 + p.2.1) * 256 ∧ p.1 * 256 < r.stop))
  (rows.foldl (fun n r => n + r.symbolsCorrected) 0, rows.foldl (fun n r => n + r.symbolsRead) 0)

/-- Class and exclusion of a wrap from its symbol error rate (R151). -/
def classOf (corrected read : Nat) : Nat × Bool :=
  let le_ := fun k => decide (corrected * 1000000 ≤ k * read)
  if le_ 100 then (0, false) else if le_ 500 then (1, false) else if le_ 2000 then (2, false) else if le_ 8000 then (3, false) else (3, true)

/-- The certify pass has measured every wrap of the cartridge (R151). -/
def surveyed (xs : List WrapSurvey) : Bool := (List.range 192).all fun w => xs.any fun x => x.wrap == w

/-- Zone Table and keep-out lists from a certify pass; the rounding of the rate is not given (log entry 3). -/
def certified (table : List (Nat × Nat)) (xs : List WrapSurvey) (s : State) : State :=
  let spans := (List.range 4).map fun b => (b, bandSpans (xs.filter fun x => bandOf x.wrap == b))
  let zone := (sortBy WrapSurvey.wrap (xs.filter fun x => decide (x.wrap < 192))).foldl (fun m x =>
    let n := symbolsOf (AMap.getD spans (bandOf x.wrap) []) x
    let c := classOf n.1 n.2
    let rate := if n.2 = 0 then 0 else min 65535 (roundTo (n.1 * 1000000 : Nat) n.2).toNat
    AMap.set m x.wrap (c.1, true, c.2, rate, 0)) ([] : AMap (Nat × Bool × Bool × Nat × Nat))
  let s1 := updCart (fun c => { c with spans := spans, zone := zone, formatState := 2 }) s
  updCart (fun c => { c with zone := c.zone.map fun (w, z) =>
    (w, z.1, z.2.1, z.2.2.1, z.2.2.2.1, if z.2.2.1 then 0 else positionsOf z.1 (spansOf s1 w) (isFirstWrap table w)) }) s1

/-- Without certify the pages whose CRCs hold stay, with positions for the new partition table; otherwise class B and no
spans (R152). -/
def keptZone (table : List (Nat × Nat)) (s : State) : State :=
  let kept := match controlInUse s with
    | some (_, b) => beAt b 4 1 != 0 && (memZone s b).isSome && (memSpans s b).isSome
    | none => false
  if kept then
    updCart (fun c => { c with zone := c.zone.map fun (w, z) =>
      (w, z.1, z.2.1, z.2.2.1, z.2.2.2.1, if z.2.2.1 then 0 else positionsOf z.1 (spansOf s w) (isFirstWrap table w)) }) s
  else updCart (fun c => { c with spans := [], zone := plainZone table, formatState := 1 }) s

/-! ## FORMAT_PARTITIONS (R50, R128, R156, R160, R166, R347) -/

/-- First wraps and wrap counts of a partition table. -/
def wrapTable : Nat → List Nat → List (Nat × Nat)
  | _, [] => []
  | w, n :: ns => (w, n) :: wrapTable (w + n) ns

def tableRefused (e : SqEntry) (words : List Nat) : Bool :=
  let ns := (words.take e.count).map fun v => bits v 7 0
  decide (e.count = 0 ∨ 4 < e.count ∨ ns.length < e.count ∨ 192 < ns.foldl (· + ·) 0) || ns.any fun n => n % 2 == 1 || decide (n < 2)

/-- The write pass after one (R160). -/
def nextPass (n : Nat) : Nat := if (n + 1) % 65536 = 0 then 1 else (n + 1) % 65536

/-- Every record on the cartridge is destroyed: no index entry, no image, no Sheltered bytes of it remain. -/
def destroyRecords (s : State) : State :=
  let rs := (List.range 8).filter fun r => (spillAt s r).assigned && !ringPending s (spillAt s r)
  let s1 := clearTape (retireAll s)
  let gone := fun (r : Nat) (s : State) =>
    let x := spillAt s r
    freeEmptyRing r (advanceTail r x.head (updShd (fun d => { d with
      copied := d.copied.filter fun c => c.ring != r
      queue := d.queue.filter fun q => !(q.stream == 0 && beAt q.region 0 1 == r) }) s))
  each gone rs s1

/-- A fresh partition (R128, R156, R347). -/
def freshPart (s : State) (p : Nat) (t : Nat × Nat) : Part :=
  let inYard := bit s.cart.enrolMask p
  { firstWrap := t.1, wraps := t.2, yardMember := inYard, originYard := if inYard then s.yrd.yardId else 0, originSerial := s.cart.serial }

/-- End of data of an empty partition stands at its first data set position. -/
def startAtFirst (p : Nat) (s : State) : State :=
  match positionAt s p 0 with
  | some (w, a, _) => updPart p (fun x => { x with eodWrap := w, eodClock := clockOf w a }) s
  | none => updPart p (fun x => { x with eodWrap := x.firstWrap }) s

/-- FORMAT_PARTITIONS begins: the new tables, the write pass, empty partitions, both directory copies of each to be written. The
deferred errors that the old partitions still had go with them (DESIGN CHOICE, log entry 109). -/
def beginFormat (seq : Nat) (e : SqEntry) (words : List Nat) (survey : List WrapSurvey) (s : State) : State :=
  let table := wrapTable 0 ((words.take e.count).map fun v => bits v 7 0)
  let s1 := destroyRecords s
  let s2 := if bit e.flags 0 then certified table survey s1 else keptZone table s1
  let s3 := updCart (fun c => { c with writePass := nextPass c.writePass, formatCount := c.formatCount + 1,
                                       formatState := max c.formatState 1, dirBNewer := false }) s2
  let parts := table.zipIdx.map fun (t, p) => (p, freshPart s3 p t)
  let s4 := each startAtFirst (parts.map Prod.fst) (countPositions (newParts parts s3))
  let s5 := updCart (fun c => { c with enrolMask := 0 }) (chooseSet s4)
  setSt seq .running (beginDirectories (parts.flatMap fun (p, _) => [(p, false), (p, true)]) s5)

/-- Both copies of every directory are written: every page of cartridge memory follows (R166), with clean set unless a copy failed. -/
def endFormat (seq : Nat) (s : State) : State :=
  let s1 := writeYardPage (cmWrite 0x4000 (keepOutLists s) (cmWrite 0x0800 (zoneTable s) s))
  complete seq Status.ok 0 (writeControl (!s.cart.dirFailed) (updCart (fun c => { c with dirBNewer := true }) s1))

/-- FORMAT_PARTITIONS may begin: no window is open, every data command accepted before it has finished, and a certify pass has measured
the cartridge (R50, R64, R151). -/
def formatReady (seq : Nat) (e : SqEntry) (certify : List WrapSurvey) (s : State) : Bool :=
  !s.wrv.windowOpen && (!bit e.flags 0 || surveyed certify)
    && !(s.hq.cmds.any fun d => d.ring != 32 && d.st != .completing && decide (d.seq < seq))

/-- A FORMAT_PARTITIONS that is admitted begins, or waits. -/
def formatStart (seq : Nat) (e : SqEntry) (table : List Nat) (certify : List WrapSurvey) (s : State) : State :=
  if formatReady seq e certify s then dirStep (beginFormat seq e table certify s) else setSt seq .admitted s

/-- FORMAT_PARTITIONS (R50): admitted, begun once what it waits for is over, then carried on to its end. -/
def execFormatPartitions (seq : Nat) (table : List Nat) (certify : List WrapSurvey) (s : State) : Out :=
  match due s seq 0x09 with
  | some c =>
    if tableRefused c.e table then go (complete seq Status.invalidField 0 s)
    else if serving s = false then go (complete seq Status.notReady 0 s)
    else go (formatStart seq c.e table certify s)
  | none =>
    match runningCmd s seq 0x09 with
    | some _ =>
      let s1 := dirStep s
      go (if s1.cart.dirTodo = [] ∧ s1.wrv.windowOpen = false then endFormat seq s1 else s1)
    | none =>
      match findCmd s seq with
      | some c => if c.st = .admitted ∧ c.e.opcode = 0x09 ∧ tableRefused c.e table = false then go (formatStart seq c.e table certify s) else go s
      | none => go s

/-! ## LOCATE (R168) -/

/-- Where LOCATE sends the tape: the last Loft map entry of the live segment at or before a record, a relocation of a data
set of that Loft standing for it, or end of data (DEDUCED, log entry 114). -/
def locatePlace (s : State) (p n : Nat) (toEnd : Bool) : Nat × Nat :=
  let x := partAt s p
  let eod := (x.eodWrap, frameOf x.eodClock)
  if toEnd ∨ x.laidMark ≤ n then eod
  else
    match segmentOf x.dir n with
    | none => eod
    | some g =>
      match (x.dir.lofts.filter fun l => decide (l.first ≤ n ∧ g.ds / 32 ≤ l.ds / 32)).getLast? with
      | none => (dsPlace s p g.ds).getD eod
      | some l =>
        match (x.dir.relocs.filter fun r => r.ds / 32 == l.ds / 32).getLast? with
        | some r => (r.wrap, r.frame)
        | none => (l.wrap, l.frame)

/-- The head has come to the place: the result is its Tape Clock and wrap. -/
def locateDone (c : Cmd) (at_ : TapePlace) (s : State) : State :=
  complete c.seq Status.ok (at_.clock % 2 ^ 40 + at_.wrap % 256 * 2 ^ 40)
    (updPart c.e.partition (fun x => { x with current := if bit c.e.flags 0 then x.acceptedEnd else c.e.position }) s)

/-- LOCATE (R168). -/
def execLocate (seq : Nat) (found : Option TapePlace) (s : State) : Out :=
  match due s seq 0x04 with
  | some c =>
    let toEnd := bit c.e.flags 0
    if serving s = false then go (complete seq Status.notReady 0 s)
    else if noPart s c.e.partition = true ∨ (toEnd = false ∧ (partAt s c.e.partition).acceptedEnd < c.e.position) then
      go (complete seq Status.invalidField 0 s)
    else
      let t := locatePlace s c.e.partition c.e.position toEnd
      go (setSt seq .running (sendTape Src.dec t.1 t.2 (readSpeed s) 0 (needTape s)))
  | none =>
    match runningCmd s seq 0x04, found with
    | some c, some at_ =>
      if s.brd.motion = .running ∧ s.brd.repos = none ∧ s.srv.valid = true ∧ s.wrv.windowOpen = false then go (locateDone c at_ s) else go s
    | _, _ => go s

/-! ## The cartridge pin (R461) -/

/-- CART_PRESENT_CHANGE: the debounced level; a cartridge now present brings its memory. -/
def execCartPresentChange (level : Bool) (cm : Bytes) (s : State) : Out :=
  let s1 := { updCart (fun c => { c with present := level }) s with cartMem := [] }
  go (if level then cmWrite 0 cm s1 else s1)

end Sys2Proof.Machine
end

