-- ==== Sys2Proof/Machine/Cfg.lean ====
section
/-!
DEFINITION. Configuration (14): records, the check, staging, commit points, what taking effect does, and the image slots
of the NOR with their headers.
-/

namespace Sys2Proof.Machine

def updCfg (f : Cfg → Cfg) (s : State) : State := { s with cfg := f s.cfg }

/-! ## Records (R409, R410) -/

/-- The record identifier. -/
def recId (type inst : Nat) : Nat := type * 65536 + inst

def CfgRec.id (r : CfgRec) : Nat := recId r.type r.inst

/-- Words, instances and whether Dawn-only, of each record type. -/
def recInfo : Nat → Option (Nat × Nat × Bool)
  | 0x0001 => some (16, 1, true)
  | 0x0002 => some (8, 1, true)
  | 0x0003 => some (1, 1, false)
  | 0x0004 => some (7, 1, true)
  | 0x0005 => some (2, 1, true)
  | 0x0006 => some (1, 2, true)
  | 0x0007 => some (2, 1, true)
  | 0x0010 => some (1, 1, false)
  | 0x0011 => some (1, 132, false)
  | 0x0012 => some (1, 128, false)
  | 0x0013 => some (2, 1, false)
  | 0x0014 => some (1, 1, false)
  | 0x0015 => some (4, 1, false)
  | 0x0016 => some (6, 1, false)
  | 0x0017 => some (1, 1, false)
  | 0x0018 => some (3, 1, false)
  | 0x0019 => some (109, 6, false)
  | 0x001A => some (2, 1, false)
  | 0x0020 => some (1, 8, false)
  | 0x0021 => some (1, 1, false)
  | 0x0022 => some (1, 1, false)
  | 0x0023 => some (1, 1, false)
  | _ => none

/-- The bits of word i of a record that carry a field marked as committed configuration: the rest is reserved in the register or
not taken from the record, and is ignored (R9, R410). -/
def recMask (type i : Nat) : Nat :=
  let ms : List Nat := match type with
    | 0x0004 => [0xFFFF, 0x3FFFFFF, 0x1FFFFFFF, 0xFFFFFFFF, 0xFFFFFFFF, 0xFFFFFF, 0xFFFFFFFF]
    | 0x0005 => [0xFFFFFFFF, 0xFF]
    | 0x0006 => [0x3F]
    | 0x0007 => [0xF, 0xFFFFF]
    | 0x0010 => [0xFFFFF]
    | 0x0011 => [0xFFFF]
    | 0x0013 => [0x13F, 0xFF]
    | 0x0014 => [0xFFFF]
    | 0x0015 => [0xFF7, 0x1FFFFFFF, 0xFFFFFFFF, 0xFFFFFFFF]
    | 0x0016 => [0xFFFFFFFF, 0x11F, 0xFFFFFFFF, 0xFFFF03, 0xFFFFFFFF, 0xFFFF]
    | 0x0017 => [0xFF0F]
    | 0x0018 => [0x7FFF, 0xFF00FFFF, 0xFFFFFFFF]
    | 0x001A => [0xFFFF, 0xFFFFFF0F]
    | 0x0021 => [0xFFFF0003]
    | 0x0022 => [0x1FFFFFF]
    | _ => []
  ms.getD i 0xFFFFFFFF

/-- Field ranges that the registers give: word, high bit, low bit, least, greatest. -/
def recRanges : Nat → List (Nat × Nat × Nat × Nat × Nat)
  | 0x0004 => [(1, 25, 0, 0, 33554432), (2, 28, 16, 0, 4096), (6, 7, 0, 0, 200)]
  | 0x0006 => [(0, 3, 1, 1, 5)]
  | 0x0012 => [(0, 31, 0, 0, 131)]
  | 0x0013 => [(1, 7, 0, 1, 255)]
  | 0x0015 => [(0, 11, 8, 1, 8), (0, 7, 4, 0, 8), (0, 2, 0, 0, 6), (1, 23, 16, 1, 255), (1, 7, 0, 8, 100), (2, 31, 20, 10, 4095),
               (2, 19, 10, 64, 512), (2, 9, 0, 64, 512)]
  | 0x0016 => [(0, 31, 24, 1, 128), (0, 11, 0, 100, 4000), (1, 4, 0, 6, 16), (2, 19, 14, 1, 63), (3, 15, 12, 0, 12), (3, 11, 8, 0, 6),
               (3, 1, 0, 1, 3), (4, 29, 24, 1, 63), (4, 23, 19, 4, 20), (4, 18, 11, 0, 100), (4, 10, 3, 64, 255), (5, 4, 0, 0, 24)]
  | 0x0017 => [(0, 15, 8, 1, 255)]
  | 0x0018 => [(0, 14, 10, 1, 20), (0, 9, 5, 4, 20), (0, 4, 0, 1, 20)]
  | 0x001A => [(0, 15, 0, 1, 0xFFF), (1, 31, 24, 10, 255), (1, 23, 16, 1, 255)]
  | 0x0020 => [(0, 31, 0, 0, 9)]
  | 0x0022 => [(0, 24, 20, 0, 20), (0, 19, 15, 0, 20), (0, 14, 10, 0, 20), (0, 9, 0, 1, 1000)]
  | _ => []

/-- A record's value bytes. -/
def CfgRec.bytes (r : CfgRec) : Bytes :=
  be 2 r.type ++ be 2 r.inst ++ be 2 r.len ++ be 1 (b2n r.critical) ++ be 1 0 ++ r.words.flatMap (be 4)

/-- Whole records of a byte string; none where a length is not a multiple of 4 or above 65,532, or a record is cut. -/
def parseRecords : Nat → Bytes → Option (List CfgRec)
  | 0, _ => some []
  | _, [] => some []
  | f + 1, b =>
    let n := beAt b 4 2
    if b.length < 8 ∨ n % 4 ≠ 0 ∨ 65532 < n ∨ b.length < 8 + n then none
    else
      let r : CfgRec := ⟨beAt b 0 2, beAt b 2 2, bit (beAt b 6 1) 0, n, (List.range (n / 4)).map fun i => beAt b (8 + 4 * i) 4 &&& recMask (beAt b 0 2) i⟩
      (parseRecords f (b.drop (8 + n))).map (r :: ·)

def readRecords (b : Bytes) : Option (List CfgRec) := parseRecords (b.length + 1) b

/-- A later record replaces an earlier one of the same identifier and takes its place (R411, R412). -/
def putRec (r : CfgRec) : List CfgRec → List CfgRec
  | [] => [r]
  | x :: xs => if x.type = r.type ∧ x.inst = r.inst then r :: xs else x :: putRec r xs

def applyRecs (base recs : List CfgRec) : List CfgRec := recs.foldl (fun b r => putRec r b) base

/-- A record of unknown type that is not critical is ignored (R409). -/
def ignored (r : CfgRec) : Bool := (recInfo r.type).isNone && !r.critical

/-- The committed configuration with every scheduled set applied (R412). -/
def baseRecs (s : State) : List CfgRec := s.cfg.scheduled.foldl (fun b x => applyRecs b x.recs) s.cfg.records

/-! ## The check (R415) -/

/-- Where a set is presented: staged at run time, at D2, or at an activation against the records in force (R429). At run time the
packet Stable has its size already. -/
inductive Presented where
  | staged (packet : Nat) | dawn | activation (inForce : List CfgRec) (packet : Nat)
  deriving DecidableEq, Repr

/-- Allocatable Stalls for the DRAM sizes of R76. -/
def allocFor : Nat → Option Nat
  | 32 => some 130048
  | 64 => some 261120
  | 96 => some 392192
  | 128 => some 523264
  | _ => none

def sizeIn (rs : List CfgRec) (b : Nat) : Nat := recWordIn rs 0x0002 0 b 0
def sizesSum (rs : List CfgRec) : Nat := ((List.range 8).map (sizeIn rs)).foldl (· + ·) 0
def exposureIn (rs : List CfgRec) : Nat := recWordIn rs 0x0003 0 0 384
def fabCfgIn (rs : List CfgRec) : Nat := recWordIn rs 0x001A 0 1 0x640A100F
def nodeIn (rs : List CfgRec) : Nat := bits (recWordIn rs 0x001A 0 0 0) 15 0
def traceDest (rs : List CfgRec) : Nat := bits (recWordIn rs 0x0021 0 0 0) 1 0
def inYardIn (rs : List CfgRec) : Bool := bit (recWordIn rs 0x0007 0 0 0) 0
def yardMIn (rs : List CfgRec) : Nat := bits (recWordIn rs 0x0007 0 0 0) 3 1

/-- The size of the packet Stable: as it is at run time; at D2 what the other seven leave of the DRAM that BOARD names (R79, R80). -/
def packetSize (how : Presented) (rs : List CfgRec) : Option Nat :=
  match how with
  | .staged n => some n
  | .activation _ n => some n
  | .dawn => (allocFor (recWordIn rs 0x0001 0 0 0)).bind fun a => if sizesSum rs ≤ a then some (a - sizesSum rs) else none

/-- The packet Stable falls below its minimum (R79, R80). -/
def packetShort (how : Presented) (rs : List CfgRec) : Bool := (packetSize how rs).any fun n => decide (n < packetMinimum (exposureIn rs))

/-- Smallest sizes of the fixed Stables (R79). -/
def stableMinima : List (Nat × Nat) := [(0, 512), (2, 450), (3, 64), (4, 180), (6, 256), (7, 1280)]

/-- The rules of single records that are no plain field range: R76, R28, R27, R53, R79, R80, R233, R344, R224. -/
def ownRule (how : Presented) (rs : List CfgRec) (r : CfgRec) : Bool :=
  let w := fun i => r.words.getD i 0
  match r.type with
  | 0x0001 => (allocFor (w 0)).isSome && decide (exposureIn rs ≤ w 1)
  | 0x0002 => decide (w 1 = 0) && (stableMinima.all fun (i, m) => decide (m ≤ w i)) && !packetShort how rs
  | 0x0003 => decide (w 0 % 64 = 0 ∧ 64 ≤ w 0 ∧ w 0 ≤ 2048) && !packetShort how rs
      && ((findRec rs 0x0001 0).isNone || decide (w 0 ≤ recWordIn rs 0x0001 0 1 0))
  | 0x0005 => decide (bits (w 0) 7 0 ≠ 0)
  | 0x0007 => !bit (w 0) 0 || decide (1 ≤ bits (w 0) 3 1 ∧ bits (w 0) 3 1 ≤ 4)
  | 0x0015 => decide (bits (w 1) 15 8 ≤ bits (w 1) 7 0 ∧ bits (w 2) 19 10 ≤ bits (w 2) 9 0)
  | _ => true

/-- A record passes its own rule (R409, R410). -/
def recValid (how : Presented) (rs : List CfgRec) (r : CfgRec) : Bool :=
  match recInfo r.type with
  | none => false
  | some (n, k, dawnOnly) =>
    (match how with
      | .dawn => true
      | .staged _ => !dawnOnly
      | .activation old _ => !dawnOnly || (findRec old r.type r.inst).any fun x => x.words == r.words)
    && decide (r.len = 4 * n ∧ r.inst < k)
    && ((recRanges r.type).all fun (i, hi, lo, a, b) => decide (a ≤ bits (r.words.getD i 0) hi lo ∧ bits (r.words.getD i 0) hi lo ≤ b))
    && ownRule how rs r

/-- Management timers claimed (R415). -/
def timersIn (rs : List CfgRec) : Nat :=
  1 + b2n (decide (recWordIn rs 0x0023 0 0 0 ≠ 0)) + b2n (decide (bits (recWordIn rs 0x0021 0 0 0) 31 16 ≠ 0))
    + ((List.range 8).filter fun b => decide (8 ≤ recWordIn rs 0x0020 b 0 0)).length

/-- A port enabled and a valid Node ID (R392, R415). -/
def fabricReady (rs : List CfgRec) : Bool := decide (bits (fabCfgIn rs) 3 0 ≠ 0 ∧ 1 ≤ nodeIn rs ∧ nodeIn rs ≤ 0xFFF)

/-- Units that the Shed regions take (R312). -/
def shedUnits (w : Nat → Nat) : Nat :=
  bits (w 0) 15 0 * 16384 + bits (w 1) 25 0 + bits (w 2) 28 16 * 300 + (bits (w 2) 15 8 + bits (w 2) 7 0) * 262144 + 19200 + 64

/-- The record with which a record wants one resource (R415), by identifier. -/
def resourceClash (rs : List CfgRec) (r : CfgRec) : Option Nat :=
  let w := fun i => r.words.getD i 0
  let tooLarge := match allocFor (recWordIn rs 0x0001 0 0 0) with | some a => decide (a < sizesSum rs) | none => false
  let yardShort := inYardIn rs && decide (sizeIn rs 5 < 180 * yardMIn rs)
  let timer := if timersIn rs ≤ 16 then none else some (if r.type = 0x0022 then recId 0x0023 0 else recId 0x0022 0)
  match r.type with
  | 0x0001 =>
    if tooLarge then some (recId 0x0002 0)
    else if (findRec rs 0x0004 0).isSome ∧ w 2 * 16384 * 13 < shedUnits (fun i => recWordIn rs 0x0004 0 i 0) * 16 then some (recId 0x0004 0)
    else none
  | 0x0002 => if yardShort then some (recId 0x0007 0) else if tooLarge then some (recId 0x0001 0) else none
  | 0x0004 => if (findRec rs 0x0001 0).isSome ∧ recWordIn rs 0x0001 0 2 0 * 16384 * 13 < shedUnits w * 16 then some (recId 0x0001 0) else none
  | 0x0007 =>
    if inYardIn rs ∧ fabricReady rs = false then some (recId 0x001A 0)
    else if yardShort then some (recId 0x0002 0) else none
  | 0x0012 =>
    ((List.range 128).find? fun l => decide (l ≠ r.inst) && recWordIn rs 0x0012 l 0 l == w 0).map fun l => recId 0x0012 l
  | 0x001A =>
    if bit (fabCfgIn rs) 3 ∧ traceDest rs = 2 then some (recId 0x0021 0)
    else if inYardIn rs ∧ fabricReady rs = false then some (recId 0x0007 0) else none
  | 0x0020 => if 4 ≤ r.inst ∧ traceDest rs = 3 then some (recId 0x0021 0) else timer
  | 0x0021 =>
    match (List.range 4).find? fun i => traceDest rs = 3 ∧ (findRec rs 0x0020 (4 + i)).isSome with
    | some i => some (recId 0x0020 (4 + i))
    | none => if traceDest rs = 2 ∧ bit (fabCfgIn rs) 3 then some (recId 0x001A 0) else timer
  | 0x0022 => timer
  | 0x0023 => timer
  | _ => none

/-- The records of a set in staging order, each tried against the state that the whole set would produce: the status and
result of the first failure. `whole` sets hold one record per identifier. -/
def checkFrom (how : Presented) (whole : Bool) (rs : List CfgRec) : List Nat → List CfgRec → Option (Nat × Nat)
  | _, [] => none
  | seen, r :: more =>
    if ignored r then checkFrom how whole rs seen more
    else if whole ∧ seen.contains r.id then some (Status.configConflict, r.id + r.id * 2 ^ 32)
    else if recValid how rs r = false then some (Status.configInvalid, r.id)
    else
      match resourceClash rs r with
      | some o => some (Status.configConflict, r.id + o * 2 ^ 32)
      | none => checkFrom how whole rs (r.id :: seen) more

/-- The check of a set against a base. -/
def checkSet (how : Presented) (base recs : List CfgRec) : Option (Nat × Nat) :=
  checkFrom how (match how with | .staged _ => false | _ => true) (applyRecs base recs) [] recs

/-- The check of a set staged at run time. -/
def checkStaged (recs : List CfgRec) (s : State) : Option (Nat × Nat) := checkSet (.staged (stableAt s 1).size) (baseRecs s) recs

/-- A failed check is counted, and a conflict recorded (R419). -/
def checkFailed (f : Nat × Nat) (s : State) : State :=
  let s1 := inc 0x120104 s
  if f.1 = Status.configConflict then updCfg (fun c => { c with conflictA := bits f.2 31 0, conflictB := bits f.2 63 32 }) s1 else s1

/-! ## Commit points (R16, R278, R412) -/

/-- A reposition for a write window is under way, or its window is to open. -/
def writeMove (s : State) : Bool :=
  (s.srv.sched.any fun e => e.2.kind == Kind.windowOpen && !bit e.2.arg 8) || (s.brd.repos.any fun r => r.requester == 1)
    || (s.srv.sched.any fun e => e.2.kind == Kind.settled && e.2.recipient == 1)
    || (postedTo s .bridle).any fun m => m.src == Src.fmt && m.code == 0x0003

/-- The device is writing (R278): from the first opening of a write window until the formatter has no image left, with the
turnarounds and the repositions for a restart. -/
def deviceWriting (s : State) : Bool :=
  s.wrv.windowOpen || (s.wrv.begun && ((nextImage s s.wrv.windowPart).isSome || writeMove s))

/-- Where the next commit point lies and its direction. -/
def commitPoint (s : State) : Nat × Bool :=
  match inProgress s with
  | some x => (placementEnd s x, reverseWrap x.wrap)
  | none =>
    match s.srv.sched.find? fun e => e.2.kind == Kind.windowOpen with
    | some e => (e.2.pos, e.2.dir)
    | none =>
      match positionAt s s.wrv.windowPart (partAt s s.wrv.windowPart).nextPos with
      | some (w, a, _) => (clockOf w a, reverseWrap w)
      | none => (s.srv.clock, s.srv.reverse)

/-- The hint of a wait for a Tape Clock value: the time to it at the measured speed, rounded up to whole µs, plus 1,000;
65,535 at rest (R74). -/
def clockHint (s : State) (c : Nat) : Nat :=
  if s.srv.speed = 0 then 65535 else min 65535 (ceilDiv (clockDist c s.srv.clock * 25600) s.srv.speed.natAbs + 1000)

/-- The hint of a seventeenth set. -/
def fullHint (s : State) : Nat :=
  let at_ := s.cfg.scheduled.filterMap fun x => (x.entry.bind fun i => AMap.get? s.srv.sched i).map SchedEnt.pos
  match sortBy (fun c => clockDist c s.srv.clock) at_ with
  | c :: _ => clockHint s c
  | [] => 65535

/-! ## Taking effect (R413) -/

/-- The roles of the two cores swap; the core that leaves the Day role is reloaded as Night (R421, R422). -/
def swapRoles (s : State) : State :=
  { s with mgt := { s.mgt with dayCore := 1 - s.mgt.dayCore, nightReady := false, dayAge := 0, nightAge := 0 } }

/-! The image slots (R401, R402). -/

def slotBase (k : Nat) : Nat := k * 0x1800000

def norByte (s : State) (a : Nat) : Byte := AMap.getD s.norMem a 0xFF#8

def norRead (s : State) (a n : Nat) : Bytes := (List.range n).map fun i => norByte s (a + i)

/-- Program bytes; a byte of 0xFF is what an unlisted address reads as. -/
def norWrite (a : Nat) (bs : Bytes) (s : State) : State :=
  { s with norMem := bs.zipIdx.foldl (fun m (b, i) => if b = 0xFF#8 then AMap.erase m (a + i) else AMap.set m (a + i) b) s.norMem }

def headerAt (s : State) (k : Nat) : Bytes := norRead s (slotBase k) 1024

def bootSeqOf (h : Bytes) : Nat := beAt h 16 4

/-- The running image becomes the one of a slot (R419). -/
def takeImage (k : Nat) (s : State) : State :=
  let h := headerAt s k
  updCfg (fun c => { c with bootSlot := k, imageVersion := beAt h 8 4, imageSvn := beAt h 12 4, signer := beAt h 20 1, bootSeq := bootSeqOf h }) s

/-- Receive links that a change of AFE_RX_CFG affects: all for `rbd`, a link for the inversion of its lanes. -/
def rxAffected (old new : Nat) (k : Nat) : Bool :=
  decide (bits old 7 0 ≠ bits new 7 0) || decide (bits old (8 + 3 * k + 2) (8 + 3 * k) ≠ bits new (8 + 3 * k + 2) (8 + 3 * k))

/-- The physical channels that carry a logical channel under a set of records. -/
def carried (rs : List CfgRec) : List Nat := (List.range 128).map fun l => recWordIn rs 0x0012 l 0 l

/-- What follows from records that have taken the place of `old`. -/
def consequences (old recs : List CfgRec) (s : State) : State :=
  let has := fun t => recs.any fun (r : CfgRec) => r.type == t
  let s1 := if has 0x0010 then
      each (fun k s => if rxAffected (recWordIn old 0x0010 0 0 0) (Cfgw.afeRx s) k then
          updRx k (fun l => { l with up := false, failed := false, aligned := false, lanesLocked := 0, starts := 0, tries := 0 }) s
        else s) [0, 1, 2, 3] s
    else s
  -- a commit restarts a link that stays down (R228)
  let s1 := each (fun k s => if (rxAt s k).failed then updRx k (fun l => { l with failed := false, starts := 0, tries := 0 }) s else s) [0, 1, 2, 3] s1
  let s2 := if has 0x0012 then
      let now := carried s1.cfg.records
      let gone := (carried old).filter fun p => !now.contains p
      updWrv (fun w => { w with retired := gone.foldl (fun m p => AMap.set m p ()) (now.foldl (fun m p => AMap.erase m p) w.retired) }) s1
    else s1
  let drives := recs.filterMap fun r => if r.type = 0x0011 ∧ recWordIn old 0x0011 r.inst 0 0 ≠ r.words.getD 0 0 then some r.inst else none
  let s3 := if drives = [] then s2 else sendDrive drives s2
  if has 0x001A then fabCommit (bits (recWordIn old 0x001A 0 0 0) 15 0) s3 else s3

/-- A management command executing on a core that fails ends with BUSY_RETRY (R422). -/
def endExecuting (s : State) : State :=
  let cs := s.hq.cmds.filter fun c => c.ring == 32 && c.st == .running && !(s.cfg.scheduled.any fun x => x.cmd == some c.seq)
  each (fun (c : Cmd) s => complete c.seq Status.busyRetry 1000 s) cs s

/-- What a set does besides its records: a takeover (R422), the swap of an activation (R429), a retirement (R439). -/
def kindEffect (x : CfgSet) (s : State) : State :=
  match x.kind with
  | .plain => s
  | .takeover =>
    let s1 := inc 0x110100 (swapRoles { s with mgt := { s.mgt with takeover := false } })
    postEvent Src.mgtDay 0x11 0x02 true 0 (endExecuting s1)
  | .activation k =>
    let s1 := takeImage k (inc 0x110104 (swapRoles { s with mgt := { s.mgt with activation := none } }))
    postEvent Src.mgtDay 0x11 0x03 false (s1.cfg.imageVersion % 2 ^ 32) s1
  | .retire p clear =>
    let s1 := updCfg (fun c => { c with serviceArea := applyRecs c.serviceArea x.recs }) (inc 0x11010C s)
    let s2 := each (fun q s => updPart q (fun y => { y with writeStopped := false })
      (updWrv (fun w => { w with images := w.images.map fun i => if i.part = q then { i with tries := 0 } else i }) s)) clear s1
    postEvent Src.mgtDay 0x11 0x04 false (p % 256) s2

/-- The result of the command that a set completes. -/
def setResult (x : CfgSet) (clock : Nat) (s : State) : Nat :=
  match x.kind with
  | .activation _ => s.cfg.imageVersion
  | .retire _ _ => 0
  | _ => clock

/-- A set takes effect at a Tape Clock value, or at once (value 0). -/
def takeEffect (clock : Nat) (x : CfgSet) (s : State) : State :=
  let old := s.cfg.records
  let s1 := inc 0x120100 (updCfg (fun c => { c with records := applyRecs c.records x.recs, commitClock := clock }) s)
  let s2 := enterService s (kindEffect x (consequences old x.recs s1))
  match x.cmd with
  | none => s2
  | some q => complete q Status.ok (setResult x clock s2) (updCmd q (fun c => { c with endSeen := s2.hq.acceptSeq }) s2)

/-- Scheduled sets that a test picks leave the queue and the scheduler and take effect in order. -/
def effectOf (pick : CfgSet → Bool) (clock : Nat) (s : State) : State :=
  let xs := s.cfg.scheduled.filter pick
  let s1 := updCfg (fun c => { c with scheduled := c.scheduled.filter fun x => !pick x }) s
  let s2 := each cancelSched (xs.filterMap CfgSet.entry) s1
  each (takeEffect clock) xs s2

/-- Commit a checked set: at once, after those already scheduled, or scheduled for the commit point. None when sixteen
are scheduled. -/
def commitSet (recs : List CfgRec) (kind : SetKind) (cmd : Option Nat) (s : State) : Option State :=
  if deviceWriting s = false then some (takeEffect 0 ⟨recs, kind, cmd, none⟩ (effectOf (fun _ => true) 0 s))
  else if 16 ≤ s.cfg.scheduled.length then none
  else
    let (c, dir) := commitPoint s
    match postSched Kind.commit 5 c dir 0 0 s with
    | (some i, s1) =>
      let s2 := updCfg (fun g => { g with scheduled := g.scheduled ++ [⟨recs, kind, cmd, some i⟩] }) s1
      some (match cmd with | some q => setSt q .running s2 | none => s2)
    | (none, _) => none

/-- Check a set and commit it for a command; what fails completes the command. -/
def stageAndCommit (recs : List CfgRec) (kind : SetKind) (seq : Nat) (s : State) : State :=
  match checkStaged recs s with
  | some f => complete seq f.1 f.2 (checkFailed f s)
  | none =>
    match commitSet recs kind (some seq) s with
    | some s1 => s1
    | none => complete seq Status.busyRetry (fullHint s) s

/-- COMMIT (R412): every set of this commit point takes effect. An entry of a device that no longer writes is cancelled,
and its set takes effect at once. -/
def execCommit (idx : Nat) (s : State) : Out :=
  if (s.cfg.scheduled.any fun x => x.entry == some idx) ∧ deviceWriting s = false then go (effectOf (fun _ => true) 0 s)
  else
    go (fire Kind.commit idx (fun e s =>
      let here := fun (x : CfgSet) => x.entry == some idx || (x.entry.bind fun i => AMap.get? s.srv.sched i).any fun y => y.pos == e.pos && y.dir == e.dir
      effectOf here e.pos s) s)

/-! ## Configuration commands (R53, R411, R418) -/

/-- The open set belongs to the other port. -/
def foreignSet (s : State) (c : Cmd) : Bool := s.cfg.openSet.any fun x => x.1 != c.port

/-- Records of the open set. -/
def openRecs (s : State) : List CfgRec := (s.cfg.openSet.map Prod.snd).getD []

/-- Stage a record; an ignored one is only counted (R409). -/
def stageRec (p : Port) (r : CfgRec) (s : State) : State :=
  if ignored r then inc 0x120108 s else updCfg (fun c => { c with openSet := some (p, putRec r ((c.openSet.map Prod.snd).getD [])) }) s

/-- CFG_STAGE (R411, R418). -/
def execCfgStage (seq : Nat) (sgl data : Bytes) (s : State) : Out :=
  match due s seq 0x80 with
  | none => go s
  | some c =>
    if foreignSet s c then go (complete seq Status.busyRetry 1000 s)
    else if sglOk c.e sgl c.e.length = false ∨ data.length ≠ c.e.length then go (complete seq Status.invalidField 0 s)
    else
      match readRecords data with
      | none => go (complete seq Status.invalidField 0 s)
      | some rs =>
        let s1 := each (stageRec c.port) rs (updCfg (fun g => { g with openSet := some (c.port, openRecs s) }) s)
        go (complete seq Status.ok (openRecs s1).length s1)

/-- CFG_CHECK (R415). -/
def execCfgCheck (seq : Nat) (s : State) : Out :=
  match due s seq 0x81 with
  | none => go s
  | some c =>
    if foreignSet s c then go (complete seq Status.busyRetry 1000 s)
    else
      match checkStaged (openRecs s) s with
      | some f => go (complete seq f.1 f.2 (checkFailed f s))
      | none => go (complete seq Status.ok 0 s)

/-- CFG_COMMIT (R412, R416). -/
def execCfgCommit (seq : Nat) (s : State) : Out :=
  match due s seq 0x82 with
  | none => go s
  | some c =>
    if foreignSet s c then go (complete seq Status.busyRetry 1000 s)
    else
      match s.cfg.openSet with
      | none => go (complete seq Status.ok 0 s)
      | some (_, rs) =>
        match checkStaged rs s with
        | some f => go (complete seq f.1 f.2 (checkFailed f s))
        | none =>
          match commitSet rs .plain (some seq) s with
          | some s1 => go (updCfg (fun g => { g with openSet := none }) s1)
          | none => go (complete seq Status.busyRetry (fullHint s) s)

/-- CFG_DISCARD (R411). -/
def execCfgDiscard (seq : Nat) (s : State) : Out :=
  match due s seq 0x83 with
  | none => go s
  | some c =>
    if foreignSet s c then go (complete seq Status.busyRetry 1000 s)
    else go (complete seq Status.ok 0 (updCfg (fun g => { g with openSet := none }) s))

/-- The record that feature 0x03 stages. -/
def exposureRec (mib : Nat) : CfgRec := ⟨0x0003, 0, false, 4, [mib]⟩

/-- SET_FEATURE (R53): coalescing and the early-warning reserve at once, the exposure limit at the commit point. -/
def execSetFeature (seq : Nat) (s : State) : Out :=
  match due s seq 0x11 with
  | none => go s
  | some c =>
    let v := c.e.length
    match bits c.e.param 7 0 with
    | 1 => go (complete seq Status.ok 0 (updRing c.port (bits c.e.param 12 8) (fun x => { x with coalCount := bits v 15 0, coalTime := bits v 31 16 }) s))
    | 2 => if v < 16 ∨ 65535 < v then go (complete seq Status.invalidField 0 s)
           else go (complete seq Status.ok 0 (updPart c.e.partition (fun x => { x with ewReserve := v }) s))
    | 3 => go (stageAndCommit [exposureRec v] .plain seq s)
    | _ => go (complete seq Status.invalidField 0 s)

/-! ## Image slots (R402, R403, R408, R418) -/

/-- A segment table entry: type, offset, length, hash. -/
structure SegEnt where
  type : Nat
  off : Nat
  len : Nat
  hash : Bytes
  deriving DecidableEq, Repr

def segEnt (h : Bytes) (i : Nat) : SegEnt :=
  let o := 128 + 64 * i
  ⟨beAt h o 1, beAt h (o + 4) 4, beAt h (o + 8) 4, slice h (o + 16) 48⟩

/-- The segments of a header, by its count. -/
def segTable (h : Bytes) : List SegEnt := (List.range (beAt h 21 1)).map (segEnt h)

/-- Largest length of a segment type. -/
def segLimit : Nat → Nat
  | 1 => 4194304
  | 2 => 262144
  | 3 => 262144
  | 4 => 1048576
  | 5 => 16777216
  | _ => 0

/-- The segment table meets R402. -/
def tableValid (h : Bytes) : Bool :=
  let n := beAt h 21 1
  let t := segTable h
  (n == 4 || n == 5)
    && (slice h (128 + 64 * n) (64 * (8 - n))).all (· == 0#8)
    && (t.all fun e => decide (1 ≤ e.type ∧ e.type ≤ 5 ∧ e.len ≤ segLimit e.type ∧ 1024 ≤ e.off ∧ e.off + e.len ≤ 0x1800000))
    && ([1, 2, 3, 4].all fun k => (t.filter fun e => e.type == k).length == 1)
    && decide ((t.filter fun e => e.type == 5).length ≤ 1)
    && (t.zipIdx.all fun (e, i) => t.zipIdx.all fun (f, j) => i == j || decide (e.off + e.len ≤ f.off ∨ f.off + f.len ≤ e.off))

def segBytesOf (s : State) (k : Nat) (e : SegEnt) : Bytes := norRead s (slotBase k + e.off) e.len

/-- Minimum security version: the bits of the thermometer code (R407). -/
def fusedSvn (f : Fuses) : Nat := ((List.range 64).filter (bit f.thermometer)).length

/-- The fuses that the CRC covers, in the order of R407 (log entry 55). -/
def fuseBytes (f : Fuses) : Bytes :=
  ((List.range 4).flatMap fun i => fit (f.signers.getD i []) 48) ++ be 1 (f.revoked % 16) ++ be 8 f.thermometer ++ be 4 f.noncePrefix ++ fit f.secret 32

/-- Fuses as blown, with their CRC (R407, R408). -/
def sealFuses (f : Fuses) : Fuses := { f with crc := crc32 (fuseBytes f) }

/-- Blow further bits of the thermometer code, lowest first, until n are set; a blown fuse stays. -/
def raiseTo (n t : Nat) : Nat :=
  (List.range 64).foldl (fun t i => if ((List.range 64).filter (bit t)).length < n then setBits t i i 1 else t) t

/-- The signer of a header is fused, not revoked, and its key's hash matches. -/
def signerValid (f : Fuses) (h : Bytes) : Bool :=
  let i := beAt h 20 1
  decide (i < 4) && !bit f.revoked i && (f.signers.getD i []) == sha384 (slice h 640 97) && (f.signers.getD i []).any (· != 0#8)

/-- The result of examining a slot, by the codes of CFG_SLOT_STATUS, in their order (R403). -/
def examine (f : Fuses) (s : State) (k : Nat) : Nat :=
  let h := headerAt s k
  if beAt h 0 4 ≠ 0x44564D49 ∨ beAt h 4 1 ≠ 0xC1 ∨ beAt h 6 2 ≠ 1024 then 2
  else if bit (beAt h 5 1) 1 = false then 3
  else if signerValid f h = false then 4
  else if ecdsaVerify (slice h 640 97) (sha384 (h.take 768)) (slice h 768 96) = false then 5
  else if beAt h 12 4 < fusedSvn f then 6
  else if tableValid h = false then 7
  else if (segTable h).all fun e => sha384 (segBytesOf s k e) == e.hash then 1
  else 8

def fusesOf (s : State) : Fuses := s.cfg.fuses.getD ⟨[], 0, 0, 0, [], 0⟩

/-- The configuration records of a slot's segment 0x04. -/
def slotRecords (s : State) (k : Nat) : Option (List CfgRec) :=
  match (segTable (headerAt s k)).find? fun e => e.type == 4 with
  | some e => readRecords (segBytesOf s k e)
  | none => none

/-- IMAGE_WRITE (R418): either slot in Dawn hold and FAULTED, otherwise not the running one. -/
def execImageWrite (seq : Nat) (sgl data : Bytes) (s : State) : Out :=
  match due s seq 0x84 with
  | none => go s
  | some c =>
    let k := bits c.e.param 0 0
    let free := s.cfg.st == .hold || s.cfg.st == .faulted
    if (k = s.cfg.bootSlot ∧ free = false) ∨ 16777216 < c.e.length ∨ 0x1800000 < c.e.position + c.e.length
        ∨ sglOk c.e sgl c.e.length = false ∨ data.length ≠ c.e.length then
      go (noteCmd 0x84 (complete seq Status.invalidField 0 s))
    else go (noteCmd 0x84 (complete seq Status.ok data.length (norWrite (slotBase k + c.e.position) data s)))

/-- IMAGE_QUERY (R418, R469): both slot headers. -/
def execImageQuery (seq : Nat) (sgl : Bytes) (s : State) : Out :=
  match due s seq 0x85 with
  | none => go s
  | some c =>
    if c.e.length < 2048 then go (noteCmd 0x85 (complete seq Status.lengthLimit 0 s))
    else if sglOk c.e sgl c.e.length = false then go (noteCmd 0x85 (complete seq Status.invalidField 0 s))
    else go (noteCmd 0x85 (complete seq Status.ok 2048 (sglWrite (sglOf c.e sgl) 0 (headerAt s 0 ++ headerAt s 1) s)))

/-- A change of fuses leaves some slot valid. -/
def leavesSlot (f : Fuses) (s : State) : Bool := examine f s 0 == 1 || examine f s 1 == 1

/-- FUSE_ADVANCE (R408). -/
def execFuseAdvance (seq : Nat) (s : State) : Out :=
  match due s seq 0x86 with
  | none => go s
  | some _ =>
    let f := fusesOf s
    let n := max (fusedSvn f) (min s.cfg.imageSvn 64)
    let g := sealFuses { f with thermometer := raiseTo n f.thermometer }
    if leavesSlot g s then go (complete seq Status.ok n (updCfg (fun c => { c with fuses := some g }) s))
    else go (complete seq Status.invalidField 0 s)

/-- FUSE_REVOKE (R408): never the signer of the running image. -/
def execFuseRevoke (seq : Nat) (s : State) : Out :=
  match due s seq 0x87 with
  | none => go s
  | some c =>
    let i := bits c.e.param 1 0
    let f := fusesOf s
    let g := sealFuses { f with revoked := setBits f.revoked i i 1 }
    if i ≠ s.cfg.signer ∧ leavesSlot g s = true then go (complete seq Status.ok 0 (updCfg (fun c => { c with fuses := some g }) s))
    else go (complete seq Status.invalidField 0 s)

end Sys2Proof.Machine
end

