-- ==== Sys2Proof/Machine/Dawn.lean ====
section
/-!
DEFINITION. Dusk and power loss (11), Dawn with the replay of the Shed (14, 11), and the loss of clock inputs (16).
-/

namespace Sys2Proof.Machine

/-! ## What survives a reset -/

/-- A directory set without what only its records give: which cartridge it is of, and when it was loaded (log entry 56). -/
def bareSet (d : DirSet) : DirSet := { serial := d.serial, pass := d.pass, loadedAt := d.loadedAt }

/-- The machine in reset: what the NOR, the fuses, the NAND, the cartridge, the inputs and the host's memory hold is kept;
in reset the I3C target keeps its dynamic address and its last report (R446). -/
def afterReset (s : State) : State :=
  { State.reset with
    cfg := { fuses := s.cfg.fuses, serviceArea := s.cfg.serviceArea, pfail := s.cfg.pfail }
    cip := { keyArea := s.cip.keyArea, cert := s.cip.cert }
    cart := { present := s.cart.present }
    srv := { shockPin := s.srv.shockPin }
    hq := { portA := { perst := s.hq.portA.perst }, portB := { perst := s.hq.portB.perst } }
    shd := { units := s.shd.units, jlog := s.shd.jlog, ckpt := s.shd.ckpt, lossLog := s.shd.lossLog, dirs := s.shd.dirs.map bareSet,
             lostLanding := s.shd.lostLanding, hist := s.shd.hist, hottest := s.shd.hottest }
    mgt := { i3cAddr := s.mgt.i3cAddr, ibiOn := s.mgt.ibiOn, report := s.mgt.report }
    hostMem := s.hostMem
    cartMem := s.cartMem
    norMem := s.norMem
    freeCtr := s.freeCtr
    pending := s.pending }

/-! ## Dawn stages D0 to D2 (R398, R399, R403, R404) -/

/-- A Dawn stage is entered, and noted in the Dawn log (R406). -/
def enterStage (st : DawnSt) (n : Nat) (s : State) : State := dawnNote n (updCfg (fun c => { c with st := st, stage := n }) s)

/-- Dawn begins with D0. -/
def beginDawn (s : State) : State := enterStage .d0 0 s

/-- COLD_START (R398): supplies good, RESET_N deasserted. The fuses were blown at manufacture. -/
def execColdStart (fuses : Fuses) (s : State) : Out :=
  if s.cfg.st ≠ .reset ∨ s.cfg.pfail then go s
  else go (beginDawn (updCfg (fun c => { c with fuses := some (c.fuses.getD fuses) }) s))

/-- Functions of both ports answer. -/
def enableFunctions (a b : Bool) (s : State) : State :=
  { s with hq := { s.hq with portA := { s.hq.portA with functionsOn := a }, portB := { s.hq.portB with functionsOn := b } } }

/-- Dawn hold (R405, R453): both functions of both ports, IDLE on the write lanes, core 0 as Day. -/
def enterHold (s : State) : State :=
  sendIdle (enableFunctions true true (setDoms [1, 3, 15, 22, 23, 24, 25, 28, 29] true
    { updCfg (fun c => { c with st := .hold }) s with mgt := { s.mgt with domains := 0, dayCore := 0, nightReady := false } }))

/-- PCIe ports begin link training (R399), unless PERST holds them. -/
def trainPorts (s : State) : State :=
  let one := fun (x : PciePort) => { x with training := !x.perst }
  { s with hq := { s.hq with portA := one s.hq.portA, portB := one s.hq.portB } }

/-- DAWN_D0_DONE (R398, R407, R120): the fuse CRC, the nonce prefix, PCIe training. -/
def execDawnD0Done (s : State) : Out :=
  if s.cfg.st ≠ .d0 then go s
  else
    let f := fusesOf s
    let s1 := trainPorts s
    if f.crc ≠ crc32 (fuseBytes f) then go (enterHold s1)
    else go (enterStage .d1 1 (setDoms [3, 22, 23, 28] true { s1 with cip := { s1.cip with noncePrefix := f.noncePrefix } }))

/-- The result of a slot, as CFG_SLOT_STATUS shows it and the Dawn log notes it. -/
def setSlotStatus (k code : Nat) (s : State) : State :=
  dawnNote (0x100 + 16 * k + code) (updCfg (fun c => if k = 0 then { c with slotA := code } else { c with slotB := code }) s)

def slotStatus (s : State) (k : Nat) : Nat := if k = 0 then s.cfg.slotA else s.cfg.slotB

/-- The valid slot with the higher boot sequence, slot A on ties, of those not failed at D2 (R404). -/
def chosenSlot (s : State) : Option Nat :=
  let ok := fun k => !s.cfg.failedD2.contains k && slotStatus s k == 1
  let q := fun k => bootSeqOf (headerAt s k)
  if ok 0 ∧ (ok 1 = false ∨ q 1 ≤ q 0) then some 0 else if ok 1 then some 1 else none

/-- DAWN_D1_DONE (R403, R404): the slots are examined, A and then B; a slot that failed at D2 in this Dawn is left out. -/
def execDawnD1Done (s : State) : Out :=
  if s.cfg.st ≠ .d1 then go s
  else
    let ks := [0, 1].filter fun k => !s.cfg.failedD2.contains k
    let s1 := each (fun k s => setSlotStatus k (examine (fusesOf s) s k) s) ks s
    match chosenSlot s1 with
    | none => go (enterHold s1)
    | some k => go (enterStage .d2 2 (setDoms [4, 5, 6] true (takeImage k s1)))

/-- The service area records that pass the check after the image's; each that fails is dropped (R414). -/
def serviceFilter : Nat → List CfgRec → List CfgRec → List Nat → List CfgRec × List Nat
  | 0, _, svc, gone => (svc, gone)
  | f + 1, image, svc, gone =>
    match checkFrom .dawn true (applyRecs image svc) [] svc with
    | none => (svc, gone)
    | some (_, res) => serviceFilter f image (svc.filter fun r => r.id != bits res 31 0) (gone ++ [bits res 31 0])

/-- The slot that a key-area record is of. -/
def keyRecSlot : KeyRec → Option Nat
  | .slot n _ _ => some n
  | .tombstone n _ => some n
  | .retiredKey n _ _ => some n
  | _ => none

/-- The key store and the issue counter are restored (R122, R123); a transport key pair is made at the first Dawn (R124). -/
def restoreKeys (bad : List Nat) (s : State) : State :=
  let area := s.cip.keyArea
  let secret := (fusesOf s).secret
  let slots := (area.filterMap keyRecSlot).foldl (fun (m : AMap KeySlot) n => AMap.set m n (restoreSlot area bad secret n)) []
  let s1 := { s with cip := { s.cip with
    ready := true, slots := slots, nextIssue := resumeIssue area, keyArea := if area.contains .transport then area else area ++ [.transport] } }
  each (fun i s => match (area[i]?).bind keyRecSlot with
    | some n => postEvent Src.cip 0x04 0x02 false n s
    | none => s) bad s1

/-- The image fails its check: the other slot, or Dawn hold (R404). -/
def imageFails (s : State) : State :=
  let k := s.cfg.bootSlot
  let s1 := setSlotStatus k 9 (updCfg (fun c => { c with failedD2 := c.failedD2 ++ [k] }) s)
  if slotStatus s1 (1 - k) = 1 then enterStage .d1 1 s1 else enterHold s1

/-- The first set takes effect: image, then service area (R398, R414). Channels that no logical channel is mapped to and
that the identity map would carry are the retired ones (R145, R146). -/
def commitFirst (image : List CfgRec) (bad : List Nat) (s : State) : State :=
  let (svc, gone) := serviceFilter (s.cfg.serviceArea.length + 1) image s.cfg.serviceArea []
  let s1 := each (fun i s => postEvent Src.aon 0x12 0x01 false i (inc 0x12010C s)) gone s
  let s2 := inc 0x120100 (updCfg (fun c => { c with records := applyRecs image svc, commitClock := 0 }) s1)
  let now := carried s2.cfg.records
  let s3 := updWrv (fun w => { w with
    retired := ((List.range 128).filter fun p => !now.contains p).foldl (fun m p => AMap.set m p ()) [] }) s2
  enterStage .d3 3 (setDoms [2] true (restoreKeys bad s3))

/-- DAWN_D2_DONE (R398, R404, R409, R414, R415). -/
def execDawnD2Done (badKeys : List Nat) (s : State) : Out :=
  if s.cfg.st ≠ .d2 then go s
  else
    match slotRecords s s.cfg.bootSlot with
    | none => go (imageFails (inc 0x120104 s))
    | some recs =>
      let s1 := addCtr 0x120108 (recs.filter ignored).length s
      let image := applyRecs [] (recs.filter fun r => !ignored r)
      match checkSet .dawn [] recs with
      | some f => go (imageFails (checkFailed f s1))
      | none => go (commitFirst image badKeys s1)

/-! ## Shed replay (R305, R312, R334, R340) -/

/-- Units in all. -/
def rawUnits (s : State) : Nat := s.shd.dies * s.shd.blocksPerPlane * ppb s

/-- An empty checkpoint. -/
def emptyCkpt (s : State) (gen horizon : Nat) : Ckpt :=
  ⟨gen, horizon, s.cip.noncePrefix, [], [], [], [], [], [], List.replicate 10 0, [], []⟩

/-- The page_seq above the highest found. -/
def nextPageSeq (d : Shd) : Nat :=
  max (d.units.foldl (fun n x => max n (x.2.pageSeq + 1)) 0)
    (max (d.jlog.foldl (fun n j => max n (j.1 + 1)) 0) ((d.ckpt.map Ckpt.horizon).getD 0))

/-- The Shed is formatted (R305). -/
def formatShed (s : State) : State :=
  let n := nextPageSeq s.shd
  postEvent Src.shed 0x0E 0x02 false 0 (updShd (fun d => { d with
    units := [], jlog := [], blocks := [], map := [], spills := [], shelters := [], dirs := [], lossLog := [], lostLanding := [],
    hist := List.replicate 16 0, hottest := 0, pageSeq := n, foreign := true, ckpt := some (emptyCkpt s 1 n), ready := true, replaying := false }) s)

/-- Blocks open at the cut: those the checkpoint shows open and those that an ERASED record names. -/
def openedBlocks (c : Ckpt) (js : List (Nat × List JRec)) : List Nat :=
  (c.blocks.filter fun x => x.2.st == .opened).map Prod.fst
    ++ js.flatMap fun j => j.2.filterMap fun r => match r with | .erased b _ _ => some b | _ => none

/-- What replay applies, by page_seq. -/
inductive Replay where
  | unit (u : Nat) (x : NUnit)
  | recs (rs : List JRec)

/-- Data units of streams 0 and 1 in the opened blocks, of the journal's reach, without read-ahead and unreadable ones. -/
def replayUnits (s : State) (c : Ckpt) (bad : List Nat) : List (Nat × Replay) :=
  let opened := openedBlocks c s.shd.jlog
  (s.shd.units.filter fun (u, x) =>
    x.role == 0 && (x.stream == 0 || x.stream == 1) && decide (x.logical < 0x7800000) && !bad.contains u
      && opened.contains (blockOfUnit s u) && (decide (c.horizon ≤ x.pageSeq) || c.issued.contains u)).map fun (u, x) => (x.pageSeq, .unit u x)

/-- A directory set takes an entry of a DIR record (R324, R327). -/
def dirEntry (part kind : Nat) (e : Bytes) (d : DirSet) : DirSet :=
  let x := AMap.getD d.dirs part {}
  let put := fun (x : Directory) => { d with dirs := AMap.set d.dirs part x }
  match kind with
  | 1 => if x.segs.contains (segParse e) then d else put { x with segs := sortBy (fun g => g.ds * 2 ^ 25 + g.off) (x.segs ++ [segParse e]) }
  | 2 => put { x with lofts := addLoft (loftParse e) x.lofts }
  | 3 => if x.relocs.contains (relocParse e) then d else put { x with relocs := x.relocs ++ [relocParse e] }
  | _ => { d with eods := AMap.set d.eods part ⟨beAt e 0 6, beAt e 6 4, beAt e 10 1, beAt e 11 3⟩ }

/-- A ring's tail as a RELEASE record gives it: units wholly below it are unmapped. -/
def replayRelease (r tail : Nat) (s : State) : State :=
  let x := spillAt s r
  if tail ≤ x.tail then s
  else
    let n := tail / 65536 - x.tail / 65536
    let gone := (List.range n).map fun i => spillLogical r ((x.tail / 65536 + i) * 65536)
    updShd (fun d => { d with
      map := d.map.filter fun m => !gone.contains m.1
      shelters := d.shelters.filter fun j => match j with
        | .shelter q _ _ _ _ off len _ _ => !(q == r && decide (off + len ≤ tail))
        | _ => true }) (setSpill r { x with tail := tail } s)

/-- A journal record, applied in replay (R327, R334). -/
def replayRec (r : JRec) (s : State) : State :=
  match r with
  | .ring k part true pass serial => setSpill k { assigned := true, part := part, pass := pass, serial := serial } s
  | .ring k _ false _ _ => setSpill k {} s
  | .shelter .. => if s.shd.shelters.contains r then s else updShd (fun d => { d with shelters := d.shelters ++ [r] }) s
  | .release k tail => replayRelease k tail s
  | .unmap first n => updShd (fun d => { d with map := d.map.filter fun m => !decide (first ≤ m.1 ∧ m.1 < first + n) }) s
  | .gcMove l src dst => if mapOf s l = some src then updShd (fun d => { d with map := AMap.set d.map l dst }) s else s
  | .erased b n stream => setBlk b { st := .opened, erases := n, stream := stream } s
  | .retire b _ => setBlk b { blkAt s b with st := .retired } s
  | .weak true slot ds part rung pass serial =>
    updRch (fun h => { h with weak := h.weak.filter (fun w => w.slot != slot) ++ [⟨slot, serial, pass, part, ds, rung, [], true⟩] }) s
  | .weak false slot .. =>
    let lo := 0x6000000 + 300 * slot
    updShd (fun d => { d with map := d.map.filter fun m => !decide (lo ≤ m.1 ∧ m.1 < lo + 300) })
      (updRch (fun h => { h with weak := h.weak.filter fun w => w.slot != slot }) s)
  | .dir set part kind e => updShd (fun d => { d with dirs := d.dirs.modify set (dirEntry part kind e) }) s
  | .dusk .. => s

def replayOne (x : Nat × Replay) (s : State) : State :=
  match x.2 with
  | .unit u n => updShd (fun d => { d with map := AMap.set d.map n.logical u }) s
  | .recs rs => each replayRec rs s

/-- The tables of a checkpoint; a set taken over since then keeps none of its entries. -/
def loadCkpt (c : Ckpt) (s : State) : State :=
  let h := fun i => c.health.getD i 0
  let same := fun (d : DirSet × Nat) =>
    match c.dirs[d.2]? with
    | some x => if x.serial = d.1.serial ∧ x.pass = d.1.pass then { x with loadedAt := d.1.loadedAt } else d.1
    | none => d.1
  updRch (fun r => { r with weak := c.weak }) (updShd (fun d => { d with
    map := c.map, blocks := c.blocks, spills := c.spills, shelters := c.shelters, dirs := d.dirs.zipIdx.map same
    hostUnits := h 0, nandUnits := h 1, correctedBits := h 2, uncorrectable := h 3, programFails := h 4, eraseFails := h 5, verifyFails := h 6,
    lostUnits := h 7, dusks := h 8, dusksIncomplete := h 9 }) s)

/-- End of a ring's last SHELTER record; its tail when none stands. -/
def ringEnd (s : State) (r : Nat) : Nat :=
  s.shd.shelters.foldl (fun n j => match j with
    | .shelter q _ _ _ _ off len _ _ => if q = r then max n (off + len) else n
    | _ => n) (spillAt s r).tail

/-- A ring goes on at the end of its last SHELTER record; bytes beyond it are dropped (R334 step 5). -/
def settleRing (r : Nat) (s : State) : State :=
  let x := spillAt s r
  if x.assigned = false then s
  else
    let e := ringEnd s r
    let a := e / 65536 * 65536
    let n := ceilDiv e 65536 - x.tail / 65536
    let inside := fun (l : Nat) => decide ((l % 0x800000 + 0x800000 - x.tail / 65536 % 0x800000) % 0x800000 < n)
    updShd (fun d => { d with map := d.map.filter fun m => !(decide (m.1 / 0x800000 = r) && !inside m.1) })
      (setSpill r { x with head := e, issued := a, buf := ringBytes s r a (e - a), full := false } s)

/-- A block as the cut left it (R334 step 7, R335). -/
def settleBlk (s : State) (b : Nat) (x : Blk) : Blk :=
  let seq := ((s.shd.units.find? fun y => blockOfUnit s y.1 == b).map fun y => y.2.stripeSeq).getD x.stripe
  let y := { x with stripe := seq, lastInval := 0, invalPending := false }
  match x.st with
  | .opened => { y with st := .closed }
  | .erasing => { y with st := .free }
  | .victim => { y with st := .verified }
  | _ => y

/-- The data stream of a weak entry, when the map holds all of its slot's units. -/
def weakStream (s : State) (slot : Nat) : Option Bytes :=
  let us := (List.range 300).map fun i => (mapOf s (0x6000000 + 300 * slot + i)).bind fun u => AMap.get? s.shd.units u
  if us.all Option.isSome then some ((us.flatMap fun u => (u.map NUnit.data).getD []).take streamSize) else none

/-- A SHELTER record that no later DUSK record follows (R340). -/
def lastDuskIncomplete (rs : List JRec) : Bool :=
  (rs.reverse.takeWhile fun r => match r with | .dusk .. => false | _ => true).any fun r => match r with | .shelter .. => true | _ => false

/-- The report of an incomplete Dusk. -/
def reportDusk (s : State) : State :=
  let rings := (s.shd.spills.filter fun x => x.2.assigned).map fun x => (x.2.serial, x.2.pass, x.2.part)
  postEvent Src.shed 0x0E 0x05 false 0
    (updShd (fun d => { d with duskIncomplete := true, dusksIncomplete := d.dusksIncomplete + 1, cutLoss := rings }) s)

/-- Replay from a checkpoint (R334). -/
def replayFrom (c : Ckpt) (bad : List Nat) (s : State) : State :=
  let s1 := loadCkpt c (updShd (fun d => { d with pageSeq := nextPageSeq d }) s)
  let evs := sortBy (fun x => x.1) (replayUnits s1 c bad ++ s1.shd.jlog.map fun j => (j.1, .recs j.2))
  let s2 := each replayOne evs s1
  let s3 := each settleRing (List.range 8) s2
  let s4 := updRch (fun h => { h with weak := h.weak.filterMap fun w => (weakStream s3 w.slot).map fun b => { w with stream := b } }) s3
  let s5 := updShd (fun d => { d with
    blocks := d.blocks.map fun (b, x) => (b, settleBlk s4 b x)
    pagesStored := d.map.foldl (fun m x => AMap.set m (x.1 / 4096) ()) [] }) s4
  let recs := (s5.shd.jlog.filter fun j => decide (c.horizon ≤ j.1)).flatMap Prod.snd
  let done := (recs.filter fun r => match r with | .dusk .. => true | _ => false).length
  let s6 := settleBlocks (updShd (fun d => { d with dusks := d.dusks + done, ready := true, replaying := false }) s5)
  checkpointDurable (startCheckpoint (if lastDuskIncomplete recs then reportDusk s6 else s6))

/-- The Shed at D3: format, or replay. -/
def bringShed (bad : List Nat) (s : State) : State :=
  match s.shd.ckpt with
  | some c => if c.shedId = s.cip.noncePrefix then replayFrom c bad s else formatShed s
  | none => formatShed s

/-- The spill quota in force (R312): less than the image's where the raw capacity found is smaller than assumed. -/
def setQuota (s : State) : State :=
  let w := Cfgw.shedWord s
  let q := Cfgw.spillQuota s
  let rest := shedUnits w - bits (w 0) 15 0 * 16384
  let fits := (rawUnits s * 13 / 16 - rest) / 16384
  if rawUnits s < Cfgw.shedRaw s * 16384 ∧ fits < q then
    postEvent Src.shed 0x0E 0x03 false 0 (updShd (fun d => { d with spillQuota := fits, quotaReduced := true }) s)
  else updShd (fun d => { d with spillQuota := q }) s

/-! ## Stages D3 to D5 -/

/-- The NAND meets R303 and R304. -/
def nandFits (r : D3Res) : Bool :=
  let raw := r.dies * r.blocksPerPlane * (256 * 2 ^ r.ppbCode)
  r.nandUniform && decide (r.dies % 16 = 0 ∧ 16 ≤ r.dies ∧ r.dies ≤ 128 ∧ r.ppbCode ≤ 4 ∧ 2 ^ 25 ≤ raw ∧ raw ≤ 2 ^ 27)

/-- A failure that D3 posts without a listed event (log entry 57). -/
def postUnlisted (s : State) : State :=
  let s1 := drawNext s
  drawNext (post .mgt Src.mgtDay (drawn s % 65536) (drawn s1) s1)

/-- What each required resource that fails posts, in turn; whether any does (R398, R80, R304, R451). -/
def d3Failures (r : D3Res) (s : State) : Bool × State :=
  let size := (stableSizes s).getD 1 0
  let least := packetMinimum (Cfgw.exposureMiB s)
  let ddrBad := !dramTrained s
  let lanesBad := decide (r.lanes.length < 4) || r.lanes.any (! ·)
  let s1 := if ddrBad then postUnlisted s else s
  let short := decide (size < least)
  let s2 := if ddrBad = false ∧ short = true then postEvent Src.stk 0x02 0x02 false (least - size) s1 else s1
  let s3 := if nandFits r then s2 else postEvent Src.shed 0x0E 0x01 false 0 s2
  let s4 := if lanesBad then postUnlisted s3 else s3
  let s5 := if r.railsGood then s4 else postUnlisted s4
  (ddrBad || short || !nandFits r || lanesBad || !r.railsGood, s5)

/-- A port is enabled by its PCIE record; without one it is (log entry 58). -/
def pcieEnabled (s : State) (k : Nat) : Bool := bit (recWord s 0x0006 k 0 1) 0

/-- A receive link after its start at D3 (R228). -/
def linkStarted (ok : Bool) : RxLink := { up := ok, aligned := ok, lanesLocked := if ok then 7 else 0, starts := 1, tries := b2n !ok }

/-- Write lanes: TRAIN, then DRIVE for every channel (R201, R204). -/
def startLanes (s : State) : State :=
  sendDrive (List.range 132)
    (each (fun k s => updLane k (fun l => { l with trained := true }) (sendBlocks k [control 0x55 0xA5A5A5A5A5A5A5] s)) [0, 1, 2, 3] s)

/-- What D3 finds is recorded: DRAM and NAND geometry. -/
def d3Record (r : D3Res) (s : State) : State :=
  updShd (fun d => { d with dies := r.dies, blocksPerPlane := r.blocksPerPlane, ppbCode := r.ppbCode })
    { s with stk := { s.stk with ddr := (r.ddr.zipIdx.take 4).map fun (x, i) => (i, x) } }

/-- The Shed's map cache takes its 1,024 management Stalls for as long as the device runs (R79, R314). -/
def takeCache (s : State) : State :=
  if freeCount (stableAt s 7) < 1024 then s
  else
    let r := grant 0x34 7 1024 s
    updShd (fun d => { d with cacheStalls := r.1 }) r.2

/-- DAWN_D3_DONE (R398): FAULTED, or every outside link and the Shed up. A D3 that ends FAULTED builds no Stables, so their sizes
and the number of Stalls stay as reset left them (DESIGN CHOICE, log entry 111). -/
def execDawnD3Done (r : D3Res) (s : State) : Out :=
  if s.cfg.st ≠ .d3 then go s
  else
    let s1 := enableFunctions (pcieEnabled s 0) (pcieEnabled s 1) (setDoms ((List.range 30).map (· + 1)) true (d3Record r s))
    let (bad, s2) := d3Failures r s1
    if bad then go (updCfg (fun c => { c with st := .faulted }) s2)
    else
      let s3 := setQuota (bringShed r.unreadable (takeCache (buildStables s2)))
      let s4 := updRch (fun h => { h with links := (List.range 4).map fun k => (k, linkStarted (r.linksUp.getD k false)) })
        (updFab (fun f => { f with ready := true })
          (updBrd (fun b => { b with ready := true, slew := Cfgw.speedSlew s3 }) (startLanes s3)))
      go (enterStage .d4 4 { s4 with stk := { s4.stk with scrubActive := true } })

/-- DAWN_D4_DONE (R398, R403, R235): the calibrated taps; a mismatch of segment 0x05 ends Dawn in FAULTED. -/
def execDawnD4Done (r : D4Res) (s : State) : Out :=
  if s.cfg.st ≠ .d4 then go s
  else if r.hashOk = false then go (postUnlisted (updCfg (fun c => { c with st := .faulted }) s))
  else
    let tapsOf := fun p => r.taps.foldl (fun (m : AMap (List Nat)) t => if t.1 = p then AMap.set m t.2.1 t.2.2 else m) []
    let chan := fun p => let m := tapsOf p; ({ initial := m, taps := AMap.getD m s.rch.cls [] } : Chan)
    go (enterStage .d5 5 (updRch (fun h => { h with ready := true, chans := (List.range 132).map fun p => (p, chan p) }) s))

/-- DAWN_D5 (R398): in service. -/
def execDawnD5 (d3ms totalMs : Nat) (s : State) : Out :=
  if s.cfg.st ≠ .d5 then go s
  else go (updCfg (fun c => { c with st := .service, d3ms := d3ms % 65536, totalMs := totalMs % 65536 }) s)

/-! ## Dusk (R338, R454) -/

/-- A firmware activation is abandoned, with its scheduled set (R430). -/
def abandonActivation (s : State) : State :=
  let isIt := fun (x : CfgSet) => match x.kind with | .activation _ => true | _ => false
  let s1 := each cancelSched ((s.cfg.scheduled.filter isIt).filterMap CfgSet.entry) s
  let s2 := updCfg (fun c => { c with scheduled := c.scheduled.filter fun x => !isIt x }) s1
  { s2 with mgt := { s2.mgt with activation := none } }

/-- Steps 1 to 3 of Dusk. -/
def beginDusk (cause : DuskCause) (s : State) : State :=
  if s.cfg.st = .reset ∨ s.cfg.dusk.isSome then s
  else
    let s1 := abandonActivation (updCfg (fun c => { c with dusk := some { cause := cause } }) s)
    let s2 := post .bridle Src.aon 0x8001 1
      (updRch (fun h => { h with readAhead := false }) { s1 with hq := { s1.hq with stopFetch := true } })
    updShd (fun d => { d with gc := [], victims := [], ckptActive := false, ckptAgain := false, ckptSnap := none }) s2

/-- DUSK_BEGIN (R338). -/
def execDuskBegin (cause : DuskCause) (s : State) : Out :=
  go (beginDusk cause (if cause = .pfail ∧ s.cfg.st ≠ .reset then updCfg (fun c => { c with pfail := true }) s else s))

/-- Domains that Dusk switches off (R338, R453). -/
def duskDomains : List Nat := [4, 7, 8, 9, 10, 11, 12, 13, 14, 15, 16, 17, 18, 22, 23, 24, 25, 27, 30]

/-- DUSK_DOMAINS_OFF (R338): once writing has ended. -/
def execDuskDomainsOff (s : State) : Out :=
  match s.cfg.dusk with
  | none => go s
  | some d =>
    if d.domainsOff ∨ s.wrv.windowOpen then go s
    else
      let off := fun (x : PciePort) => { x with training := false, linkUp := false }
      let s1 := setDoms duskDomains false (updCfg (fun c => { c with dusk := some { d with domainsOff := true } }) s)
      let s2 := updFab (fun f => { f with
          ready := false, routes := [],
          ports := f.ports.map fun (k, x) => (k, { sent := x.sent, txCount := x.txCount, rxCount := x.rxCount }) })
        { s1 with mgt := { s1.mgt with nightReady := false } }
      go (updRch (fun h => { h with links := h.links.map fun (k, x) => (k, { x with up := false, aligned := false, lanesLocked := 0 }) })
        { s2 with hq := { s2.hq with portA := off s2.hq.portA, portB := off s2.hq.portB } })

/-- Every Taken packet is copied and covered by a SHELTER record that is in a journal unit or in the one that Dusk ends
with. -/
def duskSheltered (s : State) : Bool :=
  (s.hq.writes.all fun w => !w.taken || decide (w.pkts.length ≤ w.copied)) && s.shd.copied.isEmpty && s.shd.journals.isEmpty
    && decide (s.shd.pendingRecs.length < 2044)

/-- The journal unit with the last records and the DUSK record. -/
def duskUnit (cause : DuskCause) (s : State) : State :=
  let clock := (s.brd.stop.map CtlStop.endClock).getD s.srv.clock
  let code := match cause with | .pfail => 1 | .reset => 2
  journalDurable (programJournal (journalRec (.dusk code clock) s))

/-- The device enters reset; after PFAIL_N, reset holds until PFAIL_N deasserts. -/
def enterReset (cause : DuskCause) (s : State) : State :=
  let s1 := afterReset s
  if cause = .pfail ∧ s1.cfg.pfail = true then s1 else beginDawn (updCfg (fun c => { c with pfail := false }) s1)

/-- DUSK_COMPLETE (R338, R454). -/
def execDuskComplete (s : State) : Out :=
  match s.cfg.dusk with
  | none => go s
  | some d =>
    if d.domainsOff = false then go s
    else if s.shd.ready = false then go (enterReset d.cause s)
    else if duskSheltered s = false then go s
    else go (enterReset d.cause (duskUnit d.cause s))

/-- PFAIL_DEASSERT (R338): it ends the reset after Dusk. -/
def execPfailDeassert (s : State) : Out :=
  if s.cfg.pfail = false then go s
  else
    let s1 := updCfg (fun c => { c with pfail := false }) s
    go (if s.cfg.st = .reset then beginDawn s1 else s1)

/-- POWER_LOSS (R452): no Dusk; what is volatile is gone, the I3C target with it. -/
def execPowerLoss (s : State) : Out :=
  let s1 := updCfg (fun c => { c with pfail := false }) (afterReset s)
  go { s1 with mgt := {} }

/-! ## Clock inputs (R458) -/

/-- CLOCK_INPUT_LOST (R458). -/
def execClockInputLost (clk : ClockIn) (s : State) : Out :=
  match clk with
  | .pcieA => execLinkDown .a s
  | .pcieB => execLinkDown .b s
  | .fabric => go (each (fun p s => if (portAt s p).st = .down then s else portDown p s) [0, 1, 2, 3] s)
  | .afe => go (each (fun k s => if (rxAt s k).up then failLink k (updRx k (fun x => { x with lanesLocked := 0 }) s) else s) [0, 1, 2, 3] s)
  | .sys => go (beginDusk .reset s)

end Sys2Proof.Machine
end

