-- ==== Sys2Proof/Machine/Mgt.lean ====
section
/-!
DEFINITION. Management (15): activation, the cross watchdog, the event log, monitors, telemetry, identity, buffer
errors, spare channels, and the management commands that no other chapter holds.
-/

namespace Sys2Proof.Machine

def updMgt (f : Mgt → Mgt) (s : State) : State := { s with mgt := f s.mgt }

/-- The management cores run an image: from D2 on, but in Dawn hold (R420, R406). -/
def coresRun (s : State) : Bool :=
  match s.cfg.st with
  | .reset | .d0 | .d1 | .hold => false
  | _ => true

/-! ## Firmware activation (R428 to R430) -/

/-- The records of a slot that an activation checks and commits; one of unknown type that is not critical is ignored. -/
def activationRecs (s : State) (k : Nat) : List CfgRec := ((slotRecords s k).getD []).filter fun r => !ignored r

/-- FW_ACTIVATE (R428, R429 steps 1 and 2). -/
def execFwActivate (seq : Nat) (s : State) : Out :=
  match due s seq 0x88 with
  | none => go s
  | some c =>
    let k := bits c.e.param 0 0
    if k = s.cfg.bootSlot ∨ bootSeqOf (headerAt s k) ≤ s.cfg.bootSeq then go (complete seq Status.invalidField 0 s)
    else if s.mgt.activation.isSome then go (complete seq Status.busyRetry 65535 s)
    else if examine (fusesOf s) s k ≠ 1 ∨ (slotRecords s k).isNone then go (complete seq Status.configInvalid 0 s)
    else
      let recs := (slotRecords s k).getD []
      let s1 := addCtr 0x120108 (recs.filter ignored).length s
      match checkSet (.activation s.cfg.records (stableAt s 1).size) (baseRecs s) recs with
      | some f => go (complete seq f.1 f.2 (checkFailed f s1))
      | none => go (setSt seq .running (updMgt (fun m => { m with activation := some ⟨seq, k, .nightStarting⟩, nightReady := false }) s1))

/-- The Night core's heartbeat is missed during an activation: NOT_READY, and the old firmware runs on (R429 step 3). -/
def activationFails (a : Activation) (s : State) : State :=
  complete a.seq Status.notReady 0 (updMgt (fun m => { m with activation := none, nightReady := false }) s)

/-- ACTIVATION_NIGHT_READY (R429 steps 3 to 5). -/
def execActivationNightReady (ok : Bool) (s : State) : Out :=
  match s.mgt.activation with
  | none => go s
  | some a =>
    if a.step ≠ .nightStarting then go s
    else if ok = false then go (activationFails a s)
    else
      let s1 := updMgt (fun m => { m with activation := some { a with step := .scheduled }, nightReady := true }) s
      match commitSet (activationRecs s1 a.slot) (.activation a.slot) (some a.seq) s1 with
      | some s2 => go s2
      | none => go (complete a.seq Status.busyRetry (fullHint s1) (updMgt (fun m => { m with activation := none }) s1))

/-- The entry of the scheduled role swap. -/
def swapEntry (s : State) : Option SchedEnt :=
  let isIt := fun (x : CfgSet) => match x.kind with | .activation _ => true | .takeover => true | _ => false
  (s.cfg.scheduled.find? isIt).bind fun x => x.entry.bind fun i => AMap.get? s.srv.sched i

/-- ACTIVATION_HOLD_EXPIRY (R429): a held command ends with the time to the commit point plus 1 ms. -/
def execActivationHoldExpiry (seq : Nat) (s : State) : Out :=
  match findCmd s seq with
  | none => go s
  | some c =>
    if c.ring ≠ 32 ∨ c.st ≠ .fetched ∨ c.e.opcode = 0x0A ∨ mgmtHeld s = false then go s
    else
      let hint := match swapEntry s with
        | some e => clockHint s e.pos
        | none => 65535
      go (complete seq Status.busyRetry hint s)

/-! ## The cross watchdog (R422) -/

/-- NIGHT_HEARTBEAT_TIMEOUT (R422): the Night core is reset and reloaded. -/
def execNightHeartbeatTimeout (s : State) : Out :=
  if coresRun s = false ∨ s.mgt.takeover then go s
  else
    match s.mgt.activation with
    | some a => if a.step = .nightStarting then go (activationFails a s) else go (updMgt (fun m => { m with nightReady := false, nightAge := 0 }) s)
    | none => go (updMgt (fun m => { m with nightReady := false, nightAge := 0 }) s)

/-- NIGHT_CORE_READY (R422): the mirror is replayed. -/
def execNightCoreReady (s : State) : Out :=
  if coresRun s = false ∨ domOn s 4 = false then go s else go (updMgt (fun m => { m with nightReady := true, nightAge := 0 }) s)

/-- A takeover's swap is scheduled; with sixteen sets scheduled it shares the entry of the first (log entry 62). -/
def scheduleTakeover (s : State) : State :=
  match commitSet [] .takeover none s with
  | some s1 => s1
  | none =>
    let e := s.cfg.scheduled.head?.bind CfgSet.entry
    updCfg (fun c => { c with scheduled := c.scheduled ++ [⟨[], .takeover, none, e⟩] }) s

/-- DAY_HEARTBEAT_TIMEOUT (R422, R430): an activation not yet swapped is abandoned, and the takeover begins. -/
def execDayHeartbeatTimeout (s : State) : Out :=
  if coresRun s = false ∨ s.mgt.takeover then go s
  else go (scheduleTakeover (updMgt (fun m => { m with takeover := true }) (abandonActivation s)))

/-- BOTH_HEARTBEATS_TIMEOUT (R422): both cores start anew, core 0 as Day, without a mirror; a swap that was scheduled goes
with them (log entry 63). -/
def execBothHeartbeatsTimeout (s : State) : Out :=
  if coresRun s = false then go s
  else
    let isIt := fun (x : CfgSet) => match x.kind with | .takeover => true | _ => false
    let s1 := abandonActivation s
    let others := s1.cfg.scheduled.filter fun x => !isIt x
    let gone := ((s1.cfg.scheduled.filter isIt).filterMap CfgSet.entry).filter fun i => !(others.any fun x => x.entry == some i)
    let s2 := updCfg (fun c => { c with scheduled := others }) (each cancelSched gone s1)
    let s3 := updMgt (fun m => { m with dayCore := 0, nightReady := false, takeover := false, nightAge := 0, dayAge := 0 }) s2
    go (endExecuting (updWrv (fun w => { w with fails := [], failDs := 0 }) s3))

/-! ## The event log (R425 to R427) -/

/-- Enter an entry in the event log: the oldest of 1,048,576 is overwritten (R424), and vector 1 signals it (R35). -/
def logEntry (us : Nat) (m : Mail) (s : State) : State :=
  let n := s.mgt.logSeq
  let s1 := if 1048576 ≤ n then inc 0x110118 (updMgt (fun m => { m with log := AMap.erase m.log (n - 1048576) }) s) else s
  raiseLog (updMgt (fun g => { g with log := AMap.set g.log n ⟨us, m⟩, logSeq := n + 1 }) s1)

/-- MGT_EVENT_CONSUME (R425, R426): the entry that R15 puts first. -/
def execMgtEventConsume (us : Nat) (s : State) : Out :=
  if coresRun s = false ∨ dramTrained s = false then go s
  else
    match boxHead (boxOf s .mgt) with
    | none => go s
    | some m => go (logEntry us m (setBox .mgt (dropFirst (· == m) (boxOf s .mgt)) s))

/-! ## Monitors (R431 to R434) -/

def monAt (s : State) (m : Nat) : Monitor := AMap.getD s.mgt.monitors m {}

/-- Thermal thresholds, Warning, Throttle, Critical (R432). -/
def threshold (s : State) (i : Nat) : Int :=
  let c := Cfgw.monCfg s
  if i = 0 then 100 - bits c 14 10 else if i = 1 then 110 - bits c 19 15 else 120 - bits c 24 20

/-- The ceiling is posted to MB_BRIDLE; a lower one is counted (R433, R441). -/
def setCeiling (v : Nat) (s : State) : State :=
  let s1 := if v < s.mgt.ceiling then inc 0x110110 s else s
  post .bridle Src.aon 0x0008 v (updMgt (fun m => { m with ceiling := v }) s1)

/-- Nominal of a voltage monitor, mV (R449): domains, then the four rails. -/
def nominal (m : Nat) : Nat :=
  if m = 24 then 800 else if m ≤ 53 then 750 else if m = 54 then 1100 else if m = 55 then 1200 else if m = 56 then 1800 else 1200

/-- A value lies more than n tenths of a percent from its nominal. -/
def beyondBy (m n : Nat) (v : Int) : Bool := decide (nominal m * n < (v - nominal m).natAbs * 1000)

/-- Highest threshold crossed: 0 normal, 1 Warning, 2 Throttle, 3 Critical. -/
def bandOfMask (mask : Nat) : Nat := if bit mask 2 then 3 else if bit mask 1 then 2 else b2n (bit mask 0)

/-- A crossing is posted: monitor, band entered, value. -/
def postCrossing (m band : Nat) (prio : Bool) (v : Int) (s : State) : State :=
  postEvent Src.aon 0x11 0x01 prio (m % 128 + band % 16 * 256 + toField 16 v * 65536) s

/-- What the monitor block does when a threshold is crossed upwards (R433). -/
def crossUp (i : Nat) (s : State) : State :=
  if i = 1 then setCeiling (max 64 (speed64 s - 64)) (updMgt (fun m => { m with throttled := true }) s)
  else if i = 2 then
    postMgt .wrv 0x8004 0 (setCeiling 64 (post .bridle Src.aon 0x8001 0 (inc 0x110114 (updMgt (fun m => { m with criticalHold := true }) s))))
  else s

/-- A threshold is held against the hottest sensor, 5 °C of hysteresis downwards (R432). -/
def judgeThreshold (i : Nat) (s : State) : State :=
  let t := s.mgt.hotTemp
  let crossed := bit s.mgt.hotBand i
  let mark := fun (b : Bool) (s : State) => updMgt (fun m => { m with hotBand := setBits m.hotBand i i (b2n b) }) s
  if crossed = false ∧ threshold s i ≤ t then crossUp i (postCrossing s.mgt.hotSensor (i + 1) (i == 2) t (mark true s))
  else if crossed = true ∧ t ≤ threshold s i - 5 then
    let s1 := mark false s
    postCrossing s.mgt.hotSensor (bandOfMask s1.mgt.hotBand) false t s1
  else s

/-- One thermal sample: its mean, and the highest threshold that it reaches. -/
def takeThermal (x : MonSample) (s : State) : State :=
  let b := if threshold s 2 ≤ x.mean then 3 else if threshold s 1 ≤ x.mean then 2 else b2n (decide (threshold s 0 ≤ x.mean))
  updMgt (fun m => { m with monitors := AMap.set m.monitors x.monitor { value := x.mean, band := b } }) s

/-- A monitor of a domain that is off is not judged (log entry 65). -/
def monJudged (s : State) (m : Nat) : Bool := decide (53 < m) || domOn s (m - 23)

/-- One voltage sample: the warning band by its mean, the count towards the fault band by the sample (R434, log entry 66). -/
def takeVoltage (x : MonSample) (s : State) : State :=
  let y := monAt s x.monitor
  let n := if beyondBy x.monitor 60 x.sample ∧ monJudged s x.monitor = true then y.beyond + 1 else 0
  let warn := beyondBy x.monitor 35 x.mean && monJudged s x.monitor
  let b := if y.band = 2 ∧ 0 < n then 2 else b2n warn
  let s1 := updMgt (fun m => { m with monitors := AMap.set m.monitors x.monitor { value := x.mean, band := b, beyond := n } }) s
  if b = y.band then s1 else postCrossing x.monitor b false x.mean s1

def takeSample (x : MonSample) (s : State) : State :=
  if x.monitor < 24 then takeThermal x s
  else if x.monitor < 58 then takeVoltage x s
  else if x.monitor < 74 then updMgt (fun m => { m with monitors := AMap.set m.monitors x.monitor { value := x.mean } }) s
  else s

/-- The hottest of the 24 sensors, the lowest number on ties. -/
def hottest (s : State) : Nat × Int :=
  ((s.mgt.monitors.filter fun x => decide (x.1 < 24)).foldl (fun (best : Option (Nat × Int)) x =>
    match best with
    | some b => if b.2 < x.2.value then some (x.1, x.2.value) else some b
    | none => some (x.1, x.2.value)) none).getD (0, 0)

/-- MONITOR_SAMPLE (R431 to R434). -/
def execMonitorSample (samples : List MonSample) (s : State) : Out :=
  let s1 := each takeSample samples s
  if (s1.mgt.monitors.any fun x => decide (x.1 < 24)) = false then go s1
  else
    let h := hottest s1
    let s2 := updMgt (fun m => { m with hotSensor := h.1, hotTemp := h.2 }) s1
    go (each judgeThreshold [0, 1, 2] s2)

/-- Domains that a voltage fault switches off (R434, R453). -/
def switchable : List Nat := [3, 4, 7, 8, 9, 10, 11, 12, 16, 17, 22, 23, 24, 25, 30]

/-- An engine whose domain goes off loses its job: the packet waits for another (R105, R107). -/
def engineOff (e : Nat) (s : State) : State :=
  let back := fun q i => updWrite q (fun w => w.updPkt i fun k => if k.st = .stored then k else { k with st := .ready })
  let s1 := match (engineAt s e).job with
    | .write q i _ => back q i s
    | .done q i => back q i s
    | .read q => updCmd q (fun c => { c with hold := c.hold.map fun h => { h with engine := none } }) s
    | .idle => s
  setEngine e { engineAt s1 e with job := .idle, input := [] } s1

/-- A host port whose domain is off goes down (R438, R72). -/
def portOff (p : Port) (s : State) : State :=
  let s1 := linkDownOf p s
  setPort p { portOf s1 p with training := false } s1

def fabricOff (ps : List Nat) (s : State) : State := each (fun p s => if (portAt s p).st = .down then s else portDown p s) ps s

/-- A channel domain goes off: receive links fail (R228). Which channels and links it supplies is not given: a free choice
(log entry 64). -/
def chanOff (s : State) : State :=
  drawMany 4 (each (fun k s1 => if freeAt s k % 2 = 1 ∧ (rxAt s1 k).up = true then failLink k s1 else s1) [0, 1, 2, 3] s)

/-- What the blocks of a domain do when it goes off (R434, R438). -/
def domainOff (d : Nat) (s : State) : State :=
  let s1 := updMgt (fun m => { m with monOff := true }) (setDoms [d] false s)
  if d = 4 then updMgt (fun m => { m with nightReady := false }) s1
  else if d = 16 then each engineOff [0, 1, 2] s1
  else if d = 17 then each engineOff [3, 4, 5] s1
  else if d = 22 then portOff .a s1
  else if d = 23 then portOff .b s1
  else if d = 24 then fabricOff [0, 1] s1
  else if d = 25 then fabricOff [2, 3] s1
  else if 7 ≤ d ∧ d ≤ 12 then chanOff s1
  else s1

/-- Every partition of the loaded cartridge becomes write-stopped. -/
def stopWrites (s : State) : State :=
  each (fun p s =>
    if partPresent s p = false ∨ (partAt s p).writeStopped then s
    else inc 0x06011C (updPart p (fun x => { x with writeStopped := true, stopDs := x.nextDs }) s)) [0, 1, 2, 3] s

/-- VOLTAGE_FAULT (R434): ten consecutive samples beyond 6 %. -/
def execVoltageFault (monitor : Nat) (s : State) : Out :=
  let y := monAt s monitor
  if monitor < 24 ∨ 58 ≤ monitor ∨ y.beyond < 10 ∨ y.band = 2 ∨ monJudged s monitor = false then go s
  else
    let s1 := postCrossing monitor 2 true y.value (updMgt (fun m => { m with monitors := AMap.set m.monitors monitor { y with band := 2 } }) s)
    if monitor ≤ 53 ∧ switchable.contains (monitor - 23) = true then go (domainOff (monitor - 23) s1)
    else go (stopWrites (post .bridle Src.aon 0x8001 1 s1))

/-- THROTTLE_STEP (R433): a further 10 s at or above Throttle. -/
def execThrottleStep (s : State) : Out :=
  if s.mgt.throttled ∧ threshold s 1 ≤ s.mgt.hotTemp then go (setCeiling (max 64 (s.mgt.ceiling - 64)) s) else go s

/-- Below Throttle − 5 °C. -/
def cooled (s : State) : Bool := decide (s.mgt.hotTemp < threshold s 1 - 5)

/-- CRITICAL_HOLD_RELEASE (R433): 60 s below Throttle − 5 °C. -/
def execCriticalHoldRelease (s : State) : Out :=
  if s.mgt.criticalHold ∧ cooled s = true then go (postMgt .wrv 0x0004 0 (updMgt (fun m => { m with criticalHold := false }) s)) else go s

/-- CEILING_RAISE (R433): 10 s below Throttle − 5 °C without `critical_hold`. -/
def execCeilingRaise (s : State) : Out :=
  if s.mgt.criticalHold = false ∧ s.mgt.throttled = true ∧ cooled s = true then
    let v := min 512 (s.mgt.ceiling + 64)
    go (setCeiling v (updMgt (fun m => { m with throttled := decide (v < 512) }) s))
  else go s

/-- MGT_MON_SEL (R441): the selected monitor is sampled at the write. -/
def monSel (value : Nat) (s : State) : State :=
  let n := bits value 6 0
  let y := monAt s n
  updMgt (fun m => { m with monSel := n, monBand := y.band, monValue := y.value }) s

/-- MGT_MON_SEL, as the row of the register (R441). -/
def execMgtMonSel (value : Nat) (s : State) : Out := go (monSel value s)

/-! ## Telemetry over I3C (R435) -/

/-- Status bits of bytes 4 and 5 of a report. -/
def reportFlags (s : State) : Nat :=
  let engineOut := (List.range 6).any fun e => Cfgw.engineEnable s e && !engineIn s e
  let portGone := (pcieEnabled s 0 && !s.hq.portA.linkUp) || (pcieEnabled s 1 && !s.hq.portB.linkUp)
  let fabGone := (List.range 4).any fun p => Cfgw.portEnable s p && (portAt s p).st != .up
  b2n s.mgt.noSpare + 2 * b2n (s.parts.any fun x => x.2.writeStopped) + 4 * b2n engineOut + 8 * b2n portGone + 16 * b2n fabGone
    + 32 * b2n (!s.mgt.nightReady) + 64 * b2n s.mgt.monOff

/-- The 64-byte report. -/
def reportBytes (secs : Nat) (s : State) : Bytes :=
  let backlog := ([0, 1, 2, 3].map (unformatted s)).foldl (· + ·) 0
  let flags := s.cfg.stage % 8 + 8 * b2n (inService s) + 16 * b2n (s.cfg.st == .hold) + 32 * b2n (s.cfg.st == .faulted)
    + 64 * b2n s.mgt.criticalHold + 128 * b2n s.mgt.throttled
  let epoch := if s.yrd.enrolled then s.yrd.epoch else 0
  let body := le 1 1 ++ le 1 flags ++ le 1 (toField 8 s.mgt.hotTemp) ++ le 1 s.mgt.hotSensor ++ le 2 (reportFlags s) ++ le 2 s.mgt.ceiling
    ++ le 2 (toField 16 (roundTo s.srv.speed 1024)) ++ zeros 2 ++ le 4 (exposure s / 1048576) ++ le 4 (backlog / 1048576) ++ le 8 s.mgt.logSeq
    ++ le 4 secs ++ le 4 s.cfg.imageVersion ++ le 4 epoch ++ zeros 20
  body ++ le 4 (crc32 body)

/-- TELEMETRY_REPORT (R435): a period of 0 disables; an IBI is raised when enabled. -/
def execTelemetryReport (secs : Nat) (s : State) : Out :=
  if Cfgw.telemetry s = 0 then go s
  else go (updMgt (fun m => { m with report := reportBytes secs s, ibi := m.ibiOn && m.i3cAddr.isSome }) s)

/-- The target takes a dynamic address when it has none. -/
def takeAddress (a : Nat) (s : State) : State :=
  updMgt (fun m => { m with i3cAddr := if m.i3cAddr.isSome then m.i3cAddr else some (a % 128) }) s

/-- ENTDAA (R435). -/
def execEntdaa (addr : Nat) (s : State) : Out := go (takeAddress addr s)

/-- SETDASA (R435): to the static address 0x3A. -/
def execSetdasa (addr : Nat) (s : State) : Out := go (takeAddress addr s)

/-- RSTDAA (R435). -/
def execRstdaa (s : State) : Out := go (updMgt (fun m => { m with i3cAddr := none }) s)

/-- ENEC (R435): bit 0 enables interrupts (log entry 67). -/
def execEnec (events : Nat) (s : State) : Out := go (updMgt (fun m => { m with ibiOn := m.ibiOn || bit events 0 }) s)

/-- DISEC (R435). -/
def execDisec (events : Nat) (s : State) : Out := go (updMgt (fun m => { m with ibiOn := m.ibiOn && !bit events 0 }) s)

/-- The target answers a directed read, or NACKs it without a dynamic address. -/
def i3cReply (b : Bytes) (s : State) : State :=
  updMgt (fun m => if m.i3cAddr.isSome then { m with i3cAnswer := b, i3cNack := false } else { m with i3cNack := true }) s

/-- GETPID (R435). -/
def execGetpid (s : State) : Out := go (i3cReply (be 6 Config.i3cPid) s)
/-- GETBCR (R435). -/
def execGetbcr (s : State) : Out := go (i3cReply (be 1 Config.i3cBcr) s)
/-- GETDCR (R435). -/
def execGetdcr (s : State) : Out := go (i3cReply (be 1 Config.i3cDcr) s)
/-- GETSTATUS (R435). -/
def execGetstatus (s : State) : Out := go (i3cReply (be 2 Config.i3cStatus) s)
/-- GETMWL (R435). -/
def execGetmwl (s : State) : Out := go (i3cReply (be 2 Config.i3cMwl) s)
/-- GETMRL (R435). -/
def execGetmrl (s : State) : Out := go (i3cReply (be 2 Config.i3cMrl) s)

/-- I3C_PRIVATE_READ (R435): the latest report; before the first one its bytes are free (log entry 68). -/
def execI3cPrivateRead (s : State) : Out :=
  if s.mgt.report = [] then go (i3cReply (le 64 (drawn s)) (drawNext s)) else go (i3cReply s.mgt.report s)

/-- I3C_PRIVATE_WRITE (R435). -/
def execI3cPrivateWrite (_data : Bytes) (s : State) : Out := go (updMgt (fun m => { m with i3cNack := true }) s)

/-! ## Identity and attestation (R436, R437, R469) -/

/-- The identity public point. -/
def identityPoint (s : State) : Bytes := fit (publicPoint (Config.identitySeed (secretOf s))) 97

/-- Every record in effect, in ascending identifier. -/
def configBytes (s : State) : Bytes := (sortBy CfgRec.id s.cfg.records).flatMap CfgRec.bytes

/-- The attestation report. -/
def attestBytes (challenge : Bytes) (us : Nat) (s : State) : Bytes :=
  let f := fusesOf s
  let digest := match s.yrd.desc with
    | some d => fit (sha384 d.raw) 48
    | none => zeros 48
  let body := le 4 1 ++ le 4 0x9128D1A5 ++ le 4 0x10 ++ le 4 f.noncePrefix ++ fit challenge 48 ++ le 4 s.cfg.imageVersion ++ le 1 s.cfg.imageSvn
    ++ le 1 (fusedSvn f) ++ le 1 s.cfg.signer ++ le 1 s.cfg.bootSlot ++ le 8 us ++ fit (sha384 ((headerAt s s.cfg.bootSlot).take 768)) 48
    ++ fit (sha384 (configBytes s)) 48 ++ digest ++ zeros 192
  body ++ fit (ecdsaSign (Config.identitySeed f.secret) (sha384 body)) 96

/-- ATTEST (R437). -/
def execAttest (seq : Nat) (sgl : Bytes) (challenge : Bytes) (us : Nat) (s : State) : Out :=
  match due s seq 0x98 with
  | none => go s
  | some c =>
    if c.e.length < 512 then go (noteCmd 0x98 (complete seq Status.lengthLimit 0 s))
    else if sglOk c.e sgl c.e.length = false then go (noteCmd 0x98 (complete seq Status.invalidField 0 s))
    else go (noteCmd 0x98 (complete seq Status.ok 512 (sglWrite (sglOf c.e sgl) 0 (attestBytes challenge us s) s)))

/-- GET_IDENTITY (R436). -/
def execGetIdentity (seq : Nat) (sgl : Bytes) (s : State) : Out :=
  match due s seq 0x99 with
  | none => go s
  | some c =>
    let out := identityPoint s ++ s.cip.cert.getD []
    if c.e.length < out.length then go (noteCmd 0x99 (complete seq Status.lengthLimit 0 s))
    else if sglOk c.e sgl c.e.length = false then go (noteCmd 0x99 (complete seq Status.invalidField 0 s))
    else go (noteCmd 0x99 (complete seq Status.ok out.length (sglWrite (sglOf c.e sgl) 0 out s)))

/-- A string holds another byte for byte. -/
def holdsBytes (what : Bytes) : Bytes → Bool
  | [] => what.isEmpty
  | b :: bs => (b :: bs).take what.length == what || holdsBytes what bs

/-- IDENTITY_SET_CERT (R436). -/
def execIdentitySetCert (seq : Nat) (sgl : Bytes) (data : Bytes) (s : State) : Out :=
  match due s seq 0x9A with
  | none => go s
  | some c =>
    if 4096 < c.e.length ∨ sglOk c.e sgl c.e.length = false ∨ data.length ≠ c.e.length ∨ s.cip.cert.isSome
        ∨ holdsBytes (identityPoint s) data = false then go (complete seq Status.invalidField 0 s)
    else go (complete seq Status.ok 0 { s with cip := { s.cip with cert := some data } })

/-! ## Buffer memory errors (R438, R467, R468) -/

/-- Packet i of a write lies in a Stall of the packet Stable, and no other copy of it exists. -/
def onlyIn (n : Nat) (w : Write) (i : Nat) : Bool :=
  let off := w.headOff + w.storedSum w.freed i
  let len := ((w.pkts[i]?).map fun k => k.stored.length).getD 0
  decide (w.freed ≤ i ∧ w.sheltered ≤ i ∧ w.laid ≤ i)
    && w.chain.zipIdx.any fun (c, j) => c.1 == n && decide (off < (j + 1) * 262144 ∧ j * 262144 < off + len)

/-- Taken packets that only a Stall held are lost: their bytes are free values, and their records are reported, as a deferred error
and in the Loss Log (R26, R438). R373 lists no cause for it: a free value (log entry 106). -/
def stallLost (n : Nat) (s : State) : State :=
  let ws := s.hq.writes.filter fun w => w.taken && w.chain.any fun c => c.1 == n
  each (fun (w : Write) s =>
    match recordsIn w (onlyIn n w) with
    | none => s
    | some (i, k) =>
      let blank := fun (x : Pkt × Nat) => if onlyIn n w x.2 then { x.1 with stored := le x.1.stored.length (freeAt s (x.2 + 1)) } else x.1
      deferError w.part (w.first + i) k Status.recordLost w.seq
        (appendLoss Src.stk (ownLoss s w.part (drawn s % 256) w.tapeDs k (w.first + i))
          (drawMany (w.pkts.length + 1) (updWrite w.seq (fun w => { w with pkts := w.pkts.zipIdx.map blank }) s)))) ws s

/-- A Stall is marked for quarantine; the packet Stable is left alone at its minimum. -/
def quarantineStall (n : Nat) (s : State) : State :=
  let b := stableOf s n
  if allocatable s n = false ∨ mem? s.stk.quarantine n ∨ (b = 1 ∧ (stableAt s 1).size ≤ packetMinimum (Cfgw.exposureMiB s)) then s
  else inc 0x11011C { s with stk := { s.stk with quarantine := AMap.set s.stk.quarantine n () } }

/-- BUFFER_ECC_ERROR (R438, R468). -/
def execBufferEccError (stall chan device : Nat) (uncorrectable : Bool) (s : State) : Out :=
  let base := 0x028100 + 0x100 * (chan % 4)
  let n := AMap.getD s.stk.corrected stall 0 + b2n (!uncorrectable)
  let s1 := inc (base + if uncorrectable then 0x0C else 0x08) { s with stk := { s.stk with
    corrected := AMap.set s.stk.corrected stall n, ddrErr := AMap.set s.stk.ddrErr (chan % 4) (stall, device, uncorrectable) } }
  let s2 := if uncorrectable ∨ 16 ≤ n then quarantineStall stall s1 else s1
  go (if uncorrectable then stallLost stall s2 else s2)

/-- PATROL_SCRUB (R467, R468): a pass is complete; the 24 h over which R438 counts corrected errors begin anew (log entry
69). -/
def execPatrolScrub (s : State) : Out :=
  if s.stk.scrubActive then go (inc 0x028004 { s with stk := { s.stk with corrected := [] } }) else go s

/-! ## Spare channels (R439, R440) -/

/-- The logical channel that a physical one carries under a set of records. -/
def logicalOn (rs : List CfgRec) (p : Nat) : Option Nat := (List.range 128).find? fun l => recWordIn rs 0x0012 l 0 l == p

/-- The lowest-numbered unused spare. -/
def unusedSpare (s : State) : Option Nat :=
  [128, 129, 130, 131].find? fun q => (logicalOn (baseRecs s) q).isNone && !isRetired s q

/-- The set that retires a physical channel. -/
def retireRecs (l spare : Nat) : List CfgRec := [⟨0x0012, l, false, 4, [spare]⟩]

/-- A retirement without an unused spare is not made (R440). -/
def spareExhausted (s : State) : State := stopWrites (updMgt (fun m => { m with noSpare := true }) s)

/-- CHANNEL_RETIRE (R439, R440). A channel that carries no logical channel cannot be retired (log entry 70). -/
def execChannelRetire (seq : Nat) (s : State) : Out :=
  match due s seq 0xA8 with
  | none => go s
  | some c =>
    let p := bits c.e.param 7 0
    match logicalOn (baseRecs s) p, unusedSpare s with
    | none, _ => go (complete seq Status.invalidField 0 s)
    | some _, none => go (complete seq Status.invalidField 0 (spareExhausted s))
    | some l, some q => go (stageAndCommit (retireRecs l q) (.retire p []) seq s)

/-- Failed verdicts of a channel over the window. -/
def failsOf (s : State) (p : Nat) : Nat := AMap.getD s.wrv.fails p 0

/-- A channel fails more than four times as often as the mean of the other channels. -/
def standsOut (s : State) (p : Nat) : Bool :=
  let total := s.wrv.fails.foldl (fun n x => n + x.2) 0
  decide (4 * (total - failsOf s p) < failsOf s p * 131)

/-- CHANNEL_RETIRE_AUTO (R439, R440). -/
def execChannelRetireAuto (chan : Nat) (s : State) : Out :=
  let stopped := [0, 1, 2, 3].filter fun p => (partAt s p).writeStopped
  let clear := if standsOut s chan then stopped else []
  if coresRun s = false ∨ (failsOf s chan ≤ s.mgt.retireFailures ∧ clear = []) then go s
  else
    match logicalOn (baseRecs s) chan, unusedSpare s with
    | none, _ => go s
    | some _, none => go (spareExhausted s)
    | some l, some q => go ((commitSet (retireRecs l q) (.retire chan clear) none s).getD s)

/-! ## The remaining management commands and timers -/

/-- A ring of a cartridge not loaded is released whole and freed. -/
def dropRing (r : Nat) (s : State) : State := freeEmptyRing r (advanceTail r (spillAt s r).head s)

/-- SHED_DROP_PENDING (R336): the rings of one serial that no loaded cartridge has; an event log entry records it (log
entry 71). -/
def execShedDropPending (seq : Nat) (sgl : Bytes) (data : Bytes) (s : State) : Out :=
  match due s seq 0xA0 with
  | none => go s
  | some c =>
    if c.e.length ≠ 20 ∨ sglOk c.e sgl 20 = false ∨ data.length ≠ 20 then go (complete seq Status.invalidField 0 s)
    else
      let mine := (List.range 8).filter fun r => ringPending s (spillAt s r) && (spillAt s r).serial == data
      let n := mine.foldl (fun n r => n + ((spillAt s r).head - (spillAt s r).tail)) 0
      let s1 := each dropRing mine s
      let s2 := logEntry (drawn s1) ⟨s1.srv.clock, Src.mgtDay, drawn (drawNext s1) % 65536, n⟩ (drawNext (drawNext s1))
      go (complete seq Status.ok n s2)

/-- GPIO_PERIODIC (R462): code 8 blinks while a command runs, code 9 toggles while the Day core's heartbeat is current. -/
def execGpioPeriodic (ball : Nat) (s : State) : Out :=
  let f := Cfgw.gpio s ball
  let next := !AMap.getD s.mgt.gpio ball false
  let put := fun (b : Bool) => go (updMgt (fun m => { m with gpio := AMap.set m.gpio ball b }) s)
  if 8 ≤ ball then go s
  else if f = 8 then put (next && s.hq.cmds.any fun c => c.st == .running)
  else if f = 9 ∧ coresRun s = true ∧ s.mgt.takeover = false then put next
  else go s

/-- TRACE_FLUSH (R410): the trace goes to its destination. -/
def execTraceFlush (s : State) : Out :=
  let t := Cfgw.trace s
  if bits t 1 0 = 0 ∨ bits t 31 16 = 0 ∨ domOn s 30 = false then go s else go (updMgt (fun m => { m with traceFlushed := m.traceFlushed + 1 }) s)

end Sys2Proof.Machine
end

