-- ==== Sys2Proof/Machine/YardCmd.lean ====
section
/-!
DEFINITION. The Yard's management commands (12: R343, R347, R367, R370, R374, R380).
-/

namespace Sys2Proof.Machine

/-- The descriptor is kept in the Yard region (R346). -/
def storeDesc (d : Desc) (s : State) : State := pumpAll (storeUnits 3 0x77F0000 d.raw s)

/-- A descriptor accepted for the loaded cartridge, and its member index. -/
def takeMember (d : Desc) (member : Nat) (replacing : Bool) (s : State) : State :=
  updYrd (fun y => { y with
    desc := some d, yardId := d.yard, enrolled := true, member := member, parityPart := ((d.members[member]?).map fun x => x.2.1).getD 0,
    replacing := replacing, declaredLost := false, wantGen := d.gen, wantDigest := sha384 d.raw }) s

/-- YARD_ENROL (R344, R347): the Yard page is written. Where no epoch of the Yard is known, this member alone forms epoch 1,
and JOIN is sent (log entry 51). -/
def execYardEnrol (seq : Nat) (sgl : Bytes) (data : Bytes) (s : State) : Out :=
  match due s seq 0xB0 with
  | none => go s
  | some c =>
    let d := Desc.parse (fit data descBytes)
    let member := bits c.e.param 5 0
    if c.e.length ≠ descBytes ∨ sglOk c.e sgl c.e.length = false then go (complete seq Status.invalidField 0 s)
    else if serving s = false then go (complete seq Status.notReady 0 s)
    else if d.accepted = false then go (complete seq Status.configInvalid 0 s)
    else if d.n ≤ member ∨ (s.yrd.enrolled = true ∧ s.yrd.yardId ≠ d.yard) then go (complete seq Status.invalidField 0 s)
    else
      let known := decide (s.yrd.yardId = d.yard ∧ s.yrd.map ≠ [])
      let s1 := takeMember d member false s
      let s2 := if known then s1 else updYrd (fun y => { y with epoch := 1, boundary := 0, map := [(member, (0, nodeId s))], history := [] }) s1
      let s3 := storeDesc d (writeYardPage (updCart (fun c => { c with enrolMask := 0 }) s2))
      let s4 := updCart (fun x => { x with enrolMask := bits c.e.param 11 8 }) s3
      go (complete seq Status.ok 0 (sendJoin s4))

/-- YARD_DECLARE_LOST (R367): the change goes through the next epoch, whose number is the result. -/
def execYardDeclareLost (seq : Nat) (s : State) : Out :=
  match due s seq 0xB1 with
  | none => go s
  | some c =>
    let member := bits c.e.param 5 0
    if hasQuorum s = false then go (complete seq Status.notReady 0 s)
    else if 2 ≤ memberState s member then go (complete seq Status.invalidField 0 s)
    else go (want { member := member, state := 2, host := 0, cmd := some seq } (setSt seq .running s))

/-- The replacement is formatted with the lost member's wrap counts and origin fields (R370); every partition of it is of
the Yard (log entry 52). -/
def beginReplace (d : Desc) (member : Nat) (s : State) : State :=
  let m := (d.members[member]?).getD ([], 0, [])
  let table := wrapTable 0 (m.2.2.filter fun n => decide (0 < n))
  let s1 := keptZone table (destroyRecords s)
  let s2 := updCart (fun c => { c with writePass := nextPass c.writePass, formatCount := c.formatCount + 1, formatState := max c.formatState 1,
                                       dirBNewer := false }) s1
  let parts := table.zipIdx.map fun (t, p) =>
    (p, ({ firstWrap := t.1, wraps := t.2, yardMember := true, originYard := d.yard, originSerial := m.1 } : Part))
  beginDirectories (parts.flatMap fun (p, _) => [(p, false), (p, true)]) (chooseSet (countPositions (newParts parts s2)))

/-- The replacement's pages are written and it enters through the next epoch. -/
def endReplace (seq : Nat) (d : Desc) (member : Nat) (s : State) : State :=
  let s1 := writeControl (!s.cart.dirFailed) (cmWrite 0x4000 (keepOutLists s) (cmWrite 0x0800 (zoneTable s) (updCart (fun c => { c with dirBNewer := true }) s)))
  want { member := member, state := 0, host := nodeId s, cmd := some seq } (writeYardPage (takeMember d member true s1))

/-- YARD_REPLACE (R370). -/
def execYardReplace (seq : Nat) (s : State) : Out :=
  match due s seq 0xB2 with
  | some c =>
    let member := bits c.e.param 5 0
    match s.yrd.desc with
    | none => go (complete seq Status.notReady 0 s)
    | some d =>
      if serving s = false ∨ reachesHalf s = false then go (complete seq Status.notReady 0 s)
      else if s.cart.formatState ≠ 0 ∨ memberState s member ≠ 2 then go (complete seq Status.invalidField 0 s)
      else go (dirStep (beginReplace d member (setSt seq .running s)))
  | none =>
    match runningCmd s seq 0xB2, s.yrd.desc with
    | some c, some d =>
      if s.yrd.wants.any fun w => w.cmd == some seq then go s
      else
        let s1 := dirStep s
        go (if s1.cart.dirTodo = [] ∧ s1.wrv.windowOpen = false then endReplace seq d (bits c.e.param 5 0) s1 else s1)
    | _, _ => go s

/-- The rules of R374 for generation g + 1. -/
def reshapeAccepted (o d : Desc) : Bool :=
  d.accepted && d.yard == o.yard && d.gen == o.gen + 1 && decide (o.n ≤ d.n ∧ o.k + d.m ≤ min d.n 32)

/-- YARD_RESHAPE (R374). -/
def execYardReshape (seq : Nat) (sgl : Bytes) (data : Bytes) (s : State) : Out :=
  match due s seq 0xB3 with
  | none => go s
  | some c =>
    let d := Desc.parse (fit data descBytes)
    if c.e.length ≠ descBytes ∨ sglOk c.e sgl c.e.length = false then go (complete seq Status.invalidField 0 s)
    else if hasQuorum s = false then go (complete seq Status.notReady 0 s)
    else if (s.yrd.desc.any fun o => reshapeAccepted o d) = false then go (complete seq Status.configInvalid 0 s)
    else
      let s1 := storeDesc d (updYrd (fun y => { y with nextDesc := some d }) (setSt seq .running s))
      go (want { member := 0xFF, state := d.gen, host := 0, cmd := some seq } s1)

/-- This member's counts: the counter registers of R381 in order, little-endian as in host memory (R6). -/
def yardCounts (s : State) : Bytes := (List.range 12).flatMap fun i => le 4 (ctr s (0x0F0100 + 4 * i))

/-- YARD_QUERY (R380, R469): the epoch record as EPOCH_COMMIT carries it, then the counts, in 512 bytes (log entry 53). -/
def execYardQuery (seq : Nat) (sgl : Bytes) (s : State) : Out :=
  match due s seq 0xB4 with
  | none => go s
  | some c =>
    if c.e.length < 512 then go (complete seq Status.lengthLimit 0 s)
    else if sglOk c.e sgl c.e.length = false then go (complete seq Status.invalidField 0 s)
    else go (complete seq Status.ok 512 (sglWrite (sglOf c.e sgl) 0 (fit (recBytes (currentRec s) ++ yardCounts s) 512) s))

end Sys2Proof.Machine
end

