-- ==== Sys2Proof/Machine/Operands.lean ====
section
/-!
DEFINITION. The Control Space as an operand (R17, R18): which offsets are implemented, what a 32-bit read of each gives, and
which registers hold a writable field (R19). Every register is computed from the state of its block.
-/

namespace Sys2Proof.Machine

/-- A register value cut to 32 bits. -/
def word32 (v : Nat) : Nat := v % 2 ^ 32

/-- Index of a window register: base, stride and count; the index and the offset in the window. -/
def window (off base stride count : Nat) : Option (Nat × Nat) :=
  if base ≤ off ∧ off < base + stride * count then some ((off - base) / stride, (off - base) % stride) else none

/-- A counter register of a run of n counters from a base on. -/
def counters (s : State) (off base n : Nat) : Option Nat :=
  if base ≤ off ∧ off < base + 4 * n ∧ off % 4 = 0 then some (ctr s off) else none

/-- Bits of a list of flags, the first at bit 0. -/
def flagBits (l : List Bool) : Nat := (l.zipIdx).foldl (fun n (b, i) => n + b2n b * 2 ^ i) 0

/-- GLB (R20). -/
def readGlb (s : State) (off : Nat) : Option Nat :=
  if off = 0x000000 then some 0x9128D1A5
  else if off = 0x000004 then some 0x10
  else if off = 0x000010 then some s.glb.violations
  else if off = 0x000014 then some (s.glb.kind * 2 ^ 28 + s.glb.port * 2 ^ 27 + s.glb.fn * 2 ^ 26 + s.glb.offset)
  else none

/-- A ring window (R75). WO bits read zero. -/
def readRing (s : State) (p : Port) (n off : Nat) : Option Nat :=
  let x := ringAt s p n
  if off = 0x00 then some x.sqLo
  else if off = 0x04 then some x.sqHi
  else if off = 0x08 then some x.cqLo
  else if off = 0x0C then some x.cqHi
  else if off = 0x10 then some (x.vector * 2 ^ 16 + x.size)
  else if off = 0x14 then some (b2n x.enable)
  else if off = 0x18 then
    some (b2n (outstanding s p n) * 2 ^ 30 + b2n x.resetDone * 2 ^ 29 + b2n x.enableFailed * 2 ^ 28
      + b2n (cqFull x && s.hq.cmds.any fun c => c.port == p && c.ring == n && c.st == .completing) * 2 ^ 27
      + b2n x.phase * 2 ^ 26 + x.cqTail * 2 ^ 10 + x.sqHead)
  else if off = 0x1C then some (x.coalTime * 2 ^ 16 + x.coalCount)
  else none

/-- HQ (R75). -/
def readHq (s : State) (off : Nat) : Option Nat :=
  if off = 0x010000 then some (2 * b2n s.hq.portB.fetchEnable + b2n s.hq.portA.fetchEnable)
  else if off = 0x010004 then some (ctr s off)
  else if off = 0x010008 then some (s.hq.acceptSeq % 2 ^ 32)
  else if off = 0x01000C then some (s.hq.acceptSeq / 2 ^ 32)
  else if off = 0x010010 then some (s.hq.briPeak * 2 ^ 16 + s.hq.writes.length)
  else if off = 0x010014 then some ((s.hq.cmds.filter fun c => c.st == .gated).length * 2 ^ 16 + s.hq.gates.length)
  else if off = 0x010020 ∨ off = 0x010024 ∨ off = 0x010028 ∨ off = 0x01002C then some 0
  else
    match window off 0x011000 0x40 33, window off 0x012000 0x40 33 with
    | some (n, k), _ => readRing s .a n k
    | _, some (n, k) => readRing s .b n k
    | _, _ => none

/-- STK (R92). -/
def readStk (s : State) (off : Nat) : Option Nat :=
  if off = 0x020000 then some (b2n s.stk.ready)
  else if off = 0x020004 then some s.stk.total
  else if off = 0x020008 ∨ off = 0x02001C then some (ctr s off)
  else if off = 0x02000C then some (badFreeWord s.stk.badKind s.stk.badReq s.stk.badStall)
  else if off = 0x020010 then some s.stk.probeSel
  else if off = 0x020014 then some s.stk.probeLo
  else if off = 0x020018 then some s.stk.probeHi
  else
    match window off 0x020040 0x10 8 with
    | some (b, k) =>
      let x := stableAt s b
      if k = 0 then some x.size
      else if k = 4 then some (freeCount x)
      else if k = 8 then some x.low
      else if k = 12 then some (x.waits * 2 ^ 16 + flagBits ((List.range 16).map fun c => x.fifo.any fun r => r.1 / 4 == c))
      else none
    | none => none

/-- DDR controllers (R468). -/
def readDdr (s : State) (off : Nat) : Option Nat :=
  let fit := fun c => AMap.get? s.stk.ddr c
  let trained := fun c => match fit c with | some d => d.trained | none => false
  let failed := fun c => match fit c with | some d => !d.trained | none => false
  if off = 0x028000 then
    some (b2n s.stk.scrubActive * 256 + flagBits ((List.range 4).map failed) * 16 + flagBits ((List.range 4).map trained))
  else if off = 0x028004 then some (ctr s off)
  else
    match window off 0x028100 0x100 4 with
    | some (c, k) =>
      let d := (fit c).getD ⟨false, 0, 0, 0, 0⟩
      if k = 0x00 then some (d.capacity * 2 ^ 16 + d.ranks * 2 ^ 12 + d.width * 2 ^ 8 + d.rate)
      else if k = 0x04 then some (4 * b2n (mem? s.stk.ddrDeviceFailed c) + 2 * b2n (failed c) + b2n (trained c))
      else if k = 0x08 ∨ k = 0x0C then some (ctr s off)
      else if k = 0x10 then
        match AMap.get? s.stk.ddrErr c with
        | some (stall, device, ue) => some (b2n ue * 2 ^ 24 + device % 32 * 2 ^ 19 + stall % 2 ^ 19)
        | none => some 0
      else none
    | none => none

/-- CMP (R116). -/
def readCmp (s : State) (off : Nat) : Option Nat :=
  let es := List.range 6
  if off = 0x030000 then some (Cfgw.cmpCtrl s)
  else if off = 0x030004 then
    some (flagBits (es.map fun e => (engineAt s e).fault) * 2 ^ 24
      + flagBits (es.map fun e => match (engineAt s e).job with | .read _ => true | _ => false) * 2 ^ 16
      + flagBits (es.map fun e => match (engineAt s e).job with | .write _ _ _ => true | .done _ _ => true | _ => false) * 2 ^ 8
      + flagBits (es.map (engineIn s)))
  else if off = 0x030008 then some (Cfgw.mismatchLimit s)
  else if off = 0x03000C then
    some ((s.hq.cmds.filter fun c => match c.hold with | some h => h.dlz && h.engine == none && c.st == .running | none => false).length * 2 ^ 16
      + if rawPath s then 0
        else s.hq.writes.foldl (fun n w => n + (w.pkts.zipIdx.filter fun x => waitsEngine s w x.2 x.1).length) 0)
  else if off = 0x030010 then some (s.cmp.malKind * 2 ^ 28 + s.cmp.malEngine * 2 ^ 25 + s.cmp.malOffset)
  else counters s off 0x030100 48

/-- CIP (R139): no key material. -/
def readCip (s : State) (off : Nat) : Option Nat :=
  if off = 0x040000 then some (b2n (2 ^ 32 - s.cip.nextIssue < 2 ^ 24) * 256 + b2n s.cip.ready)
  else if off = 0x040004 then some s.cip.noncePrefix
  else if off = 0x040008 then some (word32 s.cip.nextIssue)
  else if off = 0x04000C then some ((s.cip.cache.filter fun e => e.pins != []).length * 2 ^ 16 + s.cip.cache.length)
  else if off = 0x040010 then some s.cip.sel
  else if off = 0x040014 then
    some (s.cip.selRetired * 8 + b2n s.cip.selExhausted * 4 + b2n s.cip.selRetiring * 2 + b2n s.cip.selLoaded)
  else if off = 0x040018 then some s.cip.selGen
  else counters s off 0x040020 5

/-- The partition that FMT and WRV registers speak of: the one whose data set is being assembled, else the window's. -/
def shownPart (s : State) : Nat :=
  ((s.parts.find? fun x => x.2.assembling).map Prod.fst).getD s.wrv.windowPart

/-- FMT (R198). -/
def readFmt (s : State) (off : Nat) : Option Nat :=
  let x := partAt s (shownPart s)
  if off = 0x050000 then
    some (flagBits ((List.range 4).map fun p => (partAt s p).loftOpen) * 2 ^ 16 + x.nextDs % 32 * 2 ^ 8 + b2n (decide (4 ≤ s.cfg.stage)))
  else if off = 0x050004 then some x.nextDs
  else if off = 0x050008 then some (s.wrv.images.length % 32 * 2 ^ 25 + min userArea x.user.length)
  else if off = 0x05000C then some (Cfgw.closeCfg s % 65536)
  else counters s off 0x050100 14

/-- WRV (R224). -/
def readWrv (s : State) (off : Nat) : Option Nat :=
  let v := s.wrv
  if off = 0x060000 then
    some (flagBits ((List.range 4).map fun p => (partAt s p).writeStopped) * 2 ^ 20
      + flagBits ((List.range 4).map fun k => (laneAt s k).trained) * 2 ^ 16 + carryNeed s v.windowPart % 16 * 2 ^ 12
      + causeBits s * 16 + 2 * b2n (inhibited s) + b2n v.windowOpen)
  else if off = 0x060004 then some (Cfgw.wrvWord s 0)
  else if off = 0x060008 then some (Cfgw.wrvWord s 1)
  else if off = 0x06000C then some (Cfgw.wrvWord s 2)
  else if off = 0x060010 then some (Cfgw.wrvWord s 3)
  else if off = 0x060014 then
    some (b2n (decide (s.brd.ceiling < Cfgw.vMax s)) * 2 ^ 21 + b2n v.parked * 2 ^ 20 + min (speed64 s) 1023 * 2 ^ 10 + v.setPoint)
  else if off = 0x060018 then some (unformatted s v.windowPart / 1048576)
  else if off = 0x06001C then some (v.lastClock % 2 ^ 32)
  else if off = 0x060020 then some (v.lastCause * 256 + v.lastClock / 2 ^ 32 % 256)
  else
    match window off 0x060040 4 4, window off 0x061000 4 132, window off 0x061400 4 132 with
    | some (k, 0), _, _ =>
      let x := laneAt s k
      some (x.gated * 256 + 2 * b2n x.gateOffSent + b2n x.trained)
    | _, some (p, 0), _ =>
      some (b2n (decide (128 ≤ p) && (logicalOn s.cfg.records p).isSome) * 2 ^ 17 + b2n (isRetired s p) * 2 ^ 16 + Cfgw.chanDrive s p % 65536)
    | _, _, some (_, 0) => some (ctr s off)
    | _, _, _ => counters s off 0x060100 9

/-- A read channel's window (R260). Adaptation also freezes bit by bit (R234), which a read does not show here; before D4 there
is no adaptation to freeze, and the bit has its reset value (log entry 74). -/
def readChan (s : State) (p off : Nat) : Option Nat :=
  let c := chanAt s p
  if off = 0x000 then
    some (min c.missed 255 * 256 + 32 * b2n (rxAt s (linkOf p)).failed + 16 * b2n (s.rch.ready && (c.lock != .locked || !adaptEnable s || s.wrv.inSpan))
      + c.dec * 4 + (match c.lock with | .acquiring => 0 | .locked => 1 | .flywheel => 2))
  else if off = 0x004 then some (c.phase % 64 * 2 ^ 26 + toField 16 c.residual)
  else if off = 0x008 then some (c.mse % 65536)
  else if off = 0x00C then some (c.midMissed * 2 ^ 16 + c.fwdMissed)
  else if off = 0x010 then some (c.splitMissed * 2 ^ 16 + c.reframes)
  else if off = 0x014 then some c.acquires
  else if off = 0x018 then some c.mc33
  else if off = 0x01C then some c.c1Failed
  else
    match window off 0x040 4 21 with
    | some (i, 0) => some ((AMap.getD c.initial s.rch.cls []).getD i 0 % 65536 * 2 ^ 16 + c.taps.getD i 0 % 65536)
    | _ => none

/-- RCH (R259, R260). The target taps are those of R236. -/
def readRch (s : State) (off : Nat) : Option Nat :=
  match window off 0x080000 0x400 132 with
  | some (p, k) => readChan s p k
  | none =>
    if off = 0x0B0000 then
      some (((List.range 132).filter fun p => (chanAt s p).lock == .locked).length * 2 ^ 16
        + flagBits ((List.range 4).map (mem? s.rch.busy)) * 2 ^ 12
        + (match s.rch.ladder with | some l => rungOf l.st | none => 0) * 16 + b2n s.rch.ready)
    else if off = 0x0B0004 then some (match s.rch.ladder with | some l => l.ds | none => 0)
    else if off = 0x0B0008 then some (Cfgw.targetLo s)
    else if off = 0x0B000C then some (Cfgw.targetHi s)
    else
      match window off 0x0B0010 4 6 with
      | some (i, 0) => some (Cfgw.rchWord s i)
      | _ => counters s off 0x0B0100 12

/-- AFE (R261). -/
def readAfe (s : State) (off : Nat) : Option Nat :=
  if off = 0x130000 then some (Cfgw.afeRx s)
  else
    match window off 0x130010 4 4 with
    | some (k, 0) =>
      let x := rxAt s k
      some (min x.crcErrors 65535 * 2 ^ 16 + x.starts % 256 * 256 + 32 * b2n x.failed + 16 * b2n x.aligned + 2 * x.lanesLocked + b2n x.up)
    | _ => none

/-- SRV (R300). -/
def readSrv (s : State) (off : Nat) : Option Nat :=
  let v := s.srv
  if off = 0x0C0000 then
    some (flagBits ((List.range 4).map fun i => (readerAt s i).valid) * 2 ^ 16 + v.wrap * 256 + 4 * b2n v.reverse + 2 * b2n v.lposLocked + b2n v.valid)
  else if off = 0x0C0004 then some (v.clock % 2 ^ 32)
  else if off = 0x0C0008 then some v.clockHi
  else if off = 0x0C000C then some (toField 32 v.speed)
  else if off = 0x0C0020 then some (toField 16 v.span * 2 ^ 16 + toField 16 (roundTo v.azimuth 10))
  else if off = 0x0C0024 then some (Cfgw.srvCfg s)
  else if off = 0x0C0028 then some (v.schedPeak * 2 ^ 16 + v.sched.length)
  else if off = 0x0C002C then some v.selEntry
  else
    match window off 0x0C0010 4 4, window off 0x0C0030 4 4 with
    | some (i, 0), _ => some (b2n (readerAt s i).valid * 2 ^ 31 + toField 16 (readerAt s i).pes)
    | _, some (k, 0) => some (v.selWords.getD k 0)
    | _, _ => counters s off 0x0C0100 6

/-- A Bridle loop's window (R301). -/
def readLoop (s : State) (n off : Nat) : Option Nat :=
  let x := loopAt s n
  if off = 0x00 then
    some (min x.fe 65535 * 2 ^ 16 + (match x.mode with | .off => 0 | .manual => 1 | .hold => 2 | .auto => 3 | .fault => 4))
  else if off = 0x04 then some (toField 32 x.target)
  else if off = 0x08 then some (toField 32 x.ramp)
  else if off = 0x0C then some (toField 32 x.meas)
  else if off = 0x10 then some (toField 16 x.manual * 2 ^ 16 + toField 16 x.out)
  else if off = 0x14 then some (loopWord s n 0)
  else if off = 0x18 then some (loopWord s n 1)
  else if off = 0x1C then some (loopWord s n 2)
  else none

/-- The coefficient that BRD_COEF_SEL names; loops and indexes without one read zero. -/
def readCoef (s : State) : Nat :=
  let i := s.brd.coefIndex
  if s.brd.coefLoop ≤ 5 ∧ (i < 10 ∨ (16 ≤ i ∧ i < 112)) then coefWord s s.brd.coefLoop i else 0

/-- BRD (R301). -/
def readBrd (s : State) (off : Nat) : Option Nat :=
  let b := s.brd
  if off = 0x0D0000 then
    some (flagBits ((List.range 6).map fun n => (loopAt s n).mode == .fault) * 2 ^ 16
      + (match b.motion with
          | .unthreaded => 0 | .threading => 1 | .stopped => 2 | .running => 3
          | .turnaround => 4 | .stopping => 5 | .repositioning => 6 | .unthreading => 7) * 256
      + 2 * b2n (decide (64 ≤ b.settledCount)) + b2n b.ready)
  else if off = 0x0D0004 then some (Cfgw.slewCfg s)
  else if off = 0x0D0008 then some (Cfgw.stopCfg s)
  else if off = 0x0D000C then some (Cfgw.tensionCfg s)
  else if off = 0x0D0048 then some (b.coefLoop * 128 + b.coefIndex)
  else if off = 0x0D004C then some (readCoef s)
  else
    match window off 0x0D0020 4 2, window off 0x0D0030 4 6, window off 0x0D0100 0x40 6 with
    | some (k, 0), _, _ =>
      let x := AMap.getD b.links k {}
      some (min x.crcErrors 65535 * 2 ^ 16 + min x.lost 255 * 256 + x.ok % 8)
    | _, some (e, 0), _ =>
      let x := epAt s e
      some (x.faultCode % 65536 * 2 ^ 16 + x.temperature % 256 * 256 + 16 * b2n x.fault + x.status % 16)
    | _, _, some (n, k) => readLoop s n k
    | _, _, _ => counters s off 0x0D0080 5

/-- SHD (R342). -/
def readShd (s : State) (off : Nat) : Option Nat :=
  let d := s.shd
  if off = 0x0E0000 then
    some (flagBits ((List.range 8).map fun r => (spillAt s r).full) * 256 + 128 * b2n (d.spills.any fun x => ringPending s x.2)
      + 64 * b2n d.quotaReduced + 32 * b2n d.duskIncomplete + 16 * b2n d.foreign + 8 * b2n (d.gc != []) + 4 * b2n d.ckptActive
      + 2 * b2n d.replaying + b2n d.ready)
  else if off = 0x0E0004 then some (d.ppbCode * 2 ^ 28 + d.dies * 2 ^ 20 + d.blocksPerPlane)
  else if off = 0x0E0008 then some (blocksFree s)
  else if off = 0x0E000C then some (blocksSpare s)
  else if off = 0x0E0010 then some (blocksRetired s)
  else if off = 0x0E0014 then some ((match d.ckpt with | some c => c.gen | none => 0) % 2 ^ 32)
  else if off = 0x0E0018 then some ((match d.ckpt with | some c => c.gen | none => 0) / 2 ^ 32)
  else if off = 0x0E0020 then some (Cfgw.spillQuota s)
  else if off = 0x0E0024 then some (Cfgw.landingBlocks s)
  else if off = 0x0E0028 then some (Cfgw.shedWord s 2)
  else if off = 0x0E002C then some (Cfgw.shedWord s 3)
  else if off = 0x0E0030 then some (Cfgw.shedWord s 4)
  else if off = 0x0E0034 then some (Cfgw.shedWord s 5)
  else if off = 0x0E0038 then some (Cfgw.shedWord s 6)
  else
    match window off 0x0E0080 4 8 with
    | some (r, 0) =>
      let x := spillAt s r
      some (b2n x.assigned * 2 ^ 31 + b2n (ringPending s x) * 2 ^ 30 + x.part * 2 ^ 28 + (x.head - x.tail) / 1048576 % 2 ^ 20)
    | _ => counters s off 0x0E0100 10

/-- YRD (R381). -/
def readYrd (s : State) (off : Nat) : Option Nat :=
  let y := s.yrd
  let fromDesc := fun (f : Desc → Nat) => match y.desc with | some d => f d | none => 0
  if off = 0x0F0000 then
    some (y.member * 2 ^ 18 + 128 * b2n y.descMismatch + 64 * b2n (y.unstriped != []) + 32 * b2n y.reshapeActive
      + 16 * b2n y.rebuildActive + 8 * b2n (hasQuorum s) + 4 * b2n (isLeader s) + 2 * b2n (y.enrolled && isPresent s y.member) + b2n y.enrolled)
  else if off = 0x0F0004 then some (y.yardId % 2 ^ 32)
  else if off = 0x0F0008 then some (y.yardId / 2 ^ 32)
  else if off = 0x0F000C then some y.epoch
  else if off = 0x0F0010 then some y.boundary
  else if off = 0x0F0014 then some y.reshapeR
  else if off = 0x0F0018 then some y.rebuildPos
  else if off = 0x0F001C then some (fromDesc fun d => d.gen % 256 * 2 ^ 24 + d.n * 2 ^ 16 + d.k * 2 ^ 8 + d.m)
  else if off = 0x0F0020 then some (fromDesc fun d => d.memberDead * 2 ^ 16 + d.contribTimeout)
  else if off = 0x0F0024 then some (Cfgw.retainCfg s)
  else if off = 0x0F0028 then some (y.replicas.length * 2 ^ 16 + coordinated s)
  else if off = 0x0F002C then
    some ((y.retains.filter fun r => r.slot.isSome).length * 2 ^ 16 + (y.retains.filter fun r => r.slot.isNone).length)
  else if off = 0x0F0030 then some y.sel
  else if off = 0x0F0034 then some (y.selState * 2 ^ 30 + y.selHost)
  else counters s off 0x0F0100 12

/-- FAB (R397). -/
def readFab (s : State) (off : Nat) : Option Nat :=
  let b := s.fab
  let ps := List.range 4
  if off = 0x100000 then
    some (b.routes.length * 2 ^ 16 + flagBits (ps.map fun p => (portAt s p).st == .up && laneCount (portAt s p).lanes == 1) * 256
      + flagBits (ps.map fun p => (portAt s p).st == .up) * 16 + 4 * b2n b.conflict + 2 * b2n b.routeBusy + b2n b.ready)
  else if off = 0x100004 then some (Cfgw.nodeId s)
  else if off = 0x100008 then some (Cfgw.fabCfg s)
  else if off = 0x10000C then some b.sel
  else if off = 0x100010 then
    match b.selRoute with
    | some r => some (2 ^ 31 + r.port * 2 ^ 29 + r.hops * 2 ^ 24 + r.cost % 256 * 2 ^ 16 + r.nextHop)
    | none => some 0
  else if off = 0x100014 then some b.lsdb.length
  else
    match window off 0x100100 0x40 4 with
    | some (p, k) =>
      let x := portAt s p
      if k = 0x00 then
        some (x.neighbour * 2 ^ 16 + x.lanes * 16 + 8 * b2n (laneCount x.lanes == 1)
          + (match x.st with | .down => 0 | .training => 1 | .hello => 2 | .up => 3))
      else if k = 0x04 then
        some (x.credits.getD 2 0 * 2 ^ 22 + x.credits.getD 3 0 * 2 ^ 14 + x.credits.getD 1 0 * 2 ^ 6 + x.credits.getD 0 0)
      else if 0x08 ≤ k ∧ k ≤ 0x24 ∧ k % 4 = 0 then some (ctr s off)
      else none
    | none => counters s off 0x100200 7

/-- MGT (R441). -/
def readMgt (s : State) (off : Nat) : Option Nat :=
  let m := s.mgt
  if off = 0x110000 then
    some (128 * b2n m.noSpare + 64 * b2n m.criticalHold + 32 * b2n m.throttled + 16 * b2n (saturated s) + 8 * b2n m.activation.isSome
      + 4 * b2n m.nightReady + m.dayCore % 2)
  else if off = 0x110004 then some (min m.nightAge 65535 * 2 ^ 16 + min m.dayAge 65535)
  else if off = 0x110008 then some (m.ceiling * 2 ^ 16 + m.hotSensor * 256 + toField 8 m.hotTemp)
  else if off = 0x11000C then some m.monSel
  else if off = 0x110010 then some (m.monBand * 2 ^ 28 + toField 16 m.monValue)
  else if off = 0x110014 then some (Cfgw.monCfg s)
  else if off = 0x110018 then some (m.retireFailures * 2 ^ 16 + m.retireWindow)
  else if off = 0x11001C then some (m.domains % 2 ^ 30)
  else if off = 0x110020 then some (ctr s off)
  else if off = 0x110024 then some (m.logSeq % 2 ^ 32)
  else if off = 0x110028 then some (m.logSeq / 2 ^ 32)
  else counters s off 0x110100 8

/-- CFG (R419). -/
def readCfg (s : State) (off : Nat) : Option Nat :=
  let c := s.cfg
  if off = 0x120000 then
    some (c.scheduled.length * 2 ^ 16 + (match c.openSet with | some (p, _) => portIdx p * 2 ^ 13 + 2 ^ 12 | none => 0)
      + c.bootSlot * 512 + 256 * b2n (c.st == .faulted) + 128 * b2n (c.st == .hold) + c.stage)
  else if off = 0x120004 then some (c.slotB * 2 ^ 16 + c.slotA)
  else if off = 0x120008 then some c.imageVersion
  else if off = 0x12000C then
    some ((fusesOf s).revoked % 16 * 2 ^ 20 + c.signer * 2 ^ 18 + fusedSvn (fusesOf s) * 256 + c.imageSvn)
  else if off = 0x120010 then some c.conflictA
  else if off = 0x120014 then some c.conflictB
  else if off = 0x120018 then some (c.commitClock % 2 ^ 32)
  else if off = 0x12001C then some (c.commitClock / 2 ^ 32)
  else if off = 0x120020 then some (c.totalMs * 2 ^ 16 + c.d3ms)
  else counters s off 0x120100 4

/-- What a 32-bit read of a Control Space register gives; none at an unimplemented offset. -/
def readReg (s : State) (off : Nat) : Option Nat :=
  match off / 0x10000 with
  | 0x00 => readGlb s off
  | 0x01 => readHq s off
  | 0x02 => if off < 0x028000 then readStk s off else readDdr s off
  | 0x03 => readCmp s off
  | 0x04 => readCip s off
  | 0x05 => readFmt s off
  | 0x06 => readWrv s off
  | 0x08 | 0x09 | 0x0A | 0x0B => readRch s off
  | 0x0C => readSrv s off
  | 0x0D => readBrd s off
  | 0x0E => readShd s off
  | 0x0F => readYrd s off
  | 0x10 => readFab s off
  | 0x11 => readMgt s off
  | 0x12 => readCfg s off
  | 0x13 => readAfe s off
  | _ => none

/-- Registers that hold an RW, W1C or WO field: what a write names. -/
inductive WReg where
  | hqCtrl
  | mringTail (p : Port)
  | mringHead (p : Port)
  | ring (p : Port) (n k : Nat)
  | probeSel
  | engineStatus
  | slotSel
  | laneStatus (k : Nat)
  | schedSel
  | coefSel
  | shdStatus
  | yrdStatus
  | memberSel
  | routeSel
  | monSel
  deriving DecidableEq, Repr

/-- The writable register at an offset, if there is one. -/
def wreg (off : Nat) : Option WReg :=
  if off = 0x010000 then some .hqCtrl
  else if off = 0x010020 then some (.mringTail .a)
  else if off = 0x010024 then some (.mringHead .a)
  else if off = 0x010028 then some (.mringTail .b)
  else if off = 0x01002C then some (.mringHead .b)
  else if off = 0x020010 then some .probeSel
  else if off = 0x030004 then some .engineStatus
  else if off = 0x040010 then some .slotSel
  else if off = 0x0C002C then some .schedSel
  else if off = 0x0D0048 then some .coefSel
  else if off = 0x0E0000 then some .shdStatus
  else if off = 0x0F0000 then some .yrdStatus
  else if off = 0x0F0030 then some .memberSel
  else if off = 0x10000C then some .routeSel
  else if off = 0x11000C then some .monSel
  else
    match window off 0x011000 0x40 33, window off 0x012000 0x40 33, window off 0x060040 4 4 with
    | some (n, k), _, _ => if k % 4 = 0 ∧ k ≤ 0x1C then some (.ring .a n k) else none
    | _, some (n, k), _ => if k % 4 = 0 ∧ k ≤ 0x1C then some (.ring .b n k) else none
    | _, _, some (k, 0) => some (.laneStatus k)
    | _, _, _ => none

end Sys2Proof.Machine
end

