-- ==== Sys2Proof/Machine/Regs.lean ====
section
/-!
DEFINITION. Accesses to the Control Space and to the doorbell page: the violation rules (R18, R19, R20, R405) and the
write to a register (R8, R19).
-/

namespace Sys2Proof.Machine

def fnIdx : Fn → Nat
  | .pf0 => 0
  | .pf1 => 1

/-- Offsets of key material (R139). -/
def keyMaterial (off : Nat) : Bool := decide (0x048000 ≤ off ∧ off < 0x050000)

/-- The recovery window of Dawn hold (R405). -/
def recoveryWindow (off : Nat) : Bool :=
  [0x000000, 0x000004, 0x010000, 0x010020, 0x010024, 0x010028, 0x01002C, 0x120000, 0x120004, 0x120008].contains off
    || decide (0x011800 ≤ off ∧ off < 0x011840) || decide (0x012800 ≤ off ∧ off < 0x012840)

/-- Whether PF1 exposes an implemented register at an offset. -/
def exposes (s : State) (off : Nat) : Bool := (readReg s off).isSome && (s.cfg.st != .hold || recoveryWindow off)

/-- The kind of violation of an access that is not split, 0 for none: the first that applies in the order of R19. On PF0 an
offset beyond the 64 KiB doorbell page is management space (log entry 72); a read of the doorbell page keeps to the rules of
width and alignment as a write does (DESIGN CHOICE, log entry 108); in Dawn hold what the recovery window does not hold is
unimplemented (log entry 73). -/
def violationKind (s : State) (f : Fn) (off width : Nat) (write : Bool) : Nat :=
  let aligned := width == 32 && off % 4 == 0
  match f with
  | .pf0 =>
    if 0x10000 ≤ off then 4 else if aligned = false then 5 else if write = true ∧ 256 ≤ off then 1 else 0
  | .pf1 =>
    if keyMaterial off then 3 else if aligned = false then 5 else if exposes s off = false then 1
    else if write = true ∧ wreg off = none then 2 else 0

/-- A violation is counted and recorded (R19, R20). -/
def recordViolation (kind : Nat) (p : Port) (f : Fn) (off : Nat) (s : State) : State :=
  { s with glb := { violations := satAdd s.glb.violations 1, kind := kind, port := portIdx p, fn := fnIdx f, offset := off % 2 ^ 24 } }

/-! ## Register writes -/

/-- A field of a register written: its new value. -/
def field (value hi lo : Nat) : Nat := bits value hi lo

/-- A ring window register written (R75, R71, R471): `reset` acts before `enable`. -/
def writeRing (p : Port) (n k value : Nat) (s : State) : State :=
  if k = 0x00 then updRing p n (fun x => { x with sqLo := field value 31 12 * 4096 }) s
  else if k = 0x04 then updRing p n (fun x => { x with sqHi := field value 31 0 }) s
  else if k = 0x08 then updRing p n (fun x => { x with cqLo := field value 31 12 * 4096 }) s
  else if k = 0x0C then updRing p n (fun x => { x with cqHi := field value 31 0 }) s
  else if k = 0x10 then updRing p n (fun x => { x with vector := field value 20 16, size := field value 10 0 }) s
  else if k = 0x14 then
    let s1 := if bit value 1 then resetRing p n s else s
    if bit value 0 then enableRing p n s1 else disableRing p n s1
  else if k = 0x18 then
    updRing p n (fun x => { x with resetDone := x.resetDone && !bit value 29, enableFailed := x.enableFailed && !bit value 28 }) s
  else if k = 0x1C then updRing p n (fun x => { x with coalTime := field value 31 16, coalCount := field value 15 0 }) s
  else s

/-- A writable register written: bits in RW, W1C and WO fields take effect, the rest are ignored (R8, R19). A register with a
row of its own acts as that row. -/
def writeReg (r : WReg) (value : Nat) (s : State) : State :=
  match r with
  | .hqCtrl =>
    { s with hq := { s.hq with portA := { s.hq.portA with fetchEnable := bit value 0 }, portB := { s.hq.portB with fetchEnable := bit value 1 } } }
  | .mringTail p => ringTail p 32 value s
  | .mringHead p => ringHead p 32 value s
  | .ring p n k => writeRing p n k value s
  | .probeSel => probeSel value s
  | .engineStatus => clearEngineFaults value s
  | .slotSel => slotSel value s
  | .laneStatus k => updLane k (fun x => { x with gateOffSent := x.gateOffSent && !bit value 1 }) s
  | .schedSel => schedSel value s
  | .coefSel => updBrd (fun b => { b with coefLoop := field value 9 7, coefIndex := field value 6 0 }) s
  | .shdStatus =>
    updShd (fun d => { d with
      quotaReduced := d.quotaReduced && !bit value 6
      duskIncomplete := d.duskIncomplete && !bit value 5
      foreign := d.foreign && !bit value 4 }) s
  | .yrdStatus => updYrd (fun y => { y with descMismatch := y.descMismatch && !bit value 7 }) s
  | .memberSel => memberSel value s
  | .routeSel => routeSel value s
  | .monSel => monSel value s

/-! ## Accesses (R18, R19, R32) -/

/-- A write that breaks no rule: on PF0 the doorbell of the ring at that offset, tail before head (R32); on PF1 the register. -/
def writeAt (p : Port) (f : Fn) (off data : Nat) (s : State) : State :=
  match f with
  | .pf0 => if off % 8 = 0 then ringTail p (off / 8) data s else ringHead p (off / 8) data s
  | .pf1 => match wreg off with
    | some r => writeReg r data s
    | none => s

/-- What a read that breaks no rule gives: zero in the doorbell page, and the register of the Control Space. -/
def readAt (f : Fn) (off : Nat) (s : State) : Nat :=
  match f with
  | .pf0 => 0
  | .pf1 => (readReg s off).getD 0

/-- An access that is not split: its effect, and what a read returns. On a violation it is counted, a write is ignored, and a read
returns zero. -/
def accessOne (p : Port) (f : Fn) (off width : Nat) (write : Bool) (data : Nat) (s : State) : Nat × State :=
  let k := violationKind s f off width write
  if k ≠ 0 then (0, recordViolation k p f off s)
  else if write then (0, writeAt p f off (data % 2 ^ 32) s)
  else (readAt f off s, s)

/-- An access of any width: an aligned 64-bit access is two 32-bit accesses, the lower address first (R18). -/
def access (p : Port) (f : Fn) (off width : Nat) (write : Bool) (data : Nat) (s : State) : Nat × State :=
  if width = 64 ∧ off % 8 = 0 then
    let a := accessOne p f off 32 write data s
    let b := accessOne p f (off + 4) 32 write (data / 2 ^ 32) a.2
    (a.1 + b.1 * 2 ^ 32, b.2)
  else accessOne p f off width write data s

/-- VIOLATION (R18, R19, R20): an access of any width, which answers a read with what it returns. A part of it that breaks no rule
takes its effect. -/
def execViolation (p : Port) (f : Fn) (offset width : Nat) (write : Bool) (data : Nat) (s : State) : Out :=
  if (portOf s p).functionsOn = false then go s
  else
    let r := access p f offset width write data s
    go (if write then r.2 else setPort p { portOf r.2 p with readData := some r.1 } r.2)

/-- REGISTER_WRITE (R8, R19): a write that is a violation is recorded as one. -/
def execRegisterWrite (p : Port) (offset value : Nat) (s : State) : Out :=
  if (portOf s p).functionsOn = false then go s else go (access p .pf1 offset 32 true value s).2

end Sys2Proof.Machine
end

