-- ==== Sys2Proof/Machine/Dispatch.lean ====
section
/-!
DEFINITION. What each command does: one arm per row of spec/opcode_table.json, each one call of its meaning.
-/

namespace Sys2Proof.Machine

def exec (i : Instr) (s : State) : Host.Outcome State Fault Refusal :=
  match i with
  | .sqTailDoorbell p ring value => Sys2Proof.Machine.execSqTailDoorbell p ring value s
  | .cqHeadDoorbell p ring value => Sys2Proof.Machine.execCqHeadDoorbell p ring value s
  | .ringEnable p ring => Sys2Proof.Machine.execRingEnable p ring s
  | .ringDisable p ring => Sys2Proof.Machine.execRingDisable p ring s
  | .queueReset p ring => Sys2Proof.Machine.execQueueReset p ring s
  | .queueResetDone p ring => Sys2Proof.Machine.execQueueResetDone p ring s
  | .fetchTurn entries => Sys2Proof.Machine.execFetchTurn entries s
  | .completionWrite seq => Sys2Proof.Machine.execCompletionWrite seq s
  | .coalesceTimeExpiry p ring => Sys2Proof.Machine.execCoalesceTimeExpiry p ring s
  | .flrPf0 p => Sys2Proof.Machine.execFlrPf0 p s
  | .flrPf1 p => Sys2Proof.Machine.execFlrPf1 p s
  | .linkDown p => Sys2Proof.Machine.execLinkDown p s
  | .perstAssert p => Sys2Proof.Machine.execPerstAssert p s
  | .perstDeassert p => Sys2Proof.Machine.execPerstDeassert p s
  | .pcieConfigRequest p f req => Sys2Proof.Machine.execPcieConfigRequest p f req s
  | .hostDmaComplete seq idx stall data => Sys2Proof.Machine.execHostDmaComplete seq idx stall data s
  | .gateLockGrant => Sys2Proof.Machine.execGateLockGrant s
  | .copiesSettled seq => Sys2Proof.Machine.execCopiesSettled seq s
  | .writeRecords seq sgl lens hdrs => Sys2Proof.Machine.execWriteRecords seq sgl lens hdrs s
  | .readRecords seq sgl => Sys2Proof.Machine.execReadRecords seq sgl s
  | .sync seq => Sys2Proof.Machine.execSync seq s
  | .syncLevelReached seq => Sys2Proof.Machine.execSyncLevelReached seq s
  | .locate seq found => Sys2Proof.Machine.execLocate seq found s
  | .writeMark seq => Sys2Proof.Machine.execWriteMark seq s
  | .readPosition seq => Sys2Proof.Machine.execReadPosition seq s
  | .load seq scan => Sys2Proof.Machine.execLoad seq scan s
  | .unload seq => Sys2Proof.Machine.execUnload seq s
  | .unloadProceed seq => Sys2Proof.Machine.execUnloadProceed seq s
  | .formatPartitions seq table certify => Sys2Proof.Machine.execFormatPartitions seq table certify s
  | .abort seq => Sys2Proof.Machine.execAbort seq s
  | .writeLanding seq sgl blocks => Sys2Proof.Machine.execWriteLanding seq sgl blocks s
  | .readLanding seq sgl => Sys2Proof.Machine.execReadLanding seq sgl s
  | .discardLanding seq => Sys2Proof.Machine.execDiscardLanding seq s
  | .layLanding seq => Sys2Proof.Machine.execLayLanding seq s
  | .getLog seq sgl => Sys2Proof.Machine.execGetLog seq sgl s
  | .setFeature seq => Sys2Proof.Machine.execSetFeature seq s
  | .getFeature seq => Sys2Proof.Machine.execGetFeature seq s
  | .keyInject seq sgl block => Sys2Proof.Machine.execKeyInject seq sgl block s
  | .keyErase seq => Sys2Proof.Machine.execKeyErase seq s
  | .keyEraseNorDone slot => Sys2Proof.Machine.execKeyEraseNorDone slot s
  | .retiringGenerationEnd slot => Sys2Proof.Machine.execRetiringGenerationEnd slot s
  | .keyQuery seq => Sys2Proof.Machine.execKeyQuery seq s
  | .getTransportKey seq sgl => Sys2Proof.Machine.execGetTransportKey seq sgl s
  | .cfgStage seq sgl data => Sys2Proof.Machine.execCfgStage seq sgl data s
  | .cfgCheck seq => Sys2Proof.Machine.execCfgCheck seq s
  | .cfgCommit seq => Sys2Proof.Machine.execCfgCommit seq s
  | .cfgDiscard seq => Sys2Proof.Machine.execCfgDiscard seq s
  | .imageWrite seq sgl data => Sys2Proof.Machine.execImageWrite seq sgl data s
  | .imageQuery seq sgl => Sys2Proof.Machine.execImageQuery seq sgl s
  | .fuseAdvance seq => Sys2Proof.Machine.execFuseAdvance seq s
  | .fuseRevoke seq => Sys2Proof.Machine.execFuseRevoke seq s
  | .fwActivate seq => Sys2Proof.Machine.execFwActivate seq s
  | .activationNightReady ok => Sys2Proof.Machine.execActivationNightReady ok s
  | .activationHoldExpiry seq => Sys2Proof.Machine.execActivationHoldExpiry seq s
  | .attest seq sgl challenge us => Sys2Proof.Machine.execAttest seq sgl challenge us s
  | .getIdentity seq sgl => Sys2Proof.Machine.execGetIdentity seq sgl s
  | .identitySetCert seq sgl data => Sys2Proof.Machine.execIdentitySetCert seq sgl data s
  | .shedDropPending seq sgl data => Sys2Proof.Machine.execShedDropPending seq sgl data s
  | .channelRetire seq => Sys2Proof.Machine.execChannelRetire seq s
  | .yardEnrol seq sgl data => Sys2Proof.Machine.execYardEnrol seq sgl data s
  | .yardDeclareLost seq => Sys2Proof.Machine.execYardDeclareLost seq s
  | .yardReplace seq => Sys2Proof.Machine.execYardReplace seq s
  | .yardReshape seq sgl data => Sys2Proof.Machine.execYardReshape seq sgl data s
  | .yardQuery seq sgl => Sys2Proof.Machine.execYardQuery seq sgl s
  | .violation p f offset width write data => Sys2Proof.Machine.execViolation p f offset width write data s
  | .registerWrite p offset value => Sys2Proof.Machine.execRegisterWrite p offset value s
  | .engineFaultClear value => Sys2Proof.Machine.execEngineFaultClear value s
  | .stkProbeSel value => Sys2Proof.Machine.execStkProbeSel value s
  | .cipSlotSel value => Sys2Proof.Machine.execCipSlotSel value s
  | .srvSchedSel value => Sys2Proof.Machine.execSrvSchedSel value s
  | .fabRouteSel value => Sys2Proof.Machine.execFabRouteSel value s
  | .yrdMemberSel value => Sys2Proof.Machine.execYrdMemberSel value s
  | .mgtMonSel value => Sys2Proof.Machine.execMgtMonSel value s
  | .tapeClockReadLatch => Sys2Proof.Machine.execTapeClockReadLatch s
  | .stallRequest reqs => Sys2Proof.Machine.execStallRequest reqs s
  | .stallFree frees => Sys2Proof.Machine.execStallFree frees s
  | .stallChainFree op => Sys2Proof.Machine.execStallChainFree op s
  | .stallTransfer op dest => Sys2Proof.Machine.execStallTransfer op dest s
  | .stallLink op next => Sys2Proof.Machine.execStallLink op next s
  | .stallPin stall gen => Sys2Proof.Machine.execStallPin stall gen s
  | .stallUnpin stall => Sys2Proof.Machine.execStallUnpin stall s
  | .stallWaitGrant stable => Sys2Proof.Machine.execStallWaitGrant stable s
  | .freeCacheRefill stable => Sys2Proof.Machine.execFreeCacheRefill stable s
  | .freeCacheWriteback stable => Sys2Proof.Machine.execFreeCacheWriteback stable s
  | .engineDispatch => Sys2Proof.Machine.execEngineDispatch s
  | .compressionDone engine fault => Sys2Proof.Machine.execCompressionDone engine fault s
  | .engineLeaveService engine => Sys2Proof.Machine.execEngineLeaveService engine s
  | .readDlzDispatch => Sys2Proof.Machine.execReadDlzDispatch s
  | .decompressionDone engine => Sys2Proof.Machine.execDecompressionDone engine s
  | .cipherTakePacket => Sys2Proof.Machine.execCipherTakePacket s
  | .readDecrypt seq => Sys2Proof.Machine.execReadDecrypt seq s
  | .dataSetEncoded part => Sys2Proof.Machine.execDataSetEncoded part s
  | .dataSetBoundary durationNs => Sys2Proof.Machine.execDataSetBoundary durationNs s
  | .loftEarlyClose part => Sys2Proof.Machine.execLoftEarlyClose part s
  | .verifyVerdict obs => Sys2Proof.Machine.execVerifyVerdict obs s
  | .writeStopped part ds => Sys2Proof.Machine.execWriteStopped part ds s
  | .backlogRestart part => Sys2Proof.Machine.execBacklogRestart part s
  | .commit idx => Sys2Proof.Machine.execCommit idx s
  | .density idx => Sys2Proof.Machine.execDensity idx s
  | .windowClose idx => Sys2Proof.Machine.execWindowClose idx s
  | .turnaround idx => Sys2Proof.Machine.execTurnaround idx s
  | .windowOpen idx => Sys2Proof.Machine.execWindowOpen idx s
  | .split idx => Sys2Proof.Machine.execSplit idx s
  | .rewriteArea idx => Sys2Proof.Machine.execRewriteArea idx s
  | .readWindow idx => Sys2Proof.Machine.execReadWindow idx s
  | .settled idx => Sys2Proof.Machine.execSettled idx s
  | .servoFrame frame => Sys2Proof.Machine.execServoFrame frame s
  | .lposWordAccepted reader bits => Sys2Proof.Machine.execLposWordAccepted reader bits s
  | .clockFlywheelExpiry => Sys2Proof.Machine.execClockFlywheelExpiry s
  | .pesResume => Sys2Proof.Machine.execPesResume s
  | .standstillTick travel => Sys2Proof.Machine.execStandstillTick travel s
  | .tensionTick => Sys2Proof.Machine.execTensionTick s
  | .threadTick => Sys2Proof.Machine.execThreadTick s
  | .followingErrorExpiry loop => Sys2Proof.Machine.execFollowingErrorExpiry loop s
  | .speedSettled => Sys2Proof.Machine.execSpeedSettled s
  | .threadComplete => Sys2Proof.Machine.execThreadComplete s
  | .actFrameSend link => Sys2Proof.Machine.execActFrameSend link s
  | .actStatusReceive link frame => Sys2Proof.Machine.execActStatusReceive link frame s
  | .endpointFault endpoint => Sys2Proof.Machine.execEndpointFault endpoint s
  | .speedTarget src arg => Sys2Proof.Machine.execSpeedTarget src arg s
  | .stopAndPark src arg => Sys2Proof.Machine.execStopAndPark src arg s
  | .reposition src arg => Sys2Proof.Machine.execReposition src arg s
  | .lateralOffset src arg => Sys2Proof.Machine.execLateralOffset src arg s
  | .wrapSelect src arg => Sys2Proof.Machine.execWrapSelect src arg s
  | .thread src arg => Sys2Proof.Machine.execThread src arg s
  | .unthread src arg => Sys2Proof.Machine.execUnthread src arg s
  | .speedCeiling src arg => Sys2Proof.Machine.execSpeedCeiling src arg s
  | .loopMode src arg => Sys2Proof.Machine.execLoopMode src arg s
  | .clearFaults src arg => Sys2Proof.Machine.execClearFaults src arg s
  | .orderlyStop src arg => Sys2Proof.Machine.execOrderlyStop src arg s
  | .bridleUnknownEvent src code arg => Sys2Proof.Machine.execBridleUnknownEvent src code arg s
  | .pesInhibit src arg => Sys2Proof.Machine.execPesInhibit src arg s
  | .shockInhibit src arg => Sys2Proof.Machine.execShockInhibit src arg s
  | .loopFaultInhibit src arg => Sys2Proof.Machine.execLoopFaultInhibit src arg s
  | .managementInhibit src arg => Sys2Proof.Machine.execManagementInhibit src arg s
  | .pesCauseCleared src arg => Sys2Proof.Machine.execPesCauseCleared src arg s
  | .shockCauseCleared src arg => Sys2Proof.Machine.execShockCauseCleared src arg s
  | .loopCauseCleared src arg => Sys2Proof.Machine.execLoopCauseCleared src arg s
  | .managementCauseCleared src arg => Sys2Proof.Machine.execManagementCauseCleared src arg s
  | .wrvUnknownEvent src code arg => Sys2Proof.Machine.execWrvUnknownEvent src code arg s
  | .earlyCloseRequest src arg => Sys2Proof.Machine.execEarlyCloseRequest src arg s
  | .shedReturnReady src arg => Sys2Proof.Machine.execShedReturnReady src arg s
  | .reallocateWeak src arg => Sys2Proof.Machine.execReallocateWeak src arg s
  | .rebuiltDsReady src arg => Sys2Proof.Machine.execRebuiltDsReady src arg s
  | .yardParityReady src arg => Sys2Proof.Machine.execYardParityReady src arg s
  | .controlledStopBegun src arg => Sys2Proof.Machine.execControlledStopBegun src arg s
  | .fmtUnknownEvent src code arg => Sys2Proof.Machine.execFmtUnknownEvent src code arg s
  | .unitAssemblyBegun src arg => Sys2Proof.Machine.execUnitAssemblyBegun src arg s
  | .unitComplete src arg => Sys2Proof.Machine.execUnitComplete src arg s
  | .yardParityLaid src arg => Sys2Proof.Machine.execYardParityLaid src arg s
  | .reconstructForRead src arg => Sys2Proof.Machine.execReconstructForRead src arg s
  | .rebuildStart src arg => Sys2Proof.Machine.execRebuildStart src arg s
  | .reshapeStart src arg => Sys2Proof.Machine.execReshapeStart src arg s
  | .reachabilityChanged src arg => Sys2Proof.Machine.execReachabilityChanged src arg s
  | .yardUnknownEvent src code arg => Sys2Proof.Machine.execYardUnknownEvent src code arg s
  | .mgtEventConsume us => Sys2Proof.Machine.execMgtEventConsume us s
  | .channelRetireAuto chan => Sys2Proof.Machine.execChannelRetireAuto chan s
  | .syncFound chan obs => Sys2Proof.Machine.execSyncFound chan obs s
  | .lockLoss chan => Sys2Proof.Machine.execLockLoss chan s
  | .residualLimit chan => Sys2Proof.Machine.execResidualLimit chan s
  | .separatorDetected chan => Sys2Proof.Machine.execSeparatorDetected chan s
  | .dataSetDecoded res => Sys2Proof.Machine.execDataSetDecoded res s
  | .ladderPassResult res => Sys2Proof.Machine.execLadderPassResult res s
  | .yardWaitExpiry => Sys2Proof.Machine.execYardWaitExpiry s
  | .yardReconstructReturn data => Sys2Proof.Machine.execYardReconstructReturn data s
  | .readAheadStart part => Sys2Proof.Machine.execReadAheadStart part s
  | .rxLaneFail lane crc => Sys2Proof.Machine.execRxLaneFail lane crc s
  | .jesdLinkRestart link ok => Sys2Proof.Machine.execJesdLinkRestart link ok s
  | .shedPacketCopy part => Sys2Proof.Machine.execShedPacketCopy part s
  | .unitProgramDone u => Sys2Proof.Machine.execUnitProgramDone u s
  | .rowHoldExpiry stream group => Sys2Proof.Machine.execRowHoldExpiry stream group s
  | .journalRecordsPending => Sys2Proof.Machine.execJournalRecordsPending s
  | .journalFlushExpiry => Sys2Proof.Machine.execJournalFlushExpiry s
  | .journalUnitDurable => Sys2Proof.Machine.execJournalUnitDurable s
  | .spillLow => Sys2Proof.Machine.execSpillLow s
  | .shedReturnRead part => Sys2Proof.Machine.execShedReturnRead part s
  | .spillRelease seq => Sys2Proof.Machine.execSpillRelease seq s
  | .checkpointBytes => Sys2Proof.Machine.execCheckpointBytes s
  | .checkpointInterval => Sys2Proof.Machine.execCheckpointInterval s
  | .checkpointDurable => Sys2Proof.Machine.execCheckpointDurable s
  | .gcStart die => Sys2Proof.Machine.execGcStart die s
  | .gcStop die => Sys2Proof.Machine.execGcStop die s
  | .readVerifyResult block bits readable => Sys2Proof.Machine.execReadVerifyResult block bits readable s
  | .nandProgramFailure u => Sys2Proof.Machine.execNandProgramFailure u s
  | .nandEraseFailure block => Sys2Proof.Machine.execNandEraseFailure block s
  | .shedUnitLost u => Sys2Proof.Machine.execShedUnitLost u s
  | .shockAssert => Sys2Proof.Machine.execShockAssert s
  | .shockRelease => Sys2Proof.Machine.execShockRelease s
  | .cartPresentChange level cm => Sys2Proof.Machine.execCartPresentChange level cm s
  | .clockInputLost clk => Sys2Proof.Machine.execClockInputLost clk s
  | .duskBegin cause => Sys2Proof.Machine.execDuskBegin cause s
  | .duskDomainsOff => Sys2Proof.Machine.execDuskDomainsOff s
  | .duskComplete => Sys2Proof.Machine.execDuskComplete s
  | .pfailDeassert => Sys2Proof.Machine.execPfailDeassert s
  | .coldStart fuses => Sys2Proof.Machine.execColdStart fuses s
  | .dawnD0Done => Sys2Proof.Machine.execDawnD0Done s
  | .dawnD1Done => Sys2Proof.Machine.execDawnD1Done s
  | .dawnD2Done badKeys => Sys2Proof.Machine.execDawnD2Done badKeys s
  | .dawnD3Done res => Sys2Proof.Machine.execDawnD3Done res s
  | .dawnD4Done res => Sys2Proof.Machine.execDawnD4Done res s
  | .dawnD5 d3ms totalMs => Sys2Proof.Machine.execDawnD5 d3ms totalMs s
  | .sfSignalDetect port lanes => Sys2Proof.Machine.execSfSignalDetect port lanes s
  | .sfLaneTrained port lane => Sys2Proof.Machine.execSfLaneTrained port lane s
  | .sfTrainingTimeout port => Sys2Proof.Machine.execSfTrainingTimeout port s
  | .helloSendTimer port => Sys2Proof.Machine.execHelloSendTimer port s
  | .flitHello port flit => Sys2Proof.Machine.execFlitHello port flit s
  | .helloLossTimeout port => Sys2Proof.Machine.execHelloLossTimeout port s
  | .sfLaneLoss port lane => Sys2Proof.Machine.execSfLaneLoss port lane s
  | .flitData port flit => Sys2Proof.Machine.execFlitData port flit s
  | .flitNak port flit => Sys2Proof.Machine.execFlitNak port flit s
  | .flitNull port flit => Sys2Proof.Machine.execFlitNull port flit s
  | .flitLsa port flit => Sys2Proof.Machine.execFlitLsa port flit s
  | .replayTimeout port => Sys2Proof.Machine.execReplayTimeout port s
  | .replayLimit port => Sys2Proof.Machine.execReplayLimit port s
  | .fecUncorrLimit port lane => Sys2Proof.Machine.execFecUncorrLimit port lane s
  | .laneRejoin port lane => Sys2Proof.Machine.execLaneRejoin port lane s
  | .laneRetrainRetry port lane => Sys2Proof.Machine.execLaneRetrainRetry port lane s
  | .lsaRefreshTimer => Sys2Proof.Machine.execLsaRefreshTimer s
  | .lsaAgeOut origin => Sys2Proof.Machine.execLsaAgeOut origin s
  | .routeInstall => Sys2Proof.Machine.execRouteInstall s
  | .transitWaitExpiry port vc => Sys2Proof.Machine.execTransitWaitExpiry port vc s
  | .claim m => Sys2Proof.Machine.execClaim m s
  | .claimAck m => Sys2Proof.Machine.execClaimAck m s
  | .withdraw m => Sys2Proof.Machine.execWithdraw m s
  | .contrib m => Sys2Proof.Machine.execContrib m s
  | .contribDone m => Sys2Proof.Machine.execContribDone m s
  | .nullReq m => Sys2Proof.Machine.execNullReq m s
  | .nullOk m => Sys2Proof.Machine.execNullOk m s
  | .claimed m => Sys2Proof.Machine.execClaimed m s
  | .sealStripe m => Sys2Proof.Machine.execSealStripe m s
  | .parityLaid m => Sys2Proof.Machine.execParityLaid m s
  | .stripeSafe m => Sys2Proof.Machine.execStripeSafe m s
  | .safeAck m => Sys2Proof.Machine.execSafeAck m s
  | .journal m => Sys2Proof.Machine.execJournal m s
  | .journalAck m => Sys2Proof.Machine.execJournalAck m s
  | .nack m => Sys2Proof.Machine.execNack m s
  | .stateQuery m => Sys2Proof.Machine.execStateQuery m s
  | .stateReply m => Sys2Proof.Machine.execStateReply m s
  | .epochPropose m => Sys2Proof.Machine.execEpochPropose m s
  | .adopt m => Sys2Proof.Machine.execAdopt m s
  | .epochCommit m => Sys2Proof.Machine.execEpochCommit m s
  | .epochReq m => Sys2Proof.Machine.execEpochReq m s
  | .join m => Sys2Proof.Machine.execJoin m s
  | .descReq m => Sys2Proof.Machine.execDescReq m s
  | .descPart m => Sys2Proof.Machine.execDescPart m s
  | .ledger m => Sys2Proof.Machine.execLedger m s
  | .rebuildReq m => Sys2Proof.Machine.execRebuildReq m s
  | .rebuildPart m => Sys2Proof.Machine.execRebuildPart m s
  | .rebuildFail m => Sys2Proof.Machine.execRebuildFail m s
  | .yardBadMessage raw => Sys2Proof.Machine.execYardBadMessage raw s
  | .contributionTimeout stripe => Sys2Proof.Machine.execContributionTimeout stripe s
  | .yardRepeatTimer => Sys2Proof.Machine.execYardRepeatTimer s
  | .memberDead member => Sys2Proof.Machine.execMemberDead member s
  | .stateQueryDeadline => Sys2Proof.Machine.execStateQueryDeadline s
  | .epochProposalTimeout => Sys2Proof.Machine.execEpochProposalTimeout s
  | .epochHoldExpiry => Sys2Proof.Machine.execEpochHoldExpiry s
  | .parityHolderIdle part stripe => Sys2Proof.Machine.execParityHolderIdle part stripe s
  | .retainLow => Sys2Proof.Machine.execRetainLow s
  | .reshapeCheckpoint => Sys2Proof.Machine.execReshapeCheckpoint s
  | .nightHeartbeatTimeout => Sys2Proof.Machine.execNightHeartbeatTimeout s
  | .dayHeartbeatTimeout => Sys2Proof.Machine.execDayHeartbeatTimeout s
  | .bothHeartbeatsTimeout => Sys2Proof.Machine.execBothHeartbeatsTimeout s
  | .monitorSample samples => Sys2Proof.Machine.execMonitorSample samples s
  | .voltageFault monitor => Sys2Proof.Machine.execVoltageFault monitor s
  | .throttleStep => Sys2Proof.Machine.execThrottleStep s
  | .criticalHoldRelease => Sys2Proof.Machine.execCriticalHoldRelease s
  | .ceilingRaise => Sys2Proof.Machine.execCeilingRaise s
  | .telemetryReport secs => Sys2Proof.Machine.execTelemetryReport secs s
  | .entdaa addr => Sys2Proof.Machine.execEntdaa addr s
  | .setdasa addr => Sys2Proof.Machine.execSetdasa addr s
  | .rstdaa => Sys2Proof.Machine.execRstdaa s
  | .enec events => Sys2Proof.Machine.execEnec events s
  | .disec events => Sys2Proof.Machine.execDisec events s
  | .getpid => Sys2Proof.Machine.execGetpid s
  | .getbcr => Sys2Proof.Machine.execGetbcr s
  | .getdcr => Sys2Proof.Machine.execGetdcr s
  | .getstatus => Sys2Proof.Machine.execGetstatus s
  | .getmwl => Sys2Proof.Machine.execGetmwl s
  | .getmrl => Sys2Proof.Machine.execGetmrl s
  | .i3cPrivateRead => Sys2Proof.Machine.execI3cPrivateRead s
  | .i3cPrivateWrite data => Sys2Proof.Machine.execI3cPrivateWrite data s
  | .bufferEccError stall chan device uncorrectable => Sys2Proof.Machine.execBufferEccError stall chan device uncorrectable s
  | .patrolScrub => Sys2Proof.Machine.execPatrolScrub s
  | .laneFrame obs => Sys2Proof.Machine.execLaneFrame obs s
  | .syncMissed chan span => Sys2Proof.Machine.execSyncMissed chan span s
  | .powerLoss => Sys2Proof.Machine.execPowerLoss s
  | .pcieLinkUp p speed width => Sys2Proof.Machine.execPcieLinkUp p speed width s
  | .blockErased block stream => Sys2Proof.Machine.execBlockErased block stream s
  | .unitReadDone u => Sys2Proof.Machine.execUnitReadDone u s
  | .flitBad port flit => Sys2Proof.Machine.execFlitBad port flit s
  | .nightCoreReady => Sys2Proof.Machine.execNightCoreReady s
  | .gpioPeriodic ball => Sys2Proof.Machine.execGpioPeriodic ball s
  | .traceFlush => Sys2Proof.Machine.execTraceFlush s

end Sys2Proof.Machine
end

