-- ==== Sys2Proof/Safety.lean ====
section
/-!
DEFINITION. The terms in which statements speak: what a command answers, which parts of the state it may change, the canonical
form of the addressed memories, and the invariant of the machine.
-/

namespace Sys2Proof.Machine

/-- A command completes in a state, and what its next state holds. -/
def Runs (c : Instr) (s : State) (P : State → Prop) : Prop := ∃ t, exec c s = .next t ∧ P t

/-- The parts of the state, one for each of its fields. -/
inductive Fld where
  | glb | hq | parts | cart | stk | cmp | cip | wrv | rch | srv | brd | shd | yrd | fab | boxes | mgt | cfg | ctrs | hostMem
  | cartMem | norMem | freeCtr | pending
  deriving DecidableEq, Repr

/-- Two states agree in a part. -/
def Fld.same (f : Fld) (s t : State) : Prop :=
  match f with
  | .glb => t.glb = s.glb
  | .hq => t.hq = s.hq
  | .parts => t.parts = s.parts
  | .cart => t.cart = s.cart
  | .stk => t.stk = s.stk
  | .cmp => t.cmp = s.cmp
  | .cip => t.cip = s.cip
  | .wrv => t.wrv = s.wrv
  | .rch => t.rch = s.rch
  | .srv => t.srv = s.srv
  | .brd => t.brd = s.brd
  | .shd => t.shd = s.shd
  | .yrd => t.yrd = s.yrd
  | .fab => t.fab = s.fab
  | .boxes => t.boxes = s.boxes
  | .mgt => t.mgt = s.mgt
  | .cfg => t.cfg = s.cfg
  | .ctrs => t.ctrs = s.ctrs
  | .hostMem => t.hostMem = s.hostMem
  | .cartMem => t.cartMem = s.cartMem
  | .norMem => t.norMem = s.norMem
  | .freeCtr => t.freeCtr = s.freeCtr
  | .pending => t.pending = s.pending

/-- Every part of the state outside a list is unchanged. -/
structure Only (fs : List Fld) (s t : State) : Prop where
  same : ∀ f, f ∉ fs → f.same s t

/-- The parts of the state that a command may change: everything outside the list stays as it was, memory and counters
included. -/
def mayChange : Instr → List Fld
  | .sqTailDoorbell .. | .cqHeadDoorbell .. => [.hq, .boxes, .ctrs]
  | .ringEnable .. | .ringDisable .. | .queueResetDone .. | .coalesceTimeExpiry .. | .perstDeassert ..
  | .pcieConfigRequest .. | .hostDmaComplete .. | .pcieLinkUp .. => [.hq]
  | .queueReset .. | .flrPf1 .. | .linkDown .. | .perstAssert ..
    => [.hq, .parts, .stk, .cmp, .cip, .shd, .boxes, .cfg, .ctrs]
  | .fetchTurn .. | .syncLevelReached .. | .getFeature .. | .keyQuery .. | .activationHoldExpiry .. => [.hq, .ctrs]
  | .completionWrite .. => [.hq, .parts, .hostMem]
  | .flrPf0 .. | .writeRecords .. | .writeMark .. | .keyErase .. => [.hq, .parts, .stk, .cmp, .cip, .shd, .boxes, .ctrs]
  | .gateLockGrant .. | .copiesSettled .. => [.hq, .stk]
  | .readRecords .. => [.hq, .stk, .ctrs]
  | .sync .. | .discardLanding .. | .shedPacketCopy .. => [.hq, .shd, .ctrs]
  | .locate .. => [.hq, .parts, .srv, .boxes, .mgt, .ctrs]
  | .readPosition .. | .getTransportKey .. | .yardQuery .. => [.hq, .ctrs, .hostMem]
  | .load .. => [.hq, .parts, .cart, .stk, .shd, .yrd, .fab, .boxes, .mgt, .ctrs, .freeCtr]
  | .unload .. => [.hq, .cart, .ctrs]
  | .unloadProceed ..
    => [.hq, .parts, .cart, .stk, .cmp, .cip, .wrv, .rch, .shd, .yrd, .fab, .boxes, .mgt, .ctrs, .cartMem, .freeCtr]
  | .formatPartitions .. => [.hq, .parts, .cart, .stk, .wrv, .rch, .shd, .yrd, .boxes, .mgt, .ctrs, .cartMem]
  | .abort .. => [.hq, .parts, .stk, .cmp, .cip, .shd, .boxes, .mgt, .ctrs]
  | .writeLanding .. | .unitProgramDone .. => [.hq, .cip, .shd, .ctrs]
  | .readLanding .. => [.hq, .cip, .ctrs, .hostMem]
  | .layLanding .. => [.hq, .parts, .stk, .cmp, .cip, .shd, .boxes, .ctrs, .freeCtr]
  | .getLog .. => [.hq, .shd, .cfg, .ctrs, .hostMem, .freeCtr]
  | .setFeature .. | .cfgCommit .. | .activationNightReady .. | .channelRetire .. | .commit .. | .channelRetireAuto ..
  | .dayHeartbeatTimeout .. => [.hq, .parts, .stk, .cmp, .wrv, .rch, .srv, .fab, .boxes, .mgt, .cfg, .ctrs]
  | .keyInject .. | .keyEraseNorDone .. | .identitySetCert .. => [.hq, .cip, .ctrs]
  | .retiringGenerationEnd .. | .cipSlotSel .. => [.cip]
  | .cfgStage .. | .cfgCheck .. | .cfgDiscard .. | .fuseAdvance .. | .fuseRevoke .. => [.hq, .cfg, .ctrs]
  | .imageWrite .. => [.hq, .cfg, .ctrs, .norMem, .freeCtr]
  | .imageQuery .. | .attest .. | .getIdentity .. => [.hq, .cfg, .ctrs, .hostMem, .freeCtr]
  | .fwActivate .. => [.hq, .mgt, .cfg, .ctrs]
  | .shedDropPending .. => [.hq, .shd, .mgt, .ctrs, .freeCtr]
  | .yardEnrol .. => [.hq, .cart, .shd, .yrd, .fab, .ctrs, .cartMem]
  | .yardDeclareLost .. => [.hq, .yrd, .fab, .ctrs]
  | .yardReplace .. => [.hq, .parts, .cart, .stk, .wrv, .rch, .shd, .yrd, .fab, .boxes, .mgt, .ctrs, .cartMem]
  | .yardReshape .. => [.hq, .shd, .yrd, .fab, .ctrs]
  | .violation .. | .registerWrite ..
    => [.glb, .hq, .parts, .stk, .cmp, .cip, .wrv, .srv, .brd, .shd, .yrd, .fab, .boxes, .mgt, .cfg, .ctrs]
  | .engineFaultClear .. => [.cmp]
  | .stkProbeSel .. | .stallPin .. | .stallUnpin .. | .stallWaitGrant .. | .freeCacheRefill .. | .freeCacheWriteback ..
    => [.stk]
  | .srvSchedSel .. | .tapeClockReadLatch .. | .clockFlywheelExpiry .. => [.srv]
  | .fabRouteSel .. | .sfSignalDetect .. | .sfTrainingTimeout .. | .helloSendTimer .. | .lsaAgeOut .. => [.fab]
  | .yrdMemberSel .. | .epochHoldExpiry .. => [.yrd]
  | .mgtMonSel .. | .telemetryReport .. | .entdaa .. | .setdasa .. | .rstdaa .. | .enec .. | .disec .. | .getpid ..
  | .getbcr .. | .getdcr .. | .getstatus .. | .getmwl .. | .getmrl .. | .i3cPrivateWrite .. | .nightCoreReady ..
  | .gpioPeriodic .. | .traceFlush .. => [.mgt]
  | .stallRequest .. | .stallFree .. | .stallChainFree .. | .stallTransfer .. | .stallLink .. => [.stk, .boxes, .ctrs]
  | .engineDispatch .. | .readDlzDispatch .. => [.hq, .cmp]
  | .compressionDone .. => [.hq, .cmp, .boxes, .ctrs]
  | .engineLeaveService .. => [.cmp, .boxes, .ctrs]
  | .decompressionDone .. => [.hq, .parts, .stk, .cmp, .boxes, .ctrs, .hostMem]
  | .cipherTakePacket .. => [.hq, .parts, .stk, .cmp, .cip, .boxes, .ctrs]
  | .readDecrypt .. => [.hq, .parts, .stk, .cip, .rch, .srv, .shd, .yrd, .boxes, .mgt, .ctrs, .hostMem]
  | .dataSetEncoded .. => [.hq, .parts, .stk, .wrv, .shd, .yrd, .boxes, .mgt, .ctrs]
  | .dataSetBoundary .. | .windowClose ..
    => [.hq, .parts, .cart, .stk, .wrv, .rch, .srv, .brd, .shd, .boxes, .mgt, .ctrs, .cartMem]
  | .loftEarlyClose .. => [.parts, .stk, .wrv, .boxes, .mgt, .ctrs]
  | .verifyVerdict .. => [.hq, .parts, .cart, .stk, .wrv, .rch, .srv, .shd, .boxes, .mgt, .ctrs]
  | .writeStopped .. => [.parts, .boxes, .ctrs]
  | .backlogRestart .. => [.hq, .parts, .cart, .stk, .wrv, .boxes, .mgt, .ctrs]
  | .density .. => [.wrv, .rch, .srv, .ctrs]
  | .turnaround .. | .speedSettled .. => [.srv, .brd, .ctrs]
  | .windowOpen .. => [.parts, .cart, .wrv, .rch, .srv, .boxes, .mgt, .ctrs, .cartMem]
  | .split .. | .rewriteArea .. => [.wrv, .srv, .ctrs]
  | .readWindow .. => [.rch, .srv, .ctrs]
  | .settled .. => [.hq, .parts, .srv, .boxes, .ctrs]
  | .servoFrame .. => [.rch, .srv, .brd, .boxes, .mgt, .ctrs, .freeCtr]
  | .lposWordAccepted .. => [.srv, .boxes, .ctrs]
  | .pesResume .. | .bridleUnknownEvent .. | .wrvUnknownEvent .. | .fmtUnknownEvent .. | .yardUnknownEvent ..
  | .parityHolderIdle .. | .monitorSample .. | .throttleStep .. | .criticalHoldRelease .. | .ceilingRaise ..
    => [.boxes, .mgt, .ctrs]
  | .standstillTick .. => [.rch, .srv, .brd, .ctrs]
  | .tensionTick .. | .actFrameSend .. | .actStatusReceive .. => [.brd]
  | .threadTick .. => [.brd, .freeCtr]
  | .followingErrorExpiry .. | .endpointFault .. | .wrapSelect .. | .thread .. | .unthread .. | .orderlyStop ..
    => [.srv, .brd, .boxes, .mgt, .ctrs]
  | .threadComplete .. => [.srv, .brd]
  | .speedTarget .. | .lateralOffset .. | .speedCeiling .. | .loopMode .. | .clearFaults .. => [.brd, .boxes, .mgt, .ctrs]
  | .stopAndPark .. | .reposition .. => [.rch, .srv, .brd, .boxes, .mgt, .ctrs]
  | .pesInhibit .. | .shockInhibit .. | .loopFaultInhibit .. | .managementInhibit .. | .pesCauseCleared ..
  | .shockCauseCleared .. | .loopCauseCleared .. | .managementCauseCleared .. => [.wrv, .boxes, .mgt, .ctrs]
  | .earlyCloseRequest .. | .reallocateWeak .. | .yardParityReady .. => [.parts, .boxes, .mgt, .ctrs]
  | .shedReturnReady .. => [.hq, .parts, .stk, .shd, .boxes, .mgt, .ctrs]
  | .rebuiltDsReady .. => [.parts, .yrd, .boxes, .mgt, .ctrs]
  | .controlledStopBegun .. | .shockAssert .. | .shockRelease .. => [.srv, .boxes, .mgt, .ctrs]
  | .unitAssemblyBegun .. => [.yrd, .fab, .boxes, .mgt, .ctrs]
  | .unitComplete .. => [.stk, .shd, .yrd, .fab, .boxes, .mgt, .ctrs]
  | .yardParityLaid .. | .claimAck .. | .sealStripe .. => [.stk, .yrd, .fab, .boxes, .mgt, .ctrs]
  | .reconstructForRead .. => [.hq, .parts, .stk, .rch, .shd, .yrd, .fab, .boxes, .mgt, .ctrs, .freeCtr]
  | .rebuildStart .. => [.hq, .parts, .shd, .yrd, .fab, .boxes, .mgt, .ctrs, .cartMem, .freeCtr]
  | .reshapeStart .. => [.rch, .srv, .yrd, .fab, .boxes, .mgt, .ctrs, .freeCtr]
  | .reachabilityChanged .. => [.yrd, .boxes, .mgt, .ctrs]
  | .mgtEventConsume .. => [.hq, .boxes, .mgt, .ctrs]
  | .syncFound .. | .lockLoss .. | .residualLimit .. | .separatorDetected .. | .readAheadStart .. | .jesdLinkRestart ..
  | .syncMissed .. => [.rch]
  | .dataSetDecoded .. => [.stk, .rch, .shd, .boxes, .mgt, .ctrs]
  | .ladderPassResult .. | .yardReconstructReturn .. => [.hq, .stk, .rch, .shd, .yrd, .boxes, .mgt, .ctrs, .freeCtr]
  | .yardWaitExpiry .. => [.hq, .stk, .rch, .yrd, .boxes, .ctrs]
  | .rxLaneFail .. => [.rch, .boxes, .ctrs]
  | .rowHoldExpiry .. | .checkpointDurable .. | .readVerifyResult .. | .nandProgramFailure .. | .nandEraseFailure ..
    => [.shd, .ctrs]
  | .journalRecordsPending .. | .journalFlushExpiry .. | .checkpointBytes .. | .checkpointInterval .. | .gcStart ..
  | .gcStop .. | .blockErased .. | .unitReadDone .. => [.shd]
  | .journalUnitDurable .. => [.hq, .parts, .rch, .shd]
  | .spillLow .. => [.hq, .stk, .boxes, .ctrs]
  | .shedReturnRead .. => [.stk, .shd, .boxes, .mgt, .ctrs]
  | .spillRelease .. => [.hq, .stk, .shd, .boxes, .ctrs]
  | .shedUnitLost .. => [.hq, .parts, .rch, .shd, .boxes, .mgt, .ctrs, .freeCtr]
  | .cartPresentChange .. => [.cart, .cartMem]
  | .clockInputLost .. => [.hq, .parts, .stk, .cmp, .cip, .rch, .srv, .shd, .fab, .boxes, .mgt, .cfg, .ctrs]
  | .duskBegin .. => [.hq, .rch, .srv, .shd, .boxes, .mgt, .cfg, .ctrs]
  | .duskDomainsOff .. => [.hq, .rch, .fab, .mgt, .cfg]
  | .duskComplete ..
    => [.glb, .hq, .parts, .cart, .stk, .cmp, .cip, .wrv, .rch, .srv, .brd, .shd, .yrd, .fab, .boxes, .mgt, .cfg, .ctrs,
      .freeCtr]
  | .pfailDeassert .. | .coldStart .. => [.cfg, .freeCtr]
  | .dawnD0Done .. => [.hq, .cip, .wrv, .mgt, .cfg, .freeCtr]
  | .dawnD1Done .. => [.hq, .wrv, .mgt, .cfg, .freeCtr]
  | .dawnD2Done .. => [.hq, .cip, .wrv, .boxes, .mgt, .cfg, .ctrs, .freeCtr]
  | .dawnD3Done .. => [.hq, .stk, .wrv, .rch, .brd, .shd, .fab, .boxes, .mgt, .cfg, .ctrs, .freeCtr]
  | .dawnD4Done .. => [.rch, .boxes, .mgt, .cfg, .ctrs, .freeCtr]
  | .dawnD5 .. => [.cfg]
  | .sfLaneTrained .. | .helloLossTimeout .. | .sfLaneLoss .. | .replayTimeout .. | .laneRejoin .. | .lsaRefreshTimer ..
  | .transitWaitExpiry .. | .flitBad .. => [.fab, .ctrs]
  | .flitHello .. | .replayLimit .. => [.fab, .boxes, .ctrs]
  | .flitData .. | .flitNak .. | .flitNull .. | .flitLsa .. | .yardBadMessage .. => [.stk, .fab, .boxes, .ctrs]
  | .fecUncorrLimit .. => [.fab, .ctrs, .freeCtr]
  | .laneRetrainRetry .. => []
  | .routeInstall .. => [.fab, .boxes, .mgt, .ctrs]
  | .claim .. | .withdraw .. | .contribDone .. | .nullOk .. | .parityLaid .. | .stateReply ..
    => [.stk, .yrd, .fab, .boxes, .ctrs, .freeCtr]
  | .contrib .. | .nullReq .. | .claimed .. | .journal .. | .journalAck .. | .nack .. | .stateQuery .. | .epochPropose ..
  | .epochReq .. | .join .. | .descReq .. | .descPart .. => [.stk, .yrd, .fab, .boxes, .ctrs]
  | .stripeSafe .. => [.hq, .parts, .stk, .rch, .srv, .shd, .yrd, .fab, .boxes, .mgt, .ctrs, .freeCtr]
  | .safeAck .. => [.stk, .rch, .srv, .yrd, .fab, .boxes, .mgt, .ctrs, .freeCtr]
  | .adopt .. | .epochCommit .. | .ledger .. | .rebuildPart .. | .rebuildFail .. | .stateQueryDeadline ..
    => [.hq, .parts, .stk, .shd, .yrd, .fab, .boxes, .mgt, .ctrs, .cartMem, .freeCtr]
  | .rebuildReq .. => [.stk, .rch, .srv, .yrd, .fab, .boxes, .mgt, .ctrs]
  | .contributionTimeout .. | .memberDead .. => [.yrd, .fab, .ctrs]
  | .yardRepeatTimer .. => [.hq, .parts, .rch, .srv, .shd, .yrd, .fab, .boxes, .mgt, .ctrs, .cartMem, .freeCtr]
  | .epochProposalTimeout .. => [.hq, .yrd, .ctrs]
  | .retainLow .. => [.stk, .shd, .yrd, .boxes, .ctrs]
  | .reshapeCheckpoint .. => [.yrd, .fab, .ctrs, .cartMem]
  | .nightHeartbeatTimeout .. => [.hq, .mgt, .ctrs]
  | .bothHeartbeatsTimeout .. => [.hq, .wrv, .srv, .mgt, .cfg, .ctrs]
  | .voltageFault .. => [.hq, .parts, .stk, .cmp, .cip, .rch, .shd, .fab, .boxes, .mgt, .cfg, .ctrs, .freeCtr]
  | .i3cPrivateRead .. => [.mgt, .freeCtr]
  | .bufferEccError .. => [.hq, .parts, .stk, .shd, .boxes, .mgt, .ctrs, .freeCtr]
  | .patrolScrub .. => [.stk, .ctrs]
  | .laneFrame .. => [.cart, .stk, .wrv, .srv, .boxes, .ctrs]
  | .powerLoss ..
    => [.glb, .hq, .parts, .cart, .stk, .cmp, .cip, .wrv, .rch, .srv, .brd, .shd, .yrd, .fab, .boxes, .mgt, .cfg, .ctrs]

/-- The canonical form of an addressed memory: addresses strictly rising, and no byte listed that an unlisted address reads
as. -/
def Memory.wf (unlisted : Option Byte) (m : AMap Byte) : Bool := AMap.wf m && m.all fun x => some x.2 != unlisted

/-- The invariant of the machine: the three addressed memories (host memory as the device has written it, cartridge memory,
the image slots of the NOR) have their canonical form; counters have theirs, and none exceeds the value at which it saturates;
the violation registers hold what R20 lets them hold. -/
structure Inv (s : State) : Prop where
  host : Memory.wf none s.hostMem = true
  cart : Memory.wf (some 0#8) s.cartMem = true
  nor : Memory.wf (some 0xFF#8) s.norMem = true
  counters : AMap.wf s.ctrs = true
  saturate : ∀ x ∈ s.ctrs, x.2 ≤ 0xFFFFFFFF
  violations : s.glb.violations ≤ 0xFFFFFFFF
  kind : s.glb.kind ≤ 5
  port : s.glb.port ≤ 1
  fn : s.glb.fn ≤ 1
  offset : s.glb.offset < 2 ^ 24

/-- Every ring pair but one is unchanged. -/
def RingsBut (p : Port) (n : Nat) (s t : State) : Prop := ∀ q m, m ≤ 32 → (q, m) ≠ (p, n) → ringAt t q m = ringAt s q m

/-- A command of the table has reached COMPLETING with a status and a result (R64). -/
def Ended (t : State) (seq status result : Nat) : Prop :=
  ∃ c, findCmd t seq = some c ∧ c.st = .completing ∧ c.status = status ∧ c.result = result

/-- A mailbox has slots for n more posts of a source: of those reserved for it, or of those that are reserved for none (R13). -/
def hasSlots (b : Box) (src n : Nat) (s : State) : Bool :=
  match slotOwners b src with
  | some (g, k) => decide (slotsUsed b g s + n ≤ k)
  | none => decide (((boxOf s b).filter fun m => (slotOwners b m.src).isNone).length + n ≤ boxSize b - boxReserved b)

/-- A mailbox event is taken in a state u: it is the entry that R15 puts first and u is without it, a post kept back in its slot, or
the mailbox is empty and the event reaches its reader at once. -/
inductive Takes (b : Box) (src code arg : Nat) (s : State) : State → Prop where
  | head (m : Mail) (h : boxHead (boxOf s b) = some m) (e : sameMail src code arg m = true) :
      Takes b src code arg s (refillBox b (setBox b (dropFirst (sameMail src code arg) (boxOf s b)) s))
  | direct (h : boxOf s b = []) : Takes b src code arg s s

/-- Entry i of a kind is the next of the position scheduler to be delivered (R277). -/
def Fires (s : State) (i kind : Nat) (e : SchedEnt) : Prop := firesNow s i = some e ∧ e.kind = kind

/-- The position scheduler holds an entry of a kind and owner with a position and an argument. -/
def Scheduled (t : State) (kind owner pos arg : Nat) : Prop :=
  ∃ i e, AMap.get? t.srv.sched i = some e ∧ e.kind = kind ∧ e.owner = owner ∧ e.pos = pos ∧ e.arg = arg

/-- An image of partition p is being written at wrap w and distance a: it has left the images that wait, its tries have gone
up by one, and the partition's next position by one. -/
structure Begun (p : Nat) (img : Image) (w a : Nat) (s t : State) : Prop where
  window : t.wrv.windowOpen = true
  part : t.wrv.windowPart = p
  slot : t.wrv.slot = 0
  images : t.wrv.images = dropFirst (fun i => i.part == p) s.wrv.images
  next : (partAt t p).nextPos = (partAt s p).nextPos + 1
  place : ∃ x, t.wrv.placements.getLast? = some x ∧ x.img = { img with tries := img.tries + 1 } ∧ x.wrap = w ∧ x.start = a
    ∧ x.cls = wrapClass s w ∧ x.complete = false ∧ x.abandoned = false

/-- A Yard message of the type that a command expects, which its receiver acts on at once: a member is enrolled, the message is
of its Yard, and of its epoch where R360 asks for that. -/
structure Heard (t : Nat) (m : YMsg) (s : State) : Prop where
  type : m.type = t
  enrolled : s.yrd.enrolled = true
  yard : m.yard = s.yrd.yardId
  epoch : m.epoch = s.yrd.epoch ∨ anyEpoch t = true

/-- A message has left this member from a state u: the fabric of t is what sending it makes of that of u. -/
def Sent (m : YMsg) (u t : State) : Prop := t.fab = (sendOnce m u).fab

/-- A state before the last messages left this member for t: the Yard and the configuration of t, the fabric as it was in u. -/
structure Before (u v t : State) : Prop where
  fab : v.fab = u.fab
  yrd : v.yrd = t.yrd
  cfg : v.cfg = u.cfg

/-- The replicas of a stripe's entry on other members. -/
def others (s : State) (stripe : Nat) : List Nat := (replicasOf s stripe).filter fun r => !isSelf s r

/-- The commands of a Yard message, each with the type that it expects (R378). -/
inductive MessageCmd (m : YMsg) : Nat → Instr → Prop where
  | claim : MessageCmd m YT.claim (.claim m)
  | claimAck : MessageCmd m YT.claimAck (.claimAck m)
  | withdraw : MessageCmd m YT.withdraw (.withdraw m)
  | contrib : MessageCmd m YT.contrib (.contrib m)
  | contribDone : MessageCmd m YT.contribDone (.contribDone m)
  | nullReq : MessageCmd m YT.nullReq (.nullReq m)
  | nullOk : MessageCmd m YT.nullOk (.nullOk m)
  | claimed : MessageCmd m YT.claimed (.claimed m)
  | sealStripe : MessageCmd m YT.sealStripe (.sealStripe m)
  | parityLaid : MessageCmd m YT.parityLaid (.parityLaid m)
  | stripeSafe : MessageCmd m YT.stripeSafe (.stripeSafe m)
  | safeAck : MessageCmd m YT.safeAck (.safeAck m)
  | journal : MessageCmd m YT.journal (.journal m)
  | journalAck : MessageCmd m YT.journalAck (.journalAck m)
  | nack : MessageCmd m YT.nack (.nack m)
  | stateQuery : MessageCmd m YT.stateQuery (.stateQuery m)
  | stateReply : MessageCmd m YT.stateReply (.stateReply m)
  | epochPropose : MessageCmd m YT.epochPropose (.epochPropose m)
  | adopt : MessageCmd m YT.adopt (.adopt m)
  | epochCommit : MessageCmd m YT.epochCommit (.epochCommit m)
  | epochReq : MessageCmd m YT.epochReq (.epochReq m)
  | join : MessageCmd m YT.join (.join m)
  | descReq : MessageCmd m YT.descReq (.descReq m)
  | descPart : MessageCmd m YT.descPart (.descPart m)
  | ledger : MessageCmd m YT.ledger (.ledger m)
  | rebuildReq : MessageCmd m YT.rebuildReq (.rebuildReq m)
  | rebuildPart : MessageCmd m YT.rebuildPart (.rebuildPart m)
  | rebuildFail : MessageCmd m YT.rebuildFail (.rebuildFail m)

end Sys2Proof.Machine
end

