-- ==== Sys2Proof/Certificates/Slice0/Obligations.lean ====
section
/-!
DEFINITION. The statements about the machine, for the provers: each formalises rules of the spec, or says which choice of the
model it rests on.
-/

section

open Sys2Proof Sys2Proof.Machine

/-- A step runs the command at the front of the queue; on an empty queue the block idles (log entry 1). For every command c,
rest of the queue cs and state s whose queue is c followed by cs, step of s is exec of c on s with the queue cs. From a
state whose queue is empty a step answers that same state. That commands wait in one queue, first in first out, and that
an empty queue idles, is the model's form (log entry 1). (95_what_each_step_holds.md) -/
def Obligations.StepRunsTheFrontCommandElseIdles : Prop :=
  (∀ (c : Instr) (cs : List Instr) (s : State), s.pending = c :: cs → step s = exec c { s with pending := cs })
  ∧ ∀ s : State, s.pending = [] → step s = .next s

/-- Every command of the table answers a next state in every state, and changes no part of it but those listed for it. For
every command c and every state s there is a next state that exec answers: no command faults and none is refused. Its
queue is that of s, and every part of the state that mayChange does not list for the command is unchanged: registers,
FIFOs, mailboxes, counters, host memory, cartridge memory and the NOR. Where no memory is listed, every byte of it is
unchanged. (95_what_each_step_holds.md, 00_scope.md, 01_architecture.md) -/
def Obligations.EveryCommandAnswersAndChangesOnlyItsParts : Prop :=
  ∀ (c : Instr) (s : State), ∃ t, exec c s = .next t ∧ t.pending = s.pending ∧ Only (mayChange c) s t

/-- The machine right after reset meets the invariant. At reset the three addressed memories and the counters have their
canonical form, no counter exceeds 0xFFFFFFFF, and the violation registers hold legal values. (01_architecture.md,
06_tape_layout.md, 14_dawn_configuration.md) -/
def Obligations.InvariantHoldsAtReset : Prop :=
  Inv State.reset

/-- Every step keeps the invariant. From every state that meets the invariant, whatever command waits in front: if step
answers a next state, that state meets it too. Host memory, cartridge memory and the NOR keep their canonical form;
counters keep theirs and saturate at 0xFFFFFFFF; the violation registers keep legal values. (R6, R20, R162,
01_architecture.md) -/
def Obligations.EveryStepKeepsTheInvariant : Prop :=
  ∀ s t : State, Inv s → step s = .next t → Inv t

/-- What reset leaves in the registers of the data plane. A 32-bit read of each GLB, HQ, STK, DDR, CMP, CIP, FMT and WRV
register that stands at an offset of its own gives the reset value of its fields, a WO bit reading zero; so does each
ring window, each Stable's window, each lane, and each channel's drive and rewrite register. (R8, R20, R75, R92, R468,
R116, R139, R198, R224) -/
def Obligations.ResetValuesOfTheDataPlaneRegisters : Prop :=
  (∀ x ∈ ([(0x000000, 0x9128D1A5), (0x000004, 0x10), (0x000010, 0), (0x000014, 0), (0x010000, 0), (0x010004, 0),
       (0x010008, 0), (0x01000C, 0), (0x010010, 0), (0x010014, 0), (0x010020, 0), (0x010024, 0), (0x010028, 0),
       (0x01002C, 0), (0x020000, 0), (0x020004, 0), (0x020008, 0), (0x02000C, 0), (0x020010, 0), (0x020014, 0),
       (0x020018, 0), (0x02001C, 0), (0x028000, 0), (0x028004, 0), (0x030000, 0), (0x030004, 0), (0x030008, 4),
       (0x03000C, 0), (0x030010, 0), (0x040000, 0), (0x040004, 0), (0x040008, 0), (0x04000C, 0), (0x040010, 0),
       (0x040014, 0), (0x040018, 0), (0x040020, 0), (0x040024, 0), (0x040028, 0), (0x04002C, 0)]
      ++ [(0x040030, 0), (0x050000, 0), (0x050004, 0), (0x050008, 0), (0x05000C, 0), (0x050100, 0), (0x050104, 0),
       (0x050108, 0), (0x05010C, 0), (0x050110, 0), (0x050114, 0), (0x050118, 0), (0x05011C, 0), (0x050120, 0),
       (0x050124, 0), (0x050128, 0), (0x05012C, 0), (0x050130, 0), (0x050134, 0), (0x060000, 0), (0x060004, 0x343),
       (0x060008, 0x10101C2A), (0x06000C, 0xC810200), (0x060010, 0x8001000), (0x060014, 0), (0x060018, 0),
       (0x06001C, 0), (0x060020, 0), (0x060100, 0), (0x060104, 0), (0x060108, 0), (0x06010C, 0), (0x060110, 0),
       (0x060114, 0), (0x060118, 0), (0x06011C, 0), (0x060120, 0)] : List (Nat × Nat)), readReg State.reset x.1 = some x.2)
  ∧ (∀ n < 33, ∀ k < 8, readReg State.reset (0x011000 + 0x40 * n + 4 * k) = some 0 ∧ readReg State.reset (0x012000 + 0x40 * n + 4 * k) = some 0)
  ∧ (∀ i < 8, readReg State.reset (0x020040 + 0x10 * i) = some 0 ∧ readReg State.reset (0x020044 + 0x10 * i) = some 0
      ∧ readReg State.reset (0x020048 + 0x10 * i) = some 0xFFFFF ∧ readReg State.reset (0x02004C + 0x10 * i) = some 0)
  ∧ (∀ k < 4, readReg State.reset (0x060040 + 4 * k) = some 0)
  ∧ (∀ c < 132, readReg State.reset (0x061400 + 4 * c) = some 0)

/-- What reset leaves in the registers of the read channels, the control plane, the Shed, the Yard, the fabric and
management. A 32-bit read of each RCH, AFE, SRV, BRD, SHD, YRD, FAB, MGT and CFG register that stands at an offset of
its own gives the reset value of its fields; so does each read channel's window, each link, reader, endpoint, spill ring
and fabric port. (R8, R259, R260, R261, R300, R301, R342, R381, R397, R441, R419) -/
def Obligations.ResetValuesOfTheOtherRegisters : Prop :=
  (∀ x ∈ ([(0x0B0000, 0), (0x0B0004, 0), (0x0B0008, 0xE0002010), (0x0B000C, 0xF0), (0x0B0010, 0x10C643E8),
       (0x0B0014, 0x10A), (0x0B0018, 0x4238200C), (0x0B001C, 0x638503), (0x0B0020, 0xFCA14402), (0x0B0024, 0x1090),
       (0x0B0100, 0), (0x0B0104, 0), (0x0B0108, 0), (0x0B010C, 0), (0x0B0110, 0), (0x0B0114, 0), (0x0B0118, 0),
       (0x0B011C, 0), (0x0B0120, 0), (0x0B0124, 0), (0x0B0128, 0), (0x0B012C, 0), (0x0C0000, 0), (0x0C0004, 0),
       (0x0C0008, 0), (0x0C000C, 0), (0x0C0020, 0), (0x0C0024, 0x400F), (0x0C0028, 0), (0x0C002C, 0), (0x0C0100, 0),
       (0x0C0104, 0), (0x0C0108, 0), (0x0C010C, 0), (0x0C0110, 0), (0x0C0114, 0), (0x0D0000, 0), (0x0D0004, 0x2284),
       (0x0D0008, 0x10000258), (0x0D000C, 0xFA2BC0A)]
      ++ [(0x0D0048, 0), (0x0D004C, 0), (0x0D0080, 0), (0x0D0084, 0), (0x0D0088, 0), (0x0D008C, 0), (0x0D0090, 0),
       (0x0E0000, 0), (0x0E0004, 0), (0x0E0008, 0), (0x0E000C, 0), (0x0E0010, 0), (0x0E0014, 0), (0x0E0018, 0),
       (0x0E0020, 0), (0x0E0024, 0), (0x0E0028, 0), (0x0E002C, 0x7D00064), (0x0E0030, 0x1000400), (0x0E0034, 0x22010),
       (0x0E0038, 0xBB82823), (0x0E0100, 0), (0x0E0104, 0), (0x0E0108, 0), (0x0E010C, 0), (0x0E0110, 0),
       (0x0E0114, 0), (0x0E0118, 0), (0x0E011C, 0), (0x0E0120, 0), (0x0E0124, 0), (0x0F0000, 0), (0x0F0004, 0),
       (0x0F0008, 0), (0x0F000C, 0), (0x0F0010, 0), (0x0F0014, 0), (0x0F0018, 0), (0x0F001C, 0), (0x0F0020, 0)]
      ++ [(0x0F0024, 0x168), (0x0F0028, 0), (0x0F002C, 0), (0x0F0030, 0), (0x0F0034, 0xC0000000), (0x0F0100, 0),
       (0x0F0104, 0), (0x0F0108, 0), (0x0F010C, 0), (0x0F0110, 0), (0x0F0114, 0), (0x0F0118, 0), (0x0F011C, 0),
       (0x0F0120, 0), (0x0F0124, 0), (0x0F0128, 0), (0x0F012C, 0), (0x100000, 0), (0x100004, 0),
       (0x100008, 0x640A100F), (0x10000C, 0), (0x100010, 0), (0x100014, 0), (0x100200, 0), (0x100204, 0),
       (0x100208, 0), (0x10020C, 0), (0x100210, 0), (0x100214, 0), (0x100218, 0), (0x110000, 0), (0x110004, 0),
       (0x110008, 0x2000000), (0x11000C, 0), (0x110010, 0), (0x110014, 1), (0x110018, 0x4000040), (0x11001C, 1),
       (0x110020, 0), (0x110024, 0)]
      ++ [(0x110028, 0), (0x110100, 0), (0x110104, 0), (0x110108, 0), (0x11010C, 0), (0x110110, 0), (0x110114, 0),
       (0x110118, 0), (0x11011C, 0), (0x120000, 0), (0x120004, 0), (0x120008, 0), (0x12000C, 0), (0x120010, 0),
       (0x120014, 0), (0x120018, 0), (0x12001C, 0), (0x120020, 0), (0x120100, 0), (0x120104, 0), (0x120108, 0),
       (0x12010C, 0), (0x130000, 0)] : List (Nat × Nat)), readReg State.reset x.1 = some x.2)
  ∧ (∀ c < 132, ∀ k < 8, readReg State.reset (0x080000 + 0x400 * c + 4 * k) = some 0)
  ∧ (∀ k < 4, readReg State.reset (0x130010 + 4 * k) = some 0 ∧ readReg State.reset (0x0C0010 + 4 * k) = some 0
      ∧ readReg State.reset (0x100100 + 0x40 * k) = some 0 ∧ readReg State.reset (0x100104 + 0x40 * k) = some 0)
  ∧ (∀ e < 6, readReg State.reset (0x0D0030 + 4 * e) = some 0 ∧ readReg State.reset (0x0D0100 + 0x40 * e) = some 0
      ∧ readReg State.reset (0x0D0110 + 0x40 * e) = some 0)
  ∧ (∀ r < 8, readReg State.reset (0x0E0080 + 4 * r) = some 0)

/-- A violation is counted once, recorded with the first kind that applies, and read as zero; a legal access reads or writes
its register. For an access that is not an aligned 64-bit one, on a port whose functions are enabled: an access that
breaks a rule of R19 adds one to the saturating violation count, loads kind, port, function and offset, and changes
nothing else but that a read answers 0; the kinds apply in the order 4, 3, 5, 1, 2. A legal read of PF1 answers the
register's value and a read of the doorbell page 0, and neither changes anything else. A legal write of PF0 at offset 8n
is the SQ tail doorbell of ring n and at 8n + 4 its CQ head doorbell; a legal write of PF1 is that register's write.
(That all of PF0 beyond the doorbell page is management space is log entry 72; that a read of the doorbell page keeps to
the rules of width and alignment is log entry 108.) (R18, R19, R20, R32, R139) -/
def Obligations.ViolationsAreCountedAndRecorded : Prop :=
  ∀ (p : Port) (f : Fn) (off width : Nat) (write : Bool) (data : Nat) (s : State), (portOf s p).functionsOn = true →
    ¬(width = 64 ∧ off % 8 = 0) →
    let answer : Nat → State → Out := fun v t => .next (if write then t else setPort p { portOf t p with readData := some v } t)
    let recorded : Nat → Out := fun kind => answer 0 { s with glb := {
      violations := min (s.glb.violations + 1) 0xFFFFFFFF, kind := kind, port := portIdx p, fn := fnIdx f, offset := off % 2 ^ 24 } }
    let aligned := width = 32 ∧ off % 4 = 0
    let key := 0x048000 ≤ off ∧ off < 0x050000
    let done := exec (.violation p f off width write data) s
    (f = .pf0 → 0x10000 ≤ off → done = recorded 4)
    ∧ (f = .pf1 → key → done = recorded 3)
    ∧ (f = .pf0 → off < 0x10000 → ¬aligned → done = recorded 5)
    ∧ (f = .pf1 → ¬key → ¬aligned → done = recorded 5)
    ∧ (f = .pf0 → off < 0x10000 → aligned → write = true → 256 ≤ off → done = recorded 1)
    ∧ (f = .pf1 → ¬key → aligned → readReg s off = none → done = recorded 1)
    ∧ (f = .pf1 → ¬key → aligned → (readReg s off).isSome → s.cfg.st ≠ .hold → write = true → wreg off = none → done = recorded 2)
    ∧ (∀ v, f = .pf1 → ¬key → aligned → readReg s off = some v → s.cfg.st ≠ .hold → write = false → done = answer v s)
    ∧ (f = .pf0 → off < 0x10000 → aligned → write = false → done = answer 0 s)
    ∧ (f = .pf0 → off < 256 → aligned → write = true → off % 8 = 0 → done = exec (.sqTailDoorbell p (off / 8) (data % 2 ^ 32)) s)
    ∧ (f = .pf0 → off < 256 → aligned → write = true → off % 8 = 4 → done = exec (.cqHeadDoorbell p (off / 8) (data % 2 ^ 32)) s)
    ∧ (f = .pf1 → aligned → write = true → done = exec (.registerWrite p off data) s)

/-- An aligned 64-bit access is two 32-bit accesses, the lower address first. On a port whose functions are enabled, a
64-bit write aligned to 8 bytes answers what the 32-bit write of the upper half at the higher address answers on the
state that the 32-bit write of the lower half at the lower address leaves; a 64-bit read answers the value of the lower
address in its lower half and that of the higher address in its upper half, each read as a 32-bit access of its own. So
each half is checked and counted as an access of its own. (R18, R19) -/
def Obligations.AlignedDoubleAccessIsTwoAccesses : Prop :=
  ∀ (p : Port) (f : Fn) (off data : Nat) (s u t : State), (portOf s p).functionsOn = true → off % 8 = 0 → (portOf u p).functionsOn = true →
    (exec (.violation p f off 32 true (data % 2 ^ 32)) s = .next u →
      exec (.violation p f off 64 true data) s = exec (.violation p f (off + 4) 32 true (data / 2 ^ 32)) u)
    ∧ (exec (.violation p f off 32 false 0) s = .next u → exec (.violation p f (off + 4) 32 false 0) u = .next t →
      exec (.violation p f off 64 false 0) s =
        .next (setPort p { portOf t p with readData := some ((portOf u p).readData.getD 0 + (portOf t p).readData.getD 0 * 2 ^ 32) } t))

/-- A write to a register without a writable field changes nothing but the violation registers. On a port whose functions
are enabled, in a state other than Dawn hold, a REGISTER_WRITE at an aligned implemented offset outside key material
whose register has only RO and RSV fields is recorded as a violation of kind 2 and changes nothing else; at an
unimplemented one, of kind 1. (R8, R19, R20) -/
def Obligations.ReadOnlyRegistersIgnoreWrites : Prop :=
  ∀ (p : Port) (off value : Nat) (s : State), (portOf s p).functionsOn = true → s.cfg.st ≠ .hold → off % 4 = 0 →
    ¬(0x048000 ≤ off ∧ off < 0x050000) → wreg off = none →
    exec (.registerWrite p off value) s = .next { s with glb := {
      violations := min (s.glb.violations + 1) 0xFFFFFFFF, kind := if (readReg s off).isSome then 2 else 1
      port := portIdx p, fn := 1, offset := off % 2 ^ 24 } }

/-- A REGISTER_WRITE puts the RW bits in, clears the W1C bits written as 1 and ignores the rest. With the port's functions
enabled and the device not in Dawn hold, a write of any value completes: HQ_CTRL holds bits 1 and 0; a ring window's
bases (their low 12 bits zero), vector, size and coalescing hold their fields and the rest of the window is as before;
HQ_RING_STATUS clears reset_done and enable_failed where 1 is written; BRD_COEF_SEL holds its two fields; SHD_STATUS,
YRD_STATUS and WRV_LANE_STATUS clear the W1C bits written as 1. Every part of the state but the one written is
unchanged. (R8, R19, R75, R301, R342, R381, R224) -/
def Obligations.RegisterWritesTakeTheirWritableBits : Prop :=
  ∀ (p : Port) (v : Nat) (s : State), (portOf s p).functionsOn = true → s.cfg.st ≠ .hold →
    Runs (.registerWrite p 0x010000 v) s (fun t => readReg t 0x010000 = some (v % 4) ∧ Only [.hq] s t)
    ∧ (∀ (q : Port) (n : Nat), n < 33 →
        let w := 0x011000 + 0x1000 * portIdx q + 0x40 * n
        let x := ringAt s q n
        Runs (.registerWrite p w v) s (fun t => ringAt t q n = { x with sqLo := v / 4096 % 2 ^ 20 * 4096 } ∧ Only [.hq] s t)
        ∧ Runs (.registerWrite p (w + 0x04) v) s (fun t => ringAt t q n = { x with sqHi := v % 2 ^ 32 } ∧ Only [.hq] s t)
        ∧ Runs (.registerWrite p (w + 0x08) v) s (fun t => ringAt t q n = { x with cqLo := v / 4096 % 2 ^ 20 * 4096 } ∧ Only [.hq] s t)
        ∧ Runs (.registerWrite p (w + 0x0C) v) s (fun t => ringAt t q n = { x with cqHi := v % 2 ^ 32 } ∧ Only [.hq] s t)
        ∧ Runs (.registerWrite p (w + 0x10) v) s (fun t =>
            ringAt t q n = { x with vector := v / 2 ^ 16 % 32, size := v % 2 ^ 11 } ∧ Only [.hq] s t)
        ∧ Runs (.registerWrite p (w + 0x18) v) s (fun t => ringAt t q n = { x with
            resetDone := x.resetDone && !bit v 29, enableFailed := x.enableFailed && !bit v 28 } ∧ Only [.hq] s t)
        ∧ Runs (.registerWrite p (w + 0x1C) v) s (fun t =>
            ringAt t q n = { x with coalTime := v / 2 ^ 16 % 2 ^ 16, coalCount := v % 2 ^ 16 } ∧ Only [.hq] s t))
    ∧ Runs (.registerWrite p 0x0D0048 v) s (fun t => readReg t 0x0D0048 = some (v % 2 ^ 10) ∧ Only [.brd] s t)
    ∧ Runs (.registerWrite p 0x0E0000 v) s (fun t => t.shd = { s.shd with
        quotaReduced := s.shd.quotaReduced && !bit v 6, duskIncomplete := s.shd.duskIncomplete && !bit v 5
        foreign := s.shd.foreign && !bit v 4 } ∧ Only [.shd] s t)
    ∧ Runs (.registerWrite p 0x0F0000 v) s (fun t => t.yrd = { s.yrd with descMismatch := s.yrd.descMismatch && !bit v 7 } ∧ Only [.yrd] s t)
    ∧ (∀ k < 4, Runs (.registerWrite p (0x060040 + 4 * k) v) s (fun t =>
        laneAt t k = { laneAt s k with gateOffSent := (laneAt s k).gateOffSent && !bit v 1 } ∧ Only [.wrv] s t))

/-- A select register samples what it names when it is written, and changes nothing else. STK_PROBE_SEL shows the Stall
table entry, its Stable the one whose range holds the Stall, zero for a reserved or an absent Stall; CIP_SLOT_SEL the
slot's state and generation; SRV_SCHED_SEL the scheduler entry; FAB_ROUTE_SEL the route; YRD_MEMBER_SEL the member's map
entry; MGT_MON_SEL the monitor's band and value. A read of SRV_CLOCK_LO latches clock bits 39 to 32 into SRV_CLOCK_HI.
Writing 1 over an engine's fault bit clears its fault and its mismatches, and no other engine changes. (R85, R92, R107,
R139, R275, R300, R381, R397, R441) -/
def Obligations.SelectRegistersSampleAtTheWrite : Prop :=
  ∀ (v : Nat) (s : State),
    Runs (.stkProbeSel v) s (fun t => readReg t 0x020010 = some (v % 2 ^ 19) ∧ Only [.stk] s t
      ∧ t.stk.stalls = s.stk.stalls ∧ t.stk.stables = s.stk.stables
      ∧ ((v % 2 ^ 19 < 1024 ∨ s.stk.total ≤ v % 2 ^ 19) → readReg t 0x020014 = some 0 ∧ readReg t 0x020018 = some 0)
      ∧ (1024 ≤ v % 2 ^ 19 → v % 2 ^ 19 < s.stk.total →
          let w := stallWord { stallAt s (v % 2 ^ 19) with stable := stableOf s (v % 2 ^ 19) }
          readReg t 0x020014 = some (w % 2 ^ 32) ∧ readReg t 0x020018 = some (w / 2 ^ 32 % 2 ^ 32)))
    ∧ Runs (.cipSlotSel v) s (fun t => readReg t 0x040010 = some (v % 2 ^ 7) ∧ Only [.cip] s t
        ∧ readReg t 0x040018 = some (slotAt s (v % 2 ^ 7)).gen ∧ t.cip.selLoaded = (slotAt s (v % 2 ^ 7)).loaded
        ∧ t.cip.selRetired = (slotAt s (v % 2 ^ 7)).retired.length ∧ t.cip.selExhausted = (slotAt s (v % 2 ^ 7)).exhausted
        ∧ t.cip.selRetiring = (slotAt s (v % 2 ^ 7)).retiring.isSome ∧ t.cip.slots = s.cip.slots)
    ∧ Runs (.srvSchedSel v) s (fun t => readReg t 0x0C002C = some (v % 2 ^ 12) ∧ Only [.srv] s t ∧ t.srv.sched = s.srv.sched
        ∧ (∀ e, AMap.get? s.srv.sched (v % 2 ^ 12) = some e → t.srv.selWords = entryWords e)
        ∧ (AMap.get? s.srv.sched (v % 2 ^ 12) = none → t.srv.selWords = [0, 0, 0, 0]))
    ∧ Runs (.fabRouteSel v) s (fun t => readReg t 0x10000C = some (v % 2 ^ 12) ∧ Only [.fab] s t
        ∧ t.fab = { s.fab with sel := v % 2 ^ 12, selRoute := AMap.get? s.fab.routes (v % 2 ^ 12) })
    ∧ Runs (.yrdMemberSel v) s (fun t => readReg t 0x0F0030 = some (v % 2 ^ 6) ∧ Only [.yrd] s t
        ∧ readReg t 0x0F0034 = some (memberState s (v % 2 ^ 6) * 2 ^ 30 + memberHost s (v % 2 ^ 6)) ∧ t.yrd.map = s.yrd.map)
    ∧ Runs (.mgtMonSel v) s (fun t => readReg t 0x11000C = some (v % 2 ^ 7) ∧ Only [.mgt] s t
        ∧ t.mgt.monBand = (monAt s (v % 2 ^ 7)).band ∧ t.mgt.monValue = (monAt s (v % 2 ^ 7)).value ∧ t.mgt.monitors = s.mgt.monitors)
    ∧ Runs .tapeClockReadLatch s (fun t => t = { s with srv := { s.srv with clockHi := s.srv.clock / 2 ^ 32 % 2 ^ 8 } })
    ∧ Runs (.engineFaultClear v) s (fun t => Only [.cmp] s t ∧ ∀ e < 6,
        engineAt t e = if bit v (24 + e) ∧ (engineAt s e).fault then { engineAt s e with fault := false, mismatches := 0 } else engineAt s e)

/-- Doorbells: the index moves, or the write is ignored, counted and posted. For a ring 0 to 32 of a port whose functions
are enabled: a tail written to an enabled ring, or a head written to a ring that is enabled or has a command
outstanding, with an index below the ring size, becomes the ring's tail or head; the entries from the fetch pointer up
to the tail are new, size - 1 at most. A tail equal to the fetch pointer has no effect. Any other doorbell write leaves
every ring alone, adds one to HQ_DOORBELL_ERR_COUNT and posts an entry to MB_MGT (which a full MB_MGT drops, R13). (R33) -/
def Obligations.DoorbellsMoveTheirIndexOrAreRejected : Prop :=
  ∀ (p : Port) (n v : Nat) (s : State), (portOf s p).functionsOn = true → n ≤ 32 →
    let x := ringAt s p n
    let i := v % 1024
    (x.enable = true → i < x.liveSize → i ≠ x.sqHead → Runs (.sqTailDoorbell p n v) s fun t =>
      ringAt t p n = { x with tail := i } ∧ RingsBut p n s t ∧ t.hq = { s.hq with rings := t.hq.rings } ∧ Only [.hq] s t
      ∧ newEntries (ringAt t p n) = (i + x.liveSize - x.sqHead) % x.liveSize ∧ newEntries (ringAt t p n) ≤ x.liveSize - 1)
    ∧ (x.enable = true → i < x.liveSize → i = x.sqHead → exec (.sqTailDoorbell p n v) s = .next s)
    ∧ ((x.enable = true ∨ outstanding s p n = true) → i < x.liveSize → Runs (.cqHeadDoorbell p n v) s fun t =>
      ringAt t p n = { x with cqHead := i } ∧ RingsBut p n s t ∧ t.hq = { s.hq with rings := t.hq.rings } ∧ Only [.hq] s t)
    ∧ ((x.enable = false ∨ x.liveSize ≤ i) → Runs (.sqTailDoorbell p n v) s fun t =>
      t.hq = s.hq ∧ readReg t 0x010004 = some (min (ctr s 0x010004 + 1) 0xFFFFFFFF) ∧ Only [.boxes, .ctrs] s t
      ∧ (s.boxes.mgt.length < 1024 → t.boxes = { s.boxes with mgt := s.boxes.mgt ++ [⟨s.srv.clock, 28, 0x0101, n % 64 + 256 * portIdx p⟩] }))
    ∧ (((x.enable = false ∧ outstanding s p n = false) ∨ x.liveSize ≤ i) → Runs (.cqHeadDoorbell p n v) s fun t =>
      t.hq = s.hq ∧ readReg t 0x010004 = some (min (ctr s 0x010004 + 1) 0xFFFFFFFF) ∧ Only [.boxes, .ctrs] s t
      ∧ (s.boxes.mgt.length < 1024 → t.boxes = { s.boxes with mgt := s.boxes.mgt ++ [⟨s.srv.clock, 28, 0x0101, n % 64 + 256 * portIdx p⟩] }))

/-- Enabling, refusing and disabling a ring pair. For a ring 0 to 32 of a port whose functions are enabled. RING_ENABLE on a
disabled ring with nothing outstanding, its size within 2 to 1,024 (256 for ring 32), its bases aligned to 4,096 and,
for a data ring, the device in service: size and bases are read, the fetch pointer, completion head and tail are 0 and
the phase is 1. If one of these conditions fails, enable stays clear and enable_failed sets. RING_DISABLE clears enable
and touches neither the rest of the ring nor any command. No other ring changes. (R31, R34, R75, R399, R471) -/
def Obligations.RingPairsStartAfreshAndStop : Prop :=
  ∀ (p : Port) (n : Nat) (s : State), (portOf s p).functionsOn = true → n ≤ 32 →
    let x := ringAt s p n
    let good := 2 ≤ x.size ∧ x.size ≤ (if n = 32 then 256 else 1024) ∧ x.sqLo % 4096 = 0 ∧ x.cqLo % 4096 = 0
      ∧ outstanding s p n = false ∧ (n = 32 ∨ s.cfg.st = .service)
    (x.enable = false → good → Runs (.ringEnable p n) s fun t => RingsBut p n s t ∧ t.hq = { s.hq with rings := t.hq.rings } ∧ Only [.hq] s t
      ∧ ringAt t p n = { x with enable := true, liveSize := x.size, sqBase := x.sqHi * 2 ^ 32 + x.sqLo, cqBase := x.cqHi * 2 ^ 32 + x.cqLo
                                tail := 0, sqHead := 0, cqHead := 0, cqTail := 0, phase := true, unsignalled := 0, resetting := false })
    ∧ (x.enable = false → ¬good → Runs (.ringEnable p n) s fun t => RingsBut p n s t ∧ t.hq = { s.hq with rings := t.hq.rings } ∧ Only [.hq] s t
        ∧ ringAt t p n = { x with enableFailed := true })
    ∧ Runs (.ringDisable p n) s fun t => RingsBut p n s t ∧ t.hq = { s.hq with rings := t.hq.rings } ∧ Only [.hq] s t
        ∧ ringAt t p n = { x with enable := false }

/-- A fetch turn takes up to 8 entries of the ring in turn, in ring order, and stamps them. While fetching is not stopped
and the port whose turn it is has a ready ring n (turnRing: first in rotation after its previous turn), FETCH_TURN
accepts a run of at most 8 of the entries offered: each becomes a command of that port and ring with the next acceptance
sequence, read from its 64 bytes; the fetch pointer moves by as many entries; the next turn is the other port's, and n
is the port's previous ring. With an entry offered, and ring 32 or the Buffer Record Index short of its 32,768 entries,
at least one is accepted. (R36, R37, R64) -/
def Obligations.FetchTurnsAcceptEntriesInOrder : Prop :=
  ∀ (entries : List Bytes) (n : Nat) (s : State), let p := s.hq.nextPort
    s.hq.stopFetch = false → turnRing s p = some n → Runs (.fetchTurn entries) s fun t =>
      t.hq.nextPort = otherPort p ∧ (portOf t p).lastRing = n ∧ portOf t (otherPort p) = portOf s (otherPort p)
      ∧ ∃ new, t.hq.cmds = s.hq.cmds ++ new ∧ new.length ≤ 8 ∧ t.hq.acceptSeq = s.hq.acceptSeq + new.length
        ∧ (∀ i c, new[i]? = some c → c.port = p ∧ c.ring = n ∧ c.seq = s.hq.acceptSeq + i ∧ (entries[i]?).map parseEntry = some c.e)
        ∧ (ringAt t p n).sqHead % (ringAt s p n).liveSize = ((ringAt s p n).sqHead + new.length) % (ringAt s p n).liveSize
        ∧ (entries ≠ [] → n = 32 ∨ briClaims s < 32768 → new ≠ [])

/-- COMPLETION_WRITE: 32 bytes at the ring's write index, the index and the phase move, the command is gone. For a
completing command whose completion ring has a released slot, outside a Dusk, and not behind commands that an activation
held or, an ABORT, its target: 32 bytes are written at the completion base plus 32 times the write index, laid out by
R43 (tag, status, fetch pointer, ring, flags, result, the deferred error it carries, phase); every other byte of host
memory reads as before; the write index moves on, the phase inverts when it wraps to 0, and the command leaves the
table. (R34, R43, R64, R66) -/
def Obligations.CompletionsGoOutOnceToTheirRing : Prop :=
  ∀ (q : Nat) (c : Cmd) (s : State), findCmd s q = some c → c.st = .completing → cqFull (ringAt s c.port c.ring) = false
    → s.cfg.dusk = none → heldAhead s c = false → targetAhead s c = false → c.ring ≤ 32 →
    let x := ringAt s c.port c.ring
    let a := x.cqBase + 32 * x.cqTail
    let r := takeDefer c s
    let early := isWriteOp c.e.opcode && c.ring != 32 && loaded s && earlyWarning s c.e.partition
    let entry := completionBytes c r.1 r.2.1 early x.phase
    entry.length = 32
    ∧ entry = le 2 c.e.tag ++ le 2 c.status ++ le 2 (c.sqHead % 1024) ++ le 1 c.ring
        ++ le 1 (b2n r.1.isSome + 2 * b2n r.2.1 + 4 * b2n c.caught + 8 * b2n c.markHit + 16 * b2n c.eodHit + 32 * b2n early + 64 * b2n c.cascade)
        ++ le 8 c.result ++ (match r.1 with | some e => le 6 e.first ++ le 2 0 ++ le 4 e.count ++ le 2 e.cause | none => zeros 14) ++ le 1 0 ++ le 1 (b2n x.phase)
    ∧ Runs (.completionWrite q) s fun t =>
      (∀ b, hostByte t b = if a ≤ b ∧ b < a + 32 then entry[b - a]? else hostByte s b)
      ∧ findCmd t q = none
      ∧ (ringAt t c.port c.ring).cqTail = (x.cqTail + 1) % x.liveSize
      ∧ (ringAt t c.port c.ring).phase = (if (x.cqTail + 1) % x.liveSize = 0 then !x.phase else x.phase)
      ∧ RingsBut c.port c.ring s t ∧ (∀ r, findCmd s r ≠ none → r ≠ q → findCmd t r = findCmd s r)

/-- Queue reset: waiting commands of the ring end, the rest run on; then the ring starts afresh. For a ring 0 to 32 of a
port whose functions are enabled. QUEUE_RESET sets resetting in the ring. Every command of the ring that is fetched,
ADMITTED or GATED (its number unique in the table; a write with its index entry not Taken, or not checked yet) completes
with ABORTED_BY_RESET, result 0 unless the end of an earlier write has ended it; any other command that is no write
keeps its entry, state, status and result; a reset of ring 32 drops the open set of that port. QUEUE_RESET_DONE, with
nothing of the ring outstanding, gives indices and phase their enabled state and sets reset_done. COALESCE_TIME_EXPIRY,
with a coalescing time set and entries unsignalled, raises the ring's vector once and leaves none unsignalled. No other
ring changes. (R35, R71, R416, R471) -/
def Obligations.QueueResetsAbortWaitingCommands : Prop :=
  ∀ (p : Port) (n : Nat) (s : State), n ≤ 32 →
    let x := ringAt s p n
    let waits := fun (c : Cmd) => c.port = p ∧ c.ring = n ∧ (c.st = .fetched ∨ c.st = .admitted ∨ c.st = .gated)
    ((portOf s p).functionsOn = true → Runs (.queueReset p n) s fun t =>
      ringAt t p n = { x with resetting := true } ∧ RingsBut p n s t
      ∧ (∀ q c, findCmd s q = some c → (∀ d ∈ s.hq.cmds, d.seq = q → d = c) → waits c →
          (c.isWrite = true → (∃ w, findWrite s q = some w ∧ w.taken = false) ∨ findWrite s q = none ∧ c.st = .fetched) →
          ∃ d, findCmd t q = some d ∧ d.st = .completing ∧ d.status = Status.abortedByReset ∧ (d.cascade = false → d.result = 0))
      ∧ (∀ q c, findCmd s q = some c → (∀ d ∈ s.hq.cmds, d.seq = q → d = c) → ¬waits c → c.isWrite = false → findWrite s q = none →
          ∃ d, findCmd t q = some d ∧ d.st = c.st ∧ d.status = c.status ∧ d.result = c.result ∧ d.e = c.e)
      ∧ (n = 32 → ∀ rs, t.cfg.openSet ≠ some (p, rs)))
    ∧ (x.resetting = true → outstanding s p n = false → Runs (.queueResetDone p n) s fun t =>
      ringAt t p n = { x with resetting := false, resetDone := true, tail := 0, sqHead := 0, cqHead := 0, cqTail := 0, phase := true, unsignalled := 0 }
      ∧ RingsBut p n s t ∧ t.hq = { s.hq with rings := t.hq.rings })
    ∧ (x.coalTime ≠ 0 → x.unsignalled ≠ 0 → Runs (.coalesceTimeExpiry p n) s fun t =>
      let v := portIdx p * 64 + (if n = 32 then 32 else x.vector)
      ringAt t p n = { x with unsignalled := 0 } ∧ RingsBut p n s t ∧ AMap.getD t.hq.msix v 0 = AMap.getD s.hq.msix v 0 + 1
      ∧ t.hq = { s.hq with rings := t.hq.rings, msix := t.hq.msix })

/-- Function level resets, link down and PERST: commands of the port go, its rings are disabled, the port retrains. FLR of
PF0 leaves no data command of the port, its 32 data rings disabled and ring 32 as it was; FLR of PF1 leaves no
management command of the port and ring 32 disabled, and its data rings as they were. LINK_DOWN and PERST_ASSERT leave
no command of the port, all its rings disabled and the link down; after LINK_DOWN the port trains while its domain (22
port A, 23 port B) is on; PERST_ASSERT holds it. PERST_DEASSERT ends PERST; the port trains when its domain is on and D0
is over. PCIE_LINK_UP brings a training link up, at no more than the port's speed limit. A configuration request on a
link that is up is answered with Retry Status exactly until the functions are enabled; from then on it reads the device
ID, class code, vectors and BAR sizes of its function, and sets a maximum payload of 128, 256 or 512 bytes only. A reset
of a function, link down or PERST puts its configuration back. Rings of the other port never change. (R29, R30, R72,
R399, R416, R447) -/
def Obligations.PortsDropTheirCommandsAndRetrain : Prop :=
  ∀ (p : Port) (s : State),
    let gone := fun (t : State) (k : Nat → Prop) => (∀ c ∈ t.hq.cmds, ¬(c.port = p ∧ k c.ring)) ∧ ∀ n, n ≤ 32 → k n → (ringAt t p n).enable = false
    let others := fun (t : State) (k : Nat → Prop) => ∀ q n, n ≤ 32 → ¬(q = p ∧ k n) → ringAt t q n = ringAt s q n
    (Runs (.flrPf0 p) s fun t => gone t (· < 32) ∧ others t (· < 32) ∧ portOf t p = { portOf s p with pf0 := {} })
    ∧ (Runs (.flrPf1 p) s fun t => gone t (· = 32) ∧ others t (· = 32) ∧ portOf t p = { portOf s p with pf1 := {} })
    ∧ (Runs (.linkDown p) s fun t => gone t (fun n => n ≤ 32 ∨ 32 < n) ∧ others t (· ≤ 32)
        ∧ portOf t p = { portOf s p with pf0 := {}, pf1 := {}, linkUp := false, linkSpeed := 0, linkWidth := 0, training := domOn s (22 + portIdx p) })
    ∧ (Runs (.perstAssert p) s fun t => gone t (fun n => n ≤ 32 ∨ 32 < n) ∧ others t (· ≤ 32)
        ∧ portOf t p = { portOf s p with pf0 := {}, pf1 := {}, linkUp := false, linkSpeed := 0, linkWidth := 0, training := false, perst := true })
    ∧ ((portOf s p).perst = true → Runs (.perstDeassert p) s fun t =>
        t = setPort p { portOf s p with perst := false, training := domOn s (22 + portIdx p) && s.cfg.st != .reset && s.cfg.st != .d0 } s)
    ∧ (∀ v w, (portOf s p).training = true → (portOf s p).perst = false → Runs (.pcieLinkUp p v w) s fun t =>
        t = setPort p { portOf s p with training := false, linkUp := true, linkSpeed := min v (maxSpeed s p), linkWidth := w } s)
    ∧ (∀ f r, (portOf s p).linkUp = true → (portOf s p).functionsOn = false → Runs (.pcieConfigRequest p f r) s fun t =>
        t = setPort p { portOf s p with cfgRetry := some true, cfgAnswer := none } s)
    ∧ (∀ f r, (portOf s p).linkUp = true → (portOf s p).functionsOn = true → Runs (.pcieConfigRequest p f r) s fun t =>
        let y := portOf t p
        Only [.hq] s t ∧ t = setPort p y s ∧ y.cfgRetry = some false
        ∧ (r = .deviceId → y.cfgAnswer = some (if f = .pf0 then 0x9128 else 0x9129))
        ∧ (r = .classCode → y.cfgAnswer = some (if f = .pf0 then 0x018000 else 0x088000))
        ∧ (r = .msixVectors → y.cfgAnswer = some (if f = .pf0 then 32 else 2))
        ∧ (r = .barSize 0 → y.cfgAnswer = some (if f = .pf0 then 0x10000 else 0x1000000))
        ∧ (r = .barSize 2 → y.cfgAnswer = some 0x4000)
        ∧ (f = .pf0 → y.pf1 = (portOf s p).pf1) ∧ (f = .pf1 → y.pf0 = (portOf s p).pf0)
        ∧ (∀ n, r = .maxPayload n → (if f = .pf0 then y.pf0 else y.pf1).maxPayload
            = if n = 128 ∨ n = 256 ∨ n = 512 then n else (if f = .pf0 then (portOf s p).pf0 else (portOf s p).pf1).maxPayload))

/-- Host DMA, dispatch, compression outcomes, engines leaving service. HOST_DMA_COMPLETE with the packet's host bytes in an
idle ingress Stall that the port holds makes the packet ready. ENGINE_DISPATCH gives the first ready packet to the
lowest idle engine in service, READ_DLZ_DISPATCH the earliest waiting DLZ read packet; where both kinds wait they
alternate. COMPRESSION_DONE ends a job: the DLZ stream when it is shorter than the packet and verified; the raw bytes
when it is not smaller or a mismatch, each counted; a first input error starts the job again; a second one or an output
error is an engine fault, the packet ready again; and a packet whose write is gone leaves the engine idle.
ENGINE_LEAVE_SERVICE after mismatch_limit mismatches takes the engine out. Other engines never change. (R103, R105,
R106, R107, R109, R116) -/
def Obligations.PacketsMoveThroughTheEngines : Prop :=
  ∀ (s : State),
    (∀ q i n data w k, (runningCmd s q 0x01).isSome → findWrite s q = some w → w.pkts[i]? = some k → k.st = .dma → data.length = k.hostLen
      → (stallAt s n).st = .held → (stallAt s n).owner = portReq w.port → (stallAt s n).stable = 0 → stallBusy s n = false →
      Runs (.hostDmaComplete q i n data) s fun t =>
        findWrite t q = some (w.updPkt i fun k => { k with st := .ready, data := data, ingress := some (n, (stallAt s n).gen) }))
    ∧ (∀ q i e, Cfgw.rawOnly s = false → readyPacket s = some (q, i) → idleEngine s = some e → ((dlzWaiting s).isSome → s.cmp.readNext = false) →
      Runs .engineDispatch s fun t =>
        engineAt t e = { engineAt s e with job := .write q i false
                                           input := (((findWrite s q).bind fun w => w.pkts[i]?).map Pkt.data).getD [] } ∧ (∀ d, d ≠ e → engineAt t d = engineAt s d)
        ∧ findWrite t q = (findWrite s q).map (fun w => w.updPkt i fun k => { k with st := .inEngine e })
        ∧ t.cmp.readNext = ((dlzWaiting s).isSome || s.cmp.readNext))
    ∧ (∀ c e, dlzWaiting s = some c → idleEngine s = some e → ((readyPacket s).isSome → Cfgw.rawOnly s = false → s.cmp.readNext = true) →
      Runs .readDlzDispatch s fun t =>
        engineAt t e = { engineAt s e with job := .read c.seq } ∧ (∀ d, d ≠ e → engineAt t d = engineAt s d)
        ∧ t.cmp.readNext = (s.cmp.readNext && !((readyPacket s).isSome && !Cfgw.rawOnly s)))
    ∧ (∀ e q i b f, (engineAt s e).job = .write q i b → e < 6 →
      let x := engineAt s e
      let z := dlzEncode x.input
      let small := decide (z.length < x.input.length ∧ f = .none)
      Runs (.compressionDone e f) s fun t =>
        (∀ d, d ≠ e → engineAt t d = engineAt s d)
        ∧ ((f = .none ∨ f = .verifyMismatch) → (engineAt t e).job = (if (findWrite s q).isSome then .done q i else .idle)
            ∧ findWrite t q = (findWrite s q).map (fun w => w.updPkt i fun y => { y with st := .finished e, dlz := small, payload := if small then z else x.input })
            ∧ ctr t (0x030100 + 0x20 * e) = satAdd (ctr s (0x030100 + 0x20 * e)) 1
            ∧ (x.input.length ≤ z.length → ctr t (0x030104 + 0x20 * e) = satAdd (ctr s (0x030104 + 0x20 * e)) 1)
            ∧ (z.length < x.input.length → f = .verifyMismatch → ctr t (0x030110 + 0x20 * e) = satAdd (ctr s (0x030110 + 0x20 * e)) 1
                ∧ (engineAt t e).mismatches = x.mismatches + 1))
        ∧ (f = .inputEcc → b = false → engineAt t e = { x with job := .write q i true } ∧ findWrite t q = findWrite s q)
        ∧ ((f = .inputEcc ∧ b = true ∨ f = .outputEcc) → (engineAt t e).job = .idle ∧ (engineAt t e).fault = true
            ∧ findWrite t q = (findWrite s q).map (fun w => w.updPkt i fun k => { k with st := .ready }))
        ∧ ((f = .inputEcc ∨ f = .outputEcc) → ctr t (0x030118 + 0x20 * e) = satAdd (ctr s (0x030118 + 0x20 * e)) 1))
    ∧ (∀ e, engineIn s e = true → 0 < (engineAt s e).mismatches → Cfgw.mismatchLimit s ≤ (engineAt s e).mismatches →
      Runs (.engineLeaveService e) s fun t => engineAt t e = { engineAt s e with fault := true, mismatches := 0 } ∧ engineIn t e = false
        ∧ (∀ d, d ≠ e → engineAt t d = engineAt s d))

/-- CIPHER_TAKE_PACKET stores the next packet, or holds it back under the exposure limit. Outside Dusk, the packet due next
(the held one, else the eligible one of the lowest acceptance sequence) is taken when its stored bytes keep the exposure
within the limit and the Stalls that they need are granted: it is stored in its R96 form with nothing left in ingress,
nothing is held, its engine is idle and no other packet of its write changes. With the last packet of the partition's
first write that is not Taken, the write is Taken and its command completes OK with the counter of its packet 0 (0 for
marks); while a packet of that write is to come, no command changes. Past the limit the packet is held and nothing else
changes. (R27, R64, R96, R104, R109) -/
def Obligations.CipherTakesPacketsWithinTheExposure : Prop :=
  ∀ (s : State) (w : Write) (i : Nat) (k : Pkt), s.cfg.dusk = none → cipherNext s = some (w, i) → w.pkts[i]? = some k → findWrite s w.seq = some w →
    (s.hq.writes.map Write.seq).Nodup →
    let bytes := storedForm s w i k
    let first := s.hq.writes.find? (fun x => x.part == w.part && !x.taken) = some w
    (exposureLimit s < exposure s + bytes.length → Runs .cipherTakePacket s fun t => t = { s with cip := { s.cip with held := some (w.seq, i) } })
    ∧ (exposure s + bytes.length ≤ exposureLimit s → (extendChain w bytes.length s).1.isSome → Runs .cipherTakePacket s fun t =>
      t.cip.held = none
      ∧ (∀ e, k.st = .finished e → (engineAt t e).job = .idle)
      ∧ (∃ v, findWrite t w.seq = some v
          ∧ v.pkts[i]? = some { k with st := .stored, stored := bytes, lead := if w.kind = .marks then 0 else (descsIn s w i).length
                                       data := [], payload := [], ingress := none }
          ∧ (∀ j, j ≠ i → v.pkts[j]? = w.pkts[j]?)
          ∧ (first → (∀ j x, j ≠ i → w.pkts[j]? = some x → x.st = .stored) → v.taken = true))
      ∧ (∀ c, first → (∀ j x, j ≠ i → w.pkts[j]? = some x → x.st = .stored) → findCmd s w.seq = some c →
          Ended t w.seq Status.ok (if w.kind = .marks then 0 else w.counter))
      ∧ (first → (∃ j x, j ≠ i ∧ w.pkts[j]? = some x ∧ x.st ≠ .stored) → t.hq.cmds = s.hq.cmds))

/-- Reads: expanded packets, malformed streams, end of data, Gate locks. DECOMPRESSION_DONE on an engine in service
expanding a running read's packet makes the engine idle; a malformed stream ends the read READ_ERROR, counts it and
loads CMP_MALFORMED_LAST; a good stream that holds the read's last record whole ends it OK: record data into the scatter
list after what was delivered, its length list entry, its header data cut to header_len, nothing else of host memory.
READ_DECRYPT at the accepted end that the read sees ends it OK with eod_hit. GATE_LOCK_GRANT, with a lock free, gives
the first waiting command a lock on the version it needs, pinning the Stalls of the copy, and runs it; a copy of which a
pin is refused counts as gone for it. COPIES_SETTLED releases exactly the command's locks on writes that are gone, or
Taken with no copies in flight. (R42, R48, R62, R63, R64, R115, R116) -/
def Obligations.ReadsDeliverRecordsUnderTheirLocks : Prop :=
  ∀ (s : State),
    (∀ e q c h b, (engineAt s e).job = .read q → engineIn s e = true → runningCmd s q 0x02 = some c → c.hold = some h → dlzDecode h.hostLen h.payload = .error b → e < 6 →
      Runs (.decompressionDone e) s fun t => (engineAt t e).job = .idle
        ∧ Ended t q Status.readError (c.delivered % 2 ^ 40 + c.entries % 2 ^ 24 * 2 ^ 40)
        ∧ ctr t (0x03011C + 0x20 * e) = satAdd (ctr s (0x03011C + 0x20 * e)) 1
        ∧ t.cmp.malKind = b.kind ∧ t.cmp.malEngine = e ∧ t.cmp.malOffset = b.offset ∧ t.hostMem = s.hostMem)
    ∧ (∀ e q c h data off len hdr, (engineAt s e).job = .read q → engineIn s e = true → runningCmd s q 0x02 = some c → c.hold = some h → dlzDecode h.hostLen h.payload = .ok data
        → h.starts = [(c.next, off, len, hdr)] → c.next < c.endSeen → c.pkt = 0 → (slice data off len).length = len → c.delivered + len ≤ c.e.length
        → c.e.count ≤ c.entries + 1 →
      let u := hostWrite (c.e.auxAddr + 8 * c.entries) (le 8 (len % 2 ^ 25 + hdr.length % 512 * 2 ^ 32)) (sglWrite c.sgl c.delivered (slice data off len) s)
      Runs (.decompressionDone e) s fun t => (engineAt t e).job = .idle
        ∧ Ended t q Status.ok ((c.delivered + len) % 2 ^ 40 + (c.entries + 1) % 2 ^ 24 * 2 ^ 40)
        ∧ (partAt t c.e.partition).current = c.next + 1
        ∧ t.hostMem = (if c.e.headerLen = 0 then u else hostWrite (c.e.headerAddr + c.entries * c.e.headerLen) (hdr.take c.e.headerLen) u).hostMem)
    ∧ (∀ q c, runningCmd s q 0x02 = some c → c.hold = none → c.endSeen ≤ c.next → Runs (.readDecrypt q) s fun t =>
        (∃ d, findCmd t q = some d ∧ d.st = .completing ∧ d.status = Status.ok ∧ d.eodHit = true ∧ d.result = c.delivered % 2 ^ 40 + c.entries % 2 ^ 24 * 2 ^ 40)
        ∧ t.hq.gates = s.hq.gates.filter fun g => g.seq != q)
    ∧ (∀ c w, s.hq.gates.length < 1024 → s.hq.cmds.find? (fun c => c.st == .gated) = some c → findCmd s c.seq = some c
        → versionFor s c.e.partition c.seq c.next = some w → (s.hq.gates.any fun g => g.seq == c.seq && g.write == w.seq && g.first == c.next) = false →
      Runs .gateLockGrant s fun t => t.hq.gates = s.hq.gates ++ [⟨c.seq, w.seq, w.part, c.next, 1, w.chain.filter (pinTaken s)⟩]
        ∧ findCmd t c.seq = some { c with st := .running, gone := if w.chain.all (pinTaken s) then c.gone else w.seq :: c.gone }
        ∧ t.hq.writes = s.hq.writes)
    ∧ (∀ q, Runs (.copiesSettled q) s fun t => t.hq = { s.hq with gates := s.hq.gates.filter fun g =>
        !(g.seq == q && match findWrite s g.write with
          | some w => w.taken && !(recPkts w g.first).any (inFlight s w)
          | none => true) })

/-- WRITE_RECORDS and WRITE_MARK: admitted, the accepted end moves, later records are superseded; or refused. A
WRITE_RECORDS or WRITE_MARK whose checks are due and all pass (R470, in its order) is admitted: the partition's accepted
end becomes the record after its last; below the old accepted end its marks come down to its first record and later
records are superseded; its entry holds its partition, first record, whether it truncates, its records (record i of the
given lengths, in the packets that R93 cuts) or marks, nothing Taken; its command is RUNNING, or ADMITTED while it waits
for a record table or a derived key. Other writes change only by superseding. A command that fails a field check ends
with that status, and no write is added. (R46, R54, R89, R93, R99, R131, R470) -/
def Obligations.WritesAreAdmittedAtTheAcceptedEnd : Prop :=
  ∀ (s : State) (q : Nat) (c : Cmd),
    let p := c.e.partition
    let pos := c.e.position
    let trunc := decide (pos < (partAt s p).acceptedEnd)
    let admitted := fun (t : State) (n : Nat) =>
      partAt t p = (if trunc then { partAt s p with
            acceptedEnd := pos + n, takenMark := min (partAt s p).takenMark pos, shelteredMark := min (partAt s p).shelteredMark pos,
            laidMark := min (partAt s p).laidMark pos, safeMark := min (partAt s p).safeMark pos }
          else { partAt s p with acceptedEnd := pos + n })
      ∧ (∀ o, o ≠ p → partAt t o = partAt s o)
      ∧ (∃ d, findCmd t q = some d ∧ (d.st = .running ∨ d.st = .admitted) ∧ d.e = c.e)
      ∧ ∀ r, r ≠ q → findWrite t r = (findWrite s r).map (if trunc then supersede p pos else id)
    (∀ sgl lens hdrs, due s q 0x01 = some c → findWrite s q = none →
      let ls := recLens c.e lens
      let total := ls.foldl (fun a x => a + x.1) 0
      let bad := decide (256 < c.e.headerLen) || (ls.any fun x => decide (c.e.headerLen < x.2)) || decide (total ≠ c.e.length) || !sglOk c.e sgl c.e.length
      let packets := (cutRecords (ls.map Prod.fst)).1.length
      (writeFieldCheck c.e ls 4096 total bad = none → admissionCheck s c.e false (writeMeasure total packets ls) packets = none →
        Runs (.writeRecords q sgl lens hdrs) s fun t => admitted t c.e.count
          ∧ ∃ w, findWrite t q = some w ∧ w.part = p ∧ w.first = pos ∧ w.kind = .records ∧ w.truncating = trunc ∧ w.taken = false
            ∧ w.recs.length = min ls.length (cutRecords (ls.map Prod.fst)).2.length ∧ w.pkts.length = packets ∧ w.gen = (slotAt s c.e.keySlot).gen)
      ∧ ∀ st, writeFieldCheck c.e ls 4096 total bad = some st → Runs (.writeRecords q sgl lens hdrs) s fun t =>
          Ended t q st 0 ∧ t.hq.writes = s.hq.writes ∧ t.parts = s.parts)
    ∧ (due s q 0x05 = some c → findWrite s q = none →
      (writeFieldCheck c.e [] 65535 0 false = none → admissionCheck s c.e true (48 * c.e.count) 0 = none →
        Runs (.writeMark q) s fun t => admitted t c.e.count
          ∧ ∃ w, findWrite t q = some w ∧ w.part = p ∧ w.first = pos ∧ w.kind = .marks ∧ w.truncating = trunc ∧ w.taken = false
            ∧ w.recs.length = c.e.count ∧ w.pkts.length = 1)
      ∧ ∀ st, writeFieldCheck c.e [] 65535 0 false = some st → Runs (.writeMark q) s fun t =>
          Ended t q st 0 ∧ t.hq.writes = s.hq.writes ∧ t.parts = s.parts)

/-- READ_RECORDS begins, READ_POSITION, GET_LOG and GET_FEATURE answer. With the command's checks due. A READ_RECORDS whose
fields are in range begins at its position and sees the accepted end of that moment; it takes a lock on the version it
needs when that is not yet Taken or not settled, pinning the Stalls of the copy (a copy of which a pin is refused counts
as gone), and is GATED when none is free; a field out of range ends it INVALID_FIELD, no cartridge NOT_READY.
READ_POSITION with its page aligned to 64 writes the 64-byte page (zeros with no cartridge) and nothing else of host
memory. GET_LOG with log 1 to 4 and a good scatter list writes the log's bytes there and answers how many (the health
log after the dies' readings, free values, are added: log entry 79). GET_FEATURE answers the value of feature 1, 2 or 3,
else INVALID_FIELD. (R48, R49, R52, R53, R62, R68, R470) -/
def Obligations.ReadsBeginAndQueriesAnswer : Prop :=
  ∀ (s : State) (q : Nat) (c : Cmd),
    (∀ sgl, due s q 0x02 = some c →
      let d : Cmd := { c with sgl := sglOf c.e sgl, next := c.e.position, endSeen := (partAt s c.e.partition).acceptedEnd, st := .running }
      let good := 0 < c.e.count ∧ c.e.count ≤ 4096 ∧ c.e.headerLen ≤ 256 ∧ sglOk c.e sgl c.e.length = true
      (good → serving s = true → partPresent s c.e.partition = true →
        (firstLock (updCmd q (fun _ => d) s) d = none → Runs (.readRecords q sgl) s fun t => findCmd t q = some d ∧ t.hq.gates = s.hq.gates)
        ∧ ∀ w, firstLock (updCmd q (fun _ => d) s) d = some w → (s.hq.gates.any fun g => g.seq == q && g.write == w.seq && g.first == c.e.position) = false →
            (s.hq.gates.length < 1024 → Runs (.readRecords q sgl) s fun t =>
              findCmd t q = some { d with gone := if w.chain.all (pinTaken s) then c.gone else w.seq :: c.gone }
              ∧ t.hq.gates = s.hq.gates ++ [⟨q, w.seq, w.part, c.e.position, 1, w.chain.filter (pinTaken s)⟩])
            ∧ (1024 ≤ s.hq.gates.length → Runs (.readRecords q sgl) s fun t => findCmd t q = some { d with st := .gated } ∧ t.hq.gates = s.hq.gates))
      ∧ (¬good → Runs (.readRecords q sgl) s fun t => Ended t q Status.invalidField 0)
      ∧ (good → serving s = false → Runs (.readRecords q sgl) s fun t => Ended t q Status.notReady 0))
    ∧ (due s q 0x06 = some c → c.e.auxAddr % 64 = 0 → (loaded s = true → partPresent s c.e.partition = true) →
        let x := partAt s c.e.partition
        let page := if loaded s = false then zeros 64 else
          le 8 x.current ++ le 8 x.acceptedEnd ++ le 8 x.takenMark ++ le 8 x.shelteredMark ++ le 8 x.laidMark ++ le 8 x.safeMark
          ++ le 5 s.srv.clock ++ le 1 s.srv.wrap ++ le 1 c.e.partition
          ++ le 1 (1 + 2 * b2n (earlyWarning s c.e.partition) + 4 * b2n (!x.defers.isEmpty)) ++ zeros 8
        page.length = 64 ∧ Runs (.readPosition q) s fun t => Ended t q Status.ok (if loaded s then x.current else 0)
          ∧ ∀ a, hostByte t a = if c.e.auxAddr ≤ a ∧ a < c.e.auxAddr + 64 then page[a - c.e.auxAddr]? else hostByte s a)
    ∧ (∀ sgl, due s q 0x10 = some c →
        let log := c.e.param % 256
        let u := if log = 4 then readDies s else s
        let out := logRead u log c.e.position c.e.length
        (1 ≤ log → log ≤ 4 → sglOk c.e sgl c.e.length = true → Runs (.getLog q sgl) s fun t => Ended t q Status.ok out.length
          ∧ t.hostMem = (sglWrite (sglOf c.e sgl) 0 out u).hostMem ∧ t.shd = u.shd)
        ∧ ((log = 0 ∨ 4 < log ∨ sglOk c.e sgl c.e.length = false) → Runs (.getLog q sgl) s fun t => Ended t q Status.invalidField 0 ∧ t.hostMem = s.hostMem))
    ∧ (due s q 0x12 = some c →
        let f := c.e.param % 256
        let ring := ringAt s c.port (bits c.e.param 12 8)
        (f = 1 → Runs (.getFeature q) s fun t => Ended t q Status.ok (ring.coalCount + ring.coalTime * 65536))
        ∧ (f = 2 → Runs (.getFeature q) s fun t => Ended t q Status.ok (partAt s c.e.partition).ewReserve)
        ∧ (f = 3 → Runs (.getFeature q) s fun t => Ended t q Status.ok (Cfgw.exposureMiB s))
        ∧ (f = 0 ∨ 3 < f → Runs (.getFeature q) s fun t => Ended t q Status.invalidField 0))

/-- SYNC completes at its level or waits; ABORT catches its target. A due SYNC of one partition covers its records up to the
accepted end: when that level's mark has reached it and no deferred error blocks it, it completes OK with that end; when
it has not, it runs with that coverage. SYNC_LEVEL_REACHED completes a running SYNC once every covered partition is at
its level, and with DEFERRED_WRITE_ERROR once an error blocks it. With no cartridge SYNC completes OK. A due ABORT
answers ABORT_UNAVAILABLE during Yard recovery, OK when no command has its tag; a target that can be caught (a write,
its index entry not Taken, or not checked yet) completes ABORTED_BY_HOST, a write under R65, and the ABORT completes OK
with its caught flag set. (R60, R64, R65, R69, R70, R470) -/
def Obligations.SyncsAndAbortsEndAsTheirLevelsSay : Prop :=
  ∀ (s : State) (q : Nat) (c : Cmd),
    let p := c.e.partition
    let level := bits c.e.flags 1 0
    let stop := (partAt s p).acceptedEnd
    (due s q 0x03 = some c →
      (loaded s = false → Runs (.sync q) s fun t => Ended t q Status.ok 0)
      ∧ (loaded s = true → bit c.e.flags 2 = false → partPresent s p = false → Runs (.sync q) s fun t => Ended t q Status.invalidField 0)
      ∧ (loaded s = true → bit c.e.flags 2 = false → partPresent s p = true → blocksSync s p stop level = false →
          (stop ≤ markOf (partAt s p) level → Runs (.sync q) s fun t => Ended t q Status.ok (stop % 2 ^ 48 + p * 2 ^ 48))
          ∧ (markOf (partAt s p) level < stop → Runs (.sync q) s fun t => findCmd t q = some { c with st := .running, covers := [(p, stop)] })))
    ∧ (runningCmd s q 0x03 = some c →
      ((c.covers.find? fun x => blocksSync s x.1 x.2 level) = none → (c.covers.all fun x => decide (x.2 ≤ markOf (partAt s x.1) level)) = true →
        Runs (.syncLevelReached q) s fun t => Ended t q Status.ok ((((c.covers.find? fun x => x.1 == p).map Prod.snd).getD 0) % 2 ^ 48 + p * 2 ^ 48))
      ∧ ∀ o e, (c.covers.find? fun x => blocksSync s x.1 x.2 level) = some (o, e) → Runs (.syncLevelReached q) s fun t =>
          Ended t q Status.deferredWriteError (markOf (partAt s o) level % 2 ^ 48 + o * 2 ^ 48))
    ∧ (due s q 0x0A = some c →
      let target := s.hq.cmds.find? fun d => d.port == c.port && (d.ring == 32) == (c.ring == 32) && d.e.tag == bits c.e.param 15 0 && d.seq != q && d.e.opcode != 0x0A
      (yardRecovery s = true → Runs (.abort q) s fun t => Ended t q Status.abortUnavailable 0)
      ∧ (yardRecovery s = false → target = none → Runs (.abort q) s fun t => Ended t q Status.ok 0 ∧ t.hq.writes = s.hq.writes)
      ∧ ∀ d, yardRecovery s = false → target = some d → catchable s d = true → findCmd s d.seq = some d → (∀ x ∈ s.hq.cmds, x.seq = q → x = c) →
          findWrite s q = none → (d.isWrite = true → (∃ w, findWrite s d.seq = some w ∧ w.taken = false) ∨ findWrite s d.seq = none ∧ d.st = .fetched) →
          Runs (.abort q) s fun t => Ended t d.seq Status.abortedByHost 0
            ∧ ∃ a, findCmd t q = some a ∧ a.st = .completing ∧ a.status = Status.ok ∧ a.caught = true)

/-- LOAD, UNLOAD, UNLOAD_PROCEED and the cartridge pin. CART_PRESENT_CHANGE sets the pin; the cartridge memory reads the
bytes it brings, zero elsewhere, all zero without a cartridge. A due LOAD with no cartridge ends NOT_READY; on a loaded
cartridge OK with its number of partitions; unthreaded, it posts the LOAD to MB_BRIDLE, which has a slot for it, and
threads. A running LOAD on a threaded cartridge whose Tape Clock is valid rebuilds: the cartridge is ready under the
serial number of its memory, and the LOAD ends OK with the partitions found. A due UNLOAD runs on a ready cartridge,
else ends NOT_READY. UNLOAD_PROCEED, every directory copy settled, posts the UNLOAD to MB_BRIDLE and writes the control
block; with the cartridge unthreaded the UNLOAD ends OK, and no cartridge, write or Gate lock remains. (R51, R162, R167,
R288, R461) -/
def Obligations.CartridgesAreLoadedAndUnloaded : Prop :=
  ∀ (s : State) (q : Nat) (scan : List ScanItem),
    (∀ cm a, Runs (.cartPresentChange true cm) s fun t => t.cart = { s.cart with present := true } ∧ cmByte t a = cm.getD a 0#8)
    ∧ (∀ cm a, Runs (.cartPresentChange false cm) s fun t => t.cart = { s.cart with present := false } ∧ cmByte t a = 0#8)
    ∧ (∀ c, due s q 0x07 = some c →
        (s.cart.present = false → Runs (.load q scan) s fun t => Ended t q Status.notReady 0)
        ∧ (s.cart.present = true → s.cart.st = .ready → Runs (.load q scan) s fun t =>
            Ended t q Status.ok ((List.range 4).filter fun p => partPresent s p).length)
        ∧ (s.cart.present = true → s.cart.st = .empty → s.brd.motion = .unthreaded → hasSlots .bridle 13 1 s = true → Runs (.load q scan) s fun t =>
            t.cart = { s.cart with st := .threading } ∧ t.boxes.bridle = s.boxes.bridle ++ [⟨s.srv.clock, 13, 0x0006, 0⟩]
            ∧ findCmd t q = some { c with st := .running }))
    ∧ (∀ c, runningCmd s q 0x07 = some c → due s q 0x07 = none → s.cart.present = true → s.cart.st = .threading → s.brd.motion = .running → s.srv.valid = true →
        Runs (.load q scan) s fun t => t.cart.st = .ready ∧ t.cart.serial = cmRead s 0 20
          ∧ Ended t q Status.ok ((List.range 4).filter fun p => partPresent t p).length)
    ∧ (∀ c, due s q 0x08 = some c →
        (s.cart.st ≠ .ready → Runs (.unload q) s fun t => Ended t q Status.notReady 0)
        ∧ (s.cart.st = .ready → Runs (.unload q) s fun t => findCmd t q = some { c with st := .running } ∧ t.cart = { s.cart with weakPosted := false }))
    ∧ (∀ c, runningCmd s q 0x08 = some c →
        (s.cart.st = .unloading → s.cart.dirTodo = [] → s.wrv.windowOpen = false → hasSlots .bridle 13 1 s = true → Runs (.unloadProceed q) s fun t =>
            t.cart.st = .unthreading ∧ t.cart.clean = (!s.cart.dirFailed) ∧ t.cart.cbSeq = s.cart.cbSeq + 1
            ∧ t.boxes.bridle = s.boxes.bridle ++ [⟨s.srv.clock, 13, 0x0007, 0⟩])
        ∧ (s.cart.st = .unthreading → s.brd.motion = .unthreaded → Runs (.unloadProceed q) s fun t =>
            Ended t q Status.ok 0 ∧ t.cart.st = .empty ∧ t.hq.writes = [] ∧ t.hq.gates = [] ∧ ∀ p, (partAt t p).wraps = 0))

/-- FORMAT_PARTITIONS begins afresh and ends with its directories; LOCATE sends the tape and answers where it is. A due
FORMAT_PARTITIONS whose table is good, on a ready cartridge with no window open no earlier data command unfinished and,
if it certifies, every wrap surveyed, runs: the write pass advances (after 65,535 comes 1), the format count too, no
write or Gate lock remains, and each partition of the table is empty with its wraps and the cartridge's serial number.
Once every directory copy is settled it ends OK, the control block clean unless a copy failed. While a window is open or
an earlier data command runs, it waits ADMITTED. A bad table ends it INVALID_FIELD. A due LOCATE in range, with two
slots free for it, posts a wrap select and a reposition to 100 frames before the place to MB_BRIDLE, and runs; with the
tape there it ends OK with Tape Clock and wrap, and the current position is its record or the accepted end. Past the
accepted end it ends INVALID_FIELD. (R50, R156, R160, R166, R168, R299) -/
def Obligations.CartridgesAreFormattedAndLocated : Prop :=
  ∀ (s : State) (q : Nat) (c : Cmd),
    (∀ table certify, due s q 0x09 = some c →
        (tableRefused c.e table = true → Runs (.formatPartitions q table certify) s fun t => Ended t q Status.invalidField 0)
        ∧ (tableRefused c.e table = false → s.cart.st = .ready → s.wrv.windowOpen = false
            → (s.hq.cmds.any fun d => d.ring != 32 && d.st != .completing && decide (d.seq < q)) = false
            → (bit c.e.flags 0 = true → ∀ w < 192, certify.any (fun x => x.wrap == w) = true) →
          Runs (.formatPartitions q table certify) s fun t => findCmd t q = some { c with st := .running }
            ∧ t.cart.writePass = (if (s.cart.writePass + 1) % 65536 = 0 then 1 else (s.cart.writePass + 1) % 65536)
            ∧ t.cart.formatCount = s.cart.formatCount + 1 ∧ t.hq.writes = [] ∧ t.hq.gates = []
            ∧ ∀ p, p < c.e.count → p < 4 → (partAt t p).acceptedEnd = 0 ∧ (partAt t p).laidMark = 0 ∧ (partAt t p).wraps = table.getD p 0 % 256
                ∧ (partAt t p).originSerial = s.cart.serial)
        ∧ (tableRefused c.e table = false → s.cart.st = .ready →
            (s.wrv.windowOpen = true ∨ (s.hq.cmds.any fun d => d.ring != 32 && d.st != .completing && decide (d.seq < q)) = true) →
          Runs (.formatPartitions q table certify) s fun t => t = setSt q .admitted s))
    ∧ (∀ table certify, due s q 0x09 = none → runningCmd s q 0x09 = some c → s.cart.dirTodo = [] → s.wrv.windowOpen = false →
        Runs (.formatPartitions q table certify) s fun t => Ended t q Status.ok 0 ∧ t.cart.clean = (!s.cart.dirFailed) ∧ t.cart.cbSeq = s.cart.cbSeq + 1)
    ∧ (∀ found, due s q 0x04 = some c →
        let place := locatePlace s c.e.partition c.e.position (bit c.e.flags 0)
        let rev := reverseWrap place.1
        let pos := if rev then (place.2 + 100) * 256 else (place.2 - 100) * 256
        (s.cart.st = .ready → partPresent s c.e.partition = true → (bit c.e.flags 0 = true ∨ c.e.position ≤ (partAt s c.e.partition).acceptedEnd) → hasSlots .bridle 14 2 s = true →
          Runs (.locate q found) s fun t => findCmd t q = some { c with st := .running }
            ∧ t.boxes = { s.boxes with bridle := s.boxes.bridle ++ [⟨s.srv.clock, 14, 0x0005, place.1⟩,
                ⟨s.srv.clock, 14, 0x0003, pos % 2 ^ 40 + b2n rev * 2 ^ 40 + min (Cfgw.vMax s) s.brd.ceiling % 1024 * 2 ^ 41⟩] })
        ∧ (s.cart.st = .ready → partPresent s c.e.partition = true → bit c.e.flags 0 = false → (partAt s c.e.partition).acceptedEnd < c.e.position →
          Runs (.locate q found) s fun t => Ended t q Status.invalidField 0)
        ∧ (s.cart.st ≠ .ready → Runs (.locate q found) s fun t => Ended t q Status.notReady 0))
    ∧ (∀ at_, due s q 0x04 = none → runningCmd s q 0x04 = some c → s.brd.motion = .running → s.brd.repos = none → s.srv.valid = true → s.wrv.windowOpen = false →
        Runs (.locate q (some at_)) s fun t => Ended t q Status.ok (at_.clock % 2 ^ 40 + at_.wrap % 256 * 2 ^ 40)
          ∧ (partAt t c.e.partition).current = if bit c.e.flags 0 then (partAt s c.e.partition).acceptedEnd else c.e.position)

/-- WRITE_LANDING, READ_LANDING, DISCARD_LANDING and LAY_LANDING run on their blocks. A due command whose block range is bad
ends INVALID_FIELD. WRITE_LANDING under a loaded slot whose derived key is bound runs, holding the generation it is
encrypted under; under an empty slot it ends KEY_SLOT_EMPTY. READ_LANDING always ends; of one block it gives the
decrypted bytes, zeros for an unmapped block, or the status of the block that cannot be read, with host memory
untouched. DISCARD_LANDING ends OK: the range's logical units are unmapped and its lost blocks forgotten. A LAY_LANDING
that passes its checks while the ingress Stable has no free Stall moves the accepted end like a write and waits; a
running one with a single packet to fill decrypts it into a Stall and makes it ready. (R57, R74, R131, R138, R321, R322,
R470) -/
def Obligations.LandingBlocksAreStoredReadAndDiscarded : Prop :=
  ∀ (s : State) (q : Nat) (c : Cmd),
    (∀ sgl blocks, due s q 0x0B = some c →
      let d := { c with gen := genOf s c.e }
      (landingFieldsBad s c.e = true → Runs (.writeLanding q sgl blocks) s fun t => Ended t q Status.invalidField 0 ∧ t.shd = s.shd)
      ∧ (landingFieldsBad s c.e = false → sglOk c.e sgl (c.e.count * 65536) = true →
          ((slotAt s c.e.keySlot).loaded = false → Runs (.writeLanding q sgl blocks) s fun t => Ended t q Status.keySlotEmpty 0 ∧ t.shd = s.shd)
          ∧ ((slotAt s c.e.keySlot).loaded = true → ∀ root ctr key u, boundRoot s c.e.keySlot d.gen q = some root →
              bindKey c.e.keySlot d.gen root (landingLabel d.gen c.e.hostLabel) q c.e.count (updCmd q (fun _ => d) s) = .bound ctr key u →
              Runs (.writeLanding q sgl blocks) s fun t => findCmd t q = some { d with st := .running } ∧ t.cip = u.cip)))
    ∧ (∀ sgl, due s q 0x0C = some c →
      (landingFieldsBad s c.e = true → Runs (.readLanding q sgl) s fun t => Ended t q Status.invalidField 0 ∧ t.hostMem = s.hostMem)
      ∧ (landingFieldsBad s c.e = false → sglOk c.e sgl (c.e.count * 65536) = true →
          (Runs (.readLanding q sgl) s fun t => ∃ st, Ended t q st 0)
          ∧ (c.e.count = 1 → landingBlock q c.e.position s = .unmapped → Runs (.readLanding q sgl) s fun t =>
              Ended t q Status.ok 0 ∧ t.hostMem = (sglWrite (sglOf c.e sgl) 0 (zeros 65536) s).hostMem)
          ∧ (c.e.count = 1 → ∀ b u, landingBlock q c.e.position s = .plain b u → Runs (.readLanding q sgl) s fun t =>
              Ended t q Status.ok 0 ∧ t.hostMem = (sglWrite (sglOf c.e sgl) 0 b s).hostMem)
          ∧ (∀ st u, landingBlock q c.e.position s = .fails st u → Runs (.readLanding q sgl) s fun t =>
              Ended t q st 0 ∧ t.hostMem = s.hostMem)))
    ∧ (due s q 0x0D = some c →
      (landingFieldsBad s c.e = true → Runs (.discardLanding q) s fun t => Ended t q Status.invalidField 0 ∧ t.shd = s.shd)
      ∧ (landingFieldsBad s c.e = false → AMap.wf s.shd.map = true → Runs (.discardLanding q) s fun t => Ended t q Status.ok 0
          ∧ (∀ n, c.e.position ≤ n → n < c.e.position + c.e.count → mapOf t (landingUnit n) = none)
          ∧ (∀ x ∈ t.shd.lostLanding, x.1 < c.e.position ∨ c.e.position + c.e.count ≤ x.1)
          ∧ (∀ n, ¬(landingUnit c.e.position ≤ n ∧ n < landingUnit c.e.position + c.e.count) → mapOf t n = mapOf s n)))
    ∧ (due s q 0x0E = some c →
      let first := bits c.e.auxAddr 47 0
      let ls := List.replicate (min c.e.count 4097) (c.e.length, 0)
      let packets := (cutRecords (ls.map Prod.fst)).1.length
      let bad := decide (Cfgw.landingBlocks s < first + c.e.count * blocksPer c.e.length)
      (∀ st, writeFieldCheck c.e ls 4096 (c.e.count * c.e.length) bad = some st → c.ring ≠ 32 → Runs (.layLanding q) s fun t => Ended t q st 0 ∧ t.parts = s.parts)
      ∧ (writeFieldCheck c.e ls 4096 (c.e.count * c.e.length) bad = none → c.ring ≠ 32 →
          admissionCheck s c.e false (writeMeasure (c.e.count * c.e.length) packets ls) packets = none →
          findWrite s q = none → (acquireOne 0x30 0 (admitWrite c (fun t => newWrite c .landing t ls [] (genOf s c.e)) s)).1 = none → c.e.position = (partAt s c.e.partition).acceptedEnd →
          Runs (.layLanding q) s fun t =>
            partAt t c.e.partition = { partAt s c.e.partition with acceptedEnd := c.e.position + c.e.count }
            ∧ (∃ d, findCmd t q = some d ∧ (d.st = .running ∨ d.st = .admitted) ∧ d.e = c.e)
            ∧ ∃ w, findWrite t q = some w ∧ w.part = c.e.partition ∧ w.first = c.e.position ∧ w.kind = .landing ∧ w.pkts.length = packets))
    ∧ (∀ w k b u h v, runningCmd s q 0x0E = some c → c.ring ≠ 32 → findWrite s q = some w → w.pkts = [k] → k.st = .dma →
        acquireOne 0x30 0 s = (some h, v) → layPacket w (bits c.e.auxAddr 47 0) 0 k v = .ok (b, u) →
        Runs (.layLanding q) s fun t =>
          findWrite t q = some { w with pkts := [{ k with st := .ready, data := fit b k.hostLen, ingress := some h }] } ∧ t.stk = v.stk)

/-- KEY_INJECT, KEY_ERASE, KEY_QUERY, GET_TRANSPORT_KEY and the events that end an erase and a retiring generation. A due
KEY_INJECT waits while a data command is fetched and unchecked; then it ends INVALID_FIELD, BUSY_RETRY with 1,000 µs, or
AUTH_FAIL, in R126's order, with no key changed, or loads the slot with the unwrapped key under the new generation, the
old one retiring if the slot was LOADED, and appends the slot's NOR record. A due KEY_ERASE of an EMPTY slot changes no
key and ends OK; of a LOADED one it leaves the slot without keys but with its generation, appends a tombstone, and no
cache entry of the slot remains. Its NOR erase removes the slot's records and ends the KEY_ERASE. A retiring generation
ends when no earlier command may use it. KEY_QUERY answers generation and state; GET_TRANSPORT_KEY writes 193 bytes or
ends LENGTH_LIMIT. (R124, R126, R132, R133, R469) -/
def Obligations.RootKeysAreInjectedErasedAndQueried : Prop :=
  ∀ (s : State) (q : Nat) (c : Cmd),
    (∀ sgl block, due s q 0x90 = some c →
      let x := slotAt s c.e.keySlot
      let bad := c.e.length ≠ 144 ∨ sglOk c.e sgl 144 = false ∨ block.length ≠ 144 ∨ c.e.param = 0 ∨ (x.loaded = true ∧ x.gen = c.e.param)
        ∨ onCurve (block.take 97) = false
      let unwrapped := keyUnwrap (injectKek (ecdh (Config.transportSeed (secretOf s)) (block.take 97)) c.e.keySlot c.e.param (block.take 97)) (slice block 100 40)
      (earlierChecked s = false → Runs (.keyInject q sgl block) s fun t => t = s)
      ∧ (earlierChecked s = true →
          (bad → Runs (.keyInject q sgl block) s fun t => Ended t q Status.invalidField 0 ∧ t.cip = s.cip)
          ∧ (¬bad → x.retiring.isSome = true → Runs (.keyInject q sgl block) s fun t => Ended t q Status.busyRetry 1000 ∧ t.cip = s.cip)
          ∧ (¬bad → x.retiring = none → unwrapped = none → Runs (.keyInject q sgl block) s fun t => Ended t q Status.authFail 0 ∧ t.cip = s.cip)
          ∧ (∀ key, ¬bad → x.retiring = none → unwrapped = some key → Runs (.keyInject q sgl block) s fun t =>
              Ended t q Status.ok 0
              ∧ slotAt t c.e.keySlot = { x with loaded := true, gen := c.e.param, key := key, retired := [], exhausted := false,
                                                retiring := if x.loaded then some (x.gen, x.key, s.hq.acceptSeq) else none }
              ∧ (∀ n, n ≠ c.e.keySlot → slotAt t n = slotAt s n)
              ∧ t.cip.keyArea = s.cip.keyArea ++ [.slot c.e.keySlot c.e.param (keyWrap (Config.storageKey (secretOf s)) key)])))
    ∧ (due s q 0x91 = some c → earlierChecked s = true →
      ((slotAt s c.e.keySlot).loaded = false → Runs (.keyErase q) s fun t => Ended t q Status.ok 0 ∧ t.cip = s.cip)
      ∧ ((slotAt s c.e.keySlot).loaded = true → Runs (.keyErase q) s fun t =>
          (slotAt t c.e.keySlot).loaded = false ∧ (slotAt t c.e.keySlot).gen = (slotAt s c.e.keySlot).gen
          ∧ (slotAt t c.e.keySlot).key = [] ∧ (slotAt t c.e.keySlot).retiring = none ∧ (slotAt t c.e.keySlot).erasing = some q
          ∧ (∀ n, n ≠ c.e.keySlot → slotAt t n = slotAt s n)
          ∧ (∀ e ∈ t.cip.cache, e.slot ≠ c.e.keySlot)
          ∧ t.cip.keyArea = s.cip.keyArea ++ [.tombstone c.e.keySlot (slotAt s c.e.keySlot).gen]))
    ∧ (∀ k, (slotAt s k).erasing = some q → runningCmd s q 0x91 = some c → Runs (.keyEraseNorDone k) s fun t =>
        Ended t q Status.ok 0 ∧ slotAt t k = { slotAt s k with erasing := none } ∧ (∀ n, n ≠ k → slotAt t n = slotAt s n)
        ∧ ∀ g w, KeyRec.slot k g w ∉ t.cip.keyArea ∧ KeyRec.retiredKey k g w ∉ t.cip.keyArea)
    ∧ (∀ k g key sw, (slotAt s k).retiring = some (g, key, sw) →
        (retiringUsed s k g sw = true → Runs (.retiringGenerationEnd k) s fun t => t = s)
        ∧ (retiringUsed s k g sw = false → Runs (.retiringGenerationEnd k) s fun t =>
            slotAt t k = { slotAt s k with retiring := none } ∧ (∀ n, n ≠ k → slotAt t n = slotAt s n)
            ∧ ∀ e ∈ t.cip.cache, e.slot = k → e.gen = g → e.pins ≠ []))
    ∧ (due s q 0x92 = some c → Runs (.keyQuery q) s fun t =>
        let x := slotAt s c.e.keySlot
        Ended t q Status.ok (x.gen + b2n x.loaded * 2 ^ 32 + b2n x.retiring.isSome * 2 ^ 33 + b2n x.exhausted * 2 ^ 34) ∧ t.cip = s.cip)
    ∧ (∀ sgl, due s q 0x93 = some c →
        (c.e.length < 193 → Runs (.getTransportKey q sgl) s fun t => Ended t q Status.lengthLimit 0 ∧ t.hostMem = s.hostMem)
        ∧ (193 ≤ c.e.length → sglOk c.e sgl c.e.length = false → Runs (.getTransportKey q sgl) s fun t => Ended t q Status.invalidField 0 ∧ t.hostMem = s.hostMem)
        ∧ (193 ≤ c.e.length → sglOk c.e sgl c.e.length = true → Runs (.getTransportKey q sgl) s fun t =>
            Ended t q Status.ok 193 ∧ ∃ bs : Bytes, bs.length = 193 ∧ t.hostMem = (sglWrite (sglOf c.e sgl) 0 bs s).hostMem))

/-- CFG_STAGE, CFG_CHECK, CFG_COMMIT, CFG_DISCARD, SET_FEATURE and the commit point. While the open set belongs to the other
port, CFG_STAGE, CFG_CHECK, CFG_COMMIT and CFG_DISCARD end BUSY_RETRY with 1,000 µs and change no configuration.
Otherwise CFG_STAGE puts its records in the open set, each in the place of an earlier one of its identifier, and answers
how many it then holds; CFG_CHECK answers the check; CFG_DISCARD empties. CFG_COMMIT of no set ends OK; a set that fails
its check ends with that status and stays open; on a device that is not writing and has nothing scheduled it takes
effect at once; on a writing one it is scheduled at its commit point, or ends BUSY_RETRY when sixteen are. SET_FEATURE
sets coalescing, the early-warning reserve or, like a commit, the exposure limit. A COMMIT entry that fires while
writing makes its set take effect and ends its command with the Tape Clock value. (R53, R74, R278, R411, R412, R415,
R416) -/
def Obligations.ConfigurationSetsAreStagedCheckedAndCommitted : Prop :=
  ∀ (s : State) (q : Nat) (c : Cmd),
    (foreignSet s c = true →
        (∀ sgl data, due s q 0x80 = some c → Runs (.cfgStage q sgl data) s fun t => Ended t q Status.busyRetry 1000 ∧ t.cfg = s.cfg)
        ∧ (due s q 0x81 = some c → Runs (.cfgCheck q) s fun t => Ended t q Status.busyRetry 1000 ∧ t.cfg = s.cfg)
        ∧ (due s q 0x82 = some c → Runs (.cfgCommit q) s fun t => Ended t q Status.busyRetry 1000 ∧ t.cfg = s.cfg)
        ∧ (due s q 0x83 = some c → Runs (.cfgDiscard q) s fun t => Ended t q Status.busyRetry 1000 ∧ t.cfg = s.cfg))
    ∧ (foreignSet s c = false →
        (∀ sgl data, due s q 0x80 = some c → sglOk c.e sgl c.e.length = true → data.length = c.e.length →
          (readRecords data = none → Runs (.cfgStage q sgl data) s fun t => Ended t q Status.invalidField 0 ∧ t.cfg = s.cfg)
          ∧ (∀ rs, readRecords data = some rs → Runs (.cfgStage q sgl data) s fun t =>
              let all := (rs.filter fun r => !ignored r).foldl (fun l r => putRec r l) (openRecs s)
              Ended t q Status.ok all.length ∧ t.cfg = { s.cfg with openSet := some (c.port, all) }))
        ∧ (due s q 0x81 = some c →
            (checkStaged (openRecs s) s = none → Runs (.cfgCheck q) s fun t => Ended t q Status.ok 0 ∧ t.cfg = s.cfg)
            ∧ (∀ f, checkStaged (openRecs s) s = some f → Runs (.cfgCheck q) s fun t =>
                Ended t q f.1 f.2 ∧ t.cfg.records = s.cfg.records ∧ t.cfg.openSet = s.cfg.openSet))
        ∧ (due s q 0x83 = some c → Runs (.cfgDiscard q) s fun t => Ended t q Status.ok 0 ∧ t.cfg = { s.cfg with openSet := none })
        ∧ (due s q 0x82 = some c →
            (s.cfg.openSet = none → Runs (.cfgCommit q) s fun t => Ended t q Status.ok 0 ∧ t.cfg = s.cfg)
            ∧ (∀ p rs, s.cfg.openSet = some (p, rs) →
                (∀ f, checkStaged rs s = some f → Runs (.cfgCommit q) s fun t =>
                    Ended t q f.1 f.2 ∧ t.cfg.records = s.cfg.records ∧ t.cfg.openSet = s.cfg.openSet)
                ∧ (checkStaged rs s = none → deviceWriting s = false → s.cfg.scheduled = [] → Runs (.cfgCommit q) s fun t =>
                    Ended t q Status.ok 0 ∧ t.cfg = { s.cfg with records := applyRecs s.cfg.records rs, openSet := none, commitClock := 0 })
                ∧ (checkStaged rs s = none → deviceWriting s = true →
                    (16 ≤ s.cfg.scheduled.length → Runs (.cfgCommit q) s fun t => Ended t q Status.busyRetry (fullHint s) ∧ t.cfg = s.cfg)
                    ∧ (∀ i u, s.cfg.scheduled.length < 16 → postSched Kind.commit 5 (commitPoint s).1 (commitPoint s).2 0 0 s = (some i, u) →
                        Runs (.cfgCommit q) s fun t => findCmd t q = some { c with st := .running } ∧ t.srv = u.srv
                          ∧ t.cfg = { s.cfg with openSet := none, scheduled := s.cfg.scheduled ++ [⟨rs, .plain, some q, some i⟩] })))))
    ∧ (due s q 0x11 = some c →
        (bits c.e.param 7 0 = 1 → Runs (.setFeature q) s fun t => Ended t q Status.ok 0
            ∧ ringAt t c.port (bits c.e.param 12 8) = { ringAt s c.port (bits c.e.param 12 8) with coalCount := bits c.e.length 15 0, coalTime := bits c.e.length 31 16 })
        ∧ (bits c.e.param 7 0 = 2 → 16 ≤ c.e.length → c.e.length ≤ 65535 → Runs (.setFeature q) s fun t => Ended t q Status.ok 0
            ∧ partAt t c.e.partition = { partAt s c.e.partition with ewReserve := c.e.length })
        ∧ (bits c.e.param 7 0 = 2 → c.e.length < 16 ∨ 65535 < c.e.length → Runs (.setFeature q) s fun t => Ended t q Status.invalidField 0 ∧ t.parts = s.parts)
        ∧ (bits c.e.param 7 0 = 3 → checkStaged [exposureRec c.e.length] s = none → deviceWriting s = false → s.cfg.scheduled = [] →
            Runs (.setFeature q) s fun t => Ended t q Status.ok 0
              ∧ t.cfg = { s.cfg with records := applyRecs s.cfg.records [exposureRec c.e.length], commitClock := 0 })
        ∧ (3 < bits c.e.param 7 0 ∨ bits c.e.param 7 0 = 0 → Runs (.setFeature q) s fun t => Ended t q Status.invalidField 0 ∧ t.cfg = s.cfg))
    ∧ (∀ i e rs, findCmd s q = some c → s.cfg.scheduled = [⟨rs, .plain, some q, some i⟩] → deviceWriting s = true → firesNow s i = some e → e.kind = Kind.commit →
        Runs (.commit i) s fun t => Ended t q Status.ok e.pos ∧ t.cfg = { s.cfg with records := applyRecs s.cfg.records rs, scheduled := [], commitClock := e.pos })

/-- IMAGE_WRITE, IMAGE_QUERY, FUSE_ADVANCE, FUSE_REVOKE, ATTEST, GET_IDENTITY and IDENTITY_SET_CERT. A due IMAGE_WRITE into
a slot that may be written, within the slot and with a good scatter list, writes exactly its bytes from the given offset
of the slot and answers their count; otherwise it ends INVALID_FIELD with the NOR unchanged. FUSE_ADVANCE and
FUSE_REVOKE blow their fuses when some slot stays valid (never the running signer's revocation) and otherwise end
INVALID_FIELD with the fuses unchanged. IMAGE_QUERY, ATTEST and GET_IDENTITY write their structures to the scatter list
and answer 2,048, 512 and the identity's length, or end LENGTH_LIMIT with host memory unchanged when the buffer is
short. IDENTITY_SET_CERT stores a blob of at most 4,096 bytes that holds the identity point, once. (R402, R408, R418,
R436, R437, R469) -/
def Obligations.ImagesFusesAndIdentityAreCommanded : Prop :=
  ∀ (s : State) (q : Nat) (c : Cmd),
    (∀ sgl data, due s q 0x84 = some c → Memory.wf (some 0xFF#8) s.norMem = true →
      let k := bits c.e.param 0 0
      let bad := (k = s.cfg.bootSlot ∧ s.cfg.st ≠ .hold ∧ s.cfg.st ≠ .faulted) ∨ 16777216 < c.e.length ∨ 0x1800000 < c.e.position + c.e.length
        ∨ sglOk c.e sgl c.e.length = false ∨ data.length ≠ c.e.length
      (bad → Runs (.imageWrite q sgl data) s fun t => Ended t q Status.invalidField 0 ∧ t.norMem = s.norMem)
      ∧ (¬bad → Runs (.imageWrite q sgl data) s fun t => Ended t q Status.ok data.length
          ∧ ∀ a, norByte t a = if slotBase k + c.e.position ≤ a ∧ a < slotBase k + c.e.position + data.length
              then data.getD (a - (slotBase k + c.e.position)) 0xFF#8 else norByte s a))
    ∧ (∀ sgl, due s q 0x85 = some c →
      (c.e.length < 2048 → Runs (.imageQuery q sgl) s fun t => Ended t q Status.lengthLimit 0 ∧ t.hostMem = s.hostMem)
      ∧ (2048 ≤ c.e.length → sglOk c.e sgl c.e.length = true → Runs (.imageQuery q sgl) s fun t =>
          Ended t q Status.ok 2048 ∧ t.hostMem = (sglWrite (sglOf c.e sgl) 0 (headerAt s 0 ++ headerAt s 1) s).hostMem))
    ∧ (due s q 0x86 = some c →
      let f := fusesOf s
      let n := max (fusedSvn f) (min s.cfg.imageSvn 64)
      let g := sealFuses { f with thermometer := raiseTo n f.thermometer }
      (leavesSlot g s = true → Runs (.fuseAdvance q) s fun t => Ended t q Status.ok n ∧ t.cfg = { s.cfg with fuses := some g })
      ∧ (leavesSlot g s = false → Runs (.fuseAdvance q) s fun t => Ended t q Status.invalidField 0 ∧ t.cfg = s.cfg))
    ∧ (due s q 0x87 = some c →
      let i := bits c.e.param 1 0
      let g := sealFuses { fusesOf s with revoked := setBits (fusesOf s).revoked i i 1 }
      (i ≠ s.cfg.signer → leavesSlot g s = true → Runs (.fuseRevoke q) s fun t => Ended t q Status.ok 0 ∧ t.cfg = { s.cfg with fuses := some g })
      ∧ (i = s.cfg.signer ∨ leavesSlot g s = false → Runs (.fuseRevoke q) s fun t => Ended t q Status.invalidField 0 ∧ t.cfg = s.cfg))
    ∧ (∀ sgl ch us, due s q 0x98 = some c →
      (c.e.length < 512 → Runs (.attest q sgl ch us) s fun t => Ended t q Status.lengthLimit 0 ∧ t.hostMem = s.hostMem)
      ∧ (512 ≤ c.e.length → sglOk c.e sgl c.e.length = true → Runs (.attest q sgl ch us) s fun t =>
          Ended t q Status.ok 512 ∧ t.hostMem = (sglWrite (sglOf c.e sgl) 0 (attestBytes ch us s) s).hostMem))
    ∧ (∀ sgl, due s q 0x99 = some c →
      let out := identityPoint s ++ s.cip.cert.getD []
      (c.e.length < out.length → Runs (.getIdentity q sgl) s fun t => Ended t q Status.lengthLimit 0 ∧ t.hostMem = s.hostMem)
      ∧ (out.length ≤ c.e.length → sglOk c.e sgl c.e.length = true → Runs (.getIdentity q sgl) s fun t =>
          Ended t q Status.ok out.length ∧ t.hostMem = (sglWrite (sglOf c.e sgl) 0 out s).hostMem))
    ∧ (∀ sgl data, due s q 0x9A = some c →
      (c.e.length ≤ 4096 → sglOk c.e sgl c.e.length = true → data.length = c.e.length → s.cip.cert = none → holdsBytes (identityPoint s) data = true →
        Runs (.identitySetCert q sgl data) s fun t => Ended t q Status.ok 0 ∧ t.cip = { s.cip with cert := some data })
      ∧ (4096 < c.e.length ∨ s.cip.cert.isSome = true ∨ holdsBytes (identityPoint s) data = false →
        Runs (.identitySetCert q sgl data) s fun t => Ended t q Status.invalidField 0 ∧ t.cip = s.cip))

/-- FW_ACTIVATE, the Night core's answer, the hold's expiry and the cross watchdog. A due FW_ACTIVATE of the running slot or
of no newer boot sequence ends INVALID_FIELD; during another BUSY_RETRY with 65,535 µs; of a slot that fails its
examination CONFIG_INVALID; of a set that fails its check that status; else it runs and the Night core starts. A Night
core that does not come up ends it NOT_READY. One that comes up while nothing is written or scheduled swaps the roles at
once: the slot's image runs, its records are in force and the command ends OK with the image's version; while the device
writes, the swap is scheduled. A management command held ends BUSY_RETRY. A missed Night heartbeat clears its readiness;
a missed Day heartbeat swaps the roles, at once or at the commit point; both missed start core 0 as Day. (R74, R421,
R422, R428, R429, R430) -/
def Obligations.ActivationsAndTakeoversSwapTheCores : Prop :=
  ∀ (s : State) (q : Nat) (c : Cmd),
    (due s q 0x88 = some c →
      let k := bits c.e.param 0 0
      let newer := k ≠ s.cfg.bootSlot ∧ s.cfg.bootSeq < bootSeqOf (headerAt s k)
      let recs := (slotRecords s k).getD []
      (¬newer → Runs (.fwActivate q) s fun t => Ended t q Status.invalidField 0 ∧ t.mgt = s.mgt)
      ∧ (newer → s.mgt.activation.isSome = true → Runs (.fwActivate q) s fun t => Ended t q Status.busyRetry 65535 ∧ t.mgt = s.mgt)
      ∧ (newer → s.mgt.activation = none → examine (fusesOf s) s k ≠ 1 → Runs (.fwActivate q) s fun t => Ended t q Status.configInvalid 0 ∧ t.mgt = s.mgt)
      ∧ (newer → s.mgt.activation = none → examine (fusesOf s) s k = 1 → (slotRecords s k).isSome = true →
          (∀ f, checkSet (.activation s.cfg.records (stableAt s 1).size) (baseRecs s) recs = some f → Runs (.fwActivate q) s fun t => Ended t q f.1 f.2 ∧ t.mgt = s.mgt)
          ∧ (checkSet (.activation s.cfg.records (stableAt s 1).size) (baseRecs s) recs = none → Runs (.fwActivate q) s fun t =>
              findCmd t q = some { c with st := .running } ∧ t.mgt = { s.mgt with activation := some ⟨q, k, .nightStarting⟩, nightReady := false })))
    ∧ (∀ k, s.mgt.activation = some ⟨q, k, .nightStarting⟩ → findCmd s q = some c →
        (Runs (.activationNightReady false) s fun t => Ended t q Status.notReady 0 ∧ t.mgt = { s.mgt with activation := none, nightReady := false })
        ∧ (deviceWriting s = false → s.cfg.scheduled = [] → Runs (.activationNightReady true) s fun t =>
            t.mgt = { s.mgt with activation := none, dayCore := 1 - s.mgt.dayCore, nightReady := false, dayAge := 0, nightAge := 0 }
            ∧ t.cfg.bootSlot = k ∧ t.cfg.imageVersion = beAt (headerAt s k) 8 4 ∧ t.cfg.imageSvn = beAt (headerAt s k) 12 4
            ∧ t.cfg.records = applyRecs s.cfg.records (activationRecs s k) ∧ Ended t q Status.ok (beAt (headerAt s k) 8 4))
        ∧ (∀ i u, deviceWriting s = true → s.cfg.scheduled.length < 16 →
            (let r := { s with mgt := { s.mgt with activation := some ⟨q, k, .scheduled⟩, nightReady := true } }
             postSched Kind.commit 5 (commitPoint r).1 (commitPoint r).2 0 0 r = (some i, u)) →
            Runs (.activationNightReady true) s fun t => t.mgt = { s.mgt with activation := some ⟨q, k, .scheduled⟩, nightReady := true }
              ∧ t.cfg.scheduled = s.cfg.scheduled ++ [⟨activationRecs s k, .activation k, some q, some i⟩]))
    ∧ (findCmd s q = some c → c.ring = 32 → c.st = .fetched → c.e.opcode ≠ 0x0A → mgmtHeld s = true → Runs (.activationHoldExpiry q) s fun t =>
        Ended t q Status.busyRetry (match swapEntry s with | some e => clockHint s e.pos | none => 65535))
    ∧ (coresRun s = true → s.mgt.takeover = false → s.mgt.activation = none →
        (Runs .nightHeartbeatTimeout s fun t => t.mgt = { s.mgt with nightReady := false, nightAge := 0 })
        ∧ (deviceWriting s = false → s.cfg.scheduled = [] → Runs .dayHeartbeatTimeout s fun t =>
            t.mgt.dayCore = 1 - s.mgt.dayCore ∧ t.mgt.nightReady = false ∧ t.mgt.takeover = false ∧ t.cfg.scheduled = [])
        ∧ (∀ i u, deviceWriting s = true → s.cfg.scheduled = [] →
            (let r := { s with mgt := { s.mgt with takeover := true } }
             postSched Kind.commit 5 (commitPoint r).1 (commitPoint r).2 0 0 r = (some i, u)) →
            Runs .dayHeartbeatTimeout s fun t => t.mgt = { s.mgt with takeover := true } ∧ t.cfg.scheduled = [⟨[], .takeover, none, some i⟩]))
    ∧ (coresRun s = true → domOn s 4 = true → Runs .nightCoreReady s fun t => t.mgt = { s.mgt with nightReady := true, nightAge := 0 })
    ∧ (coresRun s = true → Runs .bothHeartbeatsTimeout s fun t =>
        t.mgt = { s.mgt with activation := none, dayCore := 0, nightReady := false, takeover := false, nightAge := 0, dayAge := 0 } ∧ t.wrv.fails = [])

/-- Samples, thermal thresholds, the ceiling, voltage faults and the event log. MGT_EVENT_CONSUME moves the mail that comes
first from MB_MGT into the event log under the next sequence. A thermal sample, the only one held, becomes the hottest
sensor, and each threshold is then marked crossed exactly when the mean has reached it and, once marked, until the mean
lies 5 °C below; other monitors keep value and, for a voltage, the run of samples beyond 6 %. THROTTLE_STEP lowers the
ceiling by 64 but not below 64, CEILING_RAISE raises it by 64 up to 512, where throttling ends, each posting it to
MB_BRIDLE; CRITICAL_HOLD_RELEASE clears the hold; each while the entry it posts has a slot. The tenth sample beyond 6 %
switches a switchable domain off and marks a monitored domain as off; of any other domain or rail it stops the writes of
every partition present and asks for an urgent stop. (R425, R426, R431, R432, R433, R434, R441) -/
def Obligations.MonitorsHoldTheMachineWithinLimits : Prop :=
  ∀ (s : State),
    (∀ us m, coresRun s = true → dramTrained s = true → boxHead s.boxes.mgt = some m → s.mgt.logSeq < 1048576 → Runs (.mgtEventConsume us) s fun t =>
        AMap.get? t.mgt.log s.mgt.logSeq = some ⟨us, m⟩ ∧ t.mgt.logSeq = s.mgt.logSeq + 1 ∧ t.boxes.mgt = dropFirst (· == m) s.boxes.mgt)
    ∧ (∀ x : MonSample, x.monitor < 24 → s.mgt.monitors = [] → Runs (.monitorSample [x]) s fun t =>
        t.mgt.hotSensor = x.monitor ∧ t.mgt.hotTemp = x.mean ∧ (monAt t x.monitor).value = x.mean
        ∧ ∀ i, i < 3 → bit t.mgt.hotBand i = (decide (threshold s i ≤ x.mean) || (bit s.mgt.hotBand i && decide (threshold s i - 5 < x.mean))))
    ∧ (∀ x : MonSample, 24 ≤ x.monitor → x.monitor < 58 → s.mgt.monitors = [] → monJudged s x.monitor = true → Runs (.monitorSample [x]) s fun t =>
        t.mgt.monitors = [(x.monitor, { value := x.mean, band := b2n (beyondBy x.monitor 35 x.mean), beyond := b2n (beyondBy x.monitor 60 x.sample) })])
    ∧ (∀ x : MonSample, 58 ≤ x.monitor → x.monitor < 74 → s.mgt.monitors = [] → Runs (.monitorSample [x]) s fun t =>
        t.mgt.monitors = [(x.monitor, { value := x.mean })])
    ∧ (s.mgt.throttled = true → threshold s 1 ≤ s.mgt.hotTemp → hasSlots .bridle Src.aon 1 s = true → Runs .throttleStep s fun t =>
        t.mgt = { s.mgt with ceiling := max 64 (s.mgt.ceiling - 64) }
        ∧ t.boxes = { s.boxes with bridle := s.boxes.bridle ++ [⟨s.srv.clock, Src.aon, 0x0008, max 64 (s.mgt.ceiling - 64)⟩] })
    ∧ (s.mgt.criticalHold = true → cooled s = true → hasSlots .wrv Src.mgtDay 1 s = true → Runs .criticalHoldRelease s fun t => t.mgt = { s.mgt with criticalHold := false, postBusy := false })
    ∧ (s.mgt.criticalHold = false → s.mgt.throttled = true → cooled s = true → hasSlots .bridle Src.aon 1 s = true → Runs .ceilingRaise s fun t =>
        t.mgt = { s.mgt with ceiling := min 512 (s.mgt.ceiling + 64), throttled := decide (min 512 (s.mgt.ceiling + 64) < 512) }
        ∧ t.boxes = { s.boxes with bridle := s.boxes.bridle ++ [⟨s.srv.clock, Src.aon, 0x0008, min 512 (s.mgt.ceiling + 64)⟩] })
    ∧ (∀ m, 24 ≤ m → m < 58 → 10 ≤ (monAt s m).beyond → (monAt s m).band ≠ 2 → monJudged s m = true →
        (m ≤ 53 → switchable.contains (m - 23) = true → Runs (.voltageFault m) s fun t =>
            domOn t (m - 23) = false ∧ t.mgt.monOff = true ∧ (monAt t m).band = 2)
        ∧ ((53 < m ∨ switchable.contains (m - 23) = false) → hasSlots .bridle Src.aon 1 s = true → Runs (.voltageFault m) s fun t =>
            t.mgt.domains = s.mgt.domains ∧ (monAt t m).band = 2
            ∧ t.boxes.bridle = s.boxes.bridle ++ [⟨s.srv.clock, Src.aon, 0x8001, 1⟩]
            ∧ ∀ p, p < 4 → partPresent s p = true → (partAt t p).writeStopped = true))

/-- CHANNEL_RETIRE, the Day core's retirement, SHED_DROP_PENDING, buffer memory errors and the patrol scrub. A due
CHANNEL_RETIRE of a channel that carries no logical channel ends INVALID_FIELD; without an unused spare it does too,
no-spare is noted and the partitions present become write-stopped; else, nothing written or scheduled, the logical
channel moves to the lowest unused spare at once and the command ends OK; the Day core retires a channel with too many
failures the same way. SHED_DROP_PENDING ends OK, or INVALID_FIELD unless its buffer is 20 bytes. A correctable buffer
error is counted for its Stall and its channel, the sixteenth marks the Stall for quarantine unless the packet Stable is
at its minimum; an uncorrectable one marks it at once and is counted (as stated, where no Taken packet lies in the
Stall); a scrub pass begins the counts anew. (R336, R438, R439, R440, R467, R468) -/
def Obligations.ChannelsAreRetiredAndBufferErrorsQuarantined : Prop :=
  ∀ (s : State) (q : Nat) (c : Cmd),
    (due s q 0xA8 = some c →
      let p := bits c.e.param 7 0
      (logicalOn (baseRecs s) p = none → Runs (.channelRetire q) s fun t => Ended t q Status.invalidField 0 ∧ t.cfg = s.cfg ∧ t.mgt = s.mgt)
      ∧ (∀ l, logicalOn (baseRecs s) p = some l →
          (unusedSpare s = none → Runs (.channelRetire q) s fun t => Ended t q Status.invalidField 0 ∧ t.mgt = { s.mgt with noSpare := true }
            ∧ ∀ o, o < 4 → partPresent s o = true → (partAt t o).writeStopped = true)
          ∧ (∀ n, unusedSpare s = some n → checkStaged (retireRecs l n) s = none → deviceWriting s = false → s.cfg.scheduled = [] →
              Runs (.channelRetire q) s fun t => Ended t q Status.ok 0 ∧ t.cfg.records = applyRecs s.cfg.records (retireRecs l n)
                ∧ t.cfg.serviceArea = applyRecs s.cfg.serviceArea (retireRecs l n))))
    ∧ (∀ p l, coresRun s = true → s.mgt.retireFailures < failsOf s p → logicalOn (baseRecs s) p = some l →
        (unusedSpare s = none → Runs (.channelRetireAuto p) s fun t => t.mgt = { s.mgt with noSpare := true }
            ∧ ∀ o, o < 4 → partPresent s o = true → (partAt t o).writeStopped = true)
        ∧ (∀ n, unusedSpare s = some n → deviceWriting s = false → s.cfg.scheduled = [] → Runs (.channelRetireAuto p) s fun t =>
            t.cfg.records = applyRecs s.cfg.records (retireRecs l n) ∧ t.cfg.serviceArea = applyRecs s.cfg.serviceArea (retireRecs l n)))
    ∧ (∀ sgl data, due s q 0xA0 = some c →
        (c.e.length = 20 → sglOk c.e sgl 20 = true → data.length = 20 → Runs (.shedDropPending q sgl data) s fun t => ∃ n, Ended t q Status.ok n)
        ∧ (c.e.length ≠ 20 → Runs (.shedDropPending q sgl data) s fun t => Ended t q Status.invalidField 0 ∧ t.shd = s.shd))
    ∧ (∀ n ch dev, Runs (.bufferEccError n ch dev false) s fun t =>
        AMap.getD t.stk.corrected n 0 = AMap.getD s.stk.corrected n 0 + 1
        ∧ ctr t (0x028108 + 0x100 * (ch % 4)) = satAdd (ctr s (0x028108 + 0x100 * (ch % 4))) 1
        ∧ (AMap.getD s.stk.corrected n 0 + 1 < 16 → t.stk.quarantine = s.stk.quarantine)
        ∧ (16 ≤ AMap.getD s.stk.corrected n 0 + 1 → allocatable s n = true → (stableOf s n ≠ 1 ∨ packetMinimum (Cfgw.exposureMiB s) < (stableAt s 1).size) →
            mem? t.stk.quarantine n = true))
    ∧ (∀ n ch dev, Runs (.bufferEccError n ch dev true) s fun t =>
        ((s.hq.writes.any fun w => w.taken && w.chain.any fun c => c.1 == n) = false → ctr t (0x02810C + 0x100 * (ch % 4)) = satAdd (ctr s (0x02810C + 0x100 * (ch % 4))) 1)
        ∧ (allocatable s n = true → (stableOf s n ≠ 1 ∨ packetMinimum (Cfgw.exposureMiB s) < (stableAt s 1).size) → mem? t.stk.quarantine n = true))
    ∧ (s.stk.scrubActive = true → Runs .patrolScrub s fun t => t.stk = { s.stk with corrected := [] } ∧ ctr t 0x028004 = satAdd (ctr s 0x028004) 1)

/-- The I3C target, telemetry, the periodic pins and the trace. With a telemetry period the report is 64 bytes, ends in the
CRC-32 of its first 60, and raises an interrupt exactly when interrupts are enabled and the target has an address;
without a period nothing happens. ENTDAA and SETDASA give an address to a target without one and change none; RSTDAA
takes it. ENEC and DISEC with bit 0 enable and disable interrupts (the model's choice of bit, log entry 67). Each
directed read answers its bytes with an address and is not acknowledged without; a private read answers the latest
report; a private write is not acknowledged. GPIO code 9 toggles with the Day core's heartbeat, code 8 while a command
runs; TRACE_FLUSH sends the trace once. (R410, R435, R462) -/
def Obligations.TheManagementBusAnswers : Prop :=
  ∀ (s : State),
    (Cfgw.telemetry s = 0 → ∀ n, Runs (.telemetryReport n) s fun t => t = s)
    ∧ (Cfgw.telemetry s ≠ 0 → ∀ n, Runs (.telemetryReport n) s fun t => t.mgt.report.length = 64
        ∧ t.mgt.report.drop 60 = le 4 (crc32 (t.mgt.report.take 60)) ∧ (t.mgt.report.drop 28).take 4 = le 4 n
        ∧ t.mgt.ibi = (s.mgt.ibiOn && s.mgt.i3cAddr.isSome))
    ∧ (∀ c ∈ [Instr.entdaa, Instr.setdasa], ∀ a,
        (s.mgt.i3cAddr = none → Runs (c a) s fun t => t.mgt = { s.mgt with i3cAddr := some (a % 128) })
        ∧ (s.mgt.i3cAddr.isSome = true → Runs (c a) s fun t => t = s))
    ∧ (Runs .rstdaa s fun t => t.mgt = { s.mgt with i3cAddr := none })
    ∧ (∀ e, (Runs (.enec e) s fun t => t.mgt = { s.mgt with ibiOn := s.mgt.ibiOn || bit e 0 })
        ∧ (Runs (.disec e) s fun t => t.mgt = { s.mgt with ibiOn := s.mgt.ibiOn && !bit e 0 }))
    ∧ (∀ x ∈ [(Instr.getpid, be 6 Config.i3cPid), (.getbcr, be 1 Config.i3cBcr), (.getdcr, be 1 Config.i3cDcr), (.getstatus, be 2 Config.i3cStatus),
              (.getmwl, be 2 Config.i3cMwl), (.getmrl, be 2 Config.i3cMrl)],
        (s.mgt.i3cAddr.isSome = true → Runs x.1 s fun t => t.mgt = { s.mgt with i3cAnswer := x.2, i3cNack := false })
        ∧ (s.mgt.i3cAddr = none → Runs x.1 s fun t => t.mgt = { s.mgt with i3cNack := true }))
    ∧ (s.mgt.report ≠ [] → s.mgt.i3cAddr.isSome = true → Runs .i3cPrivateRead s fun t => t.mgt = { s.mgt with i3cAnswer := s.mgt.report, i3cNack := false })
    ∧ (s.mgt.report = [] → s.mgt.i3cAddr.isSome = true → Runs .i3cPrivateRead s fun t => t.mgt.i3cAnswer.length = 64 ∧ t.mgt.i3cNack = false)
    ∧ (∀ d, Runs (.i3cPrivateWrite d) s fun t => t.mgt = { s.mgt with i3cNack := true })
    ∧ (∀ b, b < 8 → Cfgw.gpio s b = 9 → coresRun s = true → s.mgt.takeover = false → Runs (.gpioPeriodic b) s fun t =>
        AMap.getD t.mgt.gpio b false = !AMap.getD s.mgt.gpio b false)
    ∧ (∀ b, b < 8 → Cfgw.gpio s b = 8 → Runs (.gpioPeriodic b) s fun t =>
        AMap.getD t.mgt.gpio b false = ((!AMap.getD s.mgt.gpio b false) && s.hq.cmds.any fun c => c.st == .running))
    ∧ (bits (Cfgw.trace s) 1 0 ≠ 0 → bits (Cfgw.trace s) 31 16 ≠ 0 → domOn s 30 = true → Runs .traceFlush s fun t => t.mgt = { s.mgt with traceFlushed := s.mgt.traceFlushed + 1 })

/-- Stall requests, frees, transfers, links, pins, waits and the free caches. A lone valid request whose count its Stable
covers, with nobody waiting, is granted: the Stable's free count falls by it, and of one Stall it names the requester
holder under the next generation. Not covered, it takes a place in the FIFO and the pointer passes it. A free that
matches its Stall's holder and generation makes it FREE, first of its Stable's cache unless quarantined, or RELEASING
while pins cover it; one that does not is recorded and changes no Stall. A chain free of a last Stall is a free.
TRANSFER changes the owner, LINK the next Stall (one that is never chained is a bad free, the model's reading in log
entry 86), PIN counts a lock of the right generation, UNPIN takes one off, and the last one frees a RELEASING Stall. A
waiting request is granted once covered. Refill and write-back move 32 entries and keep the free count. (R79, R81, R82,
R83, R84, R87, R88, R438) -/
def Obligations.StallsAreGrantedFreedAndPinned : Prop :=
  ∀ (s : State),
    (∀ r : StallReq, s.stk.ready = true → knownReq r.req = true → mayAllocate r.req r.stable = true → outstandingReq s r.req = false → r.stable < 8 → 1 ≤ r.count → r.count ≤ 128 →
      (stableAt s r.stable).fifo = [] →
        (r.count ≤ freeCount (stableAt s r.stable) → Runs (.stallRequest [r]) s fun t =>
            freeCount (stableAt t r.stable) + r.count = freeCount (stableAt s r.stable)
            ∧ (r.count = 1 → ∃ n, stallAt t n = { next := 0, stable := r.stable, owner := r.req, gen := ((stallAt s n).gen + 1) % 256, st := .held, pins := 0 }
                ∧ ∀ m, m ≠ n → stallAt t m = stallAt s m))
        ∧ (freeCount (stableAt s r.stable) < r.count → Runs (.stallRequest [r]) s fun t =>
            (stableAt t r.stable).fifo = [(r.req, r.count)] ∧ (stableAt t r.stable).pointer = (r.req + 1) % 64 ∧ t.stk.stalls = s.stk.stalls))
    ∧ (∀ o : StallOp,
        (opFault s o true = none → (stallAt s o.stall).pins = 0 → ∀ c ∈ [Instr.stallFree [o], .stallChainFree o], ((stallAt s o.stall).next = 0 ∨ c = .stallFree [o]) → Runs c s fun t =>
            stallAt t o.stall = { stallAt s o.stall with st := .free, pins := 0 } ∧ (∀ n, n ≠ o.stall → stallAt t n = stallAt s n)
            ∧ (mem? s.stk.quarantine o.stall = false → (stableAt t (stallAt s o.stall).stable).cache.head? = some o.stall))
        ∧ (opFault s o true = none → (stallAt s o.stall).pins ≠ 0 → Runs (.stallFree [o]) s fun t => stallAt t o.stall = { stallAt s o.stall with st := .releasing })
        ∧ (opFault s o true = none →
            (∀ d, Runs (.stallTransfer o d) s fun t => stallAt t o.stall = { stallAt s o.stall with owner := d % 64 } ∧ ∀ n, n ≠ o.stall → stallAt t n = stallAt s n)
            ∧ (∀ m, m = 0 ∨ allocatable s m = true → Runs (.stallLink o m) s fun t => stallAt t o.stall = { stallAt s o.stall with next := m % 2 ^ 19 } ∧ ∀ n, n ≠ o.stall → stallAt t n = stallAt s n)
            ∧ (∀ m, m ≠ 0 → allocatable s m = false → Runs (.stallLink o m) s fun t =>
                t.stk = { s.stk with badKind := 4, badReq := o.req, badStall := min m 0x7FFFF } ∧ ctr t 0x020008 = satAdd (ctr s 0x020008) 1))
        ∧ (∀ k, opFault s o true = some k → ∀ c ∈ [Instr.stallFree [o], .stallChainFree o, .stallTransfer o 0, .stallLink o 0], Runs c s fun t =>
            t.stk = { s.stk with badKind := k, badReq := o.req, badStall := min o.stall 0x7FFFF } ∧ ctr t 0x020008 = satAdd (ctr s 0x020008) 1))
    ∧ (∀ n g, (stallAt s n).st ≠ .free → (stallAt s n).gen = g → Runs (.stallPin n g) s fun t => stallAt t n = { stallAt s n with pins := (stallAt s n).pins + 1 })
    ∧ (∀ n g, (stallAt s n).st = .free ∨ (stallAt s n).gen ≠ g → Runs (.stallPin n g) s fun t => t = s)
    ∧ (∀ n, 0 < (stallAt s n).pins →
        ((stallAt s n).st = .held → Runs (.stallUnpin n) s fun t => stallAt t n = { stallAt s n with pins := (stallAt s n).pins - 1 })
        ∧ ((stallAt s n).st = .releasing → (stallAt s n).pins = 1 → Runs (.stallUnpin n) s fun t => stallAt t n = { stallAt s n with st := .free, pins := 0 }))
    ∧ (∀ b req n rest, (stableAt s b).fifo = (req, n) :: rest → (stableAt s b).outside = [] → n ≤ freeCount (stableAt s b) → Runs (.stallWaitGrant b) s fun t =>
        (stableAt t b).fifo = rest ∧ freeCount (stableAt t b) + n = freeCount (stableAt s b))
    ∧ (∀ b, (stableAt s b).cache.length ≤ 16 → (stableAt s b).cache.length < freeCount (stableAt s b) → Runs (.freeCacheRefill b) s fun t =>
        freeCount (stableAt t b) = freeCount (stableAt s b)
        ∧ (stableAt t b).cache.length = (stableAt s b).cache.length + min 32 (freeCount (stableAt s b) - (stableAt s b).cache.length))
    ∧ (∀ b, 56 ≤ (stableAt s b).cache.length → Runs (.freeCacheWriteback b) s fun t =>
        freeCount (stableAt t b) = freeCount (stableAt s b) ∧ (stableAt t b).cache.length + 32 = (stableAt s b).cache.length)

/-- DATA_SET_ENCODED, LOFT_EARLY_CLOSE and the events of MB_FMT. While the assembly Stable grants 90 Stalls,
DATA_SET_ENCODED in an open Loft whose 30 data sets are encoded queues the parity image of the next number, from the P
accumulator at 30 and the Q accumulator at 31, after which the Loft is no longer open; in a Loft with a full user area
it queues that area as the image of the next number, which advances by one, and keeps the bytes beyond it; while the
Stable grants none, nothing is encoded. An early close without bytes in progress goes on with data set 30 of the Loft.
An MB_FMT event that is taken: asks an open Loft to close; continues with returned packets, their bytes appended; queues
a weak data set as copy 2; an unstriped unit as copy 1; a rebuilt unit; a sealed accumulator as a parity data set; or,
unknown, is counted. (R157, R174, R176, R177, R178, R197, R257, R318, R350, R358, R371) -/
def Obligations.DataSetsAreEncodedAndLoftsClosed : Prop :=
  ∀ (s : State),
    (∀ p hs v, p < 4 → loaded s = true → (partAt s p).wraps ≠ 0 → (partAt s p).writeStopped = false → acquire 0x0C 2 90 s = (some hs, v) →
      (partAt s p).nextPos + imagesOf s p < (partAt s p).positions → (partAt s p).loftOpen = true → AMap.get? (partAt s p).done (partAt s p).nextDs = none →
        ((partAt s p).nextDs % 32 = 30 → Runs (.dataSetEncoded p) s fun t =>
            (∃ img, t.wrv.images = s.wrv.images ++ [img] ∧ img.part = p ∧ img.ds = (partAt s p).nextDs ∧ img.kind = 2 ∧ img.user = fit (partAt s p).c3p userArea ∧ img.loftCount = (partAt s p).loftData ∧ img.stalls = hs)
            ∧ (partAt t p).nextDs = (partAt s p).nextDs + 1 ∧ (partAt t p).loftOpen = true)
        ∧ ((partAt s p).nextDs % 32 = 31 → (partAt s p).user = [] → Runs (.dataSetEncoded p) s fun t =>
            (∃ img, t.wrv.images = s.wrv.images ++ [img] ∧ img.part = p ∧ img.ds = (partAt s p).nextDs ∧ img.kind = 2 ∧ img.user = fit (partAt s p).c3q userArea)
            ∧ (partAt t p).nextDs = (partAt s p).nextDs + 1 ∧ (partAt t p).loftOpen = false)
        ∧ ((partAt s p).nextDs % 32 < 30 → userArea ≤ (partAt s p).user.length → (partAt s p).yardMember = false → Runs (.dataSetEncoded p) s fun t =>
            (∃ img, t.wrv.images = s.wrv.images ++ [img] ∧ img.part = p ∧ img.ds = (partAt s p).nextDs ∧ img.kind = 1 ∧ img.user = fit ((partAt s p).user.take userArea) userArea
              ∧ img.used = userArea ∧ img.padded = false)
            ∧ (partAt t p).nextDs = (partAt s p).nextDs + 1 ∧ (partAt t p).user = (partAt s p).user.drop userArea))
    ∧ (∀ p v, p < 4 → loaded s = true → (partAt s p).wraps ≠ 0 → (partAt s p).loftOpen = true → 30 ≤ (partAt s p).nextDs % 32 → acquire 0x0C 2 90 s = (none, v) →
        Runs (.dataSetEncoded p) s fun t => t.wrv = s.wrv ∧ t.parts = s.parts)
    ∧ (∀ p, p < 4 → earlyClose s p = true → (partAt s p).user = [] → Runs (.loftEarlyClose p) s fun t =>
        partAt t p = { partAt s p with nextDs := 32 * ((partAt s p).nextDs / 32) + 30 } ∧ t.wrv = s.wrv)
    ∧ (∀ src arg u, Takes .fmt src 0x0001 arg s u → Runs (.earlyCloseRequest src arg) s fun t =>
        partAt t (bits arg 1 0) = { partAt s (bits arg 1 0) with closeAsked := (partAt s (bits arg 1 0)).loftOpen } ∧ t.boxes = u.boxes)
    ∧ (∀ src arg u w i k, Takes .fmt src 0x0002 arg s u → loaded s = true → (partAt s (bits arg 33 32)).writeStopped = false → (partAt s (bits arg 33 32)).nextDs % 32 < 30 →
        (partAt s (bits arg 33 32)).loftOpen = true → (partAt s (bits arg 33 32)).user.length < userArea → fmtNext s (bits arg 33 32) = some (w, i) → atHand s w i = true →
        w.truncating = false → w.pkts[i]? = some k → Runs (.shedReturnReady src arg) s fun t =>
          ∃ more, (partAt t (bits arg 33 32)).user = (partAt s (bits arg 33 32)).user ++ k.stored ++ more)
    ∧ (∀ src arg u w, Takes .fmt src 0x0003 arg s u →
        (s.rch.weak.find? fun w => weakHere s w && w.part == bits arg 33 32 && w.ds == bits arg 31 0) = some w →
        ((partAt s (bits arg 33 32)).extra.any fun i => i.ds == bits arg 31 0 && i.copy == 2) = false → Runs (.reallocateWeak src arg) s fun t =>
          (partAt t (bits arg 33 32)).extra = (partAt s (bits arg 33 32)).extra
            ++ [imageAgain (bits arg 33 32) (bits arg 31 0) 2 w.stream ((dsitOf w.stream).getD {}).stripe ((dsitOf w.stream).getD {}).epoch])
    ∧ (∀ src arg u r, Takes .fmt src 0x0004 arg s u →
        (s.yrd.retains.find? fun r => r.ds == bits arg 58 27 && s.yrd.unstriped.contains (r.part, bits arg 58 27)) = some r → Runs (.rebuiltDsReady src arg) s fun t =>
          (partAt t r.part).extra = (partAt s r.part).extra ++ [{ rebuiltImage s r.part (bits arg 58 27) (rebuiltBase s r.part (bits arg 58 27) r.user) r.user with copy := 1 }]
          ∧ t.yrd.unstriped = s.yrd.unstriped.filter fun u => u != (r.part, bits arg 58 27))
    ∧ (∀ src arg u k user, Takes .fmt src 0x0004 arg s u →
        (s.yrd.retains.find? fun r => r.ds == bits arg 58 27 && s.yrd.unstriped.contains (r.part, bits arg 58 27)) = none →
        (s.yrd.rebuilt.find? fun b => b.1 % 2 ^ 32 == bits arg 58 27) = some (k, user) → Runs (.rebuiltDsReady src arg) s fun t =>
          (partAt t (k / 2 ^ 32)).extra = (partAt s (k / 2 ^ 32)).extra ++ [rebuiltImage s (k / 2 ^ 32) (bits arg 58 27) (rebuiltBase s (k / 2 ^ 32) (bits arg 58 27) user) user]
          ∧ t.yrd.rebuilt = AMap.erase s.yrd.rebuilt k)
    ∧ (∀ src arg u a, Takes .fmt src 0x0005 arg s u → (s.yrd.accums.find? fun a => a.stripe == bits arg 58 27 && a.isSealed && a.ds.isNone) = some a →
        Runs (.yardParityReady src arg) s fun t => ∃ img, (partAt t s.yrd.parityPart).extra = (partAt s s.yrd.parityPart).extra ++ [img]
          ∧ img.kind = 4 ∧ img.stripe = bits arg 58 27 ∧ img.role = a.role ∧ img.user = fit a.bytes userArea)
    ∧ (∀ src code arg u, fmtKnows code = false → Takes .fmt src code arg s u → Runs (.fmtUnknownEvent src code arg) s fun t =>
        ctr t 0x050134 = satAdd (ctr s 0x050134) 1 ∧ t.boxes = u.boxes)

/-- Write inhibit and its clearing, lane frames, and a controlled stop. An inhibit event that is taken sets its cause, and
each of the four lanes sends one GATE_OFF block with the active causes and the Tape Clock; it is counted, recorded, and
no gate is open. A cause-cleared event of the cause's own producer clears it, of another changes nothing; when it was
the last, writing waits for the next row slot boundary. An unknown code is counted. A lane frame of a window in progress
sends on each lane a FRAME block and then 33 data blocks, in the order of the lane's channels, each with the frame's bit
count; the launch position follows from the frame that begins the slot, within 0.5 µm of its place, by whole bit
periods. The frame with the slot's last bit ends it; not lost, the next slot follows. At a controlled stop the data set
in progress is finished if it ends no farther away than the stop; else a WINDOW_CLOSE entry stands at the stop's
position. (R197, R200, R202, R204, R205, R206, R207, R208, R213, R223) -/
def Obligations.WritingIsInhibitedAndResumed : Prop :=
  ∀ (s : State) (src : Nat),
    (∀ x ∈ [((fun a => Instr.pesInhibit src a), 0x8001, fun (_ : Nat) (w : Wrv) => { w with pes := true }),
            ((fun a => Instr.shockInhibit src a), 0x8002, fun _ w => { w with shock := true }),
            ((fun a => Instr.loopFaultInhibit src a), 0x8003, fun a w => if bit a 3 then { w with overspeed := true } else { w with loop := true }),
            ((fun a => Instr.managementInhibit src a), 0x8004, fun _ w => { w with mgmt := true })], ∀ arg u,
        Takes .wrv src x.2.1 arg s u → Runs (x.1 arg) s fun t =>
          t.wrv = { x.2.2 arg s.wrv with lanes := t.wrv.lanes, lastClock := s.srv.clock, lastCause := causeBits t,
                                         slotLost := s.wrv.slotLost || (s.wrv.windowOpen && decide (s.wrv.slot < 396)) }
          ∧ (∀ k, k < 4 → ((laneAt t k).blocks.map fun b => (b.1, b.2.1)) = [control 0x2D (causeBits t * 2 ^ 48 + s.srv.clock % 2 ^ 40)] ∧ (laneAt t k).gated = 0)
          ∧ gateOpen t = false ∧ ctr t 0x060114 = satAdd (ctr s 0x060114) 1 ∧ t.boxes = u.boxes)
    ∧ (∀ x ∈ [((fun a => Instr.pesCauseCleared src a), 0x0001, Src.servo, fun (w : Wrv) => { w with pes := false }),
              ((fun a => Instr.shockCauseCleared src a), 0x0002, Src.act, fun w => { w with shock := false }),
              ((fun a => Instr.loopCauseCleared src a), 0x0003, Src.bridle, fun w => { w with loop := false, overspeed := false }),
              ((fun a => Instr.managementCauseCleared src a), 0x0004, Src.mgtDay, fun w => { w with mgmt := false })], ∀ arg u,
        Takes .wrv src x.2.1 arg s u →
        (src = x.2.2.1 → Runs (x.1 arg) s fun t =>
          t.wrv = { x.2.2.2 s.wrv with resuming := if inhibited s && !inhibited t then s.wrv.windowOpen && decide (s.wrv.slot < 396) else s.wrv.resuming }
          ∧ t.boxes = u.boxes)
        ∧ (src ≠ x.2.2.1 → Runs (x.1 arg) s fun t => t = u))
    ∧ (∀ code arg u, wrvKnows code = false → Takes .wrv src code arg s u → Runs (.wrvUnknownEvent src code arg) s fun t =>
        ctr t 0x060120 = satAdd (ctr s 0x060120) 1 ∧ t.wrv = s.wrv ∧ t.boxes = u.boxes)
    ∧ (∀ o x, inProgress s = some x → domOn s 15 = true → bitPeriod s x.cls ≠ 0 →
        let begins := !s.wrv.slotLoaded && decide (s.wrv.slot < 396)
        let u := loadSlot s
        let n := frameCount u (bitPeriod s x.cls)
        let at_ := if begins then o.launch % 2 ^ 16 * deviceCycle + o.fraction % 256 * launchStep else s.wrv.launchAt
        let ends := s.wrv.slot < 396 ∧ u.wrv.left - n = 0
        (begins = false ∨ o.off.natAbs ≤ 500) →
        (¬ends ∨ (s.wrv.slotLost = false ∧ gateOpen s = true) → Runs (.laneFrame o) s fun t =>
          (∀ k, k < 4 → ((laneAt t k).blocks.map fun b => (b.1, b.2.1))
              = control 0x1E (bitPeriod s x.cls * 2 ^ 24 + at_ / deviceCycle % 2 ^ 16 * 2 ^ 8 + at_ % deviceCycle / launchStep) :: (linkChannels k).map (channelBlock u n)
            ∧ (linkChannels k).length = 33)
          ∧ t.wrv.launchAt = (at_ + n * bitPeriod s x.cls) % (deviceCycle * 65536)
          ∧ t.wrv.placements = s.wrv.placements)
        ∧ (ends → s.wrv.slotLost = false → gateOpen s = true → Runs (.laneFrame o) s fun t => t.wrv.slot = s.wrv.slot + 1)
        ∧ (ends → Runs (.laneFrame o) s fun t => t.wrv.slotLoaded = false ∧ t.wrv.left = 0 ∧ t.wrv.resuming = false ∧ t.wrv.slotLost = false))
    ∧ (∀ o x, inProgress s = some x → s.wrv.slotLoaded = false → s.wrv.slot < 396 → 500 < o.off.natAbs → Runs (.laneFrame o) s fun t => t = s)
    ∧ (∀ arg u x, Takes .fmt src 0x8001 arg s u → inProgress s = some x →
        (clockDist (placementEnd s x) s.srv.clock ≤ clockDist (bits arg 39 0) s.srv.clock
          ∨ (s.srv.sched.any fun e => e.2.kind == Kind.windowClose && e.2.owner == 0 && e.2.pos == bits arg 39 0) = true → Runs (.controlledStopBegun src arg) s fun t => t = u)
        ∧ (clockDist (bits arg 39 0) s.srv.clock < clockDist (placementEnd s x) s.srv.clock →
            (s.srv.sched.any fun e => e.2.kind == Kind.windowClose && e.2.owner == 0 && e.2.pos == bits arg 39 0) = false →
            ownedBy s 0 < 1536 → Runs (.controlledStopBegun src arg) s fun t => Scheduled t Kind.windowClose 0 (bits arg 39 0) 0))

/-- Write windows, data set boundaries, verify verdicts, write stop and the backlog's restart. A WINDOW_OPEN entry that
fires on a loaded machine at rest opens the window and begins the partition's next image at its next position; with
argument [8] a directory copy. A WINDOW_CLOSE closes it: each lane sends one IDLE block. At a boundary the next image
begins, with the set-point R219 gives, or the window closes for want of data; where a WINDOW_CLOSE is due there, nothing
begins. A passing verdict marks its row; a failing one is counted for its channel and the row takes the earliest reserve
slot that is free or that a copy of a later trailing edge holds, or a carry-over while the limit allows one, or the data
set is written again. A data set with no copy left stops writes of its partition. A partition whose backlog, early close
or UNLOAD calls for it repositions for its next position, and each such restart after a park is counted. (R148, R157,
R166, R209, R210, R211, R213, R215, R219, R221, R222) -/
def Obligations.WindowsOpenAndDataSetsFollow : Prop :=
  ∀ (s : State),
    (∀ i e img w a len, Fires s i Kind.windowOpen e → s.wrv.windowOpen = false → loaded s = true → s.rch.ladder = none → s.brd.stop = none → bit e.arg 8 = false →
      nextImage s (bits e.arg 1 0) = some img → (partAt s (bits e.arg 1 0)).writeStopped = false → placeable s img = true →
      positionAt s (bits e.arg 1 0) (partAt s (bits e.arg 1 0)).nextPos = some (w, a, len) → Runs (.windowOpen i) s fun t => Begun (bits e.arg 1 0) img w a s t ∧ t.wrv.parked = false)
    ∧ (∀ i e a len, Fires s i Kind.windowOpen e → s.wrv.windowOpen = false → loaded s = true → s.rch.ladder = none → s.brd.stop = none → bit e.arg 8 = true →
        nthPos 3 (spansOf s (partAt s (bits e.arg 1 0)).firstWrap) (b2n (bit e.arg 9)) 0 = some (a, len) → Runs (.windowOpen i) s fun t =>
          t.wrv.windowOpen = true ∧ (partAt t (bits e.arg 1 0)).dir.seq = (partAt s (bits e.arg 1 0)).dir.seq + 1
          ∧ ∃ x, t.wrv.placements.getLast? = some x ∧ x.img.kind = 3 ∧ x.img.ds = (if bit e.arg 9 then 0xFFFFFFFF else 0xFFFFFFFE)
            ∧ x.wrap = (partAt s (bits e.arg 1 0)).firstWrap ∧ x.start = a ∧ x.cls = 3)
    ∧ (∀ i e, Fires s i Kind.windowClose e → bits e.arg 3 0 ≠ 4 → s.wrv.windowOpen = true → 396 ≤ s.wrv.slot → Runs (.windowClose i) s fun t =>
        t.wrv.windowOpen = false ∧ (bits e.arg 3 0 = 1 → t.wrv.parked = true) ∧ t.wrv.images = s.wrv.images
        ∧ ∀ k, k < 4 → ((laneAt t k).blocks.map fun b => (b.1, b.2.1)) = [control 0x33 0] ∧ (laneAt t k).gated = 0)
    ∧ (∀ dur, atBoundary s = true → dur ≠ 0 → Cfgw.tFill s ≠ 0 → closesHere s = false →
        (∀ img w a len, nextImage s s.wrv.windowPart = some img → (partAt s s.wrv.windowPart).writeStopped = false → placeable s img = true →
          positionAt s s.wrv.windowPart (partAt s s.wrv.windowPart).nextPos = some (w, a, len) → Runs (.dataSetBoundary dur) s fun t =>
            Begun s.wrv.windowPart img w a s t
            ∧ t.wrv.setPoint = (let v := speedPoint (notePitch dur s)
                                if 4 ≤ clockDist v s.wrv.setPoint ∨ v = Cfgw.vMin s ∨ v = readSpeed s then v else s.wrv.setPoint))
        ∧ (nextImage s s.wrv.windowPart = none → Runs (.dataSetBoundary dur) s fun t => t.wrv.windowOpen = false ∧ t.wrv.parked = true))
    ∧ (∀ dur, atBoundary s = true → dur ≠ 0 → Cfgw.tFill s ≠ 0 → closesHere s = true → Runs (.dataSetBoundary dur) s fun t =>
        t.wrv.windowOpen = true ∧ t.wrv.images = s.wrv.images ∧ t.wrv.placements = s.wrv.placements)
    ∧ (∀ o own phys x y, ownPlace s o.part o.ds = some own → physPlace s own o = some phys → s.wrv.placements[own]? = some x → s.wrv.placements[phys]? = some y →
        o.sds < 256 → o.row < 192 → o.chan < 132 → o.slot < 396 → mem? y.judged (copyKey o.chan o.slot) = false → x.abandoned = false →
        (verdictPass s y.threshold o = true → Runs (.verifyVerdict o) s fun t =>
            (t.wrv.placements[own]?).any (fun z => mem? z.passed (rowNo o.sds o.row)) = true ∧ t.wrv.fails = s.wrv.fails ∧ t.wrv.carry = s.wrv.carry)
        ∧ (verdictPass s y.threshold o = false → mem? x.passed (rowNo o.sds o.row) = false →
            (AMap.getD x.copies (rowNo o.sds o.row) 0 < 2 → ∀ k, reserveSlot y (rewriteChannel (isRetired s) o.chan) (earliestSlot s phys) o.slot o.chan = some k → Runs (.verifyVerdict o) s fun t =>
                t.wrv.fails = modAt s.wrv.fails o.chan 0 (· + 1)
                ∧ (t.wrv.placements[phys]?).any (fun (z : Placement) => AMap.get? z.slots (copyKey (rewriteChannel (isRetired s) o.chan) k) == some (x.img.ds, rowNo o.sds o.row)) = true
                ∧ (AMap.get? y.slots (copyKey (rewriteChannel (isRetired s) o.chan) k) = none → ctr t 0x060104 = satAdd (ctr s 0x060104) 1))
            ∧ (AMap.getD x.copies (rowNo o.sds o.row) 0 < 2 → reserveSlot y (rewriteChannel (isRetired s) o.chan) (earliestSlot s phys) o.slot o.chan = none → x.img.kind ≠ 3 →
                (s.wrv.carry.filter fun c => c.1 == x.img.part && c.2.2.2 == rewriteChannel (isRetired s) o.chan).length < Cfgw.carryLimit s → Runs (.verifyVerdict o) s fun t =>
                  ctr t 0x060108 = satAdd (ctr s 0x060108) 1
                  ∧ t.wrv.carry = s.wrv.carry ++ [(x.img.part, x.img.ds, rowNo o.sds o.row, rewriteChannel (isRetired s) o.chan)])
            ∧ (2 ≤ AMap.getD x.copies (rowNo o.sds o.row) 0 → x.img.kind ≠ 3 → x.complete = false → Runs (.verifyVerdict o) s fun t =>
                ctr t 0x06010C = satAdd (ctr s 0x06010C) 1
                ∧ t.wrv.images = { x.img with copy := if x.img.copy = 2 then 2 else 1 } :: s.wrv.images
                ∧ (t.wrv.placements[own]?).any (fun z => z.abandoned) = true)))
    ∧ (∀ p d img, (s.wrv.images.find? fun i => i.part == p && i.ds == d) = some img → placeable s img = false → (partAt s p).writeStopped = false →
        Runs (.writeStopped p d) s fun t => partAt t p = { partAt s p with writeStopped := true, stopDs := d } ∧ ctr t 0x06011C = satAdd (ctr s 0x06011C) 1)
    ∧ (∀ p w a len, p < 4 → s.wrv.carry = [] → serving s = true → (partAt s p).wraps ≠ 0 → (partAt s p).writeStopped = false → tapeHeld s = false → restartDue s p = true →
        s.brd.repos = none → traversing s = false → (s.srv.sched.any fun e => e.2.kind == Kind.windowOpen) = false → positionAt s p (partAt s p).nextPos = some (w, a, len) →
        hasSlots .bridle Src.fmt 2 s = true → Runs (.backlogRestart p) s fun t => t.wrv.windowPart = p ∧ ctr t 0x060118 = (if s.wrv.parked then satAdd (ctr s 0x060118) 1 else ctr s 0x060118)
          ∧ boxOf t .bridle = boxOf s .bridle ++ [mail Src.fmt 0x0005 w s, mail Src.fmt 0x0003 (reposArg (clockOf w a) (reverseWrap w) t.wrv.setPoint 0) s])

/-- Which entry the position scheduler delivers, and what each kind of entry does. An entry is delivered only when the valid
Tape Clock has reached it and no other reached entry comes before it; it then leaves the table. DENSITY sets the class
of the sequencer, or, in the read channels, the wrap and the class, with the calibrated taps of the class where either
changes and the timing's integral cleared where the wrap does. TURNAROUND while the tape runs begins the turnaround and
is counted. SPLIT begins the keep-out span, or ends it. REWRITE_AREA loads the bits of each row placed in its slot.
READ_WINDOW with argument [0] takes a free decoder. SETTLED schedules the density, for sequencer and read channels, and
the opening of the next window for the formatter, or the density and a watch for the next data set start for read
recovery. (R149, R153, R210, R238, R276, R277, R287, R289) -/
def Obligations.SchedulerEntriesFire : Prop :=
  ∀ (s : State) (i : Nat) (e : SchedEnt),
    (firesNow s i = some e → s.srv.valid = true ∧ reached s e.pos e.dir = true ∧ AMap.get? s.srv.sched i = some e
        ∧ ∀ x ∈ s.srv.sched, dueEntry s x.2 = true → firesBefore s.srv.reverse x.2 e = false)
    ∧ (∀ x ∈ [(Instr.density, Kind.density), (.turnaround, Kind.turnaround), (.split, Kind.split), (.rewriteArea, Kind.rewriteArea), (.readWindow, Kind.readWindow),
              (.settled, Kind.settled), (.windowOpen, Kind.windowOpen), (.windowClose, Kind.windowClose)],
        (∀ e, ¬Fires s i x.2 e) → Runs (x.1 i) s fun t => t = s)
    ∧ (Fires s i Kind.density e → Runs (.density i) s fun t => t.srv.sched = AMap.erase s.srv.sched i
        ∧ (e.owner = 0 → t.wrv = { s.wrv with cls := bits e.arg 1 0 } ∧ t.rch = s.rch)
        ∧ (e.owner ≠ 0 → t.wrv = s.wrv ∧ t.rch.wrap = some (bits e.arg 15 8) ∧ t.rch.cls = bits e.arg 1 0
            ∧ (s.rch.wrap = some (bits e.arg 15 8) → t.rch.delta = s.rch.delta) ∧ (s.rch.wrap ≠ some (bits e.arg 15 8) → t.rch.delta = 0)
            ∧ t.rch.chans = (if s.rch.wrap = some (bits e.arg 15 8) ∧ s.rch.cls = bits e.arg 1 0 then s.rch.chans
                             else s.rch.chans.map fun (p, c) => (p, { c with taps := AMap.getD c.initial (bits e.arg 1 0) c.taps }))))
    ∧ (Fires s i Kind.turnaround e → s.brd.motion = .running → Runs (.turnaround i) s fun t =>
        t.brd.motion = .turnaround ∧ t.brd.phase = 0 ∧ (loopAt t 0).target = 0 ∧ t.brd.slew = Cfgw.turnSlew s ∧ ctr t 0x0D0088 = satAdd (ctr s 0x0D0088) 1)
    ∧ (Fires s i Kind.split e → e.owner = 0 → Runs (.split i) s fun t => t.wrv = { s.wrv with inSpan := bit e.arg 0, fillPhase := 0 })
    ∧ (∀ x own k r, Fires s i Kind.rewriteArea e → inProgress s = some x → x.slots = [(k, (x.img.ds, r))] → k % 396 = e.arg →
        ownPlace s x.img.part x.img.ds = some own → s.wrv.placements[own]? = some x → Runs (.rewriteArea i) s fun t =>
          t.wrv = { s.wrv with bits := AMap.set s.wrv.bits (k / 396) (slotStream s x e.arg (rowBits s x x r (if e.arg < x.carry then 2 else 1) (k / 396) e.arg)) })
    ∧ (∀ d, Fires s i Kind.readWindow e → bit e.arg 0 = true → ((List.range 4).find? fun d => !mem? s.rch.busy d) = some d → readingTape s = false → Runs (.readWindow i) s fun t =>
        t.rch = { s.rch with busy := AMap.set s.rch.busy d () } ∧ t.srv.sched = AMap.erase s.srv.sched i)
    ∧ (∀ w a len, Fires s i Kind.settled e → e.recipient ≠ 2 → s.cart.dirTodo = [] → positionAt s s.wrv.windowPart (partAt s s.wrv.windowPart).nextPos = some (w, a, len) → ownedBy s 0 < 1534 →
        (∀ j, 4000 ≤ j → AMap.get? s.srv.sched j = none) →
        Runs (.settled i) s fun t => Scheduled t Kind.windowOpen 0 (clockOf w a) s.wrv.windowPart ∧ Scheduled t Kind.density 0 (clockOf w a) (densityArg (wrapClass s w) w)
          ∧ (ownedBy s 2 < 1024 → Scheduled t Kind.density 2 (clockOf w a) (densityArg (wrapClass s w) w)))
    ∧ (∀ c, Fires s i Kind.settled e → e.recipient = 2 → nextStart s = some c → ownedBy s 2 < 1020 → (∀ j, 4000 ≤ j → AMap.get? s.srv.sched j = none) → Runs (.settled i) s fun t =>
        Scheduled t Kind.readWindow 2 c 1
        ∧ ((s.hq.cmds.any fun c => c.st == .running && c.e.opcode == 0x07) = false → Scheduled t Kind.density 2 s.srv.clock (densityArg (wrapClass s s.srv.wrap) s.srv.wrap)))

/-- Servo frames, LPOS words, the Tape Clock and the loops' ticks. A decoded servo frame gives each reader its y, its PES
against the ramped lateral target, and a valid sample only within the band it is expected over; readers in use without
one are counted. With a valid sample the speed is the frame's, and the valid, locked clock moves to the mean of the
readers' positions, never against the direction of travel; without one it flywheels. A sample beyond pes_limit, or a
second frame without a sample, leaves a PES entry in MB_WRV. A second successive LPOS word sets the clock while it is
not locked; a locked clock ignores one that disagrees, counts it, and takes a second in succession as a jump. Beyond its
flywheel the clock is no longer valid. A slow standstill tick moves the clock by the reels' travel. TENSION and THREAD
run at their own ticks. (R205, R207, R263, R266, R269, R270, R273, R274, R279, R284, R285) -/
def Obligations.ServoFramesMoveTheTapeClock : Prop :=
  ∀ (s : State),
    (∀ f : ServoObs, domOn s 6 = true → decodes f.period = true → Runs (.servoFrame f) s fun t =>
      let good := ((List.range 4).map fun r => (r, readerAt t r)).filter fun x => x.2.valid
      (∀ r, r < 4 →
          (∀ n d, (rxAt s r).up = true → (f.readers.getD r none).bind lateralRatio = some (n, d) →
            (readerAt t r).y = roundTo n d ∧ (readerAt t r).pes = clamp (-32767) 32767 (roundTo n d - (loopAt s 2).ramp)
            ∧ ((readerAt t r).valid = true ↔ n.natAbs ≤ 60000 * d ∧ readerEnabled s r = true ∧ (readerAt s r).band = some (expectedBand s r)))
          ∧ ((rxAt s r).up = false ∨ (f.readers.getD r none).bind lateralRatio = none → (readerAt t r).valid = false))
      ∧ ctr t 0x0C0114 = satAdd (ctr s 0x0C0114) ((List.range 4).filter fun r => readerEnabled s r && !(readerAt t r).valid).length
      ∧ (good ≠ [] → t.srv.speed = (if f.reverse then -roundTo (2048000 * 65536) f.period else roundTo (2048000 * 65536) f.period) ∧ t.srv.reverse = f.reverse ∧ t.srv.flywheel = 0)
      ∧ (∀ c, meanOf (good.map fun x => (clockUnder x.1 x.2.frame : Int)) = some c → s.srv.valid = true → s.srv.lposLocked = true →
          t.srv.clock = if f.reverse then min s.srv.clock c.toNat else max s.srv.clock c.toNat)
      ∧ (good = [] → t.srv.speed = s.srv.speed ∧ t.srv.reverse = s.srv.reverse ∧ (s.srv.valid = true → t.srv.flywheel = s.srv.flywheel + 256
          ∧ (s.srv.flywheel + 256 ≤ Cfgw.flywheelFrames s * 256 → t.srv.clock = if s.srv.reverse then s.srv.clock - 256 else min (s.srv.clock + 256) (2 ^ 40 - 1))))
      ∧ (hasSlots .wrv Src.servo 1 s = true → pesPosted s = false → (s.srv.mute = 0 ∧ (∃ x ∈ good, Cfgw.pesLimit s < x.2.pes.natAbs)) ∨ (good = [] ∧ 1 ≤ s.srv.invalidRun) →
          ∃ m ∈ boxOf t .wrv, m.src = Src.servo ∧ m.code = 0x8001))
    ∧ (∀ r w n band, r < 4 → domOn s 6 = true → lposParse (if s.srv.reverse then w.reverse else w) = some (n, band) → band = expectedBand s r →
        (s.srv.lposLocked = false → ((readerAt s r).lastLpos.map (wordAfter s)) = some n → Runs (.lposWordAccepted r w) s fun t =>
            t.srv.clock = clockUnder r (wordEnd s n) % 2 ^ 40 ∧ t.srv.valid = true ∧ t.srv.lposLocked = true)
        ∧ (s.srv.lposLocked = false → ((readerAt s r).lastLpos.map (wordAfter s)) ≠ some n → Runs (.lposWordAccepted r w) s fun t =>
            t.srv.clock = s.srv.clock ∧ t.srv.lposLocked = false ∧ (readerAt t r).lastLpos = some n ∧ (readerAt t r).band = some band)
        ∧ (s.srv.lposLocked = true → (readerAt s r).frame = wordEnd s n → Runs (.lposWordAccepted r w) s fun t =>
            t.srv.clock = s.srv.clock ∧ (readerAt t r).rogue = none ∧ t.ctrs = s.ctrs)
        ∧ (s.srv.lposLocked = true → (readerAt s r).frame ≠ wordEnd s n → ((readerAt s r).rogue.map (wordAfter s)) ≠ some n → Runs (.lposWordAccepted r w) s fun t =>
            t.srv.clock = s.srv.clock ∧ (readerAt t r).rogue = some n ∧ ctr t 0x0C0100 = satAdd (ctr s 0x0C0100) 1)
        ∧ (s.srv.lposLocked = true → (readerAt s r).frame ≠ wordEnd s n → ((readerAt s r).rogue.map (wordAfter s)) = some n → Runs (.lposWordAccepted r w) s fun t =>
            t.srv.clock = clockUnder r (wordEnd s n) % 2 ^ 40 ∧ t.srv.mute = 2 ∧ ctr t 0x0C0104 = satAdd (ctr s 0x0C0104) 1))
    ∧ (s.srv.valid = true → (Cfgw.flywheelFrames s * 256 < s.srv.flywheel ∨ 25600 ≤ s.srv.slowTravel) → Runs .clockFlywheelExpiry s fun t =>
        t.srv = { s.srv with valid := false, lposLocked := false })
    ∧ (hasSlots .wrv Src.servo 1 s = true → s.wrv.pes = true → ((postedTo s .wrv).any fun m => m.src == Src.servo && m.code == 0x0001) = false → (∀ r, r < 4 → readerEnabled s r = true → Cfgw.resumeFrames s ≤ (readerAt s r).good) →
        Runs .pesResume s fun t => boxOf t .wrv = boxOf s .wrv ++ [mail Src.servo 0x0001 0 s] ∧ t.wrv = s.wrv)
    ∧ (∀ d : Int, s.brd.ready = true → d.natAbs * 10 < 256 → Runs (.standstillTick d) s fun t =>
        t.srv.speed = d * 256 ∧ (∀ r, (readerAt t r).valid = false)
        ∧ (s.srv.valid = true → d < 0 → t.srv.clock = s.srv.clock - d.natAbs) ∧ (s.srv.valid = true → 0 < d → t.srv.clock = min (s.srv.clock + d.natAbs) (2 ^ 40 - 1))
        ∧ (s.srv.valid = true → t.srv.slowTravel = s.srv.slowTravel + d.natAbs))
    ∧ (s.brd.ready = true → Runs .tensionTick s fun t =>
        (∀ n, n ≠ 1 → loopAt t n = loopAt s n) ∧ ((epAt s 0).seen = true → (loopAt t 1).meas = sat 32 (epAt s 0).aux ∧ (loopAt t 1).measValid = true)
        ∧ ((loopAt s 1).mode = .auto → (epAt s 0).seen = true → uMin s 1 ≤ uMax s 1 → (loopAt t 1).mode = .auto ∧ uMin s 1 ≤ (loopAt t 1).out ∧ (loopAt t 1).out ≤ uMax s 1)
        ∧ ((loopAt s 1).mode = .auto → (epAt s 0).seen = false → (loopAt t 1).mode = .hold)
        ∧ t.brd.torque0 = sat 32 (roundTo (s.brd.radius0 * (2 * (loopAt t 1).out + if s.srv.reverse then (loopAt s 0).out else -(loopAt s 0).out)) 2000)
        ∧ t.brd.torque1 = sat 32 (roundTo (s.brd.radius1 * (2 * (loopAt t 1).out + if s.srv.reverse then -(loopAt s 0).out else (loopAt s 0).out)) 2000))
    ∧ (s.brd.ready = true → Runs .threadTick s fun t =>
        (∀ n, n ≠ 5 → loopAt t n = loopAt s n) ∧ ((epAt s 2).seen = true → (loopAt t 5).meas = sat 32 (epAt s 2).position)
        ∧ ((loopAt s 5).mode = .off → (loopAt t 5).mode = .off ∧ (loopAt t 5).out = 0))

/-- Loop and endpoint faults, settled speed, threading done, the Actuator Links and SHOCK_N. A loop whose following error
lasts beyond its limit goes to FAULT with output 0, brakes its endpoints, is counted, posts MB_WRV 0x8003 and, when no
stop is in progress, begins a controlled stop of its kind at the Tape Clock. A faulted endpoint faults every running
loop that drives it. A reposition settled for 64 servo frames posts its SETTLED entry at the Tape Clock and the tape
runs. The pin in the machine reel starts the loops for wrap 0 at 2.00 m/s; back in the cartridge, every loop is off.
SHOCK_N posts its cause and its clearing once each. A command frame is 74 bytes, carries its sequence and ends in its
CRC-16. A status frame with a good CRC updates each endpoint whose slot is a status of its type; else the endpoint
counts a missing frame. (R205, R207, R283, R286, R288, R289, R290, R292, R293, R295, R298) -/
def Obligations.LoopFaultsStopTheTape : Prop :=
  ∀ (s : State),
    (∀ n, n < 6 → (loopAt s n).mode = .auto → 0 < (loopAt s n).fe → feTime s n ≤ (loopAt s n).fe → Runs (.followingErrorExpiry n) s fun t =>
        (loopAt t n).mode = .fault ∧ (loopAt t n).out = 0 ∧ ctr t 0x0D0080 = satAdd (ctr s 0x0D0080) 1
        ∧ (hasSlots .wrv Src.bridle 1 s = true → boxOf t .wrv = boxOf s .wrv ++ [mail Src.bridle 0x8003 n s])
        ∧ (∀ e ∈ loopEndpoints n, (epAt t e).cmd = 2)
        ∧ (s.brd.stop = none → t.brd.stop = some ⟨if reelLoop n then .faultReels else .faultOther, s.srv.clock, !reelLoop n⟩
            ∧ t.brd.motion = (if s.brd.motion = .unthreaded then .unthreaded else .stopping)
            ∧ (hasSlots .fmt Src.bridle 1 s = true → boxOf t .fmt = boxOf s .fmt ++ [mail Src.bridle 0x8001 (s.srv.clock % 2 ^ 40) s])
            ∧ (reelLoop n = false → (loopAt t 0).target = 0)))
    ∧ (∀ e, e < 6 → (epAt s e).fault = false → (3 ≤ (epAt s e).missing ∨ bit (epAt s e).status 2 = true) → Runs (.endpointFault e) s fun t =>
        (epAt t e).fault = true ∧ ∀ n, n < 6 → e ∈ loopEndpoints n → (loopAt s n).mode = .manual ∨ (loopAt s n).mode = .hold ∨ (loopAt s n).mode = .auto →
          (loopAt t n).mode = .fault ∧ (loopAt t n).out = 0)
    ∧ (∀ r, s.brd.repos = some r → s.brd.motion = .repositioning → r.step = 4 → 64 ≤ s.brd.settledCount → ownedBy s 3 < 512 → Runs .speedSettled s fun t =>
        t.brd = { s.brd with motion := .running, repos := none }
        ∧ ∃ i e, AMap.get? t.srv.sched i = some e ∧ e.kind = Kind.settled ∧ e.pos = s.srv.clock ∧ e.dir = s.srv.reverse ∧ e.recipient = r.requester)
    ∧ (s.brd.motion = .threading → Runs .threadComplete s fun t =>
        t.brd.motion = .running ∧ t.brd.parked = false ∧ t.srv.wrap = 0 ∧ (loopAt t 0).target = speedUnits 128 false ∧ (loopAt t 1).target = Cfgw.tensionNominal s
        ∧ ∀ n, n < 5 → (loopAt s n).mode = .off → (loopAt t n).mode = .manual ∧ (loopAt t n).wantAuto = true)
    ∧ (s.brd.motion = .unthreading → s.brd.phase ≠ 0 → Runs .threadComplete s fun t =>
        t.brd.motion = .unthreaded ∧ t.brd.parked = true ∧ ∀ n, n < 6 → (loopAt s n).mode ≠ .fault → (loopAt t n).mode = .off ∧ (loopAt t n).out = 0)
    ∧ (s.srv.shockPin = false → Runs .shockAssert s fun t => t.srv = { s.srv with shockPin := true }
        ∧ (hasSlots .wrv Src.act 1 s = true → boxOf t .wrv = boxOf s .wrv ++ [mail Src.act 0x8002 0 s]))
    ∧ (s.srv.shockPin = true → Runs .shockRelease s fun t => t.srv = { s.srv with shockPin := false }
        ∧ (hasSlots .wrv Src.act 1 s = true → boxOf t .wrv = boxOf s .wrv ++ [mail Src.act 0x0002 0 s]))
    ∧ (∀ l, l < 2 → linksSend s = true → domOn s 29 = true → Runs (.actFrameSend l) s fun t =>
        let f := (AMap.getD t.brd.links l {}).lastFrame
        f.length = 74 ∧ f.drop 72 = be 2 (crc16 (f.take 72)) ∧ beAt f 1 1 = (AMap.getD s.brd.links l {}).seq % 256
        ∧ (AMap.getD t.brd.links l {}).seq = ((AMap.getD s.brd.links l {}).seq + 1) % 256
        ∧ (∀ k, k < 3 → beAt f (8 + 16 * k) 1 = epType (3 * l + k) * 16 ∧ beAt f (9 + 16 * k) 1 = epCommand s (3 * l + k) % 256
            ∧ ((epAt s (3 * l + k)).cmd = 3 ∨ (epAt s (3 * l + k)).cmd = 4 → (epAt t (3 * l + k)).cmd = 0)))
    ∧ (∀ l f k, l < 2 → k < 3 → s.brd.ready = true → Runs (.actStatusReceive l f) s fun t =>
        (f.length = 74 → beAt f 72 2 = crc16 (f.take 72) → statusValid (3 * l + k) (slice f (8 + 16 * k) 16) = true →
          (epAt t (3 * l + k)).missing = 0 ∧ (epAt t (3 * l + k)).seen = true ∧ (epAt t (3 * l + k)).status = bits (beAt f (9 + 16 * k) 1) 4 0
          ∧ (epAt t (3 * l + k)).position = ofField 32 (beAt f (10 + 16 * k) 4) ∧ (epAt t (3 * l + k)).aux = beAt f (16 + 16 * k) 2)
        ∧ (f.length ≠ 74 ∨ beAt f 72 2 ≠ crc16 (f.take 72) ∨ statusValid (3 * l + k) (slice f (8 + 16 * k) 16) = false →
            epAt t (3 * l + k) = { epAt s (3 * l + k) with missing := (epAt s (3 * l + k)).missing + 1 })
        ∧ (f.length ≠ 74 ∨ beAt f 72 2 ≠ crc16 (f.take 72) →
            (AMap.getD t.brd.links l {}).crcErrors = min ((AMap.getD s.brd.links l {}).crcErrors + 1) 0xFFFF))

/-- The entries of MB_BRIDLE. A taken SPEED_TARGET is kept, and while the tape runs becomes SPEED's target under the
ceiling; SPEED_CEILING sets the ceiling. STOP_AND_PARK sends SPEED to 0; REPOSITION stops first, is counted and cancels
the turnaround entry; each is held while a write window is open. LATERAL_OFFSET moves LATERAL_FINE's target; WRAP_SELECT
names the next wrap, and while another runs schedules the turnaround. THREAD from the unthreaded state and UNTHREAD from
another begin their motions. LOOP_MODE switches a loop that is not in FAULT off, to MANUAL with its value, or toward
AUTO. CLEAR_FAULTS at rest turns faulted loops off and posts the cleared cause. An orderly stop begins once, its end
where the spec puts it. An unknown code is counted. (R207, R283, R284, R287, R288, R289, R290, R299) -/
def Obligations.TheBridleFollowsItsEvents : Prop :=
  ∀ (s : State) (src arg : Nat) (u : State),
    (Takes .bridle src 0x0001 arg s u → Runs (.speedTarget src arg) s fun t => t.brd.kept = bits arg 9 0 ∧ t.boxes = u.boxes
        ∧ (s.brd.motion = .running → (loopAt t 0).target = speedUnits (min (bits arg 9 0) s.brd.ceiling) s.brd.runReverse ∧ t.brd.slew = Cfgw.speedSlew s)
        ∧ (s.brd.motion = .stopped → t.brd.loops = s.brd.loops))
    ∧ (Takes .bridle src 0x0002 arg s u →
        (s.wrv.windowOpen = true → Runs (.stopAndPark src arg) s fun t => t.brd = { s.brd with heldRepos := some none })
        ∧ (s.wrv.windowOpen = false → s.brd.motion = .running → s.brd.stop = none → Runs (.stopAndPark src arg) s fun t =>
            t.brd.motion = .stopping ∧ t.brd.repos = none ∧ (loopAt t 0).target = 0 ∧ t.brd.slew = Cfgw.speedSlew s))
    ∧ (Takes .bridle src 0x0003 arg s u →
        let r : Repos := ⟨bits arg 39 0, bit arg 40, min (bits arg 50 41) s.brd.ceiling, if bits arg 55 51 = 0 then Cfgw.speedSlew s else bits arg 55 51, 1, requesterOf src⟩
        (s.wrv.windowOpen = true → Runs (.reposition src arg) s fun t => t.brd = { s.brd with heldRepos := some (some r) })
        ∧ (s.wrv.windowOpen = false → s.brd.motion = .running → s.brd.stop = none → Runs (.reposition src arg) s fun t =>
            t.brd.motion = .repositioning ∧ t.brd.repos = some r ∧ (loopAt t 0).target = 0 ∧ t.brd.slew = r.slew ∧ ctr t 0x0D008C = satAdd (ctr s 0x0D008C) 1
            ∧ (∀ x ∈ t.srv.sched, ¬(x.2.kind = Kind.turnaround ∧ x.2.owner = 3)) ∧ ∀ p, p < 132 → (chanAt t p).lock = .acquiring))
    ∧ (Takes .bridle src 0x0004 arg s u → Runs (.lateralOffset src arg) s fun t =>
        t.brd.latOffset = ofField 16 (bits arg 15 0) ∧ (loopAt t 2).target = servoTarget s.srv.wrap + ofField 16 (bits arg 15 0))
    ∧ (Takes .bridle src 0x0005 arg s u →
        Runs (.wrapSelect src arg) s fun t => t.brd = { s.brd with nextWrap := bits arg 7 0 }
          ∧ (s.brd.motion = .running → bits arg 7 0 ≠ s.srv.wrap → ownedBy s 3 < 512 → Scheduled t Kind.turnaround 3 ((if s.brd.runReverse then 99000 else 11901000) * 256) 0))
    ∧ (Takes .bridle src 0x0006 arg s u → s.brd.motion = .unthreaded → Runs (.thread src arg) s fun t =>
        t.brd.motion = .threading ∧ t.brd.trim = 0 ∧ t.srv.wrap = 0 ∧ ((loopAt s 5).mode = .off → (loopAt t 5).mode = .manual ∧ (loopAt t 5).wantAuto = true))
    ∧ (Takes .bridle src 0x0007 arg s u → s.brd.motion = .stopped → Runs (.unthread src arg) s fun t =>
        t.brd.motion = .unthreading ∧ t.brd.phase = 0 ∧ (loopAt t 0).target = speedUnits (min 512 s.brd.ceiling) true)
    ∧ (Takes .bridle src 0x0008 arg s u → Runs (.speedCeiling src arg) s fun t => t.brd.ceiling = bits arg 9 0 ∧ t.brd.kept = s.brd.kept
        ∧ (s.brd.motion = .running → (loopAt t 0).target = speedUnits (min s.brd.kept (bits arg 9 0)) s.brd.runReverse))
    ∧ (Takes .bridle src 0x0009 arg s u → bits arg 2 0 < 6 → (loopAt s (bits arg 2 0)).mode ≠ .fault → Runs (.loopMode src arg) s fun t =>
        (bits arg 4 3 = 0 → (loopAt t (bits arg 2 0)).mode = .off ∧ (loopAt t (bits arg 2 0)).out = 0)
        ∧ (bits arg 4 3 = 1 → (loopAt t (bits arg 2 0)).mode = .manual ∧ (loopAt t (bits arg 2 0)).manual = ofField 16 (bits arg 31 16))
        ∧ (bits arg 4 3 = 2 → (loopAt s (bits arg 2 0)).mode = .off ∨ (loopAt s (bits arg 2 0)).mode = .manual →
            (loopAt t (bits arg 2 0)).mode = .manual ∧ (loopAt t (bits arg 2 0)).wantAuto = true)
        ∧ ∀ n, n ≠ bits arg 2 0 → loopAt t n = loopAt s n)
    ∧ (Takes .bridle src 0x000A arg s u → tapeAtRest s = true → (∃ n, n < 6 ∧ (loopAt s n).mode = .fault) → Runs (.clearFaults src arg) s fun t =>
        (∀ n, n < 6 → (loopAt s n).mode = .fault → (loopAt t n).mode = .off ∧ (loopAt t n).fe = 0) ∧ t.brd.stop = none
        ∧ (hasSlots .wrv Src.bridle 1 s = true → boxOf t .wrv = boxOf s .wrv ++ [mail Src.bridle 0x0003 0 s]))
    ∧ (Takes .bridle src 0x8001 arg s u →
        (s.brd.stop = none → Runs (.orderlyStop src arg) s fun t => t.brd.stop = some ⟨.orderly, orderlyEnd (bit arg 0) s, false⟩
            ∧ (hasSlots .fmt Src.bridle 1 s = true → boxOf t .fmt = boxOf s .fmt ++ [mail Src.bridle 0x8001 (orderlyEnd (bit arg 0) s % 2 ^ 40) s]) ∧ ctr t 0x0D0084 = satAdd (ctr s 0x0D0084) 1)
        ∧ (s.brd.stop.isSome = true → Runs (.orderlyStop src arg) s fun t => t = u))
    ∧ (∀ code, bridleKnows code = false → Takes .bridle src code arg s u → Runs (.bridleUnknownEvent src code arg) s fun t =>
        ctr t 0x0D0090 = satAdd (ctr s 0x0D0090) 1 ∧ t.brd = s.brd ∧ t.boxes = u.boxes)

/-- Sync patterns found and missed, loss of lock, residual limit, separators, receive lanes and link starts. A pattern
within its window and tolerance locks its channel, clears the rows missed, and counts what was missed before it; its
residual stays within res_limit, and its taps stand unless adaptation is enabled and the channel was LOCKED, over no
split resync. A pattern outside changes nothing. A row without a sync puts a channel that is not acquiring on the
flywheel and counts, its phase going on at its residual. The limit of missed rows, a residual at its limit and a
separator each send the channel to ACQUIRING, counted once. A lane that loses its sync header lock, or has errors in
four consecutive multiblocks, takes its link down, sends all its channels to ACQUIRING and tells management; fewer such
multiblocks are only counted. A link start brings the link up, or counts as a try; the eighth failed one leaves the link
failed. (R228, R229, R231, R232, R234, R238, R239, R240, R241, R242) -/
def Obligations.ReadChannelsKeepLock : Prop :=
  ∀ (s : State) (p : Nat), p < 132 →
    (∀ o, s.rch.ready = true → (rxAt s (linkOf p)).up = true → syncTaken s (chanAt s p) o = true → Runs (.syncFound p o) s fun t =>
        let c := chanAt s p
        let known := c.lock != .acquiring
        (chanAt t p).lock = .locked ∧ (chanAt t p).missed = 0
        ∧ (o.kind = .forward → (chanAt t p).fwd = true ∧ (chanAt t p).midMissed = sat16 (c.midMissed + b2n (known && c.fwd)))
        ∧ (o.kind = .mid → (chanAt t p).fwd = false ∧ (chanAt t p).fwdMissed = sat16 (c.fwdMissed + b2n (known && !c.fwd)) ∧ (chanAt t p).reframes = sat16 (c.reframes + b2n o.conflict))
        ∧ (chanAt t p).residual.natAbs ≤ resLimit s ∧ ((adaptEnable s = false ∨ c.lock ≠ .locked ∨ o.kind = .split) → (chanAt t p).taps = c.taps) ∧ (∀ q, q ≠ p → chanAt t q = chanAt s q))
    ∧ (∀ o, syncTaken s (chanAt s p) o = false → Runs (.syncFound p o) s fun t => t = s)
    ∧ (∀ span, (chanAt s p).lock ≠ .acquiring → Runs (.syncMissed p span) s fun t =>
        chanAt t p = { chanAt s p with lock := .flywheel, missed := min ((chanAt s p).missed + 1) 255, fwd := false, dec := decimationStep s (chanAt s p).dec,
                                       phase := advancePhase (chanAt s p).phase 4128 (chanAt s p).residual, fwdMissed := sat16 ((chanAt s p).fwdMissed + 1), midMissed := sat16 ((chanAt s p).midMissed + 1 + b2n (chanAt s p).fwd),
                                       splitMissed := sat16 ((chanAt s p).splitMissed + b2n span) }
        ∧ (∀ q, q ≠ p → chanAt t q = chanAt s q))
    ∧ ((chanAt s p).lock ≠ .acquiring →
        (lockLossRows s ≤ (chanAt s p).missed → Runs (.lockLoss p) s fun t =>
          chanAt t p = { chanAt s p with lock := .acquiring, fwd := false, acquires := satAdd (chanAt s p).acquires 1 } ∧ ∀ q, q ≠ p → chanAt t q = chanAt s q)
        ∧ ((chanAt s p).residual.natAbs = resLimit s → Runs (.residualLimit p) s fun t =>
          chanAt t p = { chanAt s p with lock := .acquiring, fwd := false, acquires := satAdd (chanAt s p).acquires 1 } ∧ ∀ q, q ≠ p → chanAt t q = chanAt s q)
        ∧ (s.rch.ready = true → Runs (.separatorDetected p) s fun t =>
          chanAt t p = { chanAt s p with lock := .acquiring, fwd := false, acquires := satAdd (chanAt s p).acquires 1 } ∧ ∀ q, q ≠ p → chanAt t q = chanAt s q))
    ∧ (∀ l n, l < 12 → (rxAt s (l / 3)).up = true → 0 < n → n < 4 → Runs (.rxLaneFail l n) s fun t =>
        rxAt t (l / 3) = { rxAt s (l / 3) with crcErrors := sat16 ((rxAt s (l / 3)).crcErrors + n) } ∧ t.boxes = s.boxes ∧ ∀ q, chanAt t q = chanAt s q)
    ∧ (∀ l n, l < 12 → (rxAt s (l / 3)).up = true → n = 0 ∨ 4 ≤ n → Runs (.rxLaneFail l n) s fun t =>
        (rxAt t (l / 3)).up = false ∧ (rxAt t (l / 3)).aligned = false ∧ (rxAt t (l / 3)).tries = 0 ∧ (n = 0 → bit (rxAt t (l / 3)).lanesLocked (l % 3) = false)
        ∧ (∀ q ∈ linkChannels (l / 3), (chanAt t q).lock = .acquiring) ∧ (∀ q, q ∉ linkChannels (l / 3) → chanAt t q = chanAt s q)
        ∧ (s.boxes.mgt.length < 1024 → boxOf t .mgt = boxOf s .mgt ++ [mail Src.chan 0x1301 (l / 3) s]))
    ∧ (∀ k, k < 4 → (rxAt s k).up = false → (rxAt s k).failed = false → domOn s 7 = true →
        (Runs (.jesdLinkRestart k true) s fun t => (rxAt t k).up = true ∧ (rxAt t k).aligned = true ∧ (rxAt t k).lanesLocked = 7 ∧ (rxAt t k).tries = 0)
        ∧ (Runs (.jesdLinkRestart k false) s fun t => (rxAt t k).up = false ∧ (rxAt t k).tries = (rxAt s k).tries + 1 ∧ ((rxAt t k).failed = true ↔ 8 ≤ (rxAt s k).tries + 1)))

/-- Decoder results, the recovery ladder's passes, the wait for the Yard, and read-ahead. Rows read of a data set are
decoded and its decoder is free. A data set decoded in whole and with its DSIT as expected is counted, kept in read
staging (read-ahead: in its ring, newest last) and noted as last read. The data set that the tape was moved to, not
decoded, begins the ladder with its row pool at rung 1, or 2 when no reread is allowed. A ladder pass that decodes, on
top of the pool, ends the ladder and is counted for its rung. One that does not takes the next pass with the pool it
leaves: the rereads, three slow passes, other placements when there are any, the Loft when it is closed and allowed, the
Yard when the partition is in one; past the last rung the ladder has failed, counted. What C3 gives at rung 4 goes with
the recovered DSIT when that holds, else with one rebuilt. With no command left that needs the data set the ladder ends.
No answer of the Yard in time fails it. Read-ahead starts after two ascending reads while the tape runs free. (R246,
R247, R248, R249, R250, R251, R252, R254, R325, R472) -/
def Obligations.DataSetsAreDecodedAndRecovered : Prop :=
  ∀ (s : State) (r : DecodeRes),
    (r.part < 4 → mem? s.rch.busy r.decoder = true →
      let rows := decodeRows r.part r.ds false [] r.rows (freeDecoder r.decoder s)
      let x := attempt r.part r.ds (poolOf rows.1) rows.2
      Runs (.dataSetDecoded r) s fun t => t.rch.busy = AMap.erase s.rch.busy r.decoder
        ∧ (∀ b, x.1 = some b →
            ctr t 0x0B0100 = satAdd (ctr s 0x0B0100) 1 ∧ t.rch.lastRead = some (r.part, r.ds)
            ∧ t.rch.seek = (if s.rch.seek = some (r.part, r.ds) then none else s.rch.seek)
            ∧ (s.rch.readAhead = false → ∃ y ∈ t.rch.staging, y.part = r.part ∧ y.ds = r.ds ∧ y.stream = b)
            ∧ (s.rch.readAhead = true → s.rch.raPart = r.part → s.rch.seek ≠ some (r.part, r.ds) → 0 < readAheadSlots s → t.rch.raRing.getLast? = some (r.part, r.ds, b)))
        ∧ (x.1 = none → s.rch.seek = some (r.part, r.ds) → s.rch.ladder = none →
            t.rch.ladder = some ⟨r.part, r.ds, if rereadCount s = 0 then .slow else .reread, 0, x.2.1⟩ ∧ t.rch.readAhead = false
            ∧ ∀ y ∈ t.rch.staging, ¬(y.part = r.part ∧ y.ds = r.ds))
        ∧ (x.1 = none → setWanted s r.part r.ds = false → t.rch.ladder = s.rch.ladder ∧ t.hq = s.hq))
    ∧ (∀ l : Ladder, s.rch.ladder = some l → l.part = r.part → l.ds = r.ds → l.st ≠ .yard →
        (needers s l.part l.ds = [] → served s l.part l.ds = false → Runs (.ladderPassResult r) s fun t => t.rch.ladder = none ∧ t.rch.seek = none ∧ t.rch.weak = s.rch.weak)
        ∧ (needers s l.part l.ds ≠ [] → l.st ≠ .loft →
            let rows := decodeRows l.part l.ds (l.st == .placements) l.pool r.rows (freeDecoder r.decoder s)
            let x := attempt l.part l.ds (poolOf rows.1) rows.2
            Runs (.ladderPassResult r) s fun t =>
              (∀ b, x.1 = some b →
                t.rch.ladder = none ∧ t.rch.seek = none ∧ t.rch.lastRead = some (r.part, r.ds) ∧ ctr t (0x0B0100 + 4 * rungOf l.st) = satAdd (ctr s (0x0B0100 + 4 * rungOf l.st)) 1
                ∧ ∃ y ∈ t.rch.staging, y.part = r.part ∧ y.ds = r.ds ∧ y.stream = b)
              ∧ (x.1 = none →
                (l.st = .reread → l.done + 1 < rereadCount s → t.rch.ladder = some { l with pool := x.2.1, done := l.done + 1 })
                ∧ (l.st = .reread → rereadCount s ≤ l.done + 1 → t.rch.ladder = some { l with pool := x.2.1, st := .slow, done := 0 })
                ∧ (l.st = .slow → l.done < 2 → t.rch.ladder = some { l with pool := x.2.1, done := l.done + 1 })
                ∧ (l.st = .slow → 2 ≤ l.done → otherPlacements s l.part l.ds = true → t.rch.ladder = some { l with pool := x.2.1, st := .placements, done := 0 })
                ∧ (l.st = .placements → loftEnable s = true → loftClosed s l.part l.ds = true → t.rch.ladder = some { l with pool := x.2.1, st := .loft, done := 0 })))
        ∧ (needers s l.part l.ds ≠ [] → l.st = .loft →
            let read := readMembers l.part (l.ds / 32) r.others (freeDecoder r.decoder s)
            let c3 := loftSolve (loftMembers read.2 l read.1) (l.ds % 32)
            Runs (.ladderPassResult r) s fun t =>
              (∀ u, c3 = .user u → poolBytes l.pool userArea dsitSize = none →
                t.rch.ladder = none ∧ ctr t 0x0B0110 = satAdd (ctr s 0x0B0110) 1 ∧ ctr t 0x05011C = satAdd (ctr s 0x05011C) 1 ∧ ctr t 0x0B0120 = satAdd (ctr s 0x0B0120) 1)
              ∧ (∀ u d, c3 = .user u → poolBytes l.pool userArea dsitSize = some d → streamExpected read.2 l.part l.ds (u ++ d) = true →
                t.rch.ladder = none ∧ ctr t 0x0B0110 = satAdd (ctr s 0x0B0110) 1 ∧ ctr t 0x05011C = satAdd (ctr s 0x05011C) 1 ∧ ctr t 0x0B0120 = ctr s 0x0B0120
                ∧ ∃ y ∈ t.rch.staging, y.part = r.part ∧ y.ds = r.ds ∧ y.stream = u ++ d)
              ∧ (c3 = .none ∨ c3 = .checkFail → yardEnable s = true → (partAt s l.part).yardMember = true →
                t.rch.ladder = some { l with st := .yard, done := 0 }
                ∧ (hasSlots .yard Src.fmt 1 s = true → boxOf t .yard = boxOf s .yard ++ [mail Src.fmt 0x0004 (l.ds % 2 ^ 32 + l.part * 2 ^ 32) s]))
              ∧ (c3 = .none ∨ c3 = .checkFail → (yardEnable s = false ∨ (partAt s l.part).yardMember = false) →
                t.rch.ladder = none ∧ t.rch.seek = none ∧ ctr t 0x0B0118 = satAdd (ctr s 0x0B0118) 1
                ∧ ∀ c ∈ needers s l.part l.ds, ∃ d, findCmd t c.seq = some d ∧ d.st = .completing ∧ d.status = Status.readError)))
    ∧ (∀ l, s.rch.ladder = some l → l.st = .yard → Runs .yardWaitExpiry s fun t => t.rch.ladder = none ∧ t.rch.seek = none ∧ ctr t 0x0B0118 = satAdd (ctr s 0x0B0118) 1)
    ∧ (∀ p, 2 ≤ (partAt s p).ascending → s.wrv.windowOpen = false → s.rch.ladder = none → s.rch.seek = none → s.brd.motion = .running →
        (s.hq.cmds.any fun c => c.ring != 32 && c.st == .running && [0x04, 0x07, 0x08, 0x09].contains c.e.opcode) = false → s.rch.readAhead = false → s.shd.ready = true →
        Runs (.readAheadStart p) s fun t => t.rch = { s.rch with readAhead := true, raPart := p })

/-- Packet copies into the Shed, programmed units, journal units, and the spill ring's low mark, returns and releases. A
stored packet is copied at its ring's head and its write counts it; one that a limit stops leaves the ring marked full.
A programmed data unit maps its logical unit; a complete row whose last unit it is leaves the open rows. A row held too
long is filled with padding and its parity. Pending records go into a journal unit, 2,044 at most, the oldest first; a
durable one leaves the units in flight: a SHELTER record advances its write, an ERASED record opens its block. At the
low mark Sheltered packets of a Taken write lose their buffer copies, and no others, until enough is free. While the
Shed transfer Stable grants its Stalls, a batch to return is announced to the formatter and stands in their chain. A
released write leaves the index, and its ring's tail advances to the first byte that another still needs. (R309, R313,
R315, R316, R317, R318, R319, R326, R327, R338) -/
def Obligations.PacketsAreShelteredSpilledAndReleased : Prop :=
  ∀ (s : State),
    (∀ p w r k, p < 4 → s.shd.ready = true → copyNext s p = some w → findWrite s w.seq = some w → partRing s p = some r → w.pkts[w.copied]? = some k → k.st = .stored →
        (spillBlocked s r k.stored.length = true → Runs (.shedPacketCopy p) s fun t => (spillAt t r).full = true ∧ t.hq = s.hq)
        ∧ (spillBlocked s r k.stored.length = false → Runs (.shedPacketCopy p) s fun t => ∃ w', findWrite t w.seq = some w' ∧ w'.copied = w.copied + 1 ∧ w'.ring = some r
            ∧ (w'.pkts[w.copied]?).map Pkt.spillOff = some (spillAt s r).head ∧ (k.stored.length ≤ 2 ^ 19 → (spillAt s r).buf.length < 65536 → (spillAt s r).head = (spillAt s r).issued + (spillAt s r).buf.length →
              (spillAt s r).head + k.stored.length ≤ (spillAt t r).head)))
    ∧ (∀ u r x, (s.shd.rows.find? fun r => r.left.contains u) = some r → AMap.get? s.shd.units u = some x →
        Runs (.unitProgramDone u) s fun t => t.shd.nandUnits = s.shd.nandUnits + 1
          ∧ (x.role = 0 → x.stream ≠ 2 → s.shd.rows = [r] → r.left ≠ [u] → mapOf t x.logical = some u)
          ∧ (r.complete = true → r.left = [u] → r.issued.contains u = true → s.shd.rows = [r] → t.shd.rows = []))
    ∧ (∀ st g r, rowFilling s st g = some r → r.issued ≠ [] → r.issued.length ≤ 15 → s.shd.rows = [r] → (st ≠ 0 ∨ ((∀ k, (spillAt s k).buf = []) ∧ s.shd.queue = [])) →
        Runs (.rowHoldExpiry st g) s fun t => ctr t 0x0E0124 = satAdd (ctr s 0x0E0124) 1
          ∧ ∃ x, t.shd.rows = [x] ∧ x.complete = true ∧ x.issued.length = 16 ∧ x.issued.take r.issued.length = r.issued)
    ∧ (∀ c ∈ [Instr.journalRecordsPending, .journalFlushExpiry], s.shd.pendingRecs ≠ [] → (c = .journalFlushExpiry ∨ 2044 ≤ s.shd.pendingRecs.length) → Runs c s fun t =>
        t.shd.journals = s.shd.journals ++ [(s.shd.pageSeq, s.shd.pendingRecs.take 2044)] ∧ t.shd.pendingRecs = s.shd.pendingRecs.drop 2044 ∧ t.shd.pageSeq = s.shd.pageSeq + 1)
    ∧ (∀ j js, s.shd.journals = j :: js → Runs .journalUnitDurable s fun t => t.shd.journals = js ∧ t.shd.jlog = s.shd.jlog ++ [j]
        ∧ (∀ r p f n v o l e b w, j.2 = [.shelter r p f n v o l e b] → findWrite s v = some w → ∃ w', findWrite t v = some w' ∧ w'.sheltered = max w.sheltered (f + n))
        ∧ (∀ b n st, j.2 = [.erased b n st] → (blkAt s b).st = .erasing → s.shd.queue = [] → (blkAt t b).st = .opened))
    ∧ (∀ w, freeCount (stableAt s 1) < Cfgw.spillLow s → s.hq.writes = [w] → w.taken = true → Runs .spillLow s fun t =>
        ∃ w', t.hq.writes = [w'] ∧ w'.freed ≤ max w.freed w.sheltered ∧ (Cfgw.spillLow s + 1024 ≤ freeCount (stableAt t 1) ∨ w.sheltered ≤ w'.freed))
    ∧ (∀ w hs, s.hq.writes = [w] → s.cfg.dusk = none → 0 < toReturn s w →
        let lo := max w.formatted (AMap.getD s.shd.returned w.seq 0)
        let hi := lo + min (toReturn s w) 1024
        returnedBytes s + w.storedSum lo hi ≤ Cfgw.returnAhead s * 2 ^ 20 → (returnStalls (ceilDiv (w.storedSum lo hi) 262144) s).1 = some hs →
        Runs (.shedReturnRead w.part) s fun t =>
          (hasSlots .fmt Src.shed 1 s = true → boxOf t .fmt = boxOf s .fmt ++ [mail Src.shed 0x0002 (min (toReturn s w) 1024 + w.part % 4 * 2 ^ 32) s])
          ∧ AMap.getD t.shd.returned w.seq 0 = hi ∧ t.shd.retChains = s.shd.retChains ++ [⟨w.seq, lo, hi, hs⟩])
    ∧ (∀ q w, findWrite s q = some w → released s w = true → Runs (.spillRelease q) s fun t =>
        findWrite t q = none ∧ ∀ r, w.ring = some r → (spillAt t r).tail = max (spillAt s r).tail (newTail t r))

/-- Checkpoints, garbage collection, verify and failures of blocks and units. A checkpoint begins after 1 GiB of programs or
at its interval; one asked for while another runs follows it. A durable one replaces the last and frees every RELEASING
block whose invalidations all lie below its horizon. Collection starts on a die at the low mark with the VERIFIED block
of the fewest valid units as its victim, and stops at the high mark; a victim's valid unit is copied through stream 2.
An erased block counts its erase and is journaled. A block read back within the limit is VERIFIED, or at once RELEASING
when nothing in it is valid; else it is retired, as is one that fails a program or an erase, each counted. A lost unit
is counted: a landing block is lost until written again, a weak entry leaves the list, a spill unit without buffer
copies enters its records in the Loss Log. (R329, R330, R331, R332, R333) -/
def Obligations.TheShedKeepsItsBlocks : Prop :=
  ∀ (s : State),
    (s.cfg.dusk = none → s.shd.ready = true → ∀ c ∈ [Instr.checkpointBytes, .checkpointInterval], (c = .checkpointInterval ∨ 16384 ≤ s.shd.sinceCkpt) →
        (s.shd.ckptActive = false → Runs c s fun t => t.shd.ckptActive = true ∧ t.shd.sinceCkpt = 0 ∧ t.shd.ckptSnap.any (fun k => k.horizon == s.shd.pageSeq && k.map == s.shd.map) = true)
        ∧ (s.shd.ckptActive = true → Runs c s fun t => t.shd = { s.shd with ckptAgain := true }))
    ∧ (∀ k, s.shd.ckptActive = true → s.shd.ckptSnap = some k → s.shd.ckptAgain = false → Runs .checkpointDurable s fun t =>
        t.shd.ckpt = some k ∧ t.shd.ckptActive = false ∧ t.shd.ckptSnap = none ∧ ctr t 0x0E0108 = satAdd (ctr s 0x0E0108) 1
        ∧ ∀ b, (blkAt s b).st = .releasing → (blkAt s b).invalPending = false → (blkAt s b).lastInval < k.horizon → (blkAt t b).st = .free)
    ∧ (∀ d, s.shd.ready = true → s.cfg.dusk = none → d < s.shd.dies → mem? s.shd.gc d = false → freeBlocks s d < Cfgw.gcLow s → Runs (.gcStart d) s fun t =>
        mem? t.shd.gc d = true ∧ ∀ b, victimOf s d = some b → AMap.get? t.shd.victims d = some b ∧ ((blkAt t b).st = .victim ∨ (blkAt t b).st = .releasing))
    ∧ (∀ d, mem? s.shd.gc d = true → Cfgw.gcHigh s ≤ freeBlocks s d → Runs (.gcStop d) s fun t =>
        t.shd = { s.shd with gc := AMap.erase s.shd.gc d, victims := AMap.erase s.shd.victims d })
    ∧ (∀ u l x, AMap.get? s.shd.victims (dieOfBlock s (blockOfUnit s u)) = some (blockOfUnit s u) → (blkAt s (blockOfUnit s u)).st = .victim → copying s u = false → s.cfg.dusk = none → s.shd.queue = [] →
        (s.shd.map.find? fun (_, v) => v == u) = some (l, u) → AMap.get? s.shd.units u = some x → Runs (.unitReadDone u) s fun t => copying t u = true)
    ∧ (∀ b st, (blkAt s b).st = .erasing → (blkAt s b).stream = st → Runs (.blockErased b st) s fun t =>
        blkAt t b = { blkAt s b with erases := (blkAt s b).erases + 1, lastInval := 0, invalPending := false } ∧ t.shd.pendingRecs = s.shd.pendingRecs ++ [.erased b ((blkAt s b).erases + 1) st])
    ∧ (∀ b n, (blkAt s b).st = .closed → s.cfg.dusk = none →
        (n ≤ Cfgw.verifyLimit s → Runs (.readVerifyResult b n true) s fun t => ((blkAt t b).st = .verified ∨ (blkAt t b).st = .releasing) ∧ t.shd.correctedBits = s.shd.correctedBits + n)
        ∧ (AMap.wf s.shd.blocks = true → Runs (.readVerifyResult b n false) s fun t => (blkAt t b).st = .retired ∧ t.shd.uncorrectable = s.shd.uncorrectable + 1 ∧ t.shd.verifyFails = s.shd.verifyFails + 1
            ∧ ctr t 0x0E0118 = satAdd (ctr s 0x0E0118) 1))
    ∧ (AMap.wf s.shd.blocks = true →
        (∀ u r, (s.shd.rows.find? fun r => r.left.contains u) = some r → Runs (.nandProgramFailure u) s fun t =>
            (blkAt t (blockOfUnit s u)).st = .retired ∧ t.shd.programFails = s.shd.programFails + 1 ∧ ctr t 0x0E0110 = satAdd (ctr s 0x0E0110) 1)
        ∧ (∀ b, (blkAt s b).st = .erasing → Runs (.nandEraseFailure b) s fun t =>
            (blkAt t b).st = .retired ∧ t.shd.eraseFails = s.shd.eraseFails + 1 ∧ ctr t 0x0E0114 = satAdd (ctr s 0x0E0114) 1))
    ∧ (∀ u l x, (s.shd.map.find? fun (_, v) => v == u) = some (l, u) → AMap.get? s.shd.units u = some x →
        (Runs (.shedUnitLost u) s fun t => t.shd.lostUnits = s.shd.lostUnits + 1 ∧ ctr t 0x0E011C = satAdd (ctr s 0x0E011C) 1)
        ∧ (0x4000000 ≤ l → l < 0x6000000 → AMap.wf s.shd.map = true → Runs (.shedUnitLost u) s fun t => mapOf t l = none ∧ mem? t.shd.lostLanding (l - 0x4000000) = true ∧ t.shd.lossLog = s.shd.lossLog)
        ∧ (0x6000000 ≤ l → l < 0x612C000 → Runs (.shedUnitLost u) s fun t => t.rch.weak = s.rch.weak.filter fun w => w.slot != (l - 0x6000000) / 300)
        ∧ (∀ w i n, l < 0x4000000 → s.hq.writes = [w] → w.ring = some (beAt x.region 0 1) →
            recordsIn w (fun j => decide (w.copied > j) && decide (j < w.freed)
              && ((w.pkts[j]?).map fun k => decide (k.spillOff < beAt x.region 8 6 + 65536 ∧ beAt x.region 8 6 < k.spillOff + k.stored.length)).getD false) = some (i, n) →
            Runs (.shedUnitLost u) s fun t => ∃ e, t.shd.lossLog = s.shd.lossLog ++ [e] ∧ e.first = w.first + i ∧ e.count = n ∧ e.cause = 3 ∧ e.part = w.part))

/-- Dusk, its domains, reset, power loss and lost clock inputs. Dusk begins once: no command is fetched any more, MB_BRIDLE
gets the urgent orderly stop, collection and checkpoints cease, and no activation stands. With writing ended its domains
are switched off, with the fabric and the receive links. When every Taken packet is Sheltered, or the Shed was never up,
the device enters reset: fuses, service area, key area, host, cartridge and NOR memory, NAND contents and the commands
that wait are kept, commands and writes are gone; a DUSK record ends the journal; after PFAIL_N reset holds until it
deasserts, else Dawn begins. Power loss keeps the same without a Dusk and forgets the I3C target. A lost clock of a port
acts as its link down, of the fabric takes its ports down, of the AFE its links, and the system clock begins Dusk.
(R338, R340, R430, R446, R452, R453, R454, R458) -/
def Obligations.DuskAndPowerLossKeepWhatSurvives : Prop :=
  ∀ (s : State),
    (∀ cause, s.cfg.st ≠ .reset → s.cfg.dusk = none → Runs (.duskBegin cause) s fun t =>
        t.cfg.dusk = some { cause := cause } ∧ t.hq.stopFetch = true ∧ (hasSlots .bridle Src.aon 1 s = true → boxOf t .bridle = boxOf s .bridle ++ [mail Src.aon 0x8001 1 s]) ∧ t.shd.gc = [] ∧ t.shd.victims = []
        ∧ t.shd.ckptActive = false ∧ t.mgt.activation = none ∧ t.rch.readAhead = false ∧ t.cfg.pfail = (s.cfg.pfail || decide (cause = .pfail)))
    ∧ (∀ d, s.cfg.dusk = some d → d.domainsOff = false → s.wrv.windowOpen = false → Runs .duskDomainsOff s fun t =>
        t.cfg.dusk = some { d with domainsOff := true } ∧ (∀ n ∈ duskDomains, domOn t n = false) ∧ (∀ n, 1 ≤ n → n ∉ duskDomains → domOn t n = domOn s n)
        ∧ t.fab.ready = false ∧ t.fab.routes = [] ∧ (∀ k, (rxAt t k).up = false) ∧ t.hq.portA.linkUp = false ∧ t.hq.portB.linkUp = false)
    ∧ (∀ d, s.cfg.dusk = some d → d.domainsOff = true → (s.shd.ready = false ∨ duskSheltered s = true) → Runs .duskComplete s fun t =>
        t.cfg.dusk = none ∧ (d.cause = .pfail → s.cfg.pfail = true → t.cfg.st = .reset ∧ t.cfg.pfail = true) ∧ (d.cause = .reset → t.cfg.st = .d0 ∧ t.cfg.pfail = false)
        ∧ t.hostMem = s.hostMem ∧ t.cartMem = s.cartMem ∧ t.norMem = s.norMem ∧ t.pending = s.pending ∧ t.cfg.fuses = s.cfg.fuses ∧ t.cfg.serviceArea = s.cfg.serviceArea
        ∧ t.cip.keyArea = s.cip.keyArea ∧ t.shd.lossLog = s.shd.lossLog ∧ t.hq.cmds = [] ∧ t.hq.writes = [] ∧ t.mgt.i3cAddr = s.mgt.i3cAddr
        ∧ (s.shd.ready = false → t.shd.units = s.shd.units ∧ t.shd.jlog = s.shd.jlog)
        ∧ (s.shd.ready = true → ∃ clock, t.shd.jlog = s.shd.jlog ++ [(s.shd.pageSeq, s.shd.pendingRecs ++ [.dusk (if d.cause = .pfail then 1 else 2) clock])]))
    ∧ (s.cfg.pfail = true → Runs .pfailDeassert s fun t => t.cfg.pfail = false ∧ t.cfg.st = (if s.cfg.st = .reset then .d0 else s.cfg.st))
    ∧ (Runs .powerLoss s fun t =>
        t.cfg.st = .reset ∧ t.cfg.dusk = none ∧ t.cfg.pfail = false ∧ t.hostMem = s.hostMem ∧ t.cartMem = s.cartMem ∧ t.norMem = s.norMem ∧ t.pending = s.pending ∧ t.cfg.fuses = s.cfg.fuses
        ∧ t.cfg.serviceArea = s.cfg.serviceArea ∧ t.cip.keyArea = s.cip.keyArea ∧ t.shd.units = s.shd.units ∧ t.shd.jlog = s.shd.jlog ∧ t.shd.ckpt = s.shd.ckpt
        ∧ t.hq.cmds = [] ∧ t.hq.writes = [] ∧ t.ctrs = [] ∧ t.mgt = {})
    ∧ (Runs (.clockInputLost .pcieA) s fun t => exec (.linkDown .a) s = .next t)
    ∧ (Runs (.clockInputLost .pcieB) s fun t => exec (.linkDown .b) s = .next t)
    ∧ (Runs (.clockInputLost .fabric) s fun t => ∀ p, p < 4 → (portAt t p).st = .down)
    ∧ (Runs (.clockInputLost .afe) s fun t => ∀ k, k < 4 → (rxAt t k).up = false ∧ ((rxAt s k).up = true → ∀ q ∈ linkChannels k, (chanAt t q).lock = .acquiring))
    ∧ (s.cfg.st ≠ .reset → s.cfg.dusk = none → Runs (.clockInputLost .sys) s fun t => t.cfg.dusk = some { cause := .reset } ∧ t.hq.stopFetch = true)

/-- The stages of Dawn. COLD_START begins D0 with the fuses blown at manufacture. D0 checks the fuse CRC: bad, the device
goes to Dawn hold with the functions of both ports on; good, the nonce prefix is taken and D1 begins. D1 examines each
slot not failed before and takes the valid one of the higher boot sequence, slot A on ties; with none it holds. D2
refuses an image whose records do not parse or do not pass the check, and goes to the other slot or to hold; else the
records, then those of the service area that pass, take effect and the key store is ready. D3 ends FAULTED when a
required resource fails; else the Shed, the Bridle and the fabric are ready and D4 begins. D4 loads the calibrated taps,
or ends FAULTED when its segment has changed. D5 puts the device in service. (R235, R398, R399, R403, R404, R405, R407,
R414, R415, R451) -/
def Obligations.DawnBringsTheMachineUp : Prop :=
  ∀ (s : State),
    (∀ f, s.cfg.st = .reset → s.cfg.pfail = false → Runs (.coldStart f) s fun t => t.cfg.st = .d0 ∧ t.cfg.stage = 0 ∧ t.cfg.fuses = some (s.cfg.fuses.getD f))
    ∧ (s.cfg.st = .d0 →
        ((fusesOf s).crc ≠ crc32 (fuseBytes (fusesOf s)) → Runs .dawnD0Done s fun t => t.cfg.st = .hold ∧ t.hq.portA.functionsOn = true ∧ t.hq.portB.functionsOn = true
            ∧ (∀ n, 1 ≤ n → (domOn t n = true ↔ n ∈ [1, 3, 15, 22, 23, 24, 25, 28, 29])))
        ∧ ((fusesOf s).crc = crc32 (fuseBytes (fusesOf s)) → Runs .dawnD0Done s fun t => t.cfg.st = .d1 ∧ t.cfg.stage = 1 ∧ t.cip.noncePrefix = (fusesOf s).noncePrefix
            ∧ t.hq.portA.training = !s.hq.portA.perst ∧ t.hq.portB.training = !s.hq.portB.perst))
    ∧ (s.cfg.st = .d1 → Runs .dawnD1Done s fun t =>
        let ok := fun k => !s.cfg.failedD2.contains k && examine (fusesOf s) s k == 1
        (ok 0 = false → ok 1 = false → t.cfg.st = .hold)
        ∧ (ok 0 = true ∨ ok 1 = true → t.cfg.st = .d2 ∧ t.cfg.bootSlot < 2 ∧ ok t.cfg.bootSlot = true
            ∧ (t.cfg.bootSlot = 0 ↔ ok 0 = true ∧ (ok 1 = true → bootSeqOf (headerAt s 1) ≤ bootSeqOf (headerAt s 0))))
        ∧ (s.cfg.failedD2.contains 0 = false → t.cfg.slotA = examine (fusesOf s) s 0) ∧ (s.cfg.failedD2.contains 1 = false → t.cfg.slotB = examine (fusesOf s) s 1))
    ∧ (∀ bad, s.cfg.st = .d2 → s.cfg.bootSlot < 2 → Runs (.dawnD2Done bad) s fun t =>
        match slotRecords s s.cfg.bootSlot with
        | none => slotStatus t s.cfg.bootSlot = 9 ∧ s.cfg.bootSlot ∈ t.cfg.failedD2 ∧ t.cfg.st = (if slotStatus s (1 - s.cfg.bootSlot) = 1 then .d1 else .hold)
        | some recs =>
          match checkSet .dawn [] recs with
          | some _ => slotStatus t s.cfg.bootSlot = 9 ∧ s.cfg.bootSlot ∈ t.cfg.failedD2 ∧ t.cfg.st = (if slotStatus s (1 - s.cfg.bootSlot) = 1 then .d1 else .hold)
          | none => t.cfg.st = .d3 ∧ t.cip.ready = true ∧ ∃ svc, (∀ r ∈ svc, r ∈ s.cfg.serviceArea)
              ∧ t.cfg.records = applyRecs (applyRecs [] (recs.filter fun r => !ignored r)) svc)
    ∧ (∀ r : D3Res, s.cfg.st = .d3 → Runs (.dawnD3Done r) s fun t =>
        let u := d3Record r s
        let good := dramTrained u && decide (packetMinimum (Cfgw.exposureMiB s) ≤ (stableSizes u).getD 1 0) && nandFits r && decide (4 ≤ r.lanes.length) && r.lanes.all id && r.railsGood
        t.shd.dies = r.dies ∧ (good = false → t.cfg.st = .faulted)
        ∧ (good = true → t.cfg.st = .d4 ∧ t.shd.ready = true ∧ t.brd.ready = true ∧ t.fab.ready = true ∧ t.stk.scrubActive = true ∧ t.stk.ready = true
            ∧ ∀ k, k < 4 → (rxAt t k).up = r.linksUp.getD k false))
    ∧ (∀ r : D4Res, s.cfg.st = .d4 →
        (r.hashOk = false → Runs (.dawnD4Done r) s fun t => t.cfg.st = .faulted)
        ∧ (r.hashOk = true → Runs (.dawnD4Done r) s fun t => t.cfg.st = .d5 ∧ t.rch.ready = true ∧ t.rch.chans.length = 132
            ∧ ∀ p c x, p < 132 → r.taps = [(p, c, x)] → AMap.get? (chanAt t p).initial c = some x))
    ∧ (∀ a b, s.cfg.st = .d5 → Runs (.dawnD5 a b) s fun t => t.cfg = { s.cfg with st := .service, d3ms := a % 65536, totalMs := b % 65536 } ∧ t.hq = s.hq)

/-- Fabric ports: signal, training, HELLO, lanes lost and back, replays and their limit. Signal on an enabled DOWN port
starts training; a trained lane comes into service and ends training; a timeout starts it again. The HELLO timer sends
one intact HELLO flit. A HELLO that hears this node, without conflict, brings the port UP with its neighbour and a new
LSA; one of this node's own ID with another nonce prefix is counted, and the higher prefix yields. A lost lane, or one
with too many FEC errors, is removed and counted; the port goes DOWN with its last. A removed lane rejoins; a retry
alone changes nothing. Silence takes an UP port DOWN: it is counted and the routes over it are gone. An UP port sends
its unacknowledged flits again when their time expires; eight times without progress take it DOWN. (R383, R385, R386,
R388, R392, R395) -/
def Obligations.PortsComeUpAndGoDown : Prop :=
  ∀ (s : State) (p : Nat), p < 4 →
    (∀ n, s.fab.ready = true → domOn s (24 + p / 2) = true →
        ((portAt s p).st = .down → Cfgw.portEnable s p = true → n % 4 ≠ 0 → Runs (.sfSignalDetect p n) s fun t => portAt t p = { portAt s p with signal := n % 4, st := .training })
        ∧ ((portAt s p).st ≠ .down → Runs (.sfSignalDetect p n) s fun t => portAt t p = { portAt s p with signal := n % 4 }))
    ∧ (∀ l, l < 2 → (portAt s p).st ≠ .down → bit (portAt s p).removed l = false → bit (portAt s p).lanes l = false → Runs (.sfLaneTrained p l) s fun t =>
        bit (portAt t p).lanes l = true ∧ (portAt t p).st = (if (portAt s p).st = .training then .hello else (portAt s p).st)
        ∧ t.fab.lsaSeq = (if (portAt s p).st = .up then s.fab.lsaSeq + 1 else s.fab.lsaSeq))
    ∧ ((portAt s p).st = .training → Runs (.sfTrainingTimeout p) s fun t => portAt t p = { portAt s p with lanes := 0 })
    ∧ ((portAt s p).st = .hello ∨ (portAt s p).st = .up → (portAt s p).owed.length = 4 → Runs (.helloSendTimer p) s fun t =>
        ∃ b, (portAt t p).sent = (portAt s p).sent ++ [b] ∧ b.length = 256 ∧ flitIntact b = true ∧ (Flit.read b).type = 3 ∧ (Flit.read b).payload = (helloFlit s p).payload)
    ∧ (∀ b, flitIntact b = true → (Flit.read b).type = 3 → (portAt s p).st = .hello →
        (beAt (Flit.read b).payload 8 2 = nodeId s → s.fab.conflict = false → bit (beAt (Flit.read b).payload 10 1) 0 = false → beAt (Flit.read b).payload 0 2 ≠ 0 →
          beAt (Flit.read b).payload 0 2 ≠ nodeId s → Runs (.flitHello p b) s fun t =>
            (portAt t p).st = .up ∧ (portAt t p).neighbour = beAt (Flit.read b).payload 0 2 ∧ t.fab.lsaSeq = s.fab.lsaSeq + 1)
        ∧ (beAt (Flit.read b).payload 8 2 ≠ nodeId s → beAt (Flit.read b).payload 0 2 ≠ nodeId s → Runs (.flitHello p b) s fun t =>
            (portAt t p).st = .hello ∧ (portAt t p).neighbour = beAt (Flit.read b).payload 0 2)
        ∧ (beAt (Flit.read b).payload 0 2 = nodeId s → beAt (Flit.read b).payload 2 4 ≠ s.cip.noncePrefix → Runs (.flitHello p b) s fun t =>
            ctr t 0x100210 = satAdd (ctr s 0x100210) 1 ∧ t.fab.conflict = (s.fab.conflict || decide (beAt (Flit.read b).payload 2 4 < s.cip.noncePrefix))))
    ∧ ((portAt s p).st = .up → Runs (.helloLossTimeout p) s fun t =>
        (portAt t p).st = .down ∧ (∀ r ∈ t.fab.routes, r.2.port ≠ p) ∧ ctr t (fabCtr p 0x24) = satAdd (ctr s (fabCtr p 0x24)) 1 ∧ t.fab.lsaSeq = s.fab.lsaSeq + 1)
    ∧ (∀ l, l < 2 → bit (portAt s p).lanes l = true → ∀ c ∈ [Instr.sfLaneLoss p l, .fecUncorrLimit p l], Runs c s fun t =>
        ctr t (fabCtr p 0x20) = satAdd (ctr s (fabCtr p 0x20)) 1
        ∧ (setBits (portAt s p).lanes l l 0 = 0 → (portAt t p).st = .down)
        ∧ (setBits (portAt s p).lanes l l 0 ≠ 0 → (portAt t p).st = (portAt s p).st ∧ bit (portAt t p).lanes l = false ∧ bit (portAt t p).removed l = true)
        ∧ (c = .fecUncorrLimit p l → satAdd (ctr s (fabCtr p 0x1C)) (bits (Cfgw.fabCfg s) 15 8 + 1) ≤ ctr t (fabCtr p 0x1C)))
    ∧ (∀ l, l < 2 → bit (portAt s p).removed l = true → (portAt s p).st ≠ .down → Runs (.laneRejoin p l) s fun t =>
        bit (portAt t p).lanes l = true ∧ bit (portAt t p).removed l = false ∧ (portAt t p).st = (portAt s p).st)
    ∧ (∀ l, Runs (.laneRetrainRetry p l) s fun t => t = s)
    ∧ ((portAt s p).st = .up → (portAt s p).replay ≠ [] → Runs (.replayTimeout p) s fun t =>
        portAt t p = { portAt s p with sent := (portAt s p).sent ++ (portAt s p).replay, replays := (portAt s p).replays + 1 } ∧ ctr t (fabCtr p 0x14) = satAdd (ctr s (fabCtr p 0x14)) 1)
    ∧ ((portAt s p).st = .up → 8 ≤ (portAt s p).replays → Runs (.replayLimit p) s fun t =>
        (portAt t p).st = .down ∧ ∀ r ∈ t.fab.routes, r.2.port ≠ p)

/-- Flits taken, bad flits, link-state advertisements, routes, and transit flits that wait too long. A DATA flit in sequence
for this node, whole in itself, is delivered in a Stall of its own; one that is to travel on without a hop or a route
left is discarded and counted; one out of sequence is not taken and a NAK is out. A NAK frees what it acknowledges and
sends the rest again; a NULL frees it and returns credits, never beyond the full count. An LSA of an unknown origin
enters the database and asks for new routes; an older one leaves it as it is. A bad flit is counted, and a NAK is out
for one that reads as sequenced. The refresh timer advertises this node's links under the next sequence; an aged LSA
leaves the database. New routes replace the old, and MB_YARD hears of each member host that came or went. A transit
message without credit for too long is discarded and counted. (R385, R387, R388, R390, R391, R393, R394) -/
def Obligations.FlitsAreSequencedAndRouted : Prop :=
  ∀ (s : State) (p : Nat) (b : Bytes), p < 4 →
    let f := Flit.read b
    let x := portAt s p
    let left := x.replay.dropWhile fun y => decide ((f.ack + 4096 - (Flit.read y).seq) % 4096 < 2048)
    (flitIntact b = true → x.st = .up → x.waiting = [] →
      (f.type = 1 → (f.seq + 4096 - x.rxSeq) % 4096 = 1 → x.dropping.contains (f.src, f.vc) = false →
          (f.dest = nodeId s → f.first = true → f.last = true → (s.fab.partials.find? fun m => m.src == f.src && m.vc == f.vc) = none → (acquireOne (0x28 + p) 5 s).1.isSome = true →
            Runs (.flitData p b) s fun t => (portAt t p).rxSeq = f.seq ∧ ∃ n, t.fab.delivered = s.fab.delivered ++ [⟨f.payload, some n⟩])
          ∧ (f.dest ≠ nodeId s → f.hops = 0 → Runs (.flitData p b) s fun t => (portAt t p).rxSeq = f.seq ∧ ctr t 0x100204 = satAdd (ctr s 0x100204) 1 ∧ t.fab.delivered = s.fab.delivered)
          ∧ (f.dest ≠ nodeId s → f.hops ≠ 0 → AMap.get? s.fab.routes f.dest = none → Runs (.flitData p b) s fun t => (portAt t p).rxSeq = f.seq ∧ ctr t 0x100200 = satAdd (ctr s 0x100200) 1))
      ∧ (f.type = 1 → 2 ≤ (f.seq + 4096 - x.rxSeq) % 4096 → (f.seq + 4096 - x.rxSeq) % 4096 < 2048 → Runs (.flitData p b) s fun t =>
          (portAt t p).rxSeq = x.rxSeq ∧ (portAt t p).nakSent = true ∧ t.fab.delivered = s.fab.delivered)
      ∧ (f.type = 2 → x.queue = [] → left ≠ [] → Runs (.flitNak p b) s fun t => (portAt t p).replay = left ∧ (portAt t p).sent = x.sent ++ left)
      ∧ (f.type = 0 → x.queue = [] → Runs (.flitNull p b) s fun t => (portAt t p).replay = left ∧ (portAt t p).sent = x.sent
          ∧ (portAt t p).credits = (x.credits.zip (f.credits.zip fullCredits)).map fun (c, r, m) => min (c + r) m)
      ∧ (f.type = 4 → (f.seq + 4096 - x.rxSeq) % 4096 = 1 → (lsaRead f.payload).1 ≠ nodeId s →
          (AMap.get? s.fab.lsdb (lsaRead f.payload).1 = none → s.fab.lsdb.length < 4095 → Runs (.flitLsa p b) s fun t =>
            (portAt t p).rxSeq = f.seq ∧ AMap.get? t.fab.lsdb (lsaRead f.payload).1 = some (lsaRead f.payload).2 ∧ t.fab.routeBusy = true)
          ∧ (∀ k, AMap.get? s.fab.lsdb (lsaRead f.payload).1 = some k → newerLsa k (lsaRead f.payload).2 = true → newerLsa (lsaRead f.payload).2 k = false → Runs (.flitLsa p b) s fun t =>
            (portAt t p).rxSeq = f.seq ∧ t.fab.lsdb = s.fab.lsdb)))
    ∧ (x.st ≠ .down → flitIntact b = false → Runs (.flitBad p b) s fun t => ctr t (fabCtr p 0x10) = satAdd (ctr s (fabCtr p 0x10)) 1 ∧ (portAt t p).rxSeq = x.rxSeq
        ∧ (x.st = .up → sequenced f.type = true → (portAt t p).nakSent = true))
    ∧ (x.st ≠ .down → flitIntact b = true → 4 < f.type → Runs (.flitBad p b) s fun t => ctr t 0x100218 = satAdd (ctr s 0x100218) 1 ∧ t.fab = s.fab)
    ∧ (s.fab.ready = true → Runs .lsaRefreshTimer s fun t => t.fab.lsaSeq = s.fab.lsaSeq + 1
        ∧ AMap.get? t.fab.lsdb (nodeId s) = some ⟨s.cip.noncePrefix, s.fab.lsaSeq + 1, s.fab.conflict, ownLinks s⟩)
    ∧ (∀ o, o ≠ nodeId s → (AMap.get? s.fab.lsdb o).isSome = true → Runs (.lsaAgeOut o) s fun t => t.fab = { s.fab with lsdb := AMap.erase s.fab.lsdb o, routeBusy := true })
    ∧ (s.fab.routeBusy = true → Runs .routeInstall s fun t =>
        t.fab.routes = routeTable s ∧ t.fab.routeBusy = false ∧ ctr t 0x100214 = satAdd (ctr s 0x100214) 1
        ∧ t.fab.reach = (routeTable s).map (fun r => (r.1, ()))
        ∧ (hasSlots .yard (Src.fab 0) ((memberHosts s).filter fun h => mem? s.fab.reach h != mem? ((routeTable s).map fun r => (r.1, ())) h).length s = true →
            boxOf t .yard = boxOf s .yard ++ ((memberHosts s).filter fun h => mem? s.fab.reach h != mem? t.fab.reach h).map
              fun h => mail (Src.fab 0) 0x8001 (h + 65536 * b2n (mem? t.fab.reach h)) s))
    ∧ (∀ vc i q, x.st = .up → vc < 4 → x.credits.getD vc 0 = 0 → nextInput x vc = some i → i < 4 → i ≠ p → (x.queue.find? fun q => q.vc == vc && q.input == i) = some q →
        Runs (.transitWaitExpiry p vc) s fun t =>
          let same := fun (y : QFlit) => y.vc == vc && y.input == i && (Flit.read y.flit).src == (Flit.read q.flit).src && (Flit.read y.flit).tag == (Flit.read q.flit).tag
          (portAt t p).queue = x.queue.filter (fun y => !same y) ∧ ctr t 0x100208 = satAdd (ctr s 0x100208) (x.queue.filter same).length
          ∧ (((x.queue.filter same).any fun y => (Flit.read y.flit).last) = false → (portAt t i).dropping = (portAt s i).dropping ++ [((Flit.read q.flit).src, vc)]))

/-- Yard messages: foreign ones discarded, stale ones NACKed, newer ones held; bad ones, unknown events, reachability. Every
Yard message of the type its command names is checked before it is acted on. With no member enrolled, or of another
Yard, it is discarded and counted, and the Yard is unchanged. One of an earlier epoch, if its type is bound to an epoch,
is discarded, counted, and answered with a NACK of its type, stripe and segment carrying the receiver's epoch; one of a
later epoch is held, and the epoch record is asked for. A message that is no message of this Yard or of no known type is
discarded and counted. An unknown MB_YARD event is counted. The hold's expiry discards the message held longest. A
change of reachability sets or clears the node. (R360, R377, R378, R379) -/
def Obligations.YardMessagesAreCheckedFirst : Prop :=
  ∀ (s : State) (m : YMsg),
    (∀ ty c, MessageCmd m ty c → m.type = ty → (ty = YT.contrib → m.seg < 300 ∧ m.slot < 32 ∧ 0 < m.role ∧ m.role ≤ 4) →
        ((s.yrd.enrolled = false ∨ m.yard ≠ s.yrd.yardId) → Runs c s fun t =>
            t.yrd = s.yrd ∧ ctr t 0x0F0128 = satAdd (ctr s 0x0F0128) 1 ∧ t.fab = { s.fab with delivered := dropFirst (fun d => d.bytes == msgBytes m) s.fab.delivered })
        ∧ (s.yrd.enrolled = true → m.yard = s.yrd.yardId → anyEpoch ty = false →
            (m.epoch < s.yrd.epoch → Runs c s fun t =>
                t.yrd = s.yrd ∧ ctr t 0x0F010C = satAdd (ctr s 0x0F010C) 1
                ∧ Sent { yMsg s YT.nack m.stripe m.src m.role m.slot (be 1 ty ++ be 4 s.yrd.epoch) with seg := m.seg } (inc 0x0F010C (takeDelivered m s)) t)
            ∧ (s.yrd.epoch < m.epoch → Runs c s fun t =>
                t.yrd = { s.yrd with heldMsgs := s.yrd.heldMsgs ++ [m] }
                ∧ Sent (yMsg s YT.epochReq 0xFFFFFFFF m.src 0 0xFF []) (updYrd (fun y => { y with heldMsgs := y.heldMsgs ++ [m] }) (takeDelivered m s)) t)))
    ∧ (∀ raw, (∀ x, msgParse raw = some x → x.yard ≠ s.yrd.yardId ∨ msgKnown x.type = false) → Runs (.yardBadMessage raw) s fun t =>
        t.yrd = s.yrd ∧ ctr t 0x0F0128 = satAdd (ctr s 0x0F0128) 1 ∧ t.fab = { s.fab with delivered := dropFirst (fun d => d.bytes == raw) s.fab.delivered })
    ∧ (∀ src code arg u, ¬(1 ≤ code ∧ code ≤ 6) → code ≠ 0x8001 → Takes .yard src code arg s u → Runs (.yardUnknownEvent src code arg) s fun t =>
        t.yrd = s.yrd ∧ t.boxes = u.boxes ∧ ctr t 0x0F012C = satAdd (ctr s 0x0F012C) 1)
    ∧ Runs .epochHoldExpiry s (fun t => t.yrd = { s.yrd with heldMsgs := s.yrd.heldMsgs.drop 1 } ∧ Only [.yrd] s t)
    ∧ (∀ src arg u, Takes .yard src 0x8001 arg s u → Runs (.reachabilityChanged src arg) s fun t =>
        t.boxes = u.boxes
        ∧ t.yrd = { s.yrd with reachable := if bit arg 16 then AMap.set s.yrd.reachable (bits arg 15 0) () else AMap.erase s.yrd.reachable (bits arg 15 0) })

/-- Claims: the stripe of a unit, its acknowledgement, units complete striped or not, null requests and their timeout. A
unit that begins claims the first stripe, from the boundary and above every stripe claimed, in which the member holds a
data slot that it has not skipped: CLAIM is out to its coordinator until answered; with two claims unfinished nothing is
claimed. An accepted CLAIM_ACK acknowledges the claim and ends its repeats, and sends an unstriped unit to the formatter
again; a busy one changes nothing. A complete striped unit is kept, and every partial product of it leaves; an unstriped
one is kept, counted and waits. A NULL_REQ is answered CLAIMED for a claim held; else NULL_OK, counted, and the stripe
is skipped. The contribution timeout asks the member of every unclaimed slot of an OPEN stripe. (R348, R349, R350, R352,
R357, R378) -/
def Obligations.UnitsClaimTheirSlots : Prop :=
  ∀ (s : State),
    (∀ f lo st sl, nextStripe s f lo = some (st, sl) →
        lo ≤ st ∧ dataSlot s st s.yrd.member = some sl ∧ mem? s.yrd.skipped st = false ∧ ∀ x, lo ≤ x → x < st → dataSlot s x s.yrd.member = none ∨ mem? s.yrd.skipped x = true)
    ∧ (∀ src arg u, Takes .yard src 0x0001 arg s u →
        let p := bits arg 33 32
        let ds := bits arg 31 0
        (2 ≤ openClaims u → Runs (.unitAssemblyBegun src arg) s fun t => t = u)
        ∧ (∀ st sl c, openClaims u < 2 → u.yrd.desc.isSome = true → isPresent u u.yrd.member = true → (∀ x ∈ u.yrd.claims, ¬(x.part = p ∧ x.ds = ds)) →
            nextStripe u 8192 (max u.yrd.boundary ((u.yrd.highClaim.map fun h => h + 1).getD 0)) = some (st, sl) → coordinator u st = some c →
            Runs (.unitAssemblyBegun src arg) s fun t =>
              t.yrd.claims = u.yrd.claims ++ [{ stripe := st, slot := sl, part := p, ds := ds }] ∧ t.yrd.highClaim = some st
              ∧ yMsg u YT.claim st c 0 sl (be 1 p ++ be 4 ds) ∈ t.yrd.awaitReply))
    ∧ (∀ src arg u i, Takes .yard src 0x0002 arg s u →
        let ds := bits arg 58 27
        let is := u.wrv.images ++ u.wrv.placements.map Placement.img
        i ∈ is → i.kind = 1 → i.ds = ds → (partAt u i.part).yardMember = true → (∀ j ∈ is, j.kind = 1 → j.ds = ds → (partAt u j.part).yardMember = true → j = i) →
        (∀ r ∈ u.yrd.retains, ¬(r.part = i.part ∧ r.ds = ds)) →
        (i.stripe = 0xFFFFFFFF → Runs (.unitComplete src arg) s fun t =>
            t.yrd.unstriped = u.yrd.unstriped ++ [(i.part, ds)] ∧ ctr t 0x0F0108 = satAdd (ctr u 0x0F0108) 1 ∧ ∃ r ∈ t.yrd.retains, r.part = i.part ∧ r.ds = ds ∧ r.user = i.user)
        ∧ (∀ c, i.stripe ≠ 0xFFFFFFFF → u.yrd.unstriped = [] → (u.yrd.claims.find? fun c => c.part == i.part && c.ds == ds && c.acked && !c.sent) = some c →
            Runs (.unitComplete src arg) s fun t =>
              { c with sent := true } ∈ t.yrd.claims ∧ ⟨c.stripe, c.slot, i.part, ds⟩ ∈ t.yrd.units ∧ (∃ r ∈ t.yrd.retains, r.part = i.part ∧ r.ds = ds ∧ r.user = i.user ∧ r.stripe = c.stripe)
              ∧ ∃ v, Before u v t ∧ t.fab = (sendPartials false c.stripe c.slot i.user v).fab))
    ∧ (∀ m c, Heard YT.claimAck m s → (s.yrd.claims.find? fun c => c.stripe == m.stripe && c.slot == m.slot && !c.acked) = some c →
        (beAt m.payload 0 1 ≠ 0 → Runs (.claimAck m) s fun t => t.yrd = s.yrd)
        ∧ (beAt m.payload 0 1 = 0 → Runs (.claimAck m) s fun t =>
            (∃ x ∈ t.yrd.claims, x.stripe = c.stripe ∧ x.slot = c.slot ∧ x.part = c.part ∧ x.ds = c.ds ∧ x.acked = true ∧ x.epoch = m.epoch)
            ∧ (∀ x ∈ t.yrd.awaitReply, ¬(x.type = YT.claim ∧ x.stripe = m.stripe ∧ x.dst = m.src))
            ∧ ((c.part, c.ds) ∈ s.yrd.unstriped → (∃ r ∈ s.yrd.retains, r.part = c.part ∧ r.ds = c.ds) → hasSlots .fmt Src.yard 1 s = true →
                ∃ a, boxOf t .fmt = boxOf s .fmt ++ [mail Src.yard 0x0004 a s] ∧ bits a 58 27 = c.ds % 2 ^ 32)))
    ∧ (∀ m, Heard YT.nullReq m s →
        (∀ c, (s.yrd.claims.find? fun c => c.stripe == m.stripe) = some c → Runs (.nullReq m) s fun t =>
            t.yrd = s.yrd ∧ Sent (yMsg s YT.claimed m.stripe m.src 0 m.slot (be 1 c.part ++ be 4 c.ds)) (takeDelivered m s) t)
        ∧ ((∀ c ∈ s.yrd.claims, c.stripe ≠ m.stripe) → reworking s m.stripe = false → Runs (.nullReq m) s fun t =>
            t.yrd = { s.yrd with skipped := AMap.set s.yrd.skipped m.stripe () } ∧ ctr t 0x0F0104 = satAdd (ctr s 0x0F0104) 1
            ∧ ∃ v, Before (takeDelivered m s) v t ∧ Sent (yMsg s YT.nullOk m.stripe m.src 0 m.slot []) v t))
    ∧ (∀ st e, AMap.get? s.yrd.journal st = some e →
        (e.st ≠ .opened → Runs (.contributionTimeout st) s fun t => t = s)
        ∧ (e.st = .opened → Runs (.contributionTimeout st) s fun t =>
            t.yrd.journal = s.yrd.journal ∧ ∀ k, k < e.k → AMap.getD e.slots k 0 = 0 → yMsg s YT.nullReq st (slotMember s st k) 0 k [] ∈ t.yrd.awaitReply))

/-- The coordinator of a stripe and its two replicas are found by walking its row in layout order. For a stripe whose row
lists distinct members and whose parity is not being reworked (that case is R375's): walking the row, parity slots from
role 1 on, then data slots, the coordinator is the first member that is PRESENT in the current epoch, and there is none
exactly when no member of the row is PRESENT; the replicas are the next two PRESENT members on the walk. With every
member of the row present the coordinator is the first parity member. (R354) -/
def Obligations.TheCoordinatorIsTheFirstPresentOnTheWalk : Prop :=
  ∀ (s : State) (st : Nat) (d : Desc), descFor s st = some d → reworking s st = false → 0 < d.m →
    let row := (d.rows.getD (st % 4096) []).take (d.k + d.m)
    row.length = d.k + d.m → row.Nodup →
    let walk := row.drop d.k ++ row.take d.k
    (∀ c, coordinator s st = some c ↔ ∃ i : Nat, walk[i]? = some c ∧ isPresent s c = true ∧ ∀ j x : Nat, j < i → walk[j]? = some x → isPresent s x = false)
    ∧ (coordinator s st = none ↔ ∀ x ∈ walk, isPresent s x = false)
    ∧ (∀ c, coordinator s st = some c → ∃ p q, walk = p ++ c :: q ∧ (∀ x ∈ p, isPresent s x = false) ∧ replicasOf s st = (q.filter (isPresent s)).take 2)
    ∧ ((∀ x ∈ walk, isPresent s x = true) → coordinator s st = row[d.k]?)

/-- The coordinator: claims, nulls, contributions done, sealing, parity laid, stripes safe, and the journal's replicas. A
CLAIM at its coordinator opens an entry that holds it, or enters an entry that takes slots; with 2,048 entries the
answer is busy. WITHDRAW and NULL_OK null a slot; CLAIMED claims it. CONTRIB_DONE from a role's holder sets its done
bit, and the entry seals when every slot is null or done for every role. PARITY_LAID from a holder sets the laid bit;
the last makes the stripe SAFE, counted, its stand-ins listed. SAFE_ACK is recorded; the last retires the entry.
CLAIM_ACK, SEAL and STRIPE_SAFE wait with an entry whose replicas have not acknowledged. A replica stores what a JOURNAL
brings and acknowledges; a new coordinator takes it as its own; the last JOURNAL_ACK sends what waited. (R353, R355,
R356, R357, R358, R362, R364, R375) -/
def Obligations.CoordinatorsKeepTheJournal : Prop :=
  ∀ (s : State) (m : YMsg),
    let u := takeDelivered m s
    (∀ st, coordinator s st = (if reworking s st then leaderOf s else (walkOf s st).head?) ∧ (∀ x, coordinator s st = some x → x ∉ replicasOf s st) ∧ (replicasOf s st).length ≤ 2
        ∧ ∀ x ∈ replicasOf s st, isPresent s x = true)
    ∧ (Heard YT.claim m s → coordinator s m.stripe = some s.yrd.member → slotMember s m.stripe m.slot = m.src →
        let answer := fun v => yMsg s YT.claimAck m.stripe m.src 0 m.slot (be 1 v)
        (AMap.get? s.yrd.journal m.stripe = none →
            (2048 ≤ coordinated s → Runs (.claim m) s fun t => t.yrd = s.yrd ∧ Sent (answer 1) u t)
            ∧ (coordinated s < 2048 → Runs (.claim m) s fun t =>
                ∃ e, AMap.get? t.yrd.journal m.stripe = some e ∧ e.st = .opened ∧ AMap.get? e.slots m.slot = some 1 ∧ AMap.get? e.claims m.slot = some (beAt m.payload 0 1, beAt m.payload 1 4)
                  ∧ e.epoch = s.yrd.epoch ∧ (others s m.stripe ≠ [] → e.awaiting ≠ [] ∧ answer 0 ∈ e.reveal) ∧ (others s m.stripe = [] → ∃ v, Before u v t ∧ Sent (answer 0) v t)))
        ∧ (∀ e, AMap.get? s.yrd.journal m.stripe = some e → e.stripe = m.stripe → takesSlots e = true → AMap.getD e.slots m.slot 0 = 0 → Runs (.claim m) s fun t =>
            ∃ x, AMap.get? t.yrd.journal m.stripe = some x ∧ x.st = e.st ∧ AMap.get? x.slots m.slot = some 1 ∧ AMap.get? x.claims m.slot = some (beAt m.payload 0 1, beAt m.payload 1 4)
              ∧ (others s m.stripe ≠ [] → x.awaiting ≠ [] ∧ answer 0 ∈ x.reveal ++ x.later)))
    ∧ (∀ e, AMap.get? s.yrd.journal m.stripe = some e → e.stripe = m.stripe →
        (Heard YT.withdraw m s → takesSlots e = true → Runs (.withdraw m) s fun t => ∃ x, AMap.get? t.yrd.journal m.stripe = some x ∧ AMap.get? x.slots m.slot = some 2)
        ∧ (Heard YT.nullOk m s → takesSlots e = true → AMap.getD e.slots m.slot 0 = 0 → Runs (.nullOk m) s fun t => ∃ x, AMap.get? t.yrd.journal m.stripe = some x ∧ AMap.get? x.slots m.slot = some 2)
        ∧ (Heard YT.claimed m s → takesSlots e = true → AMap.getD e.slots m.slot 0 = 0 → Runs (.claimed m) s fun t =>
            t.yrd.journal = AMap.set s.yrd.journal m.stripe { e with slots := AMap.set e.slots m.slot 1, claims := AMap.set e.claims m.slot (beAt m.payload 0 1, beAt m.payload 1 4) }
            ∧ ∀ x ∈ t.yrd.awaitReply, ¬(x.type = YT.nullReq ∧ x.stripe = m.stripe ∧ x.dst = m.src))
        ∧ (Heard YT.contribDone m s → takesSlots e = true → AMap.getD e.holders m.role 0xFF = m.src → 0 < m.role → Runs (.contribDone m) s fun t =>
            let done := AMap.set e.done (32 * (m.role - 1) + m.slot) ()
            let seals := e.st = .opened ∧ allDone { e with done := done } = true
            ∃ x, AMap.get? t.yrd.journal m.stripe = some x ∧ x.done = done ∧ (seals → x.st = .sealed) ∧ (¬seals → x.st = e.st)
              ∧ (seals → others s m.stripe ≠ [] → x.awaiting ≠ [] ∧ ∀ r, r < e.m → yMsg s YT.sealStripe m.stripe (AMap.getD e.holders (r + 1) 0xFF) (r + 1) 0xFF (be 4 (nullMap e)) ∈ x.reveal ++ x.later))
        ∧ (Heard YT.parityLaid m s → e.st = .sealed → AMap.getD e.holders m.role 0xFF = m.src →
            let laid := AMap.set e.laid m.role ()
            ((∃ r, r < e.m ∧ mem? laid (r + 1) = false) → Runs (.parityLaid m) s fun t => t.yrd = { s.yrd with journal := AMap.set s.yrd.journal m.stripe { e with laid := laid } })
            ∧ ((∀ r, r < e.m → mem? laid (r + 1) = true) → Runs (.parityLaid m) s fun t =>
                ctr t 0x0F0100 = satAdd (ctr s 0x0F0100) 1
                ∧ t.yrd.standIns = s.yrd.standIns ++ (e.standIns.filter fun j => j.1 != 0).map (fun j => (m.stripe, j.1, AMap.getD e.holders j.1 0xFF))
                ∧ ∃ x, AMap.get? t.yrd.journal m.stripe = some x ∧ x.st = .safe ∧ x.laid = laid
                  ∧ (others s m.stripe ≠ [] → x.awaiting ≠ [] ∧ ∀ y ∈ safeMembers s e, yMsg s YT.stripeSafe m.stripe y.2 0 y.1 [] ∈ x.reveal ++ x.later)))
        ∧ (Heard YT.safeAck m s → e.st = .safe →
            let acks := AMap.set e.acks m.slot ()
            ((∃ x ∈ safeMembers s e, mem? acks x.1 = false) → Runs (.safeAck m) s fun t => t.yrd.journal = AMap.set s.yrd.journal m.stripe { e with acks := acks })
            ∧ ((∀ x ∈ safeMembers s e, mem? acks x.1 = true) → s.yrd.reshapeActive = false → Runs (.safeAck m) s fun t => t.yrd.journal = AMap.erase s.yrd.journal m.stripe)
            ∧ ((∀ x ∈ safeMembers s e, mem? acks x.1 = true) → e.rework = true → Runs (.safeAck m) s fun t => m.stripe < t.yrd.reshapeR))
        ∧ (Heard YT.journalAck m s → mem? e.awaiting m.src = true →
            (AMap.erase e.awaiting m.src ≠ [] → Runs (.journalAck m) s fun t => t.yrd.journal = AMap.set s.yrd.journal m.stripe { e with awaiting := AMap.erase e.awaiting m.src })
            ∧ (AMap.erase e.awaiting m.src = [] → e.dirty = false → Runs (.journalAck m) s fun t =>
                t.yrd.journal = AMap.set s.yrd.journal m.stripe { e with awaiting := [], reveal := [] }
                ∧ t.fab = (each sendMsg e.reveal (setEntry { e with awaiting := [], reveal := [] } (replied YT.journal m.stripe m.src u))).fab)))
    ∧ (Heard YT.journal m s →
        let es := (List.range (m.payload.length / 128)).filterMap fun i => entryParse (slice m.payload (128 * i) 128)
        (∀ e ∈ es, (es.filter fun x => x.stripe == e.stripe) = [e]) → Runs (.journal m) s fun t =>
          (∃ v, Before u v t ∧ Sent (yMsg s YT.journalAck m.stripe m.src 0 0xFF []) v t)
          ∧ ∀ e ∈ es, (coordinator s e.stripe ≠ some s.yrd.member ∨ m.src = s.yrd.member → e.st ≠ .free → AMap.get? t.yrd.replicas e.stripe = some e)
            ∧ (coordinator s e.stripe ≠ some s.yrd.member ∨ m.src = s.yrd.member → e.st = .free → AMap.wf s.yrd.replicas = true → AMap.get? t.yrd.replicas e.stripe = none)
            ∧ (coordinator s e.stripe = some s.yrd.member → m.src ≠ s.yrd.member → AMap.get? s.yrd.journal e.stripe = none → AMap.get? t.yrd.journal e.stripe = some e))

/-- Partial products, parity holders' accumulators, retention copies, stripes that become safe, and the repeat timer.
Coefficients and partial products of R351's example come out; segments of a unit add in any order. A CONTRIB segment new
to an unsealed accumulator is added and marked; a slot's last one sends CONTRIB_DONE; a segment seen before is only
counted; without an accumulator one of 75 Stalls opens, or the message waits. SEAL seals the accumulator, keeps the null
map, and posts it to the formatter. A Yard parity data set that is Laid frees its accumulator and sends PARITY_LAID. An
idle formatter gets the early close, and management a notice. Below retain_low the oldest copy moves to a Yard region
slot. STRIPE_SAFE makes the unit Yard-safe, frees its copy, answers SAFE_ACK. The repeat timer sends unanswered messages
again. (R349, R351, R352, R353, R357, R358, R359, R378) -/
def Obligations.ParityIsAccumulatedAndLaid : Prop :=
  (yardCoef 2 1 0 = 0x8E#8 ∧ yardCoef 2 2 0 = 0xF4#8 ∧ scaleBytes (yardCoef 2 1 0) [0x5A#8] = [0x2D#8] ∧ scaleBytes (yardCoef 2 2 0) [0x5A#8] = [0x36#8])
  ∧ (∀ (x a b : Bytes) (i j : Nat), x.length = userArea → i < 300 → j < 300 → i ≠ j → a.length = (if i = 299 then 13312 else 65536) → b.length = (if j = 299 then 13312 else 65536) →
      addSegment (addSegment x i a) j b = addSegment (addSegment x j b) i a)
  ∧ ∀ (s : State) (m : YMsg),
    let u := takeDelivered m s
    (Heard YT.contrib m s → m.seg < 300 → m.slot < 32 → 0 < m.role → m.role ≤ 4 →
        (∀ a, accumOf s m.stripe m.role = some a →
            (mem? a.seen (300 * m.slot + m.seg) = true ∨ a.isSealed = true → Runs (.contrib m) s fun t => t.yrd = s.yrd ∧ ctr t 0x0F0114 = satAdd (ctr s 0x0F0114) 1)
            ∧ (mem? a.seen (300 * m.slot + m.seg) = false → a.isSealed = false → Runs (.contrib m) s fun t =>
                let b := { a with bytes := addSegment a.bytes m.seg m.payload, seen := AMap.set a.seen (300 * m.slot + m.seg) () }
                accumOf t m.stripe m.role = some b
                ∧ (∀ c, slotDone b m.slot = true → coordinator s m.stripe = some c → ∃ v, Before u v t ∧ Sent (yMsg s YT.contribDone m.stripe c m.role m.slot []) v t)
                ∧ (slotDone b m.slot = false → t.fab = u.fab)))
        ∧ (accumOf s m.stripe m.role = none →
            let got := acquire (0x24 + (m.role - 1) % 4) 5 75 s
            (got.1 = none → Runs (.contrib m) s fun t => t = got.2 ∧ t.yrd = s.yrd ∧ t.fab = s.fab)
            ∧ (∀ hs, got.1 = some hs → Runs (.contrib m) s fun t => accumOf t m.stripe m.role =
                some { stripe := m.stripe, role := m.role, bytes := addSegment (zeros userArea) m.seg m.payload, seen := [(300 * m.slot + m.seg, ())],
                       stalls := hs })))
    ∧ (Heard YT.sealStripe m s → ∀ a, accumOf s m.stripe m.role = some a → a.isSealed = false → Runs (.sealStripe m) s fun t =>
        accumOf t m.stripe m.role = some { a with isSealed := true } ∧ AMap.get? t.yrd.nulls m.stripe = some (beAt m.payload 0 4)
        ∧ (hasSlots .fmt Src.yard 1 s = true → ∃ x, boxOf t .fmt = boxOf s .fmt ++ [mail Src.yard 0x0005 x s] ∧ bits x 58 27 = m.stripe % 2 ^ 32))
    ∧ (∀ src arg w a c, Takes .yard src 0x0003 arg s w → (w.yrd.accums.find? fun a => a.part == bits arg 33 32 && a.ds == some (bits arg 31 0)) = some a → coordinator w a.stripe = some c →
        Runs (.yardParityLaid src arg) s fun t =>
          accumOf t a.stripe a.role = none ∧ ⟨a.stripe, stripeK w a.stripe + a.role - 1, bits arg 33 32, bits arg 31 0⟩ ∈ t.yrd.units
          ∧ ∃ v, Before w v t ∧ Sent (yMsg w YT.parityLaid a.stripe c a.role 0xFF (be 1 (bits arg 33 32) ++ be 4 (bits arg 31 0))) v t)
    ∧ (∀ p st, (p = s.yrd.parityPart ∧ s.yrd.enrolled = true ∧ (∃ a ∈ s.yrd.accums, a.stripe = st ∧ a.isSealed = true) → Runs (.parityHolderIdle p st) s fun t =>
          (hasSlots .fmt Src.yard 1 s = true → boxOf t .fmt = boxOf s .fmt ++ [mail Src.yard 0x0001 (p % 4) s])
          ∧ ((boxOf s .mgt).length < boxSize .mgt → boxOf t .mgt = boxOf s .mgt ++ [mail Src.yard 0x0F01 (st % 2 ^ 32) s]))
        ∧ (p ≠ s.yrd.parityPart → Runs (.parityHolderIdle p st) s fun t => t = s))
    ∧ (Cfgw.retainLow s ≤ freeCount (stableAt s 5) → Runs .retainLow s fun t => t = s)
    ∧ (∀ r k, freeCount (stableAt s 5) < Cfgw.retainLow s → (s.yrd.retains.find? fun r => r.slot.isNone) = some r → freeYardSlot s = some k →
        (∀ x ∈ s.yrd.retains, x.part = r.part → x.ds = r.ds → x = r) → Runs .retainLow s fun t => { r with stalls := [], slot := some k } ∈ t.yrd.retains)
    ∧ (Heard YT.stripeSafe m s → ∀ x ∈ s.yrd.units, x.stripe = m.stripe → dataSlot s m.stripe s.yrd.member = some x.place →
        Runs (.stripeSafe m) s fun t => mem? (partAt t x.part).safeDs x.ds = true ∧ (∀ r ∈ t.yrd.retains, ¬(r.part = x.part ∧ r.ds = x.ds))
          ∧ (s.yrd.unstriped = [] → s.yrd.reshapeActive = false →
              (∀ c ∈ t.yrd.claims, c.stripe ≠ m.stripe) ∧ ∃ v, Before u v t ∧ Sent (yMsg s YT.safeAck m.stripe m.src 0 x.place []) v t))
    ∧ Runs .yardRepeatTimer s (fun t => (∀ x ∈ s.yrd.awaitReply, x ∈ t.yrd.awaitReply)
        ∧ (s.yrd.unstriped = [] → s.yrd.rebuildActive = false → s.yrd.reshapeActive = false → t.yrd = s.yrd ∧ t.fab = (each sendOnce s.yrd.awaitReply s).fab))

/-- Reconstruction: survivors chosen, asked, added up; survivors that fail; stripes lost; rebuilds onto a replacement.
Survivors are PRESENT members of other places of the stripe that have not failed, as many as it has units. A read's
reconstruction asks each survivor of a safe unit for its coefficient times its unit; with none to choose the stripe is
lost, counted and logged; an unsafe or unstriped unit fails the rung at once. A survivor sends its 300 segments, or
REBUILD_FAIL, or reads its tape first. A segment is added once; the last completes the unit: it answers the read, or is
staged for the formatter. REBUILD_FAIL is counted and the choice made again without that place. The read's rung takes
the answer. A rebuild starts on its replacement with every safe place of the member below the boundary that is not null,
most exposed first. (R251, R353, R368, R369, R370, R371, R372, R373) -/
def Obligations.LostUnitsAreReconstructed : Prop :=
  ∀ (s : State) (m : YMsg),
    let u := takeDelivered m s
    let p := msgPlace s m
    (∀ st place er sv, survivorsFor s st place er = some sv →
        sv.length = ((List.range (stripeK s st)).filter fun k => !bit (nullSlots s st) k).length
        ∧ ∀ x ∈ sv, x.1 ≠ place ∧ x.1 ∉ er ∧ x.2.1 = placeMember s st x.1 ∧ isPresent s x.2.1 = true)
    ∧ (∀ src arg w, Takes .yard src 0x0004 arg s w →
        let q := bits arg 33 32
        let ds := bits arg 31 0
        (∀ l, ((∀ x ∈ w.yrd.units, ¬(x.part = q ∧ x.ds = ds)) ∨ mem? (partAt w q).safeDs ds = false) → w.rch.ladder = some l → l.st = .yard →
            Runs (.reconstructForRead src arg) s fun t => t = ladderFailed l w)
        ∧ (∀ x, (w.yrd.units.find? fun x => x.part == q && x.ds == ds) = some x → mem? (partAt w q).safeDs ds = true →
            (∀ sv, survivorsFor w x.stripe x.place [] = some sv → sv ≠ [] → Runs (.reconstructForRead src arg) s fun t =>
                let k := stripeK w x.stripe
                t.yrd.answer = none
                ∧ (t.yrd.recons.find? fun r => r.stripe == x.stripe) = some { stripe := x.stripe, place := x.place, part := q, ds := ds, use := .read, survivors := sv, bytes := zeros userArea }
                ∧ ∃ v, Before w v t ∧ t.fab = (each (fun (y : Nat × Nat × Nat) z => sendMsg (yMsg w YT.rebuildReq x.stripe y.2.1 (if y.1 < k then 0 else y.1 - k + 1) (if y.1 < k then y.1 else 0xFF)
                    (be 1 y.2.2 ++ be 1 (if x.place < k then x.place else x.place - k + 1))) z) sv v).fab)
            ∧ (survivorsFor w x.stripe x.place [] = none → Runs (.reconstructForRead src arg) s fun t =>
                t.yrd.answer = some none ∧ ctr t 0x0F0124 = satAdd (ctr s 0x0F0124) 1 ∧ (∀ r ∈ t.yrd.recons, r.stripe ≠ x.stripe)
                ∧ ∃ l, t.shd.lossLog = s.shd.lossLog ++ [l] ∧ l.stripe = x.stripe ∧ l.part = q ∧ l.ds = ds ∧ l.cause = 1 ∧ l.epoch = s.yrd.epoch)))
    ∧ (∀ l data, s.rch.ladder = some l → l.st = .yard →
        let asked := s.yrd.recons.any fun r => r.use == .read
        let w := updYrd (fun y => { y with answer := none }) s
        (∀ b, s.yrd.answer = some (some b) ∨ (s.yrd.answer = none ∧ asked = false ∧ data = some b) →
            let x := withDsit l.part l.ds b w
            (b.length ≤ userArea → Runs (.yardReconstructReturn data) s fun t => t = ladderDone l 0 x.1 x.2)
            ∧ (userArea < b.length → streamExpected w l.part l.ds b = true → Runs (.yardReconstructReturn data) s fun t => t = ladderDone l 0 b w)
            ∧ (userArea < b.length → streamExpected w l.part l.ds b = false → Runs (.yardReconstructReturn data) s fun t =>
                t = ladderFailed l (if (dsitOf b).isNone then inc 0x050128 w else w)))
        ∧ (s.yrd.answer = some none ∨ (s.yrd.answer = none ∧ asked = false ∧ data = none) → Runs (.yardReconstructReturn data) s fun t => t = ladderFailed l w)
        ∧ (s.yrd.answer = none → asked = true → Runs (.yardReconstructReturn data) s fun t => t = s))
    ∧ (Heard YT.rebuildReq m s →
        (∀ b, serveUnit s m.stripe p = .unit b → Runs (.rebuildReq m) s fun t =>
            ∃ v, Before u v t ∧ t.fab = (each (fun i z => sendMsg { yMsg s YT.rebuildPart m.stripe m.src m.role m.slot (segment (scaleBytes (BitVec.ofNat 8 (beAt m.payload 0 1)) b) i) with seg := i } z) (List.range 300) v).fab)
        ∧ (serveUnit s m.stripe p = .fail → Runs (.rebuildReq m) s fun t => ∃ v, Before u v t ∧ Sent (yMsg s YT.rebuildFail m.stripe m.src m.role m.slot []) v t)
        ∧ (∀ q ds, serveUnit s m.stripe p = .wait q ds →
            ((q, ds, false) ∈ s.yrd.serve → Runs (.rebuildReq m) s fun t => t = s)
            ∧ ((q, ds, false) ∉ s.yrd.serve → Runs (.rebuildReq m) s fun t =>
                t.yrd = { s.yrd with serve := s.yrd.serve ++ [(q, ds, false)] } ∧ (s.rch.ladder = none → t.rch.seek = some (q, ds)))))
    ∧ (Heard YT.rebuildPart m s → ∀ r, (s.yrd.recons.find? fun r => r.stripe == m.stripe) = some r → (r.survivors.any fun x => x.1 == p) = true → m.seg < 300 →
        let key := 300 * p + m.seg
        let b := addSegment r.bytes m.seg m.payload
        let k := stripeK s m.stripe
        (mem? r.seen key = true → Runs (.rebuildPart m) s fun t => t.yrd = s.yrd ∧ ctr t 0x0F0114 = satAdd (ctr s 0x0F0114) 1)
        ∧ (mem? r.seen key = false → (AMap.set r.seen key ()).length ≠ 300 * r.survivors.length → Runs (.rebuildPart m) s fun t =>
            (t.yrd.recons.find? fun r => r.stripe == m.stripe) = some { r with bytes := b, seen := AMap.set r.seen key () })
        ∧ (mem? r.seen key = false → (AMap.set r.seen key ()).length = 300 * r.survivors.length →
            (r.use = .read → Runs (.rebuildPart m) s fun t => t.yrd.answer = some (some b)
                ∧ (s.yrd.rebuildActive = false → (∀ r ∈ t.yrd.recons, r.stripe ≠ m.stripe) ∧ ctr t 0x0F011C = satAdd (ctr s 0x0F011C) 1))
            ∧ (r.use = .rebuild → s.yrd.rebuildTodo = [] → r.place < k → Runs (.rebuildPart m) s fun t => AMap.get? t.yrd.rebuilt (r.part * 2 ^ 32 + r.ds) = some b
                ∧ ⟨m.stripe, r.place, r.part, r.ds⟩ ∈ t.yrd.units
                ∧ (hasSlots .fmt Src.yard 1 s = true → boxOf t .fmt = boxOf s .fmt ++ [mail Src.yard 0x0004 (r.ds % 2 ^ 32 * 2 ^ 27) s]))
            ∧ (r.use = .rebuild → s.yrd.rebuildTodo = [] → k ≤ r.place → Runs (.rebuildPart m) s fun t => { stripe := m.stripe, role := r.place - k + 1, bytes := b, isSealed := true } ∈ t.yrd.accums
                ∧ (hasSlots .fmt Src.yard 1 s = true → boxOf t .fmt = boxOf s .fmt ++ [mail Src.yard 0x0005 (m.stripe % 2 ^ 32 * 2 ^ 27) s]))))
    ∧ (Heard YT.rebuildFail m s →
        ((∀ r ∈ s.yrd.recons, r.stripe ≠ m.stripe) → Runs (.rebuildFail m) s fun t => t.yrd = s.yrd ∧ ctr t 0x0F0120 = satAdd (ctr s 0x0F0120) 1)
        ∧ (∀ r, (s.yrd.recons.find? fun r => r.stripe == m.stripe) = some r →
            let w := dropRecon m.stripe (inc 0x0F0120 u)
            let er := r.erased ++ [p]
            (∀ sv, s.yrd.rebuildActive = false ∨ r.use = .rebuild → survivorsFor w m.stripe r.place er = some sv → sv ≠ [] → Runs (.rebuildFail m) s fun t =>
                ctr t 0x0F0120 = satAdd (ctr s 0x0F0120) 1
                ∧ (t.yrd.recons.find? fun r => r.stripe == m.stripe) = some { r with survivors := sv, erased := er, bytes := zeros userArea, seen := [] })
            ∧ (s.yrd.rebuildActive = false → r.use = .read → survivorsFor w m.stripe r.place er = none → Runs (.rebuildFail m) s fun t =>
                t.yrd.answer = some none ∧ ctr t 0x0F0124 = satAdd (ctr s 0x0F0124) 1
                ∧ ∃ l, t.shd.lossLog = s.shd.lossLog ++ [l] ∧ l.stripe = m.stripe ∧ l.part = r.part ∧ l.ds = r.ds ∧ l.cause = 1 ∧ l.erasures = er.length + 1)))
    ∧ (∀ src arg w, Takes .yard src 0x0005 arg s w →
        ((w.yrd.replacing = false ∨ bits arg 5 0 ≠ w.yrd.member) → Runs (.rebuildStart src arg) s fun t => t = w)
        ∧ (w.yrd.replacing = true → bits arg 5 0 = w.yrd.member → Runs (.rebuildStart src arg) s fun t => ∃ todo,
            t = rebuildStep (updYrd (fun y => { y with rebuildActive := true, rebuildMember := y.member, rebuildTodo := todo }) w)
            ∧ ∀ st place, (st, place) ∈ todo ↔
                st < w.yrd.boundary ∧ ((AMap.get? w.yrd.journal st).any fun e => e.st != .safe) = false
                ∧ ((List.range (stripeK w st + (rowHolders w (reworked w st) st).length)).find? fun p => placeMember w st p == w.yrd.member && !(decide (p < stripeK w st) && bit (nullSlots w st) p)) = some place))
    ∧ (∀ st place, nextExposed s = some (st, place) → (st, place) ∈ s.yrd.rebuildTodo
        ∧ ∀ x ∈ s.yrd.rebuildTodo, exposureOf s x.1 < exposureOf s st ∨ (exposureOf s x.1 = exposureOf s st ∧ st ≤ x.1))

/-- Epoch changes: members dead or joining, queries and replies, proposals, adoptions, requests, NACKs, abandoned proposals.
The leader that finds a PRESENT member dead, or hears a JOIN of a member not LOST, wants the change; with none under way
it queries every reachable member. STATE_QUERY is answered with the highest claim, or for a stripe with its slot state,
open accumulators of it discarded. A reply raises the highest claim of a change not yet proposed, or enters a slot
state. The deadline proposes the next epoch, its boundary above every claim known. A proposal is adopted unless one for
that epoch by a lower leader was. An ADOPT is entered; a quorum commits. EPOCH_REQ is answered with the record. A NACK
of a newer epoch asks for it; else the claim or the segment is sent again. An abandoned proposal ends its commands
NOT_READY. (R350, R360, R361, R363, R365, R366, R367, R378) -/
def Obligations.EpochsAreProposedAndAdopted : Prop :=
  ∀ (s : State) (m : YMsg),
    let u := takeDelivered m s
    (∀ x, let w : Want := { member := x, state := 1, host := memberHost s x }
        (isLeader s = true → isPresent s x = true → memberReachable s x = false → Runs (.memberDead x) s fun t =>
            t.yrd.wants = s.yrd.wants ++ [w] ∧ (∀ c, s.yrd.change = some c → t.yrd.change = some c)
            ∧ (s.yrd.change = none → t.yrd.change = some { highest := highestKnown s, wants := s.yrd.wants ++ [w] }
                ∧ ∃ v, Before s v t ∧ t.fab = (each (fun (y : Nat × (Nat × Nat)) z =>
                    if memberReachable s y.1 ∧ isSelf s y.1 = false ∧ y.2.1 < 2 then sendMsg (yMsg s YT.stateQuery 0xFFFFFFFF y.1 0 0xFF []) z else z) s.yrd.map v).fab))
        ∧ (isLeader s = false ∨ isPresent s x = false ∨ memberReachable s x = true → Runs (.memberDead x) s fun t => t = s))
    ∧ (Heard YT.join m s → ∀ d i, s.yrd.desc = some d → ((List.range d.n).find? fun i => (d.members[i]?).any fun x => x.1 == slice m.payload 0 20) = some i →
        (isLeader s = true → memberState s i ≠ 2 → i ≠ s.yrd.member → Runs (.join m) s fun t =>
            t.yrd.wants = s.yrd.wants ++ [{ member := i, state := 0, host := beAt m.payload 20 4 % 65536 }] ∧ t.yrd.change.isSome = true)
        ∧ (isLeader s = false ∨ memberState s i = 2 → Runs (.join m) s fun t => t.yrd = s.yrd))
    ∧ (Heard YT.stateQuery m s →
        (m.stripe = 0xFFFFFFFF → Runs (.stateQuery m) s fun t => t.yrd = s.yrd ∧ Sent (yMsg s YT.stateReply 0xFFFFFFFF m.src 0 0xFF (be 4 (s.yrd.highClaim.getD 0xFFFFFFFF))) u t)
        ∧ (m.stripe ≠ 0xFFFFFFFF → Runs (.stateQuery m) s fun t => t.yrd.accums = s.yrd.accums.filter (fun a => a.stripe != m.stripe || a.isSealed)
            ∧ (∀ k, dataSlot s m.stripe s.yrd.member = some k → (∀ c ∈ s.yrd.claims, c.stripe = m.stripe → c.sent = false) →
                Sent (yMsg s YT.stateReply m.stripe m.src 0 k (be 8 (ownSlotState s m.stripe * 4 ^ k))) u t)))
    ∧ (Heard YT.stateReply m s →
        (∀ c, m.stripe = 0xFFFFFFFF → s.yrd.change = some c → c.proposed = none → beAt m.payload 0 4 ≠ 0xFFFFFFFF → Runs (.stateReply m) s fun t =>
            t.yrd = { s.yrd with change := some { c with highest := some (max (c.highest.getD 0) (beAt m.payload 0 4)) } })
        ∧ (∀ e, m.stripe ≠ 0xFFFFFFFF → AMap.get? s.yrd.journal m.stripe = some e → e.stripe = m.stripe → takesSlots e = true → m.slot < 32 → Runs (.stateReply m) s fun t =>
            ∃ x, AMap.get? t.yrd.journal m.stripe = some x ∧ AMap.get? x.slots m.slot = some (beAt m.payload 0 8 / 4 ^ m.slot % 4)))
    ∧ (∀ c, s.yrd.change = some c → c.proposed = none → 2 ≤ (s.yrd.map.filter fun x => x.2.1 < 2).length → Runs .stateQueryDeadline s fun t =>
        ∃ r, t.yrd = { s.yrd with change := some { c with proposed := some r, adopts := [(s.yrd.member, ())] }, adopted := some (s.yrd.epoch + 1, s.yrd.member) }
          ∧ r.epoch = s.yrd.epoch + 1 ∧ r.leader = s.yrd.member ∧ r.map = wantedMap s.yrd.map (c.wants.filter fun w => w.member != 0xFF)
          ∧ s.yrd.boundary ≤ r.boundary ∧ (∀ h, c.highest = some h ∨ highestKnown s = some h → h < r.boundary)
          ∧ (c.highest = none → highestKnown s = none → r.boundary = s.yrd.boundary)
          ∧ ∃ v, Before s v t ∧ t.fab = (announce YT.epochPropose r v).fab)
    ∧ (Heard YT.epochPropose m s →
        ((recParse m.src m.payload).epoch = s.yrd.epoch + 1 → (∀ l, s.yrd.adopted = some (s.yrd.epoch + 1, l) → m.src ≤ l) → Runs (.epochPropose m) s fun t =>
            t.yrd = { s.yrd with adopted := some (s.yrd.epoch + 1, m.src) } ∧ ∃ v, Before u v t ∧ Sent (yMsg s YT.adopt 0xFFFFFFFF m.src 0 0xFF []) v t)
        ∧ ((recParse m.src m.payload).epoch ≠ s.yrd.epoch + 1 ∨ (∃ l, s.yrd.adopted = some (s.yrd.epoch + 1, l) ∧ l < m.src) → Runs (.epochPropose m) s fun t =>
            t.yrd = s.yrd ∧ t.fab = u.fab))
    ∧ (Heard YT.adopt m s → ∀ c r, s.yrd.change = some c → c.proposed = some r →
        let adopts := AMap.set c.adopts m.src ()
        (2 * adopts.length ≤ (s.yrd.map.filter fun x => x.2.1 < 2).length → Runs (.adopt m) s fun t => t.yrd = { s.yrd with change := some { c with adopts := adopts } } ∧ t.fab = u.fab)
        ∧ ((s.yrd.map.filter fun x => x.2.1 < 2).length < 2 * adopts.length → s.yrd.epoch < r.epoch → Runs (.adopt m) s fun t =>
            t.yrd.epoch = r.epoch ∧ t.yrd.boundary = r.boundary ∧ t.yrd.map = r.map ∧ ctr t 0x0F0118 = satAdd (ctr s 0x0F0118) 1))
    ∧ (Heard YT.epochReq m s →
        (s.yrd.epoch ≠ 0 → Runs (.epochReq m) s fun t => t.yrd = s.yrd ∧ Sent (yMsg s YT.epochCommit 0xFFFFFFFF m.src 0 0xFF (recBytes (currentRec s))) u t)
        ∧ (s.yrd.epoch = 0 → Runs (.epochReq m) s fun t => t.yrd = s.yrd ∧ t.fab = u.fab))
    ∧ (∀ c r, s.yrd.change = some c → c.proposed = some r → Runs .epochProposalTimeout s fun t =>
        t.yrd = { s.yrd with change := none, wants := s.yrd.wants.filter fun w => w.cmd.isNone }
        ∧ ∀ w ∈ s.yrd.wants, ∀ q x, w.cmd = some q → findCmd s q = some x → Ended t q Status.notReady 0)
    ∧ (Heard YT.nack m s →
        let seg := beAt m.payload 0 1 = YT.contrib
        (s.yrd.epoch < beAt m.payload 1 4 → Runs (.nack m) s fun t =>
            t.yrd = { s.yrd with nacked := s.yrd.nacked ++ (if seg then [(m.stripe, m.role, m.seg)] else []) } ∧ ∃ v, Before u v t ∧ Sent (yMsg s YT.epochReq 0xFFFFFFFF m.src 0 0xFF []) v t)
        ∧ (beAt m.payload 1 4 ≤ s.yrd.epoch → ∀ c d, (s.yrd.claims.find? fun c => c.stripe == m.stripe) = some c → c.acked = false → coordinator s m.stripe = some d → Runs (.nack m) s fun t =>
            yMsg s YT.claim m.stripe d 0 c.slot (be 1 c.part ++ be 4 c.ds) ∈ t.yrd.awaitReply ∧ t.yrd.nacked = [])
        ∧ (beAt m.payload 1 4 ≤ s.yrd.epoch → seg → ∀ c r, (s.yrd.claims.find? fun c => c.stripe == m.stripe) = some c → c.acked = true → c.sent = true → s.yrd.nacked = [] →
            (s.yrd.retains.find? fun r => r.part == c.part && r.ds == c.ds) = some r → m.role ∈ rolesOf s false m.stripe → Runs (.nack m) s fun t =>
              t.yrd = s.yrd ∧ ctr t 0x0F0110 = satAdd (ctr s 0x0F0110) 1
              ∧ ∃ v, v.fab = u.fab ∧ v.cfg = s.cfg ∧ v.yrd.map = s.yrd.map ∧ v.yrd.member = s.yrd.member
                ∧ Sent { yMsg s YT.contrib m.stripe (roleHolder s false m.stripe m.role) m.role c.slot
                    (segment (scaleBytes (yardCoef (rolesOf s false m.stripe).length m.role c.slot) r.user) m.seg) with seg := m.seg } v t))

/-- EPOCH_COMMIT: the record, the Yard page, commands, handover and takeover, stand-ins, and stripes held or freed. A
committed record of a later epoch becomes the member's: epoch, boundary and map are the record's, it ends the history,
the Yard page is written with it, and the commit is counted; messages held for it are delivered. A command whose change
it holds ends OK with the epoch; a reshape's descriptor of its generation becomes current. Entries of stripes that
another member now coordinates leave the journal; a replica's entry becomes the new coordinator's own. A stand-in is
PRESENT and outside the row. In an OPEN or HELD entry of unchanged holders, unfinished slots of LOST members become null
and are logged, and the entry is HELD exactly when an unfinished slot is an ABSENT member's. An older record changes
nothing. (R345, R360, R361, R362, R363, R364, R366, R367, R373, R374) -/
def Obligations.NewEpochsTakeEffect : Prop :=
  ∀ (s : State) (m : YMsg),
    (∀ st h x, standIn s st h = some x → isPresent s x = true ∧ ∀ d, descFor s st = some d → x ∉ d.row st ∧ x < d.n)
    ∧ (Heard YT.epochCommit m s →
        let r := recParse m.src m.payload
        (r.epoch ≤ s.yrd.epoch → Runs (.epochCommit m) s fun t => t.yrd = s.yrd ∧ t.fab = (takeDelivered m s).fab)
        ∧ (s.yrd.epoch < r.epoch →
            (Runs (.epochCommit m) s fun t =>
                t.yrd.epoch = r.epoch ∧ t.yrd.boundary = r.boundary ∧ t.yrd.map = r.map ∧ t.yrd.history = s.yrd.history ++ [r] ∧ t.yrd.adopted = none
                ∧ ctr t 0x0F0118 = satAdd (ctr s 0x0F0118) 1 ∧ t.yrd.pageSeq = s.yrd.pageSeq + 1
                ∧ (Memory.wf (some 0#8) s.cartMem = true → beAt (cmRead t (0x1000 + 0x800 * (t.yrd.pageSeq % 2)) 2048) 68 4 = r.epoch)
                ∧ t.yrd.heldMsgs = s.yrd.heldMsgs.filter (fun x => r.epoch < x.epoch)
                ∧ (∀ x ∈ s.yrd.heldMsgs, x.epoch ≤ r.epoch → ∃ d ∈ t.fab.delivered, d.bytes = msgBytes x))
            ∧ (∀ w q c, s.yrd.wants = [w] → w.cmd = some q → findCmd s q = some c →
                (if w.member = 0xFF then w.state = r.gen else AMap.get? r.map w.member = some (w.state, w.host)) → Runs (.epochCommit m) s fun t => Ended t q Status.ok r.epoch ∧ t.yrd.wants = [])
            ∧ (∀ d o, s.yrd.nextDesc = some d → s.yrd.desc = some o → d.gen = r.gen → o.gen < r.gen → Runs (.epochCommit m) s fun t =>
                t.yrd.desc = some d ∧ t.yrd.nextDesc = none ∧ t.yrd.oldDescs = s.yrd.oldDescs ++ [(r.boundary, o)] ∧ t.yrd.reshapeBound = r.boundary)
            ∧ (AMap.wf s.yrd.journal = true → (∀ x ∈ s.yrd.journal ++ s.yrd.replicas, x.2.stripe = x.1) → Runs (.epochCommit m) s fun t => ∀ st c, coordinator t st = some c →
                (c ≠ s.yrd.member → (AMap.get? s.yrd.journal st).isSome = true → AMap.get? t.yrd.journal st = none)
                ∧ (c = s.yrd.member → (AMap.get? s.yrd.replicas st).isSome = true → (AMap.get? t.yrd.journal st).isSome = true))))
    ∧ (∀ st e, AMap.get? s.yrd.journal st = some e → e.stripe = st → e.st = .opened ∨ e.st = .held →
        (∀ r, r < e.m → AMap.getD e.holders (r + 1) 0xFF = roleHolder s e.rework st (r + 1)) →
        let t := reassess st s
        ∃ x, AMap.get? t.yrd.journal st = some x
          ∧ (x.st = .held ↔ ∃ k, k < e.k ∧ memberState s (slotMember s st k) = 1 ∧ unfinished e k = true)
          ∧ ∀ k, k < e.k → memberState s (slotMember s st k) = 2 → AMap.getD e.slots k 0 = 0 ∨ unfinished e k = true →
              AMap.get? x.slots k = some 2
              ∧ (unfinished e k = true → ∃ l ∈ t.shd.lossLog, l.stripe = st ∧ l.member = slotMember s st k ∧ l.cause = 2))

/-- Descriptor segments, ledger entries, the start of a reshape and its checkpoints. DESC_REQ is answered with three
segments of the descriptor held. DESC_PART is kept; once whole the descriptor is held if its digest and generation are
those of the Yard page, and discarded if not. A LEDGER's Loss Log entries stand in the Loss Log, its stand-ins in the
list; a reshape checkpoint is recorded and the Yard page written. RESHAPE_START on the current generation, below the
boundary, makes the reshape active from the last checkpoint; the leader opens the stripe there as an entry that is
reworked, and a unit at hand leaves as partial products. After 64 stripes the leader records the checkpoint, writes its
page, and sends it to every PRESENT member. (Ledger layout: the model's choice, log entry 46.) (R346, R351, R373, R374,
R375, R376, R378) -/
def Obligations.DescriptorsLedgersAndReshapes : Prop :=
  ∀ (s : State) (m : YMsg),
    let u := takeDelivered m s
    (Heard YT.descReq m s →
        (∀ d, s.yrd.desc = some d → Runs (.descReq m) s fun t => t.yrd = s.yrd
            ∧ t.fab = (each (fun i z => sendMsg { yMsg s YT.descPart 0xFFFFFFFF m.src 0 0xFF (segment d.raw i) with seg := i } z) [0, 1, 2] u).fab)
        ∧ (s.yrd.desc = none → Runs (.descReq m) s fun t => t.yrd = s.yrd ∧ t.fab = u.fab))
    ∧ (Heard YT.descPart m s →
        let parts := AMap.set s.yrd.descParts m.seg m.payload
        ((∃ i, i < 3 ∧ AMap.get? parts i = none) → Runs (.descPart m) s fun t => t.yrd = { s.yrd with descParts := parts })
        ∧ (∀ a b c, AMap.get? parts 0 = some a → AMap.get? parts 1 = some b → AMap.get? parts 2 = some c →
            let raw := a ++ b ++ c
            let fits := sha384 raw = s.yrd.wantDigest ∧ (Desc.parse raw).gen = s.yrd.wantGen ∧ raw.length = 133376
            (fits → Runs (.descPart m) s fun t => t.yrd = { s.yrd with descParts := [], desc := some (Desc.parse raw) })
            ∧ (¬fits → Runs (.descPart m) s fun t => t.yrd = { s.yrd with descParts := [] })))
    ∧ (Heard YT.ledger m s →
        let b := m.payload.drop 1
        (beAt m.payload 0 1 = 0 → Runs (.ledger m) s fun t =>
            (∀ l ∈ s.shd.lossLog, l ∈ t.shd.lossLog) ∧ ∀ i, i < b.length / 64 → lossParse (slice b (64 * i) 64) ∈ t.shd.lossLog)
        ∧ (beAt m.payload 0 1 = 1 → Runs (.ledger m) s fun t =>
            (∀ x ∈ s.yrd.standIns, x ∈ t.yrd.standIns) ∧ ∀ i, i < b.length / 6 → (beAt b (6 * i) 4, beAt b (6 * i + 4) 1, beAt b (6 * i + 5) 1) ∈ t.yrd.standIns)
        ∧ (2 ≤ beAt m.payload 0 1 → Runs (.ledger m) s fun t =>
            t.yrd = { s.yrd with reshapePos := beAt b 0 4, reshapeR := max s.yrd.reshapeR (beAt b 0 4), pageSeq := s.yrd.pageSeq + 1 }
            ∧ (Memory.wf (some 0#8) s.cartMem = true → beAt (cmRead t (0x1000 + 0x800 * (t.yrd.pageSeq % 2)) 2048) 76 4 = beAt b 0 4)))
    ∧ (∀ src arg w, Takes .yard src 0x0006 arg s w →
        let st := w.yrd.reshapePos
        let held := ∃ d, w.yrd.desc = some d ∧ d.gen = bits arg 31 0
        let v := updYrd (fun y => { y with reshapeActive := true, reshapeR := y.reshapePos, reshapeSent := none }) w
        (held → st < w.yrd.reshapeBound →
            (Runs (.reshapeStart src arg) s fun t => t.yrd.reshapeActive = true ∧ t.yrd.reshapeR = st)
            ∧ (leaderOf w = some w.yrd.member → AMap.get? w.yrd.journal st = none → Runs (.reshapeStart src arg) s fun t =>
                ∃ e, AMap.get? t.yrd.journal st = some e ∧ e.rework = true ∧ e.st = .opened ∧ e.holders = (rolesOf v true st).map fun j => (j, roleHolder v true st j))
            ∧ (∀ k x b c, leaderOf w = some c → c ≠ w.yrd.member → dataSlot v st w.yrd.member = some k → (w.yrd.units.find? fun x => x.stripe == st && x.place == k) = some x →
                unitAtHand w x.part x.ds = some b → Runs (.reshapeStart src arg) s fun t =>
                  t.yrd = { v.yrd with reshapeSent := some st }
                  ∧ ∃ z, Before w z t ∧ t.fab = (sendPartials true st k b (sendOnce (yMsg w YT.claimed st c 0 k (be 1 x.part ++ be 4 x.ds)) z)).fab))
        ∧ (¬held ∨ w.yrd.reshapeBound ≤ st → Runs (.reshapeStart src arg) s fun t => t = w))
    ∧ (isLeader s = true → s.yrd.reshapePos + 64 ≤ s.yrd.reshapeR → Runs .reshapeCheckpoint s fun t =>
        t.yrd = { s.yrd with reshapePos := s.yrd.reshapeR, pageSeq := s.yrd.pageSeq + 1 }
        ∧ ∃ v, Before s v t ∧ t.fab = (each (fun (x : Nat × (Nat × Nat)) z =>
            if x.2.1 = 0 ∧ isSelf s x.1 = false then sendMsg (yMsg s YT.ledger 0xFFFFFFFF x.1 0 0xFF (be 1 2 ++ be 4 s.yrd.reshapeR)) z else z) s.yrd.map v).fab)
    ∧ (isLeader s = false ∨ s.yrd.reshapeR < s.yrd.reshapePos + 64 → Runs .reshapeCheckpoint s fun t => t = s)

/-- YARD_ENROL, YARD_DECLARE_LOST, YARD_REPLACE, YARD_RESHAPE and YARD_QUERY. A due YARD_ENROL with a wrong length or list
ends INVALID_FIELD, without a loaded cartridge NOT_READY, with a descriptor that fails a check CONFIG_INVALID, for no
member of it or another Yard's cartridge INVALID_FIELD; else the member is enrolled under the descriptor, the mask kept,
its Yard page written, OK. YARD_DECLARE_LOST without quorum ends NOT_READY, for no living member INVALID_FIELD, else
runs as a wanted change. YARD_REPLACE on a blank cartridge for a LOST member formats it with that member's wraps and
origin, then enrols it as a replacement and wants it PRESENT. YARD_RESHAPE keeps the accepted next descriptor and wants
its generation. YARD_QUERY writes 512 bytes: the epoch record, then the counts. (R343, R344, R345, R346, R347, R367,
R370, R374, R380, R469) -/
def Obligations.YardCommandsActThroughEpochs : Prop :=
  ∀ (s : State) (q : Nat) (sgl : Bytes) (data : Bytes) (c : Cmd),
    let d := Desc.parse (fit data 133376)
    let i := bits c.e.param 5 0
    (due s q 0xB0 = some c →
        (c.e.length ≠ 133376 ∨ sglOk c.e sgl c.e.length = false → Runs (.yardEnrol q sgl data) s fun t => Ended t q Status.invalidField 0 ∧ t.yrd = s.yrd)
        ∧ (c.e.length = 133376 → sglOk c.e sgl c.e.length = true →
            (s.cart.st ≠ .ready → Runs (.yardEnrol q sgl data) s fun t => Ended t q Status.notReady 0 ∧ t.yrd = s.yrd)
            ∧ (s.cart.st = .ready → d.accepted = false → Runs (.yardEnrol q sgl data) s fun t => Ended t q Status.configInvalid 0 ∧ t.yrd = s.yrd)
            ∧ (s.cart.st = .ready → d.accepted = true → d.n ≤ i ∨ (s.yrd.enrolled = true ∧ s.yrd.yardId ≠ d.yard) → Runs (.yardEnrol q sgl data) s fun t =>
                Ended t q Status.invalidField 0 ∧ t.yrd = s.yrd)
            ∧ (s.cart.st = .ready → d.accepted = true → i < d.n → s.yrd.enrolled = false ∨ s.yrd.yardId = d.yard → Runs (.yardEnrol q sgl data) s fun t =>
                Ended t q Status.ok 0 ∧ t.yrd.enrolled = true ∧ t.yrd.member = i ∧ t.yrd.yardId = d.yard ∧ t.yrd.desc = some d ∧ t.yrd.replacing = false
                ∧ t.yrd.wantGen = d.gen ∧ t.yrd.wantDigest = sha384 d.raw ∧ t.yrd.parityPart = ((d.members[i]?).map fun x => x.2.1).getD 0
                ∧ t.yrd.pageSeq = s.yrd.pageSeq + 1 ∧ t.cart.enrolMask = bits c.e.param 11 8
                ∧ (s.yrd.yardId = d.yard ∧ s.yrd.map ≠ [] → t.yrd.epoch = s.yrd.epoch ∧ t.yrd.map = s.yrd.map)
                ∧ (¬(s.yrd.yardId = d.yard ∧ s.yrd.map ≠ []) → t.yrd.epoch = 1 ∧ t.yrd.boundary = 0 ∧ t.yrd.map = [(i, (0, nodeId s))])
                ∧ (Memory.wf (some 0#8) s.cartMem = true → cmRead t (0x1000 + 0x800 * (t.yrd.pageSeq % 2)) 2048 = yardPage t))))
    ∧ (due s q 0xB1 = some c →
        (hasQuorum s = false → Runs (.yardDeclareLost q) s fun t => Ended t q Status.notReady 0 ∧ t.yrd = s.yrd)
        ∧ (hasQuorum s = true → 2 ≤ memberState s i → Runs (.yardDeclareLost q) s fun t => Ended t q Status.invalidField 0 ∧ t.yrd = s.yrd)
        ∧ (hasQuorum s = true → memberState s i < 2 → Runs (.yardDeclareLost q) s fun t =>
            findCmd t q = some { c with st := .running } ∧ t.yrd.wants = s.yrd.wants ++ [{ member := i, state := 2, host := 0, cmd := some q }] ∧ t.yrd.change.isSome = true))
    ∧ (due s q 0xB2 = some c →
        (s.yrd.desc = none ∨ s.cart.st ≠ .ready ∨ reachesHalf s = false → Runs (.yardReplace q) s fun t => Ended t q Status.notReady 0 ∧ t.yrd = s.yrd)
        ∧ (∀ o, s.yrd.desc = some o → s.cart.st = .ready → reachesHalf s = true →
            (s.cart.formatState ≠ 0 ∨ memberState s i ≠ 2 → Runs (.yardReplace q) s fun t => Ended t q Status.invalidField 0 ∧ t.yrd = s.yrd)
            ∧ (∀ x, s.cart.formatState = 0 → memberState s i = 2 → o.members[i]? = some x → Runs (.yardReplace q) s fun t =>
                findCmd t q = some { c with st := .running } ∧ t.cart.formatCount = s.cart.formatCount + 1 ∧ t.hq.writes = []
                ∧ ∀ p, p < 4 → p < (x.2.2.filter fun n => 0 < n).length →
                    (partAt t p).wraps = (x.2.2.filter fun n => 0 < n).getD p 0 ∧ (partAt t p).yardMember = true ∧ (partAt t p).originYard = o.yard ∧ (partAt t p).originSerial = x.1)))
    ∧ (due s q 0xB2 = none → runningCmd s q 0xB2 = some c → ∀ o, s.yrd.desc = some o →
        ((∃ w ∈ s.yrd.wants, w.cmd = some q) → Runs (.yardReplace q) s fun t => t = s)
        ∧ ((∀ w ∈ s.yrd.wants, w.cmd ≠ some q) → s.cart.dirTodo = [] → s.wrv.windowOpen = false → Runs (.yardReplace q) s fun t =>
            t.yrd.wants = s.yrd.wants ++ [{ member := i, state := 0, host := nodeId s, cmd := some q }] ∧ t.yrd.replacing = true ∧ t.yrd.enrolled = true ∧ t.yrd.member = i
            ∧ t.yrd.pageSeq = s.yrd.pageSeq + 1 ∧ findCmd t q = some c))
    ∧ (due s q 0xB3 = some c →
        (c.e.length ≠ 133376 ∨ sglOk c.e sgl c.e.length = false → Runs (.yardReshape q sgl data) s fun t => Ended t q Status.invalidField 0 ∧ t.yrd = s.yrd)
        ∧ (c.e.length = 133376 → sglOk c.e sgl c.e.length = true →
            (hasQuorum s = false → Runs (.yardReshape q sgl data) s fun t => Ended t q Status.notReady 0 ∧ t.yrd = s.yrd)
            ∧ (hasQuorum s = true → s.yrd.desc = none → Runs (.yardReshape q sgl data) s fun t => Ended t q Status.configInvalid 0 ∧ t.yrd = s.yrd)
            ∧ (hasQuorum s = true → ∀ o, s.yrd.desc = some o →
                let fits := d.accepted = true ∧ d.yard = o.yard ∧ d.gen = o.gen + 1 ∧ o.n ≤ d.n ∧ o.k + d.m ≤ min d.n 32
                (¬fits → Runs (.yardReshape q sgl data) s fun t => Ended t q Status.configInvalid 0 ∧ t.yrd = s.yrd)
                ∧ (fits → Runs (.yardReshape q sgl data) s fun t => findCmd t q = some { c with st := .running } ∧ t.yrd.nextDesc = some d ∧ t.yrd.desc = some o
                    ∧ t.yrd.wants = s.yrd.wants ++ [{ member := 0xFF, state := d.gen, host := 0, cmd := some q }] ∧ t.yrd.change.isSome = true))))
    ∧ (due s q 0xB4 = some c →
        (c.e.length < 512 → Runs (.yardQuery q sgl) s fun t => Ended t q Status.lengthLimit 0 ∧ t.hostMem = s.hostMem)
        ∧ (512 ≤ c.e.length → sglOk c.e sgl c.e.length = false → Runs (.yardQuery q sgl) s fun t => Ended t q Status.invalidField 0 ∧ t.hostMem = s.hostMem)
        ∧ (512 ≤ c.e.length → sglOk c.e sgl c.e.length = true → Runs (.yardQuery q sgl) s fun t =>
            Ended t q Status.ok 512 ∧ t.hostMem = (sglWrite (sglOf c.e sgl) 0 (fit (recBytes (currentRec s) ++ yardCounts s) 512) s).hostMem))

/-- Messages, epoch records, journal entries and Loss Log entries are read back as they were written. For every Yard message
whose fields fit their places, reading the bytes it travels as gives the message. For every epoch record whose map is in
order, names members below 64, PRESENT, ABSENT or LOST, and hosts of 16 bits, reading the record's bytes gives the
record. For every Loss Log entry whose fields fit, reading its 64 bytes gives the entry. For every journal entry whose
fields fit, its 128 bytes are read as an entry of the same stripe, epoch, state, k, m, generation, holders and
milliseconds, with the same state of every slot, and the same done, laid and safe bits. (R345, R355, R373, R377, R378) -/
def Obligations.YardEncodingsKeepTheirFields : Prop :=
  (∀ m : YMsg, m.type < 2 ^ 8 → m.seg < 2 ^ 16 → m.epoch < 2 ^ 32 → m.yard < 2 ^ 64 → m.stripe < 2 ^ 32 → m.src < 2 ^ 8 → m.dst < 2 ^ 8 → m.role < 2 ^ 8 → m.slot < 2 ^ 8 →
      msgParse (msgBytes m) = some m)
  ∧ (∀ r : EpochRec, r.epoch < 2 ^ 32 → r.boundary < 2 ^ 32 → r.gen < 2 ^ 32 → AMap.wf r.map = true → (∀ x ∈ r.map, x.1 < 64 ∧ x.2.1 < 3 ∧ x.2.2 < 2 ^ 16) →
      recParse r.leader (recBytes r) = r)
  ∧ (∀ l : Loss, l.yard < 2 ^ 64 → l.stripe < 2 ^ 32 → l.member < 2 ^ 8 → l.part < 2 ^ 8 → l.cause < 2 ^ 8 → l.ds < 2 ^ 32 → l.count < 2 ^ 32 → l.first < 2 ^ 64 →
      l.epoch < 2 ^ 32 → l.erasures < 2 ^ 32 → l.serial.length = 20 → lossParse (lossMsg l) = l)
  ∧ (∀ e : JEntry, e.stripe < 2 ^ 32 → e.epoch < 2 ^ 32 → e.k < 2 ^ 8 → e.m ≤ 4 → e.gen < 2 ^ 32 → e.ms < 2 ^ 32 →
      e.holders = ((List.range e.m).map fun r => (r + 1, AMap.getD e.holders (r + 1) 0)) → (∀ x ∈ e.holders, x.2 < 2 ^ 16) →
      AMap.wf e.slots = true → (∀ x ∈ e.slots, x.1 < 32 ∧ x.2 < 4) → AMap.wf e.done = true → (∀ x ∈ e.done, x.1 < 128) →
      AMap.wf e.laid = true → (∀ x ∈ e.laid, 1 ≤ x.1 ∧ x.1 ≤ 4) → AMap.wf e.acks = true → (∀ x ∈ e.acks, x.1 < 32) →
      (entryBytes e).length = 128 ∧ ∃ x, entryParse (entryBytes e) = some x
        ∧ x.stripe = e.stripe ∧ x.epoch = e.epoch ∧ x.st = e.st ∧ x.k = e.k ∧ x.m = e.m ∧ x.gen = e.gen ∧ x.ms = e.ms ∧ x.holders = e.holders
        ∧ (∀ t, AMap.getD x.slots t 0 = AMap.getD e.slots t 0) ∧ (∀ i, mem? x.done i = mem? e.done i)
        ∧ (∀ j, mem? x.laid j = mem? e.laid j) ∧ (∀ t, mem? x.acks t = mem? e.acks t))

end
end

