-- ==== Sys2Proof/Laws/Map.lean ====
section
/-!
SUPPORT. Laws of the sparse map: reading after writing and removing, and the canonical form that both keep.
-/

namespace Sys2Proof

variable {α : Type}

@[simp] theorem AMap.get?_nil (i : Nat) : AMap.get? ([] : AMap α) i = none := rfl

@[simp] theorem AMap.get?_set_self (m : AMap α) (i : Nat) (v : α) : AMap.get? (AMap.set m i v) i = some v := by
  induction m with
  | nil => simp [AMap.set, AMap.get?]
  | cons p m ih =>
    obtain ⟨k, w⟩ := p
    by_cases h : i < k
    · simp [AMap.set, h, AMap.get?]
    · by_cases e : i = k
      · simp [AMap.set, e, AMap.get?]
      · simp [AMap.set, h, e, AMap.get?, ih]

theorem AMap.get?_set_of_ne (m : AMap α) {i j : Nat} (v : α) (n : i ≠ j) :
    AMap.get? (AMap.set m i v) j = AMap.get? m j := by
  induction m with
  | nil => simp [AMap.set, AMap.get?, Ne.symm n]
  | cons p m ih =>
    obtain ⟨k, w⟩ := p
    by_cases h : i < k
    · simp [AMap.set, h, AMap.get?, Ne.symm n]
    · by_cases e : i = k
      · subst e; simp [AMap.set, AMap.get?, Ne.symm n]
      · simp [AMap.set, h, e, AMap.get?, ih]

@[simp] theorem AMap.getD_set_self (m : AMap α) (i : Nat) (v d : α) : AMap.getD (AMap.set m i v) i d = v := by
  simp [AMap.getD]

theorem AMap.getD_set_of_ne (m : AMap α) {i j : Nat} (v d : α) (n : i ≠ j) :
    AMap.getD (AMap.set m i v) j d = AMap.getD m j d := by
  simp [AMap.getD, AMap.get?_set_of_ne m v n]

/-- Keys of a written map: those of the map and the key written. -/
theorem AMap.mem_keys_set (m : AMap α) (i : Nat) (v : α) {k : Nat} (h : k ∈ (AMap.set m i v).map Prod.fst) :
    k = i ∨ k ∈ m.map Prod.fst := by
  induction m with
  | nil => simp_all [AMap.set]
  | cons p m ih =>
    obtain ⟨l, w⟩ := p
    by_cases c : i < l
    · simp_all [AMap.set]
    · by_cases e : i = l
      · simp_all [AMap.set]
      · simp only [AMap.set, c, e, if_false, List.map_cons, List.mem_cons] at h ⊢
        rcases h with h | h
        · exact .inr (.inl h)
        · rcases ih h with h | h
          · exact .inl h
          · exact .inr (.inr h)

/-- Writing keeps the canonical form. -/
theorem AMap.wf_set (m : AMap α) (i : Nat) (v : α) (h : AMap.wf m = true) : AMap.wf (AMap.set m i v) = true := by
  simp only [AMap.wf, decide_eq_true_eq] at h ⊢
  induction m with
  | nil => simp [AMap.set]
  | cons p m ih =>
    obtain ⟨k, w⟩ := p
    simp only [List.map_cons, List.pairwise_cons] at h
    by_cases c : i < k
    · simp only [AMap.set, c, if_true, List.map_cons, List.pairwise_cons]
      refine ⟨fun a ha => ?_, h.1, h.2⟩
      rcases List.mem_cons.mp ha with rfl | ha
      · exact c
      · exact lt_trans c (h.1 a ha)
    · by_cases e : i = k
      · subst e; simpa [AMap.set] using h
      · simp only [AMap.set, c, e, if_false, List.map_cons, List.pairwise_cons]
        refine ⟨fun a ha => ?_, ih h.2⟩
        rcases AMap.mem_keys_set m i v ha with rfl | ha
        · omega
        · exact h.1 a ha

/-- Removing a key leaves only keys of the map. -/
theorem AMap.mem_keys_erase (m : AMap α) (i : Nat) {k : Nat} (h : k ∈ (AMap.erase m i).map Prod.fst) : k ∈ m.map Prod.fst := by
  induction m with
  | nil => simpa [AMap.erase] using h
  | cons p m ih =>
    obtain ⟨l, w⟩ := p
    by_cases e : i = l
    · simp only [AMap.erase, e, if_true] at h; exact List.mem_cons_of_mem _ h
    · simp only [AMap.erase, e, if_false, List.map_cons, List.mem_cons] at h ⊢
      exact h.imp id ih

/-- Removing keeps the canonical form. -/
theorem AMap.wf_erase (m : AMap α) (i : Nat) (h : AMap.wf m = true) : AMap.wf (AMap.erase m i) = true := by
  simp only [AMap.wf, decide_eq_true_eq] at h ⊢
  induction m with
  | nil => simp [AMap.erase]
  | cons p m ih =>
    obtain ⟨k, w⟩ := p
    simp only [List.map_cons, List.pairwise_cons] at h
    by_cases e : i = k
    · simpa [AMap.erase, e] using h.2
    · simp only [AMap.erase, e, if_false, List.map_cons, List.pairwise_cons]
      exact ⟨fun a ha => h.1 a (AMap.mem_keys_erase m i ha), ih h.2⟩

/-- A removed key reads as unlisted in a map of canonical form. -/
theorem AMap.get?_erase_self (m : AMap α) (i : Nat) (h : AMap.wf m = true) : AMap.get? (AMap.erase m i) i = none := by
  simp only [AMap.wf, decide_eq_true_eq] at h
  induction m with
  | nil => rfl
  | cons p m ih =>
    obtain ⟨k, w⟩ := p
    simp only [List.map_cons, List.pairwise_cons] at h
    by_cases e : i = k
    · subst e
      simp only [AMap.erase, if_true]
      have unlisted : ∀ n : AMap α, (∀ a ∈ n.map Prod.fst, i < a) → AMap.get? n i = none := by
        intro n
        induction n with
        | nil => intro _; rfl
        | cons q n ihn =>
          intro hn
          obtain ⟨l, x⟩ := q
          have := hn l (by simp)
          simp only [AMap.get?, show i ≠ l by omega, if_false]
          exact ihn fun a ha => hn a (List.mem_cons_of_mem _ ha)
      exact unlisted m h.1
    · simp only [AMap.erase, e, if_false, AMap.get?]
      exact ih h.2

theorem AMap.get?_erase_of_ne (m : AMap α) {i j : Nat} (n : i ≠ j) : AMap.get? (AMap.erase m i) j = AMap.get? m j := by
  induction m with
  | nil => rfl
  | cons p m ih =>
    obtain ⟨k, w⟩ := p
    by_cases e : i = k
    · subst e; simp [AMap.erase, AMap.get?, Ne.symm n]
    · simp [AMap.erase, e, AMap.get?, ih]

/-- A property of every value of a map holds of every value after a write of a value that has it. -/
theorem AMap.all_set {P : Nat × α → Prop} (m : AMap α) (i : Nat) (v : α) (h : ∀ x ∈ m, P x) (hv : P (i, v)) :
    ∀ x ∈ AMap.set m i v, P x := by
  induction m with
  | nil => simpa [AMap.set] using hv
  | cons p m ih =>
    obtain ⟨k, w⟩ := p
    have h' : ∀ x ∈ m, P x := fun x hx => h x (List.mem_cons_of_mem _ hx)
    by_cases c : i < k
    · simpa [AMap.set, c] using ⟨hv, h (k, w) (by simp), fun a b hx => h' (a, b) hx⟩
    · by_cases e : i = k
      · simpa [AMap.set, e] using ⟨by simpa [e] using hv, fun a b hx => h' (a, b) hx⟩
      · simpa [AMap.set, c, e] using ⟨h (k, w) (by simp), fun a b hx => ih h' (a, b) hx⟩

end Sys2Proof
end

