-- ==== Sys2Proof/Laws/Memory.lean ====
section
/-!
SUPPORT. The addressed memories (host memory, cartridge memory, the image slots of the NOR): a read after a write, and that
every operation on them keeps their canonical form. The counters: what counting leaves, and that it saturates.
-/

namespace Sys2Proof.Machine

theorem Memory.wf_iff (u : Option Byte) (m : AMap Byte) :
    Memory.wf u m = true ↔ AMap.wf m = true ∧ ∀ x ∈ m, some x.2 ≠ u := by
  simp [Memory.wf, List.all_eq_true]

theorem AMap.mem_erase {α : Type} {m : AMap α} {i : Nat} {x : Nat × α} (h : x ∈ AMap.erase m i) : x ∈ m := by
  induction m with
  | nil => exact h
  | cons p m ih =>
    simp only [AMap.erase] at h
    split at h
    · exact List.mem_cons_of_mem _ h
    · rcases List.mem_cons.mp h with e | h
      · exact e ▸ List.mem_cons_self ..
      · exact List.mem_cons_of_mem _ (ih h)

/-- One byte written to a memory whose unlisted bytes read as `d`. -/
def putByte (d : Byte) (m : AMap Byte) (a : Nat) (b : Byte) : AMap Byte := if b = d then AMap.erase m a else AMap.set m a b

theorem putByte_wf (d : Byte) (m : AMap Byte) (a : Nat) (b : Byte) (h : Memory.wf (some d) m = true) :
    Memory.wf (some d) (putByte d m a b) = true := by
  rw [Memory.wf_iff] at h ⊢
  unfold putByte
  split
  · exact ⟨AMap.wf_erase _ _ h.1, fun x hx => h.2 x (AMap.mem_erase hx)⟩
  · rename_i n
    exact ⟨AMap.wf_set _ _ _ h.1, AMap.all_set (P := fun x => some x.2 ≠ some d) _ _ _ h.2 (by simpa using n)⟩

theorem putByte_get (d : Byte) (m : AMap Byte) (a c : Nat) (b : Byte) (h : AMap.wf m = true) :
    AMap.getD (putByte d m a b) c d = if c = a then b else AMap.getD m c d := by
  unfold putByte
  by_cases e : c = a
  · subst e
    split
    · rename_i hb
      simp [AMap.getD, AMap.get?_erase_self _ _ h, hb]
    · simp
  · rw [if_neg e]
    split
    · simp [AMap.getD, AMap.get?_erase_of_ne _ (Ne.symm e)]
    · exact AMap.getD_set_of_ne _ _ _ (Ne.symm e)

theorem putBytes_wf (d : Byte) (xs : List (Byte × Nat)) (a : Nat) (m : AMap Byte) (h : Memory.wf (some d) m = true) :
    Memory.wf (some d) (xs.foldl (fun m x => if x.1 = d then AMap.erase m (a + x.2) else AMap.set m (a + x.2) x.1) m) = true := by
  induction xs generalizing m with
  | nil => exact h
  | cons x xs ih => exact ih _ (putByte_wf d m (a + x.2) x.1 h)

theorem hostWrite_wf (a : Nat) (bs : Bytes) (s : State) (h : Memory.wf none s.hostMem = true) :
    Memory.wf none (hostWrite a bs s).hostMem = true := by
  rw [Memory.wf_iff] at h ⊢
  refine ⟨?_, fun _ _ => by simp⟩
  show AMap.wf (bs.zipIdx.foldl _ s.hostMem) = true
  have k := h.1
  generalize s.hostMem = m at k
  generalize bs.zipIdx = xs
  induction xs generalizing m with
  | nil => exact k
  | cons x xs ih => exact ih _ (AMap.wf_set _ _ _ k)

theorem cmWrite_wf (a : Nat) (bs : Bytes) (s : State) (h : Memory.wf (some 0#8) s.cartMem = true) :
    Memory.wf (some 0#8) (cmWrite a bs s).cartMem = true := putBytes_wf 0#8 bs.zipIdx a s.cartMem h

theorem norWrite_wf (a : Nat) (bs : Bytes) (s : State) (h : Memory.wf (some 0xFF#8) s.norMem = true) :
    Memory.wf (some 0xFF#8) (norWrite a bs s).norMem = true := putBytes_wf 0xFF#8 bs.zipIdx a s.norMem h

/-- Bytes written in order from an address on: what a byte of the map reads as afterwards. -/
theorem setBytes_get (xs : Bytes) (a k c : Nat) (m : AMap Byte) :
    AMap.get? ((xs.zipIdx k).foldl (fun m x => AMap.set m (a + x.2) x.1) m) c =
      if a + k ≤ c ∧ c < a + k + xs.length then xs[c - (a + k)]? else AMap.get? m c := by
  induction xs generalizing k m with
  | nil => rw [if_neg (by simp only [List.length_nil]; omega)]; rfl
  | cons x xs ih =>
    rw [List.zipIdx_cons, List.foldl_cons, ih (k + 1)]
    simp only [List.length_cons]
    by_cases h1 : a + (k + 1) ≤ c ∧ c < a + (k + 1) + xs.length
    · rw [if_pos h1, if_pos (by omega)]
      have e : c - (a + k) = (c - (a + (k + 1))) + 1 := by omega
      rw [e, List.getElem?_cons_succ]
    · rw [if_neg h1]
      by_cases h2 : c = a + k
      · subst h2
        rw [if_pos (by omega)]
        simp
      · rw [if_neg (by omega), AMap.get?_set_of_ne _ _ (by omega)]

/-- A byte of host memory after a write (R6): the byte written there, or what it read before. -/
theorem hostByte_hostWrite (a : Nat) (bs : Bytes) (s : State) (c : Nat) :
    hostByte (hostWrite a bs s) c = if a ≤ c ∧ c < a + bs.length then bs[c - a]? else hostByte s c := by
  have h := setBytes_get bs a 0 c s.hostMem
  simpa [hostByte, hostWrite] using h

theorem putBytes_get (d : Byte) (xs : Bytes) (a k c : Nat) (m : AMap Byte) (h : Memory.wf (some d) m = true) :
    AMap.getD ((xs.zipIdx k).foldl (fun m x => if x.1 = d then AMap.erase m (a + x.2) else AMap.set m (a + x.2) x.1) m) c d =
      if a + k ≤ c ∧ c < a + k + xs.length then xs.getD (c - (a + k)) d else AMap.getD m c d := by
  induction xs generalizing k m with
  | nil => rw [if_neg (by simp only [List.length_nil]; omega)]; rfl
  | cons x xs ih =>
    rw [List.zipIdx_cons, List.foldl_cons]
    have g := putByte_get d m (a + k) c x ((Memory.wf_iff _ _).mp h).1
    have w := putByte_wf d m (a + k) x h
    simp only [putByte] at g w
    rw [ih (k + 1) _ w, g]
    simp only [List.length_cons]
    by_cases h1 : a + (k + 1) ≤ c ∧ c < a + (k + 1) + xs.length
    · rw [if_pos h1, if_pos (by omega)]
      have e : c - (a + k) = (c - (a + (k + 1))) + 1 := by omega
      rw [e, List.getD_cons_succ]
    · rw [if_neg h1]
      by_cases h2 : c = a + k
      · subst h2
        rw [if_pos rfl, if_pos (by omega)]
        simp
      · rw [if_neg h2, if_neg (by omega)]

/-- A byte of cartridge memory after a write. -/
theorem cmByte_cmWrite (a : Nat) (bs : Bytes) (s : State) (c : Nat) (h : Memory.wf (some 0#8) s.cartMem = true) :
    cmByte (cmWrite a bs s) c = if a ≤ c ∧ c < a + bs.length then bs.getD (c - a) 0#8 else cmByte s c := by
  have k := putBytes_get 0#8 bs a 0 c s.cartMem h
  simpa [cmByte, cmWrite] using k

/-- A byte of the NOR after a write. -/
theorem norByte_norWrite (a : Nat) (bs : Bytes) (s : State) (c : Nat) (h : Memory.wf (some 0xFF#8) s.norMem = true) :
    norByte (norWrite a bs s) c = if a ≤ c ∧ c < a + bs.length then bs.getD (c - a) 0xFF#8 else norByte s c := by
  have k := putBytes_get 0xFF#8 bs a 0 c s.norMem h
  simpa [norByte, norWrite] using k

theorem ctr_addCtr (off n c : Nat) (s : State) : ctr (addCtr off n s) c = if c = off then satAdd (ctr s off) n else ctr s c := by
  unfold ctr addCtr
  dsimp only
  split
  · rename_i h
    rw [h, AMap.getD_set_self]
    rfl
  · rename_i h
    exact AMap.getD_set_of_ne _ _ _ (Ne.symm h)

theorem ctr_inc (off c : Nat) (s : State) : ctr (inc off s) c = if c = off then satAdd (ctr s off) 1 else ctr s c := ctr_addCtr ..

theorem satAdd_le (a b : Nat) : satAdd a b ≤ 0xFFFFFFFF := Nat.min_le_right _ _

theorem addCtr_inv (off n : Nat) (s : State) (i : Inv s) : Inv (addCtr off n s) :=
  ⟨i.host, i.cart, i.nor, AMap.wf_set _ _ _ i.counters,
    AMap.all_set (P := fun x => x.2 ≤ 0xFFFFFFFF) _ _ _ i.saturate (satAdd_le _ _), i.violations, i.kind, i.port, i.fn, i.offset⟩

theorem hostWrite_inv (a : Nat) (bs : Bytes) (s : State) (i : Inv s) : Inv (hostWrite a bs s) :=
  ⟨hostWrite_wf _ _ _ i.host, i.cart, i.nor, i.counters, i.saturate, i.violations, i.kind, i.port, i.fn, i.offset⟩

theorem cmWrite_inv (a : Nat) (bs : Bytes) (s : State) (i : Inv s) : Inv (cmWrite a bs s) :=
  ⟨i.host, cmWrite_wf _ _ _ i.cart, i.nor, i.counters, i.saturate, i.violations, i.kind, i.port, i.fn, i.offset⟩

theorem norWrite_inv (a : Nat) (bs : Bytes) (s : State) (i : Inv s) : Inv (norWrite a bs s) :=
  ⟨i.host, i.cart, norWrite_wf _ _ _ i.nor, i.counters, i.saturate, i.violations, i.kind, i.port, i.fn, i.offset⟩

end Sys2Proof.Machine
end

