-- ==== Sys2Proof/Laws/Only.lean ====
section
/-!
SUPPORT. How frames compose: which parts of the state a chain of operations leaves alone, and that it keeps the invariant. Within these laws a list of parts is a
number, one bit for each part.
-/

namespace Sys2Proof.Machine

def Fld.idx : Fld → Nat
  | .glb => 0 | .hq => 1 | .parts => 2 | .cart => 3 | .stk => 4 | .cmp => 5 | .cip => 6 | .wrv => 7 | .rch => 8 | .srv => 9
  | .brd => 10 | .shd => 11 | .yrd => 12 | .fab => 13 | .boxes => 14 | .mgt => 15 | .cfg => 16 | .ctrs => 17 | .hostMem => 18
  | .cartMem => 19 | .norMem => 20 | .freeCtr => 21 | .pending => 22

/-- Every part whose bit is clear is unchanged, and the invariant is kept. -/
structure Frame (m : Nat) (s t : State) : Prop where
  same : ∀ f : Fld, m.testBit f.idx = false → f.same s t
  keep : Inv s → Inv t

/-- A command answers a next state, within a frame. -/
structure FrameOut (m : Nat) (s : State) (o : Out) : Prop where
  answers : ∃ t, o = .next t ∧ Frame m s t

theorem FrameOut.next {m : Nat} {s : State} {o : Out} (h : FrameOut m s o) (t : State) (e : o = .next t) : Frame m s t := by
  obtain ⟨u, rfl, k⟩ := h.answers
  cases e
  exact k

theorem Fld.same_refl (f : Fld) (s : State) : f.same s s := by cases f <;> rfl

theorem Fld.same_trans (f : Fld) {s u t : State} (h : f.same s u) (k : f.same u t) : f.same s t := by
  cases f <;> exact Eq.trans k h

theorem Frame.refl (m : Nat) (s : State) : Frame m s s := ⟨fun f _ => f.same_refl s, id⟩

/-- One more operation, whose frame is within the frame of the whole. -/
theorem Frame.andThen {m n : Nat} {s u t : State} (h : Frame m s u) (k : Frame n u t) (sub : n ||| m = m) : Frame m s t := by
  refine ⟨fun f hf => f.same_trans (h.same f hf) (k.same f ?_), fun i => k.keep (h.keep i)⟩
  rw [← sub, Nat.testBit_or] at hf
  exact (Bool.or_eq_false_iff.mp hf).1

theorem Frame.mono {m n : Nat} {s t : State} (k : Frame n s t) (sub : n ||| m = m) : Frame m s t :=
  (Frame.refl m s).andThen k sub

/-- An operation applied to each element of a list. -/
theorem Frame.each {α : Type} {m : Nat} {s u : State} {g : α → State → State} (xs : List α) (h : Frame m s u)
    (k : ∀ x v, Frame m v (g x v)) : Frame m s (each g xs u) := by
  induction xs generalizing u with
  | nil => exact h
  | cons x xs ih => exact ih (h.andThen (k x u) (Nat.or_self m))

/-- A fold whose accumulator is the state. -/
theorem Frame.foldl {α : Type} {m : Nat} {s u : State} {g : State → α → State} (xs : List α) (h : Frame m s u)
    (k : ∀ x v, Frame m v (g v x)) : Frame m s (xs.foldl g u) := by
  induction xs generalizing u with
  | nil => exact h
  | cons x xs ih => exact ih (h.andThen (k x u) (Nat.or_self m))

/-- A fold whose accumulator carries the state beside a value. -/
theorem Frame.foldl_snd {α β : Type} {m : Nat} {s : State} {u : β × State} {g : β × State → α → β × State} (xs : List α)
    (h : Frame m s u.2) (k : ∀ x (v : β × State), Frame m v.2 (g v x).2) : Frame m s (xs.foldl g u).2 := by
  induction xs generalizing u with
  | nil => exact h
  | cons x xs ih => exact ih (h.andThen (k x u) (Nat.or_self m))

theorem FrameOut.go {m : Nat} {s t : State} (h : Frame m s t) : FrameOut m s (go t) := ⟨t, rfl, h⟩

theorem FrameOut.mono {m n : Nat} {s : State} {o : Out} (h : FrameOut n s o) (sub : n ||| m = m) : FrameOut m s o := by
  obtain ⟨t, e, k⟩ := h.answers
  exact ⟨t, e, k.mono sub⟩

/-- An optional state that stays where it was when there is none. -/
theorem Frame.getD {m : Nat} {s d : State} {o : Option State} (k : ∀ t, o = some t → Frame m s t) (h : Frame m s d) :
    Frame m s (o.getD d) := by
  cases o with
  | none => exact h
  | some t => exact k t rfl

/-- The frame of a computation that may fail. -/
structure FrameExc (m : Nat) (s : State) (r : Except (Nat × State) (Bytes × State)) : Prop where
  ok : ∀ b t, r = .ok (b, t) → Frame m s t
  error : ∀ n t, r = .error (n, t) → Frame m s t

/-- The number of a list of parts. -/
def maskOf (fs : List Fld) : Nat := fs.foldr (fun f m => 1 <<< f.idx ||| m) 0

theorem Fld.idx_inj (f g : Fld) (h : f.idx = g.idx) : f = g := by
  cases f <;> cases g <;> first | rfl | exact absurd h (by decide)

theorem maskOf_testBit (fs : List Fld) (f : Fld) (h : f ∉ fs) : (maskOf fs).testBit f.idx = false := by
  induction fs with
  | nil => exact Nat.zero_testBit _
  | cons g gs ih =>
    have n : g.idx ≠ f.idx := fun e => h (Fld.idx_inj g f e ▸ List.mem_cons_self ..)
    have r : maskOf (g :: gs) = 1 <<< g.idx ||| maskOf gs := rfl
    rw [r, Nat.testBit_or, Nat.one_shiftLeft, Nat.testBit_two_pow_of_ne n, Bool.false_or]
    exact ih fun k => h (List.mem_cons_of_mem _ k)

/-- A frame within a list of parts: everything outside the list is unchanged. -/
theorem Frame.only {m : Nat} {s t : State} (fs : List Fld) (h : Frame m s t) (sub : m ||| maskOf fs = maskOf fs) : Only fs s t :=
  ⟨fun f n => (h.mono sub).same f (maskOf_testBit fs f n)⟩

theorem Frame.set_glb {m : Nat} {s u : State} (h : Frame m s u) (x : Glb) (b : m.testBit 0 = true)
    (k : Inv u → Inv { u with glb := x }) : Frame m s { u with glb := x } :=
  ⟨fun f hf => by cases f <;> first | exact h.same _ hf | exact absurd (b.symm.trans hf) Bool.noConfusion, fun i => k (h.keep i)⟩

theorem Frame.set_hq {m : Nat} {s u : State} (h : Frame m s u) (x : Hq) (b : m.testBit 1 = true) :
    Frame m s { u with hq := x } :=
  ⟨fun f hf => by cases f <;> first | exact h.same _ hf | exact absurd (b.symm.trans hf) Bool.noConfusion, fun i =>
    ⟨(h.keep i).host, (h.keep i).cart, (h.keep i).nor, (h.keep i).counters, (h.keep i).saturate, (h.keep i).violations,
      (h.keep i).kind, (h.keep i).port, (h.keep i).fn, (h.keep i).offset⟩⟩

theorem Frame.set_parts {m : Nat} {s u : State} (h : Frame m s u) (x : AMap Part) (b : m.testBit 2 = true) :
    Frame m s { u with parts := x } :=
  ⟨fun f hf => by cases f <;> first | exact h.same _ hf | exact absurd (b.symm.trans hf) Bool.noConfusion, fun i =>
    ⟨(h.keep i).host, (h.keep i).cart, (h.keep i).nor, (h.keep i).counters, (h.keep i).saturate, (h.keep i).violations,
      (h.keep i).kind, (h.keep i).port, (h.keep i).fn, (h.keep i).offset⟩⟩

theorem Frame.set_cart {m : Nat} {s u : State} (h : Frame m s u) (x : Cart) (b : m.testBit 3 = true) :
    Frame m s { u with cart := x } :=
  ⟨fun f hf => by cases f <;> first | exact h.same _ hf | exact absurd (b.symm.trans hf) Bool.noConfusion, fun i =>
    ⟨(h.keep i).host, (h.keep i).cart, (h.keep i).nor, (h.keep i).counters, (h.keep i).saturate, (h.keep i).violations,
      (h.keep i).kind, (h.keep i).port, (h.keep i).fn, (h.keep i).offset⟩⟩

theorem Frame.set_stk {m : Nat} {s u : State} (h : Frame m s u) (x : Stk) (b : m.testBit 4 = true) :
    Frame m s { u with stk := x } :=
  ⟨fun f hf => by cases f <;> first | exact h.same _ hf | exact absurd (b.symm.trans hf) Bool.noConfusion, fun i =>
    ⟨(h.keep i).host, (h.keep i).cart, (h.keep i).nor, (h.keep i).counters, (h.keep i).saturate, (h.keep i).violations,
      (h.keep i).kind, (h.keep i).port, (h.keep i).fn, (h.keep i).offset⟩⟩

theorem Frame.set_cmp {m : Nat} {s u : State} (h : Frame m s u) (x : Cmp) (b : m.testBit 5 = true) :
    Frame m s { u with cmp := x } :=
  ⟨fun f hf => by cases f <;> first | exact h.same _ hf | exact absurd (b.symm.trans hf) Bool.noConfusion, fun i =>
    ⟨(h.keep i).host, (h.keep i).cart, (h.keep i).nor, (h.keep i).counters, (h.keep i).saturate, (h.keep i).violations,
      (h.keep i).kind, (h.keep i).port, (h.keep i).fn, (h.keep i).offset⟩⟩

theorem Frame.set_cip {m : Nat} {s u : State} (h : Frame m s u) (x : Cip) (b : m.testBit 6 = true) :
    Frame m s { u with cip := x } :=
  ⟨fun f hf => by cases f <;> first | exact h.same _ hf | exact absurd (b.symm.trans hf) Bool.noConfusion, fun i =>
    ⟨(h.keep i).host, (h.keep i).cart, (h.keep i).nor, (h.keep i).counters, (h.keep i).saturate, (h.keep i).violations,
      (h.keep i).kind, (h.keep i).port, (h.keep i).fn, (h.keep i).offset⟩⟩

theorem Frame.set_wrv {m : Nat} {s u : State} (h : Frame m s u) (x : Wrv) (b : m.testBit 7 = true) :
    Frame m s { u with wrv := x } :=
  ⟨fun f hf => by cases f <;> first | exact h.same _ hf | exact absurd (b.symm.trans hf) Bool.noConfusion, fun i =>
    ⟨(h.keep i).host, (h.keep i).cart, (h.keep i).nor, (h.keep i).counters, (h.keep i).saturate, (h.keep i).violations,
      (h.keep i).kind, (h.keep i).port, (h.keep i).fn, (h.keep i).offset⟩⟩

theorem Frame.set_rch {m : Nat} {s u : State} (h : Frame m s u) (x : Rch) (b : m.testBit 8 = true) :
    Frame m s { u with rch := x } :=
  ⟨fun f hf => by cases f <;> first | exact h.same _ hf | exact absurd (b.symm.trans hf) Bool.noConfusion, fun i =>
    ⟨(h.keep i).host, (h.keep i).cart, (h.keep i).nor, (h.keep i).counters, (h.keep i).saturate, (h.keep i).violations,
      (h.keep i).kind, (h.keep i).port, (h.keep i).fn, (h.keep i).offset⟩⟩

theorem Frame.set_srv {m : Nat} {s u : State} (h : Frame m s u) (x : Srv) (b : m.testBit 9 = true) :
    Frame m s { u with srv := x } :=
  ⟨fun f hf => by cases f <;> first | exact h.same _ hf | exact absurd (b.symm.trans hf) Bool.noConfusion, fun i =>
    ⟨(h.keep i).host, (h.keep i).cart, (h.keep i).nor, (h.keep i).counters, (h.keep i).saturate, (h.keep i).violations,
      (h.keep i).kind, (h.keep i).port, (h.keep i).fn, (h.keep i).offset⟩⟩

theorem Frame.set_brd {m : Nat} {s u : State} (h : Frame m s u) (x : Brd) (b : m.testBit 10 = true) :
    Frame m s { u with brd := x } :=
  ⟨fun f hf => by cases f <;> first | exact h.same _ hf | exact absurd (b.symm.trans hf) Bool.noConfusion, fun i =>
    ⟨(h.keep i).host, (h.keep i).cart, (h.keep i).nor, (h.keep i).counters, (h.keep i).saturate, (h.keep i).violations,
      (h.keep i).kind, (h.keep i).port, (h.keep i).fn, (h.keep i).offset⟩⟩

theorem Frame.set_shd {m : Nat} {s u : State} (h : Frame m s u) (x : Shd) (b : m.testBit 11 = true) :
    Frame m s { u with shd := x } :=
  ⟨fun f hf => by cases f <;> first | exact h.same _ hf | exact absurd (b.symm.trans hf) Bool.noConfusion, fun i =>
    ⟨(h.keep i).host, (h.keep i).cart, (h.keep i).nor, (h.keep i).counters, (h.keep i).saturate, (h.keep i).violations,
      (h.keep i).kind, (h.keep i).port, (h.keep i).fn, (h.keep i).offset⟩⟩

theorem Frame.set_yrd {m : Nat} {s u : State} (h : Frame m s u) (x : Yrd) (b : m.testBit 12 = true) :
    Frame m s { u with yrd := x } :=
  ⟨fun f hf => by cases f <;> first | exact h.same _ hf | exact absurd (b.symm.trans hf) Bool.noConfusion, fun i =>
    ⟨(h.keep i).host, (h.keep i).cart, (h.keep i).nor, (h.keep i).counters, (h.keep i).saturate, (h.keep i).violations,
      (h.keep i).kind, (h.keep i).port, (h.keep i).fn, (h.keep i).offset⟩⟩

theorem Frame.set_fab {m : Nat} {s u : State} (h : Frame m s u) (x : Fab) (b : m.testBit 13 = true) :
    Frame m s { u with fab := x } :=
  ⟨fun f hf => by cases f <;> first | exact h.same _ hf | exact absurd (b.symm.trans hf) Bool.noConfusion, fun i =>
    ⟨(h.keep i).host, (h.keep i).cart, (h.keep i).nor, (h.keep i).counters, (h.keep i).saturate, (h.keep i).violations,
      (h.keep i).kind, (h.keep i).port, (h.keep i).fn, (h.keep i).offset⟩⟩

theorem Frame.set_boxes {m : Nat} {s u : State} (h : Frame m s u) (x : Boxes) (b : m.testBit 14 = true) :
    Frame m s { u with boxes := x } :=
  ⟨fun f hf => by cases f <;> first | exact h.same _ hf | exact absurd (b.symm.trans hf) Bool.noConfusion, fun i =>
    ⟨(h.keep i).host, (h.keep i).cart, (h.keep i).nor, (h.keep i).counters, (h.keep i).saturate, (h.keep i).violations,
      (h.keep i).kind, (h.keep i).port, (h.keep i).fn, (h.keep i).offset⟩⟩

theorem Frame.set_mgt {m : Nat} {s u : State} (h : Frame m s u) (x : Mgt) (b : m.testBit 15 = true) :
    Frame m s { u with mgt := x } :=
  ⟨fun f hf => by cases f <;> first | exact h.same _ hf | exact absurd (b.symm.trans hf) Bool.noConfusion, fun i =>
    ⟨(h.keep i).host, (h.keep i).cart, (h.keep i).nor, (h.keep i).counters, (h.keep i).saturate, (h.keep i).violations,
      (h.keep i).kind, (h.keep i).port, (h.keep i).fn, (h.keep i).offset⟩⟩

theorem Frame.set_cfg {m : Nat} {s u : State} (h : Frame m s u) (x : Cfg) (b : m.testBit 16 = true) :
    Frame m s { u with cfg := x } :=
  ⟨fun f hf => by cases f <;> first | exact h.same _ hf | exact absurd (b.symm.trans hf) Bool.noConfusion, fun i =>
    ⟨(h.keep i).host, (h.keep i).cart, (h.keep i).nor, (h.keep i).counters, (h.keep i).saturate, (h.keep i).violations,
      (h.keep i).kind, (h.keep i).port, (h.keep i).fn, (h.keep i).offset⟩⟩

theorem Frame.set_ctrs {m : Nat} {s u : State} (h : Frame m s u) (x : AMap Nat) (b : m.testBit 17 = true)
    (k : Inv u → Inv { u with ctrs := x }) : Frame m s { u with ctrs := x } :=
  ⟨fun f hf => by cases f <;> first | exact h.same _ hf | exact absurd (b.symm.trans hf) Bool.noConfusion, fun i => k (h.keep i)⟩

theorem Frame.set_hostMem {m : Nat} {s u : State} (h : Frame m s u) (x : AMap Byte) (b : m.testBit 18 = true)
    (k : Inv u → Inv { u with hostMem := x }) : Frame m s { u with hostMem := x } :=
  ⟨fun f hf => by cases f <;> first | exact h.same _ hf | exact absurd (b.symm.trans hf) Bool.noConfusion, fun i => k (h.keep i)⟩

theorem Frame.set_cartMem {m : Nat} {s u : State} (h : Frame m s u) (x : AMap Byte) (b : m.testBit 19 = true)
    (k : Inv u → Inv { u with cartMem := x }) : Frame m s { u with cartMem := x } :=
  ⟨fun f hf => by cases f <;> first | exact h.same _ hf | exact absurd (b.symm.trans hf) Bool.noConfusion, fun i => k (h.keep i)⟩

theorem Frame.set_norMem {m : Nat} {s u : State} (h : Frame m s u) (x : AMap Byte) (b : m.testBit 20 = true)
    (k : Inv u → Inv { u with norMem := x }) : Frame m s { u with norMem := x } :=
  ⟨fun f hf => by cases f <;> first | exact h.same _ hf | exact absurd (b.symm.trans hf) Bool.noConfusion, fun i => k (h.keep i)⟩

theorem Frame.set_freeCtr {m : Nat} {s u : State} (h : Frame m s u) (x : Nat) (b : m.testBit 21 = true) :
    Frame m s { u with freeCtr := x } :=
  ⟨fun f hf => by cases f <;> first | exact h.same _ hf | exact absurd (b.symm.trans hf) Bool.noConfusion, fun i =>
    ⟨(h.keep i).host, (h.keep i).cart, (h.keep i).nor, (h.keep i).counters, (h.keep i).saturate, (h.keep i).violations,
      (h.keep i).kind, (h.keep i).port, (h.keep i).fn, (h.keep i).offset⟩⟩

theorem Frame.set_pending {m : Nat} {s u : State} (h : Frame m s u) (x : List Instr) (b : m.testBit 22 = true) :
    Frame m s { u with pending := x } :=
  ⟨fun f hf => by cases f <;> first | exact h.same _ hf | exact absurd (b.symm.trans hf) Bool.noConfusion, fun i =>
    ⟨(h.keep i).host, (h.keep i).cart, (h.keep i).nor, (h.keep i).counters, (h.keep i).saturate, (h.keep i).violations,
      (h.keep i).kind, (h.keep i).port, (h.keep i).fn, (h.keep i).offset⟩⟩

end Sys2Proof.Machine
end

