-- ==== Sys2Proof/Laws/FrameOps.lean ====
section
/-!
SUPPORT. What each operation leaves alone: the counters, mailboxes, Stalls, cipher, tape and write operations that every unit shares. The number of a frame has one bit for each part of the state
that the operation may write (`Fld.idx`).
-/

namespace Sys2Proof.Machine

set_option linter.all false

theorem addCtr_frame (off n : Nat) (s : State) : Frame 0x20000 s (addCtr off n s) :=
  (Frame.refl _ s).set_ctrs _ rfl (addCtr_inv _ _ s)

theorem inc_frame (off : Nat) (s : State) : Frame 0x20000 s (inc off s) := by
  unfold inc
  try dsimp only
  repeat' first
      | (with_reducible assumption) | (with_reducible exact Frame.refl _ _)
      | (apply Frame.andThen; rotate_left; (with_reducible apply addCtr_frame); rfl) | (split) | (dsimp only)

theorem drawMany_frame (n : Nat) (s : State) : Frame 0x200000 s (drawMany n s) := by
  unfold drawMany
  try dsimp only
  repeat' first
      | (with_reducible assumption) | (with_reducible exact Frame.refl _ _) | (split) | (dsimp only)
      | ((with_reducible apply Frame.set_freeCtr); rotate_left; rfl)

theorem drawNext_frame (s : State) : Frame 0x200000 s (drawNext s) := by
  unfold drawNext
  try dsimp only
  repeat' first
      | (with_reducible assumption) | (with_reducible exact Frame.refl _ _) | (split) | (dsimp only)
      | ((with_reducible apply Frame.set_freeCtr); rotate_left; rfl)

theorem setDoms_frame (ds : List Nat) (on : Bool) (s : State) : Frame 0x8000 s (setDoms ds on s) := by
  unfold setDoms
  try dsimp only
  repeat' first
      | (with_reducible assumption) | (with_reducible exact Frame.refl _ _) | (with_reducible refine Frame.foldl_snd _ ?_ (fun _ _ => ?_))
      | (with_reducible refine Frame.foldl _ ?_ (fun _ _ => ?_)) | (split) | (dsimp only)
      | ((with_reducible apply Frame.set_mgt); rotate_left; rfl)

theorem setBox_frame (b : Box) (ms : List Mail) (s : State) : Frame 0x4000 s (setBox b ms s) := by
  unfold setBox
  try dsimp only
  repeat' first
      | (with_reducible assumption) | (with_reducible exact Frame.refl _ _) | (split) | (dsimp only)
      | ((with_reducible apply Frame.set_boxes); rotate_left; rfl)

theorem pushBox_frame (b : Box) (m : Mail) (s : State) : Frame 0x4000 s (pushBox b m s) := by
  unfold pushBox
  try dsimp only
  repeat' first
      | (with_reducible assumption) | (with_reducible exact Frame.refl _ _)
      | (apply Frame.andThen; rotate_left; (with_reducible apply setBox_frame); rfl) | (split) | (dsimp only)

theorem pushMgt_frame (m : Mail) (s : State) : Frame 0x24000 s (pushMgt m s) := by
  unfold pushMgt
  try dsimp only
  repeat' first
      | (with_reducible assumption) | (with_reducible exact Frame.refl _ _)
      | (apply Frame.andThen; rotate_left; (with_reducible apply pushBox_frame); rfl)
      | (apply Frame.andThen; rotate_left; (with_reducible apply inc_frame); rfl) | (split) | (dsimp only)

theorem post_frame (b : Box) (src : Nat) (code : Nat) (arg : Nat) (s : State) : Frame 0x2c000 s (post b src code arg s) := by
  unfold post
  try dsimp only
  repeat' first
      | (with_reducible assumption) | (with_reducible exact Frame.refl _ _)
      | (apply Frame.andThen; rotate_left; (with_reducible apply pushMgt_frame); rfl)
      | (apply Frame.andThen; rotate_left; (with_reducible apply pushBox_frame); rfl) | (split) | (dsimp only)
      | (refine Frame.set_mgt (Frame.set_boxes ?_ _ (by rfl)) _ (by rfl)) | ((with_reducible apply Frame.set_boxes); rotate_left; rfl)
      | ((with_reducible apply Frame.set_mgt); rotate_left; rfl)

theorem refillBox_frame (b : Box) (s : State) : Frame 0x4000 s (refillBox b s) := by
  unfold refillBox
  try dsimp only
  repeat' first
      | (with_reducible assumption) | (with_reducible exact Frame.refl _ _)
      | (apply Frame.andThen; rotate_left; (with_reducible apply pushBox_frame); rfl) | (split) | (dsimp only)
      | ((with_reducible apply Frame.set_boxes); rotate_left; rfl)

theorem postMgt_frame (b : Box) (code : Nat) (arg : Nat) (s : State) : Frame 0x2c000 s (postMgt b code arg s) := by
  unfold postMgt
  try dsimp only
  repeat' first
      | (with_reducible assumption) | (with_reducible exact Frame.refl _ _)
      | (apply Frame.andThen; rotate_left; (with_reducible apply post_frame); rfl) | (split) | (dsimp only)
      | ((with_reducible apply Frame.set_mgt); rotate_left; rfl)

theorem postEvent_frame (src : Nat) (block : Nat) (ev : Nat) (prio : Bool) (arg : Nat) (s : State)
    : Frame 0x24000 s (postEvent src block ev prio arg s) := by
  unfold postEvent
  try dsimp only
  repeat' first
      | (with_reducible assumption) | (with_reducible exact Frame.refl _ _)
      | (apply Frame.andThen; rotate_left; (with_reducible apply pushMgt_frame); rfl) | (split) | (dsimp only)

theorem boxTake_frame {m : Nat} {b : Box} {src code arg : Nat} (act : State → State) {s u : State} (h : Frame m u s)
    (sub : 0x2c000 ||| m = m) (k : ∀ v, Frame m v (act v)) : Frame m u (boxTake b src code arg act s) := by
  have step : ∀ (n : Nat) (a c : State), Frame n a c → n ||| 0x2c000 = 0x2c000 → Frame m u a → Frame m u c :=
    fun n a c hb hn ha => ha.andThen hb (by rw [← sub, ← Nat.or_assoc, hn])
  unfold boxTake
  dsimp only
  split
  · split
    · exact (step _ _ _ (refillBox_frame ..) rfl (step _ _ _ (setBox_frame ..) rfl h)).andThen (k _) (Nat.or_self m)
    · exact h
  · split
    · exact step 0x8000 _ _ ((Frame.refl _ s).set_mgt _ rfl) rfl h
    · split
      · exact h.andThen (k _) (Nat.or_self m)
      · exact step _ _ _ (post_frame ..) rfl h

theorem sameCycle_frame {m : Nat} {b : Box} {act : State → State} {s u : State} (h : Frame m s (act u)) (sub : 0x4000 ||| m = m) :
    Frame m s (sameCycle b act u) := h.andThen (setBox_frame ..) (by rw [← sub, ← Nat.or_assoc]; rfl)

theorem hostWrite_frame (addr : Nat) (bs : Bytes) (s : State) : Frame 0x40000 s (hostWrite addr bs s) :=
  (Frame.refl _ s).set_hostMem _ rfl (hostWrite_inv _ _ s)

theorem sglWrite_frame (x0 : List ScatterElem) (x1 : Nat) (x2 : Bytes) (x3 : State) : Frame 0x40000 x3 (sglWrite x0 x1 x2 x3) := by
  fun_induction sglWrite x0 x1 x2 x3 <;> try dsimp +zetaDelta only
  all_goals
  repeat' first
      | (with_reducible assumption) | (with_reducible exact Frame.refl _ _)
      | (apply Frame.andThen; rotate_left; (with_reducible apply hostWrite_frame); rfl)
      | (apply Frame.andThen; rotate_left; assumption; rfl) | (split) | (dsimp only)

theorem setStall_frame (n : Nat) (x : Stall) (s : State) : Frame 0x10 s (setStall n x s) := by
  unfold setStall
  try dsimp only
  repeat' first
      | (with_reducible assumption) | (with_reducible exact Frame.refl _ _) | (split) | (dsimp only)
      | ((with_reducible apply Frame.set_stk); rotate_left; rfl)

theorem setStable_frame (b : Nat) (x : Stable) (s : State) : Frame 0x10 s (setStable b x s) := by
  unfold setStable
  try dsimp only
  repeat' first
      | (with_reducible assumption) | (with_reducible exact Frame.refl _ _) | (split) | (dsimp only)
      | ((with_reducible apply Frame.set_stk); rotate_left; rfl)

theorem grantOne_frame (req : Nat) (b : Nat) (s : State) {a_ : Handle} {s' : State} (h : grantOne req b s = some (a_, s'))
    : Frame 0x10 s s' := by
  unfold grantOne at h
  try dsimp only at h
  repeat' split at h
  all_goals try cases h
  all_goals
  repeat' first
      | (with_reducible assumption) | (with_reducible exact Frame.refl _ _)
      | (apply Frame.andThen; rotate_left; (with_reducible apply setStable_frame); rfl)
      | (apply Frame.andThen; rotate_left; (with_reducible apply setStall_frame); rfl) | (split) | (dsimp only)

theorem grant_frame (req : Nat) (b : Nat) (x2 : Nat) (x3 : State) : Frame 0x10 x3 (grant req b x2 x3).2 := by
  fun_induction grant req b x2 x3 <;> try dsimp +zetaDelta only
  all_goals
  repeat' first
      | (with_reducible assumption) | (with_reducible exact Frame.refl _ _)
      | (apply Frame.andThen; rotate_left; (with_reducible apply grantOne_frame) <;> assumption; rfl)
      | (apply Frame.andThen; rotate_left; assumption; rfl) | (split) | (dsimp only)

theorem grant_frame_eq (req : Nat) (b : Nat) (x2 : Nat) (x3 : State) {a_ : List Handle} {s' : State} (h : grant req b x2 x3 = (a_, s'))
    : Frame 0x10 x3 s' := by
  have k := grant_frame req b x2 x3
  rwa [h] at k

theorem badFree_frame (kind : Nat) (req : Nat) (stall : Nat) (s : State) : Frame 0x24010 s (badFree kind req stall s) := by
  unfold badFree
  try dsimp only
  repeat' first
      | (with_reducible assumption) | (with_reducible exact Frame.refl _ _)
      | (apply Frame.andThen; rotate_left; (with_reducible apply postEvent_frame); rfl)
      | (apply Frame.andThen; rotate_left; (with_reducible apply inc_frame); rfl) | (split) | (dsimp only)
      | ((with_reducible apply Frame.set_stk); rotate_left; rfl)

theorem release_frame (n : Nat) (s : State) : Frame 0x10 s (release n s) := by
  unfold release
  try dsimp only
  repeat' first
      | (with_reducible assumption) | (with_reducible exact Frame.refl _ _)
      | (apply Frame.andThen; rotate_left; (with_reducible apply setStable_frame); rfl)
      | (apply Frame.andThen; rotate_left; (with_reducible apply setStall_frame); rfl) | (split) | (dsimp only)

theorem freeHeld_frame (n : Nat) (s : State) : Frame 0x10 s (freeHeld n s) := by
  unfold freeHeld
  try dsimp only
  repeat' first
      | (with_reducible assumption) | (with_reducible exact Frame.refl _ _)
      | (apply Frame.andThen; rotate_left; (with_reducible apply setStall_frame); rfl)
      | (apply Frame.andThen; rotate_left; (with_reducible apply release_frame); rfl) | (split) | (dsimp only)

theorem freeOne_frame (o : StallOp) (s : State) : Frame 0x24010 s (freeOne o s) := by
  unfold freeOne
  try dsimp only
  repeat' first
      | (with_reducible assumption) | (with_reducible exact Frame.refl _ _)
      | (apply Frame.andThen; rotate_left; (with_reducible apply freeHeld_frame); rfl)
      | (apply Frame.andThen; rotate_left; (with_reducible apply badFree_frame); rfl)
      | (with_reducible refine Frame.each _ ?_ (fun _ _ => ?_)) | (split) | (dsimp only)

theorem freeChain_frame (x0 : Nat) (x1 : Nat) (x2 : Nat) (x3 : State) : Frame 0x24010 x3 (freeChain x0 x1 x2 x3) := by
  fun_induction freeChain x0 x1 x2 x3 <;> try dsimp +zetaDelta only
  all_goals
  repeat' first
      | (with_reducible assumption) | (with_reducible exact Frame.refl _ _)
      | (apply Frame.andThen; rotate_left; (with_reducible apply freeHeld_frame); rfl)
      | (apply Frame.andThen; rotate_left; (with_reducible apply badFree_frame); rfl) | (apply Frame.andThen; rotate_left; assumption; rfl)
      | (split) | (dsimp only)

theorem giveBack_frame (req : Nat) (h : Handle) (s : State) : Frame 0x24010 s (giveBack req h s) := by
  unfold giveBack
  try dsimp only
  repeat' first
      | (with_reducible assumption) | (with_reducible exact Frame.refl _ _)
      | (apply Frame.andThen; rotate_left; (with_reducible apply freeOne_frame); rfl) | (split) | (dsimp only)

theorem pin_frame (n : Nat) (gen : Nat) (s : State) : Frame 0x10 s (pin n gen s) := by
  unfold pin
  try dsimp only
  repeat' first
      | (with_reducible assumption) | (with_reducible exact Frame.refl _ _)
      | (apply Frame.andThen; rotate_left; (with_reducible apply setStall_frame); rfl) | (split) | (dsimp only)

theorem unpin_frame (n : Nat) (s : State) : Frame 0x10 s (unpin n s) := by
  unfold unpin
  try dsimp only
  repeat' first
      | (with_reducible assumption) | (with_reducible exact Frame.refl _ _)
      | (apply Frame.andThen; rotate_left; (with_reducible apply setStall_frame); rfl)
      | (apply Frame.andThen; rotate_left; (with_reducible apply release_frame); rfl) | (split) | (dsimp only)

theorem handOver_frame (req : Nat) (hs : List Handle) (s : State) : Frame 0x10 s (handOver req hs s) := by
  unfold handOver
  try dsimp only
  repeat' first
      | (with_reducible assumption) | (with_reducible exact Frame.refl _ _) | ((with_reducible apply Frame.getD) <;> intros) | (split)
      | (dsimp only) | ((with_reducible apply Frame.set_stk); rotate_left; rfl)

theorem serve_frame (req : Nat) (b : Nat) (count : Nat) (s : State) : Frame 0x10 s (serve req b count s) := by
  unfold serve
  try dsimp only
  repeat' first
      | (with_reducible assumption) | (with_reducible exact Frame.refl _ _)
      | (apply Frame.andThen; rotate_left; (with_reducible apply handOver_frame); rfl)
      | (apply Frame.andThen; rotate_left; (with_reducible apply grant_frame); rfl)
      | (apply Frame.andThen; rotate_left; (with_reducible apply grant_frame_eq) <;> assumption; rfl) | (split) | (dsimp only)

theorem grantHead_frame (b : Nat) (s : State) : Frame 0x10 s (grantHead b s) := by
  unfold grantHead
  try dsimp only
  repeat' first
      | (with_reducible assumption) | (with_reducible exact Frame.refl _ _)
      | (apply Frame.andThen; rotate_left; (with_reducible apply setStable_frame); rfl)
      | (apply Frame.andThen; rotate_left; (with_reducible apply serve_frame); rfl) | (split) | (dsimp only)

theorem takeRequests_frame (b : Nat) (x1 : List StallReq) (x2 : Option Nat) (x3 : State) : Frame 0x10 x3 (takeRequests b x1 x2 x3).2.2 := by
  fun_induction takeRequests b x1 x2 x3 <;> try dsimp +zetaDelta only
  all_goals
  repeat' first
      | (with_reducible assumption) | (with_reducible exact Frame.refl _ _)
      | (apply Frame.andThen; rotate_left; (with_reducible apply setStable_frame); rfl)
      | (apply Frame.andThen; rotate_left; (with_reducible apply serve_frame); rfl)
      | (with_reducible refine Frame.foldl_snd _ ?_ (fun _ _ => ?_)) | (with_reducible refine Frame.foldl _ ?_ (fun _ _ => ?_))
      | (apply Frame.andThen; rotate_left; assumption; rfl) | (split) | (dsimp only)

theorem takeRequests_frame_eq (b : Nat) (x1 : List StallReq) (x2 : Option Nat) (x3 : State) {a_ : Option Nat} {b_ : List StallReq}
    {s' : State} (h : takeRequests b x1 x2 x3 = (a_, b_, s'))
    : Frame 0x10 x3 s' := by
  have k := takeRequests_frame b x1 x2 x3
  rwa [h] at k

theorem requestsFor_frame (b : Nat) (reqs : List StallReq) (s : State) : Frame 0x10 s (requestsFor b reqs s).2 := by
  unfold requestsFor
  try dsimp only
  repeat' first
      | (with_reducible assumption) | (with_reducible exact Frame.refl _ _)
      | (apply Frame.andThen; rotate_left; (with_reducible apply setStable_frame); rfl)
      | (apply Frame.andThen; rotate_left; (with_reducible apply takeRequests_frame); rfl)
      | (apply Frame.andThen; rotate_left; (with_reducible apply takeRequests_frame_eq) <;> assumption; rfl)
      | ((with_reducible apply Frame.getD) <;> intros) | (split) | (dsimp only)

theorem requestsFor_frame_eq (b : Nat) (reqs : List StallReq) (s : State) {a_ : Bool} {s' : State} (h : requestsFor b reqs s = (a_, s'))
    : Frame 0x10 s s' := by
  have k := requestsFor_frame b reqs s
  rwa [h] at k

theorem newRequests_frame (good : List StallReq) (s : State) : Frame 0x20010 s (newRequests good s) := by
  unfold newRequests
  try dsimp only
  repeat' first
      | (with_reducible assumption) | (with_reducible exact Frame.refl _ _)
      | (apply Frame.andThen; rotate_left; (with_reducible apply requestsFor_frame); rfl)
      | (apply Frame.andThen; rotate_left; (with_reducible apply requestsFor_frame_eq) <;> assumption; rfl)
      | (apply Frame.andThen; rotate_left; (with_reducible apply inc_frame); rfl)
      | (with_reducible refine Frame.foldl_snd _ ?_ (fun _ _ => ?_)) | (with_reducible refine Frame.foldl _ ?_ (fun _ _ => ?_)) | (split)
      | (dsimp only)

theorem execStallRequest_frame (reqs : List StallReq) (s : State) : FrameOut 0x24010 s (execStallRequest reqs s) := by
  unfold execStallRequest
  try dsimp only
  repeat' first
      | (with_reducible refine FrameOut.go ?_) | (with_reducible assumption) | (with_reducible exact Frame.refl _ _)
      | (apply Frame.andThen; rotate_left; (with_reducible apply newRequests_frame); rfl)
      | (apply Frame.andThen; rotate_left; (with_reducible apply badFree_frame); rfl)
      | (with_reducible refine Frame.each _ ?_ (fun _ _ => ?_)) | (split) | (dsimp only)

theorem acquireFrom_frame (most : Nat) (req : Nat) (b : Nat) (n : Nat) (x4 : Nat) (x5 : State)
    : Frame 0x24010 x5 (acquireFrom most req b n x4 x5).2 := by
  fun_induction acquireFrom most req b n x4 x5 <;> try dsimp +zetaDelta only
  all_goals
  repeat' first
      | (with_reducible assumption) | (with_reducible exact Frame.refl _ _)
      | (apply Frame.andThen; rotate_left; (with_reducible apply newRequests_frame); rfl)
      | (apply Frame.andThen; rotate_left; (with_reducible apply giveBack_frame); rfl) | ((with_reducible apply Frame.getD) <;> intros)
      | (with_reducible refine Frame.each _ ?_ (fun _ _ => ?_)) | (apply Frame.andThen; rotate_left; assumption; rfl) | (split)
      | (dsimp only) | ((with_reducible apply Frame.set_stk); rotate_left; rfl)

theorem acquireFrom_frame_eq (most : Nat) (req : Nat) (b : Nat) (n : Nat) (x4 : Nat) (x5 : State) {a_ : Option (List Handle)} {s' : State}
    (h : acquireFrom most req b n x4 x5 = (a_, s'))
    : Frame 0x24010 x5 s' := by
  have k := acquireFrom_frame most req b n x4 x5
  rwa [h] at k

theorem acquire_frame (req : Nat) (b : Nat) (n : Nat) (s : State) : Frame 0x24010 s (acquire req b n s).2 := by
  unfold acquire
  try dsimp only
  repeat' first
      | (with_reducible assumption) | (with_reducible exact Frame.refl _ _)
      | (apply Frame.andThen; rotate_left; (with_reducible apply acquireFrom_frame); rfl)
      | (apply Frame.andThen; rotate_left; (with_reducible apply acquireFrom_frame_eq) <;> assumption; rfl) | (split) | (dsimp only)

theorem acquire_frame_eq (req : Nat) (b : Nat) (n : Nat) (s : State) {a_ : Option (List Handle)} {s' : State} (h : acquire req b n s =
    (a_, s'))
    : Frame 0x24010 s s' := by
  have k := acquire_frame req b n s
  rwa [h] at k

theorem acquireOne_frame (req : Nat) (b : Nat) (s : State) : Frame 0x24010 s (acquireOne req b s).2 := by
  unfold acquireOne
  try dsimp only
  repeat' first
      | (with_reducible assumption) | (with_reducible exact Frame.refl _ _)
      | (apply Frame.andThen; rotate_left; (with_reducible apply acquire_frame); rfl)
      | (apply Frame.andThen; rotate_left; (with_reducible apply acquire_frame_eq) <;> assumption; rfl) | (split) | (dsimp only)

theorem acquireOne_frame_eq (req : Nat) (b : Nat) (s : State) {a_ : Option Handle} {s' : State} (h : acquireOne req b s = (a_, s'))
    : Frame 0x24010 s s' := by
  have k := acquireOne_frame req b s
  rwa [h] at k

theorem execStallFree_frame (frees : List StallOp) (s : State) : FrameOut 0x24010 s (execStallFree frees s) := by
  unfold execStallFree
  try dsimp only
  repeat' first
      | (with_reducible refine FrameOut.go ?_) | (with_reducible assumption) | (with_reducible exact Frame.refl _ _)
      | (apply Frame.andThen; rotate_left; (with_reducible apply freeOne_frame); rfl)
      | (with_reducible refine Frame.each _ ?_ (fun _ _ => ?_)) | (split) | (dsimp only)

theorem execStallChainFree_frame (o : StallOp) (s : State) : FrameOut 0x24010 s (execStallChainFree o s) := by
  unfold execStallChainFree
  try dsimp only
  repeat' first
      | (with_reducible refine FrameOut.go ?_) | (with_reducible assumption) | (with_reducible exact Frame.refl _ _)
      | (apply Frame.andThen; rotate_left; (with_reducible apply freeHeld_frame); rfl)
      | (apply Frame.andThen; rotate_left; (with_reducible apply badFree_frame); rfl)
      | (apply Frame.andThen; rotate_left; (with_reducible apply freeChain_frame); rfl) | (split) | (dsimp only)

theorem execStallTransfer_frame (o : StallOp) (dest : Nat) (s : State) : FrameOut 0x24010 s (execStallTransfer o dest s) := by
  unfold execStallTransfer
  try dsimp only
  repeat' first
      | (with_reducible refine FrameOut.go ?_) | (with_reducible assumption) | (with_reducible exact Frame.refl _ _)
      | (apply Frame.andThen; rotate_left; (with_reducible apply setStall_frame); rfl)
      | (apply Frame.andThen; rotate_left; (with_reducible apply badFree_frame); rfl) | (split) | (dsimp only)

theorem linkStall_frame (o : StallOp) (next : Nat) (s : State) : Frame 0x24010 s (linkStall o next s) := by
  unfold linkStall
  try dsimp only
  repeat' first
      | (with_reducible assumption) | (with_reducible exact Frame.refl _ _)
      | (apply Frame.andThen; rotate_left; (with_reducible apply setStall_frame); rfl)
      | (apply Frame.andThen; rotate_left; (with_reducible apply badFree_frame); rfl) | (split) | (dsimp only)

theorem execStallLink_frame (o : StallOp) (next : Nat) (s : State) : FrameOut 0x24010 s (execStallLink o next s) := by
  unfold execStallLink
  try dsimp only
  repeat' first
      | (with_reducible refine FrameOut.go ?_) | (with_reducible assumption) | (with_reducible exact Frame.refl _ _)
      | (apply Frame.andThen; rotate_left; (with_reducible apply linkStall_frame); rfl) | (split) | (dsimp only)

theorem execStallPin_frame (stall : Nat) (gen : Nat) (s : State) : FrameOut 0x10 s (execStallPin stall gen s) := by
  unfold execStallPin
  try dsimp only
  repeat' first
      | (with_reducible refine FrameOut.go ?_) | (with_reducible assumption) | (with_reducible exact Frame.refl _ _)
      | (apply Frame.andThen; rotate_left; (with_reducible apply pin_frame); rfl) | (split) | (dsimp only)

theorem execStallUnpin_frame (stall : Nat) (s : State) : FrameOut 0x10 s (execStallUnpin stall s) := by
  unfold execStallUnpin
  try dsimp only
  repeat' first
      | (with_reducible refine FrameOut.go ?_) | (with_reducible assumption) | (with_reducible exact Frame.refl _ _)
      | (apply Frame.andThen; rotate_left; (with_reducible apply unpin_frame); rfl) | (split) | (dsimp only)

theorem execStallWaitGrant_frame (stable : Nat) (s : State) : FrameOut 0x10 s (execStallWaitGrant stable s) := by
  unfold execStallWaitGrant
  try dsimp only
  repeat' first
      | (with_reducible refine FrameOut.go ?_) | (with_reducible assumption) | (with_reducible exact Frame.refl _ _)
      | (apply Frame.andThen; rotate_left; (with_reducible apply grantHead_frame); rfl) | (split) | (dsimp only)

theorem execFreeCacheRefill_frame (stable : Nat) (s : State) : FrameOut 0x10 s (execFreeCacheRefill stable s) := by
  unfold execFreeCacheRefill
  try dsimp only
  repeat' first
      | (with_reducible refine FrameOut.go ?_) | (with_reducible assumption) | (with_reducible exact Frame.refl _ _)
      | (apply Frame.andThen; rotate_left; (with_reducible apply setStable_frame); rfl) | (split) | (dsimp only)

theorem execFreeCacheWriteback_frame (stable : Nat) (s : State) : FrameOut 0x10 s (execFreeCacheWriteback stable s) := by
  unfold execFreeCacheWriteback
  try dsimp only
  repeat' first
      | (with_reducible refine FrameOut.go ?_) | (with_reducible assumption) | (with_reducible exact Frame.refl _ _)
      | (apply Frame.andThen; rotate_left; (with_reducible apply setStable_frame); rfl) | (split) | (dsimp only)

theorem probeSel_frame (value : Nat) (s : State) : Frame 0x10 s (probeSel value s) := by
  unfold probeSel
  try dsimp only
  repeat' first
      | (with_reducible assumption) | (with_reducible exact Frame.refl _ _) | (split) | (dsimp only)
      | ((with_reducible apply Frame.set_stk); rotate_left; rfl)

theorem execStkProbeSel_frame (value : Nat) (s : State) : FrameOut 0x10 s (execStkProbeSel value s) := by
  unfold execStkProbeSel
  try dsimp only
  repeat' first
      | (with_reducible refine FrameOut.go ?_) | (with_reducible assumption) | (with_reducible exact Frame.refl _ _)
      | (apply Frame.andThen; rotate_left; (with_reducible apply probeSel_frame); rfl) | (split) | (dsimp only)

theorem buildStables_frame (s : State) : Frame 0x10 s (buildStables s) := by
  unfold buildStables
  try dsimp only
  repeat' first
      | (with_reducible assumption) | (with_reducible exact Frame.refl _ _) | ((with_reducible apply Frame.getD) <;> intros)
      | (with_reducible refine Frame.foldl_snd _ ?_ (fun _ _ => ?_)) | (with_reducible refine Frame.foldl _ ?_ (fun _ _ => ?_)) | (split)
      | (dsimp only) | ((with_reducible apply Frame.set_stk); rotate_left; rfl)

theorem setSlot_frame (n : Nat) (x : KeySlot) (s : State) : Frame 0x40 s (setSlot n x s) := by
  unfold setSlot
  try dsimp only
  repeat' first
      | (with_reducible assumption) | (with_reducible exact Frame.refl _ _) | (split) | (dsimp only)
      | ((with_reducible apply Frame.set_cip); rotate_left; rfl)

theorem takeIssue_frame (s : State) : Frame 0x40 s (takeIssue s).2 := by
  unfold takeIssue
  try dsimp only
  repeat' first
      | (with_reducible assumption) | (with_reducible exact Frame.refl _ _) | (split) | (dsimp only)
      | ((with_reducible apply Frame.set_cip); rotate_left; rfl)

theorem takeIssue_frame_eq (s : State) {a_ : Nat} {s' : State} (h : takeIssue s = (a_, s')) : Frame 0x40 s s' := by
  have k := takeIssue_frame s
  rwa [h] at k

theorem cachePut_frame (e : CacheEnt) (s : State) : Frame 0x40 s (cachePut e s) := by
  unfold cachePut
  try dsimp only
  repeat' first
      | (with_reducible assumption) | (with_reducible exact Frame.refl _ _) | (split) | (dsimp only)
      | ((with_reducible apply Frame.set_cip); rotate_left; rfl)

theorem cacheRoom_frame (s : State)  {s' : State} (h : cacheRoom s = some s') : Frame 0x40 s s' := by
  unfold cacheRoom at h
  try dsimp only at h
  repeat' split at h
  all_goals try cases h
  all_goals
  repeat' first
      | (with_reducible assumption) | (with_reducible exact Frame.refl _ _) | (split) | (dsimp only)
      | ((with_reducible apply Frame.set_cip); rotate_left; rfl)

theorem retireKey_frame (e : CacheEnt) (s : State) : Frame 0x20040 s (retireKey e s) := by
  unfold retireKey
  try dsimp only
  repeat' first
      | (with_reducible assumption) | (with_reducible exact Frame.refl _ _)
      | (apply Frame.andThen; rotate_left; (with_reducible apply cachePut_frame); rfl)
      | (apply Frame.andThen; rotate_left; (with_reducible apply inc_frame); rfl)
      | (apply Frame.andThen; rotate_left; (with_reducible apply setSlot_frame); rfl) | (split) | (dsimp only)
      | ((with_reducible apply Frame.set_cip); rotate_left; rfl)

theorem bindKey_frame_bound (slot : Nat) (gen : Nat) (root : Bytes) (label : Bytes) (seq : Nat) (n : Nat) (s : State) {a_ : Nat}
    {b_ : Bytes} {s' : State} (h : bindKey slot gen root label seq n s = .bound a_ b_ s')
    : Frame 0x20040 s s' := by
  unfold bindKey at h
  try dsimp only at h
  repeat' split at h
  all_goals try cases h
  all_goals
  repeat' first
      | (with_reducible assumption) | (with_reducible exact Frame.refl _ _)
      | (apply Frame.andThen; rotate_left; (with_reducible apply takeIssue_frame); rfl)
      | (apply Frame.andThen; rotate_left; (with_reducible apply takeIssue_frame_eq) <;> assumption; rfl)
      | (apply Frame.andThen; rotate_left; (with_reducible apply cachePut_frame); rfl)
      | (apply Frame.andThen; rotate_left; (with_reducible apply retireKey_frame); rfl)
      | (apply Frame.andThen; rotate_left; (with_reducible apply inc_frame); rfl)
      | (apply Frame.andThen; rotate_left; (with_reducible apply cacheRoom_frame) <;> assumption; rfl) | (split) | (dsimp only)

theorem bindKey_frame_exhausted (slot : Nat) (gen : Nat) (root : Bytes) (label : Bytes) (seq : Nat) (n : Nat) (s : State)  {s' : State}
    (h : bindKey slot gen root label seq n s = .exhausted  s')
    : Frame 0x20040 s s' := by
  unfold bindKey at h
  try dsimp only at h
  repeat' split at h
  all_goals try cases h
  all_goals
  repeat' first
      | (with_reducible assumption) | (with_reducible exact Frame.refl _ _)
      | (apply Frame.andThen; rotate_left; (with_reducible apply takeIssue_frame); rfl)
      | (apply Frame.andThen; rotate_left; (with_reducible apply takeIssue_frame_eq) <;> assumption; rfl)
      | (apply Frame.andThen; rotate_left; (with_reducible apply cachePut_frame); rfl)
      | (apply Frame.andThen; rotate_left; (with_reducible apply retireKey_frame); rfl)
      | (apply Frame.andThen; rotate_left; (with_reducible apply inc_frame); rfl)
      | (apply Frame.andThen; rotate_left; (with_reducible apply cacheRoom_frame) <;> assumption; rfl) | (split) | (dsimp only)

theorem unpinKey_frame (seq : Nat) (s : State) : Frame 0x40 s (unpinKey seq s) := by
  unfold unpinKey
  try dsimp only
  repeat' first
      | (with_reducible assumption) | (with_reducible exact Frame.refl _ _) | (split) | (dsimp only)
      | ((with_reducible apply Frame.set_cip); rotate_left; rfl)

theorem readKey_frame (slot : Nat) (gen : Nat) (root : Bytes) (label : Bytes) (s : State)
    : Frame 0x20040 s (readKey slot gen root label s).2 := by
  unfold readKey
  try dsimp only
  repeat' first
      | (with_reducible assumption) | (with_reducible exact Frame.refl _ _)
      | (apply Frame.andThen; rotate_left; (with_reducible apply cachePut_frame); rfl)
      | (apply Frame.andThen; rotate_left; (with_reducible apply inc_frame); rfl)
      | (apply Frame.andThen; rotate_left; (with_reducible apply cacheRoom_frame) <;> assumption; rfl) | (split) | (dsimp only)

theorem readKey_frame_eq (slot : Nat) (gen : Nat) (root : Bytes) (label : Bytes) (s : State) {a_ : Bytes} {s' : State}
    (h : readKey slot gen root label s = (a_, s'))
    : Frame 0x20040 s s' := by
  have k := readKey_frame slot gen root label s
  rwa [h] at k

theorem injectKey_frame (slot : Nat) (gen : Nat) (key : Bytes) (s : State) : Frame 0x40 s (injectKey slot gen key s) := by
  unfold injectKey
  try dsimp only
  repeat' first
      | (with_reducible assumption) | (with_reducible exact Frame.refl _ _)
      | (apply Frame.andThen; rotate_left; (with_reducible apply setSlot_frame); rfl) | ((with_reducible apply Frame.getD) <;> intros)
      | (split) | (dsimp only) | ((with_reducible apply Frame.set_cip); rotate_left; rfl)

theorem eraseKey_frame (slot : Nat) (seq : Nat) (s : State) : Frame 0x40 s (eraseKey slot seq s) := by
  unfold eraseKey
  try dsimp only
  repeat' first
      | (with_reducible assumption) | (with_reducible exact Frame.refl _ _)
      | (apply Frame.andThen; rotate_left; (with_reducible apply setSlot_frame); rfl) | (split) | (dsimp only)
      | ((with_reducible apply Frame.set_cip); rotate_left; rfl)

theorem eraseOldRecords_frame (slot : Nat) (s : State) : Frame 0x40 s (eraseOldRecords slot s) := by
  unfold eraseOldRecords
  try dsimp only
  repeat' first
      | (with_reducible assumption) | (with_reducible exact Frame.refl _ _) | (split) | (dsimp only)
      | ((with_reducible apply Frame.set_cip); rotate_left; rfl)

theorem endRetiring_frame (slot : Nat) (s : State) : Frame 0x40 s (endRetiring slot s) := by
  unfold endRetiring
  try dsimp only
  repeat' first
      | (with_reducible assumption) | (with_reducible exact Frame.refl _ _)
      | (apply Frame.andThen; rotate_left; (with_reducible apply setSlot_frame); rfl) | (split) | (dsimp only)
      | ((with_reducible apply Frame.set_cip); rotate_left; rfl)

theorem slotSel_frame (value : Nat) (s : State) : Frame 0x40 s (slotSel value s) := by
  unfold slotSel
  try dsimp only
  repeat' first
      | (with_reducible assumption) | (with_reducible exact Frame.refl _ _) | (split) | (dsimp only)
      | ((with_reducible apply Frame.set_cip); rotate_left; rfl)

theorem execCipSlotSel_frame (value : Nat) (s : State) : FrameOut 0x40 s (execCipSlotSel value s) := by
  unfold execCipSlotSel
  try dsimp only
  repeat' first
      | (with_reducible refine FrameOut.go ?_) | (with_reducible assumption) | (with_reducible exact Frame.refl _ _)
      | (apply Frame.andThen; rotate_left; (with_reducible apply slotSel_frame); rfl) | (split) | (dsimp only)

theorem setPart_frame (p : Nat) (x : Part) (s : State) : Frame 0x4 s (setPart p x s) := by
  unfold setPart
  try dsimp only
  repeat' first
      | (with_reducible assumption) | (with_reducible exact Frame.refl _ _) | (split) | (dsimp only)
      | ((with_reducible apply Frame.set_parts); rotate_left; rfl)

theorem updPart_frame (p : Nat) (f : Part → Part) (s : State) : Frame 0x4 s (updPart p f s) := by
  unfold updPart
  try dsimp only
  repeat' first
      | (with_reducible assumption) | (with_reducible exact Frame.refl _ _)
      | (apply Frame.andThen; rotate_left; (with_reducible apply setPart_frame); rfl) | (split) | (dsimp only)

theorem newParts_frame (ps : AMap Part) (s : State) : Frame 0x4 s (newParts ps s) := by
  unfold newParts
  try dsimp only
  repeat' first
      | (with_reducible assumption) | (with_reducible exact Frame.refl _ _) | ((with_reducible apply Frame.getD) <;> intros) | (split)
      | (dsimp only) | ((with_reducible apply Frame.set_parts); rotate_left; rfl)

theorem cmWrite_frame (off : Nat) (bs : Bytes) (s : State) : Frame 0x80000 s (cmWrite off bs s) :=
  (Frame.refl _ s).set_cartMem _ rfl (cmWrite_inv _ _ s)

theorem writeControl_frame (clean : Bool) (s : State) : Frame 0x80008 s (writeControl clean s) := by
  unfold writeControl
  try dsimp only
  repeat' first
      | (with_reducible assumption) | (with_reducible exact Frame.refl _ _)
      | (apply Frame.andThen; rotate_left; (with_reducible apply cmWrite_frame); rfl) | (split) | (dsimp only)
      | ((with_reducible apply Frame.set_cart); rotate_left; rfl)

theorem writeAllPages_frame (s : State) : Frame 0x80008 s (writeAllPages s) := by
  unfold writeAllPages
  try dsimp only
  repeat' first
      | (with_reducible assumption) | (with_reducible exact Frame.refl _ _)
      | (apply Frame.andThen; rotate_left; (with_reducible apply writeControl_frame); rfl)
      | (apply Frame.andThen; rotate_left; (with_reducible apply cmWrite_frame); rfl) | (split) | (dsimp only)

theorem setCmds_frame (cs : List Cmd) (s : State) : Frame 0x2 s (setCmds cs s) := by
  unfold setCmds
  try dsimp only
  repeat' first
      | (with_reducible assumption) | (with_reducible exact Frame.refl _ _) | (split) | (dsimp only)
      | ((with_reducible apply Frame.set_hq); rotate_left; rfl)

theorem updCmd_frame (seq : Nat) (f : Cmd → Cmd) (s : State) : Frame 0x2 s (updCmd seq f s) := by
  unfold updCmd
  try dsimp only
  repeat' first
      | (with_reducible assumption) | (with_reducible exact Frame.refl _ _)
      | (apply Frame.andThen; rotate_left; (with_reducible apply setCmds_frame); rfl) | (split) | (dsimp only)

theorem countKey_frame (status : Nat) (s : State) : Frame 0x20000 s (countKey status s) := by
  unfold countKey
  try dsimp only
  repeat' first
      | (with_reducible assumption) | (with_reducible exact Frame.refl _ _)
      | (apply Frame.andThen; rotate_left; (with_reducible apply inc_frame); rfl) | (split) | (dsimp only)

theorem complete_frame (seq : Nat) (status : Nat) (result : Nat) (s : State) : Frame 0x20002 s (complete seq status result s) := by
  unfold complete
  try dsimp only
  repeat' first
      | (with_reducible assumption) | (with_reducible exact Frame.refl _ _)
      | (apply Frame.andThen; rotate_left; (with_reducible apply countKey_frame); rfl)
      | (apply Frame.andThen; rotate_left; (with_reducible apply updCmd_frame); rfl) | (split) | (dsimp only)

theorem setWrites_frame (ws : List Write) (s : State) : Frame 0x2 s (setWrites ws s) := by
  unfold setWrites
  try dsimp only
  repeat' first
      | (with_reducible assumption) | (with_reducible exact Frame.refl _ _) | (split) | (dsimp only)
      | ((with_reducible apply Frame.set_hq); rotate_left; rfl)

theorem updWrite_frame (seq : Nat) (f : Write → Write) (s : State) : Frame 0x2 s (updWrite seq f s) := by
  unfold updWrite
  try dsimp only
  repeat' first
      | (with_reducible assumption) | (with_reducible exact Frame.refl _ _)
      | (apply Frame.andThen; rotate_left; (with_reducible apply setWrites_frame); rfl) | (split) | (dsimp only)

theorem indexWrite_frame (w : Write) (s : State) : Frame 0x2 s (indexWrite w s) := by
  unfold indexWrite
  try dsimp only
  repeat' first
      | (with_reducible assumption) | (with_reducible exact Frame.refl _ _) | (split) | (dsimp only)
      | ((with_reducible apply Frame.set_hq); rotate_left; rfl)

theorem refreshMarks_frame (p : Nat) (s : State) : Frame 0x4 s (refreshMarks p s) := by
  unfold refreshMarks
  try dsimp only
  repeat' first
      | (with_reducible assumption) | (with_reducible exact Frame.refl _ _)
      | (apply Frame.andThen; rotate_left; (with_reducible apply updPart_frame); rfl) | (split) | (dsimp only)

theorem setGranules_frame (st : Nat) (gen : Nat) (m : Nat) (s : State) : Frame 0x10 s (setGranules st gen m s) := by
  unfold setGranules
  try dsimp only
  repeat' first
      | (with_reducible assumption) | (with_reducible exact Frame.refl _ _) | (split) | (dsimp only)
      | ((with_reducible apply Frame.set_stk); rotate_left; rfl)

theorem takeGranules_frame (n : Nat) (s : State) : Frame 0x24010 s (takeGranules n s).2 := by
  unfold takeGranules
  try dsimp only
  repeat' first
      | (with_reducible assumption) | (with_reducible exact Frame.refl _ _)
      | (apply Frame.andThen; rotate_left; (with_reducible apply setGranules_frame); rfl)
      | (apply Frame.andThen; rotate_left; (with_reducible apply acquireOne_frame); rfl)
      | (apply Frame.andThen; rotate_left; (with_reducible apply acquireOne_frame_eq) <;> assumption; rfl) | (split) | (dsimp only)

theorem takeGranules_frame_eq (n : Nat) (s : State) {a_ : Option (Nat × Nat)} {s' : State} (h : takeGranules n s = (a_, s'))
    : Frame 0x24010 s s' := by
  have k := takeGranules_frame n s
  rwa [h] at k

theorem dropGranules_frame (st : Nat) (i : Nat) (n : Nat) (s : State) : Frame 0x24010 s (dropGranules st i n s) := by
  unfold dropGranules
  try dsimp only
  repeat' first
      | (with_reducible assumption) | (with_reducible exact Frame.refl _ _)
      | (apply Frame.andThen; rotate_left; (with_reducible apply setGranules_frame); rfl)
      | (apply Frame.andThen; rotate_left; (with_reducible apply giveBack_frame); rfl) | (split) | (dsimp only)
      | ((with_reducible apply Frame.set_stk); rotate_left; rfl)

theorem freeChainHead_frame (x0 : Nat) (x1 : Write) (x2 : State) : Frame 0x24010 x2 (freeChainHead x0 x1 x2).2 := by
  fun_induction freeChainHead x0 x1 x2 <;> try dsimp +zetaDelta only
  all_goals
  repeat' first
      | (with_reducible assumption) | (with_reducible exact Frame.refl _ _)
      | (apply Frame.andThen; rotate_left; (with_reducible apply giveBack_frame); rfl) | (apply Frame.andThen; rotate_left; assumption; rfl)
      | (split) | (dsimp only)

theorem freeChainHead_frame_eq (x0 : Nat) (x1 : Write) (x2 : State) {a_ : Write} {s' : State} (h : freeChainHead x0 x1 x2 = (a_, s'))
    : Frame 0x24010 x2 s' := by
  have k := freeChainHead_frame x0 x1 x2
  rwa [h] at k

theorem freePackets_frame (seq : Nat) (k : Nat) (s : State) : Frame 0x24012 s (freePackets seq k s) := by
  unfold freePackets
  try dsimp only
  repeat' first
      | (with_reducible assumption) | (with_reducible exact Frame.refl _ _)
      | (apply Frame.andThen; rotate_left; (with_reducible apply freeChainHead_frame); rfl)
      | (apply Frame.andThen; rotate_left; (with_reducible apply freeChainHead_frame_eq) <;> assumption; rfl)
      | (apply Frame.andThen; rotate_left; (with_reducible apply updWrite_frame); rfl) | (split) | (dsimp only)

theorem retire_frame (seq : Nat) (s : State) : Frame 0x24012 s (retire seq s) := by
  unfold retire
  try dsimp only
  repeat' first
      | (with_reducible assumption) | (with_reducible exact Frame.refl _ _)
      | (apply Frame.andThen; rotate_left; (with_reducible apply giveBack_frame); rfl)
      | (apply Frame.andThen; rotate_left; (with_reducible apply dropGranules_frame); rfl)
      | (apply Frame.andThen; rotate_left; (with_reducible apply setWrites_frame); rfl)
      | (with_reducible refine Frame.each _ ?_ (fun _ _ => ?_)) | (split) | (dsimp only)

theorem lockFor_frame (seq : Nat) (r : Nat) (w : Write) (s : State) : Frame 0x12 s (lockFor seq r w s) := by
  unfold lockFor
  try dsimp only
  repeat' first
      | (with_reducible assumption) | (with_reducible exact Frame.refl _ _)
      | (apply Frame.andThen; rotate_left; (with_reducible apply updCmd_frame); rfl)
      | (apply Frame.andThen; rotate_left; (with_reducible apply pin_frame); rfl) | (with_reducible refine Frame.each _ ?_ (fun _ _ => ?_))
      | (split) | (dsimp only) | ((with_reducible apply Frame.set_hq); rotate_left; rfl)

theorem unlock_frame (p : Gate → Bool) (s : State) : Frame 0x12 s (unlock p s) := by
  unfold unlock
  try dsimp only
  repeat' first
      | (with_reducible assumption) | (with_reducible exact Frame.refl _ _)
      | (apply Frame.andThen; rotate_left; (with_reducible apply unpin_frame); rfl)
      | (with_reducible refine Frame.each _ ?_ (fun _ _ => ?_)) | (split) | (dsimp only)
      | ((with_reducible apply Frame.set_hq); rotate_left; rfl)

theorem dropPackets_frame (w : Write) (s : State) : Frame 0x24030 s (dropPackets w s) := by
  unfold dropPackets
  try dsimp only
  repeat' first
      | (with_reducible assumption) | (with_reducible exact Frame.refl _ _)
      | (apply Frame.andThen; rotate_left; (with_reducible apply giveBack_frame); rfl)
      | (with_reducible refine Frame.each _ ?_ (fun _ _ => ?_)) | (split) | (dsimp only)
      | ((with_reducible apply Frame.set_cmp); rotate_left; rfl)

theorem forgetCopied_frame (seq : Nat) (s : State) : Frame 0x800 s (forgetCopied seq s) := by
  unfold forgetCopied
  try dsimp only
  repeat' first
      | (with_reducible assumption) | (with_reducible exact Frame.refl _ _) | (split) | (dsimp only)
      | ((with_reducible apply Frame.set_shd); rotate_left; rfl)

theorem forgetHeld_frame (seq : Nat) (s : State) : Frame 0x40 s (forgetHeld seq s) := by
  unfold forgetHeld
  try dsimp only
  repeat' first
      | (with_reducible assumption) | (with_reducible exact Frame.refl _ _) | (split) | (dsimp only)
      | ((with_reducible apply Frame.set_cip); rotate_left; rfl)

theorem rollback_frame (w : Write) (s : State) : Frame 0x24876 s (rollback w s) := by
  unfold rollback
  try dsimp only
  repeat' first
      | (with_reducible assumption) | (with_reducible exact Frame.refl _ _)
      | (apply Frame.andThen; rotate_left; (with_reducible apply dropPackets_frame); rfl)
      | (apply Frame.andThen; rotate_left; (with_reducible apply unpinKey_frame); rfl)
      | (apply Frame.andThen; rotate_left; (with_reducible apply updPart_frame); rfl)
      | (apply Frame.andThen; rotate_left; (with_reducible apply setCmds_frame); rfl)
      | (apply Frame.andThen; rotate_left; (with_reducible apply forgetHeld_frame); rfl)
      | (apply Frame.andThen; rotate_left; (with_reducible apply forgetCopied_frame); rfl)
      | (apply Frame.andThen; rotate_left; (with_reducible apply retire_frame); rfl) | (split) | (dsimp only)

theorem endCmd_frame (seq : Nat) (status : Nat) (cascade : Bool) (result : Nat) (s : State)
    : Frame 0x20002 s (endCmd seq status cascade result s) := by
  unfold endCmd
  try dsimp only
  repeat' first
      | (with_reducible assumption) | (with_reducible exact Frame.refl _ _)
      | (apply Frame.andThen; rotate_left; (with_reducible apply countKey_frame); rfl)
      | (apply Frame.andThen; rotate_left; (with_reducible apply updCmd_frame); rfl) | (split) | (dsimp only)

theorem cascade_frame (p : Nat) (seq : Nat) (first : Nat) (status : Nat) (s : State) : Frame 0x24876 s (cascade p seq first status s) := by
  unfold cascade
  try dsimp only
  repeat' first
      | (with_reducible assumption) | (with_reducible exact Frame.refl _ _)
      | (apply Frame.andThen; rotate_left; (with_reducible apply endCmd_frame); rfl)
      | (apply Frame.andThen; rotate_left; (with_reducible apply rollback_frame); rfl)
      | (apply Frame.andThen; rotate_left; (with_reducible apply refreshMarks_frame); rfl)
      | (with_reducible refine Frame.each _ ?_ (fun _ _ => ?_)) | (split) | (dsimp only)

theorem endWrite_frame (seq : Nat) (status : Nat) (s : State) : Frame 0x24876 s (endWrite seq status s) := by
  unfold endWrite
  try dsimp only
  repeat' first
      | (with_reducible assumption) | (with_reducible exact Frame.refl _ _)
      | (apply Frame.andThen; rotate_left; (with_reducible apply endCmd_frame); rfl)
      | (apply Frame.andThen; rotate_left; (with_reducible apply rollback_frame); rfl)
      | (apply Frame.andThen; rotate_left; (with_reducible apply cascade_frame); rfl) | (split) | (dsimp only)

theorem endWriteCmd_frame (c : Cmd) (status : Nat) (s : State) : Frame 0x24876 s (endWriteCmd c status s) := by
  unfold endWriteCmd
  try dsimp only
  repeat' first
      | (with_reducible assumption) | (with_reducible exact Frame.refl _ _)
      | (apply Frame.andThen; rotate_left; (with_reducible apply endCmd_frame); rfl)
      | (apply Frame.andThen; rotate_left; (with_reducible apply endWrite_frame); rfl)
      | (apply Frame.andThen; rotate_left; (with_reducible apply cascade_frame); rfl) | (split) | (dsimp only)

theorem deferError_frame (p : Nat) (first : Nat) (count : Nat) (cause : Nat) (version : Nat) (s : State)
    : Frame 0x24006 s (deferError p first count cause version s) := by
  unfold deferError
  try dsimp only
  repeat' first
      | (with_reducible assumption) | (with_reducible exact Frame.refl _ _)
      | (apply Frame.andThen; rotate_left; (with_reducible apply postEvent_frame); rfl)
      | (apply Frame.andThen; rotate_left; (with_reducible apply updPart_frame); rfl) | (split) | (dsimp only)
      | ((with_reducible apply Frame.set_hq); rotate_left; rfl)

end Sys2Proof.Machine
end

