-- ==== Sys2Proof/Laws/FrameHost.lean ====
section
/-!
SUPPORT. What each operation leaves alone: the host queues, the scheduler, the read channel and the bridle. The number of a frame has one bit for each part of the state
that the operation may write (`Fld.idx`).
-/

namespace Sys2Proof.Machine

set_option linter.all false

theorem setRing_frame (p : Port) (n : Nat) (x : Ring) (s : State) : Frame 0x2 s (setRing p n x s) := by
  unfold setRing
  try dsimp only
  repeat' first
      | (with_reducible assumption) | (with_reducible exact Frame.refl _ _) | (split) | (dsimp only)
      | ((with_reducible apply Frame.set_hq); rotate_left; rfl)

theorem updRing_frame (p : Port) (n : Nat) (f : Ring → Ring) (s : State) : Frame 0x2 s (updRing p n f s) := by
  unfold updRing
  try dsimp only
  repeat' first
      | (with_reducible assumption) | (with_reducible exact Frame.refl _ _)
      | (apply Frame.andThen; rotate_left; (with_reducible apply setRing_frame); rfl) | (split) | (dsimp only)

theorem setPort_frame (p : Port) (x : PciePort) (s : State) : Frame 0x2 s (setPort p x s) := by
  unfold setPort
  try dsimp only
  repeat' first
      | (with_reducible assumption) | (with_reducible exact Frame.refl _ _) | (split) | (dsimp only)
      | ((with_reducible apply Frame.set_hq); rotate_left; rfl)

theorem rejectDoorbell_frame (p : Port) (n : Nat) (s : State) : Frame 0x24000 s (rejectDoorbell p n s) := by
  unfold rejectDoorbell
  try dsimp only
  repeat' first
      | (with_reducible assumption) | (with_reducible exact Frame.refl _ _)
      | (apply Frame.andThen; rotate_left; (with_reducible apply postEvent_frame); rfl)
      | (apply Frame.andThen; rotate_left; (with_reducible apply inc_frame); rfl) | (split) | (dsimp only)

theorem sqTail_frame (p : Port) (ring : Nat) (value : Nat) (s : State) : Frame 0x24002 s (sqTail p ring value s) := by
  unfold sqTail
  try dsimp only
  repeat' first
      | (with_reducible assumption) | (with_reducible exact Frame.refl _ _)
      | (apply Frame.andThen; rotate_left; (with_reducible apply setRing_frame); rfl)
      | (apply Frame.andThen; rotate_left; (with_reducible apply rejectDoorbell_frame); rfl) | (split) | (dsimp only)

theorem cqHead_frame (p : Port) (ring : Nat) (value : Nat) (s : State) : Frame 0x24002 s (cqHead p ring value s) := by
  unfold cqHead
  try dsimp only
  repeat' first
      | (with_reducible assumption) | (with_reducible exact Frame.refl _ _)
      | (apply Frame.andThen; rotate_left; (with_reducible apply setRing_frame); rfl)
      | (apply Frame.andThen; rotate_left; (with_reducible apply rejectDoorbell_frame); rfl) | (split) | (dsimp only)

theorem ringTail_frame (p : Port) (ring : Nat) (value : Nat) (s : State) : Frame 0x24002 s (ringTail p ring value s) := by
  unfold ringTail
  try dsimp only
  repeat' first
      | (with_reducible assumption) | (with_reducible exact Frame.refl _ _)
      | (apply Frame.andThen; rotate_left; (with_reducible apply sqTail_frame); rfl) | (split) | (dsimp only)

theorem ringHead_frame (p : Port) (ring : Nat) (value : Nat) (s : State) : Frame 0x24002 s (ringHead p ring value s) := by
  unfold ringHead
  try dsimp only
  repeat' first
      | (with_reducible assumption) | (with_reducible exact Frame.refl _ _)
      | (apply Frame.andThen; rotate_left; (with_reducible apply cqHead_frame); rfl) | (split) | (dsimp only)

theorem execSqTailDoorbell_frame (p : Port) (ring : Nat) (value : Nat) (s : State)
    : FrameOut 0x24002 s (execSqTailDoorbell p ring value s) := by
  unfold execSqTailDoorbell
  try dsimp only
  repeat' first
      | (with_reducible refine FrameOut.go ?_) | (with_reducible assumption) | (with_reducible exact Frame.refl _ _)
      | (apply Frame.andThen; rotate_left; (with_reducible apply ringTail_frame); rfl) | (split) | (dsimp only)

theorem execCqHeadDoorbell_frame (p : Port) (ring : Nat) (value : Nat) (s : State)
    : FrameOut 0x24002 s (execCqHeadDoorbell p ring value s) := by
  unfold execCqHeadDoorbell
  try dsimp only
  repeat' first
      | (with_reducible refine FrameOut.go ?_) | (with_reducible assumption) | (with_reducible exact Frame.refl _ _)
      | (apply Frame.andThen; rotate_left; (with_reducible apply ringHead_frame); rfl) | (split) | (dsimp only)

theorem ringDoorbell_frame (p : Port) (off : Nat) (value : Nat) (s : State) : Frame 0x24002 s (ringDoorbell p off value s) := by
  unfold ringDoorbell
  try dsimp only
  repeat' first
      | (with_reducible assumption) | (with_reducible exact Frame.refl _ _)
      | (apply Frame.andThen; rotate_left; (with_reducible apply cqHead_frame); rfl)
      | (apply Frame.andThen; rotate_left; (with_reducible apply sqTail_frame); rfl) | (split) | (dsimp only)

theorem enableRing_frame (p : Port) (n : Nat) (s : State) : Frame 0x2 s (enableRing p n s) := by
  unfold enableRing
  try dsimp only
  repeat' first
      | (with_reducible assumption) | (with_reducible exact Frame.refl _ _)
      | (apply Frame.andThen; rotate_left; (with_reducible apply setRing_frame); rfl) | (split) | (dsimp only)

theorem disableRing_frame (p : Port) (n : Nat) (s : State) : Frame 0x2 s (disableRing p n s) := by
  unfold disableRing
  try dsimp only
  repeat' first
      | (with_reducible assumption) | (with_reducible exact Frame.refl _ _)
      | (apply Frame.andThen; rotate_left; (with_reducible apply updRing_frame); rfl) | (split) | (dsimp only)

theorem execRingEnable_frame (p : Port) (ring : Nat) (s : State) : FrameOut 0x2 s (execRingEnable p ring s) := by
  unfold execRingEnable
  try dsimp only
  repeat' first
      | (with_reducible refine FrameOut.go ?_) | (with_reducible assumption) | (with_reducible exact Frame.refl _ _)
      | (apply Frame.andThen; rotate_left; (with_reducible apply enableRing_frame); rfl) | (split) | (dsimp only)

theorem execRingDisable_frame (p : Port) (ring : Nat) (s : State) : FrameOut 0x2 s (execRingDisable p ring s) := by
  unfold execRingDisable
  try dsimp only
  repeat' first
      | (with_reducible refine FrameOut.go ?_) | (with_reducible assumption) | (with_reducible exact Frame.refl _ _)
      | (apply Frame.andThen; rotate_left; (with_reducible apply disableRing_frame); rfl) | (split) | (dsimp only)

theorem raise_frame (p : Port) (f : Nat) (vector : Nat) (s : State) : Frame 0x2 s (raise p f vector s) := by
  unfold raise
  try dsimp only
  repeat' first
      | (with_reducible assumption) | (with_reducible exact Frame.refl _ _) | (split) | (dsimp only)
      | ((with_reducible apply Frame.set_hq); rotate_left; rfl)

theorem raiseRing_frame (p : Port) (n : Nat) (s : State) : Frame 0x2 s (raiseRing p n s) := by
  unfold raiseRing
  try dsimp only
  repeat' first
      | (with_reducible assumption) | (with_reducible exact Frame.refl _ _)
      | (apply Frame.andThen; rotate_left; (with_reducible apply raise_frame); rfl) | (split) | (dsimp only)

theorem raiseLog_frame (s : State) : Frame 0x2 s (raiseLog s) := by
  unfold raiseLog
  try dsimp only
  repeat' first
      | (with_reducible assumption) | (with_reducible exact Frame.refl _ _)
      | (apply Frame.andThen; rotate_left; (with_reducible apply raise_frame); rfl) | (split) | (dsimp only)

theorem execCoalesceTimeExpiry_frame (p : Port) (ring : Nat) (s : State) : FrameOut 0x2 s (execCoalesceTimeExpiry p ring s) := by
  unfold execCoalesceTimeExpiry
  try dsimp only
  repeat' first
      | (with_reducible refine FrameOut.go ?_) | (with_reducible assumption) | (with_reducible exact Frame.refl _ _)
      | (apply Frame.andThen; rotate_left; (with_reducible apply setRing_frame); rfl)
      | (apply Frame.andThen; rotate_left; (with_reducible apply raiseRing_frame); rfl) | (split) | (dsimp only)

theorem accept_frame (p : Port) (n : Nat) (e : SqEntry) (s : State) : Frame 0x20002 s (accept p n e s) := by
  unfold accept
  try dsimp only
  repeat' first
      | (with_reducible assumption) | (with_reducible exact Frame.refl _ _)
      | (apply Frame.andThen; rotate_left; (with_reducible apply setRing_frame); rfl)
      | (apply Frame.andThen; rotate_left; (with_reducible apply inc_frame); rfl) | (split) | (dsimp only)
      | ((with_reducible apply Frame.set_hq); rotate_left; rfl)

theorem fetchFrom_frame (p : Port) (n : Nat) (x2 : Nat) (x3 : List Bytes) (x4 : State) : Frame 0x20002 x4 (fetchFrom p n x2 x3 x4) := by
  fun_induction fetchFrom p n x2 x3 x4 <;> try dsimp +zetaDelta only
  all_goals
  repeat' first
      | (with_reducible assumption) | (with_reducible exact Frame.refl _ _)
      | (apply Frame.andThen; rotate_left; (with_reducible apply accept_frame); rfl) | (apply Frame.andThen; rotate_left; assumption; rfl)
      | (split) | (dsimp only)

theorem execFetchTurn_turn_frame (entries : List Bytes) (s : State) (p : Port) (n : Nat)
    : Frame 0x20002 s (execFetchTurn.turn entries s p n) := by
  unfold execFetchTurn.turn
  try dsimp only
  repeat' first
      | (with_reducible assumption) | (with_reducible exact Frame.refl _ _)
      | (apply Frame.andThen; rotate_left; (with_reducible apply fetchFrom_frame); rfl)
      | (apply Frame.andThen; rotate_left; (with_reducible apply setPort_frame); rfl) | (split) | (dsimp only)
      | ((with_reducible apply Frame.set_hq); rotate_left; rfl)

theorem execFetchTurn_frame (entries : List Bytes) (s : State) : FrameOut 0x20002 s (execFetchTurn entries s) := by
  unfold execFetchTurn
  try dsimp only
  repeat' first
      | (with_reducible refine FrameOut.go ?_) | (with_reducible assumption) | (with_reducible exact Frame.refl _ _)
      | (apply Frame.andThen; rotate_left; (with_reducible apply execFetchTurn_turn_frame); rfl) | (split) | (dsimp only)

theorem dropDefers_frame (s : State) : Frame 0x4 s (dropDefers s) := by
  unfold dropDefers
  try dsimp only
  repeat' first
      | (with_reducible assumption) | (with_reducible exact Frame.refl _ _) | (split) | (dsimp only)
      | ((with_reducible apply Frame.set_parts); rotate_left; rfl)

theorem takeDefer_frame (c : Cmd) (s : State) : Frame 0x6 s (takeDefer c s).2.2 := by
  unfold takeDefer
  try dsimp only
  repeat' first
      | (with_reducible assumption) | (with_reducible exact Frame.refl _ _)
      | (apply Frame.andThen; rotate_left; (with_reducible apply updPart_frame); rfl)
      | (apply Frame.andThen; rotate_left; (with_reducible apply dropDefers_frame); rfl) | (split) | (dsimp only)
      | ((with_reducible apply Frame.set_hq); rotate_left; rfl)

theorem takeDefer_frame_eq (c : Cmd) (s : State) {a_ : Option DeferErr} {b_ : Bool} {s' : State} (h : takeDefer c s = (a_, b_, s'))
    : Frame 0x6 s s' := by
  have k := takeDefer_frame c s
  rwa [h] at k

theorem afterEntry_frame (p : Port) (n : Nat) (s : State) : Frame 0x2 s (afterEntry p n s) := by
  unfold afterEntry
  try dsimp only
  repeat' first
      | (with_reducible assumption) | (with_reducible exact Frame.refl _ _)
      | (apply Frame.andThen; rotate_left; (with_reducible apply setRing_frame); rfl)
      | (apply Frame.andThen; rotate_left; (with_reducible apply raiseRing_frame); rfl) | (split) | (dsimp only)

theorem execCompletionWrite_frame (seq : Nat) (s : State) : FrameOut 0x40006 s (execCompletionWrite seq s) := by
  unfold execCompletionWrite
  try dsimp only
  repeat' first
      | (with_reducible refine FrameOut.go ?_) | (with_reducible assumption) | (with_reducible exact Frame.refl _ _)
      | (apply Frame.andThen; rotate_left; (with_reducible apply takeDefer_frame); rfl)
      | (apply Frame.andThen; rotate_left; (with_reducible apply takeDefer_frame_eq) <;> assumption; rfl)
      | (apply Frame.andThen; rotate_left; (with_reducible apply afterEntry_frame); rfl)
      | (apply Frame.andThen; rotate_left; (with_reducible apply setCmds_frame); rfl)
      | (apply Frame.andThen; rotate_left; (with_reducible apply hostWrite_frame); rfl) | (split) | (dsimp only)

theorem dropOpenSet_frame (p : Port) (s : State) : Frame 0x10000 s (dropOpenSet p s) := by
  unfold dropOpenSet
  try dsimp only
  repeat' first
      | (with_reducible assumption) | (with_reducible exact Frame.refl _ _) | (split) | (dsimp only)
      | ((with_reducible apply Frame.set_cfg); rotate_left; rfl)

theorem abortOne_frame (c : Cmd) (s : State) : Frame 0x24876 s (abortOne c s) := by
  unfold abortOne
  try dsimp only
  repeat' first
      | (with_reducible assumption) | (with_reducible exact Frame.refl _ _)
      | (apply Frame.andThen; rotate_left; (with_reducible apply unlock_frame); rfl)
      | (apply Frame.andThen; rotate_left; (with_reducible apply complete_frame); rfl)
      | (apply Frame.andThen; rotate_left; (with_reducible apply endWriteCmd_frame); rfl) | (split) | (dsimp only)

theorem abortWaiting_frame (p : Port) (n : Nat) (s : State) : Frame 0x24876 s (abortWaiting p n s) := by
  unfold abortWaiting
  try dsimp only
  repeat' first
      | (with_reducible assumption) | (with_reducible exact Frame.refl _ _)
      | (apply Frame.andThen; rotate_left; (with_reducible apply abortOne_frame); rfl)
      | (with_reducible refine Frame.each _ ?_ (fun _ _ => ?_)) | (split) | (dsimp only)

theorem resetRing_frame (p : Port) (n : Nat) (s : State) : Frame 0x34876 s (resetRing p n s) := by
  unfold resetRing
  try dsimp only
  repeat' first
      | (with_reducible assumption) | (with_reducible exact Frame.refl _ _)
      | (apply Frame.andThen; rotate_left; (with_reducible apply abortWaiting_frame); rfl)
      | (apply Frame.andThen; rotate_left; (with_reducible apply dropOpenSet_frame); rfl)
      | (apply Frame.andThen; rotate_left; (with_reducible apply updRing_frame); rfl) | (split) | (dsimp only)

theorem execQueueReset_frame (p : Port) (ring : Nat) (s : State) : FrameOut 0x34876 s (execQueueReset p ring s) := by
  unfold execQueueReset
  try dsimp only
  repeat' first
      | (with_reducible refine FrameOut.go ?_) | (with_reducible assumption) | (with_reducible exact Frame.refl _ _)
      | (apply Frame.andThen; rotate_left; (with_reducible apply resetRing_frame); rfl) | (split) | (dsimp only)

theorem execQueueResetDone_frame (p : Port) (ring : Nat) (s : State) : FrameOut 0x2 s (execQueueResetDone p ring s) := by
  unfold execQueueResetDone
  try dsimp only
  repeat' first
      | (with_reducible refine FrameOut.go ?_) | (with_reducible assumption) | (with_reducible exact Frame.refl _ _)
      | (apply Frame.andThen; rotate_left; (with_reducible apply setRing_frame); rfl) | (split) | (dsimp only)

theorem dropCmds_frame (pick : Cmd → Bool) (s : State) : Frame 0x24876 s (dropCmds pick s) := by
  unfold dropCmds
  try dsimp only
  repeat' first
      | (with_reducible assumption) | (with_reducible exact Frame.refl _ _)
      | (apply Frame.andThen; rotate_left; (with_reducible apply unpinKey_frame); rfl)
      | (apply Frame.andThen; rotate_left; (with_reducible apply unlock_frame); rfl)
      | (apply Frame.andThen; rotate_left; (with_reducible apply setCmds_frame); rfl)
      | (apply Frame.andThen; rotate_left; (with_reducible apply endWriteCmd_frame); rfl)
      | (with_reducible refine Frame.each _ ?_ (fun _ _ => ?_)) | (split) | (dsimp only)
      | ((with_reducible apply Frame.set_cmp); rotate_left; rfl)

theorem resetFn_frame (p : Port) (f : Fn) (s : State) : Frame 0x2 s (resetFn p f s) := by
  unfold resetFn
  try dsimp only
  repeat' first
      | (with_reducible assumption) | (with_reducible exact Frame.refl _ _)
      | (apply Frame.andThen; rotate_left; (with_reducible apply setPort_frame); rfl) | (split) | (dsimp only)

theorem flr0_frame (p : Port) (s : State) : Frame 0x24876 s (flr0 p s) := by
  unfold flr0
  try dsimp only
  repeat' first
      | (with_reducible assumption) | (with_reducible exact Frame.refl _ _)
      | (apply Frame.andThen; rotate_left; (with_reducible apply dropCmds_frame); rfl)
      | (apply Frame.andThen; rotate_left; (with_reducible apply updRing_frame); rfl)
      | (apply Frame.andThen; rotate_left; (with_reducible apply resetFn_frame); rfl)
      | (with_reducible refine Frame.each _ ?_ (fun _ _ => ?_)) | (split) | (dsimp only)

theorem flr1_frame (p : Port) (s : State) : Frame 0x34876 s (flr1 p s) := by
  unfold flr1
  try dsimp only
  repeat' first
      | (with_reducible assumption) | (with_reducible exact Frame.refl _ _)
      | (apply Frame.andThen; rotate_left; (with_reducible apply dropCmds_frame); rfl)
      | (apply Frame.andThen; rotate_left; (with_reducible apply dropOpenSet_frame); rfl)
      | (apply Frame.andThen; rotate_left; (with_reducible apply updRing_frame); rfl)
      | (apply Frame.andThen; rotate_left; (with_reducible apply resetFn_frame); rfl) | (split) | (dsimp only)

theorem linkDownOf_frame (p : Port) (s : State) : Frame 0x34876 s (linkDownOf p s) := by
  unfold linkDownOf
  try dsimp only
  repeat' first
      | (with_reducible assumption) | (with_reducible exact Frame.refl _ _)
      | (apply Frame.andThen; rotate_left; (with_reducible apply flr0_frame); rfl)
      | (apply Frame.andThen; rotate_left; (with_reducible apply flr1_frame); rfl)
      | (apply Frame.andThen; rotate_left; (with_reducible apply setPort_frame); rfl) | (split) | (dsimp only)

theorem execFlrPf0_frame (p : Port) (s : State) : FrameOut 0x24876 s (execFlrPf0 p s) := by
  unfold execFlrPf0
  try dsimp only
  repeat' first
      | (with_reducible refine FrameOut.go ?_) | (with_reducible assumption) | (with_reducible exact Frame.refl _ _)
      | (apply Frame.andThen; rotate_left; (with_reducible apply flr0_frame); rfl) | (split) | (dsimp only)

theorem execFlrPf1_frame (p : Port) (s : State) : FrameOut 0x34876 s (execFlrPf1 p s) := by
  unfold execFlrPf1
  try dsimp only
  repeat' first
      | (with_reducible refine FrameOut.go ?_) | (with_reducible assumption) | (with_reducible exact Frame.refl _ _)
      | (apply Frame.andThen; rotate_left; (with_reducible apply flr1_frame); rfl) | (split) | (dsimp only)

theorem execLinkDown_frame (p : Port) (s : State) : FrameOut 0x34876 s (execLinkDown p s) := by
  unfold execLinkDown
  try dsimp only
  repeat' first
      | (with_reducible refine FrameOut.go ?_) | (with_reducible assumption) | (with_reducible exact Frame.refl _ _)
      | (apply Frame.andThen; rotate_left; (with_reducible apply setPort_frame); rfl)
      | (apply Frame.andThen; rotate_left; (with_reducible apply linkDownOf_frame); rfl) | (split) | (dsimp only)

theorem execPerstAssert_frame (p : Port) (s : State) : FrameOut 0x34876 s (execPerstAssert p s) := by
  unfold execPerstAssert
  try dsimp only
  repeat' first
      | (with_reducible refine FrameOut.go ?_) | (with_reducible assumption) | (with_reducible exact Frame.refl _ _)
      | (apply Frame.andThen; rotate_left; (with_reducible apply setPort_frame); rfl)
      | (apply Frame.andThen; rotate_left; (with_reducible apply linkDownOf_frame); rfl) | (split) | (dsimp only)

theorem execPerstDeassert_frame (p : Port) (s : State) : FrameOut 0x2 s (execPerstDeassert p s) := by
  unfold execPerstDeassert
  try dsimp only
  repeat' first
      | (with_reducible refine FrameOut.go ?_) | (with_reducible assumption) | (with_reducible exact Frame.refl _ _)
      | (apply Frame.andThen; rotate_left; (with_reducible apply setPort_frame); rfl) | (split) | (dsimp only)

theorem execPcieLinkUp_frame (p : Port) (speed : Nat) (width : Nat) (s : State) : FrameOut 0x2 s (execPcieLinkUp p speed width s) := by
  unfold execPcieLinkUp
  try dsimp only
  repeat' first
      | (with_reducible refine FrameOut.go ?_) | (with_reducible assumption) | (with_reducible exact Frame.refl _ _)
      | (apply Frame.andThen; rotate_left; (with_reducible apply setPort_frame); rfl) | (split) | (dsimp only)

theorem execPcieConfigRequest_frame (p : Port) (f : Fn) (req : CfgReq) (s : State) : FrameOut 0x2 s (execPcieConfigRequest p f req s) := by
  unfold execPcieConfigRequest
  try dsimp only
  repeat' first
      | (with_reducible refine FrameOut.go ?_) | (with_reducible assumption) | (with_reducible exact Frame.refl _ _)
      | (apply Frame.andThen; rotate_left; (with_reducible apply setPort_frame); rfl) | (split) | (dsimp only)

theorem updSrv_frame (f : Srv → Srv) (s : State) : Frame 0x200 s (updSrv f s) := by
  unfold updSrv
  try dsimp only
  repeat' first
      | (with_reducible assumption) | (with_reducible exact Frame.refl _ _) | (split) | (dsimp only)
      | ((with_reducible apply Frame.set_srv); rotate_left; rfl)

theorem postSched_frame (kind : Nat) (owner : Nat) (pos : Nat) (dir : Bool) (recipient : Nat) (arg : Nat) (s : State)
    : Frame 0x20200 s (postSched kind owner pos dir recipient arg s).2 := by
  unfold postSched
  try dsimp only
  repeat' first
      | (with_reducible assumption) | (with_reducible exact Frame.refl _ _)
      | (apply Frame.andThen; rotate_left; (with_reducible apply updSrv_frame); rfl)
      | (apply Frame.andThen; rotate_left; (with_reducible apply inc_frame); rfl) | (split) | (dsimp only)

theorem postSched_frame_eq (kind : Nat) (owner : Nat) (pos : Nat) (dir : Bool) (recipient : Nat) (arg : Nat) (s : State) {a_ : Option Nat}
    {s' : State} (h : postSched kind owner pos dir recipient arg s = (a_, s'))
    : Frame 0x20200 s s' := by
  have k := postSched_frame kind owner pos dir recipient arg s
  rwa [h] at k

theorem schedule_frame (kind : Nat) (owner : Nat) (pos : Nat) (dir : Bool) (arg : Nat) (s : State)
    : Frame 0x20200 s (schedule kind owner pos dir arg s) := by
  unfold schedule
  try dsimp only
  repeat' first
      | (with_reducible assumption) | (with_reducible exact Frame.refl _ _)
      | (apply Frame.andThen; rotate_left; (with_reducible apply postSched_frame); rfl)
      | (apply Frame.andThen; rotate_left; (with_reducible apply postSched_frame_eq) <;> assumption; rfl) | (split) | (dsimp only)

theorem cancelSched_frame (i : Nat) (s : State) : Frame 0x200 s (cancelSched i s) := by
  unfold cancelSched
  try dsimp only
  repeat' first
      | (with_reducible assumption) | (with_reducible exact Frame.refl _ _)
      | (apply Frame.andThen; rotate_left; (with_reducible apply updSrv_frame); rfl) | (split) | (dsimp only)

theorem cancelKind_frame (kind : Nat) (owner : Nat) (s : State) : Frame 0x200 s (cancelKind kind owner s) := by
  unfold cancelKind
  try dsimp only
  repeat' first
      | (with_reducible assumption) | (with_reducible exact Frame.refl _ _)
      | (apply Frame.andThen; rotate_left; (with_reducible apply updSrv_frame); rfl) | (split) | (dsimp only)

theorem fire_frame {m : Nat} (kind i : Nat) {act : SchedEnt → State → State} {s u : State} (h : Frame m s u)
    (sub : 0x20200 ||| m = m) (k : ∀ e v, Frame m v (act e v)) : Frame m s (fire kind i act u) := by
  have a : 0x200 ||| m = m := by rw [← sub, ← Nat.or_assoc]; rfl
  have b : 0x20000 ||| m = m := by rw [← sub, ← Nat.or_assoc]; rfl
  unfold fire
  dsimp only
  split
  · exact h
  · split
    · exact h
    · split
      · exact ((h.andThen (cancelSched_frame ..) a).andThen (inc_frame ..) b).andThen (k _ _) (Nat.or_self m)
      · exact (h.andThen (cancelSched_frame ..) a).andThen (k _ _) (Nat.or_self m)

theorem clockValid_frame (s : State) : Frame 0x200 s (clockValid s) := by
  unfold clockValid
  try dsimp only
  repeat' first
      | (with_reducible assumption) | (with_reducible exact Frame.refl _ _)
      | (apply Frame.andThen; rotate_left; (with_reducible apply updSrv_frame); rfl) | (split) | (dsimp only)

theorem needTape_frame (s : State) : Frame 0x20200 s (needTape s) := by
  unfold needTape
  try dsimp only
  repeat' first
      | (with_reducible assumption) | (with_reducible exact Frame.refl _ _)
      | (apply Frame.andThen; rotate_left; (with_reducible apply schedule_frame); rfl) | (split) | (dsimp only)

theorem schedSel_frame (value : Nat) (s : State) : Frame 0x200 s (schedSel value s) := by
  unfold schedSel
  try dsimp only
  repeat' first
      | (with_reducible assumption) | (with_reducible exact Frame.refl _ _)
      | (apply Frame.andThen; rotate_left; (with_reducible apply updSrv_frame); rfl) | (split) | (dsimp only)

theorem execSrvSchedSel_frame (value : Nat) (s : State) : FrameOut 0x200 s (execSrvSchedSel value s) := by
  unfold execSrvSchedSel
  try dsimp only
  repeat' first
      | (with_reducible refine FrameOut.go ?_) | (with_reducible assumption) | (with_reducible exact Frame.refl _ _)
      | (apply Frame.andThen; rotate_left; (with_reducible apply schedSel_frame); rfl) | (split) | (dsimp only)

theorem execTapeClockReadLatch_frame (s : State) : FrameOut 0x200 s (execTapeClockReadLatch s) := by
  unfold execTapeClockReadLatch
  try dsimp only
  repeat' first
      | (with_reducible refine FrameOut.go ?_) | (with_reducible assumption) | (with_reducible exact Frame.refl _ _)
      | (apply Frame.andThen; rotate_left; (with_reducible apply updSrv_frame); rfl) | (split) | (dsimp only)

theorem updRch_frame (f : Rch → Rch) (s : State) : Frame 0x100 s (updRch f s) := by
  unfold updRch
  try dsimp only
  repeat' first
      | (with_reducible assumption) | (with_reducible exact Frame.refl _ _) | (split) | (dsimp only)
      | ((with_reducible apply Frame.set_rch); rotate_left; rfl)

theorem updChan_frame (p : Nat) (f : Chan → Chan) (s : State) : Frame 0x100 s (updChan p f s) := by
  unfold updChan
  try dsimp only
  repeat' first
      | (with_reducible assumption) | (with_reducible exact Frame.refl _ _)
      | (apply Frame.andThen; rotate_left; (with_reducible apply updRch_frame); rfl) | (split) | (dsimp only)

theorem updRx_frame (k : Nat) (f : RxLink → RxLink) (s : State) : Frame 0x100 s (updRx k f s) := by
  unfold updRx
  try dsimp only
  repeat' first
      | (with_reducible assumption) | (with_reducible exact Frame.refl _ _)
      | (apply Frame.andThen; rotate_left; (with_reducible apply updRch_frame); rfl) | (split) | (dsimp only)

theorem toAcquiring_frame (p : Nat) (s : State) : Frame 0x100 s (toAcquiring p s) := by
  unfold toAcquiring
  try dsimp only
  repeat' first
      | (with_reducible assumption) | (with_reducible exact Frame.refl _ _)
      | (apply Frame.andThen; rotate_left; (with_reducible apply updChan_frame); rfl) | (split) | (dsimp only)

theorem allAcquiring_frame (s : State) : Frame 0x100 s (allAcquiring s) := by
  unfold allAcquiring
  try dsimp only
  repeat' first
      | (with_reducible assumption) | (with_reducible exact Frame.refl _ _)
      | (apply Frame.andThen; rotate_left; (with_reducible apply toAcquiring_frame); rfl)
      | (with_reducible refine Frame.each _ ?_ (fun _ _ => ?_)) | (split) | (dsimp only)

theorem execSyncFound_frame (chan : Nat) (o : SyncObs) (s : State) : FrameOut 0x100 s (execSyncFound chan o s) := by
  unfold execSyncFound
  try dsimp only
  repeat' first
      | (with_reducible refine FrameOut.go ?_) | (with_reducible assumption) | (with_reducible exact Frame.refl _ _)
      | (apply Frame.andThen; rotate_left; (with_reducible apply updChan_frame); rfl) | (split) | (dsimp only)

theorem execSyncMissed_frame (chan : Nat) (span : Bool) (s : State) : FrameOut 0x100 s (execSyncMissed chan span s) := by
  unfold execSyncMissed
  try dsimp only
  repeat' first
      | (with_reducible refine FrameOut.go ?_) | (with_reducible assumption) | (with_reducible exact Frame.refl _ _)
      | (apply Frame.andThen; rotate_left; (with_reducible apply updChan_frame); rfl) | (split) | (dsimp only)

theorem execLockLoss_frame (chan : Nat) (s : State) : FrameOut 0x100 s (execLockLoss chan s) := by
  unfold execLockLoss
  try dsimp only
  repeat' first
      | (with_reducible refine FrameOut.go ?_) | (with_reducible assumption) | (with_reducible exact Frame.refl _ _)
      | (apply Frame.andThen; rotate_left; (with_reducible apply toAcquiring_frame); rfl) | (split) | (dsimp only)

theorem execResidualLimit_frame (chan : Nat) (s : State) : FrameOut 0x100 s (execResidualLimit chan s) := by
  unfold execResidualLimit
  try dsimp only
  repeat' first
      | (with_reducible refine FrameOut.go ?_) | (with_reducible assumption) | (with_reducible exact Frame.refl _ _)
      | (apply Frame.andThen; rotate_left; (with_reducible apply toAcquiring_frame); rfl) | (split) | (dsimp only)

theorem execSeparatorDetected_frame (chan : Nat) (s : State) : FrameOut 0x100 s (execSeparatorDetected chan s) := by
  unfold execSeparatorDetected
  try dsimp only
  repeat' first
      | (with_reducible refine FrameOut.go ?_) | (with_reducible assumption) | (with_reducible exact Frame.refl _ _)
      | (apply Frame.andThen; rotate_left; (with_reducible apply toAcquiring_frame); rfl) | (split) | (dsimp only)

theorem ensembleUpdate_frame (s : State) : Frame 0x100 s (ensembleUpdate s) := by
  unfold ensembleUpdate
  try dsimp only
  repeat' first
      | (with_reducible assumption) | (with_reducible exact Frame.refl _ _)
      | (apply Frame.andThen; rotate_left; (with_reducible apply updRch_frame); rfl)
      | (with_reducible refine Frame.foldl_snd _ ?_ (fun _ _ => ?_)) | (with_reducible refine Frame.foldl _ ?_ (fun _ _ => ?_)) | (split)
      | (dsimp only)

theorem loadTaps_frame (cls : Nat) (s : State) : Frame 0x100 s (loadTaps cls s) := by
  unfold loadTaps
  try dsimp only
  repeat' first
      | (with_reducible assumption) | (with_reducible exact Frame.refl _ _)
      | (apply Frame.andThen; rotate_left; (with_reducible apply updRch_frame); rfl) | ((with_reducible apply Frame.getD) <;> intros)
      | (split) | (dsimp only)

theorem failLink_frame (k : Nat) (s : State) : Frame 0x24100 s (failLink k s) := by
  unfold failLink
  try dsimp only
  repeat' first
      | (with_reducible assumption) | (with_reducible exact Frame.refl _ _)
      | (apply Frame.andThen; rotate_left; (with_reducible apply toAcquiring_frame); rfl)
      | (apply Frame.andThen; rotate_left; (with_reducible apply postEvent_frame); rfl)
      | (apply Frame.andThen; rotate_left; (with_reducible apply updRx_frame); rfl)
      | (with_reducible refine Frame.each _ ?_ (fun _ _ => ?_)) | (split) | (dsimp only)

theorem execRxLaneFail_frame (lane : Nat) (crc : Nat) (s : State) : FrameOut 0x24100 s (execRxLaneFail lane crc s) := by
  unfold execRxLaneFail
  try dsimp only
  repeat' first
      | (with_reducible refine FrameOut.go ?_) | (with_reducible assumption) | (with_reducible exact Frame.refl _ _)
      | (apply Frame.andThen; rotate_left; (with_reducible apply failLink_frame); rfl)
      | (apply Frame.andThen; rotate_left; (with_reducible apply updRx_frame); rfl)
      | (with_reducible refine Frame.each _ ?_ (fun _ _ => ?_)) | (split) | (dsimp only)

theorem execJesdLinkRestart_frame (link : Nat) (ok : Bool) (s : State) : FrameOut 0x100 s (execJesdLinkRestart link ok s) := by
  unfold execJesdLinkRestart
  try dsimp only
  repeat' first
      | (with_reducible refine FrameOut.go ?_) | (with_reducible assumption) | (with_reducible exact Frame.refl _ _)
      | (apply Frame.andThen; rotate_left; (with_reducible apply updRx_frame); rfl) | (split) | (dsimp only)

theorem takeDensity_frame (cls : Nat) (wrap : Nat) (s : State) : Frame 0x100 s (takeDensity cls wrap s) := by
  unfold takeDensity
  try dsimp only
  repeat' first
      | (with_reducible assumption) | (with_reducible exact Frame.refl _ _)
      | (apply Frame.andThen; rotate_left; (with_reducible apply loadTaps_frame); rfl)
      | (apply Frame.andThen; rotate_left; (with_reducible apply updRch_frame); rfl) | (split) | (dsimp only)

theorem densityFires_frame (e : SchedEnt) (s : State) : Frame 0x180 s (densityFires e s) := by
  unfold densityFires
  try dsimp only
  repeat' first
      | (with_reducible assumption) | (with_reducible exact Frame.refl _ _)
      | (apply Frame.andThen; rotate_left; (with_reducible apply takeDensity_frame); rfl) | (split) | (dsimp only)
      | ((with_reducible apply Frame.set_wrv); rotate_left; rfl)

theorem execDensity_frame (idx : Nat) (s : State) : FrameOut 0x20380 s (execDensity idx s) := by
  unfold execDensity
  try dsimp only
  repeat' first
      | (with_reducible refine FrameOut.go ?_) | (with_reducible assumption) | (with_reducible exact Frame.refl _ _)
      | ((with_reducible apply fire_frame); rotate_left; rfl; intros)
      | (apply Frame.andThen; rotate_left; (with_reducible apply densityFires_frame); rfl) | (split) | (dsimp only)

theorem updBrd_frame (f : Brd → Brd) (s : State) : Frame 0x400 s (updBrd f s) := by
  unfold updBrd
  try dsimp only
  repeat' first
      | (with_reducible assumption) | (with_reducible exact Frame.refl _ _) | (split) | (dsimp only)
      | ((with_reducible apply Frame.set_brd); rotate_left; rfl)

theorem setLoop_frame (n : Nat) (x : Loop) (s : State) : Frame 0x400 s (setLoop n x s) := by
  unfold setLoop
  try dsimp only
  repeat' first
      | (with_reducible assumption) | (with_reducible exact Frame.refl _ _)
      | (apply Frame.andThen; rotate_left; (with_reducible apply updBrd_frame); rfl) | (split) | (dsimp only)

theorem updLoop_frame (n : Nat) (f : Loop → Loop) (s : State) : Frame 0x400 s (updLoop n f s) := by
  unfold updLoop
  try dsimp only
  repeat' first
      | (with_reducible assumption) | (with_reducible exact Frame.refl _ _)
      | (apply Frame.andThen; rotate_left; (with_reducible apply setLoop_frame); rfl) | (split) | (dsimp only)

theorem updEp_frame (e : Nat) (f : Endpoint → Endpoint) (s : State) : Frame 0x400 s (updEp e f s) := by
  unfold updEp
  try dsimp only
  repeat' first
      | (with_reducible assumption) | (with_reducible exact Frame.refl _ _)
      | (apply Frame.andThen; rotate_left; (with_reducible apply updBrd_frame); rfl) | ((with_reducible apply Frame.getD) <;> intros)
      | (split) | (dsimp only)

theorem runLoop_frame (n : Nat) (measured : Int) (valid : Bool) (step : Int) (s : State)
    : Frame 0x400 s (runLoop n measured valid step s) := by
  unfold runLoop
  try dsimp only
  repeat' first
      | (with_reducible assumption) | (with_reducible exact Frame.refl _ _)
      | (apply Frame.andThen; rotate_left; (with_reducible apply setLoop_frame); rfl) | (split) | (dsimp only)

theorem setTarget_frame (n : Nat) (t : Int) (s : State) : Frame 0x400 s (setTarget n t s) := by
  unfold setTarget
  try dsimp only
  repeat' first
      | (with_reducible assumption) | (with_reducible exact Frame.refl _ _)
      | (apply Frame.andThen; rotate_left; (with_reducible apply updLoop_frame); rfl) | (split) | (dsimp only)

theorem enableLoop_frame (n : Nat) (s : State) : Frame 0x400 s (enableLoop n s) := by
  unfold enableLoop
  try dsimp only
  repeat' first
      | (with_reducible assumption) | (with_reducible exact Frame.refl _ _)
      | (apply Frame.andThen; rotate_left; (with_reducible apply updBrd_frame); rfl)
      | (apply Frame.andThen; rotate_left; (with_reducible apply updLoop_frame); rfl) | (split) | (dsimp only)

theorem autoLoop_frame (n : Nat) (s : State) : Frame 0x400 s (autoLoop n s) := by
  unfold autoLoop
  try dsimp only
  repeat' first
      | (with_reducible assumption) | (with_reducible exact Frame.refl _ _)
      | (apply Frame.andThen; rotate_left; (with_reducible apply enableLoop_frame); rfl)
      | (apply Frame.andThen; rotate_left; (with_reducible apply updLoop_frame); rfl) | (split) | (dsimp only)

theorem disableLoop_frame (n : Nat) (s : State) : Frame 0x400 s (disableLoop n s) := by
  unfold disableLoop
  try dsimp only
  repeat' first
      | (with_reducible assumption) | (with_reducible exact Frame.refl _ _)
      | (apply Frame.andThen; rotate_left; (with_reducible apply updLoop_frame); rfl) | (split) | (dsimp only)

theorem estimateRadii_frame (s : State) : Frame 0x400 s (estimateRadii s) := by
  unfold estimateRadii
  try dsimp only
  repeat' first
      | (with_reducible assumption) | (with_reducible exact Frame.refl _ _)
      | (apply Frame.andThen; rotate_left; (with_reducible apply updBrd_frame); rfl) | (split) | (dsimp only)

theorem mix_frame (s : State) : Frame 0x400 s (mix s) := by
  unfold mix
  try dsimp only
  repeat' first
      | (with_reducible assumption) | (with_reducible exact Frame.refl _ _)
      | (apply Frame.andThen; rotate_left; (with_reducible apply updBrd_frame); rfl) | (split) | (dsimp only)

theorem rampSpeed_frame (v : Nat) (reverse : Bool) (slew : Nat) (s : State) : Frame 0x400 s (rampSpeed v reverse slew s) := by
  unfold rampSpeed
  try dsimp only
  repeat' first
      | (with_reducible assumption) | (with_reducible exact Frame.refl _ _)
      | (apply Frame.andThen; rotate_left; (with_reducible apply updBrd_frame); rfl)
      | (apply Frame.andThen; rotate_left; (with_reducible apply setTarget_frame); rfl) | (split) | (dsimp only)

theorem takeWrap_frame (w : Nat) (s : State) : Frame 0x600 s (takeWrap w s) := by
  unfold takeWrap
  try dsimp only
  repeat' first
      | (with_reducible assumption) | (with_reducible exact Frame.refl _ _)
      | (apply Frame.andThen; rotate_left; (with_reducible apply updSrv_frame); rfl)
      | (apply Frame.andThen; rotate_left; (with_reducible apply setTarget_frame); rfl) | (split) | (dsimp only)

theorem moveHead_frame (steps : Int) (s : State) : Frame 0x400 s (moveHead steps s) := by
  unfold moveHead
  try dsimp only
  repeat' first
      | (with_reducible assumption) | (with_reducible exact Frame.refl _ _)
      | (apply Frame.andThen; rotate_left; (with_reducible apply updBrd_frame); rfl) | ((with_reducible apply Frame.getD) <;> intros)
      | (split) | (dsimp only)

theorem startHead_frame (s : State) : Frame 0x400 s (startHead s) := by
  unfold startHead
  try dsimp only
  repeat' first
      | (with_reducible assumption) | (with_reducible exact Frame.refl _ _)
      | (apply Frame.andThen; rotate_left; (with_reducible apply moveHead_frame); rfl) | (split) | (dsimp only)

theorem headArrives_frame (s : State) : Frame 0x400 s (headArrives s) := by
  unfold headArrives
  try dsimp only
  repeat' first
      | (with_reducible assumption) | (with_reducible exact Frame.refl _ _)
      | (apply Frame.andThen; rotate_left; (with_reducible apply updBrd_frame); rfl) | (split) | (dsimp only)

theorem beginStop_frame (kind : StopKind) (endClock : Nat) (s : State) : Frame 0x2c600 s (beginStop kind endClock s) := by
  unfold beginStop
  try dsimp only
  repeat' first
      | (with_reducible assumption) | (with_reducible exact Frame.refl _ _)
      | (apply Frame.andThen; rotate_left; (with_reducible apply cancelKind_frame); rfl)
      | (apply Frame.andThen; rotate_left; (with_reducible apply updBrd_frame); rfl)
      | (apply Frame.andThen; rotate_left; (with_reducible apply postEvent_frame); rfl)
      | (apply Frame.andThen; rotate_left; (with_reducible apply schedule_frame); rfl)
      | (apply Frame.andThen; rotate_left; (with_reducible apply inc_frame); rfl)
      | (apply Frame.andThen; rotate_left; (with_reducible apply post_frame); rfl) | (split) | (dsimp only)

theorem rampStop_frame (slew : Nat) (s : State) : Frame 0x400 s (rampStop slew s) := by
  unfold rampStop
  try dsimp only
  repeat' first
      | (with_reducible assumption) | (with_reducible exact Frame.refl _ _)
      | (apply Frame.andThen; rotate_left; (with_reducible apply rampSpeed_frame); rfl) | (split) | (dsimp only)

theorem faultLoop_frame (n : Nat) (byEndpoint : Nat) (s : State) : Frame 0x2c600 s (faultLoop n byEndpoint s) := by
  unfold faultLoop
  try dsimp only
  repeat' first
      | (with_reducible assumption) | (with_reducible exact Frame.refl _ _)
      | (apply Frame.andThen; rotate_left; (with_reducible apply updBrd_frame); rfl)
      | (apply Frame.andThen; rotate_left; (with_reducible apply beginStop_frame); rfl)
      | (apply Frame.andThen; rotate_left; (with_reducible apply postEvent_frame); rfl)
      | (apply Frame.andThen; rotate_left; (with_reducible apply updEp_frame); rfl)
      | (apply Frame.andThen; rotate_left; (with_reducible apply post_frame); rfl)
      | (apply Frame.andThen; rotate_left; (with_reducible apply rampStop_frame); rfl)
      | (apply Frame.andThen; rotate_left; (with_reducible apply updLoop_frame); rfl)
      | (with_reducible refine Frame.each _ ?_ (fun _ _ => ?_)) | (split) | (dsimp only)

theorem execFollowingErrorExpiry_frame (loop : Nat) (s : State) : FrameOut 0x2c600 s (execFollowingErrorExpiry loop s) := by
  unfold execFollowingErrorExpiry
  try dsimp only
  repeat' first
      | (with_reducible refine FrameOut.go ?_) | (with_reducible assumption) | (with_reducible exact Frame.refl _ _)
      | (apply Frame.andThen; rotate_left; (with_reducible apply faultLoop_frame); rfl)
      | (apply Frame.andThen; rotate_left; (with_reducible apply inc_frame); rfl) | (split) | (dsimp only)

theorem execEndpointFault_frame (endpoint : Nat) (s : State) : FrameOut 0x2c600 s (execEndpointFault endpoint s) := by
  unfold execEndpointFault
  try dsimp only
  repeat' first
      | (with_reducible refine FrameOut.go ?_) | (with_reducible assumption) | (with_reducible exact Frame.refl _ _)
      | (apply Frame.andThen; rotate_left; (with_reducible apply faultLoop_frame); rfl)
      | (apply Frame.andThen; rotate_left; (with_reducible apply updEp_frame); rfl)
      | (with_reducible refine Frame.each _ ?_ (fun _ _ => ?_)) | (split) | (dsimp only)

theorem startRepos_frame (r : Repos) (s : State) : Frame 0x20700 s (startRepos r s) := by
  unfold startRepos
  try dsimp only
  repeat' first
      | (with_reducible assumption) | (with_reducible exact Frame.refl _ _)
      | (apply Frame.andThen; rotate_left; (with_reducible apply cancelKind_frame); rfl)
      | (apply Frame.andThen; rotate_left; (with_reducible apply allAcquiring_frame); rfl)
      | (apply Frame.andThen; rotate_left; (with_reducible apply updBrd_frame); rfl)
      | (apply Frame.andThen; rotate_left; (with_reducible apply inc_frame); rfl)
      | (apply Frame.andThen; rotate_left; (with_reducible apply rampStop_frame); rfl) | (split) | (dsimp only)

theorem startPark_frame (s : State) : Frame 0x400 s (startPark s) := by
  unfold startPark
  try dsimp only
  repeat' first
      | (with_reducible assumption) | (with_reducible exact Frame.refl _ _)
      | (apply Frame.andThen; rotate_left; (with_reducible apply updBrd_frame); rfl)
      | (apply Frame.andThen; rotate_left; (with_reducible apply rampStop_frame); rfl) | (split) | (dsimp only)

theorem requestMove_frame (r : Option Repos) (s : State) : Frame 0x20700 s (requestMove r s) := by
  unfold requestMove
  try dsimp only
  repeat' first
      | (with_reducible assumption) | (with_reducible exact Frame.refl _ _)
      | (apply Frame.andThen; rotate_left; (with_reducible apply startRepos_frame); rfl)
      | (apply Frame.andThen; rotate_left; (with_reducible apply updBrd_frame); rfl)
      | (apply Frame.andThen; rotate_left; (with_reducible apply startPark_frame); rfl) | (split) | (dsimp only)

theorem releaseHeld_frame (s : State) : Frame 0x20700 s (releaseHeld s) := by
  unfold releaseHeld
  try dsimp only
  repeat' first
      | (with_reducible assumption) | (with_reducible exact Frame.refl _ _)
      | (apply Frame.andThen; rotate_left; (with_reducible apply updBrd_frame); rfl)
      | (apply Frame.andThen; rotate_left; (with_reducible apply requestMove_frame); rfl) | (split) | (dsimp only)

theorem changeWrap_frame (s : State) : Frame 0x600 s (changeWrap s) := by
  unfold changeWrap
  try dsimp only
  repeat' first
      | (with_reducible assumption) | (with_reducible exact Frame.refl _ _)
      | (apply Frame.andThen; rotate_left; (with_reducible apply takeWrap_frame); rfl)
      | (apply Frame.andThen; rotate_left; (with_reducible apply updBrd_frame); rfl)
      | (apply Frame.andThen; rotate_left; (with_reducible apply updLoop_frame); rfl)
      | (with_reducible refine Frame.each _ ?_ (fun _ _ => ?_)) | (split) | (dsimp only)

theorem setPhase_frame (p : Nat) (s : State) : Frame 0x400 s (setPhase p s) := by
  unfold setPhase
  try dsimp only
  repeat' first
      | (with_reducible assumption) | (with_reducible exact Frame.refl _ _)
      | (apply Frame.andThen; rotate_left; (with_reducible apply updBrd_frame); rfl) | (split) | (dsimp only)

theorem turnStep_frame (rest : Bool) (s : State) : Frame 0x600 s (turnStep rest s) := by
  unfold turnStep
  try dsimp only
  repeat' first
      | (with_reducible assumption) | (with_reducible exact Frame.refl _ _)
      | (apply Frame.andThen; rotate_left; (with_reducible apply changeWrap_frame); rfl)
      | (apply Frame.andThen; rotate_left; (with_reducible apply updBrd_frame); rfl)
      | (apply Frame.andThen; rotate_left; (with_reducible apply setPhase_frame); rfl)
      | (apply Frame.andThen; rotate_left; (with_reducible apply startHead_frame); rfl)
      | (apply Frame.andThen; rotate_left; (with_reducible apply rampSpeed_frame); rfl) | (split) | (dsimp only)

theorem reposStep_frame (rest : Bool) (r : Repos) (s : State) : Frame 0x20700 s (reposStep rest r s) := by
  unfold reposStep
  try dsimp only
  repeat' first
      | (with_reducible assumption) | (with_reducible exact Frame.refl _ _)
      | (apply Frame.andThen; rotate_left; (with_reducible apply changeWrap_frame); rfl)
      | (apply Frame.andThen; rotate_left; (with_reducible apply startRepos_frame); rfl)
      | (apply Frame.andThen; rotate_left; (with_reducible apply updBrd_frame); rfl)
      | (apply Frame.andThen; rotate_left; (with_reducible apply startHead_frame); rfl)
      | (apply Frame.andThen; rotate_left; (with_reducible apply rampSpeed_frame); rfl)
      | (apply Frame.andThen; rotate_left; (with_reducible apply rampStop_frame); rfl) | (split) | (dsimp only)

theorem unthreadStep_frame (rest : Bool) (s : State) : Frame 0x400 s (unthreadStep rest s) := by
  unfold unthreadStep
  try dsimp only
  repeat' first
      | (with_reducible assumption) | (with_reducible exact Frame.refl _ _)
      | (apply Frame.andThen; rotate_left; (with_reducible apply setPhase_frame); rfl)
      | (apply Frame.andThen; rotate_left; (with_reducible apply autoLoop_frame); rfl)
      | (apply Frame.andThen; rotate_left; (with_reducible apply rampStop_frame); rfl)
      | (apply Frame.andThen; rotate_left; (with_reducible apply setTarget_frame); rfl) | (split) | (dsimp only)

theorem stopStep_frame (rest : Bool) (s : State) : Frame 0x400 s (stopStep rest s) := by
  unfold stopStep
  try dsimp only
  repeat' first
      | (with_reducible assumption) | (with_reducible exact Frame.refl _ _)
      | (apply Frame.andThen; rotate_left; (with_reducible apply updBrd_frame); rfl)
      | (apply Frame.andThen; rotate_left; (with_reducible apply rampStop_frame); rfl) | (split) | (dsimp only)

theorem motionStep_frame (rest : Bool) (s0 : State) : Frame 0x20700 s0 (motionStep rest s0) := by
  unfold motionStep
  try dsimp only
  repeat' first
      | (with_reducible assumption) | (with_reducible exact Frame.refl _ _)
      | (apply Frame.andThen; rotate_left; (with_reducible apply reposStep_frame); rfl)
      | (apply Frame.andThen; rotate_left; (with_reducible apply unthreadStep_frame); rfl)
      | (apply Frame.andThen; rotate_left; (with_reducible apply stopStep_frame); rfl)
      | (apply Frame.andThen; rotate_left; (with_reducible apply headArrives_frame); rfl)
      | (apply Frame.andThen; rotate_left; (with_reducible apply turnStep_frame); rfl) | (split) | (dsimp only)

theorem turnaroundFires_frame (_e : SchedEnt) (s : State) : Frame 0x20400 s (turnaroundFires _e s) := by
  unfold turnaroundFires
  try dsimp only
  repeat' first
      | (with_reducible assumption) | (with_reducible exact Frame.refl _ _)
      | (apply Frame.andThen; rotate_left; (with_reducible apply updBrd_frame); rfl)
      | (apply Frame.andThen; rotate_left; (with_reducible apply inc_frame); rfl)
      | (apply Frame.andThen; rotate_left; (with_reducible apply rampStop_frame); rfl) | (split) | (dsimp only)

theorem execTurnaround_frame (idx : Nat) (s : State) : FrameOut 0x20600 s (execTurnaround idx s) := by
  unfold execTurnaround
  try dsimp only
  repeat' first
      | (with_reducible refine FrameOut.go ?_) | (with_reducible assumption) | (with_reducible exact Frame.refl _ _)
      | ((with_reducible apply fire_frame); rotate_left; rfl; intros)
      | (apply Frame.andThen; rotate_left; (with_reducible apply turnaroundFires_frame); rfl) | (split) | (dsimp only)

theorem execSpeedSettled_frame (s : State) : FrameOut 0x20600 s (execSpeedSettled s) := by
  unfold execSpeedSettled
  try dsimp only
  repeat' first
      | (with_reducible refine FrameOut.go ?_) | (with_reducible assumption) | (with_reducible exact Frame.refl _ _)
      | (apply Frame.andThen; rotate_left; (with_reducible apply updBrd_frame); rfl)
      | (apply Frame.andThen; rotate_left; (with_reducible apply postSched_frame); rfl)
      | (apply Frame.andThen; rotate_left; (with_reducible apply postSched_frame_eq) <;> assumption; rfl) | (split) | (dsimp only)

theorem execThreadComplete_frame (s : State) : FrameOut 0x600 s (execThreadComplete s) := by
  unfold execThreadComplete
  try dsimp only
  repeat' first
      | (with_reducible refine FrameOut.go ?_) | (with_reducible assumption) | (with_reducible exact Frame.refl _ _)
      | (apply Frame.andThen; rotate_left; (with_reducible apply takeWrap_frame); rfl)
      | (apply Frame.andThen; rotate_left; (with_reducible apply moveHead_frame); rfl)
      | (apply Frame.andThen; rotate_left; (with_reducible apply updBrd_frame); rfl)
      | (apply Frame.andThen; rotate_left; (with_reducible apply updEp_frame); rfl)
      | (apply Frame.andThen; rotate_left; (with_reducible apply autoLoop_frame); rfl)
      | (apply Frame.andThen; rotate_left; (with_reducible apply disableLoop_frame); rfl)
      | (apply Frame.andThen; rotate_left; (with_reducible apply rampSpeed_frame); rfl)
      | (apply Frame.andThen; rotate_left; (with_reducible apply setTarget_frame); rfl)
      | (with_reducible refine Frame.each _ ?_ (fun _ _ => ?_)) | (split) | (dsimp only)

theorem execTensionTick_frame (s : State) : FrameOut 0x400 s (execTensionTick s) := by
  unfold execTensionTick
  try dsimp only
  repeat' first
      | (with_reducible refine FrameOut.go ?_) | (with_reducible assumption) | (with_reducible exact Frame.refl _ _)
      | (apply Frame.andThen; rotate_left; (with_reducible apply mix_frame); rfl)
      | (apply Frame.andThen; rotate_left; (with_reducible apply runLoop_frame); rfl) | (split) | (dsimp only)

theorem execThreadTick_frame (s : State) : FrameOut 0x200400 s (execThreadTick s) := by
  unfold execThreadTick
  try dsimp only
  repeat' first
      | (with_reducible refine FrameOut.go ?_) | (with_reducible assumption) | (with_reducible exact Frame.refl _ _)
      | (apply Frame.andThen; rotate_left; (with_reducible apply runLoop_frame); rfl)
      | (apply Frame.andThen; rotate_left; (with_reducible apply drawNext_frame); rfl)
      | (apply Frame.andThen; rotate_left; (with_reducible apply updLoop_frame); rfl)
      | (with_reducible refine Frame.each _ ?_ (fun _ _ => ?_)) | (split) | (dsimp only)

theorem execActFrameSend_frame (link : Nat) (s : State) : FrameOut 0x400 s (execActFrameSend link s) := by
  unfold execActFrameSend
  try dsimp only
  repeat' first
      | (with_reducible refine FrameOut.go ?_) | (with_reducible assumption) | (with_reducible exact Frame.refl _ _)
      | (apply Frame.andThen; rotate_left; (with_reducible apply updBrd_frame); rfl)
      | (apply Frame.andThen; rotate_left; (with_reducible apply updEp_frame); rfl)
      | (with_reducible refine Frame.each _ ?_ (fun _ _ => ?_)) | (split) | (dsimp only)

theorem takeStatus_frame (link : Nat) (k : Nat) (good : Bool) (b : Bytes) (s : State) : Frame 0x400 s (takeStatus link k good b s) := by
  unfold takeStatus
  try dsimp only
  repeat' first
      | (with_reducible assumption) | (with_reducible exact Frame.refl _ _)
      | (apply Frame.andThen; rotate_left; (with_reducible apply updBrd_frame); rfl) | (split) | (dsimp only)

theorem execActStatusReceive_frame (link : Nat) (frame : Bytes) (s : State) : FrameOut 0x400 s (execActStatusReceive link frame s) := by
  unfold execActStatusReceive
  try dsimp only
  repeat' first
      | (with_reducible refine FrameOut.go ?_) | (with_reducible assumption) | (with_reducible exact Frame.refl _ _)
      | (apply Frame.andThen; rotate_left; (with_reducible apply updBrd_frame); rfl)
      | (apply Frame.andThen; rotate_left; (with_reducible apply takeStatus_frame); rfl)
      | (with_reducible refine Frame.each _ ?_ (fun _ _ => ?_)) | (split) | (dsimp only)

theorem applySpeed_frame (s : State) : Frame 0x400 s (applySpeed s) := by
  unfold applySpeed
  try dsimp only
  repeat' first
      | (with_reducible assumption) | (with_reducible exact Frame.refl _ _)
      | (apply Frame.andThen; rotate_left; (with_reducible apply rampSpeed_frame); rfl) | (split) | (dsimp only)

theorem execSpeedTarget_frame (src : Nat) (arg : Nat) (s : State) : FrameOut 0x2c400 s (execSpeedTarget src arg s) := by
  unfold execSpeedTarget
  try dsimp only
  repeat' first
      | (with_reducible refine FrameOut.go ?_) | (with_reducible assumption) | (with_reducible exact Frame.refl _ _)
      | ((with_reducible apply boxTake_frame); rotate_left; rfl; intros)
      | (apply Frame.andThen; rotate_left; (with_reducible apply updBrd_frame); rfl)
      | (apply Frame.andThen; rotate_left; (with_reducible apply applySpeed_frame); rfl) | (split) | (dsimp only)

theorem execStopAndPark_frame (src : Nat) (arg : Nat) (s : State) : FrameOut 0x2c700 s (execStopAndPark src arg s) := by
  unfold execStopAndPark
  try dsimp only
  repeat' first
      | (with_reducible refine FrameOut.go ?_) | (with_reducible assumption) | (with_reducible exact Frame.refl _ _)
      | ((with_reducible apply boxTake_frame); rotate_left; rfl; intros)
      | (apply Frame.andThen; rotate_left; (with_reducible apply requestMove_frame); rfl) | (split) | (dsimp only)

theorem execReposition_frame (src : Nat) (arg : Nat) (s : State) : FrameOut 0x2c700 s (execReposition src arg s) := by
  unfold execReposition
  try dsimp only
  repeat' first
      | (with_reducible refine FrameOut.go ?_) | (with_reducible assumption) | (with_reducible exact Frame.refl _ _)
      | ((with_reducible apply boxTake_frame); rotate_left; rfl; intros)
      | (apply Frame.andThen; rotate_left; (with_reducible apply requestMove_frame); rfl) | (split) | (dsimp only)

theorem execLateralOffset_frame (src : Nat) (arg : Nat) (s : State) : FrameOut 0x2c400 s (execLateralOffset src arg s) := by
  unfold execLateralOffset
  try dsimp only
  repeat' first
      | (with_reducible refine FrameOut.go ?_) | (with_reducible assumption) | (with_reducible exact Frame.refl _ _)
      | ((with_reducible apply boxTake_frame); rotate_left; rfl; intros)
      | (apply Frame.andThen; rotate_left; (with_reducible apply updBrd_frame); rfl)
      | (apply Frame.andThen; rotate_left; (with_reducible apply setTarget_frame); rfl) | (split) | (dsimp only)

theorem execWrapSelect_frame (src : Nat) (arg : Nat) (s : State) : FrameOut 0x2c600 s (execWrapSelect src arg s) := by
  unfold execWrapSelect
  try dsimp only
  repeat' first
      | (with_reducible refine FrameOut.go ?_) | (with_reducible assumption) | (with_reducible exact Frame.refl _ _)
      | ((with_reducible apply boxTake_frame); rotate_left; rfl; intros)
      | (apply Frame.andThen; rotate_left; (with_reducible apply cancelKind_frame); rfl)
      | (apply Frame.andThen; rotate_left; (with_reducible apply updBrd_frame); rfl)
      | (apply Frame.andThen; rotate_left; (with_reducible apply schedule_frame); rfl) | (split) | (dsimp only)

theorem execThread_frame (src : Nat) (arg : Nat) (s : State) : FrameOut 0x2c600 s (execThread src arg s) := by
  unfold execThread
  try dsimp only
  repeat' first
      | (with_reducible refine FrameOut.go ?_) | (with_reducible assumption) | (with_reducible exact Frame.refl _ _)
      | ((with_reducible apply boxTake_frame); rotate_left; rfl; intros)
      | (apply Frame.andThen; rotate_left; (with_reducible apply updSrv_frame); rfl)
      | (apply Frame.andThen; rotate_left; (with_reducible apply updBrd_frame); rfl)
      | (apply Frame.andThen; rotate_left; (with_reducible apply autoLoop_frame); rfl) | (split) | (dsimp only)

theorem execUnthread_frame (src : Nat) (arg : Nat) (s : State) : FrameOut 0x2c600 s (execUnthread src arg s) := by
  unfold execUnthread
  try dsimp only
  repeat' first
      | (with_reducible refine FrameOut.go ?_) | (with_reducible assumption) | (with_reducible exact Frame.refl _ _)
      | ((with_reducible apply boxTake_frame); rotate_left; rfl; intros)
      | (apply Frame.andThen; rotate_left; (with_reducible apply cancelKind_frame); rfl)
      | (apply Frame.andThen; rotate_left; (with_reducible apply updBrd_frame); rfl)
      | (apply Frame.andThen; rotate_left; (with_reducible apply rampSpeed_frame); rfl) | (split) | (dsimp only)

theorem execSpeedCeiling_frame (src : Nat) (arg : Nat) (s : State) : FrameOut 0x2c400 s (execSpeedCeiling src arg s) := by
  unfold execSpeedCeiling
  try dsimp only
  repeat' first
      | (with_reducible refine FrameOut.go ?_) | (with_reducible assumption) | (with_reducible exact Frame.refl _ _)
      | ((with_reducible apply boxTake_frame); rotate_left; rfl; intros)
      | (apply Frame.andThen; rotate_left; (with_reducible apply updBrd_frame); rfl)
      | (apply Frame.andThen; rotate_left; (with_reducible apply applySpeed_frame); rfl) | (split) | (dsimp only)

theorem execLoopMode_frame (src : Nat) (arg : Nat) (s : State) : FrameOut 0x2c400 s (execLoopMode src arg s) := by
  unfold execLoopMode
  try dsimp only
  repeat' first
      | (with_reducible refine FrameOut.go ?_) | (with_reducible assumption) | (with_reducible exact Frame.refl _ _)
      | ((with_reducible apply boxTake_frame); rotate_left; rfl; intros)
      | (apply Frame.andThen; rotate_left; (with_reducible apply autoLoop_frame); rfl)
      | (apply Frame.andThen; rotate_left; (with_reducible apply enableLoop_frame); rfl)
      | (apply Frame.andThen; rotate_left; (with_reducible apply disableLoop_frame); rfl)
      | (apply Frame.andThen; rotate_left; (with_reducible apply updLoop_frame); rfl) | (split) | (dsimp only)

theorem execClearFaults_frame (src : Nat) (arg : Nat) (s : State) : FrameOut 0x2c400 s (execClearFaults src arg s) := by
  unfold execClearFaults
  try dsimp only
  repeat' first
      | (with_reducible refine FrameOut.go ?_) | (with_reducible assumption) | (with_reducible exact Frame.refl _ _)
      | ((with_reducible apply boxTake_frame); rotate_left; rfl; intros)
      | (apply Frame.andThen; rotate_left; (with_reducible apply updBrd_frame); rfl)
      | (apply Frame.andThen; rotate_left; (with_reducible apply updEp_frame); rfl)
      | (apply Frame.andThen; rotate_left; (with_reducible apply post_frame); rfl)
      | (apply Frame.andThen; rotate_left; (with_reducible apply updLoop_frame); rfl)
      | (with_reducible refine Frame.each _ ?_ (fun _ _ => ?_)) | (split) | (dsimp only)

theorem orderly_frame (urgent : Bool) (s : State) : Frame 0x2c600 s (orderly urgent s) := by
  unfold orderly
  try dsimp only
  repeat' first
      | (with_reducible assumption) | (with_reducible exact Frame.refl _ _)
      | (apply Frame.andThen; rotate_left; (with_reducible apply beginStop_frame); rfl) | (split) | (dsimp only)

theorem execOrderlyStop_frame (src : Nat) (arg : Nat) (s : State) : FrameOut 0x2c600 s (execOrderlyStop src arg s) := by
  unfold execOrderlyStop
  try dsimp only
  repeat' first
      | (with_reducible refine FrameOut.go ?_) | (with_reducible assumption) | (with_reducible exact Frame.refl _ _)
      | ((with_reducible apply boxTake_frame); rotate_left; rfl; intros)
      | (apply Frame.andThen; rotate_left; (with_reducible apply orderly_frame); rfl) | (split) | (dsimp only)

theorem execBridleUnknownEvent_frame (src : Nat) (code : Nat) (arg : Nat) (s : State)
    : FrameOut 0x2c000 s (execBridleUnknownEvent src code arg s) := by
  unfold execBridleUnknownEvent
  try dsimp only
  repeat' first
      | (with_reducible refine FrameOut.go ?_) | (with_reducible assumption) | (with_reducible exact Frame.refl _ _)
      | ((with_reducible apply boxTake_frame); rotate_left; rfl; intros)
      | (apply Frame.andThen; rotate_left; (with_reducible apply inc_frame); rfl) | (split) | (dsimp only)

theorem execShockAssert_frame (s : State) : FrameOut 0x2c200 s (execShockAssert s) := by
  unfold execShockAssert
  try dsimp only
  repeat' first
      | (with_reducible refine FrameOut.go ?_) | (with_reducible assumption) | (with_reducible exact Frame.refl _ _)
      | (apply Frame.andThen; rotate_left; (with_reducible apply updSrv_frame); rfl)
      | (apply Frame.andThen; rotate_left; (with_reducible apply post_frame); rfl) | (split) | (dsimp only)

theorem execShockRelease_frame (s : State) : FrameOut 0x2c200 s (execShockRelease s) := by
  unfold execShockRelease
  try dsimp only
  repeat' first
      | (with_reducible refine FrameOut.go ?_) | (with_reducible assumption) | (with_reducible exact Frame.refl _ _)
      | (apply Frame.andThen; rotate_left; (with_reducible apply updSrv_frame); rfl)
      | (apply Frame.andThen; rotate_left; (with_reducible apply post_frame); rfl) | (split) | (dsimp only)

end Sys2Proof.Machine
end

