-- ==== Sys2Proof/Laws/FrameShed.lean ====
section
/-!
SUPPORT. What each operation leaves alone: the fabric and the Shed. The number of a frame has one bit for each part of the state
that the operation may write (`Fld.idx`).
-/

namespace Sys2Proof.Machine

set_option linter.all false

theorem updFab_frame (f : Fab → Fab) (s : State) : Frame 0x2000 s (updFab f s) := by
  unfold updFab
  try dsimp only
  repeat' first
      | (with_reducible assumption) | (with_reducible exact Frame.refl _ _) | (split) | (dsimp only)
      | ((with_reducible apply Frame.set_fab); rotate_left; rfl)

theorem updPort_frame (p : Nat) (f : FabPort → FabPort) (s : State) : Frame 0x2000 s (updPort p f s) := by
  unfold updPort
  try dsimp only
  repeat' first
      | (with_reducible assumption) | (with_reducible exact Frame.refl _ _)
      | (apply Frame.andThen; rotate_left; (with_reducible apply updFab_frame); rfl) | (split) | (dsimp only)

theorem owe_frame (p : Nat) (vc : Nat) (s : State) : Frame 0x2000 s (owe p vc s) := by
  unfold owe
  try dsimp only
  repeat' first
      | (with_reducible assumption) | (with_reducible exact Frame.refl _ _)
      | (apply Frame.andThen; rotate_left; (with_reducible apply updPort_frame); rfl) | (split) | (dsimp only)

theorem sendPlain_frame (p : Nat) (f : Flit) (s : State) : Frame 0x2000 s (sendPlain p f s) := by
  unfold sendPlain
  try dsimp only
  repeat' first
      | (with_reducible assumption) | (with_reducible exact Frame.refl _ _)
      | (apply Frame.andThen; rotate_left; (with_reducible apply updPort_frame); rfl) | (split) | (dsimp only)

theorem sendNext_frame (p : Nat) (vc : Nat) (i : Nat) (q : QFlit) (s : State) : Frame 0x22000 s (sendNext p vc i q s) := by
  unfold sendNext
  try dsimp only
  repeat' first
      | (with_reducible assumption) | (with_reducible exact Frame.refl _ _)
      | (apply Frame.andThen; rotate_left; (with_reducible apply addCtr_frame); rfl)
      | (apply Frame.andThen; rotate_left; (with_reducible apply updPort_frame); rfl)
      | (apply Frame.andThen; rotate_left; (with_reducible apply owe_frame); rfl) | (split) | (dsimp only)

theorem pumpPort_frame (p : Nat) (x1 : Nat) (x2 : State) : Frame 0x22000 x2 (pumpPort p x1 x2) := by
  fun_induction pumpPort p x1 x2 <;> try dsimp +zetaDelta only
  all_goals
  repeat' first
      | (with_reducible assumption) | (with_reducible exact Frame.refl _ _)
      | (apply Frame.andThen; rotate_left; (with_reducible apply sendNext_frame); rfl) | (apply Frame.andThen; rotate_left; assumption; rfl)
      | (split) | (dsimp only)

theorem pump_frame (p : Nat) (s : State) : Frame 0x22000 s (pump p s) := by
  unfold pump
  try dsimp only
  repeat' first
      | (with_reducible assumption) | (with_reducible exact Frame.refl _ _)
      | (apply Frame.andThen; rotate_left; (with_reducible apply pumpPort_frame); rfl) | (split) | (dsimp only)

theorem pumpPorts_frame (s : State) : Frame 0x22000 s (pumpPorts s) := by
  unfold pumpPorts
  try dsimp only
  repeat' first
      | (with_reducible assumption) | (with_reducible exact Frame.refl _ _)
      | (apply Frame.andThen; rotate_left; (with_reducible apply pump_frame); rfl) | (with_reducible refine Frame.each _ ?_ (fun _ _ => ?_))
      | (split) | (dsimp only)

theorem enqueueFlit_frame (p : Nat) (vc : Nat) (input : Nat) (f : Flit) (s : State) : Frame 0x2000 s (enqueueFlit p vc input f s) := by
  unfold enqueueFlit
  try dsimp only
  repeat' first
      | (with_reducible assumption) | (with_reducible exact Frame.refl _ _)
      | (apply Frame.andThen; rotate_left; (with_reducible apply updPort_frame); rfl) | (split) | (dsimp only)

theorem replayPort_frame (p : Nat) (s : State) : Frame 0x22000 s (replayPort p s) := by
  unfold replayPort
  try dsimp only
  repeat' first
      | (with_reducible assumption) | (with_reducible exact Frame.refl _ _)
      | (apply Frame.andThen; rotate_left; (with_reducible apply updPort_frame); rfl)
      | (apply Frame.andThen; rotate_left; (with_reducible apply inc_frame); rfl) | (split) | (dsimp only)

theorem takeLink_frame (p : Nat) (f : Flit) (s : State) : Frame 0x2000 s (takeLink p f s) := by
  unfold takeLink
  try dsimp only
  repeat' first
      | (with_reducible assumption) | (with_reducible exact Frame.refl _ _)
      | (apply Frame.andThen; rotate_left; (with_reducible apply updPort_frame); rfl) | (split) | (dsimp only)

theorem flood_frame (origin : Nat) (l : Lsa) (ps : List Nat) (s : State) : Frame 0x22000 s (flood origin l ps s) := by
  unfold flood
  try dsimp only
  repeat' first
      | (with_reducible assumption) | (with_reducible exact Frame.refl _ _)
      | (apply Frame.andThen; rotate_left; (with_reducible apply enqueueFlit_frame); rfl)
      | (apply Frame.andThen; rotate_left; (with_reducible apply pump_frame); rfl) | (with_reducible refine Frame.each _ ?_ (fun _ _ => ?_))
      | (split) | (dsimp only)

theorem storeLsa_frame (origin : Nat) (l : Lsa) (s : State) : Frame 0x2000 s (storeLsa origin l s) := by
  unfold storeLsa
  try dsimp only
  repeat' first
      | (with_reducible assumption) | (with_reducible exact Frame.refl _ _)
      | (apply Frame.andThen; rotate_left; (with_reducible apply updFab_frame); rfl) | (split) | (dsimp only)

theorem originate_frame (s : State) : Frame 0x22000 s (originate s) := by
  unfold originate
  try dsimp only
  repeat' first
      | (with_reducible assumption) | (with_reducible exact Frame.refl _ _)
      | (apply Frame.andThen; rotate_left; (with_reducible apply updFab_frame); rfl)
      | (apply Frame.andThen; rotate_left; (with_reducible apply storeLsa_frame); rfl)
      | (apply Frame.andThen; rotate_left; (with_reducible apply flood_frame); rfl) | (split) | (dsimp only)

theorem dropQueue_frame (p : Nat) (s : State) : Frame 0x22000 s (dropQueue p s) := by
  unfold dropQueue
  try dsimp only
  repeat' first
      | (with_reducible assumption) | (with_reducible exact Frame.refl _ _)
      | (apply Frame.andThen; rotate_left; (with_reducible apply addCtr_frame); rfl)
      | (apply Frame.andThen; rotate_left; (with_reducible apply updPort_frame); rfl)
      | (apply Frame.andThen; rotate_left; (with_reducible apply owe_frame); rfl) | (with_reducible refine Frame.each _ ?_ (fun _ _ => ?_))
      | (split) | (dsimp only)

theorem portDown_frame (p : Nat) (s : State) : Frame 0x22000 s (portDown p s) := by
  unfold portDown
  try dsimp only
  repeat' first
      | (with_reducible assumption) | (with_reducible exact Frame.refl _ _)
      | (apply Frame.andThen; rotate_left; (with_reducible apply dropQueue_frame); rfl)
      | (apply Frame.andThen; rotate_left; (with_reducible apply updFab_frame); rfl)
      | (apply Frame.andThen; rotate_left; (with_reducible apply updPort_frame); rfl)
      | (apply Frame.andThen; rotate_left; (with_reducible apply inc_frame); rfl)
      | (apply Frame.andThen; rotate_left; (with_reducible apply originate_frame); rfl) | (split) | (dsimp only)

theorem idConflict_frame (p : Nat) (prefix_ : Nat) (s : State) : Frame 0x26000 s (idConflict p prefix_ s) := by
  unfold idConflict
  try dsimp only
  repeat' first
      | (with_reducible assumption) | (with_reducible exact Frame.refl _ _)
      | (apply Frame.andThen; rotate_left; (with_reducible apply dropQueue_frame); rfl)
      | (apply Frame.andThen; rotate_left; (with_reducible apply postEvent_frame); rfl)
      | (apply Frame.andThen; rotate_left; (with_reducible apply updFab_frame); rfl)
      | (apply Frame.andThen; rotate_left; (with_reducible apply updPort_frame); rfl)
      | (apply Frame.andThen; rotate_left; (with_reducible apply inc_frame); rfl)
      | (apply Frame.andThen; rotate_left; (with_reducible apply originate_frame); rfl)
      | (with_reducible refine Frame.each _ ?_ (fun _ _ => ?_)) | (split) | (dsimp only)

theorem fabSend_frame (dest : Nat) (vc : Nat) (b : Bytes) (s : State) : Frame 0x22000 s (fabSend dest vc b s) := by
  unfold fabSend
  try dsimp only
  repeat' first
      | (with_reducible assumption) | (with_reducible exact Frame.refl _ _)
      | (apply Frame.andThen; rotate_left; (with_reducible apply addCtr_frame); rfl)
      | (apply Frame.andThen; rotate_left; (with_reducible apply updFab_frame); rfl)
      | (apply Frame.andThen; rotate_left; (with_reducible apply enqueueFlit_frame); rfl)
      | (apply Frame.andThen; rotate_left; (with_reducible apply pump_frame); rfl) | ((with_reducible apply Frame.getD) <;> intros)
      | (with_reducible refine Frame.each _ ?_ (fun _ _ => ?_)) | (split) | (dsimp only)

theorem dropPartial_frame (src : Nat) (vc : Nat) (s : State) : Frame 0x26010 s (dropPartial src vc s) := by
  unfold dropPartial
  try dsimp only
  repeat' first
      | (with_reducible assumption) | (with_reducible exact Frame.refl _ _)
      | (apply Frame.andThen; rotate_left; (with_reducible apply updFab_frame); rfl)
      | (apply Frame.andThen; rotate_left; (with_reducible apply giveBack_frame); rfl)
      | (with_reducible refine Frame.each _ ?_ (fun _ _ => ?_)) | (split) | (dsimp only)

theorem reassemble_start_frame (p : Nat) (f : Flit) (s : State) : Frame 0x26010 s (reassemble.start p f s).2 := by
  unfold reassemble.start
  try dsimp only
  repeat' first
      | (with_reducible assumption) | (with_reducible exact Frame.refl _ _)
      | (apply Frame.andThen; rotate_left; (with_reducible apply updFab_frame); rfl)
      | (apply Frame.andThen; rotate_left; (with_reducible apply acquireOne_frame); rfl)
      | (apply Frame.andThen; rotate_left; (with_reducible apply acquireOne_frame_eq) <;> assumption; rfl) | (split) | (dsimp only)

theorem reassemble_start_frame_eq (p : Nat) (f : Flit) (s : State) {a_ : Bool} {s' : State} (h : reassemble.start p f s = (a_, s'))
    : Frame 0x26010 s s' := by
  have k := reassemble_start_frame p f s
  rwa [h] at k

theorem reassemble_frame (p : Nat) (f : Flit) (s : State) : Frame 0x26010 s (reassemble p f s).2 := by
  unfold reassemble
  try dsimp only
  repeat' first
      | (with_reducible assumption) | (with_reducible exact Frame.refl _ _)
      | (apply Frame.andThen; rotate_left; (with_reducible apply reassemble_start_frame); rfl)
      | (apply Frame.andThen; rotate_left; (with_reducible apply reassemble_start_frame_eq) <;> assumption; rfl)
      | (apply Frame.andThen; rotate_left; (with_reducible apply dropPartial_frame); rfl)
      | (apply Frame.andThen; rotate_left; (with_reducible apply updFab_frame); rfl)
      | (apply Frame.andThen; rotate_left; (with_reducible apply inc_frame); rfl) | (split) | (dsimp only)

theorem reassemble_frame_eq (p : Nat) (f : Flit) (s : State) {a_ : Bool} {s' : State} (h : reassemble p f s = (a_, s'))
    : Frame 0x26010 s s' := by
  have k := reassemble_frame p f s
  rwa [h] at k

theorem placeFlit_frame (p : Nat) (f : Flit) (s : State) : Frame 0x26010 s (placeFlit p f s).2 := by
  unfold placeFlit
  try dsimp only
  repeat' first
      | (with_reducible assumption) | (with_reducible exact Frame.refl _ _)
      | (apply Frame.andThen; rotate_left; (with_reducible apply enqueueFlit_frame); rfl)
      | (apply Frame.andThen; rotate_left; (with_reducible apply updPort_frame); rfl)
      | (apply Frame.andThen; rotate_left; (with_reducible apply pump_frame); rfl)
      | (apply Frame.andThen; rotate_left; (with_reducible apply reassemble_frame); rfl)
      | (apply Frame.andThen; rotate_left; (with_reducible apply reassemble_frame_eq) <;> assumption; rfl)
      | (apply Frame.andThen; rotate_left; (with_reducible apply owe_frame); rfl)
      | (apply Frame.andThen; rotate_left; (with_reducible apply inc_frame); rfl) | (split) | (dsimp only)

theorem placeFlit_frame_eq (p : Nat) (f : Flit) (s : State) {a_ : Bool} {s' : State} (h : placeFlit p f s = (a_, s'))
    : Frame 0x26010 s s' := by
  have k := placeFlit_frame p f s
  rwa [h] at k

theorem placeWaiting_frame (p : Nat) (x1 : Nat) (x2 : State) : Frame 0x26010 x2 (placeWaiting p x1 x2) := by
  fun_induction placeWaiting p x1 x2 <;> try dsimp +zetaDelta only
  all_goals
  repeat' first
      | (with_reducible assumption) | (with_reducible exact Frame.refl _ _)
      | (apply Frame.andThen; rotate_left; (with_reducible apply updPort_frame); rfl)
      | (apply Frame.andThen; rotate_left; (with_reducible apply placeFlit_frame); rfl)
      | (apply Frame.andThen; rotate_left; (with_reducible apply placeFlit_frame_eq) <;> assumption; rfl)
      | (apply Frame.andThen; rotate_left; assumption; rfl) | (split) | (dsimp only)

theorem sendNak_frame (p : Nat) (s : State) : Frame 0x2000 s (sendNak p s) := by
  unfold sendNak
  try dsimp only
  repeat' first
      | (with_reducible assumption) | (with_reducible exact Frame.refl _ _)
      | (apply Frame.andThen; rotate_left; (with_reducible apply updPort_frame); rfl)
      | (apply Frame.andThen; rotate_left; (with_reducible apply sendPlain_frame); rfl) | (split) | (dsimp only)

theorem acknowledge_frame (p : Nat) (before : Nat) (s : State) : Frame 0x2000 s (acknowledge p before s) := by
  unfold acknowledge
  try dsimp only
  repeat' first
      | (with_reducible assumption) | (with_reducible exact Frame.refl _ _)
      | (apply Frame.andThen; rotate_left; (with_reducible apply sendPlain_frame); rfl) | (split) | (dsimp only)

theorem sequencedFlit_frame {m : Nat} {p : Nat} {f : Flit} {act : State → State} {s u : State} (h : Frame m s u)
    (sub : 0x22000 ||| m = m) (k : ∀ v, Frame m v (act v)) : Frame m s (sequencedFlit p f act u) := by
  unfold sequencedFlit
  dsimp only
  have step : ∀ (n : Nat) (a b c : State), Frame n b c → n ||| 0x22000 = 0x22000 → Frame m a b → Frame m a c :=
    fun n a b c hb hn ha => ha.andThen hb (by rw [← sub, ← Nat.or_assoc, hn])
  split
  · exact step _ _ _ _ (acknowledge_frame ..) rfl
      ((step _ _ _ _ (addCtr_frame ..) rfl (step _ _ _ _ (updPort_frame ..) rfl h)).andThen (k _) (Nat.or_self m))
  · split
    · exact step _ _ _ _ (acknowledge_frame ..) rfl (step _ _ _ _ (owe_frame ..) rfl h)
    · exact step _ _ _ _ (sendNak_frame ..) rfl h

theorem onUp_frame {m : Nat} {p type : Nat} {b : Bytes} {act : Flit → State → State} {s u : State} (h : Frame m s u)
    (sub : 0x26010 ||| m = m) (k : ∀ f v, Frame m v (act f v)) : Frame m s (onUp p type b act u) := by
  unfold onUp
  dsimp only
  have step : ∀ (n : Nat) (a b c : State), Frame n b c → n ||| 0x26010 = 0x26010 → Frame m a b → Frame m a c :=
    fun n a b c hb hn ha => ha.andThen hb (by rw [← sub, ← Nat.or_assoc, hn])
  split
  · exact h
  · exact step _ _ _ _ (pump_frame ..) rfl
      ((step _ _ _ _ (placeWaiting_frame ..) rfl (step _ _ _ _ (takeLink_frame ..) rfl h)).andThen (k _ _) (Nat.or_self m))

theorem execFlitData_frame (port : Nat) (flit : Bytes) (s : State) : FrameOut 0x26010 s (execFlitData port flit s) := by
  unfold execFlitData
  try dsimp only
  repeat' first
      | (with_reducible refine FrameOut.go ?_) | (with_reducible assumption) | (with_reducible exact Frame.refl _ _)
      | (apply Frame.andThen; rotate_left; (with_reducible apply updPort_frame); rfl)
      | (apply Frame.andThen; rotate_left; (with_reducible apply placeFlit_frame); rfl)
      | (apply Frame.andThen; rotate_left; (with_reducible apply placeFlit_frame_eq) <;> assumption; rfl)
      | ((with_reducible apply sequencedFlit_frame); rotate_left; rfl; intros)
      | ((with_reducible apply onUp_frame); rotate_left; rfl; intros) | (split) | (dsimp only)

theorem execFlitNak_frame (port : Nat) (flit : Bytes) (s : State) : FrameOut 0x26010 s (execFlitNak port flit s) := by
  unfold execFlitNak
  try dsimp only
  repeat' first
      | (with_reducible refine FrameOut.go ?_) | (with_reducible assumption) | (with_reducible exact Frame.refl _ _)
      | (apply Frame.andThen; rotate_left; (with_reducible apply replayPort_frame); rfl)
      | ((with_reducible apply onUp_frame); rotate_left; rfl; intros) | (split) | (dsimp only)

theorem execFlitNull_frame (port : Nat) (flit : Bytes) (s : State) : FrameOut 0x26010 s (execFlitNull port flit s) := by
  unfold execFlitNull
  try dsimp only
  repeat' first
      | (with_reducible refine FrameOut.go ?_) | (with_reducible assumption) | (with_reducible exact Frame.refl _ _)
      | ((with_reducible apply onUp_frame); rotate_left; rfl; intros) | (split) | (dsimp only)

theorem takeLsa_frame (p : Nat) (f : Flit) (s : State) : Frame 0x26000 s (takeLsa p f s) := by
  unfold takeLsa
  try dsimp only
  repeat' first
      | (with_reducible assumption) | (with_reducible exact Frame.refl _ _)
      | (apply Frame.andThen; rotate_left; (with_reducible apply updFab_frame); rfl)
      | (apply Frame.andThen; rotate_left; (with_reducible apply idConflict_frame); rfl)
      | (apply Frame.andThen; rotate_left; (with_reducible apply storeLsa_frame); rfl)
      | (apply Frame.andThen; rotate_left; (with_reducible apply owe_frame); rfl)
      | (apply Frame.andThen; rotate_left; (with_reducible apply flood_frame); rfl)
      | (apply Frame.andThen; rotate_left; (with_reducible apply originate_frame); rfl) | (split) | (dsimp only)

theorem execFlitLsa_frame (port : Nat) (flit : Bytes) (s : State) : FrameOut 0x26010 s (execFlitLsa port flit s) := by
  unfold execFlitLsa
  try dsimp only
  repeat' first
      | (with_reducible refine FrameOut.go ?_) | (with_reducible assumption) | (with_reducible exact Frame.refl _ _)
      | (apply Frame.andThen; rotate_left; (with_reducible apply takeLsa_frame); rfl)
      | ((with_reducible apply sequencedFlit_frame); rotate_left; rfl; intros)
      | ((with_reducible apply onUp_frame); rotate_left; rfl; intros) | (split) | (dsimp only)

theorem execFlitBad_frame (port : Nat) (flit : Bytes) (s : State) : FrameOut 0x22000 s (execFlitBad port flit s) := by
  unfold execFlitBad
  try dsimp only
  repeat' first
      | (with_reducible refine FrameOut.go ?_) | (with_reducible assumption) | (with_reducible exact Frame.refl _ _)
      | (apply Frame.andThen; rotate_left; (with_reducible apply sendNak_frame); rfl)
      | (apply Frame.andThen; rotate_left; (with_reducible apply inc_frame); rfl) | (split) | (dsimp only)

theorem execHelloSendTimer_frame (port : Nat) (s : State) : FrameOut 0x2000 s (execHelloSendTimer port s) := by
  unfold execHelloSendTimer
  try dsimp only
  repeat' first
      | (with_reducible refine FrameOut.go ?_) | (with_reducible assumption) | (with_reducible exact Frame.refl _ _)
      | (apply Frame.andThen; rotate_left; (with_reducible apply sendPlain_frame); rfl) | (split) | (dsimp only)

theorem portUp_frame (p : Nat) (s : State) : Frame 0x22000 s (portUp p s) := by
  unfold portUp
  try dsimp only
  repeat' first
      | (with_reducible assumption) | (with_reducible exact Frame.refl _ _)
      | (apply Frame.andThen; rotate_left; (with_reducible apply updPort_frame); rfl)
      | (apply Frame.andThen; rotate_left; (with_reducible apply originate_frame); rfl) | (split) | (dsimp only)

theorem execFlitHello_frame (port : Nat) (flit : Bytes) (s : State) : FrameOut 0x26000 s (execFlitHello port flit s) := by
  unfold execFlitHello
  try dsimp only
  repeat' first
      | (with_reducible refine FrameOut.go ?_) | (with_reducible assumption) | (with_reducible exact Frame.refl _ _)
      | (apply Frame.andThen; rotate_left; (with_reducible apply portUp_frame); rfl)
      | (apply Frame.andThen; rotate_left; (with_reducible apply idConflict_frame); rfl)
      | (apply Frame.andThen; rotate_left; (with_reducible apply updPort_frame); rfl)
      | (apply Frame.andThen; rotate_left; (with_reducible apply pump_frame); rfl)
      | (apply Frame.andThen; rotate_left; (with_reducible apply takeLink_frame); rfl) | (split) | (dsimp only)

theorem execSfSignalDetect_frame (port : Nat) (lanes : Nat) (s : State) : FrameOut 0x2000 s (execSfSignalDetect port lanes s) := by
  unfold execSfSignalDetect
  try dsimp only
  repeat' first
      | (with_reducible refine FrameOut.go ?_) | (with_reducible assumption) | (with_reducible exact Frame.refl _ _)
      | (apply Frame.andThen; rotate_left; (with_reducible apply updPort_frame); rfl) | (split) | (dsimp only)

theorem execSfLaneTrained_frame (port : Nat) (lane : Nat) (s : State) : FrameOut 0x22000 s (execSfLaneTrained port lane s) := by
  unfold execSfLaneTrained
  try dsimp only
  repeat' first
      | (with_reducible refine FrameOut.go ?_) | (with_reducible assumption) | (with_reducible exact Frame.refl _ _)
      | (apply Frame.andThen; rotate_left; (with_reducible apply updPort_frame); rfl)
      | (apply Frame.andThen; rotate_left; (with_reducible apply originate_frame); rfl) | (split) | (dsimp only)

theorem execSfTrainingTimeout_frame (port : Nat) (s : State) : FrameOut 0x2000 s (execSfTrainingTimeout port s) := by
  unfold execSfTrainingTimeout
  try dsimp only
  repeat' first
      | (with_reducible refine FrameOut.go ?_) | (with_reducible assumption) | (with_reducible exact Frame.refl _ _)
      | (apply Frame.andThen; rotate_left; (with_reducible apply updPort_frame); rfl) | (split) | (dsimp only)

theorem execHelloLossTimeout_frame (port : Nat) (s : State) : FrameOut 0x22000 s (execHelloLossTimeout port s) := by
  unfold execHelloLossTimeout
  try dsimp only
  repeat' first
      | (with_reducible refine FrameOut.go ?_) | (with_reducible assumption) | (with_reducible exact Frame.refl _ _)
      | (apply Frame.andThen; rotate_left; (with_reducible apply portDown_frame); rfl) | (split) | (dsimp only)

theorem removeLane_frame (p : Nat) (lane : Nat) (s : State) : Frame 0x22000 s (removeLane p lane s) := by
  unfold removeLane
  try dsimp only
  repeat' first
      | (with_reducible assumption) | (with_reducible exact Frame.refl _ _)
      | (apply Frame.andThen; rotate_left; (with_reducible apply replayPort_frame); rfl)
      | (apply Frame.andThen; rotate_left; (with_reducible apply portDown_frame); rfl)
      | (apply Frame.andThen; rotate_left; (with_reducible apply updPort_frame); rfl)
      | (apply Frame.andThen; rotate_left; (with_reducible apply inc_frame); rfl)
      | (apply Frame.andThen; rotate_left; (with_reducible apply originate_frame); rfl) | (split) | (dsimp only)

theorem execSfLaneLoss_frame (port : Nat) (lane : Nat) (s : State) : FrameOut 0x22000 s (execSfLaneLoss port lane s) := by
  unfold execSfLaneLoss
  try dsimp only
  repeat' first
      | (with_reducible refine FrameOut.go ?_) | (with_reducible assumption) | (with_reducible exact Frame.refl _ _)
      | (apply Frame.andThen; rotate_left; (with_reducible apply removeLane_frame); rfl) | (split) | (dsimp only)

theorem execFecUncorrLimit_frame (port : Nat) (lane : Nat) (s : State) : FrameOut 0x222000 s (execFecUncorrLimit port lane s) := by
  unfold execFecUncorrLimit
  try dsimp only
  repeat' first
      | (with_reducible refine FrameOut.go ?_) | (with_reducible assumption) | (with_reducible exact Frame.refl _ _)
      | (apply Frame.andThen; rotate_left; (with_reducible apply addCtr_frame); rfl)
      | (apply Frame.andThen; rotate_left; (with_reducible apply drawNext_frame); rfl)
      | (apply Frame.andThen; rotate_left; (with_reducible apply removeLane_frame); rfl) | (split) | (dsimp only)

theorem execLaneRejoin_frame (port : Nat) (lane : Nat) (s : State) : FrameOut 0x22000 s (execLaneRejoin port lane s) := by
  unfold execLaneRejoin
  try dsimp only
  repeat' first
      | (with_reducible refine FrameOut.go ?_) | (with_reducible assumption) | (with_reducible exact Frame.refl _ _)
      | (apply Frame.andThen; rotate_left; (with_reducible apply updPort_frame); rfl)
      | (apply Frame.andThen; rotate_left; (with_reducible apply originate_frame); rfl) | (split) | (dsimp only)

theorem execLaneRetrainRetry_frame (_port : Nat) (_lane : Nat) (s : State) : FrameOut 0x0 s (execLaneRetrainRetry _port _lane s) := by
  unfold execLaneRetrainRetry
  try dsimp only
  repeat' first
      | (with_reducible refine FrameOut.go ?_) | (with_reducible assumption) | (with_reducible exact Frame.refl _ _) | (split)
      | (dsimp only)

theorem execReplayTimeout_frame (port : Nat) (s : State) : FrameOut 0x22000 s (execReplayTimeout port s) := by
  unfold execReplayTimeout
  try dsimp only
  repeat' first
      | (with_reducible refine FrameOut.go ?_) | (with_reducible assumption) | (with_reducible exact Frame.refl _ _)
      | (apply Frame.andThen; rotate_left; (with_reducible apply replayPort_frame); rfl) | (split) | (dsimp only)

theorem execReplayLimit_frame (port : Nat) (s : State) : FrameOut 0x26000 s (execReplayLimit port s) := by
  unfold execReplayLimit
  try dsimp only
  repeat' first
      | (with_reducible refine FrameOut.go ?_) | (with_reducible assumption) | (with_reducible exact Frame.refl _ _)
      | (apply Frame.andThen; rotate_left; (with_reducible apply postEvent_frame); rfl)
      | (apply Frame.andThen; rotate_left; (with_reducible apply portDown_frame); rfl) | (split) | (dsimp only)

theorem execTransitWaitExpiry_frame (port : Nat) (vc : Nat) (s : State) : FrameOut 0x22000 s (execTransitWaitExpiry port vc s) := by
  unfold execTransitWaitExpiry
  try dsimp only
  repeat' first
      | (with_reducible refine FrameOut.go ?_) | (with_reducible assumption) | (with_reducible exact Frame.refl _ _)
      | (apply Frame.andThen; rotate_left; (with_reducible apply addCtr_frame); rfl)
      | (apply Frame.andThen; rotate_left; (with_reducible apply updPort_frame); rfl)
      | (apply Frame.andThen; rotate_left; (with_reducible apply owe_frame); rfl) | ((with_reducible apply Frame.getD) <;> intros)
      | (with_reducible refine Frame.each _ ?_ (fun _ _ => ?_)) | (split) | (dsimp only)

theorem execLsaRefreshTimer_frame (s : State) : FrameOut 0x22000 s (execLsaRefreshTimer s) := by
  unfold execLsaRefreshTimer
  try dsimp only
  repeat' first
      | (with_reducible refine FrameOut.go ?_) | (with_reducible assumption) | (with_reducible exact Frame.refl _ _)
      | (apply Frame.andThen; rotate_left; (with_reducible apply originate_frame); rfl) | (split) | (dsimp only)

theorem execLsaAgeOut_frame (origin : Nat) (s : State) : FrameOut 0x2000 s (execLsaAgeOut origin s) := by
  unfold execLsaAgeOut
  try dsimp only
  repeat' first
      | (with_reducible refine FrameOut.go ?_) | (with_reducible assumption) | (with_reducible exact Frame.refl _ _)
      | (apply Frame.andThen; rotate_left; (with_reducible apply updFab_frame); rfl)
      | (with_reducible refine Frame.each _ ?_ (fun _ _ => ?_)) | (split) | (dsimp only)

theorem execRouteInstall_frame (s : State) : FrameOut 0x2e000 s (execRouteInstall s) := by
  unfold execRouteInstall
  try dsimp only
  repeat' first
      | (with_reducible refine FrameOut.go ?_) | (with_reducible assumption) | (with_reducible exact Frame.refl _ _)
      | (apply Frame.andThen; rotate_left; (with_reducible apply updFab_frame); rfl)
      | (apply Frame.andThen; rotate_left; (with_reducible apply inc_frame); rfl)
      | (apply Frame.andThen; rotate_left; (with_reducible apply post_frame); rfl) | (with_reducible refine Frame.each _ ?_ (fun _ _ => ?_))
      | (split) | (dsimp only)

theorem routeSel_frame (value : Nat) (s : State) : Frame 0x2000 s (routeSel value s) := by
  unfold routeSel
  try dsimp only
  repeat' first
      | (with_reducible assumption) | (with_reducible exact Frame.refl _ _)
      | (apply Frame.andThen; rotate_left; (with_reducible apply updFab_frame); rfl) | (split) | (dsimp only)

theorem execFabRouteSel_frame (value : Nat) (s : State) : FrameOut 0x2000 s (execFabRouteSel value s) := by
  unfold execFabRouteSel
  try dsimp only
  repeat' first
      | (with_reducible refine FrameOut.go ?_) | (with_reducible assumption) | (with_reducible exact Frame.refl _ _)
      | (apply Frame.andThen; rotate_left; (with_reducible apply routeSel_frame); rfl) | (split) | (dsimp only)

theorem fabCommit_frame (oldNode : Nat) (s : State) : Frame 0x26010 s (fabCommit oldNode s) := by
  unfold fabCommit
  try dsimp only
  repeat' first
      | (with_reducible assumption) | (with_reducible exact Frame.refl _ _)
      | (apply Frame.andThen; rotate_left; (with_reducible apply updFab_frame); rfl)
      | (apply Frame.andThen; rotate_left; (with_reducible apply giveBack_frame); rfl)
      | (apply Frame.andThen; rotate_left; (with_reducible apply portDown_frame); rfl)
      | (with_reducible refine Frame.each _ ?_ (fun _ _ => ?_)) | (split) | (dsimp only)

theorem updShd_frame (f : Shd → Shd) (s : State) : Frame 0x800 s (updShd f s) := by
  unfold updShd
  try dsimp only
  repeat' first
      | (with_reducible assumption) | (with_reducible exact Frame.refl _ _) | (split) | (dsimp only)
      | ((with_reducible apply Frame.set_shd); rotate_left; rfl)

theorem setBlk_frame (b : Nat) (x : Blk) (s : State) : Frame 0x800 s (setBlk b x s) := by
  unfold setBlk
  try dsimp only
  repeat' first
      | (with_reducible assumption) | (with_reducible exact Frame.refl _ _)
      | (apply Frame.andThen; rotate_left; (with_reducible apply updShd_frame); rfl) | (split) | (dsimp only)

theorem startCheckpoint_frame (s : State) : Frame 0x800 s (startCheckpoint s) := by
  unfold startCheckpoint
  try dsimp only
  repeat' first
      | (with_reducible assumption) | (with_reducible exact Frame.refl _ _)
      | (apply Frame.andThen; rotate_left; (with_reducible apply updShd_frame); rfl) | ((with_reducible apply Frame.getD) <;> intros)
      | (with_reducible refine Frame.foldl_snd _ ?_ (fun _ _ => ?_)) | (with_reducible refine Frame.foldl _ ?_ (fun _ _ => ?_)) | (split)
      | (dsimp only)

theorem touchPage_frame (logical : Nat) (write : Bool) (s : State) : Frame 0x20800 s (touchPage logical write s) := by
  unfold touchPage
  try dsimp only
  repeat' first
      | (with_reducible assumption) | (with_reducible exact Frame.refl _ _)
      | (apply Frame.andThen; rotate_left; (with_reducible apply updShd_frame); rfl)
      | (apply Frame.andThen; rotate_left; (with_reducible apply startCheckpoint_frame); rfl)
      | (apply Frame.andThen; rotate_left; (with_reducible apply inc_frame); rfl) | (split) | (dsimp only)

theorem settleBlocks_frame (s : State) : Frame 0x800 s (settleBlocks s) := by
  unfold settleBlocks
  try dsimp only
  repeat' first
      | (with_reducible assumption) | (with_reducible exact Frame.refl _ _)
      | (apply Frame.andThen; rotate_left; (with_reducible apply setBlk_frame); rfl)
      | (with_reducible refine Frame.each _ ?_ (fun _ _ => ?_)) | (split) | (dsimp only)

theorem invalidate_frame (u : Nat) (seq : Option Nat) (s : State) : Frame 0x800 s (invalidate u seq s) := by
  unfold invalidate
  try dsimp only
  repeat' first
      | (with_reducible assumption) | (with_reducible exact Frame.refl _ _)
      | (apply Frame.andThen; rotate_left; (with_reducible apply setBlk_frame); rfl) | (split) | (dsimp only)

theorem mapUnit_frame (logical : Nat) (u : Nat) (seq : Option Nat) (s : State) : Frame 0x20800 s (mapUnit logical u seq s) := by
  unfold mapUnit
  try dsimp only
  repeat' first
      | (with_reducible assumption) | (with_reducible exact Frame.refl _ _)
      | (apply Frame.andThen; rotate_left; (with_reducible apply updShd_frame); rfl)
      | (apply Frame.andThen; rotate_left; (with_reducible apply touchPage_frame); rfl)
      | (apply Frame.andThen; rotate_left; (with_reducible apply invalidate_frame); rfl) | (split) | (dsimp only)

theorem unmapRange_frame (first : Nat) (n : Nat) (s : State) : Frame 0x20800 s (unmapRange first n s) := by
  unfold unmapRange
  try dsimp only
  repeat' first
      | (with_reducible assumption) | (with_reducible exact Frame.refl _ _)
      | (apply Frame.andThen; rotate_left; (with_reducible apply updShd_frame); rfl)
      | (apply Frame.andThen; rotate_left; (with_reducible apply touchPage_frame); rfl)
      | (apply Frame.andThen; rotate_left; (with_reducible apply invalidate_frame); rfl)
      | (with_reducible refine Frame.each _ ?_ (fun _ _ => ?_)) | (split) | (dsimp only)

theorem journalRec_frame (r : JRec) (s : State) : Frame 0x800 s (journalRec r s) := by
  unfold journalRec
  try dsimp only
  repeat' first
      | (with_reducible assumption) | (with_reducible exact Frame.refl _ _)
      | (apply Frame.andThen; rotate_left; (with_reducible apply updShd_frame); rfl) | (split) | (dsimp only)

theorem programJournal_frame (s : State) : Frame 0x800 s (programJournal s) := by
  unfold programJournal
  try dsimp only
  repeat' first
      | (with_reducible assumption) | (with_reducible exact Frame.refl _ _)
      | (apply Frame.andThen; rotate_left; (with_reducible apply updShd_frame); rfl) | (split) | (dsimp only)

theorem takeBlock_frame (stream : Nat) (die : Nat) (s : State) : Frame 0x800 s (takeBlock stream die s) := by
  unfold takeBlock
  try dsimp only
  repeat' first
      | (with_reducible assumption) | (with_reducible exact Frame.refl _ _)
      | (apply Frame.andThen; rotate_left; (with_reducible apply setBlk_frame); rfl)
      | (with_reducible refine Frame.each _ ?_ (fun _ _ => ?_)) | (split) | (dsimp only)

theorem wantBlocks_frame (stream : Nat) (group : Nat) (s : State) : Frame 0x800 s (wantBlocks stream group s) := by
  unfold wantBlocks
  try dsimp only
  repeat' first
      | (with_reducible assumption) | (with_reducible exact Frame.refl _ _)
      | (apply Frame.andThen; rotate_left; (with_reducible apply takeBlock_frame); rfl)
      | (with_reducible refine Frame.foldl_snd _ ?_ (fun _ _ => ?_)) | (with_reducible refine Frame.foldl _ ?_ (fun _ _ => ?_)) | (split)
      | (dsimp only)

theorem openStripe_frame (stream : Nat) (group : Nat) (s : State) : Frame 0x800 s (openStripe stream group s).2 := by
  unfold openStripe
  try dsimp only
  repeat' first
      | (with_reducible assumption) | (with_reducible exact Frame.refl _ _)
      | (apply Frame.andThen; rotate_left; (with_reducible apply updShd_frame); rfl)
      | (apply Frame.andThen; rotate_left; (with_reducible apply wantBlocks_frame); rfl) | (split) | (dsimp only)

theorem openStripe_frame_eq (stream : Nat) (group : Nat) (s : State) {a_ : Option Stripe} {s' : State} (h : openStripe stream group s =
    (a_, s'))
    : Frame 0x800 s s' := by
  have k := openStripe_frame stream group s
  rwa [h] at k

theorem rowFor_frame (stream : Nat) (s : State) : Frame 0x800 s (rowFor stream s).2 := by
  unfold rowFor
  try dsimp only
  repeat' first
      | (with_reducible assumption) | (with_reducible exact Frame.refl _ _)
      | (apply Frame.andThen; rotate_left; (with_reducible apply updShd_frame); rfl)
      | (apply Frame.andThen; rotate_left; (with_reducible apply openStripe_frame); rfl)
      | (apply Frame.andThen; rotate_left; (with_reducible apply openStripe_frame_eq) <;> assumption; rfl) | (split) | (dsimp only)

theorem rowFor_frame_eq (stream : Nat) (s : State) {a_ : Option OpenRow} {s' : State} (h : rowFor stream s = (a_, s'))
    : Frame 0x800 s s' := by
  have k := rowFor_frame stream s
  rwa [h] at k

theorem updRow_frame (r : OpenRow) (f : OpenRow → OpenRow) (s : State) : Frame 0x800 s (updRow r f s) := by
  unfold updRow
  try dsimp only
  repeat' first
      | (with_reducible assumption) | (with_reducible exact Frame.refl _ _)
      | (apply Frame.andThen; rotate_left; (with_reducible apply updShd_frame); rfl) | (split) | (dsimp only)

theorem issueOn_frame (r : OpenRow) (i : Nat) (role : Nat) (logical : Nat) (region : Bytes) (data : Bytes) (owed : Owed) (s : State)
    : Frame 0x800 s (issueOn r i role logical region data owed s) := by
  unfold issueOn
  try dsimp only
  repeat' first
      | (with_reducible assumption) | (with_reducible exact Frame.refl _ _)
      | (apply Frame.andThen; rotate_left; (with_reducible apply updShd_frame); rfl)
      | (apply Frame.andThen; rotate_left; (with_reducible apply updRow_frame); rfl) | ((with_reducible apply Frame.getD) <;> intros)
      | (split) | (dsimp only)

theorem closeRow_frame (stream : Nat) (group : Nat) (s : State) : Frame 0x800 s (closeRow stream group s) := by
  unfold closeRow
  try dsimp only
  repeat' first
      | (with_reducible assumption) | (with_reducible exact Frame.refl _ _)
      | (apply Frame.andThen; rotate_left; (with_reducible apply updShd_frame); rfl)
      | (apply Frame.andThen; rotate_left; (with_reducible apply issueOn_frame); rfl)
      | (apply Frame.andThen; rotate_left; (with_reducible apply updRow_frame); rfl) | (split) | (dsimp only)

theorem issueUnit_frame (q : QUnit) (s : State) : Frame 0x800 s (issueUnit q s).2 := by
  unfold issueUnit
  try dsimp only
  repeat' first
      | (with_reducible assumption) | (with_reducible exact Frame.refl _ _)
      | (apply Frame.andThen; rotate_left; (with_reducible apply issueOn_frame); rfl)
      | (apply Frame.andThen; rotate_left; (with_reducible apply rowFor_frame); rfl)
      | (apply Frame.andThen; rotate_left; (with_reducible apply rowFor_frame_eq) <;> assumption; rfl)
      | (apply Frame.andThen; rotate_left; (with_reducible apply closeRow_frame); rfl) | ((with_reducible apply Frame.getD) <;> intros)
      | (split) | (dsimp only)

theorem issueUnit_frame_eq (q : QUnit) (s : State) {a_ : Bool} {s' : State} (h : issueUnit q s = (a_, s')) : Frame 0x800 s s' := by
  have k := issueUnit_frame q s
  rwa [h] at k

theorem pumpUnit_frame (q : QUnit) (s : State) : Frame 0x800 s (pumpUnit q s) := by
  unfold pumpUnit
  try dsimp only
  repeat' first
      | (with_reducible assumption) | (with_reducible exact Frame.refl _ _)
      | (apply Frame.andThen; rotate_left; (with_reducible apply issueUnit_frame); rfl)
      | (apply Frame.andThen; rotate_left; (with_reducible apply issueUnit_frame_eq) <;> assumption; rfl)
      | (apply Frame.andThen; rotate_left; (with_reducible apply updShd_frame); rfl) | (split) | (dsimp only)

theorem pumpAll_frame (s : State) : Frame 0x800 s (pumpAll s) := by
  unfold pumpAll
  try dsimp only
  repeat' first
      | (with_reducible assumption) | (with_reducible exact Frame.refl _ _)
      | (apply Frame.andThen; rotate_left; (with_reducible apply pumpUnit_frame); rfl)
      | (with_reducible refine Frame.each _ ?_ (fun _ _ => ?_)) | (split) | (dsimp only)

theorem queueUnit_frame (q : QUnit) (s : State) : Frame 0x800 s (queueUnit q s) := by
  unfold queueUnit
  try dsimp only
  repeat' first
      | (with_reducible assumption) | (with_reducible exact Frame.refl _ _)
      | (apply Frame.andThen; rotate_left; (with_reducible apply updShd_frame); rfl) | (split) | (dsimp only)

theorem padRow_frame (stream : Nat) (group : Nat) (s : State) : Frame 0x20800 s (padRow stream group s) := by
  unfold padRow
  try dsimp only
  repeat' first
      | (with_reducible assumption) | (with_reducible exact Frame.refl _ _)
      | (apply Frame.andThen; rotate_left; (with_reducible apply issueOn_frame); rfl)
      | (apply Frame.andThen; rotate_left; (with_reducible apply inc_frame); rfl)
      | (apply Frame.andThen; rotate_left; (with_reducible apply closeRow_frame); rfl)
      | (with_reducible refine Frame.each _ ?_ (fun _ _ => ?_)) | (split) | (dsimp only)

theorem storeUnits_frame (x0 : Nat) (x1 : Nat) (x2 : Bytes) (x3 : State) : Frame 0x800 x3 (storeUnits x0 x1 x2 x3) := by
  fun_induction storeUnits x0 x1 x2 x3 <;> try dsimp +zetaDelta only
  all_goals
  repeat' first
      | (with_reducible assumption) | (with_reducible exact Frame.refl _ _)
      | (apply Frame.andThen; rotate_left; (with_reducible apply queueUnit_frame); rfl)
      | (apply Frame.andThen; rotate_left; assumption; rfl) | (split) | (dsimp only)

theorem setSpill_frame (r : Nat) (x : Spill) (s : State) : Frame 0x800 s (setSpill r x s) := by
  unfold setSpill
  try dsimp only
  repeat' first
      | (with_reducible assumption) | (with_reducible exact Frame.refl _ _)
      | (apply Frame.andThen; rotate_left; (with_reducible apply updShd_frame); rfl) | (split) | (dsimp only)

theorem assignRing_frame (p : Nat) (s : State) : Frame 0x800 s (assignRing p s) := by
  unfold assignRing
  try dsimp only
  repeat' first
      | (with_reducible assumption) | (with_reducible exact Frame.refl _ _)
      | (apply Frame.andThen; rotate_left; (with_reducible apply setSpill_frame); rfl)
      | (apply Frame.andThen; rotate_left; (with_reducible apply journalRec_frame); rfl) | (split) | (dsimp only)

theorem freeEmptyRing_frame (r : Nat) (s : State) : Frame 0x800 s (freeEmptyRing r s) := by
  unfold freeEmptyRing
  try dsimp only
  repeat' first
      | (with_reducible assumption) | (with_reducible exact Frame.refl _ _)
      | (apply Frame.andThen; rotate_left; (with_reducible apply setSpill_frame); rfl)
      | (apply Frame.andThen; rotate_left; (with_reducible apply journalRec_frame); rfl) | (split) | (dsimp only)

theorem spillAppend_frame (x0 : Nat) (x1 : Nat) (x2 : Bytes) (x3 : State) : Frame 0x800 x3 (spillAppend x0 x1 x2 x3) := by
  fun_induction spillAppend x0 x1 x2 x3 <;> try dsimp +zetaDelta only
  all_goals
  repeat' first
      | (with_reducible assumption) | (with_reducible exact Frame.refl _ _)
      | (apply Frame.andThen; rotate_left; (with_reducible apply setSpill_frame); rfl)
      | (apply Frame.andThen; rotate_left; (with_reducible apply queueUnit_frame); rfl)
      | (apply Frame.andThen; rotate_left; assumption; rfl) | (split) | (dsimp only)

theorem forceUnit_frame (r : Nat) (s : State) : Frame 0x800 s (forceUnit r s) := by
  unfold forceUnit
  try dsimp only
  repeat' first
      | (with_reducible assumption) | (with_reducible exact Frame.refl _ _)
      | (apply Frame.andThen; rotate_left; (with_reducible apply setSpill_frame); rfl)
      | (apply Frame.andThen; rotate_left; (with_reducible apply queueUnit_frame); rfl) | (split) | (dsimp only)

theorem copyPacket_frame (p : Nat) (s : State)  {s' : State} (h : copyPacket p s = some s') : Frame 0x802 s s' := by
  unfold copyPacket at h
  try dsimp only at h
  repeat' split at h
  all_goals try cases h
  all_goals
  repeat' first
      | (with_reducible assumption) | (with_reducible exact Frame.refl _ _)
      | (apply Frame.andThen; rotate_left; (with_reducible apply setSpill_frame); rfl)
      | (apply Frame.andThen; rotate_left; (with_reducible apply updShd_frame); rfl)
      | (apply Frame.andThen; rotate_left; (with_reducible apply updWrite_frame); rfl)
      | (apply Frame.andThen; rotate_left; (with_reducible apply spillAppend_frame); rfl) | (split) | (dsimp only)

theorem padStream_frame (stream : Nat) (s : State) : Frame 0x20800 s (padStream stream s) := by
  unfold padStream
  try dsimp only
  repeat' first
      | (with_reducible assumption) | (with_reducible exact Frame.refl _ _)
      | (apply Frame.andThen; rotate_left; (with_reducible apply forceUnit_frame); rfl)
      | (apply Frame.andThen; rotate_left; (with_reducible apply padRow_frame); rfl)
      | (apply Frame.andThen; rotate_left; (with_reducible apply pumpAll_frame); rfl)
      | (with_reducible refine Frame.foldl_snd _ ?_ (fun _ _ => ?_)) | (with_reducible refine Frame.foldl _ ?_ (fun _ _ => ?_)) | (split)
      | (dsimp only)

theorem execShedPacketCopy_frame (part : Nat) (s : State) : FrameOut 0x20802 s (execShedPacketCopy part s) := by
  unfold execShedPacketCopy
  try dsimp only
  repeat' first
      | (with_reducible refine FrameOut.go ?_) | (with_reducible assumption) | (with_reducible exact Frame.refl _ _)
      | (apply Frame.andThen; rotate_left; (with_reducible apply copyPacket_frame) <;> assumption; rfl)
      | (apply Frame.andThen; rotate_left; (with_reducible apply padStream_frame); rfl)
      | (apply Frame.andThen; rotate_left; (with_reducible apply pumpAll_frame); rfl) | (split) | (dsimp only)

theorem journalShelters_frame (x0 : Nat) (x1 : Nat) (x2 : State) : Frame 0x800 x2 (journalShelters x0 x1 x2) := by
  fun_induction journalShelters x0 x1 x2 <;> try dsimp +zetaDelta only
  all_goals
  repeat' first
      | (with_reducible assumption) | (with_reducible exact Frame.refl _ _)
      | (apply Frame.andThen; rotate_left; (with_reducible apply updShd_frame); rfl)
      | (apply Frame.andThen; rotate_left; (with_reducible apply journalRec_frame); rfl) | ((with_reducible apply Frame.getD) <;> intros)
      | (with_reducible refine Frame.foldl_snd _ ?_ (fun _ _ => ?_)) | (with_reducible refine Frame.foldl _ ?_ (fun _ _ => ?_))
      | (apply Frame.andThen; rotate_left; assumption; rfl) | (split) | (dsimp only)

theorem gcMove_frame (logical : Nat) (src : Nat) (u : Nat) (s : State) : Frame 0x20800 s (gcMove logical src u s) := by
  unfold gcMove
  try dsimp only
  repeat' first
      | (with_reducible assumption) | (with_reducible exact Frame.refl _ _)
      | (apply Frame.andThen; rotate_left; (with_reducible apply mapUnit_frame); rfl)
      | (apply Frame.andThen; rotate_left; (with_reducible apply journalRec_frame); rfl) | (split) | (dsimp only)

theorem landingDone_frame (seq : Nat) (s : State) : Frame 0x20042 s (landingDone seq s) := by
  unfold landingDone
  try dsimp only
  repeat' first
      | (with_reducible assumption) | (with_reducible exact Frame.refl _ _)
      | (apply Frame.andThen; rotate_left; (with_reducible apply unpinKey_frame); rfl)
      | (apply Frame.andThen; rotate_left; (with_reducible apply complete_frame); rfl) | (split) | (dsimp only)

theorem protectRow_frame (r : OpenRow) (s : State) : Frame 0x20842 s (protectRow r s) := by
  unfold protectRow
  try dsimp only
  repeat' first
      | (with_reducible assumption) | (with_reducible exact Frame.refl _ _)
      | (apply Frame.andThen; rotate_left; (with_reducible apply updShd_frame); rfl)
      | (apply Frame.andThen; rotate_left; (with_reducible apply journalShelters_frame); rfl)
      | (apply Frame.andThen; rotate_left; (with_reducible apply landingDone_frame); rfl)
      | (apply Frame.andThen; rotate_left; (with_reducible apply journalRec_frame); rfl)
      | (apply Frame.andThen; rotate_left; (with_reducible apply gcMove_frame); rfl) | ((with_reducible apply Frame.getD) <;> intros)
      | (with_reducible refine Frame.each _ ?_ (fun _ _ => ?_)) | (with_reducible refine Frame.foldl_snd _ ?_ (fun _ _ => ?_))
      | (with_reducible refine Frame.foldl _ ?_ (fun _ _ => ?_)) | (split) | (dsimp only)

theorem unitProgrammed_frame (u : Nat) (s : State) : Frame 0x20842 s (unitProgrammed u s) := by
  unfold unitProgrammed
  try dsimp only
  repeat' first
      | (with_reducible assumption) | (with_reducible exact Frame.refl _ _)
      | (apply Frame.andThen; rotate_left; (with_reducible apply settleBlocks_frame); rfl)
      | (apply Frame.andThen; rotate_left; (with_reducible apply mapUnit_frame); rfl)
      | (apply Frame.andThen; rotate_left; (with_reducible apply updShd_frame); rfl)
      | (apply Frame.andThen; rotate_left; (with_reducible apply protectRow_frame); rfl)
      | (apply Frame.andThen; rotate_left; (with_reducible apply setBlk_frame); rfl)
      | (apply Frame.andThen; rotate_left; (with_reducible apply updRow_frame); rfl) | (split) | (dsimp only)

theorem execUnitProgramDone_frame (u : Nat) (s : State) : FrameOut 0x20842 s (execUnitProgramDone u s) := by
  unfold execUnitProgramDone
  try dsimp only
  repeat' first
      | (with_reducible refine FrameOut.go ?_) | (with_reducible assumption) | (with_reducible exact Frame.refl _ _)
      | (apply Frame.andThen; rotate_left; (with_reducible apply unitProgrammed_frame); rfl) | (split) | (dsimp only)

theorem execRowHoldExpiry_frame (stream : Nat) (group : Nat) (s : State) : FrameOut 0x20800 s (execRowHoldExpiry stream group s) := by
  unfold execRowHoldExpiry
  try dsimp only
  repeat' first
      | (with_reducible refine FrameOut.go ?_) | (with_reducible assumption) | (with_reducible exact Frame.refl _ _)
      | (apply Frame.andThen; rotate_left; (with_reducible apply forceUnit_frame); rfl)
      | (apply Frame.andThen; rotate_left; (with_reducible apply padRow_frame); rfl)
      | (apply Frame.andThen; rotate_left; (with_reducible apply pumpAll_frame); rfl)
      | (with_reducible refine Frame.foldl_snd _ ?_ (fun _ _ => ?_)) | (with_reducible refine Frame.foldl _ ?_ (fun _ _ => ?_)) | (split)
      | (dsimp only)

theorem execJournalRecordsPending_frame (s : State) : FrameOut 0x800 s (execJournalRecordsPending s) := by
  unfold execJournalRecordsPending
  try dsimp only
  repeat' first
      | (with_reducible refine FrameOut.go ?_) | (with_reducible assumption) | (with_reducible exact Frame.refl _ _)
      | (apply Frame.andThen; rotate_left; (with_reducible apply programJournal_frame); rfl) | (split) | (dsimp only)

theorem execJournalFlushExpiry_frame (s : State) : FrameOut 0x800 s (execJournalFlushExpiry s) := by
  unfold execJournalFlushExpiry
  try dsimp only
  repeat' first
      | (with_reducible refine FrameOut.go ?_) | (with_reducible assumption) | (with_reducible exact Frame.refl _ _)
      | (apply Frame.andThen; rotate_left; (with_reducible apply programJournal_frame); rfl) | (split) | (dsimp only)

theorem recDurable_frame (r : JRec) (s : State) : Frame 0x906 s (recDurable r s) := by
  unfold recDurable
  try dsimp only
  repeat' first
      | (with_reducible assumption) | (with_reducible exact Frame.refl _ _)
      | (apply Frame.andThen; rotate_left; (with_reducible apply refreshMarks_frame); rfl)
      | (apply Frame.andThen; rotate_left; (with_reducible apply updShd_frame); rfl)
      | (apply Frame.andThen; rotate_left; (with_reducible apply setBlk_frame); rfl)
      | (apply Frame.andThen; rotate_left; (with_reducible apply updWrite_frame); rfl) | (split) | (dsimp only)
      | ((with_reducible apply Frame.set_rch); rotate_left; rfl)

theorem journalDurable_frame (s : State) : Frame 0x906 s (journalDurable s) := by
  unfold journalDurable
  try dsimp only
  repeat' first
      | (with_reducible assumption) | (with_reducible exact Frame.refl _ _)
      | (apply Frame.andThen; rotate_left; (with_reducible apply updShd_frame); rfl)
      | (apply Frame.andThen; rotate_left; (with_reducible apply recDurable_frame); rfl)
      | (apply Frame.andThen; rotate_left; (with_reducible apply pumpAll_frame); rfl)
      | (with_reducible refine Frame.each _ ?_ (fun _ _ => ?_)) | (split) | (dsimp only)

theorem execJournalUnitDurable_frame (s : State) : FrameOut 0x906 s (execJournalUnitDurable s) := by
  unfold execJournalUnitDurable
  try dsimp only
  repeat' first
      | (with_reducible refine FrameOut.go ?_) | (with_reducible assumption) | (with_reducible exact Frame.refl _ _)
      | (apply Frame.andThen; rotate_left; (with_reducible apply journalDurable_frame); rfl) | (split) | (dsimp only)

theorem blockErased_frame (b : Nat) (stream : Nat) (s : State) : Frame 0x800 s (blockErased b stream s) := by
  unfold blockErased
  try dsimp only
  repeat' first
      | (with_reducible assumption) | (with_reducible exact Frame.refl _ _)
      | (apply Frame.andThen; rotate_left; (with_reducible apply updShd_frame); rfl)
      | (apply Frame.andThen; rotate_left; (with_reducible apply journalRec_frame); rfl)
      | (apply Frame.andThen; rotate_left; (with_reducible apply setBlk_frame); rfl) | (split) | (dsimp only)

theorem execBlockErased_frame (block : Nat) (stream : Nat) (s : State) : FrameOut 0x800 s (execBlockErased block stream s) := by
  unfold execBlockErased
  try dsimp only
  repeat' first
      | (with_reducible refine FrameOut.go ?_) | (with_reducible assumption) | (with_reducible exact Frame.refl _ _)
      | (apply Frame.andThen; rotate_left; (with_reducible apply blockErased_frame); rfl) | (split) | (dsimp only)

theorem retireBlock_frame (b : Nat) (cause : Nat) (s : State) : Frame 0x800 s (retireBlock b cause s) := by
  unfold retireBlock
  try dsimp only
  repeat' first
      | (with_reducible assumption) | (with_reducible exact Frame.refl _ _)
      | (apply Frame.andThen; rotate_left; (with_reducible apply journalRec_frame); rfl)
      | (apply Frame.andThen; rotate_left; (with_reducible apply setBlk_frame); rfl) | (split) | (dsimp only)

theorem replaceBlock_frame (b : Nat) (row : Nat) (s : State) : Frame 0x800 s (replaceBlock b row s) := by
  unfold replaceBlock
  try dsimp only
  repeat' first
      | (with_reducible assumption) | (with_reducible exact Frame.refl _ _)
      | (apply Frame.andThen; rotate_left; (with_reducible apply updShd_frame); rfl)
      | (apply Frame.andThen; rotate_left; (with_reducible apply setBlk_frame); rfl)
      | (with_reducible refine Frame.each _ ?_ (fun _ _ => ?_)) | (split) | (dsimp only)

theorem execNandEraseFailure_frame (block : Nat) (s : State) : FrameOut 0x20800 s (execNandEraseFailure block s) := by
  unfold execNandEraseFailure
  try dsimp only
  repeat' first
      | (with_reducible refine FrameOut.go ?_) | (with_reducible assumption) | (with_reducible exact Frame.refl _ _)
      | (apply Frame.andThen; rotate_left; (with_reducible apply takeBlock_frame); rfl)
      | (apply Frame.andThen; rotate_left; (with_reducible apply retireBlock_frame); rfl)
      | (apply Frame.andThen; rotate_left; (with_reducible apply replaceBlock_frame); rfl)
      | (apply Frame.andThen; rotate_left; (with_reducible apply updShd_frame); rfl)
      | (apply Frame.andThen; rotate_left; (with_reducible apply inc_frame); rfl) | (split) | (dsimp only)

theorem freeNewest_freeUpTo_frame (target : Nat) (x1 : Nat) (x2 : Nat) (x3 : State)
    : Frame 0x24012 x3 (freeNewest.freeUpTo target x1 x2 x3) := by
  fun_induction freeNewest.freeUpTo target x1 x2 x3 <;> try dsimp +zetaDelta only
  all_goals
  repeat' first
      | (with_reducible assumption) | (with_reducible exact Frame.refl _ _)
      | (apply Frame.andThen; rotate_left; (with_reducible apply freePackets_frame); rfl)
      | (apply Frame.andThen; rotate_left; assumption; rfl) | (split) | (dsimp only)

theorem freeNewest_frame (target : Nat) (x1 : List Write) (x2 : State) : Frame 0x24012 x2 (freeNewest target x1 x2) := by
  fun_induction freeNewest target x1 x2 <;> try dsimp +zetaDelta only
  all_goals
  repeat' first
      | (with_reducible assumption) | (with_reducible exact Frame.refl _ _)
      | (apply Frame.andThen; rotate_left; (with_reducible apply freeNewest_freeUpTo_frame); rfl)
      | (apply Frame.andThen; rotate_left; assumption; rfl) | (split) | (dsimp only)

theorem execSpillLow_frame (s : State) : FrameOut 0x24012 s (execSpillLow s) := by
  unfold execSpillLow
  try dsimp only
  repeat' first
      | (with_reducible refine FrameOut.go ?_) | (with_reducible assumption) | (with_reducible exact Frame.refl _ _)
      | (apply Frame.andThen; rotate_left; (with_reducible apply freeNewest_frame); rfl) | (split) | (dsimp only)

theorem returnStalls_frame (n : Nat) (s : State) : Frame 0x24010 s (returnStalls n s).2 := by
  unfold returnStalls
  try dsimp only
  repeat' first
      | (with_reducible assumption) | (with_reducible exact Frame.refl _ _)
      | (apply Frame.andThen; rotate_left; (with_reducible apply acquireFrom_frame); rfl)
      | (apply Frame.andThen; rotate_left; (with_reducible apply acquireFrom_frame_eq) <;> assumption; rfl) | (split) | (dsimp only)

theorem returnStalls_frame_eq (n : Nat) (s : State) {a_ : Option (List Handle)} {s' : State} (h : returnStalls n s = (a_, s'))
    : Frame 0x24010 s s' := by
  have k := returnStalls_frame n s
  rwa [h] at k

theorem freeReturned_frame (s : State) : Frame 0x24810 s (freeReturned s) := by
  unfold freeReturned
  try dsimp only
  repeat' first
      | (with_reducible assumption) | (with_reducible exact Frame.refl _ _)
      | (apply Frame.andThen; rotate_left; (with_reducible apply giveBack_frame); rfl)
      | (apply Frame.andThen; rotate_left; (with_reducible apply updShd_frame); rfl)
      | (with_reducible refine Frame.each _ ?_ (fun _ _ => ?_)) | (split) | (dsimp only)

theorem returnBatch_frame (p : Nat) (x1 : Nat) (x2 : Nat) (x3 : List Write) (x4 : State)
    : Frame 0x24810 x4 (returnBatch p x1 x2 x3 x4).2 := by
  fun_induction returnBatch p x1 x2 x3 x4 <;> try dsimp +zetaDelta only
  all_goals
  repeat' first
      | (with_reducible assumption) | (with_reducible exact Frame.refl _ _)
      | (apply Frame.andThen; rotate_left; (with_reducible apply returnStalls_frame); rfl)
      | (apply Frame.andThen; rotate_left; (with_reducible apply returnStalls_frame_eq) <;> assumption; rfl)
      | (apply Frame.andThen; rotate_left; (with_reducible apply updShd_frame); rfl) | ((with_reducible apply Frame.getD) <;> intros)
      | (apply Frame.andThen; rotate_left; assumption; rfl) | (split) | (dsimp only)

theorem returnBatch_frame_eq (p : Nat) (x1 : Nat) (x2 : Nat) (x3 : List Write) (x4 : State) {a_ : Nat} {s' : State}
    (h : returnBatch p x1 x2 x3 x4 = (a_, s'))
    : Frame 0x24810 x4 s' := by
  have k := returnBatch_frame p x1 x2 x3 x4
  rwa [h] at k

theorem execShedReturnRead_frame (part : Nat) (s : State) : FrameOut 0x2c810 s (execShedReturnRead part s) := by
  unfold execShedReturnRead
  try dsimp only
  repeat' first
      | (with_reducible refine FrameOut.go ?_) | (with_reducible assumption) | (with_reducible exact Frame.refl _ _)
      | (apply Frame.andThen; rotate_left; (with_reducible apply returnBatch_frame); rfl)
      | (apply Frame.andThen; rotate_left; (with_reducible apply returnBatch_frame_eq) <;> assumption; rfl)
      | (apply Frame.andThen; rotate_left; (with_reducible apply post_frame); rfl) | (split) | (dsimp only)

theorem advanceTail_frame (r : Nat) (tail : Nat) (s : State) : Frame 0x20800 s (advanceTail r tail s) := by
  unfold advanceTail
  try dsimp only
  repeat' first
      | (with_reducible assumption) | (with_reducible exact Frame.refl _ _)
      | (apply Frame.andThen; rotate_left; (with_reducible apply settleBlocks_frame); rfl)
      | (apply Frame.andThen; rotate_left; (with_reducible apply unmapRange_frame); rfl)
      | (apply Frame.andThen; rotate_left; (with_reducible apply setSpill_frame); rfl)
      | (apply Frame.andThen; rotate_left; (with_reducible apply updShd_frame); rfl)
      | (apply Frame.andThen; rotate_left; (with_reducible apply journalRec_frame); rfl)
      | (with_reducible refine Frame.each _ ?_ (fun _ _ => ?_)) | (split) | (dsimp only)

theorem execSpillRelease_frame (seq : Nat) (s : State) : FrameOut 0x24812 s (execSpillRelease seq s) := by
  unfold execSpillRelease
  try dsimp only
  repeat' first
      | (with_reducible refine FrameOut.go ?_) | (with_reducible assumption) | (with_reducible exact Frame.refl _ _)
      | (apply Frame.andThen; rotate_left; (with_reducible apply updShd_frame); rfl)
      | (apply Frame.andThen; rotate_left; (with_reducible apply freeReturned_frame); rfl)
      | (apply Frame.andThen; rotate_left; (with_reducible apply advanceTail_frame); rfl)
      | (apply Frame.andThen; rotate_left; (with_reducible apply retire_frame); rfl) | (split) | (dsimp only)

theorem execCheckpointBytes_frame (s : State) : FrameOut 0x800 s (execCheckpointBytes s) := by
  unfold execCheckpointBytes
  try dsimp only
  repeat' first
      | (with_reducible refine FrameOut.go ?_) | (with_reducible assumption) | (with_reducible exact Frame.refl _ _)
      | (apply Frame.andThen; rotate_left; (with_reducible apply startCheckpoint_frame); rfl) | (split) | (dsimp only)

theorem execCheckpointInterval_frame (s : State) : FrameOut 0x800 s (execCheckpointInterval s) := by
  unfold execCheckpointInterval
  try dsimp only
  repeat' first
      | (with_reducible refine FrameOut.go ?_) | (with_reducible assumption) | (with_reducible exact Frame.refl _ _)
      | (apply Frame.andThen; rotate_left; (with_reducible apply startCheckpoint_frame); rfl) | (split) | (dsimp only)

theorem checkpointDurable_frame (s : State) : Frame 0x20800 s (checkpointDurable s) := by
  unfold checkpointDurable
  try dsimp only
  repeat' first
      | (with_reducible assumption) | (with_reducible exact Frame.refl _ _)
      | (apply Frame.andThen; rotate_left; (with_reducible apply addCtr_frame); rfl)
      | (apply Frame.andThen; rotate_left; (with_reducible apply updShd_frame); rfl)
      | (apply Frame.andThen; rotate_left; (with_reducible apply startCheckpoint_frame); rfl)
      | (apply Frame.andThen; rotate_left; (with_reducible apply inc_frame); rfl) | (split) | (dsimp only)

theorem execCheckpointDurable_frame (s : State) : FrameOut 0x20800 s (execCheckpointDurable s) := by
  unfold execCheckpointDurable
  try dsimp only
  repeat' first
      | (with_reducible refine FrameOut.go ?_) | (with_reducible assumption) | (with_reducible exact Frame.refl _ _)
      | (apply Frame.andThen; rotate_left; (with_reducible apply checkpointDurable_frame); rfl) | (split) | (dsimp only)

theorem chooseVictim_frame (die : Nat) (s : State) : Frame 0x800 s (chooseVictim die s) := by
  unfold chooseVictim
  try dsimp only
  repeat' first
      | (with_reducible assumption) | (with_reducible exact Frame.refl _ _)
      | (apply Frame.andThen; rotate_left; (with_reducible apply settleBlocks_frame); rfl)
      | (apply Frame.andThen; rotate_left; (with_reducible apply updShd_frame); rfl)
      | (apply Frame.andThen; rotate_left; (with_reducible apply setBlk_frame); rfl) | (split) | (dsimp only)

theorem execGcStart_frame (die : Nat) (s : State) : FrameOut 0x800 s (execGcStart die s) := by
  unfold execGcStart
  try dsimp only
  repeat' first
      | (with_reducible refine FrameOut.go ?_) | (with_reducible assumption) | (with_reducible exact Frame.refl _ _)
      | (apply Frame.andThen; rotate_left; (with_reducible apply chooseVictim_frame); rfl)
      | (apply Frame.andThen; rotate_left; (with_reducible apply updShd_frame); rfl) | (split) | (dsimp only)

theorem execGcStop_frame (die : Nat) (s : State) : FrameOut 0x800 s (execGcStop die s) := by
  unfold execGcStop
  try dsimp only
  repeat' first
      | (with_reducible refine FrameOut.go ?_) | (with_reducible assumption) | (with_reducible exact Frame.refl _ _)
      | (apply Frame.andThen; rotate_left; (with_reducible apply updShd_frame); rfl) | (split) | (dsimp only)

theorem execUnitReadDone_frame (u : Nat) (s : State) : FrameOut 0x800 s (execUnitReadDone u s) := by
  unfold execUnitReadDone
  try dsimp only
  repeat' first
      | (with_reducible refine FrameOut.go ?_) | (with_reducible assumption) | (with_reducible exact Frame.refl _ _)
      | (apply Frame.andThen; rotate_left; (with_reducible apply chooseVictim_frame); rfl)
      | (apply Frame.andThen; rotate_left; (with_reducible apply pumpAll_frame); rfl)
      | (apply Frame.andThen; rotate_left; (with_reducible apply queueUnit_frame); rfl) | (split) | (dsimp only)

theorem rewriteUnits_frame (b : Nat) (keep : Nat → Bool) (s : State) : Frame 0x800 s (rewriteUnits b keep s) := by
  unfold rewriteUnits
  try dsimp only
  repeat' first
      | (with_reducible assumption) | (with_reducible exact Frame.refl _ _)
      | (apply Frame.andThen; rotate_left; (with_reducible apply queueUnit_frame); rfl)
      | (with_reducible refine Frame.each _ ?_ (fun _ _ => ?_)) | (split) | (dsimp only)

theorem execReadVerifyResult_frame (block : Nat) (nbits : Nat) (readable : Bool) (s : State)
    : FrameOut 0x20800 s (execReadVerifyResult block nbits readable s) := by
  unfold execReadVerifyResult
  try dsimp only
  repeat' first
      | (with_reducible refine FrameOut.go ?_) | (with_reducible assumption) | (with_reducible exact Frame.refl _ _)
      | (apply Frame.andThen; rotate_left; (with_reducible apply settleBlocks_frame); rfl)
      | (apply Frame.andThen; rotate_left; (with_reducible apply rewriteUnits_frame); rfl)
      | (apply Frame.andThen; rotate_left; (with_reducible apply retireBlock_frame); rfl)
      | (apply Frame.andThen; rotate_left; (with_reducible apply updShd_frame); rfl)
      | (apply Frame.andThen; rotate_left; (with_reducible apply setBlk_frame); rfl)
      | (apply Frame.andThen; rotate_left; (with_reducible apply inc_frame); rfl)
      | (apply Frame.andThen; rotate_left; (with_reducible apply pumpAll_frame); rfl) | (split) | (dsimp only)

theorem programFailure_frame (u : Nat) (s : State) : Frame 0x20800 s (programFailure u s) := by
  unfold programFailure
  try dsimp only
  repeat' first
      | (with_reducible assumption) | (with_reducible exact Frame.refl _ _)
      | (apply Frame.andThen; rotate_left; (with_reducible apply rewriteUnits_frame); rfl)
      | (apply Frame.andThen; rotate_left; (with_reducible apply retireBlock_frame); rfl)
      | (apply Frame.andThen; rotate_left; (with_reducible apply replaceBlock_frame); rfl)
      | (apply Frame.andThen; rotate_left; (with_reducible apply updShd_frame); rfl)
      | (apply Frame.andThen; rotate_left; (with_reducible apply inc_frame); rfl)
      | (apply Frame.andThen; rotate_left; (with_reducible apply pumpAll_frame); rfl) | ((with_reducible apply Frame.getD) <;> intros)
      | (with_reducible refine Frame.foldl_snd _ ?_ (fun _ _ => ?_)) | (with_reducible refine Frame.foldl _ ?_ (fun _ _ => ?_)) | (split)
      | (dsimp only)

theorem execNandProgramFailure_frame (u : Nat) (s : State) : FrameOut 0x20800 s (execNandProgramFailure u s) := by
  unfold execNandProgramFailure
  try dsimp only
  repeat' first
      | (with_reducible refine FrameOut.go ?_) | (with_reducible assumption) | (with_reducible exact Frame.refl _ _)
      | (apply Frame.andThen; rotate_left; (with_reducible apply programFailure_frame); rfl) | (split) | (dsimp only)

theorem appendLoss_frame (src : Nat) (l : Loss) (s : State) : Frame 0x22c800 s (appendLoss src l s) := by
  unfold appendLoss
  try dsimp only
  repeat' first
      | (with_reducible assumption) | (with_reducible exact Frame.refl _ _)
      | (apply Frame.andThen; rotate_left; (with_reducible apply drawMany_frame); rfl)
      | (apply Frame.andThen; rotate_left; (with_reducible apply updShd_frame); rfl)
      | (apply Frame.andThen; rotate_left; (with_reducible apply post_frame); rfl) | (split) | (dsimp only)

theorem spillLost_frame (u : Nat) (logical : Nat) (x : NUnit) (s : State) : Frame 0x22c806 s (spillLost u logical x s) := by
  unfold spillLost
  try dsimp only
  repeat' first
      | (with_reducible assumption) | (with_reducible exact Frame.refl _ _)
      | (apply Frame.andThen; rotate_left; (with_reducible apply deferError_frame); rfl)
      | (apply Frame.andThen; rotate_left; (with_reducible apply updShd_frame); rfl)
      | (apply Frame.andThen; rotate_left; (with_reducible apply appendLoss_frame); rfl)
      | (apply Frame.andThen; rotate_left; (with_reducible apply updWrite_frame); rfl)
      | (apply Frame.andThen; rotate_left; (with_reducible apply pumpAll_frame); rfl)
      | (apply Frame.andThen; rotate_left; (with_reducible apply queueUnit_frame); rfl) | ((with_reducible apply Frame.getD) <;> intros)
      | (with_reducible refine Frame.each _ ?_ (fun _ _ => ?_)) | (split) | (dsimp only)

theorem execShedUnitLost_frame (u : Nat) (s : State) : FrameOut 0x22c906 s (execShedUnitLost u s) := by
  unfold execShedUnitLost
  try dsimp only
  repeat' first
      | (with_reducible refine FrameOut.go ?_) | (with_reducible assumption) | (with_reducible exact Frame.refl _ _)
      | (apply Frame.andThen; rotate_left; (with_reducible apply settleBlocks_frame); rfl)
      | (apply Frame.andThen; rotate_left; (with_reducible apply unmapRange_frame); rfl)
      | (apply Frame.andThen; rotate_left; (with_reducible apply updShd_frame); rfl)
      | (apply Frame.andThen; rotate_left; (with_reducible apply journalRec_frame); rfl)
      | (apply Frame.andThen; rotate_left; (with_reducible apply inc_frame); rfl)
      | (apply Frame.andThen; rotate_left; (with_reducible apply spillLost_frame); rfl)
      | (with_reducible refine Frame.each _ ?_ (fun _ _ => ?_)) | (split) | (dsimp only)
      | ((with_reducible apply Frame.set_rch); rotate_left; rfl)

end Sys2Proof.Machine
end

