-- ==== Sys2Proof/Laws/FrameWrite.lean ====
section
/-!
SUPPORT. What each operation leaves alone: host writes, the compressor and the servo readers. The number of a frame has one bit for each part of the state
that the operation may write (`Fld.idx`).
-/

namespace Sys2Proof.Machine

set_option linter.all false

theorem setSt_frame (seq : Nat) (st : CmdSt) (s : State) : Frame 0x2 s (setSt seq st s) := by
  unfold setSt
  try dsimp only
  repeat' first
      | (with_reducible assumption) | (with_reducible exact Frame.refl _ _)
      | (apply Frame.andThen; rotate_left; (with_reducible apply updCmd_frame); rfl) | (split) | (dsimp only)

theorem moveEnd_frame (part : Nat) (first : Nat) (count : Nat) (s : State) : Frame 0x6 s (moveEnd part first count s) := by
  unfold moveEnd
  try dsimp only
  repeat' first
      | (with_reducible assumption) | (with_reducible exact Frame.refl _ _)
      | (apply Frame.andThen; rotate_left; (with_reducible apply updPart_frame); rfl)
      | (apply Frame.andThen; rotate_left; (with_reducible apply setWrites_frame); rfl)
      | (apply Frame.andThen; rotate_left; (with_reducible apply setCmds_frame); rfl) | (split) | (dsimp only)

theorem placeTable_frame (seq : Nat) (records : Nat) (s : State) : Frame 0x24012 s (placeTable seq records s) := by
  unfold placeTable
  try dsimp only
  repeat' first
      | (with_reducible assumption) | (with_reducible exact Frame.refl _ _)
      | (apply Frame.andThen; rotate_left; (with_reducible apply setSt_frame); rfl)
      | (apply Frame.andThen; rotate_left; (with_reducible apply updWrite_frame); rfl)
      | (apply Frame.andThen; rotate_left; (with_reducible apply takeGranules_frame); rfl)
      | (apply Frame.andThen; rotate_left; (with_reducible apply takeGranules_frame_eq) <;> assumption; rfl) | (split) | (dsimp only)

theorem beginWrite_frame (seq : Nat) (s : State) : Frame 0x24876 s (beginWrite seq s) := by
  unfold beginWrite
  try dsimp only
  repeat' first
      | (with_reducible assumption) | (with_reducible exact Frame.refl _ _)
      | (apply Frame.andThen; rotate_left; (with_reducible apply setSt_frame); rfl)
      | (apply Frame.andThen; rotate_left; (with_reducible apply endWrite_frame); rfl)
      | (apply Frame.andThen; rotate_left; (with_reducible apply updWrite_frame); rfl)
      | (apply Frame.andThen; rotate_left; (with_reducible apply bindKey_frame_bound) <;> assumption; rfl)
      | (apply Frame.andThen; rotate_left; (with_reducible apply bindKey_frame_exhausted) <;> assumption; rfl)
      | (apply Frame.andThen; rotate_left; (with_reducible apply updCmd_frame); rfl)
      | (apply Frame.andThen; rotate_left; (with_reducible apply placeTable_frame); rfl) | (split) | (dsimp only)

theorem admitWrite_frame (c : Cmd) (mk : Bool → Write) (s : State) : Frame 0x24876 s (admitWrite c mk s) := by
  unfold admitWrite
  try dsimp only
  repeat' first
      | (with_reducible assumption) | (with_reducible exact Frame.refl _ _)
      | (apply Frame.andThen; rotate_left; (with_reducible apply beginWrite_frame); rfl)
      | (apply Frame.andThen; rotate_left; (with_reducible apply moveEnd_frame); rfl)
      | (apply Frame.andThen; rotate_left; (with_reducible apply indexWrite_frame); rfl)
      | (apply Frame.andThen; rotate_left; (with_reducible apply assignRing_frame); rfl) | (split) | (dsimp only)

theorem refuseWrite_frame (c : Cmd) (st : Nat) (packets : Nat) (s : State) : Frame 0x24042 s (refuseWrite c st packets s) := by
  unfold refuseWrite
  try dsimp only
  repeat' first
      | (with_reducible assumption) | (with_reducible exact Frame.refl _ _)
      | (apply Frame.andThen; rotate_left; (with_reducible apply postEvent_frame); rfl)
      | (apply Frame.andThen; rotate_left; (with_reducible apply complete_frame); rfl)
      | (apply Frame.andThen; rotate_left; (with_reducible apply bindKey_frame_bound) <;> assumption; rfl)
      | (apply Frame.andThen; rotate_left; (with_reducible apply bindKey_frame_exhausted) <;> assumption; rfl) | (split) | (dsimp only)

theorem execWriteRecords_frame (seq : Nat) (sgl : Bytes) (lens : List Nat) (hdrs : List Bytes) (s : State)
    : FrameOut 0x24876 s (execWriteRecords seq sgl lens hdrs s) := by
  unfold execWriteRecords
  try dsimp only
  repeat' first
      | (with_reducible refine FrameOut.go ?_) | (with_reducible assumption) | (with_reducible exact Frame.refl _ _)
      | (apply Frame.andThen; rotate_left; (with_reducible apply beginWrite_frame); rfl)
      | (apply Frame.andThen; rotate_left; (with_reducible apply complete_frame); rfl)
      | (apply Frame.andThen; rotate_left; (with_reducible apply admitWrite_frame); rfl)
      | (apply Frame.andThen; rotate_left; (with_reducible apply refuseWrite_frame); rfl)
      | (apply Frame.andThen; rotate_left; (with_reducible apply updCmd_frame); rfl)
      | (with_reducible refine Frame.foldl_snd _ ?_ (fun _ _ => ?_)) | (with_reducible refine Frame.foldl _ ?_ (fun _ _ => ?_)) | (split)
      | (dsimp only)

theorem execWriteMark_frame (seq : Nat) (s : State) : FrameOut 0x24876 s (execWriteMark seq s) := by
  unfold execWriteMark
  try dsimp only
  repeat' first
      | (with_reducible refine FrameOut.go ?_) | (with_reducible assumption) | (with_reducible exact Frame.refl _ _)
      | (apply Frame.andThen; rotate_left; (with_reducible apply beginWrite_frame); rfl)
      | (apply Frame.andThen; rotate_left; (with_reducible apply complete_frame); rfl)
      | (apply Frame.andThen; rotate_left; (with_reducible apply admitWrite_frame); rfl)
      | (apply Frame.andThen; rotate_left; (with_reducible apply refuseWrite_frame); rfl) | (split) | (dsimp only)

theorem trySync_frame (seq : Nat) (s : State) : Frame 0x20002 s (trySync seq s) := by
  unfold trySync
  try dsimp only
  repeat' first
      | (with_reducible assumption) | (with_reducible exact Frame.refl _ _)
      | (apply Frame.andThen; rotate_left; (with_reducible apply complete_frame); rfl) | ((with_reducible apply Frame.getD) <;> intros)
      | (split) | (dsimp only)

theorem execSync_frame (seq : Nat) (s : State) : FrameOut 0x20802 s (execSync seq s) := by
  unfold execSync
  try dsimp only
  repeat' first
      | (with_reducible refine FrameOut.go ?_) | (with_reducible assumption) | (with_reducible exact Frame.refl _ _)
      | (apply Frame.andThen; rotate_left; (with_reducible apply padStream_frame); rfl)
      | (apply Frame.andThen; rotate_left; (with_reducible apply complete_frame); rfl)
      | (apply Frame.andThen; rotate_left; (with_reducible apply updCmd_frame); rfl)
      | (apply Frame.andThen; rotate_left; (with_reducible apply trySync_frame); rfl) | (split) | (dsimp only)

theorem execSyncLevelReached_frame (seq : Nat) (s : State) : FrameOut 0x20002 s (execSyncLevelReached seq s) := by
  unfold execSyncLevelReached
  try dsimp only
  repeat' first
      | (with_reducible refine FrameOut.go ?_) | (with_reducible assumption) | (with_reducible exact Frame.refl _ _)
      | (apply Frame.andThen; rotate_left; (with_reducible apply trySync_frame); rfl) | (split) | (dsimp only)

theorem execReadPosition_frame (seq : Nat) (s : State) : FrameOut 0x60002 s (execReadPosition seq s) := by
  unfold execReadPosition
  try dsimp only
  repeat' first
      | (with_reducible refine FrameOut.go ?_) | (with_reducible assumption) | (with_reducible exact Frame.refl _ _)
      | (apply Frame.andThen; rotate_left; (with_reducible apply complete_frame); rfl)
      | (apply Frame.andThen; rotate_left; (with_reducible apply hostWrite_frame); rfl) | (split) | (dsimp only)

theorem dropActivation_frame (seq : Nat) (s : State) : Frame 0x8000 s (dropActivation seq s) := by
  unfold dropActivation
  try dsimp only
  repeat' first
      | (with_reducible assumption) | (with_reducible exact Frame.refl _ _) | (split) | (dsimp only)
      | ((with_reducible apply Frame.set_mgt); rotate_left; rfl)

theorem cancelLanding_frame (seq : Nat) (s : State) : Frame 0x800 s (cancelLanding seq s) := by
  unfold cancelLanding
  try dsimp only
  repeat' first
      | (with_reducible assumption) | (with_reducible exact Frame.refl _ _)
      | (apply Frame.andThen; rotate_left; (with_reducible apply updShd_frame); rfl)
      | (with_reducible refine Frame.foldl_snd _ ?_ (fun _ _ => ?_)) | (with_reducible refine Frame.foldl _ ?_ (fun _ _ => ?_)) | (split)
      | (dsimp only)

theorem catchCmd_frame (c : Cmd) (s : State) : Frame 0x2c876 s (catchCmd c s) := by
  unfold catchCmd
  try dsimp only
  repeat' first
      | (with_reducible assumption) | (with_reducible exact Frame.refl _ _)
      | (apply Frame.andThen; rotate_left; (with_reducible apply unpinKey_frame); rfl)
      | (apply Frame.andThen; rotate_left; (with_reducible apply unlock_frame); rfl)
      | (apply Frame.andThen; rotate_left; (with_reducible apply complete_frame); rfl)
      | (apply Frame.andThen; rotate_left; (with_reducible apply dropActivation_frame); rfl)
      | (apply Frame.andThen; rotate_left; (with_reducible apply cancelLanding_frame); rfl)
      | (apply Frame.andThen; rotate_left; (with_reducible apply endWriteCmd_frame); rfl) | (split) | (dsimp only)
      | ((with_reducible apply Frame.set_cmp); rotate_left; rfl)

theorem execAbort_frame (seq : Nat) (s : State) : FrameOut 0x2c876 s (execAbort seq s) := by
  unfold execAbort
  try dsimp only
  repeat' first
      | (with_reducible refine FrameOut.go ?_) | (with_reducible assumption) | (with_reducible exact Frame.refl _ _)
      | (apply Frame.andThen; rotate_left; (with_reducible apply catchCmd_frame); rfl)
      | (apply Frame.andThen; rotate_left; (with_reducible apply complete_frame); rfl)
      | (apply Frame.andThen; rotate_left; (with_reducible apply updCmd_frame); rfl) | (split) | (dsimp only)

theorem dawnNote_frame (arg : Nat) (s : State) : Frame 0x210000 s (dawnNote arg s) := by
  unfold dawnNote
  try dsimp only
  repeat' first
      | (with_reducible assumption) | (with_reducible exact Frame.refl _ _)
      | (apply Frame.andThen; rotate_left; (with_reducible apply drawNext_frame); rfl) | (split) | (dsimp only)
      | ((with_reducible apply Frame.set_cfg); rotate_left; rfl)

theorem noteCmd_frame (op : Nat) (s : State) : Frame 0x210000 s (noteCmd op s) := by
  unfold noteCmd
  try dsimp only
  repeat' first
      | (with_reducible assumption) | (with_reducible exact Frame.refl _ _)
      | (apply Frame.andThen; rotate_left; (with_reducible apply dawnNote_frame); rfl) | (split) | (dsimp only)

theorem readDies_frame (s : State) : Frame 0x200800 s (readDies s) := by
  unfold readDies
  try dsimp only
  repeat' first
      | (with_reducible assumption) | (with_reducible exact Frame.refl _ _)
      | (apply Frame.andThen; rotate_left; (with_reducible apply drawMany_frame); rfl)
      | (apply Frame.andThen; rotate_left; (with_reducible apply updShd_frame); rfl) | (split) | (dsimp only)

theorem execGetLog_frame (seq : Nat) (sgl : Bytes) (s : State) : FrameOut 0x270802 s (execGetLog seq sgl s) := by
  unfold execGetLog
  try dsimp only
  repeat' first
      | (with_reducible refine FrameOut.go ?_) | (with_reducible assumption) | (with_reducible exact Frame.refl _ _)
      | (apply Frame.andThen; rotate_left; (with_reducible apply readDies_frame); rfl)
      | (apply Frame.andThen; rotate_left; (with_reducible apply noteCmd_frame); rfl)
      | (apply Frame.andThen; rotate_left; (with_reducible apply complete_frame); rfl)
      | (apply Frame.andThen; rotate_left; (with_reducible apply sglWrite_frame); rfl) | (split) | (dsimp only)

theorem execGetFeature_frame (seq : Nat) (s : State) : FrameOut 0x20002 s (execGetFeature seq s) := by
  unfold execGetFeature
  try dsimp only
  repeat' first
      | (with_reducible refine FrameOut.go ?_) | (with_reducible assumption) | (with_reducible exact Frame.refl _ _)
      | (apply Frame.andThen; rotate_left; (with_reducible apply complete_frame); rfl) | (split) | (dsimp only)

theorem setEngine_frame (e : Nat) (x : Engine) (s : State) : Frame 0x20 s (setEngine e x s) := by
  unfold setEngine
  try dsimp only
  repeat' first
      | (with_reducible assumption) | (with_reducible exact Frame.refl _ _) | (split) | (dsimp only)
      | ((with_reducible apply Frame.set_cmp); rotate_left; rfl)

theorem execHostDmaComplete_frame (seq : Nat) (idx : Nat) (stall : Nat) (data : Bytes) (s : State)
    : FrameOut 0x2 s (execHostDmaComplete seq idx stall data s) := by
  unfold execHostDmaComplete
  try dsimp only
  repeat' first
      | (with_reducible refine FrameOut.go ?_) | (with_reducible assumption) | (with_reducible exact Frame.refl _ _)
      | (apply Frame.andThen; rotate_left; (with_reducible apply updWrite_frame); rfl) | (split) | (dsimp only)

theorem execEngineDispatch_frame (s : State) : FrameOut 0x22 s (execEngineDispatch s) := by
  unfold execEngineDispatch
  try dsimp only
  repeat' first
      | (with_reducible refine FrameOut.go ?_) | (with_reducible assumption) | (with_reducible exact Frame.refl _ _)
      | (apply Frame.andThen; rotate_left; (with_reducible apply setEngine_frame); rfl)
      | (apply Frame.andThen; rotate_left; (with_reducible apply updWrite_frame); rfl) | ((with_reducible apply Frame.getD) <;> intros)
      | (split) | (dsimp only) | ((with_reducible apply Frame.set_cmp); rotate_left; rfl)

theorem execReadDlzDispatch_frame (s : State) : FrameOut 0x22 s (execReadDlzDispatch s) := by
  unfold execReadDlzDispatch
  try dsimp only
  repeat' first
      | (with_reducible refine FrameOut.go ?_) | (with_reducible assumption) | (with_reducible exact Frame.refl _ _)
      | (apply Frame.andThen; rotate_left; (with_reducible apply setEngine_frame); rfl)
      | (apply Frame.andThen; rotate_left; (with_reducible apply updCmd_frame); rfl) | (split) | (dsimp only)
      | ((with_reducible apply Frame.set_cmp); rotate_left; rfl)

theorem leaveService_frame (e : Nat) (byFault : Bool) (s : State) : Frame 0x24020 s (leaveService e byFault s) := by
  unfold leaveService
  try dsimp only
  repeat' first
      | (with_reducible assumption) | (with_reducible exact Frame.refl _ _)
      | (apply Frame.andThen; rotate_left; (with_reducible apply postEvent_frame); rfl)
      | (apply Frame.andThen; rotate_left; (with_reducible apply setEngine_frame); rfl) | (split) | (dsimp only)

theorem countMiB_frame (off : Nat) (n : Nat) (have_ : Nat) (s : State) : Frame 0x20000 s (countMiB off n have_ s).2 := by
  unfold countMiB
  try dsimp only
  repeat' first
      | (with_reducible assumption) | (with_reducible exact Frame.refl _ _)
      | (apply Frame.andThen; rotate_left; (with_reducible apply addCtr_frame); rfl) | (split) | (dsimp only)

theorem countMiB_frame_eq (off : Nat) (n : Nat) (have_ : Nat) (s : State) {a_ : Nat} {s' : State} (h : countMiB off n have_ s = (a_, s'))
    : Frame 0x20000 s s' := by
  have k := countMiB_frame off n have_ s
  rwa [h] at k

theorem enterService_frame (old : State) (s : State) : Frame 0x20 s (enterService old s) := by
  unfold enterService
  try dsimp only
  repeat' first
      | (with_reducible assumption) | (with_reducible exact Frame.refl _ _)
      | (apply Frame.andThen; rotate_left; (with_reducible apply setEngine_frame); rfl)
      | (with_reducible refine Frame.foldl_snd _ ?_ (fun _ _ => ?_)) | (with_reducible refine Frame.foldl _ ?_ (fun _ _ => ?_)) | (split)
      | (dsimp only)

theorem jobEnds_frame (e : Nat) (q : Nat) (i : Nat) (dlz : Bool) (payload : Bytes) (s : State)
    : Frame 0x20022 s (jobEnds e q i dlz payload s) := by
  unfold jobEnds
  try dsimp only
  repeat' first
      | (with_reducible assumption) | (with_reducible exact Frame.refl _ _)
      | (apply Frame.andThen; rotate_left; (with_reducible apply countMiB_frame); rfl)
      | (apply Frame.andThen; rotate_left; (with_reducible apply countMiB_frame_eq) <;> assumption; rfl)
      | (apply Frame.andThen; rotate_left; (with_reducible apply setEngine_frame); rfl)
      | (apply Frame.andThen; rotate_left; (with_reducible apply inc_frame); rfl)
      | (apply Frame.andThen; rotate_left; (with_reducible apply updWrite_frame); rfl) | (split) | (dsimp only)

theorem execCompressionDone_frame (engine : Nat) (fault : EngineFault) (s : State)
    : FrameOut 0x24022 s (execCompressionDone engine fault s) := by
  unfold execCompressionDone
  try dsimp only
  repeat' first
      | (with_reducible refine FrameOut.go ?_) | (with_reducible assumption) | (with_reducible exact Frame.refl _ _)
      | (apply Frame.andThen; rotate_left; (with_reducible apply postEvent_frame); rfl)
      | (apply Frame.andThen; rotate_left; (with_reducible apply setEngine_frame); rfl)
      | (apply Frame.andThen; rotate_left; (with_reducible apply inc_frame); rfl)
      | (apply Frame.andThen; rotate_left; (with_reducible apply leaveService_frame); rfl)
      | (apply Frame.andThen; rotate_left; (with_reducible apply updWrite_frame); rfl)
      | (apply Frame.andThen; rotate_left; (with_reducible apply jobEnds_frame); rfl) | (split) | (dsimp only)

theorem execEngineLeaveService_frame (engine : Nat) (s : State) : FrameOut 0x24020 s (execEngineLeaveService engine s) := by
  unfold execEngineLeaveService
  try dsimp only
  repeat' first
      | (with_reducible refine FrameOut.go ?_) | (with_reducible assumption) | (with_reducible exact Frame.refl _ _)
      | (apply Frame.andThen; rotate_left; (with_reducible apply leaveService_frame); rfl) | (split) | (dsimp only)

theorem clearEngineFaults_frame (value : Nat) (s : State) : Frame 0x20 s (clearEngineFaults value s) := by
  unfold clearEngineFaults
  try dsimp only
  repeat' first
      | (with_reducible assumption) | (with_reducible exact Frame.refl _ _)
      | (apply Frame.andThen; rotate_left; (with_reducible apply setEngine_frame); rfl)
      | (with_reducible refine Frame.foldl_snd _ ?_ (fun _ _ => ?_)) | (with_reducible refine Frame.foldl _ ?_ (fun _ _ => ?_)) | (split)
      | (dsimp only)

theorem execEngineFaultClear_frame (value : Nat) (s : State) : FrameOut 0x20 s (execEngineFaultClear value s) := by
  unfold execEngineFaultClear
  try dsimp only
  repeat' first
      | (with_reducible refine FrameOut.go ?_) | (with_reducible assumption) | (with_reducible exact Frame.refl _ _)
      | (apply Frame.andThen; rotate_left; (with_reducible apply clearEngineFaults_frame); rfl) | (split) | (dsimp only)

theorem linkChain_frame (last : Option Handle) (x1 : List Handle) (x2 : State) : Frame 0x24010 x2 (linkChain last x1 x2) := by
  fun_induction linkChain last x1 x2 <;> try dsimp +zetaDelta only
  all_goals
  repeat' first
      | (with_reducible assumption) | (with_reducible exact Frame.refl _ _)
      | (apply Frame.andThen; rotate_left; (with_reducible apply linkStall_frame); rfl)
      | (apply Frame.andThen; rotate_left; assumption; rfl) | (split) | (dsimp only)

theorem extendChain_frame (w : Write) (n : Nat) (s : State) : Frame 0x24010 s (extendChain w n s).2 := by
  unfold extendChain
  try dsimp only
  repeat' first
      | (with_reducible assumption) | (with_reducible exact Frame.refl _ _)
      | (apply Frame.andThen; rotate_left; (with_reducible apply acquire_frame); rfl)
      | (apply Frame.andThen; rotate_left; (with_reducible apply acquire_frame_eq) <;> assumption; rfl)
      | (apply Frame.andThen; rotate_left; (with_reducible apply linkChain_frame); rfl) | (split) | (dsimp only)

theorem extendChain_frame_eq (w : Write) (n : Nat) (s : State) {a_ : Option Write} {s' : State} (h : extendChain w n s = (a_, s'))
    : Frame 0x24010 s s' := by
  have k := extendChain_frame w n s
  rwa [h] at k

theorem takeWrite_frame (w : Write) (s : State) : Frame 0x20046 s (takeWrite w s) := by
  unfold takeWrite
  try dsimp only
  repeat' first
      | (with_reducible assumption) | (with_reducible exact Frame.refl _ _)
      | (apply Frame.andThen; rotate_left; (with_reducible apply unpinKey_frame); rfl)
      | (apply Frame.andThen; rotate_left; (with_reducible apply refreshMarks_frame); rfl)
      | (apply Frame.andThen; rotate_left; (with_reducible apply updPart_frame); rfl)
      | (apply Frame.andThen; rotate_left; (with_reducible apply complete_frame); rfl)
      | (apply Frame.andThen; rotate_left; (with_reducible apply updWrite_frame); rfl)
      | (with_reducible refine Frame.each _ ?_ (fun _ _ => ?_)) | (split) | (dsimp only)

theorem takeUp_frame (p : Nat) (x1 : Nat) (x2 : State) : Frame 0x20046 x2 (takeUp p x1 x2) := by
  fun_induction takeUp p x1 x2 <;> try dsimp +zetaDelta only
  all_goals
  repeat' first
      | (with_reducible assumption) | (with_reducible exact Frame.refl _ _)
      | (apply Frame.andThen; rotate_left; (with_reducible apply takeWrite_frame); rfl)
      | (apply Frame.andThen; rotate_left; assumption; rfl) | (split) | (dsimp only)

theorem releasePacket_frame (w : Write) (k : Pkt) (s : State) : Frame 0x24030 s (releasePacket w k s) := by
  unfold releasePacket
  try dsimp only
  repeat' first
      | (with_reducible assumption) | (with_reducible exact Frame.refl _ _)
      | (apply Frame.andThen; rotate_left; (with_reducible apply giveBack_frame); rfl)
      | (apply Frame.andThen; rotate_left; (with_reducible apply setEngine_frame); rfl) | (split) | (dsimp only)

theorem takePacket_frame (w : Write) (i : Nat) (k : Pkt) (lead : Nat) (bs : Bytes) (s : State)
    : Frame 0x24076 s (takePacket w i k lead bs s) := by
  unfold takePacket
  repeat' first
      | (with_reducible assumption) | (with_reducible exact Frame.refl _ _)
      | (apply Frame.andThen; rotate_left; (with_reducible apply releasePacket_frame); rfl)
      | (apply Frame.andThen; rotate_left; (with_reducible apply extendChain_frame); rfl)
      | (apply Frame.andThen; rotate_left; (with_reducible apply extendChain_frame_eq) <;> assumption; rfl)
      | (apply Frame.andThen; rotate_left; (with_reducible apply takeUp_frame); rfl)
      | (apply Frame.andThen; rotate_left; (with_reducible apply updWrite_frame); rfl) | (split) | (dsimp only)
      | ((with_reducible apply Frame.set_cip); rotate_left; rfl)

theorem execCipherTakePacket_frame (s : State) : FrameOut 0x24076 s (execCipherTakePacket s) := by
  unfold execCipherTakePacket
  try dsimp only
  repeat' first
      | (with_reducible refine FrameOut.go ?_) | (with_reducible assumption) | (with_reducible exact Frame.refl _ _)
      | (apply Frame.andThen; rotate_left; (with_reducible apply takePacket_frame); rfl) | (split) | (dsimp only)
      | ((with_reducible apply Frame.set_cip); rotate_left; rfl)

theorem updReader_frame (r : Nat) (f : Reader → Reader) (s : State) : Frame 0x200 s (updReader r f s) := by
  unfold updReader
  try dsimp only
  repeat' first
      | (with_reducible assumption) | (with_reducible exact Frame.refl _ _)
      | (apply Frame.andThen; rotate_left; (with_reducible apply updSrv_frame); rfl) | (split) | (dsimp only)

theorem derive_frame (ok : List (Nat × Reader)) (s : State) : Frame 0x200 s (derive ok s) := by
  unfold derive
  try dsimp only
  repeat' first
      | (with_reducible assumption) | (with_reducible exact Frame.refl _ _)
      | (apply Frame.andThen; rotate_left; (with_reducible apply updSrv_frame); rfl) | ((with_reducible apply Frame.getD) <;> intros)
      | (with_reducible refine Frame.foldl_snd _ ?_ (fun _ _ => ?_)) | (with_reducible refine Frame.foldl _ ?_ (fun _ _ => ?_)) | (split)
      | (dsimp only)

theorem checkPes_frame (ok : List (Nat × Reader)) (s : State) : Frame 0x22c000 s (checkPes ok s) := by
  unfold checkPes
  try dsimp only
  repeat' first
      | (with_reducible assumption) | (with_reducible exact Frame.refl _ _)
      | (apply Frame.andThen; rotate_left; (with_reducible apply drawNext_frame); rfl)
      | (apply Frame.andThen; rotate_left; (with_reducible apply post_frame); rfl) | (split) | (dsimp only)

theorem execPesResume_frame (s : State) : FrameOut 0x2c000 s (execPesResume s) := by
  unfold execPesResume
  try dsimp only
  repeat' first
      | (with_reducible refine FrameOut.go ?_) | (with_reducible assumption) | (with_reducible exact Frame.refl _ _)
      | (apply Frame.andThen; rotate_left; (with_reducible apply post_frame); rfl) | (split) | (dsimp only)

theorem checkOverspeed_frame (s : State) : Frame 0x2c000 s (checkOverspeed s) := by
  unfold checkOverspeed
  try dsimp only
  repeat' first
      | (with_reducible assumption) | (with_reducible exact Frame.refl _ _)
      | (apply Frame.andThen; rotate_left; (with_reducible apply post_frame); rfl) | (split) | (dsimp only)

theorem moveClock_frame (pos : Nat) (s : State) : Frame 0x200 s (moveClock pos s) := by
  unfold moveClock
  try dsimp only
  repeat' first
      | (with_reducible assumption) | (with_reducible exact Frame.refl _ _)
      | (apply Frame.andThen; rotate_left; (with_reducible apply updSrv_frame); rfl) | (split) | (dsimp only)

theorem advanceClock_frame (d : Nat) (s : State) : Frame 0x200 s (advanceClock d s) := by
  unfold advanceClock
  try dsimp only
  repeat' first
      | (with_reducible assumption) | (with_reducible exact Frame.refl _ _)
      | (apply Frame.andThen; rotate_left; (with_reducible apply updSrv_frame); rfl) | (split) | (dsimp only)

theorem flywheelBy_frame (d : Nat) (s : State) : Frame 0x20200 s (flywheelBy d s) := by
  unfold flywheelBy
  try dsimp only
  repeat' first
      | (with_reducible assumption) | (with_reducible exact Frame.refl _ _)
      | (apply Frame.andThen; rotate_left; (with_reducible apply updSrv_frame); rfl)
      | (apply Frame.andThen; rotate_left; (with_reducible apply inc_frame); rfl)
      | (apply Frame.andThen; rotate_left; (with_reducible apply advanceClock_frame); rfl) | (split) | (dsimp only)

theorem clockFrame_frame (ok : List (Nat × Reader)) (s : State) : Frame 0x20200 s (clockFrame ok s) := by
  unfold clockFrame
  try dsimp only
  repeat' first
      | (with_reducible assumption) | (with_reducible exact Frame.refl _ _)
      | (apply Frame.andThen; rotate_left; (with_reducible apply moveClock_frame); rfl)
      | (apply Frame.andThen; rotate_left; (with_reducible apply updSrv_frame); rfl)
      | (apply Frame.andThen; rotate_left; (with_reducible apply flywheelBy_frame); rfl) | (split) | (dsimp only)

theorem execClockFlywheelExpiry_frame (s : State) : FrameOut 0x200 s (execClockFlywheelExpiry s) := by
  unfold execClockFlywheelExpiry
  try dsimp only
  repeat' first
      | (with_reducible refine FrameOut.go ?_) | (with_reducible assumption) | (with_reducible exact Frame.refl _ _)
      | (apply Frame.andThen; rotate_left; (with_reducible apply updSrv_frame); rfl) | (split) | (dsimp only)

theorem speedSource_frame (s : State) : Frame 0x400 s (speedSource s) := by
  unfold speedSource
  try dsimp only
  repeat' first
      | (with_reducible assumption) | (with_reducible exact Frame.refl _ _)
      | (apply Frame.andThen; rotate_left; (with_reducible apply updBrd_frame); rfl) | (split) | (dsimp only)

theorem updateTrim_frame (s : State) : Frame 0x400 s (updateTrim s) := by
  unfold updateTrim
  try dsimp only
  repeat' first
      | (with_reducible assumption) | (with_reducible exact Frame.refl _ _)
      | (apply Frame.andThen; rotate_left; (with_reducible apply updBrd_frame); rfl)
      | (apply Frame.andThen; rotate_left; (with_reducible apply updLoop_frame); rfl) | (split) | (dsimp only)

theorem countSettled_frame (s : State) : Frame 0x400 s (countSettled s) := by
  unfold countSettled
  try dsimp only
  repeat' first
      | (with_reducible assumption) | (with_reducible exact Frame.refl _ _)
      | (apply Frame.andThen; rotate_left; (with_reducible apply updBrd_frame); rfl) | (split) | (dsimp only)

theorem servoTick_frame (num : Nat) (den : Nat) (seen : Bool) (s : State) : Frame 0x400 s (servoTick num den seen s) := by
  unfold servoTick
  try dsimp only
  repeat' first
      | (with_reducible assumption) | (with_reducible exact Frame.refl _ _)
      | (apply Frame.andThen; rotate_left; (with_reducible apply mix_frame); rfl)
      | (apply Frame.andThen; rotate_left; (with_reducible apply speedSource_frame); rfl)
      | (apply Frame.andThen; rotate_left; (with_reducible apply runLoop_frame); rfl) | (split) | (dsimp only)

theorem execServoFrame_frame (f : ServoObs) (s : State) : FrameOut 0x22c700 s (execServoFrame f s) := by
  unfold execServoFrame
  try dsimp only
  repeat' first
      | (with_reducible refine FrameOut.go ?_) | (with_reducible assumption) | (with_reducible exact Frame.refl _ _)
      | (apply Frame.andThen; rotate_left; (with_reducible apply servoTick_frame); rfl)
      | (apply Frame.andThen; rotate_left; (with_reducible apply updSrv_frame); rfl)
      | (apply Frame.andThen; rotate_left; (with_reducible apply addCtr_frame); rfl)
      | (apply Frame.andThen; rotate_left; (with_reducible apply checkPes_frame); rfl)
      | (apply Frame.andThen; rotate_left; (with_reducible apply countSettled_frame); rfl)
      | (apply Frame.andThen; rotate_left; (with_reducible apply clockFrame_frame); rfl)
      | (apply Frame.andThen; rotate_left; (with_reducible apply derive_frame); rfl)
      | (apply Frame.andThen; rotate_left; (with_reducible apply updateTrim_frame); rfl)
      | (apply Frame.andThen; rotate_left; (with_reducible apply estimateRadii_frame); rfl)
      | ((with_reducible apply sameCycle_frame); rotate_left; rfl; intros)
      | (apply Frame.andThen; rotate_left; (with_reducible apply motionStep_frame); rfl)
      | (apply Frame.andThen; rotate_left; (with_reducible apply ensembleUpdate_frame); rfl)
      | (apply Frame.andThen; rotate_left; (with_reducible apply checkOverspeed_frame); rfl)
      | ((with_reducible apply Frame.getD) <;> intros) | (split) | (dsimp only)

theorem execStandstillTick_frame (travel : Int) (s : State) : FrameOut 0x20700 s (execStandstillTick travel s) := by
  unfold execStandstillTick
  try dsimp only
  repeat' first
      | (with_reducible refine FrameOut.go ?_) | (with_reducible assumption) | (with_reducible exact Frame.refl _ _)
      | (apply Frame.andThen; rotate_left; (with_reducible apply servoTick_frame); rfl)
      | (apply Frame.andThen; rotate_left; (with_reducible apply updSrv_frame); rfl)
      | (apply Frame.andThen; rotate_left; (with_reducible apply flywheelBy_frame); rfl)
      | (apply Frame.andThen; rotate_left; (with_reducible apply motionStep_frame); rfl)
      | (apply Frame.andThen; rotate_left; (with_reducible apply advanceClock_frame); rfl) | (split) | (dsimp only)

theorem resetCount_frame (r : Nat) (frame : Nat) (s : State) : Frame 0x200 s (resetCount r frame s) := by
  unfold resetCount
  try dsimp only
  repeat' first
      | (with_reducible assumption) | (with_reducible exact Frame.refl _ _)
      | (apply Frame.andThen; rotate_left; (with_reducible apply updSrv_frame); rfl) | (split) | (dsimp only)

theorem execLposWordAccepted_frame (r : Nat) (word : List Bool) (s : State) : FrameOut 0x24200 s (execLposWordAccepted r word s) := by
  unfold execLposWordAccepted
  try dsimp only
  repeat' first
      | (with_reducible refine FrameOut.go ?_) | (with_reducible assumption) | (with_reducible exact Frame.refl _ _)
      | (apply Frame.andThen; rotate_left; (with_reducible apply updSrv_frame); rfl)
      | (apply Frame.andThen; rotate_left; (with_reducible apply postEvent_frame); rfl)
      | (apply Frame.andThen; rotate_left; (with_reducible apply resetCount_frame); rfl)
      | (apply Frame.andThen; rotate_left; (with_reducible apply clockValid_frame); rfl)
      | (apply Frame.andThen; rotate_left; (with_reducible apply inc_frame); rfl)
      | (apply Frame.andThen; rotate_left; (with_reducible apply updReader_frame); rfl) | (split) | (dsimp only)

end Sys2Proof.Machine
end

