-- ==== Sys2Proof/Laws/FrameRead.lean ====
section
/-!
SUPPORT. What each operation leaves alone: reads, the recovery ladder, the landing zone and the formatter. The number of a frame has one bit for each part of the state
that the operation may write (`Fld.idx`).
-/

namespace Sys2Proof.Machine

set_option linter.all false

theorem sendTape_frame (src : Nat) (wrap : Nat) (frame : Nat) (speed : Nat) (slew : Nat) (s : State)
    : Frame 0x2c000 s (sendTape src wrap frame speed slew s) := by
  unfold sendTape
  try dsimp only
  repeat' first
      | (with_reducible assumption) | (with_reducible exact Frame.refl _ _)
      | (apply Frame.andThen; rotate_left; (with_reducible apply post_frame); rfl) | (split) | (dsimp only)

theorem wantTape_frame (p : Nat) (ds : Nat) (s : State) : Frame 0x2c300 s (wantTape p ds s) := by
  unfold wantTape
  try dsimp only
  repeat' first
      | (with_reducible assumption) | (with_reducible exact Frame.refl _ _)
      | (apply Frame.andThen; rotate_left; (with_reducible apply needTape_frame); rfl)
      | (apply Frame.andThen; rotate_left; (with_reducible apply sendTape_frame); rfl)
      | (apply Frame.andThen; rotate_left; (with_reducible apply updRch_frame); rfl) | (split) | (dsimp only)

theorem updRead_frame (seq : Nat) (f : Cmd → Cmd) (s : State) : Frame 0x2 s (updRead seq f s) := by
  unfold updRead
  try dsimp only
  repeat' first
      | (with_reducible assumption) | (with_reducible exact Frame.refl _ _)
      | (apply Frame.andThen; rotate_left; (with_reducible apply updCmd_frame); rfl) | (split) | (dsimp only)

theorem stopRead_frame (seq : Nat) (status : Nat) (s : State) : Frame 0x20012 s (stopRead seq status s) := by
  unfold stopRead
  try dsimp only
  repeat' first
      | (with_reducible assumption) | (with_reducible exact Frame.refl _ _)
      | (apply Frame.andThen; rotate_left; (with_reducible apply unlock_frame); rfl)
      | (apply Frame.andThen; rotate_left; (with_reducible apply complete_frame); rfl)
      | (apply Frame.andThen; rotate_left; (with_reducible apply updCmd_frame); rfl) | (split) | (dsimp only)

theorem writeEntry_frame (c : Cmd) (v : Nat) (s : State) : Frame 0x40000 s (writeEntry c v s) := by
  unfold writeEntry
  try dsimp only
  repeat' first
      | (with_reducible assumption) | (with_reducible exact Frame.refl _ _)
      | (apply Frame.andThen; rotate_left; (with_reducible apply hostWrite_frame); rfl) | (split) | (dsimp only)

theorem putRecord_frame (seq : Nat) (hdr : Bytes) (data : Bytes) (s : State) : Frame 0x60016 s (putRecord seq hdr data s) := by
  unfold putRecord
  try dsimp only
  repeat' first
      | (with_reducible assumption) | (with_reducible exact Frame.refl _ _)
      | (apply Frame.andThen; rotate_left; (with_reducible apply writeEntry_frame); rfl)
      | (apply Frame.andThen; rotate_left; (with_reducible apply stopRead_frame); rfl)
      | (apply Frame.andThen; rotate_left; (with_reducible apply updPart_frame); rfl)
      | (apply Frame.andThen; rotate_left; (with_reducible apply updCmd_frame); rfl)
      | (apply Frame.andThen; rotate_left; (with_reducible apply sglWrite_frame); rfl)
      | (apply Frame.andThen; rotate_left; (with_reducible apply hostWrite_frame); rfl) | (split) | (dsimp only)

theorem putMark_frame (seq : Nat) (s : State) : Frame 0x60016 s (putMark seq s) := by
  unfold putMark
  try dsimp only
  repeat' first
      | (with_reducible assumption) | (with_reducible exact Frame.refl _ _)
      | (apply Frame.andThen; rotate_left; (with_reducible apply writeEntry_frame); rfl)
      | (apply Frame.andThen; rotate_left; (with_reducible apply stopRead_frame); rfl)
      | (apply Frame.andThen; rotate_left; (with_reducible apply updPart_frame); rfl)
      | (apply Frame.andThen; rotate_left; (with_reducible apply updCmd_frame); rfl) | (split) | (dsimp only)

theorem putEnd_frame (seq : Nat) (s : State) : Frame 0x20012 s (putEnd seq s) := by
  unfold putEnd
  try dsimp only
  repeat' first
      | (with_reducible assumption) | (with_reducible exact Frame.refl _ _)
      | (apply Frame.andThen; rotate_left; (with_reducible apply stopRead_frame); rfl)
      | (apply Frame.andThen; rotate_left; (with_reducible apply updCmd_frame); rfl) | (split) | (dsimp only)

theorem deliverStart_frame (seq : Nat) (data : Bytes) (x : Nat × Nat × Nat × Bytes) (s : State)
    : Frame 0x60016 s (deliverStart seq data x s) := by
  unfold deliverStart
  try dsimp only
  repeat' first
      | (with_reducible assumption) | (with_reducible exact Frame.refl _ _)
      | (apply Frame.andThen; rotate_left; (with_reducible apply putRecord_frame); rfl)
      | (apply Frame.andThen; rotate_left; (with_reducible apply writeEntry_frame); rfl)
      | (apply Frame.andThen; rotate_left; (with_reducible apply stopRead_frame); rfl)
      | (apply Frame.andThen; rotate_left; (with_reducible apply updCmd_frame); rfl) | (split) | (dsimp only)

theorem deliver_frame (seq : Nat) (data : Bytes) (starts : List (Nat × Nat × Nat × Bytes)) (s : State)
    : Frame 0x60016 s (deliver seq data starts s) := by
  unfold deliver
  try dsimp only
  repeat' first
      | (with_reducible assumption) | (with_reducible exact Frame.refl _ _)
      | (apply Frame.andThen; rotate_left; (with_reducible apply putRecord_frame); rfl)
      | (apply Frame.andThen; rotate_left; (with_reducible apply deliverStart_frame); rfl)
      | (apply Frame.andThen; rotate_left; (with_reducible apply updCmd_frame); rfl)
      | (with_reducible refine Frame.each _ ?_ (fun _ _ => ?_)) | (split) | (dsimp only)

theorem openPacket_frame (seq : Nat) (p : Nat) (q : RawPkt) (d : Desc48) (starts : List (Nat × Nat × Nat × Bytes)) (ds : Nat) (off : Nat)
    (s : State)
    : Frame 0x64056 s (openPacket seq p q d starts ds off s) := by
  unfold openPacket
  try dsimp only
  repeat' first
      | (with_reducible assumption) | (with_reducible exact Frame.refl _ _)
      | (apply Frame.andThen; rotate_left; (with_reducible apply readKey_frame); rfl)
      | (apply Frame.andThen; rotate_left; (with_reducible apply readKey_frame_eq) <;> assumption; rfl)
      | (apply Frame.andThen; rotate_left; (with_reducible apply postEvent_frame); rfl)
      | (apply Frame.andThen; rotate_left; (with_reducible apply stopRead_frame); rfl)
      | (apply Frame.andThen; rotate_left; (with_reducible apply inc_frame); rfl)
      | (apply Frame.andThen; rotate_left; (with_reducible apply updCmd_frame); rfl)
      | (apply Frame.andThen; rotate_left; (with_reducible apply deliver_frame); rfl) | (split) | (dsimp only)

theorem gateRead_frame (seq : Nat) (n : Nat) (w : Write) (s : State) : Frame 0x12 s (gateRead seq n w s) := by
  unfold gateRead
  try dsimp only
  repeat' first
      | (with_reducible assumption) | (with_reducible exact Frame.refl _ _)
      | (apply Frame.andThen; rotate_left; (with_reducible apply setSt_frame); rfl)
      | (apply Frame.andThen; rotate_left; (with_reducible apply lockFor_frame); rfl) | (split) | (dsimp only)

theorem noteSource_frame (c : Cmd) (tape : Bool) (s : State) : Frame 0x4 s (noteSource c tape s) := by
  unfold noteSource
  try dsimp only
  repeat' first
      | (with_reducible assumption) | (with_reducible exact Frame.refl _ _)
      | (apply Frame.andThen; rotate_left; (with_reducible apply updPart_frame); rfl) | (split) | (dsimp only)

theorem readStep_frame (seq : Nat) (s : State) : Frame 0x6c356 s (readStep seq s).2 := by
  unfold readStep
  try dsimp only
  repeat' first
      | (with_reducible assumption) | (with_reducible exact Frame.refl _ _)
      | (apply Frame.andThen; rotate_left; (with_reducible apply openPacket_frame); rfl)
      | (apply Frame.andThen; rotate_left; (with_reducible apply stopRead_frame); rfl)
      | (apply Frame.andThen; rotate_left; (with_reducible apply wantTape_frame); rfl)
      | (apply Frame.andThen; rotate_left; (with_reducible apply noteSource_frame); rfl)
      | (apply Frame.andThen; rotate_left; (with_reducible apply putEnd_frame); rfl)
      | (apply Frame.andThen; rotate_left; (with_reducible apply putMark_frame); rfl)
      | (apply Frame.andThen; rotate_left; (with_reducible apply gateRead_frame); rfl) | ((with_reducible apply Frame.getD) <;> intros)
      | (split) | (dsimp only)

theorem readStep_frame_eq (seq : Nat) (s : State) {a_ : Option (Nat × Nat)} {s' : State} (h : readStep seq s = (a_, s'))
    : Frame 0x6c356 s s' := by
  have k := readStep_frame seq s
  rwa [h] at k

theorem execReadRecords_frame (seq : Nat) (sgl : Bytes) (s : State) : FrameOut 0x20012 s (execReadRecords seq sgl s) := by
  unfold execReadRecords
  try dsimp only
  repeat' first
      | (with_reducible refine FrameOut.go ?_) | (with_reducible assumption) | (with_reducible exact Frame.refl _ _)
      | (apply Frame.andThen; rotate_left; (with_reducible apply complete_frame); rfl)
      | (apply Frame.andThen; rotate_left; (with_reducible apply updCmd_frame); rfl)
      | (apply Frame.andThen; rotate_left; (with_reducible apply gateRead_frame); rfl) | (split) | (dsimp only)

theorem execGateLockGrant_frame (s : State) : FrameOut 0x12 s (execGateLockGrant s) := by
  unfold execGateLockGrant
  try dsimp only
  repeat' first
      | (with_reducible refine FrameOut.go ?_) | (with_reducible assumption) | (with_reducible exact Frame.refl _ _)
      | (apply Frame.andThen; rotate_left; (with_reducible apply setSt_frame); rfl)
      | (apply Frame.andThen; rotate_left; (with_reducible apply gateRead_frame); rfl) | (split) | (dsimp only)

theorem execCopiesSettled_frame (seq : Nat) (s : State) : FrameOut 0x12 s (execCopiesSettled seq s) := by
  unfold execCopiesSettled
  try dsimp only
  repeat' first
      | (with_reducible refine FrameOut.go ?_) | (with_reducible assumption) | (with_reducible exact Frame.refl _ _)
      | (apply Frame.andThen; rotate_left; (with_reducible apply unlock_frame); rfl) | (split) | (dsimp only)

theorem countChans_frame (f : Chan → Chan) (cs : List Nat) (s : State) : Frame 0x100 s (countChans f cs s) := by
  unfold countChans
  try dsimp only
  repeat' first
      | (with_reducible assumption) | (with_reducible exact Frame.refl _ _)
      | (apply Frame.andThen; rotate_left; (with_reducible apply updChan_frame); rfl)
      | (with_reducible refine Frame.each _ ?_ (fun _ _ => ?_)) | (split) | (dsimp only)

theorem countRows_frame (bs : List RowBlock) (s : State) : Frame 0x20100 s (countRows bs s) := by
  unfold countRows
  try dsimp only
  repeat' first
      | (with_reducible assumption) | (with_reducible exact Frame.refl _ _)
      | (apply Frame.andThen; rotate_left; (with_reducible apply addCtr_frame); rfl)
      | (apply Frame.andThen; rotate_left; (with_reducible apply updChan_frame); rfl)
      | (with_reducible refine Frame.each _ ?_ (fun _ _ => ?_)) | (with_reducible refine Frame.foldl_snd _ ?_ (fun _ _ => ?_))
      | (with_reducible refine Frame.foldl _ ?_ (fun _ _ => ?_)) | (split) | (dsimp only)

theorem countDecode_frame (cfg : DecCfg) (pool : AMap SdsPool) (copies : List RowCopy) (d : DsDec) (s : State)
    : Frame 0x20100 s (countDecode cfg pool copies d s) := by
  unfold countDecode
  try dsimp only
  repeat' first
      | (with_reducible assumption) | (with_reducible exact Frame.refl _ _)
      | (apply Frame.andThen; rotate_left; (with_reducible apply countChans_frame); rfl)
      | (apply Frame.andThen; rotate_left; (with_reducible apply addCtr_frame); rfl) | (split) | (dsimp only)

theorem decodeRows_frame (p : Nat) (ds : Nat) (others : Bool) (pool : AMap SdsPool) (xs : List RowRead) (s : State)
    : Frame 0x20100 s (decodeRows p ds others pool xs s).2 := by
  unfold decodeRows
  try dsimp only
  repeat' first
      | (with_reducible assumption) | (with_reducible exact Frame.refl _ _)
      | (apply Frame.andThen; rotate_left; (with_reducible apply countRows_frame); rfl)
      | (apply Frame.andThen; rotate_left; (with_reducible apply countDecode_frame); rfl) | (split) | (dsimp only)

theorem decodeRows_frame_eq (p : Nat) (ds : Nat) (others : Bool) (pool : AMap SdsPool) (xs : List RowRead) (s : State) {a_ : DsDec}
    {s' : State} (h : decodeRows p ds others pool xs s = (a_, s'))
    : Frame 0x20100 s s' := by
  have k := decodeRows_frame p ds others pool xs s
  rwa [h] at k

theorem freeStaged_frame (x : Staged) (s : State) : Frame 0x24010 s (freeStaged x s) := by
  unfold freeStaged
  try dsimp only
  repeat' first
      | (with_reducible assumption) | (with_reducible exact Frame.refl _ _)
      | (apply Frame.andThen; rotate_left; (with_reducible apply giveBack_frame); rfl)
      | (with_reducible refine Frame.each _ ?_ (fun _ _ => ?_)) | (split) | (dsimp only)

theorem stageRoom_frame (n : Nat) (x1 : Nat) (x2 : State) : Frame 0x24110 x2 (stageRoom n x1 x2) := by
  fun_induction stageRoom n x1 x2 <;> try dsimp +zetaDelta only
  all_goals
  repeat' first
      | (with_reducible assumption) | (with_reducible exact Frame.refl _ _)
      | (apply Frame.andThen; rotate_left; (with_reducible apply freeStaged_frame); rfl)
      | (apply Frame.andThen; rotate_left; (with_reducible apply updRch_frame); rfl) | (apply Frame.andThen; rotate_left; assumption; rfl)
      | (split) | (dsimp only)

theorem unstage_frame (p : Nat) (ds : Nat) (s : State) : Frame 0x24110 s (unstage p ds s) := by
  unfold unstage
  try dsimp only
  repeat' first
      | (with_reducible assumption) | (with_reducible exact Frame.refl _ _)
      | (apply Frame.andThen; rotate_left; (with_reducible apply freeStaged_frame); rfl)
      | (apply Frame.andThen; rotate_left; (with_reducible apply updRch_frame); rfl)
      | (with_reducible refine Frame.each _ ?_ (fun _ _ => ?_)) | (split) | (dsimp only)

theorem stage_frame (d : Nat) (p : Nat) (ds : Nat) (stream : Bytes) (s : State) : Frame 0x24110 s (stage d p ds stream s) := by
  unfold stage
  try dsimp only
  repeat' first
      | (with_reducible assumption) | (with_reducible exact Frame.refl _ _)
      | (apply Frame.andThen; rotate_left; (with_reducible apply stageRoom_frame); rfl)
      | (apply Frame.andThen; rotate_left; (with_reducible apply acquire_frame); rfl)
      | (apply Frame.andThen; rotate_left; (with_reducible apply acquire_frame_eq) <;> assumption; rfl)
      | (apply Frame.andThen; rotate_left; (with_reducible apply unstage_frame); rfl)
      | (apply Frame.andThen; rotate_left; (with_reducible apply updRch_frame); rfl) | ((with_reducible apply Frame.getD) <;> intros)
      | (split) | (dsimp only)

theorem releaseWeak_frame (w : Weak) (s : State) : Frame 0x20900 s (releaseWeak w s) := by
  unfold releaseWeak
  try dsimp only
  repeat' first
      | (with_reducible assumption) | (with_reducible exact Frame.refl _ _)
      | (apply Frame.andThen; rotate_left; (with_reducible apply settleBlocks_frame); rfl)
      | (apply Frame.andThen; rotate_left; (with_reducible apply unmapRange_frame); rfl)
      | (apply Frame.andThen; rotate_left; (with_reducible apply journalRec_frame); rfl)
      | (apply Frame.andThen; rotate_left; (with_reducible apply updRch_frame); rfl) | (split) | (dsimp only)

theorem takeWeakSlot_frame (s : State) {a_ : Nat} {s' : State} (h : takeWeakSlot s = some (a_, s')) : Frame 0x20900 s s' := by
  unfold takeWeakSlot at h
  split at h
  · cases h
  · split at h
    · cases h; exact Frame.refl _ _
    · cases e : s.rch.weak.find? (fun w => !weakHere s w) with
      | none => rw [e] at h; cases h
      | some w => rw [e] at h; cases h; exact releaseWeak_frame ..

theorem enterWeak_frame (p : Nat) (ds : Nat) (rung : Nat) (stream : Bytes) (s : State)
    : Frame 0x20900 s (enterWeak p ds rung stream s) := by
  unfold enterWeak
  try dsimp only
  repeat' first
      | (with_reducible assumption) | (with_reducible exact Frame.refl _ _)
      | (apply Frame.andThen; rotate_left; (with_reducible apply inc_frame); rfl)
      | (apply Frame.andThen; rotate_left; (with_reducible apply takeWeakSlot_frame) <;> assumption; rfl)
      | (apply Frame.andThen; rotate_left; (with_reducible apply pumpAll_frame); rfl)
      | (apply Frame.andThen; rotate_left; (with_reducible apply storeUnits_frame); rfl)
      | (apply Frame.andThen; rotate_left; (with_reducible apply updRch_frame); rfl) | (split) | (dsimp only)

theorem withDsit_frame (p : Nat) (ds : Nat) (user : Bytes) (s : State) : Frame 0x220000 s (withDsit p ds user s).2 := by
  unfold withDsit
  try dsimp only
  repeat' first
      | (with_reducible assumption) | (with_reducible exact Frame.refl _ _)
      | (apply Frame.andThen; rotate_left; (with_reducible apply drawMany_frame); rfl)
      | (apply Frame.andThen; rotate_left; (with_reducible apply inc_frame); rfl) | (split) | (dsimp only)

theorem withDsit_frame_eq (p : Nat) (ds : Nat) (user : Bytes) (s : State) {a_ : Bytes} {s' : State} (h : withDsit p ds user s = (a_, s'))
    : Frame 0x220000 s s' := by
  have k := withDsit_frame p ds user s
  rwa [h] at k

theorem setLadder_frame (l : Option Ladder) (s : State) : Frame 0x100 s (setLadder l s) := by
  unfold setLadder
  try dsimp only
  repeat' first
      | (with_reducible assumption) | (with_reducible exact Frame.refl _ _)
      | (apply Frame.andThen; rotate_left; (with_reducible apply updRch_frame); rfl) | (split) | (dsimp only)

theorem passOver_frame (p : Nat) (ds : Nat) (speed : Nat) (s : State) : Frame 0x2c000 s (passOver p ds speed s) := by
  unfold passOver
  try dsimp only
  repeat' first
      | (with_reducible assumption) | (with_reducible exact Frame.refl _ _)
      | (apply Frame.andThen; rotate_left; (with_reducible apply sendTape_frame); rfl) | (split) | (dsimp only)

theorem sendOffset_frame (nm : Int) (s : State) : Frame 0x2c000 s (sendOffset nm s) := by
  unfold sendOffset
  try dsimp only
  repeat' first
      | (with_reducible assumption) | (with_reducible exact Frame.refl _ _)
      | (apply Frame.andThen; rotate_left; (with_reducible apply post_frame); rfl) | (split) | (dsimp only)

theorem restoreSpeed_frame (s : State) : Frame 0x2c000 s (restoreSpeed s) := by
  unfold restoreSpeed
  try dsimp only
  repeat' first
      | (with_reducible assumption) | (with_reducible exact Frame.refl _ _)
      | (apply Frame.andThen; rotate_left; (with_reducible apply post_frame); rfl) | (split) | (dsimp only)

theorem serveFails_frame (p : Nat) (ds : Nat) (s : State) : Frame 0x1000 s (serveFails p ds s) := by
  unfold serveFails
  try dsimp only
  repeat' first
      | (with_reducible assumption) | (with_reducible exact Frame.refl _ _) | (split) | (dsimp only)
      | ((with_reducible apply Frame.set_yrd); rotate_left; rfl)

theorem ladderFailed_frame (l : Ladder) (s0 : State) : Frame 0x25112 s0 (ladderFailed l s0) := by
  unfold ladderFailed
  try dsimp only
  repeat' first
      | (with_reducible assumption) | (with_reducible exact Frame.refl _ _)
      | (apply Frame.andThen; rotate_left; (with_reducible apply setLadder_frame); rfl)
      | (apply Frame.andThen; rotate_left; (with_reducible apply serveFails_frame); rfl)
      | (apply Frame.andThen; rotate_left; (with_reducible apply postEvent_frame); rfl)
      | (apply Frame.andThen; rotate_left; (with_reducible apply stopRead_frame); rfl)
      | (apply Frame.andThen; rotate_left; (with_reducible apply complete_frame); rfl)
      | (apply Frame.andThen; rotate_left; (with_reducible apply inc_frame); rfl)
      | (apply Frame.andThen; rotate_left; (with_reducible apply updRch_frame); rfl)
      | (with_reducible refine Frame.each _ ?_ (fun _ _ => ?_)) | (split) | (dsimp only)

theorem toYard_frame (l : Ladder) (s0 : State) : Frame 0x2d112 s0 (toYard l s0) := by
  unfold toYard
  try dsimp only
  repeat' first
      | (with_reducible assumption) | (with_reducible exact Frame.refl _ _)
      | (apply Frame.andThen; rotate_left; (with_reducible apply setLadder_frame); rfl)
      | (apply Frame.andThen; rotate_left; (with_reducible apply ladderFailed_frame); rfl)
      | (apply Frame.andThen; rotate_left; (with_reducible apply serveFails_frame); rfl)
      | (apply Frame.andThen; rotate_left; (with_reducible apply postEvent_frame); rfl)
      | (apply Frame.andThen; rotate_left; (with_reducible apply post_frame); rfl)
      | (apply Frame.andThen; rotate_left; (with_reducible apply updRch_frame); rfl) | (split) | (dsimp only)

theorem toLoft_frame (l : Ladder) (s : State) : Frame 0x2d112 s (toLoft l s) := by
  unfold toLoft
  try dsimp only
  repeat' first
      | (with_reducible assumption) | (with_reducible exact Frame.refl _ _)
      | (apply Frame.andThen; rotate_left; (with_reducible apply setLadder_frame); rfl)
      | (apply Frame.andThen; rotate_left; (with_reducible apply passOver_frame); rfl)
      | (apply Frame.andThen; rotate_left; (with_reducible apply toYard_frame); rfl) | (split) | (dsimp only)

theorem toPlacements_frame (l : Ladder) (s : State) : Frame 0x2d112 s (toPlacements l s) := by
  unfold toPlacements
  try dsimp only
  repeat' first
      | (with_reducible assumption) | (with_reducible exact Frame.refl _ _)
      | (apply Frame.andThen; rotate_left; (with_reducible apply setLadder_frame); rfl)
      | (apply Frame.andThen; rotate_left; (with_reducible apply toLoft_frame); rfl)
      | (apply Frame.andThen; rotate_left; (with_reducible apply passOver_frame); rfl)
      | (with_reducible refine Frame.each _ ?_ (fun _ _ => ?_)) | (split) | (dsimp only)

theorem slowPass_frame (l : Ladder) (k : Nat) (s : State) : Frame 0x2c100 s (slowPass l k s) := by
  unfold slowPass
  try dsimp only
  repeat' first
      | (with_reducible assumption) | (with_reducible exact Frame.refl _ _)
      | (apply Frame.andThen; rotate_left; (with_reducible apply setLadder_frame); rfl)
      | (apply Frame.andThen; rotate_left; (with_reducible apply passOver_frame); rfl)
      | (apply Frame.andThen; rotate_left; (with_reducible apply loadTaps_frame); rfl)
      | (apply Frame.andThen; rotate_left; (with_reducible apply sendOffset_frame); rfl) | (split) | (dsimp only)

theorem rereadPass_frame (l : Ladder) (k : Nat) (s : State) : Frame 0x2c100 s (rereadPass l k s) := by
  unfold rereadPass
  try dsimp only
  repeat' first
      | (with_reducible assumption) | (with_reducible exact Frame.refl _ _)
      | (apply Frame.andThen; rotate_left; (with_reducible apply setLadder_frame); rfl)
      | (apply Frame.andThen; rotate_left; (with_reducible apply passOver_frame); rfl) | (split) | (dsimp only)

theorem startLadder_frame (p : Nat) (ds : Nat) (pool : AMap SdsPool) (s : State) : Frame 0x2c110 s (startLadder p ds pool s) := by
  unfold startLadder
  try dsimp only
  repeat' first
      | (with_reducible assumption) | (with_reducible exact Frame.refl _ _)
      | (apply Frame.andThen; rotate_left; (with_reducible apply rereadPass_frame); rfl)
      | (apply Frame.andThen; rotate_left; (with_reducible apply postEvent_frame); rfl)
      | (apply Frame.andThen; rotate_left; (with_reducible apply slowPass_frame); rfl)
      | (apply Frame.andThen; rotate_left; (with_reducible apply unstage_frame); rfl)
      | (apply Frame.andThen; rotate_left; (with_reducible apply updRch_frame); rfl) | (split) | (dsimp only)

theorem leaveRung_frame (st : LadderSt) (s : State) : Frame 0x2c000 s (leaveRung st s) := by
  unfold leaveRung
  try dsimp only
  repeat' first
      | (with_reducible assumption) | (with_reducible exact Frame.refl _ _)
      | (apply Frame.andThen; rotate_left; (with_reducible apply restoreSpeed_frame); rfl)
      | (apply Frame.andThen; rotate_left; (with_reducible apply sendOffset_frame); rfl) | (split) | (dsimp only)

theorem ladderDone_frame (l : Ladder) (decoder : Nat) (stream : Bytes) (s : State) : Frame 0x2c910 s (ladderDone l decoder stream s) := by
  unfold ladderDone
  try dsimp only
  repeat' first
      | (with_reducible assumption) | (with_reducible exact Frame.refl _ _)
      | (apply Frame.andThen; rotate_left; (with_reducible apply setLadder_frame); rfl)
      | (apply Frame.andThen; rotate_left; (with_reducible apply enterWeak_frame); rfl)
      | (apply Frame.andThen; rotate_left; (with_reducible apply inc_frame); rfl)
      | (apply Frame.andThen; rotate_left; (with_reducible apply stage_frame); rfl)
      | (apply Frame.andThen; rotate_left; (with_reducible apply leaveRung_frame); rfl)
      | (apply Frame.andThen; rotate_left; (with_reducible apply updRch_frame); rfl) | (split) | (dsimp only)

theorem ladderNext_frame (l : Ladder) (s : State) : Frame 0x2d112 s (ladderNext l s) := by
  unfold ladderNext
  try dsimp only
  repeat' first
      | (with_reducible assumption) | (with_reducible exact Frame.refl _ _)
      | (apply Frame.andThen; rotate_left; (with_reducible apply rereadPass_frame); rfl)
      | (apply Frame.andThen; rotate_left; (with_reducible apply ladderFailed_frame); rfl)
      | (apply Frame.andThen; rotate_left; (with_reducible apply toLoft_frame); rfl)
      | (apply Frame.andThen; rotate_left; (with_reducible apply slowPass_frame); rfl)
      | (apply Frame.andThen; rotate_left; (with_reducible apply leaveRung_frame); rfl)
      | (apply Frame.andThen; rotate_left; (with_reducible apply toYard_frame); rfl)
      | (apply Frame.andThen; rotate_left; (with_reducible apply toPlacements_frame); rfl) | (split) | (dsimp only)

theorem ladderIdle_frame (l : Ladder) (s : State) : Frame 0x2c100 s (ladderIdle l s) := by
  unfold ladderIdle
  try dsimp only
  repeat' first
      | (with_reducible assumption) | (with_reducible exact Frame.refl _ _)
      | (apply Frame.andThen; rotate_left; (with_reducible apply setLadder_frame); rfl)
      | (apply Frame.andThen; rotate_left; (with_reducible apply leaveRung_frame); rfl)
      | (apply Frame.andThen; rotate_left; (with_reducible apply updRch_frame); rfl) | (split) | (dsimp only)

theorem attempt_frame (p : Nat) (ds : Nat) (pool : AMap SdsPool) (s : State) : Frame 0x20000 s (attempt p ds pool s).2.2 := by
  unfold attempt
  try dsimp only
  repeat' first
      | (with_reducible assumption) | (with_reducible exact Frame.refl _ _)
      | (apply Frame.andThen; rotate_left; (with_reducible apply inc_frame); rfl) | (split) | (dsimp only)

theorem attempt_frame_eq (p : Nat) (ds : Nat) (pool : AMap SdsPool) (s : State) {a_ : Option Bytes} {b_ : AMap SdsPool} {s' : State}
    (h : attempt p ds pool s = (a_, b_, s'))
    : Frame 0x20000 s s' := by
  have k := attempt_frame p ds pool s
  rwa [h] at k

theorem keepAhead_frame (p : Nat) (ds : Nat) (b : Bytes) (s : State) : Frame 0x100 s (keepAhead p ds b s) := by
  unfold keepAhead
  try dsimp only
  repeat' first
      | (with_reducible assumption) | (with_reducible exact Frame.refl _ _)
      | (apply Frame.andThen; rotate_left; (with_reducible apply updRch_frame); rfl) | (split) | (dsimp only)

theorem decodedOk_frame (decoder : Nat) (p : Nat) (ds : Nat) (weak : Bool) (b : Bytes) (s : State)
    : Frame 0x24910 s (decodedOk decoder p ds weak b s) := by
  unfold decodedOk
  try dsimp only
  repeat' first
      | (with_reducible assumption) | (with_reducible exact Frame.refl _ _)
      | (apply Frame.andThen; rotate_left; (with_reducible apply keepAhead_frame); rfl)
      | (apply Frame.andThen; rotate_left; (with_reducible apply enterWeak_frame); rfl)
      | (apply Frame.andThen; rotate_left; (with_reducible apply inc_frame); rfl)
      | (apply Frame.andThen; rotate_left; (with_reducible apply stage_frame); rfl)
      | (apply Frame.andThen; rotate_left; (with_reducible apply updRch_frame); rfl) | (split) | (dsimp only)

theorem freeDecoder_frame (d : Nat) (s : State) : Frame 0x100 s (freeDecoder d s) := by
  unfold freeDecoder
  try dsimp only
  repeat' first
      | (with_reducible assumption) | (with_reducible exact Frame.refl _ _)
      | (apply Frame.andThen; rotate_left; (with_reducible apply updRch_frame); rfl) | (split) | (dsimp only)

theorem execDataSetDecoded_frame (res : DecodeRes) (s : State) : FrameOut 0x2c910 s (execDataSetDecoded res s) := by
  unfold execDataSetDecoded
  try dsimp only
  repeat' first
      | (with_reducible refine FrameOut.go ?_) | (with_reducible assumption) | (with_reducible exact Frame.refl _ _)
      | (apply Frame.andThen; rotate_left; (with_reducible apply attempt_frame); rfl)
      | (apply Frame.andThen; rotate_left; (with_reducible apply attempt_frame_eq) <;> assumption; rfl)
      | (apply Frame.andThen; rotate_left; (with_reducible apply decodeRows_frame); rfl)
      | (apply Frame.andThen; rotate_left; (with_reducible apply decodeRows_frame_eq) <;> assumption; rfl)
      | (apply Frame.andThen; rotate_left; (with_reducible apply startLadder_frame); rfl)
      | (apply Frame.andThen; rotate_left; (with_reducible apply decodedOk_frame); rfl)
      | (apply Frame.andThen; rotate_left; (with_reducible apply freeDecoder_frame); rfl)
      | (with_reducible refine Frame.each _ ?_ (fun _ _ => ?_)) | (split) | (dsimp only)

theorem readMembers_frame (p : Nat) (l : Nat) (x2 : List (Nat × List RowRead)) (x3 : State)
    : Frame 0x20100 x3 (readMembers p l x2 x3).2 := by
  fun_induction readMembers p l x2 x3 <;> try dsimp +zetaDelta only
  all_goals
  repeat' first
      | (with_reducible assumption) | (with_reducible exact Frame.refl _ _)
      | (apply Frame.andThen; rotate_left; (with_reducible apply attempt_frame); rfl)
      | (apply Frame.andThen; rotate_left; (with_reducible apply attempt_frame_eq) <;> assumption; rfl)
      | (apply Frame.andThen; rotate_left; (with_reducible apply decodeRows_frame); rfl)
      | (apply Frame.andThen; rotate_left; (with_reducible apply decodeRows_frame_eq) <;> assumption; rfl)
      | (apply Frame.andThen; rotate_left; (with_reducible apply inc_frame); rfl) | (apply Frame.andThen; rotate_left; assumption; rfl)
      | (split) | (dsimp only)

theorem readMembers_frame_eq (p : Nat) (l : Nat) (x2 : List (Nat × List RowRead)) (x3 : State) {a_ : List (Nat × AMap SdsPool)}
    {s' : State} (h : readMembers p l x2 x3 = (a_, s'))
    : Frame 0x20100 x3 s' := by
  have k := readMembers_frame p l x2 x3
  rwa [h] at k

theorem loftRung_frame (l : Ladder) (decoder : Nat) (others : List (Nat × List RowRead)) (s : State)
    : Frame 0x22d912 s (loftRung l decoder others s) := by
  unfold loftRung
  try dsimp only
  repeat' first
      | (with_reducible assumption) | (with_reducible exact Frame.refl _ _)
      | (apply Frame.andThen; rotate_left; (with_reducible apply readMembers_frame); rfl)
      | (apply Frame.andThen; rotate_left; (with_reducible apply readMembers_frame_eq) <;> assumption; rfl)
      | (apply Frame.andThen; rotate_left; (with_reducible apply ladderNext_frame); rfl)
      | (apply Frame.andThen; rotate_left; (with_reducible apply ladderDone_frame); rfl)
      | (apply Frame.andThen; rotate_left; (with_reducible apply inc_frame); rfl)
      | (apply Frame.andThen; rotate_left; (with_reducible apply withDsit_frame); rfl)
      | (apply Frame.andThen; rotate_left; (with_reducible apply withDsit_frame_eq) <;> assumption; rfl) | (split) | (dsimp only)

theorem afterAttempt_frame (l : Ladder) (decoder : Nat) (stream : Option Bytes) (pool : AMap SdsPool) (s : State)
    : Frame 0x2d912 s (afterAttempt l decoder stream pool s) := by
  unfold afterAttempt
  try dsimp only
  repeat' first
      | (with_reducible assumption) | (with_reducible exact Frame.refl _ _)
      | (apply Frame.andThen; rotate_left; (with_reducible apply ladderNext_frame); rfl)
      | (apply Frame.andThen; rotate_left; (with_reducible apply ladderDone_frame); rfl) | (split) | (dsimp only)

theorem execLadderPassResult_frame (res : DecodeRes) (s : State) : FrameOut 0x22d912 s (execLadderPassResult res s) := by
  unfold execLadderPassResult
  try dsimp only
  repeat' first
      | (with_reducible refine FrameOut.go ?_) | (with_reducible assumption) | (with_reducible exact Frame.refl _ _)
      | (apply Frame.andThen; rotate_left; (with_reducible apply attempt_frame); rfl)
      | (apply Frame.andThen; rotate_left; (with_reducible apply attempt_frame_eq) <;> assumption; rfl)
      | (apply Frame.andThen; rotate_left; (with_reducible apply decodeRows_frame); rfl)
      | (apply Frame.andThen; rotate_left; (with_reducible apply decodeRows_frame_eq) <;> assumption; rfl)
      | (apply Frame.andThen; rotate_left; (with_reducible apply ladderIdle_frame); rfl)
      | (apply Frame.andThen; rotate_left; (with_reducible apply freeDecoder_frame); rfl)
      | (apply Frame.andThen; rotate_left; (with_reducible apply afterAttempt_frame); rfl)
      | (apply Frame.andThen; rotate_left; (with_reducible apply loftRung_frame); rfl) | (split) | (dsimp only)

theorem execYardWaitExpiry_frame (s : State) : FrameOut 0x25112 s (execYardWaitExpiry s) := by
  unfold execYardWaitExpiry
  try dsimp only
  repeat' first
      | (with_reducible refine FrameOut.go ?_) | (with_reducible assumption) | (with_reducible exact Frame.refl _ _)
      | (apply Frame.andThen; rotate_left; (with_reducible apply ladderFailed_frame); rfl) | (split) | (dsimp only)

theorem yardAnswers_frame (data : Option Bytes) (s : State) : Frame 0x22d912 s (yardAnswers data s) := by
  unfold yardAnswers
  try dsimp only
  repeat' first
      | (with_reducible assumption) | (with_reducible exact Frame.refl _ _)
      | (apply Frame.andThen; rotate_left; (with_reducible apply ladderFailed_frame); rfl)
      | (apply Frame.andThen; rotate_left; (with_reducible apply ladderDone_frame); rfl)
      | (apply Frame.andThen; rotate_left; (with_reducible apply inc_frame); rfl)
      | (apply Frame.andThen; rotate_left; (with_reducible apply withDsit_frame); rfl)
      | (apply Frame.andThen; rotate_left; (with_reducible apply withDsit_frame_eq) <;> assumption; rfl) | (split) | (dsimp only)

theorem execReadAheadStart_frame (part : Nat) (s : State) : FrameOut 0x100 s (execReadAheadStart part s) := by
  unfold execReadAheadStart
  try dsimp only
  repeat' first
      | (with_reducible refine FrameOut.go ?_) | (with_reducible assumption) | (with_reducible exact Frame.refl _ _)
      | (apply Frame.andThen; rotate_left; (with_reducible apply updRch_frame); rfl) | (split) | (dsimp only)

theorem dropWeak_frame (p : Nat) (ds : Nat) (s : State) : Frame 0x20900 s (dropWeak p ds s) := by
  unfold dropWeak
  try dsimp only
  repeat' first
      | (with_reducible assumption) | (with_reducible exact Frame.refl _ _)
      | (apply Frame.andThen; rotate_left; (with_reducible apply releaseWeak_frame); rfl) | (split) | (dsimp only)

theorem miscorrected_frame (p : Nat) (ds : Nat) (s : State) : Frame 0x2d912 s (miscorrected p ds s) := by
  unfold miscorrected
  try dsimp only
  repeat' first
      | (with_reducible assumption) | (with_reducible exact Frame.refl _ _)
      | (apply Frame.andThen; rotate_left; (with_reducible apply startLadder_frame); rfl)
      | (apply Frame.andThen; rotate_left; (with_reducible apply ladderNext_frame); rfl)
      | (apply Frame.andThen; rotate_left; (with_reducible apply dropWeak_frame); rfl)
      | (apply Frame.andThen; rotate_left; (with_reducible apply unstage_frame); rfl) | (split) | (dsimp only)

theorem execReadDecrypt_frame (seq : Nat) (s : State) : FrameOut 0x6db56 s (execReadDecrypt seq s) := by
  unfold execReadDecrypt
  try dsimp only
  repeat' first
      | (with_reducible refine FrameOut.go ?_) | (with_reducible assumption) | (with_reducible exact Frame.refl _ _)
      | (apply Frame.andThen; rotate_left; (with_reducible apply miscorrected_frame); rfl)
      | (apply Frame.andThen; rotate_left; (with_reducible apply readStep_frame); rfl)
      | (apply Frame.andThen; rotate_left; (with_reducible apply readStep_frame_eq) <;> assumption; rfl) | (split) | (dsimp only)

theorem execDecompressionDone_frame (engine : Nat) (s : State) : FrameOut 0x64036 s (execDecompressionDone engine s) := by
  unfold execDecompressionDone
  try dsimp only
  repeat' first
      | (with_reducible refine FrameOut.go ?_) | (with_reducible assumption) | (with_reducible exact Frame.refl _ _)
      | (apply Frame.andThen; rotate_left; (with_reducible apply postEvent_frame); rfl)
      | (apply Frame.andThen; rotate_left; (with_reducible apply stopRead_frame); rfl)
      | (apply Frame.andThen; rotate_left; (with_reducible apply setEngine_frame); rfl)
      | (apply Frame.andThen; rotate_left; (with_reducible apply inc_frame); rfl)
      | (apply Frame.andThen; rotate_left; (with_reducible apply updCmd_frame); rfl)
      | (apply Frame.andThen; rotate_left; (with_reducible apply deliver_frame); rfl) | (split) | (dsimp only)
      | ((with_reducible apply Frame.set_cmp); rotate_left; rfl)

theorem landingBlock_frame_plain (seq : Nat) (n : Nat) (s : State) {a_ : Bytes} {s' : State} (h : landingBlock seq n s = .plain a_ s')
    : Frame 0x20040 s s' := by
  unfold landingBlock at h
  try dsimp only at h
  repeat' split at h
  all_goals try cases h
  all_goals
  repeat' first
      | (with_reducible assumption) | (with_reducible exact Frame.refl _ _)
      | (apply Frame.andThen; rotate_left; (with_reducible apply readKey_frame); rfl)
      | (apply Frame.andThen; rotate_left; (with_reducible apply readKey_frame_eq) <;> assumption; rfl)
      | (apply Frame.andThen; rotate_left; (with_reducible apply inc_frame); rfl) | (split) | (dsimp only)

theorem landingBlock_frame_fails (seq : Nat) (n : Nat) (s : State) {a_ : Nat} {s' : State} (h : landingBlock seq n s = .fails a_ s')
    : Frame 0x20040 s s' := by
  unfold landingBlock at h
  try dsimp only at h
  repeat' split at h
  all_goals try cases h
  all_goals
  repeat' first
      | (with_reducible assumption) | (with_reducible exact Frame.refl _ _)
      | (apply Frame.andThen; rotate_left; (with_reducible apply readKey_frame); rfl)
      | (apply Frame.andThen; rotate_left; (with_reducible apply readKey_frame_eq) <;> assumption; rfl)
      | (apply Frame.andThen; rotate_left; (with_reducible apply inc_frame); rfl) | (split) | (dsimp only)

theorem landingUnits_frame (seq : Nat) (slot : Nat) (gen : Nat) (label : Nat) (key : Bytes) (x5 : Nat) (x6 : Nat) (x7 : List Bytes)
    (x8 : State)
    : Frame 0x800 x8 (landingUnits seq slot gen label key x5 x6 x7 x8) := by
  fun_induction landingUnits seq slot gen label key x5 x6 x7 x8 <;> try dsimp +zetaDelta only
  all_goals
  repeat' first
      | (with_reducible assumption) | (with_reducible exact Frame.refl _ _)
      | (apply Frame.andThen; rotate_left; (with_reducible apply queueUnit_frame); rfl)
      | (apply Frame.andThen; rotate_left; assumption; rfl) | (split) | (dsimp only)

theorem beginLanding_frame (c : Cmd) (blocks : List Bytes) (s : State) : Frame 0x20842 s (beginLanding c blocks s) := by
  unfold beginLanding
  try dsimp only
  repeat' first
      | (with_reducible assumption) | (with_reducible exact Frame.refl _ _)
      | (apply Frame.andThen; rotate_left; (with_reducible apply landingUnits_frame); rfl)
      | (apply Frame.andThen; rotate_left; (with_reducible apply setSt_frame); rfl)
      | (apply Frame.andThen; rotate_left; (with_reducible apply complete_frame); rfl)
      | (apply Frame.andThen; rotate_left; (with_reducible apply bindKey_frame_bound) <;> assumption; rfl)
      | (apply Frame.andThen; rotate_left; (with_reducible apply bindKey_frame_exhausted) <;> assumption; rfl)
      | (apply Frame.andThen; rotate_left; (with_reducible apply pumpAll_frame); rfl) | ((with_reducible apply Frame.getD) <;> intros)
      | (split) | (dsimp only)

theorem execWriteLanding_frame (seq : Nat) (sgl : Bytes) (blocks : List Bytes) (s : State)
    : FrameOut 0x20842 s (execWriteLanding seq sgl blocks s) := by
  unfold execWriteLanding
  try dsimp only
  repeat' first
      | (with_reducible refine FrameOut.go ?_) | (with_reducible assumption) | (with_reducible exact Frame.refl _ _)
      | (apply Frame.andThen; rotate_left; (with_reducible apply beginLanding_frame); rfl)
      | (apply Frame.andThen; rotate_left; (with_reducible apply complete_frame); rfl)
      | (apply Frame.andThen; rotate_left; (with_reducible apply updCmd_frame); rfl) | (split) | (dsimp only)

theorem readBlocks_frame (c : Cmd) (sgl : List ScatterElem) (x2 : Nat) (x3 : Nat) (x4 : State)
    : Frame 0x60042 x4 (readBlocks c sgl x2 x3 x4) := by
  fun_induction readBlocks c sgl x2 x3 x4 <;> try dsimp +zetaDelta only
  all_goals
  repeat' first
      | (with_reducible assumption) | (with_reducible exact Frame.refl _ _)
      | (apply Frame.andThen; rotate_left; (with_reducible apply complete_frame); rfl)
      | (apply Frame.andThen; rotate_left; (with_reducible apply landingBlock_frame_plain) <;> assumption; rfl)
      | (apply Frame.andThen; rotate_left; (with_reducible apply landingBlock_frame_fails) <;> assumption; rfl)
      | (apply Frame.andThen; rotate_left; (with_reducible apply sglWrite_frame); rfl) | (apply Frame.andThen; rotate_left; assumption; rfl)
      | (split) | (dsimp only)

theorem execReadLanding_frame (seq : Nat) (sgl : Bytes) (s : State) : FrameOut 0x60042 s (execReadLanding seq sgl s) := by
  unfold execReadLanding
  try dsimp only
  repeat' first
      | (with_reducible refine FrameOut.go ?_) | (with_reducible assumption) | (with_reducible exact Frame.refl _ _)
      | (apply Frame.andThen; rotate_left; (with_reducible apply complete_frame); rfl)
      | (apply Frame.andThen; rotate_left; (with_reducible apply readBlocks_frame); rfl) | (split) | (dsimp only)

theorem execDiscardLanding_frame (seq : Nat) (s : State) : FrameOut 0x20802 s (execDiscardLanding seq s) := by
  unfold execDiscardLanding
  try dsimp only
  repeat' first
      | (with_reducible refine FrameOut.go ?_) | (with_reducible assumption) | (with_reducible exact Frame.refl _ _)
      | (apply Frame.andThen; rotate_left; (with_reducible apply settleBlocks_frame); rfl)
      | (apply Frame.andThen; rotate_left; (with_reducible apply unmapRange_frame); rfl)
      | (apply Frame.andThen; rotate_left; (with_reducible apply updShd_frame); rfl)
      | (apply Frame.andThen; rotate_left; (with_reducible apply journalRec_frame); rfl)
      | (apply Frame.andThen; rotate_left; (with_reducible apply complete_frame); rfl) | (split) | (dsimp only)

theorem layRecord_frame (seq first per j a k : Nat) (s : State) : FrameExc 0x220040 s (layRecord seq first per j a k s) := by
  induction k generalizing a s with
  | zero => exact ⟨fun _ _ h => by cases h; exact Frame.refl _ _, fun _ _ h => (by cases h)⟩
  | succ k ih =>
    have rest : ∀ u b, Frame 0x220040 s u → FrameExc 0x220040 s (match layRecord seq first per j (a + 65536) k u with
        | .ok (bs, s1) => .ok (b ++ bs, s1)
        | .error e => .error e) := by
      intro u b hu
      split
      · rename_i h0
        exact ⟨fun _ _ h => by cases h; exact hu.andThen ((ih ..).ok _ _ h0) rfl, fun _ _ h => (by cases h)⟩
      · rename_i h0
        exact ⟨fun _ _ h => (by cases h), fun _ _ h => by cases h; exact hu.andThen ((ih ..).error _ _ h0) rfl⟩
    have draw : Frame 0x220040 s (drawMany 65536 s) := (drawMany_frame 65536 s).mono rfl
    unfold layRecord
    dsimp only
    cases e : landingBlock seq (first + j * per + a / 65536) s with
    | unmapped => exact rest (drawMany 65536 s) (freeBytes s 65536) draw
    | plain b s1 => exact rest _ _ ((landingBlock_frame_plain (h := e) ..).mono rfl)
    | fails st s1 => exact ⟨fun _ _ h => (by cases h), fun _ _ h => by cases h; exact (landingBlock_frame_fails (h := e) ..).mono rfl⟩

theorem layRecords_frame (seq first per : Nat) (recs : List Rec) (j n : Nat) (s : State) :
    FrameExc 0x220040 s (layRecords seq first per recs j n s) := by
  induction n generalizing j s with
  | zero => exact ⟨fun _ _ h => by cases h; exact Frame.refl _ _, fun _ _ h => by cases h⟩
  | succ n ih =>
    unfold layRecords
    split
    · rename_i h0
      exact ⟨fun _ _ h => (by cases h), fun _ _ h => by cases h; exact ((layRecord_frame ..).error _ _ h0).mono rfl⟩
    · rename_i h0
      have f0 := (layRecord_frame ..).ok _ _ h0
      split
      · rename_i h1
        exact ⟨fun _ _ h => (by cases h), fun _ _ h => by cases h; exact f0.andThen ((ih ..).error _ _ h1) rfl⟩
      · rename_i h1
        exact ⟨fun _ _ h => by cases h; exact f0.andThen ((ih ..).ok _ _ h1) rfl, fun _ _ h => by cases h⟩

theorem layPacket_frame (w : Write) (first i : Nat) (k : Pkt) (s : State) : FrameExc 0x220040 s (layPacket w first i k s) := by
  unfold layPacket
  dsimp only
  split
  · split
    · rename_i h0
      exact ⟨fun _ _ h => by cases h; exact ((layRecord_frame ..).ok _ _ h0).mono rfl, fun _ _ h => by cases h⟩
    · rename_i h0
      exact ⟨fun _ _ h => (by cases h), fun _ _ h => by cases h; exact ((layRecord_frame ..).error _ _ h0).mono rfl⟩
  · exact ⟨fun _ _ h => ((layRecords_frame ..).ok _ _ h).mono rfl, fun _ _ h => ((layRecords_frame ..).error _ _ h).mono rfl⟩

theorem layPacket_frame_ok {w : Write} {first i : Nat} {k : Pkt} {s s' : State} {b : Bytes} (h : layPacket w first i k s = .ok (b, s')) :
    Frame 0x220040 s s' := (layPacket_frame ..).ok _ _ h

theorem layPacket_frame_err {w : Write} {first i : Nat} {k : Pkt} {s s' : State} {n : Nat} (h : layPacket w first i k s = .error (n, s')) :
    Frame 0x220040 s s' := (layPacket_frame ..).error _ _ h

theorem layFill_frame (first : Nat) (x1 : Nat) (x2 : Nat) (x3 : State) : Frame 0x224876 x3 (layFill first x1 x2 x3) := by
  fun_induction layFill first x1 x2 x3 <;> try dsimp +zetaDelta only
  all_goals
  repeat' first
      | (with_reducible assumption) | (with_reducible exact Frame.refl _ _)
      | (apply Frame.andThen; rotate_left; (with_reducible apply giveBack_frame); rfl)
      | (apply Frame.andThen; rotate_left; (with_reducible apply endWrite_frame); rfl)
      | (apply Frame.andThen; rotate_left; (with_reducible apply acquireOne_frame); rfl)
      | (apply Frame.andThen; rotate_left; (with_reducible apply acquireOne_frame_eq) <;> assumption; rfl)
      | (apply Frame.andThen; rotate_left; (with_reducible apply updWrite_frame); rfl)
      | (apply Frame.andThen; rotate_left; (with_reducible apply layPacket_frame_ok) <;> assumption; rfl)
      | (apply Frame.andThen; rotate_left; (with_reducible apply layPacket_frame_err) <;> assumption; rfl)
      | (apply Frame.andThen; rotate_left; assumption; rfl) | (split) | (dsimp only)

theorem layGoOn_frame (seq : Nat) (first : Nat) (s : State) : Frame 0x224876 s (layGoOn seq first s) := by
  unfold layGoOn
  try dsimp only
  repeat' first
      | (with_reducible assumption) | (with_reducible exact Frame.refl _ _)
      | (apply Frame.andThen; rotate_left; (with_reducible apply layFill_frame); rfl) | (split) | (dsimp only)

theorem execLayLanding_frame (seq : Nat) (s : State) : FrameOut 0x224876 s (execLayLanding seq s) := by
  unfold execLayLanding
  try dsimp only
  repeat' first
      | (with_reducible refine FrameOut.go ?_) | (with_reducible assumption) | (with_reducible exact Frame.refl _ _)
      | (apply Frame.andThen; rotate_left; (with_reducible apply beginWrite_frame); rfl)
      | (apply Frame.andThen; rotate_left; (with_reducible apply layGoOn_frame); rfl)
      | (apply Frame.andThen; rotate_left; (with_reducible apply complete_frame); rfl)
      | (apply Frame.andThen; rotate_left; (with_reducible apply admitWrite_frame); rfl)
      | (apply Frame.andThen; rotate_left; (with_reducible apply refuseWrite_frame); rfl) | (split) | (dsimp only)

theorem execKeyInject_frame (seq : Nat) (sgl : Bytes) (block : Bytes) (s : State) : FrameOut 0x20042 s (execKeyInject seq sgl block s) := by
  unfold execKeyInject
  try dsimp only
  repeat' first
      | (with_reducible refine FrameOut.go ?_) | (with_reducible assumption) | (with_reducible exact Frame.refl _ _)
      | (apply Frame.andThen; rotate_left; (with_reducible apply injectKey_frame); rfl)
      | (apply Frame.andThen; rotate_left; (with_reducible apply complete_frame); rfl) | (split) | (dsimp only)

theorem endErased_frame (slot : Nat) (s : State) : Frame 0x24876 s (endErased slot s) := by
  unfold endErased
  try dsimp only
  repeat' first
      | (with_reducible assumption) | (with_reducible exact Frame.refl _ _)
      | (apply Frame.andThen; rotate_left; (with_reducible apply unpinKey_frame); rfl)
      | (apply Frame.andThen; rotate_left; (with_reducible apply complete_frame); rfl)
      | (apply Frame.andThen; rotate_left; (with_reducible apply endWrite_frame); rfl)
      | (apply Frame.andThen; rotate_left; (with_reducible apply cancelLanding_frame); rfl)
      | (with_reducible refine Frame.each _ ?_ (fun _ _ => ?_)) | (split) | (dsimp only)

theorem execKeyErase_frame (seq : Nat) (s : State) : FrameOut 0x24876 s (execKeyErase seq s) := by
  unfold execKeyErase
  try dsimp only
  repeat' first
      | (with_reducible refine FrameOut.go ?_) | (with_reducible assumption) | (with_reducible exact Frame.refl _ _)
      | (apply Frame.andThen; rotate_left; (with_reducible apply setSt_frame); rfl)
      | (apply Frame.andThen; rotate_left; (with_reducible apply endErased_frame); rfl)
      | (apply Frame.andThen; rotate_left; (with_reducible apply eraseKey_frame); rfl)
      | (apply Frame.andThen; rotate_left; (with_reducible apply complete_frame); rfl) | (split) | (dsimp only)

theorem execKeyEraseNorDone_frame (slot : Nat) (s : State) : FrameOut 0x20042 s (execKeyEraseNorDone slot s) := by
  unfold execKeyEraseNorDone
  try dsimp only
  repeat' first
      | (with_reducible refine FrameOut.go ?_) | (with_reducible assumption) | (with_reducible exact Frame.refl _ _)
      | (apply Frame.andThen; rotate_left; (with_reducible apply eraseOldRecords_frame); rfl)
      | (apply Frame.andThen; rotate_left; (with_reducible apply complete_frame); rfl)
      | (apply Frame.andThen; rotate_left; (with_reducible apply setSlot_frame); rfl) | (split) | (dsimp only)

theorem execRetiringGenerationEnd_frame (slot : Nat) (s : State) : FrameOut 0x40 s (execRetiringGenerationEnd slot s) := by
  unfold execRetiringGenerationEnd
  try dsimp only
  repeat' first
      | (with_reducible refine FrameOut.go ?_) | (with_reducible assumption) | (with_reducible exact Frame.refl _ _)
      | (apply Frame.andThen; rotate_left; (with_reducible apply endRetiring_frame); rfl) | (split) | (dsimp only)

theorem execKeyQuery_frame (seq : Nat) (s : State) : FrameOut 0x20002 s (execKeyQuery seq s) := by
  unfold execKeyQuery
  try dsimp only
  repeat' first
      | (with_reducible refine FrameOut.go ?_) | (with_reducible assumption) | (with_reducible exact Frame.refl _ _)
      | (apply Frame.andThen; rotate_left; (with_reducible apply complete_frame); rfl) | (split) | (dsimp only)

theorem execGetTransportKey_frame (seq : Nat) (sgl : Bytes) (s : State) : FrameOut 0x60002 s (execGetTransportKey seq sgl s) := by
  unfold execGetTransportKey
  try dsimp only
  repeat' first
      | (with_reducible refine FrameOut.go ?_) | (with_reducible assumption) | (with_reducible exact Frame.refl _ _)
      | (apply Frame.andThen; rotate_left; (with_reducible apply complete_frame); rfl)
      | (apply Frame.andThen; rotate_left; (with_reducible apply sglWrite_frame); rfl) | (split) | (dsimp only)

theorem appendPacket_frame (p : Nat) (w : Write) (i : Nat) (k : Pkt) (s : State) : Frame 0x6 s (appendPacket p w i k s) := by
  unfold appendPacket
  try dsimp only
  repeat' first
      | (with_reducible assumption) | (with_reducible exact Frame.refl _ _)
      | (apply Frame.andThen; rotate_left; (with_reducible apply setPart_frame); rfl)
      | (apply Frame.andThen; rotate_left; (with_reducible apply updWrite_frame); rfl) | ((with_reducible apply Frame.getD) <;> intros)
      | (with_reducible refine Frame.each _ ?_ (fun _ _ => ?_)) | (split) | (dsimp only)

theorem openLoft_frame (p : Nat) (s : State) : Frame 0x24014 s (openLoft p s).2 := by
  unfold openLoft
  try dsimp only
  repeat' first
      | (with_reducible assumption) | (with_reducible exact Frame.refl _ _)
      | (apply Frame.andThen; rotate_left; (with_reducible apply acquireFrom_frame); rfl)
      | (apply Frame.andThen; rotate_left; (with_reducible apply acquireFrom_frame_eq) <;> assumption; rfl)
      | (apply Frame.andThen; rotate_left; (with_reducible apply updPart_frame); rfl) | (split) | (dsimp only)

theorem openLoft_frame_eq (p : Nat) (s : State) {a_ : Bool} {s' : State} (h : openLoft p s = (a_, s')) : Frame 0x24014 s s' := by
  have k := openLoft_frame p s
  rwa [h] at k

theorem loftReady_frame (p : Nat) (s : State) : Frame 0x24014 s (loftReady p s).2 := by
  unfold loftReady
  try dsimp only
  repeat' first
      | (with_reducible assumption) | (with_reducible exact Frame.refl _ _)
      | (apply Frame.andThen; rotate_left; (with_reducible apply openLoft_frame); rfl)
      | (apply Frame.andThen; rotate_left; (with_reducible apply openLoft_frame_eq) <;> assumption; rfl) | (split) | (dsimp only)

theorem loftReady_frame_eq (p : Nat) (s : State) {a_ : Bool} {s' : State} (h : loftReady p s = (a_, s')) : Frame 0x24014 s s' := by
  have k := loftReady_frame p s
  rwa [h] at k

theorem beginDs_frame (p : Nat) (s : State) : Frame 0x2c004 s (beginDs p s) := by
  unfold beginDs
  try dsimp only
  repeat' first
      | (with_reducible assumption) | (with_reducible exact Frame.refl _ _)
      | (apply Frame.andThen; rotate_left; (with_reducible apply updPart_frame); rfl)
      | (apply Frame.andThen; rotate_left; (with_reducible apply post_frame); rfl) | (split) | (dsimp only)

theorem fillUser_frame (p : Nat) (x1 : Nat) (x2 : State) : Frame 0x2c816 x2 (fillUser p x1 x2).2 := by
  fun_induction fillUser p x1 x2 <;> try dsimp +zetaDelta only
  all_goals
  repeat' first
      | (with_reducible assumption) | (with_reducible exact Frame.refl _ _)
      | (apply Frame.andThen; rotate_left; (with_reducible apply loftReady_frame); rfl)
      | (apply Frame.andThen; rotate_left; (with_reducible apply loftReady_frame_eq) <;> assumption; rfl)
      | (apply Frame.andThen; rotate_left; (with_reducible apply freeReturned_frame); rfl)
      | (apply Frame.andThen; rotate_left; (with_reducible apply appendPacket_frame); rfl)
      | (apply Frame.andThen; rotate_left; (with_reducible apply beginDs_frame); rfl) | (apply Frame.andThen; rotate_left; assumption; rfl)
      | (split) | (dsimp only)

theorem fillUser_frame_eq (p : Nat) (x1 : Nat) (x2 : State) {a_ : Bool} {s' : State} (h : fillUser p x1 x2 = (a_, s'))
    : Frame 0x2c816 x2 s' := by
  have k := fillUser_frame p x1 x2
  rwa [h] at k

theorem queueImage_frame (img : Image) (hs : List Handle) (s : State) : Frame 0x24090 s (queueImage img hs s) := by
  unfold queueImage
  try dsimp only
  repeat' first
      | (with_reducible assumption) | (with_reducible exact Frame.refl _ _)
      | (apply Frame.andThen; rotate_left; (with_reducible apply giveBack_frame); rfl)
      | (apply Frame.andThen; rotate_left; (with_reducible apply inc_frame); rfl) | (with_reducible refine Frame.each _ ?_ (fun _ _ => ?_))
      | (split) | (dsimp only) | ((with_reducible apply Frame.set_wrv); rotate_left; rfl)

theorem withStalls_frame {m : Nat} {f : List Handle → State → State} {s u : State} (h : Frame m s u)
    (sub : 0x24010 ||| m = m) (k : ∀ hs v, Frame m v (f hs v)) : Frame m s (withStalls f u) := by
  have step : ∀ v, Frame 0x24010 u v → Frame m s v := fun v hv => h.andThen hv (by rw [← sub, ← Nat.or_assoc]; rfl)
  unfold withStalls
  split
  · exact (step _ (acquire_frame_eq (h := by assumption) ..)).andThen (k _ _) (Nat.or_self m)
  · exact step _ (acquire_frame_eq (h := by assumption) ..)

theorem joinLoft_frame (p : Nat) (img : Image) (s : State) : Frame 0x4 s (joinLoft p img s) := by
  unfold joinLoft
  try dsimp only
  repeat' first
      | (with_reducible assumption) | (with_reducible exact Frame.refl _ _)
      | (apply Frame.andThen; rotate_left; (with_reducible apply updPart_frame); rfl) | (split) | (dsimp only)

theorem encodeUser_frame (p : Nat) (padded : Bool) (short : Bool) (hs : List Handle) (s : State)
    : Frame 0x2c094 s (encodeUser p padded short hs s) := by
  unfold encodeUser
  try dsimp only
  repeat' first
      | (with_reducible assumption) | (with_reducible exact Frame.refl _ _)
      | (apply Frame.andThen; rotate_left; (with_reducible apply queueImage_frame); rfl)
      | (apply Frame.andThen; rotate_left; (with_reducible apply updPart_frame); rfl)
      | (apply Frame.andThen; rotate_left; (with_reducible apply inc_frame); rfl)
      | (apply Frame.andThen; rotate_left; (with_reducible apply post_frame); rfl)
      | (apply Frame.andThen; rotate_left; (with_reducible apply joinLoft_frame); rfl)
      | (apply Frame.andThen; rotate_left; (with_reducible apply beginDs_frame); rfl) | (split) | (dsimp only)

theorem encodeParity_frame (p : Nat) (hs : List Handle) (s : State) : Frame 0x2c094 s (encodeParity p hs s) := by
  unfold encodeParity
  try dsimp only
  repeat' first
      | (with_reducible assumption) | (with_reducible exact Frame.refl _ _)
      | (apply Frame.andThen; rotate_left; (with_reducible apply queueImage_frame); rfl)
      | (apply Frame.andThen; rotate_left; (with_reducible apply openLoft_frame); rfl)
      | (apply Frame.andThen; rotate_left; (with_reducible apply openLoft_frame_eq) <;> assumption; rfl)
      | (apply Frame.andThen; rotate_left; (with_reducible apply giveBack_frame); rfl)
      | (apply Frame.andThen; rotate_left; (with_reducible apply updPart_frame); rfl)
      | (apply Frame.andThen; rotate_left; (with_reducible apply beginDs_frame); rfl)
      | (with_reducible refine Frame.each _ ?_ (fun _ _ => ?_)) | (split) | (dsimp only)

theorem encodeExtra_frame (p : Nat) (img : Image) (hs : List Handle) (s : State) : Frame 0x25094 s (encodeExtra p img hs s) := by
  unfold encodeExtra
  try dsimp only
  repeat' first
      | (with_reducible assumption) | (with_reducible exact Frame.refl _ _)
      | (apply Frame.andThen; rotate_left; (with_reducible apply queueImage_frame); rfl)
      | (apply Frame.andThen; rotate_left; (with_reducible apply loftReady_frame); rfl)
      | (apply Frame.andThen; rotate_left; (with_reducible apply loftReady_frame_eq) <;> assumption; rfl)
      | (apply Frame.andThen; rotate_left; (with_reducible apply giveBack_frame); rfl)
      | (apply Frame.andThen; rotate_left; (with_reducible apply updPart_frame); rfl)
      | (apply Frame.andThen; rotate_left; (with_reducible apply joinLoft_frame); rfl)
      | (with_reducible refine Frame.each _ ?_ (fun _ _ => ?_)) | (split) | (dsimp only)
      | ((with_reducible apply Frame.set_yrd); rotate_left; rfl)

theorem encodeNext_frame (p : Nat) (s : State) : Frame 0x2d896 s (encodeNext p s) := by
  unfold encodeNext
  try dsimp only
  repeat' first
      | (with_reducible assumption) | (with_reducible exact Frame.refl _ _)
      | (apply Frame.andThen; rotate_left; (with_reducible apply encodeExtra_frame); rfl)
      | (apply Frame.andThen; rotate_left; (with_reducible apply fillUser_frame); rfl)
      | (apply Frame.andThen; rotate_left; (with_reducible apply fillUser_frame_eq) <;> assumption; rfl)
      | (apply Frame.andThen; rotate_left; (with_reducible apply encodeUser_frame); rfl)
      | (apply Frame.andThen; rotate_left; (with_reducible apply encodeParity_frame); rfl)
      | ((with_reducible apply withStalls_frame); rotate_left; rfl; intros) | (with_reducible refine Frame.foldl_snd _ ?_ (fun _ _ => ?_))
      | (with_reducible refine Frame.foldl _ ?_ (fun _ _ => ?_)) | (split) | (dsimp only)

theorem execDataSetEncoded_frame (part : Nat) (s : State) : FrameOut 0x2d896 s (execDataSetEncoded part s) := by
  unfold execDataSetEncoded
  try dsimp only
  repeat' first
      | (with_reducible refine FrameOut.go ?_) | (with_reducible assumption) | (with_reducible exact Frame.refl _ _)
      | (apply Frame.andThen; rotate_left; (with_reducible apply encodeNext_frame); rfl) | (split) | (dsimp only)

theorem shutLoft_frame (p : Nat) (s : State) : Frame 0x20004 s (shutLoft p s) := by
  unfold shutLoft
  try dsimp only
  repeat' first
      | (with_reducible assumption) | (with_reducible exact Frame.refl _ _)
      | (apply Frame.andThen; rotate_left; (with_reducible apply setPart_frame); rfl)
      | (apply Frame.andThen; rotate_left; (with_reducible apply inc_frame); rfl) | (split) | (dsimp only)

theorem execLoftEarlyClose_frame (part : Nat) (s : State) : FrameOut 0x2c094 s (execLoftEarlyClose part s) := by
  unfold execLoftEarlyClose
  try dsimp only
  repeat' first
      | (with_reducible refine FrameOut.go ?_) | (with_reducible assumption) | (with_reducible exact Frame.refl _ _)
      | (apply Frame.andThen; rotate_left; (with_reducible apply encodeUser_frame); rfl)
      | ((with_reducible apply withStalls_frame); rotate_left; rfl; intros)
      | (apply Frame.andThen; rotate_left; (with_reducible apply shutLoft_frame); rfl) | (split) | (dsimp only)

theorem refreshLaid_frame (p : Nat) (s : State) : Frame 0x6 s (refreshLaid p s) := by
  unfold refreshLaid
  try dsimp only
  repeat' first
      | (with_reducible assumption) | (with_reducible exact Frame.refl _ _)
      | (apply Frame.andThen; rotate_left; (with_reducible apply refreshMarks_frame); rfl)
      | (apply Frame.andThen; rotate_left; (with_reducible apply setWrites_frame); rfl)
      | (with_reducible refine Frame.each _ ?_ (fun _ _ => ?_)) | (split) | (dsimp only)

theorem closeLoft_frame (p : Nat) (l : Nat) (s : State) : Frame 0x2c006 s (closeLoft p l s) := by
  unfold closeLoft
  try dsimp only
  repeat' first
      | (with_reducible assumption) | (with_reducible exact Frame.refl _ _)
      | (apply Frame.andThen; rotate_left; (with_reducible apply updPart_frame); rfl)
      | (apply Frame.andThen; rotate_left; (with_reducible apply post_frame); rfl)
      | (apply Frame.andThen; rotate_left; (with_reducible apply refreshLaid_frame); rfl)
      | (with_reducible refine Frame.each _ ?_ (fun _ _ => ?_)) | (split) | (dsimp only)

theorem execEarlyCloseRequest_frame (src : Nat) (arg : Nat) (s : State) : FrameOut 0x2c004 s (execEarlyCloseRequest src arg s) := by
  unfold execEarlyCloseRequest
  try dsimp only
  repeat' first
      | (with_reducible refine FrameOut.go ?_) | (with_reducible assumption) | (with_reducible exact Frame.refl _ _)
      | ((with_reducible apply boxTake_frame); rotate_left; rfl; intros)
      | (apply Frame.andThen; rotate_left; (with_reducible apply updPart_frame); rfl) | (split) | (dsimp only)

theorem execShedReturnReady_frame (src : Nat) (arg : Nat) (s : State) : FrameOut 0x2c816 s (execShedReturnReady src arg s) := by
  unfold execShedReturnReady
  try dsimp only
  repeat' first
      | (with_reducible refine FrameOut.go ?_) | (with_reducible assumption) | (with_reducible exact Frame.refl _ _)
      | ((with_reducible apply boxTake_frame); rotate_left; rfl; intros)
      | (apply Frame.andThen; rotate_left; (with_reducible apply fillUser_frame); rfl)
      | (apply Frame.andThen; rotate_left; (with_reducible apply fillUser_frame_eq) <;> assumption; rfl) | (split) | (dsimp only)

theorem execReallocateWeak_frame (src : Nat) (arg : Nat) (s : State) : FrameOut 0x2c004 s (execReallocateWeak src arg s) := by
  unfold execReallocateWeak
  try dsimp only
  repeat' first
      | (with_reducible refine FrameOut.go ?_) | (with_reducible assumption) | (with_reducible exact Frame.refl _ _)
      | ((with_reducible apply boxTake_frame); rotate_left; rfl; intros)
      | (apply Frame.andThen; rotate_left; (with_reducible apply updPart_frame); rfl) | ((with_reducible apply Frame.getD) <;> intros)
      | (split) | (dsimp only)

theorem execRebuiltDsReady_frame (src : Nat) (arg : Nat) (s : State) : FrameOut 0x2d004 s (execRebuiltDsReady src arg s) := by
  unfold execRebuiltDsReady
  try dsimp only
  repeat' first
      | (with_reducible refine FrameOut.go ?_) | (with_reducible assumption) | (with_reducible exact Frame.refl _ _)
      | ((with_reducible apply boxTake_frame); rotate_left; rfl; intros)
      | (apply Frame.andThen; rotate_left; (with_reducible apply updPart_frame); rfl) | (split) | (dsimp only)
      | ((with_reducible apply Frame.set_yrd); rotate_left; rfl)

theorem execYardParityReady_frame (src : Nat) (arg : Nat) (s : State) : FrameOut 0x2c004 s (execYardParityReady src arg s) := by
  unfold execYardParityReady
  try dsimp only
  repeat' first
      | (with_reducible refine FrameOut.go ?_) | (with_reducible assumption) | (with_reducible exact Frame.refl _ _)
      | ((with_reducible apply boxTake_frame); rotate_left; rfl; intros)
      | (apply Frame.andThen; rotate_left; (with_reducible apply updPart_frame); rfl) | (split) | (dsimp only)

theorem execFmtUnknownEvent_frame (src : Nat) (code : Nat) (arg : Nat) (s : State)
    : FrameOut 0x2c000 s (execFmtUnknownEvent src code arg s) := by
  unfold execFmtUnknownEvent
  try dsimp only
  repeat' first
      | (with_reducible refine FrameOut.go ?_) | (with_reducible assumption) | (with_reducible exact Frame.refl _ _)
      | ((with_reducible apply boxTake_frame); rotate_left; rfl; intros)
      | (apply Frame.andThen; rotate_left; (with_reducible apply inc_frame); rfl) | (split) | (dsimp only)

end Sys2Proof.Machine
end

