-- ==== Sys2Proof/Laws/FrameYard.lean ====
section
/-!
SUPPORT. What each operation leaves alone: the Yard. The number of a frame has one bit for each part of the state
that the operation may write (`Fld.idx`).
-/

namespace Sys2Proof.Machine

set_option linter.all false

theorem updYrd_frame (f : Yrd → Yrd) (s : State) : Frame 0x1000 s (updYrd f s) := by
  unfold updYrd
  try dsimp only
  repeat' first
      | (with_reducible assumption) | (with_reducible exact Frame.refl _ _) | (split) | (dsimp only)
      | ((with_reducible apply Frame.set_yrd); rotate_left; rfl)

theorem writeYardPage_frame (s : State) : Frame 0x81000 s (writeYardPage s) := by
  unfold writeYardPage
  try dsimp only
  repeat' first
      | (with_reducible assumption) | (with_reducible exact Frame.refl _ _)
      | (apply Frame.andThen; rotate_left; (with_reducible apply updYrd_frame); rfl)
      | (apply Frame.andThen; rotate_left; (with_reducible apply cmWrite_frame); rfl) | (split) | (dsimp only)

theorem sendOnce_frame (m : YMsg) (s : State) : Frame 0x22000 s (sendOnce m s) := by
  unfold sendOnce
  try dsimp only
  repeat' first
      | (with_reducible assumption) | (with_reducible exact Frame.refl _ _)
      | (apply Frame.andThen; rotate_left; (with_reducible apply fabSend_frame); rfl) | (split) | (dsimp only)

theorem sendMsg_frame (m : YMsg) (s : State) : Frame 0x23000 s (sendMsg m s) := by
  unfold sendMsg
  try dsimp only
  repeat' first
      | (with_reducible assumption) | (with_reducible exact Frame.refl _ _)
      | (apply Frame.andThen; rotate_left; (with_reducible apply updYrd_frame); rfl)
      | (apply Frame.andThen; rotate_left; (with_reducible apply sendOnce_frame); rfl) | (split) | (dsimp only)

theorem replied_frame (type : Nat) (stripe : Nat) (peer : Nat) (s : State) : Frame 0x1000 s (replied type stripe peer s) := by
  unfold replied
  try dsimp only
  repeat' first
      | (with_reducible assumption) | (with_reducible exact Frame.refl _ _)
      | (apply Frame.andThen; rotate_left; (with_reducible apply updYrd_frame); rfl) | (split) | (dsimp only)

theorem takeDelivered_frame (m : YMsg) (s : State) : Frame 0x26010 s (takeDelivered m s) := by
  unfold takeDelivered
  try dsimp only
  repeat' first
      | (with_reducible assumption) | (with_reducible exact Frame.refl _ _)
      | (apply Frame.andThen; rotate_left; (with_reducible apply updFab_frame); rfl)
      | (apply Frame.andThen; rotate_left; (with_reducible apply giveBack_frame); rfl) | (split) | (dsimp only)

theorem receive_frame {m : Nat} {type : Nat} {y : YMsg} {act : State → State} {s u : State} (h : Frame m s u)
    (sub : 0x27010 ||| m = m) (k : ∀ v, Frame m v (act v)) : FrameOut m s (receive type y act u) := by
  unfold receive
  dsimp only
  have step : ∀ (n : Nat) (a b c : State), Frame n b c → n ||| 0x27010 = 0x27010 → Frame m a b → Frame m a c :=
    fun n a b c hb hn ha => ha.andThen hb (by rw [← sub, ← Nat.or_assoc, hn])
  have t := step _ _ _ _ (takeDelivered_frame y u) rfl h
  split
  · exact FrameOut.go h
  · split
    · exact FrameOut.go (step _ _ _ _ (inc_frame ..) rfl t)
    · split
      · exact FrameOut.go (t.andThen (k _) (Nat.or_self m))
      · split
        · exact FrameOut.go (step _ _ _ _ (sendMsg_frame ..) rfl (step _ _ _ _ (inc_frame ..) rfl t))
        · exact FrameOut.go (step _ _ _ _ (sendMsg_frame ..) rfl (step _ _ _ _ (updYrd_frame ..) rfl t))

theorem sendSegments_frame (rework : Bool) (stripe : Nat) (slot : Nat) (role : Nat) (m : Nat) (user : Bytes) (segs : List Nat) (s : State)
    : Frame 0x23000 s (sendSegments rework stripe slot role m user segs s) := by
  unfold sendSegments
  try dsimp only
  repeat' first
      | (with_reducible assumption) | (with_reducible exact Frame.refl _ _)
      | (apply Frame.andThen; rotate_left; (with_reducible apply sendMsg_frame); rfl)
      | (with_reducible refine Frame.each _ ?_ (fun _ _ => ?_)) | (split) | (dsimp only)

theorem sendPartials_frame (rework : Bool) (stripe : Nat) (slot : Nat) (user : Bytes) (s : State)
    : Frame 0x23000 s (sendPartials rework stripe slot user s) := by
  unfold sendPartials
  try dsimp only
  repeat' first
      | (with_reducible assumption) | (with_reducible exact Frame.refl _ _)
      | (apply Frame.andThen; rotate_left; (with_reducible apply sendSegments_frame); rfl)
      | (with_reducible refine Frame.each _ ?_ (fun _ _ => ?_)) | (split) | (dsimp only)

theorem retainToShed_frame (part : Nat) (ds : Nat) (s : State) : Frame 0x25810 s (retainToShed part ds s) := by
  unfold retainToShed
  repeat' first
      | (with_reducible assumption) | (with_reducible exact Frame.refl _ _)
      | (apply Frame.andThen; rotate_left; (with_reducible apply updYrd_frame); rfl)
      | (apply Frame.andThen; rotate_left; (with_reducible apply giveBack_frame); rfl)
      | (apply Frame.andThen; rotate_left; (with_reducible apply pumpAll_frame); rfl)
      | (apply Frame.andThen; rotate_left; (with_reducible apply storeUnits_frame); rfl)
      | (with_reducible refine Frame.each _ ?_ (fun _ _ => ?_)) | (split) | (dsimp only)

theorem retain_frame (part : Nat) (ds : Nat) (stripe : Nat) (user : Bytes) (s : State)
    : Frame 0x25810 s (retain part ds stripe user s) := by
  unfold retain
  try dsimp only
  repeat' first
      | (with_reducible assumption) | (with_reducible exact Frame.refl _ _)
      | (apply Frame.andThen; rotate_left; (with_reducible apply updYrd_frame); rfl)
      | (apply Frame.andThen; rotate_left; (with_reducible apply acquire_frame); rfl)
      | (apply Frame.andThen; rotate_left; (with_reducible apply acquire_frame_eq) <;> assumption; rfl)
      | (apply Frame.andThen; rotate_left; (with_reducible apply retainToShed_frame); rfl) | ((with_reducible apply Frame.getD) <;> intros)
      | (split) | (dsimp only)

theorem dropRetain_frame (part : Nat) (ds : Nat) (s : State) : Frame 0x25810 s (dropRetain part ds s) := by
  unfold dropRetain
  try dsimp only
  repeat' first
      | (with_reducible assumption) | (with_reducible exact Frame.refl _ _)
      | (apply Frame.andThen; rotate_left; (with_reducible apply settleBlocks_frame); rfl)
      | (apply Frame.andThen; rotate_left; (with_reducible apply updYrd_frame); rfl)
      | (apply Frame.andThen; rotate_left; (with_reducible apply unmapRange_frame); rfl)
      | (apply Frame.andThen; rotate_left; (with_reducible apply giveBack_frame); rfl)
      | (with_reducible refine Frame.each _ ?_ (fun _ _ => ?_)) | (split) | (dsimp only)

theorem execRetainLow_frame (s : State) : FrameOut 0x25810 s (execRetainLow s) := by
  unfold execRetainLow
  try dsimp only
  repeat' first
      | (with_reducible refine FrameOut.go ?_) | (with_reducible assumption) | (with_reducible exact Frame.refl _ _)
      | (apply Frame.andThen; rotate_left; (with_reducible apply retainToShed_frame); rfl)
      | (with_reducible refine Frame.foldl_snd _ ?_ (fun _ _ => ?_)) | (with_reducible refine Frame.foldl _ ?_ (fun _ _ => ?_)) | (split)
      | (dsimp only)

theorem claimSlot_frame (part : Nat) (ds : Nat) (s : State) : Frame 0x23000 s (claimSlot part ds s) := by
  unfold claimSlot
  try dsimp only
  repeat' first
      | (with_reducible assumption) | (with_reducible exact Frame.refl _ _)
      | (apply Frame.andThen; rotate_left; (with_reducible apply updYrd_frame); rfl)
      | (apply Frame.andThen; rotate_left; (with_reducible apply sendMsg_frame); rfl) | (split) | (dsimp only)

theorem claimUnstriped_frame (s : State) : Frame 0x23000 s (claimUnstriped s) := by
  unfold claimUnstriped
  try dsimp only
  repeat' first
      | (with_reducible assumption) | (with_reducible exact Frame.refl _ _)
      | (apply Frame.andThen; rotate_left; (with_reducible apply claimSlot_frame); rfl)
      | (with_reducible refine Frame.each _ ?_ (fun _ _ => ?_)) | (split) | (dsimp only)

theorem execUnitAssemblyBegun_frame (src : Nat) (arg : Nat) (s : State) : FrameOut 0x2f000 s (execUnitAssemblyBegun src arg s) := by
  unfold execUnitAssemblyBegun
  try dsimp only
  repeat' first
      | (with_reducible refine FrameOut.go ?_) | (with_reducible assumption) | (with_reducible exact Frame.refl _ _)
      | (apply Frame.andThen; rotate_left; (with_reducible apply claimSlot_frame); rfl)
      | ((with_reducible apply boxTake_frame); rotate_left; rfl; intros) | (split) | (dsimp only)

theorem contribute_frame (part : Nat) (ds : Nat) (s : State) : Frame 0x23000 s (contribute part ds s) := by
  unfold contribute
  try dsimp only
  repeat' first
      | (with_reducible assumption) | (with_reducible exact Frame.refl _ _)
      | (apply Frame.andThen; rotate_left; (with_reducible apply sendPartials_frame); rfl)
      | (apply Frame.andThen; rotate_left; (with_reducible apply updYrd_frame); rfl) | (split) | (dsimp only)

theorem withdrawClaim_frame (part : Nat) (ds : Nat) (s : State) : Frame 0x23000 s (withdrawClaim part ds s) := by
  unfold withdrawClaim
  try dsimp only
  repeat' first
      | (with_reducible assumption) | (with_reducible exact Frame.refl _ _)
      | (apply Frame.andThen; rotate_left; (with_reducible apply updYrd_frame); rfl)
      | (apply Frame.andThen; rotate_left; (with_reducible apply sendMsg_frame); rfl) | (split) | (dsimp only)

theorem execUnitComplete_frame (src : Nat) (arg : Nat) (s : State) : FrameOut 0x2f810 s (execUnitComplete src arg s) := by
  unfold execUnitComplete
  try dsimp only
  repeat' first
      | (with_reducible refine FrameOut.go ?_) | (with_reducible assumption) | (with_reducible exact Frame.refl _ _)
      | (apply Frame.andThen; rotate_left; (with_reducible apply updYrd_frame); rfl)
      | ((with_reducible apply boxTake_frame); rotate_left; rfl; intros)
      | (apply Frame.andThen; rotate_left; (with_reducible apply retain_frame); rfl)
      | (apply Frame.andThen; rotate_left; (with_reducible apply inc_frame); rfl)
      | (apply Frame.andThen; rotate_left; (with_reducible apply claimUnstriped_frame); rfl)
      | (apply Frame.andThen; rotate_left; (with_reducible apply contribute_frame); rfl)
      | (apply Frame.andThen; rotate_left; (with_reducible apply withdrawClaim_frame); rfl) | (split) | (dsimp only)

theorem execClaimAck_frame (m : YMsg) (s : State) : FrameOut 0x2f010 s (execClaimAck m s) := by
  unfold execClaimAck
  try dsimp only
  repeat' first
      | (with_reducible refine FrameOut.go ?_) | (with_reducible assumption) | (with_reducible exact Frame.refl _ _)
      | (apply Frame.andThen; rotate_left; (with_reducible apply updYrd_frame); rfl)
      | (apply Frame.andThen; rotate_left; (with_reducible apply replied_frame); rfl)
      | (apply Frame.andThen; rotate_left; (with_reducible apply post_frame); rfl)
      | (apply Frame.andThen; rotate_left; (with_reducible apply contribute_frame); rfl)
      | ((with_reducible apply receive_frame); rotate_left; rfl; intros) | (split) | (dsimp only)

theorem execNullReq_frame (m : YMsg) (s : State) : FrameOut 0x27010 s (execNullReq m s) := by
  unfold execNullReq
  try dsimp only
  repeat' first
      | (with_reducible refine FrameOut.go ?_) | (with_reducible assumption) | (with_reducible exact Frame.refl _ _)
      | (apply Frame.andThen; rotate_left; (with_reducible apply updYrd_frame); rfl)
      | (apply Frame.andThen; rotate_left; (with_reducible apply sendMsg_frame); rfl)
      | (apply Frame.andThen; rotate_left; (with_reducible apply inc_frame); rfl)
      | ((with_reducible apply receive_frame); rotate_left; rfl; intros) | (split) | (dsimp only)

theorem updAccum_frame (stripe : Nat) (role : Nat) (f : Accum → Accum) (s : State) : Frame 0x1000 s (updAccum stripe role f s) := by
  unfold updAccum
  try dsimp only
  repeat' first
      | (with_reducible assumption) | (with_reducible exact Frame.refl _ _)
      | (apply Frame.andThen; rotate_left; (with_reducible apply updYrd_frame); rfl) | (split) | (dsimp only)

theorem freeAccum_frame (a : Accum) (s : State) : Frame 0x24010 s (freeAccum a s) := by
  unfold freeAccum
  try dsimp only
  repeat' first
      | (with_reducible assumption) | (with_reducible exact Frame.refl _ _)
      | (apply Frame.andThen; rotate_left; (with_reducible apply giveBack_frame); rfl)
      | (with_reducible refine Frame.each _ ?_ (fun _ _ => ?_)) | (split) | (dsimp only)

theorem openAccum_frame (stripe : Nat) (role : Nat) (s : State) : Frame 0x25010 s (openAccum stripe role s).2 := by
  unfold openAccum
  try dsimp only
  repeat' first
      | (with_reducible assumption) | (with_reducible exact Frame.refl _ _)
      | (apply Frame.andThen; rotate_left; (with_reducible apply updYrd_frame); rfl)
      | (apply Frame.andThen; rotate_left; (with_reducible apply acquire_frame); rfl)
      | (apply Frame.andThen; rotate_left; (with_reducible apply acquire_frame_eq) <;> assumption; rfl) | (split) | (dsimp only)

theorem openAccum_frame_eq (stripe : Nat) (role : Nat) (s : State) {a_ : Bool} {s' : State} (h : openAccum stripe role s = (a_, s'))
    : Frame 0x25010 s s' := by
  have k := openAccum_frame stripe role s
  rwa [h] at k

theorem toCoordinator_frame (type : Nat) (stripe : Nat) (role : Nat) (slot : Nat) (payload : Bytes) (s : State)
    : Frame 0x23000 s (toCoordinator type stripe role slot payload s) := by
  unfold toCoordinator
  try dsimp only
  repeat' first
      | (with_reducible assumption) | (with_reducible exact Frame.refl _ _)
      | (apply Frame.andThen; rotate_left; (with_reducible apply sendMsg_frame); rfl) | (split) | (dsimp only)

theorem execContrib_frame (m : YMsg) (s : State) : FrameOut 0x27010 s (execContrib m s) := by
  unfold execContrib
  try dsimp only
  repeat' first
      | (with_reducible refine FrameOut.go ?_) | (with_reducible assumption) | (with_reducible exact Frame.refl _ _)
      | (apply Frame.andThen; rotate_left; (with_reducible apply toCoordinator_frame); rfl)
      | (apply Frame.andThen; rotate_left; (with_reducible apply inc_frame); rfl)
      | (apply Frame.andThen; rotate_left; (with_reducible apply updAccum_frame); rfl)
      | ((with_reducible apply receive_frame); rotate_left; rfl; intros)
      | (apply Frame.andThen; rotate_left; (with_reducible apply openAccum_frame); rfl)
      | (apply Frame.andThen; rotate_left; (with_reducible apply openAccum_frame_eq) <;> assumption; rfl) | (split) | (dsimp only)

theorem execSealStripe_frame (m : YMsg) (s : State) : FrameOut 0x2f010 s (execSealStripe m s) := by
  unfold execSealStripe
  try dsimp only
  repeat' first
      | (with_reducible refine FrameOut.go ?_) | (with_reducible assumption) | (with_reducible exact Frame.refl _ _)
      | (apply Frame.andThen; rotate_left; (with_reducible apply updYrd_frame); rfl)
      | (apply Frame.andThen; rotate_left; (with_reducible apply post_frame); rfl)
      | (apply Frame.andThen; rotate_left; (with_reducible apply updAccum_frame); rfl)
      | ((with_reducible apply receive_frame); rotate_left; rfl; intros)
      | (apply Frame.andThen; rotate_left; (with_reducible apply openAccum_frame); rfl)
      | (apply Frame.andThen; rotate_left; (with_reducible apply openAccum_frame_eq) <;> assumption; rfl) | (split) | (dsimp only)

theorem execYardParityLaid_frame (src : Nat) (arg : Nat) (s : State) : FrameOut 0x2f010 s (execYardParityLaid src arg s) := by
  unfold execYardParityLaid
  try dsimp only
  repeat' first
      | (with_reducible refine FrameOut.go ?_) | (with_reducible assumption) | (with_reducible exact Frame.refl _ _)
      | (apply Frame.andThen; rotate_left; (with_reducible apply updYrd_frame); rfl)
      | (apply Frame.andThen; rotate_left; (with_reducible apply toCoordinator_frame); rfl)
      | ((with_reducible apply boxTake_frame); rotate_left; rfl; intros)
      | (apply Frame.andThen; rotate_left; (with_reducible apply freeAccum_frame); rfl) | ((with_reducible apply Frame.getD) <;> intros)
      | (split) | (dsimp only)

theorem execParityHolderIdle_frame (part : Nat) (stripe : Nat) (s : State) : FrameOut 0x2c000 s (execParityHolderIdle part stripe s) := by
  unfold execParityHolderIdle
  try dsimp only
  repeat' first
      | (with_reducible refine FrameOut.go ?_) | (with_reducible assumption) | (with_reducible exact Frame.refl _ _)
      | (apply Frame.andThen; rotate_left; (with_reducible apply postEvent_frame); rfl)
      | (apply Frame.andThen; rotate_left; (with_reducible apply post_frame); rfl) | (split) | (dsimp only)

theorem setEntry_frame (e : JEntry) (s : State) : Frame 0x1000 s (setEntry e s) := by
  unfold setEntry
  try dsimp only
  repeat' first
      | (with_reducible assumption) | (with_reducible exact Frame.refl _ _)
      | (apply Frame.andThen; rotate_left; (with_reducible apply updYrd_frame); rfl) | (split) | (dsimp only)

theorem updEntry_frame (stripe : Nat) (f : JEntry → JEntry) (s : State) : Frame 0x1000 s (updEntry stripe f s) := by
  unfold updEntry
  try dsimp only
  repeat' first
      | (with_reducible assumption) | (with_reducible exact Frame.refl _ _)
      | (apply Frame.andThen; rotate_left; (with_reducible apply setEntry_frame); rfl) | (split) | (dsimp only)

theorem journalOut_frame (stripe : Nat) (s : State) : Frame 0x23000 s (journalOut stripe s) := by
  unfold journalOut
  try dsimp only
  repeat' first
      | (with_reducible assumption) | (with_reducible exact Frame.refl _ _)
      | (apply Frame.andThen; rotate_left; (with_reducible apply sendMsg_frame); rfl)
      | (apply Frame.andThen; rotate_left; (with_reducible apply setEntry_frame); rfl)
      | (with_reducible refine Frame.each _ ?_ (fun _ _ => ?_)) | (with_reducible refine Frame.foldl_snd _ ?_ (fun _ _ => ?_))
      | (with_reducible refine Frame.foldl _ ?_ (fun _ _ => ?_)) | (split) | (dsimp only)

theorem replicate_frame (stripe : Nat) (msgs : List YMsg) (s : State) : Frame 0x223000 s (replicate stripe msgs s) := by
  unfold replicate
  try dsimp only
  repeat' first
      | (with_reducible assumption) | (with_reducible exact Frame.refl _ _)
      | (apply Frame.andThen; rotate_left; (with_reducible apply journalOut_frame); rfl)
      | (apply Frame.andThen; rotate_left; (with_reducible apply updEntry_frame); rfl)
      | (apply Frame.andThen; rotate_left; (with_reducible apply drawNext_frame); rfl) | (split) | (dsimp only)

theorem trySeal_frame (stripe : Nat) (s : State) : Frame 0x223000 s (trySeal stripe s) := by
  unfold trySeal
  try dsimp only
  repeat' first
      | (with_reducible assumption) | (with_reducible exact Frame.refl _ _)
      | (apply Frame.andThen; rotate_left; (with_reducible apply replicate_frame); rfl)
      | (apply Frame.andThen; rotate_left; (with_reducible apply setEntry_frame); rfl) | ((with_reducible apply Frame.getD) <;> intros)
      | (split) | (dsimp only)

theorem execClaim_frame (m : YMsg) (s : State) : FrameOut 0x227010 s (execClaim m s) := by
  unfold execClaim
  try dsimp only
  repeat' first
      | (with_reducible refine FrameOut.go ?_) | (with_reducible assumption) | (with_reducible exact Frame.refl _ _)
      | (apply Frame.andThen; rotate_left; (with_reducible apply sendMsg_frame); rfl)
      | (apply Frame.andThen; rotate_left; (with_reducible apply replicate_frame); rfl)
      | (apply Frame.andThen; rotate_left; (with_reducible apply setEntry_frame); rfl)
      | ((with_reducible apply receive_frame); rotate_left; rfl; intros) | ((with_reducible apply Frame.getD) <;> intros) | (split)
      | (dsimp only)

theorem nullSlot_frame (stripe : Nat) (slot : Nat) (s : State) : Frame 0x223000 s (nullSlot stripe slot s) := by
  unfold nullSlot
  try dsimp only
  repeat' first
      | (with_reducible assumption) | (with_reducible exact Frame.refl _ _)
      | (apply Frame.andThen; rotate_left; (with_reducible apply updEntry_frame); rfl)
      | (apply Frame.andThen; rotate_left; (with_reducible apply replicate_frame); rfl)
      | (apply Frame.andThen; rotate_left; (with_reducible apply trySeal_frame); rfl) | (split) | (dsimp only)

theorem execWithdraw_frame (m : YMsg) (s : State) : FrameOut 0x227010 s (execWithdraw m s) := by
  unfold execWithdraw
  try dsimp only
  repeat' first
      | (with_reducible refine FrameOut.go ?_) | (with_reducible assumption) | (with_reducible exact Frame.refl _ _)
      | (apply Frame.andThen; rotate_left; (with_reducible apply nullSlot_frame); rfl)
      | ((with_reducible apply receive_frame); rotate_left; rfl; intros) | (split) | (dsimp only)

theorem execNullOk_frame (m : YMsg) (s : State) : FrameOut 0x227010 s (execNullOk m s) := by
  unfold execNullOk
  try dsimp only
  repeat' first
      | (with_reducible refine FrameOut.go ?_) | (with_reducible assumption) | (with_reducible exact Frame.refl _ _)
      | (apply Frame.andThen; rotate_left; (with_reducible apply replied_frame); rfl)
      | (apply Frame.andThen; rotate_left; (with_reducible apply nullSlot_frame); rfl)
      | ((with_reducible apply receive_frame); rotate_left; rfl; intros) | ((with_reducible apply Frame.getD) <;> intros) | (split)
      | (dsimp only)

theorem execClaimed_frame (m : YMsg) (s : State) : FrameOut 0x27010 s (execClaimed m s) := by
  unfold execClaimed
  try dsimp only
  repeat' first
      | (with_reducible refine FrameOut.go ?_) | (with_reducible assumption) | (with_reducible exact Frame.refl _ _)
      | (apply Frame.andThen; rotate_left; (with_reducible apply replied_frame); rfl)
      | (apply Frame.andThen; rotate_left; (with_reducible apply updEntry_frame); rfl)
      | ((with_reducible apply receive_frame); rotate_left; rfl; intros) | ((with_reducible apply Frame.getD) <;> intros) | (split)
      | (dsimp only)

theorem execContribDone_frame (m : YMsg) (s : State) : FrameOut 0x227010 s (execContribDone m s) := by
  unfold execContribDone
  try dsimp only
  repeat' first
      | (with_reducible refine FrameOut.go ?_) | (with_reducible assumption) | (with_reducible exact Frame.refl _ _)
      | (apply Frame.andThen; rotate_left; (with_reducible apply setEntry_frame); rfl)
      | (apply Frame.andThen; rotate_left; (with_reducible apply trySeal_frame); rfl)
      | ((with_reducible apply receive_frame); rotate_left; rfl; intros) | ((with_reducible apply Frame.getD) <;> intros) | (split)
      | (dsimp only)

theorem execParityLaid_frame (m : YMsg) (s : State) : FrameOut 0x227010 s (execParityLaid m s) := by
  unfold execParityLaid
  try dsimp only
  repeat' first
      | (with_reducible refine FrameOut.go ?_) | (with_reducible assumption) | (with_reducible exact Frame.refl _ _)
      | (apply Frame.andThen; rotate_left; (with_reducible apply updYrd_frame); rfl)
      | (apply Frame.andThen; rotate_left; (with_reducible apply replicate_frame); rfl)
      | (apply Frame.andThen; rotate_left; (with_reducible apply setEntry_frame); rfl)
      | (apply Frame.andThen; rotate_left; (with_reducible apply inc_frame); rfl)
      | ((with_reducible apply receive_frame); rotate_left; rfl; intros) | ((with_reducible apply Frame.getD) <;> intros) | (split)
      | (dsimp only)

theorem execJournal_frame (m : YMsg) (s : State) : FrameOut 0x27010 s (execJournal m s) := by
  unfold execJournal
  try dsimp only
  repeat' first
      | (with_reducible refine FrameOut.go ?_) | (with_reducible assumption) | (with_reducible exact Frame.refl _ _)
      | (apply Frame.andThen; rotate_left; (with_reducible apply updYrd_frame); rfl)
      | (apply Frame.andThen; rotate_left; (with_reducible apply sendMsg_frame); rfl)
      | (apply Frame.andThen; rotate_left; (with_reducible apply setEntry_frame); rfl)
      | ((with_reducible apply receive_frame); rotate_left; rfl; intros) | (with_reducible refine Frame.each _ ?_ (fun _ _ => ?_)) | (split)
      | (dsimp only)

theorem execJournalAck_frame (m : YMsg) (s : State) : FrameOut 0x27010 s (execJournalAck m s) := by
  unfold execJournalAck
  try dsimp only
  repeat' first
      | (with_reducible refine FrameOut.go ?_) | (with_reducible assumption) | (with_reducible exact Frame.refl _ _)
      | (apply Frame.andThen; rotate_left; (with_reducible apply journalOut_frame); rfl)
      | (apply Frame.andThen; rotate_left; (with_reducible apply sendMsg_frame); rfl)
      | (apply Frame.andThen; rotate_left; (with_reducible apply replied_frame); rfl)
      | (apply Frame.andThen; rotate_left; (with_reducible apply setEntry_frame); rfl)
      | ((with_reducible apply receive_frame); rotate_left; rfl; intros) | (with_reducible refine Frame.each _ ?_ (fun _ _ => ?_)) | (split)
      | (dsimp only)

theorem execContributionTimeout_frame (stripe : Nat) (s : State) : FrameOut 0x23000 s (execContributionTimeout stripe s) := by
  unfold execContributionTimeout
  try dsimp only
  repeat' first
      | (with_reducible refine FrameOut.go ?_) | (with_reducible assumption) | (with_reducible exact Frame.refl _ _)
      | (apply Frame.andThen; rotate_left; (with_reducible apply sendMsg_frame); rfl) | ((with_reducible apply Frame.getD) <;> intros)
      | (with_reducible refine Frame.each _ ?_ (fun _ _ => ?_)) | (split) | (dsimp only)

theorem execYardBadMessage_frame (raw : Bytes) (s : State) : FrameOut 0x26010 s (execYardBadMessage raw s) := by
  unfold execYardBadMessage
  try dsimp only
  repeat' first
      | (with_reducible refine FrameOut.go ?_) | (with_reducible assumption) | (with_reducible exact Frame.refl _ _)
      | (apply Frame.andThen; rotate_left; (with_reducible apply updFab_frame); rfl)
      | (apply Frame.andThen; rotate_left; (with_reducible apply giveBack_frame); rfl)
      | (apply Frame.andThen; rotate_left; (with_reducible apply inc_frame); rfl) | (split) | (dsimp only)

theorem execYardUnknownEvent_frame (src : Nat) (code : Nat) (arg : Nat) (s : State)
    : FrameOut 0x2c000 s (execYardUnknownEvent src code arg s) := by
  unfold execYardUnknownEvent
  try dsimp only
  repeat' first
      | (with_reducible refine FrameOut.go ?_) | (with_reducible assumption) | (with_reducible exact Frame.refl _ _)
      | ((with_reducible apply boxTake_frame); rotate_left; rfl; intros)
      | (apply Frame.andThen; rotate_left; (with_reducible apply inc_frame); rfl) | (split) | (dsimp only)

theorem memberSel_frame (value : Nat) (s : State) : Frame 0x1000 s (memberSel value s) := by
  unfold memberSel
  try dsimp only
  repeat' first
      | (with_reducible assumption) | (with_reducible exact Frame.refl _ _)
      | (apply Frame.andThen; rotate_left; (with_reducible apply updYrd_frame); rfl) | (split) | (dsimp only)

theorem execYrdMemberSel_frame (value : Nat) (s : State) : FrameOut 0x1000 s (execYrdMemberSel value s) := by
  unfold execYrdMemberSel
  try dsimp only
  repeat' first
      | (with_reducible refine FrameOut.go ?_) | (with_reducible assumption) | (with_reducible exact Frame.refl _ _)
      | (apply Frame.andThen; rotate_left; (with_reducible apply memberSel_frame); rfl) | (split) | (dsimp only)

theorem logLoss_frame (stripe : Nat) (member : Nat) (part : Nat) (cause : Nat) (ds : Nat) (erasures : Nat) (s : State)
    : Frame 0x22f806 s (logLoss stripe member part cause ds erasures s) := by
  unfold logLoss
  try dsimp only
  repeat' first
      | (with_reducible assumption) | (with_reducible exact Frame.refl _ _)
      | (apply Frame.andThen; rotate_left; (with_reducible apply sendMsg_frame); rfl)
      | (apply Frame.andThen; rotate_left; (with_reducible apply drawMany_frame); rfl)
      | (apply Frame.andThen; rotate_left; (with_reducible apply deferError_frame); rfl)
      | (apply Frame.andThen; rotate_left; (with_reducible apply appendLoss_frame); rfl) | ((with_reducible apply Frame.getD) <;> intros)
      | (with_reducible refine Frame.each _ ?_ (fun _ _ => ?_)) | (split) | (dsimp only)

theorem setRecon_frame (r : Recon) (s : State) : Frame 0x1000 s (setRecon r s) := by
  unfold setRecon
  try dsimp only
  repeat' first
      | (with_reducible assumption) | (with_reducible exact Frame.refl _ _)
      | (apply Frame.andThen; rotate_left; (with_reducible apply updYrd_frame); rfl) | (split) | (dsimp only)

theorem dropRecon_frame (stripe : Nat) (s : State) : Frame 0x1000 s (dropRecon stripe s) := by
  unfold dropRecon
  try dsimp only
  repeat' first
      | (with_reducible assumption) | (with_reducible exact Frame.refl _ _)
      | (apply Frame.andThen; rotate_left; (with_reducible apply updYrd_frame); rfl) | (split) | (dsimp only)

theorem stageRebuilt_frame (r : Recon) (bytes : Bytes) (s : State) : Frame 0x2d000 s (stageRebuilt r bytes s) := by
  unfold stageRebuilt
  try dsimp only
  repeat' first
      | (with_reducible assumption) | (with_reducible exact Frame.refl _ _)
      | (apply Frame.andThen; rotate_left; (with_reducible apply updYrd_frame); rfl)
      | (apply Frame.andThen; rotate_left; (with_reducible apply post_frame); rfl) | (split) | (dsimp only)

theorem reconDone_frame (r : Recon) (s : State) : Frame 0x2d000 s (reconDone r s) := by
  unfold reconDone
  try dsimp only
  repeat' first
      | (with_reducible assumption) | (with_reducible exact Frame.refl _ _)
      | (apply Frame.andThen; rotate_left; (with_reducible apply dropRecon_frame); rfl)
      | (apply Frame.andThen; rotate_left; (with_reducible apply updYrd_frame); rfl)
      | (apply Frame.andThen; rotate_left; (with_reducible apply stageRebuilt_frame); rfl)
      | (apply Frame.andThen; rotate_left; (with_reducible apply inc_frame); rfl) | (split) | (dsimp only)

theorem reconLost_frame (r : Recon) (s : State) : Frame 0x22f806 s (reconLost r s) := by
  unfold reconLost
  try dsimp only
  repeat' first
      | (with_reducible assumption) | (with_reducible exact Frame.refl _ _)
      | (apply Frame.andThen; rotate_left; (with_reducible apply dropRecon_frame); rfl)
      | (apply Frame.andThen; rotate_left; (with_reducible apply updYrd_frame); rfl)
      | (apply Frame.andThen; rotate_left; (with_reducible apply stageRebuilt_frame); rfl)
      | (apply Frame.andThen; rotate_left; (with_reducible apply logLoss_frame); rfl)
      | (apply Frame.andThen; rotate_left; (with_reducible apply inc_frame); rfl) | (split) | (dsimp only)

theorem startRecon_frame (r : Recon) (s : State) : Frame 0x22f806 s (startRecon r s) := by
  unfold startRecon
  try dsimp only
  repeat' first
      | (with_reducible assumption) | (with_reducible exact Frame.refl _ _)
      | (apply Frame.andThen; rotate_left; (with_reducible apply setRecon_frame); rfl)
      | (apply Frame.andThen; rotate_left; (with_reducible apply sendMsg_frame); rfl)
      | (apply Frame.andThen; rotate_left; (with_reducible apply reconLost_frame); rfl)
      | (apply Frame.andThen; rotate_left; (with_reducible apply reconDone_frame); rfl)
      | (with_reducible refine Frame.each _ ?_ (fun _ _ => ?_)) | (split) | (dsimp only)

theorem restartRecons_frame (s : State) : Frame 0x22f806 s (restartRecons s) := by
  unfold restartRecons
  try dsimp only
  repeat' first
      | (with_reducible assumption) | (with_reducible exact Frame.refl _ _)
      | (apply Frame.andThen; rotate_left; (with_reducible apply dropRecon_frame); rfl)
      | (apply Frame.andThen; rotate_left; (with_reducible apply startRecon_frame); rfl)
      | (with_reducible refine Frame.each _ ?_ (fun _ _ => ?_)) | (split) | (dsimp only)

theorem execReconstructForRead_frame (src : Nat) (arg : Nat) (s : State) : FrameOut 0x22f916 s (execReconstructForRead src arg s) := by
  unfold execReconstructForRead
  try dsimp only
  repeat' first
      | (with_reducible refine FrameOut.go ?_) | (with_reducible assumption) | (with_reducible exact Frame.refl _ _)
      | (apply Frame.andThen; rotate_left; (with_reducible apply updYrd_frame); rfl)
      | ((with_reducible apply boxTake_frame); rotate_left; rfl; intros)
      | (apply Frame.andThen; rotate_left; (with_reducible apply startRecon_frame); rfl)
      | (apply Frame.andThen; rotate_left; (with_reducible apply yardAnswers_frame); rfl) | (split) | (dsimp only)

theorem execYardReconstructReturn_frame (data : Option Bytes) (s : State) : FrameOut 0x22d912 s (execYardReconstructReturn data s) := by
  unfold execYardReconstructReturn
  try dsimp only
  repeat' first
      | (with_reducible refine FrameOut.go ?_) | (with_reducible assumption) | (with_reducible exact Frame.refl _ _)
      | (apply Frame.andThen; rotate_left; (with_reducible apply updYrd_frame); rfl)
      | (apply Frame.andThen; rotate_left; (with_reducible apply yardAnswers_frame); rfl) | (split) | (dsimp only)

theorem execRebuildReq_frame (m : YMsg) (s : State) : FrameOut 0x2f310 s (execRebuildReq m s) := by
  unfold execRebuildReq
  try dsimp only
  repeat' first
      | (with_reducible refine FrameOut.go ?_) | (with_reducible assumption) | (with_reducible exact Frame.refl _ _)
      | (apply Frame.andThen; rotate_left; (with_reducible apply updYrd_frame); rfl)
      | (apply Frame.andThen; rotate_left; (with_reducible apply sendMsg_frame); rfl)
      | (apply Frame.andThen; rotate_left; (with_reducible apply wantTape_frame); rfl)
      | ((with_reducible apply receive_frame); rotate_left; rfl; intros) | (with_reducible refine Frame.each _ ?_ (fun _ _ => ?_)) | (split)
      | (dsimp only)

theorem rebuildStep_frame (s : State) : Frame 0x2af806 s (rebuildStep s) := by
  unfold rebuildStep
  try dsimp only
  repeat' first
      | (with_reducible assumption) | (with_reducible exact Frame.refl _ _)
      | (apply Frame.andThen; rotate_left; (with_reducible apply updYrd_frame); rfl)
      | (apply Frame.andThen; rotate_left; (with_reducible apply startRecon_frame); rfl)
      | (apply Frame.andThen; rotate_left; (with_reducible apply writeYardPage_frame); rfl) | (split) | (dsimp only)

theorem execRebuildStart_frame (src : Nat) (arg : Nat) (s : State) : FrameOut 0x2af806 s (execRebuildStart src arg s) := by
  unfold execRebuildStart
  try dsimp only
  repeat' first
      | (with_reducible refine FrameOut.go ?_) | (with_reducible assumption) | (with_reducible exact Frame.refl _ _)
      | (apply Frame.andThen; rotate_left; (with_reducible apply updYrd_frame); rfl)
      | ((with_reducible apply boxTake_frame); rotate_left; rfl; intros)
      | (apply Frame.andThen; rotate_left; (with_reducible apply rebuildStep_frame); rfl) | (split) | (dsimp only)

theorem execRebuildPart_frame (m : YMsg) (s : State) : FrameOut 0x2af816 s (execRebuildPart m s) := by
  unfold execRebuildPart
  try dsimp only
  repeat' first
      | (with_reducible refine FrameOut.go ?_) | (with_reducible assumption) | (with_reducible exact Frame.refl _ _)
      | (apply Frame.andThen; rotate_left; (with_reducible apply setRecon_frame); rfl)
      | (apply Frame.andThen; rotate_left; (with_reducible apply reconDone_frame); rfl)
      | (apply Frame.andThen; rotate_left; (with_reducible apply rebuildStep_frame); rfl)
      | (apply Frame.andThen; rotate_left; (with_reducible apply inc_frame); rfl)
      | ((with_reducible apply receive_frame); rotate_left; rfl; intros) | (split) | (dsimp only)

theorem execRebuildFail_frame (m : YMsg) (s : State) : FrameOut 0x2af816 s (execRebuildFail m s) := by
  unfold execRebuildFail
  try dsimp only
  repeat' first
      | (with_reducible refine FrameOut.go ?_) | (with_reducible assumption) | (with_reducible exact Frame.refl _ _)
      | (apply Frame.andThen; rotate_left; (with_reducible apply dropRecon_frame); rfl)
      | (apply Frame.andThen; rotate_left; (with_reducible apply startRecon_frame); rfl)
      | (apply Frame.andThen; rotate_left; (with_reducible apply rebuildStep_frame); rfl)
      | (apply Frame.andThen; rotate_left; (with_reducible apply inc_frame); rfl)
      | ((with_reducible apply receive_frame); rotate_left; rfl; intros) | (split) | (dsimp only)

theorem reshapeStep_frame (s : State) : Frame 0x22f300 s (reshapeStep s) := by
  unfold reshapeStep
  try dsimp only
  repeat' first
      | (with_reducible assumption) | (with_reducible exact Frame.refl _ _)
      | (apply Frame.andThen; rotate_left; (with_reducible apply sendPartials_frame); rfl)
      | (apply Frame.andThen; rotate_left; (with_reducible apply updYrd_frame); rfl)
      | (apply Frame.andThen; rotate_left; (with_reducible apply toCoordinator_frame); rfl)
      | (apply Frame.andThen; rotate_left; (with_reducible apply wantTape_frame); rfl)
      | (apply Frame.andThen; rotate_left; (with_reducible apply replicate_frame); rfl)
      | (apply Frame.andThen; rotate_left; (with_reducible apply setEntry_frame); rfl) | (split) | (dsimp only)

theorem execReshapeStart_frame (src : Nat) (arg : Nat) (s : State) : FrameOut 0x22f300 s (execReshapeStart src arg s) := by
  unfold execReshapeStart
  try dsimp only
  repeat' first
      | (with_reducible refine FrameOut.go ?_) | (with_reducible assumption) | (with_reducible exact Frame.refl _ _)
      | (apply Frame.andThen; rotate_left; (with_reducible apply updYrd_frame); rfl)
      | ((with_reducible apply boxTake_frame); rotate_left; rfl; intros)
      | (apply Frame.andThen; rotate_left; (with_reducible apply reshapeStep_frame); rfl) | (split) | (dsimp only)

theorem execReshapeCheckpoint_frame (s : State) : FrameOut 0xa3000 s (execReshapeCheckpoint s) := by
  unfold execReshapeCheckpoint
  try dsimp only
  repeat' first
      | (with_reducible refine FrameOut.go ?_) | (with_reducible assumption) | (with_reducible exact Frame.refl _ _)
      | (apply Frame.andThen; rotate_left; (with_reducible apply updYrd_frame); rfl)
      | (apply Frame.andThen; rotate_left; (with_reducible apply sendMsg_frame); rfl)
      | (apply Frame.andThen; rotate_left; (with_reducible apply writeYardPage_frame); rfl)
      | (with_reducible refine Frame.each _ ?_ (fun _ _ => ?_)) | (split) | (dsimp only)

theorem execStripeSafe_frame (m : YMsg) (s : State) : FrameOut 0x22fb16 s (execStripeSafe m s) := by
  unfold execStripeSafe
  try dsimp only
  repeat' first
      | (with_reducible refine FrameOut.go ?_) | (with_reducible assumption) | (with_reducible exact Frame.refl _ _)
      | (apply Frame.andThen; rotate_left; (with_reducible apply updYrd_frame); rfl)
      | (apply Frame.andThen; rotate_left; (with_reducible apply sendMsg_frame); rfl)
      | (apply Frame.andThen; rotate_left; (with_reducible apply updPart_frame); rfl)
      | (apply Frame.andThen; rotate_left; (with_reducible apply reshapeStep_frame); rfl)
      | (apply Frame.andThen; rotate_left; (with_reducible apply claimUnstriped_frame); rfl)
      | (apply Frame.andThen; rotate_left; (with_reducible apply refreshLaid_frame); rfl)
      | (apply Frame.andThen; rotate_left; (with_reducible apply dropRetain_frame); rfl)
      | ((with_reducible apply receive_frame); rotate_left; rfl; intros) | ((with_reducible apply Frame.getD) <;> intros)
      | (with_reducible refine Frame.each _ ?_ (fun _ _ => ?_)) | (split) | (dsimp only)

theorem execSafeAck_frame (m : YMsg) (s : State) : FrameOut 0x22f310 s (execSafeAck m s) := by
  unfold execSafeAck
  try dsimp only
  repeat' first
      | (with_reducible refine FrameOut.go ?_) | (with_reducible assumption) | (with_reducible exact Frame.refl _ _)
      | (apply Frame.andThen; rotate_left; (with_reducible apply updYrd_frame); rfl)
      | (apply Frame.andThen; rotate_left; (with_reducible apply replied_frame); rfl)
      | (apply Frame.andThen; rotate_left; (with_reducible apply reshapeStep_frame); rfl)
      | (apply Frame.andThen; rotate_left; (with_reducible apply setEntry_frame); rfl)
      | ((with_reducible apply receive_frame); rotate_left; rfl; intros)
      | (apply Frame.andThen; rotate_left; (with_reducible apply sendOnce_frame); rfl)
      | (with_reducible refine Frame.each _ ?_ (fun _ _ => ?_)) | (split) | (dsimp only)

theorem execYardRepeatTimer_frame (s : State) : FrameOut 0x2afb06 s (execYardRepeatTimer s) := by
  unfold execYardRepeatTimer
  try dsimp only
  repeat' first
      | (with_reducible refine FrameOut.go ?_) | (with_reducible assumption) | (with_reducible exact Frame.refl _ _)
      | (apply Frame.andThen; rotate_left; (with_reducible apply reshapeStep_frame); rfl)
      | (apply Frame.andThen; rotate_left; (with_reducible apply rebuildStep_frame); rfl)
      | (apply Frame.andThen; rotate_left; (with_reducible apply claimUnstriped_frame); rfl)
      | (apply Frame.andThen; rotate_left; (with_reducible apply sendOnce_frame); rfl)
      | (with_reducible refine Frame.each _ ?_ (fun _ _ => ?_)) | (split) | (dsimp only)

theorem startChange_frame (s : State) : Frame 0x23000 s (startChange s) := by
  unfold startChange
  try dsimp only
  repeat' first
      | (with_reducible assumption) | (with_reducible exact Frame.refl _ _)
      | (apply Frame.andThen; rotate_left; (with_reducible apply updYrd_frame); rfl)
      | (apply Frame.andThen; rotate_left; (with_reducible apply sendMsg_frame); rfl)
      | (with_reducible refine Frame.each _ ?_ (fun _ _ => ?_)) | (split) | (dsimp only)

theorem want_frame (w : Want) (s : State) : Frame 0x23000 s (want w s) := by
  unfold want
  try dsimp only
  repeat' first
      | (with_reducible assumption) | (with_reducible exact Frame.refl _ _)
      | (apply Frame.andThen; rotate_left; (with_reducible apply updYrd_frame); rfl)
      | (apply Frame.andThen; rotate_left; (with_reducible apply startChange_frame); rfl) | (split) | (dsimp only)

theorem reassess_frame (stripe : Nat) (s : State) : Frame 0x22f806 s (reassess stripe s) := by
  unfold reassess
  try dsimp only
  repeat' first
      | (with_reducible assumption) | (with_reducible exact Frame.refl _ _)
      | (apply Frame.andThen; rotate_left; (with_reducible apply logLoss_frame); rfl)
      | (apply Frame.andThen; rotate_left; (with_reducible apply replicate_frame); rfl)
      | (apply Frame.andThen; rotate_left; (with_reducible apply setEntry_frame); rfl)
      | (apply Frame.andThen; rotate_left; (with_reducible apply trySeal_frame); rfl) | ((with_reducible apply Frame.getD) <;> intros)
      | (with_reducible refine Frame.each _ ?_ (fun _ _ => ?_)) | (with_reducible refine Frame.foldl_snd _ ?_ (fun _ _ => ?_))
      | (with_reducible refine Frame.foldl _ ?_ (fun _ _ => ?_)) | (split) | (dsimp only)

theorem journalHandOver_frame (stripe : Nat) (s : State) : Frame 0x23000 s (journalHandOver stripe s) := by
  unfold journalHandOver
  try dsimp only
  repeat' first
      | (with_reducible assumption) | (with_reducible exact Frame.refl _ _)
      | (apply Frame.andThen; rotate_left; (with_reducible apply updYrd_frame); rfl)
      | (apply Frame.andThen; rotate_left; (with_reducible apply sendMsg_frame); rfl) | (split) | (dsimp only)

theorem takeOver_frame (stripe : Nat) (s : State) : Frame 0x1000 s (takeOver stripe s) := by
  unfold takeOver
  try dsimp only
  repeat' first
      | (with_reducible assumption) | (with_reducible exact Frame.refl _ _)
      | (apply Frame.andThen; rotate_left; (with_reducible apply updYrd_frame); rfl)
      | (apply Frame.andThen; rotate_left; (with_reducible apply setEntry_frame); rfl) | (split) | (dsimp only)

theorem rebuildEntry_frame (stripe : Nat) (s : State) : Frame 0x23000 s (rebuildEntry stripe s) := by
  unfold rebuildEntry
  try dsimp only
  repeat' first
      | (with_reducible assumption) | (with_reducible exact Frame.refl _ _)
      | (apply Frame.andThen; rotate_left; (with_reducible apply updYrd_frame); rfl)
      | (apply Frame.andThen; rotate_left; (with_reducible apply sendMsg_frame); rfl)
      | (apply Frame.andThen; rotate_left; (with_reducible apply setEntry_frame); rfl)
      | (with_reducible refine Frame.each _ ?_ (fun _ _ => ?_)) | (split) | (dsimp only)

theorem resend_frame (old : State) (c : Claim) (s : State) : Frame 0x23000 s (resend old c s) := by
  unfold resend
  try dsimp only
  repeat' first
      | (with_reducible assumption) | (with_reducible exact Frame.refl _ _)
      | (apply Frame.andThen; rotate_left; (with_reducible apply sendMsg_frame); rfl)
      | (apply Frame.andThen; rotate_left; (with_reducible apply addCtr_frame); rfl)
      | (apply Frame.andThen; rotate_left; (with_reducible apply sendSegments_frame); rfl)
      | (with_reducible refine Frame.each _ ?_ (fun _ _ => ?_)) | (split) | (dsimp only)

theorem voidClaims_frame (old : State) (s : State) : Frame 0x23000 s (voidClaims old s) := by
  unfold voidClaims
  try dsimp only
  repeat' first
      | (with_reducible assumption) | (with_reducible exact Frame.refl _ _)
      | (apply Frame.andThen; rotate_left; (with_reducible apply withdrawClaim_frame); rfl)
      | (with_reducible refine Frame.each _ ?_ (fun _ _ => ?_)) | (split) | (dsimp only)

theorem finishWants_frame (r : EpochRec) (s : State) : Frame 0x21002 s (finishWants r s) := by
  unfold finishWants
  try dsimp only
  repeat' first
      | (with_reducible assumption) | (with_reducible exact Frame.refl _ _)
      | (apply Frame.andThen; rotate_left; (with_reducible apply updYrd_frame); rfl)
      | (apply Frame.andThen; rotate_left; (with_reducible apply complete_frame); rfl)
      | (with_reducible refine Frame.each _ ?_ (fun _ _ => ?_)) | (split) | (dsimp only)

theorem takeGeneration_frame (r : EpochRec) (s : State) : Frame 0x1000 s (takeGeneration r s) := by
  unfold takeGeneration
  try dsimp only
  repeat' first
      | (with_reducible assumption) | (with_reducible exact Frame.refl _ _)
      | (apply Frame.andThen; rotate_left; (with_reducible apply updYrd_frame); rfl) | (split) | (dsimp only)

theorem adoptEpoch_frame (r : EpochRec) (s : State) : Frame 0x2af816 s (adoptEpoch r s) := by
  unfold adoptEpoch
  try dsimp only
  repeat' first
      | (with_reducible assumption) | (with_reducible exact Frame.refl _ _)
      | (apply Frame.andThen; rotate_left; (with_reducible apply finishWants_frame); rfl)
      | (apply Frame.andThen; rotate_left; (with_reducible apply updYrd_frame); rfl)
      | (apply Frame.andThen; rotate_left; (with_reducible apply journalHandOver_frame); rfl)
      | (apply Frame.andThen; rotate_left; (with_reducible apply takeOver_frame); rfl)
      | (apply Frame.andThen; rotate_left; (with_reducible apply freeAccum_frame); rfl)
      | (apply Frame.andThen; rotate_left; (with_reducible apply rebuildEntry_frame); rfl)
      | (apply Frame.andThen; rotate_left; (with_reducible apply takeGeneration_frame); rfl)
      | (apply Frame.andThen; rotate_left; (with_reducible apply restartRecons_frame); rfl)
      | (apply Frame.andThen; rotate_left; (with_reducible apply resend_frame); rfl)
      | (apply Frame.andThen; rotate_left; (with_reducible apply updFab_frame); rfl)
      | (apply Frame.andThen; rotate_left; (with_reducible apply inc_frame); rfl)
      | (apply Frame.andThen; rotate_left; (with_reducible apply reassess_frame); rfl)
      | (apply Frame.andThen; rotate_left; (with_reducible apply writeYardPage_frame); rfl)
      | (apply Frame.andThen; rotate_left; (with_reducible apply startChange_frame); rfl)
      | (apply Frame.andThen; rotate_left; (with_reducible apply voidClaims_frame); rfl)
      | (with_reducible refine Frame.each _ ?_ (fun _ _ => ?_)) | (split) | (dsimp only)

theorem execStateQuery_frame (m : YMsg) (s : State) : FrameOut 0x27010 s (execStateQuery m s) := by
  unfold execStateQuery
  try dsimp only
  repeat' first
      | (with_reducible refine FrameOut.go ?_) | (with_reducible assumption) | (with_reducible exact Frame.refl _ _)
      | (apply Frame.andThen; rotate_left; (with_reducible apply sendPartials_frame); rfl)
      | (apply Frame.andThen; rotate_left; (with_reducible apply updYrd_frame); rfl)
      | (apply Frame.andThen; rotate_left; (with_reducible apply sendMsg_frame); rfl)
      | (apply Frame.andThen; rotate_left; (with_reducible apply freeAccum_frame); rfl)
      | (apply Frame.andThen; rotate_left; (with_reducible apply addCtr_frame); rfl)
      | ((with_reducible apply receive_frame); rotate_left; rfl; intros) | ((with_reducible apply Frame.getD) <;> intros)
      | (with_reducible refine Frame.each _ ?_ (fun _ _ => ?_)) | (split) | (dsimp only)

theorem execStateReply_frame (m : YMsg) (s : State) : FrameOut 0x227010 s (execStateReply m s) := by
  unfold execStateReply
  try dsimp only
  repeat' first
      | (with_reducible refine FrameOut.go ?_) | (with_reducible assumption) | (with_reducible exact Frame.refl _ _)
      | (apply Frame.andThen; rotate_left; (with_reducible apply updYrd_frame); rfl)
      | (apply Frame.andThen; rotate_left; (with_reducible apply replicate_frame); rfl)
      | (apply Frame.andThen; rotate_left; (with_reducible apply setEntry_frame); rfl)
      | (apply Frame.andThen; rotate_left; (with_reducible apply trySeal_frame); rfl)
      | ((with_reducible apply receive_frame); rotate_left; rfl; intros) | (split) | (dsimp only)

theorem announce_frame (type : Nat) (r : EpochRec) (s : State) : Frame 0x23000 s (announce type r s) := by
  unfold announce
  try dsimp only
  repeat' first
      | (with_reducible assumption) | (with_reducible exact Frame.refl _ _)
      | (apply Frame.andThen; rotate_left; (with_reducible apply fabSend_frame); rfl) | ((with_reducible apply Frame.getD) <;> intros)
      | (with_reducible refine Frame.each _ ?_ (fun _ _ => ?_)) | (split) | (dsimp only)

theorem tryCommit_frame (s : State) : Frame 0x2af816 s (tryCommit s) := by
  unfold tryCommit
  try dsimp only
  repeat' first
      | (with_reducible assumption) | (with_reducible exact Frame.refl _ _)
      | (apply Frame.andThen; rotate_left; (with_reducible apply announce_frame); rfl)
      | (apply Frame.andThen; rotate_left; (with_reducible apply adoptEpoch_frame); rfl) | (split) | (dsimp only)

theorem execStateQueryDeadline_frame (s : State) : FrameOut 0x2af816 s (execStateQueryDeadline s) := by
  unfold execStateQueryDeadline
  try dsimp only
  repeat' first
      | (with_reducible refine FrameOut.go ?_) | (with_reducible assumption) | (with_reducible exact Frame.refl _ _)
      | (apply Frame.andThen; rotate_left; (with_reducible apply announce_frame); rfl)
      | (apply Frame.andThen; rotate_left; (with_reducible apply updYrd_frame); rfl)
      | (apply Frame.andThen; rotate_left; (with_reducible apply tryCommit_frame); rfl) | ((with_reducible apply Frame.getD) <;> intros)
      | (split) | (dsimp only)

theorem execEpochPropose_frame (m : YMsg) (s : State) : FrameOut 0x27010 s (execEpochPropose m s) := by
  unfold execEpochPropose
  try dsimp only
  repeat' first
      | (with_reducible refine FrameOut.go ?_) | (with_reducible assumption) | (with_reducible exact Frame.refl _ _)
      | (apply Frame.andThen; rotate_left; (with_reducible apply updYrd_frame); rfl)
      | (apply Frame.andThen; rotate_left; (with_reducible apply sendMsg_frame); rfl)
      | ((with_reducible apply receive_frame); rotate_left; rfl; intros) | (split) | (dsimp only)

theorem execAdopt_frame (m : YMsg) (s : State) : FrameOut 0x2af816 s (execAdopt m s) := by
  unfold execAdopt
  try dsimp only
  repeat' first
      | (with_reducible refine FrameOut.go ?_) | (with_reducible assumption) | (with_reducible exact Frame.refl _ _)
      | (apply Frame.andThen; rotate_left; (with_reducible apply updYrd_frame); rfl)
      | ((with_reducible apply receive_frame); rotate_left; rfl; intros)
      | (apply Frame.andThen; rotate_left; (with_reducible apply tryCommit_frame); rfl) | (split) | (dsimp only)

theorem execEpochCommit_frame (m : YMsg) (s : State) : FrameOut 0x2af816 s (execEpochCommit m s) := by
  unfold execEpochCommit
  try dsimp only
  repeat' first
      | (with_reducible refine FrameOut.go ?_) | (with_reducible assumption) | (with_reducible exact Frame.refl _ _)
      | (apply Frame.andThen; rotate_left; (with_reducible apply adoptEpoch_frame); rfl)
      | ((with_reducible apply receive_frame); rotate_left; rfl; intros) | (split) | (dsimp only)

theorem execEpochProposalTimeout_frame (s : State) : FrameOut 0x21002 s (execEpochProposalTimeout s) := by
  unfold execEpochProposalTimeout
  try dsimp only
  repeat' first
      | (with_reducible refine FrameOut.go ?_) | (with_reducible assumption) | (with_reducible exact Frame.refl _ _)
      | (apply Frame.andThen; rotate_left; (with_reducible apply updYrd_frame); rfl)
      | (apply Frame.andThen; rotate_left; (with_reducible apply complete_frame); rfl)
      | (with_reducible refine Frame.each _ ?_ (fun _ _ => ?_)) | (split) | (dsimp only)

theorem execEpochReq_frame (m : YMsg) (s : State) : FrameOut 0x27010 s (execEpochReq m s) := by
  unfold execEpochReq
  try dsimp only
  repeat' first
      | (with_reducible refine FrameOut.go ?_) | (with_reducible assumption) | (with_reducible exact Frame.refl _ _)
      | (apply Frame.andThen; rotate_left; (with_reducible apply sendMsg_frame); rfl)
      | ((with_reducible apply receive_frame); rotate_left; rfl; intros) | (split) | (dsimp only)

theorem execNack_frame (m : YMsg) (s : State) : FrameOut 0x27010 s (execNack m s) := by
  unfold execNack
  try dsimp only
  repeat' first
      | (with_reducible refine FrameOut.go ?_) | (with_reducible assumption) | (with_reducible exact Frame.refl _ _)
      | (apply Frame.andThen; rotate_left; (with_reducible apply updYrd_frame); rfl)
      | (apply Frame.andThen; rotate_left; (with_reducible apply sendMsg_frame); rfl)
      | (apply Frame.andThen; rotate_left; (with_reducible apply resend_frame); rfl)
      | ((with_reducible apply receive_frame); rotate_left; rfl; intros) | (split) | (dsimp only)

theorem execEpochHoldExpiry_frame (s : State) : FrameOut 0x1000 s (execEpochHoldExpiry s) := by
  unfold execEpochHoldExpiry
  try dsimp only
  repeat' first
      | (with_reducible refine FrameOut.go ?_) | (with_reducible assumption) | (with_reducible exact Frame.refl _ _)
      | (apply Frame.andThen; rotate_left; (with_reducible apply updYrd_frame); rfl) | (split) | (dsimp only)

theorem execReachabilityChanged_frame (src : Nat) (arg : Nat) (s : State) : FrameOut 0x2d000 s (execReachabilityChanged src arg s) := by
  unfold execReachabilityChanged
  try dsimp only
  repeat' first
      | (with_reducible refine FrameOut.go ?_) | (with_reducible assumption) | (with_reducible exact Frame.refl _ _)
      | (apply Frame.andThen; rotate_left; (with_reducible apply updYrd_frame); rfl)
      | ((with_reducible apply boxTake_frame); rotate_left; rfl; intros) | (split) | (dsimp only)

theorem execMemberDead_frame (member : Nat) (s : State) : FrameOut 0x23000 s (execMemberDead member s) := by
  unfold execMemberDead
  try dsimp only
  repeat' first
      | (with_reducible refine FrameOut.go ?_) | (with_reducible assumption) | (with_reducible exact Frame.refl _ _)
      | (apply Frame.andThen; rotate_left; (with_reducible apply want_frame); rfl) | (split) | (dsimp only)

theorem execJoin_frame (m : YMsg) (s : State) : FrameOut 0x27010 s (execJoin m s) := by
  unfold execJoin
  try dsimp only
  repeat' first
      | (with_reducible refine FrameOut.go ?_) | (with_reducible assumption) | (with_reducible exact Frame.refl _ _)
      | (apply Frame.andThen; rotate_left; (with_reducible apply want_frame); rfl)
      | ((with_reducible apply receive_frame); rotate_left; rfl; intros) | (split) | (dsimp only)

theorem sendJoin_frame (s : State) : Frame 0x23000 s (sendJoin s) := by
  unfold sendJoin
  try dsimp only
  repeat' first
      | (with_reducible assumption) | (with_reducible exact Frame.refl _ _)
      | (apply Frame.andThen; rotate_left; (with_reducible apply sendMsg_frame); rfl)
      | (apply Frame.andThen; rotate_left; (with_reducible apply fabSend_frame); rfl)
      | (with_reducible refine Frame.each _ ?_ (fun _ _ => ?_)) | (split) | (dsimp only)

theorem yardLoad_frame (s : State) : Frame 0x23000 s (yardLoad s) := by
  unfold yardLoad
  try dsimp only
  repeat' first
      | (with_reducible assumption) | (with_reducible exact Frame.refl _ _)
      | (apply Frame.andThen; rotate_left; (with_reducible apply updYrd_frame); rfl)
      | (apply Frame.andThen; rotate_left; (with_reducible apply sendJoin_frame); rfl)
      | (apply Frame.andThen; rotate_left; (with_reducible apply sendMsg_frame); rfl) | (split) | (dsimp only)

theorem yardUnload_frame (s : State) : Frame 0x23000 s (yardUnload s) := by
  unfold yardUnload
  try dsimp only
  repeat' first
      | (with_reducible assumption) | (with_reducible exact Frame.refl _ _)
      | (apply Frame.andThen; rotate_left; (with_reducible apply want_frame); rfl) | (split) | (dsimp only)

theorem execDescReq_frame (m : YMsg) (s : State) : FrameOut 0x27010 s (execDescReq m s) := by
  unfold execDescReq
  try dsimp only
  repeat' first
      | (with_reducible refine FrameOut.go ?_) | (with_reducible assumption) | (with_reducible exact Frame.refl _ _)
      | (apply Frame.andThen; rotate_left; (with_reducible apply sendMsg_frame); rfl)
      | ((with_reducible apply receive_frame); rotate_left; rfl; intros) | (with_reducible refine Frame.each _ ?_ (fun _ _ => ?_)) | (split)
      | (dsimp only)

theorem execDescPart_frame (m : YMsg) (s : State) : FrameOut 0x27010 s (execDescPart m s) := by
  unfold execDescPart
  try dsimp only
  repeat' first
      | (with_reducible refine FrameOut.go ?_) | (with_reducible assumption) | (with_reducible exact Frame.refl _ _)
      | (apply Frame.andThen; rotate_left; (with_reducible apply updYrd_frame); rfl)
      | ((with_reducible apply receive_frame); rotate_left; rfl; intros) | (with_reducible refine Frame.each _ ?_ (fun _ _ => ?_)) | (split)
      | (dsimp only)

theorem execLedger_frame (m : YMsg) (s : State) : FrameOut 0x2af816 s (execLedger m s) := by
  unfold execLedger
  try dsimp only
  repeat' first
      | (with_reducible refine FrameOut.go ?_) | (with_reducible assumption) | (with_reducible exact Frame.refl _ _)
      | (apply Frame.andThen; rotate_left; (with_reducible apply updYrd_frame); rfl)
      | (apply Frame.andThen; rotate_left; (with_reducible apply deferError_frame); rfl)
      | (apply Frame.andThen; rotate_left; (with_reducible apply appendLoss_frame); rfl)
      | (apply Frame.andThen; rotate_left; (with_reducible apply writeYardPage_frame); rfl)
      | ((with_reducible apply receive_frame); rotate_left; rfl; intros) | (with_reducible refine Frame.each _ ?_ (fun _ _ => ?_)) | (split)
      | (dsimp only)

end Sys2Proof.Machine
end

