-- ==== Sys2Proof/Laws/FrameTape.lean ====
section
/-!
SUPPORT. What each operation leaves alone: the weaver and loading. The number of a frame has one bit for each part of the state
that the operation may write (`Fld.idx`).
-/

namespace Sys2Proof.Machine

set_option linter.all false

theorem updWrv_frame (f : Wrv → Wrv) (s : State) : Frame 0x80 s (updWrv f s) := by
  unfold updWrv
  try dsimp only
  repeat' first
      | (with_reducible assumption) | (with_reducible exact Frame.refl _ _) | (split) | (dsimp only)
      | ((with_reducible apply Frame.set_wrv); rotate_left; rfl)

theorem updLane_frame (k : Nat) (f : Lane → Lane) (s : State) : Frame 0x80 s (updLane k f s) := by
  unfold updLane
  try dsimp only
  repeat' first
      | (with_reducible assumption) | (with_reducible exact Frame.refl _ _)
      | (apply Frame.andThen; rotate_left; (with_reducible apply updWrv_frame); rfl) | (split) | (dsimp only)

theorem sendBlocks_frame (k : Nat) (bs : List (Bool × Nat)) (s : State) : Frame 0x80 s (sendBlocks k bs s) := by
  unfold sendBlocks
  try dsimp only
  repeat' first
      | (with_reducible assumption) | (with_reducible exact Frame.refl _ _)
      | (apply Frame.andThen; rotate_left; (with_reducible apply updLane_frame); rfl)
      | (with_reducible refine Frame.foldl_snd _ ?_ (fun _ _ => ?_)) | (with_reducible refine Frame.foldl _ ?_ (fun _ _ => ?_)) | (split)
      | (dsimp only)

theorem sendDrive_frame (ps : List Nat) (s : State) : Frame 0x80 s (sendDrive ps s) := by
  unfold sendDrive
  try dsimp only
  repeat' first
      | (with_reducible assumption) | (with_reducible exact Frame.refl _ _)
      | (apply Frame.andThen; rotate_left; (with_reducible apply sendBlocks_frame); rfl)
      | (with_reducible refine Frame.each _ ?_ (fun _ _ => ?_)) | (split) | (dsimp only)

theorem gateOff_frame (s : State) : Frame 0x20080 s (gateOff s) := by
  unfold gateOff
  try dsimp only
  repeat' first
      | (with_reducible assumption) | (with_reducible exact Frame.refl _ _)
      | (apply Frame.andThen; rotate_left; (with_reducible apply updLane_frame); rfl)
      | (apply Frame.andThen; rotate_left; (with_reducible apply inc_frame); rfl)
      | (apply Frame.andThen; rotate_left; (with_reducible apply sendBlocks_frame); rfl)
      | (apply Frame.andThen; rotate_left; (with_reducible apply updWrv_frame); rfl)
      | (with_reducible refine Frame.each _ ?_ (fun _ _ => ?_)) | (split) | (dsimp only)

theorem startCause_frame (f : Wrv → Wrv) (s : State) : Frame 0x20080 s (startCause f s) := by
  unfold startCause
  try dsimp only
  repeat' first
      | (with_reducible assumption) | (with_reducible exact Frame.refl _ _)
      | (apply Frame.andThen; rotate_left; (with_reducible apply gateOff_frame); rfl)
      | (apply Frame.andThen; rotate_left; (with_reducible apply updWrv_frame); rfl) | (split) | (dsimp only)

theorem clearCause_frame (f : Wrv → Wrv) (s : State) : Frame 0x80 s (clearCause f s) := by
  unfold clearCause
  try dsimp only
  repeat' first
      | (with_reducible assumption) | (with_reducible exact Frame.refl _ _)
      | (apply Frame.andThen; rotate_left; (with_reducible apply updWrv_frame); rfl) | (split) | (dsimp only)

theorem takeClear_frame (producer : Nat) (src : Nat) (code : Nat) (arg : Nat) (f : Wrv → Wrv) (s : State)
    : Frame 0x2c080 s (takeClear producer src code arg f s) := by
  unfold takeClear
  try dsimp only
  repeat' first
      | (with_reducible assumption) | (with_reducible exact Frame.refl _ _)
      | ((with_reducible apply boxTake_frame); rotate_left; rfl; intros)
      | (apply Frame.andThen; rotate_left; (with_reducible apply clearCause_frame); rfl) | (split) | (dsimp only)

theorem execPesInhibit_frame (src : Nat) (arg : Nat) (s : State) : FrameOut 0x2c080 s (execPesInhibit src arg s) := by
  unfold execPesInhibit
  try dsimp only
  repeat' first
      | (with_reducible refine FrameOut.go ?_) | (with_reducible assumption) | (with_reducible exact Frame.refl _ _)
      | ((with_reducible apply boxTake_frame); rotate_left; rfl; intros)
      | (apply Frame.andThen; rotate_left; (with_reducible apply startCause_frame); rfl) | (split) | (dsimp only)

theorem execShockInhibit_frame (src : Nat) (arg : Nat) (s : State) : FrameOut 0x2c080 s (execShockInhibit src arg s) := by
  unfold execShockInhibit
  try dsimp only
  repeat' first
      | (with_reducible refine FrameOut.go ?_) | (with_reducible assumption) | (with_reducible exact Frame.refl _ _)
      | ((with_reducible apply boxTake_frame); rotate_left; rfl; intros)
      | (apply Frame.andThen; rotate_left; (with_reducible apply startCause_frame); rfl) | (split) | (dsimp only)

theorem execLoopFaultInhibit_frame (src : Nat) (arg : Nat) (s : State) : FrameOut 0x2c080 s (execLoopFaultInhibit src arg s) := by
  unfold execLoopFaultInhibit
  try dsimp only
  repeat' first
      | (with_reducible refine FrameOut.go ?_) | (with_reducible assumption) | (with_reducible exact Frame.refl _ _)
      | ((with_reducible apply boxTake_frame); rotate_left; rfl; intros)
      | (apply Frame.andThen; rotate_left; (with_reducible apply startCause_frame); rfl) | (split) | (dsimp only)

theorem execManagementInhibit_frame (src : Nat) (arg : Nat) (s : State) : FrameOut 0x2c080 s (execManagementInhibit src arg s) := by
  unfold execManagementInhibit
  try dsimp only
  repeat' first
      | (with_reducible refine FrameOut.go ?_) | (with_reducible assumption) | (with_reducible exact Frame.refl _ _)
      | ((with_reducible apply boxTake_frame); rotate_left; rfl; intros)
      | (apply Frame.andThen; rotate_left; (with_reducible apply startCause_frame); rfl) | (split) | (dsimp only)

theorem execPesCauseCleared_frame (src : Nat) (arg : Nat) (s : State) : FrameOut 0x2c080 s (execPesCauseCleared src arg s) := by
  unfold execPesCauseCleared
  try dsimp only
  repeat' first
      | (with_reducible refine FrameOut.go ?_) | (with_reducible assumption) | (with_reducible exact Frame.refl _ _)
      | (apply Frame.andThen; rotate_left; (with_reducible apply takeClear_frame); rfl) | (split) | (dsimp only)

theorem execShockCauseCleared_frame (src : Nat) (arg : Nat) (s : State) : FrameOut 0x2c080 s (execShockCauseCleared src arg s) := by
  unfold execShockCauseCleared
  try dsimp only
  repeat' first
      | (with_reducible refine FrameOut.go ?_) | (with_reducible assumption) | (with_reducible exact Frame.refl _ _)
      | (apply Frame.andThen; rotate_left; (with_reducible apply takeClear_frame); rfl) | (split) | (dsimp only)

theorem execLoopCauseCleared_frame (src : Nat) (arg : Nat) (s : State) : FrameOut 0x2c080 s (execLoopCauseCleared src arg s) := by
  unfold execLoopCauseCleared
  try dsimp only
  repeat' first
      | (with_reducible refine FrameOut.go ?_) | (with_reducible assumption) | (with_reducible exact Frame.refl _ _)
      | (apply Frame.andThen; rotate_left; (with_reducible apply takeClear_frame); rfl) | (split) | (dsimp only)

theorem execManagementCauseCleared_frame (src : Nat) (arg : Nat) (s : State)
    : FrameOut 0x2c080 s (execManagementCauseCleared src arg s) := by
  unfold execManagementCauseCleared
  try dsimp only
  repeat' first
      | (with_reducible refine FrameOut.go ?_) | (with_reducible assumption) | (with_reducible exact Frame.refl _ _)
      | (apply Frame.andThen; rotate_left; (with_reducible apply takeClear_frame); rfl) | (split) | (dsimp only)

theorem execWrvUnknownEvent_frame (src : Nat) (code : Nat) (arg : Nat) (s : State)
    : FrameOut 0x2c000 s (execWrvUnknownEvent src code arg s) := by
  unfold execWrvUnknownEvent
  try dsimp only
  repeat' first
      | (with_reducible refine FrameOut.go ?_) | (with_reducible assumption) | (with_reducible exact Frame.refl _ _)
      | ((with_reducible apply boxTake_frame); rotate_left; rfl; intros)
      | (apply Frame.andThen; rotate_left; (with_reducible apply inc_frame); rfl) | (split) | (dsimp only)

theorem updPlace_frame (i : Nat) (f : Placement → Placement) (s : State) : Frame 0x80 s (updPlace i f s) := by
  unfold updPlace
  try dsimp only
  repeat' first
      | (with_reducible assumption) | (with_reducible exact Frame.refl _ _)
      | (apply Frame.andThen; rotate_left; (with_reducible apply updWrv_frame); rfl) | (split) | (dsimp only)

theorem noPosition_frame (p : Nat) (s : State) : Frame 0x24006 s (noPosition p s) := by
  unfold noPosition
  try dsimp only
  repeat' first
      | (with_reducible assumption) | (with_reducible exact Frame.refl _ _)
      | (apply Frame.andThen; rotate_left; (with_reducible apply deferError_frame); rfl)
      | (apply Frame.andThen; rotate_left; (with_reducible apply updPart_frame); rfl) | (split) | (dsimp only)

theorem placeEntries_frame (x : Placement) (s : State) : Frame 0x20200 s (placeEntries x s) := by
  unfold placeEntries
  try dsimp only
  repeat' first
      | (with_reducible assumption) | (with_reducible exact Frame.refl _ _)
      | (apply Frame.andThen; rotate_left; (with_reducible apply schedule_frame); rfl)
      | (with_reducible refine Frame.each _ ?_ (fun _ _ => ?_)) | (split) | (dsimp only)

theorem addPlacement_frame (x : Placement) (s : State) : Frame 0x20280 s (addPlacement x s) := by
  unfold addPlacement
  try dsimp only
  repeat' first
      | (with_reducible assumption) | (with_reducible exact Frame.refl _ _)
      | (apply Frame.andThen; rotate_left; (with_reducible apply placeEntries_frame); rfl)
      | (apply Frame.andThen; rotate_left; (with_reducible apply updWrv_frame); rfl) | (split) | (dsimp only)

theorem planEnd_frame (p : Nat) (x : Placement) (s : State) : Frame 0x2c200 s (planEnd p x s) := by
  unfold planEnd
  try dsimp only
  repeat' first
      | (with_reducible assumption) | (with_reducible exact Frame.refl _ _)
      | (apply Frame.andThen; rotate_left; (with_reducible apply schedule_frame); rfl)
      | (apply Frame.andThen; rotate_left; (with_reducible apply post_frame); rfl) | (split) | (dsimp only)

theorem placeNext_frame (p : Nat) (s : State)  {s' : State} (h : placeNext p s = some s') : Frame 0x2c284 s s' := by
  unfold placeNext at h
  try dsimp only at h
  repeat' split at h
  all_goals try cases h
  all_goals
  repeat' first
      | (with_reducible assumption) | (with_reducible exact Frame.refl _ _)
      | (apply Frame.andThen; rotate_left; (with_reducible apply planEnd_frame); rfl)
      | (apply Frame.andThen; rotate_left; (with_reducible apply addPlacement_frame); rfl)
      | (apply Frame.andThen; rotate_left; (with_reducible apply updPart_frame); rfl)
      | (apply Frame.andThen; rotate_left; (with_reducible apply updWrv_frame); rfl)
      | (with_reducible refine Frame.foldl_snd _ ?_ (fun _ _ => ?_)) | (with_reducible refine Frame.foldl _ ?_ (fun _ _ => ?_)) | (split)
      | (dsimp only)

theorem saveDirectory_frame (p : Nat) (old : Directory) (s : State) : Frame 0x800 s (saveDirectory p old s) := by
  unfold saveDirectory
  try dsimp only
  repeat' first
      | (with_reducible assumption) | (with_reducible exact Frame.refl _ _)
      | (apply Frame.andThen; rotate_left; (with_reducible apply updShd_frame); rfl)
      | (apply Frame.andThen; rotate_left; (with_reducible apply journalRec_frame); rfl)
      | (with_reducible refine Frame.each _ ?_ (fun _ _ => ?_)) | (split) | (dsimp only)

theorem saveImages_frame (s : State) : Frame 0x800 s (saveImages s) := by
  unfold saveImages
  try dsimp only
  repeat' first
      | (with_reducible assumption) | (with_reducible exact Frame.refl _ _)
      | (apply Frame.andThen; rotate_left; (with_reducible apply pumpAll_frame); rfl)
      | (apply Frame.andThen; rotate_left; (with_reducible apply storeUnits_frame); rfl)
      | (with_reducible refine Frame.each _ ?_ (fun _ _ => ?_)) | (split) | (dsimp only)

theorem reallocated_frame (p : Nat) (ds : Nat) (s : State) : Frame 0x20900 s (reallocated p ds s) := by
  unfold reallocated
  try dsimp only
  repeat' first
      | (with_reducible assumption) | (with_reducible exact Frame.refl _ _)
      | (apply Frame.andThen; rotate_left; (with_reducible apply inc_frame); rfl)
      | (apply Frame.andThen; rotate_left; (with_reducible apply releaseWeak_frame); rfl)
      | (with_reducible refine Frame.each _ ?_ (fun _ _ => ?_)) | (split) | (dsimp only)

theorem placementComplete_frame (i : Nat) (s : State) : Frame 0x2c996 s (placementComplete i s) := by
  unfold placementComplete
  try dsimp only
  repeat' first
      | (with_reducible assumption) | (with_reducible exact Frame.refl _ _)
      | (apply Frame.andThen; rotate_left; (with_reducible apply saveDirectory_frame); rfl)
      | (apply Frame.andThen; rotate_left; (with_reducible apply closeLoft_frame); rfl)
      | (apply Frame.andThen; rotate_left; (with_reducible apply updPlace_frame); rfl)
      | (apply Frame.andThen; rotate_left; (with_reducible apply giveBack_frame); rfl)
      | (apply Frame.andThen; rotate_left; (with_reducible apply updPart_frame); rfl)
      | (apply Frame.andThen; rotate_left; (with_reducible apply reallocated_frame); rfl)
      | (with_reducible refine Frame.each _ ?_ (fun _ _ => ?_)) | (split) | (dsimp only)

theorem freeRewrite_frame (i : Nat) (row : Nat) (s : State) : Frame 0x24090 s (freeRewrite i row s) := by
  unfold freeRewrite
  try dsimp only
  repeat' first
      | (with_reducible assumption) | (with_reducible exact Frame.refl _ _)
      | (apply Frame.andThen; rotate_left; (with_reducible apply updPlace_frame); rfl)
      | (apply Frame.andThen; rotate_left; (with_reducible apply giveBack_frame); rfl) | (split) | (dsimp only)

theorem rowPasses_frame (i : Nat) (row : Nat) (s : State) : Frame 0x2c996 s (rowPasses i row s) := by
  unfold rowPasses
  try dsimp only
  repeat' first
      | (with_reducible assumption) | (with_reducible exact Frame.refl _ _)
      | (apply Frame.andThen; rotate_left; (with_reducible apply placementComplete_frame); rfl)
      | (apply Frame.andThen; rotate_left; (with_reducible apply updPlace_frame); rfl)
      | (apply Frame.andThen; rotate_left; (with_reducible apply freeRewrite_frame); rfl) | (split) | (dsimp only)

theorem directoryFails_frame (x : Placement) (s : State) : Frame 0x24008 s (directoryFails x s) := by
  unfold directoryFails
  try dsimp only
  repeat' first
      | (with_reducible assumption) | (with_reducible exact Frame.refl _ _)
      | (apply Frame.andThen; rotate_left; (with_reducible apply postEvent_frame); rfl) | (split) | (dsimp only)
      | ((with_reducible apply Frame.set_cart); rotate_left; rfl)

theorem writtenAgain_frame (i : Nat) (s : State) : Frame 0x24098 s (writtenAgain i s) := by
  unfold writtenAgain
  try dsimp only
  repeat' first
      | (with_reducible assumption) | (with_reducible exact Frame.refl _ _)
      | (apply Frame.andThen; rotate_left; (with_reducible apply updPlace_frame); rfl)
      | (apply Frame.andThen; rotate_left; (with_reducible apply giveBack_frame); rfl)
      | (apply Frame.andThen; rotate_left; (with_reducible apply inc_frame); rfl)
      | (apply Frame.andThen; rotate_left; (with_reducible apply directoryFails_frame); rfl)
      | (apply Frame.andThen; rotate_left; (with_reducible apply updWrv_frame); rfl)
      | (with_reducible refine Frame.each _ ?_ (fun _ _ => ?_)) | (split) | (dsimp only)

theorem settleCarry_frame (p : Nat) (s : State) : Frame 0x24098 s (settleCarry p s) := by
  unfold settleCarry
  try dsimp only
  repeat' first
      | (with_reducible assumption) | (with_reducible exact Frame.refl _ _)
      | (apply Frame.andThen; rotate_left; (with_reducible apply writtenAgain_frame); rfl)
      | (with_reducible refine Frame.each _ ?_ (fun _ _ => ?_)) | (split) | (dsimp only)

theorem execWriteStopped_frame (part : Nat) (ds : Nat) (s : State) : FrameOut 0x24004 s (execWriteStopped part ds s) := by
  unfold execWriteStopped
  try dsimp only
  repeat' first
      | (with_reducible refine FrameOut.go ?_) | (with_reducible assumption) | (with_reducible exact Frame.refl _ _)
      | (apply Frame.andThen; rotate_left; (with_reducible apply postEvent_frame); rfl)
      | (apply Frame.andThen; rotate_left; (with_reducible apply updPart_frame); rfl)
      | (apply Frame.andThen; rotate_left; (with_reducible apply inc_frame); rfl) | (split) | (dsimp only)

theorem holdRewrite_frame (own : Nat) (row : Nat) (s : State) : Frame 0x24090 s (holdRewrite own row s) := by
  unfold holdRewrite
  try dsimp only
  repeat' first
      | (with_reducible assumption) | (with_reducible exact Frame.refl _ _)
      | (apply Frame.andThen; rotate_left; (with_reducible apply updPlace_frame); rfl)
      | (apply Frame.andThen; rotate_left; (with_reducible apply acquireOne_frame); rfl)
      | (apply Frame.andThen; rotate_left; (with_reducible apply acquireOne_frame_eq) <;> assumption; rfl) | (split) | (dsimp only)

theorem placeCopy_frame (x0 : Nat) (x1 : Nat) (x2 : Nat) (x3 : Nat) (x4 : Nat) (x5 : Nat) (x6 : Nat) (x7 : Nat) (x8 : State)
    : Frame 0x24298 x8 (placeCopy x0 x1 x2 x3 x4 x5 x6 x7 x8) := by
  fun_induction placeCopy x0 x1 x2 x3 x4 x5 x6 x7 x8 <;> try dsimp +zetaDelta only
  all_goals
  repeat' first
      | (with_reducible assumption) | (with_reducible exact Frame.refl _ _)
      | (apply Frame.andThen; rotate_left; (with_reducible apply updPlace_frame); rfl)
      | (apply Frame.andThen; rotate_left; (with_reducible apply writtenAgain_frame); rfl)
      | (apply Frame.andThen; rotate_left; (with_reducible apply schedule_frame); rfl)
      | (apply Frame.andThen; rotate_left; (with_reducible apply inc_frame); rfl)
      | (apply Frame.andThen; rotate_left; (with_reducible apply updWrv_frame); rfl) | ((with_reducible apply Frame.getD) <;> intros)
      | (apply Frame.andThen; rotate_left; assumption; rfl) | (split) | (dsimp only)

theorem copyFails_frame (own : Nat) (phys : Nat) (row : Nat) (chan : Nat) (edge : Nat) (earliest : Nat) (s : State)
    : Frame 0x24298 s (copyFails own phys row chan edge earliest s) := by
  unfold copyFails
  try dsimp only
  repeat' first
      | (with_reducible assumption) | (with_reducible exact Frame.refl _ _)
      | (apply Frame.andThen; rotate_left; (with_reducible apply updPlace_frame); rfl)
      | (apply Frame.andThen; rotate_left; (with_reducible apply writtenAgain_frame); rfl)
      | (apply Frame.andThen; rotate_left; (with_reducible apply placeCopy_frame); rfl)
      | (apply Frame.andThen; rotate_left; (with_reducible apply holdRewrite_frame); rfl) | ((with_reducible apply Frame.getD) <;> intros)
      | (split) | (dsimp only)

theorem execVerifyVerdict_frame (o : VerdictObs) (s : State) : FrameOut 0x2cb9e s (execVerifyVerdict o s) := by
  unfold execVerifyVerdict
  try dsimp only
  repeat' first
      | (with_reducible refine FrameOut.go ?_) | (with_reducible assumption) | (with_reducible exact Frame.refl _ _)
      | (apply Frame.andThen; rotate_left; (with_reducible apply updPlace_frame); rfl)
      | (apply Frame.andThen; rotate_left; (with_reducible apply rowPasses_frame); rfl)
      | (apply Frame.andThen; rotate_left; (with_reducible apply inc_frame); rfl)
      | (apply Frame.andThen; rotate_left; (with_reducible apply copyFails_frame); rfl)
      | (apply Frame.andThen; rotate_left; (with_reducible apply updWrv_frame); rfl) | (split) | (dsimp only)

theorem loadSlot_frame (s : State) : Frame 0x80 s (loadSlot s) := by
  unfold loadSlot
  try dsimp only
  repeat' first
      | (with_reducible assumption) | (with_reducible exact Frame.refl _ _)
      | (apply Frame.andThen; rotate_left; (with_reducible apply updWrv_frame); rfl)
      | (with_reducible refine Frame.foldl_snd _ ?_ (fun _ _ => ?_)) | (with_reducible refine Frame.foldl _ ?_ (fun _ _ => ?_)) | (split)
      | (dsimp only)

theorem rewriteAreaFires_frame (e : SchedEnt) (s : State) : Frame 0x80 s (rewriteAreaFires e s) := by
  unfold rewriteAreaFires
  try dsimp only
  repeat' first
      | (with_reducible assumption) | (with_reducible exact Frame.refl _ _)
      | (apply Frame.andThen; rotate_left; (with_reducible apply updWrv_frame); rfl)
      | (with_reducible refine Frame.each _ ?_ (fun _ _ => ?_)) | (split) | (dsimp only)

theorem execRewriteArea_frame (idx : Nat) (s : State) : FrameOut 0x20280 s (execRewriteArea idx s) := by
  unfold execRewriteArea
  try dsimp only
  repeat' first
      | (with_reducible refine FrameOut.go ?_) | (with_reducible assumption) | (with_reducible exact Frame.refl _ _)
      | ((with_reducible apply fire_frame); rotate_left; rfl; intros)
      | (apply Frame.andThen; rotate_left; (with_reducible apply rewriteAreaFires_frame); rfl) | (split) | (dsimp only)

theorem splitFires_frame (e : SchedEnt) (s : State) : Frame 0x80 s (splitFires e s) := by
  unfold splitFires
  try dsimp only
  repeat' first
      | (with_reducible assumption) | (with_reducible exact Frame.refl _ _)
      | (apply Frame.andThen; rotate_left; (with_reducible apply updWrv_frame); rfl) | (split) | (dsimp only)

theorem execSplit_frame (idx : Nat) (s : State) : FrameOut 0x20280 s (execSplit idx s) := by
  unfold execSplit
  try dsimp only
  repeat' first
      | (with_reducible refine FrameOut.go ?_) | (with_reducible assumption) | (with_reducible exact Frame.refl _ _)
      | ((with_reducible apply fire_frame); rotate_left; rfl; intros)
      | (apply Frame.andThen; rotate_left; (with_reducible apply splitFires_frame); rfl) | (split) | (dsimp only)

theorem loseSlot_frame (s : State) : Frame 0x24298 s (loseSlot s) := by
  unfold loseSlot
  try dsimp only
  repeat' first
      | (with_reducible assumption) | (with_reducible exact Frame.refl _ _)
      | (apply Frame.andThen; rotate_left; (with_reducible apply updPlace_frame); rfl)
      | (apply Frame.andThen; rotate_left; (with_reducible apply inc_frame); rfl)
      | (apply Frame.andThen; rotate_left; (with_reducible apply copyFails_frame); rfl)
      | (with_reducible refine Frame.each _ ?_ (fun _ _ => ?_)) | (split) | (dsimp only)

theorem endSlot_frame (s : State) : Frame 0x24298 s (endSlot s) := by
  unfold endSlot
  try dsimp only
  repeat' first
      | (with_reducible assumption) | (with_reducible exact Frame.refl _ _)
      | (apply Frame.andThen; rotate_left; (with_reducible apply addCtr_frame); rfl)
      | (apply Frame.andThen; rotate_left; (with_reducible apply loseSlot_frame); rfl)
      | (apply Frame.andThen; rotate_left; (with_reducible apply updWrv_frame); rfl) | (split) | (dsimp only)

theorem sendFrame_frame (period : Nat) (t : Nat) (n : Nat) (s : State) : Frame 0x80 s (sendFrame period t n s) := by
  unfold sendFrame
  try dsimp only
  repeat' first
      | (with_reducible assumption) | (with_reducible exact Frame.refl _ _)
      | (apply Frame.andThen; rotate_left; (with_reducible apply updLane_frame); rfl)
      | (apply Frame.andThen; rotate_left; (with_reducible apply sendBlocks_frame); rfl)
      | (apply Frame.andThen; rotate_left; (with_reducible apply updWrv_frame); rfl)
      | (with_reducible refine Frame.each _ ?_ (fun _ _ => ?_)) | (split) | (dsimp only)

theorem execLaneFrame_frame (o : LaneObs) (s : State) : FrameOut 0x24298 s (execLaneFrame o s) := by
  unfold execLaneFrame
  try dsimp only
  repeat' first
      | (with_reducible refine FrameOut.go ?_) | (with_reducible assumption) | (with_reducible exact Frame.refl _ _)
      | (apply Frame.andThen; rotate_left; (with_reducible apply endSlot_frame); rfl)
      | (apply Frame.andThen; rotate_left; (with_reducible apply sendFrame_frame); rfl)
      | (apply Frame.andThen; rotate_left; (with_reducible apply loadSlot_frame); rfl) | (split) | (dsimp only)

theorem notePitch_frame (dur : Nat) (s : State) : Frame 0x80 s (notePitch dur s) := by
  unfold notePitch
  try dsimp only
  repeat' first
      | (with_reducible assumption) | (with_reducible exact Frame.refl _ _)
      | (apply Frame.andThen; rotate_left; (with_reducible apply updWrv_frame); rfl) | (split) | (dsimp only)

theorem postSpeed_frame (v : Nat) (s : State) : Frame 0x2c080 s (postSpeed v s) := by
  unfold postSpeed
  try dsimp only
  repeat' first
      | (with_reducible assumption) | (with_reducible exact Frame.refl _ _)
      | (apply Frame.andThen; rotate_left; (with_reducible apply post_frame); rfl)
      | (apply Frame.andThen; rotate_left; (with_reducible apply updWrv_frame); rfl) | (split) | (dsimp only)

theorem sendIdle_frame (s : State) : Frame 0x80 s (sendIdle s) := by
  unfold sendIdle
  try dsimp only
  repeat' first
      | (with_reducible assumption) | (with_reducible exact Frame.refl _ _)
      | (apply Frame.andThen; rotate_left; (with_reducible apply updLane_frame); rfl)
      | (apply Frame.andThen; rotate_left; (with_reducible apply sendBlocks_frame); rfl)
      | (with_reducible refine Frame.each _ ?_ (fun _ _ => ?_)) | (split) | (dsimp only)

theorem scheduleDensity_frame (cls : Nat) (wrap : Nat) (c : Nat) (s : State) : Frame 0x20200 s (scheduleDensity cls wrap c s) := by
  unfold scheduleDensity
  try dsimp only
  repeat' first
      | (with_reducible assumption) | (with_reducible exact Frame.refl _ _)
      | (apply Frame.andThen; rotate_left; (with_reducible apply schedule_frame); rfl) | (split) | (dsimp only)

theorem scheduleOpen_frame (p : Nat) (s : State) : Frame 0x24206 s (scheduleOpen p s) := by
  unfold scheduleOpen
  try dsimp only
  repeat' first
      | (with_reducible assumption) | (with_reducible exact Frame.refl _ _)
      | (apply Frame.andThen; rotate_left; (with_reducible apply scheduleDensity_frame); rfl)
      | (apply Frame.andThen; rotate_left; (with_reducible apply noPosition_frame); rfl)
      | (apply Frame.andThen; rotate_left; (with_reducible apply schedule_frame); rfl) | (split) | (dsimp only)

theorem afterWrap_frame (p : Nat) (w : Nat) (s : State) : Frame 0x24206 s (afterWrap p w s) := by
  unfold afterWrap
  try dsimp only
  repeat' first
      | (with_reducible assumption) | (with_reducible exact Frame.refl _ _)
      | (apply Frame.andThen; rotate_left; (with_reducible apply noPosition_frame); rfl)
      | (apply Frame.andThen; rotate_left; (with_reducible apply schedule_frame); rfl)
      | (apply Frame.andThen; rotate_left; (with_reducible apply scheduleOpen_frame); rfl) | (split) | (dsimp only)

theorem traversed_frame (e : SchedEnt) (s : State) : Frame 0x2c206 s (traversed e s) := by
  unfold traversed
  try dsimp only
  repeat' first
      | (with_reducible assumption) | (with_reducible exact Frame.refl _ _)
      | (apply Frame.andThen; rotate_left; (with_reducible apply afterWrap_frame); rfl)
      | (apply Frame.andThen; rotate_left; (with_reducible apply post_frame); rfl) | (split) | (dsimp only)

theorem scheduleDirectory_frame (p : Nat) (b : Bool) (s : State) : Frame 0x20200 s (scheduleDirectory p b s) := by
  unfold scheduleDirectory
  try dsimp only
  repeat' first
      | (with_reducible assumption) | (with_reducible exact Frame.refl _ _)
      | (apply Frame.andThen; rotate_left; (with_reducible apply scheduleDensity_frame); rfl)
      | (apply Frame.andThen; rotate_left; (with_reducible apply schedule_frame); rfl) | (split) | (dsimp only)

theorem requeueCarry_frame (x : Placement) (slot : Nat) (s : State) : Frame 0x80 s (requeueCarry x slot s) := by
  unfold requeueCarry
  try dsimp only
  repeat' first
      | (with_reducible assumption) | (with_reducible exact Frame.refl _ _)
      | (apply Frame.andThen; rotate_left; (with_reducible apply updWrv_frame); rfl) | (split) | (dsimp only)

theorem endWindow_frame (why : Nat) (s : State) : Frame 0xacf9e s (endWindow why s) := by
  unfold endWindow
  try dsimp only
  repeat' first
      | (with_reducible assumption) | (with_reducible exact Frame.refl _ _)
      | (apply Frame.andThen; rotate_left; (with_reducible apply afterWrap_frame); rfl)
      | (apply Frame.andThen; rotate_left; (with_reducible apply saveImages_frame); rfl)
      | (apply Frame.andThen; rotate_left; (with_reducible apply requeueCarry_frame); rfl)
      | (apply Frame.andThen; rotate_left; (with_reducible apply sendIdle_frame); rfl)
      | (apply Frame.andThen; rotate_left; (with_reducible apply writtenAgain_frame); rfl)
      | (apply Frame.andThen; rotate_left; (with_reducible apply post_frame); rfl)
      | (apply Frame.andThen; rotate_left; (with_reducible apply writeControl_frame); rfl)
      | (apply Frame.andThen; rotate_left; (with_reducible apply releaseHeld_frame); rfl)
      | (apply Frame.andThen; rotate_left; (with_reducible apply updWrv_frame); rfl)
      | (with_reducible refine Frame.each _ ?_ (fun _ _ => ?_)) | (split) | (dsimp only)

theorem execWindowClose_frame (idx : Nat) (s : State) : FrameOut 0xacf9e s (execWindowClose idx s) := by
  unfold execWindowClose
  try dsimp only
  repeat' first
      | (with_reducible refine FrameOut.go ?_) | (with_reducible assumption) | (with_reducible exact Frame.refl _ _)
      | ((with_reducible apply fire_frame); rotate_left; rfl; intros)
      | (apply Frame.andThen; rotate_left; (with_reducible apply endWindow_frame); rfl)
      | (apply Frame.andThen; rotate_left; (with_reducible apply traversed_frame); rfl)
      | (apply Frame.andThen; rotate_left; (with_reducible apply releaseHeld_frame); rfl) | (split) | (dsimp only)

theorem postWeak_frame (p : Nat) (limit : Nat) (s : State) : Frame 0x2c000 s (postWeak p limit s) := by
  unfold postWeak
  try dsimp only
  repeat' first
      | (with_reducible assumption) | (with_reducible exact Frame.refl _ _)
      | (apply Frame.andThen; rotate_left; (with_reducible apply post_frame); rfl) | (with_reducible refine Frame.each _ ?_ (fun _ _ => ?_))
      | (split) | (dsimp only)

theorem placeDirectory_frame (p : Nat) (copyB : Bool) (s : State) : Frame 0x20284 s (placeDirectory p copyB s) := by
  unfold placeDirectory
  try dsimp only
  repeat' first
      | (with_reducible assumption) | (with_reducible exact Frame.refl _ _)
      | (apply Frame.andThen; rotate_left; (with_reducible apply addPlacement_frame); rfl)
      | (apply Frame.andThen; rotate_left; (with_reducible apply updPart_frame); rfl)
      | (apply Frame.andThen; rotate_left; (with_reducible apply schedule_frame); rfl)
      | (apply Frame.andThen; rotate_left; (with_reducible apply inc_frame); rfl) | (split) | (dsimp only)

theorem windowOpenFires_frame (e : SchedEnt) (s : State) : Frame 0xac38c s (windowOpenFires e s) := by
  unfold windowOpenFires
  try dsimp only
  repeat' first
      | (with_reducible assumption) | (with_reducible exact Frame.refl _ _)
      | (apply Frame.andThen; rotate_left; (with_reducible apply placeNext_frame) <;> assumption; rfl)
      | (apply Frame.andThen; rotate_left; (with_reducible apply writeControl_frame); rfl)
      | (apply Frame.andThen; rotate_left; (with_reducible apply postWeak_frame); rfl)
      | (apply Frame.andThen; rotate_left; (with_reducible apply placeDirectory_frame); rfl)
      | (apply Frame.andThen; rotate_left; (with_reducible apply updRch_frame); rfl)
      | (apply Frame.andThen; rotate_left; (with_reducible apply updWrv_frame); rfl) | (split) | (dsimp only)

theorem execWindowOpen_frame (idx : Nat) (s : State) : FrameOut 0xac38c s (execWindowOpen idx s) := by
  unfold execWindowOpen
  try dsimp only
  repeat' first
      | (with_reducible refine FrameOut.go ?_) | (with_reducible assumption) | (with_reducible exact Frame.refl _ _)
      | ((with_reducible apply fire_frame); rotate_left; rfl; intros)
      | (apply Frame.andThen; rotate_left; (with_reducible apply windowOpenFires_frame); rfl) | (split) | (dsimp only)

theorem boundary_frame (durationNs : Nat) (s : State) : Frame 0xacf9e s (boundary durationNs s) := by
  unfold boundary
  try dsimp only
  repeat' first
      | (with_reducible assumption) | (with_reducible exact Frame.refl _ _)
      | (apply Frame.andThen; rotate_left; (with_reducible apply placeNext_frame) <;> assumption; rfl)
      | (apply Frame.andThen; rotate_left; (with_reducible apply endWindow_frame); rfl)
      | (apply Frame.andThen; rotate_left; (with_reducible apply postSpeed_frame); rfl)
      | (apply Frame.andThen; rotate_left; (with_reducible apply notePitch_frame); rfl)
      | (apply Frame.andThen; rotate_left; (with_reducible apply updWrv_frame); rfl) | (split) | (dsimp only)

theorem execDataSetBoundary_frame (durationNs : Nat) (s : State) : FrameOut 0xacf9e s (execDataSetBoundary durationNs s) := by
  unfold execDataSetBoundary
  try dsimp only
  repeat' first
      | (with_reducible refine FrameOut.go ?_) | (with_reducible assumption) | (with_reducible exact Frame.refl _ _)
      | (apply Frame.andThen; rotate_left; (with_reducible apply boundary_frame); rfl)
      | ((with_reducible apply sameCycle_frame); rotate_left; rfl; intros) | (split) | (dsimp only)

theorem execBacklogRestart_frame (part : Nat) (s0 : State) : FrameOut 0x2c09e s0 (execBacklogRestart part s0) := by
  unfold execBacklogRestart
  try dsimp only
  repeat' first
      | (with_reducible refine FrameOut.go ?_) | (with_reducible assumption) | (with_reducible exact Frame.refl _ _)
      | (apply Frame.andThen; rotate_left; (with_reducible apply noPosition_frame); rfl)
      | (apply Frame.andThen; rotate_left; (with_reducible apply inc_frame); rfl)
      | (apply Frame.andThen; rotate_left; (with_reducible apply post_frame); rfl)
      | (apply Frame.andThen; rotate_left; (with_reducible apply settleCarry_frame); rfl)
      | (apply Frame.andThen; rotate_left; (with_reducible apply updWrv_frame); rfl) | (split) | (dsimp only)

theorem watchNext_frame (s : State) : Frame 0x20200 s (watchNext s) := by
  unfold watchNext
  try dsimp only
  repeat' first
      | (with_reducible assumption) | (with_reducible exact Frame.refl _ _)
      | (apply Frame.andThen; rotate_left; (with_reducible apply schedule_frame); rfl) | (split) | (dsimp only)

theorem watchFrom_frame (s : State) : Frame 0x20200 s (watchFrom s) := by
  unfold watchFrom
  try dsimp only
  repeat' first
      | (with_reducible assumption) | (with_reducible exact Frame.refl _ _)
      | (apply Frame.andThen; rotate_left; (with_reducible apply watchNext_frame); rfl)
      | (apply Frame.andThen; rotate_left; (with_reducible apply schedule_frame); rfl) | (split) | (dsimp only)

theorem readWindowFires_frame (e : SchedEnt) (s : State) : Frame 0x20300 s (readWindowFires e s) := by
  unfold readWindowFires
  try dsimp only
  repeat' first
      | (with_reducible assumption) | (with_reducible exact Frame.refl _ _)
      | (apply Frame.andThen; rotate_left; (with_reducible apply watchNext_frame); rfl)
      | (apply Frame.andThen; rotate_left; (with_reducible apply updRch_frame); rfl) | (split) | (dsimp only)

theorem execReadWindow_frame (idx : Nat) (s : State) : FrameOut 0x20300 s (execReadWindow idx s) := by
  unfold execReadWindow
  try dsimp only
  repeat' first
      | (with_reducible refine FrameOut.go ?_) | (with_reducible assumption) | (with_reducible exact Frame.refl _ _)
      | ((with_reducible apply fire_frame); rotate_left; rfl; intros)
      | (apply Frame.andThen; rotate_left; (with_reducible apply readWindowFires_frame); rfl) | (split) | (dsimp only)

theorem settledFires_frame (e : SchedEnt) (s : State) : Frame 0x24206 s (settledFires e s) := by
  unfold settledFires
  try dsimp only
  repeat' first
      | (with_reducible assumption) | (with_reducible exact Frame.refl _ _)
      | (apply Frame.andThen; rotate_left; (with_reducible apply cancelKind_frame); rfl)
      | (apply Frame.andThen; rotate_left; (with_reducible apply watchFrom_frame); rfl)
      | (apply Frame.andThen; rotate_left; (with_reducible apply scheduleOpen_frame); rfl)
      | (apply Frame.andThen; rotate_left; (with_reducible apply scheduleDirectory_frame); rfl) | (split) | (dsimp only)

theorem execSettled_frame (idx : Nat) (s : State) : FrameOut 0x24206 s (execSettled idx s) := by
  unfold execSettled
  try dsimp only
  repeat' first
      | (with_reducible refine FrameOut.go ?_) | (with_reducible assumption) | (with_reducible exact Frame.refl _ _)
      | (apply Frame.andThen; rotate_left; (with_reducible apply settledFires_frame); rfl)
      | ((with_reducible apply fire_frame); rotate_left; rfl; intros) | (split) | (dsimp only)

theorem execControlledStopBegun_frame (src : Nat) (arg : Nat) (s : State) : FrameOut 0x2c200 s (execControlledStopBegun src arg s) := by
  unfold execControlledStopBegun
  try dsimp only
  repeat' first
      | (with_reducible refine FrameOut.go ?_) | (with_reducible assumption) | (with_reducible exact Frame.refl _ _)
      | ((with_reducible apply boxTake_frame); rotate_left; rfl; intros)
      | (apply Frame.andThen; rotate_left; (with_reducible apply cancelKind_frame); rfl)
      | (apply Frame.andThen; rotate_left; (with_reducible apply schedule_frame); rfl) | (split) | (dsimp only)

theorem updCart_frame (f : Cart → Cart) (s : State) : Frame 0x8 s (updCart f s) := by
  unfold updCart
  try dsimp only
  repeat' first
      | (with_reducible assumption) | (with_reducible exact Frame.refl _ _) | (split) | (dsimp only)
      | ((with_reducible apply Frame.set_cart); rotate_left; rfl)

theorem countPositions_frame (s : State) : Frame 0x4 s (countPositions s) := by
  unfold countPositions
  try dsimp only
  repeat' first
      | (with_reducible assumption) | (with_reducible exact Frame.refl _ _)
      | (apply Frame.andThen; rotate_left; (with_reducible apply updPart_frame); rfl)
      | (with_reducible refine Frame.each _ ?_ (fun _ _ => ?_)) | (split) | (dsimp only)

theorem blankCart_frame (s : State) : Frame 0xc s (blankCart s) := by
  unfold blankCart
  try dsimp only
  repeat' first
      | (with_reducible assumption) | (with_reducible exact Frame.refl _ _)
      | (apply Frame.andThen; rotate_left; (with_reducible apply updCart_frame); rfl)
      | (apply Frame.andThen; rotate_left; (with_reducible apply newParts_frame); rfl)
      | (apply Frame.andThen; rotate_left; (with_reducible apply countPositions_frame); rfl) | (split) | (dsimp only)

theorem takeControl_frame (copyB : Bool) (b : Bytes) (s : State) : Frame 0x8 s (takeControl copyB b s) := by
  unfold takeControl
  try dsimp only
  repeat' first
      | (with_reducible assumption) | (with_reducible exact Frame.refl _ _)
      | (apply Frame.andThen; rotate_left; (with_reducible apply updCart_frame); rfl)
      | (with_reducible refine Frame.each _ ?_ (fun _ _ => ?_)) | (split) | (dsimp only)

theorem readCart_frame (scan : List ScanItem) (s0 : State) : Frame 0xc s0 (readCart scan s0) := by
  unfold readCart
  try dsimp only
  repeat' first
      | (with_reducible assumption) | (with_reducible exact Frame.refl _ _)
      | (apply Frame.andThen; rotate_left; (with_reducible apply blankCart_frame); rfl)
      | (apply Frame.andThen; rotate_left; (with_reducible apply updCart_frame); rfl)
      | (apply Frame.andThen; rotate_left; (with_reducible apply takeControl_frame); rfl)
      | (apply Frame.andThen; rotate_left; (with_reducible apply newParts_frame); rfl)
      | (apply Frame.andThen; rotate_left; (with_reducible apply countPositions_frame); rfl)
      | ((with_reducible apply Frame.getD) <;> intros) | (split) | (dsimp only)

theorem takeEod_frame (p : Nat) (e : Eod) (s : State) : Frame 0x4 s (takeEod p e s) := by
  unfold takeEod
  try dsimp only
  repeat' first
      | (with_reducible assumption) | (with_reducible exact Frame.refl _ _)
      | (apply Frame.andThen; rotate_left; (with_reducible apply updPart_frame); rfl) | (split) | (dsimp only)

theorem takeDirectory_frame (scan : List ScanItem) (p : Nat) (s : State) : Frame 0x4 s (takeDirectory scan p s) := by
  unfold takeDirectory
  try dsimp only
  repeat' first
      | (with_reducible assumption) | (with_reducible exact Frame.refl _ _)
      | (apply Frame.andThen; rotate_left; (with_reducible apply takeEod_frame); rfl)
      | (apply Frame.andThen; rotate_left; (with_reducible apply updPart_frame); rfl) | (split) | (dsimp only)

theorem enterFound_frame (p : Nat) (f : Found) (s : State) : Frame 0x4 s (enterFound p f s) := by
  unfold enterFound
  try dsimp only
  repeat' first
      | (with_reducible assumption) | (with_reducible exact Frame.refl _ _)
      | (apply Frame.andThen; rotate_left; (with_reducible apply updPart_frame); rfl) | (split) | (dsimp only)

theorem reopenLoft_frame (p : Nat) (fs : List Found) (s : State) : Frame 0x24014 s (reopenLoft p fs s) := by
  unfold reopenLoft
  try dsimp only
  repeat' first
      | (with_reducible assumption) | (with_reducible exact Frame.refl _ _)
      | (apply Frame.andThen; rotate_left; (with_reducible apply acquireFrom_frame); rfl)
      | (apply Frame.andThen; rotate_left; (with_reducible apply acquireFrom_frame_eq) <;> assumption; rfl)
      | (apply Frame.andThen; rotate_left; (with_reducible apply updPart_frame); rfl) | ((with_reducible apply Frame.getD) <;> intros)
      | (with_reducible refine Frame.foldl_snd _ ?_ (fun _ _ => ?_)) | (with_reducible refine Frame.foldl _ ?_ (fun _ _ => ?_)) | (split)
      | (dsimp only)

theorem closeEarlier_frame (p : Nat) (s : State) : Frame 0x4 s (closeEarlier p s) := by
  unfold closeEarlier
  try dsimp only
  repeat' first
      | (with_reducible assumption) | (with_reducible exact Frame.refl _ _)
      | (apply Frame.andThen; rotate_left; (with_reducible apply updPart_frame); rfl)
      | (with_reducible refine Frame.foldl_snd _ ?_ (fun _ _ => ?_)) | (with_reducible refine Frame.foldl _ ?_ (fun _ _ => ?_)) | (split)
      | (dsimp only)

theorem rebuildPart_frame (scan : List ScanItem) (p : Nat) (s : State) : Frame 0x24014 s (rebuildPart scan p s) := by
  unfold rebuildPart
  try dsimp only
  repeat' first
      | (with_reducible assumption) | (with_reducible exact Frame.refl _ _)
      | (apply Frame.andThen; rotate_left; (with_reducible apply updPart_frame); rfl)
      | (apply Frame.andThen; rotate_left; (with_reducible apply enterFound_frame); rfl)
      | (apply Frame.andThen; rotate_left; (with_reducible apply closeEarlier_frame); rfl)
      | (apply Frame.andThen; rotate_left; (with_reducible apply reopenLoft_frame); rfl)
      | (apply Frame.andThen; rotate_left; (with_reducible apply takeDirectory_frame); rfl)
      | (with_reducible refine Frame.each _ ?_ (fun _ _ => ?_)) | (split) | (dsimp only)

theorem restoreWrite_frame (r : Nat) (p : Nat) (v : Nat × Nat × Nat × Nat) (s : State) : Frame 0x24016 s (restoreWrite r p v s) := by
  unfold restoreWrite
  try dsimp only
  repeat' first
      | (with_reducible assumption) | (with_reducible exact Frame.refl _ _)
      | (apply Frame.andThen; rotate_left; (with_reducible apply moveEnd_frame); rfl)
      | (apply Frame.andThen; rotate_left; (with_reducible apply updPart_frame); rfl)
      | (apply Frame.andThen; rotate_left; (with_reducible apply indexWrite_frame); rfl)
      | (apply Frame.andThen; rotate_left; (with_reducible apply takeGranules_frame); rfl)
      | (apply Frame.andThen; rotate_left; (with_reducible apply takeGranules_frame_eq) <;> assumption; rfl) | (split) | (dsimp only)

theorem resumeWrites_frame (p : Nat) (fs : List Found) (s : State) : Frame 0x6 s (resumeWrites p fs s) := by
  unfold resumeWrites
  try dsimp only
  repeat' first
      | (with_reducible assumption) | (with_reducible exact Frame.refl _ _)
      | (apply Frame.andThen; rotate_left; (with_reducible apply updPart_frame); rfl)
      | (apply Frame.andThen; rotate_left; (with_reducible apply setWrites_frame); rfl)
      | (apply Frame.andThen; rotate_left; (with_reducible apply refreshLaid_frame); rfl) | ((with_reducible apply Frame.getD) <;> intros)
      | (with_reducible refine Frame.foldl_snd _ ?_ (fun _ _ => ?_)) | (with_reducible refine Frame.foldl _ ?_ (fun _ _ => ?_)) | (split)
      | (dsimp only)

theorem restorePart_frame (scan : List ScanItem) (p : Nat) (s : State) : Frame 0x24816 s (restorePart scan p s) := by
  unfold restorePart
  try dsimp only
  repeat' first
      | (with_reducible assumption) | (with_reducible exact Frame.refl _ _)
      | (apply Frame.andThen; rotate_left; (with_reducible apply resumeWrites_frame); rfl)
      | (apply Frame.andThen; rotate_left; (with_reducible apply restoreWrite_frame); rfl)
      | (apply Frame.andThen; rotate_left; (with_reducible apply refreshMarks_frame); rfl)
      | (apply Frame.andThen; rotate_left; (with_reducible apply advanceTail_frame); rfl)
      | (with_reducible refine Frame.each _ ?_ (fun _ _ => ?_)) | (split) | (dsimp only)

theorem reportCut_frame (s : State) : Frame 0x22c806 s (reportCut s) := by
  unfold reportCut
  try dsimp only
  repeat' first
      | (with_reducible assumption) | (with_reducible exact Frame.refl _ _)
      | (apply Frame.andThen; rotate_left; (with_reducible apply deferError_frame); rfl)
      | (apply Frame.andThen; rotate_left; (with_reducible apply updShd_frame); rfl)
      | (apply Frame.andThen; rotate_left; (with_reducible apply appendLoss_frame); rfl)
      | (with_reducible refine Frame.each _ ?_ (fun _ _ => ?_)) | (split) | (dsimp only)

theorem chooseSet_frame (s : State) : Frame 0x800 s (chooseSet s) := by
  unfold chooseSet
  try dsimp only
  repeat' first
      | (with_reducible assumption) | (with_reducible exact Frame.refl _ _)
      | (apply Frame.andThen; rotate_left; (with_reducible apply updShd_frame); rfl) | ((with_reducible apply Frame.getD) <;> intros)
      | (with_reducible refine Frame.foldl_snd _ ?_ (fun _ _ => ?_)) | (with_reducible refine Frame.foldl _ ?_ (fun _ _ => ?_)) | (split)
      | (dsimp only)

theorem rebuild_frame (scan : List ScanItem) (s : State) : Frame 0x22f81e s (rebuild scan s) := by
  unfold rebuild
  try dsimp only
  repeat' first
      | (with_reducible assumption) | (with_reducible exact Frame.refl _ _)
      | (apply Frame.andThen; rotate_left; (with_reducible apply reportCut_frame); rfl)
      | (apply Frame.andThen; rotate_left; (with_reducible apply saveDirectory_frame); rfl)
      | (apply Frame.andThen; rotate_left; (with_reducible apply chooseSet_frame); rfl)
      | (apply Frame.andThen; rotate_left; (with_reducible apply updCart_frame); rfl)
      | (apply Frame.andThen; rotate_left; (with_reducible apply readCart_frame); rfl)
      | (apply Frame.andThen; rotate_left; (with_reducible apply rebuildPart_frame); rfl)
      | (apply Frame.andThen; rotate_left; (with_reducible apply restorePart_frame); rfl)
      | (apply Frame.andThen; rotate_left; (with_reducible apply yardLoad_frame); rfl)
      | (with_reducible refine Frame.each _ ?_ (fun _ _ => ?_)) | (split) | (dsimp only)

theorem loadStep_frame (seq : Nat) (scan : List ScanItem) (s : State) : Frame 0x22f81e s (loadStep seq scan s) := by
  unfold loadStep
  try dsimp only
  repeat' first
      | (with_reducible assumption) | (with_reducible exact Frame.refl _ _)
      | (apply Frame.andThen; rotate_left; (with_reducible apply updCart_frame); rfl)
      | (apply Frame.andThen; rotate_left; (with_reducible apply complete_frame); rfl)
      | (apply Frame.andThen; rotate_left; (with_reducible apply rebuild_frame); rfl)
      | (apply Frame.andThen; rotate_left; (with_reducible apply post_frame); rfl) | (split) | (dsimp only)

theorem execLoad_frame (seq : Nat) (scan : List ScanItem) (s : State) : FrameOut 0x22f81e s (execLoad seq scan s) := by
  unfold execLoad
  try dsimp only
  repeat' first
      | (with_reducible refine FrameOut.go ?_) | (with_reducible assumption) | (with_reducible exact Frame.refl _ _)
      | (apply Frame.andThen; rotate_left; (with_reducible apply setSt_frame); rfl)
      | (apply Frame.andThen; rotate_left; (with_reducible apply loadStep_frame); rfl) | (split) | (dsimp only)

end Sys2Proof.Machine
end

