-- ==== Sys2Proof/Laws/FrameDawn.lean ====
section
/-!
SUPPORT. What each operation leaves alone: the cartridge, configuration, Dawn and Dusk. The number of a frame has one bit for each part of the state
that the operation may write (`Fld.idx`).
-/

namespace Sys2Proof.Machine

set_option linter.all false

theorem beginDirectories_frame (todo : List (Nat × Bool)) (s : State) : Frame 0x88 s (beginDirectories todo s) := by
  unfold beginDirectories
  try dsimp only
  repeat' first
      | (with_reducible assumption) | (with_reducible exact Frame.refl _ _)
      | (apply Frame.andThen; rotate_left; (with_reducible apply updCart_frame); rfl)
      | (apply Frame.andThen; rotate_left; (with_reducible apply updWrv_frame); rfl) | (split) | (dsimp only)

theorem dirStep_frame (s : State) : Frame 0x2c008 s (dirStep s) := by
  unfold dirStep
  try dsimp only
  repeat' first
      | (with_reducible assumption) | (with_reducible exact Frame.refl _ _)
      | (apply Frame.andThen; rotate_left; (with_reducible apply updCart_frame); rfl)
      | (apply Frame.andThen; rotate_left; (with_reducible apply sendTape_frame); rfl) | (split) | (dsimp only)

theorem clearTape_frame (s : State) : Frame 0x24190 s (clearTape s) := by
  unfold clearTape
  try dsimp only
  repeat' first
      | (with_reducible assumption) | (with_reducible exact Frame.refl _ _)
      | (apply Frame.andThen; rotate_left; (with_reducible apply giveBack_frame); rfl)
      | (apply Frame.andThen; rotate_left; (with_reducible apply updRch_frame); rfl)
      | (apply Frame.andThen; rotate_left; (with_reducible apply updWrv_frame); rfl)
      | (with_reducible refine Frame.each _ ?_ (fun _ _ => ?_)) | (split) | (dsimp only)

theorem retireAll_frame (s : State) : Frame 0x24812 s (retireAll s) := by
  unfold retireAll
  try dsimp only
  repeat' first
      | (with_reducible assumption) | (with_reducible exact Frame.refl _ _)
      | (apply Frame.andThen; rotate_left; (with_reducible apply unlock_frame); rfl)
      | (apply Frame.andThen; rotate_left; (with_reducible apply freeReturned_frame); rfl)
      | (apply Frame.andThen; rotate_left; (with_reducible apply retire_frame); rfl)
      | (with_reducible refine Frame.each _ ?_ (fun _ _ => ?_)) | (split) | (dsimp only)

theorem reportStopped_frame (p : Nat) (s : State) : Frame 0x24006 s (reportStopped p s) := by
  unfold reportStopped
  try dsimp only
  repeat' first
      | (with_reducible assumption) | (with_reducible exact Frame.refl _ _)
      | (apply Frame.andThen; rotate_left; (with_reducible apply deferError_frame); rfl) | (split) | (dsimp only)

theorem endUntaken_frame (s : State) : Frame 0x24876 s (endUntaken s) := by
  unfold endUntaken
  try dsimp only
  repeat' first
      | (with_reducible assumption) | (with_reducible exact Frame.refl _ _)
      | (apply Frame.andThen; rotate_left; (with_reducible apply endWrite_frame); rfl)
      | (with_reducible refine Frame.each _ ?_ (fun _ _ => ?_)) | (split) | (dsimp only)

theorem finishUnload_frame (s : State) : Frame 0x2799e s (finishUnload s) := by
  unfold finishUnload
  try dsimp only
  repeat' first
      | (with_reducible assumption) | (with_reducible exact Frame.refl _ _)
      | (apply Frame.andThen; rotate_left; (with_reducible apply updCart_frame); rfl)
      | (apply Frame.andThen; rotate_left; (with_reducible apply retireAll_frame); rfl)
      | (apply Frame.andThen; rotate_left; (with_reducible apply clearTape_frame); rfl)
      | (apply Frame.andThen; rotate_left; (with_reducible apply newParts_frame); rfl)
      | (apply Frame.andThen; rotate_left; (with_reducible apply freeEmptyRing_frame); rfl)
      | (apply Frame.andThen; rotate_left; (with_reducible apply yardUnload_frame); rfl)
      | (with_reducible refine Frame.each _ ?_ (fun _ _ => ?_)) | (split) | (dsimp only)

theorem noteLoad_frame (s : State) : Frame 0x280000 s (noteLoad s) := by
  unfold noteLoad
  try dsimp only
  repeat' first
      | (with_reducible assumption) | (with_reducible exact Frame.refl _ _)
      | (apply Frame.andThen; rotate_left; (with_reducible apply drawMany_frame); rfl)
      | (apply Frame.andThen; rotate_left; (with_reducible apply cmWrite_frame); rfl) | (split) | (dsimp only)

theorem unloadStep_frame (c : Cmd) (s : State) : Frame 0x2af9fe s (unloadStep c s) := by
  unfold unloadStep
  try dsimp only
  repeat' first
      | (with_reducible assumption) | (with_reducible exact Frame.refl _ _)
      | (apply Frame.andThen; rotate_left; (with_reducible apply finishUnload_frame); rfl)
      | (apply Frame.andThen; rotate_left; (with_reducible apply beginDirectories_frame); rfl)
      | (apply Frame.andThen; rotate_left; (with_reducible apply endUntaken_frame); rfl)
      | (apply Frame.andThen; rotate_left; (with_reducible apply saveImages_frame); rfl)
      | (apply Frame.andThen; rotate_left; (with_reducible apply updCart_frame); rfl)
      | (apply Frame.andThen; rotate_left; (with_reducible apply noteLoad_frame); rfl)
      | (apply Frame.andThen; rotate_left; (with_reducible apply complete_frame); rfl)
      | (apply Frame.andThen; rotate_left; (with_reducible apply post_frame); rfl)
      | (apply Frame.andThen; rotate_left; (with_reducible apply writeControl_frame); rfl)
      | (apply Frame.andThen; rotate_left; (with_reducible apply postWeak_frame); rfl)
      | (apply Frame.andThen; rotate_left; (with_reducible apply reportStopped_frame); rfl)
      | (apply Frame.andThen; rotate_left; (with_reducible apply dirStep_frame); rfl)
      | (with_reducible refine Frame.each _ ?_ (fun _ _ => ?_)) | (split) | (dsimp only)

theorem execUnload_frame (seq : Nat) (s : State) : FrameOut 0x2000a s (execUnload seq s) := by
  unfold execUnload
  try dsimp only
  repeat' first
      | (with_reducible refine FrameOut.go ?_) | (with_reducible assumption) | (with_reducible exact Frame.refl _ _)
      | (apply Frame.andThen; rotate_left; (with_reducible apply setSt_frame); rfl)
      | (apply Frame.andThen; rotate_left; (with_reducible apply updCart_frame); rfl)
      | (apply Frame.andThen; rotate_left; (with_reducible apply complete_frame); rfl) | (split) | (dsimp only)

theorem execUnloadProceed_frame (seq : Nat) (s : State) : FrameOut 0x2af9fe s (execUnloadProceed seq s) := by
  unfold execUnloadProceed
  try dsimp only
  repeat' first
      | (with_reducible refine FrameOut.go ?_) | (with_reducible assumption) | (with_reducible exact Frame.refl _ _)
      | (apply Frame.andThen; rotate_left; (with_reducible apply unloadStep_frame); rfl) | (split) | (dsimp only)

theorem certified_frame (table : List (Nat × Nat)) (xs : List WrapSurvey) (s : State) : Frame 0x8 s (certified table xs s) := by
  unfold certified
  try dsimp only
  repeat' first
      | (with_reducible assumption) | (with_reducible exact Frame.refl _ _)
      | (apply Frame.andThen; rotate_left; (with_reducible apply updCart_frame); rfl) | ((with_reducible apply Frame.getD) <;> intros)
      | (with_reducible refine Frame.foldl_snd _ ?_ (fun _ _ => ?_)) | (with_reducible refine Frame.foldl _ ?_ (fun _ _ => ?_)) | (split)
      | (dsimp only)

theorem keptZone_frame (table : List (Nat × Nat)) (s : State) : Frame 0x8 s (keptZone table s) := by
  unfold keptZone
  try dsimp only
  repeat' first
      | (with_reducible assumption) | (with_reducible exact Frame.refl _ _)
      | (apply Frame.andThen; rotate_left; (with_reducible apply updCart_frame); rfl) | (split) | (dsimp only)

theorem destroyRecords_frame (s : State) : Frame 0x24992 s (destroyRecords s) := by
  unfold destroyRecords
  try dsimp only
  repeat' first
      | (with_reducible assumption) | (with_reducible exact Frame.refl _ _)
      | (apply Frame.andThen; rotate_left; (with_reducible apply updShd_frame); rfl)
      | (apply Frame.andThen; rotate_left; (with_reducible apply advanceTail_frame); rfl)
      | (apply Frame.andThen; rotate_left; (with_reducible apply retireAll_frame); rfl)
      | (apply Frame.andThen; rotate_left; (with_reducible apply clearTape_frame); rfl)
      | (apply Frame.andThen; rotate_left; (with_reducible apply freeEmptyRing_frame); rfl)
      | (with_reducible refine Frame.each _ ?_ (fun _ _ => ?_)) | (split) | (dsimp only)

theorem startAtFirst_frame (p : Nat) (s : State) : Frame 0x4 s (startAtFirst p s) := by
  unfold startAtFirst
  try dsimp only
  repeat' first
      | (with_reducible assumption) | (with_reducible exact Frame.refl _ _)
      | (apply Frame.andThen; rotate_left; (with_reducible apply updPart_frame); rfl)
      | (with_reducible refine Frame.each _ ?_ (fun _ _ => ?_)) | (split) | (dsimp only)

theorem beginFormat_frame (seq : Nat) (e : SqEntry) (words : List Nat) (survey : List WrapSurvey) (s : State)
    : Frame 0x2499e s (beginFormat seq e words survey s) := by
  unfold beginFormat
  try dsimp only
  repeat' first
      | (with_reducible assumption) | (with_reducible exact Frame.refl _ _)
      | (apply Frame.andThen; rotate_left; (with_reducible apply beginDirectories_frame); rfl)
      | (apply Frame.andThen; rotate_left; (with_reducible apply certified_frame); rfl)
      | (apply Frame.andThen; rotate_left; (with_reducible apply chooseSet_frame); rfl)
      | (apply Frame.andThen; rotate_left; (with_reducible apply keptZone_frame); rfl)
      | (apply Frame.andThen; rotate_left; (with_reducible apply destroyRecords_frame); rfl)
      | (apply Frame.andThen; rotate_left; (with_reducible apply setSt_frame); rfl)
      | (apply Frame.andThen; rotate_left; (with_reducible apply updCart_frame); rfl)
      | (apply Frame.andThen; rotate_left; (with_reducible apply startAtFirst_frame); rfl)
      | (apply Frame.andThen; rotate_left; (with_reducible apply newParts_frame); rfl)
      | (apply Frame.andThen; rotate_left; (with_reducible apply countPositions_frame); rfl)
      | (with_reducible refine Frame.each _ ?_ (fun _ _ => ?_)) | (split) | (dsimp only)

theorem endFormat_frame (seq : Nat) (s : State) : Frame 0xa100a s (endFormat seq s) := by
  unfold endFormat
  try dsimp only
  repeat' first
      | (with_reducible assumption) | (with_reducible exact Frame.refl _ _)
      | (apply Frame.andThen; rotate_left; (with_reducible apply updCart_frame); rfl)
      | (apply Frame.andThen; rotate_left; (with_reducible apply complete_frame); rfl)
      | (apply Frame.andThen; rotate_left; (with_reducible apply writeControl_frame); rfl)
      | (apply Frame.andThen; rotate_left; (with_reducible apply writeYardPage_frame); rfl)
      | (apply Frame.andThen; rotate_left; (with_reducible apply cmWrite_frame); rfl) | (split) | (dsimp only)

theorem formatStart_frame (seq : Nat) (e : SqEntry) (table : List Nat) (certify : List WrapSurvey) (s : State)
    : Frame 0x2c99e s (formatStart seq e table certify s) := by
  unfold formatStart
  try dsimp only
  repeat' first
      | (with_reducible assumption) | (with_reducible exact Frame.refl _ _)
      | (apply Frame.andThen; rotate_left; (with_reducible apply beginFormat_frame); rfl)
      | (apply Frame.andThen; rotate_left; (with_reducible apply setSt_frame); rfl)
      | (apply Frame.andThen; rotate_left; (with_reducible apply dirStep_frame); rfl) | (split) | (dsimp only)

theorem execFormatPartitions_frame (seq : Nat) (table : List Nat) (certify : List WrapSurvey) (s : State)
    : FrameOut 0xad99e s (execFormatPartitions seq table certify s) := by
  unfold execFormatPartitions
  try dsimp only
  repeat' first
      | (with_reducible refine FrameOut.go ?_) | (with_reducible assumption) | (with_reducible exact Frame.refl _ _)
      | (apply Frame.andThen; rotate_left; (with_reducible apply formatStart_frame); rfl)
      | (apply Frame.andThen; rotate_left; (with_reducible apply complete_frame); rfl)
      | (apply Frame.andThen; rotate_left; (with_reducible apply dirStep_frame); rfl)
      | (apply Frame.andThen; rotate_left; (with_reducible apply endFormat_frame); rfl) | (split) | (dsimp only)

theorem locateDone_frame (c : Cmd) (at_ : TapePlace) (s : State) : Frame 0x20006 s (locateDone c at_ s) := by
  unfold locateDone
  try dsimp only
  repeat' first
      | (with_reducible assumption) | (with_reducible exact Frame.refl _ _)
      | (apply Frame.andThen; rotate_left; (with_reducible apply updPart_frame); rfl)
      | (apply Frame.andThen; rotate_left; (with_reducible apply complete_frame); rfl) | (split) | (dsimp only)

theorem execLocate_frame (seq : Nat) (found : Option TapePlace) (s : State) : FrameOut 0x2c206 s (execLocate seq found s) := by
  unfold execLocate
  try dsimp only
  repeat' first
      | (with_reducible refine FrameOut.go ?_) | (with_reducible assumption) | (with_reducible exact Frame.refl _ _)
      | (apply Frame.andThen; rotate_left; (with_reducible apply setSt_frame); rfl)
      | (apply Frame.andThen; rotate_left; (with_reducible apply needTape_frame); rfl)
      | (apply Frame.andThen; rotate_left; (with_reducible apply sendTape_frame); rfl)
      | (apply Frame.andThen; rotate_left; (with_reducible apply complete_frame); rfl)
      | (apply Frame.andThen; rotate_left; (with_reducible apply locateDone_frame); rfl) | (split) | (dsimp only)

theorem execCartPresentChange_frame (level : Bool) (cm : Bytes) (s : State) :
    FrameOut 0x80008 s (execCartPresentChange level cm s) := by
  have h : Frame 0x80008 s { updCart (fun c => { c with present := level }) s with cartMem := [] } :=
    ((updCart_frame _ s).mono rfl).set_cartMem [] rfl fun i =>
      ⟨i.host, rfl, i.nor, i.counters, i.saturate, i.violations, i.kind, i.port, i.fn, i.offset⟩
  refine FrameOut.go ?_
  split
  · exact h.andThen (cmWrite_frame 0 cm _) rfl
  · exact h

theorem updCfg_frame (f : Cfg → Cfg) (s : State) : Frame 0x10000 s (updCfg f s) := by
  unfold updCfg
  try dsimp only
  repeat' first
      | (with_reducible assumption) | (with_reducible exact Frame.refl _ _) | (split) | (dsimp only)
      | ((with_reducible apply Frame.set_cfg); rotate_left; rfl)

theorem checkFailed_frame (f : Nat × Nat) (s : State) : Frame 0x30000 s (checkFailed f s) := by
  unfold checkFailed
  try dsimp only
  repeat' first
      | (with_reducible assumption) | (with_reducible exact Frame.refl _ _)
      | (apply Frame.andThen; rotate_left; (with_reducible apply inc_frame); rfl)
      | (apply Frame.andThen; rotate_left; (with_reducible apply updCfg_frame); rfl) | (split) | (dsimp only)

theorem swapRoles_frame (s : State) : Frame 0x8000 s (swapRoles s) := by
  unfold swapRoles
  try dsimp only
  repeat' first
      | (with_reducible assumption) | (with_reducible exact Frame.refl _ _) | (split) | (dsimp only)
      | ((with_reducible apply Frame.set_mgt); rotate_left; rfl)

theorem norWrite_frame (a : Nat) (bs : Bytes) (s : State) : Frame 0x100000 s (norWrite a bs s) :=
  (Frame.refl _ s).set_norMem _ rfl (norWrite_inv _ _ s)

theorem takeImage_frame (k : Nat) (s : State) : Frame 0x10000 s (takeImage k s) := by
  unfold takeImage
  try dsimp only
  repeat' first
      | (with_reducible assumption) | (with_reducible exact Frame.refl _ _)
      | (apply Frame.andThen; rotate_left; (with_reducible apply updCfg_frame); rfl) | (split) | (dsimp only)

theorem consequences_frame (old : List CfgRec) (recs : List CfgRec) (s : State) : Frame 0x26190 s (consequences old recs s) := by
  unfold consequences
  try dsimp only
  repeat' first
      | (with_reducible assumption) | (with_reducible exact Frame.refl _ _)
      | (apply Frame.andThen; rotate_left; (with_reducible apply sendDrive_frame); rfl)
      | (apply Frame.andThen; rotate_left; (with_reducible apply fabCommit_frame); rfl)
      | (apply Frame.andThen; rotate_left; (with_reducible apply updRx_frame); rfl)
      | (apply Frame.andThen; rotate_left; (with_reducible apply updWrv_frame); rfl) | ((with_reducible apply Frame.getD) <;> intros)
      | (with_reducible refine Frame.each _ ?_ (fun _ _ => ?_)) | (with_reducible refine Frame.foldl_snd _ ?_ (fun _ _ => ?_))
      | (with_reducible refine Frame.foldl _ ?_ (fun _ _ => ?_)) | (split) | (dsimp only)

theorem endExecuting_frame (s : State) : Frame 0x20002 s (endExecuting s) := by
  unfold endExecuting
  try dsimp only
  repeat' first
      | (with_reducible assumption) | (with_reducible exact Frame.refl _ _)
      | (apply Frame.andThen; rotate_left; (with_reducible apply complete_frame); rfl)
      | (with_reducible refine Frame.each _ ?_ (fun _ _ => ?_)) | (split) | (dsimp only)

theorem kindEffect_frame (x : CfgSet) (s : State) : Frame 0x3c086 s (kindEffect x s) := by
  unfold kindEffect
  try dsimp only
  repeat' first
      | (with_reducible assumption) | (with_reducible exact Frame.refl _ _)
      | (apply Frame.andThen; rotate_left; (with_reducible apply postEvent_frame); rfl)
      | (apply Frame.andThen; rotate_left; (with_reducible apply swapRoles_frame); rfl)
      | (apply Frame.andThen; rotate_left; (with_reducible apply updPart_frame); rfl)
      | (apply Frame.andThen; rotate_left; (with_reducible apply takeImage_frame); rfl)
      | (apply Frame.andThen; rotate_left; (with_reducible apply inc_frame); rfl)
      | (apply Frame.andThen; rotate_left; (with_reducible apply endExecuting_frame); rfl)
      | (apply Frame.andThen; rotate_left; (with_reducible apply updCfg_frame); rfl)
      | (apply Frame.andThen; rotate_left; (with_reducible apply updWrv_frame); rfl)
      | (with_reducible refine Frame.each _ ?_ (fun _ _ => ?_)) | (split) | (dsimp only)
      | ((with_reducible apply Frame.set_mgt); rotate_left; rfl)

theorem takeEffect_frame (clock : Nat) (x : CfgSet) (s : State) : Frame 0x3e1b6 s (takeEffect clock x s) := by
  unfold takeEffect
  try dsimp only
  repeat' first
      | (with_reducible assumption) | (with_reducible exact Frame.refl _ _)
      | (apply Frame.andThen; rotate_left; (with_reducible apply consequences_frame); rfl)
      | (apply Frame.andThen; rotate_left; (with_reducible apply enterService_frame); rfl)
      | (apply Frame.andThen; rotate_left; (with_reducible apply complete_frame); rfl)
      | (apply Frame.andThen; rotate_left; (with_reducible apply inc_frame); rfl)
      | (apply Frame.andThen; rotate_left; (with_reducible apply updCmd_frame); rfl)
      | (apply Frame.andThen; rotate_left; (with_reducible apply updCfg_frame); rfl)
      | (apply Frame.andThen; rotate_left; (with_reducible apply kindEffect_frame); rfl) | (split) | (dsimp only)

theorem effectOf_frame (pick : CfgSet → Bool) (clock : Nat) (s : State) : Frame 0x3e3b6 s (effectOf pick clock s) := by
  unfold effectOf
  try dsimp only
  repeat' first
      | (with_reducible assumption) | (with_reducible exact Frame.refl _ _)
      | (apply Frame.andThen; rotate_left; (with_reducible apply takeEffect_frame); rfl)
      | (apply Frame.andThen; rotate_left; (with_reducible apply cancelSched_frame); rfl)
      | (apply Frame.andThen; rotate_left; (with_reducible apply updCfg_frame); rfl)
      | (with_reducible refine Frame.each _ ?_ (fun _ _ => ?_)) | (split) | (dsimp only)

theorem commitSet_frame (recs : List CfgRec) (kind : SetKind) (cmd : Option Nat) (s : State)  {s' : State}
    (h : commitSet recs kind cmd s = some s')
    : Frame 0x3e3b6 s s' := by
  unfold commitSet at h
  try dsimp only at h
  repeat' split at h
  all_goals try cases h
  all_goals
  repeat' first
      | (with_reducible assumption) | (with_reducible exact Frame.refl _ _)
      | (apply Frame.andThen; rotate_left; (with_reducible apply takeEffect_frame); rfl)
      | (apply Frame.andThen; rotate_left; (with_reducible apply postSched_frame); rfl)
      | (apply Frame.andThen; rotate_left; (with_reducible apply postSched_frame_eq) <;> assumption; rfl)
      | (apply Frame.andThen; rotate_left; (with_reducible apply setSt_frame); rfl)
      | (apply Frame.andThen; rotate_left; (with_reducible apply effectOf_frame); rfl)
      | (apply Frame.andThen; rotate_left; (with_reducible apply updCfg_frame); rfl) | (split) | (dsimp only)

theorem stageAndCommit_frame (recs : List CfgRec) (kind : SetKind) (seq : Nat) (s : State)
    : Frame 0x3e3b6 s (stageAndCommit recs kind seq s) := by
  unfold stageAndCommit
  try dsimp only
  repeat' first
      | (with_reducible assumption) | (with_reducible exact Frame.refl _ _)
      | (apply Frame.andThen; rotate_left; (with_reducible apply complete_frame); rfl)
      | (apply Frame.andThen; rotate_left; (with_reducible apply checkFailed_frame); rfl)
      | (apply Frame.andThen; rotate_left; (with_reducible apply commitSet_frame) <;> assumption; rfl) | (split) | (dsimp only)

theorem execCommit_frame (idx : Nat) (s : State) : FrameOut 0x3e3b6 s (execCommit idx s) := by
  unfold execCommit
  try dsimp only
  repeat' first
      | (with_reducible refine FrameOut.go ?_) | (with_reducible assumption) | (with_reducible exact Frame.refl _ _)
      | ((with_reducible apply fire_frame); rotate_left; rfl; intros)
      | (apply Frame.andThen; rotate_left; (with_reducible apply effectOf_frame); rfl) | (split) | (dsimp only)

theorem stageRec_frame (p : Port) (r : CfgRec) (s : State) : Frame 0x30000 s (stageRec p r s) := by
  unfold stageRec
  try dsimp only
  repeat' first
      | (with_reducible assumption) | (with_reducible exact Frame.refl _ _)
      | (apply Frame.andThen; rotate_left; (with_reducible apply inc_frame); rfl)
      | (apply Frame.andThen; rotate_left; (with_reducible apply updCfg_frame); rfl) | ((with_reducible apply Frame.getD) <;> intros)
      | (split) | (dsimp only)

theorem execCfgStage_frame (seq : Nat) (sgl : Bytes) (data : Bytes) (s : State) : FrameOut 0x30002 s (execCfgStage seq sgl data s) := by
  unfold execCfgStage
  try dsimp only
  repeat' first
      | (with_reducible refine FrameOut.go ?_) | (with_reducible assumption) | (with_reducible exact Frame.refl _ _)
      | (apply Frame.andThen; rotate_left; (with_reducible apply complete_frame); rfl)
      | (apply Frame.andThen; rotate_left; (with_reducible apply stageRec_frame); rfl)
      | (apply Frame.andThen; rotate_left; (with_reducible apply updCfg_frame); rfl)
      | (with_reducible refine Frame.each _ ?_ (fun _ _ => ?_)) | (split) | (dsimp only)

theorem execCfgCheck_frame (seq : Nat) (s : State) : FrameOut 0x30002 s (execCfgCheck seq s) := by
  unfold execCfgCheck
  try dsimp only
  repeat' first
      | (with_reducible refine FrameOut.go ?_) | (with_reducible assumption) | (with_reducible exact Frame.refl _ _)
      | (apply Frame.andThen; rotate_left; (with_reducible apply complete_frame); rfl)
      | (apply Frame.andThen; rotate_left; (with_reducible apply checkFailed_frame); rfl) | (split) | (dsimp only)

theorem execCfgCommit_frame (seq : Nat) (s : State) : FrameOut 0x3e3b6 s (execCfgCommit seq s) := by
  unfold execCfgCommit
  try dsimp only
  repeat' first
      | (with_reducible refine FrameOut.go ?_) | (with_reducible assumption) | (with_reducible exact Frame.refl _ _)
      | (apply Frame.andThen; rotate_left; (with_reducible apply complete_frame); rfl)
      | (apply Frame.andThen; rotate_left; (with_reducible apply updCfg_frame); rfl)
      | (apply Frame.andThen; rotate_left; (with_reducible apply checkFailed_frame); rfl)
      | (apply Frame.andThen; rotate_left; (with_reducible apply commitSet_frame) <;> assumption; rfl) | (split) | (dsimp only)

theorem execCfgDiscard_frame (seq : Nat) (s : State) : FrameOut 0x30002 s (execCfgDiscard seq s) := by
  unfold execCfgDiscard
  try dsimp only
  repeat' first
      | (with_reducible refine FrameOut.go ?_) | (with_reducible assumption) | (with_reducible exact Frame.refl _ _)
      | (apply Frame.andThen; rotate_left; (with_reducible apply complete_frame); rfl)
      | (apply Frame.andThen; rotate_left; (with_reducible apply updCfg_frame); rfl) | (split) | (dsimp only)

theorem execSetFeature_frame (seq : Nat) (s : State) : FrameOut 0x3e3b6 s (execSetFeature seq s) := by
  unfold execSetFeature
  try dsimp only
  repeat' first
      | (with_reducible refine FrameOut.go ?_) | (with_reducible assumption) | (with_reducible exact Frame.refl _ _)
      | (apply Frame.andThen; rotate_left; (with_reducible apply stageAndCommit_frame); rfl)
      | (apply Frame.andThen; rotate_left; (with_reducible apply updPart_frame); rfl)
      | (apply Frame.andThen; rotate_left; (with_reducible apply complete_frame); rfl)
      | (apply Frame.andThen; rotate_left; (with_reducible apply updRing_frame); rfl) | (split) | (dsimp only)

theorem execImageWrite_frame (seq : Nat) (sgl : Bytes) (data : Bytes) (s : State)
    : FrameOut 0x330002 s (execImageWrite seq sgl data s) := by
  unfold execImageWrite
  try dsimp only
  repeat' first
      | (with_reducible refine FrameOut.go ?_) | (with_reducible assumption) | (with_reducible exact Frame.refl _ _)
      | (apply Frame.andThen; rotate_left; (with_reducible apply noteCmd_frame); rfl)
      | (apply Frame.andThen; rotate_left; (with_reducible apply complete_frame); rfl)
      | (apply Frame.andThen; rotate_left; (with_reducible apply norWrite_frame); rfl) | (split) | (dsimp only)

theorem execImageQuery_frame (seq : Nat) (sgl : Bytes) (s : State) : FrameOut 0x270002 s (execImageQuery seq sgl s) := by
  unfold execImageQuery
  try dsimp only
  repeat' first
      | (with_reducible refine FrameOut.go ?_) | (with_reducible assumption) | (with_reducible exact Frame.refl _ _)
      | (apply Frame.andThen; rotate_left; (with_reducible apply noteCmd_frame); rfl)
      | (apply Frame.andThen; rotate_left; (with_reducible apply complete_frame); rfl)
      | (apply Frame.andThen; rotate_left; (with_reducible apply sglWrite_frame); rfl) | (split) | (dsimp only)

theorem execFuseAdvance_frame (seq : Nat) (s : State) : FrameOut 0x30002 s (execFuseAdvance seq s) := by
  unfold execFuseAdvance
  try dsimp only
  repeat' first
      | (with_reducible refine FrameOut.go ?_) | (with_reducible assumption) | (with_reducible exact Frame.refl _ _)
      | (apply Frame.andThen; rotate_left; (with_reducible apply complete_frame); rfl)
      | (apply Frame.andThen; rotate_left; (with_reducible apply updCfg_frame); rfl) | (split) | (dsimp only)

theorem execFuseRevoke_frame (seq : Nat) (s : State) : FrameOut 0x30002 s (execFuseRevoke seq s) := by
  unfold execFuseRevoke
  try dsimp only
  repeat' first
      | (with_reducible refine FrameOut.go ?_) | (with_reducible assumption) | (with_reducible exact Frame.refl _ _)
      | (apply Frame.andThen; rotate_left; (with_reducible apply complete_frame); rfl)
      | (apply Frame.andThen; rotate_left; (with_reducible apply updCfg_frame); rfl) | (split) | (dsimp only)

theorem afterReset_frame (s : State) : Frame 0x3ffff s (afterReset s) :=
  ⟨fun f hf => by cases f <;> first | rfl | exact absurd hf (by decide), fun i =>
    ⟨i.host, i.cart, i.nor, rfl, fun _ h => (by cases h), Nat.zero_le _, Nat.zero_le _, Nat.zero_le _, Nat.zero_le _, (by decide : (0 : Nat) < 2 ^ 24)⟩⟩

theorem enterStage_frame (st : DawnSt) (n : Nat) (s : State) : Frame 0x210000 s (enterStage st n s) := by
  unfold enterStage
  try dsimp only
  repeat' first
      | (with_reducible assumption) | (with_reducible exact Frame.refl _ _)
      | (apply Frame.andThen; rotate_left; (with_reducible apply updCfg_frame); rfl)
      | (apply Frame.andThen; rotate_left; (with_reducible apply dawnNote_frame); rfl) | (split) | (dsimp only)

theorem beginDawn_frame (s : State) : Frame 0x210000 s (beginDawn s) := by
  unfold beginDawn
  try dsimp only
  repeat' first
      | (with_reducible assumption) | (with_reducible exact Frame.refl _ _)
      | (apply Frame.andThen; rotate_left; (with_reducible apply enterStage_frame); rfl) | (split) | (dsimp only)

theorem execColdStart_frame (fuses : Fuses) (s : State) : FrameOut 0x210000 s (execColdStart fuses s) := by
  unfold execColdStart
  try dsimp only
  repeat' first
      | (with_reducible refine FrameOut.go ?_) | (with_reducible assumption) | (with_reducible exact Frame.refl _ _)
      | (apply Frame.andThen; rotate_left; (with_reducible apply beginDawn_frame); rfl)
      | (apply Frame.andThen; rotate_left; (with_reducible apply updCfg_frame); rfl) | ((with_reducible apply Frame.getD) <;> intros)
      | (split) | (dsimp only)

theorem enableFunctions_frame (a : Bool) (b : Bool) (s : State) : Frame 0x2 s (enableFunctions a b s) := by
  unfold enableFunctions
  try dsimp only
  repeat' first
      | (with_reducible assumption) | (with_reducible exact Frame.refl _ _) | (split) | (dsimp only)
      | ((with_reducible apply Frame.set_hq); rotate_left; rfl)

theorem enterHold_frame (s : State) : Frame 0x18082 s (enterHold s) := by
  unfold enterHold
  try dsimp only
  repeat' first
      | (with_reducible assumption) | (with_reducible exact Frame.refl _ _)
      | (apply Frame.andThen; rotate_left; (with_reducible apply setDoms_frame); rfl)
      | (apply Frame.andThen; rotate_left; (with_reducible apply sendIdle_frame); rfl)
      | (apply Frame.andThen; rotate_left; (with_reducible apply enableFunctions_frame); rfl)
      | (apply Frame.andThen; rotate_left; (with_reducible apply updCfg_frame); rfl) | (split) | (dsimp only)
      | ((with_reducible apply Frame.set_mgt); rotate_left; rfl)

theorem trainPorts_frame (s : State) : Frame 0x2 s (trainPorts s) := by
  unfold trainPorts
  try dsimp only
  repeat' first
      | (with_reducible assumption) | (with_reducible exact Frame.refl _ _) | (split) | (dsimp only)
      | ((with_reducible apply Frame.set_hq); rotate_left; rfl)

theorem execDawnD0Done_frame (s : State) : FrameOut 0x2180c2 s (execDawnD0Done s) := by
  unfold execDawnD0Done
  try dsimp only
  repeat' first
      | (with_reducible refine FrameOut.go ?_) | (with_reducible assumption) | (with_reducible exact Frame.refl _ _)
      | (apply Frame.andThen; rotate_left; (with_reducible apply enterHold_frame); rfl)
      | (apply Frame.andThen; rotate_left; (with_reducible apply setDoms_frame); rfl)
      | (apply Frame.andThen; rotate_left; (with_reducible apply trainPorts_frame); rfl)
      | (apply Frame.andThen; rotate_left; (with_reducible apply enterStage_frame); rfl) | (split) | (dsimp only)
      | ((with_reducible apply Frame.set_cip); rotate_left; rfl)

theorem setSlotStatus_frame (k : Nat) (code : Nat) (s : State) : Frame 0x210000 s (setSlotStatus k code s) := by
  unfold setSlotStatus
  try dsimp only
  repeat' first
      | (with_reducible assumption) | (with_reducible exact Frame.refl _ _)
      | (apply Frame.andThen; rotate_left; (with_reducible apply updCfg_frame); rfl)
      | (apply Frame.andThen; rotate_left; (with_reducible apply dawnNote_frame); rfl) | (split) | (dsimp only)

theorem execDawnD1Done_frame (s : State) : FrameOut 0x218082 s (execDawnD1Done s) := by
  unfold execDawnD1Done
  try dsimp only
  repeat' first
      | (with_reducible refine FrameOut.go ?_) | (with_reducible assumption) | (with_reducible exact Frame.refl _ _)
      | (apply Frame.andThen; rotate_left; (with_reducible apply enterHold_frame); rfl)
      | (apply Frame.andThen; rotate_left; (with_reducible apply setDoms_frame); rfl)
      | (apply Frame.andThen; rotate_left; (with_reducible apply setSlotStatus_frame); rfl)
      | (apply Frame.andThen; rotate_left; (with_reducible apply takeImage_frame); rfl)
      | (apply Frame.andThen; rotate_left; (with_reducible apply enterStage_frame); rfl)
      | (with_reducible refine Frame.each _ ?_ (fun _ _ => ?_)) | (split) | (dsimp only)

theorem restoreKeys_frame (bad : List Nat) (s : State) : Frame 0x24040 s (restoreKeys bad s) := by
  unfold restoreKeys
  try dsimp only
  repeat' first
      | (with_reducible assumption) | (with_reducible exact Frame.refl _ _)
      | (apply Frame.andThen; rotate_left; (with_reducible apply postEvent_frame); rfl)
      | (with_reducible refine Frame.each _ ?_ (fun _ _ => ?_)) | (with_reducible refine Frame.foldl_snd _ ?_ (fun _ _ => ?_))
      | (with_reducible refine Frame.foldl _ ?_ (fun _ _ => ?_)) | (split) | (dsimp only)
      | ((with_reducible apply Frame.set_cip); rotate_left; rfl)

theorem imageFails_frame (s : State) : Frame 0x218082 s (imageFails s) := by
  unfold imageFails
  try dsimp only
  repeat' first
      | (with_reducible assumption) | (with_reducible exact Frame.refl _ _)
      | (apply Frame.andThen; rotate_left; (with_reducible apply enterHold_frame); rfl)
      | (apply Frame.andThen; rotate_left; (with_reducible apply setSlotStatus_frame); rfl)
      | (apply Frame.andThen; rotate_left; (with_reducible apply updCfg_frame); rfl)
      | (apply Frame.andThen; rotate_left; (with_reducible apply enterStage_frame); rfl) | (split) | (dsimp only)

theorem commitFirst_frame (image : List CfgRec) (bad : List Nat) (s : State) : Frame 0x23c0c0 s (commitFirst image bad s) := by
  unfold commitFirst
  try dsimp only
  repeat' first
      | (with_reducible assumption) | (with_reducible exact Frame.refl _ _)
      | (apply Frame.andThen; rotate_left; (with_reducible apply setDoms_frame); rfl)
      | (apply Frame.andThen; rotate_left; (with_reducible apply restoreKeys_frame); rfl)
      | (apply Frame.andThen; rotate_left; (with_reducible apply postEvent_frame); rfl)
      | (apply Frame.andThen; rotate_left; (with_reducible apply inc_frame); rfl)
      | (apply Frame.andThen; rotate_left; (with_reducible apply updCfg_frame); rfl)
      | (apply Frame.andThen; rotate_left; (with_reducible apply updWrv_frame); rfl)
      | (apply Frame.andThen; rotate_left; (with_reducible apply enterStage_frame); rfl)
      | (with_reducible refine Frame.each _ ?_ (fun _ _ => ?_)) | (with_reducible refine Frame.foldl_snd _ ?_ (fun _ _ => ?_))
      | (with_reducible refine Frame.foldl _ ?_ (fun _ _ => ?_)) | (split) | (dsimp only)

theorem execDawnD2Done_frame (badKeys : List Nat) (s : State) : FrameOut 0x23c0c2 s (execDawnD2Done badKeys s) := by
  unfold execDawnD2Done
  try dsimp only
  repeat' first
      | (with_reducible refine FrameOut.go ?_) | (with_reducible assumption) | (with_reducible exact Frame.refl _ _)
      | (apply Frame.andThen; rotate_left; (with_reducible apply addCtr_frame); rfl)
      | (apply Frame.andThen; rotate_left; (with_reducible apply commitFirst_frame); rfl)
      | (apply Frame.andThen; rotate_left; (with_reducible apply imageFails_frame); rfl)
      | (apply Frame.andThen; rotate_left; (with_reducible apply inc_frame); rfl)
      | (apply Frame.andThen; rotate_left; (with_reducible apply checkFailed_frame); rfl) | (split) | (dsimp only)

theorem formatShed_frame (s : State) : Frame 0x24800 s (formatShed s) := by
  unfold formatShed
  try dsimp only
  repeat' first
      | (with_reducible assumption) | (with_reducible exact Frame.refl _ _)
      | (apply Frame.andThen; rotate_left; (with_reducible apply postEvent_frame); rfl)
      | (apply Frame.andThen; rotate_left; (with_reducible apply updShd_frame); rfl) | (split) | (dsimp only)

theorem replayRelease_frame (r : Nat) (tail : Nat) (s : State) : Frame 0x800 s (replayRelease r tail s) := by
  unfold replayRelease
  try dsimp only
  repeat' first
      | (with_reducible assumption) | (with_reducible exact Frame.refl _ _)
      | (apply Frame.andThen; rotate_left; (with_reducible apply setSpill_frame); rfl)
      | (apply Frame.andThen; rotate_left; (with_reducible apply updShd_frame); rfl) | (split) | (dsimp only)

theorem replayRec_frame (r : JRec) (s : State) : Frame 0x900 s (replayRec r s) := by
  unfold replayRec
  try dsimp only
  repeat' first
      | (with_reducible assumption) | (with_reducible exact Frame.refl _ _)
      | (apply Frame.andThen; rotate_left; (with_reducible apply setSpill_frame); rfl)
      | (apply Frame.andThen; rotate_left; (with_reducible apply updShd_frame); rfl)
      | (apply Frame.andThen; rotate_left; (with_reducible apply setBlk_frame); rfl)
      | (apply Frame.andThen; rotate_left; (with_reducible apply replayRelease_frame); rfl)
      | (apply Frame.andThen; rotate_left; (with_reducible apply updRch_frame); rfl) | (split) | (dsimp only)

theorem replayOne_frame (x : Nat × Replay) (s : State) : Frame 0x900 s (replayOne x s) := by
  unfold replayOne
  try dsimp only
  repeat' first
      | (with_reducible assumption) | (with_reducible exact Frame.refl _ _)
      | (apply Frame.andThen; rotate_left; (with_reducible apply updShd_frame); rfl)
      | (apply Frame.andThen; rotate_left; (with_reducible apply replayRec_frame); rfl)
      | (with_reducible refine Frame.each _ ?_ (fun _ _ => ?_)) | (split) | (dsimp only)

theorem loadCkpt_frame (c : Ckpt) (s : State) : Frame 0x900 s (loadCkpt c s) := by
  unfold loadCkpt
  try dsimp only
  repeat' first
      | (with_reducible assumption) | (with_reducible exact Frame.refl _ _)
      | (apply Frame.andThen; rotate_left; (with_reducible apply updShd_frame); rfl)
      | (apply Frame.andThen; rotate_left; (with_reducible apply updRch_frame); rfl) | ((with_reducible apply Frame.getD) <;> intros)
      | (split) | (dsimp only)

theorem settleRing_frame (r : Nat) (s : State) : Frame 0x800 s (settleRing r s) := by
  unfold settleRing
  try dsimp only
  repeat' first
      | (with_reducible assumption) | (with_reducible exact Frame.refl _ _)
      | (apply Frame.andThen; rotate_left; (with_reducible apply setSpill_frame); rfl)
      | (apply Frame.andThen; rotate_left; (with_reducible apply updShd_frame); rfl) | (split) | (dsimp only)

theorem reportDusk_frame (s : State) : Frame 0x24800 s (reportDusk s) := by
  unfold reportDusk
  try dsimp only
  repeat' first
      | (with_reducible assumption) | (with_reducible exact Frame.refl _ _)
      | (apply Frame.andThen; rotate_left; (with_reducible apply postEvent_frame); rfl)
      | (apply Frame.andThen; rotate_left; (with_reducible apply updShd_frame); rfl) | (split) | (dsimp only)

theorem replayFrom_frame (c : Ckpt) (bad : List Nat) (s : State) : Frame 0x24900 s (replayFrom c bad s) := by
  unfold replayFrom
  try dsimp only
  repeat' first
      | (with_reducible assumption) | (with_reducible exact Frame.refl _ _)
      | (apply Frame.andThen; rotate_left; (with_reducible apply settleBlocks_frame); rfl)
      | (apply Frame.andThen; rotate_left; (with_reducible apply reportDusk_frame); rfl)
      | (apply Frame.andThen; rotate_left; (with_reducible apply checkpointDurable_frame); rfl)
      | (apply Frame.andThen; rotate_left; (with_reducible apply settleRing_frame); rfl)
      | (apply Frame.andThen; rotate_left; (with_reducible apply updShd_frame); rfl)
      | (apply Frame.andThen; rotate_left; (with_reducible apply startCheckpoint_frame); rfl)
      | (apply Frame.andThen; rotate_left; (with_reducible apply loadCkpt_frame); rfl)
      | (apply Frame.andThen; rotate_left; (with_reducible apply updRch_frame); rfl)
      | (apply Frame.andThen; rotate_left; (with_reducible apply replayOne_frame); rfl)
      | (with_reducible refine Frame.each _ ?_ (fun _ _ => ?_)) | (with_reducible refine Frame.foldl_snd _ ?_ (fun _ _ => ?_))
      | (with_reducible refine Frame.foldl _ ?_ (fun _ _ => ?_)) | (split) | (dsimp only)

theorem bringShed_frame (bad : List Nat) (s : State) : Frame 0x24900 s (bringShed bad s) := by
  unfold bringShed
  try dsimp only
  repeat' first
      | (with_reducible assumption) | (with_reducible exact Frame.refl _ _)
      | (apply Frame.andThen; rotate_left; (with_reducible apply replayFrom_frame); rfl)
      | (apply Frame.andThen; rotate_left; (with_reducible apply formatShed_frame); rfl) | (split) | (dsimp only)

theorem setQuota_frame (s : State) : Frame 0x24800 s (setQuota s) := by
  unfold setQuota
  try dsimp only
  repeat' first
      | (with_reducible assumption) | (with_reducible exact Frame.refl _ _)
      | (apply Frame.andThen; rotate_left; (with_reducible apply postEvent_frame); rfl)
      | (apply Frame.andThen; rotate_left; (with_reducible apply updShd_frame); rfl) | (split) | (dsimp only)

theorem postUnlisted_frame (s : State) : Frame 0x22c000 s (postUnlisted s) := by
  unfold postUnlisted
  try dsimp only
  repeat' first
      | (with_reducible assumption) | (with_reducible exact Frame.refl _ _)
      | (apply Frame.andThen; rotate_left; (with_reducible apply drawNext_frame); rfl)
      | (apply Frame.andThen; rotate_left; (with_reducible apply post_frame); rfl) | (with_reducible refine Frame.each _ ?_ (fun _ _ => ?_))
      | (split) | (dsimp only)

theorem d3Failures_frame (r : D3Res) (s : State) : Frame 0x22c000 s (d3Failures r s).2 := by
  unfold d3Failures
  try dsimp only
  repeat' first
      | (with_reducible assumption) | (with_reducible exact Frame.refl _ _)
      | (apply Frame.andThen; rotate_left; (with_reducible apply postEvent_frame); rfl)
      | (apply Frame.andThen; rotate_left; (with_reducible apply postUnlisted_frame); rfl) | ((with_reducible apply Frame.getD) <;> intros)
      | (split) | (dsimp only)

theorem d3Failures_frame_eq (r : D3Res) (s : State) {a_ : Bool} {s' : State} (h : d3Failures r s = (a_, s')) : Frame 0x22c000 s s' := by
  have k := d3Failures_frame r s
  rwa [h] at k

theorem startLanes_frame (s : State) : Frame 0x80 s (startLanes s) := by
  unfold startLanes
  try dsimp only
  repeat' first
      | (with_reducible assumption) | (with_reducible exact Frame.refl _ _)
      | (apply Frame.andThen; rotate_left; (with_reducible apply sendDrive_frame); rfl)
      | (apply Frame.andThen; rotate_left; (with_reducible apply updLane_frame); rfl)
      | (apply Frame.andThen; rotate_left; (with_reducible apply sendBlocks_frame); rfl)
      | (with_reducible refine Frame.each _ ?_ (fun _ _ => ?_)) | (split) | (dsimp only)

theorem d3Record_frame (r : D3Res) (s : State) : Frame 0x810 s (d3Record r s) := by
  unfold d3Record
  try dsimp only
  repeat' first
      | (with_reducible assumption) | (with_reducible exact Frame.refl _ _)
      | (apply Frame.andThen; rotate_left; (with_reducible apply updShd_frame); rfl) | (split) | (dsimp only)
      | ((with_reducible apply Frame.set_stk); rotate_left; rfl)

theorem takeCache_frame (s : State) : Frame 0x810 s (takeCache s) := by
  unfold takeCache
  try dsimp only
  repeat' first
      | (with_reducible assumption) | (with_reducible exact Frame.refl _ _)
      | (apply Frame.andThen; rotate_left; (with_reducible apply updShd_frame); rfl)
      | (apply Frame.andThen; rotate_left; (with_reducible apply grant_frame); rfl)
      | (apply Frame.andThen; rotate_left; (with_reducible apply grant_frame_eq) <;> assumption; rfl) | (split) | (dsimp only)

theorem execDawnD3Done_frame (r : D3Res) (s : State) : FrameOut 0x23ed92 s (execDawnD3Done r s) := by
  unfold execDawnD3Done
  try dsimp only
  repeat' first
      | (with_reducible refine FrameOut.go ?_) | (with_reducible assumption) | (with_reducible exact Frame.refl _ _)
      | (apply Frame.andThen; rotate_left; (with_reducible apply d3Failures_frame); rfl)
      | (apply Frame.andThen; rotate_left; (with_reducible apply d3Failures_frame_eq) <;> assumption; rfl)
      | (apply Frame.andThen; rotate_left; (with_reducible apply setDoms_frame); rfl)
      | (apply Frame.andThen; rotate_left; (with_reducible apply setQuota_frame); rfl)
      | (apply Frame.andThen; rotate_left; (with_reducible apply updBrd_frame); rfl)
      | (apply Frame.andThen; rotate_left; (with_reducible apply buildStables_frame); rfl)
      | (apply Frame.andThen; rotate_left; (with_reducible apply updFab_frame); rfl)
      | (apply Frame.andThen; rotate_left; (with_reducible apply bringShed_frame); rfl)
      | (apply Frame.andThen; rotate_left; (with_reducible apply enableFunctions_frame); rfl)
      | (apply Frame.andThen; rotate_left; (with_reducible apply takeCache_frame); rfl)
      | (apply Frame.andThen; rotate_left; (with_reducible apply d3Record_frame); rfl)
      | (apply Frame.andThen; rotate_left; (with_reducible apply updCfg_frame); rfl)
      | (apply Frame.andThen; rotate_left; (with_reducible apply updRch_frame); rfl)
      | (apply Frame.andThen; rotate_left; (with_reducible apply startLanes_frame); rfl)
      | (apply Frame.andThen; rotate_left; (with_reducible apply enterStage_frame); rfl) | ((with_reducible apply Frame.getD) <;> intros)
      | (split) | (dsimp only) | ((with_reducible apply Frame.set_stk); rotate_left; rfl)

theorem execDawnD4Done_frame (r : D4Res) (s : State) : FrameOut 0x23c100 s (execDawnD4Done r s) := by
  unfold execDawnD4Done
  try dsimp only
  repeat' first
      | (with_reducible refine FrameOut.go ?_) | (with_reducible assumption) | (with_reducible exact Frame.refl _ _)
      | (apply Frame.andThen; rotate_left; (with_reducible apply postUnlisted_frame); rfl)
      | (apply Frame.andThen; rotate_left; (with_reducible apply updCfg_frame); rfl)
      | (apply Frame.andThen; rotate_left; (with_reducible apply updRch_frame); rfl)
      | (apply Frame.andThen; rotate_left; (with_reducible apply enterStage_frame); rfl) | ((with_reducible apply Frame.getD) <;> intros)
      | (with_reducible refine Frame.foldl_snd _ ?_ (fun _ _ => ?_)) | (with_reducible refine Frame.foldl _ ?_ (fun _ _ => ?_)) | (split)
      | (dsimp only)

theorem execDawnD5_frame (d3ms : Nat) (totalMs : Nat) (s : State) : FrameOut 0x10000 s (execDawnD5 d3ms totalMs s) := by
  unfold execDawnD5
  try dsimp only
  repeat' first
      | (with_reducible refine FrameOut.go ?_) | (with_reducible assumption) | (with_reducible exact Frame.refl _ _)
      | (apply Frame.andThen; rotate_left; (with_reducible apply updCfg_frame); rfl) | (split) | (dsimp only)

theorem abandonActivation_frame (s : State) : Frame 0x18200 s (abandonActivation s) := by
  unfold abandonActivation
  try dsimp only
  repeat' first
      | (with_reducible assumption) | (with_reducible exact Frame.refl _ _)
      | (apply Frame.andThen; rotate_left; (with_reducible apply cancelSched_frame); rfl)
      | (apply Frame.andThen; rotate_left; (with_reducible apply updCfg_frame); rfl)
      | (with_reducible refine Frame.each _ ?_ (fun _ _ => ?_)) | (split) | (dsimp only)
      | ((with_reducible apply Frame.set_mgt); rotate_left; rfl)

theorem beginDusk_frame (cause : DuskCause) (s : State) : Frame 0x3cb02 s (beginDusk cause s) := by
  unfold beginDusk
  try dsimp only
  repeat' first
      | (with_reducible assumption) | (with_reducible exact Frame.refl _ _)
      | (apply Frame.andThen; rotate_left; (with_reducible apply abandonActivation_frame); rfl)
      | (apply Frame.andThen; rotate_left; (with_reducible apply updShd_frame); rfl)
      | (apply Frame.andThen; rotate_left; (with_reducible apply post_frame); rfl)
      | (apply Frame.andThen; rotate_left; (with_reducible apply updCfg_frame); rfl)
      | (apply Frame.andThen; rotate_left; (with_reducible apply updRch_frame); rfl) | (split) | (dsimp only)
      | ((with_reducible apply Frame.set_hq); rotate_left; rfl)

theorem execDuskBegin_frame (cause : DuskCause) (s : State) : FrameOut 0x3cb02 s (execDuskBegin cause s) := by
  unfold execDuskBegin
  try dsimp only
  repeat' first
      | (with_reducible refine FrameOut.go ?_) | (with_reducible assumption) | (with_reducible exact Frame.refl _ _)
      | (apply Frame.andThen; rotate_left; (with_reducible apply beginDusk_frame); rfl)
      | (apply Frame.andThen; rotate_left; (with_reducible apply updCfg_frame); rfl) | (split) | (dsimp only)

theorem execDuskDomainsOff_frame (s : State) : FrameOut 0x1a102 s (execDuskDomainsOff s) := by
  unfold execDuskDomainsOff
  try dsimp only
  repeat' first
      | (with_reducible refine FrameOut.go ?_) | (with_reducible assumption) | (with_reducible exact Frame.refl _ _)
      | (apply Frame.andThen; rotate_left; (with_reducible apply setDoms_frame); rfl)
      | (apply Frame.andThen; rotate_left; (with_reducible apply updFab_frame); rfl)
      | (apply Frame.andThen; rotate_left; (with_reducible apply updCfg_frame); rfl)
      | (apply Frame.andThen; rotate_left; (with_reducible apply updRch_frame); rfl) | (split) | (dsimp only)
      | (refine Frame.set_mgt (Frame.set_hq ?_ _ (by rfl)) _ (by rfl)) | ((with_reducible apply Frame.set_hq); rotate_left; rfl)
      | ((with_reducible apply Frame.set_mgt); rotate_left; rfl)

theorem duskUnit_frame (cause : DuskCause) (s : State) : Frame 0x906 s (duskUnit cause s) := by
  unfold duskUnit
  try dsimp only
  repeat' first
      | (with_reducible assumption) | (with_reducible exact Frame.refl _ _)
      | (apply Frame.andThen; rotate_left; (with_reducible apply journalRec_frame); rfl)
      | (apply Frame.andThen; rotate_left; (with_reducible apply journalDurable_frame); rfl)
      | (apply Frame.andThen; rotate_left; (with_reducible apply programJournal_frame); rfl)
      | ((with_reducible apply Frame.getD) <;> intros) | (split) | (dsimp only)

theorem enterReset_frame (cause : DuskCause) (s : State) : Frame 0x23ffff s (enterReset cause s) := by
  unfold enterReset
  try dsimp only
  repeat' first
      | (with_reducible assumption) | (with_reducible exact Frame.refl _ _)
      | (apply Frame.andThen; rotate_left; (with_reducible apply afterReset_frame); rfl)
      | (apply Frame.andThen; rotate_left; (with_reducible apply beginDawn_frame); rfl)
      | (apply Frame.andThen; rotate_left; (with_reducible apply updCfg_frame); rfl) | (split) | (dsimp only)

theorem execDuskComplete_frame (s : State) : FrameOut 0x23ffff s (execDuskComplete s) := by
  unfold execDuskComplete
  try dsimp only
  repeat' first
      | (with_reducible refine FrameOut.go ?_) | (with_reducible assumption) | (with_reducible exact Frame.refl _ _)
      | (apply Frame.andThen; rotate_left; (with_reducible apply enterReset_frame); rfl)
      | (apply Frame.andThen; rotate_left; (with_reducible apply duskUnit_frame); rfl) | (split) | (dsimp only)

theorem execPfailDeassert_frame (s : State) : FrameOut 0x210000 s (execPfailDeassert s) := by
  unfold execPfailDeassert
  try dsimp only
  repeat' first
      | (with_reducible refine FrameOut.go ?_) | (with_reducible assumption) | (with_reducible exact Frame.refl _ _)
      | (apply Frame.andThen; rotate_left; (with_reducible apply beginDawn_frame); rfl)
      | (apply Frame.andThen; rotate_left; (with_reducible apply updCfg_frame); rfl) | (split) | (dsimp only)

theorem execPowerLoss_frame (s : State) : FrameOut 0x3ffff s (execPowerLoss s) := by
  unfold execPowerLoss
  try dsimp only
  repeat' first
      | (with_reducible refine FrameOut.go ?_) | (with_reducible assumption) | (with_reducible exact Frame.refl _ _)
      | (apply Frame.andThen; rotate_left; (with_reducible apply afterReset_frame); rfl)
      | (apply Frame.andThen; rotate_left; (with_reducible apply updCfg_frame); rfl) | (split) | (dsimp only)
      | ((with_reducible apply Frame.set_mgt); rotate_left; rfl)

theorem execClockInputLost_frame (clk : ClockIn) (s : State) : FrameOut 0x3eb76 s (execClockInputLost clk s) := by
  unfold execClockInputLost
  try dsimp only
  repeat' first
      | (with_reducible refine FrameOut.go ?_) | (with_reducible assumption) | (with_reducible exact Frame.refl _ _)
      | (exact (execLinkDown_frame ..).mono (by rfl)) | (apply Frame.andThen; rotate_left; (with_reducible apply portDown_frame); rfl)
      | (apply Frame.andThen; rotate_left; (with_reducible apply failLink_frame); rfl)
      | (apply Frame.andThen; rotate_left; (with_reducible apply beginDusk_frame); rfl)
      | (apply Frame.andThen; rotate_left; (with_reducible apply updRx_frame); rfl)
      | (with_reducible refine Frame.each _ ?_ (fun _ _ => ?_)) | (split) | (dsimp only)

end Sys2Proof.Machine
end

