-- ==== Sys2Proof/Laws/State.lean ====
section
/-!
SUPPORT. What each update of the state leaves and changes, field by field: one lemma per field per update.
-/

namespace Sys2Proof.Machine

variable (s : State)

@[simp] theorem updBrd_glb (f : Brd → Brd) : (updBrd f s).glb = s.glb := rfl
@[simp] theorem updBrd_hq (f : Brd → Brd) : (updBrd f s).hq = s.hq := rfl
@[simp] theorem updBrd_parts (f : Brd → Brd) : (updBrd f s).parts = s.parts := rfl
@[simp] theorem updBrd_cart (f : Brd → Brd) : (updBrd f s).cart = s.cart := rfl
@[simp] theorem updBrd_stk (f : Brd → Brd) : (updBrd f s).stk = s.stk := rfl
@[simp] theorem updBrd_cmp (f : Brd → Brd) : (updBrd f s).cmp = s.cmp := rfl
@[simp] theorem updBrd_cip (f : Brd → Brd) : (updBrd f s).cip = s.cip := rfl
@[simp] theorem updBrd_wrv (f : Brd → Brd) : (updBrd f s).wrv = s.wrv := rfl
@[simp] theorem updBrd_rch (f : Brd → Brd) : (updBrd f s).rch = s.rch := rfl
@[simp] theorem updBrd_srv (f : Brd → Brd) : (updBrd f s).srv = s.srv := rfl
@[simp] theorem updBrd_brd (f : Brd → Brd) : (updBrd f s).brd = f s.brd := rfl
@[simp] theorem updBrd_shd (f : Brd → Brd) : (updBrd f s).shd = s.shd := rfl
@[simp] theorem updBrd_yrd (f : Brd → Brd) : (updBrd f s).yrd = s.yrd := rfl
@[simp] theorem updBrd_fab (f : Brd → Brd) : (updBrd f s).fab = s.fab := rfl
@[simp] theorem updBrd_boxes (f : Brd → Brd) : (updBrd f s).boxes = s.boxes := rfl
@[simp] theorem updBrd_mgt (f : Brd → Brd) : (updBrd f s).mgt = s.mgt := rfl
@[simp] theorem updBrd_cfg (f : Brd → Brd) : (updBrd f s).cfg = s.cfg := rfl
@[simp] theorem updBrd_ctrs (f : Brd → Brd) : (updBrd f s).ctrs = s.ctrs := rfl
@[simp] theorem updBrd_hostMem (f : Brd → Brd) : (updBrd f s).hostMem = s.hostMem := rfl
@[simp] theorem updBrd_cartMem (f : Brd → Brd) : (updBrd f s).cartMem = s.cartMem := rfl
@[simp] theorem updBrd_norMem (f : Brd → Brd) : (updBrd f s).norMem = s.norMem := rfl
@[simp] theorem updBrd_freeCtr (f : Brd → Brd) : (updBrd f s).freeCtr = s.freeCtr := rfl
@[simp] theorem updBrd_pending (f : Brd → Brd) : (updBrd f s).pending = s.pending := rfl

@[simp] theorem updCart_glb (f : Cart → Cart) : (updCart f s).glb = s.glb := rfl
@[simp] theorem updCart_hq (f : Cart → Cart) : (updCart f s).hq = s.hq := rfl
@[simp] theorem updCart_parts (f : Cart → Cart) : (updCart f s).parts = s.parts := rfl
@[simp] theorem updCart_cart (f : Cart → Cart) : (updCart f s).cart = f s.cart := rfl
@[simp] theorem updCart_stk (f : Cart → Cart) : (updCart f s).stk = s.stk := rfl
@[simp] theorem updCart_cmp (f : Cart → Cart) : (updCart f s).cmp = s.cmp := rfl
@[simp] theorem updCart_cip (f : Cart → Cart) : (updCart f s).cip = s.cip := rfl
@[simp] theorem updCart_wrv (f : Cart → Cart) : (updCart f s).wrv = s.wrv := rfl
@[simp] theorem updCart_rch (f : Cart → Cart) : (updCart f s).rch = s.rch := rfl
@[simp] theorem updCart_srv (f : Cart → Cart) : (updCart f s).srv = s.srv := rfl
@[simp] theorem updCart_brd (f : Cart → Cart) : (updCart f s).brd = s.brd := rfl
@[simp] theorem updCart_shd (f : Cart → Cart) : (updCart f s).shd = s.shd := rfl
@[simp] theorem updCart_yrd (f : Cart → Cart) : (updCart f s).yrd = s.yrd := rfl
@[simp] theorem updCart_fab (f : Cart → Cart) : (updCart f s).fab = s.fab := rfl
@[simp] theorem updCart_boxes (f : Cart → Cart) : (updCart f s).boxes = s.boxes := rfl
@[simp] theorem updCart_mgt (f : Cart → Cart) : (updCart f s).mgt = s.mgt := rfl
@[simp] theorem updCart_cfg (f : Cart → Cart) : (updCart f s).cfg = s.cfg := rfl
@[simp] theorem updCart_ctrs (f : Cart → Cart) : (updCart f s).ctrs = s.ctrs := rfl
@[simp] theorem updCart_hostMem (f : Cart → Cart) : (updCart f s).hostMem = s.hostMem := rfl
@[simp] theorem updCart_cartMem (f : Cart → Cart) : (updCart f s).cartMem = s.cartMem := rfl
@[simp] theorem updCart_norMem (f : Cart → Cart) : (updCart f s).norMem = s.norMem := rfl
@[simp] theorem updCart_freeCtr (f : Cart → Cart) : (updCart f s).freeCtr = s.freeCtr := rfl
@[simp] theorem updCart_pending (f : Cart → Cart) : (updCart f s).pending = s.pending := rfl

@[simp] theorem updCfg_glb (f : Cfg → Cfg) : (updCfg f s).glb = s.glb := rfl
@[simp] theorem updCfg_hq (f : Cfg → Cfg) : (updCfg f s).hq = s.hq := rfl
@[simp] theorem updCfg_parts (f : Cfg → Cfg) : (updCfg f s).parts = s.parts := rfl
@[simp] theorem updCfg_cart (f : Cfg → Cfg) : (updCfg f s).cart = s.cart := rfl
@[simp] theorem updCfg_stk (f : Cfg → Cfg) : (updCfg f s).stk = s.stk := rfl
@[simp] theorem updCfg_cmp (f : Cfg → Cfg) : (updCfg f s).cmp = s.cmp := rfl
@[simp] theorem updCfg_cip (f : Cfg → Cfg) : (updCfg f s).cip = s.cip := rfl
@[simp] theorem updCfg_wrv (f : Cfg → Cfg) : (updCfg f s).wrv = s.wrv := rfl
@[simp] theorem updCfg_rch (f : Cfg → Cfg) : (updCfg f s).rch = s.rch := rfl
@[simp] theorem updCfg_srv (f : Cfg → Cfg) : (updCfg f s).srv = s.srv := rfl
@[simp] theorem updCfg_brd (f : Cfg → Cfg) : (updCfg f s).brd = s.brd := rfl
@[simp] theorem updCfg_shd (f : Cfg → Cfg) : (updCfg f s).shd = s.shd := rfl
@[simp] theorem updCfg_yrd (f : Cfg → Cfg) : (updCfg f s).yrd = s.yrd := rfl
@[simp] theorem updCfg_fab (f : Cfg → Cfg) : (updCfg f s).fab = s.fab := rfl
@[simp] theorem updCfg_boxes (f : Cfg → Cfg) : (updCfg f s).boxes = s.boxes := rfl
@[simp] theorem updCfg_mgt (f : Cfg → Cfg) : (updCfg f s).mgt = s.mgt := rfl
@[simp] theorem updCfg_cfg (f : Cfg → Cfg) : (updCfg f s).cfg = f s.cfg := rfl
@[simp] theorem updCfg_ctrs (f : Cfg → Cfg) : (updCfg f s).ctrs = s.ctrs := rfl
@[simp] theorem updCfg_hostMem (f : Cfg → Cfg) : (updCfg f s).hostMem = s.hostMem := rfl
@[simp] theorem updCfg_cartMem (f : Cfg → Cfg) : (updCfg f s).cartMem = s.cartMem := rfl
@[simp] theorem updCfg_norMem (f : Cfg → Cfg) : (updCfg f s).norMem = s.norMem := rfl
@[simp] theorem updCfg_freeCtr (f : Cfg → Cfg) : (updCfg f s).freeCtr = s.freeCtr := rfl
@[simp] theorem updCfg_pending (f : Cfg → Cfg) : (updCfg f s).pending = s.pending := rfl

@[simp] theorem updFab_glb (f : Fab → Fab) : (updFab f s).glb = s.glb := rfl
@[simp] theorem updFab_hq (f : Fab → Fab) : (updFab f s).hq = s.hq := rfl
@[simp] theorem updFab_parts (f : Fab → Fab) : (updFab f s).parts = s.parts := rfl
@[simp] theorem updFab_cart (f : Fab → Fab) : (updFab f s).cart = s.cart := rfl
@[simp] theorem updFab_stk (f : Fab → Fab) : (updFab f s).stk = s.stk := rfl
@[simp] theorem updFab_cmp (f : Fab → Fab) : (updFab f s).cmp = s.cmp := rfl
@[simp] theorem updFab_cip (f : Fab → Fab) : (updFab f s).cip = s.cip := rfl
@[simp] theorem updFab_wrv (f : Fab → Fab) : (updFab f s).wrv = s.wrv := rfl
@[simp] theorem updFab_rch (f : Fab → Fab) : (updFab f s).rch = s.rch := rfl
@[simp] theorem updFab_srv (f : Fab → Fab) : (updFab f s).srv = s.srv := rfl
@[simp] theorem updFab_brd (f : Fab → Fab) : (updFab f s).brd = s.brd := rfl
@[simp] theorem updFab_shd (f : Fab → Fab) : (updFab f s).shd = s.shd := rfl
@[simp] theorem updFab_yrd (f : Fab → Fab) : (updFab f s).yrd = s.yrd := rfl
@[simp] theorem updFab_fab (f : Fab → Fab) : (updFab f s).fab = f s.fab := rfl
@[simp] theorem updFab_boxes (f : Fab → Fab) : (updFab f s).boxes = s.boxes := rfl
@[simp] theorem updFab_mgt (f : Fab → Fab) : (updFab f s).mgt = s.mgt := rfl
@[simp] theorem updFab_cfg (f : Fab → Fab) : (updFab f s).cfg = s.cfg := rfl
@[simp] theorem updFab_ctrs (f : Fab → Fab) : (updFab f s).ctrs = s.ctrs := rfl
@[simp] theorem updFab_hostMem (f : Fab → Fab) : (updFab f s).hostMem = s.hostMem := rfl
@[simp] theorem updFab_cartMem (f : Fab → Fab) : (updFab f s).cartMem = s.cartMem := rfl
@[simp] theorem updFab_norMem (f : Fab → Fab) : (updFab f s).norMem = s.norMem := rfl
@[simp] theorem updFab_freeCtr (f : Fab → Fab) : (updFab f s).freeCtr = s.freeCtr := rfl
@[simp] theorem updFab_pending (f : Fab → Fab) : (updFab f s).pending = s.pending := rfl

@[simp] theorem updMgt_glb (f : Mgt → Mgt) : (updMgt f s).glb = s.glb := rfl
@[simp] theorem updMgt_hq (f : Mgt → Mgt) : (updMgt f s).hq = s.hq := rfl
@[simp] theorem updMgt_parts (f : Mgt → Mgt) : (updMgt f s).parts = s.parts := rfl
@[simp] theorem updMgt_cart (f : Mgt → Mgt) : (updMgt f s).cart = s.cart := rfl
@[simp] theorem updMgt_stk (f : Mgt → Mgt) : (updMgt f s).stk = s.stk := rfl
@[simp] theorem updMgt_cmp (f : Mgt → Mgt) : (updMgt f s).cmp = s.cmp := rfl
@[simp] theorem updMgt_cip (f : Mgt → Mgt) : (updMgt f s).cip = s.cip := rfl
@[simp] theorem updMgt_wrv (f : Mgt → Mgt) : (updMgt f s).wrv = s.wrv := rfl
@[simp] theorem updMgt_rch (f : Mgt → Mgt) : (updMgt f s).rch = s.rch := rfl
@[simp] theorem updMgt_srv (f : Mgt → Mgt) : (updMgt f s).srv = s.srv := rfl
@[simp] theorem updMgt_brd (f : Mgt → Mgt) : (updMgt f s).brd = s.brd := rfl
@[simp] theorem updMgt_shd (f : Mgt → Mgt) : (updMgt f s).shd = s.shd := rfl
@[simp] theorem updMgt_yrd (f : Mgt → Mgt) : (updMgt f s).yrd = s.yrd := rfl
@[simp] theorem updMgt_fab (f : Mgt → Mgt) : (updMgt f s).fab = s.fab := rfl
@[simp] theorem updMgt_boxes (f : Mgt → Mgt) : (updMgt f s).boxes = s.boxes := rfl
@[simp] theorem updMgt_mgt (f : Mgt → Mgt) : (updMgt f s).mgt = f s.mgt := rfl
@[simp] theorem updMgt_cfg (f : Mgt → Mgt) : (updMgt f s).cfg = s.cfg := rfl
@[simp] theorem updMgt_ctrs (f : Mgt → Mgt) : (updMgt f s).ctrs = s.ctrs := rfl
@[simp] theorem updMgt_hostMem (f : Mgt → Mgt) : (updMgt f s).hostMem = s.hostMem := rfl
@[simp] theorem updMgt_cartMem (f : Mgt → Mgt) : (updMgt f s).cartMem = s.cartMem := rfl
@[simp] theorem updMgt_norMem (f : Mgt → Mgt) : (updMgt f s).norMem = s.norMem := rfl
@[simp] theorem updMgt_freeCtr (f : Mgt → Mgt) : (updMgt f s).freeCtr = s.freeCtr := rfl
@[simp] theorem updMgt_pending (f : Mgt → Mgt) : (updMgt f s).pending = s.pending := rfl

@[simp] theorem updRch_glb (f : Rch → Rch) : (updRch f s).glb = s.glb := rfl
@[simp] theorem updRch_hq (f : Rch → Rch) : (updRch f s).hq = s.hq := rfl
@[simp] theorem updRch_parts (f : Rch → Rch) : (updRch f s).parts = s.parts := rfl
@[simp] theorem updRch_cart (f : Rch → Rch) : (updRch f s).cart = s.cart := rfl
@[simp] theorem updRch_stk (f : Rch → Rch) : (updRch f s).stk = s.stk := rfl
@[simp] theorem updRch_cmp (f : Rch → Rch) : (updRch f s).cmp = s.cmp := rfl
@[simp] theorem updRch_cip (f : Rch → Rch) : (updRch f s).cip = s.cip := rfl
@[simp] theorem updRch_wrv (f : Rch → Rch) : (updRch f s).wrv = s.wrv := rfl
@[simp] theorem updRch_rch (f : Rch → Rch) : (updRch f s).rch = f s.rch := rfl
@[simp] theorem updRch_srv (f : Rch → Rch) : (updRch f s).srv = s.srv := rfl
@[simp] theorem updRch_brd (f : Rch → Rch) : (updRch f s).brd = s.brd := rfl
@[simp] theorem updRch_shd (f : Rch → Rch) : (updRch f s).shd = s.shd := rfl
@[simp] theorem updRch_yrd (f : Rch → Rch) : (updRch f s).yrd = s.yrd := rfl
@[simp] theorem updRch_fab (f : Rch → Rch) : (updRch f s).fab = s.fab := rfl
@[simp] theorem updRch_boxes (f : Rch → Rch) : (updRch f s).boxes = s.boxes := rfl
@[simp] theorem updRch_mgt (f : Rch → Rch) : (updRch f s).mgt = s.mgt := rfl
@[simp] theorem updRch_cfg (f : Rch → Rch) : (updRch f s).cfg = s.cfg := rfl
@[simp] theorem updRch_ctrs (f : Rch → Rch) : (updRch f s).ctrs = s.ctrs := rfl
@[simp] theorem updRch_hostMem (f : Rch → Rch) : (updRch f s).hostMem = s.hostMem := rfl
@[simp] theorem updRch_cartMem (f : Rch → Rch) : (updRch f s).cartMem = s.cartMem := rfl
@[simp] theorem updRch_norMem (f : Rch → Rch) : (updRch f s).norMem = s.norMem := rfl
@[simp] theorem updRch_freeCtr (f : Rch → Rch) : (updRch f s).freeCtr = s.freeCtr := rfl
@[simp] theorem updRch_pending (f : Rch → Rch) : (updRch f s).pending = s.pending := rfl

@[simp] theorem updShd_glb (f : Shd → Shd) : (updShd f s).glb = s.glb := rfl
@[simp] theorem updShd_hq (f : Shd → Shd) : (updShd f s).hq = s.hq := rfl
@[simp] theorem updShd_parts (f : Shd → Shd) : (updShd f s).parts = s.parts := rfl
@[simp] theorem updShd_cart (f : Shd → Shd) : (updShd f s).cart = s.cart := rfl
@[simp] theorem updShd_stk (f : Shd → Shd) : (updShd f s).stk = s.stk := rfl
@[simp] theorem updShd_cmp (f : Shd → Shd) : (updShd f s).cmp = s.cmp := rfl
@[simp] theorem updShd_cip (f : Shd → Shd) : (updShd f s).cip = s.cip := rfl
@[simp] theorem updShd_wrv (f : Shd → Shd) : (updShd f s).wrv = s.wrv := rfl
@[simp] theorem updShd_rch (f : Shd → Shd) : (updShd f s).rch = s.rch := rfl
@[simp] theorem updShd_srv (f : Shd → Shd) : (updShd f s).srv = s.srv := rfl
@[simp] theorem updShd_brd (f : Shd → Shd) : (updShd f s).brd = s.brd := rfl
@[simp] theorem updShd_shd (f : Shd → Shd) : (updShd f s).shd = f s.shd := rfl
@[simp] theorem updShd_yrd (f : Shd → Shd) : (updShd f s).yrd = s.yrd := rfl
@[simp] theorem updShd_fab (f : Shd → Shd) : (updShd f s).fab = s.fab := rfl
@[simp] theorem updShd_boxes (f : Shd → Shd) : (updShd f s).boxes = s.boxes := rfl
@[simp] theorem updShd_mgt (f : Shd → Shd) : (updShd f s).mgt = s.mgt := rfl
@[simp] theorem updShd_cfg (f : Shd → Shd) : (updShd f s).cfg = s.cfg := rfl
@[simp] theorem updShd_ctrs (f : Shd → Shd) : (updShd f s).ctrs = s.ctrs := rfl
@[simp] theorem updShd_hostMem (f : Shd → Shd) : (updShd f s).hostMem = s.hostMem := rfl
@[simp] theorem updShd_cartMem (f : Shd → Shd) : (updShd f s).cartMem = s.cartMem := rfl
@[simp] theorem updShd_norMem (f : Shd → Shd) : (updShd f s).norMem = s.norMem := rfl
@[simp] theorem updShd_freeCtr (f : Shd → Shd) : (updShd f s).freeCtr = s.freeCtr := rfl
@[simp] theorem updShd_pending (f : Shd → Shd) : (updShd f s).pending = s.pending := rfl

@[simp] theorem updSrv_glb (f : Srv → Srv) : (updSrv f s).glb = s.glb := rfl
@[simp] theorem updSrv_hq (f : Srv → Srv) : (updSrv f s).hq = s.hq := rfl
@[simp] theorem updSrv_parts (f : Srv → Srv) : (updSrv f s).parts = s.parts := rfl
@[simp] theorem updSrv_cart (f : Srv → Srv) : (updSrv f s).cart = s.cart := rfl
@[simp] theorem updSrv_stk (f : Srv → Srv) : (updSrv f s).stk = s.stk := rfl
@[simp] theorem updSrv_cmp (f : Srv → Srv) : (updSrv f s).cmp = s.cmp := rfl
@[simp] theorem updSrv_cip (f : Srv → Srv) : (updSrv f s).cip = s.cip := rfl
@[simp] theorem updSrv_wrv (f : Srv → Srv) : (updSrv f s).wrv = s.wrv := rfl
@[simp] theorem updSrv_rch (f : Srv → Srv) : (updSrv f s).rch = s.rch := rfl
@[simp] theorem updSrv_srv (f : Srv → Srv) : (updSrv f s).srv = f s.srv := rfl
@[simp] theorem updSrv_brd (f : Srv → Srv) : (updSrv f s).brd = s.brd := rfl
@[simp] theorem updSrv_shd (f : Srv → Srv) : (updSrv f s).shd = s.shd := rfl
@[simp] theorem updSrv_yrd (f : Srv → Srv) : (updSrv f s).yrd = s.yrd := rfl
@[simp] theorem updSrv_fab (f : Srv → Srv) : (updSrv f s).fab = s.fab := rfl
@[simp] theorem updSrv_boxes (f : Srv → Srv) : (updSrv f s).boxes = s.boxes := rfl
@[simp] theorem updSrv_mgt (f : Srv → Srv) : (updSrv f s).mgt = s.mgt := rfl
@[simp] theorem updSrv_cfg (f : Srv → Srv) : (updSrv f s).cfg = s.cfg := rfl
@[simp] theorem updSrv_ctrs (f : Srv → Srv) : (updSrv f s).ctrs = s.ctrs := rfl
@[simp] theorem updSrv_hostMem (f : Srv → Srv) : (updSrv f s).hostMem = s.hostMem := rfl
@[simp] theorem updSrv_cartMem (f : Srv → Srv) : (updSrv f s).cartMem = s.cartMem := rfl
@[simp] theorem updSrv_norMem (f : Srv → Srv) : (updSrv f s).norMem = s.norMem := rfl
@[simp] theorem updSrv_freeCtr (f : Srv → Srv) : (updSrv f s).freeCtr = s.freeCtr := rfl
@[simp] theorem updSrv_pending (f : Srv → Srv) : (updSrv f s).pending = s.pending := rfl

@[simp] theorem updWrv_glb (f : Wrv → Wrv) : (updWrv f s).glb = s.glb := rfl
@[simp] theorem updWrv_hq (f : Wrv → Wrv) : (updWrv f s).hq = s.hq := rfl
@[simp] theorem updWrv_parts (f : Wrv → Wrv) : (updWrv f s).parts = s.parts := rfl
@[simp] theorem updWrv_cart (f : Wrv → Wrv) : (updWrv f s).cart = s.cart := rfl
@[simp] theorem updWrv_stk (f : Wrv → Wrv) : (updWrv f s).stk = s.stk := rfl
@[simp] theorem updWrv_cmp (f : Wrv → Wrv) : (updWrv f s).cmp = s.cmp := rfl
@[simp] theorem updWrv_cip (f : Wrv → Wrv) : (updWrv f s).cip = s.cip := rfl
@[simp] theorem updWrv_wrv (f : Wrv → Wrv) : (updWrv f s).wrv = f s.wrv := rfl
@[simp] theorem updWrv_rch (f : Wrv → Wrv) : (updWrv f s).rch = s.rch := rfl
@[simp] theorem updWrv_srv (f : Wrv → Wrv) : (updWrv f s).srv = s.srv := rfl
@[simp] theorem updWrv_brd (f : Wrv → Wrv) : (updWrv f s).brd = s.brd := rfl
@[simp] theorem updWrv_shd (f : Wrv → Wrv) : (updWrv f s).shd = s.shd := rfl
@[simp] theorem updWrv_yrd (f : Wrv → Wrv) : (updWrv f s).yrd = s.yrd := rfl
@[simp] theorem updWrv_fab (f : Wrv → Wrv) : (updWrv f s).fab = s.fab := rfl
@[simp] theorem updWrv_boxes (f : Wrv → Wrv) : (updWrv f s).boxes = s.boxes := rfl
@[simp] theorem updWrv_mgt (f : Wrv → Wrv) : (updWrv f s).mgt = s.mgt := rfl
@[simp] theorem updWrv_cfg (f : Wrv → Wrv) : (updWrv f s).cfg = s.cfg := rfl
@[simp] theorem updWrv_ctrs (f : Wrv → Wrv) : (updWrv f s).ctrs = s.ctrs := rfl
@[simp] theorem updWrv_hostMem (f : Wrv → Wrv) : (updWrv f s).hostMem = s.hostMem := rfl
@[simp] theorem updWrv_cartMem (f : Wrv → Wrv) : (updWrv f s).cartMem = s.cartMem := rfl
@[simp] theorem updWrv_norMem (f : Wrv → Wrv) : (updWrv f s).norMem = s.norMem := rfl
@[simp] theorem updWrv_freeCtr (f : Wrv → Wrv) : (updWrv f s).freeCtr = s.freeCtr := rfl
@[simp] theorem updWrv_pending (f : Wrv → Wrv) : (updWrv f s).pending = s.pending := rfl

@[simp] theorem updYrd_glb (f : Yrd → Yrd) : (updYrd f s).glb = s.glb := rfl
@[simp] theorem updYrd_hq (f : Yrd → Yrd) : (updYrd f s).hq = s.hq := rfl
@[simp] theorem updYrd_parts (f : Yrd → Yrd) : (updYrd f s).parts = s.parts := rfl
@[simp] theorem updYrd_cart (f : Yrd → Yrd) : (updYrd f s).cart = s.cart := rfl
@[simp] theorem updYrd_stk (f : Yrd → Yrd) : (updYrd f s).stk = s.stk := rfl
@[simp] theorem updYrd_cmp (f : Yrd → Yrd) : (updYrd f s).cmp = s.cmp := rfl
@[simp] theorem updYrd_cip (f : Yrd → Yrd) : (updYrd f s).cip = s.cip := rfl
@[simp] theorem updYrd_wrv (f : Yrd → Yrd) : (updYrd f s).wrv = s.wrv := rfl
@[simp] theorem updYrd_rch (f : Yrd → Yrd) : (updYrd f s).rch = s.rch := rfl
@[simp] theorem updYrd_srv (f : Yrd → Yrd) : (updYrd f s).srv = s.srv := rfl
@[simp] theorem updYrd_brd (f : Yrd → Yrd) : (updYrd f s).brd = s.brd := rfl
@[simp] theorem updYrd_shd (f : Yrd → Yrd) : (updYrd f s).shd = s.shd := rfl
@[simp] theorem updYrd_yrd (f : Yrd → Yrd) : (updYrd f s).yrd = f s.yrd := rfl
@[simp] theorem updYrd_fab (f : Yrd → Yrd) : (updYrd f s).fab = s.fab := rfl
@[simp] theorem updYrd_boxes (f : Yrd → Yrd) : (updYrd f s).boxes = s.boxes := rfl
@[simp] theorem updYrd_mgt (f : Yrd → Yrd) : (updYrd f s).mgt = s.mgt := rfl
@[simp] theorem updYrd_cfg (f : Yrd → Yrd) : (updYrd f s).cfg = s.cfg := rfl
@[simp] theorem updYrd_ctrs (f : Yrd → Yrd) : (updYrd f s).ctrs = s.ctrs := rfl
@[simp] theorem updYrd_hostMem (f : Yrd → Yrd) : (updYrd f s).hostMem = s.hostMem := rfl
@[simp] theorem updYrd_cartMem (f : Yrd → Yrd) : (updYrd f s).cartMem = s.cartMem := rfl
@[simp] theorem updYrd_norMem (f : Yrd → Yrd) : (updYrd f s).norMem = s.norMem := rfl
@[simp] theorem updYrd_freeCtr (f : Yrd → Yrd) : (updYrd f s).freeCtr = s.freeCtr := rfl
@[simp] theorem updYrd_pending (f : Yrd → Yrd) : (updYrd f s).pending = s.pending := rfl

@[simp] theorem setPart_glb (p : Nat) (x : Part) : (setPart p x s).glb = s.glb := rfl
@[simp] theorem setPart_hq (p : Nat) (x : Part) : (setPart p x s).hq = s.hq := rfl
@[simp] theorem setPart_parts (p : Nat) (x : Part) : (setPart p x s).parts = AMap.set s.parts p x := rfl
@[simp] theorem setPart_cart (p : Nat) (x : Part) : (setPart p x s).cart = s.cart := rfl
@[simp] theorem setPart_stk (p : Nat) (x : Part) : (setPart p x s).stk = s.stk := rfl
@[simp] theorem setPart_cmp (p : Nat) (x : Part) : (setPart p x s).cmp = s.cmp := rfl
@[simp] theorem setPart_cip (p : Nat) (x : Part) : (setPart p x s).cip = s.cip := rfl
@[simp] theorem setPart_wrv (p : Nat) (x : Part) : (setPart p x s).wrv = s.wrv := rfl
@[simp] theorem setPart_rch (p : Nat) (x : Part) : (setPart p x s).rch = s.rch := rfl
@[simp] theorem setPart_srv (p : Nat) (x : Part) : (setPart p x s).srv = s.srv := rfl
@[simp] theorem setPart_brd (p : Nat) (x : Part) : (setPart p x s).brd = s.brd := rfl
@[simp] theorem setPart_shd (p : Nat) (x : Part) : (setPart p x s).shd = s.shd := rfl
@[simp] theorem setPart_yrd (p : Nat) (x : Part) : (setPart p x s).yrd = s.yrd := rfl
@[simp] theorem setPart_fab (p : Nat) (x : Part) : (setPart p x s).fab = s.fab := rfl
@[simp] theorem setPart_boxes (p : Nat) (x : Part) : (setPart p x s).boxes = s.boxes := rfl
@[simp] theorem setPart_mgt (p : Nat) (x : Part) : (setPart p x s).mgt = s.mgt := rfl
@[simp] theorem setPart_cfg (p : Nat) (x : Part) : (setPart p x s).cfg = s.cfg := rfl
@[simp] theorem setPart_ctrs (p : Nat) (x : Part) : (setPart p x s).ctrs = s.ctrs := rfl
@[simp] theorem setPart_hostMem (p : Nat) (x : Part) : (setPart p x s).hostMem = s.hostMem := rfl
@[simp] theorem setPart_cartMem (p : Nat) (x : Part) : (setPart p x s).cartMem = s.cartMem := rfl
@[simp] theorem setPart_norMem (p : Nat) (x : Part) : (setPart p x s).norMem = s.norMem := rfl
@[simp] theorem setPart_freeCtr (p : Nat) (x : Part) : (setPart p x s).freeCtr = s.freeCtr := rfl
@[simp] theorem setPart_pending (p : Nat) (x : Part) : (setPart p x s).pending = s.pending := rfl

@[simp] theorem updPart_glb (p : Nat) (f : Part → Part) : (updPart p f s).glb = s.glb := rfl
@[simp] theorem updPart_hq (p : Nat) (f : Part → Part) : (updPart p f s).hq = s.hq := rfl
@[simp] theorem updPart_parts (p : Nat) (f : Part → Part) : (updPart p f s).parts = AMap.set s.parts p (f (partAt s p)) := rfl
@[simp] theorem updPart_cart (p : Nat) (f : Part → Part) : (updPart p f s).cart = s.cart := rfl
@[simp] theorem updPart_stk (p : Nat) (f : Part → Part) : (updPart p f s).stk = s.stk := rfl
@[simp] theorem updPart_cmp (p : Nat) (f : Part → Part) : (updPart p f s).cmp = s.cmp := rfl
@[simp] theorem updPart_cip (p : Nat) (f : Part → Part) : (updPart p f s).cip = s.cip := rfl
@[simp] theorem updPart_wrv (p : Nat) (f : Part → Part) : (updPart p f s).wrv = s.wrv := rfl
@[simp] theorem updPart_rch (p : Nat) (f : Part → Part) : (updPart p f s).rch = s.rch := rfl
@[simp] theorem updPart_srv (p : Nat) (f : Part → Part) : (updPart p f s).srv = s.srv := rfl
@[simp] theorem updPart_brd (p : Nat) (f : Part → Part) : (updPart p f s).brd = s.brd := rfl
@[simp] theorem updPart_shd (p : Nat) (f : Part → Part) : (updPart p f s).shd = s.shd := rfl
@[simp] theorem updPart_yrd (p : Nat) (f : Part → Part) : (updPart p f s).yrd = s.yrd := rfl
@[simp] theorem updPart_fab (p : Nat) (f : Part → Part) : (updPart p f s).fab = s.fab := rfl
@[simp] theorem updPart_boxes (p : Nat) (f : Part → Part) : (updPart p f s).boxes = s.boxes := rfl
@[simp] theorem updPart_mgt (p : Nat) (f : Part → Part) : (updPart p f s).mgt = s.mgt := rfl
@[simp] theorem updPart_cfg (p : Nat) (f : Part → Part) : (updPart p f s).cfg = s.cfg := rfl
@[simp] theorem updPart_ctrs (p : Nat) (f : Part → Part) : (updPart p f s).ctrs = s.ctrs := rfl
@[simp] theorem updPart_hostMem (p : Nat) (f : Part → Part) : (updPart p f s).hostMem = s.hostMem := rfl
@[simp] theorem updPart_cartMem (p : Nat) (f : Part → Part) : (updPart p f s).cartMem = s.cartMem := rfl
@[simp] theorem updPart_norMem (p : Nat) (f : Part → Part) : (updPart p f s).norMem = s.norMem := rfl
@[simp] theorem updPart_freeCtr (p : Nat) (f : Part → Part) : (updPart p f s).freeCtr = s.freeCtr := rfl
@[simp] theorem updPart_pending (p : Nat) (f : Part → Part) : (updPart p f s).pending = s.pending := rfl

@[simp] theorem setCmds_glb (c : List Cmd) : (setCmds c s).glb = s.glb := rfl
@[simp] theorem setCmds_hq (c : List Cmd) : (setCmds c s).hq = { s.hq with cmds := c } := rfl
@[simp] theorem setCmds_parts (c : List Cmd) : (setCmds c s).parts = s.parts := rfl
@[simp] theorem setCmds_cart (c : List Cmd) : (setCmds c s).cart = s.cart := rfl
@[simp] theorem setCmds_stk (c : List Cmd) : (setCmds c s).stk = s.stk := rfl
@[simp] theorem setCmds_cmp (c : List Cmd) : (setCmds c s).cmp = s.cmp := rfl
@[simp] theorem setCmds_cip (c : List Cmd) : (setCmds c s).cip = s.cip := rfl
@[simp] theorem setCmds_wrv (c : List Cmd) : (setCmds c s).wrv = s.wrv := rfl
@[simp] theorem setCmds_rch (c : List Cmd) : (setCmds c s).rch = s.rch := rfl
@[simp] theorem setCmds_srv (c : List Cmd) : (setCmds c s).srv = s.srv := rfl
@[simp] theorem setCmds_brd (c : List Cmd) : (setCmds c s).brd = s.brd := rfl
@[simp] theorem setCmds_shd (c : List Cmd) : (setCmds c s).shd = s.shd := rfl
@[simp] theorem setCmds_yrd (c : List Cmd) : (setCmds c s).yrd = s.yrd := rfl
@[simp] theorem setCmds_fab (c : List Cmd) : (setCmds c s).fab = s.fab := rfl
@[simp] theorem setCmds_boxes (c : List Cmd) : (setCmds c s).boxes = s.boxes := rfl
@[simp] theorem setCmds_mgt (c : List Cmd) : (setCmds c s).mgt = s.mgt := rfl
@[simp] theorem setCmds_cfg (c : List Cmd) : (setCmds c s).cfg = s.cfg := rfl
@[simp] theorem setCmds_ctrs (c : List Cmd) : (setCmds c s).ctrs = s.ctrs := rfl
@[simp] theorem setCmds_hostMem (c : List Cmd) : (setCmds c s).hostMem = s.hostMem := rfl
@[simp] theorem setCmds_cartMem (c : List Cmd) : (setCmds c s).cartMem = s.cartMem := rfl
@[simp] theorem setCmds_norMem (c : List Cmd) : (setCmds c s).norMem = s.norMem := rfl
@[simp] theorem setCmds_freeCtr (c : List Cmd) : (setCmds c s).freeCtr = s.freeCtr := rfl
@[simp] theorem setCmds_pending (c : List Cmd) : (setCmds c s).pending = s.pending := rfl

@[simp] theorem setWrites_glb (w : List Write) : (setWrites w s).glb = s.glb := rfl
@[simp] theorem setWrites_hq (w : List Write) : (setWrites w s).hq = { s.hq with writes := w } := rfl
@[simp] theorem setWrites_parts (w : List Write) : (setWrites w s).parts = s.parts := rfl
@[simp] theorem setWrites_cart (w : List Write) : (setWrites w s).cart = s.cart := rfl
@[simp] theorem setWrites_stk (w : List Write) : (setWrites w s).stk = s.stk := rfl
@[simp] theorem setWrites_cmp (w : List Write) : (setWrites w s).cmp = s.cmp := rfl
@[simp] theorem setWrites_cip (w : List Write) : (setWrites w s).cip = s.cip := rfl
@[simp] theorem setWrites_wrv (w : List Write) : (setWrites w s).wrv = s.wrv := rfl
@[simp] theorem setWrites_rch (w : List Write) : (setWrites w s).rch = s.rch := rfl
@[simp] theorem setWrites_srv (w : List Write) : (setWrites w s).srv = s.srv := rfl
@[simp] theorem setWrites_brd (w : List Write) : (setWrites w s).brd = s.brd := rfl
@[simp] theorem setWrites_shd (w : List Write) : (setWrites w s).shd = s.shd := rfl
@[simp] theorem setWrites_yrd (w : List Write) : (setWrites w s).yrd = s.yrd := rfl
@[simp] theorem setWrites_fab (w : List Write) : (setWrites w s).fab = s.fab := rfl
@[simp] theorem setWrites_boxes (w : List Write) : (setWrites w s).boxes = s.boxes := rfl
@[simp] theorem setWrites_mgt (w : List Write) : (setWrites w s).mgt = s.mgt := rfl
@[simp] theorem setWrites_cfg (w : List Write) : (setWrites w s).cfg = s.cfg := rfl
@[simp] theorem setWrites_ctrs (w : List Write) : (setWrites w s).ctrs = s.ctrs := rfl
@[simp] theorem setWrites_hostMem (w : List Write) : (setWrites w s).hostMem = s.hostMem := rfl
@[simp] theorem setWrites_cartMem (w : List Write) : (setWrites w s).cartMem = s.cartMem := rfl
@[simp] theorem setWrites_norMem (w : List Write) : (setWrites w s).norMem = s.norMem := rfl
@[simp] theorem setWrites_freeCtr (w : List Write) : (setWrites w s).freeCtr = s.freeCtr := rfl
@[simp] theorem setWrites_pending (w : List Write) : (setWrites w s).pending = s.pending := rfl

@[simp] theorem setRing_glb (p : Port) (n : Nat) (x : Ring) : (setRing p n x s).glb = s.glb := rfl
@[simp] theorem setRing_hq (p : Port) (n : Nat) (x : Ring) : (setRing p n x s).hq = { s.hq with rings := AMap.set s.hq.rings (ringKey p n) x } := rfl
@[simp] theorem setRing_parts (p : Port) (n : Nat) (x : Ring) : (setRing p n x s).parts = s.parts := rfl
@[simp] theorem setRing_cart (p : Port) (n : Nat) (x : Ring) : (setRing p n x s).cart = s.cart := rfl
@[simp] theorem setRing_stk (p : Port) (n : Nat) (x : Ring) : (setRing p n x s).stk = s.stk := rfl
@[simp] theorem setRing_cmp (p : Port) (n : Nat) (x : Ring) : (setRing p n x s).cmp = s.cmp := rfl
@[simp] theorem setRing_cip (p : Port) (n : Nat) (x : Ring) : (setRing p n x s).cip = s.cip := rfl
@[simp] theorem setRing_wrv (p : Port) (n : Nat) (x : Ring) : (setRing p n x s).wrv = s.wrv := rfl
@[simp] theorem setRing_rch (p : Port) (n : Nat) (x : Ring) : (setRing p n x s).rch = s.rch := rfl
@[simp] theorem setRing_srv (p : Port) (n : Nat) (x : Ring) : (setRing p n x s).srv = s.srv := rfl
@[simp] theorem setRing_brd (p : Port) (n : Nat) (x : Ring) : (setRing p n x s).brd = s.brd := rfl
@[simp] theorem setRing_shd (p : Port) (n : Nat) (x : Ring) : (setRing p n x s).shd = s.shd := rfl
@[simp] theorem setRing_yrd (p : Port) (n : Nat) (x : Ring) : (setRing p n x s).yrd = s.yrd := rfl
@[simp] theorem setRing_fab (p : Port) (n : Nat) (x : Ring) : (setRing p n x s).fab = s.fab := rfl
@[simp] theorem setRing_boxes (p : Port) (n : Nat) (x : Ring) : (setRing p n x s).boxes = s.boxes := rfl
@[simp] theorem setRing_mgt (p : Port) (n : Nat) (x : Ring) : (setRing p n x s).mgt = s.mgt := rfl
@[simp] theorem setRing_cfg (p : Port) (n : Nat) (x : Ring) : (setRing p n x s).cfg = s.cfg := rfl
@[simp] theorem setRing_ctrs (p : Port) (n : Nat) (x : Ring) : (setRing p n x s).ctrs = s.ctrs := rfl
@[simp] theorem setRing_hostMem (p : Port) (n : Nat) (x : Ring) : (setRing p n x s).hostMem = s.hostMem := rfl
@[simp] theorem setRing_cartMem (p : Port) (n : Nat) (x : Ring) : (setRing p n x s).cartMem = s.cartMem := rfl
@[simp] theorem setRing_norMem (p : Port) (n : Nat) (x : Ring) : (setRing p n x s).norMem = s.norMem := rfl
@[simp] theorem setRing_freeCtr (p : Port) (n : Nat) (x : Ring) : (setRing p n x s).freeCtr = s.freeCtr := rfl
@[simp] theorem setRing_pending (p : Port) (n : Nat) (x : Ring) : (setRing p n x s).pending = s.pending := rfl

@[simp] theorem updRing_glb (p : Port) (n : Nat) (f : Ring → Ring) : (updRing p n f s).glb = s.glb := rfl
@[simp] theorem updRing_hq (p : Port) (n : Nat) (f : Ring → Ring) : (updRing p n f s).hq = { s.hq with rings := AMap.set s.hq.rings (ringKey p n) (f (ringAt s p n)) } := rfl
@[simp] theorem updRing_parts (p : Port) (n : Nat) (f : Ring → Ring) : (updRing p n f s).parts = s.parts := rfl
@[simp] theorem updRing_cart (p : Port) (n : Nat) (f : Ring → Ring) : (updRing p n f s).cart = s.cart := rfl
@[simp] theorem updRing_stk (p : Port) (n : Nat) (f : Ring → Ring) : (updRing p n f s).stk = s.stk := rfl
@[simp] theorem updRing_cmp (p : Port) (n : Nat) (f : Ring → Ring) : (updRing p n f s).cmp = s.cmp := rfl
@[simp] theorem updRing_cip (p : Port) (n : Nat) (f : Ring → Ring) : (updRing p n f s).cip = s.cip := rfl
@[simp] theorem updRing_wrv (p : Port) (n : Nat) (f : Ring → Ring) : (updRing p n f s).wrv = s.wrv := rfl
@[simp] theorem updRing_rch (p : Port) (n : Nat) (f : Ring → Ring) : (updRing p n f s).rch = s.rch := rfl
@[simp] theorem updRing_srv (p : Port) (n : Nat) (f : Ring → Ring) : (updRing p n f s).srv = s.srv := rfl
@[simp] theorem updRing_brd (p : Port) (n : Nat) (f : Ring → Ring) : (updRing p n f s).brd = s.brd := rfl
@[simp] theorem updRing_shd (p : Port) (n : Nat) (f : Ring → Ring) : (updRing p n f s).shd = s.shd := rfl
@[simp] theorem updRing_yrd (p : Port) (n : Nat) (f : Ring → Ring) : (updRing p n f s).yrd = s.yrd := rfl
@[simp] theorem updRing_fab (p : Port) (n : Nat) (f : Ring → Ring) : (updRing p n f s).fab = s.fab := rfl
@[simp] theorem updRing_boxes (p : Port) (n : Nat) (f : Ring → Ring) : (updRing p n f s).boxes = s.boxes := rfl
@[simp] theorem updRing_mgt (p : Port) (n : Nat) (f : Ring → Ring) : (updRing p n f s).mgt = s.mgt := rfl
@[simp] theorem updRing_cfg (p : Port) (n : Nat) (f : Ring → Ring) : (updRing p n f s).cfg = s.cfg := rfl
@[simp] theorem updRing_ctrs (p : Port) (n : Nat) (f : Ring → Ring) : (updRing p n f s).ctrs = s.ctrs := rfl
@[simp] theorem updRing_hostMem (p : Port) (n : Nat) (f : Ring → Ring) : (updRing p n f s).hostMem = s.hostMem := rfl
@[simp] theorem updRing_cartMem (p : Port) (n : Nat) (f : Ring → Ring) : (updRing p n f s).cartMem = s.cartMem := rfl
@[simp] theorem updRing_norMem (p : Port) (n : Nat) (f : Ring → Ring) : (updRing p n f s).norMem = s.norMem := rfl
@[simp] theorem updRing_freeCtr (p : Port) (n : Nat) (f : Ring → Ring) : (updRing p n f s).freeCtr = s.freeCtr := rfl
@[simp] theorem updRing_pending (p : Port) (n : Nat) (f : Ring → Ring) : (updRing p n f s).pending = s.pending := rfl

@[simp] theorem raise_glb (p : Port) (f v : Nat) : (raise p f v s).glb = s.glb := rfl
@[simp] theorem raise_hq (p : Port) (f v : Nat) : (raise p f v s).hq = { s.hq with msix := modAt s.hq.msix (portIdx p * 64 + f * 32 + v) 0 (· + 1) } := rfl
@[simp] theorem raise_parts (p : Port) (f v : Nat) : (raise p f v s).parts = s.parts := rfl
@[simp] theorem raise_cart (p : Port) (f v : Nat) : (raise p f v s).cart = s.cart := rfl
@[simp] theorem raise_stk (p : Port) (f v : Nat) : (raise p f v s).stk = s.stk := rfl
@[simp] theorem raise_cmp (p : Port) (f v : Nat) : (raise p f v s).cmp = s.cmp := rfl
@[simp] theorem raise_cip (p : Port) (f v : Nat) : (raise p f v s).cip = s.cip := rfl
@[simp] theorem raise_wrv (p : Port) (f v : Nat) : (raise p f v s).wrv = s.wrv := rfl
@[simp] theorem raise_rch (p : Port) (f v : Nat) : (raise p f v s).rch = s.rch := rfl
@[simp] theorem raise_srv (p : Port) (f v : Nat) : (raise p f v s).srv = s.srv := rfl
@[simp] theorem raise_brd (p : Port) (f v : Nat) : (raise p f v s).brd = s.brd := rfl
@[simp] theorem raise_shd (p : Port) (f v : Nat) : (raise p f v s).shd = s.shd := rfl
@[simp] theorem raise_yrd (p : Port) (f v : Nat) : (raise p f v s).yrd = s.yrd := rfl
@[simp] theorem raise_fab (p : Port) (f v : Nat) : (raise p f v s).fab = s.fab := rfl
@[simp] theorem raise_boxes (p : Port) (f v : Nat) : (raise p f v s).boxes = s.boxes := rfl
@[simp] theorem raise_mgt (p : Port) (f v : Nat) : (raise p f v s).mgt = s.mgt := rfl
@[simp] theorem raise_cfg (p : Port) (f v : Nat) : (raise p f v s).cfg = s.cfg := rfl
@[simp] theorem raise_ctrs (p : Port) (f v : Nat) : (raise p f v s).ctrs = s.ctrs := rfl
@[simp] theorem raise_hostMem (p : Port) (f v : Nat) : (raise p f v s).hostMem = s.hostMem := rfl
@[simp] theorem raise_cartMem (p : Port) (f v : Nat) : (raise p f v s).cartMem = s.cartMem := rfl
@[simp] theorem raise_norMem (p : Port) (f v : Nat) : (raise p f v s).norMem = s.norMem := rfl
@[simp] theorem raise_freeCtr (p : Port) (f v : Nat) : (raise p f v s).freeCtr = s.freeCtr := rfl
@[simp] theorem raise_pending (p : Port) (f v : Nat) : (raise p f v s).pending = s.pending := rfl

@[simp] theorem updCmd_glb (q : Nat) (f : Cmd → Cmd) : (updCmd q f s).glb = s.glb := rfl
@[simp] theorem updCmd_hq (q : Nat) (f : Cmd → Cmd) : (updCmd q f s).hq = { s.hq with cmds := modFirst (fun c => c.seq == q) f s.hq.cmds } := rfl
@[simp] theorem updCmd_parts (q : Nat) (f : Cmd → Cmd) : (updCmd q f s).parts = s.parts := rfl
@[simp] theorem updCmd_cart (q : Nat) (f : Cmd → Cmd) : (updCmd q f s).cart = s.cart := rfl
@[simp] theorem updCmd_stk (q : Nat) (f : Cmd → Cmd) : (updCmd q f s).stk = s.stk := rfl
@[simp] theorem updCmd_cmp (q : Nat) (f : Cmd → Cmd) : (updCmd q f s).cmp = s.cmp := rfl
@[simp] theorem updCmd_cip (q : Nat) (f : Cmd → Cmd) : (updCmd q f s).cip = s.cip := rfl
@[simp] theorem updCmd_wrv (q : Nat) (f : Cmd → Cmd) : (updCmd q f s).wrv = s.wrv := rfl
@[simp] theorem updCmd_rch (q : Nat) (f : Cmd → Cmd) : (updCmd q f s).rch = s.rch := rfl
@[simp] theorem updCmd_srv (q : Nat) (f : Cmd → Cmd) : (updCmd q f s).srv = s.srv := rfl
@[simp] theorem updCmd_brd (q : Nat) (f : Cmd → Cmd) : (updCmd q f s).brd = s.brd := rfl
@[simp] theorem updCmd_shd (q : Nat) (f : Cmd → Cmd) : (updCmd q f s).shd = s.shd := rfl
@[simp] theorem updCmd_yrd (q : Nat) (f : Cmd → Cmd) : (updCmd q f s).yrd = s.yrd := rfl
@[simp] theorem updCmd_fab (q : Nat) (f : Cmd → Cmd) : (updCmd q f s).fab = s.fab := rfl
@[simp] theorem updCmd_boxes (q : Nat) (f : Cmd → Cmd) : (updCmd q f s).boxes = s.boxes := rfl
@[simp] theorem updCmd_mgt (q : Nat) (f : Cmd → Cmd) : (updCmd q f s).mgt = s.mgt := rfl
@[simp] theorem updCmd_cfg (q : Nat) (f : Cmd → Cmd) : (updCmd q f s).cfg = s.cfg := rfl
@[simp] theorem updCmd_ctrs (q : Nat) (f : Cmd → Cmd) : (updCmd q f s).ctrs = s.ctrs := rfl
@[simp] theorem updCmd_hostMem (q : Nat) (f : Cmd → Cmd) : (updCmd q f s).hostMem = s.hostMem := rfl
@[simp] theorem updCmd_cartMem (q : Nat) (f : Cmd → Cmd) : (updCmd q f s).cartMem = s.cartMem := rfl
@[simp] theorem updCmd_norMem (q : Nat) (f : Cmd → Cmd) : (updCmd q f s).norMem = s.norMem := rfl
@[simp] theorem updCmd_freeCtr (q : Nat) (f : Cmd → Cmd) : (updCmd q f s).freeCtr = s.freeCtr := rfl
@[simp] theorem updCmd_pending (q : Nat) (f : Cmd → Cmd) : (updCmd q f s).pending = s.pending := rfl

@[simp] theorem updWrite_glb (q : Nat) (f : Write → Write) : (updWrite q f s).glb = s.glb := rfl
@[simp] theorem updWrite_hq (q : Nat) (f : Write → Write) : (updWrite q f s).hq = { s.hq with writes := modFirst (fun w => w.seq == q) f s.hq.writes } := rfl
@[simp] theorem updWrite_parts (q : Nat) (f : Write → Write) : (updWrite q f s).parts = s.parts := rfl
@[simp] theorem updWrite_cart (q : Nat) (f : Write → Write) : (updWrite q f s).cart = s.cart := rfl
@[simp] theorem updWrite_stk (q : Nat) (f : Write → Write) : (updWrite q f s).stk = s.stk := rfl
@[simp] theorem updWrite_cmp (q : Nat) (f : Write → Write) : (updWrite q f s).cmp = s.cmp := rfl
@[simp] theorem updWrite_cip (q : Nat) (f : Write → Write) : (updWrite q f s).cip = s.cip := rfl
@[simp] theorem updWrite_wrv (q : Nat) (f : Write → Write) : (updWrite q f s).wrv = s.wrv := rfl
@[simp] theorem updWrite_rch (q : Nat) (f : Write → Write) : (updWrite q f s).rch = s.rch := rfl
@[simp] theorem updWrite_srv (q : Nat) (f : Write → Write) : (updWrite q f s).srv = s.srv := rfl
@[simp] theorem updWrite_brd (q : Nat) (f : Write → Write) : (updWrite q f s).brd = s.brd := rfl
@[simp] theorem updWrite_shd (q : Nat) (f : Write → Write) : (updWrite q f s).shd = s.shd := rfl
@[simp] theorem updWrite_yrd (q : Nat) (f : Write → Write) : (updWrite q f s).yrd = s.yrd := rfl
@[simp] theorem updWrite_fab (q : Nat) (f : Write → Write) : (updWrite q f s).fab = s.fab := rfl
@[simp] theorem updWrite_boxes (q : Nat) (f : Write → Write) : (updWrite q f s).boxes = s.boxes := rfl
@[simp] theorem updWrite_mgt (q : Nat) (f : Write → Write) : (updWrite q f s).mgt = s.mgt := rfl
@[simp] theorem updWrite_cfg (q : Nat) (f : Write → Write) : (updWrite q f s).cfg = s.cfg := rfl
@[simp] theorem updWrite_ctrs (q : Nat) (f : Write → Write) : (updWrite q f s).ctrs = s.ctrs := rfl
@[simp] theorem updWrite_hostMem (q : Nat) (f : Write → Write) : (updWrite q f s).hostMem = s.hostMem := rfl
@[simp] theorem updWrite_cartMem (q : Nat) (f : Write → Write) : (updWrite q f s).cartMem = s.cartMem := rfl
@[simp] theorem updWrite_norMem (q : Nat) (f : Write → Write) : (updWrite q f s).norMem = s.norMem := rfl
@[simp] theorem updWrite_freeCtr (q : Nat) (f : Write → Write) : (updWrite q f s).freeCtr = s.freeCtr := rfl
@[simp] theorem updWrite_pending (q : Nat) (f : Write → Write) : (updWrite q f s).pending = s.pending := rfl

@[simp] theorem setStall_glb (n : Nat) (x : Stall) : (setStall n x s).glb = s.glb := rfl
@[simp] theorem setStall_hq (n : Nat) (x : Stall) : (setStall n x s).hq = s.hq := rfl
@[simp] theorem setStall_parts (n : Nat) (x : Stall) : (setStall n x s).parts = s.parts := rfl
@[simp] theorem setStall_cart (n : Nat) (x : Stall) : (setStall n x s).cart = s.cart := rfl
@[simp] theorem setStall_stk (n : Nat) (x : Stall) : (setStall n x s).stk = { s.stk with stalls := AMap.set s.stk.stalls n x } := rfl
@[simp] theorem setStall_cmp (n : Nat) (x : Stall) : (setStall n x s).cmp = s.cmp := rfl
@[simp] theorem setStall_cip (n : Nat) (x : Stall) : (setStall n x s).cip = s.cip := rfl
@[simp] theorem setStall_wrv (n : Nat) (x : Stall) : (setStall n x s).wrv = s.wrv := rfl
@[simp] theorem setStall_rch (n : Nat) (x : Stall) : (setStall n x s).rch = s.rch := rfl
@[simp] theorem setStall_srv (n : Nat) (x : Stall) : (setStall n x s).srv = s.srv := rfl
@[simp] theorem setStall_brd (n : Nat) (x : Stall) : (setStall n x s).brd = s.brd := rfl
@[simp] theorem setStall_shd (n : Nat) (x : Stall) : (setStall n x s).shd = s.shd := rfl
@[simp] theorem setStall_yrd (n : Nat) (x : Stall) : (setStall n x s).yrd = s.yrd := rfl
@[simp] theorem setStall_fab (n : Nat) (x : Stall) : (setStall n x s).fab = s.fab := rfl
@[simp] theorem setStall_boxes (n : Nat) (x : Stall) : (setStall n x s).boxes = s.boxes := rfl
@[simp] theorem setStall_mgt (n : Nat) (x : Stall) : (setStall n x s).mgt = s.mgt := rfl
@[simp] theorem setStall_cfg (n : Nat) (x : Stall) : (setStall n x s).cfg = s.cfg := rfl
@[simp] theorem setStall_ctrs (n : Nat) (x : Stall) : (setStall n x s).ctrs = s.ctrs := rfl
@[simp] theorem setStall_hostMem (n : Nat) (x : Stall) : (setStall n x s).hostMem = s.hostMem := rfl
@[simp] theorem setStall_cartMem (n : Nat) (x : Stall) : (setStall n x s).cartMem = s.cartMem := rfl
@[simp] theorem setStall_norMem (n : Nat) (x : Stall) : (setStall n x s).norMem = s.norMem := rfl
@[simp] theorem setStall_freeCtr (n : Nat) (x : Stall) : (setStall n x s).freeCtr = s.freeCtr := rfl
@[simp] theorem setStall_pending (n : Nat) (x : Stall) : (setStall n x s).pending = s.pending := rfl

@[simp] theorem setStable_glb (b : Nat) (x : Stable) : (setStable b x s).glb = s.glb := rfl
@[simp] theorem setStable_hq (b : Nat) (x : Stable) : (setStable b x s).hq = s.hq := rfl
@[simp] theorem setStable_parts (b : Nat) (x : Stable) : (setStable b x s).parts = s.parts := rfl
@[simp] theorem setStable_cart (b : Nat) (x : Stable) : (setStable b x s).cart = s.cart := rfl
@[simp] theorem setStable_stk (b : Nat) (x : Stable) : (setStable b x s).stk = { s.stk with stables := AMap.set s.stk.stables b x } := rfl
@[simp] theorem setStable_cmp (b : Nat) (x : Stable) : (setStable b x s).cmp = s.cmp := rfl
@[simp] theorem setStable_cip (b : Nat) (x : Stable) : (setStable b x s).cip = s.cip := rfl
@[simp] theorem setStable_wrv (b : Nat) (x : Stable) : (setStable b x s).wrv = s.wrv := rfl
@[simp] theorem setStable_rch (b : Nat) (x : Stable) : (setStable b x s).rch = s.rch := rfl
@[simp] theorem setStable_srv (b : Nat) (x : Stable) : (setStable b x s).srv = s.srv := rfl
@[simp] theorem setStable_brd (b : Nat) (x : Stable) : (setStable b x s).brd = s.brd := rfl
@[simp] theorem setStable_shd (b : Nat) (x : Stable) : (setStable b x s).shd = s.shd := rfl
@[simp] theorem setStable_yrd (b : Nat) (x : Stable) : (setStable b x s).yrd = s.yrd := rfl
@[simp] theorem setStable_fab (b : Nat) (x : Stable) : (setStable b x s).fab = s.fab := rfl
@[simp] theorem setStable_boxes (b : Nat) (x : Stable) : (setStable b x s).boxes = s.boxes := rfl
@[simp] theorem setStable_mgt (b : Nat) (x : Stable) : (setStable b x s).mgt = s.mgt := rfl
@[simp] theorem setStable_cfg (b : Nat) (x : Stable) : (setStable b x s).cfg = s.cfg := rfl
@[simp] theorem setStable_ctrs (b : Nat) (x : Stable) : (setStable b x s).ctrs = s.ctrs := rfl
@[simp] theorem setStable_hostMem (b : Nat) (x : Stable) : (setStable b x s).hostMem = s.hostMem := rfl
@[simp] theorem setStable_cartMem (b : Nat) (x : Stable) : (setStable b x s).cartMem = s.cartMem := rfl
@[simp] theorem setStable_norMem (b : Nat) (x : Stable) : (setStable b x s).norMem = s.norMem := rfl
@[simp] theorem setStable_freeCtr (b : Nat) (x : Stable) : (setStable b x s).freeCtr = s.freeCtr := rfl
@[simp] theorem setStable_pending (b : Nat) (x : Stable) : (setStable b x s).pending = s.pending := rfl

@[simp] theorem setEngine_glb (e : Nat) (x : Engine) : (setEngine e x s).glb = s.glb := rfl
@[simp] theorem setEngine_hq (e : Nat) (x : Engine) : (setEngine e x s).hq = s.hq := rfl
@[simp] theorem setEngine_parts (e : Nat) (x : Engine) : (setEngine e x s).parts = s.parts := rfl
@[simp] theorem setEngine_cart (e : Nat) (x : Engine) : (setEngine e x s).cart = s.cart := rfl
@[simp] theorem setEngine_stk (e : Nat) (x : Engine) : (setEngine e x s).stk = s.stk := rfl
@[simp] theorem setEngine_cmp (e : Nat) (x : Engine) : (setEngine e x s).cmp = { s.cmp with engines := AMap.set s.cmp.engines e x } := rfl
@[simp] theorem setEngine_cip (e : Nat) (x : Engine) : (setEngine e x s).cip = s.cip := rfl
@[simp] theorem setEngine_wrv (e : Nat) (x : Engine) : (setEngine e x s).wrv = s.wrv := rfl
@[simp] theorem setEngine_rch (e : Nat) (x : Engine) : (setEngine e x s).rch = s.rch := rfl
@[simp] theorem setEngine_srv (e : Nat) (x : Engine) : (setEngine e x s).srv = s.srv := rfl
@[simp] theorem setEngine_brd (e : Nat) (x : Engine) : (setEngine e x s).brd = s.brd := rfl
@[simp] theorem setEngine_shd (e : Nat) (x : Engine) : (setEngine e x s).shd = s.shd := rfl
@[simp] theorem setEngine_yrd (e : Nat) (x : Engine) : (setEngine e x s).yrd = s.yrd := rfl
@[simp] theorem setEngine_fab (e : Nat) (x : Engine) : (setEngine e x s).fab = s.fab := rfl
@[simp] theorem setEngine_boxes (e : Nat) (x : Engine) : (setEngine e x s).boxes = s.boxes := rfl
@[simp] theorem setEngine_mgt (e : Nat) (x : Engine) : (setEngine e x s).mgt = s.mgt := rfl
@[simp] theorem setEngine_cfg (e : Nat) (x : Engine) : (setEngine e x s).cfg = s.cfg := rfl
@[simp] theorem setEngine_ctrs (e : Nat) (x : Engine) : (setEngine e x s).ctrs = s.ctrs := rfl
@[simp] theorem setEngine_hostMem (e : Nat) (x : Engine) : (setEngine e x s).hostMem = s.hostMem := rfl
@[simp] theorem setEngine_cartMem (e : Nat) (x : Engine) : (setEngine e x s).cartMem = s.cartMem := rfl
@[simp] theorem setEngine_norMem (e : Nat) (x : Engine) : (setEngine e x s).norMem = s.norMem := rfl
@[simp] theorem setEngine_freeCtr (e : Nat) (x : Engine) : (setEngine e x s).freeCtr = s.freeCtr := rfl
@[simp] theorem setEngine_pending (e : Nat) (x : Engine) : (setEngine e x s).pending = s.pending := rfl

@[simp] theorem setSlot_glb (n : Nat) (x : KeySlot) : (setSlot n x s).glb = s.glb := rfl
@[simp] theorem setSlot_hq (n : Nat) (x : KeySlot) : (setSlot n x s).hq = s.hq := rfl
@[simp] theorem setSlot_parts (n : Nat) (x : KeySlot) : (setSlot n x s).parts = s.parts := rfl
@[simp] theorem setSlot_cart (n : Nat) (x : KeySlot) : (setSlot n x s).cart = s.cart := rfl
@[simp] theorem setSlot_stk (n : Nat) (x : KeySlot) : (setSlot n x s).stk = s.stk := rfl
@[simp] theorem setSlot_cmp (n : Nat) (x : KeySlot) : (setSlot n x s).cmp = s.cmp := rfl
@[simp] theorem setSlot_cip (n : Nat) (x : KeySlot) : (setSlot n x s).cip = { s.cip with slots := AMap.set s.cip.slots n x } := rfl
@[simp] theorem setSlot_wrv (n : Nat) (x : KeySlot) : (setSlot n x s).wrv = s.wrv := rfl
@[simp] theorem setSlot_rch (n : Nat) (x : KeySlot) : (setSlot n x s).rch = s.rch := rfl
@[simp] theorem setSlot_srv (n : Nat) (x : KeySlot) : (setSlot n x s).srv = s.srv := rfl
@[simp] theorem setSlot_brd (n : Nat) (x : KeySlot) : (setSlot n x s).brd = s.brd := rfl
@[simp] theorem setSlot_shd (n : Nat) (x : KeySlot) : (setSlot n x s).shd = s.shd := rfl
@[simp] theorem setSlot_yrd (n : Nat) (x : KeySlot) : (setSlot n x s).yrd = s.yrd := rfl
@[simp] theorem setSlot_fab (n : Nat) (x : KeySlot) : (setSlot n x s).fab = s.fab := rfl
@[simp] theorem setSlot_boxes (n : Nat) (x : KeySlot) : (setSlot n x s).boxes = s.boxes := rfl
@[simp] theorem setSlot_mgt (n : Nat) (x : KeySlot) : (setSlot n x s).mgt = s.mgt := rfl
@[simp] theorem setSlot_cfg (n : Nat) (x : KeySlot) : (setSlot n x s).cfg = s.cfg := rfl
@[simp] theorem setSlot_ctrs (n : Nat) (x : KeySlot) : (setSlot n x s).ctrs = s.ctrs := rfl
@[simp] theorem setSlot_hostMem (n : Nat) (x : KeySlot) : (setSlot n x s).hostMem = s.hostMem := rfl
@[simp] theorem setSlot_cartMem (n : Nat) (x : KeySlot) : (setSlot n x s).cartMem = s.cartMem := rfl
@[simp] theorem setSlot_norMem (n : Nat) (x : KeySlot) : (setSlot n x s).norMem = s.norMem := rfl
@[simp] theorem setSlot_freeCtr (n : Nat) (x : KeySlot) : (setSlot n x s).freeCtr = s.freeCtr := rfl
@[simp] theorem setSlot_pending (n : Nat) (x : KeySlot) : (setSlot n x s).pending = s.pending := rfl

@[simp] theorem addCtr_glb (o n : Nat) : (addCtr o n s).glb = s.glb := rfl
@[simp] theorem addCtr_hq (o n : Nat) : (addCtr o n s).hq = s.hq := rfl
@[simp] theorem addCtr_parts (o n : Nat) : (addCtr o n s).parts = s.parts := rfl
@[simp] theorem addCtr_cart (o n : Nat) : (addCtr o n s).cart = s.cart := rfl
@[simp] theorem addCtr_stk (o n : Nat) : (addCtr o n s).stk = s.stk := rfl
@[simp] theorem addCtr_cmp (o n : Nat) : (addCtr o n s).cmp = s.cmp := rfl
@[simp] theorem addCtr_cip (o n : Nat) : (addCtr o n s).cip = s.cip := rfl
@[simp] theorem addCtr_wrv (o n : Nat) : (addCtr o n s).wrv = s.wrv := rfl
@[simp] theorem addCtr_rch (o n : Nat) : (addCtr o n s).rch = s.rch := rfl
@[simp] theorem addCtr_srv (o n : Nat) : (addCtr o n s).srv = s.srv := rfl
@[simp] theorem addCtr_brd (o n : Nat) : (addCtr o n s).brd = s.brd := rfl
@[simp] theorem addCtr_shd (o n : Nat) : (addCtr o n s).shd = s.shd := rfl
@[simp] theorem addCtr_yrd (o n : Nat) : (addCtr o n s).yrd = s.yrd := rfl
@[simp] theorem addCtr_fab (o n : Nat) : (addCtr o n s).fab = s.fab := rfl
@[simp] theorem addCtr_boxes (o n : Nat) : (addCtr o n s).boxes = s.boxes := rfl
@[simp] theorem addCtr_mgt (o n : Nat) : (addCtr o n s).mgt = s.mgt := rfl
@[simp] theorem addCtr_cfg (o n : Nat) : (addCtr o n s).cfg = s.cfg := rfl
@[simp] theorem addCtr_ctrs (o n : Nat) : (addCtr o n s).ctrs = AMap.set s.ctrs o (satAdd (ctr s o) n) := rfl
@[simp] theorem addCtr_hostMem (o n : Nat) : (addCtr o n s).hostMem = s.hostMem := rfl
@[simp] theorem addCtr_cartMem (o n : Nat) : (addCtr o n s).cartMem = s.cartMem := rfl
@[simp] theorem addCtr_norMem (o n : Nat) : (addCtr o n s).norMem = s.norMem := rfl
@[simp] theorem addCtr_freeCtr (o n : Nat) : (addCtr o n s).freeCtr = s.freeCtr := rfl
@[simp] theorem addCtr_pending (o n : Nat) : (addCtr o n s).pending = s.pending := rfl

@[simp] theorem inc_glb (o : Nat) : (inc o s).glb = s.glb := rfl
@[simp] theorem inc_hq (o : Nat) : (inc o s).hq = s.hq := rfl
@[simp] theorem inc_parts (o : Nat) : (inc o s).parts = s.parts := rfl
@[simp] theorem inc_cart (o : Nat) : (inc o s).cart = s.cart := rfl
@[simp] theorem inc_stk (o : Nat) : (inc o s).stk = s.stk := rfl
@[simp] theorem inc_cmp (o : Nat) : (inc o s).cmp = s.cmp := rfl
@[simp] theorem inc_cip (o : Nat) : (inc o s).cip = s.cip := rfl
@[simp] theorem inc_wrv (o : Nat) : (inc o s).wrv = s.wrv := rfl
@[simp] theorem inc_rch (o : Nat) : (inc o s).rch = s.rch := rfl
@[simp] theorem inc_srv (o : Nat) : (inc o s).srv = s.srv := rfl
@[simp] theorem inc_brd (o : Nat) : (inc o s).brd = s.brd := rfl
@[simp] theorem inc_shd (o : Nat) : (inc o s).shd = s.shd := rfl
@[simp] theorem inc_yrd (o : Nat) : (inc o s).yrd = s.yrd := rfl
@[simp] theorem inc_fab (o : Nat) : (inc o s).fab = s.fab := rfl
@[simp] theorem inc_boxes (o : Nat) : (inc o s).boxes = s.boxes := rfl
@[simp] theorem inc_mgt (o : Nat) : (inc o s).mgt = s.mgt := rfl
@[simp] theorem inc_cfg (o : Nat) : (inc o s).cfg = s.cfg := rfl
@[simp] theorem inc_ctrs (o : Nat) : (inc o s).ctrs = AMap.set s.ctrs o (satAdd (ctr s o) 1) := rfl
@[simp] theorem inc_hostMem (o : Nat) : (inc o s).hostMem = s.hostMem := rfl
@[simp] theorem inc_cartMem (o : Nat) : (inc o s).cartMem = s.cartMem := rfl
@[simp] theorem inc_norMem (o : Nat) : (inc o s).norMem = s.norMem := rfl
@[simp] theorem inc_freeCtr (o : Nat) : (inc o s).freeCtr = s.freeCtr := rfl
@[simp] theorem inc_pending (o : Nat) : (inc o s).pending = s.pending := rfl

@[simp] theorem drawNext_glb : (drawNext s).glb = s.glb := rfl
@[simp] theorem drawNext_hq : (drawNext s).hq = s.hq := rfl
@[simp] theorem drawNext_parts : (drawNext s).parts = s.parts := rfl
@[simp] theorem drawNext_cart : (drawNext s).cart = s.cart := rfl
@[simp] theorem drawNext_stk : (drawNext s).stk = s.stk := rfl
@[simp] theorem drawNext_cmp : (drawNext s).cmp = s.cmp := rfl
@[simp] theorem drawNext_cip : (drawNext s).cip = s.cip := rfl
@[simp] theorem drawNext_wrv : (drawNext s).wrv = s.wrv := rfl
@[simp] theorem drawNext_rch : (drawNext s).rch = s.rch := rfl
@[simp] theorem drawNext_srv : (drawNext s).srv = s.srv := rfl
@[simp] theorem drawNext_brd : (drawNext s).brd = s.brd := rfl
@[simp] theorem drawNext_shd : (drawNext s).shd = s.shd := rfl
@[simp] theorem drawNext_yrd : (drawNext s).yrd = s.yrd := rfl
@[simp] theorem drawNext_fab : (drawNext s).fab = s.fab := rfl
@[simp] theorem drawNext_boxes : (drawNext s).boxes = s.boxes := rfl
@[simp] theorem drawNext_mgt : (drawNext s).mgt = s.mgt := rfl
@[simp] theorem drawNext_cfg : (drawNext s).cfg = s.cfg := rfl
@[simp] theorem drawNext_ctrs : (drawNext s).ctrs = s.ctrs := rfl
@[simp] theorem drawNext_hostMem : (drawNext s).hostMem = s.hostMem := rfl
@[simp] theorem drawNext_cartMem : (drawNext s).cartMem = s.cartMem := rfl
@[simp] theorem drawNext_norMem : (drawNext s).norMem = s.norMem := rfl
@[simp] theorem drawNext_freeCtr : (drawNext s).freeCtr = s.freeCtr + 1 := rfl
@[simp] theorem drawNext_pending : (drawNext s).pending = s.pending := rfl

@[simp] theorem hostWrite_glb (a : Nat) (b : Bytes) : (hostWrite a b s).glb = s.glb := rfl
@[simp] theorem hostWrite_hq (a : Nat) (b : Bytes) : (hostWrite a b s).hq = s.hq := rfl
@[simp] theorem hostWrite_parts (a : Nat) (b : Bytes) : (hostWrite a b s).parts = s.parts := rfl
@[simp] theorem hostWrite_cart (a : Nat) (b : Bytes) : (hostWrite a b s).cart = s.cart := rfl
@[simp] theorem hostWrite_stk (a : Nat) (b : Bytes) : (hostWrite a b s).stk = s.stk := rfl
@[simp] theorem hostWrite_cmp (a : Nat) (b : Bytes) : (hostWrite a b s).cmp = s.cmp := rfl
@[simp] theorem hostWrite_cip (a : Nat) (b : Bytes) : (hostWrite a b s).cip = s.cip := rfl
@[simp] theorem hostWrite_wrv (a : Nat) (b : Bytes) : (hostWrite a b s).wrv = s.wrv := rfl
@[simp] theorem hostWrite_rch (a : Nat) (b : Bytes) : (hostWrite a b s).rch = s.rch := rfl
@[simp] theorem hostWrite_srv (a : Nat) (b : Bytes) : (hostWrite a b s).srv = s.srv := rfl
@[simp] theorem hostWrite_brd (a : Nat) (b : Bytes) : (hostWrite a b s).brd = s.brd := rfl
@[simp] theorem hostWrite_shd (a : Nat) (b : Bytes) : (hostWrite a b s).shd = s.shd := rfl
@[simp] theorem hostWrite_yrd (a : Nat) (b : Bytes) : (hostWrite a b s).yrd = s.yrd := rfl
@[simp] theorem hostWrite_fab (a : Nat) (b : Bytes) : (hostWrite a b s).fab = s.fab := rfl
@[simp] theorem hostWrite_boxes (a : Nat) (b : Bytes) : (hostWrite a b s).boxes = s.boxes := rfl
@[simp] theorem hostWrite_mgt (a : Nat) (b : Bytes) : (hostWrite a b s).mgt = s.mgt := rfl
@[simp] theorem hostWrite_cfg (a : Nat) (b : Bytes) : (hostWrite a b s).cfg = s.cfg := rfl
@[simp] theorem hostWrite_ctrs (a : Nat) (b : Bytes) : (hostWrite a b s).ctrs = s.ctrs := rfl
@[simp] theorem hostWrite_cartMem (a : Nat) (b : Bytes) : (hostWrite a b s).cartMem = s.cartMem := rfl
@[simp] theorem hostWrite_norMem (a : Nat) (b : Bytes) : (hostWrite a b s).norMem = s.norMem := rfl
@[simp] theorem hostWrite_freeCtr (a : Nat) (b : Bytes) : (hostWrite a b s).freeCtr = s.freeCtr := rfl
@[simp] theorem hostWrite_pending (a : Nat) (b : Bytes) : (hostWrite a b s).pending = s.pending := rfl

@[simp] theorem cmWrite_glb (a : Nat) (b : Bytes) : (cmWrite a b s).glb = s.glb := rfl
@[simp] theorem cmWrite_hq (a : Nat) (b : Bytes) : (cmWrite a b s).hq = s.hq := rfl
@[simp] theorem cmWrite_parts (a : Nat) (b : Bytes) : (cmWrite a b s).parts = s.parts := rfl
@[simp] theorem cmWrite_cart (a : Nat) (b : Bytes) : (cmWrite a b s).cart = s.cart := rfl
@[simp] theorem cmWrite_stk (a : Nat) (b : Bytes) : (cmWrite a b s).stk = s.stk := rfl
@[simp] theorem cmWrite_cmp (a : Nat) (b : Bytes) : (cmWrite a b s).cmp = s.cmp := rfl
@[simp] theorem cmWrite_cip (a : Nat) (b : Bytes) : (cmWrite a b s).cip = s.cip := rfl
@[simp] theorem cmWrite_wrv (a : Nat) (b : Bytes) : (cmWrite a b s).wrv = s.wrv := rfl
@[simp] theorem cmWrite_rch (a : Nat) (b : Bytes) : (cmWrite a b s).rch = s.rch := rfl
@[simp] theorem cmWrite_srv (a : Nat) (b : Bytes) : (cmWrite a b s).srv = s.srv := rfl
@[simp] theorem cmWrite_brd (a : Nat) (b : Bytes) : (cmWrite a b s).brd = s.brd := rfl
@[simp] theorem cmWrite_shd (a : Nat) (b : Bytes) : (cmWrite a b s).shd = s.shd := rfl
@[simp] theorem cmWrite_yrd (a : Nat) (b : Bytes) : (cmWrite a b s).yrd = s.yrd := rfl
@[simp] theorem cmWrite_fab (a : Nat) (b : Bytes) : (cmWrite a b s).fab = s.fab := rfl
@[simp] theorem cmWrite_boxes (a : Nat) (b : Bytes) : (cmWrite a b s).boxes = s.boxes := rfl
@[simp] theorem cmWrite_mgt (a : Nat) (b : Bytes) : (cmWrite a b s).mgt = s.mgt := rfl
@[simp] theorem cmWrite_cfg (a : Nat) (b : Bytes) : (cmWrite a b s).cfg = s.cfg := rfl
@[simp] theorem cmWrite_ctrs (a : Nat) (b : Bytes) : (cmWrite a b s).ctrs = s.ctrs := rfl
@[simp] theorem cmWrite_hostMem (a : Nat) (b : Bytes) : (cmWrite a b s).hostMem = s.hostMem := rfl
@[simp] theorem cmWrite_norMem (a : Nat) (b : Bytes) : (cmWrite a b s).norMem = s.norMem := rfl
@[simp] theorem cmWrite_freeCtr (a : Nat) (b : Bytes) : (cmWrite a b s).freeCtr = s.freeCtr := rfl
@[simp] theorem cmWrite_pending (a : Nat) (b : Bytes) : (cmWrite a b s).pending = s.pending := rfl

@[simp] theorem norWrite_glb (a : Nat) (b : Bytes) : (norWrite a b s).glb = s.glb := rfl
@[simp] theorem norWrite_hq (a : Nat) (b : Bytes) : (norWrite a b s).hq = s.hq := rfl
@[simp] theorem norWrite_parts (a : Nat) (b : Bytes) : (norWrite a b s).parts = s.parts := rfl
@[simp] theorem norWrite_cart (a : Nat) (b : Bytes) : (norWrite a b s).cart = s.cart := rfl
@[simp] theorem norWrite_stk (a : Nat) (b : Bytes) : (norWrite a b s).stk = s.stk := rfl
@[simp] theorem norWrite_cmp (a : Nat) (b : Bytes) : (norWrite a b s).cmp = s.cmp := rfl
@[simp] theorem norWrite_cip (a : Nat) (b : Bytes) : (norWrite a b s).cip = s.cip := rfl
@[simp] theorem norWrite_wrv (a : Nat) (b : Bytes) : (norWrite a b s).wrv = s.wrv := rfl
@[simp] theorem norWrite_rch (a : Nat) (b : Bytes) : (norWrite a b s).rch = s.rch := rfl
@[simp] theorem norWrite_srv (a : Nat) (b : Bytes) : (norWrite a b s).srv = s.srv := rfl
@[simp] theorem norWrite_brd (a : Nat) (b : Bytes) : (norWrite a b s).brd = s.brd := rfl
@[simp] theorem norWrite_shd (a : Nat) (b : Bytes) : (norWrite a b s).shd = s.shd := rfl
@[simp] theorem norWrite_yrd (a : Nat) (b : Bytes) : (norWrite a b s).yrd = s.yrd := rfl
@[simp] theorem norWrite_fab (a : Nat) (b : Bytes) : (norWrite a b s).fab = s.fab := rfl
@[simp] theorem norWrite_boxes (a : Nat) (b : Bytes) : (norWrite a b s).boxes = s.boxes := rfl
@[simp] theorem norWrite_mgt (a : Nat) (b : Bytes) : (norWrite a b s).mgt = s.mgt := rfl
@[simp] theorem norWrite_cfg (a : Nat) (b : Bytes) : (norWrite a b s).cfg = s.cfg := rfl
@[simp] theorem norWrite_ctrs (a : Nat) (b : Bytes) : (norWrite a b s).ctrs = s.ctrs := rfl
@[simp] theorem norWrite_hostMem (a : Nat) (b : Bytes) : (norWrite a b s).hostMem = s.hostMem := rfl
@[simp] theorem norWrite_cartMem (a : Nat) (b : Bytes) : (norWrite a b s).cartMem = s.cartMem := rfl
@[simp] theorem norWrite_freeCtr (a : Nat) (b : Bytes) : (norWrite a b s).freeCtr = s.freeCtr := rfl
@[simp] theorem norWrite_pending (a : Nat) (b : Bytes) : (norWrite a b s).pending = s.pending := rfl

@[simp] theorem setBox_glb (b : Box) (m : List Mail) : (setBox b m s).glb = s.glb := rfl
@[simp] theorem setBox_hq (b : Box) (m : List Mail) : (setBox b m s).hq = s.hq := rfl
@[simp] theorem setBox_parts (b : Box) (m : List Mail) : (setBox b m s).parts = s.parts := rfl
@[simp] theorem setBox_cart (b : Box) (m : List Mail) : (setBox b m s).cart = s.cart := rfl
@[simp] theorem setBox_stk (b : Box) (m : List Mail) : (setBox b m s).stk = s.stk := rfl
@[simp] theorem setBox_cmp (b : Box) (m : List Mail) : (setBox b m s).cmp = s.cmp := rfl
@[simp] theorem setBox_cip (b : Box) (m : List Mail) : (setBox b m s).cip = s.cip := rfl
@[simp] theorem setBox_wrv (b : Box) (m : List Mail) : (setBox b m s).wrv = s.wrv := rfl
@[simp] theorem setBox_rch (b : Box) (m : List Mail) : (setBox b m s).rch = s.rch := rfl
@[simp] theorem setBox_srv (b : Box) (m : List Mail) : (setBox b m s).srv = s.srv := rfl
@[simp] theorem setBox_brd (b : Box) (m : List Mail) : (setBox b m s).brd = s.brd := rfl
@[simp] theorem setBox_shd (b : Box) (m : List Mail) : (setBox b m s).shd = s.shd := rfl
@[simp] theorem setBox_yrd (b : Box) (m : List Mail) : (setBox b m s).yrd = s.yrd := rfl
@[simp] theorem setBox_fab (b : Box) (m : List Mail) : (setBox b m s).fab = s.fab := rfl
@[simp] theorem setBox_mgt (b : Box) (m : List Mail) : (setBox b m s).mgt = s.mgt := rfl
@[simp] theorem setBox_cfg (b : Box) (m : List Mail) : (setBox b m s).cfg = s.cfg := rfl
@[simp] theorem setBox_ctrs (b : Box) (m : List Mail) : (setBox b m s).ctrs = s.ctrs := rfl
@[simp] theorem setBox_hostMem (b : Box) (m : List Mail) : (setBox b m s).hostMem = s.hostMem := rfl
@[simp] theorem setBox_cartMem (b : Box) (m : List Mail) : (setBox b m s).cartMem = s.cartMem := rfl
@[simp] theorem setBox_norMem (b : Box) (m : List Mail) : (setBox b m s).norMem = s.norMem := rfl
@[simp] theorem setBox_freeCtr (b : Box) (m : List Mail) : (setBox b m s).freeCtr = s.freeCtr := rfl
@[simp] theorem setBox_pending (b : Box) (m : List Mail) : (setBox b m s).pending = s.pending := rfl

@[simp] theorem setDoms_glb (d : List Nat) (on : Bool) : (setDoms d on s).glb = s.glb := rfl
@[simp] theorem setDoms_hq (d : List Nat) (on : Bool) : (setDoms d on s).hq = s.hq := rfl
@[simp] theorem setDoms_parts (d : List Nat) (on : Bool) : (setDoms d on s).parts = s.parts := rfl
@[simp] theorem setDoms_cart (d : List Nat) (on : Bool) : (setDoms d on s).cart = s.cart := rfl
@[simp] theorem setDoms_stk (d : List Nat) (on : Bool) : (setDoms d on s).stk = s.stk := rfl
@[simp] theorem setDoms_cmp (d : List Nat) (on : Bool) : (setDoms d on s).cmp = s.cmp := rfl
@[simp] theorem setDoms_cip (d : List Nat) (on : Bool) : (setDoms d on s).cip = s.cip := rfl
@[simp] theorem setDoms_wrv (d : List Nat) (on : Bool) : (setDoms d on s).wrv = s.wrv := rfl
@[simp] theorem setDoms_rch (d : List Nat) (on : Bool) : (setDoms d on s).rch = s.rch := rfl
@[simp] theorem setDoms_srv (d : List Nat) (on : Bool) : (setDoms d on s).srv = s.srv := rfl
@[simp] theorem setDoms_brd (d : List Nat) (on : Bool) : (setDoms d on s).brd = s.brd := rfl
@[simp] theorem setDoms_shd (d : List Nat) (on : Bool) : (setDoms d on s).shd = s.shd := rfl
@[simp] theorem setDoms_yrd (d : List Nat) (on : Bool) : (setDoms d on s).yrd = s.yrd := rfl
@[simp] theorem setDoms_fab (d : List Nat) (on : Bool) : (setDoms d on s).fab = s.fab := rfl
@[simp] theorem setDoms_boxes (d : List Nat) (on : Bool) : (setDoms d on s).boxes = s.boxes := rfl
@[simp] theorem setDoms_cfg (d : List Nat) (on : Bool) : (setDoms d on s).cfg = s.cfg := rfl
@[simp] theorem setDoms_ctrs (d : List Nat) (on : Bool) : (setDoms d on s).ctrs = s.ctrs := rfl
@[simp] theorem setDoms_hostMem (d : List Nat) (on : Bool) : (setDoms d on s).hostMem = s.hostMem := rfl
@[simp] theorem setDoms_cartMem (d : List Nat) (on : Bool) : (setDoms d on s).cartMem = s.cartMem := rfl
@[simp] theorem setDoms_norMem (d : List Nat) (on : Bool) : (setDoms d on s).norMem = s.norMem := rfl
@[simp] theorem setDoms_freeCtr (d : List Nat) (on : Bool) : (setDoms d on s).freeCtr = s.freeCtr := rfl
@[simp] theorem setDoms_pending (d : List Nat) (on : Bool) : (setDoms d on s).pending = s.pending := rfl

end Sys2Proof.Machine
end

