-- ==== Sys2Proof/Laws/Ops.lean ====
section
/-!
SUPPORT. What the shared operations do, as later proofs use it: rings, mailboxes, command and write tables, partitions, counters.
-/

namespace Sys2Proof.Machine

/-! ## Rings -/

theorem ringKey_inj {p q : Port} {m n : Nat} (hm : m ≤ 32) (hn : n ≤ 32) (h : ringKey p m = ringKey q n) : p = q ∧ m = n := by
  unfold ringKey at h
  cases p <;> cases q <;> simp only [portIdx] at h <;> first | exact ⟨rfl, by omega⟩ | omega

@[simp] theorem ringAt_setRing_self (p : Port) (n : Nat) (x : Ring) (s : State) : ringAt (setRing p n x s) p n = x := by
  simp [ringAt]

theorem ringAt_setRing_other {p q : Port} {m n : Nat} (x : Ring) (s : State) (hm : m ≤ 32) (hn : n ≤ 32) (h : (q, m) ≠ (p, n)) :
    ringAt (setRing p n x s) q m = ringAt s q m := by
  simp only [ringAt, setRing_hq]
  refine AMap.getD_set_of_ne _ _ _ fun e => h ?_
  obtain ⟨rfl, rfl⟩ := ringKey_inj hn hm e
  rfl

/-! ## Mailboxes (R13 to R15) -/

theorem boxOf_setBox (b c : Box) (ms : List Mail) (s : State) : boxOf (setBox b ms s) c = if c = b then ms else boxOf s c := by
  cases b <;> cases c <;> rfl

@[simp] theorem boxOf_setBox_self (b : Box) (ms : List Mail) (s : State) : boxOf (setBox b ms s) b = ms := by
  rw [boxOf_setBox, if_pos rfl]

theorem setBox_boxOf (b : Box) (s : State) : setBox b (boxOf s b) s = s := by cases b <;> rfl

theorem hasSlots_congr {b : Box} {s t : State} (h : boxOf t b = boxOf s b) (src n : Nat) : hasSlots b src n t = hasSlots b src n s := by
  unfold hasSlots slotsUsed
  rw [h]

theorem hasSlots_mgt (src n : Nat) (s : State) : hasSlots .mgt src n s = decide (s.boxes.mgt.length + n ≤ 1024) := by
  simp [hasSlots, slotOwners, boxOf, boxSize, boxReserved]

/-- A post of a source that has a slot is the last entry of the mailbox (R13). -/
theorem post_of_slots {b : Box} {src : Nat} {s : State} (h : hasSlots b src 1 s = true) (code arg : Nat) :
    post b src code arg s = setBox b (boxOf s b ++ [mail src code arg s]) s := by
  by_cases hb : b = .mgt
  · subst hb
    have k : ¬(1024 ≤ s.boxes.mgt.length) := fun c => by
      rw [hasSlots_mgt] at h
      have := of_decide_eq_true h
      omega
    unfold post pushMgt pushBox
    rw [if_pos rfl, if_neg (by exact k)]
  · have k : slotFree b src s = true := by
      unfold hasSlots at h
      unfold slotFree
      revert h
      cases slotOwners b src with
      | some x => exact fun h => decide_eq_true (Nat.lt_of_succ_le (of_decide_eq_true h))
      | none => exact fun h => decide_eq_true (Nat.lt_of_succ_le (of_decide_eq_true h))
    unfold post pushBox
    rw [if_neg hb, if_pos k]

/-- A management event enters MB_MGT while it has a slot (R13, R425). -/
theorem postEvent_of_slots {src : Nat} {s : State} (h : hasSlots .mgt src 1 s = true) (block ev : Nat) (prio : Bool) (arg : Nat) :
    postEvent src block ev prio arg s
      = setBox .mgt (s.boxes.mgt ++ [mail src (b2n prio * 0x8000 + block * 256 + ev) arg s]) s := post_of_slots h _ arg

theorem hasSlots_fewer {b : Box} {src m n : Nat} {s : State} (k : m ≤ n) (h : hasSlots b src n s = true) : hasSlots b src m s = true := by
  unfold hasSlots at h ⊢
  revert h
  cases slotOwners b src with
  | some x => exact fun h => decide_eq_true (le_trans (Nat.add_le_add_left k _) (of_decide_eq_true h))
  | none => exact fun h => decide_eq_true (le_trans (Nat.add_le_add_left k _) (of_decide_eq_true h))

/-- A post leaves a source the slots beyond its own. -/
theorem hasSlots_post {b : Box} {src n : Nat} {s : State} (h : hasSlots b src (n + 1) s = true) (hn : hasSlots b src 1 s = true)
    (code arg : Nat) : hasSlots b src n (post b src code arg s) = true := by
  rw [post_of_slots hn]
  unfold hasSlots slotsUsed at h ⊢
  rw [boxOf_setBox_self]
  revert h
  cases e : slotOwners b src with
  | some x =>
    refine fun h => decide_eq_true ?_
    have := of_decide_eq_true h
    have k : ((boxOf s b ++ [mail src code arg s]).filter fun m => x.1.contains m.src).length
        ≤ ((boxOf s b).filter fun m => x.1.contains m.src).length + 1 := by
      rw [List.filter_append, List.length_append]
      exact Nat.add_le_add_left (List.length_filter_le _ _) _
    dsimp only at *
    omega
  | none =>
    refine fun h => decide_eq_true ?_
    have := of_decide_eq_true h
    have k : ((boxOf s b ++ [mail src code arg s]).filter fun m => (slotOwners b m.src).isNone).length
        ≤ ((boxOf s b).filter fun m => (slotOwners b m.src).isNone).length + 1 := by
      rw [List.filter_append, List.length_append]
      exact Nat.add_le_add_left (List.length_filter_le _ _) _
    dsimp only at *
    omega

/-- What a reader does with an event that it takes. -/
theorem Takes.act {b : Box} {src code arg : Nat} {s u : State} (h : Takes b src code arg s u) (act : State → State) :
    boxTake b src code arg act s = act u := by
  cases h with
  | head m h e =>
    unfold boxTake
    have k : (boxOf s b).any (sameMail src code arg) = true := by
      rw [List.any_eq_true]
      refine ⟨m, ?_, e⟩
      unfold boxHead at h
      cases hf : (boxOf s b).find? isPriority with
      | some x => rw [hf] at h; cases h; exact List.mem_of_find?_eq_some hf
      | none => rw [hf] at h; exact List.mem_of_mem_head? h
    dsimp only
    rw [if_pos k, h, if_pos (by simpa using e)]
  | direct h =>
    unfold boxTake
    dsimp only
    rw [h, if_neg (by simp), if_neg, if_pos (.inl rfl)]
    rintro ⟨e, k⟩
    unfold slotFree at k
    rw [e, h] at k
    exact absurd k (by cases b <;> simp [boxSize, boxReserved])

/-! ## Command table -/

theorem find_modFirst {α : Type} (p : α → Bool) (f : α → α) (hf : ∀ x, p (f x) = p x) (xs : List α) :
    (modFirst p f xs).find? p = (xs.find? p).map f := by
  induction xs with
  | nil => rfl
  | cons x xs ih =>
    unfold modFirst
    cases h : p x with
    | true => simp [h, hf x]
    | false => simp [h, ih]

theorem findCmd_updCmd (q : Nat) (f : Cmd → Cmd) (hf : ∀ c, (f c).seq = c.seq) (s : State) :
    findCmd (updCmd q f s) q = (findCmd s q).map f := by
  simp only [findCmd, updCmd_hq]
  exact find_modFirst _ _ (fun c => by simp [hf c]) _

@[simp] theorem countKey_hq (st : Nat) (s : State) : (countKey st s).hq = s.hq := by
  unfold countKey
  repeat' split
  all_goals rfl

/-- A command that completes is COMPLETING, with the status and the result (R64). -/
theorem findCmd_complete {s : State} {q : Nat} {c : Cmd} (h : findCmd s q = some c) (st r : Nat) :
    findCmd (complete q st r s) q = some { c with st := .completing, status := st, result := r } := by
  have k := findCmd_updCmd q (fun c => { c with st := .completing, status := st, result := r }) (fun _ => rfl) s
  simp only [findCmd, complete, countKey_hq] at k h ⊢
  rw [k, h]
  rfl

theorem findWrite_updWrite (q : Nat) (f : Write → Write) (hf : ∀ w, (f w).seq = w.seq) (s : State) :
    findWrite (updWrite q f s) q = (findWrite s q).map f := by
  simp only [findWrite, updWrite_hq]
  exact find_modFirst _ _ (fun c => by simp [hf c]) _

/-! ## Partitions -/

@[simp] theorem partAt_updPart_self (p : Nat) (f : Part → Part) (s : State) : partAt (updPart p f s) p = f (partAt s p) := by
  simp [partAt]

theorem partAt_updPart_other {p q : Nat} (f : Part → Part) (s : State) (h : q ≠ p) : partAt (updPart p f s) q = partAt s q := by
  simp only [partAt, updPart_parts]
  exact AMap.getD_set_of_ne _ _ _ (Ne.symm h)

end Sys2Proof.Machine
end

