-- ==== Sys2Proof/Laws/Queue.lean ====
section
/-!
SUPPORT. The command tables: which commands stand in them after a write ends or a command completes, and what else of the host
queue those operations leave alone.
-/

namespace Sys2Proof.Machine

/-- What names a command in its table. -/
def Cmd.key (c : Cmd) : Port × Nat × Nat := (c.port, c.ring, c.seq)

/-- The same commands stand in the tables, and rings and ports are as they were. -/
structure QKeep (s t : State) : Prop where
  cmds : t.hq.cmds.map Cmd.key = s.hq.cmds.map Cmd.key
  rings : t.hq.rings = s.hq.rings
  portA : t.hq.portA = s.hq.portA
  portB : t.hq.portB = s.hq.portB

theorem QKeep.refl (s : State) : QKeep s s := ⟨rfl, rfl, rfl, rfl⟩

theorem QKeep.trans {s u t : State} (h : QKeep s u) (k : QKeep u t) : QKeep s t :=
  ⟨k.cmds.trans h.cmds, k.rings.trans h.rings, k.portA.trans h.portA, k.portB.trans h.portB⟩

theorem QKeep.of_hq {s t : State} (h : t.hq = s.hq) : QKeep s t := by constructor <;> rw [h]

theorem QKeep.of_frame {m : Nat} {s t : State} (h : Frame m s t) (b : m.testBit 1 = false) : QKeep s t := .of_hq (h.same .hq b)

theorem QKeep.each {α : Type} (g : α → State → State) (k : ∀ x v, QKeep v (g x v)) (xs : List α) (s : State) : QKeep s (each g xs s) := by
  induction xs generalizing s with
  | nil => exact .refl s
  | cons x xs ih => exact (k x s).trans (ih _)

theorem map_modFirst {α β : Type} (g : α → β) (p : α → Bool) (f : α → α) (hf : ∀ x, g (f x) = g x) (xs : List α) :
    (modFirst p f xs).map g = xs.map g := by
  induction xs with
  | nil => rfl
  | cons x xs ih => unfold modFirst; split <;> simp [hf, ih]

theorem updCmd_keep (q : Nat) (f : Cmd → Cmd) (hf : ∀ c, (f c).key = c.key) (s : State) : QKeep s (updCmd q f s) :=
  ⟨map_modFirst _ _ _ hf _, rfl, rfl, rfl⟩

theorem updWrite_keep (q : Nat) (f : Write → Write) (s : State) : QKeep s (updWrite q f s) := ⟨rfl, rfl, rfl, rfl⟩

theorem complete_keep (q st r : Nat) (s : State) : QKeep s (complete q st r s) :=
  (updCmd_keep q (fun c => { c with st := .completing, status := st, result := r }) (fun _ => rfl) s).trans (.of_hq (countKey_hq _ _))

theorem endCmd_keep (q st r : Nat) (b : Bool) (s : State) : QKeep s (endCmd q st b r s) :=
  (updCmd_keep q (fun c => { c with st := .completing, status := st, cascade := b, result := r }) (fun _ => rfl) s).trans
    (.of_hq (countKey_hq _ _))

/-- Unpinning the Stalls of Gate locks leaves the host queue alone. -/
theorem unpins_hq (xs : List Gate) (u : State) :
    (each (fun (g : Gate) s => each (fun (c : Handle) s => unpin c.1 s) g.pins s) xs u).hq = u.hq :=
  (Frame.each (m := 0x10) xs (.refl _ u) (fun g v =>
    Frame.each (α := Handle) g.pins (.refl _ v) (fun c v => unpin_frame c.1 v))).same .hq rfl

theorem gives_hq (r : Nat) (xs : List Handle) (u : State) : (each (giveBack r) xs u).hq = u.hq :=
  (Frame.each (m := 0x24010) xs (.refl _ u) (fun h v => giveBack_frame r h v)).same .hq rfl

theorem unlock_keep (p : Gate → Bool) (s : State) : QKeep s (unlock p s) := by
  unfold unlock
  have h := unpins_hq (s.hq.gates.filter p) { s with hq := { s.hq with gates := s.hq.gates.filter fun g => !p g } }
  exact QKeep.trans (u := { s with hq := { s.hq with gates := s.hq.gates.filter fun g => !p g } }) ⟨rfl, rfl, rfl, rfl⟩ (.of_hq h)

/-- What retiring an entry does to the Stalls that it holds leaves the host queue alone. -/
theorem retired_hq (w : Write) (s : State) :
    (if w.placed then dropGranules w.recStall w.granule (granulesFor w.recs.length) (each (giveBack 0x08) w.chain s)
      else each (giveBack 0x08) w.chain s).hq = s.hq := by
  split
  · exact ((dropGranules_frame w.recStall w.granule (granulesFor w.recs.length) _).same .hq rfl).trans (gives_hq 0x08 w.chain s)
  · exact gives_hq 0x08 w.chain s

theorem retire_keep (q : Nat) (s : State) : QKeep s (retire q s) := by
  unfold retire
  split
  · exact .refl s
  · next w _ => exact (QKeep.of_hq (retired_hq w s)).trans ⟨rfl, rfl, rfl, rfl⟩

theorem forgets_hq (q : Nat) (s : State) : (forgetHeld q (forgetCopied q s)).hq = s.hq := rfl

theorem rollback_keep (w : Write) (s : State) : QKeep s (rollback w s) := by
  unfold rollback
  refine (((((QKeep.of_frame (unpinKey_frame w.seq s) (by decide)).trans (.of_frame (dropPackets_frame w _) (by decide))).trans
    (retire_keep w.seq _))).trans (.of_hq (forgets_hq w.seq _))).trans ⟨?_, rfl, rfl, rfl⟩
  simp only [setCmds, updPart, List.map_map]
  refine List.map_congr_left fun c _ => ?_
  simp only [Function.comp]
  split <;> rfl

theorem cascade_keep (p q first st : Nat) (s : State) : QKeep s (cascade p q first st s) :=
  ((QKeep.each _ (fun x v => (rollback_keep x v).trans (endCmd_keep ..)) _ _).trans (QKeep.each _ (fun q v => endCmd_keep ..) _ _)).trans
    (.of_frame (refreshMarks_frame ..) (by decide))

theorem endWrite_keep (q st : Nat) (s : State) : QKeep s (endWrite q st s) := by
  unfold endWrite
  split
  · exact .refl s
  · split
    · exact .refl s
    · exact ((rollback_keep _ s).trans (endCmd_keep ..)).trans (cascade_keep ..)

theorem endWriteCmd_keep (c : Cmd) (st : Nat) (s : State) : QKeep s (endWriteCmd c st s) := by
  unfold endWriteCmd
  split
  · exact endWrite_keep ..
  · split
    · exact (endCmd_keep ..).trans (cascade_keep ..)
    · exact .refl s

/-- The rings and the keys of the commands that remain once some leave without completion. -/
theorem dropCmds_keep (pick : Cmd → Bool) (s : State) : QKeep (setCmds (s.hq.cmds.filter fun c => !pick c) s) (dropCmds pick s) := by
  unfold dropCmds
  refine ((QKeep.each (α := Cmd) _ (fun c v => ?_) _ _).trans (unlock_keep _ _)).trans ⟨rfl, rfl, rfl, rfl⟩
  split
  · exact endWriteCmd_keep ..
  · exact .of_frame (unpinKey_frame ..) (by decide)

/-- No command that a test on keys picks remains. -/
theorem dropCmds_gone (k : Port × Nat × Nat → Bool) (s : State) :
    ∀ c ∈ (dropCmds (fun c => k c.key) s).hq.cmds, k c.key = false := by
  intro c hc
  have h := (dropCmds_keep (fun c => k c.key) s).cmds
  have : c.key ∈ (dropCmds (fun c => k c.key) s).hq.cmds.map Cmd.key := List.mem_map_of_mem hc
  rw [h] at this
  simp only [setCmds, List.mem_map, List.mem_filter] at this
  obtain ⟨d, ⟨-, hd⟩, e⟩ := this
  rw [← e]
  simpa using hd

theorem QKeep.ringAt {s t : State} (h : QKeep s t) (p : Port) (n : Nat) : ringAt t p n = ringAt s p n := by
  unfold Machine.ringAt
  rw [h.rings]

theorem QKeep.portOf {s t : State} (h : QKeep s t) (p : Port) : portOf t p = portOf s p := by
  cases p
  · exact h.portA
  · exact h.portB

/-- A command found in the table has the number it was found by. -/
theorem findCmd_seq {s : State} {q : Nat} {c : Cmd} (h : findCmd s q = some c) : c.seq = q := by
  have := List.find?_some h
  simpa using this

theorem findWrite_seq {s : State} {q : Nat} {w : Write} (h : findWrite s q = some w) : w.seq = q := by
  have := List.find?_some h
  simpa using this

theorem find_modFirst_other {α : Type} (p q : α → Bool) (f : α → α) (hf : ∀ x, p x = true → q x = false ∧ q (f x) = false) (xs : List α) :
    (modFirst p f xs).find? q = xs.find? q := by
  induction xs with
  | nil => rfl
  | cons x xs ih =>
    unfold modFirst
    cases h : p x with
    | true => simp [hf x h]
    | false => simp only [Bool.false_eq_true, if_false, List.find?_cons, ih]

theorem findCmd_updCmd_other {q r : Nat} (n : r ≠ q) (f : Cmd → Cmd) (hf : ∀ c, (f c).seq = c.seq) (s : State) :
    findCmd (updCmd q f s) r = findCmd s r := by
  simp only [findCmd, updCmd_hq]
  refine find_modFirst_other _ _ _ (fun x hx => ?_) _
  have e : x.seq = q := by simpa using hx
  simp [hf x, e, Ne.symm n]

theorem findCmd_complete_other {q r : Nat} (n : r ≠ q) (st v : Nat) (s : State) : findCmd (complete q st v s) r = findCmd s r := by
  have k := findCmd_updCmd_other n (fun c => { c with st := .completing, status := st, result := v }) (fun _ => rfl) s
  simp only [findCmd, complete, countKey_hq] at k ⊢
  exact k

theorem findCmd_of_hq {s t : State} (h : t.hq = s.hq) (q : Nat) : findCmd t q = findCmd s q := by simp only [findCmd, h]

theorem findCmd_of_frame {m : Nat} {s t : State} (h : Frame m s t) (b : m.testBit 1 = false) (q : Nat) : findCmd t q = findCmd s q :=
  findCmd_of_hq (h.same .hq b) q

theorem unlock_cmds (p : Gate → Bool) (s : State) : (unlock p s).hq.cmds = s.hq.cmds := by
  unfold unlock
  rw [unpins_hq]

/-- The state a command completes in (R64). -/
theorem Ended.complete {s : State} {q : Nat} {c : Cmd} (h : findCmd s q = some c) (st r : Nat) : Ended (complete q st r s) q st r :=
  ⟨_, findCmd_complete h st r, rfl, rfl, rfl⟩

theorem due_find {s : State} {q op : Nat} {c : Cmd} (h : due s q op = some c) : findCmd s q = some c := by
  unfold due at h
  split at h
  · cases h
  · split at h <;> simp_all

theorem due_st {s : State} {q op : Nat} {c : Cmd} (h : due s q op = some c) : c.st = .fetched := by
  unfold due at h
  split at h
  · cases h
  · obtain ⟨k, e⟩ := Option.ite_none_right_eq_some.mp h
    cases e
    exact k.1

theorem due_op {s : State} {q op : Nat} {c : Cmd} (h : due s q op = some c) : c.e.opcode = op := by
  unfold due at h
  split at h
  · cases h
  · obtain ⟨k, e⟩ := Option.ite_none_right_eq_some.mp h
    cases e
    exact k.2.1

theorem runningCmd_find {s : State} {q op : Nat} {c : Cmd} (h : runningCmd s q op = some c) : findCmd s q = some c := by
  unfold runningCmd at h
  split at h
  · cases h
  · split at h <;> simp_all

theorem unlock_find (p : Gate → Bool) (s : State) (q : Nat) : findCmd (unlock p s) q = findCmd s q := by
  simp only [findCmd, unlock_cmds]

@[simp] theorem le_length (n v : Nat) : (le n v).length = n := by
  induction n generalizing v with
  | zero => rfl
  | succ n ih => simp [le, ih]

@[simp] theorem zeros_length (n : Nat) : (zeros n).length = n := by simp [zeros]

@[simp] theorem be_length (n v : Nat) : (be n v).length = n := by simp [be]

/-- Reading back a number written least significant byte first. -/
theorem leVal_le (n v : Nat) : leVal (le n v) = v % 256 ^ n := by
  induction n generalizing v with
  | zero => simp [le, leVal, Nat.mod_one]
  | succ n ih =>
    show (BitVec.ofNat 8 v).toNat + 256 * leVal (le n (v / 256)) = v % 256 ^ (n + 1)
    have h : v % 256 ^ (n + 1) = v % 256 + 256 * (v / 256 % 256 ^ n) := by rw [Nat.pow_succ']; exact Nat.mod_mul
    rw [ih, h, BitVec.toNat_ofNat]

/-- Reading back a number written most significant byte first. -/
theorem beVal_be (n v : Nat) : beVal (be n v) = v % 256 ^ n := by simp [beVal, be, leVal_le]

/-- A field of a byte string that is written out. -/
theorem beAt_append (a b : Bytes) (n v : Nat) : beAt (a ++ (be n v ++ b)) a.length n = v % 256 ^ n := by
  simp [beAt, slice, beVal_be]

/-- A completion entry is 32 bytes (R43). -/
theorem completionBytes_length (c : Cmd) (d : Option DeferErr) (more early phase : Bool) :
    (completionBytes c d more early phase).length = 32 := by
  unfold completionBytes
  cases d <;> simp

/-! ## Engines and packets -/

@[simp] theorem engineAt_setEngine_self (e : Nat) (x : Engine) (s : State) : engineAt (setEngine e x s) e = x := by
  simp [engineAt, setEngine]

theorem engineAt_setEngine_other {d e : Nat} (x : Engine) (s : State) (h : d ≠ e) : engineAt (setEngine e x s) d = engineAt s d := by
  simp only [engineAt, setEngine]
  exact AMap.getD_set_of_ne _ _ _ (Ne.symm h)

theorem engineAt_of_cmp {s t : State} (h : t.cmp = s.cmp) (e : Nat) : engineAt t e = engineAt s e := by simp only [engineAt, h]

theorem findWrite_of_hq {s t : State} (h : t.hq = s.hq) (q : Nat) : findWrite t q = findWrite s q := by simp only [findWrite, h]

/-- A packet of a write in the Buffer Record Index changes. -/
theorem findWrite_updPkt {s : State} {q : Nat} {w : Write} (h : findWrite s q = some w) (i : Nat) (f : Pkt → Pkt) :
    findWrite (updWrite q (fun w => w.updPkt i f) s) q = some (w.updPkt i f) := by
  rw [findWrite_updWrite q (fun w => w.updPkt i f) (fun _ => rfl), h]
  rfl

/-! ## Gate locks and host memory -/

theorem unlock_hq (p : Gate → Bool) (s : State) : (unlock p s).hq = { s.hq with gates := s.hq.gates.filter fun g => !p g } := by
  unfold unlock
  rw [unpins_hq]

@[simp] theorem unlock_gates (p : Gate → Bool) (s : State) : (unlock p s).hq.gates = s.hq.gates.filter fun g => !p g := by
  unfold unlock
  rw [unpins_hq]

/-- A lock on a copy whose Stalls are all still held (R62). -/
theorem lockFor_hq (q r : Nat) (w : Write) (s : State) (h : w.chain.all (pinTaken s) = true) :
    (lockFor q r w s).hq = { s.hq with gates := s.hq.gates ++ [⟨q, w.seq, w.part, r, 1, w.chain⟩] } := by
  have e : w.chain.filter (pinTaken s) = w.chain := List.filter_eq_self.mpr (List.all_eq_true.mp h)
  unfold lockFor
  dsimp only
  rw [e, if_pos rfl]
  exact (Frame.each (m := 0x10) (α := Handle) w.chain (.refl _ _) (fun c v => pin_frame c.1 c.2 v)).same .hq rfl

/-- A lock, with the pins that are not refused (R62, R87). -/
theorem lockFor_lock (q r : Nat) (w : Write) (s : State) : (lockFor q r w s).hq.gates
      = s.hq.gates ++ [⟨q, w.seq, w.part, r, 1, w.chain.filter (pinTaken s)⟩] ∧ (lockFor q r w s).hq.writes = s.hq.writes := by
  have k := fun (xs : List Handle) (u : State) =>
    (Frame.each (m := 0x10) (α := Handle) xs (.refl _ u) (fun c v => pin_frame c.1 c.2 v)).same .hq rfl
  unfold lockFor
  dsimp only
  split
  · rw [k]; exact ⟨rfl, rfl⟩
  · rw [updCmd_hq, k]; exact ⟨rfl, rfl⟩

/-- A reader whose copy has lost a Stall takes the copy as gone (R87). -/
theorem lockFor_find {q : Nat} {c : Cmd} {s : State} (h : findCmd s q = some c) (r : Nat) (w : Write) :
    findCmd (lockFor q r w s) q = some { c with gone := if w.chain.all (pinTaken s) then c.gone else w.seq :: c.gone } := by
  have k := fun (xs : List Handle) (u : State) =>
    (Frame.each (m := 0x10) (α := Handle) xs (.refl _ u) (fun c v => pin_frame c.1 c.2 v)).same .hq rfl
  have e : ((w.chain.filter (pinTaken s)).length = w.chain.length) = (w.chain.all (pinTaken s) = true) := by
    rw [List.length_filter_eq_length_iff, List.all_eq_true]
  unfold lockFor
  dsimp only
  simp only [e]
  split
  · rw [findCmd_of_hq (k _ _)]
    exact h
  · rw [findCmd_updCmd q (fun c => { c with gone := w.seq :: c.gone }) (fun _ => rfl), findCmd_of_hq (k _ _)]
    exact (congrArg (Option.map _) h :)

theorem setSt_find {s : State} {q : Nat} {c : Cmd} (h : findCmd s q = some c) (st : CmdSt) :
    findCmd (setSt q st s) q = some { c with st := st } := by
  unfold setSt
  rw [findCmd_updCmd q (fun c => { c with st := st }) (fun _ => rfl), h]
  rfl

/-- A read that stops: its status, what it delivered as result, its locks gone (R48, R62). -/
theorem stopRead_find {s : State} {q : Nat} {c : Cmd} (h : findCmd s q = some c) (st : Nat) :
    findCmd (stopRead q st s) q = some { c with hold := none, st := .completing, status := st,
                                                result := c.delivered % 2 ^ 40 + c.entries % 2 ^ 24 * 2 ^ 40 }
      ∧ (stopRead q st s).hq.gates = s.hq.gates.filter fun g => g.seq != q := by
  unfold stopRead
  rw [h]
  dsimp only
  have k : findCmd (updCmd q (fun c => { c with hold := none }) s) q = some { c with hold := none } := by
    rw [findCmd_updCmd q (fun c => { c with hold := none }) (fun _ => rfl), h]; rfl
  refine ⟨findCmd_complete ((unlock_find _ _ _).trans k) _ _, ?_⟩
  have e : ∀ (st r : Nat) (u : State), (complete q st r u).hq.gates = u.hq.gates := fun st r u => by unfold complete; rw [countKey_hq]; rfl
  rw [e, unlock_gates]
  rfl

/-- A read that stops touches host memory no more. -/
theorem stopRead_hostMem (q st : Nat) (s : State) : (stopRead q st s).hostMem = s.hostMem := (stopRead_frame q st s).same .hostMem (by decide)

/-! ## Commands as writes end (R64, R68) -/

/-- The same command at the same point of its life: its number, entry, state, status, result and completion flags. -/
structure CmdLike (c d : Cmd) : Prop where
  key : d.key = c.key
  e : d.e = c.e
  st : d.st = c.st
  status : d.status = c.status
  result : d.result = c.result
  caught : d.caught = c.caught
  cascade : d.cascade = c.cascade

theorem CmdLike.refl (c : Cmd) : CmdLike c c := ⟨rfl, rfl, rfl, rfl, rfl, rfl, rfl⟩

theorem CmdLike.trans {a b c : Cmd} (h : CmdLike a b) (k : CmdLike b c) : CmdLike a c :=
  ⟨k.key.trans h.key, k.e.trans h.e, k.st.trans h.st, k.status.trans h.status, k.result.trans h.result, k.caught.trans h.caught,
    k.cascade.trans h.cascade⟩

/-- A command that is found before an operation is found after it, like before. -/
def Finds (q : Nat) (s t : State) : Prop := ∀ c, findCmd s q = some c → ∃ d, findCmd t q = some d ∧ CmdLike c d

theorem Finds.refl (q : Nat) (s : State) : Finds q s s := fun c h => ⟨c, h, .refl c⟩

theorem Finds.trans {q : Nat} {s u t : State} (h : Finds q s u) (k : Finds q u t) : Finds q s t := fun c hc => by
  obtain ⟨d, hd, l⟩ := h c hc
  obtain ⟨e, he, m⟩ := k d hd
  exact ⟨e, he, l.trans m⟩

/-- One more operation, found from the last state backwards. -/
theorem Finds.step {q : Nat} {s u t : State} (k : Finds q u t) (h : Finds q s u) : Finds q s t := h.trans k

theorem Finds.of_hq {q : Nat} {s t : State} (h : t.hq = s.hq) : Finds q s t := fun c hc => ⟨c, (findCmd_of_hq h q).trans hc, .refl c⟩

theorem Finds.of_cmds {q : Nat} {s t : State} (h : t.hq.cmds = s.hq.cmds) : Finds q s t := fun c hc =>
  ⟨c, by simp only [findCmd, h] at hc ⊢; exact hc, .refl c⟩

theorem Finds.each {α : Type} (q : Nat) (g : α → State → State) (xs : List α) (s : State) (k : ∀ x ∈ xs, ∀ v, Finds q v (g x v)) :
    Finds q s (each g xs s) := by
  induction xs generalizing s with
  | nil => exact .refl q s
  | cons x xs ih =>
    exact (k x (List.mem_cons_self ..) s).trans (ih _ fun y hy => k y (List.mem_cons_of_mem _ hy))

theorem find_map {α : Type} (f : α → α) (p : α → Bool) (h : ∀ x, p (f x) = p x) (l : List α) : (l.map f).find? p = (l.find? p).map f := by
  induction l with
  | nil => rfl
  | cons x xs ih => rw [List.map_cons, List.find?_cons, List.find?_cons, h]; cases p x <;> simp [ih]

theorem retire_cmds (q : Nat) (s : State) : (retire q s).hq.cmds = s.hq.cmds := by
  unfold retire
  split
  · rfl
  · next w _ => exact (congrArg Hq.cmds (retired_hq w s) :)

theorem rollback_finds (q : Nat) (w : Write) (s : State) : Finds q s (rollback w s) := by
  intro c hc
  unfold rollback
  dsimp only
  have k : (forgetHeld w.seq (forgetCopied w.seq (retire w.seq (dropPackets w (unpinKey w.seq s))))).hq.cmds = s.hq.cmds := by
    rw [forgets_hq, retire_cmds, (dropPackets_frame w _).same .hq rfl, (unpinKey_frame w.seq s).same .hq rfl]
  simp only [findCmd, setCmds, updPart_hq, k] at hc ⊢
  rw [find_map _ _ (fun x => by split <;> rfl), hc]
  refine ⟨_, rfl, ?_⟩
  dsimp only
  split <;> exact ⟨rfl, rfl, rfl, rfl, rfl, rfl, rfl⟩

theorem endCmd_finds {q r : Nat} (n : q ≠ r) (st v : Nat) (b : Bool) (s : State) : Finds q s (endCmd r st b v s) := by
  intro c hc
  refine ⟨c, ?_, .refl c⟩
  have k := findCmd_updCmd_other n (fun c => { c with st := .completing, status := st, cascade := b, result := v }) (fun _ => rfl) s
  simp only [findCmd, endCmd, countKey_hq] at k hc ⊢
  rw [k, hc]

theorem endCmd_find {s : State} {q : Nat} {c : Cmd} (h : findCmd s q = some c) (st v : Nat) (b : Bool) :
    findCmd (endCmd q st b v s) q = some { c with st := .completing, status := st, cascade := b, result := v } := by
  have k := findCmd_updCmd q (fun c => { c with st := .completing, status := st, cascade := b, result := v }) (fun _ => rfl) s
  simp only [findCmd, endCmd, countKey_hq] at k h ⊢
  rw [k, h]
  rfl

/-- Ending the later commands of a partition's writes leaves the command itself and earlier ones alone (R68). -/
theorem cascade_finds {q r : Nat} (n : q ≤ r) (p first st : Nat) (s : State) : Finds q s (cascade p r first st s) := by
  refine ((Finds.each q _ _ _ fun x hx v => (rollback_finds q x v).trans (endCmd_finds ?_ _ _ _ _)).trans
    (Finds.each q _ _ _ fun x hx v => endCmd_finds ?_ _ _ _ _)).trans (.of_hq ((refreshMarks_frame p _).same .hq rfl))
  · have := (List.mem_filter.mp hx).2
    simp only [Bool.and_eq_true, decide_eq_true_eq] at this
    omega
  · obtain ⟨y, hy, rfl⟩ := List.mem_map.mp hx
    have := (List.mem_filter.mp hy).2
    simp only [Bool.and_eq_true, decide_eq_true_eq] at this
    omega

/-- The command of a write that ends without being Taken completes with the status it ends with (R64, R65). -/
theorem endWrite_find {s : State} {q : Nat} {c : Cmd} {w : Write} (hc : findCmd s q = some c) (hw : findWrite s q = some w)
    (ht : w.taken = false) (st : Nat) :
    ∃ d, findCmd (endWrite q st s) q = some d ∧ d.st = .completing ∧ d.status = st ∧ d.result = 0 ∧ d.cascade = false
      ∧ d.caught = c.caught ∧ d.e = c.e := by
  unfold endWrite
  rw [hw]
  dsimp only
  rw [if_neg (by simp [ht])]
  obtain ⟨d, hd, l⟩ := rollback_finds q w s c hc
  have e := endCmd_find hd st 0 false
  obtain ⟨f, hf, m⟩ := cascade_finds (Nat.le_refl q) w.part w.first st _ _ e
  exact ⟨f, hf, m.st, m.status, m.result, m.cascade, m.caught.trans l.caught, m.e.trans l.e⟩

theorem endWrite_finds {q r : Nat} {s : State} (h : ∀ w, findWrite s r = some w → w.taken = false → q < r) (st : Nat) :
    Finds q s (endWrite r st s) := by
  unfold endWrite
  split
  · exact .refl q s
  · next w hw =>
    by_cases ht : w.taken = true
    · rw [if_pos ht]; exact .refl q s
    · rw [if_neg ht]
      have lt := h w hw (by simpa using ht)
      exact ((rollback_finds q w s).trans (endCmd_finds (by omega) _ _ _ _)).trans (cascade_finds (by omega) _ _ _ _)

/-- A write that ends completes with the status it ends with, its entry in the index or itself not yet checked (R64, R68). -/
theorem endWriteCmd_find {s : State} {c : Cmd} (hc : findCmd s c.seq = some c)
    (h : (∃ w, findWrite s c.seq = some w ∧ w.taken = false) ∨ findWrite s c.seq = none ∧ c.st = .fetched) (st : Nat) :
    ∃ d, findCmd (endWriteCmd c st s) c.seq = some d ∧ d.st = .completing ∧ d.status = st ∧ d.result = 0 ∧ d.cascade = false
      ∧ d.caught = c.caught ∧ d.e = c.e := by
  unfold endWriteCmd
  rcases h with ⟨w, hw, ht⟩ | ⟨hw, hs⟩
  · rw [if_pos (by rw [hw]; rfl)]
    exact endWrite_find hc hw ht st
  · rw [if_neg (by rw [hw]; exact Bool.false_ne_true), if_pos hs]
    obtain ⟨f, hf, m⟩ := cascade_finds (Nat.le_refl c.seq) c.e.partition c.e.position st _ _ (endCmd_find hc st 0 false)
    exact ⟨f, hf, m.st, m.status, m.result, m.cascade, m.caught, m.e⟩

theorem complete_finds {q r : Nat} (n : q ≠ r) (st v : Nat) (s : State) : Finds q s (complete r st v s) := fun c hc =>
  ⟨c, (findCmd_complete_other n st v s).trans hc, .refl c⟩

theorem unlock_finds (q : Nat) (p : Gate → Bool) (s : State) : Finds q s (unlock p s) := .of_cmds (unlock_cmds p s)

theorem runningCmd_st {s : State} {q op : Nat} {c : Cmd} (h : runningCmd s q op = some c) : c.st = .running ∧ c.e.opcode = op := by
  have hf := runningCmd_find h
  unfold runningCmd at h
  rw [hf] at h
  by_cases k : c.st = .running ∧ c.e.opcode = op
  · exact k
  · simp only [if_neg k] at h; cases h

theorem unlock_findWrite (p : Gate → Bool) (s : State) (q : Nat) : findWrite (unlock p s) q = findWrite s q := by
  simp only [findWrite, unlock_hq]

/-- Catching a command that is no write: it completes, and nothing else of the tables changes (R70). -/
theorem catchCmd_plain {c : Cmd} {s : State} (h : c.isWrite = false) :
    ∃ u, catchCmd c s = complete c.seq Status.abortedByHost 0 u ∧ u.hq.cmds = s.hq.cmds := by
  unfold catchCmd
  dsimp only
  rw [if_neg (by rw [h]; exact Bool.false_ne_true)]
  refine ⟨_, rfl, ?_⟩
  rw [(unpinKey_frame _ _).same .hq rfl]
  show (cancelLanding c.seq (dropActivation c.seq _)).hq.cmds = _
  rw [(cancelLanding_frame _ _).same .hq rfl, (dropActivation_frame _ _).same .hq rfl]
  exact unlock_cmds _ s

/-- Catching a write ends it (R65, R70). -/
theorem catchCmd_write {c : Cmd} {s : State} (h : c.isWrite = true) :
    catchCmd c s = endWriteCmd c Status.abortedByHost (unlock (fun g => g.seq == c.seq) s) := by
  unfold catchCmd
  dsimp only
  rw [if_pos h]

/-- A change to every command that leaves each one like before. -/
theorem Finds.map (q : Nat) (f : Cmd → Cmd) (h : ∀ x, CmdLike x (f x)) (s : State) : Finds q s (setCmds (s.hq.cmds.map f) s) := by
  intro c hc
  have k := find_map f (fun c => c.seq == q) (fun x => by
    have : (f x).seq = x.seq := congrArg (fun y => y.2.2) (h x).key
    rw [this]) s.hq.cmds
  refine ⟨f c, ?_, h c⟩
  simp only [findCmd, setCmds] at hc ⊢
  rw [k, hc]
  rfl

theorem moveEnd_finds (q p n k : Nat) (s : State) : Finds q s (moveEnd p n k s) := by
  unfold moveEnd
  dsimp only
  split
  · exact fun c hc =>
      Finds.map q (fun c => { c with covers := c.covers.map fun (o, e) => if o = p then (o, min e (n + k)) else (o, e) })
        (fun _ => ⟨rfl, rfl, rfl, rfl, rfl, rfl, rfl⟩) _ c hc
  · exact .of_cmds rfl

/-- Retiring an entry leaves the rest of the host queue as it was (R61). -/
theorem retire_hq (q : Nat) (s : State) : (retire q s).hq = { s.hq with writes := s.hq.writes.filter fun x => x.seq != q } := by
  unfold retire
  split
  · next h =>
    have : s.hq.writes.filter (fun x => x.seq != q) = s.hq.writes := by
      rw [List.filter_eq_self]
      intro x hx
      have := List.find?_eq_none.mp h x hx
      simpa using this
    rw [this]
  · next v _ =>
    dsimp only
    simp only [setWrites, retired_hq]

theorem retires_hq (xs : List Write) (s : State) :
    (each (fun (w : Write) s => retire w.seq s) xs s).hq = { s.hq with writes := s.hq.writes.filter fun x => xs.all fun w => x.seq != w.seq } := by
  induction xs generalizing s with
  | nil => simp [each]
  | cons w ws ih =>
    show (each (fun (w : Write) s => retire w.seq s) ws (retire w.seq s)).hq = _
    rw [ih, retire_hq]
    simp only [List.filter_filter, List.all_cons]
    congr 2
    funext x
    rw [Bool.and_comm]

theorem freeReturned_hq (s : State) : (freeReturned s).hq = s.hq := gives_hq ..

/-- No entry of the Buffer Record Index and no Gate lock remains (R51). -/
theorem retireAll_hq (s : State) : (retireAll s).hq = { s.hq with writes := [], gates := [] } := by
  unfold retireAll
  rw [freeReturned_hq, retires_hq, unlock_hq]
  have : s.hq.writes.filter (fun x => s.hq.writes.all fun w => x.seq != w.seq) = [] := by
    rw [List.filter_eq_nil_iff]
    intro x hx
    simp only [List.all_eq_true, not_forall]
    exact ⟨x, hx, by simp⟩
  have g : s.hq.gates.filter (fun g => !(fun _ => true) g) = [] := by simp
  simp only [this, g]

/-! ## Commands that wait as others end (R68, R71) -/

/-- What is left of a command c once operations may have ended it with a status: it has completed with that status, with result 0
unless by a cascade, or it waits as before, a write with its entry not Taken or not made yet. -/
def Going (c : Cmd) (st : Nat) (u : State) : Prop :=
  ∃ d, findCmd u c.seq = some d ∧ ((d.st = .completing ∧ d.status = st ∧ (d.cascade = false → d.result = 0)) ∨
    CmdLike c d ∧ (c.isWrite = true → (∃ w, findWrite u c.seq = some w ∧ w.taken = false) ∨ findWrite u c.seq = none ∧ c.st = .fetched))

theorem Going.keep {c : Cmd} {st : Nat} {u v : State} (h : Going c st u) (k : Finds c.seq u v)
    (w : findWrite v c.seq = findWrite u c.seq) : Going c st v := by
  obtain ⟨d, hd, x⟩ := h
  obtain ⟨e, he, l⟩ := k d hd
  refine ⟨e, he, x.imp (fun x => ⟨l.st.trans x.1, l.status.trans x.2.1, fun y => ?_⟩) fun x => ⟨x.1.trans l, fun y => ?_⟩⟩
  · rw [l.result]; exact x.2.2 (l.cascade.symm.trans y)
  · rw [w]; exact x.2 y

theorem countKey_writes (st : Nat) (s : State) : (countKey st s).hq.writes = s.hq.writes := by rw [countKey_hq]

theorem endCmd_writes (q st r : Nat) (b : Bool) (s : State) : (endCmd q st b r s).hq.writes = s.hq.writes := countKey_writes _ _

theorem complete_writes (q st r : Nat) (s : State) : (complete q st r s).hq.writes = s.hq.writes := countKey_writes _ _

theorem rollback_writes (w : Write) (s : State) : (rollback w s).hq.writes = s.hq.writes.filter fun x => x.seq != w.seq := by
  unfold rollback
  dsimp only
  have k : (dropPackets w (unpinKey w.seq s)).hq = s.hq :=
    ((dropPackets_frame w _).same .hq rfl).trans ((unpinKey_frame w.seq s).same .hq rfl)
  simp only [setCmds, updPart_hq, forgets_hq, retire_hq, k]

theorem rollback_findWrite {w : Write} {q : Nat} (h : w.seq ≠ q) (s : State) : findWrite (rollback w s) q = findWrite s q := by
  simp only [findWrite, rollback_writes, List.find?_filter]
  congr 1
  funext x
  by_cases e : x.seq = q
  · subst e; simp [Ne.symm h]
  · simp [e]

theorem Going.endCmd {c : Cmd} {st : Nat} {u : State} (h : Going c st u) (q r : Nat) : Going c st (endCmd q st true r u) := by
  by_cases e : c.seq = q
  · obtain ⟨d, hd, -⟩ := h
    subst e
    exact ⟨_, endCmd_find hd st r true, .inl ⟨rfl, rfl, fun x => by cases x⟩⟩
  · exact h.keep (endCmd_finds e st r true u) (by simp only [findWrite, endCmd_writes])

theorem Going.end_rollback {c : Cmd} {st : Nat} {u : State} (h : Going c st u) (w : Write) (r : Nat) :
    Going c st (Machine.endCmd w.seq st true r (rollback w u)) := by
  by_cases e : w.seq = c.seq
  · obtain ⟨d, hd, -⟩ := h
    obtain ⟨f, hf, -⟩ := rollback_finds c.seq w u d hd
    exact ⟨_, by rw [e]; exact endCmd_find hf st r true, .inl ⟨rfl, rfl, fun x => by cases x⟩⟩
  · exact (h.keep (rollback_finds _ _ _) (rollback_findWrite e u)).endCmd _ _

theorem Going.each {α : Type} {c : Cmd} {st : Nat} {g : α → State → State} (xs : List α) {u : State} (h : Going c st u)
    (k : ∀ x v, Going c st v → Going c st (g x v)) : Going c st (each g xs u) := by
  induction xs generalizing u with
  | nil => exact h
  | cons x xs ih => exact ih (k x u h)

theorem Going.of_hq {c : Cmd} {st : Nat} {u v : State} (h : Going c st u) (e : v.hq = u.hq) : Going c st v :=
  h.keep (.of_hq e) (findWrite_of_hq e _)

theorem Going.cascade {c : Cmd} {st : Nat} {u : State} (h : Going c st u) (p q first : Nat) : Going c st (cascade p q first st u) :=
  ((h.each _ fun x _ k => k.end_rollback x first).each _ fun q _ k => k.endCmd q first).of_hq ((refreshMarks_frame p _).same .hq rfl)

theorem Going.unlock {c : Cmd} {st : Nat} {u : State} (h : Going c st u) (p : Gate → Bool) : Going c st (unlock p u) :=
  h.keep (unlock_finds _ p u) (unlock_findWrite p u _)

/-- Another command ends with the same status. -/
theorem Going.other {c e : Cmd} {st : Nat} {u : State} (h : Going c st u) (n : e.seq ≠ c.seq) : Going c st (endWriteCmd e st u) := by
  have k : ∀ v, Going c st v → Going c st (Machine.endCmd e.seq st false 0 v) := fun v h =>
    h.keep (endCmd_finds (Ne.symm n) _ _ _ _) (by simp only [findWrite, endCmd_writes])
  unfold endWriteCmd endWrite
  split
  · split
    · exact h
    · next w hw =>
      split
      · exact h
      · exact (k _ (h.keep (rollback_finds _ _ _) (rollback_findWrite (by rw [findWrite_seq hw]; exact n) u))).cascade _ _ _
  · split
    · exact (k _ h).cascade _ _ _
    · exact h

/-- The command itself ends, if it has not ended before. -/
theorem Going.ends {c : Cmd} {st : Nat} {u : State} (h : Going c st u) (n : c.st ≠ .completing) (u' : State)
    (e : u' = if (findCmd u c.seq).any (fun d => d.st == .completing) then u
      else if c.isWrite then endWriteCmd c st u else complete c.seq st 0 u) :
    ∃ d, findCmd u' c.seq = some d ∧ d.st = .completing ∧ d.status = st ∧ (d.cascade = false → d.result = 0) := by
  subst e
  obtain ⟨d, hd, x⟩ := h
  rw [hd]
  by_cases k : d.st = .completing
  · rw [if_pos (by simp [k])]
    rcases x with x | x
    · exact ⟨d, hd, x⟩
    · exact absurd (x.1.st.symm.trans k) n
  · rw [if_neg (by simp [k])]
    rcases x with x | ⟨l, x⟩
    · exact absurd x.1 k
    · split
      · next hw =>
        have ks : d.seq = c.seq := congrArg (fun y => y.2.2) l.key
        have e : endWriteCmd c st u = endWriteCmd d st u := by unfold endWriteCmd; rw [ks, l.st, l.e]
        obtain ⟨f, hf, f1, f2, f3, -⟩ := endWriteCmd_find (c := d) (s := u) (by rw [ks]; exact hd)
          (by rw [ks, l.st]; exact x hw) st
        exact ⟨f, by rw [e, ← ks]; exact hf, f1, f2, fun _ => f3⟩
      · exact ⟨_, findCmd_complete hd st 0, rfl, rfl, fun _ => rfl⟩

/-- The command has completed with a status, with result 0 unless by a cascade. -/
def Done (c : Cmd) (st : Nat) (u : State) : Prop :=
  ∃ d, findCmd u c.seq = some d ∧ d.st = .completing ∧ d.status = st ∧ (d.cascade = false → d.result = 0)

theorem Going.abort {c e : Cmd} {u : State} (h : Going c Status.abortedByReset u) (n : e.seq ≠ c.seq) :
    Going c Status.abortedByReset (abortOne e u) := by
  have g := h.unlock fun x => x.seq == e.seq
  unfold abortOne
  dsimp only
  split
  · exact g
  · split
    · exact g.other n
    · exact g.keep (complete_finds (Ne.symm n) _ _ _) (by simp only [findWrite, complete_writes])

theorem Done.abort {c e : Cmd} {u : State} (h : Done c Status.abortedByReset u) : Done c Status.abortedByReset (abortOne e u) := by
  by_cases n : e.seq = c.seq
  · obtain ⟨d, hd, x⟩ := h
    obtain ⟨f, hf, l⟩ := unlock_finds c.seq (fun x => x.seq == e.seq) u d hd
    refine ⟨f, ?_, l.st.trans x.1, l.status.trans x.2.1, fun y => l.result.trans (x.2.2 (l.cascade.symm.trans y))⟩
    unfold abortOne
    dsimp only
    rw [n] at hf ⊢
    rw [if_pos (by rw [hf]; simp [l.st, x.1])]
    exact hf
  · obtain ⟨d, hd, x⟩ := h
    have ks := findCmd_seq hd
    have g : Going d Status.abortedByReset u := ⟨d, by rw [ks]; exact hd, .inl x⟩
    obtain ⟨f, hf, y⟩ := g.abort (e := e) (by rw [ks]; exact n)
    refine ⟨f, by rw [← ks]; exact hf, ?_⟩
    rcases y with y | ⟨l, -⟩
    · exact y
    · exact ⟨l.st.trans x.1, l.status.trans x.2.1, fun z => l.result.trans (x.2.2 (l.cascade.symm.trans z))⟩

/-- Every command with the number of c is like c, and no entry has that number. -/
structure Stays (c : Cmd) (u : State) : Prop where
  cmds : ∀ d ∈ u.hq.cmds, d.seq = c.seq → CmdLike c d
  mem : c.seq ∈ u.hq.cmds.map Cmd.seq
  writes : ∀ w ∈ u.hq.writes, w.seq ≠ c.seq

theorem Stays.find {c : Cmd} {u : State} (h : Stays c u) : ∃ d, findCmd u c.seq = some d ∧ CmdLike c d := by
  cases e : findCmd u c.seq with
  | none =>
    obtain ⟨d, hd, k⟩ := List.mem_map.mp h.mem
    exact absurd k (by simpa using List.find?_eq_none.mp e d hd)
  | some d => exact ⟨d, rfl, h.cmds d (List.mem_of_find?_eq_some e) (findCmd_seq e)⟩

theorem mem_modFirst {α : Type} {p : α → Bool} {f : α → α} {xs : List α} {y : α} (h : y ∈ modFirst p f xs) :
    y ∈ xs ∨ ∃ x ∈ xs, p x = true ∧ y = f x := by
  induction xs with
  | nil => exact .inl h
  | cons x xs ih =>
    unfold modFirst at h
    split at h
    · next k =>
      rcases List.mem_cons.mp h with h | h
      · exact .inr ⟨x, List.mem_cons_self .., k, h⟩
      · exact .inl (List.mem_cons_of_mem _ h)
    · rcases List.mem_cons.mp h with h | h
      · exact .inl (h ▸ List.mem_cons_self ..)
      · rcases ih h with h | ⟨z, hz, k⟩
        · exact .inl (List.mem_cons_of_mem _ h)
        · exact .inr ⟨z, List.mem_cons_of_mem _ hz, k⟩

theorem Stays.of_hq {c : Cmd} {u v : State} (h : Stays c u) (e : v.hq = u.hq) : Stays c v := by
  constructor <;> rw [e]
  exacts [h.cmds, h.mem, h.writes]

theorem Stays.updCmd {c : Cmd} {u : State} (h : Stays c u) {q : Nat} (n : q ≠ c.seq) (f : Cmd → Cmd) (hf : ∀ x, (f x).seq = x.seq) :
    Stays c (updCmd q f u) := by
  refine ⟨fun d hd e => ?_, ?_, h.writes⟩
  · rcases mem_modFirst hd with hd | ⟨x, -, k, rfl⟩
    · exact h.cmds d hd e
    · rw [hf] at e; exact absurd ((by simpa using k : x.seq = q).symm.trans e) n
  · show c.seq ∈ (modFirst _ f u.hq.cmds).map Cmd.seq
    rw [map_modFirst _ _ _ hf]; exact h.mem

theorem Stays.endCmd {c : Cmd} {u : State} (h : Stays c u) {q : Nat} (n : q ≠ c.seq) (st r : Nat) (b : Bool) :
    Stays c (endCmd q st b r u) := (h.updCmd n (fun c => { c with st := .completing, status := st, cascade := b, result := r }) fun _ => rfl).of_hq (countKey_hq _ _)

theorem Stays.rollback {c : Cmd} {u : State} (h : Stays c u) (w : Write) : Stays c (rollback w u) := by
  have k : (forgetHeld w.seq (forgetCopied w.seq (retire w.seq (dropPackets w (unpinKey w.seq u))))).hq.cmds = u.hq.cmds := by
    rw [forgets_hq, retire_cmds, (dropPackets_frame w _).same .hq rfl, (unpinKey_frame w.seq u).same .hq rfl]
  refine ⟨?_, ?_, ?_⟩
  · intro d hd e
    unfold Machine.rollback at hd
    simp only [setCmds, updPart_hq, k] at hd
    obtain ⟨x, hx, rfl⟩ := List.mem_map.mp hd
    have hs : x.seq = c.seq := by revert e; split <;> exact id
    refine (h.cmds x hx hs).trans ?_
    split <;> exact ⟨rfl, rfl, rfl, rfl, rfl, rfl, rfl⟩
  · unfold Machine.rollback
    simp only [setCmds, updPart_hq, k, List.map_map]
    have : (Cmd.seq ∘ fun c => if c.seq > w.seq ∧ c.e.partition = w.part then
      { c with endSeen := min c.endSeen w.first,
               covers := c.covers.map fun (p, e) => if p == w.part then (p, min e w.first) else (p, e) }
        else { c with covers := c.covers.map fun (p, e) => if p == w.part then (p, min e w.first) else (p, e) }) = Cmd.seq := by
      funext x; simp only [Function.comp]; split <;> rfl
    rw [this]
    exact h.mem
  · intro x hx
    rw [rollback_writes] at hx
    exact h.writes x (List.mem_filter.mp hx).1

theorem Stays.each {α : Type} {c : Cmd} {g : α → State → State} (xs : List α) {u : State} (h : Stays c u)
    (k : ∀ x ∈ xs, ∀ v, Stays c v → Stays c (g x v)) : Stays c (each g xs u) := by
  induction xs generalizing u with
  | nil => exact h
  | cons x xs ih => exact ih (k x (List.mem_cons_self ..) u h) fun y hy => k y (List.mem_cons_of_mem _ hy)

theorem Stays.cascade {c : Cmd} {u : State} (h : Stays c u) (nw : c.isWrite = false) (p q first st : Nat) :
    Stays c (cascade p q first st u) := by
  refine (((h.each _ fun x hx v k => (k.rollback x).endCmd (h.writes x (List.mem_filter.mp hx).1) _ _ _).each _ fun q hq v k =>
    k.endCmd ?_ _ _ _).of_hq ((refreshMarks_frame p _).same .hq rfl))
  rintro rfl
  obtain ⟨y, hy, e⟩ := List.mem_map.mp hq
  obtain ⟨hy, hp⟩ := List.mem_filter.mp hy
  have l := h.cmds y hy e
  have kr : y.ring = c.ring := congrArg (fun z => z.2.1) l.key
  simp only [Bool.and_eq_true, bne_iff_ne] at hp
  have : c.isWrite = true := by
    unfold Cmd.isWrite
    rw [← l.e, ← kr]
    simp [hp]
  rw [nw] at this
  cases this

/-- A command that is no write and does not end itself stays as it was when others end. -/
theorem Stays.other {c e : Cmd} {u : State} (h : Stays c u) (nw : c.isWrite = false) (n : e.seq ≠ c.seq) (st : Nat) :
    Stays c (endWriteCmd e st u) := by
  unfold endWriteCmd endWrite
  split
  · split
    · exact h
    · next w hw =>
      split
      · exact h
      · exact ((h.rollback w).endCmd n _ _ _).cascade nw _ _ _ _
  · split
    · exact (h.endCmd n _ _ _).cascade nw _ _ _ _
    · exact h

theorem Stays.unlock {c : Cmd} {u : State} (h : Stays c u) (p : Gate → Bool) : Stays c (unlock p u) := by
  have e := unlock_hq p u
  constructor <;> rw [e]
  exacts [h.cmds, h.mem, h.writes]

theorem Stays.complete {c : Cmd} {u : State} (h : Stays c u) {q : Nat} (n : q ≠ c.seq) (st r : Nat) : Stays c (complete q st r u) :=
  (h.updCmd n (fun c => { c with st := .completing, status := st, result := r }) fun _ => rfl).of_hq (countKey_hq _ _)

theorem Stays.abort {c e : Cmd} {u : State} (h : Stays c u) (nw : c.isWrite = false) (n : e.seq ≠ c.seq) : Stays c (abortOne e u) := by
  have g := h.unlock fun x => x.seq == e.seq
  unfold abortOne
  dsimp only
  split
  · exact g
  · split
    · exact g.other nw n _
    · exact g.complete n _ _

theorem abortWaiting_keep (p : Port) (n : Nat) (s : State) : QKeep s (abortWaiting p n s) := by
  refine QKeep.each _ (fun c v => ?_) _ s
  unfold abortOne
  refine (unlock_keep (fun g => g.seq == c.seq) v).trans ?_
  dsimp only
  split
  · exact .refl _
  · split
    · exact endWriteCmd_keep ..
    · exact complete_keep ..

/-- A queue reset ends a command of the ring that waits (R71). -/
theorem abortWaiting_ends {p : Port} {n : Nat} {c : Cmd} {s : State} (g : Going c Status.abortedByReset s) (hc : c ∈ s.hq.cmds)
    (uniq : ∀ d ∈ s.hq.cmds, d.seq = c.seq → d = c) (hp : c.port = p) (hn : c.ring = n)
    (hs : c.st = .fetched ∨ c.st = .admitted ∨ c.st = .gated) : Done c Status.abortedByReset (abortWaiting p n s) := by
  have nc : c.st ≠ .completing := by rcases hs with h | h | h <;> simp [h]
  have hm : c ∈ s.hq.cmds.filter fun c => c.port == p && c.ring == n && (c.st == .fetched || c.st == .admitted || c.st == .gated) := by
    refine List.mem_filter.mpr ⟨hc, ?_⟩
    rcases hs with h | h | h <;> simp [hp, hn, h]
  have hu : ∀ d ∈ s.hq.cmds.filter fun c => c.port == p && c.ring == n && (c.st == .fetched || c.st == .admitted || c.st == .gated),
      d.seq = c.seq → d = c := fun d hd => uniq d (List.mem_filter.mp hd).1
  unfold abortWaiting
  revert hm hu
  generalize s.hq.cmds.filter (fun c => c.port == p && c.ring == n && (c.st == .fetched || c.st == .admitted || c.st == .gated)) = xs
  clear hc uniq
  have tail : ∀ (xs : List Cmd) (u : State), Done c Status.abortedByReset u → Done c Status.abortedByReset (each abortOne xs u) := by
    intro xs
    induction xs with
    | nil => exact fun u h => h
    | cons x xs ih => exact fun u h => ih _ h.abort
  induction xs generalizing s with
  | nil => exact fun h => by cases h
  | cons e xs ih =>
    intro hm hu
    by_cases k : e.seq = c.seq
    · cases hu e (List.mem_cons_self ..) k
      exact tail xs _ ((g.unlock fun x => x.seq == c.seq).ends nc _ rfl)
    · rcases List.mem_cons.mp hm with rfl | hm
      · exact absurd rfl k
      · exact ih (g.abort k) hm fun d hd => hu d (List.mem_cons_of_mem _ hd)

/-- A queue reset leaves a command that is no write as it was, unless it waits in the ring (R71). -/
theorem abortWaiting_stays {p : Port} {n : Nat} {c : Cmd} {s : State} (h : Stays c s) (nw : c.isWrite = false)
    (nh : ∀ d ∈ s.hq.cmds, d.seq = c.seq → ¬(d.port = p ∧ d.ring = n ∧ (d.st = .fetched ∨ d.st = .admitted ∨ d.st = .gated))) :
    Stays c (abortWaiting p n s) := by
  unfold abortWaiting
  refine h.each _ fun x hx v k => k.abort nw fun e => ?_
  obtain ⟨hm, hp⟩ := List.mem_filter.mp hx
  refine nh x hm e ?_
  simp only [Bool.and_eq_true, beq_iff_eq, Bool.or_eq_true] at hp
  exact ⟨hp.1.1, hp.1.2, by rcases hp.2 with (h | h) | h <;> simp [h]⟩

end Sys2Proof.Machine
end

