-- ==== Sys2Proof/Laws/Admit.lean ====
section
/-!
SUPPORT. What the shared admission of a write does (02).
-/

namespace Sys2Proof.Machine

set_option linter.all false

/-- A loaded slot has a root key for its own generation, before and after a switch (R131, R132). -/
theorem boundRoot_of_loaded {s : State} {slot gen : Nat} (hl : (slotAt s slot).loaded = true) (hg : (slotAt s slot).gen = gen) (seq : Nat) :
    ∃ root, boundRoot s slot gen seq = some root := by
  unfold boundRoot
  dsimp only
  split
  · split
    · exact ⟨_, rfl⟩
    · exact ⟨_, if_pos ⟨hl, hg⟩⟩
  · exact ⟨_, if_pos ⟨hl, hg⟩⟩

/-- Admission of a write (R54, R99, R131): the accepted end moves, an earlier end supersedes, the entry and its command are there. -/
theorem admitWrite_admits (s : State) (q : Nat) (c : Cmd) :
    ∀ (cc : Cmd) (mk : Bool → Write), cc.e = c.e → cc.seq = q → findCmd s q = some c → findWrite s q = none → (∀ b, (mk b).seq = q) →
      (∀ b, (mk b).bound = false → (mk b).keySlot = c.e.keySlot ∧ (mk b).part = c.e.partition ∧ (mk b).hostLabel = c.e.hostLabel ∧ (mk b).gen = genOf s c.e
        ∧ (slotAt s c.e.keySlot).loaded = true
        ∧ keyRefused s c.e.keySlot (labelOf s c.e.partition (genOf s c.e) c.e.hostLabel) (mk b).pkts.length = false) →
      partAt (admitWrite cc mk s) c.e.partition = (if decide (c.e.position < (partAt s c.e.partition).acceptedEnd) = true then { partAt s c.e.partition with
            acceptedEnd := c.e.position + c.e.count, takenMark := min (partAt s c.e.partition).takenMark c.e.position, shelteredMark := min (partAt s c.e.partition).shelteredMark c.e.position,
            laidMark := min (partAt s c.e.partition).laidMark c.e.position, safeMark := min (partAt s c.e.partition).safeMark c.e.position }
          else { partAt s c.e.partition with acceptedEnd := c.e.position + c.e.count })
      ∧ (∀ o, o ≠ c.e.partition → partAt (admitWrite cc mk s) o = partAt s o)
      ∧ (∃ d, findCmd (admitWrite cc mk s) q = some d ∧ (d.st = .running ∨ d.st = .admitted) ∧ d.e = c.e)
      ∧ (∀ r, r ≠ q → findWrite (admitWrite cc mk s) r = (findWrite s r).map (if decide (c.e.position < (partAt s c.e.partition).acceptedEnd) = true then supersede c.e.partition c.e.position else id))
      ∧ (∃ v, findWrite (admitWrite cc mk s) q = some v ∧ v.part = (mk (decide (c.e.position < (partAt s c.e.partition).acceptedEnd))).part ∧ v.first = (mk (decide (c.e.position < (partAt s c.e.partition).acceptedEnd))).first
          ∧ v.kind = (mk (decide (c.e.position < (partAt s c.e.partition).acceptedEnd))).kind ∧ v.truncating = (mk (decide (c.e.position < (partAt s c.e.partition).acceptedEnd))).truncating ∧ v.taken = (mk (decide (c.e.position < (partAt s c.e.partition).acceptedEnd))).taken
          ∧ v.recs = (mk (decide (c.e.position < (partAt s c.e.partition).acceptedEnd))).recs ∧ v.pkts = (mk (decide (c.e.position < (partAt s c.e.partition).acceptedEnd))).pkts ∧ v.gen = (mk (decide (c.e.position < (partAt s c.e.partition).acceptedEnd))).gen) := by
  have begin_ : ∀ (u : State) (w : Write) (d : Cmd), findWrite u q = some w → findCmd u q = some d →
      (w.bound = false → (slotAt u w.keySlot).loaded = true ∧ (slotAt u w.keySlot).gen = w.gen
        ∧ keyRefused u w.keySlot (labelOf u w.part w.gen w.hostLabel) w.pkts.length = false) →
      (beginWrite q u).parts = u.parts
      ∧ (∃ v, findWrite (beginWrite q u) q = some v ∧ v.part = w.part ∧ v.first = w.first ∧ v.kind = w.kind ∧ v.truncating = w.truncating ∧ v.taken = w.taken ∧ v.recs = w.recs ∧ v.pkts = w.pkts ∧ v.gen = w.gen)
      ∧ (∀ r, r ≠ q → findWrite (beginWrite q u) r = findWrite u r)
      ∧ (∃ e, findCmd (beginWrite q u) q = some e ∧ (e.st = .running ∨ e.st = .admitted) ∧ e.e = d.e) := by
    intro u w d hw hd hk
    have oth : ∀ (f : Write → Write) (v : State) (r : Nat), (∀ w, (f w).seq = w.seq) → r ≠ q → findWrite (updWrite q f v) r = findWrite v r := by
      intro f v r hf hr
      simp only [findWrite, updWrite_hq]
      refine find_modFirst_other _ _ _ (fun x hx => ?_) _
      have e : x.seq = q := by simpa using hx
      simp [hf x, e, Ne.symm hr]
    have wait : ∀ (u : State) (d : Cmd) (w : Write), findWrite u q = some w → findCmd u q = some d → (setSt q .admitted u).parts = u.parts
      ∧ (∃ v, findWrite (setSt q .admitted u) q = some v ∧ v.part = w.part ∧ v.first = w.first ∧ v.kind = w.kind ∧ v.truncating = w.truncating ∧ v.taken = w.taken ∧ v.recs = w.recs ∧ v.pkts = w.pkts ∧ v.gen = w.gen)
      ∧ (∀ r, r ≠ q → findWrite (setSt q .admitted u) r = findWrite u r)
      ∧ (∃ e, findCmd (setSt q .admitted u) q = some e ∧ (e.st = .running ∨ e.st = .admitted) ∧ e.e = d.e) := fun u d w hw hd =>
      ⟨rfl, ⟨w, hw, rfl, rfl, rfl, rfl, rfl, rfl, rfl, rfl⟩, fun _ _ => rfl, ⟨_, setSt_find hd _, .inr rfl, rfl⟩⟩
    have place : ∀ (u : State) (d : Cmd) (w : Write) (n : Nat), findWrite u q = some w → findCmd u q = some d →
      (placeTable q n u).parts = u.parts
      ∧ (∃ v, findWrite (placeTable q n u) q = some v ∧ v.part = w.part ∧ v.first = w.first ∧ v.kind = w.kind ∧ v.truncating = w.truncating ∧ v.taken = w.taken ∧ v.recs = w.recs ∧ v.pkts = w.pkts ∧ v.gen = w.gen)
      ∧ (∀ r, r ≠ q → findWrite (placeTable q n u) r = findWrite u r)
      ∧ (∃ e, findCmd (placeTable q n u) q = some e ∧ (e.st = .running ∨ e.st = .admitted) ∧ e.e = d.e) := by
      intro u d w n hw hd
      unfold placeTable
      split
      · next s1 hg =>
        have fr := takeGranules_frame_eq _ _ hg
        have hq1 : s1.hq = u.hq := fr.same .hq rfl
        obtain ⟨w1, w2, w3, w4⟩ := wait s1 d w ((findWrite_of_hq hq1 q).trans hw) ((findCmd_of_hq hq1 q).trans hd)
        exact ⟨w1.trans (fr.same .parts rfl), w2, fun r hr => (w3 r hr).trans (findWrite_of_hq hq1 r), w4⟩
      · next st g s1 hg =>
        have fr := takeGranules_frame_eq _ _ hg
        have hq1 : s1.hq = u.hq := fr.same .hq rfl
        have hw1 : findWrite s1 q = some w := (findWrite_of_hq hq1 q).trans hw
        have hd1 : findCmd s1 q = some d := (findCmd_of_hq hq1 q).trans hd
        refine ⟨fr.same .parts rfl, ⟨{ w with recStall := st, granule := g, placed := true }, ?_, rfl, rfl, rfl, rfl, rfl, rfl, rfl, rfl⟩, ?_,
          ⟨_, setSt_find (s := updWrite q (fun w => { w with recStall := st, granule := g, placed := true }) s1) hd1 _, .inl rfl, rfl⟩⟩
        · show findWrite (updWrite q (fun w => { w with recStall := st, granule := g, placed := true }) s1) q = _
          rw [findWrite_updWrite q (fun w => { w with recStall := st, granule := g, placed := true }) (fun _ => rfl), hw1]; rfl
        · intro r hr
          exact (oth (fun w => { w with recStall := st, granule := g, placed := true }) s1 r (fun _ => rfl) hr).trans (findWrite_of_hq hq1 r)
    unfold beginWrite
    rw [hw]
    dsimp only
    by_cases hb : w.bound = true
    · rw [if_pos hb]
      exact place u d w _ hw hd
    · rw [if_neg hb]
      obtain ⟨hl, hg0, kr⟩ := hk (by simpa using hb)
      obtain ⟨root, br⟩ := boundRoot_of_loaded hl hg0 q
      rw [br]
      dsimp only
      generalize labelOf u w.part w.gen w.hostLabel = label at *
      have kb : bindKey w.keySlot w.gen root label q w.pkts.length u = .wait ∨ ∃ a k v, bindKey w.keySlot w.gen root label q w.pkts.length u = .bound a k v := by
        unfold keyRefused at kr
        dsimp only at kr
        rw [hg0] at kr
        simp only [Bool.or_eq_false_iff, Bool.not_eq_false'] at kr
        obtain ⟨⟨k1, k2⟩, k3⟩ := kr
        unfold bindKey
        rw [if_neg (by rw [k1, k2]; simp)]
        revert k3
        cases cacheFind u w.keySlot w.gen label with
        | some e =>
          intro k3
          dsimp only at k3 ⊢
          by_cases e0 : e.issue = 0
          · rw [if_pos e0]; exact .inr ⟨_, _, _, rfl⟩
          · rw [if_neg e0, if_neg (fun c => by
              have : (e.issue != 0) = true := by simpa using e0
              rw [this, decide_eq_true c] at k3
              cases k3)]
            exact .inr ⟨_, _, _, rfl⟩
        | none =>
          intro _
          dsimp only
          cases cacheRoom u with
          | none => exact .inl rfl
          | some v => exact .inr ⟨_, _, _, rfl⟩
      rcases kb with kb | ⟨a, k, v, kb⟩
      · rw [kb]; exact wait u d w hw hd
      · rw [kb]
        dsimp only
        have fb := bindKey_frame_bound _ _ _ _ _ _ _ kb
        have hq2 : v.hq = u.hq := fb.same .hq rfl
        have hw2 : findWrite v q = some w := (findWrite_of_hq hq2 q).trans hw
        have hd2 : findCmd v q = some d := (findCmd_of_hq hq2 q).trans hd
        have hw3 : findWrite (updCmd q (fun c => { c with gen := w.gen, result := a }) (updWrite q (fun w => { w with counter := a, key := k, bound := true }) v)) q
            = some { w with counter := a, key := k, bound := true } := by
          show findWrite (updWrite q (fun w => { w with counter := a, key := k, bound := true }) v) q = _
          rw [findWrite_updWrite q (fun w => { w with counter := a, key := k, bound := true }) (fun _ => rfl), hw2]; rfl
        have hd3 : findCmd (updCmd q (fun c => { c with gen := w.gen, result := a }) (updWrite q (fun w => { w with counter := a, key := k, bound := true }) v)) q
            = some { d with gen := w.gen, result := a } := by
          rw [findCmd_updCmd q (fun c => { c with gen := w.gen, result := a }) (fun _ => rfl)]
          rw [show findCmd (updWrite q (fun w => { w with counter := a, key := k, bound := true }) v) q = some d from hd2]; rfl
        obtain ⟨p1, p2, p3, p4⟩ := place _ _ _ w.recs.length hw3 hd3
        exact ⟨p1.trans (fb.same .parts rfl), p2, fun r hr => (p3 r hr).trans ((oth (fun w => { w with counter := a, key := k, bound := true }) v r (fun _ => rfl) hr).trans
          (findWrite_of_hq hq2 r)), p4⟩
  have move : ∀ (u : State), u.hq = s.hq → u.parts = s.parts → u.cip = s.cip → ∀ n,
      partAt (moveEnd c.e.partition c.e.position n u) c.e.partition = (if decide (c.e.position < (partAt s c.e.partition).acceptedEnd) = true then { partAt s c.e.partition with
            acceptedEnd := c.e.position + n, takenMark := min (partAt s c.e.partition).takenMark c.e.position, shelteredMark := min (partAt s c.e.partition).shelteredMark c.e.position,
            laidMark := min (partAt s c.e.partition).laidMark c.e.position, safeMark := min (partAt s c.e.partition).safeMark c.e.position }
          else { partAt s c.e.partition with acceptedEnd := c.e.position + n })
      ∧ (∀ o, o ≠ c.e.partition → partAt (moveEnd c.e.partition c.e.position n u) o = partAt s o)
      ∧ (moveEnd c.e.partition c.e.position n u).hq.writes = (if decide (c.e.position < (partAt s c.e.partition).acceptedEnd) = true then s.hq.writes.map (supersede c.e.partition c.e.position) else s.hq.writes)
      ∧ (∀ d, findCmd s q = some d → ∃ e, findCmd (moveEnd c.e.partition c.e.position n u) q = some e ∧ e.e = d.e)
      ∧ (moveEnd c.e.partition c.e.position n u).cip = s.cip := by
    intro u h1 h2 h3 n
    have pa : partAt u = partAt s := by funext o; unfold partAt; rw [h2]
    have sc : ∀ xs v o, partAt (setCmds xs v) o = partAt v o := fun _ _ _ => rfl
    have sw : ∀ xs v o, partAt (setWrites xs v) o = partAt v o := fun _ _ _ => rfl
    unfold moveEnd
    dsimp only
    rw [pa]
    by_cases hlt : c.e.position < (partAt s c.e.partition).acceptedEnd
    · rw [if_pos hlt, if_pos (by simpa using hlt), if_pos (by simpa using hlt)]
      refine ⟨?_, fun o ho => ?_, ?_, fun d hd => ?_, h3⟩
      · rw [sc, partAt_updPart_self, sw, pa]
      · rw [sc, partAt_updPart_other _ _ ho, sw, pa]
      · show u.hq.writes.map _ = _; rw [h1]
      · have : (s.hq.cmds.find? fun x => x.seq == q) = some d := hd
        have fm : ∀ (f : Cmd → Cmd) (l : List Cmd), (∀ x, (f x).seq = x.seq) → l.find? (fun x => x.seq == q) = some d → (l.map f).find? (fun x => x.seq == q) = some (f d) := by
          intro f l hf
          induction l with
          | nil => intro h; cases h
          | cons x xs ih =>
            intro h
            rw [List.find?_cons] at h
            rw [List.map_cons, List.find?_cons, hf]
            cases hx : x.seq == q with
            | true => simp only [hx] at h ⊢; cases h; rfl
            | false => simp only [hx] at h ⊢; exact ih h
        exact ⟨_, fm _ _ (fun _ => rfl) (by show u.hq.cmds.find? _ = _; rw [h1]; exact this), rfl⟩
    · rw [if_neg hlt, if_neg (by simpa using hlt), if_neg (by simpa using hlt)]
      refine ⟨?_, fun o ho => ?_, ?_, fun d hd => ⟨d, ?_, rfl⟩, h3⟩
      · rw [partAt_updPart_self, pa]
      · rw [partAt_updPart_other _ _ ho, pa]
      · show u.hq.writes = _; rw [h1]
      · rw [show findCmd (updPart c.e.partition (fun x => { x with acceptedEnd := c.e.position + n }) u) q = findCmd u q from rfl, findCmd_of_hq h1]; exact hd
  have fmap : ∀ (f : Write → Write) (l : List Write) (r : Nat), (∀ x, (f x).seq = x.seq) → (l.map f).find? (fun x => x.seq == r) = (l.find? (fun x => x.seq == r)).map f := by
    intro f l r hf
    induction l with
    | nil => rfl
    | cons x xs ih =>
      rw [List.map_cons, List.find?_cons, List.find?_cons, hf]
      cases x.seq == r <;> simp [ih]
  have ssq : ∀ (a b : Nat) (x : Write), (supersede a b x).seq = x.seq := by intro a b x; unfold supersede; split <;> rfl
  intro cc mk e1 e2 hc hnw hseq hkey
  unfold admitWrite
  rw [e1, e2]
  dsimp only
  generalize hs0 : (if (partRing s c.e.partition).isSome = true then s else assignRing c.e.partition s) = s0
  have k0 : s0.hq = s.hq ∧ s0.parts = s.parts ∧ s0.cip = s.cip := by
    rw [← hs0]
    split
    · exact ⟨rfl, rfl, rfl⟩
    · exact ⟨(assignRing_frame _ s).same .hq rfl, (assignRing_frame _ s).same .parts rfl, (assignRing_frame _ s).same .cip rfl⟩
  have pa0 : partAt s0 c.e.partition = partAt s c.e.partition := by unfold partAt; rw [k0.2.1]
  obtain ⟨m1, m2, m3, m4, m5⟩ := move s0 k0.1 k0.2.1 k0.2.2 c.e.count
  generalize moveEnd c.e.partition c.e.position c.e.count s0 = s1 at *
  generalize htr : decide (c.e.position < (partAt s c.e.partition).acceptedEnd) = tr at *
  obtain ⟨d, hd, hde⟩ := m4 c hc
  have fw : ∀ r, findWrite (indexWrite (mk tr) s1) r = ((s1.hq.writes.find? fun w => w.seq == r).or (if (mk tr).seq == r then some (mk tr) else none)) := by
    intro r
    show (s1.hq.writes ++ [mk tr]).find? _ = _
    rw [List.find?_append]
    congr 1
    simp only [List.find?_cons, List.find?_nil]
    cases (mk tr).seq == r <;> rfl
  have f1 : ∀ r, (s1.hq.writes.find? fun w => w.seq == r) = (findWrite s r).map (if tr = true then supersede c.e.partition c.e.position else id) := by
    intro r
    rw [m3]
    cases tr
    · simp [findWrite]
    · exact fmap _ _ _ (ssq _ _)
  have fq : findWrite (indexWrite (mk tr) s1) q = some (mk tr) := by
    rw [fw, f1, hnw]; simp [hseq]
  have cip : (indexWrite (mk tr) s1).cip = s.cip := m5
  have sl : ∀ n, slotAt (indexWrite (mk tr) s1) n = slotAt s n := fun n => by unfold slotAt; rw [cip]
  have lab : keyRefused (indexWrite (mk tr) s1) = keyRefused s := by
    unfold keyRefused keyRetired issueLeft cacheFind slotAt
    rw [cip]
  have lb : ∀ g, labelOf (indexWrite (mk tr) s1) c.e.partition g c.e.hostLabel = labelOf s c.e.partition g c.e.hostLabel := by
    intro g
    unfold labelOf
    rw [show partAt (indexWrite (mk tr) s1) c.e.partition = partAt s1 c.e.partition from rfl, m1]
    cases tr <;> rfl
  obtain ⟨b1, b2, b3, e, b4, b5, b6⟩ := begin_ (indexWrite (mk tr) s1) (mk tr) d fq hd (fun km => by
    obtain ⟨x1, x2, x3, x4, x5, x6⟩ := hkey tr km
    rw [x1, x2, x3, x4, lab, lb, sl]; exact ⟨x5, rfl, x6⟩)
  have pb : ∀ o, partAt (beginWrite q (indexWrite (mk tr) s1)) o = partAt s1 o := by
    intro o; unfold partAt; rw [b1]; rfl
  refine ⟨by rw [pb]; exact m1, fun o ho => by rw [pb]; exact m2 o ho, ⟨e, b4, b5, b6.trans hde⟩, fun r hr => ?_, b2⟩
  rw [b3 r hr, fw, f1]
  rw [hseq tr]
  cases (findWrite s r) <;> simp [Ne.symm hr]

end Sys2Proof.Machine
end

