-- ==== Sys2Proof/Laws/FrameMgt.lean ====
section
/-!
SUPPORT. What each operation leaves alone: management and register accesses. The number of a frame has one bit for each part of the state
that the operation may write (`Fld.idx`).
-/

namespace Sys2Proof.Machine

set_option linter.all false

theorem updMgt_frame (f : Mgt → Mgt) (s : State) : Frame 0x8000 s (updMgt f s) := by
  unfold updMgt
  try dsimp only
  repeat' first
      | (with_reducible assumption) | (with_reducible exact Frame.refl _ _) | (split) | (dsimp only)
      | ((with_reducible apply Frame.set_mgt); rotate_left; rfl)

theorem execFwActivate_frame (seq : Nat) (s : State) : FrameOut 0x38002 s (execFwActivate seq s) := by
  unfold execFwActivate
  try dsimp only
  repeat' first
      | (with_reducible refine FrameOut.go ?_) | (with_reducible assumption) | (with_reducible exact Frame.refl _ _)
      | (apply Frame.andThen; rotate_left; (with_reducible apply addCtr_frame); rfl)
      | (apply Frame.andThen; rotate_left; (with_reducible apply setSt_frame); rfl)
      | (apply Frame.andThen; rotate_left; (with_reducible apply updMgt_frame); rfl)
      | (apply Frame.andThen; rotate_left; (with_reducible apply complete_frame); rfl)
      | (apply Frame.andThen; rotate_left; (with_reducible apply checkFailed_frame); rfl) | ((with_reducible apply Frame.getD) <;> intros)
      | (split) | (dsimp only)

theorem activationFails_frame (a : Activation) (s : State) : Frame 0x28002 s (activationFails a s) := by
  unfold activationFails
  try dsimp only
  repeat' first
      | (with_reducible assumption) | (with_reducible exact Frame.refl _ _)
      | (apply Frame.andThen; rotate_left; (with_reducible apply updMgt_frame); rfl)
      | (apply Frame.andThen; rotate_left; (with_reducible apply complete_frame); rfl) | (split) | (dsimp only)

theorem execActivationNightReady_frame (ok : Bool) (s : State) : FrameOut 0x3e3b6 s (execActivationNightReady ok s) := by
  unfold execActivationNightReady
  try dsimp only
  repeat' first
      | (with_reducible refine FrameOut.go ?_) | (with_reducible assumption) | (with_reducible exact Frame.refl _ _)
      | (apply Frame.andThen; rotate_left; (with_reducible apply updMgt_frame); rfl)
      | (apply Frame.andThen; rotate_left; (with_reducible apply complete_frame); rfl)
      | (apply Frame.andThen; rotate_left; (with_reducible apply commitSet_frame) <;> assumption; rfl)
      | (apply Frame.andThen; rotate_left; (with_reducible apply activationFails_frame); rfl) | (split) | (dsimp only)

theorem execActivationHoldExpiry_frame (seq : Nat) (s : State) : FrameOut 0x20002 s (execActivationHoldExpiry seq s) := by
  unfold execActivationHoldExpiry
  try dsimp only
  repeat' first
      | (with_reducible refine FrameOut.go ?_) | (with_reducible assumption) | (with_reducible exact Frame.refl _ _)
      | (apply Frame.andThen; rotate_left; (with_reducible apply complete_frame); rfl) | (split) | (dsimp only)

theorem execNightHeartbeatTimeout_frame (s : State) : FrameOut 0x28002 s (execNightHeartbeatTimeout s) := by
  unfold execNightHeartbeatTimeout
  try dsimp only
  repeat' first
      | (with_reducible refine FrameOut.go ?_) | (with_reducible assumption) | (with_reducible exact Frame.refl _ _)
      | (apply Frame.andThen; rotate_left; (with_reducible apply updMgt_frame); rfl)
      | (apply Frame.andThen; rotate_left; (with_reducible apply activationFails_frame); rfl) | (split) | (dsimp only)

theorem execNightCoreReady_frame (s : State) : FrameOut 0x8000 s (execNightCoreReady s) := by
  unfold execNightCoreReady
  try dsimp only
  repeat' first
      | (with_reducible refine FrameOut.go ?_) | (with_reducible assumption) | (with_reducible exact Frame.refl _ _)
      | (apply Frame.andThen; rotate_left; (with_reducible apply updMgt_frame); rfl) | (split) | (dsimp only)

theorem scheduleTakeover_frame (s : State) : Frame 0x3e3b6 s (scheduleTakeover s) := by
  unfold scheduleTakeover
  try dsimp only
  repeat' first
      | (with_reducible assumption) | (with_reducible exact Frame.refl _ _)
      | (apply Frame.andThen; rotate_left; (with_reducible apply updCfg_frame); rfl)
      | (apply Frame.andThen; rotate_left; (with_reducible apply commitSet_frame) <;> assumption; rfl) | (split) | (dsimp only)

theorem execDayHeartbeatTimeout_frame (s : State) : FrameOut 0x3e3b6 s (execDayHeartbeatTimeout s) := by
  unfold execDayHeartbeatTimeout
  try dsimp only
  repeat' first
      | (with_reducible refine FrameOut.go ?_) | (with_reducible assumption) | (with_reducible exact Frame.refl _ _)
      | (apply Frame.andThen; rotate_left; (with_reducible apply abandonActivation_frame); rfl)
      | (apply Frame.andThen; rotate_left; (with_reducible apply updMgt_frame); rfl)
      | (apply Frame.andThen; rotate_left; (with_reducible apply scheduleTakeover_frame); rfl) | (split) | (dsimp only)

theorem execBothHeartbeatsTimeout_frame (s : State) : FrameOut 0x38282 s (execBothHeartbeatsTimeout s) := by
  unfold execBothHeartbeatsTimeout
  try dsimp only
  repeat' first
      | (with_reducible refine FrameOut.go ?_) | (with_reducible assumption) | (with_reducible exact Frame.refl _ _)
      | (apply Frame.andThen; rotate_left; (with_reducible apply abandonActivation_frame); rfl)
      | (apply Frame.andThen; rotate_left; (with_reducible apply updMgt_frame); rfl)
      | (apply Frame.andThen; rotate_left; (with_reducible apply cancelSched_frame); rfl)
      | (apply Frame.andThen; rotate_left; (with_reducible apply endExecuting_frame); rfl)
      | (apply Frame.andThen; rotate_left; (with_reducible apply updCfg_frame); rfl)
      | (apply Frame.andThen; rotate_left; (with_reducible apply updWrv_frame); rfl)
      | (with_reducible refine Frame.each _ ?_ (fun _ _ => ?_)) | (split) | (dsimp only)

theorem logEntry_frame (us : Nat) (m : Mail) (s : State) : Frame 0x28002 s (logEntry us m s) := by
  unfold logEntry
  try dsimp only
  repeat' first
      | (with_reducible assumption) | (with_reducible exact Frame.refl _ _)
      | (apply Frame.andThen; rotate_left; (with_reducible apply raiseLog_frame); rfl)
      | (apply Frame.andThen; rotate_left; (with_reducible apply updMgt_frame); rfl)
      | (apply Frame.andThen; rotate_left; (with_reducible apply inc_frame); rfl) | (split) | (dsimp only)

theorem execMgtEventConsume_frame (us : Nat) (s : State) : FrameOut 0x2c002 s (execMgtEventConsume us s) := by
  unfold execMgtEventConsume
  try dsimp only
  repeat' first
      | (with_reducible refine FrameOut.go ?_) | (with_reducible assumption) | (with_reducible exact Frame.refl _ _)
      | (apply Frame.andThen; rotate_left; (with_reducible apply logEntry_frame); rfl)
      | (apply Frame.andThen; rotate_left; (with_reducible apply setBox_frame); rfl) | (split) | (dsimp only)

theorem setCeiling_frame (v : Nat) (s : State) : Frame 0x2c000 s (setCeiling v s) := by
  unfold setCeiling
  try dsimp only
  repeat' first
      | (with_reducible assumption) | (with_reducible exact Frame.refl _ _)
      | (apply Frame.andThen; rotate_left; (with_reducible apply updMgt_frame); rfl)
      | (apply Frame.andThen; rotate_left; (with_reducible apply inc_frame); rfl)
      | (apply Frame.andThen; rotate_left; (with_reducible apply post_frame); rfl) | (split) | (dsimp only)

theorem postCrossing_frame (m : Nat) (band : Nat) (prio : Bool) (v : Int) (s : State) : Frame 0x24000 s (postCrossing m band prio v s) := by
  unfold postCrossing
  try dsimp only
  repeat' first
      | (with_reducible assumption) | (with_reducible exact Frame.refl _ _)
      | (apply Frame.andThen; rotate_left; (with_reducible apply postEvent_frame); rfl) | (split) | (dsimp only)

theorem crossUp_frame (i : Nat) (s : State) : Frame 0x2c000 s (crossUp i s) := by
  unfold crossUp
  try dsimp only
  repeat' first
      | (with_reducible assumption) | (with_reducible exact Frame.refl _ _)
      | (apply Frame.andThen; rotate_left; (with_reducible apply postMgt_frame); rfl)
      | (apply Frame.andThen; rotate_left; (with_reducible apply setCeiling_frame); rfl)
      | (apply Frame.andThen; rotate_left; (with_reducible apply updMgt_frame); rfl)
      | (apply Frame.andThen; rotate_left; (with_reducible apply inc_frame); rfl)
      | (apply Frame.andThen; rotate_left; (with_reducible apply post_frame); rfl) | (split) | (dsimp only)

theorem judgeThreshold_frame (i : Nat) (s : State) : Frame 0x2c000 s (judgeThreshold i s) := by
  unfold judgeThreshold
  try dsimp only
  repeat' first
      | (with_reducible assumption) | (with_reducible exact Frame.refl _ _)
      | (apply Frame.andThen; rotate_left; (with_reducible apply crossUp_frame); rfl)
      | (apply Frame.andThen; rotate_left; (with_reducible apply updMgt_frame); rfl)
      | (apply Frame.andThen; rotate_left; (with_reducible apply postCrossing_frame); rfl) | (split) | (dsimp only)

theorem takeThermal_frame (x : MonSample) (s : State) : Frame 0x8000 s (takeThermal x s) := by
  unfold takeThermal
  try dsimp only
  repeat' first
      | (with_reducible assumption) | (with_reducible exact Frame.refl _ _)
      | (apply Frame.andThen; rotate_left; (with_reducible apply updMgt_frame); rfl) | (split) | (dsimp only)

theorem takeVoltage_frame (x : MonSample) (s : State) : Frame 0x2c000 s (takeVoltage x s) := by
  unfold takeVoltage
  try dsimp only
  repeat' first
      | (with_reducible assumption) | (with_reducible exact Frame.refl _ _)
      | (apply Frame.andThen; rotate_left; (with_reducible apply updMgt_frame); rfl)
      | (apply Frame.andThen; rotate_left; (with_reducible apply postCrossing_frame); rfl) | (split) | (dsimp only)

theorem takeSample_frame (x : MonSample) (s : State) : Frame 0x2c000 s (takeSample x s) := by
  unfold takeSample
  try dsimp only
  repeat' first
      | (with_reducible assumption) | (with_reducible exact Frame.refl _ _)
      | (apply Frame.andThen; rotate_left; (with_reducible apply takeThermal_frame); rfl)
      | (apply Frame.andThen; rotate_left; (with_reducible apply updMgt_frame); rfl)
      | (apply Frame.andThen; rotate_left; (with_reducible apply takeVoltage_frame); rfl) | (split) | (dsimp only)

theorem execMonitorSample_frame (samples : List MonSample) (s : State) : FrameOut 0x2c000 s (execMonitorSample samples s) := by
  unfold execMonitorSample
  try dsimp only
  repeat' first
      | (with_reducible refine FrameOut.go ?_) | (with_reducible assumption) | (with_reducible exact Frame.refl _ _)
      | (apply Frame.andThen; rotate_left; (with_reducible apply judgeThreshold_frame); rfl)
      | (apply Frame.andThen; rotate_left; (with_reducible apply takeSample_frame); rfl)
      | (apply Frame.andThen; rotate_left; (with_reducible apply updMgt_frame); rfl)
      | (with_reducible refine Frame.each _ ?_ (fun _ _ => ?_)) | (split) | (dsimp only)

theorem engineOff_frame (e : Nat) (s : State) : Frame 0x22 s (engineOff e s) := by
  unfold engineOff
  try dsimp only
  repeat' first
      | (with_reducible assumption) | (with_reducible exact Frame.refl _ _)
      | (apply Frame.andThen; rotate_left; (with_reducible apply setEngine_frame); rfl)
      | (apply Frame.andThen; rotate_left; (with_reducible apply updWrite_frame); rfl)
      | (apply Frame.andThen; rotate_left; (with_reducible apply updCmd_frame); rfl) | (split) | (dsimp only)

theorem portOff_frame (p : Port) (s : State) : Frame 0x34876 s (portOff p s) := by
  unfold portOff
  try dsimp only
  repeat' first
      | (with_reducible assumption) | (with_reducible exact Frame.refl _ _)
      | (apply Frame.andThen; rotate_left; (with_reducible apply setPort_frame); rfl)
      | (apply Frame.andThen; rotate_left; (with_reducible apply linkDownOf_frame); rfl) | (split) | (dsimp only)

theorem fabricOff_frame (ps : List Nat) (s : State) : Frame 0x22000 s (fabricOff ps s) := by
  unfold fabricOff
  try dsimp only
  repeat' first
      | (with_reducible assumption) | (with_reducible exact Frame.refl _ _)
      | (apply Frame.andThen; rotate_left; (with_reducible apply portDown_frame); rfl)
      | (with_reducible refine Frame.each _ ?_ (fun _ _ => ?_)) | (split) | (dsimp only)

theorem chanOff_frame (s : State) : Frame 0x224100 s (chanOff s) := by
  unfold chanOff
  try dsimp only
  repeat' first
      | (with_reducible assumption) | (with_reducible exact Frame.refl _ _)
      | (apply Frame.andThen; rotate_left; (with_reducible apply drawMany_frame); rfl)
      | (apply Frame.andThen; rotate_left; (with_reducible apply failLink_frame); rfl)
      | (with_reducible refine Frame.each _ ?_ (fun _ _ => ?_)) | (split) | (dsimp only)

theorem domainOff_frame (d : Nat) (s : State) : Frame 0x23e976 s (domainOff d s) := by
  unfold domainOff
  try dsimp only
  repeat' first
      | (with_reducible assumption) | (with_reducible exact Frame.refl _ _)
      | (apply Frame.andThen; rotate_left; (with_reducible apply setDoms_frame); rfl)
      | (apply Frame.andThen; rotate_left; (with_reducible apply engineOff_frame); rfl)
      | (apply Frame.andThen; rotate_left; (with_reducible apply updMgt_frame); rfl)
      | (apply Frame.andThen; rotate_left; (with_reducible apply chanOff_frame); rfl)
      | (apply Frame.andThen; rotate_left; (with_reducible apply fabricOff_frame); rfl)
      | (apply Frame.andThen; rotate_left; (with_reducible apply portOff_frame); rfl)
      | (with_reducible refine Frame.each _ ?_ (fun _ _ => ?_)) | (split) | (dsimp only)

theorem stopWrites_frame (s : State) : Frame 0x20004 s (stopWrites s) := by
  unfold stopWrites
  try dsimp only
  repeat' first
      | (with_reducible assumption) | (with_reducible exact Frame.refl _ _)
      | (apply Frame.andThen; rotate_left; (with_reducible apply updPart_frame); rfl)
      | (apply Frame.andThen; rotate_left; (with_reducible apply inc_frame); rfl) | (with_reducible refine Frame.each _ ?_ (fun _ _ => ?_))
      | (split) | (dsimp only)

theorem execVoltageFault_frame (monitor : Nat) (s : State) : FrameOut 0x23e976 s (execVoltageFault monitor s) := by
  unfold execVoltageFault
  try dsimp only
  repeat' first
      | (with_reducible refine FrameOut.go ?_) | (with_reducible assumption) | (with_reducible exact Frame.refl _ _)
      | (apply Frame.andThen; rotate_left; (with_reducible apply stopWrites_frame); rfl)
      | (apply Frame.andThen; rotate_left; (with_reducible apply updMgt_frame); rfl)
      | (apply Frame.andThen; rotate_left; (with_reducible apply postCrossing_frame); rfl)
      | (apply Frame.andThen; rotate_left; (with_reducible apply post_frame); rfl)
      | (apply Frame.andThen; rotate_left; (with_reducible apply domainOff_frame); rfl) | (split) | (dsimp only)

theorem execThrottleStep_frame (s : State) : FrameOut 0x2c000 s (execThrottleStep s) := by
  unfold execThrottleStep
  try dsimp only
  repeat' first
      | (with_reducible refine FrameOut.go ?_) | (with_reducible assumption) | (with_reducible exact Frame.refl _ _)
      | (apply Frame.andThen; rotate_left; (with_reducible apply setCeiling_frame); rfl) | (split) | (dsimp only)

theorem execCriticalHoldRelease_frame (s : State) : FrameOut 0x2c000 s (execCriticalHoldRelease s) := by
  unfold execCriticalHoldRelease
  try dsimp only
  repeat' first
      | (with_reducible refine FrameOut.go ?_) | (with_reducible assumption) | (with_reducible exact Frame.refl _ _)
      | (apply Frame.andThen; rotate_left; (with_reducible apply postMgt_frame); rfl)
      | (apply Frame.andThen; rotate_left; (with_reducible apply updMgt_frame); rfl) | (split) | (dsimp only)

theorem execCeilingRaise_frame (s : State) : FrameOut 0x2c000 s (execCeilingRaise s) := by
  unfold execCeilingRaise
  try dsimp only
  repeat' first
      | (with_reducible refine FrameOut.go ?_) | (with_reducible assumption) | (with_reducible exact Frame.refl _ _)
      | (apply Frame.andThen; rotate_left; (with_reducible apply setCeiling_frame); rfl)
      | (apply Frame.andThen; rotate_left; (with_reducible apply updMgt_frame); rfl) | (split) | (dsimp only)

theorem monSel_frame (value : Nat) (s : State) : Frame 0x8000 s (monSel value s) := by
  unfold monSel
  try dsimp only
  repeat' first
      | (with_reducible assumption) | (with_reducible exact Frame.refl _ _)
      | (apply Frame.andThen; rotate_left; (with_reducible apply updMgt_frame); rfl) | (split) | (dsimp only)

theorem execMgtMonSel_frame (value : Nat) (s : State) : FrameOut 0x8000 s (execMgtMonSel value s) := by
  unfold execMgtMonSel
  try dsimp only
  repeat' first
      | (with_reducible refine FrameOut.go ?_) | (with_reducible assumption) | (with_reducible exact Frame.refl _ _)
      | (apply Frame.andThen; rotate_left; (with_reducible apply monSel_frame); rfl) | (split) | (dsimp only)

theorem execTelemetryReport_frame (secs : Nat) (s : State) : FrameOut 0x8000 s (execTelemetryReport secs s) := by
  unfold execTelemetryReport
  try dsimp only
  repeat' first
      | (with_reducible refine FrameOut.go ?_) | (with_reducible assumption) | (with_reducible exact Frame.refl _ _)
      | (apply Frame.andThen; rotate_left; (with_reducible apply updMgt_frame); rfl) | (split) | (dsimp only)

theorem takeAddress_frame (a : Nat) (s : State) : Frame 0x8000 s (takeAddress a s) := by
  unfold takeAddress
  try dsimp only
  repeat' first
      | (with_reducible assumption) | (with_reducible exact Frame.refl _ _)
      | (apply Frame.andThen; rotate_left; (with_reducible apply updMgt_frame); rfl) | (split) | (dsimp only)

theorem execEntdaa_frame (addr : Nat) (s : State) : FrameOut 0x8000 s (execEntdaa addr s) := by
  unfold execEntdaa
  try dsimp only
  repeat' first
      | (with_reducible refine FrameOut.go ?_) | (with_reducible assumption) | (with_reducible exact Frame.refl _ _)
      | (apply Frame.andThen; rotate_left; (with_reducible apply takeAddress_frame); rfl) | (split) | (dsimp only)

theorem execSetdasa_frame (addr : Nat) (s : State) : FrameOut 0x8000 s (execSetdasa addr s) := by
  unfold execSetdasa
  try dsimp only
  repeat' first
      | (with_reducible refine FrameOut.go ?_) | (with_reducible assumption) | (with_reducible exact Frame.refl _ _)
      | (apply Frame.andThen; rotate_left; (with_reducible apply takeAddress_frame); rfl) | (split) | (dsimp only)

theorem execRstdaa_frame (s : State) : FrameOut 0x8000 s (execRstdaa s) := by
  unfold execRstdaa
  try dsimp only
  repeat' first
      | (with_reducible refine FrameOut.go ?_) | (with_reducible assumption) | (with_reducible exact Frame.refl _ _)
      | (apply Frame.andThen; rotate_left; (with_reducible apply updMgt_frame); rfl) | (split) | (dsimp only)

theorem execEnec_frame (events : Nat) (s : State) : FrameOut 0x8000 s (execEnec events s) := by
  unfold execEnec
  try dsimp only
  repeat' first
      | (with_reducible refine FrameOut.go ?_) | (with_reducible assumption) | (with_reducible exact Frame.refl _ _)
      | (apply Frame.andThen; rotate_left; (with_reducible apply updMgt_frame); rfl) | (split) | (dsimp only)

theorem execDisec_frame (events : Nat) (s : State) : FrameOut 0x8000 s (execDisec events s) := by
  unfold execDisec
  try dsimp only
  repeat' first
      | (with_reducible refine FrameOut.go ?_) | (with_reducible assumption) | (with_reducible exact Frame.refl _ _)
      | (apply Frame.andThen; rotate_left; (with_reducible apply updMgt_frame); rfl) | (split) | (dsimp only)

theorem i3cReply_frame (b : Bytes) (s : State) : Frame 0x8000 s (i3cReply b s) := by
  unfold i3cReply
  try dsimp only
  repeat' first
      | (with_reducible assumption) | (with_reducible exact Frame.refl _ _)
      | (apply Frame.andThen; rotate_left; (with_reducible apply updMgt_frame); rfl) | (split) | (dsimp only)

theorem execGetpid_frame (s : State) : FrameOut 0x8000 s (execGetpid s) := by
  unfold execGetpid
  try dsimp only
  repeat' first
      | (with_reducible refine FrameOut.go ?_) | (with_reducible assumption) | (with_reducible exact Frame.refl _ _)
      | (apply Frame.andThen; rotate_left; (with_reducible apply i3cReply_frame); rfl) | (split) | (dsimp only)

theorem execGetbcr_frame (s : State) : FrameOut 0x8000 s (execGetbcr s) := by
  unfold execGetbcr
  try dsimp only
  repeat' first
      | (with_reducible refine FrameOut.go ?_) | (with_reducible assumption) | (with_reducible exact Frame.refl _ _)
      | (apply Frame.andThen; rotate_left; (with_reducible apply i3cReply_frame); rfl) | (split) | (dsimp only)

theorem execGetdcr_frame (s : State) : FrameOut 0x8000 s (execGetdcr s) := by
  unfold execGetdcr
  try dsimp only
  repeat' first
      | (with_reducible refine FrameOut.go ?_) | (with_reducible assumption) | (with_reducible exact Frame.refl _ _)
      | (apply Frame.andThen; rotate_left; (with_reducible apply i3cReply_frame); rfl) | (split) | (dsimp only)

theorem execGetstatus_frame (s : State) : FrameOut 0x8000 s (execGetstatus s) := by
  unfold execGetstatus
  try dsimp only
  repeat' first
      | (with_reducible refine FrameOut.go ?_) | (with_reducible assumption) | (with_reducible exact Frame.refl _ _)
      | (apply Frame.andThen; rotate_left; (with_reducible apply i3cReply_frame); rfl) | (split) | (dsimp only)

theorem execGetmwl_frame (s : State) : FrameOut 0x8000 s (execGetmwl s) := by
  unfold execGetmwl
  try dsimp only
  repeat' first
      | (with_reducible refine FrameOut.go ?_) | (with_reducible assumption) | (with_reducible exact Frame.refl _ _)
      | (apply Frame.andThen; rotate_left; (with_reducible apply i3cReply_frame); rfl) | (split) | (dsimp only)

theorem execGetmrl_frame (s : State) : FrameOut 0x8000 s (execGetmrl s) := by
  unfold execGetmrl
  try dsimp only
  repeat' first
      | (with_reducible refine FrameOut.go ?_) | (with_reducible assumption) | (with_reducible exact Frame.refl _ _)
      | (apply Frame.andThen; rotate_left; (with_reducible apply i3cReply_frame); rfl) | (split) | (dsimp only)

theorem execI3cPrivateRead_frame (s : State) : FrameOut 0x208000 s (execI3cPrivateRead s) := by
  unfold execI3cPrivateRead
  try dsimp only
  repeat' first
      | (with_reducible refine FrameOut.go ?_) | (with_reducible assumption) | (with_reducible exact Frame.refl _ _)
      | (apply Frame.andThen; rotate_left; (with_reducible apply i3cReply_frame); rfl)
      | (apply Frame.andThen; rotate_left; (with_reducible apply drawNext_frame); rfl) | (split) | (dsimp only)

theorem execI3cPrivateWrite_frame (_data : Bytes) (s : State) : FrameOut 0x8000 s (execI3cPrivateWrite _data s) := by
  unfold execI3cPrivateWrite
  try dsimp only
  repeat' first
      | (with_reducible refine FrameOut.go ?_) | (with_reducible assumption) | (with_reducible exact Frame.refl _ _)
      | (apply Frame.andThen; rotate_left; (with_reducible apply updMgt_frame); rfl) | (split) | (dsimp only)

theorem execAttest_frame (seq : Nat) (sgl : Bytes) (challenge : Bytes) (us : Nat) (s : State)
    : FrameOut 0x270002 s (execAttest seq sgl challenge us s) := by
  unfold execAttest
  try dsimp only
  repeat' first
      | (with_reducible refine FrameOut.go ?_) | (with_reducible assumption) | (with_reducible exact Frame.refl _ _)
      | (apply Frame.andThen; rotate_left; (with_reducible apply noteCmd_frame); rfl)
      | (apply Frame.andThen; rotate_left; (with_reducible apply complete_frame); rfl)
      | (apply Frame.andThen; rotate_left; (with_reducible apply sglWrite_frame); rfl) | (split) | (dsimp only)

theorem execGetIdentity_frame (seq : Nat) (sgl : Bytes) (s : State) : FrameOut 0x270002 s (execGetIdentity seq sgl s) := by
  unfold execGetIdentity
  try dsimp only
  repeat' first
      | (with_reducible refine FrameOut.go ?_) | (with_reducible assumption) | (with_reducible exact Frame.refl _ _)
      | (apply Frame.andThen; rotate_left; (with_reducible apply noteCmd_frame); rfl)
      | (apply Frame.andThen; rotate_left; (with_reducible apply complete_frame); rfl)
      | (apply Frame.andThen; rotate_left; (with_reducible apply sglWrite_frame); rfl) | ((with_reducible apply Frame.getD) <;> intros)
      | (split) | (dsimp only)

theorem execIdentitySetCert_frame (seq : Nat) (sgl : Bytes) (data : Bytes) (s : State)
    : FrameOut 0x20042 s (execIdentitySetCert seq sgl data s) := by
  unfold execIdentitySetCert
  try dsimp only
  repeat' first
      | (with_reducible refine FrameOut.go ?_) | (with_reducible assumption) | (with_reducible exact Frame.refl _ _)
      | (apply Frame.andThen; rotate_left; (with_reducible apply complete_frame); rfl) | (split) | (dsimp only)
      | ((with_reducible apply Frame.set_cip); rotate_left; rfl)

theorem stallLost_frame (n : Nat) (s : State) : Frame 0x22c806 s (stallLost n s) := by
  unfold stallLost
  try dsimp only
  repeat' first
      | (with_reducible assumption) | (with_reducible exact Frame.refl _ _)
      | (apply Frame.andThen; rotate_left; (with_reducible apply drawMany_frame); rfl)
      | (apply Frame.andThen; rotate_left; (with_reducible apply deferError_frame); rfl)
      | (apply Frame.andThen; rotate_left; (with_reducible apply appendLoss_frame); rfl)
      | (apply Frame.andThen; rotate_left; (with_reducible apply updWrite_frame); rfl)
      | (with_reducible refine Frame.each _ ?_ (fun _ _ => ?_)) | (split) | (dsimp only)

theorem quarantineStall_frame (n : Nat) (s : State) : Frame 0x20010 s (quarantineStall n s) := by
  unfold quarantineStall
  try dsimp only
  repeat' first
      | (with_reducible assumption) | (with_reducible exact Frame.refl _ _)
      | (apply Frame.andThen; rotate_left; (with_reducible apply inc_frame); rfl) | (split) | (dsimp only)
      | ((with_reducible apply Frame.set_stk); rotate_left; rfl)

theorem execBufferEccError_frame (stall : Nat) (chan : Nat) (device : Nat) (uncorrectable : Bool) (s : State)
    : FrameOut 0x22c816 s (execBufferEccError stall chan device uncorrectable s) := by
  unfold execBufferEccError
  try dsimp only
  repeat' first
      | (with_reducible refine FrameOut.go ?_) | (with_reducible assumption) | (with_reducible exact Frame.refl _ _)
      | (apply Frame.andThen; rotate_left; (with_reducible apply quarantineStall_frame); rfl)
      | (apply Frame.andThen; rotate_left; (with_reducible apply inc_frame); rfl)
      | (apply Frame.andThen; rotate_left; (with_reducible apply stallLost_frame); rfl) | ((with_reducible apply Frame.getD) <;> intros)
      | (split) | (dsimp only) | ((with_reducible apply Frame.set_stk); rotate_left; rfl)

theorem execPatrolScrub_frame (s : State) : FrameOut 0x20010 s (execPatrolScrub s) := by
  unfold execPatrolScrub
  try dsimp only
  repeat' first
      | (with_reducible refine FrameOut.go ?_) | (with_reducible assumption) | (with_reducible exact Frame.refl _ _)
      | (apply Frame.andThen; rotate_left; (with_reducible apply inc_frame); rfl) | (split) | (dsimp only)
      | ((with_reducible apply Frame.set_stk); rotate_left; rfl)

theorem spareExhausted_frame (s : State) : Frame 0x28004 s (spareExhausted s) := by
  unfold spareExhausted
  try dsimp only
  repeat' first
      | (with_reducible assumption) | (with_reducible exact Frame.refl _ _)
      | (apply Frame.andThen; rotate_left; (with_reducible apply stopWrites_frame); rfl)
      | (apply Frame.andThen; rotate_left; (with_reducible apply updMgt_frame); rfl) | (split) | (dsimp only)

theorem execChannelRetire_frame (seq : Nat) (s : State) : FrameOut 0x3e3b6 s (execChannelRetire seq s) := by
  unfold execChannelRetire
  try dsimp only
  repeat' first
      | (with_reducible refine FrameOut.go ?_) | (with_reducible assumption) | (with_reducible exact Frame.refl _ _)
      | (apply Frame.andThen; rotate_left; (with_reducible apply stageAndCommit_frame); rfl)
      | (apply Frame.andThen; rotate_left; (with_reducible apply spareExhausted_frame); rfl)
      | (apply Frame.andThen; rotate_left; (with_reducible apply complete_frame); rfl) | (split) | (dsimp only)

theorem execChannelRetireAuto_frame (chan : Nat) (s : State) : FrameOut 0x3e3b6 s (execChannelRetireAuto chan s) := by
  unfold execChannelRetireAuto
  try dsimp only
  repeat' first
      | (with_reducible refine FrameOut.go ?_) | (with_reducible assumption) | (with_reducible exact Frame.refl _ _)
      | (apply Frame.andThen; rotate_left; (with_reducible apply spareExhausted_frame); rfl)
      | (apply Frame.andThen; rotate_left; (with_reducible apply commitSet_frame) <;> assumption; rfl)
      | ((with_reducible apply Frame.getD) <;> intros) | (split) | (dsimp only)

theorem dropRing_frame (r : Nat) (s : State) : Frame 0x20800 s (dropRing r s) := by
  unfold dropRing
  try dsimp only
  repeat' first
      | (with_reducible assumption) | (with_reducible exact Frame.refl _ _)
      | (apply Frame.andThen; rotate_left; (with_reducible apply advanceTail_frame); rfl)
      | (apply Frame.andThen; rotate_left; (with_reducible apply freeEmptyRing_frame); rfl) | (split) | (dsimp only)

theorem execShedDropPending_frame (seq : Nat) (sgl : Bytes) (data : Bytes) (s : State)
    : FrameOut 0x228802 s (execShedDropPending seq sgl data s) := by
  unfold execShedDropPending
  try dsimp only
  repeat' first
      | (with_reducible refine FrameOut.go ?_) | (with_reducible assumption) | (with_reducible exact Frame.refl _ _)
      | (apply Frame.andThen; rotate_left; (with_reducible apply logEntry_frame); rfl)
      | (apply Frame.andThen; rotate_left; (with_reducible apply drawNext_frame); rfl)
      | (apply Frame.andThen; rotate_left; (with_reducible apply complete_frame); rfl)
      | (apply Frame.andThen; rotate_left; (with_reducible apply dropRing_frame); rfl)
      | (with_reducible refine Frame.each _ ?_ (fun _ _ => ?_)) | (with_reducible refine Frame.foldl_snd _ ?_ (fun _ _ => ?_))
      | (with_reducible refine Frame.foldl _ ?_ (fun _ _ => ?_)) | (split) | (dsimp only)

theorem execGpioPeriodic_frame (ball : Nat) (s : State) : FrameOut 0x8000 s (execGpioPeriodic ball s) := by
  unfold execGpioPeriodic
  try dsimp only
  repeat' first
      | (with_reducible refine FrameOut.go ?_) | (with_reducible assumption) | (with_reducible exact Frame.refl _ _)
      | (apply Frame.andThen; rotate_left; (with_reducible apply updMgt_frame); rfl) | ((with_reducible apply Frame.getD) <;> intros)
      | (split) | (dsimp only)

theorem execTraceFlush_frame (s : State) : FrameOut 0x8000 s (execTraceFlush s) := by
  unfold execTraceFlush
  try dsimp only
  repeat' first
      | (with_reducible refine FrameOut.go ?_) | (with_reducible assumption) | (with_reducible exact Frame.refl _ _)
      | (apply Frame.andThen; rotate_left; (with_reducible apply updMgt_frame); rfl) | (split) | (dsimp only)

theorem storeDesc_frame (d : Desc) (s : State) : Frame 0x800 s (storeDesc d s) := by
  unfold storeDesc
  try dsimp only
  repeat' first
      | (with_reducible assumption) | (with_reducible exact Frame.refl _ _)
      | (apply Frame.andThen; rotate_left; (with_reducible apply pumpAll_frame); rfl)
      | (apply Frame.andThen; rotate_left; (with_reducible apply storeUnits_frame); rfl) | (split) | (dsimp only)

theorem takeMember_frame (d : Desc) (member : Nat) (replacing : Bool) (s : State) : Frame 0x1000 s (takeMember d member replacing s) := by
  unfold takeMember
  try dsimp only
  repeat' first
      | (with_reducible assumption) | (with_reducible exact Frame.refl _ _)
      | (apply Frame.andThen; rotate_left; (with_reducible apply updYrd_frame); rfl) | ((with_reducible apply Frame.getD) <;> intros)
      | (split) | (dsimp only)

theorem execYardEnrol_frame (seq : Nat) (sgl : Bytes) (data : Bytes) (s : State) : FrameOut 0xa380a s (execYardEnrol seq sgl data s) := by
  unfold execYardEnrol
  try dsimp only
  repeat' first
      | (with_reducible refine FrameOut.go ?_) | (with_reducible assumption) | (with_reducible exact Frame.refl _ _)
      | (apply Frame.andThen; rotate_left; (with_reducible apply updYrd_frame); rfl)
      | (apply Frame.andThen; rotate_left; (with_reducible apply sendJoin_frame); rfl)
      | (apply Frame.andThen; rotate_left; (with_reducible apply updCart_frame); rfl)
      | (apply Frame.andThen; rotate_left; (with_reducible apply takeMember_frame); rfl)
      | (apply Frame.andThen; rotate_left; (with_reducible apply complete_frame); rfl)
      | (apply Frame.andThen; rotate_left; (with_reducible apply writeYardPage_frame); rfl)
      | (apply Frame.andThen; rotate_left; (with_reducible apply storeDesc_frame); rfl) | (split) | (dsimp only)

theorem execYardDeclareLost_frame (seq : Nat) (s : State) : FrameOut 0x23002 s (execYardDeclareLost seq s) := by
  unfold execYardDeclareLost
  try dsimp only
  repeat' first
      | (with_reducible refine FrameOut.go ?_) | (with_reducible assumption) | (with_reducible exact Frame.refl _ _)
      | (apply Frame.andThen; rotate_left; (with_reducible apply want_frame); rfl)
      | (apply Frame.andThen; rotate_left; (with_reducible apply setSt_frame); rfl)
      | (apply Frame.andThen; rotate_left; (with_reducible apply complete_frame); rfl) | (split) | (dsimp only)

theorem beginReplace_frame (d : Desc) (member : Nat) (s : State) : Frame 0x2499e s (beginReplace d member s) := by
  unfold beginReplace
  try dsimp only
  repeat' first
      | (with_reducible assumption) | (with_reducible exact Frame.refl _ _)
      | (apply Frame.andThen; rotate_left; (with_reducible apply beginDirectories_frame); rfl)
      | (apply Frame.andThen; rotate_left; (with_reducible apply chooseSet_frame); rfl)
      | (apply Frame.andThen; rotate_left; (with_reducible apply keptZone_frame); rfl)
      | (apply Frame.andThen; rotate_left; (with_reducible apply destroyRecords_frame); rfl)
      | (apply Frame.andThen; rotate_left; (with_reducible apply updCart_frame); rfl)
      | (apply Frame.andThen; rotate_left; (with_reducible apply newParts_frame); rfl)
      | (apply Frame.andThen; rotate_left; (with_reducible apply countPositions_frame); rfl)
      | ((with_reducible apply Frame.getD) <;> intros) | (split) | (dsimp only)

theorem endReplace_frame (seq : Nat) (d : Desc) (member : Nat) (s : State) : Frame 0xa3008 s (endReplace seq d member s) := by
  unfold endReplace
  try dsimp only
  repeat' first
      | (with_reducible assumption) | (with_reducible exact Frame.refl _ _)
      | (apply Frame.andThen; rotate_left; (with_reducible apply want_frame); rfl)
      | (apply Frame.andThen; rotate_left; (with_reducible apply updCart_frame); rfl)
      | (apply Frame.andThen; rotate_left; (with_reducible apply takeMember_frame); rfl)
      | (apply Frame.andThen; rotate_left; (with_reducible apply writeControl_frame); rfl)
      | (apply Frame.andThen; rotate_left; (with_reducible apply writeYardPage_frame); rfl)
      | (apply Frame.andThen; rotate_left; (with_reducible apply cmWrite_frame); rfl) | (split) | (dsimp only)

theorem execYardReplace_frame (seq : Nat) (s : State) : FrameOut 0xaf99e s (execYardReplace seq s) := by
  unfold execYardReplace
  try dsimp only
  repeat' first
      | (with_reducible refine FrameOut.go ?_) | (with_reducible assumption) | (with_reducible exact Frame.refl _ _)
      | (apply Frame.andThen; rotate_left; (with_reducible apply beginReplace_frame); rfl)
      | (apply Frame.andThen; rotate_left; (with_reducible apply setSt_frame); rfl)
      | (apply Frame.andThen; rotate_left; (with_reducible apply endReplace_frame); rfl)
      | (apply Frame.andThen; rotate_left; (with_reducible apply complete_frame); rfl)
      | (apply Frame.andThen; rotate_left; (with_reducible apply dirStep_frame); rfl) | (split) | (dsimp only)

theorem execYardReshape_frame (seq : Nat) (sgl : Bytes) (data : Bytes) (s : State)
    : FrameOut 0x23802 s (execYardReshape seq sgl data s) := by
  unfold execYardReshape
  try dsimp only
  repeat' first
      | (with_reducible refine FrameOut.go ?_) | (with_reducible assumption) | (with_reducible exact Frame.refl _ _)
      | (apply Frame.andThen; rotate_left; (with_reducible apply updYrd_frame); rfl)
      | (apply Frame.andThen; rotate_left; (with_reducible apply want_frame); rfl)
      | (apply Frame.andThen; rotate_left; (with_reducible apply setSt_frame); rfl)
      | (apply Frame.andThen; rotate_left; (with_reducible apply complete_frame); rfl)
      | (apply Frame.andThen; rotate_left; (with_reducible apply storeDesc_frame); rfl) | (split) | (dsimp only)

theorem execYardQuery_frame (seq : Nat) (sgl : Bytes) (s : State) : FrameOut 0x60002 s (execYardQuery seq sgl s) := by
  unfold execYardQuery
  try dsimp only
  repeat' first
      | (with_reducible refine FrameOut.go ?_) | (with_reducible assumption) | (with_reducible exact Frame.refl _ _)
      | (apply Frame.andThen; rotate_left; (with_reducible apply complete_frame); rfl)
      | (apply Frame.andThen; rotate_left; (with_reducible apply sglWrite_frame); rfl) | (split) | (dsimp only)

theorem portIdx_le (p : Port) : portIdx p ≤ 1 := by cases p <;> decide

theorem fnIdx_le (f : Fn) : fnIdx f ≤ 1 := by cases f <;> decide

theorem violationKind_le (s : State) (f : Fn) (off width : Nat) (write : Bool) : violationKind s f off width write ≤ 5 := by
  unfold violationKind
  cases f <;> dsimp only <;> (repeat' split) <;> decide

theorem recordViolation_frame (kind : Nat) (p : Port) (f : Fn) (off : Nat) (s : State) (h : kind ≤ 5) :
    Frame 0x1 s (recordViolation kind p f off s) :=
  (Frame.refl _ s).set_glb _ rfl fun i =>
    ⟨i.host, i.cart, i.nor, i.counters, i.saturate, satAdd_le _ _, h, portIdx_le p, fnIdx_le f, Nat.mod_lt _ (by decide)⟩

theorem writeRing_frame (p : Port) (n : Nat) (k : Nat) (value : Nat) (s : State) : Frame 0x34876 s (writeRing p n k value s) := by
  unfold writeRing
  try dsimp only
  repeat' first
      | (with_reducible assumption) | (with_reducible exact Frame.refl _ _)
      | (apply Frame.andThen; rotate_left; (with_reducible apply enableRing_frame); rfl)
      | (apply Frame.andThen; rotate_left; (with_reducible apply resetRing_frame); rfl)
      | (apply Frame.andThen; rotate_left; (with_reducible apply disableRing_frame); rfl)
      | (apply Frame.andThen; rotate_left; (with_reducible apply updRing_frame); rfl) | (split) | (dsimp only)

theorem writeReg_frame (r : WReg) (value : Nat) (s : State) : Frame 0x3fef6 s (writeReg r value s) := by
  unfold writeReg
  try dsimp only
  repeat' first
      | (with_reducible assumption) | (with_reducible exact Frame.refl _ _)
      | (apply Frame.andThen; rotate_left; (with_reducible apply updYrd_frame); rfl)
      | (apply Frame.andThen; rotate_left; (with_reducible apply probeSel_frame); rfl)
      | (apply Frame.andThen; rotate_left; (with_reducible apply updBrd_frame); rfl)
      | (apply Frame.andThen; rotate_left; (with_reducible apply routeSel_frame); rfl)
      | (apply Frame.andThen; rotate_left; (with_reducible apply schedSel_frame); rfl)
      | (apply Frame.andThen; rotate_left; (with_reducible apply updLane_frame); rfl)
      | (apply Frame.andThen; rotate_left; (with_reducible apply updShd_frame); rfl)
      | (apply Frame.andThen; rotate_left; (with_reducible apply writeRing_frame); rfl)
      | (apply Frame.andThen; rotate_left; (with_reducible apply slotSel_frame); rfl)
      | (apply Frame.andThen; rotate_left; (with_reducible apply ringHead_frame); rfl)
      | (apply Frame.andThen; rotate_left; (with_reducible apply clearEngineFaults_frame); rfl)
      | (apply Frame.andThen; rotate_left; (with_reducible apply monSel_frame); rfl)
      | (apply Frame.andThen; rotate_left; (with_reducible apply memberSel_frame); rfl)
      | (apply Frame.andThen; rotate_left; (with_reducible apply ringTail_frame); rfl) | (split) | (dsimp only)
      | ((with_reducible apply Frame.set_hq); rotate_left; rfl)

theorem writeAt_frame (p : Port) (f : Fn) (off : Nat) (data : Nat) (s : State) : Frame 0x3fef6 s (writeAt p f off data s) := by
  unfold writeAt
  try dsimp only
  repeat' first
      | (with_reducible assumption) | (with_reducible exact Frame.refl _ _)
      | (apply Frame.andThen; rotate_left; (with_reducible apply writeReg_frame); rfl)
      | (apply Frame.andThen; rotate_left; (with_reducible apply ringHead_frame); rfl)
      | (apply Frame.andThen; rotate_left; (with_reducible apply ringTail_frame); rfl) | (split) | (dsimp only)

theorem accessOne_frame (p : Port) (f : Fn) (off : Nat) (width : Nat) (write : Bool) (data : Nat) (s : State) :
    Frame 0x3fef7 s (accessOne p f off width write data s).2 := by
  unfold accessOne
  dsimp only
  split
  · exact (recordViolation_frame _ p f off s (violationKind_le ..)).mono rfl
  · split
    · exact (writeAt_frame ..).mono rfl
    · exact Frame.refl _ _

theorem accessOne_frame_eq (p : Port) (f : Fn) (off : Nat) (width : Nat) (write : Bool) (data : Nat) (s : State) {a_ : Nat} {s' : State}
    (h : accessOne p f off width write data s = (a_, s')) : Frame 0x3fef7 s s' := by
  have k := accessOne_frame p f off width write data s
  rwa [h] at k

theorem access_frame (p : Port) (f : Fn) (off : Nat) (width : Nat) (write : Bool) (data : Nat) (s : State)
    : Frame 0x3fef7 s (access p f off width write data s).2 := by
  unfold access
  try dsimp only
  repeat' first
      | (with_reducible assumption) | (with_reducible exact Frame.refl _ _)
      | (apply Frame.andThen; rotate_left; (with_reducible apply accessOne_frame); rfl)
      | (apply Frame.andThen; rotate_left; (with_reducible apply accessOne_frame_eq) <;> assumption; rfl) | (split) | (dsimp only)

theorem access_frame_eq (p : Port) (f : Fn) (off : Nat) (width : Nat) (write : Bool) (data : Nat) (s : State) {a_ : Nat} {s' : State}
    (h : access p f off width write data s = (a_, s'))
    : Frame 0x3fef7 s s' := by
  have k := access_frame p f off width write data s
  rwa [h] at k

theorem execViolation_frame (p : Port) (f : Fn) (offset : Nat) (width : Nat) (write : Bool) (data : Nat) (s : State)
    : FrameOut 0x3fef7 s (execViolation p f offset width write data s) := by
  unfold execViolation
  try dsimp only
  repeat' first
      | (with_reducible refine FrameOut.go ?_) | (with_reducible assumption) | (with_reducible exact Frame.refl _ _)
      | (apply Frame.andThen; rotate_left; (with_reducible apply access_frame); rfl)
      | (apply Frame.andThen; rotate_left; (with_reducible apply access_frame_eq) <;> assumption; rfl)
      | (apply Frame.andThen; rotate_left; (with_reducible apply setPort_frame); rfl) | (split) | (dsimp only)

theorem execRegisterWrite_frame (p : Port) (offset : Nat) (value : Nat) (s : State)
    : FrameOut 0x3fef7 s (execRegisterWrite p offset value s) := by
  unfold execRegisterWrite
  try dsimp only
  repeat' first
      | (with_reducible refine FrameOut.go ?_) | (with_reducible assumption) | (with_reducible exact Frame.refl _ _)
      | (apply Frame.andThen; rotate_left; (with_reducible apply access_frame); rfl)
      | (apply Frame.andThen; rotate_left; (with_reducible apply access_frame_eq) <;> assumption; rfl) | (split) | (dsimp only)

end Sys2Proof.Machine
end

