-- ==== Sys2Proof/Laws/Channels.lean ====
section
/-!
SUPPORT. Read channels and receive links as they are read back after a change, and what a link's failure leaves.
-/

namespace Sys2Proof.Machine

theorem chanAt_updChan (p q : Nat) (f : Chan → Chan) (s : State) : chanAt (updChan p f s) q = if q = p then f (chanAt s p) else chanAt s q := by
  unfold chanAt updChan updRch modAt
  dsimp only
  split
  · next h => subst h; exact AMap.getD_set_self _ _ _ _
  · next h => exact AMap.getD_set_of_ne _ _ _ (Ne.symm h)

theorem rxAt_updRx (k j : Nat) (f : RxLink → RxLink) (s : State) : rxAt (updRx k f s) j = if j = k then f (rxAt s k) else rxAt s j := by
  unfold rxAt updRx updRch modAt
  dsimp only
  split
  · next h => subst h; exact AMap.getD_set_self _ _ _ _
  · next h => exact AMap.getD_set_of_ne _ _ _ (Ne.symm h)

theorem chanAt_of_rch {s t : State} (h : t.rch = s.rch) (p : Nat) : chanAt t p = chanAt s p := by unfold chanAt; rw [h]

theorem rxAt_of_rch {s t : State} (h : t.rch = s.rch) (k : Nat) : rxAt t k = rxAt s k := by unfold rxAt; rw [h]

theorem chanAt_updRx (k q : Nat) (f : RxLink → RxLink) (s : State) : chanAt (updRx k f s) q = chanAt s q := rfl

theorem rxAt_updChan (p k : Nat) (f : Chan → Chan) (s : State) : rxAt (updChan p f s) k = rxAt s k := rfl

theorem toAcquiring_other {p q : Nat} (n : q ≠ p) (s : State) : chanAt (toAcquiring p s) q = chanAt s q := (chanAt_updChan ..).trans (if_neg n)

theorem toAcquiring_lock (p q : Nat) (s : State) :
    (chanAt (toAcquiring p s) q).lock = if q = p then .acquiring else (chanAt s q).lock := by
  unfold toAcquiring
  rw [chanAt_updChan]
  by_cases h : q = p
  · rw [if_pos h, if_pos h]; split <;> simp_all
  · rw [if_neg h, if_neg h]

/-- Channels of a list go to ACQUIRING, and no other changes (R232). -/
theorem each_toAcquiring (l : List Nat) (s : State) :
    (∀ q ∈ l, (chanAt (each toAcquiring l s) q).lock = .acquiring) ∧ (∀ q, q ∉ l → chanAt (each toAcquiring l s) q = chanAt s q)
      ∧ (∀ k, rxAt (each toAcquiring l s) k = rxAt s k) ∧ (each toAcquiring l s).boxes = s.boxes ∧ (each toAcquiring l s).srv = s.srv := by
  induction l generalizing s with
  | nil => exact ⟨(by simp), fun _ _ => rfl, fun _ => rfl, rfl, rfl⟩
  | cons a l ih =>
    obtain ⟨h1, h2, h3, h4, h5⟩ := ih (toAcquiring a s)
    refine ⟨fun q hq => ?_, fun q hq => ?_, h3, h4, h5⟩
    · by_cases c : q ∈ l
      · exact h1 q c
      · have e : q = a := by simpa [c] using hq
        subst e
        exact (congrArg Chan.lock (h2 q c)).trans ((toAcquiring_lock ..).trans (if_pos rfl))
    · rw [List.mem_cons, not_or] at hq
      exact (h2 q hq.2).trans (toAcquiring_other hq.1 _)

/-- What a link's failure leaves (R228). -/
theorem failLink_spec (k : Nat) (s : State) :
    rxAt (failLink k s) k = { rxAt s k with up := false, aligned := false, tries := 0 }
      ∧ (∀ q ∈ linkChannels k, (chanAt (failLink k s) q).lock = .acquiring) ∧ (∀ q, q ∉ linkChannels k → chanAt (failLink k s) q = chanAt s q)
      ∧ (hasSlots .mgt Src.chan 1 s = true → boxOf (failLink k s) .mgt = boxOf s .mgt ++ [mail Src.chan 0x1301 k s]) := by
  obtain ⟨h1, h2, h3, h4, h5⟩ := each_toAcquiring (linkChannels k) (updRx k (fun x => { x with up := false, aligned := false, tries := 0 }) s)
  unfold failLink
  generalize each toAcquiring (linkChannels k) (updRx k (fun x => { x with up := false, aligned := false, tries := 0 }) s) = u at *
  have e : (postEvent Src.chan 0x13 0x01 false k u).rch = u.rch := (postEvent_frame ..).same .rch rfl
  refine ⟨?_, fun q hq => ?_, fun q hq => ?_, fun h => ?_⟩
  · exact (rxAt_of_rch e k).trans ((h3 k).trans ((rxAt_updRx ..).trans (if_pos rfl)))
  · exact (congrArg Chan.lock (chanAt_of_rch e q)).trans (h1 q hq)
  · exact (chanAt_of_rch e q).trans (h2 q hq)
  · have hb : boxOf u .mgt = boxOf s .mgt := congrArg Boxes.mgt h4
    rw [postEvent_of_slots ((hasSlots_congr hb _ _).trans h)]
    show u.boxes.mgt ++ [⟨u.srv.clock, _, _, _⟩] = _
    rw [h4, h5]
    rfl

end Sys2Proof.Machine
end

