-- ==== Sys2Proof/Laws/Monitor.lean ====
section
/-!
SUPPORT. What posting and taking an entry leave unchanged; the monitors: the ceiling's change, and the judging of the hottest sensor
against one threshold.
-/

namespace Sys2Proof.Machine

/-- A post changes of the management state at most the busy status of the management core's own posts (R13). -/
theorem post_mgt_or (b : Box) (src code arg : Nat) (s : State) :
    (post b src code arg s).mgt = s.mgt ∨ (post b src code arg s).mgt = { s.mgt with postBusy := true } := by
  unfold post
  dsimp only
  split
  · exact .inl ((pushMgt_frame ..).same .mgt rfl)
  split
  · exact .inl rfl
  split
  · exact .inl rfl
  · exact .inr rfl

/-- Taking an event changes nothing but the mailboxes. -/
theorem Takes.only_boxes {b : Box} {src code arg : Nat} {s u : State} (h : Takes b src code arg s u) : ∃ bx, u = { s with boxes := bx } := by
  cases h with
  | head m h e =>
    unfold refillBox
    split
    · exact ⟨_, rfl⟩
    · exact ⟨_, rfl⟩
  | direct h => exact ⟨s.boxes, rfl⟩

/-- A post of the management core that has a slot leaves no busy status. -/
theorem postMgt_mgt_of_slots {b : Box} {s : State} (h : hasSlots b Src.mgtDay 1 s = true) (code arg : Nat) :
    (postMgt b code arg s).mgt = { s.mgt with postBusy := false } := by
  unfold postMgt
  rw [post_of_slots ((hasSlots_congr (show boxOf _ b = boxOf s b by cases b <;> rfl) _ _).trans h)]
  rfl

/-- The ceiling changes and is posted to the Bridle while the entry has a slot. -/
theorem setCeiling_of_slots {s : State} (hs : hasSlots .bridle Src.aon 1 s = true) (v : Nat) :
    (setCeiling v s).mgt = { s.mgt with ceiling := v }
    ∧ (setCeiling v s).boxes = { s.boxes with bridle := s.boxes.bridle ++ [⟨s.srv.clock, Src.aon, 0x0008, v⟩] } := by
  have h : ∀ x : State, x.mgt = s.mgt → x.boxes = s.boxes → x.srv = s.srv →
      (post .bridle Src.aon 0x0008 v (updMgt (fun m => { m with ceiling := v }) x)).mgt = { s.mgt with ceiling := v }
      ∧ (post .bridle Src.aon 0x0008 v (updMgt (fun m => { m with ceiling := v }) x)).boxes
          = { s.boxes with bridle := s.boxes.bridle ++ [⟨s.srv.clock, Src.aon, 0x0008, v⟩] } := by
    intro x h1 h2 h3
    have hx : hasSlots .bridle Src.aon 1 (updMgt (fun m => { m with ceiling := v }) x) = true := by
      rw [hasSlots_congr (s := s) (by show x.boxes.bridle = s.boxes.bridle; rw [h2])]; exact hs
    rw [post_of_slots hx]
    refine ⟨?_, ?_⟩
    · show ({ x.mgt with ceiling := v } : Mgt) = _
      rw [h1]
    · show ({ x.boxes with bridle := x.boxes.bridle ++ [⟨x.srv.clock, Src.aon, 0x0008, v⟩] } : Boxes) = _
      rw [h2, h3]
  unfold setCeiling
  dsimp only
  split
  · exact h _ ((inc_frame ..).same .mgt rfl) ((inc_frame ..).same .boxes rfl) ((inc_frame ..).same .srv rfl)
  · exact h _ rfl rfl rfl

/-- What the samples leave of the management state: the hottest sensor, its value, the monitors and the crossed thresholds. -/
def SampleKept (s t : State) : Prop :=
  t.mgt.hotTemp = s.mgt.hotTemp ∧ t.mgt.hotSensor = s.mgt.hotSensor ∧ t.mgt.monitors = s.mgt.monitors ∧ t.mgt.hotBand = s.mgt.hotBand

theorem SampleKept.trans {s t u : State} (h : SampleKept s t) (k : SampleKept t u) : SampleKept s u :=
  ⟨k.1.trans h.1, k.2.1.trans h.2.1, k.2.2.1.trans h.2.2.1, k.2.2.2.trans h.2.2.2⟩

theorem SampleKept.of_mgt {s t : State} (h : t.mgt = s.mgt) : SampleKept s t := by
  unfold SampleKept
  rw [h]
  exact ⟨rfl, rfl, rfl, rfl⟩

theorem post_sampleKept (b : Box) (src code arg : Nat) (s : State) : SampleKept s (post b src code arg s) := by
  rcases post_mgt_or b src code arg s with h | h
  · exact .of_mgt h
  · unfold SampleKept
    rw [h]
    exact ⟨rfl, rfl, rfl, rfl⟩

theorem postMgt_sampleKept (b : Box) (code arg : Nat) (s : State) : SampleKept s (postMgt b code arg s) :=
  .trans (t := { s with mgt := { s.mgt with postBusy := false } }) ⟨rfl, rfl, rfl, rfl⟩ (post_sampleKept b Src.mgtDay code arg _)

theorem setCeiling_sampleKept (v : Nat) (s : State) : SampleKept s (setCeiling v s) := by
  unfold setCeiling
  dsimp only
  refine .trans ?_ (post_sampleKept ..)
  split
  · exact SampleKept.trans (t := inc 0x110110 s) (.of_mgt ((inc_frame ..).same .mgt rfl)) ⟨rfl, rfl, rfl, rfl⟩
  · exact ⟨rfl, rfl, rfl, rfl⟩

theorem crossUp_sampleKept (i : Nat) (s : State) : SampleKept s (crossUp i s) := by
  unfold crossUp
  split
  · exact SampleKept.trans (t := updMgt (fun m => { m with throttled := true }) s) ⟨rfl, rfl, rfl, rfl⟩ (setCeiling_sampleKept ..)
  split
  · have k := SampleKept.trans (s := s) (t := updMgt (fun m => { m with criticalHold := true }) s) ⟨rfl, rfl, rfl, rfl⟩
      (.of_mgt ((inc_frame 0x110114 _).same .mgt rfl))
    have k := k.trans (post_sampleKept .bridle Src.aon 0x8001 0 _)
    have k := k.trans (setCeiling_sampleKept 64 _)
    exact k.trans (postMgt_sampleKept ..)
  · exact ⟨rfl, rfl, rfl, rfl⟩

theorem postCrossing_mgt (m band : Nat) (prio : Bool) (v : Int) (s : State) : (postCrossing m band prio v s).mgt = s.mgt :=
  (postCrossing_frame ..).same .mgt rfl

/-- Judging one threshold changes of what the samples leave only the mark of that threshold. -/
theorem judgeThreshold_keeps (i : Nat) (s : State) :
    (judgeThreshold i s).mgt.hotTemp = s.mgt.hotTemp ∧ (judgeThreshold i s).mgt.hotSensor = s.mgt.hotSensor
    ∧ (judgeThreshold i s).mgt.monitors = s.mgt.monitors ∧ (judgeThreshold i s).cfg = s.cfg
    ∧ (judgeThreshold i s).mgt.hotBand
        = (if bit s.mgt.hotBand i = false ∧ threshold s i ≤ s.mgt.hotTemp then setBits s.mgt.hotBand i i 1
           else if bit s.mgt.hotBand i = true ∧ s.mgt.hotTemp ≤ threshold s i - 5 then setBits s.mgt.hotBand i i 0
           else s.mgt.hotBand) := by
  have cf := (judgeThreshold_frame i s).same .cfg rfl
  revert cf
  unfold judgeThreshold
  dsimp only
  split
  · intro cf
    have k := crossUp_sampleKept i (postCrossing s.mgt.hotSensor (i + 1) (i == 2) s.mgt.hotTemp
      (updMgt (fun m => { m with hotBand := setBits m.hotBand i i (b2n true) }) s))
    unfold SampleKept at k
    rw [postCrossing_mgt] at k
    exact ⟨k.1, k.2.1, k.2.2.1, cf, k.2.2.2⟩
  split
  · intro cf
    rw [postCrossing_mgt]
    exact ⟨rfl, rfl, rfl, cf, rfl⟩
  · exact fun _ => ⟨rfl, rfl, rfl, rfl, rfl⟩

/-- Writing one bit of a word leaves every other bit. -/
theorem bit_setBits (w i j : Nat) {v : Nat} (hv : v < 2) : bit (setBits w i i v) j = if j = i then decide (v = 1) else bit w j := by
  have e : bits w i i = w / 2 ^ i % 2 := by unfold bits; simp
  have h1 : i + 1 - i = 1 := by omega
  unfold setBits
  rw [e, h1, pow_one, Nat.mod_eq_of_lt hv]
  have dm := Nat.div_add_mod w (2 ^ i)
  have hp : 0 < 2 ^ i := Nat.two_pow_pos i
  have hr := Nat.mod_lt w hp
  have dm2 := Nat.div_add_mod (w / 2 ^ i) 2
  have hx : w - w / 2 ^ i % 2 * 2 ^ i + v * 2 ^ i = w % 2 ^ i + 2 ^ i * (2 * (w / 2 ^ i / 2) + v) := by
    have : 2 ^ i * (w / 2 ^ i) = 2 ^ i * (2 * (w / 2 ^ i / 2)) + w / 2 ^ i % 2 * 2 ^ i := by
      conv_lhs => rw [← dm2]
      ring
    have e2 : 2 ^ i * (2 * (w / 2 ^ i / 2) + v) = 2 ^ i * (2 * (w / 2 ^ i / 2)) + v * 2 ^ i := by ring
    omega
  rw [hx]
  have key : ∀ k, (w % 2 ^ i + 2 ^ i * (2 * (w / 2 ^ i / 2) + v)).testBit k = if k = i then decide (v = 1) else w.testBit k := by
    intro k
    rw [Nat.add_comm, Nat.testBit_two_pow_mul_add _ hr]
    by_cases hk : k < i
    · rw [if_pos hk, if_neg (by omega), Nat.testBit_mod_two_pow]; simp [hk]
    · rw [if_neg hk]
      by_cases he : k = i
      · subst he
        rw [if_pos rfl, Nat.sub_self, Nat.testBit_zero]
        have : (2 * (w / 2 ^ k / 2) + v) % 2 = v := by omega
        rw [this]
      · rw [if_neg he]
        obtain ⟨d, hd⟩ : ∃ d, k = i + (d + 1) := ⟨k - i - 1, by omega⟩
        rw [hd, Nat.add_sub_cancel_left, Nat.testBit_succ]
        rw [show (2 * (w / 2 ^ i / 2) + v) / 2 = w / 2 ^ i / 2 by omega, ← Nat.testBit_succ, Nat.testBit_div_two_pow, Nat.add_comm]
  have tb : ∀ a k, bit a k = Nat.testBit a k := by
    intro a k
    unfold bit
    rw [Nat.testBit_eq_decide_div_mod_eq]
    exact (beq_eq_decide _ _)
  rw [tb, tb, key]

/-- A threshold is marked crossed exactly when the temperature has reached it and, once marked, until it lies 5 °C below (R432). -/
theorem judgeThreshold_marks (i k : Nat) (s : State) :
    bit (judgeThreshold i s).mgt.hotBand k
      = if k = i then decide (threshold s i ≤ s.mgt.hotTemp) || (bit s.mgt.hotBand i && decide (threshold s i - 5 < s.mgt.hotTemp))
        else bit s.mgt.hotBand k := by
  rw [(judgeThreshold_keeps i s).2.2.2.2]
  generalize threshold s i = T
  generalize s.mgt.hotTemp = M
  by_cases a : bit s.mgt.hotBand i = false
  · by_cases c : T ≤ M
    · rw [if_pos ⟨a, c⟩, bit_setBits _ _ _ (by decide)]; simp [c]
    · rw [if_neg (fun h => c h.2), if_neg (by rw [a]; simp)]
      split
      · rename_i e; subst e; simp [a, c]
      · rfl
  · have a' : bit s.mgt.hotBand i = true := by simpa using a
    rw [if_neg (fun h => a h.1)]
    by_cases c : M ≤ T - 5
    · rw [if_pos ⟨a', c⟩, bit_setBits _ _ _ (by decide)]
      have h1 : ¬T ≤ M := by omega
      have h2 : ¬T - 5 < M := by omega
      simp [a', h1, h2]
    · rw [if_neg (fun h => c h.2)]
      split
      · rename_i e; subst e; rw [a']
        have : T - 5 < M := by omega
        simp [this]
      · rfl

/-- Stopping the writes stops those of every partition present (R434, R440). -/
theorem stopWrites_stops {s : State} {p : Nat} (hp : p < 4) (hpp : partPresent s p = true) : (partAt (stopWrites s) p).writeStopped = true := by
  have st : ∀ (u : State) (p : Nat), let w := (if partPresent u p = false ∨ (partAt u p).writeStopped then u
      else inc 0x06011C (updPart p (fun x => { x with writeStopped := true, stopDs := x.nextDs }) u))
      (∀ r, partPresent w r = partPresent u r ∧ ((partAt u r).writeStopped = true → (partAt w r).writeStopped = true)) ∧ (partPresent u p = true → (partAt w p).writeStopped = true) := by
    intro u p
    dsimp only
    split
    · next h =>
      refine ⟨fun r => ⟨rfl, id⟩, fun h2 => ?_⟩
      rcases h with h | h
      · rw [h] at h2; cases h2
      · exact h
    · have e : ∀ r, partAt (inc 0x06011C (updPart p (fun x => { x with writeStopped := true, stopDs := x.nextDs }) u)) r = if r = p then { partAt u p with writeStopped := true, stopDs := (partAt u p).nextDs } else partAt u r := by
        intro r
        have e1 : partAt (inc 0x06011C (updPart p (fun x => { x with writeStopped := true, stopDs := x.nextDs }) u)) r = partAt (updPart p (fun x => { x with writeStopped := true, stopDs := x.nextDs }) u) r := by
          unfold partAt; rw [(inc_frame ..).same .parts rfl]
        rw [e1]
        split
        · next h => subst h; exact partAt_updPart_self ..
        · next h => exact partAt_updPart_other _ _ h
      refine ⟨fun r => ⟨?_, fun h2 => ?_⟩, fun _ => by rw [e, if_pos rfl]⟩
      · unfold partPresent; rw [e]; split
        · next h => subst h; rfl
        · rfl
      · rw [e]; split
        · rfl
        · exact h2
  have hq : ∀ (xs : List Nat) (u : State), partPresent u p = true → ((partAt u p).writeStopped = true ∨ p ∈ xs) → (partAt (each (fun p s => if partPresent s p = false ∨ (partAt s p).writeStopped then s
      else inc 0x06011C (updPart p (fun x => { x with writeStopped := true, stopDs := x.nextDs }) s)) xs u) p).writeStopped = true := by
    intro xs
    induction xs with
    | nil => intro u _ h; rcases h with h | h; exact h; cases h
    | cons y ys ih =>
      intro u h1 h2
      have k := st u y
      dsimp only at k
      refine ih _ (by rw [(k.1 p).1]; exact h1) ?_
      by_cases e : p = y
      · subst e; exact .inl (k.2 h1)
      · rcases h2 with h2 | h2
        · exact .inl ((k.1 p).2 h2)
        · exact .inr ((List.mem_cons.1 h2).resolve_left e)
  refine hq [0, 1, 2, 3] s hpp (.inr ?_)
  have : p = 0 ∨ p = 1 ∨ p = 2 ∨ p = 3 := by omega
  rcases this with rfl | rfl | rfl | rfl <;> decide

end Sys2Proof.Machine
end

