-- ==== Sys2Proof/Laws/Lanes.lean ====
section
/-!
SUPPORT. The lanes to the write drivers (R200): what a block sent leaves on a lane, and what a lane frame, the end of a row slot
and the gate's closing do to the writer's state.
-/

namespace Sys2Proof.Machine

theorem laneAt_updLane (k j : Nat) (f : Lane → Lane) (s : State) : laneAt (updLane j f s) k = if k = j then f (laneAt s k) else laneAt s k := by
  unfold laneAt updLane updWrv modAt
  dsimp only
  split
  · next h => subst h; exact AMap.getD_set_self _ _ _ _
  · next h => exact AMap.getD_set_of_ne _ _ _ (Ne.symm h)

/-- The blocks of a lane as they were before scrambling. -/
def sentBlocks (s : State) (k : Nat) : List (Bool × Nat) := (laneAt s k).blocks.map fun b => (b.1, b.2.1)

theorem scrambled_blocks (bs : List (Bool × Nat)) (pre : List (Bool × Nat × Nat)) (r : Nat) :
    ((bs.foldl (fun (acc : List (Bool × Nat × Nat) × Nat) b =>
      let e := laneScramble acc.2 b.2
      (acc.1 ++ [(b.1, b.2, e.1)], e.2)) (pre, r)).1.map fun b => (b.1, b.2.1)) = (pre.map fun b => (b.1, b.2.1)) ++ bs := by
  induction bs generalizing pre r with
  | nil => simp
  | cons b bs ih => rw [List.foldl_cons, ih]; simp

theorem sentBlocks_sendBlocks (k j : Nat) (bs : List (Bool × Nat)) (s : State) :
    sentBlocks (sendBlocks j bs s) k = if k = j then bs else sentBlocks s k := by
  unfold sentBlocks sendBlocks
  rw [laneAt_updLane]
  split
  · exact (scrambled_blocks bs [] _).trans (by simp)
  · rfl

/-- What each of the four lanes is given, it has; nothing but the lanes changes. -/
theorem each_lane (B : Nat → List (Bool × Nat)) (f : Nat → Lane → Lane) (hf : ∀ k l, (f k l).blocks = l.blocks) (s : State) :
    ∃ ls, each (fun k s => updLane k (f k) (sendBlocks k (B k) s)) [0, 1, 2, 3] s = updWrv (fun w => { w with lanes := ls }) s
      ∧ ∀ k, k < 4 → ((AMap.getD ls k {}).blocks.map fun b => (b.1, b.2.1)) = B k ∧ ∃ l, AMap.getD ls k {} = f k l := by
  have st : ∀ k j v, sentBlocks (updLane j (f j) (sendBlocks j (B j) v)) k = if k = j then B j else sentBlocks v k := by
    intro k j v
    unfold sentBlocks
    rw [laneAt_updLane]
    split
    · next h => rw [hf]; exact (sentBlocks_sendBlocks k j _ _).trans (if_pos h)
    · next h => exact (sentBlocks_sendBlocks k j _ _).trans (if_neg h)
  have sl : ∀ k j v, k ≠ j → laneAt (updLane j (f j) (sendBlocks j (B j) v)) k = laneAt v k := by
    intro k j v h
    rw [laneAt_updLane, if_neg h]
    unfold sendBlocks
    rw [laneAt_updLane, if_neg h]
  have su : ∀ j v, ∃ ls, updLane j (f j) (sendBlocks j (B j) v) = updWrv (fun w => { w with lanes := ls }) v := fun j v => ⟨_, rfl⟩
  obtain ⟨v, hv⟩ : ∃ v, each (fun k s => updLane k (f k) (sendBlocks k (B k) s)) [0, 1, 2, 3] s = v := ⟨_, rfl⟩
  have lanes : ∀ k, k < 4 → sentBlocks v k = B k ∧ ∃ l, laneAt v k = f k l := by
    intro k hk
    rw [← hv]
    have : k = 0 ∨ k = 1 ∨ k = 2 ∨ k = 3 := by omega
    show sentBlocks (updLane 3 (f 3) (sendBlocks 3 (B 3) (updLane 2 (f 2) (sendBlocks 2 (B 2) (updLane 1 (f 1) (sendBlocks 1 (B 1) (updLane 0 (f 0) (sendBlocks 0 (B 0) s)))))))) k = B k
      ∧ ∃ l, laneAt (updLane 3 (f 3) (sendBlocks 3 (B 3) (updLane 2 (f 2) (sendBlocks 2 (B 2) (updLane 1 (f 1) (sendBlocks 1 (B 1) (updLane 0 (f 0) (sendBlocks 0 (B 0) s)))))))) k = f k l
    rcases this with rfl | rfl | rfl | rfl
    · refine ⟨by rw [st, if_neg (by decide), st, if_neg (by decide), st, if_neg (by decide), st, if_pos rfl], ?_⟩
      rw [sl _ _ _ (by decide), sl _ _ _ (by decide), sl _ _ _ (by decide), laneAt_updLane, if_pos rfl]; exact ⟨_, rfl⟩
    · refine ⟨by rw [st, if_neg (by decide), st, if_neg (by decide), st, if_pos rfl], ?_⟩
      rw [sl _ _ _ (by decide), sl _ _ _ (by decide), laneAt_updLane, if_pos rfl]; exact ⟨_, rfl⟩
    · refine ⟨by rw [st, if_neg (by decide), st, if_pos rfl], ?_⟩
      rw [sl _ _ _ (by decide), laneAt_updLane, if_pos rfl]; exact ⟨_, rfl⟩
    · refine ⟨by rw [st, if_pos rfl], ?_⟩
      rw [laneAt_updLane, if_pos rfl]; exact ⟨_, rfl⟩
  obtain ⟨ls, hl⟩ : ∃ ls, v = updWrv (fun w => { w with lanes := ls }) s := by
    rw [← hv]
    obtain ⟨l0, h0⟩ := su 0 s
    obtain ⟨l1, h1⟩ := su 1 (updWrv (fun w => { w with lanes := l0 }) s)
    obtain ⟨l2, h2⟩ := su 2 (updWrv (fun w => { w with lanes := l1 }) (updWrv (fun w => { w with lanes := l0 }) s))
    obtain ⟨l3, h3⟩ := su 3 (updWrv (fun w => { w with lanes := l2 }) (updWrv (fun w => { w with lanes := l1 }) (updWrv (fun w => { w with lanes := l0 }) s)))
    refine ⟨l3, ?_⟩
    show updLane 3 (f 3) (sendBlocks 3 (B 3) (updLane 2 (f 2) (sendBlocks 2 (B 2) (updLane 1 (f 1) (sendBlocks 1 (B 1) (updLane 0 (f 0) (sendBlocks 0 (B 0) s))))))) = _
    have two : ∀ a b v, updWrv (fun w => { w with lanes := b }) (updWrv (fun w => { w with lanes := a }) v) = updWrv (fun w => { w with lanes := b }) v := fun _ _ _ => rfl
    rw [h0, h1, h2, h3, two, two, two]
  refine ⟨ls, hv.trans hl, fun k hk => ?_⟩
  have := lanes k hk
  rw [hl] at this
  exact this

/-- The blocks of one lane frame (R200): the frame's own, then one for each channel of the lane. -/
def frameBlocks (period t n : Nat) (s : State) (k : Nat) : List (Bool × Nat) :=
  control 0x1E (period * 2 ^ 24 + t / deviceCycle % 2 ^ 16 * 2 ^ 8 + t % deviceCycle / launchStep) :: (linkChannels k).map (channelBlock s n)

theorem sendFrame_spec (period t n : Nat) (s : State) :
    ∃ ls, sendFrame period t n s = updWrv (fun w => { w with
        lanes := ls, flux := fluxAfter s n, acc := w.acc + frameTime - n * period, launchAt := (t + n * period) % (deviceCycle * 65536)
        fillPhase := if w.inSpan then (w.fillPhase + n) % 8 else w.fillPhase, left := w.left - n, bits := w.bits.map fun (p, b) => (p, b.drop n) }) s
      ∧ ∀ k, k < 4 → ((AMap.getD ls k {}).blocks.map fun b => (b.1, b.2.1)) = frameBlocks period t n s k := by
  obtain ⟨ls, h1, h2⟩ := each_lane (frameBlocks period t n s) (fun k l => { l with gated := ((linkChannels k).filter (gatedChan s)).length }) (fun _ _ => rfl) s
  refine ⟨ls, ?_, fun k hk => (h2 k hk).1⟩
  exact congrArg (updWrv (fun w => { w with
    flux := fluxAfter s n
    acc := w.acc + frameTime - n * period
    launchAt := (t + n * period) % (deviceCycle * 65536)
    fillPhase := if w.inSpan then (w.fillPhase + n) % 8 else w.fillPhase
    left := w.left - n
    bits := w.bits.map fun (p, b) => (p, b.drop n) })) h1

theorem gateOff_spec (s : State) :
    ∃ ls, gateOff s = inc 0x060114 (updWrv (fun w => { w with
        lanes := ls, lastClock := s.srv.clock, lastCause := causeBits s, slotLost := w.slotLost || (w.windowOpen && decide (w.slot < 396)) }) s)
      ∧ ∀ k, k < 4 → ((AMap.getD ls k {}).blocks.map fun b => (b.1, b.2.1)) = [control 0x2D (causeBits s * 2 ^ 48 + s.srv.clock % 2 ^ 40)] ∧ (AMap.getD ls k {}).gated = 0 := by
  obtain ⟨ls, h1, h2⟩ := each_lane (fun _ => [control 0x2D (causeBits s * 2 ^ 48 + s.srv.clock % 2 ^ 40)]) (fun _ l => { l with gateOffSent := true, gated := 0 }) (fun _ _ => rfl) s
  refine ⟨ls, ?_, fun k hk => ⟨(h2 k hk).1, ?_⟩⟩
  · exact congrArg (fun v => inc 0x060114 (updWrv (fun w => { w with lastClock := s.srv.clock, lastCause := causeBits s, slotLost := w.slotLost || (w.windowOpen && decide (w.slot < 396)) }) v)) h1
  · obtain ⟨l, hl⟩ := (h2 k hk).2
    rw [hl]

/-- The end of a row slot that is not lost: the next slot follows, with its rows counted (R206). -/
theorem endSlot_spec (s : State) (h1 : s.wrv.slot < 396) (h2 : s.wrv.slotLost = false) (h3 : gateOpen s = true) :
    ∃ r n, endSlot s = updWrv (fun w => { w with rowCopies := r, slot := w.slot + 1, slotLoaded := false, left := 0, bits := [], resuming := false, slotLost := false }) (addCtr 0x060100 n s) := by
  unfold endSlot
  rw [if_neg (by omega)]
  dsimp only
  rw [h2, h3]
  exact ⟨_, _, rfl⟩

theorem endSlot_slotState (s : State) (h : s.wrv.slot < 396) :
    (endSlot s).wrv.slotLoaded = false ∧ (endSlot s).wrv.left = 0 ∧ (endSlot s).wrv.resuming = false ∧ (endSlot s).wrv.slotLost = false := by
  unfold endSlot
  rw [if_neg (by omega)]
  exact ⟨rfl, rfl, rfl, rfl⟩

theorem loadSlot_keeps (s : State) :
    (loadSlot s).srv = s.srv ∧ (loadSlot s).wrv.slot = s.wrv.slot ∧ (loadSlot s).wrv.slotLost = s.wrv.slotLost ∧ gateOpen (loadSlot s) = gateOpen s
      ∧ (loadSlot s).wrv.placements = s.wrv.placements := by
  unfold loadSlot
  split
  · exact ⟨rfl, rfl, rfl, rfl, rfl⟩
  · split
    · exact ⟨rfl, rfl, rfl, rfl, rfl⟩
    · exact ⟨rfl, rfl, rfl, rfl, rfl⟩

end Sys2Proof.Machine
end

