-- ==== Sys2Proof/Laws/Place.lean ====
section
/-!
SUPPORT. Where data sets are laid on tape: what the plan of a placement reads and what it leaves, the window's opening and its end,
and what a verdict does to the copies of a row.
-/

namespace Sys2Proof.Machine

theorem spansOf_congr {s t : State} (h : t.cart.spans = s.cart.spans) (w : Nat) : spansOf t w = spansOf s w := by
  unfold spansOf; rw [h]

theorem zoneOf_congr {s t : State} (h : t.cart.zone = s.cart.zone) (w : Nat) : zoneOf t w = zoneOf s w := by
  unfold zoneOf; rw [h]

theorem posPlace_congr {s t : State} (h : t.cart.zone = s.cart.zone) (n w i : Nat) : posPlace t n w i = posPlace s n w i := by
  have k : ∀ w, wrapPositions t w = wrapPositions s w := by
    intro w; unfold wrapPositions wrapExcluded; rw [zoneOf_congr h]
  induction n generalizing w i with
  | zero => rfl
  | succ n ih => unfold posPlace; rw [k, ih]

/-- The place of a partition's next data set depends on the partition, the Zone Table and the keep-out lists alone. -/
theorem positionAt_congr {s t : State} {p : Nat} (hp : partAt t p = partAt s p) (hz : t.cart.zone = s.cart.zone) (hs : t.cart.spans = s.cart.spans) (i : Nat) :
    positionAt t p i = positionAt s p i := by
  unfold positionAt wrapClass
  simp only [hp, posPlace_congr hz, zoneOf_congr hz, spansOf_congr hs]

theorem addPlacement_wrv (x : Placement) (s : State) : ∃ keep, (addPlacement x s).wrv
    = { s.wrv with placements := keep ++ [x], slot := 0, slotLost := false, slotLoaded := false, resuming := false, bits := [] } :=
  ⟨_, (placeEntries_frame ..).same .wrv rfl⟩

/-- What the beginning of a data set leaves (R157): the image is placed last, at its position, and the partition's next position follows. -/
theorem placeNext_spec {s : State} {p : Nat} {img : Image} {w a len : Nat} (h1 : nextImage s p = some img) (h2 : (partAt s p).writeStopped = false)
    (h3 : placeable s img = true) (h4 : positionAt s p (partAt s p).nextPos = some (w, a, len)) :
    ∃ t, placeNext p s = some t
      ∧ t.wrv.windowOpen = s.wrv.windowOpen ∧ t.wrv.windowPart = s.wrv.windowPart ∧ t.wrv.parked = s.wrv.parked ∧ t.wrv.setPoint = s.wrv.setPoint
      ∧ t.wrv.slot = 0 ∧ t.wrv.images = dropFirst (fun i => i.part == p) s.wrv.images
      ∧ (partAt t p).nextPos = (partAt s p).nextPos + 1
      ∧ ∃ x, t.wrv.placements.getLast? = some x ∧ x.img = { img with tries := img.tries + 1 } ∧ x.wrap = w ∧ x.start = a
        ∧ x.cls = wrapClass s w ∧ x.complete = false ∧ x.abandoned = false := by
  unfold placeNext
  rw [h1]
  dsimp only
  rw [if_neg (by simp [h2, h3]), h4]
  dsimp only
  refine ⟨_, rfl, ?_⟩
  rw [show ∀ q y v, (planEnd q y v).wrv = v.wrv from fun q y v => (planEnd_frame q y v).same .wrv rfl,
    show ∀ q y v, partAt (planEnd q y v) p = partAt v p from fun q y v => congrArg (fun m => (AMap.getD m p {} : Part)) ((planEnd_frame q y v).same .parts rfl),
    show ∀ y v, partAt (addPlacement y v) p = partAt v p from fun y v => congrArg (fun m => (AMap.getD m p {} : Part)) ((addPlacement_frame y v).same .parts rfl)]
  generalize hu : updPart p _ _ = u
  have e1 : u.wrv = { s.wrv with images := dropFirst (fun i => i.part == p) s.wrv.images, carry := s.wrv.carry.filter fun c => c.1 != p } := by rw [← hu]; rfl
  have e2 : (partAt u p).nextPos = (partAt s p).nextPos + 1 := by
    rw [← hu]
    show (AMap.getD (AMap.set s.parts p _) p {} : Part).nextPos = _
    rw [AMap.getD_set_self]
    rfl
  obtain ⟨keep, hk⟩ := addPlacement_wrv _ u
  rw [hk, e1, e2]
  exact ⟨rfl, rfl, rfl, rfl, rfl, rfl, rfl, _, List.getLast?_concat, rfl, rfl, rfl, rfl, rfl, rfl⟩

theorem inc_only (n : Nat) (s : State) : ∃ c, inc n s = { s with ctrs := c } := ⟨_, rfl⟩

/-- The window's closing (R215): each lane has the IDLE block and no gate of a lane is open. -/
theorem sendIdle_spec (s : State) : ∃ ls, sendIdle s = updWrv (fun w => { w with lanes := ls }) s
    ∧ ∀ k, k < 4 → ((AMap.getD ls k {}).blocks.map fun b => (b.1, b.2.1)) = [control 0x33 0] ∧ (AMap.getD ls k {}).gated = 0 := by
  have st : ∀ k j v, sentBlocks (updLane j (fun l => { l with gated := 0 }) (sendBlocks j [control 0x33 0] v)) k = if k = j then [control 0x33 0] else sentBlocks v k := by
    intro k j v
    have := sentBlocks_sendBlocks k j [control 0x33 0] v
    unfold sentBlocks at this ⊢
    rw [laneAt_updLane]
    split
    · next h => rw [if_pos h] at this; exact this
    · next h => rw [if_neg h] at this; exact this
  obtain ⟨ls, h1, h2⟩ := each_lane (fun _ => [control 0x33 0]) (fun _ l => { l with gated := 0 }) (fun _ _ => rfl) s
  refine ⟨ls, h1, fun k hk => ⟨(h2 k hk).1, ?_⟩⟩
  obtain ⟨l, hl⟩ := (h2 k hk).2
  rw [hl]

/-- What the end of a window that closed between data sets leaves. -/
theorem endWindow_spec (why : Nat) (s : State) (h : 396 ≤ s.wrv.slot) :
    (endWindow why s).wrv.windowOpen = false ∧ (why = 1 → (endWindow why s).wrv.parked = true) ∧ (endWindow why s).wrv.images = s.wrv.images
      ∧ ∀ k, k < 4 → sentBlocks (endWindow why s) k = [control 0x33 0] ∧ (laneAt (endWindow why s) k).gated = 0 := by
  unfold endWindow
  dsimp only
  rw [show decide (s.wrv.slot < 396) = false from decide_eq_false (by omega)]
  simp only [Bool.false_eq_true, if_false]
  obtain ⟨ls, e1, e2⟩ := sendIdle_spec (updWrv (fun w => { w with windowOpen := false, inSpan := false, resuming := false, slotLost := false, left := 0, bits := [], slotLoaded := false }) s)
  rw [e1]
  generalize hu : updWrv (fun w => { w with lanes := ls }) _ = u
  have hv : ∀ v : State, (v.wrv = u.wrv ∨ v.wrv = { u.wrv with parked := true }) → (why = 1 → v.wrv.parked = true) → ∀ b : Bool,
      (releaseHeld (updWrv (fun w => { w with begun := b }) v)).wrv.windowOpen = false
      ∧ (why = 1 → (releaseHeld (updWrv (fun w => { w with begun := b }) v)).wrv.parked = true)
      ∧ (releaseHeld (updWrv (fun w => { w with begun := b }) v)).wrv.images = s.wrv.images
      ∧ ∀ k, k < 4 → sentBlocks (releaseHeld (updWrv (fun w => { w with begun := b }) v)) k = [control 0x33 0]
        ∧ (laneAt (releaseHeld (updWrv (fun w => { w with begun := b }) v)) k).gated = 0 := by
    intro v hv hp b
    unfold sentBlocks laneAt
    rw [(releaseHeld_frame _).same .wrv rfl]
    have q : v.wrv.windowOpen = false ∧ v.wrv.images = s.wrv.images ∧ v.wrv.lanes = ls := by
      rcases hv with hv | hv <;> (rw [hv, ← hu]; exact ⟨rfl, rfl, rfl⟩)
    refine ⟨q.1, hp, q.2.1, fun k hk => ?_⟩
    show ((AMap.getD v.wrv.lanes k {}).blocks.map fun b => (b.1, b.2.1)) = _ ∧ (AMap.getD v.wrv.lanes k {}).gated = 0
    rw [q.2.2]
    exact e2 k hk
  split
  · next k => exact hv _ (.inr (congrArg (fun w : Wrv => { w with parked := true }) ((post_frame ..).same .wrv rfl))) (fun _ => rfl) _
  · next k =>
    split
    · refine hv _ (.inl ?_) (fun c => absurd c k) _
      rw [(afterWrap_frame ..).same .wrv rfl, (saveImages_frame _).same .wrv rfl, (writeControl_frame ..).same .wrv rfl]
    · exact hv _ (.inl rfl) (fun c => absurd c k) _

/-- The Stalls' operations count nothing but their own errors and contentions, and what the management mailbox drops. -/
structure OtherCounts (s t : State) : Prop where
  same : ∀ c, c ≠ 0x020008 → c ≠ 0x02001C → c ≠ 0x110020 → ctr t c = ctr s c

theorem OtherCounts.refl (s : State) : OtherCounts s s := ⟨fun _ _ _ _ => rfl⟩

theorem OtherCounts.trans {s t u : State} (h : OtherCounts s t) (k : OtherCounts t u) : OtherCounts s u :=
  ⟨fun c h1 h2 h3 => (k.same c h1 h2 h3).trans (h.same c h1 h2 h3)⟩

theorem OtherCounts.of_ctrs {s t : State} (h : t.ctrs = s.ctrs) : OtherCounts s t := by
  refine ⟨fun c _ _ _ => ?_⟩; unfold ctr; rw [h]

theorem OtherCounts.of_frame {s t : State} (h : Frame 0x10 s t) : OtherCounts s t := .of_ctrs (h.same .ctrs rfl)

theorem OtherCounts.each {α : Type} (f : α → State → State) (h : ∀ a s, OtherCounts s (f a s)) (l : List α) (s : State) : OtherCounts s (each f l s) := by
  induction l generalizing s with
  | nil => exact .refl s
  | cons a l ih => exact (h a s).trans (ih _)

theorem pushMgt_counts (m : Mail) (s : State) : OtherCounts s (pushMgt m s) := by
  unfold pushMgt
  split
  · exact ⟨fun c _ _ h3 => by rw [ctr_inc, if_neg h3]⟩
  · exact .of_ctrs rfl

theorem badFree_counts (k r n : Nat) (s : State) : OtherCounts s (badFree k r n s) := by
  unfold badFree postEvent
  refine OtherCounts.trans ?_ (pushMgt_counts ..)
  refine ⟨fun c h1 _ _ => ?_⟩
  rw [ctr_inc, if_neg h1]
  rfl

theorem giveBack_counts (r : Nat) (h : Handle) (s : State) : OtherCounts s (giveBack r h s) := by
  unfold giveBack freeOne
  split
  · exact badFree_counts ..
  · exact .of_frame (freeHeld_frame ..)

theorem newRequests_counts (l : List StallReq) (s : State) : OtherCounts s (newRequests l s) := by
  have k : ∀ (bs : List Nat) (a : Bool × State), OtherCounts a.2 (bs.foldl (fun a b => let r := requestsFor b l a.2; (a.1 || r.1, r.2)) a).2 := by
    intro bs
    induction bs with
    | nil => exact fun a => .refl _
    | cons b bs ih => exact fun a => OtherCounts.trans (OtherCounts.of_frame (requestsFor_frame b l a.2)) (ih (a.1 || (requestsFor b l a.2).1, (requestsFor b l a.2).2))
  unfold newRequests
  have := k (List.range 8) (false, s)
  dsimp only at this ⊢
  split
  · refine OtherCounts.trans this ?_
    exact ⟨fun c _ h2 _ => by rw [ctr_inc, if_neg h2]⟩
  · exact this

theorem acquireFrom_counts (most r b n f : Nat) (s : State) : OtherCounts s (acquireFrom most r b n f s).2 := by
  induction f generalizing s with
  | zero => exact .refl s
  | succ f ih =>
    unfold acquireFrom
    dsimp only
    split
    · exact OtherCounts.trans (t := { s with stk := { s.stk with granted := AMap.erase s.stk.granted r } }) (.of_ctrs rfl) (.each _ (giveBack_counts r) _ _)
    · split
      · exact .refl s
      · exact OtherCounts.trans (OtherCounts.trans (t := { s with stk := { s.stk with asking := AMap.set s.stk.asking r () } }) (.of_ctrs rfl) (newRequests_counts ..)) (ih _)

theorem acquireOne_counts (r b : Nat) (s : State) : OtherCounts s (acquireOne r b s).2 := by
  have k := acquireFrom_counts 128 r b 1 3 s
  unfold acquireOne acquire
  revert k
  generalize acquireFrom 128 r b 1 3 s = o
  intro k
  split <;> exact k

/-- A data set that is written again (R214): counted, its image first in the queue, its placement abandoned. -/
theorem writtenAgain_spec {i : Nat} {x : Placement} {s : State} (h : s.wrv.placements[i]? = some x) (h1 : x.complete = false) (h2 : x.abandoned = false)
    (h3 : x.img.kind ≠ 3) :
    ctr (writtenAgain i s) 0x06010C = satAdd (ctr s 0x06010C) 1
      ∧ (writtenAgain i s).wrv = { s.wrv with
          placements := s.wrv.placements.modify i fun y => { y with abandoned := true, stalls := [], img := { y.img with stalls := [] } }
          carry := s.wrv.carry.filter fun c => !(c.1 == x.img.part && c.2.1 == x.img.ds)
          images := { x.img with copy := if x.img.copy = 2 then 2 else 1 } :: s.wrv.images } := by
  unfold writtenAgain
  rw [h]
  dsimp only
  rw [if_neg (by simp [h1, h2]), if_neg h3]
  have gw : ∀ (hs : List Handle) (v : State), (each (giveBack 0x14) hs v).wrv = v.wrv := by
    intro hs
    induction hs with
    | nil => exact fun v => rfl
    | cons a hs ih => exact fun v => (ih _).trans ((giveBack_frame ..).same .wrv rfl)
  refine ⟨?_, ?_⟩
  · rw [ctr_inc, if_pos rfl, ctr_inc, if_neg (by decide)]
    exact congrArg (fun n => satAdd n 1) ((OtherCounts.each _ (giveBack_counts 0x14) _ _).same _ (by decide) (by decide) (by decide))
  · have e := gw (x.stalls.map Prod.snd) (updPlace i (fun y => { y with abandoned := true, stalls := [], img := { y.img with stalls := [] } }) s)
    show ({ (each (giveBack 0x14) (x.stalls.map Prod.snd) (updPlace i (fun y => { y with abandoned := true, stalls := [], img := { y.img with stalls := [] } }) s)).wrv with
      carry := _, images := _ } : Wrv) = _
    rw [e]
    rfl

/-- A placement without what its rows' verdicts alone change. -/
def Placement.plan (x : Placement) : Placement := { x with judged := [], copies := [], stalls := [] }

/-- Two states that hold the same placements, but for what the rows' verdicts change. -/
def SamePlans (s t : State) : Prop := t.wrv.placements.map Placement.plan = s.wrv.placements.map Placement.plan

theorem SamePlans.get {s t : State} (h : SamePlans s t) {i : Nat} {x : Placement} (k : s.wrv.placements[i]? = some x) :
    ∃ y, t.wrv.placements[i]? = some y ∧ y.plan = x.plan := by
  have := congrArg (fun l => l[i]?) h
  simp only [List.getElem?_map, k, Option.map_some] at this
  cases e : t.wrv.placements[i]? with
  | none => rw [e] at this; cases this
  | some y => rw [e] at this; exact ⟨y, rfl, Option.some.inj this⟩

theorem SamePlans.trans {s t u : State} (h : SamePlans s t) (k : SamePlans t u) : SamePlans s u := Eq.trans k h

theorem map_modify_same {α β : Type} (f : α → β) (g : α → α) (h : ∀ x, f (g x) = f x) (l : List α) (i : Nat) : (l.modify i g).map f = l.map f := by
  induction l generalizing i with
  | nil => cases i <;> rfl
  | cons a l ih =>
    cases i with
    | zero => simp [h]
    | succ i => simp [ih]

theorem updPlace_plans (i : Nat) (f : Placement → Placement) (h : ∀ x, (f x).plan = x.plan) (s : State) : SamePlans s (updPlace i f s) :=
  map_modify_same _ _ h _ _

theorem reserveSlot_plan {x y : Placement} (h : y.plan = x.plan) (t e g c : Nat) : reserveSlot y t e g c = reserveSlot x t e g c := by
  have h1 : y.slots = x.slots := (congrArg Placement.slots h : y.plan.slots = x.plan.slots)
  have h2 : y.claims = x.claims := (congrArg Placement.claims h : y.plan.claims = x.plan.claims)
  have h3 : y.carry = x.carry := (congrArg Placement.carry h : y.plan.carry = x.plan.carry)
  unfold reserveSlot
  rw [h1, h2, h3]

theorem holdRewrite_spec (own row : Nat) (s : State) :
    SamePlans s (holdRewrite own row s) ∧ OtherCounts s (holdRewrite own row s)
      ∧ (∃ pl, (holdRewrite own row s).wrv = { s.wrv with placements := pl }) ∧ Frame 0x24090 s (holdRewrite own row s) := by
  unfold holdRewrite
  split
  · exact ⟨rfl, .refl s, ⟨_, rfl⟩, .refl ..⟩
  · have k1 := acquireOne_counts 0x14 3 s
    have k2 := acquireOne_frame 0x14 3 s
    have k3 : (acquireOne 0x14 3 s).2.wrv = s.wrv := k2.same .wrv rfl
    revert k1 k2 k3
    generalize acquireOne 0x14 3 s = o
    obtain ⟨_ | h, u⟩ := o
    all_goals
      dsimp only
      intro k1 k2 k3
    · exact ⟨congrArg (fun w : Wrv => w.placements.map Placement.plan) k3, k1, ⟨s.wrv.placements, k3⟩, k2.mono rfl⟩
    · refine ⟨SamePlans.trans (t := u) (congrArg (fun w : Wrv => w.placements.map Placement.plan) k3) (updPlace_plans _ (fun x => { x with stalls := AMap.set x.stalls row h }) (fun _ => rfl) _), OtherCounts.trans k1 (.of_ctrs rfl), ⟨u.wrv.placements.modify own fun x => { x with stalls := AMap.set x.stalls row h }, ?_⟩, ?_⟩
      · show ({ u.wrv with placements := u.wrv.placements.modify own fun x => { x with stalls := AMap.set x.stalls row h } } : Wrv) = _
        rw [k3]
      · exact Frame.andThen (k2.mono rfl) (updPlace_frame ..) rfl

theorem copyKey_inj {c k j : Nat} (h : copyKey c k = copyKey c j) : k = j := by unfold copyKey at h; omega

theorem reserveSlot_le {x : Placement} {t e g c k : Nat} (h : reserveSlot x t e g c = some k) : e ≤ k := by
  have m := List.mem_of_find?_eq_some h
  obtain ⟨i, hi, rfl⟩ := List.mem_iff_getElem.1 m
  simp only [List.getElem_drop, List.getElem_range]
  omega

theorem writtenAgain_slots (i : Nat) (s : State) : ∀ (phys k : Nat) (v : Nat × Nat),
    (s.wrv.placements[phys]?).any (fun (z : Placement) => AMap.get? z.slots k == some v) = true →
    ((writtenAgain i s).wrv.placements[phys]?).any (fun (z : Placement) => AMap.get? z.slots k == some v) = true := by
  intro phys k v h
  have gw : ∀ (q : Nat) (hs : List Handle) (v : State), (each (giveBack q) hs v).wrv = v.wrv := by
    intro q hs
    induction hs with
    | nil => exact fun v => rfl
    | cons a hs ih => exact fun v => (ih _).trans ((giveBack_frame ..).same .wrv rfl)
  have um : ∀ (f : Placement → Placement) (u : State), (∀ z, (f z).slots = z.slots) → u.wrv = s.wrv →
      (((updPlace i f u).wrv.placements[phys]?).any fun (z : Placement) => AMap.get? z.slots k == some v) = true := by
    intro f u hf hu
    show (((u.wrv.placements.modify i f)[phys]?).any fun (z : Placement) => AMap.get? z.slots k == some v) = true
    rw [hu, List.getElem?_modify]
    cases e : s.wrv.placements[phys]? with
    | none => rw [e] at h; cases h
    | some z =>
      rw [e] at h
      simp only [Option.any_some] at h
      by_cases c : i = phys <;> simp [c, hf] <;> simpa using h
  unfold writtenAgain
  split
  · exact h
  · split
    · exact h
    · dsimp only
      split
      · rw [(directoryFails_frame ..).same .wrv rfl, gw, gw]
        exact um _ s (fun _ => rfl) rfl
      · show (((each (giveBack 0x14) _ _).wrv.placements[phys]?).any _) = true
        rw [gw]
        exact um _ s (fun _ => rfl) rfl

/-- What a row's copy takes of a reserve it keeps while the displaced copies are placed behind it (R210). -/
theorem placeCopy_keeps (f own phys row target edge chan earliest : Nat) (s : State) {j : Nat} (hj : j < earliest) (v : Nat × Nat)
    (h : (s.wrv.placements[phys]?).any (fun (z : Placement) => AMap.get? z.slots (copyKey target j) == some v) = true) :
    ((placeCopy f own phys row target edge chan earliest s).wrv.placements[phys]?).any (fun (z : Placement) => AMap.get? z.slots (copyKey target j) == some v) = true := by
  induction f generalizing own row edge chan earliest s with
  | zero => exact h
  | succ f ih =>
    unfold placeCopy
    split
    · next x y hx hy =>
      split
      · next k hk =>
        have le := reserveSlot_le hk
        have h1 : ((updPlace phys (fun y => { y with slots := AMap.set y.slots (copyKey target k) (x.img.ds, row), claims := AMap.set y.claims (copyKey target k) (edge, chan) }) s).wrv.placements[phys]?).any
            (fun (z : Placement) => AMap.get? z.slots (copyKey target j) == some v) = true := by
          show (((s.wrv.placements.modify phys _)[phys]?).any _) = true
          rw [List.getElem?_modify, hy]
          rw [hy] at h
          simp only [Option.any_some] at h
          simp only [if_pos, Option.map_eq_map, Option.map_some, Option.any_some]
          rw [AMap.get?_set_of_ne _ _ (fun c => by have := copyKey_inj c; omega)]
          exact h
        dsimp only
        split
        · split
          · rw [(schedule_frame ..).same .wrv rfl]; exact h1
          · exact h1
        · split
          · exact ih _ _ _ _ (k + 1) _ (by omega) h1
          · exact h1
      · dsimp only
        split
        · exact writtenAgain_slots _ _ _ _ _ h
        · exact h
    · exact h

theorem placementComplete_wrv (i : Nat) (s : State) : (placementComplete i s).wrv = s.wrv
    ∨ (placementComplete i s).wrv = { s.wrv with placements := s.wrv.placements.modify i fun y => { y with complete := true, img := { y.img with stalls := [] } } } := by
  have gw : ∀ (hs : List Handle) (v : State), (each (giveBack 0x0C) hs v).wrv = v.wrv := by
    intro hs
    induction hs with
    | nil => exact fun v => rfl
    | cons a hs ih => exact fun v => (ih _).trans ((giveBack_frame ..).same .wrv rfl)
  unfold placementComplete
  split
  · exact .inl rfl
  · dsimp only
    split
    · exact .inr (gw _ _)
    · refine .inr ?_
      rw [(saveDirectory_frame ..).same .wrv rfl, (closeLoft_frame ..).same .wrv rfl]
      split
      · rw [(reallocated_frame ..).same .wrv rfl]; exact gw _ _
      · exact gw _ _

/-- A verdict that passes marks the row of its data set (R209), and counts against no channel. -/
theorem rowPasses_spec {i row : Nat} {x : Placement} {s : State} (h : s.wrv.placements[i]? = some x) :
    ((rowPasses i row s).wrv.placements[i]?).any (fun z => mem? z.passed row) = true ∧ (rowPasses i row s).wrv.fails = s.wrv.fails ∧ (rowPasses i row s).wrv.carry = s.wrv.carry := by
  have k : ∀ v : State, ((freeRewrite i row v).wrv = v.wrv ∨ (freeRewrite i row v).wrv = { v.wrv with placements := v.wrv.placements.modify i fun x => { x with stalls := AMap.erase x.stalls row } }) := by
    intro v
    unfold freeRewrite
    split
    · exact .inr ((giveBack_frame ..).same .wrv rfl)
    · exact .inl rfl
  have m : ∀ (pl : List Placement) (f : Placement → Placement), (∀ z, (f z).passed = z.passed) → (pl[i]?).any (fun z => mem? z.passed row) = true →
      ((pl.modify i f)[i]?).any (fun z => mem? z.passed row) = true := by
    intro pl f hf hp
    rw [List.getElem?_modify]
    cases e : pl[i]? with
    | none => rw [e] at hp; cases hp
    | some z => rw [e] at hp; simpa [hf] using hp
  have h0 : ((updPlace i (fun x => { x with passed := AMap.set x.passed row () }) s).wrv.placements[i]?).any (fun z => mem? z.passed row) = true := by
    show (((s.wrv.placements.modify i _)[i]?).any _) = true
    rw [List.getElem?_modify, h]
    simp [mem?, AMap.get?_set_self]
  have h1 : ((freeRewrite i row (updPlace i (fun x => { x with passed := AMap.set x.passed row () }) s)).wrv.placements[i]?).any (fun z => mem? z.passed row) = true
      ∧ (freeRewrite i row (updPlace i (fun x => { x with passed := AMap.set x.passed row () }) s)).wrv.fails = s.wrv.fails
      ∧ (freeRewrite i row (updPlace i (fun x => { x with passed := AMap.set x.passed row () }) s)).wrv.carry = s.wrv.carry := by
    rcases k (updPlace i (fun x => { x with passed := AMap.set x.passed row () }) s) with e | e
    · rw [e]; exact ⟨h0, rfl, rfl⟩
    · rw [e]; exact ⟨m _ _ (fun _ => rfl) h0, rfl, rfl⟩
  unfold rowPasses
  dsimp only
  generalize freeRewrite i row (updPlace i (fun x => { x with passed := AMap.set x.passed row () }) s) = u at *
  split
  · split
    · rcases placementComplete_wrv i u with e | e
      · rw [e]; exact h1
      · rw [e]; exact ⟨m _ _ (fun _ => rfl) h1.1, h1.2⟩
    · exact h1
  · exact h1

theorem writtenAgain_keeps (i : Nat) (s : State) : (writtenAgain i s).wrv.fails = s.wrv.fails ∧ (writtenAgain i s).wrv.windowOpen = s.wrv.windowOpen := by
  have gw : ∀ (q : Nat) (hs : List Handle) (v : State), (each (giveBack q) hs v).wrv = v.wrv := by
    intro q hs
    induction hs with
    | nil => exact fun v => rfl
    | cons a hs ih => exact fun v => (ih _).trans ((giveBack_frame ..).same .wrv rfl)
  unfold writtenAgain
  split
  · exact ⟨rfl, rfl⟩
  · split
    · exact ⟨rfl, rfl⟩
    · dsimp only
      split
      · rw [(directoryFails_frame ..).same .wrv rfl, gw, gw]; exact ⟨rfl, rfl⟩
      · show (each (giveBack 0x14) _ _).wrv.fails = _ ∧ (each (giveBack 0x14) _ _).wrv.windowOpen = _
        rw [gw]
        exact ⟨rfl, rfl⟩

theorem placeCopy_fails (f own phys row target edge chan earliest : Nat) (s : State) : (placeCopy f own phys row target edge chan earliest s).wrv.fails = s.wrv.fails := by
  induction f generalizing own row edge chan earliest s with
  | zero => rfl
  | succ f ih =>
    unfold placeCopy
    split
    · split
      · dsimp only
        split
        · split
          · rw [(schedule_frame ..).same .wrv rfl]; rfl
          · rfl
        · split
          · rw [ih]; rfl
          · rfl
      · dsimp only
        split
        · exact (writtenAgain_keeps ..).1
        · rfl
    · rfl

/-- A window that ends is closed, and parked when it closed for want of data. -/
theorem endWindow_closes (why : Nat) (s : State) : (endWindow why s).wrv.windowOpen = false ∧ (why = 1 → (endWindow why s).wrv.parked = true) := by
  unfold endWindow
  dsimp only
  obtain ⟨ls, e1, _⟩ := sendIdle_spec (updWrv (fun w => { w with windowOpen := false, inSpan := false, resuming := false, slotLost := false, left := 0, bits := [], slotLoaded := false }) s)
  rw [e1]
  rw [(releaseHeld_frame _).same .wrv rfl]
  generalize hu : updWrv (fun w => { w with lanes := ls }) _ = u
  have u1 : u.wrv.windowOpen = false := by rw [← hu]; rfl
  have cut : ∀ v : State, (v = u ∨ ∃ i x n, v = writtenAgain i (requeueCarry x n u)) → v.wrv.windowOpen = false := by
    rintro v (rfl | ⟨i, x, n, rfl⟩)
    · exact u1
    · exact (writtenAgain_keeps ..).2.trans u1
  generalize hv : (if decide (s.wrv.slot < 396) = true then _ else u) = v
  have v1 : v.wrv.windowOpen = false := by
    refine cut v ?_
    rw [← hv]
    split
    · split
      · next i x _ => exact .inr ⟨i, x, _, rfl⟩
      · exact .inl rfl
    · exact .inl rfl
  split
  · next k => exact ⟨(congrArg Wrv.windowOpen ((post_frame ..).same .wrv rfl)).trans v1, fun _ => rfl⟩
  · next k =>
    refine ⟨?_, fun c => absurd c k⟩
    split
    · show (afterWrap _ _ _).wrv.windowOpen = false
      rw [(afterWrap_frame ..).same .wrv rfl, (saveImages_frame _).same .wrv rfl, (writeControl_frame ..).same .wrv rfl]
      exact v1
    · exact v1

theorem earliestSlot_congr {s t : State} {phys : Nat} {x y : Placement} (hx : s.wrv.placements[phys]? = some x) (hy : t.wrv.placements[phys]? = some y)
    (h : y.plan = x.plan) (h1 : t.srv = s.srv) (h2 : t.cart = s.cart) (h3 : t.wrv.windowOpen = s.wrv.windowOpen) (h4 : t.wrv.placements.length = s.wrv.placements.length) :
    earliestSlot t phys = earliestSlot s phys := by
  have p1 : y.wrap = x.wrap := (congrArg Placement.wrap h : y.plan.wrap = x.plan.wrap)
  have p2 : y.cls = x.cls := (congrArg Placement.cls h : y.plan.cls = x.plan.cls)
  have p3 : y.start = x.start := (congrArg Placement.start h : y.plan.start = x.plan.start)
  have sp : ∀ w, spansOf t w = spansOf s w := spansOf_congr (by rw [h2])
  have ip : (inProgress t).isSome = (inProgress s).isSome := by
    unfold inProgress
    rw [h3]
    split
    · have : ∀ l : List Placement, l.getLast?.isSome = decide (l.length ≠ 0) := by intro l; cases l <;> simp
      rw [this, this, h4]
    · rfl
  unfold earliestSlot
  rw [hx, hy]
  cases e1 : inProgress s <;> cases e2 : inProgress t
  · rfl
  · rw [e1, e2] at ip; cases ip
  · rw [e1, e2] at ip; cases ip
  · dsimp only
    rw [h4, h1, p1, p2, p3, sp]

/-- A directory copy is laid at its position of the partition's first wrap, under the next sequence (R148, R166). -/
theorem placeDirectory_spec {s : State} {p : Nat} {b : Bool} {a len : Nat} (h : nthPos 3 (spansOf s (partAt s p).firstWrap) (b2n b) 0 = some (a, len)) :
    (placeDirectory p b s).wrv.windowOpen = s.wrv.windowOpen ∧ (partAt (placeDirectory p b s) p).dir.seq = (partAt s p).dir.seq + 1
      ∧ ∃ x, (placeDirectory p b s).wrv.placements.getLast? = some x ∧ x.img.kind = 3 ∧ x.img.ds = (if b then 0xFFFFFFFF else 0xFFFFFFFE)
        ∧ x.wrap = (partAt s p).firstWrap ∧ x.start = a ∧ x.cls = 3 := by
  unfold placeDirectory
  dsimp only
  rw [h]
  dsimp only
  generalize hv : inc 0x050100 (updPart p (fun x => { x with dir := { x.dir with seq := x.dir.seq + 1 } }) s) = v
  have v1 : v.wrv = s.wrv ∧ (partAt v p).dir.seq = (partAt s p).dir.seq + 1 := by
    rw [← hv]
    refine ⟨rfl, ?_⟩
    show (AMap.getD (AMap.set s.parts p _) p {} : Part).dir.seq = _
    rw [AMap.getD_set_self]
  rw [(schedule_frame ..).same .wrv rfl, show ∀ k o p d r y q, partAt (schedule k o p d r y) q = partAt y q from fun k o p d r y q => congrArg (fun m => (AMap.getD m q {} : Part)) ((schedule_frame ..).same .parts rfl),
    show ∀ y u q, partAt (addPlacement y u) q = partAt u q from fun y u q => congrArg (fun m => (AMap.getD m q {} : Part)) ((addPlacement_frame ..).same .parts rfl)]
  refine ⟨?_, v1.2, ?_⟩
  · obtain ⟨keep, hk⟩ := addPlacement_wrv _ v
    rw [hk, v1.1]
  · obtain ⟨keep, hk⟩ := addPlacement_wrv _ v
    rw [hk]
    exact ⟨_, List.getLast?_concat, rfl, rfl, rfl, rfl, rfl⟩

theorem readSpeed_congr {s t : State} (h1 : t.cfg = s.cfg) (h2 : t.brd = s.brd) : readSpeed t = readSpeed s := by
  unfold readSpeed Cfgw.vMax Cfgw.wrvWord recWord
  rw [h1, h2]

theorem vMin_congr {s t : State} (h1 : t.cfg = s.cfg) : Cfgw.vMin t = Cfgw.vMin s := by
  unfold Cfgw.vMin Cfgw.wrvWord recWord
  rw [h1]

/-- Posting a set-point (R219): it is held where it is posted, and no other part of the writer changes. -/
theorem postSpeed_spec (v : Nat) (s : State) : Frame 0x2c080 s (postSpeed v s)
    ∧ (postSpeed v s).wrv = { s.wrv with setPoint := if 4 ≤ clockDist v s.wrv.setPoint ∨ v = Cfgw.vMin s ∨ v = readSpeed s then v else s.wrv.setPoint } := by
  unfold postSpeed
  split
  · have k := post_frame .bridle Src.wrv 0x0001 v s
    have kw : (post .bridle Src.wrv 0x0001 v s).wrv = s.wrv := k.same .wrv rfl
    refine ⟨(k.mono rfl).andThen (updWrv_frame _ _) rfl, ?_⟩
    show ({ (post .bridle Src.wrv 0x0001 v s).wrv with setPoint := v } : Wrv) = _
    rw [kw]
  · exact ⟨.refl _ _, rfl⟩

/-- What a data set boundary does before the next data set (R219): the pitch is noted, the data set counted and the set-point posted. -/
theorem boundarySpeed_spec (v dur : Nat) (s : State) :
    Frame 0x2c080 s (updWrv (fun w => { w with failDs := w.failDs + 1 }) (postSpeed v (notePitch dur s)))
      ∧ (updWrv (fun w => { w with failDs := w.failDs + 1 }) (postSpeed v (notePitch dur s))).wrv.setPoint
          = (if 4 ≤ clockDist v s.wrv.setPoint ∨ v = Cfgw.vMin s ∨ v = readSpeed s then v else s.wrv.setPoint)
      ∧ (updWrv (fun w => { w with failDs := w.failDs + 1 }) (postSpeed v (notePitch dur s))).wrv.windowOpen = s.wrv.windowOpen
      ∧ (updWrv (fun w => { w with failDs := w.failDs + 1 }) (postSpeed v (notePitch dur s))).wrv.windowPart = s.wrv.windowPart
      ∧ (updWrv (fun w => { w with failDs := w.failDs + 1 }) (postSpeed v (notePitch dur s))).wrv.images = s.wrv.images
      ∧ (updWrv (fun w => { w with failDs := w.failDs + 1 }) (postSpeed v (notePitch dur s))).wrv.placements = s.wrv.placements := by
  have n1 := notePitch_frame dur s
  have n2 : (notePitch dur s).wrv.setPoint = s.wrv.setPoint := rfl
  have n3 : (notePitch dur s).wrv.windowOpen = s.wrv.windowOpen := rfl
  have n4 : (notePitch dur s).wrv.windowPart = s.wrv.windowPart := rfl
  have n5 : (notePitch dur s).wrv.images = s.wrv.images := rfl
  have n6 : (notePitch dur s).wrv.placements = s.wrv.placements := rfl
  generalize notePitch dur s = z at *
  obtain ⟨k1, k2⟩ := postSpeed_spec v z
  rw [readSpeed_congr (s := s) (t := z) (n1.same .cfg rfl) (n1.same .brd rfl), vMin_congr (s := s) (t := z) (n1.same .cfg rfl), n2] at k2
  generalize postSpeed v z = y at *
  refine ⟨((n1.mono rfl).andThen k1 rfl).andThen (updWrv_frame _ _) rfl, ?_⟩
  show y.wrv.setPoint = _ ∧ y.wrv.windowOpen = _ ∧ y.wrv.windowPart = _ ∧ y.wrv.images = _ ∧ y.wrv.placements = _
  rw [k2]
  exact ⟨rfl, n3, n4, n5, n6⟩

end Sys2Proof.Machine
end

