-- ==== Sys2Proof/Laws/Sched.lean ====
section
/-!
SUPPORT. The position scheduler's table: an entry that is posted stands in it, and stays while others are posted; what a fired entry
leaves of it.
-/

namespace Sys2Proof.Machine

/-- Room for n more entries: the top n identifiers are not in use. -/
structure SchedRoom (n : Nat) (s : State) : Prop where
  free : ∀ j, 4096 - n ≤ j → j < 4096 → AMap.get? s.srv.sched j = none

theorem freeEntry_free {s : State} {j : Nat} (hj : j < 4096) (h : AMap.get? s.srv.sched j = none) :
    AMap.get? s.srv.sched (freeEntry s) = none ∧ freeEntry s ≤ j := by
  unfold freeEntry
  cases e : (List.range 4096).find? fun i => (AMap.get? s.srv.sched i).isNone with
  | none =>
    have := List.find?_eq_none.1 e j (List.mem_range.2 hj)
    rw [h] at this
    simp at this
  | some i =>
    refine ⟨by simpa using List.find?_some e, ?_⟩
    by_cases c : i ≤ j
    · exact c
    · obtain ⟨_, as, bs, hl, hn⟩ := List.find?_eq_some_iff_append.1 e
      have lt : j < i := by omega
      have hi : i < 4096 := List.mem_range.1 (List.mem_of_find?_eq_some e)
      have la : as.length = i := by
        have := congrArg (fun l => l[as.length]?) hl
        simp only [List.getElem?_append_right (Nat.le_refl _), Nat.sub_self, List.getElem?_cons_zero] at this
        have hlt : as.length < 4096 := by
          have := congrArg List.length hl
          simp only [List.length_range, List.length_append, List.length_cons] at this
          omega
        rw [List.getElem?_range hlt] at this
        exact Option.some.inj this
      have mj : j ∈ as := by
        have : (List.range 4096)[j]? = (as ++ i :: bs)[j]? := congrArg (fun l => l[j]?) hl
        rw [List.getElem?_range hj, List.getElem?_append_left (by omega)] at this
        exact List.mem_of_getElem? this.symm
      have := hn j mj
      rw [h] at this
      simp at this

theorem schedule_sched (k o p : Nat) (d : Bool) (a : Nat) (s : State) :
    (schedule k o p d a s).srv.sched = (if schedShare o ≤ ownedBy s o then s.srv.sched
      else AMap.set s.srv.sched (freeEntry s) ⟨p, d, k, o, 0, a, s.srv.schedOrd, s.srv.valid && reached s p d⟩) := by
  unfold schedule postSched
  split
  · rfl
  · rfl

theorem schedule_only (k o p : Nat) (d : Bool) (a : Nat) (s : State) : ∃ v c, schedule k o p d a s = { s with srv := v, ctrs := c }
    ∧ v.clock = s.srv.clock ∧ v.wrap = s.srv.wrap ∧ v.reverse = s.srv.reverse := by
  unfold schedule postSched
  split
  · exact ⟨_, _, rfl, rfl, rfl, rfl⟩
  · exact ⟨_, _, rfl, rfl, rfl, rfl⟩

/-- A posted entry stands in the table. -/
theorem schedule_stands {k o p : Nat} {d : Bool} {a : Nat} {s : State} (h : ownedBy s o < schedShare o) : Scheduled (schedule k o p d a s) k o p a := by
  refine ⟨freeEntry s, ⟨p, d, k, o, 0, a, s.srv.schedOrd, s.srv.valid && reached s p d⟩, ?_, ?_⟩
  · rw [schedule_sched, if_neg (by omega)]
    exact AMap.get?_set_self _ _ _
  · exact ⟨rfl, rfl, rfl, rfl⟩

/-- What stands in the table stays while another entry is posted. -/
theorem Scheduled.schedule {s : State} {k o p a : Nat} (h : Scheduled s k o p a) {n : Nat} (room : SchedRoom (n + 1) s) (k' o' p' : Nat) (d' : Bool) (a' : Nat) :
    Scheduled (schedule k' o' p' d' a' s) k o p a := by
  obtain ⟨i, e, hi, r⟩ := h
  refine ⟨i, e, ?_, r⟩
  rw [schedule_sched]
  split
  · exact hi
  · rw [AMap.get?_set_of_ne _ _ ?_]
    · exact hi
    · intro c
      have := (freeEntry_free (by omega) (room.free 4095 (by omega) (by omega))).1
      rw [c, hi] at this
      cases this

theorem SchedRoom.schedule {s : State} {n : Nat} (hn : n < 4096) (room : SchedRoom (n + 1) s) (k o p : Nat) (d : Bool) (a : Nat) : SchedRoom n (schedule k o p d a s) := by
  refine ⟨fun j h1 h2 => ?_⟩
  rw [schedule_sched]
  split
  · exact room.free j (by omega) h2
  · rw [AMap.get?_set_of_ne _ _ ?_]
    · exact room.free j (by omega) h2
    · have := (freeEntry_free (j := 4096 - (n + 1)) (by omega) (room.free _ (by omega) (by omega))).2
      omega

theorem filter_set_le {α : Type} (f : Nat × α → Bool) (m : AMap α) (i : Nat) (v : α) : ((AMap.set m i v).filter f).length ≤ (m.filter f).length + 1 := by
  induction m with
  | nil => exact Nat.le_trans (List.length_filter_le _ _) (by simp [AMap.set])
  | cons q m ih =>
    obtain ⟨k, w⟩ := q
    unfold AMap.set
    split
    · simp only [List.filter_cons]
      split <;> split <;> simp
    · split
      · simp only [List.filter_cons]
        split <;> split <;> simp <;> omega
      · simp only [List.filter_cons]
        split
        · simpa using ih
        · exact ih

theorem ownedBy_schedule_le (k o p : Nat) (d : Bool) (a : Nat) (s : State) (q : Nat) : ownedBy (schedule k o p d a s) q ≤ ownedBy s q + 1 := by
  unfold ownedBy
  rw [schedule_sched]
  split
  · omega
  · exact filter_set_le _ _ _ _

theorem ownedBy_erase_le (i : Nat) (s : State) (q : Nat) : ((AMap.erase s.srv.sched i).filter fun x => x.2.owner == q).length ≤ ownedBy s q := by
  unfold ownedBy
  generalize s.srv.sched = m
  induction m with
  | nil => exact Nat.le_refl _
  | cons x m ih =>
    obtain ⟨k, w⟩ := x
    unfold AMap.erase
    split
    · simp only [List.filter_cons]; split <;> simp
    · simp only [List.filter_cons]
      split
      · simpa using ih
      · exact ih

/-- What a fired entry's act is given: the state without the entry, with a late entry counted. -/
theorem fire_of_fires {s : State} {k i : Nat} {e : SchedEnt} (h : Fires s i k e) (f : SchedEnt → State → State) :
    ∃ c, (∀ q, q ≠ 0x0C010C → AMap.getD c q 0 = ctr s q)
      ∧ fire k i f s = f e { s with srv := { s.srv with sched := AMap.erase s.srv.sched i }, ctrs := c } := by
  unfold fire
  rw [h.1]
  dsimp only
  rw [if_neg (by simp [h.2])]
  by_cases l : e.late = true
  · refine ⟨(inc 0x0C010C s).ctrs, fun q hq => ?_, ?_⟩
    · exact (ctr_inc 0x0C010C q s).trans (if_neg hq)
    · rw [if_pos l]; rfl
  · exact ⟨s.ctrs, fun _ _ => rfl, by rw [if_neg l]; rfl⟩

theorem fire_of_not {s : State} {k i : Nat} (h : ∀ e, ¬Fires s i k e) (f : SchedEnt → State → State) : fire k i f s = s := by
  unfold fire
  split
  · rfl
  · next e he =>
    split
    · rfl
    · next c => exact absurd ⟨he, Classical.not_not.1 c⟩ (h e)

theorem get?_filter_none {α : Type} (f : Nat × α → Bool) {m : AMap α} {j : Nat} (h : AMap.get? m j = none) : AMap.get? (m.filter f) j = none := by
  induction m with
  | nil => rfl
  | cons x m ih =>
    obtain ⟨k, w⟩ := x
    unfold AMap.get? at h
    split at h
    · cases h
    · next c =>
      rw [List.filter_cons]
      split
      · unfold AMap.get?
        rw [if_neg c]
        exact ih h
      · exact ih h

theorem ownedBy_cancelKind_le (k o : Nat) (s : State) (q : Nat) : ownedBy (cancelKind k o s) q ≤ ownedBy s q := by
  unfold ownedBy cancelKind updSrv
  dsimp only
  rw [List.filter_filter]
  exact List.Sublist.length_le (List.monotone_filter_right _ fun a ha => by simp at ha ⊢; exact ha.1)

theorem SchedRoom.cancelKind {n : Nat} {s : State} (h : SchedRoom n s) (k o : Nat) : SchedRoom n (cancelKind k o s) :=
  ⟨fun j h1 h2 => get?_filter_none _ (h.free j h1 h2)⟩

end Sys2Proof.Machine
end

