-- ==== Sys2Proof/Laws/Servo.lean ====
section
/-!
SUPPORT. The servo: what the loops and the tape's motion leave of the Tape Clock, and what a frame does to the mailbox of the
write sequencer.
-/

namespace Sys2Proof.Machine

/-- The servo's state but for the wrap and the scheduler's table. -/
def Srv.core (v : Srv) : Srv := { v with wrap := 0, sched := [], schedOrd := 0, schedPeak := 0 }

/-- What the tape's motion leaves: the Tape Clock, the speed and the readers, and the count of missed samples. -/
structure ClockKept (s t : State) : Prop where
  core : t.srv.core = s.srv.core
  missed : ctr t 0x0C0114 = ctr s 0x0C0114

theorem ClockKept.refl (s : State) : ClockKept s s := ⟨rfl, rfl⟩

theorem ClockKept.trans {s t u : State} (h : ClockKept s t) (k : ClockKept t u) : ClockKept s u := ⟨k.core.trans h.core, k.missed.trans h.missed⟩

theorem ClockKept.of_frame {s t : State} {m : Nat} (h : Frame m s t) (b1 : m.testBit 9 = false) (b2 : m.testBit 17 = false) : ClockKept s t :=
  ⟨congrArg Srv.core (h.same .srv b1), congrArg (fun c => AMap.getD c 0x0C0114 0) (h.same .ctrs b2)⟩

theorem takeWrap_clock (w : Nat) (s : State) : ClockKept s (takeWrap w s) := ⟨rfl, rfl⟩

theorem changeWrap_clock (s : State) : ClockKept s (changeWrap s) := by
  unfold changeWrap
  dsimp only
  split
  · exact takeWrap_clock ..
  · have k : ClockKept s (takeWrap s.brd.nextWrap (updBrd (fun b => { b with stepMove := some (stepsBetween s.srv.wrap s.brd.nextWrap) }) s)) := ⟨rfl, rfl⟩
    exact k.trans (.of_frame (m := 0x400) (Frame.each _ (.refl ..) (fun _ _ => updLoop_frame ..)) rfl rfl)

theorem cancelKind_clock (k o : Nat) (s : State) : ClockKept s (cancelKind k o s) := by
  refine ⟨?_, ?_⟩
  · unfold cancelKind updSrv Srv.core
    rfl
  · unfold cancelKind updSrv ctr
    rfl

theorem startRepos_clock (r : Repos) (s : State) : ClockKept s (startRepos r s) := by
  unfold startRepos
  dsimp only
  refine ClockKept.trans ?_ (.of_frame (rampStop_frame ..) rfl rfl)
  have k : ClockKept s (allAcquiring s) := .of_frame (allAcquiring_frame s) rfl rfl
  generalize allAcquiring s = v at *
  have k := k.trans (cancelKind_clock Kind.turnaround 3 v)
  generalize cancelKind Kind.turnaround 3 v = u at *
  have k2 := k.trans (show ClockKept u (inc 0x0D008C u) from ⟨rfl, (ctr_inc 0x0D008C 0x0C0114 u).trans (if_neg (by decide))⟩)
  generalize inc 0x0D008C u = w at *
  exact k2.trans (.of_frame (updBrd_frame ..) rfl rfl)

theorem motionStep_clock (rest : Bool) (s : State) : ClockKept s (motionStep rest s) := by
  unfold motionStep
  have k := ClockKept.of_frame (headArrives_frame s) rfl rfl
  dsimp only
  generalize headArrives s = u at *
  refine k.trans ?_
  split
  · unfold turnStep
    split
    · split
      · exact ClockKept.trans (changeWrap_clock u) (.of_frame (setPhase_frame ..) rfl rfl)
      · exact .refl u
    · split
      · exact .of_frame (startHead_frame u) rfl rfl
      · split
        · exact .of_frame (((updBrd_frame _ u).andThen (rampSpeed_frame ..) rfl).andThen (setPhase_frame ..) rfl) rfl rfl
        · exact .refl u
    · split
      · exact ⟨rfl, rfl⟩
      · exact .refl u
  · split
    · next r _ =>
      unfold reposStep
      dsimp only
      have ri : ∀ v, ClockKept v (updBrd (fun b => { b with repos := some { r with step := 4 }, settledCount := 0 })
          (rampSpeed r.speed r.reverse r.slew (updBrd (fun b => { b with runReverse := r.reverse }) v))) :=
        fun v => .of_frame (((updBrd_frame _ v).andThen (rampSpeed_frame ..) rfl).andThen (updBrd_frame ..) rfl) rfl rfl
      split
      · split
        · exact .of_frame (startHead_frame u) rfl rfl
        · split
          · have k1 : ClockKept u (if u.srv.wrap = u.brd.nextWrap then u else startHead (changeWrap u)) := by
              split
              · exact .refl u
              · exact ClockKept.trans (changeWrap_clock u) (.of_frame (startHead_frame _) rfl rfl)
            generalize (if u.srv.wrap = u.brd.nextWrap then u else startHead (changeWrap u)) = v at *
            split
            · exact k1
            · split
              · exact k1.trans (ri v)
              · exact k1.trans (.of_frame ((rampSpeed_frame ..).andThen (updBrd_frame ..) rfl) rfl rfl)
          · exact .refl u
      · split
        · exact .of_frame ((rampStop_frame ..).andThen (updBrd_frame ..) rfl) rfl rfl
        · exact .refl u
      · split
        · exact ri u
        · exact .refl u
      · split
        · exact startRepos_clock ..
        · exact .refl u
    · exact .refl u
  · exact .of_frame (unthreadStep_frame ..) rfl rfl
  · exact .of_frame (stopStep_frame ..) rfl rfl
  · exact .refl u

theorem mem_insertBy {α : Type} (key : α → Nat) (x y : α) (l : List α) : y ∈ insertBy key x l ↔ y = x ∨ y ∈ l := by
  induction l with
  | nil => simp [insertBy]
  | cons z l ih =>
    unfold insertBy
    split
    · simp
    · simp [ih]; constructor <;> (rintro (h | h | h) <;> simp [h])

theorem mem_sortBy {α : Type} (key : α → Nat) (y : α) (l : List α) : y ∈ sortBy key l ↔ y ∈ l := by
  have : ∀ a : List α, y ∈ l.foldl (fun a x => insertBy key x a) a ↔ y ∈ a ∨ y ∈ l := by
    induction l with
    | nil => simp
    | cons z l ih =>
      intro a
      rw [List.foldl_cons, ih, mem_insertBy]
      simp only [List.mem_cons]
      constructor
      · rintro ((h | h) | h) <;> simp [h]
      · rintro (h | h | h) <;> simp [h]
  unfold sortBy
  simpa using this []

/-- The entries of one cycle are put in the order of their sources; none is lost, and nothing else changes. -/
theorem sameCycle_spec (b : Box) (act : State → State) (s : State) :
    (∃ bx, sameCycle b act s = { act s with boxes := bx }) ∧ ∀ m, m ∈ boxOf (sameCycle b act s) b ↔ m ∈ boxOf (act s) b := by
  have e : ∀ l t, boxOf (setBox b l t) b = l := by intro l t; cases b <;> rfl
  refine ⟨⟨_, rfl⟩, fun m => ?_⟩
  unfold sameCycle
  dsimp only
  rw [e, List.mem_append, mem_sortBy]
  generalize boxOf (act s) b = l
  constructor
  · rintro (h | h)
    · exact List.mem_of_mem_take h
    · exact List.mem_of_mem_drop h
  · intro h
    have := List.take_append_drop (boxOf s b).length l
    rw [← this] at h
    exact List.mem_append.1 h

theorem loopAt_setLoop (n m : Nat) (x : Loop) (s : State) : loopAt (setLoop n x s) m = if m = n then x else loopAt s m := by
  unfold loopAt setLoop updBrd
  dsimp only
  split
  · next h => subst h; exact AMap.getD_set_self _ _ _ _
  · next h => exact AMap.getD_set_of_ne _ _ _ (Ne.symm h)

theorem toInt16 (v : Nat) : -(2 ^ 15) ≤ ofField 16 v ∧ ofField 16 v ≤ 2 ^ 15 - 1 := by
  unfold ofField
  have h1 := BitVec.le_toInt (BitVec.ofNat 16 v)
  have h2 := BitVec.toInt_lt (x := BitVec.ofNat 16 v)
  norm_num at h1 h2 ⊢
  omega

theorem loopNext_spec (x base preset : Loop) (ok slow moves : Bool) (lo hi slew : Int) (pdf : Int × Int × Int) (di : Int)
    (hm : base.mode = x.mode) (h1 : base.meas = preset.meas) (h2 : base.measValid = preset.measValid) :
    (loopNext x base preset ok slow moves lo hi slew pdf di).meas = base.meas
      ∧ (loopNext x base preset ok slow moves lo hi slew pdf di).measValid = base.measValid
      ∧ (x.mode = .off → (loopNext x base preset ok slow moves lo hi slew pdf di).mode = .off ∧ (loopNext x base preset ok slow moves lo hi slew pdf di).out = 0)
      ∧ (x.mode = .auto → ok = false → (loopNext x base preset ok slow moves lo hi slew pdf di).mode = .hold)
      ∧ (x.mode = .auto → ok = true → slow = false → ∃ o, (loopNext x base preset ok slow moves lo hi slew pdf di).mode = .auto
          ∧ (loopNext x base preset ok slow moves lo hi slew pdf di).out = sat 16 (clamp lo hi o)) := by
  unfold loopNext
  refine ⟨?_, ?_, fun h => ?_, fun h k => ?_, fun h k1 k2 => ?_⟩
  · split
    · rfl
    · rfl
    · split
      · exact h1.symm
      · rfl
    · split
      · exact h1.symm
      · rfl
    · split <;> rfl
  · split
    · rfl
    · rfl
    · split
      · exact h2.symm
      · rfl
    · split
      · exact h2.symm
      · rfl
    · split <;> rfl
  · rw [h]; exact ⟨hm.trans h, rfl⟩
  · rw [h]
    dsimp only
    rw [if_pos (.inl k)]
  · rw [h]
    dsimp only
    rw [if_neg (by rw [k1, k2]; simp)]
    exact ⟨_, hm.trans h, rfl⟩

theorem sat_clamp_bounds {lo hi : Int} (l : -(2 ^ 15) ≤ lo) (u : hi ≤ 2 ^ 15 - 1) (h : lo ≤ hi) (o : Int) :
    lo ≤ sat 16 (clamp lo hi o) ∧ sat 16 (clamp lo hi o) ≤ hi := by
  unfold sat clamp
  norm_num at l u ⊢
  omega

/-- One tick of a loop (R279): it changes that loop alone; the measurement is taken when it is valid, and each mode keeps or leaves
as the rule says. -/
theorem runLoop_spec (n : Nat) (y : Int) (ok : Bool) (step : Int) (s : State) :
    (∀ m, m ≠ n → loopAt (runLoop n y ok step s) m = loopAt s m)
      ∧ (ok = true → (loopAt (runLoop n y ok step s) n).meas = sat 32 y) ∧ (loopAt (runLoop n y ok step s) n).measValid = ok
      ∧ ((loopAt s n).mode = .off → (loopAt (runLoop n y ok step s) n).mode = .off ∧ (loopAt (runLoop n y ok step s) n).out = 0)
      ∧ ((loopAt s n).mode = .auto → ok = false → (loopAt (runLoop n y ok step s) n).mode = .hold)
      ∧ ((loopAt s n).mode = .auto → ok = true → belowHold s n = false → uMin s n ≤ uMax s n →
          (loopAt (runLoop n y ok step s) n).mode = .auto ∧ uMin s n ≤ (loopAt (runLoop n y ok step s) n).out ∧ (loopAt (runLoop n y ok step s) n).out ≤ uMax s n) := by
  have b0 : (loopTerms n y ok step s).1.mode = (loopAt s n).mode := rfl
  have b4 : (loopTerms n y ok step s).1.meas = (if ok then sat 32 y else (loopAt s n).meas) := rfl
  have b5 : (loopTerms n y ok step s).1.measValid = ok := rfl
  unfold runLoop
  dsimp only
  generalize loopTerms n y ok step s = w at *
  obtain ⟨base, pdf, di⟩ := w
  dsimp only at *
  obtain ⟨preset, hp⟩ : ∃ preset, loopPreset (loopAt s n) (base, pdf, di) = preset := ⟨_, rfl⟩
  have b2 : base.meas = preset.meas := by rw [← hp]; rfl
  have b3 : base.measValid = preset.measValid := by rw [← hp]; rfl
  rw [hp]
  clear hp
  generalize (holdsSlow n && headMoving s) = moves
  generalize outputSlew s n = slew
  obtain ⟨k1, k2, k3, k4, k5⟩ := loopNext_spec (loopAt s n) base preset ok (belowHold s n) moves (uMin s n) (uMax s n) slew pdf di b0 b2 b3
  generalize loopNext (loopAt s n) base preset ok (belowHold s n) moves (uMin s n) (uMax s n) slew pdf di = x at *
  refine ⟨fun m h => ?_, ?_⟩
  · rw [loopAt_setLoop, if_neg h]
  rw [loopAt_setLoop, if_pos rfl]
  refine ⟨fun h => ?_, k2.trans b5, k3, k4, fun h h1 h2 h3 => ?_⟩
  · rw [k1, b4, if_pos h]
  · obtain ⟨o, o1, o2⟩ := k5 h h1 h2
    refine ⟨o1, ?_⟩
    rw [o2]
    exact sat_clamp_bounds (toInt16 _).1 (toInt16 _).2 h3 o

/-- A frame of travel without a valid sample (R274): the clock goes on at the last speed as far as the flywheel allows. -/
theorem flywheelBy_spec (d : Nat) (s : State) :
    (flywheelBy d s).srv.readers = s.srv.readers ∧ (flywheelBy d s).srv.reverse = s.srv.reverse ∧ (flywheelBy d s).srv.speed = s.srv.speed
      ∧ (flywheelBy d s).srv.invalidRun = s.srv.invalidRun ∧ ctr (flywheelBy d s) 0x0C0114 = ctr s 0x0C0114
      ∧ (s.srv.valid = true → (flywheelBy d s).srv.flywheel = s.srv.flywheel + d
        ∧ (s.srv.flywheel + d ≤ Cfgw.flywheelFrames s * 256 → (flywheelBy d s).srv.clock = if s.srv.reverse then s.srv.clock - d else min (s.srv.clock + d) (2 ^ 40 - 1))) := by
  unfold flywheelBy
  by_cases hv : s.srv.valid = false
  · rw [if_pos hv]
    exact ⟨rfl, rfl, rfl, rfl, rfl, fun k => by rw [hv] at k; cases k⟩
  · rw [if_neg hv]
    dsimp only
    obtain ⟨x, hx, x1, x3⟩ : ∃ x, (if s.srv.flywheel = 0 then inc 0x0C0108 s else s) = x ∧ x.srv = s.srv ∧ ctr x 0x0C0114 = ctr s 0x0C0114 := by
      refine ⟨_, rfl, ?_⟩
      split
      · exact ⟨rfl, (ctr_inc ..).trans (if_neg (by decide))⟩
      · exact ⟨rfl, rfl⟩
    rw [hx, x1]
    obtain ⟨y, hy, y1, y2⟩ : ∃ y, updSrv (fun v => { v with flywheel := s.srv.flywheel + d }) x = y ∧ y.srv = { s.srv with flywheel := s.srv.flywheel + d } ∧ ctr y 0x0C0114 = ctr s 0x0C0114 := by
      refine ⟨_, rfl, ?_, x3⟩
      show ({ x.srv with flywheel := s.srv.flywheel + d } : Srv) = _
      rw [x1]
    rw [hy]
    split
    · have z : (advanceClock d y).srv = { y.srv with clock := if y.srv.reverse then y.srv.clock - d else min (y.srv.clock + d) (2 ^ 40 - 1) } := rfl
      rw [z, y1]
      exact ⟨rfl, rfl, rfl, rfl, y2, fun _ => ⟨rfl, fun _ => rfl⟩⟩
    · next k =>
      rw [y1]
      exact ⟨rfl, rfl, rfl, rfl, y2, fun _ => ⟨rfl, fun c => absurd c k⟩⟩

theorem post_counts (b : Box) (src code arg : Nat) (s : State) : OtherCounts s (post b src code arg s) := by
  unfold post
  dsimp only
  split
  · exact pushMgt_counts ..
  · split
    · exact .of_ctrs rfl
    · split <;> exact .of_ctrs rfl

theorem postedTo_of {s t : State} (h : t.boxes = s.boxes) (b : Box) : postedTo t b = postedTo s b := by
  unfold postedTo boxOf
  rw [h]

/-- The PES judgement of a frame (R205): nothing is counted, and where no PES inhibit stands and one is due, its entry waits. -/
theorem checkPes_spec (ok : List (Nat × Reader)) (s : State) (h : hasSlots .wrv Src.servo 1 s = true) (h1 : pesPosted s = false)
    (h2 : (∃ x ∈ ok, Cfgw.pesLimit s < x.2.pes.natAbs) ∨ 2 ≤ s.srv.invalidRun) :
    ∃ m ∈ boxOf (checkPes ok s) .wrv, m.src = Src.servo ∧ m.code = 0x8001 := by
  have p : ∀ arg, ∃ m ∈ boxOf (post .wrv Src.servo 0x8001 arg s) .wrv, m.src = Src.servo ∧ m.code = 0x8001 := by
    intro arg
    rw [post_of_slots h]
    exact ⟨mail Src.servo 0x8001 arg s, List.mem_append_right _ (List.mem_singleton_self _), rfl, rfl⟩
  unfold checkPes
  rw [h1, if_neg (by simp)]
  cases e : pesBeyond s ok with
  | some rx => obtain ⟨r, x⟩ := rx; exact p _
  | none =>
    dsimp only
    have nb : ¬∃ x ∈ ok, Cfgw.pesLimit s < x.2.pes.natAbs := by
      rintro ⟨x, hx, k⟩
      unfold pesBeyond at e
      have := List.find?_eq_none.1 e x hx
      simp at this
      omega
    rw [if_pos (h2.resolve_left nb)]
    exact p _

theorem checkPes_counts (ok : List (Nat × Reader)) (s : State) : OtherCounts s (checkPes ok s) := by
  unfold checkPes
  split
  · exact .refl s
  · split
    · exact post_counts ..
    · split
      · exact (post_counts ..).trans (.of_ctrs rfl)
      · exact .refl s

theorem checkOverspeed_counts (s : State) : OtherCounts s (checkOverspeed s) := by
  unfold checkOverspeed
  dsimp only
  split
  · exact post_counts ..
  · split
    · exact post_counts ..
    · exact .refl s

/-- A post takes no entry away. -/
theorem mem_post {b : Box} {m : Mail} {s : State} (c : Box) (src code arg : Nat) (h : m ∈ boxOf s b) : m ∈ boxOf (post c src code arg s) b := by
  have pb : ∀ n : Mail, m ∈ boxOf (pushBox c n s) b := by
    intro n
    unfold pushBox
    cases c <;> cases b <;> first | exact h | exact List.mem_append_left _ h
  unfold post
  dsimp only
  split
  · next k =>
    unfold pushMgt
    split
    · exact h
    · rw [k] at pb; exact pb _
  · split
    · exact pb _
    · split <;> exact h

theorem mem_checkOverspeed {b : Box} {m : Mail} {s : State} (h : m ∈ boxOf s b) : m ∈ boxOf (checkOverspeed s) b := by
  unfold checkOverspeed
  dsimp only
  split
  · exact mem_post _ _ _ _ h
  · split
    · exact mem_post _ _ _ _ h
    · exact h

end Sys2Proof.Machine
end

