-- ==== Sys2Proof/Laws/Bridle.lean ====
section
/-!
SUPPORT. The Bridle: loops and endpoints as they are read back after a change, what a loop's fault and the beginning of a controlled
stop leave, and the frames of the Actuator Links.
-/

namespace Sys2Proof.Machine

theorem loopAt_updLoop (n m : Nat) (f : Loop → Loop) (s : State) : loopAt (updLoop n f s) m = if m = n then f (loopAt s n) else loopAt s m :=
  loopAt_setLoop ..

theorem epAt_updEp (e k : Nat) (f : Endpoint → Endpoint) (s : State) : epAt (updEp e f s) k = if k = e then f (epAt s e) else epAt s k := by
  unfold epAt updEp updBrd
  dsimp only
  split
  · next h => subst h; exact AMap.getD_set_self _ _ _ _
  · next h => exact AMap.getD_set_of_ne _ _ _ (Ne.symm h)

theorem loopAt_updEp (e n : Nat) (f : Endpoint → Endpoint) (s : State) : loopAt (updEp e f s) n = loopAt s n := rfl

theorem epAt_updLoop (n e : Nat) (f : Loop → Loop) (s : State) : epAt (updLoop n f s) e = epAt s e := rfl

theorem loopAt_of_brd {s t : State} (h : t.brd = s.brd) (n : Nat) : loopAt t n = loopAt s n := by unfold loopAt; rw [h]

theorem epAt_of_brd {s t : State} (h : t.brd = s.brd) (e : Nat) : epAt t e = epAt s e := by unfold epAt; rw [h]

/-- A change of each endpoint of a list changes the others not, nor a loop, nor what is not the endpoints'. -/
theorem each_updEp (f : Endpoint → Endpoint) (hf : ∀ x, f (f x) = f x) (l : List Nat) (s : State) :
    ∃ eps, each (fun e s => updEp e f s) l s = updBrd (fun b => { b with endpoints := eps }) s
      ∧ ∀ k, AMap.getD eps k {} = if k ∈ l then f (epAt s k) else epAt s k := by
  induction l generalizing s with
  | nil => exact ⟨s.brd.endpoints, rfl, fun k => by simp [epAt]⟩
  | cons a l ih =>
    obtain ⟨eps, h1, h2⟩ := ih (updEp a f s)
    refine ⟨eps, h1, fun k => ?_⟩
    rw [h2, epAt_updEp]
    by_cases c1 : k ∈ l
    · by_cases c2 : k = a
      · subst c2; simp [c1, hf]
      · simp [c1, c2]
    · by_cases c2 : k = a
      · subst c2; simp [c1]
      · simp [c1, c2]

/-- What the beginning of a controlled stop leaves (R292, R293): the stop, its entry to the formatter, and no repositioning. -/
theorem beginStop_spec (k : StopKind) (c : Nat) (s : State) :
    (beginStop k c s).brd = { s.brd with stop := some ⟨k, c, false⟩, motion := if s.brd.motion = .unthreaded then s.brd.motion else .stopping, repos := none, heldRepos := none }
      ∧ boxOf (beginStop k c s) .wrv = boxOf s .wrv ∧ (beginStop k c s).srv.clock = s.srv.clock ∧ ctr (beginStop k c s) 0x0D0080 = ctr s 0x0D0080
      ∧ (hasSlots .fmt Src.bridle 1 s = true → boxOf (beginStop k c s) .fmt = boxOf s .fmt ++ [mail Src.bridle 0x8001 (c % 2 ^ 40) s]) := by
  obtain ⟨u, hu, u1, u2, u3, u4⟩ : ∃ u, (if s.brd.stop.isNone then inc 0x0D0084 s else s) = u ∧ u.brd = s.brd ∧ u.boxes = s.boxes ∧ u.srv = s.srv ∧ ctr u 0x0D0080 = ctr s 0x0D0080 := by
    refine ⟨_, rfl, ?_⟩
    split
    · exact ⟨rfl, rfl, rfl, (ctr_inc ..).trans (if_neg (by decide))⟩
    · exact ⟨rfl, rfl, rfl, rfl⟩
  obtain ⟨v, hv, v1, v2, v3, v4, v5⟩ : ∃ v, post .fmt Src.bridle 0x8001 (c % 2 ^ 40) u = v ∧ v.brd = s.brd ∧ v.srv = s.srv ∧ ctr v 0x0D0080 = ctr s 0x0D0080 ∧ boxOf v .wrv = boxOf s .wrv
      ∧ (hasSlots .fmt Src.bridle 1 s = true → boxOf v .fmt = boxOf s .fmt ++ [mail Src.bridle 0x8001 (c % 2 ^ 40) s]) := by
    refine ⟨_, rfl, ((post_frame ..).same .brd rfl).trans u1, ((post_frame ..).same .srv rfl).trans u3, ?_, ?_, fun h => ?_⟩
    · exact ((post_counts ..).same _ (by decide) (by decide) (by decide)).trans u4
    · unfold post
      dsimp only
      split
      · next k => cases k
      · split
        · show u.boxes.wrv = s.boxes.wrv; rw [u2]
        · split <;> (show u.boxes.wrv = s.boxes.wrv; rw [u2])
    · have hb : boxOf u .fmt = boxOf s .fmt := congrArg Boxes.fmt u2
      rw [post_of_slots ((hasSlots_congr hb _ _).trans h)]
      show u.boxes.fmt ++ [⟨u.srv.clock, _, _, _⟩] = _
      rw [u2, u3]
      rfl
  obtain ⟨w, hw, w1, w2, w3, w4, w5⟩ : ∃ w, postEvent Src.bridle 0x0D 0x02 true (c % 2 ^ 40 + stopCode k * 2 ^ 40) v = w ∧ w.brd = s.brd ∧ w.srv = s.srv ∧ ctr w 0x0D0080 = ctr s 0x0D0080 ∧ boxOf w .wrv = boxOf v .wrv
      ∧ boxOf w .fmt = boxOf v .fmt := by
    refine ⟨_, rfl, ((postEvent_frame ..).same .brd rfl).trans v1, ((postEvent_frame ..).same .srv rfl).trans v2, ?_, ?_, ?_⟩
    · unfold postEvent
      exact ((pushMgt_counts ..).same _ (by decide) (by decide) (by decide)).trans v3
    · unfold postEvent pushMgt; split <;> rfl
    · unfold postEvent pushMgt; split <;> rfl
  unfold beginStop
  dsimp only
  rw [hu, hv, hw]
  split
  · obtain ⟨x, y, e, e1, e2, e3⟩ := schedule_only Kind.windowClose 0 c w.srv.reverse 0 (cancelKind Kind.windowClose 0 w)
    have e4 : ctr (schedule Kind.windowClose 0 c w.srv.reverse 0 (cancelKind Kind.windowClose 0 w)) 0x0D0080 = ctr s 0x0D0080 := by
      unfold schedule postSched
      split
      · exact ((ctr_inc ..).trans (if_neg (by decide))).trans w3
      · exact w3
    generalize schedule Kind.windowClose 0 c w.srv.reverse 0 (cancelKind Kind.windowClose 0 w) = z at *
    have zb : z.brd = w.brd ∧ z.boxes = w.boxes ∧ z.srv = x := by rw [e]; exact ⟨rfl, rfl, rfl⟩
    refine ⟨?_, ?_, ?_, e4, fun h => ?_⟩
    · show ({ z.brd with stop := _, motion := _, repos := none, heldRepos := none } : Brd) = _
      rw [zb.1, w1]
    · exact (congrArg Boxes.wrv zb.2.1).trans (w4.trans v4)
    · show z.srv.clock = _
      rw [zb.2.2, e1]
      show w.srv.clock = _
      rw [w2]
    · exact ((congrArg Boxes.fmt zb.2.1).trans w5).trans (v5 h)
  · refine ⟨?_, w4.trans v4, congrArg Srv.clock w2, w3, fun h => w5.trans (v5 h)⟩
    show ({ w.brd with stop := _, motion := _, repos := none, heldRepos := none } : Brd) = _
    rw [w1]

/-- A controlled stop that begins is counted (R299). -/
theorem beginStop_counted (k : StopKind) (c : Nat) (s : State) (h : s.brd.stop = none) : ctr (beginStop k c s) 0x0D0084 = satAdd (ctr s 0x0D0084) 1 := by
  have k0 : ∀ z, ctr (post .fmt Src.bridle 0x8001 (c % 2 ^ 40) z) 0x0D0084 = ctr z 0x0D0084 := fun z => (post_counts ..).same _ (by decide) (by decide) (by decide)
  have k1 : ∀ z, ctr (postEvent Src.bridle 0x0D 0x02 true (c % 2 ^ 40 + stopCode k * 2 ^ 40) z) 0x0D0084 = ctr z 0x0D0084 := fun z => by
    unfold postEvent; exact (pushMgt_counts ..).same _ (by decide) (by decide) (by decide)
  have k2 : ∀ a b c d e z, ctr (schedule a b c d e z) 0x0D0084 = ctr z 0x0D0084 := fun a b c d e z => by
    unfold schedule postSched; dsimp only
    split
    · exact (ctr_inc ..).trans (if_neg (by decide))
    · rfl
  have k3 : ∀ a b z, ctr (cancelKind a b z) 0x0D0084 = ctr z 0x0D0084 := fun _ _ _ => rfl
  have k4 : ∀ f z, ctr (updBrd f z) 0x0D0084 = ctr z 0x0D0084 := fun _ _ => rfl
  unfold beginStop
  dsimp only
  rw [h, if_pos (show (none : Option CtlStop).isNone = true from rfl), k4]
  split
  · rw [k2, k3, k1, k0]; exact (ctr_inc ..).trans (if_pos rfl)
  · rw [k1, k0]; exact (ctr_inc ..).trans (if_pos rfl)

theorem boxOf_post_other {b c : Box} (h : c ≠ b) (src code arg : Nat) (s : State) : boxOf (post b src code arg s) c = boxOf s c := by
  have pb : ∀ n, boxOf (pushBox b n s) c = boxOf s c := fun n => by unfold pushBox; exact (boxOf_setBox ..).trans (if_neg h)
  unfold post
  dsimp only
  split
  · next k =>
    unfold pushMgt
    split
    · cases c <;> rfl
    · rw [k] at pb; exact pb _
  · split
    · exact pb _
    · split <;> cases c <;> rfl

theorem boxOf_postEvent {c : Box} (h : c ≠ .mgt) (src bl ev : Nat) (p : Bool) (arg : Nat) (s : State) : boxOf (postEvent src bl ev p arg s) c = boxOf s c :=
  boxOf_post_other h ..

theorem loopAt_rampStop (k n : Nat) (s : State) :
    loopAt (rampStop k s) n = if n = 0 then { loopAt s 0 with target := speedUnits 0 s.srv.reverse, newTarget := true } else loopAt s n :=
  loopAt_updLoop ..

theorem rampStop_keeps (k : Nat) (s : State) : (rampStop k s).brd.stop = s.brd.stop ∧ (rampStop k s).brd.motion = s.brd.motion ∧ (rampStop k s).boxes = s.boxes
    ∧ (rampStop k s).ctrs = s.ctrs ∧ ∀ e, epAt (rampStop k s) e = epAt s e := ⟨rfl, rfl, rfl, rfl, fun _ => rfl⟩

theorem ramping_keeps (s : State) :
    let t := updBrd (fun b => { b with stop := b.stop.map fun (c : CtlStop) => { c with ramping := true } }) s
    t.boxes = s.boxes ∧ t.ctrs = s.ctrs ∧ (∀ m, loopAt t m = loopAt s m) ∧ (∀ m, epAt t m = epAt s m)
      ∧ t.brd.stop = s.brd.stop.map (fun (c : CtlStop) => { c with ramping := true }) ∧ t.brd.motion = s.brd.motion :=
  ⟨rfl, rfl, fun _ => rfl, fun _ => rfl, rfl, rfl⟩

/-- What a loop's fault leaves (R292). -/
theorem faultLoop_spec (n e : Nat) (s : State) :
    (∀ m, m ≠ n → (loopAt (faultLoop n e s) m).mode = (loopAt s m).mode ∧ (loopAt (faultLoop n e s) m).out = (loopAt s m).out)
      ∧ (loopAt (faultLoop n e s) n).mode = .fault ∧ (loopAt (faultLoop n e s) n).out = 0
      ∧ ctr (faultLoop n e s) 0x0D0080 = ctr s 0x0D0080
      ∧ (∀ k, (epAt (faultLoop n e s) k).fault = (epAt s k).fault ∧ (k ∈ loopEndpoints n → (epAt (faultLoop n e s) k).cmd = 2))
      ∧ (hasSlots .wrv Src.bridle 1 s = true → boxOf (faultLoop n e s) .wrv = boxOf s .wrv ++ [mail Src.bridle 0x8003 n s])
      ∧ (s.brd.stop = none → (faultLoop n e s).brd.stop = some ⟨if reelLoop n then .faultReels else .faultOther, s.srv.clock, !reelLoop n⟩
          ∧ (faultLoop n e s).brd.motion = (if s.brd.motion = .unthreaded then .unthreaded else .stopping)
          ∧ (hasSlots .fmt Src.bridle 1 s = true → boxOf (faultLoop n e s) .fmt = boxOf s .fmt ++ [mail Src.bridle 0x8001 (s.srv.clock % 2 ^ 40) s])
          ∧ (reelLoop n = false → (loopAt (faultLoop n e s) 0).target = 0)) := by
  obtain ⟨a, ha, a1, a2, a3, a4⟩ : ∃ a, updLoop n (fun x => { x with mode := .fault, out := 0, wantAuto := false }) s = a
      ∧ (∀ m, loopAt a m = if m = n then { loopAt s n with mode := .fault, out := 0, wantAuto := false } else loopAt s m)
      ∧ (∀ c, ctr a c = ctr s c) ∧ a.boxes = s.boxes ∧ a.srv = s.srv ∧ a.brd.stop = s.brd.stop ∧ a.brd.motion = s.brd.motion ∧ (∀ k, epAt a k = epAt s k) :=
    ⟨_, rfl, fun m => loopAt_updLoop .., fun _ => rfl, rfl, rfl, rfl, rfl, fun _ => rfl⟩
  have b0 : boxOf a .wrv = boxOf s .wrv := congrArg Boxes.wrv a3
  have bf : boxOf a .fmt = boxOf s .fmt := congrArg Boxes.fmt a3
  obtain ⟨b, hb, b1, b2, b3, b4, b5⟩ : ∃ b, postEvent Src.bridle 0x0D 0x01 true (n + e * 256) (post .wrv Src.bridle 0x8003 n a) = b ∧ b.brd = a.brd ∧ b.srv = s.srv
      ∧ ctr b 0x0D0080 = ctr s 0x0D0080 ∧ boxOf b .fmt = boxOf s .fmt
      ∧ (hasSlots .wrv Src.bridle 1 s = true → boxOf b .wrv = boxOf s .wrv ++ [mail Src.bridle 0x8003 n s]) := by
    refine ⟨_, rfl, ?_, ?_, ?_, ?_, fun h => ?_⟩
    · rw [(postEvent_frame ..).same .brd rfl, (post_frame ..).same .brd rfl]
    · rw [(postEvent_frame ..).same .srv rfl, (post_frame ..).same .srv rfl, a4.1]
    · exact ((pushMgt_counts ..).same _ (by decide) (by decide) (by decide)).trans (((post_counts ..).same _ (by decide) (by decide) (by decide)).trans (a2 _))
    · rw [boxOf_postEvent (by decide), boxOf_post_other (by decide), bf]
    · rw [boxOf_postEvent (by decide), post_of_slots ((hasSlots_congr b0 _ _).trans h)]
      show a.boxes.wrv ++ [⟨a.srv.clock, _, _, _⟩] = _
      rw [a3, a4.1]
      rfl
  obtain ⟨eps, c1, c2⟩ := each_updEp (fun x => { x with cmd := 2 }) (fun _ => rfl) (loopEndpoints n) b
  have d1 : ∀ m, loopAt (updBrd (fun b => { b with endpoints := eps }) b) m = loopAt a m := fun m => by
    show AMap.getD b.brd.loops m {} = AMap.getD a.brd.loops m {}
    rw [b1]
  have d2 : ∀ k, epAt (updBrd (fun b => { b with endpoints := eps }) b) k = if k ∈ loopEndpoints n then { epAt s k with cmd := 2 } else epAt s k := fun k => by
    refine (c2 k).trans ?_
    rw [show epAt b k = epAt s k from (epAt_of_brd b1 k).trans (a4.2.2.2 k)]
  have d3 : (updBrd (fun b => { b with endpoints := eps }) b).brd.stop = s.brd.stop ∧ (updBrd (fun b => { b with endpoints := eps }) b).brd.motion = s.brd.motion := by
    constructor
    · show b.brd.stop = _; rw [b1]; exact a4.2.1
    · show b.brd.motion = _; rw [b1]; exact a4.2.2.1
  have d4 : (updBrd (fun b => { b with endpoints := eps }) b).srv = s.srv := b2
  have d5 : ctr (updBrd (fun b => { b with endpoints := eps }) b) 0x0D0080 = ctr s 0x0D0080 := b3
  have d6 : boxOf (updBrd (fun b => { b with endpoints := eps }) b) .fmt = boxOf s .fmt := b4
  have d7 : boxOf (updBrd (fun b => { b with endpoints := eps }) b) .wrv = boxOf b .wrv := rfl
  obtain ⟨al, hal, al0⟩ : ∃ al, (match s.brd.stop with | some c => c.kind == StopKind.faultReels || (c.kind == StopKind.faultOther && !reelLoop n) | none => false) = al ∧ (s.brd.stop = none → al = false) := ⟨_, rfl, fun k => by rw [k]⟩
  have hf : faultLoop n e s = (let s3 := updBrd (fun b => { b with endpoints := eps }) b
      if al then s3
      else if reelLoop n then beginStop .faultReels s3.srv.clock s3
      else
        let s4 := rampStop (Cfgw.stopSlew s3) (beginStop .faultOther s3.srv.clock s3)
        updBrd (fun b => { b with stop := b.stop.map fun (c : CtlStop) => { c with ramping := true } }) s4) := by
    unfold faultLoop
    dsimp only
    rw [ha, hb, c1, ← hal]
    try rfl
  generalize faultLoop n e s = t at hf ⊢
  generalize updBrd (fun b => { b with endpoints := eps }) b = v at *
  dsimp only at hf
  have fin : ∀ t, (∀ m, (loopAt t m).mode = (loopAt v m).mode ∧ (loopAt t m).out = (loopAt v m).out) → ctr t 0x0D0080 = ctr v 0x0D0080 → (∀ k, epAt t k = epAt v k) → boxOf t .wrv = boxOf v .wrv →
      (s.brd.stop = none → t.brd.stop = some ⟨if reelLoop n then .faultReels else .faultOther, s.srv.clock, !reelLoop n⟩
          ∧ t.brd.motion = (if s.brd.motion = .unthreaded then .unthreaded else .stopping)
          ∧ (hasSlots .fmt Src.bridle 1 s = true → boxOf t .fmt = boxOf s .fmt ++ [mail Src.bridle 0x8001 (s.srv.clock % 2 ^ 40) s])
          ∧ (reelLoop n = false → (loopAt t 0).target = 0)) →
      (∀ m, m ≠ n → (loopAt t m).mode = (loopAt s m).mode ∧ (loopAt t m).out = (loopAt s m).out)
      ∧ (loopAt t n).mode = .fault ∧ (loopAt t n).out = 0
      ∧ ctr t 0x0D0080 = ctr s 0x0D0080
      ∧ (∀ k, (epAt t k).fault = (epAt s k).fault ∧ (k ∈ loopEndpoints n → (epAt t k).cmd = 2))
      ∧ (hasSlots .wrv Src.bridle 1 s = true → boxOf t .wrv = boxOf s .wrv ++ [mail Src.bridle 0x8003 n s])
      ∧ (s.brd.stop = none → t.brd.stop = some ⟨if reelLoop n then .faultReels else .faultOther, s.srv.clock, !reelLoop n⟩
          ∧ t.brd.motion = (if s.brd.motion = .unthreaded then .unthreaded else .stopping)
          ∧ (hasSlots .fmt Src.bridle 1 s = true → boxOf t .fmt = boxOf s .fmt ++ [mail Src.bridle 0x8001 (s.srv.clock % 2 ^ 40) s])
          ∧ (reelLoop n = false → (loopAt t 0).target = 0)) := by
    intro t t1 t2 t3 t4 t5
    have q : ∀ m, loopAt v m = if m = n then { loopAt s n with mode := .fault, out := 0, wantAuto := false } else loopAt s m := fun m => (d1 m).trans (a1 m)
    refine ⟨fun m hm => ?_, ?_, ?_, t2.trans d5, fun k => ⟨?_, fun hk => ?_⟩, fun h => (t4.trans d7).trans (b5 h), t5⟩
    · rw [(t1 m).1, (t1 m).2, q, if_neg hm]; exact ⟨rfl, rfl⟩
    · rw [(t1 n).1, q, if_pos rfl]
    · rw [(t1 n).2, q, if_pos rfl]
    · rw [t3, d2]; split <;> rfl
    · rw [t3, d2, if_pos hk]
  have bs := fun k => beginStop_spec k v.srv.clock v
  have bl : ∀ k m, loopAt (beginStop k v.srv.clock v) m = loopAt v m := fun k m => by
    show AMap.getD (beginStop k v.srv.clock v).brd.loops m {} = AMap.getD v.brd.loops m {}
    rw [(bs k).1]
  have be : ∀ k j, epAt (beginStop k v.srv.clock v) j = epAt v j := fun k j => by
    show AMap.getD (beginStop k v.srv.clock v).brd.endpoints j {} = AMap.getD v.brd.endpoints j {}
    rw [(bs k).1]
  have bx : ∀ k, hasSlots .fmt Src.bridle 1 s = true → boxOf (beginStop k v.srv.clock v) .fmt = boxOf s .fmt ++ [mail Src.bridle 0x8001 (s.srv.clock % 2 ^ 40) s] := fun k h => by
    rw [(bs k).2.2.2.2 ((hasSlots_congr d6 _ _).trans h), d6]
    unfold mail
    rw [d4]
  have mo : (if v.brd.motion = Motion.unthreaded then v.brd.motion else Motion.stopping) = (if s.brd.motion = .unthreaded then .unthreaded else .stopping) := by
    rw [d3.2]; split <;> simp_all
  split at hf
  · next h =>
    subst hf
    refine fin t (fun m => ⟨rfl, rfl⟩) rfl (fun k => rfl) rfl (fun k => ?_)
    rw [al0 k] at h; cases h
  · split at hf
    · next hr =>
      subst hf
      refine fin (beginStop .faultReels v.srv.clock v) (fun m => by rw [bl]; exact ⟨rfl, rfl⟩) (bs .faultReels).2.2.2.1 (be .faultReels) (bs .faultReels).2.1
        (fun k => ⟨?_, ?_, bx .faultReels, fun h => ?_⟩)
      · rw [(bs _).1, hr, d4]; rfl
      · rw [(bs _).1]; exact mo
      · rw [hr] at h; cases h
    · next hr =>
      obtain ⟨z, hz⟩ : ∃ z, rampStop (Cfgw.stopSlew v) (beginStop .faultOther v.srv.clock v) = z := ⟨_, rfl⟩
      have z1 : ∀ m, loopAt z m = if m = 0 then { loopAt v 0 with target := speedUnits 0 (beginStop .faultOther v.srv.clock v).srv.reverse, newTarget := true } else loopAt v m := fun m => by
        rw [← hz, loopAt_rampStop, bl, bl]
      have z2 : ∀ k, epAt z k = epAt v k := fun k => by rw [← hz, (rampStop_keeps ..).2.2.2.2]; exact be .faultOther k
      have z3 : z.brd.stop = (beginStop .faultOther v.srv.clock v).brd.stop ∧ z.brd.motion = (beginStop .faultOther v.srv.clock v).brd.motion ∧ z.boxes = (beginStop .faultOther v.srv.clock v).boxes
          ∧ z.ctrs = (beginStop .faultOther v.srv.clock v).ctrs := by
        rw [← hz]; obtain ⟨q1, q2, q3, q4, _⟩ := rampStop_keeps (Cfgw.stopSlew v) (beginStop .faultOther v.srv.clock v); exact ⟨q1, q2, q3, q4⟩
      rw [hz] at hf
      clear hz
      obtain ⟨t0, t1, t2, t3, t4, t5⟩ := ramping_keeps z
      rw [← hf] at t0 t1 t2 t3 t4 t5
      clear hf
      refine fin t (fun m => ?_) ?_ (fun k => (t3 k).trans (z2 k)) ?_ (fun k => ⟨?_, ?_, fun q => ?_, fun h => ?_⟩)
      · rw [t2, z1]
        split
        · next c => subst c; exact ⟨rfl, rfl⟩
        · exact ⟨rfl, rfl⟩
      · unfold ctr; rw [t1, z3.2.2.2]; exact (bs .faultOther).2.2.2.1
      · show t.boxes.wrv = _
        rw [t0, z3.2.2.1]; exact (bs .faultOther).2.1
      · rw [t4, z3.1, (bs .faultOther).1, if_neg hr, d4, Bool.eq_false_of_not_eq_true hr]
        rfl
      · rw [t5, z3.2.1, (bs .faultOther).1]; exact mo
      · show t.boxes.fmt = _
        rw [t0, z3.2.2.1]; exact bx .faultOther q
      · rw [t2, z1, if_pos rfl]
        show speedUnits 0 _ = 0
        unfold speedUnits
        split <;> rfl

/-- Faults of the loops of a list that run (R292). -/
theorem each_faultLoop (e : Nat) (l : List Nat) (s : State) :
    let t := each (fun n s => match (loopAt s n).mode with | .manual | .hold | .auto => faultLoop n e s | _ => s) l s
    (∀ k, (epAt t k).fault = (epAt s k).fault)
      ∧ (∀ m, (loopAt s m).mode = .fault → (loopAt s m).out = 0 → (loopAt t m).mode = .fault ∧ (loopAt t m).out = 0)
      ∧ (∀ m ∈ l, (loopAt s m).mode = .manual ∨ (loopAt s m).mode = .hold ∨ (loopAt s m).mode = .auto → (loopAt t m).mode = .fault ∧ (loopAt t m).out = 0) := by
  induction l generalizing s with
  | nil => exact ⟨fun _ => rfl, fun _ h k => ⟨h, k⟩, by simp⟩
  | cons a l ih =>
    obtain ⟨u, hu, u1, u2, u3, u4⟩ : ∃ u, (match (loopAt s a).mode with | .manual | .hold | .auto => faultLoop a e s | _ => s) = u ∧ (∀ k, (epAt u k).fault = (epAt s k).fault)
        ∧ (∀ m, m ≠ a → (loopAt u m).mode = (loopAt s m).mode ∧ (loopAt u m).out = (loopAt s m).out)
        ∧ ((loopAt s a).mode = .manual ∨ (loopAt s a).mode = .hold ∨ (loopAt s a).mode = .auto → (loopAt u a).mode = .fault ∧ (loopAt u a).out = 0)
        ∧ ((loopAt s a).mode = .fault → loopAt u a = loopAt s a) := by
      obtain ⟨f1, f2, f3, f4, f5, f6⟩ := faultLoop_spec a e s
      refine ⟨_, rfl, ?_⟩
      split
      · next h => exact ⟨fun k => (f5 k).1, f1, fun _ => ⟨f2, f3⟩, fun c => by rw [h] at c; cases c⟩
      · next h => exact ⟨fun k => (f5 k).1, f1, fun _ => ⟨f2, f3⟩, fun c => by rw [h] at c; cases c⟩
      · next h => exact ⟨fun k => (f5 k).1, f1, fun _ => ⟨f2, f3⟩, fun c => by rw [h] at c; cases c⟩
      · next h1 h2 h3 => exact ⟨fun _ => rfl, fun _ _ => ⟨rfl, rfl⟩, fun c => by rcases c with c | c | c <;> simp_all, fun _ => rfl⟩
    intro t
    obtain ⟨i1, i2, i3⟩ := ih u
    have ht : t = each (fun n s => match (loopAt s n).mode with | .manual | .hold | .auto => faultLoop n e s | _ => s) l u := by rw [← hu]; rfl
    rw [ht]
    refine ⟨fun k => (i1 k).trans (u1 k), fun m h k => ?_, fun m hm h => ?_⟩
    · by_cases c : m = a
      · subst c; exact i2 m (by rw [u4 h]; exact h) (by rw [u4 h]; exact k)
      · exact i2 m ((u2 m c).1.trans h) ((u2 m c).2.trans k)
    · by_cases c : m = a
      · subst c; exact i2 m (u3 h).1 (u3 h).2
      · refine i3 m ((List.mem_cons.1 hm).resolve_left c) ?_
        rw [(u2 m c).1]; exact h

theorem loopAt_enableLoop (n m : Nat) (s : State) : loopAt (enableLoop n s) m
    = if m = n ∧ (loopAt s n).mode = .off then { loopAt s n with mode := .manual, out := 0, manual := 0 } else loopAt s m := by
  unfold enableLoop
  split
  · next h =>
    rw [show ∀ z m, loopAt (updBrd (fun b => { b with ran := true }) z) m = loopAt z m from fun _ _ => rfl, loopAt_updLoop]
    simp only [h, and_true]
  · next h => rw [if_neg (fun k => h k.2)]

/-- A loop switched toward AUTO: out of the off state by way of MANUAL (R290). -/
theorem loopAt_autoLoop (n m : Nat) (s : State) : loopAt (autoLoop n s) m
    = if m = n then (if (loopAt s n).mode = .off then { loopAt s n with mode := .manual, out := 0, manual := 0, wantAuto := true }
        else { loopAt s n with wantAuto := (loopAt s n).mode == .manual }) else loopAt s m := by
  unfold autoLoop
  rw [loopAt_updLoop, loopAt_enableLoop, loopAt_enableLoop]
  by_cases h : m = n
  · simp only [h, true_and, if_true]
    split <;> rfl
  · simp only [h, false_and, if_false]

theorem loopAt_disableLoop (n m : Nat) (s : State) : loopAt (disableLoop n s) m
    = if m = n ∧ (loopAt s n).mode ≠ .fault then { loopAt s n with mode := .off, out := 0, wantAuto := false } else loopAt s m := by
  unfold disableLoop
  split
  · next h => rw [if_neg (fun k => k.2 h)]
  · next h =>
    rw [loopAt_updLoop]
    simp only [ne_eq, h, not_false_eq_true, and_true]

theorem loopAt_setTarget (n m : Nat) (t : Int) (s : State) : loopAt (setTarget n t s) m = if m = n then { loopAt s n with target := t, newTarget := true } else loopAt s m :=
  loopAt_updLoop ..

theorem loopAt_takeWrap (w m : Nat) (s : State) : loopAt (takeWrap w s) m
    = if m = 2 then { loopAt s 2 with target := servoTarget w + s.brd.latOffset, newTarget := true } else loopAt s m := loopAt_updLoop ..

theorem loopAt_each_updEp (l : List Nat) (f : Endpoint → Endpoint) (m : Nat) (s : State) : loopAt (each (fun e s => updEp e f s) l s) m = loopAt s m := by
  induction l generalizing s with
  | nil => rfl
  | cons a l ih => exact (ih _).trans (loopAt_updEp ..)

/-- Loops of a list switched off (R290). -/
theorem loopAt_each_disableLoop (l : List Nat) (m : Nat) (s : State) :
    loopAt (each disableLoop l s) m = if m ∈ l ∧ (loopAt s m).mode ≠ .fault then { loopAt s m with mode := .off, out := 0, wantAuto := false } else loopAt s m := by
  induction l generalizing s with
  | nil => simp [each]
  | cons a l ih =>
    refine (ih _).trans ?_
    rw [loopAt_disableLoop]
    by_cases c : m = a
    · subst c
      by_cases h : (loopAt s m).mode = .fault <;> simp [h]
    · simp [c]

/-! ## Frames of the Actuator Links (R295, R298) -/

theorem slotBytes_length (s : State) (e : Nat) : (slotBytes s e).length = 16 := by unfold slotBytes; dsimp only; simp

theorem actFrame_parts (s : State) (l : Nat) : ∃ a b, actFrame s l = a ++ (slotBytes s (l * 3) ++ (slotBytes s (l * 3 + 1) ++ (slotBytes s (l * 3 + 2) ++ b)))
    ∧ a.length = 8 ∧ b.length = 18 := by
  unfold actFrame
  dsimp only
  rw [show (List.range 3).flatMap (fun k => slotBytes s (l * 3 + k)) = slotBytes s (l * 3) ++ (slotBytes s (l * 3 + 1) ++ slotBytes s (l * 3 + 2)) from by
    rw [show List.range 3 = [0, 1, 2] from rfl]; simp]
  generalize crc16 _ = c
  exact ⟨be 1 ((if s.brd.ran then 1 else 2) * 16 + 1) ++ be 1 (AMap.getD s.brd.links l {}).seq ++ zeros 6, zeros 16 ++ be 2 c, by simp only [List.append_assoc], by simp, by simp⟩

theorem epType_le (e : Nat) : epType e ≤ 5 := by
  unfold epType
  rcases e with _ | _ | _ | _ | _ | _ | e <;> simp [List.getD]

/-- The type and command of a slot, wherever its bytes stand. -/
theorem slot_at (s : State) (e : Nat) (a b : Bytes) :
    beAt (a ++ (slotBytes s e ++ b)) a.length 1 = epType e * 16 ∧ beAt (a ++ (slotBytes s e ++ b)) (a.length + 1) 1 = epCommand s e % 256 := by
  have h := epType_le e
  unfold slotBytes
  dsimp only
  simp only [List.append_assoc]
  refine ⟨(beAt_append ..).trans (by omega), ?_⟩
  rw [← List.append_assoc a]
  have k : (a ++ be 1 (epType e * 16)).length = a.length + 1 := by simp
  rw [← k]
  exact (beAt_append ..).trans (by omega)

/-- A command frame as it is sent (R295): its length, its CRC, its sequence number and its slots. -/
theorem actFrame_spec (s : State) (l : Nat) :
    (actFrame s l).length = 74 ∧ (actFrame s l).drop 72 = be 2 (crc16 ((actFrame s l).take 72)) ∧ beAt (actFrame s l) 1 1 = (AMap.getD s.brd.links l {}).seq % 256
      ∧ ∀ k, k < 3 → beAt (actFrame s l) (8 + 16 * k) 1 = epType (l * 3 + k) * 16 ∧ beAt (actFrame s l) (9 + 16 * k) 1 = epCommand s (l * 3 + k) % 256 := by
  refine ⟨?_, ?_, ?_, fun k hk => ?_⟩
  · obtain ⟨a, b, h, h1, h2⟩ := actFrame_parts s l
    rw [h]
    simp only [List.length_append, slotBytes_length, h1, h2]
  · unfold actFrame
    dsimp only
    rw [show (List.range 3).flatMap (fun k => slotBytes s (l * 3 + k)) = slotBytes s (l * 3) ++ (slotBytes s (l * 3 + 1) ++ slotBytes s (l * 3 + 2)) from by
      rw [show List.range 3 = [0, 1, 2] from rfl]; simp]
    obtain ⟨x, hx, hl⟩ : ∃ x, be 1 ((if s.brd.ran then 1 else 2) * 16 + 1) ++ be 1 (AMap.getD s.brd.links l {}).seq ++ zeros 6
        ++ (slotBytes s (l * 3) ++ (slotBytes s (l * 3 + 1) ++ slotBytes s (l * 3 + 2))) ++ zeros 16 = x ∧ x.length = 72 :=
      ⟨_, rfl, by simp only [List.length_append, slotBytes_length, be_length, zeros_length]⟩
    rw [hx, ← hl, List.drop_left, List.take_left]
  · unfold actFrame
    dsimp only
    have := beAt_append (be 1 ((if s.brd.ran then 1 else 2) * 16 + 1)) (zeros 6 ++ ((List.range 3).flatMap (fun k => slotBytes s (l * 3 + k)) ++ (zeros 16 ++ be 2 (crc16
      (be 1 ((if s.brd.ran then 1 else 2) * 16 + 1) ++ be 1 (AMap.getD s.brd.links l {}).seq ++ zeros 6 ++ (List.range 3).flatMap (fun k => slotBytes s (l * 3 + k)) ++ zeros 16)))))
      1 (AMap.getD s.brd.links l {}).seq
    rw [be_length] at this
    simp only [List.append_assoc] at this ⊢
    exact this.trans (by omega)
  · obtain ⟨a, b, h, h1, h2⟩ := actFrame_parts s l
    rw [h]
    have h16 := slotBytes_length s
    rcases k with _ | _ | _ | k
    · have := slot_at s (l * 3) a (slotBytes s (l * 3 + 1) ++ (slotBytes s (l * 3 + 2) ++ b))
      rw [h1] at this
      exact this
    · have := slot_at s (l * 3 + 1) (a ++ slotBytes s (l * 3)) (slotBytes s (l * 3 + 2) ++ b)
      rw [List.length_append, h1, h16, List.append_assoc] at this
      exact this
    · have := slot_at s (l * 3 + 2) (a ++ (slotBytes s (l * 3) ++ slotBytes s (l * 3 + 1))) b
      rw [List.length_append, List.length_append, h1, h16, h16, List.append_assoc, List.append_assoc] at this
      exact this
    · omega

/-- Taking an entry of a mailbox changes no other mailbox (R15). -/
theorem Takes.other_box {b c : Box} {src code arg : Nat} {s u : State} (h : Takes b src code arg s u) (n : c ≠ b) : boxOf u c = boxOf s c := by
  cases h with
  | head m h e =>
    have k : boxOf (setBox b (dropFirst (sameMail src code arg) (boxOf s b)) s) c = boxOf s c := (boxOf_setBox ..).trans (if_neg n)
    generalize setBox b (dropFirst (sameMail src code arg) (boxOf s b)) s = v at k ⊢
    unfold refillBox
    split
    · unfold pushBox
      rw [boxOf_setBox, if_neg n]
      cases c <;> exact k
    · exact k
  | direct h => rfl

theorem tapeAtRest_congr {s t : State} (h1 : t.brd = s.brd) (h2 : t.srv = s.srv) : tapeAtRest t = tapeAtRest s := by unfold tapeAtRest; rw [h1, h2]

/-- Loops in FAULT switched off and their endpoints released (R299). -/
theorem each_release (l : List Nat) (s : State) :
    let t := each (fun n s => each (fun e s => updEp e (fun x => { x with cmd := 0 }) s) (loopEndpoints n)
        (updLoop n (fun x => { x with mode := .off, out := 0, fe := 0 }) s)) l s
    (∀ n, n ∈ l ∨ (loopAt s n).mode = .off ∧ (loopAt s n).fe = 0 → (loopAt t n).mode = .off ∧ (loopAt t n).fe = 0)
      ∧ t.brd.stop = s.brd.stop ∧ t.boxes = s.boxes ∧ t.srv = s.srv := by
  induction l generalizing s with
  | nil => exact ⟨by simp [each], rfl, rfl, rfl⟩
  | cons a l ih =>
    intro t
    obtain ⟨eps, e1, e2⟩ := each_updEp (fun x => { x with cmd := 0 }) (fun _ => rfl) (loopEndpoints a) (updLoop a (fun x => { x with mode := .off, out := 0, fe := 0 }) s)
    obtain ⟨i1, i2, i3, i4⟩ := ih (updBrd (fun b => { b with endpoints := eps }) (updLoop a (fun x => { x with mode := .off, out := 0, fe := 0 }) s))
    have ht : t = each (fun n s => each (fun e s => updEp e (fun x => { x with cmd := 0 }) s) (loopEndpoints n)
        (updLoop n (fun x => { x with mode := .off, out := 0, fe := 0 }) s)) l (updBrd (fun b => { b with endpoints := eps }) (updLoop a (fun x => { x with mode := .off, out := 0, fe := 0 }) s)) := by
      rw [← e1]; rfl
    rw [ht]
    refine ⟨fun n hn => i1 n ?_, i2, i3, i4⟩
    have q : loopAt (updBrd (fun b => { b with endpoints := eps }) (updLoop a (fun x => { x with mode := .off, out := 0, fe := 0 }) s)) n
        = if n = a then { loopAt s a with mode := .off, out := 0, fe := 0 } else loopAt s n :=
      (show loopAt (updBrd (fun b => { b with endpoints := eps }) (updLoop a (fun x => { x with mode := .off, out := 0, fe := 0 }) s)) n
        = loopAt (updLoop a (fun x => { x with mode := .off, out := 0, fe := 0 }) s) n from rfl).trans (loopAt_updLoop ..)
    rw [q]
    rcases hn with h | h
    · rcases List.mem_cons.1 h with rfl | h
      · right; rw [if_pos rfl]; exact ⟨rfl, rfl⟩
      · exact .inl h
    · right; split
      · exact ⟨rfl, rfl⟩
      · exact h

theorem allAcquiring_lock {p : Nat} (hp : p < 132) (s : State) : (chanAt (allAcquiring s) p).lock = .acquiring := by
  unfold allAcquiring
  exact (each_toAcquiring _ s).1 p (List.mem_range.2 hp)

theorem cancelKind_rch (k o : Nat) (s : State) : (cancelKind k o s).rch = s.rch := rfl

theorem cancelKind_ctrs (k o : Nat) (s : State) : (cancelKind k o s).ctrs = s.ctrs := rfl

theorem cancelKind_sched (k o : Nat) (s : State) : (cancelKind k o s).srv.sched = s.srv.sched.filter fun x => !(x.2.kind == k && x.2.owner == o) := rfl

/-- What the beginning of a repositioning leaves (R289). -/
theorem startRepos_spec (r : Repos) (s : State) :
    (startRepos r s).brd.motion = .repositioning ∧ (startRepos r s).brd.repos = some { r with step := 1 } ∧ (loopAt (startRepos r s) 0).target = 0
      ∧ (startRepos r s).brd.slew = r.slew ∧ ctr (startRepos r s) 0x0D008C = satAdd (ctr s 0x0D008C) 1
      ∧ (∀ x ∈ (startRepos r s).srv.sched, ¬(x.2.kind = Kind.turnaround ∧ x.2.owner = 3)) ∧ ∀ p, p < 132 → (chanAt (startRepos r s) p).lock = .acquiring := by
  obtain ⟨u, hu, u1, u2, u3⟩ : ∃ u, cancelKind Kind.turnaround 3 (allAcquiring s) = u ∧ ctr u 0x0D008C = ctr s 0x0D008C ∧ (∀ x ∈ u.srv.sched, ¬(x.2.kind = Kind.turnaround ∧ x.2.owner = 3))
      ∧ ∀ p, p < 132 → (chanAt u p).lock = .acquiring := by
    refine ⟨_, rfl, ?_, fun x hx => ?_, fun p hp => ?_⟩
    · unfold ctr
      rw [cancelKind_ctrs, (allAcquiring_frame s).same .ctrs rfl]
    · rw [cancelKind_sched] at hx
      have := (List.mem_filter.1 hx).2
      rintro ⟨c1, c2⟩
      simp [c1, c2] at this
    · rw [chanAt_of_rch (cancelKind_rch ..)]; exact allAcquiring_lock hp s
  unfold startRepos
  dsimp only
  rw [hu]
  clear hu
  have k : ∀ z, ctr (rampStop r.slew z) 0x0D008C = ctr z 0x0D008C ∧ (rampStop r.slew z).srv = z.srv ∧ (rampStop r.slew z).rch = z.rch ∧ (rampStop r.slew z).brd.repos = z.brd.repos
      ∧ (rampStop r.slew z).brd.slew = r.slew ∧ (rampStop r.slew z).brd.motion = z.brd.motion := fun z => ⟨rfl, rfl, rfl, rfl, rfl, rfl⟩
  obtain ⟨v, hv, v1, v2, v3, v4, v5⟩ : ∃ v, updBrd (fun b => { b with motion := .repositioning, repos := some { r with step := 1 }, settledCount := 0 }) (inc 0x0D008C u) = v
      ∧ ctr v 0x0D008C = satAdd (ctr u 0x0D008C) 1 ∧ v.srv = u.srv ∧ v.rch = u.rch ∧ v.brd.repos = some { r with step := 1 } ∧ v.brd.motion = .repositioning :=
    ⟨_, rfl, (ctr_inc ..).trans (if_pos rfl), rfl, rfl, rfl, rfl⟩
  rw [hv]
  obtain ⟨k1, k2, k3, k4, k5, k6⟩ := k v
  refine ⟨k6.trans v5, k4.trans v4, ?_, k5, k1.trans (v1.trans (congrArg (satAdd · 1) u1)), ?_, fun p hp => ?_⟩
  · rw [loopAt_rampStop, if_pos rfl]
    show speedUnits 0 _ = 0
    unfold speedUnits
    split <;> rfl
  · rw [k2, v2]; exact u2
  · rw [chanAt_of_rch (k3.trans v3)]; exact u3 p hp

end Sys2Proof.Machine
end

