-- ==== Sys2Proof/Laws/Decoder.lean ====
section
/-!
SUPPORT. Decoding and the recovery ladder: what the operations of read staging, the weak list and the decoders keep of the read
channels' state and of the ladder's counters, and what the ladder's own ends leave.
-/

namespace Sys2Proof.Machine

/-- Counters of the rungs, of a failed ladder, of C3 and of rebuilt DSITs. -/
def ladderCtrs : List Nat := [0x0B0100, 0x0B0104, 0x0B0108, 0x0B010C, 0x0B0110, 0x0B0114, 0x0B0118, 0x0B011C, 0x0B0120, 0x05011C]

/-- The read channels keep all but staging, the weak list, the channels and the class they have loaded. -/
def Rch.core (r : Rch) : Rch := { r with staging := [], weak := [], chans := [], cls := 0 }

/-- What the operations of staging, weak list and decoders keep. -/
structure RchKept (s t : State) : Prop where
  core : t.rch.core = s.rch.core
  counts : ∀ c ∈ ladderCtrs, ctr t c = ctr s c

theorem RchKept.refl (s : State) : RchKept s s := ⟨rfl, fun _ _ => rfl⟩

theorem RchKept.trans {s t u : State} (h : RchKept s t) (k : RchKept t u) : RchKept s u :=
  ⟨k.core.trans h.core, fun c m => (k.counts c m).trans (h.counts c m)⟩

theorem RchKept.of_counts {s t : State} (h : t.rch.core = s.rch.core) (k : OtherCounts s t) : RchKept s t :=
  ⟨h, fun c m => k.same c (by rintro rfl; revert m; decide) (by rintro rfl; revert m; decide) (by rintro rfl; revert m; decide)⟩

theorem RchKept.of_frame {s t : State} {m : Nat} (h : Frame m s t) (b1 : m.testBit 8 = false) (b2 : m.testBit 17 = false) : RchKept s t :=
  .of_counts (congrArg Rch.core (h.same .rch b1)) (.of_ctrs (h.same .ctrs b2))

theorem RchKept.inc (n : Nat) (h : n ∉ ladderCtrs) (s : State) : RchKept s (inc n s) :=
  ⟨rfl, fun c m => by rw [ctr_inc, if_neg (by rintro rfl; exact h m)]⟩

theorem RchKept.addCtr (n k : Nat) (h : n ∉ ladderCtrs) (s : State) : RchKept s (addCtr n k s) :=
  ⟨rfl, fun c m => by rw [ctr_addCtr, if_neg (by rintro rfl; exact h m)]⟩

theorem RchKept.each {α : Type} (f : α → State → State) (h : ∀ a s, RchKept s (f a s)) (l : List α) (s : State) : RchKept s (each f l s) := by
  induction l generalizing s with
  | nil => exact .refl s
  | cons a l ih => exact (h a s).trans (ih _)

theorem RchKept.sub {s t : State} (h : RchKept s t) : t.rch.ladder = s.rch.ladder ∧ t.rch.seek = s.rch.seek ∧ t.rch.busy = s.rch.busy
    ∧ t.rch.lastRead = s.rch.lastRead ∧ t.rch.readAhead = s.rch.readAhead ∧ t.rch.raPart = s.rch.raPart ∧ t.rch.raRing = s.rch.raRing := by
  have k := h.core
  exact ⟨show t.rch.core.ladder = s.rch.core.ladder by rw [k], show t.rch.core.seek = s.rch.core.seek by rw [k], show t.rch.core.busy = s.rch.core.busy by rw [k],
    show t.rch.core.lastRead = s.rch.core.lastRead by rw [k], show t.rch.core.readAhead = s.rch.core.readAhead by rw [k],
    show t.rch.core.raPart = s.rch.core.raPart by rw [k], show t.rch.core.raRing = s.rch.core.raRing by rw [k]⟩

theorem post_rchKept (b : Box) (src code arg : Nat) (s : State) : RchKept s (post b src code arg s) :=
  .of_counts (congrArg Rch.core ((post_frame ..).same .rch rfl)) (post_counts ..)

theorem postEvent_rchKept (src bl ev : Nat) (p : Bool) (arg : Nat) (s : State) : RchKept s (postEvent src bl ev p arg s) :=
  .of_counts (congrArg Rch.core ((postEvent_frame ..).same .rch rfl)) (pushMgt_counts ..)

theorem passOver_rchKept (p ds v : Nat) (s : State) : RchKept s (passOver p ds v s) := by
  unfold passOver sendTape
  split
  · exact (post_rchKept ..).trans (post_rchKept ..)
  · exact .refl s

theorem sendOffset_rchKept (nm : Int) (s : State) : RchKept s (sendOffset nm s) := post_rchKept ..

theorem restoreSpeed_rchKept (s : State) : RchKept s (restoreSpeed s) := post_rchKept ..

theorem leaveRung_rchKept (st : LadderSt) (s : State) : RchKept s (leaveRung st s) := by
  unfold leaveRung
  split
  · exact restoreSpeed_rchKept s
  · exact (sendOffset_rchKept 0 s).trans (restoreSpeed_rchKept _)
  · exact .refl s

theorem loadTaps_rchKept (c : Nat) (s : State) : RchKept s (loadTaps c s) := ⟨rfl, fun _ _ => rfl⟩

/-! ## Staging -/

theorem freeStaged_rchKept (x : Staged) (s : State) : RchKept s (freeStaged x s) :=
  .of_counts (congrArg Rch.core ((freeStaged_frame ..).same .rch rfl)) (.each _ (giveBack_counts _) _ _)

theorem stageRoom_rchKept (n f : Nat) (s : State) : RchKept s (stageRoom n f s) := by
  induction f generalizing s with
  | zero => exact .refl s
  | succ f ih =>
    unfold stageRoom
    split
    · exact .refl s
    · split
      · exact .refl s
      · next x xs _ =>
        refine RchKept.trans ?_ (ih _)
        have k := freeStaged_rchKept x (updRch (fun r => { r with staging := xs }) s)
        exact ⟨k.core, k.counts⟩

theorem each_freeStaged_rch (l : List Staged) (s : State) : (each freeStaged l s).rch = s.rch := by
  induction l generalizing s with
  | nil => rfl
  | cons a l ih => exact (ih _).trans ((freeStaged_frame a s).same .rch rfl)

/-- A data set given up: no staging entry of it is left, and the others stand. -/
theorem unstage_spec (p ds : Nat) (s : State) :
    RchKept s (unstage p ds s) ∧ (unstage p ds s).rch.staging = s.rch.staging.filter fun x => !isSet p ds x := by
  unfold unstage
  refine ⟨RchKept.trans (t := updRch (fun r => { r with staging := r.staging.filter (fun x => !isSet p ds x) }) s) ⟨rfl, fun _ _ => rfl⟩ (.each _ freeStaged_rchKept _ _), ?_⟩
  rw [each_freeStaged_rch]
  rfl

/-- A data stream entered in read staging is there. -/
theorem stage_spec (d p ds : Nat) (b : Bytes) (s : State) :
    RchKept s (stage d p ds b s) ∧ ∃ x ∈ (stage d p ds b s).rch.staging, x.part = p ∧ x.ds = ds ∧ x.stream = b := by
  unfold stage
  dsimp only
  have k := (unstage_spec p ds s).1.trans (stageRoom_rchKept 75 ((unstage p ds s).rch.staging.length + 1) (unstage p ds s))
  generalize stageRoom 75 ((unstage p ds s).rch.staging.length + 1) (unstage p ds s) = u at *
  refine ⟨?_, ?_⟩
  · have kg : ∀ g : Option (List Handle) × State, RchKept u g.2 → RchKept s (updRch (fun r => { r with staging := r.staging ++ [{ part := p, ds := ds, stream := b, stalls := g.1.getD [], decoder := d % 4 }] }) g.2) :=
      fun g h => (k.trans h).trans ⟨rfl, fun _ _ => rfl⟩
    refine kg _ ?_
    split
    · exact .of_counts (congrArg Rch.core ((acquire_frame ..).same .rch rfl)) (acquireFrom_counts ..)
    · exact .refl u
  · exact ⟨_, List.mem_append_right _ (List.mem_singleton.2 rfl), rfl, rfl, rfl⟩

/-! ## The weak list -/

theorem touchPage_rchKept (l : Nat) (w : Bool) (s : State) : RchKept s (touchPage l w s) := by
  have kc : ∀ u, RchKept u (startCheckpoint u) := fun u => .of_frame (startCheckpoint_frame u) rfl rfl
  have ku : ∀ (f : Shd → Shd) u, RchKept u (updShd f u) := fun f u => ⟨rfl, fun _ _ => rfl⟩
  unfold touchPage
  dsimp only
  split
  · exact ku _ _
  · split
    · exact .refl s
    · refine RchKept.trans ?_ (ku _ _)
      have k1 : RchKept s (if mem? s.shd.pagesStored (l / 4096) then inc 0x0E0120 s else s) := by
        split
        · exact .inc _ (by decide) s
        · exact .refl s
      generalize (if mem? s.shd.pagesStored (l / 4096) then inc 0x0E0120 s else s) = u at k1 ⊢
      split
      · exact k1.trans (kc u)
      · exact k1

theorem unmapRange_rchKept (a n : Nat) (s : State) : RchKept s (unmapRange a n s) := by
  unfold unmapRange
  refine .each _ (fun x s => ?_) _ _
  refine ((touchPage_rchKept x.1 true s).trans ?_).trans (.of_frame (invalidate_frame ..) rfl rfl)
  exact ⟨rfl, fun _ _ => rfl⟩

theorem releaseWeak_rchKept (w : Weak) (s : State) : RchKept s (releaseWeak w s) ∧ (releaseWeak w s).rch.staging = s.rch.staging := by
  unfold releaseWeak
  obtain ⟨u, hu⟩ : ∃ u, updRch (fun r => { r with weak := r.weak.filter fun x => x.slot != w.slot }) s = u := ⟨_, rfl⟩
  have k1 : RchKept s u := by rw [← hu]; exact ⟨rfl, fun _ _ => rfl⟩
  have k2 : u.rch.staging = s.rch.staging := by rw [← hu]; rfl
  rw [hu]
  refine ⟨((k1.trans (unmapRange_rchKept ..)).trans (.of_frame (journalRec_frame ..) rfl rfl)).trans (.of_frame (settleBlocks_frame _) rfl rfl), ?_⟩
  rw [(settleBlocks_frame _).same .rch rfl, (journalRec_frame ..).same .rch rfl, (unmapRange_frame ..).same .rch rfl, k2]

theorem takeWeakSlot_rchKept {s u : State} {k : Nat} (h : takeWeakSlot s = some (k, u)) : RchKept s u ∧ u.rch.staging = s.rch.staging := by
  unfold takeWeakSlot at h
  split at h
  · cases h
  · split at h
    · cases h; exact ⟨.refl s, rfl⟩
    · obtain ⟨w, -, e⟩ := Option.map_eq_some_iff.1 h
      cases e
      exact releaseWeak_rchKept ..

theorem enterWeak_rchKept (p ds r : Nat) (b : Bytes) (s : State) : RchKept s (enterWeak p ds r b s) ∧ (enterWeak p ds r b s).rch.staging = s.rch.staging := by
  unfold enterWeak
  dsimp only
  split
  · exact ⟨.refl s, rfl⟩
  · split
    · exact ⟨.inc _ (by decide) s, rfl⟩
    · next k u h =>
      obtain ⟨k1, k2⟩ := takeWeakSlot_rchKept h
      obtain ⟨v, hv, v1, v2⟩ : ∃ v, inc 0x0B0124 (updRch (fun x => { x with weak := x.weak ++ [{ slot := k, serial := u.cart.serial, writePass := u.cart.writePass, part := p, ds := ds, rung := r, stream := b, posted := false }] }) u) = v
          ∧ RchKept u v ∧ v.rch.staging = u.rch.staging := by
        refine ⟨_, rfl, ⟨rfl, fun c m => ?_⟩, rfl⟩
        rw [ctr_inc, if_neg (by rintro rfl; revert m; decide)]
        rfl
      rw [hv]
      refine ⟨((k1.trans v1).trans (.of_frame (storeUnits_frame ..) rfl rfl)).trans (.of_frame (pumpAll_frame _) rfl rfl), ?_⟩
      rw [(pumpAll_frame _).same .rch rfl, (storeUnits_frame ..).same .rch rfl, v2, k2]

/-! ## Decoders -/

/-- Only the channels' state and counters change. -/
def OnlyChans (s t : State) : Prop := ∃ ch c, t = { s with rch := { s.rch with chans := ch }, ctrs := c }

theorem OnlyChans.refl (s : State) : OnlyChans s s := ⟨s.rch.chans, s.ctrs, rfl⟩

theorem OnlyChans.trans {s t u : State} (h : OnlyChans s t) (k : OnlyChans t u) : OnlyChans s u := by
  obtain ⟨a, b, rfl⟩ := h
  obtain ⟨c, d, rfl⟩ := k
  exact ⟨c, d, rfl⟩

theorem OnlyChans.each {α : Type} (f : α → State → State) (h : ∀ a s, OnlyChans s (f a s)) (l : List α) (s : State) : OnlyChans s (each f l s) := by
  induction l generalizing s with
  | nil => exact .refl s
  | cons a l ih => exact (h a s).trans (ih _)

theorem OnlyChans.inc (n : Nat) (s : State) : OnlyChans s (inc n s) := ⟨s.rch.chans, _, rfl⟩

theorem OnlyChans.addCtr (n k : Nat) (s : State) : OnlyChans s (addCtr n k s) := ⟨s.rch.chans, _, rfl⟩

theorem OnlyChans.updChan (p : Nat) (f : Chan → Chan) (s : State) : OnlyChans s (updChan p f s) := ⟨_, s.ctrs, rfl⟩

theorem updChan_rchKept (p : Nat) (f : Chan → Chan) (s : State) : RchKept s (updChan p f s) := ⟨rfl, fun _ _ => rfl⟩

/-- What decoding rows leaves beside its result (R198, R260). -/
theorem decodeRows_spec (p ds : Nat) (o : Bool) (pool : AMap SdsPool) (xs : List RowRead) (s : State) :
    OnlyChans s (decodeRows p ds o pool xs s).2 ∧ RchKept s (decodeRows p ds o pool xs s).2 := by
  have kr : ∀ bs u, OnlyChans u (countRows bs u) ∧ RchKept u (countRows bs u) := fun bs u => by
    unfold countRows
    exact ⟨(((OnlyChans.addCtr ..).trans (.addCtr ..)).trans (.addCtr ..)).trans (.each _ (fun _ _ => .updChan ..) _ _),
      (((RchKept.addCtr _ _ (by decide) _).trans (.addCtr _ _ (by decide) _)).trans (.addCtr _ _ (by decide) _)).trans (.each _ (fun _ _ => updChan_rchKept ..) _ _)⟩
  have kd : ∀ cfg cp d u, OnlyChans u (countDecode cfg pool cp d u) ∧ RchKept u (countDecode cfg pool cp d u) := fun cfg cp d u => by
    unfold countDecode countChans
    exact ⟨(((((OnlyChans.addCtr ..).trans (.addCtr ..)).trans (.addCtr ..)).trans (.addCtr ..)).trans (.addCtr ..)).trans (.each _ (fun _ _ => .updChan ..) _ _),
      (((((RchKept.addCtr _ _ (by decide) _).trans (.addCtr _ _ (by decide) _)).trans (.addCtr _ _ (by decide) _)).trans (.addCtr _ _ (by decide) _)).trans
        (.addCtr _ _ (by decide) _)).trans (.each _ (fun _ _ => updChan_rchKept ..) _ _)⟩
  unfold decodeRows
  exact ⟨(kr _ _).1.trans (kd _ _ _ _).1, (kr _ _).2.trans (kd _ _ _ _).2⟩

/-- What an attempt leaves beside its result: a count where the DSIT does not hold. -/
theorem attempt_spec (p ds : Nat) (pool : AMap SdsPool) (s : State) :
    OnlyChans s (attempt p ds pool s).2.2 ∧ RchKept s (attempt p ds pool s).2.2 := by
  unfold attempt
  split
  · exact ⟨.refl s, .refl s⟩
  · split
    · exact ⟨.refl s, .refl s⟩
    · dsimp only
      split
      · exact ⟨.inc .., .inc _ (by decide) s⟩
      · exact ⟨.refl s, .refl s⟩

/-- Reading a Loft's members counts, beside what decoding counts, only those decoded at rung 0. -/
theorem readMembers_spec (p l : Nat) (xs : List (Nat × List RowRead)) (s : State) :
    OnlyChans s (readMembers p l xs s).2 ∧ (readMembers p l xs s).2.rch.core = s.rch.core
      ∧ ∀ c ∈ ladderCtrs, c ≠ 0x0B0100 → ctr (readMembers p l xs s).2 c = ctr s c := by
  induction xs generalizing s with
  | nil => exact ⟨.refl s, rfl, fun _ _ _ => rfl⟩
  | cons x xs ih =>
    obtain ⟨ds, rows⟩ := x
    unfold readMembers
    split
    · exact ih s
    · dsimp only
      obtain ⟨k1, k2⟩ := decodeRows_spec p ds false [] rows s
      obtain ⟨u, hu, u1, u2, u3⟩ : ∃ u, (if (attempt p ds (poolOf (decodeRows p ds false [] rows s).1) s).1.isSome then inc 0x0B0100 (decodeRows p ds false [] rows s).2
          else (decodeRows p ds false [] rows s).2) = u ∧ OnlyChans s u ∧ u.rch.core = s.rch.core ∧ ∀ c ∈ ladderCtrs, c ≠ 0x0B0100 → ctr u c = ctr s c := by
        refine ⟨_, rfl, ?_⟩
        split
        · exact ⟨k1.trans (.inc ..), k2.core, fun c m n => by rw [ctr_inc, if_neg n]; exact k2.counts c m⟩
        · exact ⟨k1, k2.core, fun c m _ => k2.counts c m⟩
      rw [hu]
      obtain ⟨i1, i2, i3⟩ := ih u
      exact ⟨u1.trans i1, i2.trans u2, fun c m n => (i3 c m n).trans (u3 c m n)⟩

/-! ## Who waits for a data set -/

theorem tapeRun_congr {s t : State} {p : Nat} (h1 : ∀ ds, tapeSet t p ds = tapeSet s p ds) (h2 : ∀ ds b, nextUser t p ds b = nextUser s p ds b)
    (f ds off at_ : Nat) : tapeRun t p f ds off at_ = tapeRun s p f ds off at_ := by
  induction f generalizing ds off at_ with
  | zero => rfl
  | succ f ih =>
    unfold tapeRun
    rw [h1]
    split
    · rfl
    · simp only [h2, ih]

theorem fromTape_congr {s t : State} (h1 : t.parts = s.parts) (h2 : t.cart = s.cart) (h3 : t.rch.staging = s.rch.staging) (h4 : t.rch.raRing = s.rch.raRing)
    (h5 : t.rch.weak = s.rch.weak) (p n k : Nat) : fromTape t p n k = fromTape s p n k := by
  have e1 : ∀ p, partAt t p = partAt s p := fun p => by unfold partAt; rw [h1]
  have e2 : ∀ p ds, tapeSet t p ds = tapeSet s p ds := fun p ds => by unfold tapeSet; simp only [h2, h3, h4, h5]
  have e3 : ∀ ds b, nextUser t p ds b = nextUser s p ds b := fun ds b => by unfold nextUser; simp only [e2]
  have e4 : ∀ n g, walkStart t p n g = walkStart s p n g := fun n g => by unfold walkStart; simp only [h2, h3, h4, h5, e2]
  have e5 : ∀ n g, loftStart t p n g = loftStart s p n g := fun n g => by unfold loftStart; simp only [e1]
  unfold fromTape
  simp only [e1, e4, e5, h3, h4, h5, tapeRun_congr (e2 p) e3]

/-- The commands that wait for a data set change only with the commands, the versions and the data sets at hand. -/
theorem needers_congr {s t : State} (h0 : t.hq = s.hq) (h1 : t.parts = s.parts) (h2 : t.cart = s.cart) (h3 : t.rch.staging = s.rch.staging) (h4 : t.rch.raRing = s.rch.raRing)
    (h5 : t.rch.weak = s.rch.weak) (h6 : t.shd = s.shd) (p ds : Nat) : needers t p ds = needers s p ds := by
  unfold needers readNeeds_ versionFor lossListed
  simp only [h0, h2, h6, fromTape_congr h1 h2 h3 h4 h5]

theorem OnlyChans.needers {s t : State} (h : OnlyChans s t) (p ds : Nat) : needers t p ds = needers s p ds := by
  obtain ⟨ch, c, e⟩ := h
  exact needers_congr (by rw [e]) (by rw [e]) (by rw [e]) (by rw [e]) (by rw [e]) (by rw [e]) (by rw [e]) p ds

/-! ## The ladder -/

theorem setLadder_ladder (l : Option Ladder) (s : State) : (setLadder l s).rch.ladder = l := rfl

theorem slowPass_spec (l : Ladder) (k : Nat) (s : State) : RchKept (setLadder (some { l with st := .slow, done := k }) s) (slowPass l k s) := by
  unfold slowPass
  dsimp only
  exact ((loadTaps_rchKept ..).trans (sendOffset_rchKept ..)).trans (passOver_rchKept ..)

theorem rereadPass_spec (l : Ladder) (k : Nat) (s : State) : RchKept (setLadder (some { l with st := .reread, done := k }) s) (rereadPass l k s) :=
  passOver_rchKept ..

/-- A data set that goes up the ladder (R247). -/
theorem startLadder_spec (p ds : Nat) (pool : AMap SdsPool) (s : State) (h : s.rch.ladder = none) :
    (startLadder p ds pool s).rch.ladder = some ⟨p, ds, if rereadCount s = 0 then .slow else .reread, 0, pool⟩ ∧ (startLadder p ds pool s).rch.readAhead = false
      ∧ (∀ x ∈ (startLadder p ds pool s).rch.staging, ¬(x.part = p ∧ x.ds = ds)) ∧ (startLadder p ds pool s).rch.busy = s.rch.busy := by
  obtain ⟨v, hv, v1, v2, v3, v4⟩ : ∃ v, updRch (fun r => { r with readAhead := false, raRing := r.raRing.filter fun x => !(x.1 == p && x.2.1 == ds) }) s = v
      ∧ v.rch.readAhead = false ∧ v.rch.busy = s.rch.busy ∧ v.cfg = s.cfg ∧ True := ⟨_, rfl, rfl, rfl, rfl, trivial⟩
  obtain ⟨u1, u2⟩ := unstage_spec p ds v
  have k := u1.trans (postEvent_rchKept Src.dec 0x05 0x01 false (ds % 2 ^ 32 + p * 2 ^ 32) (unstage p ds v))
  have ks : (postEvent Src.dec 0x05 0x01 false (ds % 2 ^ 32 + p * 2 ^ 32) (unstage p ds v)).rch.staging = v.rch.staging.filter fun x => !isSet p ds x := by
    rw [(postEvent_frame ..).same .rch rfl, u2]
  unfold startLadder
  dsimp only
  rw [if_neg (by rw [h]; decide), hv]
  generalize postEvent Src.dec 0x05 0x01 false (ds % 2 ^ 32 + p * 2 ^ 32) (unstage p ds v) = w at *
  have fin : ∀ st t, RchKept (setLadder (some ⟨p, ds, st, 0, pool⟩) w) t → t.rch.staging = w.rch.staging →
      t.rch.ladder = some ⟨p, ds, st, 0, pool⟩ ∧ t.rch.readAhead = false ∧ (∀ x ∈ t.rch.staging, ¬(x.part = p ∧ x.ds = ds)) ∧ t.rch.busy = s.rch.busy := by
    intro st t kt ht
    obtain ⟨a1, a2, a3, a4, a5, a6, a7⟩ := kt.sub
    obtain ⟨b1, b2, b3, b4, b5, b6, b7⟩ := k.sub
    refine ⟨a1, a5.trans (b5.trans v1), fun x hx e => ?_, a3.trans (b3.trans v2)⟩
    rw [ht, ks] at hx
    have := (List.mem_filter.1 hx).2
    simp [isSet, e.1, e.2] at this
  split
  · refine fin .slow _ (slowPass_spec ⟨p, ds, .reread, 0, pool⟩ 0 w) ?_
    unfold slowPass
    dsimp only
    rw [(passOver_frame ..).same .rch rfl, (sendOffset_frame ..).same .rch rfl]
    rfl
  · refine fin .reread _ (rereadPass_spec ⟨p, ds, .reread, 0, pool⟩ 0 w) ?_
    unfold rereadPass
    rw [(passOver_frame ..).same .rch rfl]
    rfl

/-- The end of a ladder that has decoded its data set. -/
theorem ladderDone_spec (l : Ladder) (d : Nat) (b : Bytes) (s : State) :
    (ladderDone l d b s).rch.ladder = none ∧ (ladderDone l d b s).rch.seek = none ∧ (ladderDone l d b s).rch.lastRead = some (l.part, l.ds)
      ∧ (ladderDone l d b s).rch.busy = s.rch.busy
      ∧ ctr (ladderDone l d b s) (0x0B0100 + 4 * rungOf l.st) = satAdd (ctr s (0x0B0100 + 4 * rungOf l.st)) 1
      ∧ (l.st = .loft → ctr (ladderDone l d b s) 0x05011C = satAdd (ctr s 0x05011C) 1 ∧ ctr (ladderDone l d b s) 0x0B0120 = ctr s 0x0B0120)
      ∧ ∃ x ∈ (ladderDone l d b s).rch.staging, x.part = l.part ∧ x.ds = l.ds ∧ x.stream = b := by
  have k0 : RchKept (setLadder none s) (leaveRung l.st (setLadder none s)) := leaveRung_rchKept ..
  unfold ladderDone
  dsimp only
  generalize leaveRung l.st (setLadder none s) = u at *
  obtain ⟨v, hv, v1, v2, v3⟩ : ∃ v, (if l.st = .loft then inc 0x05011C (inc (0x0B0100 + 4 * rungOf l.st) u) else inc (0x0B0100 + 4 * rungOf l.st) u) = v ∧ v.rch = u.rch
      ∧ ctr v (0x0B0100 + 4 * rungOf l.st) = satAdd (ctr s (0x0B0100 + 4 * rungOf l.st)) 1
      ∧ (l.st = .loft → ctr v 0x05011C = satAdd (ctr s 0x05011C) 1 ∧ ctr v 0x0B0120 = ctr s 0x0B0120) := by
    refine ⟨_, rfl, ?_⟩
    have m : 0x0B0100 + 4 * rungOf l.st ∈ ladderCtrs := by cases l.st <;> decide
    have c0 : ctr u (0x0B0100 + 4 * rungOf l.st) = ctr s (0x0B0100 + 4 * rungOf l.st) := k0.counts _ m
    have n : 0x0B0100 + 4 * rungOf l.st ≠ 0x05011C := by cases l.st <;> decide
    split
    · next h =>
      refine ⟨rfl, ?_, fun _ => ⟨?_, ?_⟩⟩
      · rw [ctr_inc, if_neg n, ctr_inc, if_pos rfl, c0]
      · rw [ctr_inc, if_pos rfl, ctr_inc, if_neg (Ne.symm n), k0.counts 0x05011C (by decide)]; rfl
      · rw [ctr_inc, if_neg (by decide), ctr_inc, h, if_neg (by decide), k0.counts 0x0B0120 (by decide)]; rfl
    · next h => exact ⟨rfl, by rw [ctr_inc, if_pos rfl, c0], fun c => absurd c h⟩
  rw [hv]
  obtain ⟨s1, x, s2, s3⟩ := stage_spec d l.part l.ds b v
  obtain ⟨e1, e2⟩ := enterWeak_rchKept l.part l.ds (rungOf l.st) b (stage d l.part l.ds b v)
  have ks := s1.trans e1
  generalize enterWeak l.part l.ds (rungOf l.st) b (stage d l.part l.ds b v) = w at *
  have kc : ∀ c ∈ ladderCtrs, ctr w c = ctr v c := ks.counts
  refine ⟨?_, rfl, rfl, ?_, ?_, fun h => ⟨?_, ?_⟩, x, ?_, s3⟩
  · show w.rch.ladder = none
    rw [ks.sub.1, v1, k0.sub.1]
    rfl
  · show w.rch.busy = s.rch.busy
    rw [ks.sub.2.2.1, v1, k0.sub.2.2.1]
    rfl
  · exact (kc _ (by cases l.st <;> decide)).trans v2
  · exact (kc _ (by decide)).trans (v3 h).1
  · exact (kc _ (by decide)).trans (v3 h).2
  · show x ∈ w.rch.staging
    rw [e2]
    exact s2

end Sys2Proof.Machine
end

