-- ==== Sys2Proof/Laws/PerInstr.lean ====
section
/-!
SUPPORT. The family Parts: the parts of the state that a command may change never include the queue of waiting commands.
-/

namespace Sys2Proof.Laws

open Sys2Proof.Machine

/-- The list of a command names no queue. -/
def Parts.Statement (i : Instr) : Prop := Fld.pending ∉ mayChange i

theorem Parts.of_elem {i : Instr} (h : (mayChange i).elem Fld.pending = false) : Parts.Statement i := fun m => by
  rw [List.elem_eq_true_of_mem m] at h
  cases h

theorem Parts.sqTailDoorbell : ∀ p ring value, Parts.Statement (.sqTailDoorbell p ring value) := fun _ _ _ => Parts.of_elem rfl
theorem Parts.cqHeadDoorbell : ∀ p ring value, Parts.Statement (.cqHeadDoorbell p ring value) := fun _ _ _ => Parts.of_elem rfl
theorem Parts.ringEnable : ∀ p ring, Parts.Statement (.ringEnable p ring) := fun _ _ => Parts.of_elem rfl
theorem Parts.ringDisable : ∀ p ring, Parts.Statement (.ringDisable p ring) := fun _ _ => Parts.of_elem rfl
theorem Parts.queueReset : ∀ p ring, Parts.Statement (.queueReset p ring) := fun _ _ => Parts.of_elem rfl
theorem Parts.queueResetDone : ∀ p ring, Parts.Statement (.queueResetDone p ring) := fun _ _ => Parts.of_elem rfl
theorem Parts.fetchTurn : ∀ entries, Parts.Statement (.fetchTurn entries) := fun _ => Parts.of_elem rfl
theorem Parts.completionWrite : ∀ seq, Parts.Statement (.completionWrite seq) := fun _ => Parts.of_elem rfl
theorem Parts.coalesceTimeExpiry : ∀ p ring, Parts.Statement (.coalesceTimeExpiry p ring) := fun _ _ => Parts.of_elem rfl
theorem Parts.flrPf0 : ∀ p, Parts.Statement (.flrPf0 p) := fun _ => Parts.of_elem rfl
theorem Parts.flrPf1 : ∀ p, Parts.Statement (.flrPf1 p) := fun _ => Parts.of_elem rfl
theorem Parts.linkDown : ∀ p, Parts.Statement (.linkDown p) := fun _ => Parts.of_elem rfl
theorem Parts.perstAssert : ∀ p, Parts.Statement (.perstAssert p) := fun _ => Parts.of_elem rfl
theorem Parts.perstDeassert : ∀ p, Parts.Statement (.perstDeassert p) := fun _ => Parts.of_elem rfl
theorem Parts.pcieConfigRequest : ∀ p f req, Parts.Statement (.pcieConfigRequest p f req) := fun _ _ _ => Parts.of_elem rfl
theorem Parts.hostDmaComplete : ∀ seq idx stall data, Parts.Statement (.hostDmaComplete seq idx stall data) := fun _ _ _ _ => Parts.of_elem rfl
theorem Parts.gateLockGrant : Parts.Statement .gateLockGrant := Parts.of_elem rfl
theorem Parts.copiesSettled : ∀ seq, Parts.Statement (.copiesSettled seq) := fun _ => Parts.of_elem rfl
theorem Parts.writeRecords : ∀ seq sgl lens hdrs, Parts.Statement (.writeRecords seq sgl lens hdrs) := fun _ _ _ _ => Parts.of_elem rfl
theorem Parts.readRecords : ∀ seq sgl, Parts.Statement (.readRecords seq sgl) := fun _ _ => Parts.of_elem rfl
theorem Parts.sync : ∀ seq, Parts.Statement (.sync seq) := fun _ => Parts.of_elem rfl
theorem Parts.syncLevelReached : ∀ seq, Parts.Statement (.syncLevelReached seq) := fun _ => Parts.of_elem rfl
theorem Parts.locate : ∀ seq found, Parts.Statement (.locate seq found) := fun _ _ => Parts.of_elem rfl
theorem Parts.writeMark : ∀ seq, Parts.Statement (.writeMark seq) := fun _ => Parts.of_elem rfl
theorem Parts.readPosition : ∀ seq, Parts.Statement (.readPosition seq) := fun _ => Parts.of_elem rfl
theorem Parts.load : ∀ seq scan, Parts.Statement (.load seq scan) := fun _ _ => Parts.of_elem rfl
theorem Parts.unload : ∀ seq, Parts.Statement (.unload seq) := fun _ => Parts.of_elem rfl
theorem Parts.unloadProceed : ∀ seq, Parts.Statement (.unloadProceed seq) := fun _ => Parts.of_elem rfl
theorem Parts.formatPartitions : ∀ seq table certify, Parts.Statement (.formatPartitions seq table certify) := fun _ _ _ => Parts.of_elem rfl
theorem Parts.abort : ∀ seq, Parts.Statement (.abort seq) := fun _ => Parts.of_elem rfl
theorem Parts.writeLanding : ∀ seq sgl blocks, Parts.Statement (.writeLanding seq sgl blocks) := fun _ _ _ => Parts.of_elem rfl
theorem Parts.readLanding : ∀ seq sgl, Parts.Statement (.readLanding seq sgl) := fun _ _ => Parts.of_elem rfl
theorem Parts.discardLanding : ∀ seq, Parts.Statement (.discardLanding seq) := fun _ => Parts.of_elem rfl
theorem Parts.layLanding : ∀ seq, Parts.Statement (.layLanding seq) := fun _ => Parts.of_elem rfl
theorem Parts.getLog : ∀ seq sgl, Parts.Statement (.getLog seq sgl) := fun _ _ => Parts.of_elem rfl
theorem Parts.setFeature : ∀ seq, Parts.Statement (.setFeature seq) := fun _ => Parts.of_elem rfl
theorem Parts.getFeature : ∀ seq, Parts.Statement (.getFeature seq) := fun _ => Parts.of_elem rfl
theorem Parts.keyInject : ∀ seq sgl block, Parts.Statement (.keyInject seq sgl block) := fun _ _ _ => Parts.of_elem rfl
theorem Parts.keyErase : ∀ seq, Parts.Statement (.keyErase seq) := fun _ => Parts.of_elem rfl
theorem Parts.keyEraseNorDone : ∀ slot, Parts.Statement (.keyEraseNorDone slot) := fun _ => Parts.of_elem rfl
theorem Parts.retiringGenerationEnd : ∀ slot, Parts.Statement (.retiringGenerationEnd slot) := fun _ => Parts.of_elem rfl
theorem Parts.keyQuery : ∀ seq, Parts.Statement (.keyQuery seq) := fun _ => Parts.of_elem rfl
theorem Parts.getTransportKey : ∀ seq sgl, Parts.Statement (.getTransportKey seq sgl) := fun _ _ => Parts.of_elem rfl
theorem Parts.cfgStage : ∀ seq sgl data, Parts.Statement (.cfgStage seq sgl data) := fun _ _ _ => Parts.of_elem rfl
theorem Parts.cfgCheck : ∀ seq, Parts.Statement (.cfgCheck seq) := fun _ => Parts.of_elem rfl
theorem Parts.cfgCommit : ∀ seq, Parts.Statement (.cfgCommit seq) := fun _ => Parts.of_elem rfl
theorem Parts.cfgDiscard : ∀ seq, Parts.Statement (.cfgDiscard seq) := fun _ => Parts.of_elem rfl
theorem Parts.imageWrite : ∀ seq sgl data, Parts.Statement (.imageWrite seq sgl data) := fun _ _ _ => Parts.of_elem rfl
theorem Parts.imageQuery : ∀ seq sgl, Parts.Statement (.imageQuery seq sgl) := fun _ _ => Parts.of_elem rfl
theorem Parts.fuseAdvance : ∀ seq, Parts.Statement (.fuseAdvance seq) := fun _ => Parts.of_elem rfl
theorem Parts.fuseRevoke : ∀ seq, Parts.Statement (.fuseRevoke seq) := fun _ => Parts.of_elem rfl
theorem Parts.fwActivate : ∀ seq, Parts.Statement (.fwActivate seq) := fun _ => Parts.of_elem rfl
theorem Parts.activationNightReady : ∀ ok, Parts.Statement (.activationNightReady ok) := fun _ => Parts.of_elem rfl
theorem Parts.activationHoldExpiry : ∀ seq, Parts.Statement (.activationHoldExpiry seq) := fun _ => Parts.of_elem rfl
theorem Parts.attest : ∀ seq sgl challenge us, Parts.Statement (.attest seq sgl challenge us) := fun _ _ _ _ => Parts.of_elem rfl
theorem Parts.getIdentity : ∀ seq sgl, Parts.Statement (.getIdentity seq sgl) := fun _ _ => Parts.of_elem rfl
theorem Parts.identitySetCert : ∀ seq sgl data, Parts.Statement (.identitySetCert seq sgl data) := fun _ _ _ => Parts.of_elem rfl
theorem Parts.shedDropPending : ∀ seq sgl data, Parts.Statement (.shedDropPending seq sgl data) := fun _ _ _ => Parts.of_elem rfl
theorem Parts.channelRetire : ∀ seq, Parts.Statement (.channelRetire seq) := fun _ => Parts.of_elem rfl
theorem Parts.yardEnrol : ∀ seq sgl data, Parts.Statement (.yardEnrol seq sgl data) := fun _ _ _ => Parts.of_elem rfl
theorem Parts.yardDeclareLost : ∀ seq, Parts.Statement (.yardDeclareLost seq) := fun _ => Parts.of_elem rfl
theorem Parts.yardReplace : ∀ seq, Parts.Statement (.yardReplace seq) := fun _ => Parts.of_elem rfl
theorem Parts.yardReshape : ∀ seq sgl data, Parts.Statement (.yardReshape seq sgl data) := fun _ _ _ => Parts.of_elem rfl
theorem Parts.yardQuery : ∀ seq sgl, Parts.Statement (.yardQuery seq sgl) := fun _ _ => Parts.of_elem rfl
theorem Parts.violation : ∀ p f offset width write data, Parts.Statement (.violation p f offset width write data) := fun _ _ _ _ _ _ => Parts.of_elem rfl
theorem Parts.registerWrite : ∀ p offset value, Parts.Statement (.registerWrite p offset value) := fun _ _ _ => Parts.of_elem rfl
theorem Parts.engineFaultClear : ∀ value, Parts.Statement (.engineFaultClear value) := fun _ => Parts.of_elem rfl
theorem Parts.stkProbeSel : ∀ value, Parts.Statement (.stkProbeSel value) := fun _ => Parts.of_elem rfl
theorem Parts.cipSlotSel : ∀ value, Parts.Statement (.cipSlotSel value) := fun _ => Parts.of_elem rfl
theorem Parts.srvSchedSel : ∀ value, Parts.Statement (.srvSchedSel value) := fun _ => Parts.of_elem rfl
theorem Parts.fabRouteSel : ∀ value, Parts.Statement (.fabRouteSel value) := fun _ => Parts.of_elem rfl
theorem Parts.yrdMemberSel : ∀ value, Parts.Statement (.yrdMemberSel value) := fun _ => Parts.of_elem rfl
theorem Parts.mgtMonSel : ∀ value, Parts.Statement (.mgtMonSel value) := fun _ => Parts.of_elem rfl
theorem Parts.tapeClockReadLatch : Parts.Statement .tapeClockReadLatch := Parts.of_elem rfl
theorem Parts.stallRequest : ∀ reqs, Parts.Statement (.stallRequest reqs) := fun _ => Parts.of_elem rfl
theorem Parts.stallFree : ∀ frees, Parts.Statement (.stallFree frees) := fun _ => Parts.of_elem rfl
theorem Parts.stallChainFree : ∀ op, Parts.Statement (.stallChainFree op) := fun _ => Parts.of_elem rfl
theorem Parts.stallTransfer : ∀ op dest, Parts.Statement (.stallTransfer op dest) := fun _ _ => Parts.of_elem rfl
theorem Parts.stallLink : ∀ op next, Parts.Statement (.stallLink op next) := fun _ _ => Parts.of_elem rfl
theorem Parts.stallPin : ∀ stall gen, Parts.Statement (.stallPin stall gen) := fun _ _ => Parts.of_elem rfl
theorem Parts.stallUnpin : ∀ stall, Parts.Statement (.stallUnpin stall) := fun _ => Parts.of_elem rfl
theorem Parts.stallWaitGrant : ∀ stable, Parts.Statement (.stallWaitGrant stable) := fun _ => Parts.of_elem rfl
theorem Parts.freeCacheRefill : ∀ stable, Parts.Statement (.freeCacheRefill stable) := fun _ => Parts.of_elem rfl
theorem Parts.freeCacheWriteback : ∀ stable, Parts.Statement (.freeCacheWriteback stable) := fun _ => Parts.of_elem rfl
theorem Parts.engineDispatch : Parts.Statement .engineDispatch := Parts.of_elem rfl
theorem Parts.compressionDone : ∀ engine fault, Parts.Statement (.compressionDone engine fault) := fun _ _ => Parts.of_elem rfl
theorem Parts.engineLeaveService : ∀ engine, Parts.Statement (.engineLeaveService engine) := fun _ => Parts.of_elem rfl
theorem Parts.readDlzDispatch : Parts.Statement .readDlzDispatch := Parts.of_elem rfl
theorem Parts.decompressionDone : ∀ engine, Parts.Statement (.decompressionDone engine) := fun _ => Parts.of_elem rfl
theorem Parts.cipherTakePacket : Parts.Statement .cipherTakePacket := Parts.of_elem rfl
theorem Parts.readDecrypt : ∀ seq, Parts.Statement (.readDecrypt seq) := fun _ => Parts.of_elem rfl
theorem Parts.dataSetEncoded : ∀ part, Parts.Statement (.dataSetEncoded part) := fun _ => Parts.of_elem rfl
theorem Parts.dataSetBoundary : ∀ durationNs, Parts.Statement (.dataSetBoundary durationNs) := fun _ => Parts.of_elem rfl
theorem Parts.loftEarlyClose : ∀ part, Parts.Statement (.loftEarlyClose part) := fun _ => Parts.of_elem rfl
theorem Parts.verifyVerdict : ∀ obs, Parts.Statement (.verifyVerdict obs) := fun _ => Parts.of_elem rfl
theorem Parts.writeStopped : ∀ part ds, Parts.Statement (.writeStopped part ds) := fun _ _ => Parts.of_elem rfl
theorem Parts.backlogRestart : ∀ part, Parts.Statement (.backlogRestart part) := fun _ => Parts.of_elem rfl
theorem Parts.commit : ∀ idx, Parts.Statement (.commit idx) := fun _ => Parts.of_elem rfl
theorem Parts.density : ∀ idx, Parts.Statement (.density idx) := fun _ => Parts.of_elem rfl
theorem Parts.windowClose : ∀ idx, Parts.Statement (.windowClose idx) := fun _ => Parts.of_elem rfl
theorem Parts.turnaround : ∀ idx, Parts.Statement (.turnaround idx) := fun _ => Parts.of_elem rfl
theorem Parts.windowOpen : ∀ idx, Parts.Statement (.windowOpen idx) := fun _ => Parts.of_elem rfl
theorem Parts.split : ∀ idx, Parts.Statement (.split idx) := fun _ => Parts.of_elem rfl
theorem Parts.rewriteArea : ∀ idx, Parts.Statement (.rewriteArea idx) := fun _ => Parts.of_elem rfl
theorem Parts.readWindow : ∀ idx, Parts.Statement (.readWindow idx) := fun _ => Parts.of_elem rfl
theorem Parts.settled : ∀ idx, Parts.Statement (.settled idx) := fun _ => Parts.of_elem rfl
theorem Parts.servoFrame : ∀ frame, Parts.Statement (.servoFrame frame) := fun _ => Parts.of_elem rfl
theorem Parts.lposWordAccepted : ∀ reader bits, Parts.Statement (.lposWordAccepted reader bits) := fun _ _ => Parts.of_elem rfl
theorem Parts.clockFlywheelExpiry : Parts.Statement .clockFlywheelExpiry := Parts.of_elem rfl
theorem Parts.pesResume : Parts.Statement .pesResume := Parts.of_elem rfl
theorem Parts.standstillTick : ∀ travel, Parts.Statement (.standstillTick travel) := fun _ => Parts.of_elem rfl
theorem Parts.tensionTick : Parts.Statement .tensionTick := Parts.of_elem rfl
theorem Parts.threadTick : Parts.Statement .threadTick := Parts.of_elem rfl
theorem Parts.followingErrorExpiry : ∀ loop, Parts.Statement (.followingErrorExpiry loop) := fun _ => Parts.of_elem rfl
theorem Parts.speedSettled : Parts.Statement .speedSettled := Parts.of_elem rfl
theorem Parts.threadComplete : Parts.Statement .threadComplete := Parts.of_elem rfl
theorem Parts.actFrameSend : ∀ link, Parts.Statement (.actFrameSend link) := fun _ => Parts.of_elem rfl
theorem Parts.actStatusReceive : ∀ link frame, Parts.Statement (.actStatusReceive link frame) := fun _ _ => Parts.of_elem rfl
theorem Parts.endpointFault : ∀ endpoint, Parts.Statement (.endpointFault endpoint) := fun _ => Parts.of_elem rfl
theorem Parts.speedTarget : ∀ src arg, Parts.Statement (.speedTarget src arg) := fun _ _ => Parts.of_elem rfl
theorem Parts.stopAndPark : ∀ src arg, Parts.Statement (.stopAndPark src arg) := fun _ _ => Parts.of_elem rfl
theorem Parts.reposition : ∀ src arg, Parts.Statement (.reposition src arg) := fun _ _ => Parts.of_elem rfl
theorem Parts.lateralOffset : ∀ src arg, Parts.Statement (.lateralOffset src arg) := fun _ _ => Parts.of_elem rfl
theorem Parts.wrapSelect : ∀ src arg, Parts.Statement (.wrapSelect src arg) := fun _ _ => Parts.of_elem rfl
theorem Parts.thread : ∀ src arg, Parts.Statement (.thread src arg) := fun _ _ => Parts.of_elem rfl
theorem Parts.unthread : ∀ src arg, Parts.Statement (.unthread src arg) := fun _ _ => Parts.of_elem rfl
theorem Parts.speedCeiling : ∀ src arg, Parts.Statement (.speedCeiling src arg) := fun _ _ => Parts.of_elem rfl
theorem Parts.loopMode : ∀ src arg, Parts.Statement (.loopMode src arg) := fun _ _ => Parts.of_elem rfl
theorem Parts.clearFaults : ∀ src arg, Parts.Statement (.clearFaults src arg) := fun _ _ => Parts.of_elem rfl
theorem Parts.orderlyStop : ∀ src arg, Parts.Statement (.orderlyStop src arg) := fun _ _ => Parts.of_elem rfl
theorem Parts.bridleUnknownEvent : ∀ src code arg, Parts.Statement (.bridleUnknownEvent src code arg) := fun _ _ _ => Parts.of_elem rfl
theorem Parts.pesInhibit : ∀ src arg, Parts.Statement (.pesInhibit src arg) := fun _ _ => Parts.of_elem rfl
theorem Parts.shockInhibit : ∀ src arg, Parts.Statement (.shockInhibit src arg) := fun _ _ => Parts.of_elem rfl
theorem Parts.loopFaultInhibit : ∀ src arg, Parts.Statement (.loopFaultInhibit src arg) := fun _ _ => Parts.of_elem rfl
theorem Parts.managementInhibit : ∀ src arg, Parts.Statement (.managementInhibit src arg) := fun _ _ => Parts.of_elem rfl
theorem Parts.pesCauseCleared : ∀ src arg, Parts.Statement (.pesCauseCleared src arg) := fun _ _ => Parts.of_elem rfl
theorem Parts.shockCauseCleared : ∀ src arg, Parts.Statement (.shockCauseCleared src arg) := fun _ _ => Parts.of_elem rfl
theorem Parts.loopCauseCleared : ∀ src arg, Parts.Statement (.loopCauseCleared src arg) := fun _ _ => Parts.of_elem rfl
theorem Parts.managementCauseCleared : ∀ src arg, Parts.Statement (.managementCauseCleared src arg) := fun _ _ => Parts.of_elem rfl
theorem Parts.wrvUnknownEvent : ∀ src code arg, Parts.Statement (.wrvUnknownEvent src code arg) := fun _ _ _ => Parts.of_elem rfl
theorem Parts.earlyCloseRequest : ∀ src arg, Parts.Statement (.earlyCloseRequest src arg) := fun _ _ => Parts.of_elem rfl
theorem Parts.shedReturnReady : ∀ src arg, Parts.Statement (.shedReturnReady src arg) := fun _ _ => Parts.of_elem rfl
theorem Parts.reallocateWeak : ∀ src arg, Parts.Statement (.reallocateWeak src arg) := fun _ _ => Parts.of_elem rfl
theorem Parts.rebuiltDsReady : ∀ src arg, Parts.Statement (.rebuiltDsReady src arg) := fun _ _ => Parts.of_elem rfl
theorem Parts.yardParityReady : ∀ src arg, Parts.Statement (.yardParityReady src arg) := fun _ _ => Parts.of_elem rfl
theorem Parts.controlledStopBegun : ∀ src arg, Parts.Statement (.controlledStopBegun src arg) := fun _ _ => Parts.of_elem rfl
theorem Parts.fmtUnknownEvent : ∀ src code arg, Parts.Statement (.fmtUnknownEvent src code arg) := fun _ _ _ => Parts.of_elem rfl
theorem Parts.unitAssemblyBegun : ∀ src arg, Parts.Statement (.unitAssemblyBegun src arg) := fun _ _ => Parts.of_elem rfl
theorem Parts.unitComplete : ∀ src arg, Parts.Statement (.unitComplete src arg) := fun _ _ => Parts.of_elem rfl
theorem Parts.yardParityLaid : ∀ src arg, Parts.Statement (.yardParityLaid src arg) := fun _ _ => Parts.of_elem rfl
theorem Parts.reconstructForRead : ∀ src arg, Parts.Statement (.reconstructForRead src arg) := fun _ _ => Parts.of_elem rfl
theorem Parts.rebuildStart : ∀ src arg, Parts.Statement (.rebuildStart src arg) := fun _ _ => Parts.of_elem rfl
theorem Parts.reshapeStart : ∀ src arg, Parts.Statement (.reshapeStart src arg) := fun _ _ => Parts.of_elem rfl
theorem Parts.reachabilityChanged : ∀ src arg, Parts.Statement (.reachabilityChanged src arg) := fun _ _ => Parts.of_elem rfl
theorem Parts.yardUnknownEvent : ∀ src code arg, Parts.Statement (.yardUnknownEvent src code arg) := fun _ _ _ => Parts.of_elem rfl
theorem Parts.mgtEventConsume : ∀ us, Parts.Statement (.mgtEventConsume us) := fun _ => Parts.of_elem rfl
theorem Parts.channelRetireAuto : ∀ chan, Parts.Statement (.channelRetireAuto chan) := fun _ => Parts.of_elem rfl
theorem Parts.syncFound : ∀ chan obs, Parts.Statement (.syncFound chan obs) := fun _ _ => Parts.of_elem rfl
theorem Parts.lockLoss : ∀ chan, Parts.Statement (.lockLoss chan) := fun _ => Parts.of_elem rfl
theorem Parts.residualLimit : ∀ chan, Parts.Statement (.residualLimit chan) := fun _ => Parts.of_elem rfl
theorem Parts.separatorDetected : ∀ chan, Parts.Statement (.separatorDetected chan) := fun _ => Parts.of_elem rfl
theorem Parts.dataSetDecoded : ∀ res, Parts.Statement (.dataSetDecoded res) := fun _ => Parts.of_elem rfl
theorem Parts.ladderPassResult : ∀ res, Parts.Statement (.ladderPassResult res) := fun _ => Parts.of_elem rfl
theorem Parts.yardWaitExpiry : Parts.Statement .yardWaitExpiry := Parts.of_elem rfl
theorem Parts.yardReconstructReturn : ∀ data, Parts.Statement (.yardReconstructReturn data) := fun _ => Parts.of_elem rfl
theorem Parts.readAheadStart : ∀ part, Parts.Statement (.readAheadStart part) := fun _ => Parts.of_elem rfl
theorem Parts.rxLaneFail : ∀ lane crc, Parts.Statement (.rxLaneFail lane crc) := fun _ _ => Parts.of_elem rfl
theorem Parts.jesdLinkRestart : ∀ link ok, Parts.Statement (.jesdLinkRestart link ok) := fun _ _ => Parts.of_elem rfl
theorem Parts.shedPacketCopy : ∀ part, Parts.Statement (.shedPacketCopy part) := fun _ => Parts.of_elem rfl
theorem Parts.unitProgramDone : ∀ u, Parts.Statement (.unitProgramDone u) := fun _ => Parts.of_elem rfl
theorem Parts.rowHoldExpiry : ∀ stream group, Parts.Statement (.rowHoldExpiry stream group) := fun _ _ => Parts.of_elem rfl
theorem Parts.journalRecordsPending : Parts.Statement .journalRecordsPending := Parts.of_elem rfl
theorem Parts.journalFlushExpiry : Parts.Statement .journalFlushExpiry := Parts.of_elem rfl
theorem Parts.journalUnitDurable : Parts.Statement .journalUnitDurable := Parts.of_elem rfl
theorem Parts.spillLow : Parts.Statement .spillLow := Parts.of_elem rfl
theorem Parts.shedReturnRead : ∀ part, Parts.Statement (.shedReturnRead part) := fun _ => Parts.of_elem rfl
theorem Parts.spillRelease : ∀ seq, Parts.Statement (.spillRelease seq) := fun _ => Parts.of_elem rfl
theorem Parts.checkpointBytes : Parts.Statement .checkpointBytes := Parts.of_elem rfl
theorem Parts.checkpointInterval : Parts.Statement .checkpointInterval := Parts.of_elem rfl
theorem Parts.checkpointDurable : Parts.Statement .checkpointDurable := Parts.of_elem rfl
theorem Parts.gcStart : ∀ die, Parts.Statement (.gcStart die) := fun _ => Parts.of_elem rfl
theorem Parts.gcStop : ∀ die, Parts.Statement (.gcStop die) := fun _ => Parts.of_elem rfl
theorem Parts.readVerifyResult : ∀ block bits readable, Parts.Statement (.readVerifyResult block bits readable) := fun _ _ _ => Parts.of_elem rfl
theorem Parts.nandProgramFailure : ∀ u, Parts.Statement (.nandProgramFailure u) := fun _ => Parts.of_elem rfl
theorem Parts.nandEraseFailure : ∀ block, Parts.Statement (.nandEraseFailure block) := fun _ => Parts.of_elem rfl
theorem Parts.shedUnitLost : ∀ u, Parts.Statement (.shedUnitLost u) := fun _ => Parts.of_elem rfl
theorem Parts.shockAssert : Parts.Statement .shockAssert := Parts.of_elem rfl
theorem Parts.shockRelease : Parts.Statement .shockRelease := Parts.of_elem rfl
theorem Parts.cartPresentChange : ∀ level cm, Parts.Statement (.cartPresentChange level cm) := fun _ _ => Parts.of_elem rfl
theorem Parts.clockInputLost : ∀ clk, Parts.Statement (.clockInputLost clk) := fun _ => Parts.of_elem rfl
theorem Parts.duskBegin : ∀ cause, Parts.Statement (.duskBegin cause) := fun _ => Parts.of_elem rfl
theorem Parts.duskDomainsOff : Parts.Statement .duskDomainsOff := Parts.of_elem rfl
theorem Parts.duskComplete : Parts.Statement .duskComplete := Parts.of_elem rfl
theorem Parts.pfailDeassert : Parts.Statement .pfailDeassert := Parts.of_elem rfl
theorem Parts.coldStart : ∀ fuses, Parts.Statement (.coldStart fuses) := fun _ => Parts.of_elem rfl
theorem Parts.dawnD0Done : Parts.Statement .dawnD0Done := Parts.of_elem rfl
theorem Parts.dawnD1Done : Parts.Statement .dawnD1Done := Parts.of_elem rfl
theorem Parts.dawnD2Done : ∀ badKeys, Parts.Statement (.dawnD2Done badKeys) := fun _ => Parts.of_elem rfl
theorem Parts.dawnD3Done : ∀ res, Parts.Statement (.dawnD3Done res) := fun _ => Parts.of_elem rfl
theorem Parts.dawnD4Done : ∀ res, Parts.Statement (.dawnD4Done res) := fun _ => Parts.of_elem rfl
theorem Parts.dawnD5 : ∀ d3ms totalMs, Parts.Statement (.dawnD5 d3ms totalMs) := fun _ _ => Parts.of_elem rfl
theorem Parts.sfSignalDetect : ∀ port lanes, Parts.Statement (.sfSignalDetect port lanes) := fun _ _ => Parts.of_elem rfl
theorem Parts.sfLaneTrained : ∀ port lane, Parts.Statement (.sfLaneTrained port lane) := fun _ _ => Parts.of_elem rfl
theorem Parts.sfTrainingTimeout : ∀ port, Parts.Statement (.sfTrainingTimeout port) := fun _ => Parts.of_elem rfl
theorem Parts.helloSendTimer : ∀ port, Parts.Statement (.helloSendTimer port) := fun _ => Parts.of_elem rfl
theorem Parts.flitHello : ∀ port flit, Parts.Statement (.flitHello port flit) := fun _ _ => Parts.of_elem rfl
theorem Parts.helloLossTimeout : ∀ port, Parts.Statement (.helloLossTimeout port) := fun _ => Parts.of_elem rfl
theorem Parts.sfLaneLoss : ∀ port lane, Parts.Statement (.sfLaneLoss port lane) := fun _ _ => Parts.of_elem rfl
theorem Parts.flitData : ∀ port flit, Parts.Statement (.flitData port flit) := fun _ _ => Parts.of_elem rfl
theorem Parts.flitNak : ∀ port flit, Parts.Statement (.flitNak port flit) := fun _ _ => Parts.of_elem rfl
theorem Parts.flitNull : ∀ port flit, Parts.Statement (.flitNull port flit) := fun _ _ => Parts.of_elem rfl
theorem Parts.flitLsa : ∀ port flit, Parts.Statement (.flitLsa port flit) := fun _ _ => Parts.of_elem rfl
theorem Parts.replayTimeout : ∀ port, Parts.Statement (.replayTimeout port) := fun _ => Parts.of_elem rfl
theorem Parts.replayLimit : ∀ port, Parts.Statement (.replayLimit port) := fun _ => Parts.of_elem rfl
theorem Parts.fecUncorrLimit : ∀ port lane, Parts.Statement (.fecUncorrLimit port lane) := fun _ _ => Parts.of_elem rfl
theorem Parts.laneRejoin : ∀ port lane, Parts.Statement (.laneRejoin port lane) := fun _ _ => Parts.of_elem rfl
theorem Parts.laneRetrainRetry : ∀ port lane, Parts.Statement (.laneRetrainRetry port lane) := fun _ _ => Parts.of_elem rfl
theorem Parts.lsaRefreshTimer : Parts.Statement .lsaRefreshTimer := Parts.of_elem rfl
theorem Parts.lsaAgeOut : ∀ origin, Parts.Statement (.lsaAgeOut origin) := fun _ => Parts.of_elem rfl
theorem Parts.routeInstall : Parts.Statement .routeInstall := Parts.of_elem rfl
theorem Parts.transitWaitExpiry : ∀ port vc, Parts.Statement (.transitWaitExpiry port vc) := fun _ _ => Parts.of_elem rfl
theorem Parts.claim : ∀ m, Parts.Statement (.claim m) := fun _ => Parts.of_elem rfl
theorem Parts.claimAck : ∀ m, Parts.Statement (.claimAck m) := fun _ => Parts.of_elem rfl
theorem Parts.withdraw : ∀ m, Parts.Statement (.withdraw m) := fun _ => Parts.of_elem rfl
theorem Parts.contrib : ∀ m, Parts.Statement (.contrib m) := fun _ => Parts.of_elem rfl
theorem Parts.contribDone : ∀ m, Parts.Statement (.contribDone m) := fun _ => Parts.of_elem rfl
theorem Parts.nullReq : ∀ m, Parts.Statement (.nullReq m) := fun _ => Parts.of_elem rfl
theorem Parts.nullOk : ∀ m, Parts.Statement (.nullOk m) := fun _ => Parts.of_elem rfl
theorem Parts.claimed : ∀ m, Parts.Statement (.claimed m) := fun _ => Parts.of_elem rfl
theorem Parts.sealStripe : ∀ m, Parts.Statement (.sealStripe m) := fun _ => Parts.of_elem rfl
theorem Parts.parityLaid : ∀ m, Parts.Statement (.parityLaid m) := fun _ => Parts.of_elem rfl
theorem Parts.stripeSafe : ∀ m, Parts.Statement (.stripeSafe m) := fun _ => Parts.of_elem rfl
theorem Parts.safeAck : ∀ m, Parts.Statement (.safeAck m) := fun _ => Parts.of_elem rfl
theorem Parts.journal : ∀ m, Parts.Statement (.journal m) := fun _ => Parts.of_elem rfl
theorem Parts.journalAck : ∀ m, Parts.Statement (.journalAck m) := fun _ => Parts.of_elem rfl
theorem Parts.nack : ∀ m, Parts.Statement (.nack m) := fun _ => Parts.of_elem rfl
theorem Parts.stateQuery : ∀ m, Parts.Statement (.stateQuery m) := fun _ => Parts.of_elem rfl
theorem Parts.stateReply : ∀ m, Parts.Statement (.stateReply m) := fun _ => Parts.of_elem rfl
theorem Parts.epochPropose : ∀ m, Parts.Statement (.epochPropose m) := fun _ => Parts.of_elem rfl
theorem Parts.adopt : ∀ m, Parts.Statement (.adopt m) := fun _ => Parts.of_elem rfl
theorem Parts.epochCommit : ∀ m, Parts.Statement (.epochCommit m) := fun _ => Parts.of_elem rfl
theorem Parts.epochReq : ∀ m, Parts.Statement (.epochReq m) := fun _ => Parts.of_elem rfl
theorem Parts.join : ∀ m, Parts.Statement (.join m) := fun _ => Parts.of_elem rfl
theorem Parts.descReq : ∀ m, Parts.Statement (.descReq m) := fun _ => Parts.of_elem rfl
theorem Parts.descPart : ∀ m, Parts.Statement (.descPart m) := fun _ => Parts.of_elem rfl
theorem Parts.ledger : ∀ m, Parts.Statement (.ledger m) := fun _ => Parts.of_elem rfl
theorem Parts.rebuildReq : ∀ m, Parts.Statement (.rebuildReq m) := fun _ => Parts.of_elem rfl
theorem Parts.rebuildPart : ∀ m, Parts.Statement (.rebuildPart m) := fun _ => Parts.of_elem rfl
theorem Parts.rebuildFail : ∀ m, Parts.Statement (.rebuildFail m) := fun _ => Parts.of_elem rfl
theorem Parts.yardBadMessage : ∀ raw, Parts.Statement (.yardBadMessage raw) := fun _ => Parts.of_elem rfl
theorem Parts.contributionTimeout : ∀ stripe, Parts.Statement (.contributionTimeout stripe) := fun _ => Parts.of_elem rfl
theorem Parts.yardRepeatTimer : Parts.Statement .yardRepeatTimer := Parts.of_elem rfl
theorem Parts.memberDead : ∀ member, Parts.Statement (.memberDead member) := fun _ => Parts.of_elem rfl
theorem Parts.stateQueryDeadline : Parts.Statement .stateQueryDeadline := Parts.of_elem rfl
theorem Parts.epochProposalTimeout : Parts.Statement .epochProposalTimeout := Parts.of_elem rfl
theorem Parts.epochHoldExpiry : Parts.Statement .epochHoldExpiry := Parts.of_elem rfl
theorem Parts.parityHolderIdle : ∀ part stripe, Parts.Statement (.parityHolderIdle part stripe) := fun _ _ => Parts.of_elem rfl
theorem Parts.retainLow : Parts.Statement .retainLow := Parts.of_elem rfl
theorem Parts.reshapeCheckpoint : Parts.Statement .reshapeCheckpoint := Parts.of_elem rfl
theorem Parts.nightHeartbeatTimeout : Parts.Statement .nightHeartbeatTimeout := Parts.of_elem rfl
theorem Parts.dayHeartbeatTimeout : Parts.Statement .dayHeartbeatTimeout := Parts.of_elem rfl
theorem Parts.bothHeartbeatsTimeout : Parts.Statement .bothHeartbeatsTimeout := Parts.of_elem rfl
theorem Parts.monitorSample : ∀ samples, Parts.Statement (.monitorSample samples) := fun _ => Parts.of_elem rfl
theorem Parts.voltageFault : ∀ monitor, Parts.Statement (.voltageFault monitor) := fun _ => Parts.of_elem rfl
theorem Parts.throttleStep : Parts.Statement .throttleStep := Parts.of_elem rfl
theorem Parts.criticalHoldRelease : Parts.Statement .criticalHoldRelease := Parts.of_elem rfl
theorem Parts.ceilingRaise : Parts.Statement .ceilingRaise := Parts.of_elem rfl
theorem Parts.telemetryReport : ∀ secs, Parts.Statement (.telemetryReport secs) := fun _ => Parts.of_elem rfl
theorem Parts.entdaa : ∀ addr, Parts.Statement (.entdaa addr) := fun _ => Parts.of_elem rfl
theorem Parts.setdasa : ∀ addr, Parts.Statement (.setdasa addr) := fun _ => Parts.of_elem rfl
theorem Parts.rstdaa : Parts.Statement .rstdaa := Parts.of_elem rfl
theorem Parts.enec : ∀ events, Parts.Statement (.enec events) := fun _ => Parts.of_elem rfl
theorem Parts.disec : ∀ events, Parts.Statement (.disec events) := fun _ => Parts.of_elem rfl
theorem Parts.getpid : Parts.Statement .getpid := Parts.of_elem rfl
theorem Parts.getbcr : Parts.Statement .getbcr := Parts.of_elem rfl
theorem Parts.getdcr : Parts.Statement .getdcr := Parts.of_elem rfl
theorem Parts.getstatus : Parts.Statement .getstatus := Parts.of_elem rfl
theorem Parts.getmwl : Parts.Statement .getmwl := Parts.of_elem rfl
theorem Parts.getmrl : Parts.Statement .getmrl := Parts.of_elem rfl
theorem Parts.i3cPrivateRead : Parts.Statement .i3cPrivateRead := Parts.of_elem rfl
theorem Parts.i3cPrivateWrite : ∀ data, Parts.Statement (.i3cPrivateWrite data) := fun _ => Parts.of_elem rfl
theorem Parts.bufferEccError : ∀ stall chan device uncorrectable, Parts.Statement (.bufferEccError stall chan device uncorrectable) := fun _ _ _ _ => Parts.of_elem rfl
theorem Parts.patrolScrub : Parts.Statement .patrolScrub := Parts.of_elem rfl
theorem Parts.laneFrame : ∀ obs, Parts.Statement (.laneFrame obs) := fun _ => Parts.of_elem rfl
theorem Parts.syncMissed : ∀ chan span, Parts.Statement (.syncMissed chan span) := fun _ _ => Parts.of_elem rfl
theorem Parts.powerLoss : Parts.Statement .powerLoss := Parts.of_elem rfl
theorem Parts.pcieLinkUp : ∀ p speed width, Parts.Statement (.pcieLinkUp p speed width) := fun _ _ _ => Parts.of_elem rfl
theorem Parts.blockErased : ∀ block stream, Parts.Statement (.blockErased block stream) := fun _ _ => Parts.of_elem rfl
theorem Parts.unitReadDone : ∀ u, Parts.Statement (.unitReadDone u) := fun _ => Parts.of_elem rfl
theorem Parts.flitBad : ∀ port flit, Parts.Statement (.flitBad port flit) := fun _ _ => Parts.of_elem rfl
theorem Parts.nightCoreReady : Parts.Statement .nightCoreReady := Parts.of_elem rfl
theorem Parts.gpioPeriodic : ∀ ball, Parts.Statement (.gpioPeriodic ball) := fun _ => Parts.of_elem rfl
theorem Parts.traceFlush : Parts.Statement .traceFlush := Parts.of_elem rfl

end Sys2Proof.Laws
end

