-- ==== Sys2Proof/Laws/Take.lean ====
section
/-!
SUPPORT. Taking up writes at the cipher: what becomes of the Buffer Record Index and of the commands as stored writes are Taken in
order.
-/

namespace Sys2Proof.Machine

theorem findCmd_updCmd_const {q : Nat} {s : State} {c : Cmd} (h : findCmd s q = some c) (d : Cmd) (hd : d.seq = q) :
    findCmd (updCmd q (fun _ => d) s) q = some d := by
  unfold findCmd at h ⊢
  rw [updCmd_hq]
  dsimp only
  generalize s.hq.cmds = l at h
  induction l with
  | nil => cases h
  | cons x xs ih =>
    unfold modFirst
    rw [List.find?_cons] at h
    cases hx : x.seq == q with
    | true => simp [hd]
    | false =>
      rw [hx] at h
      simp only [Bool.false_eq_true, if_false, List.find?_cons, hx]
      exact ih h

theorem find_modFirst_key {α : Type} (key : α → Nat) (f : α → α) (hf : ∀ x, key (f x) = key x) (k q : Nat) (xs : List α) :
    (modFirst (fun x => key x == k) f xs).find? (fun x => key x == q)
      = (xs.find? fun x => key x == q).map fun x => if q = k then f x else x := by
  by_cases e : q = k
  · subst e
    rw [find_modFirst _ _ fun x => by rw [hf]]
    simp
  · rw [find_modFirst_other _ _ _ fun x h => ?_]
    · simp [e]
    · have : key x = k := by simpa using h
      simp [hf, this, Ne.symm e]

theorem takeWrite_writes (w : Write) (s : State) :
    (takeWrite w s).hq.writes = modFirst (fun x => x.seq == w.seq) (fun x => { x with taken := true }) s.hq.writes := by
  unfold takeWrite
  rw [(refreshMarks_frame w.part _).same .hq rfl, complete_writes]
  rfl

theorem takeWrite_findWrite (w : Write) (q : Nat) (s : State) :
    findWrite (takeWrite w s) q = (findWrite s q).map fun x => if q = w.seq then { x with taken := true } else x := by
  simp only [findWrite, takeWrite_writes]
  exact find_modFirst_key Write.seq (fun x => { x with taken := true }) (fun _ => rfl) _ _ _

theorem takeWrite_findCmd_other {w : Write} {q : Nat} (h : q ≠ w.seq) (s : State) : findCmd (takeWrite w s) q = findCmd s q := by
  unfold takeWrite
  rw [findCmd_of_hq ((refreshMarks_frame w.part _).same .hq rfl), findCmd_complete_other h]
  rfl

theorem takeWrite_findCmd {w : Write} {c : Cmd} {s : State} (h : findCmd s w.seq = some c) :
    Ended (takeWrite w s) w.seq Status.ok (if w.kind = .marks then 0 else w.counter) := by
  unfold takeWrite
  obtain ⟨d, hd, x⟩ := Ended.complete (s := updPart w.part (fun x => { x with takenBytes := x.takenBytes + w.placedSum 0 w.pkts.length })
    (unpinKey w.seq (updWrite w.seq (fun w => { w with taken := true }) s))) (q := w.seq) (c := c)
      h Status.ok (if w.kind = .marks then 0 else w.counter)
  exact ⟨d, (findCmd_of_hq ((refreshMarks_frame w.part _).same .hq rfl) _).trans hd, x⟩

theorem takeWrite_held (w : Write) (s : State) : (takeWrite w s).cip.held = s.cip.held := by
  unfold takeWrite
  rw [(refreshMarks_frame w.part _).same .cip rfl, (complete_frame ..).same .cip (by decide)]
  rfl

theorem takeUp_held (p n : Nat) (s : State) : (takeUp p n s).cip.held = s.cip.held := by
  induction n generalizing s with
  | zero => rfl
  | succ n ih =>
    unfold takeUp
    split
    · split
      · rw [ih, takeWrite_held]
      · rfl
    · rfl

/-- Taking up writes changes no entry of the index but for its Taken flag. -/
theorem takeUp_findWrite (p n q : Nat) (s : State) {w : Write} (h : findWrite s q = some w) :
    ∃ b, findWrite (takeUp p n s) q = some { w with taken := b || w.taken } := by
  induction n generalizing s w with
  | zero => exact ⟨false, h⟩
  | succ n ih =>
    unfold takeUp
    split
    · next x _ =>
      split
      · have k := takeWrite_findWrite x q s
        rw [h] at k
        by_cases e : q = x.seq
        · obtain ⟨b, hb⟩ := ih (takeWrite x s) (w := { w with taken := true }) (k.trans (by simp [e]))
          exact ⟨true, hb.trans (by simp)⟩
        · exact ih (takeWrite x s) (k.trans (by simp [e]))
      · exact ⟨false, h⟩
    · exact ⟨false, h⟩

theorem find_of_nodup {l : List Write} (h : (l.map Write.seq).Nodup) {w : Write} (m : w ∈ l) :
    l.find? (fun x => x.seq == w.seq) = some w := by
  induction l with
  | nil => cases m
  | cons x xs ih =>
    rw [List.map_cons, List.nodup_cons] at h
    rw [List.find?_cons]
    rcases List.mem_cons.mp m with rfl | m
    · simp
    · have : (x.seq == w.seq) = false := by
        have : x.seq ≠ w.seq := fun e => h.1 (e ▸ List.mem_map_of_mem m)
        simpa using this
      rw [this]
      exact ih h.2 m

theorem takeWrite_nodup {w : Write} {s : State} (h : (s.hq.writes.map Write.seq).Nodup) :
    ((takeWrite w s).hq.writes.map Write.seq).Nodup := by
  rw [takeWrite_writes, map_modFirst Write.seq _ (fun x => { x with taken := true }) fun _ => rfl]
  exact h

/-- A write that is Taken keeps its command as it is while others are taken up. -/
theorem takeUp_findCmd {p n q : Nat} {s : State} (h : (s.hq.writes.map Write.seq).Nodup)
    (k : ∃ w, findWrite s q = some w ∧ w.taken = true) : findCmd (takeUp p n s) q = findCmd s q := by
  induction n generalizing s with
  | zero => rfl
  | succ n ih =>
    unfold takeUp
    split
    · next x hx =>
      split
      · have ne : q ≠ x.seq := by
          rintro rfl
          obtain ⟨w, hw, ht⟩ := k
          have e : findWrite s x.seq = some x := find_of_nodup h (List.mem_of_find?_eq_some hx)
          rw [hw] at e
          cases e
          have := List.find?_some hx
          simp [ht] at this
        rw [ih (takeWrite_nodup h), takeWrite_findCmd_other ne]
        obtain ⟨w, hw, ht⟩ := k
        exact ⟨w, by rw [takeWrite_findWrite, hw]; simp [ne], ht⟩
      · rfl
    · rfl

/-- The first write of a partition that is not Taken, all its packets stored, is Taken and its command completes (R64, R96). -/
theorem takeUp_first {p n : Nat} {s : State} {w : Write} {c : Cmd} (h : (s.hq.writes.map Write.seq).Nodup)
    (hw : (s.hq.writes.find? fun w => w.part == p && !w.taken) = some w) (hp : w.passed = true) (hc : findCmd s w.seq = some c) :
    Ended (takeUp p (n + 1) s) w.seq Status.ok (if w.kind = .marks then 0 else w.counter)
      ∧ findWrite (takeUp p (n + 1) s) w.seq = some { w with taken := true } := by
  have hf : findWrite s w.seq = some w := find_of_nodup h (List.mem_of_find?_eq_some hw)
  have ht : findWrite (takeWrite w s) w.seq = some { w with taken := true } := by rw [takeWrite_findWrite, hf]; simp
  obtain ⟨d, hd, x⟩ := takeWrite_findCmd hc
  unfold takeUp
  rw [hw]
  dsimp only
  rw [if_pos hp]
  refine ⟨⟨d, ?_, x⟩, ?_⟩
  · rw [takeUp_findCmd (takeWrite_nodup h) ⟨_, ht, rfl⟩]
    exact hd
  · obtain ⟨b, hb⟩ := takeUp_findWrite p n w.seq _ ht
    simpa using hb

/-- Nothing is Taken while the first write of the partition that is not Taken has a packet to come. -/
theorem takeUp_waits {p n : Nat} {s : State} {w : Write} (hw : (s.hq.writes.find? fun w => w.part == p && !w.taken) = some w)
    (hp : w.passed = false) : takeUp p n s = s := by
  cases n with
  | zero => rfl
  | succ n =>
    unfold takeUp
    rw [hw]
    dsimp only
    rw [if_neg (by simp [hp])]

end Sys2Proof.Machine
end

