-- ==== Sys2Proof/Laws/Yard.lean ====
section
/-! SUPPORT. What the receiver of a Yard message does with one that it acts on, and what taking it leaves alone. -/

namespace Sys2Proof.Machine

theorem takeDelivered_yrd (m : YMsg) (s : State) : (takeDelivered m s).yrd = s.yrd := (takeDelivered_frame m s).same .yrd rfl

theorem takeDelivered_cfg (m : YMsg) (s : State) : (takeDelivered m s).cfg = s.cfg := (takeDelivered_frame m s).same .cfg rfl

theorem sendOnce_yrd (m : YMsg) (s : State) : (sendOnce m s).yrd = s.yrd := (sendOnce_frame m s).same .yrd rfl

/-- A message that expects no reply leaves the Yard's state as it is. -/
theorem sendMsg_yrd (m : YMsg) (s : State) (h : expectsReply m.type = false) : (sendMsg m s).yrd = s.yrd := by
  unfold sendMsg
  simp only [h, Bool.false_eq_true, if_false, sendOnce_yrd]

/-- A message that its receiver acts on. -/
theorem Heard.receive {t : Nat} {m : YMsg} {s : State} (h : Heard t m s) (act : State → State) :
    receive t m act s = go (act (takeDelivered m s)) := by
  unfold Machine.receive
  rw [if_neg (by simp [h.type])]
  dsimp only
  rw [if_neg (by simp [h.enrolled, h.yard]), if_pos]
  rcases h.epoch with e | e
  · exact .inr e
  · exact .inl e

end Sys2Proof.Machine
end

