-- ==== Sys2Proof/Machine/Pins.lean ====
section
/-!
DEFINITION. Balls of the package that the rules give a level or a state (16; 11, R304): general-purpose balls, chip enables and
the groups of R446. All are computed from the state of the blocks that drive them.
-/

namespace Sys2Proof.Machine

/-- BallLevel of a ball. -/
inductive BallLevel where | highZ | low | high
  deriving DecidableEq, Repr

def levelOf (b : Bool) : BallLevel := if b then .high else .low

/-- BallLevel of GPIO0 to GPIO7 by its function code, between the 100 ns pulses of code 7 (R462); in reset and Dawn hold none is driven
(R446). -/
def gpioLevel (s : State) (ball : Nat) : BallLevel :=
  if s.cfg.st = .reset ∨ s.cfg.st = .hold then .highZ
  else
    match Cfgw.gpio s ball with
    | 1 => .low
    | 2 => .high
    | 3 => levelOf (s.wrv.lanes.any fun x => decide (0 < x.2.gated))
    | 4 => levelOf (inhibited s)
    | 5 => levelOf s.cfg.dusk.isSome
    | 6 => levelOf (bit s.mgt.hotBand 0)
    | 7 => .low
    | 8 => levelOf (AMap.getD s.mgt.gpio ball false)
    | 9 => levelOf (AMap.getD s.mgt.gpio ball false)
    | _ => .highZ

/-- Whether a ball pulses at each data set boundary on the Tape Clock (R462). -/
def gpioPulses (s : State) (ball : Nat) : Bool :=
  decide (s.cfg.st ≠ .reset ∧ s.cfg.st ≠ .hold) && Cfgw.gpio s ball == 7

/-- The NAND channel of a die and the chip enable of that channel that selects it (R304, R444). -/
def dieSelect (die : Nat) : Nat × Nat := (die % 8, die / 8 / 4)

/-- The groups of signals of R446. -/
inductive PinGroup where
  | pcieTx | pcieRx | clkreq (p : Port) | fabricTx | writeLanes | afeRx | ddr | nand | xspi | cm | i3c | actTx | gpio | tdo
  deriving DecidableEq, Repr

/-- What a group of signals does (R446). -/
inductive PinState where
  | highZ | electricalIdle | terminatedIgnored | inUse | linkTrained | released | drivenLow | static | idleBlocks | linksNotStarted
  | clocksStopped | chipsDisabled | csHighResetLow | readsAndImageWrite | csHighClockLow | targetActive | idleFrames | highZUnlessShifting
  deriving DecidableEq, Repr

/-- State of a group while the device is in reset (R446). -/
def pinInReset : PinGroup → PinState
  | .pcieTx | .fabricTx => .electricalIdle
  | .pcieRx | .afeRx => .terminatedIgnored
  | .clkreq _ => .released
  | .writeLanes | .actTx => .static
  | .ddr => .clocksStopped
  | .nand => .chipsDisabled
  | .xspi => .csHighResetLow
  | .cm => .csHighClockLow
  | .i3c => .targetActive
  | .gpio => .highZ
  | .tdo => .highZUnlessShifting

/-- State of a group in Dawn hold (R446): an open-drain CLKREQ_N is driven low while its port's link is up. -/
def pinInHold (s : State) : PinGroup → PinState
  | .pcieTx => .linkTrained
  | .pcieRx => .inUse
  | .clkreq p => if (portOf s p).linkUp then .drivenLow else .released
  | .fabricTx => .electricalIdle
  | .writeLanes => .idleBlocks
  | .afeRx => .linksNotStarted
  | .ddr => .clocksStopped
  | .nand => .chipsDisabled
  | .xspi => .readsAndImageWrite
  | .cm => .csHighClockLow
  | .i3c => .targetActive
  | .actTx => .idleFrames
  | .gpio => .highZ
  | .tdo => .highZUnlessShifting

/-- State of a group of signals where R446 gives one: in reset and in Dawn hold. -/
def pinState (s : State) (g : PinGroup) : Option PinState :=
  match s.cfg.st with
  | .reset => some (pinInReset g)
  | .hold => some (pinInHold s g)
  | _ => none

end Sys2Proof.Machine
end

