-- ==== Sys2Proof/WellFormed.lean ====
section
/-!
DEFINITION. Which commands are well formed: every operand is in the range that the spec gives it. A host, the tape, the NAND
and the fabric can only present such operands; `exec` gives the others a meaning too, which no statement needs.
-/

namespace Sys2Proof

/-- The bytes of a scatter list: at most 65,535 elements of 16 bytes (R36, R41). -/
def listOk (list : Bytes) : Bool := decide (list.length ≤ 1048560)

/-- A request: requester ID of 6 bits, Stable of 3 (R78, R82). -/
def reqOk (r : StallReq) : Bool := decide (r.req < 64 ∧ r.stable < 8)

/-- A requester and a handle: Stall [18:0], generation [26:19] (R86). -/
def opOk (o : StallOp) : Bool := decide (o.req < 64 ∧ o.stall < 2 ^ 19 ∧ o.gen < 256)

/-- A Yard message's header fields (R377) and payload. -/
def msgOk (m : YMsg) : Bool :=
  decide (m.type < 256 ∧ m.seg < 65536 ∧ m.epoch < 2 ^ 32 ∧ m.yard < 2 ^ 64 ∧ m.stripe < 2 ^ 32)
    && decide (m.src < 256 ∧ m.dst < 256 ∧ m.role < 256 ∧ m.slot < 256)

/-- A place on tape: a Tape Clock value of 40 bits and a wrap. -/
def foundOk : Option TapePlace → Bool
  | none => true
  | some p => decide (p.clock < 2 ^ 40 ∧ p.wrap < 256)

/-- What LOAD reads: partitions 0 to 3, Tape Clock values of 40 bits. -/
def scanOk : ScanItem → Bool
  | .directory part _ _ => decide (part < 4)
  | .dataSet part _ clock _ => decide (part < 4 ∧ clock < 2 ^ 40)

/-- The fuses' widths (R407). -/
def fusesOk (f : Fuses) : Bool :=
  decide (f.signers.length = 4 ∧ f.revoked < 16 ∧ f.thermometer < 2 ^ 64 ∧ f.noncePrefix < 2 ^ 32 ∧ f.secret.length = 32 ∧ f.crc < 2 ^ 32)
    && f.signers.all fun h => h.length == 48

/-- What D3 finds: four DDR channels, four write lanes, four receive links, at most 128 dies. -/
def d3Ok (r : D3Res) : Bool :=
  r.ddr.length == 4 && r.lanes.length == 4 && r.linksUp.length == 4 && decide (r.dies ≤ 128 ∧ r.ppbCode < 16 ∧ r.blocksPerPlane < 2 ^ 20)

/-- Calibrated taps: 21 of 16 bits for each channel and class (R235). -/
def d4Ok (r : D4Res) : Bool :=
  r.taps.all fun (p, cls, ws) => decide (p < 132 ∧ cls < 3) && ws.length == 21 && ws.all fun w => decide (w < 65536)

/-- What a decoder is given: decoder 0 to 3, partition 0 to 3, rows of channels 0 to 131. -/
def decodeOk (r : DecodeRes) : Bool :=
  decide (r.decoder < 4 ∧ r.part < 4 ∧ r.ds < 2 ^ 32) && (r.rows.all fun x => decide (x.chan < 132))
    && r.others.all fun o => decide (o.1 < 2 ^ 32) && o.2.all fun x => decide (x.chan < 132)

/-- A verdict: its row copy's place in the data set (R209). -/
def verdictOk (o : VerdictObs) : Bool :=
  decide (o.part < 4 ∧ o.ds < 2 ^ 32 ∧ o.sds < 256 ∧ o.row < 192 ∧ o.chan < 132 ∧ o.slot < 396)

/-- A servo frame: four readers, each with its 14 crossings (R263). -/
def servoOk (f : ServoObs) : Bool :=
  f.readers.length == 4 && f.advance.length == 4 && f.readers.all fun r => match r with | some x => x.length == 14 | none => true

/-- A lane frame: a launch count of 16 bits and a fraction of 8 (R200). -/
def laneOk (o : LaneObs) : Bool := decide (o.launch < 2 ^ 16 ∧ o.fraction < 2 ^ 8)

/-- A command whose operands are all in range. -/
def Instr.wellFormed : Instr → Bool
  | .sqTailDoorbell _ ring value => decide (ring ≤ 32) && decide (value < 2 ^ 32)
  | .cqHeadDoorbell _ ring value => decide (ring ≤ 32) && decide (value < 2 ^ 32)
  | .ringEnable _ ring => decide (ring ≤ 32)
  | .ringDisable _ ring => decide (ring ≤ 32)
  | .queueReset _ ring => decide (ring ≤ 32)
  | .queueResetDone _ ring => decide (ring ≤ 32)
  | .fetchTurn entries => entries.all fun b => b.length == 64
  | .completionWrite seq => decide (seq < 2 ^ 64)
  | .coalesceTimeExpiry _ ring => decide (ring ≤ 32)
  | .flrPf0 _ => true
  | .flrPf1 _ => true
  | .linkDown _ => true
  | .perstAssert _ => true
  | .perstDeassert _ => true
  | .pcieConfigRequest _ _ _ => true
  | .hostDmaComplete seq _ stall data => decide (seq < 2 ^ 64) && decide (stall < 2 ^ 19) && decide (data.length ≤ 262144)
  | .gateLockGrant => true
  | .copiesSettled seq => decide (seq < 2 ^ 64)
  | .writeRecords seq sgl lens hdrs => decide (seq < 2 ^ 64) && listOk sgl && (lens.all fun v => decide (v < 2 ^ 64)) && hdrs.all fun h => decide (h.length ≤ 256)
  | .readRecords seq sgl => decide (seq < 2 ^ 64) && listOk sgl
  | .sync seq => decide (seq < 2 ^ 64)
  | .syncLevelReached seq => decide (seq < 2 ^ 64)
  | .locate seq found => decide (seq < 2 ^ 64) && foundOk found
  | .writeMark seq => decide (seq < 2 ^ 64)
  | .readPosition seq => decide (seq < 2 ^ 64)
  | .load seq scan => decide (seq < 2 ^ 64) && scan.all scanOk
  | .unload seq => decide (seq < 2 ^ 64)
  | .unloadProceed seq => decide (seq < 2 ^ 64)
  | .formatPartitions seq table certify => decide (seq < 2 ^ 64) && (table.all fun v => decide (v < 2 ^ 64)) && certify.all fun w => decide (w.wrap < 256)
  | .abort seq => decide (seq < 2 ^ 64)
  | .writeLanding seq sgl blocks => decide (seq < 2 ^ 64) && listOk sgl && blocks.all fun b => decide (b.length ≤ 65536)
  | .readLanding seq sgl => decide (seq < 2 ^ 64) && listOk sgl
  | .discardLanding seq => decide (seq < 2 ^ 64)
  | .layLanding seq => decide (seq < 2 ^ 64)
  | .getLog seq sgl => decide (seq < 2 ^ 64) && listOk sgl
  | .setFeature seq => decide (seq < 2 ^ 64)
  | .getFeature seq => decide (seq < 2 ^ 64)
  | .keyInject seq sgl _ => decide (seq < 2 ^ 64) && listOk sgl
  | .keyErase seq => decide (seq < 2 ^ 64)
  | .keyEraseNorDone slot => decide (slot < 128)
  | .retiringGenerationEnd slot => decide (slot < 128)
  | .keyQuery seq => decide (seq < 2 ^ 64)
  | .getTransportKey seq sgl => decide (seq < 2 ^ 64) && listOk sgl
  | .cfgStage seq sgl _ => decide (seq < 2 ^ 64) && listOk sgl
  | .cfgCheck seq => decide (seq < 2 ^ 64)
  | .cfgCommit seq => decide (seq < 2 ^ 64)
  | .cfgDiscard seq => decide (seq < 2 ^ 64)
  | .imageWrite seq sgl _ => decide (seq < 2 ^ 64) && listOk sgl
  | .imageQuery seq sgl => decide (seq < 2 ^ 64) && listOk sgl
  | .fuseAdvance seq => decide (seq < 2 ^ 64)
  | .fuseRevoke seq => decide (seq < 2 ^ 64)
  | .fwActivate seq => decide (seq < 2 ^ 64)
  | .activationNightReady _ => true
  | .activationHoldExpiry seq => decide (seq < 2 ^ 64)
  | .attest seq sgl challenge us => decide (seq < 2 ^ 64) && listOk sgl && decide (challenge.length ≤ 48) && decide (us < 2 ^ 64)
  | .getIdentity seq sgl => decide (seq < 2 ^ 64) && listOk sgl
  | .identitySetCert seq sgl _ => decide (seq < 2 ^ 64) && listOk sgl
  | .shedDropPending seq sgl _ => decide (seq < 2 ^ 64) && listOk sgl
  | .channelRetire seq => decide (seq < 2 ^ 64)
  | .yardEnrol seq sgl _ => decide (seq < 2 ^ 64) && listOk sgl
  | .yardDeclareLost seq => decide (seq < 2 ^ 64)
  | .yardReplace seq => decide (seq < 2 ^ 64)
  | .yardReshape seq sgl _ => decide (seq < 2 ^ 64) && listOk sgl
  | .yardQuery seq sgl => decide (seq < 2 ^ 64) && listOk sgl
  | .violation _ _ offset width _ data => decide (offset < 2 ^ 24) && [8, 16, 32, 64, 128, 256, 512].contains width && decide (data < 2 ^ 512)
  | .registerWrite _ offset value => decide (offset < 2 ^ 24) && decide (value < 2 ^ 32)
  | .engineFaultClear value => decide (value < 2 ^ 32)
  | .stkProbeSel value => decide (value < 2 ^ 32)
  | .cipSlotSel value => decide (value < 2 ^ 32)
  | .srvSchedSel value => decide (value < 2 ^ 32)
  | .fabRouteSel value => decide (value < 2 ^ 32)
  | .yrdMemberSel value => decide (value < 2 ^ 32)
  | .mgtMonSel value => decide (value < 2 ^ 32)
  | .tapeClockReadLatch => true
  | .stallRequest reqs => reqs.all reqOk
  | .stallFree frees => frees.all opOk
  | .stallChainFree op => opOk op
  | .stallTransfer op dest => opOk op && decide (dest < 64)
  | .stallLink op next => opOk op && decide (next < 2 ^ 19)
  | .stallPin stall gen => decide (stall < 2 ^ 19) && decide (gen < 256)
  | .stallUnpin stall => decide (stall < 2 ^ 19)
  | .stallWaitGrant stable => decide (stable < 8)
  | .freeCacheRefill stable => decide (stable < 8)
  | .freeCacheWriteback stable => decide (stable < 8)
  | .engineDispatch => true
  | .compressionDone engine _ => decide (engine < 6)
  | .engineLeaveService engine => decide (engine < 6)
  | .readDlzDispatch => true
  | .decompressionDone engine => decide (engine < 6)
  | .cipherTakePacket => true
  | .readDecrypt seq => decide (seq < 2 ^ 64)
  | .dataSetEncoded part => decide (part < 4)
  | .dataSetBoundary _ => true
  | .loftEarlyClose part => decide (part < 4)
  | .verifyVerdict obs => verdictOk obs
  | .writeStopped part ds => decide (part < 4) && decide (ds < 2 ^ 32)
  | .backlogRestart part => decide (part < 4)
  | .commit idx => decide (idx < 4096)
  | .density idx => decide (idx < 4096)
  | .windowClose idx => decide (idx < 4096)
  | .turnaround idx => decide (idx < 4096)
  | .windowOpen idx => decide (idx < 4096)
  | .split idx => decide (idx < 4096)
  | .rewriteArea idx => decide (idx < 4096)
  | .readWindow idx => decide (idx < 4096)
  | .settled idx => decide (idx < 4096)
  | .servoFrame frame => servoOk frame
  | .lposWordAccepted reader bits => decide (reader < 4) && bits.length == 36
  | .clockFlywheelExpiry => true
  | .pesResume => true
  | .standstillTick _ => true
  | .tensionTick => true
  | .threadTick => true
  | .followingErrorExpiry loop => decide (loop < 6)
  | .speedSettled => true
  | .threadComplete => true
  | .actFrameSend link => decide (link < 2)
  | .actStatusReceive link frame => decide (link < 2) && frame.length == 74
  | .endpointFault endpoint => decide (endpoint < 6)
  | .speedTarget src arg => decide (1 ≤ src ∧ src ≤ 30) && decide (arg < 2 ^ 64)
  | .stopAndPark src arg => decide (1 ≤ src ∧ src ≤ 30) && decide (arg < 2 ^ 64)
  | .reposition src arg => decide (1 ≤ src ∧ src ≤ 30) && decide (arg < 2 ^ 64)
  | .lateralOffset src arg => decide (1 ≤ src ∧ src ≤ 30) && decide (arg < 2 ^ 64)
  | .wrapSelect src arg => decide (1 ≤ src ∧ src ≤ 30) && decide (arg < 2 ^ 64)
  | .thread src arg => decide (1 ≤ src ∧ src ≤ 30) && decide (arg < 2 ^ 64)
  | .unthread src arg => decide (1 ≤ src ∧ src ≤ 30) && decide (arg < 2 ^ 64)
  | .speedCeiling src arg => decide (1 ≤ src ∧ src ≤ 30) && decide (arg < 2 ^ 64)
  | .loopMode src arg => decide (1 ≤ src ∧ src ≤ 30) && decide (arg < 2 ^ 64)
  | .clearFaults src arg => decide (1 ≤ src ∧ src ≤ 30) && decide (arg < 2 ^ 64)
  | .orderlyStop src arg => decide (1 ≤ src ∧ src ≤ 30) && decide (arg < 2 ^ 64)
  | .bridleUnknownEvent src code arg => decide (1 ≤ src ∧ src ≤ 30) && decide (code < 2 ^ 16) && decide (arg < 2 ^ 64)
  | .pesInhibit src arg => decide (1 ≤ src ∧ src ≤ 30) && decide (arg < 2 ^ 64)
  | .shockInhibit src arg => decide (1 ≤ src ∧ src ≤ 30) && decide (arg < 2 ^ 64)
  | .loopFaultInhibit src arg => decide (1 ≤ src ∧ src ≤ 30) && decide (arg < 2 ^ 64)
  | .managementInhibit src arg => decide (1 ≤ src ∧ src ≤ 30) && decide (arg < 2 ^ 64)
  | .pesCauseCleared src arg => decide (1 ≤ src ∧ src ≤ 30) && decide (arg < 2 ^ 64)
  | .shockCauseCleared src arg => decide (1 ≤ src ∧ src ≤ 30) && decide (arg < 2 ^ 64)
  | .loopCauseCleared src arg => decide (1 ≤ src ∧ src ≤ 30) && decide (arg < 2 ^ 64)
  | .managementCauseCleared src arg => decide (1 ≤ src ∧ src ≤ 30) && decide (arg < 2 ^ 64)
  | .wrvUnknownEvent src code arg => decide (1 ≤ src ∧ src ≤ 30) && decide (code < 2 ^ 16) && decide (arg < 2 ^ 64)
  | .earlyCloseRequest src arg => decide (1 ≤ src ∧ src ≤ 30) && decide (arg < 2 ^ 64)
  | .shedReturnReady src arg => decide (1 ≤ src ∧ src ≤ 30) && decide (arg < 2 ^ 64)
  | .reallocateWeak src arg => decide (1 ≤ src ∧ src ≤ 30) && decide (arg < 2 ^ 64)
  | .rebuiltDsReady src arg => decide (1 ≤ src ∧ src ≤ 30) && decide (arg < 2 ^ 64)
  | .yardParityReady src arg => decide (1 ≤ src ∧ src ≤ 30) && decide (arg < 2 ^ 64)
  | .controlledStopBegun src arg => decide (1 ≤ src ∧ src ≤ 30) && decide (arg < 2 ^ 64)
  | .fmtUnknownEvent src code arg => decide (1 ≤ src ∧ src ≤ 30) && decide (code < 2 ^ 16) && decide (arg < 2 ^ 64)
  | .unitAssemblyBegun src arg => decide (1 ≤ src ∧ src ≤ 30) && decide (arg < 2 ^ 64)
  | .unitComplete src arg => decide (1 ≤ src ∧ src ≤ 30) && decide (arg < 2 ^ 64)
  | .yardParityLaid src arg => decide (1 ≤ src ∧ src ≤ 30) && decide (arg < 2 ^ 64)
  | .reconstructForRead src arg => decide (1 ≤ src ∧ src ≤ 30) && decide (arg < 2 ^ 64)
  | .rebuildStart src arg => decide (1 ≤ src ∧ src ≤ 30) && decide (arg < 2 ^ 64)
  | .reshapeStart src arg => decide (1 ≤ src ∧ src ≤ 30) && decide (arg < 2 ^ 64)
  | .reachabilityChanged src arg => decide (1 ≤ src ∧ src ≤ 30) && decide (arg < 2 ^ 64)
  | .yardUnknownEvent src code arg => decide (1 ≤ src ∧ src ≤ 30) && decide (code < 2 ^ 16) && decide (arg < 2 ^ 64)
  | .mgtEventConsume us => decide (us < 2 ^ 64)
  | .channelRetireAuto chan => decide (chan < 132)
  | .syncFound chan _ => decide (chan < 132)
  | .lockLoss chan => decide (chan < 132)
  | .residualLimit chan => decide (chan < 132)
  | .separatorDetected chan => decide (chan < 132)
  | .dataSetDecoded res => decodeOk res
  | .ladderPassResult res => decodeOk res
  | .yardWaitExpiry => true
  | .yardReconstructReturn _ => true
  | .readAheadStart part => decide (part < 4)
  | .rxLaneFail lane _ => decide (lane < 12)
  | .jesdLinkRestart link _ => decide (link < 4)
  | .shedPacketCopy part => decide (part < 4)
  | .unitProgramDone _ => true
  | .rowHoldExpiry stream group => decide (stream < 16) && decide (group < 8)
  | .journalRecordsPending => true
  | .journalFlushExpiry => true
  | .journalUnitDurable => true
  | .spillLow => true
  | .shedReturnRead part => decide (part < 4)
  | .spillRelease seq => decide (seq < 2 ^ 64)
  | .checkpointBytes => true
  | .checkpointInterval => true
  | .checkpointDurable => true
  | .gcStart die => decide (die < 128)
  | .gcStop die => decide (die < 128)
  | .readVerifyResult _ _ _ => true
  | .nandProgramFailure _ => true
  | .nandEraseFailure _ => true
  | .shedUnitLost _ => true
  | .shockAssert => true
  | .shockRelease => true
  | .cartPresentChange _ cm => decide (cm.length ≤ 65536)
  | .clockInputLost _ => true
  | .duskBegin _ => true
  | .duskDomainsOff => true
  | .duskComplete => true
  | .pfailDeassert => true
  | .coldStart fuses => fusesOk fuses
  | .dawnD0Done => true
  | .dawnD1Done => true
  | .dawnD2Done _ => true
  | .dawnD3Done res => d3Ok res
  | .dawnD4Done res => d4Ok res
  | .dawnD5 d3ms totalMs => decide (d3ms < 65536) && decide (totalMs < 65536)
  | .sfSignalDetect port lanes => decide (port < 4) && decide (lanes < 4)
  | .sfLaneTrained port lane => decide (port < 4) && decide (lane < 2)
  | .sfTrainingTimeout port => decide (port < 4)
  | .helloSendTimer port => decide (port < 4)
  | .flitHello port flit => decide (port < 4) && flit.length == 256
  | .helloLossTimeout port => decide (port < 4)
  | .sfLaneLoss port lane => decide (port < 4) && decide (lane < 2)
  | .flitData port flit => decide (port < 4) && flit.length == 256
  | .flitNak port flit => decide (port < 4) && flit.length == 256
  | .flitNull port flit => decide (port < 4) && flit.length == 256
  | .flitLsa port flit => decide (port < 4) && flit.length == 256
  | .replayTimeout port => decide (port < 4)
  | .replayLimit port => decide (port < 4)
  | .fecUncorrLimit port lane => decide (port < 4) && decide (lane < 2)
  | .laneRejoin port lane => decide (port < 4) && decide (lane < 2)
  | .laneRetrainRetry port lane => decide (port < 4) && decide (lane < 2)
  | .lsaRefreshTimer => true
  | .lsaAgeOut origin => decide (origin < 4096)
  | .routeInstall => true
  | .transitWaitExpiry port vc => decide (port < 4) && decide (vc < 4)
  | .claim m => msgOk m
  | .claimAck m => msgOk m
  | .withdraw m => msgOk m
  | .contrib m => msgOk m
  | .contribDone m => msgOk m
  | .nullReq m => msgOk m
  | .nullOk m => msgOk m
  | .claimed m => msgOk m
  | .sealStripe m => msgOk m
  | .parityLaid m => msgOk m
  | .stripeSafe m => msgOk m
  | .safeAck m => msgOk m
  | .journal m => msgOk m
  | .journalAck m => msgOk m
  | .nack m => msgOk m
  | .stateQuery m => msgOk m
  | .stateReply m => msgOk m
  | .epochPropose m => msgOk m
  | .adopt m => msgOk m
  | .epochCommit m => msgOk m
  | .epochReq m => msgOk m
  | .join m => msgOk m
  | .descReq m => msgOk m
  | .descPart m => msgOk m
  | .ledger m => msgOk m
  | .rebuildReq m => msgOk m
  | .rebuildPart m => msgOk m
  | .rebuildFail m => msgOk m
  | .yardBadMessage _ => true
  | .contributionTimeout stripe => decide (stripe < 2 ^ 32)
  | .yardRepeatTimer => true
  | .memberDead member => decide (member < 64)
  | .stateQueryDeadline => true
  | .epochProposalTimeout => true
  | .epochHoldExpiry => true
  | .parityHolderIdle part stripe => decide (part < 4) && decide (stripe < 2 ^ 32)
  | .retainLow => true
  | .reshapeCheckpoint => true
  | .nightHeartbeatTimeout => true
  | .dayHeartbeatTimeout => true
  | .bothHeartbeatsTimeout => true
  | .monitorSample samples => samples.all fun x => decide (x.monitor < 74)
  | .voltageFault monitor => decide (monitor < 74)
  | .throttleStep => true
  | .criticalHoldRelease => true
  | .ceilingRaise => true
  | .telemetryReport _ => true
  | .entdaa addr => decide (addr < 128)
  | .setdasa addr => decide (addr < 128)
  | .rstdaa => true
  | .enec events => decide (events < 256)
  | .disec events => decide (events < 256)
  | .getpid => true
  | .getbcr => true
  | .getdcr => true
  | .getstatus => true
  | .getmwl => true
  | .getmrl => true
  | .i3cPrivateRead => true
  | .i3cPrivateWrite _ => true
  | .bufferEccError stall chan device _ => decide (stall < 2 ^ 19) && decide (chan < 4) && decide (device < 20)
  | .patrolScrub => true
  | .laneFrame obs => laneOk obs
  | .syncMissed chan _ => decide (chan < 132)
  | .powerLoss => true
  | .pcieLinkUp _ speed width => decide (1 ≤ speed ∧ speed ≤ 5) && [1, 2, 4, 8].contains width
  | .blockErased _ stream => decide (stream < 16)
  | .unitReadDone _ => true
  | .flitBad port flit => decide (port < 4) && flit.length == 256
  | .nightCoreReady => true
  | .gpioPeriodic ball => decide (ball < 8)
  | .traceFlush => true

end Sys2Proof
end

