-- ==== Sys2Proof/Tests/Slice0.lean ====
section
/-!
SUPPORT. Own tests: ill-formed commands, values that the spec works out, single steps, and for every statement concrete
states that meet its hypotheses.
-/

namespace Sys2Proof.Tests

open Sys2Proof.Machine

set_option maxRecDepth 20000

/-- A machine right after reset whose port A functions are enabled. -/
def enabledA : State := { State.reset with hq := { portA := { functionsOn := true } } }

/-- Port A enabled, and its ring 3 with 16 entries. -/
def ringA : State := setRing .a 3 { enable := true, liveSize := 16, size := 16, sqHead := 5 } enabledA

/-- Ring 3 of port A enabled with new entries. -/
def fetchable : State :=
  setPort .a { functionsOn := true, fetchEnable := true } (setRing .a 3 { enable := true, liveSize := 16, size := 16, sqHead := 5, tail := 7 } enabledA)

/-- Every domain on, all six engines enabled by the configuration, and one write of one packet running as command 9. -/
def oneWrite (st : PktSt) (data : Bytes) : State :=
  { State.reset with
    hq := { cmds := [{ port := .a, ring := 3, seq := 9, sqHead := 0, e := { opcode := 0x01 }, st := .running }],
            writes := [{ seq := 9, port := .a, part := 0, first := 0, kind := .records, truncating := false, keySlot := 0, gen := 0, hostLabel := 0,
                         counter := 5, key := [], recs := [⟨data.length, [], 0, 0⟩], pkts := [{ hostLen := data.length, recStarts := 1, firstRec := 0, st := st, data := data }] }] },
    stk := { stalls := [(5, { st := .held })] }, mgt := { domains := 2 ^ 29 - 1 },
    cfg := { records := [⟨0x0013, 0, true, 8, [0x3F, 4]⟩] } }

/-- A loaded cartridge with one partition of 1,000 data set positions, key slot 0 loaded, and a fetched command 9 of ring 3. -/
def withCmd (e : SqEntry) : State :=
  { State.reset with
    hq := { cmds := [{ port := .a, ring := 3, seq := 9, sqHead := 0, e := e }], acceptSeq := 10 },
    cart := { present := true, st := .ready }, parts := [(0, { wraps := 4, positions := 1000, acceptedEnd := 7, takenMark := 7 })],
    cip := { ready := true, slots := [(0, { loaded := true })] } }

/-- A Yard of four members, three slots a stripe, this one member 2; and an epoch that all take part in. -/
def yardOfFour : State :=
  { State.reset with
    yrd := { enrolled := true, yardId := 7, epoch := 5, member := 2, boundary := 10, map := [(0, (0, 1)), (1, (0, 2)), (2, (0, 3)), (3, (0, 4))],
             desc := some { n := 4, k := 2, m := 1, yard := 7, gen := 1, contribTimeout := 1000, memberDead := 5000, members := [], rows := [[0, 1, 3], [0, 1, 3], [2, 1, 0], [0, 2, 1]], raw := [] } } }

/-- An entry of stripe 1 of the Yard of four, its message from member 0, and member 2 in the coordinator's place. -/
def stripeOne : JEntry := { stripe := 1, epoch := 5, k := 2, m := 1, gen := 1, holders := [(1, 3)] }
def journalOf (e : JEntry) : State := { yardOfFour with yrd := { yardOfFour.yrd with member := 3, journal := [(1, e)] } }
def about (t src role slot : Nat) : YMsg :=
  { type := t, seg := 0, epoch := 5, yard := 7, stripe := 1, src := src, dst := 3, role := role, slot := slot, payload := [1#8, 0#8, 0#8, 0#8, 5#8] }

/-! ## Ill-formed commands, one for each check, and well-formed ones -/

/-- A Yard message whose fields fit. -/
def someMsg : YMsg := about YT.claim 0 0 0

theorem test_listOk_refuses : Instr.wellFormed (.readRecords 9 (zeros 1048561)) = false := by
  have h : ∀ b : Bytes, Instr.wellFormed (.readRecords 9 b) = (decide (9 < 2 ^ 64) && decide (b.length ≤ 1048560)) := fun _ => rfl
  rw [h, show (zeros 1048561).length = 1048561 from List.length_replicate]
  rfl
theorem test_reqOk_refuses : Instr.wellFormed (.stallRequest [⟨64, 0, 1⟩]) = false ∧ Instr.wellFormed (.stallRequest [⟨0, 8, 1⟩]) = false := ⟨rfl, rfl⟩
theorem test_opOk_refuses : Instr.wellFormed (.stallChainFree ⟨64, 0, 0⟩) = false ∧ Instr.wellFormed (.stallFree [⟨0, 2 ^ 19, 0⟩]) = false
    ∧ Instr.wellFormed (.stallLink ⟨0, 0, 256⟩ 0) = false := ⟨rfl, rfl, rfl⟩
theorem test_msgOk_refuses : Instr.wellFormed (.claim { someMsg with type := 256 }) = false ∧ Instr.wellFormed (.claim { someMsg with seg := 65536 }) = false
    ∧ Instr.wellFormed (.claim { someMsg with yard := 2 ^ 64 }) = false ∧ Instr.wellFormed (.claim { someMsg with slot := 256 }) = false := ⟨rfl, rfl, rfl, rfl⟩
theorem test_foundOk_refuses : Instr.wellFormed (.locate 9 (some ⟨2 ^ 40, 0⟩)) = false ∧ Instr.wellFormed (.locate 9 (some ⟨0, 256⟩)) = false := ⟨rfl, rfl⟩
theorem test_scanOk_refuses : Instr.wellFormed (.load 9 [.directory 4 false none]) = false ∧ Instr.wellFormed (.load 9 [.dataSet 0 [] (2 ^ 40) []]) = false := ⟨rfl, rfl⟩
theorem test_fusesOk_refuses : Instr.wellFormed (.coldStart ⟨[], 0, 0, 0, [], 0⟩) = false := rfl
theorem test_d3Ok_refuses : Instr.wellFormed (.dawnD3Done ⟨[], 64, 2048, 0, true, [], true, [], []⟩) = false := rfl
theorem test_d4Ok_refuses : Instr.wellFormed (.dawnD4Done ⟨true, [(132, 0, [])]⟩) = false := rfl
theorem test_decodeOk_refuses : Instr.wellFormed (.dataSetDecoded ⟨4, 0, 5, [], []⟩) = false
    ∧ Instr.wellFormed (.dataSetDecoded ⟨0, 0, 5, [⟨132, .other, [], none, none, 0, none⟩], []⟩) = false := ⟨rfl, rfl⟩
theorem test_verdictOk_refuses : Instr.wellFormed (.verifyVerdict { (default : VerdictObs) with sds := 256 }) = false := rfl
theorem test_servoOk_refuses : Instr.wellFormed (.servoFrame ⟨[none], 0, [], false⟩) = false := rfl
theorem test_laneOk_refuses : Instr.wellFormed (.laneFrame ⟨0, 256, 0⟩) = false := rfl
theorem test_ring_refused : Instr.wellFormed (.ringEnable .a 33) = false ∧ Instr.wellFormed (.sqTailDoorbell .a 0 (2 ^ 32)) = false := ⟨rfl, rfl⟩
theorem test_entry_refused : Instr.wellFormed (.fetchTurn [[0#8]]) = false ∧ Instr.wellFormed (.completionWrite (2 ^ 64)) = false := ⟨rfl, rfl⟩
theorem test_access_refused : Instr.wellFormed (.violation .a .pf1 0 24 true 0) = false ∧ Instr.wellFormed (.registerWrite .a (2 ^ 24) 0) = false := ⟨rfl, rfl⟩
theorem test_event_refused : Instr.wellFormed (.speedTarget 31 0) = false ∧ Instr.wellFormed (.wrvUnknownEvent 1 (2 ^ 16) 0) = false
    ∧ Instr.wellFormed (.thread 1 (2 ^ 64)) = false := ⟨rfl, rfl, rfl⟩
theorem test_place_refused : Instr.wellFormed (.dataSetEncoded 4) = false ∧ Instr.wellFormed (.commit 4096) = false ∧ Instr.wellFormed (.lockLoss 132) = false
    ∧ Instr.wellFormed (.gcStart 128) = false ∧ Instr.wellFormed (.actFrameSend 2) = false ∧ Instr.wellFormed (.followingErrorExpiry 6) = false := ⟨rfl, rfl, rfl, rfl, rfl, rfl⟩
theorem test_port_refused : Instr.wellFormed (.flitData 0 [0#8]) = false ∧ Instr.wellFormed (.sfLaneLoss 4 0) = false ∧ Instr.wellFormed (.transitWaitExpiry 0 4) = false
    ∧ Instr.wellFormed (.memberDead 64) = false ∧ Instr.wellFormed (.entdaa 128) = false ∧ Instr.wellFormed (.bufferEccError 0 4 0 true) = false := ⟨rfl, rfl, rfl, rfl, rfl, rfl⟩
theorem test_well_formed : Instr.wellFormed (.claim someMsg) = true ∧ Instr.wellFormed (.ringEnable .b 32) = true ∧ Instr.wellFormed (.locate 9 none) = true
    ∧ Instr.wellFormed (.speedTarget 30 5) = true := ⟨rfl, rfl, rfl, rfl⟩

/-! ## Values that the spec works out -/

/-- The worked example of chapter 6: user byte 6,000,112 lies in SDS 240, row 51, byte 181. -/
theorem test_byte_of_the_example : streamIndex 240 51 181 = 6000112 := by decide
/-- The same example: logical channel 99 and position 103, the check back to SDS 240, and the rewrite on channel 31. -/
theorem test_channel_of_the_example : logicalOf 240 51 = 99 ∧ positionOf 240 51 = 103 ∧ rowAt 99 103 = (240, 51) ∧ rewriteChannel (fun _ => false) 99 = 31 := by decide
/-- The same example: the row block's header. -/
theorem test_header_of_the_example : (cwrHeader 240 51 0xC80C 3 12 0 false 1).take 10 = [0xF0, 0x33, 0, 0, 0xC8, 0x0C, 0, 3, 0x0C, 0x08] := by decide
/-- FIPS 197: the S-box takes 0x53 to 0xED, and back. -/
theorem test_aes_sbox : aesSbox 0x53#8 = 0xED#8 ∧ aesSboxInv 0xED#8 = 0x53#8 := by decide
/-- Data set numbers of units: two parity places follow each thirty (R176). -/
theorem test_unit_numbers : unitNumber 29 = 29 ∧ unitNumber 30 = 32 ∧ unitNumber (30 * 1600 + 12) = 51212 := by decide
/-- R351's example: the coefficients of data slot 0 and the contributions of byte 0x5A. -/
theorem test_coefficients_of_the_example : yardCoef 2 1 0 = 0x8E#8 ∧ yardCoef 2 2 0 = 0xF4#8 := by decide
theorem test_contributions_of_the_example : scaleBytes (yardCoef 2 1 0) [0x5A#8] = [0x2D#8] ∧ scaleBytes (yardCoef 2 2 0) [0x5A#8] = [0x36#8] := by decide

/-- The worked example of R366: the 14+2 Yard of 20 in epoch 42, member 7 ABSENT. -/
def archive : State :=
  { State.reset with
    yrd := { enrolled := true, yardId := 7, epoch := 42, member := 12, boundary := 81942
             map := (List.range 20).map fun i => (i, (if i = 7 then 1 else 0, i + 1))
             desc := some { n := 20, k := 14, m := 2, yard := 7, gen := 1, contribTimeout := 1000, memberDead := 5000, members := []
                            rows := List.replicate 10 [] ++ [[2, 5, 9, 11, 13, 14, 16, 17, 18, 19, 0, 1, 4, 6, 7, 12]], raw := [] } } }

theorem test_coordinator_of_the_example : coordinator archive 81930 = some 12 ∧ replicasOf archive 81930 = [2, 5] := by decide
theorem test_stand_in_of_the_example : standIn archive 81930 7 = some 8 ∧ roleHolder archive false 81930 1 = 8 ∧ roleHolder archive false 81930 2 = 12 := by decide

/-! ## One step each -/

/-- What a field of the next state is. -/
def after {α : Type} (o : Host.Outcome State Fault Refusal) (f : State → α) : Option α :=
  match o with
  | .next t => some (f t)
  | _ => none

theorem test_step_runs_the_front : after (step { State.reset with pending := [.epochHoldExpiry, .retainLow] }) State.pending = some [.retainLow] := rfl
theorem test_no_word_spells_a_command : decodeTableWord 16 0 = none ∧ (State.reset.withFetchWord 16 0) = State.reset := ⟨rfl, rfl⟩
theorem test_tail_doorbell : after (exec (.sqTailDoorbell .a 3 7) ringA) (fun t => (ringAt t .a 3).tail) = some 7 := by decide
theorem test_tail_doorbell_beyond_the_ring : after (exec (.sqTailDoorbell .a 3 16) ringA) (fun t => ((ringAt t .a 3).tail, boxOf t .mgt != [])) = some (0, true) := by decide
theorem test_disable_ring : after (exec (.ringDisable .a 3) ringA) (fun t => (ringAt t .a 3).enable) = some false := by decide
/-- R20: a write to the part ID is of kind 2 on port A, function 1. -/
theorem test_violation : after (exec (.violation .a .pf1 0 32 true 0) enabledA) (fun t => (t.glb.violations, t.glb.kind, t.glb.fn)) = some (1, 2, 1) := by decide
theorem test_part_id : readReg State.reset 0 = some 0x9128D1A5 := by decide
theorem test_cold_start : after (exec (.coldStart ⟨[], 0, 0, 0x5A3C0017, [], 0⟩) State.reset) (fun t => t.cfg.st != .reset) = some true := by decide
theorem test_cold_start_needs_power : after (exec (.coldStart ⟨[], 0, 0, 0, [], 0⟩) { State.reset with cfg := { pfail := true } }) (fun t => t.cfg.st) = some .reset := by decide
theorem test_hold_expiry : after (exec .epochHoldExpiry { State.reset with yrd := { heldMsgs := [someMsg] } }) (fun t => t.yrd.heldMsgs) = some [] := rfl
theorem test_reachability : after (exec (.reachabilityChanged 7 0x10005) State.reset) (fun t => t.yrd.reachable) = some [(5, ())] := by decide
theorem test_member_sel : after (exec (.yrdMemberSel 3) archive) (fun t => (t.yrd.sel, t.yrd.selState, t.yrd.selHost)) = some (3, 0, 4) := by decide
theorem test_balls_in_reset : pinState State.reset .nand = some .chipsDisabled ∧ gpioLevel State.reset 0 = .highZ := by decide
theorem test_ball_of_a_config : (gpioLevel { State.reset with cfg := { st := .service, records := [⟨0x0020, 0, false, 1, [2]⟩] } } 0) = .high := by decide

/-! ## Witnesses of the statements' hypotheses -/

theorem witness_StepRunsTheFrontCommandElseIdles :
    ({ State.reset with pending := [.dawnD1Done, .dawnD0Done] } : State).pending = .dawnD1Done :: [.dawnD0Done] ∧ State.reset.pending = [] := by decide

theorem witness_EveryStepKeepsTheInvariant :
    Inv State.reset ∧ ∃ t, step { State.reset with pending := [.dawnD5 1 2] } = .next t :=
  ⟨⟨rfl, rfl, rfl, rfl, fun _ h => (by cases h), Nat.zero_le _, Nat.zero_le _, Nat.zero_le _, Nat.zero_le _, by decide⟩, ⟨_, rfl⟩⟩

theorem witness_ViolationsAreCountedAndRecorded :
    (portOf enabledA .a).functionsOn = true ∧ ¬(32 = 64 ∧ 0 % 8 = 0) ∧ (0x10000 ≤ 0x10000)
    ∧ (0x048000 ≤ 0x048000 ∧ 0x048000 < 0x050000) ∧ (0xFFFF < 0x10000 ∧ ¬(32 = 32 ∧ 0xFFFF % 4 = 0))
    ∧ ¬(0x048000 ≤ 0x050000 ∧ 0x050000 < 0x050000) ∧ (256 ≤ 256 ∧ 256 % 4 = 0 ∧ 256 < 0x10000)
    ∧ readReg enabledA 0x000018 = none ∧ readReg enabledA 0x000010 = some 0 ∧ enabledA.cfg.st ≠ .hold ∧ wreg 0x000010 = none
    ∧ (252 < 256 ∧ 252 % 8 = 4 ∧ 248 < 256 ∧ 248 % 8 = 0) := by decide

theorem witness_AlignedDoubleAccessIsTwoAccesses :
    (portOf enabledA .a).functionsOn = true ∧ 8 % 8 = 0
    ∧ (∃ u, exec (.violation .a .pf1 8 32 true 5) enabledA = .next u ∧ (portOf u .a).functionsOn = true)
    ∧ ∃ u t, exec (.violation .a .pf1 8 32 false 0) enabledA = .next u ∧ (portOf u .a).functionsOn = true
      ∧ exec (.violation .a .pf1 12 32 false 0) u = .next t := ⟨by decide, by decide, ⟨_, rfl, rfl⟩, _, _, rfl, rfl, rfl⟩

theorem witness_ReadOnlyRegistersIgnoreWrites :
    (portOf enabledA .a).functionsOn = true ∧ enabledA.cfg.st ≠ .hold ∧ 0x0C0004 % 4 = 0 ∧ ¬(0x048000 ≤ 0x0C0004 ∧ 0x0C0004 < 0x050000)
    ∧ wreg 0x0C0004 = none ∧ (readReg enabledA 0x0C0004).isSome ∧ wreg 0x0C0200 = none ∧ ¬(readReg enabledA 0x0C0200).isSome := by decide

theorem witness_RegisterWritesTakeTheirWritableBits : (portOf enabledA .a).functionsOn = true ∧ enabledA.cfg.st ≠ .hold := by decide

theorem witness_DoorbellsMoveTheirIndexOrAreRejected :
    (portOf ringA .a).functionsOn = true ∧ 3 ≤ 32 ∧ (ringAt ringA .a 3).enable = true ∧ 15 % 1024 < (ringAt ringA .a 3).liveSize
    ∧ 5 % 1024 = (ringAt ringA .a 3).sqHead ∧ (ringAt ringA .a 3).liveSize ≤ 16 % 1024 ∧ (ringAt ringA .a 32).enable = false
    ∧ outstanding ringA .a 32 = false ∧ ringA.boxes.mgt.length < 1024 := by decide

theorem witness_RingPairsStartAfreshAndStop :
    let s := setRing .a 32 { size := 256 } enabledA
    (portOf s .a).functionsOn = true ∧ (ringAt s .a 32).enable = false ∧ 2 ≤ (ringAt s .a 32).size ∧ (ringAt s .a 32).size ≤ 256
    ∧ (ringAt s .a 32).sqLo % 4096 = 0 ∧ (ringAt s .a 32).cqLo % 4096 = 0 ∧ outstanding s .a 32 = false
    ∧ ¬(2 ≤ (ringAt enabledA .a 0).size) ∧ (ringAt enabledA .a 0).enable = false := by decide

theorem witness_FetchTurnsAcceptEntriesInOrder :
    fetchable.hq.stopFetch = false ∧ turnRing fetchable fetchable.hq.nextPort = some 3 ∧ briClaims fetchable < 32768 ∧ [zeros 64] ≠ [] := by
  decide

theorem witness_CompletionsGoOutOnceToTheirRing :
    let c : Cmd := { port := .a, ring := 3, seq := 9, sqHead := 1, e := { opcode := 0x03, tag := 77 }, st := .completing }
    let s := setCmds [c] ringA
    findCmd s 9 = some c ∧ c.st = .completing ∧ cqFull (ringAt s c.port c.ring) = false ∧ s.cfg.dusk = none ∧ heldAhead s c = false
    ∧ targetAhead s c = false ∧ c.ring ≤ 32 := by decide

theorem witness_QueueResetsAbortWaitingCommands :
    let c : Cmd := { port := .a, ring := 3, seq := 9, sqHead := 1, e := {}, st := .admitted }
    let d : Cmd := { port := .a, ring := 3, seq := 10, sqHead := 1, e := {}, st := .running }
    let s := setCmds [c, d] ringA
    (portOf s .a).functionsOn = true ∧ findCmd s 9 = some c ∧ findCmd s 10 = some d ∧ (∀ e ∈ s.hq.cmds, e.seq = 10 → e = d) ∧ (∀ e ∈ s.hq.cmds, e.seq = 9 → e = c)
    ∧ c.isWrite = false ∧ d.isWrite = false ∧ findWrite s 10 = none
    ∧ (ringAt (setRing .b 32 { resetting := true } s) .b 32).resetting = true ∧ outstanding (setRing .b 32 { resetting := true } s) .b 32 = false
    ∧ (ringAt (setRing .b 32 { coalTime := 4, unsignalled := 1 } s) .b 32).coalTime ≠ 0 ∧ (ringAt (setRing .b 32 { coalTime := 4, unsignalled := 1 } s) .b 32).unsignalled ≠ 0 := by
  decide

theorem witness_PortsDropTheirCommandsAndRetrain :
    (portOf (setPort .a { perst := true } State.reset) .a).perst = true
    ∧ (portOf (setPort .b { training := true } State.reset) .b).training = true ∧ (portOf (setPort .b { training := true } State.reset) .b).perst = false
    ∧ (portOf (setPort .a { linkUp := true } State.reset) .a).linkUp = true ∧ (portOf (setPort .a { linkUp := true } State.reset) .a).functionsOn = false
    ∧ (portOf enabledA .a).functionsOn = true ∧ (portOf (setPort .a { linkUp := true, functionsOn := true } State.reset) .a).linkUp = true := by decide

theorem witness_PacketsMoveThroughTheEngines :
    let s := oneWrite .dma [7#8, 8#8]
    let r := oneWrite .ready [7#8, 8#8]
    let e := setEngine 2 { job := .write 9 0 false, input := [7#8, 8#8] } r
    (runningCmd s 9 0x01).isSome ∧ (stallAt s 5).st = .held ∧ (stallAt s 5).owner = portReq .a ∧ (stallAt s 5).stable = 0 ∧ stallBusy s 5 = false
    ∧ Cfgw.rawOnly r = false ∧ readyPacket r = some (9, 0) ∧ idleEngine r = some 0 ∧ (dlzWaiting r).isSome = false
    ∧ (engineAt e 2).job = .write 9 0 false ∧ (findWrite e 9).isSome ∧ 2 ≤ (dlzEncode [7#8, 8#8]).length
    ∧ (engineAt (setWrites [] e) 2).job = .write 9 0 false ∧ findWrite (setWrites [] e) 9 = none
    ∧ engineIn (setEngine 5 { mismatches := 4 } r) 5 = true ∧ Cfgw.mismatchLimit r = 4 := by decide

theorem witness_PacketsMoveThroughTheEngines_read :
    let c : Cmd := { port := .a, ring := 3, seq := 9, sqHead := 0, e := { opcode := 0x02 }, st := .running, hold := some ⟨true, 40, [], none, []⟩ }
    dlzWaiting (setCmds [c] (setWrites [] (oneWrite .ready []))) = some c ∧ idleEngine (setCmds [c] (setWrites [] (oneWrite .ready []))) = some 0
    ∧ readyPacket (setCmds [c] (setWrites [] (oneWrite .ready []))) = none := by decide

theorem witness_CipherTakesPacketsWithinTheExposure :
    let s := setWrites ((oneWrite .ready []).hq.writes.map fun w => { w with kind := .marks, chain := [(5, 0)] }) (oneWrite .ready [])
    s.cfg.dusk = none ∧ (cipherNext s).any (fun x => x.1 == s.hq.writes.headD default && x.2 == 0) = true
    ∧ exposure s + 48 ≤ exposureLimit s ∧ exposureLimit s < exposure s + 402653185
    ∧ (extendChain (s.hq.writes.headD default) 48 s).1.isSome ∧ (s.hq.writes.map Write.seq).Nodup ∧ (findCmd s 9).isSome := by
  decide

theorem witness_ReadsDeliverRecordsUnderTheirLocks :
    let c : Cmd := { port := .a, ring := 3, seq := 9, sqHead := 0, e := { opcode := 0x02, count := 1, length := 2 }, st := .running, endSeen := 1,
                     hold := some ⟨true, 2, [1#8, 65#8, 66#8], some 2, [(0, 0, 2, [])]⟩ }
    let d : Cmd := { c with hold := some ⟨true, 4, [1#8, 65#8, 66#8], some 2, [(0, 0, 2, [])]⟩ }
    let g : Cmd := { c with seq := 10, st := .gated, hold := none }
    let s := setEngine 2 { job := .read 9 } (setCmds [c, g] (oneWrite .ready []))
    let m := setEngine 2 { job := .read 9 } (setCmds [d] (oneWrite .ready []))
    (engineAt s 2).job = .read 9 ∧ engineIn s 2 = true ∧ runningCmd s 9 0x02 = some c ∧ (match dlzDecode 4 [1#8, 65#8, 66#8] with | .error _ => true | .ok _ => false) = true
    ∧ runningCmd m 9 0x02 = some d ∧ s.hq.cmds.find? (fun c => c.st == .gated) = some g ∧ findCmd s 10 = some g
    ∧ (versionFor s 0 10 0).isSome ∧ runningCmd (setCmds [{ c with hold := none, next := 1 }] s) 9 0x02 = some { c with hold := none, next := 1 } := by
  decide

theorem witness_WritesAreAdmittedAtTheAcceptedEnd :
    let c : Cmd := { port := .a, ring := 3, seq := 9, sqHead := 0, e := { opcode := 0x01, count := 1, length := 5, position := 7, listCount := 1 } }
    let s := withCmd c.e
    due s 9 0x01 = some c ∧ findWrite s 9 = none ∧ sglOk c.e (le 8 0 ++ le 4 5 ++ le 4 0) 5 = true ∧ writeFieldCheck c.e (recLens c.e []) 4096 5 false = none
    ∧ admissionCheck s c.e false (writeMeasure 5 1 (recLens c.e [])) 1 = none ∧ writeFieldCheck c.e (recLens c.e []) 4096 5 true = some Status.invalidField := by
  decide

theorem witness_WritesAreAdmittedAtTheAcceptedEnd_mark :
    let c : Cmd := { port := .a, ring := 3, seq := 9, sqHead := 0, e := { opcode := 0x05, count := 1, position := 6, flags := 1 } }
    due (withCmd c.e) 9 0x05 = some c ∧ findWrite (withCmd c.e) 9 = none ∧ writeFieldCheck c.e [] 65535 0 false = none
    ∧ admissionCheck (withCmd c.e) c.e true 48 0 = none ∧ writeFieldCheck { c.e with count := 65536 } [] 65535 0 false = some Status.invalidField := by
  decide

theorem witness_ReadsBeginAndQueriesAnswer :
    let c : Cmd := { port := .a, ring := 3, seq := 9, sqHead := 0, e := { opcode := 0x02, count := 1, length := 5, listCount := 1 } }
    let s := withCmd c.e
    due s 9 0x02 = some c ∧ sglOk c.e (le 8 0 ++ le 4 5 ++ le 4 0) 5 = true ∧ serving s = true ∧ partPresent s 0 = true
    ∧ firstLock (updCmd 9 (fun _ => { c with endSeen := 7, st := .running, sgl := [⟨0, 5⟩] }) s) { c with endSeen := 7, st := .running, sgl := [⟨0, 5⟩] } = none
    ∧ serving { s with cart := {} } = false := by
  decide

theorem witness_ReadsBeginAndQueriesAnswer_lock :
    let c : Cmd := { port := .a, ring := 3, seq := 10, sqHead := 0, e := { opcode := 0x02, count := 1 }, st := .running, endSeen := 1 }
    (firstLock (setCmds [c] (oneWrite .ready [7#8])) c).isSome := by
  decide

theorem witness_ReadsBeginAndQueriesAnswer_query :
    (due (withCmd { opcode := 0x06, auxAddr := 128 }) 9 0x06).isSome ∧ loaded (withCmd {}) = true ∧ partPresent (withCmd {}) 0 = true
    ∧ (due (withCmd { opcode := 0x10, param := 4 }) 9 0x10).isSome ∧ (due (withCmd { opcode := 0x12, param := 3 }) 9 0x12).isSome := by decide

theorem witness_SyncsAndAbortsEndAsTheirLevelsSay :
    let c : Cmd := { port := .a, ring := 3, seq := 9, sqHead := 0, e := { opcode := 0x03 } }
    let s := withCmd c.e
    due s 9 0x03 = some c ∧ loaded s = true ∧ partPresent s 0 = true ∧ partPresent s 1 = false ∧ loaded { s with cart := {} } = false
    ∧ blocksSync s 0 7 0 = false ∧ 7 ≤ markOf (partAt s 0) 0 ∧ markOf (partAt s 0) 1 < 7
    ∧ (runningCmd (setCmds [{ c with st := .running, covers := [(0, 7)] }] s) 9 0x03).isSome
    ∧ blocksSync (updPart 0 (fun x => { x with fails := [⟨2, 1, Status.writeFailed, 0, 1, 0, 0, []⟩] }) s) 0 7 2 = true := by
  decide

theorem witness_SyncsAndAbortsEndAsTheirLevelsSay_abort :
    let a : Cmd := { port := .a, ring := 3, seq := 10, sqHead := 0, e := { opcode := 0x0A, param := 5, tag := 6 } }
    let r : Cmd := { port := .a, ring := 3, seq := 8, sqHead := 0, e := { opcode := 0x02, tag := 5 }, st := .running }
    let w : Cmd := { port := .a, ring := 3, seq := 9, sqHead := 0, e := { opcode := 0x01, tag := 5 }, st := .running }
    let s := setCmds [r, a] (oneWrite .dma [7#8])
    let t := setCmds [w, a] (oneWrite .dma [7#8])
    due s 10 0x0A = some a ∧ yardRecovery s = false ∧ catchable s r = true ∧ findCmd s 8 = some r ∧ findWrite s 8 = none
    ∧ r.isWrite = false ∧ catchable t w = true ∧ ((findWrite t 9).any fun w => !w.taken) = true ∧ w.isWrite = true ∧ findWrite t 10 = none
    ∧ (∀ x ∈ t.hq.cmds, x.seq = 10 → x = a)
    ∧ yardRecovery { s with yrd := { rebuildActive := true } } = true := by
  decide

theorem witness_CartridgesAreLoadedAndUnloaded :
    let s := withCmd { opcode := 0x07 }
    let r := setSt 9 .running s
    let u := withCmd { opcode := 0x08 }
    (due s 9 0x07).isSome ∧ s.cart.present = true ∧ s.cart.st = .ready ∧ ({ s with cart := {} } : State).cart.present = false ∧ s.brd.motion = .unthreaded
    ∧ (runningCmd r 9 0x07).isSome ∧ due { r with cart := { present := true, st := .threading } } 9 0x07 = none
    ∧ (due u 9 0x08).isSome ∧ (runningCmd (setSt 9 .running u) 9 0x08).isSome ∧ u.cart.dirTodo = [] ∧ u.wrv.windowOpen = false
    ∧ hasSlots .bridle 13 1 s = true := by decide

theorem witness_CartridgesAreFormattedAndLocated :
    let s := withCmd { opcode := 0x09, count := 2 }
    let l := withCmd { opcode := 0x04, position := 3 }
    (due s 9 0x09).isSome ∧ tableRefused { count := 2 } [4, 6] = false ∧ tableRefused { count := 2 } [4, 5] = true ∧ s.cart.st = .ready ∧ s.wrv.windowOpen = false
    ∧ (s.hq.cmds.any fun d => d.ring != 32 && d.st != .completing && decide (d.seq < 9)) = false
    ∧ due (setSt 9 .running s) 9 0x09 = none ∧ (runningCmd (setSt 9 .running s) 9 0x09).isSome ∧ s.cart.dirTodo = []
    ∧ (due l 9 0x04).isSome ∧ partPresent l 0 = true ∧ due (setSt 9 .running l) 9 0x04 = none ∧ (runningCmd (setSt 9 .running l) 9 0x04).isSome := by decide

theorem witness_LandingBlocksAreStoredReadAndDiscarded :
    let on := fun (e : SqEntry) => { withCmd { e with count := 1, dataAddr := 4096, listCount := 1 } with
      cfg := { records := [⟨0x0004, 0, true, 32, [0, 4]⟩] }, cip := { slots := [(0, { loaded := true })] } }
    let sgl : Bytes := le 8 0 ++ le 4 65536 ++ le 4 0
    Cfgw.landingBlocks (on {}) ≠ 0 ∧ (due (on { opcode := 0x0B }) 9 0x0B).isSome
    ∧ landingFieldsBad (on {}) { opcode := 0x0B, count := 1 } = false ∧ sglOk { dataAddr := 4096, listCount := 1 } sgl 65536 = true := by decide

theorem witness_RootKeysAreInjectedErasedAndQueried :
    let s := fun (x : KeySlot) (e : SqEntry) => { withCmd e with cip := { slots := [(0, x)] } }
    let kept : KeySlot := { loaded := true, gen := 5, retiring := some (4, [], 3) }
    (due (s {} { opcode := 0x90, length := 144 }) 9 0x90).isSome ∧ earlierChecked (s {} { opcode := 0x90 }) = true
    ∧ (due (s kept { opcode := 0x91 }) 9 0x91).isSome ∧ (due (s kept { opcode := 0x92 }) 9 0x92).isSome
    ∧ (slotAt (s kept {}) 0).retiring = some (4, [], 3) ∧ retiringUsed (s kept {}) 0 4 3 = false
    ∧ (runningCmd (setSt 9 .running (s { erasing := some 9 } { opcode := 0x91 })) 9 0x91).isSome
    ∧ (due (s kept { opcode := 0x93, length := 193 }) 9 0x93).isSome := by decide

theorem witness_ConfigurationSetsAreStagedCheckedAndCommitted :
    let mine := fun (op n : Nat) => { withCmd { opcode := op, length := n, param := 3, dataAddr := 4096, listCount := 1 } with
      cfg := { openSet := some (.a, [exposureRec 64]) }, stk := { stables := [(1, { size := 500000 })] } }
    let other := { mine 0x80 8 with cfg := { openSet := some (.b, []) } }
    let c : Cmd := { port := .a, ring := 3, seq := 9, sqHead := 0, e := { opcode := 0x80 } }
    foreignSet other c = true ∧ foreignSet (mine 0x80 8) c = false ∧ (due (mine 0x80 8) 9 0x80).isSome ∧ (due (mine 0x82 0) 9 0x82).isSome
    ∧ checkStaged [exposureRec 64] (mine 0x82 0) = none ∧ checkSet (.staged 0) [] [exposureRec 65] = some (Status.configInvalid, 0x30000)
    ∧ deviceWriting (mine 0x82 0) = false ∧ (due (mine 0x11 64) 9 0x11).isSome := by decide

theorem witness_ImagesFusesAndIdentityAreCommanded :
    let on := fun (op n : Nat) => withCmd { opcode := op, length := n, param := 1, dataAddr := 4096, listCount := 1 }
    (due (on 0x84 16) 9 0x84).isSome ∧ bits (1 : Nat) 0 0 ≠ (on 0x84 16).cfg.bootSlot ∧ sglOk { dataAddr := 4096, listCount := 1 } (le 8 0 ++ le 4 16 ++ le 4 0) 16 = true
    ∧ Memory.wf (some 0xFF#8) (on 0x84 16).norMem = true ∧ (due (on 0x85 2048) 9 0x85).isSome ∧ (due (on 0x86 0) 9 0x86).isSome
    ∧ bits (1 : Nat) 1 0 ≠ (on 0x87 0).cfg.signer ∧ (due (on 0x87 0) 9 0x87).isSome ∧ (due (on 0x98 512) 9 0x98).isSome
    ∧ (due (on 0x99 97) 9 0x99).isSome ∧ (due (on 0x9A 97) 9 0x9A).isSome ∧ (on 0x9A 97).cip.cert = none := by decide

theorem witness_ActivationsAndTakeoversSwapTheCores :
    let s := { withCmd { opcode := 0x88, param := 1 } with norMem := AMap.set [] (slotBase 1 + 19) 7#8 }
    let a := fun (st : ActStep) => { setSt 9 .running s with mgt := { activation := some ⟨9, 1, st⟩ } }
    let m := { withCmd { opcode := 0x92 } with hq := { cmds := [{ port := .a, ring := 32, seq := 9, sqHead := 0, e := { opcode := 0x92 } }] }, mgt := { takeover := true } }
    let up := { State.reset with cfg := { st := .service }, mgt := { domains := 15 } }
    (due s 9 0x88).isSome ∧ s.cfg.bootSeq < bootSeqOf (headerAt s 1) ∧ (a .nightStarting).mgt.activation = some ⟨9, 1, .nightStarting⟩
    ∧ (findCmd (a .nightStarting) 9).isSome ∧ deviceWriting (a .nightStarting) = false ∧ mgmtHeld m = true ∧ (findCmd m 9).isSome
    ∧ coresRun up = true ∧ domOn up 4 = true ∧ up.mgt.takeover = false ∧ deviceWriting up = false := by decide

theorem witness_MonitorsHoldTheMachineWithinLimits :
    let hot := { State.reset with cfg := { st := .service }, mgt := { throttled := true, ceiling := 512, hotTemp := 115 } }
    let cold := { State.reset with mgt := { throttled := true, criticalHold := true, ceiling := 448, hotTemp := 20 } }
    let volt := fun (n m : Nat) => { State.reset with mgt := { monitors := [(m, { beyond := n })], domains := 2 ^ 29 - 1 }, cart := { st := .ready }, parts := [(0, { wraps := 1 })] }
    let log := { State.reset with cfg := { st := .service }, boxes := { mgt := [⟨0, 1, 0x0101, 3⟩] },
                                  stk := { ddr := [0, 1, 2, 3].map fun i => (i, { capacity := 64, ranks := 1, width := 8, rate := 4800, trained := true }) } }
    coresRun log = true ∧ dramTrained log = true ∧ boxHead log.boxes.mgt = some ⟨0, 1, 0x0101, 3⟩
    ∧ threshold hot 1 ≤ hot.mgt.hotTemp ∧ hasSlots .bridle Src.aon 1 hot = true ∧ hasSlots .wrv Src.mgtDay 1 cold = true ∧ cooled cold = true ∧ cooled { cold with mgt := { cold.mgt with criticalHold := false } } = true
    ∧ monJudged (volt 10 26) 26 = true ∧ switchable.contains (26 - 23) = true ∧ (monAt (volt 10 26) 26).beyond = 10
    ∧ monJudged (volt 10 24) 24 = true ∧ switchable.contains (24 - 23) = false ∧ monJudged (volt 10 57) 57 = true ∧ partPresent (volt 10 57) 0 = true
    ∧ monJudged State.reset 24 = true ∧ (State.reset).mgt.monitors = [] := by decide

theorem witness_ChannelsAreRetiredAndBufferErrorsQuarantined :
    let r := withCmd { opcode := 0xA8, param := 5 }
    let full := { r with cfg := { records := (List.range 4).map fun i => ⟨0x0012, 10 + i, false, 4, [128 + i]⟩ } }
    (due r 9 0xA8).isSome ∧ logicalOn (baseRecs r) 5 = some 5 ∧ logicalOn (baseRecs r) 200 = none ∧ unusedSpare r = some 128 ∧ unusedSpare full = none
    ∧ checkStaged (retireRecs 5 128) r = none ∧ deviceWriting r = false ∧ (due (withCmd { opcode := 0xA0, length := 20 }) 9 0xA0).isSome := by decide

theorem witness_TheManagementBusAnswers :
    let s := { State.reset with cfg := { st := .service, records := [⟨0x0020, 0, false, 4, [9]⟩, ⟨0x0020, 1, false, 4, [8]⟩, ⟨0x0021, 0, false, 4, [0x10001]⟩, ⟨0x0023, 0, false, 4, [5]⟩] },
                                mgt := { i3cAddr := some 8, report := [1#8], domains := 2 ^ 29 } }
    Cfgw.telemetry s ≠ 0 ∧ Cfgw.gpio s 0 = 9 ∧ Cfgw.gpio s 1 = 8 ∧ coresRun s = true ∧ bits (Cfgw.trace s) 1 0 ≠ 0 ∧ bits (Cfgw.trace s) 31 16 ≠ 0 ∧ domOn s 30 = true := by decide

theorem witness_StallsAreGrantedFreedAndPinned :
    let s := { State.reset with stk := { ready := true, total := 2048, stables := [(0, { base := 1024, size := 512, freshLo := 1024, freshHi := 1536, low := 512 })],
                                         stalls := [(1030, { owner := 1, gen := 3, st := .held }), (1031, { owner := 1, gen := 3, st := .releasing, pins := 1 })] } }
    knownReq 4 = true ∧ mayAllocate 4 0 = true ∧ outstandingReq s 1 = false ∧ freeCount (stableAt s 0) = 512 ∧ opFault s ⟨1, 1030, 3⟩ true = none ∧ opFault s ⟨2, 1030, 3⟩ true = some 1
    ∧ opFault s ⟨1, 1030, 4⟩ true = some 2 ∧ opFault s ⟨1, 1032, 3⟩ true = some 3 ∧ opFault s ⟨1, 1023, 3⟩ true = some 4 ∧ (stallAt s 1031).pins = 1
    ∧ (stableAt s 0).cache.length ≤ 16 ∧ mem? s.stk.quarantine 1030 = false := by decide

theorem witness_DataSetsAreEncodedAndLoftsClosed :
    let s := fun (n : Nat) => { State.reset with
      cart := { present := true, st := .ready }
      parts := [(0, { wraps := 4, positions := 1000, loftOpen := true, nextDs := n, loftData := n % 32, closeAsked := true })]
      stk := { stables := [(2, { base := 1024, size := 512, freshLo := 1024, freshHi := 1536, low := 512 })] }
      boxes := { fmt := [⟨0, 1, 0x0001, 0⟩] }
      rch := { weak := [{ slot := 0, serial := [], writePass := 0, part := 0, ds := 3, rung := 1, stream := [], posted := true }] } }
    loaded (s 30) = true ∧ (partAt (s 30) 0).wraps ≠ 0 ∧ (acquire 0x0C 2 90 (s 30)).1.isSome = true ∧ (partAt (s 31) 0).nextDs % 32 = 31 ∧ earlyClose (s 5) 0 = true
    ∧ boxHead (boxOf (s 5) .fmt) = some ⟨0, 1, 0x0001, 0⟩ ∧ sameMail 1 0x0001 0 ⟨0, 1, 0x0001, 0⟩ = true ∧ fmtKnows 9 = false ∧ fmtKnows 5 = true := by decide

theorem witness_WritingIsInhibitedAndResumed :
    let x : Placement := { img := { part := 0, ds := 0, kind := 1, loftIdx := 0, user := [], used := 0, padded := false, firstUnit := 0, firstRec := 0, descCount := 0, descIdx := [], truncOffs := [] }
                           wrap := 0
                           start := 0
                           cls := 1
                           carry := 0
                           chanMap := []
                           threshold := 3 }
    let s := { State.reset with
      wrv := { windowOpen := true, placements := [x] }
      mgt := { domains := 2 ^ 29 - 1 }
      boxes := { wrv := [⟨0, 0x0C, 0x8001, 5⟩] } }
    boxHead s.boxes.wrv = some ⟨0, 0x0C, 0x8001, 5⟩ ∧ sameMail 0x0C 0x8001 5 ⟨0, 0x0C, 0x8001, 5⟩ = true ∧ boxOf s .fmt = [] ∧ wrvKnows 5 = false
    ∧ inProgress s = some x ∧ gateOpen s = true ∧ clockDist (bits 0 39 0) s.srv.clock < clockDist (placementEnd s x) s.srv.clock
    ∧ clockDist (placementEnd s x) s.srv.clock ≤ clockDist (2 ^ 40 - 1) s.srv.clock ∧ ownedBy s 0 < 1536 := by decide

/-- A loaded cartridge with one partition and an image that waits, as a window that opens at its first position finds them. -/
def windowDue : State :=
  let img : Image := { part := 0, ds := 3, kind := 1, loftIdx := 3, user := [], used := 0, padded := false, firstUnit := 0, firstRec := 0, descCount := 0, descIdx := [], truncOffs := [] }
  { State.reset with
    cart := { present := true, st := .ready, zone := [(0, (1, true, false, 0, 100))] }
    parts := [(0, { wraps := 4, positions := 1000, nextPos := 3 })]
    wrv := { images := [img] }
    srv := { valid := true, sched := [(7, ⟨0, false, Kind.windowOpen, 0, 0, 0, 0, false⟩), (8, ⟨5, false, Kind.windowClose, 0, 0, 1, 1, false⟩)] }
    cfg := { records := [⟨0x0009, 0, true, 8, [3, 0]⟩] } }

theorem witness_WindowsOpenAndDataSetsFollow :
    (firesNow windowDue 7).isSome = true ∧ loaded windowDue = true ∧ (nextImage windowDue 0).any (placeable windowDue) = true
    ∧ (positionAt windowDue 0 3).isSome = true ∧ (nthPos 3 (spansOf windowDue 0) 0 0).isSome = true := by decide

theorem witness_SchedulerEntriesFire :
    let m := fun (k o a r : Nat) => { State.reset with
      srv := { valid := true, sched := [(7, ⟨0, false, k, o, r, a, 0, false⟩)] }
      brd := { motion := .running }
      cart := { zone := [(0, (1, true, false, 0, 100))] }
      parts := [(0, { wraps := 4, positions := 1000 })] }
    (∀ k ∈ [Kind.density, Kind.turnaround, Kind.split, Kind.rewriteArea, Kind.readWindow, Kind.settled], (firesNow (m k 0 1 0) 7).isSome = true)
    ∧ firesNow (m Kind.split 0 1 0) 3 = none ∧ (positionAt (m Kind.settled 3 0 1) 0 0).isSome = true ∧ readingTape (m Kind.readWindow 2 1 0) = false
    ∧ (nextStart { m Kind.settled 3 0 2 with srv := { valid := true, clock := 25600000 } }).isSome = true := by decide

theorem witness_RewriteLoads :
    let x : Placement := { img := { part := 0, ds := 0, kind := 1, loftIdx := 0, user := [], used := 0, padded := false, firstUnit := 0, firstRec := 0, descCount := 0, descIdx := [], truncOffs := [] }
                           wrap := 0
                           start := 0
                           cls := 1
                           carry := 0
                           chanMap := []
                           threshold := 3
                           slots := [(390, (0, 5))] }
    let s := { State.reset with
      wrv := { windowOpen := true, slot := 390, placements := [x] }
      srv := { valid := true, sched := [(7, ⟨0, false, Kind.rewriteArea, 1, 0, 390, 0, false⟩)] } }
    inProgress s = some x ∧ ownPlace s 0 0 = some 0 ∧ (firesNow s 7).any (fun e => e.arg == 390) = true := by decide

theorem witness_ServoFramesMoveTheTapeClock :
    let s := { State.reset with
      mgt := { domains := 2 ^ 29 - 1 }
      brd := { ready := true }
      srv := { valid := true, lposLocked := true, clock := 25600000, readers := [(0, { band := some 0, frame := 36 * 100 + 35 })], invalidRun := 1, flywheel := 1000000 } }
    let w := (bitsOf 24 (101 : Nat)) ++ (bitsOf 3 (0 : Nat)) ++ [false]
    let w := w ++ bitsOf 8 (crc8 w)
    domOn s 6 = true ∧ decodes 4000000 = true ∧ lposParse w = some (101, expectedBand s 0) ∧ (readerAt s 0).frame ≠ wordEnd s 101 ∧ (readerAt s 0).frame = wordEnd s 100
    ∧ Cfgw.flywheelFrames s * 256 < s.srv.flywheel ∧ readerEnabled s 0 = true := by decide

theorem witness_LateralRatio : (lateralRatio [0, 1, 2, 3, 10, 11, 12, 13, 50, 51, 52, 60, 61, 62]).isSome = true := by decide

theorem witness_LoopFaultsStopTheTape :
    let s := { State.reset with
      mgt := { domains := 2 ^ 29 - 1 + 2 ^ 29 }
      brd := { ready := true, motion := .repositioning, loops := [(0, { mode := .auto, fe := 100 })], endpoints := [(1, { missing := 3 })], settledCount := 64, repos := some ⟨5, false, 300, 4, 4, 2⟩ } }
    (loopAt s 0).mode = .auto ∧ feTime s 0 ≤ (loopAt s 0).fe ∧ 1 ∈ loopEndpoints 0 ∧ 3 ≤ (epAt s 1).missing ∧ ownedBy s 3 < 512
    ∧ linksSend s = true ∧ domOn s 29 = true ∧ statusValid 3 (slice (zeros 8 ++ (63#8 :: zeros 65)) 8 16) = true := by decide

theorem witness_TheBridleFollowsItsEvents :
    let s := { State.reset with brd := { loops := [(3, { mode := .fault })] } }
    boxOf s .bridle = [] ∧ s.brd.motion = .unthreaded ∧ tapeAtRest s = true ∧ (loopAt s 3).mode = .fault ∧ (loopAt s 2).mode ≠ .fault ∧ ownedBy s 3 < 512
    ∧ bridleKnows 0x000B = false ∧ Takes .bridle 0 0x0001 5 s s :=
  ⟨rfl, rfl, by decide, by decide, by decide, by decide, by decide, .direct rfl⟩

theorem witness_ReadChannelsKeepLock :
    let s := { State.reset with
      mgt := { domains := 2 ^ 29 - 1 }
      rch := { ready := true, links := [(0, { up := true })], chans := [(4, { lock := .locked, missed := 60 })] } }
    let limit := resLimit s
    let r := { s with rch := { s.rch with chans := [(4, { lock := .locked, residual := limit })] } }
    (rxAt s (linkOf 4)).up = true ∧ syncTaken s (chanAt s 4) ⟨.mid, 1, 1, false, 0, []⟩ = true ∧ syncTaken s (chanAt s 4) ⟨.mid, 1000, 1, false, 0, []⟩ = false
    ∧ lockLossRows s ≤ (chanAt s 4).missed ∧ (chanAt r 4).residual.natAbs = resLimit r ∧ (rxAt s 1).up = false ∧ domOn s 7 = true := by decide

theorem witness_DataSetsAreDecodedAndRecovered :
    let r : DecodeRes := { decoder := 1, part := 0, ds := 5, rows := [], others := [] }
    let s := { State.reset with
      hq := { cmds := [{ port := .a, ring := 3, seq := 9, sqHead := 0, e := { opcode := 0x04 }, st := .running }] }
      parts := [(0, { ascending := 2, dir := { relocs := [⟨5, 0, 3, 0⟩], lofts := [⟨0, 0, 1, 0⟩] } })]
      brd := { motion := .running }
      shd := { ready := true }
      rch := { busy := [(1, ())], seek := some (0, 5) } }
    mem? s.rch.busy r.decoder = true ∧ setWanted s 0 5 = true ∧ setWanted s 1 5 = false ∧ needers s 0 5 ≠ [] ∧ otherPlacements s 0 5 = true
    ∧ loftEnable s = true ∧ loftClosed s 0 5 = true ∧ 0 < rereadCount s ∧ yardEnable s = true ∧ needers { s with hq := {} } 0 5 = [] ∧ served s 0 5 = false
    ∧ hasSlots .yard Src.fmt 1 s = true := by decide

/-- A Shed of 16 dies with a spill ring of partition 0 of the loaded cartridge, and one write whose packet is stored. -/
def shedReady : State :=
  let s := oneWrite .stored [1#8, 2#8]
  let w := s.hq.writes.headD default
  { s with
    cart := { present := true, st := .ready }
    hq := { s.hq with writes := [{ w with taken := true, pkts := w.pkts.map fun k => { k with stored := k.data } }] }
    shd := { ready := true, dies := 16, blocksPerPlane := 8, spillQuota := 1, spills := [(2, { assigned := true, part := 0 })],
             pendingRecs := [.release 2 0], journals := [(5, [.shelter 2 0 0 1 9 0 2 0 true])],
             units := [(7, ⟨0, 1, 7, 3, 0x4000009, 0, [], [], []⟩)], rows := [⟨1, 0, 7, 0, [], [7], [7], true⟩] } }

theorem witness_PacketsAreShelteredSpilledAndReleased :
    (copyNext shedReady 0).isSome = true ∧ partRing shedReady 0 = some 2 ∧ spillBlocked shedReady 2 2 = false
    ∧ spillBlocked { shedReady with shd := { shedReady.shd with spillQuota := 0 } } 2 2 = true
    ∧ (shedReady.shd.rows.find? fun r => r.left.contains 7).isSome = true ∧ (findWrite shedReady 9).isSome = true
    ∧ rowFilling { shedReady with shd := { shedReady.shd with rows := [⟨1, 0, 7, 0, [], [7], [7], false⟩] } } 1 0 = some ⟨1, 0, 7, 0, [], [7], [7], false⟩ := by decide

theorem witness_ReturnsAndReleases :
    let w := { (shedReady.hq.writes.headD default) with sheltered := 1, freed := 1, copied := 1 }
    let s := { shedReady with hq := { shedReady.hq with writes := [w] } }
    0 < toReturn s w ∧ returnedBytes s + w.storedSum 0 1 ≤ Cfgw.returnAhead s * 2 ^ 20
    ∧ (returnStalls (ceilDiv (w.storedSum 0 1) 262144) { s with stk := { s.stk with stables := [(6, { base := 1024, span := 2, size := 2, freshLo := 1024, freshHi := 1026 })] } }).1.isSome = true ∧ freeCount (stableAt s 1) < Cfgw.spillLow s
    ∧ released s { w with safe := 1 } = true := by decide

theorem witness_TheShedKeepsItsBlocks :
    let s := { State.reset with
      shd := { ready := true, dies := 16, blocksPerPlane := 8, sinceCkpt := 16384, rows := [⟨1, 0, 7, 0, [], [7], [7], false⟩]
               units := [(7, ⟨0, 1, 7, 3, 0x4000009, 0, [], [], []⟩)], map := [(0x4000009, 7)], blocks := [(0, { st := .victim }), (1, { st := .closed }), (2, { st := .erasing, stream := 1 }), (3, { st := .verified })]
               victims := [(0, 0)], gc := [(1, ())] } }
    freeBlocks s 0 < Cfgw.gcLow s ∧ victimOf s 0 = some 3 ∧ AMap.get? s.shd.victims (dieOfBlock s (blockOfUnit s 7)) = some (blockOfUnit s 7) ∧ copying s 7 = false
    ∧ (s.shd.map.find? fun (_, v) => v == 7) = some (0x4000009, 7) ∧ AMap.wf s.shd.blocks = true
    ∧ Cfgw.gcHigh { s with shd := { s.shd with blocksPerPlane := 4000 } } ≤ freeBlocks { s with shd := { s.shd with blocksPerPlane := 4000 } } 1 := by decide

theorem witness_SpillUnitLost :
    let w := { (shedReady.hq.writes.headD default) with copied := 1, freed := 1, ring := some 2, recs := [⟨2, [], 0, 0⟩], pkts := [{ hostLen := 2, recStarts := 1, firstRec := 0, st := .stored, data := [], stored := [1#8, 2#8] }] }
    recordsIn w (fun j => decide (w.copied > j) && decide (j < w.freed) && ((w.pkts[j]?).map fun k => decide (k.spillOff < 0 + 65536 ∧ 0 < k.spillOff + k.stored.length)).getD false) = some (0, 1) := by decide

theorem witness_DuskAndPowerLossKeepWhatSurvives :
    let s := { State.reset with cfg := { st := .service } }
    let d := { s with cfg := { s.cfg with dusk := some { cause := .pfail }, pfail := true } }
    s.cfg.st ≠ .reset ∧ s.cfg.dusk = none ∧ d.cfg.dusk.isSome = true ∧ d.wrv.windowOpen = false ∧ d.shd.ready = false ∧ duskSheltered d = true := by decide

theorem witness_DawnBringsTheMachineUp :
    let at_ := fun st => { State.reset with cfg := { st := st } }
    (at_ .reset).cfg.pfail = false ∧ (at_ .d2).cfg.bootSlot < 2 ∧ slotRecords (at_ .d2) 0 = none := by decide

theorem witness_FuseCrc (f : Fuses) :
    let good := { State.reset with cfg := { st := .d0, fuses := some { f with crc := crc32 (fuseBytes f) } } }
    let bad := { State.reset with cfg := { st := .d0, fuses := some { f with crc := 2 ^ 32 } } }
    (fusesOf good).crc = crc32 (fuseBytes (fusesOf good)) ∧ (fusesOf bad).crc ≠ crc32 (fuseBytes (fusesOf bad)) :=
  ⟨rfl, Nat.ne_of_gt (BitVec.isLt _)⟩

theorem witness_PortsComeUpAndGoDown :
    let m := fun (x : FabPort) => { State.reset with fab := { ready := true, ports := [(1, x)] }, mgt := { domains := 2 ^ 29 - 1 } }
    domOn (m {}) 24 = true ∧ Cfgw.portEnable (m {}) 1 = true ∧ (portAt (m {}) 1).st = .down ∧ (portAt (m { st := .hello }) 1).owed.length = 4
    ∧ bit (portAt (m { st := .up, lanes := 3 }) 1).lanes 1 = true ∧ setBits 3 1 1 0 ≠ 0 ∧ setBits 2 1 1 0 = 0
    ∧ bit (portAt (m { st := .up, removed := 1 }) 1).removed 0 = true ∧ (portAt (m { st := .up, replay := [[]], replays := 8 }) 1).replay ≠ [] := by decide

theorem witness_HelloFlitIsIntact :
    let s := { State.reset with fab := { ports := [(1, { st := .hello, neighbour := 7 })] } }
    (helloFlit s 1).bytes.length = 256 ∧ (Flit.read (helloFlit s 1).bytes).type = 3 ∧ beAt (Flit.read (helloFlit s 1).bytes).payload 8 2 = 7 := by
  refine ⟨?_, ?_, ?_⟩ <;> rfl

theorem witness_FlitsAreSequencedAndRouted :
    let b := be 1 19 ++ be 1 3 ++ be 3 4096 ++ [0#8, 0#8, 0#8, 1#8] ++ be 2 1 ++ be 2 9 ++ be 1 0 ++ be 2 (31 * 2048) ++ zeros 236
    let f := Flit.read (b ++ zeros 4)
    f.type = 1 ∧ f.first = true ∧ f.last = true ∧ f.seq = 1 ∧ f.hops = 31 ∧ f.dest = 1 ∧ f.payload.length = 3 ∧ flitIntact b = false
    ∧ sequenced f.type = true ∧ (be 1 4 ++ be 1 0).length = 2
    ∧ nextInput { queue := [⟨2, 3, b⟩] } 2 = some 3
    ∧ (acquireOne (0x28 + 1) 5 { State.reset with stk := { ready := true, stables := [(5, { size := 8, freshHi := 8 })] } }).1.isSome = true := by decide

/-- Every flit that this machine forms is intact. -/
theorem witness_FlitIntact (f : Flit) (hc : f.credits.length = 4) : flitIntact f.bytes = true := by
  have hl : f.body.length = 252 := by
    unfold Flit.body
    simp [fit, hc, List.length_flatMap, List.map_const']
    omega
  have h4 := beAt_append f.body [] 4 (crc32 f.body)
  rw [hl, List.append_nil] at h4
  have ht : f.bytes.take 252 = f.body := by unfold Flit.bytes; rw [← hl, List.take_left']; rfl
  have hb : beAt f.bytes 252 4 = crc32 f.body := h4.trans (Nat.mod_eq_of_lt (BitVec.isLt _))
  have hn : f.bytes.length = 256 := by unfold Flit.bytes; simp [hl]
  unfold flitIntact
  rw [ht, hb, hn]
  simp

theorem witness_YardMessagesAreCheckedFirst :
    let s := { State.reset with yrd := { enrolled := true, yardId := 7, epoch := 5 } }
    let m : Nat → Nat → YMsg := fun y e => { type := YT.sealStripe, seg := 0, epoch := e, yard := y, stripe := 3, src := 1, dst := 2, role := 1, slot := 0xFF, payload := [] }
    (m 8 5).yard ≠ s.yrd.yardId ∧ (m 7 4).epoch < s.yrd.epoch ∧ s.yrd.epoch < (m 7 6).epoch ∧ anyEpoch YT.sealStripe = false
    ∧ msgParse [0x91#8] = none ∧ msgKnown 0x1F = false := by decide

theorem witness_YardMessageOfItsCommand (m : YMsg) : MessageCmd m YT.sealStripe (.sealStripe m) := .sealStripe

theorem witness_YardEventIsTaken (s : State) (h : boxOf s .yard = []) : Takes .yard 7 9 0 s s := .direct h

theorem witness_UnitsClaimTheirSlots :
    let d : Desc := { n := 4, k := 2, m := 1, yard := 7, gen := 1, contribTimeout := 1000, memberDead := 5000, members := [],
                      rows := List.replicate 11 [0, 1, 3] ++ [[0, 2, 1]], raw := [] }
    let s := { yardOfFour with yrd := { yardOfFour.yrd with desc := some d } }
    nextStripe s 8192 10 = some (11, 1) ∧ coordinator s 11 = some 1 ∧ openClaims s < 2 ∧ isPresent s 2 = true ∧ boxOf s .yard = [] := by
  refine ⟨rfl, rfl, by decide, rfl, rfl⟩

theorem witness_UnitsAreComplete :
    let i : Image := { kind := 1, part := 1, ds := 5, loftIdx := 0, used := 0, padded := false, firstUnit := 0, firstRec := 0, descCount := 0, descIdx := [], truncOffs := [], user := [1#8], stripe := 11 }
    let s := { yardOfFour with
      wrv := { images := [i] }
      parts := [(1, { yardMember := true })]
      yrd := { yardOfFour.yrd with claims := [{ stripe := 11, slot := 1, part := 1, ds := 5, acked := true }] } }
    (partAt s i.part).yardMember = true ∧ i ∈ s.wrv.images ++ s.wrv.placements.map Placement.img
    ∧ (∀ j ∈ s.wrv.images ++ s.wrv.placements.map Placement.img, j.kind = 1 → j.ds = 5 → (partAt s j.part).yardMember = true → j = i)
    ∧ (s.yrd.claims.find? fun c => c.part == i.part && c.ds == 5 && c.acked && !c.sent).isSome = true
    ∧ (s.yrd.retains.all fun r => !(r.part == i.part && r.ds == 5)) = true := by decide

theorem witness_ClaimAnswersAreHeard :
    let s := { yardOfFour with
      yrd := { yardOfFour.yrd with
        claims := [{ stripe := 11, slot := 1, part := 1, ds := 5 }]
        journal := [(3, { stripe := 3, epoch := 5, k := 2, m := 1, gen := 1 })]
        unstriped := [(1, 5)]
        retains := [{ part := 1, ds := 5, stripe := 0, user := [] }] } }
    let m : Nat → Bytes → YMsg := fun t b => { type := t, seg := 0, epoch := 5, yard := 7, stripe := 11, src := 1, dst := 2, role := 0, slot := 1, payload := b }
    Heard YT.claimAck (m YT.claimAck [0#8]) s ∧ Heard YT.nullReq (m YT.nullReq []) s ∧ beAt [1#8] 0 1 ≠ 0
    ∧ (s.yrd.claims.find? fun c => c.stripe == 11 && c.slot == 1 && !c.acked).isSome = true ∧ reworking s 11 = false
    ∧ (AMap.get? s.yrd.journal 3).any (fun e => e.st == .opened) = true ∧ hasSlots .fmt Src.yard 1 s = true := by
  exact ⟨⟨rfl, rfl, rfl, .inl rfl⟩, ⟨rfl, rfl, rfl, .inl rfl⟩, by decide, by decide, by decide, by decide, by decide⟩

theorem witness_TheCoordinatorIsTheFirstPresentOnTheWalk :
    ∃ d, descFor yardOfFour 2 = some d ∧ reworking yardOfFour 2 = false ∧ 0 < d.m ∧ ((d.rows.getD (2 % 4096) []).take (d.k + d.m)).length = d.k + d.m
      ∧ ((d.rows.getD (2 % 4096) []).take (d.k + d.m)).Nodup ∧ coordinator yardOfFour 2 = some 0 ∧ replicasOf yardOfFour 2 = [2, 1] :=
  ⟨_, rfl, rfl, by decide, by decide, by decide, by decide, by decide⟩

theorem witness_CoordinatorsKeepTheJournal :
    let s := journalOf stripeOne
    Heard YT.claim (about YT.claim 0 0 0) s ∧ coordinator s 1 = some s.yrd.member ∧ slotMember s 1 0 = 0 ∧ others s 1 = [0, 1] ∧ coordinated s < 2048
    ∧ takesSlots stripeOne = true ∧ AMap.getD stripeOne.slots 0 0 = 0 ∧ AMap.getD stripeOne.holders 1 0xFF = 3
    ∧ allDone { stripeOne with slots := [(0, 1), (1, 2)], done := [(0, ())] } = true ∧ AMap.get? yardOfFour.yrd.journal 1 = none := by
  exact ⟨⟨rfl, rfl, rfl, .inl rfl⟩, by decide, by decide, by decide, by decide, by decide, by decide, by decide, by decide, by decide⟩

theorem witness_EntriesEnd :
    let e := { stripeOne with st := .safe, slots := [(0, 1), (1, 2)], awaiting := [(0, ()), (1, ())] }
    let s := journalOf e
    safeMembers s e = [(0, 0), (1, 1)] ∧ mem? (AMap.set [(0, ())] 1 ()) 1 = true ∧ mem? e.awaiting 1 = true ∧ AMap.erase e.awaiting 1 ≠ [] ∧ s.yrd.reshapeActive = false
    ∧ e.st = .safe ∧ (∀ r, r < e.m → mem? (AMap.set e.laid 1 ()) (r + 1) = true) := by decide

theorem witness_JournalIsHeard (p : Bytes) : Heard YT.journal { about YT.journal 1 0 0xFF with payload := p } (journalOf stripeOne) :=
  ⟨rfl, rfl, rfl, .inl rfl⟩

theorem witness_ParityIsAccumulatedAndLaid :
    let a : Accum := { stripe := 1, role := 1, bytes := [], part := 2, ds := some 9, isSealed := true }
    let s := { yardOfFour with yrd := { yardOfFour.yrd with member := 3, parityPart := 2, accums := [a, { a with role := 2, ds := none, isSealed := false }] } }
    Heard YT.contrib (about YT.contrib 0 2 0) s ∧ Heard YT.sealStripe (about YT.sealStripe 0 2 0) s ∧ (accumOf s 1 2).isSome = true
    ∧ (s.yrd.accums.find? fun a => a.part == 2 && a.ds == some 9) = some a ∧ coordinator s 1 = some 3 ∧ stripeK s 1 = 2 ∧ a ∈ s.yrd.accums
    ∧ (s.yrd.accums.all fun x => x.stripe != 2) = true ∧ slotDone { a with seen := (List.range 300).map fun i => (i, ()) } 0 = true := by
  refine ⟨⟨rfl, rfl, rfl, .inl rfl⟩, ⟨rfl, rfl, rfl, .inl rfl⟩, by decide, by decide, by decide, by decide, by decide, by decide, rfl⟩

theorem witness_CopiesMoveAndStripesBecomeSafe :
    let r : Retain := { part := 1, ds := 5, stripe := 2, user := [], stalls := [9] }
    let s := { yardOfFour with
      cfg := { records := [⟨0x000C, 0, true, 8, [150, 0, 0]⟩] }
      yrd := { yardOfFour.yrd with retains := [r], units := [⟨2, 0, 1, 5⟩] } }
    Heard YT.stripeSafe { about YT.stripeSafe 0 0 0 with stripe := 2 } s ∧ dataSlot s 2 2 = some 0 ∧ (s.yrd.retains.find? fun r => r.slot.isNone) = some r := by
  exact ⟨⟨rfl, rfl, rfl, .inl rfl⟩, by decide, by decide⟩

theorem witness_SegmentsOfAUnit : (zeros userArea).length = userArea ∧ (zeros 65536).length = 65536 ∧ (zeros 13312).length = 13312 :=
  ⟨List.length_replicate, List.length_replicate, List.length_replicate⟩

theorem witness_LostUnitsAreReconstructed :
    let r : Recon := { stripe := 1, place := 0, part := 1, ds := 5, use := .read, survivors := [(1, 1, 7)], seen := (List.range 299).map fun i => (300 + i, ()) }
    let s := { yardOfFour with
      parts := [(1, { safeDs := [(5, ())] })]
      yrd := { yardOfFour.yrd with recons := [r], units := [⟨2, 0, 1, 5⟩], replacing := true, rebuildTodo := [(2, 0), (1, 1)] } }
    let m := { about YT.rebuildPart 1 0 1 with dst := 2, seg := 299 }
    Heard YT.rebuildPart m s ∧ Heard YT.rebuildFail { m with type := YT.rebuildFail } s ∧ Heard YT.rebuildReq { m with type := YT.rebuildReq } s
    ∧ (s.yrd.recons.find? fun r => r.stripe == m.stripe) = some r ∧ (r.survivors.any fun x => x.1 == msgPlace s m) = true
    ∧ mem? (partAt s 1).safeDs 5 = true ∧ bits 2 5 0 = s.yrd.member ∧ nextExposed s = some (1, 1) ∧ serveUnit s 1 1 = .fail
    ∧ survivorsFor s 1 0 [0, 1, 2] = none ∧ (survivorsFor s 2 0 []).isSome = true := by
  refine ⟨⟨rfl, rfl, rfl, .inl rfl⟩, ⟨rfl, rfl, rfl, .inl rfl⟩, ⟨rfl, rfl, rfl, .inl rfl⟩, by decide, by decide, by decide, by decide, by decide, by decide, by decide, by decide⟩

theorem witness_LastSegment :
    let seen : AMap Unit := (List.range 299).map fun i => (300 + i, ())
    mem? seen 599 = false ∧ (AMap.set seen 599 ()).length = 300 := by
  refine ⟨rfl, rfl⟩

theorem witness_EpochsAreProposedAndAdopted :
    let r : EpochRec := ⟨6, 12, 1, 0, [(0, (0, 1)), (1, (1, 2)), (2, (0, 3)), (3, (0, 4))]⟩
    let c : Change := { wants := [{ member := 1, state := 1, host := 2, cmd := some 9 }], proposed := some r, adopts := [(0, ()), (2, ())] }
    let d : Desc := { n := 4, k := 2, m := 1, yard := 7, gen := 1, contribTimeout := 1000, memberDead := 5000, members := [(zeros 20, 0, [1])], rows := [[0, 1, 3], [0, 1, 3]], raw := [] }
    let s := { yardOfFour with
      yrd := { yardOfFour.yrd with
        member := 0
        desc := some d
        reachable := [(3, ()), (4, ())]
        change := some c
        wants := c.wants
        claims := [{ stripe := 1, slot := 0, part := 1, ds := 5, acked := true, sent := true }]
        retains := [{ part := 1, ds := 5, stripe := 1, user := [] }]
        journal := [(1, stripeOne)] } }
    let m := fun t => { about t 3 1 0 with dst := 0 }
    (∀ t ∈ [YT.join, YT.stateQuery, YT.stateReply, YT.epochPropose, YT.adopt, YT.epochReq, YT.nack], Heard t (m t) s)
    ∧ isLeader s = true ∧ isPresent s 1 = true ∧ memberReachable s 1 = false ∧ 2 ≤ (s.yrd.map.filter fun x => x.2.1 < 2).length
    ∧ (s.yrd.map.filter fun x => x.2.1 < 2).length < 2 * (AMap.set c.adopts 3 ()).length ∧ s.yrd.epoch < r.epoch
    ∧ (d.members[0]?).any (fun x => x.1 == slice (zeros 24) 0 20) = true ∧ dataSlot s 1 0 = some 0 ∧ takesSlots stripeOne = true
    ∧ (recParse 3 [0#8, 0#8, 0#8, 6#8]).epoch = s.yrd.epoch + 1 ∧ beAt [YT.contrib, 0, 0, 0, 5] 0 1 = YT.contrib ∧ 1 ∈ rolesOf s false 1
    ∧ (s.yrd.claims.find? fun c => c.stripe == 1).isSome = true ∧ coordinator s 1 = some 3 := by
  refine ⟨?_, by decide, by decide, by decide, by decide, by decide, by decide, by decide, by decide, by decide, by decide, by decide, by decide, by decide, by decide⟩
  intro t h
  simp only [List.mem_cons, List.not_mem_nil, or_false] at h
  rcases h with rfl | rfl | rfl | rfl | rfl | rfl | rfl <;> exact ⟨rfl, rfl, rfl, .inl rfl⟩

theorem witness_NewEpochsTakeEffect :
    let e := { stripeOne with slots := [(0, 1), (1, 1)], holders := [(1, 3)] }
    let s := { yardOfFour with
      yrd := { yardOfFour.yrd with
        member := 3
        map := [(0, (1, 0)), (1, (2, 0)), (2, (0, 3)), (3, (0, 4))]
        journal := [(1, e)]
        wants := [{ member := 1, state := 2, host := 0, cmd := some 9 }]
        heldMsgs := [{ about YT.claim 0 0 0 with epoch := 6 }] } }
    let w := { s with hq := { cmds := [{ port := .a, ring := 32, seq := 9, sqHead := 0, e := { opcode := 0xB1 } }] } }
    Heard YT.epochCommit (about YT.epochCommit 0 0 0) s ∧ (findCmd w 9).isSome = true ∧ standIn s 1 3 = some 2
    ∧ AMap.getD e.holders 1 0xFF = roleHolder s e.rework 1 1 ∧ memberState s (slotMember s 1 0) = 1 ∧ unfinished e 0 = true ∧ memberState s (slotMember s 1 1) = 2
    ∧ unfinished e 1 = true ∧ (recParse 0 [0#8, 0#8, 0#8, 6#8]).epoch = 6 ∧ s.yrd.epoch < 6 := by
  exact ⟨⟨rfl, rfl, rfl, .inl rfl⟩, by decide, by decide, by decide, by decide, by decide, by decide, by decide, by decide, by decide⟩

theorem witness_DescriptorsLedgersAndReshapes :
    let s := { yardOfFour with yrd := { yardOfFour.yrd with
      member := 3
      reshapeActive := true
      reshapeBound := 10
      units := [⟨0, 0, 1, 5⟩]
      reachable := [(1, ()), (2, ()), (3, ())]
      retains := [{ part := 1, ds := 5, stripe := 0, user := [] }] } }
    let w := { s with yrd := { s.yrd with member := 0, reachable := [(2, ()), (3, ()), (4, ())], reshapeR := 64 } }
    Heard YT.descReq { about YT.descReq 0 0 0 with dst := 3 } s ∧ Heard YT.descPart (about YT.descPart 0 0 0) s ∧ Heard YT.ledger (about YT.ledger 0 0 0) s
    ∧ leaderOf s = some 0 ∧ dataSlot { s with yrd := { s.yrd with member := 0 } } 0 0 = some 0 ∧ (unitAtHand s 1 5).isSome = true ∧ isLeader w = true
    ∧ w.yrd.reshapePos + 64 ≤ w.yrd.reshapeR ∧ (s.yrd.desc.any fun d => d.gen == 1) = true ∧ s.yrd.reshapePos < s.yrd.reshapeBound := by
  exact ⟨⟨rfl, rfl, rfl, .inl rfl⟩, ⟨rfl, rfl, rfl, .inl rfl⟩, ⟨rfl, rfl, rfl, .inl rfl⟩, by decide, by decide, by decide, by decide, by decide, by decide, by decide⟩

theorem witness_YardCommandsActThroughEpochs :
    let cmd := fun (op len par : Nat) (st : CmdSt) => ({ port := .a, ring := 32, seq := 9, sqHead := 0, st := st, e := { opcode := op, length := len, listCount := 1, param := par } } : Cmd)
    let s := fun c => { yardOfFour with
      hq := { cmds := [c], acceptSeq := 10 }
      cart := { present := true, st := .ready }
      yrd := { yardOfFour.yrd with reachable := [(1, ()), (2, ())], map := [(0, (0, 1)), (1, (0, 2)), (2, (0, 3)), (3, (2, 0))] } }
    due (s (cmd 0xB0 133376 2 .fetched)) 9 0xB0 = some (cmd 0xB0 133376 2 .fetched) ∧ sglOk (cmd 0xB0 133376 2 .fetched).e (le 8 0 ++ le 4 133376 ++ zeros 4) 133376 = true
    ∧ (due (s (cmd 0xB1 0 1 .fetched)) 9 0xB1).isSome = true ∧ hasQuorum (s (cmd 0xB1 0 1 .fetched)) = true ∧ memberState (s (cmd 0xB1 0 1 .fetched)) 1 < 2
    ∧ (due (s (cmd 0xB2 0 3 .fetched)) 9 0xB2).isSome = true ∧ reachesHalf (s (cmd 0xB2 0 3 .fetched)) = true ∧ memberState (s (cmd 0xB2 0 3 .fetched)) 3 = 2
    ∧ (runningCmd (s (cmd 0xB2 0 3 .running)) 9 0xB2).isSome = true ∧ due (s (cmd 0xB2 0 3 .running)) 9 0xB2 = none
    ∧ (due (s (cmd 0xB3 133376 0 .fetched)) 9 0xB3).isSome = true ∧ (due (s (cmd 0xB4 512 0 .fetched)) 9 0xB4).isSome = true
    ∧ sglOk (cmd 0xB4 512 0 .fetched).e (le 8 0 ++ le 4 512 ++ zeros 4) 512 = true ∧ (Desc.parse [0#8]).accepted = false := by
  refine ⟨by decide, by decide, by decide, by decide, by decide, by decide, by decide, by decide, by decide, by decide, by decide, by decide, by decide, ?_⟩
  unfold Desc.accepted
  rfl

theorem witness_YardEncodingsKeepTheirFields :
    let e := { stripeOne with slots := [(0, 1), (1, 2)], done := [(0, ())], laid := [(1, ())], acks := [(1, ())] }
    let r : EpochRec := ⟨6, 12, 1, 0, yardOfFour.yrd.map⟩
    AMap.wf r.map = true ∧ (∀ x ∈ r.map, x.1 < 64 ∧ x.2.1 < 3 ∧ x.2.2 < 2 ^ 16) ∧ e.holders = ((List.range e.m).map fun r => (r + 1, AMap.getD e.holders (r + 1) 0))
    ∧ AMap.wf e.slots = true ∧ (∀ x ∈ e.slots, x.1 < 32 ∧ x.2 < 4) ∧ AMap.wf e.done = true ∧ AMap.wf e.laid = true ∧ AMap.wf e.acks = true
    ∧ (about 0x10 0 0 0).yard < 2 ^ 64 ∧ (zeros 20).length = 20 := by decide

end Sys2Proof.Tests
end

/-! The frame of every command, and the invariant that every step keeps. -/

section

namespace Sys2Proof.Machine

/-! ## What a step does -/

theorem step_of_pending_nil {s : State} (h : s.pending = []) : step s = .next s := by
  unfold step
  rw [h]

theorem step_of_pending_cons {s : State} {c : Instr} {cs : List Instr} (h : s.pending = c :: cs) :
    step s = exec c { s with pending := cs } := by
  unfold step
  rw [h]

/-- The queue of waiting commands is no part of the invariant. -/
theorem Inv.set_pending {s : State} (i : Inv s) (cs : List Instr) : Inv { s with pending := cs } :=
  ((Frame.refl (maskOf [.pending]) s).set_pending cs rfl).keep i

/-! ## The frame of every command -/

/-- Every command answers a next state that keeps the invariant and leaves every part of the state alone but those that
`mayChange` lists for it. -/
theorem exec_frame (c : Instr) (s : State) : FrameOut (maskOf (mayChange c)) s (exec c s) := by
  cases c <;> dsimp only [mayChange, exec]
  case sqTailDoorbell => exact (execSqTailDoorbell_frame ..).mono rfl
  case cqHeadDoorbell => exact (execCqHeadDoorbell_frame ..).mono rfl
  case ringEnable => exact (execRingEnable_frame ..).mono rfl
  case ringDisable => exact (execRingDisable_frame ..).mono rfl
  case queueReset => exact (execQueueReset_frame ..).mono rfl
  case queueResetDone => exact (execQueueResetDone_frame ..).mono rfl
  case fetchTurn => exact (execFetchTurn_frame ..).mono rfl
  case completionWrite => exact (execCompletionWrite_frame ..).mono rfl
  case coalesceTimeExpiry => exact (execCoalesceTimeExpiry_frame ..).mono rfl
  case flrPf0 => exact (execFlrPf0_frame ..).mono rfl
  case flrPf1 => exact (execFlrPf1_frame ..).mono rfl
  case linkDown => exact (execLinkDown_frame ..).mono rfl
  case perstAssert => exact (execPerstAssert_frame ..).mono rfl
  case perstDeassert => exact (execPerstDeassert_frame ..).mono rfl
  case pcieConfigRequest => exact (execPcieConfigRequest_frame ..).mono rfl
  case hostDmaComplete => exact (execHostDmaComplete_frame ..).mono rfl
  case gateLockGrant => exact (execGateLockGrant_frame ..).mono rfl
  case copiesSettled => exact (execCopiesSettled_frame ..).mono rfl
  case writeRecords => exact (execWriteRecords_frame ..).mono rfl
  case readRecords => exact (execReadRecords_frame ..).mono rfl
  case sync => exact (execSync_frame ..).mono rfl
  case syncLevelReached => exact (execSyncLevelReached_frame ..).mono rfl
  case locate => exact (execLocate_frame ..).mono rfl
  case writeMark => exact (execWriteMark_frame ..).mono rfl
  case readPosition => exact (execReadPosition_frame ..).mono rfl
  case load => exact (execLoad_frame ..).mono rfl
  case unload => exact (execUnload_frame ..).mono rfl
  case unloadProceed => exact (execUnloadProceed_frame ..).mono rfl
  case formatPartitions => exact (execFormatPartitions_frame ..).mono rfl
  case abort => exact (execAbort_frame ..).mono rfl
  case writeLanding => exact (execWriteLanding_frame ..).mono rfl
  case readLanding => exact (execReadLanding_frame ..).mono rfl
  case discardLanding => exact (execDiscardLanding_frame ..).mono rfl
  case layLanding => exact (execLayLanding_frame ..).mono rfl
  case getLog => exact (execGetLog_frame ..).mono rfl
  case setFeature => exact (execSetFeature_frame ..).mono rfl
  case getFeature => exact (execGetFeature_frame ..).mono rfl
  case keyInject => exact (execKeyInject_frame ..).mono rfl
  case keyErase => exact (execKeyErase_frame ..).mono rfl
  case keyEraseNorDone => exact (execKeyEraseNorDone_frame ..).mono rfl
  case retiringGenerationEnd => exact (execRetiringGenerationEnd_frame ..).mono rfl
  case keyQuery => exact (execKeyQuery_frame ..).mono rfl
  case getTransportKey => exact (execGetTransportKey_frame ..).mono rfl
  case cfgStage => exact (execCfgStage_frame ..).mono rfl
  case cfgCheck => exact (execCfgCheck_frame ..).mono rfl
  case cfgCommit => exact (execCfgCommit_frame ..).mono rfl
  case cfgDiscard => exact (execCfgDiscard_frame ..).mono rfl
  case imageWrite => exact (execImageWrite_frame ..).mono rfl
  case imageQuery => exact (execImageQuery_frame ..).mono rfl
  case fuseAdvance => exact (execFuseAdvance_frame ..).mono rfl
  case fuseRevoke => exact (execFuseRevoke_frame ..).mono rfl
  case fwActivate => exact (execFwActivate_frame ..).mono rfl
  case activationNightReady => exact (execActivationNightReady_frame ..).mono rfl
  case activationHoldExpiry => exact (execActivationHoldExpiry_frame ..).mono rfl
  case attest => exact (execAttest_frame ..).mono rfl
  case getIdentity => exact (execGetIdentity_frame ..).mono rfl
  case identitySetCert => exact (execIdentitySetCert_frame ..).mono rfl
  case shedDropPending => exact (execShedDropPending_frame ..).mono rfl
  case channelRetire => exact (execChannelRetire_frame ..).mono rfl
  case yardEnrol => exact (execYardEnrol_frame ..).mono rfl
  case yardDeclareLost => exact (execYardDeclareLost_frame ..).mono rfl
  case yardReplace => exact (execYardReplace_frame ..).mono rfl
  case yardReshape => exact (execYardReshape_frame ..).mono rfl
  case yardQuery => exact (execYardQuery_frame ..).mono rfl
  case violation => exact (execViolation_frame ..).mono rfl
  case registerWrite => exact (execRegisterWrite_frame ..).mono rfl
  case engineFaultClear => exact (execEngineFaultClear_frame ..).mono rfl
  case stkProbeSel => exact (execStkProbeSel_frame ..).mono rfl
  case cipSlotSel => exact (execCipSlotSel_frame ..).mono rfl
  case srvSchedSel => exact (execSrvSchedSel_frame ..).mono rfl
  case fabRouteSel => exact (execFabRouteSel_frame ..).mono rfl
  case yrdMemberSel => exact (execYrdMemberSel_frame ..).mono rfl
  case mgtMonSel => exact (execMgtMonSel_frame ..).mono rfl
  case tapeClockReadLatch => exact (execTapeClockReadLatch_frame ..).mono rfl
  case stallRequest => exact (execStallRequest_frame ..).mono rfl
  case stallFree => exact (execStallFree_frame ..).mono rfl
  case stallChainFree => exact (execStallChainFree_frame ..).mono rfl
  case stallTransfer => exact (execStallTransfer_frame ..).mono rfl
  case stallLink => exact (execStallLink_frame ..).mono rfl
  case stallPin => exact (execStallPin_frame ..).mono rfl
  case stallUnpin => exact (execStallUnpin_frame ..).mono rfl
  case stallWaitGrant => exact (execStallWaitGrant_frame ..).mono rfl
  case freeCacheRefill => exact (execFreeCacheRefill_frame ..).mono rfl
  case freeCacheWriteback => exact (execFreeCacheWriteback_frame ..).mono rfl
  case engineDispatch => exact (execEngineDispatch_frame ..).mono rfl
  case compressionDone => exact (execCompressionDone_frame ..).mono rfl
  case engineLeaveService => exact (execEngineLeaveService_frame ..).mono rfl
  case readDlzDispatch => exact (execReadDlzDispatch_frame ..).mono rfl
  case decompressionDone => exact (execDecompressionDone_frame ..).mono rfl
  case cipherTakePacket => exact (execCipherTakePacket_frame ..).mono rfl
  case readDecrypt => exact (execReadDecrypt_frame ..).mono rfl
  case dataSetEncoded => exact (execDataSetEncoded_frame ..).mono rfl
  case dataSetBoundary => exact (execDataSetBoundary_frame ..).mono rfl
  case loftEarlyClose => exact (execLoftEarlyClose_frame ..).mono rfl
  case verifyVerdict => exact (execVerifyVerdict_frame ..).mono rfl
  case writeStopped => exact (execWriteStopped_frame ..).mono rfl
  case backlogRestart => exact (execBacklogRestart_frame ..).mono rfl
  case commit => exact (execCommit_frame ..).mono rfl
  case density => exact (execDensity_frame ..).mono rfl
  case windowClose => exact (execWindowClose_frame ..).mono rfl
  case turnaround => exact (execTurnaround_frame ..).mono rfl
  case windowOpen => exact (execWindowOpen_frame ..).mono rfl
  case split => exact (execSplit_frame ..).mono rfl
  case rewriteArea => exact (execRewriteArea_frame ..).mono rfl
  case readWindow => exact (execReadWindow_frame ..).mono rfl
  case settled => exact (execSettled_frame ..).mono rfl
  case servoFrame => exact (execServoFrame_frame ..).mono rfl
  case lposWordAccepted => exact (execLposWordAccepted_frame ..).mono rfl
  case clockFlywheelExpiry => exact (execClockFlywheelExpiry_frame ..).mono rfl
  case pesResume => exact (execPesResume_frame ..).mono rfl
  case standstillTick => exact (execStandstillTick_frame ..).mono rfl
  case tensionTick => exact (execTensionTick_frame ..).mono rfl
  case threadTick => exact (execThreadTick_frame ..).mono rfl
  case followingErrorExpiry => exact (execFollowingErrorExpiry_frame ..).mono rfl
  case speedSettled => exact (execSpeedSettled_frame ..).mono rfl
  case threadComplete => exact (execThreadComplete_frame ..).mono rfl
  case actFrameSend => exact (execActFrameSend_frame ..).mono rfl
  case actStatusReceive => exact (execActStatusReceive_frame ..).mono rfl
  case endpointFault => exact (execEndpointFault_frame ..).mono rfl
  case speedTarget => exact (execSpeedTarget_frame ..).mono rfl
  case stopAndPark => exact (execStopAndPark_frame ..).mono rfl
  case reposition => exact (execReposition_frame ..).mono rfl
  case lateralOffset => exact (execLateralOffset_frame ..).mono rfl
  case wrapSelect => exact (execWrapSelect_frame ..).mono rfl
  case thread => exact (execThread_frame ..).mono rfl
  case unthread => exact (execUnthread_frame ..).mono rfl
  case speedCeiling => exact (execSpeedCeiling_frame ..).mono rfl
  case loopMode => exact (execLoopMode_frame ..).mono rfl
  case clearFaults => exact (execClearFaults_frame ..).mono rfl
  case orderlyStop => exact (execOrderlyStop_frame ..).mono rfl
  case bridleUnknownEvent => exact (execBridleUnknownEvent_frame ..).mono rfl
  case pesInhibit => exact (execPesInhibit_frame ..).mono rfl
  case shockInhibit => exact (execShockInhibit_frame ..).mono rfl
  case loopFaultInhibit => exact (execLoopFaultInhibit_frame ..).mono rfl
  case managementInhibit => exact (execManagementInhibit_frame ..).mono rfl
  case pesCauseCleared => exact (execPesCauseCleared_frame ..).mono rfl
  case shockCauseCleared => exact (execShockCauseCleared_frame ..).mono rfl
  case loopCauseCleared => exact (execLoopCauseCleared_frame ..).mono rfl
  case managementCauseCleared => exact (execManagementCauseCleared_frame ..).mono rfl
  case wrvUnknownEvent => exact (execWrvUnknownEvent_frame ..).mono rfl
  case earlyCloseRequest => exact (execEarlyCloseRequest_frame ..).mono rfl
  case shedReturnReady => exact (execShedReturnReady_frame ..).mono rfl
  case reallocateWeak => exact (execReallocateWeak_frame ..).mono rfl
  case rebuiltDsReady => exact (execRebuiltDsReady_frame ..).mono rfl
  case yardParityReady => exact (execYardParityReady_frame ..).mono rfl
  case controlledStopBegun => exact (execControlledStopBegun_frame ..).mono rfl
  case fmtUnknownEvent => exact (execFmtUnknownEvent_frame ..).mono rfl
  case unitAssemblyBegun => exact (execUnitAssemblyBegun_frame ..).mono rfl
  case unitComplete => exact (execUnitComplete_frame ..).mono rfl
  case yardParityLaid => exact (execYardParityLaid_frame ..).mono rfl
  case reconstructForRead => exact (execReconstructForRead_frame ..).mono rfl
  case rebuildStart => exact (execRebuildStart_frame ..).mono rfl
  case reshapeStart => exact (execReshapeStart_frame ..).mono rfl
  case reachabilityChanged => exact (execReachabilityChanged_frame ..).mono rfl
  case yardUnknownEvent => exact (execYardUnknownEvent_frame ..).mono rfl
  case mgtEventConsume => exact (execMgtEventConsume_frame ..).mono rfl
  case channelRetireAuto => exact (execChannelRetireAuto_frame ..).mono rfl
  case syncFound => exact (execSyncFound_frame ..).mono rfl
  case lockLoss => exact (execLockLoss_frame ..).mono rfl
  case residualLimit => exact (execResidualLimit_frame ..).mono rfl
  case separatorDetected => exact (execSeparatorDetected_frame ..).mono rfl
  case dataSetDecoded => exact (execDataSetDecoded_frame ..).mono rfl
  case ladderPassResult => exact (execLadderPassResult_frame ..).mono rfl
  case yardWaitExpiry => exact (execYardWaitExpiry_frame ..).mono rfl
  case yardReconstructReturn => exact (execYardReconstructReturn_frame ..).mono rfl
  case readAheadStart => exact (execReadAheadStart_frame ..).mono rfl
  case rxLaneFail => exact (execRxLaneFail_frame ..).mono rfl
  case jesdLinkRestart => exact (execJesdLinkRestart_frame ..).mono rfl
  case shedPacketCopy => exact (execShedPacketCopy_frame ..).mono rfl
  case unitProgramDone => exact (execUnitProgramDone_frame ..).mono rfl
  case rowHoldExpiry => exact (execRowHoldExpiry_frame ..).mono rfl
  case journalRecordsPending => exact (execJournalRecordsPending_frame ..).mono rfl
  case journalFlushExpiry => exact (execJournalFlushExpiry_frame ..).mono rfl
  case journalUnitDurable => exact (execJournalUnitDurable_frame ..).mono rfl
  case spillLow => exact (execSpillLow_frame ..).mono rfl
  case shedReturnRead => exact (execShedReturnRead_frame ..).mono rfl
  case spillRelease => exact (execSpillRelease_frame ..).mono rfl
  case checkpointBytes => exact (execCheckpointBytes_frame ..).mono rfl
  case checkpointInterval => exact (execCheckpointInterval_frame ..).mono rfl
  case checkpointDurable => exact (execCheckpointDurable_frame ..).mono rfl
  case gcStart => exact (execGcStart_frame ..).mono rfl
  case gcStop => exact (execGcStop_frame ..).mono rfl
  case readVerifyResult => exact (execReadVerifyResult_frame ..).mono rfl
  case nandProgramFailure => exact (execNandProgramFailure_frame ..).mono rfl
  case nandEraseFailure => exact (execNandEraseFailure_frame ..).mono rfl
  case shedUnitLost => exact (execShedUnitLost_frame ..).mono rfl
  case shockAssert => exact (execShockAssert_frame ..).mono rfl
  case shockRelease => exact (execShockRelease_frame ..).mono rfl
  case cartPresentChange => exact (execCartPresentChange_frame ..).mono rfl
  case clockInputLost => exact (execClockInputLost_frame ..).mono rfl
  case duskBegin => exact (execDuskBegin_frame ..).mono rfl
  case duskDomainsOff => exact (execDuskDomainsOff_frame ..).mono rfl
  case duskComplete => exact (execDuskComplete_frame ..).mono rfl
  case pfailDeassert => exact (execPfailDeassert_frame ..).mono rfl
  case coldStart => exact (execColdStart_frame ..).mono rfl
  case dawnD0Done => exact (execDawnD0Done_frame ..).mono rfl
  case dawnD1Done => exact (execDawnD1Done_frame ..).mono rfl
  case dawnD2Done => exact (execDawnD2Done_frame ..).mono rfl
  case dawnD3Done => exact (execDawnD3Done_frame ..).mono rfl
  case dawnD4Done => exact (execDawnD4Done_frame ..).mono rfl
  case dawnD5 => exact (execDawnD5_frame ..).mono rfl
  case sfSignalDetect => exact (execSfSignalDetect_frame ..).mono rfl
  case sfLaneTrained => exact (execSfLaneTrained_frame ..).mono rfl
  case sfTrainingTimeout => exact (execSfTrainingTimeout_frame ..).mono rfl
  case helloSendTimer => exact (execHelloSendTimer_frame ..).mono rfl
  case flitHello => exact (execFlitHello_frame ..).mono rfl
  case helloLossTimeout => exact (execHelloLossTimeout_frame ..).mono rfl
  case sfLaneLoss => exact (execSfLaneLoss_frame ..).mono rfl
  case flitData => exact (execFlitData_frame ..).mono rfl
  case flitNak => exact (execFlitNak_frame ..).mono rfl
  case flitNull => exact (execFlitNull_frame ..).mono rfl
  case flitLsa => exact (execFlitLsa_frame ..).mono rfl
  case replayTimeout => exact (execReplayTimeout_frame ..).mono rfl
  case replayLimit => exact (execReplayLimit_frame ..).mono rfl
  case fecUncorrLimit => exact (execFecUncorrLimit_frame ..).mono rfl
  case laneRejoin => exact (execLaneRejoin_frame ..).mono rfl
  case laneRetrainRetry => exact (execLaneRetrainRetry_frame ..).mono rfl
  case lsaRefreshTimer => exact (execLsaRefreshTimer_frame ..).mono rfl
  case lsaAgeOut => exact (execLsaAgeOut_frame ..).mono rfl
  case routeInstall => exact (execRouteInstall_frame ..).mono rfl
  case transitWaitExpiry => exact (execTransitWaitExpiry_frame ..).mono rfl
  case claim => exact (execClaim_frame ..).mono rfl
  case claimAck => exact (execClaimAck_frame ..).mono rfl
  case withdraw => exact (execWithdraw_frame ..).mono rfl
  case contrib => exact (execContrib_frame ..).mono rfl
  case contribDone => exact (execContribDone_frame ..).mono rfl
  case nullReq => exact (execNullReq_frame ..).mono rfl
  case nullOk => exact (execNullOk_frame ..).mono rfl
  case claimed => exact (execClaimed_frame ..).mono rfl
  case sealStripe => exact (execSealStripe_frame ..).mono rfl
  case parityLaid => exact (execParityLaid_frame ..).mono rfl
  case stripeSafe => exact (execStripeSafe_frame ..).mono rfl
  case safeAck => exact (execSafeAck_frame ..).mono rfl
  case journal => exact (execJournal_frame ..).mono rfl
  case journalAck => exact (execJournalAck_frame ..).mono rfl
  case nack => exact (execNack_frame ..).mono rfl
  case stateQuery => exact (execStateQuery_frame ..).mono rfl
  case stateReply => exact (execStateReply_frame ..).mono rfl
  case epochPropose => exact (execEpochPropose_frame ..).mono rfl
  case adopt => exact (execAdopt_frame ..).mono rfl
  case epochCommit => exact (execEpochCommit_frame ..).mono rfl
  case epochReq => exact (execEpochReq_frame ..).mono rfl
  case join => exact (execJoin_frame ..).mono rfl
  case descReq => exact (execDescReq_frame ..).mono rfl
  case descPart => exact (execDescPart_frame ..).mono rfl
  case ledger => exact (execLedger_frame ..).mono rfl
  case rebuildReq => exact (execRebuildReq_frame ..).mono rfl
  case rebuildPart => exact (execRebuildPart_frame ..).mono rfl
  case rebuildFail => exact (execRebuildFail_frame ..).mono rfl
  case yardBadMessage => exact (execYardBadMessage_frame ..).mono rfl
  case contributionTimeout => exact (execContributionTimeout_frame ..).mono rfl
  case yardRepeatTimer => exact (execYardRepeatTimer_frame ..).mono rfl
  case memberDead => exact (execMemberDead_frame ..).mono rfl
  case stateQueryDeadline => exact (execStateQueryDeadline_frame ..).mono rfl
  case epochProposalTimeout => exact (execEpochProposalTimeout_frame ..).mono rfl
  case epochHoldExpiry => exact (execEpochHoldExpiry_frame ..).mono rfl
  case parityHolderIdle => exact (execParityHolderIdle_frame ..).mono rfl
  case retainLow => exact (execRetainLow_frame ..).mono rfl
  case reshapeCheckpoint => exact (execReshapeCheckpoint_frame ..).mono rfl
  case nightHeartbeatTimeout => exact (execNightHeartbeatTimeout_frame ..).mono rfl
  case dayHeartbeatTimeout => exact (execDayHeartbeatTimeout_frame ..).mono rfl
  case bothHeartbeatsTimeout => exact (execBothHeartbeatsTimeout_frame ..).mono rfl
  case monitorSample => exact (execMonitorSample_frame ..).mono rfl
  case voltageFault => exact (execVoltageFault_frame ..).mono rfl
  case throttleStep => exact (execThrottleStep_frame ..).mono rfl
  case criticalHoldRelease => exact (execCriticalHoldRelease_frame ..).mono rfl
  case ceilingRaise => exact (execCeilingRaise_frame ..).mono rfl
  case telemetryReport => exact (execTelemetryReport_frame ..).mono rfl
  case entdaa => exact (execEntdaa_frame ..).mono rfl
  case setdasa => exact (execSetdasa_frame ..).mono rfl
  case rstdaa => exact (execRstdaa_frame ..).mono rfl
  case enec => exact (execEnec_frame ..).mono rfl
  case disec => exact (execDisec_frame ..).mono rfl
  case getpid => exact (execGetpid_frame ..).mono rfl
  case getbcr => exact (execGetbcr_frame ..).mono rfl
  case getdcr => exact (execGetdcr_frame ..).mono rfl
  case getstatus => exact (execGetstatus_frame ..).mono rfl
  case getmwl => exact (execGetmwl_frame ..).mono rfl
  case getmrl => exact (execGetmrl_frame ..).mono rfl
  case i3cPrivateRead => exact (execI3cPrivateRead_frame ..).mono rfl
  case i3cPrivateWrite => exact (execI3cPrivateWrite_frame ..).mono rfl
  case bufferEccError => exact (execBufferEccError_frame ..).mono rfl
  case patrolScrub => exact (execPatrolScrub_frame ..).mono rfl
  case laneFrame => exact (execLaneFrame_frame ..).mono rfl
  case syncMissed => exact (execSyncMissed_frame ..).mono rfl
  case powerLoss => exact (execPowerLoss_frame ..).mono rfl
  case pcieLinkUp => exact (execPcieLinkUp_frame ..).mono rfl
  case blockErased => exact (execBlockErased_frame ..).mono rfl
  case unitReadDone => exact (execUnitReadDone_frame ..).mono rfl
  case flitBad => exact (execFlitBad_frame ..).mono rfl
  case nightCoreReady => exact (execNightCoreReady_frame ..).mono rfl
  case gpioPeriodic => exact (execGpioPeriodic_frame ..).mono rfl
  case traceFlush => exact (execTraceFlush_frame ..).mono rfl

/-! ## The invariant -/

theorem exec_keeps_inv {c : Instr} {s t : State} (i : Inv s) (h : exec c s = .next t) : Inv t :=
  ((exec_frame c s).next t h).keep i

/-- Settles O4: taking the front command off the queue touches nothing that the invariant speaks of, and every command keeps the
invariant within its frame. -/
theorem everyStepKeepsTheInvariant : Obligations.EveryStepKeepsTheInvariant := by
  intro s t i h
  cases hq : s.pending with
  | nil =>
    rw [step_of_pending_nil hq] at h
    cases h
    exact i
  | cons c cs =>
    rw [step_of_pending_cons hq] at h
    exact exec_keeps_inv (i.set_pending cs) h

end Sys2Proof.Machine
end

/-! The windows and blocks of the Control Space, and the registers as reset leaves them. -/

section

namespace Sys2Proof.Machine

/-! ## Windows -/

/-- An offset inside a window: its index, and its offset from there. -/
theorem window_inside {off base stride count n k : Nat} (e : off = base + stride * n + k) (hn : n < count) (hk : k < stride) :
    window off base stride count = some (n, k) := by
  have top : stride * (n + 1) ≤ stride * count := Nat.mul_le_mul_left _ hn
  rw [Nat.mul_succ] at top
  have d : off - base = k + stride * n := by omega
  unfold window
  rw [if_pos (by omega), d, Nat.add_mul_div_left _ _ (by omega), Nat.add_mul_mod_self_left, Nat.div_eq_of_lt hk, Nat.mod_eq_of_lt hk,
    Nat.zero_add]

theorem window_outside {off base stride count : Nat} (h : off < base ∨ base + stride * count ≤ off) :
    window off base stride count = none := if_neg (by omega)

/-- Where the window of a port's ring pair begins (R75). -/
def ringWindow (p : Port) (n : Nat) : Nat := 0x011000 + 0x1000 * portIdx p + 0x40 * n

theorem ringWindow_lt {n k : Nat} (p : Port) (hn : n < 33) (hk : k < 0x40) :
    0x011000 ≤ ringWindow p n + k ∧ ringWindow p n + k < 0x013000 := by
  have := portIdx_le p
  unfold ringWindow
  omega

theorem ringWindow_ne {n k c : Nat} (p : Port) (hn : n < 33) (hk : k < 0x40) (hc : c < 0x011000 ∨ 0x013000 ≤ c) :
    ringWindow p n + k ≠ c := by
  have := ringWindow_lt p hn hk
  omega

theorem window_ringWindow_a {n k : Nat} (hn : n < 33) (hk : k < 0x40) : window (ringWindow .a n + k) 0x011000 0x40 33 = some (n, k) :=
  window_inside rfl hn hk

theorem window_ringWindow_b {n k : Nat} (hn : n < 33) (hk : k < 0x40) :
    window (ringWindow .b n + k) 0x011000 0x40 33 = none ∧ window (ringWindow .b n + k) 0x012000 0x40 33 = some (n, k) :=
  ⟨window_outside (.inr (by simp only [ringWindow, portIdx]; omega)), window_inside rfl hn hk⟩

/-! ## The block of an offset (R17) -/

theorem readReg_hq {off : Nat} (h : off / 0x10000 = 0x01) (s : State) : readReg s off = readHq s off := by
  simp only [readReg, h]

theorem readReg_wrv {off : Nat} (h : off / 0x10000 = 0x06) (s : State) : readReg s off = readWrv s off := by
  simp only [readReg, h]

theorem readReg_rch {off : Nat} (h : 0x08 ≤ off / 0x10000 ∧ off / 0x10000 ≤ 0x0B) (s : State) : readReg s off = readRch s off := by
  have : off / 0x10000 = 0x08 ∨ off / 0x10000 = 0x09 ∨ off / 0x10000 = 0x0A ∨ off / 0x10000 = 0x0B := by omega
  rcases this with h | h | h | h <;> simp only [readReg, h]

/-- A read in a ring's window (R75). -/
theorem readReg_ringWindow (p : Port) {n k : Nat} (hn : n < 33) (hk : k < 0x40) (s : State) :
    readReg s (ringWindow p n + k) = readRing s p n k := by
  have h := ringWindow_lt p hn hk
  rw [readReg_hq (by omega)]
  cases p with
  | a => simp [readHq, ringWindow_ne .a hn hk, window_ringWindow_a hn hk]
  | b => simp [readHq, ringWindow_ne .b hn hk, window_ringWindow_b hn hk]

/-- The writable registers of a ring's window (R75). -/
theorem wreg_ringWindow (p : Port) {n k : Nat} (hn : n < 33) (hk : k ≤ 0x1C) (al : k % 4 = 0) :
    wreg (ringWindow p n + k) = some (.ring p n k) := by
  have hk' : k < 0x40 := by omega
  cases p with
  | a => simp [wreg, ringWindow_ne .a hn hk', window_ringWindow_a hn hk', hk, al]
  | b => simp [wreg, ringWindow_ne .b hn hk', window_ringWindow_b hn hk', hk, al]

/-- A read in a read channel's window (R260). -/
theorem readReg_chanWindow {c k : Nat} (hc : c < 132) (hk : k < 0x400) (s : State) :
    readReg s (0x080000 + 0x400 * c + k) = readChan s c k := by
  rw [readReg_rch (by omega)]
  unfold readRch
  rw [window_inside rfl hc hk]

/-- A read of a physical channel's rewrite counter (R224). -/
theorem readReg_rewriteCounter {c : Nat} (hc : c < 132) (s : State) : readReg s (0x061400 + 4 * c) = some (ctr s (0x061400 + 4 * c)) := by
  have ne : ∀ x < 0x061400, 0x061400 + 4 * c ≠ x := fun x hx => by omega
  have lanes : window (0x061400 + 4 * c) 0x060040 4 4 = none := window_outside (.inr (by omega))
  have drives : window (0x061400 + 4 * c) 0x061000 4 132 = none := window_outside (.inr (by omega))
  have rewrites : window (0x061400 + 4 * c) 0x061400 4 132 = some (c, 0) := window_inside rfl hc (by decide)
  rw [readReg_wrv (by omega)]
  simp [readWrv, ne, lanes, drives, rewrites]

/-! ## Reset -/

/-- The registers of a ring's window are zero after reset (R75). -/
theorem readRing_reset (p : Port) (n : Nat) {k : Nat} (hk : k < 8) : readRing State.reset p n (4 * k) = some 0 := by
  have hring : ringAt State.reset p n = {} := rfl
  have hcmds : State.reset.hq.cmds = [] := rfl
  interval_cases k <;> simp [readRing, outstanding, hring, hcmds, b2n]

/-- The first eight registers of a read channel's window are zero after reset (R260): no channel has a state of its own yet, and
nothing is adapting that could be frozen. -/
theorem readChan_reset (c : Nat) {k : Nat} (hk : k < 8) : readChan State.reset c (4 * k) = some 0 := by
  have hchan : chanAt State.reset c = {} := rfl
  have hrx : rxAt State.reset (linkOf c) = {} := rfl
  have hready : State.reset.rch.ready = false := rfl
  interval_cases k <;> simp [readChan, hchan, hrx, hready, b2n, toField]

/-- Settles O5: the registers of a fixed offset by evaluation; a ring's window and a channel's rewrite counter by what a read
there is made of, which reset leaves at zero. -/
theorem resetValuesOfTheDataPlaneRegisters : Obligations.ResetValuesOfTheDataPlaneRegisters := by
  unfold Obligations.ResetValuesOfTheDataPlaneRegisters
  refine ⟨List.forall_mem_append.mpr ⟨by decide, by decide⟩, fun n hn k hk => ?_, by decide, by decide,
    fun c hc => readReg_rewriteCounter hc _⟩
  have h := fun p => (readReg_ringWindow p hn (show 4 * k < 0x40 by omega) _).trans (readRing_reset p n hk)
  exact ⟨h .a, h .b⟩

/-- Settles O6: the registers of a fixed offset by evaluation; a read channel's window by what a read there is made of. -/
theorem resetValuesOfTheOtherRegisters : Obligations.ResetValuesOfTheOtherRegisters := by
  unfold Obligations.ResetValuesOfTheOtherRegisters
  refine ⟨?_, fun c hc k hk => ?_, by decide, by decide, by decide⟩
  · simp only [List.forall_mem_append]
    exact ⟨⟨⟨by decide, by decide⟩, by decide⟩, by decide⟩
  · exact (readReg_chanWindow hc (show 4 * k < 0x400 by omega) _).trans (readChan_reset c hk)

end Sys2Proof.Machine
end

/-! Register writes: the violation rules for an aligned write of PF1, and what the writable registers take. -/

section

namespace Sys2Proof.Machine

/-! ## Bits of a register value -/

/-- Fields of a register value are fields of the 32 bits that the write carries. -/
theorem field_low {hi lo : Nat} (v : Nat) (h : lo ≤ hi) (hw : hi < 32) : field (v % 2 ^ 32) hi lo = v / 2 ^ lo % 2 ^ (hi + 1 - lo) := by
  have e : 2 ^ 32 = 2 ^ lo * 2 ^ (32 - lo) := by rw [← pow_add]; congr 1; omega
  unfold field bits
  rw [e, Nat.mod_mul_right_div_self, Nat.mod_mod_of_dvd _ (pow_dvd_pow 2 (by omega))]

theorem bit_low {i : Nat} (v : Nat) (hi : i < 32) : bit (v % 2 ^ 32) i = bit v i := by
  have h := field_low v (le_refl i) hi
  simp only [field, bits, Nat.add_sub_cancel_left, pow_one] at h
  unfold bit
  rw [h]

theorem b2n_bit (v i : Nat) : b2n (bit v i) = v / 2 ^ i % 2 := by
  unfold b2n bit
  rcases Nat.mod_two_eq_zero_or_one (v / 2 ^ i) with h | h <;> simp [h]

/-! ## An aligned write of PF1 (R18, R19) -/

theorem exec_registerWrite {p : Port} {s : State} (on : (portOf s p).functionsOn = true) (off v : Nat) :
    exec (.registerWrite p off v) s = .next (accessOne p .pf1 off 32 true v s).2 := by
  show execRegisterWrite p off v s = _
  unfold execRegisterWrite access
  rw [if_neg (by simp [on]), if_neg (by omega)]
  rfl

/-- Outside key material and Dawn hold, an aligned write breaks a rule if nothing is implemented there (kind 1) or if the register
there has no writable field (kind 2). -/
theorem violationKind_write {s : State} {off : Nat} (hold : s.cfg.st ≠ .hold) (al : off % 4 = 0) (key : keyMaterial off = false) :
    violationKind s .pf1 off 32 true = if readReg s off = none then 1 else if wreg off = none then 2 else 0 := by
  have hx : exposes s off = (readReg s off).isSome := by simp [exposes, hold]
  simp [violationKind, al, key, hx]

theorem accessOne_violation {p : Port} {f : Fn} {off width : Nat} {write : Bool} {s : State} {k : Nat}
    (h : violationKind s f off width write = k) (hk : k ≠ 0) (data : Nat) :
    accessOne p f off width write data s = (0, recordViolation k p f off s) := by
  unfold accessOne
  dsimp only
  rw [h, if_pos hk]

theorem accessOne_legalWrite {p : Port} {f : Fn} {off width : Nat} {s : State} (h : violationKind s f off width true = 0) (data : Nat) :
    accessOne p f off width true data s = (0, writeAt p f off (data % 2 ^ 32) s) := by
  unfold accessOne
  dsimp only
  rw [h, if_neg (by simp), if_pos rfl]

/-- Settles O9: `violationKind_write` names the rule that such a write breaks, and a violation is only recorded. -/
theorem readOnlyRegistersIgnoreWrites : Obligations.ReadOnlyRegistersIgnoreWrites := by
  intro p off value s on hold al key ro
  have hk := violationKind_write hold al (decide_eq_false key)
  rw [ro, if_pos rfl] at hk
  rw [exec_registerWrite on, accessOne_violation hk (by split <;> decide)]
  cases readReg s off <;> rfl

/-- A write of a register with a writable field is that register's write. -/
theorem runs_registerWrite {p : Port} {off : Nat} {s : State} {r : WReg} {P : State → Prop} (on : (portOf s p).functionsOn = true)
    (hold : s.cfg.st ≠ .hold) (hw : wreg off = some r) (al : off % 4 = 0) (key : keyMaterial off = false)
    (impl : readReg s off ≠ none) {v : Nat} (h : P (writeReg r (v % 2 ^ 32) s)) : Runs (.registerWrite p off v) s P := by
  have hk := violationKind_write hold al key
  rw [if_neg impl, hw, if_neg (by simp)] at hk
  refine ⟨_, exec_registerWrite on off v, ?_⟩
  rw [accessOne_legalWrite hk]
  unfold writeAt
  rw [hw]
  exact h

/-- What an update of one ring leaves: the ring updated, and nothing else but the host queues touched. -/
theorem updRing_sets (q : Port) (n : Nat) (s : State) {f : Ring → Ring} {x : Ring} (hx : f (ringAt s q n) = x) :
    ringAt (updRing q n f s) q n = x ∧ Only [.hq] s (updRing q n f s) :=
  ⟨(ringAt_setRing_self ..).trans hx, (updRing_frame ..).only [.hq] rfl⟩

/-! ## What the writable registers take -/

section

variable {p : Port} {s : State} (on : (portOf s p).functionsOn = true) (hold : s.cfg.st ≠ .hold)

include on hold

theorem runs_write_hqCtrl (v : Nat) :
    Runs (.registerWrite p 0x010000 v) s fun t => readReg t 0x010000 = some (v % 4) ∧ Only [.hq] s t := by
  refine runs_registerWrite on hold rfl rfl rfl (by simp [readReg, readHq]) ⟨?_, ?_⟩
  · show some (2 * b2n (bit (v % 2 ^ 32) 1) + b2n (bit (v % 2 ^ 32) 0)) = _
    rw [b2n_bit, b2n_bit]
    congr 1
    omega
  · exact ((Frame.refl (maskOf [.hq]) s).set_hq _ rfl).only [.hq] rfl

/-- A write of a ring's window acts on that ring, through whichever port it comes. -/
theorem runs_write_ringWindow (q : Port) {n j off v : Nat} {P : State → Prop} (hn : n < 33) (hj : j < 8)
    (e : off = ringWindow q n + 4 * j) (h : P (writeRing q n (4 * j) (v % 2 ^ 32) s)) : Runs (.registerWrite p off v) s P := by
  subst e
  have hr := ringWindow_lt q hn (show 4 * j < 0x40 by omega)
  have impl : readReg s (ringWindow q n + 4 * j) ≠ none := by
    rw [readReg_ringWindow q hn (by omega)]
    interval_cases j <;> simp [readRing]
  exact runs_registerWrite on hold (wreg_ringWindow q hn (by omega) (by omega)) (by unfold ringWindow; omega)
    (decide_eq_false (by omega)) impl h

theorem runs_write_coefSel (v : Nat) :
    Runs (.registerWrite p 0x0D0048 v) s fun t => readReg t 0x0D0048 = some (v % 2 ^ 10) ∧ Only [.brd] s t := by
  refine runs_registerWrite on hold rfl rfl rfl (by simp [readReg, readBrd]) ⟨?_, ?_⟩
  · show some (field (v % 2 ^ 32) 9 7 * 128 + field (v % 2 ^ 32) 6 0) = _
    rw [field_low v (by decide) (by decide), field_low v (by decide) (by decide)]
    congr 1
    omega
  · dsimp only [writeReg]
    exact (updBrd_frame ..).only [.brd] rfl

theorem runs_write_shdStatus (v : Nat) :
    Runs (.registerWrite p 0x0E0000 v) s fun t => t.shd = { s.shd with
        quotaReduced := s.shd.quotaReduced && !bit v 6, duskIncomplete := s.shd.duskIncomplete && !bit v 5
        foreign := s.shd.foreign && !bit v 4 } ∧ Only [.shd] s t := by
  refine runs_registerWrite on hold rfl rfl rfl (by simp [readReg, readShd]) ?_
  dsimp only [writeReg]
  refine ⟨?_, (updShd_frame ..).only [.shd] rfl⟩
  rw [bit_low v (by decide), bit_low v (by decide), bit_low v (by decide), updShd_shd]

theorem runs_write_yrdStatus (v : Nat) :
    Runs (.registerWrite p 0x0F0000 v) s fun t =>
      t.yrd = { s.yrd with descMismatch := s.yrd.descMismatch && !bit v 7 } ∧ Only [.yrd] s t := by
  refine runs_registerWrite on hold rfl rfl rfl (by simp [readReg, readYrd]) ?_
  dsimp only [writeReg]
  refine ⟨?_, (updYrd_frame ..).only [.yrd] rfl⟩
  rw [bit_low v (by decide), updYrd_yrd]

theorem runs_write_laneStatus {k : Nat} (hk : k < 4) (v : Nat) :
    Runs (.registerWrite p (0x060040 + 4 * k) v) s fun t =>
      laneAt t k = { laneAt s k with gateOffSent := (laneAt s k).gateOffSent && !bit v 1 } ∧ Only [.wrv] s t := by
  have hw : wreg (0x060040 + 4 * k) = some (.laneStatus k) := by interval_cases k <;> rfl
  have impl : readReg s (0x060040 + 4 * k) ≠ none := by
    rw [readReg_wrv (by omega)]
    interval_cases k <;> simp [readWrv, window]
  refine runs_registerWrite on hold hw (by omega) (decide_eq_false (by omega)) impl ?_
  dsimp only [writeReg]
  refine ⟨?_, (updLane_frame ..).only [.wrv] rfl⟩
  rw [laneAt_updLane, if_pos rfl, bit_low v (by decide)]

end

/-- Settles O10: each write is its register's own (`runs_registerWrite`), whose fields are those of the value's 32 bits. -/
theorem registerWritesTakeTheirWritableBits : Obligations.RegisterWritesTakeTheirWritableBits := by
  intro p v s on hold
  refine ⟨runs_write_hqCtrl on hold v, fun q n hn => ?_, runs_write_coefSel on hold v, runs_write_shdStatus on hold v,
    runs_write_yrdStatus on hold v, fun k hk => runs_write_laneStatus on hold hk v⟩
  have ring := fun {j off : Nat} (hj : j < 8) (e : off = ringWindow q n + 4 * j) {P} =>
    runs_write_ringWindow on hold q (v := v) (P := P) hn hj e
  refine ⟨ring (j := 0) (by decide) rfl ?_, ring (j := 1) (by decide) rfl ?_, ring (j := 2) (by decide) rfl ?_,
    ring (j := 3) (by decide) rfl ?_, ring (j := 4) (by decide) rfl ?_, ring (j := 6) (by decide) rfl ?_,
    ring (j := 7) (by decide) rfl ?_⟩
  all_goals
    simp only [writeRing, Nat.reduceMul, Nat.reduceEqDiff, OfNat.ofNat_ne_zero, reduceIte]
    refine updRing_sets q n s ?_
    simp (disch := decide) only [field_low, bit_low]
  all_goals simp

end Sys2Proof.Machine
end

/-! Accesses of any width: the rule that one breaks, what a legal one answers, and the two halves of a 64-bit one. -/

section

namespace Sys2Proof.Machine

/-! ## What a read of BAR0 returns -/

/-- A port holds what the last read through it returned. -/
def answerRead (p : Port) (v : Nat) (s : State) : State := setPort p { portOf s p with readData := some v } s

@[simp] theorem readData_answerRead (p : Port) (v : Nat) (s : State) : (portOf (answerRead p v s) p).readData = some v := by
  cases p <;> rfl

@[simp] theorem answerRead_answerRead (p : Port) (v w : Nat) (s : State) : answerRead p w (answerRead p v s) = answerRead p w s := by
  cases p <;> rfl

theorem recordViolation_answerRead (k : Nat) (p q : Port) (f : Fn) (off v : Nat) (s : State) :
    recordViolation k q f off (answerRead p v s) = answerRead p v (recordViolation k q f off s) := by
  cases p <;> rfl

/-- No register shows what the last read returned. -/
@[simp] theorem readReg_answerRead (p : Port) (v off : Nat) (s : State) : readReg (answerRead p v s) off = readReg s off := by
  cases p <;> rfl

@[simp] theorem exposes_answerRead (p : Port) (v off : Nat) (s : State) : exposes (answerRead p v s) off = exposes s off := by
  have hst : (answerRead p v s).cfg.st = s.cfg.st := by cases p <;> rfl
  simp only [exposes, readReg_answerRead, hst]

@[simp] theorem readAt_answerRead (f : Fn) (off : Nat) (p : Port) (v : Nat) (s : State) : readAt f off (answerRead p v s) = readAt f off s := by
  cases f <;> simp [readAt]

theorem violationKind_answerRead (p : Port) (v : Nat) (f : Fn) (off width : Nat) (write : Bool) (s : State) :
    violationKind (answerRead p v s) f off width write = violationKind s f off width write := by
  cases f with
  | pf0 => rfl
  | pf1 => simp only [violationKind, exposes_answerRead]

/-! ## An access that is not split (R18, R19) -/

theorem accessOne_legalRead {p : Port} {f : Fn} {off width : Nat} {s : State} (h : violationKind s f off width false = 0) (data : Nat) :
    accessOne p f off width false data s = (readAt f off s, s) := by
  unfold accessOne
  dsimp only
  rw [h, if_neg (by simp), if_neg (by simp)]

/-- A write carries 32 bits of data. -/
theorem accessOne_mod (p : Port) (f : Fn) (off width : Nat) (write : Bool) (data : Nat) (s : State) :
    accessOne p f off width write (data % 2 ^ 32) s = accessOne p f off width write data s := by
  unfold accessOne
  rw [Nat.mod_mod]

/-- A read neither depends on what the read before it returned nor touches it. -/
theorem accessOne_read_answerRead (q p : Port) (v : Nat) (f : Fn) (off width data : Nat) (s : State) :
    accessOne q f off width false data (answerRead p v s)
      = ((accessOne q f off width false data s).1, answerRead p v (accessOne q f off width false data s).2) := by
  have hk := violationKind_answerRead p v f off width false s
  by_cases h : violationKind s f off width false = 0
  · rw [accessOne_legalRead h, accessOne_legalRead (hk.trans h), readAt_answerRead]
  · rw [accessOne_violation rfl h, accessOne_violation hk h, recordViolation_answerRead]

/-- What an access answers: the state it leaves, and for a read what it returns beside. -/
def accessAnswer (p : Port) (write : Bool) (r : Nat × State) : Out := .next (if write then r.2 else answerRead p r.1 r.2)

theorem accessAnswer_write (p : Port) (r : Nat × State) : accessAnswer p true r = .next r.2 := rfl

theorem accessAnswer_read (p : Port) (r : Nat × State) : accessAnswer p false r = .next (answerRead p r.1 r.2) := rfl

section

variable {p : Port} {s : State} (on : (portOf s p).functionsOn = true)

include on

theorem exec_violation (f : Fn) (off width : Nat) (write : Bool) (data : Nat) :
    exec (.violation p f off width write data) s = accessAnswer p write (access p f off width write data s) := by
  show execViolation p f off width write data s = _
  unfold execViolation
  rw [if_neg (by simp [on])]
  rfl

/-- An access that is not an aligned 64-bit one is not split. -/
theorem exec_violation_single {off width : Nat} (single : ¬(width = 64 ∧ off % 8 = 0)) (f : Fn) (write : Bool) (data : Nat) :
    exec (.violation p f off width write data) s = accessAnswer p write (accessOne p f off width write data s) := by
  rw [exec_violation on]
  unfold access
  rw [if_neg single]

/-- An aligned 64-bit access is split, the lower address first. -/
theorem exec_violation_double {off : Nat} (al : off % 8 = 0) (f : Fn) (write : Bool) (data : Nat) :
    exec (.violation p f off 64 write data) s = accessAnswer p write
      (let a := accessOne p f off 32 write data s
       let b := accessOne p f (off + 4) 32 write (data / 2 ^ 32) a.2
       (a.1 + b.1 * 2 ^ 32, b.2)) := by
  rw [exec_violation on]
  unfold access
  rw [if_pos ⟨rfl, al⟩]

end

/-! ## The kinds of violation in the order of R19 -/

/-- Management space (R19), which is all of PF0 beyond the doorbell page (log entry 72). -/
theorem violationKind_management {off : Nat} (h : 0x10000 ≤ off) (s : State) (width : Nat) (write : Bool) :
    violationKind s .pf0 off width write = 4 := by
  simp [violationKind, h]

theorem violationKind_keyMaterial {off : Nat} (h : 0x048000 ≤ off ∧ off < 0x050000) (s : State) (width : Nat) (write : Bool) :
    violationKind s .pf1 off width write = 3 := by
  simp [violationKind, keyMaterial, h]

/-- The doorbell page: a misaligned or misfitting access is of kind 5, a write beyond the doorbells of kind 1. -/
theorem violationKind_doorbellPage {off : Nat} (h : off < 0x10000) (s : State) (width : Nat) (write : Bool) :
    violationKind s .pf0 off width write
      = if ¬(width = 32 ∧ off % 4 = 0) then 5 else if write = true ∧ 256 ≤ off then 1 else 0 := by
  have h' : ¬0x10000 ≤ off := by omega
  simp [violationKind, h']

theorem violationKind_misaligned {off width : Nat} (key : ¬(0x048000 ≤ off ∧ off < 0x050000)) (al : ¬(width = 32 ∧ off % 4 = 0))
    (s : State) (write : Bool) : violationKind s .pf1 off width write = 5 := by
  have hk : keyMaterial off = false := decide_eq_false key
  have ha : (width == 32 && off % 4 == 0) = false := by simpa using al
  simp [violationKind, hk, ha]

/-- An aligned access of PF1 outside key material: where nothing is exposed, and a write where nothing is writable. -/
theorem violationKind_register {off : Nat} (key : ¬(0x048000 ≤ off ∧ off < 0x050000)) (al : off % 4 = 0) (s : State) (write : Bool) :
    violationKind s .pf1 off 32 write = if exposes s off = false then 1 else if write = true ∧ wreg off = none then 2 else 0 := by
  have hk : keyMaterial off = false := decide_eq_false key
  simp [violationKind, hk, al]

theorem exposes_of_unimplemented {s : State} {off : Nat} (h : readReg s off = none) : exposes s off = false := by
  simp [exposes, h]

theorem exposes_of_implemented {s : State} {off : Nat} (h : (readReg s off).isSome) (hold : s.cfg.st ≠ .hold) : exposes s off = true := by
  simp [exposes, h, hold]

/-! ## The obligations -/

/-- Settles O7: `violationKind` names the first rule that applies; a violation is only recorded, and a legal access is the
read or the write at its offset. -/
theorem violationsAreCountedAndRecorded : Obligations.ViolationsAreCountedAndRecorded := by
  intro p f off width write data s on single answer recorded aligned key done
  have hdone : done = accessAnswer p write (accessOne p f off width write data s) := exec_violation_single on single f write data
  have violates : ∀ {k}, violationKind s f off width write = k → k ≠ 0 → done = recorded k := fun h hk => by
    rw [hdone, accessOne_violation h hk]
    rfl
  have reads : violationKind s f off width write = 0 → write = false → done = answer (readAt f off s) s := by
    rintro h rfl
    rw [hdone, accessOne_legalRead h]
    rfl
  have writes : violationKind s f off width write = 0 → write = true → done = .next (writeAt p f off (data % 2 ^ 32) s) := by
    rintro h rfl
    rw [hdone, accessOne_legalWrite h]
    rfl
  refine ⟨?_, ?_, ?_, ?_, ?_, ?_, ?_, ?_, ?_, ?_, ?_, ?_⟩
  · rintro rfl h
    exact violates (violationKind_management h ..) (by decide)
  · rintro rfl h
    exact violates (violationKind_keyMaterial h ..) (by decide)
  · rintro rfl h al
    exact violates ((violationKind_doorbellPage h ..).trans (if_pos al)) (by decide)
  · rintro rfl nk al
    exact violates (violationKind_misaligned nk al ..) (by decide)
  · rintro rfl h al hw beyond
    exact violates ((violationKind_doorbellPage h ..).trans (by rw [if_neg (not_not.mpr al), if_pos ⟨hw, beyond⟩])) (by decide)
  · rintro rfl nk ⟨rfl, al⟩ absent
    exact violates ((violationKind_register nk al ..).trans (if_pos (exposes_of_unimplemented absent))) (by decide)
  · rintro rfl nk ⟨rfl, al⟩ impl hold hw ro
    have hx := exposes_of_implemented impl hold
    exact violates ((violationKind_register nk al ..).trans (by rw [if_neg (by simp [hx]), if_pos ⟨hw, ro⟩])) (by decide)
  · rintro v rfl nk ⟨rfl, al⟩ hv hold hr
    have hx : exposes s off = true := exposes_of_implemented (by simp [hv]) hold
    rw [reads ((violationKind_register nk al ..).trans (by simp [hx, hr])) hr]
    simp [readAt, hv]
  · rintro rfl h al hr
    exact reads ((violationKind_doorbellPage h ..).trans (by simp [al.1, al.2, hr])) hr
  · rintro rfl h al hw tail
    rw [writes ((violationKind_doorbellPage (by omega) ..).trans (by simp [al.1, al.2, h])) hw]
    unfold writeAt
    rw [if_pos tail]
    rfl
  · rintro rfl h al hw head
    rw [writes ((violationKind_doorbellPage (by omega) ..).trans (by simp [al.1, al.2, h])) hw]
    unfold writeAt
    rw [if_neg (by omega)]
    rfl
  · rintro rfl ⟨rfl, -⟩ rfl
    rw [hdone, exec_registerWrite on]
    rfl

/-- Settles O8: each half is an access that is not split, and neither sees what the port holds of the other. -/
theorem alignedDoubleAccessIsTwoAccesses : Obligations.AlignedDoubleAccessIsTwoAccesses := by
  intro p f off data s u t on al onU
  have single : ∀ n, ¬(32 = 64 ∧ n % 8 = 0) := fun _ => by simp
  constructor
  · intro hu
    rw [exec_violation_single on (single off), accessOne_mod, accessAnswer_write] at hu
    obtain rfl := Host.Outcome.next.inj hu
    rw [exec_violation_double on al, exec_violation_single onU (single (off + 4)), accessAnswer_write, accessAnswer_write]
  · intro hu ht
    rw [exec_violation_single on (single off), accessAnswer_read] at hu
    obtain rfl := Host.Outcome.next.inj hu
    rw [exec_violation_single onU (single (off + 4)), accessAnswer_read, accessOne_read_answerRead, answerRead_answerRead] at ht
    obtain rfl := Host.Outcome.next.inj ht
    rw [exec_violation_double on al, accessAnswer_read, Nat.zero_div, readData_answerRead, readData_answerRead]
    exact congrArg Host.Outcome.next (answerRead_answerRead ..).symm

end Sys2Proof.Machine
end

/-! The cipher takes a packet (R27, R96, R104): its place in the packet Stable, what it frees, and the writes that it lets be
Taken. -/

section

namespace Sys2Proof.Machine

/-! ## One entry of a table replaced -/

/-- The entry found by one test is replaced by one that passes another: it is then the one that this test finds, if it found the
old one. -/
theorem find_modFirst_replace {α : Type} {p q : α → Bool} {x y : α} {xs : List α} (hq : xs.find? q = some x) (hp : xs.find? p = some x)
    (hy : p y = true) : (modFirst q (fun _ => y) xs).find? p = some y := by
  induction xs with
  | nil => cases hq
  | cons z zs ih =>
    unfold modFirst
    cases hz : q z with
    | true => simp [hy]
    | false =>
      have hqz : zs.find? q = some x := by simpa [hz] using hq
      have hpz : p z = false := by
        by_contra c
        rw [Bool.not_eq_false] at c
        have e : z = x := by simpa [List.find?_cons, c] using hp
        rw [e, List.find?_some hq] at hz
        cases hz
      rw [if_neg (by simp), List.find?_cons, hpz]
      exact ih hqz (by simpa [hpz] using hp)

/-- A write replaced by one of its own number leaves the numbers as they are. -/
theorem seqs_replace (v : Write) (ws : List Write) :
    (modFirst (fun x => x.seq == v.seq) (fun _ => v) ws).map Write.seq = ws.map Write.seq := by
  induction ws with
  | nil => rfl
  | cons x xs ih =>
    unfold modFirst
    cases h : x.seq == v.seq with
    | true => simp [(beq_iff_eq.mp h).symm]
    | false => simp [ih]

/-! ## The first write of a partition that is not Taken -/

/-- The first write of a partition that is not Taken is Taken once its packets are stored, whether or not its command stands. -/
theorem takeUp_marks {p n : Nat} {s : State} {w : Write} (hw : (s.hq.writes.find? fun w => w.part == p && !w.taken) = some w)
    (hf : findWrite s w.seq = some w) (hp : w.passed = true) : findWrite (takeUp p (n + 1) s) w.seq = some { w with taken := true } := by
  have ht : findWrite (takeWrite w s) w.seq = some { w with taken := true } := by rw [takeWrite_findWrite, hf]; simp
  unfold takeUp
  rw [hw]
  dsimp only
  rw [if_pos hp]
  obtain ⟨b, hb⟩ := takeUp_findWrite p n w.seq _ ht
  simpa using hb

/-! ## A packet stored -/

/-- A packet in its stored form, `lead` bytes of descriptors ahead of its header: nothing of it is left in ingress (R96). -/
def Pkt.storedAs (lead : Nat) (bs : Bytes) (k : Pkt) : Pkt :=
  { k with st := .stored, stored := bs, lead := lead, data := [], payload := [], ingress := none }

/-- A write whose packet i is stored, its chain then `c`. -/
def Write.withPacket (w : Write) (c : List Handle) (i lead : Nat) (bs : Bytes) : Write :=
  { w with chain := c }.updPkt i (Pkt.storedAs lead bs)

section

variable (w : Write) (c : List Handle) (i lead : Nat) (bs : Bytes)

@[simp] theorem withPacket_seq : (w.withPacket c i lead bs).seq = w.seq := rfl

@[simp] theorem withPacket_part : (w.withPacket c i lead bs).part = w.part := rfl

@[simp] theorem withPacket_taken : (w.withPacket c i lead bs).taken = w.taken := rfl

@[simp] theorem withPacket_kind : (w.withPacket c i lead bs).kind = w.kind := rfl

@[simp] theorem withPacket_counter : (w.withPacket c i lead bs).counter = w.counter := rfl

@[simp] theorem withPacket_pkts : (w.withPacket c i lead bs).pkts = w.pkts.modify i (Pkt.storedAs lead bs) := rfl

variable {w i}

/-- All packets are stored once packet i is, if the others were before. -/
theorem withPacket_passed (h : ∀ j x, j ≠ i → w.pkts[j]? = some x → x.st = .stored) : (w.withPacket c i lead bs).passed = true := by
  simp only [Write.passed, withPacket_pkts, List.all_eq_true, beq_iff_eq]
  intro x hx
  obtain ⟨j, hj⟩ := List.mem_iff_getElem?.mp hx
  rw [List.getElem?_modify] at hj
  by_cases e : i = j
  · obtain ⟨y, -, rfl⟩ := Option.map_eq_some_iff.mp hj
    rw [if_pos e]
    rfl
  · exact h j x (Ne.symm e) (by simpa [e] using hj)

/-- A write has not passed the cipher while another packet is to come. -/
theorem withPacket_not_passed (h : ∃ j x, j ≠ i ∧ w.pkts[j]? = some x ∧ x.st ≠ .stored) : (w.withPacket c i lead bs).passed = false := by
  obtain ⟨j, x, ne, hj, hx⟩ := h
  refine List.all_eq_false.mpr ⟨x, List.mem_of_getElem? (i := j) ?_, by simpa using hx⟩
  simp [Ne.symm ne, hj]

end

/-! ## The cipher's step -/

/-- A write that is given more Stalls changes in its chain only. -/
theorem extendChain_write {w w1 : Write} {n : Nat} {s s1 : State} (h : extendChain w n s = (some w1, s1)) :
    ∃ c, w1 = { w with chain := c } := by
  unfold extendChain at h
  dsimp only at h
  split at h
  · cases h
    exact ⟨w.chain, rfl⟩
  · split at h
    · cases h
    · cases h
      exact ⟨_, rfl⟩

theorem releasePacket_engine {k : Pkt} {e : Nat} (h : k.st = .finished e) (w : Write) (s : State) :
    (engineAt (releasePacket w k s) e).job = .idle := by
  unfold releasePacket
  simp only [h, engineAt_setEngine_self]

/-- The state in which a packet is stored and what it held is free, before writes become Taken: `v` is its write with the packet
stored. -/
def packetPlaced (w v : Write) (k : Pkt) (s : State) : State :=
  let s2 := releasePacket w k (updWrite w.seq (fun _ => v) s)
  { s2 with cip := { s2.cip with held := none } }

theorem packetPlaced_hq (w v : Write) (k : Pkt) (s : State) : (packetPlaced w v k s).hq = (updWrite w.seq (fun _ => v) s).hq :=
  (releasePacket_frame w k _).same .hq rfl

/-- A packet whose Stalls are granted is placed, and then writes become Taken. -/
theorem takePacket_of_granted {w : Write} {bs : Bytes} {s : State} (h : (extendChain w bs.length s).1.isSome) (i : Nat) (k : Pkt)
    (lead : Nat) : ∃ c s1, s1.hq = s.hq ∧ takePacket w i k lead bs s
      = takeUp w.part (packetPlaced w (w.withPacket c i lead bs) k s1).hq.writes.length
          (packetPlaced w (w.withPacket c i lead bs) k s1) := by
  obtain ⟨w1, hw⟩ := Option.isSome_iff_exists.mp h
  have hext : extendChain w bs.length s = (some w1, (extendChain w bs.length s).2) := Prod.ext hw rfl
  obtain ⟨c, rfl⟩ := extendChain_write hext
  refine ⟨c, _, (extendChain_frame w bs.length s).same .hq rfl, ?_⟩
  unfold takePacket
  rw [hext]
  rfl

section

variable {s : State} {w : Write} {i : Nat} {k : Pkt} (hd : s.cfg.dusk = none) (hn : cipherNext s = some (w, i)) (hk : w.pkts[i]? = some k)

include hd hn hk

/-- Outside Dusk the packet that is due is held past the exposure limit, and taken within it (R27, R104). -/
theorem exec_cipherTakePacket : exec .cipherTakePacket s = .next
    (if exposureLimit s < exposure s + (storedForm s w i k).length then { s with cip := { s.cip with held := some (w.seq, i) } }
      else takePacket w i k (if w.kind = .marks then 0 else (descsIn s w i).length) (storedForm s w i k) s) := by
  show execCipherTakePacket s = _
  unfold execCipherTakePacket
  simp only [hd, hn, hk, Option.isSome_none, Bool.false_eq_true, if_false]
  split <;> rfl

end

/-- The tables after a packet is placed. -/
structure PlacedTables (w v : Write) (s u : State) : Prop where
  found : findWrite u w.seq = some v
  cmds : u.hq.cmds = s.hq.cmds
  nodup : (u.hq.writes.map Write.seq).Nodup
  first : (s.hq.writes.find? fun x => x.part == w.part && !x.taken) = some w →
    (u.hq.writes.find? fun x => x.part == w.part && !x.taken) = some v

/-- The index after a packet is placed: its write is there with the packet stored, and first of its partition if it was. -/
theorem packetPlaced_tables {w : Write} {s s1 : State} (same : s1.hq = s.hq) (hf : findWrite s w.seq = some w)
    (nodup : (s.hq.writes.map Write.seq).Nodup) (k : Pkt) (c : List Handle) (i lead : Nat) (bs : Bytes) :
    PlacedTables w (w.withPacket c i lead bs) s (packetPlaced w (w.withPacket c i lead bs) k s1) := by
  have hhq := (packetPlaced_hq w (w.withPacket c i lead bs) k s1).trans (updWrite_hq _ w.seq (fun _ => w.withPacket c i lead bs))
  rw [same] at hhq
  refine ⟨?_, ?_, ?_, fun h => ?_⟩
  · rw [findWrite, hhq]
    exact find_modFirst_replace hf hf (by simp)
  · rw [hhq]
  · rw [hhq]
    exact (seqs_replace (w.withPacket c i lead bs) s.hq.writes).symm ▸ nodup
  · rw [hhq]
    exact find_modFirst_replace hf h (by simpa using List.find?_some h)

/-- Settles O19: the packet is placed (`packetPlaced`), and taking up writes from there changes no entry but for its Taken flag. -/
theorem cipherTakesPacketsWithinTheExposure : Obligations.CipherTakesPacketsWithinTheExposure := by
  intro s w i k hd hn hk hf nodup bytes first
  have hexec := exec_cipherTakePacket hd hn hk
  refine ⟨fun past => ⟨_, by rw [hexec, if_pos past], rfl⟩, fun within granted => ?_⟩
  obtain ⟨c, s1, same, htake⟩ := takePacket_of_granted granted i k (if w.kind = .marks then 0 else (descsIn s w i).length)
  rw [if_neg (not_lt.mpr within), htake] at hexec
  refine ⟨_, hexec, ?_⟩
  have tables := packetPlaced_tables same hf nodup k c i (if w.kind = .marks then 0 else (descsIn s w i).length) bytes
  obtain ⟨n, hlen⟩ := Nat.exists_eq_succ_of_ne_zero (List.length_pos_of_mem (List.mem_of_find?_eq_some tables.found)).ne'
  rw [hlen]
  obtain ⟨b, hb⟩ := takeUp_findWrite w.part (n + 1) w.seq _ tables.found
  refine ⟨takeUp_held _ _ _, fun e he => ?_, ⟨_, hb, ?_, fun j hj => ?_, fun h1 others => ?_⟩, fun cmd h1 others hc => ?_, fun h1 waits => ?_⟩
  · rw [engineAt_of_cmp ((takeUp_frame ..).same .cmp rfl)]
    exact releasePacket_engine he w _
  · simp only [withPacket_pkts, List.getElem?_modify_eq, hk]
    rfl
  · simp only [withPacket_pkts, List.getElem?_modify_ne _ _ (Ne.symm hj)]
  · have marked := takeUp_marks (n := n) (tables.first h1) tables.found (withPacket_passed c _ bytes others)
    rw [withPacket_seq, hb] at marked
    rw [Option.some.inj marked]
  · exact (takeUp_first (n := n) (c := cmd) tables.nodup (tables.first h1) (withPacket_passed c _ bytes others)
      (by rw [withPacket_seq, findCmd, tables.cmds]; exact hc)).1
  · rw [takeUp_waits (tables.first h1) (withPacket_not_passed c _ bytes waits)]
    exact tables.cmds

end Sys2Proof.Machine
end

/-! Host rings: doorbells, enabling and disabling a ring pair (R33, R34, R75, R471). -/

section

namespace Sys2Proof.Machine

/-! ## One ring of the table changes -/

theorem ringsBut_of_rings {p : Port} {n : Nat} {s t u : State} (h : RingsBut p n s t) (e : u.hq.rings = t.hq.rings) :
    RingsBut p n s u := fun q m hm ne => by
  rw [← h q m hm ne]
  unfold ringAt
  rw [e]

theorem ringsBut_setRing {p : Port} {n : Nat} (hn : n ≤ 32) (x : Ring) (s : State) : RingsBut p n s (setRing p n x s) :=
  fun _ _ hm ne => ringAt_setRing_other x s hm hn ne

theorem only_setRing (p : Port) (n : Nat) (x : Ring) (s : State) : Only [.hq] s (setRing p n x s) :=
  (setRing_frame p n x s).only [.hq] rfl

/-- What one ring's change leaves alone. -/
theorem setRing_changes {p : Port} {n : Nat} (hn : n ≤ 32) (x : Ring) (s : State) :
    RingsBut p n s (setRing p n x s) ∧ (setRing p n x s).hq = { s.hq with rings := (setRing p n x s).hq.rings }
      ∧ Only [.hq] s (setRing p n x s) :=
  ⟨ringsBut_setRing hn x s, rfl, only_setRing p n x s⟩

/-! ## Doorbells (R33, R34) -/

theorem exec_sqTailDoorbell {p : Port} {n : Nat} {s : State} (v : Nat) (on : (portOf s p).functionsOn = true) (hn : n ≤ 32) :
    exec (.sqTailDoorbell p n v) s = .next (sqTail p n v s) := by
  show go (ringTail p n v s) = _
  rw [ringTail, if_neg (by simp [on, hn])]
  rfl

theorem exec_cqHeadDoorbell {p : Port} {n : Nat} {s : State} (v : Nat) (on : (portOf s p).functionsOn = true) (hn : n ≤ 32) :
    exec (.cqHeadDoorbell p n v) s = .next (cqHead p n v s) := by
  show go (ringHead p n v s) = _
  rw [ringHead, if_neg (by simp [on, hn])]
  rfl

/-- A doorbell's index is the low ten bits of what is written. -/
theorem doorbell_index (v : Nat) : bits v 9 0 = v % 1024 := by simp [bits]

theorem ctr_pushMgt {c : Nat} (n : c ≠ 0x110020) (m : Mail) (s : State) : ctr (pushMgt m s) c = ctr s c := by
  unfold pushMgt
  split
  · rw [ctr_inc, if_neg n]
  · rfl

/-- A rejected doorbell write is counted and posted, and changes nothing else (R33, R425). -/
theorem rejectDoorbell_counts (p : Port) (n : Nat) (s : State) :
    (rejectDoorbell p n s).hq = s.hq
      ∧ readReg (rejectDoorbell p n s) 0x010004 = some (min (ctr s 0x010004 + 1) 0xFFFFFFFF)
      ∧ Only [.boxes, .ctrs] s (rejectDoorbell p n s)
      ∧ (s.boxes.mgt.length < 1024 →
          (rejectDoorbell p n s).boxes = { s.boxes with mgt := s.boxes.mgt ++ [⟨s.srv.clock, 28, 0x0101, n % 64 + 256 * portIdx p⟩] }) := by
  have k := rejectDoorbell_frame p n s
  refine ⟨k.same .hq rfl, ?_, k.only [.boxes, .ctrs] rfl, fun free => ?_⟩
  · have c : ctr (rejectDoorbell p n s) 0x010004 = satAdd (ctr s 0x010004) 1 := by
      unfold rejectDoorbell postEvent
      rw [ctr_pushMgt (by decide), ctr_inc, if_pos rfl]
    rw [readReg_hq (by decide)]
    exact congrArg some c
  · have slot : hasSlots .mgt Src.hostq 1 (inc 0x010004 s) = true := by
      rw [hasSlots_mgt]
      exact decide_eq_true (Nat.succ_le_of_lt free)
    unfold rejectDoorbell
    rw [postEvent_of_slots slot, Nat.mul_comm (portIdx p)]
    rfl

theorem sqTail_rejects {p : Port} {n v : Nat} {s : State} (h : (ringAt s p n).enable = false ∨ (ringAt s p n).liveSize ≤ v % 1024) :
    sqTail p n v s = rejectDoorbell p n s := by
  unfold sqTail
  rw [doorbell_index]
  exact if_pos h

theorem sqTail_accepts {p : Port} {n v : Nat} {s : State} (on : (ringAt s p n).enable = true) (lt : v % 1024 < (ringAt s p n).liveSize) :
    sqTail p n v s = if v % 1024 = (ringAt s p n).sqHead then s else setRing p n { ringAt s p n with tail := v % 1024 } s := by
  unfold sqTail
  rw [doorbell_index]
  exact if_neg (by simp [on, runSize, lt])

theorem cqHead_rejects {p : Port} {n v : Nat} {s : State}
    (h : ((ringAt s p n).enable = false ∧ outstanding s p n = false) ∨ (ringAt s p n).liveSize ≤ v % 1024) :
    cqHead p n v s = rejectDoorbell p n s := by
  unfold cqHead
  rw [doorbell_index]
  exact if_pos h

theorem cqHead_accepts {p : Port} {n v : Nat} {s : State} (on : (ringAt s p n).enable = true ∨ outstanding s p n = true)
    (lt : v % 1024 < (ringAt s p n).liveSize) :
    cqHead p n v s = setRing p n { ringAt s p n with cqHead := v % 1024 } s := by
  unfold cqHead
  rw [doorbell_index]
  refine if_neg fun h => ?_
  rcases h with ⟨off, idle⟩ | le
  · rcases on with on | on
    · rw [off] at on; cases on
    · rw [idle] at on; cases on
  · exact absurd lt (Nat.not_lt_of_le le)

theorem newEntries_tail {x : Ring} {i : Nat} (h : i < x.liveSize) :
    newEntries { x with tail := i } = (i + x.liveSize - x.sqHead) % x.liveSize :=
  if_neg (Nat.ne_of_gt (Nat.zero_lt_of_lt h))

/-- Settles O12: an index below the ring size replaces the ring's tail or head; all other doorbell writes are `rejectDoorbell`. -/
theorem doorbellsMoveTheirIndexOrAreRejected : Obligations.DoorbellsMoveTheirIndexOrAreRejected := by
  intro p n v s on hn
  refine ⟨fun en lt ne => ?_, fun en lt eq => ?_, fun en lt => ?_, fun bad => ?_, fun bad => ?_⟩
  · refine ⟨_, (exec_sqTailDoorbell v on hn).trans (by rw [sqTail_accepts en lt, if_neg ne]), ?_⟩
    obtain ⟨others, hq, only⟩ := setRing_changes hn { ringAt s p n with tail := v % 1024 } s
    have self := ringAt_setRing_self p n { ringAt s p n with tail := v % 1024 } s
    have entries := newEntries_tail lt
    refine ⟨self, others, hq, only, by rw [self]; exact entries, ?_⟩
    rw [self, entries]
    exact Nat.le_sub_one_of_lt (Nat.mod_lt _ (Nat.zero_lt_of_lt lt))
  · rw [exec_sqTailDoorbell v on hn, sqTail_accepts en lt, if_pos eq]
  · exact ⟨_, (exec_cqHeadDoorbell v on hn).trans (by rw [cqHead_accepts en lt]), ringAt_setRing_self .., setRing_changes hn ..⟩
  · exact ⟨_, (exec_sqTailDoorbell v on hn).trans (by rw [sqTail_rejects bad]), rejectDoorbell_counts p n s⟩
  · exact ⟨_, (exec_cqHeadDoorbell v on hn).trans (by rw [cqHead_rejects bad]), rejectDoorbell_counts p n s⟩

/-! ## Enabling and disabling (R34, R75, R399, R471) -/

/-- An enable is refused unless size, bases, outstanding commands and the device state allow it (R75). -/
theorem enableRefused_eq_false_iff {p : Port} {n : Nat} {s : State} (hn : n ≤ 32) :
    enableRefused p n s = false ↔
      2 ≤ (ringAt s p n).size ∧ (ringAt s p n).size ≤ (if n = 32 then 256 else 1024) ∧ (ringAt s p n).sqLo % 4096 = 0
        ∧ (ringAt s p n).cqLo % 4096 = 0 ∧ outstanding s p n = false ∧ (n = 32 ∨ s.cfg.st = .service) := by
  have ring : (n < 32 → s.cfg.st = .service) ↔ (n = 32 ∨ s.cfg.st = .service) := by
    constructor
    · intro h
      rcases Nat.lt_or_eq_of_le hn with lt | eq
      · exact .inr (h lt)
      · exact .inl eq
    · rintro (eq | st) lt
      · exact absurd lt (by omega)
      · exact st
  simp only [enableRefused, inService, Bool.or_eq_false_iff, Bool.and_eq_false_imp, decide_eq_false_iff_not, decide_eq_true_eq,
    Bool.not_eq_false', beq_iff_eq, not_lt, not_not, ring, and_assoc]

theorem exec_ringEnable {p : Port} {n : Nat} {s : State} (on : (portOf s p).functionsOn = true) (hn : n ≤ 32) :
    exec (.ringEnable p n) s = .next (enableRing p n s) := if_neg (by simp [on, hn])

theorem exec_ringDisable {p : Port} {n : Nat} {s : State} (on : (portOf s p).functionsOn = true) (hn : n ≤ 32) :
    exec (.ringDisable p n) s = .next (disableRing p n s) := if_neg (by simp [on, hn])

/-- Settles O13: RING_ENABLE takes the branch that `enableRefused` picks; each branch sets this one ring. -/
theorem ringPairsStartAfreshAndStop : Obligations.RingPairsStartAfreshAndStop := by
  intro p n s on hn
  have runs {c : Instr} {x : Ring} (e : exec c s = .next (setRing p n x s)) :
      Runs c s fun t => RingsBut p n s t ∧ t.hq = { s.hq with rings := t.hq.rings } ∧ Only [.hq] s t ∧ ringAt t p n = x := by
    obtain ⟨others, hq, only⟩ := setRing_changes hn x s
    exact ⟨_, e, others, hq, only, ringAt_setRing_self p n x s⟩
  refine ⟨fun off good => runs ?_, fun off bad => runs ?_, runs (exec_ringDisable on hn)⟩
  · rw [exec_ringEnable on hn, enableRing, if_neg (by simp [off]), if_neg (by simp [(enableRefused_eq_false_iff hn).mpr good])]
  · have refused : enableRefused p n s = true := by
      by_contra h
      exact bad ((enableRefused_eq_false_iff hn).mp (Bool.eq_false_iff.mpr h))
    rw [exec_ringEnable on hn, enableRing, if_neg (by simp [off]), if_pos refused]

end Sys2Proof.Machine
end

/-! Fetching: the entries that a turn accepts (R36, R37, R64). -/

section

namespace Sys2Proof.Machine

@[simp] theorem portOf_setPort_self (p : Port) (x : PciePort) (s : State) : portOf (setPort p x s) p = x := by cases p <;> rfl

theorem portOf_setPort_other (p : Port) (x : PciePort) (s : State) : portOf (setPort p x s) (otherPort p) = portOf s (otherPort p) := by
  cases p <;> rfl

theorem portOf_of_hq {s t : State} (a : t.hq.portA = s.hq.portA) (b : t.hq.portB = s.hq.portB) (p : Port) : portOf t p = portOf s p := by
  cases p
  · exact a
  · exact b

theorem ringAt_of_rings {s t : State} (h : t.hq.rings = s.hq.rings) (p : Port) (n : Nat) : ringAt t p n = ringAt s p n := by
  unfold ringAt
  rw [h]

/-- The fetch pointer of a ring after one more entry. -/
def ringFetched (x : Ring) : Ring := { x with sqHead := (x.sqHead + 1) % x.liveSize }

/-- The state in which a command has entered the table as the next accepted one of a ring. -/
def enterCmd (p : Port) (n : Nat) (c : Cmd) (s : State) : State :=
  setRing p n (ringFetched (ringAt s p n)) { s with hq := { s.hq with acceptSeq := s.hq.acceptSeq + 1, cmds := s.hq.cmds ++ [c] } }

/-- Whatever its checks say, an accepted entry becomes one command with the next acceptance sequence (R37). -/
theorem accept_enters (p : Port) (n : Nat) (e : SqEntry) (s : State) :
    ∃ c : Cmd, c.port = p ∧ c.ring = n ∧ c.seq = s.hq.acceptSeq ∧ c.e = e ∧ (accept p n e s).hq = (enterCmd p n c s).hq := by
  unfold accept
  dsimp only
  generalize hd : (if accepts n e.opcode = false then _ else _ : Cmd × Bool) = d
  have key : d.1.port = p ∧ d.1.ring = n ∧ d.1.seq = s.hq.acceptSeq ∧ d.1.e = e := by
    subst hd
    split
    · exact ⟨rfl, rfl, rfl, rfl⟩
    · split
      · exact ⟨rfl, rfl, rfl, rfl⟩
      · split
        · exact ⟨rfl, rfl, rfl, rfl⟩
        · split <;> exact ⟨rfl, rfl, rfl, rfl⟩
  obtain ⟨hp, hn, hs, he⟩ := key
  refine ⟨d.1, hp, hn, hs, he, ?_⟩
  split <;> rfl

/-- The commands `new` have been accepted from the first of some entries, in their order. -/
structure Accepted (p : Port) (n : Nat) (bs : List Bytes) (new : List Cmd) (s t : State) : Prop where
  cmds : t.hq.cmds = s.hq.cmds ++ new
  acceptSeq : t.hq.acceptSeq = s.hq.acceptSeq + new.length
  stamped : ∀ i c, new[i]? = some c → c.port = p ∧ c.ring = n ∧ c.seq = s.hq.acceptSeq + i ∧ (bs[i]?).map parseEntry = some c.e
  size : (ringAt t p n).liveSize = (ringAt s p n).liveSize
  head : (ringAt t p n).sqHead % (ringAt s p n).liveSize = ((ringAt s p n).sqHead + new.length) % (ringAt s p n).liveSize
  portA : t.hq.portA = s.hq.portA
  portB : t.hq.portB = s.hq.portB

theorem Accepted.none (p : Port) (n : Nat) (bs : List Bytes) (s : State) : Accepted p n bs [] s s :=
  ⟨(List.append_nil _).symm, rfl, fun _ _ h => (Option.some_ne_none _ h.symm).elim, rfl, rfl, rfl, rfl⟩

/-- One entry is accepted, and then those after it. -/
theorem Accepted.cons {p : Port} {n : Nat} {b : Bytes} {bs : List Bytes} {new : List Cmd} {s u t : State} {c : Cmd} (hp : c.port = p)
    (hn : c.ring = n) (hs : c.seq = s.hq.acceptSeq) (he : c.e = parseEntry b) (hu : u.hq = (enterCmd p n c s).hq)
    (rest : Accepted p n bs new u t) : Accepted p n (b :: bs) (c :: new) s t := by
  have hr : ringAt u p n = ringFetched (ringAt s p n) := by
    rw [ringAt_of_rings (congrArg Hq.rings hu)]
    exact ringAt_setRing_self ..
  have hsize : (ringAt u p n).liveSize = (ringAt s p n).liveSize := by rw [hr]; rfl
  have hseq : u.hq.acceptSeq = s.hq.acceptSeq + 1 := by rw [hu]; rfl
  have hcmds : u.hq.cmds = s.hq.cmds ++ [c] := by rw [hu]; rfl
  refine ⟨?_, ?_, ?_, rest.size.trans hsize, ?_, rest.portA.trans (by rw [hu]; rfl), rest.portB.trans (by rw [hu]; rfl)⟩
  · rw [rest.cmds, hcmds, List.append_assoc]
    rfl
  · rw [rest.acceptSeq, hseq, List.length_cons]
    omega
  · intro i d h
    cases i with
    | zero =>
      cases h
      exact ⟨hp, hn, hs, congrArg some he.symm⟩
    | succ i =>
      obtain ⟨dp, dn, ds, de⟩ := rest.stamped i d h
      exact ⟨dp, dn, by rw [ds, hseq]; omega, de⟩
  · have h := rest.head
    rw [hsize] at h
    rw [h, hr]
    show ((_ + 1) % _ + _) % _ = _
    rw [Nat.mod_add_mod, List.length_cons, Nat.add_right_comm, Nat.add_assoc]

/-- Why the next entry is not fetched (R36, R63): none is new, the table is full, or a write finds no index entry. -/
def FetchStops (p : Port) (n : Nat) (b : Bytes) (s : State) : Prop :=
  newEntries (ringAt s p n) = 0 ∨ tableSize (n == 32) ≤ (tableOf s p (n == 32)).length
    ∨ (isWriteOp (parseEntry b).opcode = true ∧ n ≠ 32 ∧ 32768 ≤ briClaims s)

/-- A turn accepts a run of the entries offered, in ring order; the first too unless fetching stops at it. -/
theorem fetchFrom_accepted (p : Port) (n k : Nat) (bs : List Bytes) (s : State) :
    ∃ new, new.length ≤ k ∧ Accepted p n bs new s (fetchFrom p n k bs s)
      ∧ (0 < k → (∀ b ∈ bs.head?, ¬FetchStops p n b s) → bs ≠ [] → new ≠ []) := by
  induction k generalizing bs s with
  | zero => exact ⟨[], Nat.le_refl _, .none p n bs s, fun h => absurd h (Nat.lt_irrefl _)⟩
  | succ k ih =>
    cases bs with
    | nil => exact ⟨[], Nat.zero_le _, .none p n [] s, fun _ _ h => absurd rfl h⟩
    | cons b bs =>
      by_cases stop : FetchStops p n b s
      · have e : fetchFrom p n (k + 1) (b :: bs) s = s := if_pos stop
        exact ⟨[], Nat.zero_le _, by rw [e]; exact .none p n _ s, fun _ h => absurd stop (h b rfl)⟩
      · have e : fetchFrom p n (k + 1) (b :: bs) s = fetchFrom p n k bs (accept p n (parseEntry b) s) := if_neg stop
        obtain ⟨c, hp, hn, hs, he, hu⟩ := accept_enters p n (parseEntry b) s
        obtain ⟨new, len, rest, -⟩ := ih bs (accept p n (parseEntry b) s)
        exact ⟨c :: new, Nat.succ_le_succ len, by rw [e]; exact .cons hp hn hs he hu rest, fun _ _ _ => List.cons_ne_nil _ _⟩

theorem turnRing_ready {s : State} {p : Port} {n : Nat} (h : turnRing s p = some n) : ringReady s p n = true := by
  unfold turnRing at h
  split at h
  · exact List.find?_some h
  · cases h

theorem fetchStops_ready {s : State} {p : Port} {n : Nat} (ready : ringReady s p n = true) (room : n = 32 ∨ briClaims s < 32768)
    (b : Bytes) : ¬FetchStops p n b s := by
  simp only [ringReady, Bool.and_eq_true, decide_eq_true_eq] at ready
  obtain ⟨⟨-, fresh⟩, table⟩ := ready
  rintro (none | full | ⟨-, data, bri⟩)
  · omega
  · omega
  · omega

/-- Settles O14: a turn runs `fetchFrom` on the ring that `turnRing` names, which accepts the first entries in order. -/
theorem fetchTurnsAcceptEntriesInOrder : Obligations.FetchTurnsAcceptEntriesInOrder := by
  intro entries n s p going turn
  obtain ⟨new, len, run, first⟩ := fetchFrom_accepted p n 8 entries s
  have ready := turnRing_ready turn
  have e : exec (.fetchTurn entries) s = .next (execFetchTurn.turn entries s p n) := by
    show execFetchTurn entries s = _
    simp only [execFetchTurn, going, Bool.false_eq_true, if_false]
    rw [show turnRing s s.hq.nextPort = some n from turn]
    rfl
  have rings : ringAt (execFetchTurn.turn entries s p n) p n = ringAt (fetchFrom p n 8 entries s) p n :=
    ringAt_of_rings (by cases p <;> rfl) p n
  have cmds : (execFetchTurn.turn entries s p n).hq.cmds = (fetchFrom p n 8 entries s).hq.cmds := by cases p <;> rfl
  have seqs : (execFetchTurn.turn entries s p n).hq.acceptSeq = (fetchFrom p n 8 entries s).hq.acceptSeq := by cases p <;> rfl
  refine ⟨_, e, rfl, ?_, ?_, new, cmds.trans run.cmds, len, seqs.trans run.acceptSeq, run.stamped, by rw [rings]; exact run.head, ?_⟩
  · exact congrArg PciePort.lastRing (portOf_setPort_self p _ _)
  · exact (portOf_setPort_other p _ _).trans (portOf_of_hq run.portA run.portB _)
  · exact fun some room => first (by decide) (fun b _ => fetchStops_ready ready room b) some

end Sys2Proof.Machine
end

/-! Completion entries (R34, R43, R66). -/

section

namespace Sys2Proof.Machine

theorem raiseRing_rings (p : Port) (n : Nat) (s : State) : (raiseRing p n s).hq.rings = s.hq.rings := by
  unfold raiseRing
  split <;> rfl

theorem raiseRing_cmds (p : Port) (n : Nat) (s : State) : (raiseRing p n s).hq.cmds = s.hq.cmds := by
  unfold raiseRing
  split <;> rfl

/-- A ring after one more entry in its completion ring. -/
def ringWritten (x : Ring) : Ring :=
  { x with cqTail := (x.cqTail + 1) % x.liveSize, phase := if (x.cqTail + 1) % x.liveSize = 0 then !x.phase else x.phase,
           unsignalled := if x.coalCount ≤ x.unsignalled + 1 then 0 else x.unsignalled + 1 }

/-- One entry written: the ring moves on, an interrupt apart. -/
theorem afterEntry_queue (p : Port) (n : Nat) (s : State) :
    (afterEntry p n s).hq.rings = (setRing p n (ringWritten (ringAt s p n)) s).hq.rings ∧ (afterEntry p n s).hq.cmds = s.hq.cmds := by
  unfold afterEntry
  dsimp only
  by_cases h : (ringAt s p n).coalCount ≤ (ringAt s p n).unsignalled + 1
  · rw [if_pos (decide_eq_true h), raiseRing_rings, raiseRing_cmds]
    simp only [ringWritten, h, runSize, decide_true, if_true]
    exact ⟨rfl, rfl⟩
  · rw [if_neg (by simpa using h)]
    simp only [ringWritten, h, runSize, decide_false, Bool.false_eq_true, if_false]
    exact ⟨rfl, rfl⟩

/-- Taking a deferred error leaves rings and commands alone (R66). -/
theorem takeDefer_queue (c : Cmd) (s : State) :
    (takeDefer c s).2.2.hq.rings = s.hq.rings ∧ (takeDefer c s).2.2.hq.cmds = s.hq.cmds := by
  unfold takeDefer
  dsimp only
  split
  · split <;> exact ⟨rfl, rfl⟩
  · split
    · split <;> exact ⟨rfl, rfl⟩
    · exact ⟨rfl, rfl⟩

/-- A command has left the table, and only it. -/
theorem findCmd_leave {s t : State} {q : Nat} (h : t.hq.cmds = s.hq.cmds.filter fun y => y.seq != q) :
    findCmd t q = none ∧ ∀ r, r ≠ q → findCmd t r = findCmd s r := by
  constructor
  · simp [findCmd, h]
  · intro r ne
    simp only [findCmd, h, List.find?_filter]
    congr 1
    funext x
    by_cases e : x.seq = r
    · simp [e, ne]
    · simp [e]

/-- The state in which a command's completion entry has gone out (R34, R43). -/
def completionOut (c : Cmd) (entry : Bytes) (s : State) : State :=
  let w := hostWrite ((ringAt s c.port c.ring).cqBase + 32 * (ringAt s c.port c.ring).cqTail) entry (takeDefer c s).2.2
  afterEntry c.port c.ring (setCmds (w.hq.cmds.filter fun y => y.seq != c.seq) w)

/-- The entry goes to the ring's write index in host memory, and to no other byte. -/
theorem hostByte_completionOut (c : Cmd) (entry : Bytes) (s : State) (b : Nat) :
    hostByte (completionOut c entry s) b
      = if (ringAt s c.port c.ring).cqBase + 32 * (ringAt s c.port c.ring).cqTail ≤ b
            ∧ b < (ringAt s c.port c.ring).cqBase + 32 * (ringAt s c.port c.ring).cqTail + entry.length
        then entry[b - ((ringAt s c.port c.ring).cqBase + 32 * (ringAt s c.port c.ring).cqTail)]? else hostByte s b := by
  have before : hostByte (takeDefer c s).2.2 b = hostByte s b := congrArg (AMap.get? · b) ((takeDefer_frame c s).same .hostMem rfl)
  rw [← before, ← hostByte_hostWrite]
  exact congrArg (AMap.get? · b) ((afterEntry_frame c.port c.ring _).same .hostMem rfl)

/-- The ring moves on and the command is gone. -/
theorem completionOut_queue (c : Cmd) (entry : Bytes) (s : State) :
    (completionOut c entry s).hq.rings = (setRing c.port c.ring (ringWritten (ringAt s c.port c.ring)) s).hq.rings
      ∧ (completionOut c entry s).hq.cmds = s.hq.cmds.filter fun y => y.seq != c.seq := by
  obtain ⟨defRings, defCmds⟩ := takeDefer_queue c s
  obtain ⟨rings, cmds⟩ := afterEntry_queue c.port c.ring (setCmds ((takeDefer c s).2.2.hq.cmds.filter fun y => y.seq != c.seq)
    (hostWrite ((ringAt s c.port c.ring).cqBase + 32 * (ringAt s c.port c.ring).cqTail) entry (takeDefer c s).2.2))
  refine ⟨rings.trans ?_, cmds.trans ?_⟩
  · simp only [setRing_hq, setCmds_hq, hostWrite_hq, ringAt, defRings]
  · simp only [setCmds_hq, defCmds]

theorem exec_completionWrite {q : Nat} {c : Cmd} {s : State} (found : findCmd s q = some c) (ended : c.st = .completing)
    (free : cqFull (ringAt s c.port c.ring) = false) (awake : s.cfg.dusk = none) (held : heldAhead s c = false)
    (target : targetAhead s c = false) :
    exec (.completionWrite q) s = .next (completionOut c (completionBytes c (takeDefer c s).1 (takeDefer c s).2.1
      (isWriteOp c.e.opcode && c.ring != 32 && loaded s && earlyWarning s c.e.partition) (ringAt s c.port c.ring).phase) s) := by
  show execCompletionWrite q s = _
  unfold execCompletionWrite
  rw [found, ← findCmd_seq found]
  exact if_neg (by simp [ended, free, awake, held, target])

/-- Settles O15: `completionOut` is the state after the entry; it writes 32 bytes, moves one ring on and drops one command. -/
theorem completionsGoOutOnceToTheirRing : Obligations.CompletionsGoOutOnceToTheirRing := by
  intro q c s found ended free awake held target hn
  dsimp only
  refine ⟨completionBytes_length .., rfl, _, exec_completionWrite found ended free awake held target, fun b => ?_, ?_⟩
  · rw [hostByte_completionOut, completionBytes_length]
  · generalize completionBytes c _ _ _ _ = entry
    obtain ⟨rings, cmds⟩ := completionOut_queue c entry s
    rw [findCmd_seq found] at cmds
    obtain ⟨gone, stay⟩ := findCmd_leave cmds
    have self : ringAt (completionOut c entry s) c.port c.ring = ringWritten (ringAt s c.port c.ring) := by
      rw [ringAt_of_rings rings, ringAt_setRing_self]
    refine ⟨gone, by rw [self]; rfl, by rw [self]; rfl, ringsBut_of_rings (ringsBut_setRing hn _ s) rings, fun r _ ne => stay r ne⟩

end Sys2Proof.Machine
end

/-! Queue reset, its end, and the coalescing time (R35, R71, R416). -/

section

namespace Sys2Proof.Machine

theorem dropOpenSet_hq (p : Port) (s : State) : (dropOpenSet p s).hq = s.hq := (dropOpenSet_frame p s).same .hq rfl

/-- The owner's open set is gone (R416). -/
theorem dropOpenSet_drops (p : Port) (s : State) (rs : List CfgRec) : (dropOpenSet p s).cfg.openSet ≠ some (p, rs) := by
  unfold dropOpenSet
  split
  · next q ss h =>
    by_cases e : q = p
    · rw [if_pos e]
      exact Option.some_ne_none _ ∘ Eq.symm
    · rw [if_neg e, h]
      exact fun k => e (congrArg Prod.fst (Option.some.inj k))
  · next h =>
    rw [h]
    exact Option.some_ne_none _ ∘ Eq.symm

theorem resetRing_hq (p : Port) (n : Nat) (s : State) :
    (resetRing p n s).hq = (abortWaiting p n (updRing p n (fun x => { x with resetting := true }) s)).hq := by
  unfold resetRing
  dsimp only
  split
  · exact dropOpenSet_hq ..
  · rfl

theorem exec_queueReset {p : Port} {n : Nat} {s : State} (on : (portOf s p).functionsOn = true) (hn : n ≤ 32) :
    exec (.queueReset p n) s = .next (resetRing p n s) := if_neg (by simp [on, hn])

/-- A reset of a ring sets `resetting` in it and keeps the other rings. -/
theorem resetRing_rings {p : Port} {n : Nat} (hn : n ≤ 32) (s : State) :
    ringAt (resetRing p n s) p n = { ringAt s p n with resetting := true } ∧ RingsBut p n s (resetRing p n s) := by
  have rings : (resetRing p n s).hq.rings = (updRing p n (fun x => { x with resetting := true }) s).hq.rings := by
    rw [resetRing_hq]
    exact (abortWaiting_keep p n _).rings
  exact ⟨(ringAt_of_rings rings p n).trans (ringAt_setRing_self ..), ringsBut_of_rings (ringsBut_setRing hn _ s) rings⟩

/-- A waiting command of the ring ends with ABORTED_BY_RESET (R71). -/
theorem resetRing_ends {p : Port} {n : Nat} {c : Cmd} {s : State} (found : findCmd s c.seq = some c)
    (uniq : ∀ d ∈ s.hq.cmds, d.seq = c.seq → d = c) (hp : c.port = p) (hn : c.ring = n)
    (waits : c.st = .fetched ∨ c.st = .admitted ∨ c.st = .gated)
    (untaken : c.isWrite = true → (∃ w, findWrite s c.seq = some w ∧ w.taken = false) ∨ findWrite s c.seq = none ∧ c.st = .fetched) :
    Done c Status.abortedByReset (resetRing p n s) := by
  have going : Going c Status.abortedByReset (updRing p n (fun x => { x with resetting := true }) s) :=
    ⟨c, found, .inr ⟨.refl c, untaken⟩⟩
  obtain ⟨d, hd, rest⟩ := abortWaiting_ends going (List.mem_of_find?_eq_some found) uniq hp hn waits
  exact ⟨d, (findCmd_of_hq (resetRing_hq p n s) _).trans hd, rest⟩

/-- Any other command that is no write stays as it was (R71). -/
theorem resetRing_stays {p : Port} {n : Nat} {c : Cmd} {s : State} (found : findCmd s c.seq = some c)
    (uniq : ∀ d ∈ s.hq.cmds, d.seq = c.seq → d = c)
    (other : ¬(c.port = p ∧ c.ring = n ∧ (c.st = .fetched ∨ c.st = .admitted ∨ c.st = .gated))) (nw : c.isWrite = false)
    (plain : findWrite s c.seq = none) : ∃ d, findCmd (resetRing p n s) c.seq = some d ∧ CmdLike c d := by
  have stays : Stays c (updRing p n (fun x => { x with resetting := true }) s) := by
    refine ⟨fun d hd e => ?_, List.mem_map_of_mem (List.mem_of_find?_eq_some found), fun w hw e => ?_⟩
    · rw [uniq d hd e]
      exact .refl c
    · exact List.find?_eq_none.mp plain w hw (by simpa using e)
  obtain ⟨d, hd, like⟩ := (abortWaiting_stays (p := p) (n := n) stays nw fun d hd e => by rw [uniq d hd e]; exact other).find
  exact ⟨d, (findCmd_of_hq (resetRing_hq p n s) _).trans hd, like⟩

/-- The vector of a completion ring is raised once (R35). -/
theorem raiseRing_hq (p : Port) (n : Nat) (s : State) :
    (raiseRing p n s).hq
      = { s.hq with msix := modAt s.hq.msix (portIdx p * 64 + if n = 32 then 32 else (ringAt s p n).vector) 0 (· + 1) } := by
  unfold raiseRing
  by_cases h : n = 32
  · rw [if_pos h, if_pos h]
    rfl
  · rw [if_neg h, if_neg h, raise_hq, Nat.zero_mul, Nat.add_zero]

/-- Settles O16: the waiting commands go through `abortWaiting`, whose lemmas say which end and which stay; the other two
commands set the ring itself. -/
theorem queueResetsAbortWaitingCommands : Obligations.QueueResetsAbortWaitingCommands := by
  intro p n s hn x waits
  refine ⟨fun on => ?_, fun resetting idle => ?_, fun timed unsignalled => ?_⟩
  · obtain ⟨ring, others⟩ := resetRing_rings hn s (p := p)
    refine ⟨_, exec_queueReset on hn, ring, others, fun q c found uniq ⟨hp, hn, hs⟩ untaken => ?_,
      fun q c found uniq other nw plain => ?_, fun mgmt rs => ?_⟩
    · obtain rfl := findCmd_seq found
      exact resetRing_ends found uniq hp hn hs untaken
    · obtain rfl := findCmd_seq found
      obtain ⟨d, hd, like⟩ := resetRing_stays found uniq other nw plain
      exact ⟨d, hd, like.st, like.status, like.result, like.e⟩
    · unfold resetRing
      dsimp only
      rw [if_pos mgmt]
      exact dropOpenSet_drops p _ rs
  · obtain ⟨others, hq, -⟩ := setRing_changes (p := p) hn { x with
      resetting := false, resetDone := true, tail := 0, sqHead := 0, cqHead := 0, cqTail := 0, phase := true, unsignalled := 0 } s
    exact ⟨_, if_neg (by simp [x, resetting, idle]), ringAt_setRing_self .., others, hq⟩
  · have hq := raiseRing_hq p n (setRing p n { x with unsignalled := 0 } s)
    have rings : (raiseRing p n (setRing p n { x with unsignalled := 0 } s)).hq.rings = (setRing p n { x with unsignalled := 0 } s).hq.rings := by
      rw [hq]
    refine ⟨_, if_neg (by simp [x, timed, unsignalled]), (ringAt_of_rings rings p n).trans (ringAt_setRing_self ..),
      ringsBut_of_rings (ringsBut_setRing hn _ s) rings, ?_, ?_⟩
    · rw [hq, ringAt_setRing_self]
      exact AMap.getD_set_self ..
    · rw [hq]
      rfl

end Sys2Proof.Machine
end

/-! Function level resets, link down, PERST and configuration requests (R29, R30, R72, R399, R416, R447). -/

section

namespace Sys2Proof.Machine

/-! ## Rings that stop -/

/-- A ring pair as a reset of its function leaves it. -/
def stopRing (x : Ring) : Ring := { x with enable := false, resetting := false }

theorem ringAt_updRing {p : Port} {n : Nat} (hn : n ≤ 32) (f : Ring → Ring) (s : State) (q : Port) {m : Nat} (hm : m ≤ 32) :
    ringAt (updRing p n f s) q m = if q = p ∧ m = n then f (ringAt s q m) else ringAt s q m := by
  by_cases h : q = p ∧ m = n
  · obtain ⟨rfl, rfl⟩ := h
    rw [if_pos ⟨rfl, rfl⟩]
    exact ringAt_setRing_self ..
  · rw [if_neg h]
    exact ringAt_setRing_other _ s hm hn fun e => h (Prod.mk.inj e)

/-- Stopping some rings of a port: they stop, and the others, the commands and the ports stay. -/
structure Stopped (p : Port) (ring : Nat → Prop) [DecidablePred ring] (s t : State) : Prop where
  cmds : t.hq.cmds = s.hq.cmds
  ports : ∀ q, portOf t q = portOf s q
  rings : ∀ q n, n ≤ 32 → ringAt t q n = if q = p ∧ ring n then stopRing (ringAt s q n) else ringAt s q n

theorem stopped_each {p : Port} (ns : List Nat) (le : ∀ n ∈ ns, n ≤ 32) (s : State) :
    Stopped p (· ∈ ns) s (each (fun n s => updRing p n stopRing s) ns s) := by
  induction ns generalizing s with
  | nil => exact ⟨rfl, fun _ => rfl, fun q m _ => (if_neg (by simp)).symm⟩
  | cons n ns ih =>
    obtain ⟨cmds, port, rings⟩ := ih (fun k hk => le k (List.mem_cons_of_mem _ hk)) (updRing p n stopRing s)
    refine ⟨cmds, fun q => (port q).trans (by cases q <;> rfl), fun q m hm => (rings q m hm).trans ?_⟩
    rw [ringAt_updRing (le n (List.mem_cons_self ..)) _ _ _ hm]
    by_cases hq : q = p <;> by_cases here : m = n <;> by_cases later : m ∈ ns <;> simp [hq, here, later, stopRing]

def stopDataRings (p : Port) (s : State) : State := each (fun n s => updRing p n stopRing s) (List.range 32) s

theorem stopDataRings_stopped (p : Port) (s : State) : Stopped p (· < 32) s (stopDataRings p s) := by
  have h := stopped_each (p := p) (List.range 32) (fun n h => Nat.le_of_lt (List.mem_range.mp h)) s
  refine ⟨h.cmds, h.ports, fun q n hn => (h.rings q n hn).trans ?_⟩
  simp only [List.mem_range]

/-! ## Commands that leave the table -/

/-- What remains stood there before, under its key, and is not of the kind that left. -/
theorem dropCmds_rest (k : Port × Nat × Nat → Bool) (s : State) :
    ∀ c ∈ (dropCmds (fun c => k c.key) s).hq.cmds, k c.key = false ∧ ∃ d ∈ s.hq.cmds, d.key = c.key := by
  intro c hc
  refine ⟨dropCmds_gone k s c hc, ?_⟩
  have mem : c.key ∈ (dropCmds (fun c => k c.key) s).hq.cmds.map Cmd.key := List.mem_map_of_mem hc
  rw [(dropCmds_keep (fun c => k c.key) s).cmds] at mem
  obtain ⟨d, hd, e⟩ := List.mem_map.mp mem
  exact ⟨d, (List.mem_filter.mp hd).1, e⟩

theorem dropCmds_rings (pick : Cmd → Bool) (s : State) (p : Port) (n : Nat) : ringAt (dropCmds pick s) p n = ringAt s p n :=
  (dropCmds_keep pick s).ringAt p n

theorem dropCmds_portOf (pick : Cmd → Bool) (s : State) (p : Port) : portOf (dropCmds pick s) p = portOf s p :=
  (dropCmds_keep pick s).portOf p

/-! ## Ports -/

theorem setPort_queue (p : Port) (x : PciePort) (s : State) :
    (setPort p x s).hq.rings = s.hq.rings ∧ (setPort p x s).hq.cmds = s.hq.cmds := by cases p <;> exact ⟨rfl, rfl⟩

theorem ringAt_setPort (p : Port) (x : PciePort) (s : State) (q : Port) (n : Nat) : ringAt (setPort p x s) q n = ringAt s q n :=
  ringAt_of_rings (setPort_queue p x s).1 q n

/-- Commands of the kind are gone from a port, all others that remain stood there before; the rings of the kind have stopped. -/
structure Reset (p : Port) (ring : Nat → Prop) [DecidablePred ring] (s t : State) : Prop where
  cmds : ∀ c ∈ t.hq.cmds, ¬(c.port = p ∧ ring c.ring) ∧ ∃ d ∈ s.hq.cmds, d.key = c.key
  rings : ∀ q n, n ≤ 32 → ringAt t q n = if q = p ∧ ring n then stopRing (ringAt s q n) else ringAt s q n

theorem resets_of_stopped {p : Port} {ring : Nat → Prop} [DecidablePred ring] {k : Port × Nat × Nat → Bool} {s t : State} {f : Fn}
    (h : Stopped p ring (resetFn p f (dropCmds (fun c => k c.key) s)) t)
    (kind : ∀ q n m, k (q, n, m) = true ↔ q = p ∧ ring n) : Reset p ring s t ∧ portOf t p = portOf (resetFn p f s) p := by
  have queue : ∀ u, (resetFn p f u).hq.rings = u.hq.rings ∧ (resetFn p f u).hq.cmds = u.hq.cmds := fun u => by
    cases f <;> exact setPort_queue p _ u
  refine ⟨⟨fun c hc => ?_, fun q n hn => ?_⟩, ?_⟩
  · rw [h.cmds, (queue _).2] at hc
    obtain ⟨gone, before⟩ := dropCmds_rest k s c hc
    refine ⟨fun here => ?_, before⟩
    rw [show k c.key = true from (kind c.port c.ring c.seq).mpr here] at gone
    cases gone
  · have old : ringAt (resetFn p f (dropCmds (fun c => k c.key) s)) q n = ringAt s q n :=
      (ringAt_of_rings (queue _).1 q n).trans (dropCmds_rings _ s q n)
    rw [h.rings q n hn, old]
  · rw [h.ports]
    cases f <;> simp only [resetFn, portOf_setPort_self, dropCmds_portOf]

theorem flr0_resets (p : Port) (s : State) :
    Reset p (· ≠ 32) s (flr0 p s) ∧ portOf (flr0 p s) p = { portOf s p with pf0 := {} } := by
  have h : Stopped p (· ≠ 32) (resetFn p .pf0 (dropCmds (fun c => c.port == p && c.ring != 32) s)) (flr0 p s) := by
    have h := stopDataRings_stopped p (resetFn p .pf0 (dropCmds (fun c => c.port == p && c.ring != 32) s))
    refine ⟨h.cmds, h.ports, fun q n hn => (h.rings q n hn).trans ?_⟩
    have kind : n < 32 ↔ n ≠ 32 := by omega
    simp only [kind]
  obtain ⟨reset, port⟩ := resets_of_stopped h (k := fun k => k.1 == p && k.2.1 != 32) (fun q n m => by simp)
  exact ⟨reset, port.trans (portOf_setPort_self p _ _)⟩

theorem flr1_resets (p : Port) (s : State) :
    Reset p (· = 32) s (flr1 p s) ∧ portOf (flr1 p s) p = { portOf s p with pf1 := {} } := by
  have h : Stopped p (· = 32) (resetFn p .pf1 (dropCmds (fun c => c.port == p && c.ring == 32) s)) (flr1 p s) := by
    have hq := dropOpenSet_hq p (updRing p 32 stopRing (resetFn p .pf1 (dropCmds (fun c => c.port == p && c.ring == 32) s)))
    refine ⟨(congrArg Hq.cmds hq :), fun q => (portOf_of_hq (congrArg Hq.portA hq) (congrArg Hq.portB hq) q).trans (by cases q <;> rfl),
      fun q n hn => ?_⟩
    exact (ringAt_of_rings (congrArg Hq.rings hq) q n).trans (ringAt_updRing (Nat.le_refl 32) _ _ q hn)
  obtain ⟨reset, port⟩ := resets_of_stopped h (k := fun k => k.1 == p && k.2.1 == 32) (fun q n m => by simp)
  exact ⟨reset, port.trans (portOf_setPort_self p _ _)⟩

/-- Link down is a reset of both functions, and the link goes (R72). -/
theorem linkDownOf_resets (p : Port) (s : State) :
    Reset p (fun _ => True) s (linkDownOf p s)
      ∧ portOf (linkDownOf p s) p = { portOf s p with pf0 := {}, pf1 := {}, linkUp := false, linkSpeed := 0, linkWidth := 0 } := by
  obtain ⟨first, port0⟩ := flr0_resets p s
  obtain ⟨second, port1⟩ := flr1_resets p (flr0 p s)
  refine ⟨⟨fun c hc => ?_, fun q n hn => ?_⟩, ?_⟩
  · have mem : c ∈ (flr1 p (flr0 p s)).hq.cmds := by rwa [linkDownOf, (setPort_queue p _ _).2] at hc
    obtain ⟨gone, d, hd, key⟩ := second.cmds c mem
    obtain ⟨gone', e, he, key'⟩ := first.cmds d hd
    have port : d.port = c.port := congrArg Prod.fst key
    have ring : d.ring = c.ring := congrArg (fun k => k.2.1) key
    rw [port, ring] at gone'
    exact ⟨fun ⟨hp, _⟩ => gone ⟨hp, by_contra fun h => gone' ⟨hp, h⟩⟩, e, he, key'.trans key⟩
  · rw [linkDownOf, ringAt_setPort, second.rings q n hn, first.rings q n hn]
    by_cases hq : q = p <;> by_cases h : n = 32 <;> simp [hq, h, stopRing]
  · rw [linkDownOf, portOf_setPort_self, port1, port0]

theorem domOn_linkDownOf (p : Port) (s : State) (d : Nat) : domOn (linkDownOf p s) d = domOn s d :=
  congrArg (fun m : Mgt => bit m.domains (d - 1)) ((linkDownOf_frame p s).same .mgt (by decide))

/-- The reset of a kind of ring in the words of the obligation. -/
theorem Reset.drops {p : Port} {ring : Nat → Prop} [DecidablePred ring] {s t u : State} (h : Reset p ring s t)
    (rings : u.hq.rings = t.hq.rings) (cmds : u.hq.cmds = t.hq.cmds) {k l : Nat → Prop} (gone : ∀ n, k n → ring n)
    (kept : ∀ n, n ≤ 32 → ring n → l n) :
    ((∀ c ∈ u.hq.cmds, ¬(c.port = p ∧ k c.ring)) ∧ ∀ n, n ≤ 32 → k n → (ringAt u p n).enable = false)
      ∧ ∀ q n, n ≤ 32 → ¬(q = p ∧ l n) → ringAt u q n = ringAt s q n := by
  refine ⟨⟨fun c hc ⟨hp, hk⟩ => (h.cmds c (cmds ▸ hc)).1 ⟨hp, gone _ hk⟩, fun n hn hk => ?_⟩, fun q n hn other => ?_⟩
  · rw [ringAt_of_rings rings, h.rings p n hn, if_pos ⟨rfl, gone n hk⟩]
    rfl
  · rw [ringAt_of_rings rings, h.rings q n hn, if_neg fun ⟨hp, hr⟩ => other ⟨hp, kept n hn hr⟩]

/-! ## Configuration requests (R29, R30) -/

/-- A port after it has answered a configuration request of an enabled function. -/
def configured (s : State) (p : Port) (f : Fn) (r : CfgReq) : PciePort :=
  let x := portOf s p
  let ok := match pcieRec s p with | some v => bit v 5 | none => false
  let y := { x with cfgRetry := some false, cfgAnswer := cfgRead x f r }
  match f with
  | .pf0 => { y with pf0 := cfgSet ok x.pf0 r }
  | .pf1 => { y with pf1 := cfgSet ok x.pf1 r }

theorem exec_configRequest {p : Port} {s : State} (f : Fn) (r : CfgReq) (up : (portOf s p).linkUp = true)
    (on : (portOf s p).functionsOn = true) : exec (.pcieConfigRequest p f r) s = .next (setPort p (configured s p f r) s) := by
  have live : ¬(portOf s p).linkUp = false := by simp [up]
  have enabled : ¬(portOf s p).functionsOn = false := by simp [on]
  cases f <;> exact (if_neg live).trans (if_neg enabled)

theorem configured_answer (s : State) (p : Port) (f : Fn) (r : CfgReq) :
    (configured s p f r).cfgRetry = some false ∧ (configured s p f r).cfgAnswer = cfgRead (portOf s p) f r := by
  cases f <;> exact ⟨rfl, rfl⟩

/-- A maximum payload that R29 lists is taken, any other is not. -/
theorem cfgSet_maxPayload (ok : Bool) (x : PcieFn) (n : Nat) :
    (cfgSet ok x (.maxPayload n)).maxPayload = if n = 128 ∨ n = 256 ∨ n = 512 then n else x.maxPayload := by
  unfold cfgSet
  by_cases h : n = 128 ∨ n = 256 ∨ n = 512
  · simp only [if_pos h]
    rw [if_pos (by simpa using h)]
  · simp only [if_neg h]
    rw [if_neg (by simpa using h)]

/-- Settles O17: each reset is `dropCmds` on a kind of ring and `stopRing` on its rings; the port's own fields are set outright. -/
theorem portsDropTheirCommandsAndRetrain : Obligations.PortsDropTheirCommandsAndRetrain := by
  intro p s gone others
  obtain ⟨zero, port0⟩ := flr0_resets p s
  obtain ⟨one, port1⟩ := flr1_resets p s
  obtain ⟨both, link⟩ := linkDownOf_resets p s
  refine ⟨⟨_, rfl, ?_⟩, ⟨_, rfl, ?_⟩, ⟨_, rfl, ?_⟩, ⟨_, rfl, ?_⟩, fun perst => ⟨_, if_pos perst, rfl⟩,
    fun v w training perst => ⟨_, if_pos ⟨training, perst⟩, rfl⟩, fun f r up off => ?_, fun f r up on => ?_⟩
  · obtain ⟨g, o⟩ := zero.drops rfl rfl (k := (· < 32)) (l := (· < 32)) (fun n h => by omega) (fun n h k => by omega)
    exact ⟨g, o, port0⟩
  · obtain ⟨g, o⟩ := one.drops rfl rfl (k := (· = 32)) (l := (· = 32)) (fun n h => h) (fun n h k => k)
    exact ⟨g, o, port1⟩
  · obtain ⟨g, o⟩ := both.drops (setPort_queue p _ _).1 (setPort_queue p _ _).2 (k := fun n => n ≤ 32 ∨ 32 < n) (l := (· ≤ 32))
      (fun _ _ => trivial) (fun n h _ => h)
    refine ⟨g, o, ?_⟩
    rw [portOf_setPort_self, link, domOn_linkDownOf]
  · obtain ⟨g, o⟩ := both.drops (setPort_queue p _ _).1 (setPort_queue p _ _).2 (k := fun n => n ≤ 32 ∨ 32 < n) (l := (· ≤ 32))
      (fun _ _ => trivial) (fun n h _ => h)
    refine ⟨g, o, ?_⟩
    rw [portOf_setPort_self, link]
  · refine ⟨_, (if_neg (by simp [up])).trans (if_pos off), rfl⟩
  · refine ⟨_, exec_configRequest f r up on, ?_⟩
    obtain ⟨retry, answer⟩ := configured_answer s p f r
    simp only [portOf_setPort_self]
    refine ⟨(setPort_frame p _ s).only [.hq] rfl, trivial, retry, ?_, ?_, ?_, ?_, ?_, ?_, ?_, ?_⟩
    · rintro rfl; rw [answer]; cases f <;> rfl
    · rintro rfl; rw [answer]; cases f <;> rfl
    · rintro rfl; rw [answer]; cases f <;> rfl
    · rintro rfl; rw [answer]; cases f <;> rfl
    · rintro rfl; rw [answer]; cases f <;> rfl
    · rintro rfl; rfl
    · rintro rfl; rfl
    · rintro n rfl
      cases f
      · exact cfgSet_maxPayload (match pcieRec s p with | some v => bit v 5 | none => false) _ n
      · exact cfgSet_maxPayload (match pcieRec s p with | some v => bit v 5 | none => false) _ n

end Sys2Proof.Machine
end

/-! Reads: delivery, malformed streams, end of data, Gate locks (R48, R62, R63, R115, R116). -/

section

namespace Sys2Proof.Machine

/-! ## Host memory as a function of host memory -/

theorem hostWrite_congr {s t : State} (h : t.hostMem = s.hostMem) (a : Nat) (bs : Bytes) :
    (hostWrite a bs t).hostMem = (hostWrite a bs s).hostMem := by
  unfold hostWrite
  rw [h]

theorem sglWrite_congr (sgl : List ScatterElem) (skip : Nat) (bs : Bytes) {s t : State} (h : t.hostMem = s.hostMem) :
    (sglWrite sgl skip bs t).hostMem = (sglWrite sgl skip bs s).hostMem := by
  induction sgl generalizing skip bs s t with
  | nil => exact h
  | cons x xs ih =>
    unfold sglWrite
    split
    · exact ih _ _ h
    · exact ih _ _ (hostWrite_congr h _ _)

/-! ## A read that ends -/

theorem partAt_of_parts {s t : State} (h : t.parts = s.parts) (p : Nat) : partAt t p = partAt s p := by
  unfold partAt
  rw [h]

/-- A status that counts no key event leaves the counters alone (R134). -/
theorem complete_ctrs {st : Nat} (e : st ≠ Status.keyErased) (x : st ≠ Status.keyExhausted) (q r : Nat) (s : State) :
    (complete q st r s).ctrs = s.ctrs := by
  unfold complete countKey
  rw [if_neg e, if_neg x]
  rfl

theorem stopRead_ctrs {q : Nat} {c : Cmd} {s : State} (h : findCmd s q = some c) {st : Nat} (e : st ≠ Status.keyErased)
    (x : st ≠ Status.keyExhausted) : (stopRead q st s).ctrs = s.ctrs := by
  unfold stopRead
  rw [h]
  exact (complete_ctrs e x ..).trans ((unlock_frame _ _).same .ctrs (by decide))

/-- The status and the result of a read that stops (R48). -/
theorem stopRead_ended {q : Nat} {c : Cmd} {s : State} (h : findCmd s q = some c) (st : Nat) :
    Ended (stopRead q st s) q st (c.delivered % 2 ^ 40 + c.entries % 2 ^ 24 * 2 ^ 40) :=
  ⟨_, (stopRead_find h st).1, rfl, rfl, rfl⟩

theorem runningCmd_iff {s : State} {q op : Nat} {c : Cmd} :
    runningCmd s q op = some c ↔ findCmd s q = some c ∧ c.st = .running ∧ c.e.opcode = op := by
  constructor
  · exact fun h => ⟨runningCmd_find h, runningCmd_st h⟩
  · rintro ⟨found, runs⟩
    unfold runningCmd
    rw [found]
    exact if_pos runs

/-! ## Delivery (R48, R115) -/

/-- A read's command after one more whole record of n bytes. -/
def recordTaken (n : Nat) (c : Cmd) : Cmd :=
  { c with next := c.next + 1, delivered := c.delivered + n, entries := c.entries + 1, part := [], pkt := 0 }

/-- Host memory after the last record of a read: its data, its length list entry, its header data (R42, R48). -/
def recordOut (c : Cmd) (hdr data : Bytes) (s : State) : State :=
  let u := writeEntry c (lengthEntry data.length hdr.length false) (sglWrite c.sgl c.delivered data s)
  if c.e.headerLen = 0 then u else hostWrite (c.e.headerAddr + c.entries * c.e.headerLen) (hdr.take c.e.headerLen) u

theorem lengthEntry_record (len hdr : Nat) : lengthEntry len hdr false = len % 2 ^ 25 + hdr % 512 * 2 ^ 32 := by
  unfold lengthEntry
  rw [show b2n false = 0 from rfl, Nat.zero_mul, Nat.add_zero]

theorem recordOut_hq (c : Cmd) (hdr data : Bytes) (s : State) : (recordOut c hdr data s).hq = s.hq := by
  have k : (sglWrite c.sgl c.delivered data s).hq = s.hq := (sglWrite_frame ..).same .hq rfl
  unfold recordOut
  dsimp only
  split <;> exact k

theorem recordOut_congr (c : Cmd) (hdr data : Bytes) {s t : State} (h : t.hostMem = s.hostMem) :
    (recordOut c hdr data t).hostMem = (recordOut c hdr data s).hostMem := by
  have k := hostWrite_congr (sglWrite_congr c.sgl c.delivered data h) (c.e.auxAddr + 8 * c.entries)
    (le 8 (lengthEntry data.length hdr.length false))
  unfold recordOut
  dsimp only
  split
  · exact k
  · exact hostWrite_congr k _ _

/-- The last record of a read reaches host memory whole, and the read stops. -/
theorem putRecord_last {q : Nat} {c : Cmd} {s : State} (found : findCmd s q = some c) (last : c.e.count ≤ c.entries + 1)
    (hdr data : Bytes) :
    putRecord q hdr data s = stopRead q Status.ok (updPart c.e.partition (fun x => { x with current := c.next + 1 })
      (updCmd q (recordTaken data.length) (recordOut c hdr data s))) := by
  unfold putRecord
  rw [found]
  dsimp only
  rw [if_pos last]
  rfl

/-- The read has ended OK with the record counted in; the current record is the one after it. -/
theorem putRecord_last_ends {q : Nat} {c : Cmd} {s : State} (found : findCmd s q = some c) (last : c.e.count ≤ c.entries + 1)
    (hdr data : Bytes) :
    Ended (putRecord q hdr data s) q Status.ok ((c.delivered + data.length) % 2 ^ 40 + (c.entries + 1) % 2 ^ 24 * 2 ^ 40)
      ∧ (partAt (putRecord q hdr data s) c.e.partition).current = c.next + 1
      ∧ (putRecord q hdr data s).hostMem = (recordOut c hdr data s).hostMem := by
  rw [putRecord_last found last]
  generalize hv : recordOut c hdr data s = v
  have vfound : findCmd v q = some c := by rw [← hv, findCmd_of_hq (recordOut_hq ..), found]
  have taken : findCmd (updPart c.e.partition (fun x => { x with current := c.next + 1 }) (updCmd q (recordTaken data.length) v)) q
      = some (recordTaken data.length c) := by
    rw [findCmd_of_hq (updPart_hq ..), findCmd_updCmd q (recordTaken data.length) (fun _ => rfl), vfound]
    rfl
  refine ⟨stopRead_ended taken _, ?_, ?_⟩
  · rw [partAt_of_parts ((stopRead_frame _ _ _).same .parts (by decide)), partAt_updPart_self]
  · rw [stopRead_hostMem]
    rfl

/-- A packet with one record, whole and with room for it, is that record's delivery. -/
theorem deliver_whole {q : Nat} {c : Cmd} {s : State} (run : runningCmd s q 0x02 = some c) (seen : c.next < c.endSeen) (first : c.pkt = 0)
    {data : Bytes} {off len : Nat} (whole : (slice data off len).length = len) (room : c.delivered + len ≤ c.e.length) (hdr : Bytes) :
    deliver q data [(c.next, off, len, hdr)] s = putRecord q hdr (slice data off len) s := by
  have found := runningCmd_find run
  have wanted : wants s q c.next = true := by
    unfold wants
    rw [run]
    simp [seen]
  unfold deliver
  rw [found]
  dsimp only
  rw [if_pos first]
  show deliverStart q data (c.next, off, len, hdr) s = _
  simp only [deliverStart, wanted, found, Bool.true_eq_false, if_false]
  rw [if_neg (by simp [first]), if_neg (by omega), if_pos whole]

/-! ## What an engine does with a read's packet (R105, R116) -/

/-- The state in which an engine has given a read's packet back. -/
def engineFreed (e q : Nat) (s : State) : State :=
  updCmd q (fun c => { c with hold := none }) (setEngine e { engineAt s e with job := .idle } s)

theorem engineFreed_running {e q : Nat} {c : Cmd} {s : State} (run : runningCmd s q 0x02 = some c) :
    runningCmd (engineFreed e q s) q 0x02 = some { c with hold := none } := by
  obtain ⟨found, st, op⟩ := runningCmd_iff.mp run
  refine runningCmd_iff.mpr ⟨?_, st, op⟩
  have k := findCmd_updCmd q (fun c => { c with hold := none }) (fun _ => rfl) (setEngine e { engineAt s e with job := .idle } s)
  exact k.trans (by rw [show findCmd (setEngine e _ s) q = some c from found]; rfl)

theorem engineFreed_idle (e q : Nat) (s : State) : (engineAt (engineFreed e q s) e).job = .idle :=
  congrArg Engine.job (engineAt_setEngine_self e { engineAt s e with job := .idle } s)

section Expansion

variable {e q : Nat} {c : Cmd} {h : HoldPkt} {s : State} (job : (engineAt s e).job = .read q) (inService : engineIn s e = true)
  (run : runningCmd s q 0x02 = some c) (held : c.hold = some h)

include job inService run held

/-- DECOMPRESSION_DONE of a good stream delivers it. -/
theorem exec_decompressionDone_ok {data : Bytes} (good : dlzDecode h.hostLen h.payload = .ok data) :
    exec (.decompressionDone e) s = .next (deliver q data h.starts (inc (engCtr e 5) (engineFreed e q s))) := by
  show execDecompressionDone e s = _
  unfold execDecompressionDone
  simp only [job, inService, run, Option.bind_some, held, good]
  rfl

/-- DECOMPRESSION_DONE of a malformed one stops the read, counted and recorded. -/
theorem exec_decompressionDone_error {b : DlzBad} (bad : dlzDecode h.hostLen h.payload = .error b) :
    ∃ u, exec (.decompressionDone e) s = .next (stopRead q Status.readError u) ∧ u.hq = (engineFreed e q s).hq
      ∧ u.cmp = { (engineFreed e q s).cmp with malKind := b.kind, malEngine := e, malOffset := b.offset } ∧ u.hostMem = s.hostMem
      ∧ ∀ o, o ≠ 0x110020 → ctr u o = ctr (inc (engCtr e 7) s) o := by
  let v := { engineFreed e q s with cmp := { (engineFreed e q s).cmp with malKind := b.kind, malEngine := e, malOffset := b.offset } }
  refine ⟨postEvent (Src.cmp e) 0x03 0x03 false (malformedWord b.kind e b.offset) (inc (engCtr e 7) v), ?_, ?_, ?_, ?_, fun o ne => ?_⟩
  · show execDecompressionDone e s = _
    unfold execDecompressionDone
    simp only [job, inService, run, Option.bind_some, held, bad]
    rfl
  · exact (postEvent_frame ..).same .hq rfl
  · exact (postEvent_frame ..).same .cmp rfl
  · exact (postEvent_frame ..).same .hostMem rfl
  · unfold postEvent
    rw [ctr_pushMgt ne, ctr_inc, ctr_inc]
    rfl

end Expansion

/-! ## Gate locks (R62, R63) -/

/-- With a lock free, a waiting read gets one on the version it needs, and runs. -/
theorem gateRead_locks {q n : Nat} {w : Write} {s : State} (fresh : (s.hq.gates.any fun g => g.seq == q && g.write == w.seq && g.first == n) = false)
    (free : s.hq.gates.length < 1024) : gateRead q n w s = lockFor q n w (setSt q .running s) := by
  unfold gateRead
  rw [if_neg (by rw [fresh]; exact Bool.false_ne_true)]
  exact if_pos (decide_eq_true free)

/-- A read without a packet in hand that has reached the accepted end it sees ends there. -/
theorem readStep_end {q : Nat} {c : Cmd} {s : State} (run : runningCmd s q 0x02 = some c) (empty : c.hold = none)
    (stop : c.endSeen ≤ c.next) : readStep q s = (none, putEnd q s) := by
  unfold readStep
  simp only [run, empty, Option.isSome_none, Bool.false_eq_true, if_false, if_pos stop]

/-- Settles O20: DECOMPRESSION_DONE is a delivery or a stop, READ_DECRYPT at the end `putEnd`, and the locks are `lockFor` and `unlock`. -/
theorem readsDeliverRecordsUnderTheirLocks : Obligations.ReadsDeliverRecordsUnderTheirLocks := by
  intro s
  refine ⟨fun e q c h b job inService run held bad lt => ?_, fun e q c h data off len hdr job inService run held good starts seen first whole room last => ?_,
    fun q c run empty stop => ?_, fun c w free gated found version fresh => ?_, fun q => ⟨_, rfl, unlock_hq _ _⟩⟩
  · obtain ⟨u, runs, hq, cmp, mem, ctrs⟩ := exec_decompressionDone_error job inService run held bad
    have found := (findCmd_of_hq hq q).trans (runningCmd_find (engineFreed_running (e := e) run))
    have stop := stopRead_frame q Status.readError u
    have scmp : (stopRead q Status.readError u).cmp = u.cmp := stop.same .cmp (by decide)
    have idle : (engineAt (stopRead q Status.readError u) e).job = .idle := by
      unfold engineAt
      rw [scmp, cmp]
      exact engineFreed_idle e q s
    refine ⟨_, runs, idle, stopRead_ended found _, ?_, by rw [scmp, cmp], by rw [scmp, cmp], by rw [scmp, cmp], (stopRead_hostMem ..).trans mem⟩
    have same : ctr (stopRead q Status.readError u) (0x03011C + 0x20 * e) = ctr u (0x03011C + 0x20 * e) :=
      congrArg (AMap.getD · (0x03011C + 0x20 * e) 0) (stopRead_ctrs found (by decide) (by decide))
    have off : engCtr e 7 = 0x03011C + 0x20 * e := by unfold engCtr; omega
    rw [same, ctrs _ (by omega), off, ctr_inc, if_pos rfl]
  · intro u
    have runs := exec_decompressionDone_ok job inService run held good
    obtain ⟨v, hv⟩ : ∃ v, v = inc (engCtr e 5) (engineFreed e q s) := ⟨_, rfl⟩
    have run' : runningCmd v q 0x02 = some { c with hold := none } := by rw [hv]; exact engineFreed_running run
    have mem : v.hostMem = s.hostMem := by rw [hv]; rfl
    rw [starts, ← hv, deliver_whole run' seen first whole room hdr] at runs
    obtain ⟨ended, current, out⟩ := putRecord_last_ends (runningCmd_find run') last hdr (slice data off len)
    have idle : (engineAt (putRecord q hdr (slice data off len) v) e).job = .idle := by
      rw [engineAt_of_cmp ((putRecord_frame q hdr (slice data off len) v).same .cmp (by decide)), hv]
      exact engineFreed_idle e q s
    rw [whole] at ended
    refine ⟨_, runs, idle, ended, current, out.trans ((recordOut_congr _ hdr _ mem).trans ?_)⟩
    unfold recordOut
    rw [whole, lengthEntry_record]
    rfl
  · have found := runningCmd_find run
    have marked : findCmd (updCmd q (fun c => { c with eodHit := true }) s) q = some { c with eodHit := true } := by
      rw [findCmd_updCmd q (fun c => { c with eodHit := true }) (fun _ => rfl), found]
      rfl
    obtain ⟨ended, gates⟩ := stopRead_find marked Status.ok
    refine ⟨putEnd q s, ?_, ⟨_, ended, rfl, rfl, rfl, rfl⟩, gates⟩
    show execReadDecrypt q s = _
    unfold execReadDecrypt
    rw [readStep_end run empty stop]
    rfl
  · obtain ⟨gates, writes⟩ := lockFor_lock c.seq c.next w (setSt c.seq .running s)
    refine ⟨lockFor c.seq c.next w (setSt c.seq .running s), ?_, gates, lockFor_find (setSt_find found .running) c.next w, writes⟩
    show execGateLockGrant s = _
    unfold execGateLockGrant
    rw [if_neg (by simp [gateFree, free]), gated]
    dsimp only
    rw [version]
    exact congrArg go (gateRead_locks fresh free)

end Sys2Proof.Machine
end

/-! READ_RECORDS begins; READ_POSITION, GET_LOG and GET_FEATURE answer (R48, R49, R52, R53, R470). -/

section

namespace Sys2Proof.Machine

theorem noPart_eq_not_partPresent (s : State) (p : Nat) : noPart s p = !partPresent s p := by
  unfold noPart partPresent
  by_cases h : (partAt s p).wraps = 0
  · simp [h]
  · simp [h, Nat.pos_of_ne_zero h]

theorem complete_hostMem (q st r : Nat) (s : State) : (complete q st r s).hostMem = s.hostMem := (complete_frame q st r s).same .hostMem rfl

theorem complete_gates (q st r : Nat) (s : State) : (complete q st r s).hq.gates = s.hq.gates := by
  unfold complete
  rw [countKey_hq]
  rfl

/-! ## READ_RECORDS (R48, R62, R470) -/

/-- The fields of a READ_RECORDS are in range. -/
def ReadFieldsGood (e : SqEntry) (sgl : Bytes) : Prop :=
  0 < e.count ∧ e.count ≤ 4096 ∧ e.headerLen ≤ 256 ∧ sglOk e sgl e.length = true

theorem readFieldsGood_iff (e : SqEntry) (sgl : Bytes) :
    ¬(e.count = 0 ∨ 4096 < e.count ∨ 256 < e.headerLen ∨ sglOk e sgl e.length = false) ↔ ReadFieldsGood e sgl := by
  simp only [ReadFieldsGood, not_or, not_lt, Nat.pos_iff_ne_zero, Bool.not_eq_false, ne_eq]

/-- A READ_RECORDS as it begins: it sees the accepted end of that moment (R48). -/
def readBegun (s : State) (sgl : Bytes) (c : Cmd) : Cmd :=
  { c with st := .running, sgl := sglOf c.e sgl, next := c.e.position, endSeen := (partAt s c.e.partition).acceptedEnd }

section ReadRecords

variable {s : State} {q : Nat} {c : Cmd} {sgl : Bytes} (turn : due s q 0x02 = some c)

include turn

theorem exec_readRecords_bad (bad : ¬ReadFieldsGood c.e sgl) : exec (.readRecords q sgl) s = .next (complete q Status.invalidField 0 s) := by
  show execReadRecords q sgl s = _
  unfold execReadRecords
  rw [turn]
  exact if_pos (by_contra fun h => bad ((readFieldsGood_iff _ _).mp h))

theorem exec_readRecords_notReady (good : ReadFieldsGood c.e sgl) (out : serving s = false) :
    exec (.readRecords q sgl) s = .next (complete q Status.notReady 0 s) := by
  show execReadRecords q sgl s = _
  unfold execReadRecords
  rw [turn]
  exact (if_neg ((readFieldsGood_iff _ _).mpr good)).trans (if_pos out)

theorem exec_readRecords_begins (good : ReadFieldsGood c.e sgl) (ready : serving s = true) (part : partPresent s c.e.partition = true) :
    exec (.readRecords q sgl) s = .next (match firstLock (updCmd q (fun _ => readBegun s sgl c) s) (readBegun s sgl c) with
      | some w => gateRead q c.e.position w (updCmd q (fun _ => readBegun s sgl c) s)
      | none => updCmd q (fun _ => readBegun s sgl c) s) := by
  show execReadRecords q sgl s = _
  unfold execReadRecords
  rw [turn]
  dsimp only
  rw [if_neg ((readFieldsGood_iff _ _).mpr good), if_neg (by simp [ready]), if_neg (by simp [noPart_eq_not_partPresent, part])]
  show (match firstLock (updCmd q (fun _ => readBegun s sgl c) s) (readBegun s sgl c) with | some w => _ | none => _) = _
  cases firstLock (updCmd q (fun _ => readBegun s sgl c) s) (readBegun s sgl c) <;> rfl

theorem readBegun_find : findCmd (updCmd q (fun _ => readBegun s sgl c) s) q = some (readBegun s sgl c) :=
  findCmd_updCmd_const (due_find turn) (readBegun s sgl c) (findCmd_seq (c := c) (due_find turn))

end ReadRecords

/-! ## Logs and features (R52, R53) -/

theorem noteCmd_keeps (op : Nat) (s : State) : (noteCmd op s).hq = s.hq ∧ (noteCmd op s).hostMem = s.hostMem ∧ (noteCmd op s).shd = s.shd := by
  unfold noteCmd
  split <;> exact ⟨rfl, rfl, rfl⟩

theorem low_byte (v : Nat) : bits v 7 0 = v % 256 := by simp [bits]

theorem exec_getLog {s : State} {q : Nat} {c : Cmd} {sgl : Bytes} (turn : due s q 0x10 = some c) :
    exec (.getLog q sgl) s = .next
      (if c.e.param % 256 = 0 ∨ 4 < c.e.param % 256 ∨ sglOk c.e sgl c.e.length = false then complete q Status.invalidField 0 s
       else
        let u := if c.e.param % 256 = 4 then readDies s else s
        let out := logRead u (c.e.param % 256) c.e.position c.e.length
        noteCmd 0x10 (complete q Status.ok out.length (sglWrite (sglOf c.e sgl) 0 out u))) := by
  show execGetLog q sgl s = _
  unfold execGetLog
  rw [turn]
  dsimp only
  rw [low_byte]
  split <;> rfl

theorem exec_getFeature {s : State} {q : Nat} {c : Cmd} (turn : due s q 0x12 = some c) :
    exec (.getFeature q) s = .next (match featureValue s c with
      | some v => complete q Status.ok v s
      | none => complete q Status.invalidField 0 s) := by
  show execGetFeature q s = _
  unfold execGetFeature
  rw [turn]
  dsimp only
  cases featureValue s c <;> rfl

/-- Features 1 to 3 have a value, any other has none (R53). -/
theorem featureValue_eq (s : State) (c : Cmd) :
    featureValue s c = if c.e.param % 256 = 1 then
        some ((ringAt s c.port (bits c.e.param 12 8)).coalCount + (ringAt s c.port (bits c.e.param 12 8)).coalTime * 65536)
      else if c.e.param % 256 = 2 then some (partAt s c.e.partition).ewReserve
      else if c.e.param % 256 = 3 then some (Cfgw.exposureMiB s) else none := by
  unfold featureValue
  rw [low_byte]
  split
  · next h => rw [if_pos h]
  · next h => rw [h]; rfl
  · next h => rw [h]; rfl
  · next h1 h2 h3 => rw [if_neg h1, if_neg h2, if_neg h3]

/-- Settles O22: each command's own equation gives its branch; the read's begin is `readBegun`, its lock `lockFor`. -/
theorem readsBeginAndQueriesAnswer : Obligations.ReadsBeginAndQueriesAnswer := by
  intro s q c
  refine ⟨fun sgl turn => ?_, fun turn aligned present => ?_, fun sgl turn => ?_, fun turn => ?_⟩
  · intro d good
    have begun : findCmd (updCmd q (fun _ => d) s) q = some d := readBegun_find turn
    have found := due_find turn
    refine ⟨fun fields ready part => ⟨fun alone => ?_, fun w lock fresh => ⟨fun free => ?_, fun full => ?_⟩⟩,
      fun bad => ⟨_, exec_readRecords_bad turn bad, .complete found ..⟩, fun fields out => ⟨_, exec_readRecords_notReady turn fields out, .complete found ..⟩⟩
    · have runs := exec_readRecords_begins turn fields ready part
      rw [show firstLock (updCmd q (fun _ => readBegun s sgl c) s) (readBegun s sgl c) = none from alone] at runs
      exact ⟨_, runs, begun, rfl⟩
    · have runs := exec_readRecords_begins turn fields ready part
      rw [show firstLock (updCmd q (fun _ => readBegun s sgl c) s) (readBegun s sgl c) = some w from lock] at runs
      dsimp only at runs
      rw [gateRead_locks (s := updCmd q (fun _ => readBegun s sgl c) s) fresh free] at runs
      exact ⟨_, runs, lockFor_find (setSt_find begun .running) _ w, (lockFor_lock ..).1⟩
    · have runs := exec_readRecords_begins turn fields ready part
      rw [show firstLock (updCmd q (fun _ => readBegun s sgl c) s) (readBegun s sgl c) = some w from lock] at runs
      have waits : gateRead q c.e.position w (updCmd q (fun _ => readBegun s sgl c) s) = setSt q .gated (updCmd q (fun _ => readBegun s sgl c) s) := by
        unfold gateRead
        have busy : gateFree (updCmd q (fun _ => readBegun s sgl c) s) = false := decide_eq_false (Nat.not_lt_of_le full)
        rw [if_neg (by rw [updCmd_hq, fresh]; exact Bool.false_ne_true), busy]
        rfl
      dsimp only at runs
      rw [waits] at runs
      exact ⟨_, runs, setSt_find begun .gated, rfl⟩
  · intro x page
    have written : page = positionPage s c.e.partition := rfl
    have len : page.length = 64 := by
      simp only [page]
      split <;> simp
    refine ⟨len, complete q Status.ok (if loaded s then x.current else 0) (hostWrite c.e.auxAddr page s), ?_,
      .complete (s := hostWrite c.e.auxAddr page s) (due_find turn) .., fun a => ?_⟩
    · show execReadPosition q s = _
      unfold execReadPosition
      rw [turn]
      refine if_neg ?_
      rintro (odd | ⟨on, missing⟩)
      · exact odd aligned
      · rw [noPart_eq_not_partPresent, present on] at missing
        cases missing
    · rw [← len, ← hostByte_hostWrite]
      exact congrArg (AMap.get? · a) (complete_hostMem ..)
  · intro log u out
    refine ⟨fun low high list => ?_, fun bad => ?_⟩
    · have fine : ¬(log = 0 ∨ 4 < log ∨ sglOk c.e sgl c.e.length = false) := by
        rw [list]
        simp
        omega
      refine ⟨_, (exec_getLog turn).trans (congrArg _ (if_neg fine)), ?_⟩
      obtain ⟨hq, mem, shd⟩ := noteCmd_keeps 0x10 (complete q Status.ok out.length (sglWrite (sglOf c.e sgl) 0 out u))
      have found : findCmd (sglWrite (sglOf c.e sgl) 0 out u) q = some c := by
        have uhq : u.hq = s.hq := by simp only [u]; split <;> rfl
        rw [findCmd_of_frame (sglWrite_frame ..) (by decide), findCmd_of_hq uhq, due_find turn]
      obtain ⟨d, hd, rest⟩ := Ended.complete found Status.ok out.length
      refine ⟨⟨d, (findCmd_of_hq hq q).trans hd, rest⟩, mem.trans (complete_hostMem ..), shd.trans ?_⟩
      exact ((complete_frame ..).same .shd rfl).trans ((sglWrite_frame ..).same .shd rfl)
    · exact ⟨_, (exec_getLog turn).trans (congrArg _ (if_pos bad)), .complete (due_find turn) .., complete_hostMem ..⟩
  · intro f ring
    have runs := exec_getFeature turn
    rw [featureValue_eq] at runs
    have found := due_find turn
    refine ⟨fun h => ?_, fun h => ?_, fun h => ?_, fun h => ?_⟩
    · rw [if_pos h] at runs
      exact ⟨_, runs, .complete found ..⟩
    · rw [if_neg (by omega), if_pos h] at runs
      exact ⟨_, runs, .complete found ..⟩
    · rw [if_neg (by omega), if_neg (by omega), if_pos h] at runs
      exact ⟨_, runs, .complete found ..⟩
    · rw [if_neg (by omega), if_neg (by omega), if_neg (by omega)] at runs
      exact ⟨_, runs, .complete found ..⟩

end Sys2Proof.Machine
end

/-! SYNC and ABORT (R60, R65, R69, R70, R470). -/

section

namespace Sys2Proof.Machine

theorem Ended.of_hq {s t : State} {q st r : Nat} (h : Ended s q st r) (e : t.hq = s.hq) : Ended t q st r := by
  obtain ⟨d, hd, rest⟩ := h
  exact ⟨d, (findCmd_of_hq e q).trans hd, rest⟩

theorem updCmd_find {s : State} {q : Nat} {c : Cmd} (h : findCmd s q = some c) (f : Cmd → Cmd) (hf : ∀ c, (f c).seq = c.seq) :
    findCmd (updCmd q f s) q = some (f c) := by
  rw [findCmd_updCmd q f hf, h]
  rfl

/-! ## SYNC (R60) -/

/-- A SYNC whose coverage no error blocks and is at its level completes. -/
theorem trySync_reached {s : State} {q : Nat} {c : Cmd} (run : runningCmd s q 0x03 = some c)
    (free : (c.covers.find? fun x => blocksSync s x.1 x.2 (bits c.e.flags 1 0)) = none)
    (reached : (c.covers.all fun x => decide (x.2 ≤ markOf (partAt s x.1) (bits c.e.flags 1 0))) = true) :
    trySync q s = complete q Status.ok
      ((((c.covers.find? fun x => x.1 == c.e.partition).map Prod.snd).getD 0) % 2 ^ 48 + c.e.partition * 2 ^ 48) s := by
  unfold trySync
  rw [run]
  dsimp only
  rw [free]
  exact if_pos reached

/-- One with records short of its level runs on. -/
theorem trySync_waits {s : State} {q : Nat} {c : Cmd} (run : runningCmd s q 0x03 = some c)
    (free : (c.covers.find? fun x => blocksSync s x.1 x.2 (bits c.e.flags 1 0)) = none)
    (short : (c.covers.all fun x => decide (x.2 ≤ markOf (partAt s x.1) (bits c.e.flags 1 0))) = false) : trySync q s = s := by
  unfold trySync
  rw [run]
  dsimp only
  rw [free]
  exact if_neg (by rw [short]; exact Bool.false_ne_true)

/-- One that an error blocks ends with DEFERRED_WRITE_ERROR. -/
theorem trySync_blocked {s : State} {q o e : Nat} {c : Cmd} (run : runningCmd s q 0x03 = some c)
    (error : (c.covers.find? fun x => blocksSync s x.1 x.2 (bits c.e.flags 1 0)) = some (o, e)) :
    trySync q s = complete q Status.deferredWriteError (markOf (partAt s o) (bits c.e.flags 1 0) % 2 ^ 48 + o * 2 ^ 48) s := by
  unfold trySync
  rw [run]
  dsimp only
  rw [error]

/-- A SYNC of one partition as it begins: it covers the records up to the accepted end. -/
def syncBegun (s : State) (p : Nat) (c : Cmd) : Cmd := { c with st := .running, covers := [(p, (partAt s p).acceptedEnd)] }

/-- A due SYNC of one partition: padding apart, which is the Shed's, its state is `trySync` on its coverage. -/
theorem exec_sync_one {s : State} {q : Nat} {c : Cmd} (turn : due s q 0x03 = some c) (on : loaded s = true)
    (one : bit c.e.flags 2 = false) (part : partPresent s c.e.partition = true) :
    ∃ u t, exec (.sync q) s = .next t ∧ t.hq = (trySync q u).hq ∧ runningCmd u q 0x03 = some (syncBegun s c.e.partition c)
      ∧ u.parts = s.parts ∧ ∀ p stop level, blocksSync u p stop level = blocksSync s p stop level := by
  obtain ⟨u, hu⟩ : ∃ u, u = updCmd q (syncBegun s c.e.partition) s := ⟨_, rfl⟩
  have run : runningCmd u q 0x03 = some (syncBegun s c.e.partition c) :=
    runningCmd_iff.mpr ⟨by rw [hu]; exact updCmd_find (due_find turn) _ fun _ => rfl, rfl, due_op (c := c) turn⟩
  have runs : exec (.sync q) s = .next (if 1 ≤ bits c.e.flags 1 0 ∧ (runningCmd (trySync q u) q 0x03).isSome ∧ (trySync q u).shd.ready
      then padStream 0 (trySync q u) else trySync q u) := by
    show execSync q s = _
    unfold execSync
    rw [turn]
    dsimp only
    rw [if_neg (by simp [on]), if_neg (by simp [noPart_eq_not_partPresent, part]), one, hu]
    rfl
  refine ⟨u, _, runs, ?_, run, by rw [hu]; rfl, fun p stop level => by rw [hu]; rfl⟩
  split
  · exact (padStream_frame 0 _).same .hq rfl
  · rfl

/-! ## ABORT (R69, R70) -/

/-- The command that an ABORT names: of its port and ring type, by its tag, and no ABORT. -/
def abortTarget (s : State) (q : Nat) (c : Cmd) : Option Cmd :=
  s.hq.cmds.find? fun d => d.port == c.port && (d.ring == 32) == (c.ring == 32) && d.e.tag == bits c.e.param 15 0 && d.seq != q
    && d.e.opcode != 0x0A

section Abort

variable {s : State} {q : Nat} {c : Cmd} (turn : due s q 0x0A = some c)

include turn

theorem exec_abort_recovery (yard : yardRecovery s = true) : exec (.abort q) s = .next (complete q Status.abortUnavailable 0 s) := by
  show execAbort q s = _
  unfold execAbort
  rw [turn]
  exact if_pos yard

theorem exec_abort_none (yard : yardRecovery s = false) (none : abortTarget s q c = none) :
    exec (.abort q) s = .next (complete q Status.ok 0 s) := by
  show execAbort q s = _
  unfold execAbort
  rw [turn]
  unfold abortTarget at none
  dsimp only
  rw [if_neg (by simp [yard]), none]
  rfl

theorem exec_abort_caught {d : Cmd} (yard : yardRecovery s = false) (aim : abortTarget s q c = some d) (caught : catchable s d = true) :
    exec (.abort q) s
      = .next (complete q Status.ok 0 (updCmd q (fun c => { c with caught := true, waitFor := some d.seq }) (catchCmd d s))) := by
  show execAbort q s = _
  unfold execAbort
  rw [turn]
  unfold abortTarget at aim
  dsimp only
  rw [if_neg (by simp [yard]), aim]
  exact if_pos caught

end Abort

theorem abortTarget_other {s : State} {q : Nat} {c d : Cmd} (h : abortTarget s q c = some d) : d.seq ≠ q := by
  have k := List.find?_some h
  simp only [Bool.and_eq_true, bne_iff_ne] at k
  exact k.1.2

/-- A command that stands in the table after the same commands stand there. -/
theorem QKeep.finds {s t : State} (k : QKeep s t) {q : Nat} {c : Cmd} (h : findCmd s q = some c) : ∃ d, findCmd t q = some d := by
  have seqs : t.hq.cmds.map Cmd.seq = s.hq.cmds.map Cmd.seq := by
    have := congrArg (List.map fun x : Port × Nat × Nat => x.2.2) k.cmds
    rwa [List.map_map, List.map_map] at this
  have mem : q ∈ t.hq.cmds.map Cmd.seq := by
    rw [seqs]
    exact List.mem_map.mpr ⟨c, List.mem_of_find?_eq_some h, findCmd_seq h⟩
  obtain ⟨d, hd, e⟩ := List.mem_map.mp mem
  exact Option.isSome_iff_exists.mp (List.find?_isSome.mpr ⟨d, hd, by simp [e]⟩)

/-- A caught command ends with ABORTED_BY_HOST (R70), a write as R65 says; any other command still stands in the table. -/
theorem catchCmd_ends {s : State} {d : Cmd} (found : findCmd s d.seq = some d)
    (untaken : d.isWrite = true → (∃ w, findWrite s d.seq = some w ∧ w.taken = false) ∨ findWrite s d.seq = none ∧ d.st = .fetched) :
    Ended (catchCmd d s) d.seq Status.abortedByHost 0
      ∧ ∀ q c, q ≠ d.seq → findCmd s q = some c → ∃ a, findCmd (catchCmd d s) q = some a := by
  cases write : d.isWrite with
  | true =>
    rw [catchCmd_write write]
    obtain ⟨e, he, est, estatus, eresult, -⟩ := endWriteCmd_find (s := unlock (fun g => g.seq == d.seq) s) ((unlock_find ..).trans found)
      (by rw [unlock_findWrite]; exact untaken write) Status.abortedByHost
    exact ⟨⟨e, he, est, estatus, eresult⟩, fun q c _ h => ((unlock_keep _ s).trans (endWriteCmd_keep ..)).finds h⟩
  | false =>
    obtain ⟨u, e, cmds⟩ := catchCmd_plain (s := s) write
    have same : ∀ q, findCmd u q = findCmd s q := fun q => by simp only [findCmd, cmds]
    rw [e]
    exact ⟨.complete ((same _).trans found) .., fun q c ne h => ⟨c, (findCmd_complete_other ne ..).trans ((same q).trans h)⟩⟩

/-- Settles O23: a SYNC is `trySync` on its coverage, an ABORT `catchCmd` on its target. -/
theorem syncsAndAbortsEndAsTheirLevelsSay : Obligations.SyncsAndAbortsEndAsTheirLevelsSay := by
  intro s q c p level stop
  refine ⟨fun turn => ⟨fun off => ?_, fun on one missing => ?_, fun on one part clear => ?_⟩, fun run => ⟨fun free reached => ?_, fun o e error => ?_⟩,
    fun turn => ?_⟩
  · refine ⟨complete q Status.ok 0 s, ?_, .complete (due_find turn) ..⟩
    show execSync q s = _
    unfold execSync
    rw [turn]
    exact if_pos off
  · refine ⟨complete q Status.invalidField 0 s, ?_, .complete (due_find turn) ..⟩
    show execSync q s = _
    unfold execSync
    rw [turn]
    exact (if_neg (by simp [on])).trans (if_pos ⟨one, by rw [noPart_eq_not_partPresent, missing]; rfl⟩)
  · obtain ⟨u, t, runs, hq, run, parts, blocks⟩ := exec_sync_one turn on one part
    have free : ((syncBegun s p c).covers.find? fun x => blocksSync u x.1 x.2 level) = none :=
      List.find?_eq_none.mpr fun x hx => by
        rw [List.mem_singleton.mp hx, blocks, clear]
        exact Bool.false_ne_true
    have mark : markOf (partAt u p) level = markOf (partAt s p) level := by rw [partAt_of_parts parts]
    refine ⟨fun reached => ⟨t, runs, ?_⟩, fun short => ⟨t, runs, ?_⟩⟩
    · have all : ((syncBegun s p c).covers.all fun x => decide (x.2 ≤ markOf (partAt u x.1) level)) = true := by
        rw [List.all_eq_true]
        intro x hx
        rw [List.mem_singleton.mp hx, mark]
        exact decide_eq_true reached
      have ended := Ended.complete (runningCmd_find run) Status.ok (stop % 2 ^ 48 + p * 2 ^ 48)
      have own : (((syncBegun s p c).covers.find? fun x => x.1 == p).map Prod.snd).getD 0 = stop := by
        show ((List.find? (fun x : Nat × Nat => x.1 == p) [(p, stop)]).map Prod.snd).getD 0 = stop
        rw [List.find?_cons_of_pos (by simp)]
        rfl
      have done := trySync_reached run free all
      rw [show (syncBegun s p c).e.partition = p from rfl, own] at done
      rw [← done] at ended
      exact ended.of_hq hq
    · show findCmd t q = _
      have some : ((syncBegun s p c).covers.all fun x => decide (x.2 ≤ markOf (partAt u x.1) level)) = false := by
        rw [List.all_eq_false]
        refine ⟨(p, stop), List.mem_singleton_self _, ?_⟩
        rw [mark]
        simpa using short
      rw [findCmd_of_hq hq, trySync_waits run free some]
      exact runningCmd_find run
  · exact ⟨_, congrArg Host.Outcome.next (trySync_reached run free reached), .complete (runningCmd_find run) ..⟩
  · exact ⟨_, congrArg Host.Outcome.next (trySync_blocked run error), .complete (runningCmd_find run) ..⟩
  · intro target
    have found := due_find turn
    refine ⟨fun yard => ⟨_, exec_abort_recovery turn yard, .complete found ..⟩,
      fun yard none => ⟨_, exec_abort_none turn yard none, .complete found .., complete_writes ..⟩,
      fun d yard aim caught here _ _ untaken => ?_⟩
    · have runs := exec_abort_caught turn yard aim caught
      have ne : d.seq ≠ q := abortTarget_other (c := c) aim
      obtain ⟨⟨e, he, ended⟩, stays⟩ := catchCmd_ends here untaken
      obtain ⟨a, ha⟩ := stays q c (Ne.symm ne) found
      refine ⟨_, runs, ⟨e, ?_, ended⟩, ?_⟩
      · rw [findCmd_complete_other ne, findCmd_updCmd_other ne (fun c => { c with caught := true, waitFor := some d.seq }) (fun _ => rfl)]
        exact he
      · have mark := updCmd_find ha (fun c => { c with caught := true, waitFor := some d.seq }) fun _ => rfl
        exact ⟨_, findCmd_complete mark Status.ok 0, rfl, rfl, rfl⟩

end Sys2Proof.Machine
end

/-! LOAD, UNLOAD and the cartridge pin (R51, R162, R167, R288, R461). -/

section

namespace Sys2Proof.Machine

/-! ## A source with a slot posts to MB_BRIDLE (R13) -/

/-- With a slot, a post to MB_BRIDLE is its last entry and changes nothing else. -/
theorem post_bridle {src : Nat} {s : State} (h : hasSlots .bridle src 1 s = true) (code arg : Nat) :
    post .bridle src code arg s = { s with boxes := { s.boxes with bridle := s.boxes.bridle ++ [⟨s.srv.clock, src, code, arg⟩] } } :=
  post_of_slots h code arg

theorem hasSlots_of_boxes {s t : State} (h : t.boxes = s.boxes) (b : Box) (src n : Nat) : hasSlots b src n t = hasSlots b src n s :=
  hasSlots_congr (by cases b <;> simp only [boxOf, h]) src n

/-! ## LOAD (R51, R167, R288) -/

theorem exec_load_due {s : State} {q : Nat} {c : Cmd} (turn : due s q 0x07 = some c) (scan : List ScanItem) :
    exec (.load q scan) s = .next (loadStep q scan (setSt q .running s)) := by
  show execLoad q scan s = _
  unfold execLoad
  rw [turn]
  rfl

theorem exec_load_running {s : State} {q : Nat} {c : Cmd} (idle : due s q 0x07 = none) (run : runningCmd s q 0x07 = some c)
    (scan : List ScanItem) : exec (.load q scan) s = .next (loadStep q scan s) := by
  show execLoad q scan s = _
  unfold execLoad
  rw [idle, run]
  rfl

theorem loadStep_absent {s : State} (out : s.cart.present = false) (q : Nat) (scan : List ScanItem) :
    loadStep q scan s = complete q Status.notReady 0 s := if_pos out

theorem loadStep_ready {s : State} (present : s.cart.present = true) (ready : s.cart.st = .ready) (q : Nat) (scan : List ScanItem) :
    loadStep q scan s = complete q Status.ok (partitions s) s := by
  unfold loadStep
  rw [if_neg (by simp [present]), ready]

theorem loadStep_empty {s : State} (present : s.cart.present = true) (empty : s.cart.st = .empty) (motion : s.brd.motion = .unthreaded)
    (q : Nat) (scan : List ScanItem) :
    loadStep q scan s = post .bridle Src.fmt 0x0006 0 (updCart (fun c => { c with st := .threading }) s) := by
  unfold loadStep
  rw [if_neg (by simp [present]), empty]
  exact if_pos motion

theorem loadStep_threading {s : State} (present : s.cart.present = true) (threading : s.cart.st = .threading)
    (motion : s.brd.motion = .running) (valid : s.srv.valid = true) (q : Nat) (scan : List ScanItem) :
    loadStep q scan s = complete q Status.ok (partitions (rebuild scan s)) (rebuild scan s) := by
  unfold loadStep
  rw [if_neg (by simp [present]), threading]
  exact if_pos ⟨motion, valid⟩

/-! ### What a LOAD rebuilds (R167) -/

/-- However the tables are found, the cartridge's serial number is that of its memory (R162). -/
theorem readCart_serial (scan : List ScanItem) (s : State) : (readCart scan s).cart.serial = cmRead s 0 20 := by
  have kept : ∀ u, (countPositions u).cart = u.cart := fun u => (countPositions_frame u).same .cart rfl
  unfold readCart
  dsimp only
  split
  · split
    · unfold blankCart
      rw [kept]
      rfl
    · rw [kept]
      rfl
  · split
    · rw [kept]
      rfl
    · unfold blankCart
      rw [kept]
      rfl

theorem restoreWrite_finds (q r p : Nat) (v : Nat × Nat × Nat × Nat) (s : State) : Finds q s (restoreWrite r p v s) := by
  unfold restoreWrite
  dsimp only
  split
  · exact .refl q s
  · have granules := Finds.of_hq (q := q) ((takeGranules_frame (granulesFor (storedWrite s r p v.2.1 v.2.2.1 v.2.2.2).recs.length) s).same .hq rfl)
    split
    · next h =>
      rw [h] at granules
      exact granules
    · next h =>
      rw [h] at granules
      refine granules.trans (.trans ?_ (.of_cmds rfl))
      split
      · exact moveEnd_finds q _ _ _ _
      · exact .of_cmds rfl

theorem resumeWrites_cmds (p : Nat) (fs : List Found) (s : State) : (resumeWrites p fs s).hq.cmds = s.hq.cmds := by
  unfold resumeWrites
  dsimp only
  split
  · rfl
  · split <;> rfl

theorem restorePart_finds (scan : List ScanItem) (q p : Nat) (s : State) : Finds q s (restorePart scan p s) := by
  unfold restorePart
  split
  · exact .refl q s
  · next r _ =>
    refine (Finds.each q (restoreWrite r p) (ringVersions s r) s fun v _ u => restoreWrite_finds q r p v u).trans (.of_cmds ?_)
    dsimp only
    rw [(advanceTail_frame ..).same .hq rfl, resumeWrites_cmds, (refreshMarks_frame ..).same .hq rfl]

theorem deferError_cmds (p first count cause version : Nat) (s : State) : (deferError p first count cause version s).hq.cmds = s.hq.cmds := by
  unfold deferError
  rw [(postEvent_frame ..).same .hq rfl]
  rfl

theorem reportCut_finds (q : Nat) (s : State) : Finds q s (reportCut s) := by
  unfold reportCut
  refine Finds.trans (u := updShd _ s) (.of_hq rfl) (Finds.each q _ _ _ fun c _ u => .of_cmds ?_)
  rw [deferError_cmds, (appendLoss_frame ..).same .hq rfl]

/-- The rebuilt cartridge is ready under the serial number of its memory, and every command is still found. -/
theorem rebuild_ready (scan : List ScanItem) (s : State) :
    (rebuild scan s).cart.st = .ready ∧ (rebuild scan s).cart.serial = cmRead s 0 20 ∧ ∀ q, Finds q s (rebuild scan s) := by
  unfold rebuild
  dsimp only
  generalize hps : (List.range 4).filter (fun p => partPresent (readCart scan s) p) = ps
  obtain ⟨u, hu⟩ : ∃ u, u = each (fun p s => saveDirectory p {} s) ps (chooseSet (each (rebuildPart scan) ps (readCart scan s))) := ⟨_, rfl⟩
  have tables : Frame 0x24814 (readCart scan s) u := by
    rw [hu]
    exact Frame.each ps (((Frame.each (m := 0x24014) ps (.refl _ _) fun p v => rebuildPart_frame scan p v).mono rfl).andThen (chooseSet_frame _) rfl)
      fun p v => (saveDirectory_frame p {} v).mono rfl
  have uhq : u.hq = s.hq := (tables.same .hq rfl).trans ((readCart_frame scan s).same .hq rfl)
  have serial : u.cart.serial = cmRead s 0 20 := (congrArg Cart.serial (tables.same .cart rfl)).trans (readCart_serial scan s)
  rw [← hu]
  generalize hv : updCart (fun c => { c with st := .ready, dirTodo := [], dirTries := 0, dirFailed := false, weakPosted := false }) u = v
  have rest : Frame 0x22f816 v (yardLoad (reportCut (each (restorePart scan) ps v))) :=
    (((Frame.each (m := 0x24816) ps (.refl _ v) fun p w => restorePart_frame scan p w).mono rfl).andThen (reportCut_frame _) rfl).andThen
      (yardLoad_frame _) rfl
  have cart := rest.same .cart rfl
  refine ⟨?_, ?_, fun q => ?_⟩
  · rw [cart, ← hv]
    rfl
  · rw [cart, ← hv]
    exact serial
  · have start : Finds q s v := by
      rw [← hv]
      exact .of_hq uhq
    exact ((start.trans (Finds.each q _ ps v fun p _ w => restorePart_finds scan q p w)).trans (reportCut_finds q _)).trans
      (.of_hq ((yardLoad_frame _).same .hq rfl))

/-! ## UNLOAD (R51, R166, R288) -/

theorem exec_unloadProceed {s : State} {q : Nat} {c : Cmd} (run : runningCmd s q 0x08 = some c) :
    exec (.unloadProceed q) s = .next (unloadStep c s) := by
  show execUnloadProceed q s = _
  unfold execUnloadProceed
  rw [run]
  rfl

/-- With every directory copy settled and no window open, the control block is written and the UNLOAD goes to MB_BRIDLE. -/
theorem unloadStep_unloading {s : State} (st : s.cart.st = .unloading) (settled : s.cart.dirTodo = []) (shut : s.wrv.windowOpen = false)
    (c : Cmd) : unloadStep c s = post .bridle Src.fmt 0x0007 0 (noteLoad (writeControl (!s.cart.dirFailed)
      (updCart (fun c => { c with dirBNewer := if !s.cart.dirFailed then !c.dirBNewer else c.dirBNewer, st := .unthreading }) (saveImages s)))) := by
  have same : dirStep s = s := by
    unfold dirStep
    rw [settled]
  unfold unloadStep
  rw [st]
  dsimp only
  rw [same, if_neg (by simp [settled, shut])]

theorem unloadStep_unthreading {s : State} (st : s.cart.st = .unthreading) (motion : s.brd.motion = .unthreaded) (c : Cmd) :
    unloadStep c s = complete c.seq Status.ok 0 (finishUnload s) := by
  unfold unloadStep
  rw [st]
  exact if_pos motion

/-- Whatever entries a table holds, an entry's field is that of the default where all of them agree with it. -/
theorem getD_field {α β : Type} (f : α → β) (d : α) (m : AMap α) (h : ∀ x ∈ m, f x.2 = f d) (i : Nat) : f (AMap.getD m i d) = f d := by
  induction m with
  | nil => rfl
  | cons x m ih =>
    show f ((if i = x.1 then some x.2 else AMap.get? m i).getD d) = f d
    by_cases e : i = x.1
    · rw [if_pos e]
      exact h x (List.mem_cons_self ..)
    · rw [if_neg e]
      exact ih fun y hy => h y (List.mem_cons_of_mem _ hy)

/-- After an UNLOAD no cartridge, write, Gate lock or partition remains, and the commands stand as they did. -/
theorem finishUnload_leaves (s : State) :
    (finishUnload s).hq = { s.hq with writes := [], gates := [] } ∧ (finishUnload s).cart.st = .empty
      ∧ ∀ p, (partAt (finishUnload s) p).wraps = 0 := by
  unfold finishUnload
  dsimp only
  obtain ⟨u, hu⟩ : ∃ u, u = yardUnload (clearTape (retireAll s)) := ⟨_, rfl⟩
  have uhq : u.hq = { s.hq with writes := [], gates := [] } := by
    rw [hu, (yardUnload_frame _).same .hq rfl, (clearTape_frame _).same .hq rfl]
    exact retireAll_hq s
  rw [← hu]
  generalize hv : newParts (u.parts.map fun (p, x) => (p, { defers := x.defers })) u = v
  generalize hw : updCart (fun c => { c with st := .empty, dirTodo := [], zone := [], spans := [], serial := [], writePass := 0 }) v = w
  have rings : Frame 0x800 w (each freeEmptyRing (List.range 8) w) := Frame.each _ (.refl _ w) fun r x => freeEmptyRing_frame r x
  refine ⟨?_, ?_, fun p => ?_⟩
  · rw [rings.same .hq rfl, ← hw, ← hv, ← uhq]
    rfl
  · rw [rings.same .cart rfl, ← hw]
    rfl
  · have fresh : ∀ x ∈ u.parts.map (fun x : Nat × Part => (x.1, ({ defers := x.2.defers } : Part))), x.2.wraps = ({} : Part).wraps := by
      intro x hx
      obtain ⟨y, -, rfl⟩ := List.mem_map.mp hx
      rfl
    rw [partAt_of_parts (rings.same .parts rfl), ← hw, ← hv]
    refine getD_field Part.wraps {} _ (fun x hx => ?_) p
    obtain ⟨i, -, rfl⟩ := List.mem_map.mp hx
    exact getD_field Part.wraps {} _ fresh i

/-- Settles O24: LOAD and UNLOAD_PROCEED take the step that the cartridge's state names; `rebuild_ready` and `finishUnload_leaves`
say what stands at their ends. -/
theorem cartridgesAreLoadedAndUnloaded : Obligations.CartridgesAreLoadedAndUnloaded := by
  intro s q scan
  refine ⟨fun cm a => ?_, fun cm a => ⟨_, rfl, rfl, rfl⟩, fun c turn => ⟨fun out => ?_, fun present ready => ?_, fun present empty motion slot => ?_⟩,
    fun c run idle present threading motion valid => ?_, fun c turn => ⟨fun off => ?_, fun ready => ?_⟩,
    fun c run => ⟨fun st settled shut slot => ?_, fun st motion => ?_⟩⟩
  · refine ⟨cmWrite 0 cm { updCart (fun c => { c with present := true }) s with cartMem := [] }, rfl, rfl, ?_⟩
    rw [cmByte_cmWrite _ _ _ _ rfl]
    by_cases h : a < cm.length
    · rw [if_pos (by omega), Nat.sub_zero]
    · rw [if_neg (by omega), List.getD_eq_default _ _ (by omega)]
      rfl
  · have found := setSt_find (due_find turn) .running
    exact ⟨_, (exec_load_due turn scan).trans (congrArg _ (loadStep_absent (s := setSt q .running s) out q scan)), .complete found ..⟩
  · have found := setSt_find (due_find turn) .running
    exact ⟨_, (exec_load_due turn scan).trans (congrArg _ (loadStep_ready (s := setSt q .running s) present ready q scan)), .complete found ..⟩
  · have free : hasSlots .bridle Src.fmt 1 (updCart (fun c => { c with st := .threading }) (setSt q .running s)) = true :=
      (hasSlots_of_boxes rfl ..).trans slot
    have step := (loadStep_empty (s := setSt q .running s) present empty motion q scan).trans (post_bridle free 0x0006 0)
    refine ⟨_, (exec_load_due turn scan).trans (congrArg _ step), rfl, rfl, ?_⟩
    exact setSt_find (due_find turn) .running
  · obtain ⟨ready, serial, finds⟩ := rebuild_ready scan s
    obtain ⟨d, hd, -⟩ := finds q c (runningCmd_find run)
    have frame := complete_frame q Status.ok (partitions (rebuild scan s)) (rebuild scan s)
    refine ⟨_, (exec_load_running idle run scan).trans (by rw [loadStep_threading present threading motion valid]), ?_, ?_, ?_⟩
    · rw [frame.same .cart rfl]
      exact ready
    · rw [frame.same .cart rfl]
      exact serial
    · have parts : ∀ p, partPresent (complete q Status.ok (partitions (rebuild scan s)) (rebuild scan s)) p = partPresent (rebuild scan s) p :=
        fun p => by unfold partPresent; rw [partAt_of_parts (frame.same .parts rfl)]
      simp only [parts]
      exact .complete hd ..
  · refine ⟨_, ?_, .complete (due_find turn) ..⟩
    show execUnload q s = _
    unfold execUnload
    rw [turn]
    exact if_pos (by simpa [serving] using off)
  · refine ⟨updCart (fun c => { c with weakPosted := false }) (setSt q .running s), ?_, setSt_find (due_find turn) .running, rfl⟩
    show execUnload q s = _
    unfold execUnload
    rw [turn]
    exact if_neg (by simp [serving, ready])
  · have images := saveImages_frame s
    generalize hu : writeControl (!s.cart.dirFailed) (updCart (fun c => { c with
      dirBNewer := if !s.cart.dirFailed then !c.dirBNewer else c.dirBNewer, st := .unthreading }) (saveImages s)) = u
    have cart : u.cart.st = .unthreading ∧ u.cart.clean = (!s.cart.dirFailed) ∧ u.cart.cbSeq = s.cart.cbSeq + 1 := by
      have kept := images.same .cart rfl
      rw [← hu]
      refine ⟨rfl, rfl, ?_⟩
      show (saveImages s).cart.cbSeq + 1 = _
      rw [kept]
    have boxes : u.boxes = s.boxes := by
      rw [← hu]
      exact images.same .boxes rfl
    have clock : u.srv = s.srv := by
      rw [← hu]
      exact images.same .srv rfl
    have free : hasSlots .bridle Src.fmt 1 (noteLoad u) = true := (hasSlots_of_boxes boxes ..).trans slot
    have step : unloadStep c s = post .bridle Src.fmt 0x0007 0 (noteLoad u) := by rw [unloadStep_unloading st settled shut, hu]
    refine ⟨_, (exec_unloadProceed run).trans (congrArg _ (step.trans (post_bridle free 0x0007 0))), cart.1, cart.2.1, cart.2.2, ?_⟩
    show u.boxes.bridle ++ [⟨u.srv.clock, 13, 0x0007, 0⟩] = _
    rw [boxes, clock]
  · obtain ⟨hq, empty, parts⟩ := finishUnload_leaves s
    have seq : c.seq = q := findCmd_seq (runningCmd_find run)
    have found : findCmd (finishUnload s) q = some c := by
      have k : findCmd (finishUnload s) q = findCmd s q := by simp only [findCmd, hq]
      rw [k, runningCmd_find run]
    have frame := complete_frame q Status.ok 0 (finishUnload s)
    refine ⟨_, (exec_unloadProceed run).trans (by rw [unloadStep_unthreading st motion, seq]), .complete found .., ?_, ?_, ?_, fun p => ?_⟩
    · rw [frame.same .cart rfl]
      exact empty
    · rw [complete_writes, hq]
    · rw [complete_gates, hq]
    · rw [partAt_of_parts (frame.same .parts rfl)]
      exact parts p

end Sys2Proof.Machine
end

/-! FORMAT_PARTITIONS and LOCATE (R50, R156, R160, R166, R168, R299). -/

section

namespace Sys2Proof.Machine

/-! ## FORMAT_PARTITIONS (R50, R160, R166) -/

section Format

variable {s : State} {q : Nat} {c : Cmd} (turn : due s q 0x09 = some c) (table : List Nat) (certify : List WrapSurvey)

include turn

theorem exec_format_refused (bad : tableRefused c.e table = true) :
    exec (.formatPartitions q table certify) s = .next (complete q Status.invalidField 0 s) := by
  show execFormatPartitions q table certify s = _
  unfold execFormatPartitions
  rw [turn]
  exact if_pos bad

theorem exec_format_starts (good : tableRefused c.e table = false) (ready : s.cart.st = .ready) :
    exec (.formatPartitions q table certify) s
      = .next (if formatReady q c.e certify s then dirStep (beginFormat q c.e table certify s) else setSt q .admitted s) := by
  show execFormatPartitions q table certify s = _
  unfold execFormatPartitions
  rw [turn]
  exact (if_neg (by simp [good])).trans (if_neg (by simp [serving, ready]))

end Format

/-- The commands stay, and no write or Gate lock remains (R50). -/
theorem destroyRecords_hq (s : State) : (destroyRecords s).hq = { s.hq with writes := [], gates := [] } := by
  unfold destroyRecords
  dsimp only
  generalize (List.range 8).filter _ = rs
  refine ((Frame.each (m := 0x20800) rs (.refl _ _) fun r v =>
    ((Frame.refl _ v).andThen (updShd_frame _ v) rfl).andThen ((advanceTail_frame r _ _).andThen (freeEmptyRing_frame r _) rfl) rfl).same .hq rfl).trans ?_
  rw [(clearTape_frame _).same .hq rfl, retireAll_hq]

/-- The count, the pass and the serial number of a cartridge, which its Zone Table does not touch. -/
def Cart.count (c : Cart) : Nat × Nat × Bytes := (c.writePass, c.formatCount, c.serial)

theorem zone_count (b : Bool) (table : List (Nat × Nat)) (xs : List WrapSurvey) (s : State) :
    (if b then certified table xs s else keptZone table s).cart.count = s.cart.count := by
  cases b with
  | true => simp only [if_true, certified, updCart_cart, Cart.count]
  | false =>
    rw [if_neg Bool.false_ne_true]
    unfold keptZone
    have either : ∀ (kept : Prop) [Decidable kept] (f g : Cart → Cart), (∀ c, (f c).count = c.count) → (∀ c, (g c).count = c.count) →
        (if kept then updCart f s else updCart g s).cart.count = s.cart.count := fun kept _ f g hf hg => by
      split
      · exact hf s.cart
      · exact hg s.cart
    refine either _ _ _ (fun c => ?_) fun c => ?_
    · simp only [Cart.count]
    · simp only [Cart.count]

theorem zone_hq (b : Bool) (table : List (Nat × Nat)) (xs : List WrapSurvey) (s : State) :
    (if b then certified table xs s else keptZone table s).hq = s.hq := by
  cases b with
  | true =>
    rw [if_pos rfl]
    exact (certified_frame table xs s).same .hq rfl
  | false =>
    rw [if_neg Bool.false_ne_true]
    exact (keptZone_frame table s).same .hq rfl

theorem dirStep_count (s : State) : (dirStep s).cart.count = s.cart.count := by
  have sends : ∀ (o : Option (Nat × Nat)) (w : Nat), (match o with
      | some (a, _) => sendTape Src.fmt w (frameOf (clockOf w a)) (readSpeed s) 0 s
      | none => s).cart = s.cart := fun o w => by
    cases o with
    | none => rfl
    | some x => exact (sendTape_frame ..).same .cart rfl
  unfold dirStep
  split
  · rfl
  · dsimp only
    split
    · split
      · rfl
      · split
        · rfl
        · exact congrArg Cart.count (sends _ _)
    · split
      · rfl
      · exact congrArg Cart.count (sends _ _)

/-! ### The partitions of a new table (R156, R347) -/

/-- What a fresh partition has of its own: no record, its wraps, its cartridge's serial number. -/
def Part.origin (x : Part) : Nat × Nat × Nat × Bytes := (x.acceptedEnd, x.laidMark, x.wraps, x.originSerial)

theorem origin_updPart (p q : Nat) (f : Part → Part) (hf : ∀ x, (f x).origin = x.origin) (s : State) :
    (partAt (updPart p f s) q).origin = (partAt s q).origin := by
  by_cases e : q = p
  · subst e
    rw [partAt_updPart_self, hf]
  · rw [partAt_updPart_other f s e]

theorem origin_each {α : Type} (q : Nat) (g : α → State → State) (h : ∀ x v, (partAt (g x v) q).origin = (partAt v q).origin)
    (xs : List α) (s : State) : (partAt (each g xs s) q).origin = (partAt s q).origin := by
  induction xs generalizing s with
  | nil => rfl
  | cons x xs ih => exact (ih _).trans (h x s)

theorem origin_startAtFirst (p q : Nat) (s : State) : (partAt (startAtFirst p s) q).origin = (partAt s q).origin := by
  unfold startAtFirst
  split
  · refine origin_updPart p q _ ?_ s
    exact fun _ => rfl
  · refine origin_updPart p q _ ?_ s
    exact fun _ => rfl

theorem origin_countPositions (q : Nat) (s : State) : (partAt (countPositions s) q).origin = (partAt s q).origin := by
  refine origin_each q _ (fun p v => ?_) _ s
  refine origin_updPart p q _ ?_ v
  exact fun _ => rfl

/-- The entry of a table built by index. -/
theorem getD_indexed {α : Type} (f : Nat → α) (k n i : Nat) (h : i < n) (d : α) :
    AMap.getD ((List.range' k n).map fun j => (j, f j)) (k + i) d = f (k + i) := by
  induction n generalizing k i with
  | zero => omega
  | succ n ih =>
    rw [List.range'_succ, List.map_cons]
    show ((if k + i = k then some (f k) else AMap.get? ((List.range' (k + 1) n).map fun j => (j, f j)) (k + i)).getD d) = _
    cases i with
    | zero => simp
    | succ i =>
      rw [if_neg (by omega)]
      have := ih (k + 1) i (by omega)
      rwa [show k + 1 + i = k + (i + 1) by omega] at this

/-- The entry of a table of numbered elements. -/
theorem getD_zipIdx {α β : Type} (g : α → Nat → β) (xs : List α) (k i : Nat) (x : α) (h : xs[i]? = some x) (d : β) :
    AMap.getD ((xs.zipIdx k).map fun y => (y.2, g y.1 y.2)) (k + i) d = g x (k + i) := by
  induction xs generalizing k i with
  | nil => cases h
  | cons y ys ih =>
    rw [List.zipIdx_cons, List.map_cons]
    show ((if k + i = k then some (g y k) else AMap.get? ((ys.zipIdx (k + 1)).map fun y => (y.2, g y.1 y.2)) (k + i)).getD d) = _
    cases i with
    | zero =>
      cases h
      simp
    | succ i =>
      rw [if_neg (by omega)]
      have := ih (k + 1) i h
      rwa [show k + 1 + i = k + (i + 1) by omega] at this

theorem partAt_newParts (ps : AMap Part) (s : State) (p : Nat) (h : p < 4) :
    partAt (newParts ps s) p = { AMap.getD ps p {} with ewReserve := (partAt s p).ewReserve } := by
  have := getD_indexed (fun p => { AMap.getD ps p {} with ewReserve := (partAt s p).ewReserve }) 0 4 p h {}
  rwa [Nat.zero_add] at this

theorem wrapTable_getElem (w : Nat) (ns : List Nat) (i n : Nat) (h : ns[i]? = some n) : ∃ f, (wrapTable w ns)[i]? = some (f, n) := by
  induction ns generalizing w i with
  | nil => cases h
  | cons m ms ih =>
    cases i with
    | zero =>
      cases h
      exact ⟨w, rfl⟩
    | succ i => exact ih (w + m) i h

/-- A table that is not refused has a count of wraps for each partition of the command. -/
theorem tableRefused_counts {e : SqEntry} {table : List Nat} (good : tableRefused e table = false) {p : Nat} (lt : p < e.count) :
    ((table.take e.count).map fun v => bits v 7 0)[p]? = some (table.getD p 0 % 256) := by
  unfold tableRefused at good
  simp only [Bool.or_eq_false_iff, decide_eq_false_iff_not, not_or, List.length_map, List.length_take] at good
  obtain ⟨⟨-, -, long, -⟩, -⟩ := good
  have len : p < table.length := by omega
  rw [List.getElem?_map, List.getElem?_take_of_lt lt, List.getElem?_eq_getElem len, List.getD_eq_getElem _ _ len]
  simp [bits]

/-! ### What a format begins with -/

/-- The state in which a format has its new Zone Table, write pass and count. -/
def formatCart (e : SqEntry) (words : List Nat) (survey : List WrapSurvey) (s : State) : State :=
  let table := wrapTable 0 ((words.take e.count).map fun v => bits v 7 0)
  updCart (fun c => { c with writePass := nextPass c.writePass, formatCount := c.formatCount + 1,
                             formatState := max c.formatState 1, dirBNewer := false })
    (if bit e.flags 0 then certified table survey (destroyRecords s) else keptZone table (destroyRecords s))

theorem formatCart_count (e : SqEntry) (words : List Nat) (survey : List WrapSurvey) (s : State) :
    (formatCart e words survey s).cart.count = (nextPass s.cart.writePass, s.cart.formatCount + 1, s.cart.serial) := by
  have zone := zone_count (bit e.flags 0) (wrapTable 0 ((words.take e.count).map fun v => bits v 7 0)) survey (destroyRecords s)
  rw [(destroyRecords_frame s).same .cart rfl] at zone
  simp only [Cart.count, Prod.mk.injEq] at zone
  obtain ⟨pass, count, serial⟩ := zone
  unfold formatCart
  simp only [Cart.count, updCart_cart, pass, count, serial]

theorem formatCart_hq (e : SqEntry) (words : List Nat) (survey : List WrapSurvey) (s : State) :
    (formatCart e words survey s).hq = { s.hq with writes := [], gates := [] } := by
  rw [← destroyRecords_hq s]
  unfold formatCart
  exact zone_hq (bit e.flags 0) _ survey (destroyRecords s)

/-- The partitions that a format makes. -/
def formatParts (e : SqEntry) (words : List Nat) (s : State) : AMap Part :=
  (wrapTable 0 ((words.take e.count).map fun v => bits v 7 0)).zipIdx.map fun (t, p) => (p, freshPart s p t)

theorem beginFormat_eq (q : Nat) (e : SqEntry) (words : List Nat) (survey : List WrapSurvey) (s : State) :
    beginFormat q e words survey s =
      let u := formatCart e words survey s
      let ps := formatParts e words u
      setSt q .running (beginDirectories (ps.flatMap fun (p, _) => [(p, false), (p, true)])
        (updCart (fun c => { c with enrolMask := 0 }) (chooseSet (each startAtFirst (ps.map Prod.fst) (countPositions (newParts ps u)))))) := rfl

/-- The new partitions: empty, with their wraps and the cartridge's serial number. -/
theorem beginFormat_parts {q : Nat} {e : SqEntry} {words : List Nat} (survey : List WrapSurvey) (s : State) (good : tableRefused e words = false)
    {p : Nat} (lt : p < e.count) (four : p < 4) :
    (partAt (beginFormat q e words survey s) p).origin = (0, 0, words.getD p 0 % 256, s.cart.serial) := by
  rw [beginFormat_eq]
  dsimp only
  have serial : (formatCart e words survey s).cart.serial = s.cart.serial :=
    congrArg (fun x : Nat × Nat × Bytes => x.2.2) (formatCart_count e words survey s)
  generalize formatCart e words survey s = u at serial
  generalize hps : formatParts e words u = ps
  generalize hv : each startAtFirst (ps.map Prod.fst) (countPositions (newParts ps u)) = v
  have parts : ∀ todo, (setSt q .running (beginDirectories todo (updCart (fun c => { c with enrolMask := 0 }) (chooseSet v)))).parts = v.parts :=
    fun todo => ((beginDirectories_frame todo _).same .parts rfl).trans ((chooseSet_frame v).same .parts rfl)
  obtain ⟨f, entry⟩ := wrapTable_getElem 0 _ p _ (tableRefused_counts good lt)
  have fresh : AMap.getD ps p {} = freshPart u p (f, words.getD p 0 % 256) := by
    have k := getD_zipIdx (fun t p => freshPart u p t) _ 0 p _ entry {}
    rw [Nat.zero_add] at k
    rw [← hps]
    exact k
  rw [partAt_of_parts (parts _), ← hv, origin_each p _ (fun i w => origin_startAtFirst i p w), origin_countPositions,
    partAt_newParts _ _ _ four, fresh, ← serial]
  rfl

theorem beginFormat_hq (q : Nat) (e : SqEntry) (words : List Nat) (survey : List WrapSurvey) (s : State) :
    (beginFormat q e words survey s).hq = (setSt q .running { s with hq := { s.hq with writes := [], gates := [] } }).hq := by
  rw [beginFormat_eq]
  dsimp only
  have hq := formatCart_hq e words survey s
  generalize formatCart e words survey s = u at hq
  generalize formatParts e words u = ps
  have rest : ∀ todo, (beginDirectories todo (updCart (fun c => { c with enrolMask := 0 })
      (chooseSet (each startAtFirst (ps.map Prod.fst) (countPositions (newParts ps u)))))).hq = u.hq := fun todo => by
    rw [(beginDirectories_frame ..).same .hq rfl]
    show (chooseSet _).hq = _
    rw [(chooseSet_frame _).same .hq rfl]
    exact (Frame.each (m := 0x4) _ ((newParts_frame ps u).andThen (countPositions_frame _) rfl) fun p w => startAtFirst_frame p w).same .hq rfl
  simp only [setSt, updCmd_hq, rest, hq]

theorem beginFormat_count (q : Nat) (e : SqEntry) (words : List Nat) (survey : List WrapSurvey) (s : State) :
    (beginFormat q e words survey s).cart.count = (nextPass s.cart.writePass, s.cart.formatCount + 1, s.cart.serial) := by
  rw [beginFormat_eq, ← formatCart_count e words survey s]
  dsimp only
  generalize formatCart e words survey s = u
  generalize formatParts e words u = ps
  have kept : (chooseSet (each startAtFirst (ps.map Prod.fst) (countPositions (newParts ps u)))).cart = u.cart := by
    rw [(chooseSet_frame _).same .cart rfl]
    exact (Frame.each (m := 0x4) _ ((newParts_frame ps u).andThen (countPositions_frame _) rfl) fun p w => startAtFirst_frame p w).same .cart rfl
  simp only [setSt, updCmd_cart, beginDirectories, updCart_cart, updWrv_cart, Cart.count, kept]

theorem writeControl_cart (clean : Bool) (s : State) :
    (writeControl clean s).cart = { s.cart with cbSeq := s.cart.cbSeq + 1, cbCopyB := !s.cart.cbCopyB, clean := clean } := by
  unfold writeControl
  dsimp only
  rw [cmWrite_cart]

/-- A format ends OK, and its control block is clean unless a directory copy failed (R166). -/
theorem endFormat_ends {q : Nat} {c : Cmd} {s : State} (found : findCmd s q = some c) :
    Ended (endFormat q s) q Status.ok 0 ∧ (endFormat q s).cart.clean = (!s.cart.dirFailed) ∧ (endFormat q s).cart.cbSeq = s.cart.cbSeq + 1 := by
  unfold endFormat
  dsimp only
  generalize hu : writeYardPage _ = u
  have cart : u.cart = s.cart := by rw [← hu, (writeYardPage_frame _).same .cart rfl, cmWrite_cart, cmWrite_cart]
  have hq : u.hq = s.hq := by rw [← hu, (writeYardPage_frame _).same .hq rfl, cmWrite_hq, cmWrite_hq]
  generalize hv : updCart (fun c => { c with dirBNewer := true }) u = v
  have vcart : v.cart.cbSeq = s.cart.cbSeq := by rw [← hv, updCart_cart, cart]
  have there : findCmd (writeControl (!s.cart.dirFailed) v) q = some c := by
    rw [findCmd_of_frame (writeControl_frame ..) (by decide), ← hv, findCmd_of_hq (updCart_hq ..), findCmd_of_hq hq, found]
  have same := (complete_frame q Status.ok 0 (writeControl (!s.cart.dirFailed) v)).same .cart rfl
  refine ⟨.complete there .., ?_, ?_⟩
  · rw [same, writeControl_cart]
  · rw [same, writeControl_cart, vcart]

/-! ## LOCATE (R168, R299) -/

theorem needTape_clock (s : State) : (needTape s).srv.clock = s.srv.clock := by
  unfold needTape
  split
  · rfl
  · split
    · rfl
    · unfold schedule postSched
      dsimp only
      split <;> rfl

/-- With two slots free, the wrap select and the reposition are the last two entries of MB_BRIDLE. -/
theorem sendTape_boxes {src : Nat} {s : State} (slots : hasSlots .bridle src 2 s = true) (wrap frame speed : Nat) :
    (sendTape src wrap frame speed 0 s).boxes = { s.boxes with bridle := s.boxes.bridle ++ [⟨s.srv.clock, src, 0x0005, wrap⟩,
      ⟨s.srv.clock, src, 0x0003, (if reverseWrap wrap then (frame + 100) * 256 else (frame - 100) * 256) % 2 ^ 40
        + b2n (reverseWrap wrap) * 2 ^ 40 + speed % 1024 * 2 ^ 41⟩] } := by
  have one := hasSlots_fewer (Nat.le_succ 1) slots
  have arg : ∀ pos rev, reposArg pos rev speed 0 = pos % 2 ^ 40 + b2n rev * 2 ^ 40 + speed % 1024 * 2 ^ 41 := fun pos rev => by
    unfold reposArg
    rw [Nat.zero_mod, Nat.zero_mul, Nat.add_zero]
  unfold sendTape
  dsimp only
  rw [post_bridle (hasSlots_post slots one _ _), post_bridle one, arg]
  simp only [List.append_assoc, List.cons_append, List.nil_append]

section Locate

variable {s : State} {q : Nat} {c : Cmd} (turn : due s q 0x04 = some c) (found : Option TapePlace)

include turn

theorem exec_locate_notReady (out : s.cart.st ≠ .ready) : exec (.locate q found) s = .next (complete q Status.notReady 0 s) := by
  show execLocate q found s = _
  unfold execLocate
  rw [turn]
  exact if_pos (by simpa [serving] using out)

theorem exec_locate_beyond (ready : s.cart.st = .ready) (records : bit c.e.flags 0 = false)
    (beyond : (partAt s c.e.partition).acceptedEnd < c.e.position) :
    exec (.locate q found) s = .next (complete q Status.invalidField 0 s) := by
  show execLocate q found s = _
  unfold execLocate
  rw [turn]
  exact (if_neg (by simp [serving, ready])).trans (if_pos (.inr ⟨records, beyond⟩))

theorem exec_locate_sends (ready : s.cart.st = .ready) (part : partPresent s c.e.partition = true)
    (range : bit c.e.flags 0 = true ∨ c.e.position ≤ (partAt s c.e.partition).acceptedEnd) :
    exec (.locate q found) s = .next (setSt q .running (sendTape Src.dec (locatePlace s c.e.partition c.e.position (bit c.e.flags 0)).1
      (locatePlace s c.e.partition c.e.position (bit c.e.flags 0)).2 (readSpeed s) 0 (needTape s))) := by
  show execLocate q found s = _
  unfold execLocate
  rw [turn]
  refine (if_neg (by simp [serving, ready])).trans (if_neg ?_)
  rw [noPart_eq_not_partPresent, part]
  rintro (absent | ⟨records, beyond⟩)
  · cases absent
  · rcases range with toEnd | le
    · rw [toEnd] at records
      cases records
    · omega

end Locate

/-- Settles O25: a format is `beginFormat` and then `endFormat`, a LOCATE `sendTape` and then `locateDone`. -/
theorem cartridgesAreFormattedAndLocated : Obligations.CartridgesAreFormattedAndLocated := by
  intro s q c
  refine ⟨fun table certify turn => ⟨fun bad => ?_, fun good ready shut idle surveys => ?_, fun good ready busy => ?_⟩,
    fun table certify begun run settled shut => ?_,
    fun found turn => ⟨fun ready part range slots => ?_, fun ready part records beyond => ?_, fun out => ?_⟩,
    fun at_ begun run motion parked valid shut => ?_⟩
  · exact ⟨_, exec_format_refused turn table certify bad, .complete (due_find turn) ..⟩
  · have measured : bit c.e.flags 0 = false ∨ surveyed certify = true := by
      cases flag : bit c.e.flags 0 with
      | false => exact .inl rfl
      | true =>
        refine .inr (List.all_eq_true.mpr fun w hw => ?_)
        exact surveys flag w (List.mem_range.mp hw)
    have starts : formatReady q c.e certify s = true := by
      unfold formatReady
      rw [shut, idle]
      rcases measured with h | h <;> simp [h]
    have runs := exec_format_starts turn table certify good ready
    rw [if_pos starts] at runs
    have step := dirStep_frame (beginFormat q c.e table certify s)
    have hq : (dirStep (beginFormat q c.e table certify s)).hq = (setSt q .running { s with hq := { s.hq with writes := [], gates := [] } }).hq :=
      (step.same .hq rfl).trans (beginFormat_hq ..)
    have count := (dirStep_count (beginFormat q c.e table certify s)).trans (beginFormat_count q c.e table certify s)
    simp only [Cart.count, Prod.mk.injEq] at count
    obtain ⟨pass, formats, -⟩ := count
    refine ⟨_, runs, ?_, pass, formats, by rw [hq]; rfl, by rw [hq]; rfl, fun p lt four => ?_⟩
    · rw [findCmd_of_hq hq]
      exact setSt_find (s := { s with hq := { s.hq with writes := [], gates := [] } }) (due_find turn) .running
    · have origin := beginFormat_parts (q := q) certify s good lt four
      rw [← partAt_of_parts (step.same .parts rfl)] at origin
      simp only [Part.origin, Prod.mk.injEq] at origin
      exact origin
  · have waits : formatReady q c.e certify s = false := by
      unfold formatReady
      rcases busy with h | h <;> rw [h] <;> simp
    have runs := exec_format_starts turn table certify good ready
    rw [if_neg (by simp [waits])] at runs
    exact ⟨_, runs, rfl⟩
  · have same : dirStep s = s := by
      unfold dirStep
      rw [settled]
    have runs : exec (.formatPartitions q table certify) s = .next (endFormat q s) := by
      show execFormatPartitions q table certify s = _
      unfold execFormatPartitions
      rw [begun, run]
      dsimp only
      rw [same, if_pos ⟨settled, shut⟩]
      rfl
    exact ⟨_, runs, endFormat_ends (runningCmd_find run)⟩
  · have need := needTape_frame s
    have boxes : (needTape s).boxes = s.boxes := need.same .boxes rfl
    have sent := sendTape_boxes (s := needTape s) ((hasSlots_of_boxes boxes ..).trans slots)
      (locatePlace s c.e.partition c.e.position (bit c.e.flags 0)).1 (locatePlace s c.e.partition c.e.position (bit c.e.flags 0)).2 (readSpeed s)
    rw [boxes, needTape_clock, show readSpeed s = min (Cfgw.vMax s) s.brd.ceiling from rfl] at sent
    refine ⟨_, exec_locate_sends turn found ready part range, setSt_find ?_ .running, sent⟩
    rw [findCmd_of_frame (sendTape_frame ..) (by decide), findCmd_of_frame need (by decide), due_find turn]
  · exact ⟨_, exec_locate_beyond turn found ready records beyond, .complete (due_find turn) ..⟩
  · exact ⟨_, exec_locate_notReady turn found out, .complete (due_find turn) ..⟩
  · have seq : c.seq = q := findCmd_seq (runningCmd_find run)
    have runs : exec (.locate q (some at_)) s = .next (locateDone c at_ s) := by
      show execLocate q (some at_) s = _
      unfold execLocate
      rw [begun, run]
      exact if_pos ⟨motion, parked, valid, shut⟩
    unfold locateDone at runs
    rw [seq] at runs
    have found : findCmd (updPart c.e.partition (fun x => { x with current := if bit c.e.flags 0 then x.acceptedEnd else c.e.position }) s) q
        = some c := runningCmd_find run
    refine ⟨_, runs, .complete found .., ?_⟩
    rw [partAt_of_parts ((complete_frame ..).same .parts rfl), partAt_updPart_self]

end Sys2Proof.Machine
end

/-! Landing blocks (R57, R74, R131, R138, R321, R322, R470). -/

section

namespace Sys2Proof.Machine

/-! ## WRITE_LANDING (R57, R131) -/

theorem exec_writeLanding_due {s : State} {q : Nat} {c : Cmd} (turn : due s q 0x0B = some c) (sgl : Bytes) (blocks : List Bytes) :
    exec (.writeLanding q sgl blocks) s = .next
      (if landingFieldsBad s c.e ∨ sglOk c.e sgl (c.e.count * 65536) = false then complete q Status.invalidField 0 s
       else if (slotAt s c.e.keySlot).loaded = false then complete q Status.keySlotEmpty 0 s
       else beginLanding { c with gen := genOf s c.e } blocks (updCmd q (fun _ => { c with gen := genOf s c.e }) s)) := by
  show execWriteLanding q sgl blocks s = _
  unfold execWriteLanding
  rw [due_find turn]
  dsimp only
  rw [if_neg (by simp [due_st turn]), turn]
  dsimp only
  split
  · rfl
  · split <;> rfl

/-- With its derived key bound, a WRITE_LANDING runs, and the cipher is as the binding left it. -/
theorem beginLanding_bound {s u : State} {c : Cmd} {root key : Bytes} {ctr : Nat} (found : findCmd s c.seq = some c)
    (hroot : boundRoot s c.e.keySlot c.gen c.seq = some root)
    (hkey : bindKey c.e.keySlot c.gen root (landingLabel c.gen c.e.hostLabel) c.seq c.e.count s = .bound ctr key u) (blocks : List Bytes) :
    findCmd (beginLanding c blocks s) c.seq = some { c with st := .running } ∧ (beginLanding c blocks s).cip = u.cip := by
  unfold beginLanding
  rw [hroot]
  dsimp only
  rw [hkey]
  dsimp only
  generalize hv : setSt c.seq .running u = v
  have bind := bindKey_frame_bound _ _ _ _ _ _ _ hkey
  have units := fun bs => (landingUnits_frame c.seq c.e.keySlot c.gen c.e.hostLabel key c.e.position ctr bs v).andThen (pumpAll_frame _) rfl
  refine ⟨?_, ?_⟩
  · rw [findCmd_of_hq ((units _).same .hq rfl), ← hv]
    exact setSt_find ((findCmd_of_hq (bind.same .hq rfl) _).trans found) .running
  · rw [(units _).same .cip rfl, ← hv]
    rfl

/-! ## READ_LANDING (R57, R322) -/

theorem exec_readLanding {s : State} {q : Nat} {c : Cmd} (turn : due s q 0x0C = some c) (sgl : Bytes) :
    exec (.readLanding q sgl) s = .next
      (if landingFieldsBad s c.e ∨ sglOk c.e sgl (c.e.count * 65536) = false then complete q Status.invalidField 0 s
       else readBlocks c (sglOf c.e sgl) c.e.count 0 s) := by
  show execReadLanding q sgl s = _
  unfold execReadLanding
  rw [turn]
  dsimp only
  split <;> rfl

/-- However its blocks read, a READ_LANDING ends (R322). -/
theorem readBlocks_ends {c d : Cmd} {s : State} (sgl : List ScatterElem) (n i : Nat) (found : findCmd s c.seq = some d) :
    ∃ st, Ended (readBlocks c sgl n i s) c.seq st 0 := by
  induction n generalizing i s with
  | zero => exact ⟨_, .complete found ..⟩
  | succ n ih =>
    have written : ∀ (b : Bytes) (u : State), u.hq = s.hq → findCmd (sglWrite sgl (i * 65536) b u) c.seq = some d := fun b u h => by
      rw [findCmd_of_frame (sglWrite_frame ..) (by decide), findCmd_of_hq h, found]
    unfold readBlocks
    split
    · exact ih _ (written _ s rfl)
    · next b u h => exact ih _ (written b u ((landingBlock_frame_plain _ _ _ h).same .hq rfl))
    · next st u h =>
      exact ⟨st, .complete ((findCmd_of_frame (landingBlock_frame_fails _ _ _ h) (by decide) _).trans found) ..⟩

section OneBlock

variable {c d : Cmd} {s : State} (sgl : List ScatterElem) (found : findCmd s c.seq = some d)

include found

theorem readBlocks_unmapped (h : landingBlock c.seq c.e.position s = .unmapped) :
    Ended (readBlocks c sgl 1 0 s) c.seq Status.ok 0 ∧ (readBlocks c sgl 1 0 s).hostMem = (sglWrite sgl 0 (zeros 65536) s).hostMem := by
  unfold readBlocks
  rw [Nat.add_zero, h, Nat.zero_mul]
  exact ⟨.complete ((findCmd_of_frame (sglWrite_frame ..) (by decide) _).trans found) .., complete_hostMem ..⟩

theorem readBlocks_plain {b : Bytes} {u : State} (h : landingBlock c.seq c.e.position s = .plain b u) :
    Ended (readBlocks c sgl 1 0 s) c.seq Status.ok 0 ∧ (readBlocks c sgl 1 0 s).hostMem = (sglWrite sgl 0 b s).hostMem := by
  have block := landingBlock_frame_plain _ _ _ h
  unfold readBlocks
  rw [Nat.add_zero, h, Nat.zero_mul]
  refine ⟨.complete ((findCmd_of_frame (sglWrite_frame ..) (by decide) _).trans ((findCmd_of_frame block (by decide) _).trans found)) .., ?_⟩
  exact (complete_hostMem ..).trans (sglWrite_congr sgl 0 b (block.same .hostMem rfl))

/-- A first block that cannot be read ends the command with its status, and host memory is untouched. -/
theorem readBlocks_fails {st : Nat} {u : State} (h : landingBlock c.seq c.e.position s = .fails st u) (n : Nat) :
    Ended (readBlocks c sgl (n + 1) 0 s) c.seq st 0 ∧ (readBlocks c sgl (n + 1) 0 s).hostMem = s.hostMem := by
  have block := landingBlock_frame_fails _ _ _ h
  unfold readBlocks
  rw [Nat.add_zero, h]
  exact ⟨.complete ((findCmd_of_frame block (by decide) _).trans found) .., (complete_hostMem ..).trans (block.same .hostMem rfl)⟩

end OneBlock

/-! ## DISCARD_LANDING (R322) -/

theorem mem_of_get? {α : Type} {m : AMap α} {i : Nat} {v : α} (h : AMap.get? m i = some v) : (i, v) ∈ m := by
  induction m with
  | nil => cases h
  | cons x m ih =>
    change (if i = x.1 then some x.2 else AMap.get? m i) = some v at h
    by_cases e : i = x.1
    · rw [if_pos e] at h
      cases h
      rw [e]
      exact List.mem_cons_self ..
    · rw [if_neg e] at h
      exact List.mem_cons_of_mem _ (ih h)

/-- Erasing some keys: they are gone, the others stay. -/
theorem get?_erases {α : Type} (ks : List Nat) {m : AMap α} (wf : AMap.wf m = true) (n : Nat) :
    AMap.get? (ks.foldl AMap.erase m) n = if n ∈ ks then none else AMap.get? m n := by
  induction ks generalizing m with
  | nil => exact (if_neg List.not_mem_nil).symm
  | cons k ks ih =>
    rw [List.foldl_cons, ih (AMap.wf_erase m k wf)]
    by_cases later : n ∈ ks
    · rw [if_pos later, if_pos (List.mem_cons_of_mem _ later)]
    · rw [if_neg later]
      by_cases here : k = n
      · subst here
        rw [AMap.get?_erase_self m k wf, if_pos (List.mem_cons_self ..)]
      · rw [AMap.get?_erase_of_ne m here, if_neg (by simp [later, Ne.symm here])]

theorem setBlk_map (b : Nat) (x : Blk) (s : State) : (setBlk b x s).shd.map = s.shd.map ∧ (setBlk b x s).shd.lostLanding = s.shd.lostLanding :=
  ⟨rfl, rfl⟩

theorem settleBlocks_map (s : State) : (settleBlocks s).shd.map = s.shd.map ∧ (settleBlocks s).shd.lostLanding = s.shd.lostLanding := by
  unfold settleBlocks
  dsimp only
  generalize s.shd.blocks.filter _ = done
  induction done generalizing s with
  | nil => exact ⟨rfl, rfl⟩
  | cons x xs ih => exact ih (setBlk x.1 { blkAt s x.1 with st := .releasing } s)

theorem startCheckpoint_map (s : State) : (startCheckpoint s).shd.map = s.shd.map := by
  unfold startCheckpoint
  dsimp only
  split
  · rfl
  · split <;> rfl

theorem touchPage_map (l : Nat) (w : Bool) (s : State) : (touchPage l w s).shd.map = s.shd.map := by
  unfold touchPage
  dsimp only
  split
  · rfl
  · split
    · rfl
    · have counted : (if mem? s.shd.pagesStored (l / 4096) = true then inc 0x0E0120 s else s).shd.map = s.shd.map := by split <;> rfl
      generalize (if mem? s.shd.pagesStored (l / 4096) = true then inc 0x0E0120 s else s) = u at counted ⊢
      refine Eq.trans ?_ counted
      show (if 16384 ≤ s.shd.mapCache.length ∧ (s.shd.mapCache.all fun x => x.2) = true then startCheckpoint u else u).shd.map = _
      split
      · exact startCheckpoint_map u
      · rfl

theorem unmapRange_map (first n : Nat) (s : State) :
    (unmapRange first n s).shd.map
      = ((s.shd.map.filter fun x => decide (first ≤ x.1 ∧ x.1 < first + n)).map Prod.fst).foldl AMap.erase s.shd.map := by
  unfold unmapRange
  dsimp only
  generalize s.shd.map.filter _ = gone
  induction gone generalizing s with
  | nil => rfl
  | cons x xs ih =>
    have one : (invalidate x.2 none (updShd (fun d => { d with map := AMap.erase d.map x.1 }) (touchPage x.1 true s))).shd.map
        = AMap.erase s.shd.map x.1 := congrArg (AMap.erase · x.1) (touchPage_map x.1 true s)
    rw [List.map_cons, List.foldl_cons, ← one]
    exact ih _

/-- The units of a range are unmapped, and no others. -/
theorem mapOf_unmapRange {s : State} (wf : AMap.wf s.shd.map = true) (first n l : Nat) :
    mapOf (unmapRange first n s) l = if first ≤ l ∧ l < first + n then none else mapOf s l := by
  unfold mapOf
  rw [unmapRange_map, get?_erases _ wf]
  by_cases range : first ≤ l ∧ l < first + n
  · rw [if_pos range]
    split
    · rfl
    · next other =>
      cases e : AMap.get? s.shd.map l with
      | none => rfl
      | some u => exact absurd (List.mem_map.mpr ⟨(l, u), List.mem_filter.mpr ⟨mem_of_get? e, decide_eq_true range⟩, rfl⟩) other
  · rw [if_neg range, if_neg fun h => ?_]
    obtain ⟨x, hx, rfl⟩ := List.mem_map.mp h
    exact range (of_decide_eq_true (List.mem_filter.mp hx).2)

/-- The state in which a range of landing blocks is discarded. -/
def landingDiscarded (lo n : Nat) (s : State) : State :=
  settleBlocks (journalRec (.unmap (landingUnit lo) n)
    (updShd (fun d => { d with lostLanding := d.lostLanding.filter fun x => !(decide (lo ≤ x.1 ∧ x.1 < lo + n)) }) (unmapRange (landingUnit lo) n s)))

theorem exec_discardLanding {s : State} {q : Nat} {c : Cmd} (turn : due s q 0x0D = some c) :
    exec (.discardLanding q) s = .next (if landingFieldsBad s c.e then complete q Status.invalidField 0 s
      else complete q Status.ok 0 (landingDiscarded c.e.position c.e.count s)) := by
  show execDiscardLanding q s = _
  unfold execDiscardLanding
  rw [turn]
  dsimp only
  split <;> rfl

theorem landingDiscarded_map (lo n : Nat) (s : State) : (landingDiscarded lo n s).shd.map = (unmapRange (landingUnit lo) n s).shd.map
    ∧ (landingDiscarded lo n s).shd.lostLanding
      = (unmapRange (landingUnit lo) n s).shd.lostLanding.filter fun x => !(decide (lo ≤ x.1 ∧ x.1 < lo + n)) := settleBlocks_map _

theorem landingDiscarded_hq (lo n : Nat) (s : State) : (landingDiscarded lo n s).hq = s.hq :=
  ((settleBlocks_frame _).same .hq rfl).trans ((unmapRange_frame _ _ s).same .hq rfl)

/-! ## LAY_LANDING (R57, R470) -/

/-- The lengths a LAY_LANDING gives its records. -/
def layLengths (e : SqEntry) : List (Nat × Nat) := List.replicate (min e.count 4097) (e.length, 0)

/-- The field check of a LAY_LANDING. -/
def layFieldCheck (s : State) (e : SqEntry) : Option Nat :=
  writeFieldCheck e (layLengths e) 4096 (e.count * e.length)
    (decide (Cfgw.landingBlocks s < bits e.auxAddr 47 0 + e.count * blocksPer e.length))

theorem exec_layLanding_field {s : State} {q st : Nat} {c : Cmd} (turn : due s q 0x0E = some c) (data : c.ring ≠ 32)
    (check : layFieldCheck s c.e = some st) : exec (.layLanding q) s = .next (complete q st 0 s) := by
  show execLayLanding q s = _
  unfold layFieldCheck layLengths at check
  unfold execLayLanding
  rw [due_find turn]
  dsimp only
  rw [if_neg (by simp [due_op turn, data]), if_neg (by simp [due_st turn]), if_neg (by simp [due_st turn]), turn]
  dsimp only
  rw [check]
  rfl

theorem exec_layLanding_admitted {s : State} {q : Nat} {c : Cmd} (turn : due s q 0x0E = some c) (data : c.ring ≠ 32)
    (check : layFieldCheck s c.e = none)
    (admitted : admissionCheck s c.e false (writeMeasure (c.e.count * c.e.length) (cutRecords ((layLengths c.e).map Prod.fst)).1.length
      (layLengths c.e)) (cutRecords ((layLengths c.e).map Prod.fst)).1.length = none) :
    exec (.layLanding q) s = .next (layGoOn q (bits c.e.auxAddr 47 0)
      (admitWrite c (fun t => newWrite c .landing t (layLengths c.e) [] (genOf s c.e)) s)) := by
  show execLayLanding q s = _
  unfold layFieldCheck layLengths at check
  unfold layLengths at admitted
  unfold execLayLanding
  rw [due_find turn]
  dsimp only
  rw [if_neg (by simp [due_op turn, data]), if_neg (by simp [due_st turn]), if_neg (by simp [due_st turn]), turn]
  dsimp only
  rw [check]
  dsimp only
  rw [admitted]
  rfl

/-- With no Stall to be had the write stays as it is. -/
theorem layFill_waits {s : State} (none : (acquireOne 0x30 0 s).1 = none) (first n q : Nat) :
    (layFill first n q s).hq = s.hq ∧ (layFill first n q s).parts = s.parts := by
  have stalls := acquireOne_frame 0x30 0 s
  cases n with
  | zero => exact ⟨rfl, rfl⟩
  | succ n =>
    unfold layFill
    split
    · exact ⟨rfl, rfl⟩
    · split
      · next h =>
        rw [h] at stalls
        exact ⟨stalls.same .hq rfl, stalls.same .parts rfl⟩
      · next h =>
        rw [h] at none
        cases none

theorem layGoOn_waits {s : State} (none : (acquireOne 0x30 0 s).1 = none) (q first : Nat) :
    (layGoOn q first s).hq = s.hq ∧ (layGoOn q first s).parts = s.parts := by
  unfold layGoOn
  split
  · exact layFill_waits none ..
  · exact ⟨rfl, rfl⟩

/-- What a write's checks from the fourth on have found in order when they pass (R470). -/
theorem admissionCheck_passes {s : State} {e : SqEntry} {measure packets : Nat} (h : admissionCheck s e false measure packets = none) :
    (slotAt s e.keySlot).loaded = true ∧ keyRefused s e.keySlot (labelOf s e.partition (genOf s e) e.hostLabel) packets = false := by
  unfold admissionCheck at h
  split at h
  · cases h
  split at h
  · cases h
  split at h
  · cases h
  next loaded =>
  split at h
  · cases h
  split at h
  · cases h
  split at h
  · cases h
  next refused => exact ⟨by simpa using loaded, by simpa using refused⟩

/-- The packet of a running LAY_LANDING that has one. -/
theorem layFill_one {s v u : State} {q first : Nat} {w : Write} {k : Pkt} {h : Handle} {b : Bytes} (found : findWrite s q = some w)
    (one : w.pkts = [k]) (waits : k.st = .dma) (stall : acquireOne 0x30 0 s = (some h, v)) (plain : layPacket w first 0 k v = .ok (b, u)) :
    findWrite (layFill first 2 q s) q = some { w with pkts := [{ k with st := .ready, data := fit b k.hostLen, ingress := some h }] }
      ∧ (layFill first 2 q s).stk = v.stk := by
  have stalls := acquireOne_frame 0x30 0 s
  rw [stall] at stalls
  have packet := (layPacket_frame w first 0 k v).ok b u plain
  have uhq : u.hq = s.hq := (packet.same .hq rfl).trans (stalls.same .hq rfl)
  let g := fun k : Pkt => { k with st := .ready, data := fit b k.hostLen, ingress := some h }
  have ready : findWrite (updWrite q (fun w => w.updPkt 0 g) u) q = some { w with pkts := [g k] } := by
    rw [findWrite_updPkt ((findWrite_of_hq uhq q).trans found) 0 g]
    unfold Write.updPkt
    rw [one]
    rfl
  have first_ : ((findWrite s q).bind fun w => (w.pkts.zipIdx.find? fun x => x.1.st == .dma).map fun x => (w, x)) = some (w, k, 0) := by
    rw [found, Option.bind_some, one]
    simp [waits]
  have last : layFill first 1 q (updWrite q (fun w => w.updPkt 0 g) u) = updWrite q (fun w => w.updPkt 0 g) u := by
    unfold layFill
    rw [ready]
    rfl
  have step : layFill first 2 q s = updWrite q (fun w => w.updPkt 0 g) u := by
    rw [← last]
    conv_lhs => unfold layFill
    rw [first_]
    dsimp only
    rw [stall]
    dsimp only
    rw [plain]
  rw [step]
  exact ⟨ready, packet.same .stk rfl⟩

/-- Settles O26: each command's own equation gives its branch; blocks are read by `readBlocks`, unmapped by `unmapRange`, laid by
`admitWrite` and `layFill`. -/
theorem landingBlocksAreStoredReadAndDiscarded : Obligations.LandingBlocksAreStoredReadAndDiscarded := by
  intro s q c
  refine ⟨fun sgl blocks turn => ?_, fun sgl turn => ?_, fun turn => ?_, fun turn => ?_, fun w k b u h v run data found one waits stall plain => ?_⟩
  · intro d
    have runs := exec_writeLanding_due turn sgl blocks
    have there := due_find turn
    refine ⟨fun bad => ?_, fun fields list => ⟨fun empty => ?_, fun loaded root ctr key u hroot hkey => ?_⟩⟩
    · rw [if_pos (.inl bad)] at runs
      exact ⟨_, runs, .complete there .., (complete_frame ..).same .shd rfl⟩
    · rw [if_neg (by simp [fields, list]), if_pos empty] at runs
      exact ⟨_, runs, .complete there .., (complete_frame ..).same .shd rfl⟩
    · rw [if_neg (by simp [fields, list]), if_neg (by simp [loaded])] at runs
      obtain rfl := findCmd_seq there
      exact ⟨_, runs, beginLanding_bound (c := d) (findCmd_updCmd_const there d rfl) hroot hkey blocks⟩
  · have runs := exec_readLanding turn sgl
    have there := due_find turn
    refine ⟨fun bad => ?_, fun fields list => ?_⟩
    · rw [if_pos (.inl bad)] at runs
      exact ⟨_, runs, .complete there .., complete_hostMem ..⟩
    · rw [if_neg (by simp [fields, list])] at runs
      obtain rfl := findCmd_seq there
      refine ⟨⟨_, runs, readBlocks_ends _ _ _ there⟩, fun one unmapped => ?_, fun one b u plain => ?_, fun st u fails => ?_⟩
      · rw [one] at runs
        exact ⟨_, runs, readBlocks_unmapped _ there unmapped⟩
      · rw [one] at runs
        exact ⟨_, runs, readBlocks_plain _ there plain⟩
      · obtain ⟨n, count⟩ : ∃ n, c.e.count = n + 1 := by
          refine Nat.exists_eq_succ_of_ne_zero fun zero => ?_
          simp [landingFieldsBad, zero] at fields
        rw [count] at runs
        exact ⟨_, runs, readBlocks_fails _ there fails n⟩
  · have runs := exec_discardLanding turn
    have there := due_find turn
    refine ⟨fun bad => ?_, fun fields wf => ?_⟩
    · rw [if_pos bad] at runs
      exact ⟨_, runs, .complete there .., (complete_frame ..).same .shd rfl⟩
    · rw [if_neg (by simp [fields])] at runs
      have ended := Ended.complete ((findCmd_of_hq (landingDiscarded_hq c.e.position c.e.count s) q).trans there) Status.ok 0
      obtain ⟨map, lost⟩ := landingDiscarded_map c.e.position c.e.count s
      have shd := (complete_frame q Status.ok 0 (landingDiscarded c.e.position c.e.count s)).same .shd rfl
      have mapped : ∀ l, mapOf (complete q Status.ok 0 (landingDiscarded c.e.position c.e.count s)) l
          = mapOf (unmapRange (landingUnit c.e.position) c.e.count s) l := fun l => by
        unfold mapOf
        rw [shd, map]
      refine ⟨_, runs, ended, fun n low high => ?_, fun x hx => ?_, fun n out => ?_⟩
      · rw [mapped, mapOf_unmapRange wf, if_pos (by unfold landingUnit; omega)]
      · rw [shd, lost] at hx
        have k := (List.mem_filter.mp hx).2
        simp at k
        omega
      · rw [mapped, mapOf_unmapRange wf, if_neg out]
  · intro first ls packets bad
    refine ⟨fun st check data => ?_, fun check data admitted fresh none atEnd => ?_⟩
    · exact ⟨_, exec_layLanding_field turn data check, .complete (due_find turn) .., (complete_frame ..).same .parts rfl⟩
    · have runs := exec_layLanding_admitted turn data check admitted
      obtain ⟨hq, parts⟩ := layGoOn_waits none q first
      obtain ⟨loaded, key⟩ := admissionCheck_passes admitted
      have len : ∀ t, (newWrite c .landing t ls [] (genOf s c.e)).pkts.length = packets := fun t => List.length_map _
      obtain ⟨part, -, cmd, -, write⟩ := admitWrite_admits s q c c (fun t => newWrite c .landing t ls [] (genOf s c.e)) rfl
        (findCmd_seq (due_find turn)) (due_find turn) fresh (fun _ => findCmd_seq (due_find turn))
        (fun t _ => ⟨rfl, rfl, rfl, rfl, loaded, by rw [len]; exact key⟩)
      obtain ⟨d, hd, dst, de⟩ := cmd
      obtain ⟨w, hw, wpart, wfirst, wkind, -, -, -, wpkts, -⟩ := write
      refine ⟨_, runs, ?_, ⟨d, (findCmd_of_hq hq q).trans hd, dst, de⟩, w, (findWrite_of_hq hq q).trans hw, wpart, wfirst, wkind, ?_⟩
      · exact (partAt_of_parts parts _).trans (part.trans (if_neg (by simp [atEnd])))
      · rw [wpkts, len]
  · have there := runningCmd_find run
    have st := (runningCmd_st run).1
    have op := (runningCmd_st run).2
    have runs : exec (.layLanding q) s = .next (layGoOn q (bits c.e.auxAddr 47 0) s) := by
      show execLayLanding q s = _
      unfold execLayLanding
      rw [there]
      dsimp only
      rw [if_neg (by simp [op, data]), if_neg (by simp [st]), if_pos st]
      rfl
    have fills : layGoOn q (bits c.e.auxAddr 47 0) s = layFill (bits c.e.auxAddr 47 0) 2 q s := by
      unfold layGoOn
      rw [run, found]
      dsimp only
      rw [one]
      rfl
    rw [fills] at runs
    exact ⟨_, runs, layFill_one found one waits stall plain⟩

end Sys2Proof.Machine
end

/-! Configuration sets: staging, the check, the commit and its effect (R53, R74, R278, R411, R412, R415, R416). -/

section

namespace Sys2Proof.Machine

/-! ## A set that takes effect (R412, R413) -/

/-- The records of a set are in force, with their consequences; what its kind does is still to come. -/
def recordsTaken (clock : Nat) (recs : List CfgRec) (s : State) : State :=
  consequences s.cfg.records recs (inc 0x120100 (updCfg (fun c => { c with records := applyRecs c.records recs, commitClock := clock }) s))

/-- A set has taken effect; the command that waits for it is still to end. -/
def setTaken (clock : Nat) (x : CfgSet) (s : State) : State := enterService s (kindEffect x (recordsTaken clock x.recs s))

theorem recordsTaken_cfg (clock : Nat) (recs : List CfgRec) (s : State) :
    (recordsTaken clock recs s).cfg = { s.cfg with records := applyRecs s.cfg.records recs, commitClock := clock } :=
  (consequences_frame ..).same .cfg rfl

theorem recordsTaken_hq (clock : Nat) (recs : List CfgRec) (s : State) : (recordsTaken clock recs s).hq = s.hq :=
  (consequences_frame ..).same .hq rfl

theorem recordsTaken_mgt (clock : Nat) (recs : List CfgRec) (s : State) : (recordsTaken clock recs s).mgt = s.mgt :=
  (consequences_frame ..).same .mgt rfl

theorem recordsTaken_norMem (clock : Nat) (recs : List CfgRec) (s : State) : (recordsTaken clock recs s).norMem = s.norMem :=
  (consequences_frame ..).same .norMem rfl

/-- A set without a command. -/
theorem takeEffect_alone {x : CfgSet} (alone : x.cmd = none) (clock : Nat) (s : State) : takeEffect clock x s = setTaken clock x s := by
  unfold takeEffect
  rw [alone]
  rfl

/-- A set with a command ends it OK with the set's result. -/
theorem takeEffect_ends {x : CfgSet} {q : Nat} {c : Cmd} {s : State} (cmd : x.cmd = some q) (clock : Nat)
    (found : findCmd (setTaken clock x s) q = some c) :
    Ended (takeEffect clock x s) q Status.ok (setResult x clock (setTaken clock x s))
      ∧ (takeEffect clock x s).cfg = (setTaken clock x s).cfg ∧ (takeEffect clock x s).mgt = (setTaken clock x s).mgt := by
  obtain ⟨v, hv⟩ : ∃ v, v = updCmd q (fun c => { c with endSeen := (setTaken clock x s).hq.acceptSeq }) (setTaken clock x s) := ⟨_, rfl⟩
  have step : takeEffect clock x s = complete q Status.ok (setResult x clock (setTaken clock x s)) v := by
    unfold takeEffect
    rw [cmd, hv]
    rfl
  have there := updCmd_find found (fun c => { c with endSeen := (setTaken clock x s).hq.acceptSeq }) fun _ => rfl
  rw [← hv] at there
  have frame := complete_frame q Status.ok (setResult x clock (setTaken clock x s)) v
  have seen := updCmd_frame q (fun c => { c with endSeen := (setTaken clock x s).hq.acceptSeq }) (setTaken clock x s)
  rw [← hv] at seen
  rw [step]
  exact ⟨.complete there .., (frame.same .cfg rfl).trans (seen.same .cfg rfl), (frame.same .mgt rfl).trans (seen.same .mgt rfl)⟩

theorem setTaken_plain (clock : Nat) (recs : List CfgRec) (cmd entry : Option Nat) (s : State) :
    (setTaken clock ⟨recs, .plain, cmd, entry⟩ s).hq = s.hq
      ∧ (setTaken clock ⟨recs, .plain, cmd, entry⟩ s).cfg = { s.cfg with records := applyRecs s.cfg.records recs, commitClock := clock } :=
  have engines := enterService_frame s (recordsTaken clock recs s)
  ⟨(engines.same .hq rfl).trans (recordsTaken_hq ..), (engines.same .cfg rfl).trans (recordsTaken_cfg ..)⟩

theorem takeEffect_plain {s : State} {q : Nat} {c : Cmd} (found : findCmd s q = some c) (clock : Nat) (recs : List CfgRec) (entry : Option Nat) :
    Ended (takeEffect clock ⟨recs, .plain, some q, entry⟩ s) q Status.ok clock
      ∧ (takeEffect clock ⟨recs, .plain, some q, entry⟩ s).cfg
        = { s.cfg with records := applyRecs s.cfg.records recs, commitClock := clock } := by
  obtain ⟨hq, cfg⟩ := setTaken_plain clock recs (some q) entry s
  obtain ⟨ended, same, -⟩ := takeEffect_ends (x := ⟨recs, .plain, some q, entry⟩) rfl clock ((findCmd_of_hq hq q).trans found)
  exact ⟨ended, same.trans cfg⟩

/-! ## Committing a checked set (R278, R412) -/

theorem unscheduled {s : State} (none : s.cfg.scheduled = []) : updCfg (fun c => { c with scheduled := [] }) s = s := by
  unfold updCfg
  rw [← none]

theorem effectOf_nothing {s : State} (none : s.cfg.scheduled = []) (pick : CfgSet → Bool) (clock : Nat) : effectOf pick clock s = s := by
  have kept : updCfg (fun c => { c with scheduled := c.scheduled.filter fun x => !pick x }) s = s := by
    refine Eq.trans ?_ (unscheduled none)
    unfold updCfg
    dsimp only
    rw [none]
    rfl
  unfold effectOf
  rw [none]
  exact kept

theorem commitSet_atOnce {s : State} (idle : deviceWriting s = false) (none : s.cfg.scheduled = []) (recs : List CfgRec) (kind : SetKind)
    (cmd : Option Nat) : commitSet recs kind cmd s = some (takeEffect 0 ⟨recs, kind, cmd, .none⟩ s) := by
  unfold commitSet
  rw [if_pos idle, effectOf_nothing none]

theorem commitSet_full {s : State} (writing : deviceWriting s = true) (full : 16 ≤ s.cfg.scheduled.length) (recs : List CfgRec)
    (kind : SetKind) (cmd : Option Nat) : commitSet recs kind cmd s = none := by
  unfold commitSet
  rw [if_neg (by simp [writing]), if_pos full]

theorem commitSet_scheduled {s u : State} {i : Nat} (writing : deviceWriting s = true) (room : s.cfg.scheduled.length < 16)
    (posted : postSched Kind.commit 5 (commitPoint s).1 (commitPoint s).2 0 0 s = (some i, u)) (recs : List CfgRec) (kind : SetKind)
    (cmd : Option Nat) :
    commitSet recs kind cmd s
      = some (cmd.elim id (setSt · .running) (updCfg (fun g => { g with scheduled := g.scheduled ++ [⟨recs, kind, cmd, some i⟩] }) u)) := by
  unfold commitSet
  rw [if_neg (by simp [writing]), if_neg (by omega)]
  dsimp only
  rw [posted]
  cases cmd <;> rfl

/-- The command of a scheduled set runs on; nothing else changes. -/
theorem commandWaits_keeps (cmd : Option Nat) (s : State) : (cmd.elim id (setSt · .running) s).cfg = s.cfg
    ∧ (cmd.elim id (setSt · .running) s).mgt = s.mgt ∧ (cmd.elim id (setSt · .running) s).srv = s.srv := by
  cases cmd <;> exact ⟨rfl, rfl, rfl⟩

/-! ## CFG_STAGE, CFG_CHECK, CFG_DISCARD (R411, R415) -/

section Foreign

variable {s : State} {q : Nat} {c : Cmd} (foreign : foreignSet s c = true)

include foreign

theorem exec_cfgStage_foreign (turn : due s q 0x80 = some c) (sgl data : Bytes) :
    exec (.cfgStage q sgl data) s = .next (complete q Status.busyRetry 1000 s) := by
  show execCfgStage q sgl data s = _
  unfold execCfgStage
  rw [turn]
  exact if_pos foreign

theorem exec_cfgCheck_foreign (turn : due s q 0x81 = some c) : exec (.cfgCheck q) s = .next (complete q Status.busyRetry 1000 s) := by
  show execCfgCheck q s = _
  unfold execCfgCheck
  rw [turn]
  exact if_pos foreign

theorem exec_cfgCommit_foreign (turn : due s q 0x82 = some c) : exec (.cfgCommit q) s = .next (complete q Status.busyRetry 1000 s) := by
  show execCfgCommit q s = _
  unfold execCfgCommit
  rw [turn]
  exact if_pos foreign

theorem exec_cfgDiscard_foreign (turn : due s q 0x83 = some c) : exec (.cfgDiscard q) s = .next (complete q Status.busyRetry 1000 s) := by
  show execCfgDiscard q s = _
  unfold execCfgDiscard
  rw [turn]
  exact if_pos foreign

end Foreign

section Own

variable {s : State} {q : Nat} {c : Cmd} (own : foreignSet s c = false)

include own

theorem exec_cfgStage_unreadable (turn : due s q 0x80 = some c) {sgl data : Bytes} (list : sglOk c.e sgl c.e.length = true)
    (len : data.length = c.e.length) (cut : readRecords data = none) :
    exec (.cfgStage q sgl data) s = .next (complete q Status.invalidField 0 s) := by
  show execCfgStage q sgl data s = _
  unfold execCfgStage
  rw [turn]
  refine (if_neg (by simp [own])).trans ((if_neg (by simp [list, len])).trans ?_)
  rw [cut]
  rfl

theorem exec_cfgStage_stages (turn : due s q 0x80 = some c) {sgl data : Bytes} {rs : List CfgRec} (list : sglOk c.e sgl c.e.length = true)
    (len : data.length = c.e.length) (read : readRecords data = some rs) :
    ∃ u, u = each (stageRec c.port) rs (updCfg (fun g => { g with openSet := some (c.port, openRecs s) }) s)
      ∧ exec (.cfgStage q sgl data) s = .next (complete q Status.ok (openRecs u).length u) := by
  refine ⟨_, rfl, ?_⟩
  show execCfgStage q sgl data s = _
  unfold execCfgStage
  rw [turn]
  refine (if_neg (by simp [own])).trans ((if_neg (by simp [list, len])).trans ?_)
  rw [read]
  rfl

theorem exec_cfgCheck_passes (turn : due s q 0x81 = some c) (check : checkStaged (openRecs s) s = none) :
    exec (.cfgCheck q) s = .next (complete q Status.ok 0 s) := by
  show execCfgCheck q s = _
  unfold execCfgCheck
  rw [turn]
  refine (if_neg (by simp [own])).trans ?_
  rw [check]
  rfl

theorem exec_cfgCheck_fails (turn : due s q 0x81 = some c) {f : Nat × Nat} (check : checkStaged (openRecs s) s = some f) :
    exec (.cfgCheck q) s = .next (complete q f.1 f.2 (checkFailed f s)) := by
  show execCfgCheck q s = _
  unfold execCfgCheck
  rw [turn]
  refine (if_neg (by simp [own])).trans ?_
  rw [check]
  rfl

theorem exec_cfgDiscard_own (turn : due s q 0x83 = some c) :
    exec (.cfgDiscard q) s = .next (complete q Status.ok 0 (updCfg (fun g => { g with openSet := none }) s)) := by
  show execCfgDiscard q s = _
  unfold execCfgDiscard
  rw [turn]
  exact if_neg (by simp [own])

/-! ## CFG_COMMIT (R412, R416) -/

theorem exec_cfgCommit_nothing (turn : due s q 0x82 = some c) (noSet : s.cfg.openSet = none) :
    exec (.cfgCommit q) s = .next (complete q Status.ok 0 s) := by
  show execCfgCommit q s = _
  unfold execCfgCommit
  rw [turn]
  refine (if_neg (by simp [own])).trans ?_
  rw [noSet]
  rfl

variable {p : Port} {rs : List CfgRec} (openSet : s.cfg.openSet = some (p, rs))

include openSet

theorem exec_cfgCommit_fails (turn : due s q 0x82 = some c) {f : Nat × Nat} (check : checkStaged rs s = some f) :
    exec (.cfgCommit q) s = .next (complete q f.1 f.2 (checkFailed f s)) := by
  show execCfgCommit q s = _
  unfold execCfgCommit
  rw [turn]
  refine (if_neg (by simp [own])).trans ?_
  rw [openSet]
  dsimp only
  rw [check]
  rfl

theorem exec_cfgCommit_commits (turn : due s q 0x82 = some c) (check : checkStaged rs s = none) {u : State}
    (commit : commitSet rs .plain (some q) s = some u) :
    exec (.cfgCommit q) s = .next (updCfg (fun g => { g with openSet := none }) u) := by
  show execCfgCommit q s = _
  unfold execCfgCommit
  rw [turn]
  refine (if_neg (by simp [own])).trans ?_
  rw [openSet]
  dsimp only
  rw [check]
  dsimp only
  rw [commit]
  rfl

theorem exec_cfgCommit_full (turn : due s q 0x82 = some c) (check : checkStaged rs s = none)
    (commit : commitSet rs .plain (some q) s = none) : exec (.cfgCommit q) s = .next (complete q Status.busyRetry (fullHint s) s) := by
  show execCfgCommit q s = _
  unfold execCfgCommit
  rw [turn]
  refine (if_neg (by simp [own])).trans ?_
  rw [openSet]
  dsimp only
  rw [check]
  dsimp only
  rw [commit]
  rfl

end Own

/-- Staging records puts those that are not ignored in the open set, in order. -/
theorem each_stageRec_cfg (p : Port) (rs l : List CfgRec) (s : State) (h : s.cfg.openSet = some (p, l)) :
    (each (stageRec p) rs s).cfg = { s.cfg with openSet := some (p, (rs.filter fun r => !ignored r).foldl (fun l r => putRec r l) l) } := by
  induction rs generalizing l s with
  | nil =>
    show s.cfg = { s.cfg with openSet := some (p, l) }
    rw [← h]
  | cons r rs ih =>
    show (each (stageRec p) rs (stageRec p r s)).cfg = _
    cases hr : ignored r with
    | true =>
      have counted : stageRec p r s = inc 0x120108 s := if_pos hr
      rw [counted, List.filter_cons, if_neg (by simp [hr])]
      exact ih l (inc 0x120108 s) h
    | false =>
      have put : stageRec p r s = updCfg (fun c => { c with openSet := some (p, putRec r ((c.openSet.map Prod.snd).getD [])) }) s :=
        if_neg (by simp [hr])
      have now : (stageRec p r s).cfg.openSet = some (p, putRec r l) := by
        rw [put, updCfg_cfg, h]
        rfl
      rw [ih _ _ now, List.filter_cons, if_pos (by simp [hr]), put]
      rfl

/-- A failed check changes no record and no set. -/
theorem checkFailed_keeps (f : Nat × Nat) (s : State) :
    (checkFailed f s).cfg.records = s.cfg.records ∧ (checkFailed f s).cfg.openSet = s.cfg.openSet ∧ (checkFailed f s).hq = s.hq := by
  unfold checkFailed
  dsimp only
  split <;> exact ⟨rfl, rfl, rfl⟩

theorem checkFailed_ends {s : State} {q : Nat} {c : Cmd} (found : findCmd s q = some c) (f : Nat × Nat) :
    Ended (complete q f.1 f.2 (checkFailed f s)) q f.1 f.2
      ∧ (complete q f.1 f.2 (checkFailed f s)).cfg.records = s.cfg.records
      ∧ (complete q f.1 f.2 (checkFailed f s)).cfg.openSet = s.cfg.openSet := by
  obtain ⟨records, set, hq⟩ := checkFailed_keeps f s
  refine ⟨.complete ((findCmd_of_hq hq q).trans found) .., ?_⟩
  rw [(complete_frame q f.1 f.2 (checkFailed f s)).same .cfg rfl]
  exact ⟨records, set⟩

/-! ## SET_FEATURE (R53) -/

theorem complete_ringAt (q st r : Nat) (s : State) (p : Port) (n : Nat) : ringAt (complete q st r s) p n = ringAt s p n := by
  refine ringAt_of_rings ?_ p n
  unfold complete
  rw [countKey_hq]
  rfl

section Feature

variable {s : State} {q : Nat} {c : Cmd} (turn : due s q 0x11 = some c)

include turn

theorem exec_setFeature_coalescing (feature : bits c.e.param 7 0 = 1) :
    exec (.setFeature q) s = .next (complete q Status.ok 0 (updRing c.port (bits c.e.param 12 8)
      (fun x => { x with coalCount := bits c.e.length 15 0, coalTime := bits c.e.length 31 16 }) s)) := by
  show execSetFeature q s = _
  unfold execSetFeature
  rw [turn]
  dsimp only
  rw [feature]
  rfl

theorem exec_setFeature_reserve (feature : bits c.e.param 7 0 = 2) :
    exec (.setFeature q) s = if c.e.length < 16 ∨ 65535 < c.e.length then .next (complete q Status.invalidField 0 s)
      else .next (complete q Status.ok 0 (updPart c.e.partition (fun x => { x with ewReserve := c.e.length }) s)) := by
  show execSetFeature q s = _
  unfold execSetFeature
  rw [turn]
  dsimp only
  rw [feature]
  rfl

theorem exec_setFeature_exposure (feature : bits c.e.param 7 0 = 3) :
    exec (.setFeature q) s = .next (stageAndCommit [exposureRec c.e.length] .plain q s) := by
  show execSetFeature q s = _
  unfold execSetFeature
  rw [turn]
  dsimp only
  rw [feature]
  rfl

theorem exec_setFeature_unknown (feature : 3 < bits c.e.param 7 0 ∨ bits c.e.param 7 0 = 0) :
    exec (.setFeature q) s = .next (complete q Status.invalidField 0 s) := by
  show execSetFeature q s = _
  unfold execSetFeature
  rw [turn]
  dsimp only
  generalize bits c.e.param 7 0 = n at feature
  split
  · omega
  · omega
  · omega
  · rfl

end Feature

theorem stageAndCommit_commits {recs : List CfgRec} {kind : SetKind} {q : Nat} {s u : State} (check : checkStaged recs s = none)
    (commit : commitSet recs kind (some q) s = some u) : stageAndCommit recs kind q s = u := by
  unfold stageAndCommit
  rw [check]
  dsimp only
  rw [commit]

/-! ## COMMIT (R412) -/

/-- A commit point with a single set of it scheduled: the set takes effect. -/
theorem exec_commit_single {s : State} {i q : Nat} {e : SchedEnt} {recs : List CfgRec} {c : Cmd} (found : findCmd s q = some c)
    (only : s.cfg.scheduled = [⟨recs, .plain, some q, some i⟩]) (writing : deviceWriting s = true) (fires : Fires s i Kind.commit e) :
    Runs (.commit i) s fun t => Ended t q Status.ok e.pos
      ∧ t.cfg = { s.cfg with records := applyRecs s.cfg.records recs, scheduled := [], commitClock := e.pos } := by
  obtain ⟨ctrs, -, fired⟩ := fire_of_fires fires fun e s =>
    effectOf (fun (x : CfgSet) => x.entry == some i
      || (x.entry.bind fun i => AMap.get? s.srv.sched i).any fun y => y.pos == e.pos && y.dir == e.dir) e.pos s
  obtain ⟨v, hv⟩ : ∃ v : State, v = { s with srv := { s.srv with sched := AMap.erase s.srv.sched i }, ctrs := ctrs } := ⟨_, rfl⟩
  rw [← hv] at fired
  have sched : v.cfg.scheduled = [⟨recs, .plain, some q, some i⟩] := by rw [hv]; exact only
  obtain ⟨w, hw⟩ : ∃ w, w = cancelSched i (updCfg (fun c => { c with scheduled := [] }) v) := ⟨_, rfl⟩
  have effect : ∀ pick : CfgSet → Bool, pick ⟨recs, .plain, some q, some i⟩ = true →
      effectOf pick e.pos v = takeEffect e.pos ⟨recs, .plain, some q, some i⟩ w := fun pick hp => by
    unfold effectOf
    rw [sched, List.filter_cons, if_pos hp, hw]
    unfold updCfg
    dsimp only
    rw [sched, List.filter_cons, if_neg (by simp [hp])]
    rfl
  rw [effect _ (by simp)] at fired
  have there : findCmd w q = some c := (findCmd_of_hq (by rw [hw, hv]; rfl) q).trans found
  have cfg : w.cfg = { s.cfg with scheduled := [] } := by rw [hw, hv]; rfl
  refine ⟨_, ?_, (takeEffect_plain there e.pos recs (some i)).1, ?_⟩
  · show execCommit i s = _
    unfold execCommit
    rw [if_neg (by simp [writing])]
    exact congrArg Host.Outcome.next fired
  · rw [(takeEffect_plain there e.pos recs (some i)).2, cfg]

/-- Settles O28: each command has one equation per branch; a set that commits takes effect at once (`takeEffect_plain`) or waits
for its commit point (`commitSet_scheduled`). -/
theorem configurationSetsAreStagedCheckedAndCommitted : Obligations.ConfigurationSetsAreStagedCheckedAndCommitted := by
  intro s q c
  have ends : ∀ {op st r : Nat}, due s q op = some c → Ended (complete q st r s) q st r ∧ (complete q st r s).cfg = s.cfg :=
    fun turn => ⟨.complete (due_find turn) .., (complete_frame ..).same .cfg rfl⟩
  refine ⟨fun foreign => ⟨fun sgl data turn => ?_, fun turn => ?_, fun turn => ?_, fun turn => ?_⟩,
    fun own => ⟨fun sgl data turn list len => ⟨fun cut => ?_, fun rs read => ?_⟩, fun turn => ⟨fun check => ?_, fun f check => ?_⟩,
      fun turn => ?_, fun turn => ⟨fun noSet => ?_, fun p rs openSet => ⟨fun f check => ?_, fun check idle empty => ?_,
        fun check writing => ⟨fun full => ?_, fun i u room posted => ?_⟩⟩⟩⟩,
    fun turn => ⟨fun feature => ?_, fun feature low high => ?_, fun feature out => ?_, fun feature check idle empty => ?_, fun feature => ?_⟩,
    fun i e rs found only writing fires kind => exec_commit_single found only writing ⟨fires, kind⟩⟩
  · exact ⟨_, exec_cfgStage_foreign foreign turn sgl data, ends turn⟩
  · exact ⟨_, exec_cfgCheck_foreign foreign turn, ends turn⟩
  · exact ⟨_, exec_cfgCommit_foreign foreign turn, ends turn⟩
  · exact ⟨_, exec_cfgDiscard_foreign foreign turn, ends turn⟩
  · exact ⟨_, exec_cfgStage_unreadable own turn list len cut, ends turn⟩
  · obtain ⟨u, hu, runs⟩ := exec_cfgStage_stages own turn list len read
    have cfg : u.cfg = { s.cfg with openSet := some (c.port, (rs.filter fun r => !ignored r).foldl (fun l r => putRec r l) (openRecs s)) } := by
      rw [hu, each_stageRec_cfg c.port rs (openRecs s) _ rfl]
      rfl
    have count : openRecs u = (rs.filter fun r => !ignored r).foldl (fun l r => putRec r l) (openRecs s) := by
      unfold openRecs
      rw [cfg]
      rfl
    have staged : u.hq = s.hq := by
      rw [hu]
      exact (Frame.each rs (Frame.refl 0x30000 _) fun r v => stageRec_frame c.port r v).same .hq rfl
    refine ⟨_, runs, ?_, ((complete_frame ..).same .cfg rfl).trans cfg⟩
    rw [count]
    exact .complete ((findCmd_of_hq staged q).trans (due_find turn)) ..
  · exact ⟨_, exec_cfgCheck_passes own turn check, ends turn⟩
  · exact ⟨_, exec_cfgCheck_fails own turn check, checkFailed_ends (due_find turn) f⟩
  · exact ⟨_, exec_cfgDiscard_own own turn, .complete (s := updCfg _ s) (due_find turn) .., (complete_frame ..).same .cfg rfl⟩
  · exact ⟨_, exec_cfgCommit_nothing own turn noSet, ends turn⟩
  · exact ⟨_, exec_cfgCommit_fails own openSet turn check, checkFailed_ends (due_find turn) f⟩
  · obtain ⟨ended, cfg⟩ := takeEffect_plain (due_find turn) 0 rs none
    refine ⟨_, exec_cfgCommit_commits own openSet turn check (commitSet_atOnce idle empty ..), ended.of_hq rfl, ?_⟩
    rw [updCfg_cfg, cfg]
  · exact ⟨_, exec_cfgCommit_full own openSet turn check (commitSet_full writing full ..), ends turn⟩
  · have post := postSched_frame_eq _ _ _ _ _ _ _ posted
    have there := setSt_find (s := updCfg (fun g => { g with scheduled := g.scheduled ++ [⟨rs, .plain, some q, some i⟩] }) u)
      ((findCmd_of_frame post (by decide) q).trans (due_find turn)) .running
    refine ⟨_, exec_cfgCommit_commits own openSet turn check (commitSet_scheduled writing room posted ..), there, rfl, ?_⟩
    refine (congrArg (fun g : Cfg => { g with openSet := none }) (commandWaits_keeps (some q) _).1).trans ?_
    rw [updCfg_cfg, post.same .cfg rfl]
  · have low : bits c.e.param 12 8 ≤ 32 := by
      have below : bits c.e.param 12 8 < 2 ^ 5 := Nat.mod_lt _ (by decide)
      omega
    refine ⟨_, exec_setFeature_coalescing turn feature, .complete (s := updRing ..) (due_find turn) .., ?_⟩
    exact (complete_ringAt ..).trans ((ringAt_updRing low _ _ _ low).trans (if_pos ⟨rfl, rfl⟩))
  · refine ⟨_, (exec_setFeature_reserve turn feature).trans (if_neg (by omega)), .complete (s := updPart ..) (due_find turn) .., ?_⟩
    rw [partAt_of_parts ((complete_frame ..).same .parts rfl), partAt_updPart_self]
  · exact ⟨_, (exec_setFeature_reserve turn feature).trans (if_pos out), .complete (due_find turn) .., (complete_frame ..).same .parts rfl⟩
  · refine ⟨_, (exec_setFeature_exposure turn feature).trans
      (congrArg Host.Outcome.next (stageAndCommit_commits check (commitSet_atOnce idle empty ..))), takeEffect_plain (due_find turn) ..⟩
  · exact ⟨_, exec_setFeature_unknown turn feature, ends turn⟩

end Sys2Proof.Machine
end

/-! Activations, takeovers and the cross watchdog (R74, R421, R422, R428, R429, R430). -/

section

namespace Sys2Proof.Machine

/-! ## FW_ACTIVATE (R428, R429) -/

/-- FW_ACTIVATE names another slot with a newer image (R428). -/
def newerSlot (s : State) (c : Cmd) : Prop :=
  bits c.e.param 0 0 ≠ s.cfg.bootSlot ∧ s.cfg.bootSeq < bootSeqOf (headerAt s (bits c.e.param 0 0))

theorem newerSlot_passes {s : State} {c : Cmd} (newer : newerSlot s c) :
    ¬(bits c.e.param 0 0 = s.cfg.bootSlot ∨ bootSeqOf (headerAt s (bits c.e.param 0 0)) ≤ s.cfg.bootSeq) := by
  unfold newerSlot at newer
  omega

/-- The check that an activation's records pass (R429). -/
def activationCheck (k : Nat) (s : State) : Option (Nat × Nat) :=
  checkSet (.activation s.cfg.records (stableAt s 1).size) (baseRecs s) ((slotRecords s k).getD [])

/-- The records that an activation ignores are counted. -/
def ignoredCounted (k : Nat) (s : State) : State := addCtr 0x120108 (((slotRecords s k).getD []).filter ignored).length s

section FwActivate

variable {s : State} {q : Nat} {c : Cmd} (turn : due s q 0x88 = some c)

include turn

theorem exec_fwActivate_older (older : ¬newerSlot s c) : exec (.fwActivate q) s = .next (complete q Status.invalidField 0 s) := by
  show execFwActivate q s = _
  unfold execFwActivate
  rw [turn]
  refine if_pos ?_
  unfold newerSlot at older
  omega

variable (newer : newerSlot s c)

include newer

theorem exec_fwActivate_during (other : s.mgt.activation.isSome = true) :
    exec (.fwActivate q) s = .next (complete q Status.busyRetry 65535 s) := by
  show execFwActivate q s = _
  unfold execFwActivate
  rw [turn]
  exact (if_neg (newerSlot_passes newer)).trans (if_pos other)

variable (first : s.mgt.activation = none)

include first

theorem exec_fwActivate_invalid (bad : examine (fusesOf s) s (bits c.e.param 0 0) ≠ 1) :
    exec (.fwActivate q) s = .next (complete q Status.configInvalid 0 s) := by
  show execFwActivate q s = _
  unfold execFwActivate
  rw [turn]
  exact (if_neg (newerSlot_passes newer)).trans ((if_neg (by simp [first])).trans (if_pos (.inl bad)))

variable (valid : examine (fusesOf s) s (bits c.e.param 0 0) = 1) (records : (slotRecords s (bits c.e.param 0 0)).isSome = true)

include valid records

theorem exec_fwActivate_fails {f : Nat × Nat} (check : activationCheck (bits c.e.param 0 0) s = some f) :
    exec (.fwActivate q) s = .next (complete q f.1 f.2 (checkFailed f (ignoredCounted (bits c.e.param 0 0) s))) := by
  unfold activationCheck at check
  show execFwActivate q s = _
  unfold execFwActivate
  rw [turn]
  refine (if_neg (newerSlot_passes newer)).trans ((if_neg (by simp [first])).trans ((if_neg (by simp [valid, Option.ne_none_iff_isSome, records])).trans ?_))
  dsimp only
  rw [check]
  rfl

theorem exec_fwActivate_starts (check : activationCheck (bits c.e.param 0 0) s = none) :
    exec (.fwActivate q) s = .next (setSt q .running (updMgt (fun m =>
      { m with activation := some ⟨q, bits c.e.param 0 0, .nightStarting⟩, nightReady := false }) (ignoredCounted (bits c.e.param 0 0) s))) := by
  unfold activationCheck at check
  show execFwActivate q s = _
  unfold execFwActivate
  rw [turn]
  refine (if_neg (newerSlot_passes newer)).trans ((if_neg (by simp [first])).trans ((if_neg (by simp [valid, Option.ne_none_iff_isSome, records])).trans ?_))
  dsimp only
  rw [check]
  rfl

end FwActivate

/-! ## What a swap of the roles does (R421, R422, R429) -/

theorem headerAt_of_norMem {s t : State} (h : t.norMem = s.norMem) (k : Nat) : headerAt t k = headerAt s k := by
  unfold headerAt norRead norByte
  rw [h]

theorem activationRecs_of_norMem {s t : State} (h : t.norMem = s.norMem) (k : Nat) : activationRecs t k = activationRecs s k := by
  unfold activationRecs slotRecords segBytesOf
  rw [headerAt_of_norMem h]
  unfold norRead norByte
  rw [h]

theorem takeImage_cfg (k : Nat) (s : State) : (takeImage k s).cfg.bootSlot = k
    ∧ (takeImage k s).cfg.imageVersion = beAt (headerAt s k) 8 4 ∧ (takeImage k s).cfg.imageSvn = beAt (headerAt s k) 12 4
    ∧ (takeImage k s).cfg.records = s.cfg.records := by
  unfold takeImage
  simp only [updCfg_cfg, and_self]

/-- The effect of an activation: the slot's image and its records, and the swapped roles. -/
theorem setTaken_activation (k clock : Nat) (recs : List CfgRec) (cmd entry : Option Nat) (s : State) :
    (setTaken clock ⟨recs, .activation k, cmd, entry⟩ s).hq = s.hq
      ∧ (setTaken clock ⟨recs, .activation k, cmd, entry⟩ s).mgt
        = { s.mgt with activation := none, dayCore := 1 - s.mgt.dayCore, nightReady := false, dayAge := 0, nightAge := 0 }
      ∧ (setTaken clock ⟨recs, .activation k, cmd, entry⟩ s).cfg.bootSlot = k
      ∧ (setTaken clock ⟨recs, .activation k, cmd, entry⟩ s).cfg.imageVersion = beAt (headerAt s k) 8 4
      ∧ (setTaken clock ⟨recs, .activation k, cmd, entry⟩ s).cfg.imageSvn = beAt (headerAt s k) 12 4
      ∧ (setTaken clock ⟨recs, .activation k, cmd, entry⟩ s).cfg.records = applyRecs s.cfg.records recs := by
  obtain ⟨u, hu⟩ : ∃ u, u = recordsTaken clock recs s := ⟨_, rfl⟩
  obtain ⟨x, hx⟩ : ∃ x, x = inc 0x110104 (swapRoles { u with mgt := { u.mgt with activation := none } }) := ⟨_, rfl⟩
  obtain ⟨v, hv⟩ : ∃ v, v = takeImage k x := ⟨_, rfl⟩
  have step : setTaken clock ⟨recs, .activation k, cmd, entry⟩ s
      = enterService s (postEvent Src.mgtDay 0x11 0x03 false (v.cfg.imageVersion % 2 ^ 32) v) := by
    rw [hv, hx, hu]
    rfl
  obtain ⟨w, hw⟩ : ∃ w, w = postEvent Src.mgtDay 0x11 0x03 false (v.cfg.imageVersion % 2 ^ 32) v := ⟨_, rfl⟩
  rw [← hw] at step
  have posted : Frame 0x24000 v w := by
    rw [hw]
    exact postEvent_frame ..
  have engines := enterService_frame s w
  obtain ⟨slot, image, svn, records⟩ := takeImage_cfg k x
  rw [← hv] at slot image svn records
  have mem : x.norMem = s.norMem := by
    rw [hx]
    show u.norMem = _
    rw [hu, recordsTaken_norMem]
  rw [headerAt_of_norMem mem] at image svn
  have cfg : (enterService s w).cfg = v.cfg := (engines.same .cfg rfl).trans (posted.same .cfg rfl)
  rw [step, cfg]
  refine ⟨?_, ?_, slot, image, svn, records.trans ?_⟩
  · rw [engines.same .hq rfl, posted.same .hq rfl, hv, (takeImage_frame k x).same .hq rfl, hx]
    show u.hq = s.hq
    rw [hu, recordsTaken_hq]
  · rw [engines.same .mgt rfl, posted.same .mgt rfl, hv, (takeImage_frame k x).same .mgt rfl, hx]
    show { u.mgt with activation := none, dayCore := 1 - u.mgt.dayCore, nightReady := false, dayAge := 0, nightAge := 0 } = _
    rw [hu, recordsTaken_mgt]
  · rw [hx]
    show u.cfg.records = _
    rw [hu, recordsTaken_cfg]

/-- The effect of a takeover: the roles are swapped. -/
theorem setTaken_takeover (clock : Nat) (recs : List CfgRec) (cmd entry : Option Nat) (s : State) :
    (setTaken clock ⟨recs, .takeover, cmd, entry⟩ s).mgt
        = { s.mgt with takeover := false, dayCore := 1 - s.mgt.dayCore, nightReady := false, dayAge := 0, nightAge := 0 }
      ∧ (setTaken clock ⟨recs, .takeover, cmd, entry⟩ s).cfg = { s.cfg with records := applyRecs s.cfg.records recs, commitClock := clock } := by
  obtain ⟨u, hu⟩ : ∃ u, u = recordsTaken clock recs s := ⟨_, rfl⟩
  obtain ⟨v, hv⟩ : ∃ v, v = inc 0x110100 (swapRoles { u with mgt := { u.mgt with takeover := false } }) := ⟨_, rfl⟩
  have step : setTaken clock ⟨recs, .takeover, cmd, entry⟩ s = enterService s (postEvent Src.mgtDay 0x11 0x02 true 0 (endExecuting v)) := by
    rw [hv, hu]
    rfl
  obtain ⟨w, hw⟩ : ∃ w, w = postEvent Src.mgtDay 0x11 0x02 true 0 (endExecuting v) := ⟨_, rfl⟩
  rw [← hw] at step
  have posted : Frame 0x26002 v w := by
    rw [hw]
    exact ((endExecuting_frame v).mono rfl).andThen (postEvent_frame ..) rfl
  have engines := enterService_frame s w
  rw [step]
  refine ⟨?_, ?_⟩
  · rw [engines.same .mgt rfl, posted.same .mgt rfl, hv]
    show { u.mgt with takeover := false, dayCore := 1 - u.mgt.dayCore, nightReady := false, dayAge := 0, nightAge := 0 } = _
    rw [hu, recordsTaken_mgt]
  · rw [engines.same .cfg rfl, posted.same .cfg rfl, hv]
    show u.cfg = _
    rw [hu, recordsTaken_cfg]

/-! ## ACTIVATION_NIGHT_READY (R429) -/

section NightReady

variable {s : State} {q k : Nat} (starting : s.mgt.activation = some ⟨q, k, .nightStarting⟩)

include starting

theorem exec_activationNightReady_fails : exec (.activationNightReady false) s = .next (activationFails ⟨q, k, .nightStarting⟩ s) := by
  show execActivationNightReady false s = _
  unfold execActivationNightReady
  rw [starting]
  rfl

theorem exec_activationNightReady_commits {r u : State}
    (ready : r = { s with mgt := { s.mgt with activation := some ⟨q, k, .scheduled⟩, nightReady := true } })
    (commit : commitSet (activationRecs s k) (.activation k) (some q) r = some u) : exec (.activationNightReady true) s = .next u := by
  show execActivationNightReady true s = _
  unfold execActivationNightReady
  rw [starting]
  dsimp only
  rw [if_neg (by simp), if_neg (by simp)]
  unfold updMgt
  dsimp only
  rw [← ready]
  rw [activationRecs_of_norMem (s := s) (by rw [ready]), commit]
  rfl

end NightReady

/-! ## The cross watchdog (R422) -/

/-- With no activation and nothing scheduled there is nothing to abandon. -/
theorem abandonActivation_nothing {s : State} (no : s.mgt.activation = none) (empty : s.cfg.scheduled = []) : abandonActivation s = s := by
  have kept : ∀ f : CfgSet → Bool, updCfg (fun c => { c with scheduled := c.scheduled.filter f }) s = s := fun f => by
    refine Eq.trans ?_ (unscheduled empty)
    unfold updCfg
    dsimp only
    rw [empty]
    rfl
  unfold abandonActivation
  rw [empty]
  refine Eq.trans (congrArg (fun u : State => { u with mgt := { u.mgt with activation := none } }) (kept _)) ?_
  dsimp only
  rw [← no]

theorem abandonActivation_mgt (s : State) : (abandonActivation s).mgt = { s.mgt with activation := none } := by
  unfold abandonActivation
  dsimp only
  rw [updCfg_mgt, (Frame.each _ (Frame.refl 0x200 s) fun i v => cancelSched_frame i v).same .mgt rfl]

/-- The sets of scheduled takeovers go, with the entries that no other set shares. -/
def dropTakeovers (s : State) : State :=
  let isIt := fun (x : CfgSet) => match x.kind with | .takeover => true | _ => false
  let others := s.cfg.scheduled.filter fun x => !isIt x
  let gone := ((s.cfg.scheduled.filter isIt).filterMap CfgSet.entry).filter fun i => !(others.any fun x => x.entry == some i)
  updCfg (fun c => { c with scheduled := others }) (each cancelSched gone s)

theorem dropTakeovers_mgt (s : State) : (dropTakeovers s).mgt = s.mgt := by
  unfold dropTakeovers
  dsimp only
  rw [updCfg_mgt, (Frame.each _ (Frame.refl 0x200 s) fun i v => cancelSched_frame i v).same .mgt rfl]

section Watchdog

variable {s : State} (run : coresRun s = true)

include run

theorem exec_nightHeartbeatTimeout_idle (day : s.mgt.takeover = false) (no : s.mgt.activation = none) :
    exec .nightHeartbeatTimeout s = .next (updMgt (fun m => { m with nightReady := false, nightAge := 0 }) s) := by
  show execNightHeartbeatTimeout s = _
  unfold execNightHeartbeatTimeout
  rw [if_neg (by simp [run, day]), no]
  rfl

theorem exec_nightCoreReady_on (on : domOn s 4 = true) :
    exec .nightCoreReady s = .next (updMgt (fun m => { m with nightReady := true, nightAge := 0 }) s) := by
  show execNightCoreReady s = _
  unfold execNightCoreReady
  exact if_neg (by simp [run, on])

theorem exec_dayHeartbeatTimeout_takes (day : s.mgt.takeover = false) (no : s.mgt.activation = none) (empty : s.cfg.scheduled = [])
    {r u : State} (taking : r = { s with mgt := { s.mgt with takeover := true } }) (commit : commitSet [] .takeover none r = some u) :
    exec .dayHeartbeatTimeout s = .next u := by
  show execDayHeartbeatTimeout s = _
  unfold execDayHeartbeatTimeout
  rw [if_neg (by simp [run, day]), abandonActivation_nothing no empty]
  unfold updMgt
  dsimp only
  rw [← taking]
  unfold scheduleTakeover
  rw [commit]
  rfl

theorem exec_bothHeartbeatsTimeout_on : exec .bothHeartbeatsTimeout s = .next (endExecuting (updWrv (fun w => { w with fails := [], failDs := 0 })
    (updMgt (fun m => { m with dayCore := 0, nightReady := false, takeover := false, nightAge := 0, dayAge := 0 })
      (dropTakeovers (abandonActivation s))))) := by
  show execBothHeartbeatsTimeout s = _
  unfold execBothHeartbeatsTimeout
  exact if_neg (by simp [run])

end Watchdog

/-! ## ACTIVATION_HOLD_EXPIRY (R429) -/

theorem exec_activationHoldExpiry_held {s : State} {q : Nat} {c : Cmd} (found : findCmd s q = some c) (mgmt : c.ring = 32)
    (waits : c.st = .fetched) (notAbort : c.e.opcode ≠ 0x0A) (held : mgmtHeld s = true) :
    exec (.activationHoldExpiry q) s
      = .next (complete q Status.busyRetry (match swapEntry s with | some e => clockHint s e.pos | none => 65535) s) := by
  show execActivationHoldExpiry q s = _
  unfold execActivationHoldExpiry
  rw [found]
  exact if_neg (by simp [mgmt, waits, notAbort, held])

/-- Settles O30: a role swap is a set that takes effect (`setTaken_activation`, `setTaken_takeover`) at once or at its commit
point. -/
theorem activationsAndTakeoversSwapTheCores : Obligations.ActivationsAndTakeoversSwapTheCores := by
  intro s q c
  refine ⟨fun turn => ?_, fun k starting found => ⟨?_, fun idle empty => ?_, fun i u writing room posted => ?_⟩,
    fun found mgmt waits notAbort held => ⟨_, exec_activationHoldExpiry_held found mgmt waits notAbort held, .complete found ..⟩,
    fun run day no => ⟨⟨_, exec_nightHeartbeatTimeout_idle run day no, rfl⟩, fun idle empty => ?_, fun i u writing empty posted => ?_⟩,
    fun run on => ⟨_, exec_nightCoreReady_on run on, rfl⟩, fun run => ⟨_, exec_bothHeartbeatsTimeout_on run, ?_, ?_⟩⟩
  · intro k newer recs
    have ends : ∀ st r, Ended (complete q st r s) q st r ∧ (complete q st r s).mgt = s.mgt :=
      fun st r => ⟨.complete (due_find turn) .., (complete_frame ..).same .mgt rfl⟩
    refine ⟨fun older => ⟨_, exec_fwActivate_older turn older, ends ..⟩, fun new other => ⟨_, exec_fwActivate_during turn new other, ends ..⟩,
      fun new first bad => ⟨_, exec_fwActivate_invalid turn new first bad, ends ..⟩, fun new first valid records => ?_⟩
    have counted : Frame 0x20000 s (ignoredCounted k s) := addCtr_frame ..
    have there := (findCmd_of_frame counted (by decide) q).trans (due_find turn)
    refine ⟨fun f check => ?_, fun check => ?_⟩
    · refine ⟨_, exec_fwActivate_fails turn new first valid records check, (checkFailed_ends there f).1, ?_⟩
      exact ((complete_frame ..).same .mgt rfl).trans (((checkFailed_frame ..).same .mgt rfl).trans (counted.same .mgt rfl))
    · exact ⟨_, exec_fwActivate_starts turn new first valid records check, setSt_find (s := updMgt _ (ignoredCounted k s)) there .running, rfl⟩
  · refine ⟨_, exec_activationNightReady_fails starting, ?_, ?_⟩
    · exact .complete (s := updMgt _ s) found ..
    · exact (complete_frame ..).same .mgt rfl
  · obtain ⟨r, ready⟩ : ∃ r : State, r = { s with mgt := { s.mgt with activation := some ⟨q, k, .scheduled⟩, nightReady := true } } := ⟨_, rfl⟩
    have runs := exec_activationNightReady_commits starting ready
      (commitSet_atOnce (s := r) (by rw [ready]; exact idle) (by rw [ready]; exact empty) ..)
    obtain ⟨hq, mgt, slot, image, svn, recs⟩ := setTaken_activation k 0 (activationRecs s k) (some q) none r
    obtain ⟨ended, sameCfg, sameMgt⟩ := takeEffect_ends (x := ⟨activationRecs s k, .activation k, some q, none⟩) rfl 0
      ((findCmd_of_hq (hq.trans (by rw [ready])) q).trans found)
    have header := headerAt_of_norMem (s := s) (t := r) (by rw [ready]) k
    rw [header] at image svn
    have version : setResult ⟨activationRecs s k, .activation k, some q, none⟩ 0
        (setTaken 0 ⟨activationRecs s k, .activation k, some q, none⟩ r) = beAt (headerAt s k) 8 4 := image
    rw [version] at ended
    refine ⟨_, runs, ?_, ?_, ?_, ?_, ?_, ended⟩
    · rw [sameMgt, mgt, ready]
    · rw [sameCfg, slot]
    · rw [sameCfg, image]
    · rw [sameCfg, svn]
    · rw [sameCfg, recs, ready]
  · obtain ⟨r, ready⟩ : ∃ r : State, r = { s with mgt := { s.mgt with activation := some ⟨q, k, .scheduled⟩, nightReady := true } } := ⟨_, rfl⟩
    dsimp only at posted
    rw [← ready] at posted
    have runs := exec_activationNightReady_commits starting ready
      (commitSet_scheduled (s := r) (by rw [ready]; exact writing) (by rw [ready]; exact room) posted ..)
    obtain ⟨cfg, mgt, -⟩ := commandWaits_keeps (some q)
      (updCfg (fun g => { g with scheduled := g.scheduled ++ [⟨activationRecs s k, .activation k, some q, some i⟩] }) u)
    have post := postSched_frame_eq _ _ _ _ _ _ _ posted
    refine ⟨_, runs, ?_, ?_⟩
    · rw [mgt, updCfg_mgt, post.same .mgt rfl, ready]
    · rw [cfg, updCfg_cfg, post.same .cfg rfl, ready]
  · obtain ⟨r, taking⟩ : ∃ r : State, r = { s with mgt := { s.mgt with takeover := true } } := ⟨_, rfl⟩
    have runs := exec_dayHeartbeatTimeout_takes run day no empty taking
      (commitSet_atOnce (s := r) (by rw [taking]; exact idle) (by rw [taking]; exact empty) ..)
    rw [takeEffect_alone rfl] at runs
    obtain ⟨mgt, cfg⟩ := setTaken_takeover 0 [] none none r
    refine ⟨_, runs, ?_, ?_, ?_, ?_⟩
    · rw [mgt, taking]
    · rw [mgt]
    · rw [mgt]
    · rw [cfg, taking]
      exact empty
  · obtain ⟨r, taking⟩ : ∃ r : State, r = { s with mgt := { s.mgt with takeover := true } } := ⟨_, rfl⟩
    dsimp only at posted
    rw [← taking] at posted
    have runs := exec_dayHeartbeatTimeout_takes run day no empty taking
      (commitSet_scheduled (s := r) (by rw [taking]; exact writing) (by rw [taking]; simp [empty]) posted ..)
    have post := postSched_frame_eq _ _ _ _ _ _ _ posted
    refine ⟨_, runs, ?_, ?_⟩
    · show u.mgt = _
      rw [post.same .mgt rfl, taking]
    · show u.cfg.scheduled ++ _ = _
      rw [post.same .cfg rfl, taking]
      exact congrArg (· ++ _) empty
  · rw [(endExecuting_frame _).same .mgt rfl, updWrv_mgt, updMgt_mgt, dropTakeovers_mgt, abandonActivation_mgt]
  · rw [(endExecuting_frame _).same .wrv rfl, updWrv_wrv]

end Sys2Proof.Machine
end

/-! The select registers and the latch of the Tape Clock (R85, R92, R139, R275, R300, R381, R397, R441), and the clearing of engine
faults (R107). -/

section

namespace Sys2Proof.Machine

/-- The low bits of a number. -/
theorem bits_from_zero (v hi : Nat) : bits v hi 0 = v % 2 ^ (hi + 1) := by simp [bits]

/-! ## The probe of the Stall table (R85, R92) -/

/-- What STK_PROBE_LO and STK_PROBE_HI show of a Stall: zero for a reserved or an absent one, else its entry. -/
theorem probeSel_shows (v : Nat) (s : State) :
    readReg (probeSel v s) 0x020010 = some (v % 2 ^ 19)
      ∧ ((v % 2 ^ 19 < 1024 ∨ s.stk.total ≤ v % 2 ^ 19) →
          readReg (probeSel v s) 0x020014 = some 0 ∧ readReg (probeSel v s) 0x020018 = some 0)
      ∧ (1024 ≤ v % 2 ^ 19 → v % 2 ^ 19 < s.stk.total →
          readReg (probeSel v s) 0x020014 = some (probeWord s (v % 2 ^ 19) % 2 ^ 32)
          ∧ readReg (probeSel v s) 0x020018 = some (probeWord s (v % 2 ^ 19) / 2 ^ 32 % 2 ^ 32)) := by
  have low : readReg (probeSel v s) 0x020014 = some (bits (if allocatable s (v % 2 ^ 19) then probeWord s (v % 2 ^ 19) else 0) 31 0) := by
    rw [← bits_from_zero v 18]
    rfl
  have high : readReg (probeSel v s) 0x020018 = some (bits (if allocatable s (v % 2 ^ 19) then probeWord s (v % 2 ^ 19) else 0) 63 32) := by
    rw [← bits_from_zero v 18]
    rfl
  rw [low, high]
  refine ⟨congrArg some (bits_from_zero v 18), fun h => ?_, fun reserved fitted => ?_⟩
  · have absent : allocatable s (v % 2 ^ 19) = false := decide_eq_false (by omega)
    rw [absent, if_neg Bool.false_ne_true]
    simp [bits]
  · have present : allocatable s (v % 2 ^ 19) = true := decide_eq_true ⟨reserved, fitted⟩
    rw [present, if_pos rfl, bits_from_zero]
    exact ⟨rfl, rfl⟩

/-! ## The scheduler entry (R275, R300) -/

theorem schedSel_words (v : Nat) (s : State) :
    (schedSel v s).srv.selWords = ((AMap.get? s.srv.sched (v % 2 ^ 12)).map entryWords).getD [0, 0, 0, 0] := by
  rw [← bits_from_zero v 11]
  unfold schedSel
  dsimp only [updSrv_srv]
  cases AMap.get? s.srv.sched (bits v 11 0) <;> rfl

/-! ## Engine faults (R107) -/

/-- An engine after a write of CMP_ENGINE_STATUS: a 1 over its fault bit clears its fault and its mismatches. -/
def clearedEngine (v e : Nat) (x : Engine) : Engine := if bit v (24 + e) ∧ x.fault then { x with fault := false, mismatches := 0 } else x

/-- The write of CMP_ENGINE_STATUS as it acts on one engine. -/
def clearEngine (v : Nat) (s : State) (e : Nat) : State :=
  if bit v (24 + e) ∧ (engineAt s e).fault then setEngine e { engineAt s e with fault := false, mismatches := 0 } s else s

theorem clearEngineFaults_eq (v : Nat) (s : State) : clearEngineFaults v s = (List.range 6).foldl (clearEngine v) s := rfl

theorem engineAt_clearEngine (v : Nat) (s : State) (e : Nat) :
    engineAt (clearEngine v s e) e = clearedEngine v e (engineAt s e) ∧ ∀ d, d ≠ e → engineAt (clearEngine v s e) d = engineAt s d := by
  unfold clearEngine clearedEngine
  split
  · exact ⟨engineAt_setEngine_self .., fun d h => engineAt_setEngine_other _ s h⟩
  · exact ⟨rfl, fun _ _ => rfl⟩

/-- Each engine that a write reaches, once, is cleared as its own bit says; the others stay. -/
theorem engineAt_clearEngines (v : Nat) {es : List Nat} (once : es.Nodup) (s : State) (d : Nat) :
    engineAt (es.foldl (clearEngine v) s) d = if d ∈ es then clearedEngine v d (engineAt s d) else engineAt s d := by
  induction es generalizing s with
  | nil => simp
  | cons e es ih =>
    obtain ⟨fresh, rest⟩ := List.nodup_cons.mp once
    obtain ⟨self, others⟩ := engineAt_clearEngine v s e
    rw [List.foldl_cons, ih rest]
    by_cases h : d = e
    · subst h
      simp [fresh, self]
    · simp [h, others d h]

/-- Settles O11: each row is the sample that its register takes, and the registers read it back. -/
theorem selectRegistersSampleAtTheWrite : Obligations.SelectRegistersSampleAtTheWrite := by
  intro v s
  have low (hi : Nat) : some (bits v hi 0) = some (v % 2 ^ (hi + 1)) := congrArg some (bits_from_zero v hi)
  refine ⟨⟨probeSel v s, rfl, ?probe⟩, ⟨slotSel v s, rfl, ?slot⟩, ⟨schedSel v s, rfl, ?sched⟩, ⟨routeSel v s, rfl, ?route⟩,
    ⟨memberSel v s, rfl, ?member⟩, ⟨monSel v s, rfl, ?monitor⟩, ⟨_, rfl, rfl⟩, ⟨clearEngineFaults v s, rfl, ?faults⟩⟩
  case probe =>
    obtain ⟨sel, absent, present⟩ := probeSel_shows v s
    exact ⟨sel, (probeSel_frame ..).only [.stk] rfl, rfl, rfl, absent, present⟩
  case slot =>
    rw [← bits_from_zero v 6]
    exact ⟨rfl, (slotSel_frame ..).only [.cip] rfl, rfl, rfl, rfl, rfl, rfl, rfl⟩
  case sched =>
    refine ⟨low 11, (schedSel_frame ..).only [.srv] rfl, rfl, fun e found => ?_, fun free => ?_⟩
    · rw [schedSel_words, found]
      rfl
    · rw [schedSel_words, free]
      rfl
  case route =>
    rw [← bits_from_zero v 11]
    exact ⟨rfl, (routeSel_frame ..).only [.fab] rfl, rfl⟩
  case member =>
    rw [← bits_from_zero v 5]
    exact ⟨rfl, (memberSel_frame ..).only [.yrd] rfl, rfl, rfl⟩
  case monitor =>
    rw [← bits_from_zero v 6]
    exact ⟨rfl, (monSel_frame ..).only [.mgt] rfl, rfl, rfl, rfl⟩
  case faults =>
    refine ⟨(clearEngineFaults_frame ..).only [.cmp] rfl, fun e he => ?_⟩
    rw [clearEngineFaults_eq, engineAt_clearEngines v List.nodup_range, if_pos (List.mem_range.mpr he)]
    rfl

end Sys2Proof.Machine
end

/-! The Stall table and the Stables: grants, waits, frees, pins and the free caches (R81 to R88, R438). -/

section

namespace Sys2Proof.Machine

/-! ## The tables -/

@[simp] theorem stallAt_setStall_self (n : Nat) (x : Stall) (s : State) : stallAt (setStall n x s) n = x := by simp [stallAt]

theorem stallAt_setStall_other {m n : Nat} (x : Stall) (s : State) (h : m ≠ n) : stallAt (setStall n x s) m = stallAt s m := by
  simp only [stallAt, setStall_stk]
  exact AMap.getD_set_of_ne _ _ _ h.symm

@[simp] theorem stableAt_setStable_self (b : Nat) (x : Stable) (s : State) : stableAt (setStable b x s) b = x := by simp [stableAt]

@[simp] theorem stableAt_inc (b off : Nat) (s : State) : stableAt (inc off s) b = stableAt s b := rfl

@[simp] theorem stableAt_setStall (n b : Nat) (x : Stall) (s : State) : stableAt (setStall n x s) b = stableAt s b := rfl

/-- An update of one Stall sets that Stall and no other. -/
theorem setStall_changes (n : Nat) (x : Stall) (s : State) :
    stallAt (setStall n x s) n = x ∧ ∀ m, m ≠ n → stallAt (setStall n x s) m = stallAt s m :=
  ⟨stallAt_setStall_self .., fun _ h => stallAt_setStall_other x s h⟩

/-! ## Free counts (R81, R83) -/

theorem length_refill_cache (k : Nat) (x : Stable) :
    (refill k x).cache.length = x.cache.length + min k (freeCount x - x.cache.length) := by
  simp only [refill, freeCount, List.length_append, List.length_reverse, List.length_map, List.length_range, List.length_take]
  omega

@[simp] theorem freeCount_refill (k : Nat) (x : Stable) : freeCount (refill k x) = freeCount x := by
  simp only [refill, freeCount, List.length_append, List.length_reverse, List.length_map, List.length_range, List.length_take,
    List.length_drop]
  omega

@[simp] theorem freeCount_lowFetch (x : Stable) : freeCount (lowFetch x) = freeCount x := by
  unfold lowFetch
  split
  · exact freeCount_refill 32 x
  · rfl

@[simp] theorem lowFetch_fifo (x : Stable) : (lowFetch x).fifo = x.fifo := by
  unfold lowFetch
  split <;> rfl

/-- A write-back takes 32 entries of the cache to the ring. -/
theorem writeback_moves {x : Stable} (h : 32 ≤ x.cache.length) :
    freeCount (writeback x) = freeCount x ∧ (writeback x).cache.length + 32 = x.cache.length := by
  simp only [writeback, freeCount, List.length_append, List.length_reverse, List.length_take, List.length_drop]
  omega

theorem head?_writeback_cache {x : Stable} (h : 32 < x.cache.length) : (writeback x).cache.head? = x.cache.head? := by
  have some_left : x.cache.length - 32 ≠ 0 := by omega
  simp [writeback, List.head?_take, some_left]

/-! ## Grants (R83, R87) -/

/-- A Stall comes from a Stable with a free count: the cache, if it is empty, is filled first. -/
theorem takeFree_covered {x : Stable} (h : 0 < freeCount x) :
    ∃ n y, takeFree x = some (n, y) ∧ freeCount y + 1 = freeCount x ∧ y.fifo = x.fifo := by
  obtain ⟨y, hy, free, fifo⟩ : ∃ y, (if x.cache = [] then refill 32 x else x) = y ∧ freeCount y = freeCount x ∧ y.fifo = x.fifo := by
    refine ⟨_, rfl, ?_⟩
    split
    · exact ⟨freeCount_refill 32 x, rfl⟩
    · exact ⟨rfl, rfl⟩
  have filled : y.cache ≠ [] := by
    rw [← hy]
    split
    case isTrue empty =>
      have := length_refill_cache 32 x
      rw [empty, List.length_nil] at this
      exact List.ne_nil_of_length_pos (by omega)
    case isFalse cached => exact cached
  obtain ⟨n, c, hc⟩ := List.exists_cons_of_ne_nil filled
  refine ⟨n, lowFetch { y with cache := c }, ?_, ?_, (lowFetch_fifo _).trans fifo⟩
  · unfold takeFree
    simp only [hy, hc]
  · rw [freeCount_lowFetch, ← free]
    simp only [freeCount, hc, List.length_cons]
    omega

/-- A Stall as a grant leaves it, from what it was: held by the requester, under the next generation (R87). -/
def grantedStall (req b : Nat) (old : Stall) : Stall :=
  { next := 0, stable := b, owner := req, gen := (old.gen + 1) % 256, st := .held, pins := 0 }

/-- A grant of one Stall from a Stable with a free count. -/
theorem grantOne_covered (req : Nat) {b : Nat} {s : State} (h : 0 < freeCount (stableAt s b)) :
    ∃ hd t, grantOne req b s = some (hd, t) ∧ freeCount (stableAt t b) + 1 = freeCount (stableAt s b)
      ∧ (stableAt t b).fifo = (stableAt s b).fifo
      ∧ ∃ n, stallAt t n = grantedStall req b (stallAt s n) ∧ ∀ m, m ≠ n → stallAt t m = stallAt s m := by
  obtain ⟨n, y, taken, free, fifo⟩ := takeFree_covered h
  refine ⟨(n, ((stallAt s n).gen + 1) % 256),
    setStall n (grantedStall req b (stallAt s n)) (setStable b { y with low := min y.low (freeCount y) } s), ?_, ?_, ?_, n, ?_⟩
  · unfold grantOne
    rw [taken]
    rfl
  · rw [stableAt_setStall, stableAt_setStable_self]
    exact free
  · rw [stableAt_setStall, stableAt_setStable_self]
    exact fifo
  · exact setStall_changes ..

/-- A grant takes from the free count as many Stalls as it names, while the count covers them. -/
theorem grant_covered (req b : Nat) : ∀ (count : Nat) (s : State), count ≤ freeCount (stableAt s b) →
    freeCount (stableAt (grant req b count s).2 b) + count = freeCount (stableAt s b)
      ∧ (stableAt (grant req b count s).2 b).fifo = (stableAt s b).fifo
  | 0, _, _ => ⟨rfl, rfl⟩
  | count + 1, s, h => by
    obtain ⟨hd, t, one, free, fifo, -⟩ := grantOne_covered req (Nat.zero_lt_of_lt h)
    obtain ⟨free', fifo'⟩ := grant_covered req b count t (by omega)
    simp only [grant, one]
    exact ⟨by omega, fifo'.trans fifo⟩

/-- A grant of a single Stall. -/
theorem grant_single (req : Nat) {b : Nat} {s : State} (h : 1 ≤ freeCount (stableAt s b)) :
    ∃ n, stallAt (grant req b 1 s).2 n = grantedStall req b (stallAt s n)
      ∧ ∀ m, m ≠ n → stallAt (grant req b 1 s).2 m = stallAt s m := by
  obtain ⟨hd, t, one, -, -, stalls⟩ := grantOne_covered req h
  simpa only [grant, one] using stalls

@[simp] theorem stableAt_handOver (req b : Nat) (hs : List Handle) (s : State) : stableAt (handOver req hs s) b = stableAt s b := by
  unfold handOver
  split <;> rfl

@[simp] theorem stallAt_handOver (req n : Nat) (hs : List Handle) (s : State) : stallAt (handOver req hs s) n = stallAt s n := by
  unfold handOver
  split <;> rfl

@[simp] theorem stableAt_serve (req b count c : Nat) (s : State) : stableAt (serve req b count s) c = stableAt (grant req b count s).2 c :=
  stableAt_handOver ..

@[simp] theorem stallAt_serve (req b count n : Nat) (s : State) : stallAt (serve req b count s) n = stallAt (grant req b count s).2 n :=
  stallAt_handOver ..

/-! ## The new requests of a cycle (R82, R84) -/

/-- The turn of one Stable in a cycle: what it does with the requests made to it, and whether one has entered a FIFO so far. -/
def stableTurn (reqs : List StallReq) (a : Bool × State) (b : Nat) : Bool × State :=
  (a.1 || (requestsFor b reqs a.2).1, (requestsFor b reqs a.2).2)

theorem newRequests_eq (reqs : List StallReq) (s : State) :
    newRequests reqs s = if ((List.range 8).foldl (stableTurn reqs) (false, s)).1 then
      inc 0x02001C ((List.range 8).foldl (stableTurn reqs) (false, s)).2 else ((List.range 8).foldl (stableTurn reqs) (false, s)).2 := rfl

/-- The turn of a Stable to which no request is made. -/
theorem requestsFor_other {b : Nat} {r : StallReq} (h : r.stable ≠ b) (s : State) : requestsFor b [r] s = (false, s) := by
  simp [requestsFor, h, sortBy, takeRequests]

theorem stableTurns_others {r : StallReq} {bs : List Nat} (h : r.stable ∉ bs) (a : Bool × State) : bs.foldl (stableTurn [r]) a = a := by
  induction bs generalizing a with
  | nil => rfl
  | cons b bs ih =>
    obtain ⟨ne, rest⟩ := not_or.mp (mt List.mem_cons.mpr h)
    rw [List.foldl_cons, stableTurn, requestsFor_other ne, Bool.or_false]
    exact ih rest a

/-- The turns of all Stables with a lone request are the turn of its Stable. -/
theorem stableTurns_lone {r : StallReq} {bs : List Nat} (h : r.stable ∈ bs) (once : bs.Nodup) (s : State) :
    bs.foldl (stableTurn [r]) (false, s) = requestsFor r.stable [r] s := by
  obtain ⟨before, after, rfl⟩ := List.append_of_mem h
  obtain ⟨-, notAfter, apart⟩ := List.nodup_append.mp once
  have notBefore : r.stable ∉ before := fun m => apart _ m _ (List.mem_cons_self ..) rfl
  rw [List.foldl_append, List.foldl_cons, stableTurns_others notBefore, stableTurns_others (List.nodup_cons.mp notAfter).1]
  simp [stableTurn]

/-- A cycle with a lone request is the turn of its Stable; it is counted if the request has to wait. -/
theorem newRequests_lone {r : StallReq} (stable : r.stable < 8) (s : State) : newRequests [r] s =
    if (requestsFor r.stable [r] s).1 then inc 0x02001C (requestsFor r.stable [r] s).2 else (requestsFor r.stable [r] s).2 := by
  rw [newRequests_eq, stableTurns_lone (List.mem_range.mpr stable) List.nodup_range]

/-- A lone request that its Stable covers, with nobody waiting, is served. -/
theorem requestsFor_covered {r : StallReq} {s : State} (idle : (stableAt s r.stable).fifo = [])
    (covered : r.count ≤ freeCount (stableAt s r.stable)) :
    requestsFor r.stable [r] s = (false, serve r.req r.stable r.count s) := by
  simp [requestsFor, sortBy, insertBy, takeRequests, idle, covered]

/-- A request that waits where nobody does stands alone in the FIFO. -/
theorem enqueue_idle (r : StallReq) {x : Stable} (idle : x.fifo = []) : (enqueue r x).fifo = [(r.req, r.count)] := by
  simp [enqueue, idle]

/-- A lone request that its Stable does not cover enters the FIFO, and the pointer passes it. -/
theorem requestsFor_uncovered {r : StallReq} {s : State} (idle : (stableAt s r.stable).fifo = [])
    (short : freeCount (stableAt s r.stable) < r.count) :
    requestsFor r.stable [r] s = (true, setStable r.stable { enqueue r (stableAt s r.stable) with pointer := (r.req + 1) % 64 }
      (setStable r.stable (enqueue r (stableAt s r.stable)) s)) := by
  have waits := enqueue_idle r idle
  simp [requestsFor, sortBy, insertBy, takeRequests, idle, Nat.not_le_of_lt short, waits]

section Lone

variable {r : StallReq} {s : State} (ready : s.stk.ready = true) (known : knownReq r.req = true)
  (may : mayAllocate r.req r.stable = true) (first : outstandingReq s r.req = false) (least : 1 ≤ r.count) (most : r.count ≤ 128)

include ready known may first least most

/-- A lone valid request is no bad one, and it stands in its cycle. -/
theorem exec_stallRequest_lone : exec (.stallRequest [r]) s = .next (newRequests [r] s) := by
  have inRange : badCount r = false := by simp [badCount]; omega
  show execStallRequest [r] s = _
  simp [execStallRequest, ready, inRange, known, may, firstRequests, first, sortBy, each, go]

theorem exec_stallRequest_covered (stable : r.stable < 8) (idle : (stableAt s r.stable).fifo = [])
    (covered : r.count ≤ freeCount (stableAt s r.stable)) :
    exec (.stallRequest [r]) s = .next (serve r.req r.stable r.count s) := by
  rw [exec_stallRequest_lone ready known may first least most, newRequests_lone stable, requestsFor_covered idle covered]
  rfl

theorem exec_stallRequest_uncovered (stable : r.stable < 8) (idle : (stableAt s r.stable).fifo = [])
    (short : freeCount (stableAt s r.stable) < r.count) :
    exec (.stallRequest [r]) s = .next
      (inc 0x02001C (setStable r.stable { enqueue r (stableAt s r.stable) with pointer := (r.req + 1) % 64 }
        (setStable r.stable (enqueue r (stableAt s r.stable)) s))) := by
  rw [exec_stallRequest_lone ready known may first least most, newRequests_lone stable, requestsFor_uncovered idle short]
  rfl

end Lone

/-- A waiting request at the head of a FIFO is served once the free count covers it; with nobody outside, the rest of the FIFO
stays (R83). -/
theorem grantHead_covered {b req n : Nat} {rest : List (Nat × Nat)} {s : State} (head : (stableAt s b).fifo = (req, n) :: rest)
    (alone : (stableAt s b).outside = []) (covered : n ≤ freeCount (stableAt s b)) :
    grantHead b s = serve req b n (setStable b { stableAt s b with fifo := rest } s) := by
  simp [grantHead, head, alone, covered, nextInstance]

/-! ## Frees, links and bad frees (R77, R87, R88, R438) -/

/-- A Stall that goes back to its Stable is FREE, and no other Stall changes. -/
theorem stallAt_release (n : Nat) (s : State) :
    stallAt (release n s) n = { stallAt s n with st := .free, pins := 0 } ∧ ∀ m, m ≠ n → stallAt (release n s) m = stallAt s m := by
  unfold release
  dsimp only
  split <;> exact setStall_changes ..

/-- A Stall that is not quarantined goes back as the most recent entry of its Stable's cache. -/
theorem head?_cache_release {n : Nat} {s : State} (h : mem? s.stk.quarantine n = false) :
    (stableAt (release n s) (stallAt s n).stable).cache.head? = some n := by
  unfold release
  dsimp only
  rw [if_neg (by simp [h]), stableAt_setStable_self]
  split
  case isTrue high => exact head?_writeback_cache (lt_of_lt_of_le (by decide) high)
  case isFalse => rfl

theorem freeHeld_unpinned {n : Nat} {s : State} (h : (stallAt s n).pins = 0) : freeHeld n s = release n s := if_pos h

theorem freeHeld_pinned {n : Nat} {s : State} (h : (stallAt s n).pins ≠ 0) :
    freeHeld n s = setStall n { stallAt s n with st := .releasing } s := if_neg h

/-- A bad free is recorded and counted (R88). -/
theorem badFree_records (kind req stall : Nat) (s : State) :
    (badFree kind req stall s).stk = { s.stk with badKind := kind, badReq := req, badStall := min stall 0x7FFFF }
      ∧ ctr (badFree kind req stall s) 0x020008 = satAdd (ctr s 0x020008) 1 := by
  unfold badFree
  refine ⟨(postEvent_frame ..).same .stk rfl, ?_⟩
  unfold postEvent
  rw [ctr_pushMgt (by decide), ctr_inc, if_pos rfl]
  rfl

section Operation

variable {o : StallOp} {s : State}

theorem exec_stallFree_match (ok : opFault s o true = none) : exec (.stallFree [o]) s = .next (freeHeld o.stall s) := by
  show go (freeOne o s) = _
  simp only [freeOne, ok, go]

theorem exec_stallChainFree_last (ok : opFault s o true = none) (last : (stallAt s o.stall).next = 0) :
    exec (.stallChainFree o) s = .next (freeHeld o.stall s) := by
  show execStallChainFree o s = _
  simp [execStallChainFree, ok, last, freeChain, go]

theorem exec_stallTransfer_match (ok : opFault s o true = none) (d : Nat) :
    exec (.stallTransfer o d) s = .next (setStall o.stall { stallAt s o.stall with owner := d % 64 } s) := by
  show execStallTransfer o d s = _
  simp only [execStallTransfer, ok, go]

theorem exec_stallLink_match {m : Nat} (ok : linkFault s o m = none) :
    exec (.stallLink o m) s = .next (setStall o.stall { stallAt s o.stall with next := m % 2 ^ 19 } s) := by
  show go (linkStall o m s) = _
  simp only [linkStall, ok, go]

theorem exec_stallLink_fault {m k n : Nat} (bad : linkFault s o m = some (k, n)) :
    exec (.stallLink o m) s = .next (badFree k o.req n s) := by
  show go (linkStall o m s) = _
  simp only [linkStall, bad, go]

/-- An operation on a Stall that its requester and generation do not match is a bad free, whatever the operation. -/
theorem exec_stallOp_fault {k : Nat} (bad : opFault s o true = some k) {c : Instr}
    (hc : c ∈ [Instr.stallFree [o], .stallChainFree o, .stallTransfer o 0, .stallLink o 0]) :
    exec c s = .next (badFree k o.req o.stall s) := by
  simp only [List.mem_cons, List.not_mem_nil, or_false] at hc
  rcases hc with rfl | rfl | rfl | rfl
  · show go (freeOne o s) = _
    simp only [freeOne, bad, go]
  · show execStallChainFree o s = _
    simp only [execStallChainFree, bad, go]
  · show execStallTransfer o 0 s = _
    simp only [execStallTransfer, bad, go]
  · exact exec_stallLink_fault (by simp [linkFault, bad])

end Operation

/-! ## The obligation, part by part -/

/-- What becomes of a lone valid request: granted when covered, else first in the FIFO. -/
theorem stallRequest_granted_or_waits {r : StallReq} {s : State} (ready : s.stk.ready = true) (known : knownReq r.req = true)
    (may : mayAllocate r.req r.stable = true) (first : outstandingReq s r.req = false) (stable : r.stable < 8)
    (least : 1 ≤ r.count) (most : r.count ≤ 128) (idle : (stableAt s r.stable).fifo = []) :
    (r.count ≤ freeCount (stableAt s r.stable) → Runs (.stallRequest [r]) s fun t =>
        freeCount (stableAt t r.stable) + r.count = freeCount (stableAt s r.stable)
        ∧ (r.count = 1 → ∃ n, stallAt t n = grantedStall r.req r.stable (stallAt s n) ∧ ∀ m, m ≠ n → stallAt t m = stallAt s m))
    ∧ (freeCount (stableAt s r.stable) < r.count → Runs (.stallRequest [r]) s fun t =>
        (stableAt t r.stable).fifo = [(r.req, r.count)] ∧ (stableAt t r.stable).pointer = (r.req + 1) % 64
        ∧ t.stk.stalls = s.stk.stalls) := by
  constructor
  · intro covered
    refine ⟨_, exec_stallRequest_covered ready known may first least most stable idle covered, ?_, fun one => ?_⟩
    · rw [stableAt_serve]
      exact (grant_covered _ _ _ _ covered).1
    · simp only [stallAt_serve]
      rw [one] at covered ⊢
      exact grant_single r.req covered
  · intro short
    refine ⟨_, exec_stallRequest_uncovered ready known may first least most stable idle short, ?_, ?_, rfl⟩
    · rw [stableAt_inc, stableAt_setStable_self]
      exact enqueue_idle r idle
    · rw [stableAt_inc, stableAt_setStable_self]

/-- A free of an unpinned Stall, alone or as the last of its chain. -/
theorem free_unpinned {o : StallOp} {s : State} (ok : opFault s o true = none) (pins : (stallAt s o.stall).pins = 0) {c : Instr}
    (hc : c ∈ [Instr.stallFree [o], .stallChainFree o]) (last : (stallAt s o.stall).next = 0 ∨ c = .stallFree [o]) :
    exec c s = .next (release o.stall s) := by
  rw [← freeHeld_unpinned pins]
  simp only [List.mem_cons, List.not_mem_nil, or_false] at hc
  rcases hc with rfl | rfl
  · exact exec_stallFree_match ok
  · exact exec_stallChainFree_last ok (last.resolve_right (by simp))

theorem linkFault_chained {o : StallOp} {m : Nat} {s : State} (ok : opFault s o true = none) (h : m = 0 ∨ allocatable s m = true) :
    linkFault s o m = none := by
  rcases h with h | h <;> simp [linkFault, ok, h]

theorem linkFault_neverChained {o : StallOp} {m : Nat} {s : State} (ok : opFault s o true = none) (m0 : m ≠ 0)
    (h : allocatable s m = false) : linkFault s o m = some (4, m) := by
  simp [linkFault, ok, m0, h]

theorem pinTaken_iff (s : State) (n g : Nat) : pinTaken s (n, g) = true ↔ (stallAt s n).st ≠ .free ∧ (stallAt s n).gen = g := by
  simp [pinTaken]

theorem unpin_held {n : Nat} {s : State} (pinned : 0 < (stallAt s n).pins) (held : (stallAt s n).st = .held) :
    unpin n s = setStall n { stallAt s n with pins := (stallAt s n).pins - 1 } s := by
  simp [unpin, held, Nat.ne_of_gt pinned]

theorem unpin_last {n : Nat} {s : State} (one : (stallAt s n).pins = 1) (st : (stallAt s n).st = .releasing) :
    unpin n s = release n s := by
  simp [unpin, st, one]

/-- Settles O34: a request is the turn of its Stable, a free is `release` unless pins cover the Stall, and an operation that does
not match is `badFree`. -/
theorem stallsAreGrantedFreedAndPinned : Obligations.StallsAreGrantedFreedAndPinned := by
  intro s
  refine ⟨fun r ready known may first stable least most idle =>
    stallRequest_granted_or_waits ready known may first stable least most idle,
    fun o => ⟨fun ok pins c hc last => ?free, fun ok pins => ?releasing, fun ok => ⟨fun d => ?transfer, fun m h => ?link,
      fun m m0 h => ?neverChained⟩, fun k bad c hc => ?bad⟩,
    fun n g st gen => ?pin, fun n g h => ?refused, fun n pinned => ⟨fun held => ?unpin, fun st one => ?lastPin⟩,
    fun b req n rest head alone covered => ?grant, fun b low free => ?refill, fun b high => ?writeback⟩
  case free =>
    obtain ⟨self, others⟩ := stallAt_release o.stall s
    exact ⟨_, free_unpinned ok pins hc last, self, others, head?_cache_release⟩
  case releasing => exact ⟨_, (exec_stallFree_match ok).trans (by rw [freeHeld_pinned pins]), stallAt_setStall_self ..⟩
  case transfer => exact ⟨_, exec_stallTransfer_match ok d, setStall_changes ..⟩
  case link => exact ⟨_, exec_stallLink_match (linkFault_chained ok h), setStall_changes ..⟩
  case neverChained => exact ⟨_, exec_stallLink_fault (linkFault_neverChained ok m0 h), badFree_records ..⟩
  case bad => exact ⟨_, exec_stallOp_fault bad hc, badFree_records ..⟩
  case pin => exact ⟨_, congrArg go (if_pos ((pinTaken_iff s n g).mpr ⟨st, gen⟩)), stallAt_setStall_self ..⟩
  case refused =>
    have untaken : ¬pinTaken s (n, g) = true := fun taken =>
      have ⟨st, gen⟩ := (pinTaken_iff s n g).mp taken
      h.elim st (· gen)
    exact ⟨_, congrArg go (if_neg untaken), rfl⟩
  case unpin => exact ⟨_, congrArg go (unpin_held pinned held), stallAt_setStall_self ..⟩
  case lastPin => exact ⟨_, congrArg go (unpin_last one st), (stallAt_release n s).1⟩
  case grant =>
    obtain ⟨free, fifo⟩ := grant_covered req b n (setStable b { stableAt s b with fifo := rest } s)
      (by rw [stableAt_setStable_self]; exact covered)
    rw [stableAt_setStable_self] at free fifo
    refine ⟨_, congrArg go (grantHead_covered head alone covered), ?_⟩
    simp only [stableAt_serve]
    exact ⟨fifo, free⟩
  case refill =>
    refine ⟨setStable b (refill 32 (stableAt s b)) s, if_pos ⟨low, free⟩, ?_⟩
    simp only [stableAt_setStable_self]
    exact ⟨freeCount_refill .., length_refill_cache ..⟩
  case writeback =>
    refine ⟨setStable b (writeback (stableAt s b)) s, if_pos high, ?_⟩
    simp only [stableAt_setStable_self]
    exact writeback_moves (le_trans (by decide) high)

end Sys2Proof.Machine
end

/-! Writes on their way to the cipher: host DMA, the dispatcher and its turns, how an engine's job ends, engines that leave
service (R103, R105 to R109, R116). -/

section

namespace Sys2Proof.Machine

/-! ## Host DMA and the dispatcher (R103, R105) -/

/-- A packet's host bytes in an idle ingress Stall of its port make it ready. -/
theorem exec_hostDmaComplete {s : State} {q i n : Nat} {data : Bytes} {w : Write} {k : Pkt} (run : (runningCmd s q 0x01).isSome)
    (found : findWrite s q = some w) (hk : w.pkts[i]? = some k)
    (fits : ¬(k.st ≠ .dma ∨ data.length ≠ k.hostLen ∨ (stallAt s n).st ≠ .held ∨ (stallAt s n).owner ≠ portReq w.port
      ∨ (stallAt s n).stable ≠ 0 ∨ stallBusy s n = true)) :
    exec (.hostDmaComplete q i n data) s = .next (updWrite q
      (fun w => w.updPkt i fun k => { k with st := .ready, data := data, ingress := some (n, (stallAt s n).gen) }) s) := by
  obtain ⟨c, hc⟩ := Option.isSome_iff_exists.mp run
  show execHostDmaComplete q i n data s = _
  unfold execHostDmaComplete
  simp only [hc, found, hk]
  exact if_neg fits

/-- A packet of a write changes, if the write is in the index. -/
theorem findWrite_updWrite_pkt (q i : Nat) (f : Pkt → Pkt) (s : State) :
    findWrite (updWrite q (fun w => w.updPkt i f) s) q = (findWrite s q).map fun w => w.updPkt i f :=
  findWrite_updWrite q (fun w => w.updPkt i f) (fun _ => rfl) s

/-- Whose turn is next where both kinds of packet wait: `b` says a read's. -/
def setTurn (b : Bool) (s : State) : State := { s with cmp := { s.cmp with readNext := b } }

/-- A packet of a write as it is given to an engine. -/
def packetGiven (e q i : Nat) (s : State) : State :=
  setEngine e { engineAt s e with job := .write q i false
                                  input := (((findWrite s q).bind fun w => w.pkts[i]?).map Pkt.data).getD [] }
    (updWrite q (fun w => w.updPkt i fun k => { k with st := .inEngine e }) s)

/-- The packet of a read as it is given to an engine. -/
def readGiven (e q : Nat) (s : State) : State :=
  setEngine e { engineAt s e with job := .read q }
    (updCmd q (fun c => { c with hold := c.hold.map fun h => { h with engine := some e } }) s)

/-- Without a contest, or in a write's turn of one, ENGINE_DISPATCH gives the packet out; after a contest it is a read's turn. -/
theorem exec_engineDispatch {s : State} {q i e : Nat} (on : Cfgw.rawOnly s = false) (ready : readyPacket s = some (q, i))
    (idle : idleEngine s = some e) (turn : (dlzWaiting s).isSome → s.cmp.readNext = false) :
    exec .engineDispatch s = .next (setTurn ((dlzWaiting s).isSome || s.cmp.readNext) (packetGiven e q i s)) := by
  show execEngineDispatch s = _
  unfold execEngineDispatch
  simp only [on, ready, idle, Bool.false_eq_true, if_false]
  cases contested : (dlzWaiting s).isSome with
  | true => simp only [turn contested, Bool.false_eq_true, and_false, if_false]; rfl
  | false => simp only [Bool.false_eq_true, false_and, if_false]; rfl

/-- Without a contest, or in a read's turn of one, READ_DLZ_DISPATCH gives the packet out; after a contest it is a write's turn. -/
theorem exec_readDlzDispatch {s : State} {c : Cmd} {e : Nat} (waits : dlzWaiting s = some c) (idle : idleEngine s = some e)
    (turn : (readyPacket s).isSome → Cfgw.rawOnly s = false → s.cmp.readNext = true) :
    exec .readDlzDispatch s
      = .next (setTurn (s.cmp.readNext && !((readyPacket s).isSome && !Cfgw.rawOnly s)) (readGiven e c.seq s)) := by
  show execReadDlzDispatch s = _
  unfold execReadDlzDispatch
  simp only [waits, idle]
  cases contested : (readyPacket s).isSome && !Cfgw.rawOnly s with
  | true =>
    obtain ⟨ready, on⟩ := (Bool.and_eq_true ..).mp contested
    simp only [turn ready ((Bool.not_eq_true' _).mp on), Bool.true_eq_false, and_false, if_false]; rfl
  | false => simp only [Bool.false_eq_true, false_and, if_false, Bool.not_false, Bool.and_true]; rfl

/-! ## Events and counters of an engine (R116) -/

/-- An event posted with an engine's change leaves that change as it is, and the other engines too. -/
theorem engineAt_postEvent_setEngine (src block ev : Nat) (prio : Bool) (arg e : Nat) (x : Engine) (s : State) :
    engineAt (postEvent src block ev prio arg (setEngine e x s)) e = x
      ∧ ∀ d, d ≠ e → engineAt (postEvent src block ev prio arg (setEngine e x s)) d = engineAt s d := by
  have post (d : Nat) := engineAt_of_cmp ((postEvent_frame src block ev prio arg (setEngine e x s)).same .cmp rfl) d
  exact ⟨(post e).trans (engineAt_setEngine_self ..), fun d h => (post d).trans (engineAt_setEngine_other _ _ h)⟩

theorem engCtr_eq (e k : Nat) : engCtr e k = 0x030100 + 4 * k + 0x20 * e := by unfold engCtr; omega

theorem engCtr_inj {e j k : Nat} : engCtr e j = engCtr e k ↔ j = k := by unfold engCtr; omega

/-- Posting an event leaves an engine's counters alone: those of the mailbox lie above. -/
theorem ctr_postEvent_engCtr {e k : Nat} (he : e < 6) (hk : k < 8) (src block ev : Nat) (prio : Bool) (arg : Nat) (s : State) :
    ctr (postEvent src block ev prio arg s) (engCtr e k) = ctr s (engCtr e k) :=
  ctr_pushMgt (by unfold engCtr; omega) _ _

/-- Apart from the MiB of bytes in and out, a job that ends counts its packet and nothing else. -/
theorem ctr_jobEnds {e c : Nat} (bytesIn : c ≠ engCtr e 2) (bytesOut : c ≠ engCtr e 3) (q i : Nat) (dlz : Bool) (payload : Bytes)
    (s : State) : ctr (jobEnds e q i dlz payload s) c = ctr (inc (engCtr e 0) s) c := by
  cases dlz with
  | false => exact (ctr_addCtr ..).trans (if_neg bytesIn)
  | true => exact (ctr_addCtr ..).trans ((if_neg bytesOut).trans ((ctr_addCtr ..).trans (if_neg bytesIn)))

/-! ## A job's end (R106, R109) -/

/-- What the end of packet i's job leaves from `s` on: its engine holds the packet, or is idle when the write is gone. -/
structure JobOver (e q i : Nat) (dlz : Bool) (payload : Bytes) (s t : State) : Prop where
  others : ∀ d, d ≠ e → engineAt t d = engineAt s d
  job : (engineAt t e).job = if (findWrite s q).isSome then .done q i else .idle
  packet : findWrite t q
    = (findWrite s q).map fun w => w.updPkt i fun k => { k with st := .finished e, dlz := dlz, payload := payload }
  counted : ctr t (engCtr e 0) = satAdd (ctr s (engCtr e 0)) 1

theorem engineAt_jobEnds_other {d e : Nat} (h : d ≠ e) (q i : Nat) (dlz : Bool) (payload : Bytes) (s : State) :
    engineAt (jobEnds e q i dlz payload s) d = engineAt s d := by
  cases dlz <;> exact engineAt_setEngine_other _ _ h

/-- An engine whose job ends keeps its count of mismatches. -/
theorem engineAt_jobEnds_self (e q i : Nat) (dlz : Bool) (payload : Bytes) (s : State) :
    (engineAt (jobEnds e q i dlz payload s) e).job = (if (findWrite s q).isSome then .done q i else .idle)
      ∧ (engineAt (jobEnds e q i dlz payload s) e).mismatches = (engineAt s e).mismatches := by
  unfold jobEnds
  dsimp only
  rw [engineAt_setEngine_self]
  cases dlz <;> exact ⟨rfl, rfl⟩

theorem findWrite_jobEnds (e q i : Nat) (dlz : Bool) (payload : Bytes) (s : State) :
    findWrite (jobEnds e q i dlz payload s) q
      = (findWrite s q).map fun w => w.updPkt i fun k => { k with st := .finished e, dlz := dlz, payload := payload } := by
  cases dlz <;> exact findWrite_updWrite_pkt ..

theorem jobOver_jobEnds (e q i : Nat) (dlz : Bool) (payload : Bytes) (s : State) :
    JobOver e q i dlz payload s (jobEnds e q i dlz payload s) where
  others _ h := engineAt_jobEnds_other h ..
  job := (engineAt_jobEnds_self ..).1
  packet := findWrite_jobEnds ..
  counted := by
    rw [ctr_jobEnds (by simp [engCtr_inj]) (by simp [engCtr_inj]), ctr_inc, if_pos rfl]

/-- Another count of the engine does not touch what the end of the job left. -/
theorem JobOver.after_inc {e q i k : Nat} {dlz : Bool} {payload : Bytes} {s t : State} (h : JobOver e q i dlz payload s t) (hk : k ≠ 0) :
    JobOver e q i dlz payload s (inc (engCtr e k) t) where
  others := h.others
  job := h.job
  packet := h.packet
  counted := by rw [ctr_inc, if_neg (by simpa [engCtr_inj] using hk.symm), h.counted]

/-- A verify mismatch of an engine is recorded: its count, its mismatches, the event (R107, R116). -/
def mismatchNoted (e : Nat) (s : State) : State :=
  let s1 := inc (engCtr e 4) s
  postEvent (Src.cmp e) 0x03 0x01 false (e % 8) (setEngine e { engineAt s1 e with mismatches := (engineAt s1 e).mismatches + 1 } s1)

theorem engineAt_mismatchNoted (e : Nat) (s : State) :
    engineAt (mismatchNoted e s) e = { engineAt s e with mismatches := (engineAt s e).mismatches + 1 }
      ∧ ∀ d, d ≠ e → engineAt (mismatchNoted e s) d = engineAt s d := engineAt_postEvent_setEngine ..

theorem ctr_mismatchNoted {e k : Nat} (he : e < 6) (hk : k < 8) (s : State) :
    ctr (mismatchNoted e s) (engCtr e k) = ctr (inc (engCtr e 4) s) (engCtr e k) := ctr_postEvent_engCtr he hk ..

theorem JobOver.after_mismatch {e q i : Nat} {dlz : Bool} {payload : Bytes} {s t : State} (h : JobOver e q i dlz payload s t)
    (he : e < 6) : JobOver e q i dlz payload s (mismatchNoted e t) := by
  obtain ⟨self, others⟩ := engineAt_mismatchNoted e t
  have hq : (mismatchNoted e t).hq = t.hq := (postEvent_frame ..).same .hq rfl
  refine ⟨fun d hd => (others d hd).trans (h.others d hd), ?_, (findWrite_of_hq hq q).trans h.packet, ?_⟩
  · rw [self]
    exact h.job
  · rw [ctr_mismatchNoted he (by decide), (h.after_inc (k := 4) (by decide)).counted]

/-! ## Engines that leave service (R107) -/

/-- An engine that leaves service is out, its mismatches forgotten; the others stay. -/
theorem engineAt_leaveService (e : Nat) (byFault : Bool) (s : State) :
    engineAt (leaveService e byFault s) e = { engineAt s e with fault := true, mismatches := 0 }
      ∧ ∀ d, d ≠ e → engineAt (leaveService e byFault s) d = engineAt s d := engineAt_postEvent_setEngine ..

theorem leaveService_hq (e : Nat) (byFault : Bool) (s : State) : (leaveService e byFault s).hq = s.hq :=
  (leaveService_frame ..).same .hq rfl

theorem engineIn_of_fault {e : Nat} {s : State} (h : (engineAt s e).fault = true) : engineIn s e = false := by simp [engineIn, h]

/-- A packet's engine fails: the packet is ready again, and the engine, idle, leaves service (R109). -/
def engineFailed (e q i : Nat) (s : State) : State :=
  let s1 := inc (engCtr e 6) (updWrite q (fun w => w.updPkt i fun k => { k with st := .ready }) s)
  leaveService e true (setEngine e { engineAt s1 e with job := .idle, input := [] } s1)

theorem engineAt_engineFailed (e q i : Nat) (s : State) :
    engineAt (engineFailed e q i s) e = { engineAt s e with job := .idle, input := [], fault := true, mismatches := 0 }
      ∧ ∀ d, d ≠ e → engineAt (engineFailed e q i s) d = engineAt s d := by
  obtain ⟨self, others⟩ := engineAt_leaveService e true (setEngine e { engineAt s e with job := .idle, input := [] }
    (inc (engCtr e 6) (updWrite q (fun w => w.updPkt i fun k => { k with st := .ready }) s)))
  rw [engineAt_setEngine_self] at self
  exact ⟨self, fun d h => (others d h).trans (engineAt_setEngine_other _ _ h)⟩

theorem findWrite_engineFailed (e q i : Nat) (s : State) :
    findWrite (engineFailed e q i s) q = (findWrite s q).map fun w => w.updPkt i fun k => { k with st := .ready } :=
  (findWrite_of_hq (leaveService_hq ..) q).trans (findWrite_updWrite_pkt ..)

theorem ctr_engineFailed {e : Nat} (he : e < 6) (q i : Nat) (s : State) :
    ctr (engineFailed e q i s) (engCtr e 6) = satAdd (ctr s (engCtr e 6)) 1 :=
  (ctr_postEvent_engCtr he (by decide) ..).trans ((ctr_inc ..).trans (if_pos rfl))

/-! ## COMPRESSION_DONE, one equation per outcome (R106, R109) -/

section Outcomes

variable {e q i : Nat} {b : Bool} {f : EngineFault} {s : State} (job : (engineAt s e).job = .write q i b)

include job

/-- A stream that is not smaller than its packet: the raw bytes, whether or not it verified. -/
theorem exec_compressionDone_notSmaller (clean : f = .none ∨ f = .verifyMismatch)
    (long : (engineAt s e).input.length ≤ (dlzEncode (engineAt s e).input).length) :
    exec (.compressionDone e f) s = .next (inc (engCtr e 1) (jobEnds e q i false (engineAt s e).input s)) := by
  show execCompressionDone e f s = _
  unfold execCompressionDone
  rcases clean with rfl | rfl <;> simp only [job, if_pos long] <;> rfl

/-- A smaller stream that does not verify: the raw bytes, and the mismatch is recorded. -/
theorem exec_compressionDone_mismatch (short : (dlzEncode (engineAt s e).input).length < (engineAt s e).input.length) :
    exec (.compressionDone e .verifyMismatch) s = .next (mismatchNoted e (jobEnds e q i false (engineAt s e).input s)) := by
  show execCompressionDone e .verifyMismatch s = _
  unfold execCompressionDone
  simp only [job, if_neg (not_le.mpr short)]
  rfl

/-- A smaller stream that verifies: the stream. -/
theorem exec_compressionDone_smaller (short : (dlzEncode (engineAt s e).input).length < (engineAt s e).input.length) :
    exec (.compressionDone e .none) s = .next (jobEnds e q i true (dlzEncode (engineAt s e).input) s) := by
  show execCompressionDone e .none s = _
  unfold execCompressionDone
  simp only [job, if_neg (not_le.mpr short)]
  rfl

/-- Whether a job's stream takes the place of the packet's bytes: it is shorter, and it verified. -/
def streamKept (f : EngineFault) (input : Bytes) : Bool := decide ((dlzEncode input).length < input.length ∧ f = .none)

/-- Without an error of its buffers the job ends, with the stream or the raw bytes, each reason for raw bytes counted. -/
theorem exec_compressionDone_ends (he : e < 6) (clean : f = .none ∨ f = .verifyMismatch) :
    let input := (engineAt s e).input
    ∃ t, exec (.compressionDone e f) s = .next t
      ∧ JobOver e q i (streamKept f input) (if streamKept f input then dlzEncode input else input) s t
      ∧ (input.length ≤ (dlzEncode input).length → ctr t (engCtr e 1) = satAdd (ctr s (engCtr e 1)) 1)
      ∧ ((dlzEncode input).length < input.length → f = .verifyMismatch →
          ctr t (engCtr e 4) = satAdd (ctr s (engCtr e 4)) 1 ∧ (engineAt t e).mismatches = (engineAt s e).mismatches + 1) := by
  intro input
  have ended := jobOver_jobEnds e q i
  have count (k : Nat) (h0 : k ≠ 0) (h2 : k ≠ 2) (h3 : k ≠ 3) (payload : Bytes) :
      ctr (inc (engCtr e k) (jobEnds e q i false payload s)) (engCtr e k) = satAdd (ctr s (engCtr e k)) 1 := by
    rw [ctr_inc, if_pos rfl, ctr_jobEnds (by rwa [Ne, engCtr_inj]) (by rwa [Ne, engCtr_inj]), ctr_inc, if_neg (by rwa [engCtr_inj])]
  rcases le_or_gt input.length (dlzEncode input).length with long | short
  · have raw : streamKept f input = false := decide_eq_false fun h => not_lt.mpr long h.1
    rw [raw]
    exact ⟨_, exec_compressionDone_notSmaller job clean long, (ended ..).after_inc (by decide),
      fun _ => count 1 (by decide) (by decide) (by decide) _, fun short => absurd long (not_le.mpr short)⟩
  rcases clean with rfl | rfl
  · have kept : streamKept .none input = true := decide_eq_true ⟨short, rfl⟩
    rw [kept]
    exact ⟨_, exec_compressionDone_smaller job short, ended .., fun long => absurd long (not_le.mpr short), nofun⟩
  · have raw : streamKept .verifyMismatch input = false := decide_eq_false fun h => nomatch h.2
    rw [raw]
    refine ⟨_, exec_compressionDone_mismatch job short, (ended ..).after_mismatch he, fun long => absurd long (not_le.mpr short),
      fun _ _ => ⟨?_, ?_⟩⟩
    · rw [ctr_mismatchNoted he (by decide), count 4 (by decide) (by decide) (by decide)]
    · rw [(engineAt_mismatchNoted ..).1, (engineAt_jobEnds_self ..).2]

/-- An input error of a first try: the job starts again. -/
theorem exec_compressionDone_again (first : b = false) :
    exec (.compressionDone e .inputEcc) s = .next (setEngine e { engineAt s e with job := .write q i true } (inc (engCtr e 6) s)) := by
  show execCompressionDone e .inputEcc s = _
  unfold execCompressionDone
  simp only [job, first]
  rfl

/-- An input error of a second try, or an output error: the engine fails. -/
theorem exec_compressionDone_failed (bad : f = .inputEcc ∧ b = true ∨ f = .outputEcc) :
    exec (.compressionDone e f) s = .next (engineFailed e q i s) := by
  show execCompressionDone e f s = _
  unfold execCompressionDone
  rcases bad with ⟨rfl, rfl⟩ | rfl <;> simp only [job] <;> rfl

end Outcomes

/-- ENGINE_LEAVE_SERVICE takes out an engine in service that has reached the mismatch limit. -/
theorem exec_engineLeaveService {e : Nat} {s : State} (on : engineIn s e = true) (seen : 0 < (engineAt s e).mismatches)
    (limit : Cfgw.mismatchLimit s ≤ (engineAt s e).mismatches) : exec (.engineLeaveService e) s = .next (leaveService e false s) :=
  if_pos ⟨on, seen, limit⟩

/-- What COMPRESSION_DONE may report: a clean end, an input error of a first try, or an engine fault. -/
theorem faultOutcome_cases (f : EngineFault) (b : Bool) :
    (f = .none ∨ f = .verifyMismatch) ∨ (f = .inputEcc ∧ b = false) ∨ (f = .inputEcc ∧ b = true ∨ f = .outputEcc) := by
  cases f <;> simp

/-- Settles O18: a dispatch gives its packet to the engine and sets the turn; a job's end is `jobEnds`, another try or
`engineFailed`, each of which changes its own engine only. -/
theorem packetsMoveThroughTheEngines : Obligations.PacketsMoveThroughTheEngines := by
  intro s
  refine ⟨fun q i n data w k run found hk dma len held owner stable free => ?hostDma,
    fun q i e on ready idle turn => ⟨_, exec_engineDispatch on ready idle turn, ?write⟩,
    fun c e waits idle turn => ⟨_, exec_readDlzDispatch waits idle turn, ?read⟩,
    fun e q i b f job he => ?done,
    fun e on seen limit => ⟨_, exec_engineLeaveService on seen limit, ?leave⟩⟩
  case hostDma =>
    exact ⟨_, exec_hostDmaComplete run found hk (by simp [dma, len, held, owner, stable, free]), findWrite_updPkt found i _⟩
  case write =>
    exact ⟨engineAt_setEngine_self .., fun d h => engineAt_setEngine_other _ _ h, findWrite_updWrite_pkt .., rfl⟩
  case read => exact ⟨engineAt_setEngine_self .., fun d h => engineAt_setEngine_other _ _ h, rfl⟩
  case leave =>
    obtain ⟨self, others⟩ := engineAt_leaveService e false s
    exact ⟨self, engineIn_of_fault (by rw [self]), others⟩
  case done =>
    intro x z small
    rcases faultOutcome_cases f b with clean | ⟨rfl, rfl⟩ | bad
    · obtain ⟨t, runs, ended, notSmaller, mismatch⟩ := exec_compressionDone_ends job he clean
      rw [engCtr_eq] at notSmaller mismatch
      have noInput : f ≠ .inputEcc := by rintro rfl; simp at clean
      have noOutput : f ≠ .outputEcc := by rintro rfl; simp at clean
      exact ⟨t, runs, ended.others, fun _ => ⟨ended.job, ended.packet, ended.counted, notSmaller, mismatch⟩,
        fun h => absurd h noInput, fun h => (h.elim (noInput ·.1) noOutput).elim, fun h => (h.elim noInput noOutput).elim⟩
    · refine ⟨_, exec_compressionDone_again job rfl, fun d h => engineAt_setEngine_other _ _ h, nofun,
        fun _ _ => ⟨engineAt_setEngine_self .., rfl⟩, by simp, fun _ => ?_⟩
      rw [← engCtr_eq e 6]
      exact (ctr_inc ..).trans (if_pos rfl)
    · obtain ⟨self, others⟩ := engineAt_engineFailed e q i s
      have count := ctr_engineFailed he q i s
      rw [engCtr_eq] at count
      refine ⟨_, exec_compressionDone_failed job bad, others, fun clean => ?_, fun input first => ?_,
        fun _ => ⟨by rw [self], by rw [self], findWrite_engineFailed ..⟩, fun _ => count⟩
      · rcases bad with ⟨rfl, -⟩ | rfl <;> simp at clean
      · simp [input, first] at bad

end Sys2Proof.Machine
end

/-! Root keys: KEY_INJECT, KEY_ERASE and its NOR erase, the end of a retiring generation, KEY_QUERY, GET_TRANSPORT_KEY (R124,
R126, R132, R133, R469). -/

section

namespace Sys2Proof.Machine

/-! ## Slots (R123, R126, R132) -/

theorem slotAt_of_slots {s t : State} (h : t.cip.slots = s.cip.slots) (n : Nat) : slotAt t n = slotAt s n := by
  unfold slotAt
  rw [h]

theorem slotAt_setSlot_self (n : Nat) (x : KeySlot) (s : State) : slotAt (setSlot n x s) n = x := AMap.getD_set_self ..

theorem slotAt_setSlot_other {n m : Nat} (h : m ≠ n) (x : KeySlot) (s : State) : slotAt (setSlot n x s) m = slotAt s m :=
  AMap.getD_set_of_ne _ _ _ h.symm

/-- An injection loads its slot, whose old generation retires if there was one; it touches no other slot. -/
theorem slotAt_injectKey (n g : Nat) (key : Bytes) (s : State) :
    slotAt (injectKey n g key s) n
        = { slotAt s n with loaded := true, gen := g, key := key, retired := [], exhausted := false
                            retiring := if (slotAt s n).loaded then some ((slotAt s n).gen, (slotAt s n).key, s.hq.acceptSeq) else none }
      ∧ ∀ m, m ≠ n → slotAt (injectKey n g key s) m = slotAt s m :=
  ⟨slotAt_setSlot_self .., fun _ h => slotAt_setSlot_other h ..⟩

/-- A slot that a KEY_ERASE has emptied: no key is left, its generation stays, and its old NOR records are still to go. -/
structure Emptied (q : Nat) (x y : KeySlot) : Prop where
  loaded : y.loaded = false
  gen : y.gen = x.gen
  key : y.key = []
  retiring : y.retiring = none
  erasing : y.erasing = some q

theorem slotAt_eraseKey (n q : Nat) (s : State) :
    Emptied q (slotAt s n) (slotAt (eraseKey n q s) n) ∧ ∀ m, m ≠ n → slotAt (eraseKey n q s) m = slotAt s m := by
  refine ⟨?_, fun _ h => slotAt_setSlot_other h ..⟩
  unfold eraseKey
  rw [slotAt_setSlot_self]
  exact ⟨rfl, rfl, rfl, rfl, rfl⟩

theorem eraseKey_cache (n q : Nat) (s : State) : ∀ e ∈ (eraseKey n q s).cip.cache, e.slot ≠ n := by
  intro e h
  obtain ⟨-, other⟩ := List.mem_filter.mp h
  exact bne_iff_ne.mp other

theorem eraseOldRecords_keyArea (n : Nat) (s : State) (g : Nat) (w : Bytes) :
    KeyRec.slot n g w ∉ (eraseOldRecords n s).cip.keyArea ∧ KeyRec.retiredKey n g w ∉ (eraseOldRecords n s).cip.keyArea := by
  simp [eraseOldRecords]

/-- The end of a retiring generation takes it from its slot, and the cache entries of it that no command pins. -/
theorem endRetiring_eq {s : State} {n g sw : Nat} {key : Bytes} (held : (slotAt s n).retiring = some (g, key, sw)) :
    endRetiring n s = setSlot n { slotAt s n with retiring := none }
      { s with cip := { s.cip with cache := s.cip.cache.filter fun e => !(e.slot == n && e.gen == g && e.pins.isEmpty) } } := by
  unfold endRetiring
  simp only [held]

theorem endRetiring_cache {s : State} {n g sw : Nat} {key : Bytes} (held : (slotAt s n).retiring = some (g, key, sw)) :
    ∀ e ∈ (endRetiring n s).cip.cache, e.slot = n → e.gen = g → e.pins ≠ [] := by
  rw [endRetiring_eq held]
  intro e h slot gen none
  obtain ⟨-, stays⟩ := List.mem_filter.mp h
  simp [slot, gen, none] at stays

/-! ## What ending commands leaves of the keys (R131, R133)

Commands that end give up their pins and the packets that the cipher holds for them: no slot and no NOR record changes, and no
entry joins the cache. -/

structure KeysStay (s t : State) : Prop where
  slots : t.cip.slots = s.cip.slots
  keyArea : t.cip.keyArea = s.cip.keyArea
  cache : ∀ e ∈ t.cip.cache, ∃ d ∈ s.cip.cache, d.slot = e.slot

theorem KeysStay.of_cip {s t : State} (h : t.cip = s.cip) : KeysStay s t :=
  ⟨by rw [h], by rw [h], fun e he => ⟨e, h ▸ he, rfl⟩⟩

theorem KeysStay.of_frame {m : Nat} {s t : State} (h : Frame m s t) (b : m.testBit 6 = false) : KeysStay s t := .of_cip (h.same .cip b)

theorem KeysStay.trans {s u t : State} (h : KeysStay s u) (k : KeysStay u t) : KeysStay s t := by
  refine ⟨k.slots.trans h.slots, k.keyArea.trans h.keyArea, fun e he => ?_⟩
  obtain ⟨d, hd, same⟩ := k.cache e he
  obtain ⟨c, hc, same'⟩ := h.cache d hd
  exact ⟨c, hc, same'.trans same⟩

theorem KeysStay.each {α : Type} (f : α → State → State) (h : ∀ x v, KeysStay v (f x v)) (xs : List α) (s : State) :
    KeysStay s (each f xs s) := by
  induction xs generalizing s with
  | nil => exact .of_cip rfl
  | cons x xs ih => exact (h x s).trans (ih _)

theorem keysStay_unpinKey (q : Nat) (s : State) : KeysStay s (unpinKey q s) := by
  refine ⟨rfl, rfl, fun e he => ?_⟩
  obtain ⟨d, hd, rfl⟩ := List.mem_map.mp he
  exact ⟨d, hd, rfl⟩

theorem keysStay_forgetHeld (q : Nat) (s : State) : KeysStay s (forgetHeld q s) := ⟨rfl, rfl, fun e he => ⟨e, he, rfl⟩⟩

theorem keysStay_complete (q st r : Nat) (s : State) : KeysStay s (complete q st r s) := .of_frame (complete_frame ..) (by decide)

theorem keysStay_endCmd (q st r : Nat) (b : Bool) (s : State) : KeysStay s (endCmd q st b r s) := .of_frame (endCmd_frame ..) (by decide)

theorem keysStay_rollback (w : Write) (s : State) : KeysStay s (rollback w s) := by
  have dropped : KeysStay s (dropPackets w (unpinKey w.seq s)) :=
    (keysStay_unpinKey w.seq s).trans (.of_frame (dropPackets_frame ..) (by decide))
  have retired := dropped.trans (.of_frame (retire_frame w.seq _) (by decide))
  have forgotten := (retired.trans (.of_frame (forgetCopied_frame w.seq _) (by decide))).trans (keysStay_forgetHeld w.seq _)
  exact forgotten.trans (.of_cip rfl)

theorem keysStay_cascade (p q first st : Nat) (s : State) : KeysStay s (cascade p q first st s) :=
  ((KeysStay.each _ (fun x v => (keysStay_rollback x v).trans (keysStay_endCmd ..)) _ _).trans
    (KeysStay.each _ (fun _ _ => keysStay_endCmd ..) _ _)).trans (.of_frame (refreshMarks_frame ..) (by decide))

theorem keysStay_endWrite (q st : Nat) (s : State) : KeysStay s (endWrite q st s) := by
  unfold endWrite
  split
  · exact .of_cip rfl
  · split
    · exact .of_cip rfl
    · exact ((keysStay_rollback ..).trans (keysStay_endCmd ..)).trans (keysStay_cascade ..)

theorem keysStay_endErased (n : Nat) (s : State) : KeysStay s (endErased n s) := by
  have landing (c : Cmd) (v : State) :
      KeysStay v (complete c.seq Status.keyErased 0 (unpinKey c.seq (cancelLanding c.seq v))) :=
    ((KeysStay.of_frame (cancelLanding_frame c.seq v) (by decide)).trans (keysStay_unpinKey ..)).trans (keysStay_complete ..)
  exact (KeysStay.each _ (fun _ _ => keysStay_endWrite ..) _ _).trans (KeysStay.each _ landing _ _)

/-! ## Commands that end and leave the cipher or host memory alone (R64) -/

theorem complete_cip (q st r : Nat) (s : State) : (complete q st r s).cip = s.cip := (complete_frame ..).same .cip (by decide)

theorem ended_complete_cip {s : State} {q : Nat} {c : Cmd} (found : findCmd s q = some c) (st r : Nat) :
    Ended (complete q st r s) q st r ∧ (complete q st r s).cip = s.cip := ⟨.complete found .., complete_cip ..⟩

theorem ended_complete_hostMem {s : State} {q : Nat} {c : Cmd} (found : findCmd s q = some c) (st r : Nat) :
    Ended (complete q st r s) q st r ∧ (complete q st r s).hostMem = s.hostMem := ⟨.complete found .., complete_hostMem ..⟩

/-! ## KEY_INJECT (R126, R132) -/

/-- The checks of R126 that need no key: the block, the generation, the point. -/
def InjectRefused (s : State) (c : Cmd) (sgl block : Bytes) : Prop :=
  c.e.length ≠ 144 ∨ sglOk c.e sgl 144 = false ∨ block.length ≠ 144 ∨ c.e.param = 0
    ∨ ((slotAt s c.e.keySlot).loaded = true ∧ (slotAt s c.e.keySlot).gen = c.e.param) ∨ onCurve (block.take 97) = false

/-- The root key in the block of a KEY_INJECT, if its wrap is whole. -/
def injectedKey (s : State) (c : Cmd) (block : Bytes) : Option Bytes :=
  keyUnwrap (injectKek (ecdh (Config.transportSeed (secretOf s)) (block.take 97)) c.e.keySlot c.e.param (block.take 97)) (slice block 100 40)

section Inject

variable {s : State} {q : Nat} {c : Cmd} {sgl block : Bytes} (turn : due s q 0x90 = some c)

include turn

theorem exec_keyInject_waits (waits : earlierChecked s = false) : exec (.keyInject q sgl block) s = .next s := by
  show execKeyInject q sgl block s = _
  unfold execKeyInject
  rw [turn]
  exact if_pos waits

theorem exec_keyInject_refused (checked : earlierChecked s = true) (bad : InjectRefused s c sgl block) :
    exec (.keyInject q sgl block) s = .next (complete q Status.invalidField 0 s) := by
  show execKeyInject q sgl block s = _
  unfold execKeyInject
  rw [turn]
  exact (if_neg (by simp [checked])).trans (if_pos bad)

theorem exec_keyInject_retiring (checked : earlierChecked s = true) (good : ¬InjectRefused s c sgl block)
    (retiring : (slotAt s c.e.keySlot).retiring.isSome = true) :
    exec (.keyInject q sgl block) s = .next (complete q Status.busyRetry 1000 s) := by
  show execKeyInject q sgl block s = _
  unfold execKeyInject
  rw [turn]
  exact (if_neg (by simp [checked])).trans ((if_neg good).trans (if_pos retiring))

/-- What passes the first two checks of R126 is unwrapped. -/
theorem exec_keyInject_unwraps (checked : earlierChecked s = true) (good : ¬InjectRefused s c sgl block)
    (free : (slotAt s c.e.keySlot).retiring = none) :
    exec (.keyInject q sgl block) s = .next ((injectedKey s c block).elim (complete q Status.authFail 0 s)
      fun key => complete q Status.ok 0 (injectKey c.e.keySlot c.e.param key s)) := by
  show execKeyInject q sgl block s = _
  unfold execKeyInject
  rw [turn]
  refine (if_neg (by simp [checked])).trans ((if_neg good).trans ((if_neg (by simp [free])).trans ?_))
  unfold injectedKey
  dsimp only
  split <;> next unwrapped => rw [unwrapped]; rfl

end Inject

/-- The slot, the other slots and the key area after a KEY_INJECT that ends OK. -/
theorem injected_keys {s : State} {q : Nat} {c : Cmd} (found : findCmd s q = some c) (n g : Nat) (key : Bytes) :
    let t := complete q Status.ok 0 (injectKey n g key s)
    Ended t q Status.ok 0 ∧ (∀ m, slotAt t m = slotAt (injectKey n g key s) m)
      ∧ t.cip.keyArea = s.cip.keyArea ++ [.slot n g (keyWrap (Config.storageKey (secretOf s)) key)] := by
  obtain ⟨ended, cip⟩ := ended_complete_cip ((findCmd_of_frame (injectKey_frame n g key s) (by decide) q).trans found) Status.ok 0
  exact ⟨ended, slotAt_of_slots (congrArg Cip.slots cip), congrArg Cip.keyArea cip⟩

/-! ## KEY_ERASE and its NOR erase (R132, R133) -/

section Erase

variable {s : State} {q : Nat} {c : Cmd} (turn : due s q 0x91 = some c) (checked : earlierChecked s = true)

include turn checked

theorem exec_keyErase_empty (empty : (slotAt s c.e.keySlot).loaded = false) :
    exec (.keyErase q) s = .next (complete q Status.ok 0 s) := by
  show execKeyErase q s = _
  unfold execKeyErase
  rw [turn]
  exact (if_neg (by simp [checked])).trans (if_pos empty)

theorem exec_keyErase_loaded (loaded : (slotAt s c.e.keySlot).loaded = true) :
    exec (.keyErase q) s = .next (endErased c.e.keySlot (eraseKey c.e.keySlot q (setSt q .running s))) := by
  show execKeyErase q s = _
  unfold execKeyErase
  rw [turn]
  exact (if_neg (by simp [checked])).trans (if_neg (by simp [loaded]))

end Erase

/-- The NOR erase ends the KEY_ERASE that waits for it. -/
theorem exec_keyEraseNorDone {s : State} {q k : Nat} {c : Cmd} (erasing : (slotAt s k).erasing = some q)
    (run : runningCmd s q 0x91 = some c) :
    exec (.keyEraseNorDone k) s
      = .next (complete q Status.ok 0 (setSlot k { slotAt s k with erasing := none } (eraseOldRecords k s))) := by
  show execKeyEraseNorDone k s = _
  unfold execKeyEraseNorDone
  rw [erasing]
  dsimp only
  rw [run]
  rfl

/-! ## The end of a retiring generation (R132) -/

theorem exec_retiringGenerationEnd {s : State} {k g sw : Nat} {key : Bytes} (held : (slotAt s k).retiring = some (g, key, sw)) :
    exec (.retiringGenerationEnd k) s = .next (if retiringUsed s k g sw then s else endRetiring k s) := by
  show execRetiringGenerationEnd k s = _
  unfold execRetiringGenerationEnd
  rw [held]
  dsimp only
  split <;> rfl

/-! ## KEY_QUERY and GET_TRANSPORT_KEY (R124, R469) -/

theorem exec_keyQuery {s : State} {q : Nat} {c : Cmd} (turn : due s q 0x92 = some c) :
    let x := slotAt s c.e.keySlot
    exec (.keyQuery q) s = .next (complete q Status.ok
      (x.gen + b2n x.loaded * 2 ^ 32 + b2n x.retiring.isSome * 2 ^ 33 + b2n x.exhausted * 2 ^ 34) s) := by
  show execKeyQuery q s = _
  unfold execKeyQuery
  rw [turn]
  rfl

theorem length_fit (bs : Bytes) (n : Nat) : (fit bs n).length = n := by
  simp only [fit, zeros, List.length_append, List.length_take, List.length_replicate]
  omega

/-- What GET_TRANSPORT_KEY answers: the transport key's point, signed with the identity key (R469). -/
def transportKeyBytes (s : State) : Bytes :=
  let point := fit (publicPoint (Config.transportSeed (secretOf s))) 97
  point ++ fit (ecdsaSign (Config.identitySeed (secretOf s)) (sha384 point)) 96

theorem length_transportKeyBytes (s : State) : (transportKeyBytes s).length = 193 := by
  simp only [transportKeyBytes, List.length_append, length_fit]

theorem exec_getTransportKey {s : State} {q : Nat} {c : Cmd} (turn : due s q 0x93 = some c) (sgl : Bytes) :
    exec (.getTransportKey q sgl) s = .next
      (if c.e.length < 193 then complete q Status.lengthLimit 0 s
       else if sglOk c.e sgl c.e.length = false then complete q Status.invalidField 0 s
       else complete q Status.ok 193 (sglWrite (sglOf c.e sgl) 0 (transportKeyBytes s) s)) := by
  show execGetTransportKey q sgl s = _
  unfold execGetTransportKey
  rw [turn]
  dsimp only
  split
  · rfl
  · split <;> rfl

/-- Settles O27: each row ends as its checks say (the `exec_` lemmas); an injection and an erase change their own slot, and the
writes that an erase ends change no slot, no NOR record, and bring no entry into the cache (`KeysStay`). -/
theorem rootKeysAreInjectedErasedAndQueried : Obligations.RootKeysAreInjectedErasedAndQueried := by
  intro s q c
  refine ⟨fun sgl block turn => ?inject, fun turn checked => ⟨fun empty => ?eraseEmpty, fun loaded => ?eraseLoaded⟩,
    fun k erasing run => ?norDone, fun k g key sw held => ?retiring, fun turn => ?query, fun sgl turn => ?transport⟩
  case inject =>
    intro x bad unwrapped
    have found := due_find turn
    refine ⟨fun waits => ⟨s, exec_keyInject_waits turn waits, rfl⟩, fun checked => ⟨fun refused => ?_, fun good retiring => ?_,
      fun good free wrong => ?_, fun key good free whole => ?_⟩⟩
    · exact ⟨_, exec_keyInject_refused turn checked refused, ended_complete_cip found ..⟩
    · exact ⟨_, exec_keyInject_retiring turn checked good retiring, ended_complete_cip found ..⟩
    · have runs := exec_keyInject_unwraps turn checked good free
      rw [show injectedKey s c block = none from wrong] at runs
      exact ⟨_, runs, ended_complete_cip found ..⟩
    · have runs := exec_keyInject_unwraps turn checked good free
      rw [show injectedKey s c block = some key from whole] at runs
      obtain ⟨ended, slots, area⟩ := injected_keys found c.e.keySlot c.e.param key
      obtain ⟨self, others⟩ := slotAt_injectKey c.e.keySlot c.e.param key s
      exact ⟨_, runs, ended, (slots _).trans self, fun n h => (slots n).trans (others n h), area⟩
  case eraseEmpty => exact ⟨_, exec_keyErase_empty turn checked empty, ended_complete_cip (due_find turn) ..⟩
  case eraseLoaded =>
    have stay := keysStay_endErased c.e.keySlot (eraseKey c.e.keySlot q (setSt q .running s))
    have slots := slotAt_of_slots stay.slots
    obtain ⟨emptied, others⟩ := slotAt_eraseKey c.e.keySlot q (setSt q .running s)
    rw [← slots] at emptied
    refine ⟨_, exec_keyErase_loaded turn checked loaded, emptied.loaded, emptied.gen, emptied.key, emptied.retiring, emptied.erasing,
      fun n h => (slots n).trans (others n h), fun e he => ?_, stay.keyArea⟩
    obtain ⟨d, hd, same⟩ := stay.cache e he
    exact same ▸ eraseKey_cache _ _ _ d hd
  case norDone =>
    obtain ⟨ended, cip⟩ := ended_complete_cip
      (s := setSlot k { slotAt s k with erasing := none } (eraseOldRecords k s)) (runningCmd_find run) Status.ok 0
    have slots := slotAt_of_slots (congrArg Cip.slots cip)
    refine ⟨_, exec_keyEraseNorDone erasing run, ended, (slots k).trans (slotAt_setSlot_self ..),
      fun n h => (slots n).trans (slotAt_setSlot_other h ..), fun g w => ?_⟩
    rw [cip]
    exact eraseOldRecords_keyArea k s g w
  case retiring =>
    have runs := exec_retiringGenerationEnd held
    refine ⟨fun used => ?_, fun unused => ?_⟩
    · rw [used] at runs
      exact ⟨s, runs, rfl⟩
    · rw [unused] at runs
      refine ⟨endRetiring k s, runs, ?_, fun n h => ?_, endRetiring_cache held⟩
      · rw [endRetiring_eq held, slotAt_setSlot_self]
      · rw [endRetiring_eq held, slotAt_setSlot_other h]
        rfl
  case query => exact ⟨_, exec_keyQuery turn, ended_complete_cip (due_find turn) ..⟩
  case transport =>
    have runs := exec_getTransportKey turn sgl
    have found := due_find turn
    refine ⟨fun short => ?_, fun fits bad => ?_, fun fits good => ?_⟩
    · rw [if_pos short] at runs
      exact ⟨_, runs, ended_complete_hostMem found ..⟩
    · rw [if_neg (not_lt.mpr fits), if_pos bad] at runs
      exact ⟨_, runs, ended_complete_hostMem found ..⟩
    · rw [if_neg (not_lt.mpr fits), if_neg (by simp [good])] at runs
      obtain ⟨ended, mem⟩ := ended_complete_hostMem ((findCmd_of_frame (sglWrite_frame (sglOf c.e sgl) 0 (transportKeyBytes s) s)
        (by decide) q).trans found) Status.ok 193
      exact ⟨_, runs, ended, _, length_transportKeyBytes s, mem⟩

end Sys2Proof.Machine
end

/-! The entries of the position scheduler (R149, R153, R210, R238, R276, R277, R287, R289): which one is delivered, and what each
kind of entry does. -/

section

namespace Sys2Proof.Machine

/-! ## Delivery (R276, R277) -/

theorem firesNow_spec {s : State} {i : Nat} {e : SchedEnt} (h : firesNow s i = some e) :
    s.srv.valid = true ∧ reached s e.pos e.dir = true ∧ AMap.get? s.srv.sched i = some e
      ∧ ∀ x ∈ s.srv.sched, dueEntry s x.2 = true → firesBefore s.srv.reverse x.2 e = false := by
  unfold firesNow at h
  split at h
  · cases h
  · next d stands =>
    split at h
    · next now =>
      cases h
      obtain ⟨due, first⟩ := now
      obtain ⟨valid, at_⟩ := Bool.and_eq_true_iff.mp due
      refine ⟨valid, at_, stands, fun x hx hd => ?_⟩
      rw [Bool.not_eq_true', List.any_eq_false] at first
      simpa [hd] using first x hx
    · cases h

/-- The state on which a delivered entry acts: the entry has left the table, and one that fired at once is counted. -/
def delivered (i : Nat) (c : AMap Nat) (s : State) : State :=
  { s with srv := { s.srv with sched := AMap.erase s.srv.sched i }, ctrs := c }

/-- A scheduler command runs the effect of its kind on the state that the entry's delivery leaves. -/
theorem runs_fire {c : Instr} {k i : Nat} {e : SchedEnt} {f : SchedEnt → State → State} {s : State} {P : State → Prop}
    (run : exec c s = go (fire k i f s)) (h : Fires s i k e)
    (act : ∀ cs, (∀ q, q ≠ 0x0C010C → AMap.getD cs q 0 = ctr s q) → P (f e (delivered i cs s))) : Runs c s P := by
  obtain ⟨cs, counts, fired⟩ := fire_of_fires h f
  exact ⟨_, run.trans (congrArg go fired), act cs counts⟩

/-- A scheduler command whose entry is not the next one of its kind changes nothing. -/
theorem runs_not_fired {c : Instr} {k i : Nat} {f : SchedEnt → State → State} {s : State}
    (run : exec c s = go (fire k i f s)) (h : ∀ e, ¬Fires s i k e) : Runs c s fun t => t = s :=
  ⟨_, run.trans (congrArg go (fire_of_not h f)), rfl⟩

theorem get?_erase_none {α : Type} {m : AMap α} {j : Nat} (h : AMap.get? m j = none) (i : Nat) :
    AMap.get? (AMap.erase m i) j = none := by
  by_cases e : i = j
  · subst e
    induction m with
    | nil => rfl
    | cons x m ih =>
      obtain ⟨k, v⟩ := x
      have ne : i ≠ k := fun c => by simp [AMap.get?, c] at h
      simp only [AMap.get?, AMap.erase, ne, if_false] at h ⊢
      exact ih h
  · exact (AMap.get?_erase_of_ne m e).trans h

theorem SchedRoom.delivered {n : Nat} {s : State} (h : SchedRoom n s) (i : Nat) (c : AMap Nat) : SchedRoom n (delivered i c s) :=
  ⟨fun j lo hi => get?_erase_none (h.free j lo hi) i⟩

theorem positionAt_delivered (i : Nat) (c : AMap Nat) (s : State) (p n : Nat) : positionAt (delivered i c s) p n = positionAt s p n :=
  positionAt_congr (s := s) (t := delivered i c s) rfl rfl rfl n

/-! ## DENSITY, TURNAROUND, REWRITE_AREA (R149, R210, R230, R235, R287) -/

/-- In the read channels the calibrated taps are loaded where the wrap or the class changes, and the timing's integral goes
where the wrap does. -/
theorem takeDensity_spec (cls w : Nat) (s : State) :
    takeDensity cls w s = updRch (fun r => { r with
      wrap := some w, cls := cls, delta := if s.rch.wrap = some w then r.delta else 0
      chans := if s.rch.wrap = some w ∧ s.rch.cls = cls then r.chans
        else r.chans.map fun (p, c) => (p, { c with taps := AMap.getD c.initial cls c.taps }) }) s := by
  unfold takeDensity
  by_cases hw : s.rch.wrap = some w
  · by_cases hc : s.rch.cls = cls
    · subst hc
      simp [hw, updRch]
    · simp [hw, hc, loadTaps, updRch]
  · simp [hw, loadTaps, updRch]

theorem turnaroundFires_spec (e : SchedEnt) {s : State} (h : s.brd.motion = .running) :
    (turnaroundFires e s).brd.motion = .turnaround ∧ (turnaroundFires e s).brd.phase = 0 ∧ (loopAt (turnaroundFires e s) 0).target = 0
      ∧ (turnaroundFires e s).brd.slew = Cfgw.turnSlew s ∧ ctr (turnaroundFires e s) 0x0D0088 = satAdd (ctr s 0x0D0088) 1 := by
  unfold turnaroundFires
  rw [if_neg (not_not.mpr h)]
  refine ⟨rfl, rfl, ?_, rfl, ?_⟩
  · rw [loopAt_rampStop, if_pos rfl]
    simp [speedUnits]
  · exact (ctr_inc ..).trans (if_pos rfl)

/-- The bits of a row that waits in a slot of the data set in progress are loaded when the slot begins. -/
theorem rewriteAreaFires_one {e : SchedEnt} {s : State} {x own : Placement} {k ds r n : Nat} (progress : inProgress s = some x)
    (waits : x.slots = [(k, (ds, r))]) (here : k % 396 = e.arg) (lies : ownPlace s x.img.part ds = some n)
    (held : s.wrv.placements[n]? = some own) :
    rewriteAreaFires e s = updWrv (fun w => { w with
      bits := AMap.set w.bits (k / 396) (slotStream s x e.arg (rowBits s own x r (if e.arg < x.carry then 2 else 1) (k / 396) e.arg)) }) s := by
  unfold rewriteAreaFires
  rw [progress]
  simp only [waits, here, each, beq_self_eq_true, List.filter_cons_of_pos, List.filter_nil, List.foldl_cons, List.foldl_nil, lies,
    Option.bind_some, held]

/-! ## READ_WINDOW and SETTLED (R238, R289) -/

/-- Two states agree in what the places of data sets on the tape ahead depend on. -/
structure SameTape (s t : State) : Prop where
  clock : t.srv.clock = s.srv.clock
  reverse : t.srv.reverse = s.srv.reverse
  wrap : t.srv.wrap = s.srv.wrap
  cart : t.cart = s.cart
  parts : t.parts = s.parts

theorem SameTape.schedule {s t : State} (h : SameTape s t) (k o p : Nat) (d : Bool) (a : Nat) : SameTape s (schedule k o p d a t) := by
  obtain ⟨v, c, posted, clock, wrap, reverse⟩ := schedule_only k o p d a t
  rw [posted]
  exact ⟨clock.trans h.clock, reverse.trans h.reverse, wrap.trans h.wrap, h.cart, h.parts⟩

theorem SameTape.wrapClass {s t : State} (h : SameTape s t) (w : Nat) : wrapClass t w = wrapClass s w := by
  unfold Machine.wrapClass
  rw [zoneOf_congr (congrArg Cart.zone h.cart)]

theorem SameTape.nextStart {s t : State} (h : SameTape s t) : nextStart t = nextStart s := by
  unfold Machine.nextStart startsOf ahead wrapPositions wrapExcluded Machine.wrapClass partAt
  rw [h.clock, h.reverse, h.wrap, h.parts, zoneOf_congr (congrArg Cart.zone h.cart), spansOf_congr (congrArg Cart.spans h.cart)]

/-- A window's opening stands in the table with the density that takes over there, for the sequencer and the read channels. -/
theorem scheduleOpen_scheduled {s : State} {p w a len : Nat} (place : positionAt s p (partAt s p).nextPos = some (w, a, len))
    (share : ownedBy s 0 < 1534) (room : SchedRoom 3 s) :
    Scheduled (scheduleOpen p s) Kind.windowOpen 0 (clockOf w a) p
      ∧ Scheduled (scheduleOpen p s) Kind.density 0 (clockOf w a) (densityArg (wrapClass s w) w)
      ∧ (ownedBy s 2 < 1024 → Scheduled (scheduleOpen p s) Kind.density 2 (clockOf w a) (densityArg (wrapClass s w) w)) := by
  unfold scheduleOpen scheduleDensity
  rw [place]
  dsimp only
  generalize hu : schedule Kind.density 2 (clockOf w a) (reverseWrap w) (densityArg (wrapClass s w) w) s = u
  have room1 : SchedRoom 2 u := hu ▸ room.schedule (by decide) ..
  have own1 : ownedBy u 0 ≤ ownedBy s 0 + 1 := hu ▸ ownedBy_schedule_le ..
  generalize hv : schedule Kind.density 0 (clockOf w a) (reverseWrap w) (densityArg (wrapClass s w) w) u = v
  have room2 : SchedRoom 1 v := hv ▸ room1.schedule (by decide) ..
  have own2 : ownedBy v 0 ≤ ownedBy u 0 + 1 := hv ▸ ownedBy_schedule_le ..
  have share0 : schedShare 0 = 1536 := rfl
  have seq : Scheduled v Kind.density 0 (clockOf w a) (densityArg (wrapClass s w) w) := hv ▸ schedule_stands (by omega)
  refine ⟨schedule_stands (by omega), seq.schedule room2 .., fun free => ?_⟩
  have chans : Scheduled u Kind.density 2 (clockOf w a) (densityArg (wrapClass s w) w) := hu ▸ schedule_stands free
  exact (hv ▸ chans.schedule room1 .. : Scheduled v ..).schedule room2 ..

/-- Where the next data set start lies ahead on this wrap, it is watched for. -/
theorem watchNext_scheduled {s : State} {c : Nat} (start : nextStart s = some c) (share : ownedBy s 2 < 1024) :
    Scheduled (watchNext s) Kind.readWindow 2 c 1 := by
  unfold watchNext
  rw [start]
  exact schedule_stands share

theorem watchNext_keeps {s : State} {c k o p a : Nat} (start : nextStart s = some c) (room : SchedRoom 1 s) (h : Scheduled s k o p a) :
    Scheduled (watchNext s) k o p a := by
  unfold watchNext
  rw [start]
  exact h.schedule room ..

/-- Reading begins: the next start is watched for, and outside a LOAD the wrap's class takes over where the tape stands. -/
theorem watchFrom_scheduled {s : State} {c : Nat} (start : nextStart s = some c) (share : ownedBy s 2 < 1020) (room : SchedRoom 3 s) :
    Scheduled (watchFrom s) Kind.readWindow 2 c 1
      ∧ ((s.hq.cmds.any fun c => c.st == .running && c.e.opcode == 0x07) = false →
          Scheduled (watchFrom s) Kind.density 2 s.srv.clock (densityArg (wrapClass s s.srv.wrap) s.srv.wrap)) := by
  have same : SameTape s s := ⟨rfl, rfl, rfl, rfl, rfl⟩
  have posted : ∀ p d a (u : State), ownedBy (schedule Kind.density 2 p d a u) 2 ≤ ownedBy u 2 + 1 := fun p d a u => ownedBy_schedule_le ..
  unfold watchFrom
  dsimp only
  split
  · next load =>
    refine ⟨?_, fun no => absurd load (by rw [no]; decide)⟩
    rw [start]
    refine watchNext_scheduled (((same.schedule ..).schedule ..).nextStart.trans start) ?_
    have := posted s.srv.clock s.srv.reverse (densityArg 3 s.srv.wrap) s
    exact lt_of_le_of_lt (posted ..) (by omega)
  · have start1 := (same.schedule Kind.density 2 s.srv.clock s.srv.reverse (densityArg (wrapClass s s.srv.wrap) s.srv.wrap)).nextStart.trans start
    refine ⟨watchNext_scheduled start1 (lt_of_le_of_lt (posted ..) (by omega)), fun _ => ?_⟩
    refine watchNext_keeps start1 ⟨fun j lo hi => (room.schedule (n := 2) (by decide) ..).free j (by omega) hi⟩ (schedule_stands ?_)
    exact lt_trans share (by decide)

theorem readWindowFires_idle {e : SchedEnt} {s : State} {d : Nat} (start : bit e.arg 0 = true)
    (free : ((List.range 4).find? fun d => !mem? s.rch.busy d) = some d) (idle : readingTape s = false) :
    readWindowFires e s = updRch (fun r => { r with busy := AMap.set r.busy d () }) s := by
  unfold readWindowFires
  rw [if_pos start]
  simp only [free]
  rw [if_neg]
  exact ne_true_of_eq_false idle

/-- Settles O38: a command of the scheduler runs its kind's effect on the state that the delivery leaves (`runs_fire`). -/
theorem schedulerEntriesFire : Obligations.SchedulerEntriesFire := by
  unfold Obligations.SchedulerEntriesFire
  intro s i e
  refine ⟨firesNow_spec, ?others, fun h => runs_fire rfl h ?density, fun h running => runs_fire rfl h ?turnaround,
    fun h own => runs_fire rfl h ?split, fun x own k r h progress waits here lies held => runs_fire rfl h ?rewrite,
    fun d h start free idle => runs_fire rfl h ?window, fun w a len h fmt clean place share room => runs_fire rfl h ?opening,
    fun c h read start share room => runs_fire rfl h ?watch⟩
  case others =>
    simp only [List.forall_mem_cons, List.not_mem_nil, false_imp_iff, implies_true, and_true]
    exact ⟨runs_not_fired rfl, runs_not_fired rfl, runs_not_fired rfl, runs_not_fired rfl, runs_not_fired rfl, runs_not_fired rfl,
      runs_not_fired rfl, runs_not_fired rfl⟩
  case density =>
    intro cs _
    unfold densityFires
    refine ⟨?_, fun own => ?_, fun own => ?_⟩
    · split
      · rfl
      · rw [takeDensity_spec]; rfl
    · rw [if_pos own]
      exact ⟨rfl, rfl⟩
    · rw [if_neg own, takeDensity_spec]
      exact ⟨rfl, rfl, rfl, fun same => if_pos same, fun new => if_neg new, rfl⟩
  case turnaround =>
    intro cs counts
    have := turnaroundFires_spec e (s := delivered i cs s) running
    rwa [show ctr (delivered i cs s) 0x0D0088 = ctr s 0x0D0088 from counts _ (by decide)] at this
  case split =>
    intro cs _
    unfold splitFires
    rw [if_neg (not_not.mpr own)]
    rfl
  case rewrite =>
    intro cs _
    rw [rewriteAreaFires_one (s := delivered i cs s) progress waits here lies held]
    rfl
  case window =>
    intro cs _
    rw [readWindowFires_idle (s := delivered i cs s) start free idle]
    exact ⟨rfl, rfl⟩
  case opening =>
    intro cs _
    have room3 : SchedRoom 3 s := ⟨fun j lo _ => room j (by omega)⟩
    obtain ⟨opens, seq, chans⟩ := scheduleOpen_scheduled (s := delivered i cs s) (p := s.wrv.windowPart)
      ((positionAt_delivered ..).trans place) (lt_of_le_of_lt (ownedBy_erase_le i s 0) share) (room3.delivered i cs)
    have settled : settledFires e (delivered i cs s) = scheduleOpen s.wrv.windowPart (delivered i cs s) := by
      unfold settledFires
      rw [if_neg fmt]
      simp only [delivered, clean]
    rw [settled]
    exact ⟨opens, seq, fun free => chans (lt_of_le_of_lt (ownedBy_erase_le i s 2) free)⟩
  case watch =>
    intro cs _
    have room3 : SchedRoom 3 s := ⟨fun j lo _ => room j (by omega)⟩
    have tape : SameTape s (cancelKind Kind.readWindow 2 (delivered i cs s)) := ⟨rfl, rfl, rfl, rfl, rfl⟩
    have own : ownedBy (cancelKind Kind.readWindow 2 (delivered i cs s)) 2 ≤ ownedBy s 2 :=
      (ownedBy_cancelKind_le ..).trans (ownedBy_erase_le i s 2)
    unfold settledFires
    rw [if_pos read]
    exact watchFrom_scheduled (tape.nextStart.trans start) (lt_of_le_of_lt own share) ((room3.delivered i cs).cancelKind ..)

end Sys2Proof.Machine
end

/-! Data sets are encoded and Lofts closed (R157, R174, R176 to R178, R197, R257, R318, R350, R358, R371): DATA_SET_ENCODED,
LOFT_EARLY_CLOSE and the events of MB_FMT. -/

section

namespace Sys2Proof.Machine

/-! ## Images and their Stalls (R83, R174) -/

theorem withStalls_granted {f : List Handle → State → State} {s v : State} {hs : List Handle}
    (h : acquire 0x0C 2 90 s = (some hs, v)) : withStalls f s = f hs v := by
  unfold withStalls
  rw [h]

theorem withStalls_refused {f : List Handle → State → State} {s v : State} (h : acquire 0x0C 2 90 s = (none, v)) :
    withStalls f s = v := by
  unfold withStalls
  rw [h]

/-- What a request for Stalls leaves of the partitions and the write lanes: all of it. -/
theorem acquire_keeps {r b n : Nat} {s v : State} {o : Option (List Handle)} (h : acquire r b n s = (o, v)) :
    v.parts = s.parts ∧ v.wrv = s.wrv :=
  have frame := acquire_frame_eq r b n s h
  ⟨frame.same .parts rfl, frame.same .wrv rfl⟩

theorem each_giveBack_frame (r : Nat) (hs : List Handle) (s : State) : Frame 0x24010 s (each (giveBack r) hs s) :=
  (Frame.refl _ s).each hs (giveBack_frame r)

/-- An image of a data set that no LOAD found complete is the last of those that wait. -/
theorem queueImage_fresh {img : Image} {s : State} (hs : List Handle) (fresh : AMap.get? (partAt s img.part).done img.ds = none) :
    (queueImage img hs s).wrv = { s.wrv with images := s.wrv.images ++ [{ img with stalls := hs }] } := by
  unfold queueImage
  rw [fresh, if_neg (by simp)]
  rfl

theorem partAt_queueImage (img : Image) (hs : List Handle) (s : State) (p : Nat) : partAt (queueImage img hs s) p = partAt s p :=
  partAt_of_parts ((queueImage_frame img hs s).same .parts rfl) p

/-- The beginning of a data set's assembly shows in nothing of the partition but its mark. -/
theorem partAt_beginDs (p : Nat) (s : State) : ∃ b, partAt (beginDs p s) p = { partAt s p with assembling := b } := by
  unfold beginDs
  dsimp only
  split
  · exact ⟨_, rfl⟩
  · refine ⟨true, ?_⟩
    split
    · exact (partAt_of_parts ((post_frame ..).same .parts rfl) p).trans (partAt_updPart_self ..)
    · exact partAt_updPart_self ..

theorem beginDs_wrv (p : Nat) (s : State) : (beginDs p s).wrv = s.wrv := (beginDs_frame p s).same .wrv rfl

/-! ## DATA_SET_ENCODED (R174, R176) -/

/-- A partition whose next data set has a position before the end of tape. -/
structure Placeable (p : Nat) (s : State) : Prop where
  loaded : loaded s = true
  wraps : (partAt s p).wraps ≠ 0
  going : (partAt s p).writeStopped = false
  room : (partAt s p).nextPos + imagesOf s p < (partAt s p).positions

theorem encodeNext_parity {p : Nat} {s : State} (h : Placeable p s) (opened : (partAt s p).loftOpen = true)
    (covered : 30 ≤ (partAt s p).nextDs % 32) : encodeNext p s = withStalls (encodeParity p) s := by
  unfold encodeNext
  dsimp only
  rw [if_neg (by simp [h.loaded, h.wraps, h.going, h.room]), if_pos ⟨opened, covered⟩]

/-- No packet joins a user area that is full. -/
theorem fillUser_full {p : Nat} {s : State} (full : userArea ≤ (partAt s p).user.length) (f : Nat) : fillUser p f s = (false, s) := by
  cases f with
  | zero => rfl
  | succ f =>
    unfold fillUser
    rw [if_pos full]

theorem encodeNext_user {p : Nat} {s : State} (h : Placeable p s) (index : (partAt s p).nextDs % 32 < 30)
    (full : userArea ≤ (partAt s p).user.length) : encodeNext p s = withStalls (encodeUser p false false) s := by
  unfold encodeNext
  dsimp only
  rw [if_neg (by simp [h.loaded, h.wraps, h.going, h.room]), if_neg (by omega), fillUser_full full]
  dsimp only
  rw [if_pos (.inl full), decide_eq_false (by omega)]

/-- The image of a parity data set: from the P accumulator at Loft index 30, from the Q accumulator at 31. -/
def parityImage (s : State) (p : Nat) : Image :=
  let x := partAt s p
  { part := p, ds := x.nextDs, kind := 2, loftIdx := x.nextDs % 32
    user := fit (if decide (x.nextDs % 32 = 31) then x.c3q else x.c3p) userArea
    used := userArea, padded := false, firstUnit := 0xFFFFFFFF, firstRec := 0, descCount := 0, descIdx := [], truncOffs := []
    loftCount := x.loftData, shortLoft := decide (x.loftData < 30), stripe := if x.yardMember then 0xFFFFFFFF else 0
    epoch := if x.yardMember then s.yrd.epoch else 0 }

theorem encodeParity_first {p : Nat} {s : State} (hs : List Handle) (first : (partAt s p).nextDs % 32 ≠ 31) :
    encodeParity p hs s = updPart p (fun x => { x with nextDs := x.nextDs + 1 }) (queueImage (parityImage s p) hs s) := by
  unfold encodeParity
  dsimp only
  rw [decide_eq_false first]
  simp only [Bool.false_eq_true, if_false, parityImage, decide_eq_false first]

/-- The second parity data set closes the Loft for the formatter; with no bytes in progress none opens. -/
theorem encodeParity_second {p : Nat} {s : State} (hs : List Handle) (second : (partAt s p).nextDs % 32 = 31)
    (empty : (partAt s p).user = []) :
    (encodeParity p hs s).wrv = (queueImage (parityImage s p) hs s).wrv
      ∧ (partAt (encodeParity p hs s) p).nextDs = (partAt s p).nextDs + 1 ∧ (partAt (encodeParity p hs s) p).loftOpen = false := by
  unfold encodeParity
  dsimp only
  rw [decide_eq_true second]
  simp only [if_true]
  rw [show queueImage _ hs s = queueImage (parityImage s p) hs s by simp only [parityImage, decide_eq_true second, if_true]]
  generalize hu : updPart p (fun x => { x with nextDs := x.nextDs + 1 }) (queueImage (parityImage s p) hs s) = u
  have part : partAt u p = { partAt s p with nextDs := (partAt s p).nextDs + 1 } := by
    rw [← hu, partAt_updPart_self, partAt_queueImage]
  have lanes : u.wrv = (queueImage (parityImage s p) hs s).wrv := by rw [← hu, updPart_wrv]
  have frame := each_giveBack_frame 0x10 (partAt s p).c3Stalls u
  generalize each (giveBack 0x10) (partAt s p).c3Stalls u = v at frame ⊢
  have freed : partAt v p = partAt u p := partAt_of_parts (frame.same .parts rfl) p
  rw [if_pos (by rw [partAt_updPart_self, freed, part]; exact empty), updPart_wrv, partAt_updPart_self, freed, part]
  exact ⟨(frame.same .wrv rfl).trans lanes, rfl, rfl⟩

/-- A full user data set is the last image that waits; its bytes leave the user area. -/
theorem encodeUser_spec {p : Nat} {s : State} (hs : List Handle) (fresh : AMap.get? (partAt s p).done (partAt s p).nextDs = none) :
    (encodeUser p false false hs s).wrv
        = { s.wrv with images := s.wrv.images ++ [{ userImage s p false false with stalls := hs }] }
      ∧ (partAt (encodeUser p false false hs s) p).nextDs = (partAt s p).nextDs + 1
      ∧ (partAt (encodeUser p false false hs s) p).user = (partAt s p).user.drop userArea := by
  unfold encodeUser
  dsimp only
  simp only [Bool.false_eq_true, if_false]
  have fresh1 : AMap.get? (partAt (joinLoft p (userImage s p false false) s) (userImage s p false false).part).done
      (userImage s p false false).ds = none := by
    show AMap.get? (partAt (updPart p _ s) p).done _ = none
    rw [partAt_updPart_self]
    exact fresh
  have queued := queueImage_fresh hs fresh1
  have joined := partAt_queueImage (userImage s p false false) hs (joinLoft p (userImage s p false false) s) p
  generalize queueImage _ hs _ = u at queued joined ⊢
  rw [show partAt (joinLoft p (userImage s p false false) s) p = _ from partAt_updPart_self ..] at joined
  generalize hv : updPart p _ u = v
  have part : (partAt v p).nextDs = (partAt s p).nextDs + 1 ∧ (partAt v p).user = (partAt s p).user.drop userArea := by
    rw [← hv, partAt_updPart_self, joined]
    exact ⟨rfl, rfl⟩
  have lanes : v.wrv = u.wrv := by rw [← hv, updPart_wrv]
  generalize hw : (if (partAt s p).yardMember then _ else v) = w
  have told : w.wrv = v.wrv ∧ partAt w p = partAt v p := by
    rw [← hw]
    split
    · exact ⟨(post_frame ..).same .wrv rfl, partAt_of_parts ((post_frame ..).same .parts rfl) p⟩
    · exact ⟨rfl, rfl⟩
  obtain ⟨b, begun⟩ := partAt_beginDs p w
  rw [begun, beginDs_wrv, told.1, told.2]
  exact ⟨lanes.trans queued, part⟩

/-! ## LOFT_EARLY_CLOSE (R178) -/

/-- The parity data sets of the Loft come next; beside the partition, shutting it may change a counter. -/
theorem shutLoft_spec (p : Nat) (s : State) :
    partAt (shutLoft p s) p = { partAt s p with nextDs := 32 * ((partAt s p).nextDs / 32) + 30 } ∧ (shutLoft p s).wrv = s.wrv := by
  unfold shutLoft
  dsimp only
  refine ⟨?_, ?_⟩
  · rw [partAt_of_parts (t := ite ..) (s := setPart p { partAt s p with nextDs := 32 * ((partAt s p).nextDs / 32) + 30 } s)]
    · exact AMap.getD_set_self ..
    · split <;> rfl
  · split <;> rfl

/-! ## Packets returned from the Shed (R318) -/

/-- Making a Loft ready leaves the bytes in progress as they are. -/
theorem loftReady_user (p : Nat) (s : State) : (partAt (loftReady p s).2 p).user = (partAt s p).user := by
  unfold loftReady
  dsimp only
  split
  · rfl
  split
  · rfl
  unfold openLoft
  split
  · rfl
  split
  · next v h => exact congrArg Part.user (partAt_of_parts ((acquireFrom_frame_eq _ _ _ _ _ _ h).same .parts rfl) p)
  · next hs v h =>
    have kept := partAt_of_parts ((acquireFrom_frame_eq _ _ _ _ _ _ h).same .parts rfl) p
    rw [partAt_updPart_self, kept]

/-- A packet that joins the user area: its bytes stand behind those there. -/
theorem user_taken (p : Nat) (w : Write) (i : Nat) (k : Pkt) (s : State) :
    (partAt (beginDs p (freeReturned (appendPacket p w i k s))) p).user = (partAt s p).user ++ k.stored := by
  obtain ⟨b, begun⟩ := partAt_beginDs p (freeReturned (appendPacket p w i k s))
  rw [begun, partAt_of_parts ((freeReturned_frame _).same .parts rfl)]
  unfold appendPacket
  dsimp only
  rw [partAt_of_parts ((updWrite_frame ..).same .parts rfl)]
  exact congrArg Part.user (AMap.getD_set_self ..)

/-- Filling the user area only appends to it. -/
theorem fillUser_appends (p f : Nat) (s : State) : ∃ more, (partAt (fillUser p f s).2 p).user = (partAt s p).user ++ more := by
  induction f generalizing s with
  | zero => exact ⟨[], (List.append_nil _).symm⟩
  | succ f ih =>
    have stays : ∃ more, (partAt s p).user = (partAt s p).user ++ more := ⟨[], (List.append_nil _).symm⟩
    have ready := loftReady_user p s
    unfold fillUser
    split
    · exact stays
    split
    · exact stays
    split
    · exact stays
    split
    · exact stays
    split
    · next w i _ _ _ _ _ k v _ h =>
      rw [h] at ready
      obtain ⟨more, appended⟩ := ih (beginDs p (freeReturned (appendPacket p w i k v)))
      exact ⟨k.stored ++ more, by rw [appended, user_taken, ready, List.append_assoc]⟩
    · next v h _ =>
      rw [h] at ready
      exact ⟨[], ready.trans (List.append_nil _).symm⟩

/-- The next packet in formatter order, when it is at hand and a Loft is open, joins the user area. -/
theorem fillUser_next {p f : Nat} {s : State} {w : Write} {i : Nat} {k : Pkt} (index : (partAt s p).nextDs % 32 < 30)
    (opened : (partAt s p).loftOpen = true) (space : (partAt s p).user.length < userArea) (next : fmtNext s p = some (w, i))
    (here : atHand s w i = true) (plain : w.truncating = false) (packet : w.pkts[i]? = some k) :
    ∃ more, (partAt (fillUser p (f + 1) s).2 p).user = (partAt s p).user ++ k.stored ++ more := by
  have ready : loftReady p s = (true, s) := by
    unfold loftReady
    dsimp only
    rw [if_neg (by omega), if_pos opened]
  have taken : fillUser p (f + 1) s = fillUser p f (beginDs p (freeReturned (appendPacket p w i k s))) := by
    conv_lhs => unfold fillUser
    rw [if_neg (by omega), next]
    dsimp only
    rw [if_neg (by simp [here]), if_neg (by simp [plain]), packet, ready]
  obtain ⟨more, appended⟩ := fillUser_appends p f (beginDs p (freeReturned (appendPacket p w i k s)))
  exact ⟨more, by rw [taken, appended, user_taken]⟩

/-! ## The events of MB_FMT (R197) -/

/-- A command of MB_FMT acts on the state without the event that it takes, which is the state but for the mailboxes. -/
theorem runs_taken {c : Instr} {b : Box} {src code arg : Nat} {act : State → State} {s u : State} {P : State → Prop}
    (run : exec c s = go (boxTake b src code arg act s)) (h : Takes b src code arg s u)
    (acts : ∀ bx, u = { s with boxes := bx } → P (act { s with boxes := bx })) : Runs c s P := by
  obtain ⟨bx, rfl⟩ := h.only_boxes
  exact ⟨_, run.trans (congrArg go (h.act act)), acts bx rfl⟩

/-- A data set from elsewhere waits behind those of its partition that wait. -/
theorem extra_appended {p : Nat} {img : Image} {s t : State}
    (h : t.parts = (updPart p (fun x => { x with extra := x.extra ++ [img] }) s).parts) :
    (partAt t p).extra = (partAt s p).extra ++ [img] := by
  rw [partAt_of_parts h, partAt_updPart_self]

/-- Settles O35: an encoding queues the image that its place in the Loft calls for, an early close is `shutLoft`, and each event of
MB_FMT acts on the state without it (`runs_taken`). -/
theorem dataSetsAreEncodedAndLoftsClosed : Obligations.DataSetsAreEncodedAndLoftsClosed := by
  unfold Obligations.DataSetsAreEncodedAndLoftsClosed
  intro s
  refine ⟨?encode, ?refused, ?early, ?ask, ?returned, ?weak, ?unstriped, ?rebuilt, ?parity, ?unknown⟩
  case encode =>
    intro p hs v lt load wraps going granted room opened fresh
    have place : Placeable p s := ⟨load, wraps, going, room⟩
    have run : exec (.dataSetEncoded p) s = go (encodeNext p s) := if_pos lt
    obtain ⟨parts, lanes⟩ := acquire_keeps granted
    have part : partAt v p = partAt s p := partAt_of_parts parts p
    have queued : (queueImage (parityImage v p) hs v).wrv.images = s.wrv.images ++ [{ parityImage v p with stalls := hs }] := by
      rw [queueImage_fresh hs (by show AMap.get? (partAt v p).done (partAt v p).nextDs = none; rw [part]; exact fresh), lanes]
    refine ⟨fun first => ⟨_, run, ?_⟩, fun second empty => ⟨_, run, ?_⟩, fun user full alone => ⟨_, run, ?_⟩⟩
    · rw [encodeNext_parity place opened (by omega), withStalls_granted granted, encodeParity_first hs (by rw [part]; omega)]
      dsimp only
      rw [updPart_wrv, partAt_updPart_self, partAt_queueImage, queued, part]
      refine ⟨⟨_, rfl, rfl, ?_⟩, rfl, opened⟩
      simp [parityImage, part, first]
    · rw [encodeNext_parity place opened (by omega), withStalls_granted granted]
      obtain ⟨images, next, closed⟩ := encodeParity_second hs (by rw [part]; exact second) (by rw [part]; exact empty)
      rw [images, next, queued, part]
      refine ⟨⟨_, rfl, rfl, ?_⟩, rfl, closed⟩
      simp [parityImage, part, second]
    · rw [encodeNext_user place user full, withStalls_granted granted]
      obtain ⟨images, next, rest⟩ := encodeUser_spec hs (by rw [part]; exact fresh)
      rw [images, next, rest, lanes, part]
      refine ⟨⟨_, rfl, rfl, ?_⟩, rfl, rfl⟩
      simp [userImage, part, full]
  case refused =>
    intro p v lt load wraps opened covered refused
    refine ⟨_, if_pos lt, ?_⟩
    unfold encodeNext
    dsimp only
    split
    · exact ⟨rfl, rfl⟩
    · rw [if_pos ⟨opened, covered⟩, withStalls_refused refused]
      exact (acquire_keeps refused).symm
  case early =>
    intro p lt early empty
    have run : exec (.loftEarlyClose p) s = go (shutLoft p s) := by
      show execLoftEarlyClose p s = _
      unfold execLoftEarlyClose
      dsimp only
      rw [if_neg (by simp [early]; omega), if_pos empty]
    exact ⟨_, run, shutLoft_spec p s⟩
  case ask =>
    intro src arg u taken
    refine runs_taken rfl taken ?_
    rintro bx rfl
    exact ⟨partAt_updPart_self .., rfl⟩
  case returned =>
    intro src arg u w i k taken load going index opened space next here plain packet
    refine runs_taken rfl taken fun bx _ => ?_
    dsimp only
    rw [if_neg (by simp only [not_or]; exact ⟨ne_false_of_eq_true load, ne_true_of_eq_false going, not_le.mpr index⟩)]
    exact fillUser_next (s := { s with boxes := bx }) index opened space next here plain packet
  case weak =>
    intro src arg u w taken listed new
    refine runs_taken rfl taken fun bx _ => ?_
    dsimp only [weakHere] at listed ⊢
    rw [listed]
    dsimp only
    rw [if_neg (by exact ne_true_of_eq_false new)]
    exact extra_appended rfl
  case unstriped =>
    intro src arg u r taken found
    refine runs_taken rfl taken fun bx _ => ?_
    simp only [found, and_true]
    exact extra_appended rfl
  case rebuilt =>
    intro src arg u k user taken empty found
    refine runs_taken rfl taken fun bx _ => ?_
    simp only [empty, found, and_true]
    exact extra_appended rfl
  case parity =>
    intro src arg u a taken found
    refine runs_taken rfl taken fun bx _ => ?_
    simp only [found]
    exact ⟨_, extra_appended rfl, rfl, rfl, rfl, rfl⟩
  case unknown =>
    intro src code arg u unknown taken
    refine runs_taken (if_neg (ne_true_of_eq_false unknown)) taken ?_
    rintro bx rfl
    exact ⟨(ctr_inc ..).trans (if_pos rfl), rfl⟩

end Sys2Proof.Machine
end

/-! Write windows, data set boundaries and verify verdicts (R148, R157, R166, R209 to R222). -/

section

namespace Sys2Proof.Machine

/-! ## What the beginning of the next data set depends on (R157) -/

/-- Two states agree in the partitions, the images that wait, and what gives a data set its place. -/
structure SameWaiting (s t : State) : Prop where
  parts : t.parts = s.parts
  images : t.wrv.images = s.wrv.images
  cfg : t.cfg = s.cfg
  zone : t.cart.zone = s.cart.zone
  spans : t.cart.spans = s.cart.spans

theorem SameWaiting.nextImage {s t : State} (h : SameWaiting s t) (p : Nat) : nextImage t p = nextImage s p := by
  unfold Machine.nextImage
  rw [h.images]

theorem SameWaiting.placeable {s t : State} (h : SameWaiting s t) (i : Image) : placeable t i = placeable s i := by
  unfold Machine.placeable Cfgw.dsCopyLimit Cfgw.wrvWord recWord
  rw [h.cfg]

theorem SameWaiting.partAt {s t : State} (h : SameWaiting s t) (p : Nat) : partAt t p = partAt s p := partAt_of_parts h.parts p

theorem SameWaiting.positionAt {s t : State} (h : SameWaiting s t) (p i : Nat) : positionAt t p i = positionAt s p i :=
  positionAt_congr (h.partAt p) h.zone h.spans i

theorem SameWaiting.of_frame {m : Nat} {s t u : State} (h : SameWaiting s t) (k : Frame m t u) (images : u.wrv.images = t.wrv.images)
    (out : m &&& 0x1000C = 0) : SameWaiting s u := by
  have clear : ∀ i, Nat.testBit 0x1000C i = true → m.testBit i = false := fun i hi => by
    have := congrArg (fun n => n.testBit i) out
    simpa [Nat.testBit_and, hi] using this
  have cart : u.cart = t.cart := k.same .cart (clear 3 (by decide))
  exact ⟨(k.same .parts (clear 2 (by decide))).trans h.parts, images.trans h.images, (k.same .cfg (clear 16 (by decide))).trans h.cfg,
    by rw [cart, h.zone], by rw [cart, h.spans]⟩

theorem SameWaiting.setWrv {s t : State} (h : SameWaiting s t) (f : Wrv → Wrv) (images : (f t.wrv).images = t.wrv.images) :
    SameWaiting s (updWrv f t) := ⟨h.parts, images.trans h.images, h.cfg, h.zone, h.spans⟩

/-- An image of a partition that can begin: it is the partition's next one, and the next position takes it. -/
structure Begins (p : Nat) (img : Image) (w a len : Nat) (s : State) : Prop where
  next : nextImage s p = some img
  going : (partAt s p).writeStopped = false
  fits : placeable s img = true
  place : positionAt s p (partAt s p).nextPos = some (w, a, len)

/-- While the window of the partition is open, the image begins at its position. -/
theorem Begins.placeNext {p w a len : Nat} {img : Image} {s u : State} (b : Begins p img w a len s) (h : SameWaiting s u)
    (opened : u.wrv.windowOpen = true) (part : u.wrv.windowPart = p) :
    ∃ t, placeNext p u = some t ∧ Begun p img w a s t ∧ t.wrv.parked = u.wrv.parked ∧ t.wrv.setPoint = u.wrv.setPoint := by
  obtain ⟨t, placed, window, at_, parked, point, slot, images, next, x, last, image, wrap, start, cls, live⟩ :=
    placeNext_spec (s := u) (p := p) ((h.nextImage p).trans b.next) (by rw [h.partAt]; exact b.going) ((h.placeable img).trans b.fits)
      (by rw [h.positionAt, h.partAt]; exact b.place)
  have cls1 : wrapClass u w = wrapClass s w := by
    unfold wrapClass
    rw [zoneOf_congr h.zone]
  exact ⟨t, placed, ⟨window.trans opened, at_.trans part, slot, images.trans (by rw [h.images]), next.trans (by rw [h.partAt]),
    x, last, image, wrap, start, cls.trans cls1, live⟩, parked, point⟩

theorem placeNext_none {p : Nat} {s : State} (h : nextImage s p = none) : placeNext p s = none := by
  unfold placeNext
  rw [h]

/-! ## WINDOW_OPEN and WINDOW_CLOSE (R148, R166, R221) -/

/-- No window is open, a cartridge is loaded, and neither read recovery nor a stop has the tape. -/
structure MayOpen (s : State) : Prop where
  closed : s.wrv.windowOpen = false
  loaded : loaded s = true
  reading : s.rch.ladder = none
  moving : s.brd.stop = none

theorem MayOpen.opens {s : State} (h : MayOpen s) :
    ¬(s.wrv.windowOpen ∨ Machine.loaded s = false ∨ s.rch.ladder.isSome ∨ s.brd.stop.isSome) := by
  simp [h.closed, h.loaded, h.reading, h.moving]

/-- The clean flag that goes with the first window shows in no place of a data set. -/
theorem SameWaiting.unclean {s t : State} (h : SameWaiting s t) : SameWaiting s (if t.cart.clean then writeControl false t else t) := by
  split
  · have frame := writeControl_frame false t
    have cart := writeControl_cart false t
    exact ⟨(frame.same .parts rfl).trans h.parts, (congrArg Wrv.images (frame.same .wrv rfl)).trans h.images,
      (frame.same .cfg rfl).trans h.cfg, (congrArg Cart.zone cart).trans h.zone, (congrArg Cart.spans cart).trans h.spans⟩
  · exact h

/-- A window opens and the partition's next image begins. -/
theorem windowOpenFires_begins {e : SchedEnt} {s u : State} {img : Image} {w a len : Nat} (free : MayOpen u)
    (data : bit e.arg 8 = false) (b : Begins (bits e.arg 1 0) img w a len s) (h : SameWaiting s u) :
    Begun (bits e.arg 1 0) img w a s (windowOpenFires e u) ∧ (windowOpenFires e u).wrv.parked = false := by
  unfold windowOpenFires
  dsimp only
  rw [if_neg free.opens, if_neg (ne_true_of_eq_false data)]
  have marked := (h.of_frame (u := updRch (fun r => { r with readAhead := false }) u) (updRch_frame ..) rfl rfl).unclean
  generalize updRch (fun r => { r with readAhead := false }) u = q at marked ⊢
  generalize (if q.cart.clean = true then writeControl false q else q) = v at marked ⊢
  have posted := postWeak_frame (bits e.arg 1 0) (reallocWindow v) v
  have waiting := (marked.of_frame posted (congrArg Wrv.images (posted.same .wrv rfl)) rfl).setWrv
    (f := fun y => { y with
      windowOpen := true, windowPart := bits e.arg 1 0, parked := false, slot := 396, begun := y.begun || !bit e.arg 8
      pitches := if u.wrv.windowPart == bits e.arg 1 0 then y.pitches else []
      takenAt := if u.wrv.windowPart == bits e.arg 1 0 then y.takenAt else (partAt u (bits e.arg 1 0)).takenBytes }) rfl
  obtain ⟨t, placed, begun, parked, -⟩ := b.placeNext waiting rfl rfl
  rw [placed]
  exact ⟨begun, parked⟩

/-- A window opens for a directory copy, which begins in its slot at class D. -/
theorem windowOpenFires_directory {e : SchedEnt} {s : State} {a len : Nat} (free : MayOpen s) (directory : bit e.arg 8 = true)
    (place : nthPos 3 (spansOf s (partAt s (bits e.arg 1 0)).firstWrap) (b2n (bit e.arg 9)) 0 = some (a, len)) :
    (windowOpenFires e s).wrv.windowOpen = true
      ∧ (partAt (windowOpenFires e s) (bits e.arg 1 0)).dir.seq = (partAt s (bits e.arg 1 0)).dir.seq + 1
      ∧ ∃ x, (windowOpenFires e s).wrv.placements.getLast? = some x ∧ x.img.kind = 3
        ∧ x.img.ds = (if bit e.arg 9 then 0xFFFFFFFF else 0xFFFFFFFE) ∧ x.wrap = (partAt s (bits e.arg 1 0)).firstWrap
        ∧ x.start = a ∧ x.cls = 3 := by
  unfold windowOpenFires
  dsimp only
  rw [if_neg free.opens, if_pos directory]
  exact placeDirectory_spec (s := updWrv _ (updRch _ s)) place

/-! ## DATA_SET_BOUNDARY (R219, R221) -/

/-- The state at a boundary when the pitch is noted and the set-point posted. -/
def paced (dur : Nat) (s : State) : State :=
  updWrv (fun w => { w with failDs := w.failDs + 1 }) (postSpeed (speedPoint (notePitch dur s)) (notePitch dur s))

theorem paced_frame (dur : Nat) (s : State) : Frame 0x2c080 s (paced dur s) := (boundarySpeed_spec _ dur s).1

/-- The set-point is held where it is posted, and the window and what it writes are as they were. -/
theorem paced_wrv (dur : Nat) (s : State) :
    (paced dur s).wrv.setPoint
        = (let v := speedPoint (notePitch dur s)
           if 4 ≤ clockDist v s.wrv.setPoint ∨ v = Cfgw.vMin s ∨ v = readSpeed s then v else s.wrv.setPoint)
      ∧ (paced dur s).wrv.windowOpen = s.wrv.windowOpen ∧ (paced dur s).wrv.windowPart = s.wrv.windowPart
      ∧ (paced dur s).wrv.images = s.wrv.images ∧ (paced dur s).wrv.placements = s.wrv.placements :=
  (boundarySpeed_spec _ dur s).2

theorem SameWaiting.paced (dur : Nat) (s : State) : SameWaiting s (paced dur s) := by
  have frame := paced_frame dur s
  obtain ⟨-, -, -, images, -⟩ := paced_wrv dur s
  have cart : (Machine.paced dur s).cart = s.cart := frame.same .cart rfl
  exact ⟨frame.same .parts rfl, images, frame.same .cfg rfl, by rw [cart], by rw [cart]⟩

/-- The window stands at a boundary at which the speed matcher can compute. -/
structure Bounds (dur : Nat) (s : State) : Prop where
  due : atBoundary s = true
  took : dur ≠ 0
  fill : Cfgw.tFill s ≠ 0

theorem Bounds.opened {dur : Nat} {s : State} (h : Bounds dur s) : s.wrv.windowOpen = true := by
  have := h.due
  unfold atBoundary inProgress at this
  by_contra closed
  simp [closed] at this

theorem closesHere_paced (dur : Nat) (s : State) : closesHere (paced dur s) = closesHere s := by
  unfold closesHere dueEntry reached
  rw [(paced_frame dur s).same .srv rfl]

/-- At a boundary the window closes where a close is due; else the next data set begins, or the window ends for want of data. -/
theorem Bounds.boundary {dur : Nat} {s : State} (h : Bounds dur s) : boundary dur s = if closesHere s then paced dur s
    else (placeNext s.wrv.windowPart (paced dur s)).getD (endWindow 1 (paced dur s)) := by
  have closes := closesHere_paced dur s
  obtain ⟨-, -, part, -⟩ := paced_wrv dur s
  unfold paced at closes part ⊢
  unfold Machine.boundary
  dsimp only
  rw [if_neg (by simp [h.due, h.took, h.fill]), part, closes]
  generalize updWrv _ (postSpeed _ _) = v
  split
  · rfl
  · split
    · next placed => rw [placed, Option.getD_some]
    · next unplaced => rw [unplaced, Option.getD_none]

/-- The order that posts of one cycle take in a mailbox touches nothing else. -/
theorem sameCycle_eq (b : Box) (act : State → State) (s : State) : ∃ ms, sameCycle b act s = setBox b ms (act s) := ⟨_, rfl⟩

/-- DATA_SET_BOUNDARY is the boundary's effect, but for the order of the posts to the Bridle. -/
theorem Bounds.runs {dur : Nat} {s : State} (h : Bounds dur s) :
    ∃ ms, exec (.dataSetBoundary dur) s = go (setBox .bridle ms (if closesHere s then paced dur s
      else (placeNext s.wrv.windowPart (paced dur s)).getD (endWindow 1 (paced dur s)))) := by
  obtain ⟨ms, ordered⟩ := sameCycle_eq .bridle (Machine.boundary dur) s
  rw [h.boundary] at ordered
  exact ⟨ms, congrArg go ordered⟩

theorem Begun.setBox {p w a : Nat} {img : Image} {s t : State} (h : Begun p img w a s t) (b : Box) (ms : List Mail) :
    Begun p img w a s (setBox b ms t) := ⟨h.window, h.part, h.slot, h.images, h.next, h.place⟩

/-! ## Verdicts (R209 to R213) -/

/-- A verdict on a copy that is judged for the first time: the placement of its data set, and that in which the copy lies. -/
structure Judges (o : VerdictObs) (own phys : Nat) (x y : Placement) (s : State) : Prop where
  belongs : ownPlace s o.part o.ds = some own
  written : physPlace s own o = some phys
  set : s.wrv.placements[own]? = some x
  lies : s.wrv.placements[phys]? = some y
  sds : o.sds < 256
  row : o.row < 192
  chan : o.chan < 132
  slot : o.slot < 396
  first : mem? y.judged (copyKey o.chan o.slot) = false
  live : x.abandoned = false

/-- The copy is judged. -/
def noteJudged (phys : Nat) (o : VerdictObs) (s : State) : State :=
  updPlace phys (fun y => { y with judged := AMap.set y.judged (copyKey o.chan o.slot) () }) s

/-- The copy is judged, and its failure counted for its channel. -/
def noteFailed (phys : Nat) (o : VerdictObs) (s : State) : State :=
  inc (0x061400 + 4 * o.chan) (updWrv (fun w => { w with fails := modAt w.fails o.chan 0 (· + 1) }) (noteJudged phys o s))

theorem execVerifyVerdict_judges {o : VerdictObs} {own phys : Nat} {x y : Placement} {s : State} (h : Judges o own phys x y s) :
    execVerifyVerdict o s = go (if verdictPass s y.threshold o then rowPasses own (rowNo o.sds o.row) (noteJudged phys o s)
      else copyFails own phys (rowNo o.sds o.row) o.chan o.slot (earliestSlot (noteFailed phys o s) phys) (noteFailed phys o s)) := by
  obtain ⟨belongs, written, -, lies, sds, row, chan, slot, first, -⟩ := h
  unfold execVerifyVerdict
  rw [belongs]
  dsimp only
  rw [written]
  dsimp only
  rw [lies]
  dsimp only
  rw [if_neg (by simp only [first, Bool.false_eq_true, not_or, not_le, not_false_eq_true, and_true]; exact ⟨sds, row, chan, slot⟩)]
  split <;> rfl

theorem placements_noteJudged {phys i : Nat} {o : VerdictObs} {s : State} {x : Placement} (h : s.wrv.placements[i]? = some x) :
    ∃ j, (noteJudged phys o s).wrv.placements[i]? = some { x with judged := j } := by
  show ∃ j, (s.wrv.placements.modify phys _)[i]? = _
  rw [List.getElem?_modify, h]
  by_cases e : phys = i
  · exact ⟨AMap.set x.judged (copyKey o.chan o.slot) (), by simp [e]⟩
  · exact ⟨x.judged, by simp [e]⟩

theorem earliestSlot_noteFailed {phys : Nat} {o : VerdictObs} {s : State} {y : Placement} (h : s.wrv.placements[phys]? = some y) :
    earliestSlot (noteFailed phys o s) phys = earliestSlot s phys := by
  obtain ⟨j, judged⟩ := placements_noteJudged (phys := phys) (o := o) h
  exact earliestSlot_congr (t := noteFailed phys o s) h judged rfl rfl rfl rfl (List.length_modify ..)

theorem ctr_noteFailed {phys c : Nat} {o : VerdictObs} {s : State} (h : c < 0x061400) : ctr (noteFailed phys o s) c = ctr s c :=
  (ctr_inc ..).trans (if_neg (by omega))

theorem ctr_schedule {c : Nat} (h : c ≠ 0x0C0110) (k o p : Nat) (d : Bool) (a : Nat) (s : State) : ctr (schedule k o p d a s) c = ctr s c := by
  unfold schedule postSched
  split
  · exact (ctr_inc ..).trans (if_neg h)
  · rfl

/-- The copies of a row that have failed so far. -/
def noteCopies (own row n : Nat) (s : State) : State := updPlace own (fun z => { z with copies := AMap.set z.copies row n }) s

theorem noteCopies_plans (own row n : Nat) (s : State) : SamePlans s (noteCopies own row n s)  :=
  updPlace_plans own (fun z => { z with copies := AMap.set z.copies row n }) (fun _ => rfl) s

/-- A row without a passed copy and with a copy left is rewritten, from a state that holds the same placements but for the row's
copies and its Stall. -/
theorem copyFails_rewrites {own phys row chan edge earliest : Nat} {s : State} {x : Placement} (set : s.wrv.placements[own]? = some x)
    (live : x.abandoned = false) (failed : mem? x.passed row = false) (left : AMap.getD x.copies row 0 < 2) :
    ∃ v, copyFails own phys row chan edge earliest s = placeCopy 13 own phys row (rewriteChannel (isRetired s) chan) edge chan earliest v
      ∧ SamePlans s v ∧ OtherCounts s v ∧ (∃ pl, v.wrv = { s.wrv with placements := pl }) ∧ v.cfg = s.cfg := by
  unfold copyFails
  rw [set]
  dsimp only
  rw [if_neg (by simp [live, failed]), if_neg (by omega)]
  have copied := noteCopies_plans own row (AMap.getD x.copies row 0 + 1) s
  have counted : OtherCounts s (noteCopies own row (AMap.getD x.copies row 0 + 1) s) := .of_ctrs rfl
  obtain ⟨same, counts, ⟨pl, wrv⟩, frame⟩ := holdRewrite_spec own row (noteCopies own row (AMap.getD x.copies row 0 + 1) s)
  exact ⟨_, rfl, copied.trans same, counted.trans counts, ⟨pl, wrv⟩, frame.same .cfg rfl⟩

/-- The failure of a row's last copy has its data set written again. -/
theorem copyFails_last {own phys row chan edge earliest : Nat} {s : State} {x : Placement} (set : s.wrv.placements[own]? = some x)
    (live : x.abandoned = false) (failed : mem? x.passed row = false) (most : 2 ≤ AMap.getD x.copies row 0) :
    copyFails own phys row chan edge earliest s = writtenAgain own s := by
  unfold copyFails
  rw [set]
  dsimp only
  rw [if_neg (by simp [live, failed]), if_pos most]

/-- A reserve slot of a placement goes to a row's copy. -/
def slotTaken (phys key : Nat) (row edge : Nat × Nat) (s : State) : State :=
  updPlace phys (fun y => { y with slots := AMap.set y.slots key row, claims := AMap.set y.claims key edge }) s

theorem slotTaken_holds {phys key : Nat} {row edge : Nat × Nat} {s : State} {y : Placement} (lies : s.wrv.placements[phys]? = some y) :
    ((slotTaken phys key row edge s).wrv.placements[phys]?).any (fun (z : Placement) => AMap.get? z.slots key == some row) = true := by
  show ((s.wrv.placements.modify phys _)[phys]?).any _ = true
  rw [List.getElem?_modify, lies]
  simp

section Rewrite

variable {f own phys row target edge chan earliest k : Nat} {s : State} {x y : Placement}

/-- A rewrite that finds a free reserve slot takes it, and counts. -/
theorem placeCopy_free (set : s.wrv.placements[own]? = some x) (lies : s.wrv.placements[phys]? = some y)
    (found : reserveSlot y target earliest edge chan = some k) (free : AMap.get? y.slots (copyKey target k) = none) :
    (placeCopy (f + 1) own phys row target edge chan earliest s).wrv
        = (slotTaken phys (copyKey target k) (x.img.ds, row) (edge, chan) s).wrv
      ∧ ctr (placeCopy (f + 1) own phys row target edge chan earliest s) 0x060104 = satAdd (ctr s 0x060104) 1 := by
  have counted : ctr (inc 0x060104 (slotTaken phys (copyKey target k) (x.img.ds, row) (edge, chan) s)) 0x060104
    = satAdd (ctr s 0x060104) 1 := (ctr_inc ..).trans (if_pos rfl)
  conv in (occs := *) placeCopy _ _ _ _ _ _ _ _ _ => all_goals unfold placeCopy
  rw [set, lies]
  dsimp only
  rw [found]
  dsimp only
  rw [free]
  dsimp only
  split
  · exact ⟨(schedule_frame ..).same .wrv rfl, (ctr_schedule (by decide) ..).trans counted⟩
  · exact ⟨rfl, counted⟩

/-- A rewrite that finds a reserve slot which a later copy claimed takes it; the displaced copy moves on behind it. -/
theorem placeCopy_displaces {held : Nat × Nat} (set : s.wrv.placements[own]? = some x) (lies : s.wrv.placements[phys]? = some y)
    (found : reserveSlot y target earliest edge chan = some k) (claimed : AMap.get? y.slots (copyKey target k) = some held) :
    placeCopy (f + 1) own phys row target edge chan earliest s = slotTaken phys (copyKey target k) (x.img.ds, row) (edge, chan) s
      ∨ ∃ o e c, placeCopy (f + 1) own phys row target edge chan earliest s
          = placeCopy f o phys held.2 target e c (k + 1) (slotTaken phys (copyKey target k) (x.img.ds, row) (edge, chan) s) := by
  conv in (occs := *) placeCopy (f + 1) _ _ _ _ _ _ _ _ => all_goals unfold placeCopy
  rw [set, lies]
  dsimp only
  rw [found]
  dsimp only
  rw [claimed]
  dsimp only
  split
  · exact .inr ⟨_, _, _, rfl⟩
  · exact .inl rfl

/-- The slot that a rewrite finds holds it, whatever moves on behind it. -/
theorem placeCopy_holds (set : s.wrv.placements[own]? = some x) (lies : s.wrv.placements[phys]? = some y)
    (found : reserveSlot y target earliest edge chan = some k) :
    ((placeCopy (f + 1) own phys row target edge chan earliest s).wrv.placements[phys]?).any
      (fun (z : Placement) => AMap.get? z.slots (copyKey target k) == some (x.img.ds, row)) = true := by
  have holds := slotTaken_holds (key := copyKey target k) (row := (x.img.ds, row)) (edge := (edge, chan)) lies
  cases slot : AMap.get? y.slots (copyKey target k) with
  | none =>
    rw [(placeCopy_free set lies found slot).1]
    exact holds
  | some held =>
    obtain stays | ⟨o, e, c, moves⟩ := placeCopy_displaces (f := f) (row := row) set lies found slot
    · rw [stays]
      exact holds
    · rw [moves]
      exact placeCopy_keeps f o phys held.2 target e c (k + 1) _ (Nat.lt_succ_self k) _ holds

/-- A rewrite that finds no reserve slot is carried over to a later data set while the limit allows one. -/
theorem placeCopy_carried (set : s.wrv.placements[own]? = some x) (lies : s.wrv.placements[phys]? = some y)
    (full : reserveSlot y target earliest edge chan = none) (kind : x.img.kind ≠ 3)
    (room : (s.wrv.carry.filter fun c => c.1 == x.img.part && c.2.2.2 == target).length < Cfgw.carryLimit s) :
    placeCopy (f + 1) own phys row target edge chan earliest s
      = inc 0x060108 (updWrv (fun w => { w with carry := w.carry ++ [(x.img.part, x.img.ds, row, target)] }) s) := by
  conv_lhs => unfold placeCopy
  rw [set, lies]
  dsimp only
  rw [full]
  dsimp only
  rw [if_neg (by simp only [not_or, not_le]; exact ⟨kind, room⟩)]

end Rewrite

/-! ### A failed verdict -/

section Failed

variable {o : VerdictObs} {own phys : Nat} {x y : Placement} {s : State} (h : Judges o own phys x y s)
  (fails : verdictPass s y.threshold o = false) (waits : mem? x.passed (rowNo o.sds o.row) = false)

include h fails in
theorem execVerifyVerdict_fails : execVerifyVerdict o s
    = go (copyFails own phys (rowNo o.sds o.row) o.chan o.slot (earliestSlot s phys) (noteFailed phys o s)) := by
  rw [execVerifyVerdict_judges h, fails, if_neg (by decide), earliestSlot_noteFailed h.lies]

include h fails waits in
/-- A row with a copy left is rewritten from a state with the same reserve slots and carry-overs, in which the failure counts. -/
theorem Judges.rewrites (left : AMap.getD x.copies (rowNo o.sds o.row) 0 < 2) :
    ∃ v x1 y1, execVerifyVerdict o s = go (placeCopy 13 own phys (rowNo o.sds o.row) (rewriteChannel (isRetired s) o.chan) o.slot o.chan
        (earliestSlot s phys) v)
      ∧ v.wrv.placements[own]? = some x1 ∧ x1.img = x.img ∧ v.wrv.placements[phys]? = some y1 ∧ y1.slots = y.slots
      ∧ (∀ t e, reserveSlot y1 t e o.slot o.chan = reserveSlot y t e o.slot o.chan)
      ∧ v.wrv.fails = modAt s.wrv.fails o.chan 0 (· + 1) ∧ v.wrv.carry = s.wrv.carry ∧ v.cfg = s.cfg
      ∧ (∀ c, c ≠ 0x020008 → c ≠ 0x02001C → c < 0x061400 → ctr v c = ctr s c) := by
  obtain ⟨j, set⟩ := placements_noteJudged (phys := phys) (o := o) h.set
  obtain ⟨k, lies⟩ := placements_noteJudged (phys := phys) (o := o) h.lies
  obtain ⟨v, rewritten, plans, counts, ⟨pl, wrv⟩, cfg⟩ := copyFails_rewrites (s := noteFailed phys o s) (own := own) (phys := phys)
    (row := rowNo o.sds o.row) (chan := o.chan) (edge := o.slot) (earliest := earliestSlot s phys) set h.live waits left
  obtain ⟨x1, set1, likeX⟩ := plans.get set
  obtain ⟨y1, lies1, likeY⟩ := plans.get lies
  refine ⟨v, x1, y1, (execVerifyVerdict_fails h fails).trans (congrArg go rewritten), set1, (congrArg Placement.img likeX : x1.plan.img = _), lies1,
    (congrArg Placement.slots likeY : y1.plan.slots = _), fun t e => reserveSlot_plan likeY t e o.slot o.chan, ?_, ?_, cfg, fun c h1 h2 h3 => ?_⟩
  · rw [wrv]
    rfl
  · rw [wrv]
    rfl
  · exact (counts.same c h1 h2 (by omega)).trans (ctr_noteFailed h3)

include h fails waits in
/-- The rewrite takes the slot that it finds; a free one counts. -/
theorem Judges.placed {k : Nat} (left : AMap.getD x.copies (rowNo o.sds o.row) 0 < 2)
    (found : reserveSlot y (rewriteChannel (isRetired s) o.chan) (earliestSlot s phys) o.slot o.chan = some k) :
    Runs (.verifyVerdict o) s fun t =>
      t.wrv.fails = modAt s.wrv.fails o.chan 0 (· + 1)
      ∧ (t.wrv.placements[phys]?).any (fun (z : Placement) =>
          AMap.get? z.slots (copyKey (rewriteChannel (isRetired s) o.chan) k) == some (x.img.ds, rowNo o.sds o.row)) = true
      ∧ (AMap.get? y.slots (copyKey (rewriteChannel (isRetired s) o.chan) k) = none → ctr t 0x060104 = satAdd (ctr s 0x060104) 1) := by
  obtain ⟨v, x1, y1, run, set, img, lies, slots, reserve, count, -, -, counts⟩ := h.rewrites fails waits left
  have found1 := (reserve ..).trans found
  refine ⟨_, run, (placeCopy_fails ..).trans count, ?_, fun free => ?_⟩
  · rw [← img]
    exact placeCopy_holds set lies found1
  · rw [(placeCopy_free set lies found1 (by rw [slots]; exact free)).2, counts _ (by decide) (by decide) (by decide)]

include h fails waits in
/-- Without a slot the rewrite is a carry-over while the limit allows one. -/
theorem Judges.carried (left : AMap.getD x.copies (rowNo o.sds o.row) 0 < 2) (kind : x.img.kind ≠ 3)
    (full : reserveSlot y (rewriteChannel (isRetired s) o.chan) (earliestSlot s phys) o.slot o.chan = none)
    (room : (s.wrv.carry.filter fun c => c.1 == x.img.part && c.2.2.2 == rewriteChannel (isRetired s) o.chan).length < Cfgw.carryLimit s) :
    Runs (.verifyVerdict o) s fun t =>
      ctr t 0x060108 = satAdd (ctr s 0x060108) 1
      ∧ t.wrv.carry = s.wrv.carry ++ [(x.img.part, x.img.ds, rowNo o.sds o.row, rewriteChannel (isRetired s) o.chan)] := by
  obtain ⟨v, x1, y1, run, set, img, lies, -, reserve, -, carry, cfg, counts⟩ := h.rewrites fails waits left
  have limit : Cfgw.carryLimit v = Cfgw.carryLimit s := by
    unfold Cfgw.carryLimit Cfgw.wrvWord recWord
    rw [cfg]
  rw [placeCopy_carried set lies ((reserve ..).trans full) (by rw [img]; exact kind) (by rw [carry, limit, img]; exact room)] at run
  refine ⟨_, run, ?_, ?_⟩
  · rw [ctr_inc, if_pos rfl]
    exact congrArg (satAdd · 1) (counts _ (by decide) (by decide) (by decide))
  · show v.wrv.carry ++ _ = _
    rw [carry, img]

include h fails waits in
/-- With no copy left to try the data set is written again. -/
theorem Judges.again (most : 2 ≤ AMap.getD x.copies (rowNo o.sds o.row) 0) (kind : x.img.kind ≠ 3) (unfinished : x.complete = false) :
    Runs (.verifyVerdict o) s fun t =>
      ctr t 0x06010C = satAdd (ctr s 0x06010C) 1
      ∧ t.wrv.images = { x.img with copy := if x.img.copy = 2 then 2 else 1 } :: s.wrv.images
      ∧ (t.wrv.placements[own]?).any (fun z => z.abandoned) = true := by
  obtain ⟨j, judged⟩ := placements_noteJudged (phys := phys) (o := o) h.set
  obtain ⟨counted, wrv⟩ := writtenAgain_spec (s := noteFailed phys o s) judged unfinished h.live kind
  have run := execVerifyVerdict_fails h fails
  rw [copyFails_last (s := noteFailed phys o s) judged h.live waits most] at run
  refine ⟨_, run, counted.trans (congrArg (satAdd · 1) (ctr_noteFailed (by decide))), by rw [wrv]; rfl, ?_⟩
  rw [wrv]
  show (((noteJudged phys o s).wrv.placements.modify own _)[own]?).any _ = true
  rw [List.getElem?_modify, judged]
  simp

end Failed

/-! ## BACKLOG_RESTART (R222) -/

theorem settleCarry_none {p : Nat} {s : State} (h : s.wrv.carry = []) : settleCarry p s = s := by
  unfold settleCarry
  dsimp only
  rw [h]
  split <;> rfl

/-- A restart of the backlog: nothing has the tape, and the partition's next position is wanted. -/
structure Restarts (p : Nat) (s : State) : Prop where
  part : p < 4
  settled : s.wrv.carry = []
  serving : serving s = true
  wraps : (partAt s p).wraps ≠ 0
  going : (partAt s p).writeStopped = false
  free : tapeHeld s = false
  due : restartDue s p = true
  still : s.brd.repos = none
  straight : traversing s = false
  unopened : (s.srv.sched.any fun e => e.2.kind == Kind.windowOpen) = false

/-- The wrap and the reposition before the next position are the next two entries of the Bridle. -/
theorem execBacklogRestart_restarts {p w a len : Nat} {s : State} (h : Restarts p s)
    (place : positionAt s p (partAt s p).nextPos = some (w, a, len)) :
    ∃ u v, execBacklogRestart p s = go (post .bridle Src.fmt 0x0003 (reposArg (clockOf w a) (reverseWrap w) v 0) (post .bridle Src.fmt 0x0005 w u))
      ∧ u.wrv.windowPart = p ∧ u.wrv.setPoint = v ∧ u.boxes = s.boxes ∧ u.srv = s.srv
      ∧ ctr u 0x060118 = if s.wrv.parked then satAdd (ctr s 0x060118) 1 else ctr s 0x060118 := by
  obtain ⟨part, settled, serving, wraps, going, free, due, still, straight, unopened⟩ := h
  unfold execBacklogRestart
  dsimp only
  rw [settleCarry_none settled, if_neg (by simp [part, serving, wraps, going, free, due, still, straight, unopened]), place]
  refine ⟨_, _, rfl, rfl, rfl, ?_⟩
  cases s.wrv.parked
  · exact ⟨rfl, rfl, rfl⟩
  · exact ⟨rfl, rfl, (ctr_inc ..).trans (if_pos rfl)⟩

theorem post_post_keeps (b : Box) (src c d x y : Nat) (s : State) :
    (post b src d y (post b src c x s)).wrv = s.wrv ∧ OtherCounts s (post b src d y (post b src c x s)) :=
  ⟨((post_frame ..).same .wrv rfl).trans ((post_frame ..).same .wrv rfl), (post_counts ..).trans (post_counts ..)⟩

/-- Two posts of a source that has the slots are the last two entries of the mailbox. -/
theorem boxOf_post_post {b : Box} {src : Nat} {s : State} (h : hasSlots b src 2 s = true) (c d x y : Nat) :
    boxOf (post b src d y (post b src c x s)) b = boxOf s b ++ [mail src c x s, mail src d y s] := by
  have one := hasSlots_fewer (m := 1) (by decide) h
  rw [post_of_slots (hasSlots_post h one c x), post_of_slots one, boxOf_setBox_self, boxOf_setBox_self, List.append_assoc]
  rfl

/-- Writes of a partition stop when a waiting data set has no placement left. -/
theorem execWriteStopped_spent {p d : Nat} {img : Image} {s : State}
    (found : (s.wrv.images.find? fun i => i.part == p && i.ds == d) = some img) (spent : placeable s img = false)
    (going : (partAt s p).writeStopped = false) :
    execWriteStopped p d s = go (postEvent Src.wrv 0x06 0x01 true (d % 2 ^ 32 + p % 4 * 2 ^ 32)
      (inc 0x06011C (updPart p (fun x => { x with writeStopped := true, stopDs := d }) s))) := by
  unfold execWriteStopped
  rw [found]
  dsimp only
  rw [if_neg (by simp [spent, going])]

/-- Settles O37: a window's entry acts on the state that its delivery leaves (`runs_fire`), an image that can begin is begun
(`Begins.placeNext`), a boundary is `Bounds.boundary`, and a failed verdict is placed, carried over or written again. -/
theorem windowsOpenAndDataSetsFollow : Obligations.WindowsOpenAndDataSetsFollow := by
  unfold Obligations.WindowsOpenAndDataSetsFollow
  intro s
  refine ⟨?data, ?directory, ?close, ?boundary, ?closing, ?verdict, ?stopped, ?restart⟩
  case data =>
    intro i e img w a len fires closed load reading moving data next going fits place
    refine runs_fire rfl fires fun cs _ => ?_
    exact windowOpenFires_begins (u := delivered i cs s) ⟨closed, load, reading, moving⟩ data ⟨next, going, fits, place⟩
      ⟨rfl, rfl, rfl, rfl, rfl⟩
  case directory =>
    intro i e a len fires closed load reading moving directory place
    refine runs_fire rfl fires fun cs _ => ?_
    exact windowOpenFires_directory (s := delivered i cs s) ⟨closed, load, reading, moving⟩ directory place
  case close =>
    intro i e fires data opened ended
    refine runs_fire rfl fires fun cs _ => ?_
    rw [if_neg data, if_pos (show (delivered i cs s).wrv.windowOpen = true from opened)]
    exact endWindow_spec (bits e.arg 3 0) (delivered i cs s) ended
  case boundary =>
    intro dur at_ took fill goes
    have bounds : Bounds dur s := ⟨at_, took, fill⟩
    obtain ⟨point, window, part, -⟩ := paced_wrv dur s
    obtain ⟨ms, run⟩ := bounds.runs
    rw [if_neg (ne_true_of_eq_false goes)] at run
    refine ⟨fun img w a len next going fits place => ?_, fun empty => ?_⟩
    · obtain ⟨t, placed, begun, -, kept⟩ := (⟨next, going, fits, place⟩ : Begins s.wrv.windowPart img w a len s).placeNext
        (SameWaiting.paced dur s) (window.trans bounds.opened) part
      rw [placed, Option.getD_some] at run
      exact ⟨_, run, begun.setBox .bridle ms, kept.trans point⟩
    · rw [placeNext_none (((SameWaiting.paced dur s).nextImage _).trans empty), Option.getD_none] at run
      obtain ⟨closed, parked⟩ := endWindow_closes 1 (paced dur s)
      refine ⟨_, run, ?_⟩
      beta_reduce
      rw [setBox_wrv]
      exact ⟨closed, parked rfl⟩
  case closing =>
    intro dur at_ took fill closing
    have bounds : Bounds dur s := ⟨at_, took, fill⟩
    obtain ⟨-, window, -, images, placements⟩ := paced_wrv dur s
    obtain ⟨ms, run⟩ := bounds.runs
    rw [if_pos closing] at run
    exact ⟨_, run, window.trans bounds.opened, images, placements⟩
  case verdict =>
    intro o own phys x y belongs written set lies sds row chan slot first live
    have h : Judges o own phys x y s := ⟨belongs, written, set, lies, sds, row, chan, slot, first, live⟩
    refine ⟨fun passes => ?_, fun fails waits => ⟨fun left k found => h.placed fails waits left found,
      fun left full kind room => h.carried fails waits left kind full room, h.again fails waits⟩⟩
    obtain ⟨j, judged⟩ := placements_noteJudged (phys := phys) (o := o) set
    exact ⟨_, (execVerifyVerdict_judges h).trans (congrArg go (if_pos passes)), rowPasses_spec judged⟩
  case stopped =>
    intro p d img found spent going
    refine ⟨_, execWriteStopped_spent found spent going, ?_, ?_⟩
    · rw [partAt_of_parts ((postEvent_frame ..).same .parts rfl), partAt_of_parts ((inc_frame ..).same .parts rfl), partAt_updPart_self]
    · exact ((pushMgt_counts ..).same _ (by decide) (by decide) (by decide)).trans ((ctr_inc ..).trans (if_pos rfl))
  case restart =>
    intro p w a len part settled serves wraps going free due still straight unopened place slots
    obtain ⟨u, v, run, at_, point, boxes, clock, count⟩ := execBacklogRestart_restarts
      ⟨part, settled, serves, wraps, going, free, due, still, straight, unopened⟩ place
    refine ⟨_, run, ?_⟩
    have bridle : boxOf u .bridle = boxOf s .bridle := congrArg Boxes.bridle boxes
    have mails : ∀ c x, mail Src.fmt c x u = mail Src.fmt c x s := fun c x => by
      unfold mail
      rw [clock]
    have posted := boxOf_post_post ((hasSlots_congr bridle ..).trans slots) 0x0005 0x0003 w (reposArg (clockOf w a) (reverseWrap w) v 0)
    obtain ⟨wrv, counts⟩ := post_post_keeps .bridle Src.fmt 0x0005 0x0003 w (reposArg (clockOf w a) (reverseWrap w) v 0) u
    beta_reduce
    rw [wrv, counts.same _ (by decide) (by decide) (by decide), posted, mails, mails, bridle, point]
    exact ⟨at_, count, rfl⟩

end Sys2Proof.Machine
end

/-! Write inhibit and its clearing, lane frames, and a controlled stop (R197, R200 to R208, R223). -/

section

namespace Sys2Proof.Machine

/-! ## Inhibit and its clearing (R205 to R207) -/

/-- A change of the writer that is of its inhibit causes alone. -/
def CausesOnly (f : Wrv → Wrv) : Prop :=
  ∀ w, ∃ p h l o m, f w = { w with pes := p, shock := h, loop := l, overspeed := o, mgmt := m }

/-- A change of the causes that leaves one of them active. -/
structure SetsCause (f : Wrv → Wrv) : Prop where
  only : CausesOnly f
  active : ∀ s, inhibited (updWrv f s) = true

theorem setsCause_pes : SetsCause fun w => { w with pes := true } := ⟨fun _ => ⟨_, _, _, _, _, rfl⟩, fun s => by simp [inhibited]⟩

theorem setsCause_shock : SetsCause fun w => { w with shock := true } := ⟨fun _ => ⟨_, _, _, _, _, rfl⟩, fun s => by simp [inhibited]⟩

theorem setsCause_mgmt : SetsCause fun w => { w with mgmt := true } := ⟨fun _ => ⟨_, _, _, _, _, rfl⟩, fun s => by simp [inhibited]⟩

/-- LOOP_FAULT_INHIBIT sets the overspeed cause or the loop cause, by its argument. -/
theorem setsCause_loopFault (arg : Nat) :
    SetsCause fun w => if bit arg 3 then { w with overspeed := true } else { w with loop := true } := by
  cases h : bit arg 3
  · exact ⟨fun _ => ⟨_, _, _, _, _, rfl⟩, fun s => by simp [inhibited]⟩
  · exact ⟨fun _ => ⟨_, _, _, _, _, rfl⟩, fun s => by simp [inhibited]⟩

theorem gateOpen_of_inhibited {s : State} (h : inhibited s = true) : gateOpen s = false := by simp [gateOpen, h]

/-- A cause that becomes active closes the gate on every lane. -/
theorem startCause_spec {f : Wrv → Wrv} (h : SetsCause f) (s : State) :
    (startCause f s).wrv = { f s.wrv with
        lanes := (startCause f s).wrv.lanes, lastClock := s.srv.clock, lastCause := causeBits (startCause f s)
        slotLost := s.wrv.slotLost || (s.wrv.windowOpen && decide (s.wrv.slot < 396)) }
      ∧ (∀ k, k < 4 → sentBlocks (startCause f s) k = [control 0x2D (causeBits (startCause f s) * 2 ^ 48 + s.srv.clock % 2 ^ 40)]
          ∧ (laneAt (startCause f s) k).gated = 0)
      ∧ gateOpen (startCause f s) = false ∧ ctr (startCause f s) 0x060114 = satAdd (ctr s 0x060114) 1 := by
  obtain ⟨ls, shut, sent⟩ := gateOff_spec (updWrv f s)
  unfold startCause
  rw [shut]
  refine ⟨?_, sent, gateOpen_of_inhibited (h.active s), (ctr_inc ..).trans (if_pos rfl)⟩
  obtain ⟨p, k, l, o, m, causes⟩ := h.only s.wrv
  simp only [causes, inc_wrv, updWrv_wrv]
  rfl

/-- An inhibit event that is taken starts its cause. -/
theorem runs_inhibit {c : Instr} {src code arg : Nat} {f : Wrv → Wrv} {s u : State} (h : SetsCause f)
    (run : exec c s = go (boxTake .wrv src code arg (startCause f) s)) (taken : Takes .wrv src code arg s u) :
    Runs c s fun t =>
      t.wrv = { f s.wrv with lanes := t.wrv.lanes, lastClock := s.srv.clock, lastCause := causeBits t
                             slotLost := s.wrv.slotLost || (s.wrv.windowOpen && decide (s.wrv.slot < 396)) }
      ∧ (∀ k, k < 4 → sentBlocks t k = [control 0x2D (causeBits t * 2 ^ 48 + s.srv.clock % 2 ^ 40)] ∧ (laneAt t k).gated = 0)
      ∧ gateOpen t = false ∧ ctr t 0x060114 = satAdd (ctr s 0x060114) 1 ∧ t.boxes = u.boxes := by
  refine runs_taken run taken ?_
  rintro bx rfl
  obtain ⟨wrv, sent, shut, counted⟩ := startCause_spec h { s with boxes := bx }
  exact ⟨wrv, sent, shut, counted, (startCause_frame ..).same .boxes rfl⟩

/-- A cause that is cleared, when it was the last, lets writing resume at the next row slot boundary. -/
theorem clearCause_wrv {f : Wrv → Wrv} (h : CausesOnly f) (s : State) :
    (clearCause f s).wrv = { f s.wrv with
      resuming := if inhibited s && !inhibited (clearCause f s) then s.wrv.windowOpen && decide (s.wrv.slot < 396) else s.wrv.resuming } := by
  obtain ⟨p, k, l, o, m, causes⟩ := h s.wrv
  have same : inhibited (clearCause f s) = inhibited (updWrv f s) := by
    unfold clearCause
    dsimp only
    split <;> rfl
  rw [same]
  unfold clearCause
  dsimp only
  by_cases last : inhibited s = true ∧ inhibited (updWrv f s) = false
  · rw [if_pos last, if_pos (by simp [last])]
    simp only [updWrv_wrv, causes]
  · rw [if_neg last, if_neg (by simpa using last)]
    simp only [updWrv_wrv, causes]

/-- A cause-cleared event that is taken clears the cause if the cause's own producer posted it; else it does nothing. -/
theorem runs_causeCleared {c : Instr} {producer src code arg : Nat} {f : Wrv → Wrv} {s u : State} (h : CausesOnly f)
    (run : exec c s = go (takeClear producer src code arg f s)) (taken : Takes .wrv src code arg s u) :
    (src = producer → Runs c s fun t =>
      t.wrv = { f s.wrv with
        resuming := if inhibited s && !inhibited t then s.wrv.windowOpen && decide (s.wrv.slot < 396) else s.wrv.resuming }
      ∧ t.boxes = u.boxes)
    ∧ (src ≠ producer → Runs c s fun t => t = u) := by
  refine ⟨fun own => runs_taken run taken ?_, fun other => runs_taken run taken ?_⟩
  · rintro bx rfl
    rw [if_pos own]
    exact ⟨clearCause_wrv h { s with boxes := bx }, (clearCause_frame ..).same .boxes rfl⟩
  · rintro bx rfl
    exact if_neg other

/-! ## Lane frames (R200 to R204) -/

theorem length_linkChannels : ∀ k, k < 4 → (linkChannels k).length = 33 := by decide

/-- The next lane frame begins a row slot. -/
def beginsSlot (s : State) : Bool := !s.wrv.slotLoaded && decide (s.wrv.slot < 396)

/-- When the first channel bit of the next lane frame is launched: the observed time where it begins a row slot, else where the frame
before left off. -/
def launchTime (o : LaneObs) (s : State) : Nat :=
  if beginsSlot s then o.launch % 2 ^ 16 * deviceCycle + o.fraction % 256 * launchStep else s.wrv.launchAt

/-- A lane frame can leave: a window is in progress, the writer has power, the tape moves, and the frame is in its place. -/
structure FrameDue (o : LaneObs) (x : Placement) (s : State) : Prop where
  window : inProgress s = some x
  power : domOn s 15 = true
  moves : bitPeriod s x.cls ≠ 0
  near : beginsSlot s = false ∨ o.off.natAbs ≤ 500

/-- The channel bits of each channel in the next lane frame. -/
def frameBitCount (x : Placement) (s : State) : Nat := frameCount (loadSlot s) (bitPeriod s x.cls)

/-- The next lane frame has left. -/
def frameSent (o : LaneObs) (x : Placement) (s : State) : State :=
  sendFrame (bitPeriod s x.cls) (launchTime o s) (frameBitCount x s) (loadSlot s)

/-- The next lane frame has the last channel bit of its row slot. -/
def EndsSlot (x : Placement) (s : State) : Prop := s.wrv.slot < 396 ∧ (loadSlot s).wrv.left - frameBitCount x s = 0

/-- What the lanes carry and the launch position when the frame has left. -/
structure FrameGone (o : LaneObs) (x : Placement) (s t : State) : Prop where
  blocks : ∀ k, k < 4 → sentBlocks t k = frameBlocks (bitPeriod s x.cls) (launchTime o s) (frameBitCount x s) (loadSlot s) k
  launch : t.wrv.launchAt = (launchTime o s + frameBitCount x s * bitPeriod s x.cls) % (deviceCycle * 65536)
  placements : t.wrv.placements = s.wrv.placements

theorem frameSent_gone (o : LaneObs) (x : Placement) (s : State) : FrameGone o x s (frameSent o x s) := by
  obtain ⟨-, -, -, -, placements⟩ := loadSlot_keeps s
  obtain ⟨ls, left, sent⟩ := sendFrame_spec (bitPeriod s x.cls) (launchTime o s) (frameBitCount x s) (loadSlot s)
  unfold frameSent
  rw [left]
  exact ⟨sent, rfl, placements⟩

/-- The row slot when the frame has left. -/
theorem frameSent_slot (o : LaneObs) (x : Placement) (s : State) :
    (frameSent o x s).wrv.slot = s.wrv.slot ∧ (frameSent o x s).wrv.slotLost = s.wrv.slotLost
      ∧ gateOpen (frameSent o x s) = gateOpen s ∧ (frameSent o x s).wrv.left = (loadSlot s).wrv.left - frameBitCount x s := by
  obtain ⟨-, slot, lost, gate, -⟩ := loadSlot_keeps s
  obtain ⟨ls, left, -⟩ := sendFrame_spec (bitPeriod s x.cls) (launchTime o s) (frameBitCount x s) (loadSlot s)
  unfold frameSent
  rw [left]
  exact ⟨slot, lost, gate, rfl⟩

section

variable {o : LaneObs} {x : Placement} {s : State}

/-- LANE_FRAME of a frame that can leave sends it, and ends the row slot with its last bit. -/
theorem FrameDue.runs (h : FrameDue o x s) :
    (EndsSlot x s → exec (.laneFrame o) s = go (endSlot (frameSent o x s)))
      ∧ (¬EndsSlot x s → exec (.laneFrame o) s = go (frameSent o x s)) := by
  obtain ⟨slot, -, -, left⟩ := frameSent_slot o x s
  have blocked : ¬(domOn s 15 = false ∨ bitPeriod s x.cls = 0 ∨ (beginsSlot s = true ∧ 500 < o.off.natAbs)) := by
    have near := h.near
    simp only [h.power, h.moves, Bool.true_eq_false, false_or, not_and]
    intro begins
    rw [begins] at near
    simpa using near
  have sends : execLaneFrame o s
      = go (if (frameSent o x s).wrv.slot < 396 ∧ (frameSent o x s).wrv.left = 0 then endSlot (frameSent o x s) else frameSent o x s) := by
    unfold execLaneFrame
    rw [h.window]
    exact if_neg blocked
  rw [slot, left] at sends
  exact ⟨fun ends => sends.trans (congrArg go (if_pos ends)), fun goesOn => sends.trans (congrArg go (if_neg goesOn))⟩

/-- The end of a row slot that is not lost leaves on the lanes what they carry, and the next slot follows. -/
theorem FrameGone.endSlot {t : State} (h : FrameGone o x s t) (slot : t.wrv.slot < 396) (kept : t.wrv.slotLost = false)
    (gate : gateOpen t = true) : FrameGone o x s (endSlot t) ∧ (endSlot t).wrv.slot = t.wrv.slot + 1 := by
  obtain ⟨r, n, ended⟩ := endSlot_spec t slot kept gate
  rw [ended]
  exact ⟨⟨h.blocks, h.launch, h.placements⟩, rfl⟩

theorem FrameDue.endsKept (h : FrameDue o x s) (ends : EndsSlot x s) (kept : s.wrv.slotLost = false) (gate : gateOpen s = true) :
    Runs (.laneFrame o) s fun t => FrameGone o x s t ∧ t.wrv.slot = s.wrv.slot + 1 := by
  obtain ⟨slot, lost, gated, -⟩ := frameSent_slot o x s
  obtain ⟨gone, next⟩ := (frameSent_gone o x s).endSlot (slot.symm ▸ ends.1) (lost.trans kept) (gated.trans gate)
  exact ⟨_, h.runs.1 ends, gone, by rw [next, slot]⟩

/-- A frame leaves its blocks on the lanes unless its row slot ends as a lost one. -/
theorem FrameDue.sends (h : FrameDue o x s) (kept : ¬EndsSlot x s ∨ (s.wrv.slotLost = false ∧ gateOpen s = true)) :
    Runs (.laneFrame o) s (FrameGone o x s) := by
  by_cases ends : EndsSlot x s
  · obtain ⟨whole, gate⟩ := kept.resolve_left (not_not_intro ends)
    obtain ⟨t, run, gone, -⟩ := h.endsKept ends whole gate
    exact ⟨t, run, gone⟩
  · exact ⟨_, h.runs.2 ends, frameSent_gone o x s⟩

theorem FrameDue.ends (h : FrameDue o x s) (ends : EndsSlot x s) : Runs (.laneFrame o) s fun t =>
    t.wrv.slotLoaded = false ∧ t.wrv.left = 0 ∧ t.wrv.resuming = false ∧ t.wrv.slotLost = false :=
  ⟨_, h.runs.1 ends, endSlot_slotState _ ((frameSent_slot o x s).1.symm ▸ ends.1)⟩

end

/-- A frame that would begin its row slot farther from the slot's place than R202 allows does not leave. -/
theorem execLaneFrame_far {o : LaneObs} {x : Placement} {s : State} (window : inProgress s = some x) (begins : beginsSlot s = true)
    (far : 500 < o.off.natAbs) : execLaneFrame o s = go s := by
  unfold execLaneFrame
  rw [window]
  exact if_pos (.inr (.inr ⟨begins, far⟩))

/-! ## A controlled stop (R197) -/

/-- A WINDOW_CLOSE entry of the sequencer stands at a position. -/
def closesAt (s : State) (c : Nat) : Bool :=
  s.srv.sched.any fun e => e.2.kind == Kind.windowClose && e.2.owner == 0 && e.2.pos == c

/-- What the formatter does when a controlled stop begins during a data set: nothing where the data set ends before the stop or the
window closes there already; else the window's close moves to the stop. -/
theorem execControlledStopBegun_window {src arg : Nat} {s u : State} {x : Placement} (window : inProgress s = some x)
    (taken : Takes .fmt src 0x8001 arg s u) : exec (.controlledStopBegun src arg) s = go (
      if clockDist (placementEnd s x) s.srv.clock ≤ clockDist (bits arg 39 0) s.srv.clock then u
      else if closesAt s (bits arg 39 0) then u
      else schedule Kind.windowClose 0 (bits arg 39 0) s.srv.reverse 0 (cancelKind Kind.windowClose 0 u)) := by
  show execControlledStopBegun src arg s = _
  unfold execControlledStopBegun
  dsimp only
  rw [taken.act]
  obtain ⟨bx, rfl⟩ := taken.only_boxes
  rw [show inProgress { s with boxes := bx } = some x from window]
  rfl

/-- Settles O36: an inhibit event is `startCause` and a cleared one `clearCause` on the state without it; a lane frame that can leave
(`FrameDue`) is sent and may end its row slot; a controlled stop keeps the window's close or moves it. -/
theorem writingIsInhibitedAndResumed : Obligations.WritingIsInhibitedAndResumed := by
  unfold Obligations.WritingIsInhibitedAndResumed
  intro s src
  refine ⟨?inhibit, ?cleared, ?unknown, ?frame, ?far, ?stop⟩
  case inhibit =>
    simp only [List.forall_mem_cons]
    exact ⟨fun arg u => runs_inhibit setsCause_pes rfl, fun arg u => runs_inhibit setsCause_shock rfl,
      fun arg u => runs_inhibit (setsCause_loopFault arg) rfl, fun arg u => runs_inhibit setsCause_mgmt rfl, by simp⟩
  case cleared =>
    simp only [List.forall_mem_cons]
    exact ⟨fun arg u => runs_causeCleared (f := fun w => { w with pes := false }) (fun _ => ⟨_, _, _, _, _, rfl⟩) rfl,
      fun arg u => runs_causeCleared (f := fun w => { w with shock := false }) (fun _ => ⟨_, _, _, _, _, rfl⟩) rfl,
      fun arg u => runs_causeCleared (f := fun w => { w with loop := false, overspeed := false }) (fun _ => ⟨_, _, _, _, _, rfl⟩) rfl,
      fun arg u => runs_causeCleared (f := fun w => { w with mgmt := false }) (fun _ => ⟨_, _, _, _, _, rfl⟩) rfl, by simp⟩
  case unknown =>
    intro code arg u unknown taken
    refine runs_taken (if_neg (ne_true_of_eq_false unknown)) taken ?_
    rintro bx rfl
    exact ⟨(ctr_inc ..).trans (if_pos rfl), rfl, rfl⟩
  case frame =>
    intro o x window power moves begins u n at_ ends near
    have due : FrameDue o x s := ⟨window, power, moves, near⟩
    refine ⟨fun kept => ?_, fun last whole gate => ?_, fun last => due.ends last⟩
    · obtain ⟨t, run, gone⟩ := due.sends kept
      exact ⟨t, run, fun k lt => ⟨gone.blocks k lt, length_linkChannels k lt⟩, gone.launch, gone.placements⟩
    · obtain ⟨t, run, -, next⟩ := due.endsKept last whole gate
      exact ⟨t, run, next⟩
  case far =>
    intro o x window unloaded slot far
    exact ⟨s, execLaneFrame_far window (by simp [beginsSlot, unloaded, slot]) far, rfl⟩
  case stop =>
    intro arg u x taken window
    have run := execControlledStopBegun_window window taken
    refine ⟨fun stays => ⟨u, run.trans (congrArg go ?_), rfl⟩, fun beyond free share => ?_⟩
    · obtain near | stands := stays
      · exact if_pos near
      · have closes : closesAt s (bits arg 39 0) = true := stands
        rw [if_pos closes, ite_self]
    · have moves : closesAt s (bits arg 39 0) = false := free
      rw [if_neg (not_le.mpr beyond), if_neg (ne_true_of_eq_false moves)] at run
      obtain ⟨bx, rfl⟩ := taken.only_boxes
      exact ⟨_, run, schedule_stands ((ownedBy_cancelKind_le ..).trans_lt share)⟩

end Sys2Proof.Machine
end

/-! The servo decoder and the Tape Clock (R205, R207, R263 to R274, R279, R284, R285): what a frame gives its readers and the clock,
LPOS words, the flywheel's end, and the ticks of the standstill, TENSION and THREAD. -/

section

namespace Sys2Proof.Machine

/-! ## A reader's sample (R263, R269) -/

/-- Crossings that give a place give the reader its y and its PES, and a valid sample within the band that is expected. -/
theorem sampleReader_seen {s : State} {r n d : Nat} {m : Int} {x : Option (List Int)} (up : (rxAt s r).up = true)
    (seen : x.bind lateralRatio = some (m, d)) :
    (sampleReader s r x n).y = roundTo m d
      ∧ (sampleReader s r x n).pes = clamp (-32767) 32767 (roundTo m d - (loopAt s 2).ramp)
      ∧ ((sampleReader s r x n).valid = true
          ↔ m.natAbs ≤ 60000 * d ∧ readerEnabled s r = true ∧ (readerAt s r).band = some (expectedBand s r)) := by
  unfold sampleReader
  rw [if_pos up, seen]
  simp only [Bool.and_eq_true, decide_eq_true_eq, beq_iff_eq, and_assoc, true_and]

theorem sampleReader_unseen {s : State} {r n : Nat} {x : Option (List Int)}
    (h : (rxAt s r).up = false ∨ x.bind lateralRatio = none) : (sampleReader s r x n).valid = false := by
  have unseen : (if (rxAt s r).up then x.bind lateralRatio else none) = none := by
    obtain down | blank := h
    · rw [down]; rfl
    · rw [blank, ite_self]
  unfold sampleReader
  rw [unseen]

/-! ## The samples of a frame -/

/-- The readers after a frame. -/
def samplesOf (f : ServoObs) (s : State) : AMap Reader :=
  (List.range 4).map fun r => (r, sampleReader s r (f.readers.getD r none) (f.advance.getD r 0))

/-- The valid samples of a frame. -/
def goodOf (f : ServoObs) (s : State) : List (Nat × Reader) := (samplesOf f s).filter fun x => x.2.valid

theorem readerAt_of_samples {f : ServoObs} {s t : State} (h : t.srv.readers = samplesOf f s) {r : Nat} (hr : r < 4) :
    readerAt t r = sampleReader s r (f.readers.getD r none) (f.advance.getD r 0) := by
  unfold readerAt
  rw [h]
  interval_cases r <;> rfl

theorem readers_of_samples {f : ServoObs} {s t : State} (h : t.srv.readers = samplesOf f s) :
    ((List.range 4).map fun r => (r, readerAt t r)) = samplesOf f s :=
  List.map_congr_left fun r hr => by rw [readerAt_of_samples h (List.mem_range.mp hr)]

theorem any_samples {f : ServoObs} {s t : State} (h : t.srv.readers = samplesOf f s) {r : Nat} (hr : r < 4) :
    ((samplesOf f s).any fun x => x.1 == r && x.2.valid) = (readerAt t r).valid := by
  rw [readerAt_of_samples h hr]
  unfold samplesOf
  rw [show List.range 4 = [0, 1, 2, 3] from rfl]
  interval_cases r <;> simp

/-! ## The clock at a frame (R270, R273, R274) -/

theorem meanOf_some {xs : List Int} (h : xs ≠ []) : ∃ c, meanOf xs = some c := ⟨_, if_neg h⟩

/-- The mean of the readers' positions of a frame, where a sample is valid. -/
def meanClock (ok : List (Nat × Reader)) : Option Int := meanOf (ok.map fun x => (clockUnder x.1 x.2.frame : Int))

/-- With a valid sample the flywheel is back at 0, and a valid, locked clock moves to the mean. -/
theorem clockFrame_mean {ok : List (Nat × Reader)} {c : Int} (h : meanClock ok = some c) (s : State) :
    (clockFrame ok s).srv.flywheel = 0
      ∧ (s.srv.valid = true → s.srv.lposLocked = true →
          (clockFrame ok s).srv.clock = if s.srv.reverse then min s.srv.clock c.toNat else max s.srv.clock c.toNat) := by
  unfold meanClock at h
  unfold clockFrame
  rw [h]
  dsimp only
  split
  · exact ⟨rfl, fun _ _ => rfl⟩
  · next free => exact ⟨rfl, fun valid locked => absurd ⟨valid, locked⟩ free⟩

/-- What the clock's step leaves: the readers, the direction and the speed, and the counts of missed samples. -/
structure ReadingsKept (s t : State) : Prop where
  readers : t.srv.readers = s.srv.readers
  reverse : t.srv.reverse = s.srv.reverse
  speed : t.srv.speed = s.srv.speed
  invalidRun : t.srv.invalidRun = s.srv.invalidRun
  missed : ctr t 0x0C0114 = ctr s 0x0C0114

theorem clockFrame_readings (ok : List (Nat × Reader)) (s : State) : ReadingsKept s (clockFrame ok s) := by
  unfold clockFrame
  split
  · obtain ⟨readers, reverse, speed, run, missed, -⟩ := flywheelBy_spec 256 s
    exact ⟨readers, reverse, speed, run, missed⟩
  · dsimp only
    split <;> exact ⟨rfl, rfl, rfl, rfl, rfl⟩

/-! ## SERVO_FRAME -/

/-- Readers in use without a valid sample of a frame. -/
def missedOf (f : ServoObs) (s : State) : Nat :=
  ((List.range 4).filter fun r => readerEnabled s r && !((samplesOf f s).any fun x => x.1 == r && x.2.valid)).length

theorem missedOf_eq {f : ServoObs} {s t : State} (h : t.srv.readers = samplesOf f s) :
    missedOf f s = ((List.range 4).filter fun r => readerEnabled s r && !(readerAt t r).valid).length :=
  congrArg List.length (List.filter_congr fun r hr => by rw [any_samples h (List.mem_range.mp hr)])

/-- The state that a frame's samples make, before the clock moves. -/
def sampled (f : ServoObs) (s : State) : State :=
  derive (goodOf f s) (updSrv (fun v => { v with
    readers := samplesOf f s
    reverse := if (goodOf f s).isEmpty then v.reverse else f.reverse
    speed := if (goodOf f s).isEmpty then v.speed
      else if f.reverse then -roundTo (2048000 * 65536) f.period else roundTo (2048000 * 65536) f.period
    invalidRun := if (goodOf f s).isEmpty || decide (0 < s.srv.mute) then min (v.invalidRun + 1) 2 else 0
    mute := v.mute - 1 })
    (addCtr 0x0C0114 (missedOf f s) s))

/-- The state in which a frame's samples are judged: the clock has moved. -/
def clocked (f : ServoObs) (s : State) : State := clockFrame (goodOf f s) (sampled f s)

/-- The judgement of a frame (R205): the entries of one cycle. -/
def judged (f : ServoObs) (s : State) : State :=
  sameCycle .wrv (fun t => checkOverspeed (checkPes (if 0 < s.srv.mute then [] else goodOf f s) t)) (clocked f s)

theorem clocked_frame (f : ServoObs) (s : State) : Frame 0x20200 s (clocked f s) :=
  (((((addCtr_frame _ _ s).mono rfl).andThen (updSrv_frame ..) rfl).andThen (derive_frame ..) rfl).andThen (clockFrame_frame ..) rfl)

theorem clocked_readings (f : ServoObs) (s : State) : ReadingsKept (sampled f s) (clocked f s) := clockFrame_readings ..

theorem judged_clock (f : ServoObs) (s : State) : ClockKept (clocked f s) (judged f s) := by
  obtain ⟨bx, only⟩ := (sameCycle_spec .wrv (fun t => checkOverspeed (checkPes (if 0 < s.srv.mute then [] else goodOf f s) t)) (clocked f s)).1
  unfold judged
  rw [only]
  refine ⟨congrArg Srv.core (((checkOverspeed_frame ..).same .srv rfl).trans ((checkPes_frame ..).same .srv rfl)), ?_⟩
  exact ((checkPes_counts ..).trans (checkOverspeed_counts _)).same _ (by decide) (by decide) (by decide)

/-- A frame's end: after the judgement the loops and the motion leave the clock and the mailboxes. -/
theorem runs_servoFrame {f : ServoObs} {s : State} (on : domOn s 6 = true) (decodable : decodes f.period = true) :
    Runs (.servoFrame f) s fun t => ClockKept (clocked f s) t ∧ t.boxes = (judged f s).boxes := by
  have run : exec (.servoFrame f) s = go (if (judged f s).brd.ready = false then ensembleUpdate (judged f s)
      else ensembleUpdate (motionStep false (countSettled (servoTick f.period 20480000000 (!(goodOf f s).isEmpty)
        (estimateRadii (updateTrim (judged f s))))))) := by
    show execServoFrame f s = _
    unfold execServoFrame
    rw [if_neg (by simp [on, decodable]), apply_ite go]
    rfl
  refine ⟨_, run, ?_⟩
  split
  · have last := ensembleUpdate_frame (judged f s)
    exact ⟨(judged_clock f s).trans (.of_frame last rfl rfl), last.same .boxes rfl⟩
  · have loops := ((((updateTrim_frame (judged f s)).andThen (estimateRadii_frame _) rfl).andThen
      (servoTick_frame f.period 20480000000 (!(goodOf f s).isEmpty) _) rfl).andThen (countSettled_frame _) rfl)
    have whole := ((loops.mono (m := 0x20700) rfl).andThen (motionStep_frame false _) rfl).andThen (ensembleUpdate_frame _) rfl
    exact ⟨(((judged_clock f s).trans (.of_frame loops rfl rfl)).trans (motionStep_clock ..)).trans (.of_frame (ensembleUpdate_frame _) rfl rfl),
      whole.same .boxes rfl⟩

/-- A PES entry that is due waits after the judgement: a sample beyond `pes_limit`, or a second frame without one (R205). -/
theorem judged_posts {f : ServoObs} {s : State} (slot : hasSlots .wrv Src.servo 1 s = true) (fresh : pesPosted s = false)
    (due : (s.srv.mute = 0 ∧ ∃ x ∈ goodOf f s, Cfgw.pesLimit s < x.2.pes.natAbs) ∨ (goodOf f s = [] ∧ 1 ≤ s.srv.invalidRun)) :
    ∃ m ∈ boxOf (judged f s) .wrv, m.src = Src.servo ∧ m.code = 0x8001 := by
  have frame := clocked_frame f s
  have boxes : (clocked f s).boxes = s.boxes := frame.same .boxes rfl
  have slot' : hasSlots .wrv Src.servo 1 (clocked f s) = true := (hasSlots_congr (b := .wrv) (congrArg Boxes.wrv boxes) _ _).trans slot
  have fresh' : pesPosted (clocked f s) = false := by
    unfold pesPosted at fresh ⊢
    rw [postedTo_of boxes, frame.same .wrv rfl]
    exact fresh
  have limit : Cfgw.pesLimit (clocked f s) = Cfgw.pesLimit s := by
    unfold Cfgw.pesLimit Cfgw.wrvWord recWord
    rw [frame.same .cfg rfl]
  have due' : (∃ x ∈ if 0 < s.srv.mute then [] else goodOf f s, Cfgw.pesLimit (clocked f s) < x.2.pes.natAbs)
      ∨ 2 ≤ (clocked f s).srv.invalidRun := by
    obtain ⟨loud, beyond⟩ | ⟨empty, before⟩ := due
    · exact .inl (by rwa [limit, if_neg (by omega)])
    · refine .inr ?_
      rw [(clocked_readings f s).invalidRun]
      have again : (sampled f s).srv.invalidRun = min (s.srv.invalidRun + 1) 2 := if_pos (by simp [empty])
      omega
  obtain ⟨m, posted, is⟩ := checkPes_spec _ (clocked f s) slot' fresh' due'
  exact ⟨m, ((sameCycle_spec ..).2 m).mpr (mem_checkOverspeed posted), is⟩

/-- What is read of the servo's state apart from the wrap and the scheduler's table. -/
theorem ClockKept.read {α : Type} {s t : State} (h : ClockKept s t) (g : Srv → α) (core : ∀ v, g v = g v.core) : g t.srv = g s.srv := by
  rw [core, h.core, ← core]

section Frame

variable {f : ServoObs} {s t : State} (kept : ClockKept (clocked f s) t)
include kept

theorem frame_readers : t.srv.readers = samplesOf f s :=
  (kept.read Srv.readers fun _ => rfl).trans (clocked_readings f s).readers

theorem frame_missed : ctr t 0x0C0114 = satAdd (ctr s 0x0C0114) (missedOf f s) :=
  calc ctr t 0x0C0114
    _ = ctr (sampled f s) 0x0C0114 := kept.missed.trans (clocked_readings f s).missed
    _ = satAdd (ctr s 0x0C0114) (missedOf f s) := (ctr_addCtr ..).trans (if_pos rfl)

/-- With a valid sample the speed and the direction are the frame's. -/
theorem frame_speed (good : goodOf f s ≠ []) :
    t.srv.speed = (if f.reverse then -roundTo (2048000 * 65536) f.period else roundTo (2048000 * 65536) f.period)
      ∧ t.srv.reverse = f.reverse ∧ t.srv.flywheel = 0 := by
  have filled : ¬(goodOf f s).isEmpty = true := by simpa using good
  obtain ⟨c, mean⟩ : ∃ c, meanClock (goodOf f s) = some c := meanOf_some (by simpa using good)
  refine ⟨?_, ?_, (kept.read Srv.flywheel fun _ => rfl).trans (clockFrame_mean mean _).1⟩
  · exact ((kept.read Srv.speed fun _ => rfl).trans (clocked_readings f s).speed).trans (if_neg filled)
  · exact ((kept.read Srv.reverse fun _ => rfl).trans (clocked_readings f s).reverse).trans (if_neg filled)

theorem frame_clock {c : Int} (mean : meanClock (goodOf f s) = some c) (valid : s.srv.valid = true) (locked : s.srv.lposLocked = true) :
    t.srv.clock = if f.reverse then min s.srv.clock c.toNat else max s.srv.clock c.toNat := by
  have filled : ¬(goodOf f s).isEmpty = true := fun empty => by
    rw [List.isEmpty_iff.mp empty] at mean
    cases mean
  have forward : (sampled f s).srv.reverse = f.reverse := if_neg filled
  rw [kept.read Srv.clock fun _ => rfl, ← forward]
  exact (clockFrame_mean mean (sampled f s)).2 valid locked

/-- Without a valid sample the clock flywheels at the last speed. -/
theorem frame_flywheels (lost : goodOf f s = []) :
    t.srv.speed = s.srv.speed ∧ t.srv.reverse = s.srv.reverse
      ∧ (s.srv.valid = true → t.srv.flywheel = s.srv.flywheel + 256
        ∧ (s.srv.flywheel + 256 ≤ Cfgw.flywheelFrames s * 256 →
          t.srv.clock = if s.srv.reverse then s.srv.clock - 256 else min (s.srv.clock + 256) (2 ^ 40 - 1))) := by
  have empty : (goodOf f s).isEmpty = true := by simp [lost]
  have reverse : (sampled f s).srv.reverse = s.srv.reverse := if_pos empty
  have travel : clocked f s = flywheelBy 256 (sampled f s) := by unfold clocked; rw [lost]; rfl
  obtain ⟨-, -, -, -, -, wheel⟩ := flywheelBy_spec 256 (sampled f s)
  rw [← travel, reverse] at wheel
  refine ⟨?_, ?_, fun valid => ?_⟩
  · exact ((kept.read Srv.speed fun _ => rfl).trans (clocked_readings f s).speed).trans (if_pos empty)
  · exact ((kept.read Srv.reverse fun _ => rfl).trans (clocked_readings f s).reverse).trans reverse
  · rw [kept.read Srv.flywheel fun _ => rfl, kept.read Srv.clock fun _ => rfl]
    exact wheel valid

end Frame

/-! ## LPOS words (R265, R266) -/

/-- A reader has taken a word: its band and its number are noted. -/
def noteWord (r n band : Nat) (s : State) : State := updReader r (fun x => { x with band := some band, lastLpos := some n }) s

theorem readerAt_updReader (r : Nat) (f : Reader → Reader) (s : State) : readerAt (updReader r f s) r = f (readerAt s r) :=
  AMap.getD_set_self ..

/-- A second successive word has set the clock. -/
def setByWord (r n : Nat) (s : State) : State :=
  clockValid (updSrv (fun v => { v with lposLocked := true, flywheel := 0, slowTravel := 0 })
    (resetCount r (wordEnd s n) (noteWord r n (expectedBand s r) s)))

/-- The clock after a jump: it and every reader's count are set from the word. -/
def jumped (r n : Nat) (s : State) : State :=
  updSrv (fun v => { v with mute := 2 }) (resetCount r (wordEnd s n)
    (inc 0x0C0104 (updReader r (fun x => { x with rogue := none }) (inc 0x0C0100 (noteWord r n (expectedBand s r) s)))))

/-- What a word does that is read over the band of its reader. -/
def wordTaken (r n : Nat) (s : State) : State :=
  if s.srv.lposLocked = false then
    if (readerAt s r).lastLpos.map (wordAfter s) = some n then setByWord r n s else noteWord r n (expectedBand s r) s
  else if (readerAt s r).frame = wordEnd s n then updReader r (fun x => { x with rogue := none }) (noteWord r n (expectedBand s r) s)
  else if (readerAt s r).rogue.map (wordAfter s) = some n then
    postEvent Src.servo 0x0C 0x01 false (jumped r n s).srv.clock (jumped r n s)
  else updReader r (fun x => { x with rogue := some n }) (inc 0x0C0100 (noteWord r n (expectedBand s r) s))

theorem exec_word {s : State} {r n : Nat} {w : List Bool} (hr : r < 4) (on : domOn s 6 = true)
    (parsed : lposParse (if s.srv.reverse then w.reverse else w) = some (n, expectedBand s r)) :
    exec (.lposWordAccepted r w) s = go (wordTaken r n s) := by
  show execLposWordAccepted r w s = _
  unfold execLposWordAccepted wordTaken
  rw [parsed]
  dsimp only
  rw [if_neg (by simp [hr, on])]
  simp only [apply_ite go]
  rfl

/-- A jump is counted and told to the management; the clock is the word's, and two frames give no sample for the inhibit (R205). -/
theorem jump_posted (r n : Nat) (s : State) :
    let t := postEvent Src.servo 0x0C 0x01 false (jumped r n s).srv.clock (jumped r n s)
    t.srv.clock = clockUnder r (wordEnd s n) % 2 ^ 40 ∧ t.srv.mute = 2 ∧ ctr t 0x0C0104 = satAdd (ctr s 0x0C0104) 1 := by
  intro t
  have srv : t.srv = (jumped r n s).srv := (postEvent_frame ..).same .srv rfl
  refine ⟨congrArg Srv.clock srv, congrArg Srv.mute srv, ?_⟩
  calc ctr t 0x0C0104
    _ = ctr (jumped r n s) 0x0C0104 := (pushMgt_counts ..).same _ (by decide) (by decide) (by decide)
    _ = satAdd (ctr (inc 0x0C0100 s) 0x0C0104) 1 := (ctr_inc 0x0C0104 0x0C0104 _).trans (if_pos rfl)
    _ = satAdd (ctr s 0x0C0104) 1 := by rw [ctr_inc, if_neg (by decide)]

theorem clockValid_srv (s : State) :
    (clockValid s).srv.clock = s.srv.clock ∧ (clockValid s).srv.valid = true ∧ (clockValid s).srv.lposLocked = s.srv.lposLocked := by
  unfold clockValid
  split
  · next valid => exact ⟨rfl, valid, rfl⟩
  · exact ⟨rfl, rfl, rfl⟩

/-! ## Ticks -/

theorem getD_invalidated (m : AMap Reader) (r : Nat) :
    (AMap.getD (m.map fun ((k, x) : Nat × Reader) => (k, { x with valid := false })) r {}).valid = false := by
  unfold AMap.getD
  induction m with
  | nil => rfl
  | cons x m ih =>
    obtain ⟨k, x⟩ := x
    rw [List.map_cons]
    unfold AMap.get?
    split
    · rfl
    · exact ih

/-- A standstill tick below 0.10 m/s, as the servo shows it: no reader has a sample, and the speed is the reels'. -/
def unsampled (d : Int) (s : State) : State :=
  updSrv (fun v => { v with
    reverse := if d = 0 then v.reverse else decide (d < 0)
    speed := d * 256
    latValid := false, azValid := false, spanValid := false
    readers := v.readers.map fun (r, x) => (r, { x with valid := false }) }) s

/-- Such a tick before the loops: a valid clock follows the reels (R274). -/
def crept (d : Int) (s : State) : State :=
  if s.srv.valid then updSrv (fun v => { v with slowTravel := v.slowTravel + d.natAbs }) (advanceClock d.natAbs (unsampled d s))
  else unsampled d s

theorem crept_spec (d : Int) (s : State) :
    (crept d s).srv.speed = d * 256 ∧ (∀ r, (readerAt (crept d s) r).valid = false)
      ∧ (s.srv.valid = true → d < 0 → (crept d s).srv.clock = s.srv.clock - d.natAbs)
      ∧ (s.srv.valid = true → 0 < d → (crept d s).srv.clock = min (s.srv.clock + d.natAbs) (2 ^ 40 - 1))
      ∧ (s.srv.valid = true → (crept d s).srv.slowTravel = s.srv.slowTravel + d.natAbs) := by
  unfold crept
  by_cases valid : s.srv.valid = true
  · rw [if_pos valid]
    refine ⟨rfl, getD_invalidated s.srv.readers, fun _ back => ?_, fun _ forth => ?_, fun _ => rfl⟩
    · have reverse : (unsampled d s).srv.reverse = true := (if_neg back.ne).trans (decide_eq_true back)
      exact if_pos reverse
    · have forward : (unsampled d s).srv.reverse = false := (if_neg forth.ne').trans (decide_eq_false forth.le.not_gt)
      exact if_neg (ne_true_of_eq_false forward)
  · rw [if_neg valid]
    exact ⟨rfl, getD_invalidated s.srv.readers, fun v => absurd v valid, fun v => absurd v valid, fun v => absurd v valid⟩

/-- A slow standstill tick moves the clock by the reels' travel; the loops and the motion leave it there. -/
theorem runs_standstillTick {d : Int} {s : State} (ready : s.brd.ready = true) (slow : d.natAbs * 10 < 256) :
    Runs (.standstillTick d) s fun t => ClockKept (crept d s) t := by
  have run : exec (.standstillTick d) s = go (motionStep (d == 0) (servoTick 1 10000 false (crept d s))) := by
    show execStandstillTick d s = _
    unfold execStandstillTick
    simp only [ready, slow, Bool.true_eq_false, decide_true, if_false, if_true]
    rfl
  exact ⟨_, run, (ClockKept.of_frame (servoTick_frame ..) rfl rfl).trans (motionStep_clock ..)⟩

/-- The torques that a tick of TENSION mixes (R282). -/
theorem mix_torques (s : State) :
    (mix s).brd.torque0
        = sat 32 (roundTo (s.brd.radius0 * (2 * (loopAt s 1).out + if s.srv.reverse then (loopAt s 0).out else -(loopAt s 0).out)) 2000)
      ∧ (mix s).brd.torque1
        = sat 32 (roundTo (s.brd.radius1 * (2 * (loopAt s 1).out + if s.srv.reverse then -(loopAt s 0).out else (loopAt s 0).out)) 2000) := by
  unfold mix takeUpReel
  cases s.srv.reverse <;> exact ⟨rfl, rfl⟩

/-- The pin is on its way, in or out (R288). -/
def pinMoves (s : State) : Bool := s.brd.motion == .threading || (s.brd.motion == .unthreading && s.brd.phase == 1)

/-- The state on which THREAD's tick runs: while the pin moves, its set-point has been drawn. -/
def threadPoint (s : State) : State :=
  if pinMoves s then drawNext (updLoop 5 (fun x => { x with target := ofField 32 (drawn s), ramp := ofField 32 (drawn s) }) s) else s

theorem exec_threadTick {s : State} (ready : s.brd.ready = true) :
    exec .threadTick s = go (runLoop 5 (epAt s 2).position (epAt s 2).seen (if pinMoves s then 0 else roundTo (loopSlew s 5) 10)
      (threadPoint s)) := if_neg (ne_false_of_eq_true ready)

theorem threadPoint_spec (s : State) :
    (loopAt (threadPoint s) 5).mode = (loopAt s 5).mode ∧ ∀ n, n ≠ 5 → loopAt (threadPoint s) n = loopAt s n := by
  unfold threadPoint
  split
  · refine ⟨?_, fun n h => ?_⟩
    · rw [loopAt_of_brd (drawNext_brd _), loopAt_updLoop, if_pos rfl]
    · rw [loopAt_of_brd (drawNext_brd _), loopAt_updLoop, if_neg h]
  · exact ⟨rfl, fun _ _ => rfl⟩

/-- Settles O39: a frame's readers and clock are those of `clocked`, which the judgement, the loops and the motion leave; a word is
`wordTaken`; the loops' ticks are `runLoop`. -/
theorem servoFramesMoveTheTapeClock : Obligations.ServoFramesMoveTheTapeClock := by
  unfold Obligations.ServoFramesMoveTheTapeClock
  intro s
  refine ⟨?frame, ?word, ?expiry, ?resume, ?standstill, ?tension, ?thread⟩
  case frame =>
    intro f on decodable
    obtain ⟨t, run, kept, boxes⟩ := runs_servoFrame on decodable
    have readers := frame_readers kept
    refine ⟨t, run, ?_⟩
    dsimp only
    rw [readers_of_samples readers]
    refine ⟨fun r hr => ?_, ?_, frame_speed kept, fun c mean => frame_clock kept mean, frame_flywheels kept, fun slot fresh due => ?_⟩
    · rw [readerAt_of_samples readers hr]
      exact ⟨fun n d up seen => sampleReader_seen up seen, sampleReader_unseen⟩
    · rw [frame_missed kept, missedOf_eq readers]
    · obtain ⟨m, posted, is⟩ := judged_posts slot fresh due
      exact ⟨m, (congrArg Boxes.wrv boxes ▸ posted : m ∈ t.boxes.wrv), is⟩
  case word =>
    rintro r w n _ hr on parsed rfl
    have run := exec_word hr on parsed
    refine ⟨fun free next => ?_, fun free first => ?_, fun locked agrees => ?_, fun locked strays first => ?_, fun locked strays second => ?_⟩
    · obtain ⟨clock, valid, lock⟩ := clockValid_srv (updSrv (fun v => { v with lposLocked := true, flywheel := 0, slowTravel := 0 })
        (resetCount r (wordEnd s n) (noteWord r n (expectedBand s r) s)))
      rw [wordTaken, if_pos free, if_pos next] at run
      exact ⟨_, run, clock, valid, lock⟩
    · rw [wordTaken, if_pos free, if_neg first] at run
      refine ⟨_, run, rfl, free, ?_, ?_⟩ <;> rw [noteWord, readerAt_updReader]
    · rw [wordTaken, if_neg (ne_false_of_eq_true locked), if_pos agrees] at run
      exact ⟨_, run, rfl, by rw [readerAt_updReader], rfl⟩
    · rw [wordTaken, if_neg (ne_false_of_eq_true locked), if_neg strays, if_neg first] at run
      exact ⟨_, run, rfl, by rw [readerAt_updReader], (ctr_inc ..).trans (if_pos rfl)⟩
    · rw [wordTaken, if_neg (ne_false_of_eq_true locked), if_neg strays, if_pos second] at run
      exact ⟨_, run, jump_posted r n s⟩
  case expiry =>
    intro valid beyond
    exact ⟨updSrv (fun v => { v with valid := false, lposLocked := false }) s, if_pos ⟨valid, beyond⟩, rfl⟩
  case resume =>
    intro slot waits fresh steady
    have all : (((List.range 4).filter fun r => readerEnabled s r).all fun r => decide (Cfgw.resumeFrames s ≤ (readerAt s r).good)) = true := by
      simp only [List.all_eq_true, List.mem_filter, List.mem_range, decide_eq_true_eq]
      exact fun r h => steady r h.1 h.2
    refine ⟨post .wrv Src.servo 0x0001 0 s, if_pos ⟨waits, fresh, all⟩, ?_, (post_frame ..).same .wrv rfl⟩
    rw [post_of_slots slot, boxOf_setBox_self]
  case standstill =>
    intro d ready slow
    obtain ⟨t, run, kept⟩ := runs_standstillTick ready slow
    have readers : ∀ r, readerAt t r = readerAt (crept d s) r := fun r => kept.read (fun v => AMap.getD v.readers r {}) fun _ => rfl
    refine ⟨t, run, ?_⟩
    dsimp only
    rw [kept.read Srv.speed fun _ => rfl, kept.read Srv.clock fun _ => rfl, kept.read Srv.slowTravel fun _ => rfl]
    simp only [readers]
    exact crept_spec d s
  case tension =>
    intro ready
    obtain ⟨others, meas, measValid, -, hold, auto⟩ := runLoop_spec 1 (epAt s 0).aux (epAt s 0).seen (roundTo (loopSlew s 1) 20) s
    have mixed : ∀ u n, loopAt (mix u) n = loopAt u n := fun _ _ => rfl
    obtain ⟨torque0, torque1⟩ := mix_torques (runLoop 1 (epAt s 0).aux (epAt s 0).seen (roundTo (loopSlew s 1) 20) s)
    rw [others 0 (by decide)] at torque0 torque1
    refine ⟨_, if_neg (ne_false_of_eq_true ready), ?_⟩
    simp only [mixed]
    exact ⟨others, fun seen => ⟨meas seen, measValid.trans seen⟩, fun on seen => auto on seen rfl, hold, torque0, torque1⟩
  case thread =>
    intro ready
    obtain ⟨mode, others⟩ := threadPoint_spec s
    obtain ⟨kept, meas, -, off, -⟩ := runLoop_spec 5 (epAt s 2).position (epAt s 2).seen
      (if pinMoves s then 0 else roundTo (loopSlew s 5) 10) (threadPoint s)
    refine ⟨_, exec_threadTick ready, fun n h => (kept n h).trans (others n h), meas, fun idle => off (mode.trans idle)⟩

end Sys2Proof.Machine
end

/-! Faults of loops and endpoints, the ends of a reposition and of the pin's way, SHOCK_N, and the frames of the Actuator Links
(R205, R207, R283, R286 to R298). -/

section

namespace Sys2Proof.Machine

/-! ## The end of a reposition and of the pin's way (R288, R289) -/

/-- An entry of an owner with a free share stands in the table with its requester, and the Bridle is unchanged. -/
theorem postSched_stands {k o p q a : Nat} {d : Bool} {s : State} (share : ownedBy s o < schedShare o) :
    (postSched k o p d q a s).2.brd = s.brd
      ∧ ∃ i e, AMap.get? (postSched k o p d q a s).2.srv.sched i = some e ∧ e.kind = k ∧ e.pos = p ∧ e.dir = d ∧ e.recipient = q := by
  unfold postSched
  rw [if_neg (not_le.mpr share)]
  exact ⟨rfl, _, _, AMap.get?_set_self .., rfl, rfl, rfl, rfl⟩

theorem loopAt_updBrd {f : Brd → Brd} {s : State} (h : (f s.brd).loops = s.brd.loops) (n : Nat) : loopAt (updBrd f s) n = loopAt s n :=
  congrArg (fun m => AMap.getD m n ({} : Loop)) h

theorem loopAt_moveHead (k : Int) (n : Nat) (s : State) : loopAt (moveHead k s) n = loopAt s n := rfl

theorem loopAt_rampSpeed (v : Nat) (d : Bool) (k n : Nat) (s : State) :
    loopAt (rampSpeed v d k s) n = if n = 0 then { loopAt s 0 with target := speedUnits v d, newTarget := true } else loopAt s n :=
  loopAt_updLoop ..

/-- The tape has been threaded: TENSION and SPEED are asked for AUTO at the tension of a run. -/
def tightened (s : State) : State :=
  autoLoop 0 (autoLoop 1 (setTarget 1 (Cfgw.tensionNominal s)
    (each (fun e s => updEp e (fun x => { x with cmd := 3 }) s) [0, 1] (disableLoop 5 s))))

/-- The lateral loops are asked for AUTO at wrap 0, to which the stepper moves the head. -/
def centred (s : State) : State :=
  autoLoop 4 (autoLoop 3 (autoLoop 2 (takeWrap 0 (moveHead Config.parkSteps (updBrd (fun b => { b with parkCount := (epAt s 4).position }) s)))))

theorem exec_threadComplete {s : State} (threading : s.brd.motion = .threading) :
    exec .threadComplete s = go (rampSpeed 128 false (Cfgw.speedSlew s)
      (updBrd (fun b => { b with motion := .running, runReverse := false, parked := false }) (centred (tightened s)))) := by
  show execThreadComplete s = _
  unfold execThreadComplete
  rw [threading]
  rfl

theorem loopAt_tightened (s : State) (n : Nat) :
    (loopAt (tightened s) 1).target = Cfgw.tensionNominal s
      ∧ (n = 0 ∨ n = 1 → (loopAt s n).mode = .off → (loopAt (tightened s) n).mode = .manual ∧ (loopAt (tightened s) n).wantAuto = true)
      ∧ (1 < n → n < 5 → loopAt (tightened s) n = loopAt s n) := by
  unfold tightened
  have base : ∀ m, m < 5 → loopAt (each (fun e s => updEp e (fun x => { x with cmd := 3 }) s) [0, 1] (disableLoop 5 s)) m = loopAt s m :=
    fun m h => by rw [loopAt_each_updEp, loopAt_disableLoop, if_neg fun k => by omega]
  refine ⟨?_, ?_, fun h k => ?_⟩
  · simp only [loopAt_autoLoop, loopAt_setTarget, if_true, one_ne_zero, if_false]
    split <;> rfl
  · rintro (rfl | rfl) off <;> simp [loopAt_autoLoop, loopAt_setTarget, base, off]
  · rw [loopAt_autoLoop, if_neg (by omega), loopAt_autoLoop, if_neg (by omega), loopAt_setTarget, if_neg (by omega), base n k]

theorem loopAt_centred (s : State) (n : Nat) :
    (n < 2 → loopAt (centred s) n = loopAt s n)
      ∧ (1 < n → n < 5 → (loopAt s n).mode = .off → (loopAt (centred s) n).mode = .manual ∧ (loopAt (centred s) n).wantAuto = true) := by
  unfold centred
  have parked : ∀ m, loopAt (updBrd (fun b => { b with parkCount := (epAt s 4).position }) s) m = loopAt s m := fun _ => rfl
  refine ⟨fun h => ?_, fun h k off => ?_⟩
  · simp only [loopAt_autoLoop, loopAt_takeWrap, loopAt_moveHead, parked]
    rw [if_neg (by omega), if_neg (by omega), if_neg (by omega), if_neg (by omega)]
  · interval_cases n <;> simp [loopAt_autoLoop, loopAt_takeWrap, loopAt_moveHead, parked, off]

theorem takeWrap_wrap (w : Nat) (s : State) : (takeWrap w s).srv.wrap = w := rfl

theorem centred_wrap (s : State) : (centred s).srv.wrap = 0 := by
  unfold centred
  rw [(autoLoop_frame ..).same .srv rfl, (autoLoop_frame ..).same .srv rfl, (autoLoop_frame ..).same .srv rfl, takeWrap_wrap]

/-- The pin in the machine reel starts the loops for wrap 0. -/
theorem runs_threaded {s : State} (threading : s.brd.motion = .threading) :
    Runs .threadComplete s fun t =>
      t.brd.motion = .running ∧ t.brd.parked = false ∧ t.srv.wrap = 0 ∧ (loopAt t 0).target = speedUnits 128 false
        ∧ (loopAt t 1).target = Cfgw.tensionNominal s
        ∧ ∀ n, n < 5 → (loopAt s n).mode = .off → (loopAt t n).mode = .manual ∧ (loopAt t n).wantAuto = true := by
  have reels := loopAt_tightened s
  have lateral := loopAt_centred (tightened s)
  have wrap := centred_wrap (tightened s)
  refine ⟨_, exec_threadComplete threading, ?_⟩
  generalize centred (tightened s) = u at lateral wrap
  refine ⟨rfl, rfl, wrap, ?_, ?_, fun n h off => ?_⟩
  · rw [loopAt_rampSpeed, if_pos rfl]
  · rw [loopAt_rampSpeed, if_neg one_ne_zero, loopAt_updBrd rfl, (lateral 1).1 one_lt_two, (reels 1).1]
  · have asked : (loopAt u n).mode = .manual ∧ (loopAt u n).wantAuto = true := by
      by_cases reel : n < 2
      · rw [(lateral n).1 reel]
        exact (reels n).2.1 (by omega) off
      · exact (lateral n).2 (by omega) h (by rw [(reels n).2.2 (by omega) h]; exact off)
    rw [loopAt_rampSpeed]
    split
    · next zero => subst zero; exact asked
    · exact asked

/-- Back in the cartridge every loop that is not in FAULT is off. -/
theorem runs_unthreaded {s : State} (unthreading : s.brd.motion = .unthreading) (rewound : s.brd.phase ≠ 0) :
    Runs .threadComplete s fun t =>
      t.brd.motion = .unthreaded ∧ t.brd.parked = true
        ∧ ∀ n, n < 6 → (loopAt s n).mode ≠ .fault → (loopAt t n).mode = .off ∧ (loopAt t n).out = 0 := by
  have run : exec .threadComplete s = go (updBrd (fun b => { b with
        motion := .unthreaded, phase := 0, parked := true, stepMove := none, stepTo := some b.parkCount })
      (each (fun e s => updEp e (fun x => { x with cmd := 4 }) s) [0, 1] (each disableLoop [0, 1, 2, 3, 4, 5] s))) := by
    show execThreadComplete s = _
    unfold execThreadComplete
    rw [unthreading]
    exact if_neg rewound
  have off : ∀ n, n < 6 → (loopAt s n).mode ≠ .fault →
      loopAt (each (fun e s => updEp e (fun x => { x with cmd := 4 }) s) [0, 1] (each disableLoop [0, 1, 2, 3, 4, 5] s)) n
        = { loopAt s n with mode := .off, out := 0, wantAuto := false } := fun n h sound => by
    have all : n ∈ [0, 1, 2, 3, 4, 5] := by interval_cases n <;> decide
    rw [loopAt_each_updEp, loopAt_each_disableLoop, if_pos ⟨all, sound⟩]
  refine ⟨_, run, ?_⟩
  generalize each (fun e s => updEp e (fun x => { x with cmd := 4 }) s) [0, 1] (each disableLoop [0, 1, 2, 3, 4, 5] s) = u at off
  refine ⟨rfl, rfl, fun n h sound => ?_⟩
  rw [loopAt_updBrd rfl, off n h sound]
  exact ⟨rfl, rfl⟩

/-! ## SHOCK_N (R205, R207) -/

/-- A post of the motor I/O is the last entry of MB_WRV, and changes nothing of the servo. -/
theorem shock_posted (f : Srv → Srv) (clock : ∀ v, (f v).clock = v.clock) (code : Nat) (s : State) :
    (post .wrv Src.act code 0 (updSrv f s)).srv = f s.srv
      ∧ (hasSlots .wrv Src.act 1 s = true → boxOf (post .wrv Src.act code 0 (updSrv f s)) .wrv = boxOf s .wrv ++ [mail Src.act code 0 s]) := by
  refine ⟨(post_frame ..).same .srv rfl, fun slot => ?_⟩
  have slot' : hasSlots .wrv Src.act 1 (updSrv f s) = true := slot
  rw [post_of_slots slot', boxOf_setBox_self]
  exact congrArg (fun c => s.boxes.wrv ++ [⟨c, Src.act, code, 0⟩]) (clock s.srv)

/-! ## Frames of the Actuator Links (R293, R295, R298) -/

/-- ENABLE and DISABLE are commanded in one frame. -/
def commanded (x : Endpoint) : Endpoint := { x with cmd := if x.cmd = 3 ∨ x.cmd = 4 then 0 else x.cmd }

theorem commanded_cmd {x : Endpoint} (h : x.cmd = 3 ∨ x.cmd = 4) : (commanded x).cmd = 0 := if_pos h

theorem commanded_idem (x : Endpoint) : commanded (commanded x) = commanded x := by
  unfold commanded
  by_cases h : x.cmd = 3 ∨ x.cmd = 4 <;> simp [h]

/-- A command frame is sent: its link keeps it and counts it, and what was asked for once has been asked. -/
theorem runs_actFrameSend {l : Nat} {s : State} (hl : l < 2) (sends : linksSend s = true) (on : domOn s 29 = true) :
    Runs (.actFrameSend l) s fun t =>
      AMap.getD t.brd.links l {} = { AMap.getD s.brd.links l {} with seq := ((AMap.getD s.brd.links l {}).seq + 1) % 256, lastFrame := actFrame s l }
        ∧ ∀ k, k < 3 → epAt t (l * 3 + k) = commanded (epAt s (l * 3 + k)) := by
  obtain ⟨eps, sent, asked⟩ := each_updEp commanded commanded_idem [l * 3, l * 3 + 1, l * 3 + 2]
    (updBrd (fun b => { b with links := modAt b.links l {} fun x => { x with seq := (x.seq + 1) % 256, lastFrame := actFrame s l } }) s)
  have run : exec (.actFrameSend l) s = go (updBrd (fun b => { b with endpoints := eps })
      (updBrd (fun b => { b with links := modAt b.links l {} fun x => { x with seq := (x.seq + 1) % 256, lastFrame := actFrame s l } }) s)) := by
    rw [← sent]
    exact if_neg (by simp [hl, sends, on])
  refine ⟨_, run, AMap.getD_set_self .., fun k hk => (asked _).trans (if_pos ?_)⟩
  interval_cases k <;> simp

/-! ## Status frames (R298) -/

/-- A status frame as it may be used: whole, with its CRC. -/
def frameGood (f : Bytes) : Bool := f.length == 74 && beAt f 72 2 == crc16 (f.take 72)

theorem frameGood_iff (f : Bytes) : frameGood f = true ↔ f.length = 74 ∧ beAt f 72 2 = crc16 (f.take 72) := by
  simp [frameGood]

/-- A field of a slot, as it stands in the frame. -/
theorem beAt_slice {f : Bytes} {i n j m o : Nat} (within : j + m ≤ n) (at_ : i + j = o) : beAt (slice f i n) j m = beAt f o m := by
  unfold beAt slice
  rw [← at_, List.drop_take, List.drop_drop, List.take_take, Nat.min_eq_left (by omega)]

section Status

variable (l k : Nat) (good : Bool) (b : Bytes) (s : State)

theorem takeStatus_good (valid : statusValid (l * 3 + k) b = true) :
    let x := epAt (takeStatus l k true b s) (l * 3 + k)
    x.missing = 0 ∧ x.seen = true ∧ x.status = bits (beAt b 1 1) 4 0 ∧ x.position = ofField 32 (beAt b 2 4) ∧ x.aux = beAt b 8 2 := by
  intro x
  have taken : x = _ := (congrArg (fun t => epAt t (l * 3 + k)) (if_pos ⟨rfl, valid⟩)).trans (AMap.getD_set_self ..)
  rw [taken]
  exact ⟨rfl, rfl, rfl, rfl, rfl⟩

theorem takeStatus_bad (bad : ¬(good = true ∧ statusValid (l * 3 + k) b = true)) :
    epAt (takeStatus l k good b s) (l * 3 + k) = { epAt s (l * 3 + k) with missing := (epAt s (l * 3 + k)).missing + 1 } :=
  (congrArg (fun t => epAt t (l * 3 + k)) (if_neg bad)).trans (AMap.getD_set_self ..)

theorem takeStatus_other {e : Nat} (h : e ≠ l * 3 + k) : epAt (takeStatus l k good b s) e = epAt s e := by
  unfold takeStatus
  dsimp only
  split <;> exact AMap.getD_set_of_ne _ _ _ h.symm

theorem takeStatus_crcErrors :
    (AMap.getD (takeStatus l k good b s).brd.links l {}).crcErrors = (AMap.getD s.brd.links l {}).crcErrors := by
  unfold takeStatus
  dsimp only
  split <;> simp only [updBrd_brd, modAt, AMap.getD_set_self]

/-- What a slot makes of its endpoint depends on the endpoint alone. -/
theorem takeStatus_congr {s u : State} (h : epAt u (l * 3 + k) = epAt s (l * 3 + k)) :
    epAt (takeStatus l k good b u) (l * 3 + k) = epAt (takeStatus l k good b s) (l * 3 + k) := by
  unfold takeStatus
  dsimp only
  rw [h]
  split <;> exact (AMap.getD_set_self ..).trans (AMap.getD_set_self ..).symm

end Status

/-- The slots of a frame in turn. -/
def takeSlots (l : Nat) (good : Bool) (f : Bytes) (s : State) : State :=
  each (fun k s => takeStatus l k good (slice f (8 + 16 * k) 16) s) [0, 1, 2] s

/-- Each endpoint takes the status of its own slot. -/
theorem epAt_takeSlots (l : Nat) (good : Bool) (f : Bytes) (s : State) {k : Nat} (hk : k < 3) :
    epAt (takeSlots l good f s) (l * 3 + k) = epAt (takeStatus l k good (slice f (8 + 16 * k) 16) s) (l * 3 + k) := by
  unfold takeSlots
  simp only [each, List.foldl_cons, List.foldl_nil]
  interval_cases k
  · rw [takeStatus_other (h := by omega), takeStatus_other (h := by omega)]
  · rw [takeStatus_other (h := by omega)]
    exact takeStatus_congr _ _ _ _ (takeStatus_other (h := by omega) ..)
  · refine takeStatus_congr _ _ _ _ ?_
    rw [takeStatus_other (h := by omega), takeStatus_other (h := by omega)]

theorem takeSlots_crcErrors (l : Nat) (good : Bool) (f : Bytes) (s : State) :
    (AMap.getD (takeSlots l good f s).brd.links l {}).crcErrors = (AMap.getD s.brd.links l {}).crcErrors := by
  simp only [takeSlots, each, List.foldl_cons, List.foldl_nil, takeStatus_crcErrors]

/-- A frame with a bad CRC is counted before its slots are looked at. -/
def countBad (l : Nat) (good : Bool) (s : State) : State :=
  if good then s
  else updBrd (fun b => { b with links := modAt b.links l {} fun l => { l with crcErrors := min (l.crcErrors + 1) 0xFFFF } }) s

theorem epAt_countBad (l : Nat) (good : Bool) (s : State) (e : Nat) : epAt (countBad l good s) e = epAt s e := by
  unfold countBad
  split <;> rfl

theorem countBad_crcErrors (l : Nat) (s : State) :
    (AMap.getD (countBad l false s).brd.links l {}).crcErrors = min ((AMap.getD s.brd.links l {}).crcErrors + 1) 0xFFFF :=
  congrArg ActLink.crcErrors (AMap.getD_set_self ..)

theorem exec_actStatusReceive {l : Nat} {s : State} (hl : l < 2) (ready : s.brd.ready = true) (f : Bytes) :
    exec (.actStatusReceive l f) s = go (takeSlots l (frameGood f) f (countBad l (frameGood f) s)) :=
  if_neg (by simp [hl, ready])

/-- Settles O40: a fault is `faultLoop`, whose laws say what it leaves; the pin's two ends, the frames and their slots have their own
lemmas above. -/
theorem loopFaultsStopTheTape : Obligations.LoopFaultsStopTheTape := by
  unfold Obligations.LoopFaultsStopTheTape
  intro s
  refine ⟨?following, ?endpoint, ?settled, fun threading => runs_threaded threading, fun out rewound => runs_unthreaded out rewound,
    ?asserted, ?released, ?command, ?status⟩
  case following =>
    intro n hn auto begun late
    obtain ⟨-, mode, out, count, eps, box, stop⟩ := faultLoop_spec n 0xFF (inc 0x0D0080 s)
    refine ⟨faultLoop n 0xFF (inc 0x0D0080 s), if_pos ⟨hn, auto, begun, late⟩, mode, out, ?_, box, fun e he => (eps e).2 he, stop⟩
    exact count.trans ((ctr_inc ..).trans (if_pos rfl))
  case endpoint =>
    intro e he sound faulty
    obtain ⟨flag, -, runs⟩ := each_faultLoop e ((List.range 6).filter fun n => (loopEndpoints n).contains e)
      (updEp e (fun x => { x with fault := true }) s)
    refine ⟨_, if_neg (by simp [he, sound, faulty]), ?_, fun n hn drives running => runs n ?_ running⟩
    · exact (flag e).trans (congrArg Endpoint.fault ((epAt_updEp ..).trans (if_pos rfl)))
    · simp [hn, drives]
  case settled =>
    intro r repos motion step steady share
    obtain ⟨brd, entry⟩ := postSched_stands (k := Kind.settled) (p := s.srv.clock) (d := s.srv.reverse) (q := r.requester) (a := 0)
      (s := updBrd (fun b => { b with motion := .running, repos := none }) s) share
    refine ⟨_, ?_, brd, entry⟩
    show execSpeedSettled s = _
    unfold execSpeedSettled
    rw [repos]
    exact if_pos ⟨motion, step, steady⟩
  case asserted =>
    intro idle
    exact ⟨_, if_neg (ne_true_of_eq_false idle), shock_posted (fun v => { v with shockPin := true }) (fun _ => rfl) 0x8002 s⟩
  case released =>
    intro held
    exact ⟨_, if_pos held, shock_posted (fun v => { v with shockPin := false }) (fun _ => rfl) 0x0002 s⟩
  case command =>
    intro l hl sends on
    obtain ⟨t, run, link, asked⟩ := runs_actFrameSend hl sends on
    obtain ⟨length, crc, seq, slots⟩ := actFrame_spec s l
    rw [Nat.mul_comm 3 l]
    refine ⟨t, run, ?_⟩
    dsimp only
    rw [link]
    refine ⟨length, crc, seq, rfl, fun k hk => ?_⟩
    obtain ⟨type, command⟩ := slots k hk
    exact ⟨type, command, fun once => (congrArg Endpoint.cmd (asked k hk)).trans (commanded_cmd once)⟩
  case status =>
    intro l f k hl hk ready
    rw [Nat.mul_comm 3 l]
    refine ⟨_, exec_actStatusReceive hl ready f, fun whole crc valid => ?_, fun bad => ?_, fun bad => ?_⟩
    · rw [(frameGood_iff f).mpr ⟨whole, crc⟩, epAt_takeSlots _ _ _ _ hk]
      obtain ⟨missing, seen, status, position, aux⟩ := takeStatus_good l k (slice f (8 + 16 * k) 16) (countBad l true s) valid
      exact ⟨missing, seen, status.trans (congrArg (bits · 4 0) (beAt_slice (by omega) (by omega))),
        position.trans (congrArg (ofField 32) (beAt_slice (by omega) (by omega))), aux.trans (beAt_slice (by omega) (by omega))⟩
    · rw [epAt_takeSlots _ _ _ _ hk, takeStatus_bad, epAt_countBad]
      rw [frameGood_iff, ← Bool.not_eq_false]
      tauto
    · have broken : frameGood f = false := by
        rw [Bool.eq_false_iff, ne_eq, frameGood_iff]
        tauto
      rw [broken, takeSlots_crcErrors, countBad_crcErrors]

end Sys2Proof.Machine
end

/-! The entries of MB_BRIDLE (R207, R283 to R290, R299): each acts on the state that the entry's taking leaves, which is the state but
for the mailboxes. -/

section

namespace Sys2Proof.Machine

/-! ## Speeds (R299) -/

theorem rampSpeed_target (v : Nat) (d : Bool) (k : Nat) (s : State) :
    (loopAt (rampSpeed v d k s) 0).target = speedUnits v d ∧ (rampSpeed v d k s).brd.slew = k :=
  ⟨congrArg Loop.target ((loopAt_rampSpeed ..).trans (if_pos rfl)), rfl⟩

/-- While the tape runs, SPEED's target follows the kept speed under the ceiling. -/
theorem applySpeed_running {s : State} (h : s.brd.motion = .running) :
    (loopAt (applySpeed s) 0).target = speedUnits (min s.brd.kept s.brd.ceiling) s.brd.runReverse
      ∧ (applySpeed s).brd.slew = Cfgw.speedSlew s := by
  rw [applySpeed, if_pos h]
  exact rampSpeed_target ..

theorem applySpeed_stopped {s : State} (h : s.brd.motion = .stopped) : applySpeed s = s := by
  rw [applySpeed, if_neg (by simp [h]), if_neg (by simp [h])]

/-- A speed applied changes no more of the Bridle than SPEED's loop and its slew. -/
theorem applySpeed_keeps (s : State) :
    (applySpeed s).brd.kept = s.brd.kept ∧ (applySpeed s).brd.ceiling = s.brd.ceiling ∧ (applySpeed s).boxes = s.boxes := by
  unfold applySpeed
  split
  · exact ⟨rfl, rfl, rfl⟩
  · split <;> exact ⟨rfl, rfl, rfl⟩

theorem speedUnits_zero (d : Bool) : speedUnits 0 d = 0 := by cases d <;> rfl

/-- A speed target is kept, and while the tape runs is SPEED's under the ceiling. -/
theorem speedTarget_kept (v : Nat) (s : State) :
    let t := applySpeed (updBrd (fun b => { b with kept := v }) s)
    t.brd.kept = v ∧ t.boxes = s.boxes
      ∧ (s.brd.motion = .running → (loopAt t 0).target = speedUnits (min v s.brd.ceiling) s.brd.runReverse ∧ t.brd.slew = Cfgw.speedSlew s)
      ∧ (s.brd.motion = .stopped → t.brd.loops = s.brd.loops) := by
  obtain ⟨kept, -, boxes⟩ := applySpeed_keeps (updBrd (fun b => { b with kept := v }) s)
  refine ⟨kept, boxes, fun running => ?_, fun stopped => ?_⟩
  · exact applySpeed_running (s := updBrd (fun b => { b with kept := v }) s) running
  · exact congrArg (fun t => t.brd.loops) (applySpeed_stopped (s := updBrd (fun b => { b with kept := v }) s) stopped)

/-- A ceiling limits the kept target while the tape runs. -/
theorem speedCeiling_set (v : Nat) (s : State) :
    let t := applySpeed (updBrd (fun b => { b with ceiling := v }) s)
    t.brd.ceiling = v ∧ t.brd.kept = s.brd.kept
      ∧ (s.brd.motion = .running → (loopAt t 0).target = speedUnits (min s.brd.kept v) s.brd.runReverse) := by
  obtain ⟨kept, ceiling, -⟩ := applySpeed_keeps (updBrd (fun b => { b with ceiling := v }) s)
  refine ⟨ceiling, kept, fun running => ?_⟩
  exact (applySpeed_running (s := updBrd (fun b => { b with ceiling := v }) s) running).1

/-! ## Moves asked for (R289, R299) -/

theorem requestMove_held {s : State} (opened : s.wrv.windowOpen = true) (r : Option Repos) :
    (requestMove r s).brd = { s.brd with heldRepos := some r } := congrArg State.brd (if_pos opened)

section Running

variable {s : State} (closed : s.wrv.windowOpen = false) (running : s.brd.motion = .running) (going : s.brd.stop = none)
include closed running going

/-- A running tape that no stop has begun to stop is parked by a ramp of SPEED to 0. -/
theorem requestMove_park :
    let t := requestMove none s
    t.brd.motion = .stopping ∧ t.brd.repos = none ∧ (loopAt t 0).target = 0 ∧ t.brd.slew = Cfgw.speedSlew s := by
  have moved : requestMove none s = startPark s := by
    unfold requestMove
    rw [if_neg (ne_true_of_eq_false closed), running, going]
    rfl
  rw [moved]
  exact ⟨rfl, rfl, (rampSpeed_target ..).1.trans (speedUnits_zero _), rfl⟩

theorem requestMove_repos (r : Repos) : requestMove (some r) s = startRepos r s := by
  unfold requestMove
  rw [if_neg (ne_true_of_eq_false closed), running, going]
  rfl

end Running

/-! ## LOOP_MODE (R283) -/

/-- What LOOP_MODE does to a loop that is not in FAULT. -/
def switchLoop (n mode value : Nat) (s : State) : State :=
  if mode = 0 then disableLoop n s
  else if mode = 1 then updLoop n (fun x => { x with mode := .manual, wantAuto := false, manual := ofField 16 value }) (enableLoop n s)
  else if mode = 2 then autoLoop n s
  else s

theorem switchLoop_other {n m : Nat} (h : m ≠ n) (mode value : Nat) (s : State) : loopAt (switchLoop n mode value s) m = loopAt s m := by
  unfold switchLoop
  split
  · rw [loopAt_disableLoop, if_neg fun k => h k.1]
  · split
    · rw [loopAt_updLoop, if_neg h, loopAt_enableLoop, if_neg fun k => h k.1]
    · split
      · rw [loopAt_autoLoop, if_neg h]
      · rfl

theorem switchLoop_off {n : Nat} {s : State} (sound : (loopAt s n).mode ≠ .fault) (value : Nat) :
    (loopAt (switchLoop n 0 value s) n).mode = .off ∧ (loopAt (switchLoop n 0 value s) n).out = 0 := by
  rw [switchLoop, if_pos rfl, loopAt_disableLoop, if_pos ⟨rfl, sound⟩]
  exact ⟨rfl, rfl⟩

theorem switchLoop_manual (n value : Nat) (s : State) :
    (loopAt (switchLoop n 1 value s) n).mode = .manual ∧ (loopAt (switchLoop n 1 value s) n).manual = ofField 16 value := by
  rw [switchLoop, if_neg one_ne_zero, if_pos rfl, loopAt_updLoop, if_pos rfl]
  exact ⟨rfl, rfl⟩

theorem autoLoop_asked {n : Nat} {s : State} (h : (loopAt s n).mode = .off ∨ (loopAt s n).mode = .manual) :
    (loopAt (autoLoop n s) n).mode = .manual ∧ (loopAt (autoLoop n s) n).wantAuto = true := by
  rw [loopAt_autoLoop, if_pos rfl]
  obtain off | manual := h
  · rw [if_pos off]
    exact ⟨rfl, rfl⟩
  · rw [if_neg (by simp [manual])]
    exact ⟨manual, by simp [manual]⟩

/-! ## CLEAR_FAULTS (R207, R283) -/

/-- The loops in FAULT. -/
def faulted (s : State) : List Nat := (List.range 6).filter fun n => (loopAt s n).mode == .fault

/-- The loops in FAULT are off, their endpoints released, and no stop is in progress. -/
def faultsCleared (s : State) : State :=
  updBrd (fun b => { b with stop := none, motion := if b.motion = .stopping then .stopped else b.motion })
    (each (fun n s => each (fun e s => updEp e (fun x => { x with cmd := 0 }) s) (loopEndpoints n)
      (updLoop n (fun x => { x with mode := .off, out := 0, fe := 0 }) s)) (faulted s) s)

theorem mem_faulted {s : State} {n : Nat} (h : n < 6) (fault : (loopAt s n).mode = .fault) : n ∈ faulted s := by
  simp [faulted, h, fault]

/-- What CLEAR_FAULTS does. -/
def clearFaults (s : State) : State :=
  if tapeAtRest s = false ∨ faulted s = [] then s else post .wrv Src.bridle 0x0003 0 (faultsCleared s)

/-- CLEAR_FAULTS at rest: the loops in FAULT are off, no stop is in progress, and the cleared cause is the last entry of MB_WRV. -/
theorem clearFaults_spec {s : State} (rest : tapeAtRest s = true) (fault : ∃ n, n < 6 ∧ (loopAt s n).mode = .fault) :
    let t := clearFaults s
    (∀ n, n < 6 → (loopAt s n).mode = .fault → (loopAt t n).mode = .off ∧ (loopAt t n).fe = 0) ∧ t.brd.stop = none
      ∧ (hasSlots .wrv Src.bridle 1 s = true → boxOf t .wrv = boxOf s .wrv ++ [mail Src.bridle 0x0003 0 s]) := by
  obtain ⟨n, known, mode⟩ := fault
  have found : faulted s ≠ [] := List.ne_nil_of_mem (mem_faulted known mode)
  have posts : clearFaults s = post .wrv Src.bridle 0x0003 0 (faultsCleared s) := if_neg (by simp [rest, found])
  have brd : (clearFaults s).brd = (faultsCleared s).brd := by
    rw [posts]
    exact (post_frame ..).same .brd rfl
  obtain ⟨off, -, boxes, srv⟩ := each_release (faulted s) s
  refine ⟨fun n h fault => ?_, congrArg Brd.stop brd, fun slot => ?_⟩
  · rw [loopAt_of_brd brd]
    exact off n (.inl (mem_faulted h fault))
  · have box : boxOf (faultsCleared s) .wrv = boxOf s .wrv := congrArg Boxes.wrv boxes
    rw [posts, post_of_slots ((hasSlots_congr box ..).trans slot), boxOf_setBox_self, box]
    exact congrArg (fun c => boxOf s .wrv ++ [⟨c, Src.bridle, 0x0003, 0⟩]) (congrArg Srv.clock srv)

/-- A post that follows the taking of an event of another mailbox stands as it would without it. -/
theorem Takes.posted_other {b c : Box} {src code arg p : Nat} {s : State} {bx : Boxes} {l : List Mail} {m : Mail}
    (taken : Takes b src code arg s { s with boxes := bx }) (other : c ≠ b)
    (posted : hasSlots c p 1 { s with boxes := bx } = true → l = boxOf { s with boxes := bx } c ++ [m]) (slot : hasSlots c p 1 s = true) :
    l = boxOf s c ++ [m] := by
  have box := taken.other_box other
  rw [← box]
  exact posted ((hasSlots_congr box ..).trans slot)

/-! ## Wraps, threading and unthreading (R287, R288) -/

/-- The Bridle knows its next wrap, and on a running tape posts the turnaround toward it. -/
def selectWrap (w : Nat) (s : State) : State :=
  let t := cancelKind Kind.turnaround 3 (updBrd (fun b => { b with nextWrap := w }) s)
  if s.brd.motion = .running ∧ w ≠ s.srv.wrap then
    schedule Kind.turnaround 3 ((if s.brd.runReverse then 99000 else 11901000) * 256) s.brd.runReverse 0 t
  else t

theorem selectWrap_brd (w : Nat) (s : State) : (selectWrap w s).brd = { s.brd with nextWrap := w } := by
  unfold selectWrap
  dsimp only
  split
  · exact (schedule_frame ..).same .brd rfl
  · rfl

theorem selectWrap_schedules {w : Nat} {s : State} (running : s.brd.motion = .running) (other : w ≠ s.srv.wrap) (share : ownedBy s 3 < 512) :
    Scheduled (selectWrap w s) Kind.turnaround 3 ((if s.brd.runReverse then 99000 else 11901000) * 256) 0 := by
  rw [selectWrap, if_pos ⟨running, other⟩]
  exact schedule_stands ((ownedBy_cancelKind_le ..).trans_lt share)

/-- Asking a loop for AUTO changes nothing of the Bridle's motion, nor of the servo. -/
theorem autoLoop_keeps (n : Nat) (s : State) :
    (autoLoop n s).brd.motion = s.brd.motion ∧ (autoLoop n s).brd.trim = s.brd.trim ∧ (autoLoop n s).srv = s.srv := by
  refine ⟨?_, ?_, (autoLoop_frame ..).same .srv rfl⟩ <;>
  · unfold autoLoop enableLoop
    split <;> rfl

/-- The threading begins: its motion and the threader loop. -/
def beginThread (s : State) : State :=
  autoLoop 5 (updSrv (fun v => { v with wrap := 0 })
    (updBrd (fun b => { b with motion := .threading, trim := 0, nextWrap := 0, latOffset := 0, phase := 0 }) s))

theorem beginThread_spec (s : State) :
    (beginThread s).brd.motion = .threading ∧ (beginThread s).brd.trim = 0 ∧ (beginThread s).srv.wrap = 0
      ∧ ((loopAt s 5).mode = .off → (loopAt (beginThread s) 5).mode = .manual ∧ (loopAt (beginThread s) 5).wantAuto = true) := by
  obtain ⟨motion, trim, srv⟩ := autoLoop_keeps 5 (updSrv (fun v => { v with wrap := 0 })
    (updBrd (fun b => { b with motion := .threading, trim := 0, nextWrap := 0, latOffset := 0, phase := 0 }) s))
  exact ⟨motion, trim, congrArg Srv.wrap srv, fun off => autoLoop_asked (.inl off)⟩

/-- The unthreading begins: the tape is rewound. -/
def beginUnthread (s : State) : State :=
  rampSpeed (min 512 s.brd.ceiling) true (Cfgw.speedSlew s)
    (updBrd (fun b => { b with motion := .unthreading, phase := 0, repos := none, heldRepos := none, runReverse := true })
      (cancelKind Kind.turnaround 3 s))

theorem beginUnthread_spec (s : State) :
    (beginUnthread s).brd.motion = .unthreading ∧ (beginUnthread s).brd.phase = 0
      ∧ (loopAt (beginUnthread s) 0).target = speedUnits (min 512 s.brd.ceiling) true := ⟨rfl, rfl, (rampSpeed_target ..).1⟩

/-! ## The orderly stop (R290) -/

theorem orderly_begins {s : State} (going : s.brd.stop = none) (urgent : Bool) :
    let c := orderlyEnd urgent s
    (orderly urgent s).brd.stop = some ⟨.orderly, c, false⟩
      ∧ (hasSlots .fmt Src.bridle 1 s = true → boxOf (orderly urgent s) .fmt = boxOf s .fmt ++ [mail Src.bridle 0x8001 (c % 2 ^ 40) s])
      ∧ ctr (orderly urgent s) 0x0D0084 = satAdd (ctr s 0x0D0084) 1 := by
  intro c
  have begun : orderly urgent s = beginStop .orderly c s := by
    rw [orderly, going]
    rfl
  obtain ⟨brd, -, -, -, posted⟩ := beginStop_spec .orderly c s
  rw [begun]
  exact ⟨congrArg Brd.stop brd, posted, beginStop_counted .orderly c s going⟩

theorem orderly_again {s : State} (stopping : s.brd.stop.isSome = true) (urgent : Bool) : orderly urgent s = s := if_pos stopping

/-- Settles O41: every row but the unknown one is `boxTake` on its event (`runs_taken`), which changes the mailboxes alone; what each event
does is a lemma above or a law of its operation. -/
theorem theBridleFollowsItsEvents : Obligations.TheBridleFollowsItsEvents := by
  unfold Obligations.TheBridleFollowsItsEvents
  intro s src arg u
  refine ⟨?speed, ?park, ?repos, ?lateral, ?wrap, ?thread, ?unthread, ?ceiling, ?mode, ?clear, ?stop, ?unknown⟩
  case speed =>
    intro taken
    refine runs_taken rfl taken ?_
    rintro bx rfl
    exact speedTarget_kept (bits arg 9 0) { s with boxes := bx }
  case park =>
    intro taken
    refine ⟨fun opened => runs_taken rfl taken fun bx _ => ?_, fun closed running going => runs_taken rfl taken fun bx _ => ?_⟩
    · exact requestMove_held (s := { s with boxes := bx }) opened none
    · exact requestMove_park (s := { s with boxes := bx }) closed running going
  case repos =>
    intro taken r
    refine ⟨fun opened => runs_taken rfl taken fun bx _ => ?_, fun closed running going => runs_taken rfl taken fun bx _ => ?_⟩
    · exact requestMove_held (s := { s with boxes := bx }) opened (some r)
    · have moved := requestMove_repos (s := { s with boxes := bx }) closed running going r
      exact moved ▸ startRepos_spec r { s with boxes := bx }
  case lateral =>
    intro taken
    refine runs_taken rfl taken fun bx _ => ⟨rfl, ?_⟩
    exact congrArg Loop.target ((loopAt_setTarget ..).trans (if_pos rfl))
  case wrap =>
    intro taken
    refine runs_taken rfl taken fun bx _ => ?_
    have brd := selectWrap_brd (bits arg 7 0) { s with boxes := bx }
    exact ⟨brd, fun running other share => selectWrap_schedules (s := { s with boxes := bx }) running other share⟩
  case thread =>
    intro taken unthreaded
    refine runs_taken rfl taken fun bx _ => ?_
    dsimp only
    rw [if_neg (not_not.mpr unthreaded)]
    exact beginThread_spec { s with boxes := bx }
  case unthread =>
    intro taken stopped
    refine runs_taken rfl taken fun bx _ => ?_
    dsimp only
    rw [stopped]
    exact beginUnthread_spec { s with boxes := bx }
  case ceiling =>
    intro taken
    exact runs_taken rfl taken fun bx _ => speedCeiling_set (bits arg 9 0) { s with boxes := bx }
  case mode =>
    intro taken known sound
    refine runs_taken rfl taken fun bx _ => ?_
    dsimp only
    rw [if_neg (by rintro (k | k); exacts [absurd known (not_lt.mpr k), sound k])]
    refine ⟨fun off => ?_, fun manual => ?_, fun auto from_ => ?_,
      fun n h => switchLoop_other h (bits arg 4 3) (bits arg 31 16) { s with boxes := bx }⟩
    · rw [off]
      exact switchLoop_off (s := { s with boxes := bx }) sound (bits arg 31 16)
    · rw [manual]
      exact switchLoop_manual ..
    · rw [auto]
      exact autoLoop_asked (s := { s with boxes := bx }) from_
  case clear =>
    intro taken rest faults
    refine runs_taken rfl taken ?_
    rintro bx rfl
    obtain ⟨off, stop, posted⟩ := clearFaults_spec (s := { s with boxes := bx }) rest faults
    exact ⟨off, stop, taken.posted_other (by decide) posted⟩
  case stop =>
    intro taken
    refine ⟨fun going => runs_taken rfl taken ?_, fun stopping => runs_taken rfl taken ?_⟩
    · rintro bx rfl
      obtain ⟨stop, posted, counted⟩ := orderly_begins (s := { s with boxes := bx }) going (bit arg 0)
      exact ⟨stop, taken.posted_other (by decide) posted, counted⟩
    · rintro bx rfl
      exact orderly_again (s := { s with boxes := bx }) stopping (bit arg 0)
  case unknown =>
    intro code unknown taken
    refine runs_taken (if_neg (ne_true_of_eq_false unknown)) taken ?_
    rintro bx rfl
    exact ⟨(ctr_inc ..).trans (if_pos rfl), rfl, rfl⟩

end Sys2Proof.Machine
end


/-! Read channels and receive links: sync patterns found and missed, the loss of lock, lanes that fail, and link starts (R228,
R229, R231, R232, R234, R238 to R242). -/

section

namespace Sys2Proof.Machine

/-! ## Lock (R231, R232, R242) -/

/-- A channel sent to ACQUIRING from another state is counted, and no other channel changes. -/
theorem runs_toAcquiring {c : Instr} {p : Nat} {s : State} (run : exec c s = go (toAcquiring p s)) (lock : (chanAt s p).lock ≠ .acquiring) :
    Runs c s fun t =>
      chanAt t p = { chanAt s p with lock := .acquiring, fwd := false, acquires := satAdd (chanAt s p).acquires 1 }
        ∧ ∀ q, q ≠ p → chanAt t q = chanAt s q := by
  refine ⟨_, run, ?_, fun q other => toAcquiring_other other s⟩
  unfold toAcquiring
  rw [chanAt_updChan, if_pos rfl, if_neg lock]

/-! ## Sync patterns (R231, R234, R238 to R241) -/

theorem natAbs_clamp_le (n : Nat) (x : Int) : (clamp (-n) n x).natAbs ≤ n := by
  unfold clamp
  omega

/-- A channel whose pattern is found: the loops run over the stretch that it ends, on what the pattern says of the row. -/
def syncedChan (s : State) (o : SyncObs) (c : Chan) : Chan := runChannel (loopCfg s c.lock o.kind) o.xs (foundSync s o c)

theorem syncedChan_residual (s : State) (o : SyncObs) (c : Chan) : (syncedChan s o c).residual.natAbs ≤ resLimit s :=
  natAbs_clamp_le ..

theorem syncedChan_locked (s : State) (o : SyncObs) (c : Chan) : (syncedChan s o c).lock = .locked ∧ (syncedChan s o c).missed = 0 := by
  show (foundSync s o c).lock = .locked ∧ (foundSync s o c).missed = 0
  unfold foundSync
  cases o.kind <;> exact ⟨rfl, rfl⟩

theorem syncedChan_forward {s : State} {o : SyncObs} (kind : o.kind = .forward) (c : Chan) :
    (syncedChan s o c).fwd = true ∧ (syncedChan s o c).midMissed = sat16 (c.midMissed + b2n (c.lock != .acquiring && c.fwd)) := by
  show (foundSync s o c).fwd = true ∧ (foundSync s o c).midMissed = _
  unfold foundSync
  rw [kind]
  exact ⟨rfl, rfl⟩

theorem syncedChan_mid {s : State} {o : SyncObs} (kind : o.kind = .mid) (c : Chan) :
    (syncedChan s o c).fwd = false ∧ (syncedChan s o c).fwdMissed = sat16 (c.fwdMissed + b2n (c.lock != .acquiring && !c.fwd))
      ∧ (syncedChan s o c).reframes = sat16 (c.reframes + b2n o.conflict) := by
  show (foundSync s o c).fwd = false ∧ (foundSync s o c).fwdMissed = _ ∧ (foundSync s o c).reframes = _
  unfold foundSync
  rw [kind]
  exact ⟨rfl, rfl, rfl⟩

theorem loopCfg_frozen {s : State} {lock : Lock} {kind : SyncKind} (h : adaptEnable s = false ∨ lock ≠ .locked ∨ kind = .split) :
    (loopCfg s lock kind).adaptFrom = none := by
  refine if_neg ?_
  rintro ⟨on, locked, plain⟩
  rcases h with off | away | split
  · exact absurd on (ne_true_of_eq_false off)
  · exact away locked
  · exact plain split

/-- Frozen taps stand (R234). -/
theorem syncedChan_taps {s : State} {o : SyncObs} {c : Chan} (h : adaptEnable s = false ∨ c.lock ≠ .locked ∨ o.kind = .split) :
    (syncedChan s o c).taps = c.taps := by
  have found : (foundSync s o c).taps = c.taps := by
    unfold foundSync
    cases o.kind <;> rfl
  exact (if_pos (loopCfg_frozen h)).trans found

theorem exec_syncFound {p : Nat} {o : SyncObs} {s : State} (hp : p < 132) (ready : s.rch.ready = true) (up : (rxAt s (linkOf p)).up = true)
    (taken : syncTaken s (chanAt s p) o = true) :
    exec (.syncFound p o) s = go (updChan p (syncedChan s o) s) := by
  refine if_neg ?_
  rintro (far | off | down | refused)
  · exact absurd hp (not_lt.mpr far)
  · exact absurd ready (ne_true_of_eq_false off)
  · exact absurd up (ne_true_of_eq_false down)
  · exact absurd taken (ne_true_of_eq_false refused)

theorem exec_syncMissed {p : Nat} {s : State} (hp : p < 132) (lock : (chanAt s p).lock ≠ .acquiring) (span : Bool) :
    exec (.syncMissed p span) s = go (updChan p (fun c => { c with
      lock := .flywheel
      missed := min (c.missed + 1) 255
      fwd := false
      dec := decimationStep s c.dec
      phase := advancePhase c.phase 4128 c.residual
      fwdMissed := sat16 (c.fwdMissed + 1)
      midMissed := sat16 (c.midMissed + 1 + b2n c.fwd)
      splitMissed := sat16 (c.splitMissed + b2n span) }) s) :=
  if_neg fun h => h.elim (not_le.mpr hp) lock

/-! ## Receive links (R228) -/

/-- A link's counting of CRC-12 errors. -/
def countCrc (n : Nat) (x : RxLink) : RxLink := { x with crcErrors := sat16 (x.crcErrors + n) }

/-- A lane of a link has lost its sync header lock. -/
def dropLane (j : Nat) (x : RxLink) : RxLink := { x with lanesLocked := setBits x.lanesLocked j j 0 }

/-- A lane's report, on a link that is up. -/
theorem exec_rxLaneFail {l : Nat} {s : State} (hl : l < 12) (up : (rxAt s (l / 3)).up = true) (n : Nat) :
    exec (.rxLaneFail l n) s
      = if n = 0 then go (failLink (l / 3) (updRx (l / 3) (dropLane (l % 3)) (updRx (l / 3) (countCrc n) s)))
        else if 4 ≤ n then go (failLink (l / 3) (updRx (l / 3) (countCrc n) s))
        else go (updRx (l / 3) (countCrc n) s) := by
  refine if_neg ?_
  rintro (far | down)
  · exact absurd hl (not_lt.mpr far)
  · exact absurd up (ne_true_of_eq_false down)

/-- A link that fails is down; its channels acquire, and management is told. -/
theorem failLink_after {k : Nat} {s u : State} (chans : ∀ q, chanAt u q = chanAt s q) (boxes : u.boxes = s.boxes) (srv : u.srv = s.srv) :
    (rxAt (failLink k u) k).up = false ∧ (rxAt (failLink k u) k).aligned = false ∧ (rxAt (failLink k u) k).tries = 0
      ∧ (rxAt (failLink k u) k).lanesLocked = (rxAt u k).lanesLocked
      ∧ (∀ q ∈ linkChannels k, (chanAt (failLink k u) q).lock = .acquiring)
      ∧ (∀ q, q ∉ linkChannels k → chanAt (failLink k u) q = chanAt s q)
      ∧ (s.boxes.mgt.length < 1024 → boxOf (failLink k u) .mgt = boxOf s .mgt ++ [mail Src.chan 0x1301 k s]) := by
  obtain ⟨link, acquire, others, told⟩ := failLink_spec k u
  rw [link]
  refine ⟨rfl, rfl, rfl, rfl, acquire, fun q other => (others q other).trans (chans q), fun room => ?_⟩
  have slot : hasSlots .mgt Src.chan 1 u = true := by
    rw [hasSlots_mgt, boxes]
    exact decide_eq_true room
  rw [told slot]
  unfold boxOf mail
  rw [boxes, srv]

theorem exec_jesdLinkRestart {k : Nat} {s : State} (hk : k < 4) (down : (rxAt s k).up = false) (going : (rxAt s k).failed = false)
    (on : domOn s 7 = true) (ok : Bool) :
    exec (.jesdLinkRestart k ok) s
      = if ok then
          go (updRx k (fun x => { x with up := true, aligned := true, lanesLocked := 7, tries := 0, starts := min (x.starts + 1) 255 }) s)
        else
          go (updRx k (fun x => { x with starts := min (x.starts + 1) 255, tries := x.tries + 1, failed := decide (8 ≤ x.tries + 1) }) s) := by
  refine if_neg ?_
  rintro (far | up | failed | off)
  · exact absurd hk (not_lt.mpr far)
  · exact absurd up (ne_true_of_eq_false down)
  · exact absurd failed (ne_true_of_eq_false going)
  · exact absurd on (ne_true_of_eq_false off)

/-- Settles O42: a pattern's channel is `syncedChan`, a loss of lock `toAcquiring`, and a lane's failure `failLink`. -/
theorem readChannelsKeepLock : Obligations.ReadChannelsKeepLock := by
  unfold Obligations.ReadChannelsKeepLock
  intro s p hp
  refine ⟨?found, ?refused, ?missed, ?lost, ?counted, ?failed, ?started⟩
  case found =>
    intro o ready up taken
    refine ⟨_, exec_syncFound hp ready up taken, ?_⟩
    have chan : chanAt (updChan p (syncedChan s o) s) p = syncedChan s o (chanAt s p) := (chanAt_updChan ..).trans (if_pos rfl)
    dsimp only
    rw [chan]
    obtain ⟨lock, missed⟩ := syncedChan_locked s o (chanAt s p)
    exact ⟨lock, missed, fun kind => syncedChan_forward kind _, fun kind => syncedChan_mid kind _, syncedChan_residual .., syncedChan_taps,
      fun q other => (chanAt_updChan ..).trans (if_neg other)⟩
  case refused =>
    intro o refused
    exact ⟨s, if_pos (.inr (.inr (.inr refused))), rfl⟩
  case missed =>
    intro span lock
    exact ⟨_, exec_syncMissed hp lock span, (chanAt_updChan ..).trans (if_pos rfl), fun q other => (chanAt_updChan ..).trans (if_neg other)⟩
  case lost =>
    intro lock
    refine ⟨fun rows => ?_, fun limit => ?_, fun ready => ?_⟩
    · exact runs_toAcquiring (if_pos ⟨hp, lock, rows⟩) lock
    · exact runs_toAcquiring (if_pos ⟨hp, limit⟩) lock
    · exact runs_toAcquiring (if_pos ⟨hp, ready⟩) lock
  case counted =>
    intro l n hl up some_ few
    refine ⟨_, (exec_rxLaneFail hl up n).trans ((if_neg some_.ne').trans (if_neg (not_le.mpr few))), ?_, rfl, fun _ => rfl⟩
    exact (rxAt_updRx ..).trans (if_pos rfl)
  case failed =>
    intro l n hl up why
    by_cases zero : n = 0
    · refine ⟨_, (exec_rxLaneFail hl up n).trans (if_pos zero), ?_⟩
      obtain ⟨down, unaligned, tries, lanes, chans, others, told⟩ :=
        failLink_after (k := l / 3) (s := s) (u := updRx (l / 3) (dropLane (l % 3)) (updRx (l / 3) (countCrc n) s)) (fun _ => rfl) rfl rfl
      refine ⟨down, unaligned, tries, fun _ => ?_, chans, others, told⟩
      rw [lanes, rxAt_updRx, if_pos rfl]
      exact (bit_setBits _ _ _ Nat.zero_lt_two).trans (if_pos rfl)
    · have four : 4 ≤ n := why.resolve_left zero
      refine ⟨_, (exec_rxLaneFail hl up n).trans ((if_neg zero).trans (if_pos four)), ?_⟩
      obtain ⟨down, unaligned, tries, -, chans, others, told⟩ :=
        failLink_after (k := l / 3) (s := s) (u := updRx (l / 3) (countCrc n) s) (fun _ => rfl) rfl rfl
      exact ⟨down, unaligned, tries, fun h => absurd h zero, chans, others, told⟩
  case started =>
    intro k hk down going on
    refine ⟨⟨_, exec_jesdLinkRestart hk down going on true, ?_⟩, ⟨_, exec_jesdLinkRestart hk down going on false, ?_⟩⟩ <;> dsimp only
    · rw [rxAt_updRx, if_pos rfl]
      exact ⟨rfl, rfl, rfl, rfl⟩
    · rw [rxAt_updRx, if_pos rfl]
      exact ⟨down, rfl, decide_eq_true_iff⟩

end Sys2Proof.Machine
end


/-! Decoded data sets, the recovery ladder's passes, the wait for the Yard, and read-ahead (R246 to R252, R254, R325, R472). -/

section

namespace Sys2Proof.Machine

/-! ## An attempt on rows read (R243 to R247) -/

/-- Rows decoded on top of a pool, and what the attempt on the pool that they leave comes to. -/
def attemptRows (p ds : Nat) (others : Bool) (pool : AMap SdsPool) (xs : List RowRead) (s : State) : Option Bytes × AMap SdsPool × State :=
  attempt p ds (poolOf (decodeRows p ds others pool xs s).1) (decodeRows p ds others pool xs s).2

theorem attempt_decodeRows (p ds : Nat) (others : Bool) (pool : AMap SdsPool) (xs : List RowRead) (s : State) :
    attempt p ds (poolOf (decodeRows p ds others pool xs s).1) (decodeRows p ds others pool xs s).2 = attemptRows p ds others pool xs s := rfl

theorem attemptRows_spec (p ds : Nat) (others : Bool) (pool : AMap SdsPool) (xs : List RowRead) (s : State) :
    OnlyChans s (attemptRows p ds others pool xs s).2.2 ∧ RchKept s (attemptRows p ds others pool xs s).2.2 :=
  ⟨(decodeRows_spec ..).1.trans (attempt_spec ..).1, (decodeRows_spec ..).2.trans (attempt_spec ..).2⟩

theorem needers_freeDecoder (d p ds : Nat) (s : State) : needers (freeDecoder d s) p ds = needers s p ds :=
  needers_congr (s := s) (t := freeDecoder d s) rfl rfl rfl rfl rfl rfl rfl p ds

/-! ## What the committed configuration says (R259) -/

theorem rereadCount_of_cfg {s t : State} (h : t.cfg = s.cfg) : rereadCount t = rereadCount s := by
  unfold rereadCount Cfgw.rchWord recWord
  rw [h]

theorem loftEnable_of_cfg {s t : State} (h : t.cfg = s.cfg) : loftEnable t = loftEnable s := by
  unfold loftEnable Cfgw.rchWord recWord
  rw [h]

theorem yardEnable_of_cfg {s t : State} (h : t.cfg = s.cfg) : yardEnable t = yardEnable s := by
  unfold yardEnable Cfgw.rchWord recWord
  rw [h]

theorem readAheadSlots_of_cfg {s t : State} (h : t.cfg = s.cfg) : readAheadSlots t = readAheadSlots s := by
  unfold readAheadSlots Cfgw.readaheadQuota Cfgw.shedWord recWord
  rw [h]

theorem otherPlacements_of_parts {s t : State} (h : t.parts = s.parts) (p ds : Nat) : otherPlacements t p ds = otherPlacements s p ds := by
  unfold otherPlacements
  rw [partAt_of_parts h]

theorem loftClosed_of_parts {s t : State} (h : t.parts = s.parts) (p ds : Nat) : loftClosed t p ds = loftClosed s p ds := by
  unfold loftClosed
  rw [partAt_of_parts h]

/-- The parts of the state that the choice of the next rung depends on. -/
structure SameChoice (s t : State) : Prop where
  cfg : t.cfg = s.cfg
  parts : t.parts = s.parts
  boxes : t.boxes = s.boxes
  srv : t.srv = s.srv
  needers : ∀ p ds, needers t p ds = needers s p ds

theorem SameChoice.of_chans {d : Nat} {s u : State} (h : OnlyChans (freeDecoder d s) u) : SameChoice s u := by
  have waits := fun p ds => (h.needers p ds).trans (needers_freeDecoder d p ds s)
  obtain ⟨ch, c, rfl⟩ := h
  exact ⟨rfl, rfl, rfl, rfl, waits⟩

/-! ## A data set decoded at rung 0 (R246, R325) -/

theorem getLast?_drop_concat {α : Type} (xs : List α) (x : α) {n : Nat} (h : 0 < n) :
    ((xs ++ [x]).drop ((xs ++ [x]).length - n)).getLast? = some x := by
  rw [List.getLast?_drop, if_neg (by simp; omega), List.getLast?_concat]

/-- What a data set decoded at rung 0 leaves. -/
structure DecodedAt0 (p ds : Nat) (b : Bytes) (s t : State) : Prop where
  busy : t.rch.busy = s.rch.busy
  count : ctr t 0x0B0100 = satAdd (ctr s 0x0B0100) 1
  last : t.rch.lastRead = some (p, ds)
  seek : t.rch.seek = if s.rch.seek = some (p, ds) then none else s.rch.seek
  staged : s.rch.readAhead = false → ∃ y ∈ t.rch.staging, y.part = p ∧ y.ds = ds ∧ y.stream = b
  ahead : s.rch.readAhead = true → s.rch.raPart = p → s.rch.seek ≠ some (p, ds) → 0 < readAheadSlots s →
    t.rch.raRing.getLast? = some (p, ds, b)

/-- A data set that is weak is entered; staging and the ladder's state are as they were. -/
theorem weakEntered_kept (weak : Bool) (p ds : Nat) (b : Bytes) (u : State) :
    RchKept u (if weak then enterWeak p ds 0 b u else u) ∧ (if weak then enterWeak p ds 0 b u else u).rch.staging = u.rch.staging := by
  cases weak
  · exact ⟨.refl u, rfl⟩
  · exact enterWeak_rchKept ..

theorem decodedOk_spec (d p ds : Nat) (weak : Bool) (b : Bytes) (s : State) : DecodedAt0 p ds b s (decodedOk d p ds weak b s) := by
  have counted : ctr (inc 0x0B0100 s) 0x0B0100 = satAdd (ctr s 0x0B0100) 1 := (ctr_inc ..).trans (if_pos rfl)
  unfold decodedOk
  dsimp only
  by_cases ahead : (s.rch.readAhead && s.rch.raPart == p && s.rch.seek != some (p, ds)) = true
  · rw [if_pos ahead]
    obtain ⟨kept, -⟩ := weakEntered_kept weak p ds b (keepAhead p ds b (inc 0x0B0100 s))
    generalize (if weak then enterWeak p ds 0 b (keepAhead p ds b (inc 0x0B0100 s)) else _) = v at kept
    obtain ⟨-, seek, busy, -, -, -, ring⟩ := kept.sub
    refine ⟨busy, (kept.counts _ (by decide)).trans counted, rfl, ?_, fun off => ?_, fun _ _ _ slots => ?_⟩
    · show (if v.rch.seek = some (p, ds) then none else v.rch.seek) = _
      rw [seek]
      rfl
    · simp [off] at ahead
    · exact (congrArg List.getLast? ring).trans (getLast?_drop_concat _ _ slots)
  · rw [if_neg ahead]
    obtain ⟨staged, y, mem, isSet⟩ := stage_spec d p ds b (inc 0x0B0100 s)
    obtain ⟨entered, staging⟩ := weakEntered_kept weak p ds b (stage d p ds b (inc 0x0B0100 s))
    have kept := staged.trans entered
    generalize (if weak then enterWeak p ds 0 b (stage d p ds b (inc 0x0B0100 s)) else _) = v at kept staging
    obtain ⟨-, seek, busy, -⟩ := kept.sub
    refine ⟨busy, (kept.counts _ (by decide)).trans counted, rfl, ?_, fun _ => ⟨y, ?_, isSet⟩, fun on part away _ => ?_⟩
    · show (if v.rch.seek = some (p, ds) then none else v.rch.seek) = _
      rw [seek]
      rfl
    · exact staging.symm ▸ mem
    · simp [on, part, away] at ahead

theorem DecodedAt0.of_kept {p ds : Nat} {b : Bytes} {s u t : State} (h : DecodedAt0 p ds b u t) (kept : RchKept s u) (cfg : u.cfg = s.cfg) :
    DecodedAt0 p ds b s t := by
  obtain ⟨-, seek, busy, -, reading, raPart, -⟩ := kept.sub
  refine ⟨h.busy.trans busy, h.count.trans (congrArg (satAdd · 1) (kept.counts _ (by decide))), h.last, by rw [h.seek, seek],
    fun off => h.staged (reading.trans off), fun on part away slots => h.ahead (reading.trans on) (raPart.trans part) (seek ▸ away) ?_⟩
  rw [readAheadSlots_of_cfg cfg]
  exact slots

theorem startLadder_busy (p ds : Nat) (pool : AMap SdsPool) (s : State) : (startLadder p ds pool s).rch.busy = s.rch.busy := by
  by_cases idle : s.rch.ladder = none
  · exact (startLadder_spec p ds pool s idle).2.2.2
  · unfold startLadder
    rw [if_pos (Option.isSome_iff_ne_none.mpr idle)]

section Decoded

variable {r : DecodeRes} {s : State}

theorem decoder_holds (part : r.part < 4) (busy : mem? s.rch.busy r.decoder = true) :
    ¬(4 ≤ r.part ∨ mem? s.rch.busy r.decoder = false) := by
  rintro (far | free)
  · exact absurd part (not_lt.mpr far)
  · exact absurd busy (ne_true_of_eq_false free)

/-- Rows that are decoded. -/
theorem runs_decoded (part : r.part < 4) (busy : mem? s.rch.busy r.decoder = true) {b : Bytes}
    (decoded : (attemptRows r.part r.ds false [] r.rows (freeDecoder r.decoder s)).1 = some b) :
    Runs (.dataSetDecoded r) s (DecodedAt0 r.part r.ds b (freeDecoder r.decoder s)) := by
  obtain ⟨chans, kept⟩ := attemptRows_spec r.part r.ds false [] r.rows (freeDecoder r.decoder s)
  have cfg := (SameChoice.of_chans chans).cfg
  show ∃ t, execDataSetDecoded r s = _ ∧ _
  unfold execDataSetDecoded
  rw [if_neg (decoder_holds part busy)]
  unfold attemptRows at decoded kept cfg
  dsimp only
  generalize attempt r.part r.ds _ _ = x at decoded kept cfg ⊢
  obtain ⟨o, pool, u⟩ := x
  cases decoded
  exact ⟨_, rfl, (decodedOk_spec ..).of_kept kept cfg⟩

/-- Rows that are not decoded begin the ladder with their pool when a command needs the data set. -/
theorem runs_undecoded (part : r.part < 4) (busy : mem? s.rch.busy r.decoder = true)
    (undecoded : (attemptRows r.part r.ds false [] r.rows (freeDecoder r.decoder s)).1 = none) :
    Runs (.dataSetDecoded r) s fun t => t.rch.busy = AMap.erase s.rch.busy r.decoder
      ∧ (s.rch.seek = some (r.part, r.ds) → s.rch.ladder = none →
          t.rch.ladder = some ⟨r.part, r.ds, if rereadCount s = 0 then .slow else .reread, 0,
            (attemptRows r.part r.ds false [] r.rows (freeDecoder r.decoder s)).2.1⟩
          ∧ t.rch.readAhead = false ∧ ∀ y ∈ t.rch.staging, ¬(y.part = r.part ∧ y.ds = r.ds))
      ∧ (setWanted s r.part r.ds = false → t.rch.ladder = s.rch.ladder ∧ t.hq = s.hq) := by
  obtain ⟨chans, kept⟩ := attemptRows_spec r.part r.ds false [] r.rows (freeDecoder r.decoder s)
  have cfg := (SameChoice.of_chans chans).cfg
  have queue : (attemptRows r.part r.ds false [] r.rows (freeDecoder r.decoder s)).2.2.hq = s.hq := by
    obtain ⟨ch, c, e⟩ := chans
    rw [e]
    rfl
  show ∃ t, execDataSetDecoded r s = _ ∧ _
  unfold execDataSetDecoded
  rw [if_neg (decoder_holds part busy)]
  unfold attemptRows at undecoded kept cfg queue ⊢
  dsimp only
  generalize attempt r.part r.ds _ _ = x at undecoded kept cfg queue ⊢
  obtain ⟨o, pool, u⟩ := x
  cases undecoded
  dsimp only at kept cfg queue ⊢
  obtain ⟨ladder, -, freed, -⟩ := kept.sub
  by_cases wanted : setWanted s r.part r.ds = true
  · refine ⟨_, if_pos wanted, (startLadder_busy ..).trans freed, fun _ idle => ?_, fun unwanted => absurd wanted (ne_true_of_eq_false unwanted)⟩
    obtain ⟨begun, stopped, unstaged, -⟩ := startLadder_spec r.part r.ds pool u (ladder.trans idle)
    rw [rereadCount_of_cfg cfg] at begun
    exact ⟨begun, stopped, unstaged⟩
  · refine ⟨_, if_neg wanted, freed, fun seek => absurd ?_ wanted, fun _ => ⟨ladder, queue⟩⟩
    unfold setWanted
    rw [seek]
    simp

end Decoded

/-! ## The next pass (R247, R249, R251) -/

theorem ladder_rereadPass (l : Ladder) (k : Nat) (s : State) : (rereadPass l k s).rch.ladder = some { l with st := .reread, done := k } :=
  (rereadPass_spec l k s).sub.1

theorem ladder_slowPass (l : Ladder) (k : Nat) (s : State) : (slowPass l k s).rch.ladder = some { l with st := .slow, done := k } :=
  (slowPass_spec l k s).sub.1

theorem ladder_toPlacements {l : Ladder} {s : State} (others : otherPlacements s l.part l.ds = true) :
    (toPlacements l s).rch.ladder = some { l with st := .placements, done := 0 } := by
  unfold toPlacements
  rw [if_pos others]
  exact (passOver_rchKept ..).sub.1

theorem ladder_toLoft {l : Ladder} {s : State} (on : loftEnable s = true) (closed : loftClosed s l.part l.ds = true) :
    (toLoft l s).rch.ladder = some { l with st := .loft, done := 0 } := by
  unfold toLoft
  rw [if_pos ⟨on, closed⟩]
  exact (passOver_rchKept ..).sub.1

/-- The pass that follows one that failed: the rereads, three slow passes, the other placements, the Loft. -/
theorem ladder_next {l : Ladder} {s u : State} (same : SameChoice s u) :
    (l.st = .reread → l.done + 1 < rereadCount s → (ladderNext l u).rch.ladder = some { l with done := l.done + 1 })
      ∧ (l.st = .reread → rereadCount s ≤ l.done + 1 → (ladderNext l u).rch.ladder = some { l with st := .slow, done := 0 })
      ∧ (l.st = .slow → l.done < 2 → (ladderNext l u).rch.ladder = some { l with done := l.done + 1 })
      ∧ (l.st = .slow → 2 ≤ l.done → otherPlacements s l.part l.ds = true →
          (ladderNext l u).rch.ladder = some { l with st := .placements, done := 0 })
      ∧ (l.st = .placements → loftEnable s = true → loftClosed s l.part l.ds = true →
          (ladderNext l u).rch.ladder = some { l with st := .loft, done := 0 }) := by
  obtain ⟨p, ds, st, n, pool⟩ := l
  unfold ladderNext
  refine ⟨?_, ?_, ?_, ?_, ?_⟩ <;> rintro rfl <;> dsimp only
  · intro more
    rw [if_pos (by rw [rereadCount_of_cfg same.cfg]; exact more)]
    exact ladder_rereadPass ..
  · intro last
    rw [if_neg (by rw [rereadCount_of_cfg same.cfg]; exact not_lt.mpr last)]
    exact ladder_slowPass ..
  · intro more
    rw [if_pos more]
    exact ladder_slowPass ..
  · intro last others
    rw [if_neg (not_lt.mpr last)]
    refine ladder_toPlacements ?_
    rw [otherPlacements_of_parts (((leaveRung_frame ..).same .parts rfl).trans same.parts)]
    exact others
  · intro on closed
    exact ladder_toLoft ((loftEnable_of_cfg same.cfg).trans on) ((loftClosed_of_parts same.parts _ _).trans closed)

theorem ladderNext_loft {l : Ladder} (loft : l.st = .loft) (s : State) : ladderNext l s = toYard l s := by
  unfold ladderNext
  rw [loft]

/-! ## A ladder that fails (R251, R254) -/

/-- A command that waited for a data set stops with READ_ERROR. -/
def failCmd (c : Cmd) (s : State) : State :=
  if c.e.opcode = 0x02 then stopRead c.seq Status.readError s else complete c.seq Status.readError 0 s

theorem complete_readError (q r : Nat) (s : State) :
    complete q Status.readError r s = updCmd q (fun c => { c with st := .completing, status := Status.readError, result := r }) s := by
  unfold complete countKey
  rw [if_neg (by decide), if_neg (by decide)]

theorem failCmd_frame (c : Cmd) (s : State) : Frame 0x12 s (failCmd c s) := by
  unfold failCmd
  split
  · unfold stopRead
    split
    · exact .refl _ _
    · rw [complete_readError]
      exact ((((updCmd_frame ..).mono rfl).andThen (unlock_frame ..) rfl).andThen (updCmd_frame ..) rfl)
  · rw [complete_readError]
    exact (updCmd_frame ..).mono rfl

/-- A command of a number has come to its end with READ_ERROR. -/
def FailedRead (t : State) (q : Nat) : Prop := ∃ d, findCmd t q = some d ∧ d.st = .completing ∧ d.status = Status.readError

theorem failCmd_fails {c d : Cmd} {s : State} (found : findCmd s c.seq = some d) : FailedRead (failCmd c s) c.seq := by
  unfold failCmd
  split
  · exact ⟨_, (stopRead_find found _).1, rfl, rfl⟩
  · exact ⟨_, findCmd_complete found .., rfl, rfl⟩

theorem stopRead_other {q r : Nat} (other : r ≠ q) (st : Nat) (s : State) : findCmd (stopRead q st s) r = findCmd s r := by
  unfold stopRead
  split
  · rfl
  · rw [findCmd_complete_other other, unlock_find, findCmd_updCmd_other other (fun c => { c with hold := none }) fun _ => rfl]

theorem failCmd_other {c : Cmd} {q : Nat} (other : q ≠ c.seq) (s : State) : findCmd (failCmd c s) q = findCmd s q := by
  unfold failCmd
  split
  · exact stopRead_other other ..
  · exact findCmd_complete_other other ..

theorem FailedRead.failCmd {s : State} {q : Nat} (h : FailedRead s q) (c : Cmd) : FailedRead (failCmd c s) q := by
  obtain ⟨d, found, ended⟩ := h
  by_cases own : q = c.seq
  · subst own
    exact failCmd_fails found
  · exact ⟨d, (failCmd_other own s).trans found, ended⟩

theorem FailedRead.each {s : State} {q : Nat} (h : FailedRead s q) (cs : List Cmd) : FailedRead (each Machine.failCmd cs s) q := by
  induction cs generalizing s with
  | nil => exact h
  | cons c cs ih => exact ih (h.failCmd c)

/-- Every command of a list that the table has comes to its end with READ_ERROR. -/
theorem each_failCmd_fails (cs : List Cmd) (s : State) (known : ∀ c ∈ cs, (findCmd s c.seq).isSome = true) :
    ∀ c ∈ cs, FailedRead (each failCmd cs s) c.seq := by
  induction cs generalizing s with
  | nil => exact fun _ h => absurd h List.not_mem_nil
  | cons a cs ih =>
    intro c mem
    obtain ⟨d, found⟩ := Option.isSome_iff_exists.mp (known a List.mem_cons_self)
    rcases List.mem_cons.mp mem with rfl | later
    · exact (failCmd_fails found).each cs
    · refine ih (failCmd a s) (fun x hx => ?_) c later
      by_cases same : x.seq = a.seq
      · obtain ⟨e, he, -⟩ := failCmd_fails found
        rw [same, he]
        rfl
      · rw [failCmd_other same]
        exact known x (List.mem_cons_of_mem _ hx)

theorem findCmd_of_mem {s : State} {c : Cmd} (h : c ∈ s.hq.cmds) : (findCmd s c.seq).isSome = true :=
  List.find?_isSome.mpr ⟨c, h, beq_self_eq_true _⟩

theorem needers_serveFails (l : Ladder) (p ds : Nat) (s : State) : needers (serveFails l.part l.ds s) p ds = needers s p ds :=
  needers_congr (s := s) (t := serveFails l.part l.ds s) rfl rfl rfl rfl rfl rfl rfl p ds

/-- A ladder that fails is counted, and the commands that waited end with READ_ERROR. -/
theorem ladderFailed_spec (l : Ladder) (s : State) :
    (ladderFailed l s).rch.ladder = none ∧ (ladderFailed l s).rch.seek = none ∧ ctr (ladderFailed l s) 0x0B0118 = satAdd (ctr s 0x0B0118) 1
      ∧ ∀ c ∈ needers s l.part l.ds, FailedRead (ladderFailed l s) c.seq := by
  have whole : ladderFailed l s = each failCmd (needers s l.part l.ds) (updRch (fun r => { r with seek := none })
      (postEvent Src.dec 0x05 0x02 true (l.ds % 2 ^ 32 + l.part * 2 ^ 32) (inc 0x0B0118 (setLadder none (serveFails l.part l.ds s))))) := by
    rw [← needers_serveFails l]
    rfl
  have told := postEvent_rchKept Src.dec 0x05 0x02 true (l.ds % 2 ^ 32 + l.part * 2 ^ 32) (inc 0x0B0118 (setLadder none (serveFails l.part l.ds s)))
  have queue : (postEvent Src.dec 0x05 0x02 true (l.ds % 2 ^ 32 + l.part * 2 ^ 32) (inc 0x0B0118 (setLadder none (serveFails l.part l.ds s)))).hq = s.hq :=
    (postEvent_frame ..).same .hq rfl
  rw [whole]
  generalize postEvent Src.dec 0x05 0x02 true _ _ = u at told queue
  have frame := Frame.each (g := failCmd) (needers s l.part l.ds) (Frame.refl 0x12 (updRch (fun r => { r with seek := none }) u)) failCmd_frame
  refine ⟨?_, ?_, ?_, each_failCmd_fails _ _ fun c mem => ?_⟩
  · rw [frame.same .rch rfl]
    exact told.sub.1
  · rw [frame.same .rch rfl]
    rfl
  · have counts : ctr (each failCmd (needers s l.part l.ds) (updRch (fun r => { r with seek := none }) u)) 0x0B0118 = ctr u 0x0B0118 :=
      congrArg (fun m => AMap.getD m 0x0B0118 0) (frame.same .ctrs rfl)
    rw [counts, told.counts _ (by decide), ctr_inc, if_pos rfl]
    rfl
  · refine findCmd_of_mem ?_
    show c ∈ u.hq.cmds
    rw [queue]
    exact (List.mem_filter.mp mem).1

/-! ## The Yard's rung (R251) -/

theorem toYard_asks {l : Ladder} {s : State} (needed : needers s l.part l.ds ≠ []) (on : yardEnable s = true)
    (member : (partAt s l.part).yardMember = true) :
    (toYard l s).rch.ladder = some { l with st := .yard, done := 0 }
      ∧ (hasSlots .yard Src.fmt 1 s = true → boxOf (toYard l s) .yard = boxOf s .yard ++ [mail Src.fmt 0x0004 (l.ds % 2 ^ 32 + l.part * 2 ^ 32) s]) := by
  have asks : toYard l s = postEvent Src.dec 0x05 0x03 false (l.ds % 2 ^ 32 + l.part * 2 ^ 32)
      (post .yard Src.fmt 0x0004 (l.ds % 2 ^ 32 + l.part * 2 ^ 32) (setLadder (some { l with st := .yard, done := 0 }) (serveFails l.part l.ds s))) := by
    unfold toYard
    dsimp only
    rw [if_neg (by rw [needers_serveFails]; exact needed), if_pos ⟨on, member⟩]
  rw [asks]
  refine ⟨((post_rchKept ..).trans (postEvent_rchKept ..)).sub.1, fun slot => ?_⟩
  have slot' : hasSlots .yard Src.fmt 1 (setLadder (some { l with st := .yard, done := 0 }) (serveFails l.part l.ds s)) = true := slot
  rw [boxOf_postEvent (by decide), post_of_slots slot', boxOf_setBox_self]
  rfl

theorem toYard_fails {l : Ladder} {s : State} (needed : needers s l.part l.ds ≠ [])
    (off : yardEnable s = false ∨ (partAt s l.part).yardMember = false) : toYard l s = ladderFailed l (serveFails l.part l.ds s) := by
  unfold toYard
  dsimp only
  rw [if_neg (by rw [needers_serveFails]; exact needed), if_neg]
  rintro ⟨on, member⟩
  rcases off with off | foreign
  · exact absurd on (ne_true_of_eq_false off)
  · exact absurd member (ne_true_of_eq_false foreign)

/-! ## The Loft's rung (R249, R250) -/

/-- A Loft that C3 does not solve leaves the next rung to a state in which the members read have been counted. -/
theorem loftRung_unsolved {l : Ladder} {d : Nat} {others : List (Nat × List RowRead)} {s : State}
    (h : loftSolve (loftMembers (readMembers l.part (l.ds / 32) others s).2 l (readMembers l.part (l.ds / 32) others s).1) (l.ds % 32) = .none
      ∨ loftSolve (loftMembers (readMembers l.part (l.ds / 32) others s).2 l (readMembers l.part (l.ds / 32) others s).1) (l.ds % 32) = .checkFail) :
    ∃ u, loftRung l d others s = ladderNext l u ∧ OnlyChans s u ∧ ctr u 0x0B0118 = ctr s 0x0B0118 := by
  obtain ⟨chans, -, counts⟩ := readMembers_spec l.part (l.ds / 32) others s
  have kept := counts 0x0B0118 (by decide) (by decide)
  unfold loftRung
  dsimp only
  rcases h with none | failed
  · rw [none]
    exact ⟨_, rfl, chans, kept⟩
  · rw [failed]
    exact ⟨_, rfl, chans.trans (.inc ..), ((ctr_inc ..).trans (if_neg (by decide))).trans kept⟩

theorem loftRung_rebuilt {l : Ladder} {d : Nat} {others : List (Nat × List RowRead)} {s : State} {user : Bytes}
    (solved : loftSolve (loftMembers (readMembers l.part (l.ds / 32) others s).2 l (readMembers l.part (l.ds / 32) others s).1) (l.ds % 32) = .user user)
    (lost : poolBytes l.pool userArea dsitSize = none) :
    loftRung l d others s = ladderDone l d (withDsit l.part l.ds user (readMembers l.part (l.ds / 32) others s).2).1
      (withDsit l.part l.ds user (readMembers l.part (l.ds / 32) others s).2).2 := by
  unfold loftRung
  dsimp only
  rw [solved]
  dsimp only
  rw [lost]

/-- What rung 4 counts as it ends. -/
theorem ladderDone_loft {l : Ladder} (loft : l.st = .loft) (d : Nat) (b : Bytes) (s : State) :
    (ladderDone l d b s).rch.ladder = none ∧ ctr (ladderDone l d b s) 0x0B0110 = satAdd (ctr s 0x0B0110) 1
      ∧ ctr (ladderDone l d b s) 0x05011C = satAdd (ctr s 0x05011C) 1 ∧ ctr (ladderDone l d b s) 0x0B0120 = ctr s 0x0B0120
      ∧ ∃ y ∈ (ladderDone l d b s).rch.staging, y.part = l.part ∧ y.ds = l.ds ∧ y.stream = b := by
  obtain ⟨ended, -, -, -, count, own, staged⟩ := ladderDone_spec l d b s
  rw [loft] at count
  exact ⟨ended, count, (own loft).1, (own loft).2, staged⟩

theorem loftRung_recovered {l : Ladder} {d : Nat} {others : List (Nat × List RowRead)} {s : State} {user dsit : Bytes}
    (solved : loftSolve (loftMembers (readMembers l.part (l.ds / 32) others s).2 l (readMembers l.part (l.ds / 32) others s).1) (l.ds % 32) = .user user)
    (recovered : poolBytes l.pool userArea dsitSize = some dsit)
    (holds : streamExpected (readMembers l.part (l.ds / 32) others s).2 l.part l.ds (user ++ dsit) = true) :
    loftRung l d others s = ladderDone l d (user ++ dsit) (readMembers l.part (l.ds / 32) others s).2 := by
  unfold loftRung
  dsimp only
  rw [solved]
  dsimp only
  rw [recovered]
  exact if_pos holds

/-! ## A pass of the ladder (R247, R252) -/

theorem rungCounter_mem (st : LadderSt) : 0x0B0100 + 4 * rungOf st ∈ ladderCtrs := by cases st <;> decide

section Pass

variable {r : DecodeRes} {l : Ladder} {s : State}

theorem exec_ladderPassResult (ladder : s.rch.ladder = some l) (part : l.part = r.part) (ds : l.ds = r.ds) (early : l.st ≠ .yard) :
    exec (.ladderPassResult r) s
      = if needers s l.part l.ds = [] ∧ served s l.part l.ds = false then go (ladderIdle l (freeDecoder r.decoder s))
        else if l.st = .loft then go (loftRung l r.decoder r.others (freeDecoder r.decoder s))
        else go (afterAttempt l r.decoder
          (attemptRows l.part l.ds (l.st == .placements) l.pool r.rows (freeDecoder r.decoder s)).1
          (attemptRows l.part l.ds (l.st == .placements) l.pool r.rows (freeDecoder r.decoder s)).2.1
          (attemptRows l.part l.ds (l.st == .placements) l.pool r.rows (freeDecoder r.decoder s)).2.2) := by
  have mine : ¬(l.part ≠ r.part ∨ l.ds ≠ r.ds ∨ l.st = .yard) := by
    rintro (h | h | h)
    · exact h part
    · exact h ds
    · exact early h
  show execLadderPassResult r s = _
  unfold execLadderPassResult
  rw [ladder]
  dsimp only
  rw [if_neg mine, needers_freeDecoder]
  rfl

/-- A ladder without a command that waits for its data set ends. -/
theorem runs_ladderIdle (ladder : s.rch.ladder = some l) (part : l.part = r.part) (ds : l.ds = r.ds) (early : l.st ≠ .yard)
    (idle : needers s l.part l.ds = []) (unserved : served s l.part l.ds = false) :
    Runs (.ladderPassResult r) s fun t => t.rch.ladder = none ∧ t.rch.seek = none ∧ t.rch.weak = s.rch.weak := by
  refine ⟨_, (exec_ladderPassResult ladder part ds early).trans (if_pos ⟨idle, unserved⟩), ?_⟩
  have kept : (leaveRung l.st (setLadder none (freeDecoder r.decoder s))).rch = (setLadder none (freeDecoder r.decoder s)).rch :=
    (leaveRung_frame ..).same .rch rfl
  refine ⟨congrArg Rch.ladder kept, rfl, ?_⟩
  show (leaveRung l.st (setLadder none (freeDecoder r.decoder s))).rch.weak = s.rch.weak
  rw [kept]
  rfl

/-- A pass of another rung than the Loft's goes on from what its attempt came to. -/
theorem exec_pass (ladder : s.rch.ladder = some l) (part : l.part = r.part) (ds : l.ds = r.ds) (early : l.st ≠ .yard)
    (needed : needers s l.part l.ds ≠ []) (single : l.st ≠ .loft) :
    exec (.ladderPassResult r) s = go (afterAttempt l r.decoder
      (attemptRows l.part l.ds (l.st == .placements) l.pool r.rows (freeDecoder r.decoder s)).1
      (attemptRows l.part l.ds (l.st == .placements) l.pool r.rows (freeDecoder r.decoder s)).2.1
      (attemptRows l.part l.ds (l.st == .placements) l.pool r.rows (freeDecoder r.decoder s)).2.2) :=
  (exec_ladderPassResult ladder part ds early).trans ((if_neg fun h => needed h.1).trans (if_neg single))

/-- A pass that does not decode leaves the next one its pool. -/
theorem runs_pass_failed (ladder : s.rch.ladder = some l) (part : l.part = r.part) (ds : l.ds = r.ds) (early : l.st ≠ .yard)
    (needed : needers s l.part l.ds ≠ []) (single : l.st ≠ .loft) {pool : AMap SdsPool}
    (left : (attemptRows l.part l.ds (l.st == .placements) l.pool r.rows (freeDecoder r.decoder s)).2.1 = pool)
    (undecoded : (attemptRows l.part l.ds (l.st == .placements) l.pool r.rows (freeDecoder r.decoder s)).1 = none) :
    Runs (.ladderPassResult r) s fun t => ∃ u, SameChoice s u ∧ t = ladderNext { l with pool := pool } u := by
  have run := exec_pass ladder part ds early needed single
  rw [undecoded, left] at run
  exact ⟨_, run, _, SameChoice.of_chans (attemptRows_spec ..).1, rfl⟩

/-- A pass that decodes ends the ladder. -/
theorem runs_pass_decoded (ladder : s.rch.ladder = some l) (part : l.part = r.part) (ds : l.ds = r.ds) (early : l.st ≠ .yard)
    (needed : needers s l.part l.ds ≠ []) (single : l.st ≠ .loft) {b : Bytes}
    (decoded : (attemptRows l.part l.ds (l.st == .placements) l.pool r.rows (freeDecoder r.decoder s)).1 = some b) :
    Runs (.ladderPassResult r) s fun t =>
      t.rch.ladder = none ∧ t.rch.seek = none ∧ t.rch.lastRead = some (r.part, r.ds)
        ∧ ctr t (0x0B0100 + 4 * rungOf l.st) = satAdd (ctr s (0x0B0100 + 4 * rungOf l.st)) 1
        ∧ ∃ y ∈ t.rch.staging, y.part = r.part ∧ y.ds = r.ds ∧ y.stream = b := by
  have run := exec_pass ladder part ds early needed single
  have kept := (attemptRows_spec l.part l.ds (l.st == .placements) l.pool r.rows (freeDecoder r.decoder s)).2
  rw [decoded] at run
  generalize (attemptRows l.part l.ds (l.st == .placements) l.pool r.rows (freeDecoder r.decoder s)).2.2 = u at run kept
  obtain ⟨none, seek, last, -, count, -, staged⟩ := ladderDone_spec l r.decoder b u
  rw [← part, ← ds]
  exact ⟨_, run, none, seek, last, count.trans (congrArg (satAdd · 1) (kept.counts _ (rungCounter_mem _))), staged⟩

theorem exec_loftPass (ladder : s.rch.ladder = some l) (part : l.part = r.part) (ds : l.ds = r.ds) (needed : needers s l.part l.ds ≠ [])
    (loft : l.st = .loft) : exec (.ladderPassResult r) s = go (loftRung l r.decoder r.others (freeDecoder r.decoder s)) :=
  (exec_ladderPassResult ladder part ds (by rw [loft]; decide)).trans ((if_neg fun h => needed h.1).trans (if_pos loft))

end Pass

/-- Settles O43: a decoded data set is `decodedOk`, one that is not goes up by `startLadder`; a pass is `afterAttempt` or `loftRung`, which
end in `ladderDone`, `ladder_next` or `ladderFailed`. -/
theorem dataSetsAreDecodedAndRecovered : Obligations.DataSetsAreDecodedAndRecovered := by
  unfold Obligations.DataSetsAreDecodedAndRecovered
  intro s r
  refine ⟨?decoded, ?pass, ?expiry, ?ahead⟩
  case decoded =>
    intro part busy
    dsimp only
    rw [attempt_decodeRows]
    rcases attempted : (attemptRows r.part r.ds false [] r.rows (freeDecoder r.decoder s)).1 with _ | b
    · obtain ⟨t, run, freed, begun, unwanted⟩ := runs_undecoded part busy attempted
      exact ⟨t, run, freed, fun b decoded => absurd decoded (Option.some_ne_none b).symm, fun _ => begun, fun _ => unwanted⟩
    · obtain ⟨t, run, decoded⟩ := runs_decoded part busy attempted
      refine ⟨t, run, decoded.busy, fun c same => ?_, fun none => absurd none (Option.some_ne_none b),
        fun none => absurd none (Option.some_ne_none b)⟩
      obtain rfl : b = c := Option.some.inj same
      exact ⟨decoded.count, decoded.last, decoded.seek, decoded.staged, decoded.ahead⟩
  case pass =>
    intro l ladder part ds early
    refine ⟨runs_ladderIdle ladder part ds early, fun needed single => ?single, fun needed loft => ?loft⟩
    case single =>
      dsimp only
      rw [attempt_decodeRows]
      rcases attempted : (attemptRows l.part l.ds (l.st == .placements) l.pool r.rows (freeDecoder r.decoder s)).1 with _ | b
      · generalize left : (attemptRows l.part l.ds (l.st == .placements) l.pool r.rows (freeDecoder r.decoder s)).2.1 = pool
        obtain ⟨t, run, u, same, rfl⟩ := runs_pass_failed ladder part ds early needed single left attempted
        have next := ladder_next (l := { l with pool := pool }) same
        exact ⟨_, run, fun b decoded => absurd decoded (Option.some_ne_none b).symm, fun _ => next⟩
      · obtain ⟨t, run, decoded⟩ := runs_pass_decoded ladder part ds early needed single attempted
        refine ⟨t, run, fun c same => ?_, fun none => absurd none (Option.some_ne_none b)⟩
        obtain rfl : b = c := Option.some.inj same
        exact decoded
    case loft =>
      dsimp only
      have run := exec_loftPass ladder part ds needed loft
      obtain ⟨-, -, counts⟩ := readMembers_spec l.part (l.ds / 32) r.others (freeDecoder r.decoder s)
      have solvedCount := counts 0x0B0110 (by decide) (by decide)
      have loftCount := counts 0x05011C (by decide) (by decide)
      have dsitCount := counts 0x0B0120 (by decide) (by decide)
      refine ⟨_, run, fun user solved lost => ?_, fun user dsit solved recovered holds => ?_, fun unsolved on member => ?_, fun unsolved off => ?_⟩
      · obtain ⟨ended, count, c3, dsits, -⟩ := ladderDone_loft loft r.decoder
          (withDsit l.part l.ds user (readMembers l.part (l.ds / 32) r.others (freeDecoder r.decoder s)).2).1
          (withDsit l.part l.ds user (readMembers l.part (l.ds / 32) r.others (freeDecoder r.decoder s)).2).2
        rw [loftRung_rebuilt solved lost]
        refine ⟨ended, count.trans (congrArg (satAdd · 1) ?_), c3.trans (congrArg (satAdd · 1) ?_), dsits.trans ?_⟩
        · exact ((ctr_inc ..).trans (if_neg (by decide))).trans solvedCount
        · exact ((ctr_inc ..).trans (if_neg (by decide))).trans loftCount
        · exact ((ctr_inc ..).trans (if_pos rfl)).trans (congrArg (satAdd · 1) dsitCount)
      · obtain ⟨ended, count, c3, dsits, staged⟩ := ladderDone_loft loft r.decoder (user ++ dsit)
          (readMembers l.part (l.ds / 32) r.others (freeDecoder r.decoder s)).2
        rw [loftRung_recovered solved recovered holds, ← part, ← ds]
        exact ⟨ended, count.trans (congrArg (satAdd · 1) solvedCount), c3.trans (congrArg (satAdd · 1) loftCount), dsits.trans dsitCount, staged⟩
      · obtain ⟨u, next, chans, -⟩ := loftRung_unsolved (d := r.decoder) unsolved
        have same := SameChoice.of_chans chans
        obtain ⟨asks, posted⟩ := toYard_asks (l := l) (s := u) (by rw [same.needers]; exact needed) ((yardEnable_of_cfg same.cfg).trans on)
          ((congrArg Part.yardMember (partAt_of_parts same.parts l.part)).trans member)
        rw [next, ladderNext_loft loft]
        refine ⟨asks, fun slot => ?_⟩
        have box : boxOf u .yard = boxOf s .yard := congrArg Boxes.yard same.boxes
        rw [posted ((hasSlots_congr box ..).trans slot), box]
        unfold mail
        rw [same.srv]
      · obtain ⟨u, next, chans, failCount⟩ := loftRung_unsolved (d := r.decoder) unsolved
        have same := SameChoice.of_chans chans
        have waits : needers u l.part l.ds ≠ [] := by
          rw [same.needers]
          exact needed
        obtain ⟨ended, seek, count, failed⟩ := ladderFailed_spec l (serveFails l.part l.ds u)
        rw [next, ladderNext_loft loft, toYard_fails waits (by rw [yardEnable_of_cfg same.cfg, partAt_of_parts same.parts]; exact off)]
        refine ⟨ended, seek, count.trans (congrArg (satAdd · 1) failCount), fun c mem => failed c ?_⟩
        rw [needers_serveFails, same.needers]
        exact mem
  case expiry =>
    intro l ladder yard
    obtain ⟨none, seek, count, -⟩ := ladderFailed_spec l s
    refine ⟨ladderFailed l s, ?_, none, seek, count⟩
    show execYardWaitExpiry s = _
    unfold execYardWaitExpiry
    rw [ladder]
    exact if_pos yard
  case ahead =>
    intro p ascending closed ladder seek running free off ready
    refine ⟨_, if_pos ⟨ascending, ?_, off, ready⟩, rfl⟩
    rw [closed, ladder, seek, running, free]
    rfl

end Sys2Proof.Machine
end


/-! The stages of Dawn (R235, R398, R399, R403 to R407, R414, R415, R451). -/

section

namespace Sys2Proof.Machine

/-- A table made of a function lists each key that the function is asked for. -/
theorem get?_table {α : Type} (f : Nat → α) {p : Nat} : ∀ {ks : List Nat}, p ∈ ks → AMap.get? (ks.map fun k => (k, f k)) p = some (f p)
  | k :: ks, mem => by
    show (if p = k then some (f k) else AMap.get? (ks.map fun k => (k, f k)) p) = _
    split
    case isTrue same => rw [same]
    case isFalse other => exact get?_table f ((List.mem_cons.mp mem).resolve_left other)

/-! ## Domains (R10, R453) -/

theorem bit_switchedOn {n : Nat} (hn : 1 ≤ n) : ∀ (ds : List Nat) (w : Nat), (∀ d ∈ ds, 1 ≤ d) →
    bit (ds.foldl (fun w d => setBits w (d - 1) (d - 1) (b2n true)) w) (n - 1) = (decide (n ∈ ds) || bit w (n - 1))
  | [], w, _ => by simp
  | d :: ds, w, pos => by
    have hd := pos d List.mem_cons_self
    rw [List.foldl_cons, bit_switchedOn hn ds _ fun x mem => pos x (List.mem_cons_of_mem _ mem), bit_setBits _ _ _ (by decide)]
    by_cases same : n = d
    · simp [same, b2n]
    · simp [same, show n - 1 ≠ d - 1 by omega]

/-- Domains switched on out of none: those listed, and no other. -/
theorem domOn_setDoms_of_none {n : Nat} (hn : 1 ≤ n) {ds : List Nat} (pos : ∀ d ∈ ds, 1 ≤ d) {s : State} (none : s.mgt.domains = 0) :
    domOn (setDoms ds true s) n = true ↔ n ∈ ds := by
  have switched := bit_switchedOn hn ds s.mgt.domains pos
  rw [none, show bit 0 (n - 1) = false by simp [bit]] at switched
  show bit (setDoms ds true s).mgt.domains (n - 1) = true ↔ _
  rw [show (setDoms ds true s).mgt.domains = ds.foldl (fun w d => setBits w (d - 1) (d - 1) (b2n true)) 0 by rw [← none]; rfl, switched]
  simp

/-! ## Entering a stage and the hold (R398, R405) -/

theorem enterStage_cfg (st : DawnSt) (n : Nat) (s : State) :
    ∃ log, (enterStage st n s).cfg = { s.cfg with st := st, stage := n, dawnLog := log } := ⟨_, rfl⟩

theorem enterHold_cfg (s : State) : (enterHold s).cfg = { s.cfg with st := .hold } :=
  (sendIdle_frame _).same .cfg rfl

theorem enterHold_hq (s : State) : (enterHold s).hq = (enableFunctions true true s).hq :=
  (sendIdle_frame _).same .hq rfl

theorem domOn_enterHold {n : Nat} (hn : 1 ≤ n) (s : State) :
    domOn (enterHold s) n = true ↔ n ∈ [1, 3, 15, 22, 23, 24, 25, 28, 29] := by
  have kept : (enterHold s).mgt = _ := (sendIdle_frame _).same .mgt rfl
  unfold domOn
  rw [kept]
  exact domOn_setDoms_of_none hn (by decide) (s := { updCfg (fun c => { c with st := .hold }) s with
    mgt := { s.mgt with domains := 0, dayCore := 0, nightReady := false } }) rfl

/-! ## D1: the slots are examined (R403, R404) -/

/-- What the examination of a slot reads. -/
structure SameImages (s t : State) : Prop where
  nor : t.norMem = s.norMem
  fuses : t.cfg.fuses = s.cfg.fuses
  failed : t.cfg.failedD2 = s.cfg.failedD2

theorem SameImages.trans {s u t : State} (h : SameImages s u) (k : SameImages u t) : SameImages s t :=
  ⟨k.nor.trans h.nor, k.fuses.trans h.fuses, k.failed.trans h.failed⟩

theorem examine_of_norMem (f : Fuses) {s t : State} (h : t.norMem = s.norMem) (k : Nat) : examine f t k = examine f s k := by
  unfold examine segBytesOf
  rw [headerAt_of_norMem h]
  unfold norRead norByte
  rw [h]

theorem SameImages.examined {s t : State} (h : SameImages s t) (k : Nat) : examine (fusesOf t) t k = examine (fusesOf s) s k := by
  unfold fusesOf
  rw [h.fuses, examine_of_norMem _ h.nor]

theorem setSlotStatus_images (k code : Nat) (s : State) : SameImages s (setSlotStatus k code s) := by
  by_cases first : k = 0
  · subst first
    exact ⟨rfl, rfl, rfl⟩
  · refine ⟨rfl, ?_, ?_⟩ <;> simp [setSlotStatus, dawnNote, first, updCfg]

theorem slotStatus_setSlotStatus {j k : Nat} (hj : j < 2) (hk : k < 2) (code : Nat) (s : State) :
    slotStatus (setSlotStatus j code s) k = if k = j then code else slotStatus s k := by
  obtain rfl | rfl : j = 0 ∨ j = 1 := by omega
  all_goals
    obtain rfl | rfl : k = 0 ∨ k = 1 := by omega
    all_goals rfl

/-- Slots examined in turn: each takes its result, the others keep theirs. -/
theorem slotStatus_examined {k : Nat} (hk : k < 2) : ∀ (ks : List Nat) (s : State), (∀ j ∈ ks, j < 2) →
    SameImages s (each (fun k s => setSlotStatus k (examine (fusesOf s) s k) s) ks s)
      ∧ slotStatus (each (fun k s => setSlotStatus k (examine (fusesOf s) s k) s) ks s) k = if k ∈ ks then examine (fusesOf s) s k else slotStatus s k
  | [], s, _ => ⟨⟨rfl, rfl, rfl⟩, rfl⟩
  | j :: ks, s, lt => by
    have here := setSlotStatus_images j (examine (fusesOf s) s j) s
    obtain ⟨images, status⟩ := slotStatus_examined hk ks (setSlotStatus j (examine (fusesOf s) s j) s) fun x mem => lt x (List.mem_cons_of_mem _ mem)
    refine ⟨here.trans images, status.trans ?_⟩
    rw [here.examined, slotStatus_setSlotStatus (lt j List.mem_cons_self) hk]
    by_cases same : k = j
    · simp [same]
    · simp [same]

/-- The slots that D1 leaves, once it has examined those that have not failed before. -/
def slotsExamined (s : State) : State :=
  each (fun k s => setSlotStatus k (examine (fusesOf s) s k) s) ([0, 1].filter fun k => !s.cfg.failedD2.contains k) s

theorem slotsExamined_images (s : State) : SameImages s (slotsExamined s) :=
  (slotStatus_examined (by decide : 0 < 2) _ s fun j mem => by
    have := List.mem_of_mem_filter mem
    simp at this
    omega).1

theorem slotStatus_slotsExamined {s : State} {k : Nat} (hk : k < 2) (sound : s.cfg.failedD2.contains k = false) :
    slotStatus (slotsExamined s) k = examine (fusesOf s) s k := by
  have status := (slotStatus_examined hk ([0, 1].filter fun k => !s.cfg.failedD2.contains k) s fun j mem => by
    have := List.mem_of_mem_filter mem
    simp at this
    omega).2
  refine status.trans (if_pos (List.mem_filter.mpr ⟨?_, by rw [sound]; rfl⟩))
  obtain rfl | rfl : k = 0 ∨ k = 1 := by omega
  all_goals simp

/-- A slot that Dawn may start: not failed at D2, and examined as valid. -/
def bootable (s : State) (k : Nat) : Bool := !s.cfg.failedD2.contains k && examine (fusesOf s) s k == 1

theorem bootable_slotsExamined (s : State) {k : Nat} (hk : k < 2) :
    (!(slotsExamined s).cfg.failedD2.contains k && slotStatus (slotsExamined s) k == 1) = bootable s k := by
  unfold bootable
  rw [(slotsExamined_images s).failed]
  cases failed : s.cfg.failedD2.contains k
  case false => rw [slotStatus_slotsExamined hk failed]
  case true => rw [Bool.not_true, Bool.false_and, Bool.false_and]

theorem chosenSlot_slotsExamined (s : State) :
    chosenSlot (slotsExamined s)
      = if bootable s 0 = true ∧ (bootable s 1 = false ∨ bootSeqOf (headerAt s 1) ≤ bootSeqOf (headerAt s 0)) then some 0
        else if bootable s 1 = true then some 1 else none := by
  have header := headerAt_of_norMem (slotsExamined_images s).nor
  rw [← header 0, ← header 1, ← bootable_slotsExamined s (by decide : 0 < 2), ← bootable_slotsExamined s (by decide : 1 < 2)]
  rfl

theorem exec_dawnD1Done_holds {s : State} (d1 : s.cfg.st = .d1) (none : chosenSlot (slotsExamined s) = none) :
    exec .dawnD1Done s = .next (enterHold (slotsExamined s)) := by
  show execDawnD1Done s = _
  unfold execDawnD1Done
  rw [if_neg (not_not_intro d1)]
  show (match chosenSlot (slotsExamined s) with | .none => _ | some k => _) = _
  rw [none]
  rfl

theorem exec_dawnD1Done_starts {s : State} (d1 : s.cfg.st = .d1) {k : Nat} (chosen : chosenSlot (slotsExamined s) = some k) :
    exec .dawnD1Done s = .next (enterStage .d2 2 (setDoms [4, 5, 6] true (takeImage k (slotsExamined s)))) := by
  show execDawnD1Done s = _
  unfold execDawnD1Done
  rw [if_neg (not_not_intro d1)]
  show (match chosenSlot (slotsExamined s) with | .none => _ | some k => _) = _
  rw [chosen]
  rfl

/-! ## D2: the image's records, or the other slot (R404, R414, R415) -/

/-- What of the configuration a failed check leaves alone. -/
theorem checkFailed_slots (f : Nat × Nat) (s : State) : ∃ a b, (checkFailed f s).cfg = { s.cfg with conflictA := a, conflictB := b } := by
  unfold checkFailed
  dsimp only
  split
  · exact ⟨_, _, rfl⟩
  · exact ⟨_, _, rfl⟩

theorem slotStatus_of_slots {s t : State} (a : t.cfg.slotA = s.cfg.slotA) (b : t.cfg.slotB = s.cfg.slotB) (k : Nat) :
    slotStatus t k = slotStatus s k := by
  unfold slotStatus
  rw [a, b]

/-- An image that fails: its slot is marked, and the other one is tried or Dawn holds. -/
theorem imageFails_spec {s : State} (lt : s.cfg.bootSlot < 2) :
    slotStatus (imageFails s) s.cfg.bootSlot = 9 ∧ s.cfg.bootSlot ∈ (imageFails s).cfg.failedD2
      ∧ (imageFails s).cfg.st = if slotStatus s (1 - s.cfg.bootSlot) = 1 then .d1 else .hold := by
  obtain ⟨k, hk⟩ : ∃ k, k = s.cfg.bootSlot := ⟨_, rfl⟩
  obtain ⟨x, hx⟩ : ∃ x, x = setSlotStatus k 9 (updCfg (fun c => { c with failedD2 := c.failedD2 ++ [k] }) s) := ⟨_, rfl⟩
  have fails : imageFails s = if slotStatus x (1 - k) = 1 then enterStage .d1 1 x else enterHold x := by rw [hx, hk]; rfl
  rw [← hk] at lt ⊢
  have own : slotStatus x k = 9 := by rw [hx, slotStatus_setSlotStatus lt lt, if_pos rfl]
  have other : slotStatus x (1 - k) = slotStatus s (1 - k) := by
    rw [hx, slotStatus_setSlotStatus lt (by omega), if_neg (by omega)]
    rfl
  have failed : k ∈ x.cfg.failedD2 := by
    rw [hx, (setSlotStatus_images ..).failed]
    exact List.mem_append_right _ List.mem_cons_self
  rw [fails, other]
  split
  · exact ⟨own, failed, rfl⟩
  · have cfg := enterHold_cfg x
    refine ⟨(slotStatus_of_slots ?_ ?_ k).trans own, ?_, ?_⟩ <;> rw [cfg]
    exact failed

theorem imageFails_after {s u : State} (lt : s.cfg.bootSlot < 2) {a b : Nat} (same : u.cfg = { s.cfg with conflictA := a, conflictB := b }) :
    slotStatus (imageFails u) s.cfg.bootSlot = 9 ∧ s.cfg.bootSlot ∈ (imageFails u).cfg.failedD2
      ∧ (imageFails u).cfg.st = if slotStatus s (1 - s.cfg.bootSlot) = 1 then .d1 else .hold := by
  have slot : u.cfg.bootSlot = s.cfg.bootSlot := by rw [same]
  have spec := imageFails_spec (s := u) (by rw [slot]; exact lt)
  rw [slot, slotStatus_of_slots (s := s) (t := u) (by rw [same]) (by rw [same])] at spec
  exact spec

/-- The service area loses records to the check, and gains none. -/
theorem serviceFilter_subset (image : List CfgRec) : ∀ (n : Nat) (svc : List CfgRec) (gone : List Nat),
    ∀ r ∈ (serviceFilter n image svc gone).1, r ∈ svc
  | 0, _, _, _, mem => mem
  | n + 1, svc, gone, r, mem => by
    unfold serviceFilter at mem
    split at mem
    · exact mem
    · exact List.mem_of_mem_filter (serviceFilter_subset image n _ _ r mem)

theorem restoreKeys_ready (bad : List Nat) (s : State) : (restoreKeys bad s).cip.ready = true := by
  have posts (u : State) (x : Option Nat) :
      Frame 0x24000 u (match x with | some n => postEvent Src.cip 0x04 0x02 false n u | none => u) := by
    cases x
    · exact Frame.refl _ _
    · exact postEvent_frame ..
  unfold restoreKeys
  dsimp only
  exact congrArg Cip.ready ((Frame.each bad (Frame.refl 0x24000 _) fun i u => posts u _).same .cip rfl)

theorem commitFirst_spec (image : List CfgRec) (bad : List Nat) (s : State) :
    (commitFirst image bad s).cfg.st = .d3 ∧ (commitFirst image bad s).cip.ready = true
      ∧ ∃ svc, (∀ r ∈ svc, r ∈ s.cfg.serviceArea) ∧ (commitFirst image bad s).cfg.records = applyRecs image svc := by
  obtain ⟨u, records, commit⟩ : ∃ u : State, u.cfg.records = applyRecs image (serviceFilter (s.cfg.serviceArea.length + 1) image s.cfg.serviceArea []).1
      ∧ commitFirst image bad s = enterStage .d3 3 (setDoms [2] true (restoreKeys bad u)) := ⟨_, rfl, rfl⟩
  obtain ⟨v, hv⟩ : ∃ v, v = restoreKeys bad u := ⟨_, rfl⟩
  have cfg : v.cfg = u.cfg := by rw [hv]; exact (restoreKeys_frame bad u).same .cfg rfl
  rw [commit, ← hv]
  refine ⟨rfl, ?_, _, serviceFilter_subset image (s.cfg.serviceArea.length + 1) s.cfg.serviceArea [], ?_⟩
  · show v.cip.ready = true
    rw [hv]
    exact restoreKeys_ready bad u
  · show v.cfg.records = _
    rw [cfg, records]

/-! ## D3: the Shed comes up (R305, R334) -/

/-- The dies found stand, and the Shed is as ready as before. -/
structure SameDies (s t : State) : Prop where
  dies : t.shd.dies = s.shd.dies
  ready : t.shd.ready = s.shd.ready

theorem SameDies.trans {s u t : State} (h : SameDies s u) (k : SameDies u t) : SameDies s t :=
  ⟨k.dies.trans h.dies, k.ready.trans h.ready⟩

/-- The last step first, for a chain whose last state is known. -/
theorem SameDies.after {s u t : State} (k : SameDies u t) (h : SameDies s u) : SameDies s t := h.trans k

theorem SameDies.of_shd {s t : State} (h : t.shd = s.shd) : SameDies s t := ⟨congrArg Shd.dies h, congrArg Shd.ready h⟩

theorem SameDies.each {α : Type} {g : α → State → State} (h : ∀ x v, SameDies v (g x v)) : ∀ (xs : List α) (s : State), SameDies s (each g xs s)
  | [], _ => ⟨rfl, rfl⟩
  | x :: xs, s => (h x s).trans (SameDies.each h xs (g x s))

theorem SameDies.ite {s t u : State} {p : Prop} [Decidable p] (h : SameDies s t) (k : SameDies s u) : SameDies s (if p then t else u) := by
  split
  · exact h
  · exact k

theorem postEvent_dies (src block ev : Nat) (prio : Bool) (arg : Nat) (s : State) : SameDies s (postEvent src block ev prio arg s) :=
  SameDies.of_shd ((postEvent_frame ..).same .shd rfl)

theorem replayRelease_dies (r tail : Nat) (s : State) : SameDies s (replayRelease r tail s) :=
  SameDies.ite ⟨rfl, rfl⟩ ⟨rfl, rfl⟩

theorem replayRec_dies (r : JRec) (s : State) : SameDies s (replayRec r s) := by
  unfold replayRec
  split
  case h_3 => exact SameDies.ite ⟨rfl, rfl⟩ ⟨rfl, rfl⟩
  case h_4 => exact replayRelease_dies ..
  case h_6 => exact SameDies.ite ⟨rfl, rfl⟩ ⟨rfl, rfl⟩
  all_goals exact ⟨rfl, rfl⟩

theorem replayOne_dies (x : Nat × Replay) (s : State) : SameDies s (replayOne x s) := by
  obtain ⟨seq, x⟩ := x
  cases x with
  | unit u n => exact ⟨rfl, rfl⟩
  | recs rs => exact SameDies.each replayRec_dies rs s

theorem settleRing_dies (r : Nat) (s : State) : SameDies s (settleRing r s) := SameDies.ite ⟨rfl, rfl⟩ ⟨rfl, rfl⟩

theorem settleBlocks_dies (s : State) : SameDies s (settleBlocks s) := by
  unfold settleBlocks
  refine SameDies.each ?_ _ s
  exact fun _ _ => ⟨rfl, rfl⟩

theorem reportDusk_dies (s : State) : SameDies s (reportDusk s) :=
  SameDies.after (postEvent_dies ..) ⟨rfl, rfl⟩

theorem startCheckpoint_dies (s : State) : SameDies s (startCheckpoint s) :=
  SameDies.ite ⟨rfl, rfl⟩ (SameDies.ite ⟨rfl, rfl⟩ ⟨rfl, rfl⟩)

theorem checkpointDurable_dies (s : State) : SameDies s (checkpointDurable s) := by
  unfold checkpointDurable
  split
  · exact ⟨rfl, rfl⟩
  · exact SameDies.ite (SameDies.after (startCheckpoint_dies _) ⟨rfl, rfl⟩) ⟨rfl, rfl⟩

theorem takeCache_dies (s : State) : SameDies s (takeCache s) := by
  have granted : (grant 0x34 7 1024 s).2.shd = s.shd := (grant_frame 0x34 7 1024 s).same .shd rfl
  refine SameDies.ite ⟨rfl, rfl⟩ (SameDies.trans (SameDies.of_shd granted) ?_)
  exact ⟨rfl, rfl⟩

theorem setQuota_dies (s : State) : SameDies s (setQuota s) :=
  SameDies.ite (SameDies.after (postEvent_dies ..) ⟨rfl, rfl⟩) ⟨rfl, rfl⟩

/-- The Shed is up, on the dies found. -/
def ShedUp (s t : State) : Prop := t.shd.dies = s.shd.dies ∧ t.shd.ready = true

theorem ShedUp.kept {s u t : State} (k : SameDies u t) (h : ShedUp s u) : ShedUp s t := ⟨k.dies.trans h.1, k.ready.trans h.2⟩

theorem formatShed_up (s : State) : ShedUp s (formatShed s) :=
  ShedUp.kept (postEvent_dies ..) ⟨rfl, rfl⟩

theorem replayFrom_up (c : Ckpt) (bad : List Nat) (s : State) : ShedUp s (replayFrom c bad s) := by
  unfold replayFrom
  extract_lets s1 evs s2 s3 s4 s5 recs done s6
  have loaded : SameDies s s1 := ⟨rfl, rfl⟩
  have replayed : SameDies s1 s2 := SameDies.each replayOne_dies evs s1
  have settled : SameDies s2 s3 := SameDies.each settleRing_dies (List.range 8) s2
  have rings := (loaded.trans replayed).trans settled
  clear_value s3
  have same : SameDies s3 s5 := ⟨rfl, rfl⟩
  have kept := rings.trans same
  have ready : ShedUp s5 (updShd (fun d => { d with dusks := d.dusks + done, ready := true, replaying := false }) s5) := ⟨rfl, rfl⟩
  have up : ShedUp s s6 := ShedUp.kept (settleBlocks_dies _) ⟨ready.1.trans kept.dies, ready.2⟩
  refine ShedUp.kept (checkpointDurable_dies _) (ShedUp.kept (startCheckpoint_dies _) ?_)
  split
  · exact ShedUp.kept (reportDusk_dies s6) up
  · exact up

theorem bringShed_up (bad : List Nat) (s : State) : ShedUp s (bringShed bad s) := by
  unfold bringShed
  split
  · split
    · exact replayFrom_up ..
    · exact formatShed_up s
  · exact formatShed_up s

/-! ## D3: the required resources (R398, R80, R304, R451) -/

/-- The required resources are there. -/
def resourcesGood (r : D3Res) (s : State) : Bool :=
  dramTrained s && decide (packetMinimum (Cfgw.exposureMiB s) ≤ (stableSizes s).getD 1 0) && nandFits r && decide (4 ≤ r.lanes.length)
    && r.lanes.all id && r.railsGood

theorem d3Failures_bad (r : D3Res) (s : State) : (d3Failures r s).1 = !resourcesGood r s := by
  have short : decide ((stableSizes s).getD 1 0 < packetMinimum (Cfgw.exposureMiB s)) = !decide (packetMinimum (Cfgw.exposureMiB s) ≤ (stableSizes s).getD 1 0) := by
    simp only [← decide_not, Nat.not_le]
  have few : decide (r.lanes.length < 4) = !decide (4 ≤ r.lanes.length) := by simp only [← decide_not, Nat.not_le]
  have dead : r.lanes.any (! ·) = !r.lanes.all id := by rw [List.not_all_eq_any_not]; rfl
  show (!dramTrained s || decide ((stableSizes s).getD 1 0 < packetMinimum (Cfgw.exposureMiB s)) || !nandFits r
    || (decide (r.lanes.length < 4) || r.lanes.any (! ·)) || !r.railsGood) = _
  rw [short, few, dead]
  simp only [resourcesGood, Bool.not_and, Bool.or_assoc]

/-- The links and domains that D3 switches on before it looks at what must be there. -/
def d3Opened (r : D3Res) (s : State) : State :=
  enableFunctions (pcieEnabled s 0) (pcieEnabled s 1) (setDoms ((List.range 30).map (· + 1)) true (d3Record r s))

theorem resourcesGood_d3Opened (r : D3Res) (s : State) : resourcesGood r (d3Opened r s) = resourcesGood r (d3Record r s) := rfl

/-- The Bridle and the fabric are up, the links have started, and scrubbing begins. -/
def d3Started (r : D3Res) (slew : Nat) (s : State) : State :=
  let u := updRch (fun h => { h with links := (List.range 4).map fun k => (k, linkStarted (r.linksUp.getD k false)) })
    (updFab (fun f => { f with ready := true }) (updBrd (fun b => { b with ready := true, slew := slew }) s))
  enterStage .d4 4 { u with stk := { u.stk with scrubActive := true } }

/-- So D3 ends, with the lanes driving. -/
def d3Up (r : D3Res) (s : State) : State := d3Started r (Cfgw.speedSlew s) (startLanes s)

/-- The Shed with its Stables, its map cache and its spill quota. -/
def d3Shed (r : D3Res) (s : State) : State := setQuota (bringShed r.unreadable (takeCache (buildStables s)))

theorem exec_dawnD3Done {r : D3Res} {s : State} (d3 : s.cfg.st = .d3) :
    exec (.dawnD3Done r) s
      = if resourcesGood r (d3Record r s) = true
        then .next (d3Up r (d3Shed r (d3Failures r (d3Opened r s)).2))
        else .next (updCfg (fun c => { c with st := .faulted }) (d3Failures r (d3Opened r s)).2) := by
  have bad := d3Failures_bad r (d3Opened r s)
  rw [resourcesGood_d3Opened] at bad
  show execDawnD3Done r s = _
  unfold execDawnD3Done
  rw [if_neg (not_not_intro d3)]
  extract_lets s1
  have opened : s1 = d3Opened r s := rfl
  rw [opened]
  clear_value s1
  generalize d3Failures r (d3Opened r s) = found at bad ⊢
  obtain ⟨fails, v⟩ := found
  rw [show fails = _ from bad]
  cases resourcesGood r (d3Record r s)
  case false => rfl
  case true =>
    rw [if_pos rfl]
    refine (if_neg Bool.false_ne_true).trans ?_
    unfold d3Up d3Started d3Shed
    dsimp only
    generalize setQuota (bringShed r.unreadable (takeCache (buildStables v))) = shed
    rfl

theorem d3Started_shd (r : D3Res) (slew : Nat) (s : State) : (d3Started r slew s).shd = s.shd := rfl

theorem d3Started_stk (r : D3Res) (slew : Nat) (s : State) :
    (d3Started r slew s).stk.ready = s.stk.ready ∧ (d3Started r slew s).stk.scrubActive = true := ⟨rfl, rfl⟩

theorem d3Started_up (r : D3Res) (slew : Nat) (s : State) :
    (d3Started r slew s).cfg.st = .d4 ∧ (d3Started r slew s).brd.ready = true ∧ (d3Started r slew s).fab.ready = true := ⟨rfl, rfl, rfl⟩

theorem rxAt_d3Started (r : D3Res) (slew : Nat) (s : State) {k : Nat} (hk : k < 4) :
    (rxAt (d3Started r slew s) k).up = r.linksUp.getD k false := by
  have listed : AMap.get? (d3Started r slew s).rch.links k = some (linkStarted (r.linksUp.getD k false)) :=
    get?_table (fun k => linkStarted (r.linksUp.getD k false)) (List.mem_range.mpr hk)
  unfold rxAt AMap.getD
  rw [listed]
  rfl

theorem d3Up_shd (r : D3Res) (s : State) : (d3Up r s).shd = s.shd :=
  (d3Started_shd ..).trans ((startLanes_frame s).same .shd rfl)

theorem d3Up_stkReady (r : D3Res) (s : State) : (d3Up r s).stk.ready = s.stk.ready :=
  (d3Started_stk ..).1.trans (congrArg Stk.ready ((startLanes_frame s).same .stk rfl))

theorem d3Up_scrubs (r : D3Res) (s : State) : (d3Up r s).stk.scrubActive = true := (d3Started_stk ..).2

theorem grant_ready (req b : Nat) : ∀ (n : Nat) (s : State), (grant req b n s).2.stk.ready = s.stk.ready
  | 0, _ => rfl
  | n + 1, s => by
    unfold grant grantOne
    cases takeFree (stableAt s b) with
    | none => rfl
    | some x => exact grant_ready req b n _

theorem takeCache_stkReady (s : State) : (takeCache s).stk.ready = s.stk.ready := by
  unfold takeCache
  split
  · rfl
  · exact grant_ready ..

/-- The dies found stand, the Shed is up and the Stables are built. -/
theorem d3Shed_up (r : D3Res) (s : State) : ShedUp s (d3Shed r s) ∧ (d3Shed r s).stk.ready = true := by
  obtain ⟨x, hx⟩ : ∃ x, x = takeCache (buildStables s) := ⟨_, rfl⟩
  have cached : SameDies s x := by
    rw [hx]
    exact (SameDies.of_shd ((buildStables_frame s).same .shd rfl)).trans (takeCache_dies _)
  have ready : x.stk.ready = true := by
    rw [hx]
    exact takeCache_stkReady _
  have up : ShedUp x (setQuota (bringShed r.unreadable x)) := ShedUp.kept (setQuota_dies _) (bringShed_up r.unreadable x)
  have stk : (setQuota (bringShed r.unreadable x)).stk = x.stk :=
    ((setQuota_frame _).same .stk rfl).trans ((bringShed_frame ..).same .stk rfl)
  rw [d3Shed, ← hx]
  exact ⟨⟨up.1.trans cached.dies, up.2⟩, (congrArg Stk.ready stk).trans ready⟩

/-! ## D4: the calibrated taps (R235, R398, R403) -/

/-- The taps of a channel among those that D4 reads; the last of a class stands. -/
def tapsOf (r : D4Res) (p : Nat) : AMap (List Nat) := r.taps.foldl (fun (m : AMap (List Nat)) t => if t.1 = p then AMap.set m t.2.1 t.2.2 else m) []

theorem tapsOf_single {r : D4Res} {p c : Nat} {x : List Nat} (taps : r.taps = [(p, c, x)]) : AMap.get? (tapsOf r p) c = some x := by
  unfold tapsOf
  rw [taps]
  show AMap.get? (if p = p then AMap.set [] c x else []) c = _
  rw [if_pos rfl]
  exact AMap.get?_set_self ..

/-- The channels as D4 leaves them. -/
def d4Up (r : D4Res) (s : State) : State :=
  enterStage .d5 5 (updRch (fun h => { h with
    ready := true
    chans := (List.range 132).map fun p => (p, { initial := tapsOf r p, taps := AMap.getD (tapsOf r p) s.rch.cls [] }) }) s)

theorem exec_dawnD4Done_up {r : D4Res} {s : State} (d4 : s.cfg.st = .d4) (hash : r.hashOk = true) : exec (.dawnD4Done r) s = .next (d4Up r s) := by
  show execDawnD4Done r s = _
  unfold execDawnD4Done
  rw [if_neg (not_not_intro d4), hash]
  rfl

theorem chanAt_d4Up (r : D4Res) (s : State) {p : Nat} (hp : p < 132) : (chanAt (d4Up r s) p).initial = tapsOf r p := by
  have listed : AMap.get? (d4Up r s).rch.chans p = some { initial := tapsOf r p, taps := AMap.getD (tapsOf r p) s.rch.cls [] } :=
    get?_table (fun p => ({ initial := tapsOf r p, taps := AMap.getD (tapsOf r p) s.rch.cls [] } : Chan)) (List.mem_range.mpr hp)
  unfold chanAt AMap.getD
  rw [listed]
  rfl

/-- Settles O47: D1's choice is `chosenSlot_slotsExamined`, D2's effect `imageFails_after` or `commitFirst_spec`, and D3's `exec_dawnD3Done`. -/
theorem dawnBringsTheMachineUp : Obligations.DawnBringsTheMachineUp := by
  unfold Obligations.DawnBringsTheMachineUp
  intro s
  refine ⟨?cold, fun d0 => ⟨?d0bad, ?d0good⟩, ?d1, ?d2, ?d3, fun r d4 => ⟨?d4bad, ?d4good⟩, ?d5⟩
  case cold =>
    intro f reset pfail
    refine ⟨_, if_neg ?_, rfl, rfl, rfl⟩
    rw [reset, pfail]
    simp
  case d0bad =>
    intro crc
    have hq := enterHold_hq (trainPorts s)
    refine ⟨enterHold (trainPorts s), (if_neg (not_not_intro d0)).trans (if_pos crc), ?_, ?_, ?_, fun n hn => domOn_enterHold hn _⟩
    · rw [enterHold_cfg]
    · rw [hq]; rfl
    · rw [hq]; rfl
  case d0good =>
    intro crc
    exact ⟨_, (if_neg (not_not_intro d0)).trans (if_neg (not_not_intro crc)), rfl, rfl, rfl, rfl, rfl⟩
  case d1 =>
    intro d1
    have chosen := chosenSlot_slotsExamined s
    have statusA := slotStatus_slotsExamined (s := s) (by decide : 0 < 2)
    have statusB := slotStatus_slotsExamined (s := s) (by decide : 1 < 2)
    by_cases a : bootable s 0 = true ∧ (bootable s 1 = false ∨ bootSeqOf (headerAt s 1) ≤ bootSeqOf (headerAt s 0))
    · rw [if_pos a] at chosen
      obtain ⟨okA, first⟩ := a
      refine ⟨_, exec_dawnD1Done_starts d1 chosen, fun noA => ?_, fun _ => ⟨rfl, ?_, okA, ?_⟩, statusA, statusB⟩
      · exact absurd (noA.symm.trans okA) Bool.false_ne_true
      · exact Nat.two_pos
      · exact iff_of_true rfl ⟨okA, fun okB => first.resolve_left fun noB => Bool.false_ne_true (noB.symm.trans okB)⟩
    · rw [if_neg a] at chosen
      by_cases b : bootable s 1 = true
      · rw [if_pos b] at chosen
        refine ⟨_, exec_dawnD1Done_starts d1 chosen, fun _ noB => ?_, fun _ => ⟨rfl, ?_, b, ?_⟩, statusA, statusB⟩
        · exact absurd (noB.symm.trans b) Bool.false_ne_true
        · exact Nat.one_lt_two
        · exact iff_of_false Nat.one_ne_zero fun all => a ⟨all.1, .inr (all.2 b)⟩
      · rw [if_neg b] at chosen
        refine ⟨_, exec_dawnD1Done_holds d1 chosen, fun _ _ => ?_, fun ok => ?_, ?_, ?_⟩
        · rw [enterHold_cfg]
        · exact absurd (ok.resolve_right b) fun okA => a ⟨okA, .inl (Bool.eq_false_iff.mpr b)⟩
        · rw [enterHold_cfg]; exact statusA
        · rw [enterHold_cfg]; exact statusB
  case d2 =>
    intro bad d2 lt
    have stage : exec (.dawnD2Done bad) s = execDawnD2Done bad s := rfl
    unfold Runs
    rw [stage]
    unfold execDawnD2Done
    rw [if_neg (not_not_intro d2)]
    cases slotRecords s s.cfg.bootSlot with
    | none =>
      have cfg : (inc 0x120104 s).cfg = s.cfg := (inc_frame ..).same .cfg rfl
      exact ⟨_, rfl, imageFails_after (a := s.cfg.conflictA) (b := s.cfg.conflictB) lt cfg⟩
    | some recs =>
      dsimp only
      cases checkSet .dawn [] recs with
      | some f =>
        obtain ⟨a, b, cfg⟩ := checkFailed_slots f (addCtr 0x120108 (recs.filter ignored).length s)
        exact ⟨_, rfl, imageFails_after lt cfg⟩
      | none => exact ⟨_, rfl, commitFirst_spec _ bad (addCtr 0x120108 (recs.filter ignored).length s)⟩
  case d3 =>
    intro r d3
    have run := exec_dawnD3Done (r := r) d3
    have found := d3Failures_frame r (d3Opened r s)
    have dies : (d3Failures r (d3Opened r s)).2.shd.dies = r.dies := congrArg Shd.dies (found.same .shd rfl)
    by_cases good : resourcesGood r (d3Record r s) = true
    · rw [if_pos good] at run
      obtain ⟨⟨same, ready⟩, stables⟩ := d3Shed_up r (d3Failures r (d3Opened r s)).2
      obtain ⟨v, hv⟩ : ∃ v, v = d3Shed r (d3Failures r (d3Opened r s)).2 := ⟨_, rfl⟩
      rw [← hv] at run same ready stables
      have shd := d3Up_shd r v
      obtain ⟨st, brd, fab⟩ := d3Started_up r (Cfgw.speedSlew v) (startLanes v)
      refine ⟨_, run, ?_, fun bad => absurd (bad.symm.trans good) Bool.false_ne_true, fun _ => ⟨st, ?_, brd, fab, ?_, ?_, ?_⟩⟩
      · rw [shd, same, dies]
      · rw [shd, ready]
      · exact d3Up_scrubs r v
      · exact (d3Up_stkReady r v).trans stables
      · exact fun k hk => rxAt_d3Started r _ _ hk
    · rw [if_neg good] at run
      exact ⟨_, run, dies, fun _ => rfl, fun isGood => absurd isGood good⟩
  case d4bad =>
    intro hash
    refine ⟨_, (if_neg (not_not_intro d4)).trans (if_pos hash), ?_⟩
    exact congrArg Cfg.st ((postUnlisted_frame _).same .cfg rfl)
  case d4good =>
    intro hash
    refine ⟨_, exec_dawnD4Done_up d4 hash, rfl, rfl, ?_, fun p c x hp taps => ?_⟩
    · exact (List.length_map _).trans List.length_range
    · rw [chanAt_d4Up r s hp]
      exact tapsOf_single taps
  case d5 =>
    intro a b d5
    exact ⟨_, if_neg (not_not_intro d5), rfl, rfl⟩

end Sys2Proof.Machine
end


/-! Reconstruction of lost units: survivors, segments, failures and rebuilds onto a replacement (R251, R353, R368 to R373). -/

section

namespace Sys2Proof.Machine

/-! ## The rows of stripes: what survivors are chosen by (R344, R351, R364) -/

/-- What says which member holds which place of a stripe, and which members are there. -/
structure SameRows (s t : State) : Prop where
  desc : t.yrd.desc = s.yrd.desc
  oldDescs : t.yrd.oldDescs = s.yrd.oldDescs
  map : t.yrd.map = s.yrd.map
  standIns : t.yrd.standIns = s.yrd.standIns
  journal : t.yrd.journal = s.yrd.journal
  replicas : t.yrd.replicas = s.yrd.replicas
  nulls : t.yrd.nulls = s.yrd.nulls
  pos : t.yrd.reshapePos = s.yrd.reshapePos
  bound : t.yrd.reshapeBound = s.yrd.reshapeBound

theorem SameRows.of_yrd {s t : State} (h : t.yrd = s.yrd) : SameRows s t := by constructor <;> rw [h]

section SameRows

variable {s t : State} (h : SameRows s t)

include h

theorem SameRows.descFor : descFor t = descFor s := by
  funext stripe
  unfold Machine.descFor
  rw [h.oldDescs, h.desc]

theorem SameRows.isPresent : isPresent t = isPresent s := by
  funext i
  unfold Machine.isPresent memberState
  rw [h.map]

theorem SameRows.stripeK : stripeK t = stripeK s := by
  funext stripe
  unfold Machine.stripeK
  rw [h.descFor]

theorem SameRows.nullSlots : nullSlots t = nullSlots s := by
  funext stripe
  unfold Machine.nullSlots
  rw [h.journal, h.replicas, h.nulls]

theorem SameRows.reworked : reworked t = reworked s := by
  funext stripe
  unfold Machine.reworked
  rw [h.pos, h.bound]

theorem SameRows.rowHolders : rowHolders t = rowHolders s := by
  funext rework stripe
  unfold Machine.rowHolders reworkHolders
  rw [h.descFor, h.desc, h.isPresent]

theorem SameRows.placeMember : placeMember t = placeMember s := by
  funext stripe place
  unfold Machine.placeMember slotMember
  rw [h.stripeK, h.descFor, h.standIns, h.rowHolders, h.reworked]

theorem SameRows.survivorsFor : survivorsFor t = survivorsFor s := by
  funext stripe place erased
  unfold Machine.survivorsFor
  rw [h.stripeK, h.rowHolders, h.reworked, h.isPresent, h.placeMember, h.nullSlots]

theorem SameRows.msgPlace (m : YMsg) : msgPlace t m = msgPlace s m := by
  unfold Machine.msgPlace
  rw [h.stripeK]

end SameRows

/-! ## Survivors (R353, R368) -/

/-- A place may take part in the reconstruction of another: it is not that one, has not failed, and its member is PRESENT. -/
def mayServe (s : State) (stripe place : Nat) (erased : List Nat) (p : Nat) : Bool :=
  p != place && !erased.contains p && isPresent s (placeMember s stripe p)

theorem mayServe_iff {s : State} {stripe place : Nat} {erased : List Nat} {p : Nat} :
    mayServe s stripe place erased p = true ↔ p ≠ place ∧ p ∉ erased ∧ isPresent s (placeMember s stripe p) = true := by
  simp [mayServe, and_assoc]

theorem survivorsFor_spec {s : State} {stripe place : Nat} {erased : List Nat} {sv : List (Nat × Nat × Nat)}
    (chosen : survivorsFor s stripe place erased = some sv) :
    sv.length = ((List.range (stripeK s stripe)).filter fun k => !bit (nullSlots s stripe) k).length
      ∧ ∀ x ∈ sv, mayServe s stripe place erased x.1 = true ∧ x.2.1 = placeMember s stripe x.1 := by
  unfold survivorsFor at chosen
  extract_lets k m can data have_ miss js w t v base coef at chosen
  split at chosen
  case isTrue => cases chosen
  case isFalse enough =>
    obtain rfl := Option.some.inj chosen
    have roles : js.length = miss.length := Nat.le_antisymm (List.length_take_le ..) (Nat.not_lt.mp enough)
    have coefs : v.length = js.length := by simp only [v, List.length_map, List.length_zipIdx]
    constructor
    · have parts : have_.length + miss.length = data.length := (List.length_eq_length_filter_add can).symm
      rw [List.length_append, List.length_map, List.length_map, List.length_zip, coefs, Nat.min_self, roles, parts]
    · intro x mem
      rcases List.mem_append.mp mem with slot | role
      · obtain ⟨i, from_, rfl⟩ := List.mem_map.mp slot
        exact ⟨(List.mem_filter.mp from_).2, rfl⟩
      · obtain ⟨⟨j, c⟩, from_, rfl⟩ := List.mem_map.mp role
        exact ⟨(List.mem_filter.mp (List.mem_of_mem_take (List.of_mem_zip from_).1)).2, rfl⟩

/-! ## The queue of a rebuild (R371) -/

/-- A stripe is at least as urgent as another: more erasures, or as many and the lower index. -/
def AsExposed (s : State) (x y : Nat × Nat) : Prop := exposureOf s x.1 < exposureOf s y.1 ∨ (exposureOf s x.1 = exposureOf s y.1 ∧ y.1 ≤ x.1)

theorem AsExposed.refl (s : State) (x : Nat × Nat) : AsExposed s x x := .inr ⟨rfl, Nat.le_refl _⟩

theorem AsExposed.trans {s : State} {x y z : Nat × Nat} (h : AsExposed s x y) (k : AsExposed s y z) : AsExposed s x z := by
  unfold AsExposed at *
  omega

/-- The more urgent of two, as `nextExposed` takes it. -/
def moreExposed (s : State) (best : Option (Nat × Nat)) (x : Nat × Nat) : Option (Nat × Nat) :=
  match best with
  | none => some x
  | some b => if exposureOf s b.1 < exposureOf s x.1 ∨ (exposureOf s b.1 = exposureOf s x.1 ∧ x.1 < b.1) then some x else best

theorem nextExposed_eq (s : State) : nextExposed s = s.yrd.rebuildTodo.foldl (moreExposed s) none := rfl

theorem moreExposed_some (s : State) (b x : Nat × Nat) :
    ∃ c, moreExposed s (some b) x = some c ∧ (c = b ∨ c = x) ∧ AsExposed s b c ∧ AsExposed s x c := by
  unfold moreExposed
  dsimp only
  split
  case isTrue more => exact ⟨x, rfl, .inr rfl, more.imp id fun h => ⟨h.1, h.2.le⟩, .refl s x⟩
  case isFalse notMore =>
    refine ⟨b, rfl, .inl rfl, .refl s b, ?_⟩
    unfold AsExposed
    omega

theorem foldl_moreExposed (s : State) : ∀ (xs : List (Nat × Nat)) (b : Nat × Nat),
    ∃ c, xs.foldl (moreExposed s) (some b) = some c ∧ (c = b ∨ c ∈ xs) ∧ AsExposed s b c ∧ ∀ x ∈ xs, AsExposed s x c
  | [], b => ⟨b, rfl, .inl rfl, .refl s b, fun x mem => absurd mem List.not_mem_nil⟩
  | x :: xs, b => by
    obtain ⟨c, step, fromOne, overB, overX⟩ := moreExposed_some s b x
    obtain ⟨d, rest, fromRest, overC, overAll⟩ := foldl_moreExposed s xs c
    refine ⟨d, (congrArg (xs.foldl (moreExposed s)) step).trans rest, ?_, overB.trans overC, fun y mem => ?_⟩
    · rcases fromRest with same | mem
      · rw [same, List.mem_cons]
        exact fromOne.imp id .inl
      · exact .inr (List.mem_cons_of_mem _ mem)
    · rcases List.mem_cons.mp mem with rfl | mem
      · exact overX.trans overC
      · exact overAll y mem

theorem nextExposed_spec {s : State} {x : Nat × Nat} (next : nextExposed s = some x) :
    x ∈ s.yrd.rebuildTodo ∧ ∀ y ∈ s.yrd.rebuildTodo, AsExposed s y x := by
  rw [nextExposed_eq] at next
  cases queue : s.yrd.rebuildTodo with
  | nil =>
    rw [queue] at next
    cases next
  | cons b xs =>
    rw [queue] at next
    obtain ⟨c, last, from_, overB, overAll⟩ := foldl_moreExposed s xs b
    obtain rfl : c = x := Option.some.inj (last.symm.trans next)
    refine ⟨List.mem_cons.mpr from_, fun y mem => ?_⟩
    rcases List.mem_cons.mp mem with rfl | mem
    · exact overB
    · exact overAll y mem

theorem nextExposed_nil {s : State} (empty : s.yrd.rebuildTodo = []) : nextExposed s = none := by rw [nextExposed_eq, empty]; rfl

/-! ## The Yard's counters -/

/-- The counters of the Yard stand as they were. -/
structure YardCounts (s t : State) : Prop where
  same : ∀ c, 0x0F0000 ≤ c → c < 0x100000 → ctr t c = ctr s c

theorem YardCounts.refl (s : State) : YardCounts s s := ⟨fun _ _ _ => rfl⟩

theorem YardCounts.trans {s u t : State} (h : YardCounts s u) (k : YardCounts u t) : YardCounts s t :=
  ⟨fun c lo hi => (k.same c lo hi).trans (h.same c lo hi)⟩

theorem YardCounts.of_ctrs {s t : State} (h : t.ctrs = s.ctrs) : YardCounts s t := ⟨fun c _ _ => by unfold ctr; rw [h]⟩

theorem YardCounts.of_others {s t : State} (h : OtherCounts s t) : YardCounts s t :=
  ⟨fun c _ _ => h.same c (by omega) (by omega) (by omega)⟩

theorem YardCounts.each {α : Type} {f : α → State → State} (h : ∀ x v, YardCounts v (f x v)) : ∀ (xs : List α) (s : State), YardCounts s (each f xs s)
  | [], s => .refl s
  | x :: xs, s => (h x s).trans (YardCounts.each h xs (f x s))

theorem YardCounts.ite {s t u : State} {p : Prop} [Decidable p] (h : YardCounts s t) (k : YardCounts s u) : YardCounts s (if p then t else u) := by
  split
  · exact h
  · exact k

/-- A counter of the fabric. -/
theorem addCtr_yardCounts {off : Nat} (fabric : 0x100000 ≤ off) (n : Nat) (s : State) : YardCounts s (addCtr off n s) :=
  ⟨fun c _ hi => (ctr_addCtr ..).trans (if_neg (by omega))⟩

theorem owe_yardCounts (p vc : Nat) (s : State) : YardCounts s (owe p vc s) := .ite (.of_ctrs rfl) (.refl s)

theorem sendNext_yardCounts (p vc i : Nat) (q : QFlit) (s : State) : YardCounts s (sendNext p vc i q s) := by
  unfold sendNext
  refine YardCounts.trans ?_ (owe_yardCounts ..)
  refine YardCounts.trans ?_ (addCtr_yardCounts (by unfold fabCtr; omega) ..)
  exact .of_ctrs rfl

theorem pumpPort_yardCounts (p : Nat) : ∀ (n : Nat) (s : State), YardCounts s (pumpPort p n s)
  | 0, s => .refl s
  | n + 1, s => by
    unfold pumpPort
    dsimp only
    split
    · exact .refl s
    split
    · exact .refl s
    split
    · exact .refl s
    split
    · exact .refl s
    · exact (sendNext_yardCounts ..).trans (pumpPort_yardCounts p n _)

theorem fabSend_yardCounts (dest vc : Nat) (b : Bytes) (s : State) : YardCounts s (fabSend dest vc b s) := by
  unfold fabSend
  dsimp only
  split
  · exact .of_ctrs rfl
  split
  · refine YardCounts.trans ?_ (addCtr_yardCounts (by decide) ..)
    exact .of_ctrs rfl
  · refine YardCounts.trans ?_ (pumpPort_yardCounts ..)
    refine YardCounts.trans ?_ (YardCounts.each (fun _ _ => ?_) _ _)
    · exact .of_ctrs rfl
    · exact .of_ctrs rfl

theorem sendOnce_yardCounts (m : YMsg) (s : State) : YardCounts s (sendOnce m s) :=
  .ite (.refl s) (fabSend_yardCounts ..)

theorem sendMsg_yardCounts (m : YMsg) (s : State) : YardCounts s (sendMsg m s) :=
  .ite ((sendOnce_yardCounts m s).trans (.of_ctrs rfl)) (sendOnce_yardCounts m s)

theorem takeDelivered_yardCounts (m : YMsg) (s : State) : YardCounts s (takeDelivered m s) := by
  unfold takeDelivered
  dsimp only
  split
  · exact .refl s
  split
  · refine YardCounts.trans ?_ (.of_others (giveBack_counts ..))
    exact .of_ctrs rfl
  · exact .of_ctrs rfl

/-! ## Messages that expect no reply (R377, R378) -/

theorem sendMsg_unrepeated (m : YMsg) (s : State) (unrepeated : expectsReply m.type = false) : sendMsg m s = sendOnce m s := by
  unfold sendMsg
  rw [unrepeated]
  rfl

theorem yMsg_of_yrd {s t : State} (h : t.yrd = s.yrd) (type stripe dst role slot : Nat) (payload : Bytes) :
    yMsg t type stripe dst role slot payload = yMsg s type stripe dst role slot payload := by
  unfold yMsg
  rw [h]

/-- Two operations that agree while something is kept, and that keep it, do the same to a list. -/
theorem each_eq_of_kept {α : Type} {P : State → Prop} {f g : α → State → State} (same : ∀ x z, P z → f x z = g x z) (kept : ∀ x z, P z → P (f x z)) :
    ∀ (xs : List α) (s : State), P s → each f xs s = each g xs s ∧ P (each f xs s)
  | [], _, h => ⟨rfl, h⟩
  | x :: xs, s, h => by
    have rest := each_eq_of_kept same kept xs (f x s) (kept x s h)
    refine ⟨rest.1.trans ?_, rest.2⟩
    rw [same x s h]
    rfl

/-- Messages sent in turn, each of the Yard's state as it stands: none of them changes it. -/
theorem each_sendMsg {α : Type} (msg : State → α → YMsg) (same : ∀ {v z : State}, z.yrd = v.yrd → ∀ x, msg z x = msg v x)
    (unrepeated : ∀ z x, expectsReply (msg z x).type = false) (xs : List α) (v : State) :
    each (fun x z => sendMsg (msg z x) z) xs v = each (fun x z => sendMsg (msg v x) z) xs v
      ∧ (each (fun x z => sendMsg (msg z x) z) xs v).yrd = v.yrd ∧ YardCounts v (each (fun x z => sendMsg (msg z x) z) xs v) := by
  have sent := each_eq_of_kept (P := fun z => z.yrd = v.yrd) (f := fun x z => sendMsg (msg z x) z) (g := fun x z => sendMsg (msg v x) z)
    (fun x z h => by show sendMsg (msg z x) z = _; rw [same h]) (fun x z h => (sendMsg_yrd _ z (unrepeated z x)).trans h) xs v rfl
  exact ⟨sent.1, sent.2, YardCounts.each (fun x z => sendMsg_yardCounts _ z) xs v⟩

/-! ## The Loss Log (R373) -/

theorem appendLoss_yardCounts (src : Nat) (l : Loss) (s : State) : YardCounts s (appendLoss src l s) := by
  unfold appendLoss
  refine YardCounts.trans ?_ (.of_others (post_counts ..))
  exact .of_ctrs rfl

theorem appendLoss_lossLog (src : Nat) (l : Loss) (s : State) : (appendLoss src l s).shd.lossLog = s.shd.lossLog ++ [l] := by
  have posted : (appendLoss src l s).shd = _ := (post_frame ..).same .shd rfl
  rw [posted]
  rfl

theorem deferError_yardCounts (p first count cause version : Nat) (s : State) : YardCounts s (deferError p first count cause version s) := by
  unfold deferError
  refine YardCounts.trans ?_ (.of_others (pushMgt_counts ..))
  exact .of_ctrs rfl

/-- What a loss leaves of the Yard and its counters, and the entry that the log gains. -/
structure Logged (stripe part cause ds erasures : Nat) (s t : State) : Prop where
  yrd : t.yrd = s.yrd
  counts : YardCounts s t
  entry : ∃ l : Loss, t.shd.lossLog = s.shd.lossLog ++ [l] ∧ l.stripe = stripe ∧ l.part = part ∧ l.ds = ds ∧ l.cause = cause ∧ l.epoch = s.yrd.epoch
    ∧ l.erasures = erasures

theorem Logged.andThen {stripe part cause ds erasures : Nat} {s u t : State} (h : Logged stripe part cause ds erasures s u)
    (yrd : t.yrd = u.yrd) (shd : t.shd = u.shd) (counts : YardCounts u t) : Logged stripe part cause ds erasures s t := by
  refine ⟨yrd.trans h.yrd, h.counts.trans counts, ?_⟩
  rw [shd]
  exact h.entry

theorem logLoss_logged (stripe member part cause ds erasures : Nat) (s : State) :
    Logged stripe part cause ds erasures s (logLoss stripe member part cause ds erasures s) := by
  unfold logLoss
  extract_lets serial l s1 s2
  have logged : Logged stripe part cause ds erasures s s1 :=
    ⟨(appendLoss_frame ..).same .yrd rfl, YardCounts.trans (u := drawMany 2 s) (.of_ctrs rfl) (appendLoss_yardCounts ..),
      l, appendLoss_lossLog .., rfl, rfl, rfl, rfl, rfl, rfl⟩
  clear_value s1
  have told : ∀ (xs : List (Nat × (Nat × Nat))) (v : State), Logged stripe part cause ds erasures s v → Logged stripe part cause ds erasures s
      (each (fun (x : Nat × (Nat × Nat)) s =>
        if x.2.1 = 0 ∧ isSelf s x.1 = false then sendMsg (yMsg s YT.ledger 0xFFFFFFFF x.1 0 0xFF (be 1 0 ++ lossMsg l)) s else s) xs v) := by
    intro xs
    induction xs with
    | nil => exact fun v h => h
    | cons x xs ih =>
      refine fun v h => ih _ ?_
      dsimp only
      split
      · exact h.andThen (sendMsg_yrd _ v rfl) ((sendMsg_frame ..).same .shd rfl) (sendMsg_yardCounts ..)
      · exact h
  have sent : Logged stripe part cause ds erasures s s2 := told _ _ logged
  split
  · exact sent.andThen ((deferError_frame ..).same .yrd rfl) ((deferError_frame ..).same .shd rfl) (deferError_yardCounts ..)
  · exact sent

/-! ## Reconstructions begun, refused and lost (R368, R369, R372) -/

theorem find_setRecon (r : Recon) (s : State) : ((setRecon r s).yrd.recons.find? fun x => x.stripe == r.stripe) = some r := by
  show ((s.yrd.recons.filter fun x => x.stripe != r.stripe) ++ [r]).find? _ = _
  rw [List.find?_append, List.find?_eq_none.mpr]
  · simp
  · intro x mem
    have other := (List.mem_filter.mp mem).2
    simpa using other

theorem recons_dropRecon (stripe : Nat) (s : State) : ∀ r ∈ (dropRecon stripe s).yrd.recons, r.stripe ≠ stripe := by
  intro r mem
  have other := (List.mem_filter.mp mem).2
  simpa using other

/-- A reconstruction as it begins with the survivors chosen. -/
def begunRecon (r : Recon) (sv : List (Nat × Nat × Nat)) : Recon := { r with survivors := sv, bytes := zeros userArea, seen := [] }

/-- The request to a survivor: its coefficient and what is to be rebuilt. -/
def survivorMsg (r : Recon) (k : Nat) (s : State) (x : Nat × Nat × Nat) : YMsg :=
  yMsg s YT.rebuildReq r.stripe x.2.1 (if x.1 < k then 0 else x.1 - k + 1) (if x.1 < k then x.1 else 0xFF)
    (be 1 x.2.2 ++ be 1 (if r.place < k then r.place else r.place - k + 1))

/-- Survivors chosen are asked, and the reconstruction stands among those under way. -/
theorem startRecon_asks {r : Recon} {s : State} {sv : List (Nat × Nat × Nat)} (chosen : survivorsFor s r.stripe r.place r.erased = some sv)
    (any : sv ≠ []) :
    startRecon r s = each (fun x z => sendMsg (survivorMsg r (stripeK s r.stripe) (setRecon (begunRecon r sv) s) x) z) sv (setRecon (begunRecon r sv) s)
      ∧ (startRecon r s).yrd = (setRecon (begunRecon r sv) s).yrd ∧ YardCounts s (startRecon r s) := by
  have asks : startRecon r s = each (fun x z => sendMsg (survivorMsg r (stripeK s r.stripe) z x) z) sv (setRecon (begunRecon r sv) s) := by
    unfold startRecon
    rw [chosen]
    exact if_neg any
  obtain ⟨sent, yrd, counts⟩ := each_sendMsg (survivorMsg r (stripeK s r.stripe)) (fun h x => yMsg_of_yrd h ..) (fun _ _ => rfl) sv (setRecon (begunRecon r sv) s)
  rw [asks]
  exact ⟨sent, yrd, YardCounts.trans (u := setRecon (begunRecon r sv) s) (.of_ctrs rfl) counts⟩

theorem startRecon_lost {r : Recon} {s : State} (lost : survivorsFor s r.stripe r.place r.erased = none) : startRecon r s = reconLost r s := by
  unfold startRecon
  rw [lost]

/-- What the loss of a stripe that a read asks for leaves. -/
structure LostRead (r : Recon) (s t : State) : Prop where
  answer : t.yrd.answer = some none
  active : t.yrd.rebuildActive = s.yrd.rebuildActive
  counted : ctr t 0x0F0124 = satAdd (ctr s 0x0F0124) 1
  dropped : ∀ x ∈ t.yrd.recons, x.stripe ≠ r.stripe
  entry : ∃ l : Loss, t.shd.lossLog = s.shd.lossLog ++ [l] ∧ l.stripe = r.stripe ∧ l.part = r.part ∧ l.ds = r.ds ∧ l.cause = 1 ∧ l.epoch = s.yrd.epoch
    ∧ l.erasures = r.erased.length + 1

theorem reconLost_read {r : Recon} (use : r.use = .read) (s : State) : LostRead r s (reconLost r s) := by
  have logged := logLoss_logged r.stripe (placeMember s r.stripe r.place) r.part 1 r.ds (r.erased.length + 1) (inc 0x0F0124 (dropRecon r.stripe s))
  unfold reconLost
  rw [use]
  dsimp only
  generalize logLoss r.stripe (placeMember s r.stripe r.place) r.part 1 r.ds (r.erased.length + 1) (inc 0x0F0124 (dropRecon r.stripe s)) = v at logged ⊢
  have active : v.yrd.rebuildActive = s.yrd.rebuildActive := (congrArg Yrd.rebuildActive logged.yrd).trans rfl
  refine ⟨rfl, active, (logged.counts.same _ (by decide) (by decide)).trans ((ctr_inc ..).trans (if_pos rfl)), fun x mem => ?_, logged.entry⟩
  have kept : v.yrd.recons = (dropRecon r.stripe s).yrd.recons := congrArg Yrd.recons logged.yrd
  rw [show (updYrd (fun y => { y with answer := some none }) v).yrd.recons = v.yrd.recons from rfl, kept] at mem
  exact recons_dropRecon r.stripe s x mem

/-! ## The read's rung takes the answer (R250, R251, R252, R472) -/

section Answers

variable {l : Ladder} {s : State} (ladder : s.rch.ladder = some l) (yard : l.st = .yard)

include ladder yard

theorem yardAnswers_none : yardAnswers none s = ladderFailed l s := by
  unfold yardAnswers
  rw [ladder]
  exact if_neg (not_not_intro yard)

theorem yardAnswers_some (b : Bytes) :
    yardAnswers (some b) s
      = if b.length ≤ userArea then ladderDone l 0 (withDsit l.part l.ds b s).1 (withDsit l.part l.ds b s).2
        else if streamExpected s l.part l.ds b = true then ladderDone l 0 b s
        else ladderFailed l (if (dsitOf b).isNone = true then inc 0x050128 s else s) := by
  unfold yardAnswers
  rw [ladder]
  exact if_neg (not_not_intro yard)

end Answers

/-- No answer stands. -/
def unanswered (s : State) : State := updYrd (fun y => { y with answer := none }) s

theorem unanswered_rows (s : State) : SameRows s (unanswered s) := by constructor <;> rfl

theorem unanswered_of_none {s : State} (none : s.yrd.answer = none) : unanswered s = s := by
  show { s with yrd := { s.yrd with answer := .none } } = s
  rw [← none]

/-- The answer given is the one that the Yard engine has, or without one under way what the row brings. -/
theorem exec_yardReconstructReturn {answer data : Option Bytes} {s : State}
    (given : s.yrd.answer = some answer ∨ (s.yrd.answer = none ∧ (s.yrd.recons.any fun r => r.use == .read) = false ∧ data = answer)) :
    exec (.yardReconstructReturn data) s = .next (yardAnswers answer (unanswered s)) := by
  show execYardReconstructReturn data s = _
  unfold execYardReconstructReturn
  rcases given with known | ⟨none, idle, rfl⟩
  · rw [known]
    rfl
  · rw [none, unanswered_of_none none]
    exact if_neg (Bool.eq_false_iff.mp idle)

/-! ## A read asks for its unit (R369) -/

/-- The reconstruction that a read asks for. -/
def readRecon (x : YUnit) (part ds : Nat) : Recon := { stripe := x.stripe, place := x.place, part := part, ds := ds, use := .read }

section ForRead

variable {src arg : Nat} {s w : State} (taken : Takes .yard src 0x0004 arg s w)

include taken

theorem exec_reconstructForRead_fails
    (notSafe : (∀ x ∈ w.yrd.units, ¬(x.part = bits arg 33 32 ∧ x.ds = bits arg 31 0)) ∨ mem? (partAt w (bits arg 33 32)).safeDs (bits arg 31 0) = false) :
    exec (.reconstructForRead src arg) s = .next (yardAnswers none w) := by
  refine (congrArg go (taken.act _)).trans ?_
  dsimp only
  cases found : w.yrd.units.find? fun u => u.part == bits arg 33 32 && u.ds == bits arg 31 0 with
  | none => rfl
  | some x =>
    rcases notSafe with absent | notSafe
    · have place := List.find?_some found
      simp only [Bool.and_eq_true, beq_iff_eq] at place
      exact absurd place (absent x (List.mem_of_find?_eq_some found))
    · dsimp only
      rw [notSafe]
      rfl

theorem exec_reconstructForRead_starts {x : YUnit} (found : (w.yrd.units.find? fun x => x.part == bits arg 33 32 && x.ds == bits arg 31 0) = some x)
    (safe_ : mem? (partAt w (bits arg 33 32)).safeDs (bits arg 31 0) = true) :
    exec (.reconstructForRead src arg) s
      = .next (startRecon (readRecon x (bits arg 33 32) (bits arg 31 0)) (unanswered w)) := by
  refine (congrArg go (taken.act _)).trans ?_
  dsimp only
  rw [found]
  dsimp only
  rw [safe_]
  rfl

end ForRead

/-! ## A survivor's unit (R368) -/

/-- The Yard's message carries the epoch, the Yard and the member of its sender. -/
theorem yMsg_congr {s t : State} (epoch : t.yrd.epoch = s.yrd.epoch) (yard : t.yrd.yardId = s.yrd.yardId) (member : t.yrd.member = s.yrd.member)
    (type stripe dst role slot : Nat) (payload : Bytes) : yMsg t type stripe dst role slot payload = yMsg s type stripe dst role slot payload := by
  unfold yMsg
  rw [epoch, yard, member]

theorem unitAtHand_of_sets {s t : State} (yrd : t.yrd = s.yrd) (rch : t.rch = s.rch) (cart : t.cart = s.cart) : unitAtHand t = unitAtHand s := by
  funext part ds
  unfold unitAtHand tapeSet
  rw [yrd, rch, cart]

theorem serveUnit_of_sets {s t : State} (yrd : t.yrd = s.yrd) (rch : t.rch = s.rch) (cart : t.cart = s.cart) : serveUnit t = serveUnit s := by
  funext stripe place
  unfold serveUnit
  rw [unitAtHand_of_sets yrd rch cart, (SameRows.of_yrd yrd).stripeK, yrd]

theorem serveUnit_takeDelivered (m : YMsg) (s : State) : serveUnit (takeDelivered m s) = serveUnit s :=
  serveUnit_of_sets (takeDelivered_yrd m s) ((takeDelivered_frame m s).same .rch rfl) ((takeDelivered_frame m s).same .cart rfl)

/-- A unit that has been served waits for its tape no more. -/
def unitServed (stripe place : Nat) (s : State) : State :=
  match s.yrd.units.find? fun u => u.stripe == stripe && u.place == place with
  | some u => updYrd (fun y => { y with serve := y.serve.filter fun x => !(x.1 == u.part && x.2.1 == u.ds) }) s
  | none => s

theorem unitServed_spec (stripe place : Nat) (s : State) : ∃ xs, unitServed stripe place s = updYrd (fun y => { y with serve := xs }) s := by
  unfold unitServed
  split
  · exact ⟨_, rfl⟩
  · exact ⟨s.yrd.serve, rfl⟩

/-- Segment i of a unit, times the coefficient that the request gives. -/
def servedSegment (m : YMsg) (b : Bytes) (s : State) (i : Nat) : YMsg :=
  { yMsg s YT.rebuildPart m.stripe m.src m.role m.slot (segment (scaleBytes (BitVec.ofNat 8 (beAt m.payload 0 1)) b) i) with seg := i }

section Requested

variable {m : YMsg} {s : State} (heard : Heard YT.rebuildReq m s)

include heard

theorem exec_rebuildReq_unit {b : Bytes} (unit : serveUnit s m.stripe (msgPlace s m) = .unit b) :
    exec (.rebuildReq m) s
      = .next (each (fun i z => sendMsg (servedSegment m b z i) z) (List.range 300) (unitServed m.stripe (msgPlace s m) (takeDelivered m s))) := by
  show execRebuildReq m s = _
  unfold execRebuildReq
  extract_lets place clear act
  rw [show serveUnit s m.stripe place = _ from unit]
  refine (heard.receive act).trans ?_
  dsimp only [act]
  rw [serveUnit_takeDelivered, show serveUnit s m.stripe place = _ from unit]
  rfl

theorem exec_rebuildReq_fail (fail : serveUnit s m.stripe (msgPlace s m) = .fail) :
    exec (.rebuildReq m) s
      = .next (sendMsg (yMsg (takeDelivered m s) YT.rebuildFail m.stripe m.src m.role m.slot []) (unitServed m.stripe (msgPlace s m) (takeDelivered m s))) := by
  show execRebuildReq m s = _
  unfold execRebuildReq
  extract_lets place clear act
  rw [show serveUnit s m.stripe place = _ from fail]
  refine (heard.receive act).trans ?_
  dsimp only [act]
  rw [serveUnit_takeDelivered, show serveUnit s m.stripe place = _ from fail]
  rfl

theorem exec_rebuildReq_wait {q ds : Nat} (wait : serveUnit s m.stripe (msgPlace s m) = .wait q ds) :
    exec (.rebuildReq m) s
      = if (q, ds, false) ∈ s.yrd.serve then .next s
        else .next (wantTape q ds (updYrd (fun y => { y with serve := y.serve ++ [(q, ds, false)] }) s)) := by
  have epoch : m.epoch = s.yrd.epoch := heard.epoch.resolve_right (by decide)
  show execRebuildReq m s = _
  unfold execRebuildReq
  extract_lets place clear act
  rw [show serveUnit s m.stripe place = _ from wait]
  dsimp only
  rw [if_neg (by simp [heard.type, heard.enrolled, heard.yard, epoch])]
  by_cases asked : (q, ds, false) ∈ s.yrd.serve
  · rw [if_pos asked, if_pos (List.contains_iff_mem.mpr asked)]
    rfl
  · rw [if_neg asked, if_neg fun h => asked (List.contains_iff_mem.mp h)]
    rfl

end Requested

theorem wantTape_yrd (p ds : Nat) (s : State) : (wantTape p ds s).yrd = s.yrd := (wantTape_frame p ds s).same .yrd rfl

theorem wantTape_seek {s : State} (ladder : s.rch.ladder = none) (p ds : Nat) : (wantTape p ds s).rch.seek = some (p, ds) := by
  unfold wantTape
  split
  case isTrue underWay => exact underWay.resolve_left (by rw [ladder]; exact Bool.false_ne_true)
  case isFalse =>
    extract_lets streaming s1
    have sought : s1.rch.seek = some (p, ds) := rfl
    clear_value s1
    split
    · exact sought
    split
    · exact sought
    · exact (congrArg Rch.seek ((sendTape_frame ..).same .rch rfl)).trans sought

/-! ## A unit is rebuilt (R370, R371) -/

/-- A post of the Yard to the formatter, with what it announces put down first. -/
theorem staged_post (f : Yrd → Yrd) (code arg : Nat) (s : State) :
    (post .fmt Src.yard code arg (updYrd f s)).yrd = f s.yrd
      ∧ (hasSlots .fmt Src.yard 1 s = true → boxOf (post .fmt Src.yard code arg (updYrd f s)) .fmt = boxOf s .fmt ++ [mail Src.yard code arg s]) := by
  refine ⟨(post_frame ..).same .yrd rfl, fun slot => ?_⟩
  rw [post_of_slots (s := updYrd f s) ((hasSlots_congr rfl ..).trans slot), boxOf_setBox_self]
  rfl

theorem stageRebuilt_data {r : Recon} {s : State} (data : r.place < stripeK s r.stripe) (b : Bytes) :
    stageRebuilt r b s = post .fmt Src.yard 0x0004 (r.ds % 2 ^ 32 * 2 ^ 27) (updYrd (fun y => { y with
      rebuilt := AMap.set y.rebuilt (r.part * 2 ^ 32 + r.ds) b
      units := y.units.filter (fun u => !(u.part == r.part && u.ds == r.ds)) ++ [⟨r.stripe, r.place, r.part, r.ds⟩] }) s) := if_pos data

theorem stageRebuilt_parity {r : Recon} {s : State} (parity : stripeK s r.stripe ≤ r.place) (b : Bytes) :
    stageRebuilt r b s = post .fmt Src.yard 0x0005 (r.stripe % 2 ^ 32 * 2 ^ 27) (updYrd (fun y => { y with
      accums := y.accums ++ [{ stripe := r.stripe, role := r.place - stripeK s r.stripe + 1, bytes := b, isSealed := true }] }) s) :=
  if_neg (Nat.not_lt.mpr parity)

theorem stageRebuilt_answer (r : Recon) (b : Bytes) (s : State) : (stageRebuilt r b s).yrd.answer = s.yrd.answer := by
  by_cases data : r.place < stripeK s r.stripe
  · rw [stageRebuilt_data data, (staged_post ..).1]
  · rw [stageRebuilt_parity (Nat.not_lt.mp data), (staged_post ..).1]

/-! ## A reconstruction is complete (R369, R371) -/

/-- The machine with the last segment of a unit added and its reconstruction over. -/
def reconEnded (r : Recon) (s : State) : State := inc 0x0F011C (dropRecon r.stripe (setRecon r s))

/-- The read's answer is known. -/
def answered (b : Bytes) (s : State) : State := updYrd (fun y => { y with answer := some (some b) }) s

theorem answered_yrd (b : Bytes) (s : State) :
    (answered b s).yrd.answer = some (some b) ∧ (answered b s).yrd.rebuildActive = s.yrd.rebuildActive ∧ (answered b s).yrd.recons = s.yrd.recons :=
  ⟨rfl, rfl, rfl⟩

theorem ctr_answered (b : Bytes) (s : State) (c : Nat) : ctr (answered b s) c = ctr s c := rfl

theorem reconDone_read {r : Recon} (use : r.use = .read) (s : State) :
    reconDone r (setRecon r s) = answered r.bytes (reconEnded r s) := by
  unfold reconDone
  rw [use]
  rfl

theorem reconDone_rebuild {r : Recon} (use : r.use = .rebuild) (s : State) : reconDone r (setRecon r s) = stageRebuilt r r.bytes (reconEnded r s) := by
  unfold reconDone
  rw [use]
  rfl

theorem reconEnded_active (r : Recon) (s : State) : (reconEnded r s).yrd.rebuildActive = s.yrd.rebuildActive := rfl

theorem reconEnded_todo (r : Recon) (s : State) : (reconEnded r s).yrd.rebuildTodo = s.yrd.rebuildTodo := rfl

theorem ctr_reconEnded (r : Recon) (s : State) : ctr (reconEnded r s) 0x0F011C = satAdd (ctr s 0x0F011C) 1 := (ctr_inc ..).trans (if_pos rfl)

theorem reconEnded_boxes (r : Recon) (s : State) : (reconEnded r s).boxes = s.boxes := rfl

theorem reconEnded_rows (r : Recon) (s : State) : SameRows s (reconEnded r s) := by constructor <;> rfl

/-! ## The rebuild goes on (R371, R372) -/

theorem startRecon_answer {r : Recon} (use : r.use = .rebuild) (s : State) : (startRecon r s).yrd.answer = s.yrd.answer := by
  cases chosen : survivorsFor s r.stripe r.place r.erased with
  | none =>
    have logged := (logLoss_logged r.stripe (placeMember s r.stripe r.place) r.part 1 r.ds (r.erased.length + 1) (inc 0x0F0124 (dropRecon r.stripe s))).yrd
    rw [startRecon_lost chosen]
    unfold reconLost
    rw [use]
    dsimp only
    have kept := congrArg Yrd.answer logged
    split
    · rw [stageRebuilt_answer, kept]
      rfl
    · rw [kept]
      rfl
  | some sv =>
    by_cases any : sv = []
    · have done : startRecon r s = reconDone (begunRecon r sv) (setRecon (begunRecon r sv) s) := by
        unfold startRecon
        rw [chosen]
        exact if_pos any
      rw [done, reconDone_rebuild (r := begunRecon r sv) use, stageRebuilt_answer]
      rfl
    · rw [(startRecon_asks chosen any).2.1]
      rfl

theorem rebuildStep_inactive {s : State} (inactive : s.yrd.rebuildActive = false) : rebuildStep s = s := if_pos (.inl inactive)

theorem rebuildStep_busy {s : State} (busy : (s.yrd.recons.any fun r => r.use == .rebuild) = true) : rebuildStep s = s := if_pos (.inr (.inl busy))

/-- The rebuild neither gives nor takes the answer of a read. -/
theorem rebuildStep_answer (s : State) : (rebuildStep s).yrd.answer = s.yrd.answer := by
  unfold rebuildStep
  split
  · rfl
  split
  · rfl
  · exact startRecon_answer rfl _

/-- With the queue empty the rebuild at most ends: what is staged and announced stands. -/
theorem rebuildStep_drained {s : State} (drained : s.yrd.rebuildTodo = []) :
    (rebuildStep s).yrd.rebuilt = s.yrd.rebuilt ∧ (rebuildStep s).yrd.units = s.yrd.units ∧ (rebuildStep s).yrd.accums = s.yrd.accums
      ∧ (rebuildStep s).boxes = s.boxes := by
  unfold rebuildStep
  split
  · exact ⟨rfl, rfl, rfl, rfl⟩
  · rw [nextExposed_nil drained]
    exact ⟨rfl, rfl, rfl, rfl⟩

/-! ## Segments come in (R368) -/

/-- A reconstruction with a segment added from a place. -/
def addedRecon (r : Recon) (m : YMsg) (place : Nat) : Recon :=
  { r with bytes := addSegment r.bytes m.seg m.payload, seen := AMap.set r.seen (300 * place + m.seg) () }

theorem boxOf_of_boxes {s t : State} (h : t.boxes = s.boxes) (c : Box) : boxOf t c = boxOf s c := by
  unfold boxOf
  rw [h]

theorem boxOf_giveBack {c : Box} (other : c ≠ .mgt) (q : Nat) (h : Handle) (s : State) : boxOf (giveBack q h s) c = boxOf s c := by
  unfold giveBack freeOne
  split
  · exact boxOf_postEvent other ..
  · exact boxOf_of_boxes ((freeHeld_frame ..).same .boxes rfl) c

theorem boxOf_takeDelivered {c : Box} (other : c ≠ .mgt) (m : YMsg) (s : State) : boxOf (takeDelivered m s) c = boxOf s c := by
  unfold takeDelivered
  dsimp only
  split
  · rfl
  split
  · exact boxOf_giveBack other ..
  · rfl

theorem find?_stripe {stripe : Nat} {xs : List Recon} {r : Recon} (found : (xs.find? fun r => r.stripe == stripe) = some r) : r.stripe = stripe := by
  simpa using List.find?_some found

section Parts

variable {m : YMsg} {s : State} (heard : Heard YT.rebuildPart m s) {r : Recon} (found : (s.yrd.recons.find? fun r => r.stripe == m.stripe) = some r)

include heard found

/-- A segment of a survivor: one that has come before is counted, another is added, and the last completes the unit. -/
theorem exec_rebuildPart (asked : (r.survivors.any fun x => x.1 == msgPlace s m) = true) (seg : m.seg < 300) :
    exec (.rebuildPart m) s
      = .next (if mem? r.seen (300 * msgPlace s m + m.seg) = true then inc 0x0F0114 (takeDelivered m s)
        else if (AMap.set r.seen (300 * msgPlace s m + m.seg) ()).length = 300 * r.survivors.length then
          rebuildStep (reconDone (addedRecon r m (msgPlace s m)) (setRecon (addedRecon r m (msgPlace s m)) (takeDelivered m s)))
        else setRecon (addedRecon r m (msgPlace s m)) (takeDelivered m s)) := by
  show execRebuildPart m s = _
  unfold execRebuildPart
  extract_lets act
  refine (heard.receive act).trans (congrArg go ?_)
  dsimp only [act]
  rw [takeDelivered_yrd, found]
  dsimp only
  rw [(SameRows.of_yrd (takeDelivered_yrd m s)).msgPlace, if_neg]
  · rfl
  · rintro (none | beyond)
    · exact Bool.false_ne_true (none.symm.trans asked)
    · omega

end Parts

/-! ## Survivors that fail (R368) -/

/-- A reconstruction whose survivor at a place has failed. -/
def failedRecon (r : Recon) (place : Nat) : Recon := { r with erased := r.erased ++ [place] }

/-- The failure is counted, and the choice that it ends is dropped. -/
def failNoted (m : YMsg) (s : State) : State := dropRecon m.stripe (inc 0x0F0120 (takeDelivered m s))

theorem failNoted_active (m : YMsg) (s : State) : (failNoted m s).yrd.rebuildActive = s.yrd.rebuildActive := by
  rw [← takeDelivered_yrd m s]
  rfl

theorem failNoted_shd (m : YMsg) (s : State) : (failNoted m s).shd = s.shd := (takeDelivered_frame m s).same .shd rfl

theorem ctr_failCounted (m : YMsg) (s : State) {c : Nat} (lo : 0x0F0000 ≤ c) (hi : c < 0x100000) :
    ctr (inc 0x0F0120 (takeDelivered m s)) c = if c = 0x0F0120 then satAdd (ctr s c) 1 else ctr s c := by
  have taken := takeDelivered_yardCounts m s
  rw [ctr_inc, taken.same _ (by decide) (by decide), taken.same c lo hi]
  split
  case isTrue here => rw [here]
  case isFalse => rfl

theorem ctr_failNoted (m : YMsg) (s : State) {c : Nat} (lo : 0x0F0000 ≤ c) (hi : c < 0x100000) :
    ctr (failNoted m s) c = if c = 0x0F0120 then satAdd (ctr s c) 1 else ctr s c := ctr_failCounted m s lo hi

section Fails

variable {m : YMsg} {s : State} (heard : Heard YT.rebuildFail m s)

include heard

theorem exec_rebuildFail_unasked (none : ∀ r ∈ s.yrd.recons, r.stripe ≠ m.stripe) : exec (.rebuildFail m) s = .next (inc 0x0F0120 (takeDelivered m s)) := by
  show execRebuildFail m s = _
  unfold execRebuildFail
  extract_lets act
  refine (heard.receive act).trans (congrArg go ?_)
  dsimp only [act]
  rw [takeDelivered_yrd, List.find?_eq_none.mpr fun r mem => by simpa using none r mem]

theorem exec_rebuildFail {r : Recon} (found : (s.yrd.recons.find? fun r => r.stripe == m.stripe) = some r) :
    exec (.rebuildFail m) s
      = .next (rebuildStep (startRecon (failedRecon r (msgPlace s m)) (failNoted m s))) := by
  show execRebuildFail m s = _
  unfold execRebuildFail
  extract_lets act
  refine (heard.receive act).trans (congrArg go ?_)
  dsimp only [act]
  rw [takeDelivered_yrd, found]
  dsimp only
  rw [(SameRows.of_yrd (takeDelivered_yrd m s)).msgPlace]
  show rebuildStep (startRecon (failedRecon r (msgPlace s m)) (dropRecon r.stripe _)) = _
  rw [find?_stripe found]
  rfl

end Fails

/-! ## The start of a rebuild (R371) -/

/-- The first place of a stripe that is a member's and not null. -/
def replacedPlace (s : State) (i st : Nat) : Option Nat :=
  (List.range (stripeK s st + (rowHolders s (reworked s st) st).length)).find? fun p =>
    placeMember s st p == i && !(decide (p < stripeK s st) && bit (nullSlots s st) p)

/-- The places of the member that is replaced: safe stripes below the boundary, at a place that is not null. -/
def rebuildQueue (s : State) (i : Nat) : List (Nat × Nat) :=
  (List.range s.yrd.boundary).filterMap fun st =>
    if (AMap.get? s.yrd.journal st).any fun e => e.st != .safe then none
    else (replacedPlace s i st).map fun p => (st, p)

theorem mem_rebuildQueue {s : State} {i st place : Nat} :
    (st, place) ∈ rebuildQueue s i ↔ st < s.yrd.boundary ∧ ((AMap.get? s.yrd.journal st).any fun e => e.st != .safe) = false
      ∧ replacedPlace s i st = some place := by
  unfold rebuildQueue
  rw [List.mem_filterMap]
  constructor
  · rintro ⟨x, mem, listed⟩
    split at listed
    case isTrue => cases listed
    case isFalse safe_ =>
      obtain ⟨p, found, pair⟩ := Option.map_eq_some_iff.mp listed
      obtain ⟨rfl, rfl⟩ := Prod.mk.inj pair
      exact ⟨List.mem_range.mp mem, Bool.eq_false_iff.mpr safe_, found⟩
  · rintro ⟨below, safe_, found⟩
    refine ⟨st, List.mem_range.mpr below, ?_⟩
    rw [safe_, found]
    rfl

theorem exec_rebuildStart {src arg : Nat} {s w : State} (taken : Takes .yard src 0x0005 arg s w) :
    exec (.rebuildStart src arg) s
      = .next (if w.yrd.replacing = false ∨ bits arg 5 0 ≠ w.yrd.member then w
        else rebuildStep (updYrd (fun y => { y with rebuildActive := true, rebuildMember := bits arg 5 0, rebuildTodo := rebuildQueue w (bits arg 5 0) }) w)) :=
  congrArg go (taken.act _)

/-! ## What the messages of a reconstruction leave (R251, R368 to R373) -/

/-- A unit at hand is sent in its segments, from a state that holds what the Yard then holds. -/
theorem runs_rebuildReq_unit {m : YMsg} {s : State} (heard : Heard YT.rebuildReq m s) {b : Bytes}
    (unit : serveUnit s m.stripe (msgPlace s m) = .unit b) :
    Runs (.rebuildReq m) s fun t => ∃ v, Before (takeDelivered m s) v t ∧ t.fab = (each (fun i z => sendMsg (servedSegment m b s i) z) (List.range 300) v).fab := by
  have run := exec_rebuildReq_unit heard unit
  obtain ⟨xs, served⟩ := unitServed_spec m.stripe (msgPlace s m) (takeDelivered m s)
  rw [served] at run
  obtain ⟨v, hv⟩ : ∃ v, v = updYrd (fun y => { y with serve := xs }) (takeDelivered m s) := ⟨_, rfl⟩
  rw [← hv] at run
  have yrd : v.yrd = { s.yrd with serve := xs } := by
    rw [hv, ← takeDelivered_yrd m s]
    rfl
  have segments (i : Nat) : servedSegment m b v i = servedSegment m b s i := by
    unfold servedSegment
    rw [yMsg_congr (s := s) (t := v)] <;> rw [yrd]
  obtain ⟨sent, kept, -⟩ := each_sendMsg (servedSegment m b) (fun h i => by unfold servedSegment; rw [yMsg_of_yrd h]) (fun _ _ => rfl) (List.range 300) v
  refine ⟨_, run, v, ⟨by rw [hv]; rfl, kept.symm, by rw [hv]; rfl⟩, ?_⟩
  rw [sent]
  simp only [segments]

theorem runs_rebuildReq_fail {m : YMsg} {s : State} (heard : Heard YT.rebuildReq m s) (fail : serveUnit s m.stripe (msgPlace s m) = .fail) :
    Runs (.rebuildReq m) s fun t => ∃ v, Before (takeDelivered m s) v t ∧ Sent (yMsg s YT.rebuildFail m.stripe m.src m.role m.slot []) v t := by
  have run := exec_rebuildReq_fail heard fail
  obtain ⟨xs, served⟩ := unitServed_spec m.stripe (msgPlace s m) (takeDelivered m s)
  rw [served, sendMsg_unrepeated _ _ rfl, yMsg_of_yrd (takeDelivered_yrd m s)] at run
  exact ⟨_, run, updYrd (fun y => { y with serve := xs }) (takeDelivered m s), ⟨rfl, (sendOnce_yrd ..).symm, rfl⟩, rfl⟩

/-- The choice of survivors stands behind a reconstruction that is begun or begun again. -/
theorem begun_recon {r : Recon} {s : State} {sv : List (Nat × Nat × Nat)} (chosen : survivorsFor s r.stripe r.place r.erased = some sv) (any : sv ≠ []) :
    ((startRecon r s).yrd.recons.find? fun x => x.stripe == r.stripe) = some (begunRecon r sv) := by
  rw [(startRecon_asks chosen any).2.1]
  exact find_setRecon (begunRecon r sv) s

section LastSegment

variable {m : YMsg} {s : State} {r : Recon} {place : Nat} (stripe : r.stripe = m.stripe)

/-- The state in which a unit's last segment has come and its reconstruction is over. -/
def unitEnded (m : YMsg) (r : Recon) (place : Nat) (s : State) : State := reconEnded (addedRecon r m place) (takeDelivered m s)

theorem unitEnded_rows (m : YMsg) (r : Recon) (place : Nat) (s : State) : SameRows s (unitEnded m r place s) := by
  have yrd := takeDelivered_yrd m s
  constructor <;> (rw [← yrd]; rfl)

theorem unitEnded_todo (m : YMsg) (r : Recon) (place : Nat) (s : State) : (unitEnded m r place s).yrd.rebuildTodo = s.yrd.rebuildTodo :=
  (reconEnded_todo ..).trans (congrArg Yrd.rebuildTodo (takeDelivered_yrd m s))

theorem unitEnded_fmt (m : YMsg) (r : Recon) (place : Nat) (s : State) : boxOf (unitEnded m r place s) .fmt = boxOf s .fmt :=
  (boxOf_of_boxes (reconEnded_boxes ..) .fmt).trans (boxOf_takeDelivered (by decide) m s)

theorem unitEnded_mail (m : YMsg) (r : Recon) (place : Nat) (s : State) (code arg : Nat) :
    mail Src.yard code arg (unitEnded m r place s) = mail Src.yard code arg s := by
  have srv : (takeDelivered m s).srv = s.srv := (takeDelivered_frame m s).same .srv rfl
  unfold mail
  rw [← srv]
  rfl

/-- What a post of the Yard announces stands after the rebuild's next step with its queue empty. -/
theorem staged_drained {f : Yrd → Yrd} {code arg : Nat} (drained : s.yrd.rebuildTodo = []) {t : State}
    (ht : t = rebuildStep (post .fmt Src.yard code arg (updYrd f (unitEnded m r place s)))) (keeps : ∀ y, (f y).rebuildTodo = y.rebuildTodo) :
    t.yrd.rebuilt = (f (unitEnded m r place s).yrd).rebuilt ∧ t.yrd.units = (f (unitEnded m r place s).yrd).units
      ∧ t.yrd.accums = (f (unitEnded m r place s).yrd).accums
      ∧ (hasSlots .fmt Src.yard 1 s = true → boxOf t .fmt = boxOf s .fmt ++ [mail Src.yard code arg s]) := by
  obtain ⟨yrd, posted⟩ := staged_post f code arg (unitEnded m r place s)
  have empty : (post .fmt Src.yard code arg (updYrd f (unitEnded m r place s))).yrd.rebuildTodo = [] := by
    rw [yrd, keeps, unitEnded_todo, drained]
  obtain ⟨rebuilt, units, accums, boxes⟩ := rebuildStep_drained empty
  rw [ht, rebuilt, units, accums, yrd]
  refine ⟨rfl, rfl, rfl, fun slot => ?_⟩
  rw [boxOf_of_boxes boxes, posted ((hasSlots_congr (unitEnded_fmt ..) ..).trans slot), unitEnded_fmt, unitEnded_mail]

include stripe

theorem unit_answered {t : State} (use : r.use = .read)
    (ht : t = rebuildStep (reconDone (addedRecon r m place) (setRecon (addedRecon r m place) (takeDelivered m s)))) :
    t.yrd.answer = some (some (addSegment r.bytes m.seg m.payload))
      ∧ (s.yrd.rebuildActive = false → (∀ x ∈ t.yrd.recons, x.stripe ≠ m.stripe) ∧ ctr t 0x0F011C = satAdd (ctr s 0x0F011C) 1) := by
  rw [reconDone_read (r := addedRecon r m place) use] at ht
  obtain ⟨answer, active, recons⟩ := answered_yrd (addedRecon r m place).bytes (reconEnded (addedRecon r m place) (takeDelivered m s))
  refine ⟨?_, fun inactive => ?_⟩
  · rw [ht, rebuildStep_answer, answer]
    rfl
  rw [reconEnded_active, takeDelivered_yrd, inactive] at active
  rw [ht, rebuildStep_inactive active]
  refine ⟨fun x mem => ?_, ?_⟩
  · rw [recons] at mem
    have other := recons_dropRecon (addedRecon r m place).stripe _ x mem
    rwa [show (addedRecon r m place).stripe = m.stripe from stripe] at other
  · rw [ctr_answered, ctr_reconEnded, (takeDelivered_yardCounts m s).same _ (by decide) (by decide)]

theorem unit_staged {t : State} (drained : s.yrd.rebuildTodo = []) (use : r.use = .rebuild) (data : r.place < stripeK s m.stripe)
    (ht : t = rebuildStep (reconDone (addedRecon r m place) (setRecon (addedRecon r m place) (takeDelivered m s)))) :
    AMap.get? t.yrd.rebuilt (r.part * 2 ^ 32 + r.ds) = some (addSegment r.bytes m.seg m.payload) ∧ ⟨m.stripe, r.place, r.part, r.ds⟩ ∈ t.yrd.units
      ∧ (hasSlots .fmt Src.yard 1 s = true → boxOf t .fmt = boxOf s .fmt ++ [mail Src.yard 0x0004 (r.ds % 2 ^ 32 * 2 ^ 27) s]) := by
  have isData : (addedRecon r m place).place < stripeK (unitEnded m r place s) (addedRecon r m place).stripe := by
    rw [(unitEnded_rows ..).stripeK]
    exact stripe ▸ data
  rw [reconDone_rebuild (r := addedRecon r m place) use] at ht
  obtain ⟨rebuilt, units, -, posted⟩ := staged_drained drained (ht.trans (congrArg rebuildStep (stageRebuilt_data isData _))) fun _ => rfl
  refine ⟨?_, ?_, posted⟩
  · rw [rebuilt]
    exact AMap.get?_set_self ..
  · rw [units, ← stripe]
    exact List.mem_append_right _ List.mem_cons_self

theorem parity_staged {t : State} (drained : s.yrd.rebuildTodo = []) (use : r.use = .rebuild) (parity : stripeK s m.stripe ≤ r.place)
    (ht : t = rebuildStep (reconDone (addedRecon r m place) (setRecon (addedRecon r m place) (takeDelivered m s)))) :
    { stripe := m.stripe, role := r.place - stripeK s m.stripe + 1, bytes := addSegment r.bytes m.seg m.payload, isSealed := true } ∈ t.yrd.accums
      ∧ (hasSlots .fmt Src.yard 1 s = true → boxOf t .fmt = boxOf s .fmt ++ [mail Src.yard 0x0005 (m.stripe % 2 ^ 32 * 2 ^ 27) s]) := by
  have isParity : stripeK (unitEnded m r place s) (addedRecon r m place).stripe ≤ (addedRecon r m place).place := by
    rw [(unitEnded_rows ..).stripeK]
    exact stripe ▸ parity
  rw [reconDone_rebuild (r := addedRecon r m place) use] at ht
  obtain ⟨-, -, accums, posted⟩ := staged_drained drained (ht.trans (congrArg rebuildStep (stageRebuilt_parity isParity _))) fun _ => rfl
  rw [← stripe]
  refine ⟨?_, posted⟩
  rw [accums, ← (unitEnded_rows m r place s).stripeK]
  exact List.mem_append_right _ List.mem_cons_self

end LastSegment

section Fails

variable {m : YMsg} {s : State} (heard : Heard YT.rebuildFail m s) {r : Recon} (found : (s.yrd.recons.find? fun r => r.stripe == m.stripe) = some r)

include heard found

/-- The choice is made again without the place that failed; the rebuild takes no further stripe meanwhile. -/
theorem runs_rebuildFail_again {sv : List (Nat × Nat × Nat)} (goes : s.yrd.rebuildActive = false ∨ r.use = .rebuild)
    (chosen : survivorsFor (failNoted m s) m.stripe r.place (r.erased ++ [msgPlace s m]) = some sv) (any : sv ≠ []) :
    Runs (.rebuildFail m) s fun t => ctr t 0x0F0120 = satAdd (ctr s 0x0F0120) 1
      ∧ (t.yrd.recons.find? fun r => r.stripe == m.stripe) = some (begunRecon (failedRecon r (msgPlace s m)) sv) := by
  have stripe := find?_stripe found
  have run := exec_rebuildFail heard found
  rw [← stripe] at chosen
  obtain ⟨-, yrd, counts⟩ := startRecon_asks (r := failedRecon r (msgPlace s m)) chosen any
  have stands := begun_recon (r := failedRecon r (msgPlace s m)) chosen any
  have step : rebuildStep (startRecon (failedRecon r (msgPlace s m)) (failNoted m s)) = startRecon (failedRecon r (msgPlace s m)) (failNoted m s) := by
    rcases goes with inactive | use
    · exact rebuildStep_inactive ((congrArg Yrd.rebuildActive yrd).trans ((failNoted_active m s).trans inactive))
    · exact rebuildStep_busy (List.any_eq_true.mpr ⟨_, List.mem_of_find?_eq_some stands, beq_iff_eq.mpr use⟩)
  rw [step] at run
  rw [show (failedRecon r (msgPlace s m)).stripe = m.stripe from stripe] at stands
  exact ⟨_, run, (counts.same _ (by decide) (by decide)).trans ((ctr_failNoted m s (by decide) (by decide)).trans (if_pos rfl)), stands⟩

/-- With none to choose the stripe of a read is lost. -/
theorem runs_rebuildFail_lost (inactive : s.yrd.rebuildActive = false) (use : r.use = .read)
    (lost : survivorsFor (failNoted m s) m.stripe r.place (r.erased ++ [msgPlace s m]) = none) :
    Runs (.rebuildFail m) s fun t => t.yrd.answer = some none ∧ ctr t 0x0F0124 = satAdd (ctr s 0x0F0124) 1
      ∧ ∃ l : Loss, t.shd.lossLog = s.shd.lossLog ++ [l] ∧ l.stripe = m.stripe ∧ l.part = r.part ∧ l.ds = r.ds ∧ l.cause = 1
        ∧ l.erasures = (r.erased ++ [msgPlace s m]).length + 1 := by
  have stripe := find?_stripe found
  have run := exec_rebuildFail heard found
  rw [← stripe] at lost
  obtain ⟨answer, active, counted, -, l, logged, ofStripe, part, ds, cause, -, erasures⟩ :=
    reconLost_read (r := failedRecon r (msgPlace s m)) use (failNoted m s)
  rw [startRecon_lost (r := failedRecon r (msgPlace s m)) lost, rebuildStep_inactive (active.trans ((failNoted_active m s).trans inactive))] at run
  have uncounted : ctr (failNoted m s) 0x0F0124 = ctr s 0x0F0124 := (ctr_failNoted m s (by decide) (by decide)).trans (if_neg (by decide))
  rw [uncounted] at counted
  rw [failNoted_shd] at logged
  exact ⟨_, run, answer, counted, l, logged, ofStripe.trans stripe, part, ds, cause, erasures⟩

end Fails

/-- Settles O55: survivors are `survivorsFor_spec`, a begun reconstruction `startRecon_asks`, a lost stripe `reconLost_read`, and a rebuilt
unit `unit_staged` or `parity_staged`. -/
theorem lostUnitsAreReconstructed : Obligations.LostUnitsAreReconstructed := by
  unfold Obligations.LostUnitsAreReconstructed
  intro s m
  refine ⟨?survivors, ?read, ?answer, ?request, ?part, ?fail, ?start, ?exposed⟩
  case survivors =>
    intro st place er sv chosen
    obtain ⟨count, each_⟩ := survivorsFor_spec chosen
    refine ⟨count, fun x mem => ?_⟩
    obtain ⟨serves, member⟩ := each_ x mem
    obtain ⟨other, sound, present⟩ := mayServe_iff.mp serves
    exact ⟨other, sound, member, member ▸ present⟩
  case read =>
    intro src arg w taken
    refine ⟨fun l notSafe ladder yard => ?_, fun x found safe_ => ⟨fun sv chosen any => ?_, fun lost => ?_⟩⟩
    · exact ⟨_, exec_reconstructForRead_fails taken notSafe, yardAnswers_none ladder yard⟩
    · have run := exec_reconstructForRead_starts taken found safe_
      rw [← (unanswered_rows w).survivorsFor] at chosen
      obtain ⟨asks, yrd, -⟩ := startRecon_asks (r := readRecon x (bits arg 33 32) (bits arg 31 0)) chosen any
      refine ⟨_, run, congrArg Yrd.answer yrd, begun_recon (r := readRecon x (bits arg 33 32) (bits arg 31 0)) chosen any,
        setRecon (begunRecon (readRecon x (bits arg 33 32) (bits arg 31 0)) sv) (unanswered w), ⟨rfl, yrd.symm, rfl⟩, (congrArg State.fab asks).trans ?_⟩
      rw [(unanswered_rows w).stripeK]
      rfl
    · have run := exec_reconstructForRead_starts taken found safe_
      rw [← (unanswered_rows w).survivorsFor] at lost
      rw [startRecon_lost (r := readRecon x (bits arg 33 32) (bits arg 31 0)) lost] at run
      obtain ⟨answer, -, counted, dropped, l, logged, stripe, part, ds, cause, epoch, -⟩ :=
        reconLost_read (r := readRecon x (bits arg 33 32) (bits arg 31 0)) rfl (unanswered w)
      obtain ⟨bx, rfl⟩ := taken.only_boxes
      exact ⟨_, run, answer, counted, dropped, l, logged, stripe, part, ds, cause, epoch⟩
  case answer =>
    intro l data ladder yard
    refine ⟨fun b given => ?_, fun given => ?_, fun none asked => ⟨s, ?_, rfl⟩⟩
    · have run : exec (.yardReconstructReturn data) s = .next (yardAnswers (some b) (unanswered s)) := exec_yardReconstructReturn given
      rw [yardAnswers_some (s := unanswered s) ladder yard] at run
      refine ⟨fun bare => ⟨_, run, if_pos bare⟩, fun whole expected => ⟨_, run, ?_⟩, fun whole unexpected => ⟨_, run, ?_⟩⟩
      · exact (if_neg (Nat.not_le.mpr whole)).trans (if_pos expected)
      · exact (if_neg (Nat.not_le.mpr whole)).trans (if_neg (Bool.eq_false_iff.mp unexpected))
    · have run : exec (.yardReconstructReturn data) s = .next (yardAnswers none (unanswered s)) := exec_yardReconstructReturn given
      exact ⟨_, run, yardAnswers_none (s := unanswered s) ladder yard⟩
    · show execYardReconstructReturn data s = _
      unfold execYardReconstructReturn
      rw [none]
      exact if_pos asked
  case request =>
    intro heard
    refine ⟨fun b unit => runs_rebuildReq_unit heard unit, runs_rebuildReq_fail heard, fun q ds wait => ?_⟩
    have run := exec_rebuildReq_wait heard wait
    refine ⟨fun asked => ⟨s, run.trans (if_pos asked), rfl⟩, fun fresh => ⟨_, run.trans (if_neg fresh), wantTape_yrd .., fun ladder => ?_⟩⟩
    exact wantTape_seek (s := updYrd (fun y => { y with serve := y.serve ++ [(q, ds, false)] }) s) ladder q ds
  case part =>
    intro heard r found asked seg
    have stripe := find?_stripe found
    have run := exec_rebuildPart heard found asked seg
    have taken := takeDelivered_yardCounts m s
    refine ⟨fun seen => ?_, fun fresh more => ?_, fun fresh last => ?_⟩
    · rw [if_pos seen] at run
      refine ⟨_, run, takeDelivered_yrd m s, (ctr_inc ..).trans ((if_pos rfl).trans ?_)⟩
      rw [taken.same _ (by decide) (by decide)]
    · rw [if_neg (Bool.eq_false_iff.mp fresh), if_neg more] at run
      refine ⟨_, run, ?_⟩
      have stands := find_setRecon (addedRecon r m (msgPlace s m)) (takeDelivered m s)
      rw [show (addedRecon r m (msgPlace s m)).stripe = m.stripe from stripe] at stands
      exact stands
    · rw [if_neg (Bool.eq_false_iff.mp fresh), if_pos last] at run
      exact ⟨fun use => ⟨_, run, unit_answered stripe use rfl⟩, fun use drained data => ⟨_, run, unit_staged stripe drained use data rfl⟩,
        fun use drained parity => ⟨_, run, parity_staged stripe drained use parity rfl⟩⟩
  case fail =>
    intro heard
    refine ⟨fun none => ⟨_, exec_rebuildFail_unasked heard none, takeDelivered_yrd m s, ?_⟩, fun r found => ⟨?_, ?_⟩⟩
    · exact (ctr_failCounted m s (by decide) (by decide)).trans (if_pos rfl)
    · exact fun sv goes chosen any => runs_rebuildFail_again heard found goes chosen any
    · exact fun inactive use lost => runs_rebuildFail_lost heard found inactive use lost
  case start =>
    intro src arg w taken
    have run := exec_rebuildStart taken
    refine ⟨fun idle => ⟨_, run.trans (congrArg _ (if_pos idle)), rfl⟩, fun replacing member => ?_⟩
    rw [member] at run
    refine ⟨_, run.trans (congrArg _ (if_neg ?_)), rebuildQueue w w.yrd.member, rfl, fun st place => mem_rebuildQueue⟩
    rw [replacing]
    simp
  case exposed =>
    intro st place next
    exact nextExposed_spec next

end Sys2Proof.Machine
end


/-! Retiring channels, pending spill rings, and buffer memory errors (R336, R438 to R440, R467, R468). -/

section

namespace Sys2Proof.Machine

/-! ## Retiring a channel (R439, R440) -/

/-- The set of a retirement takes effect: its records are in force and stand in the service area. -/
theorem setTaken_retire (clock : Nat) (recs : List CfgRec) (p : Nat) (clear : List Nat) (cmd entry : Option Nat) (s : State) :
    (setTaken clock ⟨recs, .retire p clear, cmd, entry⟩ s).hq = s.hq
      ∧ (setTaken clock ⟨recs, .retire p clear, cmd, entry⟩ s).cfg.records = applyRecs s.cfg.records recs
      ∧ (setTaken clock ⟨recs, .retire p clear, cmd, entry⟩ s).cfg.serviceArea = applyRecs s.cfg.serviceArea recs := by
  obtain ⟨u, hu⟩ : ∃ u, u = updCfg (fun c => { c with serviceArea := applyRecs c.serviceArea recs }) (inc 0x11010C (recordsTaken clock recs s)) :=
    ⟨_, rfl⟩
  have later : Frame 0x240a4 u (setTaken clock ⟨recs, .retire p clear, cmd, entry⟩ s) := by
    rw [hu]
    refine ((Frame.each clear (Frame.refl 0x240a4 _) fun q v => ?_).andThen (postEvent_frame ..) rfl).andThen (enterService_frame s _) rfl
    exact ((updWrv_frame _ v).mono rfl).andThen (updPart_frame ..) rfl
  have hq : u.hq = s.hq := hu ▸ recordsTaken_hq clock recs s
  have cfg : u.cfg = { s.cfg with records := applyRecs s.cfg.records recs, commitClock := clock, serviceArea := applyRecs s.cfg.serviceArea recs } := by
    rw [hu]
    exact congrArg (fun c : Cfg => { c with serviceArea := applyRecs c.serviceArea recs }) (recordsTaken_cfg clock recs s)
  rw [later.same .hq rfl, later.same .cfg rfl, cfg]
  exact ⟨hq, rfl, rfl⟩

theorem spareExhausted_mgt (s : State) : (spareExhausted s).mgt = { s.mgt with noSpare := true } := (stopWrites_frame _).same .mgt rfl

theorem spareExhausted_hq (s : State) : (spareExhausted s).hq = s.hq := (stopWrites_frame _).same .hq rfl

theorem spareExhausted_stops {s : State} {o : Nat} (ho : o < 4) (present : partPresent s o = true) :
    (partAt (spareExhausted s) o).writeStopped = true :=
  stopWrites_stops (s := updMgt (fun m => { m with noSpare := true }) s) ho present

section Command

variable {s : State} {q l n : Nat} {c : Cmd} (turn : due s q 0xA8 = some c)

include turn

theorem exec_channelRetire_unmapped (none : logicalOn (baseRecs s) (bits c.e.param 7 0) = none) :
    exec (.channelRetire q) s = .next (complete q Status.invalidField 0 s) := by
  show execChannelRetire q s = _
  unfold execChannelRetire
  rw [turn]
  dsimp only
  rw [none]
  rfl

theorem exec_channelRetire_noSpare (on : logicalOn (baseRecs s) (bits c.e.param 7 0) = some l) (none : unusedSpare s = none) :
    exec (.channelRetire q) s = .next (complete q Status.invalidField 0 (spareExhausted s)) := by
  show execChannelRetire q s = _
  unfold execChannelRetire
  rw [turn]
  dsimp only
  rw [on, none]
  rfl

theorem exec_channelRetire_moves (on : logicalOn (baseRecs s) (bits c.e.param 7 0) = some l) (spare : unusedSpare s = some n)
    (check : checkStaged (retireRecs l n) s = none) (idle : deviceWriting s = false) (empty : s.cfg.scheduled = []) :
    exec (.channelRetire q) s = .next (takeEffect 0 ⟨retireRecs l n, .retire (bits c.e.param 7 0) [], some q, .none⟩ s) := by
  show execChannelRetire q s = _
  unfold execChannelRetire
  rw [turn]
  dsimp only
  rw [on, spare]
  exact congrArg Host.Outcome.next (stageAndCommit_commits check (commitSet_atOnce idle empty _ _ _))

end Command

section Auto

variable {s : State} {p l n : Nat} (run : coresRun s = true) (many : s.mgt.retireFailures < failsOf s p)
  (on : logicalOn (baseRecs s) p = some l)

include run many on

theorem exec_channelRetireAuto_noSpare (none : unusedSpare s = none) : exec (.channelRetireAuto p) s = .next (spareExhausted s) := by
  show execChannelRetireAuto p s = _
  unfold execChannelRetireAuto
  dsimp only
  rw [if_neg (by rw [run]; exact fun h => h.elim Bool.noConfusion fun h => absurd h.1 (not_le.mpr many)), on, none]
  rfl

theorem exec_channelRetireAuto_moves (spare : unusedSpare s = some n) (idle : deviceWriting s = false) (empty : s.cfg.scheduled = []) :
    ∃ clear, exec (.channelRetireAuto p) s = .next (takeEffect 0 ⟨retireRecs l n, .retire p clear, .none, .none⟩ s) := by
  refine ⟨if standsOut s p then [0, 1, 2, 3].filter fun p => (partAt s p).writeStopped else [], ?_⟩
  show execChannelRetireAuto p s = _
  unfold execChannelRetireAuto
  dsimp only
  rw [if_neg (by rw [run]; exact fun h => h.elim Bool.noConfusion fun h => absurd h.1 (not_le.mpr many)), on, spare]
  dsimp only
  rw [commitSet_atOnce idle empty]
  rfl

end Auto

/-! ## SHED_DROP_PENDING (R336) -/

theorem logEntry_cmds (us : Nat) (m : Mail) (s : State) : (logEntry us m s).hq.cmds = s.hq.cmds := by
  unfold logEntry
  dsimp only
  split <;> rfl

theorem exec_shedDropPending_badLength {s : State} {q : Nat} {c : Cmd} (turn : due s q 0xA0 = some c) (bad : c.e.length ≠ 20) (sgl data : Bytes) :
    exec (.shedDropPending q sgl data) s = .next (complete q Status.invalidField 0 s) := by
  show execShedDropPending q sgl data s = _
  unfold execShedDropPending
  rw [turn]
  exact if_pos (.inl bad)

/-- The rings of a serial that no loaded cartridge has. -/
def pendingRings (serial : Bytes) (s : State) : List Nat := (List.range 8).filter fun r => ringPending s (spillAt s r) && (spillAt s r).serial == serial

/-- Their unreleased bytes. -/
def pendingBytes (serial : Bytes) (s : State) : Nat := (pendingRings serial s).foldl (fun n r => n + ((spillAt s r).head - (spillAt s r).tail)) 0

/-- The state in which they are dropped and the event log has its entry. -/
def pendingDropped (serial : Bytes) (s : State) : State :=
  let s1 := each dropRing (pendingRings serial s) s
  logEntry (drawn s1) ⟨s1.srv.clock, Src.mgtDay, drawn (drawNext s1) % 65536, pendingBytes serial s⟩ (drawNext (drawNext s1))

theorem exec_shedDropPending_drops {s : State} {q : Nat} {c : Cmd} {sgl data : Bytes} (turn : due s q 0xA0 = some c) (length : c.e.length = 20)
    (list : sglOk c.e sgl 20 = true) (buffer : data.length = 20) :
    exec (.shedDropPending q sgl data) s = .next (complete q Status.ok (pendingBytes data s) (pendingDropped data s)) := by
  show execShedDropPending q sgl data s = _
  unfold execShedDropPending
  rw [turn]
  refine if_neg ?_
  rintro (bad | bad | bad)
  · exact bad length
  · exact absurd list (ne_true_of_eq_false bad)
  · exact bad buffer

theorem pendingDropped_cmds (serial : Bytes) (s : State) : (pendingDropped serial s).hq.cmds = s.hq.cmds :=
  have dropped : (each dropRing (pendingRings serial s) s).hq = s.hq :=
    (Frame.each _ (Frame.refl 0x20800 s) fun r v => dropRing_frame r v).same .hq rfl
  (logEntry_cmds ..).trans (congrArg Hq.cmds dropped)

/-! ## Buffer memory errors (R438, R467, R468) -/

/-- What quarantine leaves alone: the counts of corrected errors, and every counter but its own. -/
theorem quarantineStall_keeps (n : Nat) (s : State) : (quarantineStall n s).stk.corrected = s.stk.corrected
    ∧ ∀ c, c ≠ 0x11011C → ctr (quarantineStall n s) c = ctr s c := by
  unfold quarantineStall
  dsimp only
  split
  · exact ⟨rfl, fun _ _ => rfl⟩
  · exact ⟨rfl, fun c other => (ctr_inc ..).trans (if_neg other)⟩

/-- Quarantine marks every allocatable Stall, but for those that the packet Stable needs. -/
theorem quarantineStall_marks {n : Nat} {s : State} (fitted : allocatable s n = true)
    (room : stableOf s n ≠ 1 ∨ packetMinimum (Cfgw.exposureMiB s) < (stableAt s 1).size) : mem? (quarantineStall n s).stk.quarantine n = true := by
  unfold quarantineStall
  dsimp only
  split
  case isTrue h =>
    obtain out | marked | ⟨packet, least⟩ := h
    · exact absurd fitted (ne_true_of_eq_false out)
    · exact marked
    · exact absurd least (not_le.mpr (room.resolve_left (not_not_intro packet)))
  case isFalse => exact congrArg Option.isSome (AMap.get?_set_self ..)

/-- An error of the buffer memory is noted: its Stall's count, what the controller shows of it, and the controller's counter. -/
def eccNoted (n ch dev : Nat) (uncorrectable : Bool) (s : State) : State :=
  inc (0x028100 + 0x100 * (ch % 4) + if uncorrectable then 0x0C else 0x08) { s with stk := { s.stk with
    corrected := AMap.set s.stk.corrected n (AMap.getD s.stk.corrected n 0 + b2n (!uncorrectable))
    ddrErr := AMap.set s.stk.ddrErr (ch % 4) (n, dev, uncorrectable) } }

theorem exec_bufferEccError_corrected (n ch dev : Nat) (s : State) : exec (.bufferEccError n ch dev false) s
    = .next (if 16 ≤ AMap.getD s.stk.corrected n 0 + 1 then quarantineStall n (eccNoted n ch dev false s) else eccNoted n ch dev false s) := by
  refine congrArg Host.Outcome.next ((if_neg Bool.false_ne_true).trans (if_congr ?_ rfl rfl))
  exact or_iff_right Bool.false_ne_true

theorem exec_bufferEccError_uncorrectable (n ch dev : Nat) (s : State) :
    exec (.bufferEccError n ch dev true) s = .next (stallLost n (quarantineStall n (eccNoted n ch dev true s))) :=
  congrArg (fun u => Host.Outcome.next (stallLost n u)) (if_pos (.inl rfl))

theorem corrected_eccNoted (n ch dev : Nat) (s : State) :
    AMap.getD (eccNoted n ch dev false s).stk.corrected n 0 = AMap.getD s.stk.corrected n 0 + 1 := AMap.getD_set_self ..

theorem ctr_eccNoted (n ch dev : Nat) (s : State) :
    ctr (eccNoted n ch dev false s) (0x028108 + 0x100 * (ch % 4)) = satAdd (ctr s (0x028108 + 0x100 * (ch % 4))) 1
      ∧ ctr (eccNoted n ch dev true s) (0x02810C + 0x100 * (ch % 4)) = satAdd (ctr s (0x02810C + 0x100 * (ch % 4))) 1 := by
  have low : 0x028100 + 0x100 * (ch % 4) + 0x08 = 0x028108 + 0x100 * (ch % 4) := by omega
  have high : 0x028100 + 0x100 * (ch % 4) + 0x0C = 0x02810C + 0x100 * (ch % 4) := by omega
  exact ⟨(ctr_inc ..).trans (low ▸ if_pos rfl), (ctr_inc ..).trans (high ▸ if_pos rfl)⟩

/-- With no Taken packet in a Stall nothing is lost with it. -/
theorem stallLost_nothing {n : Nat} {s : State} (none : (s.hq.writes.any fun w => w.taken && w.chain.any fun c => c.1 == n) = false) :
    stallLost n s = s := by
  unfold stallLost
  dsimp only
  rw [List.filter_eq_nil_iff.mpr fun w mem => by simpa using List.any_eq_false.mp none w mem]
  rfl

/-- Settles O32: a retirement is `setTaken_retire` or `spareExhausted`, a buffer error `eccNoted` and then `quarantineStall`. -/
theorem channelsAreRetiredAndBufferErrorsQuarantined : Obligations.ChannelsAreRetiredAndBufferErrorsQuarantined := by
  unfold Obligations.ChannelsAreRetiredAndBufferErrorsQuarantined
  intro s q c
  refine ⟨fun turn => ⟨fun none => ?unmapped, fun l on => ⟨fun none => ?noSpare, fun n spare check idle empty => ?moves⟩⟩,
    fun p l run many on => ⟨fun none => ?autoNoSpare, fun n spare idle empty => ?autoMoves⟩,
    fun sgl data turn => ⟨fun length list buffer => ?drops, fun bad => ?badLength⟩, fun n ch dev => ?corrected, fun n ch dev => ?uncorrectable,
    fun active => ?scrub⟩
  case unmapped =>
    have done := complete_frame q Status.invalidField 0 s
    exact ⟨_, exec_channelRetire_unmapped turn none, .complete (due_find turn) .., done.same .cfg rfl, done.same .mgt rfl⟩
  case noSpare =>
    have done := complete_frame q Status.invalidField 0 (spareExhausted s)
    refine ⟨_, exec_channelRetire_noSpare turn on none, .complete ((findCmd_of_hq (spareExhausted_hq s) q).trans (due_find turn)) ..,
      (done.same .mgt rfl).trans (spareExhausted_mgt s), fun o ho present => ?_⟩
    unfold partAt
    rw [done.same .parts rfl]
    exact spareExhausted_stops ho present
  case moves =>
    obtain ⟨hq, records, area⟩ := setTaken_retire 0 (retireRecs l n) (bits c.e.param 7 0) [] (some q) .none s
    obtain ⟨ended, cfg, -⟩ := takeEffect_ends (x := ⟨retireRecs l n, .retire (bits c.e.param 7 0) [], some q, .none⟩) rfl 0
      ((findCmd_of_hq hq q).trans (due_find turn))
    exact ⟨_, exec_channelRetire_moves turn on spare check idle empty, ended, (congrArg Cfg.records cfg).trans records,
      (congrArg Cfg.serviceArea cfg).trans area⟩
  case autoNoSpare =>
    exact ⟨_, exec_channelRetireAuto_noSpare run many on none, spareExhausted_mgt s, fun o ho present => spareExhausted_stops ho present⟩
  case autoMoves =>
    obtain ⟨clear, answers⟩ := exec_channelRetireAuto_moves run many on spare idle empty
    obtain ⟨-, records, area⟩ := setTaken_retire 0 (retireRecs l n) p clear .none .none s
    rw [takeEffect_alone rfl] at answers
    exact ⟨_, answers, records, area⟩
  case drops =>
    exact ⟨_, exec_shedDropPending_drops turn length list buffer, _,
      .complete ((congrArg (List.find? _) (pendingDropped_cmds data s)).trans (due_find turn)) ..⟩
  case badLength =>
    exact ⟨_, exec_shedDropPending_badLength turn bad sgl data, .complete (due_find turn) .., (complete_frame ..).same .shd rfl⟩
  case corrected =>
    obtain ⟨counts, others⟩ := quarantineStall_keeps n (eccNoted n ch dev false s)
    refine ⟨_, exec_bufferEccError_corrected n ch dev s, ?_, ?_, fun few => ?_, fun many fitted room => ?_⟩
    · split
      · exact (congrArg (AMap.getD · n 0) counts).trans (corrected_eccNoted n ch dev s)
      · exact corrected_eccNoted n ch dev s
    · split
      · exact (others _ (by omega)).trans (ctr_eccNoted n ch dev s).1
      · exact (ctr_eccNoted n ch dev s).1
    · rw [if_neg (by omega)]
      rfl
    · rw [if_pos many]
      exact quarantineStall_marks (s := eccNoted n ch dev false s) fitted room
  case uncorrectable =>
    refine ⟨_, exec_bufferEccError_uncorrectable n ch dev s, fun none => ?_, fun fitted room => ?_⟩
    · have same : (quarantineStall n (eccNoted n ch dev true s)).hq = s.hq := (quarantineStall_frame ..).same .hq rfl
      rw [stallLost_nothing (same ▸ none)]
      exact ((quarantineStall_keeps ..).2 _ (by omega)).trans (ctr_eccNoted n ch dev s).2
    · rw [(stallLost_frame ..).same .stk rfl]
      exact quarantineStall_marks (s := eccNoted n ch dev true s) fitted room
  case scrub => exact ⟨_, if_pos active, rfl, (ctr_inc ..).trans (if_pos rfl)⟩

end Sys2Proof.Machine
end


/-! The Shed's operations (R308, R309, R313, R314, R326, R330): what mapping and issuing units leave alone, and which block comes next. -/

section

namespace Sys2Proof.Machine

/-! ## Tables in their canonical form -/

theorem get?_of_below {α : Type} {m : AMap α} {i : Nat} (below : ∀ k ∈ m.map Prod.fst, i < k) : AMap.get? m i = none := by
  induction m with
  | nil => rfl
  | cons x m ih =>
    have first : i ≠ x.1 := Nat.ne_of_lt (below x.1 List.mem_cons_self)
    exact (if_neg first).trans (ih fun k mem => below k (List.mem_cons_of_mem _ mem))

theorem wf_cons {α : Type} {x : Nat × α} {m : AMap α} : AMap.wf (x :: m) = true ↔ (∀ k ∈ m.map Prod.fst, x.1 < k) ∧ AMap.wf m = true := by
  simp [AMap.wf]

theorem get?_of_mem {α : Type} {m : AMap α} (wf : AMap.wf m = true) {x : Nat × α} (mem : x ∈ m) : AMap.get? m x.1 = some x.2 := by
  induction m with
  | nil => cases mem
  | cons y m ih =>
    obtain ⟨above, rest⟩ := wf_cons.mp wf
    obtain rfl | later := List.mem_cons.mp mem
    · exact if_pos rfl
    · exact (if_neg (Nat.ne_of_gt (above x.1 (List.mem_map_of_mem later)))).trans (ih rest later)

/-- A table each of whose values is changed lists the same keys. -/
theorem get?_mapVals {α β : Type} (f : Nat → α → β) (m : AMap α) (i : Nat) :
    AMap.get? (m.map fun x => (x.1, f x.1 x.2)) i = (AMap.get? m i).map (f i) := by
  induction m with
  | nil => rfl
  | cons x m ih =>
    show (if i = x.1 then some (f x.1 x.2) else AMap.get? (m.map fun x => (x.1, f x.1 x.2)) i) = (if i = x.1 then some x.2 else AMap.get? m i).map (f i)
    by_cases here : i = x.1
    · rw [if_pos here, if_pos here, here]
      rfl
    · rw [if_neg here, if_neg here, ih]

theorem wf_mapVals {α β : Type} (f : Nat → α → β) {m : AMap α} (wf : AMap.wf m = true) : AMap.wf (m.map fun x => (x.1, f x.1 x.2)) = true := by
  have keys : (m.map fun x => (x.1, f x.1 x.2)).map Prod.fst = m.map Prod.fst := by rw [List.map_map]; rfl
  unfold AMap.wf at wf ⊢
  rw [keys]
  exact wf

/-! ## Operations applied in turn -/

/-- What each operation leaves as it was, all of them in turn leave so. -/
theorem each_keeps {α σ β : Type} (g : σ → β) {f : α → σ → σ} (h : ∀ x v, g (f x v) = g v) (xs : List α) (s : σ) : g (each f xs s) = g s :=
  List.foldlRecOn xs (fun s x => f x s) (motive := fun v => g v = g s) rfl fun v kept x _ => (h x v).trans kept

/-- What each operation keeps true, all of them in turn keep true. -/
theorem each_inv {α σ : Type} {P : σ → Prop} {f : α → σ → σ} (xs : List α) {s : σ} (start : P s) (h : ∀ x ∈ xs, ∀ v, P v → P (f x v)) :
    P (each f xs s) := List.foldlRecOn xs (fun s x => f x s) start fun v kept x mem => h x mem v kept

/-! ## Blocks -/

@[simp] theorem blkAt_setBlk_self (b : Nat) (x : Blk) (s : State) : blkAt (setBlk b x s) b = x := AMap.getD_set_self ..

theorem blkAt_setBlk_other {b c : Nat} (x : Blk) (s : State) (h : c ≠ b) : blkAt (setBlk b x s) c = blkAt s c :=
  AMap.getD_set_of_ne _ _ _ (Ne.symm h)

theorem blkAt_of_blocks {s t : State} (h : t.shd.blocks = s.shd.blocks) (b : Nat) : blkAt t b = blkAt s b := by
  unfold blkAt
  rw [h]

/-- A block that is not FREE is listed. -/
theorem get?_of_not_free {s : State} {b : Nat} (h : (blkAt s b).st ≠ .free) : AMap.get? s.shd.blocks b = some (blkAt s b) := by
  unfold blkAt AMap.getD at h ⊢
  cases e : AMap.get? s.shd.blocks b with
  | none => exact absurd (congrArg (fun o => (o.getD ({} : Blk)).st) e) h
  | some x => rfl

theorem firstGap_le : ∀ (m : AMap Blk) (lo : Nat), lo ≤ firstGap lo m
  | [], _ => Nat.le_refl _
  | x :: m, lo => by
    unfold firstGap
    split
    · exact firstGap_le m lo
    · split
      · exact Nat.le_of_succ_le (firstGap_le m (lo + 1))
      · exact Nat.le_refl _

theorem get?_firstGap : ∀ {m : AMap Blk}, AMap.wf m = true → ∀ lo, AMap.get? m (firstGap lo m) = none
  | [], _, _ => rfl
  | x :: m, wf, lo => by
    obtain ⟨above, rest⟩ := wf_cons.mp wf
    unfold firstGap
    split
    case isTrue under => exact (if_neg (Nat.ne_of_gt (Nat.lt_of_lt_of_le under (firstGap_le m lo)))).trans (get?_firstGap rest lo)
    case isFalse notUnder =>
      split
      case isTrue here =>
        exact (if_neg (Nat.ne_of_gt (here ▸ firstGap_le m (lo + 1)))).trans (get?_firstGap rest (lo + 1))
      case isFalse other =>
        have beyond : lo < x.1 := by omega
        refine get?_of_below fun k mem => ?_
        obtain rfl | later := List.mem_cons.mp mem
        · exact beyond
        · exact Nat.lt_trans beyond (above k later)

/-- The block that R330 takes next is FREE. -/
theorem leastWorn_free {s : State} (wf : AMap.wf s.shd.blocks = true) {die n : Nat} (next : leastWorn s die = some n) : (blkAt s n).st = .free := by
  have unlisted : ∀ lo, (blkAt s (firstGap lo s.shd.blocks)).st = .free := fun lo => by
    unfold blkAt AMap.getD
    rw [get?_firstGap wf]
    rfl
  have listed : ∀ x xs, sortBy (fun x : Nat × Blk => x.2.erases) (s.shd.blocks.filter fun x => dieOfBlock s x.1 == die && x.2.st == .free) = x :: xs →
      (blkAt s x.1).st = .free := fun x xs e => by
    have mem := (mem_sortBy _ _ _).mp (e ▸ List.mem_cons_self : x ∈ sortBy _ _)
    obtain ⟨mem, free⟩ := List.mem_filter.mp mem
    unfold blkAt AMap.getD
    rw [get?_of_mem wf mem]
    exact eq_of_beq (Bool.and_eq_true_iff.mp free).2
  unfold leastWorn at next
  dsimp only at next
  split at next
  case h_1 =>
    obtain ⟨-, here⟩ := Option.ite_none_right_eq_some.mp next
    cases here
    exact unlisted _
  case h_2 e fresh =>
    obtain ⟨-, here⟩ := Option.ite_none_right_eq_some.mp fresh
    cases here
    split at next <;> cases next
    · exact listed _ _ e
    · exact unlisted _
  case h_3 e _ =>
    cases next
    exact listed _ _ e

/-- A block is retired, in a block table of canonical form. -/
structure Retired (b : Nat) (s : State) : Prop where
  wf : AMap.wf s.shd.blocks = true
  st : (blkAt s b).st = .retired

theorem Retired.of_blocks {b : Nat} {s t : State} (r : Retired b s) (h : t.shd.blocks = s.shd.blocks) : Retired b t :=
  ⟨h ▸ r.wf, (congrArg Blk.st (blkAt_of_blocks h b)).trans r.st⟩

theorem Retired.setBlk {b n : Nat} {s : State} (r : Retired b s) (other : b ≠ n) (x : Blk) : Retired b (setBlk n x s) :=
  ⟨AMap.wf_set _ _ _ r.wf, (congrArg Blk.st (blkAt_setBlk_other x s other)).trans r.st⟩

theorem Retired.of_vals {b : Nat} {s t : State} (r : Retired b s) {f : Nat → Blk → Blk} (h : t.shd.blocks = s.shd.blocks.map fun x => (x.1, f x.1 x.2))
    (same : ∀ b x, (f b x).st = x.st) : Retired b t := by
  refine ⟨h ▸ wf_mapVals f r.wf, ?_⟩
  have listed : AMap.get? s.shd.blocks b = some (blkAt s b) := get?_of_not_free (by rw [r.st]; decide)
  have changed := get?_mapVals f s.shd.blocks b
  rw [← h, listed] at changed
  unfold blkAt AMap.getD
  rw [changed]
  exact (same _ _).trans r.st

theorem Retired.ne_leastWorn {b n die : Nat} {s : State} (r : Retired b s) (next : leastWorn s die = some n) : b ≠ n := by
  rintro rfl
  exact absurd (r.st.symm.trans (leastWorn_free r.wf next)) (by decide)

/-! ## Issuing units -/

/-- What issuing units leaves of the Shed. -/
def Shd.offRows (d : Shd) : Shd :=
  { d with blocks := [], units := [], pageSeq := 0, stripes := [], rows := [], group := [], queue := [], owed := [], dieUnits := [], dieMoves := [] }

/-- Units are issued between two states: the rest of the Shed is as it was, and no retired block comes back. -/
structure Issues (s t : State) : Prop where
  shd : t.shd.offRows = s.shd.offRows
  retired : ∀ b, Retired b s → Retired b t

theorem Issues.refl (s : State) : Issues s s := ⟨rfl, fun _ => id⟩

theorem Issues.trans {s u t : State} (h : Issues s u) (k : Issues u t) : Issues s t := ⟨k.shd.trans h.shd, fun b r => k.retired b (h.retired b r)⟩

theorem Issues.of_blocks {s t : State} (shd : t.shd.offRows = s.shd.offRows) (blocks : t.shd.blocks = s.shd.blocks) : Issues s t :=
  ⟨shd, fun _ r => r.of_blocks blocks⟩

theorem Issues.each {α : Type} {f : α → State → State} (h : ∀ x v, Issues v (f x v)) (xs : List α) (s : State) : Issues s (each f xs s) :=
  each_inv xs (.refl s) fun x _ _ k => k.trans (h x _)

section

variable {s t : State} (h : Issues s t)

include h

theorem Issues.lostUnits : t.shd.lostUnits = s.shd.lostUnits := (congrArg Shd.lostUnits h.shd :)

theorem Issues.uncorrectable : t.shd.uncorrectable = s.shd.uncorrectable := (congrArg Shd.uncorrectable h.shd :)

theorem Issues.verifyFails : t.shd.verifyFails = s.shd.verifyFails := (congrArg Shd.verifyFails h.shd :)

theorem Issues.programFails : t.shd.programFails = s.shd.programFails := (congrArg Shd.programFails h.shd :)

theorem Issues.eraseFails : t.shd.eraseFails = s.shd.eraseFails := (congrArg Shd.eraseFails h.shd :)

end

/-- Stripes and rows are opened between two states: the units that wait, and what units owe, are as they were as well. -/
structure Opens (s t : State) : Prop extends Issues s t where
  queue : t.shd.queue = s.shd.queue
  owed : t.shd.owed = s.shd.owed

theorem Opens.refl (s : State) : Opens s s := ⟨.refl s, rfl, rfl⟩

theorem Opens.trans {s u t : State} (h : Opens s u) (k : Opens u t) : Opens s t :=
  ⟨h.toIssues.trans k.toIssues, k.queue.trans h.queue, k.owed.trans h.owed⟩

theorem takeBlock_opens (stream die : Nat) (s : State) : Opens s (takeBlock stream die s) := by
  unfold takeBlock
  split
  case h_1 => exact .refl s
  case h_2 next => exact ⟨⟨rfl, fun b r => r.setBlk (r.ne_leastWorn next) _⟩, rfl, rfl⟩

theorem wantBlocks_opens (stream group : Nat) (s : State) : Opens s (wantBlocks stream group s) := by
  unfold wantBlocks
  refine List.foldlRecOn _ _ (.refl s) fun v k i _ => ?_
  split
  · exact k
  · exact k.trans (takeBlock_opens ..)

/-- A stripe is opened on its blocks. -/
def stripeOpened (x : Stripe) (s : State) : State :=
  updShd (fun d => { d with
    stripes := d.stripes ++ [x]
    blocks := d.blocks.map fun (b, y) => (b, if x.blocks.contains b then { y with stripe := x.stripeSeq } else y) }) s

theorem openStripe_cases (stream group : Nat) (s : State) :
    (∃ x, openStripe stream group s = (some x, stripeOpened x s)) ∨ openStripe stream group s = (none, wantBlocks stream group s) := by
  unfold openStripe
  dsimp only
  generalize List.filterMap _ _ = got
  split
  · exact .inl ⟨⟨stream, group, got, 0, s.shd.pageSeq⟩, rfl⟩
  · exact .inr rfl

theorem stripeOpened_opens (x : Stripe) (s : State) : Opens s (stripeOpened x s) := by
  refine ⟨⟨by rfl, fun b r => ?_⟩, by rfl, by rfl⟩
  refine r.of_vals (f := fun b y => if x.blocks.contains b then { y with stripe := x.stripeSeq } else y) rfl fun b y => ?_
  split <;> rfl

theorem openStripe_opens (stream group : Nat) (s : State) : Opens s (openStripe stream group s).2 := by
  obtain ⟨x, e⟩ | e := openStripe_cases stream group s <;> rw [e]
  · exact stripeOpened_opens x s
  · dsimp only
    exact wantBlocks_opens stream group s

theorem rowFor_opens (stream : Nat) (s : State) : Opens s (rowFor stream s).2 := by
  have added : ∀ {u : State} (r : OpenRow), Opens s u → Opens s (updShd (fun d => { d with rows := d.rows ++ [r] }) u) :=
    fun _ h => h.trans ⟨.of_blocks rfl rfl, rfl, rfl⟩
  have stripe := openStripe_opens stream (groupOf s stream) s
  unfold rowFor
  dsimp only
  split
  case h_1 => exact .refl s
  case h_2 =>
    cases stripeOf s stream (groupOf s stream) with
    | some t =>
      dsimp only
      split
      · exact .refl s
      · exact added _ (.refl s)
    | none =>
      generalize openStripe stream (groupOf s stream) s = o at stripe
      obtain ⟨t, u⟩ := o
      cases t with
      | none => exact stripe
      | some t =>
        dsimp only
        split
        · exact stripe
        · exact added _ stripe

theorem issueOn_issues (r : OpenRow) (i role logical : Nat) (region data : Bytes) (owed : Owed) (s : State) :
    Issues s (issueOn r i role logical region data owed s) := .of_blocks rfl rfl

theorem updRow_issues (r : OpenRow) (f : OpenRow → OpenRow) (s : State) : Issues s (updRow r f s) := .of_blocks rfl rfl

theorem closeRow_issues (stream group : Nat) (s : State) : Issues s (closeRow stream group s) := by
  unfold closeRow
  split
  · exact .refl s
  · next r _ =>
    have parity := issueOn_issues r (r.row % 16) 1 0x7FFFFFF [] (parityOf s r) .none s
    dsimp only
    generalize issueOn r (r.row % 16) 1 0x7FFFFFF [] (parityOf s r) .none s = u at parity
    refine (parity.trans (updRow_issues r (fun r => { r with complete := true }) u)).trans ?_
    generalize updRow r (fun r => { r with complete := true }) u = v
    exact .of_blocks rfl rfl

theorem issueUnit_issues (q : QUnit) (s : State) : Issues s (issueUnit q s).2 := by
  have row := (rowFor_opens q.stream s).toIssues
  unfold issueUnit
  generalize rowFor q.stream s = o at row
  obtain ⟨r, u⟩ := o
  cases r with
  | none => exact row
  | some r =>
    dsimp only
    split
    · exact (row.trans (issueOn_issues ..)).trans (closeRow_issues ..)
    · exact row.trans (issueOn_issues ..)

theorem pumpUnit_issues (q : QUnit) (s : State) : Issues s (pumpUnit q s) := by
  have issued := issueUnit_issues q s
  unfold pumpUnit
  dsimp only
  split
  · exact .refl s
  · split
    · exact issued.trans (.of_blocks rfl rfl)
    · exact issued

theorem pumpAll_issues (s : State) : Issues s (pumpAll s) := by
  unfold pumpAll
  exact .each pumpUnit_issues _ s

theorem queueUnit_issues (q : QUnit) (s : State) : Issues s (queueUnit q s) := .of_blocks rfl rfl

theorem padRow_issues (stream group : Nat) (s : State) : Issues s (padRow stream group s) := by
  unfold padRow
  split
  · exact .refl s
  · refine Issues.trans ?_ ((closeRow_issues ..).trans (.of_blocks rfl rfl))
    exact .each (fun i v => issueOn_issues ..) _ s

theorem rewriteUnits_issues (b : Nat) (keep : Nat → Bool) (s : State) : Issues s (rewriteUnits b keep s) := by
  refine .each (fun x v => ?_) _ s
  obtain ⟨l, u⟩ := x
  dsimp only
  split
  · split
    · exact queueUnit_issues ..
    · exact .refl v
  · exact .refl v

theorem pumpAll_nothing {s : State} (empty : s.shd.queue = []) : pumpAll s = s := by
  unfold pumpAll
  rw [empty]
  rfl

/-! ## Mapping, unmapping and journalling units -/

/-- What mapping, unmapping and journalling units leave of the Shed. -/
def Shd.offMap (d : Shd) : Shd :=
  { d with map := [], mapCache := [], pagesStored := [], blocks := [], ckptActive := false, ckptAgain := false, sinceCkpt := 0, ckptSnap := none,
           pendingRecs := [], copied := [], owed := [] }

/-- The map changes between two states: the rest of the Shed and every counter but that of the map pages fetched are as they were. -/
structure Remaps (s t : State) : Prop where
  shd : t.shd.offMap = s.shd.offMap
  counts : ∀ c, c ≠ 0x0E0120 → ctr t c = ctr s c

theorem Remaps.refl (s : State) : Remaps s s := ⟨rfl, fun _ _ => rfl⟩

theorem Remaps.trans {s u t : State} (h : Remaps s u) (k : Remaps u t) : Remaps s t :=
  ⟨k.shd.trans h.shd, fun c n => (k.counts c n).trans (h.counts c n)⟩

theorem Remaps.each {α : Type} {f : α → State → State} (h : ∀ x v, Remaps v (f x v)) (xs : List α) (s : State) : Remaps s (each f xs s) :=
  each_inv xs (.refl s) fun x _ _ k => k.trans (h x _)

section

variable {s t : State} (h : Remaps s t)

include h

theorem Remaps.gc : t.shd.gc = s.shd.gc := (congrArg Shd.gc h.shd :)

theorem Remaps.victims : t.shd.victims = s.shd.victims := (congrArg Shd.victims h.shd :)

theorem Remaps.rows : t.shd.rows = s.shd.rows := (congrArg Shd.rows h.shd :)

theorem Remaps.spills : t.shd.spills = s.shd.spills := (congrArg Shd.spills h.shd :)

theorem Remaps.lossLog : t.shd.lossLog = s.shd.lossLog := (congrArg Shd.lossLog h.shd :)

theorem Remaps.lostLanding : t.shd.lostLanding = s.shd.lostLanding := (congrArg Shd.lostLanding h.shd :)

theorem Remaps.nandUnits : t.shd.nandUnits = s.shd.nandUnits := (congrArg Shd.nandUnits h.shd :)

theorem Remaps.correctedBits : t.shd.correctedBits = s.shd.correctedBits := (congrArg Shd.correctedBits h.shd :)

theorem Remaps.lostUnits : t.shd.lostUnits = s.shd.lostUnits := (congrArg Shd.lostUnits h.shd :)

end

theorem updShd_remaps {f : Shd → Shd} (h : ∀ d, (f d).offMap = d.offMap) (s : State) : Remaps s (updShd f s) := ⟨h s.shd, fun _ _ => rfl⟩

theorem startCheckpoint_remaps (s : State) : Remaps s (startCheckpoint s) := by
  unfold startCheckpoint
  dsimp only
  split
  · exact .refl s
  · split <;> exact ⟨rfl, fun _ _ => rfl⟩

theorem touchPage_remaps (l : Nat) (w : Bool) (s : State) : Remaps s (touchPage l w s) := by
  unfold touchPage
  dsimp only
  split
  · exact ⟨rfl, fun _ _ => rfl⟩
  · split
    · exact .refl s
    · have counted : Remaps s (if mem? s.shd.pagesStored (l / 4096) = true then inc 0x0E0120 s else s) := by
        split
        · exact ⟨rfl, fun c other => (ctr_inc ..).trans (if_neg other)⟩
        · exact .refl s
      generalize (if mem? s.shd.pagesStored (l / 4096) = true then inc 0x0E0120 s else s) = u at counted
      refine Remaps.trans (u := if 16384 ≤ s.shd.mapCache.length ∧ (s.shd.mapCache.all fun x => x.2) = true then startCheckpoint u else u)
        (counted.trans ?_) ⟨rfl, fun _ _ => rfl⟩
      split
      · exact startCheckpoint_remaps _
      · exact .refl _

theorem invalidate_remaps (u : Nat) (seq : Option Nat) (s : State) : Remaps s (invalidate u seq s) := by
  cases seq <;> exact ⟨rfl, fun _ _ => rfl⟩

theorem mapUnit_remaps (l u : Nat) (seq : Option Nat) (s : State) : Remaps s (mapUnit l u seq s) := by
  have touched := touchPage_remaps l true s
  unfold mapUnit
  dsimp only
  generalize touchPage l true s = u0 at touched
  split
  · exact (touched.trans (invalidate_remaps ..)).trans (updShd_remaps (fun _ => by rfl) _)
  · exact touched.trans (updShd_remaps (fun _ => by rfl) _)

theorem unmapRange_remaps (first n : Nat) (s : State) : Remaps s (unmapRange first n s) := by
  unfold unmapRange
  refine .each (fun x v => ?_) _ s
  obtain ⟨l, u⟩ := x
  exact ((touchPage_remaps l true v).trans (updShd_remaps (fun _ => by rfl) _)).trans (invalidate_remaps ..)

theorem journalRec_remaps (r : JRec) (s : State) : Remaps s (journalRec r s) := ⟨rfl, fun _ _ => rfl⟩

theorem setBlk_remaps (b : Nat) (x : Blk) (s : State) : Remaps s (setBlk b x s) := ⟨rfl, fun _ _ => rfl⟩

theorem settleBlocks_remaps (s : State) : Remaps s (settleBlocks s) := by
  unfold settleBlocks
  exact .each (fun x v => setBlk_remaps ..) _ s

theorem gcMove_remaps (l src u : Nat) (s : State) : Remaps s (gcMove l src u s) := by
  unfold gcMove
  split
  · exact (mapUnit_remaps ..).trans (journalRec_remaps ..)
  · exact .refl s

theorem journalShelters_remaps : ∀ (f r : Nat) (s : State), Remaps s (journalShelters f r s)
  | 0, _, s => .refl s
  | f + 1, r, s => by
    unfold journalShelters
    dsimp only
    split
    · exact .refl s
    · refine Remaps.trans ?_ (journalShelters_remaps f r _)
      exact (updShd_remaps (fun _ => by rfl) _).trans (journalRec_remaps ..)

/-- A block whose valid units have reached 0 is RELEASING; every other is as it was. -/
theorem blkAt_settleBlocks (s : State) (b : Nat) : blkAt (settleBlocks s) b = blkAt s b ∨ blkAt (settleBlocks s) b = { blkAt s b with st := .releasing } := by
  refine each_inv (P := fun v => blkAt v b = blkAt s b ∨ blkAt v b = { blkAt s b with st := .releasing }) _ (.inl rfl) fun x _ v kept => ?_
  by_cases here : b = x.1
  · subst here
    rw [blkAt_setBlk_self]
    exact .inr (kept.elim (fun e => by rw [e]) fun e => by rw [e])
  · rw [blkAt_setBlk_other _ _ here]
    exact kept

end Sys2Proof.Machine
end


/-! Checkpoints, garbage collection, verify, and failures of blocks and units (R329 to R333). -/

section

namespace Sys2Proof.Machine

/-! ## Checkpoints (R329) -/

theorem exec_checkpoint {s : State} {c : Instr} (mem : c ∈ [Instr.checkpointBytes, .checkpointInterval])
    (time : c = .checkpointInterval ∨ 16384 ≤ s.shd.sinceCkpt) : exec c s = .next (startCheckpoint s) := by
  obtain rfl | rfl | none := by simpa using mem
  · exact if_pos (time.resolve_left (by simp))
  · rfl

theorem startCheckpoint_begins {s : State} (noDusk : s.cfg.dusk = none) (ready : s.shd.ready = true) (idle : s.shd.ckptActive = false) :
    (startCheckpoint s).shd.ckptActive = true ∧ (startCheckpoint s).shd.sinceCkpt = 0
      ∧ (startCheckpoint s).shd.ckptSnap.any (fun k => k.horizon == s.shd.pageSeq && k.map == s.shd.map) = true := by
  unfold startCheckpoint
  dsimp only
  rw [if_neg (by simp [noDusk, ready]), if_neg (by simp [idle])]
  exact ⟨rfl, rfl, by simp⟩

theorem startCheckpoint_follows {s : State} (noDusk : s.cfg.dusk = none) (ready : s.shd.ready = true) (active : s.shd.ckptActive = true) :
    startCheckpoint s = updShd (fun d => { d with ckptAgain := true }) s := by
  unfold startCheckpoint
  dsimp only
  rw [if_neg (by simp [noDusk, ready]), if_pos active]

/-- RELEASING blocks whose every invalidation lies below a checkpoint's horizon (R330). -/
def releasedBy (k : Ckpt) (s : State) : AMap Blk :=
  s.shd.blocks.filter fun (_, x) => x.st == .releasing && !x.invalPending && decide (x.lastInval < k.horizon)

/-- A checkpoint is durable, and none follows. -/
def ckptMade (k : Ckpt) (s : State) : State :=
  addCtr 0x0E010C ((releasedBy k s).filter fun (_, x) => decide (x.stream < 3)).length (inc 0x0E0108 (updShd (fun d => { d with
    ckpt := some k, ckptSnap := none, ckptActive := false
    jlog := d.jlog.filter fun j => decide (k.horizon ≤ j.1) || k.inFlight.contains j.1
    blocks := d.blocks.map fun (b, x) => (b, if (releasedBy k s).any fun y => y.1 == b then { x with st := .free } else x) }) s))

theorem exec_checkpointDurable {s : State} {k : Ckpt} (active : s.shd.ckptActive = true) (snap : s.shd.ckptSnap = some k)
    (last : s.shd.ckptAgain = false) : exec .checkpointDurable s = .next (ckptMade k s) := by
  refine (if_pos active).trans (congrArg Host.Outcome.next ?_)
  unfold checkpointDurable
  rw [snap]
  exact if_neg (ne_true_of_eq_false last)

theorem blkAt_ckptMade {s : State} {k : Ckpt} {b : Nat} (st : (blkAt s b).st = .releasing) (noted : (blkAt s b).invalPending = false)
    (below : (blkAt s b).lastInval < k.horizon) : (blkAt (ckptMade k s) b).st = .free := by
  have listed : AMap.get? s.shd.blocks b = some (blkAt s b) := get?_of_not_free (by rw [st]; decide)
  have released : (releasedBy k s).any (fun y => y.1 == b) = true :=
    List.any_eq_true.mpr ⟨(b, blkAt s b), List.mem_filter.mpr ⟨mem_of_get? listed, by simp [st, noted, below]⟩, beq_self_eq_true b⟩
  have changed := get?_mapVals (fun b x => if (releasedBy k s).any (fun y => y.1 == b) = true then { x with st := .free } else x) s.shd.blocks b
  rw [listed] at changed
  have made : AMap.get? (ckptMade k s).shd.blocks b = _ := changed
  unfold blkAt AMap.getD
  rw [made]
  exact congrArg Blk.st (if_pos released)

/-! ## Garbage collection (R331) -/

theorem chooseVictim_gc (d : Nat) (s : State) : (chooseVictim d s).shd.gc = s.shd.gc := by
  unfold chooseVictim
  split
  · rfl
  · exact (settleBlocks_remaps _).gc.trans rfl

theorem chooseVictim_victim {d b : Nat} {s : State} (victim : victimOf s d = some b) :
    AMap.get? (chooseVictim d s).shd.victims d = some b ∧ ((blkAt (chooseVictim d s) b).st = .victim ∨ (blkAt (chooseVictim d s) b).st = .releasing) := by
  unfold chooseVictim
  rw [victim]
  dsimp only
  obtain ⟨u, hu⟩ : ∃ u, u = updShd (fun g => { g with victims := AMap.set g.victims d b }) (setBlk b { blkAt s b with st := .victim } s) := ⟨_, rfl⟩
  have chosen : blkAt u b = { blkAt s b with st := .victim } := hu ▸ blkAt_setBlk_self ..
  have entered : AMap.get? u.shd.victims d = some b := hu ▸ AMap.get?_set_self ..
  rw [← hu]
  refine ⟨(congrArg (AMap.get? · d) (settleBlocks_remaps u).victims).trans entered, ?_⟩
  exact (blkAt_settleBlocks u b).imp (fun e => by rw [e, chosen]) fun e => by rw [e]

theorem exec_gcStart {s : State} {d : Nat} (ready : s.shd.ready = true) (noDusk : s.cfg.dusk = none) (fitted : d < s.shd.dies)
    (idle : mem? s.shd.gc d = false) (low : freeBlocks s d < Cfgw.gcLow s) :
    exec (.gcStart d) s = .next (chooseVictim d (updShd (fun g => { g with gc := AMap.set g.gc d () }) s)) :=
  if_neg (by simp [ready, noDusk, fitted, idle, low])

/-- A unit waits to be issued, and only that one. -/
theorem pumpAll_single {s : State} {q : QUnit} (queue : s.shd.queue = [q]) : pumpAll s = pumpUnit q s := by
  unfold pumpAll
  rw [queue]
  rfl

theorem copying_of_queue {s : State} {u l : Nat} {q : QUnit} (mem : q ∈ s.shd.queue) (owed : q.owed = .gc l u) : copying s u = true := by
  unfold copying
  refine Bool.or_eq_true_iff.mpr (.inl (List.any_eq_true.mpr ⟨q, mem, ?_⟩))
  rw [owed]
  exact beq_self_eq_true u

theorem copying_of_owed {s : State} {u l k : Nat} (owed : AMap.get? s.shd.owed k = some (.gc l u)) : copying s u = true := by
  unfold copying
  exact Bool.or_eq_true_iff.mpr (.inr (List.any_eq_true.mpr ⟨(k, .gc l u), mem_of_get? owed, beq_self_eq_true u⟩))

theorem closeRow_owed (stream group : Nat) (s : State) : (closeRow stream group s).shd.owed = s.shd.owed := by
  unfold closeRow
  split <;> rfl

/-- A unit that owes something stays in the queue, or is issued and owes it. -/
theorem issueUnit_owes {q : QUnit} (owes : q.owed ≠ .none) (s : State) :
    ((issueUnit q s).1 = false ∧ (issueUnit q s).2.shd.queue = s.shd.queue) ∨ ∃ k, AMap.get? (issueUnit q s).2.shd.owed k = some q.owed := by
  have row := (rowFor_opens q.stream s).queue
  unfold issueUnit
  generalize rowFor q.stream s = o at row
  obtain ⟨r, v⟩ := o
  cases r with
  | none => exact .inl ⟨rfl, row⟩
  | some r =>
    dsimp only
    obtain ⟨i, hi⟩ : ∃ i, i = (dataDies r.row).getD r.issued.length 0 := ⟨_, rfl⟩
    rw [← hi]
    have issued : (issueOn r i 0 q.logical q.region (fit q.data 65536) q.owed v).shd.owed
        = AMap.set v.shd.owed (r.blocks.getD i 0 * ppb v + r.row) q.owed := if_neg owes
    refine .inr ⟨r.blocks.getD i 0 * ppb v + r.row, ?_⟩
    split
    · rw [closeRow_owed, issued]
      exact AMap.get?_set_self ..
    · rw [issued]
      exact AMap.get?_set_self ..

/-- The one unit that waits is a garbage collection copy: it stays under way. -/
theorem copying_pumpUnit {s : State} {q : QUnit} {l u : Nat} (owed : q.owed = .gc l u) (mem : q ∈ s.shd.queue) : copying (pumpUnit q s) u = true := by
  unfold pumpUnit
  dsimp only
  split
  · exact copying_of_queue mem owed
  · obtain ⟨stays, queue⟩ | ⟨k, owes⟩ := issueUnit_owes (q := q) (by rw [owed]; exact Owed.noConfusion) s
    · rw [if_neg (ne_true_of_eq_false stays)]
      exact copying_of_queue (queue ▸ mem) owed
    · rw [owed] at owes
      split
      · exact copying_of_owed owes
      · exact copying_of_owed owes

theorem exec_unitReadDone {s : State} {u l : Nat} {x : NUnit}
    (victim : AMap.get? s.shd.victims (dieOfBlock s (blockOfUnit s u)) = some (blockOfUnit s u)) (st : (blkAt s (blockOfUnit s u)).st = .victim)
    (fresh : copying s u = false) (noDusk : s.cfg.dusk = none) (mapped : (s.shd.map.find? fun (_, v) => v == u) = some (l, u))
    (unit : AMap.get? s.shd.units u = some x) :
    exec (.unitReadDone u) s = .next (pumpAll (queueUnit ⟨2, l, [], x.data, .gc l u⟩ s)) := by
  show execUnitReadDone u s = _
  unfold execUnitReadDone
  dsimp only
  simp only [victim, true_or, if_true]
  rw [if_neg (by simp [st, fresh, noDusk]), mapped, unit]
  rfl

/-! ## Erase and verify (R330) -/

theorem blockErased_erases {s : State} {b st : Nat} (erasing : (blkAt s b).st = .erasing) (stream : (blkAt s b).stream = st) :
    blkAt (blockErased b st s) b = { blkAt s b with erases := (blkAt s b).erases + 1, lastInval := 0, invalPending := false }
      ∧ (blockErased b st s).shd.pendingRecs = s.shd.pendingRecs ++ [.erased b ((blkAt s b).erases + 1) st] := by
  unfold blockErased
  dsimp only
  rw [if_pos ⟨erasing, stream⟩]
  exact ⟨blkAt_setBlk_self .., rfl⟩

theorem retireBlock_retired {s : State} (wf : AMap.wf s.shd.blocks = true) (b cause : Nat) : Retired b (retireBlock b cause s) :=
  ⟨AMap.wf_set _ _ _ wf, congrArg Blk.st (blkAt_setBlk_self b _ s)⟩

theorem rewriteUnits_blocks (b : Nat) (keep : Nat → Bool) (s : State) : (rewriteUnits b keep s).shd.blocks = s.shd.blocks := by
  refine each_keeps (fun v : State => v.shd.blocks) (fun x v => ?_) _ s
  obtain ⟨l, u⟩ := x
  dsimp only
  split
  · split <;> rfl
  · rfl

/-- What a read back of a block has found is counted. -/
def bitsCounted (n : Nat) (readable : Bool) (s : State) : State :=
  updShd (fun d => { d with correctedBits := d.correctedBits + n, uncorrectable := d.uncorrectable + b2n (!readable) }) s

section Verify

variable {s : State} {b : Nat} (closed : (blkAt s b).st = .closed) (noDusk : s.cfg.dusk = none)

include closed noDusk

theorem exec_readVerifyResult_within {n : Nat} (within : n ≤ Cfgw.verifyLimit s) :
    exec (.readVerifyResult b n true) s = .next (settleBlocks (setBlk b { blkAt s b with st := .verified } (bitsCounted n true s))) := by
  refine (if_neg ?_).trans (if_pos ⟨rfl, within⟩)
  rintro (other | dusk)
  · exact other closed
  · rw [noDusk] at dusk
    cases dusk

theorem exec_readVerifyResult_unreadable (n : Nat) :
    exec (.readVerifyResult b n false) s = .next (pumpAll (retireBlock b 3 (rewriteUnits b (fun _ => true)
      (updShd (fun d => { d with verifyFails := d.verifyFails + 1 }) (inc 0x0E0118 (bitsCounted n false s)))))) := by
  refine (if_neg ?_).trans (if_neg fun h => Bool.false_ne_true h.1)
  rintro (other | dusk)
  · exact other closed
  · rw [noDusk] at dusk
    cases dusk

end Verify

/-- A block retired with the units that it held written again. -/
theorem retired_rewritten {s : State} (wf : AMap.wf s.shd.blocks = true) (b cause : Nat) (keep : Nat → Bool) :
    Retired b (retireBlock b cause (rewriteUnits b keep s)) :=
  retireBlock_retired ((rewriteUnits_blocks b keep s).symm ▸ wf) b cause

/-! ## Failed programs and erases (R330, R332) -/

theorem replaceBlock_retired {s : State} {b : Nat} (r : Retired b s) (row : Nat) : Retired b (replaceBlock b row s) := by
  unfold replaceBlock
  split
  · exact r
  · dsimp only
    split
    · next next =>
      refine Retired.setBlk ?_ (r.ne_leastWorn next) _
      exact r.of_blocks rfl
    · refine each_inv _ (r.of_blocks (by rfl)) fun c _ v kept => ?_
      split
      · exact kept
      · next other => exact kept.setBlk (Ne.symm other) _

theorem replaceBlock_offRows (b row : Nat) (s : State) : (replaceBlock b row s).shd.offRows = s.shd.offRows := by
  unfold replaceBlock
  split
  · rfl
  · dsimp only
    split
    · rfl
    · refine each_keeps (fun v : State => v.shd.offRows) (fun c v => ?_) _ _
      split <;> rfl

theorem failures_of_offRows {d e : Shd} (h : d.offRows = e.offRows) : d.programFails = e.programFails ∧ d.eraseFails = e.eraseFails :=
  ⟨(congrArg Shd.programFails h :), (congrArg Shd.eraseFails h :)⟩

theorem replaceBlock_failures (b row : Nat) (s : State) : (replaceBlock b row s).shd.programFails = s.shd.programFails
    ∧ (replaceBlock b row s).shd.eraseFails = s.shd.eraseFails := failures_of_offRows (replaceBlock_offRows b row s)

/-- A failed program is counted; its row is given up, and the row's data units wait first. -/
def programLost (r : OpenRow) (s : State) : State :=
  updShd (fun d => { d with
      rows := d.rows.filter fun x => !(x == r)
      owed := r.issued.foldl (fun m v => AMap.erase m v) d.owed
      queue := (r.issued.filterMap fun v =>
        match AMap.get? s.shd.units v with
        | some x => if x.role = 0 then some (⟨x.stream, x.logical, x.region, x.data, AMap.getD s.shd.owed v .none⟩ : QUnit) else none
        | none => none) ++ d.queue })
    (updShd (fun d => { d with programFails := d.programFails + 1 }) (inc 0x0E0110 s))

theorem programLost_programFails (r : OpenRow) (s : State) : (programLost r s).shd.programFails = s.shd.programFails + 1 := rfl

theorem retireBlock_programFails (b cause : Nat) (s : State) : (retireBlock b cause s).shd.programFails = s.shd.programFails := rfl

theorem exec_nandProgramFailure {s : State} {u : Nat} {r : OpenRow} (row : (s.shd.rows.find? fun r => r.left.contains u) = some r) :
    exec (.nandProgramFailure u) s = .next (pumpAll (replaceBlock (blockOfUnit s u) (r.row + 1)
      (retireBlock (blockOfUnit s u) 1 (rewriteUnits (blockOfUnit s u) (fun v => !r.issued.contains v) (programLost r s))))) := by
  refine congrArg Host.Outcome.next ?_
  unfold programFailure
  rw [row]
  rfl

theorem exec_nandEraseFailure {s : State} {b : Nat} (erasing : (blkAt s b).st = .erasing) :
    exec (.nandEraseFailure b) s = .next
      (let v := retireBlock b 2 (updShd (fun d => { d with eraseFails := d.eraseFails + 1 }) (inc 0x0E0114 s))
       if (s.shd.stripes.any fun t => t.blocks.contains b) = true then replaceBlock b 0 v else takeBlock (blkAt s b).stream (dieOfBlock s b) v) := by
  refine (if_neg (not_not_intro erasing)).trans ?_
  dsimp only
  split <;> rfl

/-! ## Lost units (R333) -/

theorem ctr_appendLoss {c : Nat} (other : c ≠ 0x110020) (src : Nat) (l : Loss) (s : State) : ctr (appendLoss src l s) c = ctr s c :=
  ctr_pushMgt other ..

theorem appendLoss_lostUnits (src : Nat) (l : Loss) (s : State) : (appendLoss src l s).shd.lostUnits = s.shd.lostUnits := by
  unfold appendLoss
  rw [(post_frame ..).same .shd rfl]
  rfl

theorem ctr_deferError {c : Nat} (other : c ≠ 0x110020) (p first count cause version : Nat) (s : State) :
    ctr (deferError p first count cause version s) c = ctr s c := ctr_pushMgt other ..

/-- Packet i of a write lies in the unit of its ring from a spill offset on, and has no buffer copy. -/
def onlyInUnit (lo : Nat) (w : Write) (i : Nat) : Bool :=
  decide (w.copied > i) && decide (i < w.freed)
    && ((w.pkts[i]?).map fun k => decide (k.spillOff < lo + 65536 ∧ lo < k.spillOff + k.stored.length)).getD false

/-- A packet that a lost unit holds alone has zeros for the bytes of that unit. -/
def blanked (lo : Nat) (w : Write) (x : Pkt × Nat) : Pkt :=
  if onlyInUnit lo w x.2 then { x.1 with stored := zeroBytes x.1.spillOff lo (lo + 65536) x.1.stored } else x.1

/-- The records of a write that a lost unit holds alone are reported, and the bytes of that unit become zeros (R333). -/
def recordsLost (lo : Nat) (w : Write) (s : State) : State :=
  match recordsIn w (onlyInUnit lo w) with
  | none => s
  | some (i, n) =>
    deferError w.part (w.first + i) n Status.recordLost w.seq
      (appendLoss Src.shed (ownLoss s w.part 3 w.tapeDs n (w.first + i))
        (updWrite w.seq (fun v => { v with pkts := v.pkts.zipIdx.map (blanked lo w) }) s))

/-- The writes of a unit's ring. -/
def writesOf (x : NUnit) (s : State) : List Write := s.hq.writes.filter fun w => w.ring == some (beAt x.region 0 1)

theorem spillLost_cases (u l : Nat) (x : NUnit) (s : State) :
    ((∀ w ∈ writesOf x s, ∀ i < w.pkts.length, onlyInUnit (beAt x.region 8 6) w i = false)
        ∧ spillLost u l x s = pumpAll (queueUnit ⟨0, l, x.region, x.data, .none⟩ s))
      ∨ spillLost u l x s = updShd (fun d => { d with map := AMap.erase d.map l, units := AMap.erase d.units u })
          (each (recordsLost (beAt x.region 8 6)) (writesOf x s) s) := by
  unfold spillLost
  dsimp only
  split
  case isTrue held =>
    refine .inl ⟨fun w mem i lt => ?_, rfl⟩
    have clear := List.all_eq_true.mp (List.all_eq_true.mp held w mem) i (List.mem_range.mpr lt)
    exact Bool.not_eq_true' _ ▸ clear
  case isFalse => exact .inr rfl

theorem recordsLost_keeps (lo : Nat) (w : Write) (s : State) : (recordsLost lo w s).shd.lostUnits = s.shd.lostUnits
    ∧ ∀ c, c ≠ 0x110020 → ctr (recordsLost lo w s) c = ctr s c := by
  unfold recordsLost
  split
  · exact ⟨rfl, fun _ _ => rfl⟩
  · refine ⟨?_, fun c other => (ctr_deferError other ..).trans (ctr_appendLoss other ..)⟩
    rw [(deferError_frame ..).same .shd rfl, appendLoss_lostUnits]
    rfl

theorem recordsLost_logs {lo i n : Nat} {w : Write} (lost : recordsIn w (onlyInUnit lo w) = some (i, n)) (s : State) :
    (recordsLost lo w s).shd.lossLog = s.shd.lossLog ++ [ownLoss s w.part 3 w.tapeDs n (w.first + i)] := by
  unfold recordsLost
  rw [lost]
  dsimp only
  rw [(deferError_frame ..).same .shd rfl, appendLoss_lossLog]
  rfl

theorem spillLost_keeps (u l : Nat) (x : NUnit) (s : State) : (spillLost u l x s).shd.lostUnits = s.shd.lostUnits
    ∧ ∀ c, c ≠ 0x110020 → ctr (spillLost u l x s) c = ctr s c := by
  obtain ⟨-, e⟩ | e := spillLost_cases u l x s <;> rw [e]
  · refine ⟨((queueUnit_issues ..).trans (pumpAll_issues _)).lostUnits, fun c _ => ?_⟩
    exact congrArg (AMap.getD · c 0) ((pumpAll_frame _).same .ctrs rfl)
  · exact ⟨each_keeps (fun v : State => v.shd.lostUnits) (fun w v => (recordsLost_keeps _ w v).1) _ s,
      fun c other => each_keeps (fun v : State => ctr v c) (fun w v => (recordsLost_keeps _ w v).2 c other) _ s⟩

/-- A record is lost only with a packet of its write. -/
theorem hit_of_recordsIn {w : Write} {hit : Nat → Bool} {x : Nat × Nat} (lost : recordsIn w hit = some x) : ∃ i, hit i = true := by
  unfold recordsIn at lost
  dsimp only at lost
  split at lost
  · cases lost
  · next i is e =>
    have mem := (List.mem_filter.mp (e ▸ List.mem_cons_self : i ∈ (List.range w.live).filter _)).2
    split at mem
    · obtain ⟨k, -, here⟩ := List.any_eq_true.mp mem
      exact ⟨_, here⟩
    · cases mem

theorem lt_of_onlyInUnit {lo i : Nat} {w : Write} (h : onlyInUnit lo w i = true) : i < w.pkts.length := by
  by_contra beyond
  unfold onlyInUnit at h
  rw [List.getElem?_eq_none (not_lt.mp beyond)] at h
  simp at h

/-- The one write of a unit's ring loses the records that had no buffer copy: they enter the Loss Log. -/
theorem spillLost_logs {x : NUnit} {s : State} {w : Write} {i n : Nat} (alone : s.hq.writes = [w]) (ring : w.ring = some (beAt x.region 0 1))
    (lost : recordsIn w (onlyInUnit (beAt x.region 8 6) w) = some (i, n)) (u l : Nat) :
    (spillLost u l x s).shd.lossLog = s.shd.lossLog ++ [ownLoss s w.part 3 w.tapeDs n (w.first + i)] := by
  have mine : writesOf x s = [w] := by
    unfold writesOf
    rw [alone]
    simp [ring]
  obtain ⟨k, hit⟩ := hit_of_recordsIn lost
  obtain ⟨held, -⟩ | e := spillLost_cases u l x s
  · have clear := held w (mine ▸ List.mem_singleton_self w) k (lt_of_onlyInUnit hit)
    exact absurd hit (ne_true_of_eq_false clear)
  · rw [e, mine]
    exact recordsLost_logs lost s

/-- A lost unit is counted. -/
def lossCounted (s : State) : State := updShd (fun d => { d with lostUnits := d.lostUnits + 1 }) (inc 0x0E011C s)

/-- A logical unit is unmapped by a record. -/
def unitUnmapped (l : Nat) (s : State) : State := settleBlocks (journalRec (.unmap l 1) (unmapRange l 1 s))

theorem unitUnmapped_remaps (l : Nat) (s : State) : Remaps s (unitUnmapped l s) :=
  ((unmapRange_remaps l 1 s).trans (journalRec_remaps ..)).trans (settleBlocks_remaps _)

theorem mapOf_unitUnmapped {s : State} (wf : AMap.wf s.shd.map = true) (l : Nat) : mapOf (unitUnmapped l s) l = none := by
  have settled : (unitUnmapped l s).shd.map = (unmapRange l 1 s).shd.map := (settleBlocks_map _).1
  unfold mapOf
  rw [settled]
  exact (mapOf_unmapRange wf l 1 l).trans (if_pos ⟨Nat.le_refl l, Nat.lt_succ_self l⟩)

theorem unitUnmapped_rch (l : Nat) (s : State) : (unitUnmapped l s).rch = s.rch :=
  ((settleBlocks_frame _).same .rch rfl).trans ((unmapRange_frame ..).same .rch rfl)

/-- The state in which a landing block is lost, still mapped. -/
def landingLost (u block : Nat) (s : State) : State :=
  updShd (fun d => { d with units := AMap.erase d.units u, lostLanding := AMap.set d.lostLanding block () }) s

theorem landingLost_shd (u block : Nat) (s : State) : (landingLost u block s).shd.map = s.shd.map
    ∧ (landingLost u block s).shd.lossLog = s.shd.lossLog ∧ (landingLost u block s).shd.lostUnits = s.shd.lostUnits
    ∧ mem? (landingLost u block s).shd.lostLanding block = true :=
  ⟨rfl, rfl, rfl, congrArg Option.isSome (AMap.get?_set_self ..)⟩

theorem ctr_landingLost (c u block : Nat) (s : State) : ctr (landingLost u block s) c = ctr s c := rfl

/-- The state in which an entry of the directory is lost, its unit still mapped. -/
def dirLost (entry : Nat) (s : State) : State := updShd (fun d => { d with dirs := d.dirs.modify entry fun _ => {} }) s

theorem dirLost_keeps (entry : Nat) (s : State) :
    (dirLost entry s).shd.lostUnits = s.shd.lostUnits ∧ ∀ c, ctr (dirLost entry s) c = ctr s c := ⟨rfl, fun _ => rfl⟩

/-- Records that a weak slot's entries leave the list. -/
def weakJournaled (slot : Nat) (s : State) : State :=
  each (fun (w : Weak) s => if w.slot = slot then journalRec (.weak false slot w.ds w.part w.rung w.writePass w.serial) s else s) s.rch.weak s

/-- The entries of a slot leave the weak list. -/
def weakLeft (slot : Nat) (s : State) : State := { s with rch := { s.rch with weak := s.rch.weak.filter fun w => w.slot != slot } }

theorem weakLeft_keeps (slot : Nat) (s : State) :
    (weakLeft slot s).shd.lostUnits = s.shd.lostUnits ∧ ∀ c, ctr (weakLeft slot s) c = ctr s c := ⟨rfl, fun _ => rfl⟩

theorem weakJournaled_rch (slot : Nat) (s : State) : (weakJournaled slot s).rch = s.rch := by
  refine each_keeps (fun v : State => v.rch) (fun w v => ?_) _ s
  split <;> rfl

theorem weakLeft_weakJournaled (slot : Nat) (s : State) :
    (weakLeft slot (weakJournaled slot s)).rch.weak = s.rch.weak.filter fun w => w.slot != slot :=
  congrArg (fun r : Rch => r.weak.filter fun w : Weak => w.slot != slot) (weakJournaled_rch slot s)

theorem weakJournaled_remaps (slot : Nat) (s : State) : Remaps s (weakJournaled slot s) := by
  refine .each (fun w v => ?_) _ s
  split
  · exact journalRec_remaps ..
  · exact .refl v

section Lost

variable {s : State} {u l : Nat} {x : NUnit} (mapped : (s.shd.map.find? fun (_, v) => v == u) = some (l, u))
  (unit : AMap.get? s.shd.units u = some x)

include mapped unit

theorem exec_shedUnitLost : exec (.shedUnitLost u) s = .next
    (if l < 0x4000000 then spillLost u l x (lossCounted s)
    else if l < 0x6000000 then unitUnmapped l (landingLost u (l - 0x4000000) (lossCounted s))
    else if l < 0x612C000 then
      unitUnmapped l (weakLeft ((l - 0x6000000) / 300) (weakJournaled ((l - 0x6000000) / 300) (lossCounted s)))
    else if 0x6800000 ≤ l ∧ l < 0x6804B00 then
      unitUnmapped l (dirLost ((l - 0x6800000) / 1200) (lossCounted s))
    else unitUnmapped l (lossCounted s)) := by
  show execShedUnitLost u s = _
  unfold execShedUnitLost
  rw [mapped, unit]
  dsimp only
  repeat' split
  all_goals rfl

/-- Whatever its region, a lost unit is counted once. -/
theorem runs_shedUnitLost : Runs (.shedUnitLost u) s fun t => t.shd.lostUnits = s.shd.lostUnits + 1 ∧ ctr t 0x0E011C = satAdd (ctr s 0x0E011C) 1 := by
  have counted : (lossCounted s).shd.lostUnits = s.shd.lostUnits + 1 ∧ ctr (lossCounted s) 0x0E011C = satAdd (ctr s 0x0E011C) 1 :=
    ⟨rfl, (ctr_inc ..).trans (if_pos rfl)⟩
  obtain ⟨t, ht⟩ : ∃ t, t = lossCounted s := ⟨_, rfl⟩
  have runs := exec_shedUnitLost mapped unit
  rw [← ht] at counted runs
  obtain ⟨units, counts⟩ := counted
  have unmapped : ∀ v : State, v.shd.lostUnits = t.shd.lostUnits → ctr v 0x0E011C = ctr t 0x0E011C →
      (unitUnmapped l v).shd.lostUnits = s.shd.lostUnits + 1 ∧ ctr (unitUnmapped l v) 0x0E011C = satAdd (ctr s 0x0E011C) 1 := fun v u c =>
    have remaps := unitUnmapped_remaps l v
    ⟨(remaps.lostUnits.trans u).trans units, ((remaps.counts _ (by decide)).trans c).trans counts⟩
  refine ⟨_, runs, ?_⟩
  split
  · obtain ⟨same, other⟩ := spillLost_keeps u l x t
    exact ⟨same.trans units, (other _ (by decide)).trans counts⟩
  · split
    · exact unmapped _ (landingLost_shd ..).2.2.1 (ctr_landingLost ..)
    · split
      · have journaled := weakJournaled_remaps ((l - 0x6000000) / 300) t
        exact unmapped _ ((weakLeft_keeps ..).1.trans journaled.lostUnits) (((weakLeft_keeps ..).2 _).trans (journaled.counts _ (by decide)))
      · split
        · exact unmapped _ (dirLost_keeps ..).1 ((dirLost_keeps ..).2 _)
        · exact unmapped _ rfl rfl

end Lost

/-- A closed block that cannot be read back is retired and counted. -/
theorem runs_readVerifyResult_unreadable {s : State} {b : Nat} (closed : (blkAt s b).st = .closed) (noDusk : s.cfg.dusk = none)
    (wf : AMap.wf s.shd.blocks = true) (n : Nat) :
    Runs (.readVerifyResult b n false) s fun t => (blkAt t b).st = .retired ∧ t.shd.uncorrectable = s.shd.uncorrectable + 1
      ∧ t.shd.verifyFails = s.shd.verifyFails + 1 ∧ ctr t 0x0E0118 = satAdd (ctr s 0x0E0118) 1 := by
  obtain ⟨v, hv⟩ : ∃ v, v = updShd (fun d => { d with verifyFails := d.verifyFails + 1 }) (inc 0x0E0118 (bitsCounted n false s)) := ⟨_, rfl⟩
  have retired := retired_rewritten (s := v) (by rw [hv]; exact wf) b 3 fun _ => true
  have rewritten := rewriteUnits_issues b (fun _ => true) v
  have pumped := pumpAll_issues (retireBlock b 3 (rewriteUnits b (fun _ => true) v))
  refine ⟨_, exec_readVerifyResult_unreadable closed noDusk n, ?_⟩
  rw [← hv]
  refine ⟨(pumped.retired b retired).st, ?_, ?_, ?_⟩
  · exact pumped.uncorrectable.trans (rewritten.uncorrectable.trans (hv ▸ rfl))
  · exact pumped.verifyFails.trans (rewritten.verifyFails.trans (hv ▸ rfl))
  · unfold ctr
    rw [(pumpAll_frame _).same .ctrs rfl, (retireBlock_frame ..).same .ctrs rfl, (rewriteUnits_frame ..).same .ctrs rfl, hv]
    exact (ctr_inc ..).trans (if_pos rfl)

/-- The block of a unit whose program failed is retired and counted. -/
theorem runs_nandProgramFailure {s : State} {u : Nat} {r : OpenRow} (wf : AMap.wf s.shd.blocks = true) (row : (s.shd.rows.find? fun r => r.left.contains u) = some r) :
    Runs (.nandProgramFailure u) s fun t => (blkAt t (blockOfUnit s u)).st = .retired
      ∧ t.shd.programFails = s.shd.programFails + 1 ∧ ctr t 0x0E0110 = satAdd (ctr s 0x0E0110) 1 := by
  obtain ⟨b, hb⟩ : ∃ b, b = blockOfUnit s u := ⟨_, rfl⟩
  obtain ⟨v, hv⟩ : ∃ v, v = retireBlock b 1 (rewriteUnits b (fun v => !r.issued.contains v) (programLost r s)) := ⟨_, rfl⟩
  have retired : Retired b v := hv ▸ retired_rewritten (s := programLost r s) wf b 1 _
  have rewritten := rewriteUnits_issues b (fun v => !r.issued.contains v) (programLost r s)
  have pumped := pumpAll_issues (replaceBlock b (r.row + 1) v)
  refine ⟨_, exec_nandProgramFailure row, ?_⟩
  rw [← hb, ← hv]
  refine ⟨(pumped.retired b (replaceBlock_retired retired _)).st, ?_, ?_⟩
  · refine (pumped.programFails.trans (replaceBlock_failures ..).1).trans ?_
    rw [hv, retireBlock_programFails, rewritten.programFails, programLost_programFails]
  · unfold ctr
    rw [(pumpAll_frame _).same .ctrs rfl, (replaceBlock_frame ..).same .ctrs rfl, hv, (retireBlock_frame ..).same .ctrs rfl,
      (rewriteUnits_frame ..).same .ctrs rfl]
    exact (ctr_inc ..).trans (if_pos rfl)

/-- A block whose erase failed is retired and counted. -/
theorem runs_nandEraseFailure {s : State} {b : Nat} (wf : AMap.wf s.shd.blocks = true) (erasing : (blkAt s b).st = .erasing) :
    Runs (.nandEraseFailure b) s fun t => (blkAt t b).st = .retired ∧ t.shd.eraseFails = s.shd.eraseFails + 1
      ∧ ctr t 0x0E0114 = satAdd (ctr s 0x0E0114) 1 := by
  obtain ⟨failed, hf⟩ : ∃ v, v = updShd (fun d => { d with eraseFails := d.eraseFails + 1 }) (inc 0x0E0114 s) := ⟨_, rfl⟩
  have fails : failed.shd.eraseFails = s.shd.eraseFails + 1 := by rw [hf]; rfl
  have counted : ctr failed 0x0E0114 = satAdd (ctr s 0x0E0114) 1 := by rw [hf]; exact (ctr_inc ..).trans (if_pos rfl)
  have retired : Retired b (retireBlock b 2 failed) := retireBlock_retired (by rw [hf]; exact wf) b 2
  refine ⟨_, exec_nandEraseFailure erasing, ?_⟩
  rw [← hf]
  obtain ⟨v, hv⟩ : ∃ v, v = retireBlock b 2 failed := ⟨_, rfl⟩
  have fails : v.shd.eraseFails = s.shd.eraseFails + 1 := by rw [hv]; exact fails
  have counted : ctr v 0x0E0114 = satAdd (ctr s 0x0E0114) 1 := by rw [hv]; exact counted
  rw [← hv] at retired ⊢
  dsimp only
  split
  · refine ⟨(replaceBlock_retired retired 0).st, (replaceBlock_failures b 0 v).2.trans fails, ?_⟩
    exact (congrArg (AMap.getD · 0x0E0114 0) ((replaceBlock_frame b 0 v).same .ctrs rfl)).trans counted
  · have taken := takeBlock_opens (blkAt s b).stream (dieOfBlock s b) v
    refine ⟨(taken.retired b retired).st, taken.toIssues.eraseFails.trans fails, ?_⟩
    exact (congrArg (AMap.getD · 0x0E0114 0) ((takeBlock_frame ..).same .ctrs rfl)).trans counted

/-- Settles O45: each command has one equation per branch; a retired block stays so while units are issued (`Issues.retired`), and
`blkAt_settleBlocks` says which blocks become RELEASING. -/
theorem theShedKeepsItsBlocks : Obligations.TheShedKeepsItsBlocks := by
  unfold Obligations.TheShedKeepsItsBlocks
  intro s
  refine ⟨fun noDusk ready c mem time => ⟨fun idle => ?begins, fun active => ?follows⟩, fun k active snap last => ?durable,
    fun d ready noDusk fitted idle low => ?gcStart, fun d active high => ?gcStop,
    fun u l x victim st fresh noDusk empty mapped unit => ?copied, fun b st erasing stream => ?erased,
    fun b n closed noDusk => ⟨fun within => ?within, fun wf => ?unreadable⟩, fun wf => ⟨fun u r row => ?program, fun b erasing => ?erase⟩,
    fun u l x mapped unit => ⟨runs_shedUnitLost mapped unit, fun lo hi wf => ?landing, fun lo hi => ?weak,
      fun w i n spill alone ring lost => ?records⟩⟩
  case begins => exact ⟨_, exec_checkpoint mem time, startCheckpoint_begins noDusk ready idle⟩
  case follows => exact ⟨_, exec_checkpoint mem time, congrArg State.shd (startCheckpoint_follows noDusk ready active)⟩
  case durable =>
    refine ⟨_, exec_checkpointDurable active snap last, rfl, rfl, rfl, ?_, fun b => blkAt_ckptMade⟩
    exact (ctr_addCtr ..).trans ((if_neg (by decide)).trans ((ctr_inc ..).trans (if_pos rfl)))
  case gcStart =>
    refine ⟨_, exec_gcStart ready noDusk fitted idle low, ?_, fun b victim => chooseVictim_victim victim⟩
    rw [chooseVictim_gc]
    exact congrArg Option.isSome (AMap.get?_set_self ..)
  case gcStop => exact ⟨_, if_pos ⟨active, high⟩, rfl⟩
  case copied =>
    have queue : (queueUnit ⟨2, l, [], x.data, .gc l u⟩ s).shd.queue = [⟨2, l, [], x.data, .gc l u⟩] :=
      congrArg (· ++ [(⟨2, l, [], x.data, .gc l u⟩ : QUnit)]) empty
    refine ⟨_, exec_unitReadDone victim st fresh noDusk mapped unit, ?_⟩
    rw [pumpAll_single queue]
    exact copying_pumpUnit rfl (queue ▸ List.mem_singleton_self _)
  case erased => exact ⟨_, rfl, blockErased_erases erasing stream⟩
  case within =>
    obtain ⟨v, hv⟩ : ∃ v, v = setBlk b { blkAt s b with st := .verified } (bitsCounted n true s) := ⟨_, rfl⟩
    have verified : blkAt v b = { blkAt s b with st := .verified } := hv ▸ blkAt_setBlk_self ..
    refine ⟨_, exec_readVerifyResult_within closed noDusk within, ?_⟩
    rw [← hv]
    refine ⟨(blkAt_settleBlocks v b).imp (fun e => by rw [e, verified]) fun e => by rw [e], (settleBlocks_remaps v).correctedBits.trans ?_⟩
    rw [hv]
    rfl
  case unreadable => exact runs_readVerifyResult_unreadable closed noDusk wf n
  case program => exact runs_nandProgramFailure wf row
  case erase => exact runs_nandEraseFailure wf erasing
  case landing =>
    have remaps := unitUnmapped_remaps l (landingLost u (l - 0x4000000) (lossCounted s))
    obtain ⟨map, lossLog, -, lost⟩ := landingLost_shd u (l - 0x4000000) (lossCounted s)
    refine ⟨_, exec_shedUnitLost mapped unit, ?_⟩
    rw [if_neg (by omega), if_pos hi]
    exact ⟨mapOf_unitUnmapped (map ▸ wf) l, remaps.lostLanding ▸ lost, remaps.lossLog.trans lossLog⟩
  case weak =>
    refine ⟨_, exec_shedUnitLost mapped unit, ?_⟩
    rw [if_neg (by omega), if_neg (by omega), if_pos hi]
    dsimp only
    rw [unitUnmapped_rch, weakLeft_weakJournaled]
    rfl
  case records =>
    refine ⟨_, exec_shedUnitLost mapped unit, ownLoss (lossCounted s) w.part 3 w.tapeDs n (w.first + i), ?_, rfl, rfl, rfl, rfl⟩
    rw [if_pos spill]
    exact spillLost_logs (s := lossCounted s) alone ring lost u l

end Sys2Proof.Machine
end


/-! Spill rings, rows and journal units (R309, R315, R316, R326, R338): what packet copies, padding and durable units do to them. -/

section

namespace Sys2Proof.Machine

theorem Issues.spills {s t : State} (h : Issues s t) : t.shd.spills = s.shd.spills := (congrArg Shd.spills h.shd :)

theorem Issues.journals {s t : State} (h : Issues s t) : t.shd.journals = s.shd.journals := (congrArg Shd.journals h.shd :)

theorem Issues.jlog {s t : State} (h : Issues s t) : t.shd.jlog = s.shd.jlog := (congrArg Shd.jlog h.shd :)

theorem Issues.lossLog {s t : State} (h : Issues s t) : t.shd.lossLog = s.shd.lossLog := (congrArg Shd.lossLog h.shd :)

/-! ## Spill rings (R315) -/

theorem spillAt_of_spills {s t : State} (h : t.shd.spills = s.shd.spills) (r : Nat) : spillAt t r = spillAt s r :=
  congrArg (fun m : AMap Spill => AMap.getD m r {}) h

theorem spillAt_setSpill_self (r : Nat) (x : Spill) (s : State) : spillAt (setSpill r x s) r = x := AMap.getD_set_self ..

theorem spillAt_setSpill_other {r k : Nat} (x : Spill) (s : State) (other : r ≠ k) : spillAt (setSpill k x s) r = spillAt s r :=
  AMap.getD_set_of_ne _ _ _ other.symm

/-- A ring holds its bytes in order from its last issued unit on, and its head is at or past an offset. -/
structure Reaches (r n : Nat) (s : State) : Prop where
  short : (spillAt s r).buf.length < 65536
  head : (spillAt s r).head = (spillAt s r).issued + (spillAt s r).buf.length
  reached : n ≤ (spillAt s r).head

theorem Reaches.of_spills {r n : Nat} {s t : State} (h : Reaches r n s) (same : t.shd.spills = s.shd.spills) : Reaches r n t := by
  have e := spillAt_of_spills same r
  exact ⟨e ▸ h.short, e ▸ h.head, e ▸ h.reached⟩

theorem Reaches.of_spillAt {r n : Nat} {s : State} {x : Spill} (e : spillAt s r = x) (short : x.buf.length < 65536)
    (head : x.head = x.issued + x.buf.length) (reached : n ≤ x.head) : Reaches r n s := by
  subst e
  exact ⟨short, head, reached⟩

/-- The whole of a packet is appended. -/
theorem spillAppend_reaches (r : Nat) : ∀ (f : Nat) (bs : Bytes) (s : State), (spillAt s r).buf.length + bs.length < f * 65536 →
    Reaches r (spillAt s r).head s → Reaches r ((spillAt s r).head + bs.length) (spillAppend f r bs s)
  | 0, bs, s, room, _ => by omega
  | f + 1, bs, s, room, h => by
    obtain ⟨short, head, -⟩ := h
    unfold spillAppend
    dsimp only
    split
    · refine .of_spillAt (spillAt_setSpill_self ..) ?_ ?_ (Nat.le_refl _)
      · rw [List.length_append]
        omega
      · simp only [List.length_append]
        omega
    · next full =>
      obtain ⟨n, hn⟩ : ∃ n, n = 65536 - (spillAt s r).buf.length := ⟨_, rfl⟩
      rw [← hn] at full ⊢
      generalize hv : queueUnit _ (setSpill r _ s) = v
      have at_ : spillAt v r = { spillAt s r with buf := [], head := (spillAt s r).head + n, issued := (spillAt s r).issued + 65536 } := by
        rw [← hv]
        exact spillAt_setSpill_self ..
      have rest : (bs.drop n).length = bs.length - n := List.length_drop
      have more := spillAppend_reaches r f (bs.drop n) v (by rw [at_, rest]; simp only [List.length_nil]; omega)
        (.of_spillAt at_ (by simp only [List.length_nil]; omega) (by simp only [List.length_nil]; omega) (by rw [at_]))
      have total : (spillAt v r).head + (bs.drop n).length = (spillAt s r).head + bs.length := by
        rw [at_, rest]
        simp only
        omega
      rw [total] at more
      exact more

/-- A ring after its unit that is not full is issued as it is. -/
def forced (x : Spill) : Spill := if x.buf = [] then x else { x with buf := [], head := x.issued + 65536, issued := x.issued + 65536 }

theorem spillAt_forceUnit_self (r : Nat) (s : State) : spillAt (forceUnit r s) r = forced (spillAt s r) := by
  unfold forceUnit forced
  dsimp only
  split
  · rfl
  · exact spillAt_setSpill_self ..

theorem spillAt_forceUnit_other {r k : Nat} (s : State) (other : r ≠ k) : spillAt (forceUnit k s) r = spillAt s r := by
  unfold forceUnit
  dsimp only
  split
  · rfl
  · exact spillAt_setSpill_other _ s other

theorem forceUnit_nothing {r : Nat} {s : State} (empty : (spillAt s r).buf = []) : forceUnit r s = s := if_pos empty

theorem forceUnit_full (r k : Nat) (s : State) : (spillAt (forceUnit k s) r).full = (spillAt s r).full := by
  by_cases here : r = k
  · subst here
    rw [spillAt_forceUnit_self]
    unfold forced
    split <;> rfl
  · rw [spillAt_forceUnit_other s here]

theorem forceUnit_reaches {r n : Nat} (k : Nat) {s : State} (h : Reaches r n s) : Reaches r n (forceUnit k s) := by
  obtain ⟨short, head, reached⟩ := h
  by_cases here : r = k
  · subst here
    have e := spillAt_forceUnit_self r s
    unfold forced at e
    split at e
    · exact .of_spillAt e short head reached
    · exact .of_spillAt e (by simp only [List.length_nil]; omega) rfl (by simp only; omega)
  · exact .of_spillAt (spillAt_forceUnit_other s here) short head reached

/-- Every ring's unit that is not full is issued. -/
def forceUnits (s : State) : State := (List.range 8).foldl (fun s r => forceUnit r s) s

theorem forceUnits_full (r : Nat) (s : State) : (spillAt (forceUnits s) r).full = (spillAt s r).full :=
  List.foldlRecOn (motive := fun v => (spillAt v r).full = (spillAt s r).full) _ _ rfl fun v kept k _ => (forceUnit_full r k v).trans kept

theorem forceUnits_reaches {r n : Nat} {s : State} (h : Reaches r n s) : Reaches r n (forceUnits s) :=
  List.foldlRecOn (motive := fun v => Reaches r n v) _ _ h fun _ kept k _ => forceUnit_reaches k kept

theorem forceUnits_nothing {s : State} (empty : ∀ r, (spillAt s r).buf = []) : forceUnits s = s :=
  List.foldlRecOn (motive := fun v => v = s) _ _ rfl fun v kept k _ => by rw [kept, forceUnit_nothing (empty k)]

theorem padStream_spills (s : State) : (padStream 0 s).shd.spills = (forceUnits s).shd.spills := by
  have padded : ∀ (gs : List Nat) v, Issues v (gs.foldl (fun s g => padRow 0 g s) v) := fun gs v =>
    List.foldlRecOn (motive := Issues v) _ _ (.refl v) fun u kept g _ => kept.trans (padRow_issues 0 g u)
  unfold padStream forceUnits
  dsimp only
  rw [if_pos rfl]
  refine Eq.trans (padded (List.range (dieGroups s)) _).spills ?_
  rw [(pumpAll_issues _).spills]

/-! ## Packet copies (R315) -/

/-- A write counts its next packet as copied to an offset of a ring. -/
def countsCopy (r off : Nat) (w : Write) : Write :=
  { w.updPkt w.copied (fun k => { k with spillOff := off }) with
    copied := w.copied + 1, ring := some r, spillOff := if w.copied = 0 then off else w.spillOff }

theorem countsCopy_spillOff {w : Write} {k : Pkt} (pkt : w.pkts[w.copied]? = some k) (r off : Nat) :
    ((countsCopy r off w).pkts[w.copied]?).map Pkt.spillOff = some off := by
  show ((w.pkts.modify w.copied fun k => { k with spillOff := off })[w.copied]?).map Pkt.spillOff = _
  rw [List.getElem?_modify_eq, pkt]
  rfl

/-- A packet is copied at its ring's head, and its write counts it. -/
def packetCopied (w : Write) (r : Nat) (k : Pkt) (s : State) : State :=
  updShd (fun d => { d with copied := d.copied ++ [⟨r, w.seq, w.copied, (spillAt s r).head, k.stored.length⟩] })
    (updWrite w.seq (countsCopy r (spillAt s r).head)
      (spillAppend 16 r k.stored (setSpill r { spillAt s r with full := false } s)))

section

variable {s : State} {p r : Nat} {w : Write} {k : Pkt} (next : copyNext s p = some w) (ring : partRing s p = some r)
  (pkt : w.pkts[w.copied]? = some k) (stored : k.st = .stored)

include next ring pkt stored

theorem copyPacket_blocked (blocked : spillBlocked s r k.stored.length = true) :
    copyPacket p s = some (setSpill r { spillAt s r with full := true } s) := by
  unfold copyPacket
  rw [next, ring]
  dsimp only
  rw [pkt]
  dsimp only
  rw [if_neg (not_not_intro stored), if_pos blocked]

theorem copyPacket_copied (free : spillBlocked s r k.stored.length = false) : copyPacket p s = some (packetCopied w r k s) := by
  unfold copyPacket
  rw [next, ring]
  dsimp only
  rw [pkt]
  dsimp only
  rw [if_neg (not_not_intro stored), if_neg (ne_true_of_eq_false free)]
  rfl

end

/-- After a copy the units that wait are issued, and rows are padded when a SYNC or Dusk waits on no further copy. -/
theorem exec_shedPacketCopy {p : Nat} {s u : State} (ready : s.shd.ready = true) (copy : copyPacket p s = some u) :
    ∃ t, exec (.shedPacketCopy p) s = .next t ∧ (t = pumpAll u ∨ t = padStream 0 (pumpAll u)) := by
  show ∃ t, execShedPacketCopy p s = .next t ∧ _
  unfold execShedPacketCopy
  rw [if_neg (ne_false_of_eq_true ready), copy]
  refine ⟨_, rfl, ?_⟩
  split
  · exact .inr rfl
  · exact .inl rfl

theorem hq_of_copied {u t : State} (h : t = pumpAll u ∨ t = padStream 0 (pumpAll u)) : t.hq = u.hq := by
  have pumped := (pumpAll_frame u).same .hq rfl
  obtain rfl | rfl := h
  · exact pumped
  · exact ((padStream_frame ..).same .hq rfl).trans pumped

theorem full_of_copied {u t : State} (h : t = pumpAll u ∨ t = padStream 0 (pumpAll u)) (r : Nat) : (spillAt t r).full = (spillAt u r).full := by
  have pumped := congrArg Spill.full (spillAt_of_spills (pumpAll_issues u).spills r)
  obtain rfl | rfl := h
  · exact pumped
  · rw [spillAt_of_spills (padStream_spills _) r, forceUnits_full]
    exact pumped

theorem reaches_of_copied {u t : State} (h : t = pumpAll u ∨ t = padStream 0 (pumpAll u)) {r n : Nat} (far : Reaches r n u) : Reaches r n t := by
  have pumped := far.of_spills (pumpAll_issues u).spills
  obtain rfl | rfl := h
  · exact pumped
  · exact (forceUnits_reaches pumped).of_spills (padStream_spills _)

theorem findWrite_packetCopied {s : State} {w : Write} (found : findWrite s w.seq = some w) (r : Nat) (k : Pkt) :
    findWrite (packetCopied w r k s) w.seq = some (countsCopy r (spillAt s r).head w) := by
  refine (findWrite_updWrite w.seq (countsCopy r (spillAt s r).head) (fun _ => rfl) _).trans ?_
  rw [findWrite_of_hq ((spillAppend_frame ..).same .hq rfl), findWrite_of_hq ((setSpill_frame ..).same .hq rfl), found]
  rfl

theorem packetCopied_reaches {s : State} {r : Nat} {k : Pkt} (w : Write) (size : k.stored.length ≤ 2 ^ 19) (short : (spillAt s r).buf.length < 65536)
    (head : (spillAt s r).head = (spillAt s r).issued + (spillAt s r).buf.length) :
    Reaches r ((spillAt s r).head + k.stored.length) (packetCopied w r k s) := by
  obtain ⟨v, hv⟩ : ∃ v, v = setSpill r { spillAt s r with full := false } s := ⟨_, rfl⟩
  have e : spillAt v r = { spillAt s r with full := false } := by rw [hv]; exact spillAt_setSpill_self ..
  have appended := spillAppend_reaches r 16 k.stored v (by rw [e]; simp only; omega) (.of_spillAt e short head (by rw [e]))
  have at_ : (spillAt v r).head = (spillAt s r).head := by rw [e]
  rw [at_] at appended
  unfold packetCopied
  rw [← hv]
  exact appended.of_spills rfl

end Sys2Proof.Machine
end


/-! Rows and journal units (R309, R316, R326): padding and parity, units programmed, records made durable. -/

section

namespace Sys2Proof.Machine

/-! ## Rows (R309) -/

theorem length_dataDies (row : Nat) : (dataDies row).length = 15 := by
  have small : ∀ k < 16, ((List.range 16).filter fun i => i != k).length = 15 := by decide
  exact small _ (Nat.mod_lt _ (by decide))

theorem rowFilling_single {s : State} {r : OpenRow} {stream group : Nat} (rows : s.shd.rows = [r]) (st : r.stream = stream) (g : r.group = group)
    (open_ : r.complete = false) : rowFilling s stream group = some r := by
  subst st g
  unfold rowFilling
  rw [rows]
  simp [open_]

/-- The row of a key is the first that an update finds. -/
theorem updRow_single {s : State} {x r : OpenRow} (rows : s.shd.rows = [x]) (st : x.stream = r.stream) (g : x.group = r.group) (row : x.row = r.row)
    (stripe : x.stripeSeq = r.stripeSeq) (f : OpenRow → OpenRow) : (updRow r f s).shd.rows = [f x] := by
  show modFirst _ f s.shd.rows = _
  rw [rows]
  unfold modFirst
  simp [st, g, row, stripe]

/-- A row with more units issued. -/
def OpenRow.issuing (r : OpenRow) (us : List Nat) : OpenRow := { r with issued := r.issued ++ us, left := r.left ++ us }

theorem OpenRow.issuing_issuing (r : OpenRow) (us vs : List Nat) : (r.issuing us).issuing vs = r.issuing (us ++ vs) := by
  simp [OpenRow.issuing]

theorem issueOn_rows {s : State} {r : OpenRow} {us : List Nat} (rows : s.shd.rows = [r.issuing us]) (i role logical : Nat) (region data : Bytes)
    (owed : Owed) : ∃ u, (issueOn r i role logical region data owed s).shd.rows = [r.issuing (us ++ [u])] := by
  refine ⟨r.blocks.getD i 0 * ppb s + r.row, ?_⟩
  rw [← OpenRow.issuing_issuing]
  exact updRow_single (by exact rows) rfl rfl rfl rfl _

theorem each_issueOn_rows (r : OpenRow) (role logical : Nat) (region data : Bytes) (owed : Owed) : ∀ (dies us : List Nat) (s : State),
    s.shd.rows = [r.issuing us] → ∃ vs, vs.length = us.length + dies.length
      ∧ (each (fun i s => issueOn r i role logical region data owed s) dies s).shd.rows = [r.issuing vs]
  | [], us, s, rows => ⟨us, rfl, rows⟩
  | i :: dies, us, s, rows => by
    obtain ⟨u, issued⟩ := issueOn_rows rows i role logical region data owed
    obtain ⟨vs, length, rest⟩ := each_issueOn_rows r role logical region data owed dies (us ++ [u]) _ issued
    refine ⟨vs, ?_, rest⟩
    simp only [List.length_append, List.length_cons, List.length_nil] at length ⊢
    omega

/-- A row is closed by its parity unit. -/
theorem closeRow_rows {s : State} {r : OpenRow} (rows : s.shd.rows = [r]) (open_ : r.complete = false) :
    ∃ u, (closeRow r.stream r.group s).shd.rows = [{ r.issuing [u] with complete := true }] := by
  have filling := rowFilling_single rows rfl rfl open_
  have rows' : s.shd.rows = [r.issuing []] := by simp [OpenRow.issuing, rows]
  obtain ⟨u, issued⟩ := issueOn_rows rows' (r.row % 16) 1 0x7FFFFFF [] (parityOf s r) .none
  refine ⟨u, ?_⟩
  unfold closeRow
  rw [filling]
  dsimp only
  generalize issueOn r (r.row % 16) 1 0x7FFFFFF [] (parityOf s r) .none s = v at issued
  exact updRow_single issued rfl rfl rfl rfl _

/-- A row that holds at most 15 data units is completed with padding and its parity, and counted. -/
theorem padRow_completes {s : State} {stream group : Nat} {r : OpenRow} (filling : rowFilling s stream group = some r) (rows : s.shd.rows = [r])
    (few : r.issued.length ≤ 15) : ctr (padRow stream group s) 0x0E0124 = satAdd (ctr s 0x0E0124) 1
      ∧ ∃ x, (padRow stream group s).shd.rows = [x] ∧ x.complete = true ∧ x.issued.length = 16 ∧ x.issued.take r.issued.length = r.issued := by
  have found := List.find?_some filling
  simp only [Bool.and_eq_true, beq_iff_eq, Bool.not_eq_true'] at found
  obtain ⟨⟨rfl, rfl⟩, open_⟩ := found
  have rows' : s.shd.rows = [r.issuing []] := by simp [OpenRow.issuing, rows]
  obtain ⟨us, length, padded⟩ := each_issueOn_rows r 2 0x7FFFFFF [] (zeros 65536) .none ((dataDies r.row).drop r.issued.length) [] s rows'
  have frame := Frame.each (m := 0x800) ((dataDies r.row).drop r.issued.length) (.refl _ s)
    (fun i v => issueOn_frame r i 2 0x7FFFFFF [] (zeros 65536) .none v)
  unfold padRow
  rw [filling]
  dsimp only
  generalize each _ _ s = v at padded frame
  obtain ⟨u, closed⟩ := closeRow_rows padded open_
  have counts : (closeRow r.stream r.group v).ctrs = s.ctrs := ((closeRow_frame ..).same .ctrs rfl).trans (frame.same .ctrs rfl)
  refine ⟨?_, _, closed, rfl, ?_, ?_⟩
  · refine (ctr_inc ..).trans ((if_pos rfl).trans ?_)
    unfold ctr
    rw [counts]
  · rw [List.length_drop, length_dataDies, List.length_nil] at length
    simp only [OpenRow.issuing, List.length_append, List.length_singleton]
    omega
  · simp [OpenRow.issuing, List.append_assoc]

/-- A row held too long is padded; in the spill stream what waits is issued first. -/
theorem exec_rowHoldExpiry {s : State} {stream group : Nat} {r : OpenRow} (filling : rowFilling s stream group = some r) (holds : r.issued ≠ [])
    (nothing : stream ≠ 0 ∨ ((∀ k, (spillAt s k).buf = []) ∧ s.shd.queue = [])) : exec (.rowHoldExpiry stream group) s = .next (padRow stream group s) := by
  show execRowHoldExpiry stream group s = _
  unfold execRowHoldExpiry
  rw [filling]
  dsimp only
  rw [if_neg holds]
  obtain other | ⟨empty, queue⟩ := nothing
  · rw [if_neg other]
    rfl
  · have same := forceUnits_nothing empty
    unfold forceUnits at same
    rw [same, pumpAll_nothing queue, ite_self]
    rfl

/-! ## Programmed units (R316) -/

/-- A unit leaves its row's units to program, and is counted. -/
def unitCounted (u : Nat) (r : OpenRow) (x : NUnit) (s : State) : State :=
  updShd (fun d => { d with
      nandUnits := d.nandUnits + 1, nandUp := d.nandUp + 1, sinceCkpt := d.sinceCkpt + 1
      hostUnits := d.hostUnits + b2n (x.role == 0 && (x.stream == 0 || (x.stream == 1 && decide (0x4000000 ≤ x.logical ∧ x.logical < 0x6000000))))
      hostUp := d.hostUp + b2n (x.role == 0 && (x.stream == 0 || (x.stream == 1 && decide (0x4000000 ≤ x.logical ∧ x.logical < 0x6000000)))) })
    (updRow r (fun r => { r with left := r.left.erase u }) s)

/-- A programmed data unit is mapped, but for a copy of collection. -/
def unitMapped (u : Nat) (x : NUnit) (s : State) : State :=
  if x.role = 0 ∧ x.stream ≠ 2 then mapUnit x.logical u (some x.pageSeq) s else s

/-- The block of a programmed last unit is closed; `b` is that block. -/
def blockEnded (u b : Nat) (s0 s : State) : State := if u % ppb s0 + 1 = ppb s0 then setBlk b { blkAt s b with st := .closed } s else s

/-- The row of a unit is protected when none of its units is left to program. -/
def rowEnded (u : Nat) (s : State) : State :=
  match s.shd.rows.find? fun y => y.issued.contains u with
  | some y => if y.complete ∧ y.left = [] then protectRow y s else s
  | none => s

theorem exec_unitProgramDone {s : State} {u : Nat} {r : OpenRow} {x : NUnit} (row : (s.shd.rows.find? fun r => r.left.contains u) = some r)
    (unit : AMap.get? s.shd.units u = some x) : exec (.unitProgramDone u) s = .next
      (settleBlocks (rowEnded u (blockEnded u (blockOfUnit s u) s (unitMapped u x (unitCounted u r x s))))) := by
  show Host.Outcome.next (unitProgrammed u s) = _
  unfold unitProgrammed
  rw [row, unit]
  rfl

theorem unitMapped_remaps (u : Nat) (x : NUnit) (s : State) : Remaps s (unitMapped u x s) := by
  unfold unitMapped
  split
  · exact mapUnit_remaps ..
  · exact .refl s

theorem blockEnded_remaps (u b : Nat) (s0 s : State) : Remaps s (blockEnded u b s0 s) := by
  unfold blockEnded
  split
  · exact setBlk_remaps ..
  · exact .refl s

theorem blockEnded_map (u b : Nat) (s0 s : State) : (blockEnded u b s0 s).shd.map = s.shd.map := by
  unfold blockEnded
  split <;> rfl

/-- Protecting a row takes it from the open rows and changes only the map. -/
theorem protectRow_offMap (r : OpenRow) (s : State) :
    (protectRow r s).shd.offMap = { s.shd.offMap with rows := s.shd.rows.filter fun x => !(x == r) } := by
  have settled : ∀ (u : Nat) (v : State),
      ((match AMap.getD v.shd.owed u .none with
        | .none => updShd (fun d => { d with owed := AMap.erase d.owed u }) v
        | .landing seq => landingDone seq (updShd (fun d => { d with owed := AMap.erase d.owed u }) v)
        | .gc logical src => gcMove logical src u (updShd (fun d => { d with owed := AMap.erase d.owed u }) v)) : State).shd.offMap = v.shd.offMap := by
    intro u v
    split
    · rfl
    · rw [(landingDone_frame ..).same .shd rfl]
      rfl
    · exact (gcMove_remaps ..).shd
  unfold protectRow
  dsimp only
  refine (each_keeps (fun v : State => v.shd.offMap) (fun w v => ?_) _ _).trans ?_
  · split
    · rfl
    · rfl
  · refine (List.foldlRecOn (motive := fun v : State => v.shd.offMap = _) _ _ rfl fun v kept k _ => (journalShelters_remaps ..).shd.trans kept).trans ?_
    exact each_keeps (fun v : State => v.shd.offMap) settled _ _

section

variable {d e : Shd} {rows : List OpenRow} (same : d.offMap = { e.offMap with rows := rows })

include same

theorem nandUnits_of_offMap : d.nandUnits = e.nandUnits := (congrArg Shd.nandUnits same :)

theorem rows_of_offMap : d.rows = rows := (congrArg Shd.rows same :)

end

theorem rowEnded_nandUnits (u : Nat) (s : State) : (rowEnded u s).shd.nandUnits = s.shd.nandUnits := by
  unfold rowEnded
  split
  · split
    · next y _ _ => exact nandUnits_of_offMap (protectRow_offMap y s)
    · rfl
  · rfl

/-- A row with units left to program stays open. -/
theorem rowEnded_left {u : Nat} {s : State} {r : OpenRow} (rows : s.shd.rows = [r]) (left : r.left ≠ []) : rowEnded u s = s := by
  unfold rowEnded
  rw [rows]
  split
  · next y found =>
    have here := List.mem_singleton.mp (List.mem_of_find?_eq_some found)
    rw [if_neg]
    rintro ⟨-, none⟩
    exact left (here ▸ none)
  · rfl

/-- A complete row whose units are all programmed leaves the open rows. -/
theorem rowEnded_rows {u : Nat} {s : State} {r : OpenRow} (rows : s.shd.rows = [r]) (left : r.left = []) (complete : r.complete = true)
    (issued : r.issued.contains u = true) : (rowEnded u s).shd.rows = [] := by
  have found : (s.shd.rows.find? fun y => y.issued.contains u) = some r := by
    rw [rows]
    exact List.find?_cons_of_pos issued
  unfold rowEnded
  rw [found]
  dsimp only
  rw [if_pos ⟨complete, left⟩]
  refine (rows_of_offMap (protectRow_offMap r s)).trans ?_
  rw [rows]
  simp

theorem mapOf_unitMapped {u : Nat} {x : NUnit} (data : x.role = 0) (fresh : x.stream ≠ 2) (s : State) :
    mapOf (unitMapped u x s) x.logical = some u := by
  unfold unitMapped
  rw [if_pos ⟨data, fresh⟩]
  exact AMap.get?_set_self ..

theorem runs_unitProgramDone {s : State} {u : Nat} {r : OpenRow} {x : NUnit} (row : (s.shd.rows.find? fun r => r.left.contains u) = some r)
    (unit : AMap.get? s.shd.units u = some x) : Runs (.unitProgramDone u) s fun t => t.shd.nandUnits = s.shd.nandUnits + 1
      ∧ (x.role = 0 → x.stream ≠ 2 → s.shd.rows = [r] → r.left ≠ [u] → mapOf t x.logical = some u)
      ∧ (r.complete = true → r.left = [u] → r.issued.contains u = true → s.shd.rows = [r] → t.shd.rows = []) := by
  obtain ⟨v, hv⟩ : ∃ v, v = unitCounted u r x s := ⟨_, rfl⟩
  have counted : v.shd.nandUnits = s.shd.nandUnits + 1 := by rw [hv]; rfl
  have rows : s.shd.rows = [r] → v.shd.rows = [{ r with left := r.left.erase u }] := fun rows => by
    rw [hv]
    exact updRow_single rows rfl rfl rfl rfl _
  have waits : u ∈ r.left := List.elem_iff.mp (List.find?_some (p := fun r : OpenRow => r.left.contains u) row)
  refine ⟨_, exec_unitProgramDone row unit, ?_⟩
  rw [← hv]
  have mapped := mapOf_unitMapped (u := u) (x := x) (s := v)
  have remaps := (unitMapped_remaps u x v).trans (blockEnded_remaps u (blockOfUnit s u) s (unitMapped u x v))
  have map := blockEnded_map u (blockOfUnit s u) s (unitMapped u x v)
  generalize blockEnded u (blockOfUnit s u) s (unitMapped u x v) = t at remaps map
  refine ⟨?_, fun data fresh single more => ?_, fun complete last issued single => ?_⟩
  · exact (((settleBlocks_remaps _).nandUnits.trans (rowEnded_nandUnits u t)).trans remaps.nandUnits).trans counted
  · rw [rowEnded_left (remaps.rows.trans (rows single)) (fun none => ?_)]
    · refine Eq.trans ?_ (mapped data fresh)
      exact congrArg (AMap.get? · x.logical) ((settleBlocks_map t).1.trans map)
    · obtain none | one := List.erase_eq_nil_iff.mp none
      · exact List.not_mem_nil (none ▸ waits)
      · exact more one
  · refine (settleBlocks_remaps _).rows.trans (rowEnded_rows (remaps.rows.trans (rows single)) ?_ complete issued)
    simp [last]

/-! ## Journal units (R316, R326) -/

theorem exec_journalDue {c : Instr} {s : State} (mem : c ∈ [Instr.journalRecordsPending, .journalFlushExpiry]) (some_ : s.shd.pendingRecs ≠ [])
    (due : c = .journalFlushExpiry ∨ 2044 ≤ s.shd.pendingRecs.length) : exec c s = .next (programJournal s) := by
  obtain rfl | mem := List.mem_cons.mp mem
  · exact if_pos (due.resolve_left (by decide))
  · obtain rfl := List.mem_singleton.mp mem
    exact if_neg some_

/-- The oldest journal unit leaves the units in flight. -/
def journalLeft (j : Nat × List JRec) (js : List (Nat × List JRec)) (s : State) : State :=
  updShd (fun d => { d with journals := js, jlog := d.jlog ++ [j] }) s

theorem journalDurable_eq {s : State} {j : Nat × List JRec} {js : List (Nat × List JRec)} (oldest : s.shd.journals = j :: js) :
    journalDurable s = pumpAll (each recDurable j.2 (journalLeft j js s)) := by
  unfold journalDurable
  rw [oldest]
  rfl

theorem recDurable_logs (r : JRec) (s : State) : (recDurable r s).shd.journals = s.shd.journals ∧ (recDurable r s).shd.jlog = s.shd.jlog
    ∧ (recDurable r s).shd.lossLog = s.shd.lossLog := by
  unfold recDurable
  split
  · rw [(refreshMarks_frame ..).same .shd rfl]
    exact ⟨rfl, rfl, rfl⟩
  · split <;> exact ⟨rfl, rfl, rfl⟩
  · exact ⟨rfl, rfl, rfl⟩
  · exact ⟨rfl, rfl, rfl⟩

theorem journalDurable_logs {s : State} {j : Nat × List JRec} {js : List (Nat × List JRec)} (oldest : s.shd.journals = j :: js) :
    (journalDurable s).shd.journals = js ∧ (journalDurable s).shd.jlog = s.shd.jlog ++ [j] ∧ (journalDurable s).shd.lossLog = s.shd.lossLog := by
  rw [journalDurable_eq oldest]
  have pumped := pumpAll_issues (each recDurable j.2 (journalLeft j js s))
  refine ⟨pumped.journals.trans ?_, pumped.jlog.trans ?_, pumped.lossLog.trans ?_⟩
  · exact each_keeps (fun v : State => v.shd.journals) (fun r v => (recDurable_logs r v).1) ..
  · exact each_keeps (fun v : State => v.shd.jlog) (fun r v => (recDurable_logs r v).2.1) ..
  · exact each_keeps (fun v : State => v.shd.lossLog) (fun r v => (recDurable_logs r v).2.2) ..

/-- A SHELTER record advances its write. -/
theorem findWrite_shelterDurable {s : State} {v : Nat} {w : Write} (found : findWrite s v = some w) (k p f n o l e : Nat) (b : Bool) :
    findWrite (recDurable (.shelter k p f n v o l e b) s) v = some { w with sheltered := max w.sheltered (f + n) } := by
  unfold recDurable
  dsimp only
  rw [findWrite_of_hq ((refreshMarks_frame ..).same .hq rfl)]
  refine (findWrite_updWrite v (fun w => { w with sheltered := max w.sheltered (f + n) }) (fun _ => rfl) _).trans ?_
  exact congrArg (Option.map _) found

end Sys2Proof.Machine
end


/-! Spill and return (R316 to R319): buffer copies freed, packets returned in chains of Stalls, writes released. -/

section

namespace Sys2Proof.Machine

/-- An ERASED record opens its block. -/
theorem journalDurable_opens {s : State} {j : Nat × List JRec} {js : List (Nat × List JRec)} {b n st : Nat} (oldest : s.shd.journals = j :: js)
    (recs : j.2 = [.erased b n st]) (erasing : (blkAt s b).st = .erasing) (empty : s.shd.queue = []) : (blkAt (journalDurable s) b).st = .opened := by
  have opens : recDurable (.erased b n st) (journalLeft j js s) = setBlk b { blkAt s b with st := .opened } (journalLeft j js s) := if_pos erasing
  rw [journalDurable_eq oldest, recs]
  show (blkAt (pumpAll (recDurable (.erased b n st) (journalLeft j js s))) b).st = _
  rw [opens, pumpAll_nothing (by exact empty), blkAt_setBlk_self]

/-- A journal unit of one SHELTER record advances its write. -/
theorem journalDurable_shelters {s : State} {j : Nat × List JRec} {js : List (Nat × List JRec)} {k p f n v o l e : Nat} {b : Bool} {w : Write}
    (oldest : s.shd.journals = j :: js) (recs : j.2 = [.shelter k p f n v o l e b]) (found : findWrite s v = some w) :
    findWrite (journalDurable s) v = some { w with sheltered := max w.sheltered (f + n) } := by
  rw [journalDurable_eq oldest, recs, findWrite_of_hq ((pumpAll_frame _).same .hq rfl)]
  exact findWrite_shelterDurable (s := journalLeft j js s) found ..

/-! ## Buffer copies freed (R317) -/

theorem freeChainHead_keeps : ∀ (f : Nat) (w : Write) (s : State), (freeChainHead f w s).1.freed = w.freed ∧ (freeChainHead f w s).1.seq = w.seq
  | 0, _, _ => ⟨rfl, rfl⟩
  | f + 1, w, s => by
    unfold freeChainHead
    split
    · exact ⟨rfl, rfl⟩
    · split
      · exact freeChainHead_keeps f ..
      · exact ⟨rfl, rfl⟩

/-- The buffer copies of the one write in the Buffer Record Index are freed below k. -/
theorem freePackets_single {s : State} {w : Write} (alone : s.hq.writes = [w]) (k : Nat) :
    ∃ w', (freePackets w.seq k s).hq.writes = [w'] ∧ w'.seq = w.seq ∧ w'.freed = max w.freed k := by
  have found : findWrite s w.seq = some w := by
    unfold findWrite
    rw [alone]
    exact List.find?_cons_of_pos (beq_self_eq_true _)
  unfold freePackets
  rw [found]
  dsimp only
  split
  · next below => exact ⟨w, alone, rfl, (max_eq_left below).symm⟩
  · next above =>
    have kept := freeChainHead_keeps (w.chain.length + 1) { w with freed := k, headOff := w.headOff + w.placedSum w.freed k } s
    have hq := (freeChainHead_frame (w.chain.length + 1) { w with freed := k, headOff := w.headOff + w.placedSum w.freed k } s).same .hq rfl
    generalize freeChainHead _ _ s = r at kept hq
    refine ⟨r.1, ?_, kept.2, kept.1.trans (max_eq_right (Nat.le_of_not_le above)).symm⟩
    rw [updWrite_hq, hq, alone]
    exact if_pos (beq_self_eq_true _)

/-- Copies are freed packet by packet until enough is free, and no further than asked. -/
theorem freeUpTo_single {s : State} {w : Write} (alone : s.hq.writes = [w]) (target : Nat) : ∀ k, ∃ w',
    (freeNewest.freeUpTo target k w.seq s).hq.writes = [w'] ∧ w'.seq = w.seq ∧ w'.freed ≤ max w.freed k
      ∧ (target ≤ freeCount (stableAt (freeNewest.freeUpTo target k w.seq s) 1) ∨ k ≤ w'.freed)
  | 0 => ⟨w, alone, rfl, le_max_left .., .inr (Nat.zero_le _)⟩
  | k + 1 => by
    obtain ⟨v, one, seq, most, done⟩ := freeUpTo_single alone target k
    unfold freeNewest.freeUpTo
    dsimp only
    split
    · next enough => exact ⟨v, one, seq, by omega, .inl enough⟩
    · obtain ⟨w', one', seq', freed⟩ := freePackets_single one (k + 1)
      rw [seq] at one' seq'
      exact ⟨w', one', seq', by omega, .inr (by omega)⟩

theorem exec_spillLow {s : State} {w : Write} (short : freeCount (stableAt s 1) < Cfgw.spillLow s) (alone : s.hq.writes = [w]) (taken : w.taken = true) :
    exec .spillLow s = .next (freeNewest.freeUpTo (Cfgw.spillLow s + 1024) w.sheltered w.seq s) := by
  have freed : freeNewest (Cfgw.spillLow s + 1024) [w] s = freeNewest.freeUpTo (Cfgw.spillLow s + 1024) (freeable w) w.seq s := if_neg (by omega)
  have sheltered : freeable w = w.sheltered := if_pos taken
  show execSpillLow s = _
  unfold execSpillLow
  dsimp only
  rw [if_neg (by omega), alone, List.reverse_singleton, freed, sheltered]
  rfl

/-! ## Packets returned (R318) -/

theorem boxOf_acquireFrom {c : Box} (other : c ≠ .mgt) (most req b n : Nat) : ∀ (f : Nat) (s : State),
    boxOf (acquireFrom most req b n f s).2 c = boxOf s c
  | 0, _ => rfl
  | f + 1, s => by
    unfold acquireFrom
    dsimp only
    split
    · refine (each_keeps (fun v : State => boxOf v c) (fun h v => boxOf_giveBack other req h v) _ _).trans ?_
      exact boxOf_of_boxes (by rfl) c
    · split
      · rfl
      · refine (boxOf_acquireFrom other most req b n f _).trans ?_
        exact boxOf_of_boxes (by rw [(newRequests_frame ..).same .boxes rfl]) c

/-- A batch of a write is returned: its packets are counted, and its Stalls stand in the write's chain. -/
def batchReturned (w : Write) (lo hi : Nat) (hs : List Handle) (s : State) : State :=
  updShd (fun d => { d with returned := AMap.set d.returned w.seq hi, retChains := d.retChains ++ [⟨w.seq, lo, hi, hs⟩] }) s

/-- The packets of a write that the formatter has or that are returned. -/
def returnedTo (s : State) (w : Write) : Nat := max w.formatted (AMap.getD s.shd.returned w.seq 0)

section

variable {s : State} {w : Write} {hs : List Handle} (alone : s.hq.writes = [w]) (noDusk : s.cfg.dusk = none) (some_ : 0 < toReturn s w)
  (ahead : returnedBytes s + w.storedSum (returnedTo s w) (returnedTo s w + min (toReturn s w) 1024) ≤ Cfgw.returnAhead s * 2 ^ 20)
  (granted : (returnStalls (ceilDiv (w.storedSum (returnedTo s w) (returnedTo s w + min (toReturn s w) 1024)) 262144) s).1 = some hs)

include alone noDusk some_ ahead granted

/-- The one write's batch is returned and announced. -/
theorem exec_shedReturnRead : exec (.shedReturnRead w.part) s = .next (post .fmt Src.shed 0x0002 (min (toReturn s w) 1024 + w.part % 4 * 2 ^ 32)
    (batchReturned w (returnedTo s w) (returnedTo s w + min (toReturn s w) 1024) hs
      (returnStalls (ceilDiv (w.storedSum (returnedTo s w) (returnedTo s w + min (toReturn s w) 1024)) 262144) s).2)) := by
  have batch : returnBatch w.part 2 0 [w] s = (min (toReturn s w) 1024,
      batchReturned w (returnedTo s w) (returnedTo s w + min (toReturn s w) 1024) hs
        (returnStalls (ceilDiv (w.storedSum (returnedTo s w) (returnedTo s w + min (toReturn s w) 1024)) 262144) s).2) := by
    unfold returnBatch
    rw [if_neg (not_not_intro rfl)]
    dsimp only
    rw [if_neg (by omega)]
    unfold returnedTo at ahead granted ⊢
    rw [if_neg (not_lt.mpr ahead)]
    generalize returnStalls _ s = r at granted
    obtain ⟨o, v⟩ := r
    obtain rfl : o = some hs := granted
    dsimp only
    unfold returnBatch
    rw [Nat.zero_add]
    rfl
  show execShedReturnRead w.part s = _
  unfold execShedReturnRead
  rw [noDusk, alone, if_neg (by decide), show [w].length + 1 = 2 from rfl, batch]
  dsimp only
  rw [if_neg (by omega)]
  rfl

theorem runs_shedReturnRead : Runs (.shedReturnRead w.part) s fun t =>
    (hasSlots .fmt Src.shed 1 s = true → boxOf t .fmt = boxOf s .fmt ++ [mail Src.shed 0x0002 (min (toReturn s w) 1024 + w.part % 4 * 2 ^ 32) s])
      ∧ AMap.getD t.shd.returned w.seq 0 = returnedTo s w + min (toReturn s w) 1024
      ∧ t.shd.retChains = s.shd.retChains ++ [⟨w.seq, returnedTo s w, returnedTo s w + min (toReturn s w) 1024, hs⟩] := by
  refine ⟨_, exec_shedReturnRead alone noDusk some_ ahead granted, ?_⟩
  generalize ceilDiv _ 262144 = n
  have frame := returnStalls_frame n s
  have box := boxOf_acquireFrom (c := .fmt) (by decide) 128 0x2C 6 n (n / 128 + 3) s
  change boxOf (returnStalls n s).2 .fmt = _ at box
  generalize (returnStalls n s).2 = v at frame box
  generalize returnedTo s w = lo
  generalize min (toReturn s w) 1024 = k
  have box' : boxOf (batchReturned w lo (lo + k) hs v) .fmt = boxOf s .fmt := box
  have clock : (batchReturned w lo (lo + k) hs v).srv = s.srv := frame.same .srv rfl
  refine ⟨fun slots => ?_, ?_, ?_⟩
  · rw [post_of_slots ((hasSlots_congr box' ..).trans slots), boxOf_setBox_self, box']
    unfold mail
    rw [clock]
  · rw [(post_frame ..).same .shd rfl]
    exact AMap.getD_set_self ..
  · rw [(post_frame ..).same .shd rfl]
    exact congrArg (fun d : Shd => d.retChains ++ [(⟨w.seq, lo, lo + k, hs⟩ : Returned)]) (frame.same .shd rfl)

end

/-! ## Writes released (R319) -/

/-- The n units of a ring from one on are unmapped. -/
def unitsUnmapped (r lo n : Nat) (s : State) : State :=
  each (fun i s => unmapRange (spillLogical r ((lo + i) * 65536)) 1 s) (List.range n) s

/-- A ring's new tail is journaled, and SHELTER records below it are dropped. -/
def tailJournaled (r tail : Nat) (s : State) : State :=
  settleBlocks (journalRec (.release r tail) (updShd (fun d => { d with
    shelters := d.shelters.filter fun j => match j with
      | .shelter q _ _ _ _ off len _ _ => !(q == r && decide (off + len ≤ tail))
      | _ => true }) s))

theorem advanceTail_eq {r tail : Nat} {s : State} (beyond : ¬tail ≤ (spillAt s r).tail) : advanceTail r tail s =
    tailJournaled r tail (unitsUnmapped r ((spillAt s r).tail / 65536) (tail / 65536 - (spillAt s r).tail / 65536)
      (setSpill r { spillAt s r with tail := tail, full := false } s)) := if_neg beyond

theorem unitsUnmapped_spills (r lo n : Nat) (s : State) : (unitsUnmapped r lo n s).shd.spills = s.shd.spills :=
  (Remaps.each (fun _ _ => unmapRange_remaps ..) (List.range n) s).spills

theorem tailJournaled_spills (r tail : Nat) (s : State) : (tailJournaled r tail s).shd.spills = s.shd.spills :=
  (settleBlocks_remaps _).spills

/-- The tail of a ring advances to an offset beyond it; the head stays. -/
theorem advanceTail_spills (r tail : Nat) (s : State) : (spillAt (advanceTail r tail s) r).tail = max (spillAt s r).tail tail
    ∧ (spillAt (advanceTail r tail s) r).head = (spillAt s r).head := by
  by_cases below : tail ≤ (spillAt s r).tail
  · rw [advanceTail, if_pos below]
    exact ⟨(max_eq_left below).symm, rfl⟩
  · rw [advanceTail_eq below, spillAt_of_spills (tailJournaled_spills ..), spillAt_of_spills (unitsUnmapped_spills ..), spillAt_setSpill_self]
    exact ⟨(max_eq_right (Nat.le_of_not_le below)).symm, rfl⟩

/-- A released write is retired, with what is kept of its returns. -/
def writeReleased (q : Nat) (s : State) : State := freeReturned (updShd (fun d => { d with returned := AMap.erase d.returned q }) (retire q s))

theorem exec_spillRelease {s : State} {q : Nat} {w : Write} (found : findWrite s q = some w) (free : released s w = true) :
    exec (.spillRelease q) s = .next (match w.ring with
      | none => writeReleased q s
      | some r => advanceTail r (newTail (writeReleased q s) r) (writeReleased q s)) := by
  show execSpillRelease q s = _
  unfold execSpillRelease
  rw [found]
  dsimp only
  rw [if_neg (ne_false_of_eq_true free)]
  cases w.ring <;> rfl

theorem writeReleased_hq (q : Nat) (s : State) : (writeReleased q s).hq = { s.hq with writes := s.hq.writes.filter fun x => x.seq != q } :=
  (freeReturned_hq _).trans (retire_hq q s)

theorem freeReturned_spills (s : State) : (freeReturned s).shd.spills = s.shd.spills :=
  each_keeps (fun v : State => v.shd.spills) (fun _ _ => congrArg Shd.spills ((giveBack_frame ..).same .shd rfl)) _ _

theorem writeReleased_spills (q : Nat) (s : State) : (writeReleased q s).shd.spills = s.shd.spills := by
  have retired : (retire q s).shd = s.shd := (retire_frame ..).same .shd rfl
  unfold writeReleased
  rw [freeReturned_spills]
  generalize retire q s = v at retired
  exact (congrArg Shd.spills retired :)

/-- No entry of a number stays in an index that has lost its entries. -/
theorem findWrite_writeReleased (q : Nat) (s : State) : findWrite (writeReleased q s) q = none := by
  unfold findWrite
  rw [writeReleased_hq]
  refine List.find?_eq_none.mpr fun x mem => ?_
  have other := (List.mem_filter.mp mem).2
  simpa using other

theorem newTail_congr {s t : State} {r : Nat} (writes : t.hq = s.hq) (head : (spillAt t r).head = (spillAt s r).head) : newTail t r = newTail s r := by
  unfold newTail
  rw [writes, head]

theorem runs_spillRelease {s : State} {q : Nat} {w : Write} (found : findWrite s q = some w) (free : released s w = true) :
    Runs (.spillRelease q) s fun t => findWrite t q = none ∧ ∀ r, w.ring = some r → (spillAt t r).tail = max (spillAt s r).tail (newTail t r) := by
  have gone := findWrite_writeReleased q s
  have spills := writeReleased_spills q s
  refine ⟨_, exec_spillRelease found free, ?_⟩
  generalize writeReleased q s = v at gone spills
  cases w.ring with
  | none => exact ⟨gone, fun r no => absurd no (by simp)⟩
  | some r =>
    have hq := (advanceTail_frame r (newTail v r) v).same .hq rfl
    obtain ⟨tail, head⟩ := advanceTail_spills r (newTail v r) v
    refine ⟨(findWrite_of_hq hq q).trans gone, fun k here => ?_⟩
    cases here
    dsimp only
    rw [tail, newTail_congr hq head, spillAt_of_spills spills]

/-- Settles O44: `Issues` says what issuing and padding units keep, so each command's outcome is that of its own change to the Shed. -/
theorem packetsAreShelteredSpilledAndReleased : Obligations.PacketsAreShelteredSpilledAndReleased := by
  unfold Obligations.PacketsAreShelteredSpilledAndReleased
  intro s
  refine ⟨fun p w r k _ ready next found ring pkt stored => ⟨fun blocked => ?blocked, fun free => ?copied⟩,
    fun u r x row unit => runs_unitProgramDone row unit,
    fun st g r filling holds few rows nothing => ⟨_, exec_rowHoldExpiry filling holds nothing, padRow_completes filling rows few⟩,
    fun c mem some_ due => ⟨_, exec_journalDue mem some_ due, rfl, rfl, rfl⟩, fun j js oldest => ?durable,
    fun w short alone taken => ?low,
    fun w hs alone noDusk some_ ahead granted => runs_shedReturnRead alone noDusk some_ ahead granted,
    fun q w found free => runs_spillRelease found free⟩
  case blocked =>
    obtain ⟨t, runs, out⟩ := exec_shedPacketCopy ready (copyPacket_blocked next ring pkt stored blocked)
    refine ⟨t, runs, (full_of_copied out r).trans ?_, (hq_of_copied out).trans ((setSpill_frame ..).same .hq rfl)⟩
    rw [spillAt_setSpill_self]
  case copied =>
    obtain ⟨t, runs, out⟩ := exec_shedPacketCopy ready (copyPacket_copied next ring pkt stored free)
    refine ⟨t, runs, countsCopy r (spillAt s r).head w, ?_, rfl, rfl, countsCopy_spillOff pkt .., fun size short head => ?_⟩
    · rw [findWrite_of_hq (hq_of_copied out)]
      exact findWrite_packetCopied found r k
    · have far := packetCopied_reaches w size short head
      exact (reaches_of_copied out far).reached
  case durable =>
    obtain ⟨journals, jlog, -⟩ := journalDurable_logs oldest
    refine ⟨_, rfl, journals, jlog, fun k p f n v o l e b w recs found => ⟨_, journalDurable_shelters oldest recs found, rfl⟩,
      fun b n st recs erasing empty => journalDurable_opens oldest recs erasing empty⟩
  case low =>
    obtain ⟨w', one, -, most, done⟩ := freeUpTo_single alone (Cfgw.spillLow s + 1024) w.sheltered
    exact ⟨_, exec_spillLow short alone taken, w', one, most, done⟩

end Sys2Proof.Machine
end


/-! Dusk, reset, power loss and lost clock inputs (R338, R430, R446, R452 to R454, R458). -/

section

namespace Sys2Proof.Machine

/-! ## Dusk begins (R338, R430) -/

theorem abandonActivation_cfg (s : State) : (abandonActivation s).cfg.dusk = s.cfg.dusk ∧ (abandonActivation s).cfg.pfail = s.cfg.pfail := by
  have kept : ∀ is : List Nat, (each cancelSched is s).cfg = s.cfg := fun is =>
    each_keeps (fun v : State => v.cfg) (fun i v => (cancelSched_frame i v).same .cfg rfl) is s
  unfold abandonActivation
  dsimp only
  generalize List.filterMap _ _ = is
  have h := kept is
  generalize each cancelSched is s = v at h
  exact ⟨(congrArg Cfg.dusk h :), (congrArg Cfg.pfail h :)⟩

theorem abandonActivation_clock (s : State) : (abandonActivation s).srv.clock = s.srv.clock :=
  each_keeps (f := cancelSched) (fun v : State => v.srv.clock) (fun _ _ => rfl) _ s

/-- A post to MB_BRIDLE leaves the activation alone. -/
theorem post_bridle_activation (src code arg : Nat) (s : State) : (post .bridle src code arg s).mgt.activation = s.mgt.activation := by
  unfold post
  dsimp only
  rw [if_neg (by decide)]
  repeat' split
  all_goals rfl

/-- Step 1 of Dusk: its cause is kept, the activation abandoned, and no command is fetched any more. -/
def fetchStopped (cause : DuskCause) (s : State) : State :=
  let u := abandonActivation (updCfg (fun c => { c with dusk := some { cause := cause } }) s)
  updRch (fun h => { h with readAhead := false }) { u with hq := { u.hq with stopFetch := true } }

/-- Collection and checkpoints cease. -/
def collectionCeased (s : State) : State :=
  updShd (fun d => { d with gc := [], victims := [], ckptActive := false, ckptAgain := false, ckptSnap := none }) s

theorem beginDusk_eq {cause : DuskCause} {s : State} (running : s.cfg.st ≠ .reset) (noDusk : s.cfg.dusk = none) :
    beginDusk cause s = collectionCeased (post .bridle Src.aon 0x8001 1 (fetchStopped cause s)) := by
  unfold beginDusk
  rw [if_neg (by simp [running, noDusk])]
  rfl

theorem fetchStopped_spec (cause : DuskCause) (s : State) : (fetchStopped cause s).cfg.dusk = some { cause := cause }
    ∧ (fetchStopped cause s).cfg.pfail = s.cfg.pfail ∧ (fetchStopped cause s).hq.stopFetch = true ∧ (fetchStopped cause s).mgt.activation = none
    ∧ (fetchStopped cause s).rch.readAhead = false ∧ (fetchStopped cause s).boxes = s.boxes ∧ (fetchStopped cause s).srv.clock = s.srv.clock := by
  obtain ⟨v, hv⟩ : ∃ v, v = updCfg (fun c => { c with dusk := some { cause := cause } }) s := ⟨_, rfl⟩
  have dusk : v.cfg.dusk = some { cause := cause } := by rw [hv]; rfl
  have pfail : v.cfg.pfail = s.cfg.pfail := by rw [hv]; rfl
  have boxes : v.boxes = s.boxes := by rw [hv]; rfl
  have clock : v.srv.clock = s.srv.clock := by rw [hv]; rfl
  have cfg := abandonActivation_cfg v
  have mgt := abandonActivation_mgt v
  have box : (abandonActivation v).boxes = v.boxes := (abandonActivation_frame v).same .boxes rfl
  have time := abandonActivation_clock v
  unfold fetchStopped
  rw [← hv]
  generalize abandonActivation v = u at cfg mgt box time
  exact ⟨cfg.1.trans dusk, cfg.2.trans pfail, rfl, congrArg Mgt.activation mgt, rfl, box.trans boxes, time.trans clock⟩

/-- What Dusk leaves when it has begun. -/
theorem beginDusk_spec {cause : DuskCause} {s : State} (running : s.cfg.st ≠ .reset) (noDusk : s.cfg.dusk = none) :
    (beginDusk cause s).cfg.dusk = some { cause := cause } ∧ (beginDusk cause s).cfg.pfail = s.cfg.pfail ∧ (beginDusk cause s).hq.stopFetch = true
    ∧ (hasSlots .bridle Src.aon 1 s = true → boxOf (beginDusk cause s) .bridle = boxOf s .bridle ++ [mail Src.aon 0x8001 1 s])
    ∧ (beginDusk cause s).shd.gc = [] ∧ (beginDusk cause s).shd.victims = [] ∧ (beginDusk cause s).shd.ckptActive = false
    ∧ (beginDusk cause s).mgt.activation = none ∧ (beginDusk cause s).rch.readAhead = false := by
  obtain ⟨dusk, pfail, stop, activation, ahead, boxes, clock⟩ := fetchStopped_spec cause s
  rw [beginDusk_eq running noDusk]
  generalize fetchStopped cause s = v at dusk pfail stop activation ahead boxes clock
  have frame := post_frame .bridle Src.aon 0x8001 1 v
  have mgt := post_bridle_activation Src.aon 0x8001 1 v
  have posted : hasSlots .bridle Src.aon 1 s = true → boxOf (post .bridle Src.aon 0x8001 1 v) .bridle = boxOf s .bridle ++ [mail Src.aon 0x8001 1 s] :=
    fun slots => by
      rw [post_of_slots ((hasSlots_of_boxes boxes ..).trans slots), boxOf_setBox_self, boxOf_of_boxes boxes]
      unfold mail
      rw [clock]
  generalize post .bridle Src.aon 0x8001 1 v = t at frame mgt posted
  have cfg : t.cfg = v.cfg := frame.same .cfg rfl
  have hq : t.hq = v.hq := frame.same .hq rfl
  have rch : t.rch = v.rch := frame.same .rch rfl
  exact ⟨(congrArg Cfg.dusk cfg).trans dusk, (congrArg Cfg.pfail cfg).trans pfail, (congrArg Hq.stopFetch hq).trans stop, posted,
    rfl, rfl, rfl, mgt.trans activation, (congrArg Rch.readAhead rch).trans ahead⟩

/-- PFAIL_N is kept when it is the cause. -/
def pfailKept (cause : DuskCause) (s : State) : State :=
  if cause = .pfail ∧ s.cfg.st ≠ .reset then updCfg (fun c => { c with pfail := true }) s else s

theorem pfailKept_spec {s : State} (running : s.cfg.st ≠ .reset) (cause : DuskCause) : (pfailKept cause s).cfg.pfail = (s.cfg.pfail || decide (cause = .pfail))
    ∧ (pfailKept cause s).cfg.st = s.cfg.st ∧ (pfailKept cause s).cfg.dusk = s.cfg.dusk ∧ (pfailKept cause s).boxes = s.boxes
    ∧ (pfailKept cause s).srv = s.srv := by
  unfold pfailKept
  cases cause with
  | pfail =>
    rw [if_pos ⟨rfl, running⟩]
    exact ⟨(Bool.or_true _).symm, rfl, rfl, rfl, rfl⟩
  | reset =>
    rw [if_neg (by simp)]
    exact ⟨(Bool.or_false _).symm, rfl, rfl, rfl, rfl⟩

/-! ## Domains off (R338, R453) -/

theorem bit_switchedOff {n : Nat} (hn : 1 ≤ n) : ∀ (ds : List Nat) (w : Nat), (∀ d ∈ ds, 1 ≤ d) →
    bit (ds.foldl (fun w d => setBits w (d - 1) (d - 1) (b2n false)) w) (n - 1) = (!decide (n ∈ ds) && bit w (n - 1))
  | [], w, _ => by simp
  | d :: ds, w, pos => by
    have hd := pos d List.mem_cons_self
    rw [List.foldl_cons, bit_switchedOff hn ds _ fun x mem => pos x (List.mem_cons_of_mem _ mem), bit_setBits _ _ _ (by decide)]
    by_cases same : n = d
    · simp [same, b2n]
    · simp [same, show n - 1 ≠ d - 1 by omega]

theorem domOn_duskDomains {n : Nat} (hn : 1 ≤ n) (s : State) : domOn (setDoms duskDomains false s) n = (!decide (n ∈ duskDomains) && domOn s n) :=
  bit_switchedOff hn duskDomains s.mgt.domains (by decide)

/-- Domains are switched off, and the fabric with them. -/
def domainsSwitchedOff (ds : List Nat) (d : Dusk) (s : State) : State :=
  let u := setDoms ds false (updCfg (fun c => { c with dusk := some { d with domainsOff := true } }) s)
  updFab (fun f => { f with
      ready := false, routes := [],
      ports := f.ports.map fun (k, x) => (k, { sent := x.sent, txCount := x.txCount, rxCount := x.rxCount }) })
    { u with mgt := { u.mgt with nightReady := false } }

/-- The receive links and both ports go down. -/
def linksSwitchedOff (s : State) : State :=
  updRch (fun h => { h with links := h.links.map fun (k, x) => (k, { x with up := false, aligned := false, lanesLocked := 0 }) })
    { s with hq := { s.hq with portA := { s.hq.portA with training := false, linkUp := false }
                               portB := { s.hq.portB with training := false, linkUp := false } } }

theorem domOn_switchedOff (ds : List Nat) (d : Dusk) (s : State) (n : Nat) :
    domOn (linksSwitchedOff (domainsSwitchedOff ds d s)) n = domOn (setDoms ds false s) n := rfl

theorem exec_duskDomainsOff {s : State} {d : Dusk} (dusk : s.cfg.dusk = some d) (on : d.domainsOff = false) (closed : s.wrv.windowOpen = false) :
    exec .duskDomainsOff s = .next (linksSwitchedOff (domainsSwitchedOff duskDomains d s)) := by
  show execDuskDomainsOff s = _
  unfold execDuskDomainsOff
  rw [dusk]
  dsimp only
  rw [if_neg (by simp [on, closed])]
  rfl

theorem rxAt_linksSwitchedOff (k : Nat) (s : State) : (rxAt (linksSwitchedOff s) k).up = false := by
  have changed := get?_mapVals (fun _ x => { x with up := false, aligned := false, lanesLocked := 0 }) s.rch.links k
  show (AMap.getD (s.rch.links.map _) k ({} : RxLink)).up = false
  unfold AMap.getD
  rw [changed]
  cases AMap.get? s.rch.links k <;> rfl

/-! ## Reset and power loss (R452, R454) -/

/-- What survives a reset and a loss of power; commands and writes do not. -/
structure Survives (s t : State) : Prop where
  hostMem : t.hostMem = s.hostMem
  cartMem : t.cartMem = s.cartMem
  norMem : t.norMem = s.norMem
  pending : t.pending = s.pending
  fuses : t.cfg.fuses = s.cfg.fuses
  serviceArea : t.cfg.serviceArea = s.cfg.serviceArea
  keyArea : t.cip.keyArea = s.cip.keyArea
  units : t.shd.units = s.shd.units
  jlog : t.shd.jlog = s.shd.jlog
  ckpt : t.shd.ckpt = s.shd.ckpt
  lossLog : t.shd.lossLog = s.shd.lossLog
  cmds : t.hq.cmds = []
  writes : t.hq.writes = []
  dusk : t.cfg.dusk = none

theorem afterReset_survives (s : State) : Survives s (afterReset s) := ⟨rfl, rfl, rfl, rfl, rfl, rfl, rfl, rfl, rfl, rfl, rfl, rfl, rfl, rfl⟩

/-- Reset holds after PFAIL_N until it deasserts; else Dawn begins. -/
theorem enterReset_cases (cause : DuskCause) (s : State) :
    (cause = .pfail ∧ s.cfg.pfail = true ∧ enterReset cause s = afterReset s)
      ∨ (¬(cause = .pfail ∧ s.cfg.pfail = true) ∧ enterReset cause s = beginDawn (updCfg (fun c => { c with pfail := false }) (afterReset s))) := by
  by_cases held : cause = .pfail ∧ (afterReset s).cfg.pfail = true
  · exact .inl ⟨held.1, held.2, if_pos held⟩
  · exact .inr ⟨held, if_neg held⟩

theorem enterReset_survives (cause : DuskCause) (s : State) : Survives s (enterReset cause s) := by
  obtain ⟨-, -, e⟩ | ⟨-, e⟩ := enterReset_cases cause s <;> rw [e]
  · exact afterReset_survives s
  · exact ⟨rfl, rfl, rfl, rfl, rfl, rfl, rfl, rfl, rfl, rfl, rfl, rfl, rfl, rfl⟩

theorem enterReset_i3cAddr (cause : DuskCause) (s : State) : (enterReset cause s).mgt.i3cAddr = s.mgt.i3cAddr := by
  obtain ⟨-, -, e⟩ | ⟨-, e⟩ := enterReset_cases cause s <;> rw [e] <;> rfl

theorem enterReset_st (cause : DuskCause) (s : State) :
    (cause = .pfail → s.cfg.pfail = true → (enterReset cause s).cfg.st = .reset ∧ (enterReset cause s).cfg.pfail = true)
      ∧ (cause = .reset → (enterReset cause s).cfg.st = .d0 ∧ (enterReset cause s).cfg.pfail = false) := by
  obtain ⟨pfail, asserted, e⟩ | ⟨other, e⟩ := enterReset_cases cause s <;> rw [e]
  · exact ⟨fun _ _ => ⟨rfl, asserted⟩, fun reset => absurd (pfail.symm.trans reset) (by decide)⟩
  · exact ⟨fun pfail asserted => absurd ⟨pfail, asserted⟩ other, fun _ => ⟨rfl, rfl⟩⟩

/-- The code of a Dusk's cause in its DUSK record. -/
def causeCode : DuskCause → Nat
  | .pfail => 1
  | .reset => 2

theorem causeCode_eq (cause : DuskCause) : causeCode cause = if cause = .pfail then 1 else 2 := by cases cause <;> rfl

/-- The last journal unit holds the records that wait and the DUSK record; the Loss Log stays. -/
theorem duskUnit_logs {s : State} (sheltered : duskSheltered s = true) (cause : DuskCause) :
    (∃ clock, (duskUnit cause s).shd.jlog = s.shd.jlog ++ [(s.shd.pageSeq, s.shd.pendingRecs ++ [.dusk (causeCode cause) clock])])
      ∧ (duskUnit cause s).shd.lossLog = s.shd.lossLog := by
  obtain ⟨clock, hc⟩ : ∃ clock, clock = (s.brd.stop.map CtlStop.endClock).getD s.srv.clock := ⟨_, rfl⟩
  unfold duskSheltered at sheltered
  simp only [Bool.and_eq_true, decide_eq_true_eq, List.isEmpty_iff] at sheltered
  obtain ⟨⟨-, none⟩, few⟩ := sheltered
  obtain ⟨v, hv⟩ : ∃ v, v = programJournal (journalRec (.dusk (causeCode cause) clock) s) := ⟨_, rfl⟩
  have unit : duskUnit cause s = journalDurable v := by
    rw [hv, hc]
    cases cause <;> rfl
  have all : (s.shd.pendingRecs ++ [JRec.dusk (causeCode cause) clock]).take 2044 = s.shd.pendingRecs ++ [.dusk (causeCode cause) clock] :=
    List.take_of_length_le (by rw [List.length_append, List.length_singleton]; omega)
  have oldest : v.shd.journals = [(s.shd.pageSeq, s.shd.pendingRecs ++ [.dusk (causeCode cause) clock])] := by
    rw [← all, hv]
    exact congrArg (· ++ [_]) none
  have jlog : v.shd.jlog = s.shd.jlog := by rw [hv]; rfl
  have lossLog : v.shd.lossLog = s.shd.lossLog := by rw [hv]; rfl
  obtain ⟨-, logged, losses⟩ := journalDurable_logs oldest
  rw [unit, logged, losses, jlog, lossLog]
  exact ⟨⟨clock, rfl⟩, rfl⟩

theorem exec_duskComplete_down {s : State} {d : Dusk} (dusk : s.cfg.dusk = some d) (off : d.domainsOff = true) (down : s.shd.ready = false) :
    exec .duskComplete s = .next (enterReset d.cause s) := by
  show execDuskComplete s = _
  unfold execDuskComplete
  rw [dusk]
  dsimp only
  rw [if_neg (ne_false_of_eq_true off), if_pos down]
  rfl

theorem exec_duskComplete_sheltered {s : State} {d : Dusk} (dusk : s.cfg.dusk = some d) (off : d.domainsOff = true) (up : s.shd.ready = true)
    (sheltered : duskSheltered s = true) : exec .duskComplete s = .next (enterReset d.cause (duskUnit d.cause s)) := by
  show execDuskComplete s = _
  unfold execDuskComplete
  rw [dusk]
  dsimp only
  rw [if_neg (ne_false_of_eq_true off), if_neg (ne_false_of_eq_true up), if_neg (ne_false_of_eq_true sheltered)]
  rfl

end Sys2Proof.Machine
end


/-! Lost clock inputs (R458): the fabric's ports go down, and the receive links fail. -/

section

namespace Sys2Proof.Machine

/-- An operation that sets a property of its own element, and takes it from no other, sets it for every element of a list. -/
theorem each_sets {α : Type} {f : α → State → State} {P : α → State → Prop} (sets : ∀ x v, P x (f x v)) (keeps : ∀ x y v, P y v → P y (f x v))
    (xs : List α) (s : State) : ∀ x ∈ xs, P x (each f xs s) := by
  induction xs generalizing s with
  | nil => exact fun x mem => absurd mem List.not_mem_nil
  | cons a xs ih =>
    intro x mem
    obtain rfl | later := List.mem_cons.mp mem
    · exact each_inv (P := P x) xs (sets x s) fun y _ v h => keeps y x v h
    · exact ih (f a s) x later

/-! ## Fabric ports -/

theorem portAt_updPort (p q : Nat) (f : FabPort → FabPort) (s : State) : portAt (updPort p f s) q = if q = p then f (portAt s p) else portAt s q := by
  unfold portAt updPort updFab modAt
  dsimp only
  split
  · next h => subst h; exact AMap.getD_set_self _ _ _ _
  · next h => exact AMap.getD_set_of_ne _ _ _ (Ne.symm h)

/-- No port goes up or down between two states. -/
structure SamePorts (s t : State) : Prop where
  st : ∀ q, (portAt t q).st = (portAt s q).st

theorem SamePorts.refl (s : State) : SamePorts s s := ⟨fun _ => rfl⟩

theorem SamePorts.trans {s u t : State} (h : SamePorts s u) (k : SamePorts u t) : SamePorts s t := ⟨fun q => (k.st q).trans (h.st q)⟩

theorem SamePorts.of_fab {s t : State} (h : t.fab.ports = s.fab.ports) : SamePorts s t :=
  ⟨fun q => congrArg (fun m : AMap FabPort => (AMap.getD m q {}).st) h⟩

theorem SamePorts.each {α : Type} {f : α → State → State} (h : ∀ x v, SamePorts v (f x v)) (xs : List α) (s : State) : SamePorts s (each f xs s) :=
  each_inv xs (.refl s) fun x _ _ k => k.trans (h x _)

theorem updPort_samePorts {p : Nat} {f : FabPort → FabPort} {s : State} (same : (f (portAt s p)).st = (portAt s p).st) : SamePorts s (updPort p f s) := by
  refine ⟨fun q => ?_⟩
  rw [portAt_updPort]
  split
  · next here => rw [same, here]
  · rfl

theorem addCtr_samePorts (c n : Nat) (s : State) : SamePorts s (addCtr c n s) := .of_fab rfl

theorem owe_samePorts (p vc : Nat) (s : State) : SamePorts s (owe p vc s) := by
  unfold owe
  split
  · exact updPort_samePorts (by rfl)
  · exact .refl s

theorem sendNext_samePorts (p vc i : Nat) (q : QFlit) (s : State) : SamePorts s (sendNext p vc i q s) := by
  unfold sendNext
  dsimp only
  refine SamePorts.trans (SamePorts.trans ?_ (addCtr_samePorts ..)) (owe_samePorts ..)
  exact updPort_samePorts (by rfl)

theorem pumpPort_samePorts (p : Nat) : ∀ (n : Nat) (s : State), SamePorts s (pumpPort p n s)
  | 0, s => .refl s
  | n + 1, s => by
    unfold pumpPort
    dsimp only
    split
    · exact .refl s
    · split
      · exact .refl s
      · split
        · exact .refl s
        · split
          · exact .refl s
          · exact (sendNext_samePorts ..).trans (pumpPort_samePorts p n _)

theorem flood_samePorts (origin : Nat) (l : Lsa) (ps : List Nat) (s : State) : SamePorts s (flood origin l ps s) := by
  unfold flood
  refine .each (fun p v => ?_) ps s
  exact (updPort_samePorts (by rfl)).trans (pumpPort_samePorts ..)

theorem originate_samePorts (s : State) : SamePorts s (originate s) := by
  unfold originate
  exact SamePorts.trans (.of_fab (by rfl)) (flood_samePorts ..)

theorem dropQueue_samePorts (p : Nat) (s : State) : SamePorts s (dropQueue p s) := by
  unfold dropQueue
  refine SamePorts.trans (SamePorts.trans ?_ (addCtr_samePorts ..)) (.each (fun y v => owe_samePorts ..) _ _)
  exact updPort_samePorts (by rfl)

/-- A port that goes down is down, and no other port goes up or down. -/
theorem portDown_st (p q : Nat) (s : State) : (portAt (portDown p s) q).st = if q = p then .down else (portAt s q).st := by
  have dropped := dropQueue_samePorts p s
  unfold portDown
  dsimp only
  generalize dropQueue p s = u at dropped
  generalize hv : updPort p _ u = v
  have down : (portAt v q).st = if q = p then .down else (portAt s q).st := by
    rw [← hv, portAt_updPort]
    split
    · rfl
    · exact dropped.st q
  split
  · exact ((originate_samePorts _).st q).trans down
  · exact down

/-- A port that is not down goes down. -/
def portLost (p : Nat) (s : State) : State := if (portAt s p).st = .down then s else portDown p s

theorem portLost_down (p : Nat) (s : State) : (portAt (portLost p s) p).st = .down := by
  unfold portLost
  split
  · assumption
  · exact (portDown_st ..).trans (if_pos rfl)

theorem portLost_keeps (p q : Nat) (s : State) (down : (portAt s q).st = .down) : (portAt (portLost p s) q).st = .down := by
  unfold portLost
  split
  · exact down
  · rw [portDown_st, down, ite_self]

/-! ## Receive links -/

theorem rxAt_failLink (k j : Nat) (s : State) : (rxAt (failLink k s) j).up = if j = k then false else (rxAt s j).up := by
  obtain ⟨-, -, links, -, -⟩ := each_toAcquiring (linkChannels k) (updRx k (fun x => { x with up := false, aligned := false, tries := 0 }) s)
  unfold failLink
  rw [rxAt_of_rch ((postEvent_frame ..).same .rch rfl), links, rxAt_updRx]
  split <;> rfl

theorem failLink_acquiring {q : Nat} {s : State} (acquiring : (chanAt s q).lock = .acquiring) (k : Nat) : (chanAt (failLink k s) q).lock = .acquiring := by
  obtain ⟨-, fails, others, -⟩ := failLink_spec k s
  by_cases mine : q ∈ linkChannels k
  · exact fails q mine
  · rw [others q mine]
    exact acquiring

/-- A link that is up fails, with no lane locked. -/
def linkLost (k : Nat) (s : State) : State := if (rxAt s k).up then failLink k (updRx k (fun x => { x with lanesLocked := 0 }) s) else s

theorem linkLost_up (k j : Nat) (s : State) : (rxAt (linkLost k s) j).up = if j = k then false else (rxAt s j).up := by
  unfold linkLost
  split
  · rw [rxAt_failLink, rxAt_updRx]
    split <;> rfl
  · next down =>
    split
    · next here => exact here ▸ Bool.eq_false_iff.mpr down
    · rfl

/-- The channels of every link that has gone down since a state are ACQUIRING. -/
def LostAcquire (s t : State) : Prop := ∀ k, (rxAt s k).up = true → (rxAt t k).up = false → ∀ q ∈ linkChannels k, (chanAt t q).lock = .acquiring

theorem linkLost_acquires {s v : State} (lost : LostAcquire s v) (j : Nat) : LostAcquire s (linkLost j v) := by
  intro k up down q mem
  unfold linkLost at down ⊢
  split at down
  · next on =>
    rw [if_pos on]
    by_cases here : k = j
    · subst here
      exact (failLink_spec ..).2.1 q mem
    · rw [rxAt_failLink, if_neg here, rxAt_updRx, if_neg here] at down
      refine failLink_acquiring ?_ j
      exact lost k up down q mem
  · next off =>
    rw [if_neg off]
    exact lost k up down q mem

/-! ## The commands -/

/-- Dusk begins once, with PFAIL_N kept when it is the cause. -/
theorem runs_duskBegin {s : State} (running : s.cfg.st ≠ .reset) (noDusk : s.cfg.dusk = none) (cause : DuskCause) : Runs (.duskBegin cause) s fun t =>
    t.cfg.dusk = some { cause := cause } ∧ t.hq.stopFetch = true
      ∧ (hasSlots .bridle Src.aon 1 s = true → boxOf t .bridle = boxOf s .bridle ++ [mail Src.aon 0x8001 1 s]) ∧ t.shd.gc = [] ∧ t.shd.victims = []
      ∧ t.shd.ckptActive = false ∧ t.mgt.activation = none ∧ t.rch.readAhead = false ∧ t.cfg.pfail = (s.cfg.pfail || decide (cause = .pfail)) := by
  obtain ⟨pfail, st, none, boxes, srv⟩ := pfailKept_spec running cause
  have begun := beginDusk_spec (cause := cause) (st ▸ running) (none.trans noDusk)
  refine ⟨beginDusk cause (pfailKept cause s), rfl, ?_⟩
  generalize pfailKept cause s = v at pfail boxes srv begun
  generalize beginDusk cause v = t at begun
  obtain ⟨dusk, kept, stop, box, gc, victims, ckpt, activation, ahead⟩ := begun
  refine ⟨dusk, stop, fun slots => ?_, gc, victims, ckpt, activation, ahead, kept.trans pfail⟩
  rw [box ((hasSlots_of_boxes boxes ..).trans slots), boxOf_of_boxes boxes]
  unfold mail
  rw [srv]

/-- A Dusk whose last unit is durable ends in reset: the DUSK record ends the journal. -/
theorem runs_duskComplete_sheltered {s : State} {d : Dusk} (dusk : s.cfg.dusk = some d) (off : d.domainsOff = true) (up : s.shd.ready = true)
    (sheltered : duskSheltered s = true) : ∃ v, exec .duskComplete s = .next (enterReset d.cause v) ∧ Frame 0x906 s v ∧ v.shd.lossLog = s.shd.lossLog
      ∧ ∃ clock, v.shd.jlog = s.shd.jlog ++ [(s.shd.pageSeq, s.shd.pendingRecs ++ [.dusk (if d.cause = .pfail then 1 else 2) clock])] := by
  obtain ⟨⟨clock, jlog⟩, lossLog⟩ := duskUnit_logs sheltered d.cause
  exact ⟨_, exec_duskComplete_sheltered dusk off up sheltered, duskUnit_frame d.cause s, lossLog, clock, causeCode_eq d.cause ▸ jlog⟩

theorem runs_pfailDeassert {s : State} (asserted : s.cfg.pfail = true) :
    Runs .pfailDeassert s fun t => t.cfg.pfail = false ∧ t.cfg.st = (if s.cfg.st = .reset then .d0 else s.cfg.st) := by
  refine ⟨_, if_neg (ne_false_of_eq_true asserted), ?_⟩
  by_cases reset : s.cfg.st = .reset
  · rw [if_pos reset, if_pos reset]
    exact ⟨rfl, rfl⟩
  · rw [if_neg reset, if_neg reset]
    exact ⟨rfl, rfl⟩

/-- Power is lost: reset, with PFAIL_N and management forgotten. -/
def powerLost (s : State) : State := { updCfg (fun c => { c with pfail := false }) (afterReset s) with mgt := {} }

theorem powerLost_survives (s : State) : Survives s (powerLost s) := ⟨rfl, rfl, rfl, rfl, rfl, rfl, rfl, rfl, rfl, rfl, rfl, rfl, rfl, rfl⟩

theorem exec_fabricLost (s : State) : exec (.clockInputLost .fabric) s = .next (each portLost [0, 1, 2, 3] s) := rfl

theorem exec_afeLost (s : State) : exec (.clockInputLost .afe) s = .next (each linkLost [0, 1, 2, 3] s) := rfl

theorem port_mem {p : Nat} (hp : p < 4) : p ∈ [0, 1, 2, 3] := by
  simp
  omega

/-- Settles O46: what survives a reset is `Survives`; a Dusk ends with one more journal unit (`duskUnit_logs`), and a lost clock takes ports and
links down one after the other (`each_sets`). -/
theorem duskAndPowerLossKeepWhatSurvives : Obligations.DuskAndPowerLossKeepWhatSurvives := by
  unfold Obligations.DuskAndPowerLossKeepWhatSurvives
  intro s
  refine ⟨fun cause running noDusk => runs_duskBegin running noDusk cause, fun d dusk on closed => ?off, fun d dusk off ready => ?complete,
    runs_pfailDeassert, ?power, ⟨_, rfl, rfl⟩, ⟨_, rfl, rfl⟩, ⟨_, exec_fabricLost s, fun p hp => ?fabric⟩, ⟨_, exec_afeLost s, fun k hk => ?afe⟩,
    fun running noDusk => ?sys⟩
  case off =>
    refine ⟨_, exec_duskDomainsOff dusk on closed, rfl, fun n mem => ?_, fun n pos other => ?_, rfl, rfl, fun k => rxAt_linksSwitchedOff k _, rfl, rfl⟩
    · have pos : ∀ n ∈ duskDomains, 1 ≤ n := by decide
      rw [domOn_switchedOff, domOn_duskDomains (pos n mem)]
      simp [mem]
    · rw [domOn_switchedOff, domOn_duskDomains pos]
      simp [other]
  case complete =>
    by_cases up : s.shd.ready = true
    · obtain ⟨v, runs, frame, lossLog, clock, jlog⟩ := runs_duskComplete_sheltered dusk off up (ready.resolve_left (ne_false_of_eq_true up))
      have kept := enterReset_survives d.cause v
      have st := enterReset_st d.cause v
      have cfg : v.cfg = s.cfg := frame.same .cfg rfl
      have cip : v.cip = s.cip := frame.same .cip rfl
      have mgt : v.mgt = s.mgt := frame.same .mgt rfl
      rw [cfg] at st
      exact ⟨_, runs, kept.dusk, st.1, st.2, kept.hostMem.trans (frame.same .hostMem rfl), kept.cartMem.trans (frame.same .cartMem rfl),
        kept.norMem.trans (frame.same .norMem rfl), kept.pending.trans (frame.same .pending rfl), kept.fuses.trans (congrArg Cfg.fuses cfg),
        kept.serviceArea.trans (congrArg Cfg.serviceArea cfg), kept.keyArea.trans (congrArg Cip.keyArea cip), kept.lossLog.trans lossLog, kept.cmds,
        kept.writes, (enterReset_i3cAddr ..).trans (congrArg Mgt.i3cAddr mgt), fun down => absurd up (ne_true_of_eq_false down),
        fun _ => ⟨clock, kept.jlog.trans jlog⟩⟩
    · have kept := enterReset_survives d.cause s
      have st := enterReset_st d.cause s
      exact ⟨_, exec_duskComplete_down dusk off (Bool.eq_false_iff.mpr up), kept.dusk, st.1, st.2, kept.hostMem, kept.cartMem, kept.norMem, kept.pending,
        kept.fuses, kept.serviceArea, kept.keyArea, kept.lossLog, kept.cmds, kept.writes, enterReset_i3cAddr .., fun _ => ⟨kept.units, kept.jlog⟩,
        fun ready => absurd ready up⟩
  case power =>
    have kept := powerLost_survives s
    exact ⟨powerLost s, rfl, rfl, kept.dusk, rfl, kept.hostMem, kept.cartMem, kept.norMem, kept.pending, kept.fuses, kept.serviceArea, kept.keyArea,
      kept.units, kept.jlog, kept.ckpt, kept.cmds, kept.writes, rfl, rfl⟩
  case fabric =>
    exact each_sets (P := fun p v => (portAt v p).st = .down) portLost_down portLost_keeps [0, 1, 2, 3] s p (port_mem hp)
  case afe =>
    have down := each_sets (P := fun k v => (rxAt v k).up = false) (fun k v => (linkLost_up k k v).trans (if_pos rfl))
      (fun j k v down => by rw [linkLost_up, down, ite_self]) [0, 1, 2, 3] s k (port_mem hk)
    have acquire := each_inv (f := linkLost) (P := LostAcquire s) [0, 1, 2, 3] (fun k up down => absurd up (ne_true_of_eq_false down))
      fun j _ v lost => linkLost_acquires lost j
    exact ⟨down, fun up => acquire k up down⟩
  case sys =>
    have begun := beginDusk_spec (cause := .reset) running noDusk
    exact ⟨_, rfl, begun.1, begun.2.2.1⟩

end Sys2Proof.Machine
end

/-! What a step does to the queue, the frame of every command, and reset (O1, O2, O3). -/

section

namespace Sys2Proof.Machine

/-- Settles O1: the definition of a step, one equation for each shape of the queue. -/
theorem stepRunsTheFrontCommandElseIdles : Obligations.StepRunsTheFrontCommandElseIdles :=
  ⟨fun _ _ _ front => step_of_pending_cons front, fun _ empty => step_of_pending_nil empty⟩

/-- No command lists the queue of waiting commands among what it may change. -/
theorem pending_not_mayChange (c : Instr) : Fld.pending ∉ mayChange c := by
  cases c <;> exact Laws.Parts.of_elem rfl

/-- Settles O2: the frame of a command is a next state, and says what is left alone; the queue is outside every frame. -/
theorem everyCommandAnswersAndChangesOnlyItsParts : Obligations.EveryCommandAnswersAndChangesOnlyItsParts := by
  intro c s
  obtain ⟨t, answered, frame⟩ := exec_frame c s
  exact ⟨t, answered, frame.same .pending (maskOf_testBit _ _ (pending_not_mayChange c)), frame.only _ (Nat.or_self _)⟩

/-- Settles O3: reset lists nothing in the memories and counters, and every violation register is 0. -/
theorem invariantHoldsAtReset : Obligations.InvariantHoldsAtReset := by
  unfold Obligations.InvariantHoldsAtReset
  constructor <;> decide

end Sys2Proof.Machine
end

/-! Yard messages, epoch records, journal entries and Loss Log entries read back as they were written (O60). -/

section

namespace Sys2Proof.Machine

/-! ## Fields of a byte string -/

theorem crc32_lt (b : Bytes) : crc32 b < 2 ^ 32 := BitVec.isLt _

/-- A field of the part that a string ends in. -/
theorem beAt_append_right {a b : Bytes} {i n : Nat} (past : a.length ≤ i) : beAt (a ++ b) i n = beAt b (i - a.length) n := by
  unfold beAt slice
  rw [List.drop_append, List.drop_eq_nil_of_le past, List.nil_append]

/-- A field of the part that a string begins with. -/
theorem beAt_append_left {a b : Bytes} {i n : Nat} (within : i + n ≤ a.length) : beAt (a ++ b) i n = beAt a i n := by
  unfold beAt slice
  rw [List.drop_append_of_le_length (by omega), List.take_append_of_le_length (by rw [List.length_drop]; omega)]

theorem beAt_be_mod {n v : Nat} (b : Bytes) : beAt (be n v ++ b) 0 n = v % 256 ^ n := by
  simp [beAt, slice, beVal_be]

/-- The number that a string begins with. -/
theorem beAt_be {n v : Nat} (b : Bytes) (fits : v < 256 ^ n) : beAt (be n v ++ b) 0 n = v := by
  rw [beAt_be_mod, Nat.mod_eq_of_lt fits]

/-- A field behind a number. -/
theorem beAt_be_skip {k v i n : Nat} (b : Bytes) (past : k ≤ i) : beAt (be k v ++ b) i n = beAt b (i - k) n := by
  rw [beAt_append_right (by rwa [be_length]), be_length]

theorem slice_be_skip {k v i n : Nat} (b : Bytes) (past : k ≤ i) : slice (be k v ++ b) i n = slice b (i - k) n := by
  unfold slice
  rw [List.drop_append, List.drop_eq_nil_of_le (by rwa [be_length]), List.nil_append, be_length]

theorem fit_of_length_le {b : Bytes} {n : Nat} (h : b.length ≤ n) : fit b n = b ++ zeros (n - b.length) := by
  rw [fit, List.take_of_length_le h]

theorem flatMap_be_length (k n : Nat) (f : Nat → Nat) : ((List.range n).flatMap fun i => be k (f i)).length = k * n := by
  simp [List.length_flatMap, Nat.mul_comm]

/-- A field behind a table of numbers written one behind another. -/
theorem beAt_flatMap_be_skip {k n i m : Nat} (f : Nat → Nat) (b : Bytes) (past : k * n ≤ i) :
    beAt (((List.range n).flatMap fun i => be k (f i)) ++ b) i m = beAt b (i - k * n) m := by
  rw [beAt_append_right (by rwa [flatMap_be_length]), flatMap_be_length]

/-- A number of such a table. -/
theorem beAt_flatMap_be {k n i : Nat} (f : Nat → Nat) (b : Bytes) (below : i < n) :
    beAt (((List.range n).flatMap fun i => be k (f i)) ++ b) (k * i) k = f i % 256 ^ k := by
  induction n generalizing b with
  | zero => omega
  | succ n ih =>
    rw [List.range_succ, List.flatMap_append, List.flatMap_singleton, List.append_assoc]
    obtain earlier | rfl := Nat.lt_succ_iff_lt_or_eq.mp below
    · exact ih _ earlier
    · rw [beAt_flatMap_be_skip _ _ le_rfl, Nat.sub_self, beAt_be_mod]

/-! ## Numbers written digit by digit -/

/-- The number in base B whose digits a table lists by place. -/
def placeSum (B : Nat) (m : AMap Nat) : Nat := m.foldr (fun x n => x.2 * B ^ x.1 + n) 0

theorem foldl_add_placeSum {α : Type} (B : Nat) (f : α → Nat × Nat) (xs : List α) (n : Nat) :
    xs.foldl (fun n x => n + (f x).2 * B ^ (f x).1) n = n + placeSum B (xs.map f) := by
  induction xs generalizing n with
  | nil => rfl
  | cons x xs ih => exact (ih _).trans (Nat.add_assoc ..)

theorem pow_dvd_placeSum {B i : Nat} {m : AMap Nat} (above : ∀ k ∈ m.map Prod.fst, i ≤ k) : B ^ i ∣ placeSum B m := by
  induction m with
  | nil => exact Nat.dvd_zero _
  | cons x m ih =>
    have first : B ^ i ∣ x.2 * B ^ x.1 := (Nat.pow_dvd_pow B (above x.1 List.mem_cons_self)).mul_left _
    exact Nat.dvd_add first (ih fun k mem => above k (List.mem_cons_of_mem _ mem))

/-- The digit at a place is the value that the table lists for it. -/
theorem placeSum_digit {B : Nat} {m : AMap Nat} (wf : AMap.wf m = true) (digits : ∀ x ∈ m, x.2 < B) (t : Nat) :
    placeSum B m / B ^ t % B = AMap.getD m t 0 := by
  induction m with
  | nil => simp [placeSum, AMap.getD]
  | cons x m ih =>
    obtain ⟨above, rest⟩ := wf_cons.mp wf
    have digit : x.2 < B := digits x List.mem_cons_self
    have pos : ∀ i, 0 < B ^ i := fun i => Nat.pow_pos (by omega)
    obtain ⟨q, hq⟩ : B ^ (x.1 + 1) ∣ placeSum B m := pow_dvd_placeSum above
    have whole : placeSum B (x :: m) = B ^ x.1 * (x.2 + B * q) := by
      show x.2 * B ^ x.1 + placeSum B m = _
      rw [hq, Nat.pow_succ]
      ring
    obtain lower | rfl | higher := Nat.lt_trichotomy t x.1
    · have keys : ∀ k ∈ (x :: m).map Prod.fst, t < k := fun k mem => by
        obtain rfl | mem := List.mem_cons.mp mem
        · exact lower
        · exact lower.trans (above k mem)
      obtain ⟨p, hp⟩ : B ^ (t + 1) ∣ placeSum B (x :: m) := pow_dvd_placeSum keys
      rw [hp, AMap.getD, get?_of_below keys, Nat.pow_succ, Nat.mul_assoc, Nat.mul_div_cancel_left _ (pos t), Nat.mul_mod_right]
      rfl
    · rw [whole, Nat.mul_div_cancel_left _ (pos _), Nat.add_mul_mod_self_left, Nat.mod_eq_of_lt digit, AMap.getD,
        get?_of_mem wf List.mem_cons_self]
      rfl
    · obtain ⟨j, rfl⟩ : ∃ j, t = x.1 + 1 + j := ⟨t - (x.1 + 1), by omega⟩
      have listed : AMap.getD (x :: m) (x.1 + 1 + j) 0 = AMap.getD m (x.1 + 1 + j) 0 :=
        congrArg (fun o : Option Nat => o.getD 0) (if_neg (by omega : x.1 + 1 + j ≠ x.1))
      have shifted : placeSum B (x :: m) / B ^ (x.1 + 1 + j) = placeSum B m / B ^ (x.1 + 1 + j) := by
        rw [whole, hq, Nat.pow_add, ← Nat.div_div_eq_div_mul, ← Nat.div_div_eq_div_mul, Nat.mul_div_cancel_left _ (pos _), Nat.pow_succ,
          ← Nat.div_div_eq_div_mul, Nat.mul_div_cancel_left _ (pos _), Nat.add_mul_div_left _ _ (by omega), Nat.div_eq_of_lt digit, Nat.zero_add]
      rw [listed, shifted, ih rest fun y mem => digits y (List.mem_cons_of_mem _ mem)]

/-- A number cut to n digits keeps each of them. -/
theorem mod_pow_digit {B n t : Nat} (v : Nat) (below : t < n) : v % B ^ n / B ^ t % B = v / B ^ t % B := by
  rw [← Nat.add_sub_of_le below.le, Nat.pow_add, Nat.mod_mul_right_div_self, Nat.mod_mod_of_dvd _ (dvd_pow_self _ (by omega))]

/-- The number whose bits stand at the places listed. -/
def bitSum (ks : List Nat) : Nat := placeSum 2 (ks.map (·, 1))

theorem foldl_add_bitSum (ks : List Nat) (n : Nat) : ks.foldl (fun n k => n + 2 ^ k) n = n + bitSum ks := by
  simpa [bitSum] using foldl_add_placeSum 2 (·, 1) ks n

theorem mem?_iff {m : AMap Unit} {i : Nat} : mem? m i = true ↔ i ∈ m.map Prod.fst := by
  constructor
  · intro held
    obtain ⟨v, found⟩ := Option.isSome_iff_exists.mp held
    exact List.mem_map_of_mem (mem_of_get? found)
  · intro mem
    induction m with
    | nil => cases mem
    | cons x m ih =>
      by_cases here : i = x.1
      · exact congrArg Option.isSome (if_pos here)
      · exact (congrArg Option.isSome (if_neg here)).trans (ih ((List.mem_cons.mp mem).resolve_left here))

/-- The bits of a field written from the places listed. -/
theorem bit_bitSum {ks : List Nat} {n t : Nat} (rising : ks.Pairwise (· < ·)) (below : t < n) : bit (bitSum ks % 2 ^ n) t = true ↔ t ∈ ks := by
  have keys : (ks.map (·, 1)).map Prod.fst = ks := by rw [List.map_map]; exact List.map_id ks
  have wf : AMap.wf (ks.map (·, 1)) = true := by simpa [AMap.wf, keys] using rising
  have ones : ∀ x ∈ ks.map (·, 1), x.2 < 2 := by simp
  rw [bit, bitSum, mod_pow_digit _ below, placeSum_digit wf ones, beq_iff_eq]
  constructor
  · intro held
    by_contra absent
    cases found : AMap.get? (ks.map (·, 1)) t with
    | none => simp [AMap.getD, found] at held
    | some v => exact absent (keys ▸ List.mem_map_of_mem (mem_of_get? found))
  · intro mem
    rw [AMap.getD, get?_of_mem wf (x := (t, 1)) (List.mem_map_of_mem mem)]
    rfl

/-! ## Tables written out in full -/

theorem tabulate_rising {α : Type} (f : Nat → α) (n : Nat) : ((List.range n).map fun i => (i, f i)).Pairwise fun x y => x.1 < y.1 :=
  List.pairwise_map.mpr List.pairwise_lt_range

/-- A table is what its entries of every number below a bound give, when the default stands for an unlisted key. -/
theorem filter_range_getD {α : Type} {m : AMap α} {n : Nat} {d : α} {p : α → Bool} (wf : AMap.wf m = true) (below : ∀ x ∈ m, x.1 < n)
    (kept : ∀ x ∈ m, p x.2 = true) (default : p d = false) :
    (((List.range n).map fun i => (i, AMap.getD m i d)).filter fun x => p x.2) = m := by
  have rising : (((List.range n).map fun i => (i, AMap.getD m i d)).filter fun x => p x.2).Pairwise fun x y => x.1 < y.1 :=
    (tabulate_rising _ n).filter _
  have rising' : m.Pairwise fun x y => x.1 < y.1 := List.pairwise_map.mp (of_decide_eq_true wf)
  have : Std.Irrefl fun x y : Nat × α => x.1 < y.1 := ⟨fun x => Nat.lt_irrefl x.1⟩
  refine rising.eq_of_mem_iff rising' fun x => ?_
  simp only [List.mem_filter, List.mem_map, List.mem_range]
  constructor
  · rintro ⟨⟨i, -, rfl⟩, keep⟩
    cases found : AMap.get? m i with
    | none => simp [AMap.getD, found, default] at keep
    | some v =>
      rw [AMap.getD, found]
      exact mem_of_get? found
  · intro mem
    exact ⟨⟨x.1, below x mem, by rw [AMap.getD, get?_of_mem wf mem]; rfl⟩, kept x mem⟩

/-- What a table read in full gives for a number, and the default beyond its bound. -/
theorem get?_tabulate {f : Nat → Nat} {n t : Nat} :
    AMap.getD (((List.range n).map fun t => (t, f t)).filter fun x => x.2 != 0) t 0 = if t < n then f t else 0 := by
  have wf : AMap.wf (((List.range n).map fun t => (t, f t)).filter fun x => x.2 != 0) = true :=
    decide_eq_true (List.pairwise_map.mpr ((tabulate_rising f n).filter _))
  have listed : ∀ {x}, x ∈ ((List.range n).map fun t => (t, f t)).filter (fun x => x.2 != 0) ↔ x.1 < n ∧ x.2 = f x.1 ∧ x.2 ≠ 0 := by
    intro x
    simp only [List.mem_filter, List.mem_map, List.mem_range, bne_iff_ne]
    constructor
    · rintro ⟨⟨i, below, rfl⟩, nonzero⟩
      exact ⟨below, rfl, nonzero⟩
    · rintro ⟨below, value, nonzero⟩
      exact ⟨⟨x.1, below, Prod.ext rfl value.symm⟩, nonzero⟩
  by_cases here : t < n ∧ f t ≠ 0
  · rw [AMap.getD, get?_of_mem wf (x := (t, f t)) (listed.mpr ⟨here.1, rfl, here.2⟩), if_pos here.1]
    rfl
  · have absent : AMap.get? (((List.range n).map fun t => (t, f t)).filter fun x => x.2 != 0) t = none := by
      by_contra some
      obtain ⟨v, found⟩ := Option.ne_none_iff_exists'.mp some
      obtain ⟨below, value, nonzero⟩ := listed.mp (mem_of_get? found)
      exact here ⟨below, value ▸ nonzero⟩
    rw [AMap.getD, absent]
    split <;> simp_all

theorem mem_bitSet {n v i : Nat} : i ∈ (bitSet n v).map Prod.fst ↔ i < n ∧ bit v i = true := by
  simp [bitSet]

/-! ## Yard messages (R377) -/

theorem msgHead_length (m : YMsg) : (msgHead m).length = 28 := by simp [msgHead]

/-- The sums that a message carries are those of its bytes, so it is read. -/
theorem msgParse_msgBytes {m : YMsg} (type : m.type < 2 ^ 8) (seg : m.seg < 2 ^ 16) (epoch : m.epoch < 2 ^ 32) (yard : m.yard < 2 ^ 64)
    (stripe : m.stripe < 2 ^ 32) (src : m.src < 2 ^ 8) (dst : m.dst < 2 ^ 8) (role : m.role < 2 ^ 8) (slot : m.slot < 2 ^ 8) :
    msgParse (msgBytes m) = some m := by
  have sum : (if m.payload = [] then 0 else crc32 m.payload) < 2 ^ 32 := by
    split
    · decide
    · exact crc32_lt _
  have headSum : crc32 (msgHead m) < 2 ^ 32 := crc32_lt _
  have payload : (msgBytes m).drop 32 = m.payload := by
    rw [msgBytes, List.drop_append, List.drop_eq_nil_of_le] <;> simp [msgHead_length]
  have head : (msgBytes m).take 28 = msgHead m := by
    rw [msgBytes, List.append_assoc, List.take_append_of_le_length (by rw [msgHead_length]), List.take_of_length_le (by rw [msgHead_length])]
  have length : ¬ (msgBytes m).length < 32 := by
    simp only [msgBytes, List.length_append, msgHead_length, be_length]
    omega
  simp only [msgParse, payload, head, length, false_or]
  rw [msgBytes]
  generalize crc32 (msgHead m) = c at *
  rw [msgHead]
  generalize (if m.payload = [] then 0 else crc32 m.payload) = d at *
  simp (disch := omega) [List.append_assoc, beAt_be_skip, beAt_be]

/-! ## Epoch records and Loss Log entries (R373, R378) -/

/-- The word of a member holds its state above its host. -/
theorem bits_stateHost {st host : Nat} (state : st < 4) (node : host < 2 ^ 16) :
    bits (st * 2 ^ 30 + host) 31 30 = st ∧ bits (st * 2 ^ 30 + host) 15 0 = host := by
  unfold bits
  omega

/-- The word of a member in an epoch record. -/
def memberWord (r : EpochRec) (i : Nat) : Nat := (AMap.getD r.map i (3, 0)).1 * 2 ^ 30 + (AMap.getD r.map i (3, 0)).2 % 65536

theorem recBytes_eq (r : EpochRec) :
    recBytes r = be 4 r.epoch ++ be 4 r.boundary ++ be 4 r.gen ++ (List.range 64).flatMap fun i => be 4 (memberWord r i) := rfl

theorem recParse_recBytes {r : EpochRec} (epoch : r.epoch < 2 ^ 32) (boundary : r.boundary < 2 ^ 32) (gen : r.gen < 2 ^ 32)
    (wf : AMap.wf r.map = true) (members : ∀ x ∈ r.map, x.1 < 64 ∧ x.2.1 < 3 ∧ x.2.2 < 2 ^ 16) : recParse r.leader (recBytes r) = r := by
  have entry : ∀ i, (AMap.getD r.map i (3, 0)).1 < 4 ∧ (AMap.getD r.map i (3, 0)).2 < 2 ^ 16 := fun i => by
    unfold AMap.getD
    cases found : AMap.get? r.map i with
    | none => exact ⟨by decide, by decide⟩
    | some x =>
      obtain ⟨-, state, host⟩ := members _ (mem_of_get? found)
      exact ⟨state.trans (by decide), host⟩
  have word : ∀ i < 64, beAt (recBytes r) (12 + 4 * i) 4 = (AMap.getD r.map i (3, 0)).1 * 2 ^ 30 + (AMap.getD r.map i (3, 0)).2 := fun i below => by
    obtain ⟨state, host⟩ := entry i
    have value : memberWord r i = (AMap.getD r.map i (3, 0)).1 * 2 ^ 30 + (AMap.getD r.map i (3, 0)).2 :=
      congrArg (_ + ·) (Nat.mod_eq_of_lt host)
    have words := beAt_flatMap_be (k := 4) (memberWord r) [] below
    rw [List.append_nil, Nat.mod_eq_of_lt (by rw [value]; omega)] at words
    rw [recBytes_eq]
    simp (disch := omega) only [List.append_assoc, beAt_be_skip]
    rw [← value, ← words]
    congr 1
    omega
  have map : (((List.range 64).map fun i => let v := beAt (recBytes r) (12 + 4 * i) 4; (i, bits v 31 30, bits v 15 0)).filter fun x => x.2.1 != 3) = r.map := by
    have same : ((List.range 64).map fun i => let v := beAt (recBytes r) (12 + 4 * i) 4; (i, bits v 31 30, bits v 15 0))
        = (List.range 64).map fun i => (i, AMap.getD r.map i (3, 0)) := List.map_congr_left fun i mem => by
      obtain ⟨state, host⟩ := entry i
      obtain ⟨first, second⟩ := bits_stateHost state host
      simp only [word i (List.mem_range.mp mem), first, second]
    rw [same]
    refine filter_range_getD (d := (3, 0)) (p := fun v => v.1 != 3) wf (fun x mem => (members x mem).1) (fun x mem => ?_) rfl
    obtain ⟨-, state, -⟩ := members x mem
    exact bne_iff_ne.mpr (Nat.ne_of_lt state)
  rw [recParse, map]
  simp (disch := omega) [recBytes, List.append_assoc, beAt_be_skip, beAt_be]

theorem lossParse_lossMsg {l : Loss} (yard : l.yard < 2 ^ 64) (stripe : l.stripe < 2 ^ 32) (member : l.member < 2 ^ 8) (part : l.part < 2 ^ 8)
    (cause : l.cause < 2 ^ 8) (ds : l.ds < 2 ^ 32) (count : l.count < 2 ^ 32) (first : l.first < 2 ^ 64) (epoch : l.epoch < 2 ^ 32)
    (erasures : l.erasures < 2 ^ 32) (serial : l.serial.length = 20) : lossParse (lossMsg l) = l := by
  have written : slice (l.serial ++ (zeros 0 ++ zeros 4)) 0 20 = l.serial := by
    rw [slice, List.drop_zero, List.take_append_of_le_length serial.ge, List.take_of_length_le serial.le]
  simp (disch := omega) [lossParse, lossMsg, List.append_assoc, beAt_be_skip, slice_be_skip, beAt_be, fit_of_length_le serial.le, serial, written]

/-! ## Journal entries (R355) -/

/-- The slot states of an entry, two bits each. -/
def slotWord (e : JEntry) : Nat := placeSum 4 (e.slots.map fun x => (x.1, x.2 % 4))

/-- The slots done for a role. -/
def doneSlots (e : JEntry) (r : Nat) : List Nat := ((e.done.map Prod.fst).filter (· / 32 = r)).map (· % 32)

/-- An entry's bytes before their sum. -/
def entryBody (e : JEntry) : Bytes :=
  be 4 e.stripe ++ be 4 e.epoch ++ be 1 (stateCode e.st) ++ be 1 e.k ++ be 1 e.m ++ be 1 (b2n (e.standIns != [])) ++ be 4 e.gen
    ++ be 8 (slotWord e) ++ (List.range 4).flatMap (fun r => be 4 (bitSum (doneSlots e r)))
    ++ be 4 (bitSum (e.laid.map (·.1 - 1))) ++ be 4 (bitSum (e.acks.map Prod.fst)) ++ be 4 e.ms
    ++ ((List.range 4).flatMap (fun r => be 2 (AMap.getD e.holders (r + 1) 0)) ++ zeros 64)

theorem foldl_done (m : AMap Unit) (r : Nat) :
    m.foldl (fun n (i, _) => if i / 32 = r then n + 2 ^ (i % 32) else n) 0 = bitSum (((m.map Prod.fst).filter (· / 32 = r)).map (· % 32)) := by
  rw [← Nat.zero_add (bitSum _), ← foldl_add_bitSum, List.foldl_map, List.foldl_filter, List.foldl_map]
  simp

theorem foldl_places (f : Nat → Nat) (m : AMap Unit) : m.foldl (fun n (j, _) => n + 2 ^ f j) 0 = bitSum (m.map fun x => f x.1) := by
  rw [← Nat.zero_add (bitSum _), ← foldl_add_bitSum, List.foldl_map]

theorem foldl_slots (m : AMap Nat) : m.foldl (fun n (t, v) => n + v % 4 * 4 ^ t) 0 = placeSum 4 (m.map fun x => (x.1, x.2 % 4)) :=
  (foldl_add_placeSum 4 (fun x => (x.1, x.2 % 4)) m 0).trans (Nat.zero_add _)

theorem entryBytes_eq (e : JEntry) : entryBytes e = entryBody e ++ be 4 (crc32 (entryBody e)) := by
  have holders : fit ((List.range 4).flatMap fun r => be 2 (AMap.getD e.holders (r + 1) 0)) 72
      = (List.range 4).flatMap (fun r => be 2 (AMap.getD e.holders (r + 1) 0)) ++ zeros 64 := by
    rw [fit_of_length_le (by rw [flatMap_be_length]; decide), flatMap_be_length]
  have laid : e.laid.foldl (fun n (j, _) => n + 2 ^ (j - 1)) 0 = bitSum (e.laid.map (·.1 - 1)) := foldl_places (· - 1) e.laid
  have acks : e.acks.foldl (fun n (t, _) => n + 2 ^ t) 0 = bitSum (e.acks.map Prod.fst) := foldl_places id e.acks
  simp only [entryBytes, entryBody, slotWord, doneSlots, holders, foldl_slots, foldl_done, laid, acks]

theorem entryBody_length (e : JEntry) : (entryBody e).length = 124 := by
  simp [entryBody]

theorem stateOf_stateCode (x : StripeSt) : stateOf (stateCode x) = x := by cases x <;> rfl

theorem stateCode_lt (x : StripeSt) : stateCode x < 256 := by cases x <;> decide

/-- What the fields of an entry's bytes say. -/
def entryRead (b : Bytes) : JEntry :=
  { stripe := beAt b 0 4, epoch := beAt b 4 4, st := stateOf (beAt b 8 1), k := beAt b 9 1, m := beAt b 10 1, gen := beAt b 12 4,
    slots := ((List.range 32).map fun t => (t, beAt b 16 8 / 4 ^ t % 4)).filter fun x => x.2 != 0
    done := (List.range 4).flatMap fun r => (bitSet 32 (beAt b (24 + 4 * r) 4)).map fun x => (32 * r + x.1, ())
    laid := (bitSet 4 (beAt b 40 4)).map fun x => (x.1 + 1, ()), acks := bitSet 32 (beAt b 44 4), ms := beAt b 48 4
    holders := (List.range (min (beAt b 10 1) 4)).map fun r => (r + 1, beAt b (52 + 2 * r) 2)
    standIns := if bit (beAt b 11 1) 0 then [(0, ())] else [] }

theorem entryParse_of_sum {b : Bytes} (length : b.length = 128) (sum : beAt b 124 4 = crc32 (b.take 124)) :
    entryParse b = some (entryRead b) := by
  rw [entryParse, if_neg (not_or.mpr ⟨not_not.mpr length, not_not.mpr sum⟩)]
  rfl

section Entry

variable {e : JEntry}

/-- A field in front of an entry's sum. -/
theorem beAt_entryBytes {i n : Nat} (within : i + n ≤ 124) : beAt (entryBytes e) i n = beAt (entryBody e) i n := by
  rw [entryBytes_eq, beAt_append_left (by rwa [entryBody_length])]

theorem entryBytes_length : (entryBytes e).length = 128 := by
  rw [entryBytes_eq, List.length_append, entryBody_length, be_length]

theorem entryBytes_sum : beAt (entryBytes e) 124 4 = crc32 ((entryBytes e).take 124) := by
  have body : (entryBytes e).take 124 = entryBody e := by rw [entryBytes_eq, List.take_left' (entryBody_length e)]
  have sum := beAt_append (entryBody e) [] 4 (crc32 (entryBody e))
  rwa [entryBody_length, List.append_nil, ← entryBytes_eq, Nat.mod_eq_of_lt (show crc32 (entryBody e) < 256 ^ 4 from crc32_lt _), ← body] at sum

/-- The numbers that stand at fixed places. -/
theorem entryBytes_fields (stripe : e.stripe < 2 ^ 32) (epoch : e.epoch < 2 ^ 32) (k : e.k < 2 ^ 8) (m : e.m ≤ 4) (gen : e.gen < 2 ^ 32)
    (ms : e.ms < 2 ^ 32) :
    beAt (entryBytes e) 0 4 = e.stripe ∧ beAt (entryBytes e) 4 4 = e.epoch ∧ beAt (entryBytes e) 8 1 = stateCode e.st
      ∧ beAt (entryBytes e) 9 1 = e.k ∧ beAt (entryBytes e) 10 1 = e.m ∧ beAt (entryBytes e) 12 4 = e.gen
      ∧ beAt (entryBytes e) 16 8 = slotWord e % 4 ^ 32 ∧ beAt (entryBytes e) 40 4 = bitSum (e.laid.map (·.1 - 1)) % 2 ^ 32
      ∧ beAt (entryBytes e) 44 4 = bitSum (e.acks.map Prod.fst) % 2 ^ 32 ∧ beAt (entryBytes e) 48 4 = e.ms := by
  have code : stateCode e.st < 256 := stateCode_lt e.st
  refine ⟨?_, ?_, ?_, ?_, ?_, ?_, ?_, ?_, ?_, ?_⟩ <;>
    · rw [beAt_entryBytes (by decide), entryBody]
      simp (disch := omega) only [List.append_assoc, beAt_be_skip, beAt_flatMap_be_skip, beAt_be, beAt_be_mod, Nat.reduceSub, Nat.reduceMul, Nat.reducePow]

/-- The done bits of a role. -/
theorem entryBytes_done {r : Nat} (below : r < 4) : beAt (entryBytes e) (24 + 4 * r) 4 = bitSum (doneSlots e r) % 2 ^ 32 := by
  rw [beAt_entryBytes (by omega), entryBody]
  simp (disch := omega) only [List.append_assoc, beAt_be_skip]
  rw [← show 4 * r = 24 + 4 * r - 4 - 4 - 1 - 1 - 1 - 1 - 4 - 8 by omega]
  exact beAt_flatMap_be _ _ below

/-- The holder of a role. -/
theorem entryBytes_holder {r : Nat} (below : r < 4) (fits : AMap.getD e.holders (r + 1) 0 < 2 ^ 16) :
    beAt (entryBytes e) (52 + 2 * r) 2 = AMap.getD e.holders (r + 1) 0 := by
  rw [beAt_entryBytes (by omega), entryBody]
  simp (disch := omega) only [List.append_assoc, beAt_be_skip, beAt_flatMap_be_skip]
  rw [← show 2 * r = 52 + 2 * r - 4 - 4 - 1 - 1 - 1 - 1 - 4 - 8 - 4 * 4 - 4 - 4 - 4 by omega, beAt_flatMap_be _ _ below,
    Nat.mod_eq_of_lt (show AMap.getD e.holders (r + 1) 0 < 256 ^ 2 from fits)]

/-- The state of a slot, from the entry's word. -/
theorem slotWord_digit (wf : AMap.wf e.slots = true) (fits : ∀ x ∈ e.slots, x.1 < 32 ∧ x.2 < 4) (t : Nat) :
    AMap.getD (((List.range 32).map fun t => (t, slotWord e % 4 ^ 32 / 4 ^ t % 4)).filter fun x => x.2 != 0) t 0 = AMap.getD e.slots t 0 := by
  have listed : (e.slots.map fun x => (x.1, x.2 % 4)) = e.slots := by
    refine (List.map_congr_left fun x mem => ?_).trans (List.map_id _)
    rw [Nat.mod_eq_of_lt (fits x mem).2]
    rfl
  rw [get?_tabulate (f := fun t => slotWord e % 4 ^ 32 / 4 ^ t % 4)]
  split
  case isTrue below => rw [mod_pow_digit _ below, slotWord, listed, placeSum_digit wf fun x mem => (fits x mem).2]
  case isFalse beyond =>
    cases found : AMap.get? e.slots t with
    | none => rw [AMap.getD, found]; rfl
    | some v => exact absurd (fits _ (mem_of_get? found)).1 beyond

theorem rising_doneSlots (wf : AMap.wf e.done = true) (r : Nat) : (doneSlots e r).Pairwise (· < ·) := by
  refine List.pairwise_map.mpr (((of_decide_eq_true wf).filter (· / 32 = r)).imp_of_mem fun {i j} hi hj less => ?_)
  have := of_decide_eq_true (List.mem_filter.mp hi).2
  have := of_decide_eq_true (List.mem_filter.mp hj).2
  omega

/-- The slots done for the roles, from the words of the entry. -/
theorem mem?_done (wf : AMap.wf e.done = true) (fits : ∀ x ∈ e.done, x.1 < 128) (i : Nat) :
    mem? ((List.range 4).flatMap fun r => (bitSet 32 (beAt (entryBytes e) (24 + 4 * r) 4)).map fun x => (32 * r + x.1, ())) i = mem? e.done i := by
  have word : ∀ r < 4, ∀ j < 32, bit (beAt (entryBytes e) (24 + 4 * r) 4) j = true ↔ j ∈ doneSlots e r := fun r hr j hj => by
    rw [entryBytes_done hr, bit_bitSum (rising_doneSlots wf r) hj]
  have slot : ∀ r j, j ∈ doneSlots e r ↔ j < 32 ∧ 32 * r + j ∈ e.done.map Prod.fst := fun r j => by
    simp only [doneSlots, List.mem_map (f := (· % 32)), List.mem_filter, decide_eq_true_eq]
    constructor
    · rintro ⟨i, ⟨mem, rfl⟩, rfl⟩
      exact ⟨Nat.mod_lt _ (by decide), by rwa [Nat.div_add_mod]⟩
    · rintro ⟨below, mem⟩
      exact ⟨_, ⟨mem, by omega⟩, by omega⟩
  rw [Bool.eq_iff_iff, mem?_iff, mem?_iff]
  simp only [List.map_flatMap, List.map_map, List.mem_flatMap, List.mem_range, List.mem_map (f := Prod.fst ∘ _)]
  constructor
  · rintro ⟨r, hr, x, mem, rfl⟩
    obtain ⟨hj, set⟩ := mem_bitSet.mp (List.mem_map_of_mem (f := Prod.fst) mem)
    exact ((slot r x.1).mp ((word r hr x.1 hj).mp set)).2
  · intro mem
    obtain ⟨x, listed, rfl⟩ := List.mem_map.mp mem
    have below : x.1 < 128 := fits x listed
    have hr : x.1 / 32 < 4 := by omega
    have hj : x.1 % 32 < 32 := Nat.mod_lt _ (by decide)
    have set := (word _ hr _ hj).mpr ((slot _ _).mpr ⟨hj, by rwa [Nat.div_add_mod]⟩)
    obtain ⟨y, found, same⟩ := List.mem_map.mp (mem_bitSet.mpr ⟨hj, set⟩)
    exact ⟨_, hr, y, found, by rw [Function.comp_apply, same, Nat.div_add_mod]⟩

/-- The roles laid, from the word of the entry. -/
theorem mem?_laid (wf : AMap.wf e.laid = true) (fits : ∀ x ∈ e.laid, 1 ≤ x.1 ∧ x.1 ≤ 4) (j : Nat) :
    mem? ((bitSet 4 (bitSum (e.laid.map (·.1 - 1)) % 2 ^ 32)).map fun x => (x.1 + 1, ())) j = mem? e.laid j := by
  have rising : (e.laid.map (·.1 - 1)).Pairwise (· < ·) := by
    refine List.pairwise_map.mpr ((List.pairwise_map.mp (of_decide_eq_true wf)).imp_of_mem fun {x y} hx hy less => ?_)
    obtain ⟨_, _⟩ := fits x hx
    omega
  rw [Bool.eq_iff_iff, mem?_iff, mem?_iff, List.map_map]
  constructor
  · intro mem
    obtain ⟨x, listed, rfl⟩ := List.mem_map.mp mem
    obtain ⟨below, set⟩ := mem_bitSet.mp (List.mem_map_of_mem (f := Prod.fst) listed)
    obtain ⟨y, laid, place⟩ := List.mem_map.mp ((bit_bitSum rising (by omega)).mp set)
    obtain ⟨positive, -⟩ := fits y laid
    exact List.mem_map.mpr ⟨y, laid, by rw [Function.comp_apply]; omega⟩
  · intro mem
    obtain ⟨y, laid, rfl⟩ := List.mem_map.mp mem
    obtain ⟨positive, top⟩ := fits y laid
    have set := (bit_bitSum (n := 32) (t := y.1 - 1) rising (by omega)).mpr (List.mem_map_of_mem laid)
    obtain ⟨x, listed, same⟩ := List.mem_map.mp (mem_bitSet.mpr ⟨(by omega : y.1 - 1 < 4), set⟩)
    exact List.mem_map.mpr ⟨x, listed, by rw [Function.comp_apply]; omega⟩

/-- The members that have acknowledged, from the word of the entry. -/
theorem mem?_acks (wf : AMap.wf e.acks = true) (fits : ∀ x ∈ e.acks, x.1 < 32) (t : Nat) :
    mem? (bitSet 32 (bitSum (e.acks.map Prod.fst) % 2 ^ 32)) t = mem? e.acks t := by
  rw [Bool.eq_iff_iff, mem?_iff, mem?_iff, mem_bitSet]
  constructor
  · rintro ⟨below, set⟩
    exact (bit_bitSum (of_decide_eq_true wf) below).mp set
  · intro mem
    obtain ⟨x, listed, rfl⟩ := List.mem_map.mp mem
    have below : x.1 < 32 := fits x listed
    exact ⟨below, (bit_bitSum (of_decide_eq_true wf) below).mpr mem⟩

/-- The holders of an entry, from their places. -/
theorem entryBytes_holders (m : e.m ≤ 4) (all : e.holders = (List.range e.m).map fun r => (r + 1, AMap.getD e.holders (r + 1) 0))
    (fits : ∀ x ∈ e.holders, x.2 < 2 ^ 16) :
    ((List.range (min e.m 4)).map fun r => (r + 1, beAt (entryBytes e) (52 + 2 * r) 2)) = e.holders := by
  rw [Nat.min_eq_left m]
  refine (List.map_congr_left fun r mem => ?_).trans all.symm
  have below : r < e.m := List.mem_range.mp mem
  have holder : (r + 1, AMap.getD e.holders (r + 1) 0) ∈ e.holders := by
    have listed := List.mem_map_of_mem (f := fun r => (r + 1, AMap.getD e.holders (r + 1) 0)) mem
    rwa [← all] at listed
  rw [entryBytes_holder (by omega) (fits _ holder)]

end Entry

/-- Settles O60: each field is read at the place where it was written. A number written digit by digit, one digit for each key of a
table in order, has at each place the value that the table lists for it; so the slot states and the bit maps are read as they were. -/
theorem yardEncodingsKeepTheirFields : Obligations.YardEncodingsKeepTheirFields := by
  unfold Obligations.YardEncodingsKeepTheirFields
  refine ⟨fun m type seg epoch yard stripe src dst role slot => msgParse_msgBytes type seg epoch yard stripe src dst role slot,
    fun r epoch boundary gen wf members => recParse_recBytes epoch boundary gen wf members,
    fun l yard stripe member part cause ds count first epoch erasures serial =>
      lossParse_lossMsg yard stripe member part cause ds count first epoch erasures serial, ?_⟩
  intro e stripe epoch k m gen ms all hosts slots slotsFit done doneFit laid laidFit acks acksFit
  obtain ⟨atStripe, atEpoch, atState, atK, atM, atGen, atSlots, atLaid, atAcks, atMs⟩ := entryBytes_fields stripe epoch k m gen ms
  have slotsRead : (entryRead (entryBytes e)).slots = ((List.range 32).map fun t => (t, slotWord e % 4 ^ 32 / 4 ^ t % 4)).filter fun x => x.2 != 0 := by
    rw [entryRead, atSlots]
  have laidRead : (entryRead (entryBytes e)).laid = (bitSet 4 (bitSum (e.laid.map (·.1 - 1)) % 2 ^ 32)).map fun x => (x.1 + 1, ()) := by
    rw [entryRead, atLaid]
  have acksRead : (entryRead (entryBytes e)).acks = bitSet 32 (bitSum (e.acks.map Prod.fst) % 2 ^ 32) := by rw [entryRead, atAcks]
  have holdersRead : (entryRead (entryBytes e)).holders = e.holders := by
    rw [entryRead, atM]
    exact entryBytes_holders m all hosts
  have stateRead : (entryRead (entryBytes e)).st = e.st := by rw [entryRead, atState, stateOf_stateCode]
  have doneRead := mem?_done done doneFit
  refine ⟨entryBytes_length, entryRead (entryBytes e), entryParse_of_sum entryBytes_length entryBytes_sum, ?_, ?_, stateRead, ?_, ?_, ?_, ?_,
    holdersRead, ?slots, doneRead, ?laid, ?acks⟩
  case slots =>
    rw [slotsRead]
    exact slotWord_digit slots slotsFit
  case laid =>
    rw [laidRead]
    exact mem?_laid laid laidFit
  case acks =>
    rw [acksRead]
    exact mem?_acks acks acksFit
  all_goals simp only [entryRead, atStripe, atEpoch, atK, atM, atGen, atMs]

end Sys2Proof.Machine
end

/-! Telemetry and the I3C target, the periodic pins and the trace (O33). -/

section

namespace Sys2Proof.Machine

section Report

/-! ## The report (R435) -/

theorem append_regroup (a x b c d : Bytes) : a ++ x ++ b ++ c ++ d = a ++ (x ++ (b ++ c ++ d)) := by
  simp only [List.append_assoc]

/-- A report: 28 bytes, the time, 28 bytes, and the sum of all these. -/
theorem reportBytes_layout (secs : Nat) (s : State) : ∃ front back : Bytes, front.length = 28 ∧ back.length = 28
    ∧ reportBytes secs s = front ++ (le 4 secs ++ back) ++ le 4 (crc32 (front ++ (le 4 secs ++ back))) := by
  refine ⟨_, _, ?front, ?back, congrArg (fun b => b ++ le 4 (crc32 b)) (append_regroup _ (le 4 secs) _ _ _)⟩
  case front => simp
  case back => simp

theorem reportBytes_spec (secs : Nat) (s : State) : (reportBytes secs s).length = 64
    ∧ (reportBytes secs s).drop 60 = le 4 (crc32 ((reportBytes secs s).take 60)) ∧ ((reportBytes secs s).drop 28).take 4 = le 4 secs := by
  obtain ⟨front, back, lenFront, lenBack, layout⟩ := reportBytes_layout secs s
  have length : (front ++ (le 4 secs ++ back)).length = 60 := by simp [lenFront, lenBack]
  have time : ((front ++ (le 4 secs ++ back) ++ le 4 (crc32 (front ++ (le 4 secs ++ back)))).drop 28).take 4 = le 4 secs := by
    rw [List.append_assoc, List.drop_left' lenFront, List.append_assoc, List.take_left' (le_length 4 secs)]
  rw [layout]
  exact ⟨by rw [List.length_append, length, le_length], by rw [List.drop_left' length, List.take_left' length], time⟩

end Report

/-! ## Commands of the I3C bus (R435) -/

theorem takeAddress_free {a : Nat} {s : State} (free : s.mgt.i3cAddr = none) : (takeAddress a s).mgt = { s.mgt with i3cAddr := some (a % 128) } := by
  show { s.mgt with i3cAddr := if s.mgt.i3cAddr.isSome then s.mgt.i3cAddr else some (a % 128) } = _
  rw [free]
  rfl

theorem takeAddress_held {a : Nat} {s : State} (held : s.mgt.i3cAddr.isSome = true) : takeAddress a s = s := by
  show { s with mgt := { s.mgt with i3cAddr := if s.mgt.i3cAddr.isSome then s.mgt.i3cAddr else some (a % 128) } } = s
  rw [if_pos held]

theorem i3cReply_addressed {b : Bytes} {s : State} (held : s.mgt.i3cAddr.isSome = true) :
    (i3cReply b s).mgt = { s.mgt with i3cAnswer := b, i3cNack := false } := if_pos held

theorem i3cReply_unaddressed {b : Bytes} {s : State} (free : s.mgt.i3cAddr = none) : (i3cReply b s).mgt = { s.mgt with i3cNack := true } :=
  if_neg (by rw [free]; exact Bool.false_ne_true)

/-! ## Pins and trace (R410, R462) -/

/-- A ball of the GPIO is driven. -/
def putPin (b : Nat) (v : Bool) (s : State) : State := updMgt (fun m => { m with gpio := AMap.set m.gpio b v }) s

theorem exec_gpioPeriodic_blink {b : Nat} {s : State} (ball : b < 8) (code : Cfgw.gpio s b = 8) :
    exec (.gpioPeriodic b) s
      = .next (putPin b ((!AMap.getD s.mgt.gpio b false) && s.hq.cmds.any fun c => c.st == .running) s) :=
  (if_neg (Nat.not_le.mpr ball)).trans (if_pos code)

theorem exec_gpioPeriodic_heartbeat {b : Nat} {s : State} (ball : b < 8) (code : Cfgw.gpio s b = 9) (day : coresRun s = true)
    (own : s.mgt.takeover = false) :
    exec (.gpioPeriodic b) s = .next (putPin b (!AMap.getD s.mgt.gpio b false) s) :=
  (if_neg (Nat.not_le.mpr ball)).trans ((if_neg (by rw [code]; decide)).trans (if_pos ⟨code, day, own⟩))

theorem exec_traceFlush_on {s : State} (mode : bits (Cfgw.trace s) 1 0 ≠ 0) (mask : bits (Cfgw.trace s) 31 16 ≠ 0) (on : domOn s 30 = true) :
    exec .traceFlush s = .next (updMgt (fun m => { m with traceFlushed := m.traceFlushed + 1 }) s) :=
  if_neg (by simp [mode, mask, on])

/-- Settles O33: each command of the bus is one update of the target, told apart by whether it has an address; the report is laid out
from fields of fixed lengths. -/
theorem theManagementBusAnswers : Obligations.TheManagementBusAnswers := by
  intro s
  refine ⟨?off, ?on, ?address, ⟨_, rfl, rfl⟩, fun e => ⟨⟨_, rfl, rfl⟩, ⟨_, rfl, rfl⟩⟩, ?directed, ?read, ?early, fun d => ⟨_, rfl, rfl⟩, ?beat, ?blink,
    ?trace⟩
  case off => exact fun off secs => ⟨_, if_pos off, rfl⟩
  case on =>
    intro on secs
    obtain ⟨length, sum, time⟩ := reportBytes_spec secs s
    exact ⟨_, if_neg on, length, sum, time, rfl⟩
  case address =>
    intro c mem a
    have takes : exec (c a) s = .next (takeAddress a s) := by
      obtain rfl | rfl := List.mem_pair.mp mem <;> rfl
    exact ⟨fun free => ⟨_, takes, takeAddress_free free⟩, fun held => ⟨_, takes, takeAddress_held held⟩⟩
  case directed =>
    intro x mem
    have replies : exec x.1 s = .next (i3cReply x.2 s) := by
      simp only [List.mem_cons, List.not_mem_nil, or_false] at mem
      rcases mem with rfl | rfl | rfl | rfl | rfl | rfl <;> rfl
    exact ⟨fun held => ⟨_, replies, i3cReply_addressed held⟩, fun free => ⟨_, replies, i3cReply_unaddressed free⟩⟩
  case read => exact fun some held => ⟨_, if_neg some, i3cReply_addressed held⟩
  case early =>
    intro none held
    have answered := i3cReply_addressed (b := le 64 (drawn s)) (s := drawNext s) held
    exact ⟨_, if_pos none, by rw [answered]; exact le_length 64 _, by rw [answered]⟩
  case beat => exact fun b ball code day own => ⟨_, exec_gpioPeriodic_heartbeat ball code day own, AMap.getD_set_self ..⟩
  case blink => exact fun b ball code => ⟨_, exec_gpioPeriodic_blink ball code, AMap.getD_set_self ..⟩
  case trace => exact fun mode mask on => ⟨_, exec_traceFlush_on mode mask on, rfl⟩

end Sys2Proof.Machine
end

/-! The event log, the monitors, the ceiling and voltage faults (O31). -/

section

namespace Sys2Proof.Machine

/-! ## The event log (R425, R426) -/

theorem logEntry_unfilled {us : Nat} {m : Mail} {s : State} (room : s.mgt.logSeq < 1048576) :
    (logEntry us m s).mgt = { s.mgt with log := AMap.set s.mgt.log s.mgt.logSeq ⟨us, m⟩, logSeq := s.mgt.logSeq + 1 }
      ∧ (logEntry us m s).boxes = s.boxes := by
  have entered : logEntry us m s
      = raiseLog (updMgt (fun g => { g with log := AMap.set g.log s.mgt.logSeq ⟨us, m⟩, logSeq := s.mgt.logSeq + 1 }) s) := by
    unfold logEntry
    dsimp only
    rw [if_neg (Nat.not_le.mpr room)]
  rw [entered]
  exact ⟨(raiseLog_frame _).same .mgt rfl, (raiseLog_frame _).same .boxes rfl⟩

theorem exec_mgtEventConsume_head {us : Nat} {m : Mail} {s : State} (run : coresRun s = true) (dram : dramTrained s = true)
    (head : boxHead s.boxes.mgt = some m) :
    exec (.mgtEventConsume us) s = .next (logEntry us m (setBox .mgt (dropFirst (· == m) s.boxes.mgt) s)) := by
  show execMgtEventConsume us s = _
  unfold execMgtEventConsume
  rw [if_neg (by simp [run, dram]), show boxHead (boxOf s .mgt) = some m from head]
  rfl

/-! ## Samples (R431 to R434) -/

theorem threshold_of_cfg {s t : State} (h : t.cfg = s.cfg) (i : Nat) : threshold t i = threshold s i := by
  unfold threshold Cfgw.monCfg recWord
  rw [h]

/-- The hottest sensor is held against the three thresholds. -/
def thresholdsJudged (s : State) : State := each judgeThreshold [0, 1, 2] s

theorem thresholdsJudged_keeps (s : State) :
    (thresholdsJudged s).mgt.hotTemp = s.mgt.hotTemp ∧ (thresholdsJudged s).mgt.hotSensor = s.mgt.hotSensor ∧ (thresholdsJudged s).mgt.monitors = s.mgt.monitors := by
  have keeps : ∀ i v, (judgeThreshold i v).mgt.hotTemp = v.mgt.hotTemp ∧ (judgeThreshold i v).mgt.hotSensor = v.mgt.hotSensor
      ∧ (judgeThreshold i v).mgt.monitors = v.mgt.monitors := fun i v => by
    obtain ⟨temp, sensor, monitors, -⟩ := judgeThreshold_keeps i v
    exact ⟨temp, sensor, monitors⟩
  exact ⟨each_keeps (fun v : State => v.mgt.hotTemp) (fun i v => (keeps i v).1) _ s,
    each_keeps (fun v : State => v.mgt.hotSensor) (fun i v => (keeps i v).2.1) _ s,
    each_keeps (fun v : State => v.mgt.monitors) (fun i v => (keeps i v).2.2) _ s⟩

/-- Each of the three thresholds is marked by its own rule. -/
theorem thresholdsJudged_marks (s : State) {i : Nat} (three : i < 3) :
    bit (thresholdsJudged s).mgt.hotBand i
      = (decide (threshold s i ≤ s.mgt.hotTemp) || (bit s.mgt.hotBand i && decide (threshold s i - 5 < s.mgt.hotTemp))) := by
  have temp : ∀ i v, (judgeThreshold i v).mgt.hotTemp = v.mgt.hotTemp := fun i v => (judgeThreshold_keeps i v).1
  have limit : ∀ i v j, threshold (judgeThreshold i v) j = threshold v j := fun i v => threshold_of_cfg ((judgeThreshold_frame i v).same .cfg rfl)
  show bit (judgeThreshold 2 (judgeThreshold 1 (judgeThreshold 0 s))).mgt.hotBand i = _
  obtain rfl | rfl | rfl : i = 0 ∨ i = 1 ∨ i = 2 := by omega
  all_goals simp [judgeThreshold_marks, temp, limit]

/-- A thermal sample, the only one held, is the hottest, and is judged. -/
theorem exec_monitorSample_thermal {x : MonSample} {s : State} (thermal : x.monitor < 24) (empty : s.mgt.monitors = []) :
    exec (.monitorSample [x]) s
      = .next (thresholdsJudged (updMgt (fun m => { m with hotSensor := x.monitor, hotTemp := x.mean }) (takeThermal x s))) := by
  have taken : each takeSample [x] s = takeThermal x s := if_pos thermal
  have held : ∃ y : Monitor, (takeThermal x s).mgt.monitors = [(x.monitor, y)] ∧ y.value = x.mean :=
    ⟨_, congrArg (AMap.set · x.monitor _) empty, rfl⟩
  obtain ⟨y, listed, value⟩ := held
  have hot : hottest (takeThermal x s) = (x.monitor, x.mean) := by
    simp [hottest, listed, thermal, value]
  show execMonitorSample [x] s = _
  unfold execMonitorSample
  dsimp only
  rw [taken, if_neg (by simp [listed, thermal]), hot]
  rfl

theorem exec_monitorSample_other {x : MonSample} {s t : State} (beyond : 24 ≤ x.monitor) (taken : takeSample x s = t) {y : Monitor}
    (listed : t.mgt.monitors = [(x.monitor, y)]) : exec (.monitorSample [x]) s = .next t := by
  show execMonitorSample [x] s = _
  unfold execMonitorSample
  rw [show each takeSample [x] s = t from taken]
  dsimp only
  rw [if_pos (by simp [listed]; omega)]
  rfl

theorem takeVoltage_first {x : MonSample} {s : State} (empty : s.mgt.monitors = []) (on : monJudged s x.monitor = true) :
    (takeVoltage x s).mgt.monitors
      = [(x.monitor, { value := x.mean, band := b2n (beyondBy x.monitor 35 x.mean), beyond := b2n (beyondBy x.monitor 60 x.sample) })] := by
  have fresh : monAt s x.monitor = {} := by
    rw [monAt, empty]
    rfl
  have posted : ∀ (p : Prop) [Decidable p] (b : Nat) (u : State), (if p then u else postCrossing x.monitor b false x.mean u).mgt = u.mgt := by
    intro p _ b u
    split
    · rfl
    · exact postCrossing_mgt ..
  unfold takeVoltage
  simp only [fresh, on, and_true, Bool.and_true, posted]
  show AMap.set s.mgt.monitors x.monitor _ = _
  rw [empty]
  rfl

/-! ## The ceiling and the hold (R433) -/

theorem exec_throttleStep_hot {s : State} (throttled : s.mgt.throttled = true) (hot : threshold s 1 ≤ s.mgt.hotTemp) :
    exec .throttleStep s = .next (setCeiling (max 64 (s.mgt.ceiling - 64)) s) := if_pos ⟨throttled, hot⟩

theorem exec_criticalHoldRelease_cooled {s : State} (held : s.mgt.criticalHold = true) (cool : cooled s = true) :
    exec .criticalHoldRelease s = .next (postMgt .wrv 0x0004 0 (updMgt (fun m => { m with criticalHold := false }) s)) := if_pos ⟨held, cool⟩

theorem exec_ceilingRaise_cooled {s : State} (free : s.mgt.criticalHold = false) (throttled : s.mgt.throttled = true) (cool : cooled s = true) :
    exec .ceilingRaise s = .next (setCeiling (min 512 (s.mgt.ceiling + 64))
      (updMgt (fun m => { m with throttled := decide (min 512 (s.mgt.ceiling + 64) < 512) }) s)) := if_pos ⟨free, throttled, cool⟩

/-! ## Voltage faults (R434) -/

/-- What the blocks of a domain do when it goes off leaves the domains and the monitors. -/
theorem domainOff_mgt (d : Nat) (s : State) : (domainOff d s).mgt.domains = (setDoms [d] false s).mgt.domains
    ∧ (domainOff d s).mgt.monOff = true ∧ (domainOff d s).mgt.monitors = s.mgt.monitors := by
  have of_mgt : ∀ t : State, t.mgt = { (setDoms [d] false s).mgt with monOff := true } →
      t.mgt.domains = (setDoms [d] false s).mgt.domains ∧ t.mgt.monOff = true ∧ t.mgt.monitors = s.mgt.monitors := fun t h => by
    rw [h]
    exact ⟨rfl, rfl, rfl⟩
  have engines : ∀ (es : List Nat) (u : State), (each engineOff es u).mgt = u.mgt := fun es u =>
    each_keeps State.mgt (fun e v => (engineOff_frame e v).same .mgt rfl) es u
  unfold domainOff
  dsimp only
  split
  · exact ⟨rfl, rfl, rfl⟩
  iterate 2
    split
    · exact of_mgt _ (engines _ _)
  iterate 2
    split
    · exact of_mgt _ ((portOff_frame _ _).same .mgt rfl)
  iterate 2
    split
    · exact of_mgt _ ((fabricOff_frame _ _).same .mgt rfl)
  split
  · exact of_mgt _ ((chanOff_frame _).same .mgt rfl)
  · exact ⟨rfl, rfl, rfl⟩

/-- A fault is marked at its monitor and posted. -/
def faultMarked (m : Nat) (s : State) : State :=
  postCrossing m 2 true (monAt s m).value (updMgt (fun g => { g with monitors := AMap.set g.monitors m { monAt s m with band := 2 } }) s)

theorem faultMarked_mgt (m : Nat) (s : State) :
    (faultMarked m s).mgt = { s.mgt with monitors := AMap.set s.mgt.monitors m { monAt s m with band := 2 } } := postCrossing_mgt ..

theorem monAt_of_faultMarked {m : Nat} {s t : State} (h : t.mgt.monitors = (faultMarked m s).mgt.monitors) : (monAt t m).band = 2 := by
  rw [monAt, h, faultMarked_mgt, AMap.getD_set_self]

theorem faultMarked_bridle (m : Nat) (s : State) : (faultMarked m s).boxes.bridle = s.boxes.bridle := by
  unfold faultMarked postCrossing postEvent pushMgt
  split
  · exact congrArg Boxes.bridle ((inc_frame ..).same .boxes rfl)
  · rfl

theorem faultMarked_srv (m : Nat) (s : State) : (faultMarked m s).srv = s.srv := (postCrossing_frame ..).same .srv rfl

theorem faultMarked_parts (m : Nat) (s : State) : (faultMarked m s).parts = s.parts := (postCrossing_frame ..).same .parts rfl

/-- A domain that is not switched off: the urgent stop is posted, and the writes stop. -/
theorem faultStops_spec {m : Nat} {s : State} (slot : hasSlots .bridle Src.aon 1 s = true) :
    let t := stopWrites (post .bridle Src.aon 0x8001 1 (faultMarked m s))
    t.mgt.domains = s.mgt.domains ∧ (monAt t m).band = 2 ∧ t.boxes.bridle = s.boxes.bridle ++ [⟨s.srv.clock, Src.aon, 0x8001, 1⟩]
      ∧ ∀ p, p < 4 → partPresent s p = true → (partAt t p).writeStopped = true := by
  intro t
  have slot' : hasSlots .bridle Src.aon 1 (faultMarked m s) = true :=
    (hasSlots_congr (s := s) (b := .bridle) (faultMarked_bridle m s) _ _).trans slot
  have posted := post_bridle slot' 0x8001 1
  have mgt : t.mgt = (faultMarked m s).mgt := ((stopWrites_frame _).same .mgt rfl).trans (by rw [posted])
  have boxes : t.boxes = (post .bridle Src.aon 0x8001 1 (faultMarked m s)).boxes := (stopWrites_frame _).same .boxes rfl
  refine ⟨?_, monAt_of_faultMarked (congrArg Mgt.monitors mgt), ?_, fun p low present => stopWrites_stops low ?_⟩
  · rw [mgt, faultMarked_mgt]
  · rw [boxes, posted, faultMarked_bridle, faultMarked_srv]
  · rw [posted]
    show decide (0 < (AMap.getD (faultMarked m s).parts p {}).wraps) = true
    rw [faultMarked_parts]
    exact present

/-- The tenth sample beyond the limit is a fault of a monitor that is judged and not yet at fault. -/
theorem exec_voltageFault {m : Nat} {s : State} (low : 24 ≤ m) (high : m < 58) (tenth : 10 ≤ (monAt s m).beyond) (fresh : (monAt s m).band ≠ 2)
    (on : monJudged s m = true) :
    exec (.voltageFault m) s = .next (if m ≤ 53 ∧ switchable.contains (m - 23) = true then domainOff (m - 23) (faultMarked m s)
      else stopWrites (post .bridle Src.aon 0x8001 1 (faultMarked m s))) := by
  show execVoltageFault m s = _
  unfold execVoltageFault
  dsimp only
  rw [if_neg (by simp [fresh, on]; omega)]
  exact (apply_ite go _ _ _).symm

/-- Settles O31: the thresholds are judged one after another, each changing its own mark only; a voltage fault either switches its domain
off, which leaves the monitors, or posts to the Bridle and stops the writes. -/
theorem monitorsHoldTheMachineWithinLimits : Obligations.MonitorsHoldTheMachineWithinLimits := by
  intro s
  refine ⟨?consume, ?thermal, ?voltage, ?rest, ?step, ?release, ?raise, ?fault⟩
  case consume =>
    intro us m run dram head room
    obtain ⟨mgt, boxes⟩ := logEntry_unfilled (us := us) (m := m) (s := setBox .mgt (dropFirst (· == m) s.boxes.mgt) s) room
    exact ⟨_, exec_mgtEventConsume_head run dram head, by rw [mgt]; exact AMap.get?_set_self .., by rw [mgt]; rfl, by rw [boxes]; rfl⟩
  case thermal =>
    intro x thermal empty
    obtain ⟨temp, sensor, monitors⟩ := thresholdsJudged_keeps (updMgt (fun m => { m with hotSensor := x.monitor, hotTemp := x.mean }) (takeThermal x s))
    refine ⟨_, exec_monitorSample_thermal thermal empty, sensor, temp, ?_, fun i three => thresholdsJudged_marks _ three⟩
    rw [monAt, monitors]
    exact congrArg Monitor.value (AMap.getD_set_self ..)
  case voltage =>
    intro x low high empty on
    have taken : takeSample x s = takeVoltage x s := (if_neg (Nat.not_lt.mpr low)).trans (if_pos high)
    have listed := takeVoltage_first empty on
    exact ⟨_, exec_monitorSample_other low taken listed, listed⟩
  case rest =>
    intro x low high empty
    have taken : takeSample x s = updMgt (fun m => { m with monitors := AMap.set m.monitors x.monitor { value := x.mean } }) s :=
      (if_neg (by omega)).trans ((if_neg (Nat.not_lt.mpr low)).trans (if_pos high))
    have listed : AMap.set s.mgt.monitors x.monitor { value := x.mean } = [(x.monitor, ({ value := x.mean } : Monitor))] := by
      rw [empty]
      rfl
    exact ⟨_, exec_monitorSample_other (by omega) taken listed, listed⟩
  case step => exact fun throttled hot slot => ⟨_, exec_throttleStep_hot throttled hot, setCeiling_of_slots slot _⟩
  case release =>
    intro held cool slot
    have slot' := (hasSlots_of_boxes (t := updMgt (fun m => { m with criticalHold := false }) s) (s := s) rfl .wrv Src.mgtDay 1).trans slot
    exact ⟨_, exec_criticalHoldRelease_cooled held cool, postMgt_mgt_of_slots slot' _ _⟩
  case raise =>
    intro free throttled cool slot
    have slot' := (hasSlots_of_boxes (t := updMgt (fun m => { m with throttled := decide (min 512 (s.mgt.ceiling + 64) < 512) }) s) (s := s)
      rfl .bridle Src.aon 1).trans slot
    obtain ⟨mgt, boxes⟩ := setCeiling_of_slots slot' (min 512 (s.mgt.ceiling + 64))
    exact ⟨_, exec_ceilingRaise_cooled free throttled cool, mgt, boxes⟩
  case fault =>
    intro m low high tenth fresh on
    have ran := exec_voltageFault low high tenth fresh on
    constructor
    · intro domain off
      obtain ⟨domains, monOff, monitors⟩ := domainOff_mgt (m - 23) (faultMarked m s)
      rw [if_pos ⟨domain, off⟩] at ran
      refine ⟨_, ran, ?_, monOff, monAt_of_faultMarked monitors⟩
      rw [domOn, domains]
      exact (bit_switchedOff (by omega) [m - 23] _ (by simp; omega)).trans (by simp)
    · intro other slot
      have stays : ¬ (m ≤ 53 ∧ switchable.contains (m - 23) = true) := by
        rintro ⟨domain, off⟩
        obtain rail | kept := other
        · omega
        · exact Bool.false_ne_true (kept.symm.trans off)
      rw [if_neg stays] at ran
      exact ⟨_, ran, faultStops_spec slot⟩

end Sys2Proof.Machine
end

/-! Images, fuses, attestation and identity (O29). -/

section

namespace Sys2Proof.Machine

/-! ## Commands that Dawn hold notes (R406) -/

/-- A command that ends and is noted. -/
theorem noted_ends {s : State} {q : Nat} {c : Cmd} (found : findCmd s q = some c) (op st r : Nat) :
    Ended (noteCmd op (complete q st r s)) q st r ∧ (noteCmd op (complete q st r s)).hostMem = s.hostMem
      ∧ (noteCmd op (complete q st r s)).norMem = s.norMem := by
  obtain ⟨hq, host, -⟩ := noteCmd_keeps op (complete q st r s)
  have nor : (noteCmd op (complete q st r s)).norMem = (complete q st r s).norMem := (noteCmd_frame ..).same .norMem rfl
  exact ⟨(Ended.complete found st r).of_hq hq, host.trans (complete_hostMem ..), nor.trans ((complete_frame ..).same .norMem rfl)⟩

/-- A command that writes its answer to the scatter list, ends and is noted. -/
theorem answered_ends {s : State} {q : Nat} {c : Cmd} (found : findCmd s q = some c) (op r : Nat) (sgl : List ScatterElem) (out : Bytes) :
    Ended (noteCmd op (complete q Status.ok r (sglWrite sgl 0 out s))) q Status.ok r
      ∧ (noteCmd op (complete q Status.ok r (sglWrite sgl 0 out s))).hostMem = (sglWrite sgl 0 out s).hostMem := by
  have kept : (sglWrite sgl 0 out s).hq = s.hq := (sglWrite_frame ..).same .hq rfl
  have found' : findCmd (sglWrite sgl 0 out s) q = some c := by rwa [findCmd, kept]
  obtain ⟨ended, host, -⟩ := noted_ends found' op Status.ok r
  exact ⟨ended, host⟩

/-! ## IMAGE_WRITE and IMAGE_QUERY (R418) -/

section Rows

variable {s : State} {q : Nat} {c : Cmd} {sgl data : Bytes}

/-- What refuses an IMAGE_WRITE. -/
def imageWriteBad (s : State) (c : Cmd) (sgl data : Bytes) : Prop :=
  (bits c.e.param 0 0 = s.cfg.bootSlot ∧ s.cfg.st ≠ .hold ∧ s.cfg.st ≠ .faulted) ∨ 16777216 < c.e.length ∨ 0x1800000 < c.e.position + c.e.length
    ∨ sglOk c.e sgl c.e.length = false ∨ data.length ≠ c.e.length

theorem imageWriteBad_iff : ((bits c.e.param 0 0 = s.cfg.bootSlot ∧ (s.cfg.st == .hold || s.cfg.st == .faulted) = false) ∨ 16777216 < c.e.length
    ∨ 0x1800000 < c.e.position + c.e.length ∨ sglOk c.e sgl c.e.length = false ∨ data.length ≠ c.e.length) ↔ imageWriteBad s c sgl data := by
  rw [Bool.or_eq_false_iff, beq_eq_false_iff_ne, beq_eq_false_iff_ne]
  exact Iff.rfl

theorem exec_imageWrite_refused (turn : due s q 0x84 = some c) (bad : imageWriteBad s c sgl data) :
    exec (.imageWrite q sgl data) s = .next (noteCmd 0x84 (complete q Status.invalidField 0 s)) := by
  show execImageWrite q sgl data s = _
  unfold execImageWrite
  rw [turn]
  exact if_pos (imageWriteBad_iff.mpr bad)

theorem exec_imageWrite_written (turn : due s q 0x84 = some c) (good : ¬imageWriteBad s c sgl data) :
    exec (.imageWrite q sgl data) s
      = .next (noteCmd 0x84 (complete q Status.ok data.length (norWrite (slotBase (bits c.e.param 0 0) + c.e.position) data s))) := by
  show execImageWrite q sgl data s = _
  unfold execImageWrite
  rw [turn]
  exact if_neg (mt imageWriteBad_iff.mp good)

theorem exec_imageQuery_short (turn : due s q 0x85 = some c) (short : c.e.length < 2048) :
    exec (.imageQuery q sgl) s = .next (noteCmd 0x85 (complete q Status.lengthLimit 0 s)) := by
  show execImageQuery q sgl s = _
  unfold execImageQuery
  rw [turn]
  exact if_pos short

theorem exec_imageQuery_answers (turn : due s q 0x85 = some c) (room : 2048 ≤ c.e.length) (list : sglOk c.e sgl c.e.length = true) :
    exec (.imageQuery q sgl) s
      = .next (noteCmd 0x85 (complete q Status.ok 2048 (sglWrite (sglOf c.e sgl) 0 (headerAt s 0 ++ headerAt s 1) s))) := by
  show execImageQuery q sgl s = _
  unfold execImageQuery
  rw [turn]
  dsimp only
  rw [if_neg (Nat.not_lt.mpr room), if_neg (by rw [list]; decide)]
  rfl

/-! ## FUSE_ADVANCE and FUSE_REVOKE (R408) -/

/-- The thermometer that FUSE_ADVANCE would blow. -/
def advancedSvn (s : State) : Nat := max (fusedSvn (fusesOf s)) (min s.cfg.imageSvn 64)

def advancedFuses (s : State) : Fuses := sealFuses { fusesOf s with thermometer := raiseTo (advancedSvn s) (fusesOf s).thermometer }

def revokedFuses (i : Nat) (s : State) : Fuses := sealFuses { fusesOf s with revoked := setBits (fusesOf s).revoked i i 1 }

/-- New fuses are blown. -/
def blowFuses (g : Fuses) (s : State) : State := updCfg (fun c => { c with fuses := some g }) s

theorem exec_fuseAdvance (turn : due s q 0x86 = some c) :
    exec (.fuseAdvance q) s = .next (if leavesSlot (advancedFuses s) s = true then complete q Status.ok (advancedSvn s) (blowFuses (advancedFuses s) s)
      else complete q Status.invalidField 0 s) := by
  show execFuseAdvance q s = _
  unfold execFuseAdvance
  rw [turn]
  exact (apply_ite go _ _ _).symm

theorem exec_fuseRevoke (turn : due s q 0x87 = some c) :
    exec (.fuseRevoke q) s = .next (if bits c.e.param 1 0 ≠ s.cfg.signer ∧ leavesSlot (revokedFuses (bits c.e.param 1 0) s) s = true
      then complete q Status.ok 0 (blowFuses (revokedFuses (bits c.e.param 1 0) s) s) else complete q Status.invalidField 0 s) := by
  show execFuseRevoke q s = _
  unfold execFuseRevoke
  rw [turn]
  exact (apply_ite go _ _ _).symm

theorem ended_complete_cfg {u : State} (found : findCmd u q = some c) (st r : Nat) :
    Ended (complete q st r u) q st r ∧ (complete q st r u).cfg = u.cfg := ⟨.complete found st r, (complete_frame ..).same .cfg rfl⟩

/-! ## ATTEST, GET_IDENTITY and IDENTITY_SET_CERT (R436, R437) -/

theorem exec_attest_short (turn : due s q 0x98 = some c) (ch : Bytes) (us : Nat) (short : c.e.length < 512) :
    exec (.attest q sgl ch us) s = .next (noteCmd 0x98 (complete q Status.lengthLimit 0 s)) := by
  show execAttest q sgl ch us s = _
  unfold execAttest
  rw [turn]
  exact if_pos short

theorem exec_attest_answers (turn : due s q 0x98 = some c) (ch : Bytes) (us : Nat) (room : 512 ≤ c.e.length)
    (list : sglOk c.e sgl c.e.length = true) :
    exec (.attest q sgl ch us) s = .next (noteCmd 0x98 (complete q Status.ok 512 (sglWrite (sglOf c.e sgl) 0 (attestBytes ch us s) s))) := by
  show execAttest q sgl ch us s = _
  unfold execAttest
  rw [turn]
  dsimp only
  rw [if_neg (Nat.not_lt.mpr room), if_neg (by rw [list]; decide)]
  rfl

/-- What GET_IDENTITY answers: the identity point, and the certificate once there is one. -/
def identityBytes (s : State) : Bytes := identityPoint s ++ s.cip.cert.getD []

theorem exec_getIdentity_short (turn : due s q 0x99 = some c) (short : c.e.length < (identityBytes s).length) :
    exec (.getIdentity q sgl) s = .next (noteCmd 0x99 (complete q Status.lengthLimit 0 s)) := by
  show execGetIdentity q sgl s = _
  unfold execGetIdentity
  rw [turn]
  exact if_pos short

theorem exec_getIdentity_answers (turn : due s q 0x99 = some c) (room : (identityBytes s).length ≤ c.e.length)
    (list : sglOk c.e sgl c.e.length = true) :
    exec (.getIdentity q sgl) s
      = .next (noteCmd 0x99 (complete q Status.ok (identityBytes s).length (sglWrite (sglOf c.e sgl) 0 (identityBytes s) s))) := by
  show execGetIdentity q sgl s = _
  unfold execGetIdentity
  rw [turn]
  dsimp only
  exact (if_neg (Nat.not_lt.mpr room)).trans (if_neg (by rw [list]; decide))

/-- What refuses an IDENTITY_SET_CERT. -/
def certBad (s : State) (c : Cmd) (sgl data : Bytes) : Prop :=
  4096 < c.e.length ∨ sglOk c.e sgl c.e.length = false ∨ data.length ≠ c.e.length ∨ s.cip.cert.isSome = true
    ∨ holdsBytes (identityPoint s) data = false

theorem exec_identitySetCert_refused (turn : due s q 0x9A = some c) (bad : certBad s c sgl data) :
    exec (.identitySetCert q sgl data) s = .next (complete q Status.invalidField 0 s) := by
  show execIdentitySetCert q sgl data s = _
  unfold execIdentitySetCert
  rw [turn]
  exact if_pos bad

theorem exec_identitySetCert_stored (turn : due s q 0x9A = some c) (good : ¬certBad s c sgl data) :
    exec (.identitySetCert q sgl data) s = .next (complete q Status.ok 0 { s with cip := { s.cip with cert := some data } }) := by
  show execIdentitySetCert q sgl data s = _
  unfold execIdentitySetCert
  rw [turn]
  exact if_neg good

end Rows

/-- Settles O29: each row ends as its checks say, and what it changes besides its command is one write. -/
theorem imagesFusesAndIdentityAreCommanded : Obligations.ImagesFusesAndIdentityAreCommanded := by
  intro s q c
  refine ⟨?write, ?query, ?advance, ?revoke, ?attest, ?identity, ?cert⟩
  case write =>
    intro sgl data turn wf k bad
    have found := due_find turn
    constructor
    · intro refused
      obtain ⟨ended, -, nor⟩ := noted_ends found 0x84 Status.invalidField 0
      exact ⟨_, exec_imageWrite_refused turn refused, ended, nor⟩
    · intro good
      have found' : findCmd (norWrite (slotBase k + c.e.position) data s) q = some c := found
      obtain ⟨ended, -, nor⟩ := noted_ends found' 0x84 Status.ok data.length
      refine ⟨_, exec_imageWrite_written turn good, ended, fun a => ?_⟩
      rw [norByte, nor]
      exact norByte_norWrite _ data s a wf
  case query =>
    intro sgl turn
    have found := due_find turn
    constructor
    · intro short
      obtain ⟨ended, host, -⟩ := noted_ends found 0x85 Status.lengthLimit 0
      exact ⟨_, exec_imageQuery_short turn short, ended, host⟩
    · exact fun room list => ⟨_, exec_imageQuery_answers turn room list, answered_ends found ..⟩
  case advance =>
    intro turn
    have found := due_find turn
    have ran := exec_fuseAdvance turn
    constructor
    · intro valid
      rw [if_pos (show leavesSlot (advancedFuses s) s = true from valid)] at ran
      exact ⟨_, ran, ended_complete_cfg (u := blowFuses (advancedFuses s) s) found ..⟩
    · intro none
      rw [if_neg (by rw [show leavesSlot (advancedFuses s) s = false from none]; decide)] at ran
      exact ⟨_, ran, ended_complete_cfg found ..⟩
  case revoke =>
    intro turn
    have found := due_find turn
    have ran := exec_fuseRevoke turn
    constructor
    · intro other valid
      rw [if_pos ⟨other, valid⟩] at ran
      exact ⟨_, ran, ended_complete_cfg (u := blowFuses (revokedFuses (bits c.e.param 1 0) s) s) found ..⟩
    · intro refused
      rw [if_neg (by
        rintro ⟨other, valid⟩
        obtain running | none := refused
        · exact other running
        · exact Bool.false_ne_true (none.symm.trans valid))] at ran
      exact ⟨_, ran, ended_complete_cfg found ..⟩
  case attest =>
    intro sgl ch us turn
    have found := due_find turn
    constructor
    · intro short
      obtain ⟨ended, host, -⟩ := noted_ends found 0x98 Status.lengthLimit 0
      exact ⟨_, exec_attest_short turn ch us short, ended, host⟩
    · exact fun room list => ⟨_, exec_attest_answers turn ch us room list, answered_ends found ..⟩
  case identity =>
    intro sgl turn
    have found := due_find turn
    constructor
    · intro short
      obtain ⟨ended, host, -⟩ := noted_ends found 0x99 Status.lengthLimit 0
      exact ⟨_, exec_getIdentity_short turn short, ended, host⟩
    · exact fun room list => ⟨_, exec_getIdentity_answers turn room list, answered_ends found ..⟩
  case cert =>
    intro sgl data turn
    have found := due_find turn
    constructor
    · intro short list exact_ first holds
      have good : ¬certBad s c sgl data := by
        simp [certBad, short, list, exact_, first, holds]
      exact ⟨_, exec_identitySetCert_stored turn good, ended_complete_cip (s := { s with cip := { s.cip with cert := some data } }) found ..⟩
    · intro refused
      have bad : certBad s c sgl data := by
        obtain long | stored | foreign := refused
        · exact .inl long
        · exact .inr (.inr (.inr (.inl stored)))
        · exact .inr (.inr (.inr (.inr foreign)))
      exact ⟨_, exec_identitySetCert_refused turn bad, ended_complete_cip found ..⟩

end Sys2Proof.Machine
end

/-! The coordinator of a stripe and its replicas (O52). -/

section

namespace Sys2Proof.Machine

section Walk

variable {s : State} {st c : Nat} {d : Desc} (desc : descFor s st = some d) (still : reworking s st = false)

include desc

theorem walkOf_eq : walkOf s st = (layoutOrder d st).filter (isPresent s) := by
  unfold walkOf
  rw [desc]

include still

/-- The coordinator is found on the walk (R354). -/
theorem coordinator_eq : coordinator s st = (layoutOrder d st).find? (isPresent s) := by
  rw [coordinator, if_neg (by rw [still]; decide), walkOf_eq desc, List.head?_filter]

theorem coordinator_iff : coordinator s st = some c ↔ ∃ i : Nat, (layoutOrder d st)[i]? = some c ∧ isPresent s c = true
    ∧ ∀ j x : Nat, j < i → (layoutOrder d st)[j]? = some x → isPresent s x = false := by
  rw [coordinator_eq desc still, List.find?_eq_some_iff_getElem]
  constructor
  · rintro ⟨present, i, hi, rfl, before⟩
    refine ⟨i, List.getElem?_eq_getElem hi, present, fun j x less at_ => ?_⟩
    obtain ⟨hj, rfl⟩ := List.getElem?_eq_some_iff.mp at_
    simpa using before j less
  · rintro ⟨i, at_, present, before⟩
    obtain ⟨hi, rfl⟩ := List.getElem?_eq_some_iff.mp at_
    exact ⟨present, i, hi, rfl, fun j less => by simpa using before j _ less (List.getElem?_eq_getElem (less.trans hi))⟩

/-- The replicas are the next two members on the walk. -/
theorem replicasOf_eq (distinct : (layoutOrder d st).Nodup) (found : coordinator s st = some c) : ∃ p q, layoutOrder d st = p ++ c :: q
    ∧ (∀ x ∈ p, isPresent s x = false) ∧ replicasOf s st = (q.filter (isPresent s)).take 2 := by
  have here := found
  rw [coordinator_eq desc still, List.find?_eq_some_iff_append] at here
  obtain ⟨present, p, q, split, before⟩ := here
  have absent : ∀ x ∈ p, isPresent s x = false := fun x mem => by simpa using before x mem
  have after : c ∉ q := by
    rw [split, List.nodup_append] at distinct
    exact (List.nodup_cons.mp distinct.2.1).1
  have others : (q.filter (isPresent s)).filter (· != c) = q.filter (isPresent s) :=
    List.filter_eq_self.mpr fun x mem => bne_iff_ne.mpr fun same => after (same ▸ (List.mem_filter.mp mem).1)
  have front : p.filter (isPresent s) = [] := List.filter_eq_nil_iff.mpr fun x mem => by rw [absent x mem]; decide
  refine ⟨p, q, split, absent, ?_⟩
  unfold replicasOf
  rw [found, walkOf_eq desc, split, List.filter_append, front, List.nil_append, List.filter_cons_of_pos present]
  dsimp only
  rw [List.filter_cons_of_neg (by simp), others]

end Walk

/-- Settles O52: the coordinator is found on the layout order, and since no member stands in it twice the replicas are what follows. -/
theorem theCoordinatorIsTheFirstPresentOnTheWalk : Obligations.TheCoordinatorIsTheFirstPresentOnTheWalk := by
  intro s st d desc still parity row length distinct walk
  have layout : layoutOrder d st = walk := rfl
  have nodup : walk.Nodup := (List.perm_append_comm.trans (List.Perm.of_eq (List.take_append_drop d.k row))).nodup_iff.mpr distinct
  refine ⟨fun c => coordinator_iff desc still, ?none, fun c => replicasOf_eq desc still nodup, ?all⟩
  case none =>
    rw [coordinator_eq desc still, List.find?_eq_none]
    exact forall₂_congr fun x _ => Bool.not_eq_true _ ▸ Iff.rfl
  case all =>
    intro present
    have front : (row.drop d.k).length = d.m := by rw [List.length_drop, length]; omega
    have first : walk.head? = row[d.k]? := by
      rw [List.head?_append_of_ne_nil _ (List.ne_nil_of_length_pos (front ▸ parity)), List.head?_drop]
    rw [coordinator_eq desc still, layout, ← List.head?_filter, List.filter_eq_self.mpr present, first]

end Sys2Proof.Machine
end

/-! Yard messages that are discarded, answered or held before they are acted on (O50). -/

section

namespace Sys2Proof.Machine

/-! ## A message leaves the fabric's deliveries -/

theorem dropFirst_of_find?_none {α : Type} {p : α → Bool} {xs : List α} (none : xs.find? p = none) : dropFirst p xs = xs := by
  induction xs with
  | nil => rfl
  | cons x xs ih =>
    rw [List.find?_eq_none] at none
    rw [dropFirst, if_neg (none x List.mem_cons_self), ih (List.find?_eq_none.mpr fun y mem => none y (List.mem_cons_of_mem _ mem))]

/-- The first delivery of some bytes is taken, and its Stall is freed. -/
theorem takeDelivered_fab (m : YMsg) (s : State) :
    (takeDelivered m s).fab = { s.fab with delivered := dropFirst (fun d => d.bytes == msgBytes m) s.fab.delivered } := by
  unfold takeDelivered
  dsimp only
  split
  · next none => rw [dropFirst_of_find?_none none]
  · split
    · exact (giveBack_frame ..).same .fab rfl
    · rfl

/-! ## What is checked of a message first (R360, R377) -/

section Checks

variable {ty : Nat} {m : YMsg} {s : State} (act : State → State)

theorem receive_foreign (type : m.type = ty) (foreign : s.yrd.enrolled = false ∨ m.yard ≠ s.yrd.yardId) :
    receive ty m act s = .next (inc 0x0F0128 (takeDelivered m s)) :=
  (if_neg (not_not.mpr type)).trans (if_pos foreign)

/-- The NACK of a stale message. -/
def staleNack (ty : Nat) (m : YMsg) (s : State) : YMsg := { yMsg s YT.nack m.stripe m.src m.role m.slot (be 1 ty ++ be 4 s.yrd.epoch) with seg := m.seg }

theorem receive_stale (type : m.type = ty) (enrolled : s.yrd.enrolled = true) (yard : m.yard = s.yrd.yardId) (bound : anyEpoch ty = false)
    (stale : m.epoch < s.yrd.epoch) :
    receive ty m act s = .next (sendMsg (staleNack ty m s) (inc 0x0F010C (takeDelivered m s))) :=
  (if_neg (not_not.mpr type)).trans ((if_neg (by simp [enrolled, yard])).trans ((if_neg (by simp [bound]; omega)).trans (if_pos stale)))

/-- A message of a later epoch waits. -/
def holdMsg (m : YMsg) (s : State) : State := updYrd (fun y => { y with heldMsgs := y.heldMsgs ++ [m] }) (takeDelivered m s)

theorem receive_early (type : m.type = ty) (enrolled : s.yrd.enrolled = true) (yard : m.yard = s.yrd.yardId) (bound : anyEpoch ty = false)
    (early : s.yrd.epoch < m.epoch) :
    receive ty m act s = .next (sendMsg (yMsg s YT.epochReq 0xFFFFFFFF m.src 0 0xFF []) (holdMsg m s)) :=
  (if_neg (not_not.mpr type)).trans ((if_neg (by simp [enrolled, yard])).trans ((if_neg (by simp [bound]; omega)).trans (if_neg (by omega))))

/-- The row of a message that is not acted on at once is its check, whatever the row would do. -/
theorem exec_messageCmd {c : Instr} (row : MessageCmd m ty c) (type : m.type = ty)
    (fields : ty = YT.contrib → m.seg < 300 ∧ m.slot < 32 ∧ 0 < m.role ∧ m.role ≤ 4)
    (checked : s.yrd.enrolled = false ∨ m.yard ≠ s.yrd.yardId ∨ m.epoch ≠ s.yrd.epoch) : ∃ act, exec c s = receive ty m act s := by
  cases row
  case contrib =>
    obtain ⟨seg, slot, low, high⟩ := fields rfl
    refine ⟨_, (if_neg ?_).trans (if_pos ?_)⟩
    · simp [type]
      omega
    · tauto
  case rebuildReq =>
    simp only [exec, execRebuildReq]
    split
    · exact ⟨_, if_pos (by tauto)⟩
    · exact ⟨_, rfl⟩
  all_goals
    simp only [exec, execClaim, execClaimAck, execWithdraw, execContribDone, execNullReq, execNullOk, execClaimed, execSealStripe, execParityLaid,
      execStripeSafe, execSafeAck, execJournal, execJournalAck, execNack, execStateQuery, execStateReply, execEpochPropose, execAdopt,
      execEpochCommit, execEpochReq, execJoin, execDescReq, execDescPart, execLedger, execRebuildPart, execRebuildFail]
    exact ⟨_, rfl⟩

end Checks

theorem exec_yardBadMessage {raw : Bytes} {s : State} (bad : ∀ x, msgParse raw = some x → x.yard ≠ s.yrd.yardId ∨ msgKnown x.type = false) :
    ∃ t, exec (.yardBadMessage raw) s = .next (inc 0x0F0128 t) ∧ t.yrd = s.yrd ∧ YardCounts s t
      ∧ t.fab = { s.fab with delivered := dropFirst (fun d => d.bytes == raw) s.fab.delivered } := by
  have taken : ∃ t, exec (.yardBadMessage raw) s = .next (inc 0x0F0128
      (match (s.fab.delivered.find? fun d => d.bytes == raw).bind Delivery.stall with | some (q, h) => giveBack q h t | none => t))
      ∧ t = updFab (fun f => { f with delivered := dropFirst (fun d => d.bytes == raw) f.delivered }) s := by
    refine ⟨_, ?_, rfl⟩
    show execYardBadMessage raw s = _
    unfold execYardBadMessage
    cases parsed : msgParse raw with
    | none => rfl
    | some x => exact if_pos (by simpa using bad x parsed)
  obtain ⟨t, ran, dropped⟩ := taken
  refine ⟨_, ran, ?_⟩
  split
  · next q h _ =>
    rw [(giveBack_frame q h t).same .yrd rfl, (giveBack_frame q h t).same .fab rfl, dropped]
    refine ⟨rfl, YardCounts.trans (u := updFab _ s) (.of_ctrs rfl) (.of_others (giveBack_counts ..)), rfl⟩
  · rw [dropped]
    exact ⟨rfl, .of_ctrs rfl, rfl⟩

theorem ctr_inc_of_counts {c : Nat} {s t : State} (h : YardCounts s t) (low : 0x0F0000 ≤ c) (high : c < 0x100000) :
    ctr (inc c t) c = satAdd (ctr s c) 1 := by
  rw [ctr_inc, if_pos rfl, h.same c low high]

/-- Settles O50: every row of a message is `receive` while the message is not acted on, and `receive` takes it from the fabric's
deliveries, counts it, and answers at most one message that expects no reply. -/
theorem yardMessagesAreCheckedFirst : Obligations.YardMessagesAreCheckedFirst := by
  intro s m
  refine ⟨?checks, ?bad, ?unknown, ⟨_, rfl, rfl, ?held⟩, ?reach⟩
  case checks =>
    intro ty c row type fields
    constructor
    · intro foreign
      obtain ⟨act, ran⟩ := exec_messageCmd (s := s) row type fields (by tauto)
      exact ⟨_, ran.trans (receive_foreign act type foreign), takeDelivered_yrd m s,
        ctr_inc_of_counts (takeDelivered_yardCounts m s) (by decide) (by decide), takeDelivered_fab m s⟩
    · intro enrolled yard bound
      constructor
      · intro stale
        obtain ⟨act, ran⟩ := exec_messageCmd (s := s) row type fields (.inr (.inr (Nat.ne_of_lt stale)))
        have sent := sendMsg_unrepeated (staleNack ty m s) (inc 0x0F010C (takeDelivered m s)) rfl
        refine ⟨_, ran.trans (receive_stale act type enrolled yard bound stale), (sendMsg_yrd _ _ rfl).trans (takeDelivered_yrd m s), ?_,
          congrArg State.fab sent⟩
        rw [(sendMsg_yardCounts _ _).same _ (by decide) (by decide)]
        exact ctr_inc_of_counts (takeDelivered_yardCounts m s) (by decide) (by decide)
      · intro early
        obtain ⟨act, ran⟩ := exec_messageCmd (s := s) row type fields (.inr (.inr (Nat.ne_of_gt early)))
        have sent := sendMsg_unrepeated (yMsg s YT.epochReq 0xFFFFFFFF m.src 0 0xFF []) (holdMsg m s) rfl
        have held : (holdMsg m s).yrd = { s.yrd with heldMsgs := s.yrd.heldMsgs ++ [m] } := by
          show { (takeDelivered m s).yrd with heldMsgs := (takeDelivered m s).yrd.heldMsgs ++ [m] } = _
          rw [takeDelivered_yrd]
        exact ⟨_, ran.trans (receive_early act type enrolled yard bound early), (sendMsg_yrd _ _ rfl).trans held, congrArg State.fab sent⟩
  case bad =>
    intro raw bad
    obtain ⟨t, ran, yrd, counts, fab⟩ := exec_yardBadMessage bad
    exact ⟨_, ran, yrd, ctr_inc_of_counts counts (by decide) (by decide), fab⟩
  case unknown =>
    intro src code arg u normal priority takes
    obtain ⟨bx, only⟩ := takes.only_boxes
    have ran : exec (.yardUnknownEvent src code arg) s = .next (inc 0x0F012C u) :=
      (if_neg (by simp [priority]; omega)).trans (congrArg go (takes.act _))
    refine ⟨_, ran, ?_, rfl, ctr_inc_of_counts (.of_ctrs ?_) (by decide) (by decide)⟩ <;> rw [only]
    rfl
  case held => exact (updYrd_frame ..).only [.yrd] rfl
  case reach =>
    intro src arg u takes
    obtain ⟨bx, rfl⟩ := takes.only_boxes
    exact ⟨_, congrArg go (takes.act _), rfl, rfl⟩

end Sys2Proof.Machine
end

/-! Fabric ports: what sending leaves of a port, and how ports come up and go down (O48). -/

section

namespace Sys2Proof.Machine

/-! ## What sending on the lanes leaves (R386 to R389) -/

/-- A port without its sender: what sending queued flits leaves alone. -/
def portCore (x : FabPort) : FabPort :=
  { x with txSeq := 0, credits := [], owed := [], replay := [], queue := [], turns := [], contribs := 0, sent := [], txCount := 0 }

/-- The fabric without its ports. -/
def fabCore (x : Fab) : Fab := { x with ports := [] }

/-- Flits have been queued and sent: the senders of ports and their counters of flits sent have moved, nothing else. -/
structure Pumped (s t : State) : Prop where
  port : ∀ q, portCore (portAt t q) = portCore (portAt s q)
  fab : fabCore t.fab = fabCore s.fab
  ctrs : ∀ c, c % 64 ≠ 8 → ctr t c = ctr s c

theorem Pumped.refl (s : State) : Pumped s s := ⟨fun _ => rfl, rfl, fun _ _ => rfl⟩

theorem Pumped.trans {s u t : State} (h : Pumped s u) (k : Pumped u t) : Pumped s t :=
  ⟨fun q => (k.port q).trans (h.port q), k.fab.trans h.fab, fun c n => (k.ctrs c n).trans (h.ctrs c n)⟩

theorem Pumped.each {α : Type} {f : α → State → State} (h : ∀ x v, Pumped v (f x v)) (xs : List α) (s : State) : Pumped s (each f xs s) :=
  each_inv xs (.refl s) fun x _ _ k => k.trans (h x _)

theorem Pumped.updPort {p : Nat} {f : FabPort → FabPort} {s : State} (same : portCore (f (portAt s p)) = portCore (portAt s p)) :
    Pumped s (updPort p f s) := by
  refine ⟨fun q => ?_, rfl, fun _ _ => rfl⟩
  rw [portAt_updPort]
  split
  · next here => rw [same, here]
  · rfl

theorem owe_pumped (p vc : Nat) (s : State) : Pumped s (owe p vc s) := by
  unfold owe
  split
  · exact .updPort rfl
  · exact .refl s

theorem txCount_pumped (p n : Nat) (s : State) : Pumped s (addCtr (fabCtr p 0x08) n s) := by
  refine ⟨fun _ => rfl, rfl, fun c other => ?_⟩
  rw [ctr_addCtr, if_neg (by unfold fabCtr; omega)]

theorem sendNext_pumped (p vc i : Nat) (q : QFlit) (s : State) : Pumped s (sendNext p vc i q s) := by
  unfold sendNext
  dsimp only
  refine Pumped.trans (Pumped.trans ?_ (txCount_pumped ..)) (owe_pumped ..)
  exact .updPort rfl

theorem pumpPort_pumped (p : Nat) : ∀ (n : Nat) (s : State), Pumped s (pumpPort p n s)
  | 0, s => .refl s
  | n + 1, s => by
    unfold pumpPort
    dsimp only
    split
    · exact .refl s
    split
    · exact .refl s
    split
    · exact .refl s
    split
    · exact .refl s
    · exact (sendNext_pumped ..).trans (pumpPort_pumped p n _)

theorem pump_pumped (p : Nat) (s : State) : Pumped s (pump p s) := pumpPort_pumped ..

theorem enqueueFlit_pumped (p vc input : Nat) (f : Flit) (s : State) : Pumped s (enqueueFlit p vc input f s) := .updPort rfl

theorem flood_pumped (origin : Nat) (l : Lsa) (ps : List Nat) (s : State) : Pumped s (flood origin l ps s) :=
  .each (fun _ _ => (enqueueFlit_pumped ..).trans (pump_pumped ..)) ps s

theorem sendPlain_pumped (p : Nat) (f : Flit) (s : State) : Pumped s (sendPlain p f s) := .updPort rfl

theorem acknowledge_pumped (p before : Nat) (s : State) : Pumped s (acknowledge p before s) := by
  unfold acknowledge
  split
  · exact sendPlain_pumped ..
  · exact .refl s

section Fields

variable {s t : State} (h : Pumped s t) (q : Nat)

include h

theorem Pumped.of_port {β : Type} (g : FabPort → β) (apart : ∀ x, g (portCore x) = g x) : g (portAt t q) = g (portAt s q) :=
  (apart _).symm.trans ((congrArg g (h.port q)).trans (apart _))

theorem Pumped.st : (portAt t q).st = (portAt s q).st := h.of_port q FabPort.st fun _ => rfl

theorem Pumped.lanes : (portAt t q).lanes = (portAt s q).lanes := h.of_port q FabPort.lanes fun _ => rfl

theorem Pumped.removed : (portAt t q).removed = (portAt s q).removed := h.of_port q FabPort.removed fun _ => rfl

theorem Pumped.neighbour : (portAt t q).neighbour = (portAt s q).neighbour := h.of_port q FabPort.neighbour fun _ => rfl

theorem Pumped.rxSeq : (portAt t q).rxSeq = (portAt s q).rxSeq := h.of_port q FabPort.rxSeq fun _ => rfl

theorem Pumped.nakSent : (portAt t q).nakSent = (portAt s q).nakSent := h.of_port q FabPort.nakSent fun _ => rfl

omit q

theorem Pumped.of_fab {β : Type} (g : Fab → β) (apart : ∀ x, g (fabCore x) = g x) : g t.fab = g s.fab :=
  (apart _).symm.trans ((congrArg g h.fab).trans (apart _))

theorem Pumped.routes : t.fab.routes = s.fab.routes := h.of_fab Fab.routes fun _ => rfl

theorem Pumped.lsaSeq : t.fab.lsaSeq = s.fab.lsaSeq := h.of_fab Fab.lsaSeq fun _ => rfl

theorem Pumped.conflict : t.fab.conflict = s.fab.conflict := h.of_fab Fab.conflict fun _ => rfl

theorem Pumped.lsdb : t.fab.lsdb = s.fab.lsdb := h.of_fab Fab.lsdb fun _ => rfl

theorem Pumped.routeBusy : t.fab.routeBusy = s.fab.routeBusy := h.of_fab Fab.routeBusy fun _ => rfl

theorem Pumped.delivered : t.fab.delivered = s.fab.delivered := h.of_fab Fab.delivered fun _ => rfl

end Fields

/-! ## Link-state advertisements and routes (R393, R394) -/

/-- This node's own LSA, the next one. -/
def ownLsa (s : State) : Lsa := ⟨s.cip.noncePrefix, s.fab.lsaSeq + 1, s.fab.conflict, ownLinks s⟩

/-- The LSA enters the database, before it is sent. -/
def advertised (s : State) : State := storeLsa (nodeId s) (ownLsa s) (updFab (fun b => { b with lsaSeq := s.fab.lsaSeq + 1 }) s)

theorem originate_pumped (s : State) : Pumped (advertised s) (originate s) := flood_pumped ..

theorem originate_lsaSeq (s : State) : (originate s).fab.lsaSeq = s.fab.lsaSeq + 1 := (originate_pumped s).lsaSeq

/-- The queue of an output is emptied. -/
theorem dropQueue_keeps (p : Nat) (s : State) : (∀ q, portCore (portAt (dropQueue p s) q) = portCore (portAt s q))
    ∧ fabCore (dropQueue p s).fab = fabCore s.fab ∧ ∀ c, c % 64 ≠ 8 → c ≠ 0x100200 → ctr (dropQueue p s) c = ctr s c := by
  have owed := Pumped.each (fun (y : QFlit) v => owe_pumped y.input y.vc v) (portAt s p).queue
    (addCtr 0x100200 ((portAt s p).queue.filter fun y => (Flit.read y.flit).type == 1).length (updPort p (fun x => { x with queue := [] }) s))
  have emptied : Pumped s (updPort p (fun x => { x with queue := [] }) s) := .updPort rfl
  refine ⟨fun q => (owed.port q).trans (emptied.port q), owed.fab, fun c other unrouted => (owed.ctrs c other).trans ?_⟩
  rw [ctr_addCtr, if_neg unrouted]
  rfl

/-- A port that goes down takes its routes with it; one that was UP is counted, and a new LSA tells of it (R383, R394). -/
theorem portDown_spec (p : Nat) (s : State) :
    (portAt (portDown p s) p).st = .down ∧ (∀ r ∈ (portDown p s).fab.routes, r.2.port ≠ p)
      ∧ (∀ c, c % 64 ≠ 8 → c ≠ 0x100200 → c ≠ fabCtr p 0x24 → ctr (portDown p s) c = ctr s c)
      ∧ ((portAt s p).st = .up → p < 4 → ctr (portDown p s) (fabCtr p 0x24) = satAdd (ctr s (fabCtr p 0x24)) 1
          ∧ (portDown p s).fab.lsaSeq = s.fab.lsaSeq + 1) := by
  refine ⟨(portDown_st p p s).trans (if_pos rfl), ?_⟩
  obtain ⟨-, fab, counts⟩ := dropQueue_keeps p s
  have seq : (fabCore (dropQueue p s).fab).lsaSeq = (fabCore s.fab).lsaSeq := congrArg Fab.lsaSeq fab
  unfold portDown
  dsimp only
  generalize dropQueue p s = u at counts seq
  generalize hv : updFab _ (updPort p _ u) = v
  have routes : ∀ r ∈ v.fab.routes, r.2.port ≠ p := fun r mem => by
    rw [← hv] at mem
    exact bne_iff_ne.mp (List.mem_filter.mp mem).2
  have ctrs : ∀ c, ctr v c = ctr u c := fun c => by rw [← hv]; rfl
  have lsa : v.fab.lsaSeq = s.fab.lsaSeq := by rw [← hv]; exact seq
  split
  · have sent := originate_pumped (inc (fabCtr p 0x24) v)
    refine ⟨fun r mem => routes r (by rwa [sent.routes] at mem), fun c other unrouted port => ?_, fun _ low => ⟨?_, ?_⟩⟩
    · rw [sent.ctrs c other]
      exact (ctr_inc ..).trans ((if_neg port).trans ((ctrs c).trans (counts c other unrouted)))
    · rw [sent.ctrs _ (by unfold fabCtr; omega)]
      refine (ctr_inc ..).trans ((if_pos rfl).trans ?_)
      rw [ctrs, counts _ (by unfold fabCtr; omega) (by unfold fabCtr; omega)]
    · rw [originate_lsaSeq]
      exact congrArg (· + 1) lsa
  · next low => exact ⟨routes, fun c other unrouted _ => (ctrs c).trans (counts c other unrouted), fun up => absurd (by simp [up]) low⟩

/-! ## Flits as they are read back (R384) -/

theorem read_type (b : Bytes) : (Flit.read b).type = beAt b 0 1 / 16 := rfl

theorem read_payload (b : Bytes) : (Flit.read b).payload = slice b 16 (min (beAt b 1 1) 236) := rfl

section Written

variable {f : Flit}

/-- Bytes 0 and 1 of a flit, what follows them up to the payload, and the payload. -/
theorem flitBody_layout (credits : f.credits.length = 4) : ∃ middle : Bytes, middle.length = 14
    ∧ f.body = be 1 (f.type % 16 * 16 + f.vc % 4 * 4 + b2n f.first * 2 + b2n f.last) ++ (be 1 f.payload.length ++ (middle ++ fit f.payload 236)) := by
  refine ⟨be 3 (f.seq % 4096 * 4096 + f.ack % 4096) ++ f.credits.flatMap (be 1) ++ be 2 f.dest ++ be 2 f.src ++ be 1 f.tag
    ++ be 2 (f.hops % 32 * 2048 + f.index % 1024), ?_, ?_⟩
  · simp [List.length_flatMap, credits]
  · simp only [Flit.body, List.append_assoc]

theorem flitBody_length (credits : f.credits.length = 4) : f.body.length = 252 := by
  obtain ⟨middle, length, layout⟩ := flitBody_layout credits
  simp [layout, length, length_fit]

theorem flitBytes_length (credits : f.credits.length = 4) : f.bytes.length = 256 := by
  rw [Flit.bytes, List.length_append, flitBody_length credits, be_length]

/-- A flit as it is sent is intact. -/
theorem flitIntact_bytes (credits : f.credits.length = 4) : flitIntact f.bytes = true := by
  have body : f.bytes.take 252 = f.body := List.take_left' (flitBody_length credits)
  have sum : beAt f.bytes 252 4 = crc32 f.body := by
    have read := beAt_append f.body [] 4 (crc32 f.body)
    rwa [flitBody_length credits, List.append_nil, Nat.mod_eq_of_lt (show crc32 f.body < 256 ^ 4 from crc32_lt _)] at read
  rw [flitIntact, flitBytes_length credits, body, sum]
  simp

theorem read_bytes_type (credits : f.credits.length = 4) (type : f.type < 16) : (Flit.read f.bytes).type = f.type := by
  obtain ⟨middle, -, layout⟩ := flitBody_layout credits
  have bit : ∀ x : Bool, b2n x < 2 := by decide
  have low := bit f.first
  have last := bit f.last
  rw [read_type, Flit.bytes, layout, List.append_assoc, beAt_be _ (by omega)]
  omega

theorem read_bytes_payload (credits : f.credits.length = 4) (short : f.payload.length ≤ 236) : (Flit.read f.bytes).payload = f.payload := by
  obtain ⟨middle, length, layout⟩ := flitBody_layout credits
  have size : beAt f.bytes 1 1 = f.payload.length := by
    rw [Flit.bytes, layout, List.append_assoc, beAt_be_skip _ (by decide), List.append_assoc, beAt_be _ (by omega)]
  have head : (be 1 (f.type % 16 * 16 + f.vc % 4 * 4 + b2n f.first * 2 + b2n f.last) ++ (be 1 f.payload.length ++ middle)).length = 16 := by
    simp [length]
  rw [read_payload, size, Nat.min_eq_left short, Flit.bytes, layout, slice, fit_of_length_le short]
  simp only [← List.append_assoc] at head ⊢
  rw [List.append_assoc, List.append_assoc, List.drop_left' head, List.append_assoc, List.take_left]

end Written

/-! ## Replays (R388) -/

/-- A replay sends flits again and is counted. -/
theorem replayPort_keeps (p : Nat) (s : State) : (portAt (replayPort p s) p).st = (portAt s p).st
    ∧ (portAt (replayPort p s) p).lanes = (portAt s p).lanes ∧ (portAt (replayPort p s) p).removed = (portAt s p).removed
    ∧ ∀ c, c ≠ fabCtr p 0x14 → ctr (replayPort p s) c = ctr s c := by
  unfold replayPort
  split
  · exact ⟨rfl, rfl, rfl, fun _ _ => rfl⟩
  · have sent : portAt (inc (fabCtr p 0x14) (updPort p (fun x => { x with sent := x.sent ++ x.replay, replays := x.replays + 1 }) s)) p
        = { portAt s p with sent := (portAt s p).sent ++ (portAt s p).replay, replays := (portAt s p).replays + 1 } :=
      (portAt_updPort ..).trans (if_pos rfl)
    rw [sent]
    exact ⟨rfl, rfl, rfl, fun c other => (ctr_inc ..).trans (if_neg other)⟩

/-! ## Rows of the ports (R383, R385, R388, R392, R395) -/

section Rows

variable {s : State} {p : Nat} (low : p < 4)

theorem portAt_updPort_self (f : FabPort → FabPort) : portAt (updPort p f s) p = f (portAt s p) := by
  rw [portAt_updPort, if_pos rfl]

include low

theorem exec_sfSignalDetect_trains {n : Nat} (ready : s.fab.ready = true) (on : domOn s (24 + p / 2) = true) (down : (portAt s p).st = .down)
    (enabled : Cfgw.portEnable s p = true) (signal : n % 4 ≠ 0) :
    exec (.sfSignalDetect p n) s = .next (updPort p (fun x => { x with signal := n % 4, st := .training }) s) :=
  (if_neg (by simp [ready, on]; omega)).trans (if_pos ⟨down, enabled, signal⟩)

theorem exec_sfSignalDetect_other {n : Nat} (ready : s.fab.ready = true) (on : domOn s (24 + p / 2) = true) (other : (portAt s p).st ≠ .down) :
    exec (.sfSignalDetect p n) s = .next (updPort p (fun x => { x with signal := n % 4 }) s) :=
  (if_neg (by simp [ready, on]; omega)).trans (if_neg fun h => other h.1)

/-- A lane in service: a port in training leaves it, and a port that is UP tells of it. -/
theorem exec_sfLaneTrained {l : Nat} (lane : l < 2) (run : (portAt s p).st ≠ .down) (kept : bit (portAt s p).removed l = false)
    (out : bit (portAt s p).lanes l = false) :
    let u := updPort p (fun x => { x with lanes := setBits x.lanes l l 1, st := if x.st = .training then .hello else x.st }) s
    exec (.sfLaneTrained p l) s = .next (if (portAt s p).st = .up then originate u else u) :=
  if_neg (by simp [run, kept, out]; omega)

theorem exec_laneRejoin {l : Nat} (lane : l < 2) (removed : bit (portAt s p).removed l = true) (run : (portAt s p).st ≠ .down) :
    let u := updPort p (fun x => { x with lanes := setBits x.lanes l l 1, removed := setBits x.removed l l 0 }) s
    exec (.laneRejoin p l) s = .next (if (portAt s p).st = .up then originate u else u) :=
  if_neg (by simp [run, removed]; omega)

omit low

/-- An LSA that tells of a port's change leaves the port as it is. -/
theorem told_port (up : Prop) [Decidable up] (u : State) (q : Nat) :
    (portAt (if up then originate u else u) q).st = (portAt u q).st ∧ (portAt (if up then originate u else u) q).lanes = (portAt u q).lanes
      ∧ (portAt (if up then originate u else u) q).removed = (portAt u q).removed
      ∧ (if up then originate u else u).fab.lsaSeq = if up then u.fab.lsaSeq + 1 else u.fab.lsaSeq := by
  split
  · have told := originate_pumped u
    exact ⟨told.st q, told.lanes q, told.removed q, originate_lsaSeq u⟩
  · exact ⟨rfl, rfl, rfl, rfl⟩

theorem bit_setBits_self (w i : Nat) {v : Nat} (hv : v < 2) : bit (setBits w i i v) i = decide (v = 1) := by
  rw [bit_setBits _ _ _ hv, if_pos rfl]

/-- A lane of a port in service is removed and counted. -/
theorem removeLane_spec {l : Nat} (on : bit (portAt s p).lanes l = true) :
    ctr (removeLane p l s) (fabCtr p 0x20) = satAdd (ctr s (fabCtr p 0x20)) 1
      ∧ ctr (removeLane p l s) (fabCtr p 0x1C) = ctr s (fabCtr p 0x1C)
      ∧ (setBits (portAt s p).lanes l l 0 = 0 → (portAt (removeLane p l s) p).st = .down)
      ∧ (setBits (portAt s p).lanes l l 0 ≠ 0 → (portAt (removeLane p l s) p).st = (portAt s p).st
          ∧ bit (portAt (removeLane p l s) p).lanes l = false ∧ bit (portAt (removeLane p l s) p).removed l = true) := by
  unfold removeLane
  dsimp only
  rw [if_neg (by simp [on])]
  generalize hu : inc (fabCtr p 0x20) _ = u
  have port : portAt u p = { portAt s p with lanes := setBits (portAt s p).lanes l l 0, removed := setBits (portAt s p).removed l l 1 } := by
    rw [← hu]
    exact portAt_updPort_self _
  have counts : ∀ c, ctr u c = if c = fabCtr p 0x20 then satAdd (ctr s (fabCtr p 0x20)) 1 else ctr s c := fun c => by
    rw [← hu, ctr_inc]
    rfl
  have own := (counts (fabCtr p 0x20)).trans (if_pos rfl)
  have fec := (counts (fabCtr p 0x1C)).trans (if_neg (by unfold fabCtr; omega))
  have outOfService : bit (setBits (portAt s p).lanes l l 0) l = false := bit_setBits_self _ _ (by decide)
  have waits : bit (setBits (portAt s p).removed l l 1) l = true := bit_setBits_self _ _ (by decide)
  rw [show (portAt u p).lanes = setBits (portAt s p).lanes l l 0 by rw [port]]
  by_cases last : setBits (portAt s p).lanes l l 0 = 0
  · obtain ⟨down, -, others, -⟩ := portDown_spec p u
    rw [if_pos last]
    refine ⟨(others _ ?_ ?_ ?_).trans own, (others _ ?_ ?_ ?_).trans fec, fun _ => down, fun more => absurd last more⟩ <;> unfold fabCtr <;> omega
  · rw [if_neg last]
    generalize hv : (if (portAt s p).st = FPort.up then originate (replayPort p u) else u) = v
    have kept : ctr v (fabCtr p 0x20) = ctr u (fabCtr p 0x20) ∧ ctr v (fabCtr p 0x1C) = ctr u (fabCtr p 0x1C)
        ∧ (portAt v p).st = (portAt u p).st ∧ (portAt v p).lanes = (portAt u p).lanes ∧ (portAt v p).removed = (portAt u p).removed := by
      rw [← hv]
      split
      · have told := originate_pumped (replayPort p u)
        obtain ⟨st, lanes, removed, again⟩ := replayPort_keeps p u
        refine ⟨(told.ctrs _ ?_).trans (again _ ?_), (told.ctrs _ ?_).trans (again _ ?_), (told.st p).trans st, (told.lanes p).trans lanes,
          (told.removed p).trans removed⟩ <;> unfold fabCtr <;> omega
      · exact ⟨rfl, rfl, rfl, rfl, rfl⟩
    obtain ⟨lost, limit, st, lanes, removed⟩ := kept
    rw [lost, limit, st, lanes, removed, port]
    exact ⟨own, fec, fun none => absurd none last, fun _ => ⟨rfl, outOfService, waits⟩⟩

/-- A port of a node that yields its ID leaves UP, and hears HELLO anew. -/
def hushed (p : Nat) (s : State) : State :=
  if (portAt s p).st = .up then
    updPort p (fun x => { signal := x.signal, lanes := x.lanes, removed := x.removed, sent := x.sent, st := .hello, txCount := x.txCount, rxCount := x.rxCount })
      (dropQueue p s)
  else s

theorem hushed_keeps (q : Nat) (v : State) : ctr (hushed q v) 0x100210 = ctr v 0x100210 ∧ (hushed q v).fab.conflict = v.fab.conflict := by
  obtain ⟨-, fab, counts⟩ := dropQueue_keeps q v
  have conflict : (fabCore (dropQueue q v).fab).conflict = (fabCore v.fab).conflict := congrArg Fab.conflict fab
  unfold hushed
  split
  · exact ⟨counts _ (by decide) (by decide), conflict⟩
  · exact ⟨rfl, rfl⟩

/-- A node that yields its ID says so, forgets its routes, and hears HELLO anew on every port. -/
def yielded (s : State) : State :=
  each hushed [0, 1, 2, 3] (updFab (fun b => { b with routes := [] }) (originate (updFab (fun b => { b with conflict := true }) s)))

theorem yielded_spec (s : State) : ctr (yielded s) 0x100210 = ctr s 0x100210 ∧ (yielded s).fab.conflict = true := by
  have told := originate_pumped (updFab (fun b => { b with conflict := true }) s)
  have count : ctr (originate (updFab (fun b => { b with conflict := true }) s)) 0x100210 = ctr s 0x100210 := told.ctrs _ (by decide)
  have conflict : (originate (updFab (fun b => { b with conflict := true }) s)).fab.conflict = true := told.conflict
  unfold yielded
  generalize originate _ = u at count conflict
  refine each_inv (P := fun v => ctr v 0x100210 = ctr s 0x100210 ∧ v.fab.conflict = true) _ ⟨count, conflict⟩ fun q _ v held => ?_
  obtain ⟨count, conflict⟩ := hushed_keeps q v
  exact ⟨count.trans held.1, conflict.trans held.2⟩

/-- Another node of this node's ID is counted and posted. -/
def conflictNoted (p pre : Nat) (s : State) : State :=
  postEvent (Src.fab p) 0x10 0x02 false (nodeId s + 65536 * b2n (decide (pre < s.cip.noncePrefix))) (inc 0x100210 s)

theorem idConflict_eq (pre : Nat) : idConflict p pre s
    = if decide (pre < s.cip.noncePrefix) = true ∧ s.fab.conflict = false then yielded (conflictNoted p pre s) else conflictNoted p pre s := rfl

theorem conflictNoted_spec (p pre : Nat) (s : State) :
    ctr (conflictNoted p pre s) 0x100210 = satAdd (ctr s 0x100210) 1 ∧ (conflictNoted p pre s).fab = s.fab := by
  refine ⟨?_, (postEvent_frame ..).same .fab rfl⟩
  rw [conflictNoted, postEvent, (pushMgt_counts ..).same _ (by decide) (by decide) (by decide), ctr_inc, if_pos rfl]

/-- A node of this node's own ID: it is counted, and the node whose nonces begin higher yields (R392). -/
theorem idConflict_spec (pre : Nat) : ctr (idConflict p pre s) 0x100210 = satAdd (ctr s 0x100210) 1
    ∧ (idConflict p pre s).fab.conflict = (s.fab.conflict || decide (pre < s.cip.noncePrefix)) := by
  obtain ⟨counted, fab⟩ := conflictNoted_spec p pre s
  rw [idConflict_eq]
  split
  · next yields =>
    obtain ⟨count, conflict⟩ := yielded_spec (conflictNoted p pre s)
    exact ⟨count.trans counted, conflict.trans (by rw [yields.1, Bool.or_true])⟩
  · next stays =>
    refine ⟨counted, ?_⟩
    rw [fab]
    cases held : s.fab.conflict <;> simp_all

end Rows

/-! ## HELLO (R383, R385) -/

section Hello

variable {s : State} {p : Nat} {b : Bytes} (low : p < 4) (intact : flitIntact b = true) (type : (Flit.read b).type = 3)
  (hello : (portAt s p).st = .hello)

/-- A port in HELLO learns its neighbour. -/
def neighbourHeard (p : Nat) (b : Bytes) (s : State) : State := updPort p (fun x => { x with neighbour := beAt (Flit.read b).payload 0 2 }) s

theorem neighbourHeard_port : portAt (neighbourHeard p b s) p = { portAt s p with neighbour := beAt (Flit.read b).payload 0 2 } :=
  portAt_updPort_self _

include low intact type hello

theorem exec_flitHello_comesUp (heard : beAt (Flit.read b).payload 8 2 = nodeId s) (own : s.fab.conflict = false)
    (other : bit (beAt (Flit.read b).payload 10 1) 0 = false) (id : beAt (Flit.read b).payload 0 2 ≠ 0)
    (foreign : beAt (Flit.read b).payload 0 2 ≠ nodeId s) : exec (.flitHello p b) s = .next (portUp p (neighbourHeard p b s)) := by
  refine (if_neg (by simp [intact, type, hello]; omega)).trans ((if_neg fun h => foreign h.1).trans
    ((if_pos ⟨hello, heard, own, other, id⟩).trans ?_))
  rw [if_neg (by rw [hello]; decide)]
  rfl

theorem exec_flitHello_unheard (unheard : beAt (Flit.read b).payload 8 2 ≠ nodeId s) (foreign : beAt (Flit.read b).payload 0 2 ≠ nodeId s) :
    exec (.flitHello p b) s = .next (pump p (neighbourHeard p b s)) := by
  refine (if_neg (by simp [intact, type, hello]; omega)).trans ((if_neg fun h => foreign h.1).trans
    ((if_neg fun h => unheard h.2.1).trans ?_))
  rw [if_neg (by rw [hello]; decide)]
  rfl

theorem exec_flitHello_conflict (same : beAt (Flit.read b).payload 0 2 = nodeId s) (prefix_ : beAt (Flit.read b).payload 2 4 ≠ s.cip.noncePrefix) :
    exec (.flitHello p b) s = .next (idConflict p (beAt (Flit.read b).payload 2 4) s) :=
  (if_neg (by simp [intact, type, hello]; omega)).trans (if_pos ⟨same, prefix_⟩)

omit low intact type hello

theorem portUp_spec (p : Nat) (s : State) : (portAt (portUp p s) p).st = .up ∧ (portAt (portUp p s) p).neighbour = (portAt s p).neighbour
    ∧ (portUp p s).fab.lsaSeq = s.fab.lsaSeq + 1 := by
  unfold portUp
  generalize hu : updPort p _ s = u
  have told := originate_pumped u
  have port : portAt (advertised u) p = portAt u p := rfl
  refine ⟨(told.st p).trans ?_, (told.neighbour p).trans ?_, (originate_lsaSeq u).trans ?_⟩
  · rw [port, ← hu, portAt_updPort_self]
  · rw [port, ← hu, portAt_updPort_self]
  · rw [← hu]
    rfl

end Hello

/-! ## FEC errors (R395) -/

/-- A lane's errors beyond the limit are counted; how many there were is a free value. -/
def fecCounted (p : Nat) (s : State) : State := addCtr (fabCtr p 0x1C) (bits (Cfgw.fabCfg s) 15 8 + 1 + drawn s) (drawNext s)

theorem exec_fecUncorrLimit {s : State} {p l : Nat} (low : p < 4) (lane : l < 2) (on : bit (portAt s p).lanes l = true) :
    exec (.fecUncorrLimit p l) s = .next (removeLane p l (fecCounted p s)) := if_neg (by simp [on]; omega)

theorem fecCounted_ctr {s : State} {p : Nat} :
    ctr (fecCounted p s) (fabCtr p 0x1C) = satAdd (ctr s (fabCtr p 0x1C)) (bits (Cfgw.fabCfg s) 15 8 + 1 + drawn s) :=
  (ctr_addCtr ..).trans (if_pos rfl)

theorem fecCounted_ctr_other {s : State} {p c : Nat} (other : c ≠ fabCtr p 0x1C) : ctr (fecCounted p s) c = ctr s c :=
  (ctr_addCtr ..).trans (if_neg other)

theorem satAdd_mono {n a b : Nat} (h : a ≤ b) : satAdd n a ≤ satAdd n b := by
  unfold satAdd
  omega

/-- The HELLO timer sends the port's HELLO flit. -/
theorem sendPlain_sent (p : Nat) (f : Flit) (s : State) : (portAt (sendPlain p f s) p).sent
    = (portAt s p).sent ++ [Flit.bytes { f with ack := (portAt s p).rxSeq, credits := (portAt s p).owed.map (min 255) }] := by
  unfold sendPlain
  rw [portAt_updPort_self]
  rfl

theorem helloPayload_length (s : State) (p : Nat) : (helloFlit s p).payload.length = 11 := by simp [helloFlit]

/-- Settles O48: sending leaves all of a port but its sender (`Pumped`), so a row's own change of the port is what is read after the LSA that
tells of it; a port that goes down takes its routes with it (`portDown_spec`). -/
theorem portsComeUpAndGoDown : Obligations.PortsComeUpAndGoDown := by
  intro s p low
  refine ⟨fun n ready on => ⟨?signal, ?signalOther⟩, ?trained, ?timeout, ?timer, ?hello, ?silence, ?lanes, ?rejoin, fun l => ⟨s, rfl, rfl⟩, ?replay, ?limit⟩
  case signal =>
    exact fun down enabled signal => ⟨_, exec_sfSignalDetect_trains low ready on down enabled signal, portAt_updPort_self _⟩
  case signalOther => exact fun other => ⟨_, exec_sfSignalDetect_other low ready on other, portAt_updPort_self _⟩
  case trained =>
    intro l lane run kept out
    refine ⟨_, exec_sfLaneTrained low lane run kept out, ?_⟩
    obtain ⟨st, lanes, -, seq⟩ := told_port ((portAt s p).st = .up)
      (updPort p (fun x => { x with lanes := setBits x.lanes l l 1, st := if x.st = .training then .hello else x.st }) s) p
    rw [st, lanes, seq, portAt_updPort_self]
    exact ⟨bit_setBits_self _ _ (by decide), rfl, rfl⟩
  case timeout => exact fun training => ⟨_, if_pos training, portAt_updPort_self _⟩
  case timer =>
    intro run owed
    have credits : ((portAt s p).owed.map (min 255)).length = 4 := by rw [List.length_map, owed]
    have short : (helloFlit s p).payload.length ≤ 236 := by rw [helloPayload_length]; decide
    exact ⟨_, if_pos ⟨low, run⟩, _, sendPlain_sent p (helloFlit s p) s, flitBytes_length credits, flitIntact_bytes credits,
      read_bytes_type credits (show (3 : Nat) < 16 by decide), read_bytes_payload credits short⟩
  case hello =>
    intro b intact type hello
    refine ⟨fun heard own other id foreign => ?_, fun unheard foreign => ?_, fun same prefix_ => ?_⟩
    · obtain ⟨up, neighbour, seq⟩ := portUp_spec p (neighbourHeard p b s)
      exact ⟨_, exec_flitHello_comesUp low intact type hello heard own other id foreign, up, neighbour.trans (by rw [neighbourHeard_port]), seq⟩
    · have sent := pump_pumped p (neighbourHeard p b s)
      refine ⟨_, exec_flitHello_unheard low intact type hello unheard foreign, (sent.st p).trans ?_, (sent.neighbour p).trans ?_⟩ <;>
        rw [neighbourHeard_port]
      exact hello
    · exact ⟨_, exec_flitHello_conflict low intact type hello same prefix_, idConflict_spec _⟩
  case silence =>
    intro up
    obtain ⟨down, routes, -, told⟩ := portDown_spec p s
    obtain ⟨lost, seq⟩ := told up low
    exact ⟨_, if_pos up, down, routes, lost, seq⟩
  case lanes =>
    intro l lane on c mem
    obtain rfl | rfl := List.mem_pair.mp mem
    · obtain ⟨lost, -, last, more⟩ := removeLane_spec on
      exact ⟨_, if_neg (by omega), lost, last, more, fun other => Instr.noConfusion other⟩
    · have port : portAt (fecCounted p s) p = portAt s p := rfl
      obtain ⟨lost, limit, last, more⟩ := removeLane_spec (s := fecCounted p s) (port ▸ on)
      rw [port] at last more
      refine ⟨_, exec_fecUncorrLimit low lane on, lost.trans (congrArg (satAdd · 1) (fecCounted_ctr_other (by unfold fabCtr; omega))), last, more, fun _ => ?_⟩
      rw [limit, fecCounted_ctr]
      exact satAdd_mono (by omega)
  case rejoin =>
    intro l lane removed run
    refine ⟨_, exec_laneRejoin low lane removed run, ?_⟩
    obtain ⟨st, lanes, removed, -⟩ := told_port ((portAt s p).st = .up)
      (updPort p (fun x => { x with lanes := setBits x.lanes l l 1, removed := setBits x.removed l l 0 }) s) p
    rw [st, lanes, removed, portAt_updPort_self]
    exact ⟨bit_setBits_self _ _ (by decide), bit_setBits_self _ _ (by decide), rfl⟩
  case replay =>
    intro up some
    have again : replayPort p s = _ := if_neg some
    refine ⟨_, if_pos up, ?_, ?_⟩ <;> rw [again]
    · exact portAt_updPort_self _
    · exact (ctr_inc ..).trans (if_pos rfl)
  case limit =>
    intro up eight
    obtain ⟨down, routes, -⟩ := portDown_spec p s
    refine ⟨_, if_pos ⟨up, eight⟩, ?_, ?_⟩
    · rw [portAt, (postEvent_frame ..).same .fab rfl]
      exact down
    · rw [(postEvent_frame ..).same .fab rfl]
      exact routes

end Sys2Proof.Machine
end

/-! Flits received, link-state advertisements and routes, and transit flits that wait too long (O49). -/

section

namespace Sys2Proof.Machine

/-! ## What a grant depends on (R82, R87)

Whether a block gets its Stalls is a matter of the Stall table and the Stables alone. -/

section Grants

variable {s t : State}

theorem grant_congr (r b c : Nat) (h : t.stk = s.stk) :
    (grant r b c t).1 = (grant r b c s).1 ∧ (grant r b c t).2.stk = (grant r b c s).2.stk := by
  induction c generalizing s t with
  | zero => exact ⟨rfl, h⟩
  | succ c ih =>
    unfold grant grantOne
    rw [show stableAt t b = stableAt s b by rw [stableAt, h, stableAt]]
    cases takeFree (stableAt s b) with
    | none => exact ⟨rfl, h⟩
    | some y =>
      obtain ⟨n, x⟩ := y
      dsimp only
      rw [show stallAt t n = stallAt s n by rw [stallAt, h, stallAt]]
      obtain ⟨handles, stk⟩ := ih (s := setStall n _ (setStable b _ s)) (t := setStall n _ (setStable b _ t)) (by unfold setStall setStable; rw [h])
      exact ⟨congrArg _ handles, stk⟩

theorem serve_congr (r b c : Nat) (h : t.stk = s.stk) : (serve r b c t).stk = (serve r b c s).stk := by
  obtain ⟨handles, stk⟩ := grant_congr r b c h
  unfold serve handOver
  dsimp only
  rw [handles, stk]
  split
  · rfl
  · exact stk

theorem takeRequests_congr (b : Nat) (rs : List StallReq) (last : Option Nat) (h : t.stk = s.stk) :
    (takeRequests b rs last t).1 = (takeRequests b rs last s).1 ∧ (takeRequests b rs last t).2.1 = (takeRequests b rs last s).2.1
      ∧ (takeRequests b rs last t).2.2.stk = (takeRequests b rs last s).2.2.stk := by
  induction rs generalizing s t last with
  | nil => exact ⟨rfl, rfl, h⟩
  | cons r rs ih =>
    unfold takeRequests
    rw [show stableAt t b = stableAt s b by rw [stableAt, h, stableAt]]
    split
    · exact ih _ (serve_congr _ _ _ h)
    · exact ⟨rfl, rfl, by unfold setStable; rw [h]⟩

theorem requestsFor_congr (b : Nat) (rs : List StallReq) (h : t.stk = s.stk) :
    (requestsFor b rs t).1 = (requestsFor b rs s).1 ∧ (requestsFor b rs t).2.stk = (requestsFor b rs s).2.stk := by
  unfold requestsFor
  rw [show stableAt t b = stableAt s b by rw [stableAt, h, stableAt]]
  dsimp only
  have same := takeRequests_congr b (sortBy (fun r => (r.req + 64 - (stableAt s b).pointer) % 64) (rs.filter fun r => r.stable == b)) none h
  generalize takeRequests b _ none t = x at same ⊢
  generalize takeRequests b _ none s = y at same ⊢
  obtain ⟨last, waited, u⟩ := x
  obtain ⟨last', waited', v⟩ := y
  obtain ⟨rfl, rfl, stk⟩ : last = last' ∧ waited = waited' ∧ u.stk = v.stk := same
  dsimp only
  rw [show stableAt u b = stableAt v b by rw [stableAt, stk, stableAt]]
  cases waited with
  | nil => exact ⟨rfl, stk⟩
  | cons w ws =>
    dsimp only
    split
    · exact ⟨rfl, stk⟩
    · exact ⟨rfl, by unfold setStable; rw [stk]⟩

theorem newRequests_congr (rs : List StallReq) (h : t.stk = s.stk) : (newRequests rs t).stk = (newRequests rs s).stk := by
  have turns : ∀ (bs : List Nat) (w : Bool) (s t : State), t.stk = s.stk →
      (bs.foldl (stableTurn rs) (w, t)).2.stk = (bs.foldl (stableTurn rs) (w, s)).2.stk := by
    intro bs
    induction bs with
    | nil => exact fun _ _ _ h => h
    | cons b bs ih =>
      intro w s t h
      obtain ⟨entered, stk⟩ := requestsFor_congr b rs h
      rw [List.foldl_cons, List.foldl_cons]
      unfold stableTurn
      rw [entered]
      exact ih _ _ _ stk
  have counted : ∀ (w : Bool) (u : State), (if w then inc 0x02001C u else u).stk = u.stk := fun w u => by cases w <;> rfl
  rw [newRequests_eq, newRequests_eq, counted, counted]
  exact turns _ _ _ _ h

theorem acquireFrom_congr (most r b n f : Nat) (h : t.stk = s.stk) : (acquireFrom most r b n f t).1 = (acquireFrom most r b n f s).1 := by
  induction f generalizing s t with
  | zero => rfl
  | succ f ih =>
    unfold acquireFrom outstandingReq
    dsimp only
    rw [h]
    split
    · rfl
    · split
      · rfl
      · exact ih (newRequests_congr _ rfl)

theorem acquireOne_congr (r b : Nat) (h : t.stk = s.stk) : (acquireOne r b t).1 = (acquireOne r b s).1 := by
  have same : (acquire r b 1 t).1 = (acquire r b 1 s).1 := acquireFrom_congr _ _ _ _ _ h
  have first : ∀ u, (acquireOne r b u).1 = (acquire r b 1 u).1.bind List.head? := fun u => by
    unfold acquireOne
    generalize acquire r b 1 u = x
    obtain ⟨o, v⟩ := x
    cases o with
    | none => rfl
    | some hs => cases hs <;> rfl
  rw [first, first, same]

end Grants

/-! ## An idle output (R389) -/

theorem pump_of_empty {p : Nat} {s : State} (empty : (portAt s p).queue = []) : pump p s = s := by
  have input : ∀ vc, nextInput (portAt s p) vc = none := fun vc => by
    unfold nextInput
    rw [empty]
    dsimp only [List.any_nil]
    split
    · rfl
    · exact List.find?_eq_none.mpr fun _ _ => Bool.false_ne_true
  have vc : nextVc (portAt s p) = none := by
    simp [nextVc, vcReady, input]
  unfold pump pumpPort
  dsimp only
  rw [vc, ite_self]

/-! ## Link fields and sequence (R385 to R388) -/

section Received

variable {s : State} {p : Nat} {b : Bytes} {f : Flit}

/-- The unacknowledged flits that an acknowledgement leaves. -/
def unacked (ack : Nat) (x : FabPort) : List Bytes := x.replay.dropWhile fun y => decide ((ack + 4096 - (Flit.read y).seq) % 4096 < 2048)

theorem takeLink_port (p : Nat) (f : Flit) (s : State) : portAt (takeLink p f s) p = { portAt s p with
    replay := unacked f.ack (portAt s p), replays := if (unacked f.ack (portAt s p)).length < (portAt s p).replay.length then 0 else (portAt s p).replays,
    credits := ((portAt s p).credits.zip (f.credits.zip fullCredits)).map fun (c, r, m) => min (c + r) m } := portAt_updPort_self _

/-- A flit of a type received intact on a port that is UP, with none waiting before it. -/
theorem onUp_taken {type : Nat} (low : p < 4) (intact : flitIntact b = true) (up : (portAt s p).st = .up) (idle : (portAt s p).waiting = [])
    (is : (Flit.read b).type = type) (act : Flit → State → State) :
    onUp p type b act s = pump p (act (Flit.read b) (takeLink p (Flit.read b) s)) := by
  unfold onUp
  dsimp only
  rw [if_neg (by simp [intact, up, is]; omega), idle]
  rfl

/-- A flit in sequence is accepted. -/
def accepted (p : Nat) (f : Flit) (s : State) : State :=
  addCtr (fabCtr p 0x0C) (((portAt s p).rxCount + 1) / 1024)
    (updPort p (fun x => { x with rxSeq := f.seq, nakSent := false, rxCount := ((portAt s p).rxCount + 1) % 1024 }) s)

theorem accepted_port : portAt (accepted p f s) p = { portAt s p with rxSeq := f.seq, nakSent := false, rxCount := ((portAt s p).rxCount + 1) % 1024 } :=
  portAt_updPort_self _

theorem accepted_ctr {c : Nat} (other : c ≠ fabCtr p 0x0C) : ctr (accepted p f s) c = ctr s c := (ctr_addCtr ..).trans (if_neg other)

theorem sequencedFlit_accepts (next : (f.seq + 4096 - (portAt s p).rxSeq) % 4096 = 1) (use : State → State) :
    sequencedFlit p f use s = acknowledge p (portAt s p).sent.length (use (accepted p f s)) := if_pos next

theorem sequencedFlit_ahead (ahead : 2 ≤ (f.seq + 4096 - (portAt s p).rxSeq) % 4096) (near : (f.seq + 4096 - (portAt s p).rxSeq) % 4096 < 2048)
    (use : State → State) : sequencedFlit p f use s = sendNak p s :=
  (if_neg (by omega)).trans (if_neg (by omega))

theorem sendNak_spec (p : Nat) (s : State) : (portAt (sendNak p s) p).nakSent = true ∧ (portAt (sendNak p s) p).rxSeq = (portAt s p).rxSeq
    ∧ fabCore (sendNak p s).fab = fabCore s.fab ∧ ∀ c, ctr (sendNak p s) c = ctr s c := by
  unfold sendNak
  split
  · next out => exact ⟨out, rfl, rfl, fun _ => rfl⟩
  · have sent := sendPlain_pumped p { type := 2, src := nodeId s } (updPort p (fun x => { x with nakSent := true }) s)
    refine ⟨(sent.nakSent p).trans ?_, (sent.rxSeq p).trans ?_, sent.fab, fun _ => rfl⟩ <;> rw [portAt_updPort_self]

/-! ## DATA flits (R391) -/

/-- The state in which an accepted flit finds its message. -/
def arrived (p : Nat) (f : Flit) (s : State) : State := accepted p f (takeLink p f s)

theorem arrived_port : (portAt (arrived p f s) p).rxSeq = f.seq ∧ (portAt (arrived p f s) p).waiting = (portAt s p).waiting
    ∧ (portAt (arrived p f s) p).dropping = (portAt s p).dropping := by
  unfold arrived
  rw [accepted_port, takeLink_port]
  exact ⟨rfl, rfl, rfl⟩

theorem arrived_core : fabCore (arrived p f s).fab = fabCore s.fab := rfl

theorem arrived_ctr {c : Nat} (other : c ≠ fabCtr p 0x0C) : ctr (arrived p f s) c = ctr s c := accepted_ctr other

section Data

variable (low : p < 4) (intact : flitIntact b = true) (up : (portAt s p).st = .up) (idle : (portAt s p).waiting = []) (data : (Flit.read b).type = 1)

include low intact up idle data

/-- An accepted DATA flit that finds its place is acknowledged, and what then may leave does. -/
theorem exec_flitData_placed {u : State} (next : ((Flit.read b).seq + 4096 - (portAt s p).rxSeq) % 4096 = 1)
    (placed : placeFlit p (Flit.read b) (arrived p (Flit.read b) s) = (true, u)) : ∃ t, exec (.flitData p b) s = .next t ∧ Pumped u t := by
  have taken : exec (.flitData p b) s = .next (onUp p 1 b _ s) := rfl
  have rxSeq : (portAt (takeLink p (Flit.read b) s) p).rxSeq = (portAt s p).rxSeq := by rw [takeLink_port]
  obtain ⟨-, waiting, -⟩ := arrived_port (s := s) (p := p) (f := Flit.read b)
  rw [onUp_taken low intact up idle data, sequencedFlit_accepts (by rwa [rxSeq]), show accepted p (Flit.read b) (takeLink p (Flit.read b) s) = arrived p (Flit.read b) s from rfl] at taken
  dsimp only at taken
  rw [if_neg (not_not.mpr (waiting.trans idle)), placed] at taken
  exact ⟨_, taken, (acknowledge_pumped ..).trans (pump_pumped ..)⟩

theorem exec_flitData_ahead (ahead : 2 ≤ ((Flit.read b).seq + 4096 - (portAt s p).rxSeq) % 4096)
    (near : ((Flit.read b).seq + 4096 - (portAt s p).rxSeq) % 4096 < 2048) :
    exec (.flitData p b) s = .next (pump p (sendNak p (takeLink p (Flit.read b) s))) := by
  have taken : exec (.flitData p b) s = .next (onUp p 1 b _ s) := rfl
  have rxSeq : (portAt (takeLink p (Flit.read b) s) p).rxSeq = (portAt s p).rxSeq := by rw [takeLink_port]
  rwa [onUp_taken low intact up idle data, sequencedFlit_ahead (by rwa [rxSeq]) (by rwa [rxSeq])] at taken

end Data

/-- A port on which no message is being discarded as it arrives finds the place of each flit. -/
theorem placeFlit_eq {u : State} (kept : (portAt u p).dropping.contains (f.src, f.vc) = false) : placeFlit p f u
    = if f.dest = nodeId u then
        (match reassemble p f u with
        | (true, v) => (true, owe p f.vc v)
        | (false, v) => (false, v))
      else if f.hops = 0 then (true, owe p f.vc (inc 0x100204 u))
      else (match AMap.get? u.fab.routes f.dest with
        | none => (true, owe p f.vc (inc 0x100200 u))
        | some r => (true, pump r.port (enqueueFlit r.port f.vc p { f with hops := f.hops - 1 } u))) := by
  unfold placeFlit
  exact if_neg (by rw [kept]; exact Bool.false_ne_true)

/-- A message of one flit is delivered in the Stall that it gets. -/
theorem reassemble_whole {u v : State} {h : Handle} (first : f.first = true) (last : f.last = true)
    (fresh : (u.fab.partials.find? fun m => m.src == f.src && m.vc == f.vc) = none) (stall : acquireOne (0x28 + p) 5 u = (some h, v)) :
    reassemble p f u = (true, updFab (fun b => { b with delivered := b.delivered ++ [⟨f.payload, some (0x28 + p, h)⟩] }) v) := by
  unfold reassemble reassemble.start
  rw [fresh, stall]
  simp [first, last]

/-! ## Link-state advertisements (R393) -/

theorem newerLsa_irrefl (k : Lsa) : newerLsa k k = false := by simp [newerLsa]

/-- The LSA of another node that is new to this one enters the database and is sent on. -/
theorem takeLsa_unknown (foreign : (lsaRead f.payload).1 ≠ nodeId s) (unknown : AMap.get? s.fab.lsdb (lsaRead f.payload).1 = none)
    (room : s.fab.lsdb.length < 4095) : takeLsa p f s = flood (lsaRead f.payload).1 (lsaRead f.payload).2 ((upPorts (owe p 0 s)).filter (· != p))
      (storeLsa (lsaRead f.payload).1 (lsaRead f.payload).2 (owe p 0 s)) := by
  unfold takeLsa
  generalize lsaRead f.payload = x at foreign unknown
  obtain ⟨o, l⟩ := x
  dsimp only at foreign unknown ⊢
  rw [if_neg foreign, unknown]
  exact if_neg (by omega)

/-- An older LSA is answered with the one that is held. -/
theorem takeLsa_older {k : Lsa} (foreign : (lsaRead f.payload).1 ≠ nodeId s) (known : AMap.get? s.fab.lsdb (lsaRead f.payload).1 = some k)
    (older : newerLsa k (lsaRead f.payload).2 = true) (notNewer : newerLsa (lsaRead f.payload).2 k = false) :
    takeLsa p f s = flood (lsaRead f.payload).1 k [p] (owe p 0 s) := by
  unfold takeLsa
  generalize lsaRead f.payload = x at foreign known older notNewer
  obtain ⟨o, l⟩ := x
  dsimp only at foreign known older notNewer ⊢
  have differs : l ≠ k := by
    rintro rfl
    exact absurd (newerLsa_irrefl l) (by rw [older]; decide)
  rw [if_neg foreign, known]
  dsimp only
  rw [if_neg differs, notNewer, if_neg Bool.false_ne_true, if_pos older]

section Lsas

variable (low : p < 4) (intact : flitIntact b = true) (up : (portAt s p).st = .up) (idle : (portAt s p).waiting = []) (lsa : (Flit.read b).type = 4)

include low intact up idle lsa

theorem exec_flitLsa_taken (next : ((Flit.read b).seq + 4096 - (portAt s p).rxSeq) % 4096 = 1) :
    ∃ t, exec (.flitLsa p b) s = .next t ∧ Pumped (takeLsa p (Flit.read b) (arrived p (Flit.read b) s)) t := by
  have taken : exec (.flitLsa p b) s = .next (onUp p 4 b _ s) := rfl
  have rxSeq : (portAt (takeLink p (Flit.read b) s) p).rxSeq = (portAt s p).rxSeq := by rw [takeLink_port]
  rw [onUp_taken low intact up idle lsa, sequencedFlit_accepts (by rwa [rxSeq])] at taken
  exact ⟨_, taken, (acknowledge_pumped ..).trans (pump_pumped ..)⟩

end Lsas

/-! ## NAK and NULL flits (R385, R388) -/

section Controls

variable (low : p < 4) (intact : flitIntact b = true) (up : (portAt s p).st = .up) (idle : (portAt s p).waiting = []) (empty : (portAt s p).queue = [])

include low intact up idle empty

theorem exec_flitNull (is : (Flit.read b).type = 0) : exec (.flitNull p b) s = .next (takeLink p (Flit.read b) s) := by
  have taken : exec (.flitNull p b) s = .next (onUp p 0 b _ s) := rfl
  rwa [onUp_taken low intact up idle is, pump_of_empty (by rw [takeLink_port]; exact empty)] at taken

/-- The flits that a NAK asks for leave again. -/
theorem exec_flitNak (is : (Flit.read b).type = 2) (more : unacked (Flit.read b).ack (portAt s p) ≠ []) :
    exec (.flitNak p b) s = .next (inc (fabCtr p 0x14)
      (updPort p (fun x => { x with sent := x.sent ++ x.replay, replays := x.replays + 1 }) (takeLink p (Flit.read b) s))) := by
  have taken : exec (.flitNak p b) s = .next (onUp p 2 b _ s) := rfl
  rw [onUp_taken low intact up idle is] at taken
  unfold replayPort at taken
  rw [if_neg (by rw [takeLink_port]; exact more)] at taken
  rwa [pump_of_empty] at taken
  show (portAt (updPort p _ _) p).queue = []
  rw [portAt_updPort_self, takeLink_port]
  exact empty

end Controls

end Received

/-! ## Bad flits (R385, R387) -/

section Bad

variable {s : State} {p : Nat} {b : Bytes} (low : p < 4) (run : (portAt s p).st ≠ .down)

include low run

theorem exec_flitBad_crc (bad : flitIntact b = false) : exec (.flitBad p b) s
    = .next (if (portAt s p).st = .up ∧ sequenced (Flit.read b).type = true then sendNak p (inc (fabCtr p 0x10) s) else inc (fabCtr p 0x10) s) :=
  (if_neg (by simp [run]; omega)).trans (if_pos bad)

theorem exec_flitBad_type (intact : flitIntact b = true) (unknown : 4 < (Flit.read b).type) : exec (.flitBad p b) s = .next (inc 0x100218 s) :=
  (if_neg (by simp [run]; omega)).trans ((if_neg (by simp [intact])).trans (if_pos unknown))

end Bad

/-! ## Routes (R394) -/

/-- Posts of a source that has a slot for each enter the mailbox in order (R13). -/
theorem posts_of_slots {b : Box} {src code : Nat} (arg : Nat → Nat) : ∀ (hs : List Nat) {s : State}, hasSlots b src hs.length s = true →
    boxOf (each (fun h s => post b src code (arg h) s) hs s) b = boxOf s b ++ hs.map fun h => mail src code (arg h) s
  | [], s, _ => (List.append_nil _).symm
  | h :: hs, s, slots => by
    have one : hasSlots b src 1 s = true := hasSlots_fewer (by simp) slots
    have clock : (post b src code (arg h) s).srv.clock = s.srv.clock := congrArg Srv.clock ((post_frame ..).same .srv rfl)
    have here : boxOf (post b src code (arg h) s) b = boxOf s b ++ [mail src code (arg h) s] := by rw [post_of_slots one, boxOf_setBox_self]
    have later := posts_of_slots (code := code) arg hs (hasSlots_post slots one code (arg h))
    rw [here] at later
    simp only [mail, clock] at later
    refine later.trans ?_
    simp [mail]

/-- The new table is in place, before the members hear of it. -/
def routesReplaced (s : State) : State :=
  inc 0x100214 (updFab (fun b => { b with routes := routeTable s, reach := (routeTable s).map fun r => (r.1, ()), routeBusy := false }) s)

/-- The member hosts that came or went. -/
def reachChanged (s : State) : List Nat := (memberHosts s).filter fun h => mem? s.fab.reach h != mem? ((routeTable s).map fun r => (r.1, ())) h

theorem exec_routeInstall {s : State} (busy : s.fab.routeBusy = true) : exec .routeInstall s = .next
    (each (fun h s' => post .yard (Src.fab 0) 0x8001 (h + 65536 * b2n (mem? ((routeTable s).map fun r => (r.1, ())) h)) s') (reachChanged s) (routesReplaced s)) :=
  if_neg (by simp [busy])

/-! ## Transit flits that wait too long (R390) -/

section Transit

variable {s : State} {p vc i : Nat} {q : QFlit}

/-- The queued flits of the message of a flit. -/
def sameMessage (vc i : Nat) (q y : QFlit) : Bool :=
  y.vc == vc && y.input == i && (Flit.read y.flit).src == (Flit.read q.flit).src && (Flit.read y.flit).tag == (Flit.read q.flit).tag

theorem owe_ctr (p vc c : Nat) (s : State) : ctr (owe p vc s) c = ctr s c := by
  unfold owe
  split <;> rfl

/-- The flits of a message leave the queue of an output, and their credits return to where they came from. -/
def transitDiscarded (p vc i : Nat) (q : QFlit) (s : State) : State :=
  let out := (portAt s p).queue.filter (sameMessage vc i q)
  each (fun (_ : QFlit) s => owe i vc s) out (addCtr 0x100208 out.length
    (updPort p (fun x => { x with queue := (portAt s p).queue.filter fun y => !sameMessage vc i q y, turns := AMap.set (portAt s p).turns vc (i, false) }) s))

/-- A message that is not at its end is discarded as it goes on to arrive. -/
theorem exec_transitWaitExpiry (up : (portAt s p).st = .up) (low : vc < 4) (out : (portAt s p).credits.getD vc 0 = 0)
    (turn : nextInput (portAt s p) vc = some i) (transit : i < 4) (front : ((portAt s p).queue.find? fun q => q.vc == vc && q.input == i) = some q) :
    exec (.transitWaitExpiry p vc) s = .next (if (((portAt s p).queue.filter (sameMessage vc i q)).any fun y => (Flit.read y.flit).last) = true
      then transitDiscarded p vc i q s
      else updPort i (fun x => { x with dropping := x.dropping ++ [((Flit.read q.flit).src, vc)] }) (transitDiscarded p vc i q s)) := by
  refine (if_neg (by simp only [up, out]; simp; omega)).trans ?_
  rw [turn]
  dsimp only
  rw [front]
  exact if_neg (by omega)

theorem transitDiscarded_spec (other : i ≠ p) :
    (portAt (transitDiscarded p vc i q s) p).queue = (portAt s p).queue.filter (fun y => !sameMessage vc i q y)
      ∧ (portAt (transitDiscarded p vc i q s) i).dropping = (portAt s i).dropping
      ∧ ctr (transitDiscarded p vc i q s) 0x100208 = satAdd (ctr s 0x100208) ((portAt s p).queue.filter (sameMessage vc i q)).length := by
  have owed : ∀ v, (portAt (owe i vc v) p).queue = (portAt v p).queue ∧ (portAt (owe i vc v) i).dropping = (portAt v i).dropping := fun v => by
    unfold owe
    split
    · rw [portAt_updPort, if_neg other.symm, portAt_updPort_self]
      exact ⟨rfl, rfl⟩
    · exact ⟨rfl, rfl⟩
  unfold transitDiscarded
  dsimp only
  generalize hv : updPort p _ s = v
  refine ⟨(each_keeps (fun v => (portAt v p).queue) (fun _ v => (owed v).1) _ _).trans ?_,
    (each_keeps (fun v => (portAt v i).dropping) (fun _ v => (owed v).2) _ _).trans ?_,
    (each_keeps (ctr · 0x100208) (fun _ v => owe_ctr ..) _ _).trans ?_⟩
  · show (portAt v p).queue = _
    rw [← hv, portAt_updPort_self]
  · have port : portAt v i = portAt s i := by rw [← hv, portAt_updPort, if_neg other]
    exact congrArg FabPort.dropping port
  · rw [ctr_addCtr, if_pos rfl, ← hv]
    rfl

end Transit

/-- Settles O49: a flit is taken in three steps, its link fields, its place and its acknowledgement; sending what may leave in between touches
only senders (`Pumped`), so each clause is read at the step that owns it. -/
theorem flitsAreSequencedAndRouted : Obligations.FlitsAreSequencedAndRouted := by
  intro s p b low
  refine ⟨fun intact up idle => ⟨?data, ?ahead, ?nak, ?null, ?lsa⟩, ?badCrc, ?badType, ?refresh, ?aged, ?routes, ?transit⟩
  case data =>
    intro type next kept
    obtain ⟨rxSeq, -, dropping⟩ := arrived_port (s := s) (p := p) (f := Flit.read b)
    have fab : (arrived p (Flit.read b) s).fab.delivered = s.fab.delivered ∧ (arrived p (Flit.read b) s).fab.routes = s.fab.routes := ⟨rfl, rfl⟩
    have place := placeFlit_eq (u := arrived p (Flit.read b) s) (p := p) (f := Flit.read b) (by rw [dropping]; exact kept)
    have node : nodeId (arrived p (Flit.read b) s) = nodeId s := rfl
    have unrouted : ctr (arrived p (Flit.read b) s) 0x100204 = ctr s 0x100204 ∧ ctr (arrived p (Flit.read b) s) 0x100200 = ctr s 0x100200 :=
      ⟨arrived_ctr (by unfold fabCtr; omega), arrived_ctr (by unfold fabCtr; omega)⟩
    rw [node] at place
    refine ⟨fun here first last fresh stall => ?_, fun away hops => ?_, fun away hops route => ?_⟩
    · have same : (acquireOne (0x28 + p) 5 (arrived p (Flit.read b) s)).1 = (acquireOne (0x28 + p) 5 s).1 := acquireOne_congr _ _ rfl
      rw [← same] at stall
      have partials : (arrived p (Flit.read b) s).fab.partials = s.fab.partials := rfl
      obtain ⟨delivered, -⟩ := fab
      obtain ⟨h, got⟩ := Option.isSome_iff_exists.mp stall
      rw [if_pos here, reassemble_whole (v := (acquireOne (0x28 + p) 5 (arrived p (Flit.read b) s)).2) first last (by rw [partials]; exact fresh)
        (Prod.ext got rfl)] at place
      obtain ⟨t, taken, sent⟩ := exec_flitData_placed low intact up idle type next place
      refine ⟨t, taken, ?_⟩
      generalize arrived p (Flit.read b) s = u at sent rxSeq delivered
      have stalls : (acquireOne (0x28 + p) 5 u).2.fab = u.fab := (acquireOne_frame ..).same .fab rfl
      have owed := (owe_pumped p (Flit.read b).vc _).trans sent
      refine ⟨(owed.rxSeq p).trans ?_, (0x28 + p, h), owed.delivered.trans ?_⟩
      · rw [← rxSeq, portAt, portAt, ← stalls]
        rfl
      · rw [← delivered, ← stalls]
        rfl
    · rw [if_neg away, if_pos hops] at place
      obtain ⟨t, taken, sent⟩ := exec_flitData_placed low intact up idle type next place
      have owed := (owe_pumped ..).trans sent
      refine ⟨t, taken, (owed.rxSeq p).trans rxSeq, ?_, owed.delivered⟩
      rw [owed.ctrs _ (by decide), ctr_inc, if_pos rfl, unrouted.1]
    · rw [if_neg away, if_neg hops, fab.2, route] at place
      obtain ⟨t, taken, sent⟩ := exec_flitData_placed low intact up idle type next place
      have owed := (owe_pumped ..).trans sent
      refine ⟨t, taken, (owed.rxSeq p).trans rxSeq, ?_⟩
      rw [owed.ctrs _ (by decide), ctr_inc, if_pos rfl, unrouted.2]
  case ahead =>
    intro type ahead near
    obtain ⟨out, rxSeq, fab, -⟩ := sendNak_spec p (takeLink p (Flit.read b) s)
    have sent := pump_pumped p (sendNak p (takeLink p (Flit.read b) s))
    have delivered : (fabCore (sendNak p (takeLink p (Flit.read b) s)).fab).delivered = s.fab.delivered := by rw [fab]; rfl
    refine ⟨_, exec_flitData_ahead low intact up idle type ahead near, (sent.rxSeq p).trans (rxSeq.trans ?_), (sent.nakSent p).trans out, sent.delivered.trans delivered⟩
    rw [takeLink_port]
  case nak =>
    intro type empty more
    refine ⟨_, exec_flitNak low intact up idle empty type more, ?_⟩
    have port : portAt (inc (fabCtr p 0x14) (updPort p (fun x => { x with sent := x.sent ++ x.replay, replays := x.replays + 1 }) (takeLink p (Flit.read b) s))) p
        = _ := portAt_updPort_self _
    beta_reduce
    rw [port, takeLink_port]
    exact ⟨rfl, rfl⟩
  case null =>
    intro type empty
    refine ⟨_, exec_flitNull low intact up idle empty type, ?_⟩
    beta_reduce
    rw [takeLink_port]
    exact ⟨rfl, rfl, rfl⟩
  case lsa =>
    intro type next foreign
    obtain ⟨t, taken, sent⟩ := exec_flitLsa_taken low intact up idle type next
    obtain ⟨rxSeq, -⟩ := arrived_port (s := s) (p := p) (f := Flit.read b)
    have fab : (arrived p (Flit.read b) s).fab.lsdb = s.fab.lsdb ∧ nodeId (arrived p (Flit.read b) s) = nodeId s := ⟨rfl, rfl⟩
    obtain ⟨lsdb, node⟩ := fab
    rw [← node] at foreign
    rw [← lsdb]
    generalize arrived p (Flit.read b) s = u at sent rxSeq foreign ⊢
    have owed := owe_pumped p 0 u
    refine ⟨fun unknown room => ⟨t, taken, ?_⟩, fun k known older notNewer => ⟨t, taken, ?_⟩⟩
    · rw [takeLsa_unknown foreign unknown room] at sent
      have told := (flood_pumped ..).trans sent
      refine ⟨((told.rxSeq p).trans (owed.rxSeq p)).trans rxSeq, ?_, told.routeBusy⟩
      rw [told.lsdb]
      exact AMap.get?_set_self ..
    · rw [takeLsa_older foreign known older notNewer] at sent
      have told := owed.trans ((flood_pumped ..).trans sent)
      exact ⟨(told.rxSeq p).trans rxSeq, told.lsdb⟩
  case badCrc =>
    intro run bad
    refine ⟨_, exec_flitBad_crc low run bad, ?_⟩
    have counted : ctr (inc (fabCtr p 0x10) s) (fabCtr p 0x10) = satAdd (ctr s (fabCtr p 0x10)) 1 := (ctr_inc ..).trans (if_pos rfl)
    split
    · obtain ⟨out, rxSeq, -, ctrs⟩ := sendNak_spec p (inc (fabCtr p 0x10) s)
      exact ⟨(ctrs _).trans counted, rxSeq, fun _ _ => out⟩
    · next plain => exact ⟨counted, rfl, fun up sequenced => absurd ⟨up, sequenced⟩ plain⟩
  case badType =>
    exact fun run intact unknown => ⟨_, exec_flitBad_type low run intact unknown, (ctr_inc ..).trans (if_pos rfl), rfl⟩
  case refresh =>
    intro ready
    have told := originate_pumped s
    refine ⟨_, if_pos ready, originate_lsaSeq s, ?_⟩
    rw [told.lsdb]
    exact AMap.get?_set_self ..
  case aged =>
    exact fun o foreign known => ⟨_, if_neg (by rw [← Option.not_isSome, known]; simp [foreign]), rfl⟩
  case routes =>
    intro busy
    refine ⟨_, exec_routeInstall busy, ?_⟩
    have slots : hasSlots .yard (Src.fab 0) (reachChanged s).length s = true → hasSlots .yard (Src.fab 0) (reachChanged s).length (routesReplaced s) = true := id
    have count : ctr (routesReplaced s) 0x100214 = satAdd (ctr s 0x100214) 1 := (ctr_inc ..).trans (if_pos rfl)
    have fab := each_keeps State.fab (fun h s' => (post_frame .yard (Src.fab 0) 0x8001
      (h + 65536 * b2n (mem? ((routeTable s).map fun r => (r.1, ())) h)) s').same .fab rfl) (reachChanged s) (routesReplaced s)
    have kept := each_keeps (ctr · 0x100214) (fun h s' => (post_counts .yard (Src.fab 0) 0x8001
      (h + 65536 * b2n (mem? ((routeTable s).map fun r => (r.1, ())) h)) s').same 0x100214 (by decide) (by decide) (by decide)) (reachChanged s) (routesReplaced s)
    beta_reduce
    rw [fab]
    refine ⟨rfl, rfl, kept.trans count, rfl, fun room => ?_⟩
    exact posts_of_slots _ (reachChanged s) (slots room)
  case transit =>
    intro vc i q up lowVc out turn transit other front
    refine ⟨_, exec_transitWaitExpiry up lowVc out turn transit front, ?_⟩
    obtain ⟨queue, dropping, count⟩ := transitDiscarded_spec (s := s) (vc := vc) (q := q) other
    split
    · next ended => exact ⟨queue, count, fun goesOn => absurd (ended.symm.trans goesOn) (by decide)⟩
    · rw [portAt_updPort, if_neg other.symm, portAt_updPort_self]
      exact ⟨queue, count, fun _ => congrArg (· ++ _) dropping⟩

end Sys2Proof.Machine
end

/-! The Yard's rows, messages, page and journal: what its operations change (R345, R354 to R357, R377, R378). -/

section

namespace Sys2Proof.Machine

/-! ## What the walk of a stripe depends on (R344, R354, R361, R375) -/

/-- What says where the slots of a stripe are, which members are there, and who coordinates it. -/
structure SameWalks (s t : State) : Prop where
  desc : t.yrd.desc = s.yrd.desc
  oldDescs : t.yrd.oldDescs = s.yrd.oldDescs
  map : t.yrd.map = s.yrd.map
  member : t.yrd.member = s.yrd.member
  reachable : t.yrd.reachable = s.yrd.reachable
  active : t.yrd.reshapeActive = s.yrd.reshapeActive
  pos : t.yrd.reshapePos = s.yrd.reshapePos
  bound : t.yrd.reshapeBound = s.yrd.reshapeBound
  cfg : t.cfg = s.cfg

theorem SameWalks.of_yrd {s t : State} (yrd : t.yrd = s.yrd) (cfg : t.cfg = s.cfg) : SameWalks s t := by
  constructor
  case cfg => exact cfg
  all_goals rw [yrd]

theorem SameWalks.refl (s : State) : SameWalks s s := .of_yrd rfl rfl

theorem SameWalks.trans {s u t : State} (h : SameWalks s u) (k : SameWalks u t) : SameWalks s t :=
  ⟨k.desc.trans h.desc, k.oldDescs.trans h.oldDescs, k.map.trans h.map, k.member.trans h.member, k.reachable.trans h.reachable,
    k.active.trans h.active, k.pos.trans h.pos, k.bound.trans h.bound, k.cfg.trans h.cfg⟩

section SameWalks

variable {s t : State} (h : SameWalks s t)

include h

theorem SameWalks.descFor : descFor t = descFor s := by
  funext stripe
  unfold Machine.descFor
  rw [h.oldDescs, h.desc]

theorem SameWalks.memberState : memberState t = memberState s := by
  funext i
  unfold Machine.memberState
  rw [h.map]

theorem SameWalks.memberHost : memberHost t = memberHost s := by
  funext i
  unfold Machine.memberHost
  rw [h.map]

theorem SameWalks.isPresent : isPresent t = isPresent s := by
  funext i
  unfold Machine.isPresent
  rw [h.memberState]

theorem SameWalks.isSelf : isSelf t = isSelf s := by
  funext i
  unfold Machine.isSelf
  rw [h.member]

theorem SameWalks.nodeId : nodeId t = nodeId s := by
  unfold Machine.nodeId Cfgw.nodeId recWord
  rw [h.cfg]

theorem SameWalks.memberReachable : memberReachable t = memberReachable s := by
  funext i
  unfold Machine.memberReachable
  rw [h.isSelf, h.memberHost, h.reachable, h.nodeId]

theorem SameWalks.leaderOf : leaderOf t = leaderOf s := by
  unfold Machine.leaderOf
  rw [h.map, h.memberReachable]

theorem SameWalks.reworking : reworking t = reworking s := by
  funext stripe
  unfold Machine.reworking
  rw [h.active, h.pos, h.bound]

theorem SameWalks.walkOf : walkOf t = walkOf s := by
  funext stripe
  unfold Machine.walkOf
  rw [h.descFor, h.isPresent]

theorem SameWalks.coordinator : coordinator t = coordinator s := by
  funext stripe
  unfold Machine.coordinator
  rw [h.reworking, h.leaderOf, h.walkOf]

theorem SameWalks.replicasOf : replicasOf t = replicasOf s := by
  funext stripe
  unfold Machine.replicasOf
  rw [h.coordinator, h.walkOf]

theorem SameWalks.others : others t = others s := by
  funext stripe
  unfold Machine.others
  rw [h.replicasOf, h.isSelf]

theorem SameWalks.dataSlot : dataSlot t = dataSlot s := by
  funext stripe member
  unfold Machine.dataSlot
  rw [h.descFor]

theorem SameWalks.slotMember : slotMember t = slotMember s := by
  funext stripe slot
  unfold Machine.slotMember
  rw [h.descFor]

theorem SameWalks.rowHolders : rowHolders t = rowHolders s := by
  funext rework stripe
  unfold Machine.rowHolders reworkHolders
  rw [h.descFor, h.desc, h.isPresent]

theorem SameWalks.standIn : standIn t = standIn s := by
  funext stripe holder
  unfold Machine.standIn
  rw [h.descFor, h.isPresent]

theorem SameWalks.roleHolder : roleHolder t = roleHolder s := by
  funext rework stripe j
  unfold Machine.roleHolder
  rw [h.rowHolders, h.isPresent, h.standIn]

theorem SameWalks.rolesOf : rolesOf t = rolesOf s := by
  funext rework stripe
  unfold Machine.rolesOf
  rw [h.rowHolders]

end SameWalks

/-! ## Messages that leave (R377, R378) -/

/-- Messages have left: the fabric carries them, and some await their reply. -/
structure Told (s t : State) : Prop where
  yrd : { t.yrd with awaitReply := [] } = { s.yrd with awaitReply := [] }
  awaits : ∀ m ∈ s.yrd.awaitReply, m ∈ t.yrd.awaitReply
  frame : Frame 0x23000 s t
  counts : YardCounts s t

theorem Told.refl (s : State) : Told s s := ⟨rfl, fun _ mem => mem, .refl _ _, .refl _⟩

theorem Told.trans {s u t : State} (h : Told s u) (k : Told u t) : Told s t :=
  ⟨k.yrd.trans h.yrd, fun m mem => k.awaits m (h.awaits m mem), h.frame.andThen k.frame rfl, h.counts.trans k.counts⟩

theorem Told.each {α : Type} {f : α → State → State} (h : ∀ x v, Told v (f x v)) (xs : List α) (s : State) : Told s (each f xs s) :=
  each_inv xs (.refl s) fun x _ _ k => k.trans (h x _)

section Told

variable {s t : State} (h : Told s t)

include h

theorem Told.of_yrd {β : Type} (g : Yrd → β) (apart : ∀ y, g { y with awaitReply := [] } = g y) : g t.yrd = g s.yrd :=
  (apart _).symm.trans ((congrArg g h.yrd).trans (apart _))

theorem Told.cfg : t.cfg = s.cfg := h.frame.same .cfg rfl

theorem Told.walks : SameWalks s t :=
  ⟨h.of_yrd Yrd.desc fun _ => rfl, h.of_yrd Yrd.oldDescs fun _ => rfl, h.of_yrd Yrd.map fun _ => rfl, h.of_yrd Yrd.member fun _ => rfl,
    h.of_yrd Yrd.reachable fun _ => rfl, h.of_yrd Yrd.reshapeActive fun _ => rfl, h.of_yrd Yrd.reshapePos fun _ => rfl,
    h.of_yrd Yrd.reshapeBound fun _ => rfl, h.cfg⟩

theorem Told.yMsg (type stripe dst role slot : Nat) (payload : Bytes) :
    yMsg t type stripe dst role slot payload = yMsg s type stripe dst role slot payload :=
  yMsg_congr (h.of_yrd Yrd.epoch fun _ => rfl) (h.of_yrd Yrd.yardId fun _ => rfl) (h.of_yrd Yrd.member fun _ => rfl) ..

end Told

theorem sendOnce_told (m : YMsg) (s : State) : Told s (sendOnce m s) :=
  ⟨by rw [sendOnce_yrd], fun _ mem => by rwa [sendOnce_yrd], (sendOnce_frame m s).mono rfl, sendOnce_yardCounts m s⟩

/-- A message that awaits its reply is in the list of those that do, and none has left it. -/
theorem sendMsg_awaits (m : YMsg) (s : State) : (expectsReply m.type = true → m ∈ (sendMsg m s).yrd.awaitReply)
    ∧ ∀ x ∈ s.yrd.awaitReply, x ∈ (sendMsg m s).yrd.awaitReply := by
  unfold sendMsg
  dsimp only
  split
  · refine ⟨fun _ => by simp [updYrd], fun x mem => ?_⟩
    show x ∈ (sendOnce m s).yrd.awaitReply.filter (· != m) ++ [m]
    rw [sendOnce_yrd]
    by_cases same : x = m <;> simp [same, mem]
  · next unrepeated => exact ⟨fun repeated => absurd repeated unrepeated, fun x mem => by rwa [sendOnce_yrd]⟩

theorem sendMsg_told (m : YMsg) (s : State) : Told s (sendMsg m s) := by
  refine ⟨?_, (sendMsg_awaits m s).2, sendMsg_frame m s, sendMsg_yardCounts m s⟩
  unfold sendMsg
  dsimp only
  split
  · show { (sendOnce m s).yrd with awaitReply := [] } = _
    rw [sendOnce_yrd]
  · rw [sendOnce_yrd]

theorem toCoordinator_told (type stripe role slot : Nat) (payload : Bytes) (s : State) : Told s (toCoordinator type stripe role slot payload s) := by
  unfold toCoordinator
  split
  · exact sendMsg_told ..
  · exact .refl s

theorem sendSegments_told (rework : Bool) (stripe slot role m : Nat) (user : Bytes) (segs : List Nat) (s : State) :
    Told s (sendSegments rework stripe slot role m user segs s) := .each (fun _ _ => sendMsg_told ..) segs s

theorem sendPartials_told (rework : Bool) (stripe slot : Nat) (user : Bytes) (s : State) : Told s (sendPartials rework stripe slot user s) :=
  .each (fun _ _ => sendSegments_told ..) _ s

/-- Partial products expect no reply. -/
theorem sendSegments_yrd (rework : Bool) (stripe slot role m : Nat) (user : Bytes) (segs : List Nat) (s : State) :
    (sendSegments rework stripe slot role m user segs s).yrd = s.yrd :=
  each_keeps State.yrd (fun _ v => sendMsg_yrd _ v rfl) segs s

theorem sendPartials_yrd (rework : Bool) (stripe slot : Nat) (user : Bytes) (s : State) : (sendPartials rework stripe slot user s).yrd = s.yrd :=
  each_keeps State.yrd (fun _ _ => sendSegments_yrd ..) _ s

/-- A message to a stripe's coordinator that expects no reply. -/
theorem toCoordinator_eq {s : State} {stripe c : Nat} (known : coordinator s stripe = some c) (type role slot : Nat) (payload : Bytes) :
    toCoordinator type stripe role slot payload s = sendMsg (yMsg s type stripe c role slot payload) s := by
  unfold toCoordinator
  rw [known]

/-! ## The Yard page (R345) -/

/-- A page up to the epoch, and from the next generation on. -/
def yardHead (s : State) : Bytes :=
  be 1 0xB1 ++ be 1 s.yrd.member ++ be 1 s.yrd.parityPart ++ be 1 (b2n s.yrd.enrolled + 2 * b2n s.yrd.replacing + 4 * b2n s.yrd.declaredLost)
    ++ be 4 s.yrd.pageSeq ++ be 8 s.yrd.yardId ++ be 4 s.yrd.wantGen ++ fit s.yrd.wantDigest 48

def yardTail (s : State) : Bytes :=
  be 4 ((s.yrd.nextDesc.map Desc.gen).getD 0) ++ fit ((s.yrd.nextDesc.map fun d => sha384 d.raw).getD []) 48 ++ be 4 s.yrd.rebuildPos
    ++ (List.range 64).flatMap (fun i => be 4 (memberState s i * 2 ^ 30 + memberHost s i % 65536)) ++ zeros 1652

def yardBody (s : State) : Bytes := yardHead s ++ (be 4 s.yrd.epoch ++ (be 4 s.yrd.boundary ++ (be 4 s.yrd.reshapePos ++ yardTail s)))

theorem yardPage_eq (s : State) : yardPage s = yardBody s ++ be 4 (crc32 (yardBody s)) := by
  unfold yardPage yardBody yardHead yardTail
  simp only [List.append_assoc]

theorem yardHead_length (s : State) : (yardHead s).length = 68 := by
  simp only [yardHead, List.length_append, be_length, length_fit]

theorem yardPage_length (s : State) : (yardPage s).length = 2048 := by
  simp only [yardPage_eq, yardBody, yardTail, List.length_append, be_length, length_fit, yardHead_length, flatMap_be_length, zeros, List.length_replicate]

/-- The epoch and the last reshape checkpoint as the page holds them. -/
theorem yardPage_reads (s : State) : beAt (yardPage s) 68 4 = s.yrd.epoch % 2 ^ 32 ∧ beAt (yardPage s) 76 4 = s.yrd.reshapePos % 2 ^ 32 := by
  have head : ∀ {i j : Nat} (b : Bytes), 68 + j = i → beAt (yardHead s ++ b) i 4 = beAt b j 4 := fun b past => by
    rw [beAt_append_right (by rw [yardHead_length]; omega), yardHead_length]
    congr 1
    omega
  rw [yardPage_eq, yardBody]
  simp only [List.append_assoc]
  constructor
  · rw [head (j := 0) _ rfl, beAt_be_mod]
    rfl
  · rw [head (j := 8) _ rfl, beAt_be_skip _ (by decide), beAt_be_skip _ (by decide), show 8 - 4 - 4 = 0 from rfl, beAt_be_mod]
    rfl

/-- The page as it is about to be written, under the next sequence. -/
def paged (s : State) : State := updYrd (fun y => { y with pageSeq := y.pageSeq + 1 }) s

theorem writeYardPage_yrd (s : State) : (writeYardPage s).yrd = { s.yrd with pageSeq := s.yrd.pageSeq + 1 } := rfl

theorem cmRead_cmWrite (a : Nat) (bs : Bytes) (s : State) (wf : Memory.wf (some 0#8) s.cartMem = true) : cmRead (cmWrite a bs s) a bs.length = bs := by
  unfold cmRead
  refine List.ext_getElem (by simp) fun i h k => ?_
  rw [List.getElem_map, List.getElem_range, cmByte_cmWrite _ _ _ _ wf, if_pos ⟨by omega, by omega⟩]
  simp [List.getD, List.getElem?_eq_getElem k]

theorem cmRead_writeYardPage (s : State) (wf : Memory.wf (some 0#8) s.cartMem = true) :
    cmRead (writeYardPage s) (0x1000 + 0x800 * ((s.yrd.pageSeq + 1) % 2)) 2048 = yardPage (paged s) := by
  have read := cmRead_cmWrite (0x1000 + 0x800 * ((s.yrd.pageSeq + 1) % 2)) (yardPage (paged s)) (paged s) wf
  rwa [yardPage_length] at read

theorem cmRead_congr {s t : State} (same : t.cartMem = s.cartMem) (a n : Nat) : cmRead t a n = cmRead s a n := by
  unfold cmRead cmByte
  rw [same]

/-! ## The journal (R355, R356, R357) -/

/-- An entry without its replication. -/
def entryCore (e : JEntry) : JEntry := { e with epoch := 0, ms := 0, awaiting := [], reveal := [], later := [], dirty := false }

theorem of_entryCore {β : Type} {x e : JEntry} (h : entryCore x = entryCore e) (g : JEntry → β) (apart : ∀ y, g (entryCore y) = g y) : g x = g e :=
  (apart x).symm.trans ((congrArg g h).trans (apart e))

/-- The journal has changed, and messages have left. -/
structure Journalled (s t : State) : Prop where
  yrd : { t.yrd with journal := [], awaitReply := [] } = { s.yrd with journal := [], awaitReply := [] }
  frame : Frame 0x223000 s t
  counts : YardCounts s t

theorem Journalled.refl (s : State) : Journalled s s := ⟨rfl, .refl _ _, .refl _⟩

theorem Journalled.trans {s u t : State} (h : Journalled s u) (k : Journalled u t) : Journalled s t :=
  ⟨k.yrd.trans h.yrd, h.frame.andThen k.frame rfl, h.counts.trans k.counts⟩

theorem Told.journalled {s t : State} (h : Told s t) : Journalled s t :=
  ⟨congrArg (fun y : Yrd => { y with journal := [] }) h.yrd, h.frame.mono rfl, h.counts⟩

section Journalled

variable {s t : State} (h : Journalled s t)

include h

theorem Journalled.of_yrd {β : Type} (g : Yrd → β) (apart : ∀ y, g { y with journal := [], awaitReply := [] } = g y) : g t.yrd = g s.yrd :=
  (apart _).symm.trans ((congrArg g h.yrd).trans (apart _))

theorem Journalled.walks : SameWalks s t :=
  ⟨h.of_yrd Yrd.desc fun _ => rfl, h.of_yrd Yrd.oldDescs fun _ => rfl, h.of_yrd Yrd.map fun _ => rfl, h.of_yrd Yrd.member fun _ => rfl,
    h.of_yrd Yrd.reachable fun _ => rfl, h.of_yrd Yrd.reshapeActive fun _ => rfl, h.of_yrd Yrd.reshapePos fun _ => rfl,
    h.of_yrd Yrd.reshapeBound fun _ => rfl, h.frame.same .cfg rfl⟩

theorem Journalled.yMsg (type stripe dst role slot : Nat) (payload : Bytes) :
    yMsg t type stripe dst role slot payload = yMsg s type stripe dst role slot payload :=
  yMsg_congr (h.of_yrd Yrd.epoch fun _ => rfl) (h.of_yrd Yrd.yardId fun _ => rfl) (h.of_yrd Yrd.member fun _ => rfl) ..

end Journalled

theorem setEntry_journalled (e : JEntry) (s : State) : Journalled s (setEntry e s) := ⟨rfl, (setEntry_frame e s).mono rfl, .of_ctrs rfl⟩

theorem get?_setEntry (e : JEntry) (s : State) : AMap.get? (setEntry e s).yrd.journal e.stripe = some e := AMap.get?_set_self ..

theorem get?_setEntry_other {e : JEntry} {st : Nat} (other : e.stripe ≠ st) (s : State) :
    AMap.get? (setEntry e s).yrd.journal st = AMap.get? s.yrd.journal st := AMap.get?_set_of_ne _ _ other

theorem drawNext_journalled (s : State) : Journalled s (drawNext s) := ⟨rfl, (drawNext_frame s).mono rfl, .of_ctrs rfl⟩

theorem setEntry_drawNext_journalled (e : JEntry) (s : State) : Journalled s (setEntry e (drawNext s)) :=
  (drawNext_journalled s).trans (setEntry_journalled ..)

theorem updEntry_some {s : State} {st : Nat} {e : JEntry} (known : AMap.get? s.yrd.journal st = some e) (f : JEntry → JEntry) :
    updEntry st f s = setEntry (f e) s := by
  unfold updEntry
  rw [known]

/-- An entry as it goes to replicas; with none, what it reveals has been sent. -/
def outgoing (rs : List Nat) (e : JEntry) : JEntry :=
  if rs = [] then { e with reveal := [], later := [], dirty := false, awaiting := [] }
  else { e with awaiting := rs.foldl (fun m r => AMap.set m r ()) [], reveal := e.reveal ++ e.later, later := [], dirty := false }

theorem outgoing_core (rs : List Nat) (e : JEntry) : entryCore (outgoing rs e) = entryCore e := by
  unfold outgoing
  split <;> rfl

theorem set_ne_nil {α : Type} (m : AMap α) (i : Nat) (v : α) : AMap.set m i v ≠ [] := fun empty => by
  have found := AMap.get?_set_self m i v
  rw [empty] at found
  cases found

/-- Every replica is to acknowledge. -/
theorem outgoing_awaits {rs : List Nat} (any : rs ≠ []) (e : JEntry) : (outgoing rs e).awaiting ≠ [] := by
  have kept : ∀ (rs : List Nat) (m : AMap Unit), m ≠ [] → rs.foldl (fun m r => AMap.set m r ()) m ≠ [] := by
    intro rs
    induction rs with
    | nil => exact fun _ h => h
    | cons r rs ih => exact fun m _ => ih _ (set_ne_nil m r ())
  unfold outgoing
  rw [if_neg any]
  obtain ⟨r, rs, rfl⟩ := List.exists_cons_of_ne_nil any
  exact kept rs _ (set_ne_nil [] r ())

/-- What an entry reveals leaves at once, or the entry goes to its replicas first. -/
theorem journalOut_eq {s : State} {st : Nat} {e : JEntry} (known : AMap.get? s.yrd.journal st = some e) : journalOut st s
    = if others s st = [] then each sendMsg (e.reveal ++ e.later) (setEntry (outgoing (others s st) e) s)
      else each (fun r s' => sendMsg (yMsg s' YT.journal st r 0 0xFF (entryBytes (outgoing (others s st) e))) s') (others s st)
        (setEntry (outgoing (others s st) e) s) := by
  unfold journalOut outgoing others
  rw [known]
  dsimp only
  split <;> rfl

theorem journalOut_told {s : State} {st : Nat} {e : JEntry} (known : AMap.get? s.yrd.journal st = some e) :
    Told (setEntry (outgoing (others s st) e) s) (journalOut st s) := by
  rw [journalOut_eq known]
  split
  · exact .each (fun _ _ => sendMsg_told ..) _ _
  · exact .each (fun _ _ => sendMsg_told ..) _ _

theorem journalOut_journalled (st : Nat) (s : State) : Journalled s (journalOut st s) := by
  cases known : AMap.get? s.yrd.journal st with
  | none =>
    unfold journalOut
    rw [known]
    exact .refl s
  | some e => exact (setEntry_journalled ..).trans (journalOut_told known).journalled

theorem updEntry_journalled (st : Nat) (f : JEntry → JEntry) (s : State) : Journalled s (updEntry st f s) := by
  unfold updEntry
  split
  · exact setEntry_journalled ..
  · exact .refl s

/-- An entry that has changed. -/
def changedEntry (s : State) (msgs : List YMsg) (e : JEntry) : JEntry :=
  { e with later := e.later ++ msgs, dirty := true, epoch := s.yrd.epoch, ms := drawn s % 2 ^ 32 }

section Replicate

variable {s : State} {st : Nat} {e : JEntry} (known : AMap.get? s.yrd.journal st = some e) (own : e.stripe = st) (msgs : List YMsg)

include known own

theorem replicate_eq : replicate st msgs s = if e.awaiting = [] then journalOut st (setEntry (changedEntry s msgs e) (drawNext s))
    else setEntry (changedEntry s msgs e) (drawNext s) := by
  unfold replicate
  dsimp only
  rw [updEntry_some (s := drawNext s) known]
  have now : AMap.get? (setEntry (changedEntry s msgs e) (drawNext s)).yrd.journal st = some (changedEntry s msgs e) := own ▸ get?_setEntry ..
  show (match AMap.get? (setEntry (changedEntry s msgs e) (drawNext s)).yrd.journal st with | some x => _ | none => _) = _
  rw [now]
  rfl

/-- What replicating an entry leaves: the entry with its messages waiting, and the rest of the Yard. -/
structure Replicated (st : Nat) (e : JEntry) (msgs : List YMsg) (s t : State) : Prop where
  entry : ∃ x, AMap.get? t.yrd.journal st = some x ∧ entryCore x = entryCore e ∧ x.epoch = s.yrd.epoch
    ∧ (others s st ≠ [] → x.awaiting ≠ [] ∧ (∀ y ∈ msgs, y ∈ x.reveal ++ x.later) ∧ (e.awaiting = [] → ∀ y ∈ msgs, y ∈ x.reveal))
  others : ∀ q, q ≠ st → AMap.get? t.yrd.journal q = AMap.get? s.yrd.journal q
  journalled : Journalled s t

theorem replicate_replicated : Replicated st e msgs s (replicate st msgs s) := by
  rw [replicate_eq known own]
  have noted := setEntry_drawNext_journalled (changedEntry s msgs e) s
  have now : AMap.get? (setEntry (changedEntry s msgs e) (drawNext s)).yrd.journal st = some (changedEntry s msgs e) := own ▸ get?_setEntry ..
  have apart : ∀ q, q ≠ st → AMap.get? (setEntry (changedEntry s msgs e) (drawNext s)).yrd.journal q = AMap.get? s.yrd.journal q :=
    fun q n => get?_setEntry_other (e := changedEntry s msgs e) (fun same => n (same.symm.trans own)) (drawNext s)
  have rows : others (setEntry (changedEntry s msgs e) (drawNext s)) st = others s st := congrFun noted.walks.others st
  split
  · have told := journalOut_told now
    rw [rows] at told
    have journal := told.of_yrd Yrd.journal fun _ => rfl
    generalize setEntry (changedEntry s msgs e) (drawNext s) = u at *
    have stripe : (outgoing (others s st) (changedEntry s msgs e)).stripe = st :=
      (of_entryCore (outgoing_core ..) JEntry.stripe fun _ => rfl).trans own
    refine ⟨⟨outgoing (others s st) (changedEntry s msgs e), ?_, outgoing_core .., ?_, fun any => ⟨outgoing_awaits any _, ?_, fun _ => ?_⟩⟩, ?_, ?_⟩
    · have found := get?_setEntry (outgoing (others s st) (changedEntry s msgs e)) u
      rwa [stripe, ← journal] at found
    · unfold outgoing
      split <;> rfl
    · intro y mem
      simp [outgoing, any, changedEntry, mem]
    · intro y mem
      simp [outgoing, any, changedEntry, mem]
    · intro q n
      rw [journal, ← apart q n]
      exact get?_setEntry_other (fun same => n (same.symm.trans stripe)) u
    · exact noted.trans ((setEntry_journalled _ u).trans told.journalled)
  · next waits =>
    refine ⟨⟨changedEntry s msgs e, now, rfl, rfl, fun _ => ⟨waits, ?_, fun idle => absurd idle waits⟩⟩, apart, noted⟩
    intro y mem
    simp [changedEntry, mem]

/-- Without replicas the messages leave at once. -/
theorem replicate_alone (idle : e.awaiting = []) (alone : others s st = []) : ∃ v, replicate st msgs s = each sendMsg (e.reveal ++ (e.later ++ msgs)) v
    ∧ v.fab = s.fab ∧ Journalled s v := by
  have noted := setEntry_drawNext_journalled (changedEntry s msgs e) s
  have now : AMap.get? (setEntry (changedEntry s msgs e) (drawNext s)).yrd.journal st = some (changedEntry s msgs e) := own ▸ get?_setEntry ..
  have rows : others (setEntry (changedEntry s msgs e) (drawNext s)) st = others s st := congrFun noted.walks.others st
  rw [replicate_eq known own, if_pos idle, journalOut_eq now, rows, if_pos alone]
  exact ⟨_, rfl, rfl, noted.trans (setEntry_journalled ..)⟩

end Replicate

theorem replicate_unknown {s : State} {st : Nat} (unknown : AMap.get? s.yrd.journal st = none) (msgs : List YMsg) : replicate st msgs s = drawNext s := by
  have same : ∀ f, updEntry st f (drawNext s) = drawNext s := fun f => by
    unfold updEntry
    rw [show AMap.get? (drawNext s).yrd.journal st = none from unknown]
  unfold replicate
  dsimp only
  rw [same, show AMap.get? (drawNext s).yrd.journal st = none from unknown]

/-- SEAL goes to the holder of every role (R357). -/
def sealMsgs (s : State) (st : Nat) (e : JEntry) : List YMsg :=
  (List.range e.m).map fun r => yMsg s YT.sealStripe st (AMap.getD e.holders (r + 1) 0xFF) (r + 1) 0xFF (be 4 (nullMap e))

section Seal

variable {s : State} {st : Nat} {e : JEntry} (known : AMap.get? s.yrd.journal st = some e)

include known

theorem trySeal_open (unready : ¬(e.st = .opened ∧ allDone e = true)) : trySeal st s = s := by
  unfold trySeal
  rw [known]
  exact if_neg unready

theorem trySeal_seals (ready : e.st = .opened ∧ allDone e = true) : trySeal st s = replicate st (sealMsgs s st e) (setEntry { e with st := .sealed } s) := by
  unfold trySeal
  rw [known]
  exact if_pos ready

/-- What sealing, where it is due, leaves of an entry. -/
theorem trySeal_entry (own : e.stripe = st) : ∃ x, AMap.get? (trySeal st s).yrd.journal st = some x ∧ entryCore { x with st := e.st } = entryCore e
    ∧ (¬(e.st = .opened ∧ allDone e = true) → x = e)
    ∧ (e.st = .opened ∧ allDone e = true → x.st = .sealed
        ∧ (others s st ≠ [] → x.awaiting ≠ [] ∧ ∀ y ∈ sealMsgs s st e, y ∈ x.reveal ++ x.later)) := by
  by_cases ready : e.st = .opened ∧ allDone e = true
  · have sealed : AMap.get? (setEntry { e with st := .sealed } s).yrd.journal st = some { e with st := .sealed } := own ▸ get?_setEntry ..
    obtain ⟨⟨x, found, core, -, waits⟩, -, -⟩ := replicate_replicated sealed own (sealMsgs s st e)
    rw [trySeal_seals known ready]
    have rows := congrFun (setEntry_journalled { e with st := .sealed } s).walks.others st
    rw [rows] at waits
    refine ⟨x, found, ?_, fun unready => absurd ready unready, fun _ => ⟨of_entryCore core JEntry.st fun _ => rfl, fun any => ?_⟩⟩
    · exact congrArg (fun y : JEntry => { y with st := e.st }) core
    · obtain ⟨awaits, reveals, -⟩ := waits any
      exact ⟨awaits, reveals⟩
  · rw [trySeal_open known ready]
    exact ⟨e, known, rfl, fun _ => rfl, fun seals => absurd seals ready⟩

end Seal

theorem replicate_journalled (st : Nat) (msgs : List YMsg) (s : State) : Journalled s (replicate st msgs s) := by
  have noted : Journalled s (updEntry st (changedEntry s msgs) (drawNext s)) := (drawNext_journalled s).trans (updEntry_journalled ..)
  unfold replicate
  dsimp only
  split
  · split
    · exact noted.trans (journalOut_journalled ..)
    · exact noted
  · exact noted

theorem trySeal_journalled (st : Nat) (s : State) : Journalled s (trySeal st s) := by
  unfold trySeal
  split
  · exact .refl s
  · split
    · exact (setEntry_journalled ..).trans (replicate_journalled ..)
    · exact .refl s

end Sys2Proof.Machine
end

/-! Descriptor segments, ledger entries, and reshapes from their start to their checkpoints (O58). -/

section

namespace Sys2Proof.Machine

/-! ## Parity that is reworked (R375, R376) -/

/-- The leader has opened the stripe that is reworked next. -/
def leaderOpens (s : State) : State :=
  if coordinator s s.yrd.reshapeR = some s.yrd.member ∧ (AMap.get? s.yrd.journal s.yrd.reshapeR).isNone then
    replicate s.yrd.reshapeR [] (setEntry (newEntry s s.yrd.reshapeR true) s)
  else s

theorem leaderOpens_journalled (s : State) : Journalled s (leaderOpens s) := by
  unfold leaderOpens
  split
  · exact (setEntry_journalled ..).trans (replicate_journalled ..)
  · exact .refl s

/-- This member's part of a stripe that is reworked: its unit leaves under the new coefficients, or its slot is null. -/
def reworkSent (r : Nat) (s : State) : State :=
  if s.yrd.reshapeSent = some r then s
  else
    match dataSlot s r s.yrd.member with
    | none => updYrd (fun y => { y with reshapeSent := some r }) s
    | some k =>
      match s.yrd.units.find? fun u => u.stripe == r && u.place == k with
      | none => toCoordinator YT.nullOk r 0 k [] (updYrd (fun y => { y with reshapeSent := some r }) s)
      | some u =>
        match unitAtHand s u.part u.ds with
        | none => wantTape u.part u.ds s
        | some b => sendPartials true r k b (toCoordinator YT.claimed r 0 k (be 1 u.part ++ be 4 u.ds) (updYrd (fun y => { y with reshapeSent := some r }) s))

theorem reshapeStep_works {s : State} (active : s.yrd.reshapeActive = true) (below : s.yrd.reshapeR < s.yrd.reshapeBound) :
    reshapeStep s = reworkSent s.yrd.reshapeR (leaderOpens s) :=
  (if_neg (by simp [active])).trans (if_neg (by omega))

theorem reshapeStep_ends {s : State} (active : s.yrd.reshapeActive = true) (past : s.yrd.reshapeBound ≤ s.yrd.reshapeR) :
    reshapeStep s = updYrd (fun y => { y with reshapeActive := false }) s :=
  (if_neg (by simp [active])).trans (if_pos past)

theorem reshapeStep_inactive {s : State} (inactive : s.yrd.reshapeActive = false) : reshapeStep s = s := if_pos inactive

/-- Only what awaits a reply, and which stripe has been sent for, changes. -/
theorem reworkSent_yrd (r : Nat) (s : State) :
    { (reworkSent r s).yrd with awaitReply := [], reshapeSent := none } = { s.yrd with awaitReply := [], reshapeSent := none } := by
  have told : ∀ {v t : State}, Told v t → { v.yrd with awaitReply := [], reshapeSent := none } = { s.yrd with awaitReply := [], reshapeSent := none } →
      { t.yrd with awaitReply := [], reshapeSent := none } = { s.yrd with awaitReply := [], reshapeSent := none } :=
    fun h before => (congrArg (fun y : Yrd => { y with reshapeSent := none }) h.yrd).trans before
  unfold reworkSent
  split
  · rfl
  split
  · rfl
  split
  · exact told (toCoordinator_told ..) rfl
  split
  · rw [wantTape_yrd]
  · exact told ((toCoordinator_told ..).trans (sendPartials_told ..)) rfl

theorem reworkSent_of_yrd {β : Type} (g : Yrd → β) (apart : ∀ y, g { y with awaitReply := [], reshapeSent := none } = g y) (r : Nat) (s : State) :
    g (reworkSent r s).yrd = g s.yrd :=
  (apart _).symm.trans ((congrArg g (reworkSent_yrd r s)).trans (apart _))

/-- A step leaves the stripe that the reshape has come to. -/
theorem reshapeStep_reshapeR (s : State) : (reshapeStep s).yrd.reshapeR = s.yrd.reshapeR := by
  by_cases active : s.yrd.reshapeActive = true
  · by_cases below : s.yrd.reshapeR < s.yrd.reshapeBound
    · rw [reshapeStep_works active below, reworkSent_of_yrd Yrd.reshapeR fun _ => rfl]
      exact (leaderOpens_journalled s).of_yrd Yrd.reshapeR fun _ => rfl
    · rw [reshapeStep_ends active (by omega)]
      rfl
  · rw [reshapeStep_inactive (by simpa using active)]

/-- The leader's entry of a stripe without one. -/
theorem leaderOpens_entry {s : State} (leader : coordinator s s.yrd.reshapeR = some s.yrd.member) (unknown : AMap.get? s.yrd.journal s.yrd.reshapeR = none) :
    ∃ e, AMap.get? (leaderOpens s).yrd.journal s.yrd.reshapeR = some e ∧ e.rework = true ∧ e.st = .opened
      ∧ e.holders = (rolesOf s true s.yrd.reshapeR).map fun j => (j, roleHolder s true s.yrd.reshapeR j) := by
  have opened : leaderOpens s = _ := if_pos ⟨leader, by rw [unknown]; rfl⟩
  have known : AMap.get? (setEntry (newEntry s s.yrd.reshapeR true) s).yrd.journal s.yrd.reshapeR = some (newEntry s s.yrd.reshapeR true) := get?_setEntry ..
  obtain ⟨⟨e, found, core, -⟩, -, -⟩ := replicate_replicated known rfl []
  rw [opened]
  exact ⟨e, found, of_entryCore core JEntry.rework fun _ => rfl, of_entryCore core JEntry.st fun _ => rfl, of_entryCore core JEntry.holders fun _ => rfl⟩

theorem leaderOpens_foreign {s : State} {c : Nat} (known : coordinator s s.yrd.reshapeR = some c) (foreign : c ≠ s.yrd.member) : leaderOpens s = s :=
  if_neg fun h => foreign (Option.some.inj (known.symm.trans h.1))

/-- This member has done its part of a stripe. -/
def sentFor (r : Nat) (s : State) : State := updYrd (fun y => { y with reshapeSent := some r }) s

theorem reworkSent_unit {s : State} {r k : Nat} {u : YUnit} {b : Bytes} (unsent : s.yrd.reshapeSent ≠ some r) (slot : dataSlot s r s.yrd.member = some k)
    (unit : (s.yrd.units.find? fun u => u.stripe == r && u.place == k) = some u) (atHand : unitAtHand s u.part u.ds = some b) :
    reworkSent r s = sendPartials true r k b (toCoordinator YT.claimed r 0 k (be 1 u.part ++ be 4 u.ds) (sentFor r s)) := by
  unfold reworkSent
  rw [if_neg unsent, slot]
  dsimp only
  rw [unit]
  dsimp only
  rw [atHand]
  rfl

/-- A reshape begins, or resumes at its last checkpoint. -/
def reshapeBegun (s : State) : State := updYrd (fun y => { y with reshapeActive := true, reshapeR := y.reshapePos, reshapeSent := none }) s

section Start

variable {src arg : Nat} {s w : State} (taken : Takes .yard src 0x0006 arg s w)

include taken

theorem exec_reshapeStart : exec (.reshapeStart src arg) s
    = .next (if (w.yrd.desc.any fun d => d.gen == bits arg 31 0) && decide (w.yrd.reshapePos < w.yrd.reshapeBound) then reshapeStep (reshapeBegun w) else w) :=
  congrArg go (taken.act _)

theorem exec_reshapeStart_begins {d : Desc} (desc : w.yrd.desc = some d) (gen : d.gen = bits arg 31 0) (below : w.yrd.reshapePos < w.yrd.reshapeBound) :
    exec (.reshapeStart src arg) s = .next (reworkSent w.yrd.reshapePos (leaderOpens (reshapeBegun w))) := by
  rw [exec_reshapeStart taken, if_pos (by simp [desc, gen, below]), reshapeStep_works rfl below]
  rfl

end Start

/-- The stripe at the last checkpoint is the leader's. -/
theorem coordinator_reshapeBegun {w : State} (below : w.yrd.reshapePos < w.yrd.reshapeBound) :
    coordinator (reshapeBegun w) w.yrd.reshapePos = leaderOf w := by
  have reworks : reworking (reshapeBegun w) w.yrd.reshapePos = true := by simp [reworking, reshapeBegun, updYrd, below]
  unfold coordinator
  rw [if_pos reworks]
  rfl

/-! ## Descriptor segments (R346) -/

section Messages

variable {m : YMsg} {s : State}

/-- A segment of the descriptor held. -/
def descSegment (m : YMsg) (d : Desc) (s : State) (i : Nat) : YMsg :=
  { yMsg s YT.descPart 0xFFFFFFFF m.src 0 0xFF (segment d.raw i) with seg := i }

theorem exec_descReq (heard : Heard YT.descReq m s) : exec (.descReq m) s = .next (match (takeDelivered m s).yrd.desc with
    | none => takeDelivered m s
    | some d => each (fun i z => sendMsg (descSegment m d z i) z) [0, 1, 2] (takeDelivered m s)) := by
  show execDescReq m s = _
  unfold execDescReq
  exact heard.receive _

/-- The segments held with the one that has come. -/
def descParts (m : YMsg) (s : State) : AMap Bytes := AMap.set s.yrd.descParts m.seg m.payload

/-- A whole descriptor is that of the Yard page. -/
def descFits (raw : Bytes) (y : Yrd) : Bool := sha384 raw == y.wantDigest && (Desc.parse raw).gen == y.wantGen && raw.length == descBytes

theorem exec_descPart (heard : Heard YT.descPart m s) : exec (.descPart m) s = .next (match AMap.get? (descParts m (takeDelivered m s)) 0,
      AMap.get? (descParts m (takeDelivered m s)) 1, AMap.get? (descParts m (takeDelivered m s)) 2 with
    | some a, some b, some c => updYrd (fun y => { y with
        descParts := [], desc := if descFits (a ++ b ++ c) (takeDelivered m s).yrd then some (Desc.parse (a ++ b ++ c)) else y.desc }) (takeDelivered m s)
    | _, _, _ => updYrd (fun y => { y with descParts := descParts m (takeDelivered m s) }) (takeDelivered m s)) := by
  show execDescPart m s = _
  unfold execDescPart
  exact heard.receive _

/-! ## Ledgers (R373, R376) -/

/-- One Loss Log entry of a ledger. -/
def lossTaken (b : Bytes) (i : Nat) (s : State) : State :=
  let l := lossParse (slice b (64 * i) 64)
  if s.shd.lossLog.contains l then s
  else
    let s1 := appendLoss Src.yard l s
    if l.member = s.yrd.member ∧ l.part < 4 then deferError l.part l.first l.count Status.recordLost s1.hq.acceptSeq s1 else s1

theorem lossTaken_lossLog (b : Bytes) (i : Nat) (s : State) :
    lossParse (slice b (64 * i) 64) ∈ (lossTaken b i s).shd.lossLog ∧ ∀ l ∈ s.shd.lossLog, l ∈ (lossTaken b i s).shd.lossLog := by
  have log := appendLoss_lossLog Src.yard (lossParse (slice b (64 * i) 64)) s
  unfold lossTaken
  dsimp only
  split
  · next known => exact ⟨List.contains_iff_mem.mp known, fun _ mem => mem⟩
  · have added : lossParse (slice b (64 * i) 64) ∈ (appendLoss Src.yard (lossParse (slice b (64 * i) 64)) s).shd.lossLog
        ∧ ∀ l ∈ s.shd.lossLog, l ∈ (appendLoss Src.yard (lossParse (slice b (64 * i) 64)) s).shd.lossLog := by
      rw [log]
      exact ⟨by simp, fun l mem => List.mem_append_left _ mem⟩
    split
    · rwa [(deferError_frame ..).same .shd rfl]
    · exact added

/-- The stand-ins of a ledger. -/
def standInsOf (b : Bytes) : List (Nat × Nat × Nat) :=
  (List.range (b.length / 6)).map fun i => (beAt b (6 * i) 4, beAt b (6 * i + 4) 1, beAt b (6 * i + 5) 1)

section Ledger

variable (heard : Heard YT.ledger m s)

include heard

theorem exec_ledger : exec (.ledger m) s = .next (match beAt m.payload 0 1 with
    | 0 => each (lossTaken (m.payload.drop 1)) (List.range ((m.payload.drop 1).length / 64)) (takeDelivered m s)
    | 1 => updYrd (fun y => { y with standIns := y.standIns ++ (standInsOf (m.payload.drop 1)).filter fun x => !y.standIns.contains x }) (takeDelivered m s)
    | _ => writeYardPage (updYrd (fun y => { y with reshapePos := beAt (m.payload.drop 1) 0 4, reshapeR := max y.reshapeR (beAt (m.payload.drop 1) 0 4) }) (takeDelivered m s))) := by
  show execLedger m s = _
  unfold execLedger
  exact heard.receive _

end Ledger

end Messages

/-! ## Checkpoints (R376) -/

/-- The checkpoint is on the leader's page. -/
def checkpointed (s : State) : State := writeYardPage (updYrd (fun y => { y with reshapePos := y.reshapeR }) s)

/-- A ledger of the checkpoint, for a member that is there. -/
def checkpointTold (x : Nat × (Nat × Nat)) (s : State) : State :=
  if x.2.1 = 0 ∧ isSelf s x.1 = false then sendMsg (yMsg s YT.ledger 0xFFFFFFFF x.1 0 0xFF (be 1 2 ++ be 4 s.yrd.reshapeR)) s else s

theorem exec_reshapeCheckpoint {s : State} (leader : isLeader s = true) (due : s.yrd.reshapePos + 64 ≤ s.yrd.reshapeR) :
    exec .reshapeCheckpoint s = .next (each checkpointTold (checkpointed s).yrd.map (checkpointed s)) :=
  if_neg (by simp [leader]; omega)

theorem leVal_lt : ∀ b : Bytes, leVal b < 256 ^ b.length
  | [] => by decide
  | x :: b => by
    have rest := leVal_lt b
    have byte := x.isLt
    rw [leVal, List.length_cons, Nat.pow_succ]
    omega

theorem beVal_lt (b : Bytes) : beVal b < 256 ^ b.length := by
  have below := leVal_lt b.reverse
  rwa [List.length_reverse] at below

theorem beAt_lt (b : Bytes) (i n : Nat) : beAt b i n < 256 ^ n :=
  Nat.lt_of_lt_of_le (beVal_lt _) (Nat.pow_le_pow_right (by decide) (by simp [slice]))

/-- Settles O58: a message is acted on in the state that has taken it; messages that leave change only the fabric (`Told`), and the leader's
entry of a stripe that is reworked goes through `replicate`. -/
theorem descriptorsLedgersAndReshapes : Obligations.DescriptorsLedgersAndReshapes := by
  intro s m
  have yrd := takeDelivered_yrd m s
  refine ⟨fun heard => ⟨?segments, ?nothing⟩, fun heard => ⟨?kept, ?whole⟩, fun heard => ⟨?losses, ?standIns, ?checkpoint⟩, ?start, ?leader, ?others⟩
  case segments =>
    intro d desc
    have ran := exec_descReq heard
    rw [yrd, desc] at ran
    obtain ⟨sent, kept, -⟩ := each_sendMsg (descSegment m d) (fun h i => by unfold descSegment; rw [yMsg_of_yrd h]) (fun _ _ => rfl) [0, 1, 2] (takeDelivered m s)
    refine ⟨_, ran, kept.trans yrd, ?_⟩
    have segments : descSegment m d (takeDelivered m s) = descSegment m d s := by
      funext i
      unfold descSegment
      rw [yMsg_of_yrd yrd]
    dsimp only
    rw [sent, segments]
    rfl
  case nothing =>
    intro desc
    have ran := exec_descReq heard
    rw [yrd, desc] at ran
    exact ⟨_, ran, yrd, rfl⟩
  case kept =>
    rintro ⟨i, low, missing⟩
    have ran := exec_descPart heard
    have parts : descParts m (takeDelivered m s) = descParts m s := by rw [descParts, descParts, yrd]
    have waits : exec (.descPart m) s = .next (updYrd (fun y => { y with descParts := descParts m s }) (takeDelivered m s)) := by
      rw [ran, parts]
      split
      · next a b c ha hb hc =>
        have there : ∀ i < 3, (AMap.get? (descParts m s) i).isSome = true := fun i low => by
          interval_cases i
          · rw [ha]; rfl
          · rw [hb]; rfl
          · rw [hc]; rfl
        have found := there i low
        rw [descParts, missing] at found
        exact absurd found (by decide)
      · rfl
    exact ⟨_, waits, congrArg (fun y : Yrd => { y with descParts := descParts m s }) yrd⟩
  case whole =>
    intro a b c ha hb hc
    have ran := exec_descPart heard
    have parts : descParts m (takeDelivered m s) = AMap.set s.yrd.descParts m.seg m.payload := by rw [descParts, yrd]
    rw [parts, ha, hb, hc] at ran
    refine ⟨fun fits => ⟨_, ran, ?_⟩, fun misfit => ⟨_, ran, ?_⟩⟩
    · obtain ⟨digest, gen, length⟩ := fits
      show { (takeDelivered m s).yrd with
        descParts := [], desc := if descFits (a ++ b ++ c) (takeDelivered m s).yrd then some (Desc.parse (a ++ b ++ c)) else (takeDelivered m s).yrd.desc } = _
      rw [yrd, if_pos (by simp only [descFits, digest, gen, length, descBytes, beq_self_eq_true, Bool.and_self])]
    · show { (takeDelivered m s).yrd with
        descParts := [], desc := if descFits (a ++ b ++ c) (takeDelivered m s).yrd then some (Desc.parse (a ++ b ++ c)) else (takeDelivered m s).yrd.desc } = _
      rw [yrd, if_neg (by simpa [descFits, descBytes, and_assoc] using misfit)]
  case losses =>
    intro kind
    have ran := exec_ledger heard
    rw [kind] at ran
    have shd : (takeDelivered m s).shd = s.shd := (takeDelivered_frame m s).same .shd rfl
    refine ⟨_, ran, ?_, ?_⟩
    · exact each_inv (P := fun v => ∀ l ∈ s.shd.lossLog, l ∈ v.shd.lossLog) _ (fun l mem => by rwa [shd])
        fun i _ v kept l mem => (lossTaken_lossLog _ i v).2 l (kept l mem)
    · intro i below
      exact each_sets (P := fun i v => lossParse (slice (m.payload.drop 1) (64 * i) 64) ∈ v.shd.lossLog) (fun i v => (lossTaken_lossLog _ i v).1)
        (fun i _ v held => (lossTaken_lossLog _ i v).2 _ held) _ _ i (List.mem_range.mpr below)
  case standIns =>
    intro kind
    have ran := exec_ledger heard
    rw [kind] at ran
    refine ⟨_, ran, ?_⟩
    show (∀ x ∈ s.yrd.standIns, x ∈ (takeDelivered m s).yrd.standIns ++ (standInsOf (m.payload.drop 1)).filter fun x => !(takeDelivered m s).yrd.standIns.contains x)
      ∧ ∀ i, i < (m.payload.drop 1).length / 6 → _ ∈ (takeDelivered m s).yrd.standIns ++ (standInsOf (m.payload.drop 1)).filter fun x => !(takeDelivered m s).yrd.standIns.contains x
    rw [yrd]
    refine ⟨fun x mem => List.mem_append_left _ mem, fun i below => ?_⟩
    have listed : (beAt (m.payload.drop 1) (6 * i) 4, beAt (m.payload.drop 1) (6 * i + 4) 1, beAt (m.payload.drop 1) (6 * i + 5) 1) ∈ standInsOf (m.payload.drop 1) :=
      List.mem_map.mpr ⟨i, List.mem_range.mpr below, rfl⟩
    by_cases known : (beAt (m.payload.drop 1) (6 * i) 4, beAt (m.payload.drop 1) (6 * i + 4) 1, beAt (m.payload.drop 1) (6 * i + 5) 1) ∈ s.yrd.standIns
    · exact List.mem_append_left _ known
    · exact List.mem_append_right _ (List.mem_filter.mpr ⟨listed, by simpa using known⟩)
  case checkpoint =>
    intro kind
    have ran := exec_ledger heard
    have other : ∀ {n : Nat}, 2 ≤ n → ∀ {α : Type} (a b c : α), (match n with | 0 => a | 1 => b | _ => c) = c := by
      rintro (_ | _ | n) two α a b c
      · omega
      · omega
      · rfl
    rw [other kind] at ran
    have cartMem : (takeDelivered m s).cartMem = s.cartMem := (takeDelivered_frame m s).same .cartMem rfl
    generalize takeDelivered m s = u at yrd ran cartMem
    refine ⟨_, ran, ?_, fun wf => ?_⟩
    · exact congrArg (fun y : Yrd => { y with
        reshapePos := beAt (m.payload.drop 1) 0 4, reshapeR := max y.reshapeR (beAt (m.payload.drop 1) 0 4), pageSeq := y.pageSeq + 1 }) yrd
    · rw [writeYardPage_yrd, cmRead_writeYardPage _ (cartMem ▸ wf), (yardPage_reads _).2]
      exact Nat.mod_eq_of_lt (beAt_lt _ 0 4)
  case start =>
    intro src arg w taken
    refine ⟨?_, fun idle => ⟨w, ?_, rfl⟩⟩
    · rintro ⟨d, desc, gen⟩ below
      have ran := exec_reshapeStart_begins taken desc gen below
      have opens := leaderOpens_journalled (reshapeBegun w)
      refine ⟨⟨_, ran, ?_, ?_⟩, fun leader unknown => ⟨_, ran, ?_⟩, fun k x b c leader foreign slot unit atHand => ⟨_, ran, ?_⟩⟩
      · exact (reworkSent_of_yrd Yrd.reshapeActive (fun _ => rfl) ..).trans (opens.of_yrd Yrd.reshapeActive fun _ => rfl)
      · exact (reworkSent_of_yrd Yrd.reshapeR (fun _ => rfl) ..).trans (opens.of_yrd Yrd.reshapeR fun _ => rfl)
      · beta_reduce
        rw [reworkSent_of_yrd Yrd.journal fun _ => rfl]
        exact leaderOpens_entry (s := reshapeBegun w) ((coordinator_reshapeBegun below).trans leader) unknown
      · have known := (coordinator_reshapeBegun below).trans leader
        beta_reduce
        rw [leaderOpens_foreign known foreign, reworkSent_unit (s := reshapeBegun w) (fun h => nomatch h) slot unit atHand]
        have sent : toCoordinator YT.claimed w.yrd.reshapePos 0 k (be 1 x.part ++ be 4 x.ds) (sentFor w.yrd.reshapePos (reshapeBegun w))
            = sendOnce (yMsg w YT.claimed w.yrd.reshapePos c 0 k (be 1 x.part ++ be 4 x.ds)) (sentFor w.yrd.reshapePos (reshapeBegun w)) := by
          rw [toCoordinator_eq (s := sentFor w.yrd.reshapePos (reshapeBegun w)) known, sendMsg_unrepeated _ _ rfl]
          rfl
        have kept := (sendPartials_yrd true w.yrd.reshapePos k b _).trans (sendOnce_yrd (yMsg w YT.claimed w.yrd.reshapePos c 0 k (be 1 x.part ++ be 4 x.ds))
          (sentFor w.yrd.reshapePos (reshapeBegun w)))
        rw [sent]
        exact ⟨kept, sentFor w.yrd.reshapePos (reshapeBegun w), ⟨rfl, kept.symm, rfl⟩, rfl⟩
    · rw [exec_reshapeStart taken, if_neg]
      simp only [Bool.and_eq_true, Option.any_eq_true, beq_iff_eq, decide_eq_true_eq, not_and]
      rintro ⟨d, desc, gen⟩ below
      rcases idle with none | past
      · exact none ⟨d, desc, gen⟩
      · omega
  case leader =>
    intro leader due
    have told : ∀ x v, (checkpointTold x v).yrd = v.yrd := fun x v => by
      unfold checkpointTold
      split
      · exact sendMsg_yrd _ v rfl
      · rfl
    have same := each_eq_of_kept (P := fun z => z.yrd = (checkpointed s).yrd) (f := checkpointTold) (g := fun (x : Nat × (Nat × Nat)) z =>
        if x.2.1 = 0 ∧ isSelf s x.1 = false then sendMsg (yMsg s YT.ledger 0xFFFFFFFF x.1 0 0xFF (be 1 2 ++ be 4 s.yrd.reshapeR)) z else z)
      (fun x z kept => by
        unfold checkpointTold isSelf yMsg
        rw [kept]
        rfl)
      (fun x z kept => (told x z).trans kept) (checkpointed s).yrd.map (checkpointed s) rfl
    exact ⟨_, exec_reshapeCheckpoint leader due, (each_keeps State.yrd told _ _).trans rfl, checkpointed s, ⟨rfl, (each_keeps State.yrd told _ _).symm, rfl⟩,
      congrArg State.fab same.1⟩
  case others =>
    intro idle
    exact ⟨s, if_pos (by rcases idle with h | h; exact .inl h; exact .inr h), rfl⟩

end Sys2Proof.Machine
end

/-! The Yard's commands: enrolling, declaring a member lost, replacing one, reshaping, and the query (O59). -/

section

namespace Sys2Proof.Machine

/-! ## Changes that are wanted (R361) -/

/-- A change that begins leaves of the Yard all but the change itself. -/
theorem startChange_yrd (s : State) : { (startChange s).yrd with change := none } = { s.yrd with change := none } := by
  unfold startChange
  split
  · rfl
  · have sent : ∀ (xs : List (Nat × (Nat × Nat))) (v : State), (each (fun (x : Nat × (Nat × Nat)) s =>
        if memberReachable s x.1 ∧ isSelf s x.1 = false ∧ x.2.1 < 2 then sendMsg (yMsg s YT.stateQuery 0xFFFFFFFF x.1 0 0xFF []) s else s) xs v).yrd = v.yrd :=
      fun xs v => each_keeps State.yrd (fun x v => by
        split
        · exact sendMsg_yrd _ v rfl
        · rfl) xs v
    dsimp only
    rw [sent]
    rfl

theorem startChange_of_yrd {β : Type} (g : Yrd → β) (apart : ∀ y, g { y with change := none } = g y) (s : State) : g (startChange s).yrd = g s.yrd :=
  (apart _).symm.trans ((congrArg g (startChange_yrd s)).trans (apart _))

/-- With a quorum a change is under way as soon as one is wanted. -/
theorem startChange_begins {s : State} (quorum : hasQuorum s = true) (wanted : s.yrd.wants ≠ []) : (startChange s).yrd.change.isSome = true := by
  unfold startChange
  split
  · next idle => simpa [wanted, quorum] using idle
  · exact (congrArg (fun y : Yrd => y.change.isSome) (each_keeps State.yrd (fun x v => by
      split
      · exact sendMsg_yrd _ v rfl
      · rfl) _ _)).trans rfl

/-- A change of one member is wanted: it stands last, and with a quorum a change is under way. -/
theorem want_spec (w : Want) (s : State) : (want w s).yrd.wants = s.yrd.wants ++ [w] ∧ (hasQuorum s = true → (want w s).yrd.change.isSome = true) := by
  refine ⟨startChange_of_yrd Yrd.wants (fun _ => rfl) _, fun quorum => startChange_begins quorum ?_⟩
  simp [updYrd]

theorem want_of_yrd {β : Type} (g : Yrd → β) (apart : ∀ y, g { y with change := none } = g y) (wants : ∀ y ws, g { y with wants := ws } = g y) (w : Want)
    (s : State) : g (want w s).yrd = g s.yrd := (startChange_of_yrd g apart _).trans (wants ..)

theorem findCmd_want (w : Want) (s : State) (q : Nat) : findCmd (want w s) q = findCmd s q := findCmd_of_frame (want_frame w s) rfl q

theorem hasQuorum_congr {s t : State} (walks : SameWalks s t) (enrolled : t.yrd.enrolled = s.yrd.enrolled) : hasQuorum t = hasQuorum s := by
  unfold hasQuorum reachesHalf
  rw [enrolled, walks.map, walks.memberReachable]

/-- JOIN expects no reply. -/
theorem sendJoin_yrd (s : State) : (sendJoin s).yrd = s.yrd := by
  unfold sendJoin
  dsimp only
  split
  · exact sendMsg_yrd _ s rfl
  · exact each_keeps State.yrd (fun x v => (fabSend_frame ..).same .yrd rfl) _ _

/-- A command that ends without effect on the Yard. -/
theorem ended_complete_yrd {s : State} {q : Nat} {c : Cmd} (found : findCmd s q = some c) (st r : Nat) :
    Ended (complete q st r s) q st r ∧ (complete q st r s).yrd = s.yrd := ⟨.complete found st r, (complete_frame ..).same .yrd rfl⟩

/-! ## YARD_ENROL (R344, R347) -/

section Rows

variable {s : State} {q : Nat} {c : Cmd} {sgl data : Bytes}

/-- The descriptor that a command brings. -/
def givenDesc (data : Bytes) : Desc := Desc.parse (fit data descBytes)

theorem list_good (length : c.e.length = descBytes) (list : sglOk c.e sgl c.e.length = true) :
    ¬(c.e.length ≠ descBytes ∨ sglOk c.e sgl c.e.length = false) := by
  rintro (other | bad)
  · exact other length
  · rw [list] at bad
    cases bad

section Enrol

variable (turn : due s q 0xB0 = some c)

include turn

theorem exec_yardEnrol_badList (bad : c.e.length ≠ descBytes ∨ sglOk c.e sgl c.e.length = false) :
    exec (.yardEnrol q sgl data) s = .next (complete q Status.invalidField 0 s) := by
  show execYardEnrol q sgl data s = _
  unfold execYardEnrol
  rw [turn]
  exact if_pos bad

variable (length : c.e.length = descBytes) (list : sglOk c.e sgl c.e.length = true)

include length list

theorem exec_yardEnrol_notReady (out : s.cart.st ≠ .ready) : exec (.yardEnrol q sgl data) s = .next (complete q Status.notReady 0 s) := by
  show execYardEnrol q sgl data s = _
  unfold execYardEnrol
  rw [turn]
  exact (if_neg (list_good length list)).trans (if_pos (by simp [serving, out]))

variable (ready : s.cart.st = .ready)

include ready

theorem exec_yardEnrol_unaccepted (bad : (givenDesc data).accepted = false) :
    exec (.yardEnrol q sgl data) s = .next (complete q Status.configInvalid 0 s) := by
  show execYardEnrol q sgl data s = _
  unfold execYardEnrol
  rw [turn]
  exact (if_neg (list_good length list)).trans ((if_neg (by simp [serving, ready])).trans (if_pos bad))

variable (good : (givenDesc data).accepted = true)

include good

theorem exec_yardEnrol_foreign (foreign : (givenDesc data).n ≤ bits c.e.param 5 0 ∨ (s.yrd.enrolled = true ∧ s.yrd.yardId ≠ (givenDesc data).yard)) :
    exec (.yardEnrol q sgl data) s = .next (complete q Status.invalidField 0 s) := by
  show execYardEnrol q sgl data s = _
  unfold execYardEnrol
  rw [turn]
  exact (if_neg (list_good length list)).trans ((if_neg (by simp [serving, ready])).trans ((if_neg (by rw [← givenDesc, good]; decide)).trans (if_pos foreign)))

/-- The member as it is enrolled: under an epoch that is known, or as the only member of the first one. -/
def enrolled (d : Desc) (i : Nat) (s : State) : State :=
  if decide (s.yrd.yardId = d.yard ∧ s.yrd.map ≠ []) = true then takeMember d i false s
  else updYrd (fun y => { y with epoch := 1, boundary := 0, map := [(i, (0, nodeId s))], history := [] }) (takeMember d i false s)

/-- The Yard page and the descriptor of an enrolled member are written. -/
def enrolmentKept (d : Desc) (mask : Nat) (s : State) : State :=
  updCart (fun x => { x with enrolMask := mask }) (storeDesc d (writeYardPage (updCart (fun c => { c with enrolMask := 0 }) s)))

theorem exec_yardEnrol_enrols (member : bits c.e.param 5 0 < (givenDesc data).n) (own : s.yrd.enrolled = false ∨ s.yrd.yardId = (givenDesc data).yard) :
    exec (.yardEnrol q sgl data) s = .next (complete q Status.ok 0
      (sendJoin (enrolmentKept (givenDesc data) (bits c.e.param 11 8) (enrolled (givenDesc data) (bits c.e.param 5 0) s)))) := by
  show execYardEnrol q sgl data s = _
  unfold execYardEnrol
  rw [turn]
  refine (if_neg (list_good length list)).trans ((if_neg (by simp [serving, ready])).trans ((if_neg (by rw [← givenDesc, good]; decide)).trans (if_neg ?_)))
  rintro (high | ⟨h, k⟩)
  · exact absurd member (Nat.not_lt.mpr high)
  · rcases own with out | same
    · rw [out] at h
      cases h
    · exact k same

end Enrol

end Rows

/-- What an enrolment leaves: the Yard's state with the next page, and the page in cartridge memory. -/
theorem enrolmentKept_spec (d : Desc) (mask : Nat) (s : State) : (enrolmentKept d mask s).yrd = { s.yrd with pageSeq := s.yrd.pageSeq + 1 }
    ∧ (enrolmentKept d mask s).cart.enrolMask = mask ∧ (enrolmentKept d mask s).hq = s.hq
    ∧ (enrolmentKept d mask s).cartMem = (writeYardPage (updCart (fun c => { c with enrolMask := 0 }) s)).cartMem := by
  have kept := storeDesc_frame d (writeYardPage (updCart (fun c => { c with enrolMask := 0 }) s))
  unfold enrolmentKept
  exact ⟨kept.same .yrd rfl, rfl, kept.same .hq rfl, kept.same .cartMem rfl⟩

theorem enrolled_spec (d : Desc) (i : Nat) (s : State) :
    (enrolled d i s).yrd.enrolled = true ∧ (enrolled d i s).yrd.member = i ∧ (enrolled d i s).yrd.yardId = d.yard ∧ (enrolled d i s).yrd.desc = some d
      ∧ (enrolled d i s).yrd.replacing = false ∧ (enrolled d i s).yrd.wantGen = d.gen ∧ (enrolled d i s).yrd.wantDigest = sha384 d.raw
      ∧ (enrolled d i s).yrd.parityPart = ((d.members[i]?).map fun x => x.2.1).getD 0 ∧ (enrolled d i s).yrd.pageSeq = s.yrd.pageSeq
      ∧ (s.yrd.yardId = d.yard ∧ s.yrd.map ≠ [] → (enrolled d i s).yrd.epoch = s.yrd.epoch ∧ (enrolled d i s).yrd.map = s.yrd.map)
      ∧ (¬(s.yrd.yardId = d.yard ∧ s.yrd.map ≠ []) → (enrolled d i s).yrd.epoch = 1 ∧ (enrolled d i s).yrd.boundary = 0
          ∧ (enrolled d i s).yrd.map = [(i, (0, nodeId s))])
      ∧ (enrolled d i s).cartMem = s.cartMem ∧ (enrolled d i s).hq = s.hq := by
  unfold enrolled
  split
  · next known => exact ⟨rfl, rfl, rfl, rfl, rfl, rfl, rfl, rfl, rfl, fun _ => ⟨rfl, rfl⟩, fun unknown => absurd (of_decide_eq_true known) unknown, rfl, rfl⟩
  · next unknown => exact ⟨rfl, rfl, rfl, rfl, rfl, rfl, rfl, rfl, rfl, fun known => absurd (decide_eq_true known) unknown, fun _ => ⟨rfl, rfl, rfl⟩, rfl, rfl⟩

theorem yardPage_congr {s t : State} (yrd : t.yrd = s.yrd) : yardPage t = yardPage s := by
  unfold yardPage memberState memberHost
  rw [yrd]

/-! ## YARD_DECLARE_LOST (R367) -/

section DeclareLost

variable {s : State} {q : Nat} {c : Cmd} (turn : due s q 0xB1 = some c)

include turn

theorem exec_yardDeclareLost_noQuorum (none : hasQuorum s = false) : exec (.yardDeclareLost q) s = .next (complete q Status.notReady 0 s) := by
  show execYardDeclareLost q s = _
  unfold execYardDeclareLost
  rw [turn]
  exact if_pos none

theorem exec_yardDeclareLost_notLiving (quorum : hasQuorum s = true) (gone : 2 ≤ memberState s (bits c.e.param 5 0)) :
    exec (.yardDeclareLost q) s = .next (complete q Status.invalidField 0 s) := by
  show execYardDeclareLost q s = _
  unfold execYardDeclareLost
  rw [turn]
  exact (if_neg (by simp [quorum])).trans (if_pos gone)

theorem exec_yardDeclareLost_wants (quorum : hasQuorum s = true) (living : memberState s (bits c.e.param 5 0) < 2) :
    exec (.yardDeclareLost q) s = .next (want { member := bits c.e.param 5 0, state := 2, host := 0, cmd := some q } (setSt q .running s)) := by
  show execYardDeclareLost q s = _
  unfold execYardDeclareLost
  rw [turn]
  exact (if_neg (by simp [quorum])).trans (if_neg (by omega))

end DeclareLost

theorem findCmd_setSt {s : State} {q : Nat} {c : Cmd} (found : findCmd s q = some c) (st : CmdSt) : findCmd (setSt q st s) q = some { c with st := st } := by
  rw [setSt, findCmd_updCmd q (fun c => { c with st := st }) (fun _ => rfl), found]
  rfl

/-! ## YARD_REPLACE (R370) -/

section Replace

variable {s : State} {q : Nat} {c : Cmd}

section Due

variable (turn : due s q 0xB2 = some c)

include turn

theorem exec_yardReplace_notReady (out : s.yrd.desc = none ∨ s.cart.st ≠ .ready ∨ reachesHalf s = false) :
    exec (.yardReplace q) s = .next (complete q Status.notReady 0 s) := by
  show execYardReplace q s = _
  unfold execYardReplace
  rw [turn]
  dsimp only
  cases desc : s.yrd.desc with
  | none => rfl
  | some d => exact if_pos (by simpa [desc, serving] using out)

variable {d : Desc} (desc : s.yrd.desc = some d) (ready : s.cart.st = .ready) (half : reachesHalf s = true)

include desc ready half

theorem exec_yardReplace_refused (bad : s.cart.formatState ≠ 0 ∨ memberState s (bits c.e.param 5 0) ≠ 2) :
    exec (.yardReplace q) s = .next (complete q Status.invalidField 0 s) := by
  show execYardReplace q s = _
  unfold execYardReplace
  rw [turn]
  dsimp only
  rw [desc]
  exact (if_neg (by simp [serving, ready, half])).trans (if_pos bad)

theorem exec_yardReplace_formats (blank : s.cart.formatState = 0) (lost : memberState s (bits c.e.param 5 0) = 2) :
    exec (.yardReplace q) s = .next (dirStep (beginReplace d (bits c.e.param 5 0) (setSt q .running s))) := by
  show execYardReplace q s = _
  unfold execYardReplace
  rw [turn]
  dsimp only
  rw [desc]
  exact (if_neg (by simp [serving, ready, half])).trans (if_neg (by simp [blank, lost]))

end Due

section Running

variable (waits : due s q 0xB2 = none) (run : runningCmd s q 0xB2 = some c) {d : Desc} (desc : s.yrd.desc = some d)

include waits run desc

theorem exec_yardReplace_wanted (wanted : ∃ w ∈ s.yrd.wants, w.cmd = some q) : exec (.yardReplace q) s = .next s := by
  show execYardReplace q s = _
  unfold execYardReplace
  rw [waits]
  dsimp only
  rw [run, desc]
  exact if_pos (by simpa using wanted)

theorem exec_yardReplace_ends (unwanted : ∀ w ∈ s.yrd.wants, w.cmd ≠ some q) (laid : s.cart.dirTodo = []) (closed : s.wrv.windowOpen = false) :
    exec (.yardReplace q) s = .next (endReplace q d (bits c.e.param 5 0) s) := by
  have idle : dirStep s = s := by
    unfold dirStep
    rw [laid]
  show execYardReplace q s = _
  unfold execYardReplace
  rw [waits]
  dsimp only
  rw [run, desc]
  dsimp only
  rw [if_neg (by simpa using unwanted), idle]
  exact congrArg go (if_pos ⟨laid, closed⟩)

end Running

end Replace

/-- The partitions of a replacement, by the wraps of the member that is lost. -/
def replaceParts (d : Desc) (x : Bytes × Nat × List Nat) : AMap Part :=
  (wrapTable 0 (x.2.2.filter fun n => decide (0 < n))).zipIdx.map fun (w, p) =>
    (p, ({ firstWrap := w.1, wraps := w.2, yardMember := true, originYard := d.yard, originSerial := x.1 } : Part))

/-- The state in which a replacement has its new Zone Table, write pass and count. -/
def replaceCart (x : Bytes × Nat × List Nat) (s : State) : State :=
  updCart (fun c => { c with writePass := nextPass c.writePass, formatCount := c.formatCount + 1, formatState := max c.formatState 1, dirBNewer := false })
    (keptZone (wrapTable 0 (x.2.2.filter fun n => decide (0 < n))) (destroyRecords s))

theorem beginReplace_eq {d : Desc} {i : Nat} {x : Bytes × Nat × List Nat} (member : d.members[i]? = some x) (s : State) :
    beginReplace d i s = beginDirectories ((replaceParts d x).flatMap fun (p, _) => [(p, false), (p, true)])
      (chooseSet (countPositions (newParts (replaceParts d x) (replaceCart x s)))) := by
  unfold beginReplace
  rw [member]
  rfl

/-- What a partition of a replacement has from the member that is lost. -/
def Part.replaced (x : Part) : Nat × Bool × Nat × Bytes := (x.wraps, x.yardMember, x.originYard, x.originSerial)

theorem replaced_countPositions (p : Nat) (s : State) : (partAt (countPositions s) p).replaced = (partAt s p).replaced := by
  refine each_keeps (fun v => (partAt v p).replaced) (fun o v => ?_) _ s
  by_cases same : p = o
  · rw [same, partAt_updPart_self]
    rfl
  · rw [partAt_updPart_other _ _ same]

theorem beginReplace_part {d : Desc} {i : Nat} {x : Bytes × Nat × List Nat} (member : d.members[i]? = some x) (s : State) {p : Nat} (four : p < 4)
    (below : p < (x.2.2.filter fun n => decide (0 < n)).length) :
    (partAt (dirStep (beginReplace d i s)) p).replaced = ((x.2.2.filter fun n => decide (0 < n)).getD p 0, true, d.yard, x.1) := by
  obtain ⟨f, entry⟩ := wrapTable_getElem 0 _ p _ (List.getElem?_eq_getElem below)
  have fresh := getD_zipIdx (fun w (_ : Nat) => ({ firstWrap := w.1, wraps := w.2, yardMember := true, originYard := d.yard, originSerial := x.1 } : Part))
    _ 0 p _ entry {}
  rw [Nat.zero_add] at fresh
  rw [beginReplace_eq member, partAt_of_parts ((dirStep_frame _).same .parts rfl), partAt_of_parts ((beginDirectories_frame ..).same .parts rfl),
    partAt_of_parts ((chooseSet_frame _).same .parts rfl), replaced_countPositions, partAt_newParts _ _ _ four, List.getD_eq_getElem _ _ below]
  exact congrArg Part.replaced (congrArg (fun y : Part => { y with ewReserve := (partAt (replaceCart x s) p).ewReserve }) fresh)

theorem beginReplace_hq {d : Desc} {i : Nat} {x : Bytes × Nat × List Nat} (member : d.members[i]? = some x) (s : State) :
    (dirStep (beginReplace d i s)).hq = { s.hq with writes := [], gates := [] } := by
  rw [beginReplace_eq member, (dirStep_frame _).same .hq rfl, (beginDirectories_frame ..).same .hq rfl, (chooseSet_frame _).same .hq rfl,
    (countPositions_frame _).same .hq rfl, (newParts_frame ..).same .hq rfl, replaceCart, updCart_hq, (keptZone_frame ..).same .hq rfl, destroyRecords_hq]

theorem keptZone_formatCount (table : List (Nat × Nat)) (s : State) : (keptZone table s).cart.formatCount = s.cart.formatCount := by
  have zone := zone_count false table [] s
  rw [if_neg Bool.false_ne_true] at zone
  simp only [Cart.count, Prod.mk.injEq] at zone
  obtain ⟨-, count, -⟩ := zone
  exact count

theorem beginReplace_formatCount {d : Desc} {i : Nat} {x : Bytes × Nat × List Nat} (member : d.members[i]? = some x) (s : State) :
    (dirStep (beginReplace d i s)).cart.formatCount = s.cart.formatCount + 1 := by
  have step := dirStep_count (beginReplace d i s)
  simp only [Cart.count, Prod.mk.injEq] at step
  obtain ⟨-, count, -⟩ := step
  have destroyed : (destroyRecords s).cart = s.cart := (destroyRecords_frame s).same .cart rfl
  have kept : (chooseSet (countPositions (newParts (replaceParts d x) (replaceCart x s)))).cart = (replaceCart x s).cart := by
    rw [(chooseSet_frame _).same .cart rfl, (countPositions_frame _).same .cart rfl, (newParts_frame ..).same .cart rfl]
  have counted : (replaceCart x s).cart.formatCount = s.cart.formatCount + 1 := by
    simp only [replaceCart, updCart_cart, keptZone_formatCount, destroyed]
  have listed : ∀ todo v, (beginDirectories todo v).cart.formatCount = v.cart.formatCount := fun _ _ => rfl
  rw [count, beginReplace_eq member, listed, kept, counted]

/-- The Yard of a replacement whose pages are written: it is a member again, and the change that restores it is wanted. -/
theorem endReplace_yrd {d : Desc} (q i : Nat) (s : State) : (endReplace q d i s).yrd.wants = s.yrd.wants ++ [{ member := i, state := 0, host := nodeId s, cmd := some q }]
    ∧ (endReplace q d i s).yrd.replacing = true ∧ (endReplace q d i s).yrd.enrolled = true ∧ (endReplace q d i s).yrd.member = i
    ∧ (endReplace q d i s).yrd.pageSeq = s.yrd.pageSeq + 1 ∧ ∀ n, findCmd (endReplace q d i s) n = findCmd s n := by
  unfold endReplace
  dsimp only
  generalize hu : writeControl _ _ = u
  have yrd : u.yrd = s.yrd := by
    rw [← hu, (writeControl_frame ..).same .yrd rfl]
    rfl
  have hq : u.hq = s.hq := by
    rw [← hu, (writeControl_frame ..).same .hq rfl]
    rfl
  obtain ⟨wants, -⟩ := want_spec { member := i, state := 0, host := nodeId s, cmd := some q } (writeYardPage (takeMember d i true u))
  refine ⟨wants.trans (congrArg (fun y : Yrd => y.wants ++ [{ member := i, state := 0, host := nodeId s, cmd := some q }]) yrd),
    want_of_yrd Yrd.replacing (fun _ => rfl) (fun _ _ => rfl) .., want_of_yrd Yrd.enrolled (fun _ => rfl) (fun _ _ => rfl) ..,
    want_of_yrd Yrd.member (fun _ => rfl) (fun _ _ => rfl) .., ?_, fun n => ?_⟩
  · exact (want_of_yrd Yrd.pageSeq (fun _ => rfl) (fun _ _ => rfl) ..).trans (congrArg (fun y : Yrd => y.pageSeq + 1) yrd :)
  · exact (findCmd_want ..).trans (findCmd_of_hq hq n)

/-! ## YARD_RESHAPE (R374) -/

section Reshape

variable {s : State} {q : Nat} {c : Cmd} {sgl data : Bytes} (turn : due s q 0xB3 = some c)

include turn

theorem exec_yardReshape_badList (bad : c.e.length ≠ descBytes ∨ sglOk c.e sgl c.e.length = false) :
    exec (.yardReshape q sgl data) s = .next (complete q Status.invalidField 0 s) := by
  show execYardReshape q sgl data s = _
  unfold execYardReshape
  rw [turn]
  exact if_pos bad

variable (length : c.e.length = descBytes) (list : sglOk c.e sgl c.e.length = true)

include length list

theorem exec_yardReshape_noQuorum (none : hasQuorum s = false) : exec (.yardReshape q sgl data) s = .next (complete q Status.notReady 0 s) := by
  show execYardReshape q sgl data s = _
  unfold execYardReshape
  rw [turn]
  exact (if_neg (list_good length list)).trans (if_pos none)

variable (quorum : hasQuorum s = true)

include quorum

theorem exec_yardReshape_refused (bad : (s.yrd.desc.any fun o => reshapeAccepted o (givenDesc data)) = false) :
    exec (.yardReshape q sgl data) s = .next (complete q Status.configInvalid 0 s) := by
  show execYardReshape q sgl data s = _
  unfold execYardReshape
  rw [turn]
  exact (if_neg (list_good length list)).trans ((if_neg (by simp [quorum])).trans (if_pos bad))

/-- The next descriptor is kept. -/
def nextKept (q : Nat) (d : Desc) (s : State) : State := storeDesc d (updYrd (fun y => { y with nextDesc := some d }) (setSt q .running s))

theorem exec_yardReshape_wants (good : (s.yrd.desc.any fun o => reshapeAccepted o (givenDesc data)) = true) :
    exec (.yardReshape q sgl data) s
      = .next (want { member := 0xFF, state := (givenDesc data).gen, host := 0, cmd := some q } (nextKept q (givenDesc data) s)) := by
  show execYardReshape q sgl data s = _
  unfold execYardReshape
  rw [turn]
  exact (if_neg (list_good length list)).trans ((if_neg (by simp [quorum])).trans (if_neg (by rw [← givenDesc, good]; decide)))

end Reshape

theorem nextKept_yrd (q : Nat) (d : Desc) (s : State) : (nextKept q d s).yrd = { s.yrd with nextDesc := some d } := (storeDesc_frame ..).same .yrd rfl

theorem nextKept_quorum (q : Nat) (d : Desc) (s : State) : hasQuorum (nextKept q d s) = hasQuorum s := by
  have yrd := nextKept_yrd q d s
  have cfg : (nextKept q d s).cfg = s.cfg := (storeDesc_frame ..).same .cfg rfl
  refine hasQuorum_congr ?_ (by rw [yrd])
  constructor
  case cfg => exact cfg
  all_goals rw [yrd]

theorem findCmd_nextKept {s : State} {q : Nat} {c : Cmd} (found : findCmd s q = some c) (d : Desc) :
    findCmd (nextKept q d s) q = some { c with st := .running } :=
  (findCmd_of_frame (storeDesc_frame ..) rfl q).trans (findCmd_setSt found .running)

theorem reshapeAccepted_iff {o d : Desc} : reshapeAccepted o d = true ↔ d.accepted = true ∧ d.yard = o.yard ∧ d.gen = o.gen + 1 ∧ o.n ≤ d.n
    ∧ o.k + d.m ≤ min d.n 32 := by
  simp only [reshapeAccepted, Bool.and_eq_true, beq_iff_eq, decide_eq_true_eq, and_assoc]

/-! ## YARD_QUERY (R380, R469) -/

section Query

variable {s : State} {q : Nat} {c : Cmd} {sgl : Bytes} (turn : due s q 0xB4 = some c)

include turn

theorem exec_yardQuery_short (short : c.e.length < 512) : exec (.yardQuery q sgl) s = .next (complete q Status.lengthLimit 0 s) := by
  show execYardQuery q sgl s = _
  unfold execYardQuery
  rw [turn]
  exact if_pos short

theorem exec_yardQuery_badList (room : 512 ≤ c.e.length) (bad : sglOk c.e sgl c.e.length = false) :
    exec (.yardQuery q sgl) s = .next (complete q Status.invalidField 0 s) := by
  show execYardQuery q sgl s = _
  unfold execYardQuery
  rw [turn]
  exact (if_neg (Nat.not_lt.mpr room)).trans (if_pos bad)

theorem exec_yardQuery_answers (room : 512 ≤ c.e.length) (list : sglOk c.e sgl c.e.length = true) :
    exec (.yardQuery q sgl) s
      = .next (complete q Status.ok 512 (sglWrite (sglOf c.e sgl) 0 (fit (recBytes (currentRec s) ++ yardCounts s) 512) s)) := by
  show execYardQuery q sgl s = _
  unfold execYardQuery
  rw [turn]
  exact (if_neg (Nat.not_lt.mpr room)).trans (if_neg (by rw [list]; decide))

end Query

/-- Settles O59: each row is one equation per way it ends; what it keeps of the Yard is read behind the frames of what it writes. -/
theorem yardCommandsActThroughEpochs : Obligations.YardCommandsActThroughEpochs := by
  intro s q sgl data c
  refine ⟨fun turn => ?enrol, fun turn => ?lost, fun turn => ?replace, fun waits run o desc => ?replacing, fun turn => ?reshape, fun turn => ?query⟩
  case enrol =>
    have found := due_find turn
    refine ⟨fun bad => ⟨_, exec_yardEnrol_badList turn bad, ended_complete_yrd found ..⟩, fun length list => ⟨fun out => ?_, fun ready bad => ?_,
      fun ready good foreign => ?_, fun ready good member own => ?_⟩⟩
    · exact ⟨_, exec_yardEnrol_notReady turn length list out, ended_complete_yrd found ..⟩
    · exact ⟨_, exec_yardEnrol_unaccepted turn length list ready bad, ended_complete_yrd found ..⟩
    · exact ⟨_, exec_yardEnrol_foreign turn length list ready good foreign, ended_complete_yrd found ..⟩
    · have ran := exec_yardEnrol_enrols turn length list ready good member own
      have fields := enrolled_spec (givenDesc data) (bits c.e.param 5 0) s
      have given : Desc.parse (fit data 133376) = givenDesc data := rfl
      rw [given]
      generalize givenDesc data = d at *
      generalize enrolled d (bits c.e.param 5 0) s = v at ran fields
      obtain ⟨yrd, mask, hq, cartMem⟩ := enrolmentKept_spec d (bits c.e.param 11 8) v
      generalize enrolmentKept d (bits c.e.param 11 8) v = w at ran yrd mask hq cartMem
      obtain ⟨isEnrolled, isMember, yard, desc, replacing, gen, digest, part, page, known, unknown, mem, cmds⟩ := fields
      have foundThere : findCmd (sendJoin w) q = some c :=
        (findCmd_of_frame (sendJoin_frame w) rfl q).trans ((findCmd_of_hq (hq.trans cmds) q).trans found)
      obtain ⟨ended, kept⟩ := ended_complete_yrd foundThere Status.ok 0
      have cart : (complete q Status.ok 0 (sendJoin w)).cart = w.cart := ((complete_frame ..).same .cart rfl).trans ((sendJoin_frame w).same .cart rfl)
      have cells : (complete q Status.ok 0 (sendJoin w)).cartMem = w.cartMem := ((complete_frame ..).same .cartMem rfl).trans ((sendJoin_frame w).same .cartMem rfl)
      have final := kept.trans ((sendJoin_yrd w).trans yrd)
      refine ⟨_, ran, ended, ?_⟩
      generalize complete q Status.ok 0 (sendJoin w) = t at *
      rw [final, cart]
      refine ⟨isEnrolled, isMember, yard, desc, replacing, gen, digest, part, congrArg (· + 1) page, mask, known, unknown, fun wf => ?_⟩
      rw [cmRead_congr (cells.trans cartMem), yardPage_congr (s := paged (updCart (fun c => { c with enrolMask := 0 }) v)) final]
      exact cmRead_writeYardPage (updCart (fun c => { c with enrolMask := 0 }) v) (by rw [← mem] at wf; exact wf)
  case lost =>
    have found := due_find turn
    refine ⟨fun none => ⟨_, exec_yardDeclareLost_noQuorum turn none, ended_complete_yrd found ..⟩,
      fun quorum gone => ⟨_, exec_yardDeclareLost_notLiving turn quorum gone, ended_complete_yrd found ..⟩, fun quorum living => ?_⟩
    obtain ⟨wants, change⟩ := want_spec { member := bits c.e.param 5 0, state := 2, host := 0, cmd := some q } (setSt q .running s)
    exact ⟨_, exec_yardDeclareLost_wants turn quorum living, (findCmd_want ..).trans (findCmd_setSt found .running), wants, change quorum⟩
  case replace =>
    have found := due_find turn
    refine ⟨fun out => ⟨_, exec_yardReplace_notReady turn out, ended_complete_yrd found ..⟩, fun o desc ready half => ⟨fun bad => ?_, fun x blank lost member => ?_⟩⟩
    · exact ⟨_, exec_yardReplace_refused turn desc ready half bad, ended_complete_yrd found ..⟩
    · have hq := beginReplace_hq member (setSt q .running s)
      refine ⟨_, exec_yardReplace_formats turn desc ready half blank lost, ?_, beginReplace_formatCount member _, ?_, fun p four below => ?_⟩
      · exact (findCmd_of_hq (s := { setSt q .running s with hq := { (setSt q .running s).hq with writes := [], gates := [] } }) hq q).trans (findCmd_setSt found .running)
      · rw [hq]
      · have part := beginReplace_part member (setSt q .running s) four below
        simp only [Part.replaced, Prod.mk.injEq] at part
        exact part
  case replacing =>
    refine ⟨fun wanted => ⟨s, exec_yardReplace_wanted waits run desc wanted, rfl⟩, fun unwanted laid closed => ?_⟩
    obtain ⟨wants, replacing, enrolled, member, page, cmds⟩ := endReplace_yrd (d := o) q (bits c.e.param 5 0) s
    exact ⟨_, exec_yardReplace_ends waits run desc unwanted laid closed, wants, replacing, enrolled, member, page, (cmds q).trans (runningCmd_find run)⟩
  case reshape =>
    have found := due_find turn
    refine ⟨fun bad => ⟨_, exec_yardReshape_badList turn bad, ended_complete_yrd found ..⟩, fun length list => ⟨fun none => ?_, fun quorum none => ?_, fun quorum o desc => ⟨fun bad => ?_, fun fits => ?_⟩⟩⟩
    · exact ⟨_, exec_yardReshape_noQuorum turn length list none, ended_complete_yrd found ..⟩
    · exact ⟨_, exec_yardReshape_refused turn length list quorum (by rw [none]; rfl), ended_complete_yrd found ..⟩
    · refine ⟨_, exec_yardReshape_refused turn length list quorum ?_, ended_complete_yrd found ..⟩
      rw [desc]
      exact Bool.eq_false_iff.mpr (mt reshapeAccepted_iff.mp bad)
    · have ran := exec_yardReshape_wants (data := data) turn length list quorum (by rw [desc]; exact reshapeAccepted_iff.mpr fits)
      have yrd := nextKept_yrd q (givenDesc data) s
      obtain ⟨wants, change⟩ := want_spec { member := 0xFF, state := (givenDesc data).gen, host := 0, cmd := some q } (nextKept q (givenDesc data) s)
      refine ⟨_, ran, (findCmd_want ..).trans (findCmd_nextKept found _), (want_of_yrd Yrd.nextDesc (fun _ => rfl) (fun _ _ => rfl) ..).trans ?_,
        (want_of_yrd Yrd.desc (fun _ => rfl) (fun _ _ => rfl) ..).trans ?_, wants.trans ?_, change ((nextKept_quorum ..).trans quorum)⟩
      · rw [yrd]
        rfl
      · rw [yrd]
        exact desc
      · rw [yrd]
        rfl
  case query =>
    have found := due_find turn
    refine ⟨fun short => ⟨_, exec_yardQuery_short turn short, ended_complete_hostMem found ..⟩,
      fun room bad => ⟨_, exec_yardQuery_badList turn room bad, ended_complete_hostMem found ..⟩, fun room list => ?_⟩
    have kept := sglWrite_frame (sglOf c.e sgl) 0 (fit (recBytes (currentRec s) ++ yardCounts s) 512) s
    exact ⟨_, exec_yardQuery_answers turn room list, .complete ((findCmd_of_frame kept rfl q).trans found) .., complete_hostMem ..⟩

end Sys2Proof.Machine
end

/-! Claims: the stripe of a unit, what acknowledges it, units that are complete, null requests and their timeout (O51). -/

section

namespace Sys2Proof.Machine

/-! ## The stripe of a unit (R349) -/

/-- The stripe found is the first that is not passed over. -/
theorem nextStripe_spec {s : State} {st sl : Nat} : ∀ {f lo : Nat}, nextStripe s f lo = some (st, sl) → lo ≤ st
    ∧ dataSlot s st s.yrd.member = some sl ∧ mem? s.yrd.skipped st = false
    ∧ ∀ x, lo ≤ x → x < st → dataSlot s x s.yrd.member = none ∨ mem? s.yrd.skipped x = true
  | 0, _, found => nomatch found
  | f + 1, lo, found => by
    have later : nextStripe s f (lo + 1) = some (st, sl) → (dataSlot s lo s.yrd.member = none ∨ mem? s.yrd.skipped lo = true) → lo ≤ st
        ∧ dataSlot s st s.yrd.member = some sl ∧ mem? s.yrd.skipped st = false
        ∧ ∀ x, lo ≤ x → x < st → dataSlot s x s.yrd.member = none ∨ mem? s.yrd.skipped x = true := fun rest passed => by
      obtain ⟨low, slot, kept, before⟩ := nextStripe_spec rest
      refine ⟨by omega, slot, kept, fun x above below => ?_⟩
      rcases Nat.eq_or_lt_of_le above with rfl | above
      · exact passed
      · exact before x above below
    unfold nextStripe at found
    split at found
    · next k slot =>
      split at found
      · next skipped => exact later found (.inr skipped)
      · next kept =>
        cases found
        exact ⟨Nat.le_refl _, slot, by simpa using kept, fun x above below => absurd below (by omega)⟩
    · next none => exact later found (.inl none)

/-- A claim of a stripe, before it is sent. -/
def claimNoted (part ds st sl : Nat) (s : State) : State :=
  updYrd (fun y => { y with claims := y.claims ++ [{ stripe := st, slot := sl, part := part, ds := ds }], highClaim := some st }) s

/-- The lowest stripe that may be claimed next. -/
def claimFloor (s : State) : Nat := max s.yrd.boundary ((s.yrd.highClaim.map fun h => h + 1).getD 0)

/-- The claim of a stripe found. -/
def claimFound (part ds : Nat) (s : State) : Option (Nat × Nat) → State
  | none => s
  | some (st, sl) => match coordinator s st with
    | none => s
    | some c => sendMsg (yMsg s YT.claim st c 0 sl (be 1 part ++ be 4 ds)) (claimNoted part ds st sl s)

theorem claimSlot_busy {part ds : Nat} {s : State} (busy : 2 ≤ openClaims s) : claimSlot part ds s = s := if_pos (.inl busy)

theorem claimSlot_eq (part ds : Nat) (s : State) : claimSlot part ds s = s ∨ claimSlot part ds s = claimFound part ds s (nextStripe s 8192 (claimFloor s)) := by
  unfold claimSlot claimFloor
  split
  · exact .inl rfl
  · cases s.yrd.highClaim <;> exact .inr rfl

theorem claimSlot_claims {part ds st sl c : Nat} {s : State} (free : openClaims s < 2) (desc : s.yrd.desc.isSome = true)
    (present : isPresent s s.yrd.member = true) (fresh : ∀ x ∈ s.yrd.claims, ¬(x.part = part ∧ x.ds = ds))
    (next : nextStripe s 8192 (claimFloor s) = some (st, sl)) (coord : coordinator s st = some c) :
    claimSlot part ds s = sendMsg (yMsg s YT.claim st c 0 sl (be 1 part ++ be 4 ds)) (claimNoted part ds st sl s) := by
  have unclaimed : (s.yrd.claims.any fun c => c.part == part && c.ds == ds) = false := by
    rw [List.any_eq_false]
    exact fun x mem => by simpa using fresh x mem
  have desc' : s.yrd.desc.isNone = false := by rw [← Option.not_isSome, desc]; rfl
  have claims : claimSlot part ds s = claimFound part ds s (nextStripe s 8192 (claimFloor s)) := by
    refine (if_neg (by simp [desc', present, unclaimed]; omega)).trans ?_
    unfold claimFloor
    cases s.yrd.highClaim <;> rfl
  rw [claims, next]
  unfold claimFound
  dsimp only
  rw [coord]

/-- What a claim, made or not, leaves of the Yard. -/
theorem claimSlot_yrd (part ds : Nat) (s : State) : { (claimSlot part ds s).yrd with claims := [], highClaim := none, awaitReply := [] }
    = { s.yrd with claims := [], highClaim := none, awaitReply := [] } := by
  rcases claimSlot_eq part ds s with same | found
  · rw [same]
  rw [found]
  unfold claimFound
  split
  · rfl
  split
  · rfl
  · next st sl _ _ c _ =>
    have told := sendMsg_told (yMsg s YT.claim st c 0 sl (be 1 part ++ be 4 ds)) (claimNoted part ds st sl s)
    exact told.of_yrd (fun y => { y with claims := [], highClaim := none, awaitReply := [] }) fun _ => rfl

theorem claimSlot_counts (part ds : Nat) (s : State) : YardCounts s (claimSlot part ds s) := by
  rcases claimSlot_eq part ds s with same | found
  · rw [same]
    exact .refl s
  rw [found]
  unfold claimFound
  split
  · exact .refl s
  split
  · exact .refl s
  · refine .trans ?_ (sendMsg_yardCounts ..)
    exact .of_ctrs rfl

theorem claimUnstriped_of_yrd {β : Type} (g : Yrd → β) (apart : ∀ y, g { y with claims := [], highClaim := none, awaitReply := [] } = g y) (s : State) :
    g (claimUnstriped s).yrd = g s.yrd :=
  each_keeps (fun v : State => g v.yrd) (fun u v => (apart _).symm.trans ((congrArg g (claimSlot_yrd u.1 u.2 v)).trans (apart _))) _ s

theorem claimUnstriped_counts (s : State) : YardCounts s (claimUnstriped s) :=
  YardCounts.each (f := fun u : Nat × Nat => claimSlot u.1 u.2) (fun u v => claimSlot_counts u.1 u.2 v) s.yrd.unstriped s

theorem claimUnstriped_nothing {s : State} (none : s.yrd.unstriped = []) : claimUnstriped s = s := by
  unfold claimUnstriped
  rw [none]
  rfl

/-! ## Retention copies (R352) -/

/-- A copy in the Shed. -/
def inShed (part ds k : Nat) (x : Retain) : Retain := if x.part = part ∧ x.ds = ds then { x with stalls := [], slot := some k } else x

/-- A copy that moves to the Shed stays what it was but for its place. -/
theorem retainToShed_yrd (part ds : Nat) (s : State) : (retainToShed part ds s).yrd = s.yrd
    ∨ ∃ k, (retainToShed part ds s).yrd = { s.yrd with retains := s.yrd.retains.map (inShed part ds k) } := by
  unfold retainToShed
  split
  · next r k _ _ =>
    refine .inr ⟨k, ?_⟩
    have kept : ∀ (u : State), (pumpAll (storeUnits 300 (0x7000000 + 300 * k) r.user u)).yrd = u.yrd := fun u =>
      ((pumpAll_frame _).same .yrd rfl).trans ((storeUnits_frame ..).same .yrd rfl)
    exact (kept _).trans (each_keeps State.yrd (fun h v => (giveBack_frame 0x20 h v).same .yrd rfl) r.stalls _)
  · exact .inl rfl

theorem retainToShed_counts (part ds : Nat) (s : State) : YardCounts s (retainToShed part ds s) := by
  unfold retainToShed
  split
  · next r k _ _ =>
    have kept : ∀ (u : State), YardCounts u (pumpAll (storeUnits 300 (0x7000000 + 300 * k) r.user u)) := fun u =>
      .of_ctrs (((pumpAll_frame _).same .ctrs rfl).trans ((storeUnits_frame ..).same .ctrs rfl))
    refine YardCounts.trans ?_ (kept _)
    refine YardCounts.trans ?_ (.each (fun h v => .of_others (giveBack_counts 0x20 h v)) r.stalls _)
    exact .of_ctrs rfl
  · exact .refl s

/-- Stalls are asked for as far as they are free. -/
def retainStalls (s : State) : Option (List Handle) × State :=
  if 75 ≤ freeCount (stableAt s 5) ∧ (stableAt s 5).fifo = [] then acquire 0x20 5 75 s else (none, s)

theorem retainStalls_keeps (s : State) : (retainStalls s).2.yrd = s.yrd ∧ YardCounts s (retainStalls s).2 := by
  unfold retainStalls
  split
  · exact ⟨(acquire_frame ..).same .yrd rfl, .of_others (acquireFrom_counts ..)⟩
  · exact ⟨rfl, .refl s⟩

section Retain

variable {part ds : Nat} {s : State} (fresh : ∀ r ∈ s.yrd.retains, ¬(r.part = part ∧ r.ds = ds)) (stripe : Nat) (user : Bytes)

include fresh

theorem retain_eq : retain part ds stripe user s = (let hs := (retainStalls s).1.getD []
    let kept := updYrd (fun y => { y with retains := y.retains ++ [{ part := part, ds := ds, stripe := stripe, user := user, stalls := hs }] }) (retainStalls s).2
    if hs = [] then retainToShed part ds kept else kept) := by
  have new : (s.yrd.retains.any fun r => r.part == part && r.ds == ds) = false := by
    rw [List.any_eq_false]
    exact fun x mem => by simpa using fresh x mem
  exact if_neg (by rw [new]; decide)

/-- The copy of a unit that had none. -/
theorem retain_yrd : ∃ r : Retain, (retain part ds stripe user s).yrd = { s.yrd with retains := s.yrd.retains ++ [r] } ∧ r.part = part ∧ r.ds = ds ∧ r.user = user := by
  obtain ⟨yrd, -⟩ := retainStalls_keeps s
  rw [retain_eq fresh]
  dsimp only
  generalize hr : ({ part := part, ds := ds, stripe := stripe, user := user, stalls := (retainStalls s).1.getD [] } : Retain) = r
  have kept : (updYrd (fun y => { y with retains := y.retains ++ [r] }) (retainStalls s).2).yrd = { s.yrd with retains := s.yrd.retains ++ [r] } :=
    congrArg (fun y : Yrd => { y with retains := y.retains ++ [r] }) yrd
  generalize updYrd (fun y => { y with retains := y.retains ++ [r] }) (retainStalls s).2 = v at kept
  have stays : ∃ r : Retain, v.yrd = { s.yrd with retains := s.yrd.retains ++ [r] } ∧ r.part = part ∧ r.ds = ds ∧ r.user = user :=
    ⟨r, kept, by rw [← hr], by rw [← hr], by rw [← hr]⟩
  split
  · rcases retainToShed_yrd part ds v with same | ⟨k, moved⟩
    · rw [same]
      exact stays
    · have others : s.yrd.retains.map (inShed part ds k) = s.yrd.retains :=
        List.map_congr_left (fun x mem => if_neg (fresh x mem)) |>.trans (List.map_id' _)
      refine ⟨inShed part ds k r, ?_, ?_, ?_, ?_⟩
      · rw [moved, kept, List.map_append, others]
        rfl
      all_goals
        rw [inShed, if_pos (by rw [← hr]; exact ⟨rfl, rfl⟩), ← hr]
  · exact stays

theorem retain_counts : YardCounts s (retain part ds stripe user s) := by
  obtain ⟨-, counts⟩ := retainStalls_keeps s
  rw [retain_eq fresh]
  dsimp only
  split
  · refine .trans (counts.trans ?_) (retainToShed_counts ..)
    exact .of_ctrs rfl
  · exact counts.trans (.of_ctrs rfl)

end Retain

/-! ## Contributions (R352) -/

/-- The claim of a unit has been answered and its contributions are on their way. -/
def contributed (c : Claim) (part ds : Nat) (s : State) : State :=
  updYrd (fun y => { y with
    claims := y.claims.map (fun (x : Claim) => if x.part = part ∧ x.ds = ds then { x with sent := true } else x)
    retains := y.retains.map (fun (x : Retain) => if x.part = part ∧ x.ds = ds then { x with stripe := c.stripe } else x)
    units := y.units.filter (fun u => !(u.part == part && u.ds == ds)) ++ [⟨c.stripe, c.slot, part, ds⟩] }) s

theorem contribute_eq {part ds : Nat} {s : State} {c : Claim} {r : Retain}
    (claim : (s.yrd.claims.find? fun c => c.part == part && c.ds == ds && c.acked && !c.sent) = some c)
    (copy : (s.yrd.retains.find? fun r => r.part == part && r.ds == ds) = some r) :
    contribute part ds s = sendPartials false c.stripe c.slot r.user (contributed c part ds s) := by
  unfold contribute
  rw [claim, copy]
  rfl

/-- What contributions leave: every claim with its place and answer, nothing more that awaits a reply, and the mailboxes. -/
theorem contribute_keeps (part ds : Nat) (s : State) :
    (∀ x ∈ s.yrd.claims, ∃ y ∈ (contribute part ds s).yrd.claims, y = x ∨ y = { x with sent := true })
      ∧ (contribute part ds s).yrd.awaitReply = s.yrd.awaitReply ∧ (contribute part ds s).boxes = s.boxes := by
  unfold contribute
  split
  · next c r _ _ =>
    rw [sendPartials_yrd, (sendPartials_frame ..).same .boxes rfl]
    refine ⟨fun x mem => ?_, rfl, rfl⟩
    refine ⟨_, List.mem_map.mpr ⟨x, mem, rfl⟩, ?_⟩
    split
    · exact .inr rfl
    · exact .inl rfl
  · exact ⟨fun x mem => ⟨x, mem, .inl rfl⟩, rfl, rfl⟩

/-! ## UNIT_COMPLETE (R350, R352) -/

theorem withdrawClaim_keeps (part ds : Nat) (s : State) : { (withdrawClaim part ds s).yrd with claims := [], awaitReply := [] }
    = { s.yrd with claims := [], awaitReply := [] } ∧ YardCounts s (withdrawClaim part ds s) := by
  unfold withdrawClaim
  split
  · exact ⟨rfl, .refl s⟩
  dsimp only
  split
  · refine ⟨?_, .trans ?_ (sendMsg_yardCounts ..)⟩
    · rw [sendMsg_yrd _ _ rfl]
      rfl
    · exact .of_ctrs rfl
  · exact ⟨rfl, .of_ctrs rfl⟩

/-- The images of user data sets of the Yard's partitions with a number. -/
def unitsNumbered (ds : Nat) (s : State) : List Image :=
  (s.wrv.images ++ s.wrv.placements.map Placement.img).filter fun i => i.kind == 1 && i.ds == ds && (partAt s i.part).yardMember

/-- A unit without a stripe waits. -/
def leftUnstriped (i : Image) (ds : Nat) (s : State) : State :=
  updYrd (fun y => { y with unstriped := y.unstriped ++ [(i.part, ds)] })
    (inc 0x0F0108 (retain i.part ds i.stripe i.user (withdrawClaim i.part ds s)))

/-- A unit without a stripe, of which no copy was kept, waits, and is kept and counted. -/
theorem leftUnstriped_spec {i : Image} {ds : Nat} {s : State} (fresh : ∀ r ∈ s.yrd.retains, ¬(r.part = i.part ∧ r.ds = ds)) :
    (leftUnstriped i ds s).yrd.unstriped = s.yrd.unstriped ++ [(i.part, ds)]
      ∧ (∃ r ∈ (leftUnstriped i ds s).yrd.retains, r.part = i.part ∧ r.ds = ds ∧ r.user = i.user) ∧ ctr (leftUnstriped i ds s) 0x0F0108 = satAdd (ctr s 0x0F0108) 1 := by
  obtain ⟨yrd, counts⟩ := withdrawClaim_keeps i.part ds s
  unfold leftUnstriped
  generalize withdrawClaim i.part ds s = w at *
  have retains : w.yrd.retains = s.yrd.retains := (congrArg Yrd.retains yrd :)
  have unstriped : w.yrd.unstriped = s.yrd.unstriped := (congrArg Yrd.unstriped yrd :)
  have fresh' : ∀ r ∈ w.yrd.retains, ¬(r.part = i.part ∧ r.ds = ds) := by rw [retains]; exact fresh
  obtain ⟨r, kept, part, number, user⟩ := retain_yrd fresh' i.stripe i.user
  have counts := counts.trans (retain_counts fresh' i.stripe i.user)
  generalize retain i.part ds i.stripe i.user w = x at *
  refine ⟨?_, ⟨r, ?_, part, number, user⟩, ctr_inc_of_counts counts (by decide) (by decide)⟩
  · show x.yrd.unstriped ++ [(i.part, ds)] = _
    rw [kept, ← unstriped]
  · show r ∈ x.yrd.retains
    rw [kept]
    exact List.mem_append_right _ List.mem_cons_self

/-- A unit of a stripe, of which no copy was kept, is kept, and its contributions leave. -/
theorem contribute_retained {i : Image} {ds : Nat} {s : State} (fresh : ∀ r ∈ s.yrd.retains, ¬(r.part = i.part ∧ r.ds = ds)) {c : Claim}
    (claim : (s.yrd.claims.find? fun c => c.part == i.part && c.ds == ds && c.acked && !c.sent) = some c) :
    contribute i.part ds (retain i.part ds i.stripe i.user s)
        = sendPartials false c.stripe c.slot i.user (contributed c i.part ds (retain i.part ds i.stripe i.user s))
      ∧ { c with sent := true } ∈ (contributed c i.part ds (retain i.part ds i.stripe i.user s)).yrd.claims
      ∧ ∃ r ∈ (contributed c i.part ds (retain i.part ds i.stripe i.user s)).yrd.retains, r.part = i.part ∧ r.ds = ds ∧ r.user = i.user ∧ r.stripe = c.stripe := by
  obtain ⟨r, kept, part, number, user⟩ := retain_yrd fresh i.stripe i.user
  generalize retain i.part ds i.stripe i.user s = w at *
  have copy : (w.yrd.retains.find? fun r => r.part == i.part && r.ds == ds) = some r := by
    rw [kept, List.find?_append, List.find?_eq_none.mpr fun x mem => by simpa using fresh x mem]
    simp [part, number]
  have claim' : (w.yrd.claims.find? fun c => c.part == i.part && c.ds == ds && c.acked && !c.sent) = some c := by
    rw [kept]
    exact claim
  have of : c.part = i.part ∧ c.ds = ds := by
    have holds := List.find?_some claim
    simp only [Bool.and_eq_true, beq_iff_eq] at holds
    exact holds.1.1
  refine ⟨by rw [contribute_eq claim' copy, user], List.mem_map.mpr ⟨c, List.mem_of_find?_eq_some claim', if_pos of⟩,
    { r with stripe := c.stripe }, List.mem_map.mpr ⟨r, List.mem_of_find?_eq_some copy, if_pos ⟨part, number⟩⟩, part, number, user, rfl⟩

section Complete

variable {src arg : Nat} {s u : State} (taken : Takes .yard src 0x0002 arg s u) {i : Image}

include taken

theorem exec_unitComplete (mem : i ∈ unitsNumbered (bits arg 58 27) u) (only : ∀ j ∈ unitsNumbered (bits arg 58 27) u, j = i) :
    exec (.unitComplete src arg) s = .next (if i.stripe = 0xFFFFFFFF then claimUnstriped (leftUnstriped i (bits arg 58 27) u)
      else claimUnstriped (contribute i.part (bits arg 58 27) (retain i.part (bits arg 58 27) i.stripe i.user u))) := by
  have found : ((unitsNumbered (bits arg 58 27) u).find? (fun i => i.stalls.head?.any fun h => handleWord h == bits arg 26 0)
      |>.or (unitsNumbered (bits arg 58 27) u).head?) = some i := by
    cases first : (unitsNumbered (bits arg 58 27) u).find? (fun i => i.stalls.head?.any fun h => handleWord h == bits arg 26 0) with
    | some j => exact congrArg some (only j (List.mem_of_find?_eq_some first))
    | none =>
      cases here : unitsNumbered (bits arg 58 27) u with
      | nil =>
        rw [here] at mem
        cases mem
      | cons j js => exact congrArg some (only j (by rw [here]; exact List.mem_cons_self))
  refine (congrArg go (taken.act _)).trans ?_
  show go (match ((unitsNumbered (bits arg 58 27) u).find? (fun i => i.stalls.head?.any fun h => handleWord h == bits arg 26 0)
      |>.or (unitsNumbered (bits arg 58 27) u).head?) with
    | none => u
    | some i => _) = _
  rw [found]
  rfl

end Complete

/-! ## CLAIM_ACK (R349, R350) -/

section Answers

variable {m : YMsg} {s : State}

/-- A claim that is acknowledged, its repeats ended. -/
def claimAcked (m : YMsg) (c : Claim) (s : State) : State :=
  replied YT.claim m.stripe m.src (updYrd (fun y => { y with
    claims := y.claims.map fun (x : Claim) => if x.stripe = c.stripe then { x with acked := true, epoch := m.epoch } else x }) s)

/-- What follows the acknowledgement of a claim. -/
def ackUsed (c : Claim) (s : State) : State :=
  if s.yrd.unstriped.contains (c.part, c.ds) then
    match s.yrd.retains.find? fun r => r.part == c.part && r.ds == c.ds with
    | some r => contribute c.part c.ds (post .fmt Src.yard 0x0004 (copyHandle r.stalls + c.ds % 2 ^ 32 * 2 ^ 27) s)
    | none => s
  else contribute c.part c.ds s

theorem exec_claimAck (heard : Heard YT.claimAck m s) {c : Claim}
    (claim : (s.yrd.claims.find? fun c => c.stripe == m.stripe && c.slot == m.slot && !c.acked) = some c) :
    exec (.claimAck m) s = .next (if beAt m.payload 0 1 ≠ 0 then takeDelivered m s else ackUsed c (claimAcked m c (takeDelivered m s))) := by
  show execClaimAck m s = _
  unfold execClaimAck
  refine (heard.receive _).trans ?_
  dsimp only
  rw [takeDelivered_yrd, claim]
  rfl

theorem claimAcked_yrd (m : YMsg) (c : Claim) (s : State) : (claimAcked m c (takeDelivered m s)).yrd = { s.yrd with
    claims := s.yrd.claims.map fun (x : Claim) => if x.stripe = c.stripe then { x with acked := true, epoch := m.epoch } else x
    awaitReply := s.yrd.awaitReply.filter fun x => !(x.type == YT.claim && x.stripe == m.stripe && x.dst == m.src) } :=
  congrArg (fun y : Yrd => { y with
    claims := y.claims.map fun (x : Claim) => if x.stripe = c.stripe then { x with acked := true, epoch := m.epoch } else x
    awaitReply := y.awaitReply.filter fun x => !(x.type == YT.claim && x.stripe == m.stripe && x.dst == m.src) }) (takeDelivered_yrd m s)

/-- What is used of an acknowledgement leaves the claims with their places and answers, and what awaits a reply. -/
theorem ackUsed_keeps (c : Claim) (s : State) : (∀ x ∈ s.yrd.claims, ∃ y ∈ (ackUsed c s).yrd.claims, y = x ∨ y = { x with sent := true })
    ∧ (ackUsed c s).yrd.awaitReply = s.yrd.awaitReply := by
  have posted : ∀ arg, (post .fmt Src.yard 0x0004 arg s).yrd = s.yrd := fun arg => (post_frame ..).same .yrd rfl
  unfold ackUsed
  split
  · split
    · next r _ =>
      obtain ⟨claims, awaits, -⟩ := contribute_keeps c.part c.ds (post .fmt Src.yard 0x0004 (copyHandle r.stalls + c.ds % 2 ^ 32 * 2 ^ 27) s)
      rw [posted] at claims awaits
      exact ⟨claims, awaits⟩
    · exact ⟨fun x mem => ⟨x, mem, .inl rfl⟩, rfl⟩
  · obtain ⟨claims, awaits, -⟩ := contribute_keeps c.part c.ds s
    exact ⟨claims, awaits⟩

theorem handleWord_lt (h : Handle) : handleWord h < 2 ^ 27 := by
  unfold handleWord
  omega

theorem getD_map_lt {α : Type} {f : α → Nat} {n : Nat} (pos : 0 < n) (small : ∀ x, f x < n) : ∀ o : Option α, (o.map f).getD 0 < n
  | none => pos
  | some x => small x

theorem copyHandle_lt (stalls : List Handle) : copyHandle stalls < 2 ^ 27 := getD_map_lt (Nat.two_pow_pos 27) handleWord_lt _

/-- The number of the data set that a unit's word carries. -/
theorem bits_unitWord (stalls : List Handle) (ds : Nat) : bits (copyHandle stalls + ds % 2 ^ 32 * 2 ^ 27) 58 27 = ds % 2 ^ 32 := by
  have handle := copyHandle_lt stalls
  unfold bits
  omega

/-- An unstriped unit goes to the formatter again. -/
theorem ackUsed_unstriped {c : Claim} {v : State} (listed : (c.part, c.ds) ∈ v.yrd.unstriped) (copy : ∃ r ∈ v.yrd.retains, r.part = c.part ∧ r.ds = c.ds)
    (slots : hasSlots .fmt Src.yard 1 v = true) :
    ∃ a, boxOf (ackUsed c v) .fmt = boxOf v .fmt ++ [mail Src.yard 0x0004 a v] ∧ bits a 58 27 = c.ds % 2 ^ 32 := by
  obtain ⟨r, found⟩ : ∃ r, (v.yrd.retains.find? fun r => r.part == c.part && r.ds == c.ds) = some r := by
    rw [← Option.isSome_iff_exists, List.find?_isSome]
    obtain ⟨r, mem, part, ds⟩ := copy
    exact ⟨r, mem, by simp [part, ds]⟩
  obtain ⟨-, -, boxes⟩ := contribute_keeps c.part c.ds (post .fmt Src.yard 0x0004 (copyHandle r.stalls + c.ds % 2 ^ 32 * 2 ^ 27) v)
  refine ⟨copyHandle r.stalls + c.ds % 2 ^ 32 * 2 ^ 27, ?_, bits_unitWord ..⟩
  have used : ackUsed c v = contribute c.part c.ds (post .fmt Src.yard 0x0004 (copyHandle r.stalls + c.ds % 2 ^ 32 * 2 ^ 27) v) := by
    unfold ackUsed
    rw [if_pos (List.contains_iff_mem.mpr listed), found]
  rw [used, boxOf_of_boxes boxes, post_of_slots slots, boxOf_setBox_self]

/-! ## NULL_REQ (R357) -/

theorem exec_nullReq_claimed (heard : Heard YT.nullReq m s) {c : Claim} (claim : (s.yrd.claims.find? fun c => c.stripe == m.stripe) = some c) :
    exec (.nullReq m) s = .next (sendOnce (yMsg s YT.claimed m.stripe m.src 0 m.slot (be 1 c.part ++ be 4 c.ds)) (takeDelivered m s)) := by
  have yrd := takeDelivered_yrd m s
  show execNullReq m s = _
  unfold execNullReq
  refine (heard.receive _).trans ?_
  dsimp only
  rw [yrd, claim]
  show go (sendMsg (yMsg (takeDelivered m s) YT.claimed m.stripe m.src 0 m.slot (be 1 c.part ++ be 4 c.ds)) (takeDelivered m s)) = _
  rw [sendMsg_unrepeated _ _ rfl, yMsg_of_yrd yrd]
  rfl

/-- The stripe is skipped from then on. -/
def stripeSkipped (st : Nat) (s : State) : State := inc 0x0F0104 (updYrd (fun y => { y with skipped := AMap.set y.skipped st () }) s)

theorem exec_nullReq_skips (heard : Heard YT.nullReq m s) (unclaimed : ∀ c ∈ s.yrd.claims, c.stripe ≠ m.stripe) (old : reworking s m.stripe = false) :
    exec (.nullReq m) s = .next (sendOnce (yMsg s YT.nullOk m.stripe m.src 0 m.slot []) (stripeSkipped m.stripe (takeDelivered m s))) := by
  have yrd := takeDelivered_yrd m s
  have reworks : reworking (takeDelivered m s) m.stripe = false := by
    rw [(SameWalks.of_yrd yrd (takeDelivered_cfg m s)).reworking]
    exact old
  have none : (s.yrd.claims.find? fun c => c.stripe == m.stripe) = none :=
    List.find?_eq_none.mpr fun c mem => by simpa using unclaimed c mem
  show execNullReq m s = _
  unfold execNullReq
  refine (heard.receive _).trans ?_
  dsimp only
  rw [reworks, yrd, none]
  show go (sendMsg (yMsg (takeDelivered m s) YT.nullOk m.stripe m.src 0 m.slot []) (stripeSkipped m.stripe (takeDelivered m s))) = _
  rw [sendMsg_unrepeated _ _ rfl, yMsg_of_yrd yrd]
  rfl

end Answers

/-! ## CONTRIBUTION_TIMEOUT (R357) -/

/-- The slots of an entry that nobody has claimed. -/
def unclaimed (e : JEntry) : List Nat := (List.range e.k).filter fun k => AMap.getD e.slots k 0 == 0

/-- A slot's member is asked. -/
def slotAsked (st k : Nat) (s : State) : State := sendMsg (yMsg s YT.nullReq st (slotMember s st k) 0 k []) s

section Timeout

variable {s : State} {st : Nat} {e : JEntry} (known : AMap.get? s.yrd.journal st = some e)

include known

theorem exec_contributionTimeout_closed (closed : e.st ≠ .opened) : exec (.contributionTimeout st) s = .next s := by
  show execContributionTimeout st s = _
  unfold execContributionTimeout
  rw [known]
  exact if_pos closed

theorem exec_contributionTimeout_asks (opened : e.st = .opened) : exec (.contributionTimeout st) s = .next (each (slotAsked st) (unclaimed e) s) := by
  show execContributionTimeout st s = _
  unfold execContributionTimeout
  rw [known]
  exact if_neg (not_not.mpr opened)

end Timeout

/-- Every member asked is in the list of those that are to answer. -/
theorem slotsAsked_await (s : State) (st : Nat) (ks : List Nat) {k : Nat} (mem : k ∈ ks) :
    yMsg s YT.nullReq st (slotMember s st k) 0 k [] ∈ (each (slotAsked st) ks s).yrd.awaitReply := by
  have asked : ∀ (ks : List Nat) (v : State), Told s v → k ∈ ks → yMsg s YT.nullReq st (slotMember s st k) 0 k [] ∈ (each (slotAsked st) ks v).yrd.awaitReply := by
    intro ks
    induction ks with
    | nil => exact fun _ _ mem => nomatch mem
    | cons j ks ih =>
      intro v told mem
      have sent : Told v (slotAsked st j v) := sendMsg_told ..
      rcases List.mem_cons.mp mem with rfl | later
      · have here : yMsg s YT.nullReq st (slotMember s st k) 0 k [] ∈ (slotAsked st k v).yrd.awaitReply := by
          have msg : yMsg v YT.nullReq st (slotMember v st k) 0 k [] = yMsg s YT.nullReq st (slotMember s st k) 0 k [] := by
            rw [told.yMsg, told.walks.slotMember]
          rw [← msg]
          exact (sendMsg_awaits _ v).1 rfl
        exact (Told.each (fun j v => sendMsg_told _ v) ks (slotAsked st k v)).awaits _ here
      · exact ih _ (told.trans sent) later
  exact asked ks s (.refl s) mem

/-- Settles O51: a claim is one message behind the state it is noted in; what follows an acknowledgement keeps every claim (`contribute_keeps`),
and a unit's copy is the only one of it (`retain_yrd`). -/
theorem unitsClaimTheirSlots : Obligations.UnitsClaimTheirSlots := by
  intro s
  refine ⟨fun f lo st sl => nextStripe_spec, fun src arg u taken => ⟨fun busy => ?busy, fun st sl c free desc present fresh next coord => ?claims⟩,
    fun src arg u i taken => ?complete, fun m c heard claim => ⟨fun busy => ?ackBusy, fun accepted => ?ack⟩,
    fun m heard => ⟨fun c claim => ?held, fun free old => ?skipped⟩, fun st e known => ⟨fun closed => ?closed, fun opened => ?asked⟩⟩
  case busy => exact ⟨u, (congrArg go (taken.act _)).trans (congrArg go (claimSlot_busy busy)), rfl⟩
  case claims =>
    have ran := (congrArg go (taken.act (claimSlot (bits arg 33 32) (bits arg 31 0)))).trans (congrArg go (claimSlot_claims free desc present fresh next coord))
    have told := sendMsg_told (yMsg u YT.claim st c 0 sl (be 1 (bits arg 33 32) ++ be 4 (bits arg 31 0))) (claimNoted (bits arg 33 32) (bits arg 31 0) st sl u)
    exact ⟨_, ran, told.of_yrd Yrd.claims fun _ => rfl, told.of_yrd Yrd.highClaim fun _ => rfl, (sendMsg_awaits _ _).1 rfl⟩
  case complete =>
    intro ds is mem kind number member only fresh
    have here : i ∈ unitsNumbered (bits arg 58 27) u := List.mem_filter.mpr ⟨mem, by simp [kind, member]; exact number⟩
    have ran := exec_unitComplete taken here fun j there => by
      obtain ⟨listed, holds⟩ := List.mem_filter.mp there
      simp only [Bool.and_eq_true, beq_iff_eq] at holds
      exact only j listed holds.1.1 holds.1.2 holds.2
    refine ⟨fun unstriped => ?_, fun c striped idle claim => ?_⟩
    · rw [if_pos unstriped] at ran
      obtain ⟨listed, ⟨r, kept, copy⟩, counted⟩ := leftUnstriped_spec fresh
      refine ⟨_, ran, (claimUnstriped_of_yrd Yrd.unstriped (fun _ => rfl) _).trans listed, ?_, r, ?_, copy⟩
      · rw [(claimUnstriped_counts _).same _ (by decide) (by decide)]
        exact counted
      · rw [claimUnstriped_of_yrd Yrd.retains fun _ => rfl]
        exact kept
    · rw [if_neg striped] at ran
      obtain ⟨sent, claimed, r, kept, copy⟩ := contribute_retained fresh claim
      obtain ⟨x, retained, -⟩ := retain_yrd fresh i.stripe i.user
      have frame := retain_frame i.part ds i.stripe i.user u
      have nothing : (sendPartials false c.stripe c.slot i.user (contributed c i.part ds (retain i.part ds i.stripe i.user u))).yrd.unstriped = [] := by
        rw [sendPartials_yrd]
        exact (congrArg Yrd.unstriped retained).trans idle
      rw [sent, claimUnstriped_nothing nothing] at ran
      refine ⟨_, ran, ?_⟩
      beta_reduce
      rw [sendPartials_yrd]
      exact ⟨claimed, List.mem_append_right _ List.mem_cons_self, ⟨r, kept, copy⟩, contributed c i.part ds (retain i.part ds i.stripe i.user u), ⟨frame.same .fab rfl, (sendPartials_yrd ..).symm, frame.same .cfg rfl⟩, rfl⟩
  case ackBusy =>
    refine ⟨_, (exec_claimAck heard claim).trans (congrArg go (if_pos busy)), takeDelivered_yrd m s⟩
  case ack =>
    have found := List.mem_of_find?_eq_some claim
    obtain ⟨claims, awaits⟩ := ackUsed_keeps c (claimAcked m c (takeDelivered m s))
    have yrd := claimAcked_yrd m c s
    refine ⟨_, (exec_claimAck heard claim).trans (congrArg go (if_neg (not_not.mpr accepted))), ?_, ?_, fun listed copy slots => ?_⟩
    · obtain ⟨x, mem, same | sent⟩ := claims { c with acked := true, epoch := m.epoch } (by
        rw [yrd]
        exact List.mem_map.mpr ⟨c, found, if_pos rfl⟩)
      · exact ⟨x, mem, by rw [same]; exact ⟨rfl, rfl, rfl, rfl, rfl, rfl⟩⟩
      · exact ⟨x, mem, by rw [sent]; exact ⟨rfl, rfl, rfl, rfl, rfl, rfl⟩⟩
    · rw [awaits, yrd]
      intro x mem ⟨type, stripe, dst⟩
      obtain ⟨-, other⟩ := List.mem_filter.mp mem
      simp [type, stripe, dst] at other
    · have box : boxOf (claimAcked m c (takeDelivered m s)) .fmt = boxOf s .fmt :=
        (boxOf_of_boxes (s := takeDelivered m s) rfl .fmt).trans (boxOf_takeDelivered (c := .fmt) (by decide) m s)
      have srv : (claimAcked m c (takeDelivered m s)).srv = s.srv := (takeDelivered_frame m s).same .srv rfl
      obtain ⟨a, posted, number⟩ := ackUsed_unstriped (c := c) (v := claimAcked m c (takeDelivered m s)) (by rw [yrd]; exact listed) (by rw [yrd]; exact copy)
        ((hasSlots_congr box ..).trans slots)
      refine ⟨a, ?_, number⟩
      rw [posted, box, mail, srv]
      rfl
  case held => exact ⟨_, exec_nullReq_claimed heard claim, (sendOnce_yrd ..).trans (takeDelivered_yrd m s), rfl⟩
  case skipped =>
    refine ⟨_, exec_nullReq_skips heard free old, (sendOnce_yrd ..).trans ?_, ?_, stripeSkipped m.stripe (takeDelivered m s), ⟨rfl, (sendOnce_yrd ..).symm, rfl⟩, rfl⟩
    · exact congrArg (fun y : Yrd => { y with skipped := AMap.set y.skipped m.stripe () }) (takeDelivered_yrd m s)
    · rw [(sendOnce_yardCounts ..).same _ (by decide) (by decide)]
      exact ctr_inc_of_counts ((takeDelivered_yardCounts m s).trans (.of_ctrs rfl)) (by decide) (by decide)
  case closed => exact ⟨s, exec_contributionTimeout_closed known closed, rfl⟩
  case asked =>
    refine ⟨_, exec_contributionTimeout_asks known opened, (Told.each (fun k v => sendMsg_told _ v) _ s).of_yrd Yrd.journal fun _ => rfl, fun k below free => ?_⟩
    exact slotsAsked_await s st _ (List.mem_filter.mpr ⟨List.mem_range.mpr below, by simpa using free⟩)

end Sys2Proof.Machine
end

/-! The coordinator's journal and its replicas (O53). -/

section

namespace Sys2Proof.Machine

/-! ## The coordinator and its replicas (R354) -/

theorem not_mem_replicasOf {s : State} {st c : Nat} (coord : coordinator s st = some c) : c ∉ replicasOf s st := by
  unfold replicasOf
  rw [coord]
  intro mem
  have other := (List.mem_filter.mp (List.mem_of_mem_take mem)).2
  simp at other

theorem replicasOf_length (s : State) (st : Nat) : (replicasOf s st).length ≤ 2 := by
  unfold replicasOf
  split
  · exact Nat.zero_le _
  · exact List.length_take_le ..

theorem isPresent_of_mem_replicasOf {s : State} {st x : Nat} (mem : x ∈ replicasOf s st) : isPresent s x = true := by
  unfold replicasOf at mem
  split at mem
  · cases mem
  · have walked := (List.mem_filter.mp (List.mem_of_mem_take mem)).1
    unfold walkOf at walked
    split at walked
    · cases walked
    · exact (List.mem_filter.mp walked).2

theorem takeDelivered_walks (m : YMsg) (s : State) : SameWalks s (takeDelivered m s) := .of_yrd (takeDelivered_yrd m s) (takeDelivered_cfg m s)

/-- An answer that expects no reply, to a message that has been taken. -/
theorem sent_takenYrd {a : YMsg} (unrepeated : expectsReply a.type = false) (m : YMsg) (s : State) :
    (sendMsg a (takeDelivered m s)).yrd = s.yrd ∧ Sent a (takeDelivered m s) (sendMsg a (takeDelivered m s)) := by
  rw [sendMsg_unrepeated _ _ unrepeated]
  exact ⟨(sendOnce_yrd ..).trans (takeDelivered_yrd m s), rfl⟩

/-! ## CLAIM (R355 to R357) -/

section Claim

variable {m : YMsg} {s : State}

/-- An entry in which a claim has been entered. -/
def claimEntered (m : YMsg) (e : JEntry) : JEntry :=
  { e with slots := AMap.set e.slots m.slot 1, claims := AMap.set e.claims m.slot (beAt m.payload 0 1, beAt m.payload 1 4) }

/-- The entry that a claim opens. -/
def claimOpened (m : YMsg) (s : State) : JEntry := { claimEntered m (newEntry s m.stripe false) with st := .opened }

section Coordinator

variable (heard : Heard YT.claim m s) (coord : coordinator s m.stripe = some s.yrd.member) (slot : slotMember s m.stripe m.slot = m.src)

include heard coord slot

theorem exec_claim_unknown (unknown : AMap.get? s.yrd.journal m.stripe = none) : exec (.claim m) s
    = .next (if 2048 ≤ coordinated s then sendMsg (yMsg s YT.claimAck m.stripe m.src 0 m.slot (be 1 1)) (takeDelivered m s)
      else replicate m.stripe [yMsg s YT.claimAck m.stripe m.src 0 m.slot (be 1 0)] (setEntry (claimOpened m (takeDelivered m s)) (takeDelivered m s))) := by
  have yrd := takeDelivered_yrd m s
  have walks := takeDelivered_walks m s
  show execClaim m s = _
  unfold execClaim
  refine (heard.receive _).trans ?_
  dsimp only
  rw [walks.coordinator, walks.slotMember, yrd, if_neg (by simp [coord, slot]), unknown]
  unfold coordinated
  rw [yrd, yMsg_of_yrd yrd, yMsg_of_yrd yrd]
  rfl

theorem exec_claim_enters {e : JEntry} (known : AMap.get? s.yrd.journal m.stripe = some e) (takes : takesSlots e = true)
    (free : AMap.getD e.slots m.slot 0 = 0) : exec (.claim m) s
    = .next (replicate m.stripe [yMsg s YT.claimAck m.stripe m.src 0 m.slot (be 1 0)] (setEntry (claimEntered m e) (takeDelivered m s))) := by
  have yrd := takeDelivered_yrd m s
  have walks := takeDelivered_walks m s
  show execClaim m s = _
  unfold execClaim
  refine (heard.receive _).trans ?_
  dsimp only
  rw [walks.coordinator, walks.slotMember, yrd, if_neg (by simp [coord, slot]), known]
  dsimp only
  rw [if_neg (by simp [takes, free]), if_neg (by omega), yMsg_of_yrd yrd]
  rfl

end Coordinator

end Claim

/-- An entry of a stripe that is set is its entry. -/
theorem get?_setEntry_own {e : JEntry} {st : Nat} (own : e.stripe = st) (s : State) : AMap.get? (setEntry e s).yrd.journal st = some e := own ▸ get?_setEntry e s

/-- Without replicas the one message of an entry at rest leaves at once. -/
theorem replicate_answers {s u : State} {st : Nat} {e : JEntry} (own : e.stripe = st) (rest : e.awaiting = []) (reveals : e.reveal = []) (later : e.later = [])
    (alone : others u st = []) {a : YMsg} (unrepeated : expectsReply a.type = false) (hs : s = setEntry e u) :
    ∃ v, Before u v (replicate st [a] s) ∧ Sent a v (replicate st [a] s) := by
  subst hs
  have rows : others (setEntry e u) st = others u st := congrFun (setEntry_journalled e u).walks.others st
  obtain ⟨v, ran, fab, noted⟩ := replicate_alone (get?_setEntry_own own u) own [a] rest (rows.trans alone)
  rw [ran, reveals, later]
  show ∃ w, Before u w (sendMsg a v) ∧ Sent a w (sendMsg a v)
  rw [sendMsg_unrepeated _ _ unrepeated]
  exact ⟨v, ⟨fab, (sendOnce_yrd ..).symm, noted.walks.cfg⟩, rfl⟩

/-! ## Slots that become null or claimed, and contributions done (R357) -/

theorem nullSlot_nulls {s : State} {st : Nat} {e : JEntry} (known : AMap.get? s.yrd.journal st = some e) (own : e.stripe = st) (k : Nat) :
    ∃ x, AMap.get? (nullSlot st k s).yrd.journal st = some x ∧ AMap.get? x.slots k = some 2 := by
  unfold nullSlot
  rw [updEntry_some known]
  generalize he : ({ e with slots := AMap.set e.slots k 2 } : JEntry) = n
  have own' : n.stripe = st := by rw [← he]; exact own
  obtain ⟨⟨x, found, core, -⟩, -, -⟩ := replicate_replicated (get?_setEntry_own own' s) own' []
  obtain ⟨y, kept, same, -⟩ := trySeal_entry found ((of_entryCore core JEntry.stripe fun _ => rfl).trans own')
  refine ⟨y, kept, ?_⟩
  have slots : y.slots = n.slots := (of_entryCore same JEntry.slots fun _ => rfl).trans (of_entryCore core JEntry.slots fun _ => rfl)
  rw [slots, ← he]
  exact AMap.get?_set_self ..

section Rows

variable {m : YMsg} {s : State} {e : JEntry} (known : AMap.get? s.yrd.journal m.stripe = some e)

include known

theorem exec_withdraw (heard : Heard YT.withdraw m s) (takes : takesSlots e = true) :
    exec (.withdraw m) s = .next (nullSlot m.stripe m.slot (takeDelivered m s)) := by
  show execWithdraw m s = _
  unfold execWithdraw
  refine (heard.receive _).trans ?_
  rw [takeDelivered_yrd, known]
  exact congrArg go (if_pos takes)

theorem exec_nullOk (heard : Heard YT.nullOk m s) (takes : takesSlots e = true) (free : AMap.getD e.slots m.slot 0 = 0) :
    exec (.nullOk m) s = .next (nullSlot m.stripe m.slot (replied YT.nullReq m.stripe m.src (takeDelivered m s))) := by
  show execNullOk m s = _
  unfold execNullOk
  refine (heard.receive _).trans ?_
  dsimp only
  rw [takeDelivered_yrd, known]
  exact congrArg go (if_pos ⟨takes, free⟩)

theorem exec_claimed (heard : Heard YT.claimed m s) (takes : takesSlots e = true) (free : AMap.getD e.slots m.slot 0 = 0) :
    exec (.claimed m) s = .next (setEntry (claimEntered m e) (replied YT.nullReq m.stripe m.src (takeDelivered m s))) := by
  have now : AMap.get? (replied YT.nullReq m.stripe m.src (takeDelivered m s)).yrd.journal m.stripe = some e :=
    (congrArg (fun y : Yrd => AMap.get? y.journal m.stripe) (takeDelivered_yrd m s)).trans known
  show execClaimed m s = _
  unfold execClaimed
  refine (heard.receive _).trans ?_
  dsimp only
  rw [updEntry_some now, if_pos ⟨takes, free⟩]
  rfl

/-- An entry in which a slot is done for a role. -/
def slotNoted (m : YMsg) (e : JEntry) : JEntry := { e with done := AMap.set e.done (32 * (m.role - 1) + m.slot) () }

theorem exec_contribDone (heard : Heard YT.contribDone m s) (takes : takesSlots e = true) (holder : AMap.getD e.holders m.role 0xFF = m.src) (role : 0 < m.role) :
    exec (.contribDone m) s = .next (trySeal m.stripe (setEntry (slotNoted m e) (takeDelivered m s))) := by
  show execContribDone m s = _
  unfold execContribDone
  refine (heard.receive _).trans ?_
  rw [takeDelivered_yrd, known]
  exact congrArg go (if_pos ⟨takes, holder, role⟩)

/-! ## PARITY_LAID and SAFE_ACK (R357, R364, R375) -/

/-- An entry in which a role is Laid. -/
def roleLaid (m : YMsg) (e : JEntry) : JEntry := { e with laid := AMap.set e.laid m.role () }

/-- A stripe that is safe, its stand-ins listed. -/
def stripeSafed (m : YMsg) (e : JEntry) (s : State) : State :=
  setEntry { roleLaid m e with st := .safe } (updYrd (fun y => { y with
    standIns := y.standIns ++ (e.standIns.filter fun j => j.1 != 0).map fun j => (m.stripe, j.1, AMap.getD e.holders j.1 0xFF) }) s)

omit known in
theorem stripeSafed_walks (m : YMsg) (e : JEntry) (s : State) : SameWalks s (stripeSafed m e s) := ⟨rfl, rfl, rfl, rfl, rfl, rfl, rfl, rfl, rfl⟩

omit known in
theorem inc_walks (c : Nat) (s : State) : SameWalks s (inc c s) := .of_yrd rfl rfl

/-- What tells the members of a stripe's units that it is safe. -/
def safeMsgs (m : YMsg) (s : State) (e : JEntry) : List YMsg := (safeMembers s e).map fun x => yMsg s YT.stripeSafe m.stripe x.2 0 x.1 []

theorem exec_parityLaid (heard : Heard YT.parityLaid m s) (isSealed : e.st = .sealed) (holder : AMap.getD e.holders m.role 0xFF = m.src) :
    exec (.parityLaid m) s = .next (if (List.range e.m).all (fun r => mem? (AMap.set e.laid m.role ()) (r + 1)) = true then
        replicate m.stripe (safeMsgs m (takeDelivered m s) e) (inc 0x0F0100 (stripeSafed m e (takeDelivered m s)))
      else setEntry (roleLaid m e) (takeDelivered m s)) := by
  show execParityLaid m s = _
  unfold execParityLaid
  refine (heard.receive _).trans ?_
  dsimp only
  rw [takeDelivered_yrd, known]
  exact congrArg go (if_neg (by simp [isSealed, holder]))

/-- An entry in which a member has acknowledged that its stripe is safe. -/
def safeAcked (m : YMsg) (e : JEntry) : JEntry := { e with acks := AMap.set e.acks m.slot () }

/-- An entry leaves the journal. -/
def entryRetired (m : YMsg) (e : JEntry) (s : State) : State :=
  updYrd (fun y => { y with journal := AMap.erase y.journal m.stripe, reshapeR := if e.rework then max y.reshapeR (m.stripe + 1) else y.reshapeR }) s

theorem exec_safeAck (heard : Heard YT.safeAck m s) (safe : e.st = .safe) :
    ∃ rs, exec (.safeAck m) s = .next (if (safeMembers s e).all (fun x => mem? (AMap.set e.acks m.slot ()) x.1) = true then
        reshapeStep (each (fun r s => sendOnce (yMsg s YT.journal m.stripe r 0 0xFF (entryBytes { safeAcked m e with st := .free })) s) rs
          (entryRetired m e (replied YT.stripeSafe m.stripe m.src (takeDelivered m s))))
      else setEntry (safeAcked m e) (replied YT.stripeSafe m.stripe m.src (takeDelivered m s))) := by
  have members : safeMembers (replied YT.stripeSafe m.stripe m.src (takeDelivered m s)) (safeAcked m e) = safeMembers s e := by
    have walks : SameWalks (takeDelivered m s) (replied YT.stripeSafe m.stripe m.src (takeDelivered m s)) := ⟨rfl, rfl, rfl, rfl, rfl, rfl, rfl, rfl, rfl⟩
    unfold safeMembers
    rw [walks.slotMember, walks.isPresent, (takeDelivered_walks m s).slotMember, (takeDelivered_walks m s).isPresent]
    rfl
  refine ⟨(replicasOf (entryRetired m e (replied YT.stripeSafe m.stripe m.src (takeDelivered m s))) m.stripe).filter
    fun r => !isSelf (entryRetired m e (replied YT.stripeSafe m.stripe m.src (takeDelivered m s))) r, ?_⟩
  show execSafeAck m s = _
  unfold execSafeAck
  refine (heard.receive _).trans ?_
  dsimp only
  rw [takeDelivered_yrd, known, ← members]
  exact congrArg go (if_neg (not_not.mpr safe))

/-! ## JOURNAL_ACK (R356) -/

theorem exec_journalAck (heard : Heard YT.journalAck m s) (asked : mem? e.awaiting m.src = true) :
    exec (.journalAck m) s = .next (if AMap.erase e.awaiting m.src ≠ [] then
        setEntry { e with awaiting := AMap.erase e.awaiting m.src } (replied YT.journal m.stripe m.src (takeDelivered m s))
      else if e.dirty = true then journalOut m.stripe
        (each sendMsg e.reveal (setEntry { e with awaiting := [], reveal := [] } (replied YT.journal m.stripe m.src (takeDelivered m s))))
      else each sendMsg e.reveal (setEntry { e with awaiting := [], reveal := [] } (replied YT.journal m.stripe m.src (takeDelivered m s)))) := by
  have awaits : e.awaiting ≠ [] := fun none => by
    rw [none] at asked
    cases asked
  show execJournalAck m s = _
  unfold execJournalAck
  refine (heard.receive _).trans ?_
  dsimp only
  rw [takeDelivered_yrd, known]
  exact congrArg go (if_neg awaits)

end Rows

/-! ## JOURNAL (R356, R362) -/

/-- An entry that a JOURNAL brings is stored, or taken as this member's own. -/
def journalPut (m : YMsg) (e : JEntry) (s : State) : State :=
  if coordinator s e.stripe = some s.yrd.member ∧ isSelf s m.src = false then
    if (AMap.get? s.yrd.journal e.stripe).isSome then s else setEntry e s
  else updYrd (fun y => { y with replicas := if e.st = .free then AMap.erase y.replicas e.stripe else AMap.set y.replicas e.stripe e }) s

theorem exec_journal {m : YMsg} {s : State} (heard : Heard YT.journal m s) : exec (.journal m) s
    = .next (sendMsg (yMsg s YT.journalAck m.stripe m.src 0 0xFF []) (each (journalPut m)
      ((List.range (m.payload.length / 128)).filterMap fun i => entryParse (slice m.payload (128 * i) 128)) (takeDelivered m s))) := by
  show execJournal m s = _
  unfold execJournal
  refine (heard.receive _).trans ?_
  dsimp only
  rw [yMsg_of_yrd (takeDelivered_yrd m s)]
  rfl

/-- What entries brought by a JOURNAL leave of a state. -/
structure Stored (s t : State) : Prop where
  walks : SameWalks s t
  fab : t.fab = s.fab
  wf : AMap.wf s.yrd.replicas = true → AMap.wf t.yrd.replicas = true

theorem Stored.trans {s u t : State} (h : Stored s u) (k : Stored u t) : Stored s t :=
  ⟨h.walks.trans k.walks, k.fab.trans h.fab, fun wf => k.wf (h.wf wf)⟩

section Put

variable (m : YMsg) (e : JEntry) (s : State)

theorem journalPut_cases : journalPut m e s = s ∨ journalPut m e s = setEntry e s
    ∨ journalPut m e s = updYrd (fun y => { y with replicas := if e.st = .free then AMap.erase y.replicas e.stripe else AMap.set y.replicas e.stripe e }) s := by
  unfold journalPut
  split
  · split
    · exact .inl rfl
    · exact .inr (.inl rfl)
  · exact .inr (.inr rfl)

theorem journalPut_stored : Stored s (journalPut m e s) := by
  rcases journalPut_cases m e s with same | own | replica
  · rw [same]
    exact ⟨.refl s, rfl, fun wf => wf⟩
  · rw [own]
    exact ⟨(setEntry_journalled e s).walks, rfl, fun wf => wf⟩
  · rw [replica]
    refine ⟨⟨rfl, rfl, rfl, rfl, rfl, rfl, rfl, rfl, rfl⟩, rfl, fun wf => ?_⟩
    show AMap.wf (if e.st = .free then _ else _) = true
    split
    · exact AMap.wf_erase _ _ wf
    · exact AMap.wf_set _ _ _ wf

/-- An entry leaves those of other stripes as they are. -/
theorem journalPut_other {st : Nat} (other : e.stripe ≠ st) : AMap.get? (journalPut m e s).yrd.journal st = AMap.get? s.yrd.journal st
    ∧ AMap.get? (journalPut m e s).yrd.replicas st = AMap.get? s.yrd.replicas st := by
  rcases journalPut_cases m e s with same | own | replica
  · rw [same]
    exact ⟨rfl, rfl⟩
  · rw [own]
    exact ⟨get?_setEntry_other other s, rfl⟩
  · rw [replica]
    refine ⟨rfl, ?_⟩
    show AMap.get? (if e.st = .free then _ else _) st = _
    split
    · exact AMap.get?_erase_of_ne _ other
    · exact AMap.get?_set_of_ne _ _ other

end Put

theorem journalPuts_stored (m : YMsg) (es : List JEntry) (s : State) : Stored s (each (journalPut m) es s) :=
  each_inv es ⟨.refl s, rfl, fun wf => wf⟩ fun e _ v h => h.trans (journalPut_stored m e v)

theorem journalPuts_others (m : YMsg) {es : List JEntry} {st : Nat} (others : ∀ e ∈ es, e.stripe ≠ st) (s : State) :
    AMap.get? (each (journalPut m) es s).yrd.journal st = AMap.get? s.yrd.journal st
      ∧ AMap.get? (each (journalPut m) es s).yrd.replicas st = AMap.get? s.yrd.replicas st :=
  each_inv (P := fun v : State => AMap.get? v.yrd.journal st = AMap.get? s.yrd.journal st ∧ AMap.get? v.yrd.replicas st = AMap.get? s.yrd.replicas st)
    es ⟨rfl, rfl⟩ fun e mem v ⟨journal, replicas⟩ => by
      obtain ⟨j, r⟩ := journalPut_other m e v (others e mem)
      exact ⟨j.trans journal, r.trans replicas⟩

/-- The only entry of its stripe in a list stands between entries of other stripes. -/
theorem split_of_only {es : List JEntry} {e : JEntry} (only : (es.filter fun x => x.stripe == e.stripe) = [e]) :
    ∃ p q, es = p ++ e :: q ∧ (∀ x ∈ p, x.stripe ≠ e.stripe) ∧ ∀ x ∈ q, x.stripe ≠ e.stripe := by
  obtain ⟨p, q, rfl, before, -, after⟩ := List.filter_eq_cons_iff.mp only
  refine ⟨p, q, rfl, fun x mem => by simpa using before x mem, fun x mem => ?_⟩
  simpa using (List.filter_eq_nil_iff.mp after) x mem

/-- What becomes of the only entry of its stripe. -/
theorem journalPuts_at {m : YMsg} {es : List JEntry} {e : JEntry} (only : (es.filter fun x => x.stripe == e.stripe) = [e]) (s : State) :
    ∃ v, Stored s v ∧ AMap.get? v.yrd.journal e.stripe = AMap.get? s.yrd.journal e.stripe ∧ AMap.get? v.yrd.replicas e.stripe = AMap.get? s.yrd.replicas e.stripe
      ∧ AMap.get? (each (journalPut m) es s).yrd.journal e.stripe = AMap.get? (journalPut m e v).yrd.journal e.stripe
      ∧ AMap.get? (each (journalPut m) es s).yrd.replicas e.stripe = AMap.get? (journalPut m e v).yrd.replicas e.stripe := by
  obtain ⟨p, q, rfl, before, after⟩ := split_of_only only
  obtain ⟨journal, replicas⟩ := journalPuts_others m before s
  obtain ⟨journal', replicas'⟩ := journalPuts_others m after (journalPut m e (each (journalPut m) p s))
  have split : each (journalPut m) (p ++ e :: q) s = each (journalPut m) q (journalPut m e (each (journalPut m) p s)) := List.foldl_append
  rw [split]
  exact ⟨_, journalPuts_stored m p s, journal, replicas, journal', replicas'⟩

/-- Settles O53: an entry that changes is what it was but for its replication (`replicate_replicated`, `trySeal_entry`), and the messages that
reveal the change wait in it; entries of a JOURNAL touch only their own stripes. -/
theorem coordinatorsKeepTheJournal : Obligations.CoordinatorsKeepTheJournal := by
  intro s m u
  have yrd : u.yrd = s.yrd := takeDelivered_yrd m s
  have walks : SameWalks s u := takeDelivered_walks m s
  refine ⟨fun st => ⟨rfl, fun x => not_mem_replicasOf, replicasOf_length s st, fun x => isPresent_of_mem_replicasOf⟩,
    fun heard coord slot => ?claim,
    fun e known own => ⟨fun heard takes => ?withdraw, fun heard takes free => ?nullOk, fun heard takes free => ?claimed,
      fun heard takes holder role => ?done, fun heard isSealed holder => ?parity, fun heard safe => ?ack,
      fun heard asked => ⟨fun left => ?asked, fun last clean => ?revealed⟩⟩, fun heard => ?journal⟩
  case' claim =>
    intro answer
    refine ⟨fun unknown => ⟨fun full => ?busy, fun room => ?opens⟩, fun e known own takes free => ?enters⟩
  case' parity =>
    intro laid
    refine ⟨fun missing => ?laid, fun all => ?safe⟩
  case' ack =>
    intro acks
    refine ⟨fun missing => ?acked, fun all inactive => ?retired, fun all rework => ?reworked⟩
  case busy =>
    have ran := exec_claim_unknown heard coord slot unknown
    rw [if_pos full] at ran
    exact ⟨_, ran, sent_takenYrd rfl m s⟩
  case opens =>
    have ran := exec_claim_unknown heard coord slot unknown
    rw [if_neg (by omega)] at ran
    have rows : others (setEntry (claimOpened m u) u) m.stripe = others s m.stripe :=
      congrFun (walks.trans (setEntry_journalled (claimOpened m u) u).walks).others m.stripe
    obtain ⟨⟨x, found, core, epoch, waits⟩, -, -⟩ := replicate_replicated (st := m.stripe) (get?_setEntry_own (e := claimOpened m u) rfl u) rfl [answer 0]
    rw [rows] at waits
    refine ⟨_, ran, x, found, of_entryCore core JEntry.st fun _ => rfl, ?_, ?_, epoch.trans (congrArg Yrd.epoch yrd :), fun any => ?_, fun alone => ?_⟩
    · rw [of_entryCore core JEntry.slots fun _ => rfl]
      exact AMap.get?_set_self ..
    · rw [of_entryCore core JEntry.claims fun _ => rfl]
      exact AMap.get?_set_self ..
    · obtain ⟨awaits, -, reveals⟩ := waits any
      exact ⟨awaits, reveals rfl _ List.mem_cons_self⟩
    · exact replicate_answers (e := claimOpened m u) rfl rfl rfl rfl ((congrFun walks.others _).trans alone) rfl rfl
  case enters =>
    have rows : others (setEntry (claimEntered m e) u) m.stripe = others s m.stripe :=
      congrFun (walks.trans (setEntry_journalled (claimEntered m e) u).walks).others m.stripe
    obtain ⟨⟨x, found, core, -, waits⟩, -, -⟩ := replicate_replicated (get?_setEntry_own (e := claimEntered m e) own u) own [answer 0]
    rw [rows] at waits
    refine ⟨_, exec_claim_enters heard coord slot known takes free, x, found, of_entryCore core JEntry.st fun _ => rfl, ?_, ?_, fun any => ?_⟩
    · rw [of_entryCore core JEntry.slots fun _ => rfl]
      exact AMap.get?_set_self ..
    · rw [of_entryCore core JEntry.claims fun _ => rfl]
      exact AMap.get?_set_self ..
    · obtain ⟨awaits, held, -⟩ := waits any
      exact ⟨awaits, held _ List.mem_cons_self⟩
  case withdraw => exact ⟨_, exec_withdraw known heard takes, nullSlot_nulls (by rw [yrd]; exact known) own _⟩
  case nullOk =>
    refine ⟨_, exec_nullOk known heard takes free, nullSlot_nulls (e := e) ?_ own _⟩
    exact (congrArg (fun y : Yrd => AMap.get? y.journal m.stripe) yrd).trans known
  case claimed =>
    refine ⟨_, exec_claimed known heard takes free, ?_, ?_⟩
    · have own' : (claimEntered m e).stripe = m.stripe := own
      show AMap.set u.yrd.journal (claimEntered m e).stripe (claimEntered m e) = _
      rw [yrd, own']
      rfl
    · intro x mem ⟨type, stripe, dst⟩
      obtain ⟨-, other⟩ := List.mem_filter.mp mem
      simp [type, stripe, dst] at other
  case done =>
    have now : AMap.get? (setEntry (slotNoted m e) u).yrd.journal m.stripe = some (slotNoted m e) := get?_setEntry_own (e := slotNoted m e) own u
    obtain ⟨x, found, core, -, isSealed⟩ := trySeal_entry now own
    have noted := setEntry_journalled (slotNoted m e) u
    refine ⟨_, exec_contribDone known heard takes holder role, x, found, of_entryCore core JEntry.done fun _ => rfl, fun ready => ?_, fun unready => ?_,
      fun ready any => ?_⟩
    · exact (isSealed ready).1
    · rw [trySeal_open now unready, now] at found
      cases found
      rfl
    · obtain ⟨-, waits⟩ := isSealed ready
      obtain ⟨awaits, reveals⟩ := waits (by rw [noted.walks.others, walks.others]; exact any)
      refine ⟨awaits, fun r below => ?_⟩
      have msg := reveals _ (List.mem_map.mpr ⟨r, List.mem_range.mpr below, rfl⟩)
      rwa [noted.yMsg, yMsg_of_yrd yrd] at msg
  case laid =>
    obtain ⟨r, below, missing⟩ := missing
    have ran := exec_parityLaid known heard isSealed holder
    rw [if_neg (fun all => by
      have there := List.all_eq_true.mp all r (List.mem_range.mpr below)
      rw [missing] at there
      cases there)] at ran
    refine ⟨_, ran, ?_⟩
    have own' : (roleLaid m e).stripe = m.stripe := own
    show { u.yrd with journal := AMap.set u.yrd.journal (roleLaid m e).stripe (roleLaid m e) } = _
    rw [yrd, own']
    rfl
  case safe =>
    have ran := exec_parityLaid known heard isSealed holder
    rw [if_pos (List.all_eq_true.mpr fun r mem => all r (List.mem_range.mp mem))] at ran
    have own' : ({ roleLaid m e with st := .safe } : JEntry).stripe = m.stripe := own
    have now : AMap.get? (inc 0x0F0100 (stripeSafed m e u)).yrd.journal m.stripe = some { roleLaid m e with st := .safe } := get?_setEntry_own own' _
    obtain ⟨⟨x, found, core, -, waits⟩, -, kept⟩ := replicate_replicated now own' (safeMsgs m u e)
    have stepped := (stripeSafed_walks m e u).trans (inc_walks 0x0F0100 _)
    refine ⟨_, ran, ?_, ?_, x, found, of_entryCore core JEntry.st fun _ => rfl, of_entryCore core JEntry.laid fun _ => rfl, fun any => ?_⟩
    · rw [kept.counts.same _ (by decide) (by decide)]
      exact ctr_inc_of_counts ((takeDelivered_yardCounts m s).trans (.of_ctrs rfl)) (by decide) (by decide)
    · rw [kept.of_yrd Yrd.standIns fun _ => rfl]
      exact congrArg (fun y : Yrd => y.standIns ++ (e.standIns.filter fun j => j.1 != 0).map fun j => (m.stripe, j.1, AMap.getD e.holders j.1 0xFF)) yrd
    · obtain ⟨awaits, held, -⟩ := waits (by rw [stepped.others, walks.others]; exact any)
      refine ⟨awaits, fun y mem => ?_⟩
      have members : safeMembers u e = safeMembers s e := by
        unfold safeMembers
        rw [walks.slotMember, walks.isPresent]
      have msg := held (yMsg u YT.stripeSafe m.stripe y.2 0 y.1 []) (List.mem_map.mpr ⟨y, by rwa [members], rfl⟩)
      rwa [yMsg_of_yrd yrd] at msg
  case acked =>
    obtain ⟨x, mem, missing⟩ := missing
    obtain ⟨rs, ran⟩ := exec_safeAck known heard safe
    rw [if_neg (fun all => by
      have there := List.all_eq_true.mp all x mem
      rw [missing] at there
      cases there)] at ran
    refine ⟨_, ran, ?_⟩
    have own' : (safeAcked m e).stripe = m.stripe := own
    show AMap.set u.yrd.journal (safeAcked m e).stripe (safeAcked m e) = _
    rw [yrd, own']
    rfl
  case retired =>
    obtain ⟨rs, ran⟩ := exec_safeAck known heard safe
    rw [if_pos (List.all_eq_true.mpr all)] at ran
    refine ⟨_, ran, ?_⟩
    beta_reduce
    have sent : (each (fun r s => sendOnce (yMsg s YT.journal m.stripe r 0 0xFF (entryBytes { safeAcked m e with st := .free })) s) rs
        (entryRetired m e (replied YT.stripeSafe m.stripe m.src u))).yrd = (entryRetired m e (replied YT.stripeSafe m.stripe m.src u)).yrd :=
      each_keeps State.yrd (fun _ v => sendOnce_yrd _ v) rs _
    rw [reshapeStep_inactive (by rw [sent]; exact (congrArg Yrd.reshapeActive yrd).trans inactive), sent]
    exact (congrArg (fun y : Yrd => AMap.erase y.journal m.stripe) yrd :)
  case reworked =>
    obtain ⟨rs, ran⟩ := exec_safeAck known heard safe
    rw [if_pos (List.all_eq_true.mpr all)] at ran
    refine ⟨_, ran, ?_⟩
    beta_reduce
    rw [reshapeStep_reshapeR, each_keeps (fun v : State => v.yrd) (fun _ v => sendOnce_yrd _ v) rs]
    show m.stripe < if e.rework = true then max u.yrd.reshapeR (m.stripe + 1) else u.yrd.reshapeR
    rw [if_pos rework]
    omega
  case asked =>
    have ran := exec_journalAck known heard asked
    rw [if_pos left] at ran
    refine ⟨_, ran, ?_⟩
    show AMap.set u.yrd.journal e.stripe _ = _
    rw [yrd, own]
  case revealed =>
    have ran := exec_journalAck known heard asked
    rw [if_neg (not_not.mpr last), if_neg (by simp [clean])] at ran
    refine ⟨_, ran, ?_, rfl⟩
    rw [(Told.each (fun m v => sendMsg_told m v) e.reveal _).of_yrd Yrd.journal fun _ => rfl]
    show AMap.set u.yrd.journal e.stripe _ = _
    rw [yrd, own]
  case journal =>
    intro es only
    have stored := journalPuts_stored m es u
    refine ⟨_, exec_journal heard, ?_, fun e mem => ?_⟩
    · rw [sendMsg_unrepeated _ _ rfl]
      exact ⟨_, ⟨stored.fab, (sendOnce_yrd ..).symm, stored.walks.cfg⟩, rfl⟩
    · rw [sendMsg_yrd _ _ rfl]
      obtain ⟨v, kept, journal, replicas, journal', replicas'⟩ := journalPuts_at (m := m) (only e mem) u
      have same := walks.trans kept.walks
      have puts : ∀ own : Prop, own = (coordinator s e.stripe = some s.yrd.member ∧ m.src ≠ s.yrd.member) →
          (¬own → journalPut m e v = updYrd (fun y => { y with replicas := if e.st = .free then AMap.erase y.replicas e.stripe else AMap.set y.replicas e.stripe e }) v)
          ∧ (own → AMap.get? s.yrd.journal e.stripe = none → journalPut m e v = setEntry e v) := by
        rintro own rfl
        unfold journalPut
        rw [same.coordinator, same.member, same.isSelf]
        refine ⟨fun foreign => if_neg fun ⟨coord, src⟩ => foreign ⟨coord, by simpa [isSelf] using src⟩, fun ⟨coord, src⟩ unknown => ?_⟩
        rw [if_pos ⟨coord, by simpa [isSelf] using src⟩, journal, yrd, unknown]
        rfl
      obtain ⟨replica, taken⟩ := puts _ rfl
      have foreign : coordinator s e.stripe ≠ some s.yrd.member ∨ m.src = s.yrd.member → ¬(coordinator s e.stripe = some s.yrd.member ∧ m.src ≠ s.yrd.member) :=
        fun either ⟨coord, src⟩ => either.elim (fun n => n coord) src
      refine ⟨fun either used => ?_, fun either free wf => ?_, fun coord src unknown => ?_⟩
      · rw [replicas', replica (foreign either)]
        show AMap.get? (if e.st = .free then _ else _) e.stripe = _
        rw [if_neg used]
        exact AMap.get?_set_self ..
      · rw [replicas', replica (foreign either)]
        show AMap.get? (if e.st = .free then _ else _) e.stripe = _
        rw [if_pos free]
        exact AMap.get?_erase_self _ _ (kept.wf (by rw [yrd]; exact wf))
      · rw [journal', taken ⟨coord, src⟩ unknown]
        exact get?_setEntry e v

end Sys2Proof.Machine
end

/-! Parity: partial products, accumulators, retention copies, stripes that become safe, and the repeat timer (O54). -/

section

namespace Sys2Proof.Machine

/-! ## Coefficients (R351) -/

set_option maxRecDepth 20000 in
/-- The example of R351: data slot 0 of a stripe with two roles, and the contributions of byte 0x5A. -/
theorem coefficients_of_slot_zero : yardCoef 2 1 0 = 0x8E#8 ∧ yardCoef 2 2 0 = 0xF4#8 ∧ scaleBytes (yardCoef 2 1 0) [0x5A#8] = [0x2D#8]
    ∧ scaleBytes (yardCoef 2 2 0) [0x5A#8] = [0x36#8] := by decide

/-! ## Segments add in any order (R351, R352) -/

theorem areaAdd_eq_zipWith : ∀ {a b : Bytes}, a.length = b.length → areaAdd a b = List.zipWith (· ^^^ ·) a b
  | [], [], _ => rfl
  | x :: _, y :: _, h => congrArg (fun w => (x ^^^ y) :: w) (areaAdd_eq_zipWith (Nat.succ.inj h))
  | [], _ :: _, h => nomatch h
  | _ :: _, [], h => nomatch h

theorem addSegment_length {x seg : Bytes} {i : Nat} (fits : 65536 * i + seg.length ≤ x.length) : (addSegment x i seg).length = x.length := by
  have whole : (slice x (65536 * i) seg.length).length = seg.length := by
    simp only [slice, List.length_take, List.length_drop]
    omega
  simp only [addSegment, areaAdd_eq_zipWith whole, List.length_append, List.length_take, List.length_zipWith, List.length_drop, whole]
  omega

/-- A segment is added byte by byte in its place. -/
theorem getElem?_addSegment {x seg : Bytes} {i : Nat} (fits : 65536 * i + seg.length ≤ x.length) (n : Nat) : (addSegment x i seg)[n]?
    = if 65536 * i ≤ n ∧ n < 65536 * i + seg.length then some (x.getD n 0#8 ^^^ seg.getD (n - 65536 * i) 0#8) else x[n]? := by
  have whole : (slice x (65536 * i) seg.length).length = seg.length := by
    simp only [slice, List.length_take, List.length_drop]
    omega
  have added : (areaAdd (slice x (65536 * i) seg.length) seg).length = seg.length := by
    rw [areaAdd_eq_zipWith whole, List.length_zipWith, whole, Nat.min_self]
  have head : (x.take (65536 * i)).length = 65536 * i := by
    rw [List.length_take]
    omega
  unfold addSegment
  by_cases before : n < 65536 * i
  · rw [if_neg (by omega), List.append_assoc, List.getElem?_append_left (by omega), List.getElem?_take_of_lt before]
  by_cases inside : n < 65536 * i + seg.length
  · rw [if_pos ⟨by omega, inside⟩, List.getElem?_append_left (by rw [List.length_append]; omega), List.getElem?_append_right (by omega), head,
      areaAdd_eq_zipWith whole, List.getElem?_eq_getElem (by rw [List.length_zipWith, whole]; omega), List.getElem_zipWith]
    simp only [slice, List.getElem_take, List.getElem_drop, List.getD_eq_getElem?_getD]
    rw [List.getElem?_eq_getElem (by omega), List.getElem?_eq_getElem (by omega)]
    simp only [Option.getD_some, Nat.add_sub_cancel' (Nat.not_lt.mp before)]
  · rw [if_neg (by omega), List.getElem?_append_right (by rw [List.length_append]; omega), List.length_append, head, added, List.getElem?_drop]
    congr 1
    omega

theorem getD_addSegment {x seg : Bytes} {i n : Nat} (fits : 65536 * i + seg.length ≤ x.length) (apart : ¬(65536 * i ≤ n ∧ n < 65536 * i + seg.length)) :
    (addSegment x i seg).getD n 0#8 = x.getD n 0#8 := by
  rw [List.getD_eq_getElem?_getD, getElem?_addSegment fits, if_neg apart, List.getD_eq_getElem?_getD]

/-- Segments that do not overlap add in either order. -/
theorem addSegment_comm {x a b : Bytes} {i j : Nat} (fits : 65536 * i + a.length ≤ x.length) (fits' : 65536 * j + b.length ≤ x.length)
    (apart : ∀ n, ¬((65536 * i ≤ n ∧ n < 65536 * i + a.length) ∧ (65536 * j ≤ n ∧ n < 65536 * j + b.length))) :
    addSegment (addSegment x i a) j b = addSegment (addSegment x j b) i a := by
  refine List.ext_getElem? fun n => ?_
  rw [getElem?_addSegment (x := addSegment x i a) (by rw [addSegment_length fits]; exact fits'),
    getElem?_addSegment (x := addSegment x j b) (by rw [addSegment_length fits']; exact fits)]
  by_cases first : 65536 * i ≤ n ∧ n < 65536 * i + a.length
  · have other : ¬(65536 * j ≤ n ∧ n < 65536 * j + b.length) := fun second => apart n ⟨first, second⟩
    rw [if_neg other, if_pos first, getElem?_addSegment fits, if_pos first, getD_addSegment fits' other]
  · rw [if_neg first, getElem?_addSegment fits', getD_addSegment fits first, getElem?_addSegment fits, if_neg first]

/-- The segments of a user area fit in it. -/
theorem segment_fits {x a : Bytes} {i : Nat} (area : x.length = userArea) (below : i < 300) (size : a.length = if i = 299 then 13312 else 65536) :
    65536 * i + a.length ≤ x.length ∧ a.length ≤ 65536 := by
  unfold userArea at area
  split at size <;> omega

/-! ## Accumulators (R353) -/

theorem accumOf_of_accums {s t : State} (same : t.yrd.accums = s.yrd.accums) (st role : Nat) : accumOf t st role = accumOf s st role := by
  unfold accumOf
  rw [same]

theorem accumOf_key {s : State} {st role : Nat} {a : Accum} (known : accumOf s st role = some a) : a.stripe = st ∧ a.role = role := by
  have holds := List.find?_some known
  simpa using holds

theorem accumOf_updAccum {s : State} {st role : Nat} {a b : Accum} (known : accumOf s st role = some a) (stripe : b.stripe = a.stripe) (same : b.role = a.role) :
    accumOf (updAccum st role (fun _ => b) s) st role = some b := by
  obtain ⟨own, of⟩ := accumOf_key known
  exact find_modFirst_replace known known (by simp [stripe, same, own, of])

theorem openAccum_known {s : State} {st role : Nat} {a : Accum} (known : accumOf s st role = some a) : openAccum st role s = (true, s) :=
  if_pos (by rw [known]; rfl)

/-- A fresh accumulator. -/
def freshAccum (st role : Nat) (hs : List Handle) : Accum := { stripe := st, role := role, bytes := zeros userArea, stalls := hs }

/-- A fresh accumulator stands among those of the member. -/
def accumOpened (a : Accum) (s : State) : State := updYrd (fun y => { y with accums := y.accums ++ [a] }) s

section Open

variable {s : State} {st role : Nat} (unknown : accumOf s st role = none)

include unknown

theorem openAccum_denied (denied : (acquire (accumReq role) 5 75 s).1 = none) : openAccum st role s = (false, (acquire (accumReq role) 5 75 s).2) := by
  refine (if_neg (by rw [unknown]; decide)).trans ?_
  generalize acquire (accumReq role) 5 75 s = got at denied ⊢
  obtain ⟨hs, u⟩ := got
  cases denied
  rfl

theorem openAccum_granted {hs : List Handle} (granted : (acquire (accumReq role) 5 75 s).1 = some hs) :
    openAccum st role s = (true, accumOpened (freshAccum st role hs) (acquire (accumReq role) 5 75 s).2) := by
  refine (if_neg (by rw [unknown]; decide)).trans ?_
  generalize acquire (accumReq role) 5 75 s = got at granted ⊢
  obtain ⟨hs, u⟩ := got
  cases granted
  rfl

theorem accumOf_accumOpened {u : State} (same : u.yrd = s.yrd) (hs : List Handle) : accumOf (accumOpened (freshAccum st role hs) u) st role = some (freshAccum st role hs) := by
  have none : (s.yrd.accums.find? fun a => a.stripe == st && a.role == role) = none := unknown
  show (u.yrd.accums ++ [freshAccum st role hs]).find? _ = _
  rw [same, List.find?_append, none]
  simp [freshAccum]

end Open

/-! ## CONTRIB (R353) -/

/-- An accumulator with a segment added and marked. -/
def segmentAdded (m : YMsg) (a : Accum) : Accum :=
  { a with bytes := addSegment a.bytes m.seg m.payload, seen := AMap.set a.seen (300 * m.slot + m.seg) () }

/-- A segment has been added; a slot's last one is reported. -/
def segmentTaken (m : YMsg) (b : Accum) (s : State) : State :=
  if slotDone b m.slot = true then toCoordinator YT.contribDone m.stripe m.role m.slot [] (updAccum m.stripe m.role (fun _ => b) s)
  else updAccum m.stripe m.role (fun _ => b) s

/-- A segment comes to an accumulator. -/
def contribTaken (m : YMsg) (s : State) : State :=
  match accumOf s m.stripe m.role with
  | none => s
  | some a => if mem? a.seen (300 * m.slot + m.seg) = true ∨ a.isSealed = true then inc 0x0F0114 s else segmentTaken m (segmentAdded m a) s

section Contrib

variable {m : YMsg} {s : State} (heard : Heard YT.contrib m s) (seg : m.seg < 300) (slot : m.slot < 32) (role : 0 < m.role) (roles : m.role ≤ 4)

include heard seg slot role roles

theorem exec_contrib_eq : exec (.contrib m) s
    = match openAccum m.stripe m.role s with | (false, v) => .next v | (true, v) => receive YT.contrib m (contribTaken m) v := by
  have epoch : m.epoch = s.yrd.epoch := heard.epoch.resolve_right fun any => nomatch any
  show execContrib m s = _
  unfold execContrib
  dsimp only
  rw [if_neg (by simp [heard.type]; omega), if_neg (by simp [epoch, heard.yard, heard.enrolled])]
  cases openAccum m.stripe m.role s with
  | mk ok v => cases ok <;> rfl

theorem exec_contrib_known {a : Accum} (known : accumOf s m.stripe m.role = some a) : exec (.contrib m) s = .next (contribTaken m (takeDelivered m s)) := by
  rw [exec_contrib_eq heard seg slot role roles, openAccum_known known]
  exact heard.receive _

end Contrib

section Taken

variable {m : YMsg} {s : State} {a : Accum} (known : accumOf s m.stripe m.role = some a)

include known

theorem contribTaken_seen (seen : mem? a.seen (300 * m.slot + m.seg) = true ∨ a.isSealed = true) : contribTaken m s = inc 0x0F0114 s := by
  unfold contribTaken
  rw [known]
  exact if_pos seen

theorem contribTaken_new (new : mem? a.seen (300 * m.slot + m.seg) = false) (unsealed : a.isSealed = false) :
    contribTaken m s = segmentTaken m (segmentAdded m a) s := by
  unfold contribTaken
  rw [known]
  exact if_neg (by simp [new, unsealed])

theorem accumOf_segmentTaken : accumOf (segmentTaken m (segmentAdded m a) s) m.stripe m.role = some (segmentAdded m a) := by
  have added := accumOf_updAccum (b := segmentAdded m a) known rfl rfl
  unfold segmentTaken
  split
  · exact (accumOf_of_accums ((toCoordinator_told ..).of_yrd Yrd.accums fun _ => rfl) ..).trans added
  · exact added

end Taken

theorem updAccum_walks (st role : Nat) (f : Accum → Accum) (s : State) : SameWalks s (updAccum st role f s) := ⟨rfl, rfl, rfl, rfl, rfl, rfl, rfl, rfl, rfl⟩

/-- A slot's last segment is reported to the coordinator. -/
theorem segmentTaken_reports {m : YMsg} {s : State} {b : Accum} {c : Nat} (done : slotDone b m.slot = true) (coord : coordinator s m.stripe = some c) :
    ∃ v, Before s v (segmentTaken m b s) ∧ Sent (yMsg s YT.contribDone m.stripe c m.role m.slot []) v (segmentTaken m b s) := by
  have walks := updAccum_walks m.stripe m.role (fun _ => b) s
  have sent : segmentTaken m b s = sendOnce (yMsg s YT.contribDone m.stripe c m.role m.slot []) (updAccum m.stripe m.role (fun _ => b) s) := by
    refine (if_pos done).trans ?_
    rw [toCoordinator_eq (c := c) (by rw [walks.coordinator]; exact coord), sendMsg_unrepeated _ _ rfl]
    rfl
  rw [sent]
  exact ⟨updAccum m.stripe m.role (fun _ => b) s, ⟨rfl, (sendOnce_yrd ..).symm, walks.cfg⟩, rfl⟩

theorem segmentTaken_fab {m : YMsg} {s : State} {b : Accum} (undone : slotDone b m.slot = false) : (segmentTaken m b s).fab = s.fab := by
  unfold segmentTaken
  rw [if_neg (by rw [undone]; decide)]
  rfl

/-! ## SEAL and YARD_PARITY_LAID (R358) -/

/-- An accumulator that is sealed. -/
def accumSealed (m : YMsg) (s : State) : State :=
  updAccum m.stripe m.role (fun a => { a with isSealed := true }) (updYrd (fun y => { y with nulls := AMap.set y.nulls m.stripe (beAt m.payload 0 4) }) s)

theorem accumSealed_posts (m : YMsg) {s : State} (slots : hasSlots .fmt Src.yard 1 s = true) (arg : Nat) :
    boxOf (post .fmt Src.yard 0x0005 arg (accumSealed m s)) .fmt = boxOf s .fmt ++ [mail Src.yard 0x0005 arg s] := by
  have box : boxOf (accumSealed m s) .fmt = boxOf s .fmt := boxOf_of_boxes rfl _
  rw [post_of_slots ((hasSlots_congr box ..).trans slots), boxOf_setBox_self, box]
  rfl

theorem exec_sealStripe {m : YMsg} {s : State} (heard : Heard YT.sealStripe m s) {a : Accum} (known : accumOf s m.stripe m.role = some a) (unsealed : a.isSealed = false) :
    exec (.sealStripe m) s = .next (post .fmt Src.yard 0x0005 (copyHandle a.stalls + m.stripe % 2 ^ 32 * 2 ^ 27) (accumSealed m (takeDelivered m s))) := by
  have now : accumOf (updYrd (fun y => { y with nulls := AMap.set y.nulls m.stripe (beAt m.payload 0 4) }) (takeDelivered m s)) m.stripe m.role = some a :=
    (accumOf_of_accums (congrArg Yrd.accums (takeDelivered_yrd m s) :) ..).trans known
  show execSealStripe m s = _
  unfold execSealStripe
  refine (heard.receive _).trans ?_
  dsimp only
  rw [openAccum_known now]
  dsimp only
  rw [now]
  exact congrArg go (if_neg (by simp [unsealed]))

/-- An accumulator whose parity data set is Laid stands among the units. -/
def parityUnit (a : Accum) (p ds : Nat) (s : State) : State :=
  updYrd (fun y => { y with
    accums := y.accums.filter (fun b => !(b.stripe == a.stripe && b.role == a.role))
    units := y.units.filter (fun u => !(u.part == p && u.ds == ds)) ++ [⟨a.stripe, stripeK s a.stripe + a.role - 1, p, ds⟩] }) s

theorem freeAccum_keeps (a : Accum) (s : State) : (freeAccum a s).yrd = s.yrd ∧ (freeAccum a s).fab = s.fab ∧ (freeAccum a s).cfg = s.cfg :=
  ⟨each_keeps State.yrd (fun _ _ => (giveBack_frame ..).same .yrd rfl) _ s, each_keeps State.fab (fun _ _ => (giveBack_frame ..).same .fab rfl) _ s,
    each_keeps State.cfg (fun _ _ => (giveBack_frame ..).same .cfg rfl) _ s⟩

theorem parityUnit_walks (a : Accum) (p ds : Nat) (s : State) : SameWalks s (parityUnit a p ds s) := ⟨rfl, rfl, rfl, rfl, rfl, rfl, rfl, rfl, rfl⟩

theorem exec_yardParityLaid {src arg : Nat} {s w : State} (taken : Takes .yard src 0x0003 arg s w) {a : Accum} {c : Nat}
    (found : (w.yrd.accums.find? fun a => a.part == bits arg 33 32 && a.ds == some (bits arg 31 0)) = some a) (coord : coordinator w a.stripe = some c) :
    exec (.yardParityLaid src arg) s = .next (sendOnce (yMsg w YT.parityLaid a.stripe c a.role 0xFF (be 1 (bits arg 33 32) ++ be 4 (bits arg 31 0)))
      (freeAccum a (parityUnit a (bits arg 33 32) (bits arg 31 0) w))) := by
  obtain ⟨yrd, -, cfg⟩ := freeAccum_keeps a (parityUnit a (bits arg 33 32) (bits arg 31 0) w)
  have walks := (parityUnit_walks a (bits arg 33 32) (bits arg 31 0) w).trans (.of_yrd yrd cfg)
  have sent : toCoordinator YT.parityLaid a.stripe a.role 0xFF (be 1 (bits arg 33 32) ++ be 4 (bits arg 31 0)) (freeAccum a (parityUnit a (bits arg 33 32) (bits arg 31 0) w))
      = sendOnce (yMsg w YT.parityLaid a.stripe c a.role 0xFF (be 1 (bits arg 33 32) ++ be 4 (bits arg 31 0))) (freeAccum a (parityUnit a (bits arg 33 32) (bits arg 31 0) w)) := by
    rw [toCoordinator_eq (c := c) (by rw [walks.coordinator]; exact coord), sendMsg_unrepeated _ _ rfl]
    congr 1
    exact yMsg_congr (congrArg Yrd.epoch yrd :) (congrArg Yrd.yardId yrd :) walks.member ..
  refine (congrArg go (taken.act _)).trans ?_
  dsimp only
  rw [found]
  exact congrArg go sent

/-! ## RETAIN_LOW (R352) -/

/-- One copy moves, while Stalls are short. -/
def retainStep (s : State) : State :=
  if Cfgw.retainLow s ≤ freeCount (stableAt s 5) then s
  else match s.yrd.retains.find? fun r => r.slot.isNone with
    | some r => retainToShed r.part r.ds s
    | none => s

theorem exec_retainLow (s : State) : exec .retainLow s = .next ((List.range s.yrd.retains.length).foldl (fun v _ => retainStep v) s) := rfl

/-- A copy that stands in the Shed, the only one of its unit. -/
def ShedCopy (x : Retain) (s : State) : Prop := x ∈ s.yrd.retains ∧ ∀ y ∈ s.yrd.retains, y.part = x.part → y.ds = x.ds → y = x

theorem inShed_key (part ds k : Nat) (x : Retain) : (inShed part ds k x).part = x.part ∧ (inShed part ds k x).ds = x.ds := by
  unfold inShed
  split <;> exact ⟨rfl, rfl⟩

/-- A copy in the Shed stays when a copy moves. -/
theorem retainStep_keeps {x : Retain} (shed : x.slot.isNone = false) {s : State} (copy : ShedCopy x s) : ShedCopy x (retainStep s) := by
  obtain ⟨mem, only⟩ := copy
  unfold retainStep
  split
  · exact ⟨mem, only⟩
  split
  · next r found =>
    have held : r ∈ s.yrd.retains := List.mem_of_find?_eq_some found
    have waiting : r.slot.isNone = true := List.find?_some (p := fun r : Retain => r.slot.isNone) found
    have other : ¬(x.part = r.part ∧ x.ds = r.ds) := fun ⟨part, ds⟩ => by
      rw [only r held part.symm ds.symm, shed] at waiting
      cases waiting
    rcases retainToShed_yrd r.part r.ds s with same | ⟨k, moved⟩
    · unfold ShedCopy
      rw [same]
      exact ⟨mem, only⟩
    · unfold ShedCopy
      rw [moved]
      have stays : inShed r.part r.ds k x = x := if_neg other
      refine ⟨List.mem_map.mpr ⟨x, mem, stays⟩, fun y there part ds => ?_⟩
      obtain ⟨z, before, rfl⟩ := List.mem_map.mp there
      obtain ⟨samePart, sameDs⟩ := inShed_key r.part r.ds k z
      rw [only z before (samePart.symm.trans part) (sameDs.symm.trans ds)]
      exact stays
  · exact ⟨mem, only⟩

/-- The oldest copy in Stalls moves to a free slot of the Yard region. -/
theorem retainStep_moves {s : State} {r : Retain} {k : Nat} (short : freeCount (stableAt s 5) < Cfgw.retainLow s)
    (oldest : (s.yrd.retains.find? fun r => r.slot.isNone) = some r) (free : freeYardSlot s = some k)
    (only : ∀ x ∈ s.yrd.retains, x.part = r.part → x.ds = r.ds → x = r) : ShedCopy { r with stalls := [], slot := some k } (retainStep s) := by
  have mem : r ∈ s.yrd.retains := List.mem_of_find?_eq_some oldest
  have waiting : r.slot.isNone = true := List.find?_some (p := fun r : Retain => r.slot.isNone) oldest
  have found : (s.yrd.retains.find? fun x => x.part == r.part && x.ds == r.ds && x.slot.isNone) = some r := by
    obtain ⟨x, hx⟩ := Option.isSome_iff_exists.mp (List.find?_isSome (p := fun x : Retain => x.part == r.part && x.ds == r.ds && x.slot.isNone) |>.mpr
      ⟨r, mem, by simp [waiting]⟩)
    have key := List.find?_some hx
    simp only [Bool.and_eq_true, beq_iff_eq] at key
    rw [hx, only x (List.mem_of_find?_eq_some hx) key.1.1 key.1.2]
  have moved : (retainStep s).yrd = { s.yrd with retains := s.yrd.retains.map (inShed r.part r.ds k) } := by
    have step : retainStep s = retainToShed r.part r.ds s := by
      unfold retainStep
      rw [if_neg (by omega), oldest]
    have kept : ∀ (u : State), (pumpAll (storeUnits 300 (0x7000000 + 300 * k) r.user u)).yrd = u.yrd := fun u =>
      ((pumpAll_frame _).same .yrd rfl).trans ((storeUnits_frame ..).same .yrd rfl)
    rw [step]
    unfold retainToShed
    rw [found, free]
    exact (kept _).trans (each_keeps State.yrd (fun h v => (giveBack_frame 0x20 h v).same .yrd rfl) r.stalls _)
  have image : inShed r.part r.ds k r = { r with stalls := [], slot := some k } := if_pos ⟨rfl, rfl⟩
  unfold ShedCopy
  rw [moved]
  refine ⟨List.mem_map.mpr ⟨r, mem, image⟩, fun y there part ds => ?_⟩
  obtain ⟨z, before, rfl⟩ := List.mem_map.mp there
  obtain ⟨samePart, sameDs⟩ := inShed_key r.part r.ds k z
  rw [only z before (samePart.symm.trans part) (sameDs.symm.trans ds)]
  exact image

/-! ## STRIPE_SAFE (R359) -/

/-- A unit of a safe stripe: its copy is freed, and its partition's Yard-safe level follows. -/
def unitSafe (u : YUnit) (s : State) : State :=
  refreshLaid u.part (updPart u.part (fun x => { x with safeDs := AMap.set x.safeDs u.ds () }) (dropRetain u.part u.ds s))

/-- This member's units of a stripe. -/
def unitsOf (m : YMsg) (s : State) : List YUnit := s.yrd.units.filter fun u => u.stripe == m.stripe && dataSlot s m.stripe s.yrd.member == some u.place

/-- The claims of a stripe that is safe have done their work. -/
def claimsDone (m : YMsg) (s : State) : State := updYrd (fun y => { y with claims := y.claims.filter fun c => c.stripe != m.stripe }) s

/-- The reshape goes past a stripe that is safe. -/
def reworkPast (m : YMsg) (s : State) : State :=
  if reworking s m.stripe = true then updYrd (fun y => { y with reshapeR := max y.reshapeR (m.stripe + 1) }) s else s

/-- The answer to STRIPE_SAFE. -/
def safeAnswered (m : YMsg) (s : State) : State := sendOnce (yMsg s YT.safeAck m.stripe m.src 0 ((dataSlot s m.stripe s.yrd.member).getD 0xFF) []) s

theorem exec_stripeSafe {m : YMsg} {s : State} (heard : Heard YT.stripeSafe m s) : exec (.stripeSafe m) s
    = .next (reshapeStep (claimUnstriped (safeAnswered m (reworkPast m (each unitSafe (unitsOf m (takeDelivered m s)) (claimsDone m (takeDelivered m s))))))) := by
  have answered : ∀ v : State, safeAnswered m v = sendMsg (yMsg v YT.safeAck m.stripe m.src 0 ((dataSlot v m.stripe v.yrd.member).getD 0xFF) []) v :=
    fun v => (sendMsg_unrepeated _ _ rfl).symm
  rw [answered]
  show execStripeSafe m s = _
  unfold execStripeSafe
  exact heard.receive _

theorem dropRetain_yrd (part ds : Nat) (s : State) :
    (dropRetain part ds s).yrd = { s.yrd with retains := s.yrd.retains.filter fun r => !(r.part == part && r.ds == ds) } := by
  unfold dropRetain
  refine each_keeps State.yrd (fun r v => ?_) _ _
  have freed : (each (giveBack 0x20) r.stalls v).yrd = v.yrd := each_keeps State.yrd (fun h v => (giveBack_frame 0x20 h v).same .yrd rfl) _ v
  dsimp only
  split
  · exact ((settleBlocks_frame _).same .yrd rfl).trans (((unmapRange_frame ..).same .yrd rfl).trans freed)
  · exact freed

theorem refreshLaid_safeDs (p q : Nat) (s : State) : (partAt (refreshLaid p s) q).safeDs = (partAt s q).safeDs := by
  unfold refreshLaid
  dsimp only
  generalize hv : setWrites _ s = v
  have same : partAt v q = partAt s q := by
    rw [← hv]
    rfl
  rw [← same]
  unfold refreshMarks
  dsimp only
  by_cases own : q = p
  · rw [own, partAt_updPart_self]
  · rw [partAt_updPart_other _ _ own]

/-- A data set is Yard-safe. -/
def IsSafe (p ds : Nat) (s : State) : Prop := mem? (partAt s p).safeDs ds = true

theorem mem?_set_self (m : AMap Unit) (i : Nat) : mem? (AMap.set m i ()) i = true := by
  unfold mem?
  rw [AMap.get?_set_self]
  rfl

theorem mem?_set {m : AMap Unit} {j : Nat} (h : mem? m j = true) (i : Nat) : mem? (AMap.set m i ()) j = true := by
  by_cases same : i = j
  · rw [same]
    exact mem?_set_self m j
  · unfold mem? at *
    rwa [AMap.get?_set_of_ne _ _ same]

section UnitSafe

variable (u : YUnit) (s : State)

theorem unitSafe_yrd : (unitSafe u s).yrd = { s.yrd with retains := s.yrd.retains.filter fun r => !(r.part == u.part && r.ds == u.ds) } :=
  ((refreshLaid_frame ..).same .yrd rfl).trans (dropRetain_yrd u.part u.ds s)

theorem unitSafe_parts (q : Nat) : (partAt (unitSafe u s) q).safeDs = if q = u.part then AMap.set (partAt s q).safeDs u.ds () else (partAt s q).safeDs := by
  have dropped : ∀ q, partAt (dropRetain u.part u.ds s) q = partAt s q := partAt_of_parts ((dropRetain_frame ..).same .parts rfl)
  unfold unitSafe
  rw [refreshLaid_safeDs]
  split
  · next own => rw [own, partAt_updPart_self, dropped]
  · next other => rw [partAt_updPart_other _ _ other, dropped]

theorem unitSafe_isSafe : IsSafe u.part u.ds (unitSafe u s) := by
  unfold IsSafe
  rw [unitSafe_parts, if_pos rfl]
  exact mem?_set_self ..

variable {s}

theorem IsSafe.unitSafe {p ds : Nat} (safe : IsSafe p ds s) : IsSafe p ds (unitSafe u s) := by
  unfold IsSafe
  rw [unitSafe_parts]
  split
  · exact mem?_set safe _
  · exact safe

end UnitSafe

/-- A unit of the stripe is safe, and no copy of it is kept. -/
def SafeUnit (u : YUnit) (s : State) : Prop := IsSafe u.part u.ds s ∧ ∀ r ∈ s.yrd.retains, ¬(r.part = u.part ∧ r.ds = u.ds)

theorem unitsSafe (us : List YUnit) (s : State) : ∀ u ∈ us, SafeUnit u (each unitSafe us s) :=
  each_sets (P := SafeUnit) (fun u v => ⟨unitSafe_isSafe u v, fun r mem => by
      rw [unitSafe_yrd] at mem
      obtain ⟨-, other⟩ := List.mem_filter.mp mem
      exact fun ⟨part, ds⟩ => by simp [part, ds] at other⟩)
    (fun x y v ⟨safe, gone⟩ => ⟨safe.unitSafe x, fun r mem => by
      rw [unitSafe_yrd] at mem
      exact gone r (List.mem_of_mem_filter mem)⟩) us s

/-- What the units of a safe stripe leave: the Yard but for copies, the fabric and the configuration. -/
theorem unitsSafe_keep (us : List YUnit) (s : State) : { (each unitSafe us s).yrd with retains := [] } = { s.yrd with retains := [] }
    ∧ (each unitSafe us s).fab = s.fab ∧ (each unitSafe us s).cfg = s.cfg := by
  have frame : ∀ (u : YUnit) (v : State), (unitSafe u v).fab = v.fab ∧ (unitSafe u v).cfg = v.cfg := fun u v =>
    ⟨((refreshLaid_frame ..).same .fab rfl).trans ((dropRetain_frame u.part u.ds v).same .fab rfl :),
      ((refreshLaid_frame ..).same .cfg rfl).trans ((dropRetain_frame u.part u.ds v).same .cfg rfl :)⟩
  refine ⟨each_keeps (fun v : State => { v.yrd with retains := [] }) (fun u v => ?_) us s, each_keeps State.fab (fun u v => (frame u v).1) us s,
    each_keeps State.cfg (fun u v => (frame u v).2) us s⟩
  dsimp only
  rw [unitSafe_yrd]

/-- A step of the reshape keeps every copy. -/
theorem reshapeStep_retains (s : State) : (reshapeStep s).yrd.retains = s.yrd.retains := by
  by_cases active : s.yrd.reshapeActive = true
  · by_cases below : s.yrd.reshapeR < s.yrd.reshapeBound
    · rw [reshapeStep_works active below, reworkSent_of_yrd Yrd.retains fun _ => rfl]
      exact (leaderOpens_journalled s).of_yrd Yrd.retains fun _ => rfl
    · rw [reshapeStep_ends active (by omega)]
      rfl
  · rw [reshapeStep_inactive (by simpa using active)]

/-! ## YARD_REPEAT_TIMER (R378) -/

/-- What awaits a reply still does. -/
structure StillAwaits (s t : State) : Prop where
  mem : ∀ x ∈ s.yrd.awaitReply, x ∈ t.yrd.awaitReply

theorem StillAwaits.of_eq {s t : State} (same : t.yrd.awaitReply = s.yrd.awaitReply) : StillAwaits s t := ⟨fun _ mem => by rwa [same]⟩

theorem StillAwaits.trans {s u t : State} (h : StillAwaits s u) (k : StillAwaits u t) : StillAwaits s t := ⟨fun x mem => k.mem x (h.mem x mem)⟩

theorem Told.stillAwaits {s t : State} (h : Told s t) : StillAwaits s t := ⟨h.awaits⟩

theorem claimSlot_awaits (part ds : Nat) (s : State) : StillAwaits s (claimSlot part ds s) := by
  rcases claimSlot_eq part ds s with same | found
  · rw [same]
    exact .of_eq rfl
  rw [found]
  unfold claimFound
  split
  · exact .of_eq rfl
  split
  · exact .of_eq rfl
  · exact StillAwaits.trans (u := claimNoted part ds _ _ s) (.of_eq rfl) (sendMsg_told ..).stillAwaits

theorem claimUnstriped_awaits (s : State) : StillAwaits s (claimUnstriped s) :=
  each_inv (P := StillAwaits s) _ (.of_eq rfl) fun u _ v h => h.trans (claimSlot_awaits u.1 u.2 v)

theorem stageRebuilt_awaits (r : Recon) (b : Bytes) (s : State) : (stageRebuilt r b s).yrd.awaitReply = s.yrd.awaitReply := by
  by_cases data : r.place < stripeK s r.stripe
  · rw [stageRebuilt_data data, (staged_post ..).1]
  · rw [stageRebuilt_parity (Nat.not_lt.mp data), (staged_post ..).1]

theorem reconDone_awaits (r : Recon) (s : State) : (reconDone r s).yrd.awaitReply = s.yrd.awaitReply := by
  unfold reconDone
  dsimp only
  split
  · rfl
  · exact stageRebuilt_awaits ..

theorem reconLost_awaits (r : Recon) (s : State) : (reconLost r s).yrd.awaitReply = s.yrd.awaitReply := by
  have logged := (logLoss_logged r.stripe (placeMember s r.stripe r.place) r.part 1 r.ds (r.erased.length + 1) (inc 0x0F0124 (dropRecon r.stripe s))).yrd
  have kept := congrArg Yrd.awaitReply logged
  unfold reconLost
  dsimp only
  split
  · exact kept
  · split
    · exact (stageRebuilt_awaits ..).trans kept
    · exact kept

/-- Requests to survivors expect no reply. -/
theorem startRecon_awaits (r : Recon) (s : State) : (startRecon r s).yrd.awaitReply = s.yrd.awaitReply := by
  cases chosen : survivorsFor s r.stripe r.place r.erased with
  | none =>
    rw [startRecon_lost chosen]
    exact reconLost_awaits r s
  | some sv =>
    by_cases any : sv = []
    · have done : startRecon r s = reconDone (begunRecon r sv) (setRecon (begunRecon r sv) s) := by
        unfold startRecon
        rw [chosen]
        exact if_pos any
      rw [done, reconDone_awaits]
      rfl
    · rw [(startRecon_asks chosen any).2.1]
      rfl

theorem rebuildStep_awaits (s : State) : (rebuildStep s).yrd.awaitReply = s.yrd.awaitReply := by
  unfold rebuildStep
  split
  · rfl
  split
  · rfl
  · exact startRecon_awaits ..

theorem journalOut_awaits (st : Nat) (s : State) : StillAwaits s (journalOut st s) := by
  cases known : AMap.get? s.yrd.journal st with
  | none =>
    unfold journalOut
    rw [known]
    exact .of_eq rfl
  | some e => exact StillAwaits.trans (u := setEntry (outgoing (others s st) e) s) (.of_eq rfl) (journalOut_told known).stillAwaits

theorem updEntry_awaits (st : Nat) (f : JEntry → JEntry) (s : State) : (updEntry st f s).yrd.awaitReply = s.yrd.awaitReply := by
  unfold updEntry
  split <;> rfl

theorem replicate_awaits (st : Nat) (msgs : List YMsg) (s : State) : StillAwaits s (replicate st msgs s) := by
  have noted : StillAwaits s (updEntry st (changedEntry s msgs) (drawNext s)) := .of_eq (updEntry_awaits ..)
  unfold replicate
  dsimp only
  split
  · split
    · exact noted.trans (journalOut_awaits ..)
    · exact noted
  · exact noted

theorem leaderOpens_awaits (s : State) : StillAwaits s (leaderOpens s) := by
  unfold leaderOpens
  split
  · refine .trans ?_ (replicate_awaits ..)
    exact .of_eq rfl
  · exact .of_eq rfl

theorem reworkSent_awaits (r : Nat) (s : State) : StillAwaits s (reworkSent r s) := by
  unfold reworkSent
  split
  · exact .of_eq rfl
  split
  · exact .of_eq rfl
  split
  · refine .trans ?_ (toCoordinator_told ..).stillAwaits
    exact .of_eq rfl
  split
  · exact .of_eq (by rw [wantTape_yrd])
  · refine .trans ?_ ((toCoordinator_told ..).trans (sendPartials_told ..)).stillAwaits
    exact .of_eq rfl

theorem reshapeStep_awaits (s : State) : StillAwaits s (reshapeStep s) := by
  by_cases active : s.yrd.reshapeActive = true
  · by_cases below : s.yrd.reshapeR < s.yrd.reshapeBound
    · rw [reshapeStep_works active below]
      exact (leaderOpens_awaits s).trans (reworkSent_awaits ..)
    · rw [reshapeStep_ends active (by omega)]
      exact .of_eq rfl
  · rw [reshapeStep_inactive (by simpa using active)]
    exact .of_eq rfl

/-- Settles O54: an accumulator or a copy that changes is the one of its key (`accumOf_updAccum`, `retainStep_keeps`), segments that do not overlap
add byte by byte, and what awaits a reply is never dropped by what the timer begins (`reshapeStep_awaits`). -/
theorem parityIsAccumulatedAndLaid : Obligations.ParityIsAccumulatedAndLaid := by
  refine ⟨coefficients_of_slot_zero, fun x a b i j area hi hj apart sa sb => ?segments, fun s m => ?_⟩
  case segments =>
    obtain ⟨fits, small⟩ := segment_fits area hi sa
    obtain ⟨fits', small'⟩ := segment_fits area hj sb
    exact addSegment_comm fits fits' fun n => by omega
  intro u
  have yrd : u.yrd = s.yrd := takeDelivered_yrd m s
  have walks : SameWalks s u := takeDelivered_walks m s
  refine ⟨fun heard seg slot role roles => ⟨fun a known => ⟨fun seen => ?seen, fun new unsealed => ?new⟩, fun unknown => ?unknown⟩,
    fun heard a known unsealed => ?sealed, fun src arg w a c taken found coord => ?laid,
    fun p st => ⟨fun ⟨part, enrolled, waits⟩ => ?idle, fun foreign => ?foreign⟩, fun enough => ?enough, fun r k short oldest free only => ?moves,
    fun heard x mem stripe place => ?safe, ?timer⟩
  case seen =>
    have now : accumOf u m.stripe m.role = some a := (accumOf_of_accums (congrArg Yrd.accums yrd :) ..).trans known
    have ran := exec_contrib_known heard seg slot role roles known
    rw [contribTaken_seen now seen] at ran
    exact ⟨_, ran, yrd, ctr_inc_of_counts (takeDelivered_yardCounts m s) (by decide) (by decide)⟩
  case new =>
    have now : accumOf u m.stripe m.role = some a := (accumOf_of_accums (congrArg Yrd.accums yrd :) ..).trans known
    have ran := exec_contrib_known heard seg slot role roles known
    rw [contribTaken_new now new unsealed] at ran
    refine ⟨_, ran, accumOf_segmentTaken now, fun c done coord => ?_, fun undone => ?_⟩
    · obtain ⟨v, before, sent⟩ := segmentTaken_reports (m := m) (s := u) done ((congrFun walks.coordinator _).trans coord)
      rw [yMsg_of_yrd yrd] at sent
      exact ⟨v, before, sent⟩
    · exact segmentTaken_fab undone
  case unknown =>
    intro got
    have frame : Frame 0x24010 s got.2 := acquire_frame ..
    refine ⟨fun denied => ?_, fun hs granted => ?_⟩
    · have ran := exec_contrib_eq heard seg slot role roles
      rw [openAccum_denied unknown denied] at ran
      exact ⟨_, ran, rfl, frame.same .yrd rfl, frame.same .fab rfl⟩
    · have same : got.2.yrd = s.yrd := frame.same .yrd rfl
      have ran := exec_contrib_eq heard seg slot role roles
      rw [openAccum_granted unknown granted] at ran
      have heard' : Heard YT.contrib m (accumOpened (freshAccum m.stripe m.role hs) got.2) :=
        ⟨heard.type, (congrArg Yrd.enrolled same).trans heard.enrolled, heard.yard.trans (congrArg Yrd.yardId same).symm,
          heard.epoch.imp_left fun h => h.trans (congrArg Yrd.epoch same).symm⟩
      have now : accumOf (takeDelivered m (accumOpened (freshAccum m.stripe m.role hs) got.2)) m.stripe m.role = some (freshAccum m.stripe m.role hs) :=
        (accumOf_of_accums (congrArg Yrd.accums (takeDelivered_yrd ..) :) ..).trans (accumOf_accumOpened unknown same hs)
      refine ⟨_, ran.trans (heard'.receive _), ?_⟩
      beta_reduce
      rw [contribTaken_new now rfl rfl]
      exact accumOf_segmentTaken now
  case sealed =>
    have now : accumOf u m.stripe m.role = some a := (accumOf_of_accums (congrArg Yrd.accums yrd :) ..).trans known
    have posted : (post .fmt Src.yard 0x0005 (copyHandle a.stalls + m.stripe % 2 ^ 32 * 2 ^ 27) (accumSealed m u)).yrd = (accumSealed m u).yrd :=
      (post_frame ..).same .yrd rfl
    refine ⟨_, exec_sealStripe heard known unsealed, ?_, ?_, fun slots => ⟨_, ?_, bits_unitWord a.stalls m.stripe⟩⟩
    · rw [accumOf_of_accums (congrArg Yrd.accums posted)]
      have changed := find_modFirst (fun a : Accum => a.stripe == m.stripe && a.role == m.role) (fun a => { a with isSealed := true }) (fun _ => rfl) u.yrd.accums
      refine changed.trans ?_
      exact congrArg (Option.map fun a : Accum => { a with isSealed := true }) now
    · rw [posted]
      exact AMap.get?_set_self ..
    · have box : boxOf u .fmt = boxOf s .fmt := boxOf_takeDelivered (by decide) m s
      have srv : u.srv = s.srv := (takeDelivered_frame m s).same .srv rfl
      refine (accumSealed_posts m ((hasSlots_congr box ..).trans slots) _).trans ?_
      rw [box, mail, srv]
      rfl
  case laid =>
    obtain ⟨same, fab, cfg⟩ := freeAccum_keeps a (parityUnit a (bits arg 33 32) (bits arg 31 0) w)
    refine ⟨_, exec_yardParityLaid taken found coord, ?_, ?_, _, ⟨fab, (sendOnce_yrd ..).symm, cfg⟩, rfl⟩
    · unfold accumOf
      rw [sendOnce_yrd, same]
      refine List.find?_eq_none.mpr fun b mem => ?_
      have other := (List.mem_filter.mp mem).2
      exact fun same => by simp [same] at other
    · rw [sendOnce_yrd, same]
      exact List.mem_append_right _ List.mem_cons_self
  case idle =>
    have asks : exec (.parityHolderIdle p st) s = .next (postEvent Src.yard 0x0F 0x01 false (st % 2 ^ 32) (post .fmt Src.yard 0x0001 (p % 4) s)) :=
      if_pos ⟨part, enrolled, List.any_eq_true.mpr (by simpa using waits)⟩
    refine ⟨_, asks, fun slots => ?_, fun room => ?_⟩
    · rw [boxOf_postEvent (by decide), post_of_slots slots, boxOf_setBox_self]
    · have box : boxOf (post .fmt Src.yard 0x0001 (p % 4) s) .mgt = boxOf s .mgt := boxOf_post_other (by decide) ..
      have srv : (post .fmt Src.yard 0x0001 (p % 4) s).srv = s.srv := (post_frame ..).same .srv rfl
      generalize post .fmt Src.yard 0x0001 (p % 4) s = v at box srv
      have pushed : postEvent Src.yard 0x0F 0x01 false (st % 2 ^ 32) v = setBox .mgt (boxOf v .mgt ++ [mail Src.yard 0x0F01 (st % 2 ^ 32) v]) v :=
        if_neg (by rw [box]; omega)
      rw [pushed, boxOf_setBox_self, box, mail, srv]
      rfl
  case foreign => exact ⟨s, if_neg fun ⟨part, _⟩ => foreign part, rfl⟩
  case enough =>
    refine ⟨_, exec_retainLow s, List.foldl_fixed' (fun _ => ?_) _⟩
    exact if_pos enough
  case moves =>
    have mem : r ∈ s.yrd.retains := List.mem_of_find?_eq_some oldest
    refine ⟨_, exec_retainLow s, ?_⟩
    beta_reduce
    obtain ⟨n, len⟩ := Nat.exists_eq_succ_of_ne_zero (fun none => List.ne_nil_of_mem mem (List.length_eq_zero_iff.mp none))
    rw [len, List.range_succ_eq_map, List.foldl_cons]
    have start := retainStep_moves short oldest free only
    have stays : ShedCopy { r with stalls := [], slot := some k } (((List.range n).map Nat.succ).foldl (fun v _ => retainStep v) (retainStep s)) :=
      List.foldlRecOn _ _ start fun v copy _ _ => retainStep_keeps rfl copy
    exact stays.1
  case safe =>
    have ran := exec_stripeSafe heard
    have here : x ∈ unitsOf m u := by
      refine List.mem_filter.mpr ⟨by rw [yrd]; exact mem, ?_⟩
      rw [walks.dataSlot, walks.member, place]
      simp [stripe]
    obtain ⟨safe, gone⟩ := unitsSafe (unitsOf m u) (claimsDone m u) x here
    obtain ⟨kept, fab, cfg⟩ := unitsSafe_keep (unitsOf m u) (claimsDone m u)
    generalize each unitSafe (unitsOf m u) (claimsDone m u) = v at ran safe gone kept fab cfg
    have of_yrd : ∀ {β : Type} (g : Yrd → β), (∀ y, g { y with retains := [] } = g y) → g v.yrd = g (claimsDone m u).yrd := fun g apart =>
      (apart _).symm.trans ((congrArg g kept).trans (apart _))
    have past : (reworkPast m v).yrd.retains = v.yrd.retains ∧ (reworkPast m v).parts = v.parts := by
      unfold reworkPast
      split <;> exact ⟨rfl, rfl⟩
    have answered : ∀ z : State, (safeAnswered m z).yrd = z.yrd ∧ (safeAnswered m z).parts = z.parts := fun z =>
      ⟨sendOnce_yrd .., (sendOnce_frame ..).same .parts rfl⟩
    have retains : (reshapeStep (claimUnstriped (safeAnswered m (reworkPast m v)))).yrd.retains = v.yrd.retains := by
      rw [reshapeStep_retains, claimUnstriped_of_yrd Yrd.retains fun _ => rfl, (answered _).1, past.1]
    have parts : (reshapeStep (claimUnstriped (safeAnswered m (reworkPast m v)))).parts = v.parts := by
      rw [(reshapeStep_frame _).same .parts rfl, (claimUnstriped_frame _).same .parts rfl, (answered _).2, past.2]
    refine ⟨_, ran, ?_, ?_, fun striped inactive => ?_⟩
    · rw [partAt_of_parts parts]
      exact safe
    · rw [retains]
      exact gone
    · have active : v.yrd.reshapeActive = false :=
        (of_yrd Yrd.reshapeActive fun _ => rfl).trans ((congrArg Yrd.reshapeActive yrd :).trans inactive)
      have unstriped : v.yrd.unstriped = [] := (of_yrd Yrd.unstriped fun _ => rfl).trans ((congrArg Yrd.unstriped yrd :).trans striped)
      have stays : reworkPast m v = v := if_neg (by unfold reworking; rw [active]; simp)
      have walked : SameWalks (claimsDone m u) v :=
        ⟨of_yrd Yrd.desc fun _ => rfl, of_yrd Yrd.oldDescs fun _ => rfl, of_yrd Yrd.map fun _ => rfl, of_yrd Yrd.member fun _ => rfl,
          of_yrd Yrd.reachable fun _ => rfl, of_yrd Yrd.reshapeActive fun _ => rfl, of_yrd Yrd.reshapePos fun _ => rfl,
          of_yrd Yrd.reshapeBound fun _ => rfl, cfg⟩
      have begun : SameWalks u (claimsDone m u) := ⟨rfl, rfl, rfl, rfl, rfl, rfl, rfl, rfl, rfl⟩
      have all := walks.trans (begun.trans walked)
      have msg : yMsg v YT.safeAck m.stripe m.src 0 ((dataSlot v m.stripe v.yrd.member).getD 0xFF) [] = yMsg s YT.safeAck m.stripe m.src 0 x.place [] := by
        rw [all.dataSlot, all.member, place]
        exact yMsg_congr ((of_yrd Yrd.epoch fun _ => rfl).trans (congrArg Yrd.epoch yrd :)) ((of_yrd Yrd.yardId fun _ => rfl).trans (congrArg Yrd.yardId yrd :))
          all.member ..
      have ends : reshapeStep (claimUnstriped (safeAnswered m (reworkPast m v))) = sendOnce (yMsg s YT.safeAck m.stripe m.src 0 x.place []) v := by
        rw [stays, claimUnstriped_nothing (by rw [(answered v).1]; exact unstriped), reshapeStep_inactive (by rw [(answered v).1]; exact active), ← msg]
        rfl
      rw [ends, sendOnce_yrd]
      refine ⟨fun c mem => ?_, v, ⟨fab, (sendOnce_yrd ..).symm, cfg⟩, rfl⟩
      rw [of_yrd Yrd.claims fun _ => rfl] at mem
      have other := (List.mem_filter.mp mem).2
      simpa using other
  case timer =>
    have again : (each sendOnce s.yrd.awaitReply s).yrd = s.yrd := each_keeps State.yrd (fun m v => sendOnce_yrd m v) _ s
    refine ⟨_, rfl, ?_, fun striped idle inactive => ?_⟩
    · exact (((StillAwaits.of_eq (congrArg Yrd.awaitReply again)).trans (claimUnstriped_awaits _)).trans
        ((StillAwaits.of_eq (rebuildStep_awaits _)).trans (reshapeStep_awaits _))).mem
    · rw [claimUnstriped_nothing (by rw [again]; exact striped), rebuildStep_inactive (by rw [again]; exact idle),
        reshapeStep_inactive (by rw [again]; exact inactive)]
      exact ⟨again, rfl⟩

end Sys2Proof.Machine
end

/-! What every step of a new epoch keeps (R362 to R366, R372). -/

section

namespace Sys2Proof.Machine

/-! ## Parts of the Yard that a new epoch changes -/

/-- The Yard without what follows the stripes' entries: accumulators, claims, reconstructions and replies awaited. -/
def yardAside (y : Yrd) : Yrd :=
  { y with accums := [], awaitReply := [], claims := [], nacked := [], recons := [], answer := none, rebuilt := [], units := [] }

/-- And without the entries. -/
def yardTurned (y : Yrd) : Yrd := { yardAside y with journal := [], replicas := [] }

/-- And without the messages held and the changes wanted. -/
def yardKept (y : Yrd) : Yrd := { yardTurned y with heldMsgs := [], wants := [], change := none }

/-- The Yard without what follows the stripes' entries, the messages held and the changes wanted. -/
def yardEnded (y : Yrd) : Yrd := { yardAside y with heldMsgs := [], wants := [], change := none }

/-- What a step of a new epoch keeps: the Yard but for some parts, the configuration, the cartridge memory, the count of commits,
messages delivered, and commands. -/
structure Onward (g : Yrd → Yrd) (s t : State) : Prop where
  yrd : g t.yrd = g s.yrd
  cfg : t.cfg = s.cfg
  page : t.cartMem = s.cartMem
  counted : ctr t 0x0F0118 = ctr s 0x0F0118
  delivered : ∀ d ∈ s.fab.delivered, d ∈ t.fab.delivered
  finds : ∀ q, (findCmd s q).isSome = true → (findCmd t q).isSome = true

section Onward

variable {g : Yrd → Yrd} {s u t : State}

theorem Onward.refl (g : Yrd → Yrd) (s : State) : Onward g s s := ⟨rfl, rfl, rfl, rfl, fun _ mem => mem, fun _ found => found⟩

theorem Onward.trans (h : Onward g s u) (k : Onward g u t) : Onward g s t :=
  ⟨k.yrd.trans h.yrd, k.cfg.trans h.cfg, k.page.trans h.page, k.counted.trans h.counted, fun d mem => k.delivered d (h.delivered d mem),
    fun q found => k.finds q (h.finds q found)⟩

theorem Onward.each {α : Type} {f : α → State → State} (h : ∀ x v, Onward g v (f x v)) (xs : List α) (s : State) : Onward g s (each f xs s) :=
  each_inv (P := Onward g s) xs (.refl g s) fun x _ v k => k.trans (h x v)

theorem Onward.mono (h : Onward g s t) {k : Yrd → Yrd} (within : ∀ y, k (g y) = k y) : Onward k s t :=
  ⟨(within _).symm.trans ((congrArg k h.yrd).trans (within _)), h.cfg, h.page, h.counted, h.delivered, h.finds⟩

theorem Onward.turned (h : Onward yardAside s t) : Onward yardTurned s t := h.mono fun _ => rfl

theorem Onward.of_yrd (h : Onward g s t) {β : Type} (k : Yrd → β) (apart : ∀ y, k (g y) = k y) : k t.yrd = k s.yrd :=
  (apart _).symm.trans ((congrArg k h.yrd).trans (apart _))

theorem Onward.walks (h : Onward g s t) (within : ∀ y, yardKept (g y) = yardKept y) : SameWalks s t := by
  have kept := h.mono within
  exact ⟨kept.of_yrd Yrd.desc fun _ => rfl, kept.of_yrd Yrd.oldDescs fun _ => rfl, kept.of_yrd Yrd.map fun _ => rfl, kept.of_yrd Yrd.member fun _ => rfl,
    kept.of_yrd Yrd.reachable fun _ => rfl, kept.of_yrd Yrd.reshapeActive fun _ => rfl, kept.of_yrd Yrd.reshapePos fun _ => rfl,
    kept.of_yrd Yrd.reshapeBound fun _ => rfl, h.cfg⟩

/-- A step that changes nothing but the Yard. -/
theorem Onward.of_yard (yrd : g t.yrd = g s.yrd) (rest : t = { s with yrd := t.yrd }) : Onward g s t := by
  rw [rest]
  exact ⟨yrd, rfl, rfl, rfl, fun _ mem => mem, fun _ found => found⟩

/-- A step whose frame holds neither the Yard nor the fabric, the configuration, the cartridge or the commands. -/
theorem Onward.of_frame {m : Nat} (h : Frame m s t) (counts : YardCounts s t) (yrd : m.testBit 12 = false) (fab : m.testBit 13 = false)
    (cfg : m.testBit 16 = false) (page : m.testBit 19 = false) (hq : m.testBit 1 = false) : Onward g s t :=
  ⟨congrArg g (h.same .yrd yrd), h.same .cfg cfg, h.same .cartMem page, counts.same _ (by decide) (by decide), fun d mem => by rwa [h.same .fab fab],
    fun q found => by rwa [findCmd_of_frame h hq]⟩

end Onward

/-! ## Messages -/

theorem fabSend_delivered (dest vc : Nat) (b : Bytes) (s : State) : ∀ d ∈ s.fab.delivered, d ∈ (fabSend dest vc b s).fab.delivered := by
  intro d mem
  unfold fabSend
  split
  · exact List.mem_append_left _ mem
  · dsimp only
    split
    · exact mem
    · rw [((Pumped.each (fun f v => enqueueFlit_pumped _ vc 4 f v) _ _).trans (pump_pumped ..)).delivered]
      exact mem

theorem sendOnce_delivered (m : YMsg) (s : State) : ∀ d ∈ s.fab.delivered, d ∈ (sendOnce m s).fab.delivered := by
  have sent : ∀ (host : Nat) (x : Bool), ∀ d ∈ s.fab.delivered, d ∈ (if host = 0 ∧ x = false then s else fabSend host (channelOf m.type) (msgBytes m) s).fab.delivered := by
    intro host x
    split
    · exact fun _ mem => mem
    · exact fabSend_delivered host _ _ s
  exact sent _ _

theorem sendMsg_onward (m : YMsg) (s : State) : Onward yardAside s (sendMsg m s) := by
  have told := sendMsg_told m s
  refine ⟨told.of_yrd yardAside fun _ => rfl, told.cfg, told.frame.same .cartMem rfl, told.counts.same _ (by decide) (by decide), ?_,
    fun q found => by rwa [findCmd_of_frame told.frame rfl]⟩
  have sent := sendOnce_delivered m s
  unfold sendMsg
  dsimp only
  split
  · exact sent
  · exact sent

theorem sendMsg_turned (m : YMsg) (s : State) : Onward yardTurned s (sendMsg m s) := (sendMsg_onward m s).turned

/-! ## Entries -/

theorem setEntry_onward (e : JEntry) (s : State) : Onward yardTurned s (setEntry e s) := .of_yard rfl rfl

theorem drawNext_onward (g : Yrd → Yrd) (s : State) : Onward g s (drawNext s) := ⟨rfl, rfl, rfl, rfl, fun _ mem => mem, fun _ found => found⟩

theorem updEntry_onward (st : Nat) (f : JEntry → JEntry) (s : State) : Onward yardTurned s (updEntry st f s) := by
  unfold updEntry
  split
  · exact setEntry_onward ..
  · exact .refl _ s

theorem journalOut_onward (st : Nat) (s : State) : Onward yardTurned s (journalOut st s) := by
  cases known : AMap.get? s.yrd.journal st with
  | none =>
    unfold journalOut
    rw [known]
    exact .refl _ s
  | some e =>
    rw [journalOut_eq known]
    split
    · exact (setEntry_onward ..).trans (.each (fun _ _ => sendMsg_turned ..) _ _)
    · exact (setEntry_onward ..).trans (.each (fun _ _ => sendMsg_turned ..) _ _)

theorem replicate_onward (st : Nat) (msgs : List YMsg) (s : State) : Onward yardTurned s (replicate st msgs s) := by
  have noted : Onward yardTurned s (updEntry st (changedEntry s msgs) (drawNext s)) := (drawNext_onward ..).trans (updEntry_onward ..)
  unfold replicate
  dsimp only
  split
  · split
    · exact noted.trans (journalOut_onward ..)
    · exact noted
  · exact noted

theorem trySeal_onward (st : Nat) (s : State) : Onward yardTurned s (trySeal st s) := by
  unfold trySeal
  split
  · exact .refl _ s
  · split
    · exact (setEntry_onward ..).trans (replicate_onward ..)
    · exact .refl _ s

/-! ## Losses -/

theorem post_onward (g : Yrd → Yrd) (b : Box) (src code arg : Nat) (s : State) : Onward g s (post b src code arg s) :=
  .of_frame (post_frame ..) (.of_others (post_counts ..)) rfl rfl rfl rfl rfl

theorem deferError_onward (g : Yrd → Yrd) (p first count cause version : Nat) (s : State) : Onward g s (deferError p first count cause version s) := by
  have frame := deferError_frame p first count cause version s
  refine ⟨congrArg g (frame.same .yrd rfl), frame.same .cfg rfl, frame.same .cartMem rfl, (deferError_yardCounts ..).same _ (by decide) (by decide),
    fun d mem => by rwa [frame.same .fab rfl], fun q found => ?_⟩
  unfold deferError
  rw [findCmd_of_hq ((postEvent_frame ..).same .hq rfl)]
  exact found

theorem logLoss_onward (stripe member part cause ds erasures : Nat) (s : State) : Onward yardAside s (logLoss stripe member part cause ds erasures s) := by
  unfold logLoss
  extract_lets serial l s1 s2
  have logged : Onward yardAside s s1 :=
    Onward.trans (u := drawMany 2 s) ⟨rfl, rfl, rfl, rfl, fun _ mem => mem, fun _ found => found⟩
      (.of_frame (appendLoss_frame ..) (appendLoss_yardCounts ..) rfl rfl rfl rfl rfl)
  have told : Onward yardAside s s2 := logged.trans (.each (fun x v => by
    split
    · exact sendMsg_onward ..
    · exact .refl _ v) _ _)
  split
  · exact told.trans (deferError_onward ..)
  · exact told

/-! ## Reconstructions that start again -/

theorem stageRebuilt_onward (r : Recon) (b : Bytes) (s : State) : Onward yardAside s (stageRebuilt r b s) := by
  by_cases data : r.place < stripeK s r.stripe
  · rw [stageRebuilt_data data]
    refine .trans ?_ (post_onward ..)
    exact .of_yard rfl rfl
  · rw [stageRebuilt_parity (Nat.not_lt.mp data)]
    refine .trans ?_ (post_onward ..)
    exact .of_yard rfl rfl

theorem addCtr_onward (g : Yrd → Yrd) {c : Nat} (other : c ≠ 0x0F0118) (n : Nat) (s : State) : Onward g s (addCtr c n s) :=
  ⟨rfl, rfl, rfl, by rw [ctr_addCtr, if_neg other.symm], fun _ mem => mem, fun _ found => found⟩

theorem dropRecon_onward (stripe : Nat) (s : State) : Onward yardAside s (dropRecon stripe s) := .of_yard rfl rfl

theorem reconDone_onward (r : Recon) (s : State) : Onward yardAside s (reconDone r s) := by
  have ended : Onward yardAside s (inc 0x0F011C (dropRecon r.stripe s)) := (dropRecon_onward ..).trans (addCtr_onward _ (by decide) ..)
  unfold reconDone
  dsimp only
  split
  · exact ended.trans (.of_yard rfl rfl)
  · exact ended.trans (stageRebuilt_onward ..)

theorem reconLost_onward (r : Recon) (s : State) : Onward yardAside s (reconLost r s) := by
  have counted : Onward yardAside s (inc 0x0F0124 (dropRecon r.stripe s)) := (dropRecon_onward ..).trans (addCtr_onward _ (by decide) ..)
  have logged := counted.trans (logLoss_onward r.stripe (placeMember s r.stripe r.place) r.part 1 r.ds (r.erased.length + 1) _)
  unfold reconLost
  dsimp only
  split
  · exact logged.trans (.of_yard rfl rfl)
  · split
    · exact logged.trans (stageRebuilt_onward ..)
    · exact logged

theorem setRecon_onward (r : Recon) (s : State) : Onward yardAside s (setRecon r s) := .of_yard rfl rfl

theorem startRecon_onward (r : Recon) (s : State) : Onward yardAside s (startRecon r s) := by
  unfold startRecon
  split
  · exact reconLost_onward r s
  · dsimp only
    split
    · exact (setRecon_onward ..).trans (reconDone_onward ..)
    · exact (setRecon_onward ..).trans (.each (fun _ _ => sendMsg_onward ..) _ _)

theorem restartRecons_onward (s : State) : Onward yardAside s (restartRecons s) :=
  .each (fun r v => by
    split
    · exact .refl _ v
    · exact (dropRecon_onward ..).trans (startRecon_onward ..)) _ s

/-! ## Claims under the new roles -/

theorem sendSegments_onward (rework : Bool) (stripe slot role m : Nat) (user : Bytes) (segs : List Nat) (s : State) :
    Onward yardAside s (sendSegments rework stripe slot role m user segs s) := .each (fun _ _ => sendMsg_onward ..) segs s

theorem resend_onward (old : State) (c : Claim) (s : State) : Onward yardAside s (resend old c s) := by
  unfold resend
  split
  · split
    · exact sendMsg_onward ..
    · exact .refl _ s
  split
  · exact .refl _ s
  split
  · exact .refl _ s
  · exact .each (fun _ _ => (addCtr_onward _ (by decide) ..).trans (sendSegments_onward ..)) _ s

theorem withdrawClaim_onward (part ds : Nat) (s : State) : Onward yardAside s (withdrawClaim part ds s) := by
  unfold withdrawClaim
  split
  · exact .refl _ s
  dsimp only
  split
  · refine .trans ?_ (sendMsg_onward ..)
    exact .of_yard rfl rfl
  · exact .of_yard rfl rfl

theorem voidClaims_onward (old s : State) : Onward yardAside s (voidClaims old s) := by
  unfold voidClaims
  split
  · exact .refl _ s
  · exact .each (fun _ _ => withdrawClaim_onward ..) _ s

theorem freeAccum_onward (a : Accum) (s : State) : Onward yardAside s (freeAccum a s) :=
  .each (fun h v => .of_frame (giveBack_frame (accumReq a.role) h v) (.of_others (giveBack_counts ..)) rfl rfl rfl rfl rfl) a.stalls s

end Sys2Proof.Machine
end

/-! New epochs: the record, the Yard page, commands, entries handed over and taken over, stripes held or freed (O57). -/

section

namespace Sys2Proof.Machine

/-! ## Stand-ins (R364) -/

theorem standIn_spec {s : State} {st holder x : Nat} (found : standIn s st holder = some x) :
    isPresent s x = true ∧ ∀ d, descFor s st = some d → x ∉ d.row st ∧ x < d.n := by
  unfold standIn at found
  split at found
  · cases found
  · next d held =>
    have holds := List.find?_some found
    obtain ⟨i, below, rfl⟩ := List.mem_map.mp (List.mem_of_find?_eq_some found)
    have members : 0 < d.n := Nat.lt_of_le_of_lt (Nat.zero_le i) (List.mem_range.mp below)
    simp only [Bool.and_eq_true, Bool.not_eq_true'] at holds
    refine ⟨holds.1, fun d' same => ?_⟩
    rw [held] at same
    cases same
    exact ⟨fun mem => by simp [mem] at holds, Nat.mod_lt _ members⟩

/-! ## Steps over a list -/

/-- A step over a list brings about a fact at one element, which the steps before prepare and the steps after keep. -/
theorem each_at {α σ : Type} {f : α → σ → σ} {I P : σ → Prop} (keeps : ∀ x v, I v → I (f x v)) (stays : ∀ x v, I v → P v → P (f x v)) {y : α}
    (sets : ∀ v, I v → P (f y v)) : ∀ {xs : List α} {s : σ}, y ∈ xs → I s → P (each f xs s)
  | x :: xs, s, mem, start => by
    have kept := keeps x s start
    rcases List.mem_cons.mp mem with rfl | later
    · exact (each_inv (P := fun v => I v ∧ P v) xs ⟨kept, sets s start⟩ fun x _ v ⟨i, p⟩ => ⟨keeps x v i, stays x v i p⟩).2
    · show P (each f xs (f x s))
      exact each_at keeps stays sets later kept

theorem get?_sets {α : Type} (v : α) (k : Nat) : ∀ (ks : List Nat) (m : AMap α),
    AMap.get? (ks.foldl (fun m i => AMap.set m i v) m) k = if k ∈ ks then some v else AMap.get? m k
  | [], m => by simp
  | i :: ks, m => by
    rw [List.foldl_cons, get?_sets v k ks]
    by_cases later : k ∈ ks
    · simp [later]
    · by_cases here : i = k
      · simp [here]
      · simp [later, AMap.get?_set_of_ne _ _ here, Ne.symm here]

/-! ## Entries under a new member map (R363, R364) -/

/-- An entry whose roles have passed to their holders of now. -/
def reassigned (s : State) (st : Nat) (e : JEntry) : JEntry :=
  ((List.range e.m).filter fun r => if e.st = .sealed then !isPresent s (AMap.getD e.holders (r + 1) 0xFF)
    else AMap.getD e.holders (r + 1) 0xFF != roleHolder s e.rework st (r + 1)).foldl (fun e r => reassign s (r + 1) e) e

/-- Slots that LOST members leave open. -/
def lostSlots (s : State) (st : Nat) (e x : JEntry) : List Nat :=
  (List.range e.k).filter fun k => memberState s (slotMember s st k) == 2 && AMap.getD x.slots k 0 != 2 && (AMap.getD x.slots k 0 == 0 || unfinished x k)

/-- Unclaimed slots of members that are not there, from the boundary on. -/
def passedSlots (s : State) (st : Nat) (e x : JEntry) : List Nat :=
  (List.range e.k).filter fun k => memberState s (slotMember s st k) != 0 && AMap.getD x.slots k 0 == 0 && decide (s.yrd.boundary ≤ st)

/-- An entry whose slots of members that are gone are null. -/
def slotsNulled (s : State) (st : Nat) (e x : JEntry) : JEntry :=
  { x with slots := (lostSlots s st e x ++ passedSlots s st e x).foldl (fun m k => AMap.set m k 2) x.slots }

/-- An ABSENT member has not finished its slot. -/
def anyHeld (s : State) (st : Nat) (e x : JEntry) : Bool := (List.range e.k).any fun k => memberState s (slotMember s st k) == 1 && unfinished x k

/-- An entry as a new member map makes it. -/
def reassessed (s : State) (st : Nat) (e : JEntry) : JEntry :=
  let x := slotsNulled s st e (reassigned s st e)
  { x with st := if x.st = .sealed then .sealed else if anyHeld s st e x then .held else .opened, awaiting := [] }

/-- The losses of unfinished slots are logged. -/
def lossesLogged (st : Nat) (x : JEntry) (ks : List Nat) (s : State) : State :=
  each (fun k s => if unfinished x k then logLoss st (slotMember s st k) (AMap.getD x.claims k (0, 0)).1 2 (AMap.getD x.claims k (0, 0)).2 0 s else s) ks s

section Reassess

variable {s : State} {st : Nat} {e : JEntry} (known : AMap.get? s.yrd.journal st = some e)

include known

theorem reassess_idle (idle : e.st = .safe ∨ e.st = .free) : reassess st s = s := by
  unfold reassess
  rw [known]
  exact if_pos idle

theorem reassess_eq (works : ¬(e.st = .safe ∨ e.st = .free)) : reassess st s
    = trySeal st (replicate st [] (setEntry (reassessed s st e) (lossesLogged st (reassigned s st e) (lostSlots s st e (reassigned s st e)) s))) := by
  unfold reassess
  rw [known]
  exact if_neg works

end Reassess

theorem reassess_unknown {s : State} {st : Nat} (unknown : AMap.get? s.yrd.journal st = none) : reassess st s = s := by
  unfold reassess
  rw [unknown]

theorem lossesLogged_onward (st : Nat) (x : JEntry) (ks : List Nat) (s : State) : Onward yardAside s (lossesLogged st x ks s) :=
  .each (fun k v => by
    split
    · exact logLoss_onward ..
    · exact .refl _ v) ks s

theorem lossesLogged_yrd (st : Nat) (x : JEntry) (ks : List Nat) (s : State) : (lossesLogged st x ks s).yrd = s.yrd :=
  each_keeps State.yrd (fun k v => by
    split
    · exact (logLoss_logged ..).yrd
    · rfl) ks s

theorem reassess_onward (st : Nat) (s : State) : Onward yardTurned s (reassess st s) := by
  cases known : AMap.get? s.yrd.journal st with
  | none =>
    rw [reassess_unknown known]
    exact .refl _ s
  | some e =>
    by_cases idle : e.st = .safe ∨ e.st = .free
    · rw [reassess_idle known idle]
      exact .refl _ s
    · rw [reassess_eq known idle]
      exact (((lossesLogged_onward ..).turned.trans (setEntry_onward ..)).trans (replicate_onward ..)).trans (trySeal_onward ..)

theorem reassigned_stripe (s : State) (st : Nat) (e : JEntry) : (reassigned s st e).stripe = e.stripe :=
  List.foldlRecOn (motive := fun x : JEntry => x.stripe = e.stripe) _ _ rfl fun _ own _ _ => own

theorem reassessed_stripe (s : State) (st : Nat) (e : JEntry) : (reassessed s st e).stripe = e.stripe := reassigned_stripe s st e

/-- Sealing leaves the entries of other stripes as they are. -/
theorem trySeal_others {s : State} {st : Nat} {e : JEntry} (known : AMap.get? s.yrd.journal st = some e) (own : e.stripe = st) {q : Nat} (other : q ≠ st) :
    AMap.get? (trySeal st s).yrd.journal q = AMap.get? s.yrd.journal q := by
  by_cases ready : e.st = .opened ∧ allDone e = true
  · rw [trySeal_seals known ready]
    have own' : ({ e with st := .sealed } : JEntry).stripe = st := own
    refine ((replicate_replicated (get?_setEntry_own own' s) own' _).others q other).trans ?_
    exact get?_setEntry_other (fun same => other (same.symm.trans own')) s
  · rw [trySeal_open known ready]

/-- What sealing leaves of the states of slots, and of the entry's own state. -/
structure Reassessed (s : State) (st : Nat) (e : JEntry) (t : State) : Prop where
  entry : ∃ x, AMap.get? t.yrd.journal st = some x ∧ x.stripe = st ∧ x.slots = (reassessed s st e).slots
    ∧ (x.st = .held ↔ (reassessed s st e).st = .held)
  others : ∀ q, q ≠ st → AMap.get? t.yrd.journal q = AMap.get? s.yrd.journal q
  losses : t.shd = (lossesLogged st (reassigned s st e) (lostSlots s st e (reassigned s st e)) s).shd

theorem reassess_reassessed {s : State} {st : Nat} {e : JEntry} (known : AMap.get? s.yrd.journal st = some e) (own : e.stripe = st)
    (works : ¬(e.st = .safe ∨ e.st = .free)) : Reassessed s st e (reassess st s) := by
  rw [reassess_eq known works]
  have logged := lossesLogged_yrd st (reassigned s st e) (lostSlots s st e (reassigned s st e)) s
  generalize hw : lossesLogged st (reassigned s st e) (lostSlots s st e (reassigned s st e)) s = w at logged
  have own' : (reassessed s st e).stripe = st := (reassessed_stripe s st e).trans own
  generalize hn : reassessed s st e = n at own'
  obtain ⟨⟨x, found, core, -⟩, apart, -⟩ := replicate_replicated (get?_setEntry_own own' w) own' []
  have ownx : x.stripe = st := (of_entryCore core JEntry.stripe fun _ => rfl).trans own'
  have state : x.st = n.st := of_entryCore core JEntry.st fun _ => rfl
  obtain ⟨y, kept, same, unready, ready⟩ := trySeal_entry found ownx
  refine ⟨⟨y, kept, (of_entryCore same JEntry.stripe fun _ => rfl).trans ownx, ?_, ?_⟩, fun q other => ?_, ?_⟩
  · rw [hn]
    exact (of_entryCore same JEntry.slots fun _ => rfl).trans (of_entryCore core JEntry.slots fun _ => rfl)
  · rw [hn]
    by_cases seals : x.st = .opened ∧ allDone x = true
    · rw [(ready seals).1, ← state, seals.1]
      decide
    · rw [unready seals, state]
  · rw [trySeal_others found ownx other, apart q other, get?_setEntry_other (fun same => other (same.symm.trans own')) w, logged]
  · rw [hw]
    exact ((trySeal_journalled st _).frame.same .shd rfl).trans ((replicate_journalled st [] (setEntry n w)).frame.same .shd rfl)

/-! ## Stripes held or freed (R363, R373) -/

/-- A loss is logged with its member. -/
theorem logLoss_member (stripe member part cause ds erasures : Nat) (s : State) :
    ∃ l, (logLoss stripe member part cause ds erasures s).shd.lossLog = s.shd.lossLog ++ [l] ∧ l.stripe = stripe ∧ l.member = member ∧ l.cause = cause := by
  unfold logLoss
  extract_lets serial l s1 s2
  have told : s2.shd = s1.shd := each_keeps State.shd (fun x v => by
    split
    · exact (sendMsg_frame ..).same .shd rfl
    · rfl) _ s1
  have logged : s1.shd.lossLog = s.shd.lossLog ++ [l] := appendLoss_lossLog ..
  refine ⟨l, ?_, rfl, rfl, rfl⟩
  rw [← logged, ← told]
  split
  · exact congrArg Shd.lossLog ((deferError_frame ..).same .shd rfl)
  · rfl

/-- A loss of a slot of a stripe. -/
def LossOf (st member : Nat) (v : State) : Prop := ∃ l ∈ v.shd.lossLog, l.stripe = st ∧ l.member = member ∧ l.cause = 2

theorem LossOf.logLoss {st member : Nat} {v : State} (h : LossOf st member v) (stripe j part cause ds n : Nat) : LossOf st member (logLoss stripe j part cause ds n v) := by
  obtain ⟨l, mem, is⟩ := h
  obtain ⟨x, log, -⟩ := logLoss_member stripe j part cause ds n v
  exact ⟨l, by rw [log]; exact List.mem_append_left _ mem, is⟩

theorem lossesLogged_logs (st : Nat) {x : JEntry} {ks : List Nat} {k : Nat} (mem : k ∈ ks) (open_ : unfinished x k = true) (s : State) :
    LossOf st (slotMember s st k) (lossesLogged st x ks s) := by
  refine each_at (I := SameWalks s) (P := LossOf st (slotMember s st k)) (fun j v walks => ?_) (fun j v walks logged => ?_) (fun v walks => ?_) mem (.refl s)
  · split
    · exact walks.trans ((logLoss_onward ..).walks fun _ => rfl)
    · exact walks
  · split
    · exact logged.logLoss ..
    · exact logged
  · rw [if_pos open_]
    obtain ⟨l, log, is⟩ := logLoss_member st (slotMember v st k) (AMap.getD x.claims k (0, 0)).1 2 (AMap.getD x.claims k (0, 0)).2 0 v
    rw [walks.slotMember] at is log ⊢
    exact ⟨l, by rw [log]; exact List.mem_append_right _ List.mem_cons_self, is⟩

/-- With every holder as it was no role passes. -/
theorem reassigned_same {s : State} {st : Nat} {e : JEntry} (unsealed : e.st ≠ .sealed)
    (holders : ∀ r, r < e.m → AMap.getD e.holders (r + 1) 0xFF = roleHolder s e.rework st (r + 1)) : reassigned s st e = e := by
  unfold reassigned
  rw [List.filter_eq_nil_iff.mpr]
  · rfl
  · intro r mem
    rw [if_neg unsealed]
    simpa using holders r (List.mem_range.mp mem)

theorem mem_lostSlots {s : State} {st : Nat} {e : JEntry} {k : Nat} (below : k < e.k) (lost : memberState s (slotMember s st k) = 2)
    (open_ : AMap.getD e.slots k 0 = 0 ∨ unfinished e k = true) : k ∈ lostSlots s st e e := by
  refine List.mem_filter.mpr ⟨List.mem_range.mpr below, ?_⟩
  have state : AMap.getD e.slots k 0 ≠ 2 := by
    rcases open_ with none | claimed
    · omega
    · unfold unfinished at claimed
      simp only [Bool.and_eq_true, beq_iff_eq] at claimed
      omega
  rcases open_ with none | claimed
  · simp [lost, none]
  · simp [lost, state, claimed]

/-- A slot of an ABSENT member is as unfinished as it was. -/
theorem unfinished_slotsNulled {s : State} {st : Nat} {e : JEntry} {k : Nat} (absent : memberState s (slotMember s st k) = 1) :
    unfinished (slotsNulled s st e e) k = unfinished e k := by
  have slot : AMap.get? (slotsNulled s st e e).slots k = if k ∈ lostSlots s st e e ++ passedSlots s st e e then some 2 else AMap.get? e.slots k := get?_sets ..
  by_cases null : k ∈ lostSlots s st e e ++ passedSlots s st e e
  · have unclaimed : AMap.getD e.slots k 0 = 0 := by
      rcases List.mem_append.mp null with lost | passed
      · have holds := (List.mem_filter.mp lost).2
        simp [absent] at holds
      · have holds := (List.mem_filter.mp passed).2
        simp only [Bool.and_eq_true, beq_iff_eq] at holds
        exact holds.1.2
    rw [if_pos null] at slot
    unfold unfinished AMap.getD
    rw [slot]
    unfold AMap.getD at unclaimed
    rw [unclaimed]
    rfl
  · rw [if_neg null] at slot
    unfold unfinished AMap.getD
    rw [slot]
    rfl

theorem anyHeld_iff {s : State} {st : Nat} {e : JEntry} : anyHeld s st e (slotsNulled s st e e) = true
    ↔ ∃ k, k < e.k ∧ memberState s (slotMember s st k) = 1 ∧ unfinished e k = true := by
  unfold anyHeld
  rw [List.any_eq_true]
  constructor
  · rintro ⟨k, mem, holds⟩
    simp only [Bool.and_eq_true, beq_iff_eq] at holds
    exact ⟨k, List.mem_range.mp mem, holds.1, by rw [← unfinished_slotsNulled holds.1]; exact holds.2⟩
  · rintro ⟨k, below, absent, claimed⟩
    exact ⟨k, List.mem_range.mpr below, by rw [unfinished_slotsNulled absent]; simp [absent, claimed]⟩

/-- A stripe in use under a new member map, its holders as they were. -/
theorem reassess_frees {s : State} {st : Nat} {e : JEntry} (known : AMap.get? s.yrd.journal st = some e) (own : e.stripe = st)
    (used : e.st = .opened ∨ e.st = .held) (holders : ∀ r, r < e.m → AMap.getD e.holders (r + 1) 0xFF = roleHolder s e.rework st (r + 1)) :
    ∃ x, AMap.get? (reassess st s).yrd.journal st = some x
      ∧ (x.st = .held ↔ ∃ k, k < e.k ∧ memberState s (slotMember s st k) = 1 ∧ unfinished e k = true)
      ∧ ∀ k, k < e.k → memberState s (slotMember s st k) = 2 → AMap.getD e.slots k 0 = 0 ∨ unfinished e k = true →
          AMap.get? x.slots k = some 2 ∧ (unfinished e k = true → LossOf st (slotMember s st k) (reassess st s)) := by
  have unsealed : e.st ≠ .sealed := by rcases used with h | h <;> rw [h] <;> decide
  have works : ¬(e.st = .safe ∨ e.st = .free) := by rcases used with h | h <;> rw [h] <;> decide
  obtain ⟨⟨x, found, -, slots, held⟩, -, losses⟩ := reassess_reassessed known own works
  have same := reassigned_same unsealed holders
  rw [same] at losses
  have state : (reassessed s st e).st = if anyHeld s st e (slotsNulled s st e e) then .held else .opened := by
    unfold reassessed
    rw [same]
    exact if_neg unsealed
  refine ⟨x, found, held.trans ?_, fun k below lost open_ => ⟨?_, fun claimed => ?_⟩⟩
  · rw [state, ← anyHeld_iff]
    cases anyHeld s st e (slotsNulled s st e e) <;> decide
  · rw [slots]
    unfold reassessed
    rw [same]
    refine (get?_sets ..).trans (if_pos (List.mem_append_left _ (mem_lostSlots below lost open_)))
  · obtain ⟨l, mem, is⟩ := lossesLogged_logs st (mem_lostSlots below lost open_) claimed s
    exact ⟨l, by rw [losses]; exact mem, is⟩

end Sys2Proof.Machine
end

/-! A new epoch is adopted: entries that change their coordinator, the record, the Yard page and the commands (O57). -/

section

namespace Sys2Proof.Machine

/-! ## Tables of entries -/

/-- Every entry found is that of its stripe. -/
def Keyed (m : AMap JEntry) : Prop := ∀ k e, AMap.get? m k = some e → e.stripe = k

/-- Every entry listed is that of its stripe. -/
def KeyedAll (m : AMap JEntry) : Prop := ∀ x ∈ m, x.2.stripe = x.1

theorem KeyedAll.keyed {m : AMap JEntry} (h : KeyedAll m) : Keyed m := fun _ _ found => h _ (mem_of_get? found)

theorem mem_of_mem_set {α : Type} {x : Nat × α} {i : Nat} {v : α} : ∀ {m : AMap α}, x ∈ AMap.set m i v → x = (i, v) ∨ x ∈ m
  | [], mem => .inl (List.mem_singleton.mp mem)
  | (k, w) :: m, mem => by
    unfold AMap.set at mem
    split at mem
    · exact (List.mem_cons.mp mem).imp_right id
    · split at mem
      · exact (List.mem_cons.mp mem).imp_right (List.mem_cons_of_mem _)
      · rcases List.mem_cons.mp mem with rfl | later
        · exact .inr List.mem_cons_self
        · exact (mem_of_mem_set later).imp_right (List.mem_cons_of_mem _)

theorem KeyedAll.set {m : AMap JEntry} (h : KeyedAll m) {k : Nat} {e : JEntry} (own : e.stripe = k) : KeyedAll (AMap.set m k e) := fun x mem => by
  rcases mem_of_mem_set mem with rfl | before
  · exact own
  · exact h x before

theorem KeyedAll.erase {m : AMap JEntry} (h : KeyedAll m) (k : Nat) : KeyedAll (AMap.erase m k) := fun x mem => h x (AMap.mem_erase mem)

theorem Keyed.set {m : AMap JEntry} (h : Keyed m) {k : Nat} {e : JEntry} (own : e.stripe = k) : Keyed (AMap.set m k e) := fun q x found => by
  by_cases here : k = q
  · rw [here, AMap.get?_set_self] at found
    cases found
    rw [own, here]
  · rw [AMap.get?_set_of_ne _ _ here] at found
    exact h q x found

theorem Keyed.erase {m : AMap JEntry} (h : Keyed m) (wf : AMap.wf m = true) (k : Nat) : Keyed (AMap.erase m k) := fun q x found => by
  by_cases here : k = q
  · rw [here, AMap.get?_erase_self _ _ wf] at found
    cases found
  · rw [AMap.get?_erase_of_ne _ here] at found
    exact h q x found

theorem isSome_set {α : Type} {m : AMap α} {q : Nat} (h : (AMap.get? m q).isSome = true) (k : Nat) (v : α) : (AMap.get? (AMap.set m k v) q).isSome = true := by
  by_cases here : k = q
  · rw [here, AMap.get?_set_self]
    rfl
  · rwa [AMap.get?_set_of_ne _ _ here]

theorem mem_keys_of_isSome {α : Type} {m : AMap α} {k : Nat} (h : (AMap.get? m k).isSome = true) : k ∈ m.map Prod.fst := by
  obtain ⟨v, found⟩ := Option.isSome_iff_exists.mp h
  exact List.mem_map.mpr ⟨_, mem_of_get? found, rfl⟩

/-! ## Entries handed over (R362) -/

/-- An entry has left for its coordinator, kept as a copy where this member is a replica. -/
def handedAway (k : Nat) (e : JEntry) (s : State) : State :=
  updYrd (fun y => { y with
    journal := AMap.erase y.journal k, replicas := if (replicasOf s k).contains s.yrd.member then AMap.set y.replicas k e else y.replicas }) s

/-- What is left of the tables when an entry goes to another coordinator. -/
theorem journalHandOver_gives {s : State} {k c : Nat} {e : JEntry} (known : AMap.get? s.yrd.journal k = some e) (coord : coordinator s k = some c)
    (foreign : c ≠ s.yrd.member) : (journalHandOver k s).yrd.journal = AMap.erase s.yrd.journal k
      ∧ ((journalHandOver k s).yrd.replicas = s.yrd.replicas ∨ (journalHandOver k s).yrd.replicas = AMap.set s.yrd.replicas k e) := by
  have away : isSelf s c = false := by simpa [isSelf] using foreign
  have sent : journalHandOver k s = sendMsg (yMsg (handedAway k e s) YT.journal k c 0 0xFF (entryBytes e)) (handedAway k e s) := by
    unfold journalHandOver
    rw [known, coord]
    exact if_neg (by rw [away]; decide)
  have told := sendMsg_told (yMsg (handedAway k e s) YT.journal k c 0 0xFF (entryBytes e)) (handedAway k e s)
  rw [sent, told.of_yrd Yrd.journal fun _ => rfl, told.of_yrd Yrd.replicas fun _ => rfl]
  refine ⟨rfl, ?_⟩
  by_cases replica : (replicasOf s k).contains s.yrd.member = true
  · exact .inr (if_pos replica)
  · exact .inl (if_neg replica)

theorem journalHandOver_cases (k : Nat) (s : State) : journalHandOver k s = s ∨ ∃ e c, AMap.get? s.yrd.journal k = some e ∧ coordinator s k = some c
    ∧ c ≠ s.yrd.member := by
  unfold journalHandOver
  split
  · next e c known coord =>
    split
    · exact .inl rfl
    · next away => exact .inr ⟨e, c, known, coord, by simpa [isSelf] using away⟩
  · exact .inl rfl

theorem journalHandOver_onward (k : Nat) (s : State) : Onward yardTurned s (journalHandOver k s) := by
  unfold journalHandOver
  split
  · split
    · exact .refl _ s
    · refine .trans ?_ (sendMsg_turned ..)
      exact .of_yard rfl rfl
  · exact .refl _ s

/-- What holds while entries are handed over. -/
structure Handing (a v : State) : Prop where
  walks : SameWalks a v
  wf : AMap.wf v.yrd.journal = true
  keyed : Keyed v.yrd.journal
  copies : KeyedAll v.yrd.replicas

theorem Handing.step {a v : State} (h : Handing a v) (k : Nat) : Handing a (journalHandOver k v) := by
  have walks := h.walks.trans ((journalHandOver_onward k v).walks fun _ => rfl)
  rcases journalHandOver_cases k v with same | ⟨e, c, known, coord, foreign⟩
  · rw [same]
    exact h
  · obtain ⟨journal, replicas⟩ := journalHandOver_gives known coord foreign
    refine ⟨walks, by rw [journal]; exact AMap.wf_erase _ _ h.wf, by rw [journal]; exact h.keyed.erase h.wf k, ?_⟩
    rcases replicas with same | stored
    · rw [same]
      exact h.copies
    · rw [stored]
      exact h.copies.set (h.keyed _ _ known)

/-- An entry of another coordinator leaves. -/
theorem Handing.gone {a v : State} (h : Handing a v) {st c : Nat} (coord : coordinator a st = some c) (foreign : c ≠ a.yrd.member) :
    AMap.get? (journalHandOver st v).yrd.journal st = none := by
  cases known : AMap.get? v.yrd.journal st with
  | none =>
    rcases journalHandOver_cases st v with same | ⟨e, _, found, -⟩
    · rw [same]
      exact known
    · rw [known] at found
      cases found
  | some e =>
    rw [(journalHandOver_gives known ((congrFun h.walks.coordinator st).trans coord) (by rw [h.walks.member]; exact foreign)).1]
    exact AMap.get?_erase_self _ _ h.wf

/-- No entry comes while entries are handed over, and no copy goes. -/
theorem Handing.keeps {a v : State} (h : Handing a v) (k st : Nat) : (AMap.get? v.yrd.journal st = none → AMap.get? (journalHandOver k v).yrd.journal st = none)
    ∧ ((AMap.get? v.yrd.replicas st).isSome = true → (AMap.get? (journalHandOver k v).yrd.replicas st).isSome = true) := by
  rcases journalHandOver_cases k v with same | ⟨e, c, known, coord, foreign⟩
  · rw [same]
    exact ⟨id, id⟩
  · obtain ⟨journal, replicas⟩ := journalHandOver_gives known coord foreign
    rw [journal]
    refine ⟨fun none => ?_, fun held => ?_⟩
    · by_cases here : k = st
      · rw [here]
        exact AMap.get?_erase_self _ _ h.wf
      · rw [AMap.get?_erase_of_ne _ here]
        exact none
    · rcases replicas with same | stored
      · rw [same]
        exact held
      · rw [stored]
        exact isSome_set held ..

/-! ## Entries taken over (R366) -/

/-- A copy as its new coordinator takes it. -/
def takenEntry (e : JEntry) : JEntry := { e with awaiting := [], reveal := [], later := [] }

/-- A copy leaves the replicas. -/
def copyTaken (k : Nat) (s : State) : State := updYrd (fun y => { y with replicas := AMap.erase y.replicas k }) s

theorem takeOver_takes {s : State} {k : Nat} {e : JEntry} (copy : AMap.get? s.yrd.replicas k = some e) (coord : coordinator s k = some s.yrd.member)
    (unknown : AMap.get? s.yrd.journal k = none) :
    takeOver k s = setEntry (takenEntry e) (copyTaken k s) := by
  unfold takeOver
  rw [copy, coord]
  exact if_pos ⟨by simp [isSelf], by rw [unknown]; rfl⟩

theorem takeOver_cases (k : Nat) (s : State) : takeOver k s = s
    ∨ ∃ e, AMap.get? s.yrd.replicas k = some e ∧ coordinator s k = some s.yrd.member ∧ AMap.get? s.yrd.journal k = none := by
  unfold takeOver
  split
  · next e c copy coord =>
    split
    · next self =>
      have own : c = s.yrd.member := by simpa [isSelf] using self.1
      exact .inr ⟨e, copy, by rw [coord, own], Option.isNone_iff_eq_none.mp self.2⟩
    · exact .inl rfl
  · exact .inl rfl

theorem takeOver_onward (k : Nat) (s : State) : Onward yardTurned s (takeOver k s) := by
  rcases takeOver_cases k s with same | ⟨e, copy, coord, unknown⟩
  · rw [same]
    exact .refl _ s
  · rw [takeOver_takes copy coord unknown]
    exact .of_yard rfl rfl

/-- What holds while entries are taken over. -/
structure Taking (a v : State) : Prop where
  walks : SameWalks a v
  keyed : Keyed v.yrd.journal
  copies : KeyedAll v.yrd.replicas

section Taking

variable {a v : State} (h : Taking a v)

include h

theorem Taking.step (k : Nat) : Taking a (takeOver k v) := by
  have walks := h.walks.trans ((takeOver_onward k v).walks fun _ => rfl)
  rcases takeOver_cases k v with same | ⟨e, copy, coord, unknown⟩
  · rw [same]
    exact h
  · rw [takeOver_takes copy coord unknown] at walks ⊢
    exact ⟨walks, h.keyed.set rfl, h.copies.erase k⟩

/-- Only the entry of a stripe that this member coordinates comes. -/
theorem Taking.none {st c : Nat} (coord : coordinator a st = some c) (foreign : c ≠ a.yrd.member) (none : AMap.get? v.yrd.journal st = none) (k : Nat) :
    AMap.get? (takeOver k v).yrd.journal st = Option.none := by
  rcases takeOver_cases k v with same | ⟨e, copy, own, unknown⟩
  · rw [same]
    exact none
  · have stripe : e.stripe = k := h.copies.keyed _ _ copy
    have other : e.stripe ≠ st := fun here => by
      rw [h.walks.coordinator, h.walks.member, ← stripe, here, coord] at own
      exact foreign (Option.some.inj own)
    rw [takeOver_takes copy own unknown]
    exact (get?_setEntry_other (e := takenEntry e) other _).trans none

omit h in
theorem takeOver_isSome {st : Nat} (known : (AMap.get? v.yrd.journal st).isSome = true) (k : Nat) : (AMap.get? (takeOver k v).yrd.journal st).isSome = true := by
  rcases takeOver_cases k v with same | ⟨e, copy, own, unknown⟩
  · rw [same]
    exact known
  · rw [takeOver_takes copy own unknown]
    exact isSome_set known ..

/-- A copy is there, or it has become the entry. -/
theorem Taking.either {st : Nat} (either : (AMap.get? v.yrd.journal st).isSome = true ∨ (AMap.get? v.yrd.replicas st).isSome = true) (k : Nat) :
    (AMap.get? (takeOver k v).yrd.journal st).isSome = true ∨ (AMap.get? (takeOver k v).yrd.replicas st).isSome = true := by
  rcases either with known | held
  · exact .inl (takeOver_isSome known k)
  rcases takeOver_cases k v with same | ⟨e, copy, own, unknown⟩
  · rw [same]
    exact .inr held
  · have stripe : e.stripe = k := h.copies.keyed _ _ copy
    rw [takeOver_takes copy own unknown]
    by_cases here : k = st
    · refine .inl ?_
      rw [get?_setEntry_own (e := takenEntry e) (stripe.trans here)]
      rfl
    · refine .inr ?_
      show (AMap.get? (AMap.erase v.yrd.replicas k) st).isSome = true
      rwa [AMap.get?_erase_of_ne _ here]

/-- A copy of a stripe that this member coordinates becomes its entry. -/
theorem Taking.takes {st : Nat} (coord : coordinator a st = Option.some a.yrd.member)
    (either : (AMap.get? v.yrd.journal st).isSome = true ∨ (AMap.get? v.yrd.replicas st).isSome = true) : (AMap.get? (takeOver st v).yrd.journal st).isSome = true := by
  cases known : AMap.get? v.yrd.journal st with
  | some e => exact takeOver_isSome (by rw [known]; rfl) st
  | none =>
    rcases either with found | held
    · rw [known] at found
      cases found
    · obtain ⟨e, copy⟩ := Option.isSome_iff_exists.mp held
      have own : e.stripe = st := h.copies.keyed _ _ copy
      have stripe : (takenEntry e).stripe = st := own
      rw [takeOver_takes copy (by rw [h.walks.coordinator, h.walks.member]; exact coord) known, get?_setEntry_own stripe]
      rfl

end Taking

/-! ## Entries reassessed and opened again (R363, R366) -/

/-- A new member map brings no entry and takes none. -/
theorem reassess_keeps {s : State} (keyed : Keyed s.yrd.journal) (k : Nat) : Keyed (reassess k s).yrd.journal
    ∧ ∀ st, (AMap.get? (reassess k s).yrd.journal st).isSome = (AMap.get? s.yrd.journal st).isSome := by
  cases known : AMap.get? s.yrd.journal k with
  | none =>
    rw [reassess_unknown known]
    exact ⟨keyed, fun _ => rfl⟩
  | some e =>
    by_cases idle : e.st = .safe ∨ e.st = .free
    · rw [reassess_idle known idle]
      exact ⟨keyed, fun _ => rfl⟩
    · obtain ⟨⟨x, found, own, -⟩, others, -⟩ := reassess_reassessed known (keyed k e known) idle
      refine ⟨fun q y there => ?_, fun st => ?_⟩
      · by_cases here : q = k
        · rw [here, found] at there
          cases there
          rw [own, here]
        · rw [others q here] at there
          exact keyed q y there
      · by_cases here : st = k
        · rw [here, found, known]
          rfl
        · rw [others st here]

theorem newEntry_stripe (s : State) (st : Nat) (rework : Bool) : (newEntry s st rework).stripe = st := rfl

/-- A stripe that is opened again has an entry of its own; no other entry changes. -/
theorem rebuildEntry_journal (k : Nat) (s : State) : (rebuildEntry k s).yrd.journal = s.yrd.journal
    ∨ ∃ e : JEntry, e.stripe = k ∧ (rebuildEntry k s).yrd.journal = AMap.set s.yrd.journal k e := by
  unfold rebuildEntry
  split
  · exact .inl rfl
  · next d _ =>
    have sent : ∀ (xs : List Nat) (v : State), (each (fun i s => if isSelf s i then s else sendMsg (yMsg s YT.stateQuery k i 0 0xFF []) s) xs v).yrd.journal = v.yrd.journal :=
      fun xs v => each_keeps (fun v : State => v.yrd.journal) (fun i v => by
        split
        · rfl
        · exact (sendMsg_told ..).of_yrd Yrd.journal fun _ => rfl) xs v
    have opens : ∀ (e : JEntry) (xs : List Nat), e.stripe = k → (each (fun i s => if isSelf s i then s else sendMsg (yMsg s YT.stateQuery k i 0 0xFF []) s) xs
        (updYrd (fun y => { y with accums := y.accums.filter fun a => a.stripe != k || a.isSealed }) (setEntry e s))).yrd.journal = AMap.set s.yrd.journal k e :=
      fun e xs own => (sent xs _).trans (congrArg (fun i => AMap.set s.yrd.journal i e) own)
    refine .inr ?_
    dsimp only
    split
    · refine ⟨_, ?_, opens _ _ ?_⟩ <;> exact newEntry_stripe s k false
    · refine ⟨_, ?_, opens _ _ ?_⟩ <;> exact newEntry_stripe s k false

theorem rebuildEntry_onward (k : Nat) (s : State) : Onward yardTurned s (rebuildEntry k s) := by
  unfold rebuildEntry
  split
  · exact .refl _ s
  · dsimp only
    refine .trans ?_ (.each (fun i v => ?_) _ _)
    · exact .of_yard rfl rfl
    · split
      · exact .refl _ v
      · exact sendMsg_turned ..

/-! ## Entries under the new roles -/

/-- Entries are handed over, taken over and reassessed, and stripes without journal holders are opened again. -/
def entriesReassessed (a : State) : State :=
  let b := each journalHandOver (a.yrd.journal.map Prod.fst) a
  let c := each takeOver (b.yrd.replicas.map Prod.fst) b
  each reassess (c.yrd.journal.map Prod.fst) c

def entriesTurned (old a : State) : State := each rebuildEntry (orphanStripes old (entriesReassessed a)) (entriesReassessed a)

theorem entriesReassessed_onward (a : State) : Onward yardTurned a (entriesReassessed a) :=
  ((Onward.each journalHandOver_onward _ a).trans (.each takeOver_onward _ _)).trans (.each reassess_onward _ _)

theorem entriesTurned_onward (old a : State) : Onward yardTurned a (entriesTurned old a) :=
  (entriesReassessed_onward a).trans (.each rebuildEntry_onward _ _)

/-- Every orphan stripe is one that this member coordinates. -/
theorem coordinator_of_orphan {old s : State} {k : Nat} (mem : k ∈ orphanStripes old s) : coordinator s k = some s.yrd.member := by
  have holds := (List.mem_filter.mp mem).2
  simp only [Bool.and_eq_true, beq_iff_eq] at holds
  exact holds.1.1

section Turned

variable {a : State} (wf : AMap.wf a.yrd.journal = true) (keyed : KeyedAll a.yrd.journal) (copies : KeyedAll a.yrd.replicas) {st c : Nat}
  (coord : coordinator a st = some c)

include wf keyed copies coord

/-- An entry that another member coordinates now is gone. -/
theorem entriesReassessed_gone (foreign : c ≠ a.yrd.member) (known : (AMap.get? a.yrd.journal st).isSome = true) :
    AMap.get? (entriesReassessed a).yrd.journal st = none := by
  have start : Handing a a := ⟨.refl a, wf, keyed.keyed, copies⟩
  have gone : AMap.get? (each journalHandOver (a.yrd.journal.map Prod.fst) a).yrd.journal st = none :=
    each_at (I := Handing a) (P := fun v => AMap.get? v.yrd.journal st = none) (fun k _ h => h.step k) (fun k _ h none => (h.keeps k st).1 none)
      (fun _ h => h.gone coord foreign) (mem_keys_of_isSome known) start
  have handed : Handing a (each journalHandOver (a.yrd.journal.map Prod.fst) a) := each_inv _ start fun k _ _ h => h.step k
  unfold entriesReassessed
  dsimp only
  generalize each journalHandOver (a.yrd.journal.map Prod.fst) a = b at gone handed ⊢
  obtain ⟨taken, absent⟩ := each_inv (P := fun v => Taking a v ∧ AMap.get? v.yrd.journal st = none) (f := takeOver) (b.yrd.replicas.map Prod.fst)
    ⟨⟨handed.walks, handed.keyed, handed.copies⟩, gone⟩ fun k _ _ ⟨h, unknown⟩ => ⟨h.step k, h.none coord foreign unknown k⟩
  generalize each takeOver (b.yrd.replicas.map Prod.fst) b = d at taken absent ⊢
  have kept := each_inv (P := fun v => Keyed v.yrd.journal ∧ AMap.get? v.yrd.journal st = none) (f := reassess) (d.yrd.journal.map Prod.fst)
    ⟨taken.keyed, absent⟩ fun k _ v ⟨h, unknown⟩ => by
      obtain ⟨still, same⟩ := reassess_keeps h k
      refine ⟨still, Option.isNone_iff_eq_none.mp ?_⟩
      rw [← Option.not_isSome, same st, unknown]
      rfl
  exact kept.2

theorem entriesTurned_gone (old : State) (foreign : c ≠ a.yrd.member) (known : (AMap.get? a.yrd.journal st).isSome = true) :
    AMap.get? (entriesTurned old a).yrd.journal st = none := by
  have gone := entriesReassessed_gone wf keyed copies coord foreign known
  have walks := (entriesReassessed_onward a).walks fun _ => rfl
  unfold entriesTurned
  refine each_inv (P := fun v : State => AMap.get? v.yrd.journal st = none) _ gone fun k mem v unknown => ?_
  have own := coordinator_of_orphan mem
  rw [walks.coordinator, walks.member] at own
  have other : k ≠ st := fun here => by
    rw [here, coord] at own
    exact foreign (Option.some.inj own)
  rcases rebuildEntry_journal k v with same | ⟨e, -, set⟩
  · rw [same]
    exact unknown
  · rw [set, AMap.get?_set_of_ne _ _ other]
    exact unknown

/-- A copy of a stripe that this member coordinates now has become its entry. -/
theorem entriesTurned_taken (old : State) (own : c = a.yrd.member) (held : (AMap.get? a.yrd.replicas st).isSome = true) :
    (AMap.get? (entriesTurned old a).yrd.journal st).isSome = true := by
  rw [own] at coord
  have start : Handing a a := ⟨.refl a, wf, keyed.keyed, copies⟩
  obtain ⟨handed, stays⟩ := each_inv (P := fun v => Handing a v ∧ (AMap.get? v.yrd.replicas st).isSome = true) (f := journalHandOver) (a.yrd.journal.map Prod.fst)
    ⟨start, held⟩ fun k _ _ ⟨h, copy⟩ => ⟨h.step k, (h.keeps k st).2 copy⟩
  unfold entriesTurned
  generalize orphanStripes old (entriesReassessed a) = orphans
  unfold entriesReassessed
  dsimp only
  generalize each journalHandOver (a.yrd.journal.map Prod.fst) a = b at handed stays ⊢
  have begun : Taking a b := ⟨handed.walks, handed.keyed, handed.copies⟩
  have entered : (AMap.get? (each takeOver (b.yrd.replicas.map Prod.fst) b).yrd.journal st).isSome = true :=
    each_at (I := fun v => Taking a v ∧ ((AMap.get? v.yrd.journal st).isSome = true ∨ (AMap.get? v.yrd.replicas st).isSome = true))
      (P := fun v => (AMap.get? v.yrd.journal st).isSome = true) (fun k _ ⟨h, either⟩ => ⟨h.step k, h.either either k⟩) (fun k _ _ known => takeOver_isSome known k)
      (fun _ ⟨h, either⟩ => h.takes coord either) (mem_keys_of_isSome stays) ⟨begun, .inr stays⟩
  have taken : Taking a (each takeOver (b.yrd.replicas.map Prod.fst) b) := each_inv _ begun fun k _ _ h => h.step k
  generalize each takeOver (b.yrd.replicas.map Prod.fst) b = d at taken entered ⊢
  have kept := each_inv (P := fun v => Keyed v.yrd.journal ∧ (AMap.get? v.yrd.journal st).isSome = true) (f := reassess) (d.yrd.journal.map Prod.fst)
    ⟨taken.keyed, entered⟩ fun k _ v ⟨h, known⟩ => by
      obtain ⟨still, same⟩ := reassess_keeps h k
      exact ⟨still, (same st).trans known⟩
  refine each_inv (P := fun v : State => (AMap.get? v.yrd.journal st).isSome = true) _ kept.2 fun k _ v known => ?_
  rcases rebuildEntry_journal k v with same | ⟨e, -, set⟩
  · rw [same]
    exact known
  · rw [set]
    exact isSome_set known ..

end Turned

end Sys2Proof.Machine
end

/-! A committed record takes effect (O57). -/

section

namespace Sys2Proof.Machine

/-! ## The record and the Yard page (R345, R361, R374) -/

/-- The record is the member's. -/
def epochTaken (r : EpochRec) (s : State) : State := updYrd (fun y => { y with
  epoch := r.epoch, boundary := r.boundary, map := r.map, history := y.history ++ [r], adopted := none, change := none, awaitReply := [] }) s

/-- The Yard page is written with the record, and the commit counted. -/
def epochWritten (r : EpochRec) (s : State) : State := writeYardPage (inc 0x0F0118 (takeGeneration r (epochTaken r s)))

/-- The Yard without a generation's fields. -/
def yardUngenerated (y : Yrd) : Yrd := { y with
  desc := none, nextDesc := none, oldDescs := [], wantGen := 0, wantDigest := [], reshapeBound := 0, reshapePos := 0, reshapeR := 0, reshapeSent := none }

theorem takeGeneration_yrd (r : EpochRec) (s : State) : yardUngenerated (takeGeneration r s).yrd = yardUngenerated s.yrd
    ∧ takeGeneration r s = { s with yrd := (takeGeneration r s).yrd } := by
  unfold takeGeneration
  split
  · split
    · exact ⟨rfl, rfl⟩
    · exact ⟨rfl, rfl⟩
  · exact ⟨rfl, rfl⟩

theorem epochWritten_of_yrd {β : Type} (g : Yrd → β) (apart : ∀ y, g (yardUngenerated y) = g y) (r : EpochRec) (s : State) :
    g (epochWritten r s).yrd = g { (epochTaken r s).yrd with pageSeq := s.yrd.pageSeq + 1 } := by
  have taken := (takeGeneration_yrd r (epochTaken r s)).1
  have written : (epochWritten r s).yrd = { (takeGeneration r (epochTaken r s)).yrd with pageSeq := (takeGeneration r (epochTaken r s)).yrd.pageSeq + 1 } := rfl
  have seq : (takeGeneration r (epochTaken r s)).yrd.pageSeq = s.yrd.pageSeq := (congrArg Yrd.pageSeq taken :)
  rw [written, seq, ← apart, ← apart { (epochTaken r s).yrd with pageSeq := s.yrd.pageSeq + 1 }]
  exact congrArg (fun y : Yrd => g { y with pageSeq := s.yrd.pageSeq + 1 }) taken

/-- What writing the record leaves of the rest of the machine. -/
structure Written (s t : State) : Prop where
  cfg : t.cfg = s.cfg
  counted : ctr t 0x0F0118 = satAdd (ctr s 0x0F0118) 1
  hq : t.hq = s.hq

theorem epochWritten_written (r : EpochRec) (s : State) : Written s (epochWritten r s) := by
  have rest := (takeGeneration_yrd r (epochTaken r s)).2
  have same : ∀ v : State, Written v (writeYardPage (inc 0x0F0118 v)) := fun v =>
    ⟨rfl, show ctr (inc 0x0F0118 v) 0x0F0118 = _ by rw [ctr_inc, if_pos rfl], rfl⟩
  unfold epochWritten
  obtain ⟨cfg, counted, hq⟩ := same (takeGeneration r (epochTaken r s))
  rw [rest] at cfg counted hq
  rw [rest]
  exact ⟨cfg, counted, hq⟩

/-- The page holds the record's epoch. -/
theorem epochWritten_page (r : EpochRec) (s : State) (wf : Memory.wf (some 0#8) s.cartMem = true) :
    beAt (cmRead (epochWritten r s) (0x1000 + 0x800 * ((s.yrd.pageSeq + 1) % 2)) 2048) 68 4 = r.epoch % 2 ^ 32 := by
  obtain ⟨same, rest⟩ := takeGeneration_yrd r (epochTaken r s)
  have wf' : Memory.wf (some 0#8) (inc 0x0F0118 (takeGeneration r (epochTaken r s))).cartMem = true := by
    rw [rest]
    exact wf
  have read := cmRead_writeYardPage (inc 0x0F0118 (takeGeneration r (epochTaken r s))) wf'
  have seq : (inc 0x0F0118 (takeGeneration r (epochTaken r s))).yrd.pageSeq = s.yrd.pageSeq := (congrArg Yrd.pageSeq same :)
  rw [seq] at read
  unfold epochWritten
  rw [read, (yardPage_reads _).1]
  exact congrArg (· % 2 ^ 32) (congrArg Yrd.epoch same :)

/-- A descriptor of the record's generation becomes current. -/
theorem epochWritten_generation {r : EpochRec} {s : State} {d o : Desc} (next : s.yrd.nextDesc = some d) (now : s.yrd.desc = some o) (gen : d.gen = r.gen)
    (later : o.gen < r.gen) : (epochWritten r s).yrd.desc = some d ∧ (epochWritten r s).yrd.nextDesc = none
      ∧ (epochWritten r s).yrd.oldDescs = s.yrd.oldDescs ++ [(r.boundary, o)] ∧ (epochWritten r s).yrd.reshapeBound = r.boundary := by
  have taken : takeGeneration r (epochTaken r s) = updYrd (fun y => { y with
      desc := some d, nextDesc := none, oldDescs := y.oldDescs ++ [(r.boundary, o)], wantGen := d.gen, wantDigest := sha384 d.raw,
      reshapeBound := r.boundary, reshapePos := 0, reshapeR := 0, reshapeSent := none }) (epochTaken r s) := by
    unfold takeGeneration
    rw [show (epochTaken r s).yrd.nextDesc = some d from next, show (epochTaken r s).yrd.desc = some o from now]
    exact if_pos ⟨gen, later⟩
  unfold epochWritten
  rw [writeYardPage_yrd, show ∀ v : State, (inc 0x0F0118 v).yrd = v.yrd from fun _ => rfl, taken]
  exact ⟨rfl, rfl, rfl, rfl⟩

/-! ## After the entries (R360, R362) -/

/-- Accumulators of roles that have passed to another member are freed. -/
def rolesKept (s : State) : State :=
  let keep := fun (a : Accum) => a.isSealed || roleHolder s (reworking s a.stripe) a.stripe a.role == s.yrd.member
  each freeAccum (s.yrd.accums.filter fun a => !keep a) (updYrd (fun y => { y with accums := y.accums.filter keep }) s)

/-- Claims are sent again under the new roles. -/
def claimsResent (old s : State) : State := updYrd (fun y => { y with nacked := [] }) (each (resend old) s.yrd.claims s)

/-- Messages held for the epoch are delivered. -/
def heldDelivered (r : EpochRec) (s : State) : State :=
  updFab (fun f => { f with delivered := f.delivered ++ (s.yrd.heldMsgs.filter fun m => decide (m.epoch ≤ r.epoch)).map fun m => ⟨msgBytes m, none⟩ })
    (updYrd (fun y => { y with heldMsgs := s.yrd.heldMsgs.filter fun m => decide (r.epoch < m.epoch) }) s)

theorem heldDelivered_yrd (r : EpochRec) (s : State) :
    (heldDelivered r s).yrd = { s.yrd with heldMsgs := s.yrd.heldMsgs.filter fun m => decide (r.epoch < m.epoch) } := rfl

theorem heldDelivered_delivered (r : EpochRec) (s : State) : (heldDelivered r s).fab.delivered
    = s.fab.delivered ++ (s.yrd.heldMsgs.filter fun m => decide (m.epoch ≤ r.epoch)).map fun m => ⟨msgBytes m, none⟩ := rfl

/-- The machine as the messages held are delivered, and as its commands are about to end. -/
def epochEntered (r : EpochRec) (s : State) : State := claimsResent s (rolesKept (entriesTurned s (epochWritten r s)))

def epochServed (r : EpochRec) (s : State) : State := restartRecons (voidClaims s (heldDelivered r (epochEntered r s)))

theorem adoptEpoch_later {r : EpochRec} {s : State} (later : s.yrd.epoch < r.epoch) : adoptEpoch r s = startChange (finishWants r (epochServed r s)) := by
  unfold adoptEpoch
  rw [if_neg (by omega)]
  extract_lets s1 s2 s3 s4 s5 s6 keep s7 s8 held s9
  have written : s2 = epochWritten r s := rfl
  have again : s5 = entriesReassessed s2 := rfl
  have turned : s6 = each rebuildEntry (orphanStripes s s5) s5 := rfl
  have roles : s7 = rolesKept s6 := rfl
  have resent : s8 = claimsResent s s7 := rfl
  have delivered : s9 = heldDelivered r s8 := rfl
  rw [delivered, resent, roles, turned, again, written]
  rfl

theorem adoptEpoch_old {r : EpochRec} {s : State} (old : r.epoch ≤ s.yrd.epoch) : adoptEpoch r s = s := if_pos old

theorem rolesKept_onward (s : State) : Onward yardAside s (rolesKept s) := by
  unfold rolesKept
  refine .trans ?_ (.each freeAccum_onward _ _)
  exact .of_yard rfl rfl

theorem claimsResent_onward (old s : State) : Onward yardAside s (claimsResent old s) :=
  (Onward.each (resend_onward old) _ s).trans (.of_yard rfl rfl)

theorem heldDelivered_onward (r : EpochRec) (s : State) : Onward yardEnded s (heldDelivered r s) :=
  ⟨rfl, rfl, rfl, rfl, fun _ mem => List.mem_append_left _ mem, fun _ found => found⟩

/-- The Yard without what follows the stripes' entries, and the changes wanted. -/
def yardWanted (y : Yrd) : Yrd := { yardAside y with wants := [], change := none }

theorem complete_onward (g : Yrd → Yrd) (q result : Nat) (s : State) : Onward g s (complete q Status.ok result s) := by
  have frame := complete_frame q Status.ok result s
  have ctrs := complete_ctrs (st := Status.ok) (by decide) (by decide) q result s
  refine ⟨congrArg g (frame.same .yrd rfl), frame.same .cfg rfl, frame.same .cartMem rfl, by unfold ctr; rw [ctrs], fun d mem => by rwa [frame.same .fab rfl],
    fun n found => ?_⟩
  by_cases here : n = q
  · obtain ⟨c, known⟩ := Option.isSome_iff_exists.mp (here ▸ found)
    rw [here, findCmd_complete known]
    rfl
  · rwa [findCmd_complete_other here]

theorem finishWants_onward (r : EpochRec) (s : State) : Onward yardWanted s (finishWants r s) := by
  unfold finishWants
  refine .trans ?_ (.each (fun q v => complete_onward yardWanted q r.epoch v) _ _)
  exact .of_yard rfl rfl

theorem startChange_onward (s : State) : Onward yardWanted s (startChange s) := by
  unfold startChange
  split
  · exact .refl _ s
  · refine .trans ?_ (.each (fun x v => ?_) _ _)
    · exact .of_yard rfl rfl
    · split
      · exact (sendMsg_onward ..).mono fun _ => rfl
      · exact .refl _ v

section Adopted

variable (r : EpochRec) (s : State)

theorem epochEntered_onward : Onward yardTurned (epochWritten r s) (epochEntered r s) :=
  (entriesTurned_onward ..).trans ((rolesKept_onward _).trans (claimsResent_onward ..)).turned

theorem epochServed_onward : Onward yardAside (heldDelivered r (epochEntered r s)) (epochServed r s) := (voidClaims_onward ..).trans (restartRecons_onward _)

theorem changes_onward (v : State) : Onward yardWanted v (startChange (finishWants r v)) := (finishWants_onward ..).trans (startChange_onward _)

/-- From the delivery of the messages held on. -/
theorem adopted_delivers : Onward yardWanted (heldDelivered r (epochEntered r s)) (startChange (finishWants r (epochServed r s))) :=
  ((epochServed_onward r s).mono fun _ => rfl).trans (changes_onward r _)

/-- From the new entries on. -/
theorem adopted_enters : Onward yardEnded (entriesTurned s (epochWritten r s)) (startChange (finishWants r (epochServed r s))) :=
  ((((rolesKept_onward _).trans (claimsResent_onward ..)).mono fun _ => rfl).trans (heldDelivered_onward ..)).trans ((adopted_delivers r s).mono fun _ => rfl)

/-- From the new page on. -/
theorem adopted_keeps : Onward yardKept (epochWritten r s) (startChange (finishWants r (epochServed r s))) :=
  ((entriesTurned_onward ..).mono fun _ => rfl).trans ((adopted_enters r s).mono fun _ => rfl)

end Adopted

section Delivered

variable {r : EpochRec} {a v w : State} (entered : Onward yardTurned a v)

include entered

/-- Messages that the new epoch admits are delivered, and the others are held. -/
theorem Onward.held (after : Onward yardWanted (heldDelivered r v) w) : w.yrd.heldMsgs = a.yrd.heldMsgs.filter (fun m => decide (r.epoch < m.epoch))
    ∧ ∀ x ∈ a.yrd.heldMsgs, x.epoch ≤ r.epoch → ∃ d ∈ w.fab.delivered, d.bytes = msgBytes x := by
  have held : v.yrd.heldMsgs = a.yrd.heldMsgs := entered.of_yrd Yrd.heldMsgs fun _ => rfl
  refine ⟨(after.of_yrd Yrd.heldMsgs fun _ => rfl).trans ?_, fun x mem reached => ⟨⟨msgBytes x, none⟩, after.delivered _ ?_, rfl⟩⟩
  · exact congrArg (List.filter _) held
  · rw [heldDelivered_delivered, held]
    exact List.mem_append_right _ (List.mem_map.mpr ⟨x, List.mem_filter.mpr ⟨mem, decide_eq_true reached⟩, rfl⟩)

theorem Onward.wants (after : Onward yardAside (heldDelivered r v) w) : w.yrd.wants = a.yrd.wants :=
  (after.of_yrd Yrd.wants fun _ => rfl).trans (entered.of_yrd Yrd.wants fun _ => rfl)

theorem Onward.found {q : Nat} (after : Onward yardAside (heldDelivered r v) w) (found : (findCmd a q).isSome = true) : (findCmd w q).isSome = true :=
  after.finds q ((heldDelivered_onward r v).finds q (entered.finds q found))

end Delivered

/-- The one change wanted, which the record holds, ends its command. -/
theorem finishWants_ends {r : EpochRec} {v : State} {w : Want} {q : Nat} (wants : v.yrd.wants = [w]) (of : w.cmd = some q) (found : (findCmd v q).isSome = true)
    (met : (if w.member = 0xFF then w.state == r.gen else AMap.get? r.map w.member == some (w.state, w.host)) = true) :
    Ended (startChange (finishWants r v)) q Status.ok r.epoch ∧ (startChange (finishWants r v)).yrd.wants = [] := by
  obtain ⟨c, known⟩ := Option.isSome_iff_exists.mp found
  have done : finishWants r v = complete q Status.ok r.epoch (updYrd (fun y => { y with wants := [] }) v) := by
    unfold finishWants updYrd
    dsimp only
    rw [wants]
    simp only [List.filter_cons, met, if_true, List.filter_nil, List.filterMap_cons, of, List.filterMap_nil, Bool.not_true, Bool.false_eq_true, if_false]
    rfl
  have none : (complete q Status.ok r.epoch (updYrd (fun y => { y with wants := [] }) v)).yrd.wants = [] :=
    congrArg Yrd.wants ((complete_frame q Status.ok r.epoch (updYrd (fun y => { y with wants := [] }) v)).same .yrd rfl)
  have ended : Ended (complete q Status.ok r.epoch (updYrd (fun y => { y with wants := [] }) v)) q Status.ok r.epoch :=
    Ended.complete (s := updYrd (fun y => { y with wants := [] }) v) known _ _
  rw [done]
  generalize complete q Status.ok r.epoch (updYrd (fun y => { y with wants := [] }) v) = t at none ended ⊢
  rw [show startChange t = t from if_pos (.inr (.inl none))]
  exact ⟨ended, none⟩

/-- What the record writes is still there when the change has taken effect. -/
theorem adopted_of_yrd {β : Type} (g : Yrd → β) (kept : ∀ y, g (yardKept y) = g y) (apart : ∀ y, g (yardUngenerated y) = g y) (r : EpochRec) (s : State) :
    g (startChange (finishWants r (epochServed r s))).yrd = g { (epochTaken r s).yrd with pageSeq := s.yrd.pageSeq + 1 } :=
  ((adopted_keeps r s).of_yrd g kept).trans (epochWritten_of_yrd g apart r s)

/-- Entries that other members coordinate now are gone, and copies of stripes that this member coordinates have become its entries. -/
theorem adopted_entries (r : EpochRec) {s : State} (wf : AMap.wf s.yrd.journal = true) (keyed : ∀ x ∈ s.yrd.journal ++ s.yrd.replicas, x.2.stripe = x.1) {st c : Nat}
    (coord : coordinator (startChange (finishWants r (epochServed r s))) st = some c) :
    (c ≠ s.yrd.member → (AMap.get? s.yrd.journal st).isSome = true → AMap.get? (startChange (finishWants r (epochServed r s))).yrd.journal st = none)
      ∧ (c = s.yrd.member → (AMap.get? s.yrd.replicas st).isSome = true → (AMap.get? (startChange (finishWants r (epochServed r s))).yrd.journal st).isSome = true) := by
  have journal : (epochWritten r s).yrd.journal = s.yrd.journal := epochWritten_of_yrd Yrd.journal (fun _ => rfl) r s
  have replicas : (epochWritten r s).yrd.replicas = s.yrd.replicas := epochWritten_of_yrd Yrd.replicas (fun _ => rfl) r s
  have member : (epochWritten r s).yrd.member = s.yrd.member := epochWritten_of_yrd Yrd.member (fun _ => rfl) r s
  rw [((adopted_keeps r s).walks fun _ => rfl).coordinator] at coord
  rw [(adopted_enters r s).of_yrd Yrd.journal fun _ => rfl, ← journal, ← replicas, ← member]
  rw [← journal] at wf
  rw [← journal, ← replicas] at keyed
  generalize epochWritten r s = a at *
  have entries : KeyedAll a.yrd.journal := fun x mem => keyed x (List.mem_append_left _ mem)
  have copies : KeyedAll a.yrd.replicas := fun x mem => keyed x (List.mem_append_right _ mem)
  exact ⟨entriesTurned_gone wf entries copies coord s, entriesTurned_taken wf entries copies coord s⟩

/-- Settles O57: every step after the Yard page keeps the record, the page, the count, deliveries and commands (`Onward`); an entry changes its
table only while it is handed over (`Handing`), taken over (`Taking`) or reassessed (`reassess_keeps`). -/
theorem newEpochsTakeEffect : Obligations.NewEpochsTakeEffect := by
  intro s m
  refine ⟨fun st h x => standIn_spec, fun heard => ?commit, fun st e known own used holders => reassess_frees known own used holders⟩
  intro r
  have yrd := takeDelivered_yrd m s
  have frame := takeDelivered_frame m s
  have ran : exec (.epochCommit m) s = .next (adoptEpoch r (takeDelivered m s)) := heard.receive _
  have counts := takeDelivered_yardCounts m s
  generalize takeDelivered m s = u at yrd frame ran counts ⊢
  refine ⟨fun old => ⟨u, ?old, yrd, rfl⟩, fun later => ?later⟩
  case old => rw [ran, adoptEpoch_old (by rw [yrd]; exact old)]
  rw [adoptEpoch_later (by rw [yrd]; exact later)] at ran
  have kept := adopted_keeps r u
  have written := epochWritten_written r u
  refine ⟨⟨_, ran, ?record⟩, fun w q c wants of known met => ⟨_, ran, ?ended⟩, fun d o next now gen since => ⟨_, ran, ?generation⟩,
    fun wf keyed => ⟨_, ran, fun st c coord => ?entries⟩⟩
  case record =>
    have seq := adopted_of_yrd Yrd.pageSeq (fun _ => rfl) (fun _ => rfl) r u
    obtain ⟨held, delivered⟩ := (epochEntered_onward r u).held (adopted_delivers r u)
    rw [epochWritten_of_yrd Yrd.heldMsgs (fun _ => rfl) r u, show (epochTaken r u).yrd.heldMsgs = s.yrd.heldMsgs from (congrArg Yrd.heldMsgs yrd :)] at held delivered
    refine ⟨adopted_of_yrd Yrd.epoch (fun _ => rfl) (fun _ => rfl) r u, adopted_of_yrd Yrd.boundary (fun _ => rfl) (fun _ => rfl) r u, adopted_of_yrd Yrd.map (fun _ => rfl) (fun _ => rfl) r u,
      (adopted_of_yrd Yrd.history (fun _ => rfl) (fun _ => rfl) r u).trans (congrArg (fun y : Yrd => y.history ++ [r]) yrd), adopted_of_yrd Yrd.adopted (fun _ => rfl) (fun _ => rfl) r u,
      ?_, seq.trans (congrArg (fun y : Yrd => y.pageSeq + 1) yrd), fun wf => ?_, held, delivered⟩
    · rw [kept.counted, written.counted, counts.same _ (by decide) (by decide)]
    · rw [seq, cmRead_congr kept.page]
      refine (epochWritten_page r u (by rw [frame.same .cartMem rfl]; exact wf)).trans (Nat.mod_eq_of_lt ?_)
      exact beAt_lt m.payload 0 4
  case ended =>
    have entered := epochEntered_onward r u
    have served := epochServed_onward r u
    refine finishWants_ends ((entered.wants served).trans ?_) of (entered.found served ?_) (by split at met <;> simp [*])
    · exact (epochWritten_of_yrd Yrd.wants (fun _ => rfl) r u).trans ((congrArg Yrd.wants yrd :).trans wants)
    · rw [findCmd_of_hq written.hq, findCmd_of_frame frame rfl q, known]
      rfl
  case generation =>
    obtain ⟨desc, none, olds, bound⟩ := epochWritten_generation (r := r) (s := u) (by rw [yrd]; exact next) (by rw [yrd]; exact now) gen since
    refine ⟨(kept.of_yrd Yrd.desc fun _ => rfl).trans desc, (kept.of_yrd Yrd.nextDesc fun _ => rfl).trans none,
      (kept.of_yrd Yrd.oldDescs fun _ => rfl).trans (olds.trans (by rw [yrd])), (kept.of_yrd Yrd.reshapeBound fun _ => rfl).trans bound⟩
  case entries =>
    have turned := adopted_entries r (s := u) (by rw [yrd]; exact wf) (by rw [yrd]; exact keyed) coord
    rw [yrd] at turned
    exact turned

end Sys2Proof.Machine
end
